-- ==== Sys2Proof/Word.lean ====
section
/-!
DEFINITION. The words and bytes of the node: bytes, 64-bit registers and byte strings (R13: little-endian).
-/
namespace Sys2Proof

/-- One byte. -/
abbrev Byte := BitVec 8

/-- One 64-bit register, header word or memory word. -/
abbrev W64 := BitVec 64

/-- A byte string, byte 0 first (R13). -/
abbrev Bytes := List Byte

/-- A sparse table keyed by number, kept in rising key order by `Tbl.put` (Sys2Proof/Machine/Ops.lean). -/
abbrev Tbl (α : Type) := List (Nat × α)

end Sys2Proof
end

