-- ==== Sys2Proof/Types.lean ====
section
/-!
DEFINITION. The records that commands carry and the state holds: statuses, requests, flits, the headwater image and its
sections, keys, keeper objects and the structures of the rill, mill, shoal, attention, embedding and search chapters.
-/
namespace Sys2Proof

/-! ## Codes -/

/-- Status codes (Table 08-10). -/
inductive Status where
  | ok | short | overrun | underfilled | faultUnmapped | faultPermission | withdrawn | staleMap | ownerLost
  | domainDown | poison | uncorrectable | cancelled | refusedIsolation
  deriving DecidableEq, Repr, Inhabited

/-- Order codes (Table 00-1). -/
inductive OrderCode where
  | ulg8064N | ulg8064H | ulg8032N | ulg8032H
  deriving DecidableEq, Repr, Inhabited

/-- Fabric operations (Table 07-1). -/
inductive Op where
  | load | store | atomic | reduce | mcastStore | confRead | confAtomic | sluicePut | sluiceGet
  | rdShared | rdOwn | upgrade | markDirty | wbDirty | evict
  | snpInv | snpData | snpCur | snpRsp | domainNotice | pinMsg
  deriving DecidableEq, Repr, Inhabited

/-- Range classes (Table 02-10), and ANY for a request no range entry translated (R42). -/
inductive RClass where
  | priv | coherent | sharedRo | sluice | mirror | any
  deriving DecidableEq, Repr, Inhabited

/-- Traffic classes (Table 04-3). -/
inductive TClass where
  | demand | bulk | mill | maintenance
  deriving DecidableEq, Repr, Inhabited

/-- Range coding (Table 02-10). -/
inductive Coding where
  | plain | shoal | riffle
  deriving DecidableEq, Repr, Inhabited

/-- A party of a node, named pool-wide: an extent owner, a sharing-set member, a request's origin, an AGENT (R122). -/
structure Pair where
  node  : Nat
  party : Nat
  deriving DecidableEq, Repr, Inhabited

/-- Where a request came from, which fixes where its completion goes (R23, R149). -/
inductive Src where
  | port (port link : Nat)          -- an Ezlet port and the link that carried the header
  | host (port : Nat)               -- a host port
  | mill (m : Nat)                  -- a mill step
  | rill (rill index chunk : Nat)   -- the rill engine, for a running descriptor's chunk
  | course (rill firing chunk : Nat)   -- a course firing
  | mailbox (node : Nat)            -- a map-agreement slice read from that node
  | migrator                        -- device work
  | engine                          -- a write of the rill engine's own that waits (R174)
  | sluice (window block : Nat)     -- a gateway's own shipping or fetching
  | mirror (setting : Nat)          -- mirror shipping
  | combo (id : Nat)                -- a closed combination of this node's ports
  | far (window piece : Nat)        -- a far gateway's write or read for an inbound piece
  | exch (group node : Nat)         -- the stores of a reply to a requester (R303)
  deriving DecidableEq, Repr, Inhabited

/-- What was found while a request was served: DRAM ECC's lines (OFFSET / 64) (R74), and the bytes that the Riffle decode of its
sub-block produced where they are not 4,096 (R275). -/
structure Ecc where
  corrected     : List Nat := []
  uncorrectable : List Nat := []
  decoded       : Option Nat := none
  deriving DecidableEq, Repr, Inhabited

/-- One request at its home, or on its way there: the header fields of Table 04-3 after translation (R54) and the data
that followed. `id` and `join` are the model's own names for finding the request again. -/
structure Req where
  id       : Nat := 0
  op       : Op := .load
  addr     : Nat := 0            -- pool address (Table 02-1)
  va       : Nat := 0            -- virtual address, or a host's device physical address
  len      : Nat := 0            -- bytes addressed
  data     : Bytes := []
  origin   : Pair := ⟨0, 0⟩
  party    : Nat := 0            -- local party (R23)
  src      : Src := .migrator
  tag      : Nat := 0
  cls      : RClass := .priv
  tclass   : TClass := .demand
  epoch    : Nat := 0
  gen      : Nat := 0            -- composition generation of the source (R48)
  provOk   : Bool := false
  opf      : W64 := 0#64         -- OP_FIELDS (Tables 07-2, 07-3)
  durable  : Bool := false       -- from the range entry (R78)
  coding   : Coding := .plain    -- from the range entry
  ptag     : Option Nat := none  -- PTAG, where the request was answered PROVISIONAL (R137)
  join     : Option Nat := none  -- the split request this is a piece of (R178)
  part     : Nat := 0            -- which piece, in ascending address order; of a whole request that failed, one more than its first failed piece
  asid     : Option Nat := none  -- the context it was translated in by its table, and that table's generation (R59)
  tgen     : Nat := 0
  seen     : List (Nat × Option Bytes) := []   -- COHERENT lines already snooped for it, with an owner's data
  bad      : List Nat := []      -- granules of a STORE that are to be stored as poisoned, by virtual address (R270)
  coded    : Option Nat := none  -- of a STORE of expanded bytes: the coded offset of their block in its transfer (R256)
  queueRace : Option Nat := none -- the race of the admission queue whose credit it debited (R27)
  ecc      : Ecc := {}           -- what the read that it makes when it goes on finds, where it waits after it was begun (R74)
  deriving DecidableEq, Repr, Inhabited

/-! ## Flits (Tables 04-1 to 04-5) -/

/-- One 32-byte cell as four little-endian words. -/
structure Cell where
  w0 : W64 := 0#64
  w1 : W64 := 0#64
  w2 : W64 := 0#64
  w3 : W64 := 0#64
  deriving DecidableEq, Repr, Inhabited

/-- A received or sent flit: its cells 0 to 15, the CRC in the last bytes of cell 15 (Table 04-5), and what the FEC below found (R99): its
corrected symbols and uncorrectable codewords. -/
structure Flit where
  cells      : List Cell := []
  fecSymbols : Nat := 0
  fecUncorr  : Nat := 0
  deriving DecidableEq, Repr, Inhabited

/-- A disposition (Table 04-6). -/
inductive Disp where
  | accept | provisional
  | hold (slots : Nat)
  | refuse (cause : Status)
  deriving DecidableEq, Repr, Inhabited

/-! ## The composition (Tables 02-2 to 02-4) -/

/-- A sharing-set record (Table 02-3): SET_ID as its 16 bits, `rsvd` its reserved bytes and padding as one number. -/
structure SharingSet where
  setId   : Nat
  cls     : RClass
  primary : Bool := false
  members : List Pair
  rsvd    : Nat := 0
  deriving DecidableEq, Repr, Inhabited

/-- Extent owner: a single pair or a sharing set (Table 02-4). -/
inductive Owner where
  | single (p : Pair)
  | set (id : Nat)
  deriving DecidableEq, Repr, Inhabited

/-- An extent entry (Table 02-4): `rsvd` its reserved bits, `unused` the SET_ID or the owner fields that its OWNER_KIND leaves at 0. -/
structure Extent where
  start     : Nat
  units     : Nat                -- length in 4 KiB units
  owner     : Owner
  cls       : RClass
  permAtomic : Bool := false
  permWrite : Bool := false
  permRead  : Bool := true
  rsvd      : Nat := 0
  unused    : Nat := 0
  deriving DecidableEq, Repr, Inhabited

/-- A node's slice: the fields of Table 02-2, NODE as its 16 bits and `rsvd` its reserved bytes as one number. `digest` is the SHA-384 over its signed bytes, `rsaKeys` and `slhKeys` the key-pair digests under which
its RSA and SLH-DSA signatures verify: facts of the bytes that the model takes as data (R40, R343). -/
structure Slice where
  format     : Nat := 1
  rsvd       : Nat := 0
  node       : Nat := 0
  compGen    : Nat := 0
  poolDigest : Nat := 0
  roster     : List Nat := []
  sets       : List SharingSet := []
  extents    : List Extent := []
  length     : Nat := 0
  digest     : Nat := 0
  rsaKeys    : List Nat := []
  slhKeys    : List Nat := []
  deriving DecidableEq, Repr, Inhabited

/-! ## The headwater image (Tables 15-2 to 15-6) -/

/-- A party record (Table 15-4); `rsvd` the bits that the table holds at 0. -/
structure PartyRec where
  rsvd        : Nat := 0
  present     : Bool := false
  pool        : Nat := 0
  hotWays     : Nat := 0
  dirWays     : Nat := 0
  rillFirst   : Nat := 0
  rillCount   : Nat := 0
  cbFirst     : Nat := 0
  cbCount     : Nat := 0
  seqQuota    : Nat := 0xFFFF
  shareGib    : Nat := 0
  mills       : Nat := 0
  rillCacheShare : Nat := 0
  tileShareKib   : Nat := 0
  cbStoreKib  : Nat := 0
  eddyKib     : Nat := 0
  inputKib    : Nat := 0
  cacheWays   : Nat := 0
  hostDpaGib  : Nat := 0
  deriving DecidableEq, Repr, Inhabited

/-- A remote pair entry of the party map (R361). -/
structure RemotePair where
  origin : Pair
  localParty : Nat
  rsvd   : Nat := 0
  deriving DecidableEq, Repr, Inhabited

inductive PortKind where
  | partner | switch | site
  deriving DecidableEq, Repr, Inhabited

/-- A port entry (Table 15-5); `rsvd` the bits that the table holds at 0. -/
structure PortEntry where
  rsvd      : Nat := 0
  valid     : Bool := false
  kind      : PortKind := .partner
  firstLink : Nat := 0
  linksLog2 : Nat := 0
  dedicated : Bool := false
  party     : Nat := 0
  deriving DecidableEq, Repr, Inhabited

/-- A channel set: `2^log2` pseudo-channels of a race from `first`, given to a pool (R16, R363). -/
structure ChannelSet where
  race  : Nat
  first : Nat
  log2  : Nat
  pool  : Nat
  rsvd  : Nat := 0                -- bits [12:10] of its map entries
  deriving DecidableEq, Repr, Inhabited

/-- A valid pool list entry (R363). -/
structure PoolEntry where
  rsvd      : Nat := 0
  pool      : Nat
  isSet     : Bool := false
  owner     : Nat := 0          -- party number or SET_ID
  dirWays   : Nat := 0
  pinQuotaGib : Nat := 0
  deriving DecidableEq, Repr, Inhabited

/-- Node settings (Tables 15-6, 16-5). -/
structure Settings where
  rsvd : Nat := 0
  basinHot : Nat := 0
  basinTile : Nat := 0
  basinCb : Nat := 0
  reachParty : Nat := 0xFF
  counterEpoch : Nat := 16384
  flashBelow : Nat := 8
  riffleBelow : Nat := 64
  plainAbove : Nat := 256
  lowWater : Nat := 2
  highWater : Nat := 4
  durableCap : Nat := 24
  shockThreshold : Nat := 5      -- units of 0.05 g
  shockSamples : Nat := 3
  scrubPeriod : Nat := 24
  braceHoldoff : Nat := 60
  capFullW : Nat := 950
  cap1W : Nat := 800
  cap2W : Nat := 600
  limitW : Nat := 950
  windowMs : Nat := 100
  releaseMs : Nat := 1000
  hystW : Nat := 25
  dieThrottleC : Nat := 100
  stackThrottleC : Nat := 90
  hystC : Nat := 5
  rhWarnPct : Nat := 80
  commitDelayS : Nat := 600
  sealPeriodS : Nat := 3600
  deriving DecidableEq, Repr, Inhabited

/-- Weir table kinds (Table 04-9). -/
inductive WeirKind where
  | full | cap1 | cap2 | spate
  deriving DecidableEq, Repr, Inhabited

structure PairSlot where
  party  : Nat := 0
  tclass : TClass := .demand
  deriving DecidableEq, Repr, Inhabited

/-- A weir slot: its word (Table 04-10). -/
structure WeirSlot where
  word : W64 := 0#64
  deriving DecidableEq, Repr, Inhabited

/-- One row of a crossbar rotation: its word (Table 04-12). -/
structure XbarRow where
  word : W64 := 0#64
  deriving DecidableEq, Repr, Inhabited

/-- A weir table (Table 04-9), as it lies in the weir's SRAM: `isOpen` its MODE, `ovfBytes` the eight bytes of each overflow rotation (Table
04-11), `xbar` the rows of each crossbar rotation. -/
structure WeirTable where
  format : Nat := 1
  kind   : WeirKind := .full
  isOpen : Bool := true
  modelW : Nat := 0
  ovfBytes : List (List Nat) := []
  xbar   : List (List XbarRow) := []
  slots  : List WeirSlot := []
  deriving DecidableEq, Repr, Inhabited

/-- A sluice window entry (Table 07-9). -/
structure SluiceWindow where
  window   : Nat
  read     : Bool := true
  write    : Bool := true
  site     : Bool := false
  mirror   : Bool := false
  blockLog2 : Nat := 16
  farNode  : Nat := 0
  farWindow : Nat := 0
  stageBlocks : Nat := 2
  flushAgeUs : Nat := 100
  len      : Nat := 0
  localBase : Nat := 0
  localParty : Nat := 0
  mirrorSet : Nat := 0
  users    : List Pair := []
  deriving DecidableEq, Repr, Inhabited

/-- A mirror setting (Table 07-10); `index` is its place in the section. -/
structure MirrorSetting where
  index   : Nat
  setId   : Nat
  gateway : Nat
  window  : Nat
  batchPeriod : Nat := 2048
  lagBoundMs : Nat := 1000
  deriving DecidableEq, Repr, Inhabited

/-- A valid delta group entry (Table 07-5). -/
structure DeltaGroup where
  group   : Nat
  member  : Bool := false
  senders : Nat := 0
  deriving DecidableEq, Repr, Inhabited

/-- A valid exchange group entry (Table 12-4). -/
structure ExchangeGroup where
  group    : Nat
  party    : Nat := 0            -- the group's party number, the same on every member
  serveRill : Nat := 0
  slotLog2 : Nat := 16
  areaOff  : Nat := 0
  roster   : List Nat := []
  deriving DecidableEq, Repr, Inhabited

/-- A directory entry of a headwater image (Table 15-2). -/
structure Section where
  type   : Nat
  inst   : Nat := 0
  offset : Nat
  length : Nat := 8
  rsvd   : Nat := 0
  deriving DecidableEq, Repr, Inhabited

/-- A headwater image. `rsaKeys` and `slhKeys` are the operator key-pair digests under which its signatures verify;
The header and the directory stand as they are laid out (Table 15-2, R360), the sections as their parsed contents. -/
structure Headwater where
  rsaKeys   : List Nat := []
  slhKeys   : List Nat := []
  magic     : Nat := 0x4857494D
  format    : Nat := 1
  length    : Nat := 576         -- IMAGE_LENGTH: bytes before the signatures
  sections  : Nat := 8           -- SECTION_COUNT
  directory : List Section := (List.range 6).map (fun i => { type := i + 1, offset := 512 + 8 * i })
                                ++ [{ type := 7, offset := 560 }, { type := 7, inst := 3, offset := 568 }]
  rsvd      : Nat := 0           -- the bits of the header that are to be 0
  svn       : Nat := 0
  rackCheck : Bool := false
  node      : Nat := 0
  rackPos   : Nat := 0
  compGen   : Nat := 0
  deviceId  : Nat := 0x8064
  digest    : Nat := 0
  slice     : Slice := {}
  digests   : Tbl Nat := []      -- SLICE_DIGEST[n]
  parties   : List PartyRec := []
  pairs     : List RemotePair := []
  ports     : List PortEntry := []
  channels  : List ChannelSet := []
  pools     : List PoolEntry := []
  settings  : Settings := {}
  weir      : List WeirTable := []
  windows   : List SluiceWindow := []
  mirrors   : List MirrorSetting := []
  deltas    : List DeltaGroup := []
  groups    : List ExchangeGroup := []
  deriving DecidableEq, Repr, Inhabited

/-- A firmware image: its signatures, its SVN and its digest (Table 14-5, stage 1). -/
structure Firmware where
  rsaKeys : List Nat := []
  slhKeys : List Nat := []
  svn     : Nat := 0
  digest  : Nat := 0
  deriving DecidableEq, Repr, Inhabited

/-- An image in a transfer slot of either component (R396). -/
inductive Image where
  | firmware (f : Firmware)
  | headwater (h : Headwater)
  deriving DecidableEq, Repr, Inhabited

/-! ## Keeper objects -/

/-- The slot states of Table 16-9. -/
inductive SlotState where
  | empty | staged | trial | committed | bad
  deriving DecidableEq, Repr, Inhabited

/-- A signed keeper command (Table 16-2); `rsaKeys`, `slhKeys` as for images. -/
structure Signed where
  cmd      : Nat := 0
  signer   : Nat := 0
  node     : Nat := 0
  counter  : Nat := 0
  device   : Nat := 0            -- DEVICE_DIGEST
  rsaKeys  : List Nat := []
  slhKeys  : List Nat := []
  deriving DecidableEq, Repr, Inhabited

/-- An announcement (Table 02-6). -/
structure Announcement where
  node       : Nat
  compGen    : Nat
  sliceLength : Nat
  poolDigest : Nat
  boot       : Nat
  reply      : Bool
  deriving DecidableEq, Repr, Inhabited

/-- The sensors of Table 16-3, as the rows number them. -/
inductive Sensor where
  | die (i : Fin 48) | stack (i : Fin 8) | railVolt (i : Fin 7) | railCurrent (i : Fin 7) | standby
  | inputVolt | inputCurrent | humidity | film | dramCorrected (i : Fin 8) | eddyCorrected (i : Fin 8)
  | eddyUncorrected (i : Fin 8) | flashRetries | flashRebuilds | flashSpare | retiredFrames (pool : Fin 1024)
  | reachDrops
  deriving DecidableEq, Repr, Inhabited

/-- What the keeper's comparison of a sample with its levels gave (R385): the level reached, after the level's own time
and hysteresis. -/
inductive Level where
  | normal | warning | alarm
  deriving DecidableEq, Repr, Inhabited

/-! ## Operand records of single commands -/

/-- CXL MetaValue (Table 05-5). -/
inductive MetaValue where
  | invalid | shared | any
  deriving DecidableEq, Repr, Inhabited

/-- CXL back-invalidate responses (Table 05-5). -/
inductive BiRsp where
  | i | s | e
  deriving DecidableEq, Repr, Inhabited

/-- One row read by the patrol scrub (R76): the frames that touch it, the corrected lines and whether one line was
uncorrectable. -/
structure ScrubRow where
  race   : Fin 8
  channel : Fin 64
  row    : Nat
  frames : List Nat := []
  corrected : Nat := 0
  uncorrectable : List Nat := []   -- lines (OFFSET / 64) found uncorrectable
  deriving DecidableEq, Repr, Inhabited

/-- What OWNER_LOST finds lost (Table 07-12): the owner's node and the operation. -/
inductive LostOwner where
  | exchange (node : Nat) (rill index : Nat)
  | reduction (node : Nat) (rill index : Nat)
  | sluice (window : Fin 64)
  | mirror (setting : Fin 16)
  | agreement (node : Fin 1024)
  deriving DecidableEq, Repr, Inhabited

/-- What DIAG_READ reads (Table 14-8, R416). -/
inductive DiagTarget where
  | tierMap (page : Nat)
  | eddyStatus (race : Fin 8)
  | eddyData (race : Fin 8) (line : Nat)
  | linkCounters (link : Fin 32)
  | laneStatus (lane : Fin 160)
  | laneControl (lane : Fin 160)
  | linkControl (link : Fin 32)
  | nodeControl (offset : Nat)
  | deviceTable (offset : Nat)
  | fuses
  | partyRange (addr : Nat)
  deriving DecidableEq, Repr, Inhabited

/-- A key pair offered by PROVISION_KEY: its digest and its RSA public exponent (R343). -/
structure KeyPair where
  digest   : Nat
  exponent : Nat
  deriving DecidableEq, Repr, Inhabited

/-- The SPDM transports (R349): the sideband, and the DOE of each host port. -/
inductive Transport where
  | mctp
  | doe (port : Fin 2)
  deriving DecidableEq, Repr, Inhabited

/-- A write through the TAP's LINK_TEST data register (Tables 17-11, 17-13), or none. -/
inductive TestWrite where
  | none
  | lane (lane : Fin 160) (value : W64)
  | link (link : Fin 32) (value : W64)
  deriving DecidableEq, Repr, Inhabited

/-- CXL primary mailbox commands (R400). -/
inductive MailboxCmd where
  | identify | health | poisonList | events | clearEvents
  deriving DecidableEq, Repr, Inhabited

end Sys2Proof
end

