-- ==== Sys2Proof/Syntax.lean ====
section
/-!
DEFINITION. The commands of the block: one constructor per row of spec/opcode_table.json, in the table's order.
Operands are what comes from outside with the event: identities (a link, a race, a party), values written, requests and
flits received, and the facts of the surroundings that the event reports (a training result, an ECC finding, a sample).
-/
namespace Sys2Proof

/-- The commands (spec/opcode_table.json); each docstring is the rule of its row. -/
inductive Instr where
  /-- STANDBY_GOOD (R356). -/
  | standbyGood (good : Bool)
  /-- STANDBY_RETRY (R370). -/
  | standbyRetry (good : Bool)
  /-- FIRMWARE_CHECK (R346). -/
  | firmwareCheck
  /-- STRAP_SAMPLING (R358). -/
  | strapSampling (rounds : List (List (BitVec 8))) (testModeLow : Bool)
  /-- HEADWATER_CHECK (R346). -/
  | headwaterCheck
  /-- MAIN_RAILS_UP (R356). -/
  | mainRailsUp (good : Bool)
  /-- RAIL_RETRY (R370). -/
  | railRetry (good : Bool)
  /-- KEY_UNWRAP (R341). -/
  | keyUnwrap
  /-- DIE_RELEASE (R356). -/
  | dieRelease
  /-- BRAID_RUN_SETTLE (R403). -/
  | braidRunSettle
  /-- DRAM_TRAINING (R365). -/
  | dramTraining (failed : Option (Fin 8 × Fin 64)) (savedGood : Bool)
  /-- FLASH_SCAN (R366). -/
  | flashScan (mapGood : Bool) (rebuilt : List (Fin 32 × Nat × Nat))
  /-- SPATE_RESTORE (R90). -/
  | spateRestore (badUnits : List Nat) (mapReadable : Bool)
  /-- RESERVE_ERASE_COMPLETE (R90). -/
  | reserveEraseComplete
  /-- LINK_TRAINING (R367). -/
  | linkTraining (link : Fin 32) (mated prbsGood flitGood : Bool)
  /-- LINK_TRAIN_RETRY (R367). -/
  | linkTrainRetry (link : Fin 32) (mated prbsGood flitGood : Bool)
  /-- HELLO_FLIT (R422). -/
  | helloFlit (link : Fin 32) (word0 credits : W64)
  /-- AGREEMENT_START_TIMEOUT (R368). -/
  | agreementStartTimeout
  /-- HOST_LINK_TRAINED (R414). -/
  | hostLinkTrained (port : Fin 2) (rateX2 width : Nat)
  /-- PERST_DEASSERT (R372). -/
  | perstDeassert (port : Fin 2)
  /-- ANNOUNCE (R44). -/
  | announce (a : Announcement)
  /-- SLICE_READ_COMPLETE (R44). -/
  | sliceReadComplete (node : Fin 1024) (got : Option Slice)
  /-- ANNOUNCE_RESEND (R44). -/
  | announceResend
  /-- SLICE_REDELIVER (R44). -/
  | sliceRedeliver (node : Fin 1024)
  /-- AGREEMENT_WINDOW_END (R44). -/
  | agreementWindowEnd
  /-- FLIT_SLOT (R93). -/
  | flitSlot (link : Fin 32)
  /-- FLIT_RECEIVED (R99). -/
  | flitReceived (link : Fin 32) (flit : Flit)
  /-- NAK_TIMEOUT (R99). -/
  | nakTimeout (link : Fin 32)
  /-- ACK_TIMEOUT (R101). -/
  | ackTimeout (link : Fin 32)
  /-- RETRAIN_COMPLETE (R413). -/
  | retrainComplete (link : Fin 32)
  /-- RETRAIN_FAILED (R413). -/
  | retrainFailed (link : Fin 32)
  /-- LINK_REJOIN_RETRY (R413). -/
  | linkRejoinRetry (link : Fin 32) (prbsGood flitGood : Bool)
  /-- LANE_FAILURE (R413). -/
  | laneFailure (link : Fin 32) (lane : Fin 4)
  /-- EMPTY_FLIT_DUE (R412). -/
  | emptyFlitDue (link : Fin 32)
  /-- TAG_HOLDOVER_EXPIRY (R106). -/
  | tagHoldoverExpiry (link : Fin 32)
  /-- HELD_PAGE_EXPIRY (R110). -/
  | heldPageExpiry (link : Fin 32) (page : Nat)
  /-- HOLD_RETRY (R112). -/
  | holdRetry (port : Fin 10) (tag : BitVec 16)
  /-- RANGE_CACHE_FILL (R56). -/
  | rangeCacheFill (race party : Fin 8) (asid : Fin 4096) (va : BitVec 57)
  /-- EXTENT_CACHE_FILL (R107). -/
  | extentCacheFill (race : Fin 8) (offset : BitVec 52)
  /-- WEIR_SLOT (R114). -/
  | weirSlot
  /-- WEIR_PERIOD_BOUNDARY (R117). -/
  | weirPeriodBoundary
  /-- COMBINATION_CLOSE (R186). -/
  | combinationClose (index : Nat)
  /-- LOAD (R179). -/
  | load (r : Req) (ecc : Ecc)
  /-- STORE (R179). -/
  | store (r : Req)
  /-- ATOMIC (R180). -/
  | atomic (r : Req) (ecc : Ecc)
  /-- REDUCE (R182). -/
  | reduce (r : Req) (ecc : Ecc)
  /-- MCAST_STORE (R184). -/
  | mcastStore (r : Req)
  /-- CONF_READ (R188). -/
  | confRead (r : Req) (ecc : Ecc)
  /-- CONF_ATOMIC (R188). -/
  | confAtomic (r : Req) (ecc : Ecc)
  /-- SLUICE_PUT (R195). -/
  | sluicePut (r : Req)
  /-- SLUICE_GET (R196). -/
  | sluiceGet (r : Req) (ecc : Ecc)
  /-- SLUICE_FLUSH_AGE (R194). -/
  | sluiceFlushAge (window : Fin 64) (block : Nat)
  /-- PIN_MSG (R72). -/
  | pinMsg (r : Req)
  /-- RD_SHARED (R133). -/
  | rdShared (r : Req) (ecc : Ecc)
  /-- RD_OWN (R133). -/
  | rdOwn (r : Req) (ecc : Ecc)
  /-- UPGRADE (R133). -/
  | upgrade (r : Req) (ecc : Ecc)
  /-- MARK_DIRTY (R129). -/
  | markDirty (r : Req)
  /-- WB_DIRTY (R133). -/
  | wbDirty (r : Req)
  /-- EVICT (R133). -/
  | evict (r : Req)
  /-- SNP_INV (R128). -/
  | snpInv (r : Req)
  /-- SNP_DATA (R128). -/
  | snpData (r : Req)
  /-- SNP_CUR (R128). -/
  | snpCur (r : Req)
  /-- SNP_RSP (R134). -/
  | snpRsp (r : Req)
  /-- DOMAIN_NOTICE (R142). -/
  | domainNotice (r : Req)
  /-- CXL_MEMRD (R132). -/
  | cxlMemRd (port : Fin 2) (tag dpa : Nat) (mv : MetaValue)
  /-- CXL_MEMWR (R132). -/
  | cxlMemWr (port : Fin 2) (tag dpa : Nat) (mv : MetaValue) (data : Bytes)
  /-- CXL_MEMCLNEVCT (R132). -/
  | cxlMemClnEvct (port : Fin 2) (tag dpa : Nat)
  /-- CXL_BIRSP (R132). -/
  | cxlBiRsp (port : Fin 2) (id : Nat) (rsp : BiRsp)
  /-- PROVISIONAL_RESOLVE (R136). -/
  | provisionalResolve (port : Fin 10) (ptag : BitVec 16)
  /-- EVICTION_COMPLETE (R135). -/
  | evictionComplete (line : Nat)
  /-- SNOOP_TIMEOUT (R142). -/
  | snoopTimeout (id : BitVec 16)
  /-- PORT_DOWN_TIMEOUT (R142). -/
  | portDownTimeout (port : Fin 10)
  /-- HOST_L0_TIMEOUT (R142). -/
  | hostL0Timeout (port : Fin 2)
  /-- CXL_VIRAL (R142). -/
  | cxlViral (port : Fin 2)
  /-- TAKEDOWN_COMPLETE (R144). -/
  | takedownComplete (domain : BitVec 14)
  /-- NOTICE_RESEND (R142). -/
  | noticeResend
  /-- DOMAIN_REJOIN (R148). -/
  | domainRejoin (party : Fin 8) (value : W64)
  /-- MIRROR_SYNC (R58). -/
  | mirrorSync (party : Fin 8) (value : W64)
  /-- SYNC_CHECK_COMPLETE (R58). -/
  | syncCheckComplete (party : Fin 8)
  /-- SYNC_DRAINED (R58). -/
  | syncDrained (party : Fin 8)
  /-- TEARDOWN (R49). -/
  | teardown
  /-- TEARDOWN_COMPLETE (R49). -/
  | teardownComplete
  /-- DEMAND_FILL_COMPLETE (R65). -/
  | demandFillComplete (page : Nat) (lostUnits recovered : List Nat)
  /-- TIER_MOVE_COMPLETE (R64). -/
  | tierMoveComplete (page : Nat) (granules : Nat)
  /-- STEER (R69). -/
  | steer (pool : Fin 1024)
  /-- COUNTER_EPOCH (R68). -/
  | counterEpoch
  /-- SCRUB (R76). -/
  | scrub (row : ScrubRow)
  /-- CLEAN_WATER (R80). -/
  | cleanWater (party : Fin 8)
  /-- PARKED_WRITE_RELEASE (R80). -/
  | parkedWriteRelease (party : Fin 8)
  /-- WRITE_THROUGH_PROGRAMMED (R80). -/
  | writeThroughProgrammed (unit : Nat)
  /-- PFW_ASSERT (R83). -/
  | pfwAssert
  /-- INPUT_SAG (R406). -/
  | inputSag
  /-- INPUT_RECOVERED (R406). -/
  | inputRecovered
  /-- BRACE_ASSERT (R83). -/
  | braceAssert
  /-- SHOCK_SAMPLE (R386). -/
  | shockSample (x y z : Int)
  /-- SERDES_OFF (R85). -/
  | serdesOff
  /-- FLUSH_DONE (R85). -/
  | flushDone
  /-- EARLY_FLUSH_COMPLETE (R86). -/
  | earlyFlushComplete
  /-- FLUSH_LOW_INPUT (R88). -/
  | flushLowInput
  /-- POST_FLUSH_REBOOT (R85). -/
  | postFlushReboot
  /-- BRACE_HOLDOFF_END (R87). -/
  | braceHoldoffEnd
  /-- HOT_SWAP_TRIP (R410). -/
  | hotSwapTrip
  /-- CONFIGURE (R209). -/
  | configure (party : Fin 8) (rill : Nat)
  /-- ENABLE (R210). -/
  | enable (party : Fin 8) (rill : Nat)
  /-- DISABLE (R211). -/
  | disable (party : Fin 8) (rill : Nat)
  /-- ABORT (R211). -/
  | abort (party : Fin 8) (rill : Nat)
  /-- RILL_QUERY (R211). -/
  | rillQuery (party : Fin 8) (rill : Nat)
  /-- DOORBELL (R215). -/
  | doorbell (party : Fin 8) (value : W64)
  /-- RILL_CACHE_FILL (R219). -/
  | rillCacheFill (rill : Nat)
  /-- DESCRIPTOR_START (R215). -/
  | descriptorStart (rill : Nat)
  /-- COMPLETION_RECORD (R217). -/
  | completionRecord (rill index : Nat)
  /-- DRAIN_COMPLETE (R211). -/
  | drainComplete (rill : Nat)
  /-- COPY (R216). -/
  | copy (rill index : Nat)
  /-- CHUNK_LANDED (R190). -/
  | chunkLanded (course : Bool) (rill index chunk : Nat)
  /-- ADVANCE (R221). -/
  | advance (party : Fin 8) (value : W64)
  /-- SET (R220). -/
  | reachSet (party : Fin 8) (value : W64)
  /-- REACH_FRAME (R408). -/
  | reachFrame (edges : Nat) (frame : W64)
  /-- TIDE_MARKER (R223). -/
  | tideMarker
  /-- TIDE_LOSS (R223). -/
  | tideLoss
  /-- RUN_TABLE (R233). -/
  | runTable (rill index : Nat)
  /-- CONVERT (R248). -/
  | convert (rill index : Nat)
  /-- MILL_REDUCE (R248). -/
  | millReduce (rill index : Nat)
  /-- SHOAL_ENCODE (R264). -/
  | shoalEncode (rill index : Nat)
  /-- CODEBOOK_BUILD (R263). -/
  | codebookBuild (rill index : Nat)
  /-- PIECE_COMPLETE (R248). -/
  | pieceComplete (rill index piece : Nat)
  /-- NOP (R234). -/
  | nop (mill : Fin 800)
  /-- END (R239). -/
  | stepEnd (mill : Fin 800)
  /-- SETLC (R234). -/
  | setlc (mill : Fin 800)
  /-- LOOP (R234). -/
  | loopStep (mill : Fin 800)
  /-- SETF (R234). -/
  | setf (mill : Fin 800)
  /-- WAIT (R234). -/
  | waitStep (mill : Fin 800)
  /-- WAIT_POLL (R234). -/
  | waitPoll (mill : Fin 800) (timeout : Bool)
  /-- FENCE (R164). -/
  | fence (mill : Fin 800)
  /-- SALU (R234). -/
  | salu (mill : Fin 800)
  /-- SLD (R234). -/
  | sld (mill : Fin 800)
  /-- LD (R236). -/
  | ld (mill : Fin 800)
  /-- ST (R236). -/
  | st (mill : Fin 800)
  /-- ATOM (R236). -/
  | atom (mill : Fin 800)
  /-- RED (R236). -/
  | red (mill : Fin 800)
  /-- MCAST (R236). -/
  | mcast (mill : Fin 800)
  /-- GATHER (R236). -/
  | gather (mill : Fin 800)
  /-- MEMORY_STEP_LANDED (R238). -/
  | memoryStepLanded (mill : Fin 800)
  /-- MILL_PROVISIONAL_RESOLVE (R247). -/
  | millProvisionalResolve (mill : Fin 800)
  /-- VMOV (R234). -/
  | vmov (mill : Fin 800)
  /-- VCVT (R231). -/
  | vcvt (mill : Fin 800)
  /-- VALU (R229). -/
  | valu (mill : Fin 800)
  /-- VDOT (R232). -/
  | vdot (mill : Fin 800)
  /-- VRED (R230). -/
  | vred (mill : Fin 800)
  /-- VFN (R230). -/
  | vfn (mill : Fin 800)
  /-- LUBUILD (R243). -/
  | lubuild (mill : Fin 800)
  /-- LUSCORE (R241). -/
  | luscore (mill : Fin 800)
  /-- LUBIN (R241). -/
  | lubin (mill : Fin 800)
  /-- CQINS (R244). -/
  | cqins (mill : Fin 800)
  /-- CQPOP (R244). -/
  | cqpop (mill : Fin 800)
  /-- CQOUT (R244). -/
  | cqout (mill : Fin 800)
  /-- CQCLR (R244). -/
  | cqclr (mill : Fin 800)
  /-- INSTALL (R262). -/
  | install (party : Fin 8) (value : W64)
  /-- RELEASE (R262). -/
  | release (party : Fin 8) (value : W64)
  /-- CB_QUERY (R262). -/
  | cbQuery (party : Fin 8) (value : W64)
  /-- CODEBOOK_BASE_WRITE (R257). -/
  | codebookBaseWrite (party : Fin 8) (value : W64)
  /-- SLOT_FREED (R261). -/
  | slotFreed (slot : Nat)
  /-- EXPAND_BLOCK (R256). -/
  | expandBlock (race : Fin 8)
  /-- CODEBOOK_MISS_FILL (R273). -/
  | codebookMissFill (race : Fin 8) (slot : Nat)
  /-- EDDY_READ_LINE (R269). -/
  | eddyReadLine (race : Fin 8) (single double : List Nat)
  /-- ATTEND (R284). -/
  | attend (rill index : Nat)
  /-- UNIT_SPAN_COMPLETE (R292). -/
  | unitSpanComplete (rill index seq head span : Nat)
  /-- ADMIT (R286). -/
  | attnAdmit (rill index : Nat)
  /-- APPEND (R287). -/
  | append (rill index : Nat)
  /-- RETIRE (R288). -/
  | retire (rill index : Nat)
  /-- BUILD_BOOKS (R282). -/
  | buildBooks (rill index : Nat)
  /-- LOOKUP (R306). -/
  | lookup (rill index : Nat)
  /-- UPDATE (R309). -/
  | update (rill index : Nat)
  /-- EMBED_COMMIT (R310). -/
  | embedCommit (rill index : Nat)
  /-- PIECE_POSTED (R303). -/
  | piecePosted (group : Fin 16) (node : Fin 1024)
  /-- OWNER_COMMIT (R310). -/
  | ownerCommit (group : Fin 16) (node : Fin 1024)
  /-- PROGRESS_BEAT (R303). -/
  | progressBeat (group : Fin 16) (node : Fin 1024)
  /-- REPLY (R308). -/
  | reply (group : Fin 16) (node : Fin 1024)
  /-- SEARCH_QUERY (R326). -/
  | searchQuery (rill index : Nat)
  /-- INSERT (R323). -/
  | insert (rill index : Nat)
  /-- DELETE (R324). -/
  | delete (rill index : Nat)
  /-- INDEX_ADVANCE (R325). -/
  | indexAdvance (rill index : Nat)
  /-- CHECK (R317). -/
  | check (rill index : Nat)
  /-- MIRROR_BATCH_CLOSE (R199). -/
  | mirrorBatchClose (setting : Fin 16)
  /-- MIRROR_BATCH_ACKED (R199). -/
  | mirrorBatchAcked (setting : Fin 16)
  /-- MIRROR_LINK_DOWN (R201). -/
  | mirrorLinkDown (setting : Fin 16)
  /-- MIRROR_LINK_RETURN (R201). -/
  | mirrorLinkReturn (setting : Fin 16)
  /-- LAG_EXCEEDED (R201). -/
  | lagExceeded (setting : Fin 16) (lagMs : Nat)
  /-- OWNER_LOST (R204). -/
  | ownerLost (owner : LostOwner)
  /-- FLR (R375). -/
  | flr (port : Fin 2)
  /-- PARTY_RESET (R376). -/
  | partyReset (party : Fin 8)
  /-- CXL_RESET (R377). -/
  | cxlReset (port : Fin 2)
  /-- HOT_RESET (R377). -/
  | hotReset (port : Fin 2)
  /-- REGISTER_WRITE (R371). -/
  | registerWrite (writer : Fin 8) (offset : BitVec 52) (value : W64)
  /-- GET_INFO (R382). -/
  | getInfo
  /-- GET_LOG (R395). -/
  | getLog (seq : BitVec 32)
  /-- GET_SEAL (R395). -/
  | getSeal (index : Nat)
  /-- DIAG_READ (R354). -/
  | diagRead (t : DiagTarget)
  /-- CLEAR_ALERT (R389). -/
  | clearAlert (bits : W64)
  /-- SET_LIMIT (R390). -/
  | setLimit (watts : Nat)
  /-- EARLY_FLUSH (R83). -/
  | earlyFlush
  /-- END_BRACE (R87). -/
  | endBrace
  /-- TIDE_LOAD (R223). -/
  | tideLoad (seconds : Nat)
  /-- CLEAR_FAULT (R88). -/
  | clearFault
  /-- SHUTDOWN (R383). -/
  | shutdown
  /-- WARM_REBOOT (R378). -/
  | warmReboot
  /-- COLD_REBOOT (R378). -/
  | coldReboot
  /-- POWER_ON (R383). -/
  | powerOn
  /-- COMMIT (R399). -/
  | commit
  /-- REVERT (R399). -/
  | revert
  /-- COMMIT_DELAY_EXPIRY (R399). -/
  | commitDelayExpiry (component : Bool)
  /-- PROVISION_KEY (R345). -/
  | provisionKey (slot : Fin 4) (key : KeyPair) (challengeGood : Bool) (auth : Option Signed)
  /-- LOCK_INSTALL (R345). -/
  | lockInstall
  /-- REVOKE_KEY (R345). -/
  | revokeKey (slot : Fin 4) (auth : Option Signed)
  /-- SANITIZE (R355). -/
  | sanitize (auth : Signed)
  /-- SET_ENDPOINT_ID (R382). -/
  | setEndpointId (eid : BitVec 8)
  /-- REQUEST_UPDATE (R397). -/
  | requestUpdate (component : Nat)
  /-- VERIFY_COMPLETE (R397). -/
  | verifyComplete (image : Image)
  /-- ACTIVATE_FIRMWARE (R398). -/
  | activateFirmware
  /-- KEY_SWEEP_COMPLETE (R340). -/
  | keySweepComplete (serial : BitVec 16)
  /-- GET_VERSION (R349). -/
  | getVersion (t : Transport)
  /-- GET_CAPABILITIES (R349). -/
  | getCapabilities (t : Transport)
  /-- NEGOTIATE_ALGORITHMS (R349). -/
  | negotiateAlgorithms (t : Transport) (offersRsa3072 offersSha384 : Bool)
  /-- GET_DIGESTS (R349). -/
  | getDigests (t : Transport)
  /-- GET_CERTIFICATE (R349). -/
  | getCertificate (t : Transport) (slot : Nat) (offset length : BitVec 16)
  /-- CHALLENGE (R349). -/
  | challenge (t : Transport) (nonce : Nat)
  /-- GET_MEASUREMENTS (R350). -/
  | getMeasurements (t : Transport) (index : BitVec 8) (signature : Bool) (nonce : Nat)
  /-- GET_SLH_CHAIN (R351). -/
  | getSlhChain (t : Transport) (offset : BitVec 32)
  /-- GET_SLH_SIG (R351). -/
  | getSlhSig (t : Transport) (hash : Nat)
  /-- SLH_SIGN_COMPLETE (R351). -/
  | slhSignComplete (t : Transport) (hash : Nat)
  /-- KEEPER_WATCHDOG (R381). -/
  | keeperWatchdog
  /-- SENSOR_SAMPLE (R385). -/
  | sensorSample (sensor : Sensor) (reading : Int) (level : Level)
  /-- ALARM_SHUTDOWN (R387). -/
  | alarmShutdown
  /-- CONDENSATION_ALARM (R388). -/
  | condensationAlarm
  /-- CAP_WINDOW (R391). -/
  | capWindow (meanW : Nat) (dies stackTemps : List Int)
  /-- LOG_WRITE (R393). -/
  | logWrite
  /-- LOG_SEAL (R395). -/
  | logSeal (signed : Bool)
  /-- EXTEST (R417). -/
  | extest (drive : List Bool)
  /-- IDCODE (R417). -/
  | idcode
  /-- SAMPLE_PRELOAD (R417). -/
  | samplePreload (pins preload : List Bool)
  /-- CLAMP (R417). -/
  | clamp
  /-- HIGHZ (R417). -/
  | highz
  /-- EXTEST_PULSE (R417). -/
  | extestPulse
  /-- EXTEST_TRAIN (R417). -/
  | extestTrain
  /-- LINK_TEST (R416). -/
  | linkTest (w : TestWrite)
  /-- BYPASS (R417). -/
  | bypass (code : BitVec 8)
  /-- INJECT (R416). -/
  | inject (lane : Fin 160)
  /-- CLEAR (R416). -/
  | linkClear (link : Fin 32)
  /-- KEEPER_RESTART (R381). -/
  | keeperRestart
  /-- STANDBY_LOST (R403). -/
  | standbyLost
  /-- OFF_INPUT_RETURN (R383). -/
  | offInputReturn
  /-- BRACE_DEASSERT (R87). -/
  | braceDeassert
  /-- FLUSH_UNIT_PROGRAMMED (R84). -/
  | flushUnitProgrammed (unit : Option Nat)
  /-- CXL_BICONFLICT (R132). -/
  | cxlBiConflict (port : Fin 2) (tag : Nat) (id : Nat)
  /-- HOST_PORT_LEAVES_L0 (R142). -/
  | hostPortLeavesL0 (port : Fin 2) (recovery : Bool)
  /-- TIDE_TICK (R223). -/
  | tideTick
  /-- CHECKER_LOCK (R416). -/
  | checkerLock (lane : Fin 160)
  /-- RESPOND_IF_READY (R351). -/
  | respondIfReady (t : Transport)
  /-- SPDM_CHUNK (R349). -/
  | spdmChunk (t : Transport) (send : Bool) (chunk : BitVec 16) (last : Bool)
  /-- SPDM_UNSUPPORTED_REQUEST (R349). -/
  | spdmUnsupportedRequest (t : Transport) (code : BitVec 8)
  /-- MAILBOX_COMMAND (R400). -/
  | mailboxCommand (port : Fin 2) (cmd : MailboxCmd)
  /-- PCIE_DMA_COMPLETION (R216). -/
  | pcieDmaCompletion (port : Fin 2) (tag : Nat) (data : Option Bytes)
  deriving DecidableEq, Repr

end Sys2Proof
end

