-- ==== Sys2Proof/Config.lean ====
section
/-!
DEFINITION. The values the spec leaves open, as constants with no body: nothing in Lean can evaluate them, so a statement that
holds holds for every value (log entry 2). Each is applied to what it depends on, or to the counter State.freeCtr.
-/
namespace Sys2Proof.Config

/-- A fresh 64-bit value for the n-th open value of a run: bits that read undefined, order-dependent contents. -/
opaque freeWord : Nat → BitVec 64

/-- A fresh number for the n-th open value of a run. -/
opaque freeNat : Nat → Nat

/-- SHA-384 of an encoded object, as a number: the hash is used as a function only. -/
opaque sha384 : List Nat → Nat

/-- Set hash of the range cache over (party, ASID, va[56:30]) (R55). -/
opaque rangeSet : Nat → Nat → Nat → Nat

/-- Set hash of the extent cache over the address (R107). -/
opaque extentSet : Nat → Nat

/-- Set hash of a directory slice over LINE (R124). -/
opaque dirSet : Nat → Nat

/-- Set hash of the hot-line cache over the line address (R18). -/
opaque hotSet : Nat → Nat

/-- Magnitude and exponent of an MX element pattern that OCP reads as NaN or infinity: Table 09-2 gives MX elements neither, and states no value. By
format code and pattern. -/
opaque mxElem : Nat → Nat → Nat × Int

/-- Which result within the bound of R230 a VFN gives, for each function and operand: 0 to 4 units from two below. -/
opaque vfnUlp : Nat → Nat

/-- The FP32 pattern that an accumulation in some order gives, for its terms (R231, R232); used only within the bound. -/
opaque sumFree : List (Nat × Int) → Nat

/-- The FP32 pattern of an element of a centroid for which no sample is left to be taken (R263 states none): by its index and cluster, and the
centroids before. -/
opaque spareCentroid : List (Nat × Int) → Nat

/-- Which result near the natural logarithm of an FP32 operand the mills give (R292 states no bound; log entry 36): 0 to 4 units from two below. -/
opaque lnUlp : Nat → Nat

/-- The 8 SECDED check bits of an eddy-queue word (R269 names no code). -/
opaque eddyCheck : BitVec 64 → BitVec 8

/-- The digest of the alias key pair of a firmware image (R348), by the image's digest. -/
opaque aliasDigest : Nat → Nat

/-- The PDR identifier of sensor i of a row of Table 16-3 (R385 leaves it to the PDR repository). -/
opaque pdrId : Nat → Nat → Nat

/-- Length in bytes of the SLH-DSA certificate chain, by DeviceID and firmware digest (R348, R351). -/
opaque slhChainLength : Nat → Nat → Nat

/-- Byte i of the signatures that end the slice of a digest (R40 fixes their place and length, not their values). -/
opaque signatureByte : Nat → Nat → BitVec 8

/-- The 512 bits of the partition key that the key store generates next (R335): the output of its CTR_DRBG, seeded from entropy. -/
opaque partitionKey : Nat → BitVec 512

end Sys2Proof.Config
end

