-- ==== Sys2Proof/Machine/State.lean ====
section
/-!
DEFINITION. The state of one node as plain data, in groups by chapter, and the state right after reset (the input has just
reached 38.0 V and nothing has booted: R356). INVENTORY.md lists every piece with its rule and its reset value.
Fields marked "model" are the model's own bookkeeping (identities of requests, the free-value counter, the command queue).
-/
namespace Sys2Proof.Machine

open Sys2Proof

/-- No command of this block stops the machine: the spec ends every failure with a status, a log entry, an alert or a
reset, after which the machine goes on. So nobody raises a fault; safe. -/
inductive Fault where
  deriving DecidableEq, Repr

/-- Raised by nobody once every command has its meaning; safe. -/
inductive Refusal where
  | notModelled (mnemonic : String)
  deriving DecidableEq, Repr

/-- A memory: (address, byte) pairs, addresses strictly rising, no zero byte listed. An unlisted address reads zero
(R338: a flash unit never written reads as zero bytes). -/
abbrev Memory := List Host.Cell

/-! ## Boot, pins and power (chapters 15, 17) -/

/-- Where the boot sequence of R356 stands. -/
inductive BootPhase where
  | waitStandby                 -- input present, standby rail not yet good (step 1)
  | standbyRetry                -- step 1 failed; retried every 1 s
  | awaiting (step : Nat)       -- the completion of this step of Table 15-1 is awaited
  | railRetry                   -- step 5 failed once; retried after 1 s
  | romRecovery                 -- both firmware slots failed; only PLDM update is accepted
  | noOperator                  -- no operator digest burned: provisioning only (R345)
  | failedReset                 -- boot failed with the die in reset
  | released                    -- die released; steps 8 to 13 under way or done
  | failedReleased              -- BOOT_FAILED after die release (R370)
  | boardTest                   -- board test mode (R418)
  | waitInput                   -- PFW# before die release: waits for the input to hold (R369)
  | flushed                     -- power flush done; waits for the input to hold (R85)
  | down                        -- SHUTDOWN or alarm: every rail but standby off (R383, R387)
  | noPower                     -- standby lost or hot-swap trip (R403, R410)
  deriving DecidableEq, Repr, Inhabited

structure BootSt where
  order     : OrderCode := .ulg8064N   -- the module's build (Table 00-1)
  phase     : BootPhase := .waitStandby
  step      : Nat := 0                 -- BOOT_STATUS.STEP
  cause     : Nat := 0                 -- BOOT_STATUS.CAUSE
  warm      : Bool := false
  rackPos   : Nat := 0
  fwSlot    : Nat := 0                 -- 0 A, 1 B
  hwSlot    : Nat := 0
  memAwait  : Nat := 0                 -- step 8, 9 or 10 of the memory chain awaited; 0 none
  linksDone : Bool := false            -- step 11 ended
  linksTried : List Nat := []          -- links that have had their first training of this boot (R367)
  badChannel : Option (Nat × Nat) := none      -- race and pseudo-channel that failed training (R365)
  ready     : Bool := false            -- BOOT_STATUS.READY
  restored  : Bool := false
  erasing   : Bool := false            -- RESERVE_ERASING
  restorePoison : Nat := 0
  firmware  : Firmware := {}           -- the firmware that booted
  testStrap : Bool := false            -- TEST_MODE# read low
  keys      : Tbl Nat := []            -- key slots: KEY_SERIAL by partition (R335)
  keyBits   : Tbl (BitVec 512) := []   -- key slots: the AES-256-XTS key by partition (R335)
  uncreated : List Nat := []           -- partitions without a key, no serial being free (R340)
  byAlarm   : Bool := false            -- off by an alarm: only POWER_ON ends it (R387)
  contentRule : Nat := 0               -- the first rule of R364 that the last image refused broke (R364)
  deriving DecidableEq, Repr, Inhabited

structure PinSt where
  standby    : Bool := false
  mainRails  : Bool := false
  serdes     : Bool := false
  dieReset   : Bool := true
  braidRun   : Bool := false
  braidSpate : Bool := false
  alertDriven : Bool := false          -- BRAID3 driven as ALERT# (R403)
  inputsOn   : Bool := false           -- BRAID[2:0], BRAID4 sampled
  holdReq    : Bool := false
  flushDone  : Bool := false
  progress   : Nat := 0                -- BRAID[5:4]
  pfwTaken   : Bool := false           -- PFW# low and taken
  pfwOwn     : Bool := false           -- the module pulls PFW# low (R406)
  brace      : Bool := false           -- BRACE taken and still asserted
  inputGood  : Bool := true            -- input at 38.0 V or above
  deriving DecidableEq, Repr, Inhabited

/-! ## What survives a reset (chapters 03, 14, 16) -/

/-- The fuse array (Table 14-4). A digest of 0 is an empty slot. -/
structure Fuses where
  uds         : BitVec 256 := 0#256
  vendorKeys  : List Nat := [1, 2]       -- burned at manufacture: the model's names of the two digests
  opKeys      : List Nat := [0, 0, 0, 0]
  fwSvn       : Nat := 0
  hwSvn       : Nat := 0
  opRevoke    : List Bool := [false, false, false, false]
  vendorRevoke : List Bool := [false, false]
  installLock : Bool := false
  testLock    : Bool := true
  deriving DecidableEq, Repr, Inhabited

/-- A slot record (Table 16-9). -/
structure SlotRec where
  writeCount : Nat := 0
  svnA   : Nat := 0
  svnB   : Nat := 0
  stateA : SlotState := .empty
  stateB : SlotState := .empty
  next   : Nat := 0
  trialBoots : Nat := 0
  deriving DecidableEq, Repr, Inhabited

/-- One copy of the key blob: (partition, KEY_SERIAL) of each wrapped key, the keys, and whether its unwrap verifies (R341). -/
structure Blob where
  writeCount : Nat := 0
  keys  : List (Nat × Nat) := []
  bits  : Tbl (BitVec 512) := []       -- each partition's key, as the unwrap gives it (R339)
  good  : Bool := true
  deriving DecidableEq, Repr, Inhabited

/-- The spate reserve (R83 to R90). -/
structure Reserve where
  record    : Bool := false            -- the spate record is programmed
  present   : Bool := false            -- a flush began writing the reserve
  manifest  : List Nat := []           -- unit numbers, in order
  complete  : Bool := false            -- the manifest is complete
  committed : Bool := false            -- restored; the erase is to be done or under way (R90)
  units     : List Nat := []           -- units programmed and verified
  data      : Memory := []             -- their contents, enciphered (R336)
  serials   : Tbl Nat := []            -- KEY_SERIAL of each of them (R338)
  poisonList : List Nat := []          -- lines of R147
  dataPoison : List Nat := []          -- poisoned lines of flushed units (R75)
  deriving DecidableEq, Repr, Inhabited

/-- A log entry (Table 16-7). -/
structure LogEntry where
  seq  : Nat
  code : Nat
  severity : Nat
  party : Nat
  status : Nat
  tide : Nat
  mono : Nat
  boot : Nat
  tideFree : Bool
  arg0 : Nat
  arg1 : Nat
  link : Nat
  deriving DecidableEq, Repr, Inhabited

/-- A seal record (Table 16-8); the signature is made under the alias key whose digest it names. -/
structure SealRec where
  afterPowerLoss : Bool
  beforeReset : Bool
  boot : Nat
  firstSeq : Nat
  lastSeq : Nat
  tide : Nat
  mono : Nat
  hPrev : Nat
  hLast : Nat
  aliasDigest : Nat
  deriving DecidableEq, Repr, Inhabited

structure NvSt where
  fuses   : Fuses := {}
  fwA     : Option Firmware := some { rsaKeys := [1], slhKeys := [1], digest := 1 }   -- as delivered
  fwB     : Option Firmware := none
  hwA     : Option Headwater := none
  hwB     : Option Headwater := none
  fwRec   : SlotRec := { stateA := .committed }
  hwRec   : SlotRec := {}
  genRecord : Option Nat := none       -- generation of the last AGREED composition (R47)
  bootNumber : Nat := 0
  signedCounter : Nat := 0             -- last accepted signed command (R384)
  retiredRows : List (Nat × List Nat) := []    -- failing rows, as FAILING_ROW numbers them, with their frames; at most 4,096 (R76)
  blobA   : Blob := {}
  blobB   : Blob := {}
  nextSerial : Nat := 1                -- KEY_SERIALs are issued in ascending order (R335)
  sweeping : List Nat := []            -- destroyed serials whose sweep runs (R340)
  sanitize : Bool := false             -- SANITIZE staged (R355)
  deviceDigest : Nat := 1              -- digest of the DeviceID key pair: the model's name of it
  manifestLost : Bool := false         -- ISLAND by R88 until CLEAR_FAULT
  lossOpen : Bool := false             -- the open batch was open at a loss of power (R395)
  dirtyShutdowns : Nat := 0            -- Table 16-11
  orderly : Bool := true               -- the last reset ran an orderly shutdown (R379)
  trained : Bool := false              -- DRAM training parameters saved (R365)
  mirrorBits : Option (Tbl (List Nat)) := none   -- saved mirror bits by SET_ID (R379 step 5)
  mirrorSeen : Tbl (Nat × Bool) := []  -- by SET_ID, of sets held as a mirror: the last mark and whether a resync is incomplete (R203)
  flash   : Memory := []               -- the flash copies of backed space, enciphered (R336)
  flashSerial : Tbl Nat := []          -- KEY_SERIAL of each written 4 KiB unit (R338)
  flashPoison : List Nat := []         -- poisoned lines of the flash copies (R75)
  durMap  : List Nat := []             -- durable page map: tier pages whose bit is set (R79)
  reserve : Reserve := {}
  log     : List LogEntry := []        -- entry ring, oldest first (R393)
  seals   : List SealRec := []         -- seal ring, oldest first
  batch   : List LogEntry := []        -- entries of the open batch (R395)
  chain   : Nat := 0                   -- H (R394)
  batchPrev : Nat := 0                 -- H before the open batch
  nextSeq : Nat := 0
  deriving DecidableEq, Repr, Inhabited

/-! ## The pool map (chapter 02) -/

inductive MapState where
  | forming | agreed | island
  deriving DecidableEq, Repr, Inhabited

structure MapSt where
  state    : MapState := .forming
  pool     : List Nat := []            -- pool map
  bootOf   : Tbl Nat := []             -- BOOT recorded when the peer agreed (R44)
  disagrees : List Nat := []
  slices   : Tbl Slice := []           -- slices of the pool map's other nodes
  reading  : List Announcement := []   -- slice reads under way
  redeliver : List Announcement := []  -- announcements waiting the 20,000,000 cycles
  started  : Bool := false             -- map agreement has started
  window   : Bool := false             -- the agreement window is open
  behind   : List Nat := []            -- nodes logged as ahead (R48)
  genFault : Bool := false             -- ISLAND by R47
  lostKeys : Bool := false             -- ISLAND by R341
  teardown : Bool := false             -- R49 runs
  staged   : Slice := {}               -- the slice teardown runs against
  mailbox  : Tbl (List W64) := []      -- announce mailbox slots (Table 15-8)
  deriving DecidableEq, Repr, Inhabited

/-! ## Party pages (Table 15-9) -/

/-- A context's table in force (R58): the bank's base and count, and its table generation. -/
structure Ctx where
  base  : Nat
  count : Nat
  gen   : Nat
  deriving DecidableEq, Repr, Inhabited

inductive SyncState where
  | idle | checking | inForce | drained | rejected
  deriving DecidableEq, Repr, Inhabited

/-- An error window entry (Table 15-11). -/
structure ErrEntry where
  index  : Nat
  status : Nat
  source : Nat
  address : Nat
  detail : Nat
  tide   : Nat
  cycle  : Nat                         -- core cycle of writing, for the 1 ms rule
  deriving DecidableEq, Repr, Inhabited

/-- A COHERENT range entry in force, as the reverse index keeps it (R130). -/
structure RevEntry where
  asid   : Nat
  vstart : Nat
  pbase  : Nat
  len    : Nat
  deriving DecidableEq, Repr, Inhabited

structure PartySt where
  ctxBase   : W64 := 0#64
  inForce   : Tbl Ctx := []            -- by ASID
  everSync  : List Nat := []           -- ASIDs whose first sync came into force since reset
  syncState : SyncState := .idle
  syncGen   : Nat := 0                 -- SYNC_STATUS.GEN
  syncEntry : Nat := 0
  syncReason : Nat := 0
  busyDrop  : Bool := false
  syncAsid  : Nat := 0                 -- the sync under way
  syncBank  : Nat := 0
  syncTabGen : Nat := 0
  syncPass  : Bool := false            -- checked; comes into force at the next period boundary
  syncNew   : Ctx := ⟨0, 0, 0⟩
  syncEntries : List (Nat × Nat × Nat × Nat) := []   -- the words of the bank's entries as the check read them
  syncBad   : Option (Nat × Nat) := none   -- (REASON, ENTRY) found before the entries are looked at
  pinned    : Tbl (List (Nat × Nat)) := []   -- PIN entries in force by ASID: (pool address, bytes)
  pinShort  : Bool := false            -- TIER_STATUS event bits
  pinSaturated : Bool := false
  failingRow : Bool := false
  rillBase  : W64 := 0#64              -- RILL_IMAGE_BASE
  reverse   : List RevEntry := []      -- reverse index of the COHERENT entries in force (R130)
  errWrite  : Nat := 0                 -- ERR_CTL
  errRead   : Nat := 0
  errLost   : Bool := false
  msixEn    : Bool := false
  msixVec   : Nat := 0
  errRing   : List ErrEntry := []      -- newest first, at most 16
  resetAt : Option Nat := none         -- the monotonic counter when its last reset began (R375)
  deriving DecidableEq, Repr, Inhabited

/-! ## Links and ports (chapter 04) -/

inductive LinkMode where
  | down         -- not trained, or removed from its port
  | training
  | helloWait    -- trained; the hello flit has not been received
  | up
  | retraining
  deriving DecidableEq, Repr, Inhabited

/-- A header of the receive or transmit data stream with the bytes it still needs (R96). -/
structure RxItem where
  isReq   : Bool
  hdr     : Cell
  cellNo  : Nat := 0
  seq     : Nat := 0
  disp    : Disp := .accept
  reqs    : List Req := []             -- the translated pieces, where it was accepted
  need    : Nat := 0
  got     : Bytes := []
  deriving DecidableEq, Repr, Inhabited

/-- A header waiting to be sent on a port. -/
structure TxItem where
  port   : Nat
  link   : Nat                         -- a response's link; a request's is the one its page is mapped to when it is sent (R102)
  isReq  : Bool
  hdr    : Cell
  data   : Bytes := []
  tclass : TClass := .demand
  tag    : Nat := 0
  station : Nat := 10                  -- source station, whose egress share it holds (R423)
  page   : Nat := 0                    -- 4 KiB page of a request, for R102
  resent : Bool := false               -- sent before on a link that left the port: it goes before new requests to its page (R102)
  off    : Nat := 0                    -- bytes of its data already in the stream
  deriving DecidableEq, Repr, Inhabited

/-- A sequenced flit in the replay buffer. -/
structure Kept where
  seq   : Nat
  cells : List Cell                    -- cells 1 to 14
  map   : Nat                          -- CELL_MAP
  items : List TxItem := []            -- the headers it carried, for R98 and R101
  running : List TxItem := []          -- the headers whose data it carried, for R101
  confs : List (Nat × Nat) := []       -- CONF entries it carried last (R137)
  hello : Bool := false                -- the hello flit of R422
  deriving DecidableEq, Repr, Inhabited

/-- A held-page list entry (R110). -/
structure HeldPage where
  page : Nat
  tag  : Nat
  slots : Nat
  asid : Option Nat := none            -- a partner's page is one of its context
  deriving DecidableEq, Repr, Inhabited

/-- Link counters (Table 17-14). -/
structure Counters where
  fecSymbols : Nat := 0
  retrains   : Nat := 0
  fecUncorr  : Nat := 0
  crcFail    : Nat := 0
  naks       : Nat := 0
  replayed   : Nat := 0
  patFlits   : Nat := 0
  patCrcFail : Nat := 0
  deriving DecidableEq, Repr, Inhabited

structure Link where
  mode     : LinkMode := .down
  inPort   : Bool := false             -- the link belongs to its port
  txSeq    : Nat := 4095               -- SEQ of the last sequenced flit sent
  rxSeq    : Nat := 4095               -- ACK_SEQ to send (R422)
  peerAck  : Nat := 4095               -- last ACK_SEQ received
  kept     : List Kept := []           -- unacknowledged flits, oldest first
  replayAt : Option Nat := none        -- next SEQ to replay
  discarding : Bool := false           -- after a NAK, until the replayed flit (R99)
  replaySeen : Option Nat := none      -- SEQ of the replayed flit last seen since that NAK (R99)
  sendNak  : Bool := false
  nakTimer : Bool := false             -- 128 slots since the last NAK run
  nakCount : Nat := 0                  -- successive NAKs of one SEQ (R101)
  nakSeq   : Nat := 0
  peerNaks : Nat := 0                  -- NAKs of one SEQ received from the peer
  helloSent : Bool := false
  helloGot  : Bool := false
  helloWord : W64 := 0#64              -- the peer's capability word 0
  credits  : List Nat := [0, 0, 0]     -- data credits held: demand, bulk, mill (R97)
  creditsOut : List Nat := [0, 0, 0]   -- credits to return in cell 0
  rx       : List RxItem := []         -- received headers whose data is running
  tx       : List TxItem := []         -- sent headers whose data is running, in stream order
  answers  : List Disp := []           -- dispositions owed in this slot (R103)
  ansTags  : List Nat := []            -- the TAGs of the headers they answer
  ansSeq   : Nat := 0
  confs    : List (Nat × Nat) := []    -- CONF entries to send: (ACTION, PTAG)
  held     : List HeldPage := []
  retrainFails : Nat := 0              -- failed retrains in a row (R413)
  violated : Bool := false             -- a switch-plane violation has been seen (R143)
  violatedAt : Nat := 0                -- its flit slot
  lastEmpty : Nat := 0                 -- flit slot of the last empty flit sent (R412)
  lastNoReq : Nat := 0                 -- flit slot of the last flit sent without a REQ_HDR cell (R412)
  emptyDue : Bool := false             -- R412: an empty flit is owed
  slot     : Nat := 0                  -- flit slots passed
  retryDue : Bool := false             -- the 1 s retry timer runs
  counters : Counters := {}
  ltMode   : Nat := 0                  -- LT_LINK_CTL.MODE
  deriving DecidableEq, Repr, Inhabited

/-- A request this node sent on a port and that awaits its response. -/
structure Sent where
  port : Nat
  link : Nat
  tag  : Nat
  req  : Req
  phase : Nat := 0                     -- 0 no disposition in force, 1 answered HOLD and waiting to be resent, 2 accepted
  flitSeq : Option Nat := none         -- SEQ of the flit that carried the header last
  disp : Option Disp := none           -- its disposition, void until an ACK_SEQ covers that flit (R105)
  doubt : Bool := false                -- a flit of the responder arrived bad while its answer was due (R106)
  old : Bool := false                  -- sent before the port's mapping last changed, and not acknowledged since (R102)
  readyAt : Nat := 0                   -- HOLD: the flit slot before which it is not resent (R108)
  wasHeld : Bool := false              -- it has received HOLD (R164)
  deriving DecidableEq, Repr, Inhabited

/-- A TAG outstanding at this node as responder (R106). -/
structure TagOut where
  port : Nat
  tag  : Nat
  link : Nat
  disp : Disp
  done : Bool := false                 -- the response has been sent; waits for its acknowledgement
  doneSeq : Nat := 0
  ackd : Bool := false                 -- the peer has acknowledged it
  holdover : Option Nat := none        -- kept for 2,048 slots after this link left its port
  answerless : Bool := false           -- the operation has no response: its ACCEPT ends it (R127)
  isRead : Bool := true
  party  : Nat := 15
  asid   : Option Nat := none          -- a partner's request: its context and the table generation it was translated under (R59)
  tgen   : Nat := 0
  deriving DecidableEq, Repr, Inhabited

/-- A port request split into pieces (R178): one response when all are complete. -/
structure Join where
  id    : Nat
  total : Nat
  done  : List (Nat × Status × Bytes) := []
  whole : Req
  deriving DecidableEq, Repr, Inhabited

/-- An open combination (R186). -/
structure Combo where
  id      : Nat
  head    : Req
  entries : List Req                   -- in order of acceptance, head first
  behind  : List Req := []             -- requests to a covered granule waiting behind it
  deriving DecidableEq, Repr, Inhabited

/-- A PTAG in use on a port (R137). -/
structure PTagUse where
  port : Nat
  ptag : Nat
  tag  : Nat := 0                      -- TAG of the read
  link : Nat
  line : Nat
  req  : Option Req := none            -- the read, once its provisional response has been sent
  answered : Bool := false             -- the provisional response has been sent
  dirtied : Bool := false              -- a write to the line was admitted since the hot-line read (R136)
  resolved : Bool := false
  deriving DecidableEq, Repr, Inhabited

/-- A range-cache entry (R55, R56): positive (a range entry as translated) or negative. -/
structure RangeEntry where
  race   : Nat
  party  : Nat
  asid   : Nat
  region : Nat                         -- va[56:30]
  lo     : Nat                         -- the interval it decides
  hi     : Nat
  maps   : Bool
  pbase  : Nat := 0
  cls    : RClass := .priv
  coding : Coding := .plain
  perm   : Nat := 0                    -- [2] atomic, [1] write, [0] read
  pin    : Bool := false
  durable : Bool := false
  deriving DecidableEq, Repr, Inhabited

/-- An extent-cache entry (R107): an extent of the own slice, or a negative interval; with its fence. -/
structure ExtentEntry where
  race   : Nat
  lo     : Nat
  hi     : Nat
  extent : Option Extent
  fenced : Bool := false
  party  : Nat := 15                   -- the party whose ways hold it in a sealed image (Table 04-13); 15 in an open one
  deriving DecidableEq, Repr, Inhabited

/-- A hold-filter entry (R109). -/
inductive HoldEntry where
  | line (l : Nat)
  | page (p : Nat)
  deriving DecidableEq, Repr, Inhabited

structure NetSt where
  links   : Tbl Link := []
  capWord : Tbl W64 := []              -- partner port: its capability word 0 (R422)
  portDown : List Nat := []            -- ports whose every link is down (the 100 µs count runs)
  portDead : List Nat := []            -- partner ports taken down after the partner was declared dead (R148)
  txq     : List TxItem := []          -- headers ready to be sent, in order
  sent    : List Sent := []
  tags    : List TagOut := []
  joins   : List Join := []
  combos  : List Combo := []
  combosOut : List Combo := []         -- closed combinations whose response is awaited
  ptags   : List PTagUse := []
  rcache  : List RangeEntry := []      -- most recently used first
  rmiss   : List (Nat × Nat × Nat × Nat) := []   -- searches running: (race, party, asid, va)
  ecache  : List ExtentEntry := []
  emiss   : List (Nat × Nat × Nat) := []       -- extent searches running: (race, offset, party whose ways it fills)
  holds   : List HoldEntry := []
  stale   : List (Nat × Nat) := []     -- (port, node): the port's next hop refuses requests to the node with STALE_MAP (R204)
  gone    : List (Bool × Nat) := []    -- owners found lost and not yet acted on: beyond a SITE port or not, node (R204)
  nextTag : Nat := 0
  nextSnp : Nat := 0
  deriving DecidableEq, Repr, Inhabited

/-! ## The weir and the queues (chapters 01, 04) -/

/-- A request in an admission queue, or crossing to it (R27, R115). -/
structure QEntry where
  race    : Nat                        -- home race
  party   : Nat
  tclass  : TClass
  station : Nat                        -- source station, whose credit share it holds
  crossing : Bool                      -- still waits for the fabric core output of its home race
  entered : Nat := 0                   -- core cycle in which it entered its queue (R121)
  req     : Req
  behind  : List Req := []             -- requests that enter the queue directly behind a combined request that still crosses (R186)
  deriving DecidableEq, Repr, Inhabited

/-- A completion that waits for its source's next step: a mill's, a descriptor's or a course firing's. -/
structure Landed where
  req    : Req
  status : Status
  data   : Bytes := []
  prov   : Bool := false
  deriving DecidableEq, Repr, Inhabited

/-- Device work of a race, admitted in maintenance slots (R25) and by the flash gate (R21): a demand fill, a migrator's move, a
write-through program, a write-back, a page of a mirror batch to be shipped (R199), the spate manifest, a unit of the flush set, a unit to be
restored (R90), a race's patrol read (R76). -/
inductive FlashWork where
  | fill (page : Nat)
  | move (page : Nat)
  | program (unit : Nat)
  | clean (unit : Nat)
  | ship (setting page : Nat)
  | manifest
  | spate (unit : Nat)
  | restore (unit : Nat)
  | scrub
  deriving DecidableEq, Repr, Inhabited

structure WeirSt where
  cycle    : Nat := 0                  -- core cycles since weir start
  kind     : WeirKind := .full         -- table in force
  selected : Option WeirKind := none   -- selection pending at the next slot 0
  before   : WeirKind := .full         -- table in force before a flush
  queue    : List QEntry := []         -- every admission queue, in arrival order
  pipe     : List Req := []            -- admitted, not yet performed
  stalled  : List (Option Nat × Req) := []     -- this node's own requests that wait for a credit: of a port's egress queue, or of their home queue (R27, R423)
  waitMove : List Req := []            -- wait for a page in MOVING (R65)
  parked   : List (Nat × QEntry) := [] -- fill lists: (page, request), keeping their credit
  maint    : List (Nat × FlashWork) := []      -- (race, work) waiting for a maintenance slot (R25)
  flashQ   : List (Nat × FlashWork) := []      -- waiting for the flash gate (R21)
  flashOn  : List (Nat × FlashWork) := []      -- under way
  landed   : List Landed := []         -- completions waiting for their mill, descriptor or firing
  nextId   : Nat := 1                  -- model: identity of the next request
  deriving DecidableEq, Repr, Inhabited

/-! ## Tiers and persistence (chapter 03) -/

inductive TierState where
  | flash | plain | riffle | moving
  deriving DecidableEq, Repr, Inhabited

/-- A tier map entry (Table 03-1); `dirty` and `durable` list the set unit bits, `race` the race that holds the page. -/
structure TierEntry where
  state   : TierState := .flash
  frame   : Nat := 0
  count   : Nat := 0
  pins    : Nat := 0
  poisoned : Bool := false
  riffleNo : Bool := false
  away    : Bool := false
  dirty   : List Nat := []
  durable : List Nat := []
  race    : Nat := 0
  granules : Nat := 0                  -- RIFFLE: granules of 512 bytes it takes (R274)
  subBlocks : List Nat := []           -- RIFFLE: the words of its directory entry, one for each sub-block (R274)
  stuck   : Bool := false              -- PINS reached 255: pinned until the next boot (R73)
  deriving DecidableEq, Repr, Inhabited

/-- A migrator move under way (Table 03-2). -/
structure Move where
  page : Nat
  src  : TierState := .flash           -- the state it left
  dest : TierState
  frame : Nat := 0                     -- destination frame, for PLAIN
  race : Nat := 0                      -- the race it goes to
  left : Nat := 0                      -- the race it leaves
  deriving DecidableEq, Repr, Inhabited

/-- A write-through write whose unit is being programmed (R80). -/
structure WtWrite where
  req  : Req
  unit : Nat
  deriving DecidableEq, Repr, Inhabited

structure StoreSt where
  mem     : Memory := []               -- what backed space holds now, deciphered (R336; log entry 67)
  poison  : List Nat := []             -- poisoned lines (OFFSET / 64)
  tier    : Tbl TierEntry := []
  moves   : List Move := []
  charged : Tbl Nat := []              -- durable-dirty unit → local party charged (R79)
  parkedW : List Req := []             -- DURABLE writes parked at their party's share (R80)
  wt      : List WtWrite := []
  wanted  : List Nat := []             -- pages that wait for a frame to be brought to PLAIN (R70, R73)
  hands   : Tbl Nat := []              -- clock hand by pool (R69) and by 1024 + 8·pool + race (R70)
  rowPasses : Tbl Nat := []            -- scrub passes in which a row logged corrected errors
  retired : List Nat := []             -- retired frames
  badFrames : List Nat := []           -- failing frames that still hold a pinned page (R76)
  damaged : List (Nat × Nat) := []     -- Riffle sub-blocks marked DAMAGED: (page, sub-block) (R275)
  correctedErr : Tbl Nat := []         -- corrected DRAM errors by pool since boot
  flashRecovered : Tbl Nat := []       -- units recovered by retry or parity, by pool
  pinPages : List (Pair × Nat × Nat) := []     -- pin references held: (origin, page, 1)
  deriving DecidableEq, Repr, Inhabited

/-- A spate flush (R83 to R88). -/
inductive FlushKind where
  | none | early | power
  deriving DecidableEq, Repr, Inhabited

structure FlushSt where
  kind    : FlushKind := .none
  pending : Bool := false              -- triggered; starts at the next period boundary
  toPower : Bool := false              -- an early flush that PFW# turns into a power flush
  trigger : Nat := 0                   -- SPATE_START ARG0
  set     : List Nat := []             -- flush set, in manifest order
  left    : List Nat := []             -- units not yet programmed
  manifestDone : Bool := false
  serdesOff : Bool := false
  cut     : Bool := false              -- stopped by low input (R88)
  braced  : Bool := false
  causes  : List Nat := []             -- what braced the node, as SPATE_START numbers triggers
  braceNext : List Nat := []           -- causes that brace the node when the flush under way ends
  bootBrace : List Nat := []           -- BRACE and shock taken during boot (R369)
  startMono : Nat := 0                 -- keeper counter at the trigger, for SPATE_DONE
  alarmOff : Bool := false             -- R387: shut down when the flush is done
  alarmCause : Nat := 0
  deriving DecidableEq, Repr, Inhabited

/-! ## Coherence (chapter 05) -/

inductive DirState where
  | s | em | o
  deriving DecidableEq, Repr, Inhabited

/-- A directory entry in use (Table 05-2); `slice` and `way` are its place. -/
structure DirEntry where
  line    : Nat
  slice   : Nat
  way     : Nat
  state   : DirState
  modified : Bool := false
  busy    : Bool := false
  coarse  : Bool := false
  single  : Bool := false
  setId   : Nat := 0
  sharers : List Nat := []             -- member indices 0 to 15 with their bit set
  owner   : Nat := 0                   -- OWNER_IDX
  pending : Nat := 0                   -- PENDING
  deriving DecidableEq, Repr, Inhabited

/-- An outstanding snoop at the home: SNP_ID, the member it went to and the line. -/
structure Snoop where
  id     : Nat
  line   : Nat
  member : Nat
  agent  : Pair
  wb     : Bool := false               -- answered NONE_WB; waits for the WB_DIRTY (R134)
  wbGot  : Bool := false               -- a WB_DIRTY of its agent has been performed since it was sent
  deriving DecidableEq, Repr, Inhabited

/-- An open transaction on a line (R134): the request, or an eviction and the request that caused it. -/
structure Txn where
  line  : Nat
  req   : Option Req                   -- none: a directory eviction
  evictFor : Option Req := none
  data  : Option Bytes := none         -- data a snoop returned
  results : List (Nat × Nat) := []     -- (member, RESULT)
  held  : Bool := false                -- the requester already held a copy
  deriving DecidableEq, Repr, Inhabited

/-- A snoop relayed by this node to a local agent (R130): the home, its SNP_ID, and the results collected. -/
structure Relay where
  home   : Nat
  snpId  : Nat
  kind   : Op
  agent  : Pair
  addr   : Nat
  waits  : Nat                         -- copies sent and not yet answered
  best   : Nat := 0                    -- strongest RESULT so far, by the order of R130
  data   : Bytes := []
  deriving DecidableEq, Repr, Inhabited

inductive DomState where
  | joining | up | falling
  deriving DecidableEq, Repr, Inhabited

/-- A coherent domain this node homes or serves (R140, R141). -/
structure Domain where
  num    : Nat
  agents : List Pair
  state  : DomState := .joining
  joins  : List Pair := []             -- JOINs held since JOINING was entered
  cause  : Nat := 0
  deriving DecidableEq, Repr, Inhabited

/-- A notice being re-sent until accepted (R142, R148). -/
structure Notice where
  dest   : Nat
  domain : Nat
  agent  : Pair
  join   : Bool
  accepted : Bool := false
  deriving DecidableEq, Repr, Inhabited

structure CohSt where
  dir     : List DirEntry := []
  pointers : Tbl Nat := []             -- replacement pointer by slice·16,384 + set (R125)
  snoops  : List Snoop := []
  txns    : List Txn := []
  waits   : List Req := []             -- requests waiting on a BUSY line, in order of arrival
  waitWay : List Req := []             -- requests waiting for a directory way or a hold-filter place
  relays  : List Relay := []
  domains : List Domain := []
  notices : List Notice := []
  joined  : List Pair := []            -- local agents that have joined (R148)
  hot     : List (Nat × Nat) := []     -- hot-line cache: (line, party), most recently used first (R18)
  deriving DecidableEq, Repr, Inhabited

/-! ## Sluice windows and mirrors (chapter 07) -/

/-- A staging block of a window (R194): the granules staged, newest content, and the stores waiting for their ack. `marks` names the
bytes present of a granule staged only in part; `due` says that the block is to be shipped once those granules are whole. -/
structure Stage where
  window : Nat
  block  : Nat
  granules : List (Nat × Bytes) := []  -- (granule number in the block, 64 bytes), oldest first
  marks  : List (Nat × List Nat) := []
  stores : List Req := []
  due    : Bool := false
  deriving DecidableEq, Repr, Inhabited

/-- A shipped block: its SEQ, the pieces unacknowledged, its granules until they land (R169), the bytes stored of those not stored whole,
and the stores that wait (R195). -/
structure Shipped where
  window : Nat
  seq    : Nat
  block  : Nat
  pieces : List Nat
  granules : List (Nat × Bytes) := []
  marks  : List (Nat × List Nat) := []
  stores : List Req
  deriving DecidableEq, Repr, Inhabited

/-- An inbound piece at the far gateway (R195, R196): the writes or the read it makes, and those still outstanding. -/
structure FarPiece where
  id     : Nat
  window : Nat
  seq    : Nat
  req    : Req
  begun  : Bool := false
  left   : Nat := 0
  status : Status := .ok
  deriving DecidableEq, Repr, Inhabited

/-- A read-buffer block (R196). -/
structure ReadBuf where
  window : Nat
  block  : Nat
  data   : Bytes
  deriving DecidableEq, Repr, Inhabited

/-- A block fetch under way, with the loads that wait for it; stores that have landed since it began, which it may not have seen; whether
an acquire came after it began (R169), and the loads that then wait for another. -/
structure Fetch where
  window : Nat
  block  : Nat
  got    : List (Nat × Bytes) := []
  loads  : List Req := []
  laid   : List (Nat × Bytes) := []    -- (place in the block, bytes), in the order in which they landed
  stale  : Bool := false
  later  : List Req := []
  deriving DecidableEq, Repr, Inhabited

/-- A mirror setting's run-time state (R199 to R203, Table 07-11). -/
structure MirrorSt where
  state   : Nat := 0                   -- STATE of Table 07-11
  bits    : List Nat := []             -- pages with their mirror bit set
  batch   : Nat := 0                   -- number of the batch shipping
  ship    : List Nat := []             -- pages of it
  unacked : List Nat := []             -- pieces (4 KiB unit numbers) unacknowledged
  marking : Bool := false              -- the mark is sent and not acknowledged
  resync  : Bool := false
  lastBatch : Nat := 0
  lagExceeded : Bool := false
  primary : Bool := false
  periods : Nat := 0                   -- weir periods since the last BATCH_PERIOD boundary
  due     : Bool := false              -- at a BATCH_PERIOD boundary
  closedAt : Option Nat := none        -- keeper monotonic counter when the oldest unmarked batch closed (R201)
  full    : Bool := false              -- every page was marked at boot, and no mark has been acknowledged since (R203, R366)
  deriving DecidableEq, Repr, Inhabited

structure SluiceSt where
  stages  : List Stage := []           -- newest first
  shipped : List Shipped := []
  bufs    : List ReadBuf := []         -- most recently used first
  fetches : List Fetch := []
  seq     : Tbl Nat := []              -- next SEQ by window
  far     : List FarPiece := []        -- inbound pieces, in order of arrival
  nextFar : Nat := 0                   -- model: the next inbound piece's name
  waitStage : List Req := []           -- this node's own stores that wait for a staging block
  mirrors : Tbl MirrorSt := []
  deriving DecidableEq, Repr, Inhabited

/-! ## Keeper, identity and test (chapters 14, 16, 17) -/

structure KeeperSt where
  up       : Bool := false
  eid      : Nat := 0                  -- MCTP endpoint ID
  busy     : Bool := false             -- a state-changing command is in progress
  buf      : List LogEntry := []       -- SRAM log buffer (R393)
  fifo     : List (Nat × Nat × Nat × Nat × Nat × Nat) := []   -- die events held while the keeper restarts
  lost     : Nat := 0                  -- events lost to overflow
  powerW   : Nat := 0                  -- mean input power of the last window
  alert    : List Nat := []            -- set bits of ALERT_CAUSE
  limitW   : Nat := 950
  calm     : Nat := 0
  windows  : Bool := false             -- cap windows run
  capMet   : Bool := true              -- no CAP_UNMET episode
  levels   : List (Sensor × Level) := []   -- sensors not at normal
  doubleRefresh : List Nat := []       -- stacks with doubled refresh
  gravSum  : Int × Int × Int := (0, 0, 0)
  gravSamples : List (Int × Int × Int) := []
  shockRun : Nat := 0                  -- consecutive samples at the threshold
  shockPeak : Nat := 0                 -- peak of the run, mg
  shockAxes : Nat := 0                 -- axes above the threshold in the run
  shockOver : Bool := false            -- the operating rating is passed (R386)
  shockHold : Nat := 0                 -- samples on the safe side until the shock row leaves its alarm level (R385)
  filmWet  : Bool := false
  nonce    : Nat := 0                  -- the provisioning nonce
  transfer : Option Nat := none        -- open PLDM transfer: component 1 or 2
  deferred : Bool := false             -- ActivateFirmware waits for the early flush (R398)
  mono     : Nat := 0                  -- keeper monotonic counter
  reboot   : Nat := 0                  -- commanded reset awaiting the shutdown: 1 down, 2 warm, 3 cold
  written  : Option Nat := none        -- dirty units that the shutdown has written back, once it does (R379)
  rebootCause : Nat := 0               -- SHUTDOWN ARG0
  reachDrops : Nat := 0                -- reach serial drops (R408)
  deriving DecidableEq, Repr, Inhabited

/-- A transport of R349: its negotiated algorithm, its certificate and chunk state, and the inputs signed. -/
structure Spdm where
  versioned : Bool := false
  capable   : Bool := false
  algorithms : Bool := false
  inputs    : List (Nat × Bool) := []  -- SHA-384 of the last 4 inputs signed; true: SLH-DSA signature ready
  chunk     : Nat := 0                 -- next chunk number of a chunked transfer
  asked     : Option Nat := none       -- input of the last GET_SLH_SIG answered ResponseNotReady
  deriving DecidableEq, Repr, Inhabited

structure TestSt where
  ir      : Nat := 0x01                -- TAP instruction in force: IDCODE after a TAP reset (log entry 1)
  cells   : List Bool := []            -- boundary register contents
  driven  : Bool := false              -- the boundary cells drive the pins
  floated : Bool := false              -- HIGHZ
  acTest  : Nat := 0                   -- 0 none, 1 pulse, 2 train
  laneMode : Tbl Nat := []             -- LT_LANE_CTL.MODE
  lanePattern : Tbl Nat := []
  laneEye  : Tbl Nat := []
  lanePhase : Tbl Nat := []
  laneLevel : Tbl Nat := []
  injected : Tbl Nat := []             -- bits inverted on a lane
  lock    : List Nat := []             -- lanes with LOCK set
  errors  : Tbl Nat := []              -- ERRORS
  deriving DecidableEq, Repr, Inhabited

/-- Host ports (R372, R414). -/
structure HostSt where
  perst   : Bool := true               -- PERST# asserted
  training : Bool := false
  trained : Bool := false
  cxl     : Bool := false
  rate    : Nat := 0
  width   : Nat := 0
  l0      : Bool := false
  l0Count : Bool := false              -- the 100 µs count of R142 runs
  memActive : Bool := false            -- Memory_Active
  infoValid : Bool := false
  config  : Tbl W64 := []              -- MSI-X and config state that an FLR clears (R375)
  snoops  : List (Nat × Nat × Op) := []    -- BISnp outstanding: (SNP_ID, line, kind)
  dead    : Bool := false
  events  : List Nat := []             -- CXL event records
  deriving DecidableEq, Repr, Inhabited

/-! ## Tide (chapter 08) -/

structure TideSt where
  count   : Nat := 0                   -- µs
  sub     : Nat := 0                   -- TIDE periods towards the next tick
  free    : Bool := true               -- TIDE_FREE
  locked  : Bool := false              -- it has been locked since power-on
  slew    : Nat := 0                   -- ticks still to be counted at half rate
  load    : Option Nat := none         -- seconds to load at the next marker
  marks   : Nat := 0                   -- markers seen since loss
  phase   : Nat := 0                   -- model: ticks since the last marker
  deriving DecidableEq, Repr, Inhabited

/-! ## What the node sends outside -/

/-- Answers of PLDM firmware update (R397, R398). -/
inductive PldmAnswer where
  | accepted | retryRequestUpdate | invalidComponent | verifySuccess | verifyFailed | activated | activationDeferred
  deriving DecidableEq, Repr

/-- SPDM responses (R349, R351). -/
inductive SpdmRsp where
  | version | capabilities | algorithms | digests | certificate | challengeAuth | measurements | vendorDefined | chunkSendAck | chunkResponse
  deriving DecidableEq, Repr

/-- SPDM errors (R349, R351). -/
inductive SpdmErr where
  | invalidRequest | unexpectedRequest | unsupportedRequest | responseNotReady
  deriving DecidableEq, Repr

/-- One thing sent outside: a flit, a CXL or PCIe message, an announcement, or an answer of the keeper or the TAP. -/
inductive Output where
  | flit (link : Nat) (f : Flit)
  | announce (dest : Nat) (a : Announcement)
  | sliceRead (dest : Nat) (length : Nat)
  | cxlData (port tag : Nat) (data : Bytes) (poisoned : Bool)
  | cxlCmp (port tag : Nat)
  | biSnp (port id line : Nat) (kind : Op)
  | biConflictAck (port tag : Nat)
  | msix (port vector : Nat)
  | pcieRead (port tag addr len : Nat)
  | pcieWrite (port tag addr : Nat) (data : Bytes)
  | configRetry (port : Nat)
  | mailbox (port : Nat) (cmd : MailboxCmd) (words : List Nat)
  | keeper (code result : Nat) (words : List Nat)
  | keeperLog (entries : List LogEntry) (proven : List Bool)
  | keeperSeal (rec : Option SealRec)
  | diag (words : List Nat)
  | pldm (a : PldmAnswer)
  | spdm (t : Transport) (rsp : SpdmRsp) (words : List Nat) (signedInput : Option Nat)
  | spdmError (t : Transport) (e : SpdmErr)
  | tap (word : Nat)
  | tapPins (pins : List Bool)
  deriving DecidableEq, Repr

/-! ## The state -/

/-! ## Rills and courses (chapter 08) -/

inductive RillState where
  | off | active | draining | rearm | faulted
  deriving DecidableEq, Repr, Inhabited

/-- A rill entry (Table 08-1). -/
structure RillEnt where
  kind   : Nat := 0
  state  : RillState := .off
  gen    : Nat := 0
  notifyEn : Bool := false
  asid   : Nat := 0
  msixVec : Nat := 0
  descBase : Nat := 0
  descLog2 : Nat := 4
  compBase : Nat := 0
  compLog2 : Nat := 4
  courseBase : Nat := 0
  lapLenM1 : Nat := 0
  courseCount : Nat := 0
  reach  : Nat := 0
  lapBase : Nat := 0
  descHead : Nat := 0
  descTail : Nat := 0
  compTail : Nat := 0
  compHead : Nat := 0
  courseNext : Nat := 0
  running : Nat := 0
  fault  : Nat := 0
  armed  : Bool := false
  late   : Nat := 0
  reachDrop : Nat := 0
  paramBase : Nat := 0
  counterPage : Nat := 0
  sequencer : Bool := false            -- a course sequencer is bound (R210)
  params : List Nat := []              -- parameter block words read at ENABLE (R277, R298, R313)
  seqs   : Nat := 0                    -- ACTIVE sequences counted (R278)
  deriving DecidableEq, Repr, Inhabited

/-- RILL_STATUS of a party (Table 08-4), and a command that waits for a rill-cache entry (R219). -/
structure RillCtl where
  rill   : Nat := 0
  state  : RillState := .off
  gen    : Nat := 0
  result : Nat := 0                    -- 0 DONE, 1 BUSY, 2 REJECTED
  reason : Nat := 0
  fault  : Nat := 0
  cmdDrop : Bool := false
  waiting : Option (Nat × Nat) := none -- (CMD, RILL)
  deriving DecidableEq, Repr, Inhabited

/-- A piece or chunk of a running descriptor: requests issued for it, and what has landed. -/
structure Chunk where
  num    : Nat
  size   : Nat := 0                    -- bytes counted when it completes
  issued : Nat := 0                    -- writes issued
  landed : Nat := 0                    -- writes landed
  reads  : Nat := 0                    -- reads issued
  readsDone : Nat := 0                 -- reads landed
  got    : List (Nat × Bytes) := []    -- (offset in the transfer, bytes read), not yet written on
  failed : Bool := false
  counted : Bool := false              -- its counter advance has been issued
  deriving DecidableEq, Repr, Inhabited

/-- A running descriptor. -/
structure Job where
  rill   : Nat
  index  : Nat
  party  : Nat
  kind   : Nat
  op     : Nat
  gen    : Nat := 0
  notify : Bool := false
  userTag : Nat := 0
  words  : List Nat := []              -- words 2 to 7
  asid   : Nat := 0
  ctx    : Option Ctx := none          -- the table in force when it started (R59)
  born   : Nat := 0                    -- model: the request number when it started (R261)
  race   : Nat := 0
  begun  : Bool := false               -- its operation has taken its first step
  counterOk : Bool := false            -- the counter check of R191 has landed
  next   : Nat := 0                    -- next piece or chunk to issue
  chunks : List Chunk := []
  err    : Option (Nat × Status × Nat) := none -- (source offset, status, DETAIL) of the first failure
  bytes  : Nat := 0                    -- bytes landed and counted
  detail : Nat := 0
  done   : Nat := 0                    -- pieces complete
  slots  : List Nat := []              -- codebook slots it refers to (R261)
  target : Nat := 0                    -- 1: a COPY that expands coded pages
  builds : List Nat := []              -- slots it is building (R258)
  cut    : Bool := false               -- ABORT or a reset cut it
  withdrawn : Bool := false            -- teardown cut it
  indet  : Bool := false               -- a reduction of it is lost: its target is indeterminate (R204)
  want   : List (Nat × Nat) := []      -- operand ranges on other nodes that it reads before it begins
  stage  : List (Nat × Nat) := []      -- pieces of them whose LOADs are still to be issued
  lost   : List (Nat × Nat × Status) := [] -- pieces of an ATTENTION descriptor's operands whose LOADs failed (R284, R293)
  seen   : List (Nat × Nat) := []      -- operand ranges at hand that have been counted (R68)
  names  : List Nat := []              -- sequences it names (R289)
  deriving DecidableEq, Repr, Inhabited

/-- A completion record that is due (Table 08-9). -/
structure RecDue where
  rill   : Nat
  index  : Nat
  status : Status
  course : Bool := false
  indet  : Bool := false
  gen    : Nat := 0
  userTag : Nat := 0
  detail : Nat := 0
  notify : Bool := false
  started : Bool := true               -- counted in RUNNING
  op     : Nat := 0
  names  : List Nat := []              -- sequences its descriptor named (R289)
  deriving DecidableEq, Repr, Inhabited

/-- A course firing under way (R221, R222). -/
structure Firing where
  id     : Nat
  rill   : Nat
  entry  : Nat
  target : Nat
  party  : Nat
  asid   : Nat := 0
  ctx    : Option Ctx := none
  born   : Nat := 0
  action : Nat
  format : Nat
  elem   : Nat := 0
  src    : Nat
  dst    : Nat
  len    : Nat
  rowBytes : Nat := 0
  counter : Option Nat := none         -- virtual address of its counter
  next   : Nat := 0                    -- next 4 KiB request to issue
  issued : Nat := 0                    -- requests issued
  landed : Nat := 0
  reads  : Nat := 0
  readsDone : Nat := 0
  got    : List (Nat × Bytes) := []
  put    : Nat := 0                    -- bytes of a PANEL64 tile already sent on
  pages  : List Nat := []              -- FILL: tier pages still to be made PLAIN
  slots  : List Nat := []              -- SHOAL_BLOCKS: slots it refers to
  needs  : List (Nat × Nat) := []      -- (race, slot) copies still to be made resident
  err    : Option (Nat × Status) := none
  counted : Bool := false
  deriving DecidableEq, Repr, Inhabited

/-- A host bus access under way (R216, R296): of a descriptor's chunk, or a host row of an embedding piece of (group, node). -/
structure DmaOp where
  tag    : Nat
  rill   : Nat                         -- the group of an embedding piece
  index  : Nat                         -- its node
  num    : Nat                         -- request of a read, chunk of a write, row of a piece
  off    : Nat := 0                    -- where it lies in its transfer
  len    : Nat := 0                    -- bytes of a write
  embed  : Bool := false
  deriving DecidableEq, Repr, Inhabited

/-- A sequence table on another node, read for an ENABLE or a re-arm before its ACTIVE records are counted (R277). -/
structure Probe where
  rill   : Nat
  id     : Nat
  left   : Nat                         -- LOADs that have not landed
  got    : List (Nat × Bytes) := []    -- (virtual address, bytes)
  deriving DecidableEq, Repr, Inhabited

structure RillGroup where
  table   : Tbl RillEnt := []
  pending : List Nat := []             -- pending map (R215)
  bells   : Tbl (Nat × Nat) := []      -- doorbells that wait for a rill-cache entry: (DESC_TAIL, COMP_HEAD)
  cache   : List Nat := []             -- rills on chip, most recently used first (R219)
  ctl     : Tbl RillCtl := []          -- by party
  jobs    : List Job := []
  due     : List RecDue := []
  firings : List Firing := []
  nextFiring : Nat := 0
  tiles   : Tbl Memory := []           -- tile buffers by 16·race + party (R222)
  dma     : List DmaOp := []           -- host bus accesses under way
  probes  : List Probe := []
  nextDma : Nat := 0
  lastRace : Tbl Nat := []             -- rill last served, by race (R28)
  epochs  : Tbl Nat := []              -- epochs of the course sequencers, by rill, and of the engine (65,536) (R165)
  deriving DecidableEq, Repr, Inhabited

/-! ## Mills (chapter 09) -/

/-- Where a mill's request goes (R166): the home node, the home race of its own node, or a delta group (R184). -/
inductive Dest where
  | node (n : Nat)
  | race (n : Nat)
  | group (n : Nat)
  deriving DecidableEq, Repr

/-- A memory step that has not finished (R235): the SRAM bytes or the register it still writes. -/
structure MemStep where
  id     : Nat
  step   : Nat
  epoch  : Nat := 0
  dests  : List Dest := []             -- where its requests go
  acq    : Bool := false               -- an acquire (R161)
  far    : Bool := false               -- a window write or a multicast store: complete only when acknowledged (Table 06-1)
  addr   : Nat := 0                    -- virtual address of its first byte
  lo     : Nat := 0                    -- SRAM destination
  len    : Nat := 0
  reg    : Option Nat := none          -- scalar destination (ATOM)
  row    : Nat := 0                    -- GATHER: its row
  isRead : Bool := false
  soft   : Bool := false
  deriving DecidableEq, Repr, Inhabited

/-- What a mill saves when it issues a provisional LD (R247). -/
structure Checkpoint where
  regs   : List W64
  lc     : List (Nat × Nat)
  flags  : List Nat
  soft   : Status
  pc     : Nat
  load   : MemStep                     -- the provisional load
  ended  : Option (Status × Nat × Bool) := none   -- an end that an earlier memory step has brought meanwhile
  deriving DecidableEq, Repr, Inhabited

/-- A WAIT under way: the step's counter address, its compare value, and the core cycles left. -/
structure WaitSt where
  va     : Nat
  target : Nat
  polling : Bool := false
  deriving DecidableEq, Repr, Inhabited

structure Mill where
  party  : Option Nat := none          -- party of its last descriptor
  job    : Option (Nat × Nat) := none  -- (rill, index) of the descriptor it runs
  piece  : Option Nat := none          -- the piece of that descriptor it runs, where each has a mill of its own (R248)
  table  : List (W64 × W64) := []      -- sequencer store
  pc     : Nat := 0
  regs   : List W64 := List.replicate 16 0#64
  lc     : List (Nat × Nat) := List.replicate 4 (0, 0)     -- (count, reload)
  flags  : List Nat := []              -- set flags of Table 09-8 but the live ones
  cq     : List (Nat × Nat) := []      -- (FP32 key, id), best first
  cqLimit : Nat := 1024
  sram   : Memory := []
  soft   : Status := .ok               -- SOFT_STATUS
  steps  : List MemStep := []
  nextStep : Nat := 0
  wait   : Option WaitSt := none
  branch : Option Nat := none          -- a branch that waits for a memory step's flags: the step
  ckpt   : Option Checkpoint := none
  undo   : List (Nat × Byte) := []     -- newest first
  epoch  : Nat := 0
  ended  : Option (Status × Nat × Bool) := none   -- it stops: STATUS, DETAIL, INDETERMINATE
  deriving DecidableEq, Repr, Inhabited

/-! ## Codebooks, expanders and eddy queues (chapter 10) -/

inductive CbState where
  | free | building | live | retiring
  deriving DecidableEq, Repr, Inhabited

/-- A codebook slot and its device copy (R257, R258). -/
structure Slot where
  state  : CbState := .free
  gen    : Nat := 0
  dCode  : Nat := 0
  two    : Bool := false
  book   : List Nat := []              -- primary: 256·d BF16 patterns
  resid  : List Nat := []              -- residual book, if two-stage
  refs   : Nat := 0                    -- reference count (R261)
  boundary : Bool := false             -- RETIRING without references: a period boundary has come since
  retiredAt : Nat := 0                 -- model: the request number when it entered RETIRING (R261)
  deriving DecidableEq, Repr, Inhabited

/-- CB_STATUS of a party (Table 10-6), with an INSTALL that waits for its RETIRING target. -/
structure CbCtl where
  slot   : Nat := 0
  state  : CbState := .free
  gen    : Nat := 0
  result : Nat := 0
  reason : Nat := 0
  cmdDrop : Bool := false
  waiting : Option W64 := none
  deriving DecidableEq, Repr, Inhabited

/-- What a transfer whose blocks are expanded delivers to. -/
inductive XDest where
  | memory (va : Nat)                  -- granule writes of the transfer's source
  | hostBus (port addr : Nat)          -- a host bus address (R265)
  | partner (port addr : Nat)          -- one STORE for each block
  deriving DecidableEq, Repr, Inhabited

/-- The transfer an expanded page belongs to. -/
structure XferId where
  course : Bool
  rill   : Nat
  index  : Nat                         -- descriptor index or firing id
  chunk  : Nat := 0
  deriving DecidableEq, Repr, Inhabited

/-- A coded page in an expander's input buffer (R268). -/
structure ExpPage where
  xfer   : XferId
  party  : Nat
  off    : Nat                         -- coded offset of the page from the transfer's start
  pos    : Nat := 0                    -- bytes of the page already parsed
  ref    : Option Nat := none          -- slot referenced by the block there, whose header is accepted (R261)
  data   : Bytes
  dest   : XDest
  born   : Nat := 0                    -- the request number when its transfer was translated (R261)
  first  : Bool := false               -- the transfer's first coded page (R255)
  deriving DecidableEq, Repr, Inhabited

/-- A word of an eddy queue (R269). -/
structure EddyWord where
  data   : W64
  check  : BitVec 8 := 0#8             -- its SECDED check bits
  valid  : Nat                         -- VALID_BYTES: 0 means 8
  xfer   : XferId
  off    : Nat                         -- destination offset of the word within the transfer
  last   : Bool                        -- the block's last word
  first  : Bool := false
  slot   : Nat
  coded  : Nat := 0                    -- coded offset of its block from the transfer's start (R256)
  discard : Bool := false              -- flushed (R272)
  dest   : XDest
  party  : Nat := 15
  deriving DecidableEq, Repr, Inhabited

/-- A race's expander, eddy queue and codebook store. -/
structure RaceExp where
  input  : List ExpPage := []
  queue  : List EddyWord := []
  lastWord : W64 := 0#64               -- the word last read
  corrected : Nat := 0
  uncorrected : Nat := 0
  flushing : Bool := false
  underrun : Bool := false
  store  : List (Nat × Nat) := []      -- resident copies (slot, party), most recently used first
  miss   : Option Nat := none          -- slot the block at the front waits for
  block  : Bytes := []                 -- bytes of the block being read, gathered for its delivery
  bad    : Bool := false               -- a double-bit error in that block
  deriving DecidableEq, Repr, Inhabited

/-- The outcome of each block of an expanding transfer, in coded order (R256): coded offset, status, P. -/
structure XOutcome where
  xfer   : XferId
  list   : List (Nat × Status × Nat) := []
  deriving DecidableEq, Repr, Inhabited

structure ShoalSt where
  slots  : Tbl Slot := []
  base   : Tbl Nat := []               -- CODEBOOK_BASE by party
  ctl    : Tbl CbCtl := []
  races  : Tbl RaceExp := []
  outcomes : List XOutcome := []
  expOff : List (XferId × Nat) := []   -- EXP_OFF0 of each transfer (R255)
  deriving DecidableEq, Repr, Inhabited

/-! ## Attention (chapter 11) -/

/-- One span's partial of one query head: the head, the span, m, l and o. -/
structure SpanPart where
  head   : Nat                         -- query head
  span   : Nat
  m      : Nat                         -- FP32 patterns
  l      : Nat
  o      : List Nat
  deriving DecidableEq, Repr, Inhabited

/-- A sequence of a running ATTEND. -/
structure AttSeq where
  seq    : Nat
  pages  : List Nat                    -- virtual addresses of its pages
  keyBook : List Nat := []             -- slot of each KV head's key book
  valBook : List Nat := []
  parts  : List SpanPart := []         -- in the order the spans completed
  status : Status := .ok               -- POISON or UNCORRECTABLE found for it (R293)
  issued : Nat := 0                    -- STOREs sent and not acknowledged
  sent   : Bool := false
  complete : Bool := false
  deriving DecidableEq, Repr, Inhabited

structure AttRun where
  rill   : Nat
  index  : Nat
  layer  : Nat
  seqs   : List AttSeq
  deriving DecidableEq, Repr, Inhabited

/-! ## Exchange groups (chapters 12, 13) -/

/-- A message posted to a serving rill, or being served (R302, R303). `node` is the requester. -/
structure Posted where
  group  : Nat
  node   : Nat
  words  : List Nat                    -- the header's words
  body   : Bytes
  held   : List (Nat × Nat) := []      -- (table, version) or (index, epoch) it holds since its posting (R311, R322)
  asked  : List Nat := []              -- host rows asked for
  host   : List (Nat × Option Bytes) := []     -- host rows that came, none for a PCIe error
  verBad : Bool := false               -- its pinned VERSION did not exist when it was posted (R311)
  working : Bool := false              -- in work (R303)
  beats  : Nat := 0
  slots  : List Nat := []              -- codebook slots referred to (R315)
  seen   : List Nat := []              -- tier pages it has read since it came into work (R65)
  deriving DecidableEq, Repr, Inhabited

/-- A piece of an exchange descriptor for one owner. -/
structure ExPiece where
  owner  : Nat
  first  : Nat := 0                    -- first bag, entry or query of the batch in it
  words  : List Nat := []              -- header words (SEQ filled when sent)
  body   : Bytes := []
  bags   : List Nat := []              -- batch numbers of its bags or entries, in order
  sent   : Bool := false               -- its body is being stored, or the whole message was handed over
  off    : Nat := 0                    -- bytes of words 1 to 7 and the body whose STOREs are issued
  headed : Bool := false               -- its header is stored
  seq    : Nat := 0
  reply  : Option (List Nat × Bytes) := none   -- the reply's header words and body
  deriving DecidableEq, Repr, Inhabited

/-- A running exchange descriptor. -/
structure ExchRun where
  rill   : Nat
  index  : Nat
  group  : Nat
  pieces : List ExPiece
  outs   : List (Nat × Bytes) := []    -- output bytes still to be stored
  result : Option (Status × Nat × Bool) := none   -- STATUS, DETAIL, INDETERMINATE once every reply is here
  advance : Nat := 0                   -- bytes by which COUNTER is to advance
  deriving DecidableEq, Repr, Inhabited

/-- A reply on its way to a requester: its body is stored first, then its header (R302). -/
structure OutMsg where
  group  : Nat
  node   : Nat
  word0  : Nat
  rest   : Bytes                       -- words 1 to 7 and the body
  off    : Nat := 0                    -- bytes of it whose STOREs are issued
  issued : Nat := 0
  landed : Nat := 0
  headed : Bool := false               -- word 0 has been stored
  deriving DecidableEq, Repr, Inhabited

/-- The open step of a row at an owner (R309). -/
structure Staged where
  group  : Nat
  table  : Nat
  row    : Nat
  winner : Nat := 0                    -- origin node of the winning REPLACE
  slot   : Option Nat := none          -- its staging slot
  adds   : List (List Nat) := []       -- the ADDs to its FP32 accumulator, each one pattern for each element; empty: no ADD
  bytes  : Nat := 0                    -- staging bytes it takes
  deriving DecidableEq, Repr, Inhabited

/-- A reply landed in a return slot, or a local piece's reply. -/
structure Landing where
  group  : Nat
  node   : Nat                         -- the owner
  words  : List Nat
  body   : Bytes
  deriving DecidableEq, Repr, Inhabited

structure ExchSt where
  posted : List Posted := []
  runs   : List ExchRun := []
  staged : List Staged := []
  landed : List Landing := []
  seqs   : Tbl Nat := []               -- last SEQ by 1024·group + owner
  waiting : List (Nat × Nat × Nat) := []       -- (group, owner, SEQ) of the request messages outstanding
  replies : List OutMsg := []
  committing : List (Nat × Nat) := []  -- (group, table) whose COMMIT runs here
  deriving DecidableEq, Repr, Inhabited

/-- The state of the node. -/
structure State where
  boot   : BootSt := {}
  pins   : PinSt := {}
  nv     : NvSt := {}
  hw     : Headwater := {}             -- the headwater image in force (RWL: fixed from boot to boot)
  map    : MapSt := {}
  party  : Tbl PartySt := []           -- party pages, parties 0 to 7
  net    : NetSt := {}
  weir   : WeirSt := {}
  store  : StoreSt := {}
  flush  : FlushSt := {}
  coh    : CohSt := {}
  sluice : SluiceSt := {}
  keeper : KeeperSt := {}
  spdm   : Tbl Spdm := []              -- by transport: 0 MCTP, 1 and 2 the DOE of host ports 0 and 1
  test   : TestSt := {}
  hosts  : Tbl HostSt := []            -- host ports 0 and 1
  tide   : TideSt := {}
  rill   : RillGroup := {}
  mills  : Tbl Mill := []              -- mills 0 to 799
  shoal  : ShoalSt := {}
  attn   : List AttRun := []
  exch   : ExchSt := {}
  out    : List Output := []           -- everything sent, oldest first
  freeCtr : Nat := 0                   -- model: the next free value (Sys2Proof/Config.lean)
  pending : List Instr := []           -- the commands waiting, first in, first out
  deriving DecidableEq, Repr

/-- The node right after reset: the input has just reached 38.0 V, nothing has booted, flash and log are as delivered
(R356; the values the spec does not state are named in log entry 1). -/
def State.reset : State := {}

end Sys2Proof.Machine
end

