-- ==== Sys2Proof/Machine/Ops.lean ====
section
/-!
DEFINITION. Bit fields, byte strings, sparse tables, sorted sets and byte memory: the operations every meaning uses.
-/
namespace Sys2Proof.Machine

open Sys2Proof

/-! ## Bit fields and byte strings -/

/-- Bits [lo+n-1 : lo] of a number. -/
def bits (x lo n : Nat) : Nat := x / 2 ^ lo % 2 ^ n

/-- Bit i of a number. -/
def bit (x i : Nat) : Bool := x / 2 ^ i % 2 == 1

/-- Bits [lo+n-1 : lo] of a word, as a number. -/
def field (w : W64) (lo n : Nat) : Nat := bits w.toNat lo n

/-- Bit i of a word. -/
def flag (w : W64) (i : Nat) : Bool := bit w.toNat i

/-- 1 for true. -/
def b2n (b : Bool) : Nat := if b then 1 else 0

/-- A value placed at bit lo. -/
def at' (x lo : Nat) : Nat := x * 2 ^ lo

/-- The n low bytes of a number, little-endian (R13). -/
def toBytes (x : Nat) : Nat → Bytes
  | 0 => []
  | n + 1 => BitVec.ofNat 8 x :: toBytes (x / 256) n

/-- The number a little-endian byte string holds (R13). -/
def ofBytes : Bytes → Nat
  | [] => 0
  | b :: t => b.toNat + 256 * ofBytes t

/-- The number read as an n-bit two's complement value. -/
def signed (n x : Nat) : Int :=
  let m := x % 2 ^ n
  if m < 2 ^ (n - 1) then Int.ofNat m else Int.ofNat m - Int.ofNat (2 ^ n)

/-- The n-bit pattern of an integer. -/
def unsigned (n : Nat) (x : Int) : Nat := (x % Int.ofNat (2 ^ n)).toNat

/-- The list with its length made n, zeros appended. -/
def padTo (n : Nat) (bs : Bytes) : Bytes := (bs ++ List.replicate (n - bs.length) 0#8).take n

/-- Element i of a list, or d. -/
def nth {α : Type} (d : α) (l : List α) (i : Nat) : α := (l[i]?).getD d

/-- The list with element i replaced. -/
def setNth {α : Type} (l : List α) (i : Nat) (x : α) : List α := l.set i x

/-! ## Serial-number comparison (gen_cmp of chapter 02, reach_cmp of chapter 08) -/

inductive SerCmp where
  | same | newer | older | far
  deriving DecidableEq, Repr

/-- Comparison of two n-bit serial numbers: gen_cmp with 2^n in place of 65,536. -/
def serCmp (n a b : Nat) : SerCmp :=
  let d := (a + 2 ^ n - b % 2 ^ n) % 2 ^ n
  if d = 0 then .same
  else if d < 2 ^ (n - 1) then .newer
  else if d = 2 ^ (n - 1) then .far
  else .older

/-! ## Sparse tables -/

/-- The entry of key k, or d. -/
def Tbl.get {α : Type} (d : α) : Tbl α → Nat → α
  | [], _ => d
  | (j, x) :: t, k => if j = k then x else Tbl.get d t k

/-- The entry of key k, if there is one. -/
def Tbl.find {α : Type} : Tbl α → Nat → Option α
  | [], _ => none
  | (j, x) :: t, k => if j = k then some x else Tbl.find t k

/-- The table with entry k set, keys kept in rising order. -/
def Tbl.put {α : Type} : Tbl α → Nat → α → Tbl α
  | [], k, x => [(k, x)]
  | (j, y) :: t, k, x =>
    if k < j then (k, x) :: (j, y) :: t
    else if k = j then (k, x) :: t
    else (j, y) :: Tbl.put t k x

/-- The table without entry k. -/
def Tbl.del {α : Type} (t : Tbl α) (k : Nat) : Tbl α := t.filter (fun e => e.1 != k)

/-- Entry k (or d) changed by f. -/
def Tbl.upd {α : Type} (d : α) (t : Tbl α) (k : Nat) (f : α → α) : Tbl α := Tbl.put t k (f (Tbl.get d t k))

/-- Every entry changed by f. -/
def Tbl.mapVal {α : Type} (f : α → α) (t : Tbl α) : Tbl α := t.map (fun e => (e.1, f e.2))

/-! ## Sorted sets of numbers -/

/-- x put into a rising list. -/
def insertNat (x : Nat) : List Nat → List Nat
  | [] => [x]
  | y :: t => if x < y then x :: y :: t else if x = y then y :: t else y :: insertNat x t

def insertAll (xs l : List Nat) : List Nat := xs.foldl (fun a x => insertNat x a) l

def removeNat (x : Nat) (l : List Nat) : List Nat := l.filter (fun y => y != x)

def removeAll (xs l : List Nat) : List Nat := l.filter (fun y => !xs.contains y)

/-! ## Byte memory -/

/-- The canonical form of a memory: addresses strictly rising, no zero byte listed. -/
def Memory.wf : Memory → Bool
  | [] => true
  | [(_, b)] => b != 0#8
  | (a, b) :: (c, e) :: t => b != 0#8 && a < c && Memory.wf ((c, e) :: t)

/-- The byte at an address: an unlisted byte reads zero (R338). -/
def Memory.read : Memory → Nat → Byte
  | [], _ => 0#8
  | (j, b) :: t, a => if j = a then b else Memory.read t a

/-- One byte written. -/
def Memory.write : Memory → Nat → Byte → Memory
  | [], a, b => if b = 0#8 then [] else [(a, b)]
  | (j, c) :: t, a, b =>
    if a < j then (if b = 0#8 then (j, c) :: t else (a, b) :: (j, c) :: t)
    else if a = j then (if b = 0#8 then t else (a, b) :: t)
    else (j, c) :: Memory.write t a b

/-- n bytes from an address. -/
def Memory.readN (m : Memory) (a : Nat) : Nat → Bytes
  | 0 => []
  | n + 1 => m.read a :: Memory.readN m (a + 1) n

/-- A byte string written from an address. -/
def Memory.writeN (m : Memory) (a : Nat) : Bytes → Memory
  | [] => m
  | b :: t => Memory.writeN (m.write a b) (a + 1) t

/-- The little-endian number of n bytes at an address (R13). -/
def Memory.num (m : Memory) (a n : Nat) : Nat := ofBytes (m.readN a n)

/-- A little-endian number of n bytes written (R13). -/
def Memory.putNum (m : Memory) (a n x : Nat) : Memory := m.writeN a (toBytes x n)

/-- The cells within [lo, hi). -/
def Memory.span (m : Memory) (lo hi : Nat) : Memory := m.filter (fun c => lo ≤ c.1 && c.1 < hi)

/-- The cells outside [lo, hi). -/
def Memory.without (m : Memory) (lo hi : Nat) : Memory := m.filter (fun c => c.1 < lo || hi ≤ c.1)

/-- [lo, hi) of `m` replaced by what `src` holds there. -/
def Memory.copySpan (m src : Memory) (lo hi : Nat) : Memory :=
  m.filter (fun c => c.1 < lo) ++ src.span lo hi ++ m.filter (fun c => max lo hi ≤ c.1)

/-- [lo, hi) made zero. -/
def Memory.zero (m : Memory) (lo hi : Nat) : Memory := m.without lo hi

end Sys2Proof.Machine
end

