-- ==== Sys2Proof/Machine/Operands.lean ====
section
/-!
DEFINITION. The encodings of the operands: status codes, opcodes, classes, pool addresses, request and response headers,
answer cells and OP_FIELDS (Tables 02-1, 04-2 to 04-7, 07-1 to 07-3, 08-10).
-/
namespace Sys2Proof.Machine

open Sys2Proof

/-! ## Status codes (Table 08-10) -/

def statusCode : Status → Nat
  | .ok => 0x00 | .short => 0x01 | .overrun => 0x02 | .underfilled => 0x03
  | .faultUnmapped => 0x10 | .faultPermission => 0x11 | .withdrawn => 0x12
  | .staleMap => 0x20 | .ownerLost => 0x21 | .domainDown => 0x22
  | .poison => 0x30 | .uncorrectable => 0x31
  | .cancelled => 0x40 | .refusedIsolation => 0x41

def statusOf (c : Nat) : Status :=
  match c with
  | 0x00 => .ok | 0x01 => .short | 0x02 => .overrun | 0x03 => .underfilled
  | 0x10 => .faultUnmapped | 0x11 => .faultPermission | 0x12 => .withdrawn
  | 0x20 => .staleMap | 0x21 => .ownerLost | 0x22 => .domainDown
  | 0x30 => .poison | 0x31 => .uncorrectable
  | 0x40 => .cancelled | _ => .refusedIsolation

/-- REFUSE cause of a status (R104). -/
def refuseCause (s : Status) : Nat := bits (statusCode s) 4 3 * 8 + bits (statusCode s) 0 3

/-- The status a REFUSE cause names (R104). -/
def causeStatus (c : Nat) : Status := statusOf (bits c 3 3 * 16 + bits c 0 3)

/-! ## Opcodes (Table 07-1) -/

def opCode : Op → Nat
  | .load => 0x01 | .store => 0x02 | .atomic => 0x03 | .reduce => 0x04 | .mcastStore => 0x05
  | .confRead => 0x08 | .confAtomic => 0x09 | .sluicePut => 0x10 | .sluiceGet => 0x11
  | .rdShared => 0x20 | .rdOwn => 0x21 | .upgrade => 0x22 | .markDirty => 0x23 | .wbDirty => 0x24 | .evict => 0x25
  | .snpInv => 0x28 | .snpData => 0x29 | .snpCur => 0x2A | .snpRsp => 0x2B
  | .domainNotice => 0x2C | .pinMsg => 0x30

def opOf (c : Nat) : Option Op :=
  match c with
  | 0x01 => some .load | 0x02 => some .store | 0x03 => some .atomic | 0x04 => some .reduce
  | 0x05 => some .mcastStore | 0x08 => some .confRead | 0x09 => some .confAtomic
  | 0x10 => some .sluicePut | 0x11 => some .sluiceGet
  | 0x20 => some .rdShared | 0x21 => some .rdOwn | 0x22 => some .upgrade | 0x23 => some .markDirty
  | 0x24 => some .wbDirty | 0x25 => some .evict
  | 0x28 => some .snpInv | 0x29 => some .snpData | 0x2A => some .snpCur | 0x2B => some .snpRsp
  | 0x2C => some .domainNotice | 0x30 => some .pinMsg
  | _ => none

/-- Whether a port kind carries an opcode (Table 07-1, R197). -/
def opOnPort (o : Op) : PortKind → Bool
  | .partner =>
    match o with
    | .confRead | .confAtomic | .sluicePut | .sluiceGet | .domainNotice | .pinMsg => false
    | _ => true
  | .switch => true
  | .site => o == .sluicePut || o == .sluiceGet

/-- Whether requests of this opcode carry response data and so count as reads (R192). -/
def countsAsRead (o : Op) (opf : W64) : Bool :=
  match o with
  | .load | .confRead | .sluiceGet | .rdShared | .rdOwn | .upgrade | .confAtomic => true
  | .atomic => flag opf 49 || field opf 52 4 == 5 || field opf 52 4 == 6
  | _ => false

/-- Whether an opcode receives a response header (R127). -/
def hasResponse : Op → Bool
  | .markDirty | .evict | .snpInv | .snpData | .snpCur | .snpRsp | .domainNotice => false
  | _ => true

/-- The opcodes whose requests write (R110): writes, atomics, reductions, multicast stores and write-backs. -/
def isWriteOp : Op → Bool
  | .store | .atomic | .reduce | .mcastStore | .confAtomic | .sluicePut | .wbDirty => true
  | _ => false

/-- The caching requests (R122). -/
def isCachingOp : Op → Bool
  | .rdShared | .rdOwn | .upgrade | .markDirty | .wbDirty | .evict => true
  | _ => false

/-! ## Classes -/

def classCode : RClass → Nat
  | .priv => 0 | .coherent => 1 | .sharedRo => 2 | .sluice => 3 | .mirror => 4 | .any => 7

def classOf (c : Nat) : Option RClass :=
  match c with
  | 0 => some .priv | 1 => some .coherent | 2 => some .sharedRo | 3 => some .sluice | 4 => some .mirror
  | 7 => some .any
  | _ => none

def tclassCode : TClass → Nat
  | .demand => 0 | .bulk => 1 | .mill => 2 | .maintenance => 3

def tclassOf (c : Nat) : TClass :=
  match c with
  | 0 => .demand | 1 => .bulk | 2 => .mill | _ => .maintenance

def codingOf (c : Nat) : Option Coding :=
  match c with
  | 0 => some .plain | 1 => some .shoal | 2 => some .riffle | _ => none

def weirKindCode : WeirKind → Nat
  | .full => 0 | .cap1 => 1 | .cap2 => 2 | .spate => 3

def mapStateCode : MapState → Nat
  | .forming => 0 | .agreed => 1 | .island => 2

def syncStateCode : SyncState → Nat
  | .idle => 0 | .checking => 1 | .inForce => 2 | .drained => 3 | .rejected => 4

def domStateCode : DomState → Nat
  | .joining => 0 | .up => 1 | .falling => 2

def slotStateCode : SlotState → Nat
  | .empty => 0 | .staged => 1 | .trial => 2 | .committed => 3 | .bad => 4

/-! ## Pool addresses (Table 02-1) -/

def addrNode (a : Nat) : Nat := bits a 54 10
def addrSpace (a : Nat) : Nat := bits a 52 2
def addrOffset (a : Nat) : Nat := bits a 0 52
def poolAddr (node space offset : Nat) : Nat := at' (node % 1024) 54 + at' (space % 4) 52 + offset % 2 ^ 52

/-- The 4 KiB page of an address. -/
def page4k (a : Nat) : Nat := a / 4096

/-- The tier page of an offset. -/
def tierPage (off : Nat) : Nat := off / 65536

/-- The 4 KiB unit of an offset. -/
def unitOf (off : Nat) : Nat := off / 4096

/-- The 64-byte line of an offset. -/
def lineOf (off : Nat) : Nat := off / 64

/-- The numbers lo, lo + 1, …, of n items. -/
def rangeFrom (lo n : Nat) : List Nat := (List.range n).map (lo + ·)

/-- Lines, units and tier pages that [off, off + len) touches. -/
def linesOf (off len : Nat) : List Nat :=
  if len = 0 then [] else rangeFrom (off / 64) ((off + len - 1) / 64 - off / 64 + 1)
def unitsOf (off len : Nat) : List Nat :=
  if len = 0 then [] else rangeFrom (off / 4096) ((off + len - 1) / 4096 - off / 4096 + 1)
def pagesOf (off len : Nat) : List Nat :=
  if len = 0 then [] else rangeFrom (off / 65536) ((off + len - 1) / 65536 - off / 65536 + 1)

/-- An AGENT number (R122). -/
def agentNum (p : Pair) : Nat := p.node * 16 + p.party

def agentOf (n : Nat) : Pair := ⟨n / 16, n % 16⟩

/-! ## OP_FIELDS (Tables 07-2, 07-3) -/

def opSeal (w : W64) : Bool := flag w 63
def opAcquire (w : W64) : Bool := flag w 62
def opPersist (w : W64) : Bool := flag w 61
def opConfluent (w : W64) : Bool := flag w 60
def opScope (w : W64) : Nat := field w 57 3
def aop (w : W64) : Nat := field w 52 4
def atype (w : W64) : Nat := field w 50 2
def afetch (w : W64) : Bool := flag w 49

/-- Operand size of an atomic TYPE (R180). -/
def atypeSize (t : Nat) : Nat :=
  match t with
  | 0 => 4 | 1 => 8 | 2 => 4 | _ => 2

/-- Whether the atomic returns its earlier value (Table 07-1). -/
def areturns (w : W64) : Bool := afetch w || aop w == 5 || aop w == 6

/-- The flags an opcode's row allows: SEAL, ACQUIRE, PERSIST, CONFLUENT (Table 07-1). -/
def flagsAllowed : Op → Bool × Bool × Bool × Bool
  | .load => (false, true, false, true)
  | .store => (true, false, true, false)
  | .atomic => (true, true, true, true)
  | .reduce => (true, false, true, false)
  | .mcastStore => (true, false, true, false)
  | .confRead => (false, true, false, false)
  | .confAtomic => (true, true, true, false)
  | _ => (false, false, false, false)

/-- The flag and SCOPE rules of R158, R176 and R177. -/
def flagsOk (o : Op) (w : W64) : Bool :=
  let (s, a, p, c) := flagsAllowed o
  (s || !opSeal w) && (a || !opAcquire w) && (p || !opPersist w) && (c || !opConfluent w)
    && (opSeal w || !opPersist w) && opScope w ≤ 4
    && (opSeal w || opAcquire w || opScope w == 0)

/-- The operation fields that Table 07-3 and R180 allow: AOP 0 to 7, FADD with a floating TYPE and the others with an integer one, ROP
not 3. -/
def opFieldsOk (o : Op) (w : W64) : Bool :=
  match o with
  | .atomic | .confAtomic => aop w ≤ 7 && (if aop w == 7 then 2 ≤ atype w else atype w < 2)
  | .reduce => field w 54 2 != 3
  | _ => true

/-- The length and DATA_BYTES rules of Table 07-1. A SLUICE_PUT marks at most 64 granules, and none as a batch mark (Table 07-3). -/
def lengthOk (o : Op) (len data : Nat) (w : W64) : Bool :=
  match o with
  | .load => data == 0
  | .store | .mcastStore => data == len
  | .atomic => len == atypeSize (atype w) && data == (if aop w == 6 then 2 * len else len)
  | .reduce => 4 ≤ len && len % 4 == 0 && data == (if flag w 53 then len / 2 else len)
  | .confRead => len ≤ 2048 && data == 8 * (field w 51 5 + 1)
  | .confAtomic => len == atypeSize (atype w) && data == 32 * (field w 44 5 + 1)
  | .sluicePut => len == 4096 && 8 ≤ data && data ≤ 4104 && (data - 8) % 64 == 0 && (!flag w 55 || data == 8)
  | .sluiceGet => len == 4096 && data == 0
  | .wbDirty => len == 64 && data == 64
  | .rdShared | .rdOwn | .upgrade | .markDirty | .evict | .snpInv | .snpData | .snpCur => len == 64 && data == 0
  | .snpRsp => len == 64 && data == (if 3 ≤ field w 37 3 && field w 37 3 ≤ 5 then 64 else 0)
  | .domainNotice | .pinMsg => len == 1 && data == 0

/-! ## Header cells (Tables 04-2 to 04-5) -/

/-- The fields of a request header cell. -/
structure ReqHdr where
  opcode : Nat
  tag    : Nat
  gen    : Nat
  asid   : Nat
  len    : Nat
  addr   : Nat
  origin : Pair
  cls    : Nat
  tclass : Nat
  epoch  : Nat
  provOk : Bool
  data   : Nat
  opf    : W64
  deriving DecidableEq, Repr

def reqHdr (c : Cell) : ReqHdr :=
  { opcode := field c.w0 56 8, tag := field c.w0 40 16, gen := field c.w0 24 16, asid := field c.w0 12 12
    len := field c.w0 0 12 + 1, addr := c.w1.toNat
    origin := ⟨field c.w2 54 10, field c.w2 50 4⟩, cls := field c.w2 47 3, tclass := field c.w2 45 2
    epoch := field c.w2 37 8, provOk := flag c.w2 36, data := field c.w2 23 13, opf := c.w3 }

def reqCell (h : ReqHdr) : Cell :=
  { w0 := BitVec.ofNat 64 (at' h.opcode 56 + at' h.tag 40 + at' h.gen 24 + at' h.asid 12 + (h.len - 1))
    w1 := BitVec.ofNat 64 h.addr
    w2 := BitVec.ofNat 64 (at' h.origin.node 54 + at' h.origin.party 50 + at' h.cls 47 + at' h.tclass 45
      + at' h.epoch 37 + at' (b2n h.provOk) 36 + at' h.data 23)
    w3 := h.opf }

/-- The fields of a response header cell (Table 04-4). -/
structure RspHdr where
  tag    : Nat
  status : Status
  data   : Nat
  prov   : Bool
  ptag   : Nat
  deriving DecidableEq, Repr

def rspHdr (c : Cell) : RspHdr :=
  { tag := field c.w0 48 16, status := statusOf (field c.w0 40 8), data := field c.w0 27 13
    prov := flag c.w0 26, ptag := field c.w0 10 16 }

def rspCell (h : RspHdr) : Cell :=
  { w0 := BitVec.ofNat 64 (at' h.tag 48 + at' (statusCode h.status) 40 + at' h.data 27 + at' (b2n h.prov) 26
      + at' h.ptag 10) }

/-- The bytes of a cell, byte 0 first. -/
def cellBytes (c : Cell) : Bytes :=
  toBytes c.w0.toNat 8 ++ toBytes c.w1.toNat 8 ++ toBytes c.w2.toNat 8 ++ toBytes c.w3.toNat 8

/-- The cell of 32 bytes. -/
def bytesCell (bs : Bytes) : Cell :=
  { w0 := BitVec.ofNat 64 (ofBytes (bs.take 8)), w1 := BitVec.ofNat 64 (ofBytes ((bs.drop 8).take 8))
    w2 := BitVec.ofNat 64 (ofBytes ((bs.drop 16).take 8)), w3 := BitVec.ofNat 64 (ofBytes ((bs.drop 24).take 8)) }

/-- The 16-bit DISP entry of a disposition (Table 04-6). -/
def dispWord : Disp → Nat
  | .accept => 0
  | .provisional => at' 1 14
  | .hold n => at' 2 14 + n % 2 ^ 14
  | .refuse s => at' 3 14 + refuseCause s

def dispOf (w : Nat) : Disp :=
  match bits w 14 2 with
  | 0 => .accept
  | 1 => .provisional
  | 2 => .hold (bits w 0 14)
  | _ => .refuse (causeStatus (bits w 0 6))

/-- CELL_MAP kind of cell i, 1 to 14: 0 EMPTY, 1 REQ_HDR, 2 RSP_HDR, 3 DATA (Table 04-2). -/
def cellKind (c0 : Cell) (i : Nat) : Nat := field c0.w0 (2 * i + 6) 2

/-! ## The CRC of a flit (R99) -/

/-- One bit of CRC-32 with the IEEE 802.3 polynomial, in its reflected form (log entry 61). -/
def crcBit (c : Nat) : Nat := if c % 2 == 1 then (c / 2) ^^^ 0xEDB88320 else c / 2

/-- One byte of CRC-32. -/
def crcByte (c : Nat) (b : Byte) : Nat := crcBit (crcBit (crcBit (crcBit (crcBit (crcBit (crcBit (crcBit (c ^^^ b.toNat))))))))

/-- CRC-32 of a byte string. -/
def crc32 (bs : Bytes) : Nat := (bs.foldl crcByte 0xFFFFFFFF) ^^^ 0xFFFFFFFF

/-- The CRC of a flit of sixteen cells: over bytes 0 to 507. -/
def flitCrc (cells : List Cell) : Nat := crc32 ((cells.flatMap cellBytes).take 508)

/-- The cells with their CRC in bytes 508 to 511 (Table 04-5). -/
def sealFlit (cells : List Cell) : List Cell :=
  let ans := nth {} cells 15
  cells.take 15 ++ [{ ans with w3 := BitVec.ofNat 64 (ans.w3.toNat % 2 ^ 32 + at' (flitCrc cells) 32) }]

end Sys2Proof.Machine
end

