-- ==== Sys2Proof/Machine/Num.lean ====
section
/-!
DEFINITION. Floating point by exact arithmetic on dyadic numbers and one rounding (R181, R182, R227 to R232): a finite value is
±m·2^e with m a natural number, computed exactly and rounded to nearest even at the end.
-/
namespace Sys2Proof.Machine

open Sys2Proof

/-- A floating value before rounding. -/
inductive FVal where
  | nan
  | inf (neg : Bool)
  | fin (neg : Bool) (m : Nat) (e : Int)
  deriving DecidableEq, Repr, Inhabited

/-- A binary format with eb exponent and mb mantissa bits and IEEE specials. -/
structure Fmt where
  eb : Nat
  mb : Nat
  deriving DecidableEq, Repr, Inhabited

def fp32 : Fmt := ⟨8, 23⟩
def bf16 : Fmt := ⟨8, 7⟩
def fp16 : Fmt := ⟨5, 10⟩

def Fmt.bias (f : Fmt) : Int := Int.ofNat (2 ^ (f.eb - 1)) - 1

/-- The value an IEEE pattern stands for. -/
def Fmt.decode (f : Fmt) (x : Nat) : FVal :=
  let neg := bit x (f.eb + f.mb)
  let ex := bits x f.mb f.eb
  let ma := bits x 0 f.mb
  if ex = 2 ^ f.eb - 1 then (if ma = 0 then .inf neg else .nan)
  else if ex = 0 then .fin neg ma (1 - f.bias - Int.ofNat f.mb)
  else .fin neg (2 ^ f.mb + ma) (Int.ofNat ex - f.bias - Int.ofNat f.mb)

/-- m / 2^s rounded to nearest, ties to even. -/
def rneShift (m s : Nat) : Nat :=
  let q := m / 2 ^ s
  let r := m % 2 ^ s
  if s = 0 then m
  else if 2 ^ (s - 1) < r || (r = 2 ^ (s - 1) && q % 2 = 1) then q + 1 else q

/-- ±m·2^e rounded to the format: (mantissa in units of the quantum, exponent of the quantum). -/
def Fmt.quantize (f : Fmt) (m : Nat) (e : Int) : Nat × Int :=
  let top := e + Int.ofNat (Nat.log2 m)
  let q := max top (1 - f.bias) - Int.ofNat f.mb
  let m' := if q ≤ e then m * 2 ^ (e - q).toNat else rneShift m (q - e).toNat
  if m' = 2 ^ (f.mb + 1) then (2 ^ f.mb, q + 1) else (m', q)

/-- The canonical quiet NaN of the format (R181). -/
def Fmt.qnan (f : Fmt) : Nat := at' (2 ^ f.eb - 1) f.mb + 2 ^ (f.mb - 1)

def Fmt.infBits (f : Fmt) (neg : Bool) : Nat := at' (b2n neg) (f.eb + f.mb) + at' (2 ^ f.eb - 1) f.mb

/-- The pattern of a value: overflow goes to infinity, a NaN to the canonical quiet NaN (R181). -/
def Fmt.encode (f : Fmt) : FVal → Nat
  | .nan => f.qnan
  | .inf n => f.infBits n
  | .fin n m e =>
    if m = 0 then at' (b2n n) (f.eb + f.mb)
    else
      let (m', q) := f.quantize m e
      let ex := q + Int.ofNat f.mb + f.bias
      if m' < 2 ^ f.mb then at' (b2n n) (f.eb + f.mb) + m'
      else if Int.ofNat (2 ^ f.eb - 1) ≤ ex then f.infBits n
      else at' (b2n n) (f.eb + f.mb) + at' ex.toNat f.mb + (m' - 2 ^ f.mb)

/-- The value rounded to the format. -/
def Fmt.round (f : Fmt) (x : FVal) : FVal := f.decode (f.encode x)

/-- ±m as an integer. -/
def sgnInt (n : Bool) (m : Nat) : Int := if n then - Int.ofNat m else Int.ofNat m

/-- Exact sum. An exact zero from opposite signs is +0. -/
def FVal.add : FVal → FVal → FVal
  | .nan, _ => .nan
  | _, .nan => .nan
  | .inf a, .inf b => if a = b then .inf a else .nan
  | .inf a, _ => .inf a
  | _, .inf b => .inf b
  | .fin n m e, .fin n' m' e' =>
    let q := min e e'
    let x := sgnInt n (m * 2 ^ (e - q).toNat) + sgnInt n' (m' * 2 ^ (e' - q).toNat)
    if x = 0 then .fin (n && n') 0 0 else .fin (decide (x < 0)) x.natAbs q

def FVal.neg : FVal → FVal
  | .nan => .nan
  | .inf n => .inf (!n)
  | .fin n m e => .fin (!n) m e

def FVal.sub (a b : FVal) : FVal := a.add b.neg

/-- Exact product; 0·∞ is NaN. -/
def FVal.mul : FVal → FVal → FVal
  | .nan, _ => .nan
  | _, .nan => .nan
  | .inf a, .inf b => .inf (a != b)
  | .inf a, .fin n m _ => if m = 0 then .nan else .inf (a != n)
  | .fin n m _, .inf b => if m = 0 then .nan else .inf (n != b)
  | .fin n m e, .fin n' m' e' => .fin (n != n') (m * m') (e + e')

/-- a < b for values that are not NaN; zeros of either sign are equal. -/
def FVal.lt : FVal → FVal → Bool
  | .nan, _ => false
  | _, .nan => false
  | .inf a, .inf b => a && !b
  | .inf a, .fin .. => a
  | .fin .., .inf b => !b
  | .fin n m e, .fin n' m' e' =>
    let q := min e e'
    decide (sgnInt n (m * 2 ^ (e - q).toNat) < sgnInt n' (m' * 2 ^ (e' - q).toNat))

def FVal.isNan : FVal → Bool
  | .nan => true
  | _ => false

def FVal.isZero : FVal → Bool
  | .fin _ m _ => m == 0
  | _ => false

def FVal.isNeg : FVal → Bool
  | .nan => false
  | .inf n => n
  | .fin n _ _ => n

/-- IEEE 754-2019 minimumNumber: a NaN operand yields the other, and −0 is below +0 (R182). -/
def FVal.minNum (a b : FVal) : FVal :=
  if a.isNan then b else if b.isNan then a
  else if a.isZero && b.isZero then (if a.isNeg then a else b)
  else if b.lt a then b else a

/-- IEEE 754-2019 maximumNumber (R182). -/
def FVal.maxNum (a b : FVal) : FVal :=
  if a.isNan then b else if b.isNan then a
  else if a.isZero && b.isZero then (if a.isNeg then b else a)
  else if a.lt b then b else a

/-- An operation on two patterns of a format: computed exactly, rounded once. -/
def Fmt.op2 (f : Fmt) (g : FVal → FVal → FVal) (a b : Nat) : Nat := f.encode (g (f.decode a) (f.decode b))

/-- FADD in FP32 (R181). -/
def faddFp32 (a b : Nat) : Nat := fp32.op2 FVal.add a b

/-- FADD in BF16: widened to FP32, added there, and the sum rounded to BF16 (R181). -/
def faddBf16 (a b : Nat) : Nat := bf16.encode (fp32.round ((bf16.decode a).add (bf16.decode b)))

/-! ## Atomics and reductions (Table 07-4, R182) -/

/-- The new value of an atomic on an old value, TYPE and operands (Table 07-4). -/
def atomicNew (op ty old a b : Nat) : Nat :=
  let n := 8 * atypeSize ty
  let m := 2 ^ n
  match op with
  | 0 => (old + a) % m
  | 1 => if signed n a < signed n old then a else old
  | 2 => if signed n old < signed n a then a else old
  | 3 => if a < old then a else old
  | 4 => if old < a then a else old
  | 5 => a
  | 6 => if old = a then b else old
  | 7 => if ty = 2 then faddFp32 old a else faddBf16 old a
  | _ => old

/-- Whether an AOP goes with a TYPE: FADD with FP32 and BF16, the others with INT32 and INT64 (R180). -/
def atomicPairOk (op ty : Nat) : Bool := op ≤ 7 && (if op == 7 then ty == 2 || ty == 3 else ty ≤ 1)

/-- The element a REDUCE leaves: ROP of the target and the contribution, in FP32 (R182). -/
def reduceElem (rop old x : Nat) : Nat :=
  match rop with
  | 0 => faddFp32 old x
  | 1 => fp32.op2 FVal.minNum old x
  | _ => fp32.op2 FVal.maxNum old x

/-- A BF16 pattern widened exactly to FP32. -/
def bf16ToFp32 (x : Nat) : Nat := if (bf16.decode x).isNan then fp32.qnan else at' (x % 65536) 16

end Sys2Proof.Machine
end

