-- ==== Sys2Proof/Machine/Layout.lean ====
section
/-!
DEFINITION. The fields of the weir's words (Tables 04-10 to 04-12), and AES-256-XTS, by which the Shufel enciphers what it writes to DRAM
and flash (R335, R336; FIPS 197, IEEE 1619).
-/
namespace Sys2Proof

open Sys2Proof.Machine

/-! ## The weir's words -/

/-- A (party, class) pair of six bits: PARTY above CLASS. -/
def Machine.pairOf (v : Nat) : PairSlot := { party := bits v 2 4, tclass := tclassOf (bits v 0 2) }

/-- OVF_SEL. -/
def WeirSlot.ovfSel (x : WeirSlot) : Nat := field x.word 56 4

/-- XBAR_SEL. -/
def WeirSlot.xbarSel (x : WeirSlot) : Nat := field x.word 52 4

/-- FLASH_EN. -/
def WeirSlot.flashEn (x : WeirSlot) : Bool := flag x.word 51

/-- FLASH_RACE. -/
def WeirSlot.flashRace (x : WeirSlot) : Nat := field x.word 48 3

/-- RACE[n]: the pair that the slot names for a race. -/
def WeirSlot.race (x : WeirSlot) (n : Nat) : PairSlot := pairOf (field x.word (6 * n) 6)

/-- OWNED. -/
def XbarRow.owned (x : XbarRow) : Bool := flag x.word 48

/-- OWNER. -/
def XbarRow.owner (x : XbarRow) : Nat := field x.word 44 4

/-- ORDER: the input stations in grant priority. -/
def XbarRow.order (x : XbarRow) : List Nat := (List.range 11).map (fun i => field x.word (4 * i) 4)

/-- The valid pairs of an overflow rotation, in the order in which they are tried (Table 04-11). -/
def WeirTable.ovf (t : WeirTable) (sel : Nat) : List PairSlot := ((nth [] t.ovfBytes sel).filter (fun b => bit b 7)).map pairOf

namespace Machine

/-! ## AES-256 (FIPS 197) -/

/-- The S-box: entry b at bits [8b+7:8b]. -/
def sboxWord : Nat := 
  0x16BB54B00F2D99416842E6BF0D89A18CDF2855CEE9871E9B948ED9691198F8E19E1DC186B95735610EF6034866B53E708A8BBD4B1F74DDE8C6B4A61C2E2578BA08AE7A65EAF4566CA94ED58D6D37C8E779E4959162ACD3C25C2406490A3A32E0DB0B5EDE14B8EE4688902A22DC4F816073195D643D7EA7C41744975FEC130CCDD2F3FF1021DAB6BCF5389D928F40A351A89F3C507F02F94585334D43FBAAEFD0CF584C4A39BECB6A5BB1FC20ED00D153842FE329B3D63B52A05A6E1B1A2C830975B227EBE28012079A059618C323C7041531D871F1E5A534CCF73F362693FDB7C072A49CAFA2D4ADF04759FA7DC982CA76ABD7FE2B670130C56F6BF27B777C63

/-- The inverse S-box. -/
def invSboxWord : Nat := 
  0x7D0C2155631469E126D677BA7E042B17619953833CBBEBC8B0F52AAE4D3BE0A0EF9CC9939F7AE52D0D4AB519A97F51605FEC8027591012B131C7078833A8DD1FF45ACD78FEC0DB9A2079D2C64B3E56FC1BBE18AA0E62B76F89C5291D711AF1476EDF751CE837F9E28535ADE72274AC9673E6B4F0CECFF297EADC674F4111913A6B8A130103BDAFC1020F3FCA8F1E2CD00645B3B80558E4F70AD3BC8C00ABD890849D8DA75746155EDAB9EDFD5048706C92B6655DCC5CA4D41698688664F6F87225D18B6D49A25B76B224D92866A12E084EC3FA420B954CEE3D23C2A632947B54CBE9DEC444438E3487FF2F9B8239E37CFBD7F3819EA340BF38A53630D56A0952

def subByte (b : Nat) : Nat := (sboxWord >>> (8 * b)) % 256

def invSubByte (b : Nat) : Nat := (invSboxWord >>> (8 * b)) % 256

/-- Multiplication by x in GF(2^8). -/
def xtime (b : Nat) : Nat := if b < 128 then 2 * b else (2 * b) ^^^ 0x11B

/-- A column of four bytes, as MixColumns maps it. -/
def mixColumn : List Nat → List Nat
  | [a, b, c, d] =>
    let t := a ^^^ b ^^^ c ^^^ d
    [a ^^^ t ^^^ xtime (a ^^^ b), b ^^^ t ^^^ xtime (b ^^^ c), c ^^^ t ^^^ xtime (c ^^^ d), d ^^^ t ^^^ xtime (d ^^^ a)]
  | l => l

/-- InvMixColumns: the columns lifted by 4(a + c) and 4(b + d), and MixColumns after it. -/
def invMixColumn : List Nat → List Nat
  | [a, b, c, d] =>
    let u := xtime (xtime (a ^^^ c))
    let v := xtime (xtime (b ^^^ d))
    mixColumn [a ^^^ u, b ^^^ v, c ^^^ u, d ^^^ v]
  | l => l

/-- A map over the four columns of a block. -/
def onColumns (f : List Nat → List Nat) (b : List Nat) : List Nat :=
  f (b.take 4) ++ f ((b.drop 4).take 4) ++ f ((b.drop 8).take 4) ++ f (b.drop 12)

/-- Byte 4c + r of a block goes to row r of column c - r, or back. -/
def shiftRows (b : List Nat) : List Nat := [0, 5, 10, 15, 4, 9, 14, 3, 8, 13, 2, 7, 12, 1, 6, 11].map (nth 0 b)

def invShiftRows (b : List Nat) : List Nat := [0, 13, 10, 7, 4, 1, 14, 11, 8, 5, 2, 15, 12, 9, 6, 3].map (nth 0 b)

def xorBytes (a b : List Nat) : List Nat := List.zipWith (fun x y => x ^^^ y) a b

/-- The next word of the key schedule, from the eight words before it, newest first: word i of AES-256. -/
def nextKeyWord (i : Nat) (w : List (List Nat)) : List Nat :=
  let t := nth [] w 0
  let t := if i % 8 == 0 then
      match t.map subByte with
      | [a, b, c, d] => [b ^^^ 2 ^ (i / 8 - 1), c, d, a]
      | l => l
    else if i % 8 == 4 then t.map subByte
    else t
  xorBytes (nth [] w 7) t

/-- n words of the key schedule from word i on, newest first. -/
def keyWords (w : List (List Nat)) (i : Nat) : Nat → List (List Nat)
  | 0 => w
  | n + 1 => keyWords (nextKeyWord i w :: w) (i + 1) n

/-- The fifteen round keys of a 256-bit key, given as its 32 bytes. -/
def roundKeys (key : List Nat) : List (List Nat) :=
  let w := (keyWords ((List.range 8).map (fun i => (key.drop (4 * (7 - i))).take 4)) 8 52).reverse
  (List.range 15).map (fun r => ((w.drop (4 * r)).take 4).flatten)

/-- One block enciphered. -/
def aesEncipher (ks : List (List Nat)) (b : List Nat) : List Nat :=
  let b := ((ks.drop 1).take 13).foldl (fun b k => xorBytes (onColumns mixColumn (shiftRows (b.map subByte))) k) (xorBytes b (nth [] ks 0))
  xorBytes (shiftRows (b.map subByte)) (nth [] ks 14)

/-- One block deciphered. -/
def aesDecipher (ks : List (List Nat)) (b : List Nat) : List Nat :=
  let b := ((ks.drop 1).take 13).reverse.foldl (fun b k => onColumns invMixColumn (xorBytes ((invShiftRows b).map invSubByte) k))
    (xorBytes b (nth [] ks 14))
  xorBytes ((invShiftRows b).map invSubByte) (nth [] ks 0)

/-! ## XTS (IEEE 1619) on a 64-byte data unit (R336) -/

/-- The low n bytes of a number, lowest first. -/
def natBytes (x : Nat) : Nat → List Nat
  | 0 => []
  | n + 1 => x % 256 :: natBytes (x / 256) n

/-- Their number. -/
def natOf (l : List Nat) : Nat := l.foldr (fun b a => b + 256 * a) 0

/-- The tweak of the next block: times x in GF(2^128). -/
def nextTweak (t : List Nat) : List Nat :=
  let v := 2 * natOf t
  natBytes (if v < 2 ^ 128 then v else (v - 2 ^ 128) ^^^ 0x87) 16

/-- The blocks of a data unit, each masked by its tweak before and after the cipher. -/
def xtsBlocks (f : List Nat → List Nat) : List Nat → List Nat → Nat → List Nat
  | _, _, 0 => []
  | t, p, n + 1 => xorBytes (f (xorBytes (p.take 16) t)) t ++ xtsBlocks f (nextTweak t) (p.drop 16) n

/-- A partition key (R335): the data key in its low 32 bytes, the tweak key in the others. -/
abbrev XtsKey := BitVec 512

/-- The key schedules of both halves. -/
def xtsSchedules (k : XtsKey) : List (List Nat) × List (List Nat) :=
  let b := natBytes k.toNat 64
  (roundKeys (b.take 32), roundKeys (b.drop 32))

/-- A 64-byte unit enciphered or deciphered under a key and a tweak. -/
def xtsUnit (encipher : Bool) (k : XtsKey) (tweak : Nat) (data : Bytes) : Bytes :=
  let (k1, k2) := xtsSchedules k
  let f := if encipher then aesEncipher k1 else aesDecipher k1
  (xtsBlocks f (aesEncipher k2 (natBytes tweak 16)) (data.map (·.toNat)) 4).map (fun b => BitVec.ofNat 8 b)

/-- The tweak of a unit of backed space (R336). -/
def unitTweak (off : Nat) : Nat := off / 64

/-- The tweak of unit i of the granules of a sub-block (R336). -/
def granuleTweak (subOff i : Nat) : Nat := subOff / 64 + i + 2 ^ 63

/-- Consecutive units from an offset on. -/
def xtsSpan (encipher : Bool) (k : XtsKey) (off : Nat) (data : Bytes) : Nat → Bytes
  | 0 => []
  | n + 1 => xtsUnit encipher k (unitTweak off) (data.take 64) ++ xtsSpan encipher k (off + 64) (data.drop 64) n

end Machine

end Sys2Proof
end

