-- ==== Sys2Proof/Machine/Base.lean ====
section
/-!
DEFINITION. What every chapter uses: outputs, the event log and its FIFO, ALERT_CAUSE, the error windows, free values, and
the reading of the composition (parties, extents, pools, races).
-/
namespace Sys2Proof.Machine

open Sys2Proof

/-! ## Outputs and free values -/

def emit (o : Output) (s : State) : State := { s with out := s.out ++ [o] }

/-- The next free word, and the state past it. -/
def takeWord (s : State) : W64 × State := (Config.freeWord s.freeCtr, { s with freeCtr := s.freeCtr + 1 })

/-! ## The event log (R381, R393, R421) -/

/-- A log entry as it arrives: SEQ and LINK are given when it is written to flash (LOG_WRITE). -/
def mkEntry (code severity party status arg0 arg1 : Nat) (s : State) : LogEntry :=
  { seq := 0, code, severity, party, status, tide := s.tide.count, mono := s.keeper.mono
    boot := s.nv.bootNumber, tideFree := s.tide.free, arg0, arg1, link := 0 }

/-- An event entered in the log: into the keeper's SRAM buffer, or into the die's 256-entry FIFO while the keeper
restarts, where an overflow is counted as lost and sets LOG (R381, Table 16-4). -/
def logEv (code severity party status arg0 arg1 : Nat) (s : State) : State :=
  if s.keeper.up then
    { s with keeper := { s.keeper with buf := s.keeper.buf ++ [mkEntry code severity party status arg0 arg1 s] } }
  else if s.keeper.fifo.length < 256 then
    { s with keeper := { s.keeper with fifo := s.keeper.fifo ++ [(code, severity, party, status, arg0, arg1)] } }
  else { s with keeper := { s.keeper with lost := s.keeper.lost + 1, alert := insertNat 7 s.keeper.alert } }

/-- Severities of Table 16-7. -/
def sevInfo : Nat := 0
def sevNotice : Nat := 1
def sevWarning : Nat := 2
def sevAlarm : Nat := 3
def sevFault : Nat := 4

/-- The event entered for a write that a rule ignores or drops and logs (R421): offset written and value. -/
def logIgnored (party offset value : Nat) (s : State) : State := logEv 0x0902 sevWarning party 0 offset value s

/-- A boot step completed (Table 15-1): logged with the time, and the STEP of BOOT_STATUS. -/
def bootStep (n : Nat) (s : State) : State := logEv 0x0101 sevInfo 15 0 n s.keeper.mono { s with boot := { s.boot with step := n } }

/-- A boot step failed with a cause (Table 15-7). -/
def bootFail (n cause : Nat) (s : State) : State := logEv 0x0102 sevFault 15 0 n cause { s with boot := { s.boot with cause } }

/-- The node control space offset of a register of a party page (Table 15-8). -/
def partyReg (party x : Nat) : Nat := 0x20000 + 0x1000 * party + x

/-! ## ALERT_CAUSE (Table 16-4) -/

def alertUpdateFail : Nat := 6
def alertLog : Nat := 7
def alertService : Nat := 8
def alertSwitch : Nat := 9
def alertLag : Nat := 10
def alertCapUnmet : Nat := 11
def alertSensor : Nat := 12
def alertBraced : Nat := 13
def alertIsland : Nat := 14
def alertBootFailed : Nat := 15

def setAlert (b : Nat) (s : State) : State :=
  { s with keeper := { s.keeper with alert := insertNat b s.keeper.alert } }

def dropAlert (b : Nat) (s : State) : State :=
  { s with keeper := { s.keeper with alert := removeNat b s.keeper.alert } }

/-- ALERT_CAUSE as a number. -/
def alertWord (s : State) : Nat := s.keeper.alert.foldl (fun a b => a + 2 ^ b) 0

/-- ALERT# is asserted while any bit is set (R389). -/
def alertAsserted (s : State) : Bool := !s.keeper.alert.isEmpty

/-! ## Parties and their pages -/

def State.pty (s : State) (p : Nat) : PartySt := Tbl.get {} s.party p

def updPty (p : Nat) (f : PartySt → PartySt) (s : State) : State :=
  { s with party := Tbl.upd {} s.party p f }

def State.hostSt (s : State) (p : Nat) : HostSt := Tbl.get {} s.hosts p

def updHost (p : Nat) (f : HostSt → HostSt) (s : State) : State :=
  { s with hosts := Tbl.upd {} s.hosts p f }

def State.link (s : State) (l : Nat) : Link := Tbl.get {} s.net.links l

def updLink (l : Nat) (f : Link → Link) (s : State) : State :=
  { s with net := { s.net with links := Tbl.upd {} s.net.links l f } }

/-- The party record of a local party. -/
def partyRec (s : State) (p : Nat) : PartyRec := nth {} s.hw.parties p

/-- The error window entry of R373: a ring of 16; an entry with the STATUS and 4 KiB page of the newest one is not written
again within 1 ms (2,000,000 core cycles); overrunning READ_INDEX by more than 16 sets LOST; MSI-X follows for hosts. -/
def errorEntry (p status source address detail : Nat) (s : State) : State :=
  let e := s.pty p
  let again := match e.errRing with
    | n :: _ => n.status == status && page4k n.address == page4k address && s.weir.cycle < n.cycle + 2000000
    | [] => false
  if again then s
  else
    let entry : ErrEntry := { index := e.errWrite, status, source, address, detail, tide := s.tide.count
                              cycle := s.weir.cycle }
    let w := (e.errWrite + 1) % 65536
    let above := 16 < (w + 65536 - e.errRead) % 65536
    let s := updPty p (fun e => { e with errRing := (entry :: e.errRing).take 16, errWrite := w
                                         errLost := e.errLost || above }) s
    if e.msixEn && p < 2 then emit (.msix p e.msixVec) s else s

/-! ## The node and its composition -/

/-- The backed size in bytes (R36, Table 00-1). -/
def backedSize (s : State) : Nat :=
  match s.boot.order with
  | .ulg8064N | .ulg8064H => 0x400000000000
  | .ulg8032N | .ulg8032H => 0x200000000000

/-- DEVICE_ID of the build (Table 00-1). -/
def deviceId (s : State) : Nat :=
  match s.boot.order with
  | .ulg8064N | .ulg8064H => 0x8064
  | .ulg8032N | .ulg8032H => 0x8032

/-- HARDENED of the build (Table 00-1). -/
def hardened (s : State) : Bool := s.boot.order == .ulg8064H || s.boot.order == .ulg8032H

/-- This node's number. -/
def State.node (s : State) : Nat := s.hw.node

/-- The sharing set of a slice. -/
def findSet (sl : Slice) (id : Nat) : Option SharingSet := sl.sets.find? (fun x => x.setId == id)

def extentEnd (e : Extent) : Nat := e.start + 4096 * e.units

/-- The extent that contains the whole of [off, off + len) (R42 step 1). -/
def findExtent (sl : Slice) (off len : Nat) : Option Extent :=
  sl.extents.find? (fun e => e.start ≤ off && off + len ≤ extentEnd e)

/-- The pairs an extent names: its owner, or the members of its set, in member-index order (R124). -/
def extentMembers (sl : Slice) (e : Extent) : List Pair :=
  match e.owner with
  | .single p => [p]
  | .set id => match findSet sl id with
    | some x => x.members
    | none => []

/-- The member index of an agent (R124). -/
def memberIndex (ms : List Pair) (p : Pair) : Option Nat := ms.findIdx? (· == p)

/-- The local party of an origin: itself on this node, the party map's on a switch plane (R23, R24). -/
def localParty (s : State) (o : Pair) : Option Nat :=
  if o.node == s.node then some o.party
  else (s.hw.pairs.find? (fun x => x.origin == o)).map (·.localParty)

/-- The frame pool of an extent (R60): the local owner's pool, the set's pool, or the device pool. -/
def extentPool (s : State) (e : Extent) : Nat :=
  match e.owner with
  | .single p =>
    if p.party == 15 then 0
    else match localParty s p with
      | some q => (partyRec s q).pool
      | none => 0
  | .set id => match s.hw.pools.find? (fun x => x.isSet && x.owner == id) with
    | some x => x.pool
    | none => 0

/-- The pool of an offset of backed space; the device pool where no extent covers it. -/
def poolOf (s : State) (off : Nat) : Nat :=
  match findExtent s.hw.slice off 1 with
  | some e => extentPool s e
  | none => 0

/-- The pool of a tier page: that of the first extent that touches it, extents starting at any 4 KiB (R60; log entry 63). -/
def pagePool (s : State) (page : Nat) : Nat :=
  match s.hw.slice.extents.find? (fun e => e.start < (page + 1) * 65536 && page * 65536 < extentEnd e) with
  | some e => extentPool s e
  | none => 0

/-- The races in which a pool has a channel set, in rising order (R63); the device pool has every race (R61). -/
def poolRaces (s : State) (pool : Nat) : List Nat :=
  if pool == 0 then List.range 8
  else (List.range 8).filter (fun n => s.hw.channels.any (fun c => c.pool == pool && c.race == n))

/-- The preferred race of a tier page (R63). -/
def preferredRace (s : State) (page : Nat) : Nat :=
  let rs := poolRaces s (pagePool s page)
  if rs.isEmpty then 0 else nth 0 rs (page % rs.length)

def tierOf (s : State) (page : Nat) : TierEntry := Tbl.get {} s.store.tier page

def updTier (page : Nat) (f : TierEntry → TierEntry) (s : State) : State :=
  { s with store := { s.store with tier := Tbl.upd {} s.store.tier page f } }

/-- The home race of an offset: the race whose frames hold its tier page, else the preferred race (R19, R28). -/
def homeRace (s : State) (off : Nat) : Nat :=
  let e := tierOf s (tierPage off)
  if e.state == .flash then preferredRace s (tierPage off) else e.race

/-- The local party that owns a pool (R60); 15 for the device pool and for sets. -/
def poolParty (s : State) (pool : Nat) : Nat :=
  match s.hw.pools.find? (fun x => x.pool == pool && !x.isSet) with
  | some x => x.owner
  | none => 15

/-- Whether the image is sealed: all its tables have one MODE (R118). -/
def isSealed (s : State) : Bool := s.hw.weir.any (fun t => !t.isOpen)

/-- A weir table of the image. -/
def weirTable (s : State) (k : WeirKind) : Option WeirTable := s.hw.weir.find? (fun t => t.kind == k)

/-- The port entry of a port number. -/
def portEntry (s : State) (p : Nat) : PortEntry := nth {} s.hw.ports p

/-- Whether the partner of a port declares a feature: a bit of its capability word 0, where its contract is of this major version (R8,
R11). -/
def declares (s : State) (port b : Nat) : Bool :=
  let w := Tbl.get 0#64 s.net.capWord port
  (portEntry s port).kind == .partner && field w 56 8 == 1 && flag w b

/-- The links of a port (R362). -/
def portLinks (e : PortEntry) : List Nat := if e.valid then rangeFrom e.firstLink (2 ^ e.linksLog2) else []

/-- The port a link is grouped into. -/
def portOf (s : State) (l : Nat) : Option Nat :=
  (List.range 10).find? (fun p => (portLinks (portEntry s p)).contains l)

/-- The links of a port that are up. -/
def upLinks (s : State) (p : Nat) : List Nat :=
  (portLinks (portEntry s p)).filter (fun l => (s.link l).inPort && (s.link l).mode == .up)

/-- The port of a local partner party. -/
def partnerPort (s : State) (party : Nat) : Option Nat :=
  (List.range 10).find? (fun p => (portEntry s p).valid && (portEntry s p).kind == .partner
    && (portEntry s p).party == party)

/-- The switch-plane ports of a kind, in rising number. -/
def portsOfKind (s : State) (k : PortKind) : List Nat :=
  (List.range 10).filter (fun p => (portEntry s p).valid && (portEntry s p).kind == k)

/-- The port that requests of a party to a page already use (R154): the one that carries some, or the one, still up, for which some wait. -/
def pagePort (s : State) (party addr : Nat) : Option Nat :=
  let mine := fun (r : Req) => page4k r.addr == page4k addr && r.party == party
  let isSwitch := fun (p : Nat) => (portEntry s p).kind == .switch
  match s.net.sent.find? (fun x => mine x.req && isSwitch x.port) with
  | some x => some x.port
  | none => s.weir.stalled.findSome? (fun x => if mine x.2 then x.1.filter (fun p => isSwitch p && !(upLinks s p).isEmpty) else none)

/-- The switch-plane ports that are up and that a party may use: its dedicated ones, else the shared ones (R154). -/
def usablePorts (s : State) (party : Nat) : List Nat :=
  let usable := (portsOfKind s .switch).filter (fun p => !(upLinks s p).isEmpty)
  let own := usable.filter (fun p => (portEntry s p).dedicated && (portEntry s p).party == party)
  if own.isEmpty then usable.filter (fun p => !(portEntry s p).dedicated) else own

/-- The switch-plane port through which a page's requests leave (R154): the one that requests of the party to the page already use, else
among the ports the party may use (dedicated ones first) one fixed by the page. -/
def routePort (s : State) (party addr : Nat) : Option Nat :=
  match pagePort s party addr with
  | some p => some p
  | none =>
  let ps := usablePorts s party
  if ps.isEmpty then none else ps[page4k addr % ps.length]?

/-- The link of a port that carries a page (R102): index (page number mod n) among the links that are up. -/
def routeLink (s : State) (port addr : Nat) : Option Nat :=
  let ls := upLinks s port
  if ls.isEmpty then none else ls[page4k addr % ls.length]?

/-- Fabric core station of a request's source (R115): its race, the host station or the rill engine station. -/
def stationOf (src : Src) : Nat :=
  match src with
  | .port _ l => l / 4
  | .host _ => 8
  | .mill m => m / 100
  | _ => 10

/-- A party is in write-through (R80): its share is 0, a flush runs, the node is braced, or the reserve is erased. -/
def writeThrough (s : State) (p : Nat) : Bool :=
  (partyRec s p).shareGib == 0 || s.flush.kind != .none || s.flush.braced || s.boot.erasing

/-- The durable-dirty units charged to a party (R79). -/
def dirtyUnits (s : State) (p : Nat) : Nat := (s.store.charged.filter (fun e => e.2 == p)).length

/-- The units of a party's DURABLE_SHARE. -/
def shareUnits (s : State) (p : Nat) : Nat := (partyRec s p).shareGib * 262144

end Sys2Proof.Machine
end

