-- ==== Sys2Proof/Machine/Alarm.lean ====
section
/-!
DEFINITION. Sensor levels and what a level reached by itself does (R385, Table 16-3): the log, SENSOR_ALARM, SERVICE and the refresh
rate. The alarms that start a flush follow in Machine/Sensors.lean.
-/
namespace Sys2Proof.Machine

open Sys2Proof

/-- Row of Table 16-3 and the sensor's number in it. -/
def sensorRow : Sensor → Nat × Nat
  | .die i => (1, i.val) | .stack i => (2, i.val) | .railVolt i => (3, i.val) | .railCurrent i => (3, 7 + i.val)
  | .standby => (4, 0) | .inputVolt => (5, 0) | .inputCurrent => (6, 0) | .humidity => (8, 0) | .film => (9, 0)
  | .dramCorrected i => (10, i.val) | .eddyCorrected i => (11, i.val) | .eddyUncorrected i => (11, 8 + i.val)
  | .flashRetries => (12, 0) | .flashRebuilds => (12, 1) | .flashSpare => (13, 0) | .retiredFrames p => (14, p.val)
  | .reachDrops => (15, 0)

/-- Whether a sensor has a warning level, and an alarm level (Table 16-3). -/
def hasWarning : Sensor → Bool
  | .film | .retiredFrames _ | .eddyUncorrected _ | .flashRebuilds => false
  | _ => true
def hasAlarm : Sensor → Bool
  | .inputVolt | .inputCurrent | .humidity | .dramCorrected _ | .eddyCorrected _ | .flashRetries | .reachDrops => false
  | _ => true

/-- The level as the sensor's row knows it. -/
def clipLevel (x : Sensor) (l : Level) : Level :=
  match l with
  | .alarm => if hasAlarm x then .alarm else .warning
  | .warning => if hasWarning x then .warning else .normal
  | .normal => .normal

def levelOf (s : State) (x : Sensor) : Level := ((s.keeper.levels.find? (fun e => e.1 == x)).map (·.2)).getD .normal

/-- SERVICE raised for a row of Table 16-3 with a value. -/
def serviceAlarm (row value : Nat) (s : State) : State := logEv 0x0502 sevAlarm 15 0 row value (setAlert alertService s)

/-- Whether an alarm of the sensor sets SERVICE. -/
def alarmsService : Sensor → Bool
  | .eddyUncorrected _ | .flashRebuilds | .flashSpare | .retiredFrames _ => true
  | _ => false

/-- A level reached: it is logged when it rises, SENSOR_ALARM follows the sensors at alarm, a stack's refresh rate doubles from its
warning level up. -/
def noteLevel (x : Sensor) (reading : Int) (l : Level) (s : State) : State :=
  let old := levelOf s x
  let l := clipLevel x l
  let rest := s.keeper.levels.filter (fun e => e.1 != x)
  let levels := if l == .normal then rest else rest ++ [(x, l)]
  let dbl := match x with
    | .stack i => if l == .normal then removeNat i.val s.keeper.doubleRefresh else insertNat i.val s.keeper.doubleRefresh
    | _ => s.keeper.doubleRefresh
  let s := { s with keeper := { s.keeper with levels, doubleRefresh := dbl } }
  let s := if s.keeper.shockHold != 0 || levels.any (fun e => e.2 == .alarm) then setAlert alertSensor s else dropAlert alertSensor s
  let (row, i) := sensorRow x
  let entry := fun sev => logEv 0x0401 sev 15 0 (Config.pdrId row i) (unsigned 64 reading)
  if l == .alarm && old != .alarm then
    let s := entry sevAlarm s
    if alarmsService x then serviceAlarm row (unsigned 64 reading) s else s
  else if l == .warning && old == .normal then entry sevWarning s
  else s

/-- Whether a sample takes its sensor to the alarm level. -/
def entersAlarm (s : State) (x : Sensor) (l : Level) : Bool := clipLevel x l == .alarm && levelOf s x != .alarm

end Sys2Proof.Machine
end

