-- ==== Sys2Proof/Machine/Complete.lean ====
section
/-!
DEFINITION. How a request reaches a home and how its completion returns to its source: admission queues and credits
(R27, R115, R423), sending on a port (R102, R154), responses (R112, R156), host outcomes (R374) and split requests (R178).
-/
namespace Sys2Proof.Machine

open Sys2Proof

/-! ## Admission queues -/

/-- The credit share of a source station in an admission queue (R115): 24 a race, 48 the host station, 16 the rill engine. -/
def queueShare (station : Nat) : Nat :=
  if station < 8 then 24 else if station == 8 then 48 else if station == 10 then 16 else 0

/-- The credit share of a source station in a switch-plane egress queue (R423). -/
def egressShare (station : Nat) : Nat :=
  if station < 8 then 96 else if station == 8 then 192 else if station == 10 then 64 else 0

/-- The address a request is routed by: a MCAST_STORE's is its group's number in place of a node (R184). -/
def destOf (r : Req) : Nat := if r.op == .mcastStore then at' (field r.opf 48 8) 54 else r.addr

/-- Whether this node is a request's home. A MCAST_STORE of this node's own sources is never local; the copy that a switch plane delivers
is, whatever its NODE field holds (R184). -/
def isHome (s : State) (r : Req) : Bool :=
  if r.op == .mcastStore then (match r.src with
    | .port p _ => (portEntry s p).kind != .partner
    | _ => false)
  else addrNode r.addr == s.node

/-- Accepted requests whose data is still arriving. -/
def rxPending (s : State) : List Req := s.net.links.flatMap (fun l => l.2.rx.flatMap (·.reqs))

/-- Accepted requests of ports that stand in no queue yet and hold their credit: data arriving, in an open combination, or behind one
(R27, R186). -/
def inHand (s : State) : List Req :=
  rxPending s ++ s.net.combos.flatMap (fun c => c.entries ++ c.behind) ++ s.weir.queue.flatMap (·.behind)

/-- The race of a request's home queue: the one whose credit it holds, else its home race now (R27). -/
def raceFor (s : State) (r : Req) : Nat := r.queueRace.getD (homeRace s (addrOffset r.addr))

/-- Whether a request is for queue (race, party, class) of this node, from a station. -/
def isFor (s : State) (race party : Nat) (tc : TClass) (station : Nat) (r : Req) : Bool :=
  isHome s r && raceFor s r == race && r.party == party && r.tclass == tc && stationOf r.src == station

/-- Requests that hold a credit of queue (race, party, class) from a station: in hand, queued or crossing, parked for a fill, or parked
at their party's share (R27, R65, R80). -/
def creditsUsed (s : State) (race party : Nat) (tc : TClass) (station : Nat) : Nat :=
  ((inHand s).filter (isFor s race party tc station)).length
  + (s.weir.queue.filter (fun q => q.race == race && q.party == party && q.tclass == tc && q.station == station)).length
  + (s.weir.parked.filter (fun q => q.2.race == race && q.2.party == party && q.2.tclass == tc && q.2.station == station)).length
  + (s.store.parkedW.filter (isFor s race party tc station)).length

/-- Whether the queue has a credit for n more requests of the station. -/
def hasCredit (s : State) (race party : Nat) (tc : TClass) (station n : Nat) : Bool :=
  creditsUsed s race party tc station + n ≤ queueShare station

/-- Entries of a port's egress queue of a class from a station (R423): headers that have not left, and accepted requests in hand that
will leave there. -/
def egressUsed (s : State) (port : Nat) (tc : TClass) (station : Nat) : Nat :=
  (s.net.txq.filter (fun t => t.port == port && t.isReq && t.tclass == tc && t.station == station)).length
  + ((inHand s).filter (fun r => !isHome s r && routePort s r.party (destOf r) == some port && r.tclass == tc
      && stationOf r.src == station)).length

/-- Whether a port's egress queue has a credit for n more requests of the station; a partner port has no such queue (R423). -/
def hasEgress (s : State) (port : Nat) (tc : TClass) (station n : Nat) : Bool :=
  (portEntry s port).kind == .partner || egressUsed s port tc station + n ≤ egressShare station

/-- Granules that two requests share. -/
def sameGranule (a b : Req) : Bool :=
  addrNode a.addr == addrNode b.addr && addrSpace a.addr == addrSpace b.addr
  && (linesOf (addrOffset a.addr) a.len).any (fun l => (linesOf (addrOffset b.addr) b.len).contains l)

/-- Whether a request to be taken in or placed waits behind an open combination: that covers one of its granules, or one of those that wait
behind it does (R153, R186). -/
def comboCovers (r : Req) (c : Combo) : Bool := sameGranule c.head r || c.behind.any (fun q => sameGranule q r)

/-- Fabric core station of a request's source; a combined request takes the queue entry of its entry 0 (R186). -/
def stationIn (s : State) (src : Src) : Nat :=
  match src with
  | .combo id => match s.net.combosOut.find? (fun c => c.id == id) with
    | some c => stationOf c.head.src
    | none => 10
  | _ => stationOf src

/-- The request with an identity of its own. -/
def fresh (r : Req) (s : State) : Req × State :=
  ({ r with id := s.weir.nextId }, { s with weir := { s.weir with nextId := s.weir.nextId + 1 } })

/-- A port's request keeps the identity that it got when its header was accepted; any other gets one. -/
def numbered (r : Req) (s : State) : Req × State :=
  match r.src with
  | .port .. => if r.id == 0 then fresh r s else (r, s)
  | _ => fresh r s

/-- Requests with identities of their own, in order. -/
def numberAll : List Req → State → List Req × State
  | [], s => ([], s)
  | r :: t, s =>
    let (r, s) := fresh r s
    let (rest, s) := numberAll t s
    (r :: rest, s)

/-- A request entered in its queue, with some that follow it at once: behind the others, but requests that enter one queue in one cycle stand
in ascending station number (R121). -/
def queueWith (q : QEntry) (more l : List QEntry) : List QEntry :=
  let after := fun (x : QEntry) => x.race == q.race && x.party == q.party && x.tclass == q.tclass && x.crossing == q.crossing
    && x.entered == q.entered && q.station < x.station
  l.takeWhile (fun x => !after x) ++ q :: more ++ l.dropWhile (fun x => !after x)

/-- A request placed in its home admission queue; one from another station crosses the fabric core first. -/
def enqueue (r : Req) (s : State) : State :=
  let race := raceFor s r
  let st := stationIn s r.src
  let (r, s) := numbered { r with queueRace := some race } s
  let q : QEntry := { race, party := r.party, tclass := r.tclass, station := st, crossing := st != race, entered := s.weir.cycle, req := r }
  { s with weir := { s.weir with queue := queueWith q [] s.weir.queue } }

/-- The entry of a request that enters its queue behind another (R186). -/
def entryBehind (q : QEntry) (r : Req) : QEntry :=
  { q with party := r.party, tclass := r.tclass, station := stationOf r.src, req := r, behind := [] }

/-- The request of a queue entry and those that enter the queue behind it. -/
def QEntry.all (q : QEntry) : List Req := q.req :: q.behind

/-- The admission queues without some requests; what was to enter behind one of them stands in its place. -/
def queueWithout (out : Req → Bool) (l : List QEntry) : List QEntry :=
  l.flatMap (fun q =>
    let rest := q.behind.filter (fun r => !out r)
    if out q.req then rest.map (entryBehind q) else [{ q with behind := rest }])

/-- A request given to the control logic or the home pipeline at once, without an admission queue (R25). -/
def toPipe (r : Req) (s : State) : State :=
  let (r, s) := fresh r s
  { s with weir := { s.weir with pipe := s.weir.pipe ++ [r] } }

/-- Requests given back to the pipeline in front of those admitted after them, to be performed from the start. -/
def toPipeFront (rs : List Req) (s : State) : State :=
  { s with weir := { s.weir with pipe := rs.map (fun r => { r with seen := [] }) ++ s.weir.pipe } }

/-- The request no longer in the pipeline: its step has been taken. -/
def unpipe (r : Req) (s : State) : State :=
  { s with weir := { s.weir with pipe := s.weir.pipe.filter (fun x => x.id != r.id) } }

/-! ## Sending on a port -/

/-- The request header cell of a request on a port (Table 04-3): a partner's own (ASID, virtual address), the pool address and 0 in ASID
on a switch plane. -/
def sendHdr (s : State) (port : Nat) (r : Req) (tag : Nat) : Cell :=
  reqCell { opcode := opCode r.op, tag, gen := r.gen, len := r.len, addr := r.addr, origin := r.origin
            asid := if (portEntry s port).kind == .partner then r.asid.getD 0 else 0
            cls := classCode r.cls, tclass := tclassCode r.tclass, epoch := r.epoch, provOk := r.provOk
            data := r.data.length, opf := r.opf }

/-- The header of a sent request, ready to be sent again with its TAG (R101, R106, R112). -/
def txItem (s : State) (x : Sent) (resent : Bool) : TxItem :=
  { port := x.port, link := x.link, isReq := true, hdr := sendHdr s x.port x.req x.tag, data := x.req.data, tclass := x.req.tclass
    tag := x.tag, station := stationIn s x.req.src, page := page4k x.req.addr, resent }

/-- A TAG that no request outstanding on the port carries. -/
def freeTag (s : State) (port : Nat) : Nat → Nat → Nat
  | 0, t => t
  | n + 1, t => if s.net.sent.any (fun x => x.port == port && x.tag == t) then freeTag s port n ((t + 1) % 65536) else t

/-- A request sent on a port: it takes a tag, is remembered as outstanding, and waits for a flit. -/
def sendOn (port : Nat) (r : Req) (s : State) : State :=
  let tag := freeTag s port 65536 s.net.nextTag
  let x : Sent := { port, link := (routeLink s port r.addr).getD 0, tag, req := r }
  { s with net := { s.net with nextTag := (tag + 1) % 65536, sent := s.net.sent ++ [x], txq := s.net.txq ++ [txItem s x false] } }

/-- A response header queued on a port, on the link that carried the request while it is up, else on another (R101). -/
def respondOn (port link tag : Nat) (st : Status) (data : Bytes) (ptag : Option Nat) (s : State) : State :=
  let l := if (upLinks s port).contains link then link else ((upLinks s port)[0]?).getD link
  let hdr := rspCell { tag, status := st, data := data.length, prov := ptag.isSome, ptag := ptag.getD 0 }
  { s with net := { s.net with txq := s.net.txq ++ [{ port, link := l, isReq := false, hdr, data, tag }] } }

/-! ## Completions -/

/-- Whether a request's response carries data when it succeeds (Table 07-1, Table 05-3). -/
def readsData (r : Req) : Bool := countsAsRead r.op r.opf

/-- The CXL outcome of a host request (Table 15-13), with its error window entry (R373). -/
def hostOutcome (p : Nat) (r : Req) (st : Status) (data : Bytes) (detail : Nat) (s : State) : State :=
  let s := if st == .ok then s else errorEntry p (statusCode st) 0 r.va detail s
  if r.op == .store || r.op == .wbDirty then emit (.cxlCmp p r.tag) s
  else if r.op == .evict || r.op == .markDirty then s
  else if st == .ok then emit (.cxlData p r.tag (if data.isEmpty then List.replicate 64 0#8 else data) false) s
  else if st == .poison || st == .uncorrectable then emit (.cxlData p r.tag (padTo 64 data) true) s
  else emit (.cxlData p r.tag (List.replicate 64 0#8) true) s

/-- A completion kept for the next step of its mill, descriptor or firing. -/
def land (r : Req) (st : Status) (data : Bytes) (s : State) : State :=
  { s with weir := { s.weir with landed := s.weir.landed ++ [{ req := r, status := st, data }] } }

/-- A whole request completed at its source (R112, R156, R374). -/
def finish (r : Req) (st : Status) (data : Bytes) (s : State) : State :=
  let data := if st == .ok || st == .short || st == .overrun then data else []
  match r.src with
  | .port p l => if hasResponse r.op then respondOn p l r.tag st data none s else s
  | .host p => hostOutcome p r st data 0 s
  | .mill _ | .rill .. | .course .. | .far .. | .sluice .. | .mirror .. | .combo _ | .exch .. => land r st data s
  | .mailbox _ | .migrator | .engine => s

/-- The first error of a split request in ascending address order (R178). -/
def firstError : List (Nat × Status × Bytes) → Status
  | [] => .ok
  | (_, st, _) :: t => if st == .ok then firstError t else st

/-- One more than the first piece in ascending address order that failed; 0 where none did. -/
def firstFailed (l : List (Nat × Status × Bytes)) : Nat := ((l.find? (fun x => x.2.1 != .ok)).map (fun x => x.1 + 1)).getD 0

/-- The pieces of a split request in address order. -/
def sortParts (l : List (Nat × Status × Bytes)) : List (Nat × Status × Bytes) :=
  l.foldl (fun a x => a.takeWhile (fun y => y.1 < x.1) ++ [x] ++ a.dropWhile (fun y => y.1 < x.1)) []

/-- A request, or a piece of one, completed: a split request answers once, when every piece is complete (R178). A mill keeps what the other
pieces delivered beside an error, for its soft errors (R238). -/
def complete (r : Req) (st : Status) (data : Bytes) (s : State) : State :=
  match r.join with
  | none => finish r st data s
  | some j =>
    match s.net.joins.find? (fun x => x.id == j) with
    | none => finish r st data s
    | some x =>
      let d := if st == .ok || st == .short || st == .overrun then data else if readsData r then List.replicate r.len 0#8 else []
      let x := { x with done := x.done ++ [(r.part, st, d)] }
      if x.done.length < x.total then
        { s with net := { s.net with joins := s.net.joins.map (fun y => if y.id == j then x else y) } }
      else
        let parts := sortParts x.done
        let s := { s with net := { s.net with joins := s.net.joins.filter (fun y => y.id != j) } }
        let d := parts.flatMap (fun y => y.2.2)
        let whole := { x.whole with part := firstFailed parts }
        match whole.src with
        | .mill _ => land whole (firstError parts) d s
        | _ => finish whole (firstError parts) d s

/-! ## Every request under way -/

/-- The requests this node has accepted or issued and not completed. -/
def allReqs (s : State) : List Req :=
  rxPending s ++ s.weir.stalled.map (·.2) ++ s.weir.queue.flatMap QEntry.all ++ s.weir.pipe ++ s.weir.waitMove ++ s.weir.parked.map (·.2.req)
  ++ s.net.sent.map (·.req) ++ (s.net.joins.filter (fun j => j.done.length < j.total)).map (·.whole)
  ++ s.net.combos.flatMap (fun c => c.entries ++ c.behind) ++ s.net.combosOut.flatMap (·.entries)
  ++ s.net.ptags.filterMap (·.req)
  ++ s.coh.txns.filterMap (·.req) ++ s.coh.txns.filterMap (·.evictFor) ++ s.coh.waits ++ s.coh.waitWay
  ++ s.store.parkedW ++ s.store.wt.map (·.req)
  ++ s.sluice.stages.flatMap (·.stores) ++ s.sluice.shipped.flatMap (·.stores) ++ s.sluice.fetches.flatMap (fun f => f.loads ++ f.later)
  ++ s.sluice.far.map (·.req) ++ s.sluice.waitStage

/-! ## Requests of this node's own sources -/

/-- Whether a request finds a credit: of a port's egress queue, or else of its home queue here; and none of its station waits for one
there before it (R27, R115, R423). -/
def finds (s : State) (port : Option Nat) (r : Req) : Bool :=
  let st := stationOf r.src
  let race := homeRace s (addrOffset r.addr)
  match port with
  | some p => hasEgress s p r.tclass st 1 && !s.weir.stalled.any (fun x => x.1 == some p && x.2.tclass == r.tclass && stationOf x.2.src == st)
  | none => hasCredit s race r.party r.tclass st 1 && !s.weir.stalled.any (fun x => x.1 == none && isFor s race r.party r.tclass st x.2)

/-- A request that waits behind an open combination (R186). -/
def waitBehind (c : Combo) (r : Req) (s : State) : State :=
  let add := fun (x : Combo) => if x.id == c.id then { x with behind := x.behind ++ [r] } else x
  { s with net := { s.net with combos := s.net.combos.map add } }

/-- A request placed where it goes, its credit found: behind an open combination that covers one of its granules (R186), on a port, or in
its home queue. -/
def place (port : Option Nat) (r : Req) (s : State) : State :=
  match s.net.combos.find? (comboCovers r) with
  | some c => waitBehind c r s
  | none => match port with
    | some p => sendOn p r s
    | none => enqueue r s

/-- A request of this node's own placed, or stalled at its source until its queue has a credit. -/
def offer (port : Option Nat) (r : Req) (s : State) : State :=
  if finds s port r then place port r s else { s with weir := { s.weir with stalled := s.weir.stalled ++ [(port, r)] } }

/-- Whether this node may send a multicast store to a group for a local party (R183). -/
def mayMulticast (s : State) (group party : Nat) : Bool :=
  s.hw.deltas.any (fun d => d.group == group && bit d.senders party)

/-- Where a request goes: a port, its home queue here (none), or a status with which it fails at once: a multicast store without the
right to send (R183), a home outside the pool map (R46) or on another node while MAP_STATE is FORMING (Table 02-7), or
no route, of which the spec states no status (log entry 72). -/
def target (s : State) (r : Req) : Except Status (Option Nat) :=
  if isHome s r then .ok none
  else if r.op == .mcastStore && !mayMulticast s (field r.opf 48 8) r.party then .error .faultPermission
  else if s.map.state == .forming || (r.op != .mcastStore && !s.map.pool.contains (addrNode r.addr)) then .error .faultUnmapped
  else match routePort s r.party (destOf r) with
    | some p => .ok (some p)
    | none => .error .faultUnmapped

/-- The class of a header on a port: bulk for device work, since every port refuses class maintenance (Table 04-8 row 5; log entry 72). -/
def portClass (tc : TClass) : TClass := if tc == .maintenance then .bulk else tc

/-- The request as it leaves: under this node's generation, a multicast store with NODE and SPACE 0 (R48, R184). -/
def outbound (s : State) (r : Req) : Req :=
  if isHome s r then { r with gen := s.hw.compGen, queueRace := none }
  else { r with gen := s.hw.compGen, tclass := portClass r.tclass, addr := if r.op == .mcastStore then addrOffset r.addr else r.addr }

/-- A request of this node's own for its home, which waits at its source for a credit. -/
def issue (r : Req) (s : State) : State :=
  match target s r with
  | .ok p => offer p (outbound s r) s
  | .error st => complete r st [] s

/-- A stalled request offered again: where its port is down, on the route it has now. -/
def offerAgain (port : Option Nat) (r : Req) (s : State) : State :=
  let down := port.any (fun p => (portEntry s p).kind == .switch && (upLinks s p).isEmpty)
  if !down then offer port r s
  else match target s r with
    | .ok p => offer p r s
    | .error st => complete r st [] s

/-- The stalled requests offered again, in the order in which they came. -/
def wakeStalled (s : State) : State :=
  s.weir.stalled.foldl (fun s x => offerAgain x.1 x.2 s) { s with weir := { s.weir with stalled := [] } }

/-- An accepted request of a port for its home; it debited its credit with its disposition. -/
def forward (r : Req) (s : State) : State :=
  match target s r with
  | .ok none => enqueue r s
  | .ok (some p) => sendOn p (outbound s r) s
  | .error st => complete r st [] s

end Sys2Proof.Machine
end

