-- ==== Sys2Proof/Machine/Storage.lean ====
section
/-!
DEFINITION. Backed space at its home: the composition checks of R42, frames and frame pools (R60 to R63), tier states and
demand fills (R64 to R70), poison (R74, R75), durable-dirty marking and write-through (R78 to R80), and the bytes themselves.
-/
namespace Sys2Proof.Machine

open Sys2Proof

/-! ## The home checks (R36, R42, R200) -/

/-- The permission an operation needs (R42 step 3): atomic, write, read. -/
def permOk (e : Extent) : Op → Bool
  | .load | .rdShared | .confRead | .sluiceGet => e.permRead
  | .store | .mcastStore | .markDirty | .wbDirty | .sluicePut => e.permWrite
  | .rdOwn | .upgrade => e.permRead && e.permWrite
  | .atomic | .confAtomic | .reduce => e.permAtomic
  | _ => true

/-- The mirror setting that makes (node, 15) the inbound gateway of an extent's set (R200). -/
def mirrorGateway (s : State) (e : Extent) (o : Pair) : Option MirrorSetting :=
  match e.owner with
  | .set id => s.hw.mirrors.find? (fun m => m.setId == id && m.gateway == o.node && o.party == 15)
  | .single _ => none

/-- The checks of R42 at the home, in its order, for a request of an origin on [off, off + len); none when it may be
performed. Backed space of a partition without a key is unmapped (R340). A store by the gateway of the extent's MIRROR set goes by
R200 instead: performed where the set is not held as primary, REFUSED_ISOLATION where it is. -/
def homeCheck (s : State) (o : Pair) (op : Op) (cls : RClass) (off len : Nat) : Option Status := checkAt false s o op cls off len
where
  /-- The same with step 2, the owner, left out where R301 exempts the store. -/
  checkAt (exempt : Bool) (s : State) (o : Pair) (op : Op) (cls : RClass) (off len : Nat) : Option Status :=
    if backedSize s < off + len then some .faultUnmapped
    else match findExtent s.hw.slice off len with
      | none => some .faultUnmapped
      | some e =>
        if s.boot.uncreated.contains (extentPool s e) then some .faultUnmapped
        else match (if op == .store then mirrorGateway s e o else none) with
          | some m =>
            match findSet s.hw.slice m.setId with
            | some x => if x.primary then some .refusedIsolation else none
            | none => some .refusedIsolation
          | none =>
            if !exempt && !(extentMembers s.hw.slice e).contains o then some .refusedIsolation
            else if cls != .any && cls != e.cls then some .faultPermission
            else if !permOk e op then some .faultPermission
            else none

/-- The slices of the pool map, this node's own first. -/
def poolSlices (s : State) : List Slice := s.hw.slice :: (s.map.slices.filter (fun x => s.map.pool.contains x.1)).map (·.2)

/-- The checks of R42 on backed space of another node, from that node's slice. -/
def awayCheck (s : State) (o : Pair) (op : Op) (cls : RClass) (addr len : Nat) : Option Status :=
  match (poolSlices s).find? (fun sl => sl.node == addrNode addr) with
  | none => some .faultUnmapped
  | some sl => match findExtent sl (addrOffset addr) len with
    | none => some .faultUnmapped
    | some e =>
      if !(extentMembers sl e).contains o then some .refusedIsolation
      else if cls != .any && cls != e.cls then some .faultPermission
      else if !permOk e op then some .faultPermission
      else none

/-! ## The exchange areas (R300, R301) -/

def groupOf (s : State) (g : Nat) : Option ExchangeGroup := s.hw.groups.find? (fun x => x.group == g)

def slotBytes (g : ExchangeGroup) : Nat := 2 ^ g.slotLog2

/-- Offset of inbox slot n, and of return slot n. -/
def inboxOff (g : ExchangeGroup) (n : Nat) : Nat := g.areaOff + n * slotBytes g
def returnOff (g : ExchangeGroup) (n : Nat) : Nat := g.areaOff + (1024 + n) * slotBytes g

/-- The group whose exchange area holds an offset, the slot number (1,024 and above: return slots) and the place in it. -/
def areaSlot (s : State) (off : Nat) : Option (ExchangeGroup × Nat × Nat) :=
  (s.hw.groups.find? (fun g => g.areaOff ≤ off && off < g.areaOff + 2048 * slotBytes g)).map
    (fun g => (g, (off - g.areaOff) / slotBytes g, (off - g.areaOff) % slotBytes g))

/-- R301: a STORE of another node in the exchange area is exempt from R24 and from step 2 of R42: the group and, in their place,
whether it is admitted; none for any other request. -/
def areaCheck (s : State) (o : Pair) (op : Op) (off len : Nat) : Option (ExchangeGroup × Bool) :=
  if op != .store || o.node == s.node then none
  else (areaSlot s off).map (fun x =>
    let (g, n, at_) := x
    (g, g.roster.contains s.node && g.roster.contains o.node && o.party == g.party && n % 1024 == o.node && at_ + len ≤ slotBytes g))

/-- The checks of a request on backed space at its home: those of R42, or of R301. -/
def spaceCheck (s : State) (o : Pair) (op : Op) (cls : RClass) (off len : Nat) : Option Status :=
  match areaCheck s o op off len with
  | some (_, ok) => if ok then homeCheck.checkAt true s o op cls off len else some .refusedIsolation
  | none => homeCheck s o op cls off len

/-- The checks of R42 on a piece of a request that its source has split, wherever its home is (R54). -/
def pieceCheck (s : State) (r : Req) : Option Status :=
  if addrSpace r.addr != 0 || r.op == .mcastStore then none
  else if addrNode r.addr == s.node then spaceCheck s r.origin r.op r.cls (addrOffset r.addr) r.len
  else awayCheck s r.origin r.op r.cls r.addr r.len

/-! ## Frames (R60 to R63, R76) -/

/-- First frame and frame count of a channel set: 32,768 frames of 64 KiB in each 2 GiB pseudo-channel (R15). -/
def setFrames (c : ChannelSet) : Nat × Nat := (c.race * 2097152 + c.first * 32768, 32768 * 2 ^ c.log2)

/-- The channel sets of a pool; the device pool is pseudo-channel 63 of every race (R61). -/
def poolSets (s : State) (pool : Nat) : List ChannelSet :=
  if pool == 0 then (List.range 8).map (fun n => ⟨n, 63, 0, 0, 0⟩) else s.hw.channels.filter (fun c => c.pool == pool)

def poolFrames (s : State) (pool : Nat) : Nat := ((poolSets s pool).map (fun c => (setFrames c).2)).sum

/-- Frames of the pool's own metadata: 20 bytes for each tier page its extents cover (R62). -/
def metaFrames (s : State) (pool : Nat) : Nat :=
  let pages := ((s.hw.slice.extents.filter (fun e => extentPool s e == pool)).map (fun e => (e.units + 15) / 16)).sum
  (20 * pages + 65535) / 65536

/-- Frames that hold a page, are still to be copied from, or are reserved for a move. -/
def usedFrames (s : State) : List Nat :=
  (s.store.tier.filter (fun e => e.2.state == .plain
      || (e.2.state == .moving && s.store.moves.any (fun m => m.page == e.1 && m.src == .plain)))).map (fun e => e.2.frame)
  ++ (s.store.moves.filter (fun m => m.dest == .plain)).map (·.frame)

/-- Whether a page is held as Riffle granules; one that is on its way out of RIFFLE still is. -/
def inGranules (s : State) (page : Nat) (e : TierEntry) : Bool :=
  e.state == .riffle || (e.state == .moving && s.store.moves.any (fun m => m.page == page && m.src == .riffle))

/-- Frames that the granules of some pages of a pool in a race take, 128 to a frame (R274; log entry 17). -/
def granulesOf (s : State) (held : Nat → TierEntry → Bool) (pool race : Nat) : Nat :=
  (((s.store.tier.filter (fun e => held e.1 e.2 && e.2.race == race && pagePool s e.1 == pool)).map (fun e => e.2.granules)).sum + 127)
    / 128

/-- Frames of a pool in a race that hold Riffle granules. -/
def granuleFrames (s : State) (pool race : Nat) : Nat := granulesOf s (inGranules s) pool race

/-- The first of n frames from f that is not in a list. -/
def firstFree (busy : List Nat) (f : Nat) : Nat → Option Nat
  | 0 => none
  | n + 1 => if busy.contains f then firstFree busy (f + 1) n else some f

/-- Frames of a pool's own metadata that lie in a race: all in the pool's first race (R62; log entry 17). -/
def metaIn (s : State) (pool race : Nat) : Nat := if (poolRaces s pool)[0]? == some race then metaFrames s pool else 0

/-- Free frames of a pool in a race. -/
def freeIn (s : State) (pool race : Nat) : Nat :=
  let sets := ((poolSets s pool).filter (fun c => c.race == race)).map setFrames
  let inRace := fun f => sets.any (fun c => c.1 ≤ f && f < c.1 + c.2)
  (sets.map (·.2)).sum - metaIn s pool race - granuleFrames s pool race
    - ((usedFrames s ++ s.store.retired).filter inRace).eraseDups.length

/-- A free frame of a pool in a race (R63); the pool's metadata lies in the first frames of its first set (R62). -/
def freeFrame (s : State) (pool race : Nat) : Option Nat :=
  if freeIn s pool race == 0 then none
  else
    let busy := usedFrames s ++ s.store.retired
    let sets := (poolSets s pool).filter (fun c => c.race == race)
    let skip := metaIn s pool race
    sets.findSome? (fun c =>
      let (f, n) := setFrames c
      let k := if sets.head? == some c then skip else 0
      firstFree busy (f + k) (min (n - k) (busy.length + 1)))

/-- The channel set that a frame lies in (R16). -/
def setOfFrame (s : State) (f : Nat) : Option ChannelSet :=
  let race := f / 2097152
  let ch := f % 2097152 / 32768
  if ch == 63 then some ⟨race, 63, 0, 0, 0⟩ else s.hw.channels.find? (fun c => c.race == race && c.first ≤ ch && ch < c.first + 2 ^ c.log2)

/-- The pseudo-channel that holds a byte of a frame: consecutive 256-byte units rotate over those of its set in ascending order (R16). -/
def channelIn (c : ChannelSet) (at_ : Nat) : Nat := c.first + at_ / 256 % 2 ^ c.log2

/-- Whether the line of a PLAIN page lies on a pseudo-channel of a race; of a page held otherwise the place is not stated. -/
def lineOn (s : State) (race channel line : Nat) : Bool :=
  let e := tierOf s (line / 1024)
  match e.state, setOfFrame s e.frame with
  | .plain, some c => c.race == race && channelIn c (line % 1024 * 64) == channel
  | .plain, none => false
  | _, _ => true

/-- Free frames of a pool (R69). -/
def freeCount (s : State) (pool : Nat) : Nat := ((poolRaces s pool).map (freeIn s pool)).sum

/-- Pages of a pool resident in DRAM. -/
def resident (s : State) (pool : Nat) : List (Nat × TierEntry) :=
  s.store.tier.filter (fun e => (e.2.state == .plain || e.2.state == .riffle) && pagePool s e.1 == pool)

/-- The list turned so that it starts at the first key at or above the hand. -/
def fromHand (hand : Nat) (l : List (Nat × TierEntry)) : List (Nat × TierEntry) :=
  l.filter (fun e => hand ≤ e.1) ++ l.filter (fun e => e.1 < hand)

/-- The entry of lowest COUNT, ties to the first. -/
def lowestCount : List (Nat × TierEntry) → Option (Nat × TierEntry)
  | [] => none
  | e :: t => match lowestCount t with
    | none => some e
    | some f => if e.2.count ≤ f.2.count then some e else some f

def isPinned (e : TierEntry) : Bool := 0 < e.pins || e.stuck

/-! ## Write-back (R71, R75, R338) -/

/-- The key of the partition that holds a byte of backed space (R335, R336). -/
def keyAt (s : State) (off : Nat) : XtsKey := Tbl.get 0#512 s.boot.keyBits (poolOf s off)

/-- A 4 KiB unit of backed space as it lies in flash and in the reserve: each of its 64-byte units under the partition's key (R336). -/
def cipherUnit (s : State) (mem : Memory) (u : Nat) : Bytes :=
  padTo 4096 (xtsSpan true (keyAt s (u * 4096)) (u * 4096) (mem.readN (u * 4096) 4096) 64)

/-- What a 4 KiB unit of flash or of the reserve deciphers to (R336). -/
def plainUnit (s : State) (flash : Memory) (u : Nat) : Bytes :=
  padTo 4096 (xtsSpan false (keyAt s (u * 4096)) (u * 4096) (flash.readN (u * 4096) 4096) 64)

/-- Whether a flash unit was written under the key that its partition has now (R338). -/
def unitCurrent (s : State) (u : Nat) : Bool :=
  match Tbl.find s.nv.flashSerial u, Tbl.find s.boot.keys (poolOf s (u * 4096)) with
  | some a, some b => a == b
  | _, _ => false

/-- What a 4 KiB unit reads as from flash: deciphered under the partition's serial, and zero under another (R336, R338). -/
def flashUnit (s : State) (u : Nat) : Bytes := if unitCurrent s u then plainUnit s s.nv.flash u else List.replicate 4096 0#8

/-- A 64-byte unit of a page as DRAM holds it (R336): under the unit's own tweak in a frame, under the granule's where the page lies in
Riffle granules, of which this is unit i of the sub-block at subOff. -/
def dramUnit (s : State) (granule : Option (Nat × Nat)) (off : Nat) (data : Bytes) : Bytes :=
  xtsUnit true (keyAt s off) (match granule with | some (subOff, i) => granuleTweak subOff i | none => unitTweak off) data

/-- A unit's bytes put into backed space. -/
def putUnit (u : Nat) (bs : Bytes) (s : State) : State := { s with store := { s.store with mem := s.store.mem.writeN (u * 4096) bs } }

/-- A unit programmed into flash with the bytes given, under the serial of its partition's key, with its poison. What the spate reserve
held of it is older from now on and is not restored (R88; log entry 16). -/
def programUnit (u : Nat) (bs : Bytes) (s : State) : State :=
  let lo := u * 4096
  let serial := Tbl.get 0 s.boot.keys (poolOf s lo)
  let inUnit := fun l => l / 64 == u
  let r := s.nv.reserve
  let r := { r with manifest := removeNat u r.manifest, units := removeNat u r.units, data := r.data.without lo (lo + 4096), serials := Tbl.del r.serials u
                    dataPoison := r.dataPoison.filter (fun l => !inUnit l) }
  { s with nv := { s.nv with
      flash := s.nv.flash.writeN lo bs
      flashSerial := Tbl.put s.nv.flashSerial u serial
      flashPoison := insertAll (s.store.poison.filter inUnit) (s.nv.flashPoison.filter (fun l => !inUnit l))
      reserve := r } }

/-- A unit's content written to its flash copy, enciphered (R71, R336). -/
def writeBackUnit (u : Nat) (s : State) : State := programUnit u (cipherUnit s s.store.mem u) s

/-- A unit cleaned: written back, its DIRTY and DURABLE_DIRTY cleared and its charge returned (R71, R80). A DAMAGED sub-block is never
written back (R275). -/
def cleanUnit (u : Nat) (s : State) : State :=
  if s.store.damaged.contains (u / 16, u % 16) then s
  else
    writeBackUnit u (updTier (u / 16) (fun e => { e with dirty := removeNat (u % 16) e.dirty, durable := removeNat (u % 16) e.durable })
      { s with store := { s.store with charged := Tbl.del s.store.charged u } })

/-- The dirty units of a page written to flash and cleaned (R71); poison goes with every line of the page (R75). -/
def writeBackPage (page : Nat) (s : State) : State :=
  let s := ((tierOf s page).dirty.map (fun i => page * 16 + i)).foldl (fun s u => cleanUnit u s) s
  let inPage := fun l => l / 1024 == page
  { s with nv := { s.nv with
      flashPoison := insertAll (s.store.poison.filter inPage) (s.nv.flashPoison.filter (fun l => !inPage l)) } }

/-! ## Moves and demand fills (R64, R65, R70) -/

/-- Device work that waits for a maintenance slot (R25), in place of the same work asked for before. -/
def maintain (race : Nat) (w : FlashWork) (s : State) : State :=
  { s with weir := { s.weir with maint := s.weir.maint.filter (fun x => x.2 != w) ++ [(race, w)] } }

/-- A move begun: the page is MOVING. A demand fill waits for the flash gate alone; the migrator's moves, a fill for a pin among them, for a
maintenance slot (R21, R64, R73). Requests to a page that leaves its race are held meanwhile, by an entry in every race's hold filter (R19,
R109). -/
def startMove (demand : Bool) (page : Nat) (dest : TierState) (frame race : Nat) (s : State) : State :=
  let e := tierOf s page
  let hold := if e.state != .flash && e.race != race then [HoldEntry.page page] else []
  let s := { s with store := { s.store with moves := s.store.moves ++ [{ page, src := e.state, dest, frame, race, left := e.race }] }
                    net := { s.net with holds := s.net.holds ++ hold } }
  let s := updTier page (fun e => { e with state := .moving, race }) s
  if e.state != .flash then maintain race (.move page) s
  else if demand then { s with weir := { s.weir with flashQ := s.weir.flashQ ++ [(race, .fill page)] } }
  else maintain race (.fill page) s

/-- A move of the migrator's begun. -/
def beginMove (page : Nat) (dest : TierState) (frame race : Nat) (s : State) : State := startMove false page dest frame race s

/-- A move between races waits while the hold filters are full (R109). -/
def mayLeave (s : State) (page race : Nat) : Bool := (tierOf s page).race == race || s.net.holds.length < 256

/-- The clock hand of a race over a pool's resident pages, in StoreSt.hands. -/
def raceHand (pool race : Nat) : Nat := 1024 + 8 * pool + race

/-- The pages that an eviction inspects (R70): the next 16 unpinned resident ones under the race's clock hand. A page with a DAMAGED
sub-block is passed over: its next move is to PLAIN (R275). -/
def inspected (s : State) (pool race : Nat) : List (Nat × TierEntry) :=
  ((fromHand (Tbl.get 0 s.store.hands (raceHand pool race)) (resident s pool)).filter (fun e =>
    !isPinned e.2 && e.2.race == race && !s.store.damaged.any (fun d => d.1 == e.1))).take 16

/-- R70: an inspected page is demoted, and the hand moves past those inspected. -/
def demandEvict (pool race page : Nat) (s : State) : State :=
  let next := (((inspected s pool race).map (·.1)).getLastD 0) + 1
  beginMove page .flash 0 race { s with store := { s.store with hands := Tbl.put s.store.hands (raceHand pool race) next } }

/-- What becomes of a page that is to be PLAIN: its move has begun; it waits for a frame; or every page of its pool is pinned. -/
inductive FillStart where
  | begun (s : State)
  | waits (s : State)
  | pinned

/-- The races of a pool from one on, in the order of its list (R63). -/
def racesFrom (s : State) (pool race : Nat) : List Nat :=
  let rs := poolRaces s pool
  rs.filter (race ≤ ·) ++ rs.filter (· < race)

/-- The page takes a frame of a race: its move begins, or waits while the hold filters are full (R109). -/
def takeFrame (demand : Bool) (page race frame : Nat) (s : State) : FillStart :=
  if (tierOf s page).state == .flash || mayLeave s page race then .begun (startMove demand page .plain frame race s) else .waits s

/-- The page takes the place of the inspected page of lowest COUNT of a race: that is demoted, and its frame, where it has a whole one, is the
fill's once it has moved (R70). -/
def evictFor (demand : Bool) (page pool race : Nat) (s : State) : FillStart :=
  match lowestCount (inspected s pool race) with
  | none => .waits s
  | some x =>
    let s := demandEvict pool race x.1 s
    if x.2.state == .plain then takeFrame demand page race x.2.frame s else .waits s

/-- Where a page is placed among some races, with the frame if it is free: in the first, where a frame is free or a page can be evicted; else in a
frame that is free in a later one (R63). Where none is free there, a page of the next race that has one to evict gives way (DESIGN CHOICE, log
entry 72). -/
def findPlace (s : State) (pool : Nat) : List Nat → Option (Nat × Option Nat)
  | [] => none
  | n :: rest =>
    let free := fun (m : Nat) => (freeFrame s pool m).map (fun f => (m, some f))
    let evict := fun (m : Nat) => (lowestCount (inspected s pool m)).map (fun _ => (m, none))
    (((free n).or (evict n)).or (rest.findSome? free)).or (rest.findSome? evict)

/-- A page placed in one of some races, or left to wait; refused where every page of the pool is pinned (R70). -/
def placePage (demand : Bool) (page pool : Nat) (s : State) (races : List Nat) : FillStart :=
  match findPlace s pool races with
  | some (n, some f) => takeFrame demand page n f s
  | some (n, none) => evictFor demand page pool n s
  | none => if s.store.moves.any (fun m => pagePool s m.page == pool) || (resident s pool).any (fun e => !isPinned e.2) then .waits s else .pinned

/-- A FLASH or RIFFLE page to be brought to PLAIN (R63, R64, R70): from its preferred race on, or from the race that holds its granules. -/
def beginFill (demand : Bool) (page : Nat) (s : State) : FillStart :=
  let pool := pagePool s page
  let e := tierOf s page
  placePage demand page pool s (racesFrom s pool (if e.state == .flash then preferredRace s page else e.race))

/-- A page wanted in DRAM: brought to PLAIN now, or when a frame is free. -/
def bring (demand : Bool) (page : Nat) (s : State) : State :=
  match (tierOf s page).state with
  | .flash | .riffle =>
    match beginFill demand page s with
    | .begun s => s
    | .waits s => { s with store := { s.store with wanted := insertNat page s.store.wanted } }
    | .pinned => { s with store := { s.store with wanted := insertNat page s.store.wanted } }
  | _ => s

/-- A page taken out of a failing frame: to another frame of its pool, or demoted where the pool has none (R76). -/
def vacate (page : Nat) (s : State) : State :=
  let pool := pagePool s page
  let e := tierOf s page
  if e.state != .plain || isPinned e then s
  else match (racesFrom s pool e.race).findSome? (fun n => (freeFrame s pool n).map (fun f => (n, f))) with
    | some (n, f) => if mayLeave s page n then beginMove page .plain f n s else s
    | none => beginMove page .flash 0 e.race s

/-- Whether a page that waits for a frame is wanted by more than its pins (R65, R73). -/
def onDemand (s : State) (page : Nat) : Bool := !isPinned (tierOf s page) || s.weir.parked.any (fun q => q.1 == page)

/-- Pages that wait for a frame are tried again, and pages left in a failing frame (R70, R73, R76): a move has ended. -/
def retryWork (s : State) : State :=
  let ps := s.store.wanted
  let s := ps.foldl (fun s p => bring (onDemand s p) p s) { s with store := { s.store with wanted := [] } }
  let left := s.store.tier.filter (fun e => e.2.state == .plain && !isPinned e.2 && s.store.retired.contains e.2.frame)
  left.foldl (fun s e => vacate e.1 s) s

/-- R63: pages held outside their preferred race go back to it while a frame is free there; a pinned page stays in a failing frame (R76). -/
def returnAway (s : State) : State :=
  (s.store.tier.filter (fun e => e.2.away && e.2.state == .plain && !(isPinned e.2 && s.store.badFrames.contains e.2.frame))).foldl (fun s e =>
    let race := preferredRace s e.1
    match freeFrame s (pagePool s e.1) race with
    | some f => if mayLeave s e.1 race then beginMove e.1 .plain f race s else s
    | none => s) s

/-- A move has ended, or a place in the hold filters is free: what waited for either goes on (R63, R70, R109). -/
def goOn (s : State) : State := returnAway (retryWork s)

/-- Retired frames of a pool. -/
def retiredIn (s : State) (pool : Nat) : Nat :=
  (s.store.retired.filter (fun f => (poolSets s pool).any (fun c => (setFrames c).1 ≤ f && f < (setFrames c).1 + (setFrames c).2))).length

/-- The service alarm above 1 % of a pool (R76, Table 16-3). -/
def retirementAlarm (pool : Nat) (s : State) : State :=
  let n := retiredIn s pool
  let all := poolFrames s pool
  let l := if all < 100 * n then Level.alarm else Level.normal
  noteLevel (.retiredFrames (Fin.ofNat 1024 pool)) (Int.ofNat (if all == 0 then 0 else 100 * n / all)) l s

/-- One frame retired, and its pool's alarm (R76 steps 1 and 5). -/
def retire (pool frame : Nat) (s : State) : State :=
  retirementAlarm pool { s with store := { s.store with badFrames := removeNat frame s.store.badFrames, retired := insertNat frame s.store.retired } }

/-- A request as it parks, keeping the credit of the queue that it debited (R65). -/
def parkEntry (s : State) (r : Req) : QEntry :=
  { race := raceFor s r, party := r.party, tclass := r.tclass, station := stationIn s r.src, crossing := false, req := r }

/-- A request on a page's fill list (R65). -/
def park (page : Nat) (q : QEntry) (s : State) : State :=
  { s with weir := { s.weir with parked := s.weir.parked ++ [(page, q)] } }

def waitMoving (r : Req) (s : State) : State :=
  { s with weir := { s.weir with waitMove := s.weir.waitMove ++ [r] } }

/-- COUNT grows by one for a request of a party other than 15, saturating (R68). -/
def countAccess (page party : Nat) (s : State) : State :=
  if party == 15 then s else updTier page (fun e => { e with count := min 0xFFFF (e.count + 1) }) s

/-- Every tier page of a range counted as accessed by a party (R68). -/
def countRange (party off len : Nat) (s : State) : State := (pagesOf off len).foldl (fun s p => countAccess p party s) s

/-! ## Poison (R74, R75) -/

/-- POISONED of a page follows its lines. -/
def refreshPoisoned (page : Nat) (s : State) : State :=
  updTier page (fun e => { e with poisoned := s.store.poison.any (fun l => l / 1024 == page) }) s

def poisonLines (ls : List Nat) (s : State) : State :=
  let s := { s with store := { s.store with poison := insertAll ls s.store.poison } }
  (ls.map (· / 1024)).eraseDups.foldl (fun s p => refreshPoisoned p s) s

def clearPoison (ls : List Nat) (s : State) : State :=
  let s := { s with store := { s.store with poison := removeAll ls s.store.poison } }
  (ls.map (· / 1024)).eraseDups.foldl (fun s p => refreshPoisoned p s) s

/-- Whether a line of [off, off + len) is poisoned; when no blob copy verified, every partition but the device's reads as
poisoned (R341). -/
def isPoisoned (s : State) (off len : Nat) : Bool :=
  (linesOf off len).any (fun l => s.store.poison.contains l)
  || (s.map.lostKeys && poolOf s off != 0)

/-! ## Failing rows (R76) -/

/-- A pinned page in a failing frame: its party is told (R76 step 3). The STATUS of that entry is not stated. -/
def failingPinned (pool frame page : Nat) (s : State) : State :=
  let s := { s with store := { s.store with badFrames := insertNat frame s.store.badFrames } }
  let p := poolParty s pool
  if p == 15 then s
  else
    let (w, s) := takeWord (updPty p (fun p => { p with failingRow := true }) s)
    errorEntry p (field w 0 8) 1 (poolAddr s.node 0 (page * 65536)) 65536 s

/-- The page in a frame, or on its way into it. -/
def pageIn (s : State) (frame : Nat) : Option (Nat × TierEntry) :=
  match s.store.tier.find? (fun e => e.2.state == .plain && e.2.frame == frame) with
  | some x => some x
  | none => (s.store.moves.find? (fun m => m.dest == .plain && m.frame == frame)).map (fun m => (m.page, tierOf s m.page))

/-- One frame of a failing row retired, its page moved or demoted; a pinned page stays. An unpinned page that is moving into the frame is moved
on when that move ends, and granules in it go to other frames at once (log entry 17). -/
def retireFrame (pool frame : Nat) (s : State) : State :=
  match pageIn s frame with
  | some (page, e) => if isPinned e then failingPinned pool frame page s else vacate page (retire pool frame s)
  | none => retire pool frame s

/-- A failing row logged by its number and the frames that touch it retired; the list keeps 4,096 rows. -/
def failRowAt (n pool : Nat) (frames : List Nat) (s : State) : State :=
  let party := poolParty s pool
  let s := logEv 0x0501 sevWarning party 0 n party s
  let s := if s.nv.retiredRows.length < 4096 then { s with nv := { s.nv with retiredRows := s.nv.retiredRows ++ [(n, frames)] } } else s
  frames.foldl (fun s f => retireFrame pool f s) s

/-- A read found a line of a PLAIN page uncorrectable: its row is failing. Which row of its pseudo-channel that is, and which other frames touch
it, the spec does not state (log entry 72): the row's number is free, and the line's own frame is retired. -/
def failLine (line : Nat) (s : State) : State :=
  let e := tierOf s (line / 1024)
  match e.state, setOfFrame s e.frame with
  | .plain, some c =>
    if s.store.retired.contains e.frame || s.store.badFrames.contains e.frame then s
    else
      let (w, s) := takeWord s
      failRowAt (c.race + at' (channelIn c (line % 1024 * 64)) 3 + at' (field w 0 32) 9) (poolOf s (line * 64)) [e.frame] s
  | _, _ => s

/-- What ECC found: corrected lines are counted for the pool, uncorrectable ones poisoned, and their rows failing (R74, R76). -/
def applyEcc (off : Nat) (ecc : Ecc) (s : State) : State :=
  let pool := poolOf s off
  let s := { s with store := { s.store with
    correctedErr := Tbl.upd 0 s.store.correctedErr pool (· + ecc.corrected.length) } }
  ecc.uncorrectable.foldl (fun s l => failLine l s) (poisonLines ecc.uncorrectable s)

/-- The status a read or atomic of [off, off + len) ends with: UNCORRECTABLE when ECC fails in it, POISON on a poisoned
line, else OK (R74, R75). -/
def readStatus (s : State) (off len : Nat) (ecc : Ecc) : Status :=
  if (linesOf off len).any (fun l => s.store.poison.contains l) || (s.map.lostKeys && poolOf s off != 0) then .poison
  else if (linesOf off len).any (fun l => ecc.uncorrectable.contains l) then .uncorrectable
  else .ok

/-! ## Bytes -/

/-- The bytes of backed space. -/
def readMem (s : State) (off len : Nat) : Bytes := s.store.mem.readN off len

/-- A page's units marked DIRTY. -/
def markDirtyUnits (us : List Nat) (s : State) : State :=
  us.foldl (fun s u => updTier (u / 16) (fun e => { e with dirty := insertNat (u % 16) e.dirty }) s) s

/-- Mirror bits of a MIRROR set this node holds as primary: any write to its extents sets the bits of the pages it touches (R199). -/
def setMirrorBits (off len : Nat) (s : State) : State :=
  s.hw.mirrors.foldl (fun s m =>
    let mine := match findExtent s.hw.slice off len with
      | some e => if e.owner == .set m.setId then pagesOf off len else []
      | none => []
    if mine.isEmpty then s
    else
      let add := fun (x : MirrorSt) => if x.primary then { x with bits := insertAll mine x.bits } else x
      let ms := Tbl.upd ({} : MirrorSt) s.sluice.mirrors m.index add
      { s with sluice := { s.sluice with mirrors := ms } }) s

/-- Bytes written to backed space: the units become DIRTY and mirror bits are set. -/
def writeMem (off : Nat) (data : Bytes) (s : State) : State :=
  let s := { s with store := { s.store with mem := s.store.mem.writeN off data } }
  setMirrorBits off data.length (markDirtyUnits (unitsOf off data.length) s)

/-- Whether [off, off + len) covers the whole of line l. -/
def coversLine (off len l : Nat) : Bool := off ≤ l * 64 && l * 64 + 64 ≤ off + len

/-- The lines of a write that are stored: those that are not poisoned, and those it covers whole (R75). -/
def storedLines (s : State) (off len : Nat) : List Nat :=
  if s.map.lostKeys && poolOf s off != 0 then []
  else (linesOf off len).filter (fun l => !s.store.poison.contains l || coversLine off len l)

/-- A write under R75, line by line: a whole line clears poison and is stored; part of a poisoned line is not stored and the
write completes with POISON. -/
def writeLines (off : Nat) (data : Bytes) (s : State) : Status × State :=
  let len := data.length
  if s.map.lostKeys && poolOf s off != 0 then (.poison, s)
  else
    let bad := (linesOf off len).filter (fun l => s.store.poison.contains l && !coversLine off len l)
    let s := clearPoison ((linesOf off len).filter (coversLine off len)) s
    if bad.isEmpty then (.ok, writeMem off data s)
    else
      let s := (linesOf off len).foldl (fun s l =>
        if bad.contains l then s
        else
          let lo := max off (l * 64)
          let hi := min (off + len) (l * 64 + 64)
          writeMem lo ((data.drop (lo - off)).take (hi - lo)) s) s
      (.poison, s)

/-! ## DURABLE writes (R78 to R80) -/

/-- What becomes of a DURABLE write on its units. -/
inductive DurFate where
  | now | parkShare | through
  deriving DecidableEq, Repr

def durFate (s : State) (party : Nat) (us : List Nat) : DurFate :=
  if writeThrough s party then .through
  else
    let clean := us.filter (fun u => !(Tbl.find s.store.charged u).isSome)
    if shareUnits s party < dirtyUnits s party + clean.length && !clean.isEmpty then .parkShare else .now

/-- The durable page map's bits set for the pages of a DURABLE write (R79). -/
def setDurMap (off len : Nat) (s : State) : State :=
  { s with nv := { s.nv with durMap := insertAll (pagesOf off len) s.nv.durMap } }

/-- Units marked durable-dirty and charged to the party (R79); a unit already charged keeps its charge. -/
def markDurable (party : Nat) (us : List Nat) (s : State) : State :=
  us.foldl (fun s u =>
    let s := updTier (u / 16) (fun e => { e with durable := insertNat (u % 16) e.durable }) s
    if (Tbl.find s.store.charged u).isSome then s
    else { s with store := { s.store with charged := Tbl.put s.store.charged u party } }) s

/-! ## Requests that need a page in DRAM (R65, R66, R70) -/

/-- A request that needs a PLAIN page waits while the page is brought there; where every page of the pool is pinned it completes with
FAULT_PERMISSION and is logged (R70). -/
def needPlain (page : Nat) (r : Req) (s : State) : State :=
  let q := parkEntry s r
  match beginFill true page s with
  | .begun s => park page q s
  | .waits s => park page q { s with store := { s.store with wanted := insertNat page s.store.wanted } }
  | .pinned => complete r .faultPermission []
      (logEv 0x0504 sevWarning r.party (statusCode .faultPermission) 2 (poolAddr s.node 0 (page * 65536)) s)

/-- A request to a page that is MOVING: behind those that wait for its fill, or until it ends. -/
def needStill (page : Nat) (r : Req) (s : State) : State :=
  if s.weir.parked.any (fun q => q.1 == page) then park page (parkEntry s r) s else waitMoving r s

/-- What is performed on a page once it is in DRAM, and PLAIN for a write (R65, R66). -/
def onPage (r : Req) (k : State → State) (s : State) : State :=
  let page := tierPage (addrOffset r.addr)
  match (tierOf s page).state with
  | .plain => k s
  | .riffle => if isWriteOp r.op then needPlain page r s else k s
  | .flash => needPlain page r s
  | .moving => needStill page r s

end Sys2Proof.Machine
end

