-- ==== Sys2Proof/Machine/Coherence.lean ====
section
/-!
DEFINITION. Coherence at the home: the operations on bytes, the directory transitions of Table 05-6, snoops and their results
(R126 to R135), provisional reads (R136, R137), coherent domains and their takedown (R140 to R148).
-/
namespace Sys2Proof.Machine

open Sys2Proof

/-! ## The operations on bytes (R150 to R153, R180 to R182) -/

/-- Contribution element i of a REDUCE, widened to FP32 (R182). -/
def reduceInput (opf : W64) (data : Bytes) (i : Nat) : Nat :=
  if flag opf 53 then bf16ToFp32 (ofBytes ((data.drop (2 * i)).take 2)) else ofBytes ((data.drop (4 * i)).take 4)

/-- The bytes a REDUCE leaves. -/
def reduceBytes (opf : W64) (old data : Bytes) : Bytes :=
  (List.range (old.length / 4)).flatMap (fun i =>
    toBytes (reduceElem (field opf 54 2) (ofBytes ((old.drop (4 * i)).take 4)) (reduceInput opf data i)) 4)

/-- The lines of a provisional read. -/
def ptagLines (p : PTagUse) : List Nat :=
  match p.req with
  | some r => linesOf (addrOffset r.addr) r.len
  | none => [p.line]

/-- A write or atomic to a line marks the provisional reads of the line as overtaken (R136). -/
def touchLines (off len : Nat) (s : State) : State :=
  let hit := fun (p : PTagUse) => (linesOf off len).any (fun l => (ptagLines p).contains l)
  { s with net := { s.net with ptags := s.net.ptags.map (fun p => if hit p then { p with dirtied := true } else p) } }

/-- The CODING and CLASS rules for atomics and reductions (R180, R182), beside alignment. -/
def targetOk (r : Req) : Bool :=
  match r.op with
  | .atomic | .confAtomic =>
    atomicPairOk (aop r.opf) (atype r.opf) && r.coding != .shoal && r.cls != .sluice && r.addr % atypeSize (atype r.opf) == 0
  | .reduce => (r.cls == .priv || r.cls == .coherent || r.cls == .any) && r.coding == .plain && r.addr % 4 == 0
      && field r.opf 54 2 != 3
  | _ => true

/-- The same of a request as its source translated it, before it is cut: its header does not carry the coding of its range. -/
def wholeOk (whole : Req) (rs : List Req) : Bool := rs.all (fun r => targetOk { r with addr := whole.va })

/-- One combined entry's origin and operands (Table 07-6). -/
def confOrigin (b : Bytes) : Pair := let w := ofBytes (b.take 2); ⟨bits w 4 10, bits w 0 4⟩

/-- The status of one combined entry's own checks (R187). -/
def confCheck (s : State) (r : Req) (o : Pair) : Status :=
  match localParty s o with
  | none => .refusedIsolation
  | some _ => (homeCheck s o r.op r.cls (addrOffset r.addr) r.len).getD .ok

/-- The entries of a CONF_ATOMIC performed in listed order: the 16-byte results, and the element they leave (R188). -/
def confEntries (s : State) (r : Req) : List Bytes → Nat → Bytes × Nat
  | [], old => ([], old)
  | b :: t, old =>
    let st := confCheck s r (confOrigin b)
    let n := atypeSize (atype r.opf)
    let a := ofBytes ((b.drop 8).take n)
    let c := ofBytes ((b.drop 16).take n)
    let new := if st == .ok then atomicNew (aop r.opf) (atype r.opf) old a c else old
    let res := toBytes (statusCode st) 8 ++ toBytes (if st == .ok && areturns r.opf then old else 0) 8
    let (rest, fin) := confEntries s r t new
    (res ++ rest, fin)

/-- A byte string cut into n pieces of k bytes. -/
def chop (k : Nat) : Nat → Bytes → List Bytes
  | 0, _ => []
  | n + 1, b => b.take k :: chop k n (b.drop k)

/-! ## Acquires (R162, R169) -/

def winNum (off : Nat) : Nat := bits off 46 6
def winOff (off : Nat) : Nat := bits off 0 46

def findWindow (s : State) (w : Nat) : Option SluiceWindow := s.hw.windows.find? (fun x => x.window == w)

/-- R169: an acquire of a source drops the read-buffered blocks of its windows; blocks being fetched serve no load that comes after it. -/
def dropBuffers (s : State) (origin : Pair) : State :=
  let mine := fun (window : Nat) => ((findWindow s window).map (fun w => w.users.contains origin)).getD false
  { s with sluice := { s.sluice with
    bufs := s.sluice.bufs.filter (fun b => !mine b.window)
    fetches := s.sluice.fetches.map (fun f => if mine f.window then { f with stale := true } else f) } }

/-- The sources of a request: its origin, or those of its entries (R187). -/
def originsOf (r : Req) : List Pair :=
  if r.op == .confRead then (chop 8 (field r.opf 51 5 + 1) r.data).map confOrigin
  else if r.op == .confAtomic then (chop 32 (field r.opf 44 5 + 1) r.data).map confOrigin
  else [r.origin]

/-- Whether two requests have a source in common. -/
def sameSource (a b : Req) : Bool := (originsOf a).any ((originsOf b).contains ·)

/-- An acquire whose value is here, for each of its sources. -/
def acquired (r : Req) (s : State) : State := if opAcquire r.opf then (originsOf r).foldl dropBuffers s else s

/-! ## Operations on backed space -/

/-- Bytes written under R75: the status and the state, provisional reads overtaken. A DURABLE write marks the units that it stores to (R79);
in write-through it is performed with its unit's program, which leaves the unit clean (R80). -/
def storeBytes (r : Req) (off : Nat) (data : Bytes) (s : State) : Status × State :=
  let units := ((storedLines s off data.length).map (· / 64)).eraseDups
  let (st, s) := writeLines off data (touchLines off data.length s)
  let s := if r.bad.isEmpty then s
    else poisonLines ((r.bad.filter (fun g => g / 4096 == r.va / 4096)).map (fun g => lineOf (off / 4096 * 4096 + g % 4096))) s
  let s := if r.durable then
      let s := setDurMap off data.length s
      if writeThrough s r.party then units.foldl (fun s u => cleanUnit u s) s
      else markDurable r.party units s
    else s
  (st, s)

/-- One operation on backed space, all checks past: its status, its response data, and the state. -/
def doOp (r : Req) (ecc : Ecc) (s : State) : Status × Bytes × State :=
  let off := addrOffset r.addr
  match r.op with
  | .load | .rdShared | .rdOwn | .upgrade | .sluiceGet =>
    let st := readStatus s off r.len ecc
    let s := applyEcc off ecc s
    (st, readMem s off r.len, s)
  | .store | .wbDirty | .mcastStore =>
    let (st, s) := storeBytes r off r.data s
    (st, [], s)
  | .atomic =>
    let st := readStatus s off r.len ecc
    let s := applyEcc off ecc s
    if st != .ok then (st, [], s)
    else
      let old := ofBytes (readMem s off r.len)
      let a := ofBytes (r.data.take r.len)
      let b := ofBytes ((r.data.drop r.len).take r.len)
      let (st, s) := storeBytes r off (toBytes (atomicNew (aop r.opf) (atype r.opf) old a b) r.len) s
      (st, if areturns r.opf then toBytes old r.len else [], s)
  | .reduce =>
    let st := readStatus s off r.len ecc
    let s := applyEcc off ecc s
    if st != .ok then (st, [], s)
    else
      let (st, s) := storeBytes r off (reduceBytes r.opf (readMem s off r.len) r.data) s
      (st, [], s)
  | .confRead =>
    let st := readStatus s off r.len ecc
    let s := applyEcc off ecc s
    let n := field r.opf 51 5 + 1
    let each := (chop 8 n r.data).map (fun b => BitVec.ofNat 8 (statusCode (confCheck s r (confOrigin b))))
    (st, padTo 64 each ++ readMem s off r.len, s)
  | .confAtomic =>
    let st := readStatus s off r.len ecc
    let s := applyEcc off ecc s
    if st != .ok then (st, [], s)
    else
      let old := ofBytes (readMem s off r.len)
      let (res, new) := confEntries s r (chop 32 (field r.opf 44 5 + 1) r.data) old
      let (st, s) := storeBytes r off (toBytes new r.len) s
      (st, res, s)
  | _ => (.ok, [], s)

/-- Read data with the owners' copies that snoops returned put over memory's (R133: KEPT_DATA goes to the requester). -/
def overlay (off len : Nat) (data : Bytes) : List (Nat × Option Bytes) → Bytes
  | [] => data
  | (l, some d) :: t =>
    let lo := max off (l * 64)
    let hi := min (off + len) (l * 64 + 64)
    overlay off len (data.take (lo - off) ++ (d.drop (lo - l * 64)).take (hi - lo) ++ data.drop (hi - off)) t
  | (_, none) :: t => overlay off len data t

/-- The operation performed and its completion sent (R156). With its value here, an acquire drops its sources' read-buffered blocks (R169). -/
def doComplete (r : Req) (ecc : Ecc) (s : State) : State :=
  let (st, data, s) := doOp r ecc s
  let s := acquired r s
  let off := addrOffset r.addr
  complete r st (if r.op == .load then overlay off r.len data r.seen
    else if r.op == .confRead then data.take 64 ++ overlay off r.len (data.drop 64) r.seen else data) s

/-! ## The hot-line cache (R18) -/

def popcount (n : Nat) : Nat := ((List.range 16).filter (bit n)).length

/-- Whether the party's ways hold the line. -/
def hotHit (s : State) (party line : Nat) : Bool := s.coh.hot.contains (line, party)

/-- Sets of a race's hot-line cache: 1,024 of 16 ways for each MiB of its region, 6 MiB where the image gives no split (R17). -/
def hotSets (s : State) : Nat := 1024 * (if s.hw.settings.basinCb == 0 then 6 else s.hw.settings.basinHot)

/-- The line placed in the party's ways. Where its set is full, the least recently used line of the party gives way, the spec stating no
replacement (log entry 63). -/
def hotFill (party line : Nat) (s : State) : State :=
  let ways := popcount (partyRec s party).hotWays
  let set := fun (l : Nat) => (homeRace s (l * 64), Config.hotSet l % hotSets s)
  if party == 15 || ways == 0 || hotSets s == 0 then s
  else
    let rest := s.coh.hot.filter (fun x => x != (line, party))
    let same := rest.filter (fun x => x.2 == party && set x.1 == set line)
    let drop := if same.length < ways then [] else same.drop (ways - 1)
    { s with coh := { s.coh with hot := (line, party) :: rest.filter (fun x => !drop.contains x) } }

/-! ## Domains (R140, R141) -/

def shares (a b : List Pair) : Bool := a.any (fun p => b.contains p)

/-- One member list united with the groups it shares an agent with. -/
def unite (g : List Pair) (gs : List (List Pair)) : List (List Pair) :=
  (g ++ (gs.filter (shares g)).flatten).eraseDups :: gs.filter (fun x => !shares g x)

/-- The member lists of the COHERENT extents of a slice. -/
def coherentLists (sl : Slice) : List (List Pair) :=
  (sl.extents.filter (fun e => e.cls == .coherent)).map (extentMembers sl)

def groupsOf (s : State) : List (List Pair) := ((poolSlices s).flatMap coherentLists).foldl (fun gs g => unite g gs) []

/-- The DOMAIN number: the smallest AGENT number (R140). -/
def domainNum (g : List Pair) : Nat := (g.map agentNum).foldl min (agentNum (g.headD ⟨1023, 15⟩))

/-- Whether this node homes or serves a group of agents (R141). -/
def concerns (s : State) (g : List Pair) : Bool :=
  g.any (fun p => p.node == s.node) || (coherentLists s.hw.slice).any (shares g)

/-- The least served of the states of the parts of a merged domain (R140). -/
def leastServed (ds : List Domain) : DomState :=
  if ds.any (fun d => d.state == .falling) then .falling
  else if ds.isEmpty || ds.any (fun d => d.state == .joining) then .joining else .up

def findDomain (s : State) (num : Nat) : Option Domain := s.coh.domains.find? (fun d => d.num == num)

def domainOfAgent (s : State) (p : Pair) : Option Domain := s.coh.domains.find? (fun d => d.agents.contains p)

def updDomain (num : Nat) (f : Domain → Domain) (s : State) : State :=
  { s with coh := { s.coh with domains := s.coh.domains.map (fun d => if d.num == num then f d else d) } }

/-- The domain of a COHERENT extent. -/
def extentDomain (s : State) (sl : Slice) (e : Extent) : Option Domain :=
  if e.cls == .coherent then (extentMembers sl e).findSome? (domainOfAgent s) else none

/-- An extent is fenced in every state of its domain but UP (R141). -/
def fenced (s : State) (sl : Slice) (e : Extent) : Bool :=
  e.cls == .coherent && (match extentDomain s sl e with
    | some d => d.state != .up
    | none => true)

/-- The fences on the cached extents follow the states of their domains (R141). -/
def refence (s : State) : State :=
  let again := fun (x : ExtentEntry) => match x.extent with
    | some e => { x with fenced := fenced s s.hw.slice e }
    | none => x
  { s with net := { s.net with ecache := s.net.ecache.map again } }

/-- The domains computed again over the pool map; merged domains keep the JOINs of their parts, and a domain that was not held before
counts the local agents that have joined and stay joined (R140, R148; log entry 57). -/
def recompute (s : State) : State :=
  let mk := fun (g : List Pair) =>
    let parts := s.coh.domains.filter (fun d => shares d.agents g)
    ({ num := domainNum g, agents := g, state := leastServed parts
       joins := if parts.isEmpty then g.filter (fun p => s.coh.joined.contains p) else (parts.flatMap (·.joins)).eraseDups } : Domain)
  refence { s with coh := { s.coh with domains := ((groupsOf s).filter (concerns s)).map mk } }

/-- Whether an offset of this node lies in a fenced extent. -/
def fencedAt (s : State) (off : Nat) : Bool :=
  match findExtent s.hw.slice off 1 with
  | some e => fenced s s.hw.slice e
  | none => false

/-- Whether an address of the pool lies in a fenced extent, of this node or of another one of the pool map (R141). -/
def fencedPool (s : State) (addr : Nat) : Bool :=
  addrSpace addr == 0 && (match (poolSlices s).find? (fun sl => sl.node == addrNode addr) with
    | some sl => match findExtent sl (addrOffset addr) 1 with
      | some e => e.cls == .coherent && (fenced s sl e)
      | none => false
    | none => false)

/-- The nodes that home or serve a domain (R142). -/
def domainNodes (s : State) (d : Domain) : List Nat :=
  ((d.agents.map (·.node)) ++ ((poolSlices s).filter (fun sl => (coherentLists sl).any (shares d.agents))).map (·.node)).eraseDups

/-- Notices queued for the other nodes of a domain (R142, R148). -/
def addNotices (d : Domain) (agent : Pair) (join : Bool) (s : State) : State :=
  let ns := (domainNodes s d).filter (fun n => n != s.node)
  { s with coh := { s.coh with notices := s.coh.notices ++ ns.map (fun n => ⟨n, d.num, agent, join, false⟩) } }

/-- A DOMAIN_NOTICE on its way to a node of the domain (Table 07-3). -/
def sendNotice (n : Notice) (s : State) : State :=
  let opf := at' n.domain 42 + at' (agentNum n.agent) 28 + at' (b2n n.join) 27
  let r : Req := { op := .domainNotice, addr := poolAddr n.dest 0 0, len := 1, origin := ⟨s.node, 15⟩, party := 15
                   cls := .any, gen := s.hw.compGen, opf := BitVec.ofNat 64 opf }
  match routePort s 15 r.addr with
  | some p => sendOn p r s
  | none => s

/-- Every unaccepted notice of a domain sent. -/
def sendNotices (s : State) : State :=
  (s.coh.notices.filter (fun n => !n.accepted)).foldl (fun s n => sendNotice n s) s

/-- A local address window in which a domain's extents of this node lie. -/
def inDomain (s : State) (d : Domain) (off : Nat) : Bool :=
  match findExtent s.hw.slice off 1 with
  | some e => e.cls == .coherent && shares (extentMembers s.hw.slice e) d.agents
  | none => false

/-- Whether a request addresses the domain's extents on this node. -/
def reqInDomain (s : State) (d : Domain) (r : Req) : Bool :=
  addrNode r.addr == s.node && addrSpace r.addr == 0 && inDomain s d (addrOffset r.addr)

/-- CONF entry placed on the link of a PTAG: 1 CONFIRM, 2 CANCEL (Table 04-5). -/
def confEntry (p : PTagUse) (action : Nat) (s : State) : State :=
  updLink (if (upLinks s p.port).contains p.link then p.link else ((upLinks s p.port)[0]?).getD p.link)
    (fun l => { l with confs := l.confs ++ [(action, p.ptag)] }) s

/-- An accepted request whose data still arrives, as a whole; its data then goes nowhere. -/
def wholeOf (x : RxItem) : Option Req := (x.reqs.head?).map (fun r => { r with part := 0, join := none })

/-- R144 steps 1 to 3 and R146: the domain falls. Fences are set, accepted requests not yet performed and the requests of abandoned
transactions complete with DOMAIN_DOWN, unresolved PTAGs are cancelled, and the local parties' windows tell of it. Requests to other extents
that waited for a directory way are performed again from the start, since ways are released (R125). -/
def fallDomain (num cause : Nat) (s : State) : State :=
  match findDomain s num with
  | none => s
  | some d =>
    let s := updDomain num (fun d => { d with state := .falling, cause, joins := [] }) s
    let mine := reqInDomain s d
    let queued := (s.weir.queue.flatMap QEntry.all).filter mine
    let parked := (s.weir.parked.filter (fun q => mine q.2.req)).map (·.2.req)
    let lineIn := fun (l : Nat) => inDomain s d (l * 64)
    let open_ := (s.coh.txns.filter (fun t => lineIn t.line)).filterMap (·.req)
    let evs := (s.coh.txns.filter (fun t => lineIn t.line)).filterMap (·.evictFor)
    let waysFreed := evs.filter (fun r => !mine r) ++ s.coh.waitWay.filter (fun r => !mine r)
    let waits := (s.coh.waits ++ s.coh.waitWay ++ s.weir.waitMove ++ s.store.parkedW).filter mine
    let combined := (s.net.combos.flatMap (fun c => c.entries ++ c.behind)).filter mine
    let hit := fun (x : RxItem) => x.isReq && x.reqs.any mine
    let arriving := (s.net.links.flatMap (fun l => l.2.rx.filter hit)).filterMap wholeOf
    let deaf := fun (k : Link) => { k with rx := k.rx.map (fun x => if hit x then { x with reqs := [] } else x) }
    let prov := s.net.ptags.filter (fun p => lineIn p.line && p.answered && !p.resolved && p.port < 100)
    let ec := s.net.ecache.map (fun x => match x.extent with
      | some e => if e.cls == .coherent && shares (extentMembers s.hw.slice e) d.agents then { x with fenced := true } else x
      | none => x)
    let keepT := s.coh.txns.filter (fun t => !lineIn t.line)
    let s := { s with
      weir := { s.weir with queue := queueWithout mine s.weir.queue
                            parked := s.weir.parked.filter (fun q => !mine q.2.req), waitMove := s.weir.waitMove.filter (fun r => !mine r) }
      store := { s.store with parkedW := s.store.parkedW.filter (fun r => !mine r) }
      net := { s.net with ecache := ec, links := Tbl.mapVal deaf s.net.links
                          combos := (s.net.combos.filter (fun c => !mine c.head)).map (fun c =>
                            { c with behind := c.behind.filter (fun r => !mine r) })
                          ptags := s.net.ptags.map (fun p =>
                            if lineIn p.line && p.answered then
                              { p with resolved := true, req := if p.port < 100 then none else p.req } else p)
                          holds := s.net.holds.filter (fun h => match h with | .line l => !lineIn l | .page _ => true) }
      coh := { s.coh with txns := keepT, snoops := s.coh.snoops.filter (fun x => !lineIn x.line)
                          waits := s.coh.waits.filter (fun r => !mine r), waitWay := []
                          dir := s.coh.dir.map (fun e => if lineIn e.line then { e with busy := false, pending := 0 } else e) } }
    let s := toPipeFront waysFreed s
    let s := prov.foldl (fun s p => confEntry p 2 s) s
    let s := (prov.filterMap (·.req)).foldl (fun s r => complete r .domainDown [] s) s
    let s := (queued ++ arriving ++ combined ++ parked ++ open_ ++ evs.filter mine ++ waits).foldl (fun s r => complete r .domainDown [] s) s
    (d.agents.filter (fun p => p.node == s.node)).foldl
      (fun s p => errorEntry p.party (statusCode .domainDown) 2 0 num s) s

/-- R148: every link of a dead partner's port leaves the port as R413 states, and is retrained every 1 s. -/
def removePort (p cause : Nat) (s : State) : State :=
  let mine := (portLinks (portEntry s p)).filter (fun l => (s.link l).inPort)
  let s := mine.foldl (fun s l =>
    logEv 0x0602 sevWarning 15 0 l cause (updLink l (fun x => { x with
      inPort := false, mode := .down, kept := [], tx := [], rx := [], answers := [], ansTags := [], confs := [], retryDue := true
      replayAt := none, discarding := false, retrainFails := 0 }) s)) s
  { s with net := { s.net with
    portDead := insertNat p s.net.portDead, portDown := insertNat p s.net.portDown
    tags := s.net.tags.map (fun t => if t.port == p then { t with holdover := some t.link } else t)
    ptags := s.net.ptags.filter (fun x => x.port != p) } }

/-- R142: an agent declared dead: logged, its domain's nodes told, and the domain moved to FALLING. -/
def declareDead (agent : Pair) (case_ : Nat) (s : State) : State :=
  let s := logEv 0x0601 sevAlarm agent.party 0 (agentNum agent) case_ s
  let s := { s with coh := { s.coh with joined := s.coh.joined.filter (· != agent) } }
  let s := if agent.node == s.node && 2 ≤ agent.party then
      match partnerPort s agent.party with
      | some p =>
        removePort p (if 4 ≤ case_ then 2 else 0) s
      | none => s
    else s
  match domainOfAgent s agent with
  | none => s
  | some d =>
    let s := sendNotices (addNotices d agent false s)
    if d.state == .up then fallDomain d.num case_ s else s

/-- R144 steps 4 and 5, R145: the walk. E_M with MODIFIED = 1 and O lines are poisoned, every entry of the domain freed, its
hot lines dropped, and the domain moves to JOINING. Requests that waited for a way are performed again (R125). -/
def endTakedown (num : Nat) (s : State) : State :=
  match findDomain s num with
  | none => s
  | some d =>
    if d.state != .falling then s
    else
      let mine := s.coh.dir.filter (fun e => inDomain s d (e.line * 64))
      let lost := (mine.filter (fun e => e.state == .o || (e.state == .em && e.modified))).map (·.line)
      let gone := fun (l : Nat) => inDomain s d (l * 64)
      let s := toPipeFront s.coh.waitWay
        { s with coh := { s.coh with dir := s.coh.dir.filter (fun e => !gone e.line), hot := s.coh.hot.filter (fun h => !gone h.1), waitWay := [] } }
      let s := poisonLines lost s
      let s := updDomain num (fun d => { d with state := .joining, joins := [] }) s
      logEv 0x0604 sevNotice 15 0 num (domStateCode .joining + at' d.cause 2 + at' lost.length 32) s

/-- R148: the domain goes from JOINING to UP once every agent has joined. -/
def tryUp (num : Nat) (s : State) : State :=
  match findDomain s num with
  | none => s
  | some d =>
    if d.state == .joining && d.agents.all (fun a => d.joins.contains a) then
      let s := updDomain num (fun d => { d with state := .up }) s
      let gone : ExtentEntry → Bool := fun x => match x.extent with
        | some e => e.cls == .coherent && shares (extentMembers s.hw.slice e) d.agents
        | none => false
      let ec := s.net.ecache.map (fun x => if gone x then { x with fenced := false } else x)
      logEv 0x0604 sevNotice 15 0 num (domStateCode .up + at' 9 2) { s with net := { s.net with ecache := ec } }
    else s

/-- A JOIN for an agent taken by this node. -/
def takeJoin (agent : Pair) (s : State) : State :=
  match domainOfAgent s agent with
  | none => s
  | some d =>
    if d.state == .joining then
      tryUp d.num (updDomain d.num (fun d => { d with joins := (d.joins ++ [agent]).eraseDups }) s)
    else s

/-- R148: a local agent joins its domain, and every other node of the domain is told. -/
def agentJoins (agent : Pair) (s : State) : State :=
  let s := { s with coh := { s.coh with joined := (s.coh.joined ++ [agent]).eraseDups } }
  match domainOfAgent s agent with
  | none => s
  | some d => takeJoin agent (sendNotices (addNotices d agent true s))

/-- Every domain whose JOINs are all held comes up. -/
def settleDomains (s : State) : State := (s.coh.domains.map (·.num)).foldl (fun s d => tryUp d s) s

/-! ## Snoops (R126 to R130) -/

/-- The strength order of R130: INV_DATA, KEPT_O_DATA, KEPT_DATA, KEPT_S, KEPT, NONE_WB, NONE. -/
def resultRank (res : Nat) : Nat :=
  match res with
  | 4 => 6 | 3 => 5 | 5 => 4 | 2 => 3 | 6 => 2 | 1 => 1 | _ => 0

/-- The (ASID, virtual address) pairs under which a local partner maps a pool address (R130). -/
def reverseOf (s : State) (party addr : Nat) : List (Nat × Nat) :=
  ((s.pty party).reverse.filter (fun e => e.pbase ≤ addr && addr < e.pbase + e.len)).map
    (fun e => (e.asid, e.vstart + (addr - e.pbase)))

/-- SNP_ID and RESULT of a SNP_RSP (Table 07-3). -/
def snpId (w : W64) : Nat := field w 40 16
def snpResult (w : W64) : Nat := field w 37 3

/-- The OP_FIELDS of a snoop or its result. -/
def snpFields (id res : Nat) : W64 := BitVec.ofNat 64 (at' (id % 65536) 40 + at' (res % 8) 37)

/-- A snoop sent to a local partner in its own address (R130). -/
def snoopPartner (port : Nat) (kind : Op) (id asid va : Nat) (s : State) : State :=
  sendOn port { op := kind, addr := va, va, len := 64, party := 15, origin := ⟨s.node, 15⟩, cls := .coherent, gen := s.hw.compGen
                asid := some asid, opf := snpFields id 0 } s

/-- A snoop handed to a local agent (R130): one for each of its mappings of the line, in its own address; a host's are
back-invalidates by device physical address. An agent with no mapping of the line holds no copy and counts as answering NONE. -/
def relaySnoop (home id : Nat) (kind : Op) (agent : Pair) (addr : Nat) (s : State) : Nat × State :=
  let maps := reverseOf s agent.party addr
  let relay : Relay := { home, snpId := id, kind, agent, addr, waits := maps.length }
  let relayed := { s with coh := { s.coh with relays := s.coh.relays ++ [relay] } }
  if maps.isEmpty then (0, s)
  else if agent.party < 2 then
    (maps.length, maps.foldl (fun s m =>
      emit (.biSnp agent.party id (m.2 / 64) kind)
        (updHost agent.party (fun h => { h with snoops := h.snoops ++ [(id, m.2 / 64, kind)] }) s)) relayed)
  else match partnerPort s agent.party with
    | none => (0, s)
    | some p => (maps.length, maps.foldl (fun s m => snoopPartner p kind id m.1 m.2 s) relayed)

/-- A snoop to an agent of another node, on its way to that node (R142). -/
def sendSnoop (id : Nat) (kind : Op) (agent : Pair) (line : Nat) (s : State) : State :=
  let r : Req := { op := kind, addr := poolAddr s.node 0 (line * 64), len := 64, origin := ⟨s.node, 15⟩, party := 15
                   cls := .coherent, gen := s.hw.compGen, opf := snpFields id 0 }
  match routePort s 15 (poolAddr agent.node 0 (line * 64)) with
  | some p => sendOn p r s
  | none => s

/-- Snoops of a kind sent for a line to members; members without any copy to ask count as answering NONE at once. -/
def snoopMembers (kind : Op) (line : Nat) (ms : List Pair) : List Nat → State → List (Nat × Nat) × State
  | [], s => ([], s)
  | i :: t, s =>
    let agent := nth ⟨0, 0⟩ ms i
    let id := s.net.nextSnp
    let s := { s with net := { s.net with nextSnp := (id + 1) % 65536 } }
    let (n, s) := if agent.node == s.node then relaySnoop s.node id kind agent (poolAddr s.node 0 (line * 64)) s
                  else (1, sendSnoop id kind agent line s)
    let (now, s) := if n == 0 then ([(i, 0)], s)
      else ([], { s with coh := { s.coh with snoops := s.coh.snoops ++ [{ id, line, member := i, agent }] } })
    let (more, s) := snoopMembers kind line ms t s
    (now ++ more, s)

/-! ## The directory (R124 to R126, R133) -/

def dirFind (s : State) (line : Nat) : Option DirEntry := s.coh.dir.find? (fun e => e.line == line)

def updDir (line : Nat) (f : DirEntry → DirEntry) (s : State) : State :=
  { s with coh := { s.coh with dir := s.coh.dir.map (fun e => if e.line == line then f e else e) } }

def freeDir (line : Nat) (s : State) : State :=
  { s with coh := { s.coh with dir := s.coh.dir.filter (fun e => e.line != line) } }

/-- The members of a line's extent, in index order. -/
def lineMembers (s : State) (line : Nat) : List Pair :=
  match findExtent s.hw.slice (line * 64) 64 with
  | some e => extentMembers s.hw.slice e
  | none => []

/-- The holders of an entry a snoop that must reach every sharer goes to (R126): the sharers, and with COARSE every member
of index 16 or above. -/
def sharersOf (s : State) (e : DirEntry) : List Nat :=
  e.sharers ++ (if e.coarse then (List.range (lineMembers s e.line).length).filter (16 ≤ ·) else [])

/-- Every holder of an entry. -/
def holdersOf (s : State) (e : DirEntry) : List Nat :=
  match e.state with
  | .s => sharersOf s e
  | .em => [e.owner]
  | .o => (e.owner :: sharersOf s e).eraseDups

/-- Whether the entry records a member as a holder. -/
def holds (e : DirEntry) (i : Nat) : Bool :=
  match e.state with
  | .s => e.sharers.contains i || (e.coarse && 16 ≤ i)
  | .em => e.owner == i
  | .o => e.owner == i || e.sharers.contains i || (e.coarse && 16 ≤ i)

/-- The ways of a line's frame pool in a slice: the pool's DIR_WAYS in a sealed image, all 16 in an open one (R125). -/
def dirWaysOf (s : State) (line : Nat) : List Nat :=
  if isSealed s then
    match s.hw.pools.find? (fun p => p.pool == poolOf s (line * 64)) with
    | some p => (List.range 16).filter (bit p.dirWays)
    | none => []
  else List.range 16

/-- The set a line falls into (R124). -/
def dirSetOf (line : Nat) : Nat := Config.dirSet line % 16384

/-- Where a new entry may go: a free way, a way to evict, or nowhere while every candidate is BUSY (R125). -/
inductive DirPlace where
  | free (way : Nat)
  | evict (e : DirEntry)
  | none
  deriving DecidableEq, Repr

def dirPlace (s : State) (line : Nat) : DirPlace :=
  let slice := homeRace s (line * 64)
  let inSet := s.coh.dir.filter (fun e => e.slice == slice && dirSetOf e.line == dirSetOf line)
  let ways := dirWaysOf s line
  match ways.find? (fun w => !inSet.any (fun e => e.way == w)) with
  | some w => .free w
  | none =>
    let ptr := Tbl.get 0 s.coh.pointers (slice * 16384 + dirSetOf line)
    let order := ways.filter (ptr ≤ ·) ++ ways.filter (· < ptr)
    match order.findSome? (fun w => inSet.find? (fun e => e.way == w && !e.busy)) with
    | some e => .evict e
    | none => .none

/-- A grant recorded: the entry of a line that had none, in a free way. -/
def addDir (line way : Nat) (st : DirState) (modified : Bool) (owner : Nat) (sharers : List Nat) (coarse : Bool) (s : State) :
    State :=
  let (single, setId) := match findExtent s.hw.slice (line * 64) 64 with
    | some e => match e.owner with
      | .single _ => (true, 0)
      | .set id => (false, id)
    | none => (true, 0)
  { s with coh := { s.coh with dir := s.coh.dir ++
      [{ line, slice := homeRace s (line * 64), way, state := st, modified, owner, sharers, coarse, single, setId }] } }

/-- SHARERS with a member added: members 0 to 15 precisely, others by COARSE (R126). -/
def addSharer (e : DirEntry) (i : Nat) : DirEntry :=
  if i < 16 then { e with sharers := insertNat i e.sharers } else { e with coarse := true }

/-- A host is an agent of party 0 or 1. -/
def isHostAgent (p : Pair) : Bool := p.party < 2

/-- What RD_SHARED and RD_OWN grant on a line that has no entry (Table 05-6, state I). -/
def grantFresh (r : Req) (i way line : Nat) (s : State) : State :=
  if r.op == .rdShared && isHostAgent r.origin then
    addDir line way .s false 0 (if i < 16 then [i] else []) (16 ≤ i) s
  else addDir line way .em (r.op != .rdShared) i [] false s

/-- An entry set BUSY with a transaction whose snoops are outstanding (R134). -/
def openTxn (t : Txn) (pending : Nat) (s : State) : State :=
  let s := updDir t.line (fun e => { e with busy := true, pending }) s
  { s with coh := { s.coh with txns := s.coh.txns ++ [t] } }

/-- R135 steps 1 and 2: the line enters the hold filters, and every holder gets SNP_INV. -/
def evictEntry (e : DirEntry) (forReq : Option Req) (s : State) : State :=
  let s := { s with net := { s.net with holds := s.net.holds ++ [.line e.line] } }
  let hs := holdersOf s e
  let (now, s) := snoopMembers .snpInv e.line (lineMembers s e.line) hs s
  openTxn { line := e.line, req := none, evictFor := forReq, results := now } (hs.length - now.length) s

/-- R19: the directory entries of lines whose page is now held in another race go to that race's slice, each into a free way of its new set.
Where there is none, the entry is evicted and keeps its place until that ends (log entry 18); while the hold filters are full it waits there
(R109). -/
def relocate (s : State) : State :=
  let one := fun (s : State) (e : DirEntry) =>
    let race := homeRace s (e.line * 64)
    let used := (s.coh.dir.filter (fun x => x.slice == race && dirSetOf x.line == dirSetOf e.line)).map (·.way)
    match (dirWaysOf s e.line).find? (fun w => !used.contains w) with
    | some way => updDir e.line (fun e => { e with slice := race, way }) s
    | none => if e.busy || 256 ≤ s.net.holds.length then s else evictEntry e none s
  (s.coh.dir.filter (fun e => e.slice != homeRace s (e.line * 64) && (tierOf s (e.line / 1024)).state != .moving)).foldl one s

/-- The eviction of an entry for a request; the set's replacement pointer advances by one (R125). With a full filter (256 entries) the
request waits (R109). -/
def beginEvict (e : DirEntry) (r : Req) (s : State) : State :=
  if 256 ≤ s.net.holds.length then { s with coh := { s.coh with waitWay := s.coh.waitWay ++ [r] } }
  else
    let key := e.slice * 16384 + dirSetOf e.line
    let next := (Tbl.get 0 s.coh.pointers key + 1) % 16
    evictEntry e (some r) { s with coh := { s.coh with pointers := Tbl.put s.coh.pointers key next } }

/-- The caching requests that a transaction's completion grants on a line, with the data that goes to the requester: the
owner's data where a snoop returned it, else memory's, and its status (R75: a poisoned line grants nothing). -/
def lineData (s : State) (line : Nat) (ecc : Ecc) (got : Option Bytes) : Status × Bytes :=
  match got with
  | some d => (.ok, d)
  | none => (readStatus s (line * 64) 64 ecc, readMem s (line * 64) 64)

/-- A protocol violation by a partner (Table 05-8), whose request then completes without effect; a host's request is never
one (R133). -/
def violation (r : Req) (s : State) : State :=
  if isHostAgent r.origin then s else declareDead r.origin 5 s

/-- RD_SHARED or RD_OWN on a line without an entry: data from memory, and an entry in a way of its own. -/
def cohFresh (r : Req) (i line : Nat) (ecc : Ecc) (s : State) : State :=
  let (st, d) := lineData s line ecc none
  if st != .ok then complete r st [] (applyEcc (line * 64) ecc s)
  else match dirPlace s line with
    | .free w => complete r .ok d (grantFresh r i w line (applyEcc (line * 64) ecc s))
    | .evict e => beginEvict e r s
    | .none => { s with coh := { s.coh with waitWay := s.coh.waitWay ++ [r] } }

/-- A transaction begun with snoops of a kind to members; with nobody left to ask it is complete at once through `fin`. -/
def withSnoops (r : Req) (kind : Op) (line : Nat) (ms : List Nat) (held : Bool) (fin : Txn → State → State) (s : State) :
    State :=
  let (now, s) := snoopMembers kind line (lineMembers s line) ms s
  let t : Txn := { line, req := some r, results := now, held }
  if now.length == ms.length then fin t s else openTxn t (ms.length - now.length) s

/-- The RESULT of a member in a transaction; NONE if it gave none. -/
def resultOf (t : Txn) (i : Nat) : Nat := ((t.results.find? (fun x => x.1 == i)).map (·.2)).getD 0

/-- The end of a transaction's snoops: Table 05-6's last columns, with the owner that answered NONE or NONE_WB treated as
holding no copy. The entry is as the request found it; `k` goes on with an access of several lines. -/
def finishTxn (k : Req → State → State) (t : Txn) (ecc : Ecc) (s : State) : State :=
  let line := t.line
  match t.req, dirFind s line with
  | some r, some e =>
    let i := (memberIndex (lineMembers s line) r.origin).getD 0
    let gone := e.state == .s && e.sharers.isEmpty && !e.coarse      -- its owner wrote the line back or dropped it meanwhile (R134)
    let own := if e.state == .s then 0 else resultOf t e.owner
    let s := updDir line (fun e => { e with busy := false, pending := 0 }) s
    match r.op with
    | .rdShared =>
      if own == 3 then complete r .ok (t.data.getD [])
          (updDir line (fun e => addSharer { e with state := .o, modified := false } i) s)
      else
        let (st, d) := lineData s line ecc none
        let s := applyEcc (line * 64) ecc s
        if st != .ok then complete r st [] (if gone then freeDir line s else s)
        else if own == 2 || own == 6 then complete r .ok d
          (updDir line (fun e => addSharer (addSharer { e with state := .s, modified := false } e.owner) i) s)
        else if e.sharers.isEmpty && !e.coarse then
          let w := e.way
          complete r .ok d (grantFresh r i w line (freeDir line s))
        else complete r .ok d (updDir line (fun e => addSharer { e with state := .s } i) s)
    | .rdOwn | .upgrade =>
      let s := match t.data with
        | some d => (writeLines (line * 64) d s).2
        | none => s
      let (st, d) := lineData s line ecc t.data
      let s := if t.data.isNone && !t.held then applyEcc (line * 64) ecc s else s
      if st != .ok && !t.held then complete r st [] s
      else complete r .ok (if t.held && r.op == .upgrade then [] else d)
        (updDir line (fun e => { e with state := .em, modified := true, owner := i, sharers := [], coarse := false }) s)
    | .load | .confRead => k { r with seen := r.seen ++ [(line, t.data)] } (if gone then freeDir line s else s)
    | _ =>
      let s := match t.data with
        | some d => (writeLines (line * 64) d s).2
        | none => s
      k r (freeDir line s)
  | _, _ => s

/-- The owner no longer holds the line: the entry is free, or, while a transaction is open on it, records no holder (R134). -/
def dropOwner (line : Nat) (s : State) : State :=
  match dirFind s line with
  | some e => if e.busy then updDir line (fun e => { e with state := .s, owner := 0, modified := false, sharers := [], coarse := false }) s
              else freeDir line s
  | none => s

/-- A request that waits on a BUSY line: before those that came to the home after it (R134). -/
def waitLine (r : Req) (s : State) : State :=
  let after := fun (q : Req) => r.id < q.id
  { s with coh := { s.coh with waits := s.coh.waits.takeWhile (fun q => !after q) ++ [r] ++ s.coh.waits.dropWhile (fun q => !after q) } }

/-- One request to one COHERENT line at its home (R133, R134). `waited` marks a request that waited on the line. -/
def cohLine (k : Req → State → State) (r : Req) (line : Nat) (ecc : Ecc) (waited : Bool) (s : State) : State :=
  let ms := lineMembers s line
  let idx := memberIndex ms r.origin
  let i := idx.getD 0
  let entry := dirFind s line
  let mine := match entry with | some e => holds e i && idx.isSome | none => false
  let owns := match entry with | some e => e.state != .s && e.owner == i && idx.isSome | none => false
  let busy := match entry with | some e => e.busy | none => false
  -- stale evictions and MARK_DIRTYs are discarded whether or not a transaction is open (R129, R134)
  if r.op == .evict && !mine then complete r .ok [] s
  else if r.op == .markDirty then
    match entry with
    | some e => if e.state == .em && e.owner == i then complete r .ok [] (updDir line (fun e => { e with modified := true }) s)
                else complete r .ok [] s
    | none => complete r .ok [] s
  else if r.op == .wbDirty && owns then
    match entry with
    | none => s
    | some e =>
      let (st, _, s) := doOp r ecc s
      let next := match e.state with
        | .o => if e.sharers.isEmpty && !e.coarse then none else some { e with state := .s, owner := 0, modified := false }
        | _ => none
      -- a host's MemWr with MetaValue Shared keeps the line in S (Table 05-5), marked by PROV_OK
      let next := if isHostAgent r.origin && r.provOk then
          some (addSharer { (next.getD { e with sharers := [] }) with state := .s, modified := false } i) else next
      let s := match next with
        | some e' => updDir line (fun _ => { e' with busy := e.busy, pending := e.pending }) s
        | none => dropOwner line s
      -- a write-back that crosses a snoop to its sender stands as the snoop's data (R134)
      let crosses := fun (x : Snoop) => x.line == line && x.agent == r.origin
      let s := { s with coh := { s.coh with
        txns := s.coh.txns.map (fun t => if t.line == line && s.coh.snoops.any crosses then { t with data := some r.data } else t)
        snoops := s.coh.snoops.map (fun x => if crosses x then { x with wbGot := true } else x) } }
      complete r st [] s
  else if r.op == .evict then
    match entry with
    | none => complete r .ok [] s
    | some e =>
      if e.state != .s && e.owner == i then
        if e.state == .o then complete r .ok [] (violation r s)
        else if e.modified && !isHostAgent r.origin then complete r .ok [] (violation r s)
        else complete r .ok [] (dropOwner line s)
      else
        let e' := { e with sharers := removeNat i e.sharers }
        if e.state == .s && e'.sharers.isEmpty && !e.coarse && !busy then complete r .ok [] (freeDir line s)
        else complete r .ok [] (updDir line (fun _ => e') s)
  else if busy then waitLine r s
  else
    match entry with
    | none =>
      match r.op with
      | .rdShared | .rdOwn => cohFresh r i line ecc s
      | .upgrade => if waited || isHostAgent r.origin then cohFresh { r with op := .rdOwn } i line ecc s
                    else complete r .ok [] (violation r s)
      | .wbDirty => if isHostAgent r.origin then k { r with op := .store } s else complete r .ok [] (violation r s)
      | _ => doComplete r ecc s
    | some e =>
      let fin := fun t s => finishTxn k t ecc s
      let ownerAsks := e.state != .s && e.owner == i && idx.isSome
      match r.op with
      | .rdShared =>
        if e.state == .s then
          let (st, d) := lineData s line ecc none
          let s := applyEcc (line * 64) ecc s
          if st != .ok then complete r st [] s
          else complete r .ok d (updDir line (fun e => addSharer e i) s)
        else if ownerAsks then
          if isHostAgent r.origin && e.state == .em then cohFresh r i line ecc (freeDir line s)
          else complete r .ok [] (violation r s)
        else withSnoops r .snpData line [e.owner] false fin s
      | .rdOwn | .upgrade =>
        let held := r.op == .upgrade && mine
        if e.state == .em && ownerAsks then
          if isHostAgent r.origin then cohFresh { r with op := .rdOwn } i line ecc (freeDir line s)
          else complete r .ok [] (violation r s)
        else if e.state == .o && ownerAsks && r.op == .rdOwn then complete r .ok [] (violation r s)
        else withSnoops r .snpInv line ((holdersOf s e).filter (· != i)) held fin s
      | .load | .confRead =>
        if e.state == .s then k { r with seen := r.seen ++ [(line, none)] } s
        else withSnoops r .snpCur line [e.owner] false fin s
      | .wbDirty =>
        if isHostAgent r.origin then withSnoops { r with op := .store } .snpInv line ((holdersOf s e).filter (· != i)) false fin s
        else complete r .ok [] (violation r s)
      | _ => withSnoops r .snpInv line (holdersOf s e) false fin s

/-- The operation on lines without an entry, its page still in DRAM, PLAIN for a write (R66). A host's write with MetaValue Shared leaves the
line recorded S {host} (Table 05-5), marked by PROV_OK. -/
def doShared (r : Req) (ecc : Ecc) : State → State := onPage r (fun s =>
  if r.op == .store && r.provOk && isHostAgent r.origin then
    let line := addrOffset r.addr / 64
    let i := (memberIndex (lineMembers s line) r.origin).getD 0
    match dirPlace s line with
    | .free w => addDir line w .s false 0 (if i < 16 then [i] else []) (16 ≤ i) (doComplete r ecc s)
    | .evict e => beginEvict e r s
    | .none => { s with coh := { s.coh with waitWay := s.coh.waitWay ++ [r] } }
  else doComplete r ecc s)

/-- An access to a COHERENT range (R133): the lines that have an entry and were not yet snooped for it are taken one after
another, at most 65 of them, and then the operation is performed on all its bytes. -/
def cohAccess : Nat → Req → Ecc → Bool → State → State
  | 0, r, ecc, _, s => doShared r ecc s
  | n + 1, r, ecc, waited, s =>
    let off := addrOffset r.addr
    let todo := fun (l : Nat) => (dirFind s l).isSome && !(r.seen.any (fun x => x.1 == l))
    match (linesOf off r.len).find? todo with
    | some l => cohLine (fun r s => cohAccess n r ecc waited s) r l ecc waited s
    | none => if isCachingOp r.op then cohLine (fun r s => doShared r ecc s) r (off / 64) ecc waited s
              else doShared r ecc s

/-- An access to a COHERENT range with room for every line of 4,096 bytes. Where it waits, it goes on with the same result of ECC (R74). -/
def cohPerform (r : Req) (ecc : Ecc) (waited : Bool) (s : State) : State := cohAccess 66 { r with ecc } ecc waited s

/-- A request that waited in the directory goes on. -/
def resume (r : Req) (s : State) : State := cohPerform r r.ecc true s

end Sys2Proof.Machine
end

