-- ==== Sys2Proof/Machine/Translate.lean ====
section
/-!
DEFINITION. Contexts, range tables and translation (R50 to R59), the range cache and the extent cache (R55, R56, R107), and
pin references as the home takes them (R72, R73).
-/
namespace Sys2Proof.Machine

open Sys2Proof

/-! ## Range entries (Table 02-10, R53) -/

/-- A range entry as read from a table. -/
structure RangeRaw where
  vstart : Nat
  valid  : Bool
  cls    : Nat
  perm   : Nat
  coding : Nat
  pin    : Bool
  durable : Bool
  len    : Nat
  pbase  : Nat
  gen    : Nat
  deriving DecidableEq, Repr, Inhabited

def rangeRaw (w0 w1 w2 w3 : Nat) : RangeRaw :=
  { vstart := at' (bits w0 12 45) 12, valid := bit w0 11, cls := bits w0 8 3, perm := bits w0 5 3, coding := bits w0 3 2
    pin := bit w0 2, durable := bit w0 1, len := (bits w1 0 40 + 1) * 4096, pbase := at' (bits w2 12 52) 12
    gen := bits w3 0 32 }

/-- Entry i of the bank at a pool address. -/
def rangeAt (s : State) (base i : Nat) : RangeRaw :=
  let a := addrOffset base + 32 * i
  rangeRaw (s.store.mem.num a 8) (s.store.mem.num (a + 8) 8) (s.store.mem.num (a + 16) 8) (s.store.mem.num (a + 24) 8)

/-- The rules of R53, and every encoding marked invalid in Table 02-10. -/
def rangeFieldsOk (e : RangeRaw) : Bool :=
  let sp := addrSpace e.pbase
  e.cls ≤ 4 && e.coding ≤ 2
  && (if e.cls == 3 then sp == 1 && e.coding == 0
      else if sp == 2 then e.cls == 0 && e.coding == 0 && !e.pin && !e.durable
      else sp == 0)
  && (e.coding != 1 || e.cls == 0 || e.cls == 2)
  && (!e.durable || sp == 0)

/-- Whether an entry maps a virtual address; one that fails R53 is treated as not mapping (R58). -/
def rangeMaps (e : RangeRaw) (va : Nat) : Bool :=
  e.valid && rangeFieldsOk e && e.vstart ≤ va && va < e.vstart + e.len

/-- The context's table in force (R58). -/
def ctxOf (s : State) (party asid : Nat) : Option Ctx := Tbl.find (s.pty party).inForce asid

/-- The entries of a bank. -/
def rangeTable (s : State) (c : Ctx) : List RangeRaw := (List.range c.count).map (rangeAt s c.base)

/-! ## Translation (R54) -/

/-- What a look-up of one address gives. -/
inductive Look where
  | miss
  | unmapped
  | entry (e : RangeRaw)
  deriving DecidableEq, Repr

/-- One piece of a translated request. -/
structure Piece where
  addr : Nat
  va   : Nat
  len  : Nat
  cls  : RClass
  coding : Coding
  durable : Bool
  deriving DecidableEq, Repr, Inhabited

inductive Trans where
  | miss (va : Nat)
  | fault (st : Status) (offset : Nat)
  | pieces (ps : List Piece)
  deriving DecidableEq, Repr

/-- Whether a range entry's PERM holds what an operation needs (R54, R42): [2] atomic, [1] write, [0] read. -/
def rangePermOk (perm : Nat) (op : Op) : Bool :=
  match op with
  | .load | .rdShared | .confRead | .sluiceGet => bit perm 0
  | .store | .mcastStore | .markDirty | .wbDirty | .sluicePut => bit perm 1
  | .rdOwn | .upgrade => bit perm 0 && bit perm 1
  | .atomic | .confAtomic | .reduce => bit perm 2
  | _ => true

/-- The loop of R54 from address a to last, cut at range ends; `fuel` bounds the pieces, `deny` is the first offset without
permission. -/
def transLoop (look : Nat → Look) (op : Op) (first last : Nat) : Nat → Nat → List Piece → Option Nat → Trans
  | 0, _, _, _ => .fault .faultUnmapped 0
  | fuel + 1, a, ps, deny =>
    if last < a then
      match deny with
      | some d => .fault .faultPermission d
      | none => .pieces ps
    else match look a with
      | .miss => .miss a
      | .unmapped => .fault .faultUnmapped (a - first)
      | .entry e =>
        let cls := (classOf e.cls).getD .priv
        let coding := (codingOf e.coding).getD .plain
        let differs := match ps with
          | [] => false
          | p :: _ => p.cls != cls || p.coding != coding || p.durable != e.durable
        if differs then .fault .faultPermission (a - first)
        else
          let deny := if deny.isNone && !rangePermOk e.perm op then some (a - first) else deny
          let n := min last (e.vstart + e.len - 1) - a + 1
          let p : Piece := { addr := e.pbase + (a - e.vstart), va := a, len := n, cls, coding, durable := e.durable }
          transLoop look op first last fuel (a + n) (ps ++ [p]) deny

/-- R54 with a way of looking an address up. -/
def translateWith (look : Nat → Look) (valid : Bool) (va len : Nat) (op : Op) : Trans :=
  if !valid || len == 0 then .fault .faultUnmapped 0
  else transLoop look op va (va + len - 1) (len / 4096 + 3) va [] none

/-- A look-up by binary search of the bank in force; on a sorted table it is the one entry that maps the address. -/
def searchLook (s : State) (c : Ctx) (a : Nat) : Look :=
  match (rangeTable s c).find? (fun e => rangeMaps e a) with
  | some e => .entry e
  | none => .unmapped

/-- Translation of a request that waits out its misses: hosts, mills, courses and descriptors (R56). -/
def translate (s : State) (party asid va len : Nat) (op : Op) : Trans :=
  match ctxOf s party asid with
  | none => .fault .faultUnmapped 0
  | some c => translateWith (searchLook s c) true va len op

/-- Pieces cut at 4 KiB boundaries (R178). -/
def cutPiece (p : Piece) : List Piece :=
  let n := 4096 - p.addr % 4096
  if p.len ≤ n then [p]
  else { p with len := n } :: (List.range ((p.len - n + 4095) / 4096)).map (fun i =>
    { p with addr := p.addr + n + 4096 * i, va := p.va + n + 4096 * i, len := min 4096 (p.len - n - 4096 * i) })

def cutPieces (ps : List Piece) : List Piece := ps.flatMap cutPiece

/-- The requests of a whole request's pieces: one for each, joined where there are several (R178). -/
def pieceReqs (whole : Req) (ps : List Piece) : List Req :=
  let go := fun (i : Nat) (p : Piece) =>
    let off := p.va - whole.va
    ({ whole with addr := p.addr, va := p.va, len := p.len, cls := p.cls, coding := p.coding, durable := p.durable
                  data := if p.len == whole.len then whole.data else (whole.data.drop off).take p.len, part := i } : Req)
  (ps.zipIdx).map (fun x => go x.2 x.1)

/-- The pieces given a join of their own when there is more than one. -/
def joinPieces (whole : Req) (rs : List Req) (s : State) : List Req × State :=
  if rs.length ≤ 1 then (rs, s)
  else
    let id := s.weir.nextId
    let s := { s with weir := { s.weir with nextId := id + 1 }
                      net := { s.net with joins := s.net.joins ++ [{ id, total := rs.length, whole }] } }
    (rs.map (fun r => { r with join := some id }), s)

/-! ## The range cache (R55, R56) -/

def GiB : Nat := 1073741824

/-- Whether a cache entry decides an address of a context in a race. -/
def rcHit (race party asid va : Nat) (e : RangeEntry) : Bool :=
  e.race == race && e.party == party && e.asid == asid && e.lo ≤ va && va < e.hi

/-- The look-up of a link request in its race's range cache. -/
def cacheLook (s : State) (race party asid va : Nat) : Look :=
  match s.net.rcache.find? (rcHit race party asid va) with
  | none => .miss
  | some e =>
    if e.maps then .entry { vstart := e.lo, valid := true, cls := classCode e.cls, perm := e.perm
                            coding := (match e.coding with | .plain => 0 | .shoal => 1 | .riffle => 2)
                            pin := e.pin, durable := e.durable, len := e.hi - e.lo, pbase := e.pbase, gen := 0 }
    else .unmapped

/-- The entry a search fills: the range clipped to the address's 1 GiB region, or the unmapped interval between its
neighbours, clipped likewise (R55, R56). What the search reads is used as it stands, poisoned or not, the spec being silent (DESIGN CHOICE,
log entry 68). -/
def fillEntry (s : State) (race party asid va : Nat) : RangeEntry :=
  let lo0 := va / GiB * GiB
  let hi0 := lo0 + GiB
  let table := match ctxOf s party asid with
    | some c => rangeTable s c
    | none => []
  match table.find? (fun e => rangeMaps e va) with
  | some e =>
    let lo := max lo0 e.vstart
    { race, party, asid, region := va / GiB, lo, hi := min hi0 (e.vstart + e.len), maps := true
      pbase := e.pbase + (lo - e.vstart), cls := (classOf e.cls).getD .priv, coding := (codingOf e.coding).getD .plain
      perm := e.perm, pin := e.pin, durable := e.durable }
  | none =>
    let ok := table.filter (fun e => e.valid && rangeFieldsOk e)
    let lo := (ok.filter (fun e => e.vstart + e.len ≤ va)).foldl (fun a e => max a (e.vstart + e.len)) lo0
    let hi := (ok.filter (fun e => va < e.vstart)).foldl (fun a e => min a e.vstart) hi0
    { race, party, asid, region := va / GiB, lo, hi, maps := false }

/-- The number of ways a party may use in the range and extent caches (Table 04-13). -/
def cacheWaysOf (s : State) (party : Nat) : Nat :=
  if isSealed s then popcount (partyRec s party).cacheWays else 16

/-- An entry put in front of the cache, the least recently used of its set dropped when the ways are full (R55). -/
def rcInsert (e : RangeEntry) (s : State) : State :=
  let set := fun (x : RangeEntry) => (x.race, Config.rangeSet x.party x.asid x.region % 256)
  let clash := fun (x : RangeEntry) => x.race == e.race && x.party == e.party && x.asid == e.asid && x.lo == e.lo
  let rest := s.net.rcache.filter (fun x => !clash x)
  let same := rest.filter (fun x => (!isSealed s || x.party == e.party) && set x == set e)
  let drop := if same.length < cacheWaysOf s e.party then [] else same.drop (cacheWaysOf s e.party - 1)
  { s with net := { s.net with rcache := e :: rest.filter (fun x => !drop.contains x) } }

/-- A search's entry filled, its reads of the bank counted with the party's number as one access to its first page (R51, R68; log
entry 65). -/
def rangeFill (race party asid va : Nat) (s : State) : State :=
  let s := match ctxOf s party asid with
    | some c => countRange party (addrOffset c.base) 32 s
    | none => s
  rcInsert (fillEntry s race party asid va) s

/-- Translation by a race's range cache (R55), for a request that waits out its misses (R56): each one is searched and fills its entry. -/
def cachedLoop (race party asid va len : Nat) (op : Op) : Nat → State → Trans × State
  | 0, s => (translate s party asid va len op, s)
  | n + 1, s =>
    match translateWith (cacheLook s race party asid) (ctxOf s party asid).isSome va len op with
    | .miss a => cachedLoop race party asid va len op n (rangeFill race party asid a s)
    | t => (t, s)

/-- A request of a mill, a course, a descriptor or a host translated under the table in force; the entries it uses become the most recently
used. What belongs to no race looks up in race 0 (log entry 65). -/
def translateCached (race party asid va len : Nat) (op : Op) (s : State) : Trans × State :=
  let (t, s) := cachedLoop race party asid va len op (len / 4096 + 3) s
  let mine := fun (e : RangeEntry) => e.race == race && e.party == party && e.asid == asid && e.lo < va + len && va < e.hi
  (t, { s with net := { s.net with rcache := s.net.rcache.filter mine ++ s.net.rcache.filter (fun e => !mine e) } })

/-! ## The extent cache (R107) -/

/-- The party whose ways an extent entry takes: the request's in a sealed image; an open one shares all ways (Table 04-13). -/
def ecParty (s : State) (party : Nat) : Nat := if isSealed s then party else 15

def ecLook (s : State) (race party off : Nat) : Option ExtentEntry :=
  s.net.ecache.find? (fun e => e.race == race && e.party == ecParty s party && e.lo ≤ off && off < e.hi)

/-- The entry an extent search fills: the extent that holds the address, or the gap between extents. -/
def fillExtent (s : State) (race off : Nat) : ExtentEntry :=
  match findExtent s.hw.slice off 1 with
  | some e => { race, lo := e.start, hi := extentEnd e, extent := some e, fenced := fenced s s.hw.slice e }
  | none =>
    let es := s.hw.slice.extents
    let lo := (es.filter (fun e => extentEnd e ≤ off)).foldl (fun a e => max a (extentEnd e)) 0
    let hi := (es.filter (fun e => off < e.start)).foldl (fun a e => min a e.start) (backedSize s)
    { race, lo, hi, extent := none }

/-- An entry put in front of the extent cache of 1,024 entries, the least recently used of its set dropped when its ways are full. The
cache has 64 sets of 16 ways, the spec giving none (log entry 61). -/
def ecInsert (e : ExtentEntry) (s : State) : State :=
  let rest := s.net.ecache.filter (fun x => !(x.race == e.race && x.party == e.party && x.lo == e.lo))
  let same := rest.filter (fun x => x.race == e.race && x.party == e.party && Config.extentSet x.lo % 64 == Config.extentSet e.lo % 64)
  let drop := if same.length < cacheWaysOf s e.party then [] else same.drop (cacheWaysOf s e.party - 1)
  { s with net := { s.net with ecache := e :: rest.filter (fun x => !drop.contains x) } }

/-! ## Pin references at the home (R72, R73) -/

/-- Pinned size charged to a pool, in tier pages. -/
def pinnedPages (s : State) (pool : Nat) : Nat :=
  (s.store.tier.filter (fun e => isPinned e.2 && pagePool s e.1 == pool)).length

def pinQuotaPages (s : State) (pool : Nat) : Nat :=
  match s.hw.pools.find? (fun p => p.pool == pool) with
  | some p => p.pinQuotaGib * 16384
  | none => 0

/-- Whether a page's pin reference would exceed its pool's quota (R72). -/
def overQuota (s : State) (page : Nat) : Bool :=
  let pool := pagePool s page
  !isPinned (tierOf s page) && pinQuotaPages s pool < pinnedPages s pool + 1

/-- One pin reference added to a page, saturating at 255 (R72, R73). -/
def addPin (origin : Pair) (party page : Nat) (s : State) : State :=
  let e := tierOf s page
  let s := { s with store := { s.store with pinPages := s.store.pinPages ++ [(origin, page, 1)] } }
  if 255 ≤ e.pins + 1 then
    let s := updTier page (fun e => { e with pins := 255, stuck := true }) s
    if e.stuck then s
    else logEv 0x0504 sevWarning party 0 1 (poolAddr s.node 0 (page * 65536)) (updPty party (fun p => { p with pinSaturated := true }) s)
  else updTier page (fun e => { e with pins := e.pins + 1 }) s

/-- One pin reference of an origin removed, if it was added; a page that reached 255 stays pinned (R73). A page of a failing frame
moves once its references are 0, and the frame is retired (R76). -/
def dropPin (origin : Pair) (page : Nat) (s : State) : State :=
  if !s.store.pinPages.contains (origin, page, 1) then s
  else
    let s := { s with store := { s.store with pinPages := s.store.pinPages.erase (origin, page, 1) } }
    let s := updTier page (fun e => if e.stuck then e else { e with pins := e.pins - 1 }) s
    let e := tierOf s page
    if !isPinned e && s.store.badFrames.contains e.frame then vacate page (retire (pagePool s page) e.frame s) else s

/-- A pinned page that is not PLAIN is brought to PLAIN (R73). -/
def bringPlain (page : Nat) (s : State) : State := if isPinned (tierOf s page) then bring false page s else s

/-- Pin references added to the pages of a range; whether one was refused over the quota. -/
def addPins (origin : Pair) (party : Nat) : List Nat → Bool → State → Bool × State
  | [], short, s => (short, s)
  | p :: t, short, s =>
    if overQuota s p then addPins origin party t true s else addPins origin party t short (bringPlain p (addPin origin party p s))

/-- A pin message at the home (R72): pages pages from a 64 KiB-aligned offset, for an origin. A range of which some reference was not added
sets PIN_SHORT and is logged once. -/
def pinPages (origin : Pair) (party first pages : Nat) (remove : Bool) (s : State) : State :=
  let ps := rangeFrom first pages
  if remove then ps.foldl (fun s p => dropPin origin p s) s
  else
    let (short, s) := addPins origin party ps false s
    if short then
      logEv 0x0504 sevWarning party 0 0 (poolAddr s.node 0 (first * 65536)) (updPty party (fun p => { p with pinShort := true }) s)
    else s

end Sys2Proof.Machine
end

