-- ==== Sys2Proof/Machine/Staging.lean ====
section
/-!
DEFINITION. Sluice windows at their gateway (R193 to R197, R169): staging blocks and shipping, read buffers and block fetches.
-/
namespace Sys2Proof.Machine

open Sys2Proof

/-! ## Windows as a target (R37, R194) -/

/-- The checks of R37 and R194; none when the window takes the access. A LOAD without READ or a STORE without WRITE lacks a permission
(log entry 64). -/
def windowCheck (s : State) (origin : Pair) (op : Op) (off len : Nat) : Option Status :=
  match findWindow s (winNum off) with
  | none => some .faultUnmapped
  | some w =>
    if w.len < winOff off + len then some .faultUnmapped
    else if op != .load && op != .store then some .faultPermission
    else if !w.users.contains origin then some .refusedIsolation
    else if op == .load && !w.read then some .faultPermission
    else if op == .store && !w.write then some .faultPermission
    else none

def blockBytes' (w : SluiceWindow) : Nat := 2 ^ w.blockLog2
def blockOf (w : SluiceWindow) (off : Nat) : Nat := winOff off / blockBytes' w

/-- Staging blocks of a window in use: those that stage, and those shipped whose content has not landed. -/
def stagesUsed (s : State) (w : Nat) : Nat :=
  (s.sluice.stages.filter (fun x => x.window == w)).length + (s.sluice.shipped.filter (fun x => x.window == w)).length

/-- Whether a STORE finds a staging block (R194): its block is staged, or one is free. -/
def stageRoom (s : State) (off : Nat) : Bool :=
  match findWindow s (winNum off) with
  | none => true
  | some w => s.sluice.stages.any (fun x => x.window == w.window && x.block == blockOf w off) || stagesUsed s w.window < w.stageBlocks

/-! ## Pieces on their way (R195 to R197) -/

/-- OP_FIELDS of a SLUICE_PUT (Table 07-3). -/
def putFields (mark resync : Bool) (seq : Nat) : W64 :=
  BitVec.ofNat 64 (at' (b2n mark) 55 + at' (b2n resync) 54 + at' (seq % 2 ^ 32) 22)

/-- A piece sent to the far gateway: on a SITE port with COMP_GEN 0, or on the route of R154, where the far gateway is in the pool map
(R46); it waits here for a credit of its egress queue. -/
def sendPiece' (w : SluiceWindow) (r : Req) (s : State) : State :=
  let r := { r with addr := poolAddr w.farNode 1 (w.farWindow * 2 ^ 46 + r.addr), len := 4096, origin := ⟨s.node, 15⟩, party := 15
                    cls := .any, tclass := portClass r.tclass, gen := if w.site then 0 else s.hw.compGen }
  if !w.site && (s.map.state == .forming || !s.map.pool.contains w.farNode) then complete r .faultUnmapped [] s
  else match (if w.site then (portsOfKind s .site).find? (fun p => !(upLinks s p).isEmpty) else routePort s 15 r.addr) with
    | some p => offer (some p) r s
    | none => complete r .ownerLost [] s

/-- The data of a SLUICE_PUT: the granule mask, then each marked granule. -/
def putData (gs : List (Nat × Bytes)) : Bytes :=
  let mine := (List.range 64).filterMap (fun g => gs.find? (fun x => x.1 == g))
  toBytes ((mine.map (fun x => 2 ^ x.1)).sum) 8 ++ mine.flatMap (·.2)

/-- SLUICE_GETs for every piece of a block, with loads that wait for it. A fetch under way is joined; loads that come after an acquire
wait for another. -/
def beginFetch (w : SluiceWindow) (block : Nat) (loads : List Req) (s : State) : State :=
  if s.sluice.fetches.any (fun f => f.window == w.window && f.block == block) then
    { s with sluice := { s.sluice with fetches := s.sluice.fetches.map (fun f =>
        if f.window != w.window || f.block != block then f
        else if f.stale then { f with later := f.later ++ loads } else { f with loads := f.loads ++ loads }) } }
  else
    let s := { s with sluice := { s.sluice with fetches := s.sluice.fetches ++ [{ window := w.window, block, loads }] } }
    (List.range (blockBytes' w / 4096)).foldl (fun s i =>
      sendPiece' w { op := .sluiceGet, addr := block * blockBytes' w + 4096 * i, tclass := .bulk, src := .sluice w.window block } s) s

/-- A staging block sent (R195): every piece that holds staged granules, under one SEQ. -/
def sendStage (w : SluiceWindow) (x : Stage) (s : State) : State :=
  let seq := Tbl.get 0 s.sluice.seq x.window
  let pieces := ((x.granules.map (fun g => g.1 / 64)).foldl (fun l p => insertNat p l) [])
  let sh : Shipped := { window := x.window, seq, block := x.block, pieces, granules := x.granules, marks := x.marks, stores := x.stores }
  let s := { s with sluice := { s.sluice with
    stages := s.sluice.stages.filter (fun y => !(y.window == x.window && y.block == x.block)), shipped := s.sluice.shipped ++ [sh]
    seq := Tbl.put s.sluice.seq x.window ((seq + 1) % 2 ^ 32) } }
  pieces.foldl (fun s p =>
    let gs := (x.granules.filter (fun g => g.1 / 64 == p)).map (fun g => (g.1 % 64, g.2))
    sendPiece' w { op := .sluicePut, addr := x.block * blockBytes' w + 4096 * p, data := putData gs, tclass := .bulk
                   src := .sluice x.window x.block, opf := putFields false false seq } s) s

/-- A staging block shipped (R194). One with a granule staged in part is first filled from a fetch of the block (log entry 50). -/
def shipStage (x : Stage) (s : State) : State :=
  match findWindow s x.window with
  | none => s
  | some w =>
    if x.marks.isEmpty then sendStage w x s
    else
      let mark := fun (y : Stage) => if y.window == x.window && y.block == x.block then { y with due := true } else y
      beginFetch w x.block [] { s with sluice := { s.sluice with stages := s.sluice.stages.map mark } }

/-- The block with the oldest granule of a window, of those not yet to be shipped. -/
def oldestStage (s : State) (w : Nat) : Option Stage := (s.sluice.stages.filter (fun x => x.window == w && !x.due)).getLast?

/-- A staging block is needed for another window block (R194): the block with the oldest granule is shipped. -/
def needStage (off : Nat) (s : State) : State :=
  if stageRoom s off then s
  else match oldestStage s (winNum off) with
    | some x => shipStage x s
    | none => s

/-! ## Staging a store (R194) -/

/-- New bytes over old ones at a place. -/
def patch (old : Bytes) (at_ : Nat) (d : Bytes) : Bytes := old.take at_ ++ d ++ old.drop (at_ + d.length)

/-- The byte at a place of a granule, where it was stored: a granule not stored whole keeps the list of its stored bytes. -/
def storedByte (granules : List (Nat × Bytes)) (marks : List (Nat × List Nat)) (g at_ : Nat) : Option Byte :=
  (granules.find? (fun y => y.1 == g)).bind (fun y =>
    if ((marks.find? (fun m => m.1 == g)).map (fun m => m.2.contains at_)).getD true then y.2[at_]? else none)

/-- Bytes of one granule staged, over what is staged of it. -/
def stageGranule (x : Stage) (g at_ : Nat) (d : Bytes) : Stage :=
  let old := (x.granules.find? (fun y => y.1 == g)).map (·.2)
  let had := match old, x.marks.find? (fun m => m.1 == g) with
    | none, _ => []
    | some _, none => rangeFrom 0 64
    | some _, some m => m.2
  let has := insertAll (rangeFrom at_ d.length) had
  let b := patch (old.getD (List.replicate 64 0#8)) at_ d
  let rest := x.marks.filter (fun m => m.1 != g)
  { x with
    granules := if old.isSome then x.granules.map (fun y => if y.1 == g then (g, b) else y) else x.granules ++ [(g, b)]
    marks := if has.length == 64 then rest else rest ++ [(g, has)] }

/-- The granules of a store, each with its place and bytes. -/
def storeGranules (lo : Nat) (d : Bytes) : List (Nat × Nat × Bytes) :=
  (linesOf lo d.length).map (fun g =>
    let a := max lo (g * 64)
    let b := min (lo + d.length) (g * 64 + 64)
    (g, a - g * 64, (d.drop (a - lo)).take (b - a)))

/-- A store of a window performed at its gateway (R194): staged, newest content first; a block fully written is shipped. This
node's own store that finds no staging block waits for one. -/
def stageStore (r : Req) (s : State) : State :=
  let off := addrOffset r.addr
  match findWindow s (winNum off) with
  | none => complete r .faultUnmapped [] s
  | some w =>
    if !stageRoom s off then needStage off { s with sluice := { s.sluice with waitStage := s.sluice.waitStage ++ [r] } }
    else
      let block := blockOf w off
      let lo := winOff off % blockBytes' w
      let same := fun (y : Stage) => y.window == w.window && y.block == block
      let x := (s.sluice.stages.find? same).getD { window := w.window, block }
      let x := (storeGranules lo r.data).foldl (fun x g => stageGranule x g.1 g.2.1 g.2.2) x
      let x := { x with stores := x.stores ++ [r] }
      let old := s.sluice.stages.any same
      let s := { s with sluice := { s.sluice with
        stages := if old then s.sluice.stages.map (fun y => if same y then x else y) else x :: s.sluice.stages } }
      if x.marks.isEmpty && x.granules.length == blockBytes' w / 64 then shipStage x s else s

/-! ## Loads (R196) -/

/-- One byte of a window block from content shipped and not landed, newest first (R169). -/
def shippedByte (s : State) (window block g at_ : Nat) : Option Byte :=
  ((s.sluice.shipped.filter (fun x => x.window == window && x.block == block)).reverse).findSome? (fun x =>
    storedByte x.granules x.marks g at_)

/-- One byte of a window block that this gateway holds: staged, shipped and not landed, or buffered, in that order (R196). -/
def heldByte (s : State) (w : SluiceWindow) (block g at_ : Nat) : Option Byte :=
  let staged := (s.sluice.stages.find? (fun x => x.window == w.window && x.block == block)).bind (fun x =>
    storedByte x.granules x.marks g at_)
  match staged.or (shippedByte s w.window block g at_) with
  | some b => some b
  | none => (s.sluice.bufs.find? (fun b => b.window == w.window && b.block == block)).bind (fun b => b.data[64 * g + at_]?)

/-- The bytes of a load, where the gateway holds all of them. -/
def heldBytes (s : State) (w : SluiceWindow) (off len : Nat) : Option Bytes :=
  (rangeFrom off len).mapM (fun a => heldByte s w (a / blockBytes' w) (a % blockBytes' w / 64) (a % 64))

/-- A load of a window performed at its gateway: served from what is held, else after a fetch of the first block that lacks bytes. One that is
an acquire drops its source's read-buffered blocks with the value (R169). -/
def windowLoad (r : Req) (s : State) : State :=
  let off := addrOffset r.addr
  match findWindow s (winNum off) with
  | none => complete r .faultUnmapped [] s
  | some w =>
    let o := winOff off
    match heldBytes s w o r.len with
    | some d =>
      let used := fun (b : ReadBuf) => b.window == w.window && b.block == o / blockBytes' w
      let s := { s with sluice := { s.sluice with bufs := s.sluice.bufs.filter used ++ s.sluice.bufs.filter (fun b => !used b) } }
      complete r .ok d (acquired r s)
    | none =>
      let lacks := fun (a : Nat) => (heldByte s w (a / blockBytes' w) (a % blockBytes' w / 64) (a % 64)).isNone
      match (rangeFrom o r.len).find? lacks with
      | some a => beginFetch w (a / blockBytes' w) [r] s
      | none => s

/-! ## What landed -/

/-- The stores of a shipped block that hold granules of a piece only among the given ones. -/
def storePiece (w : SluiceWindow) (r : Req) : Nat := winOff (addrOffset r.addr) % blockBytes' w / 4096

/-- The stored bytes of some granules of a block, each with its place in the block. -/
def storedSpans (granules : List (Nat × Bytes)) (marks : List (Nat × List Nat)) : List (Nat × Bytes) :=
  granules.flatMap (fun g => match marks.find? (fun m => m.1 == g.1) with
    | none => [(64 * g.1, g.2)]
    | some m => m.2.map (fun i => (64 * g.1 + i, (g.2.drop i).take 1)))

/-- A piece of a shipped block acknowledged: the stores in it complete, and the block's staging place is free with its last piece. What has
landed is in the read buffer from now on, and in a fetch that may not have seen it (R153). -/
def pieceAcked (w : SluiceWindow) (seq piece : Nat) (st : Status) (s : State) : State :=
  match s.sluice.shipped.find? (fun x => x.window == w.window && x.seq == seq) with
  | none => s
  | some x =>
    let here := fun (g : Nat × Bytes) => g.1 / 64 == piece
    let done := x.stores.filter (fun r => storePiece w r == piece)
    let x' := { x with pieces := removeNat piece x.pieces, granules := x.granules.filter (fun g => !here g)
                       stores := x.stores.filter (fun r => storePiece w r != piece) }
    let landed := if st == .ok then storedSpans (x.granules.filter here) x.marks else []
    let keep := s.sluice.shipped.filterMap (fun y =>
      if y.window == x.window && y.seq == x.seq then (if x'.pieces.isEmpty then none else some x') else some y)
    let s := { s with sluice := { s.sluice with
      shipped := keep
      bufs := s.sluice.bufs.map (fun b => if b.window == x.window && b.block == x.block then
        { b with data := landed.foldl (fun d p => patch d p.1 p.2) b.data } else b)
      fetches := s.sluice.fetches.map (fun f => if f.window == x.window && f.block == x.block then { f with laid := f.laid ++ landed } else f) } }
    done.foldl (fun s r => complete r st [] s) s

/-- A stage's granules filled: a byte not stored comes from content shipped and not landed, else from the fetched block. -/
def fillStage (s : State) (data : Bytes) (x : Stage) : Stage :=
  { x with granules := x.granules.map (fun y => (y.1, (List.range 64).map (fun i =>
      match storedByte [y] x.marks y.1 i with
      | some b => b
      | none => (shippedByte s x.window x.block y.1 i).getD (data.getD (64 * y.1 + i) 0#8)))) }

/-- A fetched block (R196): it enters the read buffer, the least recently used block of the window dropped, and loads that waited for it
are served; a block whose fetch began before an acquire does not stay there. A staging block that waited to be filled from it is sent. -/
def fetched (w : SluiceWindow) (f : Fetch) (s : State) : State :=
  let data := (List.range (blockBytes' w / 4096)).flatMap (fun i => ((f.got.find? (fun g => g.1 == i)).map (·.2)).getD [])
  let data := f.laid.foldl (fun d p => patch d p.1 p.2) data
  let this := fun (b : ReadBuf) => b.window == w.window && b.block == f.block
  let others := s.sluice.bufs.filter (fun b => !this b)
  let mine := (others.filter (fun b => b.window == w.window)).take (w.stageBlocks - 1)
  let s := { s with sluice := { s.sluice with
    bufs := { window := w.window, block := f.block, data } :: others.filter (fun b => b.window != w.window || mine.contains b)
    fetches := s.sluice.fetches.filter (fun y => !(y.window == w.window && y.block == f.block)) } }
  let s := f.loads.foldl (fun s r => windowLoad r s) s
  let s := if f.stale then { s with sluice := { s.sluice with bufs := s.sluice.bufs.filter (fun b => !this b) } } else s
  let s := match s.sluice.stages.find? (fun x => x.window == w.window && x.block == f.block && x.due) with
    | some x => sendStage w (fillStage s data x) s
    | none => s
  f.later.foldl (fun s r => windowLoad r s) s

/-- A fetch that failed: its loads, and the stores of a block that waited to be filled from it, complete with its status. -/
def fetchFailed (w : SluiceWindow) (f : Fetch) (st : Status) (s : State) : State :=
  let waits := fun (x : Stage) => x.window == w.window && x.block == f.block && x.due
  let stores := (s.sluice.stages.filter waits).flatMap (·.stores)
  let s := { s with sluice := { s.sluice with
    stages := s.sluice.stages.filter (fun x => !waits x)
    fetches := s.sluice.fetches.filter (fun y => !(y.window == w.window && y.block == f.block)) } }
  f.later.foldl (fun s r => windowLoad r s) ((f.loads ++ stores).foldl (fun s r => complete r st [] s) s)

/-- A response to a piece this gateway sent. -/
def sluiceLanded (x : Landed) (window block : Nat) (s : State) : State :=
  match findWindow s window with
  | none => s
  | some w =>
    let piece := winOff (addrOffset x.req.addr) % blockBytes' w / 4096
    if x.req.op == .sluicePut then pieceAcked w (field x.req.opf 22 32) piece x.status s
    else match s.sluice.fetches.find? (fun f => f.window == window && f.block == block) with
      | none => s
      | some f =>
        if x.status != .ok then fetchFailed w f x.status s
        else
          let f := { f with got := (f.got.filter (fun g => g.1 != piece)) ++ [(piece, x.data)] }
          if f.got.length == blockBytes' w / 4096 then fetched w f s
          else { s with sluice := { s.sluice with fetches := s.sluice.fetches.map (fun y =>
            if y.window == window && y.block == block then f else y) } }

/-- Stores of this node that waited for a staging block go on as blocks become free. -/
def retryStage (s : State) : State :=
  let rs := s.sluice.waitStage
  rs.foldl (fun s r => stageStore r s) { s with sluice := { s.sluice with waitStage := [] } }

/-- SLUICE_FLUSH_AGE (R194): a granule has been staged for FLUSH_AGE_US; its block is shipped. -/
def sluiceFlushAge (window block : Nat) (s : State) : State :=
  match s.sluice.stages.find? (fun x => x.window == window && x.block == block) with
  | some x => shipStage x s
  | none => s

end Sys2Proof.Machine
end

