-- ==== Sys2Proof/Machine/Mirror.lean ====
section
/-!
DEFINITION. Far gateways (R195, R196) and cross-site mirroring (R198 to R203): inbound pieces and what they write and read, and the
batches of a primary home.
-/
namespace Sys2Proof.Machine

open Sys2Proof

/-! ## Mirror settings -/

def mirrorSetting (s : State) (i : Nat) : Option MirrorSetting := s.hw.mirrors.find? (fun m => m.index == i)

def mirrorOf (s : State) (i : Nat) : MirrorSt := Tbl.get {} s.sluice.mirrors i

def updMirror (i : Nat) (f : MirrorSt → MirrorSt) (s : State) : State :=
  { s with sluice := { s.sluice with mirrors := Tbl.upd {} s.sluice.mirrors i f } }

def mirrorIdle : Nat := 0
def mirrorShipping : Nat := 1
def mirrorLinkDown' : Nat := 2
def mirrorResync : Nat := 3
def mirrorCurrent : Nat := 4
def mirrorResyncing : Nat := 5
def mirrorRefusing : Nat := 6

/-- The log entry of a mirror set's state (Table 16-10). -/
def logMirror (i : Nat) (sev lag incomplete : Nat) (s : State) : State :=
  match mirrorSetting s i with
  | none => s
  | some m =>
    let x := mirrorOf s i
    logEv 0x0207 sev 15 0 m.setId (x.state + at' lag 4 + at' incomplete 5 + at' x.lastBatch 32) s

/-- Whether a batch of the setting is on its way. -/
def batchOpen (x : MirrorSt) : Bool := x.state == mirrorShipping || x.state == mirrorResync

/-- Tier pages of a batch with a piece that is not acknowledged. -/
def pagesUnacked (x : MirrorSt) : List Nat := x.ship.filter (fun p => x.unacked.any (fun u => u / 16 == p))

/-- Pages of a setting's batch that wait to be shipped do so no longer. -/
def dropShips (i : Nat) (s : State) : State :=
  let keep := fun (w : Nat × FlashWork) => match w.2 with
    | .ship j _ => j != i
    | _ => true
  { s with weir := { s.weir with maint := s.weir.maint.filter keep, flashQ := s.weir.flashQ.filter keep } }

/-- A set enters LINK_DOWN (R201): unacknowledged pages of the interrupted batch regain their bits. -/
def enterLinkDown (i : Nat) (s : State) : State :=
  let x := mirrorOf s i
  if !x.primary || x.state == mirrorLinkDown' then s
  else logMirror i sevNotice 0 0 <| dropShips i
    (updMirror i (fun x => { x with state := mirrorLinkDown', bits := insertAll (pagesUnacked x) x.bits, ship := [], unacked := []
                                    marking := false, resync := false }) s)

/-! ## Shipping (R199) -/

/-- A piece of a batch sent to the far gateway through the set's window on its gateway node. It is device work, class maintenance here, and leaves
on a port as bulk, since every port refuses maintenance (DESIGN CHOICE, log entry 72). -/
def sendMirror (m : MirrorSetting) (off : Nat) (data : Bytes) (opf : W64) (s : State) : State :=
  let r : Req := { op := .sluicePut, len := 4096, data, tclass := .maintenance, party := 15, origin := ⟨s.node, 15⟩, cls := .any
                   src := .mirror m.index, opf }
  if m.gateway == s.node then
    match findWindow s m.window with
    | some w => sendPiece' w { r with addr := off } s
    | none => complete r .faultUnmapped [] s
  else issue { r with addr := poolAddr m.gateway 1 (m.window * 2 ^ 46 + off) } s

/-- The pieces of a page, all granules marked, its content as it stands now; poison is not shipped (log entry 69). Their SEQ is the
batch number, as the mark's is, for a batch has no block sequence of its own (DESIGN CHOICE, log entry 72). -/
def shipPage (m : MirrorSetting) (resync : Bool) (batch page : Nat) (s : State) : State :=
  (List.range 16).foldl (fun s i =>
    let off := page * 65536 + i * 4096
    sendMirror m off (toBytes (2 ^ 64 - 1) 8 ++ readMem s off 4096) (putFields false resync batch) s) s

/-- A page of the batch under way, admitted in its maintenance slot, is shipped (R199 step 2). -/
def shipNow (i page : Nat) (s : State) : State :=
  let x := mirrorOf s i
  match mirrorSetting s i with
  | some m => if batchOpen x && x.ship.contains page then shipPage m x.resync x.batch page s else s
  | none => s

/-- A batch closed: it takes the set bits and clears them. One of a set of which every page was marked at boot is a full resync (R203, R366).
Its pages ship as device work, in maintenance slots of the set's frame
pool (R199). -/
def closeBatch (m : MirrorSetting) (resync : Bool) (s : State) : State :=
  let x := mirrorOf s m.index
  let resync := resync || x.full
  let n := (x.batch + 1) % 2 ^ 32
  let units := x.bits.flatMap (fun p => rangeFrom (16 * p) 16)
  let s := updMirror m.index (fun x => { x with
    state := if resync then mirrorResync else mirrorShipping, batch := n, ship := x.bits, bits := [], unacked := units, marking := false
    resync, due := false, closedAt := some (x.closedAt.getD s.keeper.mono) }) s
  x.bits.foldl (fun s p => maintain (homeRace s (p * 65536)) (.ship m.index p) s) s

/-- MIRROR_BATCH_CLOSE (R199): at a BATCH_PERIOD boundary at which no batch is shipping. -/
def execMirrorBatchClose (setting : Fin 16) (s : State) : Host.Outcome State Fault Refusal :=
  .next (
    let x := mirrorOf s setting
    match mirrorSetting s setting with
    | some m => if x.primary && x.due && x.state == mirrorIdle then closeBatch m false s else s
    | none => s)

/-- MIRROR_BATCH_ACKED (R199): every piece of the batch is acknowledged, and the home sends the mark. -/
def execMirrorBatchAcked (setting : Fin 16) (s : State) : Host.Outcome State Fault Refusal :=
  .next (
    let x := mirrorOf s setting
    match mirrorSetting s setting with
    | some m =>
      if x.primary && batchOpen x && x.unacked.isEmpty && !x.marking then
        sendMirror m 0 (toBytes 0 8) (putFields true x.resync x.batch) (updMirror setting (fun x => { x with marking := true }) s)
      else s
    | none => s)

/-- A response to a piece or the mark of the batch on its way. A set that is REFUSING ships again after LINK_DOWN and its return, no other way
back being stated (DESIGN CHOICE, log entry 72). -/
def mirrorLanded (x : Landed) (i : Nat) (s : State) : State :=
  let m := mirrorOf s i
  if !batchOpen m || field x.req.opf 22 32 != m.batch then s
  else if x.status == .refusedIsolation then
    logMirror i sevNotice 0 0 <| dropShips i
      (updMirror i (fun m => { m with state := mirrorRefusing, bits := insertAll (pagesUnacked m) m.bits, ship := [], unacked := []
                                      marking := false, resync := false }) s)
  else if x.status != .ok then enterLinkDown i s
  else if flag x.req.opf 55 then
    updMirror i (fun m => { m with state := mirrorIdle, lastBatch := m.batch, ship := [], marking := false, resync := false
                                   full := false, closedAt := none }) s
  else
    let unit := unitOf (bits x.req.addr 0 46)
    updMirror i (fun m => { m with unacked := removeNat unit m.unacked }) s

/-- MIRROR_LINK_DOWN (R201). -/
def execMirrorLinkDown (setting : Fin 16) (s : State) : Host.Outcome State Fault Refusal := .next (enterLinkDown setting s)

/-- MIRROR_LINK_RETURN (R201): every marked page ships as one resync batch. -/
def execMirrorLinkReturn (setting : Fin 16) (s : State) : Host.Outcome State Fault Refusal :=
  .next (
    let x := mirrorOf s setting
    match mirrorSetting s setting with
    | some m => if x.primary && x.state == mirrorLinkDown' then closeBatch m true s else s
    | none => s)

/-- The lag of a set in milliseconds: the age of the oldest closed batch whose mark is not acknowledged, on the keeper's counter of
microseconds (R201). -/
def lagMs (s : State) (i : Nat) : Nat :=
  match (mirrorOf s i).closedAt with
  | some t => (s.keeper.mono - t) / 1000
  | none => 0

/-- LAG_EXCEEDED (R201): a lag has been read that passes the bound of the set. A reading above the lag that the counter gives is none of
this set's (log entry 4). -/
def execLagExceeded (setting : Fin 16) (lag : Nat) (s : State) : Host.Outcome State Fault Refusal :=
  .next (
    let x := mirrorOf s setting
    match mirrorSetting s setting with
    | some m =>
      if !x.primary || lag ≤ m.lagBoundMs || lagMs s setting < lag || x.lagExceeded then s
      else logMirror setting sevAlarm 1 0 (setAlert alertLag (updMirror setting (fun x => { x with lagExceeded := true }) s))
    | none => s)

/-! ## The far gateway (R195, R196) -/

def updFar (id : Nat) (f : FarPiece → FarPiece) (s : State) : State :=
  { s with sluice := { s.sluice with far := s.sluice.far.map (fun x => if x.id == id then f x else x) } }

def dropFar (id : Nat) (s : State) : State :=
  { s with sluice := { s.sluice with far := s.sluice.far.filter (fun x => x.id != id) } }

/-- The marked granules of a SLUICE_PUT's data, in ascending order. -/
def putGranules : List Nat → Bytes → List (Nat × Bytes)
  | [], _ => []
  | g :: t, d => (g, d.take 64) :: putGranules t (d.drop 64)

/-- The setting of the mirror set that a window carries. -/
def windowSetting (s : State) (w : SluiceWindow) : Option MirrorSetting :=
  if w.mirror then s.hw.mirrors.find? (fun m => m.setId == w.mirrorSet) else none

/-- What a promotion at a later boot logs is kept for a set held as a mirror (R203; log entry 69). -/
def seenMirror (m : MirrorSetting) (s : State) : State :=
  let x := mirrorOf s m.index
  if x.primary then s else { s with nv := { s.nv with mirrorSeen := Tbl.put s.nv.mirrorSeen m.setId (x.lastBatch, x.resync) } }

/-- A mark received for a mirror set (R200, Table 07-11). -/
def takeMark (w : SluiceWindow) (seq : Nat) (s : State) : State :=
  match windowSetting s w with
  | some m => seenMirror m (updMirror m.index (fun x => if x.primary then x else { x with lastBatch := seq, state := mirrorCurrent, resync := false }) s)
  | none => s

/-- A resync piece received (R201): the mirror reports RESYNCING until the batch's mark arrives. -/
def noteResync (w : SluiceWindow) (s : State) : State :=
  match windowSetting s w with
  | some m => seenMirror m (updMirror m.index (fun x => if x.primary then x else { x with state := mirrorResyncing, resync := true }) s)
  | none => s

/-- A piece begun: STOREs of its marked granules, or the LOAD of its piece, with origin (this node, LOCAL_PARTY). -/
def beginFar (w : SluiceWindow) (x : FarPiece) (s : State) : State :=
  let off := winOff (addrOffset x.req.addr)
  let base : Req := {
    party := w.localParty, origin := ⟨s.node, w.localParty⟩, src := .far w.window x.id, cls := .any
    tclass := if w.localParty == 15 then .maintenance else .bulk }
  if x.req.op == .sluiceGet then
    issue { base with op := .load, addr := w.localBase + off, va := w.localBase + off, len := 4096 }
      (updFar x.id (fun x => { x with begun := true, left := 1 }) s)
  else if flag x.req.opf 55 then complete x.req .ok [] (takeMark w x.seq (dropFar x.id s))
  else
    let mask := ofBytes (x.req.data.take 8)
    let gs := putGranules ((List.range 64).filter (bit mask)) (x.req.data.drop 8)
    let s := if flag x.req.opf 54 then noteResync w s else s
    if gs.isEmpty then complete x.req .ok [] (dropFar x.id s)
    else
      let s := updFar x.id (fun x => { x with begun := true, left := gs.length }) s
      gs.foldl (fun s g =>
        let a := w.localBase + off + 64 * g.1
        issue { base with op := .store, addr := a, va := a, len := 64, data := g.2 } s) s

/-- Whether a piece may begin: a read at once, a write when no earlier piece of its window by SEQ is at hand (R195). A piece
whose predecessors by SEQ have not come does not wait for them (DESIGN CHOICE, log entry 72). -/
def farReady (s : State) (x : FarPiece) : Bool :=
  !x.begun && (x.req.op == .sluiceGet || !(s.sluice.far.any (fun y =>
    y.window == x.window && y.req.op == .sluicePut && serCmp 32 x.seq y.seq == .newer)))

/-- Inbound pieces begun while any may be. -/
def farPump : Nat → State → State
  | 0, s => s
  | n + 1, s =>
    match s.sluice.far.find? (farReady s) with
    | none => s
    | some x => match findWindow s x.window with
      | some w => farPump n (beginFar w x s)
      | none => farPump n (complete x.req .faultUnmapped [] (dropFar x.id s))

/-- A piece performed at a gateway: one of a home that ships through this MIRROR window goes on to the far gateway (log entry 51), an
inbound one joins its window's pieces. -/
def takePiece (r : Req) (s : State) : State :=
  let off := addrOffset r.addr
  match findWindow s (winNum off) with
  | none => complete r .faultUnmapped [] s
  | some w =>
    if w.len < winOff off + 4096 then complete r .faultUnmapped [] s
    else if w.mirror && w.users.contains r.origin then sendPiece' w { r with addr := winOff off } s
    else
      let id := s.sluice.nextFar
      let x : FarPiece := { id, window := w.window, seq := field r.opf 22 32, req := r }
      let s := { s with sluice := { s.sluice with far := s.sluice.far ++ [x], nextFar := id + 1 } }
      farPump (s.sluice.far.length + 1) s

/-- A write or read of an inbound piece completed at its home: the piece is answered when all are. -/
def farLanded (x : Landed) (id : Nat) (s : State) : State :=
  match s.sluice.far.find? (fun p => p.id == id) with
  | none => s
  | some p =>
    let st := if p.status == .ok then x.status else p.status
    if 1 < p.left then updFar id (fun p => { p with left := p.left - 1, status := st }) s
    else
      let s := complete p.req st (if st == .ok then x.data else []) (dropFar id s)
      farPump (s.sluice.far.length + 1) s

end Sys2Proof.Machine
end

