-- ==== Sys2Proof/Machine/Disposition.lean ====
section
/-!
DEFINITION. The same-slot answer: the ordered checks of Table 04-8 (R107), the held-page list (R110), the provisional
conditions (R111), and the combining of confluent requests at this node's ports (R185, R186).
-/
namespace Sys2Proof.Machine

open Sys2Proof

/-! ## Node control space as a target (Tables 15-8, 15-9) -/

/-- Regions of node control space. -/
inductive CtlRegion where
  | cap (i : Nat)
  | mirror (i : Nat)
  | mailbox (node word : Nat)
  | party (p reg : Nat)
  | slice (offset : Nat)
  | none
  deriving DecidableEq, Repr

def ctlRegion (off : Nat) : CtlRegion :=
  if off < 0x40 then .cap (off / 8)
  else if 0x2000 ≤ off && off < 0x2080 then .mirror ((off - 0x2000) / 8)
  else if 0x10000 ≤ off && off < 0x20000 then .mailbox ((off - 0x10000) / 64) ((off - 0x10000) % 64 / 8)
  else if 0x20000 ≤ off && off < 0x28000 then .party ((off - 0x20000) / 0x1000) ((off - 0x20000) % 0x1000)
  else if 0x1000000 ≤ off && off < 0x1800000 then .slice (off - 0x1000000)
  else .none

/-- Whether a mirror setting's register may be read by a party: the local members of its set (R202). -/
def mirrorReader (s : State) (i party : Nat) : Bool :=
  match s.hw.mirrors.find? (fun m => m.index == i) with
  | some m => match findSet s.hw.slice m.setId with
    | some x => x.members.any (fun p => localParty s p == some party)
    | none => false
  | none => false

/-- R38 and R43 on node control space: none when the access may be performed. -/
def ctlCheck (s : State) (party : Nat) (origin : Pair) (off len : Nat) (write : Bool) : Option Status :=
  let roster := origin.node != s.node && s.hw.slice.roster.contains origin.node && origin.party == 15
  if len != 8 || off % 8 != 0 then some .faultPermission
  else match ctlRegion off with
    | .cap _ => if write then some .refusedIsolation else none
    | .mirror i => if mirrorReader s i party then none else some .refusedIsolation
    | .mailbox n _ => if roster && write && n == origin.node then none else some .refusedIsolation
    | .slice _ => if roster && !write then none else some .refusedIsolation
    | .party p _ => if p == party && origin.party != 15 then none else some .refusedIsolation
    | .none => some .faultUnmapped

/-! ## The checks of Table 04-8 -/

/-- Row 1: the exemption of map agreement (R43, R48). -/
def isAgreement (s : State) (h : ReqHdr) : Bool :=
  addrNode h.addr == s.node && addrSpace h.addr == 2 && s.hw.slice.roster.contains h.origin.node && h.origin.party == 15
  && (match ctlRegion (addrOffset h.addr) with
    | .mailbox .. => h.opcode == 0x02
    | .slice _ => h.opcode == 0x01
    | _ => false)

/-- Whether a partner's SNP_RSP names a snoop that is outstanding at it (R127). -/
def answersSnoop (s : State) (party : Nat) (h : ReqHdr) : Bool :=
  s.coh.relays.any (fun x => x.snpId == snpId h.opf && x.agent == ⟨s.node, party⟩)

/-- A snoop (Table 05-3). -/
def isSnoop (op : Op) : Bool := op == .snpInv || op == .snpData || op == .snpCur

/-- The checks of R131 in place of row 5 for party-15 messages of other nodes. A result's agent is the one its snoop went to; where its
SNP_ID names none, an agent of its node. -/
def messageOk (s : State) (op : Op) (h : ReqHdr) : Bool :=
  match op with
  | .snpInv | .snpData | .snpCur =>
    match (poolSlices s).find? (fun sl => sl.node == h.origin.node) with
    | some sl => match findExtent sl (addrOffset h.addr) 64 with
      | some e => e.cls == .coherent && (extentMembers sl e).any (fun p => p.node == s.node)
      | none => false
    | none => false
  | .snpRsp => (coherentLists s.hw.slice).any (fun g => match s.coh.snoops.find? (fun x => x.id == snpId h.opf) with
      | some x => x.agent.node == h.origin.node && g.contains x.agent
      | none => g.any (fun p => p.node == h.origin.node))
  | .domainNotice =>
    match findDomain s (field h.opf 42 14) with
    | some d => d.agents.contains (agentOf (field h.opf 28 14))
    | none => false
  | _ => false

/-- A message of R131: it carries ORIGIN_PARTY 15 and TCLASS demand. -/
def isMessage (op : Op) : Bool := op == .snpInv || op == .snpData || op == .snpCur || op == .snpRsp || op == .domainNotice

/-- A piece of a sluice gateway is admitted where it addresses a window of this node that names the sender as far gateway (R197), or, on its
way out of the pool, where it comes from a home that ships through a MIRROR window (R198, R199; log entry 51). -/
def pieceOk (s : State) (node : Nat) (addr : Nat) (origin : Pair) (site : Bool) : Bool :=
  node == s.node && addrSpace addr == 1 && (match findWindow s (winNum (addrOffset addr)) with
    | some w => if site then w.site && w.farNode == origin.node
                else w.farNode == origin.node || (w.mirror && w.users.contains origin)
    | none => false)

/-- Requests outstanding on a port that count as reads, or as writes (R192). -/
def portOutstanding (s : State) (port : Nat) (reads : Bool) : Nat :=
  (s.net.tags.filter (fun t => t.port == port && t.isRead == reads && !t.done)).length

/-- Whether a PTAG is left on a port: at most 256 in use (R137). -/
def freePtag (s : State) (port : Nat) : Option Nat :=
  let used := (s.net.ptags.filter (fun p => p.port == port)).map (·.ptag)
  if 256 ≤ used.length then none else firstFree used 0 257

/-- What a header's decision gives: the disposition and, when accepted, the pieces. -/
structure Decision where
  disp : Disp
  reqs : List Req := []
  whole : Req := {}
  miss : Option Nat := none            -- a range-cache search to start, at this virtual address
  missAsid : Nat := 0
  emiss : Option (Nat × Nat) := none   -- an extent search to start: the offset, and the party whose ways it fills
  behind : Bool := false               -- the request's generation is newer (R48)
  deriving DecidableEq, Repr

/-- R25: the local party on whose behalf a coherence message is admitted. A snoop, which names only its line, is admitted for the first local
member of the line's extent (DESIGN CHOICE, log entry 72); a result for the party whose request opened the transaction, or for the owner of
the line's extent, or, relayed, for its agent. -/
def messageParty (s : State) (r : Req) : Nat :=
  if r.op == .snpRsp then
    match s.coh.relays.find? (fun x => x.snpId == snpId r.opf && x.home != s.node) with
    | some x => x.agent.party
    | none =>
      match s.coh.snoops.find? (fun x => x.id == snpId r.opf) with
      | none => 15
      | some x =>
        match s.coh.txns.find? (fun t => t.line == x.line && t.req.isSome) with
        | some t => (t.req.map (·.party)).getD 15
        | none => match findExtent s.hw.slice (x.line * 64) 64 with
          | some e => match e.owner with
            | .single p => (localParty s p).getD 15
            | .set _ => 15
          | none => 15
  else match (poolSlices s).find? (fun sl => sl.node == r.origin.node) with
    | none => 15
    | some sl => match findExtent sl (addrOffset r.addr) 64 with
      | some e => (((extentMembers sl e).find? (fun p => p.node == s.node)).map (·.party)).getD 15
      | none => 15

/-- A request with the party and class of the queue it waits in, for a home here: a message's are those of R25; a combined request's party
is, until its entries are here, that of its header's origin, entry 0 (R187); party 15 has maintenance queues alone (R115). -/
def queuedAs (s : State) (r : Req) : Req :=
  if isMessage r.op && r.op != .domainNotice then
    let p := messageParty s r
    { r with party := p, tclass := if p == 15 then .maintenance else .demand }
  else if r.op == .confRead || r.op == .confAtomic then { r with party := (localParty s r.origin).getD r.party }
  else if r.party == 15 then { r with tclass := .maintenance }
  else r

/-- The same with the race of its queue (R27); a request for another home goes as it is. -/
def queued (s : State) (r : Req) : Req :=
  if isHome s r || isMessage r.op then { queuedAs s r with queueRace := some (homeRace s (addrOffset r.addr)) } else r

/-- The queue a request debits: 0 to 7 the home queue of a race, 8 and above the egress queue of a port. -/
def queueOf' (s : State) (r : Req) : Option Nat :=
  if isHome s r || isMessage r.op then some (homeRace s (addrOffset r.addr)) else (routePort s r.party (destOf r)).map (8 + ·)

/-- Credits for every piece: all or none (R27). Pieces that debit one queue need a credit each. -/
def creditsFor (s : State) (station : Nat) (rs : List Req) : Bool :=
  rs.all (fun r =>
    let mates := (rs.filter (fun x => x.part ≤ r.part && queueOf' s x == queueOf' s r)).length
    match queueOf' s r with
    | some q => if q < 8 then hasCredit s q r.party r.tclass station mates else hasEgress s (q - 8) r.tclass station mates
    | none => true)

/-- The request no entry of a race's extent cache decides, with the party whose ways its search fills (R107, Table 04-13). -/
def ecMiss (s : State) (race : Nat) (rs : List Req) : Option (Nat × Nat) :=
  (rs.find? (fun r => (ecLook s race r.party (addrOffset r.addr)).isNone)).map (fun r => (addrOffset r.addr, ecParty s r.party))

/-- Rows 6 to 13 for a request whose pieces are known; the checks of row 7 are those of the pieces homed here. Beside a full held-page list a
page on it keeps its own interval, and a copy of a multicast is judged by R42 here and by its group when it is performed (DESIGN CHOICE, log
entry 72). -/
def decidePieces (s : State) (port link : Nat) (whole : Req) (rs : List Req) (agreement : Bool) : Decision :=
  let race := link / 4
  let here := rs.filter (isHome s)
  let mem := here.filter (fun r => addrSpace r.addr == 0)
  let site := (portEntry s port).kind == .site
  -- row 7
  let check := fun (r : Req) =>
    match addrSpace r.addr with
    | 0 => spaceCheck s r.origin r.op r.cls (addrOffset r.addr) r.len
    | 1 => if r.op == .sluicePut || r.op == .sluiceGet then (if pieceOk s s.node r.addr r.origin false then none else some .refusedIsolation)
           else windowCheck s r.origin r.op (addrOffset r.addr) r.len
    | 2 => if agreement then none else ctlCheck s r.party r.origin (addrOffset r.addr) r.len (r.op != .load)
    | _ => some .faultUnmapped
  let combined := whole.op == .confRead || whole.op == .confAtomic
  match (if site || isMessage whole.op then none else ecMiss s race mem) with
  | some m => { disp := .hold 64, whole, emiss := some m }
  | none =>
  match (if site || isMessage whole.op || combined then none else here.findSome? check) with
  | some st => { disp := .refuse st, whole }
  | none =>
  if mem.any (fun r => match ecLook s race r.party (addrOffset r.addr) with | some e => e.fenced | none => fencedAt s (addrOffset r.addr))
      && !isMessage whole.op then { disp := .refuse .domainDown, whole }
  else
  let k := s.link link
  let wr := isWriteOp whole.op
  let page := page4k whole.addr
  let held := k.held.find? (fun h => h.page == page && h.asid == whole.asid && h.tag != whole.tag)
  let recorded := k.held.any (fun h => h.tag == whole.tag)
  -- a line's entry in row 10 holds neither the results of its eviction nor what crosses it (R134, R135; log entry 62)
  let passes := whole.op == .snpRsp || whole.op == .wbDirty || whole.op == .evict
  if wr && held.isSome then { disp := .hold ((held.map (·.slots)).getD 16), whole }
  else if wr && 16 ≤ k.held.length && !recorded then { disp := .hold 16, whole }
  else if mem.any (fun r => s.net.holds.any (fun h => match h with
      | .line l => !passes && (linesOf (addrOffset r.addr) r.len).contains l
      | .page p => (pagesOf (addrOffset r.addr) r.len).contains p)) then { disp := .hold 32, whole }
  else
  let reads := countsAsRead whole.op whole.opf
  let rs := rs.map (queued s)
  if (if reads then 8192 else 4096) ≤ portOutstanding s port reads then { disp := .hold 16, whole }
  else if here.any (fun r => addrSpace r.addr == 1 && r.op == .store && !stageRoom s (addrOffset r.addr)) then { disp := .hold 8, whole, reqs := rs }
  else if whole.op != .domainNotice && !agreement && !creditsFor s (stationOf whole.src) rs then { disp := .hold 8, whole }
  else
  -- row 13
  let provisional := (whole.op == .load || whole.op == .rdShared) && whole.provOk && !opAcquire whole.opf && declares s port 27
    && rs.length == 1 && rs.all (fun r => r.cls == .coherent && isHome s r)
    && (partyRec s whole.party).hotWays != 0
  match provisional, freePtag s port with
  | true, some t => { disp := .provisional, whole, reqs := rs.map (fun r => { r with ptag := some t }) }
  | _, _ => { disp := .accept, whole, reqs := rs }

/-- The disposition of a request header on a link of a port, all rows of Table 04-8. A partner homes no extent, so a snoop from it fails the
check of R131; a piece from another site waits for party 15 (DESIGN CHOICE, log entry 72). The header has no place for DURABLE (Table 04-3), so a
request of a switch plane is taken as not DURABLE (DESIGN CHOICE, log entry 68). -/
def decide' (s : State) (port link : Nat) (h : ReqHdr) : Decision :=
  let pe := portEntry s port
  let onSwitch := pe.kind == .switch
  let op := opOf h.opcode
  -- a copy of a MCAST_STORE is a STORE at that OFFSET here, whatever its NODE field holds (R184)
  let h := if onSwitch && op == some .mcastStore then { h with addr := poolAddr s.node 0 (addrOffset h.addr) } else h
  let memSpace := addrSpace h.addr ≤ 1
  let agreement := onSwitch && isAgreement s h
  let gen := serCmp 16 h.gen s.hw.compGen
  let area := if addrNode h.addr == s.node && addrSpace h.addr == 0 then
      areaCheck s h.origin (op.getD .load) (addrOffset h.addr) h.len else none
  let party := if pe.kind == .partner then pe.party
    else if pe.kind == .site then 15
    else match area with
      | some (g, _) => g.party
      | none => (localParty s h.origin).getD 15
  let origin := if pe.kind == .partner then ⟨s.node, pe.party⟩ else h.origin
  let whole : Req := {
    op := op.getD .load, addr := h.addr, va := h.addr, len := h.len, origin, party, src := .port port link, tag := h.tag
    cls := if pe.kind == .partner then .priv else (classOf h.cls).getD .any, tclass := tclassOf h.tclass
    epoch := h.epoch, gen := h.gen, provOk := h.provOk, opf := h.opf, asid := if pe.kind == .partner then some h.asid else none }
  -- row 1
  if onSwitch && !agreement && gen != .same then
    { disp := .refuse .staleMap, whole, behind := gen == .newer && !s.map.behind.contains h.origin.node }
  else
  -- row 2
  match s.net.tags.find? (fun t => t.port == port && t.tag == h.tag) with
  | some t => { disp := t.disp, whole }
  | none =>
  -- row 3
  if s.map.teardown then { disp := .refuse .staleMap, whole }
  else if pe.kind != .partner && memSpace && s.map.state == .forming then { disp := .refuse .staleMap, whole }
  else if onSwitch && memSpace && (s.map.state != .agreed || !s.map.pool.contains h.origin.node) then
    { disp := .refuse .staleMap, whole }
  else if !s.boot.ready && pe.kind != .partner && memSpace then { disp := .refuse .staleMap, whole }
  else if !s.boot.ready && pe.kind == .partner then { disp := .hold 16383, whole }
  else if s.flush.kind == .power then { disp := .hold 16383, whole }
  else
  -- row 4
  let opBad : Bool := match op with
    | none => true
    | some o => !opOnPort o pe.kind || !lengthOk o h.len h.data h.opf || !flagsOk o h.opf || !opFieldsOk o h.opf
        || (pe.kind == .partner && isCachingOp o && !declares s port 25)
  if opBad then { disp := .refuse .faultPermission, whole }
  else if pe.kind == .partner && 2 ^ 57 ≤ h.addr then { disp := .refuse .faultUnmapped, whole }
  else
  let o := op.getD .load
  let combined := o == .confRead || o == .confAtomic
  -- row 5
  let originBad : Bool :=
    if pe.kind == .partner then pe.party < 2 || 7 < pe.party || isSnoop o || (o == .snpRsp && !answersSnoop s pe.party h)
    else if pe.kind == .site then !pieceOk s (addrNode h.addr) h.addr h.origin true
    else if agreement then false
    else if isMessage o then !messageOk s o h
    else if combined || area.isSome then false
    else (localParty s h.origin).isNone || (h.origin.node == s.node && o != .mcastStore)
  if originBad then { disp := .refuse .refusedIsolation, whole }
  else if tclassOf h.tclass == .maintenance then { disp := .refuse .refusedIsolation, whole }
  else if pe.kind == .partner && tclassOf h.tclass == .mill then { disp := .refuse .faultPermission, whole }
  else
  -- row 6
  if pe.kind == .partner then
    let c := ctxOf s pe.party h.asid
    let whole := { whole with tgen := (c.map (·.gen)).getD 0 }
    match translateWith (cacheLook s (link / 4) pe.party h.asid) c.isSome h.addr h.len o with
    | .miss a => { disp := .hold 64, whole, miss := some a, missAsid := h.asid }
    | .fault st _ => { disp := .refuse st, whole }
    | .pieces ps => decidePieces s port link whole (pieceReqs whole (cutPieces ps)) false
  else decidePieces s port link whole [whole] agreement

/-! ## Taking what was accepted -/

/-- R110: a HOLD to a write or atomic records its page and TAG; an acceptance removes the record. -/
def recordHold (link : Nat) (r : Req) (d : Disp) (s : State) : State :=
  if !isWriteOp r.op then s
  else match d with
    | .hold n => updLink link (fun k =>
        if k.held.any (fun h => h.page == page4k r.addr && h.asid == r.asid) || 16 ≤ k.held.length then k
        else { k with held := k.held ++ [⟨page4k r.addr, r.tag, n, r.asid⟩] }) s
    | .accept | .provisional => updLink link (fun k => { k with held := k.held.filter (fun h => h.tag != r.tag) }) s
    | .refuse _ => s

/-- Whether two confluent requests may be merged (R185). -/
def mayMerge (s : State) (a b : Req) : Bool :=
  a.op == b.op && a.addr == b.addr && a.len == b.len && a.gen == b.gen && a.tclass == b.tclass && a.cls == b.cls
  && field a.opf 57 7 == field b.opf 57 7
  && (a.op == .load || field a.opf 49 7 == field b.opf 49 7)
  && (a.origin == b.origin || a.cls == .sharedRo)
  && (!isSealed s || a.party == b.party)

/-- Whether a request may be combined at all (R185, R186). -/
def mayCombine (r : Req) : Bool :=
  (r.op == .load || r.op == .atomic) && opConfluent r.opf && r.ptag.isNone && r.join.isNone && addrSpace r.addr == 0
  && (r.op != .load || r.len ≤ 2048)

/-- R187: a combined request is admitted for the local party of its first entry whose origin passes R24; none when no entry does. -/
def combinedParty (s : State) (r : Req) : Option Nat :=
  let k := if r.op == .confRead then 8 else 32
  let n := if r.op == .confRead then field r.opf 51 5 + 1 else field r.opf 44 5 + 1
  (chop k n r.data).findSome? (fun b => localParty s (confOrigin b))

/-- The combined request of a closed combination (R187, Table 07-6): its header is that of entry 0. -/
def combinedReq (c : Combo) : Req :=
  let n := c.entries.length
  let isRead := c.head.op == .load
  let entry := fun (r : Req) =>
    let o := toBytes (at' r.origin.node 4 + r.origin.party) 2 ++ toBytes r.epoch 1 ++ toBytes 0 5
    if isRead then o else o ++ padTo 8 (r.data.take r.len) ++ padTo 8 ((r.data.drop r.len).take r.len) ++ toBytes 0 8
  let opf := if isRead then at' (field c.head.opf 57 7) 57 + at' (n - 1) 51
             else at' (field c.head.opf 57 7) 57 + at' (field c.head.opf 49 7) 49 + at' (n - 1) 44
  let opf := BitVec.ofNat 64 (opf - (if bit opf 60 then 2 ^ 60 else 0))
  { c.head with op := if isRead then .confRead else .confAtomic, src := .combo c.id, opf, data := c.entries.flatMap entry, ptag := none }

/-- The form in which an accepted request enters an admission queue here; none for one that does not. -/
def entersHere (s : State) (r : Req) : Option Req :=
  if isMessage r.op then some r
  else if r.op == .confRead || r.op == .confAtomic then (combinedParty s r).map (fun p => { r with party := p })
  else if isHome s r then some r
  else none

/-- An accepted request of a port on its way to its home: to the control logic, to its queue, or to another node. -/
def goHome (r : Req) (s : State) : State :=
  if r.op == .domainNotice || (r.party == 15 && addrSpace r.addr == 2) then toPipe r s
  else match entersHere s r with
    | some r => enqueue r s
    | none => if r.op == .confRead || r.op == .confAtomic then complete r .refusedIsolation [] s else forward r s

/-- A seal is not forwarded before an earlier request of its source to its destination, which may wait in a combination (R160). -/
def sealAfter (r : Req) (c : Combo) : Bool :=
  opSeal r.opf && (c.entries ++ c.behind).any (fun e => sameSource e r && addrNode e.addr == addrNode r.addr)

/-- An open combination that a request waits behind (R153, R160, R186). -/
def comboBefore (s : State) (r : Req) : Option Combo := s.net.combos.find? (fun c => comboCovers r c || sealAfter r c)

/-- A request that enters its queue directly behind another (R186): with it where that still crosses the fabric core, else in the next place.
The entry that the next request follows comes with the state. -/
def enterBehind (lead : QEntry) (r : Req) (s : State) : QEntry × State :=
  let (r, s) := fresh { r with queueRace := some lead.race } s
  if lead.crossing then
    let add := fun (q : QEntry) => if q.req.id == lead.req.id then { q with behind := q.behind ++ [r] } else q
    (lead, { s with weir := { s.weir with queue := s.weir.queue.map add } })
  else
    let q := entryBehind lead r
    (q, { s with weir := { s.weir with queue := s.weir.queue.flatMap (fun x => if x.req.id == lead.req.id then [x, q] else [x]) } })

/-- The requests that waited behind a closed combination follow it: behind another open one that covers them, in their queue directly behind
the combined request, or to their home (R186). -/
def followCombo (lead : Option QEntry) : List Req → State → State
  | [], s => s
  | r :: t, s =>
    match comboBefore s r with
    | some c => followCombo lead t (waitBehind c r s)
    | none =>
      match lead, (if r.party == 15 && addrSpace r.addr == 2 then none else entersHere s r) with
      | some q, some x =>
        if q.race == raceFor s x then
          let (q, s) := enterBehind q x s
          followCombo (some q) t s
        else followCombo lead t (goHome r s)
      | _, _ => followCombo lead t (goHome r s)

/-- A combination goes on as one combined request, or as its single request; requests that waited behind it follow (R186). -/
def closeCombo (c : Combo) (s : State) : State :=
  let s := { s with net := { s.net with combos := s.net.combos.filter (fun x => x.id != c.id) } }
  let id := if c.entries.length ≤ 1 then c.head.id else s.weir.nextId
  let s := if c.entries.length ≤ 1 then forward c.head s
    else forward (combinedReq c) { s with net := { s.net with combosOut := s.net.combosOut ++ [c] } }
  followCombo (s.weir.queue.find? (fun q => q.req.id == id)) c.behind s

/-- An accepted request of a port taken into the node (R186): into an open combination, as a combination of its own, behind one that
covers one of its granules, or to its home. A combination closes at 32 entries; none takes a request past one that waits behind it. -/
def takeIn (r : Req) (s : State) : State :=
  match s.net.combos.find? (fun c => mayCombine r && mayMerge s c.head r && !c.behind.any (sameGranule r)
      && !s.net.combos.any (fun x => x.id != c.id && sealAfter r x)) with
  | some c =>
    let c' := { c with entries := c.entries ++ [r] }
    let s := { s with net := { s.net with combos := s.net.combos.map (fun x => if x.id == c.id then c' else x) } }
    if 32 ≤ c'.entries.length then closeCombo c' s else s
  | none =>
    match comboBefore s r with
    | some c => waitBehind c r s
    | none =>
      if mayCombine r then
        let id := s.weir.nextId
        { s with weir := { s.weir with nextId := id + 1 }
                 net := { s.net with combos := s.net.combos ++ [{ id, head := r, entries := [r] }] } }
      else goHome r s

/-- The pieces of an accepted request taken in, in ascending address order (R121). Where one homed on another node fails the checks of R42
by that node's slice, none is performed and the response carries the failure, since the disposition does not look at it (R54, R107). -/
def takeAll (whole : Req) (rs : List Req) (data : Bytes) (s : State) : State :=
  let rs := rs.map (fun r =>
    let off := r.va - whole.va
    let k := if data.length < whole.len then 2 else 1      -- BF16 contributions of a REDUCE
    { r with data := if r.len == whole.len then data else (data.drop (off / k)).take (r.len / k) })
  let away := if rs.length ≤ 1 then [] else rs.filter (fun r => !isHome s r)
  if !wholeOk whole rs then complete whole .faultPermission [] s
  else match away.findSome? (pieceCheck s) with
    | some st => complete whole st [] s
    | none =>
      let (rs, s) := joinPieces { whole with data } rs s
      rs.foldl (fun s r => takeIn r s) s

/-- Searches that the decision started (R56, R107). -/
def noteMisses (link : Nat) (d : Decision) (s : State) : State :=
  let s := match d.miss with
    | some va => { s with net := { s.net with rmiss := s.net.rmiss ++ [(link / 4, d.whole.party, d.missAsid, va)] } }
    | none => s
  match d.emiss with
  | some (off, p) => { s with net := { s.net with emiss := s.net.emiss ++ [(link / 4, off, p)] } }
  | none => s

/-- The cache entries a request used are the most recently used of their caches (R55, R107). -/
def noteUse (link : Nat) (d : Decision) (s : State) : State :=
  let mine := fun (e : RangeEntry) => e.race == link / 4 && e.party == d.whole.party && some e.asid == d.whole.asid
    && e.lo < d.whole.va + d.whole.len && d.whole.va < e.hi
  let used := fun (e : ExtentEntry) => e.race == link / 4 && d.reqs.any (fun r => isHome s r && e.party == ecParty s r.party
    && e.lo < addrOffset r.addr + r.len && addrOffset r.addr < e.hi)
  { s with net := { s.net with rcache := s.net.rcache.filter mine ++ s.net.rcache.filter (fun e => !mine e)
                               ecache := s.net.ecache.filter used ++ s.net.ecache.filter (fun e => !used e) } }

/-- A source of a newer composition, noted and logged once (R48). -/
def noteBehind (d : Decision) (s : State) : State :=
  if d.behind then
    logEv 0x0204 sevWarning 15 0 d.whole.origin.node d.whole.gen
      { s with map := { s.map with behind := insertNat d.whole.origin.node s.map.behind } }
  else s

/-- A STORE held for want of a staging block has the oldest block shipped (R194). -/
def noteStage (d : Decision) (s : State) : State :=
  if d.disp == .hold 8 && d.whole.op == .store then
    (d.reqs.map (·.addr)).foldl (fun s a =>
      if addrNode a == s.node && addrSpace a == 1 then needStage (addrOffset a) s else s) s
  else s

/-- The TAG of an accepted request, and the PTAGs of its provisional pieces (R106, R137). -/
def noteTags (port link : Nat) (d : Decision) (s : State) : State :=
  match d.disp with
  | .accept | .provisional =>
    let t : TagOut := { port, tag := d.whole.tag, link, disp := d.disp, isRead := countsAsRead d.whole.op d.whole.opf
                        answerless := !hasResponse d.whole.op
                        party := d.whole.party, asid := d.whole.asid, tgen := d.whole.tgen }
    let ps := d.reqs.filterMap (fun r => r.ptag.map (fun t =>
      ({ port, ptag := t, tag := d.whole.tag, link, line := lineOf (addrOffset r.addr) } : PTagUse)))
    { s with net := { s.net with tags := s.net.tags ++ [t], ptags := s.net.ptags ++ ps } }
  | _ => s

/-- A disposition's effects on the node beside the answer: searches begun, the TAG outstanding, the PTAG in use, the
held-page list. -/
def noteDecision (port link : Nat) (d : Decision) (dup : Bool) (s : State) : State :=
  if dup then s else noteTags port link d (noteStage d (recordHold link d.whole d.disp (noteBehind d (noteUse link d (noteMisses link d s)))))

end Sys2Proof.Machine
end

