-- ==== Sys2Proof/Machine/Link.lean ====
section
/-!
DEFINITION. Ezlet links: flits sent and received, acknowledgement and replay, credits, retraining, and links leaving and joining
their ports (R93 to R106, R137, R412, R413, R422), with the meanings of the link commands.
-/
namespace Sys2Proof.Machine

open Sys2Proof

/-! ## Leaving a port, retraining, violations -/

/-- The number of links of a port that are up changes (R102): requests already sent to a page, those that are to be sent again among them, are
acknowledged before a new one to it goes on its new link. -/
def remap (p : Nat) (s : State) : State :=
  let again := fun (x : Sent) => s.net.txq.any (fun t => t.isReq && t.resent && t.port == p && t.tag == x.tag)
  let mark := fun (x : Sent) => if x.port == p && (x.flitSeq.isSome || again x) then { x with old := true } else x
  { s with net := { s.net with sent := s.net.sent.map mark } }

/-- A link retrains, keeping its SEQ state (R101); every PTAG sent on it without a CONF is cancelled on a link that is up
(R137). -/
def retrainLink (l : Nat) (s : State) : State :=
  let s := updLink l (fun k => { k with mode := .retraining, discarding := false, nakTimer := false, peerNaks := 0, nakCount := 0
                                        counters := { k.counters with retrains := min 0xFFFF (k.counters.retrains + 1) } }) s
  let mine := s.net.ptags.filter (fun p => p.link == l && p.answered && !p.resolved)
  let s := mine.foldl (fun s p => confEntry p 2 s) s
  let mark := fun (p : PTagUse) => if p.link == l && p.answered then { p with resolved := true } else p
  remap ((portOf s l).getD 10) { s with net := { s.net with ptags := s.net.ptags.map mark } }

/-- The ordinary responses that follow the PTAGs a link cancelled: the reads go back to be served (R137). -/
def rereadCancelled (l : Nat) (s : State) : State :=
  let mine := s.net.ptags.filter (fun p => p.link == l && p.answered && p.resolved)
  let s := { s with net := { s.net with ptags := s.net.ptags.map (fun p => if p.link == l then { p with req := none } else p) } }
  (mine.filterMap (·.req)).foldl (fun s r => toPipe { r with ptag := none, provOk := false } s) s

/-- Whether every link of a port is down: none is up or retraining in it. -/
def portIsDown (s : State) (p : Nat) : Bool :=
  (portLinks (portEntry s p)).all (fun l => !(s.link l).inPort || ((s.link l).mode != .up))

/-- Ports all of whose links are down begin their count (R142); ports that came back end it. -/
def refreshPorts (s : State) : State :=
  let down := (List.range 10).filter (fun p => (portEntry s p).valid && portIsDown s p)
  { s with net := { s.net with portDown := down } }

/-- Headers each named once, in the order of their first naming. -/
def eachOnce : List TxItem → List TxItem → List TxItem
  | [], acc => acc
  | t :: rest, acc => eachOnce rest (if acc.any (fun u => u.isReq == t.isReq && u.tag == t.tag) then acc else acc ++ [t])

/-- What a link that leaves its port has sent or begun without its being acknowledged: headers, and headers whose data is not all
acknowledged, in SEQ order (R101; log entry 61). -/
def unacked (k : Link) : List TxItem := eachOnce (k.kept.flatMap (fun x => x.running ++ x.items) ++ k.tx) []

/-- R101, R413: a link leaves its port. The headers, data and responses of its unacknowledged flits go to the remaining links
in SEQ order before anything else, but for headers whose response has arrived; its CONF entries go to a link that is up (R137), its TAGs
are held over, and the removal is logged with its reason. -/
def leavePort (l reason : Nat) (s : State) : State :=
  match portOf s l with
  | none => s
  | some p =>
    let k := s.link l
    let s := updLink l (fun k => { k with inPort := false, mode := .down, kept := [], tx := [], confs := [], answers := [], ansTags := []
                                          retryDue := true, replayAt := none, discarding := false, retrainFails := 0 }) s
    let other := ((upLinks s p)[0]?).getD l
    let live := fun (t : TxItem) => !t.isReq || s.net.sent.any (fun x => x.port == p && x.tag == t.tag)
    let again := ((unacked k).filter live).map (fun t => { t with off := 0, resent := true, link := if t.isReq then t.link else other })
    let s := { s with net := { s.net with
      txq := again ++ s.net.txq.map (fun t => if t.port == p && t.link == l && !t.isReq then { t with link := other } else t)
      sent := s.net.sent.map (fun x => if x.port == p && again.any (fun t => t.isReq && t.tag == x.tag) then
          { x with flitSeq := none, disp := none, doubt := false, phase := 0 } else x)
      tags := s.net.tags.map (fun t => if t.port == p && t.link == l then { t with holdover := some l } else t) } }
    let s := rereadCancelled l (retrainLink l s)
    let s := updLink l (fun k => { k with mode := .down }) s
    let s := updLink other (fun m => { m with confs := m.confs ++ k.confs ++ k.kept.flatMap (·.confs) }) s
    refreshPorts (logEv 0x0602 sevWarning 15 0 l reason s)

/-- A protocol violation on a link: a partner is declared dead (R142); a switch-plane link retrains, or leaves its port if the
violation recurs within 1 s, 200,000,000 flit slots (R143). -/
def linkViolation (l : Nat) (s : State) : State :=
  match portOf s l with
  | none => s
  | some p =>
    let pe := portEntry s p
    if pe.kind == .partner then declareDead ⟨s.node, pe.party⟩ 5 s
    else
      let k := s.link l
      let again := k.violated && k.slot < k.violatedAt + 200000000
      let s := updLink l (fun k => { k with violated := true, violatedAt := k.slot }) s
      let s := setAlert alertSwitch (logEv 0x0206 sevWarning 15 0 l (b2n again) s)
      if again then leavePort l 2 s else refreshPorts (retrainLink l s)

/-! ## Sending -/

/-- The class a data credit is counted in: demand, bulk, mill (R97). A maintenance header takes demand credits, its class having none of
its own (log entry 61). -/
def creditIdx (tc : TClass) : Nat :=
  match tc with
  | .demand => 0 | .bulk => 1 | .mill => 2 | .maintenance => 0

/-- Data credits of n bytes, in 512-byte units (R97). -/
def creditUnits (n : Nat) : Nat := (n + 511) / 512

/-- The link a waiting header goes on: a request's page is mapped when it is sent (R102), a response keeps its link. -/
def linkFor (s : State) (t : TxItem) : Nat :=
  if t.isReq then (routeLink s t.port (t.page * 4096)).getD t.link else t.link

/-- Whether a request may go on the present mapping (R102): one that is re-sent may; a new one once every request to its page sent before
the mapping changed, or re-sent since, is acknowledged. -/
def pageFree (s : State) (t : TxItem) : Bool :=
  t.resent || !(s.net.sent.any (fun x => x.port == t.port && page4k x.req.addr == t.page && x.old && x.phase == 0))

/-- Whether a request of a port goes on by another: a node that forwards (R160). -/
def isForwarded (r : Req) : Bool :=
  match r.src with
  | .port .. | .combo _ => true
  | _ => false

/-- DURABLE writes of a request's sources that this node took before it, for itself or another home, and that are not complete (R81). -/
def durableBefore (s : State) (r : Req) : Bool :=
  let sent := s.net.sent.filter (fun x => isForwarded x.req)
  (inHand s ++ s.weir.queue.map (·.req) ++ s.weir.pipe ++ s.weir.waitMove ++ s.weir.parked.map (·.2.req) ++ s.store.parkedW ++ s.store.wt.map (·.req)
    ++ s.coh.txns.filterMap (·.req) ++ s.coh.txns.filterMap (·.evictFor) ++ s.coh.waits ++ s.coh.waitWay ++ sent.map (·.req)
    ++ s.net.combosOut.flatMap (·.entries)).any (fun q =>
      q.id < r.id && q.durable && isWriteOp q.op && sameSource q r)

/-- Whether a forwarded header may go as far as seals are concerned (R160): a seal goes once every request of its source that was forwarded
to its destination before it is accepted, and what its source sent after it follows it. A persist point also waits for its source's earlier
DURABLE writes that this node holds or has forwarded (R81). -/
def sealFree (s : State) (t : TxItem) : Bool :=
  match s.net.sent.find? (fun x => t.isReq && x.port == t.port && x.tag == t.tag) with
  | none => true
  | some x =>
    let before := (s.net.sent.takeWhile (fun y => !(y.port == x.port && y.tag == x.tag))).filter (fun y =>
      sameSource y.req x.req && addrNode y.req.addr == addrNode x.req.addr && isForwarded y.req)
    !isForwarded x.req || !(opSeal x.req.opf && opPersist x.req.opf && durableBefore s x.req) && !before.any (fun y => if opSeal x.req.opf then y.phase != 2 else opSeal y.req.opf && y.flitSeq.isNone)

/-- The headers a link sends in one flit: up to four request headers and ten response headers, in queue order, each with the
credits its data needs. -/
def pickItems (s : State) (l : Nat) : List TxItem → Nat → Nat → List Nat → List TxItem
  | [], _, _, _ => []
  | t :: rest, nq, nr, cr =>
    if linkFor s t != l || portOf s l != some t.port || !sealFree s t then pickItems s l rest nq nr cr
    else if t.isReq then
      let u := creditUnits t.data.length
      let i := creditIdx t.tclass
      if nq < 4 && u ≤ nth 0 cr i && pageFree s t then
        t :: pickItems s l rest (nq + 1) nr (setNth cr i (nth 0 cr i - u))
      else pickItems s l rest 4 nr cr
    else if nr < 10 then t :: pickItems s l rest nq (nr + 1) cr
    else pickItems s l rest nq nr cr

/-- Cells and kinds of a flit: request headers from cell 1, response headers from cell 5, data in the other cells in
ascending order (R95, R96). -/
def layCells (reqs rsps data : List Cell) : List (Nat × Cell) :=
  let at14 := fun (i : Nat) =>
    if i ≤ reqs.length && i ≤ 4 then (1, nth {} reqs (i - 1))
    else if 5 ≤ i && i - 5 < rsps.length then (2, nth {} rsps (i - 5))
    else
      let before := ((rangeFrom 1 (i - 1)).filter (fun j => !(j ≤ reqs.length && j ≤ 4) && !(5 ≤ j && j - 5 < rsps.length))).length
      if before < data.length then (3, nth {} data before) else (0, {})
  (rangeFrom 1 14).map at14

/-- Data bytes as cells. Where the stream runs out, zeros fill the last one (log entry 61). -/
def dataCells : Nat → Bytes → List Cell
  | 0, _ => []
  | n + 1, bs => if bs.isEmpty then [] else bytesCell (bs.take 32) :: dataCells n (bs.drop 32)

/-- The stream advanced by n bytes: the headers that sent some of them, and those whose data is still running. -/
def runStream : Nat → List TxItem → List TxItem × List TxItem
  | _, [] => ([], [])
  | n, t :: rest =>
    if n == 0 then ([], t :: rest)
    else
      let left := t.data.length - t.off
      if n < left then ([t], { t with off := t.off + n } :: rest)
      else
        let (a, b) := runStream (n - left) rest
        (t :: a, b)

/-- CELL_MAP of fourteen kinds. -/
def cellMapOf (ks : List Nat) : Nat := (ks.zipIdx).foldl (fun a x => a + x.1 * 4 ^ x.2) 0

/-- Cell 0 (Table 04-2). -/
def cell0 (k : Link) (seq : Nat) (sequenced replay : Bool) (map : Nat) : Cell :=
  { w0 := BitVec.ofNat 64 (at' seq 52 + at' k.rxSeq 40 + at' (b2n k.sendNak) 39 + at' (b2n sequenced) 38 + at' (b2n replay) 37
      + at' map 8)
    w1 := BitVec.ofNat 64 (at' (nth 0 k.creditsOut 0) 48 + at' (nth 0 k.creditsOut 1) 32 + at' (nth 0 k.creditsOut 2) 16) }

/-- The answer cell of a slot: its dispositions and up to five CONF entries (Table 04-5); its CRC comes with the flit. The data kind is
never sent (log entry 61). -/
def answerCell (k : Link) : Cell :=
  let ds := k.answers
  let cs := k.confs.take 5
  let bytes := toBytes (at' ds.length 4 + cs.length) 1 ++ toBytes (if ds.isEmpty then 0 else k.ansSeq) 2
    ++ padTo 8 (ds.flatMap (fun d => toBytes (dispWord d) 2))
    ++ padTo 15 (cs.flatMap (fun c => toBytes (at' c.1 22 + c.2) 3)) ++ toBytes 0 2
  bytesCell (padTo 32 bytes)

/-- The hello flit's words (R422): capability word 0 and 192 units of each class. -/
def helloCells (k : Link) (word0 : W64) (replay : Bool) : Cell :=
  { cell0 { k with creditsOut := [0, 0, 0] } 0 true replay 0 with
    w2 := word0, w3 := BitVec.ofNat 64 (at' 192 48 + at' 192 32 + at' 192 16) }

/-- Capability word 0 (Table 00-4). -/
def capWord0 (s : State) : Nat :=
  at' 1 56 + at' (deviceId s) 32 + at' 8 28 + at' 1 27 + at' 1 26 + at' 1 25 + at' (b2n (hardened s)) 24

/-- A flit sent, with its CRC (R99). -/
def sendFlit (l : Nat) (c0 : Cell) (cells : List Cell) (ans : Cell) (s : State) : State :=
  emit (.flit l { cells := sealFlit ([c0] ++ cells ++ [ans]) }) s

/-- The slot's NAK and credits have gone out. -/
def cell0Sent (k : Link) : Link :=
  { k with sendNak := false, nakTimer := k.nakTimer || k.sendNak, creditsOut := [0, 0, 0] }

/-- The same, and the answers owed in the slot are over. -/
def slotOver (k : Link) : Link := { cell0Sent k with answers := [], ansTags := [] }

/-- What a flit with an answer cell uses up beside that: the CONF entries it carried. -/
def usedUp (k : Link) : Link := { slotOver k with confs := k.confs.drop 5 }

/-- A message without a response is answered by its ACCEPT: its TAG waits for the acknowledgement of the flit that carried that (R106,
R127). -/
def noteAnswered (l seq : Nat) (tags : List Nat) (s : State) : State :=
  let port := (portOf s l).getD 10
  let mark := fun (t : TagOut) => if t.port == port && t.answerless && !t.done && tags.contains t.tag then
    { t with done := true, doneSeq := seq, link := l } else t
  { s with net := { s.net with tags := s.net.tags.map mark } }

/-- The first flit after a training: the hello flit, with SEQ 0 (R422). -/
def sendHello (l : Nat) (s : State) : State :=
  let k := s.link l
  let c0 := helloCells k (BitVec.ofNat 64 (capWord0 s)) false
  let s := updLink l (fun k => { slotOver k with
    creditsOut := k.creditsOut, helloSent := true, txSeq := 0
    kept := k.kept ++ [{ seq := 0, cells := List.replicate 14 {}, map := 0, hello := true }] }) s
  sendFlit l c0 (List.replicate 14 {}) (answerCell { k with confs := [], answers := [] }) s

/-- A kept flit sent again, with an answer cell of its own for this slot (R99, R100); the CONF entries that carries are this flit's from
now on (R137). -/
def sendReplay (l : Nat) (x : Kept) (s : State) : State :=
  let k := s.link l
  let next := (k.kept.dropWhile (fun y => y.seq != x.seq)).tail.head?.map (·.seq)
  let count := fun (c : Counters) => { c with replayed := min 0xFFFFFFFF (c.replayed + 1) }
  if x.hello then
    let c0 := helloCells k (BitVec.ofNat 64 (capWord0 s)) true
    let s := updLink l (fun k => { slotOver k with creditsOut := k.creditsOut, replayAt := next, counters := count k.counters }) s
    sendFlit l c0 x.cells (answerCell { k with confs := [], answers := [] }) s
  else
    let again := fun (y : Kept) => if y.seq == x.seq then { y with confs := k.confs.take 5 } else y
    let s := noteAnswered l x.seq k.ansTags s
    let s := updLink l (fun k => { usedUp k with
      kept := k.kept.map again, replayAt := next, counters := count k.counters
      lastNoReq := if x.items.any (·.isReq) then k.lastNoReq else k.slot }) s
    sendFlit l (cell0 k x.seq true true x.map) x.cells (answerCell k) s

/-- Sent and outstanding headers once a link has sent some in the flit with SEQ seq. The PTAG of a read that was answered in the ordinary
way is free again (R137). -/
def noteSent (l seq : Nat) (items : List TxItem) (n : NetSt) : NetSt :=
  let asked := fun (port tag : Nat) => items.any (fun t => t.isReq && t.tag == tag && t.port == port)
  let told := fun (port tag : Nat) => items.any (fun t => !t.isReq && t.tag == tag && t.port == port)
  { n with
    txq := n.txq.filter (fun t => !items.contains t)
    sent := n.sent.map (fun x => if asked x.port x.tag then
        { x with flitSeq := some seq, link := l, phase := 0, disp := none, doubt := false } else x)
    tags := n.tags.map (fun t => if told t.port t.tag then { t with done := true, doneSeq := seq, link := l } else t)
    ptags := n.ptags.filter (fun p => p.answered || !told p.port p.tag) }

/-- Data credits once some headers have been sent (R97). -/
def spendCredits (items : List TxItem) (cr : List Nat) : List Nat :=
  (items.filter (·.isReq)).foldl (fun cr t =>
    setNth cr (creditIdx t.tclass) (nth 0 cr (creditIdx t.tclass) - creditUnits t.data.length)) cr

/-- An empty flit: no header, data, DISP or CONF entry, unsequenced (R94, R412). Answers owed while no sequenced flit may go out wait (R99;
log entry 61). -/
def sendEmpty (l : Nat) (s : State) : State :=
  let k := s.link l
  let s := updLink l (fun k => { cell0Sent k with lastEmpty := k.slot, lastNoReq := k.slot, emptyDue := false }) s
  sendFlit l (cell0 k k.txSeq false false 0) (List.replicate 14 {}) (answerCell { k with answers := [], confs := [] }) s

/-- A new flit: headers waiting for the link, data that is running, the answers owed (R94 to R98). No header or data cell goes out while 256
flits that carry some wait for their acknowledgement, and no REQ_HDR cell in the slot by which R412 asks for a flit without one. -/
def sendSequenced (l : Nat) (s : State) : State :=
  let k := s.link l
  let full := 256 ≤ (k.kept.filter (fun x => x.map != 0)).length
  let nq := if k.lastNoReq + 2047 ≤ k.slot then 4 else 0
  let items := if full || !k.helloGot then [] else pickItems s l s.net.txq nq 0 k.credits
  let reqs := items.filter (·.isReq)
  let rsps := items.filter (fun t => !t.isReq)
  let stream := k.tx ++ (reqs ++ rsps).filter (fun t => !t.data.isEmpty)
  let dcells := if full then [] else dataCells (14 - reqs.length - rsps.length) (stream.flatMap (fun t => t.data.drop t.off))
  let (running, left) := runStream (32 * dcells.length) stream
  let laid := layCells (reqs.map (·.hdr)) (rsps.map (·.hdr)) dcells
  let map := cellMapOf (laid.map (·.1))
  let sequenced := map != 0 || !k.answers.isEmpty || !k.confs.isEmpty
  let seq := if sequenced then (k.txSeq + 1) % 4096 else k.txSeq
  let keep : Kept := { seq, cells := laid.map (·.2), map, items := reqs ++ rsps, running, confs := k.confs.take 5 }
  let s := noteAnswered l seq k.ansTags { s with net := noteSent l seq items s.net }
  let s := updLink l (fun k => { usedUp k with
    txSeq := seq, kept := if sequenced then k.kept ++ [keep] else k.kept
    credits := spendCredits items k.credits, tx := left
    lastNoReq := if reqs.isEmpty then k.slot else k.lastNoReq
    lastEmpty := if sequenced then k.lastEmpty else k.slot, emptyDue := k.emptyDue && sequenced }) s
  sendFlit l (cell0 k seq sequenced false map) (laid.map (·.2)) (answerCell k) s

/-- A flit that is no replay. Where its SEQ would make the unacknowledged flits span 2,048, only an idle flit goes out (R99); where an
empty flit is due, that, unless the slot owes answers (R412). -/
def sendFresh (l : Nat) (s : State) : State :=
  let k := s.link l
  if 2047 ≤ (k.txSeq + 4096 - k.peerAck) % 4096 || (k.emptyDue && k.answers.isEmpty) then sendEmpty l s else sendSequenced l s

/-- One flit slot of a link (R93, R94, R98 to R100, R422). -/
def slotFlit (l : Nat) (s : State) : State :=
  let s := updLink l (fun k => { k with slot := k.slot + 1 }) s
  let k := s.link l
  if !s.pins.serdes || !(k.mode == .up || k.mode == .helloWait) then s
  else if !k.helloSent then sendHello l s
  else match k.replayAt.bind (fun q => k.kept.find? (fun x => x.seq == q)) with
    | some x => sendReplay l x s
    | none => sendFresh l s

/-! ## Receiving -/

/-- A sequence number at or before an acknowledgement, modulo 4,096. -/
def seqAcked (ack q : Nat) : Bool := (ack + 4096 - q) % 4096 < 2048

/-- Cell 0 of a flit: acknowledgement, NAK and credits (R97, R99). A NAK makes the dispositions of what is replayed void (R105), and its
CONF entries wait for another answer cell (R137). A TAG held over ends with its hold-over (R106). -/
def takeCell0 (l : Nat) (c : Cell) (s : State) : State :=
  let k := s.link l
  let ack := field c.w0 40 12
  let nak := flag c.w0 39
  let kept := k.kept.filter (fun x => !seqAcked ack x.seq)
  let cr := [nth 0 k.credits 0 + field c.w1 48 16, nth 0 k.credits 1 + field c.w1 32 16, nth 0 k.credits 2 + field c.w1 16 16]
  let peerNaks := if nak then (if k.nakSeq == ack then k.peerNaks + 1 else 1) else if ack != k.peerAck then 0 else k.peerNaks
  let confsDone := (k.kept.filter (fun x => seqAcked ack x.seq)).flatMap (·.confs)
  let s := updLink l (fun k => { k with
    peerAck := ack, credits := cr, peerNaks, nakSeq := if nak then ack else k.nakSeq
    kept := if nak then kept.map (fun x => { x with confs := [] }) else kept
    replayAt := if nak then some ((ack + 1) % 4096) else k.replayAt
    confs := if nak then k.confs ++ (kept.flatMap (·.confs)) else k.confs }) s
  let port := (portOf s l).getD 10
  let acked := fun (t : TagOut) => t.port == port && t.link == l && t.done && seqAcked ack t.doneSeq
  let redo := fun (x : Sent) => nak && x.port == port && x.link == l && (x.flitSeq.map (seqAcked ack)) == some false
  let s := { s with net := { s.net with
    tags := (s.net.tags.filter (fun t => !(acked t && t.holdover.isNone))).map (fun t => if acked t then { t with ackd := true } else t)
    ptags := s.net.ptags.filter (fun p => !(p.port == port && confsDone.any (fun x => x.2 == p.ptag)))
    sent := s.net.sent.map (fun x => if redo x then { x with disp := none, doubt := false } else x) } }
  if 8 ≤ peerNaks then refreshPorts (retrainLink l s) else s

/-- A refused snoop: its local agent has broken R127 (R142). -/
def snoopRefused (x : Sent) (s : State) : State :=
  match (portEntry s x.port).kind with
  | .partner => declareDead ⟨s.node, (portEntry s x.port).party⟩ 4 s
  | _ => s

/-- A request of this node is answered DOMAIN_DOWN by its home: the domain of its origin falls here too (R141, R146). -/
def heardDown (st : Status) (r : Req) (s : State) : State :=
  if st == .domainDown && addrNode r.addr != s.node then
    match domainOfAgent s r.origin with
    | some d => if d.state == .up then fallDomain d.num 7 s else s
    | none => s
  else s

/-- Whether a request is part of an operation of which another node holds state between phases (R204): a sluice or mirror piece, a reduction
of a mill or a descriptor, a piece of an exchange descriptor. -/
def isPhase (s : State) (r : Req) : Bool :=
  match r.src with
  | .sluice .. | .mirror _ => true
  | .mill _ => r.op == .reduce
  | .rill n i _ => r.op == .reduce || s.rill.jobs.any (fun j => j.rill == n && j.index == i && (j.kind == 3 || j.kind == 4))
  | _ => false

/-- Whether the next hop of a port refuses requests to a node with STALE_MAP, as its last answer says. -/
def noteStale (x : Sent) (d : Disp) (s : State) : State :=
  let k := (x.port, addrNode x.req.addr)
  let l := s.net.stale.filter (· != k)
  { s with net := { s.net with stale := if d == .refuse .staleMap then l ++ [k] else l } }

/-- Whether every route of a request to its node refuses (R204): its party's ports, or those across the site. -/
def ownerGone (s : State) (x : Sent) : Bool :=
  let ps := if (portEntry s x.port).kind == .site then (portsOfKind s .site).filter (fun p => !(upLinks s p).isEmpty)
    else usablePorts s x.req.party
  isPhase s x.req && ps.all (fun p => s.net.stale.contains (p, addrNode x.req.addr))

/-- The owner of a request is lost: the request stays as an accepted one until `losses` ends its operation. -/
def noteGone (x : Sent) (s : State) : State :=
  let node := addrNode x.req.addr
  let stays := fun (y : Sent) => if y.port == x.port && y.tag == x.tag then { y with phase := 2, old := false } else y
  { s with net := { s.net with stale := s.net.stale.filter (fun k => k.2 != node), sent := s.net.sent.map stays
                               gone := s.net.gone ++ [((portEntry s x.port).kind == .site, node)] } }

/-- A disposition in force for a header this node sent (Table 04-6). A message without a response is then complete (R127). -/
def takeDisp (l : Nat) (x : Sent) (d : Disp) (s : State) : State :=
  let s := noteStale x d s
  let same := fun (y : Sent) => y.port == x.port && y.tag == x.tag
  let upd := fun (f : Sent → Sent) => { s with net := { s.net with sent := s.net.sent.map (fun y => if same y then f y else y) } }
  let drop := { s with net := { s.net with sent := s.net.sent.filter (fun y => !same y) } }
  match d with
  | .accept | .provisional =>
    if hasResponse x.req.op then upd (fun y => { y with phase := 2, old := false })
    else if x.req.op == .domainNotice then
      let n := field x.req.opf 42 14
      let a := agentOf (field x.req.opf 28 14)
      let told := fun (y : Notice) => y.dest == addrNode x.req.addr && y.domain == n && y.agent == a && y.join == flag x.req.opf 27
      { drop with coh := { drop.coh with notices := drop.coh.notices.map (fun y => if told y then { y with accepted := true } else y) } }
    else drop
  | .hold n => upd (fun y => { y with phase := 1, old := false, wasHeld := true, readyAt := (s.link l).slot + n })
  | .refuse st =>
    if x.req.op == .snpInv || x.req.op == .snpData || x.req.op == .snpCur then snoopRefused x drop
    else if st == .staleMap && ownerGone s x then noteGone x s
    else complete x.req st [] (heardDown st x.req drop)

/-- The answer cell of a flit (R98): the dispositions of the flit it names, in the order of that flit's REQ_HDR cells, are kept until they
are in force. A count that is not the number of those cells answers none of them (R103). -/
def takeAnswers (l : Nat) (c : Cell) (s : State) : State :=
  let bs := cellBytes c
  let b0 := (nth 0#8 bs 0).toNat
  if bit b0 7 then s
  else
    let n := bits b0 4 3
    let seq := bits (ofBytes ((bs.drop 1).take 2)) 0 12
    let port := (portOf s l).getD 10
    match (s.link l).kept.find? (fun x => x.seq == seq) with
    | none => s
    | some x =>
      let tags := (x.items.filter (·.isReq)).map (·.tag)
      if n == 0 || tags.length != n then s
      else
        let answer := fun (y : Sent) => match tags.idxOf? y.tag with
          | some i => if y.port == port && y.link == l && y.flitSeq == some seq then
              { y with disp := some (dispOf (ofBytes ((bs.drop (3 + 2 * i)).take 2))) } else y
          | none => y
        { s with net := { s.net with sent := s.net.sent.map answer } }

/-- A header whose answer is unknown is sent again with its TAG and its data (R106). -/
def resend (x : Sent) (s : State) : State :=
  let same := fun (y : Sent) => y.port == x.port && y.tag == x.tag
  { s with net := { s.net with
    txq := txItem s x true :: s.net.txq
    sent := s.net.sent.map (fun y => if same y then { y with flitSeq := none, disp := none, doubt := false } else y) } }

/-- A good flit with headers that were left without an answer: a protocol violation (R103), of a snooped agent the cause of R142. -/
def unanswered (l : Nat) (xs : List Sent) (s : State) : State :=
  match xs.find? (fun x => isSnoop x.req.op && (portEntry s x.port).kind == .partner) with
  | some x => snoopRefused x s
  | none => linkViolation l s

/-- The headers whose flit an ACK_SEQ now covers (R103, R105, R106): a disposition is in force. Without one the header is sent again with its
TAG; where no answer can have been in a flit that arrived bad, its flit is a violation as well. What then becomes of the header the spec does
not say (DESIGN CHOICE, log entry 72). -/
def settleAnswers (l : Nat) (s : State) : State :=
  let port := (portOf s l).getD 10
  let ack := (s.link l).peerAck
  let mine := s.net.sent.filter (fun x => x.port == port && x.link == l && x.phase == 0 && (x.flitSeq.map (seqAcked ack)) == some true)
  let s := mine.foldl (fun s x => match x.disp with
    | some d => takeDisp l x d s
    | none => s) s
  let s := (mine.filter (·.disp.isNone)).reverse.foldl (fun s x => resend x s) s
  let silent := mine.filter (fun x => x.disp.isNone && !x.doubt)
  let flits := (silent.map (·.flitSeq)).eraseDups
  flits.foldl (fun s q => unanswered l (silent.filter (fun x => x.flitSeq == q)) s) s

/-- A response for a request this node sent: matched by TAG, and discarded where none is outstanding; its header is not sent again (R106). An
acquire's drops its
source's read-buffered blocks (R169). -/
def takeResponse (port : Nat) (h : RspHdr) (data : Bytes) (s : State) : State :=
  match s.net.sent.find? (fun x => x.port == port && x.tag == h.tag) with
  | none => s
  | some x =>
    let s := { s with net := { s.net with
      sent := s.net.sent.filter (fun y => !(y.port == port && y.tag == h.tag))
      txq := s.net.txq.filter (fun t => !(t.isReq && t.port == port && t.tag == h.tag)) } }
    if h.prov then s else complete x.req h.status data (acquired x.req (heardDown h.status x.req s))

/-- A header whose data is all here: a request goes on to its home with it, a response to its source. The data credits of a
request are returned when its buffer frees, at once (R97). -/
def deliver (l : Nat) (x : RxItem) (s : State) : State :=
  let port := (portOf s l).getD 10
  if x.isReq then
    let h := reqHdr x.hdr
    let i := creditIdx (tclassOf h.tclass)
    let s := if h.data == 0 then s
      else updLink l (fun k => { k with creditsOut := setNth k.creditsOut i (nth 0 k.creditsOut i + creditUnits h.data) }) s
    match x.reqs with
    | [] => s
    | r :: _ =>
      let whole : Req := { r with addr := h.addr, va := h.addr, len := h.len, part := 0, join := none }
      takeAll whole x.reqs x.got s
  else takeResponse port (rspHdr x.hdr) x.got s

/-- The bytes of the stream given to the headers in order: the head takes what it needs, the rest goes on; bytes that no header waits for
are padding and dropped (log entry 61). -/
def feedAll (l : Nat) : Nat → Bytes → State → State
  | 0, _, s => s
  | n + 1, bs, s =>
    match (s.link l).rx with
    | [] => s
    | x :: rest =>
      let want := x.need - x.got.length
      let x' := { x with got := x.got ++ bs.take want }
      if bs.length < want then updLink l (fun k => { k with rx := x' :: rest }) s
      else feedAll l n (bs.drop want) (deliver l x' (updLink l (fun k => { k with rx := rest }) s))

/-- A request accepted on a link that left its port before its data had all come: its header comes again with it (R101; log entry 61). -/
def strandedOn (s : State) (p tag : Nat) : Option (Nat × RxItem) :=
  (portLinks (portEntry s p)).findSome? (fun l =>
    if (s.link l).inPort then none
    else ((s.link l).rx.find? (fun x => x.isReq && !x.reqs.isEmpty && (reqHdr x.hdr).tag == tag)).map (fun x => (l, x)))

/-- One request header of a good flit: decided in this slot and answered (R103, R105, R107). A duplicate gets its first disposition again,
and its data goes nowhere, unless the first one's never came. -/
def takeReqHdr (l cellNo seq : Nat) (c : Cell) (s : State) : State :=
  match portOf s l with
  | none => s
  | some p =>
    let h := reqHdr c
    let dup := s.net.tags.any (fun t => t.port == p && t.tag == h.tag)
    let d := decide' s p l h
    let stranded := if dup then strandedOn s p h.tag else none
    let s := noteDecision p l d dup s
    let owed := fun (k : Link) => if k.ansSeq == seq then k else { k with answers := [], ansTags := [], ansSeq := seq }
    let s := updLink l (fun k => { owed k with answers := (owed k).answers ++ [d.disp], ansTags := (owed k).ansTags ++ [h.tag] }) s
    let taken := if dup then (stranded.map (·.2.reqs)).getD [] else match d.disp with
      | .accept | .provisional => d.reqs
      | _ => []
    let (taken, s) := if dup then (taken, s) else numberAll taken s
    let s := match stranded with
      | some (m, x) => updLink m (fun k => { k with rx := k.rx.erase x }) s
      | none => s
    -- a SNP_RSP that names no outstanding snoop is a violation by its partner (R127)
    let bad := h.opcode == 0x2B && (portEntry s p).kind == .partner && !dup && !answersSnoop s (portEntry s p).party h
    let s := if bad then linkViolation l s else s
    updLink l (fun k => { k with rx := k.rx ++ [{ isReq := true, hdr := c, cellNo, seq, disp := d.disp, reqs := taken, need := h.data }] }) s

def takeRspHdr (l cellNo seq : Nat) (c : Cell) (s : State) : State :=
  updLink l (fun k => { k with rx := k.rx ++ [{ isReq := false, hdr := c, cellNo, seq, need := (rspHdr c).data }] }) s

/-- R106: a flit of the responder arrived bad, so every header that still waits for its answer on the link may have lost it. -/
def doubtAnswers (l : Nat) (s : State) : State :=
  let port := (portOf s l).getD 10
  let due := fun (x : Sent) => x.port == port && x.link == l && x.phase == 0 && x.flitSeq.isSome && x.disp.isNone
  { s with net := { s.net with sent := s.net.sent.map (fun x => if due x then { x with doubt := true } else x) } }

/-- The receiver sets NAK (R99). -/
def nakLink (l : Nat) (s : State) : State :=
  let s := updLink l (fun k => { k with sendNak := true, discarding := true, replaySeen := none, nakCount := k.nakCount + 1
                                        counters := { k.counters with naks := min 0xFFFFFFFF (k.counters.naks + 1) } }) s
  if 8 ≤ (s.link l).nakCount then refreshPorts (retrainLink l s) else s

/-- A replayed flit that is not kept, while the receiver discards (R99): it is NAKed, but for one in flight behind that replay's failed flit,
the next in order after one already seen. -/
def replayMissed (l seq : Nat) (s : State) : State :=
  let k := s.link l
  let inFlight := k.replaySeen.any (fun p => seq == (p + 1) % 4096) && seq != (k.rxSeq + 1) % 4096
  updLink l (fun k => { k with replaySeen := some seq }) (if inFlight then s else nakLink l s)

/-- Header kinds only where Table 04-1 permits them (R95). -/
def kindsOk (c0 : Cell) : Bool :=
  (rangeFrom 1 4).all (fun i => cellKind c0 i != 2) && (rangeFrom 5 10).all (fun i => cellKind c0 i != 1)

/-- Cells 1 to 14 of a flit that is kept, with the data stream (R96, R103). The data that an answer cell carries belongs to that stream, so it
is taken from a flit that is kept alone (DESIGN CHOICE, log entry 72). -/
def takeCells (l : Nat) (f : Flit) (s : State) : State :=
  let c0 := nth {} f.cells 0
  let seq := field c0.w0 52 12
  let s := (rangeFrom 1 14).foldl (fun s i =>
    match cellKind c0 i with
    | 1 => takeReqHdr l i seq (nth {} f.cells i) s
    | 2 => takeRspHdr l i seq (nth {} f.cells i) s
    | _ => s) s
  let ans := cellBytes (nth {} f.cells 15)
  let data := ((rangeFrom 1 14).filter (fun i => cellKind c0 i == 3)).flatMap (fun i => cellBytes (nth {} f.cells i))
  let data := data ++ (if bit (nth 0#8 ans 0).toNat 7 then (ans.drop 1).take 27 else [])
  feedAll l ((s.link l).rx.length + 1) data s

/-- A link that starts afresh (R422): nothing of its earlier stream is left. -/
def afresh (k : Link) : Link :=
  { k with mode := .helloWait, helloSent := false, helloGot := false, retryDue := false, txSeq := 4095, rxSeq := 4095, peerAck := 4095
           kept := [], replayAt := none, discarding := false, replaySeen := none, sendNak := false, nakTimer := false, nakCount := 0, peerNaks := 0
           credits := [0, 0, 0], creditsOut := [0, 0, 0], rx := [], tx := [], answers := []
           ansTags := [], confs := [], emptyDue := false }

/-- A link trained afresh: it sends its hello flit and waits for the peer's (R422). -/
def linkTrained (l : Nat) (s : State) : State := updLink l afresh s

/-- A hello flit's contents taken (R422): on a partner port every later hello must carry the first one's word. Where no link was left in
the port, it forms again, and its partner joins its domain if it declares COHERENT (R8, R11, R148). -/
def takeHello (l : Nat) (word0 credits : W64) (s : State) : State :=
  match portOf s l with
  | none => s
  | some p =>
    let pe := portEntry s p
    let k := s.link l
    if k.mode != .helloWait || k.helloGot then s
    else
      let known := Tbl.find s.net.capWord p
      let clash := pe.kind == .partner && known.isSome && known != some word0
      if clash then updLink l (fun k => { k with mode := .down, retryDue := true }) s
      else
        let cr := [field credits 48 16, field credits 32 16, field credits 16 16]
        let s := updLink l (fun k => { k with helloGot := true, helloWord := word0, credits := cr, mode := .up, inPort := true
                                              rxSeq := 0 }) s
        let forming := !(portLinks pe).any (fun m => m != l && (s.link m).inPort)
        let s := remap p { s with net := { s.net with
          capWord := if pe.kind == .partner then Tbl.put s.net.capWord p word0 else s.net.capWord
          portDead := s.net.portDead.filter (· != p) } }
        let s := refreshPorts s
        if forming && declares s p 25 then agentJoins ⟨s.node, pe.party⟩ s else s

/-- A flit passes its CRC (R99). -/
def flitGood (f : Flit) : Bool := field (nth {} f.cells 15).w3 32 32 == flitCrc f.cells

/-- A received flit counted (Table 17-14). -/
def countFlit (l : Nat) (f : Flit) (s : State) : State :=
  updLink l (fun k => { k with counters := { k.counters with
    fecSymbols := min (2 ^ 48 - 1) (k.counters.fecSymbols + f.fecSymbols)
    fecUncorr := min 0xFFFFFFFF (k.counters.fecUncorr + f.fecUncorr)
    crcFail := min 0xFFFFFFFF (k.counters.crcFail + (b2n (!flitGood f)))
    patFlits := min (2 ^ 40 - 1) (k.counters.patFlits + b2n (k.ltMode == 1))
    patCrcFail := min 0xFFFFFF (k.counters.patCrcFail + b2n (k.ltMode == 1 && !flitGood f)) } }) s

/-- A sequenced flit whose CRC was good (R99). -/
def takeSequenced (l : Nat) (f : Flit) (s : State) : State :=
  let c0 := nth {} f.cells 0
  let seq := field c0.w0 52 12
  let k := s.link l
  let next := (k.rxSeq + 1) % 4096
  if k.discarding && !(flag c0.w0 37 && seq == next) then
    if flag c0.w0 37 then replayMissed l seq s else s
  else if seq != next then
    if seqAcked k.rxSeq seq then s else nakLink l s
  else if !kindsOk c0 then linkViolation l s
  else
    let s := updLink l (fun k => { k with rxSeq := seq, discarding := false, replaySeen := none, nakTimer := false, nakCount := 0 }) s
    if !k.helloGot then takeHello l c0.w2 c0.w3 s
    else takeCells l f s

/-- A flit that fails its CRC (R99, R105, R106): the answers it may have held are in doubt, and the receiver NAKs, unless it discards
already and this is not the replay it waits for. A failed flit's REPLAY bit and SEQ are taken as they came (log entry 61). -/
def badFlit (l : Nat) (f : Flit) (s : State) : State :=
  let s := doubtAnswers l s
  let c0 := nth {} f.cells 0
  if !(s.link l).discarding then nakLink l s
  else if flag c0.w0 37 then replayMissed l (field c0.w0 52 12) s
  else s

/-- A good flit without a REQ_HDR cell: the receiver owes an empty flit if it has sent none in the last 2,048 slots (R412). -/
def noteNoReq (l : Nat) (c0 : Cell) (s : State) : State :=
  if (rangeFrom 1 14).any (fun i => cellKind c0 i == 1) then s
  else updLink l (fun k => { k with emptyDue := k.emptyDue || k.lastEmpty + 2048 ≤ k.slot }) s

/-- A flit that passes its CRC: cell 0 and the answer cell are taken from each one, the other cells from a sequenced one that is kept
(R99). -/
def goodFlit (l : Nat) (f : Flit) (s : State) : State :=
  let c0 := nth {} f.cells 0
  let s := settleAnswers l (takeCell0 l c0 (takeAnswers l (nth {} f.cells 15) (noteNoReq l c0 s)))
  if flag c0.w0 38 then takeSequenced l f s else s

/-- A received flit (R99, R105). -/
def receiveFlit (l : Nat) (f : Flit) (s : State) : State :=
  let s := countFlit l f s
  let k := s.link l
  if !(k.mode == .up || k.mode == .helloWait) || k.ltMode != 0 then s
  else if flitGood f then goodFlit l f s
  else badFlit l f s

/-! ## The meanings -/

/-- FLIT_SLOT (R93). -/
def execFlitSlot (l : Fin 32) (s : State) : Host.Outcome State Fault Refusal := .next (wakeStalled (slotFlit l s))

/-- HELLO_FLIT (R422). -/
def execHelloFlit (l : Fin 32) (word0 credits : W64) (s : State) : Host.Outcome State Fault Refusal :=
  .next (takeHello l word0 credits s)

/-- NAK_TIMEOUT (R99): 128 slots after a NAK without the replayed flit, the receiver NAKs again. -/
def execNakTimeout (l : Fin 32) (s : State) : Host.Outcome State Fault Refusal :=
  .next (if (s.link l).nakTimer && (s.link l).discarding then nakLink l s else s)

/-- Whether a link has been trained and does not retrain: it may still wait for the peer's hello flit. -/
def isTrained (k : Link) : Bool := k.mode == .up || k.mode == .helloWait

/-- ACK_TIMEOUT (R101): unacknowledged flits for 2,000 slots make the link retrain. -/
def execAckTimeout (l : Fin 32) (s : State) : Host.Outcome State Fault Refusal :=
  .next (if (s.link l).kept.isEmpty || !isTrained (s.link l) then s else refreshPorts (retrainLink l s))

/-- RETRAIN_COMPLETE (R413): the link is up again, or waits again for the peer's hello flit where that has not come (R422), and both sides resume
with replay (R101). CONF entries that are not acknowledged are placed again (R137). -/
def execRetrainComplete (l : Fin 32) (s : State) : Host.Outcome State Fault Refusal :=
  .next (if (s.link l).mode != .retraining then s
    else
      let first := (s.link l).kept.head?.map (·.seq)
      let s := updLink l (fun k => { k with
        mode := if k.helloGot then .up else .helloWait, replayAt := first, retrainFails := 0
        confs := k.kept.flatMap (·.confs) ++ k.confs, kept := k.kept.map (fun x => { x with confs := [] }) }) s
      rereadCancelled l (refreshPorts (remap ((portOf s l).getD 10) s)))

/-- RETRAIN_FAILED (R413): the third failure in a row makes the link leave its port. -/
def execRetrainFailed (l : Fin 32) (s : State) : Host.Outcome State Fault Refusal :=
  .next (if !((s.link l).mode == .retraining || isTrained (s.link l)) then s
    else
      let n := (s.link l).retrainFails + 1
      if 3 ≤ n then leavePort l 1 s
      else refreshPorts (updLink l (fun k => { k with retrainFails := n, mode := .retraining }) s))

/-- LINK_REJOIN_RETRY (R413): a removed link that passes both checks trains afresh and rejoins through its hello flit. -/
def execLinkRejoinRetry (l : Fin 32) (prbsGood flitGood : Bool) (s : State) : Host.Outcome State Fault Refusal :=
  .next (if !(s.link l).retryDue || !s.pins.serdes then s
    else if prbsGood && flitGood then linkTrained l s
    else s)

/-- LANE_FAILURE (R413): the lane takes its whole link down and the link retrains. -/
def execLaneFailure (l : Fin 32) (_lane : Fin 4) (s : State) : Host.Outcome State Fault Refusal :=
  .next (if !isTrained (s.link l) then s else refreshPorts (retrainLink l s))

/-- EMPTY_FLIT_DUE (R412): an empty, unsequenced flit is due, and goes out in the next flit slot that owes no answer: this one, where none
is owed. -/
def execEmptyFlitDue (l : Fin 32) (s : State) : Host.Outcome State Fault Refusal :=
  .next (if (s.link l).mode != .up || !s.pins.serdes then s
    else slotFlit l (updLink l (fun k => { k with emptyDue := true }) s))

/-- TAG_HOLDOVER_EXPIRY (R106): the TAGs held over for a departed link are free where the peer has acknowledged their responses, and those
of requests whose data never came (log entry 61); the others end as any TAG does. -/
def execTagHoldoverExpiry (l : Fin 32) (s : State) : Host.Outcome State Fault Refusal :=
  .next (
    let k := s.link l
    let lost := if k.inPort then [] else (k.rx.filter (·.isReq)).map (fun x => (reqHdr x.hdr).tag)
    let free := fun (t : TagOut) => t.holdover == some l.val && (t.ackd || (t.link == l.val && lost.contains t.tag))
    let ends := fun (t : TagOut) => if t.holdover == some l.val then { t with holdover := none } else t
    let s := if k.inPort then s else updLink l (fun k => { k with rx := [] }) s
    { s with net := { s.net with tags := (s.net.tags.filter (fun t => !free t)).map ends } })

/-- HELD_PAGE_EXPIRY (R110): an entry without its TAG for 65,536 slots is dropped and a port fault logged. -/
def execHeldPageExpiry (l : Fin 32) (page : Nat) (s : State) : Host.Outcome State Fault Refusal :=
  .next (match (s.link l).held.find? (fun h => h.page == page) with
    | none => s
    | some h => logEv 0x0603 sevWarning 15 0 l h.tag (updLink l (fun k => { k with held := k.held.erase h }) s))

/-- The held request of a port that is next to be resent: the first in the order in which they were sent (R110). -/
def nextHeld (s : State) (port : Nat) : Option Sent := s.net.sent.find? (fun x => x.port == port && x.phase == 1)

/-- HOLD_RETRY (R108, R110, R112): the Shufel resends a request that was held, no earlier than its interval and in the order in which it
first sent them. -/
def execHoldRetry (port : Fin 10) (tag : BitVec 16) (s : State) : Host.Outcome State Fault Refusal :=
  .next (match nextHeld s port with
    | none => s
    | some x =>
      if x.tag != tag.toNat || (s.link x.link).slot < x.readyAt then s
      else
        let again := fun (y : Sent) => if y.port == x.port && y.tag == x.tag then
          { y with phase := 0, flitSeq := none, disp := none, doubt := false } else y
        { s with net := { s.net with txq := s.net.txq ++ [txItem s x false], sent := s.net.sent.map again } })

/-- RANGE_CACHE_FILL (R56): a running search fills its entry. -/
def execRangeCacheFill (race party : Fin 8) (asid : Fin 4096) (va : BitVec 57) (s : State) :
    Host.Outcome State Fault Refusal :=
  .next (
    let key := (race.val, party.val, asid.val, va.toNat)
    if s.net.rmiss.contains key then
      rangeFill race party asid va.toNat { s with net := { s.net with rmiss := s.net.rmiss.filter (· != key) } }
    else s)

/-- EXTENT_CACHE_FILL (R107): a running extent search fills its entry, in the ways of the party it runs for. -/
def execExtentCacheFill (race : Fin 8) (offset : BitVec 52) (s : State) : Host.Outcome State Fault Refusal :=
  .next (match s.net.emiss.find? (fun x => x.1 == race.val && x.2.1 == offset.toNat) with
    | none => s
    | some key => ecInsert { fillExtent s race offset.toNat with party := key.2.2 }
        { s with net := { s.net with emiss := s.net.emiss.filter (· != key) } })

/-- COMBINATION_CLOSE (R186). -/
def execCombinationClose (index : Nat) (s : State) : Host.Outcome State Fault Refusal :=
  .next (match s.net.combos[index]? with
    | none => s
    | some c => closeCombo c s)

end Sys2Proof.Machine
end

