-- ==== Sys2Proof/Machine/Format.lean ====
section
/-!
DEFINITION. The mills' number formats (R227 to R231): elements, MX runs, conversions, the accumulations whose order is open
(R232) and the functions EXP, RCP and RSQRT within their bound (R230).
-/
namespace Sys2Proof.Machine

open Sys2Proof

/-! ## Element formats (Table 09-2) -/

/-- What the top encodings of a format mean: IEEE infinities and NaNs, one NaN (E4M3), or finite values only. -/
inductive Tops where
  | ieee | oneNan | finite
  deriving DecidableEq, Repr

structure EFmt where
  fmt   : Fmt
  tops  : Tops := .ieee
  flush : Bool := false
  deriving DecidableEq, Repr

/-- The floating element format of a code; for an MX code, its elements' format. -/
def elemFmt : Nat → Option EFmt
  | 0 => some ⟨fp32, .ieee, false⟩
  | 1 => some ⟨bf16, .ieee, false⟩
  | 2 => some ⟨fp16, .ieee, false⟩
  | 3 => some ⟨⟨4, 3⟩, .oneNan, true⟩
  | 4 => some ⟨⟨5, 2⟩, .ieee, true⟩
  | 5 => some ⟨⟨4, 3⟩, .oneNan, true⟩
  | 6 => some ⟨⟨5, 2⟩, .ieee, true⟩
  | 7 => some ⟨⟨3, 2⟩, .finite, false⟩
  | 8 => some ⟨⟨2, 3⟩, .finite, false⟩
  | 9 => some ⟨⟨2, 1⟩, .finite, false⟩
  | _ => none

def isMx (code : Nat) : Bool := 5 ≤ code && code ≤ 9
def isInt (code : Nat) : Bool := 10 ≤ code && code ≤ 12

/-- Width of an element in bits. -/
def elemBits : Nat → Nat
  | 0 => 32 | 1 => 16 | 2 => 16 | 3 => 8 | 4 => 8 | 5 => 8 | 6 => 8 | 7 => 6 | 8 => 6 | 9 => 4
  | 10 => 8 | 11 => 32 | 12 => 64 | 13 => 8 | _ => 8

/-- Bytes of a run of n elements (R228). -/
def runBytes (code n : Nat) : Nat := (n * elemBits code + 7) / 8 + (if isMx code then n / 32 else 0)

/-- The largest finite magnitude pattern. -/
def EFmt.maxMag (f : EFmt) : Nat :=
  let eb := f.fmt.eb
  let mb := f.fmt.mb
  match f.tops with
  | .ieee => at' (2 ^ eb - 1) mb - 1
  | .oneNan => 2 ^ (eb + mb) - 2
  | .finite => 2 ^ (eb + mb) - 1

def EFmt.signBit (f : EFmt) (neg : Bool) : Nat := at' (b2n neg) (f.fmt.eb + f.fmt.mb)

/-- The value of a pattern; FP8 subnormals read as zero of their sign (R229). -/
def EFmt.decode (f : EFmt) (x : Nat) : FVal :=
  let neg := bit x (f.fmt.eb + f.fmt.mb)
  let ex := bits x f.fmt.mb f.fmt.eb
  let ma := bits x 0 f.fmt.mb
  let mag := x % 2 ^ (f.fmt.eb + f.fmt.mb)
  if f.tops == .ieee && ex = 2 ^ f.fmt.eb - 1 then (if ma = 0 then .inf neg else .nan)
  else if f.tops == .oneNan && mag = 2 ^ (f.fmt.eb + f.fmt.mb) - 1 then .nan
  else if ex = 0 then .fin neg (if f.flush then 0 else ma) (1 - f.fmt.bias - Int.ofNat f.fmt.mb)
  else .fin neg (2 ^ f.fmt.mb + ma) (Int.ofNat ex - f.fmt.bias - Int.ofNat f.fmt.mb)

/-- The canonical NaN (R230); a format without NaN never holds one. -/
def EFmt.nan (f : EFmt) : Nat :=
  match f.tops with
  | .ieee => f.fmt.qnan
  | .oneNan => 2 ^ (f.fmt.eb + f.fmt.mb) - 1
  | .finite => 0

/-- Overflow of a finite value (R231). -/
def EFmt.overflow (f : EFmt) (sat neg : Bool) : Nat :=
  if sat || f.tops == .finite then f.signBit neg + f.maxMag
  else match f.tops with
    | .ieee => f.fmt.infBits neg
    | _ => f.nan

/-- The pattern of a value, rounded to nearest even, with R231's overflow and FP8's flush (R229). -/
def EFmt.encode (f : EFmt) (sat : Bool) : FVal → Nat
  | .nan => f.nan
  | .inf n =>
    match f.tops with
    | .ieee => f.fmt.infBits n
    | _ => if sat || f.tops == .finite then f.signBit n + f.maxMag else f.nan
  | .fin n m e =>
    if m = 0 then f.signBit n
    else
      let (m', q) := f.fmt.quantize m e
      let ex := q + Int.ofNat f.fmt.mb + f.fmt.bias
      if m' < 2 ^ f.fmt.mb then f.signBit n + (if f.flush then 0 else m')
      else
        let mag := at' ex.toNat f.fmt.mb + (m' - 2 ^ f.fmt.mb)
        if f.maxMag < mag then f.overflow sat n else f.signBit n + mag

/-! ## Values of a run -/

/-- An element: a float or an integer. -/
inductive Elem where
  | f (x : FVal)
  | i (x : Int)
  deriving DecidableEq, Repr, Inhabited

/-- An integer as an exact floating value. -/
def intVal (x : Int) : FVal := .fin (decide (x < 0)) x.natAbs 0

/-- An element as the FP32 value it is widened or rounded to for a computation (R231). -/
def Elem.val : Elem → FVal
  | .f x => fp32.round x
  | .i x => fp32.round (intVal x)

/-- The element as it stands, without rounding. -/
def Elem.exact : Elem → FVal
  | .f x => x
  | .i x => intVal x

def Elem.int : Elem → Int
  | .f _ => 0
  | .i x => x

/-- ±m·2^e times 2^k. -/
def FVal.scale (k : Int) : FVal → FVal
  | .fin n m e => .fin n m (e + k)
  | x => x

/-- An element of an MX block before its scale. NaN comes by the scale alone and there is no infinity (Table 09-2): of a pattern that would be
either, the value is finite and not stated (log entry 72). -/
def mxValue (code : Nat) (f : EFmt) (x : Nat) : FVal :=
  match f.decode x with
  | .fin n m e => .fin n m e
  | _ => let v := Config.mxElem code x; .fin (bit x (f.fmt.eb + f.fmt.mb)) v.1 v.2

/-- The n elements of a run (R228). -/
def readRun (code n : Nat) (bs : Bytes) : List Elem :=
  let w := elemBits code
  let body := ofBytes (bs.take ((n * w + 7) / 8))
  let scales := bs.drop ((n * w + 7) / 8)
  (List.range n).map (fun i =>
    let x := bits body (w * i) w
    if isInt code then .i (signed w x)
    else match elemFmt code with
      | none => .i (Int.ofNat x)
      | some f =>
        if isMx code then
          let sc := (nth 0#8 scales (i / 32)).toNat
          if sc = 255 then .f .nan else .f ((mxValue code f x).scale (Int.ofNat sc - 127))
        else .f (f.decode x))

/-- A run of w-bit patterns packed (R228). -/
def packBits (w : Nat) (xs : List Nat) : Bytes :=
  toBytes ((xs.zipIdx).foldl (fun a x => a + at' (x.1 % 2 ^ w) (w * x.2)) 0) ((xs.length * w + 7) / 8)

/-- Magnitude exponent floor(log2 |x|) of a finite non-zero value. -/
def FVal.log2 : FVal → Int
  | .fin _ m e => e + Int.ofNat (Nat.log2 m)
  | _ => 0

def FVal.abs : FVal → FVal
  | .fin _ m e => .fin false m e
  | .inf _ => .inf false
  | .nan => .nan

def FVal.isFin : FVal → Bool
  | .fin .. => true
  | _ => false

def FVal.isInf : FVal → Bool
  | .inf _ => true
  | _ => false

/-- EMAX of R231's MX conversion. -/
def mxEmax : Nat → Int
  | 5 => 8 | 6 => 15 | 7 => 4 | _ => 2

/-- One MX block: its scale byte and its element patterns (R231). -/
def mxBlock (code : Nat) (vs : List FVal) : Nat × List Nat :=
  match elemFmt code with
  | none => (0, [])
  | some f =>
    if !vs.all FVal.isFin then (255, vs.map (fun _ => 0))
    else
      let big := vs.foldl (fun a v => if a.lt v.abs then v.abs else a) (.fin false 0 0)
      if big.isZero then (0, vs.map (fun v => f.encode true v))
      else
        let x := max (-127) (min 127 (big.log2 - mxEmax code))
        ((x + 127).toNat, vs.map (fun v => f.encode true (v.scale (-x))))

/-- Blocks of 32. -/
def blocks32 : Nat → List FVal → List (List FVal)
  | 0, _ => []
  | n + 1, vs => if vs.isEmpty then [] else vs.take 32 :: blocks32 n (vs.drop 32)

/-- Nearest integer, ties to even. -/
def FVal.rint : FVal → Int
  | .fin n m e => sgnInt n (if 0 ≤ e then m * 2 ^ e.toNat else rneShift m (-e).toNat)
  | _ => 0

/-- An integer saturated to n bits. -/
def satInt (n : Nat) (x : Int) : Int := max (-(Int.ofNat (2 ^ (n - 1)))) (min (Int.ofNat (2 ^ (n - 1)) - 1) x)

/-- The pattern of an element in an integer format (R231). -/
def encodeInt (w : Nat) (sat : Bool) : Elem → Nat
  | .i x => unsigned w (if sat then satInt w x else x)
  | .f .nan => 0
  | .f (.inf n) => unsigned w (satInt w (if n then -(Int.ofNat (2 ^ w)) else Int.ofNat (2 ^ w)))
  | .f x => unsigned w (satInt w x.rint)

/-- A run written in a format, and whether a result element is NaN or infinite (R230, R231). -/
def writeRun (code : Nat) (sat : Bool) (xs : List Elem) : Bytes × Bool × Bool :=
  let w := elemBits code
  if isMx code then
    let bl := (blocks32 xs.length (xs.map Elem.exact)).map (mxBlock code)
    (packBits w (bl.flatMap (·.2)) ++ bl.map (fun b => BitVec.ofNat 8 b.1), bl.any (fun b => b.1 == 255), false)
  else match elemFmt code with
    | some f =>
      let ps := xs.map (fun x => f.encode sat x.exact)
      (packBits w ps, ps.any (fun p => (f.decode p).isNan), ps.any (fun p => (f.decode p).isInf))
    | none => (packBits w (xs.map (encodeInt w sat)), false, false)

/-! ## Accumulations in an open order (R231, R232) -/

/-- A value as an operand of an open value. -/
def FVal.key : FVal → Nat × Int
  | .nan => (0, -100000)
  | .inf n => (b2n n, 100000)
  | .fin n m e => (2 * m + b2n n, e)

/-- The exact sum of the terms, an infinity or a NaN among them as IEEE 754 has it. -/
def exactSum (ts : List FVal) : FVal := ts.foldl FVal.add (.fin false 0 0)

def FVal.times (k : Nat) : FVal → FVal
  | .fin n m e => .fin n (m * k) e
  | x => x

/-- An FP32 result within γ_k · Σ|terms| of the exact sum (Table 09-4): the open value where it keeps the bound, else the exact
sum rounded. -/
def anyOrder (k : Nat) (ts : List FVal) : Nat :=
  let ex := exactSum ts
  let r0 := fp32.encode ex
  if !(fp32.decode r0).isFin then r0
  else
    let c := Config.sumFree ((0, Int.ofNat k) :: ts.map FVal.key) % 2 ^ 32
    let v := fp32.decode c
    let err := ((v.sub ex).abs).times (2 ^ 24 - k)
    let lim := (exactSum (ts.map FVal.abs)).times k
    if v.isFin && !(lim.lt err) then c else r0

/-- log2 of the products a pass takes (Table 09-4). -/
def passLog2 (code : Nat) : Nat :=
  match code with
  | 0 => 5 | 1 => 6 | 2 => 6 | 9 => 8 | _ => 7

/-- A dot product of K terms (VDOT row). -/
def dotBound (code k : Nat) : Nat := (k + 2 ^ passLog2 code - 1) / 2 ^ passLog2 code + passLog2 code

/-- A reduction of N elements (VRED row). -/
def redBound (n : Nat) : Nat := (n + 63) / 64 + 6

/-- FP32 addition of two patterns, rounded. -/
def f32add (a b : Nat) : Nat := faddFp32 a b

def f32mul (a b : Nat) : Nat := fp32.op2 FVal.mul a b

def f32sub (a b : Nat) : Nat := fp32.op2 FVal.sub a b

/-- a < b on FP32 patterns; false with a NaN. -/
def f32lt (a b : Nat) : Bool := (fp32.decode a).lt (fp32.decode b)

def f32isNan (a : Nat) : Bool := (fp32.decode a).isNan

/-- Quotient of two FP32 values at high precision, as a value to be rounded once; a zero divisor gives an infinity. -/
def FVal.div : FVal → FVal → FVal
  | .nan, _ => .nan
  | _, .nan => .nan
  | .inf _, .inf _ => .nan
  | .inf a, .fin n _ _ => .inf (a != n)
  | .fin n _ _, .inf b => .fin (n != b) 0 0
  | .fin n m e, .fin n' m' e' =>
    if m' = 0 then (if m = 0 then .nan else .inf (n != n'))
    else
      let q := m * 2 ^ 200 / m'
      -- a sticky bit keeps an inexact quotient off a rounding tie
      .fin (n != n') (2 * q + (if m * 2 ^ 200 % m' = 0 then 0 else 1)) (e - e' - 201)

/-! ## EXP, RCP and RSQRT (R230) -/

/-- ln 2 in units of 2^−128. -/
def ln2Fix : Nat := 235865763225513294137944142764154484399

/-- exp of a finite value between −104 and 89 at high precision. -/
def expVal (x : FVal) : FVal :=
  match x with
  | .fin n m e =>
    let mag := if -128 ≤ e then m * 2 ^ (e + 128).toNat else m / 2 ^ (-128 - e).toNat
    let v := sgnInt n mag
    let k := v / Int.ofNat ln2Fix
    let r := (v % Int.ofNat ln2Fix).toNat
    let go := (List.range 40).foldl (fun (a : Nat × Nat) i =>
      let t := a.1 * r / (i + 1) / 2 ^ 128
      (t, a.2 + t)) (2 ^ 128, 2 ^ 128)
    .fin false go.2 (k - 128)
  | x => x

/-- 1/√x of a positive finite value at high precision. -/
def rsqrtVal (m : Nat) (e : Int) : FVal :=
  let m' := if e % 2 = 0 then m else 2 * m
  let e' := if e % 2 = 0 then e else e - 1
  .fin false (Nat.sqrt (2 ^ 400 / m')) (-(e' / 2) - 200)

/-- The exact result of a VFN function, or a value close to it. -/
def vfnExact (f : Nat) (x : FVal) : FVal :=
  match f, x with
  | _, .nan => .nan
  | 0, .inf n => if n then .fin false 0 0 else .inf false
  | 0, .fin n m e =>
    if (FVal.fin false 8872 0).lt ((FVal.fin n m e).times 100) then .inf false
    else if (FVal.fin n m e).lt (.fin true 110 0) then .fin false 0 0
    else expVal x
  | 1, .inf n => .fin n 0 0
  | 1, .fin n m e => if m = 0 then .inf n else (FVal.fin false 1 0).div (.fin n m e)
  | _, .inf n => if n then .nan else .fin false 0 0
  | _, .fin n m e => if m = 0 then .inf n else if n then .nan else rsqrtVal m e

/-- The unit in the last place of FP32 at a value. -/
def ulp32 (x : FVal) : FVal :=
  match x with
  | .fin _ m _ => if m = 0 then .fin false 1 (-149) else .fin false 1 (max (x.log2 - 23) (-149))
  | y => y

/-- An FP32 pattern within 2 ulp of a value: the one that k, 0 to 4, picks, where it keeps that bound, else the nearest. -/
def withinUlps (y : FVal) (k : Nat) : Nat :=
  let r0 := fp32.encode y
  if !(fp32.decode r0).isFin || y.isZero then r0
  else
    let mag := r0 % 2 ^ 31
    let c := (if mag + k < 2 then 0 else mag + k - 2) + (r0 - mag)
    let v := fp32.decode c
    if v.isFin && !(((ulp32 y).times 2).lt ((v.sub y).abs)) then c else r0

/-- A VFN result: the open value among the patterns within 2 ulp of the exact result (R230), the same for the same operand. -/
def vfn (f x : Nat) : Nat :=
  withinUlps (vfnExact f (fp32.decode x)) (Config.vfnUlp (f * 2 ^ 32 + x) % 5)

def f32exp (x : Nat) : Nat := vfn 0 x

/-! ## The natural logarithm (R292) -/

/-- ln of m·2^e, m not 0, at high precision: e·ln 2 and a series in (f − 1)/(f + 1) for the mantissa f. -/
def lnVal (m : Nat) (e : Int) : FVal :=
  let t := Nat.log2 m
  let z := (m - 2 ^ t) * 2 ^ 128 / (m + 2 ^ t)
  let sq := z * z / 2 ^ 128
  let go := (List.range 40).foldl (fun (a : Nat × Nat) i => (a.1 * sq / 2 ^ 128, a.2 + a.1 / (2 * i + 1))) (z, 0)
  let v := (e + Int.ofNat t) * Int.ofNat ln2Fix + 2 * Int.ofNat go.2
  .fin (decide (v < 0)) v.natAbs (-128)

/-- The exact logarithm of a value, or a value close to it. -/
def lnExact : FVal → FVal
  | .nan => .nan
  | .inf n => if n then .nan else .inf false
  | .fin n m e => if m = 0 then .inf true else if n then .nan else lnVal m e

/-- ln in FP32: the open value among the patterns within 2 ulp of the logarithm, the bound VFN has (R292 states none; log entry 36). -/
def f32ln (x : Nat) : Nat := withinUlps (lnExact (fp32.decode x)) (Config.lnUlp x % 5)

end Sys2Proof.Machine
end

