-- ==== Sys2Proof/Machine/Access.lean ====
section
/-!
DEFINITION. Accesses the Shufel makes itself with a party's number, without a request of its own in an admission queue: rill
images, rings, parameter blocks, tables, and the operands a built-in operation reads and writes on its own node (R207, R257,
R277). They pass the checks of R54 and R42 like the party's own requests (log entry 20).
-/
namespace Sys2Proof.Machine

open Sys2Proof

/-! ## DURABLE writes (R80) -/

/-- A DURABLE write under R80 whose page is PLAIN: performed by `now`, parked at its party's share, or programmed to flash first. -/
def placeDurable (r : Req) (now : State → State) (s : State) : State :=
  if !(r.durable && isWriteOp r.op) then now s
  else match durFate s r.party (unitsOf (addrOffset r.addr) r.len) with
    | .now => now s
    | .parkShare => { s with store := { s.store with parkedW := s.store.parkedW ++ [r] } }
    | .through =>
      let unit := unitOf (addrOffset r.addr)
      maintain (homeRace s (addrOffset r.addr)) (.program unit) { s with store := { s.store with wt := s.store.wt ++ [{ req := r, unit }] } }

/-! ## Sources that keep their epochs with the rills (R149, R165, R166) -/

/-- The rill engine among the sources whose epochs are kept with the rills (R149). -/
def engineKey : Nat := 65536

/-- The key of a source of requests that keeps its epoch with the rills: a course sequencer by its rill, the engine. -/
def epochKey : Src → Option Nat
  | .course rill _ _ => some rill
  | .rill .. | .exch .. | .engine => some engineKey
  | _ => none

/-- Incomplete requests of such a source, each by its destination, the home node, and its epoch (R166). -/
def pendingOf (s : State) (key : Nat) : List (Nat × Nat) :=
  (allReqs s).filterMap (fun r => if epochKey r.src == some key then some (addrNode r.addr, r.epoch) else none)

/-- Epochs of a source with requests that are incomplete (R165). -/
def openEpochs (s : State) (key : Nat) : List Nat := ((pendingOf s key).map (·.2)).eraseDups

/-- Whether a source may open another epoch: at most 16 are open, and they span fewer than 128 (R165). -/
def mayOpen (opened : List Nat) (epoch : Nat) : Bool :=
  opened.length < 16 && opened.all (fun e => (epoch + 257 - e) % 256 < 128)

/-- Whether the course sequencer of a rill, or the engine, may send a seal. -/
def mayCall (s : State) (key : Nat) : Bool := mayOpen (openEpochs s key) (Tbl.get 0 s.rill.epochs key)

/-- The request with its source's epoch; a seal closes that and carries the next (R165). -/
def inEpoch (r : Req) (s : State) : Req × State :=
  match epochKey r.src with
  | none => (r, s)
  | some k =>
    let e := Tbl.get 0 s.rill.epochs k
    let e := if opSeal r.opf then (e + 1) % 256 else e
    ({ r with epoch := e }, { s with rill := { s.rill with epochs := Tbl.put s.rill.epochs k e } })

/-! ## Direct accesses -/

/-- The origin of a local party's own accesses. -/
def selfPair (s : State) (party : Nat) : Pair := ⟨s.node, party⟩

/-- What keeps an access with a party's number to [addr, addr + len), of a range of a class, from being performed on this node (R42, R141). -/
def spanBad (s : State) (party : Nat) (op : Op) (cls : RClass) (addr len : Nat) : Option Status :=
  if addrNode addr != s.node || addrSpace addr != 0 then some .faultUnmapped
  else match homeCheck s (selfPair s party) op cls (addrOffset addr) len with
    | some st => some st
    | none => if fencedAt s (addrOffset addr) then some .domainDown else none

/-- A read of [addr, addr + len) of backed space with a party's number: its status and the bytes. -/
def shufelRead (s : State) (party addr len : Nat) : Status × Bytes := readAs s .any party addr len
where
  /-- The same in a range of a class. -/
  readAs (s : State) (cls : RClass) (party addr len : Nat) : Status × Bytes :=
    match spanBad s party .load cls addr len with
    | some st => (st, [])
    | none => match readStatus s (addrOffset addr) len {} with
        | .ok => (.ok, readMem s (addrOffset addr) len)
        | st => (st, [])

/-- A write of the engine that cannot be done at once, carried out as the STORE it is: it waits for its page, for its party's share or its
unit's program, or for the holders of its lines to answer (R65, R66, R80, R133). -/
def engineStore (r : Req) (s : State) : State :=
  let (r, s) := fresh r s
  let page := tierPage (addrOffset r.addr)
  match (tierOf s page).state with
  | .moving => needStill page r s
  | .flash | .riffle => needPlain page r s
  | .plain => placeDurable r (cohPerform r {} false) s

/-- Whether a write of the engine is done at once: its page is PLAIN, its range not COHERENT, and its unit may become durable-dirty. -/
def storesNow (s : State) (r : Req) : Bool :=
  let off := addrOffset r.addr
  let coherent := (findExtent s.hw.slice off r.len).any (fun e => e.cls == .coherent)
  (pagesOf off r.len).all (fun p => (tierOf s p).state == .plain) && !coherent
    && (!r.durable || (match durFate s r.party (unitsOf off r.len) with
      | .now => true
      | _ => false))

/-- A write of the engine that its checks have passed: at once, or as a STORE that waits. -/
def engineWrite (party addr : Nat) (durable : Bool) (data : Bytes) (s : State) : Status × State :=
  let r : Req := { op := .store, addr, va := addr, len := data.length, data, party, origin := selfPair s party, durable, src := .engine }
  let s := countRange party (addrOffset addr) data.length s
  let s := if durable then setDurMap (addrOffset addr) data.length s else s
  if storesNow s r then storeBytes r (addrOffset addr) data s
  else
    let (r, s) := inEpoch r s
    (.ok, engineStore r s)

/-- A write with a party's number, its range DURABLE or not: at once, or as a STORE that waits. -/
def shufelWrite (party addr : Nat) (durable : Bool) (data : Bytes) (s : State) : Status × State := writeAs .any party addr durable data s
where
  /-- The same in a range of a class. -/
  writeAs (cls : RClass) (party addr : Nat) (durable : Bool) (data : Bytes) (s : State) : Status × State :=
    match spanBad s party .store cls addr data.length with
    | some st => (st, s)
    | none => engineWrite party addr durable data s

/-- Whether a write of the engine for a party still waits to be performed. -/
def engineBusy (s : State) (party : Nat) : Bool := (allReqs s).any (fun r => r.src == .engine && r.party == party)

/-- Pages of a range of this node that an access of the engine must wait for: not in DRAM, or not PLAIN for a write (R65, R66). -/
def restless (s : State) (write : Bool) (addr len : Nat) : List Nat :=
  let still := fun (p : Nat) => match (tierOf s p).state with
    | .plain => false
    | .riffle => write
    | _ => true
  if addrNode addr == s.node && addrSpace addr == 0 then (pagesOf (addrOffset addr) len).filter still else []

/-- What waits for pages goes on where there are none, and else brings them. -/
def onceHere (wait : List Nat) (k : State → State) (s : State) : State :=
  if wait.isEmpty then k s else wait.foldl (fun s p => bring true p s) s

/-- An access of the engine to backed space that waits until its pages are in DRAM, PLAIN for a write. -/
def atRest (write : Bool) (addr len : Nat) (k : State → State) (s : State) : State := onceHere (restless s write addr len) k s

/-- Whether [addr, addr + len) lies in PRIVATE extents of a party of this node, one after the other (R51, R207). -/
def inPrivate (s : State) (party addr len : Nat) : Bool :=
  inExtents s (fun e => e.cls == .priv && e.owner == .single (selfPair s party)) addr len
where
  /-- Whether [addr, addr + len) lies in backed space of this node in extents of one kind, adjacent ones joined. -/
  inExtents (s : State) (ok : Extent → Bool) (addr len : Nat) : Bool :=
  let mine := s.hw.slice.extents.filter ok
  let reach := mine.foldl (fun at_ e => if e.start ≤ at_ && at_ < extentEnd e then extentEnd e else at_) (addrOffset addr)
  addrNode addr == s.node && addrSpace addr == 0 && addrOffset addr + len ≤ reach

/-- The little-endian 64-bit words of a byte string. -/
def words64 : Nat → Bytes → List Nat
  | 0, _ => []
  | n + 1, bs => ofBytes (bs.take 8) :: words64 n (bs.drop 8)

/-- The little-endian 32-bit words of a byte string. -/
def words32 : Nat → Bytes → List Nat
  | 0, _ => []
  | n + 1, bs => ofBytes (bs.take 4) :: words32 n (bs.drop 4)

/-- The 16-bit elements of a byte string. -/
def words16 : Nat → Bytes → List Nat
  | 0, _ => []
  | n + 1, bs => ofBytes (bs.take 2) :: words16 n (bs.drop 2)

def bytes64 (ws : List Nat) : Bytes := ws.flatMap (fun w => toBytes w 8)
def bytes32 (ws : List Nat) : Bytes := ws.flatMap (fun w => toBytes w 4)
def bytes16 (ws : List Nat) : Bytes := ws.flatMap (fun w => toBytes w 2)

/-! ## Virtual accesses -/

/-- Translation under the table a transfer belongs to (R59). The bank of an earlier generation is read as it stands now, the spec not saying
what a driver's rewriting of it does (DESIGN CHOICE, log entry 68). -/
def translateIn (s : State) (ctx : Option Ctx) (va len : Nat) (op : Op) : Trans :=
  match ctx with
  | none => .fault .faultUnmapped 0
  | some c => translateWith (searchLook s c) true va len op

/-- The outcome of a virtual access: bytes, or a status and the offset of the first failing byte. -/
inductive VGot where
  | ok (data : Bytes)
  | fail (st : Status) (offset : Nat)
  deriving DecidableEq, Repr

/-- The pieces of a local read one after another. -/
def readPieces (s : State) (party va : Nat) : List Piece → Bytes → VGot
  | [], acc => .ok acc
  | p :: t, acc =>
    match shufelRead.readAs s p.cls party p.addr p.len with
    | (.ok, d) => readPieces s party va t (acc ++ d)
    | (st, _) => .fail st (p.va - va)

/-- A read in a context, on this node. -/
def vread (s : State) (party : Nat) (ctx : Option Ctx) (va len : Nat) : VGot :=
  if len == 0 then .ok []
  else match translateIn s ctx va len .load with
    | .miss _ => .fail .faultUnmapped 0
    | .fault st o => .fail st o
    | .pieces ps => readPieces s party va (cutPieces ps) []

/-- The checks alone of an access in a context, on this node: none when it may be performed. -/
def vcheck (s : State) (party : Nat) (ctx : Option Ctx) (va len : Nat) (op : Op) : Option (Status × Nat) :=
  if len == 0 then none
  else match translateIn s ctx va len op with
    | .miss _ => some (.faultUnmapped, 0)
    | .fault st o => some (st, o)
    | .pieces ps => (cutPieces ps).findSome? (fun p =>
        if addrNode p.addr != s.node || addrSpace p.addr != 0 then some (.faultPermission, p.va - va)
        else if fencedAt s (addrOffset p.addr) then some (.domainDown, p.va - va)
        else (homeCheck s (selfPair s party) op p.cls (addrOffset p.addr) p.len).map (fun st => (st, p.va - va)))

/-- The same, its pieces on other nodes left to the checks of their homes. -/
def vcheckHere (s : State) (party : Nat) (ctx : Option Ctx) (va len : Nat) (op : Op) : Option (Status × Nat) :=
  if len == 0 then none
  else match translateIn s ctx va len op with
    | .miss _ => some (.faultUnmapped, 0)
    | .fault st o => some (st, o)
    | .pieces ps => ((cutPieces ps).filter (fun p => addrNode p.addr == s.node)).findSome? (fun p =>
        if addrSpace p.addr != 0 then some (.faultPermission, p.va - va)
        else if fencedAt s (addrOffset p.addr) then some (.domainDown, p.va - va)
        else (homeCheck s (selfPair s party) op p.cls (addrOffset p.addr) p.len).map (fun st => (st, p.va - va)))

/-- Whether a range is at hand: each byte homed here in DRAM, in no COHERENT range, or failing translation. What is not is read by LOADs. -/
def atHand (s : State) (ctx : Option Ctx) (va len : Nat) : Bool :=
  len == 0 || (match translateIn s ctx va len .load with
    | .pieces ps => (cutPieces ps).all (fun p => addrNode p.addr == s.node && p.cls != .coherent
        && (match (tierOf s (tierPage (addrOffset p.addr))).state with
          | .plain | .riffle => true
          | _ => false))
    | _ => true)

/-- The same of virtual ranges in a context. -/
def vAtRest (write : Bool) (ctx : Option Ctx) (ranges : List (Nat × Nat)) (k : State → State) (s : State) : State :=
  onceHere (ranges.flatMap (fun r => match translateIn s ctx r.1 r.2 .load with
    | .pieces ps => ps.flatMap (fun p => restless s write p.addr p.len)
    | _ => [])).eraseDups k s

/-- The tier pages of this node on which virtual ranges lie. -/
def touchedPages (s : State) (ctx : Option Ctx) (ranges : List (Nat × Nat)) : List Nat :=
  (ranges.flatMap (fun r => match translateIn s ctx r.1 r.2 .load with
    | .pieces ps => (ps.filter (fun p => addrNode p.addr == s.node && addrSpace p.addr == 0)).flatMap (fun p => pagesOf (addrOffset p.addr) p.len)
    | _ => [])).eraseDups

/-- The pages of a range counted as accessed by a party (R68). -/
def countVirtual (party : Nat) (ctx : Option Ctx) (va len : Nat) (s : State) : State :=
  match translateIn s ctx va len .load with
  | .pieces ps => (ps.filter (fun p => addrNode p.addr == s.node)).foldl (fun s p => countRange party (addrOffset p.addr) p.len s) s
  | _ => s

/-- The pieces of a write one after another; the status is the first failure's. -/
def writePieces (party va : Nat) : List Piece → Bytes → Option (Status × Nat) → State → Option (Status × Nat) × State
  | [], _, bad, s => (bad, s)
  | p :: t, d, bad, s =>
    let (st, s) := shufelWrite.writeAs p.cls party p.addr p.durable (d.take p.len) s
    let bad := if bad.isNone && st != .ok then some (st, p.va - va) else bad
    writePieces party va t (d.drop p.len) bad s

/-- A write in a context, on this node: no byte is written where one of its pieces fails its checks (R54). -/
def vwrite (party : Nat) (ctx : Option Ctx) (va : Nat) (data : Bytes) (s : State) : Option (Status × Nat) × State :=
  if data.isEmpty then (none, s)
  else match translateIn s ctx va data.length .store with
    | .miss _ => (some (.faultUnmapped, 0), s)
    | .fault st o => (some (st, o), s)
    | .pieces ps =>
      let qs := cutPieces ps
      match qs.findSome? (fun p => (spanBad s party .store p.cls p.addr p.len).map (fun st => (st, p.va - va))) with
      | some bad => (some bad, s)
      | none => writePieces party va qs data none s

/-- The class, CODING and node of the range that holds a virtual address. -/
def vpiece (s : State) (ctx : Option Ctx) (va : Nat) : Option Piece :=
  match translateIn s ctx va 1 .snpRsp with
  | .pieces (p :: _) => some p
  | _ => none

/-- Whether every piece of a virtual range keeps a condition: none, or the status of the failure and the offset of its first failing byte. -/
def piecesBad (s : State) (ctx : Option Ctx) (va len : Nat) (ok : Piece → Bool) : Option (Status × Nat) :=
  match translateIn s ctx va len .snpRsp with
  | .miss _ => some (.faultUnmapped, 0)
  | .fault st o => some (st, o)
  | .pieces ps => (ps.find? (fun p => !ok p)).map (fun p => (.faultPermission, p.va - va))

/-- A number read in a context; none where the read fails. -/
def vnum (s : State) (party : Nat) (ctx : Option Ctx) (va len : Nat) : Option Nat :=
  match vread s party ctx va len with
  | .ok d => some (ofBytes d)
  | .fail _ _ => none

/-! ## Requests of the rill engine, the sequencers and the mills -/

/-- A translated request issued to its homes, split where it must be (R54, R178), once no byte of it fails the checks of its home or of its
operation; an extent of a fallen domain answers DOMAIN_DOWN (R141). -/
def issueTrans (t : Trans) (r : Req) (s : State) : State :=
  match t with
  | .miss _ => complete r .faultUnmapped [] s
  | .fault st _ => complete r st [] s
  | .pieces ps =>
    let rs := pieceReqs r (cutPieces ps)
    if rs.any (fun p => fencedPool s p.addr) then complete r .domainDown [] s
    else if !wholeOk r rs then complete r .faultPermission [] s
    else match (if rs.length ≤ 1 then none else rs.findSome? (pieceCheck s)) with
      | some st => complete r st [] s
      | none =>
        let (rs, s) := joinPieces r rs s
        rs.foldl (fun s x => issue x s) s

/-- The race whose range cache a source's requests look up in. -/
def cacheRace : Src → Nat
  | .mill m => m / 100
  | _ => 0

/-- A request issued under the table its transfer belongs to (R59): through the range cache where that is the one in force. -/
def issueIn (asid : Nat) (ctx : Option Ctx) (r : Req) (s : State) : State :=
  let (r, s) := inEpoch { r with asid := some asid, tgen := (ctx.map (·.gen)).getD 0 } s
  if ctxOf s r.party asid == ctx then
    let (t, s) := translateCached (cacheRace r.src) r.party asid r.va r.len r.op s
    issueTrans t r s
  else issueTrans (translateIn s ctx r.va r.len r.op) r s

/-- OP_FIELDS of an ATOMIC ADD INT64 with SEAL at POOL scope, without FETCH (R174, R190). -/
def sealAdd : W64 := BitVec.ofNat 64 (at' 1 63 + at' 4 57 + at' 1 50)

/-- OP_FIELDS of an ATOMIC ADD INT64 without flags (R191). -/
def plainAdd : W64 := BitVec.ofNat 64 (at' 1 50)

/-- OP_FIELDS of a STORE with SEAL at POOL scope. -/
def sealPool : W64 := BitVec.ofNat 64 (at' 1 63 + at' 4 57)

/-- Whether a piece of a request fails the checks of its home. -/
def pieceFails (s : State) (r : Req) (p : Piece) : Bool :=
  fencedPool s p.addr || (pieceCheck s { r with addr := p.addr, len := p.len, cls := p.cls }).isSome

/-- Where in a piece the first failing byte lies: its first poisoned line for POISON and UNCORRECTABLE on this node (R74, R75); a response of
another node does not say (log entry 72). -/
def offsetIn (s : State) (st : Status) (p : Piece) : Nat :=
  let off := addrOffset p.addr
  if addrNode p.addr != s.node || !(st == .poison || st == .uncorrectable) then 0
  else (((linesOf off p.len).find? (fun l => s.store.poison.contains l)).map (fun l => l * 64 - off)).getD 0

/-- The offset of the first failing byte of a request that completed with a status, from its own first byte (Table 08-9, R238). -/
def failOffset (s : State) (ctx : Option Ctx) (st : Status) (r : Req) : Nat :=
  match translateIn s ctx r.va r.len r.op with
  | .miss _ => 0
  | .fault _ o => o
  | .pieces ps =>
    let qs := cutPieces ps
    match (if r.part == 0 then (qs.find? (pieceFails s r)).or qs.head? else qs[r.part - 1]?) with
    | some p => p.va - r.va + offsetIn s st p
    | none => 0

/-- STOREs to a partner at its own addresses on its port, in requests of at most 4,096 bytes that do not cross a page
(R222): the number issued. -/
def partnerStores (port : Nat) (mk : Nat → Bytes → Req) : Nat → Nat → Bytes → Nat → State → Nat × State
  | 0, _, _, n, s => (n, s)
  | fuel + 1, va, d, n, s =>
    if d.isEmpty then (n, s)
    else
      let k := min d.length (4096 - va % 4096)
      let (r, s) := inEpoch { mk va (d.take k) with gen := s.hw.compGen } s
      partnerStores port mk fuel (va + k) (d.drop k) (n + 1) (sendOn port r s)

end Sys2Proof.Machine
end

