-- ==== Sys2Proof/Machine/Rill.lean ====
section
/-!
DEFINITION. Rill entries, running descriptors, completion records and doorbells (R206 to R219): what every kind of descriptor
shares. The rill commands themselves stand in RillControl.lean, after the kinds they start.
-/
namespace Sys2Proof.Machine

open Sys2Proof

/-! ## Rill entries -/

def rillOf (s : State) (rill : Nat) : RillEnt := Tbl.get {} s.rill.table rill

def updRill (rill : Nat) (f : RillEnt → RillEnt) (s : State) : State :=
  { s with rill := { s.rill with table := Tbl.upd {} s.rill.table rill f } }

/-- Whether a party's run contains a rill (R206). -/
def ownsRill (s : State) (party rill : Nat) : Bool :=
  let r := partyRec s party
  r.rillFirst ≤ rill && rill < r.rillFirst + r.rillCount

/-- The owning party of a rill; 15 for a rill in nobody's run. -/
def rillParty (s : State) (rill : Nat) : Nat := ((List.range 8).find? (fun p => ownsRill s p rill)).getD 15

def rillStateCode : RillState → Nat
  | .off => 0 | .active => 1 | .draining => 2 | .rearm => 3 | .faulted => 4

def updCtl (party : Nat) (f : RillCtl → RillCtl) (s : State) : State :=
  { s with rill := { s.rill with ctl := Tbl.upd {} s.rill.ctl party f } }

/-! ## Running descriptors -/

def findJob (s : State) (rill index : Nat) : Option Job :=
  s.rill.jobs.find? (fun j => j.rill == rill && j.index == index)

def updJob (rill index : Nat) (f : Job → Job) (s : State) : State :=
  { s with rill := { s.rill with jobs := s.rill.jobs.map (fun j => if j.rill == rill && j.index == index then f j else j) } }

def findFiring (s : State) (id : Nat) : Option Firing := s.rill.firings.find? (fun f => f.id == id)

def updFiring (id : Nat) (g : Firing → Firing) (s : State) : State :=
  { s with rill := { s.rill with firings := s.rill.firings.map (fun f => if f.id == id then g f else f) } }

def Job.chunk (j : Job) (n : Nat) : Option Chunk := j.chunks.find? (fun c => c.num == n)

/-- A chunk changed by f, made if need be. -/
def Job.updChunk (j : Job) (n : Nat) (f : Chunk → Chunk) : Job :=
  if (j.chunk n).isSome then { j with chunks := j.chunks.map (fun c => if c.num == n then f c else c) }
  else { j with chunks := j.chunks ++ [f { num := n }] }

/-- The chunk number under which counter checks and advances are counted. -/
def counterChunk : Nat := 1099511627776

/-- Requests of a descriptor that have not landed. -/
def Job.outstanding (j : Job) : Nat :=
  (j.chunks.map (fun c => (c.issued - c.landed) + (c.reads - c.readsDone))).sum

def Firing.outstanding (f : Firing) : Nat := (f.issued - f.landed) + (f.reads - f.readsDone)

/-- Requests of a rill that have not landed (R192). -/
def rillOutstanding (s : State) (rill : Nat) : Nat :=
  ((s.rill.jobs.filter (fun j => j.rill == rill)).map Job.outstanding).sum
  + ((s.rill.firings.filter (fun f => f.rill == rill)).map Firing.outstanding).sum

/-! ## Codebook slots (R257, R258) -/

def slotOf (s : State) (k : Nat) : Slot := Tbl.get {} s.shoal.slots k

def updSlot (k : Nat) (f : Slot → Slot) (s : State) : State :=
  { s with shoal := { s.shoal with slots := Tbl.upd {} s.shoal.slots k f } }

def ownsSlot (s : State) (party k : Nat) : Bool :=
  let r := partyRec s party
  r.cbFirst ≤ k && k < r.cbFirst + r.cbCount

/-- The party whose run holds a slot. -/
def slotParty (s : State) (k : Nat) : Option Nat := (List.range 8).find? (fun p => ownsSlot s p k)

def cbStateCode : CbState → Nat
  | .free => 0 | .building => 1 | .live => 2 | .retiring => 3

/-- Pool address of a slot's array entry (R257). -/
def slotEntry (s : State) (party k : Nat) : Nat :=
  Tbl.get 0 s.shoal.base party + 32768 * (k - (partyRec s party).cbFirst)

/-- Sub-vector size of a D_CODE. -/
def dOf (dCode : Nat) : Nat := 2 ^ (1 + dCode)

/-- Whether the array entry of a slot lies in PRIVATE or SHARED_RO extents of the party, or of a set that includes it, on this node (R257). -/
def entryPlaced (s : State) (party k : Nat) : Bool :=
  inPrivate.inExtents s (fun e => (e.cls == .priv || e.cls == .sharedRo)
    && (extentMembers s.hw.slice e).contains (selfPair s party)) (slotEntry s party k) 32768

/-- Bytes of a party's array entry written, in an extent that the party itself may only read too: the Shufel writes it (R257). -/
def writeArray (party k off : Nat) (d : Bytes) (s : State) : State :=
  if entryPlaced s party k then (engineWrite party (slotEntry s party k + off) false d s).2 else s

/-- A slot's state changed and its header written to the array (R257). -/
def setSlot (k : Nat) (f : Slot → Slot) (s : State) : State :=
  let s := updSlot k f s
  match slotParty s k with
  | none => s
  | some p =>
    let x := slotOf s k
    writeArray p k 0 (toBytes (at' (cbStateCode x.state) 62 + at' x.gen 46 + at' x.dCode 44 + at' (b2n x.two) 43) 8) s

/-- A codebook slot's reference count changed (R261). -/
def addRef (slot : Nat) (s : State) : State :=
  { s with shoal := { s.shoal with slots := Tbl.upd {} s.shoal.slots slot (fun x => { x with refs := x.refs + 1 }) } }

def dropRef (slot : Nat) (s : State) : State :=
  { s with shoal := { s.shoal with slots := Tbl.upd {} s.shoal.slots slot (fun x => { x with refs := x.refs - 1 }) } }

/-- A completion record becomes due. -/
def addDue (d : RecDue) (s : State) : State := { s with rill := { s.rill with due := s.rill.due ++ [d] } }

/-- A running descriptor ends: its record is due, its slot references and its mill are given back, and a slot it has not
finished building is FREE again (R258). -/
def finishJob (j : Job) (st : Status) (detail : Nat) (indet : Bool) (s : State) : State :=
  let s := { s with
    rill := { s.rill with jobs := s.rill.jobs.filter (fun x => !(x.rill == j.rill && x.index == j.index)) }
    mills := s.mills.map (fun m => if m.2.job == some (j.rill, j.index) then (m.1, { m.2 with job := none, piece := none }) else m)
    attn := s.attn.filter (fun a => !(a.rill == j.rill && a.index == j.index))
    exch := { s.exch with runs := s.exch.runs.filter (fun a => !(a.rill == j.rill && a.index == j.index)) } }
  let s := j.slots.foldl (fun s k => dropRef k s) s
  let s := j.builds.foldl (fun s k => if (slotOf s k).state == .building then setSlot k (fun x => { x with state := .free }) s else s) s
  addDue { rill := j.rill, index := j.index, status := st, indet, gen := j.gen, userTag := j.userTag, detail
           notify := j.notify, op := j.op, names := j.names } s

/-- A descriptor ends with what it has met: CANCELLED when it was cut (R211), WITHDRAWN under teardown (R49), its first error,
or OK. One that lost a reduction is marked INDETERMINATE (R204). -/
def endJob (j : Job) (s : State) : State :=
  if j.withdrawn then finishJob j .withdrawn 0 true s
  else if j.cut then finishJob j .cancelled j.bytes true s
  else match j.err with
    | some (_, st, d) => finishJob j st d j.indet s
    | none => finishJob j .ok j.detail false s

/-- DETAIL of an operand's failure: the operand number and the byte offset (Table 08-9). -/
def operandDetail (operand offset : Nat) : Nat := at' operand 60 + offset % 2 ^ 60

/-- DETAIL of FAULT_UNMAPPED and FAULT_PERMISSION; 0 otherwise. -/
def faultDetail (st : Status) (operand offset : Nat) : Nat :=
  if st == .faultUnmapped || st == .faultPermission then operandDetail operand offset else 0

/-- The earlier of two failures in source order. -/
def firstErr (old : Option (Nat × Status × Nat)) (off : Nat) (st : Status) (detail : Nat) : Option (Nat × Status × Nat) :=
  match old with
  | some (o, x, d) => if off < o then some (off, st, detail) else some (o, x, d)
  | none => some (off, st, detail)

/-! ## Landings (R59, R190) -/

/-- The chunk number under which operands on other nodes are read before a descriptor begins. -/
def stageChunk : Nat := counterChunk + 1

/-- The chunk number of the stores that write an exchange descriptor's output. -/
def outChunk : Nat := counterChunk + 2

/-- Operand number of a descriptor's counter (Tables 08-8, 09-10, 11-4, 12-5). -/
def counterOperand (kind : Nat) : Nat :=
  match kind with
  | 0 => 2 | 1 => 3 | 2 => 4 | _ => 5

/-- The operand whose address is the nearest at or below a virtual address. -/
def operandOf (ws : List Nat) (va : Nat) : Nat :=
  ((ws.zipIdx).foldl (fun (best : Nat × Nat) w => if w.1 ≤ va && best.1 ≤ w.1 then (w.1, w.2) else best) (0, 0)).2

/-- The operand of a descriptor that a STORE of it writes: OUT of an ATTEND, or NOTE for its done words, the pages of an ADMIT or APPEND (R279),
else word 3. -/
def storeOperand (j : Job) (r : Req) : Nat :=
  match j.kind, j.op with
  | 2, 1 => if opSeal r.opf then 4 else 2
  | 2, 2 => 4
  | _, _ => 1

/-- The status that a landed request brings to its descriptor. A MILL or ATTENTION record never holds OWNER_LOST but for a reduction (R218, R249):
an access through a lost window brings STALE_MAP there, the spec naming none (log entry 72). -/
def namedStatus (kind : Nat) (x : Landed) : Status :=
  if x.status == .ownerLost && (kind == 1 || kind == 2) && x.req.op != .reduce then .staleMap else x.status

/-- A landed request counted for its running descriptor. A read's bytes are kept at their offset from the transfer's first
byte (words 2 and 3: source and destination). -/
def landJob (x : Landed) (j : Job) (n : Nat) (s : State) : Job :=
  let x := { x with status := namedStatus j.kind x }
  let isRead := x.req.op == .load
  let isCtr := n == counterChunk
  let staged := n == stageChunk || n == outChunk
  let base := if isCtr then x.req.va else if staged then 0 else if isRead then j.words.getD 0 0 else j.words.getD (storeOperand j x.req) 0
  let off := x.req.va - base
  let ok := x.status == .ok
  let j := if ok && !isRead && !isCtr then { j with bytes := j.bytes + x.req.len } else j
  let j := j.updChunk n (fun c =>
    if isRead then { c with readsDone := c.readsDone + 1, got := if ok then c.got ++ [(off, x.data)] else c.got
                            failed := c.failed || !ok }
    else { c with landed := c.landed + 1, failed := c.failed || !ok })
  if ok then (if isCtr then { j with counterOk := true } else j)
  else if n == stageChunk && j.kind == 2 then
    let o := if x.status == .poison || x.status == .uncorrectable then 0 else min (failOffset s j.ctx x.status x.req) (x.req.len - 1)
    { j with lost := j.lost ++ [(x.req.va + o, x.req.len - o, x.status)] }
  else
    let table := n == outChunk && j.kind == 2
    let operand := if isCtr then counterOperand j.kind else if table then 1 else if staged then operandOf j.words x.req.va
      else if isRead then 0 else storeOperand j x.req
    let fo := if table || (j.kind == 2 && 2 ≤ j.op && !staged) then 0
      else (if staged then x.req.va - j.words.getD operand 0 else off) + failOffset s j.ctx x.status x.req
    { j with err := firstErr j.err (if isCtr then 2 ^ 60 else x.req.coded.getD off) x.status
                      (faultDetail x.status operand (if isCtr then 0 else fo)) }

def landFiring (x : Landed) (f : Firing) : Firing :=
  let isRead := x.req.op == .load
  let ok := x.status == .ok
  let f := if isRead then { f with readsDone := f.readsDone + 1
                                   got := if ok then f.got ++ [(x.req.va - f.src, x.data)] else f.got }
    else { f with landed := f.landed + 1 }
  if ok then f
  else match f.err with
    | some _ => f
    | none => { f with err := some (x.req.va, x.status) }

/-- The descriptor index under which a rill's sequence table on another node is read for an ENABLE (R277). -/
def probeIndex : Nat := 65536

/-- A LOAD of a sequence table landed. -/
def landProbe (x : Landed) (id : Nat) (s : State) : State :=
  let put := fun (q : Probe) => { q with left := q.left - 1, got := if x.status == .ok then q.got ++ [(x.req.va, x.data)] else q.got }
  { s with rill := { s.rill with probes := s.rill.probes.map (fun q => if q.id == id then put q else q) } }

/-- Every landed request of descriptors and firings counted. -/
def absorb (s : State) : State :=
  let mine := s.weir.landed.filter (fun x => match x.req.src with | .rill .. | .course .. => true | _ => false)
  let s := { s with weir := { s.weir with landed := s.weir.landed.filter (fun x => !mine.contains x) } }
  mine.foldl (fun s x => match x.req.src with
    | .rill rill index n => if index == probeIndex then landProbe x n s else updJob rill index (fun j => landJob x j n s) s
    | .course _ id _ => updFiring id (landFiring x) s
    | _ => s) s

/-- Whether a mill still has memory steps of a descriptor outstanding. -/
def millBusy (s : State) (rill index : Nat) : Bool :=
  s.mills.any (fun m => m.2.job == some (rill, index) && (!m.2.steps.isEmpty || m.2.ckpt.isSome))

/-- Whether an expander or an eddy queue still holds anything of a chunk. -/
def inExpanders (s : State) (x : XferId) : Bool :=
  (List.range 8).any (fun n => let r : RaceExp := Tbl.get {} s.shoal.races n
    r.input.any (fun p => p.xfer == x) || r.queue.any (fun w => w.xfer == x && !w.discard))

/-- Whether one still holds anything of a copy. -/
def expanding (s : State) (j : Job) : Bool :=
  j.target == 1 && j.chunks.any (fun c => inExpanders s { course := false, rill := j.rill, index := j.index, chunk := c.num })

/-- A descriptor that was cut ends once everything it issued has landed, and the block of it at an eddy queue's read head is delivered
(R211, R272). -/
def settle (rill : Nat) (s : State) : State :=
  (s.rill.jobs.filter (fun j => j.rill == rill && (j.cut || j.withdrawn) && j.outstanding == 0
    && !millBusy s j.rill j.index && !expanding s j)).foldl (fun s j => endJob j s) s

/-! ## The rill's own structures (R207, R212) -/

/-- A rill moves to FAULTED, its course stops firing, and the cause is logged (R212). -/
def faultRill (rill cause : Nat) (s : State) : State :=
  if (rillOf s rill).state == .active then
    logEv 0x0903 sevWarning (rillParty s rill) 0 rill cause
      (updRill rill (fun e => { e with state := .faulted, fault := cause }) s)
  else s

/-- Fault causes (Table 08-4). -/
def faultDescRead : Nat := 1
def faultCompWrite : Nat := 2
def faultOverrun : Nat := 3
def faultCourse : Nat := 4
def faultParam : Nat := 5

/-- Descriptor index i of a rill: its eight words, or none where it cannot be read (R212, R214). -/
def readDesc (s : State) (rill i : Nat) : Option (List Nat) :=
  let e := rillOf s rill
  match shufelRead s (rillParty s rill) (e.descBase + 64 * (i % 2 ^ e.descLog2)) 64 with
  | (.ok, d) => some (words64 8 d)
  | _ => none

/-- Records that hold a completion slot: due or of descriptors that run, beside those written and not consumed (R215). -/
def slotsHeld (s : State) (rill : Nat) : Nat :=
  (s.rill.due.filter (fun d => d.rill == rill)).length + (s.rill.jobs.filter (fun j => j.rill == rill)).length

def recordsOpen (e : RillEnt) : Nat := (e.compTail + 65536 - e.compHead) % 65536

/-- The four words of a completion record (Table 08-9). -/
def recordWords (s : State) (e : RillEnt) (d : RecDue) : List Nat :=
  let phase := 1 - e.compTail / 2 ^ e.compLog2 % 2
  [at' (d.index % 65536) 48 + at' (statusCode d.status) 40 + at' phase 39 + at' (b2n d.course) 38 + at' (b2n s.tide.free) 37
      + at' (b2n d.indet) 36 + at' (d.gen % 256) 24,
   d.userTag, s.tide.count, d.detail]

/-- R217: a due record written at COMP_TAIL, as a seal of the engine (R174), with MSI-X for a host rill whose descriptor asked for it. A
failed write faults the rill (R212). -/
def writeRecord (d : RecDue) (s : State) : State :=
  let e := rillOf s d.rill
  let p := rillParty s d.rill
  let s := { s with rill := { s.rill with due := s.rill.due.erase d
                                          epochs := Tbl.put s.rill.epochs engineKey ((Tbl.get 0 s.rill.epochs engineKey + 1) % 256) } }
  let addr := e.compBase + 32 * (e.compTail % 2 ^ e.compLog2)
  let (st, s) := shufelWrite p addr false (bytes64 (recordWords s e d)) s
  let s := updRill d.rill (fun e => { e with running := if d.started then e.running - 1 else e.running }) s
  if st != .ok then faultRill d.rill faultCompWrite s
  else
    let s := updRill d.rill (fun e => { e with compTail := (e.compTail + 1) % 65536 }) s
    if e.notifyEn && d.notify && p < 2 then emit (.msix p e.msixVec) s else s

/-- COMPLETION_RECORD (R217): the first due record of a descriptor index is written once the ring has room and the engine's writes for its
party that had to wait are complete (R174). -/
def execCompletionRecord (rill index : Nat) (s : State) : Host.Outcome State Fault Refusal :=
  .next (
    let s := settle rill (absorb s)
    match s.rill.due.find? (fun d => d.rill == rill && d.index == index) with
    | none => s
    | some d =>
      let e := rillOf s rill
      if recordsOpen e < 2 ^ e.compLog2 && mayCall s engineKey && !engineBusy s (rillParty s rill) then
        atRest true (e.compBase + 32 * (e.compTail % 2 ^ e.compLog2)) 32 (writeRecord d) s
      else s)

/-! ## Cancelling (R211) -/

/-- Descriptor indices from a to b, modulo 65,536. -/
def indicesTo (a b : Nat) : List Nat := (List.range ((b + 65536 - a) % 65536)).map (fun i => (a + i) % 65536)

/-- Every unstarted descriptor up to DESC_TAIL completes with a status; a fence of unstarted work has no effect left. -/
def cancelUnstarted (rill : Nat) (st : Status) (s : State) : State :=
  let e := rillOf s rill
  let s := (indicesTo e.descHead e.descTail).foldl (fun s i =>
    let ws := (readDesc s rill i).getD []
    addDue { rill, index := i, status := st, gen := e.gen, userTag := ws.getD 1 0, notify := bit (ws.getD 0 0) 54
             started := false } s) s
  updRill rill (fun e => { e with descHead := e.descTail }) s

/-! ## Doorbells (R214, R215) -/

/-- A doorbell written into an entry that is on chip. A breach faults an ACTIVE rill (R212, R214); what a doorbell posts to one that drains is
cancelled in any case (R211). -/
def ringBell (rill tail head : Nat) (s : State) : State :=
  let e := rillOf s rill
  match e.state with
  | .off | .faulted => s
  | _ =>
    let s := updRill rill (fun e => { e with descTail := tail, compHead := head }) s
    let e := rillOf s rill
    if e.state != .active then cancelUnstarted rill .cancelled s
    else if 2 ^ e.descLog2 < (e.descTail + 65536 - e.descHead) % 65536 || 2 ^ e.compLog2 < recordsOpen e then
      faultRill rill faultOverrun s
    else if e.kind == 5 then cancelUnstarted rill .faultPermission s
    else { s with rill := { s.rill with pending := insertNat rill s.rill.pending } }

/-- Entries that cannot be replaced (R219). -/
def heldEntry (s : State) (rill : Nat) : Bool :=
  let e := rillOf s rill
  0 < e.running || e.state == .draining || e.state == .rearm || (Tbl.find s.rill.bells rill).isSome
  || s.rill.ctl.any (fun c => (c.2.waiting.map (·.2)) == some rill)

/-- The number of rill-cache entries a party may use: its share in a sealed image, else all 1,024 (R219). -/
def cacheShare (s : State) (party : Nat) : Nat := if isSealed s then (partyRec s party).rillCacheShare else 1024

/-- A rill entry brought on chip where a place is free or an entry can be replaced (R219). -/
def fetchEntry (rill : Nat) (s : State) : Option State :=
  let p := rillParty s rill
  if s.rill.cache.contains rill then some s
  else
    let mine := s.rill.cache.filter (fun r => !isSealed s || rillParty s r == p)
    if mine.length < cacheShare s p then some { s with rill := { s.rill with cache := rill :: s.rill.cache } }
    else match (mine.reverse.find? (fun r => !heldEntry s r)) with
      | some v => some { s with rill := { s.rill with cache := rill :: s.rill.cache.filter (· != v) } }
      | none => none

/-- The entry becomes the most recently used one. -/
def touchEntry (rill : Nat) (s : State) : State :=
  if s.rill.cache.contains rill then { s with rill := { s.rill with cache := rill :: s.rill.cache.filter (· != rill) } } else s

/-- A doorbell of a party: its fields taken (Table 08-6), or kept with the rill's pending bit until the entry is on chip; before
READY it is dropped and logged (R368). -/
def doorbell (party : Nat) (v : W64) (s : State) : Status × State :=
  let rill := field v 0 16
  if !ownsRill s party rill then (.refusedIsolation, logIgnored party (partyReg party 0x038) v.toNat s)
  else if !s.boot.ready then (.ok, logIgnored party (partyReg party 0x038) v.toNat s)
  else if s.rill.cache.contains rill then (.ok, ringBell rill (field v 48 16) (field v 32 16) (touchEntry rill s))
  else (.ok, { s with rill := { s.rill with
    bells := Tbl.put s.rill.bells rill (field v 48 16, field v 32 16), pending := insertNat rill s.rill.pending } })

/-- DOORBELL (R215). -/
def execDoorbell (party : Fin 8) (v : W64) (s : State) : Host.Outcome State Fault Refusal := .next (doorbell party v s).2

/-! ## Races and mills (R28) -/

/-- The race of a descriptor, from its first operand (R28): its home race on this node, else the race of the lowest-numbered
link of the port its page leaves by. -/
def raceOf (s : State) (party addr : Nat) : Nat :=
  if addrNode addr == s.node then homeRace s (addrOffset addr)
  else match routePort s party addr with
    | some p => (portEntry s p).firstLink / 4
    | none => 0

/-- The mills of a race that a party's descriptors may take (R28, Table 04-13): all 100 in an open image, in a sealed one the
party's own set, the sets laid out in party order (log entry 21). -/
def millsOf (s : State) (race party : Nat) : List Nat :=
  if isSealed s then
    let first := ((List.range party).map (fun q => (partyRec s q).mills)).sum
    rangeFrom (race * 100 + first) (partyRec s party).mills
  else rangeFrom (race * 100) 100

/-- A sealed image that gives the party no mills (R28). -/
def noMills (s : State) (party : Nat) : Bool := isSealed s && (partyRec s party).mills == 0

def millOf (s : State) (m : Nat) : Mill := Tbl.get {} s.mills m

def updMill (m : Nat) (f : Mill → Mill) (s : State) : State := { s with mills := Tbl.upd {} s.mills m f }

/-- The free mills of a race that a party's descriptors may take. -/
def freeMills (s : State) (race party : Nat) : List Nat := (millsOf s race party).filter (fun m => (millOf s m).job.isNone)

/-- The mill a descriptor takes: the lowest-numbered free one whose last descriptor was of the same party, else the
lowest-numbered free one (R28). -/
def pickMill (s : State) (race party : Nat) : Option Nat :=
  let free := freeMills s race party
  match free.find? (fun m => (millOf s m).party == some party) with
  | some m => some m
  | none => free.head?

/-- Rills in rotation from the one after the last served (R28). -/
def rotation (last : Nat) (rs : List Nat) : List Nat := rs.filter (fun r => last < r) ++ rs.filter (fun r => r ≤ last)

/-- Whether it is a rill's turn for a mill of a race: it is the first of those that wait for one, after the last one served (R28). -/
def inTurn (s : State) (race party : Nat) (ready : List Nat) (rill : Nat) : Bool :=
  !(freeMills s race party).isEmpty && (rotation (Tbl.get 65535 s.rill.lastRace race) ready).head? == some rill

/-- A rill has been served a mill of a race. -/
def servedRill (race rill : Nat) (s : State) : State :=
  { s with rill := { s.rill with lastRace := Tbl.put s.rill.lastRace race rill } }

/-- R26, R226: a mill taken for a descriptor of a party. The SRAM, the candidate queue and the undo log are zeroed before a
descriptor of another party. -/
def takeMill (m party rill index : Nat) (words : List Nat) (s : State) : State :=
  updMill m (fun x =>
    { party := some party, job := some (rill, index), epoch := x.epoch
      sram := if x.party == some party then x.sram else []
      regs := (words.take 6).map (fun w => BitVec.ofNat 64 w) ++ List.replicate (16 - (words.take 6).length) 0#64
      nextStep := x.nextStep }) s

/-- Mills taken for a descriptor one after another, as many as are free up to a number. -/
def takeMills (race party rill index : Nat) (words : List Nat) : Nat → State → State
  | 0, s => s
  | n + 1, s => match pickMill s race party with
    | none => s
    | some m => takeMills race party rill index words n (takeMill m party rill index words s)

/-- Work of a running descriptor done by a team of mills of a race, taken for it and given back at once (R26, R282, R287, R290): mills that the
descriptor holds there count to it, and it waits while too few are free. -/
def withTeam (race party rill index n : Nat) (k : State → State) (s : State) : State :=
  let held := (s.mills.filter (fun m => m.2.job == some (rill, index))).map (·.1)
  let all := millsOf s race party
  let more := min n all.length - (all.filter held.contains).length
  if (freeMills s race party).length < more then s
  else
    let s := k (servedRill race rill (takeMills race party rill index [] more s))
    { s with mills := s.mills.map (fun m => if m.2.job == some (rill, index) && !held.contains m.1 then (m.1, { m.2 with job := none }) else m) }

/-- A mill that ran a piece of a descriptor is free again. -/
def freePiece (rill index p : Nat) (s : State) : State :=
  { s with mills := s.mills.map (fun m => if m.2.job == some (rill, index) && m.2.piece == some p then
      (m.1, { m.2 with job := none, piece := none }) else m) }

end Sys2Proof.Machine
end

