-- ==== Sys2Proof/Machine/Shoal.lean ====
section
/-!
DEFINITION. Codebook slots and their commands (R257 to R262), codebook construction (R263), encoding of sub-vectors (R264) and
the codebook store of each race (R273).
-/
namespace Sys2Proof.Machine

open Sys2Proof

/-! ## Use of slots -/

/-- R260: whether a party may use a slot: its own, or one published in a SHARED_RO extent whose sharing set includes it. -/
def slotUsable (s : State) (party k : Nat) : Bool :=
  ownsSlot s party k || (match slotParty s k with
    | none => false
    | some p => inPrivate.inExtents s (fun e => e.cls == .sharedRo && (extentMembers s.hw.slice e).contains (selfPair s party))
        (slotEntry s p k) 32768)

/-- R259, R261: whether a block or descriptor of a transfer begun at request number `born` matches the slot's codebook. -/
def slotMatches (s : State) (k gen born : Nat) : Bool :=
  let x := slotOf s k
  x.gen == gen && (x.state == .live || (x.state == .retiring && born ≤ x.retiredAt))

/-- R258: a LIVE slot enters RETIRING. A slot without references waits for the period boundary (R261). -/
def retireSlot (k : Nat) (s : State) : State :=
  let now := s.weir.nextId
  let s := setSlot k (fun x => { x with state := .retiring, retiredAt := now, boundary := x.refs != 0 }) s
  { s with weir := { s.weir with nextId := now + 1 } }

/-- Free slots of a party's run, lowest first. -/
def freeSlots (s : State) (party : Nat) : List Nat :=
  (rangeFrom (partyRec s party).cbFirst (partyRec s party).cbCount).filter (fun k => (slotOf s k).state == .free)

/-! ## Book vectors -/

/-- A sub-vector of FP32 values. -/
abbrev Vec := List FVal

/-- Entry c of a book of BF16 patterns, widened exactly. -/
def bookVec (book : List Nat) (d c : Nat) : Vec := ((book.drop (d * c)).take d).map bf16.decode

def Vec.finite (x : Vec) : Bool := x.all FVal.isFin

/-- Squared Euclidean distance in FP32; the order of its accumulation is open (R263). -/
def dist2 (x y : Vec) : Nat :=
  anyOrder (x.length + 2) ((x.zip y).map (fun p => let e := p.1.sub p.2; e.mul e))

/-- The lowest index of least distance. -/
def nearest (x : Vec) : List (Nat × Vec) → Option (Nat × Nat) → Nat
  | [], best => (best.map (·.1)).getD 0
  | (c, y) :: t, best =>
    let e := dist2 x y
    match best with
    | some (b, eb) => nearest x t (if f32lt e eb then some (c, e) else some (b, eb))
    | none => nearest x t (some (c, e))

/-- R264: the code of a sub-vector in a book; one with a NaN or an infinity is code 0. -/
def codeOf (book : List Nat) (d : Nat) (x : Vec) : Nat :=
  if !x.finite then 0 else nearest x ((List.range 256).map (fun c => (c, bookVec book d c))) none

/-- The residual x − cb[p], in FP32. -/
def residual (book : List Nat) (d : Nat) (x : Vec) (p : Nat) : Vec :=
  (x.zip (bookVec book d p)).map (fun q => fp32.round (q.1.sub q.2))

/-- The codes of a sub-vector, primary then residual with TWO_STAGE (R252, R264). -/
def codesOf (k : Slot) (x : Vec) : List Nat :=
  let d := dOf k.dCode
  let p := codeOf k.book d x
  if k.two then
    if !x.finite then [0, 0] else [p, codeOf k.resid d (residual k.book d x p)]
  else [p]

/-- R254: the BF16 patterns a code expands to. -/
def expandCode (k : Slot) (p r : Nat) : List Nat :=
  let d := dOf k.dCode
  if k.two then
    ((bookVec k.book d p).zip (bookVec k.resid d r)).map (fun q => bf16.encode (fp32.round (q.1.add q.2)))
  else (k.book.drop (d * p)).take d

/-! ## Building a book (R263) -/

/-- Sum in index order, rounded at each addition, and divided by the count. -/
def meanVec (d : Nat) (xs : List Vec) : Vec :=
  let add := fun (a x : Vec) => (a.zip x).map (fun p => fp32.round (p.1.add p.2))
  match xs with
  | [] => List.replicate d (.fin false 0 0)
  | x :: t => (t.foldl add x).map (fun e => fp32.round (e.div (.fin false xs.length 0)))

/-- The sample index farthest from its centroid and not yet taken, ties to the lowest. -/
def farthest (sample : List Vec) (assign : List Nat) (cent : List Vec) (taken : List Nat) : Nat :=
  let go := fun (best : Option (Nat × Nat)) (i : Nat) =>
    if taken.contains i then best
    else
      let e := dist2 (nth [] sample i) (nth [] cent (nth 0 assign i))
      match best with
      | some (b, eb) => if f32lt eb e then some (i, e) else some (b, eb)
      | none => some (i, e)
  (((List.range sample.length).foldl go none).map (·.1)).getD 0

/-- A centroid for which no sample is left to be taken, which R263 does not state (log entry 70). -/
def spareVec (d c : Nat) (cent : List Vec) : Vec :=
  (List.range d).map (fun e => fp32.decode (Config.spareCentroid ((c, Int.ofNat e) :: cent.flatMap (fun v => v.map FVal.key)) % 2 ^ 32))

/-- One iteration of the procedure of R263. -/
def iterate (d : Nat) (sample : List Vec) (cent : List Vec) : List Vec :=
  let assign := sample.map (fun x => nearest x ((cent.zipIdx).map (fun q => (q.2, q.1))) none)
  let step := fun (st : List Vec × List Nat) (c : Nat) =>
    let mine := ((sample.zip assign).filter (fun p => p.2 == c)).map (·.1)
    if mine.isEmpty && sample.length ≤ st.2.length then (setNth st.1 c (spareVec d c st.1), st.2)
    else if mine.isEmpty then
      let i := farthest sample assign st.1 st.2
      (setNth st.1 c (nth [] sample i), i :: st.2)
    else (setNth st.1 c (meanVec d mine), st.2)
  ((List.range 256).foldl step (cent, [])).1

def iterateN (d : Nat) (sample : List Vec) : Nat → List Vec → List Vec
  | 0, cent => cent
  | n + 1, cent => iterateN d sample n (iterate d sample cent)

/-- The book built from V sub-vectors; none where no sampled sub-vector is finite. -/
def buildBook (d : Nat) (vs : List Vec) : Option (List Nat) :=
  let v := vs.length
  let m := min v 65536
  let sample := ((List.range m).map (fun i => nth [] vs (i * v / m))).filter Vec.finite
  if sample.isEmpty then none
  else
    let cent := (List.range 256).map (fun c => nth [] sample (c * sample.length / 256))
    some ((iterateN d sample 8 cent).flatMap (fun x => x.map bf16.encode))

/-- Sub-vectors of d elements. -/
def subVecs (d : Nat) : Nat → List FVal → List Vec
  | 0, _ => []
  | n + 1, xs => if xs.length < d then [] else xs.take d :: subVecs d n (xs.drop d)

/-- Both books of a slot from BF16 elements. -/
def buildBooksOf (dCode : Nat) (two : Bool) (elems : List Nat) : Option (List Nat × List Nat) :=
  let d := dOf dCode
  let vs := subVecs d elems.length (elems.map bf16.decode)
  match buildBook d vs with
  | none => none
  | some b =>
    if two then
      match buildBook d (vs.map (fun x => residual b d x (codeOf b d x))) with
      | none => none
      | some r => some (b, r)
    else some (b, [])

/-- A built slot made LIVE: the books written to its array entry and its device copy (R258). -/
def goLive (party k dCode : Nat) (two : Bool) (b r : List Nat) (s : State) : State :=
  let s := writeArray party k 0x1000 (bytes16 b) s
  let s := if two then writeArray party k 0x3000 (bytes16 r) s else s
  setSlot k (fun x => { x with state := .live, gen := (x.gen + 1) % 65536, dCode, two, book := b, resid := r }) s

/-! ## Codebook stores (R273) -/

def raceExp (s : State) (race : Nat) : RaceExp := Tbl.get {} s.shoal.races race

def updRace (race : Nat) (f : RaceExp → RaceExp) (s : State) : State :=
  { s with shoal := { s.shoal with races := Tbl.upd {} s.shoal.races race f } }

/-- Bytes of a resident copy. -/
def copyBytes (x : Slot) : Nat := (512 * dOf x.dCode * (if x.two then 2 else 1) + 1023) / 1024 * 1024

/-- Codebook store bytes of a race that a party's books may use: those of the region, or in a sealed image the party's share of it (R17). -/
def cbStoreBytes (s : State) (party : Nat) : Nat :=
  let region := (if s.hw.settings.basinCb == 0 then 2 else s.hw.settings.basinCb) * 1048576
  if isSealed s then min region ((partyRec s party).cbStoreKib * 1024) else region

/-- Whether a race's blocks in flight, running built-in operations or firings use a copy (R273); a piece of an ATTENTION descriptor uses its
copies only while it is done. -/
def copyInUse (s : State) (race k : Nat) : Bool :=
  let r := raceExp s race
  r.queue.any (fun w => w.slot == k) || r.input.any (fun p => p.ref == some k)
  || s.rill.jobs.any (fun j => j.kind == 1 && j.race == race && j.slots.contains k)
  || s.rill.firings.any (fun f => f.action == 0 && bits f.dst 61 3 == race && f.slots.contains k)

/-- A copy made resident, copies not in use dropped least-recently-used first; none while it does not fit (R273). -/
def makeResident (race slot party : Nat) (s : State) : Option State :=
  let st := (raceExp s race).store
  if st.any (fun c => c.1 == slot) then
    some (updRace race (fun r => { r with store := (r.store.filter (fun c => c.1 == slot)) ++ r.store.filter (fun c => c.1 != slot) }) s)
  else
    let limit := cbStoreBytes s party
    let need := copyBytes (slotOf s slot)
    let mine := fun (c : Nat × Nat) => !isSealed s || c.2 == party
    let used := fun (l : List (Nat × Nat)) => ((l.filter mine).map (fun c => copyBytes (slotOf s c.1))).sum
    let drop := fun (l : List (Nat × Nat)) (c : Nat × Nat) =>
      if used l + need ≤ limit || !mine c || copyInUse s race c.1 then l else l.filter (· != c)
    let kept := st.reverse.foldl drop st
    if used kept + need ≤ limit then some (updRace race (fun r => { r with store := (slot, party) :: kept }) s) else none

/-! ## Slots becoming free, and the commands (R258, R262) -/

def updCb (party : Nat) (f : CbCtl → CbCtl) (s : State) : State :=
  { s with shoal := { s.shoal with ctl := Tbl.upd {} s.shoal.ctl party f } }

/-- REASON codes of CB_STATUS. -/
def cbBadState : Nat := 1
def cbBadField : Nat := 2
def cbBadLocation : Nat := 3
def cbNotOwner : Nat := 4

/-- The outcome of a command reported. -/
def cbAnswer (party slot result reason : Nat) (s : State) : State :=
  let x := slotOf s slot
  updCb party (fun c => { c with slot, state := x.state, gen := x.gen, result, reason, waiting := none }) s

/-- R262: an INSTALL whose target may be acted on. -/
def installNow (party : Nat) (v : W64) (s : State) : State :=
  let k := field v 0 12
  let gen := field v 44 16
  let dCode := field v 42 2
  let two := flag v 41
  let old := field v 28 12
  let a := slotEntry s party k
  let base := Tbl.get 0 s.shoal.base party
  let x := slotOf s k
  if !ownsSlot s party k || (flag v 40 && !ownsSlot s party old) then cbAnswer party k 2 cbNotOwner s
  else if addrNode base != s.node || addrSpace base != 0 || base % 32768 != 0 || !entryPlaced s party k then
    cbAnswer party k 2 cbBadLocation s
  else if x.state == .live || x.state == .building then cbAnswer party k 2 cbBadState s
  else if flag v 40 && (slotOf s old).state != .live then cbAnswer party k 2 cbBadState s
  else if x.gen == gen && !x.book.isEmpty then cbAnswer party k 2 cbBadField s
  else if x.state == .retiring then
    updCb party (fun c => { c with slot := k, state := x.state, gen := x.gen, result := 1, reason := 0, waiting := some v }) s
  else
    let n := 256 * dOf dCode
    match shufelRead s party (a + 0x1000) (2 * n), (if two then shufelRead s party (a + 0x3000) (2 * n) else (.ok, [])) with
    | (.ok, b), (.ok, r) =>
      let s := countRange party (addrOffset a) 32768 s
      let s := setSlot k (fun x => { x with state := .live, gen, dCode, two, book := words16 n b
                                            resid := if two then words16 n r else [] }) s
      let s := if flag v 40 then retireSlot old s else s
      cbAnswer party k 0 0 s
    | _, _ => cbAnswer party k 2 cbBadLocation s

/-- R262: RELEASE. -/
def releaseNow (party : Nat) (v : W64) (s : State) : State :=
  let k := field v 0 12
  if !ownsSlot s party k then cbAnswer party k 2 cbNotOwner s
  else if (slotOf s k).state == .live then cbAnswer party k 0 0 (retireSlot k s)
  else cbAnswer party k 0 0 s

def cbQueryNow (party : Nat) (v : W64) (s : State) : State :=
  let k := field v 0 12
  if !ownsSlot s party k then cbAnswer party k 2 cbNotOwner s else cbAnswer party k 0 0 s

/-- A CB_CTL command (Table 10-5): ignored with CMD_DROP while RESULT is BUSY. -/
def cbCommand (party cmd : Nat) (v : W64) (s : State) : State :=
  if !s.boot.ready then logIgnored party (partyReg party 0x058) v.toNat s
  else if (Tbl.get {} s.shoal.ctl party).result == 1 then updCb party (fun c => { c with cmdDrop := true }) s
  else match cmd with
    | 1 => installNow party v s
    | 2 => releaseNow party v s
    | 3 => cbQueryNow party v s
    | _ => logIgnored party (partyReg party 0x058) v.toNat s

/-- INSTALLs that waited for a slot go on. -/
def retryInstalls (k : Nat) (s : State) : State :=
  (List.range 8).foldl (fun s p => match (Tbl.get {} s.shoal.ctl p).waiting with
    | some v => if field v 0 12 == k then installNow p v (updCb p (fun c => { c with waiting := none, result := 0 }) s) else s
    | none => s) s

/-- R258, R261: a RETIRING slot without references becomes FREE. -/
def freeSlot (k : Nat) (s : State) : State :=
  let x := slotOf s k
  if x.state == .retiring && x.refs == 0 && x.boundary then
    let s := setSlot k (fun x => { x with state := .free, boundary := false }) s
    let rs := Tbl.mapVal (fun (r : RaceExp) => { r with store := r.store.filter (fun c => c.1 != k) }) s.shoal.races
    let s := { s with shoal := { s.shoal with races := rs } }
    retryInstalls k s
  else s

/-- A slot of the party is in use (R257). -/
def slotsInUse (s : State) (party : Nat) : Bool :=
  (rangeFrom (partyRec s party).cbFirst (partyRec s party).cbCount).any (fun k => (slotOf s k).state != .free)

/-- R257: a write to CODEBOOK_BASE. -/
def writeCbBase (party : Nat) (v : W64) (s : State) : State :=
  if slotsInUse s party then logIgnored party (partyReg party 0x050) v.toNat s
  else { s with shoal := { s.shoal with base := Tbl.put s.shoal.base party (at' (field v 15 49) 15) } }

/-- INSTALL (R262). -/
def execInstall (party : Fin 8) (v : W64) (s : State) : Host.Outcome State Fault Refusal := .next (cbCommand party 1 v s)

/-- RELEASE (R262). -/
def execRelease (party : Fin 8) (v : W64) (s : State) : Host.Outcome State Fault Refusal := .next (cbCommand party 2 v s)

/-- CB_QUERY (R262). -/
def execCbQuery (party : Fin 8) (v : W64) (s : State) : Host.Outcome State Fault Refusal := .next (cbCommand party 3 v s)

/-- CODEBOOK_BASE_WRITE (R257). -/
def execCodebookBaseWrite (party : Fin 8) (v : W64) (s : State) : Host.Outcome State Fault Refusal :=
  .next (writeCbBase party v s)

/-- SLOT_FREED (R261). -/
def execSlotFreed (k : Nat) (s : State) : Host.Outcome State Fault Refusal := .next (freeSlot k s)

end Sys2Proof.Machine
end

