-- ==== Sys2Proof/Machine/Expander.lean ====
section
/-!
DEFINITION. Coded blocks, the expander of each race and its eddy queue (R251 to R256, R259 to R261, R265 to R272).
-/
namespace Sys2Proof.Machine

open Sys2Proof

/-! ## Block headers (Table 10-1) -/

/-- One step of a CRC-8 with polynomial 0x07 over a byte, most significant bit first. -/
def crc8Step (crc : Nat) (b : Nat) : Nat :=
  (List.range 8).foldl (fun c _ => if bit c 7 then (c * 2 % 256) ^^^ 0x07 else c * 2 % 256) (crc ^^^ b)

/-- CRC-8, polynomial 0x07, initial value 0. -/
def crc8 (bs : List Nat) : Nat := bs.foldl crc8Step 0

structure BlockHdr where
  format : Nat
  slot   : Nat
  gen    : Nat
  dCode  : Nat
  two    : Bool
  count  : Nat                         -- sub-vectors
  expLen : Nat                         -- E
  rsvd   : Bool                        -- a reserved bit is set
  hchkOk : Bool
  expOff : Nat
  deriving DecidableEq, Repr

def blockHdr (bs : Bytes) : BlockHdr :=
  let w0 := ofBytes (bs.take 8)
  let w1 := ofBytes ((bs.drop 8).take 8)
  { format := bits w0 60 4, slot := bits w0 48 12, gen := bits w0 32 16, dCode := bits w0 30 2, two := bit w0 29
    count := bits w0 17 12 + 1, expLen := bits w0 5 12 + 1, rsvd := bits w0 0 5 != 0 || bits w1 40 16 != 0
    hchkOk := crc8 ((bs.take 15).map (fun b => b.toNat) ++ [0]) == bits w1 56 8, expOff := bits w1 0 40 }

/-- A header's 16 bytes (R252). -/
def hdrBytes (slot gen dCode : Nat) (two : Bool) (count expLen expOff : Nat) : Bytes :=
  let w0 := at' 1 60 + at' slot 48 + at' gen 32 + at' dCode 30 + at' (b2n two) 29 + at' (count - 1) 17 + at' (expLen - 1) 5
  let low := toBytes w0 8 ++ toBytes expOff 7
  low ++ toBytes (crc8 (low.map (fun b => b.toNat) ++ [0])) 1

/-- Coded length of a block: header and codes, rounded up to 16 (R252). -/
def codedLen (count : Nat) (two : Bool) : Nat := (16 + count * (if two then 2 else 1) + 15) / 16 * 16

/-- P bytes a block's codes produce (R254). -/
def blockBytes (k : Slot) (count : Nat) (codes : Bytes) : Bytes :=
  (List.range count).flatMap (fun j =>
    let p := if k.two then (nth 0#8 codes (2 * j)).toNat else (nth 0#8 codes j).toNat
    let r := if k.two then (nth 0#8 codes (2 * j + 1)).toNat else 0
    bytes16 (expandCode k p r))

/-- The bytes delivered for a block and its outcome (R256). -/
def fitBlock (e : Nat) (p : Bytes) : Bytes × Status :=
  if e < p.length then (p.take e, .overrun)
  else if p.length < e then (p ++ List.replicate (e - p.length) 0#8, .short)
  else (p, .ok)

/-! ## Transfers -/

/-- The transfer of a chunk. -/
def XferId.whole (x : XferId) : XferId := { x with chunk := 0 }

/-- An outcome of a block entered for its transfer (R256). -/
def addOutcome (x : XferId) (off : Nat) (st : Status) (p : Nat) (s : State) : State :=
  let l := s.shoal.outcomes
  let e := (l.find? (fun o => o.xfer == x.whole)).getD { xfer := x.whole }
  let e := { e with list := e.list ++ [(off, st, p)] }
  { s with shoal := { s.shoal with outcomes := e :: l.filter (fun o => o.xfer != x.whole) } }

/-- The outcomes of a transfer in ascending coded order. -/
def sortedOutcomes (s : State) (x : XferId) : List (Nat × Status × Nat) :=
  let l := ((s.shoal.outcomes.find? (fun o => o.xfer == x.whole)).map (·.list)).getD []
  l.foldl (fun a y => a.takeWhile (fun z => z.1 ≤ y.1) ++ [y] ++ a.dropWhile (fun z => z.1 ≤ y.1)) []

/-- A status from 0x10 upward is an error status (R256). -/
def isError (st : Status) : Bool := 0x10 ≤ statusCode st

/-- R256: the status of an expanding transfer and its DETAIL. -/
def xferStatus (s : State) (x : XferId) : Status × Nat :=
  let l := sortedOutcomes s x
  match l.find? (fun y => isError y.2.1) with
  | some (off, st, _) => (st, if st == .faultUnmapped || st == .faultPermission then operandDetail 0 off else 0)
  | none => match l.find? (fun y => y.2.1 != .ok) with
    | some (off, st, p) => (st, at' (off / 16) 32 + p)
    | none => (.ok, 0)

def dropOutcomes (x : XferId) (s : State) : State :=
  { s with shoal := { s.shoal with outcomes := s.shoal.outcomes.filter (fun o => o.xfer != x.whole)
                                   expOff := s.shoal.expOff.filter (fun o => o.1 != x.whole) } }

/-- EXP_OFF0 of a transfer, where its first coded page is known (R255). -/
def expOff0 (s : State) (x : XferId) : Option Nat := (s.shoal.expOff.find? (fun o => o.1 == x.whole)).map (·.2)

/-- The first error of an expanding transfer and its coded offset. -/
def xferFirst (s : State) (x : XferId) : Option (Nat × Status × Nat) :=
  ((sortedOutcomes s x).find? (fun y => isError y.2.1)).map (fun y => (y.1, y.2.1, (xferStatus s x).2))

/-- A coded page in an expander's input buffer. EXP_OFF0 comes from the first block of the transfer's first coded page; the spec
names none for a first page without a block, which leaves it open. -/
def pushPage (race : Nat) (pg : ExpPage) (s : State) : State :=
  let h := blockHdr (pg.data.take 16)
  let s := updRace race (fun r => { r with input := r.input ++ [pg] }) s
  if !pg.first then s
  else if h.format == 1 then { s with shoal := { s.shoal with expOff := s.shoal.expOff ++ [(pg.xfer.whole, h.expOff)] } }
  else { s with shoal := { s.shoal with expOff := s.shoal.expOff ++ [(pg.xfer.whole, Config.freeNat s.freeCtr)] }
                freeCtr := s.freeCtr + 1 }

/-- A reference that a page's block held, given back. -/
def dropPageRef (pg : ExpPage) (s : State) : State :=
  match pg.ref with
  | some k => dropRef k s
  | none => s

/-- The front page dropped, its parsing ended. -/
def endPage (race : Nat) (pg : ExpPage) (s : State) : State :=
  let s := dropPageRef pg s
  updRace race (fun r => { r with input := r.input.erase pg, miss := none }) s

/-- The coded pages of a transfer whose first one will never come dropped: EXP_OFF0 stays unknown, and none of them can be placed (R255). -/
def dropPages (x : XferId) (s : State) : State :=
  (List.range 8).foldl (fun s race =>
    ((raceExp s race).input.filter (fun p => p.xfer.whole == x.whole)).foldl (fun s p => endPage race p s) s) s

/-- Input buffer pages a party may hold in a race: eight in an open image, its share in a sealed one (R268). -/
def inputPages (s : State) (party : Nat) : Nat := if isSealed s then (partyRec s party).inputKib / 4 else 8

/-- Whether a page of the input buffer can be reserved: pages held, beside those whose reads are under way. -/
def inputRoom (s : State) (race party under : Nat) : Bool :=
  let held := ((raceExp s race).input.filter (fun p => !isSealed s || p.party == party)).length
  held + under < inputPages s party

/-- Eddy queue words a party may hold (R268, R269). -/
def eddyWords (s : State) (party : Nat) : Nat := if isSealed s then (partyRec s party).eddyKib * 128 else 8192

/-- A transfer expanded in a race where, in a sealed image, its party has no share (R268). -/
def noShare (s : State) (party : Nat) : Bool :=
  isSealed s && ((partyRec s party).inputKib == 0 || (partyRec s party).eddyKib == 0 || (partyRec s party).cbStoreKib == 0)

/-- The words of a block, packed from its first byte (R269). -/
def wordsOf (x : XferId) (off coded slot party : Nat) (dest : XDest) : Nat → Nat → Bytes → List EddyWord
  | 0, _, _ => []
  | fuel + 1, i, bs =>
    if bs.isEmpty then []
    else
      let n := min 8 bs.length
      { data := BitVec.ofNat 64 (ofBytes (bs.take 8)), check := Config.eddyCheck (BitVec.ofNat 64 (ofBytes (bs.take 8))), valid := n % 8, xfer := x, off := off + 8 * i, last := bs.length ≤ 8
        first := i == 0, slot, coded, dest, party } :: wordsOf x off coded slot party dest fuel (i + 1) (bs.drop 8)

/-- A block's header accepted: the block references its slot from now on (R261). -/
def accepted (race : Nat) (pg : ExpPage) (h : BlockHdr) (s : State) : State :=
  addRef h.slot (updRace race (fun r => { r with input := r.input.map (fun p => if p == pg then { p with ref := some h.slot } else p) }) s)

/-- The parse position moved past a block. -/
def skipBlock (race : Nat) (pg : ExpPage) (h : BlockHdr) (s : State) : State :=
  let past := fun (p : ExpPage) => if p == pg then { p with pos := p.pos + codedLen h.count h.two, ref := none } else p
  updRace race (fun r => { r with input := r.input.map past, miss := none }) s

/-- An accepted block expanded into the eddy queue, once its codebook is resident and the queue has room for its words. -/
def placeBlock (race : Nat) (pg : ExpPage) (h : BlockHdr) (off0 : Nat) (s : State) : State :=
  if !((raceExp s race).store.any (fun c => c.1 == h.slot)) then updRace race (fun r => { r with miss := some h.slot }) s
  else
    let s := (makeResident race h.slot pg.party s).getD s
    let p := blockBytes (slotOf s h.slot) h.count ((pg.data.drop (pg.pos + 16)).take (codedLen h.count h.two - 16))
    let (d, st) := fitBlock h.expLen p
    let ws := wordsOf pg.xfer (h.expOff - off0) (pg.off + pg.pos) h.slot pg.party pg.dest (d.length + 1) 0 d
    let held := ((raceExp s race).queue.filter (fun w => !isSealed s || w.party == pg.party)).length
    if eddyWords s pg.party < held + ws.length then s
    else
      let s := addOutcome pg.xfer (pg.off + pg.pos) st p.length s
      skipBlock race pg h (updRace race (fun r => { r with queue := r.queue ++ ws }) s)

/-- A block of the page at its parse position checked (R253, R255, R259, R260), accepted and placed. -/
def expandAt (race : Nat) (pg : ExpPage) (h : BlockHdr) (off0 : Nat) (s : State) : State :=
  let at_ := pg.off + pg.pos
  let k := slotOf s h.slot
  if !slotUsable s pg.party h.slot then skipBlock race pg h (addOutcome pg.xfer at_ .refusedIsolation 0 s)
  else if !slotMatches s h.slot h.gen pg.born then skipBlock race pg h (addOutcome pg.xfer at_ .faultUnmapped 0 s)
  else if k.dCode != h.dCode || k.two != h.two then endPage race pg (addOutcome pg.xfer at_ .faultPermission 0 s)
  else if h.expOff < off0 then skipBlock race pg h (addOutcome pg.xfer at_ .faultPermission 0 s)
  else placeBlock race { pg with ref := some h.slot } h off0 (if pg.ref.isNone then accepted race pg h s else s)

/-- Whether an expander serves a party now: in a sealed image only in core cycles whose slot names it for the race (R268). -/
def expServes (s : State) (race party : Nat) : Bool :=
  !isSealed s || (match weirTable s s.weir.kind with
    | some t => ((nth {} t.slots (s.weir.cycle % 8192)).race race).party == party
    | none => false)

/-- EXPAND_BLOCK: the next block of the page that came first of those served (R253, R256, R268); it waits until its transfer's EXP_OFF0 is
known. -/
def expandBlock (race : Nat) (s : State) : State :=
  match (raceExp s race).input.find? (fun p => expServes s race p.party) with
  | none => s
  | some pg =>
    let off0 := (expOff0 s pg.xfer).getD 0
    if (expOff0 s pg.xfer).isNone then s
    else if 4096 < pg.pos + 16 then endPage race pg s
    else
      let bs := (pg.data.drop pg.pos).take 16
      let h := blockHdr bs
      if ofBytes bs == 0 then endPage race pg s
      else if h.format != 1 || h.rsvd || !h.hchkOk || 4096 < pg.pos + codedLen h.count h.two then
        endPage race pg (addOutcome pg.xfer (pg.off + pg.pos) .faultPermission 0 s)
      else expandAt race pg h off0 s

/-! ## The eddy queue's read side -/

/-- Words of the line at the head: at most 64 words of one block, up to its end (R269). -/
def lineWords : Nat → List EddyWord → List EddyWord
  | 0, _ => []
  | _, [] => []
  | n + 1, w :: t => if w.last then [w] else w :: lineWords n t

def wordBytes (w : EddyWord) : Bytes := toBytes w.data.toNat (if w.valid == 0 then 8 else w.valid)

/-- The party, context and request number of a transfer. -/
def xferParty (s : State) (x : XferId) : Nat × Option Ctx :=
  if x.course then match findFiring s x.index with
    | some f => (f.party, f.ctx)
    | none => (15, none)
  else match findJob s x.rill x.index with
    | some j => (j.party, j.ctx)
    | none => (15, none)

/-- The ASID a transfer's addresses belong to. -/
def xferAsid (s : State) (x : XferId) : Nat :=
  if x.course then ((findFiring s x.index).map (·.asid)).getD 0 else ((findJob s x.rill x.index).map (·.asid)).getD 0

def xferSrc (x : XferId) : Src := if x.course then .course x.rill x.index x.chunk else .rill x.rill x.index x.chunk

/-- n writes of a transfer issued, n bytes of them counted. -/
def countIssued (x : XferId) (n bytes : Nat) (s : State) : State :=
  if x.course then updFiring x.index (fun f => { f with issued := f.issued + n }) s
  else updJob x.rill x.index (fun j => j.updChunk x.chunk (fun c => { c with issued := c.issued + n, size := c.size + bytes })) s

/-- A write to the host bus of a descriptor's chunk, complete with its PCIe completion (R216); `off` places it in its source. -/
def hostWrite (x : XferId) (off port addr : Nat) (d : Bytes) (s : State) : State :=
  let tag := s.rill.nextDma
  let op : DmaOp := { tag, rill := x.rill, index := x.index, num := x.chunk, off, len := d.length }
  let s := { s with rill := { s.rill with nextDma := tag + 1, dma := s.rill.dma ++ [op] } }
  emit (.pcieWrite port tag addr d) (countIssued x 1 0 s)

/-- A transfer that expansion cannot complete: its status recorded for it. -/
def failXfer (x : XferId) (off : Nat) (st : Status) (s : State) : State :=
  if x.course then updFiring x.index (fun f => if f.err.isSome then f else { f with err := some (off, st) }) s
  else updJob x.rill x.index (fun j => { (j.updChunk x.chunk (fun c => { c with failed := true })) with
    err := firstErr j.err off st 0 }) s

/-- Blocks that a flush marked, removed at a block boundary with their references (R272). -/
def purgeQueue (race : Nat) (s : State) : State :=
  let gone := (raceExp s race).queue.filter (fun w => w.discard && w.last)
  let s := gone.foldl (fun s w => dropRef w.slot s) s
  updRace race (fun r => { r with queue := r.queue.filter (fun w => !w.discard), flushing := false }) s

/-- A line's bytes delivered: STOREs to memory or the host bus at once, a partner's block when it is whole (R265, R266). -/
def deliverLine (w : EddyWord) (bytes whole : Bytes) (bad : Bool) (touched : List (Nat × Nat)) (s : State) : State :=
  let (party, ctx) := xferParty s w.xfer
  match w.dest with
  | .memory va =>
    let r : Req := { op := .store, va := va + w.off, len := bytes.length, data := bytes, party, origin := selfPair s party
                     src := xferSrc w.xfer, tclass := .bulk
                     bad := (touched.flatMap (fun o => [(va + o.1) / 64 * 64, (va + o.1 + o.2 - 1) / 64 * 64])).eraseDups, coded := some w.coded }
    issueIn (xferAsid s w.xfer) ctx r (countIssued w.xfer 1 bytes.length s)
  | .hostBus port addr =>
    countIssued w.xfer 0 bytes.length (hostWrite w.xfer w.coded port (addr + w.off) bytes s)
  | .partner port addr =>
    if whole.isEmpty || bad then s
    else
      let start := w.off + bytes.length - whole.length
      let mk := fun (va : Nat) (d : Bytes) => ({ op := .store, addr := va, va, len := d.length, data := d, party
                                                 origin := selfPair s party, src := xferSrc w.xfer, tclass := .bulk, coded := some w.coded } : Req)
      let (n, s) := partnerStores port mk (whole.length + 1) (addr + start) whole 0 s
      countIssued w.xfer n whole.length s

/-- EDDY_READ_LINE: one line, once its rill's limit has room for its STOREs (R192), its words checked by SECDED (R269, R270): `single` and `double` are the places in the line of
words found with one and with two wrong bits. -/
def eddyReadLine (race : Nat) (single double : List Nat) (s : State) : State :=
  let r := raceExp s race
  let ws := lineWords 64 r.queue
  match ws with
  | [] => s
  | w :: _ =>
    if 4095 ≤ rillOutstanding s w.xfer.rill then s else
    let n := ws.length
    let ones := (single.filter (· < n)).eraseDups
    let twos := (double.filter (· < n)).eraseDups
    let bytes := ws.flatMap wordBytes
    let atEnd := ws.any (·.last)
    let bad := r.bad || !twos.isEmpty
    let block := r.block ++ bytes
    let touched := twos.map (fun i => ((nth w ws i).off, (wordBytes (nth w ws i)).length))
    let last := (ws.getLast?).getD w
    let s := updRace race (fun r => { r with
      queue := r.queue.drop n, lastWord := last.data, corrected := min (2 ^ 32 - 1) (r.corrected + ones.length)
      uncorrected := min 255 (r.uncorrected + twos.length)
      block := if atEnd then [] else block, bad := if atEnd then false else bad }) s
    let s := if twos.isEmpty then s else failXfer w.xfer w.coded .uncorrectable s
    let s := deliverLine { w with off := w.off } bytes (if atEnd then block else []) bad touched s
    if atEnd then purgeQueue race (dropRef w.slot s) else s

/-! ## Flushes (R272) -/

/-- Words of the block at the read head. -/
def headBlock : List EddyWord → Nat
  | [] => 0
  | w :: t => if w.last then 1 else 1 + headBlock t

/-- A flush of the transfers that `hit` names, in every race: the block at the read head is delivered in full, later blocks are
discarded at the next block boundary, coded pages not yet expanded at once. -/
def eddyFlush (hit : XferId → Nat → Bool) (s : State) : State :=
  (List.range 8).foldl (fun s race =>
    let r := raceExp s race
    let h := headBlock r.queue
    let mark := fun (w : EddyWord) => if hit w.xfer w.party then { w with discard := true } else w
    let q := r.queue.take h ++ (r.queue.drop h).map mark
    let s := (r.input.filter (fun p => hit p.xfer p.party)).foldl (fun s p => dropPageRef p s) s
    let s := updRace race (fun r => { r with
      queue := q, input := r.input.filter (fun p => !hit p.xfer p.party), flushing := q.any (·.discard) }) s
    if h == 0 then purgeQueue race s else s) s

/-! ## Codings of the ends of a transfer (R265) -/

/-- Parts [from, to) of a virtual range, by offset, whose range's CODING is SHOAL, or is not. -/
def codedSpans (s : State) (ctx : Option Ctx) (va len : Nat) (shoal : Bool) : List (Nat × Nat) :=
  match ctx with
  | none => []
  | some c => ((rangeTable s c).filter (fun e => rangeFieldsOk e && e.vstart < va + len && va < e.vstart + e.len
      && (((codingOf e.coding).getD .plain == .shoal) == shoal))).map
        (fun e => (max e.vstart va - va, min (e.vstart + e.len) (va + len) - va))

/-- The lowest offset that two lists of parts share. -/
def meet (a b : List (Nat × Nat)) : Option Nat :=
  (a.flatMap (fun x => (b.filter (fun y => max x.1 y.1 < min x.2 y.2)).map (fun y => max x.1 y.1))).min?

/-! ## The meanings -/

/-- EXPAND_BLOCK (R256). -/
def execExpandBlock (race : Fin 8) (s : State) : Host.Outcome State Fault Refusal := .next (expandBlock race s)

/-- CODEBOOK_MISS_FILL (R273): the copy is resident; the stalled block, or the firing that waited for it, can go on. -/
def execCodebookMissFill (race : Fin 8) (slot : Nat) (s : State) : Host.Outcome State Fault Refusal :=
  .next (
    let waits := (raceExp s race).miss == some slot
      || s.rill.firings.any (fun f => f.needs.contains (race.val, slot))
    if !waits then s
    else
      let stalled := if (raceExp s race).miss == some slot then (raceExp s race).input.find? (fun p => p.ref == some slot) else none
      let party := match stalled, s.rill.firings.find? (fun f => f.needs.contains (race.val, slot)) with
        | some p, _ => p.party
        | none, some f => f.party
        | none, none => (slotParty s slot).getD 15
      match makeResident race slot party s with
      | none => s
      | some s =>
        let drop := fun (f : Firing) => { f with needs := f.needs.filter (· != (race.val, slot)) }
        let s := { s with rill := { s.rill with firings := s.rill.firings.map drop } }
        updRace race (fun r => if r.miss == some slot then { r with miss := none } else r) s)

/-- EDDY_READ_LINE (R269). -/
def execEddyReadLine (race : Fin 8) (single double : List Nat) (s : State) : Host.Outcome State Fault Refusal :=
  .next (eddyReadLine race single double s)

end Sys2Proof.Machine
end

