-- ==== Sys2Proof/Machine/Course.lean ====
section
/-!
DEFINITION. Copies (R190, R191, R216), arrival counters, reach and courses (R220 to R222, R408), and the transfers of both.
-/
namespace Sys2Proof.Machine

open Sys2Proof

/-! ## What a copy and a firing share -/

/-- A counter advance, or the check of 0, issued for a descriptor (R190, R191). -/
def issueCounter (j : Job) (va amount : Nat) (opf : W64) (s : State) : State :=
  let s := updJob j.rill j.index (fun j => j.updChunk counterChunk (fun c => { c with issued := c.issued + 1 })) s
  issueIn j.asid j.ctx { op := .atomic, va, len := 8, data := toBytes amount 8, party := j.party, origin := selfPair s j.party
                         src := .rill j.rill j.index counterChunk, tclass := .bulk, opf } s

/-- The race of the expander that a coded page reaches: its home race, or the race of the link it arrives on (Table 10-8). -/
def expandRace (s : State) (party : Nat) (ctx : Option Ctx) (va : Nat) : Nat :=
  match vpiece s ctx va with
  | some p =>
    if addrNode p.addr == s.node then homeRace s (addrOffset p.addr)
    else ((routePort s party p.addr).bind (fun port => routeLink s port p.addr)).getD 0 / 4
  | none => 0

/-! ## Copies -/

/-- The operands of a COPY (Table 08-8). `target` of its job is 1 when it expands coded pages. -/
structure CopyOps where
  src : Nat
  dst : Nat
  len : Nat
  chunkLog2 : Nat
  srcHost : Bool
  dstHost : Bool
  counter : Nat
  deriving DecidableEq, Repr

def copyOps (j : Job) : CopyOps :=
  let w := fun (i : Nat) => nth 0 j.words i
  { src := w 0, dst := w 1, len := bits (w 2) 0 40, chunkLog2 := bits (w 2) 44 4, srcHost := bit (w 2) 48
    dstHost := bit (w 2) 49, counter := w 3 }

/-- Whether request i of a copy reads coded pages that are expanded on their way: its source is SHOAL and its destination is not (R265). -/
def copyExpands (s : State) (j : Job) (va : Nat) : Bool :=
  let o := copyOps j
  j.target == 1 && ((vpiece s j.ctx va).map (·.coding)) == some .shoal
    && (o.dstHost || ((vpiece s j.ctx (o.dst + (va - o.src))).map (·.coding)) != some .shoal)

/-- The race whose egress a page of a firing leaves by, whose expander it takes (Table 10-8). -/
def egressRace (s : State) (f : Firing) (off : Nat) : Nat :=
  match partnerPort s f.party with
  | some p => (routeLink s p (f.dst + off)).getD (portEntry s p).firstLink / 4
  | none => 0

/-- Whether a firing's coded pages are expanded in egress (Table 10-8, R8, R11). -/
def firingExpands (s : State) (f : Firing) : Bool :=
  f.action == 1 && f.format == 3 && !(match partnerPort s f.party with
    | some p => declares s p 26
    | none => false)

/-- The race of the expander that the response of a coded read will reach; none for any other request. -/
def codedRead (s : State) (r : Req) : Option Nat :=
  if r.op != .load then none
  else match r.src with
    | .rill rill index _ => match findJob s rill index with
      | some j => if j.kind == 0 && copyExpands s j r.va then some (expandRace s j.party j.ctx r.va) else none
      | none => none
    | .course _ id _ => match findFiring s id with
      | some f => if firingExpands s f then some (egressRace s f (r.va - f.src)) else none
      | none => none
    | _ => none

/-- Coded reads under way to a race's expander, which hold reserved pages of its input buffer, a party's in a sealed image (R268). -/
def codedReads (s : State) (race party : Nat) : Nat :=
  (allReqs s ++ s.weir.landed.map (·.req)).countP (fun r => codedRead s r == some race && (!isSealed s || r.party == party))

/-- Bytes of the chunk and its number for request i. -/
def chunkOf (o : CopyOps) (i : Nat) : Nat := i / 2 ^ o.chunkLog2

/-- Requests of the copy. -/
def requestCount (o : CopyOps) : Nat := (o.len + 4095) / 4096

def reqLen (o : CopyOps) (i : Nat) : Nat := min 4096 (o.len - 4096 * i)

/-- The first step of a COPY: its special cases (R216, R265), the coding of its ends and its counter check (R191). -/
def copyStart (j : Job) (s : State) : State :=
  let o := copyOps j
  let from' := fun (shoal : Bool) => if o.srcHost then [] else codedSpans s j.ctx o.src o.len shoal
  let into := fun (shoal : Bool) => if o.dstHost then (if shoal then [] else [(0, o.len)]) else codedSpans s j.ctx o.dst o.len shoal
  let expands := (meet (from' true) (into false)).isSome
  let encodes := meet (from' false) (into true)
  if o.len == 0 then finishJob j .ok 0 false s
  else if 12 < o.chunkLog2 then finishJob j .faultPermission (operandDetail 0 0) false s
  else if (o.srcHost || o.dstHost) && (1 < j.party || (o.srcHost && o.dstHost)) then
    finishJob j .faultPermission (operandDetail (if o.srcHost then 0 else 1) 0) false s
  else if encodes.isSome then finishJob j .faultPermission (operandDetail 1 (encodes.getD 0)) false s
  else if expands && (o.src % 4096 != 0 || o.len % 4096 != 0) then finishJob j .faultPermission (operandDetail 0 0) false s
  else if expands && noShare s j.party then finishJob j .faultPermission (operandDetail 0 0) false s
  else if o.counter != 0 && 4096 ≤ rillOutstanding s j.rill then s
  else
    let s := updJob j.rill j.index (fun j => { j with begun := true, counterOk := o.counter == 0, target := b2n expands }) s
    if o.counter == 0 then s
    else
      let j := { j with begun := true }
      issueCounter j o.counter 0 plainAdd s

/-- Request i of a copy issued: a LOAD, or a read of the host bus. -/
def copyIssue (j : Job) (o : CopyOps) (i : Nat) (s : State) : State :=
  let n := chunkOf o i
  let count := fun (j : Job) => { (j.updChunk n (fun c => { c with reads := c.reads + 1 })) with next := i + 1 }
  let s := updJob j.rill j.index count s
  if o.srcHost then
    let tag := s.rill.nextDma
    let s := { s with rill := { s.rill with nextDma := tag + 1, dma := s.rill.dma ++ [{ tag, rill := j.rill, index := j.index, num := i, off := 4096 * i }] } }
    emit (.pcieRead j.party tag (o.src + 4096 * i) (reqLen o i)) s
  else
    issueIn j.asid j.ctx { op := .load, va := o.src + 4096 * i, len := reqLen o i, party := j.party, origin := selfPair s j.party
                           src := .rill j.rill j.index n, tclass := .bulk } s

/-- Requests issued while the rill's limit, the counter check, earlier failures and the input buffers allow (R149, R191). -/
def copyPump (rill index : Nat) : Nat → State → State
  | 0, s => s
  | n + 1, s =>
    match findJob s rill index with
    | none => s
    | some j =>
      let o := copyOps j
      let race := expandRace s j.party j.ctx (o.src + 4096 * j.next)
      let room := !copyExpands s j (o.src + 4096 * j.next) || inputRoom s race j.party (codedReads s race j.party)
      if j.cut || j.withdrawn || j.err.isSome || !j.counterOk || requestCount o ≤ j.next || 4096 ≤ rillOutstanding s rill || !room
      then s
      else copyPump rill index n (copyIssue j o j.next s)

/-- The bytes of one landed read written on to the destination, or given to an expander. -/
def copyOn (j : Job) (o : CopyOps) (n : Nat) (p : Nat × Bytes) (s : State) : State :=
  let (off, d) := p
  let x : XferId := { course := false, rill := j.rill, index := j.index, chunk := n }
  if copyExpands s j (o.src + off) then
    let dest : XDest := if o.dstHost then .hostBus j.party o.dst else .memory o.dst
    let first := (((codedSpans s j.ctx o.src o.len true).map (·.1)).min?) == some off
    pushPage (expandRace s j.party j.ctx (o.src + off)) { xfer := x, party := j.party, off, data := padTo 4096 d, dest, born := j.born, first } s
  else if o.dstHost then hostWrite x off j.party (o.dst + off) d s
  else
    let s := updJob j.rill j.index (fun j => j.updChunk n (fun c => { c with issued := c.issued + 1 })) s
    issueIn j.asid j.ctx { op := .store, va := o.dst + off, len := d.length, data := d, party := j.party, origin := selfPair s j.party
                           src := .rill j.rill j.index n, tclass := .bulk } s

/-- Landed reads of a copy written on, while its rill's limit has room (R192). -/
def copyWrite (rill index : Nat) : Nat → State → State
  | 0, s => s
  | n + 1, s =>
    match findJob s rill index with
    | none => s
    | some j =>
      if j.cut || j.withdrawn || 4096 ≤ rillOutstanding s rill then s
      else match j.chunks.findSome? (fun c => if c.num == counterChunk then none else c.got.head?.map (fun p => (c.num, p))) with
        | none => s
        | some (k, p) =>
          let s := updJob rill index (fun j => j.updChunk k (fun c => { c with got := c.got.drop 1 })) s
          copyWrite rill index n (copyOn j (copyOps j) k p s)

/-- Whether every request of a chunk is complete. -/
def chunkComplete (s : State) (j : Job) (n : Nat) : Bool :=
  let o := copyOps j
  match j.chunk n with
  | none => false
  | some c =>
    min (requestCount o) ((n + 1) * 2 ^ o.chunkLog2) ≤ j.next && c.reads == c.readsDone && c.got.isEmpty && c.issued == c.landed
    && !c.failed && !c.counted && !j.cut && !j.withdrawn
    && !(j.target == 1 && inExpanders s { course := false, rill := j.rill, index := j.index, chunk := n })

/-- A copy that has nothing left to do ends: one that failed, once its complete chunks are counted (R190), with the first error in ascending
coded address (R256). -/
def copyEnd (rill index : Nat) (s : State) : State :=
  match findJob s rill index with
  | none => s
  | some j =>
    let o := copyOps j
    let x : XferId := { course := false, rill, index }
    let s := if j.err.isSome && j.outstanding == 0 && (expOff0 s x).isNone then dropPages x s else s
    let allDone := requestCount o ≤ j.next && j.chunks.all (fun c => c.num == counterChunk || c.counted || c.failed)
    if !j.begun || j.outstanding != 0 || expanding s j || j.chunks.any (fun c => !c.got.isEmpty || chunkComplete s j c.num) then s
    else if j.err.isSome || allDone then
      let j := match xferFirst s x with
        | some (off, st, d) => { j with err := firstErr j.err off st d }
        | none => j
      let (st, d) := xferStatus s x
      let s' := dropOutcomes x s
      if j.err.isNone && !j.cut && !j.withdrawn && st != .ok then finishJob j st d false s' else endJob j s'
    else s

/-- COPY (R216): the descriptor's first step, and each further one while it runs. -/
def execCopy (rill index : Nat) (s : State) : Host.Outcome State Fault Refusal :=
  .next (
    let s := settle rill (absorb s)
    match findJob s rill index with
    | none => s
    | some j =>
      if j.kind != 0 then s
      else
        let s := if j.begun then s else copyStart j s
        copyEnd rill index (copyPump rill index 4096 (copyWrite rill index 4096 s)))

/-! ## Course entries (Table 08-12) -/

structure CourseEntry where
  layer  : Nat
  lead   : Nat
  action : Nat
  format : Nat
  elem   : Nat
  src    : Nat
  dst    : Nat
  len    : Nat
  rowBytes : Nat
  countEn : Bool
  counter : Nat
  deriving DecidableEq, Repr, Inhabited

def courseEntryOf (ws : List Nat) : CourseEntry :=
  let w := fun (i : Nat) => nth 0 ws i
  { layer := bits (w 0) 48 16, lead := bits (w 0) 32 16, action := bits (w 0) 28 4, format := bits (w 0) 24 4
    elem := bits (w 0) 22 2, src := w 1, dst := w 2, len := (bits (w 3) 46 18 + 1) * 4096, rowBytes := bits (w 3) 30 16
    countEn := bit (w 3) 9, counter := bits (w 3) 0 9 }

/-- Entry i of a rill's course, or the status its read ended with. -/
def readCourse (s : State) (rill i : Nat) : Status × CourseEntry :=
  let e := rillOf s rill
  match shufelRead s (rillParty s rill) (e.courseBase + 32 * i) 32 with
  | (.ok, d) => (.ok, courseEntryOf (words64 4 d))
  | (st, _) => (st, default)

def lapLen (e : RillEnt) : Nat := e.lapLenM1 + 1

/-- FIRE_OFF of an entry (R220). -/
def fireOff (e : RillEnt) (c : CourseEntry) : Nat := (c.layer + lapLen e - c.lead % lapLen e) % lapLen e

/-- R220: LAYER and LEAD below the lap length. -/
def layerOk (e : RillEnt) (c : CourseEntry) : Bool := c.layer < lapLen e && c.lead < lapLen e

/-- R220: the order rule over the whole table (R210). -/
def courseOk (s : State) (rill : Nat) : Bool :=
  let e := rillOf s rill
  let es := (List.range e.courseCount).map (readCourse s rill)
  let offs := es.map (fun c => fireOff e c.2)
  es.all (fun c => c.1 == .ok && layerOk e c.2) && (offs.zip (offs.drop 1)).all (fun p => p.1 ≤ p.2)

/-- Bytes of a race's tile buffers: 4 MiB where the image gives no split (R17). -/
def tileRegion (s : State) : Nat := (if s.hw.settings.basinCb == 0 then 4 else s.hw.settings.basinTile) * 1048576

/-- A party's share of them (R222). -/
def tileShare (s : State) (party : Nat) : Nat := min (tileRegion s) ((partyRec s party).tileShareKib * 1024)

/-- Whether an entry's ACTION, FORMAT and fields are allowed (Table 08-13, R222). -/
def entryOk (s : State) (party : Nat) (ctx : Option Ctx) (c : CourseEntry) : Bool :=
  let share := tileShare s party
  let el := 2 ^ c.elem
  let panel := c.elem != 3 && c.rowBytes != 0 && c.rowBytes % (64 * el) == 0 && c.len % c.rowBytes == 0
  let fmt := match c.action with
    | 0 => c.format == 0 || (c.format == 1 && panel) || c.format == 2 || c.format == 3
    | 1 => c.format == 0 || c.format == 3
    | 2 => c.format == 0 || (c.format == 1 && panel)
    | 3 => c.format == 0
    | _ => false
  let place := match c.action with
    | 0 => bits c.dst 0 24 % 4096 == 0 && bits c.dst 0 24 + c.len ≤ share
    | 1 => 2 ≤ party && party ≤ 7 && (partnerPort s party).isSome
    | 2 => true
    | _ => (List.range (c.len / 4096)).all (fun k => (vpiece s ctx (c.src + 4096 * k)).all (fun p =>
        addrNode p.addr == s.node && addrSpace p.addr == 0))
  fmt && place && c.src % 4096 == 0

/-! ## Firings -/

/-- A course record due, and the rill FAULTED with COURSE (R212, R217, R221). -/
def courseFault (rill entry target : Nat) (st : Status) (s : State) : State :=
  let e := rillOf s rill
  let s := addDue { rill, index := entry, status := st, course := true, gen := e.gen, userTag := target % 2 ^ 32
                    started := false } s
  faultRill rill faultCourse s

/-- The slots and generations that the blocks of a coded page name. -/
def pageSlots : Nat → Bytes → List (Nat × Nat)
  | 0, _ => []
  | n + 1, bs =>
    let h := blockHdr (bs.take 16)
    if h.format != 1 || h.rsvd || !h.hchkOk then [] else (h.slot, h.gen) :: pageSlots n (bs.drop (codedLen h.count h.two))

/-- What keeps a firing from using the codebook that a block names (R259 to R261). -/
def blockBad (s : State) (f : Firing) (k : Nat × Nat) : Option Status :=
  if !slotUsable s f.party k.1 then some .refusedIsolation
  else if !slotMatches s k.1 k.2 f.born then some .faultUnmapped else none

/-- The codebooks that blocks of a firing's coded page name: referenced from then on, and with TO_BASIN to be resident in the tile's race before
its counter advances; a copy that is there becomes the most recently used one (R261, R273). -/
def claimBooks (id : Nat) (named : List (Nat × Nat)) (s : State) : State :=
  match findFiring s id with
  | none => s
  | some f =>
    let ks := ((named.filter (fun k => (blockBad s f k).isNone)).map (·.1)).eraseDups.filter (fun k => !f.slots.contains k)
    let race := bits f.dst 61 3
    let s := ks.foldl (fun s k => addRef k s) s
    let there := fun (k : Nat) => (raceExp s race).store.any (fun c => c.1 == k)
    let needs := if f.action == 0 then (ks.filter (fun k => !there k)).map (fun k => (race, k)) else []
    let s := if f.action == 0 then (ks.filter there).foldl (fun s k => (makeResident race k f.party s).getD s) s else s
    updFiring id (fun f => { f with slots := f.slots ++ ks, needs := f.needs ++ needs }) s

/-- What the blocks of a firing's coded pages name is referenced from the firing on, where its pages are at hand; of the others as they come
(R261). -/
def claimFiring (f : Firing) (s : State) : State :=
  if f.format != 3 || f.err.isSome then s
  else (List.range (f.len / 4096)).foldl (fun s k =>
    let va := f.src + 4096 * k
    if !atHand s f.ctx va 4096 then s
    else match vread s f.party f.ctx va 4096 with
      | .ok d => claimBooks f.id (pageSlots 256 d).eraseDups s
      | .fail _ _ => s) s

/-- A due entry fired (R221): translated now, under the table in force. AS_IS bytes of a SHOAL range on their way to a partner are shoal-coded
data too (R11; log entry 67). One that would be expanded where its party has no share is not performed (R268). -/
def fire (rill i target : Nat) (c : CourseEntry) (s : State) : State :=
  let e := rillOf s rill
  let p := rillParty s rill
  let ctx := ctxOf s p e.asid
  let counter := if c.countEn then some (e.counterPage + 8 * c.counter) else none
  let pages := if c.action != 3 then []
    else ((List.range (c.len / 4096)).filterMap (fun k => (vpiece s ctx (c.src + 4096 * k)).map
      (fun q => tierPage (addrOffset q.addr)))).eraseDups
  let s := pages.foldl (fun s q => bring true q s) s
  let f : Firing := { id := s.rill.nextFiring, rill, entry := i, target, party := p, asid := e.asid, ctx, born := s.weir.nextId
                      action := c.action, format := c.format, elem := c.elem, src := c.src, dst := c.dst, len := c.len
                      rowBytes := c.rowBytes, counter
                      pages := pages.filter (fun q => (tierOf s q).state != .plain) }
  let coded := (List.range (c.len / 4096)).any (fun k => (vpiece s ctx (c.src + 4096 * k)).any (fun q => q.coding == .shoal))
  let f := if c.action == 1 && c.format == 0 && coded then { f with format := 3 } else f
  let bad := c.action == 3 && (List.range (c.len / 4096)).any (fun k => (vpiece s ctx (c.src + 4096 * k)).isNone)
  let f := if bad then { f with err := some (c.src, .faultUnmapped) }
    else if firingExpands s f && noShare s p then { f with err := some (c.src, .faultPermission) } else f
  claimFiring f { s with rill := { s.rill with firings := s.rill.firings ++ [f], nextFiring := f.id + 1 } }

def firingXfer (f : Firing) : XferId := { course := true, rill := f.rill, index := f.id }

/-- Whether an earlier firing of the rill has requests still to be issued: firings are issued in the order fired (R221). -/
def firesFirst (s : State) (f : Firing) : Bool :=
  s.rill.firings.any (fun g => g.rill == f.rill && g.id < f.id && g.action != 3 && g.err.isNone && g.next < g.len / 4096)

/-- Requests of a firing issued while its rill's limit allows. -/
def firePump (id : Nat) : Nat → State → State
  | 0, s => s
  | n + 1, s =>
    match findFiring s id with
    | none => s
    | some f =>
      let race := egressRace s f (4096 * f.next)
      let room := !firingExpands s f || inputRoom s race f.party (codedReads s race f.party)
      if f.action == 3 || firesFirst s f || f.err.isSome || f.len / 4096 ≤ f.next || 4096 ≤ rillOutstanding s f.rill || !room then s
      else
        let i := f.next
        let s := updFiring id (fun f => { f with next := i + 1, reads := f.reads + 1 }) s
        firePump id n (issueIn f.asid f.ctx { op := .load, va := f.src + 4096 * i, len := 4096, party := f.party
                                              origin := selfPair s f.party, src := .course f.rill id i, tclass := .bulk } s)

/-- PANEL64's order of the bytes of a tile (Table 08-13). -/
def panel64 (elem rowBytes : Nat) (d : Bytes) : Bytes :=
  let w := 64 * 2 ^ elem
  let rows := d.length / rowBytes
  (List.range (rowBytes / w)).flatMap (fun p => (List.range rows).flatMap (fun r => (d.drop (r * rowBytes + p * w)).take w))

/-- Bytes of a firing placed in tile buffers (R222). -/
def tileWrite (f : Firing) (off : Nat) (d : Bytes) (s : State) : State :=
  let key := 16 * bits f.dst 61 3 + f.party
  let m := Memory.writeN (Tbl.get [] s.rill.tiles key) (bits f.dst 0 24 + off) d
  { s with rill := { s.rill with tiles := Tbl.put s.rill.tiles key m } }

/-- STOREs of a firing to its partner. -/
def pushStores (f : Firing) (va : Nat) (d : Bytes) (s : State) : State :=
  match partnerPort s f.party with
  | none => s
  | some port =>
    let mk := fun (va : Nat) (d : Bytes) => ({ op := .store, addr := va, va, len := d.length, data := d, party := f.party
                                               origin := selfPair s f.party, src := .course f.rill f.id 0, tclass := .bulk } : Req)
    let (n, s) := partnerStores port mk (d.length + 1) va d 0 s
    updFiring f.id (fun f => { f with issued := f.issued + n }) s

/-- STOREs of a firing into its rill's context, 4 KiB at a time. -/
def memStores (f : Firing) : Nat → Nat → Bytes → State → State
  | 0, _, _, s => s
  | n + 1, va, d, s =>
    if d.isEmpty then s
    else
      let s := updFiring f.id (fun f => { f with issued := f.issued + 1 }) s
      memStores f n (va + 4096) (d.drop 4096)
        (issueIn f.asid f.ctx { op := .store, va, len := min 4096 d.length, data := d.take 4096, party := f.party
                                origin := selfPair s f.party, src := .course f.rill f.id 0, tclass := .bulk } s)

/-- One landed read of a firing moved to its destination; a PANEL64 tile waits until it is whole. -/
def fireOn (id : Nat) (p : Nat × Bytes) (s : State) : State :=
  match findFiring s id with
  | none => s
  | some f =>
    let (off, d) := p
    let s := if f.format != 3 then s
      else
        let named := (pageSlots 256 d).eraseDups
        let s := if firingExpands s f then s else match named.findSome? (blockBad s f) with
          | some st => failXfer (firingXfer f) off st s
          | none => s
        claimBooks id named s
    match f.action with
    | 0 => tileWrite f off d s
    | 1 =>
      if firingExpands s f then
        match partnerPort s f.party with
        | some port => pushPage (egressRace s f off)
            { xfer := firingXfer f, party := f.party, off, data := padTo 4096 d, dest := .partner port f.dst, born := f.born, first := off == 0 } s
        | none => s
      else pushStores f (f.dst + off) d s
    | _ => memStores f 1 (f.dst + off) d s

/-- The tile of a firing put together from its reads. -/
def tileOf (f : Firing) : Bytes :=
  (f.got.foldl (fun (a : List (Nat × Bytes)) x => a.takeWhile (fun y => y.1 < x.1) ++ [x] ++ a.dropWhile (fun y => y.1 < x.1)) []).flatMap (·.2)

/-- Landed reads of a firing moved on, while its rill's limit has room for the STOREs of one more (R192, R221). -/
def fireWrite (id : Nat) : Nat → State → State
  | 0, s => s
  | n + 1, s =>
    match findFiring s id with
    | none => s
    | some f =>
      if f.err.isSome then updFiring id (fun f => { f with got := [] }) s
      else if 4095 ≤ rillOutstanding s f.rill then s
      else if f.format == 1 then
        if f.got.length * 4096 < f.len then s
        else
          let d := panel64 f.elem f.rowBytes (tileOf f)
          if f.action == 0 then tileWrite f 0 d (updFiring id (fun f => { f with got := [] }) s)
          else
            let s := updFiring id (fun f => { f with put := f.put + 4096, got := if d.length ≤ f.put + 4096 then [] else f.got }) s
            fireWrite id n (memStores f 1 (f.dst + f.put) ((d.drop f.put).take 4096) s)
      else match f.got with
        | [] => s
        | p :: t => fireWrite id n (fireOn id p (updFiring id (fun f => { f with got := t }) s))

/-- The firing is over: its slots are released and it is forgotten. -/
def dropFiring (f : Firing) (s : State) : State :=
  let s := f.slots.foldl (fun s k => dropRef k s) s
  dropOutcomes (firingXfer f) { s with rill := { s.rill with firings := s.rill.firings.filter (fun x => x.id != f.id) } }

/-- Whether everything of a firing has landed at its destination. -/
def fireComplete (s : State) (f : Firing) : Bool :=
  (f.action == 3 || f.len / 4096 ≤ f.next) && f.outstanding == 0 && f.got.isEmpty && f.pages.isEmpty && f.needs.isEmpty
  && !inExpanders s (firingXfer f)

/-- A firing whose transfer is whole advances its counter; one that failed becomes a course record and faults its rill. -/
def fireEnd (id : Nat) (s : State) : State :=
  match findFiring s id with
  | none => s
  | some f =>
    let (xst, _) := xferStatus s (firingXfer f)
    let err := match f.err with
      | some (_, st) => some st
      | none => if isError xst then some xst else none
    match err with
    | some st =>
      if f.outstanding != 0 || inExpanders s (firingXfer f) then s
      else if st == .cancelled || st == .withdrawn then dropFiring f s
      else courseFault f.rill f.entry f.target st (dropFiring f s)
    | none =>
      if !fireComplete s f then s
      else match f.counter, f.counted with
        | some va, false =>
          if 4096 ≤ rillOutstanding s f.rill || !mayCall s f.rill then s
          else
          let s := updFiring id (fun f => { f with counted := true, issued := f.issued + 1 }) s
          issueIn f.asid f.ctx { op := .atomic, va, len := 8, data := toBytes f.len 8, party := f.party, origin := selfPair s f.party
                                 src := .course f.rill id 0, tclass := .bulk, opf := sealAdd } s
        | _, _ => dropFiring f s

/-- Requests of a rill's firings issued, in the order fired (R221). -/
def pumpFirings (rill : Nat) (s : State) : State :=
  (s.rill.firings.filter (fun f => f.rill == rill)).foldl (fun s f => firePump f.id 4096 s) s

/-- One step of a firing, and of those behind it. -/
def fireStep (id : Nat) (s : State) : State :=
  match findFiring s id with
  | none => s
  | some f => pumpFirings f.rill (fireEnd id (pumpFirings f.rill (fireWrite id 4096 s)))

/-- Firings cut by a flush of their blocks: they issue nothing more, and end without a record once what they issued has landed. -/
def cutFirings (hit : Firing → Bool) (st : Status) (s : State) : State :=
  let mine := s.rill.firings.filter hit
  let cut := fun (f : Firing) => if hit f && f.err.isNone then { f with err := some (0, st), pages := [], needs := [] } else f
  let s := { s with rill := { s.rill with firings := s.rill.firings.map cut } }
  mine.foldl (fun s f => fireEnd f.id s) s

/-- A tier page has become PLAIN: FILL firings that waited for it go on (R222). -/
def firingPlain (page : Nat) (s : State) : State :=
  let hit := s.rill.firings.filter (fun f => f.pages.contains page)
  let s := { s with rill := { s.rill with firings := s.rill.firings.map (fun f => { f with pages := removeNat page f.pages }) } }
  hit.foldl (fun s f => fireEnd f.id s) s

/-- A chunk of a copy (R190): landed reads are written on, further requests issued, and a chunk whose requests are all complete
advances its counter. -/
def copyChunk (rill index chunk : Nat) (s : State) : State :=
  match findJob s rill index with
  | none => s
  | some j =>
    if j.kind != 0 || !j.begun then s
    else
      let s := copyPump rill index 4096 (copyWrite rill index 4096 s)
      match findJob s rill index with
      | none => s
      | some j =>
        let o := copyOps j
        let s := if chunkComplete s j chunk && (o.counter == 0 || (rillOutstanding s rill < 4096 && mayCall s engineKey)) then
            let c := (j.chunk chunk).getD { num := chunk }
            let size := if j.target == 1 then c.size else min o.len (4096 * 2 ^ o.chunkLog2 * (chunk + 1)) - 4096 * 2 ^ o.chunkLog2 * chunk
            let s := updJob rill index (fun j => { (j.updChunk chunk (fun c => { c with counted := true })) with done := j.done + 1 }) s
            if o.counter == 0 then s else issueCounter j o.counter size sealAdd s
          else s
        copyEnd rill index s

/-! ## Reach (R220, R221) -/

/-- R220: whether entry i keeps the rules of its table: its own fields, and its place after the entry before it. -/
def entryInOrder (s : State) (rill i : Nat) (c : CourseEntry) : Bool :=
  let e := rillOf s rill
  layerOk e c && (i == 0 || match readCourse s rill (i - 1) with
    | (.ok, d) => fireOff e d ≤ fireOff e c
    | _ => true)

/-- The loop of on_advance, after whole laps have been skipped. -/
def advanceLoop (rill : Nat) : Nat → State → State
  | 0, s => s
  | n + 1, s =>
    let e := rillOf s rill
    let s := countRange (rillParty s rill) (addrOffset (e.courseBase + 32 * e.courseNext)) 32 s
    match readCourse s rill e.courseNext with
    | (.ok, c) =>
      if !entryInOrder s rill e.courseNext c then courseFault rill e.courseNext 0 .faultPermission s
      else
        let f := (e.lapBase + fireOff e c) % 2 ^ 32
        if serCmp 32 e.reach f == .older then s
        else
          let t := (f + c.lead) % 2 ^ 32
          let p := rillParty s rill
          let due := serCmp 32 t e.reach == .newer
          if due && !entryOk s p (ctxOf s p e.asid) c then courseFault rill e.courseNext t .faultPermission s
          else
            let s := if due then fire rill e.courseNext t c s else updRill rill (fun e => { e with late := (e.late + 1) % 2 ^ 32 }) s
            let next := e.courseNext + 1
            let s := updRill rill (fun e => if next == e.courseCount then
                { e with courseNext := 0, lapBase := (e.lapBase + lapLen e) % 2 ^ 32 } else { e with courseNext := next }) s
            advanceLoop rill n s
    | (st, _) => courseFault rill e.courseNext 0 st s

/-- on_advance (R221): whole laps that passed are counted late, and every due entry fires. -/
def onAdvance (rill v : Nat) (s : State) : State :=
  let e := rillOf s rill
  let l := lapLen e
  let d := (v + 2 ^ 32 - e.lapBase) % 2 ^ 32
  let skip := d / l - 1
  let s := updRill rill (fun e =>
    let e := { e with reach := v }
    if skip == 0 then e
    else { e with late := (e.late + (e.courseCount - e.courseNext) + (skip - 1) * e.courseCount) % 2 ^ 32, courseNext := 0
                  lapBase := (e.lapBase + skip * l) % 2 ^ 32 }) s
  advanceLoop rill (3 * e.courseCount + 1) s

/-- A reach update that is not taken is counted. -/
def reachDropped (rill : Nat) (s : State) : State := updRill rill (fun e => { e with reachDrop := (e.reachDrop + 1) % 2 ^ 32 }) s

/-- A reach that advances, and the firings it starts. -/
def reachNewer (rill v : Nat) (s : State) : State :=
  let before := s.rill.nextFiring
  let s := onAdvance rill v s
  (rangeFrom before (s.rill.nextFiring - before)).foldl (fun s id => fireStep id s) s

/-- A reach update of a rill: 1 ADVANCE, 2 SET (R220). -/
def reachUpdate (rill op v : Nat) (s : State) : State :=
  let e := rillOf s rill
  if e.state != .active || e.courseCount == 0 then reachDropped rill s
  else if op == 2 then updRill rill (fun e => { e with reach := v, lapBase := v, courseNext := 0, armed := true }) s
  else match serCmp 32 v e.reach with
    | .same => s
    | .newer => if e.armed then reachNewer rill v s else reachDropped rill s
    | _ => reachDropped rill s

/-- A write of a party's REACH register with an operation (Table 08-11, R206). -/
def reachWrite (party op : Nat) (v : W64) (s : State) : Status × State :=
  let rill := field v 0 16
  if !(op == 1 || op == 2) then (.faultPermission, s)
  else if !ownsRill s party rill then (.refusedIsolation, logIgnored party (partyReg party 0x040) v.toNat s)
  else (.ok, reachUpdate rill op (field v 32 32) s)

/-- ADVANCE (R221). -/
def execAdvance (party : Fin 8) (v : W64) (s : State) : Host.Outcome State Fault Refusal := .next (reachWrite party 1 v s).2

/-- SET (R220). -/
def execReachSet (party : Fin 8) (v : W64) (s : State) : Host.Outcome State Fault Refusal := .next (reachWrite party 2 v s).2

/-- REACH_FRAME (R408): the frame a gap ended. One that has not 64 edges or has a bad CRC-8 is dropped and counted; one for a rill
outside REACH_PARTY's run is dropped and logged (R206, R220). -/
def reachFrame (edges : Nat) (w : W64) (s : State) : State :=
  let crc := crc8 (((List.range 7).map (fun i => field w (56 - 8 * i) 8)))
  let op := field w 60 4
  let rill := field w 40 16
  let p := s.hw.settings.reachParty
  if !s.pins.inputsOn then s
  else if edges != 64 || crc != field w 0 8 then
    { s with keeper := { s.keeper with reachDrops := s.keeper.reachDrops + 1 } }
  else if 7 < p || !ownsRill s p rill then logIgnored (if 7 < p then 15 else p) 0xFFFFFFFF w.toNat s
  else if op == 1 || op == 2 then reachUpdate rill op (field w 8 32) s
  else logIgnored p 0xFFFFFFFF w.toNat s

/-- REACH_FRAME (R408). -/
def execReachFrame (edges : Nat) (w : W64) (s : State) : Host.Outcome State Fault Refusal := .next (reachFrame edges w s)

end Sys2Proof.Machine
end

