-- ==== Sys2Proof/Machine/Builtin.lean ====
section
/-!
DEFINITION. The built-in operations of MILL rills (R248): CONVERT, REDUCE, SHOAL_ENCODE and CODEBOOK_BUILD, in pieces of 2^20
elements. A piece is read by LOADs, computed, and written by STOREs or REDUCEs, all counted under the chunk of its number.
-/
namespace Sys2Proof.Machine

open Sys2Proof

/-! ## Operands (Table 09-10) -/

def opConvert : Nat := 2
def opMillReduce : Nat := 3
def opEncode : Nat := 4
def opBuild : Nat := 5

/-- Word k of a descriptor. -/
def Job.word (j : Job) (k : Nat) : Nat := nth 0 j.words (k - 2)

def millCount (j : Job) : Nat := bits (j.word 4) 0 40

/-- FMT_IN of a CONVERT; FP32 or BF16 of a REDUCE by IN_TYPE; BF16 for the codebook operations. -/
def millFmtIn (j : Job) : Nat :=
  if j.op == opConvert then bits (j.word 4) 60 4
  else if j.op == opMillReduce then (if bit (j.word 4) 61 then 1 else 0) else 1

/-- FMT_OUT of a CONVERT; the FP32 target of a REDUCE. -/
def millFmtOut (j : Job) : Nat := if j.op == opConvert then bits (j.word 4) 56 4 else 0

/-- D_CODE, TWO_STAGE and SLOT of SHOAL_ENCODE and CODEBOOK_BUILD. -/
def encDCode (j : Job) : Nat := bits (j.word 4) 62 2
def encTwo (j : Job) : Bool := bit (j.word 4) 61
def encSlot (j : Job) : Nat := bits (j.word 4) 48 12

def pieceElems : Nat := 1048576
def pieceTotal (j : Job) : Nat := (millCount j + pieceElems - 1) / pieceElems
def pieceLen (j : Job) (p : Nat) : Nat := min pieceElems (millCount j - pieceElems * p)

/-- The (offset, length) ranges of piece p of a run of n elements in a format (R228). -/
def formatRanges (code count p n : Nat) : List (Nat × Nat) :=
  let w := elemBits code
  (pieceElems * p * w / 8, n * w / 8) :: (if isMx code then [(count * w / 8 + pieceElems / 32 * p, n / 32)] else [])

/-- A range cut into requests of at most 4,096 bytes. -/
def cut4k (r : Nat × Nat) : List (Nat × Nat) :=
  (List.range ((r.2 + 4095) / 4096)).map (fun i => (r.1 + 4096 * i, min 4096 (r.2 - 4096 * i)))

/-- Codings of the ranges of a context that [va, va + len) touches. -/
def rangeCodings (s : State) (ctx : Option Ctx) (va len : Nat) : List Coding :=
  match ctx with
  | none => []
  | some c => ((rangeTable s c).filter (fun e => rangeFieldsOk e && e.vstart < va + len && va < e.vstart + e.len)).map
      (fun e => (codingOf e.coding).getD .plain)

/-! ## The slot a build targets (R263) -/

inductive BuildTarget where
  | into (slot : Nat)
  | wait
  | bad
  deriving DecidableEq, Repr

def buildTarget (s : State) (party slot : Nat) : BuildTarget :=
  if !ownsSlot s party slot then .bad
  else match (slotOf s slot).state with
    | .free => .into slot
    | .live => match freeSlots s party with
      | k :: _ => .into k
      | [] => .wait
    | _ => .bad

/-- A slot enters BUILDING for a running descriptor (R258). -/
def startBuild (rill index k dCode : Nat) (two : Bool) (s : State) : State :=
  let s := setSlot k (fun x => { x with state := .building, dCode, two }) s
  updJob rill index (fun j => { j with builds := j.builds ++ [k] }) s

/-- The books of a build written and its slot LIVE; none where the array cannot be written. -/
def endBuildSlot (party k dCode : Nat) (two : Bool) (b r : List Nat) (s : State) : Except Status State :=
  match spanBad s party .load .any (slotEntry s party k) 32768 with
  | some st => .error st
  | none => if entryPlaced s party k then .ok (goLive party k dCode two b r s) else .error .faultPermission

/-- Destination bytes of a piece, by which COUNTER advances (R248, R264). -/
def pieceBytes (j : Job) (p : Nat) : Nat :=
  let n := pieceLen j p
  if j.op == opEncode then
    let d := dOf (encDCode j)
    let bpp := 4096 / codedLen (2048 / d) (encTwo j)
    let blocks := (n / d + 2048 / d - 1) / (2048 / d)
    (blocks + bpp - 1) / bpp * 4096
  else runBytes (millFmtOut j) n

/-! ## Starting -/

/-- The checks of a built-in operation before it reads anything: the operand at fault, or none. -/
def builtinBad (j : Job) (s : State) : Option Nat :=
  let n := millCount j
  if j.op == opConvert then
    let fi := millFmtIn j
    let fo := millFmtOut j
    if 12 < fi || 12 < fo || ((isMx fi || isMx fo) && n % 32 != 0) then some 2 else none
  else if j.op == opMillReduce then (if bits (j.word 4) 62 2 == 3 then some 2 else none)
  else if j.op == opEncode then
    let k := slotOf s (encSlot j)
    if (rangeCodings s j.ctx (j.word 2) (2 * n)).any (fun c => c != .plain) then some 0
    else if (rangeCodings s j.ctx (j.word 3) (max 1 ((List.range (pieceTotal j)).map (pieceBytes j)).sum)).any (fun c => c != .shoal) || j.word 3 % 4096 != 0 then some 1
    else if n % dOf (encDCode j) != 0 || !slotUsable s j.party (encSlot j) || k.state != .live
        || k.dCode != encDCode j || k.two != encTwo j then some 2
    else none
  else
    if (rangeCodings s j.ctx (j.word 2) (2 * n)).any (fun c => c != .plain) then some 0
    else if n % dOf (encDCode j) != 0 then some 2 else none

/-- The slot that a descriptor of a built-in operation names, referenced from its start on (R261). -/
def holdNamed (j : Job) (s : State) : State :=
  if j.kind == 1 && (j.op == opEncode || j.op == opBuild) && slotUsable s j.party (encSlot j) then
    addRef (encSlot j) (updJob j.rill j.index (fun j => { j with slots := encSlot j :: j.slots }) s)
  else s

/-- Books made resident in a race's codebook store for a party; none while one of them does not fit (R273). -/
def residentAll (race party : Nat) : List Nat → State → Option State
  | [], s => some s
  | k :: t, s => match makeResident race k party s with
    | some s => residentAll race party t s
    | none => none

/-- The first step of a built-in operation: its checks, the zero count (R248), its book made resident, for which it waits (R273), and the
counter check (R191). -/
def builtinStart (j : Job) (s : State) : State :=
  if millCount j == 0 && j.op != opBuild then finishJob j .ok 0 false s
  else match builtinBad j s with
    | some k => finishJob j .faultPermission (operandDetail k 0) false s
    | none =>
      let ctr := j.word 5
      if ctr != 0 && 4096 ≤ rillOutstanding s j.rill then s
      else match residentAll j.race j.party (if j.op == opEncode then [encSlot j] else []) s with
        | none => s
        | some s =>
          let s := updJob j.rill j.index (fun j => { j with begun := true, counterOk := ctr == 0 }) s
          if ctr == 0 then s else issueCounter j ctr 0 plainAdd s

/-! ## Pieces -/

/-- The reads of the next piece of a built-in operation, as (offset from SRC, length). -/
def pieceReads (j : Job) : List (Nat × Nat) := (formatRanges (millFmtIn j) (millCount j) j.next (pieceLen j j.next)).flatMap cut4k

/-- Whether a running CONVERT, REDUCE or SHOAL_ENCODE has a piece to begin, which needs a mill, and its rill's limit has room for it
(R192, R248). -/
def wantsPiece (s : State) (j : Job) : Bool :=
  j.kind == 1 && opConvert ≤ j.op && j.op ≤ opEncode && j.begun && j.counterOk && !j.cut && !j.withdrawn && j.err.isNone
    && j.next < pieceTotal j && rillOutstanding s j.rill + (pieceReads j).length ≤ 4096

/-- The rills of a race's running descriptors that wait for a mill for a piece, in ascending order. -/
def pieceRills (s : State) (race : Nat) (mine : Nat → Bool) : List Nat :=
  (s.rill.jobs.filter (fun j => wantsPiece s j && j.race == race && mine j.party)).foldl (fun l j => insertNat j.rill l) []

/-- The mill for the next piece of a descriptor, once it is its rill's turn; a build has its mills already (R28, R263). -/
def pieceMill (s : State) (j : Job) : Option (Option Nat) :=
  if j.op == opBuild then some none
  else if inTurn s j.race j.party (pieceRills s j.race (fun p => !isSealed s || p == j.party)) j.rill then
    (pickMill s j.race j.party).map some
  else none

/-- The LOADs of the next pieces, while the rill's limit, the counter check, earlier failures and the free mills allow (R28, R191, R192). -/
def builtinPump (rill index : Nat) : Nat → State → State
  | 0, s => s
  | n + 1, s =>
    match findJob s rill index with
    | none => s
    | some j =>
      let p := j.next
      let rs := pieceReads j
      if j.cut || j.withdrawn || j.err.isSome || !j.counterOk || pieceTotal j ≤ p || 4096 < rillOutstanding s rill + rs.length
      then s
      else match pieceMill s j with
      | none => s
      | some m =>
        let s := match m with
          | some m => servedRill j.race rill (updMill m (fun x => { x with piece := some p }) (takeMill m j.party rill index j.words s))
          | none => s
        let s := updJob rill index (fun j => { (j.updChunk p (fun c => { c with reads := rs.length })) with next := p + 1 }) s
        builtinPump rill index n (rs.foldl (fun s r =>
          issueIn j.asid j.ctx { op := .load, va := j.word 2 + r.1, len := r.2, party := j.party, origin := selfPair s j.party
                                 src := .rill rill index p, tclass := .mill } s) s)

/-- Bytes read, in the order of their offsets. -/
def gathered (c : Chunk) : Bytes :=
  (c.got.foldl (fun (a : List (Nat × Bytes)) x =>
    a.takeWhile (fun y => y.1 < x.1) ++ [x] ++ a.dropWhile (fun y => y.1 < x.1)) []).flatMap (·.2)

/-- The coded pages of a piece (R251, R264): blocks of 2,048 elements, the descriptor's last one shorter. -/
def codedPages (k : Slot) (slot : Nat) (off : Nat) (vs : List Vec) : Bytes :=
  let d := dOf k.dCode
  let per := 2048 / d
  let full := codedLen per k.two
  let bpp := 4096 / full
  let blocks := (List.range ((vs.length + per - 1) / per)).map (fun i =>
    let mine := (vs.drop (per * i)).take per
    let codes := mine.flatMap (fun v => (codesOf k v).map (fun c => BitVec.ofNat 8 c))
    let len := codedLen mine.length k.two
    padTo len (hdrBytes slot k.gen k.dCode k.two mine.length (2 * d * mine.length) (off + 4096 * i) ++ codes))
  (List.range ((blocks.length + bpp - 1) / bpp)).flatMap (fun q => padTo 4096 (((blocks.drop (bpp * q)).take bpp).flatMap id))

/-- Where piece p of an encoding writes its pages: ceil(512 / BPP) pages for each earlier piece (R264). -/
def encodeOff (j : Job) (p : Nat) : Nat :=
  let bpp := 4096 / codedLen (2048 / dOf (encDCode j)) (encTwo j)
  p * ((512 + bpp - 1) / bpp) * 4096

/-- The (offset from DST, bytes) writes of a piece. -/
def pieceWrites (j : Job) (p : Nat) (d : Bytes) (s : State) : List (Nat × Bytes) :=
  let n := pieceLen j p
  if j.op == opConvert then
    let out := (writeRun (millFmtOut j) (bit (j.word 4) 55) (readRun (millFmtIn j) n d)).1
    let rs := formatRanges (millFmtOut j) (millCount j) p n
    match rs with
    | [(o, l), (o2, _)] => [(o, out.take l), (o2, out.drop l)]
    | [(o, _)] => [(o, out)]
    | _ => []
  else if j.op == opMillReduce then [(pieceElems * p * 4, d)]
  else
    let k := slotOf s (encSlot j)
    [(encodeOff j p, codedPages k (encSlot j) (p * 2097152) (subVecs (dOf k.dCode) n ((words16 n d).map bf16.decode)))]

/-- A piece's writes issued, once its rill's limit has room for them (R192): STOREs, or fabric REDUCEs of up to 4,096 target bytes. -/
def issueWrites (j : Job) (p : Nat) (ws : List (Nat × Bytes)) (s : State) : State :=
  let isRed := j.op == opMillReduce
  let half := isRed && millFmtIn j == 1
  let step := if half then 2048 else 4096
  let opf : W64 := if isRed then BitVec.ofNat 64 (at' (bits (j.word 4) 62 2) 54 + at' (b2n half) 53) else 0#64
  let reqs := ws.flatMap (fun w => (List.range ((w.2.length + step - 1) / step)).map (fun i =>
    (w.1 + 4096 * i, (w.2.drop (step * i)).take step)))
  if 4096 < rillOutstanding s j.rill + reqs.length then s else
  let s := updJob j.rill j.index (fun x => x.updChunk p (fun c => { c with issued := reqs.length, got := [] })) s
  reqs.foldl (fun s r =>
    issueIn j.asid j.ctx { op := if isRed then .reduce else .store, va := j.word 3 + r.1
                           len := if half then 2 * r.2.length else r.2.length, data := r.2, party := j.party
                           origin := selfPair s j.party, src := .rill j.rill j.index p, tclass := .mill, opf } s) s

/-- A piece whose reads have all landed is computed and written. -/
def pieceWrite (rill index p : Nat) (s : State) : State :=
  match findJob s rill index with
  | none => s
  | some j =>
    match j.chunk p with
    | none => s
    | some c =>
      if j.op == opBuild || j.cut || j.withdrawn || j.next ≤ p || c.reads != c.readsDone || c.failed || c.issued != 0 || c.counted
      then s
      else issueWrites j p (pieceWrites j p (gathered c) s) s

/-- The build itself, once every element has been read (R263). -/
def buildFinish (j : Job) (s : State) : State :=
  let data := (List.range (pieceTotal j)).flatMap (fun p => match j.chunk p with | some c => gathered c | none => [])
  let dC := encDCode j
  match j.builds, buildBooksOf dC (encTwo j) (words16 (millCount j) data) with
  | k :: _, some (b, r) =>
    match endBuildSlot j.party k dC (encTwo j) b r s with
    | .error st => finishJob j st (faultDetail st 0 0) false s
    | .ok s =>
      let s := if encSlot j != k && (slotOf s (encSlot j)).state == .live then retireSlot (encSlot j) s else s
      let s := if (Tbl.get {} s.shoal.ctl j.party).result == 1 then s else cbAnswer j.party k 0 0 s
      finishJob j .ok (at' k 32 + (slotOf s k).gen) false s
  | _, _ => finishJob j .faultPermission (operandDetail 0 0) false s

/-- A built-in operation with nothing left to do ends. -/
def builtinEnd (rill index : Nat) (s : State) : State :=
  match findJob s rill index with
  | none => s
  | some j =>
    let allRead := pieceTotal j ≤ j.next
    let done := j.chunks.all (fun c => c.num == counterChunk || c.counted || c.failed)
    if !j.begun || j.outstanding != 0 then s
    else if j.cut || j.withdrawn || j.err.isSome then
      (if done || j.cut || j.withdrawn || j.chunks.all (fun c => c.num == counterChunk || c.counted || c.failed || c.issued == 0)
       then endJob j s else s)
    else if j.op == opBuild then (if j.counterOk && allRead then buildFinish j s else s)
    else if allRead && done then endJob j s else s

/-- A piece whose writes are all complete is counted, and COUNTER advances by its bytes (R190, R248). -/
def pieceCount (rill index p : Nat) (s : State) : State :=
  match findJob s rill index with
  | none => s
  | some j =>
    match j.chunk p with
    | none => s
    | some c =>
      if p == counterChunk || c.issued == 0 || c.issued != c.landed || c.failed || c.counted || j.cut || j.withdrawn then s
      else if j.word 5 != 0 && (4096 ≤ rillOutstanding s rill || !mayCall s engineKey) then s
      else
        let n := pieceBytes j p
        let s := updJob rill index (fun j => { (j.updChunk p (fun c => { c with counted := true })) with done := j.done + 1 })
          (freePiece rill index p s)
        if j.word 5 == 0 then s else issueCounter j (j.word 5) n sealAdd s

/-- One step of a built-in operation of a MILL rill. -/
def builtinStep (op rill index : Nat) (s : State) : State :=
  let s := settle rill (absorb s)
  match findJob s rill index with
  | none => s
  | some j =>
    if j.kind != 1 || j.op != op then s
    else
      let s := if j.begun then s else builtinStart j s
      builtinEnd rill index (builtinPump rill index 4096 s)

/-- CONVERT (R248). -/
def execConvert (rill index : Nat) (s : State) : Host.Outcome State Fault Refusal := .next (builtinStep opConvert rill index s)

/-- REDUCE of a MILL rill (R248). -/
def execMillReduce (rill index : Nat) (s : State) : Host.Outcome State Fault Refusal :=
  .next (builtinStep opMillReduce rill index s)

/-- SHOAL_ENCODE (R264). -/
def execShoalEncode (rill index : Nat) (s : State) : Host.Outcome State Fault Refusal := .next (builtinStep opEncode rill index s)

/-- CODEBOOK_BUILD (R263). -/
def execCodebookBuild (rill index : Nat) (s : State) : Host.Outcome State Fault Refusal := .next (builtinStep opBuild rill index s)

/-- A piece of a built-in operation (R248): one that has been read is computed and written; one that has been written is counted. Further
pieces are issued, and the descriptor ends with its last one. -/
def builtinPiece (rill index piece : Nat) (s : State) : State :=
  match findJob s rill index with
  | none => s
  | some j =>
    if j.kind != 1 || !j.begun || j.op < opConvert || opBuild < j.op then s
    else
      let s := pieceWrite rill index piece (pieceCount rill index piece s)
      builtinEnd rill index (builtinPump rill index 4096 s)

end Sys2Proof.Machine
end

