-- ==== Sys2Proof/Machine/MillTable.lean ====
section
/-!
DEFINITION. Mill tables: the fields of a step (Table 09-6 and the layouts of word 1), the table check of R233, and RUN_TABLE.
-/
namespace Sys2Proof.Machine

open Sys2Proof

/-! ## Steps -/

/-- A mill step (Table 09-6), with its word 1 as a number. -/
structure MStep where
  kind   : Nat
  cond   : Nat
  cneg   : Bool
  branch : Nat
  d      : Nat
  a      : Nat
  b      : Nat
  func   : Nat
  fa     : Nat
  fd     : Nat
  scope  : Nat
  sealW  : Bool
  acquire : Bool
  persist : Bool
  confluent : Bool
  soft   : Bool
  provOk : Bool
  sat    : Bool
  rsvd   : Nat
  w1     : Nat
  deriving DecidableEq, Repr

def mstep (w : W64 × W64) : MStep :=
  let x := w.1
  { kind := field x 58 6, cond := field x 54 4, cneg := flag x 53, branch := field x 45 8, d := field x 40 5, a := field x 35 5
    b := field x 30 5, func := field x 26 4, fa := field x 22 4, fd := field x 18 4, scope := field x 15 3, sealW := flag x 14
    acquire := flag x 13, persist := flag x 12, confluent := flag x 11, soft := flag x 10, provOk := flag x 9, sat := flag x 8
    rsvd := field x 0 8, w1 := w.2.toNat }

def kNop : Nat := 0x00
def kEnd : Nat := 0x01
def kSetlc : Nat := 0x02
def kLoop : Nat := 0x03
def kSetf : Nat := 0x04
def kWait : Nat := 0x05
def kFence : Nat := 0x06
def kSalu : Nat := 0x07
def kSld : Nat := 0x08
def kLd : Nat := 0x10
def kSt : Nat := 0x11
def kAtom : Nat := 0x12
def kRed : Nat := 0x13
def kMcast : Nat := 0x14
def kGather : Nat := 0x15
def kVmov : Nat := 0x18
def kVcvt : Nat := 0x19
def kValu : Nat := 0x1A
def kVdot : Nat := 0x1B
def kVred : Nat := 0x1C
def kVfn : Nat := 0x1D
def kLubuild : Nat := 0x20
def kLuscore : Nat := 0x21
def kLubin : Nat := 0x22
def kCqins : Nat := 0x28
def kCqpop : Nat := 0x29
def kCqout : Nat := 0x2A
def kCqclr : Nat := 0x2B

/-- Capability word 2: the step kinds provided (R250). -/
def stepKinds : Nat := 0x00000F073F3F01FF

/-! ## Word 1 -/

def MStep.n (t : MStep) : Nat := bits t.w1 52 12 + 1
def MStep.doff (t : MStep) : Nat := 32 * bits t.w1 39 13
def MStep.aoff (t : MStep) : Nat := 32 * bits t.w1 26 13
def MStep.boff (t : MStep) : Nat := 32 * bits t.w1 13 13
def MStep.imm (t : MStep) : Nat := bits t.w1 0 13
def MStep.len (t : MStep) : Nat := bits t.w1 52 12 + 1
def MStep.laddr (t : MStep) : Nat := bits t.w1 32 18
/-- OFF, signed, of layouts M and W. -/
def MStep.off (t : MStep) : Int := signed 32 (bits t.w1 0 32)
def MStep.rowLen (t : MStep) : Nat := bits t.w1 52 12 + 1
def MStep.rows (t : MStep) : Nat := bits t.w1 44 8 + 1
def MStep.idxOff (t : MStep) : Nat := 32 * bits t.w1 31 13
def MStep.dstOff (t : MStep) : Nat := 32 * bits t.w1 18 13
def MStep.timeoutK (t : MStep) : Nat := bits t.w1 40 24
/-- Subspaces, sub-vector size and two-stage codes of a look-up step (R240). -/
def MStep.subspaces (t : MStep) : Nat := bits t.imm 6 7 + 1
def MStep.dSub (t : MStep) : Nat := 2 ^ (1 + bits t.imm 0 2)
def MStep.twoStage (t : MStep) : Bool := bit t.func 1

/-! ## The check (R233) -/

/-- A step that never branches under R234. -/
def MStep.neverBranches (t : MStep) : Bool := t.kind == kEnd || (t.kind != kLoop && t.cond == 0 && t.cneg)

/-- Scalar registers a step names where only a register is allowed. -/
def MStep.regFields (t : MStep) : List Nat :=
  let k := t.kind
  if k == kEnd then (if bit t.func 0 then [t.a] else [])
  else if k == kSetlc then [t.a]
  else if k == kWait then [t.a, t.b]
  else if k == kSalu then (if t.func == 13 then [t.d] else if 10 ≤ t.func then [t.a] else [t.d, t.a])
  else if k == kSld then [t.d, t.a]
  else if k == kLd || k == kSt || k == kRed then [t.a, t.b]
  else if k == kAtom || k == kMcast || k == kGather then [t.d, t.a, t.b]
  else if k == kVmov then (if t.func == 0 then [t.d, t.a] else [t.d, t.b])
  else if k == kVcvt || k == kVfn then [t.d, t.a]
  else if k == kValu then (if t.func == 6 || t.func == 7 then [t.d, t.a] else [t.d, t.a, t.b])
  else if k == kVred then [t.d, t.a]
  else if k == kVdot || k == kLubuild || k == kLuscore || k == kLubin then [t.d, t.a, t.b]
  else if k == kCqins then [t.a, t.b]
  else if k == kCqpop || k == kCqout then [t.d, t.a]
  else []

/-- TYPE of an ATOM's FA (Table 09-7). -/
def atomType (fa : Nat) : Option Nat :=
  match fa with
  | 11 => some 0 | 12 => some 1 | 0 => some 2 | 1 => some 3 | _ => none

/-- Formats and sub-operations by KIND (Tables 09-7, 09-9). -/
def MStep.fieldsOk (t : MStep) : Bool :=
  let k := t.kind
  let lut := t.subspaces ≤ 64 && bits t.imm 2 4 == 0
  if k == kNop || k == kFence || k == kCqpop then t.w1 == 0
  else if k == kEnd then t.w1 == 0
  else if k == kLoop then t.w1 == 0 && t.cond == 0
  else if k == kWait then t.timeoutK != 0 && bits t.w1 32 8 == 0
  else if k == kSalu then t.func ≤ 13
  else if k == kSld then t.func ≤ 1
  else if k == kLd || k == kSt || k == kMcast then bits t.w1 50 2 == 0
  else if k == kAtom then
    bits t.w1 50 2 == 0 && t.len == 1 && (match atomType t.fa with
      | some ty => atomicPairOk (bits t.func 0 3) ty
      | none => false)
  else if k == kRed then bits t.w1 50 2 == 0 && bits t.func 0 2 ≤ 2 && t.fa ≤ 1
  else if k == kGather then bits t.w1 0 18 == 0
  else if k == kVmov then t.func ≤ 1
  else if k == kVcvt then t.fa ≤ 12 && t.fd ≤ 12
  else if k == kValu then t.func ≤ 10 && t.fa ≤ 12 && t.fd ≤ 12
  else if k == kVdot then t.fa ≤ 10 && t.fd == 0
  else if k == kVred then t.func ≤ 4 && t.fa ≤ 12
  else if k == kVfn then t.func ≤ 2 && t.fa ≤ 12 && t.fd == 0
  else if k == kLubuild then t.fa ≤ 1 && (t.fd == 0 || t.fd == 2) && lut && t.n == t.subspaces * t.dSub
  else if k == kLuscore then (t.fa == 0 || t.fa == 2) && lut
  else if k == kLubin then lut
  else if k == kCqclr then t.imm ≤ 1023
  else true

/-- The fabric opcode of a step, for its ordering flags (Table 07-1). -/
def MStep.opcode (t : MStep) : Option Op :=
  if t.kind == kLd || t.kind == kGather then some .load
  else if t.kind == kSt then some .store
  else if t.kind == kAtom then some .atomic
  else if t.kind == kRed then some .reduce
  else if t.kind == kMcast then some .mcastStore
  else none

/-- Ordering flags only where Table 07-1 permits them; PERSIST only with SEAL (R177). -/
def MStep.flagsOk (t : MStep) : Bool :=
  let (s, a, p, c) := match t.opcode with | some o => flagsAllowed o | none => (false, false, false, false)
  (s || !t.sealW) && (a || !t.acquire) && (p || !t.persist) && (c || !t.confluent) && (t.sealW || !t.persist)

/-- Whether step i of a table of n steps passes the check; format codes 14 and 15 are invalid (R227). -/
def stepOk (n i : Nat) (t : MStep) : Bool :=
  bit stepKinds t.kind && t.fieldsOk && t.regFields.all (fun r => r ≤ 15)
  && (t.neverBranches || (t.branch < n && (if t.kind == kLoop then t.branch ≤ i else i < t.branch)))
  && t.flagsOk && t.scope ≤ 4 && t.rsvd == 0 && t.fa ≤ 13 && t.fd ≤ 13

/-- The first step that fails the check. -/
def badStep (table : List (W64 × W64)) : Option Nat :=
  (table.zipIdx).findSome? (fun x => if stepOk table.length x.2 (mstep x.1) then none else some x.2)

/-- DETAIL of a step (R233, R237, R238). -/
def stepDetail (step offset : Nat) : Nat := at' 0xF 60 + at' (step % 256) 52 + offset % 2 ^ 52

/-! ## RUN_TABLE -/

def opRunTable : Nat := 1

/-- The mill that runs a descriptor. -/
def millOfJob (s : State) (rill index : Nat) : Option Nat :=
  (s.mills.find? (fun m => m.2.job == some (rill, index))).map (·.1)

/-- The steps of a table's bytes. -/
def tableOf (n : Nat) (d : Bytes) : List (W64 × W64) :=
  (List.range n).map (fun i =>
    (BitVec.ofNat 64 (ofBytes ((d.drop (16 * i)).take 8)), BitVec.ofNat 64 (ofBytes ((d.drop (16 * i + 8)).take 8))))

/-- A table that has been read: checked, and its sequencer begins. -/
def beginTable (j : Job) (m : Nat) (d : Bytes) (s : State) : State :=
  let table := tableOf (bits (j.word 3) 0 8 + 1) d
  match badStep table with
  | some i => finishJob j .faultPermission (stepDetail i 0) false s
  | none => updMill m (fun x => { x with table, pc := 0 }) (updJob j.rill j.index (fun j => { j with counterOk := true }) s)

/-- RUN_TABLE (R233): a table on this node is read at once; one on another node by a LOAD, and the next RUN_TABLE goes on with
what it returned. -/
def runTable (rill index : Nat) (s : State) : State :=
  let s := settle rill (absorb s)
  match findJob s rill index, millOfJob s rill index with
  | some j, some m =>
    let n := 16 * (bits (j.word 3) 0 8 + 1)
    let va := j.word 2
    if j.kind != 1 || j.op != opRunTable || j.counterOk || j.cut || j.withdrawn then s
    else if j.begun then
      match j.err, j.chunk 0 with
      | some (_, st, d), _ => finishJob j st d false s
      | none, some c => if c.reads == c.readsDone then beginTable j m (gathered c) s else s
      | none, none => s
    else match vpiece s j.ctx va with
      | none => finishJob j .faultUnmapped (operandDetail 0 0) false s
      | some p =>
        if va % 4096 != 0 || !(p.cls == .priv || p.cls == .sharedRo) then
          finishJob j .faultPermission (operandDetail 0 0) false s
        else if atHand s j.ctx va n then
          match vread s j.party j.ctx va n with
          | .fail st o => finishJob j st (faultDetail st 0 o) false s
          | .ok d => beginTable j m d (updJob rill index (fun j => { j with begun := true }) (countVirtual j.party j.ctx va n s))
        else
          let s := updJob rill index (fun j => { (j.updChunk 0 (fun c => { c with reads := c.reads + 1 })) with begun := true }) s
          issueIn j.asid j.ctx { op := .load, va, len := n, party := j.party, origin := selfPair s j.party, src := .rill rill index 0
                                 tclass := .mill } s
  | _, _ => s

def execRunTable (rill index : Nat) (s : State) : Host.Outcome State Fault Refusal := .next (runTable rill index s)

end Sys2Proof.Machine
end

