-- ==== Sys2Proof/Machine/MillStep.lean ====
section
/-!
DEFINITION. The sequencer of a mill (R234 to R239), its data path (R229 to R232, R240 to R244), its memory steps (R236, R238)
and its provisional loads (R245 to R247). Each step command performs the mill's current step if it is of that kind and may
start; otherwise it changes nothing.
-/
namespace Sys2Proof.Machine

open Sys2Proof

/-! ## Registers, flags and SRAM -/

def Mill.reg (x : Mill) (r : Nat) : Nat := (nth 0#64 x.regs r).toNat

def Mill.setReg (x : Mill) (r v : Nat) : Mill := { x with regs := setNth x.regs r (BitVec.ofNat 64 v) }

def fZ : Nat := 1
def fN : Nat := 2
def fLt : Nat := 3
def fNan : Nat := 4
def fInf : Nat := 5
def fErr : Nat := 6
def fPoison : Nat := 7
def fTimeout : Nat := 8
def fCqEmpty : Nat := 9
def fCqFull : Nat := 10
def fCqImproved : Nat := 11

/-- A flag's value; CQ_EMPTY and CQ_FULL are live (Table 09-8). -/
def Mill.hasFlag (x : Mill) (c : Nat) : Bool :=
  if c == 0 then true
  else if c == fCqEmpty then x.cq.isEmpty
  else if c == fCqFull then x.cqLimit ≤ x.cq.length
  else x.flags.contains c

def Mill.setFlag (x : Mill) (c : Nat) (b : Bool) : Mill :=
  { x with flags := if b then insertNat c x.flags else removeNat c x.flags }

def Mill.getMem (x : Mill) (lo len : Nat) : Bytes := Memory.readN x.sram lo len

/-- SRAM bytes written; while the mill is speculative their old contents go to the undo log (R247). -/
def Mill.putMem (x : Mill) (lo : Nat) (d : Bytes) : Mill :=
  { x with undo := if x.ckpt.isSome then ((rangeFrom lo d.length).map (fun a => (a, x.sram.read a))).reverse ++ x.undo else x.undo
           sram := Memory.writeN x.sram lo d }

def sramBytes : Nat := 0x30000

/-- The SRAM address of a V operand: S[x][17:0] + offset, with S[x][4:0] 0. -/
def Mill.vaddr (x : Mill) (r off : Nat) : Option Nat :=
  let b := x.reg r % 2 ^ 18
  if b % 32 != 0 then none else some (b + off)

inductive Ready where
  | ok | stall | fault
  deriving DecidableEq, Repr

/-- R235, R237: whether ranges read and written lie in SRAM and are free of loads that have not landed, and the undo log has room
for what is written (R247). -/
def Mill.ready (x : Mill) (rs ws : List (Option Nat × Nat)) : Ready :=
  let all := rs ++ ws
  if all.any (fun r => match r.1 with | none => true | some lo => sramBytes < lo + r.2) then .fault
  else if all.any (fun r => x.steps.any (fun p => p.isRead && p.reg.isNone && p.lo < (r.1.getD 0) + r.2 && (r.1.getD 0) < p.lo + p.len))
  then .stall
  else if x.ckpt.isSome && 8192 < x.undo.length + (ws.map (·.2)).sum then .stall
  else .ok

/-! ## Running a step -/

inductive StepRes where
  | stall
  | fault
  | done (s : State)                   -- the next step is chosen by COND
  | goto (pc : Nat) (s : State)
  | stay (s : State)                   -- the step goes on
  deriving DecidableEq

/-- Step index STEPS_M1 + 1: END with FUNC 0 (R234). -/
def endStep : MStep := mstep (BitVec.ofNat 64 (at' kEnd 58 + at' 1 53), 0#64)

def Mill.current (x : Mill) : MStep := match x.table[x.pc]? with | some w => mstep w | none => endStep

/-- A mill's descriptor ends once every memory step has landed and nothing is speculative (R237 to R239). -/
def tryFinish (m : Nat) (s : State) : State :=
  let x := millOf s m
  match x.job with
  | none => s
  | some (rill, index) =>
    match findJob s rill index with
    | none => s
    | some j =>
      if !x.steps.isEmpty || x.ckpt.isSome then s
      else if j.cut || j.withdrawn then endJob j s
      else match x.ended with
        | some (st, d, i) => finishJob j st d i s
        | none => s

/-- A branch that waited is decided: the step has finished, and for ERR and POISON every memory step has landed (R234). -/
def tryBranch (m : Nat) (s : State) : State :=
  let x := millOf s m
  match x.branch with
  | none => s
  | some k =>
    let t := x.current
    let wait := if t.cond == fErr || t.cond == fPoison then !x.steps.isEmpty else t.kind != kWait && x.steps.any (fun p => p.isRead && p.step == k)
    if wait || x.ckpt.isSome then s
    else updMill m (fun x => { x with branch := none, pc := if x.hasFlag t.cond != t.cneg then t.branch else x.pc + 1 }) s

/-- The next step chosen (R234). -/
def advance (m : Nat) (t : MStep) (s : State) : State :=
  if t.neverBranches then updMill m (fun x => { x with pc := x.pc + 1 }) s
  else if t.cond == 0 then updMill m (fun x => { x with pc := t.branch }) s
  else tryBranch m (updMill m (fun x => { x with branch := some x.pc }) s)

/-- The descriptor is to end with a status. -/
def endMill (m : Nat) (st : Status) (detail : Nat) (s : State) : State :=
  tryFinish m (updMill m (fun x => if x.ended.isSome then x else { x with ended := some (st, detail, false) }) s)

/-- Steps a speculative mill stalls (R247). -/
def stallsSpec (t : MStep) : Bool :=
  (kLd ≤ t.kind && t.kind ≤ kGather) || t.kind == kWait || t.kind == kFence || t.kind == kEnd || t.cond != 0
  || (kCqins ≤ t.kind && t.kind ≤ kCqclr)

/-- Accesses, which wait for an acquire (R161). -/
def isAccess (t : MStep) : Bool := (kLd ≤ t.kind && t.kind ≤ kGather) || t.kind == kWait || t.kind == kFence

/-- The mill's current step performed by `body`, if it is of the kind and may start. -/
def runStep (m kind : Nat) (body : MStep → Mill → Job → State → StepRes) (s : State) : State :=
  let x := millOf s m
  match x.job with
  | none => s
  | some (rill, index) =>
    match findJob s rill index with
    | none => s
    | some j =>
      let t := x.current
      let regs := t.regFields ++ (if t.kind == kSalu && t.b < 16 then [t.b] else [])
      if x.table.isEmpty || x.ended.isSome || x.wait.isSome || x.branch.isSome || j.cut || j.withdrawn || t.kind != kind then s
      else if (x.ckpt.isSome && stallsSpec t) || (x.steps.any (·.acq) && isAccess t) then s
      else if x.steps.any (fun p => match p.reg with | some r => regs.contains r | none => false) then s
      else match body t x j s with
        | .stall => s
        | .fault => endMill m .faultPermission (stepDetail x.pc 0) s
        | .done s => advance m t s
        | .goto pc s => updMill m (fun x => { x with pc }) s
        | .stay s => s

/-- A step on the mill alone, with its SRAM ranges checked. -/
def localStep (m : Nat) (x : Mill) (rs ws : List (Option Nat × Nat)) (f : Mill → Mill) (s : State) : StepRes :=
  match x.ready rs ws with
  | .fault => .fault
  | .stall => .stall
  | .ok => .done (updMill m f s)

/-! ## Completion at a scope (R157, R166) -/

/-- Requests of a mill that are incomplete, by destination and epoch (R166). -/
def Mill.pending (x : Mill) (d : Dest) (e : Nat) : Nat := (x.steps.filter (fun p => p.epoch == e && p.dests.contains d)).length

/-- Epochs of a mill with an incomplete request (R165). -/
def Mill.openEpochs (x : Mill) : List Nat :=
  (List.range 256).filter (fun e => x.steps.any (fun p => p.dests.any (fun d => 0 < x.pending d e)))

/-- Whether a request belongs to a memory step of a mill. -/
def ofStep (m : Nat) (p : MemStep) (r : Req) : Bool := r.src == .mill m && r.tag == p.id

/-- Whether a memory step has a request that its memory stage still holds for a credit, or that was held and is not accepted (R164). -/
def unsent (s : State) (m : Nat) (p : MemStep) : Bool :=
  s.weir.stalled.any (fun x => ofStep m p x.2) || s.net.sent.any (fun x => x.wasHeld && x.phase != 2 && ofStep m p x.req)

/-- Whether a memory step has a request that its home pipeline has not admitted. -/
def unadmitted (s : State) (m : Nat) (p : MemStep) : Bool :=
  s.weir.queue.any (fun q => q.all.any (ofStep m p)) || s.net.combos.any (fun c => c.behind.any (ofStep m p))

/-- Whether a memory step that has not landed is complete at a scope (Table 06-1): a write or an atomic to a node's memory once issued at
MILL, and once its home pipeline has admitted it at RACE where its home is the mill's own race; nothing else. -/
def completeAt (s : State) (m scope : Nat) (p : MemStep) : Bool :=
  if (p.isRead && p.reg.isNone) || p.far || unsent s m p then false
  else if scope == 0 then true
  else scope == 1 && p.dests.all (· == .race (m / 100)) && !unadmitted s m p

/-! ## Control steps -/

def execNop (m : Fin 800) (s : State) : Host.Outcome State Fault Refusal :=
  .next (runStep m kNop (fun _ _ _ s => .done s) s)

/-- END (R239): it waits for every memory step. -/
def execStepEnd (m : Fin 800) (s : State) : Host.Outcome State Fault Refusal :=
  .next (runStep m kEnd (fun t x _ s =>
    if !x.steps.isEmpty then .stall
    else .stay (endMill m x.soft (if bit t.func 0 then x.reg t.a else 0) s)) s)

def execSetlc (m : Fin 800) (s : State) : Host.Outcome State Fault Refusal :=
  .next (runStep m kSetlc (fun t x _ s =>
    let v := unsigned 16 (Int.ofNat (x.reg t.a) + signed 16 (bits t.w1 0 16))
    .done (updMill m (fun x => { x with lc := setNth x.lc (t.d % 4) (v, v) }) s)) s)

def execLoopStep (m : Fin 800) (s : State) : Host.Outcome State Fault Refusal :=
  .next (runStep m kLoop (fun t x _ s =>
    let (c, r) := nth (0, 0) x.lc (t.d % 4)
    if c != 0 then .goto t.branch (updMill m (fun x => { x with lc := setNth x.lc (t.d % 4) (c - 1, r) }) s)
    else .goto (x.pc + 1) (updMill m (fun x => { x with lc := setNth x.lc (t.d % 4) (r, r) }) s)) s)

/-- SETF; a user flag named both to set and to clear takes an open value. -/
def execSetf (m : Fin 800) (s : State) : Host.Outcome State Fault Refusal :=
  .next (runStep m kSetf (fun t _ _ s =>
    let set := bits t.w1 0 4
    let clr := bits t.w1 4 4
    let both := (List.range 4).any (fun i => bit set i && bit clr i)
    let (w, s) := if both then takeWord s else (0#64, s)
    let one := fun (x : Mill) (i : Nat) =>
      if bit set i && bit clr i then x.setFlag (12 + i) (flag w i)
      else if bit set i then x.setFlag (12 + i) true
      else if bit clr i then x.setFlag (12 + i) false else x
    .done (updMill m (fun x =>
      let x := (List.range 4).foldl one x
      let x := if bit t.w1 8 then x.setFlag fErr false else x
      if bit t.w1 9 then x.setFlag fPoison false else x) s)) s)

/-- FENCE (R164, R165): it waits until every earlier access is complete at its scope, and opens the next epoch. -/
def execFence (m : Fin 800) (s : State) : Host.Outcome State Fault Refusal :=
  .next (runStep m kFence (fun t x _ s =>
    if !(x.steps.all (completeAt s m t.scope)) || !mayOpen x.openEpochs x.epoch then .stall
    else .done (updMill m (fun x => { x with epoch := (x.epoch + 1) % 256 }) s)) s)

/-! ## Scalar steps -/

/-- SALU's result by FUNC; shifts of 64 or more have an open value (log entry 30). -/
def saluResult (f a b : Nat) (free : Nat) : Nat :=
  let q := 2 ^ 64
  match f with
  | 0 => (a + b) % q
  | 1 => (a + q - b) % q
  | 2 => a * b % q
  | 3 => a &&& b
  | 4 => a ||| b
  | 5 => a ^^^ b
  | 6 => if b < 64 then a * 2 ^ b % q else free
  | 7 => if b < 64 then a / 2 ^ b else free
  | 8 => min a b
  | 9 => max a b
  | 10 | 11 => (a + q - b) % q
  | 12 => f32sub (a % 2 ^ 32) (b % 2 ^ 32)
  | _ => b

def saluLt (f a b : Nat) : Bool :=
  match f with
  | 10 => decide (a < b)
  | 11 => decide (signed 64 a < signed 64 b)
  | _ => f32lt (a % 2 ^ 32) (b % 2 ^ 32)

def execSalu (m : Fin 800) (s : State) : Host.Outcome State Fault Refusal :=
  .next (runStep m kSalu (fun t x _ s =>
    let a := x.reg t.a
    let b := if t.b < 16 then x.reg t.b else t.w1
    let wide := (t.func == 6 || t.func == 7) && 64 ≤ b
    let (w, s) := if wide then takeWord s else (0#64, s)
    let r := saluResult t.func a b w.toNat
    let cmp := 10 ≤ t.func && t.func ≤ 12
    let z := if t.func == 12 then r % 2 ^ 31 == 0 else r == 0
    let n := if t.func == 12 then bit r 31 else bit r 63
    .done (updMill m (fun x =>
      let x := (x.setFlag fZ z).setFlag fN n
      if cmp then x.setFlag fLt (saluLt t.func a b) else x.setReg t.d r) s)) s)

def execSld (m : Fin 800) (s : State) : Host.Outcome State Fault Refusal :=
  .next (runStep m kSld (fun t x _ s =>
    let a := (x.reg t.a + bits t.w1 0 18) % 2 ^ 64
    if a % 8 != 0 then .fault
    else if t.func == 0 then
      localStep m x [(some a, 8)] [] (fun x =>
        let v := ofBytes (x.getMem a 8)
        ((x.setReg t.d v).setFlag fZ (v == 0)).setFlag fN (bit v 63)) s
    else localStep m x [] [(some a, 8)] (fun x => ((x.putMem a (toBytes (x.reg t.d) 8)).setFlag fZ false).setFlag fN false) s) s)

/-! ## Memory steps (R236) -/

/-- OP_FIELDS of a memory step: its ordering flags and the opcode's own bits. -/
def stepOpf (t : MStep) (own : Nat) : W64 :=
  BitVec.ofNat 64 (at' (b2n t.sealW) 63 + at' (b2n t.acquire) 62 + at' (b2n t.persist) 61 + at' (b2n t.confluent) 60
    + at' (if t.sealW || t.acquire then t.scope else 0) 57 + own)

/-- Where the requests of a memory step go, and whether they write to a window or to a delta group. -/
def stepDests (s : State) (m : Nat) (j : Job) (op : Op) (own va len : Nat) : List Dest × Bool :=
  if op == .mcastStore then ([.group (bits own 48 8)], true)
  else match translateIn s j.ctx va len op with
    | .pieces ps =>
      (((cutPieces ps).map (fun p => if addrNode p.addr == s.node then Dest.race (homeRace s (addrOffset p.addr))
          else Dest.node (addrNode p.addr))).eraseDups,
        op != .load && ps.any (fun p => p.cls == .sluice))
    | _ => ([], false)

/-- A request of a mill: remembered until it lands. -/
def memIssue (m : Nat) (j : Job) (t : MStep) (op : Op) (va len : Nat) (data : Bytes) (own : Nat) (prov : Bool) (p : MemStep)
    (s : State) : State :=
  let x := millOf s m
  let epoch := if t.sealW then (x.epoch + 1) % 256 else x.epoch
  let (dests, far) := stepDests s m j op own va len
  let p := { p with id := x.nextStep, step := x.pc, epoch, dests, far, acq := t.acquire }
  let next := if t.neverBranches then x.pc + 1 else if t.cond == 0 then t.branch else x.pc
  let ck : Checkpoint := { regs := x.regs, lc := x.lc, flags := x.flags, soft := x.soft, pc := next, load := p }
  let s := updMill m (fun x => { x with
    nextStep := x.nextStep + 1, epoch, steps := x.steps ++ [p]
    ckpt := if prov then some ck else x.ckpt }) s
  issueIn j.asid j.ctx { op, va, len, data, party := j.party, origin := selfPair s j.party, src := .mill m, tag := p.id, tclass := .mill
                         epoch, provOk := prov, opf := stepOpf t own } s

/-- Virtual address of a memory step: S[A] + OFF. -/
def stepVa (x : Mill) (t : MStep) : Nat := unsigned 64 (Int.ofNat (x.reg t.a) + t.off)

/-- SRAM address of a memory step: S[B] + LADDR. -/
def stepLocal (x : Mill) (t : MStep) : Nat := (x.reg t.b + t.laddr) % 2 ^ 64

/-- Reads of a mill that have not returned (R236). -/
def readsOut (x : Mill) : Nat := (x.steps.filter (·.isRead)).length

/-- Whether a step's SEAL lets it be sent (R160, R165): the earlier accesses are complete at its scope, all of them acknowledged for a
persist point (R81), and another epoch may be opened. -/
def sealReady (s : State) (m : Nat) (x : Mill) (t : MStep) : Bool :=
  !t.sealW || ((if t.persist then x.steps.isEmpty else x.steps.all (completeAt s m t.scope)) && mayOpen x.openEpochs x.epoch)

/-- Whether an LD may be answered with provisional data (R246). -/
def mayProvision (s : State) (j : Job) (t : MStep) (va : Nat) : Bool :=
  t.provOk && !t.acquire && t.len ≤ 256 && (partyRec s j.party).hotWays != 0
    && ((vpiece s j.ctx va).map (·.cls)) == some .coherent

def execLd (m : Fin 800) (s : State) : Host.Outcome State Fault Refusal :=
  .next (runStep m kLd (fun t x j s =>
    let va := stepVa x t
    let lo := stepLocal x t
    match x.ready [] [(some lo, t.len)] with
    | .fault => .fault
    | .stall => .stall
    | .ok =>
      if 256 ≤ readsOut x then .stall
      else .done (memIssue m j t .load va t.len [] 0 (mayProvision s j t va)
        { id := 0, step := 0, addr := va, lo, len := t.len, isRead := true, soft := t.soft } s)) s)

/-- A step that sends bytes of local SRAM. -/
def sendStep (m : Nat) (op : Op) (t : MStep) (x : Mill) (j : Job) (n own : Nat) (s : State) : StepRes :=
  let lo := stepLocal x t
  match x.ready [(some lo, n)] [] with
  | .fault => .fault
  | .stall => .stall
  | .ok =>
    if !sealReady s m x t then .stall
    else .done (memIssue m j t op (stepVa x t) t.len (x.getMem lo n) own false { id := 0, step := 0, addr := stepVa x t } s)

def execSt (m : Fin 800) (s : State) : Host.Outcome State Fault Refusal :=
  .next (runStep m kSt (fun t x j s => sendStep m .store t x j t.len 0 s) s)

def execRed (m : Fin 800) (s : State) : Host.Outcome State Fault Refusal :=
  .next (runStep m kRed (fun t x j s =>
    if t.len % 4 != 0 then .fault
    else sendStep m .reduce t x j (if t.fa == 1 then t.len / 2 else t.len) (at' (t.func % 4) 54 + at' (b2n (t.fa == 1)) 53) s) s)

def execMcast (m : Fin 800) (s : State) : Host.Outcome State Fault Refusal :=
  .next (runStep m kMcast (fun t x j s => sendStep m .mcastStore t x j t.len (at' (x.reg t.d % 256) 48) s) s)

def execAtom (m : Fin 800) (s : State) : Host.Outcome State Fault Refusal :=
  .next (runStep m kAtom (fun t x j s =>
    let ty := (atomType t.fa).getD 0
    let n := atypeSize ty
    let aop := bits t.func 0 3
    let fetch := bit t.func 3
    let returns := fetch || aop == 5 || aop == 6
    let data := toBytes (x.reg t.b) n ++ (if aop == 6 then toBytes (x.reg t.d) n else [])
    let va := stepVa x t
    if !sealReady s m x t || (returns && 256 ≤ readsOut x) then .stall
    else .done (memIssue m j t .atomic va n data (at' aop 52 + at' ty 50 + at' (b2n fetch) 49) false
      { id := 0, step := 0, addr := va, reg := if returns then some t.d else none, len := n, isRead := returns } s)) s)

/-- Rows of a GATHER issued one after another. -/
def gatherRows (m : Nat) (j : Job) (t : MStep) (base dst stride : Nat) : List (Nat × Nat) → State → State
  | [], s => s
  | (r, idx) :: rest, s =>
    let va := (base + idx * stride) % 2 ^ 64
    gatherRows m j t base dst stride rest (memIssue m j t .load va t.rowLen [] 0 false
      { id := 0, step := 0, addr := base, lo := dst + r * stride, len := t.rowLen, row := r, isRead := true, soft := t.soft } s)

def execGather (m : Fin 800) (s : State) : Host.Outcome State Fault Refusal :=
  .next (runStep m kGather (fun t x j s =>
    let stride := (t.rowLen + 63) / 64 * 64
    let idx := some (x.reg t.d + t.idxOff)
    let dst := some (x.reg t.b + t.dstOff)
    match x.ready [(idx, 4 * t.rows)] [(dst, stride * (t.rows - 1) + t.rowLen)] with
    | .fault => .fault
    | .stall => .stall
    | .ok =>
      if 256 < readsOut x + t.rows then .stall
      else
        let is := words32 t.rows (x.getMem (idx.getD 0) (4 * t.rows))
        .done (gatherRows m j t (x.reg t.a) (dst.getD 0) stride ((List.range t.rows).zip is) s)) s)

/-! ## WAIT -/

/-- One poll: an acquire load of the counter. -/
def poll (m : Nat) (j : Job) (t : MStep) (va : Nat) (s : State) : State :=
  let t' := { t with acquire := true, sealW := false }
  let s := memIssue m j t' .load va 8 [] 0 false { id := 0, step := 0, addr := va, isRead := true } s
  updMill m (fun x => { x with wait := x.wait.map (fun w => { w with polling := true }) }) s

def execWaitStep (m : Fin 800) (s : State) : Host.Outcome State Fault Refusal :=
  .next (runStep m kWait (fun t x j s =>
    let va := stepVa x t
    if 256 ≤ readsOut x then .stall
    else .stay (poll m j t va (updMill m (fun x => { (x.setFlag fTimeout false) with wait := some { va, target := x.reg t.b } }) s))) s)

/-- A WAIT ends, by its counter or by timeout. -/
def endWait (m : Nat) (timeout : Bool) (s : State) : State :=
  let t := (millOf s m).current
  advance m t (updMill m (fun x => { (x.setFlag fTimeout timeout) with wait := none }) s)

/-- WAIT_POLL (R234): the poll interval, or with `timeout` the limit of TIMEOUT_K, has passed. -/
def execWaitPoll (m : Fin 800) (timeout : Bool) (s : State) : Host.Outcome State Fault Refusal :=
  .next (
    let x := millOf s m
    match x.wait, x.job with
    | some w, some (rill, index) =>
      match findJob s rill index with
      | none => s
      | some j =>
        if j.cut || j.withdrawn then s
        else if timeout then endWait m true s
        else if w.polling || 256 ≤ readsOut x then s
        else poll m j x.current w.va s
    | _, _ => s)

/-! ## Landings (R238) -/

/-- A soft status: the destination zero-filled where no data was delivered, ERR and POISON set, SOFT_STATUS recorded (R238). -/
def softLand (p : MemStep) (st : Status) (d : Bytes) (x : Mill) : Mill :=
  let x := x.putMem p.lo (padTo p.len d)
  let x := x.setFlag fErr true
  let x := if st == .poison || st == .uncorrectable then x.setFlag fPoison true else x
  { x with soft := if x.soft == .ok then st else x.soft }

/-- The data of a load or atomic written to its destination. -/
def landData (p : MemStep) (d : Bytes) (x : Mill) : Mill :=
  if !p.isRead then x
  else match p.reg with
    | some r => x.setReg r (ofBytes d)
    | none => x.putMem p.lo (padTo p.len d)

def isPollStep (x : Mill) (p : MemStep) : Bool :=
  match x.table[p.step]? with
  | some w => (mstep w).kind == kWait
  | none => false

/-- Landing of a memory step that was issued before the provisional load: it has its effect whether or not the speculation is cancelled, so it
reaches the checkpoint too and leaves nothing in the undo log (R245, R247). -/
def landEarlier (f : Mill → Mill) (x : Mill) : Mill :=
  match x.ckpt with
  | none => f x
  | some c =>
    let y := f { x with ckpt := none }
    let b := f { x with ckpt := none, regs := c.regs, flags := c.flags, soft := c.soft, ended := c.ended }
    { y with ckpt := some { c with regs := b.regs, flags := b.flags, soft := b.soft, ended := b.ended } }

/-- A poll has returned. -/
def landPoll (m : Nat) (st : Status) (d : Bytes) (s : State) : State :=
  match (millOf s m).wait with
  | none => s
  | some w =>
    if !w.polling then s
    else if st != .ok then endWait m true s
    else if (ofBytes d + 2 ^ 64 - w.target) % 2 ^ 64 < 2 ^ 63 then endWait m false s
    else updMill m (fun x => { x with wait := some { w with polling := false } }) s

/-- Bytes that a memory step of a running descriptor has written (R217). -/
def countLanded (m : Nat) (l : Landed) (s : State) : State :=
  match (millOf s m).job with
  | some k => if isWriteOp l.req.op then updJob k.1 k.2 (fun j => { j with bytes := j.bytes + l.req.len }) s else s
  | none => s

/-- One completion of a mill's memory step taken. -/
def landStep (m : Nat) (l : Landed) (s : State) : State :=
  let x := millOf s m
  match x.steps.find? (fun p => p.id == l.req.tag) with
  | none => s
  | some p =>
    let s := updMill m (fun x => { x with steps := x.steps.filter (fun q => q.id != p.id) }) s
    let mine := (x.ckpt.map (fun c => c.load.id == p.id)).getD false
    if l.prov then updMill m (landData p l.data) s
    else
      -- an ordinary response ends the speculation before its data is written
      let s := if mine then updMill m (fun x => { x with ckpt := none, undo := [] }) s else s
      if isPollStep x p then landPoll m l.status l.data s
      else if l.status == .ok then countLanded m l (updMill m (landEarlier (landData p l.data)) s)
      else
        let soft := p.isRead && p.reg.isNone
          && ((p.soft && (l.status == .poison || l.status == .uncorrectable)) || l.status == .short || l.status == .overrun)
        if soft then updMill m (landEarlier (softLand p l.status l.data)) s
        else
          let off := match x.job.bind (fun k => findJob s k.1 k.2) with
            | some j => l.req.va - p.addr + failOffset s j.ctx l.status l.req
            | none => 0
          let st := namedStatus 1 l
          updMill m (landEarlier (fun x => if x.ended.isSome then x else { x with ended := some (st, stepDetail p.step off, false) })) s

/-- MEMORY_STEP_LANDED (R238): the oldest completion of the mill's memory steps. -/
def execMemoryStepLanded (m : Fin 800) (s : State) : Host.Outcome State Fault Refusal :=
  .next (
    let s := match s.weir.landed.find? (fun l => l.req.src == .mill m) with
      | none => s
      | some l => landStep m l { s with weir := { s.weir with landed := s.weir.landed.erase l } }
    tryFinish m (tryBranch m s))

/-! ## Provisional loads (R247) -/

/-- The PTAG port number under which the home keeps a mill's provisional read. -/
def millPort (m : Nat) : Nat := 100 + m

/-- Whether the home confirms a provisional read of its lines for an agent (R136). -/
def confirms (s : State) (agent : Pair) (p : PTagUse) : Bool :=
  !p.dirtied && (ptagLines p).all (fun l => match dirFind s l with
    | none => true
    | some e => !e.busy && (match e.state with
      | .s => true
      | _ => memberIndex (lineMembers s l) agent == some e.owner))

/-- CANCEL: SRAM and the checkpoint are restored, what the speculation has met is forgotten, and the load has not landed. -/
def restoreCkpt (c : Checkpoint) (x : Mill) : Mill :=
  { x with sram := x.undo.foldl (fun m u => m.write u.1 u.2) x.sram, undo := [], ckpt := none, regs := c.regs, lc := c.lc
           flags := c.flags, soft := c.soft, pc := c.pc, ended := c.ended
           steps := x.steps.filter (fun p => p.id != c.load.id) ++ [c.load] }

/-- A CANCEL of a mill's provisional load: its data, if it has not been taken, never is. -/
def cancelLoad (m : Nat) (c : Checkpoint) (s : State) : State :=
  let its := fun (l : Landed) => l.prov && l.req.src == .mill m && l.req.tag == c.load.id
  updMill m (restoreCkpt c) { s with weir := { s.weir with landed := s.weir.landed.filter (fun l => !its l) } }

/-- MILL_PROVISIONAL_RESOLVE (R247). -/
def execMillProvisionalResolve (m : Fin 800) (s : State) : Host.Outcome State Fault Refusal :=
  .next (
    match s.net.ptags.find? (fun p => p.port == millPort m && p.answered) with
    | none => s
    | some p =>
      let s := { s with net := { s.net with ptags := s.net.ptags.filter (fun q => !(q.port == p.port && q.ptag == p.ptag)) } }
      match p.req, (millOf s m).ckpt with
      | some r, some c =>
        if p.resolved then
          -- its domain has fallen meanwhile (R144)
          tryFinish m (complete { r with provOk := false } .domainDown [] (cancelLoad m c s))
        else if !confirms s r.origin p then
          let s := cancelLoad m c s
          tryFinish m (cohPerform { r with provOk := false } r.ecc false s)
        else tryFinish m (tryBranch m (updMill m (fun x => { x with ckpt := none, undo := [] }) s))
      | _, _ => s)

/-! ## Vector steps -/

/-- NAN and INF after a vector or look-up step. -/
def Mill.setNums (x : Mill) (nan inf : Bool) : Mill := (x.setFlag fNan nan).setFlag fInf inf

/-- An MX run has a whole number of blocks (R228). -/
def mxOk (code n : Nat) : Bool := !isMx code || n % 32 == 0

def execVmov (m : Fin 800) (s : State) : Host.Outcome State Fault Refusal :=
  .next (runStep m kVmov (fun t x _ s =>
    let n := 32 * t.n
    let d := x.vaddr t.d t.doff
    if t.func == 0 then
      let a := x.vaddr t.a t.aoff
      localStep m x [(a, n)] [(d, n)] (fun x => (x.putMem (d.getD 0) (x.getMem (a.getD 0) n)).setNums false false) s
    else
      localStep m x [] [(d, n)] (fun x =>
        (x.putMem (d.getD 0) ((List.replicate (4 * t.n) (toBytes (x.reg t.b) 8)).flatMap id)).setNums false false) s) s)

def execVcvt (m : Fin 800) (s : State) : Host.Outcome State Fault Refusal :=
  .next (runStep m kVcvt (fun t x _ s =>
    let a := x.vaddr t.a t.aoff
    let d := x.vaddr t.d t.doff
    if !mxOk t.fa t.n || !mxOk t.fd t.n then .fault
    else localStep m x [(a, runBytes t.fa t.n)] [(d, runBytes t.fd t.n)] (fun x =>
      let (out, nan, inf) := writeRun t.fd t.sat (readRun t.fa t.n (x.getMem (a.getD 0) (runBytes t.fa t.n)))
      (x.putMem (d.getD 0) out).setNums nan inf) s) s)

/-- One element of a VALU in FP32, before it is rounded: FMA and SFMA are not rounded between their product and their sum. -/
def valuFloat (f : Nat) (a b d : FVal) : FVal :=
  match f with
  | 0 | 8 => a.add b
  | 1 => a.sub b
  | 2 | 9 => a.mul b
  | 3 | 10 => (a.mul b).add d
  | 4 => a.minNum b
  | 5 => a.maxNum b
  | 6 => a.abs
  | _ => a.neg

/-- What a VALU result is rounded to before it is converted to FD: FP32, in which it is computed, but FMA and SFMA round once. A finite
result beyond FP32 overflows where FD is FP16 or FP8, so that SAT can hold it (Table 09-3). -/
def valuRounded (f fd : Nat) (v : FVal) : FVal :=
  let w := fp32.round v
  if w.isInf && v.isFin then (if 2 ≤ fd && fd ≤ 4 then v else w)
  else if f == 3 || f == 10 then v else w

/-- One element of an integer VALU. -/
def valuInt (f : Nat) (a b d : Int) : Int :=
  match f with
  | 0 | 8 => a + b
  | 1 => a - b
  | 2 | 9 => a * b
  | 3 | 10 => a * b + d
  | 4 => min a b
  | 5 => max a b
  | 6 => Int.ofNat a.natAbs
  | _ => -a

/-- The elements of a VALU: integers wrap at the wider of the two formats and saturate only when they are narrowed (R230). -/
def valuRun (t : MStep) (as bs ds : List Elem) : List Elem :=
  let int := isInt t.fa && isInt t.fd
  let w := max (elemBits t.fa) (elemBits t.fd)
  (List.range t.n).map (fun i =>
    let a := nth default as i
    let b := nth default bs i
    let d := nth default ds i
    if int then .i (signed w (unsigned w (valuInt t.func a.int b.int d.int)))
    else .f (valuRounded t.func t.fd (valuFloat t.func a.val b.val d.val)))

def execValu (m : Fin 800) (s : State) : Host.Outcome State Fault Refusal :=
  .next (runStep m kValu (fun t x _ s =>
    let a := x.vaddr t.a t.aoff
    let d := x.vaddr t.d t.doff
    let scalar := 8 ≤ t.func
    let binary := !scalar && t.func != 6 && t.func != 7
    let acc := t.func == 3 || t.func == 10
    let b := x.vaddr t.b t.boff
    let na := runBytes t.fa t.n
    let nd := runBytes t.fd t.n
    let int := isInt t.fa && isInt t.fd
    if !mxOk t.fa t.n || !mxOk t.fd t.n then .fault
    else localStep m x ((a, na) :: (if binary then [(b, na)] else [])) [(d, nd)] (fun x =>
      let sv : Elem := if int then .i (signed 64 (x.reg t.b)) else .f (fp32.decode (x.reg t.b % 2 ^ 32))
      let bs := if scalar then List.replicate t.n sv
        else if binary then readRun t.fa t.n (x.getMem (b.getD 0) na) else []
      let ds := if acc then readRun t.fd t.n (x.getMem (d.getD 0) nd) else []
      let narrow : Bool := !int || decide (elemBits t.fd < elemBits t.fa)
      -- SAT holds an overflow in an FP16 or FP8 destination alone (Table 09-3); it also narrows integers and MX (R231)
      let (out, nan, inf) := writeRun t.fd (t.sat && narrow && 2 ≤ t.fd) (valuRun t (readRun t.fa t.n (x.getMem (a.getD 0) na)) bs ds)
      (x.putMem (d.getD 0) out).setNums nan inf) s) s)

/-- The rows of a VDOT as FP32 patterns. -/
def vdotRows (t : MStep) (as bs : List FVal) (old : List Nat) : List Nat :=
  (List.range (t.imm + 1)).map (fun j =>
    let ts := (((as.drop (j * t.n)).take t.n).zip bs).map (fun p => p.1.mul p.2)
    let r := anyOrder (dotBound t.fa t.n) ts
    if bit t.func 0 then f32add (nth 0 old j) r else r)

def execVdot (m : Fin 800) (s : State) : Host.Outcome State Fault Refusal :=
  .next (runStep m kVdot (fun t x _ s =>
    let rows := t.imm + 1
    let a := x.vaddr t.a t.aoff
    let b := x.vaddr t.b t.boff
    let d := x.vaddr t.d t.doff
    let na := runBytes t.fa (rows * t.n)
    let nb := runBytes t.fa t.n
    if !mxOk t.fa t.n then .fault
    else localStep m x [(a, na), (b, nb)] [(d, 4 * rows)] (fun x =>
      let ps := vdotRows t ((readRun t.fa (rows * t.n) (x.getMem (a.getD 0) na)).map Elem.val)
        ((readRun t.fa t.n (x.getMem (b.getD 0) nb)).map Elem.val) (words32 rows (x.getMem (d.getD 0) (4 * rows)))
      (x.putMem (d.getD 0) (bytes32 ps)).setNums (ps.any f32isNan) (ps.any (fun p => (fp32.decode p).isInf))) s) s)

/-- ARGMAX over the elements that are not NaN: the lowest index of the largest. -/
def argmax : List (Nat × FVal) → Option (Nat × FVal) → Option (Nat × FVal)
  | [], best => best
  | (i, v) :: t, best =>
    if v.isNan then argmax t best
    else match best with
      | none => argmax t (some (i, v))
      | some (b, w) => argmax t (if w.lt v then some (i, v) else some (b, w))

/-- A reduction's register value, and its NAN and INF (Table 09-7). -/
def vredValue (func n : Nat) (vs : List FVal) : Nat × Bool × Bool :=
  let fp := fun (p : Nat) => (p, f32isNan p, (fp32.decode p).isInf)
  match func with
  | 0 => fp (anyOrder (redBound n) vs)
  | 1 => fp (fp32.encode ((vs.drop 1).foldl FVal.maxNum (vs.headD .nan)))
  | 2 => fp (fp32.encode ((vs.drop 1).foldl FVal.minNum (vs.headD .nan)))
  | 4 => fp (anyOrder (redBound n) (vs.map (fun v => v.mul v)))
  | _ => match argmax ((List.range n).zip vs) none with
    | some (i, _) => (i, false, false)
    | none => (0, true, false)

def execVred (m : Fin 800) (s : State) : Host.Outcome State Fault Refusal :=
  .next (runStep m kVred (fun t x _ s =>
    let a := x.vaddr t.a t.aoff
    let na := runBytes t.fa t.n
    if !mxOk t.fa t.n then .fault
    else localStep m x [(a, na)] [] (fun x =>
      let (v, nan, inf) := vredValue t.func t.n ((readRun t.fa t.n (x.getMem (a.getD 0) na)).map Elem.val)
      (x.setReg t.d v).setNums nan inf) s) s)

def execVfn (m : Fin 800) (s : State) : Host.Outcome State Fault Refusal :=
  .next (runStep m kVfn (fun t x _ s =>
    let a := x.vaddr t.a t.aoff
    let d := x.vaddr t.d t.doff
    let na := runBytes t.fa t.n
    if !mxOk t.fa t.n then .fault
    else localStep m x [(a, na)] [(d, 4 * t.n)] (fun x =>
      let ps := (readRun t.fa t.n (x.getMem (a.getD 0) na)).map (fun e => vfn t.func (fp32.encode e.val))
      (x.putMem (d.getD 0) (bytes32 ps)).setNums (ps.any f32isNan) (ps.any (fun p => (fp32.decode p).isInf))) s) s)

/-! ## The look-up-accumulate unit (R240 to R243) -/

/-- Table entries of a LUBUILD, in FP32 before they are rounded to FD (Table 09-9); one that overflows stays exact, so that SAT can hold it
in FP16 (Table 09-3). -/
def lutEntries (t : MStep) (q : List FVal) (cb : List FVal) : List FVal :=
  let d := t.dSub
  (List.range t.subspaces).flatMap (fun s => (List.range 256).map (fun c =>
    let base := if bit t.func 0 then d * c else d * (256 * s + c)
    let ts := (((q.drop (d * s)).take d).zip ((cb.drop base).take d)).map (fun p => p.1.mul p.2)
    let r := fp32.decode (anyOrder (dotBound 1 d) ts)
    if r.isInf && (exactSum ts).isFin && t.fd == 2 then exactSum ts else r))

/-- R242: no table or bin run crosses 0x3_0000, and its start lies on a boundary. -/
def runPlaced (a : Option Nat) (boundary : Nat) : Bool := match a with | some x => x % boundary == 0 | none => false

def execLubuild (m : Fin 800) (s : State) : Host.Outcome State Fault Refusal :=
  .next (runStep m kLubuild (fun t x _ s =>
    let a := x.vaddr t.a t.aoff
    let b := x.vaddr t.b t.boff
    let d := x.vaddr t.d t.doff
    let na := runBytes t.fa t.n
    let ncb := 256 * t.dSub * (if bit t.func 0 then 1 else t.subspaces)
    let nd := runBytes t.fd (256 * t.subspaces)
    localStep m x [(a, na), (b, 2 * ncb)] [(d, nd)] (fun x =>
      let es := lutEntries t ((readRun t.fa t.n (x.getMem (a.getD 0) na)).map Elem.val)
        ((words16 ncb (x.getMem (b.getD 0) (2 * ncb))).map bf16.decode)
      let (out, nan, inf) := writeRun t.fd t.sat (es.map Elem.f)
      (x.putMem (d.getD 0) out).setNums nan inf) s) s)

/-- Bytes of a code row. -/
def codeRow (t : MStep) : Nat := t.subspaces * (if t.twoStage then 2 else 1)

/-- Places that a code row reaches, in order: 256·s + code, the residual tables following the primary ones. -/
def codePlaces (t : MStep) (row : Bytes) : List Nat :=
  (List.range t.subspaces).flatMap (fun s =>
    if t.twoStage then
      [256 * s + (nth 0#8 row (2 * s)).toNat, 256 * (t.subspaces + s) + (nth 0#8 row (2 * s + 1)).toNat]
    else [256 * s + (nth 0#8 row s).toNat])

def execLuscore (m : Fin 800) (s : State) : Host.Outcome State Fault Refusal :=
  .next (runStep m kLuscore (fun t x _ s =>
    let a := x.vaddr t.a t.aoff
    let b := x.vaddr t.b t.boff
    let d := x.vaddr t.d t.doff
    let na := t.n * codeRow t
    let cnt := 256 * codeRow t
    let nb := runBytes t.fa cnt
    if !runPlaced b 16384 then .fault
    else localStep m x [(a, na), (b, nb)] [(d, 4 * t.n)] (fun x =>
      let table := (readRun t.fa cnt (x.getMem (b.getD 0) nb)).map (fun e => fp32.encode e.val)
      let old := words32 t.n (x.getMem (d.getD 0) (4 * t.n))
      let rows := chop (codeRow t) t.n (x.getMem (a.getD 0) na)
      let ps := (rows.zipIdx).map (fun r =>
        let es := (codePlaces t r.1).map (nth 0 table)
        if bit t.func 0 then es.foldl f32add (nth 0 old r.2) else (es.drop 1).foldl f32add (es.headD 0))
      (x.putMem (d.getD 0) (bytes32 ps)).setNums (ps.any f32isNan) (ps.any (fun p => (fp32.decode p).isInf))) s) s)

def execLubin (m : Fin 800) (s : State) : Host.Outcome State Fault Refusal :=
  .next (runStep m kLubin (fun t x _ s =>
    let a := x.vaddr t.a t.aoff
    let b := x.vaddr t.b t.boff
    let d := x.vaddr t.d t.doff
    let na := t.n * codeRow t
    let cnt := 256 * codeRow t
    if !runPlaced d 32768 then .fault
    else localStep m x [(a, na), (b, 4 * t.n)] [(d, 4 * cnt)] (fun x =>
      let ws := words32 t.n (x.getMem (b.getD 0) (4 * t.n))
      let rows := chop (codeRow t) t.n (x.getMem (a.getD 0) na)
      let bins := (rows.zip ws).foldl (fun (bins : List Nat) r =>
        (codePlaces t r.1).foldl (fun bins p => setNth bins p (f32add (nth 0 bins p) r.2)) bins) (words32 cnt (x.getMem (d.getD 0) (4 * cnt)))
      (x.putMem (d.getD 0) (bytes32 bins)).setNums (bins.any f32isNan) (bins.any (fun p => (fp32.decode p).isInf))) s) s)

/-! ## The candidate queue (R244) -/

/-- Order of candidates: ascending key, ties by ascending id. -/
def cqLess (a b : Nat × Nat) : Bool := f32lt a.1 b.1 || (!f32lt b.1 a.1 && a.2 < b.2)

def cqPut (e : Nat × Nat) (l : List (Nat × Nat)) : List (Nat × Nat) :=
  l.takeWhile (fun y => cqLess y e) ++ [e] ++ l.dropWhile (fun y => cqLess y e)

/-- One candidate taken (R244): the queue and whether it was admitted. -/
def cqTake (limit : Nat) (l : List (Nat × Nat)) (e : Nat × Nat) : List (Nat × Nat) × Bool :=
  if f32isNan e.1 then (l, false)
  else match l.find? (fun y => y.2 == e.2) with
    | some y => if f32lt e.1 y.1 then (cqPut e (l.filter (fun z => z.2 != e.2)), true) else (l, false)
    | none =>
      if l.length < limit then (cqPut e l, true)
      else match l.getLast? with
        | some w => if cqLess e w then (cqPut e l.dropLast, true) else (l, false)
        | none => (l, false)

def cqTakeAll (limit : Nat) (es l : List (Nat × Nat)) : List (Nat × Nat) × Bool :=
  es.foldl (fun st e => let r := cqTake limit st.1 e; (r.1, st.2 || r.2)) (l, false)

def execCqins (m : Fin 800) (s : State) : Host.Outcome State Fault Refusal :=
  .next (runStep m kCqins (fun t x _ s =>
    let a := x.vaddr t.a t.aoff
    let b := x.vaddr t.b t.boff
    localStep m x [(a, 4 * t.n), (b, 4 * t.n)] [] (fun x =>
      let es := (words32 t.n (x.getMem (a.getD 0) (4 * t.n))).zip (words32 t.n (x.getMem (b.getD 0) (4 * t.n)))
      let r := cqTakeAll x.cqLimit es x.cq
      { x with cq := r.1 }.setFlag fCqImproved r.2) s) s)

def execCqpop (m : Fin 800) (s : State) : Host.Outcome State Fault Refusal :=
  .next (runStep m kCqpop (fun t _ _ s =>
    .done (updMill m (fun x => match x.cq with
      | [] => x
      | (k, i) :: rest => { ((x.setReg t.d i).setReg t.a k) with cq := rest }) s)) s)

def execCqout (m : Fin 800) (s : State) : Host.Outcome State Fault Refusal :=
  .next (runStep m kCqout (fun t x _ s =>
    let d := x.vaddr t.d t.doff
    let es := x.cq.take t.n
    localStep m x [] [(d, 8 * es.length)] (fun x =>
      (x.putMem (d.getD 0) (es.flatMap (fun e => toBytes e.1 4 ++ toBytes e.2 4))).setReg t.a es.length) s) s)

def execCqclr (m : Fin 800) (s : State) : Host.Outcome State Fault Refusal :=
  .next (runStep m kCqclr (fun t _ _ s => .done (updMill m (fun x => { x with cq := [], cqLimit := t.imm + 1 }) s)) s)

end Sys2Proof.Machine
end

