-- ==== Sys2Proof/Machine/Attention.lean ====
section
/-!
DEFINITION. ATTENTION rills (chapter 11): the operands of a descriptor read where they are, sequences and KV pages, book sets,
ATTEND and its spans, ADMIT, APPEND, RETIRE and BUILD_BOOKS.
-/
namespace Sys2Proof.Machine

open Sys2Proof

/-! ## Operands on other nodes

An operation reads operands at hand directly (log entry 20). Ranges that lie on other nodes, that wait for their page or whose lines a
cache may hold are first read by LOADs, and the operation begins with the command that finds them all here. -/

/-- Bytes of a range from pieces of memory that have been read. -/
def gotBytes (got : List (Nat × Bytes)) (va len : Nat) : Bytes :=
  (List.range len).map (fun i => match got.find? (fun g => g.1 ≤ va + i && va + i < g.1 + g.2.length) with
    | some g => nth 0#8 g.2 (va + i - g.1)
    | none => 0#8)

/-- A read of an operand of a descriptor: what its LOADs brought, or else the range itself; a piece that came as bad data fails it (R293). -/
def jread (s : State) (j : Job) (va len : Nat) : VGot :=
  if atHand s j.ctx va len || !(j.want.any (fun w => w.1 < va + len && va < w.1 + w.2)) then vread s j.party j.ctx va len
  else match j.lost.find? (fun x => x.1 < va + len && va < x.1 + x.2.1) with
    | some x => .fail x.2.2 (x.1 - va)
    | none =>
      .ok (gotBytes (((j.chunk stageChunk).map (·.got)).getD []) va len)

/-- The checks of a range that a descriptor reads, past those of R293: here, and what its LOADs met elsewhere. -/
def jcheck (s : State) (j : Job) (va len : Nat) : Option (Status × Nat) :=
  match vcheckHere s j.party j.ctx va len .load with
  | some bad => some bad
  | none => (j.lost.find? (fun x => x.1 < va + len && va < x.1 + x.2.1 && x.2.2 != .poison && x.2.2 != .uncorrectable)).map
      (fun x => (x.2.2, x.1 - va))

/-- LOADs of the ranges that are not at hand, while the rill's limit allows (R192). -/
def stagePump (rill index : Nat) : Nat → State → State
  | 0, s => s
  | n + 1, s =>
    match findJob s rill index with
    | none => s
    | some j =>
      match j.stage with
      | [] => s
      | q :: t =>
        if 4096 ≤ rillOutstanding s rill || j.err.isSome then s
        else
          let s := updJob rill index (fun j => { (j.updChunk stageChunk (fun c => { c with reads := c.reads + 1 })) with stage := t }) s
          stagePump rill index n (issueIn j.asid j.ctx { op := .load, va := q.1, len := q.2, party := j.party
                                                         origin := selfPair s j.party, src := .rill rill index stageChunk
                                                         tclass := .mill } s)

/-- An operation that goes on once its operand ranges are here. -/
def withOperands (rill index : Nat) (ranges : List (Nat × Nat)) (k : Job → State → State) (s : State) : State :=
  match findJob s rill index with
  | none => s
  | some j =>
    let missing := ranges.filter (fun r => !atHand s j.ctx r.1 r.2 && !j.want.contains r)
    let fresh := ranges.filter (fun r => atHand s j.ctx r.1 r.2 && !j.seen.contains r)
    let direct := fun (s : State) => updJob rill index (fun j => { j with seen := j.seen ++ fresh })
      (fresh.foldl (fun s r => countVirtual j.party j.ctx r.1 r.2 s) s)
    let s := stagePump rill index 4096 (updJob rill index (fun j =>
      { j with want := j.want ++ missing, stage := j.stage ++ missing.flatMap cut4k }) s)
    match findJob s rill index with
    | none => s
    | some j =>
      let c := (j.chunk stageChunk).getD { num := stageChunk }
      if c.reads != c.readsDone then s
      else match j.err with
        | some (_, st, d) => finishJob j st d false s
        | none => if !j.stage.isEmpty || 4096 ≤ rillOutstanding s rill then s else k j (direct s)

/-- A descriptor refused at one of its operands. -/
def refuseOp (j : Job) (st : Status) (operand offset : Nat) (s : State) : State :=
  finishJob j st (faultDetail st operand offset) false s

/-- The counter check of R191 begun, or nothing where the descriptor has no counter. -/
def beginCounter (j : Job) (va : Nat) (s : State) : State :=
  let s := updJob j.rill j.index (fun j => { j with begun := true, counterOk := va == 0 }) s
  if va == 0 then s else issueCounter j va 0 plainAdd s

/-! ## Parameters (Table 11-1) -/

structure AttnParam where
  layers  : Nat
  kv      : Nat
  group   : Nat
  dim     : Nat
  fp32    : Bool
  seqs    : Nat
  scale   : Nat
  seqBase : Nat
  sets    : List Nat
  deriving DecidableEq, Repr

def attnParam (ws : List Nat) : AttnParam :=
  let w := nth 0 ws 0
  { layers := bits w 56 8 + 1, kv := bits w 52 4 + 1, group := 2 ^ bits w 50 2, dim := if bit w 49 then 128 else 64
    fp32 := bit w 48, seqs := bits w 36 10 + 1, scale := bits w 0 32, seqBase := nth 0 ws 1, sets := (ws.drop 2).take 4 }

/-- R277: a parameter block within Table 11-1. Set RSVD bits of it are values outside the table: R14 leaves that to the chapter, which does
not say (DESIGN CHOICE, log entry 68). -/
def attnParamOk (ws : List Nat) : Bool :=
  let w := nth 0 ws 0
  let v := fp32.decode (bits w 0 32)
  bits w 46 2 == 0 && bits w 32 4 == 0 && v.isFin && !v.isZero && !v.isNeg && nth 0 ws 1 % 4096 == 0
    && ((ws.drop 2).take 4).all (fun b => b % 64 == 0) && nth 0 ws 6 == 0 && nth 0 ws 7 == 0

def paramOf (s : State) (rill : Nat) : AttnParam := attnParam (rillOf s rill).params

/-- Subspaces S and the bytes of a segment, a layer slice and a token row. -/
def AttnParam.sub (p : AttnParam) : Nat := p.dim / 4
def AttnParam.segment (p : AttnParam) : Nat := 512 * p.sub
def AttnParam.slice (p : AttnParam) : Nat := p.kv * p.segment
def AttnParam.heads (p : AttnParam) : Nat := p.kv * p.group
def AttnParam.query (p : AttnParam) : Nat := p.heads * p.dim * 2
def AttnParam.row (p : AttnParam) : Nat := 4 * p.kv * p.dim

/-! ## Sequences (Table 11-2) -/

structure SeqRec where
  state  : Nat
  set    : Nat
  cap    : Nat
  pages  : Nat
  list   : Nat
  deriving DecidableEq, Repr, Inhabited

def SeqRec.active (r : SeqRec) : Bool := r.state == 1

def seqRecOf (ws : List Nat) : SeqRec :=
  let w := nth 0 ws 0
  { state := bits w 62 2, set := bits w 60 2, cap := bits w 48 12 + 1, pages := bits w 0 13, list := nth 0 ws 1 }

/-- A sequence record as it was read. -/
def seqOf : VGot → Except Status SeqRec
  | .ok d => .ok (seqRecOf (words64 8 d))
  | .fail st _ => .error st

/-- Where a sequence record lies, and its length. -/
def seqAt (p : AttnParam) (seq : Nat) : Nat × Nat := (p.seqBase + 64 * seq, 64)

/-- A sequence record read for a descriptor. -/
def readSeq (s : State) (j : Job) (p : AttnParam) (seq : Nat) : Except Status SeqRec := seqOf (jread s j (seqAt p seq).1 64)

/-- What keeps the bytes [off, off + len) of a page of a sequence from R279, if anything does. -/
def kvPageBad (s : State) (party : Nat) (ctx : Option Ctx) (page off len : Nat) : Option Status :=
  if page % 65536 != 0 then some .faultPermission
  else match piecesBad s ctx (page + off) len (fun q => q.cls == .priv && q.coding == .plain && addrNode q.addr == s.node) with
    | some (st, _) => some st
    | none => match vcheck s party ctx (page + off) len .load with
      | some (st, _) => some st
      | none => (vcheck s party ctx (page + off) len .store).map (·.1)

/-- ACTIVE sequences counted over all attention rills, and of one party; ADMITs under way count (R278). -/
def activeSeqs (s : State) (party : Option Nat) : Nat :=
  let mine := fun (rill : Nat) => match party with | none => true | some p => rillParty s rill == p
  ((s.rill.table.filter (fun e => e.2.kind == 2 && mine e.1)).map (fun e => e.2.seqs)).sum
  + (s.rill.jobs.filter (fun j => j.kind == 2 && j.op == 2 && j.begun && mine j.rill)).length

/-- R278: whether n more ACTIVE sequences of a party keep the node's limit and its quota. -/
def quotaOk (s : State) (party n : Nat) : Bool :=
  let q := (partyRec s party).seqQuota
  activeSeqs s none + n ≤ 1024 && (q == 0xFFFF || activeSeqs s (some party) + n ≤ q)

/-! ## Books (R281) -/

/-- Entry k of a set table: the slot, or the status of the failed check. -/
def bookAt (s : State) (j : Job) (base k : Nat) : Except Status Nat :=
  match jread s j (base + 4 * k) 4 with
  | .fail st _ => .error st
  | .ok d =>
    let e := ofBytes d
    let slot := bits e 0 12
    let x := slotOf s slot
    if !slotUsable s j.party slot then .error .refusedIsolation
    else if x.dCode != 1 || x.two then .error .faultPermission
    else if !slotMatches s slot (bits e 16 16) j.born then .error .faultUnmapped
    else .ok slot

/-- The slots of entries of a set, or the first failing entry and its status. -/
def booksAt (s : State) (j : Job) (base : Nat) : List Nat → List Nat → Except (Nat × Status) (List Nat)
  | [], acc => .ok acc
  | k :: t, acc => match bookAt s j base k with
    | .ok slot => booksAt s j base t (acc ++ [slot])
    | .error st => .error (k, st)

/-- References on books taken for a descriptor (R261). -/
def holdBooks (rill index : Nat) (ks : List Nat) (s : State) : State :=
  let ks := ks.eraseDups
  ks.foldl (fun s k => addRef k s) (updJob rill index (fun j => { j with slots := j.slots ++ ks }) s)

/-! ## ATTEND: the checks (R284) -/

structure AttendOps where
  query  : Nat
  list   : Nat
  out    : Nat
  layer  : Nat
  n      : Nat
  partner : Bool
  lse    : Bool
  note   : Nat
  deriving DecidableEq, Repr

def attendOps (j : Job) : AttendOps :=
  let w := j.word 5
  { query := j.word 2, list := j.word 3, out := j.word 4, layer := bits w 56 8, n := bits w 46 10 + 1, partner := bit w 45
    lse := bit w 44, note := j.word 6 }

/-- B: the bytes of an output block (Table 11-5). -/
def outBlock (p : AttnParam) (o : AttendOps) : Nat :=
  (p.query + (if o.lse then 4 * p.heads else 0) + 63) / 64 * 64

/-- The results of a check of each item in order, or the index of the first failure and its status. -/
def firstBad {α β : Type} (f : α → Except Status β) : Nat → List α → List β → Except (Nat × Status) (List β)
  | _, [], acc => .ok acc
  | i, x :: t, acc => match f x with
    | .ok y => firstBad f (i + 1) t (acc ++ [y])
    | .error st => .error (i, st)

/-- A listed sequence's record and page list. -/
def seqPages (s : State) (j : Job) (p : AttnParam) (seq : Nat) : Except Status (SeqRec × List Nat) :=
  if p.seqs ≤ seq then .error .faultPermission
  else match readSeq s j p seq with
    | .error st => .error st
    | .ok r =>
      if !r.active then .error .faultPermission
      else match jread s j r.list (8 * r.pages) with
        | .fail st _ => .error st
        | .ok d => .ok (r, words64 r.pages d)

/-- Where the entries of a layer's books lie in a set table, and their length. -/
def layerBooks (p : AttnParam) (set layer : Nat) : Nat × Nat := (nth 0 p.sets set + 4 * (layer * p.kv * 2), 8 * p.kv)

/-- A layer's books of a set, in entry order: the key and the value book of each KV head. -/
def seqBooks (s : State) (j : Job) (p : AttnParam) (layer : Nat) (r : SeqRec) : Except Status (List Nat) :=
  let base := nth 0 p.sets r.set
  if base == 0 then .error .faultPermission
  else match booksAt s j base (rangeFrom (layer * p.kv * 2) (2 * p.kv)) [] with
    | .ok ks => .ok ks
    | .error (_, st) => .error st

/-- The listed sequences checked in the order of R284: every record and page list, then the layer's segments in every page, then the books. -/
def attendSeqs (s : State) (j : Job) (p : AttnParam) (o : AttendOps) (listed : List Nat) : Except (Nat × Status) (List AttSeq) :=
  match firstBad (fun x => if (listed.take x.2).contains x.1 then .error .faultPermission else seqPages s j p x.1) 0 listed.zipIdx [] with
  | .error e => .error e
  | .ok rs =>
    let page := fun (r : SeqRec × List Nat) => match r.2.findSome? (fun g => kvPageBad s j.party j.ctx g (o.layer * p.slice) p.slice) with
      | some st => Except.error st
      | none => .ok ()
    match firstBad page 0 rs [], firstBad (fun r => seqBooks s j p o.layer r.1) 0 rs [] with
    | .error e, _ => .error e
    | .ok _, .error e => .error e
    | .ok _, .ok bs => .ok ((listed.zip (rs.zip bs)).map (fun x =>
        { seq := x.1, pages := x.2.1.2, keyBook := (List.range p.kv).map (fun h => nth 0 x.2.2 (2 * h))
          valBook := (List.range p.kv).map (fun h => nth 0 x.2.2 (2 * h + 1)) }))

def findAttn (s : State) (rill index : Nat) : Option AttRun :=
  s.attn.find? (fun a => a.rill == rill && a.index == index)

def updAttn (rill index : Nat) (f : AttRun → AttRun) (s : State) : State :=
  { s with attn := s.attn.map (fun a => if a.rill == rill && a.index == index then f a else a) }

def updAttSeq (rill index i : Nat) (f : AttSeq → AttSeq) (s : State) : State :=
  updAttn rill index (fun a => { a with seqs := match a.seqs[i]? with | some q => setNth a.seqs i (f q) | none => a.seqs }) s

/-- What keeps OUT of an ATTEND from R285: it lies in a PRIVATE range of the party on this node, unless it goes to the partner. -/
def outBad (s : State) (j : Job) (p : AttnParam) (o : AttendOps) : Option (Status × Nat) :=
  if o.partner then none
  else match piecesBad s j.ctx o.out (o.n * outBlock p o) (fun q => q.cls == .priv && addrNode q.addr == s.node) with
    | some bad => some bad
    | none => vcheck s j.party j.ctx o.out (o.n * outBlock p o) .store

/-- The checks of an ATTEND past its word 5: QUERY, SEQ_LIST, OUT and NOTE, then its sequences (R284). -/
def attendStart (j : Job) (s : State) : State :=
  let p := paramOf s j.rill
  let o := attendOps j
  if p.layers ≤ o.layer || p.seqs < o.n || (o.partner && j.party < 2) then refuseOp j .faultPermission 3 0 s
  else match jcheck s j o.query (o.n * p.query), jread s j o.list (2 * o.n), outBad s j p o,
      (if o.partner || o.note == 0 then none else vcheckHere s j.party j.ctx o.note 8 .atomic) with
    | some (st, off), _, _, _ => refuseOp j st 0 off s
    | none, .fail st off, _, _ => refuseOp j st 1 off s
    | none, .ok _, some (st, off), _ => refuseOp j st 2 off s
    | none, .ok _, none, some (st, off) => refuseOp j st 4 off s
    | none, .ok d, none, none =>
      match attendSeqs s j p o (words16 o.n d) with
      | .error (i, st) => finishJob j st (operandDetail 1 (2 * i)) false s
      | .ok qs =>
        let s := { s with attn := s.attn ++ [{ rill := j.rill, index := j.index, layer := o.layer, seqs := qs }] }
        let s := holdBooks j.rill j.index (qs.flatMap (fun q => q.keyBook ++ q.valBook)) s
        beginCounter j (if o.partner then 0 else o.note) s

/-- The sequences that an ATTEND lists, and their records where they can be read. -/
def listedSeqs (s : State) (j : Job) : List Nat :=
  let o := attendOps j
  match jread s j o.list (2 * o.n) with
  | .ok d => (words16 o.n d).filter (fun q => q < (paramOf s j.rill).seqs)
  | .fail _ _ => []

def listedRecs (s : State) (j : Job) (qs : List Nat) : List SeqRec :=
  qs.filterMap (fun q => match readSeq s j (paramOf s j.rill) q with
    | .ok r => if r.active then some r else none
    | .error _ => none)

/-- An ATTEND begun once its operands, the records of its sequences, their page lists and the entries of their books are here (R284). -/
def attendBegin (rill index : Nat) (s : State) : State :=
  let p := paramOf s rill
  match findJob s rill index with
  | none => s
  | some j =>
    let o := attendOps j
    let queries := (List.range o.n).map (fun i => (o.query + i * p.query, p.query))
    withOperands rill index (queries ++ [(o.list, 2 * o.n)]) (fun j s =>
      withOperands rill index ((listedSeqs s j).map (seqAt p)).eraseDups (fun j s =>
        withOperands rill index ((listedRecs s j (listedSeqs s j)).flatMap (fun r =>
          [(r.list, 8 * r.pages), layerBooks p r.set o.layer])).eraseDups attendStart s) s) s

/-! ## A span (R291) -/

structure Soft where
  m    : Nat := 0xFF800000
  l    : Nat := 0
  bins : List Nat
  bad  : Bool := false

/-- FP32 +∞ and −∞. -/
def f32Inf : Nat := 0x7F800000
def f32NegInf : Nat := 0xFF800000
def f32Nan : Nat := 0x7FC00000

/-- One segment of the online softmax: its 256 scores and value code rows. -/
def softSegment (sub : Nat) (scores : List Nat) (vals : List Bytes) (x : Soft) : Soft :=
  if scores.any (fun v => f32isNan v || v == f32Inf) then { x with bad := true }
  else
    let fin := scores.filter (fun v => v != f32NegInf)
    let x := match fin with
      | [] => x
      | v :: t =>
        let mx := t.foldl (fun a b => if f32lt a b then b else a) v
        if x.m == f32NegInf then { x with m := mx }
        else if f32lt (f32add x.m 0x41800000) mx then
          let c := f32exp (f32sub x.m mx)
          { x with bins := x.bins.map (fun b => f32mul b c), l := f32mul x.l c, m := mx }
        else x
    let ws := scores.map (fun v => if v == f32NegInf then 0 else f32exp (f32sub v x.m))
    let bins := (vals.zip ws).foldl (fun (bins : List Nat) r =>
      (List.range sub).foldl (fun bins k =>
        let q := 256 * k + (nth 0#8 r.1 k).toNat
        setNth bins q (f32add (nth 0 bins q) r.2)) bins) x.bins
    { x with l := ws.foldl f32add x.l, bins }

/-- The score table of a query head: S tables of 256 entries with the shared key book, in FP16 or FP32 (R291 step 2). -/
def scoreTable (fp32t : Bool) (sub : Nat) (q : List FVal) (book : List Nat) : List Nat :=
  (List.range sub).flatMap (fun k => (List.range 256).map (fun c =>
    let e := fp32.decode (anyOrder (dotBound 0 4) ((((q.drop (4 * k)).take 4).zip (bookVec book 4 c)).map (fun p => p.1.mul p.2)))
    if fp32t then fp32.encode e else fp32.encode (fp16.decode (fp16.encode e))))

/-- The scores of a segment's key rows. -/
def segScores (sub : Nat) (table : List Nat) (rows : List Bytes) : List Nat :=
  rows.map (fun row =>
    let es := (List.range sub).map (fun k => nth 0 table (256 * k + (nth 0#8 row k).toNat))
    (es.drop 1).foldl f32add (es.headD 0))

/-- Step 4: the bins multiplied by the value book. -/
def collapse (sub : Nat) (bins : List Nat) (book : List Nat) : List Nat :=
  (List.range (4 * sub)).map (fun i =>
    anyOrder (dotBound 0 256) ((List.range 256).map (fun c =>
      (fp32.decode (nth 0 bins (256 * (i / 4) + c))).mul (bf16.decode (nth 0 book (4 * c + i % 4))))))

/-- One query head over a span's segments (keys and values); a head with a NaN or a +∞ score has m NaN (R295). -/
def spanHead (p : AttnParam) (q : List Nat) (kb vb : List Nat) (segs : List Bytes) (head span : Nat) : SpanPart :=
  let sub := p.sub
  let qs := q.map (fun x => fp32.round ((bf16.decode x).mul (fp32.decode p.scale)))
  let nan := q.any (fun x => (bf16.decode x).isNan) || kb.any (fun x => (bf16.decode x).isNan)
    || vb.any (fun x => (bf16.decode x).isNan)
  let table := scoreTable p.fp32 sub qs kb
  let x := segs.foldl (fun (x : Soft) g =>
    if x.bad then x else softSegment sub (segScores sub table (chop sub 256 g)) (chop sub 256 (g.drop (256 * sub))) x)
    { bins := List.replicate (256 * sub) 0 }
  if nan || x.bad then { head, span, m := f32Nan, l := 0, o := [] }
  else { head, span, m := x.m, l := x.l, o := collapse sub x.bins vb }

/-! ## Merging and delivery (R285, R292, R293) -/

/-- OUT elements and LSE of one query head from its spans, in the order they completed. -/
def mergeHead (dim : Nat) (ps : List SpanPart) : List Nat × Nat :=
  if ps.any (fun q => f32isNan q.m) then (List.replicate dim 0x7FC0, f32Nan)
  else
    let m := ps.foldl (fun a q => if f32lt a q.m then q.m else a) f32NegInf
    if m == f32NegInf then (List.replicate dim 0, f32NegInf)
    else
      let live := ps.filter (fun q => q.m != f32NegInf)
      let (l, o) := match live with
        | [q] => (q.l, q.o)
        | _ =>
          let ws : List Nat := live.map (fun (q : SpanPart) => f32exp (f32sub q.m m))
          ((live.zip ws).foldl (fun (a : Nat) (q : SpanPart × Nat) => f32add a (f32mul q.1.l q.2)) 0,
           (List.range dim).map (fun (i : Nat) => (live.zip ws).foldl (fun (a : Nat) (q : SpanPart × Nat) => f32add a (f32mul (nth 0 q.1.o i) q.2)) 0))
      (o.map (fun x => bf16.encode ((fp32.decode x).div (fp32.decode l))), f32add m (f32ln l))

/-- A sequence's output block (Table 11-5), or the error block of R293. -/
def outBytes (p : AttnParam) (o : AttendOps) (q : AttSeq) : Bytes :=
  let res := (List.range p.heads).map (fun h =>
    if q.status != .ok then (List.replicate p.dim 0x7FC0, f32Nan)
    else mergeHead p.dim (q.parts.filter (fun x => x.head == h)))
  res.flatMap (fun r => bytes16 r.1) ++ (if o.lse then bytes32 (res.map (·.2)) else [])

/-- Spans of at most 64 pages of a unit. -/
def spanCount (q : AttSeq) : Nat := (q.pages.length + 63) / 64

/-- Whether every span of every head of a sequence has completed. -/
def seqComputed (p : AttnParam) (q : AttSeq) : Bool := p.heads * spanCount q ≤ q.parts.length

/-- Bytes written to a virtual range by STOREs of a descriptor, counted in one of its chunks. -/
def jobStores (j : Job) (chunk va : Nat) (d : Bytes) (s : State) : State :=
  let rs := cut4k (va, d.length)
  let s := updJob j.rill j.index (fun j => j.updChunk chunk (fun c => { c with issued := c.issued + rs.length })) s
  rs.foldl (fun s q => issueIn j.asid j.ctx { op := .store, va := q.1, len := q.2, data := (d.drop (q.1 - va)).take q.2, party := j.party
                                              origin := selfPair s j.party, src := .rill j.rill j.index chunk, tclass := .mill } s) s

/-- Bytes sent to the owning party's partner at its own addresses (R222), counted in chunk i; nothing where it has no port. -/
def partnerSends (j : Job) (i va : Nat) (opf : W64) (d : Bytes) (s : State) : State :=
  match partnerPort s j.party with
  | none => s
  | some port =>
    let mk := fun (va : Nat) (d : Bytes) => ({ op := .store, addr := va, va, len := d.length, data := d, party := j.party
                                               origin := selfPair s j.party, src := .rill j.rill j.index i, tclass := .mill, opf } : Req)
    let (n, s) := partnerStores port mk (d.length + 1) va d 0 s
    updJob j.rill j.index (fun j => j.updChunk i (fun c => { c with issued := c.issued + n })) s

/-- A computed sequence delivered to node memory or to the partner, once the rill's limit has room for its STOREs (R192). -/
def deliverSeq (j : Job) (i : Nat) (q : AttSeq) (s : State) : State :=
  let o := attendOps j
  let p := paramOf s j.rill
  let d := outBytes p o q
  if 4096 < rillOutstanding s j.rill + d.length / 4096 + 2 then s
  else
    let va := o.out + i * outBlock p o
    let s := updAttSeq j.rill j.index i (fun q => { q with complete := true }) s
    if o.partner then partnerSends j i va 0#64 d s else jobStores j i va d s

/-- A sequence whose output has landed: NOTE advances by its block, or its done word goes to the partner (R285). -/
def noteSeq (j : Job) (i : Nat) (s : State) : State :=
  let o := attendOps j
  let sent := updAttSeq j.rill j.index i (fun q => { q with sent := true })
  if o.note == 0 then sent s
  else if 4096 ≤ rillOutstanding s j.rill || !mayCall s engineKey then s
  else if o.partner then
    partnerSends j i (o.note + 8 * i) sealPool (toBytes (at' (j.userTag % 2 ^ 32) 32 + (i + 1)) 8) (sent s)
  else issueCounter j o.note (outBlock (paramOf s j.rill) o) sealAdd (sent s)

/-- The status of an ATTEND whose sequences are all complete (R293). -/
def attendStatus (qs : List AttSeq) : Option (Nat × Status) :=
  ((qs.zipIdx).find? (fun q => q.1.status != .ok)).map (fun q => (q.2, q.1.status))

/-- Computed sequences delivered, arrivals told, and the descriptor ended with the last one. -/
def attendPump (rill index : Nat) (s : State) : State :=
  match findJob s rill index, findAttn s rill index with
  | some j, some a =>
    if j.cut || j.withdrawn then s
    else if j.err.isSome then (if j.outstanding == 0 then endJob j s else s)
    else if !j.counterOk then s
    else
      let p := paramOf s rill
      let s := (a.seqs.zipIdx).foldl (fun s q =>
        if !q.1.complete && seqComputed p q.1 then deliverSeq j q.2 q.1 s else s) s
      let landed := fun (s : State) (i : Nat) => match (findJob s rill index).bind (fun j => j.chunk i) with
        | some c => c.issued == c.landed
        | none => true
      let s := (((findAttn s rill index).map (·.seqs)).getD []).zipIdx.foldl (fun s q =>
        if q.1.complete && !q.1.sent && landed s q.2 then noteSeq j q.2 s else s) s
      match findJob s rill index, findAttn s rill index with
      | some j, some a =>
        if a.seqs.all (fun q => q.complete && q.sent) && j.outstanding == 0 then
          match j.err, attendStatus a.seqs with
          | none, some (i, st) => finishJob j st (operandDetail 1 (2 * i)) false s
          | _, _ => endJob j s
        else s
      | _, _ => s
  | _, _ => s

/-- ATTEND (R284): the checks, and further deliveries while it runs. -/
def attend (rill index : Nat) (s : State) : State :=
  let s := settle rill (absorb s)
  match findJob s rill index with
  | none => s
  | some j =>
    if j.kind != 2 || j.op != 1 || j.cut || j.withdrawn then s
    else if j.begun then attendPump rill index s
    else
      attendPump rill index (attendBegin rill index s)

def execAttend (rill index : Nat) (s : State) : Host.Outcome State Fault Refusal := .next (attend rill index s)

/-- POISON before UNCORRECTABLE (R293). -/
def worseData (a b : Status) : Status := if a == .ok then b else if b == .poison then .poison else a

/-- The pages of a span: 64 of them, the last span fewer (R292). -/
def spanPages (q : AttSeq) (span : Nat) : List Nat := (q.pages.drop (64 * span)).take 64

/-- The partials of a span of a unit: one for each query head of the KV head. -/
def spanParts (j : Job) (a : AttRun) (i h span : Nat) (q : AttSeq) (s : State) : Status × List SpanPart :=
  let p := paramOf s j.rill
  let o := attendOps j
  let segs := (spanPages q span).map (fun g => vread s j.party j.ctx (g + a.layer * p.slice + h * p.segment) p.segment)
  let qv := jread s j (o.query + i * p.query) p.query
  let st := (qv :: segs).foldl (fun st v => match v with | .ok _ => st | .fail x _ => worseData st x) Status.ok
  let bytes := segs.map (fun v => match v with | .ok d => d | .fail _ _ => [])
  let qd := match qv with | .ok d => words16 (p.heads * p.dim) d | .fail _ _ => []
  let kb := (slotOf s (nth 0 q.keyBook h)).book
  let vb := (slotOf s (nth 0 q.valBook h)).book
  (st, (List.range p.group).map (fun g =>
    let head := h * p.group + g
    if st != .ok then { head, span, m := f32Nan, l := 0, o := [] }
    else spanHead p ((qd.drop (head * p.dim)).take p.dim) kb vb bytes head span))

/-- The race that holds the frames of a KV page's byte (R290). -/
def pageRace (s : State) (j : Job) (va : Nat) : Nat :=
  ((vpiece s j.ctx va).map (fun q => homeRace s (addrOffset q.addr))).getD 0

/-- UNIT_SPAN_COMPLETE (R292): a span of the unit of sequence `seq` (its place in SEQ_LIST) and KV head `head`, done by a team of mills of the
race that holds the unit's segment of page 0 (R290), with the head's books resident there (R273). -/
def execUnitSpanComplete (rill index seq head span : Nat) (s : State) : Host.Outcome State Fault Refusal :=
  .next (
    let s := settle rill (absorb s)
    match findJob s rill index, findAttn s rill index with
    | some j, some a =>
      match a.seqs[seq]? with
      | none => s
      | some q =>
        let p := paramOf s rill
        if j.cut || j.withdrawn || !j.counterOk || p.kv ≤ head || spanCount q ≤ span
          || q.parts.any (fun x => x.head == head * p.group && x.span == span) then attendPump rill index s
        else
          let segs := (spanPages q span).map (fun g => (g + a.layer * p.slice + head * p.segment, p.segment))
          let race := pageRace s j (q.pages.headD 0 + a.layer * p.slice + head * p.segment)
          vAtRest false j.ctx segs (fun s =>
            match residentAll race j.party [nth 0 q.keyBook head, nth 0 q.valBook head] s with
            | none => s
            | some s => withTeam race j.party rill index (max 1 (p.group / 2)) (fun s =>
              let (st, ps) := spanParts j a seq head span q s
              let s := segs.foldl (fun s r => countVirtual j.party j.ctx r.1 r.2 s) s
              attendPump rill index (updAttSeq rill index seq (fun q =>
                { q with parts := q.parts ++ ps, status := worseData q.status st }) s)) s) s
    | _, _ => s)

/-! ## ADMIT and APPEND (R286, R287) -/

/-- SEQ, BOOK_SET, LIST_CAP and TOKENS of word 3. -/
def admitSeq (j : Job) : Nat := bits (j.word 3) 54 10
def admitSet (j : Job) : Nat := bits (j.word 3) 52 2
def admitCap (j : Job) : Nat := bits (j.word 3) 40 12 + 1
def admitTokens (j : Job) : Nat := bits (j.word 3) 0 21

def opAdmit : Nat := 2
def opAppend : Nat := 3

/-- Token rows per layer of the source, pages coded, first page of them. -/
def codeTokens (j : Job) : Nat := if j.op == opAdmit then admitTokens j else 256
def codePages (j : Job) : Nat := if j.op == opAdmit then admitTokens j / 256 else 1

/-- Every book of a set, in entry order. -/
def setEntries (p : AttnParam) : List Nat := List.range (p.layers * p.kv * 2)

/-- The source of a coding descriptor checked, its books held and its pages kept: coding begins. -/
def codeBegin (j : Job) (operand : Nat) (pages : List Nat) (set : Nat) (s : State) : State :=
  let p := paramOf s j.rill
  let base := nth 0 p.sets set
  if base == 0 then refuseOp j .faultPermission 1 0 s
  else match booksAt s j base (setEntries p) [] with
    | .error (k, st) => finishJob j st (operandDetail 1 (4 * k)) false s
    | .ok ks =>
      match pages.findSome? (fun g => kvPageBad s j.party j.ctx g 0 (p.layers * p.slice)) with
      | some st => refuseOp j st operand 0 s
      | none =>
        let len := p.layers * codeTokens j * p.row
        match jcheck s j (j.word 2) len with
        | some (st, off) => refuseOp j st 0 off s
        | none =>
          let s := holdBooks j.rill j.index ks s
          let s := { s with attn := s.attn ++ [{ rill := j.rill, index := j.index, layer := 0
                                                 seqs := [{ seq := admitSeq j, pages, keyBook := ks }] }] }
          beginCounter j (j.word 6) s

def admitStart (j : Job) (s : State) : State :=
  let p := paramOf s j.rill
  let seq := admitSeq j
  let n := codePages j
  if p.seqs ≤ seq || admitTokens j == 0 || admitCap j < n || !quotaOk s j.party 1 then refuseOp j .faultPermission 1 0 s
  else match readSeq s j p seq with
    | .error st => refuseOp j st 1 0 s
    | .ok r =>
      if r.state != 0 then refuseOp j .faultPermission 1 0 s
      else match jread s j (j.word 4) (8 * n) with
        | .fail st off => refuseOp j st 2 off s
        | .ok d => codeBegin j 4 (words64 n d) (admitSet j) s

def appendStart (j : Job) (s : State) : State :=
  let p := paramOf s j.rill
  let seq := admitSeq j
  if p.seqs ≤ seq then refuseOp j .faultPermission 1 0 s
  else match readSeq s j p seq with
    | .error st => refuseOp j st 1 0 s
    | .ok r =>
      if !r.active || r.cap ≤ r.pages then refuseOp j .faultPermission 1 0 s
      else match jread s j (r.list + 8 * r.pages) 8 with
        | .fail st _ => refuseOp j st 1 0 s
        | .ok d => codeBegin j 1 [ofBytes d] r.set s

/-- The codes of a layer slice from its token rows (Table 11-3). -/
def sliceCodes (p : AttnParam) (books : List Slot) (layer : Nat) (rows : List Bytes) : Bytes :=
  (List.range p.kv).flatMap (fun h =>
    let part := fun (off : Nat) (k : Slot) => rows.flatMap (fun row =>
      (subVecs 4 p.sub ((words16 p.dim (row.drop off)).map bf16.decode)).flatMap (fun v =>
        (codesOf k v).map (fun c => BitVec.ofNat 8 c)))
    let e := (layer * p.kv + h) * 2
    part (h * p.dim * 2) (nth {} books e) ++ part ((p.kv + h) * p.dim * 2) (nth {} books (e + 1)))

/-- A layer slice that has landed is counted, and COUNTER advances by its bytes. -/
def codeCount (rill index : Nat) (s : State) (piece : Nat) : State :=
  match findJob s rill index with
  | none => s
  | some j =>
    match j.chunk piece with
    | none => s
    | some c =>
      if c.issued == 0 || c.issued != c.landed || c.failed || c.counted || j.cut || j.withdrawn then s
      else if j.word 6 != 0 && (4096 ≤ rillOutstanding s rill || !mayCall s engineKey) then s
      else
        let n := (paramOf s rill).slice
        let s := updJob rill index (fun j => { (j.updChunk piece (fun c => { c with counted := true })) with done := j.done + 1 }) s
        if j.word 6 == 0 then s else issueCounter j (j.word 6) n sealAdd s

/-- Bytes written to a rill's own table: at once on this node, an error ending the descriptor, and then `fin`; on another node by STOREs, the
descriptor ending with the command that finds them complete. -/
def putTable (j : Job) (va : Nat) (d : Bytes) (fin : Job → State → State) (s : State) : State :=
  if (vpiece s j.ctx va).all (fun q => addrNode q.addr == s.node) then
    vAtRest true j.ctx [(va, d.length)] (fun s =>
      let (bad, s) := vwrite j.party j.ctx va d s
      match bad with
      | some (st, off) => refuseOp j st 1 off s
      | none => fin j s) s
  else if 4096 ≤ rillOutstanding s j.rill + d.length / 4096 + 1 then s
  else jobStores j outChunk va d (updJob j.rill j.index (fun x => { x with begun := true, detail := j.detail }) s)

/-- An ADMIT or APPEND whose record is written ends with the pages it reports; an ADMIT's sequence counts (R278). -/
def codeFinish (j : Job) (s : State) : State :=
  finishJob j .ok j.detail false (if j.op == opAdmit then updRill j.rill (fun e => { e with seqs := e.seqs + 1 }) s else s)

/-- The record of an ADMIT or APPEND written. -/
def codeRecord (j : Job) (q : AttSeq) (s : State) : State :=
  let va := (seqAt (paramOf s j.rill) q.seq).1
  if j.op == opAdmit then
    putTable { j with detail := q.pages.length } va
      (bytes64 [at' 1 62 + at' (admitSet j) 60 + at' (admitCap j - 1) 48 + q.pages.length, j.word 4, j.word 5]) codeFinish s
  else match jread s j va 8 with
    | .fail st _ => refuseOp j st 1 0 s
    | .ok d =>
      let w0 := ofBytes d
      let n := bits w0 0 13 + 1
      putTable { j with detail := n } va (toBytes (w0 - bits w0 0 13 + n) 8) codeFinish s

/-- The record written and the descriptor ended, once every layer slice has landed and is counted. -/
def codeEnd (rill index : Nat) (s : State) : State :=
  match findJob s rill index, findAttn s rill index with
  | some j, some a =>
    let s := (j.chunks.map (·.num)).foldl (fun s n => if n < counterChunk then codeCount rill index s n else s) s
    match findJob s rill index with
    | none => s
    | some j =>
      let p := paramOf s rill
      let q := a.seqs.headD default
      if j.cut || j.withdrawn || !j.counterOk || j.outstanding != 0 then s
      else if j.err.isSome then endJob j s
      else if j.done < q.pages.length * p.layers then s
      else if (j.chunk outChunk).isSome then codeFinish j s
      else codeRecord j q s
  | _, _ => s

/-- Layer slice `piece` (page · LAYERS + layer) coded by a mill of the race that holds it (R287), with the layer's books resident there (R273),
and its STOREs issued. Bad source data leaves the page indeterminate (R293). -/
def codePiece (rill index piece : Nat) (s : State) : State :=
  match findJob s rill index, findAttn s rill index with
  | some j, some a =>
    let p := paramOf s rill
    let q := a.seqs.headD default
    let page := piece / p.layers
    let layer := piece % p.layers
    if j.cut || j.withdrawn || !j.counterOk || j.err.isSome || q.pages.length ≤ page || (j.chunk piece).isSome
        || 4096 < rillOutstanding s rill + p.slice / 4096 + 2 then s
    else
      let src := j.word 2 + layer * codeTokens j * p.row + page * 256 * p.row
      let out := nth 0 q.pages page + layer * p.slice
      let race := pageRace s j out
      match residentAll race j.party ((q.keyBook.drop (layer * p.kv * 2)).take (2 * p.kv)) s with
      | none => s
      | some s => withTeam race j.party rill index 1 (fun s =>
        match jread s j src (256 * p.row) with
        | .fail st off => updJob rill index (fun j =>
            { j with err := firstErr j.err piece st (faultDetail st 0 (src + off - j.word 2)), indet := true }) s
        | .ok d => jobStores j piece out (sliceCodes p (q.keyBook.map (slotOf s)) layer (chop p.row 256 d)) s) s
  | _, _ => s

/-- ADMIT and APPEND begun once their source, the sequence's record, the entries of the page list and the set table are here. -/
def codeBegins (op rill index : Nat) (j : Job) (s : State) : State :=
  let p := paramOf s rill
  let seq := if admitSeq j < p.seqs then [seqAt p (admitSeq j)] else []
  let set := fun (k : Nat) => if nth 0 p.sets k == 0 then [] else [(nth 0 p.sets k, 4 * (setEntries p).length)]
  let src := (j.word 2, p.layers * codeTokens j * p.row)
  if op == opAdmit then
    withOperands rill index ([src, (j.word 4, 8 * codePages j)] ++ seq ++ set (admitSet j)) admitStart s
  else
    withOperands rill index (src :: seq) (fun j s =>
      withOperands rill index ((listedRecs s j [admitSeq j]).flatMap (fun r => (r.list + 8 * r.pages, 8) :: set r.set)) appendStart s) s

/-- ADMIT and APPEND: the start, and the end once every slice has landed. -/
def codeStep (op rill index : Nat) (s : State) : State :=
  let s := settle rill (absorb s)
  match findJob s rill index with
  | none => s
  | some j =>
    if j.kind != 2 || j.op != op || j.cut || j.withdrawn then s
    else if j.begun then codeEnd rill index s
    else
      codeEnd rill index (codeBegins op rill index j s)

/-- ADMIT (R286). -/
def execAttnAdmit (rill index : Nat) (s : State) : Host.Outcome State Fault Refusal := .next (codeStep opAdmit rill index s)

/-- APPEND (R287). -/
def execAppend (rill index : Nat) (s : State) : Host.Outcome State Fault Refusal := .next (codeStep opAppend rill index s)

/-! ## RETIRE (R288) -/

/-- A RETIRE whose record is written ends; its sequence counts no more (R278). -/
def retireFinish (j : Job) (s : State) : State :=
  finishJob j .ok 0 false (updRill j.rill (fun e => { e with seqs := e.seqs - 1 }) s)

/-- The record of a RETIRE's sequence looked at, and set to FREE. -/
def retireStart (j : Job) (s : State) : State :=
  let p := paramOf s j.rill
  let seq := admitSeq j
  if p.seqs ≤ seq then refuseOp j .faultPermission 1 0 s
  else match jread s j (seqAt p seq).1 8 with
    | .fail st _ => refuseOp j st 1 0 s
    | .ok d =>
      let w0 := ofBytes d
      if bits w0 62 2 != 1 then finishJob j .ok 0 false s
      else putTable j (seqAt p seq).1 (toBytes (w0 - at' 1 62) 8) retireFinish s

/-- A RETIRE whose record another node holds ends once the STORE to it is complete. -/
def retireEnd (rill index : Nat) (s : State) : State :=
  match findJob s rill index with
  | none => s
  | some j =>
    if !j.begun || j.cut || j.withdrawn || j.outstanding != 0 then s
    else if j.err.isSome then endJob j s else retireFinish j s

def retireSeq (rill index : Nat) (s : State) : State :=
  let s := settle rill (absorb s)
  match findJob s rill index with
  | none => s
  | some j =>
    let p := paramOf s rill
    if j.kind != 2 || j.op != 4 || j.cut || j.withdrawn then s
    else if j.begun then retireEnd rill index s
    else withOperands rill index (if admitSeq j < p.seqs then [seqAt p (admitSeq j)] else []) retireStart s

def execRetire (rill index : Nat) (s : State) : Host.Outcome State Fault Refusal := .next (retireSeq rill index s)

/-! ## BUILD_BOOKS (R282) -/

def opBuildBooks : Nat := 5

/-- Slots a BUILD_BOOKS of a rill needs. -/
def booksNeeded (p : AttnParam) : Nat := p.layers * p.kv * 2

/-- An ACTIVE sequence of the rill uses a book set. -/
def setInUse (s : State) (j : Job) (p : AttnParam) : Bool :=
  (List.range p.seqs).any (fun q => match readSeq s j p q with
    | .ok r => r.active && r.set == admitSet j
    | .error _ => false)

def buildBooksStart (j : Job) (s : State) : State :=
  let p := paramOf s j.rill
  let tokens := admitTokens j
  let base := nth 0 p.sets (admitSet j)
  let len := p.layers * tokens * p.row
  if base == 0 || tokens == 0 || 1048576 < tokens || setInUse s j p then refuseOp j .faultPermission 1 0 s
  else
    match jcheck s j (j.word 2) len with
    | some (st, off) => refuseOp j st 0 off s
    | none =>
      match vcheckHere s j.party j.ctx base (4 * booksNeeded p) .store with
      | some (st, off) => refuseOp j st 1 off s
      | none =>
        let free := freeSlots s j.party
        if free.length < booksNeeded p then s
        else
          let s := (free.take (booksNeeded p)).foldl (fun s k => startBuild j.rill j.index k 1 false s) s
          beginCounter j (j.word 6) s

/-- The sample elements of a book: a head's keys or values over all tokens, in token order. -/
def bookSample (s : State) (j : Job) (p : AttnParam) (entry : Nat) : Except Status (List Nat) :=
  let layer := entry / 2 / p.kv
  let h := entry / 2 % p.kv
  let tokens := admitTokens j
  match jread s j (j.word 2 + layer * tokens * p.row) (tokens * p.row) with
  | .fail st _ => .error st
  | .ok d => .ok ((chop p.row tokens d).flatMap (fun row =>
      words16 p.dim (row.drop ((if entry % 2 == 0 then h else p.kv + h) * p.dim * 2))))

/-- A BUILD_BOOKS whose set table is written ends, and the slots that the table named before, LIVE with the GEN named, enter RETIRING (R282).
COUNTER is checked and never advances, the spec giving no amount (DESIGN CHOICE, log entry 70). -/
def setTableEnd (old : List Nat) (j : Job) (s : State) : State :=
  let named := fun (s : State) (e : Nat) => (slotOf s (bits e 0 12)).state == .live && (slotOf s (bits e 0 12)).gen == bits e 16 16
  finishJob j .ok 0 false ((old.filter (fun e => !j.builds.contains (bits e 0 12))).foldl (fun s e =>
    if named s e then retireSlot (bits e 0 12) s else s) s)

/-- What the set table held before the build. -/
def oldTable (s : State) (j : Job) : List Nat :=
  let p := paramOf s j.rill
  match jread s j (nth 0 p.sets (admitSet j)) (4 * booksNeeded p) with
  | .ok d => words32 (booksNeeded p) d
  | .fail _ _ => []

/-- The set table follows once every book is LIVE. -/
def buildBooksEnd (rill index : Nat) (s : State) : State :=
  match findJob s rill index with
  | none => s
  | some j =>
    let p := paramOf s rill
    if !j.begun || j.cut || j.withdrawn || !j.counterOk || j.outstanding != 0 then s
    else if j.err.isSome then endJob j s
    else if j.done < booksNeeded p then s
    else if (j.chunk outChunk).isSome then setTableEnd (oldTable s j) j s
    else putTable j (nth 0 p.sets (admitSet j)) (bytes32 (j.builds.map (fun k => at' (slotOf s k).gen 16 + k))) (setTableEnd (oldTable s j)) s

/-- Book `entry` of the set built, by 16 mills of a race: R282 has every race build books and gives none to a book, and entry k goes to race
k mod 8 (DESIGN CHOICE, log entry 72). -/
def bookPiece (rill index entry : Nat) (s : State) : State :=
  match findJob s rill index with
  | none => s
  | some j =>
    let p := paramOf s rill
    match j.builds[entry]? with
    | none => s
    | some k =>
      if j.cut || j.withdrawn || !j.counterOk || j.err.isSome || (slotOf s k).state != .building then s
      else
        let fail := fun (st : Status) (s : State) => updJob rill index (fun j => { j with err := firstErr j.err entry st (faultDetail st 0 0) }) s
        withTeam (entry % 8) j.party rill index 16 (fun s => match bookSample s j p entry with
        | .error st => fail st s
        | .ok es => match buildBooksOf 1 false es with
          | none => fail .faultPermission s
          | some (b, _) => match endBuildSlot j.party k 1 false b [] s with
            | .error st => fail st s
            | .ok s => updJob rill index (fun j => { j with done := j.done + 1 }) s) s

/-- BUILD_BOOKS (R282). -/
def execBuildBooks (rill index : Nat) (s : State) : Host.Outcome State Fault Refusal :=
  .next (
    let s := settle rill (absorb s)
    match findJob s rill index with
    | none => s
    | some j =>
      if j.kind != 2 || j.op != opBuildBooks || j.cut || j.withdrawn then s
      else if j.begun then buildBooksEnd rill index s
      else
        let p := paramOf s rill
        let base := nth 0 p.sets (admitSet j)
        let set := if base == 0 then [] else [(base, 4 * booksNeeded p)]
        withOperands rill index ([(j.word 2, p.layers * admitTokens j * p.row), (p.seqBase, 64 * p.seqs)] ++ set) buildBooksStart s)

end Sys2Proof.Machine
end

