-- ==== Sys2Proof/Machine/Exchange.lean ====
section
/-!
DEFINITION. Exchange groups (R300 to R304): the exchange area and its slots, messages sent and posted, replies, and what every
exchange descriptor does with its pieces.
-/
namespace Sys2Proof.Machine

open Sys2Proof

/-! ## Header words (Table 12-5) -/

def hdrKind (ws : List Nat) : Nat := bits (nth 0 ws 0) 60 4
def hdrTable (ws : List Nat) : Nat := bits (nth 0 ws 0) 48 12
def hdrVpin (ws : List Nat) : Bool := bit (nth 0 ws 0) 47
def hdrWeights (ws : List Nat) : Bool := bit (nth 0 ws 0) 46
def hdrStatus (ws : List Nat) : Status := statusOf (bits (nth 0 ws 0) 32 8)
def hdrSeq (ws : List Nat) : Nat := bits (nth 0 ws 0) 0 32
def hdrVersion (ws : List Nat) : Nat := bits (nth 0 ws 1) 32 32
def hdrCount (ws : List Nat) : Nat := bits (nth 0 ws 1) 0 32
def hdrBytes2 (ws : List Nat) : Nat := bits (nth 0 ws 2) 0 32
def hdrDetail (ws : List Nat) : Nat := nth 0 ws 3

/-- A header's words: KIND, TABLE, flags (VPIN, WEIGHTS), VERSION, COUNT, body length, word 4. SEQ is set when it is sent. -/
def mkHeader (kind table : Nat) (vpin weights : Bool) (version count body word4 : Nat) : List Nat :=
  [at' kind 60 + at' table 48 + at' (b2n vpin) 47 + at' (b2n weights) 46, at' version 32 + count, 64 + body, 0, word4, 0, 0, 0]

/-- A reply's words. -/
def mkReply (st : Status) (seq version count body detail : Nat) : List Nat :=
  [at' 8 60 + at' (statusCode st) 32 + seq, at' version 32 + count, 64 + body, detail, 0, 0, 0, 0]

/-! ## Stores of a message -/

def exchStore (s : State) (party : Nat) (src : Src) (opf : W64) (a : Nat) (d : Bytes) : Req :=
  { op := .store, addr := a, va := a, len := d.length, data := d, party, origin := selfPair s party, src, tclass := .mill
    cls := .any, opf }

/-- A STORE of an exchange message issued by the engine (R165). -/
def issueMessage (r : Req) (s : State) : State :=
  let (r, s) := inEpoch r s
  issue r s

/-! ## Posting (R302, R303) -/

/-- The bytes of a message after word 0. -/
def messageRest (words : List Nat) (body : Bytes) : Bytes := bytes64 (words.drop 1) ++ body

/-- The message in a slot of this node's exchange area: its header words and its body. -/
def readMessage (s : State) (off slot : Nat) : List Nat × Bytes :=
  let ws := words64 8 (readMem s off 64)
  (ws, readMem s (off + 64) (min (hdrBytes2 ws) slot - 64))

def postReply (group owner : Nat) (ws : List Nat) (body : Bytes) (s : State) : State :=
  { s with exch := { s.exch with landed := s.exch.landed ++ [{ group, node := owner, words := ws, body }] } }

/-! ## Runs of the requester -/

def findRun (s : State) (rill index : Nat) : Option ExchRun :=
  s.exch.runs.find? (fun r => r.rill == rill && r.index == index)

def updRun (rill index : Nat) (f : ExchRun → ExchRun) (s : State) : State :=
  { s with exch := { s.exch with runs := s.exch.runs.map (fun r => if r.rill == rill && r.index == index then f r else r) } }

def updPiece (rill index k : Nat) (f : ExPiece → ExPiece) (s : State) : State :=
  updRun rill index (fun r => { r with pieces := match r.pieces[k]? with | some p => setNth r.pieces k (f p) | none => r.pieces }) s

/-- A request message under way to an owner. -/
def pairBusy (s : State) (group owner : Nat) : Bool := s.exch.waiting.any (fun w => w.1 == group && w.2.1 == owner)

/-- The next SEQ of a node pair. -/
def nextSeq (group owner : Nat) (s : State) : Nat × State :=
  let k := 1024 * group + owner
  let n := (Tbl.get 0 s.exch.seqs k + 1) % 2 ^ 32
  (n, { s with exch := { s.exch with seqs := Tbl.put s.exch.seqs k n, waiting := s.exch.waiting ++ [(group, owner, n)] } })

/-- Piece k of a run taken up: its SEQ is drawn, and a piece for the own node is handed to the serving rill without stores (R302). -/
def sendPiece (post : ExchangeGroup → Nat → List Nat → Bytes → State → State) (j : Job) (g : ExchangeGroup) (k : Nat) (p : ExPiece)
    (s : State) : State :=
  let (seq, s) := nextSeq g.group p.owner s
  let ws := (nth 0 p.words 0 - bits (nth 0 p.words 0) 0 32 + seq) :: p.words.drop 1
  let own := p.owner == s.node
  let off := if own then (messageRest ws p.body).length else 0
  let s := updPiece j.rill j.index k (fun p => { p with sent := true, seq, words := ws, headed := own, off }) s
  if own then post g s.node ws p.body s else s

/-- STOREs of piece k after word 0, while the rill's limit allows (R192, R302). -/
def bodyPiece (g : ExchangeGroup) (rill index k : Nat) : Nat → State → State
  | 0, s => s
  | n + 1, s =>
    match findJob s rill index, (findRun s rill index).bind (fun r => r.pieces[k]?) with
    | some j, some p =>
      let msg := messageRest p.words p.body
      if msg.length ≤ p.off || 4096 ≤ rillOutstanding s rill then s
      else
        let a := poolAddr p.owner 0 (inboxOff g s.node) + 8 + p.off
        let m := min (msg.length - p.off) (4096 - a % 4096)
        let s := updPiece rill index k (fun p => { p with off := p.off + m }) s
        let s := updJob rill index (fun j => j.updChunk k (fun c => { c with issued := c.issued + 1 })) s
        bodyPiece g rill index k n (issueMessage (exchStore s j.party (.rill rill index k) 0#64 a ((msg.drop p.off).take m)) s)
    | _, _ => s

/-- The header of piece k, once its body is complete (R302). -/
def sendHeader (j : Job) (g : ExchangeGroup) (k : Nat) (p : ExPiece) (s : State) : State :=
  if 4096 ≤ rillOutstanding s j.rill || !mayCall s engineKey then s
  else
    let s := updPiece j.rill j.index k (fun p => { p with headed := true }) s
    let s := updJob j.rill j.index (fun j => j.updChunk k (fun c => { c with issued := c.issued + 1 })) s
    issueMessage (exchStore s j.party (.rill j.rill j.index k) sealPool (poolAddr p.owner 0 (inboxOff g s.node))
      (toBytes (nth 0 p.words 0) 8)) s

/-- One step of piece k: taken up while no earlier message to its owner is outstanding, its STOREs, and its header once they are complete. -/
def pieceStep (post : ExchangeGroup → Nat → List Nat → Bytes → State → State) (g : ExchangeGroup) (rill index k : Nat) (s : State) : State :=
  match findJob s rill index, (findRun s rill index).bind (fun r => r.pieces[k]?) with
  | some j, some p =>
    if !p.sent && pairBusy s g.group p.owner then s
    else
      let s := bodyPiece g rill index k 4096 (if p.sent then s else sendPiece post j g k p s)
      match (findJob s rill index).bind (fun j => j.chunk k), (findRun s rill index).bind (fun r => r.pieces[k]?) with
      | some c, some p =>
        if !p.headed && (messageRest p.words p.body).length ≤ p.off && c.issued == c.landed then sendHeader j g k p s else s
      | _, _ => s
  | _, _ => s

/-- The pieces of a run in order. -/
def exchSend (post : ExchangeGroup → Nat → List Nat → Bytes → State → State) (rill index : Nat) (s : State) : State :=
  match findJob s rill index, findRun s rill index with
  | some j, some r =>
    match groupOf s r.group with
    | none => s
    | some g =>
      if j.cut || j.withdrawn || j.err.isSome then s
      else (List.range r.pieces.length).foldl (fun s k => pieceStep post g rill index k s) s
  | _, _ => s

/-- Output stores of a run issued while its rill's limit allows (R192). -/
def exchOut (rill index : Nat) : Nat → State → State
  | 0, s => s
  | n + 1, s =>
    match findJob s rill index, findRun s rill index with
    | some j, some r =>
      match r.outs with
      | [] => s
      | (va, d) :: t =>
        if 4096 ≤ rillOutstanding s rill || j.cut || j.withdrawn || j.err.isSome then s
        else
          let k := min d.length 4096
          let rest := if d.length ≤ k then t else (va + k, d.drop k) :: t
          let s := updRun rill index (fun r => { r with outs := rest }) s
          let s := updJob rill index (fun j => j.updChunk outChunk (fun c => { c with issued := c.issued + 1 })) s
          exchOut rill index n (issueIn j.asid j.ctx { op := .store, va, len := k, data := d.take k, party := j.party
                                                       origin := selfPair s j.party, src := .rill rill index outChunk, tclass := .mill } s)
    | _, _ => s

/-- A run whose result is known and whose output has landed advances its counter and ends; one whose owner is lost ends so once nothing of it
is outstanding (R204). -/
def exchEnd (rill index : Nat) (s : State) : State :=
  match findJob s rill index, findRun s rill index with
  | some j, some r =>
    if j.outstanding != 0 then s
    else match r.result with
      | some (.ownerLost, d, i) => if j.cut || j.withdrawn then endJob j s else finishJob j .ownerLost d i s
      | none => if j.cut || j.withdrawn || j.err.isSome then endJob j s else s
      | some (st, d, i) =>
        if j.cut || j.withdrawn || j.err.isSome then endJob j s
        else if !r.outs.isEmpty then s
        else if r.advance != 0 && j.word 7 != 0 then
          if 4096 ≤ rillOutstanding s rill || !mayCall s engineKey then s else
          issueCounter j (j.word 7) r.advance sealAdd (updRun rill index (fun r => { r with advance := 0 }) s)
        else finishJob j st d i s
  | _, _ => s

/-- One step of a running exchange descriptor. -/
def exchPump (post : ExchangeGroup → Nat → List Nat → Bytes → State → State) (rill index : Nat) (s : State) : State :=
  match findJob s rill index with
  | none => s
  | some j =>
    if !j.begun || !j.counterOk then exchEnd rill index s
    else exchEnd rill index (exchOut rill index 65536 (exchSend post rill index s))

/-- The run of a descriptor begun with its pieces. -/
def beginRun (j : Job) (group : Nat) (pieces : List ExPiece) (counter : Nat) (s : State) : State :=
  beginCounter j counter
    { s with exch := { s.exch with runs := s.exch.runs ++ [{ rill := j.rill, index := j.index, group, pieces }] } }

/-- The node list of UINT16s at a virtual address (SHARD_LIST), by a read of a descriptor's operands or of the serving rill's context. -/
def nodeList (rd : Nat → Nat → VGot) (va n : Nat) : Except Status (List Nat) :=
  match rd va (2 * n) with
  | .ok d => .ok (words16 n d)
  | .fail st _ => .error st

/-! ## The owner's side -/

/-- The serving rill of a group and its state here (R303). -/
def servingOk (s : State) (g : ExchangeGroup) : Bool := (rillOf s g.serveRill).state == .active

def dropPosted (p : Posted) (s : State) : State := { s with exch := { s.exch with posted := s.exch.posted.erase p } }

def updPosted (p : Posted) (f : Posted → Posted) (s : State) : State :=
  { s with exch := { s.exch with posted := s.exch.posted.map (fun x => if x == p then f x else x) } }

/-- A reply to a far requester begins: its body is stored first (R302, R303). -/
def answerFar (g : ExchangeGroup) (node : Nat) (ws : List Nat) (body : Bytes) (s : State) : State :=
  { s with exch := { s.exch with replies := s.exch.replies ++ [{ group := g.group, node, word0 := nth 0 ws 0, rest := messageRest ws body }] } }

/-- A piece answered: its reply goes into the requester's return slot, the header last (R302, R303). -/
def answer (g : ExchangeGroup) (p : Posted) (st : Status) (version count detail : Nat) (body : Bytes) (s : State) : State :=
  let s := p.slots.foldl (fun s k => dropRef k s) (dropPosted p s)
  let ws := mkReply st (hdrSeq p.words) version count body.length detail
  if p.node == s.node then postReply g.group s.node ws body s else answerFar g p.node ws body s

/-- The first reply of a list that keeps a condition changed. -/
def updReply (ok : OutMsg → Bool) (f : OutMsg → OutMsg) : List OutMsg → List OutMsg
  | [] => []
  | m :: t => if ok m then f m :: t else m :: updReply ok f t

/-- Requests of a serving rill that have not landed: its own and those of its replies (R192). -/
def servingOutstanding (s : State) (g : ExchangeGroup) : Nat :=
  rillOutstanding s g.serveRill + ((s.exch.replies.filter (fun m => m.group == g.group)).map (fun m => m.issued - m.landed)).sum

/-- STOREs of a reply: its body, then word 0 once that is complete. -/
def replyStores (g : ExchangeGroup) (node : Nat) : Nat → State → State
  | 0, s => s
  | n + 1, s =>
    let mine := fun (m : OutMsg) => m.group == g.group && m.node == node && !m.headed
    match s.exch.replies.find? mine with
    | none => s
    | some m =>
      let base := poolAddr node 0 (returnOff g s.node)
      let put := fun (f : OutMsg → OutMsg) (s : State) => { s with exch := { s.exch with replies := updReply mine f s.exch.replies } }
      if 4096 ≤ servingOutstanding s g then s
      else if m.rest.length ≤ m.off then
        if m.issued != m.landed || !mayCall s engineKey then s
        else issueMessage (exchStore s g.party (.exch g.group node) sealPool base (toBytes m.word0 8))
          (put (fun m => { m with headed := true, issued := m.issued + 1 }) s)
      else
        let a := base + 8 + m.off
        let k := min (m.rest.length - m.off) (4096 - a % 4096)
        replyStores g node n (issueMessage (exchStore s g.party (.exch g.group node) 0#64 a ((m.rest.drop m.off).take k))
          (put (fun m => { m with off := m.off + k, issued := m.issued + 1 }) s))

/-- A STORE of a reply acknowledged. -/
def landReply (g n : Nat) (s : State) : State :=
  let hit := fun (m : OutMsg) => m.group == g && m.node == n && decide (m.landed < m.issued)
  { s with exch := { s.exch with replies := updReply hit (fun m => { m with landed := m.landed + 1 }) s.exch.replies } }

/-- Acknowledged reply stores counted and every reply taken further; an answered one is forgotten. -/
def replyPump (s : State) : State :=
  let mine := s.weir.landed.filter (fun x => match x.req.src with | .exch .. => true | _ => false)
  let s := { s with weir := { s.weir with landed := s.weir.landed.filter (fun x => !mine.contains x) } }
  let s := mine.foldl (fun s x => match x.req.src with
    | .exch g n => landReply g n s
    | _ => s) s
  let s := { s with exch := { s.exch with replies := s.exch.replies.filter (fun m => !(m.headed && m.issued ≤ m.landed)) } }
  s.exch.replies.foldl (fun s m => match groupOf s m.group with
    | none => s
    | some g => replyStores g m.node 4096 s) s

/-- PROGRESS_BEAT (R303): a piece in work stores PROGRESS + 1 into header word 2 of its return slot, as a seal store. -/
def progressBeat (group node : Nat) (s : State) : State :=
  match groupOf s group, s.exch.posted.find? (fun p => p.group == group && p.node == node && p.working) with
  | some g, some p =>
    let s := updPosted p (fun p => { p with beats := p.beats + 1 }) s
    if node == s.node || !mayCall s engineKey then s
    else issueMessage (exchStore s g.party (.exch g.group (1024 + node)) sealPool (poolAddr node 0 (returnOff g s.node + 16))
      (toBytes (at' ((p.beats + 1) % 2 ^ 32) 32) 8)) s
  | _, _ => s

def execProgressBeat (group : Fin 16) (node : Fin 1024) (s : State) : Host.Outcome State Fault Refusal :=
  .next (progressBeat group node s)

end Sys2Proof.Machine
end

