-- ==== Sys2Proof/Machine/Embed.lean ====
section
/-!
DEFINITION. EMBED rills (chapter 12): table records and row maps, LOOKUP, UPDATE and COMMIT at the requester, and what an owner
does with a posted piece.
-/
namespace Sys2Proof.Machine

open Sys2Proof

/-! ## Parameters and tables -/

structure EmbedParam where
  group   : Nat
  serving : Bool
  tables  : Nat
  stage   : Nat
  dir     : Nat
  base    : Nat
  deriving DecidableEq, Repr

def embedParam (ws : List Nat) : EmbedParam :=
  let w := nth 0 ws 0
  { group := bits w 60 4, serving := bit w 59, tables := bits w 32 12 + 1, stage := bits w 0 32, dir := nth 0 ws 1, base := nth 0 ws 2 }

/-- A table record (Table 12-2). -/
structure TableRec where
  mode    : Nat
  valid   : Bool
  mutable_ : Bool
  tailHost : Bool
  format  : Nat
  rowBytes : Nat
  curVer  : Nat
  rows    : Nat
  hotRows : Nat
  hotBase : Nat
  tailBase : Nat
  mapBase : Nat
  spare   : Nat
  shards  : Nat
  owner   : Nat
  shardList : Nat
  deriving DecidableEq, Repr, Inhabited

def tableRec (ws : List Nat) : TableRec :=
  let w0 := nth 0 ws 0
  let w1 := nth 0 ws 1
  let w5 := nth 0 ws 5
  { mode := bits w0 62 2, valid := bit w0 61, mutable_ := bit w0 60, tailHost := bit w0 59, format := bits w0 55 4
    rowBytes := bits w0 41 14 + 1, curVer := bits w0 0 32, rows := bits w1 32 32, hotRows := bits w1 0 32, hotBase := nth 0 ws 2
    tailBase := nth 0 ws 3, mapBase := nth 0 ws 4, spare := bits w5 32 32, shards := bits w5 16 16 + 1, owner := bits w5 0 10
    shardList := nth 0 ws 6 }

/-- Where record t of a directory lies. -/
def tableAt (p : EmbedParam) (t : Nat) : Nat × Nat := (p.dir + 64 * t, 64)

/-- Table t of a rill's directory. -/
def readTable (rd : Nat → Nat → VGot) (p : EmbedParam) (t : Nat) : Except Status TableRec :=
  if p.tables ≤ t then .error .faultPermission
  else match rd (tableAt p t).1 64 with
    | .ok d => .ok (tableRec (words64 8 d))
    | .fail st _ => .error st

def TableRec.elemBytes (t : TableRec) : Nat := elemBits t.format / 8
def TableRec.dim (t : TableRec) : Nat := t.rowBytes / t.elemBytes
def TableRec.stride (t : TableRec) : Nat := (t.rowBytes + 63) / 64 * 64

/-- A valid record within Table 12-2, and within R297 for a REPLICA table. -/
def TableRec.ok (t : TableRec) (party : Nat) : Bool :=
  t.valid && t.mode ≤ 2 && t.format ≤ 4 && t.rowBytes % t.elemBytes == 0 && t.rows != 0 && (!t.tailHost || party ≤ 1)
    && (t.mode != 1 || t.rows * t.stride ≤ 4294967296)

/-- Local rows L of a table at an owner, and the local row of a row (R296). -/
def TableRec.localRows (t : TableRec) (pos : Nat) : Nat :=
  if t.mode == 2 then (t.rows + t.shards - 1 - pos) / t.shards else t.rows

def TableRec.localRow (t : TableRec) (r : Nat) : Nat := if t.mode == 2 then r / t.shards else r

/-- Address of slot k, and whether it is a host bus address (R298). -/
def slotAddr (t : TableRec) (l k : Nat) : Nat × Bool :=
  if k < t.hotRows then (t.hotBase + k * t.stride, false)
  else if k < l then (t.tailBase + (k - t.hotRows) * t.stride, t.tailHost)
  else (t.hotBase + (t.hotRows + k - l) * t.stride, false)

/-! ## Row maps (R299) -/

structure MapEntry where
  cur    : Nat
  prev   : Nat
  change : Nat
  moved  : Bool
  deriving DecidableEq, Repr, Inhabited

def mapEntry (ws : List Nat) : MapEntry :=
  { cur := bits (nth 0 ws 0) 32 32, prev := bits (nth 0 ws 0) 0 32, change := bits (nth 0 ws 1) 32 32, moved := bit (nth 0 ws 1) 31 }

def readMap (s : State) (party : Nat) (ctx : Option Ctx) (t : TableRec) (r : Nat) : Except Status MapEntry :=
  match vread s party ctx (t.mapBase + 16 * r) 16 with
  | .ok d => .ok (mapEntry (words64 2 d))
  | .fail st _ => .error st

/-- The slot a row is read from at a version; none for an unpinned look-up (R307, R311). -/
def rowSlot (e : MapEntry) (r : Nat) (ver : Option Nat) : Nat :=
  if !e.moved then r
  else match ver with
    | some v => if serCmp 32 e.change v == .newer then e.prev else e.cur
    | none => e.cur

/-- A slot stack of the map area (its 8-byte header and its entries): free stack and retire list. -/
def freeStack (t : TableRec) (l : Nat) : Nat := t.mapBase + 16 * l
def retireList (t : TableRec) (l : Nat) : Nat := freeStack t l + 8 + 4 * t.spare

/-- (COUNT, FRESH_USED) of a stack. -/
def stackHead (s : State) (party : Nat) (ctx : Option Ctx) (a : Nat) : Nat × Nat :=
  match vnum s party ctx a 8 with
  | some w => (bits w 32 32, bits w 0 32)
  | none => (0, 0)

def putHead (party : Nat) (ctx : Option Ctx) (a n f : Nat) (s : State) : State :=
  (vwrite party ctx a (toBytes (at' n 32 + f) 8) s).2

/-- Slots that can still be taken: free ones and fresh spare ones. -/
def slotsLeft (s : State) (party : Nat) (ctx : Option Ctx) (t : TableRec) (l : Nat) : Nat :=
  let (n, f) := stackHead s party ctx (freeStack t l)
  n + (t.spare - f)

/-- A slot taken from the stack, else a fresh one. -/
def takeSlot (party : Nat) (ctx : Option Ctx) (t : TableRec) (l : Nat) (s : State) : Nat × State :=
  let a := freeStack t l
  let (n, f) := stackHead s party ctx a
  if n != 0 then
    ((vnum s party ctx (a + 8 + 4 * (n - 1)) 4).getD 0, putHead party ctx a (n - 1) f s)
  else (l + f, putHead party ctx a 0 (f + 1) s)

/-- A slot pushed on a stack. -/
def pushSlot (party : Nat) (ctx : Option Ctx) (a k : Nat) (s : State) : State :=
  let (n, f) := stackHead s party ctx a
  putHead party ctx a (n + 1) f (vwrite party ctx (a + 8 + 4 * n) (toBytes k 4) s).2

/-! ## Routing (R306) -/

/-- The owners of a row: OWNER_NODE, the requester's own node, or the shard. -/
def rowOwner (s : State) (t : TableRec) (shards : List Nat) (r : Nat) : Nat :=
  match t.mode with
  | 0 => t.owner
  | 1 => s.node
  | _ => nth 0 shards (r % t.shards)

/-- The shards of a SHARDED table; none in the other modes. -/
def shardsOf (rd : Nat → Nat → VGot) (t : TableRec) : Except Status (List Nat) :=
  if t.mode != 2 then .ok [] else nodeList rd t.shardList t.shards

/-- The shard lists of the tables of a descriptor, whose records are here. -/
def shardRanges (s : State) (j : Job) (p : EmbedParam) (ts : List Nat) : List (Nat × Nat) :=
  ts.eraseDups.flatMap (fun n => match readTable (jread s j) p n with
    | .ok t => if t.mode == 2 then [(t.shardList, 2 * t.shards)] else []
    | .error _ => [])

/-- The records of the tables of a descriptor. -/
def tableRanges (p : EmbedParam) (ts : List Nat) : List (Nat × Nat) := (ts.eraseDups.filter (· < p.tables)).map (tableAt p)

/-! ## LOOKUP at the requester (R306) -/

structure Bag where
  table : Nat
  pool  : Nat
  weighted : Bool
  count : Nat
  first : Nat
  deriving DecidableEq, Repr, Inhabited

def bagOf (w : Nat) : Bag :=
  { table := bits w 52 12, pool := bits w 50 2, weighted := bit w 49, count := bits w 32 17, first := bits w 0 16 }

def bagWord (b : Bag) : Nat := at' b.table 52 + at' b.pool 50 + at' (b2n b.weighted) 49 + at' b.count 32 + b.first

structure LookupOps where
  bags  : Nat
  ids   : Nat
  weights : Nat
  out   : Nat
  n     : Nat
  stride : Nat
  vpin  : Bool
  bf16  : Bool
  version : Nat
  deriving DecidableEq, Repr

def lookupOps (j : Job) : LookupOps :=
  let w := j.word 6
  { bags := j.word 2, ids := j.word 3, weights := j.word 4, out := j.word 5, n := bits w 48 16 + 1, stride := 64 * bits w 36 12
    vpin := bit w 35, bf16 := bit w 34, version := bits w 0 32 }

def readBags (s : State) (j : Job) (o : LookupOps) : List Bag :=
  match jread s j o.bags (8 * o.n) with
  | .ok d => (words64 o.n d).map bagOf
  | .fail _ _ => []

/-- A bag against R306's first row; its RSVD bits are ignored (R14). -/
def bagOk (s : State) (j : Job) (p : EmbedParam) (o : LookupOps) (b : Bag) : Bool :=
  b.pool ≤ 2 && b.count ≤ 65536 && b.first + b.count ≤ 65536 && (!b.weighted || o.weights != 0)
  && (match readTable (jread s j) p b.table with
    | .ok t => t.ok j.party && t.dim * (if o.bf16 then 2 else 4) ≤ o.stride
    | .error _ => false)

/-- The ids of a bag. -/
def bagIds (s : State) (j : Job) (o : LookupOps) (b : Bag) : Except Status (List Nat) :=
  match jread s j (o.ids + 4 * b.first) (4 * b.count) with
  | .ok d => .ok (words32 b.count d)
  | .fail st _ => .error st

/-- The part of a bag for one owner: the batch number, the bag word without FIRST, its ids and weights, and its reply bytes. -/
structure BagPart where
  bag   : Nat
  entry : Bag
  ids   : List Nat
  weights : List Nat
  dim   : Nat
  deriving DecidableEq, Repr, Inhabited

def partBytes (x : BagPart) (weights : Bool) : Nat := 8 + 4 * x.ids.length + (if weights then 4 * x.ids.length else 0)
def partReply (x : BagPart) : Nat := (4 * x.dim + 63) / 64 * 64

/-- The bag parts cut into pieces that fit a slot with their replies (R302); weights travel with every piece of a batch that has
them. -/
def cutParts (slot : Nat) (weights : Bool) : List BagPart → List BagPart → Nat → Nat → List (List BagPart)
  | [], [], _, _ => []
  | [], cur, _, _ => [cur]
  | x :: t, cur, m, r =>
    if cur.isEmpty || (64 + m + partBytes x weights ≤ slot && 64 + r + partReply x ≤ slot) then
      cutParts slot weights t (cur ++ [x]) (m + partBytes x weights) (r + partReply x)
    else cur :: cutParts slot weights t [x] (partBytes x weights) (partReply x)

/-- The message of a LOOKUP piece (R302). -/
def lookupPiece (o : LookupOps) (owner : Nat) (weights : Bool) (ps : List BagPart) : ExPiece :=
  let entries := ps.foldl (fun (a : List Nat × Nat) x =>
    (a.1 ++ [bagWord { x.entry with first := a.2, count := x.ids.length }], a.2 + x.ids.length)) ([], 0)
  let body := bytes64 entries.1 ++ bytes32 (ps.flatMap (·.ids)) ++ (if weights then bytes32 (ps.flatMap (·.weights)) else [])
  { owner, words := mkHeader 1 0 o.vpin weights (if o.vpin then o.version else 0) ps.length body.length 0, body
    bags := ps.map (·.bag) }

/-- The parts of every bag: (owner, part) in bag order, or the first failure. -/
def lookupParts (s : State) (j : Job) (p : EmbedParam) (o : LookupOps) : List (Bag × Nat) → List (Nat × BagPart) →
    Except (Status × Nat) (List (Nat × BagPart))
  | [], acc => .ok acc
  | (b, k) :: rest, acc =>
    let table := readTable (jread s j) p b.table
    match table, bagIds s j o b, table.bind (shardsOf (jread s j)) with
    | .ok t, .ok ids, .ok shards =>
      match (ids.zipIdx).find? (fun x => t.rows ≤ x.1) with
      | some x => .error (.faultUnmapped, operandDetail 1 (4 * (b.first + x.2)))
      | none =>
        let ws := if b.weighted then (match jread s j (o.weights + 4 * b.first) (4 * b.count) with
          | .ok d => words32 b.count d | .fail _ _ => []) else List.replicate b.count 0x3F800000
        let owned := (ids.zip ws).map (fun x => (rowOwner s t shards x.1, x))
        let owners := (owned.map (·.1)).eraseDups
        lookupParts s j p o rest (acc ++ owners.map (fun n =>
          let mine := (owned.filter (fun x => x.1 == n)).map (·.2)
          (n, { bag := k, entry := b, ids := mine.map (·.1), weights := mine.map (·.2), dim := t.dim })))
    | .error st, _, _ => .error (st, faultDetail st 0 (8 * k))
    | _, .error st, _ => .error (st, faultDetail st 1 (4 * b.first))
    | _, _, .error st => .error (st, faultDetail st 0 (8 * k))

def lookupStart (j : Job) (s : State) : State :=
  let o := lookupOps j
  let p := embedParam (rillOf s j.rill).params
  match jread s j o.bags (8 * o.n), groupOf s p.group with
  | .fail st off, _ => refuseOp j st 0 off s
  | _, none => refuseOp j .faultPermission 0 0 s
  | .ok _, some g =>
    let bags := readBags s j o
    match (bags.zipIdx).find? (fun b => !bagOk s j p o b.1) with
    | some b => refuseOp j .faultPermission 0 (8 * b.2) s
    | none =>
      match lookupParts s j p o bags.zipIdx [] with
      | .error (st, d) => finishJob j st d false s
      | .ok parts =>
        if 65536 < (bags.map (·.count)).sum then refuseOp j .faultPermission 4 0 s
        else
          let weights := bags.any (·.weighted)
          let slot := slotBytes g
          match parts.find? (fun x => slot < 64 + partBytes x.2 weights || slot < 64 + partReply x.2) with
          | some x => refuseOp j .faultPermission 0 (8 * x.2.bag) s
          | none =>
            let owners := (parts.map (·.1)).eraseDups
            let pieces := owners.flatMap (fun n =>
              (cutParts slot weights ((parts.filter (fun x => x.1 == n)).map (·.2)) [] 0 0).map (lookupPiece o n weights))
            beginRun j p.group pieces (j.word 7) s

/-- The tables that the bags of a LOOKUP name. -/
def lookupTables (s : State) (j : Job) : List Nat := (readBags s j (lookupOps j)).map (·.table)

/-- The operand ranges of a LOOKUP, once its bags are here. -/
def lookupRanges (s : State) (j : Job) : List (Nat × Nat) :=
  let o := lookupOps j
  let bags := readBags s j o
  (o.bags, 8 * o.n) :: bags.flatMap (fun b => (o.ids + 4 * b.first, 4 * b.count) ::
    (if b.weighted && o.weights != 0 then [(o.weights + 4 * b.first, 4 * b.count)] else []))

/-! ## Merging a LOOKUP (R307, R308) -/

/-- The partial pool of a bag within a reply: FP32 patterns, each bag padded to 64 bytes. -/
def partial_ (dims : List Nat) (k : Nat) (body : Bytes) : List Nat :=
  let off := ((dims.take k).map (fun d => (4 * d + 63) / 64 * 64)).sum
  words32 (nth 0 dims k) (body.drop off)

/-- A partial that carries a bag's POISON or UNCORRECTABLE: every element the canonical NaN (log entry 43). -/
def nanPartial (l : List Nat) : Bool := !l.isEmpty && l.all (· == f32Nan)

/-- The parts of bag b in the replies: its partials, and the status it suffered. -/
def bagParts (r : ExchRun) (dims : List Nat) (b : Nat) : List (List Nat) × Status :=
  r.pieces.foldl (fun (a : List (List Nat) × Status) p =>
    match p.reply, p.bags.findIdx? (· == b) with
    | some (ws, body), some k =>
      let part := partial_ (p.bags.map (nth 0 dims)) k body
      let st := hdrStatus ws
      let hurt := (st == .poison || st == .uncorrectable) && nanPartial part
      (a.1 ++ [part], if hurt then worseData a.2 st else a.2)
    | _, _ => a) ([], .ok)

/-- The pooled output of a bag in FP32. -/
def poolBag (b : Bag) (dim : Nat) (parts : List (List Nat)) : List FVal :=
  (List.range dim).map (fun i =>
    let xs := parts.map (fun p => fp32.decode (nth 0 p i))
    if b.count == 0 then .fin false 0 0
    else if b.pool == 2 then (xs.drop 1).foldl FVal.maxNum (xs.headD (.fin false 0 0))
    else
      let sum := fp32.decode (anyOrder xs.length xs)
      if b.pool == 1 then fp32.round (sum.div (.fin false b.count 0)) else sum)

/-- The first error of a run that ends the descriptor: not POISON or UNCORRECTABLE of single bags. -/
def replyError (r : ExchRun) : Option (ExPiece × Status × Nat) :=
  r.pieces.findSome? (fun p => match p.reply with
    | some (ws, _) => let st := hdrStatus ws
      if st == .ok || st == .poison || st == .uncorrectable || st == .underfilled then none else some (p, st, hdrDetail ws)
    | none => none)

/-- Every reply is here: the outputs and the result of a LOOKUP. -/
def lookupMerge (j : Job) (r : ExchRun) (s : State) : ExchRun :=
  match replyError r with
  | some (p, st, d) =>
    let det := if bits d 60 4 == 0 && (st == .faultPermission || st == .faultUnmapped)
      then operandDetail 0 (8 * nth 0 p.bags (bits d 0 60 / 8)) else d
    { r with result := some (st, det, false) }
  | none =>
    let o := lookupOps j
    let p := embedParam (rillOf s j.rill).params
    let bags := readBags s j o
    let dims := bags.map (fun b => match readTable (jread s j) p b.table with | .ok t => t.dim | .error _ => 0)
    let res := (bags.zipIdx).map (fun b =>
      let (parts, st) := bagParts r dims b.2
      let vs := if st == Status.ok then poolBag b.1 (nth 0 dims b.2) parts else List.replicate (nth 0 dims b.2) .nan
      (o.out + b.2 * o.stride, if o.bf16 then bytes16 (vs.map bf16.encode) else bytes32 (vs.map fp32.encode), st))
    let result := match (res.zipIdx).find? (fun x => x.1.2.2 != Status.ok) with
      | some x => (x.1.2.2, operandDetail 0 (8 * x.2), false)
      | none => (Status.ok, 0, false)
    { r with outs := res.map (fun x => (x.1, x.2.1)), result := some result, advance := o.n * o.stride }

/-! ## UPDATE at the requester (R309) -/

structure UpdEntry where
  table : Nat
  add   : Bool
  row   : Nat
  off   : Nat
  deriving DecidableEq, Repr, Inhabited

def updEntry (ws : List Nat) : UpdEntry :=
  { table := bits (nth 0 ws 0) 52 12, add := bit (nth 0 ws 0) 51, row := bits (nth 0 ws 0) 0 32, off := nth 0 ws 1 }

def updBytes (t : TableRec) (e : UpdEntry) : Nat := if e.add then 4 * t.dim else t.rowBytes

def updCount (j : Job) : Nat := bits (j.word 6) 48 16 + 1

def readUpdates (s : State) (j : Job) : List UpdEntry :=
  match jread s j (j.word 2) (16 * updCount j) with
  | .ok d => (chop 16 (updCount j) d).map (fun b => updEntry (words64 2 b))
  | .fail _ _ => []

/-- An update for an owner: its entry, its number in the batch and its data. -/
structure UpdPart where
  num   : Nat
  entry : UpdEntry
  data  : Bytes
  deriving DecidableEq, Repr, Inhabited

def updPartBytes (x : UpdPart) : Nat := 16 + (x.data.length + 7) / 8 * 8

def cutUpdates (slot : Nat) : List UpdPart → List UpdPart → Nat → List (List UpdPart)
  | [], [], _ => []
  | [], cur, _ => [cur]
  | x :: t, cur, m =>
    if cur.isEmpty || 64 + m + updPartBytes x ≤ slot then cutUpdates slot t (cur ++ [x]) (m + updPartBytes x)
    else cur :: cutUpdates slot t [x] (updPartBytes x)

def updatePiece (owner : Nat) (ps : List UpdPart) : ExPiece :=
  let es := ps.foldl (fun (a : Bytes × Nat) x =>
    (a.1 ++ bytes64 [at' x.entry.table 52 + at' (b2n x.entry.add) 51 + x.entry.row, a.2], a.2 + (x.data.length + 7) / 8 * 8)) ([], 0)
  let body := es.1 ++ ps.flatMap (fun x => padTo ((x.data.length + 7) / 8 * 8) x.data)
  { owner, words := mkHeader 2 0 false false 0 ps.length body.length 0, body, bags := ps.map (·.num) }

/-- The updates of a batch with their owners, or the first failure. -/
def updateParts (s : State) (j : Job) (p : EmbedParam) (roster : List Nat) : List (UpdEntry × Nat) → List (Nat × UpdPart) →
    Except (Status × Nat) (List (Nat × UpdPart))
  | [], acc => .ok acc
  | (e, k) :: rest, acc =>
    match readTable (jread s j) p e.table with
    | .error st => .error (st, faultDetail st 0 (16 * k))
    | .ok t =>
      if !t.ok j.party || !t.mutable_ || e.off % 8 != 0 then .error (.faultPermission, operandDetail 0 (16 * k))
      else if t.rows ≤ e.row then .error (.faultUnmapped, operandDetail 0 (16 * k))
      else match jread s j (j.word 3 + e.off) (updBytes t e), shardsOf (jread s j) t with
        | .fail st off, _ => .error (st, faultDetail st 1 (e.off + off))
        | _, .error st => .error (st, faultDetail st 0 (16 * k))
        | .ok d, .ok shards =>
          let owners := if t.mode == 1 then roster else [rowOwner s t shards e.row]
          updateParts s j p roster rest (acc ++ owners.map (fun n => (n, { num := k, entry := e, data := d })))

def updateStart (j : Job) (s : State) : State :=
  let p := embedParam (rillOf s j.rill).params
  match jread s j (j.word 2) (16 * updCount j), groupOf s p.group with
  | .fail st off, _ => refuseOp j st 0 off s
  | _, none => refuseOp j .faultPermission 0 0 s
  | .ok _, some g =>
    match updateParts s j p g.roster (readUpdates s j).zipIdx [] with
    | .error (st, d) => finishJob j st d false s
    | .ok parts =>
      match parts.find? (fun x => slotBytes g < 64 + updPartBytes x.2) with
      | some x => refuseOp j .faultPermission 0 (16 * x.2.num) s
      | none =>
        let owners := (parts.map (·.1)).eraseDups
        let pieces := owners.flatMap (fun n =>
          (cutUpdates (slotBytes g) ((parts.filter (fun x => x.1 == n)).map (·.2)) [] 0).map (updatePiece n))
        beginRun j p.group pieces (j.word 7) s

/-- The tables that the entries of an UPDATE name. -/
def updateTables (s : State) (j : Job) : List Nat := (readUpdates s j).map (·.table)

/-- The operand ranges of an UPDATE, once its entries and their tables' records are here. -/
def updateRanges (s : State) (j : Job) : List (Nat × Nat) :=
  let p := embedParam (rillOf s j.rill).params
  (j.word 2, 16 * updCount j) :: (readUpdates s j).map (fun e =>
    (j.word 3 + e.off, match readTable (jread s j) p e.table with | .ok t => updBytes t e | .error _ => 0))

/-! ## COMMIT at the requester (R310) -/

def commitStart (j : Job) (s : State) : State :=
  let p := embedParam (rillOf s j.rill).params
  let n := bits (j.word 2) 0 12
  let table := readTable (jread s j) p n
  match table, groupOf s p.group, table.bind (shardsOf (jread s j)) with
  | .error st, _, _ => refuseOp j st 0 0 s
  | _, none, _ => refuseOp j .faultPermission 0 0 s
  | _, _, .error st => refuseOp j st 0 0 s
  | .ok t, some g, .ok shards =>
    if !t.ok j.party then refuseOp j .faultPermission 0 0 s
    else if !t.mutable_ then finishJob j .ok 0 false s
    else
      let owners := if t.mode == 0 then [t.owner] else if t.mode == 1 then g.roster else shards.eraseDups
      beginRun j p.group (owners.map (fun n' =>
        { owner := n', words := mkHeader 3 n false false 0 0 0 0 })) 0 s

/-- The result of an UPDATE, whose COUNTER is checked and never advances, the spec giving no amount (DESIGN CHOICE, log entry 70), or of a
COMMIT: the first error, INDETERMINATE with a refusal of an update piece (R309), else OK with the
new version for a COMMIT. -/
def stepMerge (j : Job) (r : ExchRun) : ExchRun :=
  match r.pieces.findSome? (fun p => match p.reply with
      | some (ws, _) => if hdrStatus ws == .ok then none else some (hdrStatus ws, hdrDetail ws)
      | none => none) with
  | some (st, d) => { r with result := some (st, d, j.op == 2 && st == .faultPermission) }
  | none =>
    let ver := match r.pieces.head? with
      | some p => (p.reply.map (fun x => hdrVersion x.1)).getD 0
      | none => 0
    { r with result := some (.ok, if j.op == 3 then ver else 0, false) }

/-! ## The owner: versions held (R311) -/

def serveCtx (s : State) (g : ExchangeGroup) : Option Ctx := ctxOf s g.party (rillOf s g.serveRill).asid

def serveParam (s : State) (g : ExchangeGroup) : EmbedParam := embedParam (rillOf s g.serveRill).params

/-- A posted piece goes on once each page that it reads has been in DRAM since it came into work; a page that is not there is brought as by a
demand fill, and the accesses count with the last of them (R65, R68). -/
def servedReads (g : ExchangeGroup) (p : Posted) (ranges : List (Nat × Nat)) (k : State → State) (s : State) : State :=
  let ctx := serveCtx s g
  let pages := (touchedPages s ctx ranges).filter (fun x => !p.seen.contains x)
  let here := fun (x : Nat) => (tierOf s x).state == .plain || (tierOf s x).state == .riffle
  let away := pages.filter (fun x => !here x)
  if away.isEmpty then k (ranges.foldl (fun s r => countVirtual g.party ctx r.1 r.2 s) s)
  else away.foldl (fun s x => bring true x s) (updPosted p (fun p => { p with seen := p.seen ++ pages.filter here, working := true }) s)

/-- Tables that a LOOKUP piece names. -/
def pieceTables (ws : List Nat) (body : Bytes) : List Nat :=
  if hdrKind ws == 1 then ((words64 (hdrCount ws) body).map (fun w => bits w 52 12)).eraseDups
  else if hdrKind ws == 2 then (((chop 16 (hdrCount ws) body).map (fun b => bits (ofBytes (b.take 8)) 52 12))).eraseDups
  else if hdrKind ws == 3 then [hdrTable ws] else []

/-- The versions a LOOKUP piece holds from its posting: VERSION when pinned, else each table's CUR_VER. -/
def embedHold (s : State) (group : Nat) (ws : List Nat) (body : Bytes) : List (Nat × Nat) :=
  match groupOf s group with
  | none => []
  | some g =>
    if hdrKind ws != 1 then []
    else (pieceTables ws body).map (fun t => (t, if hdrVpin ws then hdrVersion ws
      else match readTable (vread s g.party (serveCtx s g)) (serveParam s g) t with | .ok x => x.curVer | .error _ => 0))

/-- A posted piece that has to wait for a COMMIT of one of its tables (R309, R311). -/
def waitsCommit (s : State) (p : Posted) : Bool :=
  let before := s.exch.posted.takeWhile (fun x => x != p)
  (pieceTables p.words p.body).any (fun t =>
    (s.exch.committing.contains (p.group, t) || before.any (fun x => x.group == p.group && hdrKind x.words == 3 && hdrTable x.words == t))
    && (hdrKind p.words == 2 || hdrKind p.words == 3 || hdrVpin p.words))

/-! ## The owner: LOOKUP (R307) -/

/-- The position of this node among the shards of a table. -/
def shardPos (s : State) (party : Nat) (ctx : Option Ctx) (t : TableRec) : Nat :=
  match shardsOf (vread s party ctx) t with
  | .ok l => (l.findIdx? (· == s.node)).getD 0
  | .error _ => 0

/-- A table as its owner serves it: its record and its shard list can be read. -/
def ownTable (s : State) (g : ExchangeGroup) (n : Nat) : Except Status TableRec := do
  let t ← readTable (vread s g.party (serveCtx s g)) (serveParam s g) n
  let _ ← shardsOf (vread s g.party (serveCtx s g)) t
  return t

/-- A row's place: its address and whether it is on the host. -/
def rowPlace (s : State) (party : Nat) (ctx : Option Ctx) (t : TableRec) (r : Nat) (ver : Option Nat) : Except Status (Nat × Bool) :=
  let l := t.localRows (shardPos s party ctx t)
  let r := t.localRow r
  if t.mutable_ then
    match readMap s party ctx t r with
    | .ok e => .ok (slotAddr t l (rowSlot e r ver))
    | .error st => .error st
  else .ok (slotAddr t l r)

/-- The elements of a row, or the status its read ended with. -/
def rowValues (s : State) (party : Nat) (ctx : Option Ctx) (t : TableRec) (host : List (Nat × Option Bytes)) (pl : Nat × Bool) :
    Except Status (List FVal) :=
  if pl.2 then
    match host.find? (fun h => h.1 == pl.1) with
    | some (_, some d) => .ok ((readRun t.format t.dim d).map Elem.val)
    | _ => .error .uncorrectable
  else match vread s party ctx pl.1 t.rowBytes with
    | .ok d => .ok ((readRun t.format t.dim d).map Elem.val)
    | .fail st _ => .error st

/-- Pool of a bag's rows in FP32: SUM and MEAN as sums, MAX (R307). -/
def poolRows (pool dim : Nat) (weighted : Bool) (rows : List (List FVal × Nat)) : List Nat :=
  (List.range dim).map (fun i =>
    let xs := rows.map (fun r => let x := nth (FVal.fin false 0 0) r.1 i
                                 if weighted then (fp32.decode r.2).mul x else x)
    if pool == 2 then fp32.encode (((xs.map fp32.round).drop 1).foldl FVal.maxNum ((xs.map fp32.round).headD (.fin false 0 0)))
    else anyOrder xs.length xs)

/-- One bag of a piece served: its partial, or the status that ends the bag (POISON, UNCORRECTABLE) or the piece. -/
def serveBag (s : State) (party : Nat) (ctx : Option Ctx) (t : TableRec) (ver : Option Nat) (host : List (Nat × Option Bytes))
    (b : Bag) (ids ws : List Nat) : Except Status (List Nat) :=
  let rows := (ids.zip ws).map (fun x => match rowPlace s party ctx t x.1 ver with
    | .error st => Except.error st
    | .ok pl => match rowValues s party ctx t host pl with
      | .ok v => .ok (v, x.2)
      | .error st => .error st)
  let bad := rows.foldl (fun (a : Option Status) r => match r with
    | .ok _ => a
    | .error st => match a with
      | none => some st
      | some x => if st == .poison || st == .uncorrectable then
          (if x == .poison || x == .uncorrectable then some (worseData x st) else some x) else some st) none
  match bad with
  | some st => .error st
  | none => .ok (poolRows b.pool t.dim b.weighted (rows.filterMap (fun r => match r with | .ok v => some v | .error _ => none)))

/-- The bags, ids and weights of a LOOKUP piece. -/
def pieceBags (p : Posted) : List (Bag × List Nat × List Nat) :=
  let n := hdrCount p.words
  let bags := (words64 n p.body).map bagOf
  let total := (bags.map (·.count)).sum
  let ids := words32 total (p.body.drop (8 * n))
  let ws := if hdrWeights p.words then words32 total (p.body.drop (8 * n + 4 * total)) else []
  bags.map (fun b => (b, (ids.drop b.first).take b.count,
    if hdrWeights p.words then (ws.drop b.first).take b.count else List.replicate b.count 0x3F800000))

/-- Host rows a LOOKUP piece needs, with their lengths (R296). -/
def hostRows (s : State) (g : ExchangeGroup) (p : Posted) : List (Nat × Nat) :=
  let ctx := serveCtx s g
  ((pieceBags p).flatMap (fun b => match readTable (vread s g.party ctx) (serveParam s g) b.1.table with
    | .error _ => []
    | .ok t =>
      if !t.tailHost then []
      else b.2.1.filterMap (fun r => match rowPlace s g.party ctx t r (if hdrVpin p.words then some (hdrVersion p.words) else none) with
        | .ok (a, true) => some (a, t.rowBytes)
        | _ => none))).eraseDups

/-- A piece goes on once its host rows are here: those not asked for yet are read over the host bus. -/
def awaitHost (g : ExchangeGroup) (p : Posted) (rows : List (Nat × Nat)) (k : State → State) (s : State) : State :=
  let missing := rows.filter (fun a => !p.asked.contains a.1)
  if !missing.isEmpty then
    missing.foldl (fun s a =>
      let tag := s.rill.nextDma
      let s := { s with rill := { s.rill with nextDma := tag + 1, dma := s.rill.dma ++ [{ tag, rill := g.group, index := p.node, num := a.1, embed := true }] } }
      emit (.pcieRead g.party tag a.1 a.2) s) (updPosted p (fun p => { p with asked := p.asked ++ missing.map (·.1), working := true }) s)
  else if p.asked.any (fun a => !p.host.any (fun h => h.1 == a)) then s
  else k s

/-- The record and the shard list of a table that a piece reads. -/
def ownRanges (s : State) (g : ExchangeGroup) (n : Nat) : List (Nat × Nat) :=
  let p := serveParam s g
  (if n < p.tables then [tableAt p n] else []) ++ (match readTable (vread s g.party (serveCtx s g)) p n with
    | .ok t => if t.mode == 2 then [(t.shardList, 2 * t.shards)] else []
    | .error _ => [])

/-- What a LOOKUP piece reads of its memory: records, map entries and rows. -/
def lookupReads (s : State) (g : ExchangeGroup) (p : Posted) : List (Nat × Nat) :=
  let ctx := serveCtx s g
  let ver := if hdrVpin p.words then some (hdrVersion p.words) else none
  (pieceTables p.words p.body).flatMap (ownRanges s g) ++ (pieceBags p).flatMap (fun b => match ownTable s g b.1.table with
    | .error _ => []
    | .ok t => b.2.1.flatMap (fun r =>
        (if t.mutable_ then [(t.mapBase + 16 * t.localRow r, 16)] else [])
        ++ (match rowPlace s g.party ctx t r ver with
          | .ok (a, false) => [(a, t.rowBytes)]
          | _ => [])))

/-- Whether a pinned version exists at this owner (R311). -/
def versionOk (t : TableRec) (v : Nat) : Bool := v == t.curVer || (t.mutable_ && (v + 1) % 2 ^ 32 == t.curVer)

/-- A LOOKUP piece served. -/
def serveLookup (g : ExchangeGroup) (p : Posted) (s : State) : State :=
  let ctx := serveCtx s g
  let bags := pieceBags p
  let tabs := bags.map (fun b => ownTable s g b.1.table)
  let badTab := (tabs.zipIdx).findSome? (fun t => match t.1 with
    | .error st => some (st, t.2)
    | .ok x => if !x.ok g.party then some (Status.faultPermission, t.2) else none)
  match badTab with
  | some (st, k) => answer g p st 0 bags.length (faultDetail st 0 (8 * k)) [] s
  | none =>
    if p.verBad || hdrVpin p.words && tabs.any (fun t => match t with | .ok x => !versionOk x (hdrVersion p.words) | .error _ => false)
    then answer g p .faultUnmapped 0 bags.length (operandDetail 4 0) [] s
    else
      awaitHost g p (hostRows s g p) (servedReads g p (lookupReads s g p) (fun s =>
        let ver := if hdrVpin p.words then some (hdrVersion p.words) else none
        let res := (bags.zip tabs).map (fun b => match b.2 with
          | .ok t => (t.dim, serveBag s g.party ctx t ver p.host b.1.1 b.1.2.1 b.1.2.2)
          | .error st => (0, .error st))
        let hard := (res.zipIdx).findSome? (fun r => match r.1.2 with
          | .error st => if st == .poison || st == .uncorrectable then none else some (st, r.2)
          | .ok _ => none)
        match hard with
        | some (st, k) => answer g p st 0 bags.length (faultDetail st 0 (8 * k)) [] s
        | none =>
          let body := res.flatMap (fun r =>
            let v := match r.2 with | .ok l => l | .error _ => List.replicate r.1 f32Nan
            padTo ((4 * r.1 + 63) / 64 * 64) (bytes32 v))
          let st := res.foldl (fun a r => match r.2 with | .error x => worseData a x | .ok _ => a) Status.ok
          answer g p st 0 bags.length 0 body s)) s

/-! ## The owner: UPDATE (R309) -/

def stagedRow (s : State) (group table row : Nat) : Option Staged :=
  s.exch.staged.find? (fun x => x.group == group && x.table == table && x.row == row)

def putStaged (x : Staged) (s : State) : State :=
  { s with exch := { s.exch with
    staged := s.exch.staged.filter (fun y => !(y.group == x.group && y.table == x.table && y.row == x.row)) ++ [x] } }

/-- The updates of a piece: entry and data. -/
def pieceUpdates (s : State) (g : ExchangeGroup) (p : Posted) : List (UpdEntry × TableRec × Bytes) :=
  let n := hdrCount p.words
  ((chop 16 n p.body).map (fun b => updEntry (words64 2 b))).filterMap (fun e =>
    match ownTable s g e.table with
    | .ok t => some (e, t, (p.body.drop (16 * n + e.off)).take (updBytes t e))
    | .error _ => none)

/-- Staging bytes and slots a piece needs beyond what is staged. -/
def updateNeeds (s : State) (group : Nat) (us : List (UpdEntry × TableRec × Bytes)) : Nat × List (Nat × Nat) :=
  let rows := (us.map (fun u => (u.1.table, u.1.row))).eraseDups
  let adds := ((us.filter (fun u => u.1.add)).map (fun u => (u.1.table, u.1.row, u.2.1.dim))).eraseDups
  let fresh := rows.filter (fun r => (stagedRow s group r.1 r.2).isNone)
  let freshAdds := adds.filter (fun a => match stagedRow s group a.1 a.2.1 with | some x => x.adds.isEmpty | none => true)
  (64 * fresh.length + (freshAdds.map (fun a => 4 * a.2.2)).sum, fresh)

/-- One update applied to its open step. -/
def applyUpdate (g : ExchangeGroup) (node : Nat) (u : UpdEntry × TableRec × Bytes) (s : State) : State :=
  let (e, t, d) := u
  let ctx := serveCtx s g
  let l := t.localRows (shardPos s g.party ctx t)
  let x := (stagedRow s g.group e.table e.row).getD { group := g.group, table := e.table, row := e.row, bytes := 64 }
  if e.add then
    putStaged { x with adds := x.adds ++ [words32 t.dim d], bytes := 64 + 4 * t.dim } s
  else if x.slot.isSome && node < x.winner then s
  else
    let (k, s) := match x.slot with
      | some k => (k, s)
      | none => takeSlot g.party ctx t l s
    let s := (vwrite g.party ctx (slotAddr t l k).1 d s).2
    putStaged { x with slot := some k, winner := node } s

/-- The slots that will next be taken from a table's free stack, topped by some more, and the bytes of the stack that say so. -/
def nextSlots (s : State) (party : Nat) (ctx : Option Ctx) (t : TableRec) (l : Nat) (top : List Nat) (k : Nat) : List Nat × List (Nat × Nat) :=
  let a := freeStack t l
  let (n, f) := stackHead s party ctx a
  let m := min n k
  let old := match vread s party ctx (a + 8 + 4 * (n - m)) (4 * m) with
    | .ok d => words32 m d
    | .fail _ _ => []
  let all := (old ++ top).reverse
  (all.take k ++ rangeFrom (l + f) (k - all.length), [(a, 8), (a + 8 + 4 * (n - m), 4 * (m + top.length))])

/-- Slots of a table as ranges of its backed memory. -/
def slotRanges (t : TableRec) (l : Nat) (ks : List Nat) : List (Nat × Nat) :=
  ks.filterMap (fun k => let a := slotAddr t l k
                         if a.2 then none else some (a.1, t.rowBytes))

/-- What an UPDATE piece changes: the free stacks of its tables and the slots that it fills. -/
def updateWrites (s : State) (g : ExchangeGroup) (us : List (UpdEntry × TableRec × Bytes)) : List (Nat × Nat) :=
  let ctx := serveCtx s g
  ((us.map (fun u => (u.1.table, u.2.1))).eraseDups).flatMap (fun t =>
    let l := t.2.localRows (shardPos s g.party ctx t.2)
    let rows := ((us.filter (fun u => u.1.table == t.1)).map (·.1.row)).eraseDups
    let held := rows.filterMap (fun r => (stagedRow s g.group t.1 r).bind (·.slot))
    let (ks, stack) := nextSlots s g.party ctx t.2 l [] rows.length
    stack ++ slotRanges t.2 l (held ++ ks))

/-- An UPDATE piece applied whole, or not at all, with what it changes in DRAM. -/
def serveUpdate (g : ExchangeGroup) (p : Posted) (s : State) : State :=
  let us := pieceUpdates s g p
  let ctx := serveCtx s g
  servedReads g p ((pieceTables p.words p.body).flatMap (ownRanges s g)) (vAtRest true ctx (updateWrites s g us) (fun s =>
    let n := hdrCount p.words
    let used := ((s.exch.staged.filter (fun x => x.group == g.group)).map (·.bytes)).sum
    let (need, fresh) := updateNeeds s g.group us
    let tables := (us.map (fun u => (u.1.table, u.2.1))).eraseDups
    let noSlot := tables.any (fun t =>
      let l := t.2.localRows (shardPos s g.party ctx t.2)
      let promised := (s.exch.staged.filter (fun x => x.group == g.group && x.table == t.1 && x.slot.isNone)).length
      slotsLeft s g.party ctx t.2 l < promised + (fresh.filter (fun r => r.1 == t.1)).length)
    if us.length < n || us.any (fun u => !u.2.1.mutable_ || u.2.1.rows ≤ u.1.row)
        || (serveParam s g).stage < used + need || noSlot then
      answer g p .faultPermission 0 n 0 [] s
    else answer g p .ok 0 n 0 [] (us.foldl (fun s u => applyUpdate g p.node u s) s))) s

/-! ## The owner: COMMIT (R310) -/

/-- The pieces that hold a version of a table older than its current one. -/
def olderHeld (s : State) (group table cur : Nat) : Bool :=
  s.exch.posted.any (fun p => p.group == group && hdrKind p.words == 1
    && p.held.any (fun h => h.1 == table && serCmp 32 h.2 cur == .older))

/-- Step 2: the retire list goes back to the free stack. -/
def recycle (party : Nat) (ctx : Option Ctx) (t : TableRec) (l : Nat) (s : State) : State :=
  let (n, f) := stackHead s party ctx (retireList t l)
  let ks := match vread s party ctx (retireList t l + 8) (4 * n) with | .ok d => words32 n d | .fail _ _ => []
  putHead party ctx (retireList t l) 0 f (ks.foldl (fun s k => pushSlot party ctx (freeStack t l) k s) s)

/-- Steps 3 to 5 for one staged row: the ADDs summed in no fixed order (R309), whatever has been added rounded once to FORMAT. -/
def commitRow (g : ExchangeGroup) (t : TableRec) (l : Nat) (host : List (Nat × Option Bytes)) (x : Staged) (s : State) : Status × State :=
  let party := g.party
  let ctx := serveCtx s g
  let r := t.localRow x.row
  match readMap s party ctx t r with
  | .error st => (st, s)
  | .ok e =>
    let old := rowSlot e r none
    let src := match x.slot with | some k => k | none => old
    match rowValues s party ctx t host (slotAddr t l src) with
    | .error st => (st, s)
    | .ok vs =>
      let (k, s) := match x.slot with | some k => (k, s) | none => takeSlot party ctx t l s
      let s := if x.adds.isEmpty then s
        else
          match elemFmt t.format with
          | none => s
          | some f =>
            let acc := fun (i : Nat) => anyOrder x.adds.length (x.adds.map (fun a => fp32.decode (nth 0 a i)))
            let sums := (vs.zipIdx).map (fun v => f.encode false (v.1.add (fp32.decode (acc v.2))))
            (vwrite party ctx (slotAddr t l k).1 (packBits (elemBits t.format) sums) s).2
      let ver := (t.curVer + 1) % 2 ^ 32
      let s := (vwrite party ctx (t.mapBase + 16 * r) (bytes64 [at' k 32 + old, at' ver 32 + at' 1 31]) s).2
      let homeTail := old == r && t.hotRows ≤ r && r < l
      (.ok, if homeTail then s else pushSlot party ctx (retireList t l) old s)

def commitRows (g : ExchangeGroup) (t : TableRec) (l : Nat) (host : List (Nat × Option Bytes)) : List Staged → State → Status × State
  | [], s => (.ok, s)
  | x :: rest, s =>
    match commitRow g t l host x s with
    | (.ok, s) => commitRows g t l host rest s
    | (st, s) => (st, s)

/-- Host rows that a COMMIT adds to (R296). -/
def commitHostRows (s : State) (g : ExchangeGroup) (t : TableRec) (l : Nat) (xs : List Staged) : List (Nat × Nat) :=
  ((xs.filter (fun x => x.slot.isNone)).filterMap (fun x => match readMap s g.party (serveCtx s g) t (t.localRow x.row) with
    | .ok e => let a := slotAddr t l (rowSlot e (t.localRow x.row) none)
               if a.2 then some (a.1, t.rowBytes) else none
    | .error _ => none)).eraseDups

/-- What a COMMIT reads: the rows that it adds to, beside the record of its table. -/
def commitReads (s : State) (g : ExchangeGroup) (t : TableRec) (l : Nat) (xs : List Staged) : List (Nat × Nat) :=
  slotRanges t l (xs.filterMap (fun x => match x.slot, readMap s g.party (serveCtx s g) t (t.localRow x.row) with
    | none, .ok e => some (rowSlot e (t.localRow x.row) none)
    | _, _ => none))

/-- What it changes: the map entries, the two stacks, the slots that it fills, and CUR_VER. -/
def commitWrites (s : State) (g : ExchangeGroup) (n : Nat) (t : TableRec) (l : Nat) (xs : List Staged) : List (Nat × Nat) :=
  let ctx := serveCtx s g
  let a := retireList t l
  let (m, _) := stackHead s g.party ctx a
  let back := match vread s g.party ctx (a + 8) (4 * m) with
    | .ok d => words32 m d
    | .fail _ _ => []
  let (ks, stack) := nextSlots s g.party ctx t l back (xs.filter (fun x => x.slot.isNone)).length
  tableAt (serveParam s g) n :: (a, 8 + 4 * max m xs.length) :: stack ++ xs.map (fun x => (t.mapBase + 16 * t.localRow x.row, 16))
    ++ slotRanges t l (xs.filterMap (·.slot) ++ ks)

/-- Steps 2 to 6 of R310, and the reply. -/
def commitTable (g : ExchangeGroup) (p : Posted) (t : TableRec) (l : Nat) (xs : List Staged) (s : State) : State :=
  let n := hdrTable p.words
  let (st, s) := commitRows g t l p.host xs (recycle g.party (serveCtx s g) t l s)
  let s := { s with exch := { s.exch with committing := s.exch.committing.filter (· != (g.group, n)) } }
  if st != .ok then answer g p st 0 0 0 [] s
  else
    let ver := (t.curVer + 1) % 2 ^ 32
    let s := { s with exch := { s.exch with staged := s.exch.staged.filter (fun x => !(x.group == g.group && x.table == n)) } }
    answer g p .ok ver 0 0 [] (vwrite g.party (serveCtx s g) ((serveParam s g).dir + 64 * n) (toBytes ver 4) s).2

/-- OWNER_COMMIT (R310): the COMMIT piece of a requester runs once the UPDATE pieces posted before it are applied (R309) and no piece holds a
version older than the current one. -/
def ownerCommit (group node : Nat) (s : State) : State :=
  match groupOf s group, s.exch.posted.find? (fun p => p.group == group && p.node == node && hdrKind p.words == 3) with
  | some g, some p =>
    let n := hdrTable p.words
    let before := s.exch.posted.takeWhile (fun x => x != p)
    if !servingOk s g then answer g p .cancelled 0 0 0 [] s
    else if noMills s g.party then answer g p .faultPermission 0 0 0 [] s
    else if (rillOf s g.serveRill).kind != 3 || before.any (fun x => x.group == group && (pieceTables x.words x.body).contains n
        && (hdrKind x.words == 2 || hdrKind x.words == 3)) then s
    else match ownTable s g n with
      | .error st => answer g p st 0 0 (faultDetail st 0 0) [] s
      | .ok t =>
        if !t.mutable_ then answer g p .ok t.curVer 0 0 [] s
        else
          let q := { p with working := true }
          let s := updPosted p (fun _ => q) { s with exch := { s.exch with
            committing := if s.exch.committing.contains (group, n) then s.exch.committing else s.exch.committing ++ [(group, n)] } }
          if olderHeld s group n t.curVer then s
          else
            let l := t.localRows (shardPos s g.party (serveCtx s g) t)
            let mine := s.exch.staged.filter (fun x => x.group == group && x.table == n)
            awaitHost g q (commitHostRows s g t l mine) (servedReads g q (ownRanges s g n ++ commitReads s g t l mine)
              (vAtRest true (serveCtx s g) (commitWrites s g n t l mine) (commitTable g q t l mine))) s
  | _, _ => s

def execOwnerCommit (group : Fin 16) (node : Fin 1024) (s : State) : Host.Outcome State Fault Refusal :=
  .next (replyPump (ownerCommit group node (absorb s)))

end Sys2Proof.Machine
end

