-- ==== Sys2Proof/Machine/Search.lean ====
section
/-!
DEFINITION. SEARCH rills (chapter 13): index records, walks and scans of a shard, INSERT, DELETE, ADVANCE and CHECK, and the
descriptors of the requester.
-/
namespace Sys2Proof.Machine

open Sys2Proof

/-! ## Parameters and index records (Tables 13-1, 13-2) -/

structure SearchParam where
  group   : Nat
  serving : Bool
  indexes : Nat
  hops    : Nat
  probes  : Nat
  dir     : Nat
  deriving DecidableEq, Repr

def searchParam (ws : List Nat) : SearchParam :=
  let w := nth 0 ws 0
  { group := bits w 60 4, serving := bit w 59, indexes := bits w 32 12 + 1, hops := bits w 16 16, probes := bits w 8 8 + 1
    dir := nth 0 ws 1 }

/-- R313: a parameter block within Table 13-1, set RSVD bits breaking it too (DESIGN CHOICE, log entry 68). -/
def searchParamOk (ws : List Nat) : Bool :=
  let w := nth 0 ws 0
  bits w 44 15 == 0 && bits w 16 16 != 0 && bits w 0 8 == 0 && nth 0 ws 1 % 64 == 0 && (ws.drop 2).all (· == 0)

structure IndexRec where
  graphOk : Bool
  graphItems : Nat
  entry   : Nat
  purge   : Nat
  nbrBase : Nat
  cur     : Nat
  items   : Nat
  metric  : Nat
  valid   : Bool
  format  : Nat
  dim     : Nat
  degree  : Nat
  shards  : Nat
  slot    : Nat
  cbGen   : Nat
  lists   : Nat
  capacity : Nat
  walkBase : Nat
  fullBase : Nat
  idBase  : Nat
  centBase : Nat
  listBase : Nat
  shardList : Nat
  deriving DecidableEq, Repr, Inhabited

def indexRec (ws : List Nat) : IndexRec :=
  let w16 := nth 0 ws 16
  let w17 := nth 0 ws 17
  { graphOk := bit (nth 0 ws 0) 63, graphItems := bits (nth 0 ws 0) 0 32, entry := bits (nth 0 ws 1) 32 32
    purge := bits (nth 0 ws 1) 0 32, nbrBase := nth 0 ws 2, cur := bits (nth 0 ws 8) 32 32, items := bits (nth 0 ws 8) 0 32
    metric := bits w16 62 2, valid := bit w16 61, format := bits w16 57 4, dim := bits w16 45 12 + 1, degree := bits w16 39 6 + 1
    shards := bits w16 29 10 + 1, slot := bits w16 17 12, cbGen := bits w17 48 16, lists := bits w17 32 16 + 1
    capacity := bits w17 0 32, walkBase := nth 0 ws 18, fullBase := nth 0 ws 19, idBase := nth 0 ws 20, centBase := nth 0 ws 21
    listBase := nth 0 ws 22, shardList := nth 0 ws 23 }

def indexAddr (p : SearchParam) (i : Nat) : Nat := p.dir + 192 * i

/-- Record i of a rill's directory; one that does not exist or is not within Table 13-2 gives FAULT_PERMISSION. -/
def readIndex (rd : Nat → Nat → VGot) (p : SearchParam) (i : Nat) : Except Status IndexRec :=
  if p.indexes ≤ i then .error .faultPermission
  else match rd (indexAddr p i) 192 with
    | .ok d =>
      let x := indexRec (words64 24 d)
      if x.valid && x.metric ≤ 2 && x.format ≤ 2 then .ok x else .error .faultPermission
    | .fail st _ => .error st

/-- GRAPH_OK of a record written, the rest of its word kept (R317). -/
def setGraphOk (party : Nat) (ctx : Option Ctx) (p : SearchParam) (i : Nat) (ok : Bool) (s : State) : Option (Status × Nat) × State :=
  match vread s party ctx (indexAddr p i) 8 with
  | .fail st o => (some (st, o), s)
  | .ok d => vwrite party ctx (indexAddr p i) (toBytes (at' (b2n ok) 63 + ofBytes d % 2 ^ 63) 8) s

/-- Whether a record is VALID and has GRAPH_OK set. -/
def graphSet (s : State) (party : Nat) (ctx : Option Ctx) (p : SearchParam) (i : Nat) : Bool :=
  match vread s party ctx (indexAddr p i) 192 with
  | .ok d => (indexRec (words64 24 d)).valid && (indexRec (words64 24 d)).graphOk
  | .fail _ _ => false

/-- Strides of R314: full vectors, neighbour lists and walk records. -/
def IndexRec.full (x : IndexRec) : Nat := (runBytes x.format x.dim + 63) / 64 * 64
def IndexRec.nbr (x : IndexRec) : Nat := (4 * x.degree + 63) / 64 * 64
def IndexRec.codes (x : IndexRec) (k : Slot) : Nat := x.dim / dOf k.dCode * (if k.two then 2 else 1)
def IndexRec.walk (x : IndexRec) (k : Slot) : Nat := (16 + x.codes k + 63) / 64 * 64

/-- R315: the checks at the start of a piece. -/
def indexBad (s : State) (party : Nat) (x : IndexRec) : Option Status :=
  let k := slotOf s x.slot
  if x.dim % dOf k.dCode != 0 || 256 < x.codes k || (x.graphOk && x.graphItems ≤ x.entry) || x.capacity < x.items
  then some .faultPermission
  else if !slotUsable s party x.slot then some .refusedIsolation
  else if !slotMatches s x.slot x.cbGen s.weir.nextId then some .faultUnmapped
  else none

/-! ## Keys (R316) -/

def f32one : Nat := 0x3F800000

/-- The dot product of two vectors in FP32 (Table 09-4). -/
def dotKey (format : Nat) (a b : Vec) : Nat :=
  anyOrder (dotBound format a.length) ((a.zip b).map (fun p => p.1.mul p.2))

def negKey (k : Nat) : Nat := fp32.encode (fp32.decode k).neg

/-- A vector times rsqrt of its own dot product, in FP32. -/
def normalise (format : Nat) (x : Vec) : Vec :=
  let r := vfn 2 (dotKey format x x)
  x.map (fun v => fp32.decode (f32mul (fp32.encode v) r))

/-- The query as the keys use it: q̂ for COSINE. -/
def keyQuery (x : IndexRec) (q : Vec) : Vec := if x.metric == 1 then normalise x.format q else q

/-- Exact key of a vector for a query from keyQuery (Table 13-4). -/
def exactKey (x : IndexRec) (q v : Vec) : Nat :=
  match x.metric with
  | 0 => negKey (dotKey x.format q v)
  | 1 => f32sub f32one (dotKey x.format q v)
  | _ => dist2 q v

/-- Table entries of a query from one book: [s][c] (Table 13-4), FP32 for 33 to 64 subspaces, else rounded to FP16. -/
def keyTable (x : IndexRec) (d : Nat) (q : Vec) (book : List Nat) : List Nat :=
  let subs := x.dim / d
  (List.range subs).flatMap (fun k => (List.range 256).map (fun c =>
    let qs := (q.drop (d * k)).take d
    let v := bookVec book d c
    let e := if x.metric == 2 then dist2 qs v else negKey (dotKey x.format qs v)
    if 32 < subs && subs ≤ 64 then e else fp32.encode (fp16.decode (fp16.encode (fp32.decode e)))))

/-- The tables of a query: the primary book's and, with two stages, the residual book's. -/
def keyTables (x : IndexRec) (k : Slot) (q : Vec) : List Nat × List Nat :=
  let d := dOf k.dCode
  (keyTable x d q k.book, if k.two then keyTable x d q k.resid else [])

/-- Approximate key of a code row: the look-ups added in ascending subspace order (R241), and 1 for COSINE. -/
def codeKey (x : IndexRec) (k : Slot) (t : List Nat × List Nat) (row : Bytes) : Nat :=
  let subs := x.dim / dOf k.dCode
  let es := (List.range subs).flatMap (fun i =>
    if k.two then [nth 0 t.1 (256 * i + (nth 0#8 row (2 * i)).toNat), nth 0 t.2 (256 * i + (nth 0#8 row (2 * i + 1)).toNat)]
    else [nth 0 t.1 (256 * i + (nth 0#8 row i).toNat)])
  let sum := (es.drop 1).foldl f32add (es.headD 0)
  if x.metric == 1 then f32add sum f32one else sum

/-! ## Items (Table 13-3) -/

structure Tag where
  add     : Nat
  del     : Nat
  tags    : Nat
  deleted : Bool
  deriving DecidableEq, Repr, Inhabited

def tagOf (bs : Bytes) : Tag :=
  let w0 := ofBytes (bs.take 8)
  let w1 := ofBytes ((bs.drop 8).take 8)
  { add := bits w0 32 32, del := bits w0 0 32, tags := bits w1 32 32, deleted := bit w1 31 }

def tagBytes (t : Tag) : Bytes := bytes64 [at' t.add 32 + t.del, at' t.tags 32 + at' (b2n t.deleted) 31]

/-- R322: visibility of an item below ITEMS. -/
def tagVisible (t : Tag) (e : Nat) : Bool := serCmp 32 t.add e != .newer && (!t.deleted || serCmp 32 t.del e == .newer)

structure Filter where
  mask : Nat
  mode : Nat
  deriving DecidableEq, Repr, Inhabited

def filterOf (w : Nat) : Filter := { mask := bits w 32 32, mode := bits w 30 2 }

/-- R320. -/
def tagPasses (f : Filter) (tags : Nat) : Bool :=
  match f.mode with
  | 0 => true
  | 1 => tags &&& f.mask == f.mask
  | 2 => tags &&& f.mask != 0
  | _ => tags &&& f.mask == 0

/-! ## A walk or scan of one query (R318 to R321) -/

/-- What a shard holds of a query: frontier, matches, visited ids, expansions, the data status and a status that ends the piece; and the virtual
ranges that have been read. -/
structure Walk where
  cq      : List (Nat × Nat) := []
  res     : List (Nat × Nat) := []
  visited : List Nat := []
  h       : Nat := 0
  data    : Status := .ok
  hard    : Option Status := none
  reads   : List (Nat × Nat) := []
  deriving DecidableEq, Repr, Inhabited

/-- What a walk reads, fixed at the start of the piece. -/
structure Ground where
  party : Nat
  ctx   : Option Ctx
  x     : IndexRec
  slot  : Slot
  table : List Nat × List Nat
  q     : Vec
  epoch : Nat
  filter : Filter
  ef    : Nat
  deriving DecidableEq, Repr

/-- A read's failure: POISON and UNCORRECTABLE take away what was read, any other status ends the piece (R328). -/
def Walk.fail (w : Walk) (st : Status) : Walk :=
  if st == .poison || st == .uncorrectable then { w with data := worseData w.data st }
  else { w with hard := w.hard.orElse (fun _ => some st) }

def Walk.visit (w : Walk) (u : Nat) : Walk :=
  if w.visited.length < 8192 then { w with visited := u :: w.visited } else w

/-- A range read by a walk. -/
def Walk.look (s : State) (g : Ground) (va len : Nat) (w : Walk) : VGot × Walk :=
  (vread s g.party g.ctx va len, { w with reads := (va, len) :: w.reads })

/-- Item u scored: into the frontier when it is walked through, and into `res` when it matches. -/
def scoreItem (s : State) (g : Ground) (frontier : Bool) (u : Nat) (w : Walk) : Walk :=
  match Walk.look s g (g.x.walkBase + u * g.x.walk g.slot) (16 + g.x.codes g.slot) w with
  | (.fail st _, w) => w.fail st
  | (.ok d, w) =>
    let t := tagOf d
    let k := codeKey g.x g.slot g.table (d.drop 16)
    let w := if frontier then { w with cq := (cqTake g.ef w.cq (k, u)).1 } else w
    if u < g.x.items && tagVisible t g.epoch && tagPasses g.filter t.tags
    then { w with res := (cqTake g.ef w.res (k, u)).1 } else w

/-- The neighbours of an item from place i on, up to the first that cannot be read. -/
def walkNbrs (s : State) (g : Ground) (v : Nat) : Nat → Nat → Walk → Walk
  | 0, _, w => w
  | n + 1, i, w =>
    match Walk.look s g (g.x.nbrBase + v * g.x.nbr + 4 * i) 4 w with
    | (.fail st _, w) => w.fail st
    | (.ok d, w) =>
      let u := ofBytes d
      if u == 0xFFFFFFFF || g.x.graphItems ≤ u || w.visited.contains u then walkNbrs s g v n (i + 1) w
      else walkNbrs s g v n (i + 1) (scoreItem s g true u (w.visit u))

/-- The loop of expand() up to a number of expansions. -/
def expandLoop (s : State) (g : Ground) (hops : Nat) : Nat → Walk → Walk
  | 0, w => w
  | fuel + 1, w =>
    if hops ≤ w.h || w.hard.isSome then w
    else match w.cq with
      | [] => w
      | (kv, v) :: rest =>
        let w := { w with cq := rest }
        let worst := match w.res.getLast? with | some r => f32lt r.1 kv | none => false
        if w.res.length == g.ef && worst then w
        else expandLoop s g hops fuel (walkNbrs s g v g.x.degree 0 { w with h := w.h + 1 })

/-- A graph walk, widened once when fewer than K match (R318, R320): the walk, and whether it widened. -/
def graphWalk (s : State) (g : Ground) (k hops wide : Nat) : Walk × Bool :=
  let w := scoreItem s g true g.x.entry (({} : Walk).visit g.x.entry)
  let w := expandLoop s g hops hops w
  let w := (rangeFrom g.x.graphItems (g.x.items - g.x.graphItems)).foldl (fun w u => scoreItem s g false u w) w
  if w.res.length < k then (expandLoop s g (max hops wide) (max hops wide) w, true) else (w, false)

/-- The lists of an index in key order for a query, and what reading the centroids met. -/
def listOrder (s : State) (g : Ground) (w : Walk) : Walk × List Nat :=
  let keys := (List.range g.x.lists).map (fun c =>
    match vread s g.party g.ctx (g.x.centBase + c * g.x.full) (runBytes g.x.format g.x.dim) with
    | .fail st _ => Except.error st
    | .ok d => .ok (exactKey g.x g.q ((readRun g.x.format g.x.dim d).map Elem.val), c))
  let w := { w with reads := (List.range g.x.lists).map (fun c => (g.x.centBase + c * g.x.full, runBytes g.x.format g.x.dim)) ++ w.reads }
  let w := keys.foldl (fun (w : Walk) r => match r with | .error st => w.fail st | .ok _ => w) w
  let es := keys.filterMap (fun r => match r with | .ok e => some e | .error _ => none)
  (w, (cqTakeAll g.x.lists es []).1.map (·.2))

/-- The entries of a list from place i on, up to the first that cannot be read. -/
def scanEntries (s : State) (g : Ground) (addr : Nat) : Nat → Nat → Walk → Walk
  | 0, _, w => w
  | n + 1, i, w =>
    match Walk.look s g (addr + 4 * i) 4 w with
    | (.fail st _, w) => w.fail st
    | (.ok d, w) =>
      let u := ofBytes d
      if g.x.items ≤ u then scanEntries s g addr n (i + 1) w
      else scanEntries s g addr n (i + 1) (scoreItem s g false u w)

/-- (LIST_ADDR, CAP, COUNT) of a list. -/
def listEntry (s : State) (party : Nat) (ctx : Option Ctx) (x : IndexRec) (c : Nat) : Except Status (Nat × Nat × Nat) :=
  match vread s party ctx (x.listBase + 16 * c) 16 with
  | .fail st _ => .error st
  | .ok d => .ok (ofBytes (d.take 8), ofBytes ((d.drop 12).take 4), ofBytes ((d.drop 8).take 4))

/-- Lists scanned (R319), each with the COUNT it had at the start of the scan. -/
def scanLists (s : State) (g : Ground) (cs : List Nat) (w : Walk) : Walk :=
  cs.foldl (fun (w : Walk) c =>
    let w := { w with reads := (g.x.listBase + 16 * c, 16) :: w.reads }
    match listEntry s g.party g.ctx g.x c with
    | .error st => w.fail st
    | .ok (a, _, n) => scanEntries s g a n 0 w) w

/-- A cluster scan, widened once when fewer than K match (R319, R320). -/
def clusterScan (s : State) (g : Ground) (k probes wide : Nat) : Walk × Bool :=
  let (w, order) := listOrder s g {}
  let w := scanLists s g (order.take probes) w
  if w.res.length < k then (scanLists s g ((order.take (max probes wide)).drop probes) w, true) else (w, false)

/-- One result of a shard or of the merged list (Table 13-7). -/
structure Hit where
  id    : Nat
  key   : Nat
  local_ : Nat
  node  : Nat
  deriving DecidableEq, Repr, Inhabited

/-- Order of results: key, then NODE, then LOCAL (R321). -/
def hitLess (a b : Hit) : Bool :=
  f32lt a.key b.key || (!f32lt b.key a.key && (a.node < b.node || (a.node == b.node && a.local_ < b.local_)))

def hitPut (e : Hit) (l : List Hit) : List Hit :=
  if f32isNan e.key then l else l.takeWhile (fun y => hitLess y e) ++ [e] ++ l.dropWhile (fun y => hitLess y e)

def sortHits (l : List Hit) : List Hit := l.foldl (fun acc e => hitPut e acc) []

/-- R321: `res` reranked by exact keys from the full vectors. -/
def rerank (s : State) (g : Ground) (w : Walk) : Walk × List Hit :=
  w.res.foldl (fun (a : Walk × List Hit) r =>
    let w := { a.1 with reads := (g.x.fullBase + r.2 * g.x.full, runBytes g.x.format g.x.dim) :: (g.x.idBase + 8 * r.2, 8) :: a.1.reads }
    let full := vread s g.party g.ctx (g.x.fullBase + r.2 * g.x.full) (runBytes g.x.format g.x.dim)
    let idd := vread s g.party g.ctx (g.x.idBase + 8 * r.2) 8
    match full, idd with
    | .fail st _, _ => (w.fail st, a.2)
    | _, .fail st _ => (w.fail st, a.2)
    | .ok d, .ok i => (w, hitPut ⟨ofBytes i, exactKey g.x g.q ((readRun g.x.format g.x.dim d).map Elem.val), r.2, s.node⟩ a.2)) (w, [])

/-- An output header (Table 13-6). -/
structure QHeader where
  count  : Nat
  status : Status
  widened : Bool
  cluster : Bool
  epoch  : Nat
  hops   : Nat
  shards : Nat
  deriving DecidableEq, Repr, Inhabited

def qHeaderBytes (h : QHeader) : Bytes :=
  bytes64 [at' h.count 48 + at' (statusCode h.status) 40 + at' (b2n h.widened) 39 + at' (b2n h.cluster) 38 + h.epoch,
           at' (min h.hops 0xFFFFFFFF) 32 + h.shards, 0, 0]

def qHeader (bs : Bytes) : QHeader :=
  let w0 := ofBytes (bs.take 8)
  let w1 := ofBytes ((bs.drop 8).take 8)
  { count := bits w0 48 16, status := statusOf (bits w0 40 8), widened := bit w0 39, cluster := bit w0 38, epoch := bits w0 0 32
    hops := bits w1 32 32, shards := bits w1 0 32 }

def hitBytes (h : Hit) : Bytes := bytes64 [h.id, at' h.key 32 + h.local_, at' h.node 54, 0]

def hitOf (bs : Bytes) : Hit :=
  { id := ofBytes (bs.take 8), local_ := ofBytes ((bs.drop 8).take 4), key := ofBytes ((bs.drop 12).take 4)
    node := bits (ofBytes ((bs.drop 16).take 8)) 54 10 }

/-- Word 5 of a QUERY (Table 13-5): K, EF, HOPS, PROBES. -/
structure QueryShape where
  index  : Nat
  k      : Nat
  ef     : Nat
  hops   : Nat
  probes : Nat
  deriving DecidableEq, Repr

def queryShape (w : Nat) : QueryShape :=
  { index := bits w 52 12, k := bits w 42 10 + 1, ef := bits w 32 10 + 1, hops := bits w 16 16, probes := bits w 8 8 + 1 }

/-- One query served by this shard: its header and results, or the status that ends the piece, with what it read. -/
def serveQuery (s : State) (party : Nat) (ctx : Option Ctx) (p : SearchParam) (x : IndexRec) (qs : QueryShape) (epoch : Nat)
    (f : Filter) (q : Vec) : Except Status Bytes × List (Nat × Nat) :=
  let head : QHeader := { count := 0, status := .ok, widened := false, cluster := false, epoch, hops := 0, shards := 1 }
  let norm := fp32.decode (dotKey x.format q q)
  if !q.all FVal.isFin || (x.metric == 1 && norm.isZero) then (.ok (qHeaderBytes { head with status := .faultPermission }), [])
  else
    let k := slotOf s x.slot
    let q := keyQuery x q
    let g : Ground := { party, ctx, x, slot := k, table := keyTables x k q, q, epoch, filter := f, ef := qs.ef }
    let (w, wide) := if x.graphOk then graphWalk s g qs.k qs.hops p.hops else clusterScan s g qs.k qs.probes p.probes
    let (w, hits) := rerank s g w
    match w.hard with
    | some st => (.error st, w.reads)
    | none =>
      let hits := hits.take qs.k
      let h := { head with count := hits.length, status := w.data, widened := wide, cluster := !x.graphOk, hops := w.h }
      (.ok (qHeaderBytes h ++ hits.flatMap hitBytes), w.reads)

/-! ## The shard's side -/

def searchServe (s : State) (g : ExchangeGroup) : SearchParam := searchParam (rillOf s g.serveRill).params

/-- The epoch a QUERY piece holds from its posting: EPOCH when pinned, else CUR_EPOCH (R322). -/
def searchHold (s : State) (group : Nat) (ws : List Nat) (_body : Bytes) : List (Nat × Nat) :=
  match groupOf s group with
  | none => []
  | some g =>
    if hdrKind ws != 1 then []
    else [(hdrTable ws, if hdrVpin ws then hdrVersion ws
      else match readIndex (vread s g.party (serveCtx s g)) (searchServe s g) (hdrTable ws) with | .ok x => x.cur | .error _ => 0)]

/-- The versions or the epoch that a piece holds from its posting (R311, R322), by the kind of the group's serving rill. -/
def pieceHold (s : State) (g : ExchangeGroup) (ws : List Nat) (body : Bytes) : List (Nat × Nat) :=
  if (rillOf s g.serveRill).kind == 4 then searchHold s g.group ws body else embedHold s g.group ws body

/-- Whether a pinned LOOKUP piece names a version that does not exist as it is posted. One that waits for a COMMIT is checked after that. -/
def versionGone (s : State) (g : ExchangeGroup) (p : Posted) : Bool :=
  (rillOf s g.serveRill).kind == 3 && hdrKind p.words == 1 && hdrVpin p.words && !waitsCommit s p
    && (pieceTables p.words p.body).any (fun t => match readTable (vread s g.party (serveCtx s g)) (serveParam s g) t with
      | .ok x => !versionOk x (hdrVersion p.words)
      | .error _ => false)

/-- A message posted to the serving rill, or answered at once with CANCELLED while that is not ACTIVE (R303). -/
def postPiece (g : ExchangeGroup) (node : Nat) (ws : List Nat) (body : Bytes) (s : State) : State :=
  let p : Posted := { group := g.group, node, words := ws, body, held := pieceHold s g ws body }
  if !servingOk s g then answer g p .cancelled 0 (hdrCount ws) 0 [] s
  else
    let p := { p with verBad := versionGone s g p }
    { s with exch := { s.exch with posted := s.exch.posted ++ [p] } }

/-- R325: an ADVANCE waits for the INSERT and DELETE pieces posted before it, and they for an ADVANCE before them. -/
def waitsAdvance (s : State) (p : Posted) : Bool :=
  let k := hdrKind p.words
  let before := (s.exch.posted.takeWhile (fun x => x != p)).filter (fun x => x.group == p.group && hdrTable x.words == hdrTable p.words)
  (k == 4 && before.any (fun x => hdrKind x.words == 2 || hdrKind x.words == 3))
  || ((k == 2 || k == 3) && before.any (fun x => hdrKind x.words == 4))

/-- The record that a piece's index has in the serving rill's directory. -/
def indexRanges (s : State) (g : ExchangeGroup) (p : Posted) : List (Nat × Nat) :=
  if hdrTable p.words < (searchServe s g).indexes then [(indexAddr (searchServe s g) (hdrTable p.words), 192)] else []

def serveQueries (g : ExchangeGroup) (p : Posted) (x : IndexRec) (s : State) : State :=
  let ctx := serveCtx s g
  let n := hdrCount p.words
  let e := ((p.held.find? (fun h => h.1 == hdrTable p.words)).map (·.2)).getD x.cur
  if hdrVpin p.words && (serCmp 32 e x.purge == .older || serCmp 32 e x.cur == .newer) then
    answer g p .faultUnmapped 0 n (operandDetail 4 0) [] s
  else
    let shape := queryShape (nth 0 p.words 4)
    let out := (List.range n).map (fun i =>
      serveQuery s g.party ctx (searchServe s g) x shape e (filterOf (ofBytes ((p.body.drop (8 * i)).take 8)))
        ((readRun x.format x.dim ((p.body.drop (8 * n + i * x.full)).take (runBytes x.format x.dim))).map Elem.val))
    servedReads g p (indexRanges s g p ++ out.flatMap (·.2)) (fun s =>
      match out.findSome? (fun r => match r.1 with | .error st => some st | .ok _ => none) with
      | some st => answer g p st 0 n (faultDetail st 3 0) [] s
      | none => answer g p .ok 0 n 0 (out.flatMap (fun r => match r.1 with | .ok b => b | .error _ => [])) s) s

/-- The list of the smallest exact key (R323 step 3); where every key is NaN the spec names none. -/
def chooseList (s : State) (party : Nat) (ctx : Option Ctx) (x : IndexRec) (i : Nat) (v : Vec) : Except Status Nat :=
  let keys := (List.range x.lists).map (fun c =>
    match vread s party ctx (x.centBase + c * x.full) (runBytes x.format x.dim) with
    | .fail st _ => Except.error st
    | .ok d => .ok (exactKey x (keyQuery x v) ((readRun x.format x.dim d).map Elem.val), c))
  match keys.findSome? (fun r => match r with | .error st => some st | .ok _ => none) with
  | some st => .error st
  | none =>
    match (cqTakeAll 1 (keys.filterMap (fun r => match r with | .ok e => some e | .error _ => none)) []).1.head? with
    | some e => .ok e.2
    | none => .ok (Config.freeNat (s.freeCtr + i) % x.lists)

/-- Writes one after another until one fails. -/
def vwrites (party : Nat) (ctx : Option Ctx) : List (Nat × Bytes) → State → Option Status × State
  | [], s => (none, s)
  | (a, d) :: t, s =>
    match vwrite party ctx a d s with
    | (some (st, _), s) => (some st, s)
    | (none, s) => vwrites party ctx t s

/-- R323 steps 2 and 3 for one vector: (local id, its list, its vector as stored, id, tags). -/
def insertOne (party : Nat) (ctx : Option Ctx) (x : IndexRec) (u c : Nat) (full : Bytes) (id : Bytes) (tags : Nat) (s : State) :
    Option Status × State :=
  let k := slotOf s x.slot
  let d := dOf k.dCode
  let vec := (readRun x.format x.dim full).map Elem.val
  let codes := (subVecs d (x.dim / d) vec).flatMap (fun v => (codesOf k v).map (fun c => BitVec.ofNat 8 c))
  let tag := tagBytes { add := (x.cur + 1) % 2 ^ 32, del := 0, tags, deleted := false }
  match listEntry s party ctx x c with
  | .error st => (some st, s)
  | .ok (a, _, n) =>
    vwrites party ctx [(x.fullBase + u * x.full, full), (x.idBase + 8 * u, id), (x.walkBase + u * x.walk k, tag ++ codes),
                       (a + 4 * n, toBytes u 4), (x.listBase + 16 * c + 8, toBytes (n + 1) 4)] s

def insertAllOf (party : Nat) (ctx : Option Ctx) (x : IndexRec) : List (Nat × Nat × Bytes × Bytes × Nat) → State → Option Status × State
  | [], s => (none, s)
  | (u, c, full, id, tags) :: t, s =>
    match insertOne party ctx x u c full id tags s with
    | (none, s) => insertAllOf party ctx x t s
    | bad => bad

/-- What an INSERT piece changes: items from ITEMS on, the lists they go into, and ITEMS. -/
def insertWrites (s : State) (g : ExchangeGroup) (p : Posted) (x : IndexRec) (cs : List Nat) : List (Nat × Nat) :=
  let n := hdrCount p.words
  let k := slotOf s x.slot
  (x.fullBase + x.items * x.full, n * x.full) :: (x.idBase + 8 * x.items, 8 * n) :: (x.walkBase + x.items * x.walk k, n * x.walk k)
    :: (indexAddr (searchServe s g) (hdrTable p.words), 192) :: cs.eraseDups.flatMap (fun c => (x.listBase + 16 * c, 16) ::
      (match listEntry s g.party (serveCtx s g) x c with
      | .ok (a, _, m) => [(a + 4 * m, 4 * cs.countP (· == c))]
      | .error _ => []))

def serveInsert (g : ExchangeGroup) (p : Posted) (x : IndexRec) (s : State) : State :=
  let ctx := serveCtx s g
  let n := hdrCount p.words
  let raw := (List.range n).map (fun i =>
    (readRun x.format x.dim ((p.body.drop (i * x.full)).take (runBytes x.format x.dim))).map Elem.val)
  let vecs := raw.map (fun v => if x.metric == 1 then normalise x.format v else v)
  let stored := vecs.map (fun v => (writeRun x.format false (v.map Elem.f)).1)
  let asVec := stored.map (fun d => (readRun x.format x.dim d).map Elem.val)
  let chosen := (asVec.zipIdx).map (fun v => chooseList s g.party ctx x v.2 v.1)
  let cents := (List.range x.lists).map (fun c => (x.centBase + c * x.full, runBytes x.format x.dim))
  servedReads g p (indexRanges s g p ++ cents) (vAtRest true ctx (insertWrites s g p x (chosen.filterMap (fun r => r.toOption))) (fun s =>
    let s := { s with freeCtr := s.freeCtr + n }
    match chosen.findSome? (fun r => match r with | .error st => some st | .ok _ => none) with
    | some st => answer g p st 0 n (faultDetail st 3 0) [] s
    | none =>
      let cs := chosen.filterMap (fun r => match r with | .ok c => some c | .error _ => none)
      let full := cs.any (fun c => match listEntry s g.party ctx x c with
        | .ok (_, cap, cnt) => decide (cap < cnt + cs.countP (· == c))
        | .error _ => false)
      let lost := cs.findSome? (fun c => match listEntry s g.party ctx x c with
        | .ok _ => none
        | .error st => some st)
      if lost.isSome then answer g p (lost.getD .ok) 0 n 0 [] s
      else if x.capacity < x.items + n || 65536 < x.items + n - x.graphItems || full then answer g p .faultPermission 0 n 0 [] s
      else
        let idAt := n * x.full
        let items := (List.range n).map (fun i =>
          (x.items + i, nth 0 cs i, nth [] stored i, (p.body.drop (idAt + 8 * i)).take 8,
           ofBytes ((p.body.drop (idAt + 8 * n + 4 * i)).take 4)))
        match insertAllOf g.party ctx x items s with
        | (some st, s) => answer g p st 0 n (faultDetail st 3 0) [] s
        | (none, s) =>
          let s := (vwrite g.party ctx (indexAddr (searchServe s g) (hdrTable p.words) + 64) (toBytes (x.items + n) 4) s).2
          answer g p .ok 0 n 0 (bytes32 (items.map (·.1))) s)) s

def serveDelete (g : ExchangeGroup) (p : Posted) (x : IndexRec) (s : State) : State :=
  let ctx := serveCtx s g
  let n := hdrCount p.words
  let locals := (List.range n).map (fun i => ofBytes ((p.body.drop (8 * i)).take 4))
  match (locals.zipIdx).find? (fun u => x.items ≤ u.1) with
  | some u => answer g p .faultUnmapped 0 n (operandDetail 0 (8 * u.2)) [] s
  | none =>
    let tags := locals.map (fun u => (x.walkBase + u * x.walk (slotOf s x.slot), 16))
    servedReads g p (indexRanges s g p ++ tags) (vAtRest true ctx tags (fun s =>
      let (bad, s) := locals.foldl (fun (a : Option Status × State) u =>
        let s := a.2
        if a.1.isSome then a
        else
          let at_ := x.walkBase + u * x.walk (slotOf s x.slot)
          match vread s g.party ctx at_ 16 with
          | .fail st _ => (some st, s)
          | .ok d =>
            let t := tagOf d
            if t.deleted then (none, s)
            else
              let r := vwrite g.party ctx at_ (tagBytes { t with del := (x.cur + 1) % 2 ^ 32, deleted := true }) s
              (r.1.map (·.1), r.2)) (none, s)
      match bad with
      | some st => answer g p st 0 n (faultDetail st 0 0) [] s
      | none => answer g p .ok 0 n 0 [] s)) s

def serveAdvance (g : ExchangeGroup) (p : Posted) (x : IndexRec) (s : State) : State :=
  let e := hdrVersion p.words
  let ctx := serveCtx s g
  if (x.cur + 1) % 2 ^ 32 == e then
    servedReads g p (indexRanges s g p) (vAtRest true ctx (indexRanges s g p) (fun s =>
      let (bad, s) := vwrite g.party ctx (indexAddr (searchServe s g) (hdrTable p.words) + 68) (toBytes e 4) s
      match bad with
      | some (st, _) => answer g p st 0 0 (faultDetail st 3 0) [] s
      | none => answer g p .ok e 0 0 [] s)) s
  else if x.cur == e then answer g p .ok e 0 0 [] s
  else answer g p .faultPermission 0 0 0 [] s

/-- A piece of a search group served; the caller has checked the serving rill and its mills. -/
def serveSearch (g : ExchangeGroup) (p : Posted) (s : State) : State :=
  let n := hdrCount p.words
  match readIndex (vread s g.party (serveCtx s g)) (searchServe s g) (hdrTable p.words) with
  | .error st => answer g p st 0 n (faultDetail st 3 0) [] s
  | .ok x =>
    match indexBad s g.party x with
    | some st => answer g p st 0 n (faultDetail st 3 0) [] s
    | none =>
      let q := { p with slots := [x.slot], working := true }
      let s := if p.slots.isEmpty then addRef x.slot (updPosted p (fun _ => q) s) else updPosted p (fun _ => q) s
      let p := q
      match hdrKind p.words with
      | 1 => serveQueries g p x s
      | 2 => serveInsert g p x s
      | 3 => serveDelete g p x s
      | 4 => serveAdvance g p x s
      | _ => answer g p .faultPermission 0 n 0 [] s

/-! ## The requester's side (R326) -/

def searchOf (s : State) (rill : Nat) : SearchParam := searchParam (rillOf s rill).params

/-- INDEX of a SEARCH descriptor and its record. -/
def jobIndex (s : State) (j : Job) : Except Status IndexRec := readIndex (jread s j) (searchOf s j.rill) (bits (j.word 5) 52 12)

/-- The record of the index of a SEARCH descriptor. -/
def indexRange (s : State) (j : Job) : List (Nat × Nat) :=
  let p := searchOf s j.rill
  let i := bits (j.word 5) 52 12
  if i < p.indexes then [(indexAddr p i, 192)] else []

/-- Its shard list, once its record is here. -/
def shardRange (s : State) (j : Job) : List (Nat × Nat) :=
  match jobIndex s j with
  | .ok x => [(x.shardList, 2 * x.shards)]
  | .error _ => []

/-- The distinct nodes of an index's shards. -/
def shardNodes (s : State) (j : Job) (x : IndexRec) : Except Status (List Nat) :=
  nodeList (jread s j) x.shardList x.shards

structure QueryOps where
  n     : Nat
  pin   : Bool
  epoch : Nat
  deriving DecidableEq, Repr

def queryOps (j : Job) : QueryOps :=
  { n := bits (j.word 6) 52 12 + 1, pin := bit (j.word 6) 51, epoch := bits (j.word 6) 0 32 }

/-- The filters of a batch. -/
def batchFilters (s : State) (j : Job) (n : Nat) : List Nat :=
  if j.word 3 == 0 then List.replicate n 0
  else match jread s j (j.word 3) (8 * n) with
    | .ok d => words64 n d
    | .fail _ _ => []

def queryRanges (s : State) (j : Job) : List (Nat × Nat) :=
  match jobIndex s j with
  | .error _ => []
  | .ok x =>
    let n := (queryOps j).n
    (j.word 2, n * x.full) :: (if j.word 3 == 0 then [] else [(j.word 3, 8 * n)])

/-- Consecutive parts of at most k of n. -/
def partsOf (k : Nat) : Nat → Nat → Nat → List (Nat × Nat)
  | 0, _, _ => []
  | fuel + 1, first, n => if n == 0 then [] else (first, min k n) :: partsOf k fuel (first + min k n) (n - min k n)

def queryStart (j : Job) (s : State) : State :=
  let o := queryOps j
  let p := searchOf s j.rill
  let shape := queryShape (j.word 5)
  match jobIndex s j, groupOf s p.group with
  | .error st, _ => refuseOp j st 3 0 s
  | _, none => refuseOp j .faultPermission 3 0 s
  | .ok x, some g =>
    if shape.ef < shape.k || shape.hops == 0 then refuseOp j .faultPermission 3 0 s
    else match shardNodes s j x, jread s j (j.word 2) (o.n * x.full), jread s j (j.word 3) (if j.word 3 == 0 then 0 else 8 * o.n) with
      | .error st, _, _ => refuseOp j st 3 0 s
      | _, .fail st off, _ => refuseOp j st 0 off s
      | _, _, .fail st off => refuseOp j st 1 off s
      | .ok nodes, .ok vecs, .ok _ =>
        let fs := batchFilters s j o.n
        match (fs.zipIdx).find? (fun f => let x := filterOf f.1; (x.mode == 0) != (x.mask == 0)) with
        | some f => refuseOp j .faultPermission 1 (8 * f.2) s
        | none =>
          let per := min ((slotBytes g - 64) / (8 + x.full)) ((slotBytes g - 64) / (32 + 32 * shape.k))
          if per == 0 then refuseOp j .faultPermission 0 0 s
          else
            let piece (node : Nat) (q : Nat × Nat) : ExPiece :=
              let body := bytes64 ((fs.drop q.1).take q.2) ++ (vecs.drop (q.1 * x.full)).take (q.2 * x.full)
              { owner := node, first := q.1, body
                words := mkHeader 1 shape.index o.pin false (if o.pin then o.epoch else 0) q.2 body.length (j.word 5)
                bags := rangeFrom q.1 q.2 }
            let cuts := partsOf per o.n 0 o.n
            beginRun j p.group (nodes.eraseDups.flatMap (fun n => cuts.map (piece n))) (j.word 7) s

structure InsertOps where
  index : Nat
  shard : Nat
  n     : Nat
  deriving DecidableEq, Repr

def insertOps (j : Job) : InsertOps :=
  { index := bits (j.word 5) 52 12, shard := bits (j.word 5) 42 10, n := bits (j.word 5) 30 12 + 1 }

def insertRanges (s : State) (j : Job) : List (Nat × Nat) :=
  match jobIndex s j with
  | .error _ => []
  | .ok x =>
    let n := (insertOps j).n
    [(j.word 2, n * x.full), (j.word 3, 8 * n)] ++ (if j.word 4 == 0 then [] else [(j.word 4, 4 * n)])

def insertStart (j : Job) (s : State) : State :=
  let o := insertOps j
  let p := searchOf s j.rill
  match jobIndex s j, groupOf s p.group with
  | .error st, _ => refuseOp j st 3 0 s
  | _, none => refuseOp j .faultPermission 3 0 s
  | .ok x, some g =>
    if x.shards ≤ o.shard then refuseOp j .faultPermission 3 0 s
    else match shardNodes s j x, jread s j (j.word 2) (o.n * x.full), jread s j (j.word 3) (8 * o.n),
        jread s j (j.word 4) (if j.word 4 == 0 then 0 else 4 * o.n) with
      | .error st, _, _, _ => refuseOp j st 3 0 s
      | _, .fail st off, _, _ => refuseOp j st 0 off s
      | _, _, .fail st off, _ => refuseOp j st 1 off s
      | _, _, _, .fail st off => refuseOp j st 2 off s
      | .ok nodes, .ok vecs, .ok ids, .ok tags =>
        let per := (slotBytes g - 64) / (x.full + 12)
        if per == 0 then refuseOp j .faultPermission 0 0 s
        else
          let tags := padTo (4 * o.n) tags
          let piece (q : Nat × Nat) : ExPiece :=
            let body := (vecs.drop (q.1 * x.full)).take (q.2 * x.full) ++ (ids.drop (8 * q.1)).take (8 * q.2)
              ++ (tags.drop (4 * q.1)).take (4 * q.2)
            { owner := nth 0 nodes o.shard, first := q.1, body
              words := mkHeader 2 o.index false false 0 q.2 body.length (j.word 5), bags := rangeFrom q.1 q.2 }
          beginRun j p.group ((partsOf per o.n 0 o.n).map piece) (j.word 7) s

def deleteStart (j : Job) (s : State) : State :=
  let o := insertOps j
  let p := searchOf s j.rill
  match jobIndex s j, groupOf s p.group with
  | .error st, _ => refuseOp j st 3 0 s
  | _, none => refuseOp j .faultPermission 3 0 s
  | .ok x, some g =>
    match shardNodes s j x, jread s j (j.word 2) (8 * o.n) with
    | .error st, _ => refuseOp j st 3 0 s
    | _, .fail st off => refuseOp j st 0 off s
    | .ok nodes, .ok d =>
      let hs := ((words64 o.n d).map (fun w => (bits w 32 10, w))).zipIdx
      match hs.find? (fun h => !nodes.contains h.1.1) with
      | some h => refuseOp j .faultUnmapped 0 (8 * h.2) s
      | none =>
        let per := (slotBytes g - 64) / 8
        let pieces := ((hs.map (fun h => h.1.1)).eraseDups).flatMap (fun node =>
          let mine := hs.filter (fun h => h.1.1 == node)
          (partsOf per mine.length 0 mine.length).map (fun q =>
            let part := (mine.drop q.1).take q.2
            { owner := node, first := q.1, body := bytes64 (part.map (fun h => h.1.2))
              words := mkHeader 3 o.index false false 0 q.2 (8 * q.2) (j.word 5), bags := part.map (·.2) }))
        beginRun j p.group pieces 0 s

def advanceStart (j : Job) (s : State) : State :=
  let p := searchOf s j.rill
  match jobIndex s j, groupOf s p.group with
  | .error st, _ => refuseOp j st 3 0 s
  | _, none => refuseOp j .faultPermission 3 0 s
  | .ok x, some _ =>
    match shardNodes s j x with
    | .error st => refuseOp j st 3 0 s
    | .ok nodes =>
      beginRun j p.group (nodes.eraseDups.map (fun n =>
        { owner := n, words := mkHeader 4 (bits (j.word 5) 52 12) false false (bits (j.word 6) 0 32) 0 0 (j.word 5) })) 0 s

/-! ## Merging (R321, R327, R328) -/

/-- The header and results of query i of a reply. -/
def replyQuery : Nat → Bytes → Option (QHeader × List Hit)
  | 0, d => if d.length < 32 then none
    else
      let h := qHeader d
      some (h, (chop 32 h.count (d.drop 32)).map hitOf)
  | i + 1, d => if d.length < 32 then none else replyQuery i (d.drop (32 + 32 * (qHeader d).count))

/-- What every shard returned for query i of the batch. -/
def queryParts (r : ExchRun) (i : Nat) : List (QHeader × List Hit) :=
  r.pieces.filterMap (fun p => match p.reply, p.bags.findIdx? (· == i) with
    | some (_, body), some k => replyQuery k body
    | _, _ => none)

def olderEpoch (a b : Nat) : Nat := if serCmp 32 b a == .older then b else a

/-- A query's merged header and results. -/
def mergeQuery (k : Nat) (ps : List (QHeader × List Hit)) : QHeader × List Hit :=
  let hits := (sortHits (ps.flatMap (·.2))).take k
  let st : Status :=
    if ps.any (fun p => p.1.status == .faultPermission) then .faultPermission
    else if ps.any (fun p => p.1.status == .poison) then .poison
    else if ps.any (fun p => p.1.status == .uncorrectable) then .uncorrectable
    else if hits.length < k then .underfilled else .ok
  ({ count := hits.length, status := st, widened := ps.any (·.1.widened), cluster := ps.any (·.1.cluster)
     epoch := match ps with | [] => 0 | p :: t => t.foldl (fun e q => olderEpoch e q.1.epoch) p.1.epoch
     hops := min (ps.map (·.1.hops)).sum 0xFFFFFFFF, shards := ps.length }, hits)

/-- The first reply that ends a search descriptor. -/
def searchError (r : ExchRun) : Option (Status × Nat) :=
  r.pieces.findSome? (fun p => match p.reply with
    | some (ws, _) =>
      if hdrStatus ws == .ok then none
      else
        let d := hdrDetail ws
        let det := if bits d 60 4 == 0 && hdrStatus ws == .faultUnmapped then operandDetail 0 (8 * nth 0 p.bags (bits d 0 60 / 8)) else d
        some (hdrStatus ws, det)
    | none => none)

/-- Status and DETAIL of a QUERY from its queries' headers: the lowest-numbered query with bad data gives the status, POISON before
UNCORRECTABLE within it (R328; DEDUCED, log entry 70). -/
def queryResult (hs : List QHeader) : Status × Nat :=
  match hs.find? (fun h => h.status == .poison || h.status == .uncorrectable) with
  | some h => (h.status, 0)
  | none => match (hs.zipIdx).find? (fun h => h.1.status == .underfilled) with
    | some h => (.underfilled, at' h.2 32 + h.1.count)
    | none => (.ok, 0)

def searchMerge (j : Job) (r : ExchRun) : ExchRun :=
  match searchError r with
  | some (st, d) => { r with result := some (st, d, false) }
  | none =>
    match j.op with
    | 1 =>
      let o := queryOps j
      let k := (queryShape (j.word 5)).k
      let qs := (List.range o.n).map (fun i => mergeQuery k (queryParts r i))
      let (st, d) := queryResult (qs.map (·.1))
      { r with outs := (qs.zipIdx).map (fun q => (j.word 4 + q.2 * 32 * (k + 1), qHeaderBytes q.1.1 ++ q.1.2.flatMap hitBytes))
               result := some (st, d, false), advance := o.n * 32 * (k + 1) }
    | 2 =>
      let outs := if j.word 6 == 0 then [] else r.pieces.filterMap (fun p => p.reply.map (fun x => (j.word 6 + 4 * p.first, x.2)))
      { r with outs, result := some (.ok, 0, false) }
    | 4 => { r with result := some (.ok, bits (j.word 6) 0 32, false) }
    | _ => { r with result := some (.ok, 0, false) }

/-! ## The commands -/

/-- A search descriptor taken a step further: begun with its operands here, or pumped. -/
def searchStep (op : Nat) (ranges : State → Job → List (Nat × Nat)) (start : Job → State → State) (rill index : Nat) (s : State) : State :=
  let s := settle rill (absorb s)
  match findJob s rill index with
  | none => s
  | some j =>
    if j.kind != 4 || j.op != op || (!j.begun && (j.cut || j.withdrawn)) then s
    else if j.begun then exchPump postPiece rill index s
    else withOperands rill index (indexRange s j) (fun j s =>
      withOperands rill index (shardRange s j ++ ranges s j) (fun j s => exchPump postPiece rill index (start j s)) s) s

def execSearchQuery (rill index : Nat) (s : State) : Host.Outcome State Fault Refusal :=
  .next (searchStep 1 queryRanges queryStart rill index s)

def execInsert (rill index : Nat) (s : State) : Host.Outcome State Fault Refusal :=
  .next (searchStep 2 insertRanges insertStart rill index s)

def execDelete (rill index : Nat) (s : State) : Host.Outcome State Fault Refusal :=
  .next (searchStep 3 (fun _ j => [(j.word 2, 8 * (insertOps j).n)]) deleteStart rill index s)

def execIndexAdvance (rill index : Nat) (s : State) : Host.Outcome State Fault Refusal :=
  .next (searchStep 4 (fun _ _ => []) advanceStart rill index s)

/-- The first neighbour entry of an item that breaks R317: its offset and the status of its read, FAULT_PERMISSION where it is wrong. -/
def badNeighbour (s : State) (j : Job) (x : IndexRec) (v : Nat) : Option (Status × Nat) :=
  (List.range x.degree).findSome? (fun i =>
    let off := v * x.nbr + 4 * i
    match vread s j.party j.ctx (x.nbrBase + off) 4 with
    | .fail st _ => some (st, off)
    | .ok d =>
      let u := ofBytes d
      if u == 0xFFFFFFFF || (u < x.graphItems && u != v) then none else some (.faultPermission, off))

/-- CHECK ends: GRAPH_OK set in the record, its page PLAIN. -/
def checkEnd (j : Job) (x : IndexRec) (s : State) : State :=
  if x.items < x.graphItems then refuseOp j .faultPermission 3 0 s
  else vAtRest true j.ctx (indexRange s j) (fun s =>
    let (bad, s) := setGraphOk j.party j.ctx (searchOf s j.rill) (bits (j.word 5) 52 12) true s
    match bad with
    | some (st, _) => refuseOp j st 3 0 s
    | none => finishJob j .ok 0 false s) s

/-- The local shard's lists verified from an item on, up to one whose page is not in DRAM: that is brought, and the check goes on from there
(R65, R317). -/
def checkFrom (j : Job) (x : IndexRec) : Nat → Nat → State → State
  | 0, _, s => checkEnd j x s
  | n + 1, v, s =>
    let list := (x.nbrBase + v * x.nbr, 4 * x.degree)
    vAtRest false j.ctx [list] (fun s => match badNeighbour s j x v with
      | some (st, off) => refuseOp j st 3 off s
      | none => checkFrom j x n (v + 1) (countVirtual j.party j.ctx list.1 list.2 s))
      (updJob j.rill j.index (fun j => { j with next := v }) s)

/-- CHECK (R317): the local shard's lists verified and GRAPH_OK set. -/
def checkIndex (j : Job) (s : State) : State :=
  match jobIndex s j with
  | .error st => refuseOp j st 3 0 s
  | .ok x => checkFrom j x (x.graphItems - j.next) j.next s

def execCheck (rill index : Nat) (s : State) : Host.Outcome State Fault Refusal :=
  let s := settle rill (absorb s)
  .next (match findJob s rill index with
    | some j => if j.kind == 4 && j.op == 5 && !j.begun && !j.cut && !j.withdrawn then withOperands rill index (indexRange s j) checkIndex s else s
    | none => s)

end Sys2Proof.Machine
end

