-- ==== Sys2Proof/Machine/Serve.lean ====
section
/-!
DEFINITION. The exchange at work for both its users: LOOKUP, UPDATE and COMMIT descriptors, pieces served by a serving rill
(R303), and replies merged (R304, R308).
-/
namespace Sys2Proof.Machine

open Sys2Proof

/-- A store of a header word with KIND not 0 has been performed in slot n of a group's area (R302): the slot is posted. -/
def postSlot (g : ExchangeGroup) (n : Nat) (s : State) : State :=
  let off := g.areaOff + n * slotBytes g
  let (ws, body) := readMessage s off (slotBytes g)
  if hdrKind ws == 0 then s
  else if n < 1024 then postPiece g n ws body s
  else postReply g.group (n - 1024) ws body s

/-- Every reply of a run is here: its outputs and its result. -/
def mergeRun (rill index : Nat) (s : State) : State :=
  match findJob s rill index, findRun s rill index with
  | some j, some r =>
    if r.result.isSome || !j.begun || r.pieces.any (fun p => p.reply.isNone) then s
    else
      let r' := if j.kind == 4 then searchMerge j r else if j.op == 1 then lookupMerge j r s else stepMerge j r
      updRun rill index (fun _ => r') s
  | _, _ => s

/-- A running exchange descriptor taken a step further. -/
def runStepOn (rill index : Nat) (s : State) : State := exchPump postPiece rill index (mergeRun rill index s)

/-- Every exchange descriptor of the node taken a step further. -/
def runAll (s : State) : State := s.exch.runs.foldl (fun s r => runStepOn r.rill r.index s) s

/-! ## LOOKUP, UPDATE, COMMIT (R305, R306, R309, R310) -/

/-- The operands of a descriptor read in turn: a list, the records of the tables that it names, and what those records lead to. -/
def withTables (rill index : Nat) (list : List (Nat × Nat)) (tables : State → Job → List Nat) (more : State → Job → List (Nat × Nat))
    (start : Job → State → State) (s : State) : State :=
  let p := fun (s : State) (j : Job) => embedParam (rillOf s j.rill).params
  withOperands rill index list (fun j s =>
    withOperands rill index (tableRanges (p s j) (tables s j)) (fun j s =>
      withOperands rill index (shardRanges s j (p s j) (tables s j) ++ more s j) start s) s) s

def embedStep (op : Nat) (go : State → State) (rill index : Nat) (s : State) : State :=
  let s := settle rill (absorb s)
  match findJob s rill index with
  | none => s
  | some j =>
    if j.kind != 3 || j.op != op || (!j.begun && (j.cut || j.withdrawn)) then s
    else if j.begun then runStepOn rill index s
    else runStepOn rill index (go s)

def execLookup (rill index : Nat) (s : State) : Host.Outcome State Fault Refusal :=
  .next (embedStep 1 (fun s => withTables rill index
    (match findJob s rill index with | some j => [((lookupOps j).bags, 8 * (lookupOps j).n)] | none => [])
    lookupTables lookupRanges lookupStart s) rill index s)

def execUpdate (rill index : Nat) (s : State) : Host.Outcome State Fault Refusal :=
  .next (embedStep 2 (fun s => withTables rill index
    (match findJob s rill index with | some j => [(j.word 2, 16 * updCount j)] | none => [])
    updateTables updateRanges updateStart s) rill index s)

def execEmbedCommit (rill index : Nat) (s : State) : Host.Outcome State Fault Refusal :=
  .next (embedStep 3 (fun s => withTables rill index []
    (fun _ j => [bits (j.word 2) 0 12]) (fun _ _ => []) commitStart s) rill index s)

/-! ## Pieces served (R303) -/

/-- Whether a piece may be taken up now. -/
def pieceReady (s : State) (g : ExchangeGroup) (p : Posted) : Bool :=
  if (rillOf s g.serveRill).kind == 4 then !waitsAdvance s p
  else hdrKind p.words != 3 && !waitsCommit s p

/-- One piece served. A LOOKUP of host rows is taken up again when they are here. -/
def servePiece (g : ExchangeGroup) (p : Posted) (s : State) : State :=
  if noMills s g.party then answer g p .faultPermission 0 (hdrCount p.words) 0 [] s
  else if (rillOf s g.serveRill).kind == 4 then serveSearch g p s
  else match hdrKind p.words with
    | 1 => serveLookup g p s
    | 2 => serveUpdate g p s
    | _ => answer g p .faultPermission 0 (hdrCount p.words) 0 [] s

/-- The mill of a piece: a free one of the party's, of the lowest-numbered race that has one (DESIGN CHOICE, log entry 66). -/
def serveMill (s : State) (party : Nat) : Option Nat := (List.range 8).findSome? (fun r => pickMill s r party)

/-- A mill that has served a piece of a party: cleared before it where its last work was another party's (R226). -/
def passMill (m party : Nat) (s : State) : State := updMill m (fun x => { x with job := none }) (takeMill m party 0 0 [] s)

/-- PIECE_POSTED (R303): the oldest piece of a requester that may be taken up; a serving rill that is not ACTIVE answers
CANCELLED. COMMIT pieces of an ACTIVE rill are OWNER_COMMIT's. -/
def piecePosted (group node : Nat) (s : State) : State :=
  let s := replyPump (absorb s)
  match groupOf s group with
  | none => s
  | some g =>
    let mine := s.exch.posted.filter (fun p => p.group == group && p.node == node)
    let s := if !servingOk s g then mine.foldl (fun s p => answer g p .cancelled 0 (hdrCount p.words) 0 [] s) s
      else match mine.find? (pieceReady s g) with
        | some p => if noMills s g.party then servePiece g p s
          else match serveMill s g.party with
            | some m => servePiece g p (passMill m g.party s)
            | none => s
        | none => s
    runAll (replyPump s)

def execPiecePosted (group : Fin 16) (node : Fin 1024) (s : State) : Host.Outcome State Fault Refusal :=
  .next (piecePosted group node s)

/-! ## Replies (R304, R308) -/

/-- REPLY (R308): the first reply of an owner of the group that has not been taken. One that no piece waits for is discarded. -/
def takeReply (group node : Nat) (s : State) : State :=
  match s.exch.landed.find? (fun x => x.group == group && x.node == node) with
  | none => s
  | some x =>
    let seq := hdrSeq x.words
    let s := { s with exch := { s.exch with
      landed := s.exch.landed.erase x
      waiting := s.exch.waiting.filter (fun w => w != (group, node, seq))
      runs := s.exch.runs.map (fun r =>
        if r.group != group then r
        else { r with pieces := r.pieces.map (fun p =>
          if p.owner == node && p.sent && p.seq == seq && p.reply.isNone then { p with reply := some (x.words, x.body) } else p) }) } }
    runAll s

def execReply (group : Fin 16) (node : Fin 1024) (s : State) : Host.Outcome State Fault Refusal :=
  .next (takeReply group node (absorb s))

end Sys2Proof.Machine
end

