-- ==== Sys2Proof/Machine/RillControl.lean ====
section
/-!
DEFINITION. Commands of a party to its rills (R208 to R211), the rill cache, descriptors starting, drains, and what goes on when
requests of running descriptors land.
-/
namespace Sys2Proof.Machine

open Sys2Proof

/-! ## RILL_STATUS (Table 08-4) -/

def rillReasonState : Nat := 1
def rillReasonField : Nat := 2
def rillReasonLocation : Nat := 3
def rillReasonSequencer : Nat := 4

/-- The outcome of a command. -/
def rillAnswer (party rill result reason : Nat) (s : State) : State :=
  let e := rillOf s rill
  updCtl party (fun c => { c with rill, state := e.state, gen := e.gen, result, reason, fault := e.fault, waiting := none }) s

def rillDone (party rill : Nat) (s : State) : State := rillAnswer party rill 0 0 s

def rillReject (party rill reason : Nat) (s : State) : State := rillAnswer party rill 2 reason s

/-! ## CONFIGURE (R209) -/

/-- The fields of a rill image (Table 08-1) that CONFIGURE checks as BAD_FIELD. -/
def imageOk (ws : List Nat) : Bool :=
  let w := nth 0 ws
  let kind := bits (w 0) 60 4
  let dl := bits (w 1) 0 4
  let cl := bits (w 2) 0 4
  let count := bits (w 4) 32 13
  kind ≤ 5 && 4 ≤ dl && dl ≤ 15 && dl ≤ cl && cl ≤ 15 && count ≤ 4096
  && (count == 0 || w 3 / 4096 != 0)
  && bits (w 0) 0 21 == 0 && bits (w 1) 4 8 == 0 && bits (w 2) 4 8 == 0 && bits (w 3) 0 12 == 0
  && bits (w 4) 45 3 == 0 && bits (w 4) 0 32 == 0 && (ws.drop 11).all (· == 0)

/-- The entry that an image configures: the fields marked RO from the image, the others as they were, but the ring indices and
the counts of R209. -/
def configured (e : RillEnt) (ws : List Nat) : RillEnt :=
  let w := nth 0 ws
  { e with
    kind := bits (w 0) 60 4, notifyEn := bit (w 0) 44, asid := bits (w 0) 32 12, msixVec := bits (w 0) 21 11
    descBase := w 1 / 4096 * 4096, descLog2 := bits (w 1) 0 4, compBase := w 2 / 4096 * 4096, compLog2 := bits (w 2) 0 4
    courseBase := w 3 / 4096 * 4096, lapLenM1 := bits (w 4) 48 16, courseCount := bits (w 4) 32 13
    paramBase := w 9, counterPage := w 10
    descHead := 0, descTail := 0, compTail := 0, compHead := 0, late := 0, reachDrop := 0 }

/-- Kinds that read a parameter block at ENABLE. -/
def hasParams (kind : Nat) : Bool := 2 ≤ kind && kind ≤ 4

/-- R207: rings, course table and parameter block in PRIVATE extents of the party on this node. -/
def imagePlaced (s : State) (party : Nat) (e : RillEnt) : Bool :=
  (e.kind == 5 || inPrivate s party e.descBase (64 * 2 ^ e.descLog2)) && inPrivate s party e.compBase (32 * 2 ^ e.compLog2)
  && (e.courseCount == 0 || inPrivate s party e.courseBase (32 * e.courseCount))
  && (!hasParams e.kind || inPrivate s party e.paramBase 64)

def configureNow (party rill : Nat) (s : State) : State :=
  let e := rillOf s rill
  if e.state != .off then rillReject party rill rillReasonState s
  else
    let addr := (s.pty party).rillBase.toNat + 128 * (rill - (partyRec s party).rillFirst)
    if !inPrivate s party addr 128 then rillReject party rill rillReasonLocation s
    else match shufelRead s party addr 128 with
      | (.ok, d) =>
        let s := countRange party (addrOffset addr) 128 s
        let ws := words64 16 d
        if !imageOk ws then rillReject party rill rillReasonField s
        else if !imagePlaced s party (configured e ws) then rillReject party rill rillReasonLocation s
        else rillDone party rill (updRill rill (fun e => configured e ws) s)
      | _ => rillReject party rill rillReasonLocation s

/-! ## ENABLE (R210, R277, R298, R312, R313) -/

/-- Course sequencers bound on this node, of 256. -/
def sequencersBound (s : State) : Nat := s.rill.table.countP (fun e => e.2.sequencer)

/-- R298, R312: GROUP, its PARTY and SERVING against the group entry, and the kind of its SERVE_RILL here. -/
def groupParamOk (s : State) (party rill group : Nat) (serving : Bool) : Bool :=
  match groupOf s group with
  | none => false
  | some g =>
    g.party == party && serving == (g.serveRill == rill)
    && ((rillOf s rill).kind == 4) == ((rillOf s g.serveRill).kind == 4)

def findProbe (s : State) (rill : Nat) : Option Probe := s.rill.probes.find? (fun q => q.rill == rill)

def dropProbe (rill : Nat) (s : State) : State :=
  { s with rill := { s.rill with probes := s.rill.probes.filter (fun q => q.rill != rill) } }

/-- The LOADs of a sequence table that is not at hand. -/
def startProbe (rill va len : Nat) (s : State) : State :=
  let e := rillOf s rill
  let party := rillParty s rill
  let rs := cut4k (va, len)
  let id := s.weir.nextId
  let s := { s with rill := { s.rill with probes := s.rill.probes ++ [{ rill, id, left := rs.length }] }
                    weir := { s.weir with nextId := id + 1 } }
  rs.foldl (fun s r => issueIn e.asid (ctxOf s party e.asid) { op := .load, va := r.1, len := r.2, party, origin := selfPair s party
                                                               src := .rill rill probeIndex id, tclass := .mill } s) s

/-- ACTIVE records of a rill's sequence table (R278): at hand, or as LOADs brought it. -/
def countActive (s : State) (party rill : Nat) (ctx : Option Ctx) (p : AttnParam) : Nat :=
  let get := fun (va : Nat) => if atHand s ctx p.seqBase (64 * p.seqs) then vread s party ctx va 64
    else .ok (gotBytes (((findProbe s rill).map (·.got)).getD []) va 64)
  (List.range p.seqs).countP (fun q => match seqOf (get (seqAt p q).1) with | .ok r => r.active | .error _ => false)

/-- R317: GRAPH_OK cleared in every VALID record of a serving rill's directory. -/
def clearGraphs (party : Nat) (ctx : Option Ctx) (p : SearchParam) (s : State) : State :=
  (List.range p.indexes).foldl (fun s i => if graphSet s party ctx p i then (setGraphOk party ctx p i false s).2 else s) s

/-- The entry ACTIVE under a new generation (Table 08-5). -/
def activate (rill : Nat) (s : State) : State :=
  updRill rill (fun e => { e with state := .active, gen := (e.gen + 1) % 256, descHead := e.descTail, armed := false }) s

/-- The parameter block read at ENABLE: its words, or none where the read fails. -/
def readParams (s : State) (party rill : Nat) : Option (List Nat) :=
  let e := rillOf s rill
  if !hasParams e.kind then some []
  else match shufelRead s party e.paramBase 64 with
    | (.ok, d) => some (words64 8 d)
    | _ => none

def paramsOk (s : State) (party rill : Nat) (ws : List Nat) : Bool :=
  match (rillOf s rill).kind with
  | 2 => attnParamOk ws
  | 3 => groupParamOk s party rill (embedParam ws).group (embedParam ws).serving
  | 4 => searchParamOk ws && groupParamOk s party rill (searchParam ws).group (searchParam ws).serving
  | _ => true

/-- The parameter block read and kept, and what goes with it at ENABLE: the sequences counted (R277), the graphs cleared (R317). Answers
whether the block is good; none where the count breaks the limits of R278. -/
def takeParams (party rill : Nat) (s : State) : Option Bool × State :=
  let e := rillOf s rill
  let ctx := ctxOf s party e.asid
  let s := if hasParams e.kind then countRange party (addrOffset e.paramBase) 64 s else s
  let kept := fun (ws : List Nat) => updRill rill (fun e => { e with params := ws, seqs := 0 }) s
  match readParams s party rill with
  | none => (some false, kept [])
  | some ws =>
    let s := kept ws
    if !paramsOk s party rill ws then (some false, s)
    else if e.kind == 2 then
      let n := countActive s party rill ctx (attnParam ws)
      if quotaOk s party n then (some true, updRill rill (fun e => { e with seqs := n }) s) else (none, s)
    else (some true, if e.kind == 4 && (searchParam ws).serving then clearGraphs party ctx (searchParam ws) s else s)

/-- A count of a rill's sequences that goes on once its sequence table is here, at hand or read by LOADs (R277). -/
def withTable (rill : Nat) (wait k : State → State) (s : State) : State :=
  let e := rillOf s rill
  let party := rillParty s rill
  match e.kind, readParams s party rill with
  | 2, some ws =>
    let p := attnParam ws
    if !attnParamOk ws || atHand s (ctxOf s party e.asid) p.seqBase (64 * p.seqs) then k s
    else match findProbe s rill with
      | none => wait (startProbe rill p.seqBase (64 * p.seqs) s)
      | some q => if q.left != 0 then wait s else dropProbe rill (k s)
  | _, _ => k s

def enableHere (party rill : Nat) (s : State) : State :=
  let e := rillOf s rill
  let s := if 0 < e.courseCount then countRange party (addrOffset e.courseBase) (32 * e.courseCount) s else s
  if 0 < e.courseCount && 256 ≤ sequencersBound s then rillReject party rill rillReasonSequencer s
  else if 0 < e.courseCount && !courseOk s rill then rillReject party rill rillReasonField s
  else match takeParams party rill s with
    | (none, s) => rillReject party rill rillReasonField s
    | (some ok, s) =>
      let s := activate rill (updRill rill (fun e => { e with sequencer := 0 < e.courseCount }) s)
      rillDone party rill (if ok then s else faultRill rill faultParam s)

/-- ENABLE; BUSY while its sequence table is read from another node. -/
def enableNow (party rill : Nat) (s : State) : State :=
  withTable rill (updCtl party (fun c => { c with rill, result := 1, reason := 0, waiting := some (2, rill) })) (enableHere party rill) s

/-- The re-arm of a drained rill: the block is read anew, as it is kept only until the rill leaves ACTIVE (R277). A count that breaks R278
faults it with PARAM, the spec naming no other outcome here (DESIGN CHOICE, log entry 70). -/
def rearmNow (rill : Nat) (s : State) : State :=
  withTable rill (fun s => s) (fun s => match takeParams (rillParty s rill) rill s with
    | (some true, s) => activate rill s
    | (_, s) => faultRill rill faultParam (activate rill s)) s

/-! ## DISABLE and ABORT (R211) -/

/-- Running descriptors of a rill cut: they issue nothing more, and their blocks in the eddy queues are flushed (R272). -/
def cutRunning (rill : Nat) (s : State) : State :=
  let s := { s with rill := { s.rill with jobs := s.rill.jobs.map (fun j => if j.rill == rill then { j with cut := true } else j) } }
  let s := cutFirings (fun f => f.rill == rill && firingExpands s f) .cancelled (eddyFlush (fun x _ => x.rill == rill) s)
  settle rill s

/-- The rill leaves ACTIVE or FAULTED for DRAINING: what has not started is cancelled. The records are written only where the
completion ring is usable. -/
def drainRill (rill : Nat) (s : State) : State :=
  let usable := (rillOf s rill).fault != faultCompWrite
  let s := if usable then cancelUnstarted rill .cancelled s else updRill rill (fun e => { e with descHead := e.descTail }) s
  updRill rill (fun e => { e with state := .draining, fault := 0 }) s

def disableRill (rill : Nat) (s : State) : State :=
  match (rillOf s rill).state with
  | .active | .faulted => drainRill rill s
  | .rearm => updRill rill (fun e => { e with state := .draining }) s
  | _ => s

def abortRill (rill : Nat) (s : State) : State :=
  match (rillOf s rill).state with
  | .off | .draining => s
  | _ => cutRunning rill (disableRill rill s)

/-! ## The commands (R208, R219) -/

/-- A command performed on an entry that is on chip: 1 CONFIGURE, 2 ENABLE, 3 DISABLE, 4 ABORT, 5 QUERY. -/
def rillRun (party cmd rill : Nat) (s : State) : State :=
  match cmd with
  | 1 => configureNow party rill s
  | 2 => match (rillOf s rill).state with
    | .off => enableNow party rill s
    | .draining => rillDone party rill (updRill rill (fun e => { e with state := .rearm }) s)
    | .faulted => rillReject party rill rillReasonState s
    | _ => rillDone party rill s
  | 3 => rillDone party rill (disableRill rill s)
  | 4 => rillDone party rill (abortRill rill s)
  | _ => rillDone party rill s

/-- A RILL_CTL command of a party: dropped and logged for a rill of another run (R206) or before READY (R368), dropped with
CMD_DROP while one is BUSY, and BUSY itself until the entry is on chip. -/
def rillCommand (party cmd rill : Nat) (s : State) : State :=
  let word := at' cmd 60 + rill % 65536
  if !ownsRill s party rill || !s.boot.ready then logIgnored party (partyReg party 0x028) word s
  else if (Tbl.get {} s.rill.ctl party).result == 1 then updCtl party (fun c => { c with cmdDrop := true }) s
  else if s.rill.cache.contains rill then rillRun party cmd rill (touchEntry rill (dropProbe rill s))
  else updCtl party (fun c => { c with rill, result := 1, reason := 0, waiting := some (cmd, rill) }) s

def execConfigure (party : Fin 8) (rill : Nat) (s : State) : Host.Outcome State Fault Refusal := .next (rillCommand party 1 rill s)

def execEnable (party : Fin 8) (rill : Nat) (s : State) : Host.Outcome State Fault Refusal := .next (rillCommand party 2 rill s)

def execDisable (party : Fin 8) (rill : Nat) (s : State) : Host.Outcome State Fault Refusal := .next (rillCommand party 3 rill s)

def execAbort (party : Fin 8) (rill : Nat) (s : State) : Host.Outcome State Fault Refusal := .next (rillCommand party 4 rill s)

def execRillQuery (party : Fin 8) (rill : Nat) (s : State) : Host.Outcome State Fault Refusal := .next (rillCommand party 5 rill s)

/-- RILL_CACHE_FILL (R219): the entry that a doorbell, a command or a rill of the pending map waits for comes on chip once a place is free;
the doorbell and the commands are served. -/
def rillCacheFill (rill : Nat) (s : State) : State :=
  let s := absorb s
  let bell := Tbl.find s.rill.bells rill
  let cmds := s.rill.ctl.filterMap (fun c => c.2.waiting.bind (fun w => if w.2 == rill then some (c.1, w.1) else none))
  if bell.isNone && cmds.isEmpty && !s.rill.pending.contains rill then s
  else match fetchEntry rill s with
    | none => s
    | some s =>
      let s := { s with rill := { s.rill with bells := Tbl.del s.rill.bells rill } }
      let s := match bell with
        | some (tail, head) => ringBell rill tail head { s with rill := { s.rill with pending := removeNat rill s.rill.pending } }
        | none => s
      cmds.foldl (fun s c => rillRun c.1 c.2 rill (updCtl c.1 (fun x => { x with waiting := none, result := 0 }) s)) s

def execRillCacheFill (rill : Nat) (s : State) : Host.Outcome State Fault Refusal := .next (rillCacheFill rill s)

/-! ## Descriptors starting (R28, R215, R226, R289) -/

/-- Operations of a kind (Tables 09-10, 11-4, 12-6, 13-5, R216). -/
def opDefined (kind op : Nat) : Bool :=
  match kind with
  | 0 => op == 1
  | 1 => 1 ≤ op && op ≤ 5
  | 2 => 1 ≤ op && op ≤ 5
  | 3 => 1 ≤ op && op ≤ 3
  | 4 => 1 ≤ op && op ≤ 5
  | _ => false

/-- Whether word 2 of an operation is a virtual address: the first operand, which fixes the race (R28). -/
def firstIsAddress (kind op : Nat) : Bool :=
  match kind with
  | 1 => true
  | 2 => op != 4
  | 3 => op != 3
  | 4 => op ≤ 3
  | _ => false

/-- The job of the next descriptor of a rill, from its words. -/
def nextJob (s : State) (rill : Nat) (ws : List Nat) : Job :=
  let e := rillOf s rill
  let w0 := nth 0 ws 0
  let party := rillParty s rill
  { rill, index := e.descHead, party, kind := e.kind, op := bits w0 56 8, gen := e.gen, notify := bit w0 54, userTag := nth 0 ws 1
    words := ws.drop 2, asid := e.asid, ctx := ctxOf s party e.asid, born := s.weir.nextId }

/-- Sequences that a descriptor of an ATTENTION rill names (R289). A list on another node, not read before the start, counts as naming
every sequence (DESIGN CHOICE, log entry 70). -/
def namedSeqs (s : State) (j : Job) : List Nat :=
  let o := attendOps j
  match j.kind, j.op with
  | 2, 1 =>
    if !atHand s j.ctx o.list (2 * o.n) then List.range (paramOf s j.rill).seqs
    else (match vread s j.party j.ctx o.list (2 * o.n) with
      | .ok d => words16 o.n d
      | .fail _ _ => [])
  | 2, 2 | 2, 3 | 2, 4 => [admitSeq j]
  | _, _ => []

/-- R289: an earlier descriptor names one of its sequences, and one of the two is an ADMIT, APPEND or RETIRE. A descriptor is complete once
its record is written. -/
def seqWait (s : State) (j : Job) : Bool :=
  let mine := j.names
  let meets := fun (op : Nat) (names : List Nat) => (op != 1 || j.op != 1) && names.any (fun q => mine.contains q)
  s.rill.jobs.any (fun x => x.rill == j.rill && meets x.op x.names)
    || s.rill.due.any (fun d => d.rill == j.rill && !d.course && meets d.op d.names)

/-- What the next descriptor of a rill waits for, apart from a mill. -/
inductive StartPlan where
  | nothing                     -- there is none, or it has to wait
  | fault                       -- its slot cannot be read (R212)
  | bad (j : Job) (st : Status) (detail : Nat)   -- it completes at once, having performed nothing
  | ready (j : Job) (mills : Nat)
  deriving DecidableEq, Repr

/-- The next descriptor of a rill and what it waits for. A built-in operation of COUNT 0 needs nothing and completes OK (R248). R28 gives the race
from the first operand: one that has none that is an address, as RETIRE, COMMIT, ADVANCE and CHECK, or whose home on another node no port
leads to, has race 0 (DESIGN CHOICE, log entry 72). -/
def startPlan (s : State) (rill : Nat) : StartPlan :=
  let e := rillOf s rill
  if e.state != .active || !s.rill.cache.contains rill || e.descHead == e.descTail || e.kind == 5
      || 2 ^ e.compLog2 ≤ recordsOpen e + slotsHeld s rill then .nothing
  else match readDesc s rill e.descHead with
    | none => .fault
    | some ws =>
      let j := nextJob s rill ws
      let j := { j with names := namedSeqs s j }
      if bit (nth 0 ws 0) 55 && (e.running != 0 || s.rill.due.any (fun d => d.rill == rill && !d.course)) then .nothing
      else if !opDefined e.kind j.op then .bad j .faultPermission 0
      else if e.kind == 0 then
        if 64 ≤ s.rill.jobs.countP (fun x => x.kind == 0) then .nothing else .ready j 0
      else if e.kind == 1 && opConvert ≤ j.op && j.op ≤ opEncode && millCount j == 0 then .ready j 0
      else if noMills s j.party then .bad j .faultPermission 0
      else if seqWait s j then .nothing
      else
        let first := if firstIsAddress e.kind j.op then vpiece s j.ctx (j.word 2) else none
        if firstIsAddress e.kind j.op && first.isNone then .bad j .faultUnmapped (operandDetail 0 0)
        else
          let j := { j with race := (first.map (fun p => raceOf s j.party p.addr)).getD 0 }
          if e.kind == 1 && j.op == opBuild then
            match buildTarget s j.party (encSlot j) with
            | .wait => .nothing
            | .bad => .bad j .faultPermission (operandDetail 2 0)
            | .into _ => .ready j (min 16 (millsOf s j.race j.party).length)
          else if e.kind == 2 && j.op == opBuildBooks && (freeSlots s j.party).length < booksNeeded (paramOf s rill)
              && !setInUse s j (paramOf s rill) then .nothing
          else .ready j (b2n (e.kind != 1 || j.op == opRunTable))

/-- Whether it is a rill's turn for mills of a race: the ready rills take turns, and with them those whose running descriptors have pieces to
begin; in a sealed image those of its own party (R28). -/
def millTurn (s : State) (rill race party : Nat) : Bool :=
  let mine := fun (p : Nat) => !isSealed s || p == party
  let ready := s.rill.pending.filter (fun r => match startPlan s r with
    | .ready j n => 0 < n && j.race == race && mine j.party
    | _ => false)
  inTurn s race party (ready.foldl (fun l r => insertNat r l) (insertNat rill (pieceRills s race mine))) rill

/-- The descriptor taken from the ring. The rill leaves the pending map with its last one. -/
def takeDesc (rill : Nat) (s : State) : State :=
  let s := updRill rill (fun e => { e with descHead := (e.descHead + 1) % 65536, running := e.running + 1 }) (touchEntry rill s)
  let e := rillOf s rill
  if e.descHead == e.descTail then { s with rill := { s.rill with pending := removeNat rill s.rill.pending } } else s

/-- A descriptor's job created. -/
def putJob (j : Job) (s : State) : State :=
  { s with rill := { s.rill with jobs := s.rill.jobs ++ [j] }, weir := { s.weir with nextId := s.weir.nextId + 1 } }

/-- A descriptor starts: its mills are taken, its job made, the slot it names referenced, and a build enters its slot (R226, R258, R261). -/
def beginDesc (rill : Nat) (j : Job) (mills : Nat) (s : State) : State :=
  let s := takeMills j.race j.party rill j.index j.words mills (putJob j (takeDesc rill s))
  let s := holdNamed j (if mills == 0 then s else servedRill j.race rill s)
  if j.kind == 1 && j.op == opBuild then
    match buildTarget s j.party (encSlot j) with
    | .into k => startBuild rill j.index k (encDCode j) (encTwo j) s
    | _ => s
  else s

/-- DESCRIPTOR_START (R215): the next descriptor of a rill starts, if it may. -/
def descriptorStart (rill : Nat) (s : State) : State :=
  let s := absorb s
  let e := rillOf s rill
  let read := countRange (rillParty s rill) (addrOffset (e.descBase + 64 * (e.descHead % 2 ^ e.descLog2))) 64
  match startPlan s rill with
  | .nothing => s
  | .fault => faultRill rill faultDescRead s
  | .bad j st d => finishJob j st d false (takeDesc rill (read s))
  | .ready j mills =>
    if mills == 0 || (mills ≤ (freeMills s j.race j.party).length && millTurn s rill j.race j.party) then beginDesc rill j mills (read s)
    else s

/-- The next descriptor, whose slot is read once its page is in DRAM (R65). -/
def startNext (rill : Nat) (s : State) : State :=
  let e := rillOf s rill
  atRest false (e.descBase + 64 * (e.descHead % 2 ^ e.descLog2)) 64 (descriptorStart rill) s

def execDescriptorStart (rill : Nat) (s : State) : Host.Outcome State Fault Refusal := .next (startNext rill s)

/-- DRAIN_COMPLETE (R211): nothing of the rill runs, every record is written and every transfer has landed. -/
def drainComplete (rill : Nat) (s : State) : State :=
  let s := settle rill (absorb s)
  let e := rillOf s rill
  let still := e.running != 0 || s.rill.due.any (fun d => d.rill == rill) || s.rill.jobs.any (fun j => j.rill == rill)
    || s.rill.firings.any (fun f => f.rill == rill)
  if still then s
  else match e.state with
    | .draining => updRill rill (fun e => { e with state := .off, sequencer := false, seqs := 0 }) s
    | .rearm => rearmNow rill s
    | _ => s

def execDrainComplete (rill : Nat) (s : State) : Host.Outcome State Fault Refusal := .next (drainComplete rill s)

/-! ## Progress of running descriptors -/

/-- A running descriptor taken a step further after requests of it have landed. -/
def jobProgress (rill index : Nat) (s : State) : State :=
  match findJob s rill index with
  | none => s
  | some j =>
    if !j.begun || j.cut || j.withdrawn then s
    else match j.kind, j.op with
      | 1, 1 => s
      | 1, _ => builtinEnd rill index (builtinPump rill index 4096 s)
      | 2, 1 => attendPump rill index s
      | 2, 4 => retireEnd rill index s
      | 2, 5 => buildBooksEnd rill index s
      | 2, _ => codeEnd rill index s
      | 3, _ => runStepOn rill index s
      | 4, _ => runStepOn rill index s
      | _, _ => s

/-- CHUNK_LANDED (R190): a chunk or firing whose requests are all complete advances its counter. -/
def execChunkLanded (course : Bool) (rill index chunk : Nat) (s : State) : Host.Outcome State Fault Refusal :=
  .next (
    let s := settle rill (absorb s)
    if course then fireStep index s
    else jobProgress rill index (copyChunk rill index chunk s))

/-- PIECE_COMPLETE (R248): a piece of a built-in operation, a layer slice of an ADMIT or APPEND (R286, R287), or a book of a
BUILD_BOOKS (R282), which is computed, written and counted; the descriptor ends with its last one. -/
def execPieceComplete (rill index piece : Nat) (s : State) : Host.Outcome State Fault Refusal :=
  .next (
    let s := settle rill (absorb s)
    match findJob s rill index with
    | none => s
    | some j =>
      match j.kind, j.op with
      | 1, _ => builtinPiece rill index piece s
      | 2, 5 => buildBooksEnd rill index (bookPiece rill index piece s)
      | 2, 2 | 2, 3 => codeEnd rill index (codePiece rill index piece s)
      | _, _ => s)

/-! ## PCIe reads and writes of the host bus (R216, R296) -/

/-- PCIE_DMA_COMPLETION: a read's data, a write's completion, or an error, by tag: the chunk of a copy or of a coded page's
expansion, or a host row of an embedding piece. -/
def dmaCompletion (tag : Nat) (data : Option Bytes) (s : State) : State :=
  match s.rill.dma.find? (fun d => d.1 == tag) with
  | none => s
  | some d =>
    let s := { s with rill := { s.rill with dma := s.rill.dma.erase d } }
    if d.embed then
      let s := { s with exch := { s.exch with posted := s.exch.posted.map (fun p =>
        if p.group == d.rill && p.node == d.index && p.asked.contains d.num && !p.host.any (fun h => h.1 == d.num)
        then { p with host := p.host ++ [(d.num, data)] } else p) } }
      piecePosted d.rill d.index s
    else hostLanded d data s
where
  /-- A host bus read or write of a copy landed: it is ordered among the copy's failures by where it lies in the source (R216, R256), and a
  write's bytes are counted (R217). -/
  hostLanded (d : DmaOp) (data : Option Bytes) (s : State) : State :=
    let s := absorb s
    match findJob s d.rill d.index with
    | none => s
    | some j =>
      let o := copyOps j
      let n := if o.srcHost then chunkOf o d.num else d.num
      let s := updJob d.rill d.index (fun j =>
        let j := j.updChunk n (fun c =>
          if o.srcHost then { c with readsDone := c.readsDone + 1
                                     got := match data with | some bs => c.got ++ [(d.off, bs)] | none => c.got
                                     failed := c.failed || data.isNone }
          else { c with landed := c.landed + 1, failed := c.failed || data.isNone })
        if data.isNone then { j with err := firstErr j.err d.off .uncorrectable 0 } else { j with bytes := j.bytes + d.len }) s
      copyChunk d.rill d.index n (settle d.rill s)

def execPcieDmaCompletion (_port : Fin 2) (tag : Nat) (data : Option Bytes) (s : State) : Host.Outcome State Fault Refusal :=
  .next (dmaCompletion tag data s)

end Sys2Proof.Machine
end

