-- ==== Sys2Proof/Machine/Tide.lean ====
section
/-!
DEFINITION. Tide (R223). A TIDE_TICK is one advance of the count; the number of ticks since the last marker stands for the
number of TIDE periods between markers (log entry 12).
-/
namespace Sys2Proof.Machine

open Sys2Proof

/-- A change of TIDE_FREE, logged. -/
def setTideFree (b : Bool) (s : State) : State :=
  if s.tide.free == b then s
  else logEv 0x0203 sevNotice 15 0 (b2n b) 0 { s with tide := { s.tide with free := b } }

/-- TIDE_TICK: the count advances by one, at half rate while it is ahead of the aligned value; so does the keeper's monotonic
counter, in its own microseconds. -/
def tideTick (s : State) : State :=
  let s := if s.pins.standby then { s with keeper := { s.keeper with mono := s.keeper.mono + 1 } } else s
  if !s.pins.standby then s
  else
    let t := s.tide
    if t.slew != 0 && t.sub == 0 then { s with tide := { t with slew := t.slew - 1, sub := 1, phase := t.phase + 1 } }
    else { s with tide := { t with count := (t.count + 1) % 2 ^ 64, sub := 0, phase := t.phase + 1 } }

def execTideTick (s : State) : Host.Outcome State Fault Refusal := .next (tideTick s)

def tideSecond : Nat := 1000000

/-- The next multiple of a second. -/
def nextSecond (c : Nat) : Nat := (c + tideSecond - 1) / tideSecond * tideSecond

/-- The nearest multiple of a second. -/
def nearSecond (c : Nat) : Nat := (c + tideSecond / 2) / tideSecond * tideSecond

/-- The count aligned to a value: it steps forward to it, or runs at half rate until the value has caught up. -/
def alignTide (v : Nat) (t : TideSt) : TideSt :=
  if t.count ≤ v then { t with count := v, slew := 0, sub := 0 } else { t with slew := t.count - v, sub := 0 }

/-- TIDE_MARKER: the second marker. Two good markers in succession lock the count. -/
def tideMarker (s : State) : State :=
  if !s.pins.inputsOn then s
  else
    let t := s.tide
    let good := t.marks != 0 && tideSecond ≤ t.phase + 1 && t.phase ≤ tideSecond + 1
    let marks := if good then min 2 (t.marks + 1) else 1
    let s := { s with tide := { t with marks, phase := 0 } }
    if marks < 2 then setTideFree true s
    else
      let t := s.tide
      let v := match t.load with
        | some n => n * tideSecond
        | none => if t.slew != 0 || (t.free && t.locked) then nearSecond (t.count - t.slew) else nextSecond t.count
      setTideFree false { s with tide := { alignTide v t with load := none, locked := true } }

def execTideMarker (s : State) : Host.Outcome State Fault Refusal := .next (tideMarker s)

/-- TIDE_LOSS: the count runs on from the module reference. -/
def tideLoss (s : State) : State :=
  if !s.pins.standby then s else setTideFree true { s with tide := { s.tide with marks := 0 } }

def execTideLoss (s : State) : Host.Outcome State Fault Refusal := .next (tideLoss s)

end Sys2Proof.Machine
end

