-- ==== Sys2Proof/Machine/Sync.lean ====
section
/-!
DEFINITION. Mirror sync (R57 to R59): the check of a bank, its coming into force at a weir period boundary, the pin messages and
the reverse index that follow, and the drain of transfers of earlier table generations.
-/
namespace Sys2Proof.Machine

open Sys2Proof

/-! ## The check (R58) -/

def syncNotSorted : Nat := 1
def syncBadField : Nat := 2
def syncBadLocation : Nat := 3
def syncGenNotNewer : Nat := 4
def syncTooLarge : Nat := 5

def rawOf (w : Nat × Nat × Nat × Nat) : RangeRaw := rangeRaw w.1 w.2.1 w.2.2.1 w.2.2.2

/-- The words of a bank's entries. -/
def entryWords : Nat → Bytes → List (Nat × Nat × Nat × Nat)
  | 0, _ => []
  | n + 1, d =>
    let w := fun i => ofBytes ((d.drop (8 * i)).take 8)
    (w 0, w 1, w 2, w 3) :: entryWords n (d.drop 32)

/-- The reserved bits of a range entry, and the encodings that Table 02-10 marks invalid. -/
def rangeEntryOk (w : Nat × Nat × Nat × Nat) : Bool :=
  let e := rawOf w
  !e.valid || rangeFieldsOk e

/-- MIRROR_SYNC (R58): the sync enters CHECKING, and the named bank is read once, as it stands. A context entry with VALID = 0 is accepted
with an empty table, and an entry or a bank that cannot be read is BAD_LOCATION: the spec states neither (DESIGN CHOICE, log entry 68). -/
def mirrorSync (party : Nat) (v : W64) (s : State) : State :=
  let p := s.pty party
  if !s.boot.ready then logIgnored party (partyReg party 0x008) v.toNat s
  else if p.syncState == .checking || p.syncState == .inForce then updPty party (fun p => { p with busyDrop := true }) s
  else
    let asid := field v 0 12
    let bank := field v 16 1
    let tgen := field v 32 32
    let at_ := p.ctxBase.toNat + 32 * asid
    let placed := inPrivate s party p.ctxBase.toNat 131072
    let s := countRange party (addrOffset at_) 32 s
    let (st, d) := shufelRead s party at_ 32
    let ws := words64 4 d
    let valid := bit (nth 0 ws 0) 0
    let base := (nth 0 ws bank) / 4096 * 4096
    let count := if bank == 0 then bits (nth 0 ws 2) 0 17 else bits (nth 0 ws 2) 32 17
    let s := countRange party (addrOffset base) (32 * count) s
    let (bst, bd) := shufelRead s party base (32 * count)
    let newer := match Tbl.find p.inForce asid with
      | none => true
      | some c => serCmp 32 tgen c.gen == .newer
    let bad : Option Nat :=
      if placed && st == .ok && 65536 < count then some syncTooLarge
      else if !newer && p.everSync.contains asid then some syncGenNotNewer
      else if !placed || st != .ok then some syncBadLocation
      else if count != 0 && (!inPrivate s party base (32 * count) || bst != .ok) then some syncBadLocation
      else none
    let entries := if bad.isSome || count == 0 then [] else entryWords count bd
    updPty party (fun p => { p with
      syncState := .checking, syncAsid := asid, syncBank := bank, syncTabGen := tgen, syncPass := false
      syncNew := ⟨base, if valid then count else 0, tgen⟩
      syncEntries := entries, syncBad := bad.map (fun r => (r, 0)) }) s

def execMirrorSync (party : Fin 8) (value : W64) (s : State) : Host.Outcome State Fault Refusal := .next (mirrorSync party value s)

/-- The first entry in ascending index that fails BAD_FIELD, or NOT_SORTED against the one before it. The length of an entry with VALID = 0
counts for that too (DESIGN CHOICE, log entry 68). -/
def badEntry : Nat → Option RangeRaw → List (Nat × Nat × Nat × Nat) → Option (Nat × Nat)
  | _, _, [] => none
  | i, prev, w :: t =>
    let e := rawOf w
    if !rangeEntryOk w then some (syncBadField, i)
    else
      let sorted := match prev with
        | some q => q.vstart + q.len ≤ e.vstart
        | none => true
      if !sorted then some (syncNotSorted, i) else badEntry (i + 1) (some e) t

/-- COHERENT entries of a bank, with their index. -/
def coherentEntries (es : List (Nat × Nat × Nat × Nat)) : List (Nat × RangeRaw) :=
  ((es.zipIdx).map (fun x => (x.2, rawOf x.1))).filter (fun x => x.2.valid && x.2.cls == 1)

/-- The limit of 4,096 COHERENT entries of a party (R130): the first entry beyond it. -/
def beyondLimit (s : State) (party asid : Nat) (es : List (Nat × Nat × Nat × Nat)) : Option (Nat × Nat) :=
  let others := ((s.pty party).reverse.filter (fun e => e.asid != asid)).length
  ((coherentEntries es)[4096 - others]?).map (fun x => (syncTooLarge, x.1))

/-- SYNC_CHECK_COMPLETE (R58): the outcome of the check. -/
def syncCheckComplete (party : Nat) (s : State) : State :=
  let p := s.pty party
  if p.syncState != .checking || p.syncPass then s
  else
    let bad := match p.syncBad with
      | some b => some b
      | none => match badEntry 0 none p.syncEntries with
        | some b => some b
        | none => beyondLimit s party p.syncAsid p.syncEntries
    match bad with
    | some (r, i) => updPty party (fun p => { p with syncState := .rejected, syncReason := r, syncEntry := i % 65536, syncEntries := []
                                                     syncBad := none }) s
    | none => updPty party (fun p => { p with syncPass := true, syncGen := p.syncTabGen, syncReason := 0, syncEntry := 0 }) s

def execSyncCheckComplete (party : Fin 8) (s : State) : Host.Outcome State Fault Refusal := .next (syncCheckComplete party s)

/-! ## In force -/

/-- A pin message on its way to the home of a range (R72), or given to the own control logic. -/
def sendPin (party : Nat) (remove : Bool) (r : Nat × Nat) (s : State) : State :=
  let first := tierPage (addrOffset r.1)
  let pages := (pagesOf (addrOffset r.1) r.2).length
  let q : Req := {
    op := .pinMsg, addr := poolAddr (addrNode r.1) (addrSpace r.1) (first * 65536), va := r.1, len := 1, party
    origin := selfPair s party, src := .migrator, gen := s.hw.compGen, cls := .any
    opf := BitVec.ofNat 64 (at' (b2n remove) 55 + (pages - 1)) }
  if addrNode r.1 == s.node then toPipe q s else issue q s

/-- The ranges of a list that another does not hold, each as often as it stands there more (R72: every entry holds a reference of its own). -/
def without (held l : List (Nat × Nat)) : List (Nat × Nat) := held.foldl (fun l r => l.erase r) l

/-- SYNC_IN_FORCE (R58, R72, R130): a checked bank comes into force at a period boundary. -/
def syncInForce (party : Nat) (s : State) : State :=
  let p := s.pty party
  if p.syncState != .checking || !p.syncPass then s
  else
    let asid := p.syncAsid
    let es := (p.syncEntries.map rawOf).filter (·.valid)
    let live := if p.syncNew.count == 0 then [] else es
    let old := Tbl.get [] p.pinned asid
    let new := (live.filter (·.pin)).map (fun e => (e.pbase, e.len))
    let rev := (live.filter (fun e => e.cls == 1)).map (fun e => ({ asid, vstart := e.vstart, pbase := e.pbase, len := e.len } : RevEntry))
    let s := updPty party (fun p => { p with
      inForce := Tbl.put p.inForce asid p.syncNew, everSync := insertNat asid p.everSync, syncState := .inForce, syncPass := false
      syncEntries := [], reverse := p.reverse.filter (fun e => e.asid != asid) ++ rev, pinned := Tbl.put p.pinned asid new }) s
    let s := { s with net := { s.net with rcache := s.net.rcache.filter (fun e => !(e.party == party && e.asid == asid)) } }
    let s := (without old new).foldl (fun s r => sendPin party false r s) s
    (without new old).foldl (fun s r => sendPin party true r s) s

/-- Whether a transfer of the context under an earlier table generation is still under way (R59): a partner's read is until it has
acknowledged the data. -/
def olderTransfer (s : State) (party asid gen : Nat) : Bool :=
  (allReqs s).any (fun r => r.party == party && r.asid == some asid && r.tgen != gen)
  || s.net.tags.any (fun t => t.party == party && t.asid == some asid && t.tgen != gen && !t.ackd)
  || s.rill.jobs.any (fun j => j.party == party && j.asid == asid && j.ctx.isSome && (j.ctx.map (·.gen)) != some gen)
  || s.rill.firings.any (fun f => f.party == party && f.asid == asid && f.ctx.isSome && (f.ctx.map (·.gen)) != some gen)

/-- SYNC_DRAINED (R58): every transfer of an earlier generation has landed. -/
def syncDrained (party : Nat) (s : State) : State :=
  let p := s.pty party
  match p.syncState, Tbl.find p.inForce p.syncAsid with
  | .inForce, some c =>
    if olderTransfer s party p.syncAsid c.gen then s else updPty party (fun p => { p with syncState := .drained }) s
  | _, _ => s

def execSyncDrained (party : Fin 8) (s : State) : Host.Outcome State Fault Refusal := .next (syncDrained party s)

end Sys2Proof.Machine
end

