-- ==== Sys2Proof/Machine/Reset.lean ====
section
/-!
DEFINITION. Resets of one party: the function-level reset of a host port (R375), PARTY_RESET (R376), CXL Reset, and the
conventional or hot reset of a host port (R377).
-/
namespace Sys2Proof.Machine

open Sys2Proof

/-- Step 2 of R375: a party's rills as R213 states, their blocks in the eddy queues flushed (step 3). -/
def resetRills (party : Nat) (s : State) : State :=
  let mine := (s.rill.table.map (·.1)).filter (ownsRill s party)
  mine.foldl (fun s r => abortRill r s) s

/-- Step 4 of R375: a BUSY CB_CTL command ends REJECTED with BAD_STATE. -/
def resetCb (party : Nat) (s : State) : State :=
  let c := Tbl.get {} s.shoal.ctl party
  if c.result == 1 then cbAnswer party c.slot 2 cbBadState (updCb party (fun c => { c with waiting := none }) s) else s

/-- Steps 2 to 5 of R375: sequences, index epochs, codebook slots, mirror sync and pins are left as they stand. -/
def resetParty (party : Nat) (s : State) : State :=
  resetCb party (resetRills party (updPty party (fun p => { p with resetAt := some s.keeper.mono }) s))

/-- The party's rills in DRAINING (Table 15-15). -/
def drainingRills (s : State) (party : Nat) : Nat :=
  (s.rill.table.filter (fun r => ownsRill s party r.1 && r.2.state == .draining)).length

/-- RESET.BUSY: a reset is under way while its rills drain, for its 100 ms at most (R375; DEDUCED, log entry 71). -/
def resetBusy (s : State) (party : Nat) : Bool :=
  match (s.pty party).resetAt with
  | some t => drainingRills s party != 0 && s.keeper.mono < t + 100000
  | none => false

/-- ERR_CTL at its reset values (Table 15-12); the entries of the window stay. -/
def resetErrCtl (party : Nat) (s : State) : State :=
  updPty party (fun p => { p with errWrite := 0, errRead := 0, errLost := false, msixEn := false, msixVec := 0 }) s

/-- R375: the function's config space and MSI-X state, ERR_CTL, and the party's rills and commands. -/
def functionReset (port : Nat) (s : State) : State :=
  resetParty port (resetErrCtl port (updHost port (fun h => { h with config := [] }) s))

/-- FLR (R375). -/
def execFlr (port : Fin 2) (s : State) : Host.Outcome State Fault Refusal := .next (functionReset port s)

/-- A write of the RESET register (Table 15-15, R376): CMD 1 resets the party unless BUSY; other values are ignored. -/
def writeReset (party cmd : Nat) (s : State) : State :=
  if cmd == 1 && !resetBusy s party then resetParty party s else s

/-- PARTY_RESET (R376). -/
def execPartyReset (party : Fin 8) (s : State) : Host.Outcome State Fault Refusal := .next (writeReset party 1 s)

/-- Whether a destination lies in a fenced extent. -/
def destFenced (s : State) (x : XferId) (d : XDest) : Bool :=
  match d with
  | .memory va => match vpiece s (xferParty s x).2 va with
    | some p => fencedPool s p.addr
    | none => false
  | _ => false

/-- R272: the transfers to fenced extents fail with DOMAIN_DOWN and their blocks are flushed. -/
def flushFenced (s : State) : State :=
  let hit := (List.range 8).flatMap (fun n =>
    let r := raceExp s n
    (r.queue.filter (fun w => destFenced s w.xfer w.dest)).map (·.xfer) ++ (r.input.filter (fun p => destFenced s p.xfer p.dest)).map (·.xfer))
  eddyFlush (fun x _ => hit.contains x) (hit.eraseDups.foldl (fun s x => failXfer x 0 .domainDown s) s)

/-- The takedown's walk ends (R144): eddy queues flushed, the directory walked, the domain JOINING. -/
def takedown (num : Nat) (s : State) : State :=
  match findDomain s num with
  | some d => if d.state == .falling then endTakedown num (flushFenced s) else s
  | none => s

/-- R377: a domain of the host falls, its walk ends within the reset, and the host has joined again at its completion. -/
def cxlReset (port : Nat) (s : State) : State :=
  let agent : Pair := ⟨s.node, port⟩
  let s := functionReset port s
  let s := { s with coh := { s.coh with joined := s.coh.joined.filter (· != agent) } }
  let s := updHost port (fun h => { h with dead := false }) s
  let mine := (s.coh.domains.filter (fun d => d.agents.contains agent)).map (·.num)
  mine.foldl (fun s d => agentJoins agent (takedown d (fallDomain d 8 s))) s

/-- CXL_RESET (R377). -/
def execCxlReset (port : Fin 2) (s : State) : Host.Outcome State Fault Refusal := .next (cxlReset port s)

/-- HOT_RESET (R377): a conventional reset, hot reset or link down performs R375 and takes the port out of L0, from where the
limit of R142 runs. -/
def hotReset (port : Nat) (s : State) : State :=
  updHost port (fun h => { h with l0 := false, trained := false, cxl := false, l0Count := !h.dead }) (functionReset port s)

/-- HOT_RESET (R377). -/
def execHotReset (port : Fin 2) (s : State) : Host.Outcome State Fault Refusal := .next (hotReset port s)

end Sys2Proof.Machine
end

