-- ==== Sys2Proof/Machine/Registers.lean ====
section
/-!
DEFINITION. Node control space (R371): what each register reads as, with the bits that read undefined as free values (log
entry 2), and what a write to each does (Tables 15-8, 15-9); the capability words (R9, R92, R192, R205, R224) and the slice region
(Tables 02-2 to 02-4).
-/
namespace Sys2Proof.Machine

open Sys2Proof

/-! ## Capability words -/

/-- Capability word 5 (Table 03-9). -/
def capWord5 (s : State) : Nat :=
  at' 0x400 48 + at' (backedSize s / 2 ^ 40) 36 + at' 0x30 28 + at' (s.hw.settings.durableCap % 256) 12 + at' 4 8 + 0xF

/-- Capability words 0 to 7 (R9, R10). -/
def capWord (s : State) (i : Nat) : Nat :=
  match i with
  | 0 => capWord0 s
  | 1 => 0x3FFF_07FF_0005_F000
  | 2 => 0x0000_0F07_3F3F_01FF
  | 3 => 0x82A0_C631_0F60_0000
  | 4 => 0x2000_1000_1000_0100
  | 5 => capWord5 s
  | 6 => 0xFFF7_3FF5_040F_C1BF
  | _ => 0

/-! ## The slice region (R40, Table 15-8) -/

/-- ROSTER's 1,024-bit map as a number. -/
def rosterMap (l : List Nat) : Nat := ((List.range 1024).filter (fun n => l.contains n)).foldl (fun a n => a + 2 ^ n) 0

def sliceHeader (x : Slice) : Bytes :=
  toBytes 1 2 ++ toBytes x.compGen 2 ++ toBytes x.node 2 ++ toBytes 0 2 ++ toBytes x.extents.length 4 ++ toBytes x.sets.length 2
  ++ toBytes 0 2 ++ toBytes x.poolDigest 48 ++ toBytes (rosterMap x.roster) 128 ++ toBytes 0 64

/-- A sharing-set record (Table 02-3), padded to a multiple of 16 bytes. -/
def setRecord (x : SharingSet) : Bytes :=
  let n := x.members.length
  let body := toBytes x.setId 2 ++ toBytes (classCode x.cls) 1 ++ toBytes (b2n x.primary) 1 ++ toBytes n 2 ++ toBytes 0 10
    ++ x.members.flatMap (fun m => toBytes (agentNum m) 2)
  padTo ((body.length + 15) / 16 * 16) body

/-- An extent entry (Table 02-4). -/
def extentRecord (e : Extent) : Bytes :=
  let own := match e.owner with
    | .single p => at' p.node 26 + at' p.party 22
    | .set id => at' 1 63 + at' id 36
  let perm := at' (b2n e.permAtomic) 59 + at' (b2n e.permWrite) 58 + at' (b2n e.permRead) 57
  bytes64 [e.start, e.units - 1, own + at' (classCode e.cls) 60 + perm, 0]

/-- The slice as it is signed: header, sharing-set records and extent entries. -/
def signedSlice (x : Slice) : Bytes := sliceHeader x ++ x.sets.flatMap setRecord ++ x.extents.flatMap extentRecord

/-- Eight bytes of the slice region: the slice, then its RSA-3072 and SLH-DSA-SHA2-128s signatures, then zeros. -/
def sliceWord (s : State) (off : Nat) : Nat :=
  let x := s.hw.slice
  let b := signedSlice x
  let byte := fun (i : Nat) =>
    if i < b.length then b.getD i 0#8
    else if i < b.length + 384 + 7856 then Config.signatureByte x.digest (i - b.length)
    else 0#8
  ofBytes ((List.range 8).map (fun i => byte (off + i)))

/-! ## Reads -/

/-- A register's defined bits, and the mask of the bits that read undefined. -/
structure RegView where
  value : Nat
  open_ : Nat := 0
  deriving DecidableEq, Repr

/-- A field of n undefined bits at lo. -/
def openBits (lo n : Nat) : Nat := at' (2 ^ n - 1) lo

def allOpen : RegView := ⟨0, 2 ^ 64 - 1⟩

/-- SYNC_STATUS (Table 02-12). -/
def syncStatus (p : PartySt) : RegView :=
  ⟨at' p.syncGen 32 + at' (p.syncEntry % 65536) 16 + at' (syncStateCode p.syncState) 13 + at' (b2n p.busyDrop) 12
    + at' p.syncReason 8, openBits 0 8⟩

/-- SPATE_STATE of TIER_STATUS. Where several of its conditions hold at once the spec gives no precedence: an early flush reads before a braced
node, and that before a restore or an erase (DESIGN CHOICE, log entry 72). -/
def spateState (s : State) : Nat :=
  if s.flush.kind == .early then 1
  else if s.flush.braced then 2
  else if s.boot.erasing || s.boot.memAwait == 10 then 3
  else 0

/-- TIER_STATUS (Table 03-8). -/
def tierStatus (s : State) (party : Nat) : RegView :=
  let p := s.pty party
  let pool := (partyRec s party).pool
  let pinned := (pinnedPages s pool + 16383) / 16384
  ⟨at' (dirtyUnits s party % 2 ^ 24) 40 + at' (partyRec s party).shareGib 32 + at' (pinned % 1024) 22
    + at' (pinQuotaPages s pool / 16384 % 1024) 12 + at' (b2n p.pinShort) 7 + at' (b2n p.pinSaturated) 6
    + at' (b2n (writeThrough s party)) 5 + at' (b2n p.failingRow) 4 + at' (spateState s) 2, openBits 8 4 + openBits 0 2⟩

/-- RILL_STATUS (Table 08-4). -/
def rillStatus (s : State) (party : Nat) : RegView :=
  let c := Tbl.get {} s.rill.ctl party
  ⟨at' (c.rill % 65536) 48 + at' (rillStateCode c.state) 45 + at' (c.gen % 256) 37 + at' c.result 35 + at' c.reason 32 + at' c.fault 28
    + at' (b2n s.tide.free) 27 + at' (b2n c.cmdDrop) 26, openBits 0 26⟩

/-- CB_STATUS (Table 10-6). -/
def cbStatus (s : State) (party : Nat) : RegView :=
  let c := Tbl.get {} s.shoal.ctl party
  ⟨at' (c.slot % 4096) 52 + at' (cbStateCode c.state) 50 + at' (c.gen % 65536) 34 + at' c.result 32 + at' c.reason 29
    + at' (freeSlots s party).length 16 + at' (b2n c.cmdDrop) 15, openBits 0 15⟩

/-- ERR_CTL (Table 15-12). -/
def errCtl (p : PartySt) : RegView :=
  ⟨at' (p.errWrite % 65536) 48 + at' (p.errRead % 65536) 32 + at' (b2n p.errLost) 31 + at' (b2n p.msixEn) 30 + at' p.msixVec 19,
    openBits 0 19⟩

/-- BOOT_STATUS (Table 15-10). -/
def bootStatus (s : State) : RegView :=
  let b := s.boot
  ⟨at' b.step 56 + at' b.cause 48 + at' b.rackPos 40 + at' (b2n b.ready) 39 + at' (mapStateCode s.map.state) 37
    + at' (b2n b.restored) 36 + at' (b2n b.erasing) 35 + at' b.hwSlot 34 + at' b.fwSlot 33 + at' (b2n b.warm) 32
    + at' s.hw.compGen 16 + min 0xFFFF b.restorePoison, 0⟩

/-- RESET (Table 15-15). -/
def resetView (s : State) (party : Nat) : RegView :=
  ⟨at' (b2n (resetBusy s party)) 47 + at' (drainingRills s party) 16, openBits 48 16 + openBits 32 15 + openBits 0 16⟩

/-- Word w of entry slot k of the error window (Table 15-11); a slot never written holds no stated value. -/
def errWord (p : PartySt) (k w : Nat) : RegView :=
  match p.errRing.find? (fun e => e.index % 16 == k) with
  | none => allOpen
  | some e => match w with
    | 0 => ⟨at' (e.index % 65536) 48 + at' e.status 40 + at' e.source 36, openBits 0 36⟩
    | 1 => ⟨e.address, 0⟩
    | 2 => ⟨e.detail, 0⟩
    | _ => ⟨e.tide, 0⟩

/-- A register of a party page (Table 15-9); none at an offset the table does not list. A write-only register reads undefined. -/
def regView (s : State) (party x : Nat) : Option RegView :=
  let p := s.pty party
  if 0x100 ≤ x && x < 0x300 then some (errWord p ((x - 0x100) / 32) ((x - 0x100) % 32 / 8))
  else match x with
    | 0x000 => some ⟨p.ctxBase.toNat, 0⟩
    | 0x010 => some (syncStatus p)
    | 0x018 => some (tierStatus s party)
    | 0x020 => some ⟨p.rillBase.toNat, 0⟩
    | 0x030 => some (rillStatus s party)
    | 0x048 => some ⟨s.tide.count, 0⟩
    | 0x050 => some ⟨Tbl.get 0 s.shoal.base party, 0⟩
    | 0x060 => some (cbStatus s party)
    | 0x070 => some (errCtl p)
    | 0x078 => some (bootStatus s)
    | 0x080 => some (resetView s party)
    | 0x008 | 0x028 | 0x038 | 0x040 | 0x058 | 0x068 => some allOpen
    | _ => none

/-- MIRROR_STATUS of a setting (Table 07-11). -/
def mirrorStatus (s : State) (i : Nat) : RegView :=
  let m := Tbl.get {} s.sluice.mirrors i
  ⟨at' (m.lastBatch % 2 ^ 32) 32 + at' (min 0xFFFFF (lagMs s i)) 12 + at' m.state 8 + at' (b2n m.lagExceeded) 3 + at' (b2n m.primary) 2,
    openBits 4 4 + openBits 0 2⟩

/-- The word a view reads as: its undefined bits from a free word. -/
def readView (v : RegView) (s : State) : W64 × State :=
  if v.open_ == 0 then (BitVec.ofNat 64 v.value, s)
  else
    let (f, s) := takeWord s
    (BitVec.ofNat 64 v.value ||| (f &&& BitVec.ofNat 64 v.open_), s)

/-- Node control space read at an offset whose access R38 and R43 allow. -/
def readCtl (off : Nat) (s : State) : Status × W64 × State :=
  let view := match ctlRegion off with
    | .cap i => some ⟨capWord s i, 0⟩
    | .mirror i => some (mirrorStatus s i)
    | .mailbox n w => some ⟨(nth 0#64 (Tbl.get [] s.map.mailbox n) w).toNat, 0⟩
    | .party p x => regView s p x
    | .slice o => some ⟨sliceWord s o, 0⟩
    | .none => none
  match view with
  | some v => let (w, s) := readView v s
              (.ok, w, s)
  | none => (.faultUnmapped, 0#64, s)

/-! ## Writes -/

/-- DOMAIN_REJOIN (R148, Table 15-14): by a host that is an agent of the domain; any other write is ignored and logged. -/
def domainRejoin (party : Nat) (v : W64) (s : State) : State :=
  let d := field v 50 14
  let agent : Pair := ⟨s.node, party⟩
  if party < 2 && ((findDomain s d).map (fun x => x.agents.contains agent)).getD false then
    agentJoins agent (updHost party (fun h => { h with dead := false }) s)
  else logIgnored party (partyReg party 0x068) v.toNat s

/-- DOMAIN_REJOIN (R148). -/
def execDomainRejoin (party : Fin 8) (value : W64) (s : State) : Host.Outcome State Fault Refusal :=
  .next (domainRejoin party value s)

/-- A write of a party page register (Table 15-9): its completion status and the state. Read-only fields keep their values. -/
def writeReg (party x : Nat) (v : W64) (s : State) : Status × State :=
  if 0x100 ≤ x && x < 0x300 then (.ok, s)
  else match x with
    | 0x000 => (.ok, updPty party (fun p => { p with ctxBase := v }) s)
    | 0x008 => (.ok, mirrorSync party v s)
    | 0x010 => (.ok, updPty party (fun p => { p with busyDrop := p.busyDrop && !flag v 12 }) s)
    | 0x018 => (.ok, updPty party (fun p => { p with pinShort := p.pinShort && !flag v 7, pinSaturated := p.pinSaturated && !flag v 6
                                                     failingRow := p.failingRow && !flag v 4 }) s)
    | 0x020 => (.ok, updPty party (fun p => { p with rillBase := v }) s)
    | 0x028 =>
      let cmd := field v 60 4
      let rill := field v 0 16
      if cmd == 0 || 5 < cmd then (.ok, logIgnored party (partyReg party 0x028) v.toNat s)
      else (if ownsRill s party rill then .ok else .refusedIsolation, rillCommand party cmd rill s)
    | 0x030 => (.ok, updCtl party (fun c => { c with cmdDrop := c.cmdDrop && !flag v 26 }) s)
    | 0x038 => doorbell party v s
    | 0x040 => reachWrite party (field v 28 4) v s
    | 0x048 | 0x078 => (.ok, s)
    | 0x050 => (.ok, writeCbBase party v s)
    | 0x058 => (.ok, cbCommand party (field v 60 4) v s)
    | 0x060 => (.ok, updCb party (fun c => { c with cmdDrop := c.cmdDrop && !flag v 15 }) s)
    | 0x068 => (.ok, domainRejoin party v s)
    | 0x070 => (.ok, updPty party (fun p => { p with errRead := field v 32 16, errLost := p.errLost && !flag v 31
                                                     msixEn := flag v 30, msixVec := field v 19 11 }) s)
    | 0x080 => (.ok, writeReset party (field v 60 4) s)
    | _ => (.faultUnmapped, s)

/-- A write in node control space that R38 and R43 allow; the announce mailbox is served by the control logic (R44). -/
def writeCtl (off : Nat) (v : W64) (s : State) : Status × State :=
  match ctlRegion off with
  | .party p x => writeReg p x v s
  | .mirror i => (.ok, { s with sluice := { s.sluice with
      mirrors := Tbl.upd {} s.sluice.mirrors i (fun m => { m with lagExceeded := m.lagExceeded && !flag v 3 }) } })
  | .mailbox n w => (.ok, { s with map := { s.map with
      mailbox := Tbl.upd [] s.map.mailbox n (fun ws => setNth (ws ++ List.replicate (8 - ws.length) 0#64) w v) } })
  | .cap _ | .slice _ => (.refusedIsolation, s)
  | .none => (.faultUnmapped, s)

/-- A local party's register write: performed where R38 allows it; a host's posted write elsewhere is dropped. -/
def registerWrite (writer off : Nat) (v : W64) (s : State) : State :=
  match ctlCheck s writer ⟨s.node, writer⟩ off 8 true with
  | some _ => s
  | none => (writeCtl off v s).2

/-- REGISTER_WRITE (R371). -/
def execRegisterWrite (writer : Fin 8) (offset : BitVec 52) (value : W64) (s : State) : Host.Outcome State Fault Refusal :=
  .next (registerWrite writer offset.toNat value s)

end Sys2Proof.Machine
end

