-- ==== Sys2Proof/Machine/Lost.lean ====
section
/-!
DEFINITION. The loss of the owner of a multi-phase operation (R204, Table 07-12).
-/
namespace Sys2Proof.Machine

open Sys2Proof

/-- The log entry of a loss: the owner's node and the operation (Table 16-10). -/
def logLost (party node what : Nat) (s : State) : State := logEv 0x0605 sevWarning party (statusCode .ownerLost) node what s

/-- Requests of a descriptor that its mill or the rill engine sent as reductions to a node. -/
def reductionsTo (s : State) (node rill index : Nat) : List Req :=
  (s.net.sent.map (·.req)).filter (fun r => r.op == .reduce && addrNode r.addr == node && (match r.src with
    | .rill a b _ => a == rill && b == index
    | .mill m => (millOf s m).job == some (rill, index)
    | _ => false))

/-- Pieces of a run whose owner is a node and whose reply has not come. -/
def piecesOf (s : State) (node rill index : Nat) : Bool :=
  match findRun s rill index with
  | some r => r.pieces.any (fun p => p.owner == node && p.sent && p.reply.isNone)
  | none => false

/-- Requests to a lost owner, sent and without a response, complete with OWNER_LOST; what of them waits to be sent is dropped. -/
def loseRequests (hit : Req → Bool) (s : State) : State :=
  let lost := s.net.sent.filter (fun x => hit x.req)
  let named := fun (t : TxItem) => t.isReq && lost.any (fun x => x.port == t.port && x.tag == t.tag)
  let s := { s with net := { s.net with sent := s.net.sent.filter (fun x => !hit x.req), txq := s.net.txq.filter (fun t => !named t) } }
  lost.foldl (fun s x => complete x.req .ownerLost [] s) s

/-- Requests of a descriptor's own chunks to a node. -/
def ofJobTo (node rill index : Nat) (r : Req) : Bool :=
  addrNode r.addr == node && (match r.src with
    | .rill a b _ => a == rill && b == index
    | _ => false)

/-- An exchange descriptor whose owner is lost: what it gathered is discarded, nothing more is sent, and it ends with OWNER_LOST once what
it has issued has landed; an UPDATE, a COMMIT, an INSERT, a DELETE and an ADVANCE are indeterminate (R304). -/
def lostExchange (node rill index : Nat) (s : State) : State :=
  match findJob s rill index, findRun s rill index with
  | some j, some r =>
    if !piecesOf s node rill index then s
    else
      let indet := (j.kind == 3 && (j.op == 2 || j.op == 3)) || (j.kind == 4 && (j.op == 2 || j.op == 3 || j.op == 4))
      let s := { s with exch := { s.exch with waiting := s.exch.waiting.filter (fun w => !(w.1 == r.group && w.2.1 == node)) } }
      let s := updRun rill index (fun r => { r with pieces := [], outs := [], advance := 0, result := some (.ownerLost, 0, indet) }) s
      exchEnd rill index (loseRequests (ofJobTo node rill index) (logLost j.party node 0 s))
  | _, _ => s

/-- A reduction through an intermediate that is lost: its descriptor ends with OWNER_LOST and INDETERMINATE once what it has issued has
landed; the ranges go to the party's error window (R373). -/
def lostReduction (node rill index : Nat) (s : State) : State :=
  match findJob s rill index with
  | none => s
  | some j =>
    let rs := reductionsTo s node rill index
    if rs.isEmpty then s
    else
      let s := rs.foldl (fun s r => errorEntry j.party (statusCode .ownerLost) 3 r.addr r.len s) s
      let s := updJob rill index (fun j => { j with indet := true, err := some (0, .ownerLost, 0) }) (logLost j.party node 1 s)
      let mine := (s.mills.filter (fun m => m.2.job == some (rill, index))).map (·.1)
      let s := mine.foldl (fun s m => updMill m (fun x => { x with ended := some (.ownerLost, 0, true) }) s) s
      mine.foldl (fun s m => tryFinish m s) (loseRequests (fun r => rs.contains r) s)

/-- Every unacknowledged store and load of a window completes with OWNER_LOST; its staging and read buffers are discarded. -/
def lostWindow (window : Nat) (s : State) : State :=
  match findWindow s window with
  | none => s
  | some w =>
    let mine := fun (x : Nat) => x == window
    let stores := (s.sluice.stages.filter (fun x => mine x.window)).flatMap (·.stores)
      ++ (s.sluice.shipped.filter (fun x => mine x.window)).flatMap (·.stores)
    let loads := (s.sluice.fetches.filter (fun x => mine x.window)).flatMap (fun f => f.loads ++ f.later)
    let waits := s.sluice.waitStage.filter (fun r => mine (winNum (addrOffset r.addr)))
    let s := { s with sluice := { s.sluice with
      stages := s.sluice.stages.filter (fun x => !mine x.window), shipped := s.sluice.shipped.filter (fun x => !mine x.window)
      fetches := s.sluice.fetches.filter (fun x => !mine x.window), bufs := s.sluice.bufs.filter (fun x => !mine x.window)
      waitStage := s.sluice.waitStage.filter (fun r => !waits.contains r) } }
    logLost 15 w.farNode 2 ((stores ++ loads ++ waits).foldl (fun s r => complete r .ownerLost [] s) s)

/-- The far gateway of a mirror set: behind this node's own window, or else behind the gateway node, whose window's far node this node's image
does not hold (log entry 72). -/
def mirrorFar (s : State) (m : MirrorSetting) : Nat :=
  if m.gateway == s.node then ((findWindow s m.window).map (·.farNode)).getD m.gateway else m.gateway

/-- A mirror batch whose far gateway is lost (R201). -/
def lostMirror (i : Nat) (s : State) : State :=
  match mirrorSetting s i with
  | none => s
  | some m => if batchOpen (mirrorOf s i) then logLost 15 (mirrorFar s m) 3 (enterLinkDown i s) else s

/-- A slice read whose peer is lost starts again 10 ms later (R44). -/
def lostAgreement (node : Nat) (s : State) : State :=
  match s.map.reading.find? (fun a => a.node == node) with
  | none => s
  | some a => logLost 15 node 4 { s with map := { s.map with
      reading := s.map.reading.filter (fun a => a.node != node), redeliver := s.map.redeliver ++ [{ a with reply := true }] } }

/-- Every window and every mirror batch that lies behind a far gateway is lost: one in the pool, or one of another site. -/
def lostFar (site : Bool) (node : Nat) (s : State) : State :=
  let behind := fun (w : SluiceWindow) => w.site == site && w.farNode == node
  let s := s.hw.windows.foldl (fun s w => if behind w then lostWindow w.window s else s) s
  s.hw.mirrors.foldl (fun s m =>
    let own := m.gateway == s.node && ((findWindow s m.window).map behind).getD false
    if own || (!site && m.gateway == node) then lostMirror m.index s else s) s

/-- Every multi-phase operation that a node of the pool holds is lost (R45). -/
def lostNode (node : Nat) (s : State) : State :=
  let s := s.rill.jobs.foldl (fun s j => lostReduction node j.rill j.index (lostExchange node j.rill j.index s)) s
  lostFar false node { s with exch := { s.exch with waiting := s.exch.waiting.filter (fun w => w.2.1 != node) } }

/-- Whether a request went to an owner in the pool, or across a site. -/
def wentTo (s : State) (site : Bool) (node : Nat) (r : Req) : Bool :=
  let beyond := match r.src with
    | .sluice w _ => ((findWindow s w).map (·.site)).getD false
    | .mirror i => ((mirrorSetting s i).bind (fun m => if m.gateway == s.node then findWindow s m.window else none)).any (·.site)
    | _ => false
  isPhase s r && beyond == site && addrNode r.addr == node

/-- The owners to which every route refuses: what they hold is lost, and so is every request that was part of it (R204). -/
def losses (s : State) : State :=
  s.net.gone.foldl (fun s g => loseRequests (wentTo s g.1 g.2) (if g.1 then lostFar true g.2 s else lostNode g.2 s))
    { s with net := { s.net with gone := [] } }

/-- OWNER_LOST (R204). -/
def execOwnerLost (owner : LostOwner) (s : State) : Host.Outcome State Fault Refusal :=
  .next (match owner with
    | .exchange n r i => lostExchange n r i s
    | .reduction n r i => lostReduction n r i s
    | .sluice w => lostWindow w s
    | .mirror i => lostMirror i s
    | .agreement n => lostAgreement n s)

end Sys2Proof.Machine
end

