-- ==== Sys2Proof/Machine/Agreement.lean ====
section
/-!
DEFINITION. Map agreement (R43 to R47, R368): announcements, slice reads, the pool map and MAP_STATE.
-/
namespace Sys2Proof.Machine

open Sys2Proof

/-- MAP_STATE moves (R45): the transition is logged, ALERT# is asserted while in ISLAND, and at AGREED the generation record is
written where it differs (R47). -/
def mapTo (new : MapState) (s : State) : State :=
  if s.map.state == new then s
  else
    let s := logEv 0x0201 sevNotice 15 0 (mapStateCode s.map.state) (mapStateCode new) s
    let s := { s with map := { s.map with state := new } }
    let s := if new == .island then setAlert alertIsland s else dropAlert alertIsland s
    if new == .agreed then { s with nv := { s.nv with genRecord := some s.hw.compGen } } else s

/-- Agreement does not run where the node was booted into ISLAND (R47, R88, R341). -/
def forcedIsland (s : State) : Bool := s.map.genFault || s.nv.manifestLost || s.map.lostKeys

def myAnnouncement (s : State) (reply : Bool) : Announcement :=
  { node := s.node, compGen := s.hw.compGen, sliceLength := s.hw.slice.length, poolDigest := s.hw.slice.poolDigest
    boot := s.nv.bootNumber, reply }

def sendAnnounce (n : Nat) (reply : Bool) (s : State) : State := emit (.announce n (myAnnouncement s reply)) s

/-- Announcements to every ROSTER node that is not yet in the pool map. -/
def announceAll (s : State) : State :=
  (s.hw.slice.roster.filter (fun n => n != s.node && !s.map.pool.contains n)).foldl (fun s n => sendAnnounce n false s) s

/-- Map agreement starts (R44, R368). -/
def startAgreement (s : State) : State :=
  if s.map.started || forcedIsland s then s
  else announceAll { s with map := { s.map with started := true, window := true, pool := [s.node] } }

def markDisagrees (n : Nat) (s : State) : State := { s with map := { s.map with disagrees := insertNat n s.map.disagrees } }

/-! ## A slice's checks (R40, R41) -/

/-- Both signatures verify under one operator key pair whose digest is fused and not revoked (R40, R343). -/
def operatorSigned (s : State) (rsa slh : List Nat) : Bool :=
  (s.nv.fuses.opKeys.zip s.nv.fuses.opRevoke).any (fun k => k.1 != 0 && !k.2 && rsa.contains k.1 && slh.contains k.1)

def setOk (x : SharingSet) : Bool :=
  x.setId < 4096 && (x.cls == .coherent || x.cls == .sharedRo || x.cls == .mirror) && 2 ≤ x.members.length && x.members.length ≤ 256
  && (!x.primary || x.cls == .mirror) && x.rsvd == 0

def extentOk (sl : Slice) (e : Extent) : Bool :=
  e.rsvd == 0 && e.unused == 0 && e.start % 4096 == 0 && 0 < e.units && extentEnd e ≤ 64 * 2 ^ 40
  && (match e.owner with
    | .single _ => e.cls == .priv || e.cls == .coherent
    | .set id => match findSet sl id with
      | some x => e.cls == x.cls && (e.cls != .mirror || x.primary || (!e.permWrite && !e.permAtomic))
      | none => false)
  && (e.cls != .sharedRo || (!e.permWrite && !e.permAtomic))

/-- Extents sorted by START without overlap. -/
def extentsSorted : List Extent → Bool
  | a :: b :: t => extentEnd a ≤ b.start && extentsSorted (b :: t)
  | _ => true

/-- The rules of R41 that can be checked on a slice alone. -/
def sliceFieldsOk (sl : Slice) : Bool :=
  sl.format == 1 && sl.rsvd == 0 && sl.node < 1024 && 0 < sl.extents.length && sl.extents.length ≤ 65536 && sl.sets.length ≤ 4096
  && sl.sets.all setOk && ((sl.sets.map (·.setId)).eraseDups.length == sl.sets.length)
  && sl.extents.all (extentOk sl) && extentsSorted sl.extents && sl.roster.all (· < 1024)

/-! ## The pool map -/

/-- R148: a node entering the pool map is told of each local agent that has joined a domain it homes or serves. -/
def joinsFor (n : Nat) (s : State) : State :=
  let mine := s.coh.joined.filterMap (fun j => (domainOfAgent s j).bind (fun d =>
    if (domainNodes s d).contains n then some ({ dest := n, domain := d.num, agent := j, join := true } : Notice) else none))
  mine.foldl (fun s x => sendNotice x s) { s with coh := { s.coh with notices := s.coh.notices ++ mine } }

/-- A peer whose slice agrees enters the pool map (R44, R45). -/
def addPeer (a : Announcement) (sl : Slice) (s : State) : State :=
  let s := { s with map := { s.map with
    pool := insertNat a.node s.map.pool, bootOf := Tbl.put s.map.bootOf a.node a.boot, disagrees := removeNat a.node s.map.disagrees
    slices := Tbl.put s.map.slices a.node sl } }
  let s := joinsFor a.node (settleDomains (recompute s))
  if s.map.state == .island then mapTo .agreed s else s

/-- A peer that has reset leaves the pool map (R44, R45, R140): what it held is lost, and every domain that it homes or serves moves to
FALLING, an UP one with all that R144 does. The domains are computed again only when it agrees again (R140). -/
def peerReset (n : Nat) (s : State) : State :=
  let mine := s.coh.domains.filter (fun d => d.state != .falling && (domainNodes s d).contains n)
  let s := mine.foldl (fun s d => if d.state == .up then fallDomain d.num 8 s
    else updDomain d.num (fun d => { d with state := .falling, cause := 8, joins := [] }) s) s
  let s := lostNode n s
  { s with map := { s.map with pool := removeNat n s.map.pool, bootOf := Tbl.del s.map.bootOf n } }

/-- One announcement handled (R44). One that comes before agreement has started, or to a node booted into ISLAND, is dropped, the spec not
saying (DESIGN CHOICE, log entry 68). -/
def handleAnnounce (a : Announcement) (s : State) : State :=
  if !s.map.started || !s.hw.slice.roster.contains a.node || a.node == s.node then s
  else
    let s := if a.reply then s else sendAnnounce a.node true s
    let known := s.map.pool.contains a.node
    if known && Tbl.find s.map.bootOf a.node == some a.boot then s
    else
      let s := if known then peerReset a.node s else s
      if a.compGen != s.hw.compGen || a.poolDigest != s.hw.slice.poolDigest then markDisagrees a.node s
      else emit (.sliceRead a.node a.sliceLength) { s with map := { s.map with
        reading := s.map.reading.filter (fun x => x.node != a.node) ++ [a] } }

/-- ANNOUNCE (R44). -/
def execAnnounce (a : Announcement) (s : State) : Host.Outcome State Fault Refusal := .next (handleAnnounce a s)

/-- A slice read ended: with the slice read, or none where it failed. -/
def sliceReadComplete (n : Nat) (got : Option Slice) (s : State) : State :=
  match s.map.reading.find? (fun a => a.node == n) with
  | none => s
  | some a =>
    let s := { s with map := { s.map with reading := s.map.reading.filter (fun a => a.node != n) } }
    match got with
    | none => { s with map := { s.map with redeliver := s.map.redeliver ++ [{ a with reply := true }] } }
    | some sl =>
      if Tbl.find s.hw.digests n != some sl.digest then markDisagrees n s
      else if !(operatorSigned s sl.rsaKeys sl.slhKeys && sliceFieldsOk sl) then markDisagrees n s
      else addPeer a sl s

/-- SLICE_READ_COMPLETE (R44). -/
def execSliceReadComplete (node : Fin 1024) (got : Option Slice) (s : State) : Host.Outcome State Fault Refusal :=
  .next (sliceReadComplete node got s)

/-- ANNOUNCE_RESEND (R44): every 10 ms within the window. -/
def execAnnounceResend (s : State) : Host.Outcome State Fault Refusal := .next (if s.map.window then announceAll s else s)

/-- SLICE_REDELIVER (R44): an announcement whose slice read failed is handled again, with REPLY = 1. -/
def execSliceRedeliver (node : Fin 1024) (s : State) : Host.Outcome State Fault Refusal :=
  .next (match s.map.redeliver.find? (fun a => a.node == node.val) with
    | none => s
    | some a => handleAnnounce a { s with map := { s.map with redeliver := s.map.redeliver.erase a } })

/-- AGREEMENT_WINDOW_END (R44): ISLAND where no other node agrees and at least one disagrees, else AGREED. -/
def agreementWindowEnd (s : State) : State :=
  if !s.map.window then s
  else
    let s := { s with map := { s.map with window := false } }
    if s.map.state != .forming then s
    else if s.map.pool == [s.node] && !s.map.disagrees.isEmpty then mapTo .island (bootStep 13 s)
    else mapTo .agreed (bootStep 13 s)

/-- AGREEMENT_WINDOW_END (R44). -/
def execAgreementWindowEnd (s : State) : Host.Outcome State Fault Refusal := .next (agreementWindowEnd s)

/-- AGREEMENT_START_TIMEOUT (R368): 1 s after die release with no switch-plane port trained. -/
def execAgreementStartTimeout (s : State) : Host.Outcome State Fault Refusal :=
  .next (
    let up := (portsOfKind s .switch).any (fun p => !(upLinks s p).isEmpty)
    if s.boot.phase == .released && !up then startAgreement s else s)

/-- The announcement that eight mailbox words spell (Table 02-6). -/
def announcementOf (ws : List W64) : Announcement :=
  let b := ws.flatMap (fun w => toBytes w.toNat 8)
  let num := fun lo n => ofBytes ((b.drop lo).take n)
  { node := num 0 2, compGen := num 2 2, sliceLength := num 4 4, poolDigest := num 8 48, boot := num 56 4, reply := bit (num 60 1) 0 }

/-- A store to the announce mailbox (R43): word 0 of a slot, stored last, announces (log entry 52). -/
def mailboxStored (off : Nat) (s : State) : State :=
  match ctlRegion off with
  | .mailbox n 0 =>
    let ws := Tbl.get [] s.map.mailbox n
    handleAnnounce (announcementOf (ws ++ List.replicate (8 - ws.length) 0#64)) s
  | _ => s

end Sys2Proof.Machine
end

