-- ==== Sys2Proof/Machine/Perform.lean ====
section
/-!
DEFINITION. Requests performed at this node: the checks of R42, tier states (R65, R66), durable writes (R80), provisional reads (R136),
windows and node control space; completions of the node's own multi-part work; and the meanings of the request commands.
-/
namespace Sys2Proof.Machine

open Sys2Proof

/-! ## Riffle sub-blocks that do not decode to 4,096 bytes (R275) -/

/-- The sub-block marked DAMAGED, in its directory entry too, and repaired: from the flash copy where its unit is clean, else poisoned. -/
def damageUnit (u : Nat) (s : State) : State :=
  let s := { s with store := { s.store with damaged := s.store.damaged ++ [(u / 16, u % 16)] } }
  let s := updTier (u / 16) (fun e => { e with subBlocks := e.subBlocks.zipIdx.map (fun x => if x.2 == u % 16 then at' 3 30 + x.1 % 2 ^ 30 else x.1) }) s
  if (tierOf s (u / 16)).dirty.contains (u % 16) then poisonLines (rangeFrom (u * 64) 64) s
  else putUnit u (flashUnit s u) s

/-- A read of a sub-block whose decode produced n bytes: SHORT with zeros after them, or OVERRUN. -/
def damagedRead (r : Req) (n : Nat) (s : State) : State :=
  let off := addrOffset r.addr
  let d := readMem s off r.len
  let keep := min r.len (n - off % 4096)
  let (st, d) := if n < 4096 then (Status.short, padTo r.len (d.take keep)) else (Status.overrun, d)
  complete r st d (damageUnit (unitOf off) s)

/-! ## Provisional reads (R136, R246) -/

/-- Whether a read may be answered with provisional data: every line of it is in its party's hot-line ways. -/
def mayProvide (s : State) (r : Req) : Bool :=
  (r.op == .load || r.op == .rdShared) && r.cls == .coherent && r.provOk && !opAcquire r.opf
  && (linesOf (addrOffset r.addr) r.len).all (fun l => hotHit s r.party l)
  && readStatus s (addrOffset r.addr) r.len {} == .ok
  && (match r.src with
    | .port .. => r.ptag.isSome && r.join.isNone
    | .mill _ => r.join.isNone
    | _ => false)

/-- A write that is admitted and not yet performed overtakes a provisional read of its lines (R136). -/
def overtaken (r : Req) (s : State) : State :=
  (s.weir.pipe.filter (fun w => isWriteOp w.op && isHome s w && addrSpace w.addr == 0 && sameGranule w r)).foldl (fun s w =>
    touchLines (addrOffset w.addr) w.len s) s

/-- The provisional response: over the port with its PTAG, or into the mill. -/
def provide (r : Req) (s : State) : State :=
  let d := readMem s (addrOffset r.addr) r.len
  match r.src with
  | .port p l =>
    let t := r.ptag.getD 0
    let mark := fun (x : PTagUse) => if x.port == p && x.ptag == t then { x with answered := true, req := some r } else x
    overtaken r (respondOn p l r.tag .ok d (some t) { s with net := { s.net with ptags := s.net.ptags.map mark } })
  | .mill m =>
    let x : PTagUse := { port := millPort m, ptag := 0, link := 1000, line := lineOf (addrOffset r.addr), req := some r, answered := true }
    overtaken r { s with net := { s.net with ptags := s.net.ptags ++ [x] }
                         weir := { s.weir with landed := s.weir.landed ++ [{ req := r, status := .ok, data := d, prov := true }] } }
  | _ => s

/-- What a confirmed RD_SHARED grants (R136): none when it needs a directory eviction. -/
def confirmGrant (r : Req) (s : State) : Option State :=
  if r.op != .rdShared then some s
  else
    let line := lineOf (addrOffset r.addr)
    let i := (memberIndex (lineMembers s line) r.origin).getD 0
    match dirFind s line with
    | none => match dirPlace s line with
      | .free w => some (grantFresh r i w line s)
      | _ => none
    | some e => if e.state == .s then some (updDir line (fun e => addSharer e i) s) else some s

/-- PROVISIONAL_RESOLVE (R136): the directory's result is known; the PTAG is confirmed, or cancelled and the read served in the
ordinary way. -/
def provisionalResolve (port ptag : Nat) (s : State) : State :=
  match s.net.ptags.find? (fun p => p.port == port && p.ptag == ptag && p.answered && !p.resolved) with
  | none => s
  | some p =>
    match p.req with
    | none => s
    | some r =>
      let mark := fun (x : PTagUse) => if x.port == port && x.ptag == ptag then { x with resolved := true, req := none } else x
      let s := { s with net := { s.net with ptags := s.net.ptags.map mark } }
      match (if confirms s r.origin p then confirmGrant r s else none) with
      | some s => confEntry p 1 s
      | none => cohPerform { r with ptag := none, provOk := false } r.ecc false (confEntry p 2 s)

/-! ## Performing -/

/-- A store that put a header word into a slot of an exchange area posts the slot (R302). -/
def postStored (r : Req) (s : State) : State :=
  if r.op != .store then s
  else match areaSlot s (addrOffset r.addr) with
    | some (g, n, at_) => if at_ == 0 && 8 ≤ r.len then postSlot g n s else s
    | none => s

/-- The lines a read brings into its party's hot-line ways (R18). -/
def fillHot (r : Req) (s : State) : State :=
  if r.op == .load || r.op == .rdShared || r.op == .rdOwn then
    (linesOf (addrOffset r.addr) r.len).foldl (fun s l => hotFill r.party l s) s
  else s

/-- The operation itself, its page in DRAM: provisional data, a COHERENT line's transitions, or the access at once. -/
def performOp (r : Req) (ecc : Ecc) (s : State) : State :=
  if mayProvide s r then provide { r with ecc } s
  else postStored r (fillHot r (cohPerform r ecc false s))

/-- The home checks of a request on backed space: R42 or R301; a multicast copy's group first (R183); a combined request's are its
entries' own (R187). A caching request to a range that is not COHERENT has no row in Table 05-6 (log entry 53). -/
def memCheck (s : State) (r : Req) : Option Status :=
  let off := addrOffset r.addr
  let member := s.hw.deltas.any (fun d => d.group == field r.opf 48 8 && d.member)
  if r.op == .mcastStore && !member then some .refusedIsolation
  else if r.op == .confRead || r.op == .confAtomic then none
  else match spaceCheck s r.origin r.op r.cls off r.len with
    | some st => some st
    | none =>
      let coh := ((findExtent s.hw.slice off r.len).map (fun e => e.cls == .coherent)).getD false
      if isCachingOp r.op && !coh then some .faultPermission else none

/-- A request on backed space of this node, admitted. -/
def performMem (r : Req) (ecc : Ecc) (s : State) : State :=
  let page := tierPage (addrOffset r.addr)
  match memCheck s r with
  | some st => complete r st [] s
  | none =>
    if !targetOk r then complete r .faultPermission [] s
    else match (tierOf s page).state with
      | .moving => needStill page r s
      | .flash => needPlain page r s
      | .riffle =>
        if isWriteOp r.op then needPlain page r s
        else match ecc.decoded with
          | some n => if n == 4096 || r.op == .evict || r.op == .markDirty then performOp r ecc s else damagedRead r n s
          | none => performOp r ecc s
      | .plain => placeDurable { r with ecc } (performOp r ecc) s

/-- A window access at this gateway (R194 to R196). -/
def performWindow (r : Req) (s : State) : State :=
  if r.op == .sluicePut || r.op == .sluiceGet then takePiece r s
  else match windowCheck s r.origin r.op (addrOffset r.addr) r.len with
    | some st => complete r st [] s
    | none => if r.op == .load then windowLoad r s else stageStore r s

/-- An access to node control space (R38, R43, R179). -/
def performCtl (r : Req) (s : State) : State :=
  let off := addrOffset r.addr
  if r.op != .load && r.op != .store then complete r .faultPermission [] s
  else match ctlCheck s r.party r.origin off r.len (r.op == .store) with
    | some st => complete r st [] s
    | none =>
      if r.op == .load then
        let (st, w, s) := readCtl off s
        complete r st (toBytes w.toNat 8) s
      else
        let (st, s) := writeCtl off (BitVec.ofNat 64 (ofBytes r.data)) s
        complete r st [] (mailboxStored off s)

/-- A pin message at the home (R72). -/
def performPin (r : Req) (s : State) : State :=
  let off := addrOffset r.addr
  match spaceCheck s r.origin r.op r.cls off r.len with
  | some st => complete r st [] s
  | none => complete r .ok [] (pinPages r.origin r.party (tierPage off) (field r.opf 0 40 + 1) (flag r.opf 55) s)

/-- A request performed at this node. -/
def perform (r : Req) (ecc : Ecc) (s : State) : State :=
  if r.op == .pinMsg then performPin r s
  else match addrSpace r.addr with
    | 0 => performMem r ecc s
    | 1 => performWindow r s
    | 2 => performCtl r s
    | _ => complete r .faultUnmapped [] s

/-! ## Completions of the node's own multi-part work -/

/-- A combined request answered (R188): each entry gets its own status and data; an error is every entry's. -/
def comboLanded (x : Landed) (id : Nat) (s : State) : State :=
  match s.net.combosOut.find? (fun c => c.id == id) with
  | none => s
  | some c =>
    let s := { s with net := { s.net with combosOut := s.net.combosOut.filter (fun c => c.id != id) } }
    let one := fun (e : Req × Nat) (s : State) =>
      let (r, k) := e
      if x.status != .ok then complete r x.status [] s
      else if c.head.op == .load then complete r (statusOf (nth 0#8 x.data k).toNat) (x.data.drop 64) s
      else
        let w := (x.data.drop (16 * k)).take 16
        let old := if areturns r.opf then (w.drop 8).take r.len else []
        complete r (statusOf (nth 0#8 w 0).toNat) old s
    (c.entries.zipIdx).foldl (fun s e => one e s) s

/-- Whether a completion belongs to work that goes on by itself. -/
def selfWork (x : Landed) : Bool :=
  match x.req.src with
  | .sluice .. | .mirror _ | .combo _ | .far .. | .exch .. => true
  | _ => false

/-- Whether a window has anything under way to its far gateway. -/
def windowBusy (s : State) (w : Nat) : Bool :=
  s.sluice.stages.any (fun x => x.window == w) || s.sluice.shipped.any (fun x => x.window == w) || s.sluice.fetches.any (fun f => f.window == w)

/-- One such completion taken. A piece that meets OWNER_LOST loses what its window or its batch had under way (R204). -/
def pumpOne (x : Landed) (s : State) : State :=
  match x.req.src with
  | .sluice w b =>
    let s := { s with weir := { s.weir with landed := s.weir.landed.erase x } }
    if x.status != .ownerLost then retryStage (sluiceLanded x w b s) else if windowBusy s w then lostWindow w s else s
  | .mirror i =>
    let s := { s with weir := { s.weir with landed := s.weir.landed.erase x } }
    if x.status == .ownerLost then lostMirror i s else mirrorLanded x i s
  | .combo c => comboLanded x c { s with weir := { s.weir with landed := s.weir.landed.erase x } }
  | .far _ p => farLanded x p { s with weir := { s.weir with landed := s.weir.landed.erase x } }
  | .exch .. => replyPump s
  | _ => s

/-- Every such completion taken, with those that follow from them. -/
def pumpAll : Nat → State → State
  | 0, s => s
  | n + 1, s =>
    match s.weir.landed.find? selfWork with
    | none => s
    | some x => pumpAll n (pumpOne x s)

/-- Completions taken until none is left. -/
def pump (s : State) : State := pumpAll 65536 s

/-! ## The meanings -/

/-- Requests of this home that wait after they left the pipeline: for snoops, a line or a way, their share or their unit's program, a staging
block or a fetch. -/
def waitingHere (s : State) : List Req :=
  s.store.parkedW ++ s.store.wt.map (·.req) ++ s.coh.txns.filterMap (·.req) ++ s.coh.txns.filterMap (·.evictFor) ++ s.coh.waits ++ s.coh.waitWay
    ++ s.sluice.waitStage ++ s.sluice.fetches.flatMap (fun f => f.loads ++ f.later)

/-- A write of a mill or a course: complete at RACE scope from its admission on (R157). -/
def raceWrite (q : Req) : Bool :=
  isWriteOp q.op && (match q.src with
    | .mill _ | .course .. => true
    | _ => false)

/-- Whether an earlier request to one of a request's granules is performed first: one of its own sources (R153), or a write that may be complete
at RACE scope, which every later read returns (R162, R175). -/
def goesFirst (q r : Req) : Bool := sameGranule q r && (sameSource q r || raceWrite q)

/-- Write-backs and evictions are applied while the line is BUSY (R134). -/
def passesBusy (r : Req) : Bool := r.op == .wbDirty || r.op == .evict || r.op == .markDirty

/-- Whether a request in the pipeline may be performed: nothing that goes first is before it there or waits to be performed, and none of its
sources' earlier DURABLE writes is incomplete if it is a persist point (R81). -/
def mayPerform (s : State) (r : Req) : Bool :=
  !(s.weir.pipe.takeWhile (fun q => q.id != r.id)).any (fun q => goesFirst q r)
  && (passesBusy r || !(waitingHere s).any (fun q => q.id < r.id && goesFirst q r))
  && !(opSeal r.opf && opPersist r.opf && durableBefore s r)

/-- A request of one of the given operations that waits in the pipeline and may be performed is; any other operand names no request. -/
def performCmd (ops : List Op) (r : Req) (ecc : Ecc) (s : State) : State :=
  if s.weir.pipe.contains r && ops.contains r.op && mayPerform s r then pump (perform r ecc (unpipe r s)) else s

/-- FLIT_RECEIVED (R99). -/
def execFlitReceived (l : Fin 32) (f : Flit) (s : State) : Host.Outcome State Fault Refusal := .next (pump (losses (receiveFlit l f s)))

/-- LOAD (R179). -/
def execLoad (r : Req) (ecc : Ecc) (s : State) : Host.Outcome State Fault Refusal := .next (performCmd [.load] r ecc s)

/-- STORE (R179). -/
def execStore (r : Req) (s : State) : Host.Outcome State Fault Refusal := .next (performCmd [.store] r {} s)

/-- ATOMIC (R180). -/
def execAtomic (r : Req) (ecc : Ecc) (s : State) : Host.Outcome State Fault Refusal := .next (performCmd [.atomic] r ecc s)

/-- REDUCE (R182). -/
def execReduce (r : Req) (ecc : Ecc) (s : State) : Host.Outcome State Fault Refusal := .next (performCmd [.reduce] r ecc s)

/-- MCAST_STORE (R184). -/
def execMcastStore (r : Req) (s : State) : Host.Outcome State Fault Refusal := .next (performCmd [.mcastStore] r {} s)

/-- CONF_READ (R188). -/
def execConfRead (r : Req) (ecc : Ecc) (s : State) : Host.Outcome State Fault Refusal := .next (performCmd [.confRead] r ecc s)

/-- CONF_ATOMIC (R188). -/
def execConfAtomic (r : Req) (ecc : Ecc) (s : State) : Host.Outcome State Fault Refusal := .next (performCmd [.confAtomic] r ecc s)

/-- SLUICE_PUT (R195). -/
def execSluicePut (r : Req) (s : State) : Host.Outcome State Fault Refusal := .next (performCmd [.sluicePut] r {} s)

/-- SLUICE_GET (R196). -/
def execSluiceGet (r : Req) (ecc : Ecc) (s : State) : Host.Outcome State Fault Refusal := .next (performCmd [.sluiceGet] r ecc s)

/-- SLUICE_FLUSH_AGE (R194). -/
def execSluiceFlushAge (window : Fin 64) (block : Nat) (s : State) : Host.Outcome State Fault Refusal :=
  .next (pump (sluiceFlushAge window block s))

/-- PIN_MSG (R72). -/
def execPinMsg (r : Req) (s : State) : Host.Outcome State Fault Refusal := .next (performCmd [.pinMsg] r {} s)

/-- RD_SHARED (R133). -/
def execRdShared (r : Req) (ecc : Ecc) (s : State) : Host.Outcome State Fault Refusal := .next (performCmd [.rdShared] r ecc s)

/-- RD_OWN (R133). -/
def execRdOwn (r : Req) (ecc : Ecc) (s : State) : Host.Outcome State Fault Refusal := .next (performCmd [.rdOwn] r ecc s)

/-- UPGRADE (R133). -/
def execUpgrade (r : Req) (ecc : Ecc) (s : State) : Host.Outcome State Fault Refusal := .next (performCmd [.upgrade] r ecc s)

/-- MARK_DIRTY (R129). -/
def execMarkDirty (r : Req) (s : State) : Host.Outcome State Fault Refusal := .next (performCmd [.markDirty] r {} s)

/-- EVICT (R133). -/
def execEvict (r : Req) (s : State) : Host.Outcome State Fault Refusal := .next (performCmd [.evict] r {} s)

/-- PROVISIONAL_RESOLVE (R136). -/
def execProvisionalResolve (port : Fin 10) (ptag : BitVec 16) (s : State) : Host.Outcome State Fault Refusal :=
  .next (pump (provisionalResolve port ptag.toNat s))

end Sys2Proof.Machine
end

