-- ==== Sys2Proof/Machine/Snoop.lean ====
section
/-!
DEFINITION. Snoops and their results at the agent's node and at the home (R128 to R135), agents declared dead, notices and the
takedown of a domain (R142 to R148), with their meanings.
-/
namespace Sys2Proof.Machine

open Sys2Proof

/-! ## Waiting requests -/

/-- The requests that waited on a line go on in the order of their arrival (R134). -/
def wakeLine (line : Nat) (s : State) : State :=
  let mine := s.coh.waits.filter (fun r => (linesOf (addrOffset r.addr) r.len).contains line)
  let s := { s with coh := { s.coh with waits := s.coh.waits.filter (fun r => !mine.contains r) } }
  mine.foldl (fun s r => resume r s) s

/-- Requests that waited for a directory way or a place in the hold filters are performed again from the start (R109, R125). -/
def wakeWays (s : State) : State := toPipeFront s.coh.waitWay { s with coh := { s.coh with waitWay := [] } }

/-- A place in the hold filters is free: directory entries and pages that waited for it move (R19, R109). -/
def afterHold (s : State) : State := goOn (relocate s)

/-! ## Results at the home (R134) -/

/-- A transaction whose results are all here ends; an eviction waits for EVICTION_COMPLETE. -/
def endTxn (line : Nat) (s : State) : State :=
  match s.coh.txns.find? (fun t => t.line == line) with
  | none => s
  | some t =>
    if t.req.isNone || s.coh.snoops.any (fun x => x.line == line) then s
    else
      let s := { s with coh := { s.coh with txns := s.coh.txns.filter (fun t => t.line != line) } }
      relocate (wakeWays (wakeLine line (finishTxn resume t ((t.req.map (·.ecc)).getD {}) s)))

/-- One result counted: the data it carries, or the write-back it announced, stands as the snoop's data. -/
def countResult (x : Snoop) (res : Nat) (data : Bytes) (s : State) : State :=
  let carries := res == 3 || res == 4 || res == 5
  let add := fun (t : Txn) => if t.line != x.line then t
    else { t with results := t.results ++ [(x.member, res)], data := if carries then some (padTo 64 data) else t.data }
  let s := { s with coh := { s.coh with snoops := s.coh.snoops.filter (fun y => y.id != x.id), txns := s.coh.txns.map add } }
  endTxn x.line (updDir x.line (fun e => { e with pending := e.pending - 1 }) s)

/-- A result received by the home. A NONE_WB counts as outstanding until its write-back has come (R134). -/
def homeResult (id res : Nat) (data : Bytes) (s : State) : State :=
  match s.coh.snoops.find? (fun x => x.id == id) with
  | none => s
  | some x =>
    if res == 1 && !x.wbGot then
      { s with coh := { s.coh with snoops := s.coh.snoops.map (fun y => if y.id == id then { y with wb := true } else y) } }
    else countResult x res data s

/-- Snoops whose announced write-back has now been performed are counted. -/
def wbArrived (s : State) : State :=
  (s.coh.snoops.filter (fun x => x.wb && x.wbGot)).foldl (fun s x => countResult x 1 [] s) s

/-! ## Results at the agent's node (R130) -/

/-- The result of all snoops of an agent's node given to the home, the strongest first. -/
def answerHome (home id addr res : Nat) (data : Bytes) (s : State) : State :=
  if home == s.node then homeResult id res data s
  else
    let carries := res == 3 || res == 4 || res == 5
    issue { op := .snpRsp, addr := poolAddr home 0 (addrOffset addr), len := 64, data := if carries then padTo 64 data else []
            party := 15, origin := ⟨s.node, 15⟩, cls := .coherent, opf := snpFields id res } s

/-- The relay that an agent's answer belongs to: SNP_ID is unique per home, so one whose line the agent maps at the address it answers for
comes first. -/
def relayOf (s : State) (id : Nat) (agent : Pair) (va : Nat) : Option Relay :=
  let mine := s.coh.relays.filter (fun x => x.snpId == id && x.agent == agent)
  match mine.find? (fun x => (reverseOf s agent.party x.addr).any (fun m => m.2 / 64 == va / 64)) with
  | some x => some x
  | none => mine.head?

/-- One answer of a local agent, for a line it names by its own address. -/
def agentResult (id : Nat) (agent : Pair) (va res : Nat) (data : Bytes) (s : State) : State :=
  match relayOf s id agent va with
  | none => s
  | some x =>
    let better := resultRank x.best < resultRank res
    let x' := { x with waits := x.waits - 1, best := if better then res else x.best, data := if better then data else x.data }
    let same := fun (y : Relay) => y.snpId == id && y.home == x.home
    let s := { s with coh := { s.coh with relays := s.coh.relays.map (fun y => if same y && y.agent == agent then x' else y) } }
    let mine := s.coh.relays.filter same
    if mine.any (fun y => y.waits != 0) then s
    else
      let top := mine.foldl (fun a y => if resultRank a.best < resultRank y.best then y else a) x'
      answerHome x.home id x.addr top.best top.data
        { s with coh := { s.coh with relays := s.coh.relays.filter (fun y => !same y) } }

/-- A snoop of another node's home, handed to this node's agents of the line's extent. -/
def takeSnoop (r : Req) (s : State) : State :=
  let agents := match (poolSlices s).find? (fun sl => sl.node == r.origin.node) with
    | some sl => match findExtent sl (addrOffset r.addr) 64 with
      | some e => if e.cls == RClass.coherent then (extentMembers sl e).filter (fun (p : Pair) => p.node == s.node) else []
      | none => []
    | none => []
  let (n, s) := agents.foldl (fun (x : Nat × State) a =>
    let (k, s) := relaySnoop r.origin.node (snpId r.opf) r.op a r.addr x.2
    (x.1 + k, s)) (0, s)
  if n == 0 then answerHome r.origin.node (snpId r.opf) r.addr 0 [] s else s

/-- A SNP_RSP received: of a local partner, or of another node. -/
def takeSnpRsp (r : Req) (s : State) : State :=
  match r.src with
  | .port p _ =>
    if (portEntry s p).kind == .partner then agentResult (snpId r.opf) r.origin r.va (snpResult r.opf) r.data s
    else homeResult (snpId r.opf) (snpResult r.opf) r.data s
  | _ => s

/-! ## Notices (R142, R148) -/

/-- A DOMAIN_NOTICE served by the control logic. -/
def takeNotice (r : Req) (s : State) : State :=
  let num := field r.opf 42 14
  let agent := agentOf (field r.opf 28 14)
  if flag r.opf 27 then takeJoin agent s
  else match findDomain s num with
    | some d => if d.state == .up then fallDomain num 6 s else s
    | none => s

/-- NOTICE_RESEND (R142): unaccepted DEAD notices while their domain is FALLING or JOINING, JOINs while their agent stays joined. -/
def noticeResend (s : State) : State :=
  let live := fun (n : Notice) => !n.accepted && (if n.join then s.coh.joined.contains n.agent
    else ((findDomain s n.domain).map (fun d => d.state != .up)).getD false)
  sendNotices { s with coh := { s.coh with notices := s.coh.notices.filter live } }

/-! ## Death (R142) -/

/-- A snoop of this home, or one relayed to a local agent, has had no result within 1 ms of its ACCEPT. -/
def snoopTimeout (id : Nat) (s : State) : State :=
  match s.coh.snoops.find? (fun x => x.id == id) with
  | some x =>
    let s := { s with coh := { s.coh with snoops := s.coh.snoops.filter (fun y => y.id != id)
                                          relays := s.coh.relays.filter (fun y => !(y.snpId == id && y.home == s.node)) } }
    declareDead x.agent 3 s
  | none =>
    match s.coh.relays.find? (fun y => y.snpId == id && y.home != s.node) with
    | some y => declareDead y.agent 3 { s with coh := { s.coh with relays := s.coh.relays.filter (fun z => !(z.snpId == id && z.home == y.home)) } }
    | none => s

/-! ## The meanings -/

/-- A message of R131 in the pipeline, served. -/
def messageCmd (op : Op) (f : Req → State → State) (r : Req) (s : State) : State :=
  if s.weir.pipe.contains r && r.op == op then pump (f r (unpipe r s)) else s

/-- WB_DIRTY (R133). -/
def execWbDirty (r : Req) (s : State) : Host.Outcome State Fault Refusal := .next (wbArrived (performCmd [.wbDirty] r {} s))

/-- SNP_INV (R128). -/
def execSnpInv (r : Req) (s : State) : Host.Outcome State Fault Refusal := .next (messageCmd .snpInv takeSnoop r s)

/-- SNP_DATA (R128). -/
def execSnpData (r : Req) (s : State) : Host.Outcome State Fault Refusal := .next (messageCmd .snpData takeSnoop r s)

/-- SNP_CUR (R128). -/
def execSnpCur (r : Req) (s : State) : Host.Outcome State Fault Refusal := .next (messageCmd .snpCur takeSnoop r s)

/-- SNP_RSP (R134). -/
def execSnpRsp (r : Req) (s : State) : Host.Outcome State Fault Refusal := .next (messageCmd .snpRsp takeSnpRsp r s)

/-- DOMAIN_NOTICE (R142). -/
def execDomainNotice (r : Req) (s : State) : Host.Outcome State Fault Refusal := .next (messageCmd .domainNotice takeNotice r s)

/-- EVICTION_COMPLETE (R135): every result has arrived; returned data is written, the entry is free, and the request that caused the
eviction is served. -/
def evictionComplete (line : Nat) (s : State) : State :=
  match s.coh.txns.find? (fun t => t.line == line && t.req.isNone) with
  | none => s
  | some t =>
    if s.coh.snoops.any (fun x => x.line == line) then s
    else
      let s := { s with coh := { s.coh with txns := s.coh.txns.filter (fun t => t.line != line) }
                        net := { s.net with holds := s.net.holds.filter (· != .line line) } }
      let s := match t.data with
        | some d => (writeLines (line * 64) d s).2
        | none => s
      let s := freeDir line s
      let s := match t.evictFor with
        | some r => resume r s
        | none => s
      afterHold (wakeWays (wakeLine line s))

/-- EVICTION_COMPLETE (R135). -/
def execEvictionComplete (line : Nat) (s : State) : Host.Outcome State Fault Refusal := .next (pump (evictionComplete line s))

/-- SNOOP_TIMEOUT (R142). -/
def execSnoopTimeout (id : BitVec 16) (s : State) : Host.Outcome State Fault Refusal := .next (pump (snoopTimeout id.toNat s))

/-- PORT_DOWN_TIMEOUT (R142): every link of a partner's port down for 100 µs. -/
def execPortDownTimeout (port : Fin 10) (s : State) : Host.Outcome State Fault Refusal :=
  .next (
    let pe := portEntry s port
    if s.net.portDown.contains port && pe.valid && pe.kind == .partner && !s.net.portDead.contains port then
      pump (declareDead ⟨s.node, pe.party⟩ 0 s)
    else s)

/-- TAKEDOWN_COMPLETE (R144). -/
def execTakedownComplete (domain : BitVec 14) (s : State) : Host.Outcome State Fault Refusal := .next (takedown domain.toNat s)

/-- NOTICE_RESEND (R142). -/
def execNoticeResend (s : State) : Host.Outcome State Fault Refusal := .next (noticeResend s)

end Sys2Proof.Machine
end

