-- ==== Sys2Proof/Machine/Cxl.lean ====
section
/-!
DEFINITION. The host ports (R132, R142, R372 to R374, R414): CXL.mem requests, back-invalidates, link states of a host port, and the
primary mailbox's place in them.
-/
namespace Sys2Proof.Machine

open Sys2Proof

/-- A host request that ends before it is sent to a home: Table 15-13, with the offset of the first unmapped byte. -/
def hostFail (p : Nat) (r : Req) (st : Status) (detail : Nat) (s : State) : State := hostOutcome p r st [] detail s

/-- The operation of a CXL form on a range of a class (Table 05-5); on a range that is not COHERENT, a read or a write. -/
def hostOp (cls : RClass) (coherent plain : Op) : Op := if cls == .coherent then coherent else plain

/-- The number of the domain in which an address of the pool lies (R374). -/
def poolDomain (s : State) (addr : Nat) : Nat :=
  (((poolSlices s).find? (fun sl => sl.node == addrNode addr)).bind (fun sl =>
    ((findExtent sl (addrOffset addr) 1).bind (fun e => extentDomain s sl e)).map (·.num))).getD 0

/-- Whether a request is a write-back or an eviction of a line by an agent that the directory records as holding it: these are admitted while
the line is BUSY (R134). -/
def returnsLine (s : State) (r : Req) (line : Nat) : Bool :=
  (r.op == .wbDirty || r.op == .evict)
  && (match dirFind s line, memberIndex (lineMembers s line) r.origin with
    | some e, some i => holds e i
    | _, _ => false)

/-- Whether CXL flow control takes a request now: a credit of the host station's share (R115), and no hold-filter entry that stops it (R135). -/
def hostTakes (s : State) (r : Req) : Bool :=
  match target s r with
  | .error _ => true
  | .ok (some p) => finds s (some p) r
  | .ok none =>
    let off := addrOffset r.addr
    finds s none r
    && !s.net.holds.any (fun h => match h with
      | .line l => (linesOf off r.len).contains l && !returnsLine s r l
      | .page p => tierPage off == p)

/-- A CXL.mem request of 64 bytes on a host port (R27, R50): translated in the context (host party, ASID 0), and queued at its home. One
that flow control holds back has not arrived. -/
def hostRequest (p tag dpa : Nat) (need coherent plain : Op) (shared : Bool) (data : Bytes) (s : State) : State :=
  let a := dpa / 64 * 64
  let c := ctxOf s p 0
  let r : Req := { op := coherent, va := a, len := 64, data, origin := ⟨s.node, p⟩, party := p, src := .host p, tag, provOk := shared
                   asid := some 0, tgen := (c.map (·.gen)).getD 0 }
  if !(s.hostSt p).cxl || !(s.hostSt p).l0 || s.flush.kind == .power then s
  else if !s.boot.ready || s.map.teardown then hostFail p r .staleMap 0 s
  else
    let (t, s) := translateCached 0 p 0 a 64 need s
    match t with
    | .miss _ => hostFail p r .faultUnmapped 0 s
    | .fault st o => hostFail p r st o s
    | .pieces ps =>
      match cutPieces ps with
      | [] => hostFail p r .faultUnmapped 0 s
      | q :: _ =>
        let r := { r with op := hostOp q.cls coherent plain, addr := q.addr, cls := q.cls, durable := q.durable, coding := q.coding }
        -- a RD_OWN needs more than the read as which it was looked up (R54)
        match translateIn s c a 64 r.op with
        | .fault st o => hostFail p r st o s
        | _ =>
        if fencedPool s r.addr then hostFail p r .domainDown (poolDomain s r.addr) s
        else if !hostTakes s r then s
        else issue r s

/-- CXL_MEMRD (R132): MetaValue Any reads with ownership, Shared shared, Invalid without a copy. -/
def execCxlMemRd (port : Fin 2) (tag dpa : Nat) (mv : MetaValue) (s : State) : Host.Outcome State Fault Refusal :=
  .next (match mv with
    | .any => hostRequest port tag dpa .load .rdOwn .load false [] s
    | .shared => hostRequest port tag dpa .load .rdShared .load false [] s
    | .invalid => hostRequest port tag dpa .load .load .load false [] s)

/-- CXL_MEMWR (R132): a WB_DIRTY where the directory records the host as the owner, else a non-caching write; with MetaValue Shared the
host keeps the line in S. -/
def execCxlMemWr (port : Fin 2) (tag dpa : Nat) (mv : MetaValue) (data : Bytes) (s : State) : Host.Outcome State Fault Refusal :=
  .next (hostRequest port tag dpa .store .wbDirty .store (mv == .shared) (padTo 64 data) s)

/-- CXL_MEMCLNEVCT (R132): EVICT. -/
def execCxlMemClnEvct (port : Fin 2) (tag dpa : Nat) (s : State) : Host.Outcome State Fault Refusal :=
  .next (hostRequest port tag dpa .evict .evict .evict false [] s)

/-- CXL_BIRSP (R132): BIRspI is NONE, BIRspS is KEPT_S, BIRspE is KEPT. -/
def execCxlBiRsp (port : Fin 2) (id : Nat) (rsp : BiRsp) (s : State) : Host.Outcome State Fault Refusal :=
  .next (
    match (s.hostSt port).snoops.find? (fun x => x.1 == id) with
    | none => s
    | some x =>
      let res := match rsp with | .i => 0 | .s => 2 | .e => 6
      let s := updHost port (fun h => { h with snoops := h.snoops.erase x }) s
      pump (agentResult id ⟨s.node, port⟩ (x.2.1 * 64) res [] s))

/-- CXL_BICONFLICT (R132): a host request crosses a back-invalidate snoop; the handshake answers it. -/
def execCxlBiConflict (port : Fin 2) (tag : Nat) (id : Nat) (s : State) : Host.Outcome State Fault Refusal :=
  .next (if (s.hostSt port).snoops.any (fun x => x.1 == id) then emit (.biConflictAck port tag) s else s)

/-- A host dead (R142): its port's dead mark stands until it joins again. -/
def hostDies (port case_ : Nat) (s : State) : State :=
  pump (declareDead ⟨s.node, port⟩ case_ (updHost port (fun h => { h with dead := true, l0Count := false, snoops := [] }) s))

/-- CXL_VIRAL (R142): viral, or an uncorrectable CXL protocol error. -/
def execCxlViral (port : Fin 2) (s : State) : Host.Outcome State Fault Refusal :=
  .next (if (s.hostSt port).cxl && !(s.hostSt port).dead then hostDies port 2 s else s)

/-- HOST_L0_TIMEOUT (R142): out of L0 for 100 µs. -/
def execHostL0Timeout (port : Fin 2) (s : State) : Host.Outcome State Fault Refusal :=
  .next (if (s.hostSt port).l0Count && !(s.hostSt port).l0 then hostDies port 1 s else s)

/-- HOST_PORT_LEAVES_L0 (R142): a Recovery that returns to L0 is excluded from the limit. -/
def execHostPortLeavesL0 (port : Fin 2) (recovery : Bool) (s : State) : Host.Outcome State Fault Refusal :=
  .next (if !(s.hostSt port).l0 then s
    else updHost port (fun h => { h with l0 := false, l0Count := !recovery && !h.dead }) s)

/-- HOST_LINK_TRAINED (R414): CXL is negotiated at 32.0 or 64.0 GT/s and x16, x8 or x4; else the port is a PCIe-only endpoint, which is
logged. A link that was down has joined the host's domain again (R148). -/
def execHostLinkTrained (port : Fin 2) (rateX2 width : Nat) (s : State) : Host.Outcome State Fault Refusal :=
  .next (
    let h := s.hostSt port
    if h.perst || s.pins.dieReset || !s.pins.serdes then s
    else
      let cxl : Bool := (rateX2 == 64 || rateX2 == 128) && (width == 16 || width == 8 || width == 4)
      let wasDown := !h.trained
      let s := updHost port (fun h => { h with
        training := false, trained := true, l0 := true, l0Count := false, cxl, rate := rateX2, width, dead := h.dead && !wasDown
        memActive := s.boot.ready && cxl, infoValid := true }) s
      let s := if cxl then s else logEv 0x0107 sevWarning port 0 port (rateX2 / 2 + at' width 8) s
      if cxl && wasDown then agentJoins ⟨s.node, port⟩ s else s)

/-- PERST_DEASSERT (R372): the host releases PERST#, and the port trains once the die is released. -/
def execPerstDeassert (port : Fin 2) (s : State) : Host.Outcome State Fault Refusal :=
  .next (if !(s.hostSt port).perst then s
    else updHost port (fun h => { h with perst := false, training := !s.pins.dieReset }) s)

end Sys2Proof.Machine
end

