-- ==== Sys2Proof/Machine/Tiers.lean ====
section
/-!
DEFINITION. The migrator's work: fills and moves that end (R64 to R67), steering (R69), counter epochs (R68), the patrol scrub and
failing rows (R76), clean water and write-through (R80).
-/
namespace Sys2Proof.Machine

open Sys2Proof

/-! ## Fills and moves that end (R19, R64, R65) -/

def findMove (s : State) (page : Nat) : Option Move := s.store.moves.find? (fun m => m.page == page)

/-- Flash work of a page that is over. -/
def dropFlash (w : FlashWork) (s : State) : State :=
  let keep := fun (x : Nat × FlashWork) => x.2 != w
  { s with weir := { s.weir with maint := s.weir.maint.filter keep, flashQ := s.weir.flashQ.filter keep
                                 flashOn := s.weir.flashOn.filter keep } }

/-- Whether work is under way: admitted, and granted the flash gate where it touches flash (R21, R25). -/
def isOn (s : State) (w : FlashWork) : Bool := s.weir.flashOn.any (fun x => x.2 == w)

/-- The requests that waited for a page go on, those of its fill list first. -/
def releasePage (page : Nat) (s : State) : State :=
  let parked := (s.weir.parked.filter (fun q => q.1 == page)).map (·.2.req)
  let waits := s.weir.waitMove.filter (fun r => tierPage (addrOffset r.addr) == page)
  let s := { s with weir := { s.weir with
    parked := s.weir.parked.filter (fun q => q.1 != page)
    waitMove := s.weir.waitMove.filter (fun r => tierPage (addrOffset r.addr) != page) } }
  toPipeFront (parked ++ waits) s

/-- The move of a page is no longer under way. -/
def endMove (page : Nat) (s : State) : State :=
  let s := dropFlash (.move page) { s with store := { s.store with moves := s.store.moves.filter (fun m => m.page != page) }
                                           net := { s.net with holds := s.net.holds.filter (· != .page page) } }
  relocate s

/-- The page is PLAIN: the firings, the pins and the requests that waited for it go on. A DAMAGED sub-block is so no longer. -/
def nowPlain (m : Move) (s : State) : State :=
  let away := m.race != preferredRace s m.page
  let s := updTier m.page (fun e => { e with state := .plain, frame := m.frame, race := m.race, away, granules := 0, subBlocks := [] }) s
  let s := { s with store := { s.store with damaged := s.store.damaged.filter (fun d => d.1 != m.page) } }
  firingPlain m.page (releasePage m.page (endMove m.page s))

/-- R77: units that nothing recovered are poisoned whole, and the requests parked on them complete with UNCORRECTABLE. -/
def loseUnits (page : Nat) (units : List Nat) (s : State) : State :=
  if units.isEmpty then s
  else
    let hit := fun (r : Req) => (unitsOf (addrOffset r.addr) r.len).any (fun u => units.contains u)
    let lost := s.weir.parked.filter (fun q => q.1 == page && hit q.2.req)
    let s := { s with weir := { s.weir with parked := s.weir.parked.filter (fun q => !(q.1 == page && hit q.2.req)) } }
    let s := poisonLines (units.flatMap (fun u => rangeFrom (u * 64) 64)) s
    lost.foldl (fun s q => complete q.2.req .uncorrectable [] s) s

/-- DEMAND_FILL_COMPLETE (R65, R77): the page comes from flash; `lost` names units that were not recovered, `recovered` units that
read retry or parity recovered. The fill has had its grant of the flash gate, and the page it displaces has left its frame. -/
def demandFillComplete (page : Nat) (lost recovered : List Nat) (s : State) : State :=
  match findMove s page with
  | none => s
  | some m =>
    let leaves := fun (x : Move) => x.page != page && x.src == .plain && (tierOf s x.page).frame == m.frame
    if m.src != .flash || m.dest != .plain || !isOn s (.fill page) || s.store.moves.any leaves then s
    else
      let inPage := fun u => u / 16 == page
      let pool := pagePool s page
      let s := { s with store := { s.store with
        flashRecovered := Tbl.upd 0 s.store.flashRecovered pool (· + (recovered.filter inPage).length) } }
      goOn (nowPlain m (loseUnits page (lost.filter inPage) (dropFlash (.fill page) s)))

/-- DEMAND_FILL_COMPLETE (R65). -/
def execDemandFillComplete (page : Nat) (lostUnits recovered : List Nat) (s : State) : Host.Outcome State Fault Refusal :=
  .next (pump (demandFillComplete page lostUnits recovered s))

/-- A page that a FILL still waits for comes back to PLAIN as by a demand fill (R222). -/
def refill (page : Nat) (s : State) : State := if s.rill.firings.any (fun f => f.pages.contains page) then bring true page s else s

/-- After a move: a pinned page goes back to PLAIN (R73), and one that a FILL waits for; what waits for a frame is tried again, and a freed
frame brings a page back to its preferred race. -/
def afterMove (page : Nat) (s : State) : State := goOn (refill page (bringPlain page s))

/-- Whether a transaction is open on a page, or an eviction of which a request to it waits: its move ends after them (R19, R134). -/
def inTransaction (s : State) (page : Nat) : Bool :=
  s.coh.txns.any (fun t => t.line / 1024 == page || t.evictFor.any (fun r => tierPage (addrOffset r.addr) == page))

/-- A compression that saved too little (R67). -/
def stayPlain (page : Nat) (s : State) : State := updTier page (fun e => { e with state := .plain, riffleNo := true }) s

/-- One word of a Riffle directory entry: MODE, granules minus one, and the first granule (R274). -/
def granuleWord (mode n first : Nat) : Nat := at' mode 30 + at' (n - 1) 27 + first % 2 ^ 27

/-- The directory entry of a page that takes some granules in all, sub-block by sub-block: a sub-block of zeros takes none. How the others share
the granules, and where these lie, the coder decides: both are free, within 1 to 7 granules for LZ and 8 for RAW (R274; log entry 17). -/
def granuleWords (page : Nat) : List Nat → Nat → State → List Nat × State
  | [], _, s => ([], s)
  | i :: t, left, s =>
    let zero := fun (i : Nat) => (readMem s (page * 65536 + i * 4096) 4096).all (· == 0#8)
    if zero i then
      let (ws, s) := granuleWords page t left s
      (0 :: ws, s)
    else
      let more := (t.filter (fun j => !zero j)).length
      let (w, s) := takeWord s
      let n := max (max 1 (left - 8 * more)) (min (min 8 (left - more)) (1 + field w 0 3))
      let (ws, s) := granuleWords page t (left - n) s
      (granuleWord (if n == 8 then 1 else 2) n (field w 8 27) :: ws, s)

/-- A page becomes RIFFLE: its granules, and its directory entry under an index that the spec leaves to the Shufel. -/
def toGranules (page granules : Nat) (s : State) : State :=
  let (w, s) := takeWord s
  let (ws, s) := granuleWords page (List.range 16) granules s
  updTier page (fun e => { e with state := .riffle, granules, frame := field w 0 24, subBlocks := ws }) s

/-- TIER_MOVE_COMPLETE (R64, R67): a move out of PLAIN or RIFFLE that was admitted ends; `granules` is what a compression needs. -/
def tierMoveComplete (page granules : Nat) (s : State) : State :=
  match findMove s page with
  | none => s
  | some m =>
    if m.src == .flash || !isOn s (.move page) || inTransaction s page then s
    else match m.dest with
      | .plain => afterMove page (nowPlain m s)
      | .riffle =>
        if 96 < granules then afterMove page (firingPlain page (releasePage page (stayPlain page (endMove page s))))
        else afterMove page (releasePage page (endMove page (toGranules page granules s)))
      | _ =>
        let s := updTier page (fun e => { e with state := .flash, frame := 0, away := false, granules := 0, subBlocks := [] }) (writeBackPage page s)
        afterMove page (releasePage page (endMove page s))

/-- TIER_MOVE_COMPLETE (R64). -/
def execTierMoveComplete (page granules : Nat) (s : State) : Host.Outcome State Fault Refusal :=
  .next (pump (tierMoveComplete page granules s))

/-! ## Steering (R69) and counter epochs (R68) -/

/-- Frames that moves under way will release: of PLAIN pages, and of granules. -/
def releasing (s : State) (pool : Nat) : Nat :=
  (s.store.moves.filter (fun m => m.src == .plain && m.dest != .plain && pagePool s m.page == pool)).length
  + ((poolRaces s pool).map (fun n => granuleFrames s pool n - granulesOf s (fun _ e => e.state == .riffle) pool n)).sum

/-- Free frames as steering counts them: those free, and those being released. -/
def steerFree (s : State) (pool : Nat) : Nat := freeCount s pool + releasing s pool

/-- The marks in frames: a percentage of the pool's frames. -/
def waterMark (s : State) (pool percent : Nat) : Nat := poolFrames s pool * percent / 100

/-- A page with a DAMAGED sub-block goes back to PLAIN at its next move (R275). -/
def isDamaged (s : State) (page : Nat) : Bool := s.store.damaged.any (fun d => d.1 == page)

/-- A RIFFLE page expanded into a free frame: of its own race, or else of the next race of its pool's list that has one. -/
def expandPage (page : Nat) (s : State) : State :=
  let e := tierOf s page
  let pool := pagePool s page
  match (racesFrom s pool e.race).findSome? (fun n => (freeFrame s pool n).map (fun f => (n, f))) with
  | some (n, f) => if e.state == .riffle && mayLeave s page n then beginMove page .plain f n s else s
  | none => s

def demotePage (page : Nat) (s : State) : State :=
  if isDamaged s page then expandPage page s else beginMove page .flash 0 (tierOf s page).race s

def compressPage (page : Nat) (s : State) : State := beginMove page .riffle 0 (tierOf s page).race s

/-- R67: whether a page may be compressed. -/
def riffleAllowed (e : TierEntry) : Bool := !isPinned e && !e.poisoned && e.durable.isEmpty && !e.riffleNo

/-- The upper half: RIFFLE pages that are used again are expanded while frames above the high mark are left. -/
def steerUp (high above pool : Nat) : List (Nat × TierEntry) → State → State
  | [], s => s
  | (page, e) :: t, s =>
    if freeCount s pool ≤ high then s
    else steerUp high above pool t (if e.state == .riffle && above ≤ e.count then expandPage page s else s)

/-- One sweep of the lower half: the page last inspected, whether anything was demoted or compressed, and the state. -/
def sweep (high pool : Nat) : List (Nat × TierEntry) → Nat → Bool → State → Nat × Bool × State
  | [], hand, did, s => (hand, did, s)
  | (page, e) :: t, hand, did, s =>
    if high ≤ steerFree s pool then (hand, did, s)
    else if e.count < s.hw.settings.flashBelow then sweep high pool t (page + 1) true (demotePage page s)
    else if e.state == .plain && e.count < s.hw.settings.riffleBelow && riffleAllowed e then sweep high pool t (page + 1) true (compressPage page s)
    else sweep high pool t (page + 1) did s

/-- Unpinned resident pages of a pool from its hand on. -/
def sweepList (s : State) (pool : Nat) : List (Nat × TierEntry) :=
  fromHand (Tbl.get 0 s.store.hands pool) ((resident s pool).filter (fun e => !isPinned e.2))

/-- The lower half: sweeps until the high mark is reached; one that does nothing demotes the lowest count it saw. -/
def steerDown (high pool : Nat) : Nat → State → State
  | 0, s => s
  | n + 1, s =>
    let l := sweepList s pool
    if high ≤ steerFree s pool || l.isEmpty then s
    else
      let (hand, did, s) := sweep high pool l (Tbl.get 0 s.store.hands pool) false s
      let s := { s with store := { s.store with hands := Tbl.put s.store.hands pool hand } }
      let s := if did then s else match lowestCount l with
        | some (page, _) => demotePage page s
        | none => s
      steerDown high pool n s

/-- STEER (R69). -/
def steer (pool : Nat) (s : State) : State :=
  let low := waterMark s pool s.hw.settings.lowWater
  let high := waterMark s pool s.hw.settings.highWater
  if low ≤ freeCount s pool then steerUp high s.hw.settings.plainAbove pool (resident s pool) s
  else steerDown high pool ((resident s pool).length + 1) s

/-- STEER (R69): every 1,024 weir periods for each pool. -/
def execSteer (pool : Fin 1024) (s : State) : Host.Outcome State Fault Refusal := .next (steer pool s)

/-- COUNTER_EPOCH (R68): every COUNT halved, every RIFFLE_NO cleared. -/
def counterEpoch (s : State) : State :=
  { s with store := { s.store with tier := Tbl.mapVal (fun e => { e with count := e.count / 2, riffleNo := false }) s.store.tier } }

/-- COUNTER_EPOCH (R68). -/
def execCounterEpoch (s : State) : Host.Outcome State Fault Refusal := .next (counterEpoch s)

/-! ## The patrol scrub (R76) -/

/-- A row as FAILING_ROW numbers it (Table 16-10). -/
def rowNumber (x : ScrubRow) : Nat := x.race.val + at' x.channel.val 3 + at' x.row 9

/-- A row's frames: those that lie in the channel set of its pseudo-channel (R16). -/
def rowFrames (s : State) (x : ScrubRow) : List Nat :=
  x.frames.filter (fun f => match setOfFrame s f with
    | some c => c.race == x.race.val && c.first ≤ x.channel.val && x.channel.val < c.first + 2 ^ c.log2
    | none => false)

/-- A row's uncorrectable lines: those that the rotation of R16 puts on its pseudo-channel. -/
def rowLines (s : State) (x : ScrubRow) : List Nat := x.uncorrectable.filter (lineOn s x.race.val x.channel.val)

/-- The pool whose channel set holds a row. -/
def rowPool (s : State) (x : ScrubRow) : Nat :=
  if x.channel.val == 63 then 0
  else match s.hw.channels.find? (fun c => c.race == x.race.val && c.first ≤ x.channel.val && x.channel.val < c.first + 2 ^ c.log2) with
    | some c => c.pool
    | none => 0

/-- A failing row logged and its frames retired, once. -/
def failRow (x : ScrubRow) (s : State) : State :=
  let n := rowNumber x
  if s.nv.retiredRows.any (fun r => r.1 == n) then s else failRowAt n (rowPool s x) (rowFrames s x) s

/-- SCRUB (R76): a row is read once in a pass, by patrol work that a maintenance slot of its race has admitted; corrected lines are counted,
uncorrectable ones poisoned, a failing row retired. -/
def scrub (x : ScrubRow) (s : State) : State :=
  let n := rowNumber x
  let pool := rowPool s x
  let passes := Tbl.get 0 s.store.rowPasses n + (if x.corrected == 0 then 0 else 1)
  let s := { s with store := { s.store with
    correctedErr := Tbl.upd 0 s.store.correctedErr pool (· + x.corrected)
    rowPasses := if x.corrected == 0 then s.store.rowPasses else Tbl.put s.store.rowPasses n passes } }
  let bad := rowLines s x
  let s := poisonLines bad s
  if 3 ≤ passes || 16 ≤ x.corrected || !bad.isEmpty then failRow x s else s

/-- SCRUB (R76). -/
def execScrub (row : ScrubRow) (s : State) : Host.Outcome State Fault Refusal :=
  .next (if s.weir.flashOn.contains (row.race.val, .scrub) then
      scrub row { s with weir := { s.weir with flashOn := s.weir.flashOn.erase (row.race.val, .scrub) } }
    else s)

/-! ## Durable writes (R80) -/

/-- CLEAN_WATER (R80): from half of its share on, a party's durable-dirty units are to be written to flash, in its maintenance slots. -/
def cleanWater (party : Nat) (s : State) : State :=
  if shareUnits s party ≤ 2 * dirtyUnits s party then
    ((s.store.charged.filter (fun c => c.2 == party)).map (·.1)).foldl (fun s u => maintain (homeRace s (u * 4096)) (.clean u) s) s
  else s

/-- CLEAN_WATER (R80). -/
def execCleanWater (party : Fin 8) (s : State) : Host.Outcome State Fault Refusal := .next (cleanWater party s)

/-- PARKED_WRITE_RELEASE (R80): the party's first parked write that no longer meets its share leaves the park. -/
def parkedWriteRelease (party : Nat) (s : State) : State :=
  match s.store.parkedW.find? (fun r => r.party == party && durFate s party (unitsOf (addrOffset r.addr) r.len) != .parkShare) with
  | none => s
  | some r => performMem r r.ecc { s with store := { s.store with parkedW := s.store.parkedW.erase r } }

/-- PARKED_WRITE_RELEASE (R80). -/
def execParkedWriteRelease (party : Fin 8) (s : State) : Host.Outcome State Fault Refusal := .next (pump (wbArrived (parkedWriteRelease party s)))

/-- WRITE_THROUGH_PROGRAMMED (R80): the oldest write of a unit is performed and acknowledged with the unit's program, once that has had
its slot and its grant of the flash gate. -/
def writeThroughProgrammed (unit : Nat) (s : State) : State :=
  match s.store.wt.find? (fun w => w.unit == unit) with
  | none => s
  | some w =>
    if !isOn s (.program unit) then s
    else
      let s := dropFlash (.program unit) { s with store := { s.store with wt := s.store.wt.erase w } }
      let s := if s.store.wt.any (fun w => w.unit == unit) then maintain (homeRace s (unit * 4096)) (.program unit) s else s
      onPage w.req (performOp w.req w.req.ecc) s

/-- WRITE_THROUGH_PROGRAMMED (R80). -/
def execWriteThroughProgrammed (unit : Nat) (s : State) : Host.Outcome State Fault Refusal :=
  .next (pump (wbArrived (writeThroughProgrammed unit s)))

end Sys2Proof.Machine
end

