-- ==== Sys2Proof/Machine/LogRing.lean ====
section
/-!
DEFINITION. The log in flash (R393 to R395): entries written from the keeper's buffer under the hash chain, and batches sealed.
-/
namespace Sys2Proof.Machine

open Sys2Proof

/-- Words 0 to 7 of a log entry (Table 16-7). -/
def entryWordsOf (e : LogEntry) : List Nat :=
  [at' e.seq 32 + at' e.code 16 + at' e.severity 12 + at' e.party 8 + e.status, e.tide, e.mono, at' e.boot 32 + at' (b2n e.tideFree) 31,
   e.arg0, e.arg1, bits e.link 0 64, bits e.link 64 64]

/-- R394: H after an entry. -/
def chainNext (h : Nat) (e : LogEntry) : Nat := Config.sha384 (h :: entryWordsOf e)

/-- The first 16 bytes of H. -/
def linkOf (h : Nat) : Nat := bits h 256 128

/-- The entry ring's 131,072 entries; the writer erases the oldest 1,024 when it reaches their block (R393). -/
def ringAdd (l : List LogEntry) (e : LogEntry) : List LogEntry :=
  if l.length < 131072 then l ++ [e] else l.drop 1024 ++ [e]

/-- One entry written: it gets its SEQ and LINK, and the chain goes on. -/
def writeEntry (s : State) (e : LogEntry) : State :=
  let e := { e with seq := s.nv.nextSeq, link := linkOf s.nv.chain }
  { s with nv := { s.nv with log := ringAdd s.nv.log e, batch := s.nv.batch ++ [e], chain := chainNext s.nv.chain e
                             batchPrev := if s.nv.batch.isEmpty then s.nv.chain else s.nv.batchPrev
                             nextSeq := (s.nv.nextSeq + 1) % 2 ^ 32 } }

/-- Every buffered entry written (R393). -/
def logWrite (s : State) : State :=
  let buf := s.keeper.buf
  buf.foldl writeEntry { s with keeper := { s.keeper with buf := [] } }

/-- The seal ring's 512 slots. -/
def ringSeal (l : List SealRec) (r : SealRec) : List SealRec := (if l.length < 512 then l else l.drop 1) ++ [r]

/-- The open batch sealed (R395); when it cannot be signed, LOG is set and the batch joins the next seal. -/
def sealBatch (signed afterLoss beforeReset : Bool) (s : State) : State :=
  match s.nv.batch.head?, s.nv.batch.getLast? with
  | some a, some b =>
    if !signed then setAlert alertLog s
    else
      let r : SealRec := { afterPowerLoss := afterLoss, beforeReset, boot := s.nv.bootNumber, firstSeq := a.seq, lastSeq := b.seq
                           tide := s.tide.count, mono := s.keeper.mono, hPrev := s.nv.batchPrev, hLast := s.nv.chain
                           aliasDigest := Config.aliasDigest s.boot.firmware.digest }
      { s with nv := { s.nv with seals := ringSeal s.nv.seals r, batch := [], lossOpen := false } }
  | _, _ => s

/-- LOG_WRITE (R393): the keeper writes its buffer to flash. -/
def execLogWrite (s : State) : Host.Outcome State Fault Refusal := .next (if s.keeper.up then logWrite s else s)

/-- LOG_SEAL (R395): a batch closes; before a commanded reset it carries BEFORE_RESET. -/
def execLogSeal (signed : Bool) (s : State) : Host.Outcome State Fault Refusal :=
  .next (if s.keeper.up then sealBatch signed s.nv.lossOpen (s.keeper.reboot != 0) s else s)

/-- Loss of the standby rail: what is still in SRAM is lost (R393, R403). -/
def keeperGone (s : State) : State :=
  { s with keeper := { s.keeper with up := false, buf := [], fifo := [], transfer := none, busy := false, reboot := 0 }
           nv := { s.nv with lossOpen := s.nv.lossOpen || !s.nv.batch.isEmpty } }

end Sys2Proof.Machine
end

