-- ==== Sys2Proof/Machine/Power.lean ====
section
/-!
DEFINITION. The die in reset, the rails, and the start of a boot (R357, R378, R402, R403).
-/
namespace Sys2Proof.Machine

open Sys2Proof

/-- The pins with the die in reset: no phase output is high and nothing is driven or sampled (R402, R403). -/
def resetPins (p : PinSt) : PinSt :=
  { p with dieReset := true, braidRun := false, braidSpate := false, alertDriven := false, inputsOn := false, holdReq := false
           flushDone := false, progress := 0, serdes := false, brace := false, pfwTaken := false }

/-- The die goes into reset: board test mode is left, and a TAP instruction of that mode acts as BYPASS (R417, R418); DRAM, the directory and every run-time structure are lost (R337, R357); what Machine/State.lean's
NvSt holds, the keeper and the tide count stay. -/
def dieReset (s : State) : State :=
  let s := { s with
    pins := resetPins s.pins, map := {}, party := [], net := {}, weir := {}, store := {}, flush := {}, coh := {}, sluice := {}
    rill := {}, mills := [], shoal := {}, attn := [], exch := {}
    hosts := Tbl.mapVal (fun (h : HostSt) => ({ perst := h.perst } : HostSt)) s.hosts
    spdm := s.spdm.filter (fun e => e.1 == 0)
    test := { ir := if s.test.ir == 0x01 || s.test.ir == 0x02 then s.test.ir else 0xFF, cells := s.test.cells }
    boot := { s.boot with ready := false, memAwait := 0, linksDone := false, linksTried := [], erasing := false, keys := [], keyBits := []
                          uncreated := [] }
    keeper := { s.keeper with busy := false, reboot := 0, windows := false, calm := 0, capMet := true, deferred := false } }
  dropAlert alertIsland (dropAlert alertBraced (dropAlert alertCapUnmet (dropAlert alertBootFailed s)))

/-- A boot begins: from step 2 cold, from step 4 warm. It is counted, and so is a reset that was not orderly (Table 16-11). -/
def startBoot (warm : Bool) (s : State) : State :=
  let n := if warm then 4 else 2
  let dirty := if s.nv.orderly then s.nv.dirtyShutdowns else s.nv.dirtyShutdowns + 1
  { s with
    nv := { s.nv with bootNumber := (s.nv.bootNumber + 1) % 2 ^ 32, dirtyShutdowns := dirty, orderly := false }
    boot := { s.boot with phase := .awaiting n, step := n - 1, cause := 0, warm, badChannel := none, restored := false
                          restorePoison := 0, byAlarm := false } }

/-- A cold reboot: every rail but standby is off for 100 ms, and the boot restarts at step 2 (R378). -/
def coldReset (s : State) : State :=
  let s := dieReset s
  startBoot false { s with pins := { s.pins with mainRails := false } }

/-- A warm reboot: the boot restarts at step 4 (R357, R378). -/
def warmReset (s : State) : State := startBoot true (dieReset s)

/-- Main rails off, standby on (R383). -/
def railsOff (s : State) : State :=
  let s := dieReset s
  { s with pins := { s.pins with mainRails := false }, boot := { s.boot with phase := .down } }

/-- What a loss of power does to durable-dirty units that no flush covers: nothing lists them, as with a manifest that is incomplete
(R88; log entry 16). -/
def losePower (s : State) : State :=
  if s.flush.kind == .none && s.boot.ready && (!s.store.charged.isEmpty) then
    { s with nv := { s.nv with reserve := { present := true } } }
  else s

/-- Every rail off, standby among them: the keeper stops with what its SRAM held (log entry 71) and the pins fall through their pull-downs (R403, R410). At the next power-on
the tide count is 0 and free-running (R223). -/
def allOff (s : State) : State :=
  let s := keeperGone (dieReset (losePower s))
  { s with pins := { s.pins with standby := false, mainRails := false, inputGood := false, pfwOwn := false }
           boot := { s.boot with phase := .noPower }
           tide := {} , spdm := [], test := {}, keeper := { mono := s.keeper.mono, nonce := s.keeper.nonce } }

/-- STANDBY_LOST (R403): the input has fallen below 20 V. -/
def execStandbyLost (s : State) : Host.Outcome State Fault Refusal := .next (if s.pins.standby then allOff s else s)

/-- HOT_SWAP_TRIP (R410): no flush runs; the trip shows at the next boot as a log batch left open. -/
def execHotSwapTrip (s : State) : Host.Outcome State Fault Refusal := .next (if s.pins.standby then allOff s else s)

end Sys2Proof.Machine
end

