-- ==== Sys2Proof/Machine/Spate.lean ====
section
/-!
DEFINITION. The spate flush (R83 to R89, R147), the braced state (R87, R388), and PFW# (R369, R406).
-/
namespace Sys2Proof.Machine

open Sys2Proof

/-! ## Triggers (Table 03-4, Table 16-10) -/

def trigPfw : Nat := 0
def trigBrace : Nat := 1
def trigShock : Nat := 2
def trigCommand : Nat := 3
def trigFilm : Nat := 4
def trigAlarm : Nat := 5

/-- A flush runs or waits for its period boundary. -/
def flushActive (s : State) : Bool := s.flush.kind != .none || s.flush.pending

/-- A selection of a weir table logged (R392): its kind, its cause and the measured power. -/
def logSelect (k : WeirKind) (cause watts : Nat) (s : State) : State :=
  logEv 0x0301 sevNotice 15 0 (weirKindCode k + at' cause 8) watts s

/-- R83: a trigger starts a flush at the next period boundary. A flush that is active is not restarted; PFW# turns an early one into a
power flush at the next boundary. -/
def trigger (cause : Nat) (s : State) : State :=
  if flushActive s then
    if cause == trigPfw then { s with flush := { s.flush with toPower := true } } else s
  else
    let s := logSelect .spate 2 s.keeper.powerW s
    { s with flush := { s.flush with pending := true, toPower := cause == trigPfw, trigger := cause, startMono := s.keeper.mono } }

/-! ## The braced state (R87, R388) -/

/-- The node braced from now on, for one more cause. -/
def braceNow (cause : Nat) (s : State) : State :=
  let was := s.flush.braced
  let s := setAlert alertBraced { s with flush := { s.flush with braced := true, causes := insertNat cause s.flush.causes } }
  if was then s else logEv 0x0305 sevNotice 15 0 1 cause s

/-- A boot is under way. -/
def booting (s : State) : Bool :=
  match s.boot.phase with
  | .awaiting _ | .railRetry | .released => !s.boot.ready
  | _ => false

/-- A BRACE, a shock or a condensation alarm taken (R87, R369, R388). One that starts a flush braces the node when the flush ends; one
taken while another trigger's flush runs braces it at once; one taken during boot braces it from READY. -/
def takeBrace (cause : Nat) (s : State) : State :=
  if booting s then
    logEv 0x0305 sevNotice 15 0 1 cause { s with flush := { s.flush with bootBrace := insertNat cause s.flush.bootBrace } }
  else if !s.boot.ready || s.boot.phase == .flushed then s
  else if flushActive s then
    if s.flush.trigger == cause then { s with flush := { s.flush with braceNext := insertNat cause s.flush.braceNext } } else braceNow cause s
  else
    let s := trigger cause s
    { s with flush := { s.flush with braceNext := insertNat cause s.flush.braceNext } }

/-- At READY the node is braced for what was taken during boot (R369). -/
def braceAtReady (s : State) : State :=
  if s.flush.bootBrace.isEmpty then s
  else setAlert alertBraced { s with flush := { s.flush with braced := true, causes := s.flush.bootBrace, bootBrace := [] } }

/-- The node leaves the braced state. What an early flush under way was started by braces it again when that ends (R87). -/
def endBrace (s : State) : State :=
  if !s.flush.braced then s
  else
    let cause := s.flush.causes.headD 0
    logEv 0x0305 sevNotice 15 0 0 cause (dropAlert alertBraced { s with flush := { s.flush with braced := false, causes := [] } })

/-- Whether the hold-off may run: BRACE deasserted where BRACE or a shock braced the node, the film dry where it did (R87, R388). -/
def braceQuiet (s : State) : Bool :=
  (!(s.flush.causes.contains trigBrace || s.flush.causes.contains trigShock) || !s.pins.brace)
  && (!s.flush.causes.contains trigFilm || !s.keeper.filmWet)

/-- BRACE_HOLDOFF_END (R87). -/
def execBraceHoldoffEnd (s : State) : Host.Outcome State Fault Refusal :=
  .next (if s.flush.braced && braceQuiet s then endBrace s else s)

/-- BRACE_ASSERT (R83, R404): taken on BRAID4 in the run phase. -/
def execBraceAssert (s : State) : Host.Outcome State Fault Refusal :=
  .next (if s.pins.inputsOn && !s.pins.brace then takeBrace trigBrace { s with pins := { s.pins with brace := true } } else s)

/-- BRACE_DEASSERT (R87). -/
def execBraceDeassert (s : State) : Host.Outcome State Fault Refusal :=
  .next { s with pins := { s.pins with brace := false } }

/-! ## The flush (R84 to R86, R147) -/

/-- Flush progress in quarters (Table 03-5). -/
def quarter (s : State) : Nat :=
  let n := s.flush.set.length
  let k := n - s.flush.left.length
  if n == 0 then (if s.flush.manifestDone then 3 else 0) else min 3 (4 * k / n)

/-- The pins' spate phase with HOLD_REQ asserted (R85 step 4, Table 17-5). -/
def spatePhase (s : State) : State :=
  { s with pins := { s.pins with braidRun := false, braidSpate := true, alertDriven := false, inputsOn := false, holdReq := true
                                 flushDone := false, progress := quarter s } }

/-- R84 at the period boundary: the spate table in force, the flush set fixed, every party in write-through; in a power flush the
spate phase of the pins. Manifest and units are device work for the maintenance slots of that table (R25). -/
def flushBegins (s : State) : State :=
  let set := s.store.charged.map (·.1)
  let power := s.flush.toPower
  let before := if s.weir.kind == .spate then s.weir.before else s.weir.kind
  let s := { s with
    weir := { s.weir with kind := .spate, selected := none, before }
    nv := { s.nv with reserve := { present := true } }
    flush := { s.flush with kind := if power then .power else .early, pending := false, toPower := false, set, left := set
                            manifestDone := false, serdesOff := false, cut := false } }
  let s := maintain 0 .manifest s
  let s := set.foldl (fun s u => maintain (homeRace s (u * 4096)) (.spate u) s) s
  let s := logEv 0x0303 sevAlarm 15 0 s.flush.trigger set.length s
  if power then spatePhase s else s

/-- R83: an early flush becomes a power flush, without a restart. -/
def flushToPower (s : State) : State :=
  spatePhase { s with flush := { s.flush with kind := .power, toPower := false } }

/-- What a period boundary does for a flush. -/
def flushBoundary (s : State) : State :=
  if s.flush.pending then flushBegins s
  else if s.flush.toPower && s.flush.kind == .early then flushToPower s
  else s

/-- The lines that R145 would poison in DURABLE ranges (R147). -/
def poisonListOf (s : State) : List Nat :=
  (s.coh.dir.filter (fun e => (e.state == .o || (e.state == .em && e.modified)) && s.nv.durMap.contains (e.line / 1024))).map (·.line)

/-- Whether an admitted request is still to complete (R85 step 2): in a pipeline, parked or waiting, write-through, or with snoops out. -/
def admittedOpen (s : State) : Bool :=
  !s.weir.pipe.isEmpty || !s.weir.parked.isEmpty || !s.weir.waitMove.isEmpty || !s.store.wt.isEmpty || !s.store.parkedW.isEmpty
  || !s.coh.txns.isEmpty || !s.coh.waits.isEmpty || !s.coh.waitWay.isEmpty

/-- R85 step 3, R147, R272: the SerDes are turned off once every admitted request has completed, the directory is walked for the poison
list, and the eddy queues are flushed. -/
def serdesOff (s : State) : State :=
  if s.flush.kind != .power || s.flush.serdesOff || admittedOpen s then s
  else
    let list := poisonListOf s
    let s := eddyFlush (fun _ _ => true) s
    { s with
      flush := { s.flush with serdesOff := true }
      pins := { s.pins with serdes := false }
      nv := { s.nv with reserve := { s.nv.reserve with poisonList := insertAll list [] } }
      net := { s.net with links := Tbl.mapVal (fun (k : Link) => { k with mode := .down }) s.net.links }
      hosts := Tbl.mapVal (fun (h : HostSt) => { h with l0 := false, trained := false, cxl := false, l0Count := false }) s.hosts }

/-- SERDES_OFF (R85). -/
def execSerdesOff (s : State) : Host.Outcome State Fault Refusal := .next (serdesOff s)

/-- A unit programmed into the spate reserve with the bytes given, under the serial of its partition's key, with its poison (R75, R84). -/
def reserveUnit (u : Nat) (bs : Bytes) (s : State) : State :=
  let r := s.nv.reserve
  let r := { r with units := insertNat u r.units, data := r.data.writeN (u * 4096) bs
                    serials := Tbl.put r.serials u (Tbl.get 0 s.boot.keys (poolOf s (u * 4096)))
                    dataPoison := insertAll (s.store.poison.filter (fun l => l / 64 == u)) r.dataPoison }
  { s with nv := { s.nv with reserve := r } }

/-- FLUSH_UNIT_PROGRAMMED (R84, R75): the manifest is programmed first, then each unit in its order, with its enciphered contents and its poison, once
the slot and the flash gate have been granted for it; a unit leaves the flush set when its program is verified. Its durable-dirty mark
stays until it is written back (R71; log entry 16). -/
def flushUnitProgrammed (unit : Option Nat) (s : State) : State :=
  if s.flush.kind == .none || s.flush.cut then s
  else match unit with
    | none =>
      if s.flush.manifestDone || !isOn s .manifest then s
      else
        let s := { s with nv := { s.nv with reserve := { s.nv.reserve with manifest := s.flush.set, complete := true } } }
        let s := dropFlash .manifest { s with flush := { s.flush with manifestDone := true } }
        if s.pins.braidSpate then { s with pins := { s.pins with progress := quarter s } } else s
    | some u =>
      if !s.flush.manifestDone || s.flush.left.head? != some u || !isOn s (.spate u) then s
      else
        let s := reserveUnit u (cipherUnit s s.store.mem u) s
        let s := dropFlash (.spate u) { s with flush := { s.flush with left := removeNat u s.flush.left } }
        if s.pins.braidSpate then { s with pins := { s.pins with progress := quarter s } } else s

/-- FLUSH_UNIT_PROGRAMMED (R84). -/
def execFlushUnitProgrammed (unit : Option Nat) (s : State) : Host.Outcome State Fault Refusal := .next (flushUnitProgrammed unit s)

/-- Everything but the spate record is programmed. -/
def flushReady (s : State) : Bool := s.flush.manifestDone && s.flush.left.isEmpty && !s.flush.cut

/-- The spate record programmed, and the end of the flush logged. -/
def recordDone (s : State) : State :=
  let s := { s with nv := { s.nv with reserve := { s.nv.reserve with record := true } } }
  logEv 0x0304 sevNotice 15 0 s.flush.set.length (s.keeper.mono - s.flush.startMono) s

/-- FLUSH_DONE (R85 step 5): the record of a power flush is programmed; what follows is a reset. -/
def flushDone (s : State) : State :=
  if s.flush.kind != .power || !flushReady s || !s.flush.serdesOff || s.boot.phase == .flushed then s
  else
    let s := recordDone s
    { s with pins := { s.pins with flushDone := true, holdReq := false, progress := 3 }, boot := { s.boot with phase := .flushed } }

/-- FLUSH_DONE (R85). -/
def execFlushDone (s : State) : Host.Outcome State Fault Refusal := .next (flushDone s)

/-- EARLY_FLUSH_COMPLETE (R86, R87, R392): the table in force before the flush is selected again, and what started the flush braces the
node. A PFW# taken meanwhile starts a power flush at the next boundary. -/
def earlyFlushComplete (s : State) : State :=
  if s.flush.kind != .early || !flushReady s then s
  else
    let s := recordDone s
    let again := s.flush.toPower
    let causes := s.flush.braceNext
    let s := { s with flush := { s.flush with kind := .none, toPower := false, set := [], left := [], braceNext := [] }
                      weir := { s.weir with selected := some s.weir.before }, keeper := { s.keeper with calm := 0 } }
    let s := logSelect s.weir.before 3 s.keeper.powerW s
    let s := causes.foldl (fun s c => braceNow c s) s
    if again then trigger trigPfw s else s

/-- FLUSH_LOW_INPUT (R88): below 30 V the flush stops where it is; one that had not begun has no manifest. -/
def flushLowInput (s : State) : State :=
  if !flushActive s || s.boot.phase == .flushed then s
  else if s.flush.pending then
    { s with flush := { s.flush with cut := true, pending := false }, nv := { s.nv with reserve := { present := true } } }
  else { s with flush := { s.flush with cut := true } }

/-- FLUSH_LOW_INPUT (R88). -/
def execFlushLowInput (s : State) : Host.Outcome State Fault Refusal :=
  .next (let s := flushLowInput s; { s with pins := { s.pins with inputGood := false } })

/-- POST_FLUSH_REBOOT (R85): the input has held for 100 ms after FLUSH_DONE. -/
def execPostFlushReboot (s : State) : Host.Outcome State Fault Refusal :=
  .next (if s.boot.phase == .flushed && s.pins.flushDone then
      coldReset { s with pins := { s.pins with inputGood := true, pfwOwn := false } }
    else s)

/-! ## PFW# (R83, R369, R379, R406) -/

/-- PFW# before die release: the boot stops, the pins stay in their reset phase, and the keeper waits for the input (R369). -/
def pfwInReset (s : State) : State :=
  match s.boot.phase with
  | .awaiting _ | .railRetry => { s with boot := { s.boot with phase := .waitInput }, pins := { s.pins with pfwTaken := true } }
  | _ => s

/-- PFW# after die release and before READY: no durable-dirty unit exists; the pins show a flush that is done (R369). -/
def pfwInBoot (s : State) : State :=
  { s with boot := { s.boot with phase := .flushed, memAwait := 0 }
           pins := { s.pins with pfwTaken := true, braidRun := false, braidSpate := true, alertDriven := false, inputsOn := false
                                 holdReq := false, flushDone := true, progress := 3 } }

/-- PFW# in service: the run phase ends, a shutdown and an open transfer are given up (R379, R397), and a power flush starts. -/
def pfwInService (s : State) : State :=
  let s := { s with
    pins := { s.pins with pfwTaken := true, braidRun := false, alertDriven := false, inputsOn := false }
    map := { s.map with teardown := false }
    keeper := { s.keeper with reboot := 0, busy := false, transfer := none, written := none } }
  trigger trigPfw s

/-- PFW_ASSERT (R83): low for 200 ns. Buffered log entries are written at once (R393). -/
def pfwAssert (s : State) : State :=
  if s.pins.pfwTaken || !s.pins.standby then s
  else
    let s := if s.keeper.up then logWrite s else s
    if s.pins.dieReset then pfwInReset s
    else if s.boot.ready then pfwInService s
    else match s.boot.phase with
      | .released | .failedReleased => pfwInBoot s
      | _ => s

def execPfwAssert (s : State) : Host.Outcome State Fault Refusal := .next (pfwAssert s)

/-- INPUT_SAG (R406): the module pulls PFW# low. -/
def execInputSag (s : State) : Host.Outcome State Fault Refusal :=
  .next (if s.pins.standby then { s with pins := { s.pins with pfwOwn := true, inputGood := false } } else s)

/-- INPUT_RECOVERED (R369, R406): the module releases PFW#; a boot that PFW# stopped, and a flush that was cut short, end in a cold
boot (log entry 16). -/
def inputRecovered (s : State) : State :=
  if !s.pins.standby then s
  else
    let s := { s with pins := { s.pins with pfwOwn := false, inputGood := true } }
    if s.boot.phase == .waitInput || s.flush.cut then coldReset s else s

def execInputRecovered (s : State) : Host.Outcome State Fault Refusal := .next (inputRecovered s)

end Sys2Proof.Machine
end

