-- ==== Sys2Proof/Machine/Content.lean ====
section
/-!
DEFINITION. The content checks of stage 2 (R364): the rules by which Headwater Builder refuses an image, and the layout rules of R360
to R363, as far as they need no other node's slice. Each check is on a state whose headwater image is the one being checked.
-/
namespace Sys2Proof.Machine

open Sys2Proof

/-- No element twice. -/
def distinct {α : Type} [BEq α] (l : List α) : Bool := l.eraseDups.length == l.length

/-- Way masks that do not overlap. -/
def disjointWays : List Nat → Bool
  | [] => true
  | w :: t => t.all (fun x => w &&& x == 0) && disjointWays t

/-- A party number that the ULG-8064 provides (R6). -/
def partyProvided (p : Nat) : Bool := p < 8 || p == 15

/-- An owner whose party, or whose members' parties, are provided. -/
def ownerProvided (s : State) : Owner → Bool
  | .single p => partyProvided p.party
  | .set id => match findSet s.hw.slice id with
    | some x => x.members.all (fun p => partyProvided p.party)
    | none => true

/-- R6: no field names parties 8 to 14, whether of this node or of another (log entry 67). -/
def contentParties (s : State) : Bool :=
  let h := s.hw
  h.pairs.all (fun x => partyProvided x.localParty && partyProvided x.origin.party) && h.pools.all (fun x => x.isSet || partyProvided x.owner)
  && h.windows.all (fun w => partyProvided w.localParty && w.users.all (fun p => partyProvided p.party))
  && h.groups.all (fun g => partyProvided g.party) && h.slice.extents.all (fun e => ownerProvided s e.owner)
  && h.slice.sets.all (fun x => x.members.all (fun p => partyProvided p.party))
  && h.ports.all (fun p => !p.valid || partyProvided p.party)
  && (h.settings.reachParty == 0xFF || partyProvided h.settings.reachParty)
  && h.weir.all (fun t => t.xbar.all (fun rows => rows.all (fun r => !r.owned || partyProvided r.owner)))

/-- The pseudo-channels of a channel set. -/
def channelsOf (c : ChannelSet) : List Nat := rangeFrom c.first (2 ^ c.log2)

/-- R16, R363: channel sets of 1 to 64 pseudo-channels, aligned, without overlap; pseudo-channel 63 is the device pool's alone. -/
def contentChannels (s : State) : Bool :=
  let one := fun (c : ChannelSet) => c.race < 8 && c.log2 ≤ 6 && c.first % 2 ^ c.log2 == 0 && c.first + 2 ^ c.log2 ≤ 64
    && (if c.first + 2 ^ c.log2 == 64 then c.pool == 0 && c.log2 == 0 else c.pool != 0 && c.pool < 1024)
  s.hw.channels.all one
  && (List.range 8).all (fun n => distinct ((s.hw.channels.filter (fun c => c.race == n)).flatMap channelsOf))

/-- R17: the basin split sums to 12 MiB, with at least 1 MiB of codebook store and 2 MiB of tile buffers, or is not given. -/
def contentBasin (s : State) : Bool :=
  let n := s.hw.settings
  (n.basinHot == 0 && n.basinTile == 0 && n.basinCb == 0) || (n.basinHot + n.basinTile + n.basinCb == 12 && 1 ≤ n.basinCb && 2 ≤ n.basinTile)

/-- R40: the node accepts its own slice only with both signatures under one operator key pair. -/
def contentSliceSigned (s : State) : Bool := operatorSigned s s.hw.slice.rsaKeys s.hw.slice.slhKeys

/-- R41 on the node's own slice, whose extents lie within the node's backed space. -/
def contentSlice (s : State) : Bool :=
  let sl := s.hw.slice
  sliceFieldsOk sl && sl.extents.all (fun e => extentEnd e ≤ backedSize s) && sl.roster.contains s.hw.node

/-- R60: an extent owned by a pair of another node is owned by one that the party map names. -/
def contentOwners (s : State) : Bool :=
  s.hw.slice.extents.all (fun e => match e.owner with
    | .single p => p.node == s.hw.node || s.hw.pairs.any (fun x => x.origin == p)
    | .set _ => true)

/-- R62: every pool holds its own metadata and 64 frames besides. -/
def contentPools (s : State) : Bool := s.hw.pools.all (fun x => metaFrames s x.pool + 64 ≤ poolFrames s x.pool)

/-- The slots of a table that name a (party, class) for a race. -/
def slotsNaming (t : WeirTable) (race party : Nat) (tc : TClass) : List WeirSlot :=
  t.slots.filter (fun x => (x.race race).party == party && (x.race race).tclass == tc)

/-- Whether a slot pair names a party of the party map, and party 15 with class maintenance only. -/
def pairOk (s : State) (p : PairSlot) : Bool :=
  if p.party == 15 then p.tclass == .maintenance else p.party < 8 && (partyRec s p.party).present

/-- The local parties that a pool serves: its owner, or the local parties of its sharing set's members. -/
def poolParties (s : State) (x : PoolEntry) : List Nat :=
  if !x.isSet then [x.owner]
  else match findSet s.hw.slice x.owner with
    | some m => m.members.filterMap (localParty s)
    | none => []

/-- The cap of a table (R390). -/
def tableCap (s : State) : WeirKind → Nat
  | .full => s.hw.settings.capFullW
  | .cap1 => s.hw.settings.cap1W
  | .cap2 => s.hw.settings.cap2W
  | .spate => 260

/-- R118, Mode: what a sealed table may hold. The rows of the 11 outputs are owned; the others are RSVD (Table 04-9). -/
def sealedTableOk (t : WeirTable) : Bool :=
  (List.range 16).all (fun o => (t.ovf o).isEmpty)
  && t.slots.all (fun x => x.ovfSel == 0
      && ((nth [] t.xbar x.xbarSel).take 11).all (fun r => r.owned)
      && (List.range 8).all (fun n => (nth {} (nth [] t.xbar x.xbarSel) n).owner == (x.race n).party))

/-- R118 for one table, but for demand service. -/
def tableOk (s : State) (t : WeirTable) : Bool :=
  t.slots.all (fun x => (List.range 8).all (fun n => pairOk s (x.race n))) && (List.range 16).all (fun o => (t.ovf o).all (pairOk s))
  && (List.range 8).all (fun n => 128 ≤ (slotsNaming t n 15 .maintenance).length)
  && (List.range 8).all (fun n => t.slots.any (fun x => x.flashEn && x.flashRace == n))
  && t.xbar.all (fun rows => (rows.take 11).all (fun r => (List.range 11).all (fun i => r.order.contains i)))
  && t.modelW ≤ tableCap s t.kind && (t.isOpen || sealedTableOk t)

/-- R118, Demand service: in the full table, in each race that holds a channel set of the party's pools. -/
def demandServed (s : State) : Bool :=
  match weirTable s .full with
  | none => false
  | some t => s.hw.pools.all (fun x => (poolParties s x).all (fun p =>
      8 ≤ p || (poolRaces s x.pool).all (fun n => !(slotsNaming t n p .demand).isEmpty)))

/-- R84, R118: the weir tables, all of one MODE. -/
def contentWeir (s : State) : Bool :=
  s.hw.weir.all (tableOk s) && demandServed s && (s.hw.weir.all (fun t => t.isOpen) || s.hw.weir.all (fun t => !t.isOpen))

/-- R119: a sealed image divides every shared structure (Table 04-13). -/
def contentSealed (s : State) : Bool :=
  !isSealed s || (
    let ps := s.hw.parties.filter (fun p => p.present)
    disjointWays (ps.map (·.hotWays)) && disjointWays (ps.map (·.cacheWays)) && (ps.map (·.mills)).sum ≤ 100
    && (ps.map (·.rillCacheShare)).sum ≤ 1024)

/-- R140: at most 512 domains homed or served, over the slice at hand. -/
def contentDomains (s : State) : Bool := ((groupsOf { s with map := {} }).filter (concerns s)).length ≤ 512

/-- R193: the sluice windows. -/
def contentWindows (s : State) : Bool :=
  let ws := s.hw.windows
  ws.all (fun w => 16 ≤ w.blockLog2 && w.blockLog2 ≤ 22 && w.len % 2 ^ w.blockLog2 == 0 && w.len ≤ 2 ^ 46 && w.localBase % 2 ^ w.blockLog2 == 0)
  && (ws.map (fun w => 2 * w.stageBlocks * 2 ^ w.blockLog2)).sum ≤ 2 ^ 33

/-- The races that hold frames of a party's own pool. -/
def racesOfParty (s : State) (p : Nat) : List Nat := poolRaces s (partyRec s p).pool

/-- R268: in a sealed image a party with codebook slots has its shares of the expander. -/
def contentExpander (s : State) : Bool :=
  !isSealed s || (List.range 8).all (fun p =>
    let r := partyRec s p
    !r.present || r.cbCount == 0 || (racesOfParty s p).isEmpty || (0 < r.inputKib && 0 < r.eddyKib && 0 < r.cbStoreKib))

/-- R278: a sealed image gives quotas of sequences. -/
def contentQuota (s : State) : Bool := !isSealed s || s.hw.parties.all (fun r => !r.present || r.seqQuota != 0xFFFF)

/-- R290: in a sealed image a party with a quota has four mills in a race that holds its frames. -/
def contentTeams (s : State) : Bool :=
  !isSealed s || (List.range 8).all (fun p =>
    let r := partyRec s p
    !r.present || r.seqQuota == 0 || (racesOfParty s p).isEmpty || 4 ≤ r.mills)

/-- R300, as far as this node is concerned. -/
def contentGroups (s : State) : Bool :=
  s.hw.groups.all (fun g =>
    let r := partyRec s g.party
    16 ≤ g.slotLog2 && g.slotLog2 ≤ 24
    && (!g.roster.contains s.hw.node || (
      g.party < 8 && r.present && r.rillFirst ≤ g.serveRill && g.serveRill < r.rillFirst + r.rillCount
      && (match findExtent s.hw.slice g.areaOff (2048 * 2 ^ g.slotLog2) with
        | some e => e.cls == .priv && e.owner == .single ⟨s.hw.node, g.party⟩
        | none => false))))

/-- R335: at most 1,023 partitions besides the device. -/
def contentPartitions (s : State) : Bool := (s.hw.pools.filter (fun x => x.pool != 0)).length ≤ 1023

/-- R360: the header of an image, whose failure is HW_FORMAT: MAGIC, FORMAT, its lengths and its reserved bits. -/
def headerOk (h : Headwater) : Bool :=
  h.magic == 0x4857494D && h.format == 1 && h.rsvd == 0 && 512 ≤ h.length && h.length ≤ 16777216 && 1 ≤ h.sections && h.sections ≤ 28

/-- Sections that do not overlap, each with every later one. -/
def sectionsApart : List Section → Bool
  | [] => true
  | x :: t => t.all (fun y => x.offset + x.length ≤ y.offset || y.offset + y.length ≤ x.offset) && sectionsApart t

/-- R360, Table 15-3: sections on 8-byte boundaries within the image, each type once but for weir tables, and the required ones present. -/
def contentDirectory (s : State) : Bool :=
  let d := s.hw.directory
  d.length == s.hw.sections && sectionsApart d
  && d.all (fun x => 1 ≤ x.type && x.type ≤ 11 && x.offset % 8 == 0 && 512 ≤ x.offset && x.offset + x.length ≤ s.hw.length && x.rsvd == 0
      && (x.type == 7 || x.inst == 0))
  && distinct (d.map (fun x => (x.type, x.inst))) && (rangeFrom 1 7).all (fun n => d.any (fun x => x.type == n))

/-- R113, R360, Tables 04-9, 15-2, 15-3 and 15-6: the full and spate tables are present, cap-2 only with cap-1, each once with 8,192 slots; the
generation is that of the slice. -/
def contentLayout (s : State) : Bool :=
  let ks := s.hw.weir.map (·.kind)
  s.hw.settings.rsvd == 0 && contentDirectory s &&
  ks.contains .full && ks.contains .spate && (!ks.contains .cap2 || ks.contains .cap1) && distinct ks
  && s.hw.weir.all (fun t => t.format == 1 && t.slots.length == 8192) && s.hw.slice.compGen == s.hw.compGen && s.hw.slice.node == s.hw.node
  && s.hw.windows.length ≤ 64 && s.hw.mirrors.length ≤ 16 && s.hw.groups.length ≤ 16 && s.hw.deltas.length ≤ 256

/-- Pair entries sorted by node and party, no two equal. -/
def pairsSorted : List RemotePair → Bool
  | a :: b :: t => (a.origin.node < b.origin.node || (a.origin.node == b.origin.node && a.origin.party < b.origin.party)) && pairsSorted (b :: t)
  | _ => true

/-- R361: the party map. -/
def contentPartyMap (s : State) : Bool :=
  s.hw.parties.all (fun p => p.rsvd == 0) && s.hw.pairs.all (fun p => p.rsvd == 0) && s.hw.parties.length == 8 && s.hw.pairs.length ≤ 4096 && pairsSorted s.hw.pairs
  && s.hw.parties.all (fun p => p.rillCount ≤ 65536 && p.cbCount ≤ 4096)

/-- R362: the port map. -/
def contentPorts (s : State) : Bool :=
  let ps := s.hw.ports.filter (fun p => p.valid)
  let count := fun (k : PortKind) => (ps.filter (fun p => p.kind == k)).length
  s.hw.ports.length == 10
  && s.hw.ports.all (fun p => p.rsvd == 0) && ps.all (fun p => p.linksLog2 ≤ 3 && p.firstLink % 2 ^ p.linksLog2 == 0 && p.firstLink + 2 ^ p.linksLog2 ≤ 32
      && (p.kind != .partner || (2 ≤ p.party && p.party ≤ 7)))
  && distinct (ps.flatMap portLinks) && count .partner ≤ 6 && count .switch + count .site ≤ 4
  && (s.hw.slice.roster.all (fun n => n == s.hw.node) || 1 ≤ count .switch)
  && (!s.hw.windows.any (fun w => w.site) || 1 ≤ count .site)
  && distinct ((ps.filter (fun p => p.kind == .partner)).map (·.party))

/-- R363: the pool list; a party record repeats the DIR_WAYS of its pool. -/
def contentPoolList (s : State) : Bool :=
  let ps := s.hw.pools
  let coherent := fun (q : Nat) => s.hw.slice.extents.any (fun e => e.cls == .coherent && extentPool s e == q)
  ps.all (fun x => x.rsvd == 0) && s.hw.channels.all (fun c => c.rsvd == 0) && distinct (ps.map (·.pool))
  && s.hw.parties.all (fun r => !r.present || r.dirWays == ((ps.find? (fun x => x.pool == r.pool)).map (·.dirWays)).getD 0)
  && (!isSealed s || (disjointWays (ps.map (·.dirWays)) && ps.all (fun x => !coherent x.pool || x.dirWays != 0)))

/-- R390: the power caps. -/
def contentCaps (s : State) : Bool :=
  let n := s.hw.settings
  n.capFullW ≤ 950 && n.cap1W < n.capFullW && n.cap2W < n.cap1W && 200 ≤ n.limitW && n.limitW ≤ n.capFullW
  && s.hw.weir.all (fun t => t.modelW ≤ tableCap s t.kind)

/-- Every check with the rule it belongs to, in the manual's order. -/
def contentChecks : List (Nat × (State → Bool)) :=
  [(6, contentParties), (16, contentChannels), (17, contentBasin), (40, contentSliceSigned), (41, contentSlice), (60, contentOwners),
   (62, contentPools), (118, contentWeir), (119, contentSealed), (140, contentDomains), (193, contentWindows), (268, contentExpander),
   (278, contentQuota), (290, contentTeams), (300, contentGroups), (335, contentPartitions), (360, contentLayout), (361, contentPartyMap),
   (362, contentPorts), (363, contentPoolList), (390, contentCaps)]

/-- The first rule that an image breaks, if it breaks one (R364). -/
def contentRule (s : State) (h : Headwater) : Option Nat :=
  let s := { s with hw := h }
  (contentChecks.find? (fun c => !c.2 s)).map (·.1)

end Sys2Proof.Machine
end

