-- ==== Sys2Proof/Machine/Boot.lean ====
section
/-!
DEFINITION. The boot sequence (Table 15-1, R356 to R370), the boot chain (R345 to R347, R396, R399), the partition keys (R335 to R341),
and the restore of the spate reserve (R88, R90).
-/
namespace Sys2Proof.Machine

open Sys2Proof

/-- The boot waits for this step. -/
def await (n : Nat) (s : State) : State := { s with boot := { s.boot with phase := .awaiting n } }

/-- A boot that stops with the die in reset: no ALERT# is driven (R370). -/
def stopInReset (s : State) : State := { s with boot := { s.boot with phase := .failedReset } }

/-- BOOT_FAILED (R370): the die stays released, every Ezlet SerDes is off, the host ports answer CXL.io with Memory_Active = 0. -/
def bootFailed (n cause : Nat) (s : State) : State :=
  let s := setAlert alertBootFailed (bootFail n cause s)
  { s with boot := { s.boot with phase := .failedReleased, memAwait := 0 }, pins := { s.pins with serdes := false }
           net := { s.net with links := Tbl.mapVal (fun (k : Link) => { k with mode := .down, retryDue := false }) s.net.links }
           hosts := Tbl.mapVal (fun (h : HostSt) => { h with memActive := false }) s.hosts }

/-! ## Step 1 (R356, R370) -/

/-- The standby rail tried: the keeper starts with it, and the boot begins. -/
def standbyTried (good : Bool) (s : State) : State :=
  if !good then { s with boot := { s.boot with phase := .standbyRetry } }
  else
    let s := { s with pins := { s.pins with standby := true, inputGood := true }, keeper := { s.keeper with up := true } }
    bootStep 1 (startBoot false s)

/-- STANDBY_GOOD (R356): the input reaches 38.0 V. -/
def execStandbyGood (good : Bool) (s : State) : Host.Outcome State Fault Refusal :=
  .next (match s.boot.phase with
    | .waitStandby | .noPower => standbyTried good s
    | _ => s)

/-- STANDBY_RETRY (R370): every 1 s until the rail is good. -/
def execStandbyRetry (good : Bool) (s : State) : Host.Outcome State Fault Refusal :=
  .next (if s.boot.phase == .standbyRetry then standbyTried good s else s)

/-! ## Slot records (R396, R399) -/

def slotState (r : SlotRec) (slot : Nat) : SlotState := if slot == 0 then r.stateA else r.stateB

def setSlotState (slot : Nat) (x : SlotState) (r : SlotRec) : SlotRec :=
  { (if slot == 0 then { r with stateA := x } else { r with stateB := x }) with writeCount := (r.writeCount + 1) % 65536 }

/-- Component numbers (R396). -/
def compFirmware : Nat := 1
def compHeadwater : Nat := 2

def slotRec (s : State) (c : Nat) : SlotRec := if c == compFirmware then s.nv.fwRec else s.nv.hwRec

def updRec (c : Nat) (f : SlotRec → SlotRec) (s : State) : State :=
  if c == compFirmware then { s with nv := { s.nv with fwRec := f s.nv.fwRec } } else { s with nv := { s.nv with hwRec := f s.nv.hwRec } }

/-- A slot's new state, logged (Table 16-10). -/
def logSlot (c slot : Nat) (x : SlotState) (s : State) : State :=
  logEv 0x0801 sevNotice 15 0 (c + at' slot 8) (slotStateCode x) (updRec c (setSlotState slot x) s)

/-- A slot that is BAD from now on sets UPDATE_FAIL (R399). -/
def badSlot (c slot : Nat) (s : State) : State := setAlert alertUpdateFail (logSlot c slot .bad s)

/-- A slot may be tried: it holds an image and is not BAD. -/
def slotTriable (s : State) (c slot : Nat) : Bool :=
  match slotState (slotRec s c) slot with
  | .staged | .trial | .committed => true
  | .empty | .bad => false

/-- Whether this is the third boot of a TRIAL slot (R399). -/
def thirdBoot (s : State) (c slot : Nat) : Bool := slotState (slotRec s c) slot == .trial && 2 ≤ (slotRec s c).trialBoots

/-- A stage failed by a slot's image: logged, and a TRIAL or STAGED slot goes BAD. -/
def slotFails (c slot step cause : Nat) (s : State) : State :=
  let x := slotState (slotRec s c) slot
  let s := bootFail step cause s
  if x == .trial || x == .staged then badSlot c slot s else s

/-- A slot booted: a STAGED slot becomes TRIAL, whose boots are counted. -/
def slotBoots (c slot : Nat) (s : State) : State :=
  match slotState (slotRec s c) slot with
  | .staged => updRec c (fun r => { r with trialBoots := 1 }) (logSlot c slot .trial s)
  | .trial => updRec c (fun r => { r with trialBoots := r.trialBoots + 1 }) s
  | _ => s

/-! ## Stage 1 (R346, R347) -/

/-- A vendor key pair under which both signatures verify (R343). -/
def vendorSigned (s : State) (f : Firmware) : Bool :=
  (s.nv.fuses.vendorKeys.zip s.nv.fuses.vendorRevoke).any (fun k => k.1 != 0 && !k.2 && f.rsaKeys.contains k.1 && f.slhKeys.contains k.1)

/-- The cause with which a firmware image fails stage 1 (Table 15-10). -/
def firmwareCause (s : State) (f : Firmware) : Option Nat :=
  if !vendorSigned s f then some 8
  else if f.svn < s.nv.fuses.fwSvn || 64 < f.svn then some 9
  else none

def fwImage (s : State) (slot : Nat) : Option Firmware := if slot == 0 then s.nv.fwA else s.nv.fwB

/-- Stage 1 on one slot: whether it booted, and the state. -/
def tryFirmware (slot : Nat) (s : State) : Bool × State :=
  match fwImage s slot with
  | none => (false, s)
  | some f =>
    if !slotTriable s compFirmware slot then (false, s)
    else if thirdBoot s compFirmware slot then (false, badSlot compFirmware slot s)
    else match firmwareCause s f with
      | some c => (false, slotFails compFirmware slot 2 c s)
      | none =>
        let s := slotBoots compFirmware slot s
        (true, { s with boot := { s.boot with firmware := f, fwSlot := slot } })

/-- The slot NEXT names, then the other (R396). -/
def trySlots (c : Nat) (try_ : Nat → State → Bool × State) (s : State) : Bool × State :=
  let n := (slotRec s c).next
  match try_ n s with
  | (true, s) => (true, s)
  | (false, s) => try_ (1 - n) s

/-- FIRMWARE_CHECK (R346): stage 1; with neither slot, ROM recovery. -/
def firmwareCheck (s : State) : State :=
  if s.boot.phase != .awaiting 2 then s
  else match trySlots compFirmware tryFirmware s with
    | (true, s) => await 3 (bootStep 2 s)
    | (false, s) => { s with boot := { s.boot with phase := .romRecovery } }

/-- FIRMWARE_CHECK (R346). -/
def execFirmwareCheck (s : State) : Host.Outcome State Fault Refusal := .next (firmwareCheck s)

/-! ## Step 3 (R358, R418) -/

/-- A round of eight samples that agree. -/
def roundValue (l : List (BitVec 8)) : Option (BitVec 8) :=
  match l with
  | x :: t => if t.length == 7 && t.all (· == x) then some x else none
  | [] => none

/-- Board test mode (R418): main rails up, die in test hold, steps 4 and 6 skipped. -/
def enterBoardTest (s : State) : State :=
  let s := logEv 0x0106 sevNotice 15 0 0 0 s
  { s with boot := { s.boot with phase := .boardTest, testStrap := true }, pins := { s.pins with mainRails := true } }

/-- STRAP_SAMPLING (R358): up to four rounds of eight samples; TEST_MODE# is sampled with them. -/
def strapSampling (rounds : List (List (BitVec 8))) (testModeLow : Bool) (s : State) : State :=
  if s.boot.phase != .awaiting 3 then s
  else match (rounds.take 4).findSome? roundValue with
    | none => stopInReset (bootFail 3 1 s)
    | some v =>
      let s := logEv 0x0104 sevInfo 15 0 v.toNat 0 { s with boot := { s.boot with rackPos := v.toNat, testStrap := false } }
      let s := bootStep 3 s
      if testModeLow then enterBoardTest s else await 4 s

/-- STRAP_SAMPLING (R358). -/
def execStrapSampling (rounds : List (List (BitVec 8))) (testModeLow : Bool) (s : State) : Host.Outcome State Fault Refusal :=
  .next (strapSampling rounds testModeLow s)

/-! ## Stage 2 (R346, R359, R364) -/

/-- The cause with which a headwater image fails stage 2 (Table 15-10), in the order in which its parts are read. -/
def headwaterCause (s : State) (h : Headwater) : Option Nat :=
  if !headerOk h || h.deviceId != deviceId s then some 13
  else if !operatorSigned s h.rsaKeys h.slhKeys then some 10
  else if h.svn < s.nv.fuses.hwSvn || 64 < h.svn then some 11
  else if h.rackCheck && h.rackPos != s.boot.rackPos then some 12
  else if (contentRule s h).isSome then some 7
  else none

def hwImage (s : State) (slot : Nat) : Option Headwater := if slot == 0 then s.nv.hwA else s.nv.hwB

/-- Stage 2 on one slot: whether it booted, and the state. The first rule broken is kept with a CONTENT failure (R364). -/
def tryHeadwater (slot : Nat) (s : State) : Bool × State :=
  match hwImage s slot with
  | none => (false, s)
  | some h =>
    if !slotTriable s compHeadwater slot then (false, s)
    else if thirdBoot s compHeadwater slot then (false, badSlot compHeadwater slot s)
    else match headwaterCause s h with
      | some c =>
        let rule := if c == 7 then (contentRule s h).getD 0 else s.boot.contentRule
        (false, slotFails compHeadwater slot 4 c { s with boot := { s.boot with contentRule := rule } })
      | none =>
        let s := slotBoots compHeadwater slot s
        (true, { s with hw := h, boot := { s.boot with hwSlot := slot }, keeper := { s.keeper with limitW := h.settings.limitW } })

/-- HEADWATER_CHECK (R346): stage 2. Without an operator key nothing is loaded (R345). The main rails are up on a warm boot, which
skips step 5 (R357). -/
def headwaterCheck (s : State) : State :=
  if s.boot.phase != .awaiting 4 then s
  else if s.nv.fuses.opKeys.all (· == 0) then { s with boot := { s.boot with phase := .noOperator } }
  else match trySlots compHeadwater tryHeadwater s with
    | (true, s) => await (if s.boot.warm then 6 else 5) (bootStep 4 s)
    | (false, s) => stopInReset s

/-- HEADWATER_CHECK (R346). -/
def execHeadwaterCheck (s : State) : Host.Outcome State Fault Refusal := .next (headwaterCheck s)

/-! ## Step 5 (R370) -/

/-- The main rails good. -/
def railsUp (s : State) : State := await 6 (bootStep 5 { s with pins := { s.pins with mainRails := true } })

/-- MAIN_RAILS_UP (R356): a rail that is not good turns them off for one retry. -/
def execMainRailsUp (good : Bool) (s : State) : Host.Outcome State Fault Refusal :=
  .next (if s.boot.phase != .awaiting 5 then s
    else if good then railsUp s
    else { s with boot := { s.boot with phase := .railRetry }, pins := { s.pins with mainRails := false } })

/-- RAIL_RETRY (R370): once, 1 s later; then the boot stops with RAIL. -/
def execRailRetry (good : Bool) (s : State) : Host.Outcome State Fault Refusal :=
  .next (if s.boot.phase != .railRetry then s
    else if good then railsUp s
    else stopInReset (bootFail 5 2 { s with pins := { s.pins with mainRails := false } }))

/-! ## Stage 3: partition keys (R335 to R341, R355) -/

/-- The partitions of the composition: the device's, and one for each frame pool that extents lie in (R335). -/
def partitions (s : State) : List Nat := insertAll (s.hw.slice.extents.map (extentPool s)) [0]

/-- Serials that may not be issued: those in use, and those whose sweep has not ended (R340). -/
def serialsTaken (s : State) : List Nat := s.boot.keys.map (·.2) ++ s.nv.sweeping

/-- The first of n 16-bit serials from k on that is free; 0 is not issued. -/
def freeSerialFrom (taken : List Nat) : Nat → Nat → Option Nat
  | _, 0 => none
  | k, n + 1 =>
    let k := if k % 65536 == 0 then 1 else k % 65536
    if taken.contains k then freeSerialFrom taken (k + 1) n else some k

def freeSerial (s : State) : Option Nat := freeSerialFrom (serialsTaken s) s.nv.nextSerial (min 65535 ((serialsTaken s).length + 1))

/-- A key generated for a partition (R335), or the partition left uncreated where no serial is free (R340). -/
def createKey (s : State) (p : Nat) : State :=
  match freeSerial s with
  | some k =>
    logEv 0x0701 sevNotice 15 0 0 k { s with
      boot := { s.boot with keys := Tbl.put s.boot.keys p k, keyBits := Tbl.put s.boot.keyBits p (Config.partitionKey s.freeCtr) }
      nv := { s.nv with nextSerial := k + 1 }, freeCtr := s.freeCtr + 1 }
  | none => logEv 0x0704 sevFault 15 0 1 p { s with boot := { s.boot with uncreated := insertNat p s.boot.uncreated } }

/-- A key destroyed: its serial enters the sweep (R340). -/
def destroyKey (s : State) (p : Nat) : State :=
  match Tbl.find s.boot.keys p with
  | some k =>
    logEv 0x0701 sevNotice 15 0 1 k { s with
      boot := { s.boot with keys := Tbl.del s.boot.keys p, keyBits := Tbl.del s.boot.keyBits p }, nv := { s.nv with sweeping := s.nv.sweeping ++ [k] } }
  | none => s

/-- Both copies of the blob rewritten with the keys in the slots (R339). -/
def writeBlobs (s : State) : State :=
  let n := (max s.nv.blobA.writeCount s.nv.blobB.writeCount + 1) % 2 ^ 64
  let b : Blob := { writeCount := n, keys := s.boot.keys, bits := s.boot.keyBits, good := true }
  { s with nv := { s.nv with blobA := b, blobB := b } }

/-- Keys of partitions that the composition does not name are destroyed (Table 14-2). -/
def destroyRemoved (s : State) : State :=
  let gone := (s.boot.keys.map (·.1)).filter (fun p => !(partitions s).contains p)
  if gone.isEmpty then s else writeBlobs (gone.foldl destroyKey s)

/-- Keys of partitions that have none are created (Table 14-2). -/
def createMissing (s : State) : State :=
  let need := (partitions s).filter (fun p => (Tbl.find s.boot.keys p).isNone)
  if need.isEmpty then s else writeBlobs (need.foldl createKey s)

/-- The copy with the higher write count whose unwrap verifies (R341). -/
def goodBlob (s : State) : Option Blob :=
  let a := s.nv.blobA
  let b := s.nv.blobB
  if b.good && (!a.good || a.writeCount < b.writeCount) then some b else if a.good then some a else none

/-- SANITIZE performed (R355): every partition key is destroyed, the device key among them. -/
def sanitizeKeys (s : State) : State :=
  let s := { s with nv := { s.nv with sanitize := false } }
  let old := (goodBlob s).getD s.nv.blobA
  (old.keys.map (·.1)).foldl destroyKey { s with boot := { s.boot with keys := old.keys, keyBits := old.bits } }

/-- KEY_UNWRAP (R341): the blob unwrapped, and keys created or destroyed as Table 14-2 orders; where a flush is to be restored, keys are
destroyed after it. With neither copy good the node boots into ISLAND. -/
def keyUnwrap (s : State) : State :=
  if s.boot.phase != .awaiting 6 then s
  else
    let s := { s with boot := { s.boot with keys := [], keyBits := [], uncreated := [] } }
    let s := if s.nv.sanitize then writeBlobs (createMissing (sanitizeKeys s))
      else match goodBlob s with
        | some b =>
          let s := createMissing { s with boot := { s.boot with keys := b.keys, keyBits := b.bits } }
          if s.nv.reserve.present && !s.nv.reserve.committed then s else destroyRemoved s
        | none =>
          let dev := s.nv.blobA.keys.filter (fun k => k.1 == 0)
          logEv 0x0704 sevFault 15 0 0 0 { s with boot := { s.boot with keys := dev, keyBits := s.nv.blobA.bits.filter (fun k => k.1 == 0), cause := 6 }, map := { s.map with lostKeys := true } }
    await 7 (bootStep 6 s)

/-- KEY_UNWRAP (R341). -/
def execKeyUnwrap (s : State) : Host.Outcome State Fault Refusal := .next (keyUnwrap s)

/-! ## Step 7 (R47, R337, R356, R403) -/

/-- Stage 4: the generation against the record of the last AGREED composition (R47). -/
def generationCheck (s : State) : State :=
  match s.nv.genRecord with
  | none => logEv 0x0205 sevWarning 15 0 s.hw.compGen 0 s
  | some g => match serCmp 16 s.hw.compGen g with
    | .same | .newer => s
    | .older | .far =>
      logEv 0x0202 sevFault 15 0 s.hw.compGen g { s with boot := { s.boot with cause := 5 }, map := { s.map with genFault := true } }

/-- R203: a set held as a mirror is promoted: its last mark and whether a resync was incomplete are logged. -/
def promote (m : MirrorSetting) (s : State) : State :=
  match Tbl.find s.nv.mirrorSeen m.setId with
  | none => s
  | some (batch, incomplete) =>
    logEv 0x0207 sevNotice 15 0 m.setId (mirrorIdle + at' (b2n incomplete) 5 + at' batch 32)
      { s with nv := { s.nv with mirrorSeen := Tbl.del s.nv.mirrorSeen m.setId } }

/-- The mirror settings of the image: which sets the node holds as primary. One that it held as a mirror before is promoted. -/
def initMirrors (s : State) : State :=
  s.hw.mirrors.foldl (fun s m =>
    let primary := match findSet s.hw.slice m.setId with
      | some x => x.primary
      | none => false
    let s := if primary then promote m s else s
    let s := { s with sluice := { s.sluice with mirrors := Tbl.put s.sluice.mirrors m.index { primary } } }
    if primary || (Tbl.find s.nv.mirrorSeen m.setId).isSome then s
    else { s with nv := { s.nv with mirrorSeen := Tbl.put s.nv.mirrorSeen m.setId (0, false) } }) s

/-- DIE_RELEASE (R356): what the die held was cleared when it entered reset; the weir starts with the full table, the run phase begins,
every domain is JOINING, the ports train. -/
def dieRelease (s : State) : State :=
  if s.boot.phase != .awaiting 7 then s
  else
    let s := { s with
      boot := { s.boot with phase := .released, memAwait := 8 }
      pins := { s.pins with dieReset := false, braidRun := true, serdes := true }
      map := { s.map with pool := [s.node] }
      hosts := Tbl.mapVal (fun (h : HostSt) => { h with training := !h.perst, infoValid := true }) s.hosts }
    let s := generationCheck (initMirrors (recompute s))
    let s := if forcedIsland s then mapTo .island s else s
    bootStep 7 s

/-- DIE_RELEASE (R356). -/
def execDieRelease (s : State) : Host.Outcome State Fault Refusal := .next (dieRelease s)

/-- BRAID_RUN_SETTLE (R403): 1 µs after die release. -/
def execBraidRunSettle (s : State) : Host.Outcome State Fault Refusal :=
  .next (if s.pins.braidRun then { s with pins := { s.pins with alertDriven := true, inputsOn := true } } else s)

/-! ## READY (R368) -/

/-- Whether the boot waits for a step of the memory chain. -/
def memStep (s : State) (n : Nat) : Bool := s.boot.phase == .released && s.boot.memAwait == n

/-- READY: hosts see Memory_Active, cap windows run, what braced the node during boot braces it, and keys whose destruction waited for
the restore are destroyed. -/
def goReady (s : State) : State :=
  let s := destroyRemoved s
  let s := { s with boot := { s.boot with ready := true, memAwait := 0 }, keeper := { s.keeper with windows := true, calm := 0 }
                    hosts := Tbl.mapVal (fun (h : HostSt) => { h with memActive := h.trained && h.cxl }) s.hosts }
  braceAtReady (bootStep 12 s)

/-! ## Step 8 (R365) -/

/-- DRAM_TRAINING (R365): a warm boot checks the saved parameters and trains afresh where they fail (R357). The retired rows' frames
are retired again (R76). -/
def dramTraining (failed : Option (Fin 8 × Fin 64)) (savedGood : Bool) (s : State) : State :=
  if !memStep s 8 then s
  else
    let loaded := s.boot.warm && s.nv.trained && savedGood
    match (if loaded then none else failed) with
    | some c => bootFailed 8 3 { s with boot := { s.boot with badChannel := some (c.1.val, c.2.val) } }
    | none =>
      let s := { s with boot := { s.boot with memAwait := 9 }
                        nv := { s.nv with trained := s.nv.trained || !s.boot.warm }
                        store := { s.store with retired := insertAll (s.nv.retiredRows.flatMap (·.2)) s.store.retired } }
      bootStep 8 s

/-- DRAM_TRAINING (R365). -/
def execDramTraining (failed : Option (Fin 8 × Fin 64)) (savedGood : Bool) (s : State) : Host.Outcome State Fault Refusal :=
  .next (dramTraining failed savedGood s)

/-! ## Step 9 (R366, R338) -/

/-- What backed space reads as from flash: units of the partition's serial deciphered, others as zero (R336, R338). -/
def flashView (s : State) : State :=
  let units := (s.nv.flashSerial.map (·.1)).filter (unitCurrent s)
  units.foldl (fun s u => putUnit u (plainUnit s s.nv.flash u) s)
    { s with store := { s.store with mem := [], poison := s.nv.flashPoison.filter (fun l => unitCurrent s (l / 64)), tier := [] } }

/-- Tier pages of the extents of a sharing set on this node. -/
def setPages (s : State) (id : Nat) : List Nat :=
  ((s.hw.slice.extents.filter (fun e => e.owner == .set id)).flatMap (fun e => pagesOf e.start (4096 * e.units))).eraseDups

/-- Mirror bits saved at shutdown reloaded; without them, and in a set promoted since, every page of the set is marked, and its first shipment is
a full resync (R366, R203). -/
def reloadMirrors (s : State) : State :=
  let saved := s.nv.mirrorBits
  let s := { s with nv := { s.nv with mirrorBits := none } }
  s.hw.mirrors.foldl (fun s m =>
    let kept := saved.bind (fun t => Tbl.find t m.setId)
    let bits := kept.getD (insertAll (setPages s m.setId) [])
    { s with sluice := { s.sluice with mirrors := Tbl.upd {} s.sluice.mirrors m.index (fun x => if x.primary then { x with bits, full := kept.isNone } else x) } }) s

/-- A bit of the durable page map is cleared where the composition leaves the page in no extent (R79). -/
def pruneDurMap (s : State) : State :=
  let inSome := fun p => s.hw.slice.extents.any (fun e => e.start < (p + 1) * 65536 && p * 65536 < extentEnd e)
  { s with nv := { s.nv with durMap := s.nv.durMap.filter inSome } }

/-- The units of a reserve that can be read back: those of its manifest that it holds. -/
def heldUnits (r : Reserve) : List Nat := if r.complete then r.manifest.filter (fun u => r.units.contains u) else []

/-- The restore of each of them is device work for the maintenance slots and the flash gate (R21, R25, R115). -/
def askRestore (s : State) : State :=
  (heldUnits s.nv.reserve).foldl (fun s u => maintain (homeRace s (u * 4096)) (.restore u) s) s

/-- FLASH_SCAN (R366): rebuilt dies are logged as (channel, die, units). A reserve that was not restored goes on to step 10, one whose
erase was cut short is erased again. -/
def flashScan (mapGood : Bool) (rebuilt : List (Fin 32 × Nat × Nat)) (s : State) : State :=
  if !memStep s 9 then s
  else if !mapGood then bootFailed 9 4 s
  else
    let s := rebuilt.foldl (fun s r => logEv 0x0505 sevWarning 15 0 (r.1.val + at' r.2.1 8) r.2.2 s) s
    let s := bootStep 9 (pruneDurMap (reloadMirrors (flashView s)))
    let r := s.nv.reserve
    if r.present && !r.committed then askRestore { s with boot := { s.boot with memAwait := 10 } }
    else goReady { s with boot := { s.boot with erasing := r.present } }

/-- FLASH_SCAN (R366). -/
def execFlashScan (mapGood : Bool) (rebuilt : List (Fin 32 × Nat × Nat)) (s : State) : Host.Outcome State Fault Refusal :=
  .next (flashScan mapGood rebuilt s)

/-! ## Step 10 (R88, R90, R147) -/

/-- A unit of the manifest written into its page, with the poison it was flushed with (R75, R90); one that was flushed under another key
than its partition has now reads as zero (R338). -/
def restoreUnit (s : State) (u : Nat) : State :=
  let r := s.nv.reserve
  let lo := u * 4096
  let poison := insertAll (r.dataPoison.filter (fun l => l / 64 == u)) (s.store.poison.filter (fun l => l / 64 != u))
  let ours := Tbl.find r.serials u == Tbl.find s.boot.keys (poolOf s lo)
  writeBackUnit u (putUnit u (if ours then plainUnit s r.data u else []) { s with store := { s.store with mem := s.store.mem.zero lo (lo + 4096), poison } })

/-- A unit lost: every line poisoned, in flash too (R88). -/
def poisonUnit (s : State) (u : Nat) : State := writeBackUnit u (poisonLines (rangeFrom (u * 64) 64) s)

/-- Units of every extent owned by, or shared with, a party whose DURABLE_SHARE is above 0 (R88). -/
def sharedUnits (s : State) : List Nat :=
  let durable := fun (p : Pair) => match localParty s p with
    | some q => q < 8 && 0 < (partyRec s q).shareGib
    | none => false
  ((s.hw.slice.extents.filter (fun e => (extentMembers s.hw.slice e).any durable)).flatMap (fun e => unitsOf e.start (4096 * e.units))).eraseDups

/-- The units that a restore poisons, and what ARG1 of RESTORE_POISON says of it. -/
def lostUnits (r : Reserve) (badUnits : List Nat) (mapReadable : Bool) (s : State) : List Nat × Nat :=
  if r.complete then (r.manifest.filter (fun u => !r.units.contains u || badUnits.contains u), 0)
  else if mapReadable then (s.nv.durMap.flatMap (fun p => rangeFrom (p * 16) 16), 1)
  else (sharedUnits s, 2)

/-- The restore's device work is over. -/
def dropRestores (s : State) : State := (heldUnits s.nv.reserve).foldl (fun s u => dropFlash (.restore u) s) s

/-- SPATE_RESTORE (R90): the manifest units, each admitted and granted the flash gate, written back, lost ones poisoned, the poison list applied,
and the erase begun. Without its manifest the node is an ISLAND until the fault is cleared (R88; log entry 67). -/
def spateRestore (badUnits : List Nat) (mapReadable : Bool) (s : State) : State :=
  if !memStep s 10 || !(heldUnits s.nv.reserve).all (fun u => isOn s (.restore u)) then s
  else
    let r := s.nv.reserve
    let s := dropRestores s
    let (lost, how) := lostUnits r badUnits mapReadable s
    let good := (heldUnits r).filter (fun u => !badUnits.contains u)
    let s := lost.foldl poisonUnit (good.foldl restoreUnit s)
    let s := poisonLines r.poisonList s
    let s := { s with nv := { s.nv with reserve := { present := true, committed := true }
                                        flashPoison := insertAll r.poisonList s.nv.flashPoison }
                      boot := { s.boot with restored := true, erasing := true, restorePoison := lost.length } }
    let s := if lost.isEmpty && how == 0 then s else logEv 0x0503 sevWarning 15 0 lost.length how s
    let s := if 1 ≤ how then mapTo .island { s with nv := { s.nv with manifestLost := true } } else s
    goReady (bootStep 10 s)

/-- SPATE_RESTORE (R90). -/
def execSpateRestore (badUnits : List Nat) (mapReadable : Bool) (s : State) : Host.Outcome State Fault Refusal :=
  .next (spateRestore badUnits mapReadable s)

/-- RESERVE_ERASE_COMPLETE (R90): the parties leave write-through. -/
def execReserveEraseComplete (s : State) : Host.Outcome State Fault Refusal :=
  .next (if s.boot.erasing then { s with boot := { s.boot with erasing := false }, nv := { s.nv with reserve := {} } } else s)

/-! ## Step 11 (R367, R368) -/

/-- The links of valid ports. -/
def portedLinks (s : State) : List Nat := (s.hw.ports.flatMap portLinks)

/-- Step 11 ends when every link has trained or failed once; agreement then starts (R368). -/
def checkLinksDone (s : State) : State :=
  if s.boot.linksDone || !(portedLinks s).all (fun l => s.boot.linksTried.contains l) then s
  else startAgreement (bootStep 11 { s with boot := { s.boot with linksDone := true } })

/-- LINK_TRAINING (R367): a link that passes PRBS31 and the flit pattern goes on to its hello flit; another is retried every 1 s. -/
def linkTraining (l : Nat) (mated prbsGood flitGood : Bool) (s : State) : State :=
  if s.boot.phase != .released || !s.pins.serdes || (portOf s l).isNone || s.boot.linksTried.contains l then s
  else
    let s := { s with boot := { s.boot with linksTried := insertNat l s.boot.linksTried } }
    let s := if mated && prbsGood && flitGood then linkTrained l s else updLink l (fun k => { k with retryDue := true }) s
    checkLinksDone s

/-- LINK_TRAINING (R367). -/
def execLinkTraining (link : Fin 32) (mated prbsGood flitGood : Bool) (s : State) : Host.Outcome State Fault Refusal :=
  .next (linkTraining link mated prbsGood flitGood s)

/-- LINK_TRAIN_RETRY (R367). -/
def execLinkTrainRetry (link : Fin 32) (mated prbsGood flitGood : Bool) (s : State) : Host.Outcome State Fault Refusal :=
  .next (if s.boot.phase == .released && s.pins.serdes && (s.link link).retryDue && mated && prbsGood && flitGood then linkTrained link s else s)

end Sys2Proof.Machine
end

