-- ==== Sys2Proof/Machine/Weir.lean ====
section
/-!
DEFINITION. The weir (R20, R21, R114 to R117): one slot, and what comes into force at a period boundary.
-/
namespace Sys2Proof.Machine

open Sys2Proof

/-! ## One slot (R114, R115, R116) -/

/-- A power flush admits no more requests of ports and mills, combined ones and those of class mill among them, and hosts are held (R85
step 1). -/
def admits (s : State) (q : QEntry) : Bool :=
  s.flush.kind != .power || (q.tclass != .mill && (match q.req.src with
    | .port .. | .mill _ | .host _ | .combo _ => false
    | _ => true))

/-- The entries of a queue of a race, in its order. -/
def queueOf (s : State) (race : Nat) (p : PairSlot) : List QEntry :=
  s.weir.queue.filter (fun q => q.race == race && q.party == p.party && q.tclass == p.tclass && !q.crossing && admits s q)

/-- The party on whose frames device work is done; 15 for the spate flush (R25, R64). -/
def workParty (s : State) : FlashWork → Nat
  | .fill p | .move p => poolParty s (pagePool s p)
  | .program u | .clean u => poolParty s (pagePool s (u / 16))
  | .ship _ p => poolParty s (pagePool s p)
  | .restore u => poolParty s (pagePool s (u / 16))
  | .manifest | .spate _ | .scrub => 15

/-- Whether device work can be admitted now: a page of a mirror batch ships once it is not MOVING. -/
def workReady (s : State) : FlashWork → Bool
  | .ship _ p => (tierOf s p).state != .moving
  | _ => true

/-- Device work that a slot naming a pair admits in a race: in a maintenance slot of party 15 any, in one of another party that on its own
frames (R25, R64). The patrol read is always there to be done, in slots of party 15 alone (R76, Table 04-13). -/
def deviceWork (s : State) (race : Nat) (p : PairSlot) : List (Nat × FlashWork) :=
  if p.tclass != .maintenance then []
  else s.weir.maint.filter (fun w => w.1 == race && workReady s w.2 && (p.party == 15 || workParty s w.2 == p.party))
    ++ (if p.party == 15 && !s.weir.flashOn.contains (race, .scrub) then [(race, .scrub)] else [])

/-- The pair a race serves in a slot: the one named; in an open table, when nothing of it waits, the first of the overflow rotation of
which something does (R116). -/
def servedPair (s : State) (t : WeirTable) (slot : WeirSlot) (race : Nat) : PairSlot :=
  let waits := fun (p : PairSlot) => !(queueOf s race p).isEmpty || !(deviceWork s race p).isEmpty
  let named := slot.race race
  if waits named || !t.isOpen then named else ((t.ovf slot.ovfSel).find? waits).getD named

/-- The requests a race admits in a slot: up to eight from the head of the queue it serves. -/
def served (s : State) (t : WeirTable) (slot : WeirSlot) (race : Nat) : List QEntry :=
  (queueOf s race (servedPair s t slot race)).take 8

/-- The place of a request among those admitted in one cycle: by port number, hosts and the engine after the link ports, mills last (R34;
log entry 63). -/
def cycleOrder (r : Req) : Nat :=
  match r.src with
  | .port p _ => p
  | .host p => 10 + p
  | .mill _ => 13
  | _ => 12

/-- Requests admitted in one cycle in the order of R34. -/
def inCycleOrder (qs : List QEntry) : List QEntry := (List.range 14).flatMap (fun k => qs.filter (fun q => cycleOrder q.req == k))

/-- A DURABLE write that this home admits sets its pages' bits in the durable page map (R79). -/
def noteDurable (r : Req) (s : State) : State :=
  let off := addrOffset r.addr
  if r.durable && isWriteOp r.op && (spaceCheck s r.origin r.op r.cls off r.len).isNone then setDurMap off r.len s else s

/-! ## Requests that teardown withdraws (R49) -/

/-- At least the same permissions. -/
def permAtLeast (new old : Extent) : Bool :=
  (!old.permRead || new.permRead) && (!old.permWrite || new.permWrite) && (!old.permAtomic || new.permAtomic)

/-- The same owner, or the same sharing set: of the same number and with the same record (log entry 67). -/
def sameOwner (now staged : Slice) (a b : Owner) : Bool :=
  a == b && (match a with
    | .set id => findSet now id == findSet staged id
    | .single _ => true)

/-- R49 step 3: the target extent stands in the staged slice with the same owner, class and at least the same permissions. A request
with no target extent here is performed as it would be otherwise. -/
def targetKept (s : State) (r : Req) : Bool :=
  if addrNode r.addr != s.node || addrSpace r.addr != 0 then true
  else
    let off := addrOffset r.addr
    match findExtent s.hw.slice off r.len with
    | none => true
    | some e => match findExtent s.map.staged off r.len with
      | some n => sameOwner s.hw.slice s.map.staged e.owner n.owner && n.cls == e.cls && permAtLeast n e
      | none => false

/-- The transfer or job that a request belongs to. -/
def jobOfReq (s : State) (r : Req) : Option (Nat × Nat) :=
  match r.src with
  | .rill k i _ => some (k, i)
  | .mill m => (millOf s m).job
  | _ => none

/-- A running descriptor that teardown cuts (R272, R294). -/
def withdrawJob (k i : Nat) (s : State) : State :=
  let s := { s with rill := { s.rill with jobs := s.rill.jobs.map (fun j => if j.rill == k && j.index == i then { j with withdrawn := true } else j) } }
  eddyFlush (fun x _ => !x.course && x.rill == k && x.index == i) s

/-- A request withdrawn: it completes with WITHDRAWN and nothing is performed; blocks of its transfer are flushed (R272). -/
def withdraw (s : State) (r : Req) : State :=
  let s := match jobOfReq s r, r.src with
    | some (k, i), _ => withdrawJob k i s
    | none, .course _ id _ => eddyFlush (fun x _ => x.course && x.index == id) s
    | none, _ => s
  complete r .withdrawn [] s

/-- One request admitted: its credit returns and it enters the pipeline, counted for its page (R68); a write overtakes the provisional
reads of its lines (R136); a request to a fenced extent of this node completes with DOMAIN_DOWN instead (R141), and one that comes to its
admission during teardown for an extent that is not kept is withdrawn (R49). -/
def admitOne (s : State) (q : QEntry) : State :=
  let s := { s with weir := { s.weir with queue := s.weir.queue.erase q } }
  let r := q.req
  let mem := isHome s r && addrSpace r.addr == 0
  if s.map.teardown && !targetKept s r then withdraw s r
  else if mem && fencedAt s (addrOffset r.addr) && hasResponse r.op then complete r .domainDown [] s
  else
    let s := if mem then noteDurable r (countAccess (tierPage (addrOffset r.addr)) r.party s) else s
    let s := if mem && isWriteOp r.op then touchLines (addrOffset r.addr) r.len s else s
    { s with weir := { s.weir with pipe := s.weir.pipe ++ [r] } }

/-- Whether device work touches flash; a clean page is dropped without a write (R71). -/
def usesFlash (s : State) : FlashWork → Bool
  | .move p => (s.store.moves.find? (fun m => m.page == p)).any (fun m => m.dest == .flash) && !(tierOf s p).dirty.isEmpty
  | .ship _ p => (tierOf s p).state == .flash
  | .scrub => false
  | _ => true

/-- Device work admitted: it waits for the flash gate where it touches flash, and is under way otherwise. -/
def admitWork (s : State) (w : Nat × FlashWork) : State :=
  let s := { s with weir := { s.weir with maint := s.weir.maint.erase w } }
  if usesFlash s w.2 then { s with weir := { s.weir with flashQ := s.weir.flashQ ++ [w] } }
  else match w.2 with
    | .ship i p => shipNow i p s
    | _ => { s with weir := { s.weir with flashOn := s.weir.flashOn ++ [w] } }

/-- The admission stage of a race: up to eight requests, and device work for what is left of the eight. -/
def admitRace (t : WeirTable) (slot : WeirSlot) (s : State) (race : Nat) : State :=
  let rs := served s t slot race
  let ws := (deviceWork s race (servedPair s t slot race)).take (8 - rs.length)
  ws.foldl admitWork ((inCycleOrder rs).foldl admitOne s)

/-- Each fabric core output grants the first requesting input in ORDER of its rotation, of the owner's traffic only where the output is
owned (R20, R114): the request enters its home queue in this cycle, and what waited behind a combined one directly after it (R186). -/
def grantRace (t : WeirTable) (slot : WeirSlot) (s : State) (race : Nat) : State :=
  let row := nth {} (nth [] t.xbar slot.xbarSel) race
  let asks := s.weir.queue.filter (fun q => q.crossing && q.race == race && (!row.owned || q.party == row.owner))
  match row.order.findSome? (fun st => asks.find? (fun q => q.station == st)) with
  | some q =>
    let here := { q with crossing := false, entered := s.weir.cycle, behind := [] }
    { s with weir := { s.weir with queue := queueWith here (q.behind.map (entryBehind here)) (s.weir.queue.erase q) } }
  | none => s

/-- A unit written back that is durable-dirty or, in a shutdown, dirty: there it is counted (R80, R379, Table 16-10). -/
def cleanNow (u : Nat) (s : State) : State :=
  let dirty := (tierOf s (u / 16)).dirty.contains (u % 16)
  if !(Tbl.find s.store.charged u).isSome && !(s.keeper.written.isSome && dirty) then s
  else
    let s := cleanUnit u s
    { s with keeper := { s.keeper with written := s.keeper.written.map (· + b2n dirty) } }

/-- Work that the flash gate has granted: a write-back is done with its grant (R80; log entry 63), the rest is under way. -/
def grantWork (w : Nat × FlashWork) (s : State) : State :=
  match w.2 with
  | .clean u => cleanNow u s
  | .ship i p => shipNow i p s
  | _ => { s with weir := { s.weir with flashOn := s.weir.flashOn ++ [w] } }

/-- The flash gate serves the first waiting work of FLASH_RACE; in a sealed table only that of the party the slot names for the race
(R21, R116). -/
def grantFlash (t : WeirTable) (slot : WeirSlot) (s : State) : State :=
  if !slot.flashEn then s
  else
    let named := (slot.race slot.flashRace).party
    match s.weir.flashQ.find? (fun w => w.1 == slot.flashRace && (t.isOpen || workParty s w.2 == named)) with
    | some w => grantWork w { s with weir := { s.weir with flashQ := s.weir.flashQ.erase w } }
    | none => s

/-- WEIR_SLOT (R114): the slot of the core cycle, in every race, and the next cycle. -/
def weirSlot (s : State) : State :=
  if s.pins.dieReset then s
  else
    let k := s.weir.cycle % 8192
    let s := match weirTable s s.weir.kind with
      | none => s
      | some t =>
        let slot : WeirSlot := nth {} t.slots k
        let s := (List.range 8).foldl (admitRace t slot) s
        let s := (List.range 8).foldl (grantRace t slot) s
        wakeStalled (grantFlash t slot s)
    { s with weir := { s.weir with cycle := s.weir.cycle + 1 } }

/-- WEIR_SLOT (R114). -/
def execWeirSlot (s : State) : Host.Outcome State Fault Refusal := .next (pump (weirSlot s))

/-! ## The period boundary -/

/-- A selected table comes into force at slot 0; while the spate table is in force every selection is ignored until the flush has ended
(R117). -/
def switchTable (s : State) : State :=
  match s.weir.selected with
  | none => s
  | some k =>
    let s := { s with weir := { s.weir with selected := none } }
    if s.flush.kind != .none || (weirTable s k).isNone then s else { s with weir := { s.weir with kind := k } }

/-- BATCH_PERIOD boundaries of the mirror sets held as primary (R199). -/
def mirrorPeriods (s : State) : State :=
  s.hw.mirrors.foldl (fun s m => updMirror m.index (fun x =>
    if m.batchPeriod ≤ x.periods + 1 then { x with periods := 0, due := true } else { x with periods := x.periods + 1, due := false }) s) s

/-- RETIRING slots have seen a period boundary (R261). -/
def slotBoundaries (s : State) : State :=
  let slots := Tbl.mapVal (fun (x : Slot) => if x.state == .retiring then { x with boundary := true } else x) s.shoal.slots
  { s with shoal := { s.shoal with slots } }

/-- The weir's next slot 0. -/
def nextPeriod (cycle : Nat) : Nat := (cycle + 8191) / 8192 * 8192

/-- WEIR_PERIOD_BOUNDARY: slot 0 comes round. The spate selection takes precedence (R84, R117), and checked banks come into force (R58). -/
def weirPeriodBoundary (s : State) : State :=
  if s.pins.dieReset then s
  else
    let s := { s with weir := { s.weir with cycle := nextPeriod s.weir.cycle } }
    let s := switchTable (flushBoundary s)
    let s := (List.range 8).foldl (fun s p => syncInForce p s) s
    mirrorPeriods (slotBoundaries s)

/-- WEIR_PERIOD_BOUNDARY (R117). -/
def execWeirPeriodBoundary (s : State) : Host.Outcome State Fault Refusal := .next (pump (weirPeriodBoundary s))

end Sys2Proof.Machine
end

