-- ==== Sys2Proof/Machine/Teardown.lean ====
section
/-!
DEFINITION. Teardown (R49), the shutdown (R379), and what follows it: off, warm and cold reboots (R378, R383), the shutdown of an alarm
(R387).
-/
namespace Sys2Proof.Machine

open Sys2Proof

/-- Commanded resets, as KeeperSt.reboot holds them. -/
def rebootOff : Nat := 1
def rebootWarm : Nat := 2
def rebootCold : Nat := 3

/-! ## Teardown (R49) -/

/-- The slice that the next boot brings: the image of the slot NEXT names, where that slot may be tried, else the current one. -/
def stagedSlice (s : State) : Slice :=
  let n := s.nv.hwRec.next
  match hwImage s n with
  | some h => if slotTriable s compHeadwater n then h.slice else s.hw.slice
  | none => s.hw.slice

/-- Requests queued and not yet admitted whose target extent is not kept are withdrawn; those whose data is still to come, or that wait in a
combination, are when they come to their admission. -/
def withdrawQueued (s : State) : State :=
  let out := s.weir.queue.filter (fun q => !targetKept s q.req)
  out.foldl (fun s q => withdraw s q.req) { s with weir := { s.weir with queue := s.weir.queue.filter (fun q => targetKept s q.req) } }

/-- TEARDOWN (R49): while a commanded reset waits, new requests are refused and accepted ones are performed or withdrawn. -/
def teardown (s : State) : State :=
  if s.keeper.reboot == 0 || !s.boot.ready then s
  else
    let slice := if s.map.teardown then s.map.staged else stagedSlice s
    withdrawQueued { s with map := { s.map with teardown := true, staged := slice } }

/-- TEARDOWN (R49). -/
def execTeardown (s : State) : Host.Outcome State Fault Refusal := .next (teardown s)

/-! ## Shutdown (R379) -/

/-- A request of a port or a host. -/
def fromOutside (r : Req) : Bool :=
  match r.src with
  | .port _ _ | .host _ => true
  | _ => false

/-- Accepted requests of ports and hosts that are not complete. -/
def acceptedLeft (s : State) : Bool := (allReqs s).any fromOutside

/-- Rills that are not OFF. -/
def rillsOn (s : State) : List Nat := (s.rill.table.filter (fun r => r.2.state != .off)).map (·.1)

/-- Step 3: every domain whose extents the node homes is taken down (R144, R147). -/
def takeDownDomains (s : State) : State :=
  let mine := (s.coh.domains.filter (fun d => (coherentLists s.hw.slice).any (shares d.agents))).map (·.num)
  mine.foldl (fun s d => takedown d (if ((findDomain s d).map (·.state)) == some .up then fallDomain d 8 s else s)) s

/-- Every dirty unit of backed space that is to be written back: a DAMAGED sub-block never is (R275). -/
def dirtyAll (s : State) : List Nat :=
  (s.store.tier.flatMap (fun e => e.2.dirty.map (fun u => e.1 * 16 + u))).filter (fun u => !s.store.damaged.contains (u / 16, u % 16))

/-- Step 4: dirty units are written to flash in maintenance slots, through the flash gate (R21, R25). -/
def askWriteBack (us : List Nat) (s : State) : State :=
  (us.filter (fun u => !(s.weir.maint ++ s.weir.flashQ).any (fun w => w.2 == .clean u))).foldl (fun s u =>
    maintain (homeRace s (u * 4096)) (.clean u) s) s

/-- What is poisoned in DRAM is poisoned in flash from now on (R75). -/
def savePoison (s : State) : State :=
  { s with nv := { s.nv with flashPoison := insertAll s.store.poison s.nv.flashPoison } }

/-- Step 5: the mirror bits of each set held as primary, those of pages that a batch has not seen acknowledged among them.
A set that still owes its full resync saves none, so that it is marked whole again. -/
def saveMirrorBits (s : State) : State :=
  let saved := (s.hw.mirrors.filter (fun m => (mirrorOf s m.index).primary && !(mirrorOf s m.index).full)).map (fun m =>
    let x := mirrorOf s m.index
    (m.setId, insertAll (x.bits ++ (if batchOpen x then pagesUnacked x else [])) []))
  { s with nv := { s.nv with mirrorBits := some saved } }

/-- The cause of a SHUTDOWN entry, and what the reset is (Table 16-10). -/
def afterShutdown (kind : Nat) (s : State) : State :=
  if kind == rebootWarm then warmReset s else if kind == rebootCold then coldReset s else railsOff s

/-- The log written and its open batch sealed before a commanded reset (R383, R395). -/
def closeLog (s : State) : State := sealBatch true s.nv.lossOpen true (logWrite s)

/-- Steps 5 and 6, with every unit written back: mirror bits and the record; then the reset. -/
def endShutdown (s : State) : State :=
  let kind := s.keeper.reboot
  let s := saveMirrorBits (savePoison s)
  let s := logEv 0x0105 sevNotice 15 0 s.keeper.rebootCause (s.keeper.written.getD 0) s
  let s := closeLog { s with nv := { s.nv with orderly := true }, pins := { s.pins with serdes := false } }
  afterShutdown kind s

/-- Steps 3 to 6: domains are taken down, once, and dirty units written back; when none is left the shutdown ends. -/
def finishShutdown (s : State) : State :=
  let s := if s.keeper.written.isSome then s else takeDownDomains { s with keeper := { s.keeper with written := some 0 } }
  let left := dirtyAll s
  if left.isEmpty then endShutdown s else askWriteBack left s

/-- TEARDOWN_COMPLETE (R49, R379): no accepted request remains. Rills that are not OFF receive ABORT; once every rill is OFF the
shutdown goes on to its end, units that are still to be written back holding it up. -/
def teardownComplete (s : State) : State :=
  if !s.map.teardown || acceptedLeft s then s
  else
    let on := rillsOn s
    if on.isEmpty then finishShutdown s else on.foldl (fun s r => abortRill r s) s

/-- TEARDOWN_COMPLETE (R49). -/
def execTeardownComplete (s : State) : Host.Outcome State Fault Refusal := .next (teardownComplete s)

/-! ## Commanded resets -/

/-- A commanded reset begins: in service with the shutdown of R379, elsewhere at once, there being nothing to shut down. -/
def beginReset (kind cause : Nat) (s : State) : State :=
  if s.boot.ready then { s with keeper := { s.keeper with reboot := kind, rebootCause := cause, busy := true, written := none } }
  else afterShutdown kind (closeLog (logEv 0x0105 sevNotice 15 0 cause 0 { s with nv := { s.nv with orderly := true } }))

/-- OFF_INPUT_RETURN (R383): off by SHUTDOWN, the input has fallen below 30 V and returned; off by an alarm, only POWER_ON counts. -/
def execOffInputReturn (s : State) : Host.Outcome State Fault Refusal :=
  .next (if s.boot.phase == .down && !s.boot.byAlarm then coldReset { s with pins := { s.pins with inputGood := true } } else s)

/-- ALARM_SHUTDOWN (R387): FLUSH_DONE is reached or 1.5 s have passed: R383 without its step 1. Every domain homed here is taken
down before the reset, the lines of DURABLE ranges that it poisons listed as in a power flush (R147; log entry 67). A flush that has not
finished is handled at the next boot as one cut short. -/
def alarmShutdown (s : State) : State :=
  if !s.flush.alarmOff then s
  else
    let s := if s.flush.pending then { s with nv := { s.nv with reserve := { present := true } } } else s
    let list := insertAll (poisonListOf s) s.nv.reserve.poisonList
    let s := takeDownDomains { s with nv := { s.nv with reserve := { s.nv.reserve with poisonList := list } } }
    let s := closeLog (logEv 0x0105 sevNotice 15 0 s.flush.alarmCause 0 s)
    let s := railsOff s
    { s with boot := { s.boot with byAlarm := true } }

/-- ALARM_SHUTDOWN (R387). -/
def execAlarmShutdown (s : State) : Host.Outcome State Fault Refusal := .next (alarmShutdown s)

end Sys2Proof.Machine
end

