-- ==== Sys2Proof/Machine/Keeper.lean ====
section
/-!
DEFINITION. The keeper commands of Table 16-1 (R353 to R355, R382 to R384, R389, R390, R399) over MCTP.
-/
namespace Sys2Proof.Machine

open Sys2Proof

/-- Results of a command (R382). -/
def resOk : Nat := 0
def resBusy : Nat := 1
def resRefused : Nat := 2
def resBadSignature : Nat := 3

/-- The keeper's firmware runs and serves MCTP: it has passed stage 1, and is not restarting (R346, R370, R381). -/
def mctpUp (s : State) : Bool :=
  s.keeper.up && (match s.boot.phase with
    | .waitStandby | .standbyRetry | .noPower | .romRecovery => false
    | .awaiting n => n != 2
    | _ => true)

/-- The answer of a command, which is logged (Table 16-10). -/
def cmdAnswer (code result : Nat) (words : List Nat) (s : State) : State :=
  emit (.keeper code result words) (logEv 0x0901 sevInfo 15 0 code result s)

/-- A state-changing command: BUSY while another is in progress, and nothing is done then (R382). -/
def stateCommand (code : Nat) (f : State → Nat × State) (s : State) : State :=
  if !mctpUp s then s
  else if s.keeper.busy then cmdAnswer code resBusy [] s
  else
    let (r, s) := f s
    cmdAnswer code r [] s

/-- A command that changes nothing. -/
def readCommand (code : Nat) (f : State → Nat × List Nat × State) (s : State) : State :=
  if !mctpUp s then s
  else
    let (r, ws, s) := f s
    cmdAnswer code r ws s

/-- The node can take a command that changes what it runs: it is not booting, off, or in a power flush. -/
def canChange (s : State) : Bool :=
  !booting s && s.flush.kind != .power && (match s.boot.phase with
    | .down | .flushed | .waitInput | .romRecovery => false
    | _ => true)

/-! ## Reading (R354, R382, R395, R416) -/

/-- A slot record (Table 16-9). -/
def recordView (r : SlotRec) : RegView :=
  ⟨at' (r.writeCount % 65536) 48 + at' (r.svnA % 256) 40 + at' (r.svnB % 256) 32 + at' (slotStateCode r.stateA) 29 + at' (slotStateCode r.stateB) 26
    + at' (r.next % 2) 25 + at' (r.trialBoots % 4) 23, openBits 0 23⟩

/-- ALERT_CAUSE (Table 16-4). -/
def alertView (s : State) : RegView := ⟨alertWord s, openBits 16 48 + openBits 0 6⟩

/-- Several views read one after another. -/
def readViews : List RegView → State → List Nat × State
  | [], s => ([], s)
  | v :: t, s =>
    let (w, s) := readView v s
    let (ws, s) := readViews t s
    (w.toNat :: ws, s)

/-- GET_INFO: the BOOT_STATUS fields, the slot records, ALERT_CAUSE, the counters and the limit in force (Table 16-1). -/
def getInfo (s : State) : Nat × List Nat × State :=
  let (ws, s) := readViews [bootStatus s, recordView s.nv.fwRec, recordView s.nv.hwRec, alertView s, ⟨s.nv.fuses.fwSvn, 0⟩, ⟨s.nv.fuses.hwSvn, 0⟩,
    ⟨s.keeper.limitW, 0⟩] s
  (resOk, ws, s)

/-- GET_INFO (R382). -/
def execGetInfo (s : State) : Host.Outcome State Fault Refusal := .next (readCommand 0x01 getInfo s)

/-- The entries from a SEQ on, by serial order (R393). -/
def entriesFrom (s : State) (seq : Nat) : List LogEntry :=
  s.nv.log.filter (fun e => match serCmp 32 e.seq seq with | .same | .newer => true | _ => false)

/-- An entry is proven by a retained seal that covers it (R395). -/
def isProven (s : State) (e : LogEntry) : Bool :=
  s.nv.seals.any (fun r => (e.seq + 2 ^ 32 - r.firstSeq) % 2 ^ 32 ≤ (r.lastSeq + 2 ^ 32 - r.firstSeq) % 2 ^ 32)

/-- GET_LOG (R395): entries from a given SEQ, SEALED = 0 where no retained seal proves them. -/
def execGetLog (seq : BitVec 32) (s : State) : Host.Outcome State Fault Refusal :=
  .next (readCommand 0x02 (fun s =>
    let es := entriesFrom s seq.toNat
    (resOk, [], emit (.keeperLog es (es.map (isProven s))) s)) s)

/-- GET_SEAL (R395): a retained seal record, oldest first. -/
def execGetSeal (index : Nat) (s : State) : Host.Outcome State Fault Refusal :=
  .next (readCommand 0x03 (fun s =>
    match s.nv.seals[index]? with
    | some r => (resOk, [], emit (.keeperSeal (some r)) s)
    | none => (resRefused, [], emit (.keeperSeal none) s)) s)

/-- A tier map entry (Table 03-1); where the page is not PLAIN or FLASH the FRAME field is not stated. -/
def tierViews (e : TierEntry) : List RegView :=
  let st := match e.state with | .flash => 0 | .plain => 1 | .riffle => 2 | .moving => 3
  let mask := fun (l : List Nat) => l.foldl (fun a i => a + 2 ^ i) 0
  let frame := if e.state == .plain then at' (e.frame % 2 ^ 24) 38 else 0
  let open_ := if e.state == .plain || e.state == .flash then 0 else openBits 38 24
  [⟨at' st 62 + frame + at' (min 0xFFFF e.count) 22 + at' (min 255 e.pins) 14 + at' (b2n e.poisoned) 13 + at' (b2n e.riffleNo) 12
      + at' (b2n e.away) 11, open_⟩,
   ⟨at' (mask e.dirty) 48 + at' (mask e.durable) 32, 0⟩]

/-- EDDY_STATUS (Table 10-10). -/
def eddyView (s : State) (race : Nat) : RegView :=
  let r := raceExp s race
  ⟨at' (r.queue.length % 2 ^ 14) 50 + at' (min (2 ^ 32 - 1) r.corrected) 18 + at' (min 255 r.uncorrected) 10 + at' (b2n r.flushing) 3
    + at' (b2n r.underrun) 2 + at' (b2n r.queue.isEmpty) 1, openBits 4 6 + openBits 0 1⟩

/-- The diagnostic read of an eddy queue (R271, R354): only while the queue is empty and flushed does it return the last word read,
which sets UNDERRUN; else zero. -/
def eddyRead (race : Nat) (s : State) : Nat × State :=
  let r := raceExp s race
  let w := if r.queue.isEmpty && r.input.isEmpty && !r.flushing then r.lastWord.toNat else 0
  (w, if r.queue.isEmpty then updRace race (fun r => { r with underrun := true }) s else s)

/-- LINK_COUNTERS (Table 17-14). -/
def counterWords (k : Counters) : List Nat :=
  [at' (min (2 ^ 48 - 1) k.fecSymbols) 16 + min 0xFFFF k.retrains, at' (min 0xFFFFFFFF k.fecUncorr) 32 + min 0xFFFFFFFF k.crcFail,
   at' (min 0xFFFFFFFF k.naks) 32 + min 0xFFFFFFFF k.replayed, at' (min (2 ^ 40 - 1) k.patFlits) 24 + min 0xFFFFFF k.patCrcFail]

/-- LT_LANE_STATUS (Table 17-12). -/
def laneView (t : TestSt) (l : Nat) : RegView :=
  let e := Tbl.get 0 t.errors l
  ⟨at' (b2n (t.lock.contains l)) 63 + at' (b2n (e == 2 ^ 48 - 1)) 62 + at' e 14, openBits 0 14⟩

/-- LT_LANE_CTL (Table 17-11). -/
def laneControl (t : TestSt) (l : Nat) : Nat :=
  at' (Tbl.get 0 t.laneMode l) 62 + at' (Tbl.get 2 t.lanePattern l) 60 + at' (Tbl.get 1 t.laneEye l) 57
    + at' (Tbl.get 0 t.lanePhase l) 50 + at' (Tbl.get 0 t.laneLevel l) 43

/-- Fuse values other than UDS (Table 14-4, R354). -/
def fuseWords (f : Fuses) : List Nat :=
  let mask := fun (l : List Bool) => (l.zipIdx).foldl (fun a b => a + b2n b.1 * 2 ^ b.2) 0
  f.vendorKeys ++ f.opKeys ++ [f.fwSvn, f.hwSvn, mask f.opRevoke, mask f.vendorRevoke, b2n f.installLock, b2n f.testLock]

/-- What DIAG_READ returns for a target (Table 14-8, R416); a party's range is refused and logged. The contents of the device's other
tables are not stated. -/
def diagRead (t : DiagTarget) (s : State) : Nat × List Nat × State :=
  match t with
  | .tierMap page => let (ws, s) := readViews (tierViews (tierOf s page)) s; (resOk, ws, s)
  | .eddyStatus race => let (ws, s) := readViews [eddyView s race] s; (resOk, ws, s)
  | .eddyData race _ => let (w, s) := eddyRead race s; (resOk, [w], s)
  | .linkCounters l => (resOk, counterWords (s.link l).counters, s)
  | .laneStatus l => let (ws, s) := readViews [laneView s.test l] s; (resOk, ws, s)
  | .laneControl l => (resOk, [laneControl s.test l], s)
  | .linkControl l => (resOk, [at' (s.link l).ltMode 62], s)
  | .nodeControl off => let (_, w, s) := readCtl off s; (resOk, [w.toNat], s)
  | .deviceTable _ => let (w, s) := takeWord s; (resOk, [w.toNat], s)
  | .fuses => (resOk, fuseWords s.nv.fuses, s)
  | .partyRange addr => (resRefused, [], logEv 0x0703 sevWarning 15 (statusCode .refusedIsolation) addr 0 s)

/-- DIAG_READ (R354). -/
def execDiagRead (t : DiagTarget) (s : State) : Host.Outcome State Fault Refusal :=
  .next (readCommand 0x04 (fun s => let (r, ws, s) := diagRead t s; (r, [], if r == resOk then emit (.diag ws) s else s)) s)

/-! ## Alerts, limits, flush and tide -/

/-- CLEAR_ALERT (R389): event bits only. -/
def execClearAlert (named : W64) (s : State) : Host.Outcome State Fault Refusal :=
  .next (stateCommand 0x05 (fun s => (resOk,
    ([alertUpdateFail, alertLog, alertService, alertSwitch, alertLag].filter (flag named)).foldl (fun s b => dropAlert b s) s)) s)

/-- SET_LIMIT (R390): clamped to 200 W to CAP_FULL_W, until the next boot. -/
def execSetLimit (watts : Nat) (s : State) : Host.Outcome State Fault Refusal :=
  .next (stateCommand 0x10 (fun s =>
    (resOk, { s with keeper := { s.keeper with limitW := max 200 (min watts s.hw.settings.capFullW) } })) s)

/-- EARLY_FLUSH (R83): in service, and leaving the node unbraced. -/
def execEarlyFlush (s : State) : Host.Outcome State Fault Refusal :=
  .next (stateCommand 0x11 (fun s => if s.boot.ready && canChange s then (resOk, trigger trigCommand s) else (resRefused, s)) s)

/-- END_BRACE (R87). -/
def execEndBrace (s : State) : Host.Outcome State Fault Refusal :=
  .next (stateCommand 0x12 (fun s => if s.boot.ready && canChange s then (resOk, endBrace s) else (resRefused, s)) s)

/-- TIDE_LOAD (R223): the seconds of the count, at the next marker. -/
def execTideLoad (seconds : Nat) (s : State) : Host.Outcome State Fault Refusal :=
  .next (stateCommand 0x13 (fun s => (resOk, { s with tide := { s.tide with load := some seconds } })) s)

/-- CLEAR_FAULT (R88): the ISLAND that follows a lost manifest ends and agreement runs; refused where no key unwraps (R341). -/
def clearFault (s : State) : Nat × State :=
  if !s.nv.manifestLost || s.map.lostKeys then (resRefused, s)
  else
    let s := { s with nv := { s.nv with manifestLost := false } }
    if forcedIsland s || !s.boot.ready then (resOk, s) else (resOk, startAgreement (mapTo .forming s))

/-- CLEAR_FAULT (R88). -/
def execClearFault (s : State) : Host.Outcome State Fault Refusal := .next (stateCommand 0x14 clearFault s)

/-! ## Resets and power (R378, R383) -/

/-- A commanded reset where the node can take one; a warm one needs the main rails, so not in board test mode (R418). -/
def resetCommand (kind cause : Nat) (s : State) : Nat × State :=
  if !canChange s || (kind == rebootWarm && (s.boot.phase == .boardTest || !s.pins.mainRails)) then (resRefused, s)
  else (resOk, beginReset kind cause s)

/-- SHUTDOWN (R383). -/
def execShutdown (s : State) : Host.Outcome State Fault Refusal := .next (stateCommand 0x20 (resetCommand rebootOff 0) s)
/-- WARM_REBOOT (R378). -/
def execWarmReboot (s : State) : Host.Outcome State Fault Refusal := .next (stateCommand 0x21 (resetCommand rebootWarm 1) s)
/-- COLD_REBOOT (R378). -/
def execColdReboot (s : State) : Host.Outcome State Fault Refusal := .next (stateCommand 0x22 (resetCommand rebootCold 2) s)

/-- POWER_ON (R383): a cold boot from step 2 after SHUTDOWN or an alarm. -/
def execPowerOn (s : State) : Host.Outcome State Fault Refusal :=
  .next (stateCommand 0x23 (fun s => if s.boot.phase == .down then (resOk, coldReset s) else (resRefused, s)) s)

/-! ## Commit and revert (R347, R399) -/

def bootedSlot (s : State) (c : Nat) : Nat := if c == compFirmware then s.boot.fwSlot else s.boot.hwSlot

def isTrial (s : State) (c : Nat) : Bool := slotState (slotRec s c) (bootedSlot s c) == .trial

def imageSvn (s : State) (c slot : Nat) : Nat :=
  if c == compFirmware then ((fwImage s slot).map (·.svn)).getD 0 else ((hwImage s slot).map (·.svn)).getD 0

/-- The counter raised to the image's SVN; it never falls (R344, R347). -/
def raiseSvn (c svn : Nat) (s : State) : State :=
  let old := if c == compFirmware then s.nv.fuses.fwSvn else s.nv.fuses.hwSvn
  let new := min 64 svn
  if new ≤ old then s
  else
    let fuses := if c == compFirmware then { s.nv.fuses with fwSvn := new } else { s.nv.fuses with hwSvn := new }
    logEv 0x0802 sevNotice 15 0 c new { s with nv := { s.nv with fuses } }

/-- A TRIAL slot committed. -/
def commitSlot (c : Nat) (s : State) : State :=
  let n := bootedSlot s c
  raiseSvn c (imageSvn s c n) (logSlot c n .committed (updRec c (fun r => { r with trialBoots := 0 }) s))

/-- The components whose booted slot is TRIAL. -/
def trials (s : State) : List Nat := [compFirmware, compHeadwater].filter (isTrial s)

/-- COMMIT (R399): refused where no slot is TRIAL. -/
def commitTrials (s : State) : Nat × State :=
  if (trials s).isEmpty || booting s then (resRefused, s) else (resOk, (trials s).foldl (fun s c => commitSlot c s) s)

/-- COMMIT (R399). -/
def execCommit (s : State) : Host.Outcome State Fault Refusal := .next (stateCommand 0x30 commitTrials s)

/-- A TRIAL slot abandoned: BAD, and NEXT names the other slot. -/
def revertSlot (c : Nat) (s : State) : State :=
  let n := bootedSlot s c
  updRec c (fun r => { r with next := 1 - n, trialBoots := 0 }) (badSlot c n s)

/-- REVERT (R399): the reboot is cold where firmware is reverted, else warm. -/
def revert (s : State) : Nat × State :=
  let cs := trials s
  if cs.isEmpty || !canChange s then (resRefused, s)
  else
    let s := cs.foldl (fun s c => revertSlot c s) s
    let cold : Bool := cs.contains compFirmware
    (resOk, beginReset (if cold then rebootCold else rebootWarm) (if cold then 2 else 1) s)

/-- REVERT (R399). -/
def execRevert (s : State) : Host.Outcome State Fault Refusal := .next (stateCommand 0x31 revert s)

/-- COMMIT_DELAY_EXPIRY (R399): READY held for COMMIT_DELAY_S, with MAP_STATE AGREED for headwater. -/
def execCommitDelayExpiry (headwater : Bool) (s : State) : Host.Outcome State Fault Refusal :=
  .next (
    let c := if headwater then compHeadwater else compFirmware
    if s.keeper.up && s.boot.ready && isTrial s c && (!headwater || s.map.state == .agreed) then commitSlot c s else s)

/-! ## Signed commands and keys (R343 to R345, R355, R384) -/

/-- Fields of Table 14-4, as FUSE_BURN names them: the lowest bit of the field. -/
def fuseOpKey (slot : Nat) : Nat := 2688 - 384 * slot
def fuseOpRevoke : Nat := 1404
def fuseInstallLock : Nat := 1401

def burned (fieldBit value : Nat) (s : State) : State := logEv 0x0702 sevNotice 15 0 fieldBit (value % 2 ^ 64) s

/-- An operator slot that holds a digest and is not revoked. -/
def opUsable (s : State) (slot : Nat) : Bool := nth 0 s.nv.fuses.opKeys slot != 0 && !nth false s.nv.fuses.opRevoke slot

/-- The reason for which a signed command is refused (R384, Table 16-10); `named` is the slot that the command names. -/
def signedFault (s : State) (code : Nat) (named : Option Nat) (a : Signed) : Option Nat :=
  let key := nth 0 s.nv.fuses.opKeys a.signer
  if 4 ≤ a.signer || !opUsable s a.signer || named == some a.signer then some 1
  else if a.cmd != code || !a.rsaKeys.contains key || !a.slhKeys.contains key then some 0
  else if a.device != s.nv.deviceDigest then some 2
  else if a.counter ≤ s.nv.signedCounter then some 3
  else none

/-- A signed command accepted: its counter is stored before it acts. One that is refused is logged. -/
def withSigned (code : Nat) (named : Option Nat) (a : Signed) (f : State → Nat × State) (s : State) : Nat × State :=
  match signedFault s code named a with
  | some r => (resBadSignature, logEv 0x0705 sevWarning 15 0 code r s)
  | none => f { s with nv := { s.nv with signedCounter := a.counter } }

/-- A command that INSTALL_LOCK makes a signed one (R345). -/
def lockedCommand (code slot : Nat) (auth : Option Signed) (f : State → Nat × State) (s : State) : Nat × State :=
  if !s.nv.fuses.installLock then f s
  else match auth with
    | some a => withSigned code (some slot) a f s
    | none => (resBadSignature, logEv 0x0705 sevWarning 15 0 code 0 s)

/-- PROVISION_KEY performed: the challenge verifies, the exponent is 65,537 and the slot is empty and not revoked; the nonce is used up. -/
def provisionKey (slot : Nat) (key : KeyPair) (challengeGood : Bool) (s : State) : Nat × State :=
  if !challengeGood then (resBadSignature, logEv 0x0705 sevWarning 15 0 0x40 0 s)
  else if key.exponent != 65537 || key.digest == 0 || nth false s.nv.fuses.opRevoke slot || nth 0 s.nv.fuses.opKeys slot != 0 then (resRefused, s)
  else
    let nonce := Config.freeNat s.freeCtr
    let fuses := { s.nv.fuses with opKeys := setNth s.nv.fuses.opKeys slot key.digest }
    (resOk, burned (fuseOpKey slot) key.digest { s with nv := { s.nv with fuses }, keeper := { s.keeper with nonce }, freeCtr := s.freeCtr + 1 })

/-- PROVISION_KEY (R345). -/
def execProvisionKey (slot : Fin 4) (key : KeyPair) (challengeGood : Bool) (auth : Option Signed) (s : State) : Host.Outcome State Fault Refusal :=
  .next (stateCommand 0x40 (lockedCommand 0x40 slot auth (provisionKey slot key challengeGood)) s)

/-- LOCK_INSTALL (R345): refused once INSTALL_LOCK is burned. -/
def lockInstall (s : State) : Nat × State :=
  if s.nv.fuses.installLock then (resRefused, s)
  else (resOk, burned fuseInstallLock 1 { s with nv := { s.nv with fuses := { s.nv.fuses with installLock := true } } })

/-- LOCK_INSTALL (R345). -/
def execLockInstall (s : State) : Host.Outcome State Fault Refusal := .next (stateCommand 0x41 lockInstall s)

/-- REVOKE_KEY performed: refused where no unrevoked operator slot would be left. -/
def revokeKey (slot : Nat) (s : State) : Nat × State :=
  if !(List.range 4).any (fun i => i != slot && opUsable s i) then (resRefused, s)
  else
    let opRevoke := setNth s.nv.fuses.opRevoke slot true
    let mask := (opRevoke.zipIdx).foldl (fun a b => a + b2n b.1 * 2 ^ b.2) 0
    (resOk, burned fuseOpRevoke mask { s with nv := { s.nv with fuses := { s.nv.fuses with opRevoke } } })

/-- REVOKE_KEY (R345). -/
def execRevokeKey (slot : Fin 4) (auth : Option Signed) (s : State) : Host.Outcome State Fault Refusal :=
  .next (stateCommand 0x42 (lockedCommand 0x42 slot auth (revokeKey slot)) s)

/-- SANITIZE staged (R355): it is performed at the next boot and cannot be withdrawn. -/
def stageSanitize (s : State) : Nat × State := (resOk, logEv 0x0706 sevAlarm 15 0 0 0 { s with nv := { s.nv with sanitize := true } })

/-- SANITIZE (R355): always signed. -/
def execSanitize (auth : Signed) (s : State) : Host.Outcome State Fault Refusal :=
  .next (stateCommand 0x43 (withSigned 0x43 none auth stageSanitize) s)

/-- SET_ENDPOINT_ID (R382): MCTP control, which the boot ROM serves too in ROM recovery. -/
def execSetEndpointId (eid : BitVec 8) (s : State) : Host.Outcome State Fault Refusal :=
  .next (if mctpUp s || (s.keeper.up && s.boot.phase == .romRecovery) then { s with keeper := { s.keeper with eid := eid.toNat } } else s)

end Sys2Proof.Machine
end

