-- ==== Sys2Proof/Machine/Identity.lean ====
section
/-!
DEFINITION. Updates under PLDM (R396 to R399), the sweep of destroyed keys (R340), and SPDM on its transports (R348 to R352).
-/
namespace Sys2Proof.Machine

open Sys2Proof

/-! ## Updates -/

/-- PLDM firmware update is served, in ROM recovery too (Table 14-5). -/
def pldmUp (s : State) : Bool := mctpUp s || (s.keeper.up && s.boot.phase == .romRecovery)

def powerFlush (s : State) : Bool := s.flush.kind == .power || s.flush.toPower || s.boot.phase == .flushed

/-- The slot that an update writes: the one not booted (R397). -/
def updateSlot (s : State) (c : Nat) : Nat := 1 - bootedSlot s c

/-- A slot emptied. -/
def emptySlot (c slot : Nat) (s : State) : State :=
  let s : State := if c == compFirmware then
      (if slot == 0 then { s with nv := { s.nv with fwA := none } } else { s with nv := { s.nv with fwB := none } })
    else if slot == 0 then { s with nv := { s.nv with hwA := none } } else { s with nv := { s.nv with hwB := none } }
  if slotState (slotRec s c) slot == .empty then s else logSlot c slot .empty s

/-- REQUEST_UPDATE (R397): a transfer opened into the slot not booted, which is EMPTY until its image is verified. -/
def requestUpdate (c : Nat) (s : State) : State :=
  if !pldmUp s then s
  else if c != compFirmware && c != compHeadwater then emit (.pldm .invalidComponent) s
  else if isTrial s c || powerFlush s || s.keeper.transfer.isSome then emit (.pldm .retryRequestUpdate) s
  else emit (.pldm .accepted) (emptySlot c (updateSlot s c) { s with keeper := { s.keeper with transfer := some c } })

/-- REQUEST_UPDATE (R397). -/
def execRequestUpdate (component : Nat) (s : State) : Host.Outcome State Fault Refusal := .next (requestUpdate component s)

/-- The full check of a transferred image (R397). Before a first headwater image is loaded the node has no number to compare. -/
def imageGood (s : State) (c : Nat) (x : Image) : Bool :=
  match x with
  | .firmware f => c == compFirmware && (firmwareCause s f).isNone
  | .headwater h =>
    c == compHeadwater && headerOk h && h.deviceId == deviceId s && operatorSigned s h.rsaKeys h.slhKeys && s.nv.fuses.hwSvn ≤ h.svn && h.svn ≤ 64
    && (s.hw.parties.isEmpty || h.node == s.node) && (contentRule s h).isNone

/-- The image in its slot, with its SVN in the record; the slot is STAGED. -/
def stageImage (c slot : Nat) (x : Image) (s : State) : State :=
  let s := match x with
    | .firmware f => if slot == 0 then { s with nv := { s.nv with fwA := some f } } else { s with nv := { s.nv with fwB := some f } }
    | .headwater h => if slot == 0 then { s with nv := { s.nv with hwA := some h } } else { s with nv := { s.nv with hwB := some h } }
  let svn := match x with | .firmware f => f.svn | .headwater h => h.svn
  logSlot c slot .staged (updRec c (fun r => if slot == 0 then { r with svnA := svn } else { r with svnB := svn }) s)

/-- VERIFY_COMPLETE (R397): the image checked and applied, or the slot left EMPTY. -/
def verifyComplete (x : Image) (s : State) : State :=
  if !pldmUp s then s
  else match s.keeper.transfer with
    | none => s
    | some c =>
      let slot := updateSlot s c
      let good := imageGood s c x
      let s := { s with keeper := { s.keeper with transfer := none } }
      if good then emit (.pldm .verifySuccess) (stageImage c slot x s)
      else
        let s := setAlert alertUpdateFail (logEv 0x0801 sevNotice 15 0 (c + at' slot 8) (slotStateCode .empty) (emptySlot c slot s))
        emit (.pldm .verifyFailed) s

/-- VERIFY_COMPLETE (R397). -/
def execVerifyComplete (image : Image) (s : State) : Host.Outcome State Fault Refusal := .next (verifyComplete image s)

/-- The STAGED slot of a component. -/
def stagedSlot (s : State) (c : Nat) : Option Nat :=
  (List.range 2).find? (fun n => slotState (slotRec s c) n == .staged)

/-- NEXT set to each STAGED slot; a headwater image starts a warm reboot at once (R378, R398). -/
def activate' (s : State) : State :=
  let s := match stagedSlot s compFirmware with
    | some n => updRec compFirmware (fun r => { r with next := n }) s
    | none => s
  match stagedSlot s compHeadwater with
  | some n =>
    let s := updRec compHeadwater (fun r => { r with next := n }) s
    if canChange s && s.boot.phase != .boardTest && s.pins.mainRails then beginReset rebootWarm 3 s else s
  | none => s

/-- ACTIVATE_FIRMWARE (R398): deferred while an early flush runs. -/
def activateFirmware (s : State) : State :=
  if !pldmUp s then s
  else if s.keeper.reboot != 0 then s
  else if s.flush.kind == .early || s.flush.pending then
    emit (.pldm .activationDeferred) { s with keeper := { s.keeper with deferred := true } }
  else activate' (emit (.pldm .activated) s)

/-- ACTIVATE_FIRMWARE (R398). -/
def execActivateFirmware (s : State) : Host.Outcome State Fault Refusal := .next (activateFirmware s)

/-- EARLY_FLUSH_COMPLETE (R86): an activation that waited for it follows (R398). -/
def execEarlyFlushComplete (s : State) : Host.Outcome State Fault Refusal :=
  .next (
    let s := earlyFlushComplete s
    if s.keeper.deferred && !flushActive s then activate' { s with keeper := { s.keeper with deferred := false } } else s)

/-! ## The sweep (R340) -/

/-- KEY_SWEEP_COMPLETE: every unit that carries the destroyed serial is marked as unwritten, and the serial may be issued again. -/
def sweepDone (serial : Nat) (s : State) : State :=
  if !s.nv.sweeping.contains serial || !s.boot.ready then s
  else
    let gone := (s.nv.flashSerial.filter (fun e => e.2 == serial)).map (·.1)
    { s with nv := { s.nv with
        sweeping := s.nv.sweeping.filter (· != serial)
        flashSerial := s.nv.flashSerial.filter (fun e => e.2 != serial)
        flash := s.nv.flash.filter (fun c => !gone.contains (c.1 / 4096))
        flashPoison := s.nv.flashPoison.filter (fun l => !gone.contains (l / 64)) } }

/-- KEY_SWEEP_COMPLETE (R340). -/
def execKeySweepComplete (serial : BitVec 16) (s : State) : Host.Outcome State Fault Refusal := .next (sweepDone serial.toNat s)

/-! ## SPDM (R349 to R351) -/

def transportKey : Transport → Nat
  | .mctp => 0
  | .doe p => 1 + p.val

/-- A transport on which requests arrive: the sideband, or the DOE of a host port whose config space answers (R349, R372). -/
def spdmUp (s : State) (t : Transport) : Bool :=
  mctpUp s && (match t with
    | .mctp => true
    | .doe p => !s.pins.dieReset && (s.hostSt p).trained)

def spdmOf (s : State) (t : Transport) : Spdm := Tbl.get {} s.spdm (transportKey t)

def updSpdm (t : Transport) (f : Spdm → Spdm) (s : State) : State := { s with spdm := Tbl.upd {} s.spdm (transportKey t) f }

def spdmFail (t : Transport) (e : SpdmErr) (s : State) : State := emit (.spdmError t e) s

def spdmSay (t : Transport) (r : SpdmRsp) (ws : List Nat) (s : State) : State := emit (.spdm t r ws none) s

/-- A request on a transport, answered where its earlier requests of the protocol have been (R349). -/
def spdmRequest (t : Transport) (ready : Spdm → Bool) (f : State → State) (s : State) : State :=
  if !spdmUp s t then s
  else if ready (spdmOf s t) then f s
  else spdmFail t .unexpectedRequest s

/-- GET_VERSION (R349): negotiation starts afresh; SPDM 1.3. -/
def execGetVersion (t : Transport) (s : State) : Host.Outcome State Fault Refusal :=
  .next (spdmRequest t (fun _ => true) (fun s =>
    spdmSay t .version [0x13] (updSpdm t (fun x => { x with versioned := true, capable := false, algorithms := false, chunk := 0 }) s)) s)

/-- GET_CAPABILITIES (R349): certificates, challenge, signed measurements and chunking; no key exchange and no secured messages. -/
def execGetCapabilities (t : Transport) (s : State) : Host.Outcome State Fault Refusal :=
  .next (spdmRequest t (fun x => x.versioned) (fun s => spdmSay t .capabilities [] (updSpdm t (fun x => { x with capable := true }) s)) s)

/-- NEGOTIATE_ALGORITHMS (R349): TPM_ALG_RSAPSS_3072 and TPM_ALG_SHA_384. -/
def execNegotiateAlgorithms (t : Transport) (offersRsa3072 offersSha384 : Bool) (s : State) : Host.Outcome State Fault Refusal :=
  .next (spdmRequest t (fun x => x.capable) (fun s =>
    if offersRsa3072 && offersSha384 then spdmSay t .algorithms [] (updSpdm t (fun x => { x with algorithms := true }) s)
    else spdmFail t .invalidRequest s) s)

/-- The RSA-3072 chain of slot 0, named by what it certifies: the DeviceID pair and the alias pair of the firmware (R348). -/
def chainDigest (s : State) : Nat := Config.sha384 [s.nv.deviceDigest, Config.aliasDigest s.boot.firmware.digest, s.nv.fuses.fwSvn]

/-- GET_DIGESTS (R349). -/
def execGetDigests (t : Transport) (s : State) : Host.Outcome State Fault Refusal :=
  .next (spdmRequest t (fun x => x.algorithms) (fun s => spdmSay t .digests [chainDigest s] s) s)

/-- GET_CERTIFICATE (R349): slot 0 only; the part of the chain asked for. -/
def execGetCertificate (t : Transport) (slot : Nat) (offset length : BitVec 16) (s : State) : Host.Outcome State Fault Refusal :=
  .next (spdmRequest t (fun x => x.algorithms) (fun s =>
    if slot == 0 then spdmSay t .certificate [chainDigest s, offset.toNat, length.toNat] s else spdmFail t .invalidRequest s) s)

/-- A signed response: the RSA signature covers M, whose SHA-384 is kept with the last 3 others of the transport; the SLH-DSA half is
signed from now on (R351). M takes in a nonce of the responder's own. -/
def spdmSigned (t : Transport) (r : SpdmRsp) (nonce : Nat) (ws : List Nat) (s : State) : State :=
  let m := Config.sha384 ([transportKey t, nonce, Config.freeNat s.freeCtr] ++ ws)
  let s := updSpdm t (fun x => { x with inputs := ((m, false) :: x.inputs).take 4 }) { s with freeCtr := s.freeCtr + 1 }
  emit (.spdm t r ws (some m)) s

/-- CHALLENGE (R349). -/
def execChallenge (t : Transport) (nonce : Nat) (s : State) : Host.Outcome State Fault Refusal :=
  .next (spdmRequest t (fun x => x.algorithms) (fun s => spdmSigned t .challengeAuth nonce [chainDigest s] s) s)

/-- What a measurement block covers (Table 14-6). -/
def measured (s : State) : Nat → List Nat
  | 1 => []
  | 2 => [s.boot.firmware.digest, s.boot.firmware.svn, s.boot.fwSlot]
  | 3 => fuseWords s.nv.fuses
  | 4 => [s.hw.digest, s.hw.svn, s.boot.hwSlot]
  | 5 => [s.hw.compGen, s.hw.slice.poolDigest, mapStateCode s.map.state]
  | 6 => s.boot.keys.flatMap (fun k => [k.1, k.2])
  | _ => [deviceId s, b2n (hardened s)]

/-- A measurement block: SHA-384 of its content (Table 14-6). -/
def measurement (s : State) (i : Nat) : Nat := Config.sha384 (i :: measured s i)

/-- GET_MEASUREMENTS (R350): index 0 asks for the number of blocks, 0xFF for all, as they stand now. -/
def execGetMeasurements (t : Transport) (index : BitVec 8) (signature : Bool) (nonce : Nat) (s : State) : Host.Outcome State Fault Refusal :=
  .next (spdmRequest t (fun x => x.algorithms) (fun s =>
    let i := index.toNat
    let ws := if i == 0 then [7] else if i == 0xFF then (rangeFrom 1 7).map (measurement s) else [measurement s i]
    if 7 < i && i != 0xFF then spdmFail t .invalidRequest s
    else if signature then spdmSigned t .measurements nonce ws s
    else spdmSay t .measurements ws s) s)

/-- GET_SLH_CHAIN (R351, Table 14-7): up to 4,096 bytes from an offset, or BAD_OFFSET. -/
def execGetSlhChain (t : Transport) (offset : BitVec 32) (s : State) : Host.Outcome State Fault Refusal :=
  .next (spdmRequest t (fun x => x.algorithms) (fun s =>
    let n := Config.slhChainLength s.nv.deviceDigest s.boot.firmware.digest
    if n ≤ offset.toNat then spdmSay t .vendorDefined [1, 2, 0] s
    else spdmSay t .vendorDefined [1, 0, min 4096 (n - offset.toNat)] s) s)

/-- The SLH-DSA signature of an input of the last four, or ResponseNotReady until it is made (R351). -/
def slhSig (t : Transport) (hash : Nat) (s : State) : State :=
  match (spdmOf s t).inputs.find? (fun x => x.1 == hash) with
  | none => spdmFail t .invalidRequest s
  | some (_, true) => emit (.spdm t .vendorDefined [2, 0, 7856] (some hash)) (updSpdm t (fun x => { x with asked := none }) s)
  | some (_, false) => spdmFail t .responseNotReady (updSpdm t (fun x => { x with asked := some hash }) s)

/-- GET_SLH_SIG (R351). -/
def execGetSlhSig (t : Transport) (hash : Nat) (s : State) : Host.Outcome State Fault Refusal :=
  .next (spdmRequest t (fun x => x.algorithms) (slhSig t hash) s)

/-- SLH_SIGN_COMPLETE (R351). -/
def execSlhSignComplete (t : Transport) (hash : Nat) (s : State) : Host.Outcome State Fault Refusal :=
  .next (if s.keeper.up then updSpdm t (fun x => { x with inputs := x.inputs.map (fun y => if y.1 == hash then (y.1, true) else y) }) s else s)

/-- RESPOND_IF_READY (R351). -/
def execRespondIfReady (t : Transport) (s : State) : Host.Outcome State Fault Refusal :=
  .next (spdmRequest t (fun x => x.asked.isSome) (fun s =>
    match (spdmOf s t).asked with
    | some h => slhSig t h s
    | none => s) s)

/-- SPDM_CHUNK (R349): chunks of a large message, in order from 0. -/
def execSpdmChunk (t : Transport) (send : Bool) (chunk : BitVec 16) (last : Bool) (s : State) : Host.Outcome State Fault Refusal :=
  .next (spdmRequest t (fun x => x.capable) (fun s =>
    if chunk.toNat != (spdmOf s t).chunk then spdmFail t .invalidRequest (updSpdm t (fun x => { x with chunk := 0 }) s)
    else spdmSay t (if send then .chunkSendAck else .chunkResponse) [chunk.toNat]
      (updSpdm t (fun x => { x with chunk := if last then 0 else x.chunk + 1 }) s)) s)

/-- SPDM_UNSUPPORTED_REQUEST (R349): a capability that is not provided, KEY_EXCHANGE among them. -/
def execSpdmUnsupportedRequest (t : Transport) (_code : BitVec 8) (s : State) : Host.Outcome State Fault Refusal :=
  .next (if spdmUp s t then spdmFail t .unsupportedRequest s else s)

end Sys2Proof.Machine
end

