-- ==== Sys2Proof/Machine/Sensors.lean ====
section
/-!
DEFINITION. The keeper's sensors and what their alarms do (R385 to R388), power capping (R390 to R392), the watchdog (R381), and the
CXL mailbox (R400).
-/
namespace Sys2Proof.Machine

open Sys2Proof

/-! ## Shock (R83, R386) -/

abbrev Axes := Int × Int × Int

def addAxes (a b : Axes) : Axes := (a.1 + b.1, a.2.1 + b.2.1, a.2.2 + b.2.2)
def subAxes (a b : Axes) : Axes := (a.1 - b.1, a.2.1 - b.2.1, a.2.2 - b.2.2)
def scaleAxes (k : Int) (a : Axes) : Axes := (k * a.1, k * a.2.1, k * a.2.2)
def sqAxes (a : Axes) : Int := a.1 * a.1 + a.2.1 * a.2.1 + a.2.2 * a.2.2

/-- n times a sample less the estimate, where n samples of sum S give the estimate S / n. -/
def offGravity (s : State) (v : Axes) : Axes := subAxes (scaleAxes s.keeper.gravSamples.length v) s.keeper.gravSum

/-- Whether |√a − √b| ≤ c, exactly. -/
def rootsWithin (a b c : Int) : Bool := a + b ≤ c * c || (a + b - c * c) * (a + b - c * c) ≤ 4 * a * b

/-- A sample whose magnitude lies within 0.05 g of the estimate's; samples count 7.8 mg. -/
def nearGravity (s : State) (v : Axes) : Bool :=
  let n : Int := s.keeper.gravSamples.length
  rootsWithin (6084 * sqAxes (scaleAxes n v)) (6084 * sqAxes s.keeper.gravSum) (500 * n)

/-- The sample entered in the estimate: each of the first 256, then those near it, the last 4,000 of them. -/
def takeGravity (v : Axes) (s : State) : State :=
  let l := s.keeper.gravSamples
  if 256 ≤ l.length && !nearGravity s v then s
  else
    let sum := addAxes s.keeper.gravSum v
    if l.length < 4000 then { s with keeper := { s.keeper with gravSamples := l ++ [v], gravSum := sum } }
    else { s with keeper := { s.keeper with gravSamples := l.drop 1 ++ [v], gravSum := subAxes sum (l.headD (0, 0, 0)) } }

/-- The magnitude of a sample less the estimate, in mg. -/
def peakMg (s : State) (v : Axes) : Nat :=
  Nat.sqrt (6084 * sqAxes (offGravity s v)).toNat / (10 * s.keeper.gravSamples.length)

/-- A offGravity at or above a level in mg. -/
def atLevel (s : State) (v : Axes) (mg : Nat) : Bool :=
  let lim : Int := 10 * mg * s.keeper.gravSamples.length
  lim * lim ≤ 6084 * sqAxes (offGravity s v)

/-- The axes of a offGravity at or above a level. -/
def axesAt (s : State) (v : Axes) (mg : Nat) : Nat :=
  let r := offGravity s v
  let lim : Int := 10 * mg * s.keeper.gravSamples.length
  let on := fun (x : Int) => b2n (lim ≤ 78 * x.natAbs)
  on r.1 + 2 * on r.2.1 + 4 * on r.2.2

/-- The operating rating (R386). -/
def shockRating (s : State) : Nat := if hardened s then 15000 else 6000

/-- A run of samples at the threshold ends: a shock is logged with its peak and axes. -/
def endShock (s : State) : State :=
  let k := s.keeper
  let s := if s.hw.settings.shockSamples ≤ k.shockRun then logEv 0x0402 sevAlarm 15 0 k.shockPeak k.shockAxes s else s
  { s with keeper := { s.keeper with shockRun := 0, shockPeak := 0, shockAxes := 0 } }

/-- A sample at the threshold: SHOCK_SAMPLES in a row are a shock (Table 03-4). -/
def shockOn (v : Axes) (mg : Nat) (s : State) : State :=
  let k := s.keeper
  let s := { s with keeper := { k with shockRun := k.shockRun + 1, shockPeak := max k.shockPeak (peakMg s v), shockAxes := k.shockAxes ||| axesAt s v mg } }
  if s.keeper.shockRun == s.hw.settings.shockSamples then
    takeBrace trigShock (setAlert alertSensor { s with keeper := { s.keeper with shockHold := 10000 } })
  else if s.keeper.shockHold != 0 then { s with keeper := { s.keeper with shockHold := 10000 } }
  else s

/-- A sample on the safe side: the shock row leaves its alarm level after 10 s of them, 10,000 samples at 1 kHz (R385, Table 16-3). -/
def shockSafe (s : State) : State :=
  if s.keeper.shockHold == 0 then s
  else
    let s := { s with keeper := { s.keeper with shockHold := s.keeper.shockHold - 1 } }
    if s.keeper.shockHold == 0 && !s.keeper.levels.any (fun e => e.2 == .alarm) then dropAlert alertSensor s else s

/-- A peak above the rating sets SERVICE, whatever the threshold is. -/
def ratingCheck (v : Axes) (s : State) : State :=
  let above : Bool := atLevel s v (shockRating s + 1)
  let s := if above && !s.keeper.shockOver then serviceAlarm 7 (peakMg s v) s else s
  { s with keeper := { s.keeper with shockOver := above } }

/-- SHOCK_SAMPLE (R386): one 1 kHz sample, in units of 7.8 mg. -/
def shockSample (v : Axes) (s : State) : State :=
  if !s.keeper.up then s
  else if s.keeper.gravSamples.length < 256 then takeGravity v s
  else
    let mg := 50 * s.hw.settings.shockThreshold
    let t := ratingCheck v s
    takeGravity v (if atLevel s v mg then shockOn v mg t else shockSafe (endShock t))

/-- SHOCK_SAMPLE (R386). -/
def execShockSample (x y z : Int) (s : State) : Host.Outcome State Fault Refusal := .next (shockSample (x, y, z) s)

/-! ## The watchdog (R381) -/

/-- The keeper alone resets; the die keeps running. -/
def keeperReset (s : State) : State :=
  { s with keeper := { s.keeper with up := false, shockRun := 0, shockPeak := 0, shockAxes := 0 } }

/-- KEEPER_WATCHDOG (R381). -/
def execKeeperWatchdog (s : State) : Host.Outcome State Fault Refusal := .next (if s.keeper.up then keeperReset s else s)

/-- KEEPER_RESTART (R381, R392): the restart and the events lost are logged, the die's FIFO follows, the windows restart. -/
def keeperRestart (s : State) : State :=
  if s.keeper.up || !s.pins.standby then s
  else
    let held := s.keeper.fifo
    let lost := s.keeper.lost
    let s := { s with keeper := { s.keeper with up := true, fifo := [], lost := 0, calm := 0 } }
    held.foldl (fun s e => logEv e.1 e.2.1 e.2.2.1 e.2.2.2.1 e.2.2.2.2.1 e.2.2.2.2.2 s) (logEv 0x0103 sevWarning 15 0 lost 0 s)

/-- KEEPER_RESTART (R381). -/
def execKeeperRestart (s : State) : Host.Outcome State Fault Refusal := .next (keeperRestart s)

/-! ## Sensors (R385, R387, R388) -/

/-- A die, stack or main-rail alarm: an early flush as by command, and then off (R387). -/
def alarmFlush (cause : Nat) (s : State) : State :=
  if s.flush.alarmOff || s.pins.dieReset then s
  else
    let s := if s.boot.ready then trigger trigAlarm s else s
    { s with flush := { s.flush with alarmOff := true, alarmCause := cause } }

/-- What a sensor does on reaching its alarm level (Table 16-3). -/
def alarmAction (x : Sensor) (s : State) : State :=
  match x with
  | .die _ | .stack _ => alarmFlush 4 s
  | .railVolt _ | .railCurrent _ => alarmFlush 5 s
  | .standby => keeperReset s
  | _ => s

/-- The keeper's record of a wet or dry film; a dry one ends what keeps the brace up (R388). -/
def noteFilm (x : Sensor) (l : Level) (s : State) : State :=
  if x == .film then { s with keeper := { s.keeper with filmWet := l != .normal } } else s

/-- SENSOR_SAMPLE (R385): a reading with the level that its row's thresholds, times and hysteresis give it. -/
def sensorSample (x : Sensor) (reading : Int) (l : Level) (s : State) : State :=
  if !s.keeper.up then s
  else
    let enters := entersAlarm s x l
    let s := noteFilm x l (noteLevel x reading l s)
    if enters then alarmAction x s else s

/-- SENSOR_SAMPLE (R385). -/
def execSensorSample (sensor : Sensor) (reading : Int) (level : Level) (s : State) : Host.Outcome State Fault Refusal :=
  .next (sensorSample sensor reading level s)

/-- CONDENSATION_ALARM (R388): wet for 10 s, the film starts an early flush and braces the node. -/
def execCondensationAlarm (s : State) : Host.Outcome State Fault Refusal :=
  .next (if s.keeper.up then takeBrace trigFilm (noteFilm .film .alarm (noteLevel .film 1 .alarm s)) else s)

/-! ## Power capping (R390 to R392) -/

/-- The table below a level, and the one above, of those present. -/
def lowerTable (s : State) : WeirKind → Option WeirKind
  | .full => if (weirTable s .cap1).isSome then some .cap1 else none
  | .cap1 => if (weirTable s .cap2).isSome then some .cap2 else none
  | _ => none
def higherTable : WeirKind → Option WeirKind
  | .cap1 => some .full
  | .cap2 => some .cap1
  | _ => none

/-- The most that a level may draw: the limit in force or the table's cap. -/
def levelLimit (s : State) (k : WeirKind) : Nat := min s.keeper.limitW (tableCap s k)

def modelOf (s : State) (k : WeirKind) : Nat := ((weirTable s k).map (·.modelW)).getD 0

/-- A table selected, in force from the next slot 0 (R117). -/
def selectTable (k : WeirKind) (cause watts : Nat) (s : State) : State :=
  logSelect k cause watts { s with weir := { s.weir with selected := some k } }

/-- The step down of R391; without a lower table, CAP_UNMET once per episode. -/
def stepDown (above : Bool) (p : Nat) (s : State) : State :=
  let s := { s with keeper := { s.keeper with calm := 0 } }
  match lowerTable s s.weir.kind with
  | some k => selectTable k (if above then 0 else 1) p s
  | none =>
    if above && s.keeper.capMet then
      logEv 0x0302 sevAlarm 15 0 p s.keeper.limitW (setAlert alertCapUnmet { s with keeper := { s.keeper with capMet := false } })
    else s

/-- The step up of R391: the prediction by the ratio of the two MODEL_W leaves HYST_W below the limit, for RELEASE_MS of windows. -/
def stepUp (cool : Bool) (p : Nat) (s : State) : State :=
  let n := s.hw.settings
  let s := dropAlert alertCapUnmet { s with keeper := { s.keeper with capMet := true } }
  match higherTable s.weir.kind with
  | none => { s with keeper := { s.keeper with calm := 0 } }
  | some k =>
    let fits : Bool := p * modelOf s k + n.hystW * modelOf s s.weir.kind ≤ levelLimit s k * modelOf s s.weir.kind
    let calm := if cool && fits then s.keeper.calm + n.windowMs else 0
    if n.releaseMs ≤ calm then selectTable k 0 p { s with keeper := { s.keeper with calm := 0 } }
    else { s with keeper := { s.keeper with calm } }

/-- CAP_WINDOW (R391): the window's mean input power in watts; die and stack readings in units of 0.25 °C. -/
def capWindow (p : Nat) (dies stackTemps : List Int) (s : State) : State :=
  if !s.keeper.up || !s.keeper.windows then s
  else
    let n := s.hw.settings
    let s := { s with keeper := { s.keeper with powerW := p } }
    if s.weir.kind == .spate then s
    else
      let hot : Bool := dies.any (fun t => (4 * n.dieThrottleC : Int) ≤ t) || stackTemps.any (fun t => (4 * n.stackThrottleC : Int) ≤ t)
      let cool : Bool := dies.all (fun t => t ≤ 4 * ((n.dieThrottleC : Int) - n.hystC)) && stackTemps.all (fun t => t ≤ 4 * ((n.stackThrottleC : Int) - n.hystC))
      let above : Bool := levelLimit s s.weir.kind < p
      if above || hot then stepDown above p s else stepUp cool p s

/-- CAP_WINDOW (R391). -/
def execCapWindow (meanW : Nat) (dies stackTemps : List Int) (s : State) : Host.Outcome State Fault Refusal := .next (capWindow meanW dies stackTemps s)

/-! ## The CXL mailbox (R334, R400) -/

/-- Poisoned lines of the ranges that a host's party owns or shares. -/
def hostPoison (s : State) (port : Nat) : List Nat :=
  s.store.poison.filter (fun l => match findExtent s.hw.slice (l * 64) 64 with
    | some e => (extentMembers s.hw.slice e).contains ⟨s.node, port⟩
    | none => false)

/-- Get Health Info (Table 16-11): Maintenance Needed, Performance Degraded, Hardware Replacement Needed, media Not Ready, the dirty
shutdown count, and the corrected volatile and persistent counts of the party's pool. -/
def healthWords (s : State) (port : Nat) : List Nat :=
  let pool := (partyRec s port).pool
  let service := (s.pty port).failingRow || levelOf s (.retiredFrames ⟨pool % 1024, Nat.mod_lt _ (by decide)⟩) == .alarm
  let replace : Bool := poolFrames s pool < 100 * retiredIn s pool
  [b2n service + at' (b2n (s.weir.kind != .full)) 1 + at' (b2n replace) 2, b2n (!s.boot.ready), s.nv.dirtyShutdowns,
   Tbl.get 0 s.store.correctedErr pool, Tbl.get 0 s.store.flashRecovered pool]

/-- MAILBOX_COMMAND (R400): answered while the host's link is trained, within the limits of R334. -/
def mailboxCommand (port : Nat) (cmd : MailboxCmd) (s : State) : State :=
  if !(s.hostSt port).trained then s
  else match cmd with
    | .identify => emit (.mailbox port cmd [(partyRec s port).hostDpaGib]) s
    | .health => emit (.mailbox port cmd (healthWords s port)) s
    | .poisonList => emit (.mailbox port cmd (hostPoison s port)) s
    | .events => emit (.mailbox port cmd (s.hostSt port).events) s
    | .clearEvents => emit (.mailbox port cmd []) (updHost port (fun h => { h with events := [] }) s)

/-- MAILBOX_COMMAND (R400). -/
def execMailboxCommand (port : Fin 2) (cmd : MailboxCmd) (s : State) : Host.Outcome State Fault Refusal := .next (mailboxCommand port cmd s)

end Sys2Proof.Machine
end

