-- ==== Sys2Proof/Machine/TestAccess.lean ====
section
/-!
DEFINITION. The test access port and the link test registers (R344, R415 to R418).
-/
namespace Sys2Proof.Machine

open Sys2Proof

/-- Board test mode (R418). -/
def inBoardTest (s : State) : Bool := s.boot.phase == .boardTest

/-- An instruction in force; the pins return to the functional side unless it drives them from the boundary register. -/
def loadIr (code : Nat) (driven floated : Bool) (acTest : Nat) (s : State) : State :=
  { s with test := { s.test with ir := code, driven, floated, acTest } }

/-- BYPASS: what an instruction outside its times, or a code not listed, acts as (R417). -/
def bypass (s : State) : State := loadIr 0xFF false false 0 s

/-- An instruction of board test mode only. -/
def boardOnly (f : State → State) (s : State) : State :=
  if !s.pins.standby then s else if inBoardTest s then f s else bypass s

/-- EXTEST (R417): the boundary cells drive the pins. -/
def execExtest (drive : List Bool) (s : State) : Host.Outcome State Fault Refusal :=
  .next (boardOnly (fun s => loadIr 0x00 true false 0 { s with test := { s.test with cells := drive } }) s)

/-- IDCODE (R417): the same for all order codes. -/
def execIdcode (s : State) : Host.Outcome State Fault Refusal :=
  .next (if s.pins.standby then emit (.tap 0x15F10D75) (loadIr 0x01 false false 0 s) else s)

/-- SAMPLE/PRELOAD (R417): the pins as they are sampled go out, and the boundary register is preloaded. -/
def execSamplePreload (pins preload : List Bool) (s : State) : Host.Outcome State Fault Refusal :=
  .next (if s.pins.standby then emit (.tapPins pins) (loadIr 0x02 false false 0 { s with test := { s.test with cells := preload } }) else s)

/-- CLAMP (R417): the pins hold the boundary register's contents. -/
def execClamp (s : State) : Host.Outcome State Fault Refusal := .next (boardOnly (loadIr 0x04 true false 0) s)

/-- HIGHZ (R417): the outputs float. -/
def execHighz (s : State) : Host.Outcome State Fault Refusal := .next (boardOnly (loadIr 0x05 false true 0) s)

/-- EXTEST_PULSE (R417). -/
def execExtestPulse (s : State) : Host.Outcome State Fault Refusal := .next (boardOnly (loadIr 0x06 true false 1) s)

/-- EXTEST_TRAIN (R417). -/
def execExtestTrain (s : State) : Host.Outcome State Fault Refusal := .next (boardOnly (loadIr 0x07 true false 2) s)

/-- BYPASS (R417), and every code that Table 17-15 does not list. -/
def execBypass (_code : BitVec 8) (s : State) : Host.Outcome State Fault Refusal := .next (if s.pins.standby then bypass s else s)

/-! ## The link test registers (R415, R416) -/

/-- One bit of the pattern that a lane generates is inverted. In near-end loopback the lane's own checker counts it. -/
def injectError (lane : Nat) (s : State) : State :=
  let t := { s.test with injected := Tbl.put s.test.injected lane (Tbl.get 0 s.test.injected lane + 1) }
  let counts : Bool := lane < 128 && (s.link (lane / 4)).ltMode == 2 && t.lock.contains lane
  let t := if counts then { t with errors := Tbl.put t.errors lane (min (2 ^ 48 - 1) (Tbl.get 0 t.errors lane + 1)) } else t
  { s with test := t }

/-- A lane generates and checks a pattern. -/
def laneTesting (s : State) (lane : Nat) : Bool := Tbl.get 0 s.test.laneMode lane != 0

/-- A write of LT_LANE_CTL (Table 17-11); a value with an invalid MODE or PATTERN is not taken. -/
def writeLane (lane : Nat) (v : W64) (s : State) : State :=
  let mode := field v 62 2
  let pattern := field v 60 2
  if mode == 3 || pattern == 3 then s
  else
    let t := s.test
    let t := { t with
      laneMode := Tbl.put t.laneMode lane mode, lanePattern := Tbl.put t.lanePattern lane pattern, laneEye := Tbl.put t.laneEye lane (field v 57 2)
      lanePhase := Tbl.put t.lanePhase lane (field v 50 7), laneLevel := Tbl.put t.laneLevel lane (field v 43 7)
      lock := if mode == 0 then t.lock.filter (· != lane) else t.lock }
    let s := { s with test := t }
    if flag v 59 && mode != 0 then injectError lane s else s

/-- CLEAR: the link's counters and the status of its lanes zeroed (R416). -/
def clearLink (l : Nat) (s : State) : State :=
  let mine := rangeFrom (4 * l) 4
  let s := updLink l (fun k => { k with counters := {} }) s
  { s with test := { s.test with errors := mine.foldl (fun t i => Tbl.del t i) s.test.errors, lock := s.test.lock.filter (fun i => !mine.contains i) } }

/-- A write of LT_LINK_CTL (Table 17-13). -/
def writeLinkCtl (l : Nat) (v : W64) (s : State) : State :=
  let s := updLink l (fun k => { k with ltMode := field v 62 2 }) s
  if flag v 61 then clearLink l s else s

/-- LINK_TEST (R416): the data register reaches the link test registers. -/
def execLinkTest (w : TestWrite) (s : State) : Host.Outcome State Fault Refusal :=
  .next (boardOnly (fun s =>
    let s := loadIr 0x10 false false 0 s
    match w with
    | .none => s
    | .lane n v => writeLane n v s
    | .link n v => writeLinkCtl n v s) s)

/-- The link test registers can be written: in board test mode, through LINK_TEST. -/
def linkTestOpen (s : State) : Bool := inBoardTest s && s.test.ir == 0x10

/-- INJECT (R416): a write of 1 to a testing lane's INJECT. -/
def execInject (lane : Fin 160) (s : State) : Host.Outcome State Fault Refusal :=
  .next (if linkTestOpen s && laneTesting s lane then injectError lane s else s)

/-- CLEAR (R416): a write of 1 to a link's CLEAR. -/
def execLinkClear (link : Fin 32) (s : State) : Host.Outcome State Fault Refusal :=
  .next (if linkTestOpen s then clearLink link s else s)

/-- CHECKER_LOCK (R416): the lane's checker synchronises and counts errors from now on. -/
def execCheckerLock (lane : Fin 160) (s : State) : Host.Outcome State Fault Refusal :=
  .next (if laneTesting s lane then { s with test := { s.test with lock := insertNat lane.val s.test.lock, errors := Tbl.del s.test.errors lane.val } } else s)

end Sys2Proof.Machine
end

