-- ==== Sys2Proof/Machine/Dispatch.lean ====
section
/-!
DEFINITION. Which meaning each command has: one arm per constructor of Instr, each one direct call.
-/
namespace Sys2Proof.Machine

open Sys2Proof

/-- The effect of a command on everything but the queue. -/
def exec (i : Instr) (s : State) : Host.Outcome State Fault Refusal :=
  match i with
  | .standbyGood good => Sys2Proof.Machine.execStandbyGood good s
  | .standbyRetry good => Sys2Proof.Machine.execStandbyRetry good s
  | .firmwareCheck => Sys2Proof.Machine.execFirmwareCheck s
  | .strapSampling rounds testModeLow => Sys2Proof.Machine.execStrapSampling rounds testModeLow s
  | .headwaterCheck => Sys2Proof.Machine.execHeadwaterCheck s
  | .mainRailsUp good => Sys2Proof.Machine.execMainRailsUp good s
  | .railRetry good => Sys2Proof.Machine.execRailRetry good s
  | .keyUnwrap => Sys2Proof.Machine.execKeyUnwrap s
  | .dieRelease => Sys2Proof.Machine.execDieRelease s
  | .braidRunSettle => Sys2Proof.Machine.execBraidRunSettle s
  | .dramTraining failed savedGood => Sys2Proof.Machine.execDramTraining failed savedGood s
  | .flashScan mapGood rebuilt => Sys2Proof.Machine.execFlashScan mapGood rebuilt s
  | .spateRestore badUnits mapReadable => Sys2Proof.Machine.execSpateRestore badUnits mapReadable s
  | .reserveEraseComplete => Sys2Proof.Machine.execReserveEraseComplete s
  | .linkTraining link mated prbsGood flitGood => Sys2Proof.Machine.execLinkTraining link mated prbsGood flitGood s
  | .linkTrainRetry link mated prbsGood flitGood => Sys2Proof.Machine.execLinkTrainRetry link mated prbsGood flitGood s
  | .helloFlit link word0 credits => Sys2Proof.Machine.execHelloFlit link word0 credits s
  | .agreementStartTimeout => Sys2Proof.Machine.execAgreementStartTimeout s
  | .hostLinkTrained port rateX2 width => Sys2Proof.Machine.execHostLinkTrained port rateX2 width s
  | .perstDeassert port => Sys2Proof.Machine.execPerstDeassert port s
  | .announce a => Sys2Proof.Machine.execAnnounce a s
  | .sliceReadComplete node got => Sys2Proof.Machine.execSliceReadComplete node got s
  | .announceResend => Sys2Proof.Machine.execAnnounceResend s
  | .sliceRedeliver node => Sys2Proof.Machine.execSliceRedeliver node s
  | .agreementWindowEnd => Sys2Proof.Machine.execAgreementWindowEnd s
  | .flitSlot link => Sys2Proof.Machine.execFlitSlot link s
  | .flitReceived link flit => Sys2Proof.Machine.execFlitReceived link flit s
  | .nakTimeout link => Sys2Proof.Machine.execNakTimeout link s
  | .ackTimeout link => Sys2Proof.Machine.execAckTimeout link s
  | .retrainComplete link => Sys2Proof.Machine.execRetrainComplete link s
  | .retrainFailed link => Sys2Proof.Machine.execRetrainFailed link s
  | .linkRejoinRetry link prbsGood flitGood => Sys2Proof.Machine.execLinkRejoinRetry link prbsGood flitGood s
  | .laneFailure link lane => Sys2Proof.Machine.execLaneFailure link lane s
  | .emptyFlitDue link => Sys2Proof.Machine.execEmptyFlitDue link s
  | .tagHoldoverExpiry link => Sys2Proof.Machine.execTagHoldoverExpiry link s
  | .heldPageExpiry link page => Sys2Proof.Machine.execHeldPageExpiry link page s
  | .holdRetry port tag => Sys2Proof.Machine.execHoldRetry port tag s
  | .rangeCacheFill race party asid va => Sys2Proof.Machine.execRangeCacheFill race party asid va s
  | .extentCacheFill race offset => Sys2Proof.Machine.execExtentCacheFill race offset s
  | .weirSlot => Sys2Proof.Machine.execWeirSlot s
  | .weirPeriodBoundary => Sys2Proof.Machine.execWeirPeriodBoundary s
  | .combinationClose index => Sys2Proof.Machine.execCombinationClose index s
  | .load r ecc => Sys2Proof.Machine.execLoad r ecc s
  | .store r => Sys2Proof.Machine.execStore r s
  | .atomic r ecc => Sys2Proof.Machine.execAtomic r ecc s
  | .reduce r ecc => Sys2Proof.Machine.execReduce r ecc s
  | .mcastStore r => Sys2Proof.Machine.execMcastStore r s
  | .confRead r ecc => Sys2Proof.Machine.execConfRead r ecc s
  | .confAtomic r ecc => Sys2Proof.Machine.execConfAtomic r ecc s
  | .sluicePut r => Sys2Proof.Machine.execSluicePut r s
  | .sluiceGet r ecc => Sys2Proof.Machine.execSluiceGet r ecc s
  | .sluiceFlushAge window block => Sys2Proof.Machine.execSluiceFlushAge window block s
  | .pinMsg r => Sys2Proof.Machine.execPinMsg r s
  | .rdShared r ecc => Sys2Proof.Machine.execRdShared r ecc s
  | .rdOwn r ecc => Sys2Proof.Machine.execRdOwn r ecc s
  | .upgrade r ecc => Sys2Proof.Machine.execUpgrade r ecc s
  | .markDirty r => Sys2Proof.Machine.execMarkDirty r s
  | .wbDirty r => Sys2Proof.Machine.execWbDirty r s
  | .evict r => Sys2Proof.Machine.execEvict r s
  | .snpInv r => Sys2Proof.Machine.execSnpInv r s
  | .snpData r => Sys2Proof.Machine.execSnpData r s
  | .snpCur r => Sys2Proof.Machine.execSnpCur r s
  | .snpRsp r => Sys2Proof.Machine.execSnpRsp r s
  | .domainNotice r => Sys2Proof.Machine.execDomainNotice r s
  | .cxlMemRd port tag dpa mv => Sys2Proof.Machine.execCxlMemRd port tag dpa mv s
  | .cxlMemWr port tag dpa mv data => Sys2Proof.Machine.execCxlMemWr port tag dpa mv data s
  | .cxlMemClnEvct port tag dpa => Sys2Proof.Machine.execCxlMemClnEvct port tag dpa s
  | .cxlBiRsp port id rsp => Sys2Proof.Machine.execCxlBiRsp port id rsp s
  | .provisionalResolve port ptag => Sys2Proof.Machine.execProvisionalResolve port ptag s
  | .evictionComplete line => Sys2Proof.Machine.execEvictionComplete line s
  | .snoopTimeout id => Sys2Proof.Machine.execSnoopTimeout id s
  | .portDownTimeout port => Sys2Proof.Machine.execPortDownTimeout port s
  | .hostL0Timeout port => Sys2Proof.Machine.execHostL0Timeout port s
  | .cxlViral port => Sys2Proof.Machine.execCxlViral port s
  | .takedownComplete domain => Sys2Proof.Machine.execTakedownComplete domain s
  | .noticeResend => Sys2Proof.Machine.execNoticeResend s
  | .domainRejoin party value => Sys2Proof.Machine.execDomainRejoin party value s
  | .mirrorSync party value => Sys2Proof.Machine.execMirrorSync party value s
  | .syncCheckComplete party => Sys2Proof.Machine.execSyncCheckComplete party s
  | .syncDrained party => Sys2Proof.Machine.execSyncDrained party s
  | .teardown => Sys2Proof.Machine.execTeardown s
  | .teardownComplete => Sys2Proof.Machine.execTeardownComplete s
  | .demandFillComplete page lostUnits recovered => Sys2Proof.Machine.execDemandFillComplete page lostUnits recovered s
  | .tierMoveComplete page granules => Sys2Proof.Machine.execTierMoveComplete page granules s
  | .steer pool => Sys2Proof.Machine.execSteer pool s
  | .counterEpoch => Sys2Proof.Machine.execCounterEpoch s
  | .scrub row => Sys2Proof.Machine.execScrub row s
  | .cleanWater party => Sys2Proof.Machine.execCleanWater party s
  | .parkedWriteRelease party => Sys2Proof.Machine.execParkedWriteRelease party s
  | .writeThroughProgrammed unit => Sys2Proof.Machine.execWriteThroughProgrammed unit s
  | .pfwAssert => Sys2Proof.Machine.execPfwAssert s
  | .inputSag => Sys2Proof.Machine.execInputSag s
  | .inputRecovered => Sys2Proof.Machine.execInputRecovered s
  | .braceAssert => Sys2Proof.Machine.execBraceAssert s
  | .shockSample x y z => Sys2Proof.Machine.execShockSample x y z s
  | .serdesOff => Sys2Proof.Machine.execSerdesOff s
  | .flushDone => Sys2Proof.Machine.execFlushDone s
  | .earlyFlushComplete => Sys2Proof.Machine.execEarlyFlushComplete s
  | .flushLowInput => Sys2Proof.Machine.execFlushLowInput s
  | .postFlushReboot => Sys2Proof.Machine.execPostFlushReboot s
  | .braceHoldoffEnd => Sys2Proof.Machine.execBraceHoldoffEnd s
  | .hotSwapTrip => Sys2Proof.Machine.execHotSwapTrip s
  | .configure party rill => Sys2Proof.Machine.execConfigure party rill s
  | .enable party rill => Sys2Proof.Machine.execEnable party rill s
  | .disable party rill => Sys2Proof.Machine.execDisable party rill s
  | .abort party rill => Sys2Proof.Machine.execAbort party rill s
  | .rillQuery party rill => Sys2Proof.Machine.execRillQuery party rill s
  | .doorbell party value => Sys2Proof.Machine.execDoorbell party value s
  | .rillCacheFill rill => Sys2Proof.Machine.execRillCacheFill rill s
  | .descriptorStart rill => Sys2Proof.Machine.execDescriptorStart rill s
  | .completionRecord rill index => Sys2Proof.Machine.execCompletionRecord rill index s
  | .drainComplete rill => Sys2Proof.Machine.execDrainComplete rill s
  | .copy rill index => Sys2Proof.Machine.execCopy rill index s
  | .chunkLanded course rill index chunk => Sys2Proof.Machine.execChunkLanded course rill index chunk s
  | .advance party value => Sys2Proof.Machine.execAdvance party value s
  | .reachSet party value => Sys2Proof.Machine.execReachSet party value s
  | .reachFrame edges frame => Sys2Proof.Machine.execReachFrame edges frame s
  | .tideMarker => Sys2Proof.Machine.execTideMarker s
  | .tideLoss => Sys2Proof.Machine.execTideLoss s
  | .runTable rill index => Sys2Proof.Machine.execRunTable rill index s
  | .convert rill index => Sys2Proof.Machine.execConvert rill index s
  | .millReduce rill index => Sys2Proof.Machine.execMillReduce rill index s
  | .shoalEncode rill index => Sys2Proof.Machine.execShoalEncode rill index s
  | .codebookBuild rill index => Sys2Proof.Machine.execCodebookBuild rill index s
  | .pieceComplete rill index piece => Sys2Proof.Machine.execPieceComplete rill index piece s
  | .nop mill => Sys2Proof.Machine.execNop mill s
  | .stepEnd mill => Sys2Proof.Machine.execStepEnd mill s
  | .setlc mill => Sys2Proof.Machine.execSetlc mill s
  | .loopStep mill => Sys2Proof.Machine.execLoopStep mill s
  | .setf mill => Sys2Proof.Machine.execSetf mill s
  | .waitStep mill => Sys2Proof.Machine.execWaitStep mill s
  | .waitPoll mill timeout => Sys2Proof.Machine.execWaitPoll mill timeout s
  | .fence mill => Sys2Proof.Machine.execFence mill s
  | .salu mill => Sys2Proof.Machine.execSalu mill s
  | .sld mill => Sys2Proof.Machine.execSld mill s
  | .ld mill => Sys2Proof.Machine.execLd mill s
  | .st mill => Sys2Proof.Machine.execSt mill s
  | .atom mill => Sys2Proof.Machine.execAtom mill s
  | .red mill => Sys2Proof.Machine.execRed mill s
  | .mcast mill => Sys2Proof.Machine.execMcast mill s
  | .gather mill => Sys2Proof.Machine.execGather mill s
  | .memoryStepLanded mill => Sys2Proof.Machine.execMemoryStepLanded mill s
  | .millProvisionalResolve mill => Sys2Proof.Machine.execMillProvisionalResolve mill s
  | .vmov mill => Sys2Proof.Machine.execVmov mill s
  | .vcvt mill => Sys2Proof.Machine.execVcvt mill s
  | .valu mill => Sys2Proof.Machine.execValu mill s
  | .vdot mill => Sys2Proof.Machine.execVdot mill s
  | .vred mill => Sys2Proof.Machine.execVred mill s
  | .vfn mill => Sys2Proof.Machine.execVfn mill s
  | .lubuild mill => Sys2Proof.Machine.execLubuild mill s
  | .luscore mill => Sys2Proof.Machine.execLuscore mill s
  | .lubin mill => Sys2Proof.Machine.execLubin mill s
  | .cqins mill => Sys2Proof.Machine.execCqins mill s
  | .cqpop mill => Sys2Proof.Machine.execCqpop mill s
  | .cqout mill => Sys2Proof.Machine.execCqout mill s
  | .cqclr mill => Sys2Proof.Machine.execCqclr mill s
  | .install party value => Sys2Proof.Machine.execInstall party value s
  | .release party value => Sys2Proof.Machine.execRelease party value s
  | .cbQuery party value => Sys2Proof.Machine.execCbQuery party value s
  | .codebookBaseWrite party value => Sys2Proof.Machine.execCodebookBaseWrite party value s
  | .slotFreed slot => Sys2Proof.Machine.execSlotFreed slot s
  | .expandBlock race => Sys2Proof.Machine.execExpandBlock race s
  | .codebookMissFill race slot => Sys2Proof.Machine.execCodebookMissFill race slot s
  | .eddyReadLine race single double => Sys2Proof.Machine.execEddyReadLine race single double s
  | .attend rill index => Sys2Proof.Machine.execAttend rill index s
  | .unitSpanComplete rill index seq head span => Sys2Proof.Machine.execUnitSpanComplete rill index seq head span s
  | .attnAdmit rill index => Sys2Proof.Machine.execAttnAdmit rill index s
  | .append rill index => Sys2Proof.Machine.execAppend rill index s
  | .retire rill index => Sys2Proof.Machine.execRetire rill index s
  | .buildBooks rill index => Sys2Proof.Machine.execBuildBooks rill index s
  | .lookup rill index => Sys2Proof.Machine.execLookup rill index s
  | .update rill index => Sys2Proof.Machine.execUpdate rill index s
  | .embedCommit rill index => Sys2Proof.Machine.execEmbedCommit rill index s
  | .piecePosted group node => Sys2Proof.Machine.execPiecePosted group node s
  | .ownerCommit group node => Sys2Proof.Machine.execOwnerCommit group node s
  | .progressBeat group node => Sys2Proof.Machine.execProgressBeat group node s
  | .reply group node => Sys2Proof.Machine.execReply group node s
  | .searchQuery rill index => Sys2Proof.Machine.execSearchQuery rill index s
  | .insert rill index => Sys2Proof.Machine.execInsert rill index s
  | .delete rill index => Sys2Proof.Machine.execDelete rill index s
  | .indexAdvance rill index => Sys2Proof.Machine.execIndexAdvance rill index s
  | .check rill index => Sys2Proof.Machine.execCheck rill index s
  | .mirrorBatchClose setting => Sys2Proof.Machine.execMirrorBatchClose setting s
  | .mirrorBatchAcked setting => Sys2Proof.Machine.execMirrorBatchAcked setting s
  | .mirrorLinkDown setting => Sys2Proof.Machine.execMirrorLinkDown setting s
  | .mirrorLinkReturn setting => Sys2Proof.Machine.execMirrorLinkReturn setting s
  | .lagExceeded setting lagMs => Sys2Proof.Machine.execLagExceeded setting lagMs s
  | .ownerLost owner => Sys2Proof.Machine.execOwnerLost owner s
  | .flr port => Sys2Proof.Machine.execFlr port s
  | .partyReset party => Sys2Proof.Machine.execPartyReset party s
  | .cxlReset port => Sys2Proof.Machine.execCxlReset port s
  | .hotReset port => Sys2Proof.Machine.execHotReset port s
  | .registerWrite writer offset value => Sys2Proof.Machine.execRegisterWrite writer offset value s
  | .getInfo => Sys2Proof.Machine.execGetInfo s
  | .getLog seq => Sys2Proof.Machine.execGetLog seq s
  | .getSeal index => Sys2Proof.Machine.execGetSeal index s
  | .diagRead t => Sys2Proof.Machine.execDiagRead t s
  | .clearAlert bits => Sys2Proof.Machine.execClearAlert bits s
  | .setLimit watts => Sys2Proof.Machine.execSetLimit watts s
  | .earlyFlush => Sys2Proof.Machine.execEarlyFlush s
  | .endBrace => Sys2Proof.Machine.execEndBrace s
  | .tideLoad seconds => Sys2Proof.Machine.execTideLoad seconds s
  | .clearFault => Sys2Proof.Machine.execClearFault s
  | .shutdown => Sys2Proof.Machine.execShutdown s
  | .warmReboot => Sys2Proof.Machine.execWarmReboot s
  | .coldReboot => Sys2Proof.Machine.execColdReboot s
  | .powerOn => Sys2Proof.Machine.execPowerOn s
  | .commit => Sys2Proof.Machine.execCommit s
  | .revert => Sys2Proof.Machine.execRevert s
  | .commitDelayExpiry component => Sys2Proof.Machine.execCommitDelayExpiry component s
  | .provisionKey slot key challengeGood auth => Sys2Proof.Machine.execProvisionKey slot key challengeGood auth s
  | .lockInstall => Sys2Proof.Machine.execLockInstall s
  | .revokeKey slot auth => Sys2Proof.Machine.execRevokeKey slot auth s
  | .sanitize auth => Sys2Proof.Machine.execSanitize auth s
  | .setEndpointId eid => Sys2Proof.Machine.execSetEndpointId eid s
  | .requestUpdate component => Sys2Proof.Machine.execRequestUpdate component s
  | .verifyComplete image => Sys2Proof.Machine.execVerifyComplete image s
  | .activateFirmware => Sys2Proof.Machine.execActivateFirmware s
  | .keySweepComplete serial => Sys2Proof.Machine.execKeySweepComplete serial s
  | .getVersion t => Sys2Proof.Machine.execGetVersion t s
  | .getCapabilities t => Sys2Proof.Machine.execGetCapabilities t s
  | .negotiateAlgorithms t offersRsa3072 offersSha384 => Sys2Proof.Machine.execNegotiateAlgorithms t offersRsa3072 offersSha384 s
  | .getDigests t => Sys2Proof.Machine.execGetDigests t s
  | .getCertificate t slot offset length => Sys2Proof.Machine.execGetCertificate t slot offset length s
  | .challenge t nonce => Sys2Proof.Machine.execChallenge t nonce s
  | .getMeasurements t index signature nonce => Sys2Proof.Machine.execGetMeasurements t index signature nonce s
  | .getSlhChain t offset => Sys2Proof.Machine.execGetSlhChain t offset s
  | .getSlhSig t hash => Sys2Proof.Machine.execGetSlhSig t hash s
  | .slhSignComplete t hash => Sys2Proof.Machine.execSlhSignComplete t hash s
  | .keeperWatchdog => Sys2Proof.Machine.execKeeperWatchdog s
  | .sensorSample sensor reading level => Sys2Proof.Machine.execSensorSample sensor reading level s
  | .alarmShutdown => Sys2Proof.Machine.execAlarmShutdown s
  | .condensationAlarm => Sys2Proof.Machine.execCondensationAlarm s
  | .capWindow meanW dies stackTemps => Sys2Proof.Machine.execCapWindow meanW dies stackTemps s
  | .logWrite => Sys2Proof.Machine.execLogWrite s
  | .logSeal signed => Sys2Proof.Machine.execLogSeal signed s
  | .extest drive => Sys2Proof.Machine.execExtest drive s
  | .idcode => Sys2Proof.Machine.execIdcode s
  | .samplePreload pins preload => Sys2Proof.Machine.execSamplePreload pins preload s
  | .clamp => Sys2Proof.Machine.execClamp s
  | .highz => Sys2Proof.Machine.execHighz s
  | .extestPulse => Sys2Proof.Machine.execExtestPulse s
  | .extestTrain => Sys2Proof.Machine.execExtestTrain s
  | .linkTest w => Sys2Proof.Machine.execLinkTest w s
  | .bypass code => Sys2Proof.Machine.execBypass code s
  | .inject lane => Sys2Proof.Machine.execInject lane s
  | .linkClear link => Sys2Proof.Machine.execLinkClear link s
  | .keeperRestart => Sys2Proof.Machine.execKeeperRestart s
  | .standbyLost => Sys2Proof.Machine.execStandbyLost s
  | .offInputReturn => Sys2Proof.Machine.execOffInputReturn s
  | .braceDeassert => Sys2Proof.Machine.execBraceDeassert s
  | .flushUnitProgrammed unit => Sys2Proof.Machine.execFlushUnitProgrammed unit s
  | .cxlBiConflict port tag id => Sys2Proof.Machine.execCxlBiConflict port tag id s
  | .hostPortLeavesL0 port recovery => Sys2Proof.Machine.execHostPortLeavesL0 port recovery s
  | .tideTick => Sys2Proof.Machine.execTideTick s
  | .checkerLock lane => Sys2Proof.Machine.execCheckerLock lane s
  | .respondIfReady t => Sys2Proof.Machine.execRespondIfReady t s
  | .spdmChunk t send chunk last => Sys2Proof.Machine.execSpdmChunk t send chunk last s
  | .spdmUnsupportedRequest t code => Sys2Proof.Machine.execSpdmUnsupportedRequest t code s
  | .mailboxCommand port cmd => Sys2Proof.Machine.execMailboxCommand port cmd s
  | .pcieDmaCompletion port tag data => Sys2Proof.Machine.execPcieDmaCompletion port tag data s

end Sys2Proof.Machine
end

