-- ==== Sys2Proof/WellFormed.lean ====
section
/-!
DEFINITION. Well-formed commands: operands within the ranges that the spec gives them. Operands whose type bounds them (a link, a
race, a party, a mill) need no check.
-/
namespace Sys2Proof

/-- Rill numbers 0 to 65,535 (R206). -/
def rillOk (n : Nat) : Bool := n < 65536

/-- Descriptor indices of a ring of at most 2^16 entries (Table 08-1). -/
def indexOk (n : Nat) : Bool := n < 65536

/-- Tier pages of 64 KiB in at most 64 TiB of backed space (R36, R64). -/
def pageOk (n : Nat) : Bool := n < 2 ^ 30

/-- A 4 KiB page of a 64-bit address, as the held-page lists name them (R110). -/
def linkPageOk (n : Nat) : Bool := n < 2 ^ 52

/-- Units of 4 KiB (R36, Table 03-1). -/
def unitOk (n : Nat) : Bool := n < 2 ^ 34

/-- Lines of 64 bytes (R36, R124). -/
def lineOk (n : Nat) : Bool := n < 2 ^ 40

/-- Codebook slots 0 to 4,095 (R257). -/
def slotOk (n : Nat) : Bool := n < 4096

/-- A flit of sixteen cells (Table 04-1). -/
def flitOk (f : Flit) : Bool := f.cells.length == 16

/-- PCIe rates, in units of 0.5 GT/s (R414). -/
def linkRateOk (n : Nat) : Bool := [5, 10, 16, 32, 64, 128].contains n

/-- PCIe widths (R414). -/
def linkWidthOk (n : Nat) : Bool := [1, 2, 4, 8, 16].contains n

/-- Granules of 512 bytes that a tier page of 64 KiB can take (R274). -/
def granulesOk (n : Nat) : Bool := n ≤ 128

/-- Clock edges of a reach serial frame are counted in 16 bits. -/
def edgesOk (n : Nat) : Bool := n < 65536

/-- Strap samples come in rounds of eight (R358). -/
def roundsOk (l : List (List (BitVec 8))) : Bool := l.all (fun r => r.length == 8)

/-- CXL.mem tags are 16 bits. -/
def cxlTagOk (n : Nat) : Bool := n < 65536

/-- A CXL.mem write carries 64 bytes (R132). -/
def lineDataOk (d : Bytes) : Bool := d.length == 64

/-- TIDE_LOAD carries seconds in 32 bits (R224). -/
def secondsOk (n : Nat) : Bool := n < 2 ^ 32

/-- SET_LIMIT carries watts in 16 bits (R390). -/
def wattsOk (n : Nat) : Bool := n < 65536

/-- A scrubbed row names frames of 64 KiB and lines of backed space (R76). -/
def rowOk (r : ScrubRow) : Bool := r.uncorrectable.all lineOk

/-- Certificate slots 0 to 7 of SPDM. -/
def certSlotOk (n : Nat) : Bool := n < 8

/-- The operands of a command lie in their ranges. -/
def wellFormed : Instr → Bool
  | .standbyGood _ => true
  | .standbyRetry _ => true
  | .firmwareCheck => true
  | .strapSampling rounds _ => roundsOk rounds
  | .headwaterCheck => true
  | .mainRailsUp _ => true
  | .railRetry _ => true
  | .keyUnwrap => true
  | .dieRelease => true
  | .braidRunSettle => true
  | .dramTraining _ _ => true
  | .flashScan _ _ => true
  | .spateRestore badUnits _ => badUnits.all unitOk
  | .reserveEraseComplete => true
  | .linkTraining _ _ _ _ => true
  | .linkTrainRetry _ _ _ _ => true
  | .helloFlit _ _ _ => true
  | .agreementStartTimeout => true
  | .hostLinkTrained _ rateX2 width => linkRateOk rateX2 && linkWidthOk width
  | .perstDeassert _ => true
  | .announce _ => true
  | .sliceReadComplete _ _ => true
  | .announceResend => true
  | .sliceRedeliver _ => true
  | .agreementWindowEnd => true
  | .flitSlot _ => true
  | .flitReceived _ flit => flitOk flit
  | .nakTimeout _ => true
  | .ackTimeout _ => true
  | .retrainComplete _ => true
  | .retrainFailed _ => true
  | .linkRejoinRetry _ _ _ => true
  | .laneFailure _ _ => true
  | .emptyFlitDue _ => true
  | .tagHoldoverExpiry _ => true
  | .heldPageExpiry _ page => linkPageOk page
  | .holdRetry _ _ => true
  | .rangeCacheFill _ _ _ _ => true
  | .extentCacheFill _ _ => true
  | .weirSlot => true
  | .weirPeriodBoundary => true
  | .combinationClose _ => true
  | .load _ _ => true
  | .store _ => true
  | .atomic _ _ => true
  | .reduce _ _ => true
  | .mcastStore _ => true
  | .confRead _ _ => true
  | .confAtomic _ _ => true
  | .sluicePut _ => true
  | .sluiceGet _ _ => true
  | .sluiceFlushAge _ _ => true
  | .pinMsg _ => true
  | .rdShared _ _ => true
  | .rdOwn _ _ => true
  | .upgrade _ _ => true
  | .markDirty _ => true
  | .wbDirty _ => true
  | .evict _ => true
  | .snpInv _ => true
  | .snpData _ => true
  | .snpCur _ => true
  | .snpRsp _ => true
  | .domainNotice _ => true
  | .cxlMemRd _ tag _ _ => cxlTagOk tag
  | .cxlMemWr _ tag _ _ data => cxlTagOk tag && lineDataOk data
  | .cxlMemClnEvct _ tag _ => cxlTagOk tag
  | .cxlBiRsp _ _ _ => true
  | .provisionalResolve _ _ => true
  | .evictionComplete line => lineOk line
  | .snoopTimeout _ => true
  | .portDownTimeout _ => true
  | .hostL0Timeout _ => true
  | .cxlViral _ => true
  | .takedownComplete _ => true
  | .noticeResend => true
  | .domainRejoin _ _ => true
  | .mirrorSync _ _ => true
  | .syncCheckComplete _ => true
  | .syncDrained _ => true
  | .teardown => true
  | .teardownComplete => true
  | .demandFillComplete page lostUnits recovered => pageOk page && lostUnits.all unitOk && recovered.all unitOk
  | .tierMoveComplete page granules => pageOk page && granulesOk granules
  | .steer _ => true
  | .counterEpoch => true
  | .scrub row => rowOk row
  | .cleanWater _ => true
  | .parkedWriteRelease _ => true
  | .writeThroughProgrammed unit => unitOk unit
  | .pfwAssert => true
  | .inputSag => true
  | .inputRecovered => true
  | .braceAssert => true
  | .shockSample _ _ _ => true
  | .serdesOff => true
  | .flushDone => true
  | .earlyFlushComplete => true
  | .flushLowInput => true
  | .postFlushReboot => true
  | .braceHoldoffEnd => true
  | .hotSwapTrip => true
  | .configure _ rill => rillOk rill
  | .enable _ rill => rillOk rill
  | .disable _ rill => rillOk rill
  | .abort _ rill => rillOk rill
  | .rillQuery _ rill => rillOk rill
  | .doorbell _ _ => true
  | .rillCacheFill rill => rillOk rill
  | .descriptorStart rill => rillOk rill
  | .completionRecord rill index => rillOk rill && indexOk index
  | .drainComplete rill => rillOk rill
  | .copy rill index => rillOk rill && indexOk index
  | .chunkLanded _ rill index _ => rillOk rill && indexOk index
  | .advance _ _ => true
  | .reachSet _ _ => true
  | .reachFrame edges _ => edgesOk edges
  | .tideMarker => true
  | .tideLoss => true
  | .runTable rill index => rillOk rill && indexOk index
  | .convert rill index => rillOk rill && indexOk index
  | .millReduce rill index => rillOk rill && indexOk index
  | .shoalEncode rill index => rillOk rill && indexOk index
  | .codebookBuild rill index => rillOk rill && indexOk index
  | .pieceComplete rill index _ => rillOk rill && indexOk index
  | .nop _ => true
  | .stepEnd _ => true
  | .setlc _ => true
  | .loopStep _ => true
  | .setf _ => true
  | .waitStep _ => true
  | .waitPoll _ _ => true
  | .fence _ => true
  | .salu _ => true
  | .sld _ => true
  | .ld _ => true
  | .st _ => true
  | .atom _ => true
  | .red _ => true
  | .mcast _ => true
  | .gather _ => true
  | .memoryStepLanded _ => true
  | .millProvisionalResolve _ => true
  | .vmov _ => true
  | .vcvt _ => true
  | .valu _ => true
  | .vdot _ => true
  | .vred _ => true
  | .vfn _ => true
  | .lubuild _ => true
  | .luscore _ => true
  | .lubin _ => true
  | .cqins _ => true
  | .cqpop _ => true
  | .cqout _ => true
  | .cqclr _ => true
  | .install _ _ => true
  | .release _ _ => true
  | .cbQuery _ _ => true
  | .codebookBaseWrite _ _ => true
  | .slotFreed slot => slotOk slot
  | .expandBlock _ => true
  | .codebookMissFill _ slot => slotOk slot
  | .eddyReadLine _ _ _ => true
  | .attend rill index => rillOk rill && indexOk index
  | .unitSpanComplete rill index _ _ _ => rillOk rill && indexOk index
  | .attnAdmit rill index => rillOk rill && indexOk index
  | .append rill index => rillOk rill && indexOk index
  | .retire rill index => rillOk rill && indexOk index
  | .buildBooks rill index => rillOk rill && indexOk index
  | .lookup rill index => rillOk rill && indexOk index
  | .update rill index => rillOk rill && indexOk index
  | .embedCommit rill index => rillOk rill && indexOk index
  | .piecePosted _ _ => true
  | .ownerCommit _ _ => true
  | .progressBeat _ _ => true
  | .reply _ _ => true
  | .searchQuery rill index => rillOk rill && indexOk index
  | .insert rill index => rillOk rill && indexOk index
  | .delete rill index => rillOk rill && indexOk index
  | .indexAdvance rill index => rillOk rill && indexOk index
  | .check rill index => rillOk rill && indexOk index
  | .mirrorBatchClose _ => true
  | .mirrorBatchAcked _ => true
  | .mirrorLinkDown _ => true
  | .mirrorLinkReturn _ => true
  | .lagExceeded _ _ => true
  | .ownerLost _ => true
  | .flr _ => true
  | .partyReset _ => true
  | .cxlReset _ => true
  | .hotReset _ => true
  | .registerWrite _ _ _ => true
  | .getInfo => true
  | .getLog _ => true
  | .getSeal _ => true
  | .diagRead _ => true
  | .clearAlert _ => true
  | .setLimit watts => wattsOk watts
  | .earlyFlush => true
  | .endBrace => true
  | .tideLoad seconds => secondsOk seconds
  | .clearFault => true
  | .shutdown => true
  | .warmReboot => true
  | .coldReboot => true
  | .powerOn => true
  | .commit => true
  | .revert => true
  | .commitDelayExpiry _ => true
  | .provisionKey _ _ _ _ => true
  | .lockInstall => true
  | .revokeKey _ _ => true
  | .sanitize _ => true
  | .setEndpointId _ => true
  | .requestUpdate _ => true
  | .verifyComplete _ => true
  | .activateFirmware => true
  | .keySweepComplete _ => true
  | .getVersion _ => true
  | .getCapabilities _ => true
  | .negotiateAlgorithms _ _ _ => true
  | .getDigests _ => true
  | .getCertificate _ slot _ _ => certSlotOk slot
  | .challenge _ _ => true
  | .getMeasurements _ _ _ _ => true
  | .getSlhChain _ _ => true
  | .getSlhSig _ _ => true
  | .slhSignComplete _ _ => true
  | .keeperWatchdog => true
  | .sensorSample _ _ _ => true
  | .alarmShutdown => true
  | .condensationAlarm => true
  | .capWindow _ _ _ => true
  | .logWrite => true
  | .logSeal _ => true
  | .extest _ => true
  | .idcode => true
  | .samplePreload _ _ => true
  | .clamp => true
  | .highz => true
  | .extestPulse => true
  | .extestTrain => true
  | .linkTest _ => true
  | .bypass _ => true
  | .inject _ => true
  | .linkClear _ => true
  | .keeperRestart => true
  | .standbyLost => true
  | .offInputReturn => true
  | .braceDeassert => true
  | .flushUnitProgrammed unit => unit.all unitOk
  | .cxlBiConflict _ tag _ => cxlTagOk tag
  | .hostPortLeavesL0 _ _ => true
  | .tideTick => true
  | .checkerLock _ => true
  | .respondIfReady _ => true
  | .spdmChunk _ _ _ _ => true
  | .spdmUnsupportedRequest _ _ => true
  | .mailboxCommand _ _ => true
  | .pcieDmaCompletion _ tag _ => cxlTagOk tag

/-- The rill a command names. -/
def rillOf : Instr → Option Nat
  | .standbyGood _ => none
  | .standbyRetry _ => none
  | .firmwareCheck => none
  | .strapSampling _ _ => none
  | .headwaterCheck => none
  | .mainRailsUp _ => none
  | .railRetry _ => none
  | .keyUnwrap => none
  | .dieRelease => none
  | .braidRunSettle => none
  | .dramTraining _ _ => none
  | .flashScan _ _ => none
  | .spateRestore _ _ => none
  | .reserveEraseComplete => none
  | .linkTraining _ _ _ _ => none
  | .linkTrainRetry _ _ _ _ => none
  | .helloFlit _ _ _ => none
  | .agreementStartTimeout => none
  | .hostLinkTrained _ _ _ => none
  | .perstDeassert _ => none
  | .announce _ => none
  | .sliceReadComplete _ _ => none
  | .announceResend => none
  | .sliceRedeliver _ => none
  | .agreementWindowEnd => none
  | .flitSlot _ => none
  | .flitReceived _ _ => none
  | .nakTimeout _ => none
  | .ackTimeout _ => none
  | .retrainComplete _ => none
  | .retrainFailed _ => none
  | .linkRejoinRetry _ _ _ => none
  | .laneFailure _ _ => none
  | .emptyFlitDue _ => none
  | .tagHoldoverExpiry _ => none
  | .heldPageExpiry _ _ => none
  | .holdRetry _ _ => none
  | .rangeCacheFill _ _ _ _ => none
  | .extentCacheFill _ _ => none
  | .weirSlot => none
  | .weirPeriodBoundary => none
  | .combinationClose _ => none
  | .load _ _ => none
  | .store _ => none
  | .atomic _ _ => none
  | .reduce _ _ => none
  | .mcastStore _ => none
  | .confRead _ _ => none
  | .confAtomic _ _ => none
  | .sluicePut _ => none
  | .sluiceGet _ _ => none
  | .sluiceFlushAge _ _ => none
  | .pinMsg _ => none
  | .rdShared _ _ => none
  | .rdOwn _ _ => none
  | .upgrade _ _ => none
  | .markDirty _ => none
  | .wbDirty _ => none
  | .evict _ => none
  | .snpInv _ => none
  | .snpData _ => none
  | .snpCur _ => none
  | .snpRsp _ => none
  | .domainNotice _ => none
  | .cxlMemRd _ _ _ _ => none
  | .cxlMemWr _ _ _ _ _ => none
  | .cxlMemClnEvct _ _ _ => none
  | .cxlBiRsp _ _ _ => none
  | .provisionalResolve _ _ => none
  | .evictionComplete _ => none
  | .snoopTimeout _ => none
  | .portDownTimeout _ => none
  | .hostL0Timeout _ => none
  | .cxlViral _ => none
  | .takedownComplete _ => none
  | .noticeResend => none
  | .domainRejoin _ _ => none
  | .mirrorSync _ _ => none
  | .syncCheckComplete _ => none
  | .syncDrained _ => none
  | .teardown => none
  | .teardownComplete => none
  | .demandFillComplete _ _ _ => none
  | .tierMoveComplete _ _ => none
  | .steer _ => none
  | .counterEpoch => none
  | .scrub _ => none
  | .cleanWater _ => none
  | .parkedWriteRelease _ => none
  | .writeThroughProgrammed _ => none
  | .pfwAssert => none
  | .inputSag => none
  | .inputRecovered => none
  | .braceAssert => none
  | .shockSample _ _ _ => none
  | .serdesOff => none
  | .flushDone => none
  | .earlyFlushComplete => none
  | .flushLowInput => none
  | .postFlushReboot => none
  | .braceHoldoffEnd => none
  | .hotSwapTrip => none
  | .configure _ rill => some rill
  | .enable _ rill => some rill
  | .disable _ rill => some rill
  | .abort _ rill => some rill
  | .rillQuery _ rill => some rill
  | .doorbell _ _ => none
  | .rillCacheFill rill => some rill
  | .descriptorStart rill => some rill
  | .completionRecord rill _ => some rill
  | .drainComplete rill => some rill
  | .copy rill _ => some rill
  | .chunkLanded _ rill _ _ => some rill
  | .advance _ _ => none
  | .reachSet _ _ => none
  | .reachFrame _ _ => none
  | .tideMarker => none
  | .tideLoss => none
  | .runTable rill _ => some rill
  | .convert rill _ => some rill
  | .millReduce rill _ => some rill
  | .shoalEncode rill _ => some rill
  | .codebookBuild rill _ => some rill
  | .pieceComplete rill _ _ => some rill
  | .nop _ => none
  | .stepEnd _ => none
  | .setlc _ => none
  | .loopStep _ => none
  | .setf _ => none
  | .waitStep _ => none
  | .waitPoll _ _ => none
  | .fence _ => none
  | .salu _ => none
  | .sld _ => none
  | .ld _ => none
  | .st _ => none
  | .atom _ => none
  | .red _ => none
  | .mcast _ => none
  | .gather _ => none
  | .memoryStepLanded _ => none
  | .millProvisionalResolve _ => none
  | .vmov _ => none
  | .vcvt _ => none
  | .valu _ => none
  | .vdot _ => none
  | .vred _ => none
  | .vfn _ => none
  | .lubuild _ => none
  | .luscore _ => none
  | .lubin _ => none
  | .cqins _ => none
  | .cqpop _ => none
  | .cqout _ => none
  | .cqclr _ => none
  | .install _ _ => none
  | .release _ _ => none
  | .cbQuery _ _ => none
  | .codebookBaseWrite _ _ => none
  | .slotFreed _ => none
  | .expandBlock _ => none
  | .codebookMissFill _ _ => none
  | .eddyReadLine _ _ _ => none
  | .attend rill _ => some rill
  | .unitSpanComplete rill _ _ _ _ => some rill
  | .attnAdmit rill _ => some rill
  | .append rill _ => some rill
  | .retire rill _ => some rill
  | .buildBooks rill _ => some rill
  | .lookup rill _ => some rill
  | .update rill _ => some rill
  | .embedCommit rill _ => some rill
  | .piecePosted _ _ => none
  | .ownerCommit _ _ => none
  | .progressBeat _ _ => none
  | .reply _ _ => none
  | .searchQuery rill _ => some rill
  | .insert rill _ => some rill
  | .delete rill _ => some rill
  | .indexAdvance rill _ => some rill
  | .check rill _ => some rill
  | .mirrorBatchClose _ => none
  | .mirrorBatchAcked _ => none
  | .mirrorLinkDown _ => none
  | .mirrorLinkReturn _ => none
  | .lagExceeded _ _ => none
  | .ownerLost _ => none
  | .flr _ => none
  | .partyReset _ => none
  | .cxlReset _ => none
  | .hotReset _ => none
  | .registerWrite _ _ _ => none
  | .getInfo => none
  | .getLog _ => none
  | .getSeal _ => none
  | .diagRead _ => none
  | .clearAlert _ => none
  | .setLimit _ => none
  | .earlyFlush => none
  | .endBrace => none
  | .tideLoad _ => none
  | .clearFault => none
  | .shutdown => none
  | .warmReboot => none
  | .coldReboot => none
  | .powerOn => none
  | .commit => none
  | .revert => none
  | .commitDelayExpiry _ => none
  | .provisionKey _ _ _ _ => none
  | .lockInstall => none
  | .revokeKey _ _ => none
  | .sanitize _ => none
  | .setEndpointId _ => none
  | .requestUpdate _ => none
  | .verifyComplete _ => none
  | .activateFirmware => none
  | .keySweepComplete _ => none
  | .getVersion _ => none
  | .getCapabilities _ => none
  | .negotiateAlgorithms _ _ _ => none
  | .getDigests _ => none
  | .getCertificate _ _ _ _ => none
  | .challenge _ _ => none
  | .getMeasurements _ _ _ _ => none
  | .getSlhChain _ _ => none
  | .getSlhSig _ _ => none
  | .slhSignComplete _ _ => none
  | .keeperWatchdog => none
  | .sensorSample _ _ _ => none
  | .alarmShutdown => none
  | .condensationAlarm => none
  | .capWindow _ _ _ => none
  | .logWrite => none
  | .logSeal _ => none
  | .extest _ => none
  | .idcode => none
  | .samplePreload _ _ => none
  | .clamp => none
  | .highz => none
  | .extestPulse => none
  | .extestTrain => none
  | .linkTest _ => none
  | .bypass _ => none
  | .inject _ => none
  | .linkClear _ => none
  | .keeperRestart => none
  | .standbyLost => none
  | .offInputReturn => none
  | .braceDeassert => none
  | .flushUnitProgrammed _ => none
  | .cxlBiConflict _ _ _ => none
  | .hostPortLeavesL0 _ _ => none
  | .tideTick => none
  | .checkerLock _ => none
  | .respondIfReady _ => none
  | .spdmChunk _ _ _ _ => none
  | .spdmUnsupportedRequest _ _ => none
  | .mailboxCommand _ _ => none
  | .pcieDmaCompletion _ _ _ => none

end Sys2Proof
end

