-- ==== Sys2Proof/Safety.lean ====
section
/-!
DEFINITION. What the statements are written in: a command that completes, the parts of the state and which of them a command
may write (its frame), and the properties that every step keeps.
-/
namespace Sys2Proof.Safety

open Sys2Proof Sys2Proof.Machine

/-- The command answers a next state, and that state has the property. -/
def Completes (c : Instr) (s : State) (p : State → Prop) : Prop := ∃ t, exec c s = .next t ∧ p t

/-- The newest entry of the keeper's log buffer is this event, entered after what the buffer held. -/
def Logged (s t : State) (code arg0 arg1 : Nat) : Prop :=
  ∃ e, t.keeper.buf = s.keeper.buf ++ [e] ∧ e.code = code ∧ e.arg0 = arg0 ∧ e.arg1 = arg1

/-- The parts of the state. `memories` stands for a property and not for contents: backed space, the flash copies and the reserve
stay in canonical form. -/
inductive Part where
  | boot | pins | fuses | ident | nvLog | nvStore | hw | map | party | net | weirCtl | weirQ | store | flush | coh | sluice
  | keepLog | keeper | spdm | test | hosts | tide | rill | mills | shoal | attn | exch | out | freeCtr | pending
  | bytes | links | rillTable | slots | memories
  deriving DecidableEq, Repr

/-- Part `ident` of what survives a reset: slots, counters, keys and boot facts. -/
def identPart (n : NvSt) : NvSt := { n with
  fuses := {}, flash := [], flashSerial := [], flashPoison := [], durMap := [], reserve := {}, retiredRows := [], log := [], seals := []
  batch := [], chain := 0, batchPrev := 0, nextSeq := 0, lossOpen := false }

/-- Part `nvLog`: the keeper's log in flash. -/
def logPart (n : NvSt) : NvSt :=
  { log := n.log, seals := n.seals, batch := n.batch, chain := n.chain, batchPrev := n.batchPrev, nextSeq := n.nextSeq
    lossOpen := n.lossOpen }

/-- Part `nvStore`: the flash copies of backed space, the durable page map, the reserve and the retired rows. -/
def storePart (n : NvSt) : NvSt :=
  { flash := n.flash, flashSerial := n.flashSerial, flashPoison := n.flashPoison, durMap := n.durMap, reserve := n.reserve
    retiredRows := n.retiredRows }

/-- Part `weirCtl`: the core cycle and the weir tables. -/
def weirCtlPart (w : WeirSt) : WeirSt := { cycle := w.cycle, kind := w.kind, selected := w.selected, before := w.before }

/-- Part `weirQ`: the queues behind the weir. -/
def weirQPart (w : WeirSt) : WeirSt := { w with cycle := 0, kind := .full, selected := none, before := .full }

/-- Part `net`: queues, tags, combinations and caches of the ports; part `links` is its links and the state of its ports. -/
def netPart (n : NetSt) : NetSt := { n with links := [], capWord := [], portDown := [], portDead := [] }

def linksPart (n : NetSt) : NetSt := { links := n.links, capWord := n.capWord, portDown := n.portDown, portDead := n.portDead }

/-- Part `store`: tier map, poison, frames and pins; part `bytes` is what backed space holds. -/
def tierPart (x : StoreSt) : StoreSt := { x with mem := [] }

/-- Part `rill`: jobs, firings, doorbells, tile buffers; part `rillTable` is the rill table. -/
def rillPart (r : RillGroup) : RillGroup := { r with table := [] }

/-- Part `shoal`: expanders and eddy queues; part `slots` is the codebook slots and their registers. -/
def shoalPart (x : ShoalSt) : ShoalSt := { x with slots := [], base := [], ctl := [] }

def slotsPart (x : ShoalSt) : ShoalSt := { slots := x.slots, base := x.base, ctl := x.ctl }

/-- Part `keepLog`: the keeper's log buffer, its held events, its alerts, and the levels and doubled refreshes behind them. -/
def keepLogPart (k : KeeperSt) : KeeperSt :=
  { buf := k.buf, fifo := k.fifo, lost := k.lost, alert := k.alert, levels := k.levels, doubleRefresh := k.doubleRefresh }

/-- Part `keeper`: everything else of the keeper. -/
def keeperPart (k : KeeperSt) : KeeperSt := { k with buf := [], fifo := [], lost := 0, alert := [], levels := [], doubleRefresh := [] }

/-- Backed space, the flash copies and the reserve are in canonical form. -/
def memoriesWf (s : State) : Prop := s.store.mem.wf = true ∧ s.nv.flash.wf = true ∧ s.nv.reserve.data.wf = true

/-- t has part g as s has it. -/
def Keeps (g : Part) (s t : State) : Prop :=
  match g with
  | .boot => t.boot = s.boot
  | .pins => t.pins = s.pins
  | .fuses => t.nv.fuses = s.nv.fuses
  | .ident => identPart t.nv = identPart s.nv
  | .nvLog => logPart t.nv = logPart s.nv
  | .nvStore => storePart t.nv = storePart s.nv
  | .hw => t.hw = s.hw
  | .map => t.map = s.map
  | .party => t.party = s.party
  | .net => netPart t.net = netPart s.net
  | .weirCtl => weirCtlPart t.weir = weirCtlPart s.weir
  | .weirQ => weirQPart t.weir = weirQPart s.weir
  | .store => tierPart t.store = tierPart s.store
  | .flush => t.flush = s.flush
  | .coh => t.coh = s.coh
  | .sluice => t.sluice = s.sluice
  | .keepLog => keepLogPart t.keeper = keepLogPart s.keeper
  | .keeper => keeperPart t.keeper = keeperPart s.keeper
  | .spdm => t.spdm = s.spdm
  | .test => t.test = s.test
  | .hosts => t.hosts = s.hosts
  | .tide => t.tide = s.tide
  | .rill => rillPart t.rill = rillPart s.rill
  | .mills => t.mills = s.mills
  | .shoal => shoalPart t.shoal = shoalPart s.shoal
  | .attn => t.attn = s.attn
  | .exch => t.exch = s.exch
  | .out => t.out = s.out
  | .freeCtr => t.freeCtr = s.freeCtr
  | .pending => t.pending = s.pending
  | .bytes => t.store.mem = s.store.mem
  | .links => linksPart t.net = linksPart s.net
  | .rillTable => t.rill.table = s.rill.table
  | .slots => slotsPart t.shoal = slotsPart s.shoal
  | .memories => memoriesWf s → memoriesWf t

/-- The parts that a command may write; it leaves every other part as it is. -/
def writes : Instr → List Part
  | .standbyGood _ => [.boot, .pins, .ident, .keepLog, .keeper]
  | .standbyRetry _ => [.boot, .pins, .ident, .keepLog, .keeper]
  | .firmwareCheck => [.boot, .ident, .keepLog]
  | .strapSampling _ _ => [.boot, .pins, .keepLog]
  | .headwaterCheck => [.boot, .ident, .hw, .keepLog, .keeper]
  | .mainRailsUp _ => [.boot, .pins, .keepLog]
  | .railRetry _ => [.boot, .pins, .keepLog]
  | .keyUnwrap => [.boot, .ident, .map, .keepLog, .freeCtr]
  | .dieRelease => [.boot, .pins, .ident, .map, .net, .coh, .sluice, .keepLog, .hosts]
  | .braidRunSettle => [.pins]
  | .dramTraining _ _ => [.boot, .pins, .ident, .store, .keepLog, .hosts, .links]
  | .flashScan _ _ => [.boot, .pins, .ident, .nvStore, .weirQ, .store, .flush, .sluice, .keepLog, .keeper, .hosts, .bytes, .links]
  | .spateRestore _ _ => [.boot, .ident, .nvStore, .map, .weirQ, .store, .flush, .keepLog, .keeper, .hosts, .bytes]
  | .reserveEraseComplete => [.boot, .nvStore]
  | .linkTraining _ _ _ _ => [.boot, .map, .keepLog, .out, .links]
  | .linkTrainRetry _ _ _ _ => [.links]
  | .helloFlit _ _ _ => [.net, .coh, .keepLog, .links]
  | .agreementStartTimeout => [.map, .out]
  | .hostLinkTrained _ _ _ => [.net, .coh, .keepLog, .hosts]
  | .perstDeassert _ => [.hosts]
  | .announce _ => [.nvStore, .map, .party, .net, .weirQ, .store, .coh, .sluice, .keepLog, .hosts, .rill, .mills, .attn, .exch, .out, .freeCtr, .bytes, .links, .slots]
  | .sliceReadComplete _ _ => [.ident, .map, .net, .coh, .keepLog]
  | .announceResend => [.out]
  | .sliceRedeliver _ => [.nvStore, .map, .party, .net, .weirQ, .store, .coh, .sluice, .keepLog, .hosts, .rill, .mills, .attn, .exch, .out, .freeCtr, .bytes, .links, .slots]
  | .agreementWindowEnd => [.boot, .ident, .map, .keepLog]
  | .flitSlot _ => [.party, .net, .weirQ, .out, .links]
  | .flitReceived _ _ => [.ident, .nvStore, .map, .party, .net, .weirQ, .store, .coh, .sluice, .keepLog, .hosts, .rill, .mills, .attn, .exch, .out, .freeCtr, .bytes, .links, .slots]
  | .nakTimeout _ => [.net, .links]
  | .ackTimeout _ => [.net, .links]
  | .retrainComplete _ => [.net, .weirQ, .links]
  | .retrainFailed _ => [.net, .weirQ, .keepLog, .links]
  | .linkRejoinRetry _ _ _ => [.links]
  | .laneFailure _ _ => [.net, .links]
  | .emptyFlitDue _ => [.net, .out, .links]
  | .tagHoldoverExpiry _ => [.net, .links]
  | .heldPageExpiry _ _ => [.keepLog, .links]
  | .holdRetry _ _ => [.net]
  | .rangeCacheFill _ _ _ _ => [.net, .store]
  | .extentCacheFill _ _ => [.net]
  | .weirSlot => [.ident, .nvStore, .party, .net, .weirCtl, .weirQ, .store, .sluice, .keepLog, .keeper, .rill, .shoal, .exch, .out, .slots]
  | .weirPeriodBoundary => [.pins, .ident, .nvStore, .party, .net, .weirCtl, .weirQ, .flush, .sluice, .keepLog, .rill, .exch, .out, .slots]
  | .combinationClose _ => [.party, .net, .weirQ, .out]
  | .load _ _ => [.ident, .nvStore, .map, .party, .net, .weirQ, .store, .coh, .sluice, .keepLog, .hosts, .rill, .mills, .shoal, .attn, .exch, .out, .freeCtr, .bytes, .links, .rillTable, .slots]
  | .store _ => [.ident, .nvStore, .map, .party, .net, .weirQ, .store, .coh, .sluice, .keepLog, .hosts, .rill, .mills, .shoal, .attn, .exch, .out, .freeCtr, .bytes, .links, .rillTable, .slots]
  | .atomic _ _ => [.ident, .nvStore, .map, .party, .net, .weirQ, .store, .coh, .sluice, .keepLog, .hosts, .rill, .mills, .shoal, .attn, .exch, .out, .freeCtr, .bytes, .links, .rillTable, .slots]
  | .reduce _ _ => [.ident, .nvStore, .map, .party, .net, .weirQ, .store, .coh, .sluice, .keepLog, .hosts, .rill, .mills, .shoal, .attn, .exch, .out, .freeCtr, .bytes, .links, .rillTable, .slots]
  | .mcastStore _ => [.ident, .nvStore, .map, .party, .net, .weirQ, .store, .coh, .sluice, .keepLog, .hosts, .rill, .mills, .shoal, .attn, .exch, .out, .freeCtr, .bytes, .links, .rillTable, .slots]
  | .confRead _ _ => [.ident, .nvStore, .map, .party, .net, .weirQ, .store, .coh, .sluice, .keepLog, .hosts, .rill, .mills, .shoal, .attn, .exch, .out, .freeCtr, .bytes, .links, .rillTable, .slots]
  | .confAtomic _ _ => [.ident, .nvStore, .map, .party, .net, .weirQ, .store, .coh, .sluice, .keepLog, .hosts, .rill, .mills, .shoal, .attn, .exch, .out, .freeCtr, .bytes, .links, .rillTable, .slots]
  | .sluicePut _ => [.ident, .nvStore, .map, .party, .net, .weirQ, .store, .coh, .sluice, .keepLog, .hosts, .rill, .mills, .shoal, .attn, .exch, .out, .freeCtr, .bytes, .links, .rillTable, .slots]
  | .sluiceGet _ _ => [.ident, .nvStore, .map, .party, .net, .weirQ, .store, .coh, .sluice, .keepLog, .hosts, .rill, .mills, .shoal, .attn, .exch, .out, .freeCtr, .bytes, .links, .rillTable, .slots]
  | .sluiceFlushAge _ _ => [.ident, .party, .net, .weirQ, .sluice, .keepLog, .rill, .exch, .out]
  | .pinMsg _ => [.ident, .nvStore, .map, .party, .net, .weirQ, .store, .coh, .sluice, .keepLog, .hosts, .rill, .mills, .shoal, .attn, .exch, .out, .freeCtr, .bytes, .links, .rillTable, .slots]
  | .rdShared _ _ => [.ident, .nvStore, .map, .party, .net, .weirQ, .store, .coh, .sluice, .keepLog, .hosts, .rill, .mills, .shoal, .attn, .exch, .out, .freeCtr, .bytes, .links, .rillTable, .slots]
  | .rdOwn _ _ => [.ident, .nvStore, .map, .party, .net, .weirQ, .store, .coh, .sluice, .keepLog, .hosts, .rill, .mills, .shoal, .attn, .exch, .out, .freeCtr, .bytes, .links, .rillTable, .slots]
  | .upgrade _ _ => [.ident, .nvStore, .map, .party, .net, .weirQ, .store, .coh, .sluice, .keepLog, .hosts, .rill, .mills, .shoal, .attn, .exch, .out, .freeCtr, .bytes, .links, .rillTable, .slots]
  | .markDirty _ => [.ident, .nvStore, .map, .party, .net, .weirQ, .store, .coh, .sluice, .keepLog, .hosts, .rill, .mills, .shoal, .attn, .exch, .out, .freeCtr, .bytes, .links, .rillTable, .slots]
  | .wbDirty _ => [.ident, .nvStore, .map, .party, .net, .weirQ, .store, .coh, .sluice, .keepLog, .hosts, .rill, .mills, .shoal, .attn, .exch, .out, .freeCtr, .bytes, .links, .rillTable, .slots]
  | .evict _ => [.ident, .nvStore, .map, .party, .net, .weirQ, .store, .coh, .sluice, .keepLog, .hosts, .rill, .mills, .shoal, .attn, .exch, .out, .freeCtr, .bytes, .links, .rillTable, .slots]
  | .snpInv _ => [.ident, .nvStore, .party, .net, .weirQ, .store, .coh, .sluice, .keepLog, .hosts, .rill, .exch, .out, .freeCtr, .bytes, .links]
  | .snpData _ => [.ident, .nvStore, .party, .net, .weirQ, .store, .coh, .sluice, .keepLog, .hosts, .rill, .exch, .out, .freeCtr, .bytes, .links]
  | .snpCur _ => [.ident, .nvStore, .party, .net, .weirQ, .store, .coh, .sluice, .keepLog, .hosts, .rill, .exch, .out, .freeCtr, .bytes, .links]
  | .snpRsp _ => [.ident, .nvStore, .party, .net, .weirQ, .store, .coh, .sluice, .keepLog, .hosts, .rill, .exch, .out, .freeCtr, .bytes, .links]
  | .domainNotice _ => [.ident, .party, .net, .weirQ, .store, .coh, .sluice, .keepLog, .rill, .exch, .out, .links]
  | .cxlMemRd _ _ _ _ => [.party, .net, .weirQ, .store, .out]
  | .cxlMemWr _ _ _ _ _ => [.party, .net, .weirQ, .store, .out]
  | .cxlMemClnEvct _ _ _ => [.party, .net, .weirQ, .store, .out]
  | .cxlBiRsp _ _ _ => [.ident, .nvStore, .party, .net, .weirQ, .store, .coh, .sluice, .keepLog, .hosts, .rill, .exch, .out, .freeCtr, .bytes, .links]
  | .provisionalResolve _ _ => [.ident, .nvStore, .party, .net, .weirQ, .store, .coh, .sluice, .keepLog, .hosts, .rill, .exch, .out, .freeCtr, .bytes, .links]
  | .evictionComplete _ => [.ident, .nvStore, .party, .net, .weirQ, .store, .coh, .sluice, .keepLog, .hosts, .rill, .exch, .out, .freeCtr, .bytes, .links]
  | .snoopTimeout _ => [.ident, .party, .net, .weirQ, .store, .coh, .sluice, .keepLog, .rill, .exch, .out, .links]
  | .portDownTimeout _ => [.ident, .party, .net, .weirQ, .store, .coh, .sluice, .keepLog, .rill, .exch, .out, .links]
  | .hostL0Timeout _ => [.ident, .party, .net, .weirQ, .store, .coh, .sluice, .keepLog, .hosts, .rill, .exch, .out, .links]
  | .cxlViral _ => [.ident, .party, .net, .weirQ, .store, .coh, .sluice, .keepLog, .hosts, .rill, .exch, .out, .links]
  | .takedownComplete _ => [.weirQ, .store, .coh, .keepLog, .rill, .shoal, .slots]
  | .noticeResend => [.net, .coh]
  | .domainRejoin _ _ => [.net, .coh, .keepLog, .hosts]
  | .mirrorSync _ _ => [.party, .store, .keepLog]
  | .syncCheckComplete _ => [.party]
  | .syncDrained _ => [.party]
  | .teardown => [.map, .party, .net, .weirQ, .rill, .shoal, .out, .slots]
  | .teardownComplete => [.boot, .pins, .ident, .nvLog, .nvStore, .map, .party, .net, .weirCtl, .weirQ, .store, .flush, .coh, .sluice, .keepLog, .keeper, .spdm, .test, .hosts, .rill, .mills, .shoal, .attn, .exch, .out, .freeCtr, .bytes, .links, .rillTable, .slots]
  | .demandFillComplete _ _ _ => [.ident, .party, .net, .weirQ, .store, .coh, .sluice, .keepLog, .hosts, .rill, .shoal, .exch, .out, .rillTable, .slots]
  | .tierMoveComplete _ _ => [.ident, .nvStore, .party, .net, .weirQ, .store, .coh, .sluice, .keepLog, .hosts, .rill, .shoal, .exch, .out, .freeCtr, .rillTable, .slots]
  | .steer _ => [.net, .weirQ, .store]
  | .counterEpoch => [.store]
  | .scrub _ => [.nvStore, .party, .net, .weirQ, .store, .keepLog, .out, .freeCtr]
  | .cleanWater _ => [.weirQ]
  | .parkedWriteRelease _ => [.ident, .nvStore, .party, .net, .weirQ, .store, .coh, .sluice, .keepLog, .hosts, .rill, .exch, .out, .freeCtr, .bytes, .links, .slots]
  | .writeThroughProgrammed _ => [.ident, .nvStore, .party, .net, .weirQ, .store, .coh, .sluice, .keepLog, .hosts, .rill, .exch, .out, .freeCtr, .bytes, .links, .slots]
  | .pfwAssert => [.boot, .pins, .nvLog, .map, .flush, .keepLog, .keeper]
  | .inputSag => [.pins]
  | .inputRecovered => [.boot, .pins, .ident, .map, .party, .net, .weirCtl, .weirQ, .store, .flush, .coh, .sluice, .keepLog, .keeper, .spdm, .test, .hosts, .rill, .mills, .shoal, .attn, .exch, .bytes, .links, .rillTable, .slots]
  | .braceAssert => [.pins, .flush, .keepLog]
  | .shockSample _ _ _ => [.flush, .keepLog, .keeper]
  | .serdesOff => [.pins, .nvStore, .flush, .hosts, .shoal, .links, .slots]
  | .flushDone => [.boot, .pins, .nvStore, .keepLog]
  | .earlyFlushComplete => [.boot, .pins, .ident, .nvLog, .nvStore, .map, .party, .net, .weirCtl, .weirQ, .store, .flush, .coh, .sluice, .keepLog, .keeper, .spdm, .test, .hosts, .rill, .mills, .shoal, .attn, .exch, .bytes, .links, .rillTable, .slots]
  | .flushLowInput => [.pins, .nvStore, .flush]
  | .postFlushReboot => [.boot, .pins, .ident, .map, .party, .net, .weirCtl, .weirQ, .store, .flush, .coh, .sluice, .keepLog, .keeper, .spdm, .test, .hosts, .rill, .mills, .shoal, .attn, .exch, .bytes, .links, .rillTable, .slots]
  | .braceHoldoffEnd => [.flush, .keepLog]
  | .hotSwapTrip => [.boot, .pins, .nvLog, .nvStore, .map, .party, .net, .weirCtl, .weirQ, .store, .flush, .coh, .sluice, .keepLog, .keeper, .spdm, .test, .hosts, .tide, .rill, .mills, .shoal, .attn, .exch, .bytes, .links, .rillTable, .slots]
  | .configure _ _ => [.nvStore, .party, .net, .weirQ, .store, .coh, .sluice, .keepLog, .hosts, .rill, .mills, .shoal, .attn, .exch, .out, .freeCtr, .bytes, .links, .rillTable, .slots]
  | .enable _ _ => [.nvStore, .party, .net, .weirQ, .store, .coh, .sluice, .keepLog, .hosts, .rill, .mills, .shoal, .attn, .exch, .out, .freeCtr, .bytes, .links, .rillTable, .slots]
  | .disable _ _ => [.nvStore, .party, .net, .weirQ, .store, .coh, .sluice, .keepLog, .hosts, .rill, .mills, .shoal, .attn, .exch, .out, .freeCtr, .bytes, .links, .rillTable, .slots]
  | .abort _ _ => [.nvStore, .party, .net, .weirQ, .store, .coh, .sluice, .keepLog, .hosts, .rill, .mills, .shoal, .attn, .exch, .out, .freeCtr, .bytes, .links, .rillTable, .slots]
  | .rillQuery _ _ => [.nvStore, .party, .net, .weirQ, .store, .coh, .sluice, .keepLog, .hosts, .rill, .mills, .shoal, .attn, .exch, .out, .freeCtr, .bytes, .links, .rillTable, .slots]
  | .doorbell _ _ => [.keepLog, .rill, .rillTable]
  | .rillCacheFill _ => [.nvStore, .party, .net, .weirQ, .store, .coh, .sluice, .keepLog, .hosts, .rill, .mills, .shoal, .attn, .exch, .out, .freeCtr, .bytes, .links, .rillTable, .slots]
  | .descriptorStart _ => [.nvStore, .party, .net, .weirQ, .store, .coh, .sluice, .keepLog, .hosts, .rill, .mills, .attn, .exch, .out, .freeCtr, .bytes, .links, .rillTable, .slots]
  | .completionRecord _ _ => [.nvStore, .party, .net, .weirQ, .store, .coh, .sluice, .keepLog, .hosts, .rill, .mills, .attn, .exch, .out, .freeCtr, .bytes, .links, .rillTable, .slots]
  | .drainComplete _ => [.nvStore, .party, .net, .weirQ, .store, .coh, .sluice, .keepLog, .hosts, .rill, .mills, .attn, .exch, .out, .freeCtr, .bytes, .links, .rillTable, .slots]
  | .copy _ _ => [.nvStore, .party, .net, .weirQ, .store, .coh, .sluice, .keepLog, .hosts, .rill, .mills, .shoal, .attn, .exch, .out, .freeCtr, .bytes, .links, .slots]
  | .chunkLanded _ _ _ _ => [.nvStore, .party, .net, .weirQ, .store, .coh, .sluice, .keepLog, .hosts, .rill, .mills, .shoal, .attn, .exch, .out, .freeCtr, .bytes, .links, .rillTable, .slots]
  | .advance _ _ => [.party, .net, .weirQ, .store, .keepLog, .rill, .shoal, .out, .freeCtr, .rillTable, .slots]
  | .reachSet _ _ => [.party, .net, .weirQ, .store, .keepLog, .rill, .shoal, .out, .freeCtr, .rillTable, .slots]
  | .reachFrame _ _ => [.party, .net, .weirQ, .store, .keepLog, .keeper, .rill, .shoal, .out, .freeCtr, .rillTable, .slots]
  | .tideMarker => [.keepLog, .tide]
  | .tideLoss => [.keepLog, .tide]
  | .runTable _ _ => [.nvStore, .party, .net, .weirQ, .store, .coh, .sluice, .keepLog, .hosts, .rill, .mills, .attn, .exch, .out, .freeCtr, .bytes, .links, .slots]
  | .convert _ _ => [.nvStore, .party, .net, .weirQ, .store, .coh, .sluice, .keepLog, .hosts, .rill, .mills, .shoal, .attn, .exch, .out, .freeCtr, .bytes, .links, .slots]
  | .millReduce _ _ => [.nvStore, .party, .net, .weirQ, .store, .coh, .sluice, .keepLog, .hosts, .rill, .mills, .shoal, .attn, .exch, .out, .freeCtr, .bytes, .links, .slots]
  | .shoalEncode _ _ => [.nvStore, .party, .net, .weirQ, .store, .coh, .sluice, .keepLog, .hosts, .rill, .mills, .shoal, .attn, .exch, .out, .freeCtr, .bytes, .links, .slots]
  | .codebookBuild _ _ => [.nvStore, .party, .net, .weirQ, .store, .coh, .sluice, .keepLog, .hosts, .rill, .mills, .shoal, .attn, .exch, .out, .freeCtr, .bytes, .links, .slots]
  | .pieceComplete _ _ _ => [.nvStore, .party, .net, .weirQ, .store, .coh, .sluice, .keepLog, .hosts, .rill, .mills, .shoal, .attn, .exch, .out, .freeCtr, .bytes, .links, .rillTable, .slots]
  | .nop _ => [.nvStore, .party, .net, .weirQ, .store, .coh, .sluice, .keepLog, .hosts, .rill, .mills, .attn, .exch, .out, .freeCtr, .bytes, .links, .slots]
  | .stepEnd _ => [.nvStore, .party, .net, .weirQ, .store, .coh, .sluice, .keepLog, .hosts, .rill, .mills, .attn, .exch, .out, .freeCtr, .bytes, .links, .slots]
  | .setlc _ => [.nvStore, .party, .net, .weirQ, .store, .coh, .sluice, .keepLog, .hosts, .rill, .mills, .attn, .exch, .out, .freeCtr, .bytes, .links, .slots]
  | .loopStep _ => [.nvStore, .party, .net, .weirQ, .store, .coh, .sluice, .keepLog, .hosts, .rill, .mills, .attn, .exch, .out, .freeCtr, .bytes, .links, .slots]
  | .setf _ => [.nvStore, .party, .net, .weirQ, .store, .coh, .sluice, .keepLog, .hosts, .rill, .mills, .attn, .exch, .out, .freeCtr, .bytes, .links, .slots]
  | .waitStep _ => [.nvStore, .party, .net, .weirQ, .store, .coh, .sluice, .keepLog, .hosts, .rill, .mills, .attn, .exch, .out, .freeCtr, .bytes, .links, .slots]
  | .waitPoll _ _ => [.party, .net, .weirQ, .store, .rill, .mills, .out]
  | .fence _ => [.nvStore, .party, .net, .weirQ, .store, .coh, .sluice, .keepLog, .hosts, .rill, .mills, .attn, .exch, .out, .freeCtr, .bytes, .links, .slots]
  | .salu _ => [.nvStore, .party, .net, .weirQ, .store, .coh, .sluice, .keepLog, .hosts, .rill, .mills, .attn, .exch, .out, .freeCtr, .bytes, .links, .slots]
  | .sld _ => [.nvStore, .party, .net, .weirQ, .store, .coh, .sluice, .keepLog, .hosts, .rill, .mills, .attn, .exch, .out, .freeCtr, .bytes, .links, .slots]
  | .ld _ => [.nvStore, .party, .net, .weirQ, .store, .coh, .sluice, .keepLog, .hosts, .rill, .mills, .attn, .exch, .out, .freeCtr, .bytes, .links, .slots]
  | .st _ => [.nvStore, .party, .net, .weirQ, .store, .coh, .sluice, .keepLog, .hosts, .rill, .mills, .attn, .exch, .out, .freeCtr, .bytes, .links, .slots]
  | .atom _ => [.nvStore, .party, .net, .weirQ, .store, .coh, .sluice, .keepLog, .hosts, .rill, .mills, .attn, .exch, .out, .freeCtr, .bytes, .links, .slots]
  | .red _ => [.nvStore, .party, .net, .weirQ, .store, .coh, .sluice, .keepLog, .hosts, .rill, .mills, .attn, .exch, .out, .freeCtr, .bytes, .links, .slots]
  | .mcast _ => [.nvStore, .party, .net, .weirQ, .store, .coh, .sluice, .keepLog, .hosts, .rill, .mills, .attn, .exch, .out, .freeCtr, .bytes, .links, .slots]
  | .gather _ => [.nvStore, .party, .net, .weirQ, .store, .coh, .sluice, .keepLog, .hosts, .rill, .mills, .attn, .exch, .out, .freeCtr, .bytes, .links, .slots]
  | .memoryStepLanded _ => [.nvStore, .party, .net, .weirQ, .store, .coh, .sluice, .keepLog, .hosts, .rill, .mills, .attn, .exch, .out, .freeCtr, .bytes, .links, .slots]
  | .millProvisionalResolve _ => [.nvStore, .party, .net, .weirQ, .store, .coh, .sluice, .keepLog, .hosts, .rill, .mills, .attn, .exch, .out, .freeCtr, .bytes, .links, .slots]
  | .vmov _ => [.nvStore, .party, .net, .weirQ, .store, .coh, .sluice, .keepLog, .hosts, .rill, .mills, .attn, .exch, .out, .freeCtr, .bytes, .links, .slots]
  | .vcvt _ => [.nvStore, .party, .net, .weirQ, .store, .coh, .sluice, .keepLog, .hosts, .rill, .mills, .attn, .exch, .out, .freeCtr, .bytes, .links, .slots]
  | .valu _ => [.nvStore, .party, .net, .weirQ, .store, .coh, .sluice, .keepLog, .hosts, .rill, .mills, .attn, .exch, .out, .freeCtr, .bytes, .links, .slots]
  | .vdot _ => [.nvStore, .party, .net, .weirQ, .store, .coh, .sluice, .keepLog, .hosts, .rill, .mills, .attn, .exch, .out, .freeCtr, .bytes, .links, .slots]
  | .vred _ => [.nvStore, .party, .net, .weirQ, .store, .coh, .sluice, .keepLog, .hosts, .rill, .mills, .attn, .exch, .out, .freeCtr, .bytes, .links, .slots]
  | .vfn _ => [.nvStore, .party, .net, .weirQ, .store, .coh, .sluice, .keepLog, .hosts, .rill, .mills, .attn, .exch, .out, .freeCtr, .bytes, .links, .slots]
  | .lubuild _ => [.nvStore, .party, .net, .weirQ, .store, .coh, .sluice, .keepLog, .hosts, .rill, .mills, .attn, .exch, .out, .freeCtr, .bytes, .links, .slots]
  | .luscore _ => [.nvStore, .party, .net, .weirQ, .store, .coh, .sluice, .keepLog, .hosts, .rill, .mills, .attn, .exch, .out, .freeCtr, .bytes, .links, .slots]
  | .lubin _ => [.nvStore, .party, .net, .weirQ, .store, .coh, .sluice, .keepLog, .hosts, .rill, .mills, .attn, .exch, .out, .freeCtr, .bytes, .links, .slots]
  | .cqins _ => [.nvStore, .party, .net, .weirQ, .store, .coh, .sluice, .keepLog, .hosts, .rill, .mills, .attn, .exch, .out, .freeCtr, .bytes, .links, .slots]
  | .cqpop _ => [.nvStore, .party, .net, .weirQ, .store, .coh, .sluice, .keepLog, .hosts, .rill, .mills, .attn, .exch, .out, .freeCtr, .bytes, .links, .slots]
  | .cqout _ => [.nvStore, .party, .net, .weirQ, .store, .coh, .sluice, .keepLog, .hosts, .rill, .mills, .attn, .exch, .out, .freeCtr, .bytes, .links, .slots]
  | .cqclr _ => [.nvStore, .party, .net, .weirQ, .store, .coh, .sluice, .keepLog, .hosts, .rill, .mills, .attn, .exch, .out, .freeCtr, .bytes, .links, .slots]
  | .install _ _ => [.nvStore, .party, .net, .weirQ, .store, .coh, .sluice, .keepLog, .hosts, .rill, .out, .freeCtr, .bytes, .links, .slots]
  | .release _ _ => [.nvStore, .party, .net, .weirQ, .store, .coh, .sluice, .keepLog, .hosts, .rill, .out, .freeCtr, .bytes, .links, .slots]
  | .cbQuery _ _ => [.nvStore, .party, .net, .weirQ, .store, .coh, .sluice, .keepLog, .hosts, .rill, .out, .freeCtr, .bytes, .links, .slots]
  | .codebookBaseWrite _ _ => [.keepLog, .slots]
  | .slotFreed _ => [.nvStore, .party, .net, .weirQ, .store, .coh, .sluice, .keepLog, .hosts, .rill, .shoal, .out, .freeCtr, .bytes, .links, .slots]
  | .expandBlock _ => [.shoal, .slots]
  | .codebookMissFill _ _ => [.rill, .shoal]
  | .eddyReadLine _ _ _ => [.party, .net, .weirQ, .store, .rill, .shoal, .out, .slots]
  | .attend _ _ => [.nvStore, .party, .net, .weirQ, .store, .coh, .sluice, .keepLog, .hosts, .rill, .mills, .attn, .exch, .out, .freeCtr, .bytes, .links, .slots]
  | .unitSpanComplete _ _ _ _ _ => [.nvStore, .party, .net, .weirQ, .store, .coh, .sluice, .keepLog, .hosts, .rill, .mills, .shoal, .attn, .exch, .out, .freeCtr, .bytes, .links, .slots]
  | .attnAdmit _ _ => [.nvStore, .party, .net, .weirQ, .store, .coh, .sluice, .keepLog, .hosts, .rill, .mills, .attn, .exch, .out, .freeCtr, .bytes, .links, .rillTable, .slots]
  | .append _ _ => [.nvStore, .party, .net, .weirQ, .store, .coh, .sluice, .keepLog, .hosts, .rill, .mills, .attn, .exch, .out, .freeCtr, .bytes, .links, .rillTable, .slots]
  | .retire _ _ => [.nvStore, .party, .net, .weirQ, .store, .coh, .sluice, .keepLog, .hosts, .rill, .mills, .attn, .exch, .out, .freeCtr, .bytes, .links, .rillTable, .slots]
  | .buildBooks _ _ => [.nvStore, .party, .net, .weirQ, .store, .coh, .sluice, .keepLog, .hosts, .rill, .mills, .attn, .exch, .out, .freeCtr, .bytes, .links, .slots]
  | .lookup _ _ => [.nvStore, .party, .net, .weirQ, .store, .coh, .sluice, .keepLog, .hosts, .rill, .mills, .attn, .exch, .out, .freeCtr, .bytes, .links, .slots]
  | .update _ _ => [.nvStore, .party, .net, .weirQ, .store, .coh, .sluice, .keepLog, .hosts, .rill, .mills, .attn, .exch, .out, .freeCtr, .bytes, .links, .slots]
  | .embedCommit _ _ => [.nvStore, .party, .net, .weirQ, .store, .coh, .sluice, .keepLog, .hosts, .rill, .mills, .attn, .exch, .out, .freeCtr, .bytes, .links, .slots]
  | .piecePosted _ _ => [.nvStore, .party, .net, .weirQ, .store, .coh, .sluice, .keepLog, .hosts, .rill, .mills, .attn, .exch, .out, .freeCtr, .bytes, .links, .slots]
  | .ownerCommit _ _ => [.nvStore, .party, .net, .weirQ, .store, .coh, .sluice, .keepLog, .hosts, .rill, .exch, .out, .freeCtr, .bytes, .links, .slots]
  | .progressBeat _ _ => [.party, .net, .weirQ, .rill, .exch, .out]
  | .reply _ _ => [.nvStore, .party, .net, .weirQ, .store, .coh, .sluice, .keepLog, .hosts, .rill, .mills, .attn, .exch, .out, .freeCtr, .bytes, .links, .slots]
  | .searchQuery _ _ => [.nvStore, .party, .net, .weirQ, .store, .coh, .sluice, .keepLog, .hosts, .rill, .mills, .attn, .exch, .out, .freeCtr, .bytes, .links, .slots]
  | .insert _ _ => [.nvStore, .party, .net, .weirQ, .store, .coh, .sluice, .keepLog, .hosts, .rill, .mills, .attn, .exch, .out, .freeCtr, .bytes, .links, .slots]
  | .delete _ _ => [.nvStore, .party, .net, .weirQ, .store, .coh, .sluice, .keepLog, .hosts, .rill, .mills, .attn, .exch, .out, .freeCtr, .bytes, .links, .slots]
  | .indexAdvance _ _ => [.nvStore, .party, .net, .weirQ, .store, .coh, .sluice, .keepLog, .hosts, .rill, .mills, .attn, .exch, .out, .freeCtr, .bytes, .links, .slots]
  | .check _ _ => [.nvStore, .party, .net, .weirQ, .store, .coh, .sluice, .keepLog, .hosts, .rill, .mills, .attn, .exch, .out, .freeCtr, .bytes, .links, .slots]
  | .mirrorBatchClose _ => [.weirQ, .sluice]
  | .mirrorBatchAcked _ => [.party, .net, .weirQ, .sluice, .out]
  | .mirrorLinkDown _ => [.weirQ, .sluice, .keepLog]
  | .mirrorLinkReturn _ => [.weirQ, .sluice]
  | .lagExceeded _ _ => [.sluice, .keepLog]
  | .ownerLost _ => [.nvStore, .map, .party, .net, .weirQ, .store, .coh, .sluice, .keepLog, .hosts, .rill, .mills, .attn, .exch, .out, .freeCtr, .bytes, .links, .slots]
  | .flr _ => [.nvStore, .party, .net, .weirQ, .store, .coh, .sluice, .keepLog, .hosts, .rill, .mills, .shoal, .attn, .exch, .out, .freeCtr, .bytes, .links, .rillTable, .slots]
  | .partyReset _ => [.nvStore, .party, .net, .weirQ, .store, .coh, .sluice, .keepLog, .hosts, .rill, .mills, .shoal, .attn, .exch, .out, .freeCtr, .bytes, .links, .rillTable, .slots]
  | .cxlReset _ => [.nvStore, .party, .net, .weirQ, .store, .coh, .sluice, .keepLog, .hosts, .rill, .mills, .shoal, .attn, .exch, .out, .freeCtr, .bytes, .links, .rillTable, .slots]
  | .hotReset _ => [.nvStore, .party, .net, .weirQ, .store, .coh, .sluice, .keepLog, .hosts, .rill, .mills, .shoal, .attn, .exch, .out, .freeCtr, .bytes, .links, .rillTable, .slots]
  | .registerWrite _ _ _ => [.nvStore, .map, .party, .net, .weirQ, .store, .coh, .sluice, .keepLog, .hosts, .rill, .mills, .shoal, .attn, .exch, .out, .freeCtr, .bytes, .links, .rillTable, .slots]
  | .getInfo => [.keepLog, .out, .freeCtr]
  | .getLog _ => [.keepLog, .out]
  | .getSeal _ => [.keepLog, .out]
  | .diagRead _ => [.keepLog, .shoal, .out, .freeCtr]
  | .clearAlert _ => [.keepLog, .out]
  | .setLimit _ => [.keepLog, .keeper, .out]
  | .earlyFlush => [.flush, .keepLog, .out]
  | .endBrace => [.flush, .keepLog, .out]
  | .tideLoad _ => [.keepLog, .tide, .out]
  | .clearFault => [.ident, .map, .keepLog, .out]
  | .shutdown => [.boot, .pins, .ident, .nvLog, .map, .party, .net, .weirCtl, .weirQ, .store, .flush, .coh, .sluice, .keepLog, .keeper, .spdm, .test, .hosts, .rill, .mills, .shoal, .attn, .exch, .out, .bytes, .links, .rillTable, .slots]
  | .warmReboot => [.boot, .pins, .ident, .nvLog, .map, .party, .net, .weirCtl, .weirQ, .store, .flush, .coh, .sluice, .keepLog, .keeper, .spdm, .test, .hosts, .rill, .mills, .shoal, .attn, .exch, .out, .bytes, .links, .rillTable, .slots]
  | .coldReboot => [.boot, .pins, .ident, .nvLog, .map, .party, .net, .weirCtl, .weirQ, .store, .flush, .coh, .sluice, .keepLog, .keeper, .spdm, .test, .hosts, .rill, .mills, .shoal, .attn, .exch, .out, .bytes, .links, .rillTable, .slots]
  | .powerOn => [.boot, .pins, .ident, .map, .party, .net, .weirCtl, .weirQ, .store, .flush, .coh, .sluice, .keepLog, .keeper, .spdm, .test, .hosts, .rill, .mills, .shoal, .attn, .exch, .out, .bytes, .links, .rillTable, .slots]
  | .commit => [.fuses, .ident, .keepLog, .out]
  | .revert => [.boot, .pins, .ident, .nvLog, .map, .party, .net, .weirCtl, .weirQ, .store, .flush, .coh, .sluice, .keepLog, .keeper, .spdm, .test, .hosts, .rill, .mills, .shoal, .attn, .exch, .out, .bytes, .links, .rillTable, .slots]
  | .commitDelayExpiry _ => [.fuses, .ident, .keepLog]
  | .provisionKey _ _ _ _ => [.fuses, .ident, .keepLog, .keeper, .out, .freeCtr]
  | .lockInstall => [.fuses, .keepLog, .out]
  | .revokeKey _ _ => [.fuses, .ident, .keepLog, .out]
  | .sanitize _ => [.ident, .keepLog, .out]
  | .setEndpointId _ => [.keeper]
  | .requestUpdate _ => [.ident, .keepLog, .keeper, .out]
  | .verifyComplete _ => [.ident, .keepLog, .keeper, .out]
  | .activateFirmware => [.boot, .pins, .ident, .nvLog, .map, .party, .net, .weirCtl, .weirQ, .store, .flush, .coh, .sluice, .keepLog, .keeper, .spdm, .test, .hosts, .rill, .mills, .shoal, .attn, .exch, .out, .bytes, .links, .rillTable, .slots]
  | .keySweepComplete _ => [.ident, .nvStore]
  | .getVersion _ => [.spdm, .out]
  | .getCapabilities _ => [.spdm, .out]
  | .negotiateAlgorithms _ _ _ => [.spdm, .out]
  | .getDigests _ => [.out]
  | .getCertificate _ _ _ _ => [.out]
  | .challenge _ _ => [.spdm, .out, .freeCtr]
  | .getMeasurements _ _ _ _ => [.spdm, .out, .freeCtr]
  | .getSlhChain _ _ => [.out]
  | .getSlhSig _ _ => [.spdm, .out]
  | .slhSignComplete _ _ => [.spdm]
  | .keeperWatchdog => [.keeper]
  | .sensorSample _ _ _ => [.flush, .keepLog, .keeper]
  | .alarmShutdown => [.boot, .pins, .nvLog, .nvStore, .map, .party, .net, .weirCtl, .weirQ, .store, .flush, .coh, .sluice, .keepLog, .keeper, .spdm, .test, .hosts, .rill, .mills, .shoal, .attn, .exch, .out, .bytes, .links, .rillTable, .slots]
  | .condensationAlarm => [.flush, .keepLog, .keeper]
  | .capWindow _ _ _ => [.weirCtl, .keepLog, .keeper]
  | .logWrite => [.nvLog, .keepLog]
  | .logSeal _ => [.nvLog, .keepLog]
  | .extest _ => [.test]
  | .idcode => [.test, .out]
  | .samplePreload _ _ => [.test, .out]
  | .clamp => [.test]
  | .highz => [.test]
  | .extestPulse => [.test]
  | .extestTrain => [.test]
  | .linkTest _ => [.test, .links]
  | .bypass _ => [.test]
  | .inject _ => [.test]
  | .linkClear _ => [.test, .links]
  | .keeperRestart => [.keepLog, .keeper]
  | .standbyLost => [.boot, .pins, .nvLog, .nvStore, .map, .party, .net, .weirCtl, .weirQ, .store, .flush, .coh, .sluice, .keepLog, .keeper, .spdm, .test, .hosts, .tide, .rill, .mills, .shoal, .attn, .exch, .bytes, .links, .rillTable, .slots]
  | .offInputReturn => [.boot, .pins, .ident, .map, .party, .net, .weirCtl, .weirQ, .store, .flush, .coh, .sluice, .keepLog, .keeper, .spdm, .test, .hosts, .rill, .mills, .shoal, .attn, .exch, .bytes, .links, .rillTable, .slots]
  | .braceDeassert => [.pins]
  | .flushUnitProgrammed _ => [.pins, .nvStore, .weirQ, .flush]
  | .cxlBiConflict _ _ _ => [.out]
  | .hostPortLeavesL0 _ _ => [.hosts]
  | .tideTick => [.keeper, .tide]
  | .checkerLock _ => [.test]
  | .respondIfReady _ => [.spdm, .out]
  | .spdmChunk _ _ _ _ => [.spdm, .out]
  | .spdmUnsupportedRequest _ _ => [.out]
  | .mailboxCommand _ _ => [.hosts, .out]
  | .pcieDmaCompletion _ _ _ => [.nvStore, .party, .net, .weirQ, .store, .coh, .sluice, .keepLog, .hosts, .rill, .mills, .shoal, .attn, .exch, .out, .freeCtr, .bytes, .links, .slots]

/-- A slot that holds a key digest: an empty slot may be burned, a burned one never changes. -/
def SlotKept (old new : List Nat) : Prop := old.length = new.length ∧ ∀ i, nth 0 old i ≠ 0 → nth 0 new i = nth 0 old i

/-- Bits that only ever go from clear to set. -/
def BitsKept (old new : List Bool) : Prop := old.length = new.length ∧ ∀ i, nth false old i = true → nth false new i = true

/-- A fuse once burned stays burned (R344, R345, R399): digests stay, SVNs never fall, revoke bits and locks stay set. -/
def FusesKept (f g : Fuses) : Prop :=
  g.uds = f.uds ∧ g.vendorKeys = f.vendorKeys ∧ SlotKept f.opKeys g.opKeys ∧ f.fwSvn ≤ g.fwSvn ∧ f.hwSvn ≤ g.hwSvn
  ∧ BitsKept f.opRevoke g.opRevoke ∧ BitsKept f.vendorRevoke g.vendorRevoke
  ∧ (f.installLock = true → g.installLock = true) ∧ (f.testLock = true → g.testLock = true)

end Sys2Proof.Safety
end

