-- ==== Sys2Proof/Certificates/Slice0/Obligations.lean ====
section
/-!
DEFINITION. The statements for the provers.
-/

open Sys2Proof Sys2Proof.Machine Sys2Proof.Safety

/-- For every command c and every state s whose queue is c followed by rest, a step of s is exec of c at s with the queue rest; on an empty queue a step answers the same state (the model's choice, log entry 3). -/
def Obligations.StepRunsTheFrontCommand : Prop :=
  (∀ (c : Instr) (rest : List Instr) (s : State), s.pending = c :: rest → step s = exec c { s with pending := rest })
  ∧ ∀ s : State, s.pending = [] → step s = .next s

/-- For every command c, if exec of c answers t then every part of the state that the table writes does not name for c is in t as it was: boot state, pins, fuses, what survives a reset, log, flash copies, headwater image, pool map, party pages, links, queues, weir, backed space byte for byte, tiers, flush, coherence, sluices, keeper, SPDM, test, hosts, tide, rill table, rills, mills, codebook slots, expanders, attention, exchange, outputs; the queue of waiting commands is never changed. -/
def Obligations.CommandsWriteOnlyTheirParts : Prop :=
  ∀ (c : Instr) (s t : State) (g : Part), exec c s = .next t → g ∉ writes c → Keeps g s t

/-- For every command c and every state s, exec of c at s answers a next state, and that state has the queue of waiting commands that s has: a failing request or command ends with a status, a log entry, an alert or a reset, and the machine goes on. -/
def Obligations.EveryCommandCompletes : Prop := ∀ (c : Instr) (s : State), Completes c s (fun t => t.pending = s.pending)

/-- Invariant: the byte lists that hold backed space, the flash copies of backed space and the spate reserve have strictly rising addresses and list no zero byte (an unlisted byte reads zero, R338). For every state with it, whatever step answers has it, whichever of the 261 commands is at the front. -/
def Obligations.EveryStepKeepsMemoriesCanonical : Prop := ∀ s t : State, memoriesWf s → step s = .next t → memoriesWf t

/-- State.reset has its memories in canonical form with every byte reading zero, no waiting command, nothing booted, the die in reset, no rail up, the run and flush pins low, and not READY. -/
def Obligations.ResetMemoriesAreCanonical : Prop :=
  memoriesWf State.reset ∧ (∀ a, State.reset.store.mem.read a = 0#8) ∧ State.reset.pending = []
  ∧ State.reset.boot.phase = .waitStandby ∧ State.reset.boot.ready = false ∧ State.reset.pins.dieReset = true
  ∧ State.reset.pins.standby = false ∧ State.reset.pins.mainRails = false ∧ State.reset.pins.braidRun = false
  ∧ State.reset.pins.braidSpate = false

/-- For every state and whatever a step answers: the device secret and the vendor digests are unchanged, an operator digest slot that holds a digest keeps it, FW_SVN and HEADWATER_SVN never fall, and every revoke bit, the install lock and the test lock stay set once set. -/
def Obligations.EveryStepKeepsBurnedFuses : Prop := ∀ s t : State, step s = .next t → FusesKept s.nv.fuses t.nv.fuses

/-- If the command at the front of the queue is not HEADWATER_CHECK, a step leaves the headwater image in force as it was (RWL: written by the boot chain alone); and when it is HEADWATER_CHECK the image changes only while the boot awaits step 4. -/
def Obligations.OnlyHeadwaterCheckChangesTheImage : Prop :=
  ∀ s t : State, step s = .next t → ((∀ rest, s.pending ≠ .headwaterCheck :: rest) ∨ s.boot.phase ≠ .awaiting 4) → t.hw = s.hw

/-- A boot step completed: the STEP of BOOT_STATUS is n, and BOOT_STEP is logged with the time (R356, Table 16-10). -/
def StepDone (n : Nat) (s t : State) : Prop := t.boot.step = n ∧ Logged s t 0x0101 n s.keeper.mono

/-- At the steps that wait for them: a good standby rail starts the keeper, counts a boot and leaves the boot before step 2 with step 1 logged; one that is not good is retried, nothing else changing. Good main rails end step 5 with step 5 logged; rails that are not good go off for one retry, after which the boot stops in reset with CAUSE RAIL (2), logged. -/
def Obligations.RailsUpStartTheBoot : Prop :=
  (∀ s : State, (s.boot.phase = .waitStandby ∨ s.boot.phase = .noPower) →
    Completes (.standbyGood true) s (fun t => t.pins.standby = true ∧ t.keeper.up = true ∧ t.boot.phase = .awaiting 2 ∧ StepDone 1 s t
      ∧ t.nv.bootNumber = (s.nv.bootNumber + 1) % 2 ^ 32)
    ∧ Completes (.standbyGood false) s (fun t => t.boot.phase = .standbyRetry ∧ t.pins = s.pins ∧ t.keeper = s.keeper ∧ t.nv = s.nv))
  ∧ (∀ s : State, s.boot.phase = .standbyRetry →
    Completes (.standbyRetry true) s (fun t => t.pins.standby = true ∧ t.keeper.up = true ∧ t.boot.phase = .awaiting 2 ∧ StepDone 1 s t)
    ∧ Completes (.standbyRetry false) s (fun t => t.boot.phase = .standbyRetry ∧ t.pins = s.pins ∧ t.keeper = s.keeper ∧ t.nv = s.nv))
  ∧ (∀ s : State, s.boot.phase = .awaiting 5 → s.keeper.up = true →
    Completes (.mainRailsUp true) s (fun t => t.pins.mainRails = true ∧ t.boot.phase = .awaiting 6 ∧ StepDone 5 s t)
    ∧ Completes (.mainRailsUp false) s (fun t => t.pins.mainRails = false ∧ t.boot.phase = .railRetry ∧ t.boot.step = s.boot.step))
  ∧ (∀ s : State, s.boot.phase = .railRetry → s.keeper.up = true →
    Completes (.railRetry true) s (fun t => t.pins.mainRails = true ∧ t.boot.phase = .awaiting 6 ∧ StepDone 5 s t)
    ∧ Completes (.railRetry false) s (fun t => t.pins.mainRails = false ∧ t.boot.phase = .failedReset ∧ t.boot.cause = 2 ∧ Logged s t 0x0102 5 2))

/-- FIRMWARE_CHECK at step 2: where the slot that NEXT names holds an image of a triable state, not at its third TRIAL boot, signed under an unrevoked vendor pair, with its SVN between the fuse counter and 64, it boots; where neither slot holds an image, ROM recovery. STRAP_SAMPLING: the first of at most four rounds whose eight samples agree gives RACK_POS, and TEST_MODE# low enters board test mode; four rounds without agreement stop the boot in reset with CAUSE 1. HEADWATER_CHECK at step 4: without an operator key nothing is loaded; else the image of the NEXT slot that fails no check becomes the image in force. -/
def Obligations.StrapsAndImagesBoot : Prop :=
  (∀ (s : State) (f : Firmware) (v : Nat), s.boot.phase = .awaiting 2 → s.keeper.up = true → fwImage s s.nv.fwRec.next = some f →
    slotTriable s compFirmware s.nv.fwRec.next = true → thirdBoot s compFirmware s.nv.fwRec.next = false →
    (v, false) ∈ s.nv.fuses.vendorKeys.zip s.nv.fuses.vendorRevoke → v ≠ 0 → v ∈ f.rsaKeys → v ∈ f.slhKeys →
    s.nv.fuses.fwSvn ≤ f.svn → f.svn ≤ 64 →
    Completes .firmwareCheck s (fun t => t.boot.firmware = f ∧ t.boot.fwSlot = s.nv.fwRec.next ∧ t.boot.phase = .awaiting 3 ∧ t.boot.step = 2))
  ∧ (∀ s : State, s.boot.phase = .awaiting 2 → s.nv.fwA = none → s.nv.fwB = none →
    Completes .firmwareCheck s (fun t => t.boot.phase = .romRecovery ∧ t.nv = s.nv))
  ∧ (∀ (s : State) (early late : List (List (BitVec 8))) (v : BitVec 8) (low : Bool), s.boot.phase = .awaiting 3 → early.length < 4 →
    (∀ r ∈ early, ∀ x, r ≠ List.replicate 8 x) →
    Completes (.strapSampling (early ++ List.replicate 8 v :: late) low) s (fun t => t.boot.rackPos = v.toNat ∧ t.boot.step = 3
      ∧ t.boot.phase = (if low then .boardTest else .awaiting 4) ∧ t.boot.testStrap = low ∧ t.pins.mainRails = (low || s.pins.mainRails)))
  ∧ (∀ (s : State) (rounds : List (List (BitVec 8))) (low : Bool), s.boot.phase = .awaiting 3 →
    (∀ r ∈ rounds.take 4, ∀ x, r ≠ List.replicate 8 x) →
    Completes (.strapSampling rounds low) s (fun t => t.boot.phase = .failedReset ∧ t.boot.cause = 1 ∧ t.boot.rackPos = s.boot.rackPos))
  ∧ (∀ s : State, s.boot.phase = .awaiting 4 → (∀ k ∈ s.nv.fuses.opKeys, k = 0) →
    Completes .headwaterCheck s (fun t => t.boot.phase = .noOperator ∧ t.hw = s.hw))
  ∧ (∀ (s : State) (h : Headwater) (k : Nat), s.boot.phase = .awaiting 4 → k ∈ s.nv.fuses.opKeys → k ≠ 0 →
    hwImage s s.nv.hwRec.next = some h → slotTriable s compHeadwater s.nv.hwRec.next = true →
    thirdBoot s compHeadwater s.nv.hwRec.next = false → headwaterCause s h = none →
    Completes .headwaterCheck s (fun t => t.hw = h ∧ t.boot.hwSlot = s.nv.hwRec.next ∧ t.keeper.limitW = h.settings.limitW
      ∧ t.boot.step = 4 ∧ t.boot.phase = .awaiting (if s.boot.warm then 6 else 5)))

/-- KEY_UNWRAP at step 6 always ends with step 7 awaited and STEP 6. Nothing staged to be sanitized and a good blob: where the one with the higher write count holds a key of every partition of the composition and of no other, those keys are the keys in the slots and step 6 is logged; in general every key of it whose partition the composition names is kept, every partition named has a key unless it is left uncreated for want of a serial, and no other partition has one unless a reserve waits to be restored. With neither copy good, KEY_LOST and then step 6 are logged, CAUSE is 6 and every key but the device's is gone. With a sanitize staged, every serial of the blob's keys is in the sweep and no key in the slots has one of a sweep. DIE_RELEASE at step 7: the die leaves reset, the run pin rises, the Ezlet SerDes are on, the pool map is this node, step 8 is awaited, STEP is 7; with no record of an AGREED generation, or one that is not newer or far, CAUSE stays and MAP_STATE stays unless keys or manifest are lost; an image older than, or far from, the recorded generation sets CAUSE 5, and such a node, and one whose keys or manifest are lost, is an ISLAND. BRAID_RUN_SETTLE drives ALERT# and samples the inputs where the run pin is high. Given when the boot does not wait for them, the three change nothing. -/
def Obligations.KeysAndDieRelease : Prop :=
  (∀ s : State, s.boot.phase = .awaiting 6 → Completes .keyUnwrap s (fun t => t.boot.phase = .awaiting 7 ∧ t.boot.step = 6 ∧ t.pins = s.pins))
  ∧ (∀ (s : State) (b : Blob), s.boot.phase = .awaiting 6 → s.nv.sanitize = false → goodBlob s = some b →
    Completes .keyUnwrap s (fun t => t.map = s.map ∧ t.boot.cause = s.boot.cause
      ∧ (∀ p ∈ partitions s, (∃ k, Tbl.find t.boot.keys p = some k) ∨ p ∈ t.boot.uncreated)
      ∧ (∀ p ∈ partitions s, ∀ k, Tbl.find b.keys p = some k → Tbl.find t.boot.keys p = some k)
      ∧ (s.nv.reserve.present = false ∨ s.nv.reserve.committed = true → ∀ k ∈ t.boot.keys, k.1 ∈ partitions s)
      ∧ (s.keeper.up = true → (∀ p ∈ partitions s, ∃ k, Tbl.find b.keys p = some k) → (∀ k ∈ b.keys, k.1 ∈ partitions s) →
          t.boot.keys = b.keys ∧ t.boot.keyBits = b.bits ∧ t.nv = s.nv ∧ StepDone 6 s t)))
  ∧ (∀ s : State, s.boot.phase = .awaiting 6 → s.nv.sanitize = false → goodBlob s = none →
    Completes .keyUnwrap s (fun t => (∀ k, k ∈ t.boot.keys ↔ k ∈ s.nv.blobA.keys ∧ k.1 = 0) ∧ t.boot.cause = 6 ∧ t.map = { s.map with lostKeys := true } ∧ t.nv = s.nv
      ∧ (s.keeper.up = true → ∃ e f, t.keeper.buf = s.keeper.buf ++ [e, f] ∧ e.code = 0x0704 ∧ f.code = 0x0101 ∧ f.arg0 = 6)))
  ∧ (∀ s : State, s.boot.phase = .awaiting 6 → s.nv.sanitize = true →
    Completes .keyUnwrap s (fun t => t.nv.sanitize = false ∧ t.map = s.map
      ∧ (∀ p k, Tbl.find ((goodBlob s).getD s.nv.blobA).keys p = some k → k ∈ t.nv.sweeping) ∧ ∀ x ∈ t.boot.keys, x.2 ∉ t.nv.sweeping))
  ∧ (∀ s : State, s.boot.phase = .awaiting 7 →
    Completes .dieRelease s (fun t => t.pins = { s.pins with dieReset := false, braidRun := true, serdes := true } ∧ t.map.pool = [s.node]
      ∧ t.boot.phase = .released ∧ t.boot.memAwait = 8 ∧ t.boot.step = 7 ∧ t.boot.keys = s.boot.keys
      ∧ ((∀ g, s.nv.genRecord = some g → serCmp 16 s.hw.compGen g ≠ .older ∧ serCmp 16 s.hw.compGen g ≠ .far) →
          t.boot.cause = s.boot.cause ∧ (forcedIsland s = false → t.map.state = s.map.state))
      ∧ (forcedIsland s = true → t.map.state = .island)
      ∧ ∀ g, s.nv.genRecord = some g → (serCmp 16 s.hw.compGen g = .older ∨ serCmp 16 s.hw.compGen g = .far) →
          t.boot.cause = 5 ∧ t.map.state = .island))
  ∧ (∀ s : State, (s.pins.braidRun = true → Completes .braidRunSettle s (fun t => t = { s with pins := { s.pins with alertDriven := true, inputsOn := true } }))
    ∧ (s.pins.braidRun = false → Completes .braidRunSettle s (fun t => t = s)))
  ∧ ∀ s : State, (s.boot.phase ≠ .awaiting 6 → Completes .keyUnwrap s (fun t => t = s)) ∧ (s.boot.phase ≠ .awaiting 7 → Completes .dieRelease s (fun t => t = s))

/-- DRAM_TRAINING when step 8 is awaited: trained channels end step 8; one that fails (on a cold boot) stops the boot released with CAUSE 3, the Ezlet SerDes off. FLASH_SCAN when step 9 is awaited: an unreadable flash map stops the boot with CAUSE 4; else every byte of backed space is what its unit of flash deciphers to under its partition's key where the unit was written under that key, else zero, and the node is READY unless a reserve waits to be restored, when step 10 is awaited. SPATE_RESTORE when step 10 is awaited, of a complete manifest that lists each unit once and of which every unit was programmed and none is bad, its units admitted and granted the flash gate: each byte of a listed unit is what the reserve's unit deciphers to where that was programmed under the partition's present key, else zero, every other byte is as it was, the reserve is committed, its erase begins and the node is READY. RESERVE_ERASE_COMPLETE ends the erase with the reserve empty. -/
def Obligations.MemoryAfterABoot : Prop :=
  (∀ (s : State) (good : Bool), s.boot.phase = .released → s.boot.memAwait = 8 → s.keeper.up = true →
    Completes (.dramTraining none good) s (fun t => t.boot.memAwait = 9 ∧ StepDone 8 s t ∧ t.pins = s.pins)
    ∧ ∀ (r : Fin 8) (c : Fin 64), s.boot.warm = false →
      Completes (.dramTraining (some (r, c)) good) s (fun t => t.boot.phase = .failedReleased ∧ t.boot.cause = 3
        ∧ t.boot.badChannel = some (r.val, c.val) ∧ t.pins.serdes = false ∧ alertBootFailed ∈ t.keeper.alert))
  ∧ (∀ (s : State) (rebuilt : List (Fin 32 × Nat × Nat)), s.boot.phase = .released → s.boot.memAwait = 9 →
    Completes (.flashScan false rebuilt) s (fun t => t.boot.phase = .failedReleased ∧ t.boot.cause = 4 ∧ t.store = s.store)
    ∧ Completes (.flashScan true rebuilt) s (fun t =>
        (∀ a, t.store.mem.read a = if unitCurrent s (a / 4096) then nth 0#8 (plainUnit s s.nv.flash (a / 4096)) (a % 4096) else 0#8)
        ∧ (s.nv.reserve.present = false → t.boot.ready = true ∧ t.boot.erasing = false)
        ∧ (s.nv.reserve.present = true → s.nv.reserve.committed = false → t.boot.memAwait = 10 ∧ t.boot.ready = s.boot.ready)))
  ∧ (∀ s : State, s.boot.phase = .released → s.boot.memAwait = 10 → s.nv.reserve.complete = true → s.nv.reserve.manifest.Nodup →
    (∀ u ∈ s.nv.reserve.manifest, u ∈ s.nv.reserve.units ∧ isOn s (.restore u) = true) → s.store.mem.wf = true → s.nv.reserve.data.wf = true →
    Completes (.spateRestore [] true) s (fun t =>
      (∀ a, t.store.mem.read a = if a / 4096 ∈ s.nv.reserve.manifest then
          (if Tbl.find s.nv.reserve.serials (a / 4096) = Tbl.find s.boot.keys (poolOf s (a / 4096 * 4096)) then
            nth 0#8 (plainUnit s s.nv.reserve.data (a / 4096)) (a % 4096) else 0#8)
        else s.store.mem.read a)
      ∧ t.nv.reserve = { present := true, committed := true } ∧ t.boot.ready = true ∧ t.boot.erasing = true ∧ t.boot.restored = true))
  ∧ ∀ s : State, s.boot.erasing = true →
    Completes .reserveEraseComplete s (fun t => t.boot.erasing = false ∧ t.nv.reserve = {} ∧ t.store = s.store)

/-- A link trained afresh: it waits for the peer's hello flit, its SEQ state from the start (R422). -/
def FreshLink (k : Link) : Prop :=
  k.mode = .helloWait ∧ k.helloSent = false ∧ k.helloGot = false ∧ k.retryDue = false ∧ k.txSeq = 4095 ∧ k.rxSeq = 4095
  ∧ k.peerAck = 4095 ∧ k.kept = [] ∧ k.replayAt = none

/-- On a released node with SerDes on, the first training of a ported link that passes both checks leaves it waiting for the peer's hello flit with fresh sequence numbers, one that fails leaves its 1 s retry running, other links are untouched, and when it is the last ported link to be tried step 11 ends. A retry, or a rejoin of a removed link, that passes does the same and one that fails changes nothing. The peer's hello flit brings the link up in its port with the peer's credits, unless it clashes with the word a partner port already has. -/
def Obligations.LinksTrainAndJoin : Prop :=
  (∀ (s : State) (l : Fin 32) (p : Nat) (a b c : Bool), s.boot.phase = .released → s.pins.serdes = true → portOf s l = some p →
    l.val ∉ s.boot.linksTried →
    Completes (.linkTraining l a b c) s (fun t =>
      ((a = true ∧ b = true ∧ c = true) → FreshLink (t.link l))
      ∧ (¬ (a = true ∧ b = true ∧ c = true) → t.link l = { s.link l with retryDue := true })
      ∧ (∀ m : Nat, m ≠ l → t.link m = s.link m)
      ∧ (∀ m, m ∈ t.boot.linksTried ↔ m = l ∨ m ∈ s.boot.linksTried)
      ∧ ((∀ m ∈ portedLinks s, m = l.val ∨ m ∈ s.boot.linksTried) → s.boot.linksDone = false → t.boot.linksDone = true ∧ t.boot.step = 11)))
  ∧ (∀ (s : State) (l : Fin 32) (a b c : Bool), s.boot.phase = .released → s.pins.serdes = true → (s.link l).retryDue = true →
    Completes (.linkTrainRetry l a b c) s (fun t => ((a = true ∧ b = true ∧ c = true) → FreshLink (t.link l))
      ∧ (¬ (a = true ∧ b = true ∧ c = true) → t = s) ∧ ∀ m : Nat, m ≠ l → t.link m = s.link m))
  ∧ (∀ (s : State) (l : Fin 32) (a b : Bool), s.pins.serdes = true → (s.link l).retryDue = true →
    Completes (.linkRejoinRetry l a b) s (fun t => ((a = true ∧ b = true) → FreshLink (t.link l)) ∧ (¬ (a = true ∧ b = true) → t = s)
      ∧ ∀ m : Nat, m ≠ l → t.link m = s.link m))
  ∧ ∀ (s : State) (l : Fin 32) (p : Nat) (w c : W64), portOf s l = some p → (s.link l).mode = .helloWait → (s.link l).helloGot = false →
    Completes (.helloFlit l w c) s (fun t =>
      (((portEntry s p).kind ≠ .partner ∨ ∀ x, Tbl.find s.net.capWord p = some x → x = w) →
        (t.link l).mode = .up ∧ (t.link l).inPort = true ∧ (t.link l).helloGot = true ∧ (t.link l).helloWord = w ∧ (t.link l).rxSeq = 0
        ∧ (t.link l).credits = [field c 48 16, field c 32 16, field c 16 16])
      ∧ (∀ x, (portEntry s p).kind = .partner → Tbl.find s.net.capWord p = some x → x ≠ w →
        (t.link l).mode = .down ∧ (t.link l).retryDue = true))

/-- The link retrains: it keeps its replay buffer and its SEQ state (R101), and the retrain is counted (Table 17-14). -/
def Retrains (l : Fin 32) (s t : State) : Prop :=
  (t.link l).mode = .retraining ∧ (t.link l).kept = (s.link l).kept ∧ (t.link l).txSeq = (s.link l).txSeq ∧ (t.link l).rxSeq = (s.link l).rxSeq
  ∧ (t.link l).counters.retrains = min 0xFFFF ((s.link l).counters.retrains + 1)

/-- NAK_TIMEOUT, while the receiver discards and its timer runs: a NAK is owed again and counted, and the eighth in a row makes the link retrain. ACK_TIMEOUT with unacknowledged flits, and LANE_FAILURE, make a link that is up retrain, keeping its replay buffer and sequence numbers and counting the retrain. RETRAIN_COMPLETE: the link is up, or waits again for the hello flit that has not come, and replays from its oldest unacknowledged flit, the CONF entries of the kept flits waiting again. RETRAIN_FAILED: the third failure in a row takes the link out of its port, down, its 1 s retry running; an earlier one is counted and the link retrains again. -/
def Obligations.LinksRetrainAndLeave : Prop :=
  (∀ (s : State) (l : Fin 32), (s.link l).nakTimer = true → (s.link l).discarding = true →
    Completes (.nakTimeout l) s (fun t => (t.link l).sendNak = true ∧ (t.link l).rxSeq = (s.link l).rxSeq
      ∧ ((s.link l).nakCount < 7 → (t.link l).nakCount = (s.link l).nakCount + 1 ∧ (t.link l).mode = (s.link l).mode
          ∧ (t.link l).counters.naks = min 0xFFFFFFFF ((s.link l).counters.naks + 1))
      ∧ (7 ≤ (s.link l).nakCount → (t.link l).mode = .retraining)))
  ∧ (∀ (s : State) (l : Fin 32), (s.link l).mode = .up → (s.link l).kept ≠ [] → Completes (.ackTimeout l) s (Retrains l s))
  ∧ (∀ (s : State) (l : Fin 32) (n : Fin 4), (s.link l).mode = .up → Completes (.laneFailure l n) s (Retrains l s))
  ∧ (∀ (s : State) (l : Fin 32), (s.link l).mode = .retraining →
    Completes (.retrainComplete l) s (fun t => (t.link l).mode = (if (s.link l).helloGot then .up else .helloWait) ∧ (t.link l).replayAt = (s.link l).kept.head?.map (·.seq)
      ∧ (t.link l).kept = (s.link l).kept.map (fun x => { x with confs := [] }) ∧ (t.link l).confs = (s.link l).kept.flatMap (·.confs) ++ (s.link l).confs ∧ (t.link l).retrainFails = 0 ∧ ∀ m : Nat, m ≠ l → t.link m = s.link m))
  ∧ ∀ (s : State) (l : Fin 32), (s.link l).mode = .retraining →
    ((s.link l).retrainFails < 2 → Completes (.retrainFailed l) s (fun t => (t.link l).mode = .retraining
      ∧ (t.link l).retrainFails = (s.link l).retrainFails + 1))
    ∧ ∀ p, 2 ≤ (s.link l).retrainFails → portOf s l = some p →
      Completes (.retrainFailed l) s (fun t => (t.link l).mode = .down ∧ (t.link l).inPort = false ∧ (t.link l).retryDue = true ∧ (t.link l).kept = [])

/-- No completion waits that the node's own work would take at once, and no loss waits to be acted on. -/
def Quiet (s : State) : Prop := s.net.gone = [] ∧ ∀ x ∈ s.weir.landed, selfWork x = false

/-- FLIT_SLOT on a link that is up, SerDes on, no request waiting at its source for a credit: exactly one flit goes out on it; the first is the hello flit with SEQ 0; one that is no replay passes its CRC; and with a replay due it is the cells of a kept flit, no new one. EMPTY_FLIT_DUE: exactly one flit goes out in this slot; where neither a hello flit nor a replay is due and no answer is owed, it is unsequenced, passes its CRC, carries nothing from the queue, and the count of slots starts again. FLIT_RECEIVED with a bad CRC on a link that is up and not discarding: no SEQ is taken, a NAK is owed and both are counted. FLIT_RECEIVED of a good, unsequenced flit without NAK and without answers, no header of this node waiting for its answer on the link: its credits are added and its acknowledgement is taken, which frees the kept flits up to it, and the receive sequence stays. -/
def Obligations.FlitsGoOutAndComeIn : Prop :=
  (∀ (s : State) (l : Fin 32), s.pins.serdes = true → (s.link l).mode = .up → s.weir.stalled = [] →
    Completes (.flitSlot l) s (fun t => (∃ f, t.out = s.out ++ [.flit l f] ∧ ((s.link l).replayAt = none → flitGood f = true))
      ∧ (t.link l).slot = (s.link l).slot + 1 ∧ (t.link l).sendNak = false ∧ (t.link l).rxSeq = (s.link l).rxSeq
      ∧ ((s.link l).helloSent = false → (t.link l).helloSent = true ∧ (t.link l).txSeq = 0)
      ∧ (∀ x, (s.link l).helloSent = true → (s.link l).replayAt = some x.seq → (s.link l).kept.find? (fun y => y.seq == x.seq) = some x →
          (t.link l).txSeq = (s.link l).txSeq ∧ (t.link l).kept.map (fun y => { y with confs := [] }) = (s.link l).kept.map (fun y => { y with confs := [] })
          ∧ ∃ c0 ans, t.out = s.out ++ [.flit l { cells := sealFlit ([c0] ++ x.cells ++ [ans]) }])))
  ∧ (∀ (s : State) (l : Fin 32), s.pins.serdes = true → (s.link l).mode = .up →
    Completes (.emptyFlitDue l) s (fun t => (∃ f, t.out = s.out ++ [.flit l f]) ∧ (t.link l).slot = (s.link l).slot + 1
      ∧ ((s.link l).helloSent = true → (s.link l).replayAt = none → (s.link l).answers = [] →
        (∃ f, t.out = s.out ++ [.flit l f] ∧ flag (nth {} f.cells 0).w0 38 = false ∧ flitGood f = true) ∧ (t.link l).txSeq = (s.link l).txSeq
        ∧ (t.link l).kept = (s.link l).kept ∧ (t.link l).lastEmpty = (t.link l).slot ∧ (t.link l).emptyDue = false ∧ t.net.txq = s.net.txq)))
  ∧ (∀ (s : State) (l : Fin 32) (f : Flit), Quiet s → (s.link l).mode = .up → (s.link l).ltMode = 0 → flitGood f = false → (s.link l).discarding = false →
    (s.link l).nakCount < 7 →
    Completes (.flitReceived l f) s (fun t => (t.link l).rxSeq = (s.link l).rxSeq ∧ (t.link l).sendNak = true ∧ (t.link l).discarding = true
      ∧ (t.link l).counters.crcFail = min 0xFFFFFFFF ((s.link l).counters.crcFail + 1)
      ∧ (t.link l).counters.naks = min 0xFFFFFFFF ((s.link l).counters.naks + 1) ∧ (t.link l).credits = (s.link l).credits))
  ∧ ∀ (s : State) (l : Fin 32) (f : Flit), Quiet s → (s.link l).mode = .up → (s.link l).ltMode = 0 → flitGood f = true →
    flag (nth {} f.cells 0).w0 38 = false → flag (nth {} f.cells 0).w0 39 = false → (nth {} f.cells 15).w0 = 0#64 → (s.link l).peerNaks = 0 →
    (∀ x ∈ s.net.sent, x.link = l → x.phase = 0 → x.flitSeq = none) →
    Completes (.flitReceived l f) s (fun t => (t.link l).rxSeq = (s.link l).rxSeq ∧ (t.link l).peerAck = field (nth {} f.cells 0).w0 40 12
      ∧ (t.link l).credits = [nth 0 (s.link l).credits 0 + field (nth {} f.cells 0).w1 48 16, nth 0 (s.link l).credits 1 + field (nth {} f.cells 0).w1 32 16,
          nth 0 (s.link l).credits 2 + field (nth {} f.cells 0).w1 16 16]
      ∧ (t.link l).kept = (s.link l).kept.filter (fun x => !seqAcked (field (nth {} f.cells 0).w0 40 12) x.seq))

/-- A TAG held over for a departed link that its hold-over's end frees: the peer has acknowledged its response, or its request's data never came over that link. -/
def Freed (s : State) (l : Nat) (y : TagOut) : Prop :=
  y.holdover = some l ∧ (y.ackd = true ∨ ((s.link l).inPort = false ∧ y.link = l ∧ ∃ x ∈ (s.link l).rx, x.isReq = true ∧ (reqHdr x.hdr).tag = y.tag))

/-- TAG_HOLDOVER_EXPIRY frees exactly the TAGs held over for that link whose responses the peer has acknowledged or whose request's data never came (the model's reading, log entry 61); the other TAGs stay outstanding, held over no longer. HELD_PAGE_EXPIRY drops the first entry of the page from the link's held-page list and logs a port fault that names link and TAG. HOLD_RETRY of the first request a port holds, its interval over, sends its header again with the same TAG, at the end of the queue. RANGE_CACHE_FILL and EXTENT_CACHE_FILL of a running search end it and put the entry it found first in its cache, the latter in the ways of the party it runs for. COMBINATION_CLOSE of a combination of one entry, with nothing behind it, queues that request alone at its home; one of more entries is sent as one combined request and its response is awaited. -/
def Obligations.ExpiriesAndCacheFills : Prop :=
  (∀ (s : State) (l : Fin 32), Completes (.tagHoldoverExpiry l) s (fun t =>
    (∀ x, x ∈ t.net.tags ↔ ∃ y ∈ s.net.tags, ¬ Freed s l y ∧ x = (if y.holdover = some l.val then { y with holdover := none } else y))
      ∧ t.net.sent = s.net.sent ∧ t.net.txq = s.net.txq))
  ∧ (∀ (s : State) (l : Fin 32) (page : Nat) (h : HeldPage), s.keeper.up = true → (s.link l).held.find? (fun x => x.page == page) = some h →
    Completes (.heldPageExpiry l page) s (fun t => (t.link l).held = (s.link l).held.erase h ∧ Logged s t 0x0603 l h.tag))
  ∧ (∀ (s : State) (p : Fin 10) (tag : BitVec 16) (x : Sent), nextHeld s p = some x → x.tag = tag.toNat → x.readyAt ≤ (s.link x.link).slot →
    Completes (.holdRetry p tag) s (fun t => ∃ i : TxItem, t.net.txq = s.net.txq ++ [i] ∧ i.isReq = true ∧ i.port = p ∧ i.tag = x.tag
      ∧ i.hdr = sendHdr s p x.req x.tag ∧ i.data = x.req.data ∧ ∀ y ∈ t.net.sent, y.port = p → y.tag = x.tag → y.phase = 0))
  ∧ (∀ (s : State) (r q : Fin 8) (a : Fin 4096) (va : BitVec 57), (r.val, q.val, a.val, va.toNat) ∈ s.net.rmiss →
    Completes (.rangeCacheFill r q a va) s (fun t => (r.val, q.val, a.val, va.toNat) ∉ t.net.rmiss
      ∧ t.net.rcache.head? = some (fillEntry s r q a va.toNat)))
  ∧ (∀ (s : State) (r : Fin 8) (o : BitVec 52) (key : Nat × Nat × Nat), s.net.emiss.find? (fun x => x.1 == r.val && x.2.1 == o.toNat) = some key →
    Completes (.extentCacheFill r o) s (fun t => key ∉ t.net.emiss ∧ t.net.ecache.head? = some { fillExtent s r o.toNat with party := key.2.2 }))
  ∧ ∀ (s : State) (i : Nat) (c : Combo), s.net.combos[i]? = some c → c.behind = [] → addrNode c.head.addr = s.node → c.head.op = .load ∨ c.head.op = .atomic →
    let queued := fun (t : State) (ok : QEntry → Prop) => ∃ pre q post, s.weir.queue = pre ++ post ∧ t.weir.queue = pre ++ q :: post ∧ ok q
    (c.entries.length ≤ 1 → Completes (.combinationClose i) s (fun t => (∀ x ∈ t.net.combos, x.id ≠ c.id) ∧ t.net.combosOut = s.net.combosOut
      ∧ queued t (fun q => q.req.op = c.head.op ∧ q.req.addr = c.head.addr ∧ q.req.tag = c.head.tag ∧ q.req.data = c.head.data)))
    ∧ (1 < c.entries.length → Completes (.combinationClose i) s (fun t => (∀ x ∈ t.net.combos, x.id ≠ c.id) ∧ t.net.combosOut = s.net.combosOut ++ [c]
      ∧ queued t (fun q => q.req.op = (if c.head.op = .load then .confRead else .confAtomic) ∧ q.req.addr = c.head.addr ∧ q.req.src = .combo c.id)))

/-- With agreement started: an announcement of a ROSTER node not yet in the pool map is answered unless it is itself an answer; where generation and pool digest agree its slice is read, else the node is marked as disagreeing. A slice read that fails is delivered again later; one whose digest, signatures and fields pass puts the node in the pool map with its BOOT; one of another digest marks it. ANNOUNCE_RESEND within the window announces to every ROSTER node not in the pool map. SLICE_REDELIVER handles the waiting announcement again. AGREEMENT_START_TIMEOUT without a trained switch-plane link starts agreement. The end of the window leaves ISLAND where no node agrees and one disagrees, else AGREED with the generation recorded, and logs step 13. -/
def Obligations.MapAgreement : Prop :=
  (∀ (s : State) (a : Announcement), s.map.started = true → a.node ∈ s.hw.slice.roster → a.node ≠ s.node → a.node ∉ s.map.pool →
    Completes (.announce a) s (fun t =>
      (a.reply = false → Output.announce a.node (myAnnouncement s true) ∈ t.out)
      ∧ (a.compGen = s.hw.compGen → a.poolDigest = s.hw.slice.poolDigest → a ∈ t.map.reading ∧ Output.sliceRead a.node a.sliceLength ∈ t.out)
      ∧ ((a.compGen ≠ s.hw.compGen ∨ a.poolDigest ≠ s.hw.slice.poolDigest) → a.node ∈ t.map.disagrees ∧ t.map.reading = s.map.reading)
      ∧ t.map.pool = s.map.pool))
  ∧ (∀ (s : State) (n : Fin 1024) (a : Announcement), s.map.reading.find? (fun x => x.node == n.val) = some a →
    Completes (.sliceReadComplete n none) s (fun t => { a with reply := true } ∈ t.map.redeliver ∧ t.map.pool = s.map.pool)
    ∧ (∀ sl : Slice, Tbl.find s.hw.digests n ≠ some sl.digest →
        Completes (.sliceReadComplete n (some sl)) s (fun t => n.val ∈ t.map.disagrees ∧ t.map.pool = s.map.pool))
    ∧ (∀ sl : Slice, Tbl.find s.hw.digests n = some sl.digest → operatorSigned s sl.rsaKeys sl.slhKeys = true → sliceFieldsOk sl = true →
        Completes (.sliceReadComplete n (some sl)) s (fun t => n.val ∈ t.map.pool ∧ Tbl.get 0 t.map.bootOf n = a.boot
          ∧ (s.map.state = .island → t.map.state = .agreed))))
  ∧ (∀ s : State, s.map.window = true →
    Completes .announceResend s (fun t => ∀ n ∈ s.hw.slice.roster, n ≠ s.node → n ∉ s.map.pool →
      Output.announce n (myAnnouncement s false) ∈ t.out))
  ∧ (∀ (s : State) (n : Fin 1024) (a : Announcement), s.map.redeliver = [a] → a.node = n.val → a.reply = true → s.map.started = true →
    a.node ∈ s.hw.slice.roster → a.node ≠ s.node → a.node ∉ s.map.pool → a.compGen = s.hw.compGen → a.poolDigest = s.hw.slice.poolDigest →
    Completes (.sliceRedeliver n) s (fun t => t.map.redeliver = [] ∧ a ∈ t.map.reading ∧ t.out = s.out ++ [.sliceRead a.node a.sliceLength]))
  ∧ (∀ s : State, s.boot.phase = .released → (∀ p ∈ portsOfKind s .switch, upLinks s p = []) → s.map.started = false → forcedIsland s = false →
    Completes .agreementStartTimeout s (fun t => t.map.started = true ∧ t.map.window = true ∧ t.map.pool = [s.node]))
  ∧ ∀ s : State, s.map.window = true → s.map.state = .forming → s.keeper.up = true →
    Completes .agreementWindowEnd s (fun t => t.map.window = false ∧ t.boot.step = 13
      ∧ (s.map.pool = [s.node] → s.map.disagrees ≠ [] → t.map.state = .island ∧ alertIsland ∈ t.keeper.alert)
      ∧ ((s.map.pool ≠ [s.node] ∨ s.map.disagrees = []) → t.map.state = .agreed ∧ t.nv.genRecord = some s.hw.compGen))

/-- PERST_DEASSERT on a port whose host holds PERST#: PERST# is released and the port trains if the die is out of reset. HOST_LINK_TRAINED on a port out of PERST#, die released and SerDes on: the link is trained and in L0; CXL is active exactly at 32 or 64 GT/s and x16, x8 or x4; a CXL link that was down joins its agent; a PCIe-only link is logged. HOST_PORT_LEAVES_L0 in L0: the link is out of L0, and the limit counts unless it is a Recovery or the host is dead. HOST_L0_TIMEOUT where the limit counts, and CXL_VIRAL on a live CXL port: where the host's agent is in no coherent domain, the host is dead, has no snoops, has left the joined agents, and the death is logged with its cause. In each, the other host port is as it was. -/
def Obligations.HostPortsComeAndGo : Prop :=
  ∀ (s : State) (p : Fin 2), let h := s.hostSt p
    (h.perst = true → Completes (.perstDeassert p) s (fun t => t.hostSt p = { h with perst := false, training := !s.pins.dieReset }
      ∧ ∀ q, q ≠ p.val → t.hostSt q = s.hostSt q))
    ∧ (∀ rateX2 width : Nat, h.perst = false → s.pins.dieReset = false → s.pins.serdes = true → s.keeper.up = true →
      Completes (.hostLinkTrained p rateX2 width) s (fun t => (t.hostSt p).trained = true ∧ (t.hostSt p).l0 = true
        ∧ ((t.hostSt p).cxl = true ↔ (rateX2 = 64 ∨ rateX2 = 128) ∧ (width = 16 ∨ width = 8 ∨ width = 4))
        ∧ ((t.hostSt p).cxl = true → h.trained = false → ⟨s.node, p⟩ ∈ t.coh.joined)
        ∧ ((t.hostSt p).cxl = false → Logged s t 0x0107 p (rateX2 / 2 + width * 256))
        ∧ ∀ q, q ≠ p.val → t.hostSt q = s.hostSt q))
    ∧ (∀ recovery : Bool, h.l0 = true → Completes (.hostPortLeavesL0 p recovery) s (fun t =>
        t.hostSt p = { h with l0 := false, l0Count := !recovery && !h.dead } ∧ ∀ q, q ≠ p.val → t.hostSt q = s.hostSt q))
    ∧ (Quiet s → domainOfAgent s ⟨s.node, p⟩ = none → s.keeper.up = true →
      (h.l0Count = true → h.l0 = false → Completes (.hostL0Timeout p) s (fun t => t.hostSt p = { h with dead := true, l0Count := false, snoops := [] }
        ∧ ⟨s.node, p⟩ ∉ t.coh.joined ∧ Logged s t 0x0601 (agentNum ⟨s.node, p⟩) 1 ∧ ∀ q, q ≠ p.val → t.hostSt q = s.hostSt q))
      ∧ (h.cxl = true → h.dead = false → Completes (.cxlViral p) s (fun t => t.hostSt p = { h with dead := true, l0Count := false, snoops := [] }
        ∧ ⟨s.node, p⟩ ∉ t.coh.joined ∧ Logged s t 0x0601 (agentNum ⟨s.node, p⟩) 2 ∧ ∀ q, q ≠ p.val → t.hostSt q = s.hostSt q)))

/-- No request of an admission queue is for a fenced extent of this node. -/
def NoneFenced (s : State) : Prop :=
  ∀ q ∈ s.weir.queue, isHome s q.req = true → addrSpace q.req.addr = 0 → fencedAt s (addrOffset q.req.addr) = false

/-- The slot of the core cycle in a table. -/
def slotNow (t : WeirTable) (s : State) : WeirSlot := nth {} t.slots (s.weir.cycle % 8192)

/-- A mirror batch waits to ship a page. -/
def Shipping (w : Nat × FlashWork) : Prop := ∃ i p, w.2 = .ship i p

/-- The weir runs this table, and in a slot it admits and grants and nothing else happens: no teardown, no own completion pending, nothing stalled at its source for a credit, no mirror page waiting to ship. -/
structure WeirRuns (s : State) (w : WeirTable) : Prop where
  released : s.pins.dieReset = false
  table : weirTable s s.weir.kind = some w
  quiet : Quiet s
  fences : NoneFenced s
  kept : s.map.teardown = false
  credit : s.weir.stalled = []
  ships : ∀ x ∈ s.weir.maint ++ s.weir.flashQ, ¬ Shipping x

/-- WEIR_SLOT with the die released and a table in force, no request waiting for a fenced extent: the cycle counts one; every request that enters the pipeline was waiting in an admission queue and was not crossing the fabric core; the device work that gets under way was waiting for a maintenance slot, or is the patrol read, and touches no flash, but for at most one, that the flash gate grants, of FLASH_RACE. In a sealed table an entry whose race's slot names another party or class stays in its queue; an entry alone in its queue, of the pair named, is admitted. WEIR_PERIOD_BOUNDARY with the die released: the cycle stands at the next multiple of 8,192; with no flush a selected table the image has comes into force and the selection is used up; RETIRING codebook slots have seen a boundary. -/
def Obligations.WeirSlotsAndPeriods : Prop :=
  (∀ (s : State) (w : WeirTable), WeirRuns s w →
    Completes .weirSlot s (fun t => t.weir.cycle = s.weir.cycle + 1
      ∧ (∃ l : List Req, t.weir.pipe = s.weir.pipe ++ l ∧ ∀ r ∈ l, ∃ q ∈ s.weir.queue, q.req = r ∧ q.crossing = false)
      ∧ (∃ l g : List (Nat × FlashWork), t.weir.flashOn = s.weir.flashOn ++ l ++ g ∧ (∀ x ∈ l, (x ∈ s.weir.maint ∨ x.2 = .scrub) ∧ usesFlash s x.2 = false) ∧ g.length ≤ 1
          ∧ ∀ x ∈ g, (x ∈ s.weir.flashQ ∨ x ∈ s.weir.maint) ∧ (slotNow w s).flashEn = true ∧ x.1 = (slotNow w s).flashRace)
      ∧ (w.isOpen = false → ∀ q ∈ s.weir.queue, q.crossing = false → ({ party := q.party, tclass := q.tclass } : PairSlot) ≠ (slotNow w s).race q.race →
          q ∈ t.weir.queue)
      ∧ (∀ q, s.weir.queue = [q] → q.crossing = false → q.race < 8 → cycleOrder q.req < 14 → admits s q = true →
          (slotNow w s).race q.race = { party := q.party, tclass := q.tclass } → t.weir.pipe = s.weir.pipe ++ [q.req] ∧ t.weir.queue = [])))
  ∧ ∀ s : State, s.pins.dieReset = false → Quiet s →
    Completes .weirPeriodBoundary s (fun t => t.weir.cycle % 8192 = 0 ∧ s.weir.cycle ≤ t.weir.cycle ∧ t.weir.cycle < s.weir.cycle + 8192
      ∧ (∀ k, s.flush.kind = .none → s.flush.pending = false → s.weir.selected = some k → (weirTable s k).isSome = true →
          t.weir.kind = k ∧ t.weir.selected = none)
      ∧ ∀ n x, Tbl.find s.shoal.slots n = some x → x.state = .retiring → Tbl.find t.shoal.slots n = some { x with boundary := true })

/-- A request of a port, a host, a mill, a rill or a sequencer. -/
def fromAgent : Src → Bool
  | .port .. | .host _ | .mill _ | .rill .. | .course .. => true
  | _ => false

/-- The successful answer to a whole request at its source (R112, R156, R374). -/
def AnsweredOk (r : Req) (data : Bytes) (t : State) : Prop :=
  match r.src with
  | .port p _ => ∃ i ∈ t.net.txq, i.isReq = false ∧ i.port = p ∧ i.tag = r.tag ∧ i.data = data
      ∧ i.hdr = rspCell { tag := r.tag, status := .ok, data := data.length, prov := false, ptag := 0 }
  | .host p => if r.op = .store ∨ r.op = .wbDirty then Output.cxlCmp p r.tag ∈ t.out
      else Output.cxlData p r.tag (if data.isEmpty then List.replicate 64 0#8 else data) false ∈ t.out
  | _ => ∃ ecc, { req := { r with ecc }, status := .ok, data } ∈ t.weir.landed

/-- A request in the pipeline that its home serves at once: what the statement on requests asks of it. -/
structure Served (s : State) (r : Req) (ecc : Ecc) : Prop where
  inPipe : r ∈ s.weir.pipe
  source : fromAgent r.src = true
  whole : r.join = none ∧ r.seen = []
  space : addrSpace r.addr = 0
  checks : memCheck s r = none ∧ targetOk r = true
  plain : (tierOf s (tierPage (addrOffset r.addr))).state = .plain
  direct : ∀ l ∈ linesOf (addrOffset r.addr) r.len, dirFind s l = none
  sound : readStatus s (addrOffset r.addr) r.len ecc = .ok
  simple : r.durable = false ∧ r.provOk = false
  first : mayPerform s r = true
  quiet : Quiet s

/-- A request in the pipeline, of a port, host, mill, rill or sequencer, that passes the home checks and has no earlier request of its sources to wait for, is not DURABLE, may not be answered provisionally, and whose page is PLAIN, whose lines have no directory entry, no poison and no uncorrectable error, is performed and answered OK. LOAD answers the bytes of its range and changes no byte. STORE and MCAST_STORE (outside an exchange area) replace exactly their bytes. ATOMIC writes the new value of its operation at its address and answers the old one where it returns it. REDUCE writes the reduced elements. CONF_READ answers each entry's own status and the bytes; CONF_ATOMIC performs its entries in order and answers their statuses and old values. The written bytes read back, every other byte is as it was, and the answer goes to the source: a response cell for a port, data or completion for a host, a landed completion for the others. -/
def Obligations.RequestsReadAndWrite : Prop :=
  ∀ (s : State) (r : Req) (ecc : Ecc), Served s r ecc → memoriesWf s → let off := addrOffset r.addr; let old := readMem s off r.len
    (r.op = .load → Completes (.load r ecc) s (fun t => AnsweredOk r old t ∧ t.store.mem = s.store.mem))
    ∧ (r.op = .confRead → Completes (.confRead r ecc) s (fun t => t.store.mem = s.store.mem
        ∧ AnsweredOk r (padTo 64 ((chop 8 (field r.opf 51 5 + 1) r.data).map (fun b => BitVec.ofNat 8 (statusCode (confCheck s r (confOrigin b))))) ++ old) t))
    ∧ (r.op = .store → areaSlot s off = none → r.data.length = r.len → Completes (.store r) s (fun t => AnsweredOk r [] t
        ∧ t.store.mem = s.store.mem.writeN off r.data
        ∧ readMem t off r.len = r.data ∧ ∀ a, a < off ∨ off + r.len ≤ a → t.store.mem.read a = s.store.mem.read a))
    ∧ (r.op = .mcastStore → r.data.length = r.len → Completes (.mcastStore r) s (fun t => AnsweredOk r [] t
        ∧ t.store.mem = s.store.mem.writeN off r.data
        ∧ readMem t off r.len = r.data ∧ ∀ a, a < off ∨ off + r.len ≤ a → t.store.mem.read a = s.store.mem.read a))
    ∧ (r.op = .atomic → 0 < r.len → Completes (.atomic r ecc) s (fun t =>
        t.store.mem = s.store.mem.writeN off (toBytes (atomicNew (aop r.opf) (atype r.opf) (ofBytes old) (ofBytes (r.data.take r.len))
            (ofBytes ((r.data.drop r.len).take r.len))) r.len)
        ∧ AnsweredOk r (if areturns r.opf then toBytes (ofBytes old) r.len else []) t
        ∧ ∀ a, a < off ∨ off + r.len ≤ a → t.store.mem.read a = s.store.mem.read a))
    ∧ (r.op = .reduce → r.len % 4 = 0 → Completes (.reduce r ecc) s (fun t =>
        t.store.mem = s.store.mem.writeN off (reduceBytes r.opf old r.data) ∧ AnsweredOk r [] t
        ∧ ∀ a, a < off ∨ off + r.len ≤ a → t.store.mem.read a = s.store.mem.read a))
    ∧ (r.op = .confAtomic → Completes (.confAtomic r ecc) s (fun t =>
        t.store.mem = s.store.mem.writeN off (toBytes (confEntries s r (chop 32 (field r.opf 44 5 + 1) r.data) (ofBytes old)).2 r.len)
        ∧ AnsweredOk r (confEntries s r (chop 32 (field r.opf 44 5 + 1) r.data) (ofBytes old)).1 t
        ∧ ∀ a, a < off ∨ off + r.len ≤ a → t.store.mem.read a = s.store.mem.read a))

/-- A caching request in the pipeline for one whole line, of a member of its extent: what the statement on caching asks of it. -/
structure CachingReq (s : State) (r : Req) (line i : Nat) : Prop where
  inPipe : r ∈ s.weir.pipe
  source : fromAgent r.src = true
  whole : r.join = none ∧ r.seen = []
  space : addrSpace r.addr = 0
  place : addrOffset r.addr = 64 * line ∧ r.len = 64
  checks : memCheck s r = none
  plain : (tierOf s (tierPage (64 * line))).state = .plain
  member : memberIndex (lineMembers s line) r.origin = some i
  sound : readStatus s (64 * line) 64 {} = .ok
  simple : r.durable = false ∧ r.provOk = false
  first : mayPerform s r = true
  quiet : Quiet s
  alone : ∀ x ∈ s.coh.snoops, x.line ≠ line ∧ (x.wb && x.wbGot) = false

/-- A caching request of a member of the line's extent, for one whole sound line of a PLAIN page, with nothing else open on the line and no earlier request of its sources to wait for. RD_SHARED: on a line without entry with a free way, the memory's 64 bytes are answered and the entry is S with the member for a host, E_M not modified with the member as owner for another agent; on an S line the member is added (COARSE from index 16). RD_OWN on a line without entry, and UPGRADE by the only holder of an S line: E_M, modified, owned by the member, and answered. RD_OWN on a line owned by an agent of another node: the entry is BUSY with one result outstanding, a snoop of that owner is open, and the request waits in a transaction. MARK_DIRTY by the owner sets MODIFIED. WB_DIRTY by the owner of an E_M line stores its 64 bytes, frees the entry and is answered. EVICT by the owner of an unmodified E_M line frees the entry; by a sharer it removes the sharer, and frees the entry with the last one. No request here but WB_DIRTY changes a byte. -/
def Obligations.CachingRequestsAtTheDirectory : Prop :=
  ∀ (s : State) (r : Req) (line i : Nat), CachingReq s r line i → let bytes := readMem s (64 * line) 64
    (∀ w, r.op = .rdShared → dirFind s line = none → dirPlace s line = .free w →
      Completes (.rdShared r {}) s (fun t => AnsweredOk r bytes t ∧ t.store.mem = s.store.mem ∧ ∃ e, dirFind t line = some e ∧ e.way = w
        ∧ (isHostAgent r.origin = true → e.state = .s ∧ e.sharers = (if i < 16 then [i] else []) ∧ (e.coarse = true ↔ 16 ≤ i))
        ∧ (isHostAgent r.origin = false → e.state = .em ∧ e.modified = false ∧ e.owner = i)))
    ∧ (∀ e, r.op = .rdShared → dirFind s line = some e → e.state = .s → e.busy = false →
      Completes (.rdShared r {}) s (fun t => AnsweredOk r bytes t ∧ t.store.mem = s.store.mem ∧ dirFind t line = some (addSharer e i)))
    ∧ (∀ w, r.op = .rdOwn → dirFind s line = none → dirPlace s line = .free w →
      Completes (.rdOwn r {}) s (fun t => AnsweredOk r bytes t ∧ t.store.mem = s.store.mem
        ∧ ∃ e, dirFind t line = some e ∧ e.way = w ∧ e.state = .em ∧ e.modified = true ∧ e.owner = i))
    ∧ (∀ e, r.op = .rdOwn → dirFind s line = some e → e.state = .em → e.owner ≠ i → e.busy = false →
        (nth ⟨0, 0⟩ (lineMembers s line) e.owner).node ≠ s.node →
      Completes (.rdOwn r {}) s (fun t => dirFind t line = some { e with busy := true, pending := 1 } ∧ t.store.mem = s.store.mem
        ∧ (∃ x ∈ t.coh.txns, x.line = line ∧ x.req = some { r with ecc := {} })
        ∧ ∃ x ∈ t.coh.snoops, x.line = line ∧ x.member = e.owner ∧ x.agent = nth ⟨0, 0⟩ (lineMembers s line) e.owner))
    ∧ (∀ e, r.op = .upgrade → dirFind s line = some e → e.state = .s → e.sharers = [i] → e.coarse = false → e.busy = false →
      Completes (.upgrade r {}) s (fun t => AnsweredOk r [] t ∧ t.store.mem = s.store.mem
        ∧ dirFind t line = some { e with state := .em, modified := true, owner := i, sharers := [], coarse := false, pending := 0 }))
    ∧ (∀ e, r.op = .markDirty → dirFind s line = some e → e.state = .em → e.owner = i →
      Completes (.markDirty r) s (fun t => dirFind t line = some { e with modified := true } ∧ t.store.mem = s.store.mem))
    ∧ (∀ e, r.op = .wbDirty → dirFind s line = some e → e.state = .em → e.owner = i → e.busy = false → r.data.length = 64 →
      Completes (.wbDirty r) s (fun t => AnsweredOk r [] t ∧ dirFind t line = none ∧ t.store.mem = s.store.mem.writeN (64 * line) r.data))
    ∧ (∀ e, r.op = .evict → dirFind s line = some e → e.busy = false → e.coarse = false →
      (e.state = .em → e.owner = i → e.modified = false → Completes (.evict r) s (fun t => dirFind t line = none ∧ t.store.mem = s.store.mem))
      ∧ (e.state = .s → i ∈ e.sharers → Completes (.evict r) s (fun t => t.store.mem = s.store.mem
          ∧ (removeNat i e.sharers = [] → dirFind t line = none)
          ∧ (removeNat i e.sharers ≠ [] → dirFind t line = some { e with sharers := removeNat i e.sharers }))))

/-- No open combination covers a granule of a range, so that a request for it is placed at once (R186). -/
def Uncovered (s : State) (addr len : Nat) : Prop := ∀ c ∈ s.net.combos, comboCovers { addr, len } c = false

/-- One request of this node's own is in its home queue, or waits at its source for a credit of it (R27). -/
def Placed (s t : State) (ok : Req → Prop) : Prop :=
  (t.weir.stalled = s.weir.stalled ∧ ∃ pre q post, s.weir.queue = pre ++ post ∧ t.weir.queue = pre ++ q :: post ∧ ok q.req)
  ∨ (t.weir.queue = s.weir.queue ∧ ∃ r, t.weir.stalled = s.weir.stalled ++ [(none, r)] ∧ ok r)

/-- One request of this node's own is sent on a port, its header waiting for a flit, or waits at its source for a credit of the port's
egress queue (R423). -/
def Leaves (s t : State) (port : Nat) (ok : Req → Prop) : Prop :=
  (∃ x i, t.net.sent = s.net.sent ++ [x] ∧ x.port = port ∧ ok x.req ∧ t.net.txq = s.net.txq ++ [i] ∧ i.port = port ∧ i.tag = x.tag)
  ∨ (t.net.sent = s.net.sent ∧ ∃ r, t.weir.stalled = s.weir.stalled ++ [(some port, r)] ∧ ok r)

/-- Every directory entry stands in the slice of the race that holds its page (R19). -/
def DirPlaced (s : State) : Prop := ∀ e ∈ s.coh.dir, e.slice = homeRace s (e.line * 64)

/-- A SNP_RSP from another node (not from a partner port). -/
def fromNode (s : State) (r : Req) : Prop := match r.src with
  | .port p _ => (portEntry s p).kind ≠ .partner
  | _ => False

/-- What a snoop message from another node does where this node has no agent of the line (first clause), or one host (second). -/
def SnoopTaken (c : Instr) (r : Req) (s : State) : Prop :=
  (∀ p, (poolSlices s).find? (fun sl => sl.node == r.origin.node) = none → r.origin.node ≠ s.node → addrNode (poolAddr r.origin.node 0 (addrOffset r.addr)) = r.origin.node →
      r.origin.node ∈ s.map.pool → s.map.state ≠ .forming → routePort s 15 (poolAddr r.origin.node 0 (addrOffset r.addr)) = some p →
      Uncovered s (poolAddr r.origin.node 0 (addrOffset r.addr)) 64 →
    Completes c s (fun t => Leaves s t p (fun x => x.op = .snpRsp
      ∧ x.addr = poolAddr r.origin.node 0 (addrOffset r.addr) ∧ x.opf = snpFields (snpId r.opf) 0 ∧ x.data = [])))
  ∧ (∀ sl e q m, (poolSlices s).find? (fun sl => sl.node == r.origin.node) = some sl → findExtent sl (addrOffset r.addr) 64 = some e → e.cls = .coherent →
      (extentMembers sl e).filter (fun p => p.node == s.node) = [⟨s.node, q⟩] → q < 2 → reverseOf s q r.addr = [m] →
    Completes c s (fun t => t.out = s.out ++ [.biSnp q (snpId r.opf) (m.2 / 64) r.op]
      ∧ ∃ x, t.coh.relays = s.coh.relays ++ [x] ∧ x.home = r.origin.node ∧ x.snpId = snpId r.opf ∧ x.kind = r.op ∧ x.agent = ⟨s.node, q⟩ ∧ x.waits = 1))

/-- The state of EVICTION_COMPLETE before it serves the request that caused the eviction: returned data written, the entry free. -/
def evicted (line : Nat) (data : Option Bytes) (s : State) : State :=
  let s := { s with coh := { s.coh with txns := s.coh.txns.filter (fun t => t.line != line) }
                    net := { s.net with holds := s.net.holds.filter (· != .line line) } }
  freeDir line (match data with
    | some d => (writeLines (line * 64) d s).2
    | none => s)

/-- A snoop of another node's home for a line of a slice in the pool map: where this node has no agent of the line, NONE leaves for the home, or waits at its source for a credit of the port; where its one agent is a host that maps the line once, the host gets one back-invalidate and the snoop is kept until its answer. A SNP_RSP of another node for a snoop of this home, with another snoop of the line still open, is counted: the snoop is closed, its result recorded, its data kept where it carries any, one result fewer outstanding. The last result, INV_DATA, of an RD_OWN: the owner's data is written to memory and answered, and the entry is E_M, modified, owned by the requester. EVICTION_COMPLETE with every result in, of a line whose eviction makes room for a first RD_OWN of another line: returned data is written, the entry is free, the hold is gone, and that request is granted. PROVISIONAL_RESOLVE of a LOAD answered provisionally: CONFIRM is queued where the directory confirms it, else CANCEL and the load is answered in the ordinary way. -/
def Obligations.SnoopsAndTheirResults : Prop :=
  (∀ (s : State) (r : Req), r ∈ s.weir.pipe → Quiet s →
    (r.op = .snpInv → SnoopTaken (.snpInv r) r s) ∧ (r.op = .snpData → SnoopTaken (.snpData r) r s) ∧ (r.op = .snpCur → SnoopTaken (.snpCur r) r s))
  ∧ (∀ (s : State) (r : Req) (x : Snoop) (tx : Txn), r ∈ s.weir.pipe → Quiet s → r.op = .snpRsp → fromNode s r →
      s.coh.snoops.find? (fun y => y.id == snpId r.opf) = some x → snpResult r.opf ≠ 1 → tx ∈ s.coh.txns → tx.line = x.line →
    ((∃ y ∈ s.coh.snoops, y.line = x.line ∧ y.id ≠ x.id) → Completes (.snpRsp r) s (fun t =>
        (∀ y, y ∈ t.coh.snoops ↔ y ∈ s.coh.snoops ∧ y.id ≠ x.id)
        ∧ { tx with results := tx.results ++ [(x.member, snpResult r.opf)]
                    data := if snpResult r.opf = 3 ∨ snpResult r.opf = 4 ∨ snpResult r.opf = 5 then some (padTo 64 r.data) else tx.data } ∈ t.coh.txns
        ∧ ∀ e, dirFind s x.line = some e → dirFind t x.line = some { e with pending := e.pending - 1 }))
    ∧ (∀ (e : DirEntry) (q : Req) (i : Nat), DirPlaced s → s.coh.snoops = [x] → s.coh.txns = [tx] → s.coh.waits = [] → s.coh.waitWay = [] → snpResult r.opf = 4 →
        r.data.length = 64 → tx.req = some q → tx.held = false → q.op = .rdOwn → q.join = none → fromAgent q.src = true →
        dirFind s x.line = some e → e.state = .em → memberIndex (lineMembers s x.line) q.origin = some i → readStatus s (64 * x.line) 64 {} = .ok →
      Completes (.snpRsp r) s (fun t => AnsweredOk q r.data t ∧ t.coh.txns = [] ∧ t.coh.snoops = []
        ∧ t.store.mem = s.store.mem.writeN (64 * x.line) r.data
        ∧ dirFind t x.line = some { e with state := .em, modified := true, owner := i, sharers := [], coarse := false, busy := false, pending := 0 })))
  ∧ (∀ (s : State) (line line2 w i : Nat) (tx : Txn) (r : Req), Quiet s → s.coh.txns.find? (fun t => t.line == line && t.req.isNone) = some tx →
      DirPlaced s → (∀ x ∈ s.coh.snoops, x.line ≠ line) → tx.evictFor = some r → s.coh.waits = [] → s.coh.waitWay = [] →
      r.op = .rdOwn → fromAgent r.src = true → r.join = none → r.seen = [] → addrOffset r.addr = 64 * line2 → r.len = 64 → line2 ≠ line →
      (let u := evicted line tx.data s; memberIndex (lineMembers u line2) r.origin = some i ∧ dirFind u line2 = none ∧ dirPlace u line2 = .free w
        ∧ readStatus u (64 * line2) 64 r.ecc = .ok) →
    Completes (.evictionComplete line) s (fun t => AnsweredOk r (readMem (evicted line tx.data s) (64 * line2) 64) t ∧ dirFind t line = none
      ∧ .line line ∉ t.net.holds ∧ t.store.mem = (evicted line tx.data s).store.mem
      ∧ ∃ e, dirFind t line2 = some e ∧ e.way = w ∧ e.state = .em ∧ e.modified = true ∧ e.owner = i))
  ∧ ∀ (s : State) (port : Fin 10) (ptag : BitVec 16) (p : PTagUse) (r : Req), Quiet s →
      s.net.ptags.find? (fun p => p.port == port.val && p.ptag == ptag.toNat && p.answered && !p.resolved) = some p → p.req = some r → r.op = .load →
    let l := if (upLinks s p.port).contains p.link then p.link else ((upLinks s p.port)[0]?).getD p.link
    (confirms s r.origin p = true → Completes (.provisionalResolve port ptag) s (fun t => (t.link l).confs = (s.link l).confs ++ [(1, p.ptag)]
        ∧ t.net.txq = s.net.txq ∧ t.coh = s.coh ∧ t.store = s.store))
    ∧ (confirms s r.origin p = false → fromAgent r.src = true → r.join = none → r.seen = [] →
        (∀ l ∈ linesOf (addrOffset r.addr) r.len, dirFind s l = none) → readStatus s (addrOffset r.addr) r.len r.ecc = .ok →
        (tierOf s (tierPage (addrOffset r.addr))).state = .plain →
      Completes (.provisionalResolve port ptag) s (fun t => (t.link l).confs = (s.link l).confs ++ [(2, p.ptag)] ∧ t.store.mem = s.store.mem
        ∧ AnsweredOk { r with ptag := none, provOk := false } (readMem s (addrOffset r.addr) r.len) t))

/-- Nothing is queued, parked, held, arriving, open on a line, or answered provisionally, and no own completion waits. -/
structure Still (s : State) : Prop where
  queue : s.weir.queue = []
  parked : s.weir.parked = []
  txns : s.coh.txns = []
  waits : s.coh.waits = [] ∧ s.coh.waitWay = []
  held : s.weir.waitMove = [] ∧ s.store.parkedW = []
  arriving : rxPending s = [] ∧ s.net.combos = []
  prov : s.net.ptags = []
  quiet : Quiet s

/-- With nothing queued, parked or open: a DEAD notice for a domain that is UP moves it to FALLING; a JOIN notice of an agent of a JOINING domain is held, and the domain is UP once every agent has joined. SNOOP_TIMEOUT of a snoop of another node's agent closes the snoop, logs the death with case 3, takes the agent from the joined ones and moves its UP domain to FALLING. PORT_DOWN_TIMEOUT of a partner's port all of whose links are down: the port is dead, each of its links leaves it, is down and is retrained, the partner is no longer joined. TAKEDOWN_COMPLETE of a FALLING domain: no directory entry of the domain is left, its O lines and its modified E_M lines are poisoned, and the domain is JOINING with no JOIN held. NOTICE_RESEND keeps the notices not accepted whose reason stands and sends a notice again to its node. DOMAIN_REJOIN by a host that is an agent of the domain joins it; any other write is ignored and logged. -/
def Obligations.DomainsFallAndRise : Prop :=
  (∀ (s : State) (r : Req) (d : Domain), r ∈ s.weir.pipe → Still s → r.op = .domainNotice →
    (flag r.opf 27 = false → findDomain s (field r.opf 42 14) = some d → d.state = .up →
      Completes (.domainNotice r) s (fun t => findDomain t (field r.opf 42 14) = some { d with state := .falling, cause := 6, joins := [] }))
    ∧ (flag r.opf 27 = true → domainOfAgent s (agentOf (field r.opf 28 14)) = some d → findDomain s d.num = some d → d.state = .joining →
      Completes (.domainNotice r) s (fun t => ∃ e, findDomain t d.num = some e ∧ agentOf (field r.opf 28 14) ∈ e.joins
        ∧ (∀ a ∈ d.joins, a ∈ e.joins) ∧ (e.state = .up ↔ ∀ a ∈ d.agents, a ∈ e.joins))))
  ∧ (∀ (s : State) (id : BitVec 16) (x : Snoop) (d : Domain), Still s → s.keeper.up = true → s.coh.snoops.find? (fun y => y.id == id.toNat) = some x →
      x.agent.node ≠ s.node → domainOfAgent s x.agent = some d → findDomain s d.num = some d → d.state = .up →
    Completes (.snoopTimeout id) s (fun t => (∀ y ∈ t.coh.snoops, y.id ≠ id.toNat) ∧ x.agent ∉ t.coh.joined
      ∧ findDomain t d.num = some { d with state := .falling, cause := 3, joins := [] } ∧ Logged s t 0x0601 (agentNum x.agent) 3))
  ∧ (∀ (s : State) (p : Fin 10), Still s → p.val ∈ s.net.portDown → (portEntry s p).valid = true → (portEntry s p).kind = .partner →
      p.val ∉ s.net.portDead → 2 ≤ (portEntry s p).party → partnerPort s (portEntry s p).party = some p.val →
    Completes (.portDownTimeout p) s (fun t => p.val ∈ t.net.portDead ∧ ⟨s.node, (portEntry s p).party⟩ ∉ t.coh.joined
      ∧ ∀ l ∈ portLinks (portEntry s p), (s.link l).inPort = true → (t.link l).inPort = false ∧ (t.link l).mode = .down ∧ (t.link l).retryDue = true))
  ∧ (∀ (s : State) (n : BitVec 14) (d : Domain), findDomain s n.toNat = some d → d.state = .falling →
    Completes (.takedownComplete n) s (fun t => findDomain t n.toNat = some { d with state := .joining, joins := [] }
      ∧ (∀ e ∈ t.coh.dir, inDomain s d (e.line * 64) = false)
      ∧ ∀ e ∈ s.coh.dir, inDomain s d (e.line * 64) = true → (e.state = .o ∨ (e.state = .em ∧ e.modified = true)) → e.line ∈ t.store.poison))
  ∧ (∀ (s : State) (n : Notice) (p : Nat), s.coh.notices = [n] → n.accepted = false → n.join = true → n.agent ∈ s.coh.joined →
      routePort s 15 (poolAddr n.dest 0 0) = some p →
    Completes .noticeResend s (fun t => t.coh.notices = [n] ∧ ∃ x, t.net.sent = s.net.sent ++ [x] ∧ x.port = p ∧ x.req.op = .domainNotice
      ∧ x.req.addr = poolAddr n.dest 0 0))
  ∧ ∀ (s : State) (p : Fin 8) (v : W64) (d : Domain), s.keeper.up = true →
    (p.val < 2 → findDomain s (field v 50 14) = some d → ⟨s.node, p⟩ ∈ d.agents → Completes (.domainRejoin p v) s (fun t => ⟨s.node, p⟩ ∈ t.coh.joined))
    ∧ ((2 ≤ p.val ∨ findDomain s (field v 50 14) = none) → Completes (.domainRejoin p v) s (fun t => t.coh = s.coh ∧ Logged s t 0x0902 (partyReg p 0x068) v.toNat))

/-- What flow control looks at of a host's request for 64 bytes at an address. -/
def hostAsk (p : Nat) (addr : Nat) : Req := { party := p, src := .host p, addr, len := 64 }

/-- A CXL request on this port, for an address that maps to `q`, is taken now. -/
structure HostOpen (s : State) (p dpa : Nat) (need : Op) (q : Piece) : Prop where
  live : (s.hostSt p).cxl = true ∧ (s.hostSt p).l0 = true
  serving : s.flush.kind ≠ .power ∧ s.boot.ready = true ∧ s.map.teardown = false
  mapped : ∃ ps rest, (translateCached 0 p 0 (dpa / 64 * 64) 64 need s).1 = .pieces ps ∧ cutPieces ps = q :: rest
  home : addrNode q.addr = s.node
  unfenced : fencedPool s q.addr = false
  uncovered : Uncovered s q.addr 64
  taken : hostTakes s (hostAsk p q.addr) = true
  permitted : ∀ op : Op, op = need ∨ (need = .load ∧ (op = .rdOwn ∨ op = .rdShared)) ∨ (need = .store ∧ op = .wbDirty) →
    ∀ st o, translateIn s (ctxOf s p 0) (dpa / 64 * 64) 64 op ≠ .fault st o

/-- One request queued for the host. -/
def HostQueued (p tag : Nat) (q : Piece) (op : Op) (shared : Bool) (data : Bytes) (s t : State) : Prop :=
  ∃ pre x post, s.weir.queue = pre ++ post ∧ t.weir.queue = pre ++ x :: post ∧ x.req.op = op ∧ x.req.addr = q.addr ∧ x.req.len = 64 ∧ x.req.tag = tag ∧ x.req.src = .host p
    ∧ x.req.cls = q.cls ∧ x.req.provOk = shared ∧ x.req.data = data ∧ x.req.origin = ⟨s.node, p⟩

/-- On a port with CXL active and in L0, READY, without a power flush or teardown, for an address that the host's range cache or table maps to this node, outside a fenced extent and every open combination, and that flow control takes: exactly one request of 64 bytes is queued, with the host's tag, for the mapped address. CXL_MEMRD on a COHERENT range is RD_OWN for MetaValue Any, RD_SHARED for Shared, LOAD for Invalid, and LOAD on another range; CXL_MEMWR is WB_DIRTY there and STORE elsewhere, with the 64 bytes, keeping S where MetaValue is Shared; CXL_MEMCLNEVCT is EVICT. CXL_BIRSP for an open back-invalidate, the only answer another node's home waits for: it is closed, the snoop is no longer relayed, and a SNP_RSP of NONE, KEPT_S or KEPT leaves for that home, or waits at its source for a credit of the port. CXL_BICONFLICT for an open back-invalidate is acknowledged. -/
def Obligations.HostRequestsAreQueued : Prop :=
  (∀ (s : State) (p : Fin 2) (tag dpa : Nat) (q : Piece) (data : Bytes),
    (HostOpen s p dpa .load q →
      Completes (.cxlMemRd p tag dpa .any) s (HostQueued p tag q (if q.cls = .coherent then .rdOwn else .load) false [] s)
      ∧ Completes (.cxlMemRd p tag dpa .shared) s (HostQueued p tag q (if q.cls = .coherent then .rdShared else .load) false [] s)
      ∧ Completes (.cxlMemRd p tag dpa .invalid) s (HostQueued p tag q .load false [] s))
    ∧ (HostOpen s p dpa .store q → ∀ mv : MetaValue,
      Completes (.cxlMemWr p tag dpa mv data) s (HostQueued p tag q (if q.cls = .coherent then .wbDirty else .store) (mv == .shared) (padTo 64 data) s))
    ∧ (HostOpen s p dpa .evict q → Completes (.cxlMemClnEvct p tag dpa) s (HostQueued p tag q .evict false [] s)))
  ∧ (∀ (s : State) (p : Fin 2) (id : Nat) (rsp : BiRsp) (x : Nat × Nat × Op) (y : Relay) (port : Nat), Quiet s →
      (s.hostSt p).snoops.find? (fun x => x.1 == id) = some x → s.coh.relays = [y] → y.snpId = id → y.agent = ⟨s.node, p⟩ → y.waits = 1 → y.best = 0 →
      y.home ≠ s.node → addrNode (poolAddr y.home 0 (addrOffset y.addr)) = y.home → y.home ∈ s.map.pool → s.map.state ≠ .forming →
      routePort s 15 (poolAddr y.home 0 (addrOffset y.addr)) = some port → Uncovered s (poolAddr y.home 0 (addrOffset y.addr)) 64 →
    Completes (.cxlBiRsp p id rsp) s (fun t => (t.hostSt p).snoops = (s.hostSt p).snoops.erase x ∧ t.coh.relays = []
      ∧ Leaves s t port (fun z => z.op = .snpRsp ∧ z.addr = poolAddr y.home 0 (addrOffset y.addr)
        ∧ z.opf = snpFields id (match rsp with | .i => 0 | .s => 2 | .e => 6))))
  ∧ ∀ (s : State) (p : Fin 2) (tag id : Nat), (∃ x ∈ (s.hostSt p).snoops, x.1 = id) →
    Completes (.cxlBiConflict p tag id) s (fun t => t.out = s.out ++ [.biConflictAck p tag])

/-- An inbound piece that this gateway takes at once. -/
structure Inbound (s : State) (r : Req) (w : SluiceWindow) : Prop where
  inPipe : r ∈ s.weir.pipe
  space : addrSpace r.addr = 1
  window : findWindow s (winNum (addrOffset r.addr)) = some w
  name : findWindow s w.window = some w
  room : winOff (addrOffset r.addr) + 4096 ≤ w.len
  inbound : w.mirror = false
  first : s.sluice.far = [] ∧ mayPerform s r = true
  clear : s.net.combos = []
  relaxed : opAcquire r.opf = false
  quiet : Quiet s

/-- The granules of a SLUICE_PUT with their bytes. -/
def marked (r : Req) : List (Nat × Bytes) := putGranules ((List.range 64).filter (bit (ofBytes (r.data.take 8)))) (r.data.drop 8)

/-- An inbound piece in the pipeline, in a window of this gateway that is large enough, with no other inbound piece at hand, no combination open and no earlier request of its sources to wait for, its local range on this node: SLUICE_PUT without mark issues one STORE of 64 bytes for each granule its mask marks, and no other request, at LOCAL_BASE plus the piece's offset plus 64 times the granule, with the granule's bytes and origin (this node, LOCAL_PARTY), each in its home queue or waiting at its source for a credit; SLUICE_GET issues one LOAD of 4,096 bytes there. SLUICE_FLUSH_AGE of a staged block whose granules are whole and lie in one piece, with a route to the far gateway: the block is staged no longer, is shipped under the window's next SEQ, which advances, and one SLUICE_PUT leaves for the far window with that SEQ, the mask and the granules, or waits at its source for a credit of the port. PIN_MSG that passes the home checks, for one PLAIN page within the quota and below 254 references: the page has one reference more and the message is answered. -/
def Obligations.SluicePiecesAndPins : Prop :=
  (∀ (s : State) (r : Req) (w : SluiceWindow), Inbound s r w → let at_ := w.localBase + winOff (addrOffset r.addr)
    (r.op = .sluicePut → flag r.opf 55 = false → marked r ≠ [] → (∀ g ∈ marked r, addrNode (at_ + 64 * g.1) = s.node) →
      Completes (.sluicePut r) s (fun t =>
        let ok := fun (g : Nat × Bytes) (x : Req) => x.op = .store ∧ x.addr = at_ + 64 * g.1 ∧ x.len = 64 ∧ x.data = g.2 ∧ x.origin = ⟨s.node, w.localParty⟩
        (∀ g ∈ marked r, (∃ q ∈ t.weir.queue, ok g q.req) ∨ ∃ x ∈ t.weir.stalled, x.1 = none ∧ ok g x.2)
        ∧ (∀ q ∈ s.weir.queue, q ∈ t.weir.queue) ∧ (∀ x ∈ s.weir.stalled, x ∈ t.weir.stalled)
        ∧ t.weir.queue.length + t.weir.stalled.length = s.weir.queue.length + s.weir.stalled.length + (marked r).length))
    ∧ (r.op = .sluiceGet → addrNode at_ = s.node →
      Completes (.sluiceGet r {}) s (fun t => Placed s t (fun x => x.op = .load ∧ x.addr = at_ ∧ x.len = 4096 ∧ x.origin = ⟨s.node, w.localParty⟩))))
  ∧ (∀ (s : State) (n : Fin 64) (block p port : Nat) (x : Stage) (w : SluiceWindow), Quiet s →
      s.sluice.stages.find? (fun x => x.window == n.val && x.block == block) = some x → findWindow s n = some w → x.marks = [] → x.granules ≠ [] →
      (∀ g ∈ x.granules, g.1 / 64 = p) → w.site = false → w.farNode ∈ s.map.pool → s.map.state ≠ .forming →
      routePort s 15 (poolAddr w.farNode 1 (w.farWindow * 2 ^ 46 + (block * blockBytes' w + 4096 * p))) = some port →
      Uncovered s (poolAddr w.farNode 1 (w.farWindow * 2 ^ 46 + (block * blockBytes' w + 4096 * p))) 4096 →
    Completes (.sluiceFlushAge n block) s (fun t => (∀ y ∈ t.sluice.stages, ¬ (y.window = n ∧ y.block = block))
      ∧ Tbl.get 0 t.sluice.seq n = (Tbl.get 0 s.sluice.seq n + 1) % 2 ^ 32
      ∧ t.sluice.shipped = s.sluice.shipped ++ [{ window := n, seq := Tbl.get 0 s.sluice.seq n, block, pieces := [p], granules := x.granules, stores := x.stores }]
      ∧ Leaves s t port (fun z => z.op = .sluicePut ∧ z.opf = putFields false false (Tbl.get 0 s.sluice.seq n)
        ∧ z.addr = poolAddr w.farNode 1 (w.farWindow * 2 ^ 46 + (block * blockBytes' w + 4096 * p))
        ∧ z.data = putData (x.granules.map (fun g => (g.1 % 64, g.2))))))
  ∧ ∀ (s : State) (r : Req), r ∈ s.weir.pipe → Quiet s → fromAgent r.src = true → r.join = none → r.op = .pinMsg →
      spaceCheck s r.origin .pinMsg r.cls (addrOffset r.addr) r.len = none → field r.opf 0 40 = 0 → flag r.opf 55 = false →
      mayPerform s r = true → let page := tierPage (addrOffset r.addr)
      (tierOf s page).state = .plain → (tierOf s page).pins < 254 → overQuota s page = false →
    Completes (.pinMsg r) s (fun t => (tierOf t page).pins = (tierOf s page).pins + 1 ∧ (tierOf t page).state = .plain ∧ AnsweredOk r [] t)

/-- Entry j of a bank being checked meets the field rules and starts at or after the end of the entry before it. -/
def goodEntry (es : List (Nat × Nat × Nat × Nat)) (j : Nat) : Prop :=
  ∃ w, es[j]? = some w ∧ rangeEntryOk w = true ∧ (j = 0 ∨ ∃ v, es[j - 1]? = some v ∧ (rawOf v).vstart + (rawOf v).len ≤ (rawOf w).vstart)

/-- MIRROR_SYNC of a ready node: while STATE is CHECKING or IN_FORCE only BUSY_DROP is set; else STATE is CHECKING for the ASID, bank and TABLE_GEN written, and the banks in force stay. SYNC_CHECK_COMPLETE while CHECKING: a reason found on reading the bank rejects with that reason; else the first entry that is neither well-formed nor sorted rejects with its index, as BAD_FIELD if the entry is not well-formed and as NOT_SORTED if it is; with every entry good and the limit of COHERENT entries kept, the check passes and STATE stays CHECKING. A rejection leaves the banks in force. SYNC_DRAINED while IN_FORCE with no transfer of an earlier generation under way: STATE is DRAINED. None touches another party. -/
def Obligations.MirrorSyncsAreChecked : Prop :=
  ∀ (s : State) (p : Fin 8), let x := s.pty p
    (∀ v : W64, s.boot.ready = true → Completes (.mirrorSync p v) s (fun t => (∀ q, q ≠ p.val → t.pty q = s.pty q) ∧
      if x.syncState = .checking ∨ x.syncState = .inForce then t.pty p = { x with busyDrop := true }
      else (t.pty p).syncState = .checking ∧ (t.pty p).syncPass = false ∧ (t.pty p).syncAsid = field v 0 12 ∧ (t.pty p).syncBank = field v 16 1
        ∧ (t.pty p).syncTabGen = field v 32 32 ∧ (t.pty p).inForce = x.inForce ∧ (t.pty p).busyDrop = x.busyDrop))
    ∧ (x.syncState = .checking → x.syncPass = false →
      (∀ r i, x.syncBad = some (r, i) → i < 65536 → Completes (.syncCheckComplete p) s (fun t => t.pty p =
        { x with syncState := .rejected, syncReason := r, syncEntry := i, syncEntries := [], syncBad := none } ∧ ∀ q, q ≠ p.val → t.pty q = s.pty q))
      ∧ (x.syncBad = none → ∀ i w, x.syncEntries[i]? = some w → i < 65536 → (∀ j < i, goodEntry x.syncEntries j) → ¬ goodEntry x.syncEntries i →
        Completes (.syncCheckComplete p) s (fun t => t.pty p =
          { x with syncState := .rejected, syncReason := if rangeEntryOk w then 1 else 2, syncEntry := i, syncEntries := [], syncBad := none }
          ∧ ∀ q, q ≠ p.val → t.pty q = s.pty q))
      ∧ (x.syncBad = none → (∀ j < x.syncEntries.length, goodEntry x.syncEntries j) →
        (coherentEntries x.syncEntries).length + (x.reverse.filter (fun e => e.asid != x.syncAsid)).length ≤ 4096 →
        Completes (.syncCheckComplete p) s (fun t => t.pty p = { x with syncPass := true, syncGen := x.syncTabGen, syncReason := 0, syncEntry := 0 }
          ∧ ∀ q, q ≠ p.val → t.pty q = s.pty q)))
    ∧ (∀ c, x.syncState = .inForce → Tbl.find x.inForce x.syncAsid = some c → olderTransfer s p x.syncAsid c.gen = false →
      Completes (.syncDrained p) s (fun t => t.pty p = { x with syncState := .drained } ∧ ∀ q, q ≠ p.val → t.pty q = s.pty q))

/-- The keeper serves its commands, no state-changing one is in progress, and the node is in service. -/
structure KeeperServes (s : State) : Prop where
  up : mctpUp s = true
  idle : s.keeper.busy = false
  service : canChange s = true

/-- Each of the three reset commands, taken by a keeper that is not busy on a ready node whose state may be changed: the answer is OK, and the reset waits with the keeper busy. TEARDOWN while it waits: the node is in teardown; requests still queued whose target extent the staged slice keeps stay queued, each other one leaves the queue, and one that came over a port is answered WITHDRAWN. TEARDOWN_COMPLETE in teardown with no accepted request left, every rill OFF and the domains taken down: while units are dirty, the cleaning of each of them waits for a maintenance slot or the flash gate; with none dirty, the log is written and sealed; after SHUTDOWN the rails are off and the shutdown counts as orderly; after WARM_REBOOT the boot awaits step 4 and after COLD_REBOOT, main rails off, step 2, each counted as a boot, and no dirty shutdown is counted. POWER_ON off, and OFF_INPUT_RETURN off other than by an alarm: a cold boot begins and is counted. -/
def Obligations.TeardownShutdownAndPowerOn : Prop :=
  (∀ s : State, KeeperServes s → s.boot.ready = true →
    let waits := fun (code kind cause : Nat) (t : State) => t.keeper.reboot = kind ∧ t.keeper.rebootCause = cause ∧ t.keeper.busy = true ∧ t.boot = s.boot
      ∧ t.out = s.out ++ [.keeper code 0 []]
    Completes .shutdown s (waits 0x20 1 0) ∧ Completes .coldReboot s (waits 0x22 3 2)
    ∧ (s.boot.phase ≠ .boardTest → s.pins.mainRails = true → Completes .warmReboot s (waits 0x21 2 1)))
  ∧ (∀ s : State, s.keeper.reboot ≠ 0 → s.boot.ready = true → Completes .teardown s (fun t => t.map.teardown = true
      ∧ t.map.staged = (if s.map.teardown then s.map.staged else stagedSlice s)
      ∧ t.weir.queue = s.weir.queue.filter (fun q => targetKept t q.req) ∧ t.weir.pipe = s.weir.pipe
      ∧ ∀ q ∈ s.weir.queue, targetKept t q.req = false → ∀ p l, q.req.src = .port p l → q.req.join = none → hasResponse q.req.op = true →
          ∃ i ∈ t.net.txq, i.port = p ∧ i.isReq = false ∧ i.hdr = rspCell { tag := q.req.tag, status := .withdrawn, data := 0, prov := false, ptag := 0 }))
  ∧ (∀ s : State, s.map.teardown = true → acceptedLeft s = false → rillsOn s = [] → s.keeper.written.isSome = true → dirtyAll s ≠ [] → Completes .teardownComplete s (fun t =>
      t.map.teardown = true ∧ t.boot = s.boot ∧ ∀ u ∈ dirtyAll s, ∃ w ∈ t.weir.maint ++ t.weir.flashQ, w.2 = .clean u))
  ∧ (∀ s : State, s.map.teardown = true → acceptedLeft s = false → rillsOn s = [] → s.keeper.written.isSome = true ∨ s.coh.domains = [] → dirtyAll s = [] → Completes .teardownComplete s (fun t =>
      t.nv.batch = [] ∧ t.boot.ready = false ∧ t.keeper.busy = false ∧ t.keeper.reboot = 0
      ∧ (s.keeper.reboot = 1 → t.boot.phase = .down ∧ t.pins.mainRails = false ∧ t.nv.orderly = true ∧ t.nv.bootNumber = s.nv.bootNumber)
      ∧ (s.keeper.reboot = 2 → t.boot.phase = .awaiting 4 ∧ t.nv.bootNumber = (s.nv.bootNumber + 1) % 2 ^ 32 ∧ t.nv.dirtyShutdowns = s.nv.dirtyShutdowns)
      ∧ (s.keeper.reboot = 3 → t.boot.phase = .awaiting 2 ∧ t.pins.mainRails = false ∧ t.nv.bootNumber = (s.nv.bootNumber + 1) % 2 ^ 32
          ∧ t.nv.dirtyShutdowns = s.nv.dirtyShutdowns)))
  ∧ ∀ s : State, s.boot.phase = .down →
      let boots := fun (t : State) => t.boot.phase = .awaiting 2 ∧ t.pins.mainRails = false ∧ t.nv.bootNumber = (s.nv.bootNumber + 1) % 2 ^ 32
        ∧ t.nv.dirtyShutdowns = s.nv.dirtyShutdowns + (if s.nv.orderly then 0 else 1)
      (s.keeper.up = true → s.keeper.busy = false → Completes .powerOn s (fun t => boots t ∧ t.out = s.out ++ [.keeper 0x23 0 []]))
      ∧ (s.boot.byAlarm = false → Completes .offInputReturn s boots)

/-- No page waits for a frame, none stays in a retired one or away from its preferred race, and no FILL waits, so that a move's end starts no
other move (R63, R70, R76, R222). -/
def Settled (s : State) : Prop :=
  s.store.wanted = [] ∧ (∀ e ∈ s.store.tier, e.2.frame ∉ s.store.retired ∧ e.2.away = false) ∧ s.rill.firings = []

/-- The requests held for a page: its fill list first, then those that wait for its move. -/
def heldFor (s : State) (page : Nat) : List Req :=
  (s.weir.parked.filter (fun q => q.1 == page)).map (·.2.req) ++ s.weir.waitMove.filter (fun r => tierPage (addrOffset r.addr) == page)

/-- They are in the pipeline, in front of what was admitted after them, and no longer held. -/
def GoOn (s t : State) (page : Nat) : Prop :=
  heldFor t page = [] ∧ t.weir.pipe = (heldFor s page).map (fun r => { r with seen := [] }) ++ s.weir.pipe

/-- With no other move waiting to start: DEMAND_FILL_COMPLETE of a granted fill in the preferred race into a frame that no page still leaves: the page is PLAIN in the move's frame, the move is over, the requests held for the page go on in front of those admitted later, units not recovered are poisoned, other pages keep their entries. TIER_MOVE_COMPLETE of an admitted move of an unpinned page with no transaction open on it: a compression to at most 96 granules leaves it RIFFLE, to more PLAIN and marked RIFFLE_NO; a move to flash leaves it FLASH without dirty units; the held requests go on. STEER of a pool: with free frames from the low to the high mark nothing changes; below both marks the first unpinned page from the hand, PLAIN, undamaged and counted below FLASH_BELOW, starts a move to flash; a pinned page keeps its entry. COUNTER_EPOCH halves every COUNT and clears every RIFFLE_NO. SCRUB, its patrol work admitted in its race, counts the corrected lines and poisons the uncorrectable ones of its pseudo-channel; a row with such a line, 16 corrected, or corrections in a third pass is logged once as failing and its frames that hold no PLAIN page and take none in are retired; not admitted, it changes nothing. -/
def Obligations.TierPagesMove : Prop :=
  (∀ (s : State) (page : Nat) (lost recovered : List Nat) (m : Move), Quiet s → m.race = preferredRace s page → findMove s page = some m → m.src = .flash → m.dest = .plain → isOn s (.fill page) = true →
      (∀ x ∈ s.store.moves, x.page ≠ page → x.src = .plain → (tierOf s x.page).frame ≠ m.frame) → Settled s → m.frame ∉ s.store.retired →
      (∀ q ∈ s.weir.parked, q.1 = page → ∀ u ∈ unitsOf (addrOffset q.2.req.addr) q.2.req.len, u ∈ lost → u / 16 ≠ page) →
    Completes (.demandFillComplete page lost recovered) s (fun t => (tierOf t page).state = .plain ∧ (tierOf t page).frame = m.frame ∧ (tierOf t page).race = m.race
      ∧ findMove t page = none ∧ GoOn s t page ∧ (∀ u ∈ lost, u / 16 = page → ∀ l, l / 64 = u → l ∈ t.store.poison) ∧ ∀ q, q ≠ page → tierOf t q = tierOf s q))
  ∧ (∀ (s : State) (page granules : Nat) (m : Move), Quiet s → findMove s page = some m → m.src ≠ .flash → m.dest ≠ .plain → isPinned (tierOf s page) = false →
      isOn s (.move page) = true → Settled s → inTransaction s page = false → (tierOf s page).frame ∉ s.store.retired → isDamaged s page = false →
    Completes (.tierMoveComplete page granules) s (fun t => findMove t page = none ∧ GoOn s t page
      ∧ (m.dest = .riffle → 96 < granules → tierOf t page = { tierOf s page with state := .plain, riffleNo := true })
      ∧ (m.dest = .riffle → granules ≤ 96 → (tierOf t page).state = .riffle ∧ (tierOf t page).granules = granules)
      ∧ (m.dest ≠ .riffle → (tierOf t page).state = .flash ∧ ∀ i < 16, i ∉ (tierOf t page).dirty)))
  ∧ (∀ (s : State) (pool : Fin 1024), let low := waterMark s pool s.hw.settings.lowWater; let high := waterMark s pool s.hw.settings.highWater
      (low ≤ freeCount s pool → freeCount s pool ≤ high → Completes (.steer pool) s (fun t => t = s))
      ∧ (∀ page e rest, freeCount s pool < low → steerFree s pool < high → sweepList s pool = (page, e) :: rest → e.state = .plain → tierOf s page = e →
          e.count < s.hw.settings.flashBelow → isDamaged s page = false → s.store.tier.Pairwise (fun a b => a.1 < b.1) →
        Completes (.steer pool) s (fun t => (∃ m ∈ t.store.moves, m.page = page ∧ m.src = .plain ∧ m.dest = .flash)))
      ∧ Completes (.steer pool) s (fun t => freeCount s pool < low → ∀ q, isPinned (tierOf s q) = true → s.store.tier.Pairwise (fun a b => a.1 < b.1) → tierOf t q = tierOf s q))
  ∧ (∀ s : State, Completes .counterEpoch s (fun t => ∀ page, tierOf t page = { tierOf s page with count := (tierOf s page).count / 2, riffleNo := false }))
  ∧ ∀ (s : State) (x : ScrubRow), let pool := rowPool s x; let n := rowNumber x
      ((x.race.val, .scrub) ∉ s.weir.flashOn → Completes (.scrub x) s (fun t => t = s))
      ∧ ((x.race.val, .scrub) ∈ s.weir.flashOn → rowLines s x = [] → x.corrected < 16 → Tbl.get 0 s.store.rowPasses n < 2 → Completes (.scrub x) s (fun t =>
        Tbl.get 0 t.store.correctedErr pool = Tbl.get 0 s.store.correctedErr pool + x.corrected
        ∧ Tbl.get 0 t.store.rowPasses n = Tbl.get 0 s.store.rowPasses n + (if x.corrected = 0 then 0 else 1)
        ∧ t.nv = s.nv ∧ t.keeper = s.keeper ∧ t.store.tier = s.store.tier ∧ t.store.poison = s.store.poison ∧ t.store.retired = s.store.retired))
      ∧ ((x.race.val, .scrub) ∈ s.weir.flashOn → rowLines s x ≠ [] ∨ 16 ≤ x.corrected ∨ (2 ≤ Tbl.get 0 s.store.rowPasses n ∧ x.corrected ≠ 0) → (∀ r ∈ s.nv.retiredRows, r.1 ≠ n) → s.nv.retiredRows.length < 4096 → s.keeper.up = true →
          (∀ e ∈ s.store.tier, e.2.state = .plain → e.2.frame ∉ rowFrames s x) → (∀ m ∈ s.store.moves, m.dest = .plain → m.frame ∉ rowFrames s x) →
        Completes (.scrub x) s (fun t => (∀ l ∈ rowLines s x, l ∈ t.store.poison) ∧ (∀ f ∈ rowFrames s x, f ∈ t.store.retired)
          ∧ t.nv.retiredRows = s.nv.retiredRows ++ [(n, rowFrames s x)] ∧ ∃ e ∈ t.keeper.buf, e.code = 0x0501 ∧ e.arg0 = n))

/-- A DURABLE STORE from an agent that its home can perform: whole, on a PLAIN page, checks past, lines sound and without directory entry,
outside the message areas. -/
structure DurableStore (s : State) (r : Req) : Prop where
  op : r.op = .store ∧ r.durable = true ∧ r.provOk = false
  source : fromAgent r.src = true
  whole : r.join = none ∧ r.seen = []
  space : addrSpace r.addr = 0
  checks : memCheck s r = none ∧ targetOk r = true
  plain : (tierOf s (tierPage (addrOffset r.addr))).state = .plain
  direct : ∀ l ∈ linesOf (addrOffset r.addr) r.len, dirFind s l = none
  data : r.data.length = r.len
  sound : readStatus s (addrOffset r.addr) r.len {} = .ok
  noArea : areaSlot s (addrOffset r.addr) = none
  quiet : Quiet s
  counted : ∀ x ∈ s.coh.snoops, (x.wb && x.wbGot) = false

/-- The write is performed and answered. -/
def Written (s t : State) (r : Req) : Prop := t.store.mem = s.store.mem.writeN (addrOffset r.addr) r.data ∧ AnsweredOk r [] t

/-- Every unit of the write is durable-dirty and charged. -/
def Charged (t : State) (r : Req) : Prop :=
  ∀ u ∈ unitsOf (addrOffset r.addr) r.len, u % 16 ∈ (tierOf t (u / 16)).durable ∧ (Tbl.find t.store.charged u).isSome = true

/-- Flash holds what memory holds in a unit, under its partition's key, and the unit is charged to no party. -/
def CleanUnit (t : State) (u : Nat) : Prop :=
  Tbl.find t.store.charged u = none ∧ t.nv.flash.readN (u * 4096) 4096 = cipherUnit t t.store.mem u

/-- A DURABLE STORE of a party to a PLAIN page, its checks past and its lines sound and uncached. Below the party's share it is performed: its bytes are in memory and every unit it touches is durable-dirty and charged. At the share it parks and memory is unchanged; PARKED_WRITE_RELEASE performs it once its party is below its share. In write-through it waits with memory unchanged, its unit's program waiting for a maintenance slot; WRITE_THROUGH_PROGRAMMED of its unit, granted the flash gate, performs and answers it, and then flash holds what memory holds in every unit it touches, enciphered, and none of them is charged. CLEAN_WATER from half of the party's share on: each unit charged to the party waits for a maintenance slot to be cleaned; below half nothing changes. A WEIR_SLOT that grants the flash gate to such a unit's race cleans it: flash holds what memory holds in it and it is charged to no party. -/
def Obligations.DurableWritesReachFlash : Prop :=
  (∀ (s : State) (r : Req), DurableStore s r → r ∈ s.weir.pipe → mayPerform s r = true → let fate := durFate s r.party (unitsOf (addrOffset r.addr) r.len)
    (fate = .now → Completes (.store r) s (fun t => Written s t r ∧ Charged t r))
    ∧ (fate = .parkShare → Completes (.store r) s (fun t => t.store.parkedW = s.store.parkedW ++ [{ r with ecc := {} }] ∧ t.store.mem = s.store.mem))
    ∧ (fate = .through → Completes (.store r) s (fun t => t.store.wt = s.store.wt ++ [{ req := { r with ecc := {} }, unit := unitOf (addrOffset r.addr) }] ∧ t.store.mem = s.store.mem
      ∧ ∃ race, (race, .program (unitOf (addrOffset r.addr))) ∈ t.weir.maint)))
  ∧ (∀ (s : State) (p : Fin 8) (r : Req), DurableStore s r → r.party = p.val → durFate s p (unitsOf (addrOffset r.addr) r.len) = .now →
      s.store.parkedW.find? (fun r => r.party == p.val && durFate s p (unitsOf (addrOffset r.addr) r.len) != .parkShare) = some r →
    Completes (.parkedWriteRelease p) s (fun t => Written s t r ∧ Charged t r ∧ t.store.parkedW = s.store.parkedW.erase r))
  ∧ (∀ (s : State) (unit : Nat) (w : WtWrite), DurableStore s w.req → s.store.wt.find? (fun w => w.unit == unit) = some w → writeThrough s w.req.party = true →
      isOn s (.program unit) = true → memoriesWf s → (∀ u ∈ unitsOf (addrOffset w.req.addr) w.req.len, isDamaged s (u / 16) = false) →
    Completes (.writeThroughProgrammed unit) s (fun t => Written s t w.req ∧ t.store.wt = s.store.wt.erase w ∧ ∀ u ∈ unitsOf (addrOffset w.req.addr) w.req.len, CleanUnit t u))
  ∧ (∀ (s : State) (p : Fin 8),
      (shareUnits s p ≤ 2 * dirtyUnits s p → Completes (.cleanWater p) s (fun t => t.store = s.store ∧ t.nv = s.nv
        ∧ ∀ c ∈ s.store.charged, c.2 = p.val → ∃ race, (race, .clean c.1) ∈ t.weir.maint))
      ∧ (2 * dirtyUnits s p < shareUnits s p → Completes (.cleanWater p) s (fun t => t = s)))
  ∧ ∀ (s : State) (w : WeirTable) (race u : Nat) (rest : List (Nat × FlashWork)), WeirRuns s w → s.weir.queue = [] → s.weir.maint = [] → memoriesWf s →
      (slotNow w s).flashEn = true → (slotNow w s).flashRace = race → s.weir.flashQ = (race, .clean u) :: rest →
      (w.isOpen || workParty s (.clean u) == ((slotNow w s).race race).party) = true →
      (Tbl.find s.store.charged u).isSome = true → isDamaged s (u / 16) = false →
    Completes .weirSlot s (fun t => CleanUnit t u ∧ t.store.mem = s.store.mem ∧ t.weir.flashQ = rest)

/-- In service, no flush active. -/
structure Unflushed (s : State) : Prop where
  ready : s.boot.ready = true
  phase : s.boot.phase = .released
  none : flushActive s = false

/-- A flush starts at the next period boundary, for this trigger. -/
def Pending (t : State) (cause : Nat) (power : Bool) : Prop := t.flush.pending = true ∧ t.flush.toPower = power ∧ t.flush.trigger = cause

/-- PFW_ASSERT, not yet taken: in reset the boot waits for the input; after die release and before READY the pins show a flush that is done; in service the inputs are off, a reset or transfer under way is given up, and a power flush is pending, or a flush that is active is to become one. INPUT_SAG pulls PFW#; INPUT_RECOVERED releases it and starts a cold boot where PFW# stopped the boot or a flush was cut. BRACE_ASSERT with the inputs on, and the SHOCK_SAMPLE that completes SHOCK_SAMPLES at the threshold: during boot they are noted, in service without a flush an early flush is pending that braces the node at its end. A sample below the threshold ends the run. BRACE_DEASSERT clears the pin. FLUSH_UNIT_PROGRAMMED in a flush, granted the flash gate: the manifest holds the flush set; then the first unit left of it leaves the set with its contents, enciphered, in the reserve. -/
def Obligations.FlushesAreTriggeredAndProgrammed : Prop :=
  (∀ s : State, s.pins.standby = true → s.pins.pfwTaken = false →
      (s.pins.dieReset = true → ∀ n, s.boot.phase = .awaiting n → Completes .pfwAssert s (fun t => t.boot.phase = .waitInput ∧ t.pins.pfwTaken = true))
      ∧ (s.pins.dieReset = false → s.boot.ready = false → s.boot.phase = .released →
        Completes .pfwAssert s (fun t => t.boot.phase = .flushed ∧ t.pins.flushDone = true ∧ t.pins.braidRun = false ∧ t.pins.pfwTaken = true))
      ∧ (s.pins.dieReset = false → s.boot.ready = true → Completes .pfwAssert s (fun t => t.pins.pfwTaken = true ∧ t.pins.inputsOn = false ∧ t.pins.braidRun = false
          ∧ t.keeper.reboot = 0 ∧ t.keeper.busy = false ∧ t.keeper.transfer = none ∧ t.map.teardown = false
          ∧ (flushActive s = false → Pending t 0 true) ∧ (flushActive s = true → t.flush = { s.flush with toPower := true }))))
  ∧ (∀ s : State, s.pins.standby = true → Completes .inputSag s (fun t => t.pins.pfwOwn = true ∧ t.pins.inputGood = false)
      ∧ Completes .inputRecovered s (fun t => t.pins.pfwOwn = false ∧ t.pins.inputGood = true
        ∧ (s.boot.phase = .waitInput ∨ s.flush.cut = true → t.boot.phase = .awaiting 2 ∧ t.nv.bootNumber = (s.nv.bootNumber + 1) % 2 ^ 32)))
  ∧ (∀ s : State, s.pins.inputsOn = true → s.pins.brace = false →
      (Unflushed s → Completes .braceAssert s (fun t => t.pins.brace = true ∧ Pending t 1 false ∧ 1 ∈ t.flush.braceNext))
      ∧ (s.boot.phase = .released → s.boot.ready = false → Completes .braceAssert s (fun t => t.pins.brace = true ∧ 1 ∈ t.flush.bootBrace ∧ t.flush.pending = s.flush.pending)))
  ∧ (∀ (s : State) (x y z : Int), s.keeper.up = true → 256 ≤ s.keeper.gravSamples.length →
      (atLevel s (x, y, z) (50 * s.hw.settings.shockThreshold) = true → s.keeper.shockRun + 1 = s.hw.settings.shockSamples → Unflushed s →
        Completes (.shockSample x y z) s (fun t => Pending t 2 false ∧ 2 ∈ t.flush.braceNext ∧ t.keeper.shockRun = s.hw.settings.shockSamples))
      ∧ (atLevel s (x, y, z) (50 * s.hw.settings.shockThreshold) = false → Completes (.shockSample x y z) s (fun t => t.flush = s.flush ∧ t.keeper.shockRun = 0)))
  ∧ (∀ s : State, Completes .braceDeassert s (fun t => t = { s with pins := { s.pins with brace := false } }))
  ∧ ∀ s : State, s.flush.kind ≠ .none → s.flush.cut = false → memoriesWf s →
      (s.flush.manifestDone = false → isOn s .manifest = true → Completes (.flushUnitProgrammed none) s (fun t => t.flush.manifestDone = true ∧ t.nv.reserve.manifest = s.flush.set ∧ t.nv.reserve.complete = true))
      ∧ ∀ u, s.flush.manifestDone = true → s.flush.left.head? = some u → isOn s (.spate u) = true → Completes (.flushUnitProgrammed (some u)) s (fun t => u ∉ t.flush.left ∧ u ∈ t.nv.reserve.units
          ∧ (∀ v, v ≠ u → (v ∈ t.flush.left ↔ v ∈ s.flush.left)) ∧ t.store = s.store
          ∧ t.nv.reserve.data.readN (u * 4096) 4096 = cipherUnit s s.store.mem u)

/-- Every rail is off, the keeper with them, and DRAM has lost its contents. -/
def AllOff (s t : State) : Prop :=
  t.pins.standby = false ∧ t.pins.mainRails = false ∧ t.keeper.up = false ∧ t.keeper.buf = [] ∧ t.boot.phase = .noPower ∧ t.boot.ready = false ∧ t.store.mem = []
  ∧ t.nv.flash = s.nv.flash ∧ t.nv.log = s.nv.log ∧ (s.nv.batch ≠ [] → t.nv.lossOpen = true)
  ∧ (s.flush.kind = .none → s.boot.ready = true → s.store.charged ≠ [] → t.nv.reserve = { present := true })

/-- SERDES_OFF in a power flush with no admitted request left: the SerDes are off, every link is down, and the poison list of the reserve holds every owned or modified line of the durable pages. With everything but the record programmed, FLUSH_DONE of a power flush and EARLY_FLUSH_COMPLETE of an early one program the record; the first leaves the node flushed with FLUSH_DONE driven; the second ends the flush, selects the table in force before it, and braces the node where the flush was to, and starts the power flush that PFW# asked for. FLUSH_LOW_INPUT cuts an active flush. POST_FLUSH_REBOOT of a flushed node starts a cold boot. BRACE_HOLDOFF_END with the brace quiet ends the braced state. STANDBY_LOST and HOT_SWAP_TRIP stop the keeper and lose memory but not flash; a trip without a flush leaves an incomplete reserve. ALARM_SHUTDOWN turns the rails off, the lines to poison listed in the reserve. -/
def Obligations.FlushesEndAndPowerGoes : Prop :=
  (∀ s : State, s.flush.kind = .power → s.flush.serdesOff = false → admittedOpen s = false → Completes .serdesOff s (fun t =>
      t.flush.serdesOff = true ∧ t.pins.serdes = false ∧ (∀ l, (Tbl.find t.net.links l).isSome = true → (t.link l).mode = .down)
      ∧ ∀ e ∈ s.coh.dir, e.state = .o ∨ (e.state = .em ∧ e.modified = true) → e.line / 1024 ∈ s.nv.durMap → e.line ∈ t.nv.reserve.poisonList))
  ∧ (∀ s : State, flushReady s = true →
      (s.flush.kind = .power → s.flush.serdesOff = true → s.boot.phase ≠ .flushed → Completes .flushDone s (fun t =>
        t.nv.reserve = { s.nv.reserve with record := true } ∧ t.boot.phase = .flushed ∧ t.pins.flushDone = true ∧ t.pins.holdReq = false))
      ∧ (s.flush.kind = .early → Completes .earlyFlushComplete s (fun t => t.nv.reserve = { s.nv.reserve with record := true } ∧ t.flush.kind = .none
          ∧ t.weir.selected = some s.weir.before ∧ t.flush.braceNext = [] ∧ (∀ c ∈ s.flush.braceNext, t.flush.braced = true ∧ c ∈ t.flush.causes)
          ∧ (s.flush.braceNext = [] → t.flush.braced = s.flush.braced)
          ∧ (s.flush.toPower = true → s.flush.pending = false → t.flush.pending = true ∧ t.flush.toPower = true))))
  ∧ (∀ s : State, flushActive s = true → s.boot.phase ≠ .flushed → Completes .flushLowInput s (fun t => t.flush.cut = true ∧ t.pins.inputGood = false
      ∧ t.flush.pending = false ∧ (s.flush.pending = true → t.nv.reserve = { present := true }) ∧ (s.flush.pending = false → t.nv = s.nv)))
  ∧ (∀ s : State, s.boot.phase = .flushed → s.pins.flushDone = true → Completes .postFlushReboot s (fun t => t.boot.phase = .awaiting 2 ∧ t.pins.inputGood = true
      ∧ t.nv.reserve = s.nv.reserve ∧ t.nv.bootNumber = (s.nv.bootNumber + 1) % 2 ^ 32))
  ∧ (∀ s : State, s.flush.braced = true → braceQuiet s = true → Completes .braceHoldoffEnd s (fun t => t.flush.braced = false ∧ t.flush.causes = []
      ∧ (s.keeper.up = true → t.keeper.alert = removeNat alertBraced s.keeper.alert ∧ Logged s t 0x0305 0 (s.flush.causes.headD 0))))
  ∧ (∀ s : State, s.pins.standby = true → Completes .standbyLost s (AllOff s) ∧ Completes .hotSwapTrip s (AllOff s))
  ∧ ∀ s : State, s.flush.alarmOff = true → Completes .alarmShutdown s (fun t => t.boot.phase = .down ∧ t.boot.byAlarm = true ∧ t.pins.mainRails = false
      ∧ (s.flush.pending = false → t.nv.reserve = { s.nv.reserve with poisonList := insertAll (poisonListOf s) s.nv.reserve.poisonList }))

/-- A rill command is performed at once. -/
structure RillServed (s : State) (p rill : Nat) : Prop where
  own : ownsRill s p rill = true
  ready : s.boot.ready = true
  idle : (Tbl.get {} s.rill.ctl p).result ≠ 1
  onChip : rill ∈ s.rill.cache

/-- RILL_STATUS of the party tells of the rill: DONE 0 or REJECTED 2 with a reason. -/
def Told (t : State) (p rill result reason : Nat) : Prop :=
  let c := Tbl.get {} t.rill.ctl p
  c.rill = rill ∧ c.state = (rillOf t rill).state ∧ c.gen = (rillOf t rill).gen ∧ c.fault = (rillOf t rill).fault ∧ c.result = result ∧ c.reason = reason ∧ c.waiting = none

/-- The address of a rill's image. -/
def imageAddr (s : State) (p rill : Nat) : Nat := (s.pty p).rillBase.toNat + 128 * (rill - (partyRec s p).rillFirst)

/-- A command of a party to its own rill, on a ready node, none of its commands BUSY and the entry on chip; RILL_STATUS then tells the outcome and the rill's state. CONFIGURE of a rill that is OFF takes a good, well placed image and rejects others as BAD_LOCATION or BAD_FIELD; of any other it is rejected as STATE. ENABLE of an OFF rill with good parameters and courses makes it ACTIVE under the next generation with an empty ring; it rearms a DRAINING rill, is rejected for a FAULTED one and does nothing to others. DISABLE of an ACTIVE or FAULTED rill cancels every descriptor not started and leaves it DRAINING, and a rearmed one DRAINING. ABORT of an ACTIVE rill also cuts every running descriptor. QUERY changes only the status. A command to another party's rill or before READY changes no rill; one while BUSY only sets CMD_DROP; one to an entry not on chip waits BUSY. -/
def Obligations.RillCommandsChangeRills : Prop :=
  ∀ (s : State) (p : Fin 8) (rill : Nat), let e := rillOf s rill
    (RillServed s p rill →
      (e.state ≠ .off → Completes (.configure p rill) s (fun t => rillOf t rill = e ∧ Told t p rill 2 1))
      ∧ (e.state = .off → inPrivate s p (imageAddr s p rill) 128 = false → Completes (.configure p rill) s (fun t => rillOf t rill = e ∧ Told t p rill 2 3))
      ∧ (e.state = .off → inPrivate s p (imageAddr s p rill) 128 = true → ∀ d, shufelRead s p (imageAddr s p rill) 128 = (.ok, d) → let ws := words64 16 d
        (imageOk ws = false → Completes (.configure p rill) s (fun t => rillOf t rill = e ∧ Told t p rill 2 2))
        ∧ (imageOk ws = true → imagePlaced s p (configured e ws) = true → Completes (.configure p rill) s (fun t => rillOf t rill = configured e ws ∧ Told t p rill 0 0)))
      ∧ (e.state = .off → ∀ ws, readParams s p rill = some ws → paramsOk s p rill ws = true → (e.courseCount = 0 ∨ sequencersBound s < 256 ∧ courseOk s rill = true) →
        e.kind ≠ 2 → (e.kind = 4 → (searchParam ws).serving = false) → Completes (.enable p rill) s (fun t => Told t p rill 0 0
          ∧ rillOf t rill = { e with params := ws, sequencer := decide (0 < e.courseCount), seqs := 0, state := .active, gen := (e.gen + 1) % 256, descHead := e.descTail, armed := false }))
      ∧ (e.state = .draining → Completes (.enable p rill) s (fun t => rillOf t rill = { e with state := .rearm } ∧ Told t p rill 0 0))
      ∧ (e.state = .faulted → Completes (.enable p rill) s (fun t => rillOf t rill = e ∧ Told t p rill 2 1))
      ∧ (e.state = .active ∨ e.state = .rearm → Completes (.enable p rill) s (fun t => rillOf t rill = e ∧ Told t p rill 0 0))
      ∧ (e.state = .active ∨ e.state = .faulted → e.fault ≠ faultCompWrite → Completes (.disable p rill) s (fun t => Told t p rill 0 0
          ∧ rillOf t rill = { e with descHead := e.descTail, state := .draining, fault := 0 }
          ∧ ∃ ds, t.rill.due = s.rill.due ++ ds ∧ ds.map (·.index) = indicesTo e.descHead e.descTail ∧ ∀ d ∈ ds, d.rill = rill ∧ d.status = .cancelled ∧ d.started = false))
      ∧ (e.state = .rearm → Completes (.disable p rill) s (fun t => rillOf t rill = { e with state := .draining } ∧ Told t p rill 0 0))
      ∧ (e.state = .active → (∀ j ∈ s.rill.jobs, j.rill = rill → j.outstanding ≠ 0) → s.rill.firings = [] → Completes (.abort p rill) s (fun t => Told t p rill 0 0
          ∧ (rillOf t rill).state = .draining ∧ t.rill.jobs = s.rill.jobs.map (fun j => if j.rill = rill then { j with cut := true } else j)))
      ∧ Completes (.rillQuery p rill) s (fun t => Told t p rill 0 0 ∧ t.rill.table = s.rill.table ∧ t.rill.jobs = s.rill.jobs))
    ∧ ∀ c ∈ [Instr.configure p rill, .enable p rill, .disable p rill, .abort p rill, .rillQuery p rill],
      (ownsRill s p rill = false ∨ s.boot.ready = false → Completes c s (fun t => t.rill = s.rill))
      ∧ (ownsRill s p rill = true → s.boot.ready = true → (Tbl.get {} s.rill.ctl p).result = 1 → Completes c s (fun t => t.rill.table = s.rill.table ∧ (Tbl.get {} t.rill.ctl p).cmdDrop = true))
      ∧ (ownsRill s p rill = true → s.boot.ready = true → (Tbl.get {} s.rill.ctl p).result ≠ 1 → rill ∉ s.rill.cache → Completes c s (fun t => t.rill.table = s.rill.table
          ∧ (Tbl.get {} t.rill.ctl p).result = 1 ∧ ∃ n, (Tbl.get {} t.rill.ctl p).waiting = some (n, rill)))

/-- No request of a descriptor or firing has landed uncounted. -/
def NoLandings (s : State) : Prop :=
  ∀ x ∈ s.weir.landed, match x.req.src with
    | .rill .. | .course .. => False
    | _ => True

/-- The next descriptor of a COPY rill may start: its slot in DRAM, a completion slot free. -/
structure MayStart (s : State) (rill : Nat) : Prop where
  landed : NoLandings s
  active : (rillOf s rill).state = .active
  onChip : rill ∈ s.rill.cache
  kind : (rillOf s rill).kind = 0
  posted : (rillOf s rill).descHead ≠ (rillOf s rill).descTail
  room : recordsOpen (rillOf s rill) + slotsHeld s rill < 2 ^ (rillOf s rill).compLog2
  here : restless s false ((rillOf s rill).descBase + 64 * ((rillOf s rill).descHead % 2 ^ (rillOf s rill).descLog2)) 64 = []

/-- The entry after a descriptor is taken. -/
def taken (e : RillEnt) : RillEnt := { e with descHead := (e.descHead + 1) % 65536, running := e.running + 1 }

/-- DOORBELL of a party to its own rill on a ready node: on chip and ACTIVE, not of kind 5, with no more posted than the rings hold, the entry takes DESC_TAIL and COMP_HEAD and the rill is pending; not on chip the fields wait and the rill is pending; RILL_CACHE_FILL then brings the entry on chip while its share has room and takes them. Another party's doorbell changes no rill. DESCRIPTOR_START of a COPY rill with a readable COPY descriptor, a free completion slot and fewer than 64 copies running: its job runs with its words and tag, DESC_HEAD and RUNNING advance; an undefined OP runs nothing and its record FAULT_PERMISSION is due; an unreadable slot faults the rill. COMPLETION_RECORD, no write of the engine for the party still waiting, writes a due record at COMP_TAIL, which advances, as a seal of the engine, whose next epoch opens, and the descriptor runs no longer; a write that fails faults an ACTIVE rill. DRAIN_COMPLETE with nothing of the rill left: DRAINING becomes OFF and a rearmed rill ACTIVE under the next generation with its parameter block read anew. -/
def Obligations.DescriptorsStartAndComplete : Prop :=
  (∀ (s : State) (p : Fin 8) (v : W64), let rill := field v 0 16; let e := rillOf s rill
    let rung := { e with descTail := field v 48 16, compHead := field v 32 16 }
    (ownsRill s p rill = false ∨ s.boot.ready = false → Completes (.doorbell p v) s (fun t => t.rill = s.rill))
    ∧ (ownsRill s p rill = true → s.boot.ready = true → rill ∈ s.rill.cache → e.state = .active → e.kind ≠ 5 →
        (rung.descTail + 65536 - e.descHead) % 65536 ≤ 2 ^ e.descLog2 → recordsOpen rung ≤ 2 ^ e.compLog2 →
      Completes (.doorbell p v) s (fun t => rillOf t rill = rung ∧ rill ∈ t.rill.pending ∧ t.rill.jobs = s.rill.jobs))
    ∧ (ownsRill s p rill = true → s.boot.ready = true → rill ∉ s.rill.cache → Completes (.doorbell p v) s (fun t =>
        Tbl.find t.rill.bells rill = some (field v 48 16, field v 32 16) ∧ rill ∈ t.rill.pending ∧ t.rill.table = s.rill.table)))
  ∧ (∀ (s : State) (rill tail head : Nat), let e := rillOf s rill; let rung := { e with descTail := tail, compHead := head }
      Tbl.find s.rill.bells rill = some (tail, head) → rill ∉ s.rill.cache → (∀ c ∈ s.rill.ctl, c.2.waiting = none) →
      (s.rill.cache.filter (fun r => !isSealed s || rillParty s r == rillParty s rill)).length < cacheShare s (rillParty s rill) →
      e.state = .active → e.kind ≠ 5 → (tail + 65536 - e.descHead) % 65536 ≤ 2 ^ e.descLog2 → recordsOpen rung ≤ 2 ^ e.compLog2 →
    Completes (.rillCacheFill rill) s (fun t => t.rill.cache = rill :: s.rill.cache ∧ Tbl.find t.rill.bells rill = none ∧ rillOf t rill = rung ∧ rill ∈ t.rill.pending))
  ∧ (∀ (s : State) (rill : Nat), MayStart s rill → let e := rillOf s rill
      (∀ ws, readDesc s rill e.descHead = some ws → (bit (nth 0 ws 0) 55 = true → e.running = 0 ∧ ∀ d ∈ s.rill.due, d.rill ≠ rill) →
        (bits (nth 0 ws 0) 56 8 = 1 → s.rill.jobs.countP (fun x => x.kind == 0) < 64 → Completes (.descriptorStart rill) s (fun t => rillOf t rill = taken e
          ∧ ∃ j, t.rill.jobs = s.rill.jobs ++ [j] ∧ j.rill = rill ∧ j.index = e.descHead ∧ j.kind = 0 ∧ j.words = ws.drop 2 ∧ j.userTag = nth 0 ws 1 ∧ j.gen = e.gen ∧ j.notify = bit (nth 0 ws 0) 54))
        ∧ (bits (nth 0 ws 0) 56 8 ≠ 1 → Completes (.descriptorStart rill) s (fun t => rillOf t rill = taken e ∧ (∀ j ∈ t.rill.jobs, j ∈ s.rill.jobs)
          ∧ ∃ d, t.rill.due = s.rill.due ++ [d] ∧ d.rill = rill ∧ d.index = e.descHead ∧ d.status = .faultPermission ∧ d.userTag = nth 0 ws 1)))
      ∧ (readDesc s rill e.descHead = none → Completes (.descriptorStart rill) s (fun t => rillOf t rill = { e with state := .faulted, fault := 1 })))
  ∧ (∀ (s : State) (rill index : Nat) (d : RecDue), let e := rillOf s rill; NoLandings s → (∀ j ∈ s.rill.jobs, j.rill = rill → j.cut = false ∧ j.withdrawn = false) →
      s.rill.due.find? (fun d => d.rill == rill && d.index == index) = some d → recordsOpen e < 2 ^ e.compLog2 → mayCall s engineKey = true → engineBusy s (rillParty s rill) = false →
      restless s true (e.compBase + 32 * (e.compTail % 2 ^ e.compLog2)) 32 = [] →
      let next := Tbl.put s.rill.epochs engineKey ((Tbl.get 0 s.rill.epochs engineKey + 1) % 256)
      ∀ st z, shufelWrite (rillParty s rill) (e.compBase + 32 * (e.compTail % 2 ^ e.compLog2)) false (bytes64 (recordWords s e d)) { s with rill := { s.rill with due := s.rill.due.erase d, epochs := next } } = (st, z) →
      let run := if d.started then e.running - 1 else e.running
    Completes (.completionRecord rill index) s (fun t => t.store = z.store ∧ t.rill.due = s.rill.due.erase d ∧ t.rill.epochs = next
      ∧ (st = .ok → rillOf t rill = { e with running := run, compTail := (e.compTail + 1) % 65536 }
        ∧ (e.notifyEn = true → d.notify = true → rillParty s rill < 2 → t.out = z.out ++ [.msix (rillParty s rill) e.msixVec]))
      ∧ (st ≠ .ok → e.state = .active → rillOf t rill = { e with running := run, state := .faulted, fault := 2 })))
  ∧ ∀ (s : State) (rill : Nat), let e := rillOf s rill; NoLandings s → (∀ j ∈ s.rill.jobs, j.rill ≠ rill) → (∀ d ∈ s.rill.due, d.rill ≠ rill) → (∀ f ∈ s.rill.firings, f.rill ≠ rill) → e.running = 0 →
    (e.state = .draining → Completes (.drainComplete rill) s (fun t => rillOf t rill = { e with state := .off, sequencer := false, seqs := 0 }))
    ∧ (e.state = .rearm → ∀ ws, readParams s (rillParty s rill) rill = some ws → paramsOk s (rillParty s rill) rill ws = true → e.kind ≠ 2 →
        (e.kind = 4 → (searchParam ws).serving = false) →
      Completes (.drainComplete rill) s (fun t => rillOf t rill = { e with params := ws, seqs := 0, state := .active, gen := (e.gen + 1) % 256, descHead := e.descTail, armed := false }))

/-- A request that a source issues under a table goes to one place: translated, through the range cache where that table is in force, to
one piece on this node within one 4 KiB block, outside fenced extents and open combinations, and fit for its operation. -/
structure GoesHome (s : State) (race party asid : Nat) (ctx : Option Ctx) (va len : Nat) (op : Op) (opf : W64) (p : Piece) : Prop where
  translated : (if ctxOf s party asid = ctx then (translateCached race party asid va len op s).1 else translateIn s ctx va len op) = .pieces [p]
  whole : p.len = len ∧ p.addr % 4096 + len ≤ 4096
  home : addrNode p.addr = s.node
  open_ : fencedPool s p.addr = false ∧ Uncovered s p.addr len
  fit : targetOk { op, opf, addr := va, cls := p.cls, coding := p.coding } = true

/-- Nothing of a rill is cut or withdrawn. -/
def Uncut (s : State) (rill : Nat) : Prop := ∀ j ∈ s.rill.jobs, j.rill = rill → j.cut = false ∧ j.withdrawn = false

/-- A descriptor has ended with a status: it runs no longer and its record is due. -/
def Ended (j : Job) (st : Status) (s t : State) : Prop :=
  findJob t j.rill j.index = none ∧ ∃ d, t.rill.due = s.rill.due ++ [d] ∧ d.rill = j.rill ∧ d.index = j.index ∧ d.status = st ∧ d.userTag = j.userTag

/-- A copy of at most one request from the host bus into memory, without a counter. -/
structure HostFetch (j : Job) : Prop where
  kind : j.kind = 0
  long : 0 < (copyOps j).len
  short : (copyOps j).len ≤ 4096
  unit : (copyOps j).chunkLog2 ≤ 12
  source : (copyOps j).srcHost = true
  dest : (copyOps j).dstHost = false
  counter : (copyOps j).counter = 0
  party : j.party ≤ 1
  clear : j.target = 0 ∧ j.err = none ∧ j.slots = [] ∧ j.builds = []

/-- COPY, a descriptor that has not begun, nothing else of its rill waiting to be counted: LEN 0 ends it with OK; a chunk size above 2^12 requests, two host ends, or a host end of a party other than a host's, ends it with FAULT_PERMISSION; a copy of at most 4,096 bytes from the host bus into memory, without a counter, begins and reads those bytes from the bus at SRC under a tag of its own. PCIE_DMA_COMPLETION of that read: its bytes go into one STORE request of the bulk class for the home of DST, queued there or waiting at the engine for a credit; a read that failed ends the copy with UNCORRECTABLE. CHUNK_LANDED after that store landed with OK ends the copy with OK, and its record is due with its user tag. -/
def Obligations.CopiesReadWriteAndEnd : Prop :=
  (∀ (s : State) (rill index : Nat) (j : Job), NoLandings s → Uncut s rill → findJob s rill index = some j → j.kind = 0 → j.begun = false →
      j.slots = [] → j.builds = [] → let o := copyOps j
      (o.len = 0 → Completes (.copy rill index) s (Ended j .ok s))
      ∧ (o.len ≠ 0 → 12 < o.chunkLog2 ∨ (o.srcHost = true ∧ o.dstHost = true) ∨ ((o.srcHost = true ∨ o.dstHost = true) ∧ 1 < j.party) →
        Completes (.copy rill index) s (Ended j .faultPermission s)))
  ∧ (∀ (s : State) (rill index : Nat) (j : Job), NoLandings s → Uncut s rill → findJob s rill index = some j → HostFetch j → j.begun = false → j.next = 0 → j.chunks = [] →
      rillOutstanding s rill < 4096 →
    Completes (.copy rill index) s (fun t => t.out = s.out ++ [.pcieRead j.party s.rill.nextDma (copyOps j).src (copyOps j).len]
      ∧ t.rill.dma = s.rill.dma ++ [{ tag := s.rill.nextDma, rill, index, num := 0 }] ∧ t.rill.due = s.rill.due
      ∧ findJob t rill index = some { j with begun := true, counterOk := true, next := 1, chunks := [{ num := 0, reads := 1 }] }))
  ∧ (∀ (s : State) (port : Fin 2) (tag rill index : Nat) (j : Job), NoLandings s → Uncut s rill → findJob s rill index = some j → HostFetch j → j.begun = true → j.counterOk = true → j.next = 1 →
      j.chunks = [{ num := 0, reads := 1 }] → rillOutstanding s rill < 4096 →
      s.rill.dma.find? (fun d => d.tag == tag) = some { tag, rill, index, num := 0 } → (∀ o ∈ s.shoal.outcomes, o.xfer ≠ { course := false, rill, index }) →
      (∀ (d : Bytes) (p : Piece), d.length = (copyOps j).len → GoesHome s 0 j.party j.asid j.ctx (copyOps j).dst d.length .store 0#64 p →
        Completes (.pcieDmaCompletion port tag (some d)) s (fun t => Placed s t (fun q => q.op = .store ∧ q.addr = p.addr ∧ q.len = d.length ∧ q.data = d
          ∧ q.origin = ⟨s.node, j.party⟩ ∧ q.src = .rill rill index 0 ∧ q.tclass = .bulk)))
      ∧ (Completes (.pcieDmaCompletion port tag none) s (fun t => Ended j .uncorrectable s t ∧ t.weir.queue = s.weir.queue)))
  ∧ ∀ (s : State) (rill index : Nat) (j : Job) (x : Landed), s.weir.landed = [x] → index ≠ probeIndex → x.req.src = .rill rill index 0 → x.req.op = .store → x.status = .ok → Uncut s rill →
      findJob s rill index = some j → HostFetch j → j.begun = true → j.counterOk = true → j.next = 1 → j.chunks = [{ num := 0, reads := 1, readsDone := 1, issued := 1 }] →
      (∀ o ∈ s.shoal.outcomes, o.xfer ≠ { course := false, rill, index }) →
    Completes (.chunkLanded false rill index 0) s (Ended j .ok s)

/-- The rill may take reach updates of a party. -/
structure OnCourse (s : State) (p : Nat) (rill : Nat) : Prop where
  owns : ownsRill s p rill = true
  active : (rillOf s rill).state = .active
  course : (rillOf s rill).courseCount ≠ 0

/-- An ADVANCE to v is taken, and no whole lap is passed. -/
structure Advances (s : State) (p : Nat) (rill v : Nat) : Prop extends OnCourse s p rill where
  armed : (rillOf s rill).armed = true
  newer : serCmp 32 v (rillOf s rill).reach = .newer
  within : (v + 2 ^ 32 - (rillOf s rill).lapBase) % 2 ^ 32 < 2 * lapLen (rillOf s rill)

/-- The fire point of entry c of a rill. -/
def firePoint (e : RillEnt) (c : CourseEntry) : Nat := (e.lapBase + fireOff e c) % 2 ^ 32

/-- TIDE_TICK with standby power adds 1 to the tide count, but at half rate while the count is ahead of its aligned value. The first TIDE_MARKER changes no count; a second one in place locks the count: to the next multiple of 1,000,000, or to the loaded seconds where they are not behind it, and TIDE_FREE becomes 0; a value behind the count leaves it. TIDE_LOSS sets TIDE_FREE. TIDE_LOAD keeps its seconds for the next marker. REACH_SET of the rill's own party on an ACTIVE rill with a course: REACH and LAP_BASE take the position, COURSE_NEXT is 0, the rill is armed. ADVANCE: the same position changes nothing; an older one, a rill not armed, not ACTIVE or without a course counts in REACH_DROP; a newer one less than two laps on, with the next entry not due, sets REACH; with it due and its target ahead, the next one not due and a 4 KiB tile on this node, no FILL and no coded tile for a partner, no earlier firing of the rill with requests still to issue, sets REACH, moves on one entry and issues the tile's LOAD, queued at its home or waiting for a credit; with its target reached, counts it late. REACH_FRAME of 64 edges with a good CRC for a rill of the reach party does what the register write does; with another count or a bad CRC it is dropped and counted. -/
def Obligations.TideCountsAndReachFires : Prop :=
  (∀ s : State, s.pins.standby = true →
      (s.tide.slew = 0 ∨ s.tide.sub ≠ 0 → Completes .tideTick s (fun t => t.tide.count = (s.tide.count + 1) % 2 ^ 64 ∧ t.tide.slew = s.tide.slew ∧ t.tide.sub = 0))
      ∧ (s.tide.slew ≠ 0 → s.tide.sub = 0 → Completes .tideTick s (fun t => t.tide.count = s.tide.count ∧ t.tide.slew = s.tide.slew - 1 ∧ t.tide.sub = 1))
      ∧ Completes .tideLoss s (fun t => t.tide.free = true ∧ t.tide.marks = 0 ∧ t.tide.count = s.tide.count))
  ∧ (∀ s : State, s.pins.inputsOn = true →
      (s.tide.marks = 0 → Completes .tideMarker s (fun t => t.tide.count = s.tide.count ∧ t.tide.free = true ∧ t.tide.marks = 1))
      ∧ (s.tide.marks ≠ 0 → tideSecond ≤ s.tide.phase + 1 → s.tide.phase ≤ tideSecond + 1 →
        (∀ n, s.tide.load = some n → Completes .tideMarker s (fun t => t.tide.free = false ∧ t.tide.load = none ∧ t.tide.locked = true
          ∧ (s.tide.count ≤ n * tideSecond → t.tide.count = n * tideSecond) ∧ (n * tideSecond < s.tide.count → t.tide.count = s.tide.count ∧ t.tide.slew = s.tide.count - n * tideSecond)))
        ∧ (s.tide.load = none → s.tide.slew = 0 → s.tide.locked = false → Completes .tideMarker s (fun t => t.tide.free = false ∧ t.tide.count = nextSecond s.tide.count))))
  ∧ (∀ (s : State) (n : Nat), KeeperServes s → Completes (.tideLoad n) s (fun t => t.tide = { s.tide with load := some n }))
  ∧ (∀ (s : State) (p : Fin 8) (w : W64), let rill := field w 0 16; let v := field w 32 32; let e := rillOf s rill
      (OnCourse s p rill → Completes (.reachSet p w) s (fun t => rillOf t rill = { e with reach := v, lapBase := v, courseNext := 0, armed := true }
        ∧ ∀ q, q ≠ rill → rillOf t q = rillOf s q))
      ∧ (OnCourse s p rill → v = e.reach → Completes (.advance p w) s (fun t => t = s))
      ∧ (ownsRill s p rill = true → e.state ≠ .active ∨ e.courseCount = 0 ∨ (serCmp 32 v e.reach ≠ .same ∧ (serCmp 32 v e.reach ≠ .newer ∨ e.armed = false)) →
        Completes (.advance p w) s (fun t => rillOf t rill = { e with reachDrop := (e.reachDrop + 1) % 2 ^ 32 } ∧ t.rill.firings = s.rill.firings))
      ∧ (Advances s p rill v → ∀ c, readCourse s rill e.courseNext = (.ok, c) → entryInOrder s rill e.courseNext c = true → serCmp 32 v (firePoint e c) = .older →
        Completes (.advance p w) s (fun t => rillOf t rill = { e with reach := v } ∧ t.rill.firings = s.rill.firings ∧ t.weir = s.weir))
      ∧ (Advances s p rill v → ∀ c c2, readCourse s rill e.courseNext = (.ok, c) → entryInOrder s rill e.courseNext c = true → serCmp 32 v (firePoint e c) ≠ .older →
        e.courseNext + 1 ≠ e.courseCount → readCourse s rill (e.courseNext + 1) = (.ok, c2) → entryInOrder s rill (e.courseNext + 1) c2 = true → serCmp 32 v (firePoint e c2) = .older →
        let target := (firePoint e c + c.lead) % 2 ^ 32
        (serCmp 32 target v ≠ .newer → Completes (.advance p w) s (fun t =>
          rillOf t rill = { e with reach := v, courseNext := e.courseNext + 1, late := (e.late + 1) % 2 ^ 32 } ∧ t.rill.firings = s.rill.firings ∧ t.weir = s.weir))
        ∧ (serCmp 32 target v = .newer → let own := rillParty s rill; let ctx := ctxOf s own e.asid
          entryOk s own ctx c = true → c.action < 3 → c.len = 4096 → c.action ≠ 1 ∨ (c.format ≠ 3 ∧ ∀ q, vpiece s ctx c.src = some q → q.coding ≠ .shoal) →
          rillOutstanding s rill < 4096 → (∀ f ∈ s.rill.firings, f.id < s.rill.nextFiring ∧ (f.rill = rill → f.action = 3 ∨ f.err.isSome = true ∨ f.len / 4096 ≤ f.next)) → (∀ o ∈ s.shoal.outcomes, o.xfer ≠ { course := true, rill, index := s.rill.nextFiring }) →
          ∀ pc, GoesHome s 0 own e.asid ctx c.src 4096 .load 0#64 pc →
          Completes (.advance p w) s (fun t => rillOf t rill = { e with reach := v, courseNext := e.courseNext + 1 } ∧ t.rill.nextFiring = s.rill.nextFiring + 1
            ∧ (∃ f, t.rill.firings = s.rill.firings ++ [f] ∧ f.id = s.rill.nextFiring ∧ f.entry = e.courseNext ∧ f.target = target ∧ f.src = c.src ∧ f.dst = c.dst ∧ f.action = c.action)
            ∧ Placed s t (fun q => q.op = .load ∧ q.addr = pc.addr ∧ q.len = 4096 ∧ q.origin = ⟨s.node, own⟩ ∧ q.tclass = .bulk
              ∧ q.src = .course rill s.rill.nextFiring 0)))))
  ∧ ∀ (s : State) (w : W64) (edges : Nat), s.pins.inputsOn = true →
      let crc := crc8 ((List.range 7).map (fun i => field w (56 - 8 * i) 8)); let p := s.hw.settings.reachParty
      (edges ≠ 64 ∨ crc ≠ field w 0 8 → Completes (.reachFrame edges w) s (fun t => t.keeper.reachDrops = s.keeper.reachDrops + 1 ∧ t.rill = s.rill))
      ∧ (∀ (h : p < 8) (v : W64), edges = 64 → crc = field w 0 8 → ownsRill s p (field w 40 16) = true → field v 0 16 = field w 40 16 → field v 32 32 = field w 8 32 →
        (field w 60 4 = 1 → Completes (.reachFrame edges w) s (fun t => exec (.advance ⟨p, h⟩ v) s = .next t))
        ∧ (field w 60 4 = 2 → Completes (.reachFrame edges w) s (fun t => exec (.reachSet ⟨p, h⟩ v) s = .next t)))

/-- The command of a built-in operation's OP. -/
def builtInCommand (op rill index : Nat) : Instr :=
  match op with
  | 2 => .convert rill index
  | 3 => .millReduce rill index
  | 4 => .shoalEncode rill index
  | _ => .codebookBuild rill index

/-- A descriptor of a MILL rill runs, and nothing of its rill waits to be counted. -/
structure MillJob (s : State) (rill index : Nat) (j : Job) : Prop where
  landed : NoLandings s
  uncut : Uncut s rill
  found : findJob s rill index = some j
  kind : j.kind = 1
  clear : j.err = none
  counter : j.word 5 = 0

/-- The only piece of a built-in operation stands in a chunk. -/
structure OnePiece (s : State) (rill index : Nat) (j : Job) (c : Chunk) : Prop extends MillJob s rill index j where
  begun : j.begun = true
  counted : j.counterOk = true
  next : j.next = 1
  chunks : j.chunks = [c]
  num : c.num = 0
  few : 0 < millCount j
  one : millCount j ≤ pieceElems

/-- The first step of CONVERT, MILL_REDUCE, SHOAL_ENCODE or CODEBOOK_BUILD, nothing of its rill waiting to be counted: COUNT 0 ends the first three with OK; an undefined format, an MX format with a COUNT that is no multiple of 32, ROP 3, a coded destination off a 4 KiB boundary or a sample that is no multiple of the sub-vector size ends it with FAULT_PERMISSION; where the checks pass, without a counter, and a not-MX source fits one request on this node, it begins, the first three on a free mill that it takes where no other descriptor waits for one, and issues the LOAD of the source in the mill class, an encoding once its slot's books have room in the race's codebook store. PIECE_COMPLETE of a read piece: CONVERT issues a STORE of the converted run, MILL_REDUCE of FP32 a REDUCE of the read bytes, each queued at its home or waiting for a credit; of a written piece: the operation ends with OK. CODEBOOK_BUILD with all its sample read, its target slot BUILDING and its array entry in PRIVATE or SHARED_RO extents of the party on this node: the built books stand in the slot, LIVE under the next generation, and it ends with OK. RUN_TABLE with a table on this node, in DRAM: a table that passes the check is in the mill's sequencer store and begins at step 0; a step that fails the check, and an address that maps nothing, end the descriptor with FAULT_PERMISSION and FAULT_UNMAPPED. -/
def Obligations.BuiltInOperationsRun : Prop :=
  (∀ (s : State) (rill index : Nat) (j : Job), MillJob s rill index j → j.begun = false → j.builds = [] → 2 ≤ j.op → j.op ≤ 5 →
      (millCount j = 0 → j.op ≠ 5 → Completes (builtInCommand j.op rill index) s (Ended j .ok s))
      ∧ (millCount j ≠ 0 → (j.op = 2 ∧ (12 < millFmtIn j ∨ 12 < millFmtOut j ∨ ((isMx (millFmtIn j) = true ∨ isMx (millFmtOut j) = true) ∧ millCount j % 32 ≠ 0)))
          ∨ (j.op = 3 ∧ bits (j.word 4) 62 2 = 3) ∨ (j.op = 4 ∧ j.word 3 % 4096 ≠ 0) ∨ (j.op = 5 ∧ millCount j % dOf (encDCode j) ≠ 0) →
        Completes (builtInCommand j.op rill index) s (Ended j .faultPermission s))
      ∧ (∀ p : Piece, builtinBad j s = none → 0 < millCount j → millCount j ≤ pieceElems → isMx (millFmtIn j) = false → let n := millCount j * elemBits (millFmtIn j) / 8
          0 < n → n ≤ 4096 → j.next = 0 → j.chunks = [] → rillOutstanding s rill < 4096 → (∀ y ∈ s.rill.jobs, wantsPiece s y = false) → (j.op = 4 → (makeResident j.race (encSlot j) j.party s).isSome = true) →
          (j.op ≠ 5 → freeMills s j.race j.party ≠ []) → GoesHome s 0 j.party j.asid j.ctx (j.word 2) n .load 0#64 p →
        Completes (builtInCommand j.op rill index) s (fun t => Placed s t (fun q => q.op = .load ∧ q.addr = p.addr ∧ q.len = n
            ∧ q.origin = ⟨s.node, j.party⟩ ∧ q.tclass = .mill ∧ q.src = .rill rill index 0)
          ∧ (j.op ≠ 5 → ∃ m ∈ freeMills s j.race j.party, (millOf t m).job = some (rill, index) ∧ (millOf t m).piece = some 0)
          ∧ (findJob t rill index).map (·.begun) = some true ∧ t.rill.due = s.rill.due)))
  ∧ (∀ (s : State) (rill index : Nat) (j : Job) (c : Chunk), OnePiece s rill index j c → 2 ≤ j.op → j.op ≤ 4 → rillOutstanding s rill < 4096 →
      (∀ (d w : Bytes) (p : Piece), c = { num := 0, reads := 1, readsDone := 1, got := [(0, d)] } → 0 < w.length → w.length ≤ 4096 →
        (j.op = 2 → isMx (millFmtOut j) = false → w = (writeRun (millFmtOut j) (bit (j.word 4) 55) (readRun (millFmtIn j) (millCount j) d)).1 →
            GoesHome s 0 j.party j.asid j.ctx (j.word 3) w.length .store 0#64 p →
          Completes (.pieceComplete rill index 0) s (fun t => Placed s t (fun q => q.op = .store ∧ q.addr = p.addr ∧ q.data = w
            ∧ q.tclass = .mill ∧ q.src = .rill rill index 0)))
        ∧ (let opf := BitVec.ofNat 64 (at' (bits (j.word 4) 62 2) 54)
          j.op = 3 → millFmtIn j = 0 → w = d → GoesHome s 0 j.party j.asid j.ctx (j.word 3) w.length .reduce opf p →
          Completes (.pieceComplete rill index 0) s (fun t => Placed s t (fun q => q.op = .reduce ∧ q.addr = p.addr ∧ q.data = d
            ∧ q.opf = opf ∧ q.tclass = .mill ∧ q.src = .rill rill index 0))))
      ∧ (c = { num := 0, reads := 1, readsDone := 1, issued := 1, landed := 1 } → j.builds = [] → Completes (.pieceComplete rill index 0) s (Ended j .ok s)))
  ∧ (∀ (s : State) (rill index k : Nat) (j : Job) (d : Bytes) (b r : List Nat), OnePiece s rill index j { num := 0, reads := 1, readsDone := 1, got := [(0, d)] } → j.op = 5 → j.builds = [k] → encSlot j = k →
      (slotOf s k).state = .building → buildBooksOf (encDCode j) (encTwo j) (words16 (millCount j) d) = some (b, r) →
      spanBad s j.party .load .any (slotEntry s j.party k) 32768 = none → entryPlaced s j.party k = true →
    Completes (.codebookBuild rill index) s (fun t => findJob t rill index = none ∧ (∃ x, t.rill.due = s.rill.due ++ [x] ∧ x.rill = rill ∧ x.index = index ∧ x.status = .ok ∧ x.userTag = j.userTag)
      ∧ slotOf t k = { slotOf s k with state := .live, gen := ((slotOf s k).gen + 1) % 65536, dCode := encDCode j, two := encTwo j, book := b, resid := r, refs := (slotOf t k).refs }))
  ∧ ∀ (s : State) (rill index m : Nat) (j : Job), NoLandings s → Uncut s rill → findJob s rill index = some j → j.kind = 1 → j.op = 1 → j.begun = false → j.counterOk = false → j.builds = [] →
      millOfJob s rill index = some m →
      (vpiece s j.ctx (j.word 2) = none → Completes (.runTable rill index) s (Ended j .faultUnmapped s))
      ∧ (∀ (p : Piece) (d : Bytes), vpiece s j.ctx (j.word 2) = some p → j.word 2 % 4096 = 0 → p.cls = .priv ∨ p.cls = .sharedRo → addrNode p.addr = s.node →
        atHand s j.ctx (j.word 2) (16 * (bits (j.word 3) 0 8 + 1)) = true →
        vread s j.party j.ctx (j.word 2) (16 * (bits (j.word 3) 0 8 + 1)) = .ok d → let table := tableOf (bits (j.word 3) 0 8 + 1) d
        (badStep table = none → Completes (.runTable rill index) s (fun t => millOf t m = { millOf s m with table, pc := 0 } ∧ t.rill.due = s.rill.due))
        ∧ (badStep table ≠ none → Completes (.runTable rill index) s (Ended j .faultPermission s)))

/-- A mill of a running descriptor stands at step t of a kind, and nothing holds the step up. -/
structure AtStep (s : State) (m kind : Nat) (t : MStep) (k : Nat × Nat) (j : Job) : Prop where
  job : (millOf s m).job = some k
  found : findJob s k.1 k.2 = some j
  uncut : j.cut = false ∧ j.withdrawn = false
  table : (millOf s m).table ≠ []
  current : (millOf s m).current = t
  kind : t.kind = kind
  open_ : (millOf s m).ended = none ∧ (millOf s m).wait = none ∧ (millOf s m).branch = none
  quiet : (millOf s m).steps = [] ∧ (millOf s m).ckpt = none

/-- One mill is as given, and nothing else has changed. -/
def MillBecomes (s : State) (m : Nat) (x : Mill) (t : State) : Prop :=
  millOf t m = x ∧ (∀ k, k ≠ m → millOf t k = millOf s k) ∧ t = { s with mills := t.mills }

/-- A poll of a counter: one LOAD of 8 bytes with acquire at its home, or waiting for a credit. -/
def Polls (s : State) (m : Nat) (j : Job) (p : Piece) (t : State) : Prop :=
  Placed s t (fun q => q.op = .load ∧ q.addr = p.addr ∧ q.len = 8 ∧ opAcquire q.opf = true ∧ q.origin = ⟨s.node, j.party⟩ ∧ q.src = .mill m)

/-- A mill's access of a virtual address goes to one piece on this node. -/
def OneLocal (s : State) (m : Nat) (j : Job) (va len : Nat) (op : Op) (opf : W64) (p : Piece) : Prop :=
  GoesHome s (m / 100) j.party j.asid j.ctx va len op opf p

/-- A mill of a running descriptor stands at a step of the kind, with no memory step outstanding, no branch, wait or provisional load. NOP changes nothing but the step: the next one, or BRANCH where COND is ALWAYS and CNEG 0 or the named flag differs from CNEG. SETLC loads the loop counter and its reload value with S[A] plus the signed IMM, in 16 bits. LOOP_STEP with a count that is not 0 counts down and branches; at 0 it reloads and goes on. SETF sets and clears the user flags named to be set or cleared, and clears ERR or POISON where it says so. FENCE opens the next epoch. WAIT_STEP clears TIMEOUT and polls its counter by an acquire LOAD of 8 bytes; WAIT_POLL polls again, or with its limit passed sets TIMEOUT and goes on. STEP_END ends the descriptor with the soft status and frees the mill. NOP, SETLC, LOOP_STEP and FENCE change nothing but their mill. -/
def Obligations.MillsControlTheirSteps : Prop :=
  ∀ (s : State) (m : Fin 800) (t : MStep) (k : Nat × Nat) (j : Job), let x := millOf s m
    (AtStep s m kNop t k j →
      (t.neverBranches = true → Completes (.nop m) s (MillBecomes s m { x with pc := x.pc + 1 }))
      ∧ (t.neverBranches = false → t.cond = 0 → Completes (.nop m) s (MillBecomes s m { x with pc := t.branch }))
      ∧ (t.neverBranches = false → t.cond ≠ 0 → Completes (.nop m) s (MillBecomes s m { x with pc := if x.hasFlag t.cond ≠ t.cneg then t.branch else x.pc + 1 })))
    ∧ (AtStep s m kSetlc t k j → t.neverBranches = true → let v := unsigned 16 (Int.ofNat (x.reg t.a) + signed 16 (bits t.w1 0 16))
      Completes (.setlc m) s (MillBecomes s m { x with lc := setNth x.lc (t.d % 4) (v, v), pc := x.pc + 1 }))
    ∧ (∀ count reload, AtStep s m kLoop t k j → nth (0, 0) x.lc (t.d % 4) = (count, reload) →
      (count ≠ 0 → Completes (.loopStep m) s (MillBecomes s m { x with lc := setNth x.lc (t.d % 4) (count - 1, reload), pc := t.branch }))
      ∧ (count = 0 → Completes (.loopStep m) s (MillBecomes s m { x with lc := setNth x.lc (t.d % 4) (reload, reload), pc := x.pc + 1 })))
    ∧ (AtStep s m kSetf t k j → t.neverBranches = true → Completes (.setf m) s (fun u =>
        (∀ i < 4, ¬ (bit (bits t.w1 0 4) i = true ∧ bit (bits t.w1 4 4) i = true) →
          (millOf u m).hasFlag (12 + i) = (if bit (bits t.w1 0 4) i then true else if bit (bits t.w1 4 4) i then false else x.hasFlag (12 + i)))
        ∧ (millOf u m).hasFlag fErr = (x.hasFlag fErr && !bit t.w1 8) ∧ (millOf u m).hasFlag fPoison = (x.hasFlag fPoison && !bit t.w1 9)
        ∧ (millOf u m).pc = x.pc + 1 ∧ (millOf u m).regs = x.regs))
    ∧ (AtStep s m kFence t k j → t.neverBranches = true → Completes (.fence m) s (MillBecomes s m { x with epoch := (x.epoch + 1) % 256, pc := x.pc + 1 }))
    ∧ (∀ p, AtStep s m kWait t k j → OneLocal s m j (stepVa x t) 8 .load 0#64 p → Completes (.waitStep m) s (fun u => Polls s m j p u
        ∧ (millOf u m).wait = some { va := stepVa x t, target := x.reg t.b, polling := true } ∧ (millOf u m).hasFlag fTimeout = false ∧ (millOf u m).pc = x.pc))
    ∧ (∀ w p, x.job = some k → findJob s k.1 k.2 = some j → j.cut = false → j.withdrawn = false → x.wait = some w → w.polling = false → readsOut x < 256 → OneLocal s m j w.va 8 .load 0#64 p →
        Completes (.waitPoll m false) s (fun u => Polls s m j p u ∧ (millOf u m).wait = some { w with polling := true }))
    ∧ (∀ w, x.job = some k → findJob s k.1 k.2 = some j → j.cut = false → j.withdrawn = false → x.wait = some w → x.current.neverBranches = true →
        Completes (.waitPoll m true) s (fun u => (millOf u m).wait = none ∧ (millOf u m).hasFlag fTimeout = true ∧ (millOf u m).pc = x.pc + 1))
    ∧ (AtStep s m kEnd t k j → j.rill = k.1 → j.index = k.2 → j.slots = [] → j.builds = [] → Completes (.stepEnd m) s (fun u => Ended j x.soft s u ∧ (millOf u m).job = none))

/-- One request of a mill is queued at its home or waits for a credit, the step is remembered until it lands, and the mill goes on at the next step. -/
def MillSends (s : State) (m : Nat) (j : Job) (t : MStep) (op : Op) (p : Piece) (len : Nat) (data : Bytes) (own : Nat) (w : MemStep) (u : State) : Prop :=
  Placed s u (fun q => q.op = op ∧ q.addr = p.addr ∧ q.len = len ∧ q.data = data ∧ q.opf = stepOpf t own
    ∧ q.origin = ⟨s.node, j.party⟩ ∧ q.src = .mill m ∧ q.tclass = .mill)
  ∧ (millOf u m).steps = (millOf s m).steps ++ [{ w with
      id := (millOf s m).nextStep, step := (millOf s m).pc, epoch := (millOf u m).epoch, acq := t.acquire
      dests := (stepDests s m j op own w.addr len).1, far := (stepDests s m j op own w.addr len).2 }]
  ∧ (millOf u m).pc = (millOf s m).pc + 1 ∧ (millOf u m).regs = (millOf s m).regs ∧ (millOf u m).sram = (millOf s m).sram
  ∧ (millOf u m).epoch = (if t.sealW then ((millOf s m).epoch + 1) % 256 else (millOf s m).epoch) ∧ u.store.mem = s.store.mem ∧ u.rill = s.rill

/-- A mill of a running descriptor has one step outstanding, and the oldest completion of the mill is that step's. -/
structure StepLands (s : State) (m : Nat) (k : Nat × Nat) (j : Job) (p : MemStep) (l : Landed) : Prop where
  job : (millOf s m).job = some k
  found : findJob s k.1 k.2 = some j
  uncut : j.cut = false ∧ j.withdrawn = false
  named : j.rill = k.1 ∧ j.index = k.2 ∧ j.slots = [] ∧ j.builds = []
  landed : s.weir.landed.find? (fun l => l.req.src == .mill m) = some l
  steps : (millOf s m).steps = [p]
  tag : p.id = l.req.tag
  plain : l.prov = false ∧ (millOf s m).ckpt = none ∧ (millOf s m).branch = none ∧ (millOf s m).ended = none ∧ isPollStep (millOf s m) p = false

/-- A mill stands at a step as in MillsControlTheirSteps, and the step never branches. SALU writes S[D] (a compare writes LT and no register), Z and N; a shift by 64 or more writes a value that nothing constrains. SLD loads S[D], Z and N from 8 aligned bytes of SRAM, or stores S[D] there and clears Z and N, and an address that is not aligned ends the descriptor with FAULT_PERMISSION. LD, ST, ATOM and RED, for one piece on this node, each send one request of mill class with the step's address, length, data and ordering flags, and remember it until it lands; a provisional LD takes the checkpoint. GATHER remembers one step for each row, with its SRAM place, and sends its LOAD for S[A] + idx times the stride (the address stated where no row fills the range cache for another). MCAST goes out on the port of its group, or waits for a credit of it, or lands FAULT_PERMISSION where the party may not send to the group. MEMORY_STEP_LANDED writes returned data to its SRAM bytes or register; a soft error leaves what was delivered, zero-filled, and sets ERR, POISON and SOFT_STATUS; any other error ends the descriptor with the status that a MILL record names for it once every step has landed. MILL_PROVISIONAL_RESOLVE at a confirmation drops the log and the checkpoint; at a cancel it restores SRAM from the log and everything in the checkpoint, and the load has not landed. -/
def Obligations.MillsComputeAndAccessMemory : Prop :=
  ∀ (s : State) (m : Fin 800) (t : MStep) (k : Nat × Nat) (j : Job), t.neverBranches = true → let x := millOf s m
    (AtStep s m kSalu t k j → let a := x.reg t.a; let b := if t.b < 16 then x.reg t.b else t.w1
      (t.func < 10 ∨ t.func = 13 → Completes (.salu m) s (fun u => ∃ v, millOf u m = { ((x.setFlag fZ (v == 0)).setFlag fN (bit v 63)).setReg t.d v with pc := x.pc + 1 }
        ∧ (t.func = 0 → v = (a + b) % 2 ^ 64) ∧ (t.func = 1 → v = (a + 2 ^ 64 - b) % 2 ^ 64) ∧ (t.func = 2 → v = a * b % 2 ^ 64) ∧ (t.func = 3 → v = a &&& b) ∧ (t.func = 4 → v = a ||| b) ∧ (t.func = 5 → v = a ^^^ b)
        ∧ (t.func = 6 → b < 64 → v = a * 2 ^ b % 2 ^ 64) ∧ (t.func = 7 → b < 64 → v = a / 2 ^ b) ∧ (t.func = 8 → v = min a b) ∧ (t.func = 9 → v = max a b) ∧ (t.func = 13 → v = b)
        ∧ (∀ n, n ≠ m.val → millOf u n = millOf s n) ∧ u = { s with mills := u.mills, freeCtr := u.freeCtr }))
      ∧ (t.func = 10 → Completes (.salu m) s (MillBecomes s m { ((x.setFlag fZ ((a + 2 ^ 64 - b) % 2 ^ 64 == 0)).setFlag fN (bit ((a + 2 ^ 64 - b) % 2 ^ 64) 63)).setFlag fLt (decide (a < b)) with pc := x.pc + 1 }))
      ∧ (t.func = 11 → Completes (.salu m) s (MillBecomes s m { ((x.setFlag fZ ((a + 2 ^ 64 - b) % 2 ^ 64 == 0)).setFlag fN (bit ((a + 2 ^ 64 - b) % 2 ^ 64) 63)).setFlag fLt (decide (signed 64 a < signed 64 b)) with pc := x.pc + 1 }))
      ∧ (t.func = 12 → let d := f32sub (a % 2 ^ 32) (b % 2 ^ 32)
        Completes (.salu m) s (MillBecomes s m { ((x.setFlag fZ (d % 2 ^ 31 == 0)).setFlag fN (bit d 31)).setFlag fLt (f32lt (a % 2 ^ 32) (b % 2 ^ 32)) with pc := x.pc + 1 })))
    ∧ (AtStep s m kSld t k j → let a := (x.reg t.a + bits t.w1 0 18) % 2 ^ 64
      (a % 8 ≠ 0 → j.rill = k.1 → j.index = k.2 → j.slots = [] → j.builds = [] → Completes (.sld m) s (Ended j .faultPermission s))
      ∧ (a % 8 = 0 → a + 8 ≤ 0x30000 → t.func = 0 → let v := ofBytes (x.getMem a 8)
        Completes (.sld m) s (MillBecomes s m { ((x.setReg t.d v).setFlag fZ (v == 0)).setFlag fN (bit v 63) with pc := x.pc + 1 }))
      ∧ (a % 8 = 0 → a + 8 ≤ 0x30000 → t.func ≠ 0 → Completes (.sld m) s (MillBecomes s m { ((x.setFlag fZ false).setFlag fN false) with sram := Memory.writeN x.sram a (toBytes (x.reg t.d) 8), pc := x.pc + 1 })))
    ∧ (∀ p, AtStep s m kLd t k j → stepLocal x t + t.len ≤ 0x30000 → OneLocal s m j (stepVa x t) t.len .load 0#64 p →
      Completes (.ld m) s (MillSends s m j t .load p t.len [] 0 { id := 0, step := 0, addr := stepVa x t, lo := stepLocal x t, len := t.len, isRead := true, soft := t.soft })
      ∧ Completes (.ld m) s (fun u => (millOf u m).ckpt.isSome = mayProvision s j t (stepVa x t)))
    ∧ (∀ p, AtStep s m kSt t k j → stepLocal x t + t.len ≤ 0x30000 → OneLocal s m j (stepVa x t) t.len .store 0#64 p →
      Completes (.st m) s (MillSends s m j t .store p t.len (x.getMem (stepLocal x t) t.len) 0 { id := 0, step := 0, addr := stepVa x t }))
    ∧ (∀ p, AtStep s m kRed t k j → t.len % 4 = 0 → stepLocal x t + t.len ≤ 0x30000 → let own := t.func % 4 * 2 ^ 54 + (if t.fa = 1 then 2 ^ 53 else 0)
      OneLocal s m j (stepVa x t) t.len .reduce (stepOpf t own) p →
      Completes (.red m) s (MillSends s m j t .reduce p t.len (x.getMem (stepLocal x t) (if t.fa = 1 then t.len / 2 else t.len)) own { id := 0, step := 0, addr := stepVa x t }))
    ∧ (∀ p ty, AtStep s m kAtom t k j → atomType t.fa = some ty →
      let aop := bits t.func 0 3; let back := bit t.func 3 || aop == 5 || aop == 6
      let own := aop * 2 ^ 52 + ty * 2 ^ 50 + (if bit t.func 3 then 2 ^ 49 else 0)
      OneLocal s m j (stepVa x t) (atypeSize ty) .atomic (stepOpf t own) p →
      Completes (.atom m) s (MillSends s m j t .atomic p (atypeSize ty) (toBytes (x.reg t.b) (atypeSize ty) ++ (if aop = 6 then toBytes (x.reg t.d) (atypeSize ty) else []))
        own { id := 0, step := 0, addr := stepVa x t, reg := if back then some t.d else none, len := atypeSize ty, isRead := back }))
    ∧ (∀ lo (ps : Nat → Piece), AtStep s m kGather t k j → let stride := (t.rowLen + 63) / 64 * 64
      lo = x.reg t.d + t.idxOff → lo + 4 * t.rows ≤ 0x30000 → ∀ dst, dst = x.reg t.b + t.dstOff → dst + (stride * (t.rows - 1) + t.rowLen) ≤ 0x30000 → t.rows ≤ 256 →
      let is := words32 t.rows (x.getMem lo (4 * t.rows))
      let va := fun (r : Nat) => (x.reg t.a + nth 0 is r * stride) % 2 ^ 64
      Completes (.gather m) s (fun u => (millOf u m).steps.map (fun w => (w.id, w.row, w.lo, w.len, w.isRead, w.soft))
          = (List.range t.rows).map (fun r => (x.nextStep + r, r, dst + r * stride, t.rowLen, true, t.soft)) ∧ (millOf u m).pc = x.pc + 1
        ∧ ((∀ r < t.rows, OneLocal s m j (va r) t.rowLen .load 0#64 (ps r)) → ctxOf s j.party j.asid ≠ j.ctx ∨ t.rows = 1 →
          let ok := fun (r : Nat) (q : Req) => q.op = .load ∧ q.addr = (ps r).addr ∧ q.len = t.rowLen ∧ q.src = .mill m ∧ q.tag = x.nextStep + r
          u.weir.queue.length + u.weir.stalled.length = s.weir.queue.length + s.weir.stalled.length + t.rows
          ∧ ∀ r < t.rows, (∃ q ∈ u.weir.queue, ok r q.req) ∨ ∃ y ∈ u.weir.stalled, y.1 = none ∧ ok r y.2)))
    ∧ (∀ p port, AtStep s m kMcast t k j → stepLocal x t + t.len ≤ 0x30000 → OneLocal s m j (stepVa x t) t.len .mcastStore 0#64 p → Uncovered s (addrOffset p.addr) t.len → let g := x.reg t.d % 256
      (mayMulticast s g j.party = true → routePort s j.party (g * 2 ^ 54) = some port →
        Completes (.mcast m) s (fun u => Leaves s u port (fun q => q.op = .mcastStore ∧ q.addr = addrOffset p.addr ∧ q.data = x.getMem (stepLocal x t) t.len ∧ q.src = .mill m)
          ∧ (millOf u m).steps.length = 1 ∧ (millOf u m).pc = x.pc + 1))
      ∧ (mayMulticast s g j.party = false → Completes (.mcast m) s (fun u => ∃ l, u.weir.landed = s.weir.landed ++ [l] ∧ l.req.src = .mill m ∧ l.req.op = .mcastStore ∧ l.status = .faultPermission ∧ (millOf u m).pc = x.pc + 1)))
    ∧ (∀ p l, StepLands s m k j p l →
      (l.status = .ok → Completes (.memoryStepLanded m) s (fun u => u.weir.landed = s.weir.landed.erase l ∧ (millOf u m).steps = [] ∧ (millOf u m).pc = x.pc
        ∧ (millOf u m).sram = (if p.isRead = true ∧ p.reg = none then Memory.writeN x.sram p.lo (padTo p.len l.data) else x.sram)
        ∧ (millOf u m).regs = (match p.reg with | some r => if p.isRead then setNth x.regs r (BitVec.ofNat 64 (ofBytes l.data)) else x.regs | none => x.regs)))
      ∧ (l.status ≠ .ok → let soft := p.isRead = true ∧ p.reg = none ∧ ((p.soft = true ∧ (l.status = .poison ∨ l.status = .uncorrectable)) ∨ l.status = .short ∨ l.status = .overrun)
        (soft → Completes (.memoryStepLanded m) s (fun u => (millOf u m).steps = [] ∧ (millOf u m).sram = Memory.writeN x.sram p.lo (padTo p.len l.data) ∧ (millOf u m).hasFlag fErr = true
          ∧ (millOf u m).hasFlag fPoison = (x.hasFlag fPoison || l.status == .poison || l.status == .uncorrectable) ∧ (millOf u m).soft = (if x.soft = .ok then l.status else x.soft) ∧ (millOf u m).pc = x.pc))
        ∧ (¬ soft → Completes (.memoryStepLanded m) s (fun u => Ended j (namedStatus 1 l) s u ∧ (millOf u m).job = none))))
    ∧ (∀ p r c, s.net.ptags.find? (fun p => p.port == millPort m && p.answered) = some p → p.req = some r → x.ckpt = some c → x.ended = none → x.branch = none →
      (p.resolved = false → confirms s r.origin p = true → Completes (.millProvisionalResolve m) s (fun u => MillBecomes s m { x with ckpt := none, undo := [] } { u with net := s.net }))
      ∧ (p.resolved = true ∨ confirms s r.origin p = false → Completes (.millProvisionalResolve m) s (fun u =>
          millOf u m = { x with sram := x.undo.foldl (fun mem b => mem.write b.1 b.2) x.sram, undo := [], ckpt := none, regs := c.regs, lc := c.lc, flags := c.flags, soft := c.soft, pc := c.pc, ended := c.ended, steps := x.steps.filter (fun w => w.id != c.load.id) ++ [c.load] })))

/-- For every status, CAUSE[5:3] is STATUS[6:4] and CAUSE[2:0] is STATUS[2:0]; and the causes of FAULT_UNMAPPED (0x10), FAULT_PERMISSION (0x11), STALE_MAP (0x20), DOMAIN_DOWN (0x22) and REFUSED_ISOLATION (0x41) are 0x08, 0x09, 0x10, 0x12 and 0x21, from which a requester reads the same status back. -/
def Obligations.RefuseCausesComeFromStatuses : Prop :=
  (∀ st : Status, bits (refuseCause st) 3 3 = bits (statusCode st) 4 3 ∧ bits (refuseCause st) 0 3 = bits (statusCode st) 0 3 ∧ refuseCause st < 64)
  ∧ [Status.faultUnmapped, .faultPermission, .staleMap, .domainDown, .refusedIsolation].map statusCode = [0x10, 0x11, 0x20, 0x22, 0x41]
  ∧ [Status.faultUnmapped, .faultPermission, .staleMap, .domainDown, .refusedIsolation].map refuseCause = [0x08, 0x09, 0x10, 0x12, 0x21]
  ∧ [0x08, 0x09, 0x10, 0x12, 0x21].map causeStatus = [Status.faultUnmapped, .faultPermission, .staleMap, .domainDown, .refusedIsolation]

/-- The chain value goes from h to h' over entries: each carries the first 16 bytes of the value before it, and the next value is the hash of that value and the entry. -/
def ChainRuns : Nat → List LogEntry → Nat → Prop
  | h, [], h' => h' = h
  | h, e :: es, h' => e.link = bits h 256 128 ∧ ChainRuns (Config.sha384 (h :: entryWordsOf e)) es h'

/-- H is zero before the first entry of the die. LOG_WRITE, with the keeper running, writes the buffered entries in order: each written entry carries the first 16 bytes of the H before it as its LINK, and the H after it is SHA-384 of the H before it and the entry's 64 bytes; code, severity, party, status, times and arguments are those of the buffered entry. Every command, resets, shutdowns, boots and losses of power among them, leaves H at the value or takes it on by such entries only: the chain runs across boots, batches and erased blocks. -/
def Obligations.LogChainRunsOn : Prop :=
  State.reset.nv.chain = 0
  ∧ (∀ s : State, s.keeper.up = true → Completes .logWrite s (fun t => t.keeper.buf = [] ∧ ∃ es, t.nv.batch = s.nv.batch ++ es ∧ ChainRuns s.nv.chain es t.nv.chain
      ∧ es.map (fun e => { e with seq := 0, link := 0 }) = s.keeper.buf.map (fun e => { e with seq := 0, link := 0 })
      ∧ ∀ i e, es[i]? = some e → e.seq = (s.nv.nextSeq + i) % 2 ^ 32 ∨ s.nv.nextSeq ≥ 2 ^ 32))
  ∧ (∀ (c : Instr) (s : State), Completes c s (fun t => ∃ es, ChainRuns s.nv.chain es t.nv.chain))

/-- An operand of a vector step: n bytes at SRAM address a, from register r and an offset. -/
def InSram (x : Mill) (r off n a : Nat) : Prop := x.vaddr r off = some a ∧ a + n ≤ 0x30000

/-- The mill after a vector step that wrote bytes to SRAM and set NAN and INF. -/
def wrote (x : Mill) (d : Nat) (out : Bytes) (nan inf : Bool) : Mill :=
  { ({ x with sram := Memory.writeN x.sram d out }).setNums nan inf with pc := x.pc + 1 }

/-- A mill stands at a vector step, as in MillsControlTheirSteps; the step never branches, its operands lie in SRAM, and a run in an MX format is a whole number of blocks. Each writes its result, sets NAN and INF as its results are (VMOV clears them), goes on, and changes nothing else. VMOV copies 32·N bytes, or fills them with S[B] eight bytes at a time. VCVT converts N elements from FA to FD. VALU writes its function of each element, of the scalar S[B] or of a second run, and of the old destination where it accumulates, in FD, saturated where SAT says so, an integer result only where it is narrowed, FP32 and BF16 never. VDOT writes one FP32 value for each row. VRED writes S[D]: the sum, maximum, minimum, sum of squares or index of the largest. VFN writes the FP32 values of its function. -/
def Obligations.VectorStepsWriteTheirResults : Prop :=
  ∀ (s : State) (m : Fin 800) (t : MStep) (k : Nat × Nat) (j : Job), t.neverBranches = true → let x := millOf s m
    (∀ d, AtStep s m kVmov t k j → InSram x t.d t.doff (32 * t.n) d →
      (t.func = 0 → ∀ a, InSram x t.a t.aoff (32 * t.n) a →
        Completes (.vmov m) s (MillBecomes s m (wrote x d (x.getMem a (32 * t.n)) false false)))
      ∧ (t.func ≠ 0 → Completes (.vmov m) s (MillBecomes s m (wrote x d ((List.replicate (4 * t.n) (toBytes (x.reg t.b) 8)).flatMap id) false false))))
    ∧ (mxOk t.fa t.n = true → mxOk t.fd t.n = true → ∀ a d, InSram x t.a t.aoff (runBytes t.fa t.n) a → InSram x t.d t.doff (runBytes t.fd t.n) d →
      let as := readRun t.fa t.n (x.getMem a (runBytes t.fa t.n))
      (∀ out nan inf, AtStep s m kVcvt t k j → writeRun t.fd t.sat as = (out, nan, inf) → Completes (.vcvt m) s (MillBecomes s m (wrote x d out nan inf)))
      ∧ (AtStep s m kValu t k j → let ds := if t.func = 3 ∨ t.func = 10 then readRun t.fd t.n (x.getMem d (runBytes t.fd t.n)) else []
        let int := isInt t.fa && isInt t.fd; let sat := t.sat && (!int || decide (elemBits t.fd < elemBits t.fa)) && decide (2 ≤ t.fd)
        (∀ out nan inf, 8 ≤ t.func → let y : Elem := if int then .i (signed 64 (x.reg t.b)) else .f (fp32.decode (x.reg t.b % 2 ^ 32))
          writeRun t.fd sat (valuRun t as (List.replicate t.n y) ds) = (out, nan, inf) → Completes (.valu m) s (MillBecomes s m (wrote x d out nan inf)))
        ∧ (∀ out nan inf, t.func = 6 ∨ t.func = 7 → writeRun t.fd sat (valuRun t as [] ds) = (out, nan, inf) → Completes (.valu m) s (MillBecomes s m (wrote x d out nan inf)))
        ∧ (∀ b out nan inf, t.func < 6 → InSram x t.b t.boff (runBytes t.fa t.n) b →
          writeRun t.fd sat (valuRun t as (readRun t.fa t.n (x.getMem b (runBytes t.fa t.n))) ds) = (out, nan, inf) →
          Completes (.valu m) s (MillBecomes s m (wrote x d out nan inf)))))
    ∧ (mxOk t.fa t.n = true → ∀ a, InSram x t.a t.aoff (runBytes t.fa t.n) a → let as := (readRun t.fa t.n (x.getMem a (runBytes t.fa t.n)))
      (∀ v nan inf, AtStep s m kVred t k j → vredValue t.func t.n (as.map Elem.val) = (v, nan, inf) →
        Completes (.vred m) s (MillBecomes s m { ((x.setReg t.d v).setNums nan inf) with pc := x.pc + 1 }))
      ∧ (∀ d, AtStep s m kVfn t k j → InSram x t.d t.doff (4 * t.n) d → let ps := as.map (fun e => vfn t.func (fp32.encode e.val))
        Completes (.vfn m) s (MillBecomes s m (wrote x d (bytes32 ps) (ps.any f32isNan) (ps.any (fun p => (fp32.decode p).isInf))))))
    ∧ (∀ a b d, AtStep s m kVdot t k j → mxOk t.fa t.n = true → let rows := t.imm + 1
      InSram x t.a t.aoff (runBytes t.fa (rows * t.n)) a → InSram x t.b t.boff (runBytes t.fa t.n) b → InSram x t.d t.doff (4 * rows) d →
      let ps := vdotRows t ((readRun t.fa (rows * t.n) (x.getMem a (runBytes t.fa (rows * t.n)))).map Elem.val)
        ((readRun t.fa t.n (x.getMem b (runBytes t.fa t.n))).map Elem.val) (words32 rows (x.getMem d (4 * rows)))
      ps.length = rows ∧ Completes (.vdot m) s (MillBecomes s m (wrote x d (bytes32 ps) (ps.any f32isNan) (ps.any (fun p => (fp32.decode p).isInf)))))

/-- A mill stands at a look-up or candidate queue step, as in MillsControlTheirSteps; the step never branches and its operands lie in SRAM. LUBUILD writes the table of its subspaces' products in FD, and sets NAN and INF. LUSCORE, its table on a 16 KiB boundary, writes for each code row the sum of the entries its codes name, from 0 or from the old value. LUBIN, its bins on a 32 KiB boundary, adds each weight to the bins that its code row names. CQINS takes candidates that are no NaN into the queue, at most its limit and no id twice, and sets CQ_IMPROVED where it took any. CQPOP takes the best one out: its id in S[D], its key in S[A]; an empty queue leaves all as it is. CQOUT writes the best N candidates, or as many as there are, and their number to S[A]. CQCLR empties the queue and sets its limit to IMM + 1. Each goes on and changes nothing else. -/
def Obligations.LookUpAndQueueStepsWriteTheirResults : Prop :=
  ∀ (s : State) (m : Fin 800) (t : MStep) (k : Nat × Nat) (j : Job), t.neverBranches = true → let x := millOf s m
    (∀ a b d out nan inf, AtStep s m kLubuild t k j → let na := runBytes t.fa t.n; let ncb := 256 * t.dSub * (if bit t.func 0 then 1 else t.subspaces)
      InSram x t.a t.aoff na a → InSram x t.b t.boff (2 * ncb) b → InSram x t.d t.doff (runBytes t.fd (256 * t.subspaces)) d →
      writeRun t.fd t.sat ((lutEntries t ((readRun t.fa t.n (x.getMem a na)).map Elem.val) ((words16 ncb (x.getMem b (2 * ncb))).map bf16.decode)).map Elem.f) = (out, nan, inf) →
      Completes (.lubuild m) s (MillBecomes s m (wrote x d out nan inf)))
    ∧ (∀ a b d, AtStep s m kLuscore t k j → let na := t.n * codeRow t; let nb := runBytes t.fa (256 * codeRow t)
      InSram x t.a t.aoff na a → InSram x t.b t.boff nb b → b % 16384 = 0 → InSram x t.d t.doff (4 * t.n) d →
      let table : List Nat := (readRun t.fa (256 * codeRow t) (x.getMem b nb)).map (fun e => fp32.encode e.val)
      let rows := chop (codeRow t) t.n (x.getMem a na); let old := words32 t.n (x.getMem d (4 * t.n))
      let entries := fun (r : Nat) => (codePlaces t (nth [] rows r)).map (nth 0 table)
      Completes (.luscore m) s (fun u => ∃ ps : List Nat, ps.length = t.n
        ∧ (∀ r < t.n, nth 0 ps r = if bit t.func 0 then (entries r).foldl f32add (nth 0 old r) else ((entries r).drop 1).foldl f32add ((entries r).headD 0))
        ∧ MillBecomes s m (wrote x d (bytes32 ps) (ps.any f32isNan) (ps.any (fun p => (fp32.decode p).isInf))) u))
    ∧ (∀ a b d, AtStep s m kLubin t k j → let na := t.n * codeRow t; let cnt := 256 * codeRow t
      InSram x t.a t.aoff na a → InSram x t.b t.boff (4 * t.n) b → InSram x t.d t.doff (4 * cnt) d → d % 32768 = 0 →
      let rows := chop (codeRow t) t.n (x.getMem a na); let ws := words32 t.n (x.getMem b (4 * t.n))
      let adds := (rows.zip ws).flatMap (fun r => (codePlaces t r.1).map (fun p => (p, r.2)))
      let bins := adds.foldl (fun (bins : List Nat) (p : Nat × Nat) => setNth bins p.1 (f32add (nth 0 bins p.1) p.2)) (words32 cnt (x.getMem d (4 * cnt)))
      Completes (.lubin m) s (MillBecomes s m (wrote x d (bytes32 bins) (bins.any f32isNan) (bins.any (fun p => (fp32.decode p).isInf)))))
    ∧ (∀ a b, AtStep s m kCqins t k j → InSram x t.a t.aoff (4 * t.n) a → InSram x t.b t.boff (4 * t.n) b →
      let es := (words32 t.n (x.getMem a (4 * t.n))).zip (words32 t.n (x.getMem b (4 * t.n)))
      Completes (.cqins m) s (fun u => MillBecomes s m { ({ x with cq := (millOf u m).cq }).setFlag fCqImproved ((millOf u m).hasFlag fCqImproved) with pc := x.pc + 1 } u
        ∧ (x.cq.length ≤ x.cqLimit → (millOf u m).cq.length ≤ x.cqLimit)
        ∧ (∀ c ∈ (millOf u m).cq, c ∈ x.cq ∨ (c ∈ es ∧ f32isNan c.1 = false))
        ∧ (x.cq.Pairwise (fun a b => a.2 ≠ b.2) → (millOf u m).cq.Pairwise (fun a b => a.2 ≠ b.2))
        ∧ (es.all (fun e => f32isNan e.1) = true → (millOf u m).cq = x.cq ∧ (millOf u m).hasFlag fCqImproved = false)))
    ∧ (AtStep s m kCqpop t k j →
      (x.cq = [] → Completes (.cqpop m) s (MillBecomes s m { x with pc := x.pc + 1 }))
      ∧ ∀ key id rest, x.cq = (key, id) :: rest → Completes (.cqpop m) s (MillBecomes s m { ((x.setReg t.d id).setReg t.a key) with cq := rest, pc := x.pc + 1 }))
    ∧ (∀ d, AtStep s m kCqout t k j → let es := x.cq.take t.n
      InSram x t.d t.doff (8 * es.length) d → Completes (.cqout m) s (MillBecomes s m
        { ({ x with sram := Memory.writeN x.sram d (es.flatMap (fun (e : Nat × Nat) => toBytes e.1 4 ++ toBytes e.2 4)) }.setReg t.a es.length) with pc := x.pc + 1 }))
    ∧ (AtStep s m kCqclr t k j → Completes (.cqclr m) s (MillBecomes s m { x with cq := [], cqLimit := t.imm + 1, pc := x.pc + 1 }))

/-- The command port of a party's codebooks takes a command. -/
structure CbServed (s : State) (p : Nat) : Prop where
  ready : s.boot.ready = true
  idle : (Tbl.get {} s.shoal.ctl p).result ≠ 1

/-- CB_STATUS of the party tells of the slot: DONE 0 or REJECTED 2 with a reason. -/
def CbTold (t : State) (p k result reason : Nat) : Prop :=
  let c := Tbl.get {} t.shoal.ctl p
  c.slot = k ∧ c.state = (slotOf t k).state ∧ c.gen = (slotOf t k).gen ∧ c.result = result ∧ c.reason = reason ∧ c.waiting = none

/-- The party's codebook array has its base on this node and the slot's entry in extents that it may use. -/
def ArrayPlaced (s : State) (p k : Nat) : Prop :=
  let base := Tbl.get 0 s.shoal.base p
  addrNode base = s.node ∧ addrSpace base = 0 ∧ base % 32768 = 0
  ∧ inPrivate.inExtents s (fun e => (e.cls == .priv || e.cls == .sharedRo) && (extentMembers s.hw.slice e).contains (selfPair s p)) (slotEntry s p k) 32768 = true

/-- A party's command on a codebook slot, on a ready node with none of its commands BUSY: CB_STATUS tells the outcome. CB_QUERY of its own slot changes no slot; another party's slot is rejected as NOT_OWNER by each of the three. RELEASE of a LIVE slot makes it RETIRING. INSTALL of a FREE slot whose array entry is well placed and readable, under a generation it did not hold, makes it LIVE with the books in memory; a LIVE slot is rejected as BAD_STATE. A command while one is BUSY sets CMD_DROP alone. CODEBOOK_BASE_WRITE with no slot of the party in use takes the base; else it is ignored and logged. SLOT_FREED of a RETIRING slot without references, a period boundary past, makes it FREE and drops its copies; of one that is not, it does nothing. -/
def Obligations.CodebookSlotsChangeState : Prop :=
  (∀ (s : State) (p : Fin 8) (v : W64), CbServed s p → let k := field v 0 12
    (ownsSlot s p k = true →
      Completes (.cbQuery p v) s (fun t => CbTold t p k 0 0 ∧ t.shoal.slots = s.shoal.slots)
      ∧ ((slotOf s k).state = .live → Completes (.release p v) s (fun t => CbTold t p k 0 0
          ∧ slotOf t k = { slotOf s k with state := .retiring, retiredAt := s.weir.nextId, boundary := (slotOf s k).refs != 0 }
          ∧ ∀ n, n ≠ k → slotOf t n = slotOf s n))
      ∧ ((slotOf s k).state ≠ .live → Completes (.release p v) s (fun t => CbTold t p k 0 0 ∧ t.shoal.slots = s.shoal.slots)))
    ∧ (ownsSlot s p k = false → ∀ c ∈ [Instr.install p v, .release p v, .cbQuery p v], Completes c s (fun t => CbTold t p k 2 4 ∧ t.shoal.slots = s.shoal.slots))
    ∧ (ownsSlot s p k = true → ArrayPlaced s p k → flag v 40 = false →
      ((slotOf s k).state = .live → Completes (.install p v) s (fun t => CbTold t p k 2 1 ∧ t.shoal.slots = s.shoal.slots))
      ∧ (∀ b r, (slotOf s k).state = .free → (slotOf s k).gen ≠ field v 44 16 ∨ (slotOf s k).book = [] → let n := 256 * dOf (field v 42 2)
        shufelRead s p (slotEntry s p k + 0x1000) (2 * n) = (.ok, b) → (flag v 41 = true → shufelRead s p (slotEntry s p k + 0x3000) (2 * n) = (.ok, r)) →
        Completes (.install p v) s (fun t => CbTold t p k 0 0 ∧ slotOf t k = { slotOf s k with
          state := .live, gen := field v 44 16, dCode := field v 42 2, two := flag v 41, book := words16 n b, resid := if flag v 41 then words16 n r else [] }))))
  ∧ (∀ (s : State) (p : Fin 8) (v : W64), s.boot.ready = true → (Tbl.get {} s.shoal.ctl p).result = 1 → ∀ c ∈ [Instr.install p v, .release p v, .cbQuery p v],
      Completes c s (fun t => (Tbl.get {} t.shoal.ctl p).cmdDrop = true ∧ t.shoal.slots = s.shoal.slots ∧ ∀ q, q ≠ p.val → Tbl.get {} t.shoal.ctl q = Tbl.get {} s.shoal.ctl q))
  ∧ (∀ (s : State) (p : Fin 8) (v : W64),
      (slotsInUse s p = false → Completes (.codebookBaseWrite p v) s (fun t => Tbl.get 0 t.shoal.base p = field v 15 49 * 32768 ∧ t.shoal.slots = s.shoal.slots))
      ∧ (slotsInUse s p = true → s.keeper.up = true → Completes (.codebookBaseWrite p v) s (fun t => t.shoal = s.shoal ∧ Logged s t 0x0902 (partyReg p 0x050) v.toNat)))
  ∧ ∀ (s : State) (k : Nat), let x := slotOf s k
      (x.state = .retiring → x.refs = 0 → x.boundary = true → (∀ p < 8, (Tbl.get {} s.shoal.ctl p).waiting = none) →
        Completes (.slotFreed k) s (fun t => slotOf t k = { x with state := .free, boundary := false } ∧ (∀ n, n ≠ k → slotOf t n = slotOf s n)
          ∧ ∀ race, ∀ c ∈ (raceExp t race).store, c.1 ≠ k))
      ∧ (x.state ≠ .retiring ∨ x.refs ≠ 0 ∨ x.boundary = false → Completes (.slotFreed k) s (fun t => t = s))

/-- EXPAND_BLOCK on the first page whose party is served, its transfer's offset known: a page at its end, or at 16 zero bytes, leaves the input buffer; a header that is not one, or whose block leaves the page, drops the page with FAULT_PERMISSION recorded for the block; a good block of a usable slot, resident and of the named generation, with room in the eddy queue, puts its expanded words behind the queue, refers to its slot, and moves the page's place past it. CODEBOOK_MISS_FILL of the slot that a stalled block of a party waits for, in an empty store with room: the copy is resident and the block waits no longer. EDDY_READ_LINE of a line without double-bit errors, its rill's limit leaving room: its words leave the queue, corrected words are counted, and its bytes go to the host bus, or into one STORE for the home of their address, queued there or waiting for a credit. -/
def Obligations.CodedPagesExpand : Prop :=
  (∀ (s : State) (race : Fin 8) (pg : ExpPage) (off0 : Nat), (raceExp s race).input.find? (fun p => expServes s race p.party) = some pg →
      expOff0 s pg.xfer = some off0 → pg.ref = none → let bs := (pg.data.drop pg.pos).take 16; let h := blockHdr bs
      (4096 < pg.pos + 16 ∨ ofBytes bs = 0 → Completes (.expandBlock race) s (fun t => (raceExp t race).input = (raceExp s race).input.erase pg ∧ t.shoal.outcomes = s.shoal.outcomes))
      ∧ (pg.pos + 16 ≤ 4096 → ofBytes bs ≠ 0 →
        (h.format ≠ 1 ∨ h.rsvd = true ∨ h.hchkOk = false ∨ 4096 < pg.pos + codedLen h.count h.two → Completes (.expandBlock race) s (fun t => (raceExp t race).input = (raceExp s race).input.erase pg
          ∧ t.shoal.outcomes = (addOutcome pg.xfer (pg.off + pg.pos) .faultPermission 0 s).shoal.outcomes))
        ∧ (h.format = 1 → h.rsvd = false → h.hchkOk = true → pg.pos + codedLen h.count h.two ≤ 4096 → let k := slotOf s h.slot
          slotUsable s pg.party h.slot = true → slotMatches s h.slot h.gen pg.born = true → k.dCode = h.dCode → k.two = h.two → off0 ≤ h.expOff →
          (∃ c ∈ (raceExp s race).store, c.1 = h.slot) → let p := blockBytes k h.count ((pg.data.drop (pg.pos + 16)).take (codedLen h.count h.two - 16))
          let d := (fitBlock h.expLen p).1; let ws := wordsOf pg.xfer (h.expOff - off0) (pg.off + pg.pos) h.slot pg.party pg.dest (d.length + 1) 0 d
          ((raceExp s race).queue.filter (fun w => !isSealed s || w.party == pg.party)).length + ws.length ≤ eddyWords s pg.party →
          Completes (.expandBlock race) s (fun t => (raceExp t race).queue = (raceExp s race).queue ++ ws ∧ (slotOf t h.slot).refs = k.refs + 1
            ∧ ∃ y ∈ (raceExp t race).input, y = { pg with pos := pg.pos + codedLen h.count h.two }))))
  ∧ (∀ (s : State) (race : Fin 8) (slot : Nat) (pg : ExpPage), (raceExp s race).miss = some slot → (raceExp s race).input.find? (fun p => p.ref == some slot) = some pg →
      (raceExp s race).store = [] → copyBytes (slotOf s slot) ≤ cbStoreBytes s pg.party →
    Completes (.codebookMissFill race slot) s (fun t => (raceExp t race).store = [(slot, pg.party)] ∧ (raceExp t race).miss = none ∧ t.shoal.slots = s.shoal.slots))
  ∧ ∀ (s : State) (race : Fin 8) (single : List Nat) (w : EddyWord), let ws := lineWords 64 (raceExp s race).queue; let bytes := ws.flatMap wordBytes
      ws.head? = some w → (∀ y ∈ (raceExp s race).queue, y.discard = false) → rillOutstanding s w.xfer.rill < 4095 →
      let read := fun (t : State) => (raceExp t race).queue = (raceExp s race).queue.drop ws.length
        ∧ (raceExp t race).corrected = min (2 ^ 32 - 1) ((raceExp s race).corrected + ((single.filter (· < ws.length)).eraseDups).length)
      (∀ port addr, w.dest = .hostBus port addr → Completes (.eddyReadLine race single []) s (fun t => read t
        ∧ t.out = s.out ++ [.pcieWrite port s.rill.nextDma (addr + w.off) bytes]))
      ∧ (∀ va p, w.dest = .memory va → GoesHome s 0 (xferParty s w.xfer).1 (xferAsid s w.xfer) (xferParty s w.xfer).2 (va + w.off) bytes.length .store 0#64 p →
        Completes (.eddyReadLine race single []) s (fun t => read t ∧ Placed s t (fun q => q.op = .store ∧ q.addr = p.addr ∧ q.data = bytes ∧ q.tclass = .bulk)))

/-- A descriptor of a kind and operation runs, has no codebook slots yet, and nothing of its rill waits to be counted. -/
structure RunsOp (s : State) (rill index kind op : Nat) (j : Job) : Prop where
  landed : NoLandings s
  uncut : Uncut s rill
  found : findJob s rill index = some j
  op : j.kind = kind ∧ j.op = op
  clear : j.slots = [] ∧ j.builds = []

/-- It has not begun, and its operands can be read at once. -/
structure Fresh (s : State) (j : Job) (ranges : List (Nat × Nat)) : Prop where
  first : j.begun = false ∧ j.chunks = [] ∧ j.stage = [] ∧ j.want = [] ∧ j.lost = [] ∧ j.done = 0 ∧ j.err = none
  room : rillOutstanding s j.rill < 4096
  here : ∀ r ∈ ranges, atHand s j.ctx r.1 r.2 = true

/-- The pages of virtual ranges are in DRAM, PLAIN where they are to be written. -/
def AtRest (s : State) (write : Bool) (ctx : Option Ctx) (ranges : List (Nat × Nat)) : Prop :=
  ∀ r ∈ ranges, ∀ ps, translateIn s ctx r.1 r.2 .load = .pieces ps → ∀ q ∈ ps, restless s write q.addr q.len = []

/-- What an ATTEND reads before it begins: its queries and list, and of each listed sequence the record, the page list and its layer's entries
of the set table. -/
def attendReads (s : State) (j : Job) : List (Nat × Nat) :=
  let p := paramOf s j.rill
  let o := attendOps j
  (List.range o.n).map (fun i => (o.query + i * p.query, p.query)) ++ [(o.list, 2 * o.n)] ++ (listedSeqs s j).map (seqAt p)
    ++ (listedRecs s j (listedSeqs s j)).flatMap (fun r => [(r.list, 8 * r.pages), layerBooks p r.set o.layer])

/-- What an ADMIT or APPEND reads: its source, the sequence's record, entries of a page list, and the book set's table. -/
def codeReads (s : State) (j : Job) (list : List (Nat × Nat)) (set : Nat) : List (Nat × Nat) :=
  let p := paramOf s j.rill
  (j.word 2, p.layers * codeTokens j * p.row) :: seqAt p (admitSeq j) :: list ++ [(nth 0 p.sets set, 4 * (setEntries p).length)]

/-- What a descriptor that began left: it runs on and no record is due. -/
def Began (s t : State) (rill index : Nat) : Prop := (findJob t rill index).map (·.begun) = some true ∧ t.rill.due = s.rill.due

/-- An ATTENTION descriptor, nothing of its rill waiting to be counted. ATTEND with all it reads at hand: a LAYER or a list beyond the parameters, or OUT at the partner for a host's party, ends it with FAULT_PERMISSION; with every check passed its run stands with the listed sequences and it begins. UNIT_SPAN_COMPLETE of a span of the run's one sequence (64 pages, log entry 70), its pages in DRAM, its head's books with room in the codebook store of the unit's race and a team of mills free there: the span's partials join the sequence; with the last one its output goes into one STORE for the home of OUT, queued there or waiting for a credit, and the sequence is complete. ADMIT and APPEND with all they read at hand: an ADMIT of a sequence beyond the parameters, of no tokens, of more pages than its list holds, beyond the quota or not FREE, and an APPEND to one not ACTIVE or full, ends with FAULT_PERMISSION; with every check passed the pages to be coded and the books stand in their run and they begin. RETIRE of an ACTIVE sequence clears its STATE in memory, counts one sequence less and ends with OK; of one that is not ACTIVE it ends with OK and writes nothing. BUILD_BOOKS of a set with a table, a sample and enough free slots, not in use: that many free slots are BUILDING for it and it begins; without a table or a sample, or of a set in use, it ends with FAULT_PERMISSION. -/
def Obligations.AttentionDescriptorsRun : Prop :=
  (∀ (s : State) (rill index : Nat) (j : Job), RunsOp s rill index 2 1 j → let p := paramOf s rill; let o := attendOps j
    Fresh s j (attendReads s j) →
      (p.layers ≤ o.layer ∨ p.seqs < o.n ∨ (o.partner = true ∧ j.party < 2) → Completes (.attend rill index) s (Ended j .faultPermission s))
      ∧ (∀ d qs, o.layer < p.layers → o.n ≤ p.seqs → o.partner = false → vcheckHere s j.party j.ctx o.query (o.n * p.query) .load = none →
          vread s j.party j.ctx o.list (2 * o.n) = .ok d → outBad s j p o = none → o.note = 0 ∨ vcheckHere s j.party j.ctx o.note 8 .atomic = none →
          attendSeqs s j p o (words16 o.n d) = .ok qs → (∀ q ∈ qs, q.pages ≠ []) → findAttn s rill index = none →
        Completes (.attend rill index) s (fun t => Began s t rill index ∧ findAttn t rill index = some { rill, index, layer := o.layer, seqs := qs })))
  ∧ (∀ (s : State) (rill index head span : Nat) (j : Job) (a : AttRun) (q : AttSeq), NoLandings s → Uncut s rill → findJob s rill index = some j → j.kind = 2 ∧ j.op = 1 →
      findAttn s rill index = some a → a.seqs = [q] → j.begun = true → j.counterOk = true → j.err = none → j.chunks = [] → q.complete = false → let p := paramOf s rill; let o := attendOps j
      head < p.kv → span < spanCount q → (∀ x ∈ q.parts, ¬ (x.head = head * p.group ∧ x.span = span)) →
      AtRest s false j.ctx ((spanPages q span).map (fun g => (g + a.layer * p.slice + head * p.segment, p.segment))) → rillOutstanding s rill < 2048 →
      let race := pageRace s j (q.pages.headD 0 + a.layer * p.slice + head * p.segment)
      (residentAll race j.party [nth 0 q.keyBook head, nth 0 q.valBook head] s).isSome = true → max 1 (p.group / 2) ≤ (freeMills s race j.party).length →
      let got := spanParts j a 0 head span q s; let q2 := { q with parts := q.parts ++ got.2, status := worseData q.status got.1 }
      (q2.parts.length < p.heads * spanCount q → Completes (.unitSpanComplete rill index 0 head span) s (fun t => findAttn t rill index = some { a with seqs := [q2] } ∧ t.rill.due = s.rill.due))
      ∧ (∀ w, p.heads * spanCount q ≤ q2.parts.length → o.partner = false → let d := outBytes p o q2
          0 < d.length → d.length ≤ 4096 → GoesHome s 0 j.party j.asid j.ctx o.out d.length .store 0#64 w →
        Completes (.unitSpanComplete rill index 0 head span) s (fun t => findAttn t rill index = some { a with seqs := [{ q2 with complete := true }] }
          ∧ Placed s t (fun r => r.op = .store ∧ r.addr = w.addr ∧ r.data = d ∧ r.src = .rill rill index 0 ∧ r.tclass = .mill))))
  ∧ (∀ (s : State) (rill index : Nat) (j : Job), let p := paramOf s rill; let seq := admitSeq j
      let good := fun (base : Nat) (ks pages : List Nat) => base ≠ 0 ∧ booksAt s j base (setEntries p) [] = .ok ks ∧ (∀ g ∈ pages, kvPageBad s j.party j.ctx g 0 (p.layers * p.slice) = none)
        ∧ vcheckHere s j.party j.ctx (j.word 2) (p.layers * codeTokens j * p.row) .load = none ∧ findAttn s rill index = none
      let run := fun (pages ks : List Nat) => ({ rill, index, layer := 0, seqs := [{ seq, pages, keyBook := ks }] } : AttRun)
      (RunsOp s rill index 2 2 j → Fresh s j (codeReads s j [(j.word 4, 8 * codePages j)] (admitSet j)) →
        (p.seqs ≤ seq ∨ admitTokens j = 0 ∨ admitCap j < codePages j ∨ quotaOk s j.party 1 = false → Completes (.attnAdmit rill index) s (Ended j .faultPermission s))
        ∧ (∀ r d ks, seq < p.seqs → 256 ≤ admitTokens j → codePages j ≤ admitCap j → quotaOk s j.party 1 = true → readSeq s j p seq = .ok r →
            (r.state ≠ 0 → Completes (.attnAdmit rill index) s (Ended j .faultPermission s))
            ∧ (r.state = 0 → vread s j.party j.ctx (j.word 4) (8 * codePages j) = .ok d → good (nth 0 p.sets (admitSet j)) ks (words64 (codePages j) d) →
          Completes (.attnAdmit rill index) s (fun t => Began s t rill index ∧ findAttn t rill index = some (run (words64 (codePages j) d) ks)))))
      ∧ (RunsOp s rill index 2 3 j → ∀ r, readSeq s j p seq = .ok r → seq < p.seqs → Fresh s j (codeReads s j [(r.list + 8 * r.pages, 8)] r.set) →
        (r.active = false ∨ r.cap ≤ r.pages → Completes (.append rill index) s (Ended j .faultPermission s))
        ∧ (∀ d ks, r.active = true → r.pages < r.cap → vread s j.party j.ctx (r.list + 8 * r.pages) 8 = .ok d → good (nth 0 p.sets r.set) ks [ofBytes d] →
          Completes (.append rill index) s (fun t => Began s t rill index ∧ findAttn t rill index = some (run [ofBytes d] ks)))))
  ∧ (∀ (s : State) (rill index : Nat) (j : Job), RunsOp s rill index 2 4 j → let p := paramOf s rill; let at_ := p.seqBase + 64 * admitSeq j; Fresh s j [(at_, 64)] →
      (p.seqs ≤ admitSeq j → Completes (.retire rill index) s (Ended j .faultPermission s))
      ∧ (∀ d, admitSeq j < p.seqs → vread s j.party j.ctx at_ 8 = .ok d →
        (bits (ofBytes d) 62 2 ≠ 1 → Completes (.retire rill index) s (fun t => Ended j .ok s t ∧ t.store.mem = s.store.mem))
        ∧ (∀ z, bits (ofBytes d) 62 2 = 1 → (vpiece s j.ctx at_).all (fun q => addrNode q.addr == s.node) = true → AtRest s true j.ctx [(at_, 8)] → vwrite j.party j.ctx at_ (toBytes (ofBytes d - 2 ^ 62) 8) s = (none, z) →
          Completes (.retire rill index) s (fun t => Ended j .ok s t ∧ t.store.mem = z.store.mem ∧ (rillOf t rill).seqs = (rillOf s rill).seqs - 1))))
  ∧ ∀ (s : State) (rill index : Nat) (j : Job), RunsOp s rill index 2 5 j → let p := paramOf s rill; let base := nth 0 p.sets (admitSet j); let len := p.layers * admitTokens j * p.row
      Fresh s j ([(j.word 2, len), (p.seqBase, 64 * p.seqs)] ++ (if base = 0 then [] else [(base, 4 * booksNeeded p)])) → let bad := base = 0 ∨ admitTokens j = 0 ∨ 1048576 < admitTokens j ∨ setInUse s j p = true; let ks := (freeSlots s j.party).take (booksNeeded p)
      (bad → Completes (.buildBooks rill index) s (Ended j .faultPermission s))
      ∧ (¬ bad → vcheckHere s j.party j.ctx (j.word 2) len .load = none → vcheckHere s j.party j.ctx base (4 * booksNeeded p) .store = none → booksNeeded p ≤ (freeSlots s j.party).length →
        Completes (.buildBooks rill index) s (fun t => Began s t rill index ∧ (findJob t rill index).map (·.builds) = some ks
          ∧ ∀ k ∈ ks, (slotOf t k).state = .building ∧ (slotOf t k).dCode = 1 ∧ (slotOf t k).two = false))

/-- What a descriptor of an EMBED rill reads before it begins: a list, the records of the tables that it names, their shard lists, and more. -/
def embedReads (s : State) (j : Job) (list : List (Nat × Nat)) (tables : List Nat) (more : List (Nat × Nat)) : List (Nat × Nat) :=
  let p := embedParam (rillOf s j.rill).params
  list ++ tableRanges p tables ++ shardRanges s j p tables ++ more

/-- The pages of this node on which virtual ranges lie are in DRAM, PLAIN or RIFFLE. -/
def InDram (s : State) (ctx : Option Ctx) (ranges : List (Nat × Nat)) : Prop :=
  ∀ x ∈ touchedPages s ctx ranges, (tierOf s x).state = .plain ∨ (tierOf s x).state = .riffle

/-- What stays the same of a piece as it is sent: its owner, its kind, the bags or items that it serves, and its body. -/
def sentAs (p : ExPiece) : Nat × Nat × List Nat × Bytes := (p.owner, hdrKind p.words, p.bags, p.body)

/-- A descriptor that has begun its exchange: its run stands in the group with these pieces, and has no result yet. -/
def Exchanges (s t : State) (j : Job) (g : Nat) (ps : List (Nat × Nat × List Nat × Bytes)) : Prop :=
  Began s t j.rill j.index ∧ ∃ r, findRun t j.rill j.index = some r ∧ r.group = g ∧ r.result = none ∧ r.pieces.map sentAs = ps

/-- A descriptor of an EMBED rill, nothing of it begun and its operands, table records and shard lists at hand, nothing of its rill waiting to be counted. LOOKUP: a bag outside R306 ends it with FAULT_PERMISSION, an id beyond its table or an unreadable operand with that failure; else, with at most 65,536 ids and every part fitting a slot, its run stands with the ids and weights of each owner cut into pieces, each piece naming the bags it serves. UPDATE: an entry outside R309 ends it with its failure; else its run stands with the updates of each owner, of every node of the roster for a REPLICA table. COMMIT of a table that is not MUTABLE ends with OK and sends nothing; of one that is, its run stands with one piece for every owner. -/
def Obligations.EmbedDescriptorsExchange : Prop :=
  ∀ (s : State) (rill index : Nat) (j : Job) (g : ExchangeGroup), let p := embedParam (rillOf s rill).params
    groupOf s p.group = some g → findRun s rill index = none →
    (RunsOp s rill index 3 1 j → let o := lookupOps j; let bags := readBags s j o; let w := bags.any (fun b => b.weighted)
      Fresh s j (embedReads s j [(o.bags, 8 * o.n)] (lookupTables s j) (lookupRanges s j)) → ∀ d, jread s j o.bags (8 * o.n) = .ok d →
      ((∃ b ∈ bags, bagOk s j p o b = false) → Completes (.lookup rill index) s (Ended j .faultPermission s))
      ∧ ((∀ b ∈ bags, bagOk s j p o b = true) →
        (∀ st det, lookupParts s j p o bags.zipIdx [] = .error (st, det) → Completes (.lookup rill index) s (Ended j st s))
        ∧ (∀ parts, lookupParts s j p o bags.zipIdx [] = .ok parts → parts ≠ [] → (bags.map (fun b => b.count)).sum ≤ 65536 →
            (∀ x ∈ parts, 64 + partBytes x.2 w ≤ slotBytes g ∧ 64 + partReply x.2 ≤ slotBytes g) →
          Completes (.lookup rill index) s (fun t => Exchanges s t j p.group (((parts.map (fun x => x.1)).eraseDups.flatMap (fun n =>
            (cutParts (slotBytes g) w ((parts.filter (fun x => x.1 == n)).map (fun x => x.2)) [] 0 0).map (lookupPiece o n w))).map sentAs)))))
    ∧ (RunsOp s rill index 3 2 j → Fresh s j (embedReads s j [(j.word 2, 16 * updCount j)] (updateTables s j) (updateRanges s j)) → ∀ d, jread s j (j.word 2) (16 * updCount j) = .ok d →
      let parts := updateParts s j p g.roster (readUpdates s j).zipIdx []
      (∀ st det, parts = .error (st, det) → Completes (.update rill index) s (Ended j st s))
      ∧ (∀ ps, parts = .ok ps → ps ≠ [] → (∀ x ∈ ps, 64 + updPartBytes x.2 ≤ slotBytes g) →
        Completes (.update rill index) s (fun t => Exchanges s t j p.group (((ps.map (fun x => x.1)).eraseDups.flatMap (fun n =>
          (cutUpdates (slotBytes g) ((ps.filter (fun x => x.1 == n)).map (fun x => x.2)) [] 0).map (updatePiece n))).map sentAs))))
    ∧ (RunsOp s rill index 3 3 j → Fresh s j (embedReads s j [] [bits (j.word 2) 0 12] []) → ∀ x shards, readTable (jread s j) p (bits (j.word 2) 0 12) = .ok x → shardsOf (jread s j) x = .ok shards →
      (x.ok j.party = false → Completes (.embedCommit rill index) s (Ended j .faultPermission s))
      ∧ (x.ok j.party = true → x.mutable_ = false → Completes (.embedCommit rill index) s (Ended j .ok s))
      ∧ (x.ok j.party = true → x.mutable_ = true → let owners := if x.mode = 0 then [x.owner] else if x.mode = 1 then g.roster else shards.eraseDups
          owners ≠ [] → Completes (.embedCommit rill index) s (fun t => Exchanges s t j p.group (owners.map (fun n => (n, 3, [], []))))))

/-- A descriptor of a SEARCH rill, nothing of it begun, its index record, shard list and operands at hand, nothing of its rill waiting to be counted. QUERY: EF below K or no hops ends it with FAULT_PERMISSION; with every filter whole, its run stands with the queries cut into pieces that fit a slot with their results, each sent to every node of the index. INSERT: a shard beyond the index ends it with FAULT_PERMISSION; else its run stands with the vectors, ids and tags cut into pieces for that shard's node. DELETE: a handle of a node that has no shard ends it with FAULT_UNMAPPED; else its run stands with each node's handles. ADVANCE: its run stands with one piece for every node. CHECK of the local shard, its neighbour lists in DRAM: a neighbour entry that breaks R317 ends it with FAULT_PERMISSION or the status of its read; else GRAPH_OK is set in memory and it ends with OK. -/
def Obligations.SearchDescriptorsExchange : Prop :=
  ∀ (s : State) (rill index : Nat) (j : Job) (x : IndexRec), let p := searchOf s rill
    jobIndex s j = .ok x →
    (∀ g, groupOf s p.group = some g → findRun s rill index = none →
      (RunsOp s rill index 4 1 j → let o := queryOps j; let q := queryShape (j.word 5); let fs := batchFilters s j o.n
        Fresh s j (indexRange s j ++ shardRange s j ++ queryRanges s j) →
        (q.ef < q.k ∨ q.hops = 0 → Completes (.searchQuery rill index) s (Ended j .faultPermission s))
        ∧ (∀ nodes vecs d, q.k ≤ q.ef → q.hops ≠ 0 → shardNodes s j x = .ok nodes → jread s j (j.word 2) (o.n * x.full) = .ok vecs →
            jread s j (j.word 3) (if j.word 3 = 0 then 0 else 8 * o.n) = .ok d → (∀ f ∈ fs, ((filterOf f).mode = 0 ↔ (filterOf f).mask = 0)) →
            let per := min ((slotBytes g - 64) / (8 + x.full)) ((slotBytes g - 64) / (32 + 32 * q.k))
            per ≠ 0 → nodes ≠ [] →
          Completes (.searchQuery rill index) s (fun t => Exchanges s t j p.group (nodes.eraseDups.flatMap (fun n => (partsOf per o.n 0 o.n).map (fun c =>
            (n, 1, rangeFrom c.1 c.2, bytes64 ((fs.drop c.1).take c.2) ++ (vecs.drop (c.1 * x.full)).take (c.2 * x.full))))))))
      ∧ (RunsOp s rill index 4 2 j → let o := insertOps j; let per := (slotBytes g - 64) / (x.full + 12)
        Fresh s j (indexRange s j ++ shardRange s j ++ insertRanges s j) →
        (x.shards ≤ o.shard → Completes (.insert rill index) s (Ended j .faultPermission s))
        ∧ (∀ nodes vecs ids tags, o.shard < x.shards → shardNodes s j x = .ok nodes → jread s j (j.word 2) (o.n * x.full) = .ok vecs →
            jread s j (j.word 3) (8 * o.n) = .ok ids → jread s j (j.word 4) (if j.word 4 = 0 then 0 else 4 * o.n) = .ok tags → per ≠ 0 →
          Completes (.insert rill index) s (fun t => Exchanges s t j p.group ((partsOf per o.n 0 o.n).map (fun c =>
            (nth 0 nodes o.shard, 2, rangeFrom c.1 c.2, (vecs.drop (c.1 * x.full)).take (c.2 * x.full) ++ (ids.drop (8 * c.1)).take (8 * c.2)
              ++ ((padTo (4 * o.n) tags).drop (4 * c.1)).take (4 * c.2)))))))
      ∧ (RunsOp s rill index 4 3 j → let n := (insertOps j).n; Fresh s j (indexRange s j ++ shardRange s j ++ [(j.word 2, 8 * n)]) →
        ∀ nodes d, shardNodes s j x = .ok nodes → jread s j (j.word 2) (8 * n) = .ok d → let hs := (words64 n d).zipIdx
          ((∃ h ∈ hs, bits h.1 32 10 ∉ nodes) → Completes (.delete rill index) s (Ended j .faultUnmapped s))
          ∧ ((∀ h ∈ hs, bits h.1 32 10 ∈ nodes) → Completes (.delete rill index) s (fun t => Exchanges s t j p.group
              ((hs.map (fun h => bits h.1 32 10)).eraseDups.flatMap (fun m => let mine := hs.filter (fun h => bits h.1 32 10 == m)
                (partsOf ((slotBytes g - 64) / 8) mine.length 0 mine.length).map (fun c =>
                  (m, 3, ((mine.drop c.1).take c.2).map (fun h => h.2), bytes64 (((mine.drop c.1).take c.2).map (fun h => h.1)))))))))
      ∧ (RunsOp s rill index 4 4 j → Fresh s j (indexRange s j ++ shardRange s j) → ∀ nodes, shardNodes s j x = .ok nodes →
          Completes (.indexAdvance rill index) s (fun t => Exchanges s t j p.group (nodes.eraseDups.map (fun n => (n, 4, [], []))))))
    ∧ (RunsOp s rill index 4 5 j → Fresh s j (indexRange s j) → j.next = 0 → AtRest s false j.ctx ((List.range x.graphItems).map (fun v => (x.nbrBase + v * x.nbr, 4 * x.degree))) →
      (∀ st off, (List.range x.graphItems).findSome? (badNeighbour s j x) = some (st, off) → Completes (.check rill index) s (Ended j st s))
      ∧ (∀ z, (List.range x.graphItems).findSome? (badNeighbour s j x) = none → x.graphItems ≤ x.items → AtRest s true j.ctx (indexRange s j) → setGraphOk j.party j.ctx p (bits (j.word 5) 52 12) true s = (none, z) →
        Completes (.check rill index) s (fun t => Ended j .ok s t ∧ t.store.mem = z.store.mem)))

/-- No run, reply or answered request of an exchange is under way on the node. -/
structure ExchangeRests (s : State) : Prop where
  landed : NoLandings s
  stores : ∀ x ∈ s.weir.landed, match x.req.src with
    | .exch .. => False
    | _ => True
  runs : s.exch.runs = []
  replies : s.exch.replies = []

/-- The one posted piece is answered: it is posted no longer, and its reply has landed at this node, or its stores for the requester are under way. -/
def Replied (s t : State) (g : ExchangeGroup) (p : Posted) (st : Status) (version count detail : Nat) (body : Bytes) : Prop :=
  let ws := mkReply st (hdrSeq p.words) version count body.length detail
  t.exch.posted = []
  ∧ (p.node = s.node → t.exch.landed = s.exch.landed ++ [{ group := g.group, node := s.node, words := ws, body }])
  ∧ (p.node ≠ s.node → ∃ m, t.exch.replies = [m] ∧ m.group = g.group ∧ m.node = p.node ∧ m.word0 = nth 0 ws 0 ∧ m.rest = messageRest ws body ∧ m.headed = false)

/-- One piece is posted for a group's serving rill, which holds no codebook slot, and nothing else of the exchange is under way. PIECE_POSTED: a serving rill that is not ACTIVE answers CANCELLED; a party without mills answers FAULT_PERMISSION; of an EMBED rill with a free mill (log entry 66 says which), a LOOKUP piece without a pinned version, of good tables none of whose rows are on the host, all that it reads in DRAM, is answered OK with the FP32 partial of every bag, padded to 64 bytes; while no mill is free it stays posted. OWNER_COMMIT of a COMMIT piece: a table that is not MUTABLE is answered OK with its version; of one that is, the table is being committed, and with no staged row, what it reads and changes in DRAM, its retired slots go back to the free stack, CUR_VER goes up by one in memory and the reply carries it. PROGRESS_BEAT of a piece in work for another node: it counts one beat more, and one seal STORE of the count leaves for header word 2 of its return slot. -/
def Obligations.OwnersServePieces : Prop :=
  ∀ (s : State) (group : Fin 16) (node : Fin 1024) (g : ExchangeGroup) (p : Posted), ExchangeRests s → groupOf s group = some g → g.group = group.val →
    s.exch.posted = [p] → p.group = group.val ∧ p.node = node.val → p.slots = [] → let ctx := serveCtx s g
    (servingOk s g = false → Completes (.piecePosted group node) s (fun t => Replied s t g p .cancelled 0 (hdrCount p.words) 0 []))
    ∧ (servingOk s g = true → pieceReady s g p = true →
      (noMills s g.party = true → Completes (.piecePosted group node) s (fun t => Replied s t g p .faultPermission 0 (hdrCount p.words) 0 []))
      ∧ (noMills s g.party = false → serveMill s g.party = none → Completes (.piecePosted group node) s (fun t => t.exch = s.exch))
      ∧ (∀ m (served : List ((Bag × List Nat × List Nat) × TableRec × List Nat)), noMills s g.party = false → serveMill s g.party = some m → (rillOf s g.serveRill).kind = 3 →
          hdrKind p.words = 1 → hdrVpin p.words = false → p.verBad = false → p.asked = [] → served.map (fun x => x.1) = pieceBags p → InDram s ctx (lookupReads s g p) →
          (∀ x ∈ served, ownTable s g x.1.1.table = .ok x.2.1 ∧ x.2.1.ok g.party = true ∧ x.2.1.tailHost = false
            ∧ serveBag s g.party ctx x.2.1 none p.host x.1.1 x.1.2.1 x.1.2.2 = .ok x.2.2) →
        Completes (.piecePosted group node) s (fun t => Replied s t g p .ok 0 served.length 0
          (served.flatMap (fun x => padTo ((4 * x.2.1.dim + 63) / 64 * 64) (bytes32 x.2.2))))))
    ∧ (servingOk s g = true → noMills s g.party = false → (rillOf s g.serveRill).kind = 3 → hdrKind p.words = 3 → p.asked = [] → let n := hdrTable p.words
      ∀ x, ownTable s g n = .ok x →
      (x.mutable_ = false → Completes (.ownerCommit group node) s (fun t => Replied s t g p .ok x.curVer 0 0 []))
      ∧ (x.mutable_ = true → (∀ y ∈ s.exch.staged, ¬ (y.group = group.val ∧ y.table = n)) → let l := x.localRows (shardPos s g.party ctx x); let ver := (x.curVer + 1) % 2 ^ 32
        InDram s ctx (ownRanges s g n) → AtRest s true ctx (commitWrites s g n x l []) →
        Completes (.ownerCommit group node) s (fun t => Replied s t g p .ok ver 0 0 [] ∧ (group.val, n) ∉ t.exch.committing
          ∧ t.store.mem = (vwrite g.party ctx ((serveParam s g).dir + 64 * n) (toBytes ver 4) (recycle g.party ctx x l s)).2.store.mem)))
    ∧ (∀ port, p.working = true → node.val ≠ s.node → mayCall s engineKey = true → let a := poolAddr node 0 (returnOff g s.node + 16)
      addrNode a = node.val → s.map.state ≠ .forming → node.val ∈ s.map.pool → routePort s g.party a = some port → Uncovered s a 8 →
      Completes (.progressBeat group node) s (fun t => t.exch.posted = [{ p with beats := p.beats + 1 }]
        ∧ Leaves s t port (fun r => r.op = .store ∧ r.addr = a ∧ r.opf = sealPool ∧ r.data = toBytes (at' ((p.beats + 1) % 2 ^ 32) 32) 8)))

/-- REPLY, the first reply of an owner that has not been taken: with no run it is discarded; with one run of the group, each of whose pieces is sent, the piece of that owner with its SEQ has it from now on, and while another piece waits nothing else changes. Either way the node pair may exchange again. -/
def Obligations.RepliesReachTheirPieces : Prop :=
  ∀ (s : State) (group : Fin 16) (node : Fin 1024) (x : Landing), NoLandings s → s.exch.landed.find? (fun x => x.group == group.val && x.node == node.val) = some x →
    let freed := s.exch.waiting.filter (fun w => w != (group.val, node.val, hdrSeq x.words)); let left := s.exch.landed.erase x
    (s.exch.runs = [] → Completes (.reply group node) s (fun t => t.exch = { s.exch with landed := left, waiting := freed }))
    ∧ (∀ r j, s.exch.runs = [r] → r.group = group.val → findJob s r.rill r.index = some j → j.begun = true → j.counterOk = true → j.cut = false → j.withdrawn = false → j.err = none →
        r.result = none → r.outs = [] → (∀ p ∈ r.pieces, p.sent = true ∧ p.headed = true ∧ (messageRest p.words p.body).length ≤ p.off) →
        let took := fun (p : ExPiece) => if p.owner = node.val ∧ p.seq = hdrSeq x.words ∧ p.reply = none then { p with reply := some (x.words, x.body) } else p
        (∃ p ∈ r.pieces, (took p).reply = none) →
      Completes (.reply group node) s (fun t => t.exch = { s.exch with landed := left, waiting := freed, runs := [{ r with pieces := r.pieces.map took }] }))

/-- A batch of a mirror set that has just closed: it takes the pages whose bit was set, and each of them waits to be shipped. -/
def BatchClosed (s t : State) (i : Nat) (state : Nat) (resync : Bool) : Prop :=
  let x := mirrorOf s i
  mirrorOf t i = { x with state, batch := (x.batch + 1) % 2 ^ 32, ship := x.bits, bits := [], unacked := x.bits.flatMap (fun p => rangeFrom (16 * p) 16), marking := false
                          resync, due := false, closedAt := some (x.closedAt.getD s.keeper.mono) }
  ∧ (∀ p ∈ x.bits, ∃ w ∈ t.weir.maint, w.2 = .ship i p) ∧ t.store = s.store

/-- Of a set that this node ships as its primary: MIRROR_BATCH_CLOSE at a period boundary with no batch on its way closes one, of every page whose bit is set, as a resync where every page was marked at boot; else it does nothing. MIRROR_LINK_RETURN in LINK_DOWN closes one resync batch. MIRROR_BATCH_ACKED with every piece acknowledged sends one mark of the batch's number to the gateway. MIRROR_LINK_DOWN puts the set into LINK_DOWN, logged; the pages not acknowledged have their bits again. LAG_EXCEEDED once the oldest closed batch is older than the bound sets LAG_EXCEEDED and the alert, logged. A mirror does none of these. -/
def Obligations.MirrorsShipBatches : Prop :=
  ∀ (s : State) (i : Fin 16) (m : MirrorSetting), mirrorSetting s i = some m → s.keeper.up = true → let x := mirrorOf s i
    (x.primary = true →
      (x.due = true → x.state = mirrorIdle → Completes (.mirrorBatchClose i) s (fun t => BatchClosed s t i (if x.full then mirrorResync else mirrorShipping) x.full))
      ∧ (x.due = false ∨ x.state ≠ mirrorIdle → Completes (.mirrorBatchClose i) s (fun t => t = s))
      ∧ (x.state = mirrorLinkDown' → Completes (.mirrorLinkReturn i) s (fun t => BatchClosed s t i mirrorResync true))
      ∧ (∀ port, batchOpen x = true → x.unacked = [] → x.marking = false → m.gateway ≠ s.node → let a := poolAddr m.gateway 1 (m.window * 2 ^ 46)
          addrNode a = m.gateway → s.map.state ≠ .forming → m.gateway ∈ s.map.pool → routePort s 15 a = some port → Uncovered s a 4096 →
        Completes (.mirrorBatchAcked i) s (fun t => mirrorOf t i = { x with marking := true }
          ∧ Leaves s t port (fun r => r.op = .sluicePut ∧ r.addr = a ∧ r.opf = putFields true x.resync x.batch ∧ r.data = toBytes 0 8)))
      ∧ (x.state ≠ mirrorLinkDown' → Completes (.mirrorLinkDown i) s (fun t =>
          mirrorOf t i = { x with state := mirrorLinkDown', bits := insertAll (pagesUnacked x) x.bits, ship := [], unacked := [], marking := false, resync := false }
          ∧ (∀ w ∈ t.weir.maint ++ t.weir.flashQ, ∀ p, w.2 ≠ .ship i p) ∧ Logged s t 0x0207 m.setId (2 + x.lastBatch * 2 ^ 32)))
      ∧ (∀ lag, m.lagBoundMs < lag → lag ≤ lagMs s i → x.lagExceeded = false → Completes (.lagExceeded i lag) s (fun t => mirrorOf t i = { x with lagExceeded := true }
          ∧ t.keeper.alert = insertNat alertLag s.keeper.alert ∧ Logged s t 0x0207 m.setId (x.state + 16 + x.lastBatch * 2 ^ 32))))
    ∧ (x.primary = false → ∀ lag, ∀ c ∈ [Instr.mirrorBatchClose i, .mirrorBatchAcked i, .mirrorLinkDown i, .mirrorLinkReturn i, .lagExceeded i lag], Completes c s (fun t => t = s))

/-- OWNER_LOST of each kind of owner, logged with the node and the operation. Of an exchange a piece of which waits for that node: with nothing outstanding the descriptor ends with OWNER_LOST, INDETERMINATE for what changes an owner's state; with more outstanding its run keeps only that result. Of a reduction of a descriptor that no mill runs: what went to the node is no longer sent, and the descriptor has failed with OWNER_LOST, INDETERMINATE. Of a window: its staging, shipped stores, fetches and read buffers are gone, and a descriptor's stores in them have landed OWNER_LOST. Of a mirror set with a batch on its way: LINK_DOWN, logged with its far gateway (log entry 72). Of a slice read: it is read no longer and starts again later. -/
def Obligations.LostOwnersEndWhatTheyHeld : Prop :=
  ∀ s : State, s.keeper.up = true → let lost := fun (t : State) (node what : Nat) => Logged s t 0x0605 node what
    (∀ (node rill index : Nat) (j : Job) (r : ExchRun), findJob s rill index = some j → findRun s rill index = some r → piecesOf s node rill index = true →
      j.cut = false → j.withdrawn = false → j.slots = [] → j.builds = [] → let indet := (j.kind == 3 && (j.op == 2 || j.op == 3)) || (j.kind == 4 && (j.op == 2 || j.op == 3 || j.op == 4))
      (j.outstanding = 0 → Completes (.ownerLost (.exchange node rill index)) s (fun t => lost t node 0 ∧ Ended j .ownerLost s t
        ∧ ∃ d ∈ t.rill.due, d.rill = rill ∧ d.index = index ∧ d.status = .ownerLost ∧ d.indet = indet))
      ∧ (j.outstanding ≠ 0 → Completes (.ownerLost (.exchange node rill index)) s (fun t => lost t node 0
        ∧ findRun t rill index = some { r with pieces := [], outs := [], advance := 0, result := some (.ownerLost, 0, indet) })))
    ∧ (∀ (node rill index : Nat) (j : Job), findJob s rill index = some j → reductionsTo s node rill index ≠ [] → (∀ m ∈ s.mills, m.2.job ≠ some (rill, index)) →
        Completes (.ownerLost (.reduction node rill index)) s (fun t => lost t node 1 ∧ findJob t rill index = some { j with indet := true, err := some (0, .ownerLost, 0) }
          ∧ ∀ x ∈ t.net.sent, x.req ∉ reductionsTo s node rill index))
    ∧ (∀ (window : Fin 64) (w : SluiceWindow), findWindow s window = some w → let mine := fun (n : Nat) => n == window.val
        Completes (.ownerLost (.sluice window)) s (fun t => lost t w.farNode 2
          ∧ t.sluice.stages = s.sluice.stages.filter (fun x => !mine x.window) ∧ t.sluice.shipped = s.sluice.shipped.filter (fun x => !mine x.window)
          ∧ t.sluice.fetches = s.sluice.fetches.filter (fun x => !mine x.window) ∧ t.sluice.bufs = s.sluice.bufs.filter (fun x => !mine x.window)
          ∧ ∀ x ∈ s.sluice.stages, x.window = window.val → ∀ r ∈ x.stores, r.join = none → (∃ a b c, r.src = .rill a b c) →
              ∃ l ∈ t.weir.landed, l.req = r ∧ l.status = .ownerLost))
    ∧ (∀ (i : Fin 16) (m : MirrorSetting), mirrorSetting s i = some m → (mirrorOf s i).primary = true → batchOpen (mirrorOf s i) = true →
        Completes (.ownerLost (.mirror i)) s (fun t => (mirrorOf t i).state = mirrorLinkDown' ∧ (mirrorOf t i).unacked = []
          ∧ (∀ p ∈ pagesUnacked (mirrorOf s i), p ∈ (mirrorOf t i).bits) ∧ ∃ e ∈ t.keeper.buf, e.code = 0x0605 ∧ e.arg0 = mirrorFar s m ∧ e.arg1 = 3))
    ∧ ∀ (node : Fin 1024) (a : Announcement), s.map.reading.find? (fun a => a.node == node.val) = some a →
        Completes (.ownerLost (.agreement node)) s (fun t => lost t node 4 ∧ t.map.reading = s.map.reading.filter (fun a => a.node != node.val)
          ∧ t.map.redeliver = s.map.redeliver ++ [{ a with reply := true }])

/-- Every rill of a party is OFF or DRAINING. -/
def RillsIdle (s : State) (p : Nat) : Prop := ∀ r, ownsRill s p r = true → (rillOf s r).state = .off ∨ (rillOf s r).state = .draining

/-- A party has been reset: its rills are OFF or DRAINING, no other party's is touched, and a BUSY codebook command has ended. -/
structure PartyReset (s t : State) (p : Nat) : Prop where
  since : (t.pty p).resetAt = some s.keeper.mono
  rills : RillsIdle t p
  others : ∀ r, ownsRill s p r = false → rillOf t r = rillOf s r
  books : (Tbl.get {} s.shoal.ctl p).result = 1 → let c := Tbl.get {} t.shoal.ctl p
    c.result = 2 ∧ c.reason = cbBadState ∧ c.waiting = none ∧ c.slot = (Tbl.get {} s.shoal.ctl p).slot

/-- ERR_CTL of a party at its reset values. -/
def errsReset (x : PartySt) : PartySt := { x with errWrite := 0, errRead := 0, errLost := false, msixEn := false, msixVec := 0 }

/-- PARTY_RESET of a party whose reset is not BUSY resets it and touches nothing else of its registers where its rills are idle; while BUSY, as log entry 71 has it, it does nothing. FLR resets the host's party too, its ERR_CTL and the function's config space. HOT_RESET does the same, and the port is out of L0 and no longer trained or CXL. CXL_RESET resets the party and the function; an agent of no domain has joined none afterwards; with nothing else under way on the node, a domain of the host has fallen, no directory entry of it is left, and the host has joined again. -/
def Obligations.PartiesAndHostsReset : Prop :=
  (∀ (s : State) (p : Fin 8),
      (resetBusy s p = false → Completes (.partyReset p) s (fun t => PartyReset s t p ∧ (RillsIdle s p → t.pty p = { s.pty p with resetAt := some s.keeper.mono } ∧ t.store = s.store ∧ t.coh = s.coh)))
      ∧ (resetBusy s p = true → Completes (.partyReset p) s (fun t => t = s)))
  ∧ ∀ (s : State) (p : Fin 2), let h := s.hostSt p
      let done := fun (t : State) (h' : HostSt) => PartyReset s t p ∧ (RillsIdle s p → t.pty p = { errsReset (s.pty p) with resetAt := some s.keeper.mono } ∧ t.hostSt p = h'
        ∧ ∀ q, q ≠ p.val → t.hostSt q = s.hostSt q ∧ t.pty q = s.pty q)
      Completes (.flr p) s (fun t => done t { h with config := [] })
      ∧ Completes (.hotReset p) s (fun t => done t { h with config := [], l0 := false, trained := false, cxl := false, l0Count := !h.dead })
      ∧ (s.coh.domains.filter (fun d => d.agents.contains ⟨s.node, p⟩) = [] → Completes (.cxlReset p) s (fun t => done t { h with config := [], dead := false }
          ∧ (RillsIdle s p → t.coh = { s.coh with joined := s.coh.joined.filter (fun a => a != ⟨s.node, p⟩) })))
      ∧ (∀ d, RillsIdle s p → Still s → s.coh.domains.filter (fun d => d.agents.contains ⟨s.node, p⟩) = [d] → findDomain s d.num = some d →
        Completes (.cxlReset p) s (fun t => (∀ e ∈ t.coh.dir, inDomain s d (e.line * 64) = false) ∧ ⟨s.node, p⟩ ∈ t.coh.joined
          ∧ ∀ e ∈ s.coh.dir, inDomain s d (e.line * 64) = true → (e.state = .o ∨ (e.state = .em ∧ e.modified = true)) → e.line ∈ t.store.poison))

/-- REGISTER_WRITE by a local party to its own page: CTX_BASE and RILL_BASE take the value; SYNC_STATUS clears BUSY_DROP, TIER_STATUS its three event bits, RILL_STATUS and CB_STATUS CMD_DROP, each where the value has the bit; ERR_CTL takes ERR_READ, the interrupt enable and its vector and clears LOST; the error window, TIDE and BOOT_STATUS stay; RESET with CMD 1 resets the party unless BUSY. MIRROR_STATUS of a set of which it is a member clears LAG_EXCEEDED. Another party's page, a capability word, the mailbox, the slice, and every offset that is not a multiple of 8 change nothing. -/
def Obligations.RegisterWritesChangeRegisters : Prop :=
  ∀ (s : State) (p : Fin 8) (v : W64), let x := s.pty p
    let page := fun (q r : Nat) => BitVec.ofNat 52 (0x20000 + 0x1000 * q + r)
    let turns := fun (r : Nat) (y : PartySt) => Completes (.registerWrite p (page p r) v) s (fun t => t.pty p = y ∧ (∀ q, q ≠ p.val → t.pty q = s.pty q) ∧ t.rill = s.rill ∧ t.store = s.store)
    turns 0x000 { x with ctxBase := v } ∧ turns 0x020 { x with rillBase := v }
    ∧ turns 0x010 { x with busyDrop := x.busyDrop && !flag v 12 }
    ∧ turns 0x018 { x with pinShort := x.pinShort && !flag v 7, pinSaturated := x.pinSaturated && !flag v 6, failingRow := x.failingRow && !flag v 4 }
    ∧ turns 0x070 { x with errRead := field v 32 16, errLost := x.errLost && !flag v 31, msixEn := flag v 30, msixVec := field v 19 11 }
    ∧ (field v 60 4 = 1 → resetBusy s p = false → RillsIdle s p → turns 0x080 { x with resetAt := some s.keeper.mono })
    ∧ (field v 60 4 ≠ 1 ∨ resetBusy s p = true → Completes (.registerWrite p (page p 0x080) v) s (fun t => t = s))
    ∧ Completes (.registerWrite p (page p 0x030) v) s (fun t => let c := Tbl.get {} s.rill.ctl p
        Tbl.get {} t.rill.ctl p = { c with cmdDrop := c.cmdDrop && !flag v 26 } ∧ t.rill.table = s.rill.table ∧ t.pty p = x)
    ∧ Completes (.registerWrite p (page p 0x060) v) s (fun t => let c := Tbl.get {} s.shoal.ctl p
        Tbl.get {} t.shoal.ctl p = { c with cmdDrop := c.cmdDrop && !flag v 15 } ∧ t.shoal.slots = s.shoal.slots ∧ t.pty p = x)
    ∧ (∀ r, r ∈ [0x048, 0x078] ∨ (0x100 ≤ r ∧ r < 0x300) → Completes (.registerWrite p (page p r) v) s (fun t => t = s))
    ∧ (∀ i : Fin 16, mirrorReader s i p = true → Completes (.registerWrite p (BitVec.ofNat 52 (0x2000 + 8 * i.val)) v) s (fun t =>
        mirrorOf t i = { mirrorOf s i with lagExceeded := (mirrorOf s i).lagExceeded && !flag v 3 } ∧ ∀ j, j ≠ i.val → mirrorOf t j = mirrorOf s j))
    ∧ ∀ off : BitVec 52, let a := off.toNat
        a % 8 ≠ 0 ∨ a < 0x40 ∨ (0x10000 ≤ a ∧ a < 0x20000) ∨ (0x1000000 ≤ a ∧ a < 0x1800000) ∨ (0x20000 ≤ a ∧ a < 0x28000 ∧ (a - 0x20000) / 0x1000 ≠ p.val) →
        Completes (.registerWrite p off v) s (fun t => t = s)

/-- The keeper's answer to a command that went well or not: the answer goes out and is logged. -/
def Answers (s t : State) (code result : Nat) (more : List Output) : Prop :=
  t.out = s.out ++ more ++ [.keeper code result []] ∧ Logged s t 0x0901 code result

/-- On a keeper that serves its commands, each logged with its result and changing nothing but what is said. GET_INFO answers BOOT_STATUS, both slot records, ALERT_CAUSE, the two version counters and the power limit; GET_LOG the entries from a SEQ on with what seals prove of them; GET_SEAL a retained seal, or is refused where there is none. DIAG_READ of the fuses, a lane's or link's test register and a link's counters answers their words; of an eddy queue that is empty and flushed the last word read, and 0 where it is only empty, both setting UNDERRUN, and 0 where it is not; a party's range is refused and logged. -/
def Obligations.KeeperReadsAnswer : Prop :=
  ∀ s : State, mctpUp s = true → let same := fun (t : State) => t.nv = s.nv ∧ t.boot = s.boot ∧ t.store = s.store ∧ t.test = s.test ∧ t.keeper.alert = s.keeper.alert
    Completes .getInfo s (fun t => same t ∧ Logged s t 0x0901 1 0 ∧ ∃ ws : List Nat, t.out = s.out ++ [.keeper 1 0 ws] ∧ ws.length = 7
      ∧ nth 0 ws 0 = (bootStatus s).value % 2 ^ 64 ∧ nth 0 ws 1 / 2 ^ 23 = (recordView s.nv.fwRec).value % 2 ^ 64 / 2 ^ 23 ∧ nth 0 ws 2 / 2 ^ 23 = (recordView s.nv.hwRec).value % 2 ^ 64 / 2 ^ 23
      ∧ bits (nth 0 ws 3) 6 10 = bits (alertWord s) 6 10 ∧ nth 0 ws 4 = s.nv.fuses.fwSvn % 2 ^ 64 ∧ nth 0 ws 5 = s.nv.fuses.hwSvn % 2 ^ 64 ∧ nth 0 ws 6 = s.keeper.limitW % 2 ^ 64)
    ∧ (∀ seq : BitVec 32, Completes (.getLog seq) s (fun t => same t ∧ Answers s t 2 0 [.keeperLog (entriesFrom s seq.toNat) ((entriesFrom s seq.toNat).map (isProven s))]))
    ∧ (∀ (n : Nat) (r : SealRec), s.nv.seals[n]? = some r → Completes (.getSeal n) s (fun t => same t ∧ Answers s t 3 0 [.keeperSeal (some r)]))
    ∧ (∀ n : Nat, s.nv.seals.length ≤ n → Completes (.getSeal n) s (fun t => same t ∧ Answers s t 3 2 [.keeperSeal none]))
    ∧ Completes (.diagRead .fuses) s (fun t => same t ∧ Answers s t 4 0 [.diag (fuseWords s.nv.fuses)])
    ∧ (∀ l : Fin 160, Completes (.diagRead (.laneControl l)) s (fun t => same t ∧ Answers s t 4 0 [.diag [laneControl s.test l]]))
    ∧ (∀ l : Fin 32, Completes (.diagRead (.linkControl l)) s (fun t => same t ∧ Answers s t 4 0 [.diag [(s.link l).ltMode * 2 ^ 62]])
      ∧ Completes (.diagRead (.linkCounters l)) s (fun t => same t ∧ Answers s t 4 0 [.diag (counterWords (s.link l).counters)]))
    ∧ (∀ (race : Fin 8) (n : Nat), let x := raceExp s race
        (x.queue = [] → x.input = [] → x.flushing = false → Completes (.diagRead (.eddyData race n)) s (fun t => same t ∧ Answers s t 4 0 [.diag [x.lastWord.toNat]]
          ∧ raceExp t race = { x with underrun := true }))
        ∧ (x.queue = [] → x.input ≠ [] ∨ x.flushing = true → Completes (.diagRead (.eddyData race n)) s (fun t => same t ∧ Answers s t 4 0 [.diag [0]] ∧ raceExp t race = { x with underrun := true }))
        ∧ (x.queue ≠ [] → Completes (.diagRead (.eddyData race n)) s (fun t => same t ∧ Answers s t 4 0 [.diag [0]] ∧ raceExp t race = x)))
    ∧ ∀ a : Nat, Completes (.diagRead (.partyRange a)) s (fun t => same t ∧ t.out = s.out ++ [.keeper 4 2 []]
        ∧ ∃ e f, t.keeper.buf = s.keeper.buf ++ [e, f] ∧ e.code = 0x0703 ∧ e.arg1 = 0 ∧ e.arg0 = a ∧ f.code = 0x0901 ∧ f.arg0 = 4 ∧ f.arg1 = 2)

/-- On a keeper that serves its commands and has none in progress, each answered and logged. CLEAR_ALERT clears the event bits that it names and no other. SET_LIMIT takes the limit, clamped to 200 W to CAP_FULL_W. In service, EARLY_FLUSH with no flush active makes one pending at the next period boundary, and END_BRACE of a braced node ends the braced state; before READY both are refused and change no flush state. CLEAR_FAULT of a node whose manifest alone is lost makes it whole and, READY, agreement starts with this node in the pool and announcements to its roster; with no lost manifest, or lost keys, it is refused. SET_ENDPOINT_ID takes the number and answers nothing. -/
def Obligations.KeeperCommandsAct : Prop :=
  (∀ s : State, mctpUp s = true → s.keeper.busy = false →
    (∀ v : W64, Completes (.clearAlert v) s (fun t => t.out = s.out ++ [.keeper 5 0 []] ∧ Logged s t 0x0901 5 0
        ∧ ∀ b, b ∈ t.keeper.alert ↔ b ∈ s.keeper.alert ∧ ¬ (b ∈ [alertUpdateFail, alertLog, alertService, alertSwitch, alertLag] ∧ flag v b = true)))
    ∧ (∀ w : Nat, Completes (.setLimit w) s (fun t => Answers s t 0x10 0 [] ∧ t.keeper.limitW = max 200 (min w s.hw.settings.capFullW) ∧ t.keeper.alert = s.keeper.alert))
    ∧ (s.boot.ready = true → canChange s = true →
      (flushActive s = false → Completes .earlyFlush s (fun t => t.out = s.out ++ [.keeper 0x11 0 []] ∧ t.flush = { s.flush with pending := true, toPower := false, trigger := trigCommand, startMono := s.keeper.mono }))
      ∧ (flushActive s = true → Completes .earlyFlush s (fun t => Answers s t 0x11 0 [] ∧ t.flush = s.flush))
      ∧ (s.flush.braced = true → Completes .endBrace s (fun t => t.out = s.out ++ [.keeper 0x12 0 []] ∧ t.flush = { s.flush with braced := false, causes := [] }
          ∧ t.keeper.alert = removeNat alertBraced s.keeper.alert))
      ∧ (s.flush.braced = false → Completes .endBrace s (fun t => Answers s t 0x12 0 [] ∧ t.flush = s.flush)))
    ∧ (s.boot.ready = false → Completes .earlyFlush s (fun t => Answers s t 0x11 2 [] ∧ t.flush = s.flush) ∧ Completes .endBrace s (fun t => Answers s t 0x12 2 [] ∧ t.flush = s.flush))
    ∧ (s.nv.manifestLost = true → s.map.lostKeys = false → s.map.genFault = false → s.boot.ready = true → s.map.started = false → Completes .clearFault s (fun t =>
        t.nv.manifestLost = false ∧ t.map.started = true ∧ t.map.state = .forming ∧ t.map.pool = [s.node] ∧ ∀ n ∈ s.hw.slice.roster, n ≠ s.node → Output.announce n (myAnnouncement s false) ∈ t.out))
    ∧ (s.nv.manifestLost = false ∨ s.map.lostKeys = true → Completes .clearFault s (fun t => Answers s t 0x14 2 [] ∧ t.nv = s.nv ∧ t.map = s.map)))
  ∧ (∀ s : State, mctpUp s = true → s.keeper.busy = true → ∀ c ∈ [(Instr.clearAlert 0, 5), (.setLimit 0, 0x10), (.earlyFlush, 0x11), (.endBrace, 0x12), (.clearFault, 0x14), (.commit, 0x30), (.revert, 0x31), (.lockInstall, 0x41)],
      Completes c.1 s (fun t => Answers s t c.2 1 [] ∧ t.nv = s.nv ∧ t.flush = s.flush ∧ t.map = s.map ∧ t.keeper.limitW = s.keeper.limitW))
  ∧ ∀ (s : State) (e : BitVec 8), (mctpUp s = true → Completes (.setEndpointId e) s (fun t => t = { s with keeper := { s.keeper with eid := e.toNat } }))
      ∧ (s.keeper.up = false → Completes (.setEndpointId e) s (fun t => t = s))

/-- The booted slot of one component is TRIAL and the other's is not. -/
def OnTrial (s : State) (c : Nat) : Prop := (c = compFirmware ∨ c = compHeadwater) ∧ ∀ d ∈ [compFirmware, compHeadwater], isTrial s d = decide (d = c)

/-- The number of a component that the fuses hold. -/
def fusedSvn (s : State) (c : Nat) : Nat := if c = compFirmware then s.nv.fuses.fwSvn else s.nv.fuses.hwSvn

/-- A component's booted slot is COMMITTED and the fuses hold at least its number. -/
def SlotCommitted (s t : State) (c : Nat) : Prop :=
  slotState (slotRec t c) (bootedSlot s c) = .committed ∧ (slotRec t c).trialBoots = 0 ∧ fusedSvn t c = max (fusedSvn s c) (min 64 (imageSvn s c (bootedSlot s c)))
  ∧ ∀ d, (d = compFirmware ∨ d = compHeadwater) → d ≠ c → slotRec t d = slotRec s d ∧ fusedSvn t d = fusedSvn s d

/-- With one component on trial, on a keeper that serves its commands and has none in progress: COMMIT commits its slot and raises the fused number to the image's, never lowering it; REVERT makes the slot BAD, names the other slot NEXT, and on a READY node a reset waits: cold where firmware is reverted, warm else. With none on trial both are refused. COMMIT_DELAY_EXPIRY of a component on trial commits its slot on a READY node, headwater only when AGREED; else it does nothing. -/
def Obligations.TrialsAreCommittedOrReverted : Prop :=
  (∀ s : State, mctpUp s = true → s.keeper.busy = false →
    (∀ c, OnTrial s c →
      (booting s = false → Completes .commit s (fun t => SlotCommitted s t c ∧ t.out = s.out ++ [.keeper 0x30 0 []]))
      ∧ (canChange s = true → s.boot.ready = true → let n := bootedSlot s c
        Completes .revert s (fun t => slotState (slotRec t c) n = .bad ∧ (slotRec t c).next = 1 - n ∧ (slotRec t c).trialBoots = 0
          ∧ t.keeper.reboot = (if c = compFirmware then rebootCold else rebootWarm) ∧ t.keeper.busy = true ∧ alertUpdateFail ∈ t.keeper.alert ∧ t.out = s.out ++ [.keeper 0x31 0 []])))
    ∧ (isTrial s compFirmware = false → isTrial s compHeadwater = false →
        Completes .commit s (fun t => Answers s t 0x30 2 [] ∧ t.nv = s.nv) ∧ Completes .revert s (fun t => Answers s t 0x31 2 [] ∧ t.nv = s.nv ∧ t.boot = s.boot)))
  ∧ ∀ (s : State) (h : Bool), let c := if h then compHeadwater else compFirmware
      (s.keeper.up = true → s.boot.ready = true → isTrial s c = true → (h = true → s.map.state = .agreed) → Completes (.commitDelayExpiry h) s (fun t => SlotCommitted s t c))
      ∧ (s.boot.ready = false ∨ isTrial s c = false ∨ (h = true ∧ s.map.state ≠ .agreed) → Completes (.commitDelayExpiry h) s (fun t => t = s))

/-- On a keeper that serves its commands and has none in progress. Before LOCK_INSTALL, PROVISION_KEY of a pair with exponent 65,537 for an empty, unrevoked slot, with a good challenge, burns its digest there and makes a new nonce; a bad challenge is BAD_SIGNATURE, an occupied or revoked slot or another exponent is refused. LOCK_INSTALL burns the lock once. REVOKE_KEY of a slot revokes it while another usable operator slot is left, and is refused else. Once the lock is burned, PROVISION_KEY and REVOKE_KEY without a signature are BAD_SIGNATURE; signed by another usable operator slot, for this device and with a higher counter, they store the counter and act. SANITIZE signed so stages the erasure for the next boot; with a counter that is not higher it is BAD_SIGNATURE and stages nothing. -/
def Obligations.OperatorKeysAreKept : Prop :=
  ∀ s : State, mctpUp s = true → s.keeper.busy = false → let f := s.nv.fuses
    let said := fun (t : State) (code result : Nat) => t.out = s.out ++ [.keeper code result []]
    let empty := fun (n : Nat) => nth 0 f.opKeys n = 0 ∧ nth false f.opRevoke n = false
    let good := fun (a : Signed) (code : Nat) (named : Option Nat) => signedFault s code named a = none
    (∀ (n : Fin 4) (k : KeyPair) (ok : Bool) (a : Option Signed),
      (f.installLock = false → ok = true → k.exponent = 65537 → k.digest ≠ 0 → empty n → Completes (.provisionKey n k ok a) s (fun t => said t 0x40 0
        ∧ t.nv.fuses = { f with opKeys := setNth f.opKeys n k.digest } ∧ t.keeper.nonce = Config.freeNat s.freeCtr))
      ∧ (f.installLock = false → ok = false → Completes (.provisionKey n k ok a) s (fun t => said t 0x40 3 ∧ t.nv = s.nv))
      ∧ (f.installLock = false → ok = true → k.exponent ≠ 65537 ∨ nth 0 f.opKeys n ≠ 0 ∨ nth false f.opRevoke n = true → Completes (.provisionKey n k ok a) s (fun t => Answers s t 0x40 2 [] ∧ t.nv = s.nv))
      ∧ (f.installLock = true → Completes (.provisionKey n k ok none) s (fun t => said t 0x40 3 ∧ t.nv = s.nv) ∧ Completes (.revokeKey n none) s (fun t => said t 0x42 3 ∧ t.nv = s.nv))
      ∧ (f.installLock = true → ok = true → k.exponent = 65537 → k.digest ≠ 0 → empty n → ∀ x, good x 0x40 (some n.val) → Completes (.provisionKey n k ok (some x)) s (fun t => said t 0x40 0
        ∧ t.nv.fuses = { f with opKeys := setNth f.opKeys n k.digest } ∧ t.nv.signedCounter = x.counter))
      ∧ ((∃ i < 4, i ≠ n.val ∧ opUsable s i = true) → let gone := { f with opRevoke := setNth f.opRevoke n true }
        (f.installLock = false → Completes (.revokeKey n a) s (fun t => said t 0x42 0 ∧ t.nv.fuses = gone))
        ∧ (∀ x, f.installLock = true → good x 0x42 (some n.val) → Completes (.revokeKey n (some x)) s (fun t => said t 0x42 0 ∧ t.nv.fuses = gone ∧ t.nv.signedCounter = x.counter)))
      ∧ ((∀ i < 4, i ≠ n.val → opUsable s i = false) → f.installLock = false → Completes (.revokeKey n a) s (fun t => Answers s t 0x42 2 [] ∧ t.nv = s.nv)))
    ∧ (f.installLock = false → Completes .lockInstall s (fun t => said t 0x41 0 ∧ t.nv.fuses = { f with installLock := true }))
    ∧ (f.installLock = true → Completes .lockInstall s (fun t => Answers s t 0x41 2 [] ∧ t.nv = s.nv))
    ∧ ∀ x : Signed, (good x 0x43 none → Completes (.sanitize x) s (fun t => said t 0x43 0 ∧ t.nv.sanitize = true ∧ t.nv.signedCounter = x.counter ∧ t.nv.fuses = f))
        ∧ (x.counter ≤ s.nv.signedCounter → Completes (.sanitize x) s (fun t => said t 0x43 3 ∧ t.nv = s.nv))

/-- Where PLDM is served. REQUEST_UPDATE of a component that is not on trial, with no power flush and no transfer open: one is open, and the slot not booted is EMPTY without an image; while one is open it is to be retried, and another component is invalid. VERIFY_COMPLETE of the open transfer: an image that passes every check stands in that slot, STAGED; any other leaves it EMPTY with UPDATE_FAIL, and the transfer is closed either way. ACTIVATE_FIRMWARE with no reset waiting: NEXT names the STAGED firmware slot; a STAGED headwater slot is NEXT too and on a READY node a warm reset waits; while an early flush runs it is deferred. KEY_SWEEP_COMPLETE on a READY node of a serial being swept: no flash unit carries the serial, its bytes read as unwritten, and the serial is no longer swept; of any other it does nothing. -/
def Obligations.UpdatesAreStagedAndSwept : Prop :=
  (∀ s : State, pldmUp s = true → let image := fun (t : State) (c n : Nat) => if c = compFirmware then (fwImage t n).isSome else (hwImage t n).isSome
    (∀ c, (c = compFirmware ∨ c = compHeadwater) → let n := updateSlot s c
      (isTrial s c = false → powerFlush s = false → s.keeper.transfer = none → Completes (.requestUpdate c) s (fun t => t.keeper.transfer = some c ∧ image t c n = false
        ∧ slotState (slotRec t c) n = .empty ∧ t.out = s.out ++ [.pldm .accepted]))
      ∧ (isTrial s c = true ∨ powerFlush s = true ∨ s.keeper.transfer ≠ none → Completes (.requestUpdate c) s (fun t => t = { s with out := s.out ++ [.pldm .retryRequestUpdate] }))
      ∧ (∀ x : Image, s.keeper.transfer = some c →
        (imageGood s c x = true → Completes (.verifyComplete x) s (fun t => t.keeper.transfer = none ∧ slotState (slotRec t c) n = .staged ∧ t.out = s.out ++ [.pldm .verifySuccess]
          ∧ (∀ f, x = .firmware f → fwImage t n = some f) ∧ (∀ h, x = .headwater h → hwImage t n = some h)))
        ∧ (imageGood s c x = false → Completes (.verifyComplete x) s (fun t => t.keeper.transfer = none ∧ slotState (slotRec t c) n = .empty ∧ image t c n = false
          ∧ alertUpdateFail ∈ t.keeper.alert ∧ t.out = s.out ++ [.pldm .verifyFailed]))))
    ∧ (∀ c, c ≠ compFirmware → c ≠ compHeadwater → Completes (.requestUpdate c) s (fun t => t = { s with out := s.out ++ [.pldm .invalidComponent] }))
    ∧ (s.keeper.reboot = 0 → s.flush.kind ≠ .early → s.flush.pending = false → let said := fun (t : State) => t.out = s.out ++ [.pldm .activated]
      (∀ n, stagedSlot s compFirmware = some n → stagedSlot s compHeadwater = none → Completes .activateFirmware s (fun t => said t ∧ t.nv.fwRec = { s.nv.fwRec with next := n } ∧ t.nv.hwRec = s.nv.hwRec ∧ t.keeper = s.keeper))
      ∧ (∀ n, stagedSlot s compHeadwater = some n → canChange s = true → s.boot.phase ≠ .boardTest → s.pins.mainRails = true → s.boot.ready = true → Completes .activateFirmware s (fun t =>
          said t ∧ t.nv.hwRec = { s.nv.hwRec with next := n } ∧ t.keeper.reboot = rebootWarm ∧ t.keeper.busy = true)))
    ∧ (s.keeper.reboot = 0 → s.flush.kind = .early ∨ s.flush.pending = true → Completes .activateFirmware s (fun t => t.out = s.out ++ [.pldm .activationDeferred]
        ∧ t.keeper = { s.keeper with deferred := true } ∧ t.nv = s.nv)))
  ∧ ∀ (s : State) (n : BitVec 16),
      (s.boot.ready = true → n.toNat ∈ s.nv.sweeping → Completes (.keySweepComplete n) s (fun t => n.toNat ∉ t.nv.sweeping ∧ (∀ e ∈ t.nv.flashSerial, e.2 ≠ n.toNat)
        ∧ (∀ e ∈ s.nv.flashSerial, e.2 ≠ n.toNat → e ∈ t.nv.flashSerial) ∧ ∀ e ∈ s.nv.flashSerial, e.2 = n.toNat → ∀ c ∈ t.nv.flash, c.1 / 4096 ≠ e.1))
      ∧ (s.boot.ready = false ∨ n.toNat ∉ s.nv.sweeping → Completes (.keySweepComplete n) s (fun t => t = s))

/-- A transport on which SPDM requests arrive, and what is said on it. -/
def Says (s : State) (tr : Transport) (o : Output) (x : Spdm) (t : State) : Prop :=
  t.out = s.out ++ [o] ∧ spdmOf t tr = x ∧ ∀ u, u ≠ tr → spdmOf t u = spdmOf s u

/-- SPDM on a transport on which requests arrive. GET_VERSION answers 1.3 at any time and starts afresh; GET_CAPABILITIES follows it, NEGOTIATE_ALGORITHMS that, with RSA-3072 and SHA-384 offered, else it is an invalid request; a request before its turn is an unexpected request. With algorithms negotiated: GET_DIGESTS and GET_CERTIFICATE answer slot 0's chain; CHALLENGE and signed GET_MEASUREMENTS sign an input that is kept with the last three others; unsigned GET_MEASUREMENTS answers the number of blocks, one block or all seven, and another index is invalid; GET_SLH_CHAIN answers up to 4,096 bytes, or BAD_OFFSET from the chain's end on; GET_SLH_SIG of a kept input is not ready until SLH_SIGN_COMPLETE, and RESPOND_IF_READY then answers it; of another input it is invalid. SPDM_CHUNK takes the next chunk, and another number is invalid and starts again. Any other request is unsupported. -/
def Obligations.SpdmAnswersInOrder : Prop :=
  (∀ (s : State) (tr : Transport), spdmUp s tr = true → let x := spdmOf s tr; let bad := fun (e : SpdmErr) => Says s tr (.spdmError tr e) x
    let say := fun (r : SpdmRsp) (ws : List Nat) => Output.spdm tr r ws none
    Completes (.getVersion tr) s (Says s tr (say .version [0x13]) { x with versioned := true, capable := false, algorithms := false, chunk := 0 })
    ∧ (x.versioned = true → Completes (.getCapabilities tr) s (Says s tr (say .capabilities []) { x with capable := true }))
    ∧ (x.versioned = false → Completes (.getCapabilities tr) s (bad .unexpectedRequest))
    ∧ (x.capable = true → Completes (.negotiateAlgorithms tr true true) s (Says s tr (say .algorithms []) { x with algorithms := true })
      ∧ Completes (.negotiateAlgorithms tr true false) s (bad .invalidRequest) ∧ Completes (.negotiateAlgorithms tr false true) s (bad .invalidRequest)
      ∧ (∀ (send last : Bool) (n : BitVec 16), (n.toNat = x.chunk → Completes (.spdmChunk tr send n last) s
            (Says s tr (say (if send then .chunkSendAck else .chunkResponse) [n.toNat]) { x with chunk := if last then 0 else x.chunk + 1 }))
        ∧ (n.toNat ≠ x.chunk → Completes (.spdmChunk tr send n last) s (Says s tr (.spdmError tr .invalidRequest) { x with chunk := 0 }))))
    ∧ (x.algorithms = false → ∀ c ∈ [Instr.getDigests tr, .getCertificate tr 0 0 0, .challenge tr 0, .getMeasurements tr 0 false 0, .getSlhChain tr 0, .getSlhSig tr 0], Completes c s (bad .unexpectedRequest))
    ∧ (x.algorithms = true →
      Completes (.getDigests tr) s (Says s tr (say .digests [chainDigest s]) x)
      ∧ (∀ (k : Nat) (off n : BitVec 16), Completes (.getCertificate tr k off n) s (if k = 0 then Says s tr (say .certificate [chainDigest s, off.toNat, n.toNat]) x else bad .invalidRequest))
      ∧ (∀ nonce : Nat, Completes (.challenge tr nonce) s (fun t => ∃ m, Says s tr (.spdm tr .challengeAuth [chainDigest s] (some m)) { x with inputs := ((m, false) :: x.inputs).take 4 } t))
      ∧ (∀ (i : BitVec 8) (nonce : Nat), let k := i.toNat; let ws := if k = 0 then [7] else if k = 0xFF then [1, 2, 3, 4, 5, 6, 7].map (measurement s) else [measurement s k]
          (7 < k ∧ k ≠ 0xFF → ∀ b, Completes (.getMeasurements tr i b nonce) s (bad .invalidRequest))
          ∧ (k ≤ 7 ∨ k = 0xFF → Completes (.getMeasurements tr i false nonce) s (Says s tr (say .measurements ws) x)
            ∧ Completes (.getMeasurements tr i true nonce) s (fun t => ∃ m, Says s tr (.spdm tr .measurements ws (some m)) { x with inputs := ((m, false) :: x.inputs).take 4 } t)))
      ∧ (∀ off : BitVec 32, let n := Config.slhChainLength s.nv.deviceDigest s.boot.firmware.digest
          Completes (.getSlhChain tr off) s (Says s tr (say .vendorDefined (if off.toNat < n then [1, 0, min 4096 (n - off.toNat)] else [1, 2, 0])) x))
      ∧ (∀ h : Nat, (x.inputs.find? (fun y => y.1 == h) = none → Completes (.getSlhSig tr h) s (bad .invalidRequest))
        ∧ (x.inputs.find? (fun y => y.1 == h) = some (h, false) → Completes (.getSlhSig tr h) s (Says s tr (.spdmError tr .responseNotReady) { x with asked := some h }))
        ∧ (x.inputs.find? (fun y => y.1 == h) = some (h, true) → let made := Says s tr (.spdm tr .vendorDefined [2, 0, 7856] (some h)) { x with asked := none }
            Completes (.getSlhSig tr h) s made ∧ (x.asked = some h → Completes (.respondIfReady tr) s made))))
    ∧ ∀ code : BitVec 8, Completes (.spdmUnsupportedRequest tr code) s (bad .unsupportedRequest))
  ∧ ∀ (s : State) (tr : Transport) (h : Nat), s.keeper.up = true → Completes (.slhSignComplete tr h) s (fun t => t.out = s.out
      ∧ spdmOf t tr = { spdmOf s tr with inputs := (spdmOf s tr).inputs.map (fun y => if y.1 = h then (y.1, true) else y) })

/-- KEEPER_WATCHDOG takes the keeper down with its run of shock samples and nothing else (that its records stay is the model's choice, log entry 71). KEEPER_RESTART with the standby rail up brings it back: the restart is logged with the number of events lost, then each event that the FIFO held, in order. SENSOR_SAMPLE, with the keeper up, gives the sensor the highest level that its row has up to the one reached, and no other sensor another; a rise from normal to warning is logged; a stack's refresh rate is doubled above normal; a die or stack that comes to its alarm level on a READY node without a flush makes an early one pending and the node goes off after it. CONDENSATION_ALARM notes the wet film, at alarm; on a READY node without a flush it makes an early one pending that will brace the node. CAP_WINDOW while windows run outside a flush: above the limit the next lower table present is selected, logged with the power; with none, CAP_UNMET is raised once; at or below the limit, cool, and predicted to fit for RELEASE_MS, the next higher one is selected. LOG_SEAL signed closes the open batch under a seal of its first and last SEQ and chain values; unsigned it sets LOG and the batch stays open. -/
def Obligations.KeeperWatchesAndSeals : Prop :=
  (∀ s : State, s.keeper.up = true → Completes .keeperWatchdog s (fun t => t = { s with keeper := { s.keeper with up := false, shockRun := 0, shockPeak := 0, shockAxes := 0 } }))
  ∧ (∀ s : State, s.keeper.up = false → s.pins.standby = true → Completes .keeperRestart s (fun t => t.keeper.up = true ∧ t.keeper.fifo = [] ∧ t.keeper.lost = 0
      ∧ ∃ e es, t.keeper.buf = s.keeper.buf ++ e :: es ∧ e.code = 0x0103 ∧ e.arg0 = s.keeper.lost
        ∧ es.map (fun e => (e.code, e.severity, e.party, e.status, e.arg0, e.arg1)) = s.keeper.fifo))
  ∧ (∀ (s : State) (x : Sensor) (v : Int) (l : Level), s.keeper.up = true → let m := clipLevel x l
      Completes (.sensorSample x v l) s (fun t => levelOf t x = m ∧ (∀ y, y ≠ x → levelOf t y = levelOf s y) ∧ (x = .film → t.keeper.filmWet = decide (l ≠ .normal))
        ∧ (m = .warning → levelOf s x = .normal → Logged s t 0x0401 (Config.pdrId (sensorRow x).1 (sensorRow x).2) (unsigned 64 v))
        ∧ (m = .alarm → x ≠ .standby → alertSensor ∈ t.keeper.alert) ∧ (∀ i, x = .stack i → (i.val ∈ t.keeper.doubleRefresh ↔ m ≠ .normal))
        ∧ (entersAlarm s x l = true → ((∃ i, x = .die i) ∨ ∃ i, x = .stack i) → s.boot.ready = true → s.pins.dieReset = false → s.flush.alarmOff = false → flushActive s = false →
            t.flush = { s.flush with pending := true, toPower := false, trigger := trigAlarm, startMono := s.keeper.mono, alarmOff := true, alarmCause := 4 })))
  ∧ (∀ s : State, s.keeper.up = true → Completes .condensationAlarm s (fun t => t.keeper.filmWet = true ∧ levelOf t .film = .alarm
      ∧ (s.boot.ready = true → s.boot.phase ≠ .flushed → flushActive s = false → t.flush = { s.flush with
          pending := true, toPower := false, trigger := trigFilm, startMono := s.keeper.mono, braceNext := insertNat trigFilm s.flush.braceNext })))
  ∧ (∀ (s : State) (p : Nat) (dies piles : List Int),
      (s.keeper.up = false ∨ s.keeper.windows = false → Completes (.capWindow p dies piles) s (fun t => t = s))
      ∧ (s.keeper.up = true → s.keeper.windows = true → s.weir.kind ≠ .spate → let n := s.hw.settings
        (levelLimit s s.weir.kind < p →
          (∀ k, lowerTable s s.weir.kind = some k → Completes (.capWindow p dies piles) s (fun t => t.weir.selected = some k ∧ t.keeper.powerW = p ∧ t.keeper.calm = 0 ∧ Logged s t 0x0301 (weirKindCode k) p))
          ∧ (lowerTable s s.weir.kind = none → s.keeper.capMet = true → Completes (.capWindow p dies piles) s (fun t => t.weir = s.weir ∧ t.keeper.capMet = false
              ∧ alertCapUnmet ∈ t.keeper.alert ∧ Logged s t 0x0302 p s.keeper.limitW)))
        ∧ (∀ k, p ≤ levelLimit s s.weir.kind → higherTable s.weir.kind = some k → (∀ d ∈ dies, d ≤ 4 * ((n.dieThrottleC : Int) - n.hystC)) → (∀ d ∈ piles, d ≤ 4 * ((n.stackThrottleC : Int) - n.hystC)) →
            0 < n.hystC → p * modelOf s k + n.hystW * modelOf s s.weir.kind ≤ levelLimit s k * modelOf s s.weir.kind → n.releaseMs ≤ s.keeper.calm + n.windowMs →
          Completes (.capWindow p dies piles) s (fun t => t.weir.selected = some k ∧ t.keeper.calm = 0 ∧ t.keeper.capMet = true ∧ alertCapUnmet ∉ t.keeper.alert))))
  ∧ ∀ (s : State), s.keeper.up = true →
      (∀ a b, s.nv.batch.head? = some a → s.nv.batch.getLast? = some b →
        Completes (.logSeal true) s (fun t => t.nv.batch = [] ∧ t.nv.log = s.nv.log ∧ ∃ r, t.nv.seals = ringSeal s.nv.seals r ∧ r.firstSeq = a.seq ∧ r.lastSeq = b.seq ∧ r.hPrev = s.nv.batchPrev
          ∧ r.hLast = s.nv.chain ∧ r.afterPowerLoss = s.nv.lossOpen ∧ (r.beforeReset = true ↔ s.keeper.reboot ≠ 0))
        ∧ Completes (.logSeal false) s (fun t => t.nv = s.nv ∧ alertLog ∈ t.keeper.alert))
      ∧ (s.nv.batch = [] → ∀ b, Completes (.logSeal b) s (fun t => t = s))

/-- The TAP with an instruction in force: the boundary register's contents, and what the pins are driven by. -/
def tap (x : TestSt) (ir : Nat) (cells : List Bool) (driven floated : Bool) (ac : Nat) : TestSt := { x with ir, cells, driven, floated, acTest := ac }

/-- With the standby rail up: IDCODE answers 0x15F10D75; SAMPLE_PRELOAD answers the pins and takes the boundary register; BYPASS is in force for its code and every other one. In board test mode EXTEST, CLAMP, EXTEST_PULSE and EXTEST_TRAIN drive the pins from the boundary register, HIGHZ floats them, and LINK_TEST writes a lane's or a link's test register; outside it each acts as BYPASS. With LINK_TEST in force there, INJECT on a testing lane inverts one bit, which a locked lane in near-end loopback counts as an error, and CLEAR zeroes a link's counters and its four lanes' status; else they do nothing. CHECKER_LOCK of a testing lane locks it with no errors. MAILBOX_COMMAND on a trained port answers the DPA size, the health words, the poisoned lines of the host's ranges or its event records, which CLEAR_EVENTS empties. -/
def Obligations.TestAccessAndMailboxAnswer : Prop :=
  (∀ s : State, s.pins.standby = true → let x := s.test; let tests := fun (y : TestSt) (t : State) => t = { s with test := y }
    Completes .idcode s (fun t => t = { s with test := tap x 0x01 x.cells false false 0, out := s.out ++ [.tap 0x15F10D75] })
    ∧ (∀ pins cells : List Bool, Completes (.samplePreload pins cells) s (fun t => t = { s with test := tap x 0x02 cells false false 0, out := s.out ++ [.tapPins pins] }))
    ∧ (∀ code : BitVec 8, Completes (.bypass code) s (tests (tap x 0xFF x.cells false false 0)))
    ∧ (s.boot.phase ≠ .boardTest → ∀ (drive : List Bool) (w : TestWrite), ∀ c ∈ [Instr.extest drive, .clamp, .highz, .extestPulse, .extestTrain, .linkTest w],
        Completes c s (tests (tap x 0xFF x.cells false false 0)))
    ∧ (s.boot.phase = .boardTest →
      (∀ drive : List Bool, Completes (.extest drive) s (tests (tap x 0x00 drive true false 0)))
      ∧ Completes .clamp s (tests (tap x 0x04 x.cells true false 0)) ∧ Completes .highz s (tests (tap x 0x05 x.cells false true 0))
      ∧ Completes .extestPulse s (tests (tap x 0x06 x.cells true false 1)) ∧ Completes .extestTrain s (tests (tap x 0x07 x.cells true false 2))
      ∧ Completes (.linkTest .none) s (tests (tap x 0x10 x.cells false false 0))
      ∧ (∀ (n : Fin 160) (v : W64), field v 62 2 ≠ 3 → field v 60 2 ≠ 3 → flag v 59 = false → Completes (.linkTest (.lane n v)) s (fun t => t.test.ir = 0x10
          ∧ Tbl.get 0 t.test.laneMode n = field v 62 2 ∧ Tbl.get 2 t.test.lanePattern n = field v 60 2 ∧ Tbl.get 1 t.test.laneEye n = field v 57 2
          ∧ Tbl.get 0 t.test.lanePhase n = field v 50 7 ∧ Tbl.get 0 t.test.laneLevel n = field v 43 7 ∧ t.test.injected = x.injected))
      ∧ (∀ (l : Fin 32) (v : W64), flag v 61 = false → Completes (.linkTest (.link l v)) s (fun t => t.link l = { s.link l with ltMode := field v 62 2 } ∧ ∀ k, k ≠ l.val → t.link k = s.link k))))
  ∧ (∀ (s : State) (n : Fin 160), let x := s.test; let one := { x with injected := Tbl.put x.injected n (Tbl.get 0 x.injected n + 1) }
    let sees : Prop := n.val < 128 ∧ (s.link (n.val / 4)).ltMode = 2 ∧ n.val ∈ x.lock
    (linkTestOpen s = true → laneTesting s n = true →
      (¬ sees → Completes (.inject n) s (fun t => t = { s with test := one }))
      ∧ (sees → Completes (.inject n) s (fun t => t = { s with test := { one with errors := Tbl.put x.errors n (min (2 ^ 48 - 1) (Tbl.get 0 x.errors n + 1)) } })))
    ∧ (linkTestOpen s = false ∨ laneTesting s n = false → Completes (.inject n) s (fun t => t = s))
    ∧ (laneTesting s n = true → Completes (.checkerLock n) s (fun t => n.val ∈ t.test.lock ∧ Tbl.get 0 t.test.errors n = 0 ∧ ∀ m, m ≠ n.val → Tbl.get 0 t.test.errors m = Tbl.get 0 x.errors m))
    ∧ (laneTesting s n = false → Completes (.checkerLock n) s (fun t => t = s)))
  ∧ (∀ (s : State) (l : Fin 32),
      (linkTestOpen s = true → Completes (.linkClear l) s (fun t => t.link l = { s.link l with counters := {} } ∧ (∀ k, k ≠ l.val → t.link k = s.link k)
        ∧ ∀ n, (n / 4 = l.val → Tbl.get 0 t.test.errors n = 0 ∧ n ∉ t.test.lock) ∧ (n / 4 ≠ l.val → Tbl.get 0 t.test.errors n = Tbl.get 0 s.test.errors n ∧ (n ∈ t.test.lock ↔ n ∈ s.test.lock))))
      ∧ (linkTestOpen s = false → Completes (.linkClear l) s (fun t => t = s)))
  ∧ ∀ (s : State) (p : Fin 2), let h := s.hostSt p; let replies := fun (c : MailboxCmd) (ws : List Nat) => Completes (.mailboxCommand p c) s (fun t => t = { s with out := s.out ++ [.mailbox p c ws] })
      (h.trained = true → replies .identify [(partyRec s p).hostDpaGib] ∧ replies .health (healthWords s p) ∧ replies .poisonList (hostPoison s p) ∧ replies .events h.events
        ∧ Completes (.mailboxCommand p .clearEvents) s (fun t => t.hostSt p = { h with events := [] } ∧ t.out = s.out ++ [.mailbox p .clearEvents []]))
      ∧ (h.trained = false → ∀ c, Completes (.mailboxCommand p c) s (fun t => t = s))
end

