-- ==== Sys2Proof/Laws/Flits.lean ====
section
/-!
SUPPORT. The CRC of a flit (R99): what its value depends on, and that a flit sealed with it is good.
-/
namespace Sys2Proof.Machine

open Sys2Proof

theorem crcBit_lt {c : Nat} (h : c < 2 ^ 32) : crcBit c < 2 ^ 32 := by
  have : c / 2 < 2 ^ 32 := by omega
  unfold crcBit
  split
  · exact Nat.xor_lt_two_pow this (by decide)
  · exact this

theorem crcByte_lt {c : Nat} (h : c < 2 ^ 32) (b : Byte) : crcByte c b < 2 ^ 32 := by
  have hb : c ^^^ b.toNat < 2 ^ 32 := Nat.xor_lt_two_pow h (Nat.lt_of_lt_of_le b.isLt (by decide))
  unfold crcByte
  repeat' apply crcBit_lt
  exact hb

theorem crc32_lt (bs : Bytes) : crc32 bs < 2 ^ 32 := by
  have : ∀ (bs : Bytes) c, c < 2 ^ 32 → bs.foldl crcByte c < 2 ^ 32 := by
    intro bs
    induction bs with
    | nil => intro c h; exact h
    | cons b bs ih => intro c h; exact ih _ (crcByte_lt h b)
  exact Nat.xor_lt_two_pow (this bs _ (by decide)) (by decide)

theorem flatMap_cellBytes_length (cells : List Cell) : (cells.flatMap cellBytes).length = 32 * cells.length := by
  induction cells with
  | nil => rfl
  | cons c cs ih => simp [ih, cellBytes, toBytes]; omega

/-- The CRC is over the first 508 bytes alone: the upper half of the last cell's last word is not in it. -/
theorem flitCrc_upper {front : List Cell} (h : front.length = 15) (c : Cell) (v : W64) (hv : v.toNat % 2 ^ 32 = c.w3.toNat % 2 ^ 32) :
    flitCrc (front ++ [{ c with w3 := v }]) = flitCrc (front ++ [c]) := by
  have key : ∀ i < 4, BitVec.ofNat 8 (v.toNat / 256 ^ i) = BitVec.ofNat 8 (c.w3.toNat / 256 ^ i) := by
    intro i hi
    apply BitVec.eq_of_toNat_eq
    simp only [BitVec.toNat_ofNat]
    interval_cases i <;> omega
  have k0 := key 0 (by decide)
  have k1 := key 1 (by decide)
  have k2 := key 2 (by decide)
  have k3 := key 3 (by decide)
  simp only [flitCrc, List.flatMap_append, List.take_append, flatMap_cellBytes_length, h, List.flatMap_cons, List.flatMap_nil, List.append_nil]
  congr 2
  simp only [cellBytes, toBytes, Nat.div_div_eq_div_mul]
  simp_all
/-- A flit of sixteen cells is good as soon as it is sealed. -/
theorem sealFlit_good {cells : List Cell} (h : cells.length = 16) : flitGood { cells := sealFlit cells } = true := by
  obtain ⟨front, c, rfl⟩ : ∃ front c, cells = front ++ [c] := ⟨_, _, (List.dropLast_append_getLast (List.ne_nil_of_length_pos (by omega))).symm⟩
  have h15 : front.length = 15 := by simpa using h
  have hc := crc32_lt (((front ++ [c]).flatMap cellBytes).take 508)
  have hn : nth {} (front ++ [c]) 15 = c := by simp [nth, h15]
  have hs : sealFlit (front ++ [c]) = front ++ [{ c with w3 := BitVec.ofNat 64 (c.w3.toNat % 2 ^ 32 + at' (flitCrc (front ++ [c])) 32) }] := by
    simp [sealFlit, hn, h15]
  have hl : ∀ x : Cell, nth {} (front ++ [x]) 15 = x := by intro x; simp [nth, h15]
  have hu := flitCrc_upper h15 c (BitVec.ofNat 64 (c.w3.toNat % 2 ^ 32 + at' (flitCrc (front ++ [c])) 32)) (by simp only [at', BitVec.toNat_ofNat]; omega)
  change flitCrc (front ++ [c]) < 2 ^ 32 at hc
  simp only [flitGood, hs, hl, hu]
  simp only [field, bits, at', BitVec.toNat_ofNat, beq_iff_eq]
  omega

end Sys2Proof.Machine
end

