-- ==== Sys2Proof/Laws/Memory.lean ====
section
/-!
SUPPORT. Byte memory: every operation keeps the canonical form, a write is read back, and nothing else changes.
-/
namespace Sys2Proof.Machine

open Sys2Proof

/-- The canonical form: addresses strictly rising, and no zero byte listed. -/
theorem Memory.wf_iff : ∀ m : Memory, m.wf = true ↔ m.Pairwise (fun a b => a.1 < b.1) ∧ ∀ c ∈ m, c.2 ≠ 0#8
  | [] => by simp [Memory.wf]
  | [(_, b)] => by simp [Memory.wf]
  | (a, b) :: (c, e) :: t => by
    have ih := Memory.wf_iff ((c, e) :: t)
    simp only [Memory.wf, Bool.and_eq_true, bne_iff_ne, ne_eq, decide_eq_true_eq]
    constructor
    · rintro ⟨⟨hb, hac⟩, ht⟩
      obtain ⟨hp, hz⟩ := ih.1 ht
      refine ⟨List.pairwise_cons.2 ⟨fun x hx => ?_, hp⟩, fun x hx => ?_⟩
      · rcases List.mem_cons.1 hx with rfl | hx
        · exact hac
        · exact Nat.lt_trans hac ((List.pairwise_cons.1 hp).1 x hx)
      · rcases List.mem_cons.1 hx with rfl | hx
        · exact hb
        · exact hz x hx
    · rintro ⟨hp, hz⟩
      obtain ⟨h1, h2⟩ := List.pairwise_cons.1 hp
      exact ⟨⟨hz (a, b) (by simp), h1 (c, e) (by simp)⟩, ih.2 ⟨h2, fun x hx => hz x (List.mem_cons_of_mem _ hx)⟩⟩

@[simp] theorem Memory.wf_nil : Memory.wf [] = true := rfl

theorem Memory.wf_tail {c : Host.Cell} {t : Memory} (h : Memory.wf (c :: t) = true) : Memory.wf t = true := by
  rw [Memory.wf_iff] at *
  exact ⟨(List.pairwise_cons.1 h.1).2, fun x hx => h.2 x (List.mem_cons_of_mem _ hx)⟩

theorem Memory.filter_wf {m : Memory} (h : m.wf = true) (p : Host.Cell → Bool) : Memory.wf (m.filter p) = true := by
  rw [Memory.wf_iff] at *
  exact ⟨h.1.filter _, fun c hc => h.2 c (List.mem_filter.1 hc).1⟩

/-- What a write lists: what was listed elsewhere, and the byte written unless it is zero. -/
theorem Memory.mem_write {m : Memory} {a : Nat} {b : Byte} {c : Host.Cell} (h : c ∈ m.write a b) :
    c ∈ m ∨ (c = (a, b) ∧ b ≠ 0#8) := by
  induction m with
  | nil => unfold Memory.write at h; split at h <;> simp_all
  | cons x t ih =>
    obtain ⟨j, d⟩ := x
    unfold Memory.write at h
    split at h
    · split at h
      · exact .inl h
      · rcases List.mem_cons.1 h with rfl | h
        · exact .inr ⟨rfl, ‹_›⟩
        · exact .inl h
    · split at h
      · split at h
        · exact .inl (List.mem_cons_of_mem _ h)
        · rcases List.mem_cons.1 h with rfl | h
          · exact .inr ⟨rfl, ‹_›⟩
          · exact .inl (List.mem_cons_of_mem _ h)
      · rcases List.mem_cons.1 h with rfl | h
        · exact .inl (by simp)
        · exact (ih h).imp (List.mem_cons_of_mem _) id

theorem Memory.write_wf {m : Memory} (h : m.wf = true) (a : Nat) (b : Byte) : (m.write a b).wf = true := by
  induction m with
  | nil => unfold Memory.write; split <;> simp_all [Memory.wf]
  | cons x t ih =>
    obtain ⟨j, d⟩ := x
    have ht := ih (Memory.wf_tail h)
    have h' := (Memory.wf_iff _).1 h
    obtain ⟨h1, h2⟩ := List.pairwise_cons.1 h'.1
    unfold Memory.write
    split
    · split
      · exact h
      · rename_i hlt hb
        rw [Memory.wf_iff]
        refine ⟨List.pairwise_cons.2 ⟨fun c hc => ?_, h'.1⟩, fun c hc => ?_⟩
        · rcases List.mem_cons.1 hc with rfl | hc
          · exact hlt
          · exact Nat.lt_trans hlt (h1 c hc)
        · rcases List.mem_cons.1 hc with rfl | hc
          · exact hb
          · exact h'.2 c hc
    · split
      · split
        · exact Memory.wf_tail h
        · rename_i heq hb
          subst heq
          rw [Memory.wf_iff]
          refine ⟨List.pairwise_cons.2 ⟨h1, h2⟩, fun c hc => ?_⟩
          rcases List.mem_cons.1 hc with rfl | hc
          · exact hb
          · exact h'.2 c (List.mem_cons_of_mem _ hc)
      · rename_i hnlt hne
        have ht' := (Memory.wf_iff _).1 ht
        rw [Memory.wf_iff]
        refine ⟨List.pairwise_cons.2 ⟨fun c hc => ?_, ht'.1⟩, fun c hc => ?_⟩
        · rcases Memory.mem_write hc with hc | ⟨rfl, -⟩
          · exact h1 c hc
          · exact Nat.lt_of_le_of_ne (Nat.not_lt.1 hnlt) (fun e => hne e.symm)
        · rcases List.mem_cons.1 hc with rfl | hc
          · exact h'.2 _ (by simp)
          · exact ht'.2 c hc

theorem Memory.writeN_wf {m : Memory} (h : m.wf = true) (a : Nat) (bs : Bytes) : (m.writeN a bs).wf = true := by
  induction bs generalizing m a with
  | nil => exact h
  | cons b t ih => exact ih (Memory.write_wf h a b) (a + 1)

theorem Memory.append_wf {m n : Memory} (hm : m.wf = true) (hn : n.wf = true) (h : ∀ a ∈ m, ∀ b ∈ n, a.1 < b.1) :
    Memory.wf (m ++ n) = true := by
  rw [Memory.wf_iff] at *
  refine ⟨List.pairwise_append.2 ⟨hm.1, hn.1, h⟩, fun c hc => ?_⟩
  rcases List.mem_append.1 hc with hc | hc
  · exact hm.2 c hc
  · exact hn.2 c hc

theorem Memory.copySpan_wf {m src : Memory} (hm : m.wf = true) (hs : src.wf = true) (lo hi : Nat) :
    (m.copySpan src lo hi).wf = true := by
  unfold Memory.copySpan Memory.span
  refine Memory.append_wf (Memory.append_wf (Memory.filter_wf hm _) (Memory.filter_wf hs _) ?_) (Memory.filter_wf hm _) ?_
  · intro a ha b hb
    simp only [List.mem_filter, decide_eq_true_eq, Bool.and_eq_true] at ha hb
    omega
  · intro a ha b hb
    simp only [List.mem_append, List.mem_filter, decide_eq_true_eq, Bool.and_eq_true] at ha hb
    omega

theorem Memory.without_wf {m : Memory} (h : m.wf = true) (lo hi : Nat) : (m.without lo hi).wf = true := Memory.filter_wf h _

/-- A byte below every listed address reads zero. -/
theorem Memory.read_of_lt {m : Memory} {a : Nat} (h : ∀ c ∈ m, a < c.1) : m.read a = 0#8 := by
  induction m with
  | nil => rfl
  | cons x t ih =>
    obtain ⟨j, d⟩ := x
    have : a < j := h (j, d) (by simp)
    rw [Memory.read, if_neg (by omega)]
    exact ih (fun c hc => h c (List.mem_cons_of_mem _ hc))

/-- A write changes the byte at its address and no other. -/
theorem Memory.read_write {m : Memory} (h : m.wf = true) (a : Nat) (b : Byte) (x : Nat) :
    (m.write a b).read x = if x = a then b else m.read x := by
  induction m with
  | nil =>
    unfold Memory.write
    by_cases hb : b = 0#8
    · rw [if_pos hb]; subst hb; split <;> rfl
    · rw [if_neg hb]
      simp only [Memory.read]
      by_cases hx : x = a
      · simp [hx]
      · rw [if_neg (fun e => hx e.symm), if_neg hx]
  | cons y t ih =>
    obtain ⟨j, d⟩ := y
    have ht := Memory.wf_tail h
    have h1 := (List.pairwise_cons.1 ((Memory.wf_iff _).1 h).1).1
    unfold Memory.write
    split
    · rename_i hlt
      have hz : Memory.read ((j, d) :: t) a = 0#8 := Memory.read_of_lt (fun c hc => by
        rcases List.mem_cons.1 hc with rfl | hc
        · exact hlt
        · exact Nat.lt_trans hlt (h1 c hc))
      by_cases hb : b = 0#8
      · rw [if_pos hb]
        by_cases hx : x = a
        · rw [if_pos hx, hx, hz, hb]
        · rw [if_neg hx]
      · rw [if_neg hb]
        by_cases hx : x = a
        · subst hx; rw [if_pos rfl, Memory.read, if_pos rfl]
        · rw [if_neg hx, Memory.read, if_neg (fun e => hx e.symm)]
    · split
      · rename_i heq
        subst heq
        have hz : Memory.read t a = 0#8 := Memory.read_of_lt h1
        by_cases hb : b = 0#8
        · rw [if_pos hb]
          by_cases hx : x = a
          · rw [if_pos hx, hx, hz, hb]
          · rw [if_neg hx]
            conv_rhs => rw [Memory.read]
            rw [if_neg (fun e => hx e.symm)]
        · rw [if_neg hb]
          by_cases hx : x = a
          · subst hx; rw [if_pos rfl, Memory.read, if_pos rfl]
          · rw [if_neg hx, Memory.read, if_neg (fun e => hx e.symm)]
            conv_rhs => rw [Memory.read]
            rw [if_neg (fun e => hx e.symm)]
      · rename_i hnlt hne
        rw [Memory.read, ih ht]
        by_cases hx : x = a
        · rw [if_pos hx, if_neg (fun e => hne (hx.symm.trans e.symm)), if_pos hx]
        · rw [if_neg hx, if_neg hx, Memory.read]

/-- A byte string written is read back where it lies, and every byte outside it reads as before. -/
theorem Memory.read_writeN {m : Memory} (h : m.wf = true) (a : Nat) (bs : Bytes) (x : Nat) :
    (m.writeN a bs).read x = if a ≤ x ∧ x < a + bs.length then nth 0#8 bs (x - a) else m.read x := by
  induction bs generalizing m a with
  | nil => rw [Memory.writeN, if_neg (by simp)]
  | cons b t ih =>
    rw [Memory.writeN, ih (Memory.write_wf h a b) (a + 1), Memory.read_write h]
    simp only [List.length_cons]
    by_cases hx : x = a
    · subst hx
      rw [if_neg (by omega), if_pos rfl, if_pos (by omega), Nat.sub_self]
      rfl
    · by_cases hr : a + 1 ≤ x ∧ x < a + 1 + t.length
      · rw [if_pos hr, if_pos (by omega)]
        obtain ⟨k, rfl⟩ : ∃ k, x = a + 1 + k := ⟨x - (a + 1), by omega⟩
        have e1 : a + 1 + k - (a + 1) = k := by omega
        have e2 : a + 1 + k - a = k + 1 := by omega
        rw [e1, e2]
        rfl
      · rw [if_neg hr, if_neg hx, if_neg (by omega)]

/-- What is read back of a byte string just written is that byte string. -/
theorem Memory.readN_writeN {m : Memory} (h : m.wf = true) (a : Nat) (bs : Bytes) :
    (m.writeN a bs).readN a bs.length = bs := by
  suffices H : ∀ (k : Nat) (cs : Bytes), (∀ i, i < cs.length → (m.writeN a bs).read (a + k + i) = nth 0#8 cs i) →
      (m.writeN a bs).readN (a + k) cs.length = cs by
    have := H 0 bs (fun i hi => by
      rw [Memory.read_writeN h, if_pos (by omega)]
      congr 1
      omega)
    simpa using this
  intro k cs
  induction cs generalizing k with
  | nil => intro _; rfl
  | cons c t ih =>
    intro hc
    have h0 := hc 0 (by simp)
    simp only [List.length_cons, Memory.readN]
    rw [show (m.writeN a bs).read (a + k) = c from by simpa [nth] using h0]
    rw [show a + k + 1 = a + (k + 1) by omega]
    rw [ih (k + 1) (fun i hi => by
      have := hc (i + 1) (by simpa using hi)
      rw [show a + (k + 1) + i = a + k + (i + 1) by omega, this]
      rfl)]

end Sys2Proof.Machine
end

