-- ==== Sys2Proof/Laws/Frame.lean ====
section
/-!
SUPPORT. How the frames are proved: `Keeps g s t` says that t has part g as s has it, and the lemma `<f>_keeps` of each operation says
which parts it keeps: those whose bit is 0 in its mask of written parts (`Part.ix`).
-/
namespace Sys2Proof.Safety

open Sys2Proof Sys2Proof.Machine

/-- The bit of a part in a mask of written parts. -/
def Part.ix : Part → Nat
  | .boot => 0 | .pins => 1 | .fuses => 2 | .ident => 3 | .nvLog => 4 | .nvStore => 5 | .hw => 6 | .map => 7 | .party => 8
  | .net => 9 | .weirCtl => 10 | .weirQ => 11 | .store => 12 | .flush => 13 | .coh => 14 | .sluice => 15 | .keepLog => 16
  | .keeper => 17 | .spdm => 18 | .test => 19 | .hosts => 20 | .tide => 21 | .rill => 22 | .mills => 23 | .shoal => 24
  | .attn => 25 | .exch => 26 | .out => 27 | .freeCtr => 28 | .pending => 29 | .bytes => 30
  | .links => 31 | .rillTable => 32 | .slots => 33 | .memories => 34

/-- Part g is not among the parts a mask names. -/
def Free (w : Nat) (g : Part) : Prop := w.testBit g.ix = false

theorem Free.sub {w v : Nat} {g : Part} (hw : Free w g) (h : w ||| v = w) : Free v g := by
  unfold Free at *
  have h := congrArg (fun n => n.testBit g.ix) h
  simp only [Nat.testBit_or, hw, Bool.false_or] at h
  exact h

/-- The mask of a list of parts. -/
def maskOf : List Part → Nat
  | [] => 0
  | g :: l => 2 ^ g.ix ||| maskOf l

theorem Part.ix_inj {g h : Part} (e : g.ix = h.ix) : g = h := by cases g <;> cases h <;> first | rfl | exact absurd e (by decide)

/-- A part that a list does not name is free of the list's mask. -/
theorem Free.of_not_mem {l : List Part} {g : Part} (h : g ∉ l) : Free (maskOf l) g := by
  induction l with
  | nil => exact Nat.zero_testBit _
  | cons x t ih =>
    simp only [List.mem_cons, not_or] at h
    unfold Free maskOf
    rw [Nat.testBit_or, Nat.testBit_two_pow, ih h.2, Bool.or_false, decide_eq_false_iff_not]
    exact fun e => h.1 (Part.ix_inj e.symm)

theorem Keeps.refl (g : Part) (s : State) : Keeps g s s := by cases g <;> first | exact rfl | exact id

theorem Keeps.trans {g : Part} {s t u : State} (h : Keeps g s t) (k : Keeps g t u) : Keeps g s u := by
  cases g <;> first | exact Eq.trans k h | exact fun x => k (h x)

/-- The same of the state in an answer: a pair's, a triple's, an optional one, an outcome's. -/
def Keeps2 {α : Type} (g : Part) (s : State) (p : α × State) : Prop := Keeps g s p.2

def Keeps3 {α β : Type} (g : Part) (s : State) (p : α × β × State) : Prop := Keeps g s p.2.2

def KeepsO (g : Part) (s : State) (o : Option State) : Prop := ∀ t, o = some t → Keeps g s t

def KeepsE {ε : Type} (g : Part) (s : State) (o : Except ε State) : Prop := ∀ t, o = .ok t → Keeps g s t

def KeepsN (g : Part) (s : State) (o : Host.Outcome State Fault Refusal) : Prop := ∀ t, o = .next t → Keeps g s t

def KeepsR (g : Part) (s : State) : StepRes → Prop
  | .stall => True
  | .fault => True
  | .done t => Keeps g s t
  | .goto _ t => Keeps g s t
  | .stay t => Keeps g s t

theorem KeepsR.done {g : Part} {s t : State} (h : Keeps g s t) : KeepsR g s (.done t) := h

theorem KeepsR.goto {g : Part} {s t : State} {n : Nat} (h : Keeps g s t) : KeepsR g s (.goto n t) := h

theorem KeepsR.stay {g : Part} {s t : State} (h : Keeps g s t) : KeepsR g s (.stay t) := h

theorem KeepsR.stall {g : Part} {s : State} : KeepsR g s .stall := trivial

theorem KeepsR.fault {g : Part} {s : State} : KeepsR g s .fault := trivial

theorem KeepsR.of_done {g : Part} {s t : State} {o : StepRes} (h : KeepsR g s o) (e : o = .done t) : Keeps g s t := by subst e; exact h

theorem KeepsR.of_goto {g : Part} {s t : State} {n : Nat} {o : StepRes} (h : KeepsR g s o) (e : o = .goto n t) : Keeps g s t := by
  subst e; exact h

theorem KeepsR.of_stay {g : Part} {s t : State} {o : StepRes} (h : KeepsR g s o) (e : o = .stay t) : Keeps g s t := by subst e; exact h

/-- The same of the state that the start of a fill leaves. -/
def KeepsF (g : Part) (s : State) : FillStart → Prop
  | .begun t => Keeps g s t
  | .waits t => Keeps g s t
  | .pinned => True

theorem KeepsF.begun {g : Part} {s t : State} (h : Keeps g s t) : KeepsF g s (.begun t) := h

theorem KeepsF.waits {g : Part} {s t : State} (h : Keeps g s t) : KeepsF g s (.waits t) := h

theorem KeepsF.pinned {g : Part} {s : State} : KeepsF g s .pinned := trivial

theorem KeepsF.of_begun {g : Part} {s t : State} {o : FillStart} (h : KeepsF g s o) (e : o = .begun t) : Keeps g s t := by subst e; exact h

theorem KeepsF.of_waits {g : Part} {s t : State} {o : FillStart} (h : KeepsF g s o) (e : o = .waits t) : Keeps g s t := by subst e; exact h

theorem Keeps2.of_eq {α : Type} {g : Part} {s t : State} {p : α × State} {a : α} (h : Keeps2 g s p) (e : p = (a, t)) : Keeps g s t := by
  subst e; exact h

theorem Keeps.cut {g : Part} {s0 : State} {p : Prop} (x : State) (h : Keeps g s0 x) (k : Keeps g s0 x → p) : p := k h

theorem Keeps2.cut {α : Type} {g : Part} {s0 : State} {p : Prop} (x : α × State) (h : Keeps2 g s0 x) (k : Keeps2 g s0 x → p) : p := k h

theorem Keeps3.cut {α β : Type} {g : Part} {s0 : State} {p : Prop} (x : α × β × State) (h : Keeps3 g s0 x) (k : Keeps3 g s0 x → p) : p :=
  k h

theorem KeepsO.cut {g : Part} {s0 : State} {p : Prop} (x : Option State) (h : KeepsO g s0 x) (k : KeepsO g s0 x → p) : p := k h

theorem KeepsO.of_eq {g : Part} {s t : State} {o : Option State} (h : KeepsO g s o) (e : o = some t) : Keeps g s t := h t e

theorem KeepsE.of_eq {ε : Type} {g : Part} {s t : State} {o : Except ε State} (h : KeepsE g s o) (e : o = .ok t) : Keeps g s t := h t e

theorem Keeps2.mk {α : Type} {g : Part} {s t : State} {a : α} (h : Keeps g s t) : Keeps2 g s (a, t) := h

theorem Keeps3.mk {α β : Type} {g : Part} {s t : State} {a : α} {b : β} (h : Keeps g s t) : Keeps3 g s (a, b, t) := h

theorem Keeps2.snd {α : Type} {g : Part} {s : State} {p : α × State} (h : Keeps2 g s p) : Keeps g s p.2 := h

theorem Keeps3.snd {α β : Type} {g : Part} {s : State} {p : α × β × State} (h : Keeps3 g s p) : Keeps g s p.2.2 := h

theorem Keeps3.of_eq {α β : Type} {g : Part} {s t : State} {p : α × β × State} {a : α} {b : β} (h : Keeps3 g s p)
    (e : p = (a, b, t)) : Keeps g s t := by
  subst e; exact h

theorem KeepsO.some {g : Part} {s t : State} (h : Keeps g s t) : KeepsO g s (some t) := fun _ e => by cases e; exact h

theorem KeepsO.none {g : Part} {s : State} : KeepsO g s none := fun _ e => nomatch e

theorem KeepsE.ok {ε : Type} {g : Part} {s t : State} (h : Keeps g s t) : KeepsE (ε := ε) g s (.ok t) := fun _ e => by
  cases e; exact h

theorem KeepsE.error {ε : Type} {g : Part} {s : State} {x : ε} : KeepsE g s (.error x) := fun _ e => nomatch e

theorem KeepsO.getD {g : Part} {s t : State} {o : Option State} (h : KeepsO g s o) (k : Keeps g s t) : Keeps g s (o.getD t) := by
  cases o with
  | none => exact k
  | some x => exact h x rfl

theorem KeepsN.next {g : Part} {s t : State} (h : Keeps g s t) : KeepsN g s (.next t) := fun _ e => by cases e; exact h

theorem keeps_ite {α : Type} {P : α → Prop} {c : Prop} [Decidable c] {a b : α} (h : P a) (k : P b) : P (if c then a else b) := by
  split
  · exact h
  · exact k

theorem keeps_foldl {α β : Type} {P : β → Prop} {k : β → α → β} (hk : ∀ b x, P b → P (k b x)) :
    ∀ (l : List α) (b : β), P b → P (l.foldl k b)
  | [], _, h => h
  | x :: l, b, h => keeps_foldl hk l _ (hk b x h)

theorem keeps_foldr {α β : Type} {P : β → Prop} {k : α → β → β} (hk : ∀ b x, P b → P (k x b)) :
    ∀ (l : List α) (b : β), P b → P (l.foldr k b)
  | [], _, h => h
  | x :: l, b, h => hk _ x (keeps_foldr hk l b h)

theorem keeps_findSome {α : Type} {g : Part} {s : State} {k : α → Option State} (hk : ∀ x, KeepsO g s (k x)) :
    ∀ l : List α, KeepsO g s (l.findSome? k)
  | [] => KeepsO.none
  | x :: l => by
    unfold List.findSome?
    split
    · rename_i b e
      exact KeepsO.some (hk x _ e)
    · exact keeps_findSome hk l

/-- A record update: every part that the mask does not name is as it was. -/
theorem keeps_update {g : Part} {s0 s t : State} (w : Nat) (hg : Free w g) (h : Keeps g s0 s)
    (h0 : w.testBit 0 = true ∨ t.boot = s.boot) (h1 : w.testBit 1 = true ∨ t.pins = s.pins)
    (h2 : w.testBit 2 = true ∨ t.nv.fuses = s.nv.fuses) (h3 : w.testBit 3 = true ∨ identPart t.nv = identPart s.nv)
    (h4 : w.testBit 4 = true ∨ logPart t.nv = logPart s.nv) (h5 : w.testBit 5 = true ∨ storePart t.nv = storePart s.nv)
    (h6 : w.testBit 6 = true ∨ t.hw = s.hw) (h7 : w.testBit 7 = true ∨ t.map = s.map)
    (h8 : w.testBit 8 = true ∨ t.party = s.party) (h9 : w.testBit 9 = true ∨ netPart t.net = netPart s.net)
    (h10 : w.testBit 10 = true ∨ weirCtlPart t.weir = weirCtlPart s.weir)
    (h11 : w.testBit 11 = true ∨ weirQPart t.weir = weirQPart s.weir)
    (h12 : w.testBit 12 = true ∨ tierPart t.store = tierPart s.store) (h13 : w.testBit 13 = true ∨ t.flush = s.flush)
    (h14 : w.testBit 14 = true ∨ t.coh = s.coh) (h15 : w.testBit 15 = true ∨ t.sluice = s.sluice)
    (h16 : w.testBit 16 = true ∨ keepLogPart t.keeper = keepLogPart s.keeper)
    (h17 : w.testBit 17 = true ∨ keeperPart t.keeper = keeperPart s.keeper)
    (h18 : w.testBit 18 = true ∨ t.spdm = s.spdm) (h19 : w.testBit 19 = true ∨ t.test = s.test)
    (h20 : w.testBit 20 = true ∨ t.hosts = s.hosts) (h21 : w.testBit 21 = true ∨ t.tide = s.tide)
    (h22 : w.testBit 22 = true ∨ rillPart t.rill = rillPart s.rill) (h23 : w.testBit 23 = true ∨ t.mills = s.mills)
    (h24 : w.testBit 24 = true ∨ shoalPart t.shoal = shoalPart s.shoal) (h25 : w.testBit 25 = true ∨ t.attn = s.attn)
    (h26 : w.testBit 26 = true ∨ t.exch = s.exch) (h27 : w.testBit 27 = true ∨ t.out = s.out)
    (h28 : w.testBit 28 = true ∨ t.freeCtr = s.freeCtr) (h29 : w.testBit 29 = true ∨ t.pending = s.pending)
    (h30 : w.testBit 30 = true ∨ t.store.mem = s.store.mem) (h31 : w.testBit 31 = true ∨ linksPart t.net = linksPart s.net)
    (h32 : w.testBit 32 = true ∨ t.rill.table = s.rill.table) (h33 : w.testBit 33 = true ∨ slotsPart t.shoal = slotsPart s.shoal)
    (h34 : memoriesWf s → memoriesWf t) : Keeps g s0 t := by
  refine h.trans ?_
  have r : ∀ {n : Nat} {p : Prop}, w.testBit n = false → (w.testBit n = true ∨ p) → p := fun e q =>
    q.resolve_left (by rw [e]; exact Bool.false_ne_true)
  cases g
  exacts [r hg h0, r hg h1, r hg h2, r hg h3, r hg h4, r hg h5, r hg h6, r hg h7, r hg h8, r hg h9, r hg h10, r hg h11, r hg h12, r hg h13, r hg h14, r hg h15, r hg h16, r hg h17, r hg h18, r hg h19, r hg h20, r hg h21, r hg h22, r hg h23, r hg h24, r hg h25, r hg h26, r hg h27, r hg h28, r hg h29, r hg h30, r hg h31, r hg h32, r hg h33, h34]

/-! One field of the state changed: every other part is as it was. A field of several parts keeps those that the mask leaves out. -/

theorem keeps_boot {g : Part} {s0 s : State} {x} (hg : Free 1 g) (h : Keeps g s0 s) : Keeps g s0 { s with boot := x } :=
  keeps_update 1 hg h (.inl rfl) (.inr rfl) (.inr rfl) (.inr rfl) (.inr rfl) (.inr rfl) (.inr rfl) (.inr rfl) (.inr rfl) (.inr rfl) (.inr rfl) (.inr rfl) (.inr rfl) (.inr rfl) (.inr rfl) (.inr rfl) (.inr rfl) (.inr rfl) (.inr rfl) (.inr rfl) (.inr rfl) (.inr rfl) (.inr rfl) (.inr rfl) (.inr rfl) (.inr rfl) (.inr rfl) (.inr rfl) (.inr rfl) (.inr rfl) (.inr rfl) (.inr rfl) (.inr rfl) (.inr rfl) id

theorem keeps_pins {g : Part} {s0 s : State} {x} (hg : Free 2 g) (h : Keeps g s0 s) : Keeps g s0 { s with pins := x } :=
  keeps_update 2 hg h (.inr rfl) (.inl rfl) (.inr rfl) (.inr rfl) (.inr rfl) (.inr rfl) (.inr rfl) (.inr rfl) (.inr rfl) (.inr rfl) (.inr rfl) (.inr rfl) (.inr rfl) (.inr rfl) (.inr rfl) (.inr rfl) (.inr rfl) (.inr rfl) (.inr rfl) (.inr rfl) (.inr rfl) (.inr rfl) (.inr rfl) (.inr rfl) (.inr rfl) (.inr rfl) (.inr rfl) (.inr rfl) (.inr rfl) (.inr rfl) (.inr rfl) (.inr rfl) (.inr rfl) (.inr rfl) id

theorem keeps_nv {g : Part} {s0 s : State} {x} (w : Nat) (hg : Free w g) (h : Keeps g s0 s) (h2 : w.testBit 2 = true ∨ x.fuses = s.nv.fuses) (h3 : w.testBit 3 = true ∨ identPart x = identPart s.nv) (h4 : w.testBit 4 = true ∨ logPart x = logPart s.nv) (h5 : w.testBit 5 = true ∨ storePart x = storePart s.nv) (hm : memoriesWf s → memoriesWf { s with nv := x }) :
    Keeps g s0 { s with nv := x } :=
  keeps_update w hg h (.inr rfl) (.inr rfl) h2 h3 h4 h5 (.inr rfl) (.inr rfl) (.inr rfl) (.inr rfl) (.inr rfl) (.inr rfl) (.inr rfl) (.inr rfl) (.inr rfl) (.inr rfl) (.inr rfl) (.inr rfl) (.inr rfl) (.inr rfl) (.inr rfl) (.inr rfl) (.inr rfl) (.inr rfl) (.inr rfl) (.inr rfl) (.inr rfl) (.inr rfl) (.inr rfl) (.inr rfl) (.inr rfl) (.inr rfl) (.inr rfl) (.inr rfl) hm

theorem keeps_hw {g : Part} {s0 s : State} {x} (hg : Free 64 g) (h : Keeps g s0 s) : Keeps g s0 { s with hw := x } :=
  keeps_update 64 hg h (.inr rfl) (.inr rfl) (.inr rfl) (.inr rfl) (.inr rfl) (.inr rfl) (.inl rfl) (.inr rfl) (.inr rfl) (.inr rfl) (.inr rfl) (.inr rfl) (.inr rfl) (.inr rfl) (.inr rfl) (.inr rfl) (.inr rfl) (.inr rfl) (.inr rfl) (.inr rfl) (.inr rfl) (.inr rfl) (.inr rfl) (.inr rfl) (.inr rfl) (.inr rfl) (.inr rfl) (.inr rfl) (.inr rfl) (.inr rfl) (.inr rfl) (.inr rfl) (.inr rfl) (.inr rfl) id

theorem keeps_map {g : Part} {s0 s : State} {x} (hg : Free 128 g) (h : Keeps g s0 s) : Keeps g s0 { s with map := x } :=
  keeps_update 128 hg h (.inr rfl) (.inr rfl) (.inr rfl) (.inr rfl) (.inr rfl) (.inr rfl) (.inr rfl) (.inl rfl) (.inr rfl) (.inr rfl) (.inr rfl) (.inr rfl) (.inr rfl) (.inr rfl) (.inr rfl) (.inr rfl) (.inr rfl) (.inr rfl) (.inr rfl) (.inr rfl) (.inr rfl) (.inr rfl) (.inr rfl) (.inr rfl) (.inr rfl) (.inr rfl) (.inr rfl) (.inr rfl) (.inr rfl) (.inr rfl) (.inr rfl) (.inr rfl) (.inr rfl) (.inr rfl) id

theorem keeps_party {g : Part} {s0 s : State} {x} (hg : Free 256 g) (h : Keeps g s0 s) : Keeps g s0 { s with party := x } :=
  keeps_update 256 hg h (.inr rfl) (.inr rfl) (.inr rfl) (.inr rfl) (.inr rfl) (.inr rfl) (.inr rfl) (.inr rfl) (.inl rfl) (.inr rfl) (.inr rfl) (.inr rfl) (.inr rfl) (.inr rfl) (.inr rfl) (.inr rfl) (.inr rfl) (.inr rfl) (.inr rfl) (.inr rfl) (.inr rfl) (.inr rfl) (.inr rfl) (.inr rfl) (.inr rfl) (.inr rfl) (.inr rfl) (.inr rfl) (.inr rfl) (.inr rfl) (.inr rfl) (.inr rfl) (.inr rfl) (.inr rfl) id

theorem keeps_net {g : Part} {s0 s : State} {x} (w : Nat) (hg : Free w g) (h : Keeps g s0 s) (h9 : w.testBit 9 = true ∨ netPart x = netPart s.net) (h31 : w.testBit 31 = true ∨ linksPart x = linksPart s.net) :
    Keeps g s0 { s with net := x } :=
  keeps_update w hg h (.inr rfl) (.inr rfl) (.inr rfl) (.inr rfl) (.inr rfl) (.inr rfl) (.inr rfl) (.inr rfl) (.inr rfl) h9 (.inr rfl) (.inr rfl) (.inr rfl) (.inr rfl) (.inr rfl) (.inr rfl) (.inr rfl) (.inr rfl) (.inr rfl) (.inr rfl) (.inr rfl) (.inr rfl) (.inr rfl) (.inr rfl) (.inr rfl) (.inr rfl) (.inr rfl) (.inr rfl) (.inr rfl) (.inr rfl) (.inr rfl) h31 (.inr rfl) (.inr rfl) id

theorem keeps_weir {g : Part} {s0 s : State} {x} (w : Nat) (hg : Free w g) (h : Keeps g s0 s) (h10 : w.testBit 10 = true ∨ weirCtlPart x = weirCtlPart s.weir) (h11 : w.testBit 11 = true ∨ weirQPart x = weirQPart s.weir) :
    Keeps g s0 { s with weir := x } :=
  keeps_update w hg h (.inr rfl) (.inr rfl) (.inr rfl) (.inr rfl) (.inr rfl) (.inr rfl) (.inr rfl) (.inr rfl) (.inr rfl) (.inr rfl) h10 h11 (.inr rfl) (.inr rfl) (.inr rfl) (.inr rfl) (.inr rfl) (.inr rfl) (.inr rfl) (.inr rfl) (.inr rfl) (.inr rfl) (.inr rfl) (.inr rfl) (.inr rfl) (.inr rfl) (.inr rfl) (.inr rfl) (.inr rfl) (.inr rfl) (.inr rfl) (.inr rfl) (.inr rfl) (.inr rfl) id

theorem keeps_store {g : Part} {s0 s : State} {x} (w : Nat) (hg : Free w g) (h : Keeps g s0 s) (h12 : w.testBit 12 = true ∨ tierPart x = tierPart s.store) (h30 : w.testBit 30 = true ∨ x.mem = s.store.mem) (hm : memoriesWf s → memoriesWf { s with store := x }) :
    Keeps g s0 { s with store := x } :=
  keeps_update w hg h (.inr rfl) (.inr rfl) (.inr rfl) (.inr rfl) (.inr rfl) (.inr rfl) (.inr rfl) (.inr rfl) (.inr rfl) (.inr rfl) (.inr rfl) (.inr rfl) h12 (.inr rfl) (.inr rfl) (.inr rfl) (.inr rfl) (.inr rfl) (.inr rfl) (.inr rfl) (.inr rfl) (.inr rfl) (.inr rfl) (.inr rfl) (.inr rfl) (.inr rfl) (.inr rfl) (.inr rfl) (.inr rfl) (.inr rfl) h30 (.inr rfl) (.inr rfl) (.inr rfl) hm

theorem keeps_flush {g : Part} {s0 s : State} {x} (hg : Free 8192 g) (h : Keeps g s0 s) : Keeps g s0 { s with flush := x } :=
  keeps_update 8192 hg h (.inr rfl) (.inr rfl) (.inr rfl) (.inr rfl) (.inr rfl) (.inr rfl) (.inr rfl) (.inr rfl) (.inr rfl) (.inr rfl) (.inr rfl) (.inr rfl) (.inr rfl) (.inl rfl) (.inr rfl) (.inr rfl) (.inr rfl) (.inr rfl) (.inr rfl) (.inr rfl) (.inr rfl) (.inr rfl) (.inr rfl) (.inr rfl) (.inr rfl) (.inr rfl) (.inr rfl) (.inr rfl) (.inr rfl) (.inr rfl) (.inr rfl) (.inr rfl) (.inr rfl) (.inr rfl) id

theorem keeps_coh {g : Part} {s0 s : State} {x} (hg : Free 16384 g) (h : Keeps g s0 s) : Keeps g s0 { s with coh := x } :=
  keeps_update 16384 hg h (.inr rfl) (.inr rfl) (.inr rfl) (.inr rfl) (.inr rfl) (.inr rfl) (.inr rfl) (.inr rfl) (.inr rfl) (.inr rfl) (.inr rfl) (.inr rfl) (.inr rfl) (.inr rfl) (.inl rfl) (.inr rfl) (.inr rfl) (.inr rfl) (.inr rfl) (.inr rfl) (.inr rfl) (.inr rfl) (.inr rfl) (.inr rfl) (.inr rfl) (.inr rfl) (.inr rfl) (.inr rfl) (.inr rfl) (.inr rfl) (.inr rfl) (.inr rfl) (.inr rfl) (.inr rfl) id

theorem keeps_sluice {g : Part} {s0 s : State} {x} (hg : Free 32768 g) (h : Keeps g s0 s) : Keeps g s0 { s with sluice := x } :=
  keeps_update 32768 hg h (.inr rfl) (.inr rfl) (.inr rfl) (.inr rfl) (.inr rfl) (.inr rfl) (.inr rfl) (.inr rfl) (.inr rfl) (.inr rfl) (.inr rfl) (.inr rfl) (.inr rfl) (.inr rfl) (.inr rfl) (.inl rfl) (.inr rfl) (.inr rfl) (.inr rfl) (.inr rfl) (.inr rfl) (.inr rfl) (.inr rfl) (.inr rfl) (.inr rfl) (.inr rfl) (.inr rfl) (.inr rfl) (.inr rfl) (.inr rfl) (.inr rfl) (.inr rfl) (.inr rfl) (.inr rfl) id

theorem keeps_keeper {g : Part} {s0 s : State} {x} (w : Nat) (hg : Free w g) (h : Keeps g s0 s) (h16 : w.testBit 16 = true ∨ keepLogPart x = keepLogPart s.keeper) (h17 : w.testBit 17 = true ∨ keeperPart x = keeperPart s.keeper) :
    Keeps g s0 { s with keeper := x } :=
  keeps_update w hg h (.inr rfl) (.inr rfl) (.inr rfl) (.inr rfl) (.inr rfl) (.inr rfl) (.inr rfl) (.inr rfl) (.inr rfl) (.inr rfl) (.inr rfl) (.inr rfl) (.inr rfl) (.inr rfl) (.inr rfl) (.inr rfl) h16 h17 (.inr rfl) (.inr rfl) (.inr rfl) (.inr rfl) (.inr rfl) (.inr rfl) (.inr rfl) (.inr rfl) (.inr rfl) (.inr rfl) (.inr rfl) (.inr rfl) (.inr rfl) (.inr rfl) (.inr rfl) (.inr rfl) id

theorem keeps_spdm {g : Part} {s0 s : State} {x} (hg : Free 262144 g) (h : Keeps g s0 s) : Keeps g s0 { s with spdm := x } :=
  keeps_update 262144 hg h (.inr rfl) (.inr rfl) (.inr rfl) (.inr rfl) (.inr rfl) (.inr rfl) (.inr rfl) (.inr rfl) (.inr rfl) (.inr rfl) (.inr rfl) (.inr rfl) (.inr rfl) (.inr rfl) (.inr rfl) (.inr rfl) (.inr rfl) (.inr rfl) (.inl rfl) (.inr rfl) (.inr rfl) (.inr rfl) (.inr rfl) (.inr rfl) (.inr rfl) (.inr rfl) (.inr rfl) (.inr rfl) (.inr rfl) (.inr rfl) (.inr rfl) (.inr rfl) (.inr rfl) (.inr rfl) id

theorem keeps_test {g : Part} {s0 s : State} {x} (hg : Free 524288 g) (h : Keeps g s0 s) : Keeps g s0 { s with test := x } :=
  keeps_update 524288 hg h (.inr rfl) (.inr rfl) (.inr rfl) (.inr rfl) (.inr rfl) (.inr rfl) (.inr rfl) (.inr rfl) (.inr rfl) (.inr rfl) (.inr rfl) (.inr rfl) (.inr rfl) (.inr rfl) (.inr rfl) (.inr rfl) (.inr rfl) (.inr rfl) (.inr rfl) (.inl rfl) (.inr rfl) (.inr rfl) (.inr rfl) (.inr rfl) (.inr rfl) (.inr rfl) (.inr rfl) (.inr rfl) (.inr rfl) (.inr rfl) (.inr rfl) (.inr rfl) (.inr rfl) (.inr rfl) id

theorem keeps_hosts {g : Part} {s0 s : State} {x} (hg : Free 1048576 g) (h : Keeps g s0 s) : Keeps g s0 { s with hosts := x } :=
  keeps_update 1048576 hg h (.inr rfl) (.inr rfl) (.inr rfl) (.inr rfl) (.inr rfl) (.inr rfl) (.inr rfl) (.inr rfl) (.inr rfl) (.inr rfl) (.inr rfl) (.inr rfl) (.inr rfl) (.inr rfl) (.inr rfl) (.inr rfl) (.inr rfl) (.inr rfl) (.inr rfl) (.inr rfl) (.inl rfl) (.inr rfl) (.inr rfl) (.inr rfl) (.inr rfl) (.inr rfl) (.inr rfl) (.inr rfl) (.inr rfl) (.inr rfl) (.inr rfl) (.inr rfl) (.inr rfl) (.inr rfl) id

theorem keeps_tide {g : Part} {s0 s : State} {x} (hg : Free 2097152 g) (h : Keeps g s0 s) : Keeps g s0 { s with tide := x } :=
  keeps_update 2097152 hg h (.inr rfl) (.inr rfl) (.inr rfl) (.inr rfl) (.inr rfl) (.inr rfl) (.inr rfl) (.inr rfl) (.inr rfl) (.inr rfl) (.inr rfl) (.inr rfl) (.inr rfl) (.inr rfl) (.inr rfl) (.inr rfl) (.inr rfl) (.inr rfl) (.inr rfl) (.inr rfl) (.inr rfl) (.inl rfl) (.inr rfl) (.inr rfl) (.inr rfl) (.inr rfl) (.inr rfl) (.inr rfl) (.inr rfl) (.inr rfl) (.inr rfl) (.inr rfl) (.inr rfl) (.inr rfl) id

theorem keeps_rill {g : Part} {s0 s : State} {x} (w : Nat) (hg : Free w g) (h : Keeps g s0 s) (h22 : w.testBit 22 = true ∨ rillPart x = rillPart s.rill) (h32 : w.testBit 32 = true ∨ x.table = s.rill.table) :
    Keeps g s0 { s with rill := x } :=
  keeps_update w hg h (.inr rfl) (.inr rfl) (.inr rfl) (.inr rfl) (.inr rfl) (.inr rfl) (.inr rfl) (.inr rfl) (.inr rfl) (.inr rfl) (.inr rfl) (.inr rfl) (.inr rfl) (.inr rfl) (.inr rfl) (.inr rfl) (.inr rfl) (.inr rfl) (.inr rfl) (.inr rfl) (.inr rfl) (.inr rfl) h22 (.inr rfl) (.inr rfl) (.inr rfl) (.inr rfl) (.inr rfl) (.inr rfl) (.inr rfl) (.inr rfl) (.inr rfl) h32 (.inr rfl) id

theorem keeps_mills {g : Part} {s0 s : State} {x} (hg : Free 8388608 g) (h : Keeps g s0 s) : Keeps g s0 { s with mills := x } :=
  keeps_update 8388608 hg h (.inr rfl) (.inr rfl) (.inr rfl) (.inr rfl) (.inr rfl) (.inr rfl) (.inr rfl) (.inr rfl) (.inr rfl) (.inr rfl) (.inr rfl) (.inr rfl) (.inr rfl) (.inr rfl) (.inr rfl) (.inr rfl) (.inr rfl) (.inr rfl) (.inr rfl) (.inr rfl) (.inr rfl) (.inr rfl) (.inr rfl) (.inl rfl) (.inr rfl) (.inr rfl) (.inr rfl) (.inr rfl) (.inr rfl) (.inr rfl) (.inr rfl) (.inr rfl) (.inr rfl) (.inr rfl) id

theorem keeps_shoal {g : Part} {s0 s : State} {x} (w : Nat) (hg : Free w g) (h : Keeps g s0 s) (h24 : w.testBit 24 = true ∨ shoalPart x = shoalPart s.shoal) (h33 : w.testBit 33 = true ∨ slotsPart x = slotsPart s.shoal) :
    Keeps g s0 { s with shoal := x } :=
  keeps_update w hg h (.inr rfl) (.inr rfl) (.inr rfl) (.inr rfl) (.inr rfl) (.inr rfl) (.inr rfl) (.inr rfl) (.inr rfl) (.inr rfl) (.inr rfl) (.inr rfl) (.inr rfl) (.inr rfl) (.inr rfl) (.inr rfl) (.inr rfl) (.inr rfl) (.inr rfl) (.inr rfl) (.inr rfl) (.inr rfl) (.inr rfl) (.inr rfl) h24 (.inr rfl) (.inr rfl) (.inr rfl) (.inr rfl) (.inr rfl) (.inr rfl) (.inr rfl) (.inr rfl) h33 id

theorem keeps_attn {g : Part} {s0 s : State} {x} (hg : Free 33554432 g) (h : Keeps g s0 s) : Keeps g s0 { s with attn := x } :=
  keeps_update 33554432 hg h (.inr rfl) (.inr rfl) (.inr rfl) (.inr rfl) (.inr rfl) (.inr rfl) (.inr rfl) (.inr rfl) (.inr rfl) (.inr rfl) (.inr rfl) (.inr rfl) (.inr rfl) (.inr rfl) (.inr rfl) (.inr rfl) (.inr rfl) (.inr rfl) (.inr rfl) (.inr rfl) (.inr rfl) (.inr rfl) (.inr rfl) (.inr rfl) (.inr rfl) (.inl rfl) (.inr rfl) (.inr rfl) (.inr rfl) (.inr rfl) (.inr rfl) (.inr rfl) (.inr rfl) (.inr rfl) id

theorem keeps_exch {g : Part} {s0 s : State} {x} (hg : Free 67108864 g) (h : Keeps g s0 s) : Keeps g s0 { s with exch := x } :=
  keeps_update 67108864 hg h (.inr rfl) (.inr rfl) (.inr rfl) (.inr rfl) (.inr rfl) (.inr rfl) (.inr rfl) (.inr rfl) (.inr rfl) (.inr rfl) (.inr rfl) (.inr rfl) (.inr rfl) (.inr rfl) (.inr rfl) (.inr rfl) (.inr rfl) (.inr rfl) (.inr rfl) (.inr rfl) (.inr rfl) (.inr rfl) (.inr rfl) (.inr rfl) (.inr rfl) (.inr rfl) (.inl rfl) (.inr rfl) (.inr rfl) (.inr rfl) (.inr rfl) (.inr rfl) (.inr rfl) (.inr rfl) id

theorem keeps_out {g : Part} {s0 s : State} {x} (hg : Free 134217728 g) (h : Keeps g s0 s) : Keeps g s0 { s with out := x } :=
  keeps_update 134217728 hg h (.inr rfl) (.inr rfl) (.inr rfl) (.inr rfl) (.inr rfl) (.inr rfl) (.inr rfl) (.inr rfl) (.inr rfl) (.inr rfl) (.inr rfl) (.inr rfl) (.inr rfl) (.inr rfl) (.inr rfl) (.inr rfl) (.inr rfl) (.inr rfl) (.inr rfl) (.inr rfl) (.inr rfl) (.inr rfl) (.inr rfl) (.inr rfl) (.inr rfl) (.inr rfl) (.inr rfl) (.inl rfl) (.inr rfl) (.inr rfl) (.inr rfl) (.inr rfl) (.inr rfl) (.inr rfl) id

theorem keeps_freeCtr {g : Part} {s0 s : State} {x} (hg : Free 268435456 g) (h : Keeps g s0 s) : Keeps g s0 { s with freeCtr := x } :=
  keeps_update 268435456 hg h (.inr rfl) (.inr rfl) (.inr rfl) (.inr rfl) (.inr rfl) (.inr rfl) (.inr rfl) (.inr rfl) (.inr rfl) (.inr rfl) (.inr rfl) (.inr rfl) (.inr rfl) (.inr rfl) (.inr rfl) (.inr rfl) (.inr rfl) (.inr rfl) (.inr rfl) (.inr rfl) (.inr rfl) (.inr rfl) (.inr rfl) (.inr rfl) (.inr rfl) (.inr rfl) (.inr rfl) (.inr rfl) (.inl rfl) (.inr rfl) (.inr rfl) (.inr rfl) (.inr rfl) (.inr rfl) id

theorem keeps_pending {g : Part} {s0 s : State} {x} (hg : Free 536870912 g) (h : Keeps g s0 s) : Keeps g s0 { s with pending := x } :=
  keeps_update 536870912 hg h (.inr rfl) (.inr rfl) (.inr rfl) (.inr rfl) (.inr rfl) (.inr rfl) (.inr rfl) (.inr rfl) (.inr rfl) (.inr rfl) (.inr rfl) (.inr rfl) (.inr rfl) (.inr rfl) (.inr rfl) (.inr rfl) (.inr rfl) (.inr rfl) (.inr rfl) (.inr rfl) (.inr rfl) (.inr rfl) (.inr rfl) (.inr rfl) (.inr rfl) (.inr rfl) (.inr rfl) (.inr rfl) (.inr rfl) (.inl rfl) (.inr rfl) (.inr rfl) (.inr rfl) (.inr rfl) id

end Sys2Proof.Safety
end

