-- ==== Sys2Proof/Laws/KeepsStorage.lean ====
section
/-!
SUPPORT. Which parts of the state each operation keeps: the state and storage operations.
-/
namespace Sys2Proof.Safety

open Sys2Proof Sys2Proof.Machine

set_option Elab.async false

variable {g : Part} {s0 : State}

theorem logEv_keeps (hg : Free 65536 g) : ∀ a0 a1 a2 a3 a4 a5 s, Keeps g s0 s → Keeps g s0 (logEv a0 a1 a2 a3 a4 a5 s) := by
  intro a0 a1 a2 a3 a4 a5 s h
  unfold logEv
  refine @keeps_ite _ (Keeps g s0) _ _ _ _ ?_ ?_
  ·
    refine keeps_keeper (s := s) 65536 (hg.sub rfl) ?_ (.inl rfl) (.inr rfl)
    with_reducible assumption
  ·
    refine @keeps_ite _ (Keeps g s0) _ _ _ _ ?_ ?_
    ·
      refine keeps_keeper (s := s) 65536 (hg.sub rfl) ?_ (.inl rfl) (.inr rfl)
      with_reducible assumption
    ·
      refine keeps_keeper (s := s) 65536 (hg.sub rfl) ?_ (.inl rfl) (.inr rfl)
      with_reducible assumption

theorem bootFail_keeps (hg : Free 65537 g) : ∀ a0 a1 s, Keeps g s0 s → Keeps g s0 (bootFail a0 a1 s) := by
  intro a0 a1 s h
  unfold bootFail
  refine logEv_keeps (hg.sub rfl) _ _ _ _ _ _ _ ?_
  refine keeps_boot (s := s) (hg.sub rfl) ?_
  with_reducible assumption

theorem dropAlert_keeps (hg : Free 65536 g) : ∀ a0 s, Keeps g s0 s → Keeps g s0 (dropAlert a0 s) := by
  intro a0 s h
  unfold dropAlert
  refine keeps_keeper (s := s) 65536 (hg.sub rfl) ?_ (.inl rfl) (.inr rfl)
  with_reducible assumption

theorem setAlert_keeps (hg : Free 65536 g) : ∀ a0 s, Keeps g s0 s → Keeps g s0 (setAlert a0 s) := by
  intro a0 s h
  unfold setAlert
  refine keeps_keeper (s := s) 65536 (hg.sub rfl) ?_ (.inl rfl) (.inr rfl)
  with_reducible assumption

theorem updLink_keeps (hg : Free 2147483648 g) : ∀ a0 a1 s, Keeps g s0 s → Keeps g s0 (updLink a0 a1 s) := by
  intro a0 a1 s h
  unfold updLink
  refine keeps_net (s := s) 2147483648 (hg.sub rfl) ?_ (.inr rfl) (.inl rfl)
  with_reducible assumption

theorem logIgnored_keeps (hg : Free 65536 g) : ∀ a0 a1 a2 s, Keeps g s0 s → Keeps g s0 (logIgnored a0 a1 a2 s) := by
  intro a0 a1 a2 s h
  unfold logIgnored
  refine logEv_keeps (hg.sub rfl) _ _ _ _ _ _ _ ?_
  with_reducible assumption

theorem bootStep_keeps (hg : Free 65537 g) : ∀ a0 s, Keeps g s0 s → Keeps g s0 (bootStep a0 s) := by
  intro a0 s h
  unfold bootStep
  refine logEv_keeps (hg.sub rfl) _ _ _ _ _ _ _ ?_
  refine keeps_boot (s := s) (hg.sub rfl) ?_
  with_reducible assumption

theorem takeWord_keeps (hg : Free 268435456 g) : ∀ s, Keeps g s0 s → Keeps2 g s0 (takeWord s) := by
  intro s h
  unfold takeWord
  refine Keeps2.mk ?_
  refine keeps_freeCtr (s := s) (hg.sub rfl) ?_
  with_reducible assumption

theorem updPty_keeps (hg : Free 256 g) : ∀ a0 a1 s, Keeps g s0 s → Keeps g s0 (updPty a0 a1 s) := by
  intro a0 a1 s h
  unfold updPty
  refine keeps_party (s := s) (hg.sub rfl) ?_
  with_reducible assumption

theorem emit_keeps (hg : Free 134217728 g) : ∀ a0 s, Keeps g s0 s → Keeps g s0 (emit a0 s) := by
  intro a0 s h
  unfold emit
  refine keeps_out (s := s) (hg.sub rfl) ?_
  with_reducible assumption

theorem errorEntry_keeps (hg : Free 134217984 g) : ∀ a0 a1 a2 a3 a4 s, Keeps g s0 s → Keeps g s0 (errorEntry a0 a1 a2 a3 a4 s) := by
  intro a0 a1 a2 a3 a4 s h
  unfold errorEntry
  extract_lets +onlyGivenNames v1 v2
  clear_value v1
  clear_value v2
  refine @keeps_ite _ (Keeps g s0) _ _ _ _ ?_ ?_
  ·
    with_reducible assumption
  ·
    extract_lets +onlyGivenNames v3 v4 v5 v6
    clear_value v3
    clear_value v4
    refine Keeps.cut (g := g) (s0 := s0) v6 ?_ (fun h7 => ?_)
    ·
      unfold v6
      refine updPty_keeps (hg.sub rfl) _ _ _ ?_
      with_reducible assumption
    clear_value v6
    refine @keeps_ite _ (Keeps g s0) _ _ _ _ ?_ ?_
    ·
      refine emit_keeps (hg.sub rfl) _ _ ?_
      with_reducible assumption
    ·
      with_reducible assumption

theorem updHost_keeps (hg : Free 1048576 g) : ∀ a0 a1 s, Keeps g s0 s → Keeps g s0 (updHost a0 a1 s) := by
  intro a0 a1 s h
  unfold updHost
  refine keeps_hosts (s := s) (hg.sub rfl) ?_
  with_reducible assumption

theorem updTier_keeps (hg : Free 4096 g) : ∀ a0 a1 s, Keeps g s0 s → Keeps g s0 (updTier a0 a1 s) := by
  intro a0 a1 s h
  unfold updTier
  refine keeps_store (s := s) 4096 (hg.sub rfl) ?_ (.inl rfl) (.inr rfl) (fun m => m)
  with_reducible assumption

theorem serviceAlarm_keeps (hg : Free 65536 g) : ∀ a0 a1 s, Keeps g s0 s → Keeps g s0 (serviceAlarm a0 a1 s) := by
  intro a0 a1 s h
  unfold serviceAlarm
  refine logEv_keeps (hg.sub rfl) _ _ _ _ _ _ _ ?_
  refine setAlert_keeps (hg.sub rfl) _ _ ?_
  with_reducible assumption

theorem noteLevel_keeps (hg : Free 65536 g) : ∀ a0 a1 a2 s, Keeps g s0 s → Keeps g s0 (noteLevel a0 a1 a2 s) := by
  intro a0 a1 a2 s h
  unfold noteLevel
  extract_lets +onlyGivenNames v1 v2 v3 v4 v5 v6 v7
  clear_value v1
  clear_value v2
  clear_value v3
  clear_value v4
  clear_value v5
  refine Keeps.cut (g := g) (s0 := s0) v7 ?_ (fun h8 => ?_)
  ·
    unfold v7
    refine keeps_keeper (s := s) 65536 (hg.sub rfl) ?_ (.inl rfl) (.inr rfl)
    with_reducible assumption
  clear_value v7
  extract_lets +onlyGivenNames v9
  refine Keeps.cut (g := g) (s0 := s0) v9 ?_ (fun h10 => ?_)
  ·
    unfold v9
    refine @keeps_ite _ (Keeps g s0) _ _ _ _ ?_ ?_
    ·
      refine setAlert_keeps (hg.sub rfl) _ _ ?_
      with_reducible assumption
    ·
      refine dropAlert_keeps (hg.sub rfl) _ _ ?_
      with_reducible assumption
  clear_value v9
  split
  ·
    rename_i y11 y12 y13 y14
    extract_lets +onlyGivenNames v15
    refine @keeps_ite _ (Keeps g s0) _ _ _ _ ?_ ?_
    ·
      extract_lets +onlyGivenNames v16
      refine Keeps.cut (g := g) (s0 := s0) v16 ?_ (fun h17 => ?_)
      ·
        unfold v16
        unfold v15
        refine logEv_keeps (hg.sub rfl) _ _ _ _ _ _ _ ?_
        with_reducible assumption
      clear_value v16
      refine @keeps_ite _ (Keeps g s0) _ _ _ _ ?_ ?_
      ·
        refine serviceAlarm_keeps (hg.sub rfl) _ _ _ ?_
        with_reducible assumption
      ·
        with_reducible assumption
    ·
      refine @keeps_ite _ (Keeps g s0) _ _ _ _ ?_ ?_
      ·
        unfold v15
        refine logEv_keeps (hg.sub rfl) _ _ _ _ _ _ _ ?_
        with_reducible assumption
      ·
        with_reducible assumption

theorem respondOn_keeps (hg : Free 512 g) : ∀ a0 a1 a2 a3 a4 a5 s, Keeps g s0 s → Keeps g s0 (respondOn a0 a1 a2 a3 a4 a5 s) := by
  intro a0 a1 a2 a3 a4 a5 s h
  unfold respondOn
  extract_lets +onlyGivenNames v1 v2
  clear_value v1
  clear_value v2
  refine keeps_net (s := s) 512 (hg.sub rfl) ?_ (.inl rfl) (.inr rfl)
  with_reducible assumption

theorem hostOutcome_keeps (hg : Free 134217984 g) : ∀ a0 a1 a2 a3 a4 s, Keeps g s0 s → Keeps g s0 (hostOutcome a0 a1 a2 a3 a4 s) := by
  intro a0 a1 a2 a3 a4 s h
  unfold hostOutcome
  extract_lets +onlyGivenNames v1
  refine Keeps.cut (g := g) (s0 := s0) v1 ?_ (fun h2 => ?_)
  ·
    unfold v1
    refine @keeps_ite _ (Keeps g s0) _ _ _ _ ?_ ?_
    ·
      with_reducible assumption
    ·
      refine errorEntry_keeps (hg.sub rfl) _ _ _ _ _ _ ?_
      with_reducible assumption
  clear_value v1
  refine @keeps_ite _ (Keeps g s0) _ _ _ _ ?_ ?_
  ·
    refine emit_keeps (hg.sub rfl) _ _ ?_
    with_reducible assumption
  ·
    refine @keeps_ite _ (Keeps g s0) _ _ _ _ ?_ ?_
    ·
      with_reducible assumption
    ·
      refine @keeps_ite _ (Keeps g s0) _ _ _ _ ?_ ?_
      ·
        refine emit_keeps (hg.sub rfl) _ _ ?_
        with_reducible assumption
      ·
        refine @keeps_ite _ (Keeps g s0) _ _ _ _ ?_ ?_
        ·
          refine emit_keeps (hg.sub rfl) _ _ ?_
          with_reducible assumption
        ·
          refine emit_keeps (hg.sub rfl) _ _ ?_
          with_reducible assumption

theorem land_keeps (hg : Free 2048 g) : ∀ a0 a1 a2 s, Keeps g s0 s → Keeps g s0 (land a0 a1 a2 s) := by
  intro a0 a1 a2 s h
  unfold land
  refine keeps_weir (s := s) 2048 (hg.sub rfl) ?_ (.inr rfl) (.inl rfl)
  with_reducible assumption

theorem finish_keeps (hg : Free 134220544 g) : ∀ a0 a1 a2 s, Keeps g s0 s → Keeps g s0 (finish a0 a1 a2 s) := by
  intro a0 a1 a2 s h
  unfold finish
  extract_lets +onlyGivenNames v1
  clear_value v1
  split
  ·
    rename_i y2 y3 y4 y5
    refine @keeps_ite _ (Keeps g s0) _ _ _ _ ?_ ?_
    ·
      refine respondOn_keeps (hg.sub rfl) _ _ _ _ _ _ _ ?_
      with_reducible assumption
    ·
      with_reducible assumption
  ·
    rename_i y6 y7 y8
    refine hostOutcome_keeps (hg.sub rfl) _ _ _ _ _ _ ?_
    with_reducible assumption
  ·
    rename_i y9 y10 y11
    refine land_keeps (hg.sub rfl) _ _ _ _ ?_
    with_reducible assumption
  ·
    rename_i y12 y13 y14 y15 y16
    refine land_keeps (hg.sub rfl) _ _ _ _ ?_
    with_reducible assumption
  ·
    rename_i y17 y18 y19 y20 y21
    refine land_keeps (hg.sub rfl) _ _ _ _ ?_
    with_reducible assumption
  ·
    rename_i y22 y23 y24 y25
    refine land_keeps (hg.sub rfl) _ _ _ _ ?_
    with_reducible assumption
  ·
    rename_i y26 y27 y28 y29
    refine land_keeps (hg.sub rfl) _ _ _ _ ?_
    with_reducible assumption
  ·
    rename_i y30 y31 y32
    refine land_keeps (hg.sub rfl) _ _ _ _ ?_
    with_reducible assumption
  ·
    rename_i y33 y34 y35
    refine land_keeps (hg.sub rfl) _ _ _ _ ?_
    with_reducible assumption
  ·
    rename_i y36 y37 y38 y39
    refine land_keeps (hg.sub rfl) _ _ _ _ ?_
    with_reducible assumption
  ·
    rename_i y40 y41 y42
    with_reducible assumption
  ·
    rename_i y43 y44
    with_reducible assumption
  ·
    rename_i y45 y46
    with_reducible assumption

theorem complete_keeps (hg : Free 134220544 g) : ∀ a0 a1 a2 s, Keeps g s0 s → Keeps g s0 (complete a0 a1 a2 s) := by
  intro a0 a1 a2 s h
  unfold complete
  split
  ·
    rename_i y1 y2
    refine finish_keeps (hg.sub rfl) _ _ _ _ ?_
    with_reducible assumption
  ·
    rename_i y3 y4 y5
    split
    ·
      rename_i y6 y7
      refine finish_keeps (hg.sub rfl) _ _ _ _ ?_
      with_reducible assumption
    ·
      rename_i y8 y9 y10
      extract_lets +onlyGivenNames v11 v12
      refine @keeps_ite _ (Keeps g s0) _ _ _ _ ?_ ?_
      ·
        refine keeps_net (s := s) 512 (hg.sub rfl) ?_ (.inl rfl) (.inr rfl)
        with_reducible assumption
      ·
        extract_lets +onlyGivenNames v13 v14 v15 v16
        clear_value v13
        refine Keeps.cut (g := g) (s0 := s0) v15 ?_ (fun h17 => ?_)
        ·
          unfold v15
          refine keeps_net (s := s) 512 (hg.sub rfl) ?_ (.inl rfl) (.inr rfl)
          with_reducible assumption
        clear_value v15
        clear_value v16
        extract_lets +onlyGivenNames v18
        clear_value v18
        extract_lets +onlyGivenNames v19
        clear_value v19
        split
        ·
          rename_i y20 y21 y22
          refine land_keeps (hg.sub rfl) _ _ _ _ ?_
          with_reducible assumption
        ·
          rename_i y23 y24
          refine finish_keeps (hg.sub rfl) _ _ _ _ ?_
          with_reducible assumption

theorem waitBehind_keeps (hg : Free 512 g) : ∀ a0 a1 s, Keeps g s0 s → Keeps g s0 (waitBehind a0 a1 s) := by
  intro a0 a1 s h
  unfold waitBehind
  extract_lets +onlyGivenNames v1
  clear_value v1
  refine keeps_net (s := s) 512 (hg.sub rfl) ?_ (.inl rfl) (.inr rfl)
  with_reducible assumption

theorem fresh_keeps (hg : Free 2048 g) : ∀ a0 s, Keeps g s0 s → Keeps2 g s0 (fresh a0 s) := by
  intro a0 s h
  unfold fresh
  refine Keeps2.mk ?_
  refine keeps_weir (s := s) 2048 (hg.sub rfl) ?_ (.inr rfl) (.inl rfl)
  with_reducible assumption

theorem numbered_keeps (hg : Free 2048 g) : ∀ a0 s, Keeps g s0 s → Keeps2 g s0 (numbered a0 s) := by
  intro a0 s h
  unfold numbered
  split
  ·
    rename_i y1 y2 y3 y4
    refine @keeps_ite _ (Keeps2 g s0) _ _ _ _ ?_ ?_
    ·
      refine fresh_keeps (hg.sub rfl) _ _ ?_
      with_reducible assumption
    ·
      refine Keeps2.mk ?_
      with_reducible assumption
  ·
    rename_i y5 y6
    refine fresh_keeps (hg.sub rfl) _ _ ?_
    with_reducible assumption

theorem enqueue_keeps (hg : Free 2048 g) : ∀ a0 s, Keeps g s0 s → Keeps g s0 (enqueue a0 s) := by
  intro a0 s h
  unfold enqueue
  extract_lets +onlyGivenNames v1 v2
  clear_value v1
  clear_value v2
  split
  ·
    rename_i y3 y4 y5 y6
    refine Keeps.cut (g := g) (s0 := s0) y5 (Keeps2.of_eq ?_ y6) (fun h7 => ?_)
    ·
      refine numbered_keeps (hg.sub rfl) _ _ ?_
      with_reducible assumption
    extract_lets +onlyGivenNames v8
    clear_value v8
    refine keeps_weir (s := y5) 2048 (hg.sub rfl) ?_ (.inr rfl) (.inl rfl)
    with_reducible assumption

theorem sendOn_keeps (hg : Free 512 g) : ∀ a0 a1 s, Keeps g s0 s → Keeps g s0 (sendOn a0 a1 s) := by
  intro a0 a1 s h
  unfold sendOn
  extract_lets +onlyGivenNames v1 v2
  clear_value v1
  clear_value v2
  refine keeps_net (s := s) 512 (hg.sub rfl) ?_ (.inl rfl) (.inr rfl)
  with_reducible assumption

theorem place_keeps (hg : Free 2560 g) : ∀ a0 a1 s, Keeps g s0 s → Keeps g s0 (place a0 a1 s) := by
  intro a0 a1 s h
  unfold place
  split
  ·
    rename_i y1 y2 y3
    refine waitBehind_keeps (hg.sub rfl) _ _ _ ?_
    with_reducible assumption
  ·
    rename_i y4 y5
    split
    ·
      rename_i y6 y7
      refine sendOn_keeps (hg.sub rfl) _ _ _ ?_
      with_reducible assumption
    ·
      rename_i y8
      refine enqueue_keeps (hg.sub rfl) _ _ ?_
      with_reducible assumption

theorem offer_keeps (hg : Free 2560 g) : ∀ a0 a1 s, Keeps g s0 s → Keeps g s0 (offer a0 a1 s) := by
  intro a0 a1 s h
  unfold offer
  refine @keeps_ite _ (Keeps g s0) _ _ _ _ ?_ ?_
  ·
    refine place_keeps (hg.sub rfl) _ _ _ ?_
    with_reducible assumption
  ·
    refine keeps_weir (s := s) 2048 (hg.sub rfl) ?_ (.inr rfl) (.inl rfl)
    with_reducible assumption

theorem issue_keeps (hg : Free 134220544 g) : ∀ a0 s, Keeps g s0 s → Keeps g s0 (issue a0 s) := by
  intro a0 s h
  unfold issue
  split
  ·
    rename_i y1 y2 y3
    refine offer_keeps (hg.sub rfl) _ _ _ ?_
    with_reducible assumption
  ·
    rename_i y4 y5 y6
    refine complete_keeps (hg.sub rfl) _ _ _ _ ?_
    with_reducible assumption

theorem toPipeFront_keeps (hg : Free 2048 g) : ∀ a0 s, Keeps g s0 s → Keeps g s0 (toPipeFront a0 s) := by
  intro a0 s h
  unfold toPipeFront
  refine keeps_weir (s := s) 2048 (hg.sub rfl) ?_ (.inr rfl) (.inl rfl)
  with_reducible assumption

theorem numberAll_keeps (hg : Free 2048 g) : ∀ a0 s, Keeps g s0 s → Keeps2 g s0 (numberAll a0 s) := by
  intro a0 s
  induction a0 generalizing s
  ·
    intro h1
    unfold numberAll
    refine Keeps2.mk ?_
    with_reducible assumption
  ·
    rename_i y2 y3 y4
    intro h5
    unfold numberAll
    split
    ·
      rename_i y6 y7 y8 y9
      refine Keeps.cut (g := g) (s0 := s0) y8 (Keeps2.of_eq ?_ y9) (fun h10 => ?_)
      ·
        refine fresh_keeps (hg.sub rfl) _ _ ?_
        with_reducible assumption
      split
      ·
        rename_i y11 y12 y13 y14
        refine Keeps.cut (g := g) (s0 := s0) y13 (Keeps2.of_eq ?_ y14) (fun h15 => ?_)
        ·
          refine y4 _ ?_
          with_reducible assumption
        refine Keeps2.mk ?_
        with_reducible assumption

theorem offerAgain_keeps (hg : Free 134220544 g) : ∀ a0 a1 s, Keeps g s0 s → Keeps g s0 (offerAgain a0 a1 s) := by
  intro a0 a1 s h
  unfold offerAgain
  extract_lets +onlyGivenNames v1
  clear_value v1
  refine @keeps_ite _ (Keeps g s0) _ _ _ _ ?_ ?_
  ·
    refine offer_keeps (hg.sub rfl) _ _ _ ?_
    with_reducible assumption
  ·
    split
    ·
      rename_i y2 y3 y4
      refine offer_keeps (hg.sub rfl) _ _ _ ?_
      with_reducible assumption
    ·
      rename_i y5 y6 y7
      refine complete_keeps (hg.sub rfl) _ _ _ _ ?_
      with_reducible assumption

theorem wakeStalled_keeps (hg : Free 134220544 g) : ∀ s, Keeps g s0 s → Keeps g s0 (wakeStalled s) := by
  intro s h
  unfold wakeStalled
  refine keeps_foldl (P := Keeps g s0) (fun b1 x2 h3 => ?_) _ _ ?_
  ·
    refine offerAgain_keeps (hg.sub rfl) _ _ _ ?_
    with_reducible assumption
  ·
    refine keeps_weir (s := s) 2048 (hg.sub rfl) ?_ (.inr rfl) (.inl rfl)
    with_reducible assumption

theorem toPipe_keeps (hg : Free 2048 g) : ∀ a0 s, Keeps g s0 s → Keeps g s0 (toPipe a0 s) := by
  intro a0 s h
  unfold toPipe
  split
  ·
    rename_i y1 y2 y3 y4
    refine Keeps.cut (g := g) (s0 := s0) y3 (Keeps2.of_eq ?_ y4) (fun h5 => ?_)
    ·
      refine fresh_keeps (hg.sub rfl) _ _ ?_
      with_reducible assumption
    refine keeps_weir (s := y3) 2048 (hg.sub rfl) ?_ (.inr rfl) (.inl rfl)
    with_reducible assumption

theorem forward_keeps (hg : Free 134220544 g) : ∀ a0 s, Keeps g s0 s → Keeps g s0 (forward a0 s) := by
  intro a0 s h
  unfold forward
  split
  ·
    rename_i y1 y2
    refine enqueue_keeps (hg.sub rfl) _ _ ?_
    with_reducible assumption
  ·
    rename_i y3 y4 y5
    refine sendOn_keeps (hg.sub rfl) _ _ _ ?_
    with_reducible assumption
  ·
    rename_i y6 y7 y8
    refine complete_keeps (hg.sub rfl) _ _ _ _ ?_
    with_reducible assumption

theorem unpipe_keeps (hg : Free 2048 g) : ∀ a0 s, Keeps g s0 s → Keeps g s0 (unpipe a0 s) := by
  intro a0 s h
  unfold unpipe
  refine keeps_weir (s := s) 2048 (hg.sub rfl) ?_ (.inr rfl) (.inl rfl)
  with_reducible assumption

theorem refreshPoisoned_keeps (hg : Free 4096 g) : ∀ a0 s, Keeps g s0 s → Keeps g s0 (refreshPoisoned a0 s) := by
  intro a0 s h
  unfold refreshPoisoned
  refine updTier_keeps (hg.sub rfl) _ _ _ ?_
  with_reducible assumption

theorem clearPoison_keeps (hg : Free 4096 g) : ∀ a0 s, Keeps g s0 s → Keeps g s0 (clearPoison a0 s) := by
  intro a0 s h
  unfold clearPoison
  extract_lets +onlyGivenNames v1
  extract_lets +onlyGivenNames v2
  refine Keeps.cut (g := g) (s0 := s0) v2 ?_ (fun h3 => ?_)
  ·
    unfold v2
    refine keeps_store (s := s) 4096 (hg.sub rfl) ?_ (.inl rfl) (.inr rfl) (fun m => m)
    with_reducible assumption
  clear_value v2
  refine keeps_foldl (P := Keeps g s0) (fun b4 x5 h6 => ?_) _ _ ?_
  ·
    refine refreshPoisoned_keeps (hg.sub rfl) _ _ ?_
    with_reducible assumption
  ·
    with_reducible assumption

theorem maintain_keeps (hg : Free 2048 g) : ∀ a0 a1 s, Keeps g s0 s → Keeps g s0 (maintain a0 a1 s) := by
  intro a0 a1 s h
  unfold maintain
  refine keeps_weir (s := s) 2048 (hg.sub rfl) ?_ (.inr rfl) (.inl rfl)
  with_reducible assumption

theorem startMove_keeps (hg : Free 6656 g) : ∀ a0 a1 a2 a3 a4 s, Keeps g s0 s → Keeps g s0 (startMove a0 a1 a2 a3 a4 s) := by
  intro a0 a1 a2 a3 a4 s h
  unfold startMove
  extract_lets +onlyGivenNames v1 v2 v3 v4
  clear_value v1
  clear_value v2
  extract_lets +onlyGivenNames v5 v6
  refine Keeps.cut (g := g) (s0 := s0) v5 ?_ (fun h7 => ?_)
  ·
    unfold v5
    refine keeps_update (s := s) 4608 (hg.sub rfl) ?_ (.inr rfl) (.inr rfl) (.inr rfl) (.inr rfl) (.inr rfl) (.inr rfl) (.inr rfl) (.inr rfl) (.inr rfl) (.inl rfl) (.inr rfl) (.inr rfl) (.inl rfl) (.inr rfl) (.inr rfl) (.inr rfl) (.inr rfl) (.inr rfl) (.inr rfl) (.inr rfl) (.inr rfl) (.inr rfl) (.inr rfl) (.inr rfl) (.inr rfl) (.inr rfl) (.inr rfl) (.inr rfl) (.inr rfl) (.inr rfl) (.inr rfl) (.inr rfl) (.inr rfl) (.inr rfl) (fun m => m)
    with_reducible assumption
  clear_value v5
  refine Keeps.cut (g := g) (s0 := s0) v6 ?_ (fun h8 => ?_)
  ·
    unfold v6
    refine updTier_keeps (hg.sub rfl) _ _ _ ?_
    with_reducible assumption
  clear_value v6
  refine @keeps_ite _ (Keeps g s0) _ _ _ _ ?_ ?_
  ·
    refine maintain_keeps (hg.sub rfl) _ _ _ ?_
    with_reducible assumption
  ·
    refine @keeps_ite _ (Keeps g s0) _ _ _ _ ?_ ?_
    ·
      refine keeps_weir (s := v6) 2048 (hg.sub rfl) ?_ (.inr rfl) (.inl rfl)
      with_reducible assumption
    ·
      refine maintain_keeps (hg.sub rfl) _ _ _ ?_
      with_reducible assumption

theorem takeFrame_keeps (hg : Free 6656 g) : ∀ a0 a1 a2 a3 s, Keeps g s0 s → KeepsF g s0 (takeFrame a0 a1 a2 a3 s) := by
  intro a0 a1 a2 a3 s h
  unfold takeFrame
  refine @keeps_ite _ (KeepsF g s0) _ _ _ _ ?_ ?_
  ·
    refine KeepsF.begun ?_
    refine startMove_keeps (hg.sub rfl) _ _ _ _ _ _ ?_
    with_reducible assumption
  ·
    refine KeepsF.waits ?_
    with_reducible assumption

theorem beginMove_keeps (hg : Free 6656 g) : ∀ a0 a1 a2 a3 s, Keeps g s0 s → Keeps g s0 (beginMove a0 a1 a2 a3 s) := by
  intro a0 a1 a2 a3 s h
  unfold beginMove
  refine startMove_keeps (hg.sub rfl) _ _ _ _ _ _ ?_
  with_reducible assumption

theorem demandEvict_keeps (hg : Free 6656 g) : ∀ a0 a1 a2 s, Keeps g s0 s → Keeps g s0 (demandEvict a0 a1 a2 s) := by
  intro a0 a1 a2 s h
  unfold demandEvict
  extract_lets +onlyGivenNames v1
  clear_value v1
  refine beginMove_keeps (hg.sub rfl) _ _ _ _ _ ?_
  refine keeps_store (s := s) 4096 (hg.sub rfl) ?_ (.inl rfl) (.inr rfl) (fun m => m)
  with_reducible assumption

theorem evictFor_keeps (hg : Free 6656 g) : ∀ a0 a1 a2 a3 s, Keeps g s0 s → KeepsF g s0 (evictFor a0 a1 a2 a3 s) := by
  intro a0 a1 a2 a3 s h
  unfold evictFor
  split
  ·
    rename_i y1 y2
    refine KeepsF.waits ?_
    with_reducible assumption
  ·
    rename_i y3 y4 y5
    extract_lets +onlyGivenNames v6
    refine Keeps.cut (g := g) (s0 := s0) v6 ?_ (fun h7 => ?_)
    ·
      unfold v6
      refine demandEvict_keeps (hg.sub rfl) _ _ _ _ ?_
      with_reducible assumption
    clear_value v6
    refine @keeps_ite _ (KeepsF g s0) _ _ _ _ ?_ ?_
    ·
      refine takeFrame_keeps (hg.sub rfl) _ _ _ _ _ ?_
      with_reducible assumption
    ·
      refine KeepsF.waits ?_
      with_reducible assumption

theorem placePage_keeps (hg : Free 6656 g) : ∀ a0 a1 a2 s a4, Keeps g s0 s → KeepsF g s0 (placePage a0 a1 a2 s a4) := by
  intro a0 a1 a2 s a4 h
  unfold placePage
  split
  ·
    rename_i y1 y2 y3 y4
    refine takeFrame_keeps (hg.sub rfl) _ _ _ _ _ ?_
    with_reducible assumption
  ·
    rename_i y5 y6 y7
    refine evictFor_keeps (hg.sub rfl) _ _ _ _ _ ?_
    with_reducible assumption
  ·
    rename_i y8 y9
    refine @keeps_ite _ (KeepsF g s0) _ _ _ _ ?_ ?_
    ·
      refine KeepsF.waits ?_
      with_reducible assumption
    ·
      exact KeepsF.pinned

theorem beginFill_keeps (hg : Free 6656 g) : ∀ a0 a1 s, Keeps g s0 s → KeepsF g s0 (beginFill a0 a1 s) := by
  intro a0 a1 s h
  unfold beginFill
  extract_lets +onlyGivenNames v1 v2
  clear_value v1
  clear_value v2
  refine placePage_keeps (hg.sub rfl) _ _ _ _ _ ?_
  with_reducible assumption

theorem park_keeps (hg : Free 2048 g) : ∀ a0 a1 s, Keeps g s0 s → Keeps g s0 (park a0 a1 s) := by
  intro a0 a1 s h
  unfold park
  refine keeps_weir (s := s) 2048 (hg.sub rfl) ?_ (.inr rfl) (.inl rfl)
  with_reducible assumption

theorem needPlain_keeps (hg : Free 134290176 g) : ∀ a0 a1 s, Keeps g s0 s → Keeps g s0 (needPlain a0 a1 s) := by
  intro a0 a1 s h
  unfold needPlain
  extract_lets +onlyGivenNames v1
  clear_value v1
  split
  ·
    rename_i y2 y3 y4
    refine Keeps.cut (g := g) (s0 := s0) y3 (KeepsF.of_begun ?_ y4) (fun h5 => ?_)
    ·
      refine beginFill_keeps (hg.sub rfl) _ _ _ ?_
      with_reducible assumption
    refine park_keeps (hg.sub rfl) _ _ _ ?_
    with_reducible assumption
  ·
    rename_i y6 y7 y8
    refine Keeps.cut (g := g) (s0 := s0) y7 (KeepsF.of_waits ?_ y8) (fun h9 => ?_)
    ·
      refine beginFill_keeps (hg.sub rfl) _ _ _ ?_
      with_reducible assumption
    refine park_keeps (hg.sub rfl) _ _ _ ?_
    refine keeps_store (s := y7) 4096 (hg.sub rfl) ?_ (.inl rfl) (.inr rfl) (fun m => m)
    with_reducible assumption
  ·
    rename_i y10 y11
    refine complete_keeps (hg.sub rfl) _ _ _ _ ?_
    refine logEv_keeps (hg.sub rfl) _ _ _ _ _ _ _ ?_
    with_reducible assumption

theorem programUnit_keeps (hg : Free 32 g) : ∀ a0 a1 s, Keeps g s0 s → Keeps g s0 (programUnit a0 a1 s) := by
  intro a0 a1 s h
  unfold programUnit
  extract_lets +onlyGivenNames v1 v2 v3 v4 v5
  clear_value v1
  clear_value v2
  clear_value v3
  refine keeps_nv (s := s) 32 (hg.sub rfl) ?_ (.inr rfl) (.inr rfl) (.inr rfl) (.inl rfl) (fun m => ⟨m.1, (Memory.writeN_wf m.2.1 _ _), (Memory.without_wf m.2.2 _ _)⟩)
  with_reducible assumption

theorem writeBackUnit_keeps (hg : Free 32 g) : ∀ a0 s, Keeps g s0 s → Keeps g s0 (writeBackUnit a0 s) := by
  intro a0 s h
  unfold writeBackUnit
  refine programUnit_keeps (hg.sub rfl) _ _ _ ?_
  with_reducible assumption

theorem cleanUnit_keeps (hg : Free 4128 g) : ∀ a0 s, Keeps g s0 s → Keeps g s0 (cleanUnit a0 s) := by
  intro a0 s h
  unfold cleanUnit
  refine @keeps_ite _ (Keeps g s0) _ _ _ _ ?_ ?_
  ·
    with_reducible assumption
  ·
    refine writeBackUnit_keeps (hg.sub rfl) _ _ ?_
    refine updTier_keeps (hg.sub rfl) _ _ _ ?_
    refine keeps_store (s := s) 4096 (hg.sub rfl) ?_ (.inl rfl) (.inr rfl) (fun m => m)
    with_reducible assumption

theorem writeBackPage_keeps (hg : Free 4128 g) : ∀ a0 s, Keeps g s0 s → Keeps g s0 (writeBackPage a0 s) := by
  intro a0 s h
  unfold writeBackPage
  extract_lets +onlyGivenNames v1 v2
  refine Keeps.cut (g := g) (s0 := s0) v1 ?_ (fun h3 => ?_)
  ·
    unfold v1
    refine keeps_foldl (P := Keeps g s0) (fun b4 x5 h6 => ?_) _ _ ?_
    ·
      refine cleanUnit_keeps (hg.sub rfl) _ _ ?_
      with_reducible assumption
    ·
      with_reducible assumption
  clear_value v1
  clear_value v2
  refine keeps_nv (s := v1) 32 (hg.sub rfl) ?_ (.inr rfl) (.inr rfl) (.inr rfl) (.inl rfl) (fun m => m)
  with_reducible assumption

theorem failingPinned_keeps (hg : Free 402657536 g) : ∀ a0 a1 a2 s, Keeps g s0 s → Keeps g s0 (failingPinned a0 a1 a2 s) := by
  intro a0 a1 a2 s h
  unfold failingPinned
  extract_lets +onlyGivenNames v1 v2
  refine Keeps.cut (g := g) (s0 := s0) v2 ?_ (fun h3 => ?_)
  ·
    unfold v2
    refine keeps_store (s := s) 4096 (hg.sub rfl) ?_ (.inl rfl) (.inr rfl) (fun m => m)
    with_reducible assumption
  clear_value v2
  extract_lets +onlyGivenNames v4
  clear_value v4
  refine @keeps_ite _ (Keeps g s0) _ _ _ _ ?_ ?_
  ·
    with_reducible assumption
  ·
    split
    ·
      rename_i y5 y6 y7 y8
      refine Keeps.cut (g := g) (s0 := s0) y7 (Keeps2.of_eq ?_ y8) (fun h9 => ?_)
      ·
        refine takeWord_keeps (hg.sub rfl) _ ?_
        refine updPty_keeps (hg.sub rfl) _ _ _ ?_
        with_reducible assumption
      refine errorEntry_keeps (hg.sub rfl) _ _ _ _ _ _ ?_
      with_reducible assumption

theorem putUnit_keeps (hg : Free 1073741824 g) : ∀ a0 a1 s, Keeps g s0 s → Keeps g s0 (putUnit a0 a1 s) := by
  intro a0 a1 s h
  unfold putUnit
  refine keeps_store (s := s) 1073741824 (hg.sub rfl) ?_ (.inr rfl) (.inl rfl) (fun m => ⟨(Memory.writeN_wf m.1 _ _), m.2.1, m.2.2⟩)
  with_reducible assumption

theorem returnAway_keeps (hg : Free 6656 g) : ∀ s, Keeps g s0 s → Keeps g s0 (returnAway s) := by
  intro s h
  unfold returnAway
  refine keeps_foldl (P := Keeps g s0) (fun b1 x2 h3 => ?_) _ _ ?_
  ·
    extract_lets +onlyGivenNames v4
    clear_value v4
    split
    ·
      rename_i y5 y6 y7
      refine @keeps_ite _ (Keeps g s0) _ _ _ _ ?_ ?_
      ·
        refine beginMove_keeps (hg.sub rfl) _ _ _ _ _ ?_
        with_reducible assumption
      ·
        with_reducible assumption
    ·
      rename_i y8 y9
      with_reducible assumption
  ·
    with_reducible assumption

theorem vacate_keeps (hg : Free 6656 g) : ∀ a0 s, Keeps g s0 s → Keeps g s0 (vacate a0 s) := by
  intro a0 s h
  unfold vacate
  extract_lets +onlyGivenNames v1 v2
  clear_value v1
  clear_value v2
  refine @keeps_ite _ (Keeps g s0) _ _ _ _ ?_ ?_
  ·
    with_reducible assumption
  ·
    split
    ·
      rename_i y3 y4 y5 y6
      refine @keeps_ite _ (Keeps g s0) _ _ _ _ ?_ ?_
      ·
        refine beginMove_keeps (hg.sub rfl) _ _ _ _ _ ?_
        with_reducible assumption
      ·
        with_reducible assumption
    ·
      rename_i y7 y8
      refine beginMove_keeps (hg.sub rfl) _ _ _ _ _ ?_
      with_reducible assumption

theorem bring_keeps (hg : Free 6656 g) : ∀ a0 a1 s, Keeps g s0 s → Keeps g s0 (bring a0 a1 s) := by
  intro a0 a1 s h
  unfold bring
  split
  ·
    rename_i y1 y2
    split
    ·
      rename_i y3 y4 y5
      refine Keeps.cut (g := g) (s0 := s0) y4 (KeepsF.of_begun ?_ y5) (fun h6 => ?_)
      ·
        refine beginFill_keeps (hg.sub rfl) _ _ _ ?_
        with_reducible assumption
      with_reducible assumption
    ·
      rename_i y7 y8 y9
      refine Keeps.cut (g := g) (s0 := s0) y8 (KeepsF.of_waits ?_ y9) (fun h10 => ?_)
      ·
        refine beginFill_keeps (hg.sub rfl) _ _ _ ?_
        with_reducible assumption
      refine keeps_store (s := y8) 4096 (hg.sub rfl) ?_ (.inl rfl) (.inr rfl) (fun m => m)
      with_reducible assumption
    ·
      rename_i y11 y12
      refine keeps_store (s := s) 4096 (hg.sub rfl) ?_ (.inl rfl) (.inr rfl) (fun m => m)
      with_reducible assumption
  ·
    rename_i y13 y14
    split
    ·
      rename_i y15 y16 y17
      refine Keeps.cut (g := g) (s0 := s0) y16 (KeepsF.of_begun ?_ y17) (fun h18 => ?_)
      ·
        refine beginFill_keeps (hg.sub rfl) _ _ _ ?_
        with_reducible assumption
      with_reducible assumption
    ·
      rename_i y19 y20 y21
      refine Keeps.cut (g := g) (s0 := s0) y20 (KeepsF.of_waits ?_ y21) (fun h22 => ?_)
      ·
        refine beginFill_keeps (hg.sub rfl) _ _ _ ?_
        with_reducible assumption
      refine keeps_store (s := y20) 4096 (hg.sub rfl) ?_ (.inl rfl) (.inr rfl) (fun m => m)
      with_reducible assumption
    ·
      rename_i y23 y24
      refine keeps_store (s := s) 4096 (hg.sub rfl) ?_ (.inl rfl) (.inr rfl) (fun m => m)
      with_reducible assumption
  ·
    rename_i y25 y26 y27
    with_reducible assumption

theorem retryWork_keeps (hg : Free 6656 g) : ∀ s, Keeps g s0 s → Keeps g s0 (retryWork s) := by
  intro s h
  unfold retryWork
  extract_lets +onlyGivenNames v1 v2 v3
  clear_value v1
  refine Keeps.cut (g := g) (s0 := s0) v3 ?_ (fun h4 => ?_)
  ·
    unfold v3
    refine keeps_foldl (P := Keeps g s0) (fun b5 x6 h7 => ?_) _ _ ?_
    ·
      refine bring_keeps (hg.sub rfl) _ _ _ ?_
      with_reducible assumption
    ·
      refine keeps_store (s := s) 4096 (hg.sub rfl) ?_ (.inl rfl) (.inr rfl) (fun m => m)
      with_reducible assumption
  clear_value v3
  extract_lets +onlyGivenNames v8
  clear_value v8
  refine keeps_foldl (P := Keeps g s0) (fun b9 x10 h11 => ?_) _ _ ?_
  ·
    refine vacate_keeps (hg.sub rfl) _ _ ?_
    with_reducible assumption
  ·
    with_reducible assumption

theorem goOn_keeps (hg : Free 6656 g) : ∀ s, Keeps g s0 s → Keeps g s0 (goOn s) := by
  intro s h
  unfold goOn
  refine returnAway_keeps (hg.sub rfl) _ ?_
  refine retryWork_keeps (hg.sub rfl) _ ?_
  with_reducible assumption

theorem poisonLines_keeps (hg : Free 4096 g) : ∀ a0 s, Keeps g s0 s → Keeps g s0 (poisonLines a0 s) := by
  intro a0 s h
  unfold poisonLines
  extract_lets +onlyGivenNames v1
  extract_lets +onlyGivenNames v2
  refine Keeps.cut (g := g) (s0 := s0) v2 ?_ (fun h3 => ?_)
  ·
    unfold v2
    refine keeps_store (s := s) 4096 (hg.sub rfl) ?_ (.inl rfl) (.inr rfl) (fun m => m)
    with_reducible assumption
  clear_value v2
  refine keeps_foldl (P := Keeps g s0) (fun b4 x5 h6 => ?_) _ _ ?_
  ·
    refine refreshPoisoned_keeps (hg.sub rfl) _ _ ?_
    with_reducible assumption
  ·
    with_reducible assumption

theorem retirementAlarm_keeps (hg : Free 65536 g) : ∀ a0 s, Keeps g s0 s → Keeps g s0 (retirementAlarm a0 s) := by
  intro a0 s h
  unfold retirementAlarm
  extract_lets +onlyGivenNames v1 v2 v3
  clear_value v1
  clear_value v2
  clear_value v3
  refine noteLevel_keeps (hg.sub rfl) _ _ _ _ ?_
  with_reducible assumption

theorem retire_keeps (hg : Free 69632 g) : ∀ a0 a1 s, Keeps g s0 s → Keeps g s0 (retire a0 a1 s) := by
  intro a0 a1 s h
  unfold retire
  refine retirementAlarm_keeps (hg.sub rfl) _ _ ?_
  refine keeps_store (s := s) 4096 (hg.sub rfl) ?_ (.inl rfl) (.inr rfl) (fun m => m)
  with_reducible assumption

theorem retireFrame_keeps (hg : Free 402725632 g) : ∀ a0 a1 s, Keeps g s0 s → Keeps g s0 (retireFrame a0 a1 s) := by
  intro a0 a1 s h
  unfold retireFrame
  split
  ·
    rename_i y1 y2 y3 y4
    refine @keeps_ite _ (Keeps g s0) _ _ _ _ ?_ ?_
    ·
      refine failingPinned_keeps (hg.sub rfl) _ _ _ _ ?_
      with_reducible assumption
    ·
      refine vacate_keeps (hg.sub rfl) _ _ ?_
      refine retire_keeps (hg.sub rfl) _ _ _ ?_
      with_reducible assumption
  ·
    rename_i y5 y6
    refine retire_keeps (hg.sub rfl) _ _ _ ?_
    with_reducible assumption

theorem failRowAt_keeps (hg : Free 402725664 g) : ∀ a0 a1 a2 s, Keeps g s0 s → Keeps g s0 (failRowAt a0 a1 a2 s) := by
  intro a0 a1 a2 s h
  unfold failRowAt
  extract_lets +onlyGivenNames v1 v2 v3
  clear_value v1
  refine Keeps.cut (g := g) (s0 := s0) v2 ?_ (fun h4 => ?_)
  ·
    unfold v2
    refine logEv_keeps (hg.sub rfl) _ _ _ _ _ _ _ ?_
    with_reducible assumption
  clear_value v2
  extract_lets +onlyGivenNames v5
  refine Keeps.cut (g := g) (s0 := s0) v5 ?_ (fun h6 => ?_)
  ·
    unfold v5
    refine @keeps_ite _ (Keeps g s0) _ _ _ _ ?_ ?_
    ·
      refine keeps_nv (s := v2) 32 (hg.sub rfl) ?_ (.inr rfl) (.inr rfl) (.inr rfl) (.inl rfl) (fun m => m)
      with_reducible assumption
    ·
      with_reducible assumption
  clear_value v5
  refine keeps_foldl (P := Keeps g s0) (fun b7 x8 h9 => ?_) _ _ ?_
  ·
    refine retireFrame_keeps (hg.sub rfl) _ _ _ ?_
    with_reducible assumption
  ·
    with_reducible assumption

theorem failLine_keeps (hg : Free 402725664 g) : ∀ a0 s, Keeps g s0 s → Keeps g s0 (failLine a0 s) := by
  intro a0 s h
  unfold failLine
  extract_lets +onlyGivenNames v1
  clear_value v1
  split
  ·
    rename_i y2 y3 y4 y5 y6
    refine @keeps_ite _ (Keeps g s0) _ _ _ _ ?_ ?_
    ·
      with_reducible assumption
    ·
      split
      ·
        rename_i y7 y8 y9 y10
        refine Keeps.cut (g := g) (s0 := s0) y9 (Keeps2.of_eq ?_ y10) (fun h11 => ?_)
        ·
          refine takeWord_keeps (hg.sub rfl) _ ?_
          with_reducible assumption
        refine failRowAt_keeps (hg.sub rfl) _ _ _ _ ?_
        with_reducible assumption
  ·
    rename_i y12 y13 y14
    with_reducible assumption

theorem applyEcc_keeps (hg : Free 402725664 g) : ∀ a0 a1 s, Keeps g s0 s → Keeps g s0 (applyEcc a0 a1 s) := by
  intro a0 a1 s h
  unfold applyEcc
  extract_lets +onlyGivenNames v1 v2
  clear_value v1
  extract_lets +onlyGivenNames v3
  refine Keeps.cut (g := g) (s0 := s0) v3 ?_ (fun h4 => ?_)
  ·
    unfold v3
    refine keeps_store (s := s) 4096 (hg.sub rfl) ?_ (.inl rfl) (.inr rfl) (fun m => m)
    with_reducible assumption
  clear_value v3
  refine keeps_foldl (P := Keeps g s0) (fun b5 x6 h7 => ?_) _ _ ?_
  ·
    refine failLine_keeps (hg.sub rfl) _ _ ?_
    with_reducible assumption
  ·
    refine poisonLines_keeps (hg.sub rfl) _ _ ?_
    with_reducible assumption

theorem waitMoving_keeps (hg : Free 2048 g) : ∀ a0 s, Keeps g s0 s → Keeps g s0 (waitMoving a0 s) := by
  intro a0 s h
  unfold waitMoving
  refine keeps_weir (s := s) 2048 (hg.sub rfl) ?_ (.inr rfl) (.inl rfl)
  with_reducible assumption

theorem markDirtyUnits_keeps (hg : Free 4096 g) : ∀ a0 s, Keeps g s0 s → Keeps g s0 (markDirtyUnits a0 s) := by
  intro a0 s h
  unfold markDirtyUnits
  refine keeps_foldl (P := Keeps g s0) (fun b1 x2 h3 => ?_) _ _ ?_
  ·
    refine updTier_keeps (hg.sub rfl) _ _ _ ?_
    with_reducible assumption
  ·
    with_reducible assumption

theorem setMirrorBits_keeps (hg : Free 32768 g) : ∀ a0 a1 s, Keeps g s0 s → Keeps g s0 (setMirrorBits a0 a1 s) := by
  intro a0 a1 s h
  unfold setMirrorBits
  refine keeps_foldl (P := Keeps g s0) (fun b1 x2 h3 => ?_) _ _ ?_
  ·
    extract_lets +onlyGivenNames v4
    clear_value v4
    refine @keeps_ite _ (Keeps g s0) _ _ _ _ ?_ ?_
    ·
      with_reducible assumption
    ·
      extract_lets +onlyGivenNames v5 v6
      clear_value v5
      clear_value v6
      refine keeps_sluice (s := b1) (hg.sub rfl) ?_
      with_reducible assumption
  ·
    with_reducible assumption

theorem markDurable_keeps (hg : Free 4096 g) : ∀ a0 a1 s, Keeps g s0 s → Keeps g s0 (markDurable a0 a1 s) := by
  intro a0 a1 s h
  unfold markDurable
  refine keeps_foldl (P := Keeps g s0) (fun b1 x2 h3 => ?_) _ _ ?_
  ·
    extract_lets +onlyGivenNames v4
    refine Keeps.cut (g := g) (s0 := s0) v4 ?_ (fun h5 => ?_)
    ·
      unfold v4
      refine updTier_keeps (hg.sub rfl) _ _ _ ?_
      with_reducible assumption
    clear_value v4
    refine @keeps_ite _ (Keeps g s0) _ _ _ _ ?_ ?_
    ·
      with_reducible assumption
    ·
      refine keeps_store (s := v4) 4096 (hg.sub rfl) ?_ (.inl rfl) (.inr rfl) (fun m => m)
      with_reducible assumption
  ·
    with_reducible assumption

theorem writeMem_keeps (hg : Free 1073778688 g) : ∀ a0 a1 s, Keeps g s0 s → Keeps g s0 (writeMem a0 a1 s) := by
  intro a0 a1 s h
  unfold writeMem
  extract_lets +onlyGivenNames v1
  extract_lets +onlyGivenNames v2
  refine Keeps.cut (g := g) (s0 := s0) v2 ?_ (fun h3 => ?_)
  ·
    unfold v2
    refine keeps_store (s := s) 1073741824 (hg.sub rfl) ?_ (.inr rfl) (.inl rfl) (fun m => ⟨(Memory.writeN_wf m.1 _ _), m.2.1, m.2.2⟩)
    with_reducible assumption
  clear_value v2
  refine setMirrorBits_keeps (hg.sub rfl) _ _ _ ?_
  refine markDirtyUnits_keeps (hg.sub rfl) _ _ ?_
  with_reducible assumption

theorem writeLines_keeps (hg : Free 1073778688 g) : ∀ a0 a1 s, Keeps g s0 s → Keeps2 g s0 (writeLines a0 a1 s) := by
  intro a0 a1 s h
  unfold writeLines
  extract_lets +onlyGivenNames v1
  clear_value v1
  refine @keeps_ite _ (Keeps2 g s0) _ _ _ _ ?_ ?_
  ·
    refine Keeps2.mk ?_
    with_reducible assumption
  ·
    extract_lets +onlyGivenNames v2 v3
    clear_value v2
    refine Keeps.cut (g := g) (s0 := s0) v3 ?_ (fun h4 => ?_)
    ·
      unfold v3
      refine clearPoison_keeps (hg.sub rfl) _ _ ?_
      with_reducible assumption
    clear_value v3
    refine @keeps_ite _ (Keeps2 g s0) _ _ _ _ ?_ ?_
    ·
      refine Keeps2.mk ?_
      refine writeMem_keeps (hg.sub rfl) _ _ _ ?_
      with_reducible assumption
    ·
      extract_lets +onlyGivenNames v5
      refine Keeps.cut (g := g) (s0 := s0) v5 ?_ (fun h6 => ?_)
      ·
        unfold v5
        refine keeps_foldl (P := Keeps g s0) (fun b7 x8 h9 => ?_) _ _ ?_
        ·
          refine @keeps_ite _ (Keeps g s0) _ _ _ _ ?_ ?_
          ·
            with_reducible assumption
          ·
            extract_lets +onlyGivenNames v10 v11
            clear_value v10
            clear_value v11
            refine writeMem_keeps (hg.sub rfl) _ _ _ ?_
            with_reducible assumption
        ·
          with_reducible assumption
      clear_value v5
      refine Keeps2.mk ?_
      with_reducible assumption

theorem needStill_keeps (hg : Free 2048 g) : ∀ a0 a1 s, Keeps g s0 s → Keeps g s0 (needStill a0 a1 s) := by
  intro a0 a1 s h
  unfold needStill
  refine @keeps_ite _ (Keeps g s0) _ _ _ _ ?_ ?_
  ·
    refine park_keeps (hg.sub rfl) _ _ _ ?_
    with_reducible assumption
  ·
    refine waitMoving_keeps (hg.sub rfl) _ _ ?_
    with_reducible assumption

theorem onPage_keeps (hg : Free 134290176 g) : ∀ a0 a1 s, (∀ t, Keeps g s0 t → Keeps g s0 (a1 t)) → Keeps g s0 s → Keeps g s0 (onPage a0 a1 s) := by
  intro a0 a1 s hk0 h
  unfold onPage
  extract_lets +onlyGivenNames v1
  clear_value v1
  split
  ·
    rename_i y2 y3
    refine hk0 _ ?_
    with_reducible assumption
  ·
    rename_i y4 y5
    refine @keeps_ite _ (Keeps g s0) _ _ _ _ ?_ ?_
    ·
      refine needPlain_keeps (hg.sub rfl) _ _ _ ?_
      with_reducible assumption
    ·
      refine hk0 _ ?_
      with_reducible assumption
  ·
    rename_i y6 y7
    refine needPlain_keeps (hg.sub rfl) _ _ _ ?_
    with_reducible assumption
  ·
    rename_i y8 y9
    refine needStill_keeps (hg.sub rfl) _ _ _ ?_
    with_reducible assumption

theorem countAccess_keeps (hg : Free 4096 g) : ∀ a0 a1 s, Keeps g s0 s → Keeps g s0 (countAccess a0 a1 s) := by
  intro a0 a1 s h
  unfold countAccess
  refine @keeps_ite _ (Keeps g s0) _ _ _ _ ?_ ?_
  ·
    with_reducible assumption
  ·
    refine updTier_keeps (hg.sub rfl) _ _ _ ?_
    with_reducible assumption

theorem countRange_keeps (hg : Free 4096 g) : ∀ a0 a1 a2 s, Keeps g s0 s → Keeps g s0 (countRange a0 a1 a2 s) := by
  intro a0 a1 a2 s h
  unfold countRange
  refine keeps_foldl (P := Keeps g s0) (fun b1 x2 h3 => ?_) _ _ ?_
  ·
    refine countAccess_keeps (hg.sub rfl) _ _ _ ?_
    with_reducible assumption
  ·
    with_reducible assumption

theorem setDurMap_keeps (hg : Free 32 g) : ∀ a0 a1 s, Keeps g s0 s → Keeps g s0 (setDurMap a0 a1 s) := by
  intro a0 a1 s h
  unfold setDurMap
  refine keeps_nv (s := s) 32 (hg.sub rfl) ?_ (.inr rfl) (.inr rfl) (.inr rfl) (.inl rfl) (fun m => m)
  with_reducible assumption

end Sys2Proof.Safety
end

