-- ==== Sys2Proof/Laws/KeepsCoherence.lean ====
section
/-!
SUPPORT. Which parts of the state each operation keeps: coherence, translation and accesses of the Shufel itself.
-/
namespace Sys2Proof.Safety

open Sys2Proof Sys2Proof.Machine

set_option Elab.async false

variable {g : Part} {s0 : State}

theorem confEntry_keeps (hg : Free 2147483648 g) : ∀ a0 a1 s, Keeps g s0 s → Keeps g s0 (confEntry a0 a1 s) := by
  intro a0 a1 s h
  unfold confEntry
  refine updLink_keeps (hg.sub rfl) _ _ _ ?_
  with_reducible assumption

theorem updDomain_keeps (hg : Free 16384 g) : ∀ a0 a1 s, Keeps g s0 s → Keeps g s0 (updDomain a0 a1 s) := by
  intro a0 a1 s h
  unfold updDomain
  refine keeps_coh (s := s) (hg.sub rfl) ?_
  with_reducible assumption

theorem endTakedown_keeps (hg : Free 88064 g) : ∀ a0 s, Keeps g s0 s → Keeps g s0 (endTakedown a0 s) := by
  intro a0 s h
  unfold endTakedown
  split
  ·
    rename_i y1 y2
    with_reducible assumption
  ·
    rename_i y3 y4 y5
    refine @keeps_ite _ (Keeps g s0) _ _ _ _ ?_ ?_
    ·
      with_reducible assumption
    ·
      extract_lets +onlyGivenNames v6 v7 v8 v9 v10 v11
      clear_value v6
      clear_value v7
      clear_value v8
      clear_value v9
      refine Keeps.cut (g := g) (s0 := s0) v10 ?_ (fun h12 => ?_)
      ·
        unfold v10
        refine toPipeFront_keeps (hg.sub rfl) _ _ ?_
        refine keeps_coh (s := s) (hg.sub rfl) ?_
        with_reducible assumption
      clear_value v10
      refine Keeps.cut (g := g) (s0 := s0) v11 ?_ (fun h13 => ?_)
      ·
        unfold v11
        refine poisonLines_keeps (hg.sub rfl) _ _ ?_
        with_reducible assumption
      clear_value v11
      extract_lets +onlyGivenNames v14
      refine Keeps.cut (g := g) (s0 := s0) v14 ?_ (fun h15 => ?_)
      ·
        unfold v14
        refine updDomain_keeps (hg.sub rfl) _ _ _ ?_
        with_reducible assumption
      clear_value v14
      refine logEv_keeps (hg.sub rfl) _ _ _ _ _ _ _ ?_
      with_reducible assumption

theorem waitLine_keeps (hg : Free 16384 g) : ∀ a0 s, Keeps g s0 s → Keeps g s0 (waitLine a0 s) := by
  intro a0 s h
  unfold waitLine
  extract_lets +onlyGivenNames v1
  refine keeps_coh (s := s) (hg.sub rfl) ?_
  with_reducible assumption

theorem sendSnoop_keeps (hg : Free 512 g) : ∀ a0 a1 a2 a3 s, Keeps g s0 s → Keeps g s0 (sendSnoop a0 a1 a2 a3 s) := by
  intro a0 a1 a2 a3 s h
  unfold sendSnoop
  extract_lets +onlyGivenNames v1
  clear_value v1
  split
  ·
    rename_i y2 y3 y4
    refine sendOn_keeps (hg.sub rfl) _ _ _ ?_
    with_reducible assumption
  ·
    rename_i y5 y6
    with_reducible assumption

theorem snoopPartner_keeps (hg : Free 512 g) : ∀ a0 a1 a2 a3 a4 s, Keeps g s0 s → Keeps g s0 (snoopPartner a0 a1 a2 a3 a4 s) := by
  intro a0 a1 a2 a3 a4 s h
  unfold snoopPartner
  refine sendOn_keeps (hg.sub rfl) _ _ _ ?_
  with_reducible assumption

theorem relaySnoop_keeps (hg : Free 135283200 g) : ∀ a0 a1 a2 a3 a4 s, Keeps g s0 s → Keeps2 g s0 (relaySnoop a0 a1 a2 a3 a4 s) := by
  intro a0 a1 a2 a3 a4 s h
  unfold relaySnoop
  extract_lets +onlyGivenNames v1 v2 v3
  clear_value v1
  clear_value v2
  clear_value v3
  extract_lets +onlyGivenNames v4
  refine Keeps.cut (g := g) (s0 := s0) v4 ?_ (fun h5 => ?_)
  ·
    unfold v4
    refine keeps_coh (s := s) (hg.sub rfl) ?_
    with_reducible assumption
  clear_value v4
  refine @keeps_ite _ (Keeps2 g s0) _ _ _ _ ?_ ?_
  ·
    refine Keeps2.mk ?_
    with_reducible assumption
  ·
    refine @keeps_ite _ (Keeps2 g s0) _ _ _ _ ?_ ?_
    ·
      refine Keeps2.mk ?_
      refine keeps_foldl (P := Keeps g s0) (fun b6 x7 h8 => ?_) _ _ ?_
      ·
        refine emit_keeps (hg.sub rfl) _ _ ?_
        refine updHost_keeps (hg.sub rfl) _ _ _ ?_
        with_reducible assumption
      ·
        with_reducible assumption
    ·
      split
      ·
        rename_i y9 y10
        refine Keeps2.mk ?_
        with_reducible assumption
      ·
        rename_i y11 y12 y13
        refine Keeps2.mk ?_
        refine keeps_foldl (P := Keeps g s0) (fun b14 x15 h16 => ?_) _ _ ?_
        ·
          refine snoopPartner_keeps (hg.sub rfl) _ _ _ _ _ _ ?_
          with_reducible assumption
        ·
          with_reducible assumption

theorem snoopMembers_keeps (hg : Free 135283200 g) : ∀ a0 a1 a2 a3 s, Keeps g s0 s → Keeps2 g s0 (snoopMembers a0 a1 a2 a3 s) := by
  intro a0 a1 a2 a3 s
  induction a3 generalizing a0 a1 a2 s
  ·
    intro h1
    unfold snoopMembers
    refine Keeps2.mk ?_
    with_reducible assumption
  ·
    rename_i y2 y3 y4
    intro h5
    unfold snoopMembers
    extract_lets +onlyGivenNames v6 v7 v8
    clear_value v6
    clear_value v7
    extract_lets +onlyGivenNames v9
    refine Keeps.cut (g := g) (s0 := s0) v9 ?_ (fun h10 => ?_)
    ·
      unfold v9
      refine keeps_net (s := s) 512 (hg.sub rfl) ?_ (.inl rfl) (.inr rfl)
      with_reducible assumption
    clear_value v9
    split
    ·
      rename_i y11 y12 y13 y14
      refine Keeps.cut (g := g) (s0 := s0) y13 (Keeps2.of_eq ?_ y14) (fun h15 => ?_)
      ·
        refine @keeps_ite _ (Keeps2 g s0) _ _ _ _ ?_ ?_
        ·
          refine relaySnoop_keeps (hg.sub rfl) _ _ _ _ _ _ ?_
          with_reducible assumption
        ·
          refine Keeps2.mk ?_
          refine sendSnoop_keeps (hg.sub rfl) _ _ _ _ _ ?_
          with_reducible assumption
      split
      ·
        rename_i y16 y17 y18 y19
        refine Keeps.cut (g := g) (s0 := s0) y18 (Keeps2.of_eq ?_ y19) (fun h20 => ?_)
        ·
          refine @keeps_ite _ (Keeps2 g s0) _ _ _ _ ?_ ?_
          ·
            refine Keeps2.mk ?_
            with_reducible assumption
          ·
            refine Keeps2.mk ?_
            refine keeps_coh (s := y13) (hg.sub rfl) ?_
            with_reducible assumption
        split
        ·
          rename_i y21 y22 y23 y24
          refine Keeps.cut (g := g) (s0 := s0) y23 (Keeps2.of_eq ?_ y24) (fun h25 => ?_)
          ·
            refine y4 _ _ _ _ ?_
            with_reducible assumption
          refine Keeps2.mk ?_
          with_reducible assumption

theorem updDir_keeps (hg : Free 16384 g) : ∀ a0 a1 s, Keeps g s0 s → Keeps g s0 (updDir a0 a1 s) := by
  intro a0 a1 s h
  unfold updDir
  refine keeps_coh (s := s) (hg.sub rfl) ?_
  with_reducible assumption

theorem openTxn_keeps (hg : Free 16384 g) : ∀ a0 a1 s, Keeps g s0 s → Keeps g s0 (openTxn a0 a1 s) := by
  intro a0 a1 s h
  unfold openTxn
  extract_lets +onlyGivenNames v1
  refine Keeps.cut (g := g) (s0 := s0) v1 ?_ (fun h2 => ?_)
  ·
    unfold v1
    refine updDir_keeps (hg.sub rfl) _ _ _ ?_
    with_reducible assumption
  clear_value v1
  refine keeps_coh (s := v1) (hg.sub rfl) ?_
  with_reducible assumption

theorem evictEntry_keeps (hg : Free 135283200 g) : ∀ a0 a1 s, Keeps g s0 s → Keeps g s0 (evictEntry a0 a1 s) := by
  intro a0 a1 s h
  unfold evictEntry
  extract_lets +onlyGivenNames v1 v2
  refine Keeps.cut (g := g) (s0 := s0) v2 ?_ (fun h3 => ?_)
  ·
    unfold v2
    refine keeps_net (s := s) 512 (hg.sub rfl) ?_ (.inl rfl) (.inr rfl)
    with_reducible assumption
  clear_value v2
  extract_lets +onlyGivenNames v4
  clear_value v4
  split
  ·
    rename_i y5 y6 y7 y8
    refine Keeps.cut (g := g) (s0 := s0) y7 (Keeps2.of_eq ?_ y8) (fun h9 => ?_)
    ·
      refine snoopMembers_keeps (hg.sub rfl) _ _ _ _ _ ?_
      with_reducible assumption
    refine openTxn_keeps (hg.sub rfl) _ _ _ ?_
    with_reducible assumption

theorem freeDir_keeps (hg : Free 16384 g) : ∀ a0 s, Keeps g s0 s → Keeps g s0 (freeDir a0 s) := by
  intro a0 s h
  unfold freeDir
  refine keeps_coh (s := s) (hg.sub rfl) ?_
  with_reducible assumption

theorem addNotices_keeps (hg : Free 16384 g) : ∀ a0 a1 a2 s, Keeps g s0 s → Keeps g s0 (addNotices a0 a1 a2 s) := by
  intro a0 a1 a2 s h
  unfold addNotices
  extract_lets +onlyGivenNames v1
  clear_value v1
  refine keeps_coh (s := s) (hg.sub rfl) ?_
  with_reducible assumption

theorem tryUp_keeps (hg : Free 82432 g) : ∀ a0 s, Keeps g s0 s → Keeps g s0 (tryUp a0 s) := by
  intro a0 s h
  unfold tryUp
  split
  ·
    rename_i y1 y2
    with_reducible assumption
  ·
    rename_i y3 y4 y5
    refine @keeps_ite _ (Keeps g s0) _ _ _ _ ?_ ?_
    ·
      extract_lets +onlyGivenNames v6 v7 v8
      refine Keeps.cut (g := g) (s0 := s0) v6 ?_ (fun h9 => ?_)
      ·
        unfold v6
        refine updDomain_keeps (hg.sub rfl) _ _ _ ?_
        with_reducible assumption
      clear_value v6
      clear_value v7
      clear_value v8
      refine logEv_keeps (hg.sub rfl) _ _ _ _ _ _ _ ?_
      refine keeps_net (s := v6) 512 (hg.sub rfl) ?_ (.inl rfl) (.inr rfl)
      with_reducible assumption
    ·
      with_reducible assumption

theorem takeJoin_keeps (hg : Free 82432 g) : ∀ a0 s, Keeps g s0 s → Keeps g s0 (takeJoin a0 s) := by
  intro a0 s h
  unfold takeJoin
  split
  ·
    rename_i y1 y2
    with_reducible assumption
  ·
    rename_i y3 y4 y5
    refine @keeps_ite _ (Keeps g s0) _ _ _ _ ?_ ?_
    ·
      refine tryUp_keeps (hg.sub rfl) _ _ ?_
      refine updDomain_keeps (hg.sub rfl) _ _ _ ?_
      with_reducible assumption
    ·
      with_reducible assumption

theorem relocate_keeps (hg : Free 135283200 g) : ∀ s, Keeps g s0 s → Keeps g s0 (relocate s) := by
  intro s h
  unfold relocate
  extract_lets +onlyGivenNames v1
  refine keeps_foldl (P := Keeps g s0) (fun b2 x3 h4 => ?_) _ _ ?_
  ·
    unfold v1
    extract_lets +onlyGivenNames v5 v6
    clear_value v5
    clear_value v6
    split
    ·
      rename_i y7 y8 y9
      refine updDir_keeps (hg.sub rfl) _ _ _ ?_
      with_reducible assumption
    ·
      rename_i y10 y11
      refine @keeps_ite _ (Keeps g s0) _ _ _ _ ?_ ?_
      ·
        with_reducible assumption
      ·
        refine evictEntry_keeps (hg.sub rfl) _ _ _ ?_
        with_reducible assumption
  ·
    with_reducible assumption

theorem removePort_keeps (hg : Free 2147549696 g) : ∀ a0 a1 s, Keeps g s0 s → Keeps g s0 (removePort a0 a1 s) := by
  intro a0 a1 s h
  unfold removePort
  extract_lets +onlyGivenNames v1 v2
  clear_value v1
  refine Keeps.cut (g := g) (s0 := s0) v2 ?_ (fun h3 => ?_)
  ·
    unfold v2
    refine keeps_foldl (P := Keeps g s0) (fun b4 x5 h6 => ?_) _ _ ?_
    ·
      refine logEv_keeps (hg.sub rfl) _ _ _ _ _ _ _ ?_
      refine updLink_keeps (hg.sub rfl) _ _ _ ?_
      with_reducible assumption
    ·
      with_reducible assumption
  clear_value v2
  refine keeps_net (s := v2) 2147484160 (hg.sub rfl) ?_ (.inl rfl) (.inl rfl)
  with_reducible assumption

theorem fallDomain_keeps (hg : Free 2281724672 g) : ∀ a0 a1 s, Keeps g s0 s → Keeps g s0 (fallDomain a0 a1 s) := by
  intro a0 a1 s h
  unfold fallDomain
  split
  ·
    rename_i y1 y2
    with_reducible assumption
  ·
    rename_i y3 y4 y5
    extract_lets +onlyGivenNames v6 v7 v8 v9 v10 v11 v12 v13 v14 v15 v16 v17 v18 v19 v20 v21 v22 v23 v24 v25 v26
    refine Keeps.cut (g := g) (s0 := s0) v6 ?_ (fun h27 => ?_)
    ·
      unfold v6
      refine updDomain_keeps (hg.sub rfl) _ _ _ ?_
      with_reducible assumption
    clear_value v6
    clear_value v7
    clear_value v8
    clear_value v9
    clear_value v10
    clear_value v11
    clear_value v12
    clear_value v13
    clear_value v14
    clear_value v15
    clear_value v16
    clear_value v17
    clear_value v18
    clear_value v19
    clear_value v20
    clear_value v21
    clear_value v25
    refine Keeps.cut (g := g) (s0 := s0) v26 ?_ (fun h28 => ?_)
    ·
      unfold v26
      refine keeps_update (s := v6) 2147506688 (hg.sub rfl) ?_ (.inr rfl) (.inr rfl) (.inr rfl) (.inr rfl) (.inr rfl) (.inr rfl) (.inr rfl) (.inr rfl) (.inr rfl) (.inl rfl) (.inr rfl) (.inl rfl) (.inl rfl) (.inr rfl) (.inl rfl) (.inr rfl) (.inr rfl) (.inr rfl) (.inr rfl) (.inr rfl) (.inr rfl) (.inr rfl) (.inr rfl) (.inr rfl) (.inr rfl) (.inr rfl) (.inr rfl) (.inr rfl) (.inr rfl) (.inr rfl) (.inr rfl) (.inl rfl) (.inr rfl) (.inr rfl) (fun m => m)
      with_reducible assumption
    clear_value v26
    extract_lets +onlyGivenNames v29 v30 v31 v32
    refine Keeps.cut (g := g) (s0 := s0) v29 ?_ (fun h33 => ?_)
    ·
      unfold v29
      refine toPipeFront_keeps (hg.sub rfl) _ _ ?_
      with_reducible assumption
    clear_value v29
    refine Keeps.cut (g := g) (s0 := s0) v30 ?_ (fun h34 => ?_)
    ·
      unfold v30
      refine keeps_foldl (P := Keeps g s0) (fun b35 x36 h37 => ?_) _ _ ?_
      ·
        refine confEntry_keeps (hg.sub rfl) _ _ _ ?_
        with_reducible assumption
      ·
        with_reducible assumption
    clear_value v30
    refine Keeps.cut (g := g) (s0 := s0) v31 ?_ (fun h38 => ?_)
    ·
      unfold v31
      refine keeps_foldl (P := Keeps g s0) (fun b39 x40 h41 => ?_) _ _ ?_
      ·
        refine complete_keeps (hg.sub rfl) _ _ _ _ ?_
        with_reducible assumption
      ·
        with_reducible assumption
    clear_value v31
    refine Keeps.cut (g := g) (s0 := s0) v32 ?_ (fun h42 => ?_)
    ·
      unfold v32
      refine keeps_foldl (P := Keeps g s0) (fun b43 x44 h45 => ?_) _ _ ?_
      ·
        refine complete_keeps (hg.sub rfl) _ _ _ _ ?_
        with_reducible assumption
      ·
        with_reducible assumption
    clear_value v32
    refine keeps_foldl (P := Keeps g s0) (fun b46 x47 h48 => ?_) _ _ ?_
    ·
      refine errorEntry_keeps (hg.sub rfl) _ _ _ _ _ _ ?_
      with_reducible assumption
    ·
      with_reducible assumption

theorem sendNotice_keeps (hg : Free 512 g) : ∀ a0 s, Keeps g s0 s → Keeps g s0 (sendNotice a0 s) := by
  intro a0 s h
  unfold sendNotice
  extract_lets +onlyGivenNames v1 v2
  clear_value v1
  clear_value v2
  split
  ·
    rename_i y3 y4 y5
    refine sendOn_keeps (hg.sub rfl) _ _ _ ?_
    with_reducible assumption
  ·
    rename_i y6 y7
    with_reducible assumption

theorem sendNotices_keeps (hg : Free 512 g) : ∀ s, Keeps g s0 s → Keeps g s0 (sendNotices s) := by
  intro s h
  unfold sendNotices
  refine keeps_foldl (P := Keeps g s0) (fun b1 x2 h3 => ?_) _ _ ?_
  ·
    refine sendNotice_keeps (hg.sub rfl) _ _ ?_
    with_reducible assumption
  ·
    with_reducible assumption

theorem declareDead_keeps (hg : Free 2281790208 g) : ∀ a0 a1 s, Keeps g s0 s → Keeps g s0 (declareDead a0 a1 s) := by
  intro a0 a1 s h
  unfold declareDead
  extract_lets +onlyGivenNames v1 v2 v3
  refine Keeps.cut (g := g) (s0 := s0) v1 ?_ (fun h4 => ?_)
  ·
    unfold v1
    refine logEv_keeps (hg.sub rfl) _ _ _ _ _ _ _ ?_
    with_reducible assumption
  clear_value v1
  clear_value v2
  refine Keeps.cut (g := g) (s0 := s0) v3 ?_ (fun h5 => ?_)
  ·
    unfold v3
    refine keeps_coh (s := v1) (hg.sub rfl) ?_
    with_reducible assumption
  clear_value v3
  extract_lets +onlyGivenNames v6
  refine Keeps.cut (g := g) (s0 := s0) v6 ?_ (fun h7 => ?_)
  ·
    unfold v6
    refine @keeps_ite _ (Keeps g s0) _ _ _ _ ?_ ?_
    ·
      split
      ·
        rename_i y8 y9 y10
        refine removePort_keeps (hg.sub rfl) _ _ _ ?_
        with_reducible assumption
      ·
        rename_i y11 y12
        with_reducible assumption
    ·
      with_reducible assumption
  clear_value v6
  split
  ·
    rename_i y13 y14
    with_reducible assumption
  ·
    rename_i y15 y16 y17
    extract_lets +onlyGivenNames v18
    refine Keeps.cut (g := g) (s0 := s0) v18 ?_ (fun h19 => ?_)
    ·
      unfold v18
      refine sendNotices_keeps (hg.sub rfl) _ ?_
      refine addNotices_keeps (hg.sub rfl) _ _ _ _ ?_
      with_reducible assumption
    clear_value v18
    refine @keeps_ite _ (Keeps g s0) _ _ _ _ ?_ ?_
    ·
      refine fallDomain_keeps (hg.sub rfl) _ _ _ ?_
      with_reducible assumption
    ·
      with_reducible assumption

theorem violation_keeps (hg : Free 2281790208 g) : ∀ a0 s, Keeps g s0 s → Keeps g s0 (violation a0 s) := by
  intro a0 s h
  unfold violation
  refine @keeps_ite _ (Keeps g s0) _ _ _ _ ?_ ?_
  ·
    with_reducible assumption
  ·
    refine declareDead_keeps (hg.sub rfl) _ _ _ ?_
    with_reducible assumption

theorem hotFill_keeps (hg : Free 16384 g) : ∀ a0 a1 s, Keeps g s0 s → Keeps g s0 (hotFill a0 a1 s) := by
  intro a0 a1 s h
  unfold hotFill
  extract_lets +onlyGivenNames v1 v2
  clear_value v1
  clear_value v2
  refine @keeps_ite _ (Keeps g s0) _ _ _ _ ?_ ?_
  ·
    with_reducible assumption
  ·
    extract_lets +onlyGivenNames v3 v4 v5
    clear_value v3
    clear_value v4
    clear_value v5
    refine keeps_coh (s := s) (hg.sub rfl) ?_
    with_reducible assumption

theorem addDir_keeps (hg : Free 16384 g) : ∀ a0 a1 a2 a3 a4 a5 a6 s, Keeps g s0 s → Keeps g s0 (addDir a0 a1 a2 a3 a4 a5 a6 s) := by
  intro a0 a1 a2 a3 a4 a5 a6 s h
  unfold addDir
  split
  ·
    rename_i y1 y2 y3 y4
    refine keeps_coh (s := s) (hg.sub rfl) ?_
    with_reducible assumption

theorem grantFresh_keeps (hg : Free 16384 g) : ∀ a0 a1 a2 a3 s, Keeps g s0 s → Keeps g s0 (grantFresh a0 a1 a2 a3 s) := by
  intro a0 a1 a2 a3 s h
  unfold grantFresh
  refine @keeps_ite _ (Keeps g s0) _ _ _ _ ?_ ?_
  ·
    refine addDir_keeps (hg.sub rfl) _ _ _ _ _ _ _ _ ?_
    with_reducible assumption
  ·
    refine addDir_keeps (hg.sub rfl) _ _ _ _ _ _ _ _ ?_
    with_reducible assumption

theorem finishTxn_keeps (hg : Free 1476516640 g) : ∀ a0 a1 a2 s, (∀ x0 t, Keeps g s0 t → Keeps g s0 (a0 x0 t)) → Keeps g s0 s → Keeps g s0 (finishTxn a0 a1 a2 s) := by
  intro a0 a1 a2 s hk0 h
  unfold finishTxn
  extract_lets +onlyGivenNames v1
  clear_value v1
  split
  ·
    rename_i y2 y3 y4 y5 y6 y7
    extract_lets +onlyGivenNames v8 v9 v10 v11
    clear_value v8
    clear_value v9
    clear_value v10
    refine Keeps.cut (g := g) (s0 := s0) v11 ?_ (fun h12 => ?_)
    ·
      unfold v11
      refine updDir_keeps (hg.sub rfl) _ _ _ ?_
      with_reducible assumption
    clear_value v11
    split
    ·
      rename_i y13 y14
      refine @keeps_ite _ (Keeps g s0) _ _ _ _ ?_ ?_
      ·
        refine complete_keeps (hg.sub rfl) _ _ _ _ ?_
        refine updDir_keeps (hg.sub rfl) _ _ _ ?_
        with_reducible assumption
      ·
        split
        ·
          rename_i y15 y16 y17 y18
          extract_lets +onlyGivenNames v19
          refine Keeps.cut (g := g) (s0 := s0) v19 ?_ (fun h20 => ?_)
          ·
            unfold v19
            refine applyEcc_keeps (hg.sub rfl) _ _ _ ?_
            with_reducible assumption
          clear_value v19
          refine @keeps_ite _ (Keeps g s0) _ _ _ _ ?_ ?_
          ·
            refine complete_keeps (hg.sub rfl) _ _ _ _ ?_
            refine @keeps_ite _ (Keeps g s0) _ _ _ _ ?_ ?_
            ·
              refine freeDir_keeps (hg.sub rfl) _ _ ?_
              with_reducible assumption
            ·
              with_reducible assumption
          ·
            refine @keeps_ite _ (Keeps g s0) _ _ _ _ ?_ ?_
            ·
              refine complete_keeps (hg.sub rfl) _ _ _ _ ?_
              refine updDir_keeps (hg.sub rfl) _ _ _ ?_
              with_reducible assumption
            ·
              refine @keeps_ite _ (Keeps g s0) _ _ _ _ ?_ ?_
              ·
                extract_lets +onlyGivenNames v21
                clear_value v21
                refine complete_keeps (hg.sub rfl) _ _ _ _ ?_
                refine grantFresh_keeps (hg.sub rfl) _ _ _ _ _ ?_
                refine freeDir_keeps (hg.sub rfl) _ _ ?_
                with_reducible assumption
              ·
                refine complete_keeps (hg.sub rfl) _ _ _ _ ?_
                refine updDir_keeps (hg.sub rfl) _ _ _ ?_
                with_reducible assumption
    ·
      rename_i y22 y23
      extract_lets +onlyGivenNames v24
      refine Keeps.cut (g := g) (s0 := s0) v24 ?_ (fun h25 => ?_)
      ·
        unfold v24
        split
        ·
          rename_i y26 y27 y28
          refine Keeps2.snd ?_
          refine writeLines_keeps (hg.sub rfl) _ _ _ ?_
          with_reducible assumption
        ·
          rename_i y29 y30
          with_reducible assumption
      clear_value v24
      split
      ·
        rename_i y31 y32 y33 y34
        extract_lets +onlyGivenNames v35
        refine Keeps.cut (g := g) (s0 := s0) v35 ?_ (fun h36 => ?_)
        ·
          unfold v35
          refine @keeps_ite _ (Keeps g s0) _ _ _ _ ?_ ?_
          ·
            refine applyEcc_keeps (hg.sub rfl) _ _ _ ?_
            with_reducible assumption
          ·
            with_reducible assumption
        clear_value v35
        refine @keeps_ite _ (Keeps g s0) _ _ _ _ ?_ ?_
        ·
          refine complete_keeps (hg.sub rfl) _ _ _ _ ?_
          with_reducible assumption
        ·
          refine complete_keeps (hg.sub rfl) _ _ _ _ ?_
          refine updDir_keeps (hg.sub rfl) _ _ _ ?_
          with_reducible assumption
    ·
      rename_i y37 y38
      extract_lets +onlyGivenNames v39
      refine Keeps.cut (g := g) (s0 := s0) v39 ?_ (fun h40 => ?_)
      ·
        unfold v39
        split
        ·
          rename_i y41 y42 y43
          refine Keeps2.snd ?_
          refine writeLines_keeps (hg.sub rfl) _ _ _ ?_
          with_reducible assumption
        ·
          rename_i y44 y45
          with_reducible assumption
      clear_value v39
      split
      ·
        rename_i y46 y47 y48 y49
        extract_lets +onlyGivenNames v50
        refine Keeps.cut (g := g) (s0 := s0) v50 ?_ (fun h51 => ?_)
        ·
          unfold v50
          refine @keeps_ite _ (Keeps g s0) _ _ _ _ ?_ ?_
          ·
            refine applyEcc_keeps (hg.sub rfl) _ _ _ ?_
            with_reducible assumption
          ·
            with_reducible assumption
        clear_value v50
        refine @keeps_ite _ (Keeps g s0) _ _ _ _ ?_ ?_
        ·
          refine complete_keeps (hg.sub rfl) _ _ _ _ ?_
          with_reducible assumption
        ·
          refine complete_keeps (hg.sub rfl) _ _ _ _ ?_
          refine updDir_keeps (hg.sub rfl) _ _ _ ?_
          with_reducible assumption
    ·
      rename_i y52 y53
      refine hk0 _ _ ?_
      refine @keeps_ite _ (Keeps g s0) _ _ _ _ ?_ ?_
      ·
        refine freeDir_keeps (hg.sub rfl) _ _ ?_
        with_reducible assumption
      ·
        with_reducible assumption
    ·
      rename_i y54 y55
      refine hk0 _ _ ?_
      refine @keeps_ite _ (Keeps g s0) _ _ _ _ ?_ ?_
      ·
        refine freeDir_keeps (hg.sub rfl) _ _ ?_
        with_reducible assumption
      ·
        with_reducible assumption
    ·
      rename_i y56 y57 y58 y59 y60 y61
      extract_lets +onlyGivenNames v62
      refine Keeps.cut (g := g) (s0 := s0) v62 ?_ (fun h63 => ?_)
      ·
        unfold v62
        split
        ·
          rename_i y64 y65 y66
          refine Keeps2.snd ?_
          refine writeLines_keeps (hg.sub rfl) _ _ _ ?_
          with_reducible assumption
        ·
          rename_i y67 y68
          with_reducible assumption
      clear_value v62
      refine hk0 _ _ ?_
      refine freeDir_keeps (hg.sub rfl) _ _ ?_
      with_reducible assumption
  ·
    rename_i y69 y70 y71
    with_reducible assumption

theorem touchLines_keeps (hg : Free 512 g) : ∀ a0 a1 s, Keeps g s0 s → Keeps g s0 (touchLines a0 a1 s) := by
  intro a0 a1 s h
  unfold touchLines
  extract_lets +onlyGivenNames v1
  clear_value v1
  refine keeps_net (s := s) 512 (hg.sub rfl) ?_ (.inl rfl) (.inr rfl)
  with_reducible assumption

theorem storeBytes_keeps (hg : Free 1073779232 g) : ∀ a0 a1 a2 s, Keeps g s0 s → Keeps2 g s0 (storeBytes a0 a1 a2 s) := by
  intro a0 a1 a2 s h
  unfold storeBytes
  extract_lets +onlyGivenNames v1
  clear_value v1
  split
  ·
    rename_i y2 y3 y4 y5
    refine Keeps.cut (g := g) (s0 := s0) y4 (Keeps2.of_eq ?_ y5) (fun h6 => ?_)
    ·
      refine writeLines_keeps (hg.sub rfl) _ _ _ ?_
      refine touchLines_keeps (hg.sub rfl) _ _ _ ?_
      with_reducible assumption
    extract_lets +onlyGivenNames v7 v8
    refine Keeps.cut (g := g) (s0 := s0) v7 ?_ (fun h9 => ?_)
    ·
      unfold v7
      refine @keeps_ite _ (Keeps g s0) _ _ _ _ ?_ ?_
      ·
        with_reducible assumption
      ·
        refine poisonLines_keeps (hg.sub rfl) _ _ ?_
        with_reducible assumption
    clear_value v7
    refine Keeps.cut (g := g) (s0 := s0) v8 ?_ (fun h10 => ?_)
    ·
      unfold v8
      refine setDurMap_keeps (hg.sub rfl) _ _ _ ?_
      with_reducible assumption
    clear_value v8
    extract_lets +onlyGivenNames v11
    refine Keeps.cut (g := g) (s0 := s0) v11 ?_ (fun h12 => ?_)
    ·
      unfold v11
      refine @keeps_ite _ (Keeps g s0) _ _ _ _ ?_ ?_
      ·
        refine @keeps_ite _ (Keeps g s0) _ _ _ _ ?_ ?_
        ·
          refine keeps_foldl (P := Keeps g s0) (fun b13 x14 h15 => ?_) _ _ ?_
          ·
            refine cleanUnit_keeps (hg.sub rfl) _ _ ?_
            with_reducible assumption
          ·
            with_reducible assumption
        ·
          refine markDurable_keeps (hg.sub rfl) _ _ _ ?_
          with_reducible assumption
      ·
        with_reducible assumption
    clear_value v11
    refine Keeps2.mk ?_
    with_reducible assumption

theorem doOp_keeps (hg : Free 1476500256 g) : ∀ a0 a1 s, Keeps g s0 s → Keeps3 g s0 (doOp a0 a1 s) := by
  intro a0 a1 s h
  unfold doOp
  extract_lets +onlyGivenNames v1
  clear_value v1
  split
  ·
    rename_i y2 y3
    extract_lets +onlyGivenNames v4 v5
    clear_value v4
    refine Keeps.cut (g := g) (s0 := s0) v5 ?_ (fun h6 => ?_)
    ·
      unfold v5
      refine applyEcc_keeps (hg.sub rfl) _ _ _ ?_
      with_reducible assumption
    clear_value v5
    refine Keeps3.mk ?_
    with_reducible assumption
  ·
    rename_i y7 y8
    extract_lets +onlyGivenNames v9 v10
    clear_value v9
    refine Keeps.cut (g := g) (s0 := s0) v10 ?_ (fun h11 => ?_)
    ·
      unfold v10
      refine applyEcc_keeps (hg.sub rfl) _ _ _ ?_
      with_reducible assumption
    clear_value v10
    refine Keeps3.mk ?_
    with_reducible assumption
  ·
    rename_i y12 y13
    extract_lets +onlyGivenNames v14 v15
    clear_value v14
    refine Keeps.cut (g := g) (s0 := s0) v15 ?_ (fun h16 => ?_)
    ·
      unfold v15
      refine applyEcc_keeps (hg.sub rfl) _ _ _ ?_
      with_reducible assumption
    clear_value v15
    refine Keeps3.mk ?_
    with_reducible assumption
  ·
    rename_i y17 y18
    extract_lets +onlyGivenNames v19 v20
    clear_value v19
    refine Keeps.cut (g := g) (s0 := s0) v20 ?_ (fun h21 => ?_)
    ·
      unfold v20
      refine applyEcc_keeps (hg.sub rfl) _ _ _ ?_
      with_reducible assumption
    clear_value v20
    refine Keeps3.mk ?_
    with_reducible assumption
  ·
    rename_i y22 y23
    extract_lets +onlyGivenNames v24 v25
    clear_value v24
    refine Keeps.cut (g := g) (s0 := s0) v25 ?_ (fun h26 => ?_)
    ·
      unfold v25
      refine applyEcc_keeps (hg.sub rfl) _ _ _ ?_
      with_reducible assumption
    clear_value v25
    refine Keeps3.mk ?_
    with_reducible assumption
  ·
    rename_i y27 y28
    split
    ·
      rename_i y29 y30 y31 y32
      refine Keeps.cut (g := g) (s0 := s0) y31 (Keeps2.of_eq ?_ y32) (fun h33 => ?_)
      ·
        refine storeBytes_keeps (hg.sub rfl) _ _ _ _ ?_
        with_reducible assumption
      refine Keeps3.mk ?_
      with_reducible assumption
  ·
    rename_i y34 y35
    split
    ·
      rename_i y36 y37 y38 y39
      refine Keeps.cut (g := g) (s0 := s0) y38 (Keeps2.of_eq ?_ y39) (fun h40 => ?_)
      ·
        refine storeBytes_keeps (hg.sub rfl) _ _ _ _ ?_
        with_reducible assumption
      refine Keeps3.mk ?_
      with_reducible assumption
  ·
    rename_i y41 y42
    split
    ·
      rename_i y43 y44 y45 y46
      refine Keeps.cut (g := g) (s0 := s0) y45 (Keeps2.of_eq ?_ y46) (fun h47 => ?_)
      ·
        refine storeBytes_keeps (hg.sub rfl) _ _ _ _ ?_
        with_reducible assumption
      refine Keeps3.mk ?_
      with_reducible assumption
  ·
    rename_i y48 y49
    extract_lets +onlyGivenNames v50 v51
    clear_value v50
    refine Keeps.cut (g := g) (s0 := s0) v51 ?_ (fun h52 => ?_)
    ·
      unfold v51
      refine applyEcc_keeps (hg.sub rfl) _ _ _ ?_
      with_reducible assumption
    clear_value v51
    refine @keeps_ite _ (Keeps3 g s0) _ _ _ _ ?_ ?_
    ·
      refine Keeps3.mk ?_
      with_reducible assumption
    ·
      extract_lets +onlyGivenNames v53 v54 v55
      clear_value v53
      clear_value v54
      clear_value v55
      split
      ·
        rename_i y56 y57 y58 y59
        refine Keeps.cut (g := g) (s0 := s0) y58 (Keeps2.of_eq ?_ y59) (fun h60 => ?_)
        ·
          refine storeBytes_keeps (hg.sub rfl) _ _ _ _ ?_
          with_reducible assumption
        refine Keeps3.mk ?_
        with_reducible assumption
  ·
    rename_i y61 y62
    extract_lets +onlyGivenNames v63 v64
    clear_value v63
    refine Keeps.cut (g := g) (s0 := s0) v64 ?_ (fun h65 => ?_)
    ·
      unfold v64
      refine applyEcc_keeps (hg.sub rfl) _ _ _ ?_
      with_reducible assumption
    clear_value v64
    refine @keeps_ite _ (Keeps3 g s0) _ _ _ _ ?_ ?_
    ·
      refine Keeps3.mk ?_
      with_reducible assumption
    ·
      split
      ·
        rename_i y66 y67 y68 y69
        refine Keeps.cut (g := g) (s0 := s0) y68 (Keeps2.of_eq ?_ y69) (fun h70 => ?_)
        ·
          refine storeBytes_keeps (hg.sub rfl) _ _ _ _ ?_
          with_reducible assumption
        refine Keeps3.mk ?_
        with_reducible assumption
  ·
    rename_i y71 y72
    extract_lets +onlyGivenNames v73 v74 v75 v76
    clear_value v73
    refine Keeps.cut (g := g) (s0 := s0) v74 ?_ (fun h77 => ?_)
    ·
      unfold v74
      refine applyEcc_keeps (hg.sub rfl) _ _ _ ?_
      with_reducible assumption
    clear_value v74
    clear_value v75
    clear_value v76
    refine Keeps3.mk ?_
    with_reducible assumption
  ·
    rename_i y78 y79
    extract_lets +onlyGivenNames v80 v81
    clear_value v80
    refine Keeps.cut (g := g) (s0 := s0) v81 ?_ (fun h82 => ?_)
    ·
      unfold v81
      refine applyEcc_keeps (hg.sub rfl) _ _ _ ?_
      with_reducible assumption
    clear_value v81
    refine @keeps_ite _ (Keeps3 g s0) _ _ _ _ ?_ ?_
    ·
      refine Keeps3.mk ?_
      with_reducible assumption
    ·
      extract_lets +onlyGivenNames v83
      clear_value v83
      split
      ·
        rename_i y84 y85 y86 y87
        split
        ·
          rename_i y88 y89 y90 y91
          refine Keeps.cut (g := g) (s0 := s0) y90 (Keeps2.of_eq ?_ y91) (fun h92 => ?_)
          ·
            refine storeBytes_keeps (hg.sub rfl) _ _ _ _ ?_
            with_reducible assumption
          refine Keeps3.mk ?_
          with_reducible assumption
  ·
    rename_i y93 y94 y95 y96 y97 y98 y99 y100 y101 y102 y103 y104 y105
    refine Keeps3.mk ?_
    with_reducible assumption

theorem dropBuffers_keeps (hg : Free 32768 g) : ∀ s a1, Keeps g s0 s → Keeps g s0 (dropBuffers s a1) := by
  intro s a1 h
  unfold dropBuffers
  extract_lets +onlyGivenNames v1
  clear_value v1
  refine keeps_sluice (s := s) (hg.sub rfl) ?_
  with_reducible assumption

theorem acquired_keeps (hg : Free 32768 g) : ∀ a0 s, Keeps g s0 s → Keeps g s0 (acquired a0 s) := by
  intro a0 s h
  unfold acquired
  refine @keeps_ite _ (Keeps g s0) _ _ _ _ ?_ ?_
  ·
    refine keeps_foldl (P := Keeps g s0) (fun b1 x2 h3 => ?_) _ _ ?_
    ·
      refine dropBuffers_keeps (hg.sub rfl) _ _ ?_
      with_reducible assumption
    ·
      with_reducible assumption
  ·
    with_reducible assumption

theorem doComplete_keeps (hg : Free 1476500256 g) : ∀ a0 a1 s, Keeps g s0 s → Keeps g s0 (doComplete a0 a1 s) := by
  intro a0 a1 s h
  unfold doComplete
  split
  ·
    rename_i y1 y2 y3 y4 y5
    refine Keeps.cut (g := g) (s0 := s0) y4 (Keeps3.of_eq ?_ y5) (fun h6 => ?_)
    ·
      refine doOp_keeps (hg.sub rfl) _ _ _ ?_
      with_reducible assumption
    extract_lets +onlyGivenNames v7 v8
    refine Keeps.cut (g := g) (s0 := s0) v7 ?_ (fun h9 => ?_)
    ·
      unfold v7
      refine acquired_keeps (hg.sub rfl) _ _ ?_
      with_reducible assumption
    clear_value v7
    clear_value v8
    refine complete_keeps (hg.sub rfl) _ _ _ _ ?_
    with_reducible assumption

theorem dropOwner_keeps (hg : Free 16384 g) : ∀ a0 s, Keeps g s0 s → Keeps g s0 (dropOwner a0 s) := by
  intro a0 s h
  unfold dropOwner
  split
  ·
    rename_i y1 y2 y3
    refine @keeps_ite _ (Keeps g s0) _ _ _ _ ?_ ?_
    ·
      refine updDir_keeps (hg.sub rfl) _ _ _ ?_
      with_reducible assumption
    ·
      refine freeDir_keeps (hg.sub rfl) _ _ ?_
      with_reducible assumption
  ·
    rename_i y4 y5
    with_reducible assumption

theorem withSnoops_keeps (hg : Free 135283200 g) : ∀ a0 a1 a2 a3 a4 a5 s, (∀ x0 t, Keeps g s0 t → Keeps g s0 (a5 x0 t)) → Keeps g s0 s → Keeps g s0 (withSnoops a0 a1 a2 a3 a4 a5 s) := by
  intro a0 a1 a2 a3 a4 a5 s hk0 h
  unfold withSnoops
  split
  ·
    rename_i y1 y2 y3 y4
    refine Keeps.cut (g := g) (s0 := s0) y3 (Keeps2.of_eq ?_ y4) (fun h5 => ?_)
    ·
      refine snoopMembers_keeps (hg.sub rfl) _ _ _ _ _ ?_
      with_reducible assumption
    extract_lets +onlyGivenNames v6
    clear_value v6
    refine @keeps_ite _ (Keeps g s0) _ _ _ _ ?_ ?_
    ·
      refine hk0 _ _ ?_
      with_reducible assumption
    ·
      refine openTxn_keeps (hg.sub rfl) _ _ _ ?_
      with_reducible assumption

theorem beginEvict_keeps (hg : Free 135283200 g) : ∀ a0 a1 s, Keeps g s0 s → Keeps g s0 (beginEvict a0 a1 s) := by
  intro a0 a1 s h
  unfold beginEvict
  refine @keeps_ite _ (Keeps g s0) _ _ _ _ ?_ ?_
  ·
    refine keeps_coh (s := s) (hg.sub rfl) ?_
    with_reducible assumption
  ·
    extract_lets +onlyGivenNames v1 v2
    clear_value v1
    clear_value v2
    refine evictEntry_keeps (hg.sub rfl) _ _ _ ?_
    refine keeps_coh (s := s) (hg.sub rfl) ?_
    with_reducible assumption

theorem cohFresh_keeps (hg : Free 403790624 g) : ∀ a0 a1 a2 a3 s, Keeps g s0 s → Keeps g s0 (cohFresh a0 a1 a2 a3 s) := by
  intro a0 a1 a2 a3 s h
  unfold cohFresh
  split
  ·
    rename_i y1 y2 y3 y4
    refine @keeps_ite _ (Keeps g s0) _ _ _ _ ?_ ?_
    ·
      refine complete_keeps (hg.sub rfl) _ _ _ _ ?_
      refine applyEcc_keeps (hg.sub rfl) _ _ _ ?_
      with_reducible assumption
    ·
      split
      ·
        rename_i y5 y6 y7
        refine complete_keeps (hg.sub rfl) _ _ _ _ ?_
        refine grantFresh_keeps (hg.sub rfl) _ _ _ _ _ ?_
        refine applyEcc_keeps (hg.sub rfl) _ _ _ ?_
        with_reducible assumption
      ·
        rename_i y8 y9 y10
        refine beginEvict_keeps (hg.sub rfl) _ _ _ ?_
        with_reducible assumption
      ·
        rename_i y11 y12
        refine keeps_coh (s := s) (hg.sub rfl) ?_
        with_reducible assumption

theorem cohLine_keeps (hg : Free 3625048864 g) : ∀ a0 a1 a2 a3 a4 s, (∀ x0 t, Keeps g s0 t → Keeps g s0 (a0 x0 t)) → Keeps g s0 s → Keeps g s0 (cohLine a0 a1 a2 a3 a4 s) := by
  intro a0 a1 a2 a3 a4 s hk0 h
  unfold cohLine
  extract_lets +onlyGivenNames v1 v2 v3 v4 v5 v6 v7
  clear_value v1
  clear_value v2
  clear_value v3
  clear_value v4
  clear_value v5
  clear_value v6
  clear_value v7
  refine @keeps_ite _ (Keeps g s0) _ _ _ _ ?_ ?_
  ·
    refine complete_keeps (hg.sub rfl) _ _ _ _ ?_
    with_reducible assumption
  ·
    refine @keeps_ite _ (Keeps g s0) _ _ _ _ ?_ ?_
    ·
      split
      ·
        rename_i y8 y9
        refine @keeps_ite _ (Keeps g s0) _ _ _ _ ?_ ?_
        ·
          refine complete_keeps (hg.sub rfl) _ _ _ _ ?_
          refine updDir_keeps (hg.sub rfl) _ _ _ ?_
          with_reducible assumption
        ·
          refine complete_keeps (hg.sub rfl) _ _ _ _ ?_
          with_reducible assumption
      ·
        rename_i y10
        refine complete_keeps (hg.sub rfl) _ _ _ _ ?_
        with_reducible assumption
    ·
      refine @keeps_ite _ (Keeps g s0) _ _ _ _ ?_ ?_
      ·
        split
        ·
          rename_i y11
          with_reducible assumption
        ·
          rename_i y12 y13
          split
          ·
            rename_i y14 y15 y16 y17 y18
            refine Keeps.cut (g := g) (s0 := s0) y17 (Keeps3.of_eq ?_ y18) (fun h19 => ?_)
            ·
              refine doOp_keeps (hg.sub rfl) _ _ _ ?_
              with_reducible assumption
            extract_lets +onlyGivenNames v20 v21 v22 v23 v24
            clear_value v20
            clear_value v21
            clear_value v22
            refine Keeps.cut (g := g) (s0 := s0) v23 ?_ (fun h25 => ?_)
            ·
              unfold v23
              split
              ·
                rename_i y26 y27
                refine updDir_keeps (hg.sub rfl) _ _ _ ?_
                with_reducible assumption
              ·
                rename_i y28
                refine dropOwner_keeps (hg.sub rfl) _ _ ?_
                with_reducible assumption
            clear_value v23
            clear_value v24
            extract_lets +onlyGivenNames v29
            clear_value v29
            extract_lets +onlyGivenNames v30
            refine Keeps.cut (g := g) (s0 := s0) v30 ?_ (fun h31 => ?_)
            ·
              unfold v30
              refine keeps_coh (s := v23) (hg.sub rfl) ?_
              with_reducible assumption
            clear_value v30
            refine complete_keeps (hg.sub rfl) _ _ _ _ ?_
            with_reducible assumption
      ·
        refine @keeps_ite _ (Keeps g s0) _ _ _ _ ?_ ?_
        ·
          split
          ·
            rename_i y32
            refine complete_keeps (hg.sub rfl) _ _ _ _ ?_
            with_reducible assumption
          ·
            rename_i y33 y34
            refine @keeps_ite _ (Keeps g s0) _ _ _ _ ?_ ?_
            ·
              refine @keeps_ite _ (Keeps g s0) _ _ _ _ ?_ ?_
              ·
                refine complete_keeps (hg.sub rfl) _ _ _ _ ?_
                refine violation_keeps (hg.sub rfl) _ _ ?_
                with_reducible assumption
              ·
                refine @keeps_ite _ (Keeps g s0) _ _ _ _ ?_ ?_
                ·
                  refine complete_keeps (hg.sub rfl) _ _ _ _ ?_
                  refine violation_keeps (hg.sub rfl) _ _ ?_
                  with_reducible assumption
                ·
                  refine complete_keeps (hg.sub rfl) _ _ _ _ ?_
                  refine dropOwner_keeps (hg.sub rfl) _ _ ?_
                  with_reducible assumption
            ·
              extract_lets +onlyGivenNames v35
              clear_value v35
              refine @keeps_ite _ (Keeps g s0) _ _ _ _ ?_ ?_
              ·
                refine complete_keeps (hg.sub rfl) _ _ _ _ ?_
                refine freeDir_keeps (hg.sub rfl) _ _ ?_
                with_reducible assumption
              ·
                refine complete_keeps (hg.sub rfl) _ _ _ _ ?_
                refine updDir_keeps (hg.sub rfl) _ _ _ ?_
                with_reducible assumption
        ·
          refine @keeps_ite _ (Keeps g s0) _ _ _ _ ?_ ?_
          ·
            refine waitLine_keeps (hg.sub rfl) _ _ ?_
            with_reducible assumption
          ·
            split
            ·
              rename_i y36
              split
              ·
                rename_i y37 y38
                refine cohFresh_keeps (hg.sub rfl) _ _ _ _ _ ?_
                with_reducible assumption
              ·
                rename_i y39 y40
                refine cohFresh_keeps (hg.sub rfl) _ _ _ _ _ ?_
                with_reducible assumption
              ·
                rename_i y41 y42
                refine @keeps_ite _ (Keeps g s0) _ _ _ _ ?_ ?_
                ·
                  refine cohFresh_keeps (hg.sub rfl) _ _ _ _ _ ?_
                  with_reducible assumption
                ·
                  refine complete_keeps (hg.sub rfl) _ _ _ _ ?_
                  refine violation_keeps (hg.sub rfl) _ _ ?_
                  with_reducible assumption
              ·
                rename_i y43 y44
                refine @keeps_ite _ (Keeps g s0) _ _ _ _ ?_ ?_
                ·
                  refine hk0 _ _ ?_
                  with_reducible assumption
                ·
                  refine complete_keeps (hg.sub rfl) _ _ _ _ ?_
                  refine violation_keeps (hg.sub rfl) _ _ ?_
                  with_reducible assumption
              ·
                rename_i y45 y46 y47 y48 y49
                refine doComplete_keeps (hg.sub rfl) _ _ _ ?_
                with_reducible assumption
            ·
              rename_i y50 y51
              extract_lets +onlyGivenNames v52 v53
              clear_value v53
              split
              ·
                rename_i y54 y55
                refine @keeps_ite _ (Keeps g s0) _ _ _ _ ?_ ?_
                ·
                  split
                  ·
                    rename_i y56 y57 y58 y59
                    extract_lets +onlyGivenNames v60
                    refine Keeps.cut (g := g) (s0 := s0) v60 ?_ (fun h61 => ?_)
                    ·
                      unfold v60
                      refine applyEcc_keeps (hg.sub rfl) _ _ _ ?_
                      with_reducible assumption
                    clear_value v60
                    refine @keeps_ite _ (Keeps g s0) _ _ _ _ ?_ ?_
                    ·
                      refine complete_keeps (hg.sub rfl) _ _ _ _ ?_
                      with_reducible assumption
                    ·
                      refine complete_keeps (hg.sub rfl) _ _ _ _ ?_
                      refine updDir_keeps (hg.sub rfl) _ _ _ ?_
                      with_reducible assumption
                ·
                  refine @keeps_ite _ (Keeps g s0) _ _ _ _ ?_ ?_
                  ·
                    refine @keeps_ite _ (Keeps g s0) _ _ _ _ ?_ ?_
                    ·
                      refine cohFresh_keeps (hg.sub rfl) _ _ _ _ _ ?_
                      refine freeDir_keeps (hg.sub rfl) _ _ ?_
                      with_reducible assumption
                    ·
                      refine complete_keeps (hg.sub rfl) _ _ _ _ ?_
                      refine violation_keeps (hg.sub rfl) _ _ ?_
                      with_reducible assumption
                  ·
                    refine withSnoops_keeps (hg.sub rfl) _ _ _ _ _ _ _ (fun x62 x63 h64 => ?_) ?_
                    ·
                      unfold v52
                      refine finishTxn_keeps (hg.sub rfl) _ _ _ _ (fun x65 x66 h67 => ?_) ?_
                      ·
                        refine hk0 _ _ ?_
                        with_reducible assumption
                      ·
                        with_reducible assumption
                    ·
                      with_reducible assumption
              ·
                rename_i y68 y69
                extract_lets +onlyGivenNames v70
                clear_value v70
                refine @keeps_ite _ (Keeps g s0) _ _ _ _ ?_ ?_
                ·
                  refine @keeps_ite _ (Keeps g s0) _ _ _ _ ?_ ?_
                  ·
                    refine cohFresh_keeps (hg.sub rfl) _ _ _ _ _ ?_
                    refine freeDir_keeps (hg.sub rfl) _ _ ?_
                    with_reducible assumption
                  ·
                    refine complete_keeps (hg.sub rfl) _ _ _ _ ?_
                    refine violation_keeps (hg.sub rfl) _ _ ?_
                    with_reducible assumption
                ·
                  refine @keeps_ite _ (Keeps g s0) _ _ _ _ ?_ ?_
                  ·
                    refine complete_keeps (hg.sub rfl) _ _ _ _ ?_
                    refine violation_keeps (hg.sub rfl) _ _ ?_
                    with_reducible assumption
                  ·
                    refine withSnoops_keeps (hg.sub rfl) _ _ _ _ _ _ _ (fun x71 x72 h73 => ?_) ?_
                    ·
                      unfold v52
                      refine finishTxn_keeps (hg.sub rfl) _ _ _ _ (fun x74 x75 h76 => ?_) ?_
                      ·
                        refine hk0 _ _ ?_
                        with_reducible assumption
                      ·
                        with_reducible assumption
                    ·
                      with_reducible assumption
              ·
                rename_i y77 y78
                extract_lets +onlyGivenNames v79
                clear_value v79
                refine @keeps_ite _ (Keeps g s0) _ _ _ _ ?_ ?_
                ·
                  refine @keeps_ite _ (Keeps g s0) _ _ _ _ ?_ ?_
                  ·
                    refine cohFresh_keeps (hg.sub rfl) _ _ _ _ _ ?_
                    refine freeDir_keeps (hg.sub rfl) _ _ ?_
                    with_reducible assumption
                  ·
                    refine complete_keeps (hg.sub rfl) _ _ _ _ ?_
                    refine violation_keeps (hg.sub rfl) _ _ ?_
                    with_reducible assumption
                ·
                  refine @keeps_ite _ (Keeps g s0) _ _ _ _ ?_ ?_
                  ·
                    refine complete_keeps (hg.sub rfl) _ _ _ _ ?_
                    refine violation_keeps (hg.sub rfl) _ _ ?_
                    with_reducible assumption
                  ·
                    refine withSnoops_keeps (hg.sub rfl) _ _ _ _ _ _ _ (fun x80 x81 h82 => ?_) ?_
                    ·
                      unfold v52
                      refine finishTxn_keeps (hg.sub rfl) _ _ _ _ (fun x83 x84 h85 => ?_) ?_
                      ·
                        refine hk0 _ _ ?_
                        with_reducible assumption
                      ·
                        with_reducible assumption
                    ·
                      with_reducible assumption
              ·
                rename_i y86 y87
                refine @keeps_ite _ (Keeps g s0) _ _ _ _ ?_ ?_
                ·
                  refine hk0 _ _ ?_
                  with_reducible assumption
                ·
                  refine withSnoops_keeps (hg.sub rfl) _ _ _ _ _ _ _ (fun x88 x89 h90 => ?_) ?_
                  ·
                    unfold v52
                    refine finishTxn_keeps (hg.sub rfl) _ _ _ _ (fun x91 x92 h93 => ?_) ?_
                    ·
                      refine hk0 _ _ ?_
                      with_reducible assumption
                    ·
                      with_reducible assumption
                  ·
                    with_reducible assumption
              ·
                rename_i y94 y95
                refine @keeps_ite _ (Keeps g s0) _ _ _ _ ?_ ?_
                ·
                  refine hk0 _ _ ?_
                  with_reducible assumption
                ·
                  refine withSnoops_keeps (hg.sub rfl) _ _ _ _ _ _ _ (fun x96 x97 h98 => ?_) ?_
                  ·
                    unfold v52
                    refine finishTxn_keeps (hg.sub rfl) _ _ _ _ (fun x99 x100 h101 => ?_) ?_
                    ·
                      refine hk0 _ _ ?_
                      with_reducible assumption
                    ·
                      with_reducible assumption
                  ·
                    with_reducible assumption
              ·
                rename_i y102 y103
                refine @keeps_ite _ (Keeps g s0) _ _ _ _ ?_ ?_
                ·
                  refine withSnoops_keeps (hg.sub rfl) _ _ _ _ _ _ _ (fun x104 x105 h106 => ?_) ?_
                  ·
                    unfold v52
                    refine finishTxn_keeps (hg.sub rfl) _ _ _ _ (fun x107 x108 h109 => ?_) ?_
                    ·
                      refine hk0 _ _ ?_
                      with_reducible assumption
                    ·
                      with_reducible assumption
                  ·
                    with_reducible assumption
                ·
                  refine complete_keeps (hg.sub rfl) _ _ _ _ ?_
                  refine violation_keeps (hg.sub rfl) _ _ ?_
                  with_reducible assumption
              ·
                rename_i y110 y111 y112 y113 y114 y115 y116
                refine withSnoops_keeps (hg.sub rfl) _ _ _ _ _ _ _ (fun x117 x118 h119 => ?_) ?_
                ·
                  unfold v52
                  refine finishTxn_keeps (hg.sub rfl) _ _ _ _ (fun x120 x121 h122 => ?_) ?_
                  ·
                    refine hk0 _ _ ?_
                    with_reducible assumption
                  ·
                    with_reducible assumption
                ·
                  with_reducible assumption

theorem agentJoins_keeps (hg : Free 82432 g) : ∀ a0 s, Keeps g s0 s → Keeps g s0 (agentJoins a0 s) := by
  intro a0 s h
  unfold agentJoins
  extract_lets +onlyGivenNames v1
  clear_value v1
  extract_lets +onlyGivenNames v2
  refine Keeps.cut (g := g) (s0 := s0) v2 ?_ (fun h3 => ?_)
  ·
    unfold v2
    refine keeps_coh (s := s) (hg.sub rfl) ?_
    with_reducible assumption
  clear_value v2
  split
  ·
    rename_i y4 y5
    with_reducible assumption
  ·
    rename_i y6 y7 y8
    refine takeJoin_keeps (hg.sub rfl) _ _ ?_
    refine sendNotices_keeps (hg.sub rfl) _ ?_
    refine addNotices_keeps (hg.sub rfl) _ _ _ _ ?_
    with_reducible assumption

theorem settleDomains_keeps (hg : Free 82432 g) : ∀ s, Keeps g s0 s → Keeps g s0 (settleDomains s) := by
  intro s h
  unfold settleDomains
  refine keeps_foldl (P := Keeps g s0) (fun b1 x2 h3 => ?_) _ _ ?_
  ·
    refine tryUp_keeps (hg.sub rfl) _ _ ?_
    with_reducible assumption
  ·
    with_reducible assumption

theorem refence_keeps (hg : Free 512 g) : ∀ s, Keeps g s0 s → Keeps g s0 (refence s) := by
  intro s h
  unfold refence
  extract_lets +onlyGivenNames v1
  clear_value v1
  refine keeps_net (s := s) 512 (hg.sub rfl) ?_ (.inl rfl) (.inr rfl)
  with_reducible assumption

theorem doShared_keeps (hg : Free 1477565216 g) : ∀ a0 a1 s, Keeps g s0 s → Keeps g s0 (doShared a0 a1 s) := by
  intro a0 a1 s h
  unfold doShared
  refine onPage_keeps (hg.sub rfl) _ _ _ (fun x1 h2 => ?_) ?_
  ·
    refine @keeps_ite _ (Keeps g s0) _ _ _ _ ?_ ?_
    ·
      extract_lets +onlyGivenNames v3 v4
      clear_value v3
      clear_value v4
      split
      ·
        rename_i y5 y6 y7
        refine addDir_keeps (hg.sub rfl) _ _ _ _ _ _ _ _ ?_
        refine doComplete_keeps (hg.sub rfl) _ _ _ ?_
        with_reducible assumption
      ·
        rename_i y8 y9 y10
        refine beginEvict_keeps (hg.sub rfl) _ _ _ ?_
        with_reducible assumption
      ·
        rename_i y11 y12
        refine keeps_coh (s := x1) (hg.sub rfl) ?_
        with_reducible assumption
    ·
      refine doComplete_keeps (hg.sub rfl) _ _ _ ?_
      with_reducible assumption
  ·
    with_reducible assumption

theorem cohAccess_keeps (hg : Free 3625048864 g) : ∀ a0 a1 a2 a3 s, Keeps g s0 s → Keeps g s0 (cohAccess a0 a1 a2 a3 s) := by
  intro a0 a1 a2 a3 s
  induction a0 generalizing a1 a2 a3 s
  ·
    intro h1
    unfold cohAccess
    refine doShared_keeps (hg.sub rfl) _ _ _ ?_
    with_reducible assumption
  ·
    rename_i y2 y3
    intro h4
    unfold cohAccess
    extract_lets +onlyGivenNames v5 v6
    clear_value v5
    clear_value v6
    split
    ·
      rename_i y7 y8 y9
      refine cohLine_keeps (hg.sub rfl) _ _ _ _ _ _ (fun x10 x11 h12 => ?_) ?_
      ·
        refine y3 _ _ _ _ ?_
        with_reducible assumption
      ·
        with_reducible assumption
    ·
      rename_i y13 y14
      refine @keeps_ite _ (Keeps g s0) _ _ _ _ ?_ ?_
      ·
        refine cohLine_keeps (hg.sub rfl) _ _ _ _ _ _ (fun x15 x16 h17 => ?_) ?_
        ·
          refine doShared_keeps (hg.sub rfl) _ _ _ ?_
          with_reducible assumption
        ·
          with_reducible assumption
      ·
        refine doShared_keeps (hg.sub rfl) _ _ _ ?_
        with_reducible assumption

theorem recompute_keeps (hg : Free 16896 g) : ∀ s, Keeps g s0 s → Keeps g s0 (recompute s) := by
  intro s h
  unfold recompute
  extract_lets +onlyGivenNames v1
  clear_value v1
  refine refence_keeps (hg.sub rfl) _ ?_
  refine keeps_coh (s := s) (hg.sub rfl) ?_
  with_reducible assumption

theorem cohPerform_keeps (hg : Free 3625048864 g) : ∀ a0 a1 a2 s, Keeps g s0 s → Keeps g s0 (cohPerform a0 a1 a2 s) := by
  intro a0 a1 a2 s h
  unfold cohPerform
  refine cohAccess_keeps (hg.sub rfl) _ _ _ _ _ ?_
  with_reducible assumption

theorem resume_keeps (hg : Free 3625048864 g) : ∀ a0 s, Keeps g s0 s → Keeps g s0 (resume a0 s) := by
  intro a0 s h
  unfold resume
  refine cohPerform_keeps (hg.sub rfl) _ _ _ _ ?_
  with_reducible assumption

theorem rcInsert_keeps (hg : Free 512 g) : ∀ a0 s, Keeps g s0 s → Keeps g s0 (rcInsert a0 s) := by
  intro a0 s h
  unfold rcInsert
  extract_lets +onlyGivenNames v1 v2 v3 v4 v5
  clear_value v1
  clear_value v2
  clear_value v3
  clear_value v4
  clear_value v5
  refine keeps_net (s := s) 512 (hg.sub rfl) ?_ (.inl rfl) (.inr rfl)
  with_reducible assumption

theorem rangeFill_keeps (hg : Free 4608 g) : ∀ a0 a1 a2 a3 s, Keeps g s0 s → Keeps g s0 (rangeFill a0 a1 a2 a3 s) := by
  intro a0 a1 a2 a3 s h
  unfold rangeFill
  extract_lets +onlyGivenNames v1
  refine Keeps.cut (g := g) (s0 := s0) v1 ?_ (fun h2 => ?_)
  ·
    unfold v1
    split
    ·
      rename_i y3 y4 y5
      refine countRange_keeps (hg.sub rfl) _ _ _ _ ?_
      with_reducible assumption
    ·
      rename_i y6 y7
      with_reducible assumption
  clear_value v1
  refine rcInsert_keeps (hg.sub rfl) _ _ ?_
  with_reducible assumption

theorem cachedLoop_keeps (hg : Free 4608 g) : ∀ a0 a1 a2 a3 a4 a5 a6 s, Keeps g s0 s → Keeps2 g s0 (cachedLoop a0 a1 a2 a3 a4 a5 a6 s) := by
  intro a0 a1 a2 a3 a4 a5 a6 s
  induction a6 generalizing a0 a1 a2 a3 a4 a5 s
  ·
    intro h1
    unfold cachedLoop
    refine Keeps2.mk ?_
    with_reducible assumption
  ·
    rename_i y2 y3
    intro h4
    unfold cachedLoop
    split
    ·
      rename_i y5 y6 y7
      refine y3 _ _ _ _ _ _ _ ?_
      refine rangeFill_keeps (hg.sub rfl) _ _ _ _ _ ?_
      with_reducible assumption
    ·
      rename_i y8 y9
      refine Keeps2.mk ?_
      with_reducible assumption

theorem translateCached_keeps (hg : Free 4608 g) : ∀ a0 a1 a2 a3 a4 a5 s, Keeps g s0 s → Keeps2 g s0 (translateCached a0 a1 a2 a3 a4 a5 s) := by
  intro a0 a1 a2 a3 a4 a5 s h
  unfold translateCached
  split
  ·
    rename_i y1 y2 y3 y4
    refine Keeps.cut (g := g) (s0 := s0) y3 (Keeps2.of_eq ?_ y4) (fun h5 => ?_)
    ·
      refine cachedLoop_keeps (hg.sub rfl) _ _ _ _ _ _ _ _ ?_
      with_reducible assumption
    extract_lets +onlyGivenNames v6
    clear_value v6
    refine Keeps2.mk ?_
    refine keeps_net (s := y3) 512 (hg.sub rfl) ?_ (.inl rfl) (.inr rfl)
    with_reducible assumption

theorem bringPlain_keeps (hg : Free 6656 g) : ∀ a0 s, Keeps g s0 s → Keeps g s0 (bringPlain a0 s) := by
  intro a0 s h
  unfold bringPlain
  refine @keeps_ite _ (Keeps g s0) _ _ _ _ ?_ ?_
  ·
    refine bring_keeps (hg.sub rfl) _ _ _ ?_
    with_reducible assumption
  ·
    with_reducible assumption

theorem joinPieces_keeps (hg : Free 2560 g) : ∀ a0 a1 s, Keeps g s0 s → Keeps2 g s0 (joinPieces a0 a1 s) := by
  intro a0 a1 s h
  unfold joinPieces
  refine @keeps_ite _ (Keeps2 g s0) _ _ _ _ ?_ ?_
  ·
    refine Keeps2.mk ?_
    with_reducible assumption
  ·
    extract_lets +onlyGivenNames v1 v2
    clear_value v1
    extract_lets +onlyGivenNames v3
    extract_lets +onlyGivenNames v4
    refine Keeps.cut (g := g) (s0 := s0) v4 ?_ (fun h5 => ?_)
    ·
      unfold v4
      refine keeps_update (s := s) 2560 (hg.sub rfl) ?_ (.inr rfl) (.inr rfl) (.inr rfl) (.inr rfl) (.inr rfl) (.inr rfl) (.inr rfl) (.inr rfl) (.inr rfl) (.inl rfl) (.inr rfl) (.inl rfl) (.inr rfl) (.inr rfl) (.inr rfl) (.inr rfl) (.inr rfl) (.inr rfl) (.inr rfl) (.inr rfl) (.inr rfl) (.inr rfl) (.inr rfl) (.inr rfl) (.inr rfl) (.inr rfl) (.inr rfl) (.inr rfl) (.inr rfl) (.inr rfl) (.inr rfl) (.inr rfl) (.inr rfl) (.inr rfl) (fun m => m)
      with_reducible assumption
    clear_value v4
    refine Keeps2.mk ?_
    with_reducible assumption

theorem dropPin_keeps (hg : Free 72192 g) : ∀ a0 a1 s, Keeps g s0 s → Keeps g s0 (dropPin a0 a1 s) := by
  intro a0 a1 s h
  unfold dropPin
  refine @keeps_ite _ (Keeps g s0) _ _ _ _ ?_ ?_
  ·
    with_reducible assumption
  ·
    extract_lets +onlyGivenNames v1 v2 v3
    refine Keeps.cut (g := g) (s0 := s0) v2 ?_ (fun h4 => ?_)
    ·
      unfold v2
      refine keeps_store (s := s) 4096 (hg.sub rfl) ?_ (.inl rfl) (.inr rfl) (fun m => m)
      with_reducible assumption
    clear_value v2
    refine Keeps.cut (g := g) (s0 := s0) v3 ?_ (fun h5 => ?_)
    ·
      unfold v3
      refine updTier_keeps (hg.sub rfl) _ _ _ ?_
      with_reducible assumption
    clear_value v3
    extract_lets +onlyGivenNames v6
    clear_value v6
    refine @keeps_ite _ (Keeps g s0) _ _ _ _ ?_ ?_
    ·
      refine vacate_keeps (hg.sub rfl) _ _ ?_
      refine retire_keeps (hg.sub rfl) _ _ _ ?_
      with_reducible assumption
    ·
      with_reducible assumption

theorem addPin_keeps (hg : Free 69888 g) : ∀ a0 a1 a2 s, Keeps g s0 s → Keeps g s0 (addPin a0 a1 a2 s) := by
  intro a0 a1 a2 s h
  unfold addPin
  extract_lets +onlyGivenNames v1 v2
  clear_value v1
  extract_lets +onlyGivenNames v3
  refine Keeps.cut (g := g) (s0 := s0) v3 ?_ (fun h4 => ?_)
  ·
    unfold v3
    refine keeps_store (s := s) 4096 (hg.sub rfl) ?_ (.inl rfl) (.inr rfl) (fun m => m)
    with_reducible assumption
  clear_value v3
  refine @keeps_ite _ (Keeps g s0) _ _ _ _ ?_ ?_
  ·
    extract_lets +onlyGivenNames v5
    refine Keeps.cut (g := g) (s0 := s0) v5 ?_ (fun h6 => ?_)
    ·
      unfold v5
      refine updTier_keeps (hg.sub rfl) _ _ _ ?_
      with_reducible assumption
    clear_value v5
    refine @keeps_ite _ (Keeps g s0) _ _ _ _ ?_ ?_
    ·
      with_reducible assumption
    ·
      refine logEv_keeps (hg.sub rfl) _ _ _ _ _ _ _ ?_
      refine updPty_keeps (hg.sub rfl) _ _ _ ?_
      with_reducible assumption
  ·
    refine updTier_keeps (hg.sub rfl) _ _ _ ?_
    with_reducible assumption

theorem addPins_keeps (hg : Free 72448 g) : ∀ a0 a1 a2 a3 s, Keeps g s0 s → Keeps2 g s0 (addPins a0 a1 a2 a3 s) := by
  intro a0 a1 a2 a3 s
  induction a2 generalizing a0 a1 a3 s
  ·
    intro h1
    unfold addPins
    refine Keeps2.mk ?_
    with_reducible assumption
  ·
    rename_i y2 y3 y4
    intro h5
    unfold addPins
    refine @keeps_ite _ (Keeps2 g s0) _ _ _ _ ?_ ?_
    ·
      refine y4 _ _ _ _ ?_
      with_reducible assumption
    ·
      refine y4 _ _ _ _ ?_
      refine bringPlain_keeps (hg.sub rfl) _ _ ?_
      refine addPin_keeps (hg.sub rfl) _ _ _ _ ?_
      with_reducible assumption

theorem pinPages_keeps (hg : Free 72448 g) : ∀ a0 a1 a2 a3 a4 s, Keeps g s0 s → Keeps g s0 (pinPages a0 a1 a2 a3 a4 s) := by
  intro a0 a1 a2 a3 a4 s h
  unfold pinPages
  extract_lets +onlyGivenNames v1
  clear_value v1
  refine @keeps_ite _ (Keeps g s0) _ _ _ _ ?_ ?_
  ·
    refine keeps_foldl (P := Keeps g s0) (fun b2 x3 h4 => ?_) _ _ ?_
    ·
      refine dropPin_keeps (hg.sub rfl) _ _ _ ?_
      with_reducible assumption
    ·
      with_reducible assumption
  ·
    split
    ·
      rename_i y5 y6 y7 y8
      refine Keeps.cut (g := g) (s0 := s0) y7 (Keeps2.of_eq ?_ y8) (fun h9 => ?_)
      ·
        refine addPins_keeps (hg.sub rfl) _ _ _ _ _ ?_
        with_reducible assumption
      refine @keeps_ite _ (Keeps g s0) _ _ _ _ ?_ ?_
      ·
        refine logEv_keeps (hg.sub rfl) _ _ _ _ _ _ _ ?_
        refine updPty_keeps (hg.sub rfl) _ _ _ ?_
        with_reducible assumption
      ·
        with_reducible assumption

theorem ecInsert_keeps (hg : Free 512 g) : ∀ a0 s, Keeps g s0 s → Keeps g s0 (ecInsert a0 s) := by
  intro a0 s h
  unfold ecInsert
  extract_lets +onlyGivenNames v1 v2 v3
  clear_value v1
  clear_value v2
  clear_value v3
  refine keeps_net (s := s) 512 (hg.sub rfl) ?_ (.inl rfl) (.inr rfl)
  with_reducible assumption

theorem inEpoch_keeps (hg : Free 4194304 g) : ∀ a0 s, Keeps g s0 s → Keeps2 g s0 (inEpoch a0 s) := by
  intro a0 s h
  unfold inEpoch
  split
  ·
    rename_i y1 y2
    refine Keeps2.mk ?_
    with_reducible assumption
  ·
    rename_i y3 y4 y5
    extract_lets +onlyGivenNames v6 v7
    clear_value v6
    clear_value v7
    refine Keeps2.mk ?_
    refine keeps_rill (s := s) 4194304 (hg.sub rfl) ?_ (.inl rfl) (.inr rfl)
    with_reducible assumption

theorem partnerStores_keeps (hg : Free 4194816 g) : ∀ a0 a1 a2 a3 a4 a5 s, Keeps g s0 s → Keeps2 g s0 (partnerStores a0 a1 a2 a3 a4 a5 s) := by
  intro a0 a1 a2 a3 a4 a5 s
  induction a2 generalizing a0 a1 a3 a4 a5 s
  ·
    intro h1
    unfold partnerStores
    refine Keeps2.mk ?_
    with_reducible assumption
  ·
    rename_i y2 y3
    intro h4
    unfold partnerStores
    refine @keeps_ite _ (Keeps2 g s0) _ _ _ _ ?_ ?_
    ·
      refine Keeps2.mk ?_
      with_reducible assumption
    ·
      extract_lets +onlyGivenNames v5
      clear_value v5
      split
      ·
        rename_i y6 y7 y8 y9
        refine Keeps.cut (g := g) (s0 := s0) y8 (Keeps2.of_eq ?_ y9) (fun h10 => ?_)
        ·
          refine inEpoch_keeps (hg.sub rfl) _ _ ?_
          with_reducible assumption
        refine y3 _ _ _ _ _ _ ?_
        refine sendOn_keeps (hg.sub rfl) _ _ _ ?_
        with_reducible assumption

theorem onceHere_keeps (hg : Free 6656 g) : ∀ a0 a1 s, (∀ t, Keeps g s0 t → Keeps g s0 (a1 t)) → Keeps g s0 s → Keeps g s0 (onceHere a0 a1 s) := by
  intro a0 a1 s hk0 h
  unfold onceHere
  refine @keeps_ite _ (Keeps g s0) _ _ _ _ ?_ ?_
  ·
    refine hk0 _ ?_
    with_reducible assumption
  ·
    refine keeps_foldl (P := Keeps g s0) (fun b1 x2 h3 => ?_) _ _ ?_
    ·
      refine bring_keeps (hg.sub rfl) _ _ _ ?_
      with_reducible assumption
    ·
      with_reducible assumption

theorem placeDurable_keeps (hg : Free 6144 g) : ∀ a0 a1 s, (∀ t, Keeps g s0 t → Keeps g s0 (a1 t)) → Keeps g s0 s → Keeps g s0 (placeDurable a0 a1 s) := by
  intro a0 a1 s hk0 h
  unfold placeDurable
  refine @keeps_ite _ (Keeps g s0) _ _ _ _ ?_ ?_
  ·
    refine hk0 _ ?_
    with_reducible assumption
  ·
    split
    ·
      rename_i y1 y2
      refine hk0 _ ?_
      with_reducible assumption
    ·
      rename_i y3 y4
      refine keeps_store (s := s) 4096 (hg.sub rfl) ?_ (.inl rfl) (.inr rfl) (fun m => m)
      with_reducible assumption
    ·
      rename_i y5 y6
      extract_lets +onlyGivenNames v7
      clear_value v7
      refine maintain_keeps (hg.sub rfl) _ _ _ ?_
      refine keeps_store (s := s) 4096 (hg.sub rfl) ?_ (.inl rfl) (.inr rfl) (fun m => m)
      with_reducible assumption

theorem engineStore_keeps (hg : Free 3625048864 g) : ∀ a0 s, Keeps g s0 s → Keeps g s0 (engineStore a0 s) := by
  intro a0 s h
  unfold engineStore
  split
  ·
    rename_i y1 y2 y3 y4
    refine Keeps.cut (g := g) (s0 := s0) y3 (Keeps2.of_eq ?_ y4) (fun h5 => ?_)
    ·
      refine fresh_keeps (hg.sub rfl) _ _ ?_
      with_reducible assumption
    extract_lets +onlyGivenNames v6
    clear_value v6
    split
    ·
      rename_i y7 y8
      refine needStill_keeps (hg.sub rfl) _ _ _ ?_
      with_reducible assumption
    ·
      rename_i y9 y10
      refine needPlain_keeps (hg.sub rfl) _ _ _ ?_
      with_reducible assumption
    ·
      rename_i y11 y12
      refine needPlain_keeps (hg.sub rfl) _ _ _ ?_
      with_reducible assumption
    ·
      rename_i y13 y14
      refine placeDurable_keeps (hg.sub rfl) _ _ _ (fun x15 h16 => ?_) ?_
      ·
        refine cohPerform_keeps (hg.sub rfl) _ _ _ _ ?_
        with_reducible assumption
      ·
        with_reducible assumption

theorem engineWrite_keeps (hg : Free 3629243168 g) : ∀ a0 a1 a2 a3 s, Keeps g s0 s → Keeps2 g s0 (engineWrite a0 a1 a2 a3 s) := by
  intro a0 a1 a2 a3 s h
  unfold engineWrite
  extract_lets +onlyGivenNames v1 v2 v3
  clear_value v1
  refine Keeps.cut (g := g) (s0 := s0) v2 ?_ (fun h4 => ?_)
  ·
    unfold v2
    refine countRange_keeps (hg.sub rfl) _ _ _ _ ?_
    with_reducible assumption
  clear_value v2
  refine Keeps.cut (g := g) (s0 := s0) v3 ?_ (fun h5 => ?_)
  ·
    unfold v3
    refine @keeps_ite _ (Keeps g s0) _ _ _ _ ?_ ?_
    ·
      refine setDurMap_keeps (hg.sub rfl) _ _ _ ?_
      with_reducible assumption
    ·
      with_reducible assumption
  clear_value v3
  refine @keeps_ite _ (Keeps2 g s0) _ _ _ _ ?_ ?_
  ·
    refine storeBytes_keeps (hg.sub rfl) _ _ _ _ ?_
    with_reducible assumption
  ·
    split
    ·
      rename_i y6 y7 y8 y9
      refine Keeps.cut (g := g) (s0 := s0) y8 (Keeps2.of_eq ?_ y9) (fun h10 => ?_)
      ·
        refine inEpoch_keeps (hg.sub rfl) _ _ ?_
        with_reducible assumption
      refine Keeps2.mk ?_
      refine engineStore_keeps (hg.sub rfl) _ _ ?_
      with_reducible assumption

theorem shufelWrite.writeAs_keeps (hg : Free 3629243168 g) : ∀ a0 a1 a2 a3 a4 s, Keeps g s0 s → Keeps2 g s0 (shufelWrite.writeAs a0 a1 a2 a3 a4 s) := by
  intro a0 a1 a2 a3 a4 s h
  unfold shufelWrite.writeAs
  split
  ·
    rename_i y1 y2 y3
    refine Keeps2.mk ?_
    with_reducible assumption
  ·
    rename_i y4 y5
    refine engineWrite_keeps (hg.sub rfl) _ _ _ _ _ ?_
    with_reducible assumption

theorem writePieces_keeps (hg : Free 3629243168 g) : ∀ a0 a1 a2 a3 a4 s, Keeps g s0 s → Keeps2 g s0 (writePieces a0 a1 a2 a3 a4 s) := by
  intro a0 a1 a2 a3 a4 s
  induction a2 generalizing a0 a1 a3 a4 s
  ·
    intro h1
    unfold writePieces
    refine Keeps2.mk ?_
    with_reducible assumption
  ·
    rename_i y2 y3 y4
    intro h5
    unfold writePieces
    split
    ·
      rename_i y6 y7 y8 y9
      refine Keeps.cut (g := g) (s0 := s0) y8 (Keeps2.of_eq ?_ y9) (fun h10 => ?_)
      ·
        refine shufelWrite.writeAs_keeps (hg.sub rfl) _ _ _ _ _ _ ?_
        with_reducible assumption
      extract_lets +onlyGivenNames v11
      clear_value v11
      refine y4 _ _ _ _ _ ?_
      with_reducible assumption

theorem vwrite_keeps (hg : Free 3629243168 g) : ∀ a0 a1 a2 a3 s, Keeps g s0 s → Keeps2 g s0 (vwrite a0 a1 a2 a3 s) := by
  intro a0 a1 a2 a3 s h
  unfold vwrite
  refine @keeps_ite _ (Keeps2 g s0) _ _ _ _ ?_ ?_
  ·
    refine Keeps2.mk ?_
    with_reducible assumption
  ·
    split
    ·
      rename_i y1 y2 y3
      refine Keeps2.mk ?_
      with_reducible assumption
    ·
      rename_i y4 y5 y6 y7
      refine Keeps2.mk ?_
      with_reducible assumption
    ·
      rename_i y8 y9 y10
      extract_lets +onlyGivenNames v11
      clear_value v11
      split
      ·
        rename_i y12 y13 y14
        refine Keeps2.mk ?_
        with_reducible assumption
      ·
        rename_i y15 y16
        refine writePieces_keeps (hg.sub rfl) _ _ _ _ _ _ ?_
        with_reducible assumption

theorem atRest_keeps (hg : Free 6656 g) : ∀ a0 a1 a2 a3 s, (∀ t, Keeps g s0 t → Keeps g s0 (a3 t)) → Keeps g s0 s → Keeps g s0 (atRest a0 a1 a2 a3 s) := by
  intro a0 a1 a2 a3 s hk0 h
  unfold atRest
  refine onceHere_keeps (hg.sub rfl) _ _ _ (fun x1 h2 => ?_) ?_
  ·
    refine hk0 _ ?_
    with_reducible assumption
  ·
    with_reducible assumption

theorem vAtRest_keeps (hg : Free 6656 g) : ∀ a0 a1 a2 a3 s, (∀ t, Keeps g s0 t → Keeps g s0 (a3 t)) → Keeps g s0 s → Keeps g s0 (vAtRest a0 a1 a2 a3 s) := by
  intro a0 a1 a2 a3 s hk0 h
  unfold vAtRest
  refine onceHere_keeps (hg.sub rfl) _ _ _ (fun x1 h2 => ?_) ?_
  ·
    refine hk0 _ ?_
    with_reducible assumption
  ·
    with_reducible assumption

theorem issueTrans_keeps (hg : Free 134220544 g) : ∀ a0 a1 s, Keeps g s0 s → Keeps g s0 (issueTrans a0 a1 s) := by
  intro a0 a1 s h
  unfold issueTrans
  split
  ·
    rename_i y1 y2
    refine complete_keeps (hg.sub rfl) _ _ _ _ ?_
    with_reducible assumption
  ·
    rename_i y3 y4 y5
    refine complete_keeps (hg.sub rfl) _ _ _ _ ?_
    with_reducible assumption
  ·
    rename_i y6 y7
    extract_lets +onlyGivenNames v8
    clear_value v8
    refine @keeps_ite _ (Keeps g s0) _ _ _ _ ?_ ?_
    ·
      refine complete_keeps (hg.sub rfl) _ _ _ _ ?_
      with_reducible assumption
    ·
      refine @keeps_ite _ (Keeps g s0) _ _ _ _ ?_ ?_
      ·
        refine complete_keeps (hg.sub rfl) _ _ _ _ ?_
        with_reducible assumption
      ·
        split
        ·
          rename_i y9 y10 y11
          refine complete_keeps (hg.sub rfl) _ _ _ _ ?_
          with_reducible assumption
        ·
          rename_i y12 y13
          split
          ·
            rename_i y14 y15 y16 y17
            refine Keeps.cut (g := g) (s0 := s0) y16 (Keeps2.of_eq ?_ y17) (fun h18 => ?_)
            ·
              refine joinPieces_keeps (hg.sub rfl) _ _ _ ?_
              with_reducible assumption
            refine keeps_foldl (P := Keeps g s0) (fun b19 x20 h21 => ?_) _ _ ?_
            ·
              refine issue_keeps (hg.sub rfl) _ _ ?_
              with_reducible assumption
            ·
              with_reducible assumption

theorem issueIn_keeps (hg : Free 138418944 g) : ∀ a0 a1 a2 s, Keeps g s0 s → Keeps g s0 (issueIn a0 a1 a2 s) := by
  intro a0 a1 a2 s h
  unfold issueIn
  split
  ·
    rename_i y1 y2 y3 y4
    refine Keeps.cut (g := g) (s0 := s0) y3 (Keeps2.of_eq ?_ y4) (fun h5 => ?_)
    ·
      refine inEpoch_keeps (hg.sub rfl) _ _ ?_
      with_reducible assumption
    refine @keeps_ite _ (Keeps g s0) _ _ _ _ ?_ ?_
    ·
      split
      ·
        rename_i y6 y7 y8 y9
        refine Keeps.cut (g := g) (s0 := s0) y8 (Keeps2.of_eq ?_ y9) (fun h10 => ?_)
        ·
          refine translateCached_keeps (hg.sub rfl) _ _ _ _ _ _ _ ?_
          with_reducible assumption
        refine issueTrans_keeps (hg.sub rfl) _ _ _ ?_
        with_reducible assumption
    ·
      refine issueTrans_keeps (hg.sub rfl) _ _ _ ?_
      with_reducible assumption

theorem shufelWrite_keeps (hg : Free 3629243168 g) : ∀ a0 a1 a2 a3 s, Keeps g s0 s → Keeps2 g s0 (shufelWrite a0 a1 a2 a3 s) := by
  intro a0 a1 a2 a3 s h
  unfold shufelWrite
  refine shufelWrite.writeAs_keeps (hg.sub rfl) _ _ _ _ _ _ ?_
  with_reducible assumption

theorem countVirtual_keeps (hg : Free 4096 g) : ∀ a0 a1 a2 a3 s, Keeps g s0 s → Keeps g s0 (countVirtual a0 a1 a2 a3 s) := by
  intro a0 a1 a2 a3 s h
  unfold countVirtual
  split
  ·
    rename_i y1 y2 y3
    refine keeps_foldl (P := Keeps g s0) (fun b4 x5 h6 => ?_) _ _ ?_
    ·
      refine countRange_keeps (hg.sub rfl) _ _ _ _ ?_
      with_reducible assumption
    ·
      with_reducible assumption
  ·
    rename_i y7 y8
    with_reducible assumption

end Sys2Proof.Safety
end

