-- ==== Sys2Proof/Laws/KeepsLink.lean ====
section
/-!
SUPPORT. Which parts of the state each operation keeps: staging, mirrors and links.
-/
namespace Sys2Proof.Safety

open Sys2Proof Sys2Proof.Machine

set_option Elab.async false

variable {g : Part} {s0 : State}

theorem sendPiece'_keeps (hg : Free 134220544 g) : ∀ a0 a1 s, Keeps g s0 s → Keeps g s0 (sendPiece' a0 a1 s) := by
  intro a0 a1 s h
  unfold sendPiece'
  extract_lets +onlyGivenNames v1
  clear_value v1
  refine @keeps_ite _ (Keeps g s0) _ _ _ _ ?_ ?_
  ·
    refine complete_keeps (hg.sub rfl) _ _ _ _ ?_
    with_reducible assumption
  ·
    split
    ·
      rename_i y2 y3 y4
      refine offer_keeps (hg.sub rfl) _ _ _ ?_
      with_reducible assumption
    ·
      rename_i y5 y6
      refine complete_keeps (hg.sub rfl) _ _ _ _ ?_
      with_reducible assumption

theorem sendStage_keeps (hg : Free 134253312 g) : ∀ a0 a1 s, Keeps g s0 s → Keeps g s0 (sendStage a0 a1 s) := by
  intro a0 a1 s h
  unfold sendStage
  extract_lets +onlyGivenNames v1 v2 v3 v4
  clear_value v1
  clear_value v2
  clear_value v3
  clear_value v4
  extract_lets +onlyGivenNames v5
  refine Keeps.cut (g := g) (s0 := s0) v5 ?_ (fun h6 => ?_)
  ·
    unfold v5
    refine keeps_sluice (s := s) (hg.sub rfl) ?_
    with_reducible assumption
  clear_value v5
  refine keeps_foldl (P := Keeps g s0) (fun b7 x8 h9 => ?_) _ _ ?_
  ·
    extract_lets +onlyGivenNames v10
    clear_value v10
    refine sendPiece'_keeps (hg.sub rfl) _ _ _ ?_
    with_reducible assumption
  ·
    with_reducible assumption

theorem beginFetch_keeps (hg : Free 134253312 g) : ∀ a0 a1 a2 s, Keeps g s0 s → Keeps g s0 (beginFetch a0 a1 a2 s) := by
  intro a0 a1 a2 s h
  unfold beginFetch
  refine @keeps_ite _ (Keeps g s0) _ _ _ _ ?_ ?_
  ·
    refine keeps_sluice (s := s) (hg.sub rfl) ?_
    with_reducible assumption
  ·
    extract_lets +onlyGivenNames v1
    clear_value v1
    extract_lets +onlyGivenNames v2
    refine Keeps.cut (g := g) (s0 := s0) v2 ?_ (fun h3 => ?_)
    ·
      unfold v2
      refine keeps_sluice (s := s) (hg.sub rfl) ?_
      with_reducible assumption
    clear_value v2
    refine keeps_foldl (P := Keeps g s0) (fun b4 x5 h6 => ?_) _ _ ?_
    ·
      refine sendPiece'_keeps (hg.sub rfl) _ _ _ ?_
      with_reducible assumption
    ·
      with_reducible assumption

theorem shipStage_keeps (hg : Free 134253312 g) : ∀ a0 s, Keeps g s0 s → Keeps g s0 (shipStage a0 s) := by
  intro a0 s h
  unfold shipStage
  split
  ·
    rename_i y1 y2
    with_reducible assumption
  ·
    rename_i y3 y4 y5
    refine @keeps_ite _ (Keeps g s0) _ _ _ _ ?_ ?_
    ·
      refine sendStage_keeps (hg.sub rfl) _ _ _ ?_
      with_reducible assumption
    ·
      extract_lets +onlyGivenNames v6
      clear_value v6
      refine beginFetch_keeps (hg.sub rfl) _ _ _ _ ?_
      refine keeps_sluice (s := s) (hg.sub rfl) ?_
      with_reducible assumption

theorem sluiceFlushAge_keeps (hg : Free 134253312 g) : ∀ a0 a1 s, Keeps g s0 s → Keeps g s0 (sluiceFlushAge a0 a1 s) := by
  intro a0 a1 s h
  unfold sluiceFlushAge
  split
  ·
    rename_i y1 y2 y3
    refine shipStage_keeps (hg.sub rfl) _ _ ?_
    with_reducible assumption
  ·
    rename_i y4 y5
    with_reducible assumption

theorem windowLoad_keeps (hg : Free 134253312 g) : ∀ a0 s, Keeps g s0 s → Keeps g s0 (windowLoad a0 s) := by
  intro a0 s h
  unfold windowLoad
  extract_lets +onlyGivenNames v1
  clear_value v1
  split
  ·
    rename_i y2 y3
    refine complete_keeps (hg.sub rfl) _ _ _ _ ?_
    with_reducible assumption
  ·
    rename_i y4 y5 y6
    extract_lets +onlyGivenNames v7
    clear_value v7
    split
    ·
      rename_i y8 y9 y10
      extract_lets +onlyGivenNames v11 v12
      clear_value v11
      clear_value v12
      extract_lets +onlyGivenNames v13
      refine Keeps.cut (g := g) (s0 := s0) v13 ?_ (fun h14 => ?_)
      ·
        unfold v13
        refine keeps_sluice (s := s) (hg.sub rfl) ?_
        with_reducible assumption
      clear_value v13
      refine complete_keeps (hg.sub rfl) _ _ _ _ ?_
      refine acquired_keeps (hg.sub rfl) _ _ ?_
      with_reducible assumption
    ·
      rename_i y15 y16
      extract_lets +onlyGivenNames v17
      clear_value v17
      split
      ·
        rename_i y18 y19 y20
        refine beginFetch_keeps (hg.sub rfl) _ _ _ _ ?_
        with_reducible assumption
      ·
        rename_i y21 y22
        with_reducible assumption

theorem fetched_keeps (hg : Free 134253312 g) : ∀ a0 a1 s, Keeps g s0 s → Keeps g s0 (fetched a0 a1 s) := by
  intro a0 a1 s h
  unfold fetched
  extract_lets +onlyGivenNames v1 v2 v3 v4 v5 v6 v7 v8 v9
  clear_value v1
  clear_value v2
  clear_value v3
  clear_value v4
  clear_value v5
  clear_value v6
  refine Keeps.cut (g := g) (s0 := s0) v7 ?_ (fun h10 => ?_)
  ·
    unfold v7
    refine keeps_sluice (s := s) (hg.sub rfl) ?_
    with_reducible assumption
  clear_value v7
  refine Keeps.cut (g := g) (s0 := s0) v8 ?_ (fun h11 => ?_)
  ·
    unfold v8
    refine keeps_foldl (P := Keeps g s0) (fun b12 x13 h14 => ?_) _ _ ?_
    ·
      refine windowLoad_keeps (hg.sub rfl) _ _ ?_
      with_reducible assumption
    ·
      with_reducible assumption
  clear_value v8
  clear_value v9
  extract_lets +onlyGivenNames v15 v16
  refine Keeps.cut (g := g) (s0 := s0) v15 ?_ (fun h17 => ?_)
  ·
    unfold v15
    refine @keeps_ite _ (Keeps g s0) _ _ _ _ ?_ ?_
    ·
      refine keeps_sluice (s := v8) (hg.sub rfl) ?_
      with_reducible assumption
    ·
      with_reducible assumption
  clear_value v15
  refine Keeps.cut (g := g) (s0 := s0) v16 ?_ (fun h18 => ?_)
  ·
    unfold v16
    split
    ·
      rename_i y19 y20 y21
      refine sendStage_keeps (hg.sub rfl) _ _ _ ?_
      with_reducible assumption
    ·
      rename_i y22 y23
      with_reducible assumption
  clear_value v16
  refine keeps_foldl (P := Keeps g s0) (fun b24 x25 h26 => ?_) _ _ ?_
  ·
    refine windowLoad_keeps (hg.sub rfl) _ _ ?_
    with_reducible assumption
  ·
    with_reducible assumption

theorem needStage_keeps (hg : Free 134253312 g) : ∀ a0 s, Keeps g s0 s → Keeps g s0 (needStage a0 s) := by
  intro a0 s h
  unfold needStage
  refine @keeps_ite _ (Keeps g s0) _ _ _ _ ?_ ?_
  ·
    with_reducible assumption
  ·
    split
    ·
      rename_i y1 y2 y3
      refine shipStage_keeps (hg.sub rfl) _ _ ?_
      with_reducible assumption
    ·
      rename_i y4 y5
      with_reducible assumption

theorem stageStore_keeps (hg : Free 134253312 g) : ∀ a0 s, Keeps g s0 s → Keeps g s0 (stageStore a0 s) := by
  intro a0 s h
  unfold stageStore
  extract_lets +onlyGivenNames v1
  clear_value v1
  split
  ·
    rename_i y2 y3
    refine complete_keeps (hg.sub rfl) _ _ _ _ ?_
    with_reducible assumption
  ·
    rename_i y4 y5 y6
    refine @keeps_ite _ (Keeps g s0) _ _ _ _ ?_ ?_
    ·
      refine needStage_keeps (hg.sub rfl) _ _ ?_
      refine keeps_sluice (s := s) (hg.sub rfl) ?_
      with_reducible assumption
    ·
      extract_lets +onlyGivenNames v7 v8 v9 v10 v11 v12 v13 v14
      clear_value v7
      clear_value v8
      clear_value v9
      clear_value v10
      clear_value v11
      clear_value v12
      clear_value v13
      clear_value v14
      extract_lets +onlyGivenNames v15
      refine Keeps.cut (g := g) (s0 := s0) v15 ?_ (fun h16 => ?_)
      ·
        unfold v15
        refine keeps_sluice (s := s) (hg.sub rfl) ?_
        with_reducible assumption
      clear_value v15
      refine @keeps_ite _ (Keeps g s0) _ _ _ _ ?_ ?_
      ·
        refine shipStage_keeps (hg.sub rfl) _ _ ?_
        with_reducible assumption
      ·
        with_reducible assumption

theorem pieceAcked_keeps (hg : Free 134253312 g) : ∀ a0 a1 a2 a3 s, Keeps g s0 s → Keeps g s0 (pieceAcked a0 a1 a2 a3 s) := by
  intro a0 a1 a2 a3 s h
  unfold pieceAcked
  split
  ·
    rename_i y1 y2
    with_reducible assumption
  ·
    rename_i y3 y4 y5
    extract_lets +onlyGivenNames v6 v7 v8 v9 v10 v11
    clear_value v6
    clear_value v7
    clear_value v8
    clear_value v9
    clear_value v10
    clear_value v11
    extract_lets +onlyGivenNames v12
    refine Keeps.cut (g := g) (s0 := s0) v12 ?_ (fun h13 => ?_)
    ·
      unfold v12
      refine keeps_sluice (s := s) (hg.sub rfl) ?_
      with_reducible assumption
    clear_value v12
    refine keeps_foldl (P := Keeps g s0) (fun b14 x15 h16 => ?_) _ _ ?_
    ·
      refine complete_keeps (hg.sub rfl) _ _ _ _ ?_
      with_reducible assumption
    ·
      with_reducible assumption

theorem fetchFailed_keeps (hg : Free 134253312 g) : ∀ a0 a1 a2 s, Keeps g s0 s → Keeps g s0 (fetchFailed a0 a1 a2 s) := by
  intro a0 a1 a2 s h
  unfold fetchFailed
  extract_lets +onlyGivenNames v1 v2 v3
  clear_value v1
  clear_value v2
  clear_value v3
  extract_lets +onlyGivenNames v4
  refine Keeps.cut (g := g) (s0 := s0) v4 ?_ (fun h5 => ?_)
  ·
    unfold v4
    refine keeps_sluice (s := s) (hg.sub rfl) ?_
    with_reducible assumption
  clear_value v4
  refine keeps_foldl (P := Keeps g s0) (fun b6 x7 h8 => ?_) _ _ ?_
  ·
    refine windowLoad_keeps (hg.sub rfl) _ _ ?_
    with_reducible assumption
  ·
    refine keeps_foldl (P := Keeps g s0) (fun b9 x10 h11 => ?_) _ _ ?_
    ·
      refine complete_keeps (hg.sub rfl) _ _ _ _ ?_
      with_reducible assumption
    ·
      with_reducible assumption

theorem sluiceLanded_keeps (hg : Free 134253312 g) : ∀ a0 a1 a2 s, Keeps g s0 s → Keeps g s0 (sluiceLanded a0 a1 a2 s) := by
  intro a0 a1 a2 s h
  unfold sluiceLanded
  split
  ·
    rename_i y1 y2
    with_reducible assumption
  ·
    rename_i y3 y4 y5
    extract_lets +onlyGivenNames v6
    clear_value v6
    refine @keeps_ite _ (Keeps g s0) _ _ _ _ ?_ ?_
    ·
      refine pieceAcked_keeps (hg.sub rfl) _ _ _ _ _ ?_
      with_reducible assumption
    ·
      split
      ·
        rename_i y7 y8
        with_reducible assumption
      ·
        rename_i y9 y10 y11
        refine @keeps_ite _ (Keeps g s0) _ _ _ _ ?_ ?_
        ·
          refine fetchFailed_keeps (hg.sub rfl) _ _ _ _ ?_
          with_reducible assumption
        ·
          extract_lets +onlyGivenNames v12
          clear_value v12
          refine @keeps_ite _ (Keeps g s0) _ _ _ _ ?_ ?_
          ·
            refine fetched_keeps (hg.sub rfl) _ _ _ ?_
            with_reducible assumption
          ·
            refine keeps_sluice (s := s) (hg.sub rfl) ?_
            with_reducible assumption

theorem retryStage_keeps (hg : Free 134253312 g) : ∀ s, Keeps g s0 s → Keeps g s0 (retryStage s) := by
  intro s h
  unfold retryStage
  extract_lets +onlyGivenNames v1
  clear_value v1
  refine keeps_foldl (P := Keeps g s0) (fun b2 x3 h4 => ?_) _ _ ?_
  ·
    refine stageStore_keeps (hg.sub rfl) _ _ ?_
    with_reducible assumption
  ·
    refine keeps_sluice (s := s) (hg.sub rfl) ?_
    with_reducible assumption

theorem sendMirror_keeps (hg : Free 134220544 g) : ∀ a0 a1 a2 a3 s, Keeps g s0 s → Keeps g s0 (sendMirror a0 a1 a2 a3 s) := by
  intro a0 a1 a2 a3 s h
  unfold sendMirror
  extract_lets +onlyGivenNames v1
  clear_value v1
  refine @keeps_ite _ (Keeps g s0) _ _ _ _ ?_ ?_
  ·
    split
    ·
      rename_i y2 y3 y4
      refine sendPiece'_keeps (hg.sub rfl) _ _ _ ?_
      with_reducible assumption
    ·
      rename_i y5 y6
      refine complete_keeps (hg.sub rfl) _ _ _ _ ?_
      with_reducible assumption
  ·
    refine issue_keeps (hg.sub rfl) _ _ ?_
    with_reducible assumption

theorem shipPage_keeps (hg : Free 134220544 g) : ∀ a0 a1 a2 a3 s, Keeps g s0 s → Keeps g s0 (shipPage a0 a1 a2 a3 s) := by
  intro a0 a1 a2 a3 s h
  unfold shipPage
  refine keeps_foldl (P := Keeps g s0) (fun b1 x2 h3 => ?_) _ _ ?_
  ·
    extract_lets +onlyGivenNames v4
    clear_value v4
    refine sendMirror_keeps (hg.sub rfl) _ _ _ _ _ ?_
    with_reducible assumption
  ·
    with_reducible assumption

theorem logMirror_keeps (hg : Free 65536 g) : ∀ a0 a1 a2 a3 s, Keeps g s0 s → Keeps g s0 (logMirror a0 a1 a2 a3 s) := by
  intro a0 a1 a2 a3 s h
  unfold logMirror
  split
  ·
    rename_i y1 y2
    with_reducible assumption
  ·
    rename_i y3 y4 y5
    extract_lets +onlyGivenNames v6
    clear_value v6
    refine logEv_keeps (hg.sub rfl) _ _ _ _ _ _ _ ?_
    with_reducible assumption

theorem updMirror_keeps (hg : Free 32768 g) : ∀ a0 a1 s, Keeps g s0 s → Keeps g s0 (updMirror a0 a1 s) := by
  intro a0 a1 s h
  unfold updMirror
  refine keeps_sluice (s := s) (hg.sub rfl) ?_
  with_reducible assumption

theorem closeBatch_keeps (hg : Free 34816 g) : ∀ a0 a1 s, Keeps g s0 s → Keeps g s0 (closeBatch a0 a1 s) := by
  intro a0 a1 s h
  unfold closeBatch
  extract_lets +onlyGivenNames v1 v2 v3 v4 v5
  clear_value v1
  clear_value v2
  clear_value v3
  clear_value v4
  refine Keeps.cut (g := g) (s0 := s0) v5 ?_ (fun h6 => ?_)
  ·
    unfold v5
    refine updMirror_keeps (hg.sub rfl) _ _ _ ?_
    with_reducible assumption
  clear_value v5
  refine keeps_foldl (P := Keeps g s0) (fun b7 x8 h9 => ?_) _ _ ?_
  ·
    refine maintain_keeps (hg.sub rfl) _ _ _ ?_
    with_reducible assumption
  ·
    with_reducible assumption

theorem dropShips_keeps (hg : Free 2048 g) : ∀ a0 s, Keeps g s0 s → Keeps g s0 (dropShips a0 s) := by
  intro a0 s h
  unfold dropShips
  extract_lets +onlyGivenNames v1
  clear_value v1
  refine keeps_weir (s := s) 2048 (hg.sub rfl) ?_ (.inr rfl) (.inl rfl)
  with_reducible assumption

theorem enterLinkDown_keeps (hg : Free 100352 g) : ∀ a0 s, Keeps g s0 s → Keeps g s0 (enterLinkDown a0 s) := by
  intro a0 s h
  unfold enterLinkDown
  extract_lets +onlyGivenNames v1
  clear_value v1
  refine @keeps_ite _ (Keeps g s0) _ _ _ _ ?_ ?_
  ·
    with_reducible assumption
  ·
    refine logMirror_keeps (hg.sub rfl) _ _ _ _ _ ?_
    refine dropShips_keeps (hg.sub rfl) _ _ ?_
    refine updMirror_keeps (hg.sub rfl) _ _ _ ?_
    with_reducible assumption

theorem execMirrorLinkDown_keeps (hg : Free 100352 g) : ∀ a0 s, Keeps g s0 s → KeepsN g s0 (execMirrorLinkDown a0 s) := by
  intro a0 s h
  unfold execMirrorLinkDown
  refine KeepsN.next ?_
  refine enterLinkDown_keeps (hg.sub rfl) _ _ ?_
  with_reducible assumption

theorem execLagExceeded_keeps (hg : Free 98304 g) : ∀ a0 a1 s, Keeps g s0 s → KeepsN g s0 (execLagExceeded a0 a1 s) := by
  intro a0 a1 s h
  unfold execLagExceeded
  refine KeepsN.next ?_
  extract_lets +onlyGivenNames v1
  clear_value v1
  split
  ·
    rename_i y2 y3 y4
    refine @keeps_ite _ (Keeps g s0) _ _ _ _ ?_ ?_
    ·
      with_reducible assumption
    ·
      refine logMirror_keeps (hg.sub rfl) _ _ _ _ _ ?_
      refine setAlert_keeps (hg.sub rfl) _ _ ?_
      refine updMirror_keeps (hg.sub rfl) _ _ _ ?_
      with_reducible assumption
  ·
    rename_i y5 y6
    with_reducible assumption

theorem seenMirror_keeps (hg : Free 8 g) : ∀ a0 s, Keeps g s0 s → Keeps g s0 (seenMirror a0 s) := by
  intro a0 s h
  unfold seenMirror
  extract_lets +onlyGivenNames v1
  clear_value v1
  refine @keeps_ite _ (Keeps g s0) _ _ _ _ ?_ ?_
  ·
    with_reducible assumption
  ·
    refine keeps_nv (s := s) 8 (hg.sub rfl) ?_ (.inr rfl) (.inl rfl) (.inr rfl) (.inr rfl) (fun m => m)
    with_reducible assumption

theorem dropFar_keeps (hg : Free 32768 g) : ∀ a0 s, Keeps g s0 s → Keeps g s0 (dropFar a0 s) := by
  intro a0 s h
  unfold dropFar
  refine keeps_sluice (s := s) (hg.sub rfl) ?_
  with_reducible assumption

theorem noteResync_keeps (hg : Free 32776 g) : ∀ a0 s, Keeps g s0 s → Keeps g s0 (noteResync a0 s) := by
  intro a0 s h
  unfold noteResync
  split
  ·
    rename_i y1 y2 y3
    refine seenMirror_keeps (hg.sub rfl) _ _ ?_
    refine updMirror_keeps (hg.sub rfl) _ _ _ ?_
    with_reducible assumption
  ·
    rename_i y4 y5
    with_reducible assumption

theorem takeMark_keeps (hg : Free 32776 g) : ∀ a0 a1 s, Keeps g s0 s → Keeps g s0 (takeMark a0 a1 s) := by
  intro a0 a1 s h
  unfold takeMark
  split
  ·
    rename_i y1 y2 y3
    refine seenMirror_keeps (hg.sub rfl) _ _ ?_
    refine updMirror_keeps (hg.sub rfl) _ _ _ ?_
    with_reducible assumption
  ·
    rename_i y4 y5
    with_reducible assumption

theorem updFar_keeps (hg : Free 32768 g) : ∀ a0 a1 s, Keeps g s0 s → Keeps g s0 (updFar a0 a1 s) := by
  intro a0 a1 s h
  unfold updFar
  refine keeps_sluice (s := s) (hg.sub rfl) ?_
  with_reducible assumption

theorem beginFar_keeps (hg : Free 134253320 g) : ∀ a0 a1 s, Keeps g s0 s → Keeps g s0 (beginFar a0 a1 s) := by
  intro a0 a1 s h
  unfold beginFar
  extract_lets +onlyGivenNames v1 v2
  clear_value v1
  clear_value v2
  refine @keeps_ite _ (Keeps g s0) _ _ _ _ ?_ ?_
  ·
    refine issue_keeps (hg.sub rfl) _ _ ?_
    refine updFar_keeps (hg.sub rfl) _ _ _ ?_
    with_reducible assumption
  ·
    refine @keeps_ite _ (Keeps g s0) _ _ _ _ ?_ ?_
    ·
      refine complete_keeps (hg.sub rfl) _ _ _ _ ?_
      refine takeMark_keeps (hg.sub rfl) _ _ _ ?_
      refine dropFar_keeps (hg.sub rfl) _ _ ?_
      with_reducible assumption
    ·
      extract_lets +onlyGivenNames v3 v4 v5
      clear_value v3
      clear_value v4
      refine Keeps.cut (g := g) (s0 := s0) v5 ?_ (fun h6 => ?_)
      ·
        unfold v5
        refine @keeps_ite _ (Keeps g s0) _ _ _ _ ?_ ?_
        ·
          refine noteResync_keeps (hg.sub rfl) _ _ ?_
          with_reducible assumption
        ·
          with_reducible assumption
      clear_value v5
      refine @keeps_ite _ (Keeps g s0) _ _ _ _ ?_ ?_
      ·
        refine complete_keeps (hg.sub rfl) _ _ _ _ ?_
        refine dropFar_keeps (hg.sub rfl) _ _ ?_
        with_reducible assumption
      ·
        extract_lets +onlyGivenNames v7
        refine Keeps.cut (g := g) (s0 := s0) v7 ?_ (fun h8 => ?_)
        ·
          unfold v7
          refine updFar_keeps (hg.sub rfl) _ _ _ ?_
          with_reducible assumption
        clear_value v7
        refine keeps_foldl (P := Keeps g s0) (fun b9 x10 h11 => ?_) _ _ ?_
        ·
          extract_lets +onlyGivenNames v12
          clear_value v12
          refine issue_keeps (hg.sub rfl) _ _ ?_
          with_reducible assumption
        ·
          with_reducible assumption

theorem farPump_keeps (hg : Free 134253320 g) : ∀ a0 s, Keeps g s0 s → Keeps g s0 (farPump a0 s) := by
  intro a0 s
  induction a0 generalizing s
  ·
    intro h1
    unfold farPump
    with_reducible assumption
  ·
    rename_i y2 y3
    intro h4
    unfold farPump
    split
    ·
      rename_i y5 y6
      with_reducible assumption
    ·
      rename_i y7 y8 y9
      split
      ·
        rename_i y10 y11 y12
        refine y3 _ ?_
        refine beginFar_keeps (hg.sub rfl) _ _ _ ?_
        with_reducible assumption
      ·
        rename_i y13 y14
        refine y3 _ ?_
        refine complete_keeps (hg.sub rfl) _ _ _ _ ?_
        refine dropFar_keeps (hg.sub rfl) _ _ ?_
        with_reducible assumption

theorem farLanded_keeps (hg : Free 134253320 g) : ∀ a0 a1 s, Keeps g s0 s → Keeps g s0 (farLanded a0 a1 s) := by
  intro a0 a1 s h
  unfold farLanded
  split
  ·
    rename_i y1 y2
    with_reducible assumption
  ·
    rename_i y3 y4 y5
    extract_lets +onlyGivenNames v6
    clear_value v6
    refine @keeps_ite _ (Keeps g s0) _ _ _ _ ?_ ?_
    ·
      refine updFar_keeps (hg.sub rfl) _ _ _ ?_
      with_reducible assumption
    ·
      extract_lets +onlyGivenNames v7
      refine Keeps.cut (g := g) (s0 := s0) v7 ?_ (fun h8 => ?_)
      ·
        unfold v7
        refine complete_keeps (hg.sub rfl) _ _ _ _ ?_
        refine dropFar_keeps (hg.sub rfl) _ _ ?_
        with_reducible assumption
      clear_value v7
      refine farPump_keeps (hg.sub rfl) _ _ ?_
      with_reducible assumption

theorem mirrorLanded_keeps (hg : Free 100352 g) : ∀ a0 a1 s, Keeps g s0 s → Keeps g s0 (mirrorLanded a0 a1 s) := by
  intro a0 a1 s h
  unfold mirrorLanded
  extract_lets +onlyGivenNames v1
  clear_value v1
  refine @keeps_ite _ (Keeps g s0) _ _ _ _ ?_ ?_
  ·
    with_reducible assumption
  ·
    refine @keeps_ite _ (Keeps g s0) _ _ _ _ ?_ ?_
    ·
      refine logMirror_keeps (hg.sub rfl) _ _ _ _ _ ?_
      refine dropShips_keeps (hg.sub rfl) _ _ ?_
      refine updMirror_keeps (hg.sub rfl) _ _ _ ?_
      with_reducible assumption
    ·
      refine @keeps_ite _ (Keeps g s0) _ _ _ _ ?_ ?_
      ·
        refine enterLinkDown_keeps (hg.sub rfl) _ _ ?_
        with_reducible assumption
      ·
        refine @keeps_ite _ (Keeps g s0) _ _ _ _ ?_ ?_
        ·
          refine updMirror_keeps (hg.sub rfl) _ _ _ ?_
          with_reducible assumption
        ·
          extract_lets +onlyGivenNames v2
          clear_value v2
          refine updMirror_keeps (hg.sub rfl) _ _ _ ?_
          with_reducible assumption

theorem execMirrorBatchClose_keeps (hg : Free 34816 g) : ∀ a0 s, Keeps g s0 s → KeepsN g s0 (execMirrorBatchClose a0 s) := by
  intro a0 s h
  unfold execMirrorBatchClose
  refine KeepsN.next ?_
  extract_lets +onlyGivenNames v1
  clear_value v1
  split
  ·
    rename_i y2 y3 y4
    refine @keeps_ite _ (Keeps g s0) _ _ _ _ ?_ ?_
    ·
      refine closeBatch_keeps (hg.sub rfl) _ _ _ ?_
      with_reducible assumption
    ·
      with_reducible assumption
  ·
    rename_i y5 y6
    with_reducible assumption

theorem shipNow_keeps (hg : Free 134220544 g) : ∀ a0 a1 s, Keeps g s0 s → Keeps g s0 (shipNow a0 a1 s) := by
  intro a0 a1 s h
  unfold shipNow
  extract_lets +onlyGivenNames v1
  clear_value v1
  split
  ·
    rename_i y2 y3 y4
    refine @keeps_ite _ (Keeps g s0) _ _ _ _ ?_ ?_
    ·
      refine shipPage_keeps (hg.sub rfl) _ _ _ _ _ ?_
      with_reducible assumption
    ·
      with_reducible assumption
  ·
    rename_i y5 y6
    with_reducible assumption

theorem takePiece_keeps (hg : Free 134253320 g) : ∀ a0 s, Keeps g s0 s → Keeps g s0 (takePiece a0 s) := by
  intro a0 s h
  unfold takePiece
  extract_lets +onlyGivenNames v1
  clear_value v1
  split
  ·
    rename_i y2 y3
    refine complete_keeps (hg.sub rfl) _ _ _ _ ?_
    with_reducible assumption
  ·
    rename_i y4 y5 y6
    refine @keeps_ite _ (Keeps g s0) _ _ _ _ ?_ ?_
    ·
      refine complete_keeps (hg.sub rfl) _ _ _ _ ?_
      with_reducible assumption
    ·
      refine @keeps_ite _ (Keeps g s0) _ _ _ _ ?_ ?_
      ·
        refine sendPiece'_keeps (hg.sub rfl) _ _ _ ?_
        with_reducible assumption
      ·
        extract_lets +onlyGivenNames v7 v8 v9
        clear_value v7
        clear_value v8
        clear_value v9
        extract_lets +onlyGivenNames v10
        refine Keeps.cut (g := g) (s0 := s0) v10 ?_ (fun h11 => ?_)
        ·
          unfold v10
          refine keeps_sluice (s := s) (hg.sub rfl) ?_
          with_reducible assumption
        clear_value v10
        refine farPump_keeps (hg.sub rfl) _ _ ?_
        with_reducible assumption

theorem execMirrorLinkReturn_keeps (hg : Free 34816 g) : ∀ a0 s, Keeps g s0 s → KeepsN g s0 (execMirrorLinkReturn a0 s) := by
  intro a0 s h
  unfold execMirrorLinkReturn
  refine KeepsN.next ?_
  extract_lets +onlyGivenNames v1
  clear_value v1
  split
  ·
    rename_i y2 y3 y4
    refine @keeps_ite _ (Keeps g s0) _ _ _ _ ?_ ?_
    ·
      refine closeBatch_keeps (hg.sub rfl) _ _ _ ?_
      with_reducible assumption
    ·
      with_reducible assumption
  ·
    rename_i y5 y6
    with_reducible assumption

theorem execMirrorBatchAcked_keeps (hg : Free 134253312 g) : ∀ a0 s, Keeps g s0 s → KeepsN g s0 (execMirrorBatchAcked a0 s) := by
  intro a0 s h
  unfold execMirrorBatchAcked
  refine KeepsN.next ?_
  extract_lets +onlyGivenNames v1
  clear_value v1
  split
  ·
    rename_i y2 y3 y4
    refine @keeps_ite _ (Keeps g s0) _ _ _ _ ?_ ?_
    ·
      refine sendMirror_keeps (hg.sub rfl) _ _ _ _ _ ?_
      refine updMirror_keeps (hg.sub rfl) _ _ _ ?_
      with_reducible assumption
    ·
      with_reducible assumption
  ·
    rename_i y5 y6
    with_reducible assumption

theorem enterBehind_keeps (hg : Free 2048 g) : ∀ a0 a1 s, Keeps g s0 s → Keeps2 g s0 (enterBehind a0 a1 s) := by
  intro a0 a1 s h
  unfold enterBehind
  split
  ·
    rename_i y1 y2 y3 y4
    refine Keeps.cut (g := g) (s0 := s0) y3 (Keeps2.of_eq ?_ y4) (fun h5 => ?_)
    ·
      refine fresh_keeps (hg.sub rfl) _ _ ?_
      with_reducible assumption
    refine @keeps_ite _ (Keeps2 g s0) _ _ _ _ ?_ ?_
    ·
      extract_lets +onlyGivenNames v6
      clear_value v6
      refine Keeps2.mk ?_
      refine keeps_weir (s := y3) 2048 (hg.sub rfl) ?_ (.inr rfl) (.inl rfl)
      with_reducible assumption
    ·
      extract_lets +onlyGivenNames v7
      clear_value v7
      refine Keeps2.mk ?_
      refine keeps_weir (s := y3) 2048 (hg.sub rfl) ?_ (.inr rfl) (.inl rfl)
      with_reducible assumption

theorem goHome_keeps (hg : Free 134220544 g) : ∀ a0 s, Keeps g s0 s → Keeps g s0 (goHome a0 s) := by
  intro a0 s h
  unfold goHome
  refine @keeps_ite _ (Keeps g s0) _ _ _ _ ?_ ?_
  ·
    refine toPipe_keeps (hg.sub rfl) _ _ ?_
    with_reducible assumption
  ·
    split
    ·
      rename_i y1 y2 y3
      refine enqueue_keeps (hg.sub rfl) _ _ ?_
      with_reducible assumption
    ·
      rename_i y4 y5
      refine @keeps_ite _ (Keeps g s0) _ _ _ _ ?_ ?_
      ·
        refine complete_keeps (hg.sub rfl) _ _ _ _ ?_
        with_reducible assumption
      ·
        refine forward_keeps (hg.sub rfl) _ _ ?_
        with_reducible assumption

theorem followCombo_keeps (hg : Free 134220544 g) : ∀ a0 a1 s, Keeps g s0 s → Keeps g s0 (followCombo a0 a1 s) := by
  intro a0 a1 s
  induction a1 generalizing a0 s
  ·
    intro h1
    unfold followCombo
    with_reducible assumption
  ·
    rename_i y2 y3 y4
    intro h5
    unfold followCombo
    split
    ·
      rename_i y6 y7 y8
      refine y4 _ _ ?_
      refine waitBehind_keeps (hg.sub rfl) _ _ _ ?_
      with_reducible assumption
    ·
      rename_i y9 y10
      split
      ·
        rename_i y11 y12 y13 y14 y15
        refine @keeps_ite _ (Keeps g s0) _ _ _ _ ?_ ?_
        ·
          split
          ·
            rename_i y16 y17 y18 y19
            refine Keeps.cut (g := g) (s0 := s0) y18 (Keeps2.of_eq ?_ y19) (fun h20 => ?_)
            ·
              refine enterBehind_keeps (hg.sub rfl) _ _ _ ?_
              with_reducible assumption
            refine y4 _ _ ?_
            with_reducible assumption
        ·
          refine y4 _ _ ?_
          refine goHome_keeps (hg.sub rfl) _ _ ?_
          with_reducible assumption
      ·
        rename_i y21 y22 y23 y24
        refine y4 _ _ ?_
        refine goHome_keeps (hg.sub rfl) _ _ ?_
        with_reducible assumption

theorem closeCombo_keeps (hg : Free 134220544 g) : ∀ a0 s, Keeps g s0 s → Keeps g s0 (closeCombo a0 s) := by
  intro a0 s h
  unfold closeCombo
  extract_lets +onlyGivenNames v1 v2 v3
  refine Keeps.cut (g := g) (s0 := s0) v2 ?_ (fun h4 => ?_)
  ·
    unfold v2
    refine keeps_net (s := s) 512 (hg.sub rfl) ?_ (.inl rfl) (.inr rfl)
    with_reducible assumption
  clear_value v2
  clear_value v3
  extract_lets +onlyGivenNames v5
  extract_lets +onlyGivenNames v6
  refine Keeps.cut (g := g) (s0 := s0) v6 ?_ (fun h7 => ?_)
  ·
    unfold v6
    refine @keeps_ite _ (Keeps g s0) _ _ _ _ ?_ ?_
    ·
      refine forward_keeps (hg.sub rfl) _ _ ?_
      with_reducible assumption
    ·
      refine forward_keeps (hg.sub rfl) _ _ ?_
      refine keeps_net (s := v2) 512 (hg.sub rfl) ?_ (.inl rfl) (.inr rfl)
      with_reducible assumption
  clear_value v6
  refine followCombo_keeps (hg.sub rfl) _ _ _ ?_
  with_reducible assumption

theorem noteMisses_keeps (hg : Free 512 g) : ∀ a0 a1 s, Keeps g s0 s → Keeps g s0 (noteMisses a0 a1 s) := by
  intro a0 a1 s h
  unfold noteMisses
  extract_lets +onlyGivenNames v1
  extract_lets +onlyGivenNames v2
  refine Keeps.cut (g := g) (s0 := s0) v2 ?_ (fun h3 => ?_)
  ·
    unfold v2
    split
    ·
      rename_i y4 y5 y6
      refine keeps_net (s := s) 512 (hg.sub rfl) ?_ (.inl rfl) (.inr rfl)
      with_reducible assumption
    ·
      rename_i y7 y8
      with_reducible assumption
  clear_value v2
  split
  ·
    rename_i y9 y10 y11 y12
    refine keeps_net (s := v2) 512 (hg.sub rfl) ?_ (.inl rfl) (.inr rfl)
    with_reducible assumption
  ·
    rename_i y13 y14
    with_reducible assumption

theorem noteTags_keeps (hg : Free 512 g) : ∀ a0 a1 a2 s, Keeps g s0 s → Keeps g s0 (noteTags a0 a1 a2 s) := by
  intro a0 a1 a2 s h
  unfold noteTags
  split
  ·
    rename_i y1 y2
    extract_lets +onlyGivenNames v3 v4
    clear_value v3
    clear_value v4
    refine keeps_net (s := s) 512 (hg.sub rfl) ?_ (.inl rfl) (.inr rfl)
    with_reducible assumption
  ·
    rename_i y5 y6
    extract_lets +onlyGivenNames v7 v8
    clear_value v7
    clear_value v8
    refine keeps_net (s := s) 512 (hg.sub rfl) ?_ (.inl rfl) (.inr rfl)
    with_reducible assumption
  ·
    rename_i y9 y10 y11
    with_reducible assumption

theorem noteBehind_keeps (hg : Free 65664 g) : ∀ a0 s, Keeps g s0 s → Keeps g s0 (noteBehind a0 s) := by
  intro a0 s h
  unfold noteBehind
  refine @keeps_ite _ (Keeps g s0) _ _ _ _ ?_ ?_
  ·
    refine logEv_keeps (hg.sub rfl) _ _ _ _ _ _ _ ?_
    refine keeps_map (s := s) (hg.sub rfl) ?_
    with_reducible assumption
  ·
    with_reducible assumption

theorem noteStage_keeps (hg : Free 134253312 g) : ∀ a0 s, Keeps g s0 s → Keeps g s0 (noteStage a0 s) := by
  intro a0 s h
  unfold noteStage
  refine @keeps_ite _ (Keeps g s0) _ _ _ _ ?_ ?_
  ·
    refine keeps_foldl (P := Keeps g s0) (fun b1 x2 h3 => ?_) _ _ ?_
    ·
      refine @keeps_ite _ (Keeps g s0) _ _ _ _ ?_ ?_
      ·
        refine needStage_keeps (hg.sub rfl) _ _ ?_
        with_reducible assumption
      ·
        with_reducible assumption
    ·
      with_reducible assumption
  ·
    with_reducible assumption

theorem takeIn_keeps (hg : Free 134220544 g) : ∀ a0 s, Keeps g s0 s → Keeps g s0 (takeIn a0 s) := by
  intro a0 s h
  unfold takeIn
  split
  ·
    rename_i y1 y2 y3
    extract_lets +onlyGivenNames v4 v5
    extract_lets +onlyGivenNames v6
    refine Keeps.cut (g := g) (s0 := s0) v6 ?_ (fun h7 => ?_)
    ·
      unfold v6
      refine keeps_net (s := s) 512 (hg.sub rfl) ?_ (.inl rfl) (.inr rfl)
      with_reducible assumption
    clear_value v6
    refine @keeps_ite _ (Keeps g s0) _ _ _ _ ?_ ?_
    ·
      refine closeCombo_keeps (hg.sub rfl) _ _ ?_
      with_reducible assumption
    ·
      with_reducible assumption
  ·
    rename_i y8 y9
    split
    ·
      rename_i y10 y11 y12
      refine waitBehind_keeps (hg.sub rfl) _ _ _ ?_
      with_reducible assumption
    ·
      rename_i y13 y14
      refine @keeps_ite _ (Keeps g s0) _ _ _ _ ?_ ?_
      ·
        extract_lets +onlyGivenNames v15
        clear_value v15
        refine keeps_update (s := s) 2560 (hg.sub rfl) ?_ (.inr rfl) (.inr rfl) (.inr rfl) (.inr rfl) (.inr rfl) (.inr rfl) (.inr rfl) (.inr rfl) (.inr rfl) (.inl rfl) (.inr rfl) (.inl rfl) (.inr rfl) (.inr rfl) (.inr rfl) (.inr rfl) (.inr rfl) (.inr rfl) (.inr rfl) (.inr rfl) (.inr rfl) (.inr rfl) (.inr rfl) (.inr rfl) (.inr rfl) (.inr rfl) (.inr rfl) (.inr rfl) (.inr rfl) (.inr rfl) (.inr rfl) (.inr rfl) (.inr rfl) (.inr rfl) (fun m => m)
        with_reducible assumption
      ·
        refine goHome_keeps (hg.sub rfl) _ _ ?_
        with_reducible assumption

theorem takeAll_keeps (hg : Free 134220544 g) : ∀ a0 a1 a2 s, Keeps g s0 s → Keeps g s0 (takeAll a0 a1 a2 s) := by
  intro a0 a1 a2 s h
  unfold takeAll
  extract_lets +onlyGivenNames v1 v2
  clear_value v1
  clear_value v2
  extract_lets +onlyGivenNames v3
  clear_value v3
  refine @keeps_ite _ (Keeps g s0) _ _ _ _ ?_ ?_
  ·
    refine complete_keeps (hg.sub rfl) _ _ _ _ ?_
    with_reducible assumption
  ·
    split
    ·
      rename_i y4 y5 y6
      refine complete_keeps (hg.sub rfl) _ _ _ _ ?_
      with_reducible assumption
    ·
      rename_i y7 y8
      split
      ·
        rename_i y9 y10 y11 y12
        refine Keeps.cut (g := g) (s0 := s0) y11 (Keeps2.of_eq ?_ y12) (fun h13 => ?_)
        ·
          refine joinPieces_keeps (hg.sub rfl) _ _ _ ?_
          with_reducible assumption
        refine keeps_foldl (P := Keeps g s0) (fun b14 x15 h16 => ?_) _ _ ?_
        ·
          refine takeIn_keeps (hg.sub rfl) _ _ ?_
          with_reducible assumption
        ·
          with_reducible assumption

theorem noteUse_keeps (hg : Free 512 g) : ∀ a0 a1 s, Keeps g s0 s → Keeps g s0 (noteUse a0 a1 s) := by
  intro a0 a1 s h
  unfold noteUse
  extract_lets +onlyGivenNames v1 v2
  clear_value v1
  clear_value v2
  refine keeps_net (s := s) 512 (hg.sub rfl) ?_ (.inl rfl) (.inr rfl)
  with_reducible assumption

theorem recordHold_keeps (hg : Free 2147483648 g) : ∀ a0 a1 a2 s, Keeps g s0 s → Keeps g s0 (recordHold a0 a1 a2 s) := by
  intro a0 a1 a2 s h
  unfold recordHold
  refine @keeps_ite _ (Keeps g s0) _ _ _ _ ?_ ?_
  ·
    with_reducible assumption
  ·
    split
    ·
      rename_i y1 y2
      refine updLink_keeps (hg.sub rfl) _ _ _ ?_
      with_reducible assumption
    ·
      rename_i y3
      refine updLink_keeps (hg.sub rfl) _ _ _ ?_
      with_reducible assumption
    ·
      rename_i y4
      refine updLink_keeps (hg.sub rfl) _ _ _ ?_
      with_reducible assumption
    ·
      rename_i y5 y6
      with_reducible assumption

theorem noteDecision_keeps (hg : Free 2281802624 g) : ∀ a0 a1 a2 a3 s, Keeps g s0 s → Keeps g s0 (noteDecision a0 a1 a2 a3 s) := by
  intro a0 a1 a2 a3 s h
  unfold noteDecision
  refine @keeps_ite _ (Keeps g s0) _ _ _ _ ?_ ?_
  ·
    with_reducible assumption
  ·
    refine noteTags_keeps (hg.sub rfl) _ _ _ _ ?_
    refine noteStage_keeps (hg.sub rfl) _ _ ?_
    refine recordHold_keeps (hg.sub rfl) _ _ _ _ ?_
    refine noteBehind_keeps (hg.sub rfl) _ _ ?_
    refine noteUse_keeps (hg.sub rfl) _ _ _ ?_
    refine noteMisses_keeps (hg.sub rfl) _ _ _ ?_
    with_reducible assumption

theorem refreshPorts_keeps (hg : Free 2147483648 g) : ∀ s, Keeps g s0 s → Keeps g s0 (refreshPorts s) := by
  intro s h
  unfold refreshPorts
  extract_lets +onlyGivenNames v1
  clear_value v1
  refine keeps_net (s := s) 2147483648 (hg.sub rfl) ?_ (.inr rfl) (.inl rfl)
  with_reducible assumption

theorem remap_keeps (hg : Free 512 g) : ∀ a0 s, Keeps g s0 s → Keeps g s0 (remap a0 s) := by
  intro a0 s h
  unfold remap
  extract_lets +onlyGivenNames v1 v2
  clear_value v1
  clear_value v2
  refine keeps_net (s := s) 512 (hg.sub rfl) ?_ (.inl rfl) (.inr rfl)
  with_reducible assumption

theorem retrainLink_keeps (hg : Free 2147484160 g) : ∀ a0 s, Keeps g s0 s → Keeps g s0 (retrainLink a0 s) := by
  intro a0 s h
  unfold retrainLink
  extract_lets +onlyGivenNames v1 v2 v3 v4
  refine Keeps.cut (g := g) (s0 := s0) v1 ?_ (fun h5 => ?_)
  ·
    unfold v1
    refine updLink_keeps (hg.sub rfl) _ _ _ ?_
    with_reducible assumption
  clear_value v1
  clear_value v2
  refine Keeps.cut (g := g) (s0 := s0) v3 ?_ (fun h6 => ?_)
  ·
    unfold v3
    refine keeps_foldl (P := Keeps g s0) (fun b7 x8 h9 => ?_) _ _ ?_
    ·
      refine confEntry_keeps (hg.sub rfl) _ _ _ ?_
      with_reducible assumption
    ·
      with_reducible assumption
  clear_value v3
  clear_value v4
  refine remap_keeps (hg.sub rfl) _ _ ?_
  refine keeps_net (s := v3) 512 (hg.sub rfl) ?_ (.inl rfl) (.inr rfl)
  with_reducible assumption

theorem nakLink_keeps (hg : Free 2147484160 g) : ∀ a0 s, Keeps g s0 s → Keeps g s0 (nakLink a0 s) := by
  intro a0 s h
  unfold nakLink
  extract_lets +onlyGivenNames v1
  refine Keeps.cut (g := g) (s0 := s0) v1 ?_ (fun h2 => ?_)
  ·
    unfold v1
    refine updLink_keeps (hg.sub rfl) _ _ _ ?_
    with_reducible assumption
  clear_value v1
  refine @keeps_ite _ (Keeps g s0) _ _ _ _ ?_ ?_
  ·
    refine refreshPorts_keeps (hg.sub rfl) _ ?_
    refine retrainLink_keeps (hg.sub rfl) _ _ ?_
    with_reducible assumption
  ·
    with_reducible assumption

theorem execNakTimeout_keeps (hg : Free 2147484160 g) : ∀ a0 s, Keeps g s0 s → KeepsN g s0 (execNakTimeout a0 s) := by
  intro a0 s h
  unfold execNakTimeout
  refine KeepsN.next ?_
  refine @keeps_ite _ (Keeps g s0) _ _ _ _ ?_ ?_
  ·
    refine nakLink_keeps (hg.sub rfl) _ _ ?_
    with_reducible assumption
  ·
    with_reducible assumption

theorem sendFlit_keeps (hg : Free 134217728 g) : ∀ a0 a1 a2 a3 s, Keeps g s0 s → Keeps g s0 (sendFlit a0 a1 a2 a3 s) := by
  intro a0 a1 a2 a3 s h
  unfold sendFlit
  refine emit_keeps (hg.sub rfl) _ _ ?_
  with_reducible assumption

theorem sendEmpty_keeps (hg : Free 2281701376 g) : ∀ a0 s, Keeps g s0 s → Keeps g s0 (sendEmpty a0 s) := by
  intro a0 s h
  unfold sendEmpty
  extract_lets +onlyGivenNames v1 v2
  clear_value v1
  refine Keeps.cut (g := g) (s0 := s0) v2 ?_ (fun h3 => ?_)
  ·
    unfold v2
    refine updLink_keeps (hg.sub rfl) _ _ _ ?_
    with_reducible assumption
  clear_value v2
  refine sendFlit_keeps (hg.sub rfl) _ _ _ _ _ ?_
  with_reducible assumption

theorem execLaneFailure_keeps (hg : Free 2147484160 g) : ∀ a0 a1 s, Keeps g s0 s → KeepsN g s0 (execLaneFailure a0 a1 s) := by
  intro a0 a1 s h
  unfold execLaneFailure
  refine KeepsN.next ?_
  refine @keeps_ite _ (Keeps g s0) _ _ _ _ ?_ ?_
  ·
    with_reducible assumption
  ·
    refine refreshPorts_keeps (hg.sub rfl) _ ?_
    refine retrainLink_keeps (hg.sub rfl) _ _ ?_
    with_reducible assumption

theorem noteAnswered_keeps (hg : Free 512 g) : ∀ a0 a1 a2 s, Keeps g s0 s → Keeps g s0 (noteAnswered a0 a1 a2 s) := by
  intro a0 a1 a2 s h
  unfold noteAnswered
  extract_lets +onlyGivenNames v1 v2
  clear_value v1
  clear_value v2
  refine keeps_net (s := s) 512 (hg.sub rfl) ?_ (.inl rfl) (.inr rfl)
  with_reducible assumption

theorem takeCell0_keeps (hg : Free 2147484160 g) : ∀ a0 a1 s, Keeps g s0 s → Keeps g s0 (takeCell0 a0 a1 s) := by
  intro a0 a1 s h
  unfold takeCell0
  extract_lets +onlyGivenNames v1 v2 v3 v4 v5 v6 v7 v8 v9 v10 v11 v12
  clear_value v1
  clear_value v2
  clear_value v3
  clear_value v4
  clear_value v5
  clear_value v6
  clear_value v7
  refine Keeps.cut (g := g) (s0 := s0) v8 ?_ (fun h13 => ?_)
  ·
    unfold v8
    refine updLink_keeps (hg.sub rfl) _ _ _ ?_
    with_reducible assumption
  clear_value v8
  clear_value v9
  clear_value v10
  clear_value v11
  extract_lets +onlyGivenNames v14
  refine Keeps.cut (g := g) (s0 := s0) v14 ?_ (fun h15 => ?_)
  ·
    unfold v14
    refine keeps_net (s := v8) 512 (hg.sub rfl) ?_ (.inl rfl) (.inr rfl)
    with_reducible assumption
  clear_value v14
  refine @keeps_ite _ (Keeps g s0) _ _ _ _ ?_ ?_
  ·
    refine refreshPorts_keeps (hg.sub rfl) _ ?_
    refine retrainLink_keeps (hg.sub rfl) _ _ ?_
    with_reducible assumption
  ·
    with_reducible assumption

theorem execHoldRetry_keeps (hg : Free 512 g) : ∀ a0 a1 s, Keeps g s0 s → KeepsN g s0 (execHoldRetry a0 a1 s) := by
  intro a0 a1 s h
  unfold execHoldRetry
  refine KeepsN.next ?_
  split
  ·
    rename_i y1 y2
    with_reducible assumption
  ·
    rename_i y3 y4 y5
    refine @keeps_ite _ (Keeps g s0) _ _ _ _ ?_ ?_
    ·
      with_reducible assumption
    ·
      extract_lets +onlyGivenNames v6
      clear_value v6
      refine keeps_net (s := s) 512 (hg.sub rfl) ?_ (.inl rfl) (.inr rfl)
      with_reducible assumption

theorem execAckTimeout_keeps (hg : Free 2147484160 g) : ∀ a0 s, Keeps g s0 s → KeepsN g s0 (execAckTimeout a0 s) := by
  intro a0 s h
  unfold execAckTimeout
  refine KeepsN.next ?_
  refine @keeps_ite _ (Keeps g s0) _ _ _ _ ?_ ?_
  ·
    with_reducible assumption
  ·
    refine refreshPorts_keeps (hg.sub rfl) _ ?_
    refine retrainLink_keeps (hg.sub rfl) _ _ ?_
    with_reducible assumption

theorem takeAnswers_keeps (hg : Free 512 g) : ∀ a0 a1 s, Keeps g s0 s → Keeps g s0 (takeAnswers a0 a1 s) := by
  intro a0 a1 s h
  unfold takeAnswers
  extract_lets +onlyGivenNames v1 v2
  clear_value v1
  clear_value v2
  refine @keeps_ite _ (Keeps g s0) _ _ _ _ ?_ ?_
  ·
    with_reducible assumption
  ·
    extract_lets +onlyGivenNames v3 v4 v5
    clear_value v3
    clear_value v4
    clear_value v5
    split
    ·
      rename_i y6 y7
      with_reducible assumption
    ·
      rename_i y8 y9 y10
      extract_lets +onlyGivenNames v11
      clear_value v11
      refine @keeps_ite _ (Keeps g s0) _ _ _ _ ?_ ?_
      ·
        with_reducible assumption
      ·
        extract_lets +onlyGivenNames v12
        clear_value v12
        refine keeps_net (s := s) 512 (hg.sub rfl) ?_ (.inl rfl) (.inr rfl)
        with_reducible assumption

theorem countFlit_keeps (hg : Free 2147483648 g) : ∀ a0 a1 s, Keeps g s0 s → Keeps g s0 (countFlit a0 a1 s) := by
  intro a0 a1 s h
  unfold countFlit
  refine updLink_keeps (hg.sub rfl) _ _ _ ?_
  with_reducible assumption

theorem takeHello_keeps (hg : Free 2147566080 g) : ∀ a0 a1 a2 s, Keeps g s0 s → Keeps g s0 (takeHello a0 a1 a2 s) := by
  intro a0 a1 a2 s h
  unfold takeHello
  split
  ·
    rename_i y1 y2
    with_reducible assumption
  ·
    rename_i y3 y4 y5
    extract_lets +onlyGivenNames v6 v7
    clear_value v6
    clear_value v7
    refine @keeps_ite _ (Keeps g s0) _ _ _ _ ?_ ?_
    ·
      with_reducible assumption
    ·
      extract_lets +onlyGivenNames v8 v9
      clear_value v8
      clear_value v9
      refine @keeps_ite _ (Keeps g s0) _ _ _ _ ?_ ?_
      ·
        refine updLink_keeps (hg.sub rfl) _ _ _ ?_
        with_reducible assumption
      ·
        extract_lets +onlyGivenNames v10 v11 v12 v13 v14
        clear_value v10
        refine Keeps.cut (g := g) (s0 := s0) v11 ?_ (fun h15 => ?_)
        ·
          unfold v11
          refine updLink_keeps (hg.sub rfl) _ _ _ ?_
          with_reducible assumption
        clear_value v11
        clear_value v12
        refine Keeps.cut (g := g) (s0 := s0) v14 ?_ (fun h16 => ?_)
        ·
          unfold v14
          refine remap_keeps (hg.sub rfl) _ _ ?_
          refine keeps_net (s := v11) 2147483648 (hg.sub rfl) ?_ (.inr rfl) (.inl rfl)
          with_reducible assumption
        clear_value v14
        extract_lets +onlyGivenNames v17
        refine Keeps.cut (g := g) (s0 := s0) v17 ?_ (fun h18 => ?_)
        ·
          unfold v17
          refine refreshPorts_keeps (hg.sub rfl) _ ?_
          with_reducible assumption
        clear_value v17
        refine @keeps_ite _ (Keeps g s0) _ _ _ _ ?_ ?_
        ·
          refine agentJoins_keeps (hg.sub rfl) _ _ ?_
          with_reducible assumption
        ·
          with_reducible assumption

theorem execHelloFlit_keeps (hg : Free 2147566080 g) : ∀ a0 a1 a2 s, Keeps g s0 s → KeepsN g s0 (execHelloFlit a0 a1 a2 s) := by
  intro a0 a1 a2 s h
  unfold execHelloFlit
  refine KeepsN.next ?_
  refine takeHello_keeps (hg.sub rfl) _ _ _ _ ?_
  with_reducible assumption

theorem sendSequenced_keeps (hg : Free 2281701888 g) : ∀ a0 s, Keeps g s0 s → Keeps g s0 (sendSequenced a0 s) := by
  intro a0 s h
  unfold sendSequenced
  extract_lets +onlyGivenNames v1 v2 v3 v4 v5 v6 v7 v8
  clear_value v1
  clear_value v3
  clear_value v4
  clear_value v5
  clear_value v6
  clear_value v7
  clear_value v8
  split
  ·
    rename_i y9 y10 y11 y12
    extract_lets +onlyGivenNames v13 v14 v15 v16 v17 v18 v19
    clear_value v13
    clear_value v14
    clear_value v15
    clear_value v16
    clear_value v17
    refine Keeps.cut (g := g) (s0 := s0) v18 ?_ (fun h20 => ?_)
    ·
      unfold v18
      refine noteAnswered_keeps (hg.sub rfl) _ _ _ _ ?_
      refine keeps_net (s := s) 2147484160 (hg.sub rfl) ?_ (.inl rfl) (.inl rfl)
      with_reducible assumption
    clear_value v18
    refine Keeps.cut (g := g) (s0 := s0) v19 ?_ (fun h21 => ?_)
    ·
      unfold v19
      refine updLink_keeps (hg.sub rfl) _ _ _ ?_
      with_reducible assumption
    clear_value v19
    refine sendFlit_keeps (hg.sub rfl) _ _ _ _ _ ?_
    with_reducible assumption

theorem sendFresh_keeps (hg : Free 2281701888 g) : ∀ a0 s, Keeps g s0 s → Keeps g s0 (sendFresh a0 s) := by
  intro a0 s h
  unfold sendFresh
  extract_lets +onlyGivenNames v1
  clear_value v1
  refine @keeps_ite _ (Keeps g s0) _ _ _ _ ?_ ?_
  ·
    refine sendEmpty_keeps (hg.sub rfl) _ _ ?_
    with_reducible assumption
  ·
    refine sendSequenced_keeps (hg.sub rfl) _ _ ?_
    with_reducible assumption

theorem heardDown_keeps (hg : Free 2281724672 g) : ∀ a0 a1 s, Keeps g s0 s → Keeps g s0 (heardDown a0 a1 s) := by
  intro a0 a1 s h
  unfold heardDown
  refine @keeps_ite _ (Keeps g s0) _ _ _ _ ?_ ?_
  ·
    split
    ·
      rename_i y1 y2 y3
      refine @keeps_ite _ (Keeps g s0) _ _ _ _ ?_ ?_
      ·
        refine fallDomain_keeps (hg.sub rfl) _ _ _ ?_
        with_reducible assumption
      ·
        with_reducible assumption
    ·
      rename_i y4 y5
      with_reducible assumption
  ·
    with_reducible assumption

theorem takeResponse_keeps (hg : Free 2281757440 g) : ∀ a0 a1 a2 s, Keeps g s0 s → Keeps g s0 (takeResponse a0 a1 a2 s) := by
  intro a0 a1 a2 s h
  unfold takeResponse
  split
  ·
    rename_i y1 y2
    with_reducible assumption
  ·
    rename_i y3 y4 y5
    extract_lets +onlyGivenNames v6
    extract_lets +onlyGivenNames v7
    refine Keeps.cut (g := g) (s0 := s0) v7 ?_ (fun h8 => ?_)
    ·
      unfold v7
      refine keeps_net (s := s) 512 (hg.sub rfl) ?_ (.inl rfl) (.inr rfl)
      with_reducible assumption
    clear_value v7
    refine @keeps_ite _ (Keeps g s0) _ _ _ _ ?_ ?_
    ·
      with_reducible assumption
    ·
      refine complete_keeps (hg.sub rfl) _ _ _ _ ?_
      refine acquired_keeps (hg.sub rfl) _ _ ?_
      refine heardDown_keeps (hg.sub rfl) _ _ _ ?_
      with_reducible assumption

theorem deliver_keeps (hg : Free 2281757440 g) : ∀ a0 a1 s, Keeps g s0 s → Keeps g s0 (deliver a0 a1 s) := by
  intro a0 a1 s h
  unfold deliver
  extract_lets +onlyGivenNames v1
  clear_value v1
  refine @keeps_ite _ (Keeps g s0) _ _ _ _ ?_ ?_
  ·
    extract_lets +onlyGivenNames v2 v3 v4
    clear_value v2
    clear_value v3
    refine Keeps.cut (g := g) (s0 := s0) v4 ?_ (fun h5 => ?_)
    ·
      unfold v4
      refine @keeps_ite _ (Keeps g s0) _ _ _ _ ?_ ?_
      ·
        with_reducible assumption
      ·
        refine updLink_keeps (hg.sub rfl) _ _ _ ?_
        with_reducible assumption
    clear_value v4
    split
    ·
      rename_i y6 y7
      with_reducible assumption
    ·
      rename_i y8 y9 y10 y11
      extract_lets +onlyGivenNames v12
      clear_value v12
      refine takeAll_keeps (hg.sub rfl) _ _ _ _ ?_
      with_reducible assumption
  ·
    refine takeResponse_keeps (hg.sub rfl) _ _ _ _ ?_
    with_reducible assumption

theorem execExtentCacheFill_keeps (hg : Free 512 g) : ∀ a0 a1 s, Keeps g s0 s → KeepsN g s0 (execExtentCacheFill a0 a1 s) := by
  intro a0 a1 s h
  unfold execExtentCacheFill
  refine KeepsN.next ?_
  split
  ·
    rename_i y1 y2
    with_reducible assumption
  ·
    rename_i y3 y4 y5
    refine ecInsert_keeps (hg.sub rfl) _ _ ?_
    refine keeps_net (s := s) 512 (hg.sub rfl) ?_ (.inl rfl) (.inr rfl)
    with_reducible assumption

theorem takeRspHdr_keeps (hg : Free 2147483648 g) : ∀ a0 a1 a2 a3 s, Keeps g s0 s → Keeps g s0 (takeRspHdr a0 a1 a2 a3 s) := by
  intro a0 a1 a2 a3 s h
  unfold takeRspHdr
  refine updLink_keeps (hg.sub rfl) _ _ _ ?_
  with_reducible assumption

theorem replayMissed_keeps (hg : Free 2147484160 g) : ∀ a0 a1 s, Keeps g s0 s → Keeps g s0 (replayMissed a0 a1 s) := by
  intro a0 a1 s h
  unfold replayMissed
  extract_lets +onlyGivenNames v1 v2
  clear_value v1
  clear_value v2
  refine updLink_keeps (hg.sub rfl) _ _ _ ?_
  refine @keeps_ite _ (Keeps g s0) _ _ _ _ ?_ ?_
  ·
    with_reducible assumption
  ·
    refine nakLink_keeps (hg.sub rfl) _ _ ?_
    with_reducible assumption

theorem rereadCancelled_keeps (hg : Free 2560 g) : ∀ a0 s, Keeps g s0 s → Keeps g s0 (rereadCancelled a0 s) := by
  intro a0 s h
  unfold rereadCancelled
  extract_lets +onlyGivenNames v1 v2
  clear_value v1
  extract_lets +onlyGivenNames v3
  refine Keeps.cut (g := g) (s0 := s0) v3 ?_ (fun h4 => ?_)
  ·
    unfold v3
    refine keeps_net (s := s) 512 (hg.sub rfl) ?_ (.inl rfl) (.inr rfl)
    with_reducible assumption
  clear_value v3
  refine keeps_foldl (P := Keeps g s0) (fun b5 x6 h7 => ?_) _ _ ?_
  ·
    refine toPipe_keeps (hg.sub rfl) _ _ ?_
    with_reducible assumption
  ·
    with_reducible assumption

theorem leavePort_keeps (hg : Free 2147551744 g) : ∀ a0 a1 s, Keeps g s0 s → Keeps g s0 (leavePort a0 a1 s) := by
  intro a0 a1 s h
  unfold leavePort
  split
  ·
    rename_i y1 y2
    with_reducible assumption
  ·
    rename_i y3 y4 y5
    extract_lets +onlyGivenNames v6 v7 v8 v9 v10 v11 v12 v13 v14
    clear_value v6
    refine Keeps.cut (g := g) (s0 := s0) v7 ?_ (fun h15 => ?_)
    ·
      unfold v7
      refine updLink_keeps (hg.sub rfl) _ _ _ ?_
      with_reducible assumption
    clear_value v7
    clear_value v8
    clear_value v9
    clear_value v10
    refine Keeps.cut (g := g) (s0 := s0) v12 ?_ (fun h16 => ?_)
    ·
      unfold v12
      refine keeps_net (s := v7) 512 (hg.sub rfl) ?_ (.inl rfl) (.inr rfl)
      with_reducible assumption
    clear_value v12
    refine Keeps.cut (g := g) (s0 := s0) v13 ?_ (fun h17 => ?_)
    ·
      unfold v13
      refine rereadCancelled_keeps (hg.sub rfl) _ _ ?_
      refine retrainLink_keeps (hg.sub rfl) _ _ ?_
      with_reducible assumption
    clear_value v13
    refine Keeps.cut (g := g) (s0 := s0) v14 ?_ (fun h18 => ?_)
    ·
      unfold v14
      refine updLink_keeps (hg.sub rfl) _ _ _ ?_
      with_reducible assumption
    clear_value v14
    extract_lets +onlyGivenNames v19
    refine Keeps.cut (g := g) (s0 := s0) v19 ?_ (fun h20 => ?_)
    ·
      unfold v19
      refine updLink_keeps (hg.sub rfl) _ _ _ ?_
      with_reducible assumption
    clear_value v19
    refine refreshPorts_keeps (hg.sub rfl) _ ?_
    refine logEv_keeps (hg.sub rfl) _ _ _ _ _ _ _ ?_
    with_reducible assumption

theorem linkViolation_keeps (hg : Free 2281790208 g) : ∀ a0 s, Keeps g s0 s → Keeps g s0 (linkViolation a0 s) := by
  intro a0 s h
  unfold linkViolation
  split
  ·
    rename_i y1 y2
    with_reducible assumption
  ·
    rename_i y3 y4 y5
    extract_lets +onlyGivenNames v6
    clear_value v6
    refine @keeps_ite _ (Keeps g s0) _ _ _ _ ?_ ?_
    ·
      refine declareDead_keeps (hg.sub rfl) _ _ _ ?_
      with_reducible assumption
    ·
      extract_lets +onlyGivenNames v7 v8 v9 v10
      clear_value v7
      clear_value v8
      refine Keeps.cut (g := g) (s0 := s0) v9 ?_ (fun h11 => ?_)
      ·
        unfold v9
        refine updLink_keeps (hg.sub rfl) _ _ _ ?_
        with_reducible assumption
      clear_value v9
      refine Keeps.cut (g := g) (s0 := s0) v10 ?_ (fun h12 => ?_)
      ·
        unfold v10
        refine setAlert_keeps (hg.sub rfl) _ _ ?_
        refine logEv_keeps (hg.sub rfl) _ _ _ _ _ _ _ ?_
        with_reducible assumption
      clear_value v10
      refine @keeps_ite _ (Keeps g s0) _ _ _ _ ?_ ?_
      ·
        refine leavePort_keeps (hg.sub rfl) _ _ _ ?_
        with_reducible assumption
      ·
        refine refreshPorts_keeps (hg.sub rfl) _ ?_
        refine retrainLink_keeps (hg.sub rfl) _ _ ?_
        with_reducible assumption

theorem feedAll_keeps (hg : Free 2281757440 g) : ∀ a0 a1 a2 s, Keeps g s0 s → Keeps g s0 (feedAll a0 a1 a2 s) := by
  intro a0 a1 a2 s
  induction a1 generalizing a0 a2 s
  ·
    intro h1
    unfold feedAll
    with_reducible assumption
  ·
    rename_i y2 y3
    intro h4
    unfold feedAll
    split
    ·
      rename_i y5 y6
      with_reducible assumption
    ·
      rename_i y7 y8 y9 y10
      extract_lets +onlyGivenNames v11 v12
      clear_value v11
      clear_value v12
      refine @keeps_ite _ (Keeps g s0) _ _ _ _ ?_ ?_
      ·
        refine updLink_keeps (hg.sub rfl) _ _ _ ?_
        with_reducible assumption
      ·
        refine y3 _ _ _ ?_
        refine deliver_keeps (hg.sub rfl) _ _ _ ?_
        refine updLink_keeps (hg.sub rfl) _ _ _ ?_
        with_reducible assumption

theorem takeReqHdr_keeps (hg : Free 2281823104 g) : ∀ a0 a1 a2 a3 s, Keeps g s0 s → Keeps g s0 (takeReqHdr a0 a1 a2 a3 s) := by
  intro a0 a1 a2 a3 s h
  unfold takeReqHdr
  split
  ·
    rename_i y1 y2
    with_reducible assumption
  ·
    rename_i y3 y4 y5
    extract_lets +onlyGivenNames v6 v7 v8 v9 v10 v11 v12 v13
    clear_value v6
    clear_value v7
    clear_value v8
    clear_value v9
    refine Keeps.cut (g := g) (s0 := s0) v10 ?_ (fun h14 => ?_)
    ·
      unfold v10
      refine noteDecision_keeps (hg.sub rfl) _ _ _ _ _ ?_
      with_reducible assumption
    clear_value v10
    clear_value v11
    refine Keeps.cut (g := g) (s0 := s0) v12 ?_ (fun h15 => ?_)
    ·
      unfold v12
      refine updLink_keeps (hg.sub rfl) _ _ _ ?_
      with_reducible assumption
    clear_value v12
    clear_value v13
    split
    ·
      rename_i y16 y17 y18 y19
      refine Keeps.cut (g := g) (s0 := s0) y18 (Keeps2.of_eq ?_ y19) (fun h20 => ?_)
      ·
        refine @keeps_ite _ (Keeps2 g s0) _ _ _ _ ?_ ?_
        ·
          refine Keeps2.mk ?_
          with_reducible assumption
        ·
          refine numberAll_keeps (hg.sub rfl) _ _ ?_
          with_reducible assumption
      extract_lets +onlyGivenNames v21 v22 v23
      refine Keeps.cut (g := g) (s0 := s0) v21 ?_ (fun h24 => ?_)
      ·
        unfold v21
        split
        ·
          rename_i y25 y26 y27
          refine updLink_keeps (hg.sub rfl) _ _ _ ?_
          with_reducible assumption
        ·
          rename_i y28
          with_reducible assumption
      clear_value v21
      clear_value v22
      refine Keeps.cut (g := g) (s0 := s0) v23 ?_ (fun h29 => ?_)
      ·
        unfold v23
        refine @keeps_ite _ (Keeps g s0) _ _ _ _ ?_ ?_
        ·
          refine linkViolation_keeps (hg.sub rfl) _ _ ?_
          with_reducible assumption
        ·
          with_reducible assumption
      clear_value v23
      refine updLink_keeps (hg.sub rfl) _ _ _ ?_
      with_reducible assumption

theorem takeCells_keeps (hg : Free 2281823104 g) : ∀ a0 a1 s, Keeps g s0 s → Keeps g s0 (takeCells a0 a1 s) := by
  intro a0 a1 s h
  unfold takeCells
  extract_lets +onlyGivenNames v1 v2 v3 v4 v5 v6
  clear_value v1
  clear_value v2
  refine Keeps.cut (g := g) (s0 := s0) v3 ?_ (fun h7 => ?_)
  ·
    unfold v3
    refine keeps_foldl (P := Keeps g s0) (fun b8 x9 h10 => ?_) _ _ ?_
    ·
      split
      ·
        rename_i y11 y12
        refine takeReqHdr_keeps (hg.sub rfl) _ _ _ _ _ ?_
        with_reducible assumption
      ·
        rename_i y13 y14
        refine takeRspHdr_keeps (hg.sub rfl) _ _ _ _ _ ?_
        with_reducible assumption
      ·
        rename_i y15 y16 y17
        with_reducible assumption
    ·
      with_reducible assumption
  clear_value v3
  clear_value v4
  clear_value v5
  clear_value v6
  refine feedAll_keeps (hg.sub rfl) _ _ _ _ ?_
  with_reducible assumption

theorem takeSequenced_keeps (hg : Free 2281823104 g) : ∀ a0 a1 s, Keeps g s0 s → Keeps g s0 (takeSequenced a0 a1 s) := by
  intro a0 a1 s h
  unfold takeSequenced
  extract_lets +onlyGivenNames v1 v2 v3 v4
  clear_value v1
  clear_value v2
  clear_value v3
  clear_value v4
  refine @keeps_ite _ (Keeps g s0) _ _ _ _ ?_ ?_
  ·
    refine @keeps_ite _ (Keeps g s0) _ _ _ _ ?_ ?_
    ·
      refine replayMissed_keeps (hg.sub rfl) _ _ _ ?_
      with_reducible assumption
    ·
      with_reducible assumption
  ·
    refine @keeps_ite _ (Keeps g s0) _ _ _ _ ?_ ?_
    ·
      refine @keeps_ite _ (Keeps g s0) _ _ _ _ ?_ ?_
      ·
        with_reducible assumption
      ·
        refine nakLink_keeps (hg.sub rfl) _ _ ?_
        with_reducible assumption
    ·
      refine @keeps_ite _ (Keeps g s0) _ _ _ _ ?_ ?_
      ·
        refine linkViolation_keeps (hg.sub rfl) _ _ ?_
        with_reducible assumption
      ·
        extract_lets +onlyGivenNames v5
        refine Keeps.cut (g := g) (s0 := s0) v5 ?_ (fun h6 => ?_)
        ·
          unfold v5
          refine updLink_keeps (hg.sub rfl) _ _ _ ?_
          with_reducible assumption
        clear_value v5
        refine @keeps_ite _ (Keeps g s0) _ _ _ _ ?_ ?_
        ·
          refine takeHello_keeps (hg.sub rfl) _ _ _ _ ?_
          with_reducible assumption
        ·
          refine takeCells_keeps (hg.sub rfl) _ _ _ ?_
          with_reducible assumption

theorem noteStale_keeps (hg : Free 512 g) : ∀ a0 a1 s, Keeps g s0 s → Keeps g s0 (noteStale a0 a1 s) := by
  intro a0 a1 s h
  unfold noteStale
  extract_lets +onlyGivenNames v1 v2
  clear_value v1
  clear_value v2
  refine keeps_net (s := s) 512 (hg.sub rfl) ?_ (.inl rfl) (.inr rfl)
  with_reducible assumption

theorem snoopRefused_keeps (hg : Free 2281790208 g) : ∀ a0 s, Keeps g s0 s → Keeps g s0 (snoopRefused a0 s) := by
  intro a0 s h
  unfold snoopRefused
  split
  ·
    rename_i y1 y2
    refine declareDead_keeps (hg.sub rfl) _ _ _ ?_
    with_reducible assumption
  ·
    rename_i y3 y4
    with_reducible assumption

theorem noteGone_keeps (hg : Free 512 g) : ∀ a0 s, Keeps g s0 s → Keeps g s0 (noteGone a0 s) := by
  intro a0 s h
  unfold noteGone
  extract_lets +onlyGivenNames v1 v2
  clear_value v1
  clear_value v2
  refine keeps_net (s := s) 512 (hg.sub rfl) ?_ (.inl rfl) (.inr rfl)
  with_reducible assumption

theorem takeDisp_keeps (hg : Free 2281790208 g) : ∀ a0 a1 a2 s, Keeps g s0 s → Keeps g s0 (takeDisp a0 a1 a2 s) := by
  intro a0 a1 a2 s h
  unfold takeDisp
  extract_lets +onlyGivenNames v1 v2 v3 v4
  refine Keeps.cut (g := g) (s0 := s0) v1 ?_ (fun h5 => ?_)
  ·
    unfold v1
    refine noteStale_keeps (hg.sub rfl) _ _ _ ?_
    with_reducible assumption
  clear_value v1
  clear_value v2
  extract_lets +onlyGivenNames v6
  refine Keeps.cut (g := g) (s0 := s0) v6 ?_ (fun h7 => ?_)
  ·
    unfold v6
    refine keeps_net (s := v1) 512 (hg.sub rfl) ?_ (.inl rfl) (.inr rfl)
    with_reducible assumption
  clear_value v6
  split
  ·
    rename_i y8
    refine @keeps_ite _ (Keeps g s0) _ _ _ _ ?_ ?_
    ·
      unfold v4
      refine keeps_net (s := v1) 512 (hg.sub rfl) ?_ (.inl rfl) (.inr rfl)
      with_reducible assumption
    ·
      refine @keeps_ite _ (Keeps g s0) _ _ _ _ ?_ ?_
      ·
        extract_lets +onlyGivenNames v9 v10 v11
        clear_value v9
        clear_value v10
        clear_value v11
        refine keeps_coh (s := v6) (hg.sub rfl) ?_
        with_reducible assumption
      ·
        with_reducible assumption
  ·
    rename_i y12
    refine @keeps_ite _ (Keeps g s0) _ _ _ _ ?_ ?_
    ·
      unfold v4
      refine keeps_net (s := v1) 512 (hg.sub rfl) ?_ (.inl rfl) (.inr rfl)
      with_reducible assumption
    ·
      refine @keeps_ite _ (Keeps g s0) _ _ _ _ ?_ ?_
      ·
        extract_lets +onlyGivenNames v13 v14 v15
        clear_value v13
        clear_value v14
        clear_value v15
        refine keeps_coh (s := v6) (hg.sub rfl) ?_
        with_reducible assumption
      ·
        with_reducible assumption
  ·
    rename_i y16 y17
    unfold v4
    refine keeps_net (s := v1) 512 (hg.sub rfl) ?_ (.inl rfl) (.inr rfl)
    with_reducible assumption
  ·
    rename_i y18 y19
    refine @keeps_ite _ (Keeps g s0) _ _ _ _ ?_ ?_
    ·
      refine snoopRefused_keeps (hg.sub rfl) _ _ ?_
      with_reducible assumption
    ·
      refine @keeps_ite _ (Keeps g s0) _ _ _ _ ?_ ?_
      ·
        refine noteGone_keeps (hg.sub rfl) _ _ ?_
        with_reducible assumption
      ·
        refine complete_keeps (hg.sub rfl) _ _ _ _ ?_
        refine heardDown_keeps (hg.sub rfl) _ _ _ ?_
        with_reducible assumption

theorem execTagHoldoverExpiry_keeps (hg : Free 2147484160 g) : ∀ a0 s, Keeps g s0 s → KeepsN g s0 (execTagHoldoverExpiry a0 s) := by
  intro a0 s h
  unfold execTagHoldoverExpiry
  refine KeepsN.next ?_
  extract_lets +onlyGivenNames v1 v2 v3 v4 v5
  clear_value v1
  clear_value v2
  clear_value v3
  clear_value v4
  refine Keeps.cut (g := g) (s0 := s0) v5 ?_ (fun h6 => ?_)
  ·
    unfold v5
    refine @keeps_ite _ (Keeps g s0) _ _ _ _ ?_ ?_
    ·
      with_reducible assumption
    ·
      refine updLink_keeps (hg.sub rfl) _ _ _ ?_
      with_reducible assumption
  clear_value v5
  refine keeps_net (s := v5) 512 (hg.sub rfl) ?_ (.inl rfl) (.inr rfl)
  with_reducible assumption

theorem resend_keeps (hg : Free 512 g) : ∀ a0 s, Keeps g s0 s → Keeps g s0 (resend a0 s) := by
  intro a0 s h
  unfold resend
  extract_lets +onlyGivenNames v1
  clear_value v1
  refine keeps_net (s := s) 512 (hg.sub rfl) ?_ (.inl rfl) (.inr rfl)
  with_reducible assumption

theorem unanswered_keeps (hg : Free 2281790208 g) : ∀ a0 a1 s, Keeps g s0 s → Keeps g s0 (unanswered a0 a1 s) := by
  intro a0 a1 s h
  unfold unanswered
  split
  ·
    rename_i y1 y2 y3
    refine snoopRefused_keeps (hg.sub rfl) _ _ ?_
    with_reducible assumption
  ·
    rename_i y4 y5
    refine linkViolation_keeps (hg.sub rfl) _ _ ?_
    with_reducible assumption

theorem settleAnswers_keeps (hg : Free 2281790208 g) : ∀ a0 s, Keeps g s0 s → Keeps g s0 (settleAnswers a0 s) := by
  intro a0 s h
  unfold settleAnswers
  extract_lets +onlyGivenNames v1 v2 v3 v4 v5 v6 v7
  clear_value v1
  clear_value v2
  clear_value v3
  refine Keeps.cut (g := g) (s0 := s0) v4 ?_ (fun h8 => ?_)
  ·
    unfold v4
    refine keeps_foldl (P := Keeps g s0) (fun b9 x10 h11 => ?_) _ _ ?_
    ·
      split
      ·
        rename_i y12 y13 y14
        refine takeDisp_keeps (hg.sub rfl) _ _ _ _ ?_
        with_reducible assumption
      ·
        rename_i y15 y16
        with_reducible assumption
    ·
      with_reducible assumption
  clear_value v4
  refine Keeps.cut (g := g) (s0 := s0) v5 ?_ (fun h17 => ?_)
  ·
    unfold v5
    refine keeps_foldl (P := Keeps g s0) (fun b18 x19 h20 => ?_) _ _ ?_
    ·
      refine resend_keeps (hg.sub rfl) _ _ ?_
      with_reducible assumption
    ·
      with_reducible assumption
  clear_value v5
  clear_value v6
  clear_value v7
  refine keeps_foldl (P := Keeps g s0) (fun b21 x22 h23 => ?_) _ _ ?_
  ·
    refine unanswered_keeps (hg.sub rfl) _ _ _ ?_
    with_reducible assumption
  ·
    with_reducible assumption

theorem execHeldPageExpiry_keeps (hg : Free 2147549184 g) : ∀ a0 a1 s, Keeps g s0 s → KeepsN g s0 (execHeldPageExpiry a0 a1 s) := by
  intro a0 a1 s h
  unfold execHeldPageExpiry
  refine KeepsN.next ?_
  split
  ·
    rename_i y1 y2
    with_reducible assumption
  ·
    rename_i y3 y4 y5
    refine logEv_keeps (hg.sub rfl) _ _ _ _ _ _ _ ?_
    refine updLink_keeps (hg.sub rfl) _ _ _ ?_
    with_reducible assumption

theorem execRetrainFailed_keeps (hg : Free 2147551744 g) : ∀ a0 s, Keeps g s0 s → KeepsN g s0 (execRetrainFailed a0 s) := by
  intro a0 s h
  unfold execRetrainFailed
  refine KeepsN.next ?_
  refine @keeps_ite _ (Keeps g s0) _ _ _ _ ?_ ?_
  ·
    with_reducible assumption
  ·
    extract_lets +onlyGivenNames v1
    clear_value v1
    refine @keeps_ite _ (Keeps g s0) _ _ _ _ ?_ ?_
    ·
      refine leavePort_keeps (hg.sub rfl) _ _ _ ?_
      with_reducible assumption
    ·
      refine refreshPorts_keeps (hg.sub rfl) _ ?_
      refine updLink_keeps (hg.sub rfl) _ _ _ ?_
      with_reducible assumption

theorem doubtAnswers_keeps (hg : Free 512 g) : ∀ a0 s, Keeps g s0 s → Keeps g s0 (doubtAnswers a0 s) := by
  intro a0 s h
  unfold doubtAnswers
  extract_lets +onlyGivenNames v1 v2
  clear_value v1
  clear_value v2
  refine keeps_net (s := s) 512 (hg.sub rfl) ?_ (.inl rfl) (.inr rfl)
  with_reducible assumption

theorem badFlit_keeps (hg : Free 2147484160 g) : ∀ a0 a1 s, Keeps g s0 s → Keeps g s0 (badFlit a0 a1 s) := by
  intro a0 a1 s h
  unfold badFlit
  extract_lets +onlyGivenNames v1 v2
  refine Keeps.cut (g := g) (s0 := s0) v1 ?_ (fun h3 => ?_)
  ·
    unfold v1
    refine doubtAnswers_keeps (hg.sub rfl) _ _ ?_
    with_reducible assumption
  clear_value v1
  clear_value v2
  refine @keeps_ite _ (Keeps g s0) _ _ _ _ ?_ ?_
  ·
    refine nakLink_keeps (hg.sub rfl) _ _ ?_
    with_reducible assumption
  ·
    refine @keeps_ite _ (Keeps g s0) _ _ _ _ ?_ ?_
    ·
      refine replayMissed_keeps (hg.sub rfl) _ _ _ ?_
      with_reducible assumption
    ·
      with_reducible assumption

theorem execRetrainComplete_keeps (hg : Free 2147486208 g) : ∀ a0 s, Keeps g s0 s → KeepsN g s0 (execRetrainComplete a0 s) := by
  intro a0 s h
  unfold execRetrainComplete
  refine KeepsN.next ?_
  refine @keeps_ite _ (Keeps g s0) _ _ _ _ ?_ ?_
  ·
    with_reducible assumption
  ·
    extract_lets +onlyGivenNames v1 v2
    clear_value v1
    refine Keeps.cut (g := g) (s0 := s0) v2 ?_ (fun h3 => ?_)
    ·
      unfold v2
      refine updLink_keeps (hg.sub rfl) _ _ _ ?_
      with_reducible assumption
    clear_value v2
    refine rereadCancelled_keeps (hg.sub rfl) _ _ ?_
    refine refreshPorts_keeps (hg.sub rfl) _ ?_
    refine remap_keeps (hg.sub rfl) _ _ ?_
    with_reducible assumption

theorem sendHello_keeps (hg : Free 2281701376 g) : ∀ a0 s, Keeps g s0 s → Keeps g s0 (sendHello a0 s) := by
  intro a0 s h
  unfold sendHello
  extract_lets +onlyGivenNames v1 v2 v3
  clear_value v1
  clear_value v2
  refine Keeps.cut (g := g) (s0 := s0) v3 ?_ (fun h4 => ?_)
  ·
    unfold v3
    refine updLink_keeps (hg.sub rfl) _ _ _ ?_
    with_reducible assumption
  clear_value v3
  refine sendFlit_keeps (hg.sub rfl) _ _ _ _ _ ?_
  with_reducible assumption

theorem sendReplay_keeps (hg : Free 2281701888 g) : ∀ a0 a1 s, Keeps g s0 s → Keeps g s0 (sendReplay a0 a1 s) := by
  intro a0 a1 s h
  unfold sendReplay
  extract_lets +onlyGivenNames v1 v2 v3
  clear_value v1
  clear_value v2
  clear_value v3
  refine @keeps_ite _ (Keeps g s0) _ _ _ _ ?_ ?_
  ·
    extract_lets +onlyGivenNames v4 v5
    clear_value v4
    refine Keeps.cut (g := g) (s0 := s0) v5 ?_ (fun h6 => ?_)
    ·
      unfold v5
      refine updLink_keeps (hg.sub rfl) _ _ _ ?_
      with_reducible assumption
    clear_value v5
    refine sendFlit_keeps (hg.sub rfl) _ _ _ _ _ ?_
    with_reducible assumption
  ·
    extract_lets +onlyGivenNames v7 v8 v9
    clear_value v7
    refine Keeps.cut (g := g) (s0 := s0) v8 ?_ (fun h10 => ?_)
    ·
      unfold v8
      refine noteAnswered_keeps (hg.sub rfl) _ _ _ _ ?_
      with_reducible assumption
    clear_value v8
    refine Keeps.cut (g := g) (s0 := s0) v9 ?_ (fun h11 => ?_)
    ·
      unfold v9
      refine updLink_keeps (hg.sub rfl) _ _ _ ?_
      with_reducible assumption
    clear_value v9
    refine sendFlit_keeps (hg.sub rfl) _ _ _ _ _ ?_
    with_reducible assumption

theorem slotFlit_keeps (hg : Free 2281701888 g) : ∀ a0 s, Keeps g s0 s → Keeps g s0 (slotFlit a0 s) := by
  intro a0 s h
  unfold slotFlit
  extract_lets +onlyGivenNames v1 v2
  refine Keeps.cut (g := g) (s0 := s0) v1 ?_ (fun h3 => ?_)
  ·
    unfold v1
    refine updLink_keeps (hg.sub rfl) _ _ _ ?_
    with_reducible assumption
  clear_value v1
  clear_value v2
  refine @keeps_ite _ (Keeps g s0) _ _ _ _ ?_ ?_
  ·
    with_reducible assumption
  ·
    refine @keeps_ite _ (Keeps g s0) _ _ _ _ ?_ ?_
    ·
      refine sendHello_keeps (hg.sub rfl) _ _ ?_
      with_reducible assumption
    ·
      split
      ·
        rename_i y4 y5 y6
        refine sendReplay_keeps (hg.sub rfl) _ _ _ ?_
        with_reducible assumption
      ·
        rename_i y7 y8
        refine sendFresh_keeps (hg.sub rfl) _ _ ?_
        with_reducible assumption

theorem linkTrained_keeps (hg : Free 2147483648 g) : ∀ a0 s, Keeps g s0 s → Keeps g s0 (linkTrained a0 s) := by
  intro a0 s h
  unfold linkTrained
  refine updLink_keeps (hg.sub rfl) _ _ _ ?_
  with_reducible assumption

theorem execLinkRejoinRetry_keeps (hg : Free 2147483648 g) : ∀ a0 a1 a2 s, Keeps g s0 s → KeepsN g s0 (execLinkRejoinRetry a0 a1 a2 s) := by
  intro a0 a1 a2 s h
  unfold execLinkRejoinRetry
  refine KeepsN.next ?_
  refine @keeps_ite _ (Keeps g s0) _ _ _ _ ?_ ?_
  ·
    with_reducible assumption
  ·
    refine @keeps_ite _ (Keeps g s0) _ _ _ _ ?_ ?_
    ·
      refine linkTrained_keeps (hg.sub rfl) _ _ ?_
      with_reducible assumption
    ·
      with_reducible assumption

theorem noteNoReq_keeps (hg : Free 2147483648 g) : ∀ a0 a1 s, Keeps g s0 s → Keeps g s0 (noteNoReq a0 a1 s) := by
  intro a0 a1 s h
  unfold noteNoReq
  refine @keeps_ite _ (Keeps g s0) _ _ _ _ ?_ ?_
  ·
    with_reducible assumption
  ·
    refine updLink_keeps (hg.sub rfl) _ _ _ ?_
    with_reducible assumption

theorem goodFlit_keeps (hg : Free 2281823104 g) : ∀ a0 a1 s, Keeps g s0 s → Keeps g s0 (goodFlit a0 a1 s) := by
  intro a0 a1 s h
  unfold goodFlit
  extract_lets +onlyGivenNames v1 v2
  clear_value v1
  refine Keeps.cut (g := g) (s0 := s0) v2 ?_ (fun h3 => ?_)
  ·
    unfold v2
    refine settleAnswers_keeps (hg.sub rfl) _ _ ?_
    refine takeCell0_keeps (hg.sub rfl) _ _ _ ?_
    refine takeAnswers_keeps (hg.sub rfl) _ _ _ ?_
    refine noteNoReq_keeps (hg.sub rfl) _ _ _ ?_
    with_reducible assumption
  clear_value v2
  refine @keeps_ite _ (Keeps g s0) _ _ _ _ ?_ ?_
  ·
    refine takeSequenced_keeps (hg.sub rfl) _ _ _ ?_
    with_reducible assumption
  ·
    with_reducible assumption

theorem receiveFlit_keeps (hg : Free 2281823104 g) : ∀ a0 a1 s, Keeps g s0 s → Keeps g s0 (receiveFlit a0 a1 s) := by
  intro a0 a1 s h
  unfold receiveFlit
  extract_lets +onlyGivenNames v1 v2
  refine Keeps.cut (g := g) (s0 := s0) v1 ?_ (fun h3 => ?_)
  ·
    unfold v1
    refine countFlit_keeps (hg.sub rfl) _ _ _ ?_
    with_reducible assumption
  clear_value v1
  clear_value v2
  refine @keeps_ite _ (Keeps g s0) _ _ _ _ ?_ ?_
  ·
    with_reducible assumption
  ·
    refine @keeps_ite _ (Keeps g s0) _ _ _ _ ?_ ?_
    ·
      refine goodFlit_keeps (hg.sub rfl) _ _ _ ?_
      with_reducible assumption
    ·
      refine badFlit_keeps (hg.sub rfl) _ _ _ ?_
      with_reducible assumption

theorem execFlitSlot_keeps (hg : Free 2281704192 g) : ∀ a0 s, Keeps g s0 s → KeepsN g s0 (execFlitSlot a0 s) := by
  intro a0 s h
  unfold execFlitSlot
  refine KeepsN.next ?_
  refine wakeStalled_keeps (hg.sub rfl) _ ?_
  refine slotFlit_keeps (hg.sub rfl) _ _ ?_
  with_reducible assumption

theorem execEmptyFlitDue_keeps (hg : Free 2281701888 g) : ∀ a0 s, Keeps g s0 s → KeepsN g s0 (execEmptyFlitDue a0 s) := by
  intro a0 s h
  unfold execEmptyFlitDue
  refine KeepsN.next ?_
  refine @keeps_ite _ (Keeps g s0) _ _ _ _ ?_ ?_
  ·
    with_reducible assumption
  ·
    refine slotFlit_keeps (hg.sub rfl) _ _ ?_
    refine updLink_keeps (hg.sub rfl) _ _ _ ?_
    with_reducible assumption

theorem execCombinationClose_keeps (hg : Free 134220544 g) : ∀ a0 s, Keeps g s0 s → KeepsN g s0 (execCombinationClose a0 s) := by
  intro a0 s h
  unfold execCombinationClose
  refine KeepsN.next ?_
  split
  ·
    rename_i y1 y2
    with_reducible assumption
  ·
    rename_i y3 y4 y5
    refine closeCombo_keeps (hg.sub rfl) _ _ ?_
    with_reducible assumption

theorem execRangeCacheFill_keeps (hg : Free 4608 g) : ∀ a0 a1 a2 a3 s, Keeps g s0 s → KeepsN g s0 (execRangeCacheFill a0 a1 a2 a3 s) := by
  intro a0 a1 a2 a3 s h
  unfold execRangeCacheFill
  refine KeepsN.next ?_
  extract_lets +onlyGivenNames v1
  clear_value v1
  refine @keeps_ite _ (Keeps g s0) _ _ _ _ ?_ ?_
  ·
    refine rangeFill_keeps (hg.sub rfl) _ _ _ _ _ ?_
    refine keeps_net (s := s) 512 (hg.sub rfl) ?_ (.inl rfl) (.inr rfl)
    with_reducible assumption
  ·
    with_reducible assumption

end Sys2Proof.Safety
end

