-- ==== Sys2Proof/Laws/KeepsShoal.lean ====
section
/-!
SUPPORT. Which parts of the state each operation keeps: rills, codebooks, expanders and courses.
-/
namespace Sys2Proof.Safety

open Sys2Proof Sys2Proof.Machine

set_option Elab.async false

variable {g : Part} {s0 : State}

theorem updSlot_keeps (hg : Free 8589934592 g) : ∀ a0 a1 s, Keeps g s0 s → Keeps g s0 (updSlot a0 a1 s) := by
  intro a0 a1 s h
  unfold updSlot
  refine keeps_shoal (s := s) 8589934592 (hg.sub rfl) ?_ (.inr rfl) (.inl rfl)
  with_reducible assumption

theorem updFiring_keeps (hg : Free 4194304 g) : ∀ a0 a1 s, Keeps g s0 s → Keeps g s0 (updFiring a0 a1 s) := by
  intro a0 a1 s h
  unfold updFiring
  refine keeps_rill (s := s) 4194304 (hg.sub rfl) ?_ (.inl rfl) (.inr rfl)
  with_reducible assumption

theorem writeArray_keeps (hg : Free 3629243168 g) : ∀ a0 a1 a2 a3 s, Keeps g s0 s → Keeps g s0 (writeArray a0 a1 a2 a3 s) := by
  intro a0 a1 a2 a3 s h
  unfold writeArray
  refine @keeps_ite _ (Keeps g s0) _ _ _ _ ?_ ?_
  ·
    refine Keeps2.snd ?_
    refine engineWrite_keeps (hg.sub rfl) _ _ _ _ _ ?_
    with_reducible assumption
  ·
    with_reducible assumption

theorem setSlot_keeps (hg : Free 12219177760 g) : ∀ a0 a1 s, Keeps g s0 s → Keeps g s0 (setSlot a0 a1 s) := by
  intro a0 a1 s h
  unfold setSlot
  extract_lets +onlyGivenNames v1
  refine Keeps.cut (g := g) (s0 := s0) v1 ?_ (fun h2 => ?_)
  ·
    unfold v1
    refine updSlot_keeps (hg.sub rfl) _ _ _ ?_
    with_reducible assumption
  clear_value v1
  split
  ·
    rename_i y3 y4
    with_reducible assumption
  ·
    rename_i y5 y6 y7
    extract_lets +onlyGivenNames v8
    clear_value v8
    refine writeArray_keeps (hg.sub rfl) _ _ _ _ _ ?_
    with_reducible assumption

theorem landProbe_keeps (hg : Free 4194304 g) : ∀ a0 a1 s, Keeps g s0 s → Keeps g s0 (landProbe a0 a1 s) := by
  intro a0 a1 s h
  unfold landProbe
  extract_lets +onlyGivenNames v1
  clear_value v1
  refine keeps_rill (s := s) 4194304 (hg.sub rfl) ?_ (.inl rfl) (.inr rfl)
  with_reducible assumption

theorem updJob_keeps (hg : Free 4194304 g) : ∀ a0 a1 a2 s, Keeps g s0 s → Keeps g s0 (updJob a0 a1 a2 s) := by
  intro a0 a1 a2 s h
  unfold updJob
  refine keeps_rill (s := s) 4194304 (hg.sub rfl) ?_ (.inl rfl) (.inr rfl)
  with_reducible assumption

theorem absorb_keeps (hg : Free 4196352 g) : ∀ s, Keeps g s0 s → Keeps g s0 (absorb s) := by
  intro s h
  unfold absorb
  extract_lets +onlyGivenNames v1 v2
  clear_value v1
  extract_lets +onlyGivenNames v3
  refine Keeps.cut (g := g) (s0 := s0) v3 ?_ (fun h4 => ?_)
  ·
    unfold v3
    refine keeps_weir (s := s) 2048 (hg.sub rfl) ?_ (.inr rfl) (.inl rfl)
    with_reducible assumption
  clear_value v3
  refine keeps_foldl (P := Keeps g s0) (fun b5 x6 h7 => ?_) _ _ ?_
  ·
    split
    ·
      rename_i y8 y9 y10 y11 y12
      refine @keeps_ite _ (Keeps g s0) _ _ _ _ ?_ ?_
      ·
        refine landProbe_keeps (hg.sub rfl) _ _ _ ?_
        with_reducible assumption
      ·
        refine updJob_keeps (hg.sub rfl) _ _ _ _ ?_
        with_reducible assumption
    ·
      rename_i y13 y14 y15 y16 y17
      refine updFiring_keeps (hg.sub rfl) _ _ _ ?_
      with_reducible assumption
    ·
      rename_i y18 y19 y20
      with_reducible assumption
  ·
    with_reducible assumption

theorem updRill_keeps (hg : Free 4294967296 g) : ∀ a0 a1 s, Keeps g s0 s → Keeps g s0 (updRill a0 a1 s) := by
  intro a0 a1 s h
  unfold updRill
  refine keeps_rill (s := s) 4294967296 (hg.sub rfl) ?_ (.inr rfl) (.inl rfl)
  with_reducible assumption

theorem faultRill_keeps (hg : Free 4295032832 g) : ∀ a0 a1 s, Keeps g s0 s → Keeps g s0 (faultRill a0 a1 s) := by
  intro a0 a1 s h
  unfold faultRill
  refine @keeps_ite _ (Keeps g s0) _ _ _ _ ?_ ?_
  ·
    refine logEv_keeps (hg.sub rfl) _ _ _ _ _ _ _ ?_
    refine updRill_keeps (hg.sub rfl) _ _ _ ?_
    with_reducible assumption
  ·
    with_reducible assumption

theorem writeRecord_keeps (hg : Free 7924210464 g) : ∀ a0 s, Keeps g s0 s → Keeps g s0 (writeRecord a0 s) := by
  intro a0 s h
  unfold writeRecord
  extract_lets +onlyGivenNames v1 v2 v3 v4
  clear_value v1
  clear_value v2
  refine Keeps.cut (g := g) (s0 := s0) v4 ?_ (fun h5 => ?_)
  ·
    unfold v4
    refine keeps_rill (s := s) 4194304 (hg.sub rfl) ?_ (.inl rfl) (.inr rfl)
    with_reducible assumption
  clear_value v4
  extract_lets +onlyGivenNames v6
  clear_value v6
  split
  ·
    rename_i y7 y8 y9 y10
    refine Keeps.cut (g := g) (s0 := s0) y9 (Keeps2.of_eq ?_ y10) (fun h11 => ?_)
    ·
      refine shufelWrite_keeps (hg.sub rfl) _ _ _ _ _ ?_
      with_reducible assumption
    extract_lets +onlyGivenNames v12
    refine Keeps.cut (g := g) (s0 := s0) v12 ?_ (fun h13 => ?_)
    ·
      unfold v12
      refine updRill_keeps (hg.sub rfl) _ _ _ ?_
      with_reducible assumption
    clear_value v12
    refine @keeps_ite _ (Keeps g s0) _ _ _ _ ?_ ?_
    ·
      refine faultRill_keeps (hg.sub rfl) _ _ _ ?_
      with_reducible assumption
    ·
      extract_lets +onlyGivenNames v14
      refine Keeps.cut (g := g) (s0 := s0) v14 ?_ (fun h15 => ?_)
      ·
        unfold v14
        refine updRill_keeps (hg.sub rfl) _ _ _ ?_
        with_reducible assumption
      clear_value v14
      refine @keeps_ite _ (Keeps g s0) _ _ _ _ ?_ ?_
      ·
        refine emit_keeps (hg.sub rfl) _ _ ?_
        with_reducible assumption
      ·
        with_reducible assumption

theorem addDue_keeps (hg : Free 4194304 g) : ∀ a0 s, Keeps g s0 s → Keeps g s0 (addDue a0 s) := by
  intro a0 s h
  unfold addDue
  refine keeps_rill (s := s) 4194304 (hg.sub rfl) ?_ (.inl rfl) (.inr rfl)
  with_reducible assumption

theorem dropRef_keeps (hg : Free 8589934592 g) : ∀ a0 s, Keeps g s0 s → Keeps g s0 (dropRef a0 s) := by
  intro a0 s h
  unfold dropRef
  refine keeps_shoal (s := s) 8589934592 (hg.sub rfl) ?_ (.inr rfl) (.inl rfl)
  with_reducible assumption

theorem finishJob_keeps (hg : Free 12328229664 g) : ∀ a0 a1 a2 a3 s, Keeps g s0 s → Keeps g s0 (finishJob a0 a1 a2 a3 s) := by
  intro a0 a1 a2 a3 s h
  unfold finishJob
  extract_lets +onlyGivenNames v1 v2 v3
  clear_value v2
  refine Keeps.cut (g := g) (s0 := s0) v3 ?_ (fun h4 => ?_)
  ·
    unfold v3
    refine keeps_update (s := s) 113246208 (hg.sub rfl) ?_ (.inr rfl) (.inr rfl) (.inr rfl) (.inr rfl) (.inr rfl) (.inr rfl) (.inr rfl) (.inr rfl) (.inr rfl) (.inr rfl) (.inr rfl) (.inr rfl) (.inr rfl) (.inr rfl) (.inr rfl) (.inr rfl) (.inr rfl) (.inr rfl) (.inr rfl) (.inr rfl) (.inr rfl) (.inr rfl) (.inl rfl) (.inl rfl) (.inr rfl) (.inl rfl) (.inl rfl) (.inr rfl) (.inr rfl) (.inr rfl) (.inr rfl) (.inr rfl) (.inr rfl) (.inr rfl) (fun m => m)
    with_reducible assumption
  clear_value v3
  extract_lets +onlyGivenNames v5 v6
  refine Keeps.cut (g := g) (s0 := s0) v5 ?_ (fun h7 => ?_)
  ·
    unfold v5
    refine keeps_foldl (P := Keeps g s0) (fun b8 x9 h10 => ?_) _ _ ?_
    ·
      refine dropRef_keeps (hg.sub rfl) _ _ ?_
      with_reducible assumption
    ·
      with_reducible assumption
  clear_value v5
  refine Keeps.cut (g := g) (s0 := s0) v6 ?_ (fun h11 => ?_)
  ·
    unfold v6
    refine keeps_foldl (P := Keeps g s0) (fun b12 x13 h14 => ?_) _ _ ?_
    ·
      refine @keeps_ite _ (Keeps g s0) _ _ _ _ ?_ ?_
      ·
        refine setSlot_keeps (hg.sub rfl) _ _ _ ?_
        with_reducible assumption
      ·
        with_reducible assumption
    ·
      with_reducible assumption
  clear_value v6
  refine addDue_keeps (hg.sub rfl) _ _ ?_
  with_reducible assumption

theorem endJob_keeps (hg : Free 12328229664 g) : ∀ a0 s, Keeps g s0 s → Keeps g s0 (endJob a0 s) := by
  intro a0 s h
  unfold endJob
  refine @keeps_ite _ (Keeps g s0) _ _ _ _ ?_ ?_
  ·
    refine finishJob_keeps (hg.sub rfl) _ _ _ _ _ ?_
    with_reducible assumption
  ·
    refine @keeps_ite _ (Keeps g s0) _ _ _ _ ?_ ?_
    ·
      refine finishJob_keeps (hg.sub rfl) _ _ _ _ _ ?_
      with_reducible assumption
    ·
      split
      ·
        rename_i y1 y2 y3 y4 y5
        refine finishJob_keeps (hg.sub rfl) _ _ _ _ _ ?_
        with_reducible assumption
      ·
        rename_i y6 y7
        refine finishJob_keeps (hg.sub rfl) _ _ _ _ _ ?_
        with_reducible assumption

theorem servedRill_keeps (hg : Free 4194304 g) : ∀ a0 a1 s, Keeps g s0 s → Keeps g s0 (servedRill a0 a1 s) := by
  intro a0 a1 s h
  unfold servedRill
  refine keeps_rill (s := s) 4194304 (hg.sub rfl) ?_ (.inl rfl) (.inr rfl)
  with_reducible assumption

theorem settle_keeps (hg : Free 12328229664 g) : ∀ a0 s, Keeps g s0 s → Keeps g s0 (settle a0 s) := by
  intro a0 s h
  unfold settle
  refine keeps_foldl (P := Keeps g s0) (fun b1 x2 h3 => ?_) _ _ ?_
  ·
    refine endJob_keeps (hg.sub rfl) _ _ ?_
    with_reducible assumption
  ·
    with_reducible assumption

theorem touchEntry_keeps (hg : Free 4194304 g) : ∀ a0 s, Keeps g s0 s → Keeps g s0 (touchEntry a0 s) := by
  intro a0 s h
  unfold touchEntry
  refine @keeps_ite _ (Keeps g s0) _ _ _ _ ?_ ?_
  ·
    refine keeps_rill (s := s) 4194304 (hg.sub rfl) ?_ (.inl rfl) (.inr rfl)
    with_reducible assumption
  ·
    with_reducible assumption

theorem cancelUnstarted_keeps (hg : Free 4299161600 g) : ∀ a0 a1 s, Keeps g s0 s → Keeps g s0 (cancelUnstarted a0 a1 s) := by
  intro a0 a1 s h
  unfold cancelUnstarted
  extract_lets +onlyGivenNames v1 v2
  clear_value v1
  refine Keeps.cut (g := g) (s0 := s0) v2 ?_ (fun h3 => ?_)
  ·
    unfold v2
    refine keeps_foldl (P := Keeps g s0) (fun b4 x5 h6 => ?_) _ _ ?_
    ·
      extract_lets +onlyGivenNames v7
      clear_value v7
      refine addDue_keeps (hg.sub rfl) _ _ ?_
      with_reducible assumption
    ·
      with_reducible assumption
  clear_value v2
  refine updRill_keeps (hg.sub rfl) _ _ _ ?_
  with_reducible assumption

theorem ringBell_keeps (hg : Free 4299227136 g) : ∀ a0 a1 a2 s, Keeps g s0 s → Keeps g s0 (ringBell a0 a1 a2 s) := by
  intro a0 a1 a2 s h
  unfold ringBell
  extract_lets +onlyGivenNames v1
  clear_value v1
  split
  ·
    rename_i y2 y3
    with_reducible assumption
  ·
    rename_i y4 y5
    with_reducible assumption
  ·
    rename_i y6 y7 y8
    extract_lets +onlyGivenNames v9 v10
    refine Keeps.cut (g := g) (s0 := s0) v9 ?_ (fun h11 => ?_)
    ·
      unfold v9
      refine updRill_keeps (hg.sub rfl) _ _ _ ?_
      with_reducible assumption
    clear_value v9
    clear_value v10
    refine @keeps_ite _ (Keeps g s0) _ _ _ _ ?_ ?_
    ·
      refine cancelUnstarted_keeps (hg.sub rfl) _ _ _ ?_
      with_reducible assumption
    ·
      refine @keeps_ite _ (Keeps g s0) _ _ _ _ ?_ ?_
      ·
        refine faultRill_keeps (hg.sub rfl) _ _ _ ?_
        with_reducible assumption
      ·
        refine @keeps_ite _ (Keeps g s0) _ _ _ _ ?_ ?_
        ·
          refine cancelUnstarted_keeps (hg.sub rfl) _ _ _ ?_
          with_reducible assumption
        ·
          refine keeps_rill (s := v9) 4194304 (hg.sub rfl) ?_ (.inl rfl) (.inr rfl)
          with_reducible assumption

theorem doorbell_keeps (hg : Free 4299227136 g) : ∀ a0 a1 s, Keeps g s0 s → Keeps2 g s0 (doorbell a0 a1 s) := by
  intro a0 a1 s h
  unfold doorbell
  extract_lets +onlyGivenNames v1
  clear_value v1
  refine @keeps_ite _ (Keeps2 g s0) _ _ _ _ ?_ ?_
  ·
    refine Keeps2.mk ?_
    refine logIgnored_keeps (hg.sub rfl) _ _ _ _ ?_
    with_reducible assumption
  ·
    refine @keeps_ite _ (Keeps2 g s0) _ _ _ _ ?_ ?_
    ·
      refine Keeps2.mk ?_
      refine logIgnored_keeps (hg.sub rfl) _ _ _ _ ?_
      with_reducible assumption
    ·
      refine @keeps_ite _ (Keeps2 g s0) _ _ _ _ ?_ ?_
      ·
        refine Keeps2.mk ?_
        refine ringBell_keeps (hg.sub rfl) _ _ _ _ ?_
        refine touchEntry_keeps (hg.sub rfl) _ _ ?_
        with_reducible assumption
      ·
        refine Keeps2.mk ?_
        refine keeps_rill (s := s) 4194304 (hg.sub rfl) ?_ (.inl rfl) (.inr rfl)
        with_reducible assumption

theorem execDoorbell_keeps (hg : Free 4299227136 g) : ∀ a0 a1 s, Keeps g s0 s → KeepsN g s0 (execDoorbell a0 a1 s) := by
  intro a0 a1 s h
  unfold execDoorbell
  refine KeepsN.next ?_
  refine Keeps2.snd ?_
  refine doorbell_keeps (hg.sub rfl) _ _ _ ?_
  with_reducible assumption

theorem addRef_keeps (hg : Free 8589934592 g) : ∀ a0 s, Keeps g s0 s → Keeps g s0 (addRef a0 s) := by
  intro a0 s h
  unfold addRef
  refine keeps_shoal (s := s) 8589934592 (hg.sub rfl) ?_ (.inr rfl) (.inl rfl)
  with_reducible assumption

theorem updMill_keeps (hg : Free 8388608 g) : ∀ a0 a1 s, Keeps g s0 s → Keeps g s0 (updMill a0 a1 s) := by
  intro a0 a1 s h
  unfold updMill
  refine keeps_mills (s := s) (hg.sub rfl) ?_
  with_reducible assumption

theorem takeMill_keeps (hg : Free 8388608 g) : ∀ a0 a1 a2 a3 a4 s, Keeps g s0 s → Keeps g s0 (takeMill a0 a1 a2 a3 a4 s) := by
  intro a0 a1 a2 a3 a4 s h
  unfold takeMill
  refine updMill_keeps (hg.sub rfl) _ _ _ ?_
  with_reducible assumption

theorem takeMills_keeps (hg : Free 8388608 g) : ∀ a0 a1 a2 a3 a4 a5 s, Keeps g s0 s → Keeps g s0 (takeMills a0 a1 a2 a3 a4 a5 s) := by
  intro a0 a1 a2 a3 a4 a5 s
  induction a5 generalizing a0 a1 a2 a3 a4 s
  ·
    intro h1
    unfold takeMills
    with_reducible assumption
  ·
    rename_i y2 y3
    intro h4
    unfold takeMills
    split
    ·
      rename_i y5 y6
      with_reducible assumption
    ·
      rename_i y7 y8 y9
      refine y3 _ _ _ _ _ _ ?_
      refine takeMill_keeps (hg.sub rfl) _ _ _ _ _ _ ?_
      with_reducible assumption

theorem withTeam_keeps (hg : Free 12582912 g) : ∀ a0 a1 a2 a3 a4 a5 s, (∀ t, Keeps g s0 t → Keeps g s0 (a5 t)) → Keeps g s0 s → Keeps g s0 (withTeam a0 a1 a2 a3 a4 a5 s) := by
  intro a0 a1 a2 a3 a4 a5 s hk0 h
  unfold withTeam
  extract_lets +onlyGivenNames v1 v2 v3
  clear_value v1
  clear_value v2
  clear_value v3
  refine @keeps_ite _ (Keeps g s0) _ _ _ _ ?_ ?_
  ·
    with_reducible assumption
  ·
    extract_lets +onlyGivenNames v4
    refine Keeps.cut (g := g) (s0 := s0) v4 ?_ (fun h5 => ?_)
    ·
      unfold v4
      refine hk0 _ ?_
      refine servedRill_keeps (hg.sub rfl) _ _ _ ?_
      refine takeMills_keeps (hg.sub rfl) _ _ _ _ _ _ _ ?_
      with_reducible assumption
    clear_value v4
    refine keeps_mills (s := v4) (hg.sub rfl) ?_
    with_reducible assumption

theorem fetchEntry_keeps (hg : Free 4194304 g) : ∀ a0 s, Keeps g s0 s → KeepsO g s0 (fetchEntry a0 s) := by
  intro a0 s h
  unfold fetchEntry
  extract_lets +onlyGivenNames v1
  clear_value v1
  refine @keeps_ite _ (KeepsO g s0) _ _ _ _ ?_ ?_
  ·
    refine KeepsO.some ?_
    with_reducible assumption
  ·
    extract_lets +onlyGivenNames v2
    clear_value v2
    refine @keeps_ite _ (KeepsO g s0) _ _ _ _ ?_ ?_
    ·
      refine KeepsO.some ?_
      refine keeps_rill (s := s) 4194304 (hg.sub rfl) ?_ (.inl rfl) (.inr rfl)
      with_reducible assumption
    ·
      split
      ·
        rename_i y3 y4 y5
        refine KeepsO.some ?_
        refine keeps_rill (s := s) 4194304 (hg.sub rfl) ?_ (.inl rfl) (.inr rfl)
        with_reducible assumption
      ·
        rename_i y6 y7
        exact KeepsO.none

theorem freePiece_keeps (hg : Free 8388608 g) : ∀ a0 a1 a2 s, Keeps g s0 s → Keeps g s0 (freePiece a0 a1 a2 s) := by
  intro a0 a1 a2 s h
  unfold freePiece
  refine keeps_mills (s := s) (hg.sub rfl) ?_
  with_reducible assumption

theorem execCompletionRecord_keeps (hg : Free 16623196960 g) : ∀ a0 a1 s, Keeps g s0 s → KeepsN g s0 (execCompletionRecord a0 a1 s) := by
  intro a0 a1 s h
  unfold execCompletionRecord
  refine KeepsN.next ?_
  extract_lets +onlyGivenNames v1
  refine Keeps.cut (g := g) (s0 := s0) v1 ?_ (fun h2 => ?_)
  ·
    unfold v1
    refine settle_keeps (hg.sub rfl) _ _ ?_
    refine absorb_keeps (hg.sub rfl) _ ?_
    with_reducible assumption
  clear_value v1
  split
  ·
    rename_i y3 y4
    with_reducible assumption
  ·
    rename_i y5 y6 y7
    extract_lets +onlyGivenNames v8
    clear_value v8
    refine @keeps_ite _ (Keeps g s0) _ _ _ _ ?_ ?_
    ·
      refine atRest_keeps (hg.sub rfl) _ _ _ _ _ (fun x9 h10 => ?_) ?_
      ·
        refine writeRecord_keeps (hg.sub rfl) _ _ ?_
        with_reducible assumption
      ·
        with_reducible assumption
    ·
      with_reducible assumption

theorem updCtl_keeps (hg : Free 4194304 g) : ∀ a0 a1 s, Keeps g s0 s → Keeps g s0 (updCtl a0 a1 s) := by
  intro a0 a1 s h
  unfold updCtl
  refine keeps_rill (s := s) 4194304 (hg.sub rfl) ?_ (.inl rfl) (.inr rfl)
  with_reducible assumption

theorem updCb_keeps (hg : Free 8589934592 g) : ∀ a0 a1 s, Keeps g s0 s → Keeps g s0 (updCb a0 a1 s) := by
  intro a0 a1 s h
  unfold updCb
  refine keeps_shoal (s := s) 8589934592 (hg.sub rfl) ?_ (.inr rfl) (.inl rfl)
  with_reducible assumption

theorem writeCbBase_keeps (hg : Free 8590000128 g) : ∀ a0 a1 s, Keeps g s0 s → Keeps g s0 (writeCbBase a0 a1 s) := by
  intro a0 a1 s h
  unfold writeCbBase
  refine @keeps_ite _ (Keeps g s0) _ _ _ _ ?_ ?_
  ·
    refine logIgnored_keeps (hg.sub rfl) _ _ _ _ ?_
    with_reducible assumption
  ·
    refine keeps_shoal (s := s) 8589934592 (hg.sub rfl) ?_ (.inr rfl) (.inl rfl)
    with_reducible assumption

theorem cbAnswer_keeps (hg : Free 8589934592 g) : ∀ a0 a1 a2 a3 s, Keeps g s0 s → Keeps g s0 (cbAnswer a0 a1 a2 a3 s) := by
  intro a0 a1 a2 a3 s h
  unfold cbAnswer
  extract_lets +onlyGivenNames v1
  clear_value v1
  refine updCb_keeps (hg.sub rfl) _ _ _ ?_
  with_reducible assumption

theorem retireSlot_keeps (hg : Free 12219177760 g) : ∀ a0 s, Keeps g s0 s → Keeps g s0 (retireSlot a0 s) := by
  intro a0 s h
  unfold retireSlot
  extract_lets +onlyGivenNames v1 v2
  clear_value v1
  refine Keeps.cut (g := g) (s0 := s0) v2 ?_ (fun h3 => ?_)
  ·
    unfold v2
    refine setSlot_keeps (hg.sub rfl) _ _ _ ?_
    with_reducible assumption
  clear_value v2
  refine keeps_weir (s := v2) 2048 (hg.sub rfl) ?_ (.inr rfl) (.inl rfl)
  with_reducible assumption

theorem installNow_keeps (hg : Free 12219177760 g) : ∀ a0 a1 s, Keeps g s0 s → Keeps g s0 (installNow a0 a1 s) := by
  intro a0 a1 s h
  unfold installNow
  extract_lets +onlyGivenNames v1 v2 v3 v4 v5 v6 v7 v8
  clear_value v1
  clear_value v2
  clear_value v3
  clear_value v4
  clear_value v5
  clear_value v6
  clear_value v7
  clear_value v8
  refine @keeps_ite _ (Keeps g s0) _ _ _ _ ?_ ?_
  ·
    refine cbAnswer_keeps (hg.sub rfl) _ _ _ _ _ ?_
    with_reducible assumption
  ·
    refine @keeps_ite _ (Keeps g s0) _ _ _ _ ?_ ?_
    ·
      refine cbAnswer_keeps (hg.sub rfl) _ _ _ _ _ ?_
      with_reducible assumption
    ·
      refine @keeps_ite _ (Keeps g s0) _ _ _ _ ?_ ?_
      ·
        refine cbAnswer_keeps (hg.sub rfl) _ _ _ _ _ ?_
        with_reducible assumption
      ·
        refine @keeps_ite _ (Keeps g s0) _ _ _ _ ?_ ?_
        ·
          refine cbAnswer_keeps (hg.sub rfl) _ _ _ _ _ ?_
          with_reducible assumption
        ·
          refine @keeps_ite _ (Keeps g s0) _ _ _ _ ?_ ?_
          ·
            refine cbAnswer_keeps (hg.sub rfl) _ _ _ _ _ ?_
            with_reducible assumption
          ·
            refine @keeps_ite _ (Keeps g s0) _ _ _ _ ?_ ?_
            ·
              refine updCb_keeps (hg.sub rfl) _ _ _ ?_
              with_reducible assumption
            ·
              extract_lets +onlyGivenNames v9
              clear_value v9
              split
              ·
                rename_i y10 y11 y12 y13 y14 y15
                extract_lets +onlyGivenNames v16 v17 v18
                refine Keeps.cut (g := g) (s0 := s0) v16 ?_ (fun h19 => ?_)
                ·
                  unfold v16
                  refine countRange_keeps (hg.sub rfl) _ _ _ _ ?_
                  with_reducible assumption
                clear_value v16
                refine Keeps.cut (g := g) (s0 := s0) v17 ?_ (fun h20 => ?_)
                ·
                  unfold v17
                  refine setSlot_keeps (hg.sub rfl) _ _ _ ?_
                  with_reducible assumption
                clear_value v17
                refine Keeps.cut (g := g) (s0 := s0) v18 ?_ (fun h21 => ?_)
                ·
                  unfold v18
                  refine @keeps_ite _ (Keeps g s0) _ _ _ _ ?_ ?_
                  ·
                    refine retireSlot_keeps (hg.sub rfl) _ _ ?_
                    with_reducible assumption
                  ·
                    with_reducible assumption
                clear_value v18
                refine cbAnswer_keeps (hg.sub rfl) _ _ _ _ _ ?_
                with_reducible assumption
              ·
                rename_i y22 y23 y24
                refine cbAnswer_keeps (hg.sub rfl) _ _ _ _ _ ?_
                with_reducible assumption

theorem retryInstalls_keeps (hg : Free 12219177760 g) : ∀ a0 s, Keeps g s0 s → Keeps g s0 (retryInstalls a0 s) := by
  intro a0 s h
  unfold retryInstalls
  refine keeps_foldl (P := Keeps g s0) (fun b1 x2 h3 => ?_) _ _ ?_
  ·
    split
    ·
      rename_i y4 y5 y6
      refine @keeps_ite _ (Keeps g s0) _ _ _ _ ?_ ?_
      ·
        refine installNow_keeps (hg.sub rfl) _ _ _ ?_
        refine updCb_keeps (hg.sub rfl) _ _ _ ?_
        with_reducible assumption
      ·
        with_reducible assumption
    ·
      rename_i y7 y8
      with_reducible assumption
  ·
    with_reducible assumption

theorem updRace_keeps (hg : Free 16777216 g) : ∀ a0 a1 s, Keeps g s0 s → Keeps g s0 (updRace a0 a1 s) := by
  intro a0 a1 s h
  unfold updRace
  refine keeps_shoal (s := s) 16777216 (hg.sub rfl) ?_ (.inl rfl) (.inr rfl)
  with_reducible assumption

theorem makeResident_keeps (hg : Free 16777216 g) : ∀ a0 a1 a2 s, Keeps g s0 s → KeepsO g s0 (makeResident a0 a1 a2 s) := by
  intro a0 a1 a2 s h
  unfold makeResident
  extract_lets +onlyGivenNames v1
  clear_value v1
  refine @keeps_ite _ (KeepsO g s0) _ _ _ _ ?_ ?_
  ·
    refine KeepsO.some ?_
    refine updRace_keeps (hg.sub rfl) _ _ _ ?_
    with_reducible assumption
  ·
    extract_lets +onlyGivenNames v2 v3 v4 v5 v6 v7
    clear_value v2
    clear_value v3
    clear_value v4
    clear_value v5
    clear_value v6
    clear_value v7
    refine @keeps_ite _ (KeepsO g s0) _ _ _ _ ?_ ?_
    ·
      refine KeepsO.some ?_
      refine updRace_keeps (hg.sub rfl) _ _ _ ?_
      with_reducible assumption
    ·
      exact KeepsO.none

theorem freeSlot_keeps (hg : Free 12235954976 g) : ∀ a0 s, Keeps g s0 s → Keeps g s0 (freeSlot a0 s) := by
  intro a0 s h
  unfold freeSlot
  extract_lets +onlyGivenNames v1
  clear_value v1
  refine @keeps_ite _ (Keeps g s0) _ _ _ _ ?_ ?_
  ·
    extract_lets +onlyGivenNames v2 v3 v4
    refine Keeps.cut (g := g) (s0 := s0) v2 ?_ (fun h5 => ?_)
    ·
      unfold v2
      refine setSlot_keeps (hg.sub rfl) _ _ _ ?_
      with_reducible assumption
    clear_value v2
    clear_value v3
    extract_lets +onlyGivenNames v6
    refine Keeps.cut (g := g) (s0 := s0) v6 ?_ (fun h7 => ?_)
    ·
      unfold v6
      refine keeps_shoal (s := v2) 16777216 (hg.sub rfl) ?_ (.inl rfl) (.inr rfl)
      with_reducible assumption
    clear_value v6
    refine retryInstalls_keeps (hg.sub rfl) _ _ ?_
    with_reducible assumption
  ·
    with_reducible assumption

theorem cbQueryNow_keeps (hg : Free 8589934592 g) : ∀ a0 a1 s, Keeps g s0 s → Keeps g s0 (cbQueryNow a0 a1 s) := by
  intro a0 a1 s h
  unfold cbQueryNow
  extract_lets +onlyGivenNames v1
  clear_value v1
  refine @keeps_ite _ (Keeps g s0) _ _ _ _ ?_ ?_
  ·
    refine cbAnswer_keeps (hg.sub rfl) _ _ _ _ _ ?_
    with_reducible assumption
  ·
    refine cbAnswer_keeps (hg.sub rfl) _ _ _ _ _ ?_
    with_reducible assumption

theorem releaseNow_keeps (hg : Free 12219177760 g) : ∀ a0 a1 s, Keeps g s0 s → Keeps g s0 (releaseNow a0 a1 s) := by
  intro a0 a1 s h
  unfold releaseNow
  extract_lets +onlyGivenNames v1
  clear_value v1
  refine @keeps_ite _ (Keeps g s0) _ _ _ _ ?_ ?_
  ·
    refine cbAnswer_keeps (hg.sub rfl) _ _ _ _ _ ?_
    with_reducible assumption
  ·
    refine @keeps_ite _ (Keeps g s0) _ _ _ _ ?_ ?_
    ·
      refine cbAnswer_keeps (hg.sub rfl) _ _ _ _ _ ?_
      refine retireSlot_keeps (hg.sub rfl) _ _ ?_
      with_reducible assumption
    ·
      refine cbAnswer_keeps (hg.sub rfl) _ _ _ _ _ ?_
      with_reducible assumption

theorem cbCommand_keeps (hg : Free 12219177760 g) : ∀ a0 a1 a2 s, Keeps g s0 s → Keeps g s0 (cbCommand a0 a1 a2 s) := by
  intro a0 a1 a2 s h
  unfold cbCommand
  refine @keeps_ite _ (Keeps g s0) _ _ _ _ ?_ ?_
  ·
    refine logIgnored_keeps (hg.sub rfl) _ _ _ _ ?_
    with_reducible assumption
  ·
    refine @keeps_ite _ (Keeps g s0) _ _ _ _ ?_ ?_
    ·
      refine updCb_keeps (hg.sub rfl) _ _ _ ?_
      with_reducible assumption
    ·
      split
      ·
        rename_i y1
        refine installNow_keeps (hg.sub rfl) _ _ _ ?_
        with_reducible assumption
      ·
        rename_i y2
        refine releaseNow_keeps (hg.sub rfl) _ _ _ ?_
        with_reducible assumption
      ·
        rename_i y3
        refine cbQueryNow_keeps (hg.sub rfl) _ _ _ ?_
        with_reducible assumption
      ·
        rename_i y4 y5 y6 y7
        refine logIgnored_keeps (hg.sub rfl) _ _ _ _ ?_
        with_reducible assumption

theorem execCbQuery_keeps (hg : Free 12219177760 g) : ∀ a0 a1 s, Keeps g s0 s → KeepsN g s0 (execCbQuery a0 a1 s) := by
  intro a0 a1 s h
  unfold execCbQuery
  refine KeepsN.next ?_
  refine cbCommand_keeps (hg.sub rfl) _ _ _ _ ?_
  with_reducible assumption

theorem goLive_keeps (hg : Free 12219177760 g) : ∀ a0 a1 a2 a3 a4 a5 s, Keeps g s0 s → Keeps g s0 (goLive a0 a1 a2 a3 a4 a5 s) := by
  intro a0 a1 a2 a3 a4 a5 s h
  unfold goLive
  extract_lets +onlyGivenNames v1 v2
  refine Keeps.cut (g := g) (s0 := s0) v1 ?_ (fun h3 => ?_)
  ·
    unfold v1
    refine writeArray_keeps (hg.sub rfl) _ _ _ _ _ ?_
    with_reducible assumption
  clear_value v1
  refine Keeps.cut (g := g) (s0 := s0) v2 ?_ (fun h4 => ?_)
  ·
    unfold v2
    refine @keeps_ite _ (Keeps g s0) _ _ _ _ ?_ ?_
    ·
      refine writeArray_keeps (hg.sub rfl) _ _ _ _ _ ?_
      with_reducible assumption
    ·
      with_reducible assumption
  clear_value v2
  refine setSlot_keeps (hg.sub rfl) _ _ _ ?_
  with_reducible assumption

theorem execInstall_keeps (hg : Free 12219177760 g) : ∀ a0 a1 s, Keeps g s0 s → KeepsN g s0 (execInstall a0 a1 s) := by
  intro a0 a1 s h
  unfold execInstall
  refine KeepsN.next ?_
  refine cbCommand_keeps (hg.sub rfl) _ _ _ _ ?_
  with_reducible assumption

theorem execCodebookBaseWrite_keeps (hg : Free 8590000128 g) : ∀ a0 a1 s, Keeps g s0 s → KeepsN g s0 (execCodebookBaseWrite a0 a1 s) := by
  intro a0 a1 s h
  unfold execCodebookBaseWrite
  refine KeepsN.next ?_
  refine writeCbBase_keeps (hg.sub rfl) _ _ _ ?_
  with_reducible assumption

theorem execSlotFreed_keeps (hg : Free 12235954976 g) : ∀ a0 s, Keeps g s0 s → KeepsN g s0 (execSlotFreed a0 s) := by
  intro a0 s h
  unfold execSlotFreed
  refine KeepsN.next ?_
  refine freeSlot_keeps (hg.sub rfl) _ _ ?_
  with_reducible assumption

theorem execRelease_keeps (hg : Free 12219177760 g) : ∀ a0 a1 s, Keeps g s0 s → KeepsN g s0 (execRelease a0 a1 s) := by
  intro a0 a1 s h
  unfold execRelease
  refine KeepsN.next ?_
  refine cbCommand_keeps (hg.sub rfl) _ _ _ _ ?_
  with_reducible assumption

theorem countIssued_keeps (hg : Free 4194304 g) : ∀ a0 a1 a2 s, Keeps g s0 s → Keeps g s0 (countIssued a0 a1 a2 s) := by
  intro a0 a1 a2 s h
  unfold countIssued
  refine @keeps_ite _ (Keeps g s0) _ _ _ _ ?_ ?_
  ·
    refine updFiring_keeps (hg.sub rfl) _ _ _ ?_
    with_reducible assumption
  ·
    refine updJob_keeps (hg.sub rfl) _ _ _ _ ?_
    with_reducible assumption

theorem accepted_keeps (hg : Free 8606711808 g) : ∀ a0 a1 a2 s, Keeps g s0 s → Keeps g s0 (accepted a0 a1 a2 s) := by
  intro a0 a1 a2 s h
  unfold accepted
  refine addRef_keeps (hg.sub rfl) _ _ ?_
  refine updRace_keeps (hg.sub rfl) _ _ _ ?_
  with_reducible assumption

theorem addOutcome_keeps (hg : Free 16777216 g) : ∀ a0 a1 a2 a3 s, Keeps g s0 s → Keeps g s0 (addOutcome a0 a1 a2 a3 s) := by
  intro a0 a1 a2 a3 s h
  unfold addOutcome
  extract_lets +onlyGivenNames v1 v2 v3
  clear_value v1
  clear_value v2
  clear_value v3
  refine keeps_shoal (s := s) 16777216 (hg.sub rfl) ?_ (.inl rfl) (.inr rfl)
  with_reducible assumption

theorem skipBlock_keeps (hg : Free 16777216 g) : ∀ a0 a1 a2 s, Keeps g s0 s → Keeps g s0 (skipBlock a0 a1 a2 s) := by
  intro a0 a1 a2 s h
  unfold skipBlock
  extract_lets +onlyGivenNames v1
  clear_value v1
  refine updRace_keeps (hg.sub rfl) _ _ _ ?_
  with_reducible assumption

theorem placeBlock_keeps (hg : Free 16777216 g) : ∀ a0 a1 a2 a3 s, Keeps g s0 s → Keeps g s0 (placeBlock a0 a1 a2 a3 s) := by
  intro a0 a1 a2 a3 s h
  unfold placeBlock
  refine @keeps_ite _ (Keeps g s0) _ _ _ _ ?_ ?_
  ·
    refine updRace_keeps (hg.sub rfl) _ _ _ ?_
    with_reducible assumption
  ·
    extract_lets +onlyGivenNames v1 v2
    refine Keeps.cut (g := g) (s0 := s0) v1 ?_ (fun h3 => ?_)
    ·
      unfold v1
      refine KeepsO.getD ?_ ?_
      ·
        refine makeResident_keeps (hg.sub rfl) _ _ _ _ ?_
        with_reducible assumption
      ·
        with_reducible assumption
    clear_value v1
    clear_value v2
    split
    ·
      rename_i y4 y5 y6 y7
      extract_lets +onlyGivenNames v8 v9
      clear_value v8
      clear_value v9
      refine @keeps_ite _ (Keeps g s0) _ _ _ _ ?_ ?_
      ·
        with_reducible assumption
      ·
        extract_lets +onlyGivenNames v10
        refine Keeps.cut (g := g) (s0 := s0) v10 ?_ (fun h11 => ?_)
        ·
          unfold v10
          refine addOutcome_keeps (hg.sub rfl) _ _ _ _ _ ?_
          with_reducible assumption
        clear_value v10
        refine skipBlock_keeps (hg.sub rfl) _ _ _ _ ?_
        refine updRace_keeps (hg.sub rfl) _ _ _ ?_
        with_reducible assumption

theorem dropPageRef_keeps (hg : Free 8589934592 g) : ∀ a0 s, Keeps g s0 s → Keeps g s0 (dropPageRef a0 s) := by
  intro a0 s h
  unfold dropPageRef
  split
  ·
    rename_i y1 y2 y3
    refine dropRef_keeps (hg.sub rfl) _ _ ?_
    with_reducible assumption
  ·
    rename_i y4 y5
    with_reducible assumption

theorem endPage_keeps (hg : Free 8606711808 g) : ∀ a0 a1 s, Keeps g s0 s → Keeps g s0 (endPage a0 a1 s) := by
  intro a0 a1 s h
  unfold endPage
  extract_lets +onlyGivenNames v1
  refine Keeps.cut (g := g) (s0 := s0) v1 ?_ (fun h2 => ?_)
  ·
    unfold v1
    refine dropPageRef_keeps (hg.sub rfl) _ _ ?_
    with_reducible assumption
  clear_value v1
  refine updRace_keeps (hg.sub rfl) _ _ _ ?_
  with_reducible assumption

theorem expandAt_keeps (hg : Free 8606711808 g) : ∀ a0 a1 a2 a3 s, Keeps g s0 s → Keeps g s0 (expandAt a0 a1 a2 a3 s) := by
  intro a0 a1 a2 a3 s h
  unfold expandAt
  extract_lets +onlyGivenNames v1 v2
  clear_value v1
  clear_value v2
  refine @keeps_ite _ (Keeps g s0) _ _ _ _ ?_ ?_
  ·
    refine skipBlock_keeps (hg.sub rfl) _ _ _ _ ?_
    refine addOutcome_keeps (hg.sub rfl) _ _ _ _ _ ?_
    with_reducible assumption
  ·
    refine @keeps_ite _ (Keeps g s0) _ _ _ _ ?_ ?_
    ·
      refine skipBlock_keeps (hg.sub rfl) _ _ _ _ ?_
      refine addOutcome_keeps (hg.sub rfl) _ _ _ _ _ ?_
      with_reducible assumption
    ·
      refine @keeps_ite _ (Keeps g s0) _ _ _ _ ?_ ?_
      ·
        refine endPage_keeps (hg.sub rfl) _ _ _ ?_
        refine addOutcome_keeps (hg.sub rfl) _ _ _ _ _ ?_
        with_reducible assumption
      ·
        refine @keeps_ite _ (Keeps g s0) _ _ _ _ ?_ ?_
        ·
          refine skipBlock_keeps (hg.sub rfl) _ _ _ _ ?_
          refine addOutcome_keeps (hg.sub rfl) _ _ _ _ _ ?_
          with_reducible assumption
        ·
          refine placeBlock_keeps (hg.sub rfl) _ _ _ _ _ ?_
          refine @keeps_ite _ (Keeps g s0) _ _ _ _ ?_ ?_
          ·
            refine accepted_keeps (hg.sub rfl) _ _ _ _ ?_
            with_reducible assumption
          ·
            with_reducible assumption

theorem failXfer_keeps (hg : Free 4194304 g) : ∀ a0 a1 a2 s, Keeps g s0 s → Keeps g s0 (failXfer a0 a1 a2 s) := by
  intro a0 a1 a2 s h
  unfold failXfer
  refine @keeps_ite _ (Keeps g s0) _ _ _ _ ?_ ?_
  ·
    refine updFiring_keeps (hg.sub rfl) _ _ _ ?_
    with_reducible assumption
  ·
    refine updJob_keeps (hg.sub rfl) _ _ _ _ ?_
    with_reducible assumption

theorem hostWrite_keeps (hg : Free 138412032 g) : ∀ a0 a1 a2 a3 a4 s, Keeps g s0 s → Keeps g s0 (hostWrite a0 a1 a2 a3 a4 s) := by
  intro a0 a1 a2 a3 a4 s h
  unfold hostWrite
  extract_lets +onlyGivenNames v1 v2 v3
  clear_value v1
  clear_value v2
  extract_lets +onlyGivenNames v4
  refine Keeps.cut (g := g) (s0 := s0) v4 ?_ (fun h5 => ?_)
  ·
    unfold v4
    refine keeps_rill (s := s) 4194304 (hg.sub rfl) ?_ (.inl rfl) (.inr rfl)
    with_reducible assumption
  clear_value v4
  refine emit_keeps (hg.sub rfl) _ _ ?_
  refine countIssued_keeps (hg.sub rfl) _ _ _ _ ?_
  with_reducible assumption

theorem deliverLine_keeps (hg : Free 138418944 g) : ∀ a0 a1 a2 a3 a4 s, Keeps g s0 s → Keeps g s0 (deliverLine a0 a1 a2 a3 a4 s) := by
  intro a0 a1 a2 a3 a4 s h
  unfold deliverLine
  split
  ·
    rename_i y1 y2 y3 y4
    split
    ·
      rename_i y5 y6 y7
      extract_lets +onlyGivenNames v8
      clear_value v8
      refine issueIn_keeps (hg.sub rfl) _ _ _ _ ?_
      refine countIssued_keeps (hg.sub rfl) _ _ _ _ ?_
      with_reducible assumption
    ·
      rename_i y9 y10 y11 y12
      refine countIssued_keeps (hg.sub rfl) _ _ _ _ ?_
      refine hostWrite_keeps (hg.sub rfl) _ _ _ _ _ _ ?_
      with_reducible assumption
    ·
      rename_i y13 y14 y15 y16
      refine @keeps_ite _ (Keeps g s0) _ _ _ _ ?_ ?_
      ·
        with_reducible assumption
      ·
        extract_lets +onlyGivenNames v17 v18
        clear_value v17
        clear_value v18
        split
        ·
          rename_i y19 y20 y21 y22
          refine Keeps.cut (g := g) (s0 := s0) y21 (Keeps2.of_eq ?_ y22) (fun h23 => ?_)
          ·
            refine partnerStores_keeps (hg.sub rfl) _ _ _ _ _ _ _ ?_
            with_reducible assumption
          refine countIssued_keeps (hg.sub rfl) _ _ _ _ ?_
          with_reducible assumption

theorem purgeQueue_keeps (hg : Free 8606711808 g) : ∀ a0 s, Keeps g s0 s → Keeps g s0 (purgeQueue a0 s) := by
  intro a0 s h
  unfold purgeQueue
  extract_lets +onlyGivenNames v1 v2
  clear_value v1
  refine Keeps.cut (g := g) (s0 := s0) v2 ?_ (fun h3 => ?_)
  ·
    unfold v2
    refine keeps_foldl (P := Keeps g s0) (fun b4 x5 h6 => ?_) _ _ ?_
    ·
      refine dropRef_keeps (hg.sub rfl) _ _ ?_
      with_reducible assumption
    ·
      with_reducible assumption
  clear_value v2
  refine updRace_keeps (hg.sub rfl) _ _ _ ?_
  with_reducible assumption

theorem eddyReadLine_keeps (hg : Free 8745130752 g) : ∀ a0 a1 a2 s, Keeps g s0 s → Keeps g s0 (eddyReadLine a0 a1 a2 s) := by
  intro a0 a1 a2 s h
  unfold eddyReadLine
  extract_lets +onlyGivenNames v1 v2
  clear_value v1
  clear_value v2
  split
  ·
    rename_i y3
    with_reducible assumption
  ·
    rename_i y4 y5 y6
    refine @keeps_ite _ (Keeps g s0) _ _ _ _ ?_ ?_
    ·
      with_reducible assumption
    ·
      extract_lets +onlyGivenNames v7 v8 v9 v10 v11 v12 v13 v14 v15 v16 v17 v18
      clear_value v7
      clear_value v8
      clear_value v9
      clear_value v10
      clear_value v11
      clear_value v12
      clear_value v13
      clear_value v14
      clear_value v15
      refine Keeps.cut (g := g) (s0 := s0) v16 ?_ (fun h19 => ?_)
      ·
        unfold v16
        refine updRace_keeps (hg.sub rfl) _ _ _ ?_
        with_reducible assumption
      clear_value v16
      refine Keeps.cut (g := g) (s0 := s0) v17 ?_ (fun h20 => ?_)
      ·
        unfold v17
        refine @keeps_ite _ (Keeps g s0) _ _ _ _ ?_ ?_
        ·
          with_reducible assumption
        ·
          refine failXfer_keeps (hg.sub rfl) _ _ _ _ ?_
          with_reducible assumption
      clear_value v17
      refine Keeps.cut (g := g) (s0 := s0) v18 ?_ (fun h21 => ?_)
      ·
        unfold v18
        refine deliverLine_keeps (hg.sub rfl) _ _ _ _ _ _ ?_
        with_reducible assumption
      clear_value v18
      refine @keeps_ite _ (Keeps g s0) _ _ _ _ ?_ ?_
      ·
        refine purgeQueue_keeps (hg.sub rfl) _ _ ?_
        refine dropRef_keeps (hg.sub rfl) _ _ ?_
        with_reducible assumption
      ·
        with_reducible assumption

theorem execCodebookMissFill_keeps (hg : Free 20971520 g) : ∀ a0 a1 s, Keeps g s0 s → KeepsN g s0 (execCodebookMissFill a0 a1 s) := by
  intro a0 a1 s h
  unfold execCodebookMissFill
  refine KeepsN.next ?_
  extract_lets +onlyGivenNames v1
  clear_value v1
  refine @keeps_ite _ (Keeps g s0) _ _ _ _ ?_ ?_
  ·
    with_reducible assumption
  ·
    extract_lets +onlyGivenNames v2 v3
    clear_value v2
    clear_value v3
    split
    ·
      rename_i y4 y5
      with_reducible assumption
    ·
      rename_i y6 y7 y8
      refine Keeps.cut (g := g) (s0 := s0) y7 (KeepsO.of_eq ?_ y8) (fun h9 => ?_)
      ·
        refine makeResident_keeps (hg.sub rfl) _ _ _ _ ?_
        with_reducible assumption
      extract_lets +onlyGivenNames v10 v11
      clear_value v10
      extract_lets +onlyGivenNames v12
      refine Keeps.cut (g := g) (s0 := s0) v12 ?_ (fun h13 => ?_)
      ·
        unfold v12
        refine keeps_rill (s := y7) 4194304 (hg.sub rfl) ?_ (.inl rfl) (.inr rfl)
        with_reducible assumption
      clear_value v12
      refine updRace_keeps (hg.sub rfl) _ _ _ ?_
      with_reducible assumption

theorem execEddyReadLine_keeps (hg : Free 8745130752 g) : ∀ a0 a1 a2 s, Keeps g s0 s → KeepsN g s0 (execEddyReadLine a0 a1 a2 s) := by
  intro a0 a1 a2 s h
  unfold execEddyReadLine
  refine KeepsN.next ?_
  refine eddyReadLine_keeps (hg.sub rfl) _ _ _ _ ?_
  with_reducible assumption

theorem dropOutcomes_keeps (hg : Free 16777216 g) : ∀ a0 s, Keeps g s0 s → Keeps g s0 (dropOutcomes a0 s) := by
  intro a0 s h
  unfold dropOutcomes
  refine keeps_shoal (s := s) 16777216 (hg.sub rfl) ?_ (.inl rfl) (.inr rfl)
  with_reducible assumption

theorem dropPages_keeps (hg : Free 8606711808 g) : ∀ a0 s, Keeps g s0 s → Keeps g s0 (dropPages a0 s) := by
  intro a0 s h
  unfold dropPages
  refine keeps_foldl (P := Keeps g s0) (fun b1 x2 h3 => ?_) _ _ ?_
  ·
    refine keeps_foldl (P := Keeps g s0) (fun b4 x5 h6 => ?_) _ _ ?_
    ·
      refine endPage_keeps (hg.sub rfl) _ _ _ ?_
      with_reducible assumption
    ·
      with_reducible assumption
  ·
    with_reducible assumption

theorem expandBlock_keeps (hg : Free 8606711808 g) : ∀ a0 s, Keeps g s0 s → Keeps g s0 (expandBlock a0 s) := by
  intro a0 s h
  unfold expandBlock
  split
  ·
    rename_i y1 y2
    with_reducible assumption
  ·
    rename_i y3 y4 y5
    extract_lets +onlyGivenNames v6
    clear_value v6
    refine @keeps_ite _ (Keeps g s0) _ _ _ _ ?_ ?_
    ·
      with_reducible assumption
    ·
      refine @keeps_ite _ (Keeps g s0) _ _ _ _ ?_ ?_
      ·
        refine endPage_keeps (hg.sub rfl) _ _ _ ?_
        with_reducible assumption
      ·
        extract_lets +onlyGivenNames v7 v8
        clear_value v7
        clear_value v8
        refine @keeps_ite _ (Keeps g s0) _ _ _ _ ?_ ?_
        ·
          refine endPage_keeps (hg.sub rfl) _ _ _ ?_
          with_reducible assumption
        ·
          refine @keeps_ite _ (Keeps g s0) _ _ _ _ ?_ ?_
          ·
            refine endPage_keeps (hg.sub rfl) _ _ _ ?_
            refine addOutcome_keeps (hg.sub rfl) _ _ _ _ _ ?_
            with_reducible assumption
          ·
            refine expandAt_keeps (hg.sub rfl) _ _ _ _ _ ?_
            with_reducible assumption

theorem execExpandBlock_keeps (hg : Free 8606711808 g) : ∀ a0 s, Keeps g s0 s → KeepsN g s0 (execExpandBlock a0 s) := by
  intro a0 s h
  unfold execExpandBlock
  refine KeepsN.next ?_
  refine expandBlock_keeps (hg.sub rfl) _ _ ?_
  with_reducible assumption

theorem eddyFlush_keeps (hg : Free 8606711808 g) : ∀ a0 s, Keeps g s0 s → Keeps g s0 (eddyFlush a0 s) := by
  intro a0 s h
  unfold eddyFlush
  refine keeps_foldl (P := Keeps g s0) (fun b1 x2 h3 => ?_) _ _ ?_
  ·
    extract_lets +onlyGivenNames v4 v5 v6 v7 v8 v9
    clear_value v4
    clear_value v5
    clear_value v6
    clear_value v7
    refine Keeps.cut (g := g) (s0 := s0) v8 ?_ (fun h10 => ?_)
    ·
      unfold v8
      refine keeps_foldl (P := Keeps g s0) (fun b11 x12 h13 => ?_) _ _ ?_
      ·
        refine dropPageRef_keeps (hg.sub rfl) _ _ ?_
        with_reducible assumption
      ·
        with_reducible assumption
    clear_value v8
    refine Keeps.cut (g := g) (s0 := s0) v9 ?_ (fun h14 => ?_)
    ·
      unfold v9
      refine updRace_keeps (hg.sub rfl) _ _ _ ?_
      with_reducible assumption
    clear_value v9
    refine @keeps_ite _ (Keeps g s0) _ _ _ _ ?_ ?_
    ·
      refine purgeQueue_keeps (hg.sub rfl) _ _ ?_
      with_reducible assumption
    ·
      with_reducible assumption
  ·
    with_reducible assumption

theorem pushPage_keeps (hg : Free 285212672 g) : ∀ a0 a1 s, Keeps g s0 s → Keeps g s0 (pushPage a0 a1 s) := by
  intro a0 a1 s h
  unfold pushPage
  extract_lets +onlyGivenNames v1 v2
  clear_value v1
  refine Keeps.cut (g := g) (s0 := s0) v2 ?_ (fun h3 => ?_)
  ·
    unfold v2
    refine updRace_keeps (hg.sub rfl) _ _ _ ?_
    with_reducible assumption
  clear_value v2
  refine @keeps_ite _ (Keeps g s0) _ _ _ _ ?_ ?_
  ·
    with_reducible assumption
  ·
    refine @keeps_ite _ (Keeps g s0) _ _ _ _ ?_ ?_
    ·
      refine keeps_shoal (s := v2) 16777216 (hg.sub rfl) ?_ (.inl rfl) (.inr rfl)
      with_reducible assumption
    ·
      refine keeps_update (s := v2) 285212672 (hg.sub rfl) ?_ (.inr rfl) (.inr rfl) (.inr rfl) (.inr rfl) (.inr rfl) (.inr rfl) (.inr rfl) (.inr rfl) (.inr rfl) (.inr rfl) (.inr rfl) (.inr rfl) (.inr rfl) (.inr rfl) (.inr rfl) (.inr rfl) (.inr rfl) (.inr rfl) (.inr rfl) (.inr rfl) (.inr rfl) (.inr rfl) (.inr rfl) (.inr rfl) (.inl rfl) (.inr rfl) (.inr rfl) (.inr rfl) (.inl rfl) (.inr rfl) (.inr rfl) (.inr rfl) (.inr rfl) (.inr rfl) (fun m => m)
      with_reducible assumption

theorem claimBooks_keeps (hg : Free 8610906112 g) : ∀ a0 a1 s, Keeps g s0 s → Keeps g s0 (claimBooks a0 a1 s) := by
  intro a0 a1 s h
  unfold claimBooks
  split
  ·
    rename_i y1 y2
    with_reducible assumption
  ·
    rename_i y3 y4 y5
    extract_lets +onlyGivenNames v6 v7 v8 v9 v10 v11
    clear_value v6
    clear_value v7
    refine Keeps.cut (g := g) (s0 := s0) v8 ?_ (fun h12 => ?_)
    ·
      unfold v8
      refine keeps_foldl (P := Keeps g s0) (fun b13 x14 h15 => ?_) _ _ ?_
      ·
        refine addRef_keeps (hg.sub rfl) _ _ ?_
        with_reducible assumption
      ·
        with_reducible assumption
    clear_value v8
    clear_value v9
    clear_value v10
    refine Keeps.cut (g := g) (s0 := s0) v11 ?_ (fun h16 => ?_)
    ·
      unfold v11
      refine @keeps_ite _ (Keeps g s0) _ _ _ _ ?_ ?_
      ·
        refine keeps_foldl (P := Keeps g s0) (fun b17 x18 h19 => ?_) _ _ ?_
        ·
          refine KeepsO.getD ?_ ?_
          ·
            refine makeResident_keeps (hg.sub rfl) _ _ _ _ ?_
            with_reducible assumption
          ·
            with_reducible assumption
        ·
          with_reducible assumption
      ·
        with_reducible assumption
    clear_value v11
    refine updFiring_keeps (hg.sub rfl) _ _ _ ?_
    with_reducible assumption

theorem claimFiring_keeps (hg : Free 8610906112 g) : ∀ a0 s, Keeps g s0 s → Keeps g s0 (claimFiring a0 s) := by
  intro a0 s h
  unfold claimFiring
  refine @keeps_ite _ (Keeps g s0) _ _ _ _ ?_ ?_
  ·
    with_reducible assumption
  ·
    refine keeps_foldl (P := Keeps g s0) (fun b1 x2 h3 => ?_) _ _ ?_
    ·
      extract_lets +onlyGivenNames v4
      clear_value v4
      refine @keeps_ite _ (Keeps g s0) _ _ _ _ ?_ ?_
      ·
        with_reducible assumption
      ·
        split
        ·
          rename_i y5 y6 y7
          refine claimBooks_keeps (hg.sub rfl) _ _ _ ?_
          with_reducible assumption
        ·
          rename_i y8 y9 y10 y11
          with_reducible assumption
    ·
      with_reducible assumption

theorem fire_keeps (hg : Free 8610912768 g) : ∀ a0 a1 a2 a3 s, Keeps g s0 s → Keeps g s0 (fire a0 a1 a2 a3 s) := by
  intro a0 a1 a2 a3 s h
  unfold fire
  extract_lets +onlyGivenNames v1 v2 v3 v4 v5 v6 v7 v8 v9 v10 v11
  clear_value v1
  clear_value v2
  clear_value v3
  clear_value v4
  clear_value v5
  refine Keeps.cut (g := g) (s0 := s0) v6 ?_ (fun h12 => ?_)
  ·
    unfold v6
    refine keeps_foldl (P := Keeps g s0) (fun b13 x14 h15 => ?_) _ _ ?_
    ·
      refine bring_keeps (hg.sub rfl) _ _ _ ?_
      with_reducible assumption
    ·
      with_reducible assumption
  clear_value v6
  clear_value v7
  clear_value v8
  clear_value v9
  clear_value v10
  clear_value v11
  refine claimFiring_keeps (hg.sub rfl) _ _ ?_
  refine keeps_rill (s := v6) 4194304 (hg.sub rfl) ?_ (.inl rfl) (.inr rfl)
  with_reducible assumption

theorem courseFault_keeps (hg : Free 4299227136 g) : ∀ a0 a1 a2 a3 s, Keeps g s0 s → Keeps g s0 (courseFault a0 a1 a2 a3 s) := by
  intro a0 a1 a2 a3 s h
  unfold courseFault
  extract_lets +onlyGivenNames v1 v2
  clear_value v1
  refine Keeps.cut (g := g) (s0 := s0) v2 ?_ (fun h3 => ?_)
  ·
    unfold v2
    refine addDue_keeps (hg.sub rfl) _ _ ?_
    with_reducible assumption
  clear_value v2
  refine faultRill_keeps (hg.sub rfl) _ _ _ ?_
  with_reducible assumption

theorem advanceLoop_keeps (hg : Free 12905945600 g) : ∀ a0 a1 s, Keeps g s0 s → Keeps g s0 (advanceLoop a0 a1 s) := by
  intro a0 a1 s
  induction a1 generalizing a0 s
  ·
    intro h1
    unfold advanceLoop
    with_reducible assumption
  ·
    rename_i y2 y3
    intro h4
    unfold advanceLoop
    extract_lets +onlyGivenNames v5 v6
    clear_value v5
    refine Keeps.cut (g := g) (s0 := s0) v6 ?_ (fun h7 => ?_)
    ·
      unfold v6
      refine countRange_keeps (hg.sub rfl) _ _ _ _ ?_
      with_reducible assumption
    clear_value v6
    split
    ·
      rename_i y8 y9 y10
      refine @keeps_ite _ (Keeps g s0) _ _ _ _ ?_ ?_
      ·
        refine courseFault_keeps (hg.sub rfl) _ _ _ _ _ ?_
        with_reducible assumption
      ·
        extract_lets +onlyGivenNames v11
        clear_value v11
        refine @keeps_ite _ (Keeps g s0) _ _ _ _ ?_ ?_
        ·
          with_reducible assumption
        ·
          extract_lets +onlyGivenNames v12 v13 v14
          clear_value v12
          clear_value v13
          clear_value v14
          refine @keeps_ite _ (Keeps g s0) _ _ _ _ ?_ ?_
          ·
            refine courseFault_keeps (hg.sub rfl) _ _ _ _ _ ?_
            with_reducible assumption
          ·
            extract_lets +onlyGivenNames v15 v16 v17
            refine Keeps.cut (g := g) (s0 := s0) v15 ?_ (fun h18 => ?_)
            ·
              unfold v15
              refine @keeps_ite _ (Keeps g s0) _ _ _ _ ?_ ?_
              ·
                refine fire_keeps (hg.sub rfl) _ _ _ _ _ ?_
                with_reducible assumption
              ·
                refine updRill_keeps (hg.sub rfl) _ _ _ ?_
                with_reducible assumption
            clear_value v15
            clear_value v16
            refine Keeps.cut (g := g) (s0 := s0) v17 ?_ (fun h19 => ?_)
            ·
              unfold v17
              refine updRill_keeps (hg.sub rfl) _ _ _ ?_
              with_reducible assumption
            clear_value v17
            refine y3 _ _ ?_
            with_reducible assumption
    ·
      rename_i y20 y21 y22 y23 y24
      refine courseFault_keeps (hg.sub rfl) _ _ _ _ _ ?_
      with_reducible assumption

theorem onAdvance_keeps (hg : Free 12905945600 g) : ∀ a0 a1 s, Keeps g s0 s → Keeps g s0 (onAdvance a0 a1 s) := by
  intro a0 a1 s h
  unfold onAdvance
  extract_lets +onlyGivenNames v1 v2 v3 v4 v5
  clear_value v1
  clear_value v2
  clear_value v3
  clear_value v4
  refine Keeps.cut (g := g) (s0 := s0) v5 ?_ (fun h6 => ?_)
  ·
    unfold v5
    refine updRill_keeps (hg.sub rfl) _ _ _ ?_
    with_reducible assumption
  clear_value v5
  refine advanceLoop_keeps (hg.sub rfl) _ _ _ ?_
  with_reducible assumption

theorem pushStores_keeps (hg : Free 4194816 g) : ∀ a0 a1 a2 s, Keeps g s0 s → Keeps g s0 (pushStores a0 a1 a2 s) := by
  intro a0 a1 a2 s h
  unfold pushStores
  split
  ·
    rename_i y1 y2
    with_reducible assumption
  ·
    rename_i y3 y4 y5
    extract_lets +onlyGivenNames v6
    clear_value v6
    split
    ·
      rename_i y7 y8 y9 y10
      refine Keeps.cut (g := g) (s0 := s0) y9 (Keeps2.of_eq ?_ y10) (fun h11 => ?_)
      ·
        refine partnerStores_keeps (hg.sub rfl) _ _ _ _ _ _ _ ?_
        with_reducible assumption
      refine updFiring_keeps (hg.sub rfl) _ _ _ ?_
      with_reducible assumption

theorem memStores_keeps (hg : Free 138418944 g) : ∀ a0 a1 a2 a3 s, Keeps g s0 s → Keeps g s0 (memStores a0 a1 a2 a3 s) := by
  intro a0 a1 a2 a3 s
  induction a1 generalizing a0 a2 a3 s
  ·
    intro h1
    unfold memStores
    with_reducible assumption
  ·
    rename_i y2 y3
    intro h4
    unfold memStores
    refine @keeps_ite _ (Keeps g s0) _ _ _ _ ?_ ?_
    ·
      with_reducible assumption
    ·
      extract_lets +onlyGivenNames v5
      refine Keeps.cut (g := g) (s0 := s0) v5 ?_ (fun h6 => ?_)
      ·
        unfold v5
        refine updFiring_keeps (hg.sub rfl) _ _ _ ?_
        with_reducible assumption
      clear_value v5
      refine y3 _ _ _ _ ?_
      refine issueIn_keeps (hg.sub rfl) _ _ _ _ ?_
      with_reducible assumption

theorem tileWrite_keeps (hg : Free 4194304 g) : ∀ a0 a1 a2 s, Keeps g s0 s → Keeps g s0 (tileWrite a0 a1 a2 s) := by
  intro a0 a1 a2 s h
  unfold tileWrite
  extract_lets +onlyGivenNames v1 v2
  clear_value v1
  refine keeps_rill (s := s) 4194304 (hg.sub rfl) ?_ (.inl rfl) (.inr rfl)
  with_reducible assumption

theorem fireOn_keeps (hg : Free 9013566208 g) : ∀ a0 a1 s, Keeps g s0 s → Keeps g s0 (fireOn a0 a1 s) := by
  intro a0 a1 s h
  unfold fireOn
  split
  ·
    rename_i y1 y2
    with_reducible assumption
  ·
    rename_i y3 y4 y5
    split
    ·
      rename_i y6 y7 y8
      extract_lets +onlyGivenNames v9
      clear_value v9
      extract_lets +onlyGivenNames v10
      refine Keeps.cut (g := g) (s0 := s0) v10 ?_ (fun h11 => ?_)
      ·
        unfold v10
        refine @keeps_ite _ (Keeps g s0) _ _ _ _ ?_ ?_
        ·
          with_reducible assumption
        ·
          split
          ·
            rename_i y12 y13 y14
            refine failXfer_keeps (hg.sub rfl) _ _ _ _ ?_
            with_reducible assumption
          ·
            rename_i y15 y16
            with_reducible assumption
      clear_value v10
      extract_lets +onlyGivenNames v17
      refine Keeps.cut (g := g) (s0 := s0) v17 ?_ (fun h18 => ?_)
      ·
        unfold v17
        refine @keeps_ite _ (Keeps g s0) _ _ _ _ ?_ ?_
        ·
          with_reducible assumption
        ·
          refine claimBooks_keeps (hg.sub rfl) _ _ _ ?_
          with_reducible assumption
      clear_value v17
      split
      ·
        rename_i y19 y20
        refine tileWrite_keeps (hg.sub rfl) _ _ _ _ ?_
        with_reducible assumption
      ·
        rename_i y21 y22
        refine @keeps_ite _ (Keeps g s0) _ _ _ _ ?_ ?_
        ·
          split
          ·
            rename_i y23 y24 y25
            refine pushPage_keeps (hg.sub rfl) _ _ _ ?_
            with_reducible assumption
          ·
            rename_i y26 y27
            with_reducible assumption
        ·
          refine pushStores_keeps (hg.sub rfl) _ _ _ _ ?_
          with_reducible assumption
      ·
        rename_i y28 y29 y30
        refine memStores_keeps (hg.sub rfl) _ _ _ _ _ ?_
        with_reducible assumption

theorem fireWrite_keeps (hg : Free 9013566208 g) : ∀ a0 a1 s, Keeps g s0 s → Keeps g s0 (fireWrite a0 a1 s) := by
  intro a0 a1 s
  induction a1 generalizing a0 s
  ·
    intro h1
    unfold fireWrite
    with_reducible assumption
  ·
    rename_i y2 y3
    intro h4
    unfold fireWrite
    split
    ·
      rename_i y5 y6
      with_reducible assumption
    ·
      rename_i y7 y8 y9
      refine @keeps_ite _ (Keeps g s0) _ _ _ _ ?_ ?_
      ·
        refine updFiring_keeps (hg.sub rfl) _ _ _ ?_
        with_reducible assumption
      ·
        refine @keeps_ite _ (Keeps g s0) _ _ _ _ ?_ ?_
        ·
          with_reducible assumption
        ·
          refine @keeps_ite _ (Keeps g s0) _ _ _ _ ?_ ?_
          ·
            refine @keeps_ite _ (Keeps g s0) _ _ _ _ ?_ ?_
            ·
              with_reducible assumption
            ·
              extract_lets +onlyGivenNames v10
              clear_value v10
              refine @keeps_ite _ (Keeps g s0) _ _ _ _ ?_ ?_
              ·
                refine tileWrite_keeps (hg.sub rfl) _ _ _ _ ?_
                refine updFiring_keeps (hg.sub rfl) _ _ _ ?_
                with_reducible assumption
              ·
                extract_lets +onlyGivenNames v11
                refine Keeps.cut (g := g) (s0 := s0) v11 ?_ (fun h12 => ?_)
                ·
                  unfold v11
                  refine updFiring_keeps (hg.sub rfl) _ _ _ ?_
                  with_reducible assumption
                clear_value v11
                refine y3 _ _ ?_
                refine memStores_keeps (hg.sub rfl) _ _ _ _ _ ?_
                with_reducible assumption
          ·
            split
            ·
              rename_i y13 y14
              with_reducible assumption
            ·
              rename_i y15 y16 y17 y18
              refine y3 _ _ ?_
              refine fireOn_keeps (hg.sub rfl) _ _ _ ?_
              refine updFiring_keeps (hg.sub rfl) _ _ _ ?_
              with_reducible assumption

theorem firePump_keeps (hg : Free 138418944 g) : ∀ a0 a1 s, Keeps g s0 s → Keeps g s0 (firePump a0 a1 s) := by
  intro a0 a1 s
  induction a1 generalizing a0 s
  ·
    intro h1
    unfold firePump
    with_reducible assumption
  ·
    rename_i y2 y3
    intro h4
    unfold firePump
    split
    ·
      rename_i y5 y6
      with_reducible assumption
    ·
      rename_i y7 y8 y9
      extract_lets +onlyGivenNames v10 v11
      clear_value v10
      clear_value v11
      refine @keeps_ite _ (Keeps g s0) _ _ _ _ ?_ ?_
      ·
        with_reducible assumption
      ·
        extract_lets +onlyGivenNames v12 v13
        clear_value v12
        refine Keeps.cut (g := g) (s0 := s0) v13 ?_ (fun h14 => ?_)
        ·
          unfold v13
          refine updFiring_keeps (hg.sub rfl) _ _ _ ?_
          with_reducible assumption
        clear_value v13
        refine y3 _ _ ?_
        refine issueIn_keeps (hg.sub rfl) _ _ _ _ ?_
        with_reducible assumption

theorem pumpFirings_keeps (hg : Free 138418944 g) : ∀ a0 s, Keeps g s0 s → Keeps g s0 (pumpFirings a0 s) := by
  intro a0 s h
  unfold pumpFirings
  refine keeps_foldl (P := Keeps g s0) (fun b1 x2 h3 => ?_) _ _ ?_
  ·
    refine firePump_keeps (hg.sub rfl) _ _ _ ?_
    with_reducible assumption
  ·
    with_reducible assumption

theorem dropFiring_keeps (hg : Free 8610906112 g) : ∀ a0 s, Keeps g s0 s → Keeps g s0 (dropFiring a0 s) := by
  intro a0 s h
  unfold dropFiring
  extract_lets +onlyGivenNames v1
  refine Keeps.cut (g := g) (s0 := s0) v1 ?_ (fun h2 => ?_)
  ·
    unfold v1
    refine keeps_foldl (P := Keeps g s0) (fun b3 x4 h5 => ?_) _ _ ?_
    ·
      refine dropRef_keeps (hg.sub rfl) _ _ ?_
      with_reducible assumption
    ·
      with_reducible assumption
  clear_value v1
  refine dropOutcomes_keeps (hg.sub rfl) _ _ ?_
  refine keeps_rill (s := v1) 4194304 (hg.sub rfl) ?_ (.inl rfl) (.inr rfl)
  with_reducible assumption

theorem fireEnd_keeps (hg : Free 13040163584 g) : ∀ a0 s, Keeps g s0 s → Keeps g s0 (fireEnd a0 s) := by
  intro a0 s h
  unfold fireEnd
  split
  ·
    rename_i y1 y2
    with_reducible assumption
  ·
    rename_i y3 y4 y5
    split
    ·
      rename_i y6 y7 y8 y9
      extract_lets +onlyGivenNames v10
      clear_value v10
      split
      ·
        rename_i y11 y12
        refine @keeps_ite _ (Keeps g s0) _ _ _ _ ?_ ?_
        ·
          with_reducible assumption
        ·
          refine @keeps_ite _ (Keeps g s0) _ _ _ _ ?_ ?_
          ·
            refine dropFiring_keeps (hg.sub rfl) _ _ ?_
            with_reducible assumption
          ·
            refine courseFault_keeps (hg.sub rfl) _ _ _ _ _ ?_
            refine dropFiring_keeps (hg.sub rfl) _ _ ?_
            with_reducible assumption
      ·
        rename_i y13
        refine @keeps_ite _ (Keeps g s0) _ _ _ _ ?_ ?_
        ·
          with_reducible assumption
        ·
          split
          ·
            rename_i y14 y15 y16 y17 y18
            refine @keeps_ite _ (Keeps g s0) _ _ _ _ ?_ ?_
            ·
              with_reducible assumption
            ·
              extract_lets +onlyGivenNames v19
              refine Keeps.cut (g := g) (s0 := s0) v19 ?_ (fun h20 => ?_)
              ·
                unfold v19
                refine updFiring_keeps (hg.sub rfl) _ _ _ ?_
                with_reducible assumption
              clear_value v19
              refine issueIn_keeps (hg.sub rfl) _ _ _ _ ?_
              with_reducible assumption
          ·
            rename_i y21 y22 y23
            refine dropFiring_keeps (hg.sub rfl) _ _ ?_
            with_reducible assumption

theorem fireStep_keeps (hg : Free 13308599040 g) : ∀ a0 s, Keeps g s0 s → Keeps g s0 (fireStep a0 s) := by
  intro a0 s h
  unfold fireStep
  split
  ·
    rename_i y1 y2
    with_reducible assumption
  ·
    rename_i y3 y4 y5
    refine pumpFirings_keeps (hg.sub rfl) _ _ ?_
    refine fireEnd_keeps (hg.sub rfl) _ _ ?_
    refine pumpFirings_keeps (hg.sub rfl) _ _ ?_
    refine fireWrite_keeps (hg.sub rfl) _ _ _ ?_
    with_reducible assumption

theorem reachNewer_keeps (hg : Free 13308599040 g) : ∀ a0 a1 s, Keeps g s0 s → Keeps g s0 (reachNewer a0 a1 s) := by
  intro a0 a1 s h
  unfold reachNewer
  extract_lets +onlyGivenNames v1 v2
  clear_value v1
  refine Keeps.cut (g := g) (s0 := s0) v2 ?_ (fun h3 => ?_)
  ·
    unfold v2
    refine onAdvance_keeps (hg.sub rfl) _ _ _ ?_
    with_reducible assumption
  clear_value v2
  refine keeps_foldl (P := Keeps g s0) (fun b4 x5 h6 => ?_) _ _ ?_
  ·
    refine fireStep_keeps (hg.sub rfl) _ _ ?_
    with_reducible assumption
  ·
    with_reducible assumption

theorem copyEnd_keeps (hg : Free 12345006880 g) : ∀ a0 a1 s, Keeps g s0 s → Keeps g s0 (copyEnd a0 a1 s) := by
  intro a0 a1 s h
  unfold copyEnd
  split
  ·
    rename_i y1 y2
    with_reducible assumption
  ·
    rename_i y3 y4 y5
    extract_lets +onlyGivenNames v6 v7 v8 v9
    clear_value v6
    clear_value v7
    refine Keeps.cut (g := g) (s0 := s0) v8 ?_ (fun h10 => ?_)
    ·
      unfold v8
      refine @keeps_ite _ (Keeps g s0) _ _ _ _ ?_ ?_
      ·
        refine dropPages_keeps (hg.sub rfl) _ _ ?_
        with_reducible assumption
      ·
        with_reducible assumption
    clear_value v8
    clear_value v9
    refine @keeps_ite _ (Keeps g s0) _ _ _ _ ?_ ?_
    ·
      with_reducible assumption
    ·
      refine @keeps_ite _ (Keeps g s0) _ _ _ _ ?_ ?_
      ·
        extract_lets +onlyGivenNames v11
        clear_value v11
        split
        ·
          rename_i y12 y13 y14 y15
          extract_lets +onlyGivenNames v16
          refine Keeps.cut (g := g) (s0 := s0) v16 ?_ (fun h17 => ?_)
          ·
            unfold v16
            refine dropOutcomes_keeps (hg.sub rfl) _ _ ?_
            with_reducible assumption
          clear_value v16
          refine @keeps_ite _ (Keeps g s0) _ _ _ _ ?_ ?_
          ·
            refine finishJob_keeps (hg.sub rfl) _ _ _ _ _ ?_
            with_reducible assumption
          ·
            refine endJob_keeps (hg.sub rfl) _ _ ?_
            with_reducible assumption
      ·
        with_reducible assumption

theorem reachDropped_keeps (hg : Free 4294967296 g) : ∀ a0 s, Keeps g s0 s → Keeps g s0 (reachDropped a0 s) := by
  intro a0 s h
  unfold reachDropped
  refine updRill_keeps (hg.sub rfl) _ _ _ ?_
  with_reducible assumption

theorem reachUpdate_keeps (hg : Free 13308599040 g) : ∀ a0 a1 a2 s, Keeps g s0 s → Keeps g s0 (reachUpdate a0 a1 a2 s) := by
  intro a0 a1 a2 s h
  unfold reachUpdate
  extract_lets +onlyGivenNames v1
  clear_value v1
  refine @keeps_ite _ (Keeps g s0) _ _ _ _ ?_ ?_
  ·
    refine reachDropped_keeps (hg.sub rfl) _ _ ?_
    with_reducible assumption
  ·
    refine @keeps_ite _ (Keeps g s0) _ _ _ _ ?_ ?_
    ·
      refine updRill_keeps (hg.sub rfl) _ _ _ ?_
      with_reducible assumption
    ·
      split
      ·
        rename_i y2 y3
        with_reducible assumption
      ·
        rename_i y4 y5
        refine @keeps_ite _ (Keeps g s0) _ _ _ _ ?_ ?_
        ·
          refine reachNewer_keeps (hg.sub rfl) _ _ _ ?_
          with_reducible assumption
        ·
          refine reachDropped_keeps (hg.sub rfl) _ _ ?_
          with_reducible assumption
      ·
        rename_i y6 y7 y8
        refine reachDropped_keeps (hg.sub rfl) _ _ ?_
        with_reducible assumption

theorem reachFrame_keeps (hg : Free 13308730112 g) : ∀ a0 a1 s, Keeps g s0 s → Keeps g s0 (reachFrame a0 a1 s) := by
  intro a0 a1 s h
  unfold reachFrame
  extract_lets +onlyGivenNames v1 v2 v3 v4
  clear_value v1
  clear_value v2
  clear_value v3
  clear_value v4
  refine @keeps_ite _ (Keeps g s0) _ _ _ _ ?_ ?_
  ·
    with_reducible assumption
  ·
    refine @keeps_ite _ (Keeps g s0) _ _ _ _ ?_ ?_
    ·
      refine keeps_keeper (s := s) 131072 (hg.sub rfl) ?_ (.inr rfl) (.inl rfl)
      with_reducible assumption
    ·
      refine @keeps_ite _ (Keeps g s0) _ _ _ _ ?_ ?_
      ·
        refine logIgnored_keeps (hg.sub rfl) _ _ _ _ ?_
        with_reducible assumption
      ·
        refine @keeps_ite _ (Keeps g s0) _ _ _ _ ?_ ?_
        ·
          refine reachUpdate_keeps (hg.sub rfl) _ _ _ _ ?_
          with_reducible assumption
        ·
          refine logIgnored_keeps (hg.sub rfl) _ _ _ _ ?_
          with_reducible assumption

theorem copyIssue_keeps (hg : Free 138418944 g) : ∀ a0 a1 a2 s, Keeps g s0 s → Keeps g s0 (copyIssue a0 a1 a2 s) := by
  intro a0 a1 a2 s h
  unfold copyIssue
  extract_lets +onlyGivenNames v1 v2 v3
  clear_value v1
  clear_value v2
  refine Keeps.cut (g := g) (s0 := s0) v3 ?_ (fun h4 => ?_)
  ·
    unfold v3
    refine updJob_keeps (hg.sub rfl) _ _ _ _ ?_
    with_reducible assumption
  clear_value v3
  refine @keeps_ite _ (Keeps g s0) _ _ _ _ ?_ ?_
  ·
    extract_lets +onlyGivenNames v5 v6
    clear_value v5
    extract_lets +onlyGivenNames v7
    refine Keeps.cut (g := g) (s0 := s0) v7 ?_ (fun h8 => ?_)
    ·
      unfold v7
      refine keeps_rill (s := v3) 4194304 (hg.sub rfl) ?_ (.inl rfl) (.inr rfl)
      with_reducible assumption
    clear_value v7
    refine emit_keeps (hg.sub rfl) _ _ ?_
    with_reducible assumption
  ·
    refine issueIn_keeps (hg.sub rfl) _ _ _ _ ?_
    with_reducible assumption

theorem copyPump_keeps (hg : Free 138418944 g) : ∀ a0 a1 a2 s, Keeps g s0 s → Keeps g s0 (copyPump a0 a1 a2 s) := by
  intro a0 a1 a2 s
  induction a2 generalizing a0 a1 s
  ·
    intro h1
    unfold copyPump
    with_reducible assumption
  ·
    rename_i y2 y3
    intro h4
    unfold copyPump
    split
    ·
      rename_i y5 y6
      with_reducible assumption
    ·
      rename_i y7 y8 y9
      extract_lets +onlyGivenNames v10 v11 v12
      clear_value v10
      clear_value v11
      clear_value v12
      refine @keeps_ite _ (Keeps g s0) _ _ _ _ ?_ ?_
      ·
        with_reducible assumption
      ·
        refine y3 _ _ _ ?_
        refine copyIssue_keeps (hg.sub rfl) _ _ _ _ ?_
        with_reducible assumption

theorem cutFirings_keeps (hg : Free 13040163584 g) : ∀ a0 a1 s, Keeps g s0 s → Keeps g s0 (cutFirings a0 a1 s) := by
  intro a0 a1 s h
  unfold cutFirings
  extract_lets +onlyGivenNames v1 v2 v3
  clear_value v1
  clear_value v2
  extract_lets +onlyGivenNames v4
  refine Keeps.cut (g := g) (s0 := s0) v4 ?_ (fun h5 => ?_)
  ·
    unfold v4
    refine keeps_rill (s := s) 4194304 (hg.sub rfl) ?_ (.inl rfl) (.inr rfl)
    with_reducible assumption
  clear_value v4
  refine keeps_foldl (P := Keeps g s0) (fun b6 x7 h8 => ?_) _ _ ?_
  ·
    refine fireEnd_keeps (hg.sub rfl) _ _ ?_
    with_reducible assumption
  ·
    with_reducible assumption

theorem reachWrite_keeps (hg : Free 13308599040 g) : ∀ a0 a1 a2 s, Keeps g s0 s → Keeps2 g s0 (reachWrite a0 a1 a2 s) := by
  intro a0 a1 a2 s h
  unfold reachWrite
  extract_lets +onlyGivenNames v1
  clear_value v1
  refine @keeps_ite _ (Keeps2 g s0) _ _ _ _ ?_ ?_
  ·
    refine Keeps2.mk ?_
    with_reducible assumption
  ·
    refine @keeps_ite _ (Keeps2 g s0) _ _ _ _ ?_ ?_
    ·
      refine Keeps2.mk ?_
      refine logIgnored_keeps (hg.sub rfl) _ _ _ _ ?_
      with_reducible assumption
    ·
      refine Keeps2.mk ?_
      refine reachUpdate_keeps (hg.sub rfl) _ _ _ _ ?_
      with_reducible assumption

theorem execReachSet_keeps (hg : Free 13308599040 g) : ∀ a0 a1 s, Keeps g s0 s → KeepsN g s0 (execReachSet a0 a1 s) := by
  intro a0 a1 s h
  unfold execReachSet
  refine KeepsN.next ?_
  refine Keeps2.snd ?_
  refine reachWrite_keeps (hg.sub rfl) _ _ _ _ ?_
  with_reducible assumption

theorem execReachFrame_keeps (hg : Free 13308730112 g) : ∀ a0 a1 s, Keeps g s0 s → KeepsN g s0 (execReachFrame a0 a1 s) := by
  intro a0 a1 s h
  unfold execReachFrame
  refine KeepsN.next ?_
  refine reachFrame_keeps (hg.sub rfl) _ _ _ ?_
  with_reducible assumption

theorem copyOn_keeps (hg : Free 423631616 g) : ∀ a0 a1 a2 a3 s, Keeps g s0 s → Keeps g s0 (copyOn a0 a1 a2 a3 s) := by
  intro a0 a1 a2 a3 s h
  unfold copyOn
  split
  ·
    rename_i y1 y2 y3
    extract_lets +onlyGivenNames v4
    clear_value v4
    refine @keeps_ite _ (Keeps g s0) _ _ _ _ ?_ ?_
    ·
      extract_lets +onlyGivenNames v5 v6
      clear_value v5
      clear_value v6
      refine pushPage_keeps (hg.sub rfl) _ _ _ ?_
      with_reducible assumption
    ·
      refine @keeps_ite _ (Keeps g s0) _ _ _ _ ?_ ?_
      ·
        refine hostWrite_keeps (hg.sub rfl) _ _ _ _ _ _ ?_
        with_reducible assumption
      ·
        extract_lets +onlyGivenNames v7
        refine Keeps.cut (g := g) (s0 := s0) v7 ?_ (fun h8 => ?_)
        ·
          unfold v7
          refine updJob_keeps (hg.sub rfl) _ _ _ _ ?_
          with_reducible assumption
        clear_value v7
        refine issueIn_keeps (hg.sub rfl) _ _ _ _ ?_
        with_reducible assumption

theorem copyWrite_keeps (hg : Free 423631616 g) : ∀ a0 a1 a2 s, Keeps g s0 s → Keeps g s0 (copyWrite a0 a1 a2 s) := by
  intro a0 a1 a2 s
  induction a2 generalizing a0 a1 s
  ·
    intro h1
    unfold copyWrite
    with_reducible assumption
  ·
    rename_i y2 y3
    intro h4
    unfold copyWrite
    split
    ·
      rename_i y5 y6
      with_reducible assumption
    ·
      rename_i y7 y8 y9
      refine @keeps_ite _ (Keeps g s0) _ _ _ _ ?_ ?_
      ·
        with_reducible assumption
      ·
        split
        ·
          rename_i y10 y11
          with_reducible assumption
        ·
          rename_i y12 y13 y14 y15
          extract_lets +onlyGivenNames v16
          refine Keeps.cut (g := g) (s0 := s0) v16 ?_ (fun h17 => ?_)
          ·
            unfold v16
            refine updJob_keeps (hg.sub rfl) _ _ _ _ ?_
            with_reducible assumption
          clear_value v16
          refine y3 _ _ _ ?_
          refine copyOn_keeps (hg.sub rfl) _ _ _ _ _ ?_
          with_reducible assumption

theorem issueCounter_keeps (hg : Free 138418944 g) : ∀ a0 a1 a2 a3 s, Keeps g s0 s → Keeps g s0 (issueCounter a0 a1 a2 a3 s) := by
  intro a0 a1 a2 a3 s h
  unfold issueCounter
  extract_lets +onlyGivenNames v1
  refine Keeps.cut (g := g) (s0 := s0) v1 ?_ (fun h2 => ?_)
  ·
    unfold v1
    refine updJob_keeps (hg.sub rfl) _ _ _ _ ?_
    with_reducible assumption
  clear_value v1
  refine issueIn_keeps (hg.sub rfl) _ _ _ _ ?_
  with_reducible assumption

theorem copyChunk_keeps (hg : Free 12345006880 g) : ∀ a0 a1 a2 s, Keeps g s0 s → Keeps g s0 (copyChunk a0 a1 a2 s) := by
  intro a0 a1 a2 s h
  unfold copyChunk
  split
  ·
    rename_i y1 y2
    with_reducible assumption
  ·
    rename_i y3 y4 y5
    refine @keeps_ite _ (Keeps g s0) _ _ _ _ ?_ ?_
    ·
      with_reducible assumption
    ·
      extract_lets +onlyGivenNames v6
      refine Keeps.cut (g := g) (s0 := s0) v6 ?_ (fun h7 => ?_)
      ·
        unfold v6
        refine copyPump_keeps (hg.sub rfl) _ _ _ _ ?_
        refine copyWrite_keeps (hg.sub rfl) _ _ _ _ ?_
        with_reducible assumption
      clear_value v6
      split
      ·
        rename_i y8 y9
        with_reducible assumption
      ·
        rename_i y10 y11 y12
        extract_lets +onlyGivenNames v13 v14
        clear_value v13
        clear_value v14
        extract_lets +onlyGivenNames v15
        clear_value v15
        extract_lets +onlyGivenNames v16
        refine Keeps.cut (g := g) (s0 := s0) v16 ?_ (fun h17 => ?_)
        ·
          unfold v16
          refine updJob_keeps (hg.sub rfl) _ _ _ _ ?_
          with_reducible assumption
        clear_value v16
        extract_lets +onlyGivenNames v18
        refine Keeps.cut (g := g) (s0 := s0) v18 ?_ (fun h19 => ?_)
        ·
          unfold v18
          refine @keeps_ite _ (Keeps g s0) _ _ _ _ ?_ ?_
          ·
            refine @keeps_ite _ (Keeps g s0) _ _ _ _ ?_ ?_
            ·
              with_reducible assumption
            ·
              refine issueCounter_keeps (hg.sub rfl) _ _ _ _ _ ?_
              with_reducible assumption
          ·
            with_reducible assumption
        clear_value v18
        refine copyEnd_keeps (hg.sub rfl) _ _ _ ?_
        with_reducible assumption

theorem execAdvance_keeps (hg : Free 13308599040 g) : ∀ a0 a1 s, Keeps g s0 s → KeepsN g s0 (execAdvance a0 a1 s) := by
  intro a0 a1 s h
  unfold execAdvance
  refine KeepsN.next ?_
  refine Keeps2.snd ?_
  refine reachWrite_keeps (hg.sub rfl) _ _ _ _ ?_
  with_reducible assumption

theorem firingPlain_keeps (hg : Free 13040163584 g) : ∀ a0 s, Keeps g s0 s → Keeps g s0 (firingPlain a0 s) := by
  intro a0 s h
  unfold firingPlain
  extract_lets +onlyGivenNames v1 v2
  clear_value v1
  extract_lets +onlyGivenNames v3
  refine Keeps.cut (g := g) (s0 := s0) v3 ?_ (fun h4 => ?_)
  ·
    unfold v3
    refine keeps_rill (s := s) 4194304 (hg.sub rfl) ?_ (.inl rfl) (.inr rfl)
    with_reducible assumption
  clear_value v3
  refine keeps_foldl (P := Keeps g s0) (fun b5 x6 h7 => ?_) _ _ ?_
  ·
    refine fireEnd_keeps (hg.sub rfl) _ _ ?_
    with_reducible assumption
  ·
    with_reducible assumption

theorem copyStart_keeps (hg : Free 12328229664 g) : ∀ a0 s, Keeps g s0 s → Keeps g s0 (copyStart a0 s) := by
  intro a0 s h
  unfold copyStart
  extract_lets +onlyGivenNames v1 v2 v3 v4 v5
  clear_value v1
  clear_value v2
  clear_value v3
  clear_value v4
  clear_value v5
  refine @keeps_ite _ (Keeps g s0) _ _ _ _ ?_ ?_
  ·
    refine finishJob_keeps (hg.sub rfl) _ _ _ _ _ ?_
    with_reducible assumption
  ·
    refine @keeps_ite _ (Keeps g s0) _ _ _ _ ?_ ?_
    ·
      refine finishJob_keeps (hg.sub rfl) _ _ _ _ _ ?_
      with_reducible assumption
    ·
      refine @keeps_ite _ (Keeps g s0) _ _ _ _ ?_ ?_
      ·
        refine finishJob_keeps (hg.sub rfl) _ _ _ _ _ ?_
        with_reducible assumption
      ·
        refine @keeps_ite _ (Keeps g s0) _ _ _ _ ?_ ?_
        ·
          refine finishJob_keeps (hg.sub rfl) _ _ _ _ _ ?_
          with_reducible assumption
        ·
          refine @keeps_ite _ (Keeps g s0) _ _ _ _ ?_ ?_
          ·
            refine finishJob_keeps (hg.sub rfl) _ _ _ _ _ ?_
            with_reducible assumption
          ·
            refine @keeps_ite _ (Keeps g s0) _ _ _ _ ?_ ?_
            ·
              refine finishJob_keeps (hg.sub rfl) _ _ _ _ _ ?_
              with_reducible assumption
            ·
              refine @keeps_ite _ (Keeps g s0) _ _ _ _ ?_ ?_
              ·
                with_reducible assumption
              ·
                extract_lets +onlyGivenNames v6
                refine Keeps.cut (g := g) (s0 := s0) v6 ?_ (fun h7 => ?_)
                ·
                  unfold v6
                  refine updJob_keeps (hg.sub rfl) _ _ _ _ ?_
                  with_reducible assumption
                clear_value v6
                refine @keeps_ite _ (Keeps g s0) _ _ _ _ ?_ ?_
                ·
                  with_reducible assumption
                ·
                  extract_lets +onlyGivenNames v8
                  clear_value v8
                  refine issueCounter_keeps (hg.sub rfl) _ _ _ _ _ ?_
                  with_reducible assumption

theorem execCopy_keeps (hg : Free 12345006880 g) : ∀ a0 a1 s, Keeps g s0 s → KeepsN g s0 (execCopy a0 a1 s) := by
  intro a0 a1 s h
  unfold execCopy
  refine KeepsN.next ?_
  extract_lets +onlyGivenNames v1
  refine Keeps.cut (g := g) (s0 := s0) v1 ?_ (fun h2 => ?_)
  ·
    unfold v1
    refine settle_keeps (hg.sub rfl) _ _ ?_
    refine absorb_keeps (hg.sub rfl) _ ?_
    with_reducible assumption
  clear_value v1
  split
  ·
    rename_i y3 y4
    with_reducible assumption
  ·
    rename_i y5 y6 y7
    refine @keeps_ite _ (Keeps g s0) _ _ _ _ ?_ ?_
    ·
      with_reducible assumption
    ·
      extract_lets +onlyGivenNames v8
      refine Keeps.cut (g := g) (s0 := s0) v8 ?_ (fun h9 => ?_)
      ·
        unfold v8
        refine @keeps_ite _ (Keeps g s0) _ _ _ _ ?_ ?_
        ·
          with_reducible assumption
        ·
          refine copyStart_keeps (hg.sub rfl) _ _ ?_
          with_reducible assumption
      clear_value v8
      refine copyEnd_keeps (hg.sub rfl) _ _ _ ?_
      refine copyPump_keeps (hg.sub rfl) _ _ _ _ ?_
      refine copyWrite_keeps (hg.sub rfl) _ _ _ _ ?_
      with_reducible assumption

end Sys2Proof.Safety
end

