-- ==== Sys2Proof/Laws/KeepsMill.lean ====
section
/-!
SUPPORT. Which parts of the state each operation keeps: built-in operations, mill tables and steps.
-/
namespace Sys2Proof.Safety

open Sys2Proof Sys2Proof.Machine

set_option Elab.async false

variable {g : Part} {s0 : State}

theorem builtinPump_keeps (hg : Free 146807552 g) : ∀ a0 a1 a2 s, Keeps g s0 s → Keeps g s0 (builtinPump a0 a1 a2 s) := by
  intro a0 a1 a2 s
  induction a2 generalizing a0 a1 s
  ·
    intro h1
    unfold builtinPump
    with_reducible assumption
  ·
    rename_i y2 y3
    intro h4
    unfold builtinPump
    split
    ·
      rename_i y5 y6
      with_reducible assumption
    ·
      rename_i y7 y8 y9
      extract_lets +onlyGivenNames v10 v11
      clear_value v10
      clear_value v11
      refine @keeps_ite _ (Keeps g s0) _ _ _ _ ?_ ?_
      ·
        with_reducible assumption
      ·
        split
        ·
          rename_i y12 y13
          with_reducible assumption
        ·
          rename_i y14 y15 y16
          extract_lets +onlyGivenNames v17 v18
          refine Keeps.cut (g := g) (s0 := s0) v17 ?_ (fun h19 => ?_)
          ·
            unfold v17
            split
            ·
              rename_i y20 y21
              refine servedRill_keeps (hg.sub rfl) _ _ _ ?_
              refine updMill_keeps (hg.sub rfl) _ _ _ ?_
              refine takeMill_keeps (hg.sub rfl) _ _ _ _ _ _ ?_
              with_reducible assumption
            ·
              rename_i y22
              with_reducible assumption
          clear_value v17
          refine Keeps.cut (g := g) (s0 := s0) v18 ?_ (fun h23 => ?_)
          ·
            unfold v18
            refine updJob_keeps (hg.sub rfl) _ _ _ _ ?_
            with_reducible assumption
          clear_value v18
          refine y3 _ _ _ ?_
          refine keeps_foldl (P := Keeps g s0) (fun b24 x25 h26 => ?_) _ _ ?_
          ·
            refine issueIn_keeps (hg.sub rfl) _ _ _ _ ?_
            with_reducible assumption
          ·
            with_reducible assumption

theorem endBuildSlot_keeps (hg : Free 12219177760 g) : ∀ a0 a1 a2 a3 a4 a5 s, Keeps g s0 s → KeepsE g s0 (endBuildSlot a0 a1 a2 a3 a4 a5 s) := by
  intro a0 a1 a2 a3 a4 a5 s h
  unfold endBuildSlot
  split
  ·
    rename_i y1 y2 y3
    exact KeepsE.error
  ·
    rename_i y4 y5
    refine @keeps_ite _ (KeepsE g s0) _ _ _ _ ?_ ?_
    ·
      refine KeepsE.ok ?_
      refine goLive_keeps (hg.sub rfl) _ _ _ _ _ _ _ ?_
      with_reducible assumption
    ·
      exact KeepsE.error

theorem buildFinish_keeps (hg : Free 12328229664 g) : ∀ a0 s, Keeps g s0 s → Keeps g s0 (buildFinish a0 s) := by
  intro a0 s h
  unfold buildFinish
  extract_lets +onlyGivenNames v1 v2
  clear_value v1
  clear_value v2
  split
  ·
    rename_i y3 y4 y5 y6 y7 y8 y9 y10
    split
    ·
      rename_i y11 y12 y13
      refine finishJob_keeps (hg.sub rfl) _ _ _ _ _ ?_
      with_reducible assumption
    ·
      rename_i y14 y15 y16
      refine Keeps.cut (g := g) (s0 := s0) y15 (KeepsE.of_eq ?_ y16) (fun h17 => ?_)
      ·
        refine endBuildSlot_keeps (hg.sub rfl) _ _ _ _ _ _ _ ?_
        with_reducible assumption
      extract_lets +onlyGivenNames v18 v19
      refine Keeps.cut (g := g) (s0 := s0) v18 ?_ (fun h20 => ?_)
      ·
        unfold v18
        refine @keeps_ite _ (Keeps g s0) _ _ _ _ ?_ ?_
        ·
          refine retireSlot_keeps (hg.sub rfl) _ _ ?_
          with_reducible assumption
        ·
          with_reducible assumption
      clear_value v18
      refine Keeps.cut (g := g) (s0 := s0) v19 ?_ (fun h21 => ?_)
      ·
        unfold v19
        refine @keeps_ite _ (Keeps g s0) _ _ _ _ ?_ ?_
        ·
          with_reducible assumption
        ·
          refine cbAnswer_keeps (hg.sub rfl) _ _ _ _ _ ?_
          with_reducible assumption
      clear_value v19
      refine finishJob_keeps (hg.sub rfl) _ _ _ _ _ ?_
      with_reducible assumption
  ·
    rename_i y22 y23 y24
    refine finishJob_keeps (hg.sub rfl) _ _ _ _ _ ?_
    with_reducible assumption

theorem builtinEnd_keeps (hg : Free 12328229664 g) : ∀ a0 a1 s, Keeps g s0 s → Keeps g s0 (builtinEnd a0 a1 s) := by
  intro a0 a1 s h
  unfold builtinEnd
  split
  ·
    rename_i y1 y2
    with_reducible assumption
  ·
    rename_i y3 y4 y5
    extract_lets +onlyGivenNames v6 v7
    clear_value v7
    refine @keeps_ite _ (Keeps g s0) _ _ _ _ ?_ ?_
    ·
      with_reducible assumption
    ·
      refine @keeps_ite _ (Keeps g s0) _ _ _ _ ?_ ?_
      ·
        refine @keeps_ite _ (Keeps g s0) _ _ _ _ ?_ ?_
        ·
          refine endJob_keeps (hg.sub rfl) _ _ ?_
          with_reducible assumption
        ·
          with_reducible assumption
      ·
        refine @keeps_ite _ (Keeps g s0) _ _ _ _ ?_ ?_
        ·
          refine @keeps_ite _ (Keeps g s0) _ _ _ _ ?_ ?_
          ·
            refine buildFinish_keeps (hg.sub rfl) _ _ ?_
            with_reducible assumption
          ·
            with_reducible assumption
        ·
          refine @keeps_ite _ (Keeps g s0) _ _ _ _ ?_ ?_
          ·
            refine endJob_keeps (hg.sub rfl) _ _ ?_
            with_reducible assumption
          ·
            with_reducible assumption

theorem residentAll_keeps (hg : Free 16777216 g) : ∀ a0 a1 a2 s, Keeps g s0 s → KeepsO g s0 (residentAll a0 a1 a2 s) := by
  intro a0 a1 a2 s
  induction a2 generalizing a0 a1 s
  ·
    intro h1
    unfold residentAll
    refine KeepsO.some ?_
    with_reducible assumption
  ·
    rename_i y2 y3 y4
    intro h5
    unfold residentAll
    split
    ·
      rename_i y6 y7 y8
      refine Keeps.cut (g := g) (s0 := s0) y7 (KeepsO.of_eq ?_ y8) (fun h9 => ?_)
      ·
        refine makeResident_keeps (hg.sub rfl) _ _ _ _ ?_
        with_reducible assumption
      refine y4 _ _ _ ?_
      with_reducible assumption
    ·
      rename_i y10 y11
      exact KeepsO.none

theorem builtinStart_keeps (hg : Free 12345006880 g) : ∀ a0 s, Keeps g s0 s → Keeps g s0 (builtinStart a0 s) := by
  intro a0 s h
  unfold builtinStart
  refine @keeps_ite _ (Keeps g s0) _ _ _ _ ?_ ?_
  ·
    refine finishJob_keeps (hg.sub rfl) _ _ _ _ _ ?_
    with_reducible assumption
  ·
    split
    ·
      rename_i y1 y2 y3
      refine finishJob_keeps (hg.sub rfl) _ _ _ _ _ ?_
      with_reducible assumption
    ·
      rename_i y4 y5
      extract_lets +onlyGivenNames v6
      clear_value v6
      refine @keeps_ite _ (Keeps g s0) _ _ _ _ ?_ ?_
      ·
        with_reducible assumption
      ·
        split
        ·
          rename_i y7 y8
          with_reducible assumption
        ·
          rename_i y9 y10 y11
          refine Keeps.cut (g := g) (s0 := s0) y10 (KeepsO.of_eq ?_ y11) (fun h12 => ?_)
          ·
            refine residentAll_keeps (hg.sub rfl) _ _ _ _ ?_
            with_reducible assumption
          extract_lets +onlyGivenNames v13
          refine Keeps.cut (g := g) (s0 := s0) v13 ?_ (fun h14 => ?_)
          ·
            unfold v13
            refine updJob_keeps (hg.sub rfl) _ _ _ _ ?_
            with_reducible assumption
          clear_value v13
          refine @keeps_ite _ (Keeps g s0) _ _ _ _ ?_ ?_
          ·
            with_reducible assumption
          ·
            refine issueCounter_keeps (hg.sub rfl) _ _ _ _ _ ?_
            with_reducible assumption

theorem builtinStep_keeps (hg : Free 12345006880 g) : ∀ a0 a1 a2 s, Keeps g s0 s → Keeps g s0 (builtinStep a0 a1 a2 s) := by
  intro a0 a1 a2 s h
  unfold builtinStep
  extract_lets +onlyGivenNames v1
  refine Keeps.cut (g := g) (s0 := s0) v1 ?_ (fun h2 => ?_)
  ·
    unfold v1
    refine settle_keeps (hg.sub rfl) _ _ ?_
    refine absorb_keeps (hg.sub rfl) _ ?_
    with_reducible assumption
  clear_value v1
  split
  ·
    rename_i y3 y4
    with_reducible assumption
  ·
    rename_i y5 y6 y7
    refine @keeps_ite _ (Keeps g s0) _ _ _ _ ?_ ?_
    ·
      with_reducible assumption
    ·
      extract_lets +onlyGivenNames v8
      refine Keeps.cut (g := g) (s0 := s0) v8 ?_ (fun h9 => ?_)
      ·
        unfold v8
        refine @keeps_ite _ (Keeps g s0) _ _ _ _ ?_ ?_
        ·
          with_reducible assumption
        ·
          refine builtinStart_keeps (hg.sub rfl) _ _ ?_
          with_reducible assumption
      clear_value v8
      refine builtinEnd_keeps (hg.sub rfl) _ _ _ ?_
      refine builtinPump_keeps (hg.sub rfl) _ _ _ _ ?_
      with_reducible assumption

theorem execConvert_keeps (hg : Free 12345006880 g) : ∀ a0 a1 s, Keeps g s0 s → KeepsN g s0 (execConvert a0 a1 s) := by
  intro a0 a1 s h
  unfold execConvert
  refine KeepsN.next ?_
  refine builtinStep_keeps (hg.sub rfl) _ _ _ _ ?_
  with_reducible assumption

theorem pieceCount_keeps (hg : Free 146807552 g) : ∀ a0 a1 a2 s, Keeps g s0 s → Keeps g s0 (pieceCount a0 a1 a2 s) := by
  intro a0 a1 a2 s h
  unfold pieceCount
  split
  ·
    rename_i y1 y2
    with_reducible assumption
  ·
    rename_i y3 y4 y5
    split
    ·
      rename_i y6 y7
      with_reducible assumption
    ·
      rename_i y8 y9 y10
      refine @keeps_ite _ (Keeps g s0) _ _ _ _ ?_ ?_
      ·
        with_reducible assumption
      ·
        refine @keeps_ite _ (Keeps g s0) _ _ _ _ ?_ ?_
        ·
          with_reducible assumption
        ·
          extract_lets +onlyGivenNames v11 v12
          clear_value v11
          refine Keeps.cut (g := g) (s0 := s0) v12 ?_ (fun h13 => ?_)
          ·
            unfold v12
            refine updJob_keeps (hg.sub rfl) _ _ _ _ ?_
            refine freePiece_keeps (hg.sub rfl) _ _ _ _ ?_
            with_reducible assumption
          clear_value v12
          refine @keeps_ite _ (Keeps g s0) _ _ _ _ ?_ ?_
          ·
            with_reducible assumption
          ·
            refine issueCounter_keeps (hg.sub rfl) _ _ _ _ _ ?_
            with_reducible assumption

theorem holdNamed_keeps (hg : Free 8594128896 g) : ∀ a0 s, Keeps g s0 s → Keeps g s0 (holdNamed a0 s) := by
  intro a0 s h
  unfold holdNamed
  refine @keeps_ite _ (Keeps g s0) _ _ _ _ ?_ ?_
  ·
    refine addRef_keeps (hg.sub rfl) _ _ ?_
    refine updJob_keeps (hg.sub rfl) _ _ _ _ ?_
    with_reducible assumption
  ·
    with_reducible assumption

theorem execCodebookBuild_keeps (hg : Free 12345006880 g) : ∀ a0 a1 s, Keeps g s0 s → KeepsN g s0 (execCodebookBuild a0 a1 s) := by
  intro a0 a1 s h
  unfold execCodebookBuild
  refine KeepsN.next ?_
  refine builtinStep_keeps (hg.sub rfl) _ _ _ _ ?_
  with_reducible assumption

theorem execMillReduce_keeps (hg : Free 12345006880 g) : ∀ a0 a1 s, Keeps g s0 s → KeepsN g s0 (execMillReduce a0 a1 s) := by
  intro a0 a1 s h
  unfold execMillReduce
  refine KeepsN.next ?_
  refine builtinStep_keeps (hg.sub rfl) _ _ _ _ ?_
  with_reducible assumption

theorem execShoalEncode_keeps (hg : Free 12345006880 g) : ∀ a0 a1 s, Keeps g s0 s → KeepsN g s0 (execShoalEncode a0 a1 s) := by
  intro a0 a1 s h
  unfold execShoalEncode
  refine KeepsN.next ?_
  refine builtinStep_keeps (hg.sub rfl) _ _ _ _ ?_
  with_reducible assumption

theorem issueWrites_keeps (hg : Free 138418944 g) : ∀ a0 a1 a2 s, Keeps g s0 s → Keeps g s0 (issueWrites a0 a1 a2 s) := by
  intro a0 a1 a2 s h
  unfold issueWrites
  extract_lets +onlyGivenNames v1 v2 v3 v4 v5
  clear_value v1
  clear_value v2
  clear_value v3
  clear_value v4
  clear_value v5
  refine @keeps_ite _ (Keeps g s0) _ _ _ _ ?_ ?_
  ·
    with_reducible assumption
  ·
    extract_lets +onlyGivenNames v6
    refine Keeps.cut (g := g) (s0 := s0) v6 ?_ (fun h7 => ?_)
    ·
      unfold v6
      refine updJob_keeps (hg.sub rfl) _ _ _ _ ?_
      with_reducible assumption
    clear_value v6
    refine keeps_foldl (P := Keeps g s0) (fun b8 x9 h10 => ?_) _ _ ?_
    ·
      refine issueIn_keeps (hg.sub rfl) _ _ _ _ ?_
      with_reducible assumption
    ·
      with_reducible assumption

theorem pieceWrite_keeps (hg : Free 138418944 g) : ∀ a0 a1 a2 s, Keeps g s0 s → Keeps g s0 (pieceWrite a0 a1 a2 s) := by
  intro a0 a1 a2 s h
  unfold pieceWrite
  split
  ·
    rename_i y1 y2
    with_reducible assumption
  ·
    rename_i y3 y4 y5
    split
    ·
      rename_i y6 y7
      with_reducible assumption
    ·
      rename_i y8 y9 y10
      refine @keeps_ite _ (Keeps g s0) _ _ _ _ ?_ ?_
      ·
        with_reducible assumption
      ·
        refine issueWrites_keeps (hg.sub rfl) _ _ _ _ ?_
        with_reducible assumption

theorem builtinPiece_keeps (hg : Free 12328229664 g) : ∀ a0 a1 a2 s, Keeps g s0 s → Keeps g s0 (builtinPiece a0 a1 a2 s) := by
  intro a0 a1 a2 s h
  unfold builtinPiece
  split
  ·
    rename_i y1 y2
    with_reducible assumption
  ·
    rename_i y3 y4 y5
    refine @keeps_ite _ (Keeps g s0) _ _ _ _ ?_ ?_
    ·
      with_reducible assumption
    ·
      extract_lets +onlyGivenNames v6
      refine Keeps.cut (g := g) (s0 := s0) v6 ?_ (fun h7 => ?_)
      ·
        unfold v6
        refine pieceWrite_keeps (hg.sub rfl) _ _ _ _ ?_
        refine pieceCount_keeps (hg.sub rfl) _ _ _ _ ?_
        with_reducible assumption
      clear_value v6
      refine builtinEnd_keeps (hg.sub rfl) _ _ _ ?_
      refine builtinPump_keeps (hg.sub rfl) _ _ _ _ ?_
      with_reducible assumption

theorem startBuild_keeps (hg : Free 12219177760 g) : ∀ a0 a1 a2 a3 a4 s, Keeps g s0 s → Keeps g s0 (startBuild a0 a1 a2 a3 a4 s) := by
  intro a0 a1 a2 a3 a4 s h
  unfold startBuild
  extract_lets +onlyGivenNames v1
  refine Keeps.cut (g := g) (s0 := s0) v1 ?_ (fun h2 => ?_)
  ·
    unfold v1
    refine setSlot_keeps (hg.sub rfl) _ _ _ ?_
    with_reducible assumption
  clear_value v1
  refine updJob_keeps (hg.sub rfl) _ _ _ _ ?_
  with_reducible assumption

theorem beginTable_keeps (hg : Free 12328229664 g) : ∀ a0 a1 a2 s, Keeps g s0 s → Keeps g s0 (beginTable a0 a1 a2 s) := by
  intro a0 a1 a2 s h
  unfold beginTable
  extract_lets +onlyGivenNames v1
  clear_value v1
  split
  ·
    rename_i y2 y3 y4
    refine finishJob_keeps (hg.sub rfl) _ _ _ _ _ ?_
    with_reducible assumption
  ·
    rename_i y5 y6
    refine updMill_keeps (hg.sub rfl) _ _ _ ?_
    refine updJob_keeps (hg.sub rfl) _ _ _ _ ?_
    with_reducible assumption

theorem runTable_keeps (hg : Free 12328229664 g) : ∀ a0 a1 s, Keeps g s0 s → Keeps g s0 (runTable a0 a1 s) := by
  intro a0 a1 s h
  unfold runTable
  extract_lets +onlyGivenNames v1
  refine Keeps.cut (g := g) (s0 := s0) v1 ?_ (fun h2 => ?_)
  ·
    unfold v1
    refine settle_keeps (hg.sub rfl) _ _ ?_
    refine absorb_keeps (hg.sub rfl) _ ?_
    with_reducible assumption
  clear_value v1
  split
  ·
    rename_i y3 y4 y5 y6 y7 y8
    extract_lets +onlyGivenNames v9 v10
    clear_value v9
    clear_value v10
    refine @keeps_ite _ (Keeps g s0) _ _ _ _ ?_ ?_
    ·
      with_reducible assumption
    ·
      refine @keeps_ite _ (Keeps g s0) _ _ _ _ ?_ ?_
      ·
        split
        ·
          rename_i y11 y12 y13 y14 y15 y16
          refine finishJob_keeps (hg.sub rfl) _ _ _ _ _ ?_
          with_reducible assumption
        ·
          rename_i y17 y18 y19 y20 y21
          refine @keeps_ite _ (Keeps g s0) _ _ _ _ ?_ ?_
          ·
            refine beginTable_keeps (hg.sub rfl) _ _ _ _ ?_
            with_reducible assumption
          ·
            with_reducible assumption
        ·
          rename_i y22 y23 y24 y25
          with_reducible assumption
      ·
        split
        ·
          rename_i y26 y27
          refine finishJob_keeps (hg.sub rfl) _ _ _ _ _ ?_
          with_reducible assumption
        ·
          rename_i y28 y29 y30
          refine @keeps_ite _ (Keeps g s0) _ _ _ _ ?_ ?_
          ·
            refine finishJob_keeps (hg.sub rfl) _ _ _ _ _ ?_
            with_reducible assumption
          ·
            refine @keeps_ite _ (Keeps g s0) _ _ _ _ ?_ ?_
            ·
              split
              ·
                rename_i y31 y32 y33 y34
                refine finishJob_keeps (hg.sub rfl) _ _ _ _ _ ?_
                with_reducible assumption
              ·
                rename_i y35 y36 y37
                refine beginTable_keeps (hg.sub rfl) _ _ _ _ ?_
                refine updJob_keeps (hg.sub rfl) _ _ _ _ ?_
                refine countVirtual_keeps (hg.sub rfl) _ _ _ _ _ ?_
                with_reducible assumption
            ·
              extract_lets +onlyGivenNames v38
              refine Keeps.cut (g := g) (s0 := s0) v38 ?_ (fun h39 => ?_)
              ·
                unfold v38
                refine updJob_keeps (hg.sub rfl) _ _ _ _ ?_
                with_reducible assumption
              clear_value v38
              refine issueIn_keeps (hg.sub rfl) _ _ _ _ ?_
              with_reducible assumption
  ·
    rename_i y40 y41 y42
    with_reducible assumption

theorem execRunTable_keeps (hg : Free 12328229664 g) : ∀ a0 a1 s, Keeps g s0 s → KeepsN g s0 (execRunTable a0 a1 s) := by
  intro a0 a1 s h
  unfold execRunTable
  refine KeepsN.next ?_
  refine runTable_keeps (hg.sub rfl) _ _ _ ?_
  with_reducible assumption

theorem tryBranch_keeps (hg : Free 8388608 g) : ∀ a0 s, Keeps g s0 s → Keeps g s0 (tryBranch a0 s) := by
  intro a0 s h
  unfold tryBranch
  extract_lets +onlyGivenNames v1
  clear_value v1
  split
  ·
    rename_i y2 y3
    with_reducible assumption
  ·
    rename_i y4 y5 y6
    extract_lets +onlyGivenNames v7 v8
    clear_value v7
    clear_value v8
    refine @keeps_ite _ (Keeps g s0) _ _ _ _ ?_ ?_
    ·
      with_reducible assumption
    ·
      refine updMill_keeps (hg.sub rfl) _ _ _ ?_
      with_reducible assumption

theorem advance_keeps (hg : Free 8388608 g) : ∀ a0 a1 s, Keeps g s0 s → Keeps g s0 (advance a0 a1 s) := by
  intro a0 a1 s h
  unfold advance
  refine @keeps_ite _ (Keeps g s0) _ _ _ _ ?_ ?_
  ·
    refine updMill_keeps (hg.sub rfl) _ _ _ ?_
    with_reducible assumption
  ·
    refine @keeps_ite _ (Keeps g s0) _ _ _ _ ?_ ?_
    ·
      refine updMill_keeps (hg.sub rfl) _ _ _ ?_
      with_reducible assumption
    ·
      refine tryBranch_keeps (hg.sub rfl) _ _ ?_
      refine updMill_keeps (hg.sub rfl) _ _ _ ?_
      with_reducible assumption

theorem endWait_keeps (hg : Free 8388608 g) : ∀ a0 a1 s, Keeps g s0 s → Keeps g s0 (endWait a0 a1 s) := by
  intro a0 a1 s h
  unfold endWait
  extract_lets +onlyGivenNames v1
  clear_value v1
  refine advance_keeps (hg.sub rfl) _ _ _ ?_
  refine updMill_keeps (hg.sub rfl) _ _ _ ?_
  with_reducible assumption

theorem memIssue_keeps (hg : Free 146807552 g) : ∀ a0 a1 a2 a3 a4 a5 a6 a7 a8 a9 s, Keeps g s0 s → Keeps g s0 (memIssue a0 a1 a2 a3 a4 a5 a6 a7 a8 a9 s) := by
  intro a0 a1 a2 a3 a4 a5 a6 a7 a8 a9 s h
  unfold memIssue
  extract_lets +onlyGivenNames v1 v2
  clear_value v1
  clear_value v2
  split
  ·
    rename_i y3 y4 y5 y6
    extract_lets +onlyGivenNames v7 v8 v9 v10
    clear_value v7
    clear_value v8
    clear_value v9
    refine Keeps.cut (g := g) (s0 := s0) v10 ?_ (fun h11 => ?_)
    ·
      unfold v10
      refine updMill_keeps (hg.sub rfl) _ _ _ ?_
      with_reducible assumption
    clear_value v10
    refine issueIn_keeps (hg.sub rfl) _ _ _ _ ?_
    with_reducible assumption

theorem poll_keeps (hg : Free 146807552 g) : ∀ a0 a1 a2 a3 s, Keeps g s0 s → Keeps g s0 (poll a0 a1 a2 a3 s) := by
  intro a0 a1 a2 a3 s h
  unfold poll
  extract_lets +onlyGivenNames v1 v2
  clear_value v1
  refine Keeps.cut (g := g) (s0 := s0) v2 ?_ (fun h3 => ?_)
  ·
    unfold v2
    refine memIssue_keeps (hg.sub rfl) _ _ _ _ _ _ _ _ _ _ _ ?_
    with_reducible assumption
  clear_value v2
  refine updMill_keeps (hg.sub rfl) _ _ _ ?_
  with_reducible assumption

theorem execWaitPoll_keeps (hg : Free 146807552 g) : ∀ a0 a1 s, Keeps g s0 s → KeepsN g s0 (execWaitPoll a0 a1 s) := by
  intro a0 a1 s h
  unfold execWaitPoll
  refine KeepsN.next ?_
  extract_lets +onlyGivenNames v1
  clear_value v1
  split
  ·
    rename_i y2 y3 y4 y5 y6 y7 y8
    split
    ·
      rename_i y9 y10
      with_reducible assumption
    ·
      rename_i y11 y12 y13
      refine @keeps_ite _ (Keeps g s0) _ _ _ _ ?_ ?_
      ·
        with_reducible assumption
      ·
        refine @keeps_ite _ (Keeps g s0) _ _ _ _ ?_ ?_
        ·
          refine endWait_keeps (hg.sub rfl) _ _ _ ?_
          with_reducible assumption
        ·
          refine @keeps_ite _ (Keeps g s0) _ _ _ _ ?_ ?_
          ·
            with_reducible assumption
          ·
            refine poll_keeps (hg.sub rfl) _ _ _ _ _ ?_
            with_reducible assumption
  ·
    rename_i y14 y15 y16
    with_reducible assumption

theorem countLanded_keeps (hg : Free 4194304 g) : ∀ a0 a1 s, Keeps g s0 s → Keeps g s0 (countLanded a0 a1 s) := by
  intro a0 a1 s h
  unfold countLanded
  split
  ·
    rename_i y1 y2 y3
    refine @keeps_ite _ (Keeps g s0) _ _ _ _ ?_ ?_
    ·
      refine updJob_keeps (hg.sub rfl) _ _ _ _ ?_
      with_reducible assumption
    ·
      with_reducible assumption
  ·
    rename_i y4 y5
    with_reducible assumption

theorem landPoll_keeps (hg : Free 8388608 g) : ∀ a0 a1 a2 s, Keeps g s0 s → Keeps g s0 (landPoll a0 a1 a2 s) := by
  intro a0 a1 a2 s h
  unfold landPoll
  split
  ·
    rename_i y1 y2
    with_reducible assumption
  ·
    rename_i y3 y4 y5
    refine @keeps_ite _ (Keeps g s0) _ _ _ _ ?_ ?_
    ·
      with_reducible assumption
    ·
      refine @keeps_ite _ (Keeps g s0) _ _ _ _ ?_ ?_
      ·
        refine endWait_keeps (hg.sub rfl) _ _ _ ?_
        with_reducible assumption
      ·
        refine @keeps_ite _ (Keeps g s0) _ _ _ _ ?_ ?_
        ·
          refine endWait_keeps (hg.sub rfl) _ _ _ ?_
          with_reducible assumption
        ·
          refine updMill_keeps (hg.sub rfl) _ _ _ ?_
          with_reducible assumption

theorem landStep_keeps (hg : Free 12582912 g) : ∀ a0 a1 s, Keeps g s0 s → Keeps g s0 (landStep a0 a1 s) := by
  intro a0 a1 s h
  unfold landStep
  extract_lets +onlyGivenNames v1
  clear_value v1
  split
  ·
    rename_i y2 y3
    with_reducible assumption
  ·
    rename_i y4 y5 y6
    extract_lets +onlyGivenNames v7 v8
    refine Keeps.cut (g := g) (s0 := s0) v7 ?_ (fun h9 => ?_)
    ·
      unfold v7
      refine updMill_keeps (hg.sub rfl) _ _ _ ?_
      with_reducible assumption
    clear_value v7
    clear_value v8
    refine @keeps_ite _ (Keeps g s0) _ _ _ _ ?_ ?_
    ·
      refine updMill_keeps (hg.sub rfl) _ _ _ ?_
      with_reducible assumption
    ·
      extract_lets +onlyGivenNames v10
      refine Keeps.cut (g := g) (s0 := s0) v10 ?_ (fun h11 => ?_)
      ·
        unfold v10
        refine @keeps_ite _ (Keeps g s0) _ _ _ _ ?_ ?_
        ·
          refine updMill_keeps (hg.sub rfl) _ _ _ ?_
          with_reducible assumption
        ·
          with_reducible assumption
      clear_value v10
      refine @keeps_ite _ (Keeps g s0) _ _ _ _ ?_ ?_
      ·
        refine landPoll_keeps (hg.sub rfl) _ _ _ _ ?_
        with_reducible assumption
      ·
        refine @keeps_ite _ (Keeps g s0) _ _ _ _ ?_ ?_
        ·
          refine countLanded_keeps (hg.sub rfl) _ _ _ ?_
          refine updMill_keeps (hg.sub rfl) _ _ _ ?_
          with_reducible assumption
        ·
          extract_lets +onlyGivenNames v12
          clear_value v12
          refine @keeps_ite _ (Keeps g s0) _ _ _ _ ?_ ?_
          ·
            refine updMill_keeps (hg.sub rfl) _ _ _ ?_
            with_reducible assumption
          ·
            extract_lets +onlyGivenNames v13 v14
            clear_value v13
            clear_value v14
            refine updMill_keeps (hg.sub rfl) _ _ _ ?_
            with_reducible assumption

theorem tryFinish_keeps (hg : Free 12328229664 g) : ∀ a0 s, Keeps g s0 s → Keeps g s0 (tryFinish a0 s) := by
  intro a0 s h
  unfold tryFinish
  extract_lets +onlyGivenNames v1
  clear_value v1
  split
  ·
    rename_i y2 y3
    with_reducible assumption
  ·
    rename_i y4 y5 y6 y7
    split
    ·
      rename_i y8 y9
      with_reducible assumption
    ·
      rename_i y10 y11 y12
      refine @keeps_ite _ (Keeps g s0) _ _ _ _ ?_ ?_
      ·
        with_reducible assumption
      ·
        refine @keeps_ite _ (Keeps g s0) _ _ _ _ ?_ ?_
        ·
          refine endJob_keeps (hg.sub rfl) _ _ ?_
          with_reducible assumption
        ·
          split
          ·
            rename_i y13 y14 y15 y16 y17
            refine finishJob_keeps (hg.sub rfl) _ _ _ _ _ ?_
            with_reducible assumption
          ·
            rename_i y18 y19
            with_reducible assumption

theorem endMill_keeps (hg : Free 12328229664 g) : ∀ a0 a1 a2 s, Keeps g s0 s → Keeps g s0 (endMill a0 a1 a2 s) := by
  intro a0 a1 a2 s h
  unfold endMill
  refine tryFinish_keeps (hg.sub rfl) _ _ ?_
  refine updMill_keeps (hg.sub rfl) _ _ _ ?_
  with_reducible assumption

theorem runStep_keeps (hg : Free 12328229664 g) : ∀ a0 a1 a2 s, (∀ x0 x1 x2 t, Keeps g s0 t → KeepsR g s0 (a2 x0 x1 x2 t)) → Keeps g s0 s → Keeps g s0 (runStep a0 a1 a2 s) := by
  intro a0 a1 a2 s hk0 h
  unfold runStep
  extract_lets +onlyGivenNames v1
  clear_value v1
  split
  ·
    rename_i y2 y3
    with_reducible assumption
  ·
    rename_i y4 y5 y6 y7
    split
    ·
      rename_i y8 y9
      with_reducible assumption
    ·
      rename_i y10 y11 y12
      extract_lets +onlyGivenNames v13 v14
      clear_value v13
      clear_value v14
      refine @keeps_ite _ (Keeps g s0) _ _ _ _ ?_ ?_
      ·
        with_reducible assumption
      ·
        refine @keeps_ite _ (Keeps g s0) _ _ _ _ ?_ ?_
        ·
          with_reducible assumption
        ·
          refine @keeps_ite _ (Keeps g s0) _ _ _ _ ?_ ?_
          ·
            with_reducible assumption
          ·
            split
            ·
              rename_i y15 y16
              with_reducible assumption
            ·
              rename_i y17 y18
              refine endMill_keeps (hg.sub rfl) _ _ _ _ ?_
              with_reducible assumption
            ·
              rename_i y19 y20 y21
              refine Keeps.cut (g := g) (s0 := s0) y20 (KeepsR.of_done ?_ y21) (fun h22 => ?_)
              ·
                refine hk0 _ _ _ _ ?_
                with_reducible assumption
              refine advance_keeps (hg.sub rfl) _ _ _ ?_
              with_reducible assumption
            ·
              rename_i y23 y24 y25 y26
              refine Keeps.cut (g := g) (s0 := s0) y25 (KeepsR.of_goto ?_ y26) (fun h27 => ?_)
              ·
                refine hk0 _ _ _ _ ?_
                with_reducible assumption
              refine updMill_keeps (hg.sub rfl) _ _ _ ?_
              with_reducible assumption
            ·
              rename_i y28 y29 y30
              refine Keeps.cut (g := g) (s0 := s0) y29 (KeepsR.of_stay ?_ y30) (fun h31 => ?_)
              ·
                refine hk0 _ _ _ _ ?_
                with_reducible assumption
              with_reducible assumption

theorem localStep_keeps (hg : Free 8388608 g) : ∀ a0 a1 a2 a3 a4 s, Keeps g s0 s → KeepsR g s0 (localStep a0 a1 a2 a3 a4 s) := by
  intro a0 a1 a2 a3 a4 s h
  unfold localStep
  split
  ·
    rename_i y1 y2
    exact KeepsR.fault
  ·
    rename_i y3 y4
    exact KeepsR.stall
  ·
    rename_i y5 y6
    refine KeepsR.done ?_
    refine updMill_keeps (hg.sub rfl) _ _ _ ?_
    with_reducible assumption

theorem execVfn_keeps (hg : Free 12328229664 g) : ∀ a0 s, Keeps g s0 s → KeepsN g s0 (execVfn a0 s) := by
  intro a0 s h
  unfold execVfn
  refine KeepsN.next ?_
  refine runStep_keeps (hg.sub rfl) _ _ _ _ (fun x1 x2 x3 x4 h5 => ?_) ?_
  ·
    extract_lets +onlyGivenNames v6 v7 v8
    clear_value v6
    clear_value v7
    clear_value v8
    refine @keeps_ite _ (KeepsR g s0) _ _ _ _ ?_ ?_
    ·
      exact KeepsR.fault
    ·
      refine localStep_keeps (hg.sub rfl) _ _ _ _ _ _ ?_
      with_reducible assumption
  ·
    with_reducible assumption

theorem sendStep_keeps (hg : Free 146807552 g) : ∀ a0 a1 a2 a3 a4 a5 a6 s, Keeps g s0 s → KeepsR g s0 (sendStep a0 a1 a2 a3 a4 a5 a6 s) := by
  intro a0 a1 a2 a3 a4 a5 a6 s h
  unfold sendStep
  extract_lets +onlyGivenNames v1
  clear_value v1
  split
  ·
    rename_i y2 y3
    exact KeepsR.fault
  ·
    rename_i y4 y5
    exact KeepsR.stall
  ·
    rename_i y6 y7
    refine @keeps_ite _ (KeepsR g s0) _ _ _ _ ?_ ?_
    ·
      exact KeepsR.stall
    ·
      refine KeepsR.done ?_
      refine memIssue_keeps (hg.sub rfl) _ _ _ _ _ _ _ _ _ _ _ ?_
      with_reducible assumption

theorem execVdot_keeps (hg : Free 12328229664 g) : ∀ a0 s, Keeps g s0 s → KeepsN g s0 (execVdot a0 s) := by
  intro a0 s h
  unfold execVdot
  refine KeepsN.next ?_
  refine runStep_keeps (hg.sub rfl) _ _ _ _ (fun x1 x2 x3 x4 h5 => ?_) ?_
  ·
    extract_lets +onlyGivenNames v6 v7 v8 v9 v10 v11
    clear_value v6
    clear_value v7
    clear_value v8
    clear_value v9
    clear_value v10
    clear_value v11
    refine @keeps_ite _ (KeepsR g s0) _ _ _ _ ?_ ?_
    ·
      exact KeepsR.fault
    ·
      refine localStep_keeps (hg.sub rfl) _ _ _ _ _ _ ?_
      with_reducible assumption
  ·
    with_reducible assumption

theorem execSld_keeps (hg : Free 12328229664 g) : ∀ a0 s, Keeps g s0 s → KeepsN g s0 (execSld a0 s) := by
  intro a0 s h
  unfold execSld
  refine KeepsN.next ?_
  refine runStep_keeps (hg.sub rfl) _ _ _ _ (fun x1 x2 x3 x4 h5 => ?_) ?_
  ·
    extract_lets +onlyGivenNames v6
    clear_value v6
    refine @keeps_ite _ (KeepsR g s0) _ _ _ _ ?_ ?_
    ·
      exact KeepsR.fault
    ·
      refine @keeps_ite _ (KeepsR g s0) _ _ _ _ ?_ ?_
      ·
        refine localStep_keeps (hg.sub rfl) _ _ _ _ _ _ ?_
        with_reducible assumption
      ·
        refine localStep_keeps (hg.sub rfl) _ _ _ _ _ _ ?_
        with_reducible assumption
  ·
    with_reducible assumption

theorem execSalu_keeps (hg : Free 12328229664 g) : ∀ a0 s, Keeps g s0 s → KeepsN g s0 (execSalu a0 s) := by
  intro a0 s h
  unfold execSalu
  refine KeepsN.next ?_
  refine runStep_keeps (hg.sub rfl) _ _ _ _ (fun x1 x2 x3 x4 h5 => ?_) ?_
  ·
    extract_lets +onlyGivenNames v6 v7 v8
    clear_value v6
    clear_value v7
    clear_value v8
    split
    ·
      rename_i y9 y10 y11 y12
      refine Keeps.cut (g := g) (s0 := s0) y11 (Keeps2.of_eq ?_ y12) (fun h13 => ?_)
      ·
        refine @keeps_ite _ (Keeps2 g s0) _ _ _ _ ?_ ?_
        ·
          refine takeWord_keeps (hg.sub rfl) _ ?_
          with_reducible assumption
        ·
          refine Keeps2.mk ?_
          with_reducible assumption
      extract_lets +onlyGivenNames v14 v15 v16 v17
      clear_value v14
      clear_value v15
      clear_value v16
      clear_value v17
      refine KeepsR.done ?_
      refine updMill_keeps (hg.sub rfl) _ _ _ ?_
      with_reducible assumption
  ·
    with_reducible assumption

theorem execMcast_keeps (hg : Free 12328229664 g) : ∀ a0 s, Keeps g s0 s → KeepsN g s0 (execMcast a0 s) := by
  intro a0 s h
  unfold execMcast
  refine KeepsN.next ?_
  refine runStep_keeps (hg.sub rfl) _ _ _ _ (fun x1 x2 x3 x4 h5 => ?_) ?_
  ·
    refine sendStep_keeps (hg.sub rfl) _ _ _ _ _ _ _ _ ?_
    with_reducible assumption
  ·
    with_reducible assumption

theorem execLoopStep_keeps (hg : Free 12328229664 g) : ∀ a0 s, Keeps g s0 s → KeepsN g s0 (execLoopStep a0 s) := by
  intro a0 s h
  unfold execLoopStep
  refine KeepsN.next ?_
  refine runStep_keeps (hg.sub rfl) _ _ _ _ (fun x1 x2 x3 x4 h5 => ?_) ?_
  ·
    split
    ·
      rename_i y6 y7 y8 y9
      refine @keeps_ite _ (KeepsR g s0) _ _ _ _ ?_ ?_
      ·
        refine KeepsR.goto ?_
        refine updMill_keeps (hg.sub rfl) _ _ _ ?_
        with_reducible assumption
      ·
        refine KeepsR.goto ?_
        refine updMill_keeps (hg.sub rfl) _ _ _ ?_
        with_reducible assumption
  ·
    with_reducible assumption

theorem cancelLoad_keeps (hg : Free 8390656 g) : ∀ a0 a1 s, Keeps g s0 s → Keeps g s0 (cancelLoad a0 a1 s) := by
  intro a0 a1 s h
  unfold cancelLoad
  extract_lets +onlyGivenNames v1
  clear_value v1
  refine updMill_keeps (hg.sub rfl) _ _ _ ?_
  refine keeps_weir (s := s) 2048 (hg.sub rfl) ?_ (.inr rfl) (.inl rfl)
  with_reducible assumption

theorem execMillProvisionalResolve_keeps (hg : Free 12328229664 g) : ∀ a0 s, Keeps g s0 s → KeepsN g s0 (execMillProvisionalResolve a0 s) := by
  intro a0 s h
  unfold execMillProvisionalResolve
  refine KeepsN.next ?_
  split
  ·
    rename_i y1 y2
    with_reducible assumption
  ·
    rename_i y3 y4 y5
    extract_lets +onlyGivenNames v6
    extract_lets +onlyGivenNames v7
    refine Keeps.cut (g := g) (s0 := s0) v7 ?_ (fun h8 => ?_)
    ·
      unfold v7
      refine keeps_net (s := s) 512 (hg.sub rfl) ?_ (.inl rfl) (.inr rfl)
      with_reducible assumption
    clear_value v7
    split
    ·
      rename_i y9 y10 y11 y12 y13 y14
      refine @keeps_ite _ (Keeps g s0) _ _ _ _ ?_ ?_
      ·
        refine tryFinish_keeps (hg.sub rfl) _ _ ?_
        refine complete_keeps (hg.sub rfl) _ _ _ _ ?_
        refine cancelLoad_keeps (hg.sub rfl) _ _ _ ?_
        with_reducible assumption
      ·
        refine @keeps_ite _ (Keeps g s0) _ _ _ _ ?_ ?_
        ·
          extract_lets +onlyGivenNames v15
          refine Keeps.cut (g := g) (s0 := s0) v15 ?_ (fun h16 => ?_)
          ·
            unfold v15
            refine cancelLoad_keeps (hg.sub rfl) _ _ _ ?_
            with_reducible assumption
          clear_value v15
          refine tryFinish_keeps (hg.sub rfl) _ _ ?_
          refine cohPerform_keeps (hg.sub rfl) _ _ _ _ ?_
          with_reducible assumption
        ·
          refine tryFinish_keeps (hg.sub rfl) _ _ ?_
          refine tryBranch_keeps (hg.sub rfl) _ _ ?_
          refine updMill_keeps (hg.sub rfl) _ _ _ ?_
          with_reducible assumption
    ·
      rename_i y17 y18 y19
      with_reducible assumption

theorem execSt_keeps (hg : Free 12328229664 g) : ∀ a0 s, Keeps g s0 s → KeepsN g s0 (execSt a0 s) := by
  intro a0 s h
  unfold execSt
  refine KeepsN.next ?_
  refine runStep_keeps (hg.sub rfl) _ _ _ _ (fun x1 x2 x3 x4 h5 => ?_) ?_
  ·
    refine sendStep_keeps (hg.sub rfl) _ _ _ _ _ _ _ _ ?_
    with_reducible assumption
  ·
    with_reducible assumption

theorem execSetf_keeps (hg : Free 12328229664 g) : ∀ a0 s, Keeps g s0 s → KeepsN g s0 (execSetf a0 s) := by
  intro a0 s h
  unfold execSetf
  refine KeepsN.next ?_
  refine runStep_keeps (hg.sub rfl) _ _ _ _ (fun x1 x2 x3 x4 h5 => ?_) ?_
  ·
    extract_lets +onlyGivenNames v6 v7 v8
    clear_value v6
    clear_value v7
    clear_value v8
    split
    ·
      rename_i y9 y10 y11 y12
      refine Keeps.cut (g := g) (s0 := s0) y11 (Keeps2.of_eq ?_ y12) (fun h13 => ?_)
      ·
        refine @keeps_ite _ (Keeps2 g s0) _ _ _ _ ?_ ?_
        ·
          refine takeWord_keeps (hg.sub rfl) _ ?_
          with_reducible assumption
        ·
          refine Keeps2.mk ?_
          with_reducible assumption
      extract_lets +onlyGivenNames v14
      clear_value v14
      refine KeepsR.done ?_
      refine updMill_keeps (hg.sub rfl) _ _ _ ?_
      with_reducible assumption
  ·
    with_reducible assumption

theorem execCqpop_keeps (hg : Free 12328229664 g) : ∀ a0 s, Keeps g s0 s → KeepsN g s0 (execCqpop a0 s) := by
  intro a0 s h
  unfold execCqpop
  refine KeepsN.next ?_
  refine runStep_keeps (hg.sub rfl) _ _ _ _ (fun x1 x2 x3 x4 h5 => ?_) ?_
  ·
    refine KeepsR.done ?_
    refine updMill_keeps (hg.sub rfl) _ _ _ ?_
    with_reducible assumption
  ·
    with_reducible assumption

theorem execValu_keeps (hg : Free 12328229664 g) : ∀ a0 s, Keeps g s0 s → KeepsN g s0 (execValu a0 s) := by
  intro a0 s h
  unfold execValu
  refine KeepsN.next ?_
  refine runStep_keeps (hg.sub rfl) _ _ _ _ (fun x1 x2 x3 x4 h5 => ?_) ?_
  ·
    extract_lets +onlyGivenNames v6 v7 v8 v9 v10 v11 v12 v13 v14
    clear_value v6
    clear_value v7
    clear_value v9
    clear_value v10
    clear_value v11
    clear_value v12
    clear_value v13
    clear_value v14
    refine @keeps_ite _ (KeepsR g s0) _ _ _ _ ?_ ?_
    ·
      exact KeepsR.fault
    ·
      refine localStep_keeps (hg.sub rfl) _ _ _ _ _ _ ?_
      with_reducible assumption
  ·
    with_reducible assumption

theorem execCqins_keeps (hg : Free 12328229664 g) : ∀ a0 s, Keeps g s0 s → KeepsN g s0 (execCqins a0 s) := by
  intro a0 s h
  unfold execCqins
  refine KeepsN.next ?_
  refine runStep_keeps (hg.sub rfl) _ _ _ _ (fun x1 x2 x3 x4 h5 => ?_) ?_
  ·
    extract_lets +onlyGivenNames v6 v7
    clear_value v6
    clear_value v7
    refine localStep_keeps (hg.sub rfl) _ _ _ _ _ _ ?_
    with_reducible assumption
  ·
    with_reducible assumption

theorem execLubuild_keeps (hg : Free 12328229664 g) : ∀ a0 s, Keeps g s0 s → KeepsN g s0 (execLubuild a0 s) := by
  intro a0 s h
  unfold execLubuild
  refine KeepsN.next ?_
  refine runStep_keeps (hg.sub rfl) _ _ _ _ (fun x1 x2 x3 x4 h5 => ?_) ?_
  ·
    extract_lets +onlyGivenNames v6 v7 v8 v9 v10 v11
    clear_value v6
    clear_value v7
    clear_value v8
    clear_value v9
    clear_value v10
    clear_value v11
    refine localStep_keeps (hg.sub rfl) _ _ _ _ _ _ ?_
    with_reducible assumption
  ·
    with_reducible assumption

theorem execVcvt_keeps (hg : Free 12328229664 g) : ∀ a0 s, Keeps g s0 s → KeepsN g s0 (execVcvt a0 s) := by
  intro a0 s h
  unfold execVcvt
  refine KeepsN.next ?_
  refine runStep_keeps (hg.sub rfl) _ _ _ _ (fun x1 x2 x3 x4 h5 => ?_) ?_
  ·
    extract_lets +onlyGivenNames v6 v7
    clear_value v6
    clear_value v7
    refine @keeps_ite _ (KeepsR g s0) _ _ _ _ ?_ ?_
    ·
      exact KeepsR.fault
    ·
      refine localStep_keeps (hg.sub rfl) _ _ _ _ _ _ ?_
      with_reducible assumption
  ·
    with_reducible assumption

theorem execFence_keeps (hg : Free 12328229664 g) : ∀ a0 s, Keeps g s0 s → KeepsN g s0 (execFence a0 s) := by
  intro a0 s h
  unfold execFence
  refine KeepsN.next ?_
  refine runStep_keeps (hg.sub rfl) _ _ _ _ (fun x1 x2 x3 x4 h5 => ?_) ?_
  ·
    refine @keeps_ite _ (KeepsR g s0) _ _ _ _ ?_ ?_
    ·
      exact KeepsR.stall
    ·
      refine KeepsR.done ?_
      refine updMill_keeps (hg.sub rfl) _ _ _ ?_
      with_reducible assumption
  ·
    with_reducible assumption

theorem execRed_keeps (hg : Free 12328229664 g) : ∀ a0 s, Keeps g s0 s → KeepsN g s0 (execRed a0 s) := by
  intro a0 s h
  unfold execRed
  refine KeepsN.next ?_
  refine runStep_keeps (hg.sub rfl) _ _ _ _ (fun x1 x2 x3 x4 h5 => ?_) ?_
  ·
    refine @keeps_ite _ (KeepsR g s0) _ _ _ _ ?_ ?_
    ·
      exact KeepsR.fault
    ·
      refine sendStep_keeps (hg.sub rfl) _ _ _ _ _ _ _ _ ?_
      with_reducible assumption
  ·
    with_reducible assumption

theorem execCqclr_keeps (hg : Free 12328229664 g) : ∀ a0 s, Keeps g s0 s → KeepsN g s0 (execCqclr a0 s) := by
  intro a0 s h
  unfold execCqclr
  refine KeepsN.next ?_
  refine runStep_keeps (hg.sub rfl) _ _ _ _ (fun x1 x2 x3 x4 h5 => ?_) ?_
  ·
    refine KeepsR.done ?_
    refine updMill_keeps (hg.sub rfl) _ _ _ ?_
    with_reducible assumption
  ·
    with_reducible assumption

theorem execVred_keeps (hg : Free 12328229664 g) : ∀ a0 s, Keeps g s0 s → KeepsN g s0 (execVred a0 s) := by
  intro a0 s h
  unfold execVred
  refine KeepsN.next ?_
  refine runStep_keeps (hg.sub rfl) _ _ _ _ (fun x1 x2 x3 x4 h5 => ?_) ?_
  ·
    extract_lets +onlyGivenNames v6 v7
    clear_value v6
    clear_value v7
    refine @keeps_ite _ (KeepsR g s0) _ _ _ _ ?_ ?_
    ·
      exact KeepsR.fault
    ·
      refine localStep_keeps (hg.sub rfl) _ _ _ _ _ _ ?_
      with_reducible assumption
  ·
    with_reducible assumption

theorem gatherRows_keeps (hg : Free 146807552 g) : ∀ a0 a1 a2 a3 a4 a5 a6 s, Keeps g s0 s → Keeps g s0 (gatherRows a0 a1 a2 a3 a4 a5 a6 s) := by
  intro a0 a1 a2 a3 a4 a5 a6 s
  induction a6 generalizing a0 a1 a2 a3 a4 a5 s
  ·
    intro h1
    unfold gatherRows
    with_reducible assumption
  ·
    rename_i y2 y3 y4
    intro h5
    unfold gatherRows
    extract_lets +onlyGivenNames v6
    clear_value v6
    refine y4 _ _ _ _ _ _ _ ?_
    refine memIssue_keeps (hg.sub rfl) _ _ _ _ _ _ _ _ _ _ _ ?_
    with_reducible assumption

theorem execGather_keeps (hg : Free 12328229664 g) : ∀ a0 s, Keeps g s0 s → KeepsN g s0 (execGather a0 s) := by
  intro a0 s h
  unfold execGather
  refine KeepsN.next ?_
  refine runStep_keeps (hg.sub rfl) _ _ _ _ (fun x1 x2 x3 x4 h5 => ?_) ?_
  ·
    extract_lets +onlyGivenNames v6 v7 v8
    clear_value v6
    clear_value v7
    clear_value v8
    split
    ·
      rename_i y9 y10
      exact KeepsR.fault
    ·
      rename_i y11 y12
      exact KeepsR.stall
    ·
      rename_i y13 y14
      refine @keeps_ite _ (KeepsR g s0) _ _ _ _ ?_ ?_
      ·
        exact KeepsR.stall
      ·
        extract_lets +onlyGivenNames v15
        clear_value v15
        refine KeepsR.done ?_
        refine gatherRows_keeps (hg.sub rfl) _ _ _ _ _ _ _ _ ?_
        with_reducible assumption
  ·
    with_reducible assumption

theorem execStepEnd_keeps (hg : Free 12328229664 g) : ∀ a0 s, Keeps g s0 s → KeepsN g s0 (execStepEnd a0 s) := by
  intro a0 s h
  unfold execStepEnd
  refine KeepsN.next ?_
  refine runStep_keeps (hg.sub rfl) _ _ _ _ (fun x1 x2 x3 x4 h5 => ?_) ?_
  ·
    refine @keeps_ite _ (KeepsR g s0) _ _ _ _ ?_ ?_
    ·
      exact KeepsR.stall
    ·
      refine KeepsR.stay ?_
      refine endMill_keeps (hg.sub rfl) _ _ _ _ ?_
      with_reducible assumption
  ·
    with_reducible assumption

theorem execLd_keeps (hg : Free 12328229664 g) : ∀ a0 s, Keeps g s0 s → KeepsN g s0 (execLd a0 s) := by
  intro a0 s h
  unfold execLd
  refine KeepsN.next ?_
  refine runStep_keeps (hg.sub rfl) _ _ _ _ (fun x1 x2 x3 x4 h5 => ?_) ?_
  ·
    extract_lets +onlyGivenNames v6 v7
    clear_value v6
    clear_value v7
    split
    ·
      rename_i y8 y9
      exact KeepsR.fault
    ·
      rename_i y10 y11
      exact KeepsR.stall
    ·
      rename_i y12 y13
      refine @keeps_ite _ (KeepsR g s0) _ _ _ _ ?_ ?_
      ·
        exact KeepsR.stall
      ·
        refine KeepsR.done ?_
        refine memIssue_keeps (hg.sub rfl) _ _ _ _ _ _ _ _ _ _ _ ?_
        with_reducible assumption
  ·
    with_reducible assumption

theorem execAtom_keeps (hg : Free 12328229664 g) : ∀ a0 s, Keeps g s0 s → KeepsN g s0 (execAtom a0 s) := by
  intro a0 s h
  unfold execAtom
  refine KeepsN.next ?_
  refine runStep_keeps (hg.sub rfl) _ _ _ _ (fun x1 x2 x3 x4 h5 => ?_) ?_
  ·
    extract_lets +onlyGivenNames v6 v7 v8 v9 v10 v11 v12
    clear_value v6
    clear_value v7
    clear_value v8
    clear_value v9
    clear_value v10
    clear_value v11
    clear_value v12
    refine @keeps_ite _ (KeepsR g s0) _ _ _ _ ?_ ?_
    ·
      exact KeepsR.stall
    ·
      refine KeepsR.done ?_
      refine memIssue_keeps (hg.sub rfl) _ _ _ _ _ _ _ _ _ _ _ ?_
      with_reducible assumption
  ·
    with_reducible assumption

theorem execVmov_keeps (hg : Free 12328229664 g) : ∀ a0 s, Keeps g s0 s → KeepsN g s0 (execVmov a0 s) := by
  intro a0 s h
  unfold execVmov
  refine KeepsN.next ?_
  refine runStep_keeps (hg.sub rfl) _ _ _ _ (fun x1 x2 x3 x4 h5 => ?_) ?_
  ·
    extract_lets +onlyGivenNames v6 v7
    clear_value v6
    clear_value v7
    refine @keeps_ite _ (KeepsR g s0) _ _ _ _ ?_ ?_
    ·
      extract_lets +onlyGivenNames v8
      clear_value v8
      refine localStep_keeps (hg.sub rfl) _ _ _ _ _ _ ?_
      with_reducible assumption
    ·
      refine localStep_keeps (hg.sub rfl) _ _ _ _ _ _ ?_
      with_reducible assumption
  ·
    with_reducible assumption

theorem execSetlc_keeps (hg : Free 12328229664 g) : ∀ a0 s, Keeps g s0 s → KeepsN g s0 (execSetlc a0 s) := by
  intro a0 s h
  unfold execSetlc
  refine KeepsN.next ?_
  refine runStep_keeps (hg.sub rfl) _ _ _ _ (fun x1 x2 x3 x4 h5 => ?_) ?_
  ·
    extract_lets +onlyGivenNames v6
    clear_value v6
    refine KeepsR.done ?_
    refine updMill_keeps (hg.sub rfl) _ _ _ ?_
    with_reducible assumption
  ·
    with_reducible assumption

theorem execNop_keeps (hg : Free 12328229664 g) : ∀ a0 s, Keeps g s0 s → KeepsN g s0 (execNop a0 s) := by
  intro a0 s h
  unfold execNop
  refine KeepsN.next ?_
  refine runStep_keeps (hg.sub rfl) _ _ _ _ (fun x1 x2 x3 x4 h5 => ?_) ?_
  ·
    refine KeepsR.done ?_
    with_reducible assumption
  ·
    with_reducible assumption

theorem execWaitStep_keeps (hg : Free 12328229664 g) : ∀ a0 s, Keeps g s0 s → KeepsN g s0 (execWaitStep a0 s) := by
  intro a0 s h
  unfold execWaitStep
  refine KeepsN.next ?_
  refine runStep_keeps (hg.sub rfl) _ _ _ _ (fun x1 x2 x3 x4 h5 => ?_) ?_
  ·
    extract_lets +onlyGivenNames v6
    clear_value v6
    refine @keeps_ite _ (KeepsR g s0) _ _ _ _ ?_ ?_
    ·
      exact KeepsR.stall
    ·
      refine KeepsR.stay ?_
      refine poll_keeps (hg.sub rfl) _ _ _ _ _ ?_
      refine updMill_keeps (hg.sub rfl) _ _ _ ?_
      with_reducible assumption
  ·
    with_reducible assumption

theorem execLubin_keeps (hg : Free 12328229664 g) : ∀ a0 s, Keeps g s0 s → KeepsN g s0 (execLubin a0 s) := by
  intro a0 s h
  unfold execLubin
  refine KeepsN.next ?_
  refine runStep_keeps (hg.sub rfl) _ _ _ _ (fun x1 x2 x3 x4 h5 => ?_) ?_
  ·
    extract_lets +onlyGivenNames v6 v7 v8 v9 v10
    clear_value v6
    clear_value v7
    clear_value v8
    clear_value v9
    clear_value v10
    refine @keeps_ite _ (KeepsR g s0) _ _ _ _ ?_ ?_
    ·
      exact KeepsR.fault
    ·
      refine localStep_keeps (hg.sub rfl) _ _ _ _ _ _ ?_
      with_reducible assumption
  ·
    with_reducible assumption

theorem execMemoryStepLanded_keeps (hg : Free 12328229664 g) : ∀ a0 s, Keeps g s0 s → KeepsN g s0 (execMemoryStepLanded a0 s) := by
  intro a0 s h
  unfold execMemoryStepLanded
  refine KeepsN.next ?_
  extract_lets +onlyGivenNames v1
  extract_lets +onlyGivenNames v2
  refine Keeps.cut (g := g) (s0 := s0) v2 ?_ (fun h3 => ?_)
  ·
    unfold v2
    split
    ·
      rename_i y4 y5
      with_reducible assumption
    ·
      rename_i y6 y7 y8
      refine landStep_keeps (hg.sub rfl) _ _ _ ?_
      refine keeps_weir (s := s) 2048 (hg.sub rfl) ?_ (.inr rfl) (.inl rfl)
      with_reducible assumption
  clear_value v2
  refine tryFinish_keeps (hg.sub rfl) _ _ ?_
  refine tryBranch_keeps (hg.sub rfl) _ _ ?_
  with_reducible assumption

theorem execCqout_keeps (hg : Free 12328229664 g) : ∀ a0 s, Keeps g s0 s → KeepsN g s0 (execCqout a0 s) := by
  intro a0 s h
  unfold execCqout
  refine KeepsN.next ?_
  refine runStep_keeps (hg.sub rfl) _ _ _ _ (fun x1 x2 x3 x4 h5 => ?_) ?_
  ·
    extract_lets +onlyGivenNames v6 v7
    clear_value v6
    clear_value v7
    refine localStep_keeps (hg.sub rfl) _ _ _ _ _ _ ?_
    with_reducible assumption
  ·
    with_reducible assumption

theorem execLuscore_keeps (hg : Free 12328229664 g) : ∀ a0 s, Keeps g s0 s → KeepsN g s0 (execLuscore a0 s) := by
  intro a0 s h
  unfold execLuscore
  refine KeepsN.next ?_
  refine runStep_keeps (hg.sub rfl) _ _ _ _ (fun x1 x2 x3 x4 h5 => ?_) ?_
  ·
    extract_lets +onlyGivenNames v6 v7 v8 v9 v10 v11
    clear_value v6
    clear_value v7
    clear_value v8
    clear_value v9
    clear_value v10
    clear_value v11
    refine @keeps_ite _ (KeepsR g s0) _ _ _ _ ?_ ?_
    ·
      exact KeepsR.fault
    ·
      refine localStep_keeps (hg.sub rfl) _ _ _ _ _ _ ?_
      with_reducible assumption
  ·
    with_reducible assumption

end Sys2Proof.Safety
end

