-- ==== Sys2Proof/Laws/KeepsAttention.lean ====
section
/-!
SUPPORT. Which parts of the state each operation keeps: attention and exchange groups.
-/
namespace Sys2Proof.Safety

open Sys2Proof Sys2Proof.Machine

set_option Elab.async false

variable {g : Part} {s0 : State}

theorem refuseOp_keeps (hg : Free 12328229664 g) : ∀ a0 a1 a2 a3 s, Keeps g s0 s → Keeps g s0 (refuseOp a0 a1 a2 a3 s) := by
  intro a0 a1 a2 a3 s h
  unfold refuseOp
  refine finishJob_keeps (hg.sub rfl) _ _ _ _ _ ?_
  with_reducible assumption

theorem holdBooks_keeps (hg : Free 8594128896 g) : ∀ a0 a1 a2 s, Keeps g s0 s → Keeps g s0 (holdBooks a0 a1 a2 s) := by
  intro a0 a1 a2 s h
  unfold holdBooks
  extract_lets +onlyGivenNames v1
  clear_value v1
  refine keeps_foldl (P := Keeps g s0) (fun b2 x3 h4 => ?_) _ _ ?_
  ·
    refine addRef_keeps (hg.sub rfl) _ _ ?_
    with_reducible assumption
  ·
    refine updJob_keeps (hg.sub rfl) _ _ _ _ ?_
    with_reducible assumption

theorem beginCounter_keeps (hg : Free 138418944 g) : ∀ a0 a1 s, Keeps g s0 s → Keeps g s0 (beginCounter a0 a1 s) := by
  intro a0 a1 s h
  unfold beginCounter
  extract_lets +onlyGivenNames v1
  refine Keeps.cut (g := g) (s0 := s0) v1 ?_ (fun h2 => ?_)
  ·
    unfold v1
    refine updJob_keeps (hg.sub rfl) _ _ _ _ ?_
    with_reducible assumption
  clear_value v1
  refine @keeps_ite _ (Keeps g s0) _ _ _ _ ?_ ?_
  ·
    with_reducible assumption
  ·
    refine issueCounter_keeps (hg.sub rfl) _ _ _ _ _ ?_
    with_reducible assumption

theorem codeBegin_keeps (hg : Free 12328229664 g) : ∀ a0 a1 a2 a3 s, Keeps g s0 s → Keeps g s0 (codeBegin a0 a1 a2 a3 s) := by
  intro a0 a1 a2 a3 s h
  unfold codeBegin
  extract_lets +onlyGivenNames v1 v2
  clear_value v1
  clear_value v2
  refine @keeps_ite _ (Keeps g s0) _ _ _ _ ?_ ?_
  ·
    refine refuseOp_keeps (hg.sub rfl) _ _ _ _ _ ?_
    with_reducible assumption
  ·
    split
    ·
      rename_i y3 y4 y5 y6
      refine finishJob_keeps (hg.sub rfl) _ _ _ _ _ ?_
      with_reducible assumption
    ·
      rename_i y7 y8 y9
      split
      ·
        rename_i y10 y11 y12
        refine refuseOp_keeps (hg.sub rfl) _ _ _ _ _ ?_
        with_reducible assumption
      ·
        rename_i y13 y14
        extract_lets +onlyGivenNames v15
        clear_value v15
        split
        ·
          rename_i y16 y17 y18 y19
          refine refuseOp_keeps (hg.sub rfl) _ _ _ _ _ ?_
          with_reducible assumption
        ·
          rename_i y20 y21
          extract_lets +onlyGivenNames v22 v23
          refine Keeps.cut (g := g) (s0 := s0) v22 ?_ (fun h24 => ?_)
          ·
            unfold v22
            refine holdBooks_keeps (hg.sub rfl) _ _ _ _ ?_
            with_reducible assumption
          clear_value v22
          refine Keeps.cut (g := g) (s0 := s0) v23 ?_ (fun h25 => ?_)
          ·
            unfold v23
            refine keeps_attn (s := v22) (hg.sub rfl) ?_
            with_reducible assumption
          clear_value v23
          refine beginCounter_keeps (hg.sub rfl) _ _ _ ?_
          with_reducible assumption

theorem appendStart_keeps (hg : Free 12328229664 g) : ∀ a0 s, Keeps g s0 s → Keeps g s0 (appendStart a0 s) := by
  intro a0 s h
  unfold appendStart
  extract_lets +onlyGivenNames v1 v2
  clear_value v1
  clear_value v2
  refine @keeps_ite _ (Keeps g s0) _ _ _ _ ?_ ?_
  ·
    refine refuseOp_keeps (hg.sub rfl) _ _ _ _ _ ?_
    with_reducible assumption
  ·
    split
    ·
      rename_i y3 y4 y5
      refine refuseOp_keeps (hg.sub rfl) _ _ _ _ _ ?_
      with_reducible assumption
    ·
      rename_i y6 y7 y8
      refine @keeps_ite _ (Keeps g s0) _ _ _ _ ?_ ?_
      ·
        refine refuseOp_keeps (hg.sub rfl) _ _ _ _ _ ?_
        with_reducible assumption
      ·
        split
        ·
          rename_i y9 y10 y11 y12
          refine refuseOp_keeps (hg.sub rfl) _ _ _ _ _ ?_
          with_reducible assumption
        ·
          rename_i y13 y14 y15
          refine codeBegin_keeps (hg.sub rfl) _ _ _ _ _ ?_
          with_reducible assumption

theorem updAttn_keeps (hg : Free 33554432 g) : ∀ a0 a1 a2 s, Keeps g s0 s → Keeps g s0 (updAttn a0 a1 a2 s) := by
  intro a0 a1 a2 s h
  unfold updAttn
  refine keeps_attn (s := s) (hg.sub rfl) ?_
  with_reducible assumption

theorem updAttSeq_keeps (hg : Free 33554432 g) : ∀ a0 a1 a2 a3 s, Keeps g s0 s → Keeps g s0 (updAttSeq a0 a1 a2 a3 s) := by
  intro a0 a1 a2 a3 s h
  unfold updAttSeq
  refine updAttn_keeps (hg.sub rfl) _ _ _ _ ?_
  with_reducible assumption

theorem stagePump_keeps (hg : Free 138418944 g) : ∀ a0 a1 a2 s, Keeps g s0 s → Keeps g s0 (stagePump a0 a1 a2 s) := by
  intro a0 a1 a2 s
  induction a2 generalizing a0 a1 s
  ·
    intro h1
    unfold stagePump
    with_reducible assumption
  ·
    rename_i y2 y3
    intro h4
    unfold stagePump
    split
    ·
      rename_i y5 y6
      with_reducible assumption
    ·
      rename_i y7 y8 y9
      split
      ·
        rename_i y10 y11
        with_reducible assumption
      ·
        rename_i y12 y13 y14 y15
        refine @keeps_ite _ (Keeps g s0) _ _ _ _ ?_ ?_
        ·
          with_reducible assumption
        ·
          extract_lets +onlyGivenNames v16
          refine Keeps.cut (g := g) (s0 := s0) v16 ?_ (fun h17 => ?_)
          ·
            unfold v16
            refine updJob_keeps (hg.sub rfl) _ _ _ _ ?_
            with_reducible assumption
          clear_value v16
          refine y3 _ _ _ ?_
          refine issueIn_keeps (hg.sub rfl) _ _ _ _ ?_
          with_reducible assumption

theorem withOperands_keeps (hg : Free 12328229664 g) : ∀ a0 a1 a2 a3 s, (∀ x0 t, Keeps g s0 t → Keeps g s0 (a3 x0 t)) → Keeps g s0 s → Keeps g s0 (withOperands a0 a1 a2 a3 s) := by
  intro a0 a1 a2 a3 s hk0 h
  unfold withOperands
  split
  ·
    rename_i y1 y2
    with_reducible assumption
  ·
    rename_i y3 y4 y5
    extract_lets +onlyGivenNames v6 v7 v8 v9
    clear_value v6
    clear_value v7
    refine Keeps.cut (g := g) (s0 := s0) v9 ?_ (fun h10 => ?_)
    ·
      unfold v9
      refine stagePump_keeps (hg.sub rfl) _ _ _ _ ?_
      refine updJob_keeps (hg.sub rfl) _ _ _ _ ?_
      with_reducible assumption
    clear_value v9
    split
    ·
      rename_i y11 y12
      with_reducible assumption
    ·
      rename_i y13 y14 y15
      extract_lets +onlyGivenNames v16
      clear_value v16
      refine @keeps_ite _ (Keeps g s0) _ _ _ _ ?_ ?_
      ·
        with_reducible assumption
      ·
        split
        ·
          rename_i y17 y18 y19 y20 y21
          refine finishJob_keeps (hg.sub rfl) _ _ _ _ _ ?_
          with_reducible assumption
        ·
          rename_i y22 y23
          refine @keeps_ite _ (Keeps g s0) _ _ _ _ ?_ ?_
          ·
            with_reducible assumption
          ·
            refine hk0 _ _ ?_
            unfold v8
            refine updJob_keeps (hg.sub rfl) _ _ _ _ ?_
            refine keeps_foldl (P := Keeps g s0) (fun b24 x25 h26 => ?_) _ _ ?_
            ·
              refine countVirtual_keeps (hg.sub rfl) _ _ _ _ _ ?_
              with_reducible assumption
            ·
              with_reducible assumption

theorem attendStart_keeps (hg : Free 12328229664 g) : ∀ a0 s, Keeps g s0 s → Keeps g s0 (attendStart a0 s) := by
  intro a0 s h
  unfold attendStart
  extract_lets +onlyGivenNames v1 v2
  clear_value v1
  clear_value v2
  refine @keeps_ite _ (Keeps g s0) _ _ _ _ ?_ ?_
  ·
    refine refuseOp_keeps (hg.sub rfl) _ _ _ _ _ ?_
    with_reducible assumption
  ·
    split
    ·
      rename_i y3 y4 y5 y6 y7 y8 y9
      refine refuseOp_keeps (hg.sub rfl) _ _ _ _ _ ?_
      with_reducible assumption
    ·
      rename_i y10 y11 y12 y13 y14 y15 y16 y17
      refine refuseOp_keeps (hg.sub rfl) _ _ _ _ _ ?_
      with_reducible assumption
    ·
      rename_i y18 y19 y20 y21 y22 y23 y24 y25 y26 y27
      refine refuseOp_keeps (hg.sub rfl) _ _ _ _ _ ?_
      with_reducible assumption
    ·
      rename_i y28 y29 y30 y31 y32 y33 y34 y35 y36 y37 y38
      refine refuseOp_keeps (hg.sub rfl) _ _ _ _ _ ?_
      with_reducible assumption
    ·
      rename_i y39 y40 y41 y42 y43 y44 y45 y46 y47
      split
      ·
        rename_i y48 y49 y50 y51
        refine finishJob_keeps (hg.sub rfl) _ _ _ _ _ ?_
        with_reducible assumption
      ·
        rename_i y52 y53 y54
        extract_lets +onlyGivenNames v55 v56
        refine Keeps.cut (g := g) (s0 := s0) v55 ?_ (fun h57 => ?_)
        ·
          unfold v55
          refine keeps_attn (s := s) (hg.sub rfl) ?_
          with_reducible assumption
        clear_value v55
        refine Keeps.cut (g := g) (s0 := s0) v56 ?_ (fun h58 => ?_)
        ·
          unfold v56
          refine holdBooks_keeps (hg.sub rfl) _ _ _ _ ?_
          with_reducible assumption
        clear_value v56
        refine beginCounter_keeps (hg.sub rfl) _ _ _ ?_
        with_reducible assumption

theorem attendBegin_keeps (hg : Free 12328229664 g) : ∀ a0 a1 s, Keeps g s0 s → Keeps g s0 (attendBegin a0 a1 s) := by
  intro a0 a1 s h
  unfold attendBegin
  extract_lets +onlyGivenNames v1
  clear_value v1
  split
  ·
    rename_i y2 y3
    with_reducible assumption
  ·
    rename_i y4 y5 y6
    extract_lets +onlyGivenNames v7 v8
    clear_value v7
    clear_value v8
    refine withOperands_keeps (hg.sub rfl) _ _ _ _ _ (fun x9 x10 h11 => ?_) ?_
    ·
      refine withOperands_keeps (hg.sub rfl) _ _ _ _ _ (fun x12 x13 h14 => ?_) ?_
      ·
        refine withOperands_keeps (hg.sub rfl) _ _ _ _ _ (fun x15 x16 h17 => ?_) ?_
        ·
          refine attendStart_keeps (hg.sub rfl) _ _ ?_
          with_reducible assumption
        ·
          with_reducible assumption
      ·
        with_reducible assumption
    ·
      with_reducible assumption

theorem jobStores_keeps (hg : Free 138418944 g) : ∀ a0 a1 a2 a3 s, Keeps g s0 s → Keeps g s0 (jobStores a0 a1 a2 a3 s) := by
  intro a0 a1 a2 a3 s h
  unfold jobStores
  extract_lets +onlyGivenNames v1 v2
  clear_value v1
  refine Keeps.cut (g := g) (s0 := s0) v2 ?_ (fun h3 => ?_)
  ·
    unfold v2
    refine updJob_keeps (hg.sub rfl) _ _ _ _ ?_
    with_reducible assumption
  clear_value v2
  refine keeps_foldl (P := Keeps g s0) (fun b4 x5 h6 => ?_) _ _ ?_
  ·
    refine issueIn_keeps (hg.sub rfl) _ _ _ _ ?_
    with_reducible assumption
  ·
    with_reducible assumption

theorem partnerSends_keeps (hg : Free 4194816 g) : ∀ a0 a1 a2 a3 a4 s, Keeps g s0 s → Keeps g s0 (partnerSends a0 a1 a2 a3 a4 s) := by
  intro a0 a1 a2 a3 a4 s h
  unfold partnerSends
  split
  ·
    rename_i y1 y2
    with_reducible assumption
  ·
    rename_i y3 y4 y5
    extract_lets +onlyGivenNames v6
    clear_value v6
    split
    ·
      rename_i y7 y8 y9 y10
      refine Keeps.cut (g := g) (s0 := s0) y9 (Keeps2.of_eq ?_ y10) (fun h11 => ?_)
      ·
        refine partnerStores_keeps (hg.sub rfl) _ _ _ _ _ _ _ ?_
        with_reducible assumption
      refine updJob_keeps (hg.sub rfl) _ _ _ _ ?_
      with_reducible assumption

theorem deliverSeq_keeps (hg : Free 171973376 g) : ∀ a0 a1 a2 s, Keeps g s0 s → Keeps g s0 (deliverSeq a0 a1 a2 s) := by
  intro a0 a1 a2 s h
  unfold deliverSeq
  extract_lets +onlyGivenNames v1 v2 v3
  clear_value v1
  clear_value v2
  clear_value v3
  refine @keeps_ite _ (Keeps g s0) _ _ _ _ ?_ ?_
  ·
    with_reducible assumption
  ·
    extract_lets +onlyGivenNames v4 v5
    clear_value v4
    refine Keeps.cut (g := g) (s0 := s0) v5 ?_ (fun h6 => ?_)
    ·
      unfold v5
      refine updAttSeq_keeps (hg.sub rfl) _ _ _ _ _ ?_
      with_reducible assumption
    clear_value v5
    refine @keeps_ite _ (Keeps g s0) _ _ _ _ ?_ ?_
    ·
      refine partnerSends_keeps (hg.sub rfl) _ _ _ _ _ _ ?_
      with_reducible assumption
    ·
      refine jobStores_keeps (hg.sub rfl) _ _ _ _ _ ?_
      with_reducible assumption

theorem noteSeq_keeps (hg : Free 171973376 g) : ∀ a0 a1 s, Keeps g s0 s → Keeps g s0 (noteSeq a0 a1 s) := by
  intro a0 a1 s h
  unfold noteSeq
  extract_lets +onlyGivenNames v1 v2
  clear_value v1
  refine @keeps_ite _ (Keeps g s0) _ _ _ _ ?_ ?_
  ·
    unfold v2
    refine updAttSeq_keeps (hg.sub rfl) _ _ _ _ _ ?_
    with_reducible assumption
  ·
    refine @keeps_ite _ (Keeps g s0) _ _ _ _ ?_ ?_
    ·
      with_reducible assumption
    ·
      refine @keeps_ite _ (Keeps g s0) _ _ _ _ ?_ ?_
      ·
        refine partnerSends_keeps (hg.sub rfl) _ _ _ _ _ _ ?_
        unfold v2
        refine updAttSeq_keeps (hg.sub rfl) _ _ _ _ _ ?_
        with_reducible assumption
      ·
        refine issueCounter_keeps (hg.sub rfl) _ _ _ _ _ ?_
        unfold v2
        refine updAttSeq_keeps (hg.sub rfl) _ _ _ _ _ ?_
        with_reducible assumption

theorem attendPump_keeps (hg : Free 12328229664 g) : ∀ a0 a1 s, Keeps g s0 s → Keeps g s0 (attendPump a0 a1 s) := by
  intro a0 a1 s h
  unfold attendPump
  split
  ·
    rename_i y1 y2 y3 y4 y5 y6
    refine @keeps_ite _ (Keeps g s0) _ _ _ _ ?_ ?_
    ·
      with_reducible assumption
    ·
      refine @keeps_ite _ (Keeps g s0) _ _ _ _ ?_ ?_
      ·
        refine @keeps_ite _ (Keeps g s0) _ _ _ _ ?_ ?_
        ·
          refine endJob_keeps (hg.sub rfl) _ _ ?_
          with_reducible assumption
        ·
          with_reducible assumption
      ·
        refine @keeps_ite _ (Keeps g s0) _ _ _ _ ?_ ?_
        ·
          with_reducible assumption
        ·
          extract_lets +onlyGivenNames v7 v8 v9 v10
          clear_value v7
          refine Keeps.cut (g := g) (s0 := s0) v8 ?_ (fun h11 => ?_)
          ·
            unfold v8
            refine keeps_foldl (P := Keeps g s0) (fun b12 x13 h14 => ?_) _ _ ?_
            ·
              refine @keeps_ite _ (Keeps g s0) _ _ _ _ ?_ ?_
              ·
                refine deliverSeq_keeps (hg.sub rfl) _ _ _ _ ?_
                with_reducible assumption
              ·
                with_reducible assumption
            ·
              with_reducible assumption
          clear_value v8
          clear_value v9
          refine Keeps.cut (g := g) (s0 := s0) v10 ?_ (fun h15 => ?_)
          ·
            unfold v10
            refine keeps_foldl (P := Keeps g s0) (fun b16 x17 h18 => ?_) _ _ ?_
            ·
              refine @keeps_ite _ (Keeps g s0) _ _ _ _ ?_ ?_
              ·
                refine noteSeq_keeps (hg.sub rfl) _ _ _ ?_
                with_reducible assumption
              ·
                with_reducible assumption
            ·
              with_reducible assumption
          clear_value v10
          split
          ·
            rename_i y19 y20 y21 y22 y23 y24
            refine @keeps_ite _ (Keeps g s0) _ _ _ _ ?_ ?_
            ·
              split
              ·
                rename_i y25 y26 y27 y28 y29 y30
                refine finishJob_keeps (hg.sub rfl) _ _ _ _ _ ?_
                with_reducible assumption
              ·
                rename_i y31 y32 y33
                refine endJob_keeps (hg.sub rfl) _ _ ?_
                with_reducible assumption
            ·
              with_reducible assumption
          ·
            rename_i y34 y35 y36
            with_reducible assumption
  ·
    rename_i y37 y38 y39
    with_reducible assumption

theorem attend_keeps (hg : Free 12328229664 g) : ∀ a0 a1 s, Keeps g s0 s → Keeps g s0 (attend a0 a1 s) := by
  intro a0 a1 s h
  unfold attend
  extract_lets +onlyGivenNames v1
  refine Keeps.cut (g := g) (s0 := s0) v1 ?_ (fun h2 => ?_)
  ·
    unfold v1
    refine settle_keeps (hg.sub rfl) _ _ ?_
    refine absorb_keeps (hg.sub rfl) _ ?_
    with_reducible assumption
  clear_value v1
  split
  ·
    rename_i y3 y4
    with_reducible assumption
  ·
    rename_i y5 y6 y7
    refine @keeps_ite _ (Keeps g s0) _ _ _ _ ?_ ?_
    ·
      with_reducible assumption
    ·
      refine @keeps_ite _ (Keeps g s0) _ _ _ _ ?_ ?_
      ·
        refine attendPump_keeps (hg.sub rfl) _ _ _ ?_
        with_reducible assumption
      ·
        refine attendPump_keeps (hg.sub rfl) _ _ _ ?_
        refine attendBegin_keeps (hg.sub rfl) _ _ _ ?_
        with_reducible assumption

theorem execUnitSpanComplete_keeps (hg : Free 12345006880 g) : ∀ a0 a1 a2 a3 a4 s, Keeps g s0 s → KeepsN g s0 (execUnitSpanComplete a0 a1 a2 a3 a4 s) := by
  intro a0 a1 a2 a3 a4 s h
  unfold execUnitSpanComplete
  refine KeepsN.next ?_
  extract_lets +onlyGivenNames v1
  refine Keeps.cut (g := g) (s0 := s0) v1 ?_ (fun h2 => ?_)
  ·
    unfold v1
    refine settle_keeps (hg.sub rfl) _ _ ?_
    refine absorb_keeps (hg.sub rfl) _ ?_
    with_reducible assumption
  clear_value v1
  split
  ·
    rename_i y3 y4 y5 y6 y7 y8
    split
    ·
      rename_i y9 y10
      with_reducible assumption
    ·
      rename_i y11 y12 y13
      extract_lets +onlyGivenNames v14
      clear_value v14
      refine @keeps_ite _ (Keeps g s0) _ _ _ _ ?_ ?_
      ·
        refine attendPump_keeps (hg.sub rfl) _ _ _ ?_
        with_reducible assumption
      ·
        extract_lets +onlyGivenNames v15 v16
        clear_value v15
        clear_value v16
        refine vAtRest_keeps (hg.sub rfl) _ _ _ _ _ (fun x17 h18 => ?_) ?_
        ·
          split
          ·
            rename_i y19 y20
            with_reducible assumption
          ·
            rename_i y21 y22 y23
            refine Keeps.cut (g := g) (s0 := s0) y22 (KeepsO.of_eq ?_ y23) (fun h24 => ?_)
            ·
              refine residentAll_keeps (hg.sub rfl) _ _ _ _ ?_
              with_reducible assumption
            refine withTeam_keeps (hg.sub rfl) _ _ _ _ _ _ _ (fun x25 h26 => ?_) ?_
            ·
              split
              ·
                rename_i y27 y28 y29 y30
                extract_lets +onlyGivenNames v31
                refine Keeps.cut (g := g) (s0 := s0) v31 ?_ (fun h32 => ?_)
                ·
                  unfold v31
                  refine keeps_foldl (P := Keeps g s0) (fun b33 x34 h35 => ?_) _ _ ?_
                  ·
                    refine countVirtual_keeps (hg.sub rfl) _ _ _ _ _ ?_
                    with_reducible assumption
                  ·
                    with_reducible assumption
                clear_value v31
                refine attendPump_keeps (hg.sub rfl) _ _ _ ?_
                refine updAttSeq_keeps (hg.sub rfl) _ _ _ _ _ ?_
                with_reducible assumption
            ·
              with_reducible assumption
        ·
          with_reducible assumption
  ·
    rename_i y36 y37 y38
    with_reducible assumption

theorem buildBooksStart_keeps (hg : Free 12328229664 g) : ∀ a0 s, Keeps g s0 s → Keeps g s0 (buildBooksStart a0 s) := by
  intro a0 s h
  unfold buildBooksStart
  extract_lets +onlyGivenNames v1 v2 v3 v4
  clear_value v1
  clear_value v2
  clear_value v3
  clear_value v4
  refine @keeps_ite _ (Keeps g s0) _ _ _ _ ?_ ?_
  ·
    refine refuseOp_keeps (hg.sub rfl) _ _ _ _ _ ?_
    with_reducible assumption
  ·
    split
    ·
      rename_i y5 y6 y7 y8
      refine refuseOp_keeps (hg.sub rfl) _ _ _ _ _ ?_
      with_reducible assumption
    ·
      rename_i y9 y10
      split
      ·
        rename_i y11 y12 y13 y14
        refine refuseOp_keeps (hg.sub rfl) _ _ _ _ _ ?_
        with_reducible assumption
      ·
        rename_i y15 y16
        extract_lets +onlyGivenNames v17
        clear_value v17
        refine @keeps_ite _ (Keeps g s0) _ _ _ _ ?_ ?_
        ·
          with_reducible assumption
        ·
          extract_lets +onlyGivenNames v18
          refine Keeps.cut (g := g) (s0 := s0) v18 ?_ (fun h19 => ?_)
          ·
            unfold v18
            refine keeps_foldl (P := Keeps g s0) (fun b20 x21 h22 => ?_) _ _ ?_
            ·
              refine startBuild_keeps (hg.sub rfl) _ _ _ _ _ _ ?_
              with_reducible assumption
            ·
              with_reducible assumption
          clear_value v18
          refine beginCounter_keeps (hg.sub rfl) _ _ _ ?_
          with_reducible assumption

theorem putTable_keeps (hg : Free 12328229664 g) : ∀ a0 a1 a2 a3 s, (∀ x0 t, Keeps g s0 t → Keeps g s0 (a3 x0 t)) → Keeps g s0 s → Keeps g s0 (putTable a0 a1 a2 a3 s) := by
  intro a0 a1 a2 a3 s hk0 h
  unfold putTable
  refine @keeps_ite _ (Keeps g s0) _ _ _ _ ?_ ?_
  ·
    refine vAtRest_keeps (hg.sub rfl) _ _ _ _ _ (fun x1 h2 => ?_) ?_
    ·
      split
      ·
        rename_i y3 y4 y5 y6
        refine Keeps.cut (g := g) (s0 := s0) y5 (Keeps2.of_eq ?_ y6) (fun h7 => ?_)
        ·
          refine vwrite_keeps (hg.sub rfl) _ _ _ _ _ ?_
          with_reducible assumption
        split
        ·
          rename_i y8 y9 y10
          refine refuseOp_keeps (hg.sub rfl) _ _ _ _ _ ?_
          with_reducible assumption
        ·
          rename_i y11
          refine hk0 _ _ ?_
          with_reducible assumption
    ·
      with_reducible assumption
  ·
    refine @keeps_ite _ (Keeps g s0) _ _ _ _ ?_ ?_
    ·
      with_reducible assumption
    ·
      refine jobStores_keeps (hg.sub rfl) _ _ _ _ _ ?_
      refine updJob_keeps (hg.sub rfl) _ _ _ _ ?_
      with_reducible assumption

theorem setTableEnd_keeps (hg : Free 12328229664 g) : ∀ a0 a1 s, Keeps g s0 s → Keeps g s0 (setTableEnd a0 a1 s) := by
  intro a0 a1 s h
  unfold setTableEnd
  extract_lets +onlyGivenNames v1
  clear_value v1
  refine finishJob_keeps (hg.sub rfl) _ _ _ _ _ ?_
  refine keeps_foldl (P := Keeps g s0) (fun b2 x3 h4 => ?_) _ _ ?_
  ·
    refine @keeps_ite _ (Keeps g s0) _ _ _ _ ?_ ?_
    ·
      refine retireSlot_keeps (hg.sub rfl) _ _ ?_
      with_reducible assumption
    ·
      with_reducible assumption
  ·
    with_reducible assumption

theorem buildBooksEnd_keeps (hg : Free 12328229664 g) : ∀ a0 a1 s, Keeps g s0 s → Keeps g s0 (buildBooksEnd a0 a1 s) := by
  intro a0 a1 s h
  unfold buildBooksEnd
  split
  ·
    rename_i y1 y2
    with_reducible assumption
  ·
    rename_i y3 y4 y5
    extract_lets +onlyGivenNames v6
    clear_value v6
    refine @keeps_ite _ (Keeps g s0) _ _ _ _ ?_ ?_
    ·
      with_reducible assumption
    ·
      refine @keeps_ite _ (Keeps g s0) _ _ _ _ ?_ ?_
      ·
        refine endJob_keeps (hg.sub rfl) _ _ ?_
        with_reducible assumption
      ·
        refine @keeps_ite _ (Keeps g s0) _ _ _ _ ?_ ?_
        ·
          with_reducible assumption
        ·
          refine @keeps_ite _ (Keeps g s0) _ _ _ _ ?_ ?_
          ·
            refine setTableEnd_keeps (hg.sub rfl) _ _ _ ?_
            with_reducible assumption
          ·
            refine putTable_keeps (hg.sub rfl) _ _ _ _ _ (fun x7 x8 h9 => ?_) ?_
            ·
              refine setTableEnd_keeps (hg.sub rfl) _ _ _ ?_
              with_reducible assumption
            ·
              with_reducible assumption

theorem execBuildBooks_keeps (hg : Free 12328229664 g) : ∀ a0 a1 s, Keeps g s0 s → KeepsN g s0 (execBuildBooks a0 a1 s) := by
  intro a0 a1 s h
  unfold execBuildBooks
  refine KeepsN.next ?_
  extract_lets +onlyGivenNames v1
  refine Keeps.cut (g := g) (s0 := s0) v1 ?_ (fun h2 => ?_)
  ·
    unfold v1
    refine settle_keeps (hg.sub rfl) _ _ ?_
    refine absorb_keeps (hg.sub rfl) _ ?_
    with_reducible assumption
  clear_value v1
  split
  ·
    rename_i y3 y4
    with_reducible assumption
  ·
    rename_i y5 y6 y7
    refine @keeps_ite _ (Keeps g s0) _ _ _ _ ?_ ?_
    ·
      with_reducible assumption
    ·
      refine @keeps_ite _ (Keeps g s0) _ _ _ _ ?_ ?_
      ·
        refine buildBooksEnd_keeps (hg.sub rfl) _ _ _ ?_
        with_reducible assumption
      ·
        extract_lets +onlyGivenNames v8 v9 v10
        clear_value v8
        clear_value v9
        clear_value v10
        refine withOperands_keeps (hg.sub rfl) _ _ _ _ _ (fun x11 x12 h13 => ?_) ?_
        ·
          refine buildBooksStart_keeps (hg.sub rfl) _ _ ?_
          with_reducible assumption
        ·
          with_reducible assumption

theorem codeCount_keeps (hg : Free 138418944 g) : ∀ a0 a1 s a3, Keeps g s0 s → Keeps g s0 (codeCount a0 a1 s a3) := by
  intro a0 a1 s a3 h
  unfold codeCount
  split
  ·
    rename_i y1 y2
    with_reducible assumption
  ·
    rename_i y3 y4 y5
    split
    ·
      rename_i y6 y7
      with_reducible assumption
    ·
      rename_i y8 y9 y10
      refine @keeps_ite _ (Keeps g s0) _ _ _ _ ?_ ?_
      ·
        with_reducible assumption
      ·
        refine @keeps_ite _ (Keeps g s0) _ _ _ _ ?_ ?_
        ·
          with_reducible assumption
        ·
          extract_lets +onlyGivenNames v11 v12
          clear_value v11
          refine Keeps.cut (g := g) (s0 := s0) v12 ?_ (fun h13 => ?_)
          ·
            unfold v12
            refine updJob_keeps (hg.sub rfl) _ _ _ _ ?_
            with_reducible assumption
          clear_value v12
          refine @keeps_ite _ (Keeps g s0) _ _ _ _ ?_ ?_
          ·
            with_reducible assumption
          ·
            refine issueCounter_keeps (hg.sub rfl) _ _ _ _ _ ?_
            with_reducible assumption

theorem codePiece_keeps (hg : Free 163584768 g) : ∀ a0 a1 a2 s, Keeps g s0 s → Keeps g s0 (codePiece a0 a1 a2 s) := by
  intro a0 a1 a2 s h
  unfold codePiece
  split
  ·
    rename_i y1 y2 y3 y4 y5 y6
    extract_lets +onlyGivenNames v7 v8 v9 v10
    clear_value v7
    clear_value v8
    clear_value v9
    clear_value v10
    refine @keeps_ite _ (Keeps g s0) _ _ _ _ ?_ ?_
    ·
      with_reducible assumption
    ·
      extract_lets +onlyGivenNames v11 v12 v13
      clear_value v11
      clear_value v12
      clear_value v13
      split
      ·
        rename_i y14 y15
        with_reducible assumption
      ·
        rename_i y16 y17 y18
        refine Keeps.cut (g := g) (s0 := s0) y17 (KeepsO.of_eq ?_ y18) (fun h19 => ?_)
        ·
          refine residentAll_keeps (hg.sub rfl) _ _ _ _ ?_
          with_reducible assumption
        refine withTeam_keeps (hg.sub rfl) _ _ _ _ _ _ _ (fun x20 h21 => ?_) ?_
        ·
          split
          ·
            rename_i y22 y23 y24 y25
            refine updJob_keeps (hg.sub rfl) _ _ _ _ ?_
            with_reducible assumption
          ·
            rename_i y26 y27 y28
            refine jobStores_keeps (hg.sub rfl) _ _ _ _ _ ?_
            with_reducible assumption
        ·
          with_reducible assumption
  ·
    rename_i y29 y30 y31
    with_reducible assumption

theorem codeFinish_keeps (hg : Free 16623196960 g) : ∀ a0 s, Keeps g s0 s → Keeps g s0 (codeFinish a0 s) := by
  intro a0 s h
  unfold codeFinish
  refine finishJob_keeps (hg.sub rfl) _ _ _ _ _ ?_
  refine @keeps_ite _ (Keeps g s0) _ _ _ _ ?_ ?_
  ·
    refine updRill_keeps (hg.sub rfl) _ _ _ ?_
    with_reducible assumption
  ·
    with_reducible assumption

theorem codeRecord_keeps (hg : Free 16623196960 g) : ∀ a0 a1 s, Keeps g s0 s → Keeps g s0 (codeRecord a0 a1 s) := by
  intro a0 a1 s h
  unfold codeRecord
  extract_lets +onlyGivenNames v1
  clear_value v1
  refine @keeps_ite _ (Keeps g s0) _ _ _ _ ?_ ?_
  ·
    refine putTable_keeps (hg.sub rfl) _ _ _ _ _ (fun x2 x3 h4 => ?_) ?_
    ·
      refine codeFinish_keeps (hg.sub rfl) _ _ ?_
      with_reducible assumption
    ·
      with_reducible assumption
  ·
    split
    ·
      rename_i y5 y6 y7 y8
      refine refuseOp_keeps (hg.sub rfl) _ _ _ _ _ ?_
      with_reducible assumption
    ·
      rename_i y9 y10 y11
      extract_lets +onlyGivenNames v12 v13
      clear_value v12
      clear_value v13
      refine putTable_keeps (hg.sub rfl) _ _ _ _ _ (fun x14 x15 h16 => ?_) ?_
      ·
        refine codeFinish_keeps (hg.sub rfl) _ _ ?_
        with_reducible assumption
      ·
        with_reducible assumption

theorem codeEnd_keeps (hg : Free 16623196960 g) : ∀ a0 a1 s, Keeps g s0 s → Keeps g s0 (codeEnd a0 a1 s) := by
  intro a0 a1 s h
  unfold codeEnd
  split
  ·
    rename_i y1 y2 y3 y4 y5 y6
    extract_lets +onlyGivenNames v7
    refine Keeps.cut (g := g) (s0 := s0) v7 ?_ (fun h8 => ?_)
    ·
      unfold v7
      refine keeps_foldl (P := Keeps g s0) (fun b9 x10 h11 => ?_) _ _ ?_
      ·
        refine @keeps_ite _ (Keeps g s0) _ _ _ _ ?_ ?_
        ·
          refine codeCount_keeps (hg.sub rfl) _ _ _ _ ?_
          with_reducible assumption
        ·
          with_reducible assumption
      ·
        with_reducible assumption
    clear_value v7
    split
    ·
      rename_i y12 y13
      with_reducible assumption
    ·
      rename_i y14 y15 y16
      extract_lets +onlyGivenNames v17 v18
      clear_value v17
      clear_value v18
      refine @keeps_ite _ (Keeps g s0) _ _ _ _ ?_ ?_
      ·
        with_reducible assumption
      ·
        refine @keeps_ite _ (Keeps g s0) _ _ _ _ ?_ ?_
        ·
          refine endJob_keeps (hg.sub rfl) _ _ ?_
          with_reducible assumption
        ·
          refine @keeps_ite _ (Keeps g s0) _ _ _ _ ?_ ?_
          ·
            with_reducible assumption
          ·
            refine @keeps_ite _ (Keeps g s0) _ _ _ _ ?_ ?_
            ·
              refine codeFinish_keeps (hg.sub rfl) _ _ ?_
              with_reducible assumption
            ·
              refine codeRecord_keeps (hg.sub rfl) _ _ _ ?_
              with_reducible assumption
  ·
    rename_i y19 y20 y21
    with_reducible assumption

theorem admitStart_keeps (hg : Free 12328229664 g) : ∀ a0 s, Keeps g s0 s → Keeps g s0 (admitStart a0 s) := by
  intro a0 s h
  unfold admitStart
  extract_lets +onlyGivenNames v1 v2 v3
  clear_value v1
  clear_value v2
  clear_value v3
  refine @keeps_ite _ (Keeps g s0) _ _ _ _ ?_ ?_
  ·
    refine refuseOp_keeps (hg.sub rfl) _ _ _ _ _ ?_
    with_reducible assumption
  ·
    split
    ·
      rename_i y4 y5 y6
      refine refuseOp_keeps (hg.sub rfl) _ _ _ _ _ ?_
      with_reducible assumption
    ·
      rename_i y7 y8 y9
      refine @keeps_ite _ (Keeps g s0) _ _ _ _ ?_ ?_
      ·
        refine refuseOp_keeps (hg.sub rfl) _ _ _ _ _ ?_
        with_reducible assumption
      ·
        split
        ·
          rename_i y10 y11 y12 y13
          refine refuseOp_keeps (hg.sub rfl) _ _ _ _ _ ?_
          with_reducible assumption
        ·
          rename_i y14 y15 y16
          refine codeBegin_keeps (hg.sub rfl) _ _ _ _ _ ?_
          with_reducible assumption

theorem codeBegins_keeps (hg : Free 12328229664 g) : ∀ a0 a1 a2 a3 s, Keeps g s0 s → Keeps g s0 (codeBegins a0 a1 a2 a3 s) := by
  intro a0 a1 a2 a3 s h
  unfold codeBegins
  extract_lets +onlyGivenNames v1 v2 v3 v4
  clear_value v1
  clear_value v2
  clear_value v3
  clear_value v4
  refine @keeps_ite _ (Keeps g s0) _ _ _ _ ?_ ?_
  ·
    refine withOperands_keeps (hg.sub rfl) _ _ _ _ _ (fun x5 x6 h7 => ?_) ?_
    ·
      refine admitStart_keeps (hg.sub rfl) _ _ ?_
      with_reducible assumption
    ·
      with_reducible assumption
  ·
    refine withOperands_keeps (hg.sub rfl) _ _ _ _ _ (fun x8 x9 h10 => ?_) ?_
    ·
      refine withOperands_keeps (hg.sub rfl) _ _ _ _ _ (fun x11 x12 h13 => ?_) ?_
      ·
        refine appendStart_keeps (hg.sub rfl) _ _ ?_
        with_reducible assumption
      ·
        with_reducible assumption
    ·
      with_reducible assumption

theorem codeStep_keeps (hg : Free 16623196960 g) : ∀ a0 a1 a2 s, Keeps g s0 s → Keeps g s0 (codeStep a0 a1 a2 s) := by
  intro a0 a1 a2 s h
  unfold codeStep
  extract_lets +onlyGivenNames v1
  refine Keeps.cut (g := g) (s0 := s0) v1 ?_ (fun h2 => ?_)
  ·
    unfold v1
    refine settle_keeps (hg.sub rfl) _ _ ?_
    refine absorb_keeps (hg.sub rfl) _ ?_
    with_reducible assumption
  clear_value v1
  split
  ·
    rename_i y3 y4
    with_reducible assumption
  ·
    rename_i y5 y6 y7
    refine @keeps_ite _ (Keeps g s0) _ _ _ _ ?_ ?_
    ·
      with_reducible assumption
    ·
      refine @keeps_ite _ (Keeps g s0) _ _ _ _ ?_ ?_
      ·
        refine codeEnd_keeps (hg.sub rfl) _ _ _ ?_
        with_reducible assumption
      ·
        refine codeEnd_keeps (hg.sub rfl) _ _ _ ?_
        refine codeBegins_keeps (hg.sub rfl) _ _ _ _ _ ?_
        with_reducible assumption

theorem execAppend_keeps (hg : Free 16623196960 g) : ∀ a0 a1 s, Keeps g s0 s → KeepsN g s0 (execAppend a0 a1 s) := by
  intro a0 a1 s h
  unfold execAppend
  refine KeepsN.next ?_
  refine codeStep_keeps (hg.sub rfl) _ _ _ _ ?_
  with_reducible assumption

theorem execAttnAdmit_keeps (hg : Free 16623196960 g) : ∀ a0 a1 s, Keeps g s0 s → KeepsN g s0 (execAttnAdmit a0 a1 s) := by
  intro a0 a1 s h
  unfold execAttnAdmit
  refine KeepsN.next ?_
  refine codeStep_keeps (hg.sub rfl) _ _ _ _ ?_
  with_reducible assumption

theorem retireFinish_keeps (hg : Free 16623196960 g) : ∀ a0 s, Keeps g s0 s → Keeps g s0 (retireFinish a0 s) := by
  intro a0 s h
  unfold retireFinish
  refine finishJob_keeps (hg.sub rfl) _ _ _ _ _ ?_
  refine updRill_keeps (hg.sub rfl) _ _ _ ?_
  with_reducible assumption

theorem retireStart_keeps (hg : Free 16623196960 g) : ∀ a0 s, Keeps g s0 s → Keeps g s0 (retireStart a0 s) := by
  intro a0 s h
  unfold retireStart
  extract_lets +onlyGivenNames v1 v2
  clear_value v1
  clear_value v2
  refine @keeps_ite _ (Keeps g s0) _ _ _ _ ?_ ?_
  ·
    refine refuseOp_keeps (hg.sub rfl) _ _ _ _ _ ?_
    with_reducible assumption
  ·
    split
    ·
      rename_i y3 y4 y5 y6
      refine refuseOp_keeps (hg.sub rfl) _ _ _ _ _ ?_
      with_reducible assumption
    ·
      rename_i y7 y8 y9
      extract_lets +onlyGivenNames v10
      clear_value v10
      refine @keeps_ite _ (Keeps g s0) _ _ _ _ ?_ ?_
      ·
        refine finishJob_keeps (hg.sub rfl) _ _ _ _ _ ?_
        with_reducible assumption
      ·
        refine putTable_keeps (hg.sub rfl) _ _ _ _ _ (fun x11 x12 h13 => ?_) ?_
        ·
          refine retireFinish_keeps (hg.sub rfl) _ _ ?_
          with_reducible assumption
        ·
          with_reducible assumption

theorem bookPiece_keeps (hg : Free 12227566368 g) : ∀ a0 a1 a2 s, Keeps g s0 s → Keeps g s0 (bookPiece a0 a1 a2 s) := by
  intro a0 a1 a2 s h
  unfold bookPiece
  split
  ·
    rename_i y1 y2
    with_reducible assumption
  ·
    rename_i y3 y4 y5
    extract_lets +onlyGivenNames v6
    clear_value v6
    split
    ·
      rename_i y7 y8
      with_reducible assumption
    ·
      rename_i y9 y10 y11
      refine @keeps_ite _ (Keeps g s0) _ _ _ _ ?_ ?_
      ·
        with_reducible assumption
      ·
        extract_lets +onlyGivenNames v12
        refine withTeam_keeps (hg.sub rfl) _ _ _ _ _ _ _ (fun x13 h14 => ?_) ?_
        ·
          split
          ·
            rename_i y15 y16 y17
            unfold v12
            refine updJob_keeps (hg.sub rfl) _ _ _ _ ?_
            with_reducible assumption
          ·
            rename_i y18 y19 y20
            split
            ·
              rename_i y21 y22
              unfold v12
              refine updJob_keeps (hg.sub rfl) _ _ _ _ ?_
              with_reducible assumption
            ·
              rename_i y23 y24 y25 y26
              split
              ·
                rename_i y27 y28 y29
                unfold v12
                refine updJob_keeps (hg.sub rfl) _ _ _ _ ?_
                with_reducible assumption
              ·
                rename_i y30 y31 y32
                refine Keeps.cut (g := g) (s0 := s0) y31 (KeepsE.of_eq ?_ y32) (fun h33 => ?_)
                ·
                  refine endBuildSlot_keeps (hg.sub rfl) _ _ _ _ _ _ _ ?_
                  with_reducible assumption
                refine updJob_keeps (hg.sub rfl) _ _ _ _ ?_
                with_reducible assumption
        ·
          with_reducible assumption

theorem retireEnd_keeps (hg : Free 16623196960 g) : ∀ a0 a1 s, Keeps g s0 s → Keeps g s0 (retireEnd a0 a1 s) := by
  intro a0 a1 s h
  unfold retireEnd
  split
  ·
    rename_i y1 y2
    with_reducible assumption
  ·
    rename_i y3 y4 y5
    refine @keeps_ite _ (Keeps g s0) _ _ _ _ ?_ ?_
    ·
      with_reducible assumption
    ·
      refine @keeps_ite _ (Keeps g s0) _ _ _ _ ?_ ?_
      ·
        refine endJob_keeps (hg.sub rfl) _ _ ?_
        with_reducible assumption
      ·
        refine retireFinish_keeps (hg.sub rfl) _ _ ?_
        with_reducible assumption

theorem retireSeq_keeps (hg : Free 16623196960 g) : ∀ a0 a1 s, Keeps g s0 s → Keeps g s0 (retireSeq a0 a1 s) := by
  intro a0 a1 s h
  unfold retireSeq
  extract_lets +onlyGivenNames v1
  refine Keeps.cut (g := g) (s0 := s0) v1 ?_ (fun h2 => ?_)
  ·
    unfold v1
    refine settle_keeps (hg.sub rfl) _ _ ?_
    refine absorb_keeps (hg.sub rfl) _ ?_
    with_reducible assumption
  clear_value v1
  split
  ·
    rename_i y3 y4
    with_reducible assumption
  ·
    rename_i y5 y6 y7
    extract_lets +onlyGivenNames v8
    clear_value v8
    refine @keeps_ite _ (Keeps g s0) _ _ _ _ ?_ ?_
    ·
      with_reducible assumption
    ·
      refine @keeps_ite _ (Keeps g s0) _ _ _ _ ?_ ?_
      ·
        refine retireEnd_keeps (hg.sub rfl) _ _ _ ?_
        with_reducible assumption
      ·
        refine withOperands_keeps (hg.sub rfl) _ _ _ _ _ (fun x9 x10 h11 => ?_) ?_
        ·
          refine retireStart_keeps (hg.sub rfl) _ _ ?_
          with_reducible assumption
        ·
          with_reducible assumption

theorem execRetire_keeps (hg : Free 16623196960 g) : ∀ a0 a1 s, Keeps g s0 s → KeepsN g s0 (execRetire a0 a1 s) := by
  intro a0 a1 s h
  unfold execRetire
  refine KeepsN.next ?_
  refine retireSeq_keeps (hg.sub rfl) _ _ _ ?_
  with_reducible assumption

theorem execAttend_keeps (hg : Free 12328229664 g) : ∀ a0 a1 s, Keeps g s0 s → KeepsN g s0 (execAttend a0 a1 s) := by
  intro a0 a1 s h
  unfold execAttend
  refine KeepsN.next ?_
  refine attend_keeps (hg.sub rfl) _ _ _ ?_
  with_reducible assumption

theorem postReply_keeps (hg : Free 67108864 g) : ∀ a0 a1 a2 a3 s, Keeps g s0 s → Keeps g s0 (postReply a0 a1 a2 a3 s) := by
  intro a0 a1 a2 a3 s h
  unfold postReply
  refine keeps_exch (s := s) (hg.sub rfl) ?_
  with_reducible assumption

theorem issueMessage_keeps (hg : Free 138414848 g) : ∀ a0 s, Keeps g s0 s → Keeps g s0 (issueMessage a0 s) := by
  intro a0 s h
  unfold issueMessage
  split
  ·
    rename_i y1 y2 y3 y4
    refine Keeps.cut (g := g) (s0 := s0) y3 (Keeps2.of_eq ?_ y4) (fun h5 => ?_)
    ·
      refine inEpoch_keeps (hg.sub rfl) _ _ ?_
      with_reducible assumption
    refine issue_keeps (hg.sub rfl) _ _ ?_
    with_reducible assumption

theorem updRun_keeps (hg : Free 67108864 g) : ∀ a0 a1 a2 s, Keeps g s0 s → Keeps g s0 (updRun a0 a1 a2 s) := by
  intro a0 a1 a2 s h
  unfold updRun
  refine keeps_exch (s := s) (hg.sub rfl) ?_
  with_reducible assumption

theorem updPiece_keeps (hg : Free 67108864 g) : ∀ a0 a1 a2 a3 s, Keeps g s0 s → Keeps g s0 (updPiece a0 a1 a2 a3 s) := by
  intro a0 a1 a2 a3 s h
  unfold updPiece
  refine updRun_keeps (hg.sub rfl) _ _ _ _ ?_
  with_reducible assumption

theorem bodyPiece_keeps (hg : Free 205523712 g) : ∀ a0 a1 a2 a3 a4 s, Keeps g s0 s → Keeps g s0 (bodyPiece a0 a1 a2 a3 a4 s) := by
  intro a0 a1 a2 a3 a4 s
  induction a4 generalizing a0 a1 a2 a3 s
  ·
    intro h1
    unfold bodyPiece
    with_reducible assumption
  ·
    rename_i y2 y3
    intro h4
    unfold bodyPiece
    split
    ·
      rename_i y5 y6 y7 y8 y9 y10
      extract_lets +onlyGivenNames v11
      clear_value v11
      refine @keeps_ite _ (Keeps g s0) _ _ _ _ ?_ ?_
      ·
        with_reducible assumption
      ·
        extract_lets +onlyGivenNames v12 v13 v14 v15
        clear_value v12
        clear_value v13
        refine Keeps.cut (g := g) (s0 := s0) v14 ?_ (fun h16 => ?_)
        ·
          unfold v14
          refine updPiece_keeps (hg.sub rfl) _ _ _ _ _ ?_
          with_reducible assumption
        clear_value v14
        refine Keeps.cut (g := g) (s0 := s0) v15 ?_ (fun h17 => ?_)
        ·
          unfold v15
          refine updJob_keeps (hg.sub rfl) _ _ _ _ ?_
          with_reducible assumption
        clear_value v15
        refine y3 _ _ _ _ _ ?_
        refine issueMessage_keeps (hg.sub rfl) _ _ ?_
        with_reducible assumption
    ·
      rename_i y18 y19 y20
      with_reducible assumption

theorem nextSeq_keeps (hg : Free 67108864 g) : ∀ a0 a1 s, Keeps g s0 s → Keeps2 g s0 (nextSeq a0 a1 s) := by
  intro a0 a1 s h
  unfold nextSeq
  extract_lets +onlyGivenNames v1 v2
  clear_value v1
  clear_value v2
  refine Keeps2.mk ?_
  refine keeps_exch (s := s) (hg.sub rfl) ?_
  with_reducible assumption

theorem sendPiece_keeps (hg : Free 67108864 g) : ∀ a0 a1 a2 a3 a4 s, (∀ x0 x1 x2 x3 t, Keeps g s0 t → Keeps g s0 (a0 x0 x1 x2 x3 t)) → Keeps g s0 s → Keeps g s0 (sendPiece a0 a1 a2 a3 a4 s) := by
  intro a0 a1 a2 a3 a4 s hk0 h
  unfold sendPiece
  split
  ·
    rename_i y1 y2 y3 y4
    refine Keeps.cut (g := g) (s0 := s0) y3 (Keeps2.of_eq ?_ y4) (fun h5 => ?_)
    ·
      refine nextSeq_keeps (hg.sub rfl) _ _ _ ?_
      with_reducible assumption
    extract_lets +onlyGivenNames v6 v7 v8 v9
    clear_value v6
    clear_value v7
    clear_value v8
    refine Keeps.cut (g := g) (s0 := s0) v9 ?_ (fun h10 => ?_)
    ·
      unfold v9
      refine updPiece_keeps (hg.sub rfl) _ _ _ _ _ ?_
      with_reducible assumption
    clear_value v9
    refine @keeps_ite _ (Keeps g s0) _ _ _ _ ?_ ?_
    ·
      refine hk0 _ _ _ _ _ ?_
      with_reducible assumption
    ·
      with_reducible assumption

theorem sendHeader_keeps (hg : Free 205523712 g) : ∀ a0 a1 a2 a3 s, Keeps g s0 s → Keeps g s0 (sendHeader a0 a1 a2 a3 s) := by
  intro a0 a1 a2 a3 s h
  unfold sendHeader
  refine @keeps_ite _ (Keeps g s0) _ _ _ _ ?_ ?_
  ·
    with_reducible assumption
  ·
    extract_lets +onlyGivenNames v1 v2
    refine Keeps.cut (g := g) (s0 := s0) v1 ?_ (fun h3 => ?_)
    ·
      unfold v1
      refine updPiece_keeps (hg.sub rfl) _ _ _ _ _ ?_
      with_reducible assumption
    clear_value v1
    refine Keeps.cut (g := g) (s0 := s0) v2 ?_ (fun h4 => ?_)
    ·
      unfold v2
      refine updJob_keeps (hg.sub rfl) _ _ _ _ ?_
      with_reducible assumption
    clear_value v2
    refine issueMessage_keeps (hg.sub rfl) _ _ ?_
    with_reducible assumption

theorem pieceStep_keeps (hg : Free 205523712 g) : ∀ a0 a1 a2 a3 a4 s, (∀ x0 x1 x2 x3 t, Keeps g s0 t → Keeps g s0 (a0 x0 x1 x2 x3 t)) → Keeps g s0 s → Keeps g s0 (pieceStep a0 a1 a2 a3 a4 s) := by
  intro a0 a1 a2 a3 a4 s hk0 h
  unfold pieceStep
  split
  ·
    rename_i y1 y2 y3 y4 y5 y6
    refine @keeps_ite _ (Keeps g s0) _ _ _ _ ?_ ?_
    ·
      with_reducible assumption
    ·
      extract_lets +onlyGivenNames v7
      refine Keeps.cut (g := g) (s0 := s0) v7 ?_ (fun h8 => ?_)
      ·
        unfold v7
        refine bodyPiece_keeps (hg.sub rfl) _ _ _ _ _ _ ?_
        refine @keeps_ite _ (Keeps g s0) _ _ _ _ ?_ ?_
        ·
          with_reducible assumption
        ·
          refine sendPiece_keeps (hg.sub rfl) _ _ _ _ _ _ (fun x9 x10 x11 x12 x13 h14 => ?_) ?_
          ·
            refine hk0 _ _ _ _ _ ?_
            with_reducible assumption
          ·
            with_reducible assumption
      clear_value v7
      split
      ·
        rename_i y15 y16 y17 y18 y19 y20
        refine @keeps_ite _ (Keeps g s0) _ _ _ _ ?_ ?_
        ·
          refine sendHeader_keeps (hg.sub rfl) _ _ _ _ _ ?_
          with_reducible assumption
        ·
          with_reducible assumption
      ·
        rename_i y21 y22 y23
        with_reducible assumption
  ·
    rename_i y24 y25 y26
    with_reducible assumption

theorem answerFar_keeps (hg : Free 67108864 g) : ∀ a0 a1 a2 a3 s, Keeps g s0 s → Keeps g s0 (answerFar a0 a1 a2 a3 s) := by
  intro a0 a1 a2 a3 s h
  unfold answerFar
  refine keeps_exch (s := s) (hg.sub rfl) ?_
  with_reducible assumption

theorem replyStores_keeps (hg : Free 205523712 g) : ∀ a0 a1 a2 s, Keeps g s0 s → Keeps g s0 (replyStores a0 a1 a2 s) := by
  intro a0 a1 a2 s
  induction a2 generalizing a0 a1 s
  ·
    intro h1
    unfold replyStores
    with_reducible assumption
  ·
    rename_i y2 y3
    intro h4
    unfold replyStores
    extract_lets +onlyGivenNames v5
    clear_value v5
    split
    ·
      rename_i y6 y7
      with_reducible assumption
    ·
      rename_i y8 y9 y10
      extract_lets +onlyGivenNames v11 v12
      clear_value v11
      refine @keeps_ite _ (Keeps g s0) _ _ _ _ ?_ ?_
      ·
        with_reducible assumption
      ·
        refine @keeps_ite _ (Keeps g s0) _ _ _ _ ?_ ?_
        ·
          refine @keeps_ite _ (Keeps g s0) _ _ _ _ ?_ ?_
          ·
            with_reducible assumption
          ·
            refine issueMessage_keeps (hg.sub rfl) _ _ ?_
            unfold v12
            refine keeps_exch (s := s) (hg.sub rfl) ?_
            with_reducible assumption
        ·
          extract_lets +onlyGivenNames v13 v14
          clear_value v13
          clear_value v14
          refine y3 _ _ _ ?_
          refine issueMessage_keeps (hg.sub rfl) _ _ ?_
          unfold v12
          refine keeps_exch (s := s) (hg.sub rfl) ?_
          with_reducible assumption

theorem updPosted_keeps (hg : Free 67108864 g) : ∀ a0 a1 s, Keeps g s0 s → Keeps g s0 (updPosted a0 a1 s) := by
  intro a0 a1 s h
  unfold updPosted
  refine keeps_exch (s := s) (hg.sub rfl) ?_
  with_reducible assumption

theorem exchSend_keeps (hg : Free 205523712 g) : ∀ a0 a1 a2 s, (∀ x0 x1 x2 x3 t, Keeps g s0 t → Keeps g s0 (a0 x0 x1 x2 x3 t)) → Keeps g s0 s → Keeps g s0 (exchSend a0 a1 a2 s) := by
  intro a0 a1 a2 s hk0 h
  unfold exchSend
  split
  ·
    rename_i y1 y2 y3 y4 y5 y6
    split
    ·
      rename_i y7 y8
      with_reducible assumption
    ·
      rename_i y9 y10 y11
      refine @keeps_ite _ (Keeps g s0) _ _ _ _ ?_ ?_
      ·
        with_reducible assumption
      ·
        refine keeps_foldl (P := Keeps g s0) (fun b12 x13 h14 => ?_) _ _ ?_
        ·
          refine pieceStep_keeps (hg.sub rfl) _ _ _ _ _ _ (fun x15 x16 x17 x18 x19 h20 => ?_) ?_
          ·
            refine hk0 _ _ _ _ _ ?_
            with_reducible assumption
          ·
            with_reducible assumption
        ·
          with_reducible assumption
  ·
    rename_i y21 y22 y23
    with_reducible assumption

theorem exchOut_keeps (hg : Free 205527808 g) : ∀ a0 a1 a2 s, Keeps g s0 s → Keeps g s0 (exchOut a0 a1 a2 s) := by
  intro a0 a1 a2 s
  induction a2 generalizing a0 a1 s
  ·
    intro h1
    unfold exchOut
    with_reducible assumption
  ·
    rename_i y2 y3
    intro h4
    unfold exchOut
    split
    ·
      rename_i y5 y6 y7 y8 y9 y10
      split
      ·
        rename_i y11 y12
        with_reducible assumption
      ·
        rename_i y13 y14 y15 y16 y17
        refine @keeps_ite _ (Keeps g s0) _ _ _ _ ?_ ?_
        ·
          with_reducible assumption
        ·
          extract_lets +onlyGivenNames v18 v19 v20 v21
          clear_value v18
          clear_value v19
          refine Keeps.cut (g := g) (s0 := s0) v20 ?_ (fun h22 => ?_)
          ·
            unfold v20
            refine updRun_keeps (hg.sub rfl) _ _ _ _ ?_
            with_reducible assumption
          clear_value v20
          refine Keeps.cut (g := g) (s0 := s0) v21 ?_ (fun h23 => ?_)
          ·
            unfold v21
            refine updJob_keeps (hg.sub rfl) _ _ _ _ ?_
            with_reducible assumption
          clear_value v21
          refine y3 _ _ _ ?_
          refine issueIn_keeps (hg.sub rfl) _ _ _ _ ?_
          with_reducible assumption
    ·
      rename_i y24 y25 y26
      with_reducible assumption

theorem exchEnd_keeps (hg : Free 12328229664 g) : ∀ a0 a1 s, Keeps g s0 s → Keeps g s0 (exchEnd a0 a1 s) := by
  intro a0 a1 s h
  unfold exchEnd
  split
  ·
    rename_i y1 y2 y3 y4 y5 y6
    refine @keeps_ite _ (Keeps g s0) _ _ _ _ ?_ ?_
    ·
      with_reducible assumption
    ·
      split
      ·
        rename_i y7 y8 y9 y10
        refine @keeps_ite _ (Keeps g s0) _ _ _ _ ?_ ?_
        ·
          refine endJob_keeps (hg.sub rfl) _ _ ?_
          with_reducible assumption
        ·
          refine finishJob_keeps (hg.sub rfl) _ _ _ _ _ ?_
          with_reducible assumption
      ·
        rename_i y11 y12
        refine @keeps_ite _ (Keeps g s0) _ _ _ _ ?_ ?_
        ·
          refine endJob_keeps (hg.sub rfl) _ _ ?_
          with_reducible assumption
        ·
          with_reducible assumption
      ·
        rename_i y13 y14 y15 y16 y17 y18
        refine @keeps_ite _ (Keeps g s0) _ _ _ _ ?_ ?_
        ·
          refine endJob_keeps (hg.sub rfl) _ _ ?_
          with_reducible assumption
        ·
          refine @keeps_ite _ (Keeps g s0) _ _ _ _ ?_ ?_
          ·
            with_reducible assumption
          ·
            refine @keeps_ite _ (Keeps g s0) _ _ _ _ ?_ ?_
            ·
              refine @keeps_ite _ (Keeps g s0) _ _ _ _ ?_ ?_
              ·
                with_reducible assumption
              ·
                refine issueCounter_keeps (hg.sub rfl) _ _ _ _ _ ?_
                refine updRun_keeps (hg.sub rfl) _ _ _ _ ?_
                with_reducible assumption
            ·
              refine finishJob_keeps (hg.sub rfl) _ _ _ _ _ ?_
              with_reducible assumption
  ·
    rename_i y19 y20 y21
    with_reducible assumption

theorem exchPump_keeps (hg : Free 12328229664 g) : ∀ a0 a1 a2 s, (∀ x0 x1 x2 x3 t, Keeps g s0 t → Keeps g s0 (a0 x0 x1 x2 x3 t)) → Keeps g s0 s → Keeps g s0 (exchPump a0 a1 a2 s) := by
  intro a0 a1 a2 s hk0 h
  unfold exchPump
  split
  ·
    rename_i y1 y2
    with_reducible assumption
  ·
    rename_i y3 y4 y5
    refine @keeps_ite _ (Keeps g s0) _ _ _ _ ?_ ?_
    ·
      refine exchEnd_keeps (hg.sub rfl) _ _ _ ?_
      with_reducible assumption
    ·
      refine exchEnd_keeps (hg.sub rfl) _ _ _ ?_
      refine exchOut_keeps (hg.sub rfl) _ _ _ _ ?_
      refine exchSend_keeps (hg.sub rfl) _ _ _ _ (fun x6 x7 x8 x9 x10 h11 => ?_) ?_
      ·
        refine hk0 _ _ _ _ _ ?_
        with_reducible assumption
      ·
        with_reducible assumption

theorem landReply_keeps (hg : Free 67108864 g) : ∀ a0 a1 s, Keeps g s0 s → Keeps g s0 (landReply a0 a1 s) := by
  intro a0 a1 s h
  unfold landReply
  extract_lets +onlyGivenNames v1
  clear_value v1
  refine keeps_exch (s := s) (hg.sub rfl) ?_
  with_reducible assumption

theorem progressBeat_keeps (hg : Free 205523712 g) : ∀ a0 a1 s, Keeps g s0 s → Keeps g s0 (progressBeat a0 a1 s) := by
  intro a0 a1 s h
  unfold progressBeat
  split
  ·
    rename_i y1 y2 y3 y4 y5 y6
    extract_lets +onlyGivenNames v7
    refine Keeps.cut (g := g) (s0 := s0) v7 ?_ (fun h8 => ?_)
    ·
      unfold v7
      refine updPosted_keeps (hg.sub rfl) _ _ _ ?_
      with_reducible assumption
    clear_value v7
    refine @keeps_ite _ (Keeps g s0) _ _ _ _ ?_ ?_
    ·
      with_reducible assumption
    ·
      refine issueMessage_keeps (hg.sub rfl) _ _ ?_
      with_reducible assumption
  ·
    rename_i y9 y10 y11
    with_reducible assumption

theorem execProgressBeat_keeps (hg : Free 205523712 g) : ∀ a0 a1 s, Keeps g s0 s → KeepsN g s0 (execProgressBeat a0 a1 s) := by
  intro a0 a1 s h
  unfold execProgressBeat
  refine KeepsN.next ?_
  refine progressBeat_keeps (hg.sub rfl) _ _ _ ?_
  with_reducible assumption

theorem beginRun_keeps (hg : Free 205527808 g) : ∀ a0 a1 a2 a3 s, Keeps g s0 s → Keeps g s0 (beginRun a0 a1 a2 a3 s) := by
  intro a0 a1 a2 a3 s h
  unfold beginRun
  refine beginCounter_keeps (hg.sub rfl) _ _ _ ?_
  refine keeps_exch (s := s) (hg.sub rfl) ?_
  with_reducible assumption

theorem dropPosted_keeps (hg : Free 67108864 g) : ∀ a0 s, Keeps g s0 s → Keeps g s0 (dropPosted a0 s) := by
  intro a0 s h
  unfold dropPosted
  refine keeps_exch (s := s) (hg.sub rfl) ?_
  with_reducible assumption

theorem answer_keeps (hg : Free 8657043456 g) : ∀ a0 a1 a2 a3 a4 a5 a6 s, Keeps g s0 s → Keeps g s0 (answer a0 a1 a2 a3 a4 a5 a6 s) := by
  intro a0 a1 a2 a3 a4 a5 a6 s h
  unfold answer
  extract_lets +onlyGivenNames v1 v2
  refine Keeps.cut (g := g) (s0 := s0) v1 ?_ (fun h3 => ?_)
  ·
    unfold v1
    refine keeps_foldl (P := Keeps g s0) (fun b4 x5 h6 => ?_) _ _ ?_
    ·
      refine dropRef_keeps (hg.sub rfl) _ _ ?_
      with_reducible assumption
    ·
      refine dropPosted_keeps (hg.sub rfl) _ _ ?_
      with_reducible assumption
  clear_value v1
  clear_value v2
  refine @keeps_ite _ (Keeps g s0) _ _ _ _ ?_ ?_
  ·
    refine postReply_keeps (hg.sub rfl) _ _ _ _ _ ?_
    with_reducible assumption
  ·
    refine answerFar_keeps (hg.sub rfl) _ _ _ _ _ ?_
    with_reducible assumption

theorem replyPump_keeps (hg : Free 205523712 g) : ∀ s, Keeps g s0 s → Keeps g s0 (replyPump s) := by
  intro s h
  unfold replyPump
  extract_lets +onlyGivenNames v1 v2 v3 v4
  clear_value v1
  refine Keeps.cut (g := g) (s0 := s0) v3 ?_ (fun h5 => ?_)
  ·
    unfold v3
    refine keeps_weir (s := s) 2048 (hg.sub rfl) ?_ (.inr rfl) (.inl rfl)
    with_reducible assumption
  clear_value v3
  refine Keeps.cut (g := g) (s0 := s0) v4 ?_ (fun h6 => ?_)
  ·
    unfold v4
    refine keeps_foldl (P := Keeps g s0) (fun b7 x8 h9 => ?_) _ _ ?_
    ·
      split
      ·
        rename_i y10 y11 y12 y13
        refine landReply_keeps (hg.sub rfl) _ _ _ ?_
        with_reducible assumption
      ·
        rename_i y14 y15
        with_reducible assumption
    ·
      with_reducible assumption
  clear_value v4
  extract_lets +onlyGivenNames v16
  clear_value v16
  extract_lets +onlyGivenNames v17
  refine Keeps.cut (g := g) (s0 := s0) v17 ?_ (fun h18 => ?_)
  ·
    unfold v17
    refine keeps_exch (s := v4) (hg.sub rfl) ?_
    with_reducible assumption
  clear_value v17
  refine keeps_foldl (P := Keeps g s0) (fun b19 x20 h21 => ?_) _ _ ?_
  ·
    split
    ·
      rename_i y22 y23
      with_reducible assumption
    ·
      rename_i y24 y25 y26
      refine replyStores_keeps (hg.sub rfl) _ _ _ _ ?_
      with_reducible assumption
  ·
    with_reducible assumption

end Sys2Proof.Safety
end

