-- ==== Sys2Proof/Laws/KeepsEmbed.lean ====
section
/-!
SUPPORT. Which parts of the state each operation keeps: embedding tables and vector search.
-/
namespace Sys2Proof.Safety

open Sys2Proof Sys2Proof.Machine

set_option Elab.async false

variable {g : Part} {s0 : State}

theorem servedReads_keeps (hg : Free 67115520 g) : ∀ a0 a1 a2 a3 s, (∀ t, Keeps g s0 t → Keeps g s0 (a3 t)) → Keeps g s0 s → Keeps g s0 (servedReads a0 a1 a2 a3 s) := by
  intro a0 a1 a2 a3 s hk0 h
  unfold servedReads
  extract_lets +onlyGivenNames v1 v2 v3 v4
  clear_value v1
  clear_value v2
  clear_value v3
  clear_value v4
  refine @keeps_ite _ (Keeps g s0) _ _ _ _ ?_ ?_
  ·
    refine hk0 _ ?_
    refine keeps_foldl (P := Keeps g s0) (fun b5 x6 h7 => ?_) _ _ ?_
    ·
      refine countVirtual_keeps (hg.sub rfl) _ _ _ _ _ ?_
      with_reducible assumption
    ·
      with_reducible assumption
  ·
    refine keeps_foldl (P := Keeps g s0) (fun b8 x9 h10 => ?_) _ _ ?_
    ·
      refine bring_keeps (hg.sub rfl) _ _ _ ?_
      with_reducible assumption
    ·
      refine updPosted_keeps (hg.sub rfl) _ _ _ ?_
      with_reducible assumption

theorem awaitHost_keeps (hg : Free 205520896 g) : ∀ a0 a1 a2 a3 s, (∀ t, Keeps g s0 t → Keeps g s0 (a3 t)) → Keeps g s0 s → Keeps g s0 (awaitHost a0 a1 a2 a3 s) := by
  intro a0 a1 a2 a3 s hk0 h
  unfold awaitHost
  extract_lets +onlyGivenNames v1
  clear_value v1
  refine @keeps_ite _ (Keeps g s0) _ _ _ _ ?_ ?_
  ·
    refine keeps_foldl (P := Keeps g s0) (fun b2 x3 h4 => ?_) _ _ ?_
    ·
      extract_lets +onlyGivenNames v5 v6
      clear_value v5
      extract_lets +onlyGivenNames v7
      refine Keeps.cut (g := g) (s0 := s0) v7 ?_ (fun h8 => ?_)
      ·
        unfold v7
        refine keeps_rill (s := b2) 4194304 (hg.sub rfl) ?_ (.inl rfl) (.inr rfl)
        with_reducible assumption
      clear_value v7
      refine emit_keeps (hg.sub rfl) _ _ ?_
      with_reducible assumption
    ·
      refine updPosted_keeps (hg.sub rfl) _ _ _ ?_
      with_reducible assumption
  ·
    refine @keeps_ite _ (Keeps g s0) _ _ _ _ ?_ ?_
    ·
      with_reducible assumption
    ·
      refine hk0 _ ?_
      with_reducible assumption

theorem serveLookup_keeps (hg : Free 8795462144 g) : ∀ a0 a1 s, Keeps g s0 s → Keeps g s0 (serveLookup a0 a1 s) := by
  intro a0 a1 s h
  unfold serveLookup
  extract_lets +onlyGivenNames v1 v2 v3 v4
  clear_value v1
  clear_value v2
  clear_value v3
  clear_value v4
  split
  ·
    rename_i y5 y6 y7
    refine answer_keeps (hg.sub rfl) _ _ _ _ _ _ _ _ ?_
    with_reducible assumption
  ·
    rename_i y8
    refine @keeps_ite _ (Keeps g s0) _ _ _ _ ?_ ?_
    ·
      refine answer_keeps (hg.sub rfl) _ _ _ _ _ _ _ _ ?_
      with_reducible assumption
    ·
      refine awaitHost_keeps (hg.sub rfl) _ _ _ _ _ (fun x9 h10 => ?_) ?_
      ·
        refine servedReads_keeps (hg.sub rfl) _ _ _ _ _ (fun x11 h12 => ?_) ?_
        ·
          extract_lets +onlyGivenNames v13 v14 v15
          clear_value v13
          clear_value v14
          clear_value v15
          split
          ·
            rename_i y16 y17 y18
            refine answer_keeps (hg.sub rfl) _ _ _ _ _ _ _ _ ?_
            with_reducible assumption
          ·
            rename_i y19
            extract_lets +onlyGivenNames v20 v21
            clear_value v20
            clear_value v21
            refine answer_keeps (hg.sub rfl) _ _ _ _ _ _ _ _ ?_
            with_reducible assumption
        ·
          with_reducible assumption
      ·
        with_reducible assumption

theorem putHead_keeps (hg : Free 3629243168 g) : ∀ a0 a1 a2 a3 a4 s, Keeps g s0 s → Keeps g s0 (putHead a0 a1 a2 a3 a4 s) := by
  intro a0 a1 a2 a3 a4 s h
  unfold putHead
  refine Keeps2.snd ?_
  refine vwrite_keeps (hg.sub rfl) _ _ _ _ _ ?_
  with_reducible assumption

theorem takeSlot_keeps (hg : Free 3629243168 g) : ∀ a0 a1 a2 a3 s, Keeps g s0 s → Keeps2 g s0 (takeSlot a0 a1 a2 a3 s) := by
  intro a0 a1 a2 a3 s h
  unfold takeSlot
  extract_lets +onlyGivenNames v1
  clear_value v1
  split
  ·
    rename_i y2 y3 y4 y5
    refine @keeps_ite _ (Keeps2 g s0) _ _ _ _ ?_ ?_
    ·
      refine Keeps2.mk ?_
      refine putHead_keeps (hg.sub rfl) _ _ _ _ _ _ ?_
      with_reducible assumption
    ·
      refine Keeps2.mk ?_
      refine putHead_keeps (hg.sub rfl) _ _ _ _ _ _ ?_
      with_reducible assumption

theorem lookupStart_keeps (hg : Free 12328229664 g) : ∀ a0 s, Keeps g s0 s → Keeps g s0 (lookupStart a0 s) := by
  intro a0 s h
  unfold lookupStart
  extract_lets +onlyGivenNames v1 v2
  clear_value v1
  clear_value v2
  split
  ·
    rename_i y3 y4 y5 y6 y7
    refine refuseOp_keeps (hg.sub rfl) _ _ _ _ _ ?_
    with_reducible assumption
  ·
    rename_i y8 y9 y10 y11
    refine refuseOp_keeps (hg.sub rfl) _ _ _ _ _ ?_
    with_reducible assumption
  ·
    rename_i y12 y13 y14 y15 y16 y17
    extract_lets +onlyGivenNames v18
    clear_value v18
    split
    ·
      rename_i y19 y20 y21
      refine refuseOp_keeps (hg.sub rfl) _ _ _ _ _ ?_
      with_reducible assumption
    ·
      rename_i y22 y23
      split
      ·
        rename_i y24 y25 y26 y27
        refine finishJob_keeps (hg.sub rfl) _ _ _ _ _ ?_
        with_reducible assumption
      ·
        rename_i y28 y29 y30
        refine @keeps_ite _ (Keeps g s0) _ _ _ _ ?_ ?_
        ·
          refine refuseOp_keeps (hg.sub rfl) _ _ _ _ _ ?_
          with_reducible assumption
        ·
          extract_lets +onlyGivenNames v31 v32
          clear_value v31
          clear_value v32
          split
          ·
            rename_i y33 y34 y35
            refine refuseOp_keeps (hg.sub rfl) _ _ _ _ _ ?_
            with_reducible assumption
          ·
            rename_i y36 y37
            extract_lets +onlyGivenNames v38 v39
            clear_value v38
            clear_value v39
            refine beginRun_keeps (hg.sub rfl) _ _ _ _ _ ?_
            with_reducible assumption

theorem updateStart_keeps (hg : Free 12328229664 g) : ∀ a0 s, Keeps g s0 s → Keeps g s0 (updateStart a0 s) := by
  intro a0 s h
  unfold updateStart
  extract_lets +onlyGivenNames v1
  clear_value v1
  split
  ·
    rename_i y2 y3 y4 y5 y6
    refine refuseOp_keeps (hg.sub rfl) _ _ _ _ _ ?_
    with_reducible assumption
  ·
    rename_i y7 y8 y9 y10
    refine refuseOp_keeps (hg.sub rfl) _ _ _ _ _ ?_
    with_reducible assumption
  ·
    rename_i y11 y12 y13 y14 y15 y16
    split
    ·
      rename_i y17 y18 y19 y20
      refine finishJob_keeps (hg.sub rfl) _ _ _ _ _ ?_
      with_reducible assumption
    ·
      rename_i y21 y22 y23
      split
      ·
        rename_i y24 y25 y26
        refine refuseOp_keeps (hg.sub rfl) _ _ _ _ _ ?_
        with_reducible assumption
      ·
        rename_i y27 y28
        extract_lets +onlyGivenNames v29 v30
        clear_value v29
        clear_value v30
        refine beginRun_keeps (hg.sub rfl) _ _ _ _ _ ?_
        with_reducible assumption

theorem pushSlot_keeps (hg : Free 3629243168 g) : ∀ a0 a1 a2 a3 s, Keeps g s0 s → Keeps g s0 (pushSlot a0 a1 a2 a3 s) := by
  intro a0 a1 a2 a3 s h
  unfold pushSlot
  split
  ·
    rename_i y1 y2 y3 y4
    refine putHead_keeps (hg.sub rfl) _ _ _ _ _ _ ?_
    refine Keeps2.snd ?_
    refine vwrite_keeps (hg.sub rfl) _ _ _ _ _ ?_
    with_reducible assumption

theorem recycle_keeps (hg : Free 3629243168 g) : ∀ a0 a1 a2 a3 s, Keeps g s0 s → Keeps g s0 (recycle a0 a1 a2 a3 s) := by
  intro a0 a1 a2 a3 s h
  unfold recycle
  split
  ·
    rename_i y1 y2 y3 y4
    extract_lets +onlyGivenNames v5
    clear_value v5
    refine putHead_keeps (hg.sub rfl) _ _ _ _ _ _ ?_
    refine keeps_foldl (P := Keeps g s0) (fun b6 x7 h8 => ?_) _ _ ?_
    ·
      refine pushSlot_keeps (hg.sub rfl) _ _ _ _ _ ?_
      with_reducible assumption
    ·
      with_reducible assumption

theorem commitRow_keeps (hg : Free 3629243168 g) : ∀ a0 a1 a2 a3 a4 s, Keeps g s0 s → Keeps2 g s0 (commitRow a0 a1 a2 a3 a4 s) := by
  intro a0 a1 a2 a3 a4 s h
  unfold commitRow
  extract_lets +onlyGivenNames v1 v2 v3
  clear_value v1
  clear_value v2
  clear_value v3
  split
  ·
    rename_i y4 y5 y6
    refine Keeps2.mk ?_
    with_reducible assumption
  ·
    rename_i y7 y8 y9
    extract_lets +onlyGivenNames v10 v11
    clear_value v10
    clear_value v11
    split
    ·
      rename_i y12 y13 y14
      refine Keeps2.mk ?_
      with_reducible assumption
    ·
      rename_i y15 y16 y17
      split
      ·
        rename_i y18 y19 y20 y21
        refine Keeps.cut (g := g) (s0 := s0) y20 (Keeps2.of_eq ?_ y21) (fun h22 => ?_)
        ·
          split
          ·
            rename_i y23 y24 y25
            refine Keeps2.mk ?_
            with_reducible assumption
          ·
            rename_i y26 y27
            refine takeSlot_keeps (hg.sub rfl) _ _ _ _ _ ?_
            with_reducible assumption
        extract_lets +onlyGivenNames v28 v29 v30 v31
        clear_value v28
        refine Keeps.cut (g := g) (s0 := s0) v29 ?_ (fun h32 => ?_)
        ·
          unfold v29
          refine @keeps_ite _ (Keeps g s0) _ _ _ _ ?_ ?_
          ·
            with_reducible assumption
          ·
            split
            ·
              rename_i y33 y34
              with_reducible assumption
            ·
              rename_i y35 y36 y37
              extract_lets +onlyGivenNames v38
              clear_value v38
              refine Keeps2.snd ?_
              refine vwrite_keeps (hg.sub rfl) _ _ _ _ _ ?_
              with_reducible assumption
        clear_value v29
        clear_value v30
        refine Keeps.cut (g := g) (s0 := s0) v31 ?_ (fun h39 => ?_)
        ·
          unfold v31
          refine Keeps2.snd ?_
          refine vwrite_keeps (hg.sub rfl) _ _ _ _ _ ?_
          with_reducible assumption
        clear_value v31
        extract_lets +onlyGivenNames v40
        clear_value v40
        refine Keeps2.mk ?_
        refine @keeps_ite _ (Keeps g s0) _ _ _ _ ?_ ?_
        ·
          with_reducible assumption
        ·
          refine pushSlot_keeps (hg.sub rfl) _ _ _ _ _ ?_
          with_reducible assumption

theorem commitRows_keeps (hg : Free 3629243168 g) : ∀ a0 a1 a2 a3 a4 s, Keeps g s0 s → Keeps2 g s0 (commitRows a0 a1 a2 a3 a4 s) := by
  intro a0 a1 a2 a3 a4 s
  induction a4 generalizing a0 a1 a2 a3 s
  ·
    intro h1
    unfold commitRows
    refine Keeps2.mk ?_
    with_reducible assumption
  ·
    rename_i y2 y3 y4
    intro h5
    unfold commitRows
    split
    ·
      rename_i y6 y7 y8
      refine Keeps.cut (g := g) (s0 := s0) y7 (Keeps2.of_eq ?_ y8) (fun h9 => ?_)
      ·
        refine commitRow_keeps (hg.sub rfl) _ _ _ _ _ _ ?_
        with_reducible assumption
      refine y4 _ _ _ _ _ ?_
      with_reducible assumption
    ·
      rename_i y10 y11 y12 y13 y14
      refine Keeps.cut (g := g) (s0 := s0) y12 (Keeps2.of_eq ?_ y14) (fun h15 => ?_)
      ·
        refine commitRow_keeps (hg.sub rfl) _ _ _ _ _ _ ?_
        with_reducible assumption
      refine Keeps2.mk ?_
      with_reducible assumption

theorem putStaged_keeps (hg : Free 67108864 g) : ∀ a0 s, Keeps g s0 s → Keeps g s0 (putStaged a0 s) := by
  intro a0 s h
  unfold putStaged
  refine keeps_exch (s := s) (hg.sub rfl) ?_
  with_reducible assumption

theorem applyUpdate_keeps (hg : Free 3696352032 g) : ∀ a0 a1 a2 s, Keeps g s0 s → Keeps g s0 (applyUpdate a0 a1 a2 s) := by
  intro a0 a1 a2 s h
  unfold applyUpdate
  split
  ·
    rename_i y1 y2 y3 y4
    extract_lets +onlyGivenNames v5 v6 v7
    clear_value v5
    clear_value v6
    clear_value v7
    refine @keeps_ite _ (Keeps g s0) _ _ _ _ ?_ ?_
    ·
      refine putStaged_keeps (hg.sub rfl) _ _ ?_
      with_reducible assumption
    ·
      refine @keeps_ite _ (Keeps g s0) _ _ _ _ ?_ ?_
      ·
        with_reducible assumption
      ·
        split
        ·
          rename_i y8 y9 y10 y11
          refine Keeps.cut (g := g) (s0 := s0) y10 (Keeps2.of_eq ?_ y11) (fun h12 => ?_)
          ·
            split
            ·
              rename_i y13 y14 y15
              refine Keeps2.mk ?_
              with_reducible assumption
            ·
              rename_i y16 y17
              refine takeSlot_keeps (hg.sub rfl) _ _ _ _ _ ?_
              with_reducible assumption
          extract_lets +onlyGivenNames v18
          refine Keeps.cut (g := g) (s0 := s0) v18 ?_ (fun h19 => ?_)
          ·
            unfold v18
            refine Keeps2.snd ?_
            refine vwrite_keeps (hg.sub rfl) _ _ _ _ _ ?_
            with_reducible assumption
          clear_value v18
          refine putStaged_keeps (hg.sub rfl) _ _ ?_
          with_reducible assumption

theorem commitStart_keeps (hg : Free 12328229664 g) : ∀ a0 s, Keeps g s0 s → Keeps g s0 (commitStart a0 s) := by
  intro a0 s h
  unfold commitStart
  extract_lets +onlyGivenNames v1 v2 v3
  clear_value v1
  clear_value v2
  clear_value v3
  split
  ·
    rename_i y4 y5 y6 y7
    refine refuseOp_keeps (hg.sub rfl) _ _ _ _ _ ?_
    with_reducible assumption
  ·
    rename_i y8 y9 y10 y11 y12 y13
    refine refuseOp_keeps (hg.sub rfl) _ _ _ _ _ ?_
    with_reducible assumption
  ·
    rename_i y14 y15 y16 y17 y18 y19 y20 y21
    refine refuseOp_keeps (hg.sub rfl) _ _ _ _ _ ?_
    with_reducible assumption
  ·
    rename_i y22 y23 y24 y25 y26 y27 y28 y29
    refine @keeps_ite _ (Keeps g s0) _ _ _ _ ?_ ?_
    ·
      refine refuseOp_keeps (hg.sub rfl) _ _ _ _ _ ?_
      with_reducible assumption
    ·
      refine @keeps_ite _ (Keeps g s0) _ _ _ _ ?_ ?_
      ·
        refine finishJob_keeps (hg.sub rfl) _ _ _ _ _ ?_
        with_reducible assumption
      ·
        extract_lets +onlyGivenNames v30
        clear_value v30
        refine beginRun_keeps (hg.sub rfl) _ _ _ _ _ ?_
        with_reducible assumption

theorem commitTable_keeps (hg : Free 12286286624 g) : ∀ a0 a1 a2 a3 a4 s, Keeps g s0 s → Keeps g s0 (commitTable a0 a1 a2 a3 a4 s) := by
  intro a0 a1 a2 a3 a4 s h
  unfold commitTable
  extract_lets +onlyGivenNames v1
  clear_value v1
  split
  ·
    rename_i y2 y3 y4 y5
    refine Keeps.cut (g := g) (s0 := s0) y4 (Keeps2.of_eq ?_ y5) (fun h6 => ?_)
    ·
      refine commitRows_keeps (hg.sub rfl) _ _ _ _ _ _ ?_
      refine recycle_keeps (hg.sub rfl) _ _ _ _ _ ?_
      with_reducible assumption
    extract_lets +onlyGivenNames v7
    clear_value v7
    extract_lets +onlyGivenNames v8
    refine Keeps.cut (g := g) (s0 := s0) v8 ?_ (fun h9 => ?_)
    ·
      unfold v8
      refine keeps_exch (s := y4) (hg.sub rfl) ?_
      with_reducible assumption
    clear_value v8
    refine @keeps_ite _ (Keeps g s0) _ _ _ _ ?_ ?_
    ·
      refine answer_keeps (hg.sub rfl) _ _ _ _ _ _ _ _ ?_
      with_reducible assumption
    ·
      extract_lets +onlyGivenNames v10 v11
      clear_value v10
      clear_value v11
      extract_lets +onlyGivenNames v12
      refine Keeps.cut (g := g) (s0 := s0) v12 ?_ (fun h13 => ?_)
      ·
        unfold v12
        refine keeps_exch (s := v8) (hg.sub rfl) ?_
        with_reducible assumption
      clear_value v12
      refine answer_keeps (hg.sub rfl) _ _ _ _ _ _ _ _ ?_
      refine Keeps2.snd ?_
      refine vwrite_keeps (hg.sub rfl) _ _ _ _ _ ?_
      with_reducible assumption

theorem ownerCommit_keeps (hg : Free 12286286624 g) : ∀ a0 a1 s, Keeps g s0 s → Keeps g s0 (ownerCommit a0 a1 s) := by
  intro a0 a1 s h
  unfold ownerCommit
  split
  ·
    rename_i y1 y2 y3 y4 y5 y6
    extract_lets +onlyGivenNames v7 v8
    clear_value v7
    clear_value v8
    refine @keeps_ite _ (Keeps g s0) _ _ _ _ ?_ ?_
    ·
      refine answer_keeps (hg.sub rfl) _ _ _ _ _ _ _ _ ?_
      with_reducible assumption
    ·
      refine @keeps_ite _ (Keeps g s0) _ _ _ _ ?_ ?_
      ·
        refine answer_keeps (hg.sub rfl) _ _ _ _ _ _ _ _ ?_
        with_reducible assumption
      ·
        refine @keeps_ite _ (Keeps g s0) _ _ _ _ ?_ ?_
        ·
          with_reducible assumption
        ·
          split
          ·
            rename_i y9 y10 y11
            refine answer_keeps (hg.sub rfl) _ _ _ _ _ _ _ _ ?_
            with_reducible assumption
          ·
            rename_i y12 y13 y14
            refine @keeps_ite _ (Keeps g s0) _ _ _ _ ?_ ?_
            ·
              refine answer_keeps (hg.sub rfl) _ _ _ _ _ _ _ _ ?_
              with_reducible assumption
            ·
              extract_lets +onlyGivenNames v15 v16
              clear_value v15
              clear_value v16
              extract_lets +onlyGivenNames v17
              refine Keeps.cut (g := g) (s0 := s0) v17 ?_ (fun h18 => ?_)
              ·
                unfold v17
                refine updPosted_keeps (hg.sub rfl) _ _ _ ?_
                refine keeps_exch (s := s) (hg.sub rfl) ?_
                with_reducible assumption
              clear_value v17
              refine @keeps_ite _ (Keeps g s0) _ _ _ _ ?_ ?_
              ·
                with_reducible assumption
              ·
                extract_lets +onlyGivenNames v19 v20
                clear_value v19
                clear_value v20
                refine awaitHost_keeps (hg.sub rfl) _ _ _ _ _ (fun x21 h22 => ?_) ?_
                ·
                  refine servedReads_keeps (hg.sub rfl) _ _ _ _ _ (fun x23 h24 => ?_) ?_
                  ·
                    refine vAtRest_keeps (hg.sub rfl) _ _ _ _ _ (fun x25 h26 => ?_) ?_
                    ·
                      refine commitTable_keeps (hg.sub rfl) _ _ _ _ _ _ ?_
                      with_reducible assumption
                    ·
                      with_reducible assumption
                  ·
                    with_reducible assumption
                ·
                  with_reducible assumption
  ·
    rename_i y27 y28 y29
    with_reducible assumption

theorem serveUpdate_keeps (hg : Free 12286286624 g) : ∀ a0 a1 s, Keeps g s0 s → Keeps g s0 (serveUpdate a0 a1 s) := by
  intro a0 a1 s h
  unfold serveUpdate
  extract_lets +onlyGivenNames v1 v2
  clear_value v1
  clear_value v2
  refine servedReads_keeps (hg.sub rfl) _ _ _ _ _ (fun x3 h4 => ?_) ?_
  ·
    refine vAtRest_keeps (hg.sub rfl) _ _ _ _ _ (fun x5 h6 => ?_) ?_
    ·
      extract_lets +onlyGivenNames v7 v8
      clear_value v7
      clear_value v8
      split
      ·
        rename_i y9 y10 y11 y12
        extract_lets +onlyGivenNames v13 v14
        clear_value v13
        clear_value v14
        refine @keeps_ite _ (Keeps g s0) _ _ _ _ ?_ ?_
        ·
          refine answer_keeps (hg.sub rfl) _ _ _ _ _ _ _ _ ?_
          with_reducible assumption
        ·
          refine answer_keeps (hg.sub rfl) _ _ _ _ _ _ _ _ ?_
          refine keeps_foldl (P := Keeps g s0) (fun b15 x16 h17 => ?_) _ _ ?_
          ·
            refine applyUpdate_keeps (hg.sub rfl) _ _ _ _ ?_
            with_reducible assumption
          ·
            with_reducible assumption
    ·
      with_reducible assumption
  ·
    with_reducible assumption

theorem execOwnerCommit_keeps (hg : Free 12286286624 g) : ∀ a0 a1 s, Keeps g s0 s → KeepsN g s0 (execOwnerCommit a0 a1 s) := by
  intro a0 a1 s h
  unfold execOwnerCommit
  refine KeepsN.next ?_
  refine replyPump_keeps (hg.sub rfl) _ ?_
  refine ownerCommit_keeps (hg.sub rfl) _ _ _ ?_
  refine absorb_keeps (hg.sub rfl) _ ?_
  with_reducible assumption

theorem advanceStart_keeps (hg : Free 12328229664 g) : ∀ a0 s, Keeps g s0 s → Keeps g s0 (advanceStart a0 s) := by
  intro a0 s h
  unfold advanceStart
  extract_lets +onlyGivenNames v1
  clear_value v1
  split
  ·
    rename_i y2 y3 y4 y5
    refine refuseOp_keeps (hg.sub rfl) _ _ _ _ _ ?_
    with_reducible assumption
  ·
    rename_i y6 y7 y8 y9
    refine refuseOp_keeps (hg.sub rfl) _ _ _ _ _ ?_
    with_reducible assumption
  ·
    rename_i y10 y11 y12 y13 y14 y15
    split
    ·
      rename_i y16 y17 y18
      refine refuseOp_keeps (hg.sub rfl) _ _ _ _ _ ?_
      with_reducible assumption
    ·
      rename_i y19 y20 y21
      refine beginRun_keeps (hg.sub rfl) _ _ _ _ _ ?_
      with_reducible assumption

theorem postPiece_keeps (hg : Free 8657043456 g) : ∀ a0 a1 a2 a3 s, Keeps g s0 s → Keeps g s0 (postPiece a0 a1 a2 a3 s) := by
  intro a0 a1 a2 a3 s h
  unfold postPiece
  extract_lets +onlyGivenNames v1
  clear_value v1
  refine @keeps_ite _ (Keeps g s0) _ _ _ _ ?_ ?_
  ·
    refine answer_keeps (hg.sub rfl) _ _ _ _ _ _ _ _ ?_
    with_reducible assumption
  ·
    extract_lets +onlyGivenNames v2
    clear_value v2
    refine keeps_exch (s := s) (hg.sub rfl) ?_
    with_reducible assumption

theorem searchStep_keeps (hg : Free 12328229664 g) : ∀ a0 a1 a2 a3 a4 s, (∀ x0 t, Keeps g s0 t → Keeps g s0 (a2 x0 t)) → Keeps g s0 s → Keeps g s0 (searchStep a0 a1 a2 a3 a4 s) := by
  intro a0 a1 a2 a3 a4 s hk0 h
  unfold searchStep
  extract_lets +onlyGivenNames v1
  refine Keeps.cut (g := g) (s0 := s0) v1 ?_ (fun h2 => ?_)
  ·
    unfold v1
    refine settle_keeps (hg.sub rfl) _ _ ?_
    refine absorb_keeps (hg.sub rfl) _ ?_
    with_reducible assumption
  clear_value v1
  split
  ·
    rename_i y3 y4
    with_reducible assumption
  ·
    rename_i y5 y6 y7
    refine @keeps_ite _ (Keeps g s0) _ _ _ _ ?_ ?_
    ·
      with_reducible assumption
    ·
      refine @keeps_ite _ (Keeps g s0) _ _ _ _ ?_ ?_
      ·
        refine exchPump_keeps (hg.sub rfl) _ _ _ _ (fun x8 x9 x10 x11 x12 h13 => ?_) ?_
        ·
          refine postPiece_keeps (hg.sub rfl) _ _ _ _ _ ?_
          with_reducible assumption
        ·
          with_reducible assumption
      ·
        refine withOperands_keeps (hg.sub rfl) _ _ _ _ _ (fun x14 x15 h16 => ?_) ?_
        ·
          refine withOperands_keeps (hg.sub rfl) _ _ _ _ _ (fun x17 x18 h19 => ?_) ?_
          ·
            refine exchPump_keeps (hg.sub rfl) _ _ _ _ (fun x20 x21 x22 x23 x24 h25 => ?_) ?_
            ·
              refine postPiece_keeps (hg.sub rfl) _ _ _ _ _ ?_
              with_reducible assumption
            ·
              refine hk0 _ _ ?_
              with_reducible assumption
          ·
            with_reducible assumption
        ·
          with_reducible assumption

theorem execIndexAdvance_keeps (hg : Free 12328229664 g) : ∀ a0 a1 s, Keeps g s0 s → KeepsN g s0 (execIndexAdvance a0 a1 s) := by
  intro a0 a1 s h
  unfold execIndexAdvance
  refine KeepsN.next ?_
  refine searchStep_keeps (hg.sub rfl) _ _ _ _ _ _ (fun x1 x2 h3 => ?_) ?_
  ·
    refine advanceStart_keeps (hg.sub rfl) _ _ ?_
    with_reducible assumption
  ·
    with_reducible assumption

theorem setGraphOk_keeps (hg : Free 3629243168 g) : ∀ a0 a1 a2 a3 a4 s, Keeps g s0 s → Keeps2 g s0 (setGraphOk a0 a1 a2 a3 a4 s) := by
  intro a0 a1 a2 a3 a4 s h
  unfold setGraphOk
  split
  ·
    rename_i y1 y2 y3 y4
    refine Keeps2.mk ?_
    with_reducible assumption
  ·
    rename_i y5 y6 y7
    refine vwrite_keeps (hg.sub rfl) _ _ _ _ _ ?_
    with_reducible assumption

theorem checkEnd_keeps (hg : Free 12328229664 g) : ∀ a0 a1 s, Keeps g s0 s → Keeps g s0 (checkEnd a0 a1 s) := by
  intro a0 a1 s h
  unfold checkEnd
  refine @keeps_ite _ (Keeps g s0) _ _ _ _ ?_ ?_
  ·
    refine refuseOp_keeps (hg.sub rfl) _ _ _ _ _ ?_
    with_reducible assumption
  ·
    refine vAtRest_keeps (hg.sub rfl) _ _ _ _ _ (fun x1 h2 => ?_) ?_
    ·
      split
      ·
        rename_i y3 y4 y5 y6
        refine Keeps.cut (g := g) (s0 := s0) y5 (Keeps2.of_eq ?_ y6) (fun h7 => ?_)
        ·
          refine setGraphOk_keeps (hg.sub rfl) _ _ _ _ _ _ ?_
          with_reducible assumption
        split
        ·
          rename_i y8 y9 y10
          refine refuseOp_keeps (hg.sub rfl) _ _ _ _ _ ?_
          with_reducible assumption
        ·
          rename_i y11
          refine finishJob_keeps (hg.sub rfl) _ _ _ _ _ ?_
          with_reducible assumption
    ·
      with_reducible assumption

theorem checkFrom_keeps (hg : Free 12328229664 g) : ∀ a0 a1 a2 a3 s, Keeps g s0 s → Keeps g s0 (checkFrom a0 a1 a2 a3 s) := by
  intro a0 a1 a2 a3 s
  induction a2 generalizing a0 a1 a3 s
  ·
    intro h1
    unfold checkFrom
    refine checkEnd_keeps (hg.sub rfl) _ _ _ ?_
    with_reducible assumption
  ·
    rename_i y2 y3
    intro h4
    unfold checkFrom
    extract_lets +onlyGivenNames v5
    clear_value v5
    refine vAtRest_keeps (hg.sub rfl) _ _ _ _ _ (fun x6 h7 => ?_) ?_
    ·
      split
      ·
        rename_i y8 y9 y10 y11
        refine refuseOp_keeps (hg.sub rfl) _ _ _ _ _ ?_
        with_reducible assumption
      ·
        rename_i y12 y13
        refine y3 _ _ _ _ ?_
        refine countVirtual_keeps (hg.sub rfl) _ _ _ _ _ ?_
        with_reducible assumption
    ·
      refine updJob_keeps (hg.sub rfl) _ _ _ _ ?_
      with_reducible assumption

theorem checkIndex_keeps (hg : Free 12328229664 g) : ∀ a0 s, Keeps g s0 s → Keeps g s0 (checkIndex a0 s) := by
  intro a0 s h
  unfold checkIndex
  split
  ·
    rename_i y1 y2 y3
    refine refuseOp_keeps (hg.sub rfl) _ _ _ _ _ ?_
    with_reducible assumption
  ·
    rename_i y4 y5 y6
    refine checkFrom_keeps (hg.sub rfl) _ _ _ _ _ ?_
    with_reducible assumption

theorem execCheck_keeps (hg : Free 12328229664 g) : ∀ a0 a1 s, Keeps g s0 s → KeepsN g s0 (execCheck a0 a1 s) := by
  intro a0 a1 s h
  unfold execCheck
  extract_lets +onlyGivenNames v1
  refine Keeps.cut (g := g) (s0 := s0) v1 ?_ (fun h2 => ?_)
  ·
    unfold v1
    refine settle_keeps (hg.sub rfl) _ _ ?_
    refine absorb_keeps (hg.sub rfl) _ ?_
    with_reducible assumption
  clear_value v1
  refine KeepsN.next ?_
  split
  ·
    rename_i y3 y4 y5
    refine @keeps_ite _ (Keeps g s0) _ _ _ _ ?_ ?_
    ·
      refine withOperands_keeps (hg.sub rfl) _ _ _ _ _ (fun x6 x7 h8 => ?_) ?_
      ·
        refine checkIndex_keeps (hg.sub rfl) _ _ ?_
        with_reducible assumption
      ·
        with_reducible assumption
    ·
      with_reducible assumption
  ·
    rename_i y9 y10
    with_reducible assumption

theorem serveDelete_keeps (hg : Free 12286286624 g) : ∀ a0 a1 a2 s, Keeps g s0 s → Keeps g s0 (serveDelete a0 a1 a2 s) := by
  intro a0 a1 a2 s h
  unfold serveDelete
  extract_lets +onlyGivenNames v1 v2 v3
  clear_value v1
  clear_value v2
  clear_value v3
  split
  ·
    rename_i y4 y5 y6
    refine answer_keeps (hg.sub rfl) _ _ _ _ _ _ _ _ ?_
    with_reducible assumption
  ·
    rename_i y7 y8
    extract_lets +onlyGivenNames v9
    clear_value v9
    refine servedReads_keeps (hg.sub rfl) _ _ _ _ _ (fun x10 h11 => ?_) ?_
    ·
      refine vAtRest_keeps (hg.sub rfl) _ _ _ _ _ (fun x12 h13 => ?_) ?_
      ·
        split
        ·
          rename_i y14 y15 y16 y17
          refine Keeps.cut (g := g) (s0 := s0) y16 (Keeps2.of_eq ?_ y17) (fun h18 => ?_)
          ·
            refine keeps_foldl (P := Keeps2 g s0) (fun b19 x20 h21 => ?_) _ _ ?_
            ·
              extract_lets +onlyGivenNames v22
              refine Keeps.cut (g := g) (s0 := s0) v22 ?_ (fun h23 => ?_)
              ·
                unfold v22
                refine Keeps2.snd ?_
                with_reducible assumption
              clear_value v22
              refine @keeps_ite _ (Keeps2 g s0) _ _ _ _ ?_ ?_
              ·
                with_reducible assumption
              ·
                extract_lets +onlyGivenNames v24
                clear_value v24
                split
                ·
                  rename_i y25 y26 y27 y28
                  refine Keeps2.mk ?_
                  with_reducible assumption
                ·
                  rename_i y29 y30 y31
                  extract_lets +onlyGivenNames v32
                  clear_value v32
                  refine @keeps_ite _ (Keeps2 g s0) _ _ _ _ ?_ ?_
                  ·
                    refine Keeps2.mk ?_
                    with_reducible assumption
                  ·
                    extract_lets +onlyGivenNames v33
                    refine Keeps2.cut (g := g) (s0 := s0) v33 ?_ (fun h34 => ?_)
                    ·
                      unfold v33
                      refine vwrite_keeps (hg.sub rfl) _ _ _ _ _ ?_
                      with_reducible assumption
                    clear_value v33
                    refine Keeps2.mk ?_
                    refine Keeps2.snd ?_
                    with_reducible assumption
            ·
              refine Keeps2.mk ?_
              with_reducible assumption
          split
          ·
            rename_i y35 y36
            refine answer_keeps (hg.sub rfl) _ _ _ _ _ _ _ _ ?_
            with_reducible assumption
          ·
            rename_i y37
            refine answer_keeps (hg.sub rfl) _ _ _ _ _ _ _ _ ?_
            with_reducible assumption
      ·
        with_reducible assumption
    ·
      with_reducible assumption

theorem vwrites_keeps (hg : Free 3629243168 g) : ∀ a0 a1 a2 s, Keeps g s0 s → Keeps2 g s0 (vwrites a0 a1 a2 s) := by
  intro a0 a1 a2 s
  induction a2 generalizing a0 a1 s
  ·
    intro h1
    unfold vwrites
    refine Keeps2.mk ?_
    with_reducible assumption
  ·
    rename_i y2 y3 y4
    intro h5
    unfold vwrites
    split
    ·
      rename_i y6 y7 y8 y9 y10
      refine Keeps.cut (g := g) (s0 := s0) y9 (Keeps2.of_eq ?_ y10) (fun h11 => ?_)
      ·
        refine vwrite_keeps (hg.sub rfl) _ _ _ _ _ ?_
        with_reducible assumption
      refine Keeps2.mk ?_
      with_reducible assumption
    ·
      rename_i y12 y13 y14
      refine Keeps.cut (g := g) (s0 := s0) y13 (Keeps2.of_eq ?_ y14) (fun h15 => ?_)
      ·
        refine vwrite_keeps (hg.sub rfl) _ _ _ _ _ ?_
        with_reducible assumption
      refine y4 _ _ _ ?_
      with_reducible assumption

theorem insertOne_keeps (hg : Free 3629243168 g) : ∀ a0 a1 a2 a3 a4 a5 a6 a7 s, Keeps g s0 s → Keeps2 g s0 (insertOne a0 a1 a2 a3 a4 a5 a6 a7 s) := by
  intro a0 a1 a2 a3 a4 a5 a6 a7 s h
  unfold insertOne
  extract_lets +onlyGivenNames v1 v2 v3 v4 v5
  clear_value v1
  clear_value v2
  clear_value v3
  clear_value v4
  clear_value v5
  split
  ·
    rename_i y6 y7 y8
    refine Keeps2.mk ?_
    with_reducible assumption
  ·
    rename_i y9 y10 y11 y12 y13
    refine vwrites_keeps (hg.sub rfl) _ _ _ _ ?_
    with_reducible assumption

theorem insertStart_keeps (hg : Free 12328229664 g) : ∀ a0 s, Keeps g s0 s → Keeps g s0 (insertStart a0 s) := by
  intro a0 s h
  unfold insertStart
  extract_lets +onlyGivenNames v1 v2
  clear_value v1
  clear_value v2
  split
  ·
    rename_i y3 y4 y5 y6
    refine refuseOp_keeps (hg.sub rfl) _ _ _ _ _ ?_
    with_reducible assumption
  ·
    rename_i y7 y8 y9 y10
    refine refuseOp_keeps (hg.sub rfl) _ _ _ _ _ ?_
    with_reducible assumption
  ·
    rename_i y11 y12 y13 y14 y15 y16
    refine @keeps_ite _ (Keeps g s0) _ _ _ _ ?_ ?_
    ·
      refine refuseOp_keeps (hg.sub rfl) _ _ _ _ _ ?_
      with_reducible assumption
    ·
      split
      ·
        rename_i y17 y18 y19 y20 y21 y22
        refine refuseOp_keeps (hg.sub rfl) _ _ _ _ _ ?_
        with_reducible assumption
      ·
        rename_i y23 y24 y25 y26 y27 y28 y29 y30
        refine refuseOp_keeps (hg.sub rfl) _ _ _ _ _ ?_
        with_reducible assumption
      ·
        rename_i y31 y32 y33 y34 y35 y36 y37 y38 y39
        refine refuseOp_keeps (hg.sub rfl) _ _ _ _ _ ?_
        with_reducible assumption
      ·
        rename_i y40 y41 y42 y43 y44 y45 y46 y47 y48 y49
        refine refuseOp_keeps (hg.sub rfl) _ _ _ _ _ ?_
        with_reducible assumption
      ·
        rename_i y50 y51 y52 y53 y54 y55 y56 y57 y58 y59 y60 y61
        extract_lets +onlyGivenNames v62
        clear_value v62
        refine @keeps_ite _ (Keeps g s0) _ _ _ _ ?_ ?_
        ·
          refine refuseOp_keeps (hg.sub rfl) _ _ _ _ _ ?_
          with_reducible assumption
        ·
          extract_lets +onlyGivenNames v63 v64
          clear_value v63
          clear_value v64
          refine beginRun_keeps (hg.sub rfl) _ _ _ _ _ ?_
          with_reducible assumption

theorem execInsert_keeps (hg : Free 12328229664 g) : ∀ a0 a1 s, Keeps g s0 s → KeepsN g s0 (execInsert a0 a1 s) := by
  intro a0 a1 s h
  unfold execInsert
  refine KeepsN.next ?_
  refine searchStep_keeps (hg.sub rfl) _ _ _ _ _ _ (fun x1 x2 h3 => ?_) ?_
  ·
    refine insertStart_keeps (hg.sub rfl) _ _ ?_
    with_reducible assumption
  ·
    with_reducible assumption

theorem insertAllOf_keeps (hg : Free 3629243168 g) : ∀ a0 a1 a2 a3 s, Keeps g s0 s → Keeps2 g s0 (insertAllOf a0 a1 a2 a3 s) := by
  intro a0 a1 a2 a3 s
  induction a3 generalizing a0 a1 a2 s
  ·
    intro h1
    unfold insertAllOf
    refine Keeps2.mk ?_
    with_reducible assumption
  ·
    rename_i y2 y3 y4
    intro h5
    unfold insertAllOf
    split
    ·
      rename_i y6 y7 y8
      refine Keeps.cut (g := g) (s0 := s0) y7 (Keeps2.of_eq ?_ y8) (fun h9 => ?_)
      ·
        refine insertOne_keeps (hg.sub rfl) _ _ _ _ _ _ _ _ _ ?_
        with_reducible assumption
      refine y4 _ _ _ _ ?_
      with_reducible assumption
    ·
      rename_i y10 y11
      refine insertOne_keeps (hg.sub rfl) _ _ _ _ _ _ _ _ _ ?_
      with_reducible assumption

theorem serveInsert_keeps (hg : Free 12286286624 g) : ∀ a0 a1 a2 s, Keeps g s0 s → Keeps g s0 (serveInsert a0 a1 a2 s) := by
  intro a0 a1 a2 s h
  unfold serveInsert
  extract_lets +onlyGivenNames v1 v2 v3 v4 v5 v6 v7 v8
  clear_value v1
  clear_value v2
  clear_value v3
  clear_value v4
  clear_value v5
  clear_value v6
  clear_value v7
  clear_value v8
  refine servedReads_keeps (hg.sub rfl) _ _ _ _ _ (fun x9 h10 => ?_) ?_
  ·
    refine vAtRest_keeps (hg.sub rfl) _ _ _ _ _ (fun x11 h12 => ?_) ?_
    ·
      extract_lets +onlyGivenNames v13
      refine Keeps.cut (g := g) (s0 := s0) v13 ?_ (fun h14 => ?_)
      ·
        unfold v13
        refine keeps_freeCtr (s := x11) (hg.sub rfl) ?_
        with_reducible assumption
      clear_value v13
      split
      ·
        rename_i y15 y16 y17
        refine answer_keeps (hg.sub rfl) _ _ _ _ _ _ _ _ ?_
        with_reducible assumption
      ·
        rename_i y18 y19
        extract_lets +onlyGivenNames v20 v21 v22
        clear_value v20
        clear_value v21
        clear_value v22
        refine @keeps_ite _ (Keeps g s0) _ _ _ _ ?_ ?_
        ·
          refine answer_keeps (hg.sub rfl) _ _ _ _ _ _ _ _ ?_
          with_reducible assumption
        ·
          refine @keeps_ite _ (Keeps g s0) _ _ _ _ ?_ ?_
          ·
            refine answer_keeps (hg.sub rfl) _ _ _ _ _ _ _ _ ?_
            with_reducible assumption
          ·
            extract_lets +onlyGivenNames v23 v24
            clear_value v23
            clear_value v24
            split
            ·
              rename_i y25 y26 y27 y28
              refine Keeps.cut (g := g) (s0 := s0) y27 (Keeps2.of_eq ?_ y28) (fun h29 => ?_)
              ·
                refine insertAllOf_keeps (hg.sub rfl) _ _ _ _ _ ?_
                with_reducible assumption
              refine answer_keeps (hg.sub rfl) _ _ _ _ _ _ _ _ ?_
              with_reducible assumption
            ·
              rename_i y30 y31 y32
              refine Keeps.cut (g := g) (s0 := s0) y31 (Keeps2.of_eq ?_ y32) (fun h33 => ?_)
              ·
                refine insertAllOf_keeps (hg.sub rfl) _ _ _ _ _ ?_
                with_reducible assumption
              extract_lets +onlyGivenNames v34
              refine Keeps.cut (g := g) (s0 := s0) v34 ?_ (fun h35 => ?_)
              ·
                unfold v34
                refine Keeps2.snd ?_
                refine vwrite_keeps (hg.sub rfl) _ _ _ _ _ ?_
                with_reducible assumption
              clear_value v34
              refine answer_keeps (hg.sub rfl) _ _ _ _ _ _ _ _ ?_
              with_reducible assumption
    ·
      with_reducible assumption
  ·
    with_reducible assumption

theorem serveQueries_keeps (hg : Free 8657050112 g) : ∀ a0 a1 a2 s, Keeps g s0 s → Keeps g s0 (serveQueries a0 a1 a2 s) := by
  intro a0 a1 a2 s h
  unfold serveQueries
  extract_lets +onlyGivenNames v1 v2 v3
  clear_value v1
  clear_value v2
  clear_value v3
  refine @keeps_ite _ (Keeps g s0) _ _ _ _ ?_ ?_
  ·
    refine answer_keeps (hg.sub rfl) _ _ _ _ _ _ _ _ ?_
    with_reducible assumption
  ·
    extract_lets +onlyGivenNames v4 v5
    clear_value v4
    clear_value v5
    refine servedReads_keeps (hg.sub rfl) _ _ _ _ _ (fun x6 h7 => ?_) ?_
    ·
      split
      ·
        rename_i y8 y9 y10
        refine answer_keeps (hg.sub rfl) _ _ _ _ _ _ _ _ ?_
        with_reducible assumption
      ·
        rename_i y11 y12
        refine answer_keeps (hg.sub rfl) _ _ _ _ _ _ _ _ ?_
        with_reducible assumption
    ·
      with_reducible assumption

theorem serveAdvance_keeps (hg : Free 12286286624 g) : ∀ a0 a1 a2 s, Keeps g s0 s → Keeps g s0 (serveAdvance a0 a1 a2 s) := by
  intro a0 a1 a2 s h
  unfold serveAdvance
  extract_lets +onlyGivenNames v1 v2
  clear_value v1
  clear_value v2
  refine @keeps_ite _ (Keeps g s0) _ _ _ _ ?_ ?_
  ·
    refine servedReads_keeps (hg.sub rfl) _ _ _ _ _ (fun x3 h4 => ?_) ?_
    ·
      refine vAtRest_keeps (hg.sub rfl) _ _ _ _ _ (fun x5 h6 => ?_) ?_
      ·
        split
        ·
          rename_i y7 y8 y9 y10
          refine Keeps.cut (g := g) (s0 := s0) y9 (Keeps2.of_eq ?_ y10) (fun h11 => ?_)
          ·
            refine vwrite_keeps (hg.sub rfl) _ _ _ _ _ ?_
            with_reducible assumption
          split
          ·
            rename_i y12 y13 y14
            refine answer_keeps (hg.sub rfl) _ _ _ _ _ _ _ _ ?_
            with_reducible assumption
          ·
            rename_i y15
            refine answer_keeps (hg.sub rfl) _ _ _ _ _ _ _ _ ?_
            with_reducible assumption
      ·
        with_reducible assumption
    ·
      with_reducible assumption
  ·
    refine @keeps_ite _ (Keeps g s0) _ _ _ _ ?_ ?_
    ·
      refine answer_keeps (hg.sub rfl) _ _ _ _ _ _ _ _ ?_
      with_reducible assumption
    ·
      refine answer_keeps (hg.sub rfl) _ _ _ _ _ _ _ _ ?_
      with_reducible assumption

theorem serveSearch_keeps (hg : Free 12286286624 g) : ∀ a0 a1 s, Keeps g s0 s → Keeps g s0 (serveSearch a0 a1 s) := by
  intro a0 a1 s h
  unfold serveSearch
  extract_lets +onlyGivenNames v1
  clear_value v1
  split
  ·
    rename_i y2 y3 y4
    refine answer_keeps (hg.sub rfl) _ _ _ _ _ _ _ _ ?_
    with_reducible assumption
  ·
    rename_i y5 y6 y7
    split
    ·
      rename_i y8 y9 y10
      refine answer_keeps (hg.sub rfl) _ _ _ _ _ _ _ _ ?_
      with_reducible assumption
    ·
      rename_i y11 y12
      extract_lets +onlyGivenNames v13 v14 v15
      clear_value v13
      refine Keeps.cut (g := g) (s0 := s0) v14 ?_ (fun h16 => ?_)
      ·
        unfold v14
        refine @keeps_ite _ (Keeps g s0) _ _ _ _ ?_ ?_
        ·
          refine addRef_keeps (hg.sub rfl) _ _ ?_
          refine updPosted_keeps (hg.sub rfl) _ _ _ ?_
          with_reducible assumption
        ·
          refine updPosted_keeps (hg.sub rfl) _ _ _ ?_
          with_reducible assumption
      clear_value v14
      clear_value v15
      split
      ·
        rename_i y17 y18
        refine serveQueries_keeps (hg.sub rfl) _ _ _ _ ?_
        with_reducible assumption
      ·
        rename_i y19 y20
        refine serveInsert_keeps (hg.sub rfl) _ _ _ _ ?_
        with_reducible assumption
      ·
        rename_i y21 y22
        refine serveDelete_keeps (hg.sub rfl) _ _ _ _ ?_
        with_reducible assumption
      ·
        rename_i y23 y24
        refine serveAdvance_keeps (hg.sub rfl) _ _ _ _ ?_
        with_reducible assumption
      ·
        rename_i y25 y26 y27 y28 y29
        refine answer_keeps (hg.sub rfl) _ _ _ _ _ _ _ _ ?_
        with_reducible assumption

theorem deleteStart_keeps (hg : Free 12328229664 g) : ∀ a0 s, Keeps g s0 s → Keeps g s0 (deleteStart a0 s) := by
  intro a0 s h
  unfold deleteStart
  extract_lets +onlyGivenNames v1 v2
  clear_value v1
  clear_value v2
  split
  ·
    rename_i y3 y4 y5 y6
    refine refuseOp_keeps (hg.sub rfl) _ _ _ _ _ ?_
    with_reducible assumption
  ·
    rename_i y7 y8 y9 y10
    refine refuseOp_keeps (hg.sub rfl) _ _ _ _ _ ?_
    with_reducible assumption
  ·
    rename_i y11 y12 y13 y14 y15 y16
    split
    ·
      rename_i y17 y18 y19 y20
      refine refuseOp_keeps (hg.sub rfl) _ _ _ _ _ ?_
      with_reducible assumption
    ·
      rename_i y21 y22 y23 y24 y25 y26
      refine refuseOp_keeps (hg.sub rfl) _ _ _ _ _ ?_
      with_reducible assumption
    ·
      rename_i y27 y28 y29 y30 y31 y32
      extract_lets +onlyGivenNames v33
      clear_value v33
      split
      ·
        rename_i y34 y35 y36
        refine refuseOp_keeps (hg.sub rfl) _ _ _ _ _ ?_
        with_reducible assumption
      ·
        rename_i y37 y38
        extract_lets +onlyGivenNames v39 v40
        clear_value v39
        clear_value v40
        refine beginRun_keeps (hg.sub rfl) _ _ _ _ _ ?_
        with_reducible assumption

theorem queryStart_keeps (hg : Free 12328229664 g) : ∀ a0 s, Keeps g s0 s → Keeps g s0 (queryStart a0 s) := by
  intro a0 s h
  unfold queryStart
  extract_lets +onlyGivenNames v1 v2 v3
  clear_value v1
  clear_value v2
  clear_value v3
  split
  ·
    rename_i y4 y5 y6 y7
    refine refuseOp_keeps (hg.sub rfl) _ _ _ _ _ ?_
    with_reducible assumption
  ·
    rename_i y8 y9 y10 y11
    refine refuseOp_keeps (hg.sub rfl) _ _ _ _ _ ?_
    with_reducible assumption
  ·
    rename_i y12 y13 y14 y15 y16 y17
    refine @keeps_ite _ (Keeps g s0) _ _ _ _ ?_ ?_
    ·
      refine refuseOp_keeps (hg.sub rfl) _ _ _ _ _ ?_
      with_reducible assumption
    ·
      split
      ·
        rename_i y18 y19 y20 y21 y22
        refine refuseOp_keeps (hg.sub rfl) _ _ _ _ _ ?_
        with_reducible assumption
      ·
        rename_i y23 y24 y25 y26 y27 y28 y29
        refine refuseOp_keeps (hg.sub rfl) _ _ _ _ _ ?_
        with_reducible assumption
      ·
        rename_i y30 y31 y32 y33 y34 y35 y36 y37
        refine refuseOp_keeps (hg.sub rfl) _ _ _ _ _ ?_
        with_reducible assumption
      ·
        rename_i y38 y39 y40 y41 y42 y43 y44 y45 y46
        extract_lets +onlyGivenNames v47
        clear_value v47
        split
        ·
          rename_i y48 y49 y50
          refine refuseOp_keeps (hg.sub rfl) _ _ _ _ _ ?_
          with_reducible assumption
        ·
          rename_i y51 y52
          extract_lets +onlyGivenNames v53
          clear_value v53
          refine @keeps_ite _ (Keeps g s0) _ _ _ _ ?_ ?_
          ·
            refine refuseOp_keeps (hg.sub rfl) _ _ _ _ _ ?_
            with_reducible assumption
          ·
            extract_lets +onlyGivenNames v54 v55
            clear_value v54
            clear_value v55
            refine beginRun_keeps (hg.sub rfl) _ _ _ _ _ ?_
            with_reducible assumption

theorem execSearchQuery_keeps (hg : Free 12328229664 g) : ∀ a0 a1 s, Keeps g s0 s → KeepsN g s0 (execSearchQuery a0 a1 s) := by
  intro a0 a1 s h
  unfold execSearchQuery
  refine KeepsN.next ?_
  refine searchStep_keeps (hg.sub rfl) _ _ _ _ _ _ (fun x1 x2 h3 => ?_) ?_
  ·
    refine queryStart_keeps (hg.sub rfl) _ _ ?_
    with_reducible assumption
  ·
    with_reducible assumption

theorem execDelete_keeps (hg : Free 12328229664 g) : ∀ a0 a1 s, Keeps g s0 s → KeepsN g s0 (execDelete a0 a1 s) := by
  intro a0 a1 s h
  unfold execDelete
  refine KeepsN.next ?_
  refine searchStep_keeps (hg.sub rfl) _ _ _ _ _ _ (fun x1 x2 h3 => ?_) ?_
  ·
    refine deleteStart_keeps (hg.sub rfl) _ _ ?_
    with_reducible assumption
  ·
    with_reducible assumption

theorem postSlot_keeps (hg : Free 8657043456 g) : ∀ a0 a1 s, Keeps g s0 s → Keeps g s0 (postSlot a0 a1 s) := by
  intro a0 a1 s h
  unfold postSlot
  extract_lets +onlyGivenNames v1
  clear_value v1
  split
  ·
    rename_i y2 y3 y4 y5
    refine @keeps_ite _ (Keeps g s0) _ _ _ _ ?_ ?_
    ·
      with_reducible assumption
    ·
      refine @keeps_ite _ (Keeps g s0) _ _ _ _ ?_ ?_
      ·
        refine postPiece_keeps (hg.sub rfl) _ _ _ _ _ ?_
        with_reducible assumption
      ·
        refine postReply_keeps (hg.sub rfl) _ _ _ _ _ ?_
        with_reducible assumption

theorem withTables_keeps (hg : Free 12328229664 g) : ∀ a0 a1 a2 a3 a4 a5 s, (∀ x0 t, Keeps g s0 t → Keeps g s0 (a5 x0 t)) → Keeps g s0 s → Keeps g s0 (withTables a0 a1 a2 a3 a4 a5 s) := by
  intro a0 a1 a2 a3 a4 a5 s hk0 h
  unfold withTables
  extract_lets +onlyGivenNames v1
  clear_value v1
  refine withOperands_keeps (hg.sub rfl) _ _ _ _ _ (fun x2 x3 h4 => ?_) ?_
  ·
    refine withOperands_keeps (hg.sub rfl) _ _ _ _ _ (fun x5 x6 h7 => ?_) ?_
    ·
      refine withOperands_keeps (hg.sub rfl) _ _ _ _ _ (fun x8 x9 h10 => ?_) ?_
      ·
        refine hk0 _ _ ?_
        with_reducible assumption
      ·
        with_reducible assumption
    ·
      with_reducible assumption
  ·
    with_reducible assumption

theorem mergeRun_keeps (hg : Free 67108864 g) : ∀ a0 a1 s, Keeps g s0 s → Keeps g s0 (mergeRun a0 a1 s) := by
  intro a0 a1 s h
  unfold mergeRun
  split
  ·
    rename_i y1 y2 y3 y4 y5 y6
    refine @keeps_ite _ (Keeps g s0) _ _ _ _ ?_ ?_
    ·
      with_reducible assumption
    ·
      extract_lets +onlyGivenNames v7
      clear_value v7
      refine updRun_keeps (hg.sub rfl) _ _ _ _ ?_
      with_reducible assumption
  ·
    rename_i y8 y9 y10
    with_reducible assumption

theorem runStepOn_keeps (hg : Free 12328229664 g) : ∀ a0 a1 s, Keeps g s0 s → Keeps g s0 (runStepOn a0 a1 s) := by
  intro a0 a1 s h
  unfold runStepOn
  refine exchPump_keeps (hg.sub rfl) _ _ _ _ (fun x1 x2 x3 x4 x5 h6 => ?_) ?_
  ·
    refine postPiece_keeps (hg.sub rfl) _ _ _ _ _ ?_
    with_reducible assumption
  ·
    refine mergeRun_keeps (hg.sub rfl) _ _ _ ?_
    with_reducible assumption

theorem embedStep_keeps (hg : Free 12328229664 g) : ∀ a0 a1 a2 a3 s, (∀ t, Keeps g s0 t → Keeps g s0 (a1 t)) → Keeps g s0 s → Keeps g s0 (embedStep a0 a1 a2 a3 s) := by
  intro a0 a1 a2 a3 s hk0 h
  unfold embedStep
  extract_lets +onlyGivenNames v1
  refine Keeps.cut (g := g) (s0 := s0) v1 ?_ (fun h2 => ?_)
  ·
    unfold v1
    refine settle_keeps (hg.sub rfl) _ _ ?_
    refine absorb_keeps (hg.sub rfl) _ ?_
    with_reducible assumption
  clear_value v1
  split
  ·
    rename_i y3 y4
    with_reducible assumption
  ·
    rename_i y5 y6 y7
    refine @keeps_ite _ (Keeps g s0) _ _ _ _ ?_ ?_
    ·
      with_reducible assumption
    ·
      refine @keeps_ite _ (Keeps g s0) _ _ _ _ ?_ ?_
      ·
        refine runStepOn_keeps (hg.sub rfl) _ _ _ ?_
        with_reducible assumption
      ·
        refine runStepOn_keeps (hg.sub rfl) _ _ _ ?_
        refine hk0 _ ?_
        with_reducible assumption

theorem runAll_keeps (hg : Free 12328229664 g) : ∀ s, Keeps g s0 s → Keeps g s0 (runAll s) := by
  intro s h
  unfold runAll
  refine keeps_foldl (P := Keeps g s0) (fun b1 x2 h3 => ?_) _ _ ?_
  ·
    refine runStepOn_keeps (hg.sub rfl) _ _ _ ?_
    with_reducible assumption
  ·
    with_reducible assumption

theorem takeReply_keeps (hg : Free 12328229664 g) : ∀ a0 a1 s, Keeps g s0 s → Keeps g s0 (takeReply a0 a1 s) := by
  intro a0 a1 s h
  unfold takeReply
  split
  ·
    rename_i y1 y2
    with_reducible assumption
  ·
    rename_i y3 y4 y5
    extract_lets +onlyGivenNames v6 v7
    clear_value v6
    clear_value v7
    extract_lets +onlyGivenNames v8
    refine Keeps.cut (g := g) (s0 := s0) v8 ?_ (fun h9 => ?_)
    ·
      unfold v8
      refine keeps_exch (s := s) (hg.sub rfl) ?_
      with_reducible assumption
    clear_value v8
    refine runAll_keeps (hg.sub rfl) _ ?_
    with_reducible assumption

theorem servePiece_keeps (hg : Free 12286286624 g) : ∀ a0 a1 s, Keeps g s0 s → Keeps g s0 (servePiece a0 a1 s) := by
  intro a0 a1 s h
  unfold servePiece
  refine @keeps_ite _ (Keeps g s0) _ _ _ _ ?_ ?_
  ·
    refine answer_keeps (hg.sub rfl) _ _ _ _ _ _ _ _ ?_
    with_reducible assumption
  ·
    refine @keeps_ite _ (Keeps g s0) _ _ _ _ ?_ ?_
    ·
      refine serveSearch_keeps (hg.sub rfl) _ _ _ ?_
      with_reducible assumption
    ·
      split
      ·
        rename_i y1 y2
        refine serveLookup_keeps (hg.sub rfl) _ _ _ ?_
        with_reducible assumption
      ·
        rename_i y3 y4
        refine serveUpdate_keeps (hg.sub rfl) _ _ _ ?_
        with_reducible assumption
      ·
        rename_i y5 y6 y7
        refine answer_keeps (hg.sub rfl) _ _ _ _ _ _ _ _ ?_
        with_reducible assumption

theorem passMill_keeps (hg : Free 8388608 g) : ∀ a0 a1 s, Keeps g s0 s → Keeps g s0 (passMill a0 a1 s) := by
  intro a0 a1 s h
  unfold passMill
  refine updMill_keeps (hg.sub rfl) _ _ _ ?_
  refine takeMill_keeps (hg.sub rfl) _ _ _ _ _ _ ?_
  with_reducible assumption

theorem piecePosted_keeps (hg : Free 12328229664 g) : ∀ a0 a1 s, Keeps g s0 s → Keeps g s0 (piecePosted a0 a1 s) := by
  intro a0 a1 s h
  unfold piecePosted
  extract_lets +onlyGivenNames v1
  refine Keeps.cut (g := g) (s0 := s0) v1 ?_ (fun h2 => ?_)
  ·
    unfold v1
    refine replyPump_keeps (hg.sub rfl) _ ?_
    refine absorb_keeps (hg.sub rfl) _ ?_
    with_reducible assumption
  clear_value v1
  split
  ·
    rename_i y3 y4
    with_reducible assumption
  ·
    rename_i y5 y6 y7
    extract_lets +onlyGivenNames v8 v9
    clear_value v8
    refine Keeps.cut (g := g) (s0 := s0) v9 ?_ (fun h10 => ?_)
    ·
      unfold v9
      refine @keeps_ite _ (Keeps g s0) _ _ _ _ ?_ ?_
      ·
        refine keeps_foldl (P := Keeps g s0) (fun b11 x12 h13 => ?_) _ _ ?_
        ·
          refine answer_keeps (hg.sub rfl) _ _ _ _ _ _ _ _ ?_
          with_reducible assumption
        ·
          with_reducible assumption
      ·
        split
        ·
          rename_i y14 y15 y16
          refine @keeps_ite _ (Keeps g s0) _ _ _ _ ?_ ?_
          ·
            refine servePiece_keeps (hg.sub rfl) _ _ _ ?_
            with_reducible assumption
          ·
            split
            ·
              rename_i y17 y18 y19
              refine servePiece_keeps (hg.sub rfl) _ _ _ ?_
              refine passMill_keeps (hg.sub rfl) _ _ _ ?_
              with_reducible assumption
            ·
              rename_i y20 y21
              with_reducible assumption
        ·
          rename_i y22 y23
          with_reducible assumption
    clear_value v9
    refine runAll_keeps (hg.sub rfl) _ ?_
    refine replyPump_keeps (hg.sub rfl) _ ?_
    with_reducible assumption

theorem execPiecePosted_keeps (hg : Free 12328229664 g) : ∀ a0 a1 s, Keeps g s0 s → KeepsN g s0 (execPiecePosted a0 a1 s) := by
  intro a0 a1 s h
  unfold execPiecePosted
  refine KeepsN.next ?_
  refine piecePosted_keeps (hg.sub rfl) _ _ _ ?_
  with_reducible assumption

theorem execUpdate_keeps (hg : Free 12328229664 g) : ∀ a0 a1 s, Keeps g s0 s → KeepsN g s0 (execUpdate a0 a1 s) := by
  intro a0 a1 s h
  unfold execUpdate
  refine KeepsN.next ?_
  refine embedStep_keeps (hg.sub rfl) _ _ _ _ _ (fun x1 h2 => ?_) ?_
  ·
    refine withTables_keeps (hg.sub rfl) _ _ _ _ _ _ _ (fun x3 x4 h5 => ?_) ?_
    ·
      refine updateStart_keeps (hg.sub rfl) _ _ ?_
      with_reducible assumption
    ·
      with_reducible assumption
  ·
    with_reducible assumption

theorem execLookup_keeps (hg : Free 12328229664 g) : ∀ a0 a1 s, Keeps g s0 s → KeepsN g s0 (execLookup a0 a1 s) := by
  intro a0 a1 s h
  unfold execLookup
  refine KeepsN.next ?_
  refine embedStep_keeps (hg.sub rfl) _ _ _ _ _ (fun x1 h2 => ?_) ?_
  ·
    refine withTables_keeps (hg.sub rfl) _ _ _ _ _ _ _ (fun x3 x4 h5 => ?_) ?_
    ·
      refine lookupStart_keeps (hg.sub rfl) _ _ ?_
      with_reducible assumption
    ·
      with_reducible assumption
  ·
    with_reducible assumption

theorem execReply_keeps (hg : Free 12328229664 g) : ∀ a0 a1 s, Keeps g s0 s → KeepsN g s0 (execReply a0 a1 s) := by
  intro a0 a1 s h
  unfold execReply
  refine KeepsN.next ?_
  refine takeReply_keeps (hg.sub rfl) _ _ _ ?_
  refine absorb_keeps (hg.sub rfl) _ ?_
  with_reducible assumption

theorem execEmbedCommit_keeps (hg : Free 12328229664 g) : ∀ a0 a1 s, Keeps g s0 s → KeepsN g s0 (execEmbedCommit a0 a1 s) := by
  intro a0 a1 s h
  unfold execEmbedCommit
  refine KeepsN.next ?_
  refine embedStep_keeps (hg.sub rfl) _ _ _ _ _ (fun x1 h2 => ?_) ?_
  ·
    refine withTables_keeps (hg.sub rfl) _ _ _ _ _ _ _ (fun x3 x4 h5 => ?_) ?_
    ·
      refine commitStart_keeps (hg.sub rfl) _ _ ?_
      with_reducible assumption
    ·
      with_reducible assumption
  ·
    with_reducible assumption

end Sys2Proof.Safety
end

