-- ==== Sys2Proof/Laws/KeepsRill.lean ====
section
/-!
SUPPORT. Which parts of the state each operation keeps: rill control, the tide, syncs and resets.
-/
namespace Sys2Proof.Safety

open Sys2Proof Sys2Proof.Machine

set_option Elab.async false

variable {g : Part} {s0 : State}

theorem activate_keeps (hg : Free 4294967296 g) : ∀ a0 s, Keeps g s0 s → Keeps g s0 (activate a0 s) := by
  intro a0 s h
  unfold activate
  refine updRill_keeps (hg.sub rfl) _ _ _ ?_
  with_reducible assumption

theorem clearGraphs_keeps (hg : Free 3629243168 g) : ∀ a0 a1 a2 s, Keeps g s0 s → Keeps g s0 (clearGraphs a0 a1 a2 s) := by
  intro a0 a1 a2 s h
  unfold clearGraphs
  refine keeps_foldl (P := Keeps g s0) (fun b1 x2 h3 => ?_) _ _ ?_
  ·
    refine @keeps_ite _ (Keeps g s0) _ _ _ _ ?_ ?_
    ·
      refine Keeps2.snd ?_
      refine setGraphOk_keeps (hg.sub rfl) _ _ _ _ _ _ ?_
      with_reducible assumption
    ·
      with_reducible assumption
  ·
    with_reducible assumption

theorem takeParams_keeps (hg : Free 7924210464 g) : ∀ a0 a1 s, Keeps g s0 s → Keeps2 g s0 (takeParams a0 a1 s) := by
  intro a0 a1 s h
  unfold takeParams
  extract_lets +onlyGivenNames v1 v2 v3 v4
  clear_value v1
  clear_value v2
  refine Keeps.cut (g := g) (s0 := s0) v3 ?_ (fun h5 => ?_)
  ·
    unfold v3
    refine @keeps_ite _ (Keeps g s0) _ _ _ _ ?_ ?_
    ·
      refine countRange_keeps (hg.sub rfl) _ _ _ _ ?_
      with_reducible assumption
    ·
      with_reducible assumption
  clear_value v3
  split
  ·
    rename_i y6 y7
    refine Keeps2.mk ?_
    unfold v4
    refine updRill_keeps (hg.sub rfl) _ _ _ ?_
    with_reducible assumption
  ·
    rename_i y8 y9 y10
    extract_lets +onlyGivenNames v11
    refine Keeps.cut (g := g) (s0 := s0) v11 ?_ (fun h12 => ?_)
    ·
      unfold v11
      unfold v4
      refine updRill_keeps (hg.sub rfl) _ _ _ ?_
      with_reducible assumption
    clear_value v11
    refine @keeps_ite _ (Keeps2 g s0) _ _ _ _ ?_ ?_
    ·
      refine Keeps2.mk ?_
      with_reducible assumption
    ·
      refine @keeps_ite _ (Keeps2 g s0) _ _ _ _ ?_ ?_
      ·
        extract_lets +onlyGivenNames v13
        clear_value v13
        refine @keeps_ite _ (Keeps2 g s0) _ _ _ _ ?_ ?_
        ·
          refine Keeps2.mk ?_
          refine updRill_keeps (hg.sub rfl) _ _ _ ?_
          with_reducible assumption
        ·
          refine Keeps2.mk ?_
          with_reducible assumption
      ·
        refine Keeps2.mk ?_
        refine @keeps_ite _ (Keeps g s0) _ _ _ _ ?_ ?_
        ·
          refine clearGraphs_keeps (hg.sub rfl) _ _ _ _ ?_
          with_reducible assumption
        ·
          with_reducible assumption

theorem rillAnswer_keeps (hg : Free 4194304 g) : ∀ a0 a1 a2 a3 s, Keeps g s0 s → Keeps g s0 (rillAnswer a0 a1 a2 a3 s) := by
  intro a0 a1 a2 a3 s h
  unfold rillAnswer
  extract_lets +onlyGivenNames v1
  clear_value v1
  refine updCtl_keeps (hg.sub rfl) _ _ _ ?_
  with_reducible assumption

theorem rillReject_keeps (hg : Free 4194304 g) : ∀ a0 a1 a2 s, Keeps g s0 s → Keeps g s0 (rillReject a0 a1 a2 s) := by
  intro a0 a1 a2 s h
  unfold rillReject
  refine rillAnswer_keeps (hg.sub rfl) _ _ _ _ _ ?_
  with_reducible assumption

theorem rillDone_keeps (hg : Free 4194304 g) : ∀ a0 a1 s, Keeps g s0 s → Keeps g s0 (rillDone a0 a1 s) := by
  intro a0 a1 s h
  unfold rillDone
  refine rillAnswer_keeps (hg.sub rfl) _ _ _ _ _ ?_
  with_reducible assumption

theorem enableHere_keeps (hg : Free 7924210464 g) : ∀ a0 a1 s, Keeps g s0 s → Keeps g s0 (enableHere a0 a1 s) := by
  intro a0 a1 s h
  unfold enableHere
  extract_lets +onlyGivenNames v1 v2
  clear_value v1
  refine Keeps.cut (g := g) (s0 := s0) v2 ?_ (fun h3 => ?_)
  ·
    unfold v2
    refine @keeps_ite _ (Keeps g s0) _ _ _ _ ?_ ?_
    ·
      refine countRange_keeps (hg.sub rfl) _ _ _ _ ?_
      with_reducible assumption
    ·
      with_reducible assumption
  clear_value v2
  refine @keeps_ite _ (Keeps g s0) _ _ _ _ ?_ ?_
  ·
    refine rillReject_keeps (hg.sub rfl) _ _ _ _ ?_
    with_reducible assumption
  ·
    refine @keeps_ite _ (Keeps g s0) _ _ _ _ ?_ ?_
    ·
      refine rillReject_keeps (hg.sub rfl) _ _ _ _ ?_
      with_reducible assumption
    ·
      split
      ·
        rename_i y4 y5 y6
        refine Keeps.cut (g := g) (s0 := s0) y5 (Keeps2.of_eq ?_ y6) (fun h7 => ?_)
        ·
          refine takeParams_keeps (hg.sub rfl) _ _ _ ?_
          with_reducible assumption
        refine rillReject_keeps (hg.sub rfl) _ _ _ _ ?_
        with_reducible assumption
      ·
        rename_i y8 y9 y10 y11
        refine Keeps.cut (g := g) (s0 := s0) y10 (Keeps2.of_eq ?_ y11) (fun h12 => ?_)
        ·
          refine takeParams_keeps (hg.sub rfl) _ _ _ ?_
          with_reducible assumption
        extract_lets +onlyGivenNames v13
        refine Keeps.cut (g := g) (s0 := s0) v13 ?_ (fun h14 => ?_)
        ·
          unfold v13
          refine activate_keeps (hg.sub rfl) _ _ ?_
          refine updRill_keeps (hg.sub rfl) _ _ _ ?_
          with_reducible assumption
        clear_value v13
        refine rillDone_keeps (hg.sub rfl) _ _ _ ?_
        refine @keeps_ite _ (Keeps g s0) _ _ _ _ ?_ ?_
        ·
          with_reducible assumption
        ·
          refine faultRill_keeps (hg.sub rfl) _ _ _ ?_
          with_reducible assumption

theorem dropProbe_keeps (hg : Free 4194304 g) : ∀ a0 s, Keeps g s0 s → Keeps g s0 (dropProbe a0 s) := by
  intro a0 s h
  unfold dropProbe
  refine keeps_rill (s := s) 4194304 (hg.sub rfl) ?_ (.inl rfl) (.inr rfl)
  with_reducible assumption

theorem cutRunning_keeps (hg : Free 16639974176 g) : ∀ a0 s, Keeps g s0 s → Keeps g s0 (cutRunning a0 s) := by
  intro a0 s h
  unfold cutRunning
  extract_lets +onlyGivenNames v1 v2
  refine Keeps.cut (g := g) (s0 := s0) v2 ?_ (fun h3 => ?_)
  ·
    unfold v2
    refine keeps_rill (s := s) 4194304 (hg.sub rfl) ?_ (.inl rfl) (.inr rfl)
    with_reducible assumption
  clear_value v2
  extract_lets +onlyGivenNames v4
  refine Keeps.cut (g := g) (s0 := s0) v4 ?_ (fun h5 => ?_)
  ·
    unfold v4
    refine cutFirings_keeps (hg.sub rfl) _ _ _ ?_
    refine eddyFlush_keeps (hg.sub rfl) _ _ ?_
    with_reducible assumption
  clear_value v4
  refine settle_keeps (hg.sub rfl) _ _ ?_
  with_reducible assumption

theorem drainRill_keeps (hg : Free 4299161600 g) : ∀ a0 s, Keeps g s0 s → Keeps g s0 (drainRill a0 s) := by
  intro a0 s h
  unfold drainRill
  extract_lets +onlyGivenNames v1 v2
  clear_value v1
  refine Keeps.cut (g := g) (s0 := s0) v2 ?_ (fun h3 => ?_)
  ·
    unfold v2
    refine @keeps_ite _ (Keeps g s0) _ _ _ _ ?_ ?_
    ·
      refine cancelUnstarted_keeps (hg.sub rfl) _ _ _ ?_
      with_reducible assumption
    ·
      refine updRill_keeps (hg.sub rfl) _ _ _ ?_
      with_reducible assumption
  clear_value v2
  refine updRill_keeps (hg.sub rfl) _ _ _ ?_
  with_reducible assumption

theorem disableRill_keeps (hg : Free 4299161600 g) : ∀ a0 s, Keeps g s0 s → Keeps g s0 (disableRill a0 s) := by
  intro a0 s h
  unfold disableRill
  split
  ·
    rename_i y1 y2
    refine drainRill_keeps (hg.sub rfl) _ _ ?_
    with_reducible assumption
  ·
    rename_i y3 y4
    refine drainRill_keeps (hg.sub rfl) _ _ ?_
    with_reducible assumption
  ·
    rename_i y5 y6
    refine updRill_keeps (hg.sub rfl) _ _ _ ?_
    with_reducible assumption
  ·
    rename_i y7 y8 y9 y10
    with_reducible assumption

theorem abortRill_keeps (hg : Free 16639974176 g) : ∀ a0 s, Keeps g s0 s → Keeps g s0 (abortRill a0 s) := by
  intro a0 s h
  unfold abortRill
  split
  ·
    rename_i y1 y2
    with_reducible assumption
  ·
    rename_i y3 y4
    with_reducible assumption
  ·
    rename_i y5 y6 y7
    refine cutRunning_keeps (hg.sub rfl) _ _ ?_
    refine disableRill_keeps (hg.sub rfl) _ _ ?_
    with_reducible assumption

theorem configureNow_keeps (hg : Free 4299165696 g) : ∀ a0 a1 s, Keeps g s0 s → Keeps g s0 (configureNow a0 a1 s) := by
  intro a0 a1 s h
  unfold configureNow
  extract_lets +onlyGivenNames v1
  clear_value v1
  refine @keeps_ite _ (Keeps g s0) _ _ _ _ ?_ ?_
  ·
    refine rillReject_keeps (hg.sub rfl) _ _ _ _ ?_
    with_reducible assumption
  ·
    extract_lets +onlyGivenNames v2
    clear_value v2
    refine @keeps_ite _ (Keeps g s0) _ _ _ _ ?_ ?_
    ·
      refine rillReject_keeps (hg.sub rfl) _ _ _ _ ?_
      with_reducible assumption
    ·
      split
      ·
        rename_i y3 y4 y5
        extract_lets +onlyGivenNames v6 v7
        refine Keeps.cut (g := g) (s0 := s0) v6 ?_ (fun h8 => ?_)
        ·
          unfold v6
          refine countRange_keeps (hg.sub rfl) _ _ _ _ ?_
          with_reducible assumption
        clear_value v6
        clear_value v7
        refine @keeps_ite _ (Keeps g s0) _ _ _ _ ?_ ?_
        ·
          refine rillReject_keeps (hg.sub rfl) _ _ _ _ ?_
          with_reducible assumption
        ·
          refine @keeps_ite _ (Keeps g s0) _ _ _ _ ?_ ?_
          ·
            refine rillReject_keeps (hg.sub rfl) _ _ _ _ ?_
            with_reducible assumption
          ·
            refine rillDone_keeps (hg.sub rfl) _ _ _ ?_
            refine updRill_keeps (hg.sub rfl) _ _ _ ?_
            with_reducible assumption
      ·
        rename_i y9 y10
        refine rillReject_keeps (hg.sub rfl) _ _ _ _ ?_
        with_reducible assumption

theorem startProbe_keeps (hg : Free 138418944 g) : ∀ a0 a1 a2 s, Keeps g s0 s → Keeps g s0 (startProbe a0 a1 a2 s) := by
  intro a0 a1 a2 s h
  unfold startProbe
  extract_lets +onlyGivenNames v1 v2 v3 v4 v5
  clear_value v1
  clear_value v2
  clear_value v3
  clear_value v4
  extract_lets +onlyGivenNames v6
  extract_lets +onlyGivenNames v7
  refine Keeps.cut (g := g) (s0 := s0) v7 ?_ (fun h8 => ?_)
  ·
    unfold v7
    refine keeps_update (s := s) 4196352 (hg.sub rfl) ?_ (.inr rfl) (.inr rfl) (.inr rfl) (.inr rfl) (.inr rfl) (.inr rfl) (.inr rfl) (.inr rfl) (.inr rfl) (.inr rfl) (.inr rfl) (.inl rfl) (.inr rfl) (.inr rfl) (.inr rfl) (.inr rfl) (.inr rfl) (.inr rfl) (.inr rfl) (.inr rfl) (.inr rfl) (.inr rfl) (.inl rfl) (.inr rfl) (.inr rfl) (.inr rfl) (.inr rfl) (.inr rfl) (.inr rfl) (.inr rfl) (.inr rfl) (.inr rfl) (.inr rfl) (.inr rfl) (fun m => m)
    with_reducible assumption
  clear_value v7
  refine keeps_foldl (P := Keeps g s0) (fun b9 x10 h11 => ?_) _ _ ?_
  ·
    refine issueIn_keeps (hg.sub rfl) _ _ _ _ ?_
    with_reducible assumption
  ·
    with_reducible assumption

theorem withTable_keeps (hg : Free 138418944 g) : ∀ a0 a1 a2 s, (∀ t, Keeps g s0 t → Keeps g s0 (a1 t)) → (∀ t, Keeps g s0 t → Keeps g s0 (a2 t)) → Keeps g s0 s → Keeps g s0 (withTable a0 a1 a2 s) := by
  intro a0 a1 a2 s hk0 hk1 h
  unfold withTable
  extract_lets +onlyGivenNames v1 v2
  clear_value v1
  clear_value v2
  split
  ·
    rename_i y3 y4 y5 y6 y7
    extract_lets +onlyGivenNames v8
    clear_value v8
    refine @keeps_ite _ (Keeps g s0) _ _ _ _ ?_ ?_
    ·
      refine hk1 _ ?_
      with_reducible assumption
    ·
      split
      ·
        rename_i y9 y10
        refine hk0 _ ?_
        refine startProbe_keeps (hg.sub rfl) _ _ _ _ ?_
        with_reducible assumption
      ·
        rename_i y11 y12 y13
        refine @keeps_ite _ (Keeps g s0) _ _ _ _ ?_ ?_
        ·
          refine hk0 _ ?_
          with_reducible assumption
        ·
          refine dropProbe_keeps (hg.sub rfl) _ _ ?_
          refine hk1 _ ?_
          with_reducible assumption
  ·
    rename_i y14 y15 y16
    refine hk1 _ ?_
    with_reducible assumption

theorem enableNow_keeps (hg : Free 7924210464 g) : ∀ a0 a1 s, Keeps g s0 s → Keeps g s0 (enableNow a0 a1 s) := by
  intro a0 a1 s h
  unfold enableNow
  refine withTable_keeps (hg.sub rfl) _ _ _ _ (fun x1 h2 => ?_) (fun x3 h4 => ?_) ?_
  ·
    refine updCtl_keeps (hg.sub rfl) _ _ _ ?_
    with_reducible assumption
  ·
    refine enableHere_keeps (hg.sub rfl) _ _ _ ?_
    with_reducible assumption
  ·
    with_reducible assumption

theorem rillRun_keeps (hg : Free 16639974176 g) : ∀ a0 a1 a2 s, Keeps g s0 s → Keeps g s0 (rillRun a0 a1 a2 s) := by
  intro a0 a1 a2 s h
  unfold rillRun
  split
  ·
    rename_i y1
    refine configureNow_keeps (hg.sub rfl) _ _ _ ?_
    with_reducible assumption
  ·
    rename_i y2
    split
    ·
      rename_i y3 y4
      refine enableNow_keeps (hg.sub rfl) _ _ _ ?_
      with_reducible assumption
    ·
      rename_i y5 y6
      refine rillDone_keeps (hg.sub rfl) _ _ _ ?_
      refine updRill_keeps (hg.sub rfl) _ _ _ ?_
      with_reducible assumption
    ·
      rename_i y7 y8
      refine rillReject_keeps (hg.sub rfl) _ _ _ _ ?_
      with_reducible assumption
    ·
      rename_i y9 y10 y11 y12
      refine rillDone_keeps (hg.sub rfl) _ _ _ ?_
      with_reducible assumption
  ·
    rename_i y13
    refine rillDone_keeps (hg.sub rfl) _ _ _ ?_
    refine disableRill_keeps (hg.sub rfl) _ _ ?_
    with_reducible assumption
  ·
    rename_i y14
    refine rillDone_keeps (hg.sub rfl) _ _ _ ?_
    refine abortRill_keeps (hg.sub rfl) _ _ ?_
    with_reducible assumption
  ·
    rename_i y15 y16 y17 y18 y19
    refine rillDone_keeps (hg.sub rfl) _ _ _ ?_
    with_reducible assumption

theorem rillCommand_keeps (hg : Free 16639974176 g) : ∀ a0 a1 a2 s, Keeps g s0 s → Keeps g s0 (rillCommand a0 a1 a2 s) := by
  intro a0 a1 a2 s h
  unfold rillCommand
  extract_lets +onlyGivenNames v1
  clear_value v1
  refine @keeps_ite _ (Keeps g s0) _ _ _ _ ?_ ?_
  ·
    refine logIgnored_keeps (hg.sub rfl) _ _ _ _ ?_
    with_reducible assumption
  ·
    refine @keeps_ite _ (Keeps g s0) _ _ _ _ ?_ ?_
    ·
      refine updCtl_keeps (hg.sub rfl) _ _ _ ?_
      with_reducible assumption
    ·
      refine @keeps_ite _ (Keeps g s0) _ _ _ _ ?_ ?_
      ·
        refine rillRun_keeps (hg.sub rfl) _ _ _ _ ?_
        refine touchEntry_keeps (hg.sub rfl) _ _ ?_
        refine dropProbe_keeps (hg.sub rfl) _ _ ?_
        with_reducible assumption
      ·
        refine updCtl_keeps (hg.sub rfl) _ _ _ ?_
        with_reducible assumption

theorem execEnable_keeps (hg : Free 16639974176 g) : ∀ a0 a1 s, Keeps g s0 s → KeepsN g s0 (execEnable a0 a1 s) := by
  intro a0 a1 s h
  unfold execEnable
  refine KeepsN.next ?_
  refine rillCommand_keeps (hg.sub rfl) _ _ _ _ ?_
  with_reducible assumption

theorem execConfigure_keeps (hg : Free 16639974176 g) : ∀ a0 a1 s, Keeps g s0 s → KeepsN g s0 (execConfigure a0 a1 s) := by
  intro a0 a1 s h
  unfold execConfigure
  refine KeepsN.next ?_
  refine rillCommand_keeps (hg.sub rfl) _ _ _ _ ?_
  with_reducible assumption

theorem jobProgress_keeps (hg : Free 16623196960 g) : ∀ a0 a1 s, Keeps g s0 s → Keeps g s0 (jobProgress a0 a1 s) := by
  intro a0 a1 s h
  unfold jobProgress
  split
  ·
    rename_i y1 y2
    with_reducible assumption
  ·
    rename_i y3 y4 y5
    refine @keeps_ite _ (Keeps g s0) _ _ _ _ ?_ ?_
    ·
      with_reducible assumption
    ·
      split
      ·
        rename_i y6 y7 y8 y9
        with_reducible assumption
      ·
        rename_i y10 y11 y12 y13
        refine builtinEnd_keeps (hg.sub rfl) _ _ _ ?_
        refine builtinPump_keeps (hg.sub rfl) _ _ _ _ ?_
        with_reducible assumption
      ·
        rename_i y14 y15 y16 y17
        refine attendPump_keeps (hg.sub rfl) _ _ _ ?_
        with_reducible assumption
      ·
        rename_i y18 y19 y20 y21
        refine retireEnd_keeps (hg.sub rfl) _ _ _ ?_
        with_reducible assumption
      ·
        rename_i y22 y23 y24 y25
        refine buildBooksEnd_keeps (hg.sub rfl) _ _ _ ?_
        with_reducible assumption
      ·
        rename_i y26 y27 y28 y29 y30 y31
        refine codeEnd_keeps (hg.sub rfl) _ _ _ ?_
        with_reducible assumption
      ·
        rename_i y32 y33 y34
        refine runStepOn_keeps (hg.sub rfl) _ _ _ ?_
        with_reducible assumption
      ·
        rename_i y35 y36 y37
        refine runStepOn_keeps (hg.sub rfl) _ _ _ ?_
        with_reducible assumption
      ·
        rename_i y38 y39 y40 y41 y42 y43 y44 y45 y46 y47
        with_reducible assumption

theorem execChunkLanded_keeps (hg : Free 16639974176 g) : ∀ a0 a1 a2 a3 s, Keeps g s0 s → KeepsN g s0 (execChunkLanded a0 a1 a2 a3 s) := by
  intro a0 a1 a2 a3 s h
  unfold execChunkLanded
  refine KeepsN.next ?_
  extract_lets +onlyGivenNames v1
  refine Keeps.cut (g := g) (s0 := s0) v1 ?_ (fun h2 => ?_)
  ·
    unfold v1
    refine settle_keeps (hg.sub rfl) _ _ ?_
    refine absorb_keeps (hg.sub rfl) _ ?_
    with_reducible assumption
  clear_value v1
  refine @keeps_ite _ (Keeps g s0) _ _ _ _ ?_ ?_
  ·
    refine fireStep_keeps (hg.sub rfl) _ _ ?_
    with_reducible assumption
  ·
    refine jobProgress_keeps (hg.sub rfl) _ _ _ ?_
    refine copyChunk_keeps (hg.sub rfl) _ _ _ _ ?_
    with_reducible assumption

theorem takeDesc_keeps (hg : Free 4299161600 g) : ∀ a0 s, Keeps g s0 s → Keeps g s0 (takeDesc a0 s) := by
  intro a0 s h
  unfold takeDesc
  extract_lets +onlyGivenNames v1 v2
  refine Keeps.cut (g := g) (s0 := s0) v1 ?_ (fun h3 => ?_)
  ·
    unfold v1
    refine updRill_keeps (hg.sub rfl) _ _ _ ?_
    refine touchEntry_keeps (hg.sub rfl) _ _ ?_
    with_reducible assumption
  clear_value v1
  clear_value v2
  refine @keeps_ite _ (Keeps g s0) _ _ _ _ ?_ ?_
  ·
    refine keeps_rill (s := v1) 4194304 (hg.sub rfl) ?_ (.inl rfl) (.inr rfl)
    with_reducible assumption
  ·
    with_reducible assumption

theorem rillCacheFill_keeps (hg : Free 16639974176 g) : ∀ a0 s, Keeps g s0 s → Keeps g s0 (rillCacheFill a0 s) := by
  intro a0 s h
  unfold rillCacheFill
  extract_lets +onlyGivenNames v1 v2 v3
  refine Keeps.cut (g := g) (s0 := s0) v1 ?_ (fun h4 => ?_)
  ·
    unfold v1
    refine absorb_keeps (hg.sub rfl) _ ?_
    with_reducible assumption
  clear_value v1
  clear_value v2
  clear_value v3
  refine @keeps_ite _ (Keeps g s0) _ _ _ _ ?_ ?_
  ·
    with_reducible assumption
  ·
    split
    ·
      rename_i y5 y6
      with_reducible assumption
    ·
      rename_i y7 y8 y9
      refine Keeps.cut (g := g) (s0 := s0) y8 (KeepsO.of_eq ?_ y9) (fun h10 => ?_)
      ·
        refine fetchEntry_keeps (hg.sub rfl) _ _ ?_
        with_reducible assumption
      extract_lets +onlyGivenNames v11 v12
      refine Keeps.cut (g := g) (s0 := s0) v12 ?_ (fun h13 => ?_)
      ·
        unfold v12
        refine keeps_rill (s := y8) 4194304 (hg.sub rfl) ?_ (.inl rfl) (.inr rfl)
        with_reducible assumption
      clear_value v12
      extract_lets +onlyGivenNames v14
      extract_lets +onlyGivenNames v15
      refine Keeps.cut (g := g) (s0 := s0) v15 ?_ (fun h16 => ?_)
      ·
        unfold v15
        split
        ·
          rename_i y17 y18 y19
          refine ringBell_keeps (hg.sub rfl) _ _ _ _ ?_
          refine keeps_rill (s := v12) 4194304 (hg.sub rfl) ?_ (.inl rfl) (.inr rfl)
          with_reducible assumption
        ·
          rename_i y20
          with_reducible assumption
      clear_value v15
      refine keeps_foldl (P := Keeps g s0) (fun b21 x22 h23 => ?_) _ _ ?_
      ·
        refine rillRun_keeps (hg.sub rfl) _ _ _ _ ?_
        refine updCtl_keeps (hg.sub rfl) _ _ _ ?_
        with_reducible assumption
      ·
        with_reducible assumption

theorem putJob_keeps (hg : Free 4196352 g) : ∀ a0 s, Keeps g s0 s → Keeps g s0 (putJob a0 s) := by
  intro a0 s h
  unfold putJob
  refine keeps_update (s := s) 4196352 (hg.sub rfl) ?_ (.inr rfl) (.inr rfl) (.inr rfl) (.inr rfl) (.inr rfl) (.inr rfl) (.inr rfl) (.inr rfl) (.inr rfl) (.inr rfl) (.inr rfl) (.inl rfl) (.inr rfl) (.inr rfl) (.inr rfl) (.inr rfl) (.inr rfl) (.inr rfl) (.inr rfl) (.inr rfl) (.inr rfl) (.inr rfl) (.inl rfl) (.inr rfl) (.inr rfl) (.inr rfl) (.inr rfl) (.inr rfl) (.inr rfl) (.inr rfl) (.inr rfl) (.inr rfl) (.inr rfl) (.inr rfl) (fun m => m)
  with_reducible assumption

theorem beginDesc_keeps (hg : Free 16522533664 g) : ∀ a0 a1 a2 s, Keeps g s0 s → Keeps g s0 (beginDesc a0 a1 a2 s) := by
  intro a0 a1 a2 s h
  unfold beginDesc
  extract_lets +onlyGivenNames v1 v2
  refine Keeps.cut (g := g) (s0 := s0) v1 ?_ (fun h3 => ?_)
  ·
    unfold v1
    refine takeMills_keeps (hg.sub rfl) _ _ _ _ _ _ _ ?_
    refine putJob_keeps (hg.sub rfl) _ _ ?_
    refine takeDesc_keeps (hg.sub rfl) _ _ ?_
    with_reducible assumption
  clear_value v1
  refine Keeps.cut (g := g) (s0 := s0) v2 ?_ (fun h4 => ?_)
  ·
    unfold v2
    refine holdNamed_keeps (hg.sub rfl) _ _ ?_
    refine @keeps_ite _ (Keeps g s0) _ _ _ _ ?_ ?_
    ·
      with_reducible assumption
    ·
      refine servedRill_keeps (hg.sub rfl) _ _ _ ?_
      with_reducible assumption
  clear_value v2
  refine @keeps_ite _ (Keeps g s0) _ _ _ _ ?_ ?_
  ·
    split
    ·
      rename_i y5 y6 y7
      refine startBuild_keeps (hg.sub rfl) _ _ _ _ _ _ ?_
      with_reducible assumption
    ·
      rename_i y8 y9
      with_reducible assumption
  ·
    with_reducible assumption

theorem descriptorStart_keeps (hg : Free 16623196960 g) : ∀ a0 s, Keeps g s0 s → Keeps g s0 (descriptorStart a0 s) := by
  intro a0 s h
  unfold descriptorStart
  extract_lets +onlyGivenNames v1 v2 v3
  refine Keeps.cut (g := g) (s0 := s0) v1 ?_ (fun h4 => ?_)
  ·
    unfold v1
    refine absorb_keeps (hg.sub rfl) _ ?_
    with_reducible assumption
  clear_value v1
  clear_value v2
  split
  ·
    rename_i y5 y6
    with_reducible assumption
  ·
    rename_i y7 y8
    refine faultRill_keeps (hg.sub rfl) _ _ _ ?_
    with_reducible assumption
  ·
    rename_i y9 y10 y11 y12 y13
    refine finishJob_keeps (hg.sub rfl) _ _ _ _ _ ?_
    refine takeDesc_keeps (hg.sub rfl) _ _ ?_
    unfold v3
    refine countRange_keeps (hg.sub rfl) _ _ _ _ ?_
    with_reducible assumption
  ·
    rename_i y14 y15 y16 y17
    refine @keeps_ite _ (Keeps g s0) _ _ _ _ ?_ ?_
    ·
      refine beginDesc_keeps (hg.sub rfl) _ _ _ _ ?_
      unfold v3
      refine countRange_keeps (hg.sub rfl) _ _ _ _ ?_
      with_reducible assumption
    ·
      with_reducible assumption

theorem dmaCompletion.hostLanded_keeps (hg : Free 12345006880 g) : ∀ a0 a1 s, Keeps g s0 s → Keeps g s0 (dmaCompletion.hostLanded a0 a1 s) := by
  intro a0 a1 s h
  unfold dmaCompletion.hostLanded
  extract_lets +onlyGivenNames v1
  refine Keeps.cut (g := g) (s0 := s0) v1 ?_ (fun h2 => ?_)
  ·
    unfold v1
    refine absorb_keeps (hg.sub rfl) _ ?_
    with_reducible assumption
  clear_value v1
  split
  ·
    rename_i y3 y4
    with_reducible assumption
  ·
    rename_i y5 y6 y7
    extract_lets +onlyGivenNames v8 v9 v10
    clear_value v8
    clear_value v9
    refine Keeps.cut (g := g) (s0 := s0) v10 ?_ (fun h11 => ?_)
    ·
      unfold v10
      refine updJob_keeps (hg.sub rfl) _ _ _ _ ?_
      with_reducible assumption
    clear_value v10
    refine copyChunk_keeps (hg.sub rfl) _ _ _ _ ?_
    refine settle_keeps (hg.sub rfl) _ _ ?_
    with_reducible assumption

theorem rearmNow_keeps (hg : Free 7924210464 g) : ∀ a0 s, Keeps g s0 s → Keeps g s0 (rearmNow a0 s) := by
  intro a0 s h
  unfold rearmNow
  refine withTable_keeps (hg.sub rfl) _ _ _ _ (fun x1 h2 => ?_) (fun x3 h4 => ?_) ?_
  ·
    with_reducible assumption
  ·
    split
    ·
      rename_i y5 y6 y7
      refine Keeps.cut (g := g) (s0 := s0) y6 (Keeps2.of_eq ?_ y7) (fun h8 => ?_)
      ·
        refine takeParams_keeps (hg.sub rfl) _ _ _ ?_
        with_reducible assumption
      refine activate_keeps (hg.sub rfl) _ _ ?_
      with_reducible assumption
    ·
      rename_i y9 y10 y11 y12 y13
      refine Keeps.cut (g := g) (s0 := s0) y11 (Keeps2.of_eq ?_ y13) (fun h14 => ?_)
      ·
        refine takeParams_keeps (hg.sub rfl) _ _ _ ?_
        with_reducible assumption
      refine faultRill_keeps (hg.sub rfl) _ _ _ ?_
      refine activate_keeps (hg.sub rfl) _ _ ?_
      with_reducible assumption
  ·
    with_reducible assumption

theorem drainComplete_keeps (hg : Free 16623196960 g) : ∀ a0 s, Keeps g s0 s → Keeps g s0 (drainComplete a0 s) := by
  intro a0 s h
  unfold drainComplete
  extract_lets +onlyGivenNames v1 v2 v3
  refine Keeps.cut (g := g) (s0 := s0) v1 ?_ (fun h4 => ?_)
  ·
    unfold v1
    refine settle_keeps (hg.sub rfl) _ _ ?_
    refine absorb_keeps (hg.sub rfl) _ ?_
    with_reducible assumption
  clear_value v1
  clear_value v2
  clear_value v3
  refine @keeps_ite _ (Keeps g s0) _ _ _ _ ?_ ?_
  ·
    with_reducible assumption
  ·
    split
    ·
      rename_i y5 y6
      refine updRill_keeps (hg.sub rfl) _ _ _ ?_
      with_reducible assumption
    ·
      rename_i y7 y8
      refine rearmNow_keeps (hg.sub rfl) _ _ ?_
      with_reducible assumption
    ·
      rename_i y9 y10 y11
      with_reducible assumption

theorem execDrainComplete_keeps (hg : Free 16623196960 g) : ∀ a0 s, Keeps g s0 s → KeepsN g s0 (execDrainComplete a0 s) := by
  intro a0 s h
  unfold execDrainComplete
  refine KeepsN.next ?_
  refine drainComplete_keeps (hg.sub rfl) _ _ ?_
  with_reducible assumption

theorem execPieceComplete_keeps (hg : Free 16639974176 g) : ∀ a0 a1 a2 s, Keeps g s0 s → KeepsN g s0 (execPieceComplete a0 a1 a2 s) := by
  intro a0 a1 a2 s h
  unfold execPieceComplete
  refine KeepsN.next ?_
  extract_lets +onlyGivenNames v1
  refine Keeps.cut (g := g) (s0 := s0) v1 ?_ (fun h2 => ?_)
  ·
    unfold v1
    refine settle_keeps (hg.sub rfl) _ _ ?_
    refine absorb_keeps (hg.sub rfl) _ ?_
    with_reducible assumption
  clear_value v1
  split
  ·
    rename_i y3 y4
    with_reducible assumption
  ·
    rename_i y5 y6 y7
    split
    ·
      rename_i y8 y9 y10
      refine builtinPiece_keeps (hg.sub rfl) _ _ _ _ ?_
      with_reducible assumption
    ·
      rename_i y11 y12 y13 y14
      refine buildBooksEnd_keeps (hg.sub rfl) _ _ _ ?_
      refine bookPiece_keeps (hg.sub rfl) _ _ _ _ ?_
      with_reducible assumption
    ·
      rename_i y15 y16 y17 y18
      refine codeEnd_keeps (hg.sub rfl) _ _ _ ?_
      refine codePiece_keeps (hg.sub rfl) _ _ _ _ ?_
      with_reducible assumption
    ·
      rename_i y19 y20 y21 y22
      refine codeEnd_keeps (hg.sub rfl) _ _ _ ?_
      refine codePiece_keeps (hg.sub rfl) _ _ _ _ ?_
      with_reducible assumption
    ·
      rename_i y23 y24 y25 y26 y27 y28
      with_reducible assumption

theorem dmaCompletion_keeps (hg : Free 12345006880 g) : ∀ a0 a1 s, Keeps g s0 s → Keeps g s0 (dmaCompletion a0 a1 s) := by
  intro a0 a1 s h
  unfold dmaCompletion
  split
  ·
    rename_i y1 y2
    with_reducible assumption
  ·
    rename_i y3 y4 y5
    extract_lets +onlyGivenNames v6
    extract_lets +onlyGivenNames v7
    refine Keeps.cut (g := g) (s0 := s0) v7 ?_ (fun h8 => ?_)
    ·
      unfold v7
      refine keeps_rill (s := s) 4194304 (hg.sub rfl) ?_ (.inl rfl) (.inr rfl)
      with_reducible assumption
    clear_value v7
    refine @keeps_ite _ (Keeps g s0) _ _ _ _ ?_ ?_
    ·
      extract_lets +onlyGivenNames v9
      clear_value v9
      extract_lets +onlyGivenNames v10
      refine Keeps.cut (g := g) (s0 := s0) v10 ?_ (fun h11 => ?_)
      ·
        unfold v10
        refine keeps_exch (s := v7) (hg.sub rfl) ?_
        with_reducible assumption
      clear_value v10
      refine piecePosted_keeps (hg.sub rfl) _ _ _ ?_
      with_reducible assumption
    ·
      refine dmaCompletion.hostLanded_keeps (hg.sub rfl) _ _ _ ?_
      with_reducible assumption

theorem execPcieDmaCompletion_keeps (hg : Free 12345006880 g) : ∀ a0 a1 a2 s, Keeps g s0 s → KeepsN g s0 (execPcieDmaCompletion a0 a1 a2 s) := by
  intro a0 a1 a2 s h
  unfold execPcieDmaCompletion
  refine KeepsN.next ?_
  refine dmaCompletion_keeps (hg.sub rfl) _ _ _ ?_
  with_reducible assumption

theorem execRillQuery_keeps (hg : Free 16639974176 g) : ∀ a0 a1 s, Keeps g s0 s → KeepsN g s0 (execRillQuery a0 a1 s) := by
  intro a0 a1 s h
  unfold execRillQuery
  refine KeepsN.next ?_
  refine rillCommand_keeps (hg.sub rfl) _ _ _ _ ?_
  with_reducible assumption

theorem startNext_keeps (hg : Free 16623196960 g) : ∀ a0 s, Keeps g s0 s → Keeps g s0 (startNext a0 s) := by
  intro a0 s h
  unfold startNext
  extract_lets +onlyGivenNames v1
  clear_value v1
  refine atRest_keeps (hg.sub rfl) _ _ _ _ _ (fun x2 h3 => ?_) ?_
  ·
    refine descriptorStart_keeps (hg.sub rfl) _ _ ?_
    with_reducible assumption
  ·
    with_reducible assumption

theorem execDescriptorStart_keeps (hg : Free 16623196960 g) : ∀ a0 s, Keeps g s0 s → KeepsN g s0 (execDescriptorStart a0 s) := by
  intro a0 s h
  unfold execDescriptorStart
  refine KeepsN.next ?_
  refine startNext_keeps (hg.sub rfl) _ _ ?_
  with_reducible assumption

theorem execRillCacheFill_keeps (hg : Free 16639974176 g) : ∀ a0 s, Keeps g s0 s → KeepsN g s0 (execRillCacheFill a0 s) := by
  intro a0 s h
  unfold execRillCacheFill
  refine KeepsN.next ?_
  refine rillCacheFill_keeps (hg.sub rfl) _ _ ?_
  with_reducible assumption

theorem execDisable_keeps (hg : Free 16639974176 g) : ∀ a0 a1 s, Keeps g s0 s → KeepsN g s0 (execDisable a0 a1 s) := by
  intro a0 a1 s h
  unfold execDisable
  refine KeepsN.next ?_
  refine rillCommand_keeps (hg.sub rfl) _ _ _ _ ?_
  with_reducible assumption

theorem execAbort_keeps (hg : Free 16639974176 g) : ∀ a0 a1 s, Keeps g s0 s → KeepsN g s0 (execAbort a0 a1 s) := by
  intro a0 a1 s h
  unfold execAbort
  refine KeepsN.next ?_
  refine rillCommand_keeps (hg.sub rfl) _ _ _ _ ?_
  with_reducible assumption

theorem setTideFree_keeps (hg : Free 2162688 g) : ∀ a0 s, Keeps g s0 s → Keeps g s0 (setTideFree a0 s) := by
  intro a0 s h
  unfold setTideFree
  refine @keeps_ite _ (Keeps g s0) _ _ _ _ ?_ ?_
  ·
    with_reducible assumption
  ·
    refine logEv_keeps (hg.sub rfl) _ _ _ _ _ _ _ ?_
    refine keeps_tide (s := s) (hg.sub rfl) ?_
    with_reducible assumption

theorem tideMarker_keeps (hg : Free 2162688 g) : ∀ s, Keeps g s0 s → Keeps g s0 (tideMarker s) := by
  intro s h
  unfold tideMarker
  refine @keeps_ite _ (Keeps g s0) _ _ _ _ ?_ ?_
  ·
    with_reducible assumption
  ·
    extract_lets +onlyGivenNames v1 v2 v3 v4
    clear_value v1
    clear_value v2
    clear_value v3
    refine Keeps.cut (g := g) (s0 := s0) v4 ?_ (fun h5 => ?_)
    ·
      unfold v4
      refine keeps_tide (s := s) (hg.sub rfl) ?_
      with_reducible assumption
    clear_value v4
    refine @keeps_ite _ (Keeps g s0) _ _ _ _ ?_ ?_
    ·
      refine setTideFree_keeps (hg.sub rfl) _ _ ?_
      with_reducible assumption
    ·
      extract_lets +onlyGivenNames v6 v7
      clear_value v6
      clear_value v7
      refine setTideFree_keeps (hg.sub rfl) _ _ ?_
      refine keeps_tide (s := v4) (hg.sub rfl) ?_
      with_reducible assumption

theorem execTideMarker_keeps (hg : Free 2162688 g) : ∀ s, Keeps g s0 s → KeepsN g s0 (execTideMarker s) := by
  intro s h
  unfold execTideMarker
  refine KeepsN.next ?_
  refine tideMarker_keeps (hg.sub rfl) _ ?_
  with_reducible assumption

theorem tideLoss_keeps (hg : Free 2162688 g) : ∀ s, Keeps g s0 s → Keeps g s0 (tideLoss s) := by
  intro s h
  unfold tideLoss
  refine @keeps_ite _ (Keeps g s0) _ _ _ _ ?_ ?_
  ·
    with_reducible assumption
  ·
    refine setTideFree_keeps (hg.sub rfl) _ _ ?_
    refine keeps_tide (s := s) (hg.sub rfl) ?_
    with_reducible assumption

theorem tideTick_keeps (hg : Free 2228224 g) : ∀ s, Keeps g s0 s → Keeps g s0 (tideTick s) := by
  intro s h
  unfold tideTick
  extract_lets +onlyGivenNames v1
  extract_lets +onlyGivenNames v2
  refine Keeps.cut (g := g) (s0 := s0) v2 ?_ (fun h3 => ?_)
  ·
    unfold v2
    refine @keeps_ite _ (Keeps g s0) _ _ _ _ ?_ ?_
    ·
      refine keeps_keeper (s := s) 131072 (hg.sub rfl) ?_ (.inr rfl) (.inl rfl)
      with_reducible assumption
    ·
      with_reducible assumption
  clear_value v2
  refine @keeps_ite _ (Keeps g s0) _ _ _ _ ?_ ?_
  ·
    with_reducible assumption
  ·
    extract_lets +onlyGivenNames v4
    clear_value v4
    refine @keeps_ite _ (Keeps g s0) _ _ _ _ ?_ ?_
    ·
      refine keeps_tide (s := v2) (hg.sub rfl) ?_
      with_reducible assumption
    ·
      refine keeps_tide (s := v2) (hg.sub rfl) ?_
      with_reducible assumption

theorem execTideTick_keeps (hg : Free 2228224 g) : ∀ s, Keeps g s0 s → KeepsN g s0 (execTideTick s) := by
  intro s h
  unfold execTideTick
  refine KeepsN.next ?_
  refine tideTick_keeps (hg.sub rfl) _ ?_
  with_reducible assumption

theorem execTideLoss_keeps (hg : Free 2162688 g) : ∀ s, Keeps g s0 s → KeepsN g s0 (execTideLoss s) := by
  intro s h
  unfold execTideLoss
  refine KeepsN.next ?_
  refine tideLoss_keeps (hg.sub rfl) _ ?_
  with_reducible assumption

theorem syncDrained_keeps (hg : Free 256 g) : ∀ a0 s, Keeps g s0 s → Keeps g s0 (syncDrained a0 s) := by
  intro a0 s h
  unfold syncDrained
  extract_lets +onlyGivenNames v1
  clear_value v1
  split
  ·
    rename_i y2 y3 y4 y5 y6
    refine @keeps_ite _ (Keeps g s0) _ _ _ _ ?_ ?_
    ·
      with_reducible assumption
    ·
      refine updPty_keeps (hg.sub rfl) _ _ _ ?_
      with_reducible assumption
  ·
    rename_i y7 y8 y9
    with_reducible assumption

theorem syncCheckComplete_keeps (hg : Free 256 g) : ∀ a0 s, Keeps g s0 s → Keeps g s0 (syncCheckComplete a0 s) := by
  intro a0 s h
  unfold syncCheckComplete
  extract_lets +onlyGivenNames v1
  clear_value v1
  refine @keeps_ite _ (Keeps g s0) _ _ _ _ ?_ ?_
  ·
    with_reducible assumption
  ·
    extract_lets +onlyGivenNames v2
    clear_value v2
    split
    ·
      rename_i y3 y4 y5
      refine updPty_keeps (hg.sub rfl) _ _ _ ?_
      with_reducible assumption
    ·
      rename_i y6
      refine updPty_keeps (hg.sub rfl) _ _ _ ?_
      with_reducible assumption

theorem sendPin_keeps (hg : Free 134220544 g) : ∀ a0 a1 a2 s, Keeps g s0 s → Keeps g s0 (sendPin a0 a1 a2 s) := by
  intro a0 a1 a2 s h
  unfold sendPin
  extract_lets +onlyGivenNames v1 v2 v3
  clear_value v1
  clear_value v2
  clear_value v3
  refine @keeps_ite _ (Keeps g s0) _ _ _ _ ?_ ?_
  ·
    refine toPipe_keeps (hg.sub rfl) _ _ ?_
    with_reducible assumption
  ·
    refine issue_keeps (hg.sub rfl) _ _ ?_
    with_reducible assumption

theorem mirrorSync_keeps (hg : Free 69888 g) : ∀ a0 a1 s, Keeps g s0 s → Keeps g s0 (mirrorSync a0 a1 s) := by
  intro a0 a1 s h
  unfold mirrorSync
  extract_lets +onlyGivenNames v1
  clear_value v1
  refine @keeps_ite _ (Keeps g s0) _ _ _ _ ?_ ?_
  ·
    refine logIgnored_keeps (hg.sub rfl) _ _ _ _ ?_
    with_reducible assumption
  ·
    refine @keeps_ite _ (Keeps g s0) _ _ _ _ ?_ ?_
    ·
      refine updPty_keeps (hg.sub rfl) _ _ _ ?_
      with_reducible assumption
    ·
      extract_lets +onlyGivenNames v2 v3 v4 v5 v6 v7
      clear_value v2
      clear_value v3
      clear_value v4
      clear_value v5
      clear_value v6
      refine Keeps.cut (g := g) (s0 := s0) v7 ?_ (fun h8 => ?_)
      ·
        unfold v7
        refine countRange_keeps (hg.sub rfl) _ _ _ _ ?_
        with_reducible assumption
      clear_value v7
      split
      ·
        rename_i y9 y10 y11 y12
        extract_lets +onlyGivenNames v13 v14 v15 v16 v17
        clear_value v13
        clear_value v14
        clear_value v15
        clear_value v16
        refine Keeps.cut (g := g) (s0 := s0) v17 ?_ (fun h18 => ?_)
        ·
          unfold v17
          refine countRange_keeps (hg.sub rfl) _ _ _ _ ?_
          with_reducible assumption
        clear_value v17
        split
        ·
          rename_i y19 y20 y21 y22
          extract_lets +onlyGivenNames v23 v24 v25
          clear_value v23
          clear_value v24
          clear_value v25
          refine updPty_keeps (hg.sub rfl) _ _ _ ?_
          with_reducible assumption

theorem execMirrorSync_keeps (hg : Free 69888 g) : ∀ a0 a1 s, Keeps g s0 s → KeepsN g s0 (execMirrorSync a0 a1 s) := by
  intro a0 a1 s h
  unfold execMirrorSync
  refine KeepsN.next ?_
  refine mirrorSync_keeps (hg.sub rfl) _ _ _ ?_
  with_reducible assumption

theorem syncInForce_keeps (hg : Free 134220544 g) : ∀ a0 s, Keeps g s0 s → Keeps g s0 (syncInForce a0 s) := by
  intro a0 s h
  unfold syncInForce
  extract_lets +onlyGivenNames v1
  clear_value v1
  refine @keeps_ite _ (Keeps g s0) _ _ _ _ ?_ ?_
  ·
    with_reducible assumption
  ·
    extract_lets +onlyGivenNames v2 v3 v4 v5 v6 v7 v8 v9 v10
    clear_value v2
    clear_value v3
    clear_value v4
    clear_value v5
    clear_value v6
    clear_value v7
    refine Keeps.cut (g := g) (s0 := s0) v8 ?_ (fun h11 => ?_)
    ·
      unfold v8
      refine updPty_keeps (hg.sub rfl) _ _ _ ?_
      with_reducible assumption
    clear_value v8
    refine Keeps.cut (g := g) (s0 := s0) v10 ?_ (fun h12 => ?_)
    ·
      unfold v10
      refine keeps_net (s := v8) 512 (hg.sub rfl) ?_ (.inl rfl) (.inr rfl)
      with_reducible assumption
    clear_value v10
    extract_lets +onlyGivenNames v13
    refine Keeps.cut (g := g) (s0 := s0) v13 ?_ (fun h14 => ?_)
    ·
      unfold v13
      refine keeps_foldl (P := Keeps g s0) (fun b15 x16 h17 => ?_) _ _ ?_
      ·
        refine sendPin_keeps (hg.sub rfl) _ _ _ _ ?_
        with_reducible assumption
      ·
        with_reducible assumption
    clear_value v13
    refine keeps_foldl (P := Keeps g s0) (fun b18 x19 h20 => ?_) _ _ ?_
    ·
      refine sendPin_keeps (hg.sub rfl) _ _ _ _ ?_
      with_reducible assumption
    ·
      with_reducible assumption

theorem execSyncDrained_keeps (hg : Free 256 g) : ∀ a0 s, Keeps g s0 s → KeepsN g s0 (execSyncDrained a0 s) := by
  intro a0 s h
  unfold execSyncDrained
  refine KeepsN.next ?_
  refine syncDrained_keeps (hg.sub rfl) _ _ ?_
  with_reducible assumption

theorem execSyncCheckComplete_keeps (hg : Free 256 g) : ∀ a0 s, Keeps g s0 s → KeepsN g s0 (execSyncCheckComplete a0 s) := by
  intro a0 s h
  unfold execSyncCheckComplete
  refine KeepsN.next ?_
  refine syncCheckComplete_keeps (hg.sub rfl) _ _ ?_
  with_reducible assumption

theorem resetCb_keeps (hg : Free 8589934592 g) : ∀ a0 s, Keeps g s0 s → Keeps g s0 (resetCb a0 s) := by
  intro a0 s h
  unfold resetCb
  extract_lets +onlyGivenNames v1
  clear_value v1
  refine @keeps_ite _ (Keeps g s0) _ _ _ _ ?_ ?_
  ·
    refine cbAnswer_keeps (hg.sub rfl) _ _ _ _ _ ?_
    refine updCb_keeps (hg.sub rfl) _ _ _ ?_
    with_reducible assumption
  ·
    with_reducible assumption

theorem resetRills_keeps (hg : Free 16639974176 g) : ∀ a0 s, Keeps g s0 s → Keeps g s0 (resetRills a0 s) := by
  intro a0 s h
  unfold resetRills
  extract_lets +onlyGivenNames v1
  clear_value v1
  refine keeps_foldl (P := Keeps g s0) (fun b2 x3 h4 => ?_) _ _ ?_
  ·
    refine abortRill_keeps (hg.sub rfl) _ _ ?_
    with_reducible assumption
  ·
    with_reducible assumption

theorem resetParty_keeps (hg : Free 16639974176 g) : ∀ a0 s, Keeps g s0 s → Keeps g s0 (resetParty a0 s) := by
  intro a0 s h
  unfold resetParty
  refine resetCb_keeps (hg.sub rfl) _ _ ?_
  refine resetRills_keeps (hg.sub rfl) _ _ ?_
  refine updPty_keeps (hg.sub rfl) _ _ _ ?_
  with_reducible assumption

theorem writeReset_keeps (hg : Free 16639974176 g) : ∀ a0 a1 s, Keeps g s0 s → Keeps g s0 (writeReset a0 a1 s) := by
  intro a0 a1 s h
  unfold writeReset
  refine @keeps_ite _ (Keeps g s0) _ _ _ _ ?_ ?_
  ·
    refine resetParty_keeps (hg.sub rfl) _ _ ?_
    with_reducible assumption
  ·
    with_reducible assumption

theorem resetErrCtl_keeps (hg : Free 256 g) : ∀ a0 s, Keeps g s0 s → Keeps g s0 (resetErrCtl a0 s) := by
  intro a0 s h
  unfold resetErrCtl
  refine updPty_keeps (hg.sub rfl) _ _ _ ?_
  with_reducible assumption

theorem functionReset_keeps (hg : Free 16639974176 g) : ∀ a0 s, Keeps g s0 s → Keeps g s0 (functionReset a0 s) := by
  intro a0 s h
  unfold functionReset
  refine resetParty_keeps (hg.sub rfl) _ _ ?_
  refine resetErrCtl_keeps (hg.sub rfl) _ _ ?_
  refine updHost_keeps (hg.sub rfl) _ _ _ ?_
  with_reducible assumption

theorem hotReset_keeps (hg : Free 16639974176 g) : ∀ a0 s, Keeps g s0 s → Keeps g s0 (hotReset a0 s) := by
  intro a0 s h
  unfold hotReset
  refine updHost_keeps (hg.sub rfl) _ _ _ ?_
  refine functionReset_keeps (hg.sub rfl) _ _ ?_
  with_reducible assumption

theorem execHotReset_keeps (hg : Free 16639974176 g) : ∀ a0 s, Keeps g s0 s → KeepsN g s0 (execHotReset a0 s) := by
  intro a0 s h
  unfold execHotReset
  refine KeepsN.next ?_
  refine hotReset_keeps (hg.sub rfl) _ _ ?_
  with_reducible assumption

theorem flushFenced_keeps (hg : Free 8610906112 g) : ∀ s, Keeps g s0 s → Keeps g s0 (flushFenced s) := by
  intro s h
  unfold flushFenced
  extract_lets +onlyGivenNames v1
  clear_value v1
  refine eddyFlush_keeps (hg.sub rfl) _ _ ?_
  refine keeps_foldl (P := Keeps g s0) (fun b2 x3 h4 => ?_) _ _ ?_
  ·
    refine failXfer_keeps (hg.sub rfl) _ _ _ _ ?_
    with_reducible assumption
  ·
    with_reducible assumption

theorem takedown_keeps (hg : Free 8610994176 g) : ∀ a0 s, Keeps g s0 s → Keeps g s0 (takedown a0 s) := by
  intro a0 s h
  unfold takedown
  split
  ·
    rename_i y1 y2 y3
    refine @keeps_ite _ (Keeps g s0) _ _ _ _ ?_ ?_
    ·
      refine endTakedown_keeps (hg.sub rfl) _ _ ?_
      refine flushFenced_keeps (hg.sub rfl) _ ?_
      with_reducible assumption
    ·
      with_reducible assumption
  ·
    rename_i y4 y5
    with_reducible assumption

theorem cxlReset_keeps (hg : Free 16639974176 g) : ∀ a0 s, Keeps g s0 s → Keeps g s0 (cxlReset a0 s) := by
  intro a0 s h
  unfold cxlReset
  extract_lets +onlyGivenNames v1 v2 v3 v4 v5
  clear_value v1
  refine Keeps.cut (g := g) (s0 := s0) v2 ?_ (fun h6 => ?_)
  ·
    unfold v2
    refine functionReset_keeps (hg.sub rfl) _ _ ?_
    with_reducible assumption
  clear_value v2
  clear_value v3
  refine Keeps.cut (g := g) (s0 := s0) v4 ?_ (fun h7 => ?_)
  ·
    unfold v4
    refine keeps_coh (s := v2) (hg.sub rfl) ?_
    with_reducible assumption
  clear_value v4
  refine Keeps.cut (g := g) (s0 := s0) v5 ?_ (fun h8 => ?_)
  ·
    unfold v5
    refine updHost_keeps (hg.sub rfl) _ _ _ ?_
    with_reducible assumption
  clear_value v5
  extract_lets +onlyGivenNames v9
  clear_value v9
  refine keeps_foldl (P := Keeps g s0) (fun b10 x11 h12 => ?_) _ _ ?_
  ·
    refine agentJoins_keeps (hg.sub rfl) _ _ ?_
    refine takedown_keeps (hg.sub rfl) _ _ ?_
    refine fallDomain_keeps (hg.sub rfl) _ _ _ ?_
    with_reducible assumption
  ·
    with_reducible assumption

theorem execCxlReset_keeps (hg : Free 16639974176 g) : ∀ a0 s, Keeps g s0 s → KeepsN g s0 (execCxlReset a0 s) := by
  intro a0 s h
  unfold execCxlReset
  refine KeepsN.next ?_
  refine cxlReset_keeps (hg.sub rfl) _ _ ?_
  with_reducible assumption

theorem execFlr_keeps (hg : Free 16639974176 g) : ∀ a0 s, Keeps g s0 s → KeepsN g s0 (execFlr a0 s) := by
  intro a0 s h
  unfold execFlr
  refine KeepsN.next ?_
  refine functionReset_keeps (hg.sub rfl) _ _ ?_
  with_reducible assumption

theorem execPartyReset_keeps (hg : Free 16639974176 g) : ∀ a0 s, Keeps g s0 s → KeepsN g s0 (execPartyReset a0 s) := by
  intro a0 s h
  unfold execPartyReset
  refine KeepsN.next ?_
  refine writeReset_keeps (hg.sub rfl) _ _ _ ?_
  with_reducible assumption

end Sys2Proof.Safety
end

