-- ==== Sys2Proof/Laws/KeepsPerform.lean ====
section
/-!
SUPPORT. Which parts of the state each operation keeps: registers, losses, agreement, the fabric operations, tiers and the host ports.
-/
namespace Sys2Proof.Safety

open Sys2Proof Sys2Proof.Machine

set_option Elab.async false

variable {g : Part} {s0 : State}

theorem domainRejoin_keeps (hg : Free 1131008 g) : ∀ a0 a1 s, Keeps g s0 s → Keeps g s0 (domainRejoin a0 a1 s) := by
  intro a0 a1 s h
  unfold domainRejoin
  extract_lets +onlyGivenNames v1 v2
  clear_value v1
  clear_value v2
  refine @keeps_ite _ (Keeps g s0) _ _ _ _ ?_ ?_
  ·
    refine agentJoins_keeps (hg.sub rfl) _ _ ?_
    refine updHost_keeps (hg.sub rfl) _ _ _ ?_
    with_reducible assumption
  ·
    refine logIgnored_keeps (hg.sub rfl) _ _ _ _ ?_
    with_reducible assumption

theorem writeReg_keeps (hg : Free 16639974176 g) : ∀ a0 a1 a2 s, Keeps g s0 s → Keeps2 g s0 (writeReg a0 a1 a2 s) := by
  intro a0 a1 a2 s h
  unfold writeReg
  refine @keeps_ite _ (Keeps2 g s0) _ _ _ _ ?_ ?_
  ·
    refine Keeps2.mk ?_
    with_reducible assumption
  ·
    split
    ·
      rename_i y1
      refine Keeps2.mk ?_
      refine updPty_keeps (hg.sub rfl) _ _ _ ?_
      with_reducible assumption
    ·
      rename_i y2
      refine Keeps2.mk ?_
      refine mirrorSync_keeps (hg.sub rfl) _ _ _ ?_
      with_reducible assumption
    ·
      rename_i y3
      refine Keeps2.mk ?_
      refine updPty_keeps (hg.sub rfl) _ _ _ ?_
      with_reducible assumption
    ·
      rename_i y4
      refine Keeps2.mk ?_
      refine updPty_keeps (hg.sub rfl) _ _ _ ?_
      with_reducible assumption
    ·
      rename_i y5
      refine Keeps2.mk ?_
      refine updPty_keeps (hg.sub rfl) _ _ _ ?_
      with_reducible assumption
    ·
      rename_i y6
      extract_lets +onlyGivenNames v7 v8
      clear_value v7
      clear_value v8
      refine @keeps_ite _ (Keeps2 g s0) _ _ _ _ ?_ ?_
      ·
        refine Keeps2.mk ?_
        refine logIgnored_keeps (hg.sub rfl) _ _ _ _ ?_
        with_reducible assumption
      ·
        refine Keeps2.mk ?_
        refine rillCommand_keeps (hg.sub rfl) _ _ _ _ ?_
        with_reducible assumption
    ·
      rename_i y9
      refine Keeps2.mk ?_
      refine updCtl_keeps (hg.sub rfl) _ _ _ ?_
      with_reducible assumption
    ·
      rename_i y10
      refine doorbell_keeps (hg.sub rfl) _ _ _ ?_
      with_reducible assumption
    ·
      rename_i y11
      refine reachWrite_keeps (hg.sub rfl) _ _ _ _ ?_
      with_reducible assumption
    ·
      rename_i y12
      refine Keeps2.mk ?_
      with_reducible assumption
    ·
      rename_i y13
      refine Keeps2.mk ?_
      with_reducible assumption
    ·
      rename_i y14
      refine Keeps2.mk ?_
      refine writeCbBase_keeps (hg.sub rfl) _ _ _ ?_
      with_reducible assumption
    ·
      rename_i y15
      refine Keeps2.mk ?_
      refine cbCommand_keeps (hg.sub rfl) _ _ _ _ ?_
      with_reducible assumption
    ·
      rename_i y16
      refine Keeps2.mk ?_
      refine updCb_keeps (hg.sub rfl) _ _ _ ?_
      with_reducible assumption
    ·
      rename_i y17
      refine Keeps2.mk ?_
      refine domainRejoin_keeps (hg.sub rfl) _ _ _ ?_
      with_reducible assumption
    ·
      rename_i y18
      refine Keeps2.mk ?_
      refine updPty_keeps (hg.sub rfl) _ _ _ ?_
      with_reducible assumption
    ·
      rename_i y19
      refine Keeps2.mk ?_
      refine writeReset_keeps (hg.sub rfl) _ _ _ ?_
      with_reducible assumption
    ·
      rename_i y20 y21 y22 y23 y24 y25 y26 y27 y28 y29 y30 y31 y32 y33 y34 y35 y36 y37
      refine Keeps2.mk ?_
      with_reducible assumption

theorem writeCtl_keeps (hg : Free 16639974304 g) : ∀ a0 a1 s, Keeps g s0 s → Keeps2 g s0 (writeCtl a0 a1 s) := by
  intro a0 a1 s h
  unfold writeCtl
  split
  ·
    rename_i y1 y2 y3 y4
    refine writeReg_keeps (hg.sub rfl) _ _ _ _ ?_
    with_reducible assumption
  ·
    rename_i y5 y6 y7
    refine Keeps2.mk ?_
    refine keeps_sluice (s := s) (hg.sub rfl) ?_
    with_reducible assumption
  ·
    rename_i y8 y9 y10 y11
    refine Keeps2.mk ?_
    refine keeps_map (s := s) (hg.sub rfl) ?_
    with_reducible assumption
  ·
    rename_i y12 y13 y14
    refine Keeps2.mk ?_
    with_reducible assumption
  ·
    rename_i y15 y16 y17
    refine Keeps2.mk ?_
    with_reducible assumption
  ·
    rename_i y18 y19
    refine Keeps2.mk ?_
    with_reducible assumption

theorem readView_keeps (hg : Free 268435456 g) : ∀ a0 s, Keeps g s0 s → Keeps2 g s0 (readView a0 s) := by
  intro a0 s h
  unfold readView
  refine @keeps_ite _ (Keeps2 g s0) _ _ _ _ ?_ ?_
  ·
    refine Keeps2.mk ?_
    with_reducible assumption
  ·
    split
    ·
      rename_i y1 y2 y3 y4
      refine Keeps.cut (g := g) (s0 := s0) y3 (Keeps2.of_eq ?_ y4) (fun h5 => ?_)
      ·
        refine takeWord_keeps (hg.sub rfl) _ ?_
        with_reducible assumption
      refine Keeps2.mk ?_
      with_reducible assumption

theorem readCtl_keeps (hg : Free 268435456 g) : ∀ a0 s, Keeps g s0 s → Keeps3 g s0 (readCtl a0 s) := by
  intro a0 s h
  unfold readCtl
  extract_lets +onlyGivenNames v1
  clear_value v1
  split
  ·
    rename_i y2 y3
    split
    ·
      rename_i y4 y5 y6 y7
      refine Keeps.cut (g := g) (s0 := s0) y6 (Keeps2.of_eq ?_ y7) (fun h8 => ?_)
      ·
        refine readView_keeps (hg.sub rfl) _ _ ?_
        with_reducible assumption
      refine Keeps3.mk ?_
      with_reducible assumption
  ·
    rename_i y9
    refine Keeps3.mk ?_
    with_reducible assumption

theorem registerWrite_keeps (hg : Free 16639974304 g) : ∀ a0 a1 a2 s, Keeps g s0 s → Keeps g s0 (registerWrite a0 a1 a2 s) := by
  intro a0 a1 a2 s h
  unfold registerWrite
  split
  ·
    rename_i y1 y2 y3
    with_reducible assumption
  ·
    rename_i y4 y5
    refine Keeps2.snd ?_
    refine writeCtl_keeps (hg.sub rfl) _ _ _ ?_
    with_reducible assumption

theorem execDomainRejoin_keeps (hg : Free 1131008 g) : ∀ a0 a1 s, Keeps g s0 s → KeepsN g s0 (execDomainRejoin a0 a1 s) := by
  intro a0 a1 s h
  unfold execDomainRejoin
  refine KeepsN.next ?_
  refine domainRejoin_keeps (hg.sub rfl) _ _ _ ?_
  with_reducible assumption

theorem execRegisterWrite_keeps (hg : Free 16639974304 g) : ∀ a0 a1 a2 s, Keeps g s0 s → KeepsN g s0 (execRegisterWrite a0 a1 a2 s) := by
  intro a0 a1 a2 s h
  unfold execRegisterWrite
  refine KeepsN.next ?_
  refine registerWrite_keeps (hg.sub rfl) _ _ _ _ ?_
  with_reducible assumption

theorem loseRequests_keeps (hg : Free 134220544 g) : ∀ a0 s, Keeps g s0 s → Keeps g s0 (loseRequests a0 s) := by
  intro a0 s h
  unfold loseRequests
  extract_lets +onlyGivenNames v1 v2 v3
  clear_value v1
  clear_value v2
  extract_lets +onlyGivenNames v4
  refine Keeps.cut (g := g) (s0 := s0) v4 ?_ (fun h5 => ?_)
  ·
    unfold v4
    refine keeps_net (s := s) 512 (hg.sub rfl) ?_ (.inl rfl) (.inr rfl)
    with_reducible assumption
  clear_value v4
  refine keeps_foldl (P := Keeps g s0) (fun b6 x7 h8 => ?_) _ _ ?_
  ·
    refine complete_keeps (hg.sub rfl) _ _ _ _ ?_
    with_reducible assumption
  ·
    with_reducible assumption

theorem logLost_keeps (hg : Free 65536 g) : ∀ a0 a1 a2 s, Keeps g s0 s → Keeps g s0 (logLost a0 a1 a2 s) := by
  intro a0 a1 a2 s h
  unfold logLost
  refine logEv_keeps (hg.sub rfl) _ _ _ _ _ _ _ ?_
  with_reducible assumption

theorem lostReduction_keeps (hg : Free 12328229664 g) : ∀ a0 a1 a2 s, Keeps g s0 s → Keeps g s0 (lostReduction a0 a1 a2 s) := by
  intro a0 a1 a2 s h
  unfold lostReduction
  split
  ·
    rename_i y1 y2
    with_reducible assumption
  ·
    rename_i y3 y4 y5
    extract_lets +onlyGivenNames v6
    clear_value v6
    refine @keeps_ite _ (Keeps g s0) _ _ _ _ ?_ ?_
    ·
      with_reducible assumption
    ·
      extract_lets +onlyGivenNames v7 v8 v9 v10
      refine Keeps.cut (g := g) (s0 := s0) v7 ?_ (fun h11 => ?_)
      ·
        unfold v7
        refine keeps_foldl (P := Keeps g s0) (fun b12 x13 h14 => ?_) _ _ ?_
        ·
          refine errorEntry_keeps (hg.sub rfl) _ _ _ _ _ _ ?_
          with_reducible assumption
        ·
          with_reducible assumption
      clear_value v7
      refine Keeps.cut (g := g) (s0 := s0) v8 ?_ (fun h15 => ?_)
      ·
        unfold v8
        refine updJob_keeps (hg.sub rfl) _ _ _ _ ?_
        refine logLost_keeps (hg.sub rfl) _ _ _ _ ?_
        with_reducible assumption
      clear_value v8
      clear_value v9
      refine Keeps.cut (g := g) (s0 := s0) v10 ?_ (fun h16 => ?_)
      ·
        unfold v10
        refine keeps_foldl (P := Keeps g s0) (fun b17 x18 h19 => ?_) _ _ ?_
        ·
          refine updMill_keeps (hg.sub rfl) _ _ _ ?_
          with_reducible assumption
        ·
          with_reducible assumption
      clear_value v10
      refine keeps_foldl (P := Keeps g s0) (fun b20 x21 h22 => ?_) _ _ ?_
      ·
        refine tryFinish_keeps (hg.sub rfl) _ _ ?_
        with_reducible assumption
      ·
        refine loseRequests_keeps (hg.sub rfl) _ _ ?_
        with_reducible assumption

theorem lostMirror_keeps (hg : Free 100352 g) : ∀ a0 s, Keeps g s0 s → Keeps g s0 (lostMirror a0 s) := by
  intro a0 s h
  unfold lostMirror
  split
  ·
    rename_i y1 y2
    with_reducible assumption
  ·
    rename_i y3 y4 y5
    refine @keeps_ite _ (Keeps g s0) _ _ _ _ ?_ ?_
    ·
      refine logLost_keeps (hg.sub rfl) _ _ _ _ ?_
      refine enterLinkDown_keeps (hg.sub rfl) _ _ ?_
      with_reducible assumption
    ·
      with_reducible assumption

theorem lostWindow_keeps (hg : Free 134318848 g) : ∀ a0 s, Keeps g s0 s → Keeps g s0 (lostWindow a0 s) := by
  intro a0 s h
  unfold lostWindow
  split
  ·
    rename_i y1 y2
    with_reducible assumption
  ·
    rename_i y3 y4 y5
    extract_lets +onlyGivenNames v6 v7 v8 v9 v10
    clear_value v6
    clear_value v7
    clear_value v8
    clear_value v9
    clear_value v10
    extract_lets +onlyGivenNames v11
    refine Keeps.cut (g := g) (s0 := s0) v11 ?_ (fun h12 => ?_)
    ·
      unfold v11
      refine keeps_sluice (s := s) (hg.sub rfl) ?_
      with_reducible assumption
    clear_value v11
    refine logLost_keeps (hg.sub rfl) _ _ _ _ ?_
    refine keeps_foldl (P := Keeps g s0) (fun b13 x14 h15 => ?_) _ _ ?_
    ·
      refine complete_keeps (hg.sub rfl) _ _ _ _ ?_
      with_reducible assumption
    ·
      with_reducible assumption

theorem lostFar_keeps (hg : Free 134318848 g) : ∀ a0 a1 s, Keeps g s0 s → Keeps g s0 (lostFar a0 a1 s) := by
  intro a0 a1 s h
  unfold lostFar
  extract_lets +onlyGivenNames v1 v2
  clear_value v1
  refine Keeps.cut (g := g) (s0 := s0) v2 ?_ (fun h3 => ?_)
  ·
    unfold v2
    refine keeps_foldl (P := Keeps g s0) (fun b4 x5 h6 => ?_) _ _ ?_
    ·
      refine @keeps_ite _ (Keeps g s0) _ _ _ _ ?_ ?_
      ·
        refine lostWindow_keeps (hg.sub rfl) _ _ ?_
        with_reducible assumption
      ·
        with_reducible assumption
    ·
      with_reducible assumption
  clear_value v2
  refine keeps_foldl (P := Keeps g s0) (fun b7 x8 h9 => ?_) _ _ ?_
  ·
    extract_lets +onlyGivenNames v10
    clear_value v10
    refine @keeps_ite _ (Keeps g s0) _ _ _ _ ?_ ?_
    ·
      refine lostMirror_keeps (hg.sub rfl) _ _ ?_
      with_reducible assumption
    ·
      with_reducible assumption
  ·
    with_reducible assumption

theorem lostExchange_keeps (hg : Free 12328229664 g) : ∀ a0 a1 a2 s, Keeps g s0 s → Keeps g s0 (lostExchange a0 a1 a2 s) := by
  intro a0 a1 a2 s h
  unfold lostExchange
  split
  ·
    rename_i y1 y2 y3 y4 y5 y6
    refine @keeps_ite _ (Keeps g s0) _ _ _ _ ?_ ?_
    ·
      with_reducible assumption
    ·
      extract_lets +onlyGivenNames v7 v8 v9
      clear_value v7
      clear_value v8
      refine Keeps.cut (g := g) (s0 := s0) v9 ?_ (fun h10 => ?_)
      ·
        unfold v9
        refine keeps_exch (s := s) (hg.sub rfl) ?_
        with_reducible assumption
      clear_value v9
      extract_lets +onlyGivenNames v11
      refine Keeps.cut (g := g) (s0 := s0) v11 ?_ (fun h12 => ?_)
      ·
        unfold v11
        refine updRun_keeps (hg.sub rfl) _ _ _ _ ?_
        with_reducible assumption
      clear_value v11
      refine exchEnd_keeps (hg.sub rfl) _ _ _ ?_
      refine loseRequests_keeps (hg.sub rfl) _ _ ?_
      refine logLost_keeps (hg.sub rfl) _ _ _ _ ?_
      with_reducible assumption
  ·
    rename_i y13 y14 y15
    with_reducible assumption

theorem lostNode_keeps (hg : Free 12328229664 g) : ∀ a0 s, Keeps g s0 s → Keeps g s0 (lostNode a0 s) := by
  intro a0 s h
  unfold lostNode
  extract_lets +onlyGivenNames v1
  refine Keeps.cut (g := g) (s0 := s0) v1 ?_ (fun h2 => ?_)
  ·
    unfold v1
    refine keeps_foldl (P := Keeps g s0) (fun b3 x4 h5 => ?_) _ _ ?_
    ·
      refine lostReduction_keeps (hg.sub rfl) _ _ _ _ ?_
      refine lostExchange_keeps (hg.sub rfl) _ _ _ _ ?_
      with_reducible assumption
    ·
      with_reducible assumption
  clear_value v1
  refine lostFar_keeps (hg.sub rfl) _ _ _ ?_
  refine keeps_exch (s := v1) (hg.sub rfl) ?_
  with_reducible assumption

theorem losses_keeps (hg : Free 12328229664 g) : ∀ s, Keeps g s0 s → Keeps g s0 (losses s) := by
  intro s h
  unfold losses
  refine keeps_foldl (P := Keeps g s0) (fun b1 x2 h3 => ?_) _ _ ?_
  ·
    refine loseRequests_keeps (hg.sub rfl) _ _ ?_
    refine @keeps_ite _ (Keeps g s0) _ _ _ _ ?_ ?_
    ·
      refine lostFar_keeps (hg.sub rfl) _ _ _ ?_
      with_reducible assumption
    ·
      refine lostNode_keeps (hg.sub rfl) _ _ ?_
      with_reducible assumption
  ·
    refine keeps_net (s := s) 512 (hg.sub rfl) ?_ (.inl rfl) (.inr rfl)
    with_reducible assumption

theorem lostAgreement_keeps (hg : Free 65664 g) : ∀ a0 s, Keeps g s0 s → Keeps g s0 (lostAgreement a0 s) := by
  intro a0 s h
  unfold lostAgreement
  split
  ·
    rename_i y1 y2
    with_reducible assumption
  ·
    rename_i y3 y4 y5
    refine logLost_keeps (hg.sub rfl) _ _ _ _ ?_
    refine keeps_map (s := s) (hg.sub rfl) ?_
    with_reducible assumption

theorem execOwnerLost_keeps (hg : Free 12328229792 g) : ∀ a0 s, Keeps g s0 s → KeepsN g s0 (execOwnerLost a0 s) := by
  intro a0 s h
  unfold execOwnerLost
  refine KeepsN.next ?_
  split
  ·
    rename_i y1 y2 y3 y4
    refine lostExchange_keeps (hg.sub rfl) _ _ _ _ ?_
    with_reducible assumption
  ·
    rename_i y5 y6 y7 y8
    refine lostReduction_keeps (hg.sub rfl) _ _ _ _ ?_
    with_reducible assumption
  ·
    rename_i y9 y10
    refine lostWindow_keeps (hg.sub rfl) _ _ ?_
    with_reducible assumption
  ·
    rename_i y11 y12
    refine lostMirror_keeps (hg.sub rfl) _ _ ?_
    with_reducible assumption
  ·
    rename_i y13 y14
    refine lostAgreement_keeps (hg.sub rfl) _ _ ?_
    with_reducible assumption

theorem peerReset_keeps (hg : Free 12328229792 g) : ∀ a0 s, Keeps g s0 s → Keeps g s0 (peerReset a0 s) := by
  intro a0 s h
  unfold peerReset
  extract_lets +onlyGivenNames v1 v2 v3
  clear_value v1
  refine Keeps.cut (g := g) (s0 := s0) v2 ?_ (fun h4 => ?_)
  ·
    unfold v2
    refine keeps_foldl (P := Keeps g s0) (fun b5 x6 h7 => ?_) _ _ ?_
    ·
      refine @keeps_ite _ (Keeps g s0) _ _ _ _ ?_ ?_
      ·
        refine fallDomain_keeps (hg.sub rfl) _ _ _ ?_
        with_reducible assumption
      ·
        refine updDomain_keeps (hg.sub rfl) _ _ _ ?_
        with_reducible assumption
    ·
      with_reducible assumption
  clear_value v2
  refine Keeps.cut (g := g) (s0 := s0) v3 ?_ (fun h8 => ?_)
  ·
    unfold v3
    refine lostNode_keeps (hg.sub rfl) _ _ ?_
    with_reducible assumption
  clear_value v3
  refine keeps_map (s := v3) (hg.sub rfl) ?_
  with_reducible assumption

theorem sendAnnounce_keeps (hg : Free 134217728 g) : ∀ a0 a1 s, Keeps g s0 s → Keeps g s0 (sendAnnounce a0 a1 s) := by
  intro a0 a1 s h
  unfold sendAnnounce
  refine emit_keeps (hg.sub rfl) _ _ ?_
  with_reducible assumption

theorem markDisagrees_keeps (hg : Free 128 g) : ∀ a0 s, Keeps g s0 s → Keeps g s0 (markDisagrees a0 s) := by
  intro a0 s h
  unfold markDisagrees
  refine keeps_map (s := s) (hg.sub rfl) ?_
  with_reducible assumption

theorem handleAnnounce_keeps (hg : Free 12328229792 g) : ∀ a0 s, Keeps g s0 s → Keeps g s0 (handleAnnounce a0 s) := by
  intro a0 s h
  unfold handleAnnounce
  refine @keeps_ite _ (Keeps g s0) _ _ _ _ ?_ ?_
  ·
    with_reducible assumption
  ·
    extract_lets +onlyGivenNames v1 v2
    refine Keeps.cut (g := g) (s0 := s0) v1 ?_ (fun h3 => ?_)
    ·
      unfold v1
      refine @keeps_ite _ (Keeps g s0) _ _ _ _ ?_ ?_
      ·
        with_reducible assumption
      ·
        refine sendAnnounce_keeps (hg.sub rfl) _ _ _ ?_
        with_reducible assumption
    clear_value v1
    clear_value v2
    refine @keeps_ite _ (Keeps g s0) _ _ _ _ ?_ ?_
    ·
      with_reducible assumption
    ·
      extract_lets +onlyGivenNames v4
      refine Keeps.cut (g := g) (s0 := s0) v4 ?_ (fun h5 => ?_)
      ·
        unfold v4
        refine @keeps_ite _ (Keeps g s0) _ _ _ _ ?_ ?_
        ·
          refine peerReset_keeps (hg.sub rfl) _ _ ?_
          with_reducible assumption
        ·
          with_reducible assumption
      clear_value v4
      refine @keeps_ite _ (Keeps g s0) _ _ _ _ ?_ ?_
      ·
        refine markDisagrees_keeps (hg.sub rfl) _ _ ?_
        with_reducible assumption
      ·
        refine emit_keeps (hg.sub rfl) _ _ ?_
        refine keeps_map (s := v4) (hg.sub rfl) ?_
        with_reducible assumption

theorem mailboxStored_keeps (hg : Free 12328229792 g) : ∀ a0 s, Keeps g s0 s → Keeps g s0 (mailboxStored a0 s) := by
  intro a0 s h
  unfold mailboxStored
  split
  ·
    rename_i y1 y2 y3
    extract_lets +onlyGivenNames v4
    clear_value v4
    refine handleAnnounce_keeps (hg.sub rfl) _ _ ?_
    with_reducible assumption
  ·
    rename_i y5 y6
    with_reducible assumption

theorem mapTo_keeps (hg : Free 65672 g) : ∀ a0 s, Keeps g s0 s → Keeps g s0 (mapTo a0 s) := by
  intro a0 s h
  unfold mapTo
  refine @keeps_ite _ (Keeps g s0) _ _ _ _ ?_ ?_
  ·
    with_reducible assumption
  ·
    extract_lets +onlyGivenNames v1 v2 v3
    refine Keeps.cut (g := g) (s0 := s0) v1 ?_ (fun h4 => ?_)
    ·
      unfold v1
      refine logEv_keeps (hg.sub rfl) _ _ _ _ _ _ _ ?_
      with_reducible assumption
    clear_value v1
    clear_value v2
    refine Keeps.cut (g := g) (s0 := s0) v3 ?_ (fun h5 => ?_)
    ·
      unfold v3
      refine keeps_map (s := v1) (hg.sub rfl) ?_
      with_reducible assumption
    clear_value v3
    extract_lets +onlyGivenNames v6
    refine Keeps.cut (g := g) (s0 := s0) v6 ?_ (fun h7 => ?_)
    ·
      unfold v6
      refine @keeps_ite _ (Keeps g s0) _ _ _ _ ?_ ?_
      ·
        refine setAlert_keeps (hg.sub rfl) _ _ ?_
        with_reducible assumption
      ·
        refine dropAlert_keeps (hg.sub rfl) _ _ ?_
        with_reducible assumption
    clear_value v6
    refine @keeps_ite _ (Keeps g s0) _ _ _ _ ?_ ?_
    ·
      refine keeps_nv (s := v6) 8 (hg.sub rfl) ?_ (.inr rfl) (.inl rfl) (.inr rfl) (.inr rfl) (fun m => m)
      with_reducible assumption
    ·
      with_reducible assumption

theorem agreementWindowEnd_keeps (hg : Free 65673 g) : ∀ s, Keeps g s0 s → Keeps g s0 (agreementWindowEnd s) := by
  intro s h
  unfold agreementWindowEnd
  refine @keeps_ite _ (Keeps g s0) _ _ _ _ ?_ ?_
  ·
    with_reducible assumption
  ·
    extract_lets +onlyGivenNames v1
    clear_value v1
    extract_lets +onlyGivenNames v2
    refine Keeps.cut (g := g) (s0 := s0) v2 ?_ (fun h3 => ?_)
    ·
      unfold v2
      refine keeps_map (s := s) (hg.sub rfl) ?_
      with_reducible assumption
    clear_value v2
    refine @keeps_ite _ (Keeps g s0) _ _ _ _ ?_ ?_
    ·
      with_reducible assumption
    ·
      refine @keeps_ite _ (Keeps g s0) _ _ _ _ ?_ ?_
      ·
        refine mapTo_keeps (hg.sub rfl) _ _ ?_
        refine bootStep_keeps (hg.sub rfl) _ _ ?_
        with_reducible assumption
      ·
        refine mapTo_keeps (hg.sub rfl) _ _ ?_
        refine bootStep_keeps (hg.sub rfl) _ _ ?_
        with_reducible assumption

theorem execAgreementWindowEnd_keeps (hg : Free 65673 g) : ∀ s, Keeps g s0 s → KeepsN g s0 (execAgreementWindowEnd s) := by
  intro s h
  unfold execAgreementWindowEnd
  refine KeepsN.next ?_
  refine agreementWindowEnd_keeps (hg.sub rfl) _ ?_
  with_reducible assumption

theorem announceAll_keeps (hg : Free 134217728 g) : ∀ s, Keeps g s0 s → Keeps g s0 (announceAll s) := by
  intro s h
  unfold announceAll
  refine keeps_foldl (P := Keeps g s0) (fun b1 x2 h3 => ?_) _ _ ?_
  ·
    refine sendAnnounce_keeps (hg.sub rfl) _ _ _ ?_
    with_reducible assumption
  ·
    with_reducible assumption

theorem execAnnounceResend_keeps (hg : Free 134217728 g) : ∀ s, Keeps g s0 s → KeepsN g s0 (execAnnounceResend s) := by
  intro s h
  unfold execAnnounceResend
  refine KeepsN.next ?_
  refine @keeps_ite _ (Keeps g s0) _ _ _ _ ?_ ?_
  ·
    refine announceAll_keeps (hg.sub rfl) _ ?_
    with_reducible assumption
  ·
    with_reducible assumption

theorem execAnnounce_keeps (hg : Free 12328229792 g) : ∀ a0 s, Keeps g s0 s → KeepsN g s0 (execAnnounce a0 s) := by
  intro a0 s h
  unfold execAnnounce
  refine KeepsN.next ?_
  refine handleAnnounce_keeps (hg.sub rfl) _ _ ?_
  with_reducible assumption

theorem startAgreement_keeps (hg : Free 134217856 g) : ∀ s, Keeps g s0 s → Keeps g s0 (startAgreement s) := by
  intro s h
  unfold startAgreement
  refine @keeps_ite _ (Keeps g s0) _ _ _ _ ?_ ?_
  ·
    with_reducible assumption
  ·
    refine announceAll_keeps (hg.sub rfl) _ ?_
    refine keeps_map (s := s) (hg.sub rfl) ?_
    with_reducible assumption

theorem execAgreementStartTimeout_keeps (hg : Free 134217856 g) : ∀ s, Keeps g s0 s → KeepsN g s0 (execAgreementStartTimeout s) := by
  intro s h
  unfold execAgreementStartTimeout
  refine KeepsN.next ?_
  extract_lets +onlyGivenNames v1
  clear_value v1
  refine @keeps_ite _ (Keeps g s0) _ _ _ _ ?_ ?_
  ·
    refine startAgreement_keeps (hg.sub rfl) _ ?_
    with_reducible assumption
  ·
    with_reducible assumption

theorem joinsFor_keeps (hg : Free 16896 g) : ∀ a0 s, Keeps g s0 s → Keeps g s0 (joinsFor a0 s) := by
  intro a0 s h
  unfold joinsFor
  extract_lets +onlyGivenNames v1
  clear_value v1
  refine keeps_foldl (P := Keeps g s0) (fun b2 x3 h4 => ?_) _ _ ?_
  ·
    refine sendNotice_keeps (hg.sub rfl) _ _ ?_
    with_reducible assumption
  ·
    refine keeps_coh (s := s) (hg.sub rfl) ?_
    with_reducible assumption

theorem addPeer_keeps (hg : Free 82568 g) : ∀ a0 a1 s, Keeps g s0 s → Keeps g s0 (addPeer a0 a1 s) := by
  intro a0 a1 s h
  unfold addPeer
  extract_lets +onlyGivenNames v1 v2
  clear_value v1
  refine Keeps.cut (g := g) (s0 := s0) v2 ?_ (fun h3 => ?_)
  ·
    unfold v2
    refine keeps_map (s := s) (hg.sub rfl) ?_
    with_reducible assumption
  clear_value v2
  extract_lets +onlyGivenNames v4
  refine Keeps.cut (g := g) (s0 := s0) v4 ?_ (fun h5 => ?_)
  ·
    unfold v4
    refine joinsFor_keeps (hg.sub rfl) _ _ ?_
    refine settleDomains_keeps (hg.sub rfl) _ ?_
    refine recompute_keeps (hg.sub rfl) _ ?_
    with_reducible assumption
  clear_value v4
  refine @keeps_ite _ (Keeps g s0) _ _ _ _ ?_ ?_
  ·
    refine mapTo_keeps (hg.sub rfl) _ _ ?_
    with_reducible assumption
  ·
    with_reducible assumption

theorem sliceReadComplete_keeps (hg : Free 82568 g) : ∀ a0 a1 s, Keeps g s0 s → Keeps g s0 (sliceReadComplete a0 a1 s) := by
  intro a0 a1 s h
  unfold sliceReadComplete
  split
  ·
    rename_i y1 y2
    with_reducible assumption
  ·
    rename_i y3 y4 y5
    extract_lets +onlyGivenNames v6
    clear_value v6
    extract_lets +onlyGivenNames v7
    refine Keeps.cut (g := g) (s0 := s0) v7 ?_ (fun h8 => ?_)
    ·
      unfold v7
      refine keeps_map (s := s) (hg.sub rfl) ?_
      with_reducible assumption
    clear_value v7
    split
    ·
      rename_i y9
      refine keeps_map (s := v7) (hg.sub rfl) ?_
      with_reducible assumption
    ·
      rename_i y10 y11
      refine @keeps_ite _ (Keeps g s0) _ _ _ _ ?_ ?_
      ·
        refine markDisagrees_keeps (hg.sub rfl) _ _ ?_
        with_reducible assumption
      ·
        refine @keeps_ite _ (Keeps g s0) _ _ _ _ ?_ ?_
        ·
          refine markDisagrees_keeps (hg.sub rfl) _ _ ?_
          with_reducible assumption
        ·
          refine addPeer_keeps (hg.sub rfl) _ _ _ ?_
          with_reducible assumption

theorem execSliceRedeliver_keeps (hg : Free 12328229792 g) : ∀ a0 s, Keeps g s0 s → KeepsN g s0 (execSliceRedeliver a0 s) := by
  intro a0 s h
  unfold execSliceRedeliver
  refine KeepsN.next ?_
  split
  ·
    rename_i y1 y2
    with_reducible assumption
  ·
    rename_i y3 y4 y5
    refine handleAnnounce_keeps (hg.sub rfl) _ _ ?_
    refine keeps_map (s := s) (hg.sub rfl) ?_
    with_reducible assumption

theorem execSliceReadComplete_keeps (hg : Free 82568 g) : ∀ a0 a1 s, Keeps g s0 s → KeepsN g s0 (execSliceReadComplete a0 a1 s) := by
  intro a0 a1 s h
  unfold execSliceReadComplete
  refine KeepsN.next ?_
  refine sliceReadComplete_keeps (hg.sub rfl) _ _ _ ?_
  with_reducible assumption

theorem performPin_keeps (hg : Free 134290176 g) : ∀ a0 s, Keeps g s0 s → Keeps g s0 (performPin a0 s) := by
  intro a0 s h
  unfold performPin
  extract_lets +onlyGivenNames v1
  clear_value v1
  split
  ·
    rename_i y2 y3 y4
    refine complete_keeps (hg.sub rfl) _ _ _ _ ?_
    with_reducible assumption
  ·
    rename_i y5 y6
    refine complete_keeps (hg.sub rfl) _ _ _ _ ?_
    refine pinPages_keeps (hg.sub rfl) _ _ _ _ _ _ ?_
    with_reducible assumption

theorem damageUnit_keeps (hg : Free 1073745920 g) : ∀ a0 s, Keeps g s0 s → Keeps g s0 (damageUnit a0 s) := by
  intro a0 s h
  unfold damageUnit
  extract_lets +onlyGivenNames v1 v2
  refine Keeps.cut (g := g) (s0 := s0) v2 ?_ (fun h3 => ?_)
  ·
    unfold v2
    refine keeps_store (s := s) 4096 (hg.sub rfl) ?_ (.inl rfl) (.inr rfl) (fun m => m)
    with_reducible assumption
  clear_value v2
  extract_lets +onlyGivenNames v4
  refine Keeps.cut (g := g) (s0 := s0) v4 ?_ (fun h5 => ?_)
  ·
    unfold v4
    refine updTier_keeps (hg.sub rfl) _ _ _ ?_
    with_reducible assumption
  clear_value v4
  refine @keeps_ite _ (Keeps g s0) _ _ _ _ ?_ ?_
  ·
    refine poisonLines_keeps (hg.sub rfl) _ _ ?_
    with_reducible assumption
  ·
    refine putUnit_keeps (hg.sub rfl) _ _ _ ?_
    with_reducible assumption

theorem damagedRead_keeps (hg : Free 1207966464 g) : ∀ a0 a1 s, Keeps g s0 s → Keeps g s0 (damagedRead a0 a1 s) := by
  intro a0 a1 s h
  unfold damagedRead
  extract_lets +onlyGivenNames v1 v2 v3
  clear_value v1
  clear_value v2
  clear_value v3
  split
  ·
    rename_i y4 y5 y6 y7
    refine complete_keeps (hg.sub rfl) _ _ _ _ ?_
    refine damageUnit_keeps (hg.sub rfl) _ _ ?_
    with_reducible assumption

theorem postStored_keeps (hg : Free 8657043456 g) : ∀ a0 s, Keeps g s0 s → Keeps g s0 (postStored a0 s) := by
  intro a0 s h
  unfold postStored
  refine @keeps_ite _ (Keeps g s0) _ _ _ _ ?_ ?_
  ·
    with_reducible assumption
  ·
    split
    ·
      rename_i y1 y2 y3 y4 y5
      refine @keeps_ite _ (Keeps g s0) _ _ _ _ ?_ ?_
      ·
        refine postSlot_keeps (hg.sub rfl) _ _ _ ?_
        with_reducible assumption
      ·
        with_reducible assumption
    ·
      rename_i y6 y7
      with_reducible assumption

theorem fillHot_keeps (hg : Free 16384 g) : ∀ a0 s, Keeps g s0 s → Keeps g s0 (fillHot a0 s) := by
  intro a0 s h
  unfold fillHot
  refine @keeps_ite _ (Keeps g s0) _ _ _ _ ?_ ?_
  ·
    refine keeps_foldl (P := Keeps g s0) (fun b1 x2 h3 => ?_) _ _ ?_
    ·
      refine hotFill_keeps (hg.sub rfl) _ _ _ ?_
      with_reducible assumption
    ·
      with_reducible assumption
  ·
    with_reducible assumption

theorem overtaken_keeps (hg : Free 512 g) : ∀ a0 s, Keeps g s0 s → Keeps g s0 (overtaken a0 s) := by
  intro a0 s h
  unfold overtaken
  refine keeps_foldl (P := Keeps g s0) (fun b1 x2 h3 => ?_) _ _ ?_
  ·
    refine touchLines_keeps (hg.sub rfl) _ _ _ ?_
    with_reducible assumption
  ·
    with_reducible assumption

theorem provide_keeps (hg : Free 2560 g) : ∀ a0 s, Keeps g s0 s → Keeps g s0 (provide a0 s) := by
  intro a0 s h
  unfold provide
  extract_lets +onlyGivenNames v1
  clear_value v1
  split
  ·
    rename_i y2 y3 y4 y5
    extract_lets +onlyGivenNames v6 v7
    clear_value v6
    clear_value v7
    refine overtaken_keeps (hg.sub rfl) _ _ ?_
    refine respondOn_keeps (hg.sub rfl) _ _ _ _ _ _ _ ?_
    refine keeps_net (s := s) 512 (hg.sub rfl) ?_ (.inl rfl) (.inr rfl)
    with_reducible assumption
  ·
    rename_i y8 y9 y10
    extract_lets +onlyGivenNames v11
    clear_value v11
    refine overtaken_keeps (hg.sub rfl) _ _ ?_
    refine keeps_update (s := s) 2560 (hg.sub rfl) ?_ (.inr rfl) (.inr rfl) (.inr rfl) (.inr rfl) (.inr rfl) (.inr rfl) (.inr rfl) (.inr rfl) (.inr rfl) (.inl rfl) (.inr rfl) (.inl rfl) (.inr rfl) (.inr rfl) (.inr rfl) (.inr rfl) (.inr rfl) (.inr rfl) (.inr rfl) (.inr rfl) (.inr rfl) (.inr rfl) (.inr rfl) (.inr rfl) (.inr rfl) (.inr rfl) (.inr rfl) (.inr rfl) (.inr rfl) (.inr rfl) (.inr rfl) (.inr rfl) (.inr rfl) (.inr rfl) (fun m => m)
    with_reducible assumption
  ·
    rename_i y12 y13 y14
    with_reducible assumption

theorem performOp_keeps (hg : Free 12282092320 g) : ∀ a0 a1 s, Keeps g s0 s → Keeps g s0 (performOp a0 a1 s) := by
  intro a0 a1 s h
  unfold performOp
  refine @keeps_ite _ (Keeps g s0) _ _ _ _ ?_ ?_
  ·
    refine provide_keeps (hg.sub rfl) _ _ ?_
    with_reducible assumption
  ·
    refine postStored_keeps (hg.sub rfl) _ _ ?_
    refine fillHot_keeps (hg.sub rfl) _ _ ?_
    refine cohPerform_keeps (hg.sub rfl) _ _ _ _ ?_
    with_reducible assumption

theorem performMem_keeps (hg : Free 12282092320 g) : ∀ a0 a1 s, Keeps g s0 s → Keeps g s0 (performMem a0 a1 s) := by
  intro a0 a1 s h
  unfold performMem
  extract_lets +onlyGivenNames v1
  clear_value v1
  split
  ·
    rename_i y2 y3 y4
    refine complete_keeps (hg.sub rfl) _ _ _ _ ?_
    with_reducible assumption
  ·
    rename_i y5 y6
    refine @keeps_ite _ (Keeps g s0) _ _ _ _ ?_ ?_
    ·
      refine complete_keeps (hg.sub rfl) _ _ _ _ ?_
      with_reducible assumption
    ·
      split
      ·
        rename_i y7 y8
        refine needStill_keeps (hg.sub rfl) _ _ _ ?_
        with_reducible assumption
      ·
        rename_i y9 y10
        refine needPlain_keeps (hg.sub rfl) _ _ _ ?_
        with_reducible assumption
      ·
        rename_i y11 y12
        refine @keeps_ite _ (Keeps g s0) _ _ _ _ ?_ ?_
        ·
          refine needPlain_keeps (hg.sub rfl) _ _ _ ?_
          with_reducible assumption
        ·
          split
          ·
            rename_i y13 y14 y15
            refine @keeps_ite _ (Keeps g s0) _ _ _ _ ?_ ?_
            ·
              refine performOp_keeps (hg.sub rfl) _ _ _ ?_
              with_reducible assumption
            ·
              refine damagedRead_keeps (hg.sub rfl) _ _ _ ?_
              with_reducible assumption
          ·
            rename_i y16 y17
            refine performOp_keeps (hg.sub rfl) _ _ _ ?_
            with_reducible assumption
      ·
        rename_i y18 y19
        refine placeDurable_keeps (hg.sub rfl) _ _ _ (fun x20 h21 => ?_) ?_
        ·
          refine performOp_keeps (hg.sub rfl) _ _ _ ?_
          with_reducible assumption
        ·
          with_reducible assumption

theorem performCtl_keeps (hg : Free 16639974304 g) : ∀ a0 s, Keeps g s0 s → Keeps g s0 (performCtl a0 s) := by
  intro a0 s h
  unfold performCtl
  extract_lets +onlyGivenNames v1
  clear_value v1
  refine @keeps_ite _ (Keeps g s0) _ _ _ _ ?_ ?_
  ·
    refine complete_keeps (hg.sub rfl) _ _ _ _ ?_
    with_reducible assumption
  ·
    split
    ·
      rename_i y2 y3 y4
      refine complete_keeps (hg.sub rfl) _ _ _ _ ?_
      with_reducible assumption
    ·
      rename_i y5 y6
      refine @keeps_ite _ (Keeps g s0) _ _ _ _ ?_ ?_
      ·
        split
        ·
          rename_i y7 y8 y9 y10 y11
          refine Keeps.cut (g := g) (s0 := s0) y10 (Keeps3.of_eq ?_ y11) (fun h12 => ?_)
          ·
            refine readCtl_keeps (hg.sub rfl) _ _ ?_
            with_reducible assumption
          refine complete_keeps (hg.sub rfl) _ _ _ _ ?_
          with_reducible assumption
      ·
        split
        ·
          rename_i y13 y14 y15 y16
          refine Keeps.cut (g := g) (s0 := s0) y15 (Keeps2.of_eq ?_ y16) (fun h17 => ?_)
          ·
            refine writeCtl_keeps (hg.sub rfl) _ _ _ ?_
            with_reducible assumption
          refine complete_keeps (hg.sub rfl) _ _ _ _ ?_
          refine mailboxStored_keeps (hg.sub rfl) _ _ ?_
          with_reducible assumption

theorem performWindow_keeps (hg : Free 134253320 g) : ∀ a0 s, Keeps g s0 s → Keeps g s0 (performWindow a0 s) := by
  intro a0 s h
  unfold performWindow
  refine @keeps_ite _ (Keeps g s0) _ _ _ _ ?_ ?_
  ·
    refine takePiece_keeps (hg.sub rfl) _ _ ?_
    with_reducible assumption
  ·
    split
    ·
      rename_i y1 y2 y3
      refine complete_keeps (hg.sub rfl) _ _ _ _ ?_
      with_reducible assumption
    ·
      rename_i y4 y5
      refine @keeps_ite _ (Keeps g s0) _ _ _ _ ?_ ?_
      ·
        refine windowLoad_keeps (hg.sub rfl) _ _ ?_
        with_reducible assumption
      ·
        refine stageStore_keeps (hg.sub rfl) _ _ ?_
        with_reducible assumption

theorem perform_keeps (hg : Free 16639974312 g) : ∀ a0 a1 s, Keeps g s0 s → Keeps g s0 (perform a0 a1 s) := by
  intro a0 a1 s h
  unfold perform
  refine @keeps_ite _ (Keeps g s0) _ _ _ _ ?_ ?_
  ·
    refine performPin_keeps (hg.sub rfl) _ _ ?_
    with_reducible assumption
  ·
    split
    ·
      rename_i y1 y2
      refine performMem_keeps (hg.sub rfl) _ _ _ ?_
      with_reducible assumption
    ·
      rename_i y3 y4
      refine performWindow_keeps (hg.sub rfl) _ _ ?_
      with_reducible assumption
    ·
      rename_i y5 y6
      refine performCtl_keeps (hg.sub rfl) _ _ ?_
      with_reducible assumption
    ·
      rename_i y7 y8 y9 y10
      refine complete_keeps (hg.sub rfl) _ _ _ _ ?_
      with_reducible assumption

theorem comboLanded_keeps (hg : Free 134220544 g) : ∀ a0 a1 s, Keeps g s0 s → Keeps g s0 (comboLanded a0 a1 s) := by
  intro a0 a1 s h
  unfold comboLanded
  split
  ·
    rename_i y1 y2
    with_reducible assumption
  ·
    rename_i y3 y4 y5
    extract_lets +onlyGivenNames v6 v7
    refine Keeps.cut (g := g) (s0 := s0) v7 ?_ (fun h8 => ?_)
    ·
      unfold v7
      refine keeps_net (s := s) 512 (hg.sub rfl) ?_ (.inl rfl) (.inr rfl)
      with_reducible assumption
    clear_value v7
    extract_lets +onlyGivenNames v9
    refine keeps_foldl (P := Keeps g s0) (fun b10 x11 h12 => ?_) _ _ ?_
    ·
      unfold v9
      split
      ·
        rename_i y13 y14 y15
        refine @keeps_ite _ (Keeps g s0) _ _ _ _ ?_ ?_
        ·
          refine complete_keeps (hg.sub rfl) _ _ _ _ ?_
          with_reducible assumption
        ·
          refine @keeps_ite _ (Keeps g s0) _ _ _ _ ?_ ?_
          ·
            refine complete_keeps (hg.sub rfl) _ _ _ _ ?_
            with_reducible assumption
          ·
            extract_lets +onlyGivenNames v16 v17
            clear_value v16
            clear_value v17
            refine complete_keeps (hg.sub rfl) _ _ _ _ ?_
            with_reducible assumption
    ·
      with_reducible assumption

theorem pumpOne_keeps (hg : Free 205622024 g) : ∀ a0 s, Keeps g s0 s → Keeps g s0 (pumpOne a0 s) := by
  intro a0 s h
  unfold pumpOne
  split
  ·
    rename_i y1 y2 y3 y4
    extract_lets +onlyGivenNames v5
    extract_lets +onlyGivenNames v6
    refine Keeps.cut (g := g) (s0 := s0) v6 ?_ (fun h7 => ?_)
    ·
      unfold v6
      refine keeps_weir (s := s) 2048 (hg.sub rfl) ?_ (.inr rfl) (.inl rfl)
      with_reducible assumption
    clear_value v6
    refine @keeps_ite _ (Keeps g s0) _ _ _ _ ?_ ?_
    ·
      refine retryStage_keeps (hg.sub rfl) _ ?_
      refine sluiceLanded_keeps (hg.sub rfl) _ _ _ _ ?_
      with_reducible assumption
    ·
      refine @keeps_ite _ (Keeps g s0) _ _ _ _ ?_ ?_
      ·
        refine lostWindow_keeps (hg.sub rfl) _ _ ?_
        with_reducible assumption
      ·
        with_reducible assumption
  ·
    rename_i y8 y9 y10
    extract_lets +onlyGivenNames v11
    extract_lets +onlyGivenNames v12
    refine Keeps.cut (g := g) (s0 := s0) v12 ?_ (fun h13 => ?_)
    ·
      unfold v12
      refine keeps_weir (s := s) 2048 (hg.sub rfl) ?_ (.inr rfl) (.inl rfl)
      with_reducible assumption
    clear_value v12
    refine @keeps_ite _ (Keeps g s0) _ _ _ _ ?_ ?_
    ·
      refine lostMirror_keeps (hg.sub rfl) _ _ ?_
      with_reducible assumption
    ·
      refine mirrorLanded_keeps (hg.sub rfl) _ _ _ ?_
      with_reducible assumption
  ·
    rename_i y14 y15 y16
    refine comboLanded_keeps (hg.sub rfl) _ _ _ ?_
    refine keeps_weir (s := s) 2048 (hg.sub rfl) ?_ (.inr rfl) (.inl rfl)
    with_reducible assumption
  ·
    rename_i y17 y18 y19 y20
    refine farLanded_keeps (hg.sub rfl) _ _ _ ?_
    refine keeps_weir (s := s) 2048 (hg.sub rfl) ?_ (.inr rfl) (.inl rfl)
    with_reducible assumption
  ·
    rename_i y21 y22 y23 y24
    refine replyPump_keeps (hg.sub rfl) _ ?_
    with_reducible assumption
  ·
    rename_i y25 y26 y27 y28 y29 y30
    with_reducible assumption

theorem pumpAll_keeps (hg : Free 205622024 g) : ∀ a0 s, Keeps g s0 s → Keeps g s0 (pumpAll a0 s) := by
  intro a0 s
  induction a0 generalizing s
  ·
    intro h1
    unfold pumpAll
    with_reducible assumption
  ·
    rename_i y2 y3
    intro h4
    unfold pumpAll
    split
    ·
      rename_i y5 y6
      with_reducible assumption
    ·
      rename_i y7 y8 y9
      refine y3 _ ?_
      refine pumpOne_keeps (hg.sub rfl) _ _ ?_
      with_reducible assumption

theorem pump_keeps (hg : Free 205622024 g) : ∀ s, Keeps g s0 s → Keeps g s0 (pump s) := by
  intro s h
  unfold pump
  refine pumpAll_keeps (hg.sub rfl) _ _ ?_
  with_reducible assumption

theorem performCmd_keeps (hg : Free 16639974312 g) : ∀ a0 a1 a2 s, Keeps g s0 s → Keeps g s0 (performCmd a0 a1 a2 s) := by
  intro a0 a1 a2 s h
  unfold performCmd
  refine @keeps_ite _ (Keeps g s0) _ _ _ _ ?_ ?_
  ·
    refine pump_keeps (hg.sub rfl) _ ?_
    refine perform_keeps (hg.sub rfl) _ _ _ ?_
    refine unpipe_keeps (hg.sub rfl) _ _ ?_
    with_reducible assumption
  ·
    with_reducible assumption

theorem execConfRead_keeps (hg : Free 16639974312 g) : ∀ a0 a1 s, Keeps g s0 s → KeepsN g s0 (execConfRead a0 a1 s) := by
  intro a0 a1 s h
  unfold execConfRead
  refine KeepsN.next ?_
  refine performCmd_keeps (hg.sub rfl) _ _ _ _ ?_
  with_reducible assumption

theorem execLoad_keeps (hg : Free 16639974312 g) : ∀ a0 a1 s, Keeps g s0 s → KeepsN g s0 (execLoad a0 a1 s) := by
  intro a0 a1 s h
  unfold execLoad
  refine KeepsN.next ?_
  refine performCmd_keeps (hg.sub rfl) _ _ _ _ ?_
  with_reducible assumption

theorem execSluiceGet_keeps (hg : Free 16639974312 g) : ∀ a0 a1 s, Keeps g s0 s → KeepsN g s0 (execSluiceGet a0 a1 s) := by
  intro a0 a1 s h
  unfold execSluiceGet
  refine KeepsN.next ?_
  refine performCmd_keeps (hg.sub rfl) _ _ _ _ ?_
  with_reducible assumption

theorem execUpgrade_keeps (hg : Free 16639974312 g) : ∀ a0 a1 s, Keeps g s0 s → KeepsN g s0 (execUpgrade a0 a1 s) := by
  intro a0 a1 s h
  unfold execUpgrade
  refine KeepsN.next ?_
  refine performCmd_keeps (hg.sub rfl) _ _ _ _ ?_
  with_reducible assumption

theorem execReduce_keeps (hg : Free 16639974312 g) : ∀ a0 a1 s, Keeps g s0 s → KeepsN g s0 (execReduce a0 a1 s) := by
  intro a0 a1 s h
  unfold execReduce
  refine KeepsN.next ?_
  refine performCmd_keeps (hg.sub rfl) _ _ _ _ ?_
  with_reducible assumption

theorem execSluicePut_keeps (hg : Free 16639974312 g) : ∀ a0 s, Keeps g s0 s → KeepsN g s0 (execSluicePut a0 s) := by
  intro a0 s h
  unfold execSluicePut
  refine KeepsN.next ?_
  refine performCmd_keeps (hg.sub rfl) _ _ _ _ ?_
  with_reducible assumption

theorem execSluiceFlushAge_keeps (hg : Free 205622024 g) : ∀ a0 a1 s, Keeps g s0 s → KeepsN g s0 (execSluiceFlushAge a0 a1 s) := by
  intro a0 a1 s h
  unfold execSluiceFlushAge
  refine KeepsN.next ?_
  refine pump_keeps (hg.sub rfl) _ ?_
  refine sluiceFlushAge_keeps (hg.sub rfl) _ _ _ ?_
  with_reducible assumption

theorem confirmGrant_keeps (hg : Free 16384 g) : ∀ a0 s, Keeps g s0 s → KeepsO g s0 (confirmGrant a0 s) := by
  intro a0 s h
  unfold confirmGrant
  refine @keeps_ite _ (KeepsO g s0) _ _ _ _ ?_ ?_
  ·
    refine KeepsO.some ?_
    with_reducible assumption
  ·
    extract_lets +onlyGivenNames v1 v2
    clear_value v1
    clear_value v2
    split
    ·
      rename_i y3 y4
      split
      ·
        rename_i y5 y6 y7
        refine KeepsO.some ?_
        refine grantFresh_keeps (hg.sub rfl) _ _ _ _ _ ?_
        with_reducible assumption
      ·
        rename_i y8 y9
        exact KeepsO.none
    ·
      rename_i y10 y11 y12
      refine @keeps_ite _ (KeepsO g s0) _ _ _ _ ?_ ?_
      ·
        refine KeepsO.some ?_
        refine updDir_keeps (hg.sub rfl) _ _ _ ?_
        with_reducible assumption
      ·
        refine KeepsO.some ?_
        with_reducible assumption

theorem provisionalResolve_keeps (hg : Free 3625048864 g) : ∀ a0 a1 s, Keeps g s0 s → Keeps g s0 (provisionalResolve a0 a1 s) := by
  intro a0 a1 s h
  unfold provisionalResolve
  split
  ·
    rename_i y1 y2
    with_reducible assumption
  ·
    rename_i y3 y4 y5
    split
    ·
      rename_i y6 y7
      with_reducible assumption
    ·
      rename_i y8 y9 y10
      extract_lets +onlyGivenNames v11 v12
      clear_value v11
      extract_lets +onlyGivenNames v13
      refine Keeps.cut (g := g) (s0 := s0) v13 ?_ (fun h14 => ?_)
      ·
        unfold v13
        refine keeps_net (s := s) 512 (hg.sub rfl) ?_ (.inl rfl) (.inr rfl)
        with_reducible assumption
      clear_value v13
      split
      ·
        rename_i y15 y16 y17
        refine Keeps.cut (g := g) (s0 := s0) y16 (KeepsO.of_eq ?_ y17) (fun h18 => ?_)
        ·
          refine @keeps_ite _ (KeepsO g s0) _ _ _ _ ?_ ?_
          ·
            refine confirmGrant_keeps (hg.sub rfl) _ _ ?_
            with_reducible assumption
          ·
            exact KeepsO.none
        refine confEntry_keeps (hg.sub rfl) _ _ _ ?_
        with_reducible assumption
      ·
        rename_i y19 y20
        refine cohPerform_keeps (hg.sub rfl) _ _ _ _ ?_
        refine confEntry_keeps (hg.sub rfl) _ _ _ ?_
        with_reducible assumption

theorem execRdShared_keeps (hg : Free 16639974312 g) : ∀ a0 a1 s, Keeps g s0 s → KeepsN g s0 (execRdShared a0 a1 s) := by
  intro a0 a1 s h
  unfold execRdShared
  refine KeepsN.next ?_
  refine performCmd_keeps (hg.sub rfl) _ _ _ _ ?_
  with_reducible assumption

theorem execMcastStore_keeps (hg : Free 16639974312 g) : ∀ a0 s, Keeps g s0 s → KeepsN g s0 (execMcastStore a0 s) := by
  intro a0 s h
  unfold execMcastStore
  refine KeepsN.next ?_
  refine performCmd_keeps (hg.sub rfl) _ _ _ _ ?_
  with_reducible assumption

theorem execRdOwn_keeps (hg : Free 16639974312 g) : ∀ a0 a1 s, Keeps g s0 s → KeepsN g s0 (execRdOwn a0 a1 s) := by
  intro a0 a1 s h
  unfold execRdOwn
  refine KeepsN.next ?_
  refine performCmd_keeps (hg.sub rfl) _ _ _ _ ?_
  with_reducible assumption

theorem execMarkDirty_keeps (hg : Free 16639974312 g) : ∀ a0 s, Keeps g s0 s → KeepsN g s0 (execMarkDirty a0 s) := by
  intro a0 s h
  unfold execMarkDirty
  refine KeepsN.next ?_
  refine performCmd_keeps (hg.sub rfl) _ _ _ _ ?_
  with_reducible assumption

theorem execConfAtomic_keeps (hg : Free 16639974312 g) : ∀ a0 a1 s, Keeps g s0 s → KeepsN g s0 (execConfAtomic a0 a1 s) := by
  intro a0 a1 s h
  unfold execConfAtomic
  refine KeepsN.next ?_
  refine performCmd_keeps (hg.sub rfl) _ _ _ _ ?_
  with_reducible assumption

theorem execFlitReceived_keeps (hg : Free 12328229800 g) : ∀ a0 a1 s, Keeps g s0 s → KeepsN g s0 (execFlitReceived a0 a1 s) := by
  intro a0 a1 s h
  unfold execFlitReceived
  refine KeepsN.next ?_
  refine pump_keeps (hg.sub rfl) _ ?_
  refine losses_keeps (hg.sub rfl) _ ?_
  refine receiveFlit_keeps (hg.sub rfl) _ _ _ ?_
  with_reducible assumption

theorem execStore_keeps (hg : Free 16639974312 g) : ∀ a0 s, Keeps g s0 s → KeepsN g s0 (execStore a0 s) := by
  intro a0 s h
  unfold execStore
  refine KeepsN.next ?_
  refine performCmd_keeps (hg.sub rfl) _ _ _ _ ?_
  with_reducible assumption

theorem execEvict_keeps (hg : Free 16639974312 g) : ∀ a0 s, Keeps g s0 s → KeepsN g s0 (execEvict a0 s) := by
  intro a0 s h
  unfold execEvict
  refine KeepsN.next ?_
  refine performCmd_keeps (hg.sub rfl) _ _ _ _ ?_
  with_reducible assumption

theorem execPinMsg_keeps (hg : Free 16639974312 g) : ∀ a0 s, Keeps g s0 s → KeepsN g s0 (execPinMsg a0 s) := by
  intro a0 s h
  unfold execPinMsg
  refine KeepsN.next ?_
  refine performCmd_keeps (hg.sub rfl) _ _ _ _ ?_
  with_reducible assumption

theorem execAtomic_keeps (hg : Free 16639974312 g) : ∀ a0 a1 s, Keeps g s0 s → KeepsN g s0 (execAtomic a0 a1 s) := by
  intro a0 a1 s h
  unfold execAtomic
  refine KeepsN.next ?_
  refine performCmd_keeps (hg.sub rfl) _ _ _ _ ?_
  with_reducible assumption

theorem execProvisionalResolve_keeps (hg : Free 3696352040 g) : ∀ a0 a1 s, Keeps g s0 s → KeepsN g s0 (execProvisionalResolve a0 a1 s) := by
  intro a0 a1 s h
  unfold execProvisionalResolve
  refine KeepsN.next ?_
  refine pump_keeps (hg.sub rfl) _ ?_
  refine provisionalResolve_keeps (hg.sub rfl) _ _ _ ?_
  with_reducible assumption

theorem messageCmd_keeps (hg : Free 205622024 g) : ∀ a0 a1 a2 s, (∀ x0 t, Keeps g s0 t → Keeps g s0 (a1 x0 t)) → Keeps g s0 s → Keeps g s0 (messageCmd a0 a1 a2 s) := by
  intro a0 a1 a2 s hk0 h
  unfold messageCmd
  refine @keeps_ite _ (Keeps g s0) _ _ _ _ ?_ ?_
  ·
    refine pump_keeps (hg.sub rfl) _ ?_
    refine hk0 _ _ ?_
    refine unpipe_keeps (hg.sub rfl) _ _ ?_
    with_reducible assumption
  ·
    with_reducible assumption

theorem takeNotice_keeps (hg : Free 2281790208 g) : ∀ a0 s, Keeps g s0 s → Keeps g s0 (takeNotice a0 s) := by
  intro a0 s h
  unfold takeNotice
  extract_lets +onlyGivenNames v1 v2
  clear_value v1
  clear_value v2
  refine @keeps_ite _ (Keeps g s0) _ _ _ _ ?_ ?_
  ·
    refine takeJoin_keeps (hg.sub rfl) _ _ ?_
    with_reducible assumption
  ·
    split
    ·
      rename_i y3 y4 y5
      refine @keeps_ite _ (Keeps g s0) _ _ _ _ ?_ ?_
      ·
        refine fallDomain_keeps (hg.sub rfl) _ _ _ ?_
        with_reducible assumption
      ·
        with_reducible assumption
    ·
      rename_i y6 y7
      with_reducible assumption

theorem execDomainNotice_keeps (hg : Free 2353126152 g) : ∀ a0 s, Keeps g s0 s → KeepsN g s0 (execDomainNotice a0 s) := by
  intro a0 s h
  unfold execDomainNotice
  refine KeepsN.next ?_
  refine messageCmd_keeps (hg.sub rfl) _ _ _ _ (fun x1 x2 h3 => ?_) ?_
  ·
    refine takeNotice_keeps (hg.sub rfl) _ _ ?_
    with_reducible assumption
  ·
    with_reducible assumption

theorem wakeWays_keeps (hg : Free 18432 g) : ∀ s, Keeps g s0 s → Keeps g s0 (wakeWays s) := by
  intro s h
  unfold wakeWays
  refine toPipeFront_keeps (hg.sub rfl) _ _ ?_
  refine keeps_coh (s := s) (hg.sub rfl) ?_
  with_reducible assumption

theorem wakeLine_keeps (hg : Free 3625048864 g) : ∀ a0 s, Keeps g s0 s → Keeps g s0 (wakeLine a0 s) := by
  intro a0 s h
  unfold wakeLine
  extract_lets +onlyGivenNames v1 v2
  clear_value v1
  clear_value v2
  extract_lets +onlyGivenNames v3
  refine Keeps.cut (g := g) (s0 := s0) v3 ?_ (fun h4 => ?_)
  ·
    unfold v3
    refine keeps_coh (s := s) (hg.sub rfl) ?_
    with_reducible assumption
  clear_value v3
  refine keeps_foldl (P := Keeps g s0) (fun b5 x6 h7 => ?_) _ _ ?_
  ·
    refine resume_keeps (hg.sub rfl) _ _ ?_
    with_reducible assumption
  ·
    with_reducible assumption

theorem endTxn_keeps (hg : Free 3625048864 g) : ∀ a0 s, Keeps g s0 s → Keeps g s0 (endTxn a0 s) := by
  intro a0 s h
  unfold endTxn
  split
  ·
    rename_i y1 y2
    with_reducible assumption
  ·
    rename_i y3 y4 y5
    refine @keeps_ite _ (Keeps g s0) _ _ _ _ ?_ ?_
    ·
      with_reducible assumption
    ·
      extract_lets +onlyGivenNames v6
      clear_value v6
      extract_lets +onlyGivenNames v7
      refine Keeps.cut (g := g) (s0 := s0) v7 ?_ (fun h8 => ?_)
      ·
        unfold v7
        refine keeps_coh (s := s) (hg.sub rfl) ?_
        with_reducible assumption
      clear_value v7
      refine relocate_keeps (hg.sub rfl) _ ?_
      refine wakeWays_keeps (hg.sub rfl) _ ?_
      refine wakeLine_keeps (hg.sub rfl) _ _ ?_
      refine finishTxn_keeps (hg.sub rfl) _ _ _ _ (fun x9 x10 h11 => ?_) ?_
      ·
        refine resume_keeps (hg.sub rfl) _ _ ?_
        with_reducible assumption
      ·
        with_reducible assumption

theorem countResult_keeps (hg : Free 3625048864 g) : ∀ a0 a1 a2 s, Keeps g s0 s → Keeps g s0 (countResult a0 a1 a2 s) := by
  intro a0 a1 a2 s h
  unfold countResult
  extract_lets +onlyGivenNames v1 v2 v3
  clear_value v1
  clear_value v2
  clear_value v3
  extract_lets +onlyGivenNames v4
  refine Keeps.cut (g := g) (s0 := s0) v4 ?_ (fun h5 => ?_)
  ·
    unfold v4
    refine keeps_coh (s := s) (hg.sub rfl) ?_
    with_reducible assumption
  clear_value v4
  refine endTxn_keeps (hg.sub rfl) _ _ ?_
  refine updDir_keeps (hg.sub rfl) _ _ _ ?_
  with_reducible assumption

theorem homeResult_keeps (hg : Free 3625048864 g) : ∀ a0 a1 a2 s, Keeps g s0 s → Keeps g s0 (homeResult a0 a1 a2 s) := by
  intro a0 a1 a2 s h
  unfold homeResult
  split
  ·
    rename_i y1 y2
    with_reducible assumption
  ·
    rename_i y3 y4 y5
    refine @keeps_ite _ (Keeps g s0) _ _ _ _ ?_ ?_
    ·
      refine keeps_coh (s := s) (hg.sub rfl) ?_
      with_reducible assumption
    ·
      refine countResult_keeps (hg.sub rfl) _ _ _ _ ?_
      with_reducible assumption

theorem answerHome_keeps (hg : Free 3625048864 g) : ∀ a0 a1 a2 a3 a4 s, Keeps g s0 s → Keeps g s0 (answerHome a0 a1 a2 a3 a4 s) := by
  intro a0 a1 a2 a3 a4 s h
  unfold answerHome
  refine @keeps_ite _ (Keeps g s0) _ _ _ _ ?_ ?_
  ·
    refine homeResult_keeps (hg.sub rfl) _ _ _ _ ?_
    with_reducible assumption
  ·
    extract_lets +onlyGivenNames v1
    clear_value v1
    refine issue_keeps (hg.sub rfl) _ _ ?_
    with_reducible assumption

theorem agentResult_keeps (hg : Free 3625048864 g) : ∀ a0 a1 a2 a3 a4 s, Keeps g s0 s → Keeps g s0 (agentResult a0 a1 a2 a3 a4 s) := by
  intro a0 a1 a2 a3 a4 s h
  unfold agentResult
  split
  ·
    rename_i y1 y2
    with_reducible assumption
  ·
    rename_i y3 y4 y5
    extract_lets +onlyGivenNames v6 v7 v8 v9 v10
    clear_value v7
    clear_value v8
    clear_value v9
    refine Keeps.cut (g := g) (s0 := s0) v10 ?_ (fun h11 => ?_)
    ·
      unfold v10
      refine keeps_coh (s := s) (hg.sub rfl) ?_
      with_reducible assumption
    clear_value v10
    extract_lets +onlyGivenNames v12
    clear_value v12
    refine @keeps_ite _ (Keeps g s0) _ _ _ _ ?_ ?_
    ·
      with_reducible assumption
    ·
      extract_lets +onlyGivenNames v13
      clear_value v13
      refine answerHome_keeps (hg.sub rfl) _ _ _ _ _ _ ?_
      refine keeps_coh (s := v10) (hg.sub rfl) ?_
      with_reducible assumption

theorem execPortDownTimeout_keeps (hg : Free 2353126152 g) : ∀ a0 s, Keeps g s0 s → KeepsN g s0 (execPortDownTimeout a0 s) := by
  intro a0 s h
  unfold execPortDownTimeout
  refine KeepsN.next ?_
  extract_lets +onlyGivenNames v1
  clear_value v1
  refine @keeps_ite _ (Keeps g s0) _ _ _ _ ?_ ?_
  ·
    refine pump_keeps (hg.sub rfl) _ ?_
    refine declareDead_keeps (hg.sub rfl) _ _ _ ?_
    with_reducible assumption
  ·
    with_reducible assumption

theorem takeSnpRsp_keeps (hg : Free 3625048864 g) : ∀ a0 s, Keeps g s0 s → Keeps g s0 (takeSnpRsp a0 s) := by
  intro a0 s h
  unfold takeSnpRsp
  split
  ·
    rename_i y1 y2 y3 y4
    refine @keeps_ite _ (Keeps g s0) _ _ _ _ ?_ ?_
    ·
      refine agentResult_keeps (hg.sub rfl) _ _ _ _ _ _ ?_
      with_reducible assumption
    ·
      refine homeResult_keeps (hg.sub rfl) _ _ _ _ ?_
      with_reducible assumption
  ·
    rename_i y5 y6
    with_reducible assumption

theorem execSnpRsp_keeps (hg : Free 3696352040 g) : ∀ a0 s, Keeps g s0 s → KeepsN g s0 (execSnpRsp a0 s) := by
  intro a0 s h
  unfold execSnpRsp
  refine KeepsN.next ?_
  refine messageCmd_keeps (hg.sub rfl) _ _ _ _ (fun x1 x2 h3 => ?_) ?_
  ·
    refine takeSnpRsp_keeps (hg.sub rfl) _ _ ?_
    with_reducible assumption
  ·
    with_reducible assumption

theorem afterHold_keeps (hg : Free 135289344 g) : ∀ s, Keeps g s0 s → Keeps g s0 (afterHold s) := by
  intro s h
  unfold afterHold
  refine goOn_keeps (hg.sub rfl) _ ?_
  refine relocate_keeps (hg.sub rfl) _ ?_
  with_reducible assumption

theorem evictionComplete_keeps (hg : Free 3625048864 g) : ∀ a0 s, Keeps g s0 s → Keeps g s0 (evictionComplete a0 s) := by
  intro a0 s h
  unfold evictionComplete
  split
  ·
    rename_i y1 y2
    with_reducible assumption
  ·
    rename_i y3 y4 y5
    refine @keeps_ite _ (Keeps g s0) _ _ _ _ ?_ ?_
    ·
      with_reducible assumption
    ·
      extract_lets +onlyGivenNames v6 v7 v8 v9
      clear_value v7
      refine Keeps.cut (g := g) (s0 := s0) v8 ?_ (fun h10 => ?_)
      ·
        unfold v8
        refine keeps_update (s := s) 16896 (hg.sub rfl) ?_ (.inr rfl) (.inr rfl) (.inr rfl) (.inr rfl) (.inr rfl) (.inr rfl) (.inr rfl) (.inr rfl) (.inr rfl) (.inl rfl) (.inr rfl) (.inr rfl) (.inr rfl) (.inr rfl) (.inl rfl) (.inr rfl) (.inr rfl) (.inr rfl) (.inr rfl) (.inr rfl) (.inr rfl) (.inr rfl) (.inr rfl) (.inr rfl) (.inr rfl) (.inr rfl) (.inr rfl) (.inr rfl) (.inr rfl) (.inr rfl) (.inr rfl) (.inr rfl) (.inr rfl) (.inr rfl) (fun m => m)
        with_reducible assumption
      clear_value v8
      refine Keeps.cut (g := g) (s0 := s0) v9 ?_ (fun h11 => ?_)
      ·
        unfold v9
        split
        ·
          rename_i y12 y13 y14
          refine Keeps2.snd ?_
          refine writeLines_keeps (hg.sub rfl) _ _ _ ?_
          with_reducible assumption
        ·
          rename_i y15 y16
          with_reducible assumption
      clear_value v9
      extract_lets +onlyGivenNames v17 v18
      refine Keeps.cut (g := g) (s0 := s0) v17 ?_ (fun h19 => ?_)
      ·
        unfold v17
        refine freeDir_keeps (hg.sub rfl) _ _ ?_
        with_reducible assumption
      clear_value v17
      refine Keeps.cut (g := g) (s0 := s0) v18 ?_ (fun h20 => ?_)
      ·
        unfold v18
        split
        ·
          rename_i y21 y22 y23
          refine resume_keeps (hg.sub rfl) _ _ ?_
          with_reducible assumption
        ·
          rename_i y24 y25
          with_reducible assumption
      clear_value v18
      refine afterHold_keeps (hg.sub rfl) _ ?_
      refine wakeWays_keeps (hg.sub rfl) _ ?_
      refine wakeLine_keeps (hg.sub rfl) _ _ ?_
      with_reducible assumption

theorem execEvictionComplete_keeps (hg : Free 3696352040 g) : ∀ a0 s, Keeps g s0 s → KeepsN g s0 (execEvictionComplete a0 s) := by
  intro a0 s h
  unfold execEvictionComplete
  refine KeepsN.next ?_
  refine pump_keeps (hg.sub rfl) _ ?_
  refine evictionComplete_keeps (hg.sub rfl) _ _ ?_
  with_reducible assumption

theorem noticeResend_keeps (hg : Free 16896 g) : ∀ s, Keeps g s0 s → Keeps g s0 (noticeResend s) := by
  intro s h
  unfold noticeResend
  extract_lets +onlyGivenNames v1
  clear_value v1
  refine sendNotices_keeps (hg.sub rfl) _ ?_
  refine keeps_coh (s := s) (hg.sub rfl) ?_
  with_reducible assumption

theorem execNoticeResend_keeps (hg : Free 16896 g) : ∀ s, Keeps g s0 s → KeepsN g s0 (execNoticeResend s) := by
  intro s h
  unfold execNoticeResend
  refine KeepsN.next ?_
  refine noticeResend_keeps (hg.sub rfl) _ ?_
  with_reducible assumption

theorem takeSnoop_keeps (hg : Free 3625048864 g) : ∀ a0 s, Keeps g s0 s → Keeps g s0 (takeSnoop a0 s) := by
  intro a0 s h
  unfold takeSnoop
  extract_lets +onlyGivenNames v1
  clear_value v1
  split
  ·
    rename_i y2 y3 y4 y5
    refine Keeps.cut (g := g) (s0 := s0) y4 (Keeps2.of_eq ?_ y5) (fun h6 => ?_)
    ·
      refine keeps_foldl (P := Keeps2 g s0) (fun b7 x8 h9 => ?_) _ _ ?_
      ·
        split
        ·
          rename_i y10 y11 y12 y13
          refine Keeps.cut (g := g) (s0 := s0) y12 (Keeps2.of_eq ?_ y13) (fun h14 => ?_)
          ·
            refine relaySnoop_keeps (hg.sub rfl) _ _ _ _ _ _ ?_
            refine Keeps2.snd ?_
            with_reducible assumption
          refine Keeps2.mk ?_
          with_reducible assumption
      ·
        refine Keeps2.mk ?_
        with_reducible assumption
    refine @keeps_ite _ (Keeps g s0) _ _ _ _ ?_ ?_
    ·
      refine answerHome_keeps (hg.sub rfl) _ _ _ _ _ _ ?_
      with_reducible assumption
    ·
      with_reducible assumption

theorem execSnpInv_keeps (hg : Free 3696352040 g) : ∀ a0 s, Keeps g s0 s → KeepsN g s0 (execSnpInv a0 s) := by
  intro a0 s h
  unfold execSnpInv
  refine KeepsN.next ?_
  refine messageCmd_keeps (hg.sub rfl) _ _ _ _ (fun x1 x2 h3 => ?_) ?_
  ·
    refine takeSnoop_keeps (hg.sub rfl) _ _ ?_
    with_reducible assumption
  ·
    with_reducible assumption

theorem wbArrived_keeps (hg : Free 3625048864 g) : ∀ s, Keeps g s0 s → Keeps g s0 (wbArrived s) := by
  intro s h
  unfold wbArrived
  refine keeps_foldl (P := Keeps g s0) (fun b1 x2 h3 => ?_) _ _ ?_
  ·
    refine countResult_keeps (hg.sub rfl) _ _ _ _ ?_
    with_reducible assumption
  ·
    with_reducible assumption

theorem execSnpData_keeps (hg : Free 3696352040 g) : ∀ a0 s, Keeps g s0 s → KeepsN g s0 (execSnpData a0 s) := by
  intro a0 s h
  unfold execSnpData
  refine KeepsN.next ?_
  refine messageCmd_keeps (hg.sub rfl) _ _ _ _ (fun x1 x2 h3 => ?_) ?_
  ·
    refine takeSnoop_keeps (hg.sub rfl) _ _ ?_
    with_reducible assumption
  ·
    with_reducible assumption

theorem snoopTimeout_keeps (hg : Free 2281790208 g) : ∀ a0 s, Keeps g s0 s → Keeps g s0 (snoopTimeout a0 s) := by
  intro a0 s h
  unfold snoopTimeout
  split
  ·
    rename_i y1 y2 y3
    extract_lets +onlyGivenNames v4
    clear_value v4
    extract_lets +onlyGivenNames v5
    refine Keeps.cut (g := g) (s0 := s0) v5 ?_ (fun h6 => ?_)
    ·
      unfold v5
      refine keeps_coh (s := s) (hg.sub rfl) ?_
      with_reducible assumption
    clear_value v5
    refine declareDead_keeps (hg.sub rfl) _ _ _ ?_
    with_reducible assumption
  ·
    rename_i y7 y8
    split
    ·
      rename_i y9 y10 y11
      refine declareDead_keeps (hg.sub rfl) _ _ _ ?_
      refine keeps_coh (s := s) (hg.sub rfl) ?_
      with_reducible assumption
    ·
      rename_i y12 y13
      with_reducible assumption

theorem execSnoopTimeout_keeps (hg : Free 2353126152 g) : ∀ a0 s, Keeps g s0 s → KeepsN g s0 (execSnoopTimeout a0 s) := by
  intro a0 s h
  unfold execSnoopTimeout
  refine KeepsN.next ?_
  refine pump_keeps (hg.sub rfl) _ ?_
  refine snoopTimeout_keeps (hg.sub rfl) _ _ ?_
  with_reducible assumption

theorem execTakedownComplete_keeps (hg : Free 8610994176 g) : ∀ a0 s, Keeps g s0 s → KeepsN g s0 (execTakedownComplete a0 s) := by
  intro a0 s h
  unfold execTakedownComplete
  refine KeepsN.next ?_
  refine takedown_keeps (hg.sub rfl) _ _ ?_
  with_reducible assumption

theorem execSnpCur_keeps (hg : Free 3696352040 g) : ∀ a0 s, Keeps g s0 s → KeepsN g s0 (execSnpCur a0 s) := by
  intro a0 s h
  unfold execSnpCur
  refine KeepsN.next ?_
  refine messageCmd_keeps (hg.sub rfl) _ _ _ _ (fun x1 x2 h3 => ?_) ?_
  ·
    refine takeSnoop_keeps (hg.sub rfl) _ _ ?_
    with_reducible assumption
  ·
    with_reducible assumption

theorem execWbDirty_keeps (hg : Free 16639974312 g) : ∀ a0 s, Keeps g s0 s → KeepsN g s0 (execWbDirty a0 s) := by
  intro a0 s h
  unfold execWbDirty
  refine KeepsN.next ?_
  refine wbArrived_keeps (hg.sub rfl) _ ?_
  refine performCmd_keeps (hg.sub rfl) _ _ _ _ ?_
  with_reducible assumption

theorem execCxlBiRsp_keeps (hg : Free 3696352040 g) : ∀ a0 a1 a2 s, Keeps g s0 s → KeepsN g s0 (execCxlBiRsp a0 a1 a2 s) := by
  intro a0 a1 a2 s h
  unfold execCxlBiRsp
  refine KeepsN.next ?_
  split
  ·
    rename_i y1 y2
    with_reducible assumption
  ·
    rename_i y3 y4 y5
    extract_lets +onlyGivenNames v6 v7
    clear_value v6
    refine Keeps.cut (g := g) (s0 := s0) v7 ?_ (fun h8 => ?_)
    ·
      unfold v7
      refine updHost_keeps (hg.sub rfl) _ _ _ ?_
      with_reducible assumption
    clear_value v7
    refine pump_keeps (hg.sub rfl) _ ?_
    refine agentResult_keeps (hg.sub rfl) _ _ _ _ _ _ ?_
    with_reducible assumption

theorem hostFail_keeps (hg : Free 134217984 g) : ∀ a0 a1 a2 a3 s, Keeps g s0 s → Keeps g s0 (hostFail a0 a1 a2 a3 s) := by
  intro a0 a1 a2 a3 s h
  unfold hostFail
  refine hostOutcome_keeps (hg.sub rfl) _ _ _ _ _ _ ?_
  with_reducible assumption

theorem hostRequest_keeps (hg : Free 134224640 g) : ∀ a0 a1 a2 a3 a4 a5 a6 a7 s, Keeps g s0 s → Keeps g s0 (hostRequest a0 a1 a2 a3 a4 a5 a6 a7 s) := by
  intro a0 a1 a2 a3 a4 a5 a6 a7 s h
  unfold hostRequest
  extract_lets +onlyGivenNames v1 v2 v3
  clear_value v1
  clear_value v2
  clear_value v3
  refine @keeps_ite _ (Keeps g s0) _ _ _ _ ?_ ?_
  ·
    with_reducible assumption
  ·
    refine @keeps_ite _ (Keeps g s0) _ _ _ _ ?_ ?_
    ·
      refine hostFail_keeps (hg.sub rfl) _ _ _ _ _ ?_
      with_reducible assumption
    ·
      split
      ·
        rename_i y4 y5 y6 y7
        refine Keeps.cut (g := g) (s0 := s0) y6 (Keeps2.of_eq ?_ y7) (fun h8 => ?_)
        ·
          refine translateCached_keeps (hg.sub rfl) _ _ _ _ _ _ _ ?_
          with_reducible assumption
        split
        ·
          rename_i y9 y10
          refine hostFail_keeps (hg.sub rfl) _ _ _ _ _ ?_
          with_reducible assumption
        ·
          rename_i y11 y12 y13
          refine hostFail_keeps (hg.sub rfl) _ _ _ _ _ ?_
          with_reducible assumption
        ·
          rename_i y14 y15
          split
          ·
            rename_i y16 y17
            refine hostFail_keeps (hg.sub rfl) _ _ _ _ _ ?_
            with_reducible assumption
          ·
            rename_i y18 y19 y20 y21
            extract_lets +onlyGivenNames v22
            clear_value v22
            split
            ·
              rename_i y23 y24 y25 y26
              refine hostFail_keeps (hg.sub rfl) _ _ _ _ _ ?_
              with_reducible assumption
            ·
              rename_i y27 y28
              refine @keeps_ite _ (Keeps g s0) _ _ _ _ ?_ ?_
              ·
                refine hostFail_keeps (hg.sub rfl) _ _ _ _ _ ?_
                with_reducible assumption
              ·
                refine @keeps_ite _ (Keeps g s0) _ _ _ _ ?_ ?_
                ·
                  with_reducible assumption
                ·
                  refine issue_keeps (hg.sub rfl) _ _ ?_
                  with_reducible assumption

theorem execCxlMemWr_keeps (hg : Free 134224640 g) : ∀ a0 a1 a2 a3 a4 s, Keeps g s0 s → KeepsN g s0 (execCxlMemWr a0 a1 a2 a3 a4 s) := by
  intro a0 a1 a2 a3 a4 s h
  unfold execCxlMemWr
  refine KeepsN.next ?_
  refine hostRequest_keeps (hg.sub rfl) _ _ _ _ _ _ _ _ _ ?_
  with_reducible assumption

theorem hostDies_keeps (hg : Free 2354174728 g) : ∀ a0 a1 s, Keeps g s0 s → Keeps g s0 (hostDies a0 a1 s) := by
  intro a0 a1 s h
  unfold hostDies
  refine pump_keeps (hg.sub rfl) _ ?_
  refine declareDead_keeps (hg.sub rfl) _ _ _ ?_
  refine updHost_keeps (hg.sub rfl) _ _ _ ?_
  with_reducible assumption

theorem execCxlViral_keeps (hg : Free 2354174728 g) : ∀ a0 s, Keeps g s0 s → KeepsN g s0 (execCxlViral a0 s) := by
  intro a0 s h
  unfold execCxlViral
  refine KeepsN.next ?_
  refine @keeps_ite _ (Keeps g s0) _ _ _ _ ?_ ?_
  ·
    refine hostDies_keeps (hg.sub rfl) _ _ _ ?_
    with_reducible assumption
  ·
    with_reducible assumption

theorem execCxlBiConflict_keeps (hg : Free 134217728 g) : ∀ a0 a1 a2 s, Keeps g s0 s → KeepsN g s0 (execCxlBiConflict a0 a1 a2 s) := by
  intro a0 a1 a2 s h
  unfold execCxlBiConflict
  refine KeepsN.next ?_
  refine @keeps_ite _ (Keeps g s0) _ _ _ _ ?_ ?_
  ·
    refine emit_keeps (hg.sub rfl) _ _ ?_
    with_reducible assumption
  ·
    with_reducible assumption

theorem execHostLinkTrained_keeps (hg : Free 1131008 g) : ∀ a0 a1 a2 s, Keeps g s0 s → KeepsN g s0 (execHostLinkTrained a0 a1 a2 s) := by
  intro a0 a1 a2 s h
  unfold execHostLinkTrained
  refine KeepsN.next ?_
  extract_lets +onlyGivenNames v1
  clear_value v1
  refine @keeps_ite _ (Keeps g s0) _ _ _ _ ?_ ?_
  ·
    with_reducible assumption
  ·
    extract_lets +onlyGivenNames v2 v3 v4 v5
    clear_value v2
    clear_value v3
    refine Keeps.cut (g := g) (s0 := s0) v4 ?_ (fun h6 => ?_)
    ·
      unfold v4
      refine updHost_keeps (hg.sub rfl) _ _ _ ?_
      with_reducible assumption
    clear_value v4
    refine Keeps.cut (g := g) (s0 := s0) v5 ?_ (fun h7 => ?_)
    ·
      unfold v5
      refine @keeps_ite _ (Keeps g s0) _ _ _ _ ?_ ?_
      ·
        with_reducible assumption
      ·
        refine logEv_keeps (hg.sub rfl) _ _ _ _ _ _ _ ?_
        with_reducible assumption
    clear_value v5
    refine @keeps_ite _ (Keeps g s0) _ _ _ _ ?_ ?_
    ·
      refine agentJoins_keeps (hg.sub rfl) _ _ ?_
      with_reducible assumption
    ·
      with_reducible assumption

theorem execCxlMemRd_keeps (hg : Free 134224640 g) : ∀ a0 a1 a2 a3 s, Keeps g s0 s → KeepsN g s0 (execCxlMemRd a0 a1 a2 a3 s) := by
  intro a0 a1 a2 a3 s h
  unfold execCxlMemRd
  refine KeepsN.next ?_
  split
  ·
    rename_i y1
    refine hostRequest_keeps (hg.sub rfl) _ _ _ _ _ _ _ _ _ ?_
    with_reducible assumption
  ·
    rename_i y2
    refine hostRequest_keeps (hg.sub rfl) _ _ _ _ _ _ _ _ _ ?_
    with_reducible assumption
  ·
    rename_i y3
    refine hostRequest_keeps (hg.sub rfl) _ _ _ _ _ _ _ _ _ ?_
    with_reducible assumption

theorem execHostL0Timeout_keeps (hg : Free 2354174728 g) : ∀ a0 s, Keeps g s0 s → KeepsN g s0 (execHostL0Timeout a0 s) := by
  intro a0 s h
  unfold execHostL0Timeout
  refine KeepsN.next ?_
  refine @keeps_ite _ (Keeps g s0) _ _ _ _ ?_ ?_
  ·
    refine hostDies_keeps (hg.sub rfl) _ _ _ ?_
    with_reducible assumption
  ·
    with_reducible assumption

theorem execPerstDeassert_keeps (hg : Free 1048576 g) : ∀ a0 s, Keeps g s0 s → KeepsN g s0 (execPerstDeassert a0 s) := by
  intro a0 s h
  unfold execPerstDeassert
  refine KeepsN.next ?_
  refine @keeps_ite _ (Keeps g s0) _ _ _ _ ?_ ?_
  ·
    with_reducible assumption
  ·
    refine updHost_keeps (hg.sub rfl) _ _ _ ?_
    with_reducible assumption

theorem execHostPortLeavesL0_keeps (hg : Free 1048576 g) : ∀ a0 a1 s, Keeps g s0 s → KeepsN g s0 (execHostPortLeavesL0 a0 a1 s) := by
  intro a0 a1 s h
  unfold execHostPortLeavesL0
  refine KeepsN.next ?_
  refine @keeps_ite _ (Keeps g s0) _ _ _ _ ?_ ?_
  ·
    with_reducible assumption
  ·
    refine updHost_keeps (hg.sub rfl) _ _ _ ?_
    with_reducible assumption

theorem execCxlMemClnEvct_keeps (hg : Free 134224640 g) : ∀ a0 a1 a2 s, Keeps g s0 s → KeepsN g s0 (execCxlMemClnEvct a0 a1 a2 s) := by
  intro a0 a1 a2 s h
  unfold execCxlMemClnEvct
  refine KeepsN.next ?_
  refine hostRequest_keeps (hg.sub rfl) _ _ _ _ _ _ _ _ _ ?_
  with_reducible assumption

theorem loseUnits_keeps (hg : Free 134224640 g) : ∀ a0 a1 s, Keeps g s0 s → Keeps g s0 (loseUnits a0 a1 s) := by
  intro a0 a1 s h
  unfold loseUnits
  refine @keeps_ite _ (Keeps g s0) _ _ _ _ ?_ ?_
  ·
    with_reducible assumption
  ·
    extract_lets +onlyGivenNames v1 v2 v3 v4
    clear_value v1
    clear_value v2
    refine Keeps.cut (g := g) (s0 := s0) v4 ?_ (fun h5 => ?_)
    ·
      unfold v4
      refine keeps_weir (s := s) 2048 (hg.sub rfl) ?_ (.inr rfl) (.inl rfl)
      with_reducible assumption
    clear_value v4
    extract_lets +onlyGivenNames v6
    refine Keeps.cut (g := g) (s0 := s0) v6 ?_ (fun h7 => ?_)
    ·
      unfold v6
      refine poisonLines_keeps (hg.sub rfl) _ _ ?_
      with_reducible assumption
    clear_value v6
    refine keeps_foldl (P := Keeps g s0) (fun b8 x9 h10 => ?_) _ _ ?_
    ·
      refine complete_keeps (hg.sub rfl) _ _ _ _ ?_
      with_reducible assumption
    ·
      with_reducible assumption

theorem dropFlash_keeps (hg : Free 2048 g) : ∀ a0 s, Keeps g s0 s → Keeps g s0 (dropFlash a0 s) := by
  intro a0 s h
  unfold dropFlash
  extract_lets +onlyGivenNames v1
  clear_value v1
  refine keeps_weir (s := s) 2048 (hg.sub rfl) ?_ (.inr rfl) (.inl rfl)
  with_reducible assumption

theorem endMove_keeps (hg : Free 135289344 g) : ∀ a0 s, Keeps g s0 s → Keeps g s0 (endMove a0 s) := by
  intro a0 s h
  unfold endMove
  extract_lets +onlyGivenNames v1
  extract_lets +onlyGivenNames v2
  extract_lets +onlyGivenNames v3
  refine Keeps.cut (g := g) (s0 := s0) v3 ?_ (fun h4 => ?_)
  ·
    unfold v3
    refine dropFlash_keeps (hg.sub rfl) _ _ ?_
    refine keeps_update (s := s) 4608 (hg.sub rfl) ?_ (.inr rfl) (.inr rfl) (.inr rfl) (.inr rfl) (.inr rfl) (.inr rfl) (.inr rfl) (.inr rfl) (.inr rfl) (.inl rfl) (.inr rfl) (.inr rfl) (.inl rfl) (.inr rfl) (.inr rfl) (.inr rfl) (.inr rfl) (.inr rfl) (.inr rfl) (.inr rfl) (.inr rfl) (.inr rfl) (.inr rfl) (.inr rfl) (.inr rfl) (.inr rfl) (.inr rfl) (.inr rfl) (.inr rfl) (.inr rfl) (.inr rfl) (.inr rfl) (.inr rfl) (.inr rfl) (fun m => m)
    with_reducible assumption
  clear_value v3
  refine relocate_keeps (hg.sub rfl) _ ?_
  with_reducible assumption

theorem releasePage_keeps (hg : Free 2048 g) : ∀ a0 s, Keeps g s0 s → Keeps g s0 (releasePage a0 s) := by
  intro a0 s h
  unfold releasePage
  extract_lets +onlyGivenNames v1 v2 v3
  clear_value v1
  clear_value v2
  extract_lets +onlyGivenNames v4
  refine Keeps.cut (g := g) (s0 := s0) v4 ?_ (fun h5 => ?_)
  ·
    unfold v4
    refine keeps_weir (s := s) 2048 (hg.sub rfl) ?_ (.inr rfl) (.inl rfl)
    with_reducible assumption
  clear_value v4
  refine toPipeFront_keeps (hg.sub rfl) _ _ ?_
  with_reducible assumption

theorem nowPlain_keeps (hg : Free 13041228544 g) : ∀ a0 s, Keeps g s0 s → Keeps g s0 (nowPlain a0 s) := by
  intro a0 s h
  unfold nowPlain
  extract_lets +onlyGivenNames v1 v2 v3
  clear_value v1
  refine Keeps.cut (g := g) (s0 := s0) v2 ?_ (fun h4 => ?_)
  ·
    unfold v2
    refine updTier_keeps (hg.sub rfl) _ _ _ ?_
    with_reducible assumption
  clear_value v2
  extract_lets +onlyGivenNames v5
  refine Keeps.cut (g := g) (s0 := s0) v5 ?_ (fun h6 => ?_)
  ·
    unfold v5
    refine keeps_store (s := v2) 4096 (hg.sub rfl) ?_ (.inl rfl) (.inr rfl) (fun m => m)
    with_reducible assumption
  clear_value v5
  refine firingPlain_keeps (hg.sub rfl) _ _ ?_
  refine releasePage_keeps (hg.sub rfl) _ _ ?_
  refine endMove_keeps (hg.sub rfl) _ _ ?_
  with_reducible assumption

theorem demandFillComplete_keeps (hg : Free 13041228544 g) : ∀ a0 a1 a2 s, Keeps g s0 s → Keeps g s0 (demandFillComplete a0 a1 a2 s) := by
  intro a0 a1 a2 s h
  unfold demandFillComplete
  split
  ·
    rename_i y1 y2
    with_reducible assumption
  ·
    rename_i y3 y4 y5
    extract_lets +onlyGivenNames v6
    clear_value v6
    refine @keeps_ite _ (Keeps g s0) _ _ _ _ ?_ ?_
    ·
      with_reducible assumption
    ·
      extract_lets +onlyGivenNames v7 v8 v9
      clear_value v7
      clear_value v8
      extract_lets +onlyGivenNames v10
      refine Keeps.cut (g := g) (s0 := s0) v10 ?_ (fun h11 => ?_)
      ·
        unfold v10
        refine keeps_store (s := s) 4096 (hg.sub rfl) ?_ (.inl rfl) (.inr rfl) (fun m => m)
        with_reducible assumption
      clear_value v10
      refine goOn_keeps (hg.sub rfl) _ ?_
      refine nowPlain_keeps (hg.sub rfl) _ _ ?_
      refine loseUnits_keeps (hg.sub rfl) _ _ _ ?_
      refine dropFlash_keeps (hg.sub rfl) _ _ ?_
      with_reducible assumption

theorem failRow_keeps (hg : Free 402725664 g) : ∀ a0 s, Keeps g s0 s → Keeps g s0 (failRow a0 s) := by
  intro a0 s h
  unfold failRow
  extract_lets +onlyGivenNames v1
  clear_value v1
  refine @keeps_ite _ (Keeps g s0) _ _ _ _ ?_ ?_
  ·
    with_reducible assumption
  ·
    refine failRowAt_keeps (hg.sub rfl) _ _ _ _ ?_
    with_reducible assumption

theorem scrub_keeps (hg : Free 402725664 g) : ∀ a0 s, Keeps g s0 s → Keeps g s0 (scrub a0 s) := by
  intro a0 s h
  unfold scrub
  extract_lets +onlyGivenNames v1 v2 v3 v4 v5 v6
  clear_value v1
  clear_value v2
  clear_value v3
  refine Keeps.cut (g := g) (s0 := s0) v5 ?_ (fun h7 => ?_)
  ·
    unfold v5
    refine keeps_store (s := s) 4096 (hg.sub rfl) ?_ (.inl rfl) (.inr rfl) (fun m => m)
    with_reducible assumption
  clear_value v5
  clear_value v6
  extract_lets +onlyGivenNames v8
  refine Keeps.cut (g := g) (s0 := s0) v8 ?_ (fun h9 => ?_)
  ·
    unfold v8
    refine poisonLines_keeps (hg.sub rfl) _ _ ?_
    with_reducible assumption
  clear_value v8
  refine @keeps_ite _ (Keeps g s0) _ _ _ _ ?_ ?_
  ·
    refine failRow_keeps (hg.sub rfl) _ _ ?_
    with_reducible assumption
  ·
    with_reducible assumption

theorem parkedWriteRelease_keeps (hg : Free 12282092320 g) : ∀ a0 s, Keeps g s0 s → Keeps g s0 (parkedWriteRelease a0 s) := by
  intro a0 s h
  unfold parkedWriteRelease
  split
  ·
    rename_i y1 y2
    with_reducible assumption
  ·
    rename_i y3 y4 y5
    refine performMem_keeps (hg.sub rfl) _ _ _ ?_
    refine keeps_store (s := s) 4096 (hg.sub rfl) ?_ (.inl rfl) (.inr rfl) (fun m => m)
    with_reducible assumption

theorem execParkedWriteRelease_keeps (hg : Free 12286286632 g) : ∀ a0 s, Keeps g s0 s → KeepsN g s0 (execParkedWriteRelease a0 s) := by
  intro a0 s h
  unfold execParkedWriteRelease
  refine KeepsN.next ?_
  refine pump_keeps (hg.sub rfl) _ ?_
  refine wbArrived_keeps (hg.sub rfl) _ ?_
  refine parkedWriteRelease_keeps (hg.sub rfl) _ _ ?_
  with_reducible assumption

theorem expandPage_keeps (hg : Free 6656 g) : ∀ a0 s, Keeps g s0 s → Keeps g s0 (expandPage a0 s) := by
  intro a0 s h
  unfold expandPage
  extract_lets +onlyGivenNames v1 v2
  clear_value v1
  clear_value v2
  split
  ·
    rename_i y3 y4 y5 y6
    refine @keeps_ite _ (Keeps g s0) _ _ _ _ ?_ ?_
    ·
      refine beginMove_keeps (hg.sub rfl) _ _ _ _ _ ?_
      with_reducible assumption
    ·
      with_reducible assumption
  ·
    rename_i y7 y8
    with_reducible assumption

theorem steerUp_keeps (hg : Free 6656 g) : ∀ a0 a1 a2 a3 s, Keeps g s0 s → Keeps g s0 (steerUp a0 a1 a2 a3 s) := by
  intro a0 a1 a2 a3 s
  induction a3 generalizing a0 a1 a2 s
  ·
    intro h1
    unfold steerUp
    with_reducible assumption
  ·
    rename_i y2 y3 y4
    intro h5
    unfold steerUp
    refine @keeps_ite _ (Keeps g s0) _ _ _ _ ?_ ?_
    ·
      with_reducible assumption
    ·
      refine y4 _ _ _ _ ?_
      refine @keeps_ite _ (Keeps g s0) _ _ _ _ ?_ ?_
      ·
        refine expandPage_keeps (hg.sub rfl) _ _ ?_
        with_reducible assumption
      ·
        with_reducible assumption

theorem demotePage_keeps (hg : Free 6656 g) : ∀ a0 s, Keeps g s0 s → Keeps g s0 (demotePage a0 s) := by
  intro a0 s h
  unfold demotePage
  refine @keeps_ite _ (Keeps g s0) _ _ _ _ ?_ ?_
  ·
    refine expandPage_keeps (hg.sub rfl) _ _ ?_
    with_reducible assumption
  ·
    refine beginMove_keeps (hg.sub rfl) _ _ _ _ _ ?_
    with_reducible assumption

theorem compressPage_keeps (hg : Free 6656 g) : ∀ a0 s, Keeps g s0 s → Keeps g s0 (compressPage a0 s) := by
  intro a0 s h
  unfold compressPage
  refine beginMove_keeps (hg.sub rfl) _ _ _ _ _ ?_
  with_reducible assumption

theorem sweep_keeps (hg : Free 6656 g) : ∀ a0 a1 a2 a3 a4 s, Keeps g s0 s → Keeps3 g s0 (sweep a0 a1 a2 a3 a4 s) := by
  intro a0 a1 a2 a3 a4 s
  induction a2 generalizing a0 a1 a3 a4 s
  ·
    intro h1
    unfold sweep
    refine Keeps3.mk ?_
    with_reducible assumption
  ·
    rename_i y2 y3 y4
    intro h5
    unfold sweep
    refine @keeps_ite _ (Keeps3 g s0) _ _ _ _ ?_ ?_
    ·
      refine Keeps3.mk ?_
      with_reducible assumption
    ·
      refine @keeps_ite _ (Keeps3 g s0) _ _ _ _ ?_ ?_
      ·
        refine y4 _ _ _ _ _ ?_
        refine demotePage_keeps (hg.sub rfl) _ _ ?_
        with_reducible assumption
      ·
        refine @keeps_ite _ (Keeps3 g s0) _ _ _ _ ?_ ?_
        ·
          refine y4 _ _ _ _ _ ?_
          refine compressPage_keeps (hg.sub rfl) _ _ ?_
          with_reducible assumption
        ·
          refine y4 _ _ _ _ _ ?_
          with_reducible assumption

theorem steerDown_keeps (hg : Free 6656 g) : ∀ a0 a1 a2 s, Keeps g s0 s → Keeps g s0 (steerDown a0 a1 a2 s) := by
  intro a0 a1 a2 s
  induction a2 generalizing a0 a1 s
  ·
    intro h1
    unfold steerDown
    with_reducible assumption
  ·
    rename_i y2 y3
    intro h4
    unfold steerDown
    extract_lets +onlyGivenNames v5
    clear_value v5
    refine @keeps_ite _ (Keeps g s0) _ _ _ _ ?_ ?_
    ·
      with_reducible assumption
    ·
      split
      ·
        rename_i y6 y7 y8 y9 y10
        refine Keeps.cut (g := g) (s0 := s0) y9 (Keeps3.of_eq ?_ y10) (fun h11 => ?_)
        ·
          refine sweep_keeps (hg.sub rfl) _ _ _ _ _ _ ?_
          with_reducible assumption
        extract_lets +onlyGivenNames v12 v13
        refine Keeps.cut (g := g) (s0 := s0) v13 ?_ (fun h14 => ?_)
        ·
          unfold v13
          refine keeps_store (s := y9) 4096 (hg.sub rfl) ?_ (.inl rfl) (.inr rfl) (fun m => m)
          with_reducible assumption
        clear_value v13
        extract_lets +onlyGivenNames v15
        refine Keeps.cut (g := g) (s0 := s0) v15 ?_ (fun h16 => ?_)
        ·
          unfold v15
          refine @keeps_ite _ (Keeps g s0) _ _ _ _ ?_ ?_
          ·
            with_reducible assumption
          ·
            split
            ·
              rename_i y17 y18 y19 y20
              refine demotePage_keeps (hg.sub rfl) _ _ ?_
              with_reducible assumption
            ·
              rename_i y21 y22
              with_reducible assumption
        clear_value v15
        refine y3 _ _ _ ?_
        with_reducible assumption

theorem steer_keeps (hg : Free 6656 g) : ∀ a0 s, Keeps g s0 s → Keeps g s0 (steer a0 s) := by
  intro a0 s h
  unfold steer
  extract_lets +onlyGivenNames v1 v2
  clear_value v1
  clear_value v2
  refine @keeps_ite _ (Keeps g s0) _ _ _ _ ?_ ?_
  ·
    refine steerUp_keeps (hg.sub rfl) _ _ _ _ _ ?_
    with_reducible assumption
  ·
    refine steerDown_keeps (hg.sub rfl) _ _ _ _ ?_
    with_reducible assumption

theorem execSteer_keeps (hg : Free 6656 g) : ∀ a0 s, Keeps g s0 s → KeepsN g s0 (execSteer a0 s) := by
  intro a0 s h
  unfold execSteer
  refine KeepsN.next ?_
  refine steer_keeps (hg.sub rfl) _ _ ?_
  with_reducible assumption

theorem refill_keeps (hg : Free 6656 g) : ∀ a0 s, Keeps g s0 s → Keeps g s0 (refill a0 s) := by
  intro a0 s h
  unfold refill
  refine @keeps_ite _ (Keeps g s0) _ _ _ _ ?_ ?_
  ·
    refine bring_keeps (hg.sub rfl) _ _ _ ?_
    with_reducible assumption
  ·
    with_reducible assumption

theorem execScrub_keeps (hg : Free 402725664 g) : ∀ a0 s, Keeps g s0 s → KeepsN g s0 (execScrub a0 s) := by
  intro a0 s h
  unfold execScrub
  refine KeepsN.next ?_
  refine @keeps_ite _ (Keeps g s0) _ _ _ _ ?_ ?_
  ·
    refine scrub_keeps (hg.sub rfl) _ _ ?_
    refine keeps_weir (s := s) 2048 (hg.sub rfl) ?_ (.inr rfl) (.inl rfl)
    with_reducible assumption
  ·
    with_reducible assumption

theorem writeThroughProgrammed_keeps (hg : Free 12282092320 g) : ∀ a0 s, Keeps g s0 s → Keeps g s0 (writeThroughProgrammed a0 s) := by
  intro a0 s h
  unfold writeThroughProgrammed
  split
  ·
    rename_i y1 y2
    with_reducible assumption
  ·
    rename_i y3 y4 y5
    refine @keeps_ite _ (Keeps g s0) _ _ _ _ ?_ ?_
    ·
      with_reducible assumption
    ·
      extract_lets +onlyGivenNames v6 v7
      refine Keeps.cut (g := g) (s0 := s0) v7 ?_ (fun h8 => ?_)
      ·
        unfold v7
        refine dropFlash_keeps (hg.sub rfl) _ _ ?_
        refine keeps_store (s := s) 4096 (hg.sub rfl) ?_ (.inl rfl) (.inr rfl) (fun m => m)
        with_reducible assumption
      clear_value v7
      extract_lets +onlyGivenNames v9
      refine Keeps.cut (g := g) (s0 := s0) v9 ?_ (fun h10 => ?_)
      ·
        unfold v9
        refine @keeps_ite _ (Keeps g s0) _ _ _ _ ?_ ?_
        ·
          refine maintain_keeps (hg.sub rfl) _ _ _ ?_
          with_reducible assumption
        ·
          with_reducible assumption
      clear_value v9
      refine onPage_keeps (hg.sub rfl) _ _ _ (fun x11 h12 => ?_) ?_
      ·
        refine performOp_keeps (hg.sub rfl) _ _ _ ?_
        with_reducible assumption
      ·
        with_reducible assumption

theorem stayPlain_keeps (hg : Free 4096 g) : ∀ a0 s, Keeps g s0 s → Keeps g s0 (stayPlain a0 s) := by
  intro a0 s h
  unfold stayPlain
  refine updTier_keeps (hg.sub rfl) _ _ _ ?_
  with_reducible assumption

theorem cleanWater_keeps (hg : Free 2048 g) : ∀ a0 s, Keeps g s0 s → Keeps g s0 (cleanWater a0 s) := by
  intro a0 s h
  unfold cleanWater
  refine @keeps_ite _ (Keeps g s0) _ _ _ _ ?_ ?_
  ·
    refine keeps_foldl (P := Keeps g s0) (fun b1 x2 h3 => ?_) _ _ ?_
    ·
      refine maintain_keeps (hg.sub rfl) _ _ _ ?_
      with_reducible assumption
    ·
      with_reducible assumption
  ·
    with_reducible assumption

theorem granuleWords_keeps (hg : Free 268435456 g) : ∀ a0 a1 a2 s, Keeps g s0 s → Keeps2 g s0 (granuleWords a0 a1 a2 s) := by
  intro a0 a1 a2 s
  induction a1 generalizing a0 a2 s
  ·
    intro h1
    unfold granuleWords
    refine Keeps2.mk ?_
    with_reducible assumption
  ·
    rename_i y2 y3 y4
    intro h5
    unfold granuleWords
    extract_lets +onlyGivenNames v6
    clear_value v6
    refine @keeps_ite _ (Keeps2 g s0) _ _ _ _ ?_ ?_
    ·
      split
      ·
        rename_i y7 y8 y9 y10
        refine Keeps.cut (g := g) (s0 := s0) y9 (Keeps2.of_eq ?_ y10) (fun h11 => ?_)
        ·
          refine y4 _ _ _ ?_
          with_reducible assumption
        refine Keeps2.mk ?_
        with_reducible assumption
    ·
      extract_lets +onlyGivenNames v12
      clear_value v12
      split
      ·
        rename_i y13 y14 y15 y16
        refine Keeps.cut (g := g) (s0 := s0) y15 (Keeps2.of_eq ?_ y16) (fun h17 => ?_)
        ·
          refine takeWord_keeps (hg.sub rfl) _ ?_
          with_reducible assumption
        extract_lets +onlyGivenNames v18
        clear_value v18
        split
        ·
          rename_i y19 y20 y21 y22
          refine Keeps.cut (g := g) (s0 := s0) y21 (Keeps2.of_eq ?_ y22) (fun h23 => ?_)
          ·
            refine y4 _ _ _ ?_
            with_reducible assumption
          refine Keeps2.mk ?_
          with_reducible assumption

theorem toGranules_keeps (hg : Free 268439552 g) : ∀ a0 a1 s, Keeps g s0 s → Keeps g s0 (toGranules a0 a1 s) := by
  intro a0 a1 s h
  unfold toGranules
  split
  ·
    rename_i y1 y2 y3 y4
    refine Keeps.cut (g := g) (s0 := s0) y3 (Keeps2.of_eq ?_ y4) (fun h5 => ?_)
    ·
      refine takeWord_keeps (hg.sub rfl) _ ?_
      with_reducible assumption
    split
    ·
      rename_i y6 y7 y8 y9
      refine Keeps.cut (g := g) (s0 := s0) y8 (Keeps2.of_eq ?_ y9) (fun h10 => ?_)
      ·
        refine granuleWords_keeps (hg.sub rfl) _ _ _ _ ?_
        with_reducible assumption
      refine updTier_keeps (hg.sub rfl) _ _ _ ?_
      with_reducible assumption

theorem afterMove_keeps (hg : Free 6656 g) : ∀ a0 s, Keeps g s0 s → Keeps g s0 (afterMove a0 s) := by
  intro a0 s h
  unfold afterMove
  refine goOn_keeps (hg.sub rfl) _ ?_
  refine refill_keeps (hg.sub rfl) _ _ ?_
  refine bringPlain_keeps (hg.sub rfl) _ _ ?_
  with_reducible assumption

theorem tierMoveComplete_keeps (hg : Free 13309664032 g) : ∀ a0 a1 s, Keeps g s0 s → Keeps g s0 (tierMoveComplete a0 a1 s) := by
  intro a0 a1 s h
  unfold tierMoveComplete
  split
  ·
    rename_i y1 y2
    with_reducible assumption
  ·
    rename_i y3 y4 y5
    refine @keeps_ite _ (Keeps g s0) _ _ _ _ ?_ ?_
    ·
      with_reducible assumption
    ·
      split
      ·
        rename_i y6 y7
        refine afterMove_keeps (hg.sub rfl) _ _ ?_
        refine nowPlain_keeps (hg.sub rfl) _ _ ?_
        with_reducible assumption
      ·
        rename_i y8 y9
        refine @keeps_ite _ (Keeps g s0) _ _ _ _ ?_ ?_
        ·
          refine afterMove_keeps (hg.sub rfl) _ _ ?_
          refine firingPlain_keeps (hg.sub rfl) _ _ ?_
          refine releasePage_keeps (hg.sub rfl) _ _ ?_
          refine stayPlain_keeps (hg.sub rfl) _ _ ?_
          refine endMove_keeps (hg.sub rfl) _ _ ?_
          with_reducible assumption
        ·
          refine afterMove_keeps (hg.sub rfl) _ _ ?_
          refine releasePage_keeps (hg.sub rfl) _ _ ?_
          refine endMove_keeps (hg.sub rfl) _ _ ?_
          refine toGranules_keeps (hg.sub rfl) _ _ _ ?_
          with_reducible assumption
      ·
        rename_i y10 y11 y12
        extract_lets +onlyGivenNames v13
        refine Keeps.cut (g := g) (s0 := s0) v13 ?_ (fun h14 => ?_)
        ·
          unfold v13
          refine updTier_keeps (hg.sub rfl) _ _ _ ?_
          refine writeBackPage_keeps (hg.sub rfl) _ _ ?_
          with_reducible assumption
        clear_value v13
        refine afterMove_keeps (hg.sub rfl) _ _ ?_
        refine releasePage_keeps (hg.sub rfl) _ _ ?_
        refine endMove_keeps (hg.sub rfl) _ _ ?_
        with_reducible assumption

theorem execTierMoveComplete_keeps (hg : Free 13376805672 g) : ∀ a0 a1 s, Keeps g s0 s → KeepsN g s0 (execTierMoveComplete a0 a1 s) := by
  intro a0 a1 s h
  unfold execTierMoveComplete
  refine KeepsN.next ?_
  refine pump_keeps (hg.sub rfl) _ ?_
  refine tierMoveComplete_keeps (hg.sub rfl) _ _ _ ?_
  with_reducible assumption

theorem execWriteThroughProgrammed_keeps (hg : Free 12286286632 g) : ∀ a0 s, Keeps g s0 s → KeepsN g s0 (execWriteThroughProgrammed a0 s) := by
  intro a0 s h
  unfold execWriteThroughProgrammed
  refine KeepsN.next ?_
  refine pump_keeps (hg.sub rfl) _ ?_
  refine wbArrived_keeps (hg.sub rfl) _ ?_
  refine writeThroughProgrammed_keeps (hg.sub rfl) _ _ ?_
  with_reducible assumption

theorem counterEpoch_keeps (hg : Free 4096 g) : ∀ s, Keeps g s0 s → Keeps g s0 (counterEpoch s) := by
  intro s h
  unfold counterEpoch
  refine keeps_store (s := s) 4096 (hg.sub rfl) ?_ (.inl rfl) (.inr rfl) (fun m => m)
  with_reducible assumption

theorem execCounterEpoch_keeps (hg : Free 4096 g) : ∀ s, Keeps g s0 s → KeepsN g s0 (execCounterEpoch s) := by
  intro s h
  unfold execCounterEpoch
  refine KeepsN.next ?_
  refine counterEpoch_keeps (hg.sub rfl) _ ?_
  with_reducible assumption

theorem execCleanWater_keeps (hg : Free 2048 g) : ∀ a0 s, Keeps g s0 s → KeepsN g s0 (execCleanWater a0 s) := by
  intro a0 s h
  unfold execCleanWater
  refine KeepsN.next ?_
  refine cleanWater_keeps (hg.sub rfl) _ _ ?_
  with_reducible assumption

theorem execDemandFillComplete_keeps (hg : Free 13108370184 g) : ∀ a0 a1 a2 s, Keeps g s0 s → KeepsN g s0 (execDemandFillComplete a0 a1 a2 s) := by
  intro a0 a1 a2 s h
  unfold execDemandFillComplete
  refine KeepsN.next ?_
  refine pump_keeps (hg.sub rfl) _ ?_
  refine demandFillComplete_keeps (hg.sub rfl) _ _ _ _ ?_
  with_reducible assumption

end Sys2Proof.Safety
end

