-- ==== Sys2Proof/Laws/KeepsPower.lean ====
section
/-!
SUPPORT. Which parts of the state each operation keeps: the log, power, the spate and the weir.
-/
namespace Sys2Proof.Safety

open Sys2Proof Sys2Proof.Machine

set_option Elab.async false

variable {g : Part} {s0 : State}

theorem sealBatch_keeps (hg : Free 65552 g) : ∀ a0 a1 a2 s, Keeps g s0 s → Keeps g s0 (sealBatch a0 a1 a2 s) := by
  intro a0 a1 a2 s h
  unfold sealBatch
  split
  ·
    rename_i y1 y2 y3 y4 y5 y6
    refine @keeps_ite _ (Keeps g s0) _ _ _ _ ?_ ?_
    ·
      refine setAlert_keeps (hg.sub rfl) _ _ ?_
      with_reducible assumption
    ·
      extract_lets +onlyGivenNames v7
      clear_value v7
      refine keeps_nv (s := s) 16 (hg.sub rfl) ?_ (.inr rfl) (.inr rfl) (.inl rfl) (.inr rfl) (fun m => m)
      with_reducible assumption
  ·
    rename_i y8 y9 y10
    with_reducible assumption

theorem execLogSeal_keeps (hg : Free 65552 g) : ∀ a0 s, Keeps g s0 s → KeepsN g s0 (execLogSeal a0 s) := by
  intro a0 s h
  unfold execLogSeal
  refine KeepsN.next ?_
  refine @keeps_ite _ (Keeps g s0) _ _ _ _ ?_ ?_
  ·
    refine sealBatch_keeps (hg.sub rfl) _ _ _ _ ?_
    with_reducible assumption
  ·
    with_reducible assumption

theorem writeEntry_keeps (hg : Free 16 g) : ∀ s a1, Keeps g s0 s → Keeps g s0 (writeEntry s a1) := by
  intro s a1 h
  unfold writeEntry
  extract_lets +onlyGivenNames v1
  clear_value v1
  refine keeps_nv (s := s) 16 (hg.sub rfl) ?_ (.inr rfl) (.inr rfl) (.inl rfl) (.inr rfl) (fun m => m)
  with_reducible assumption

theorem logWrite_keeps (hg : Free 65552 g) : ∀ s, Keeps g s0 s → Keeps g s0 (logWrite s) := by
  intro s h
  unfold logWrite
  extract_lets +onlyGivenNames v1
  clear_value v1
  refine keeps_foldl (P := Keeps g s0) (fun b2 x3 h4 => ?_) _ _ ?_
  ·
    refine writeEntry_keeps (hg.sub rfl) _ _ ?_
    with_reducible assumption
  ·
    refine keeps_keeper (s := s) 65536 (hg.sub rfl) ?_ (.inl rfl) (.inr rfl)
    with_reducible assumption

theorem execLogWrite_keeps (hg : Free 65552 g) : ∀ s, Keeps g s0 s → KeepsN g s0 (execLogWrite s) := by
  intro s h
  unfold execLogWrite
  refine KeepsN.next ?_
  refine @keeps_ite _ (Keeps g s0) _ _ _ _ ?_ ?_
  ·
    refine logWrite_keeps (hg.sub rfl) _ ?_
    with_reducible assumption
  ·
    with_reducible assumption

theorem keeperGone_keeps (hg : Free 196624 g) : ∀ s, Keeps g s0 s → Keeps g s0 (keeperGone s) := by
  intro s h
  unfold keeperGone
  refine keeps_update (s := s) 196624 (hg.sub rfl) ?_ (.inr rfl) (.inr rfl) (.inr rfl) (.inr rfl) (.inl rfl) (.inr rfl) (.inr rfl) (.inr rfl) (.inr rfl) (.inr rfl) (.inr rfl) (.inr rfl) (.inr rfl) (.inr rfl) (.inr rfl) (.inr rfl) (.inl rfl) (.inl rfl) (.inr rfl) (.inr rfl) (.inr rfl) (.inr rfl) (.inr rfl) (.inr rfl) (.inr rfl) (.inr rfl) (.inr rfl) (.inr rfl) (.inr rfl) (.inr rfl) (.inr rfl) (.inr rfl) (.inr rfl) (.inr rfl) (fun m => m)
  with_reducible assumption

theorem dieReset_keeps (hg : Free 16238247811 g) : ∀ s, Keeps g s0 s → Keeps g s0 (dieReset s) := by
  intro s h
  unfold dieReset
  extract_lets +onlyGivenNames v1
  clear_value v1
  extract_lets +onlyGivenNames v2
  extract_lets +onlyGivenNames v3
  refine Keeps.cut (g := g) (s0 := s0) v3 ?_ (fun h4 => ?_)
  ·
    unfold v3
    refine keeps_update (s := s) 16238182275 (hg.sub rfl) ?_ (.inl rfl) (.inl rfl) (.inr rfl) (.inr rfl) (.inr rfl) (.inr rfl) (.inr rfl) (.inl rfl) (.inl rfl) (.inl rfl) (.inl rfl) (.inl rfl) (.inl rfl) (.inl rfl) (.inl rfl) (.inl rfl) (.inr rfl) (.inl rfl) (.inl rfl) (.inl rfl) (.inl rfl) (.inr rfl) (.inl rfl) (.inl rfl) (.inl rfl) (.inl rfl) (.inl rfl) (.inr rfl) (.inr rfl) (.inr rfl) (.inl rfl) (.inl rfl) (.inl rfl) (.inl rfl) (fun m => ⟨rfl, m.2.1, m.2.2⟩)
    with_reducible assumption
  clear_value v3
  refine dropAlert_keeps (hg.sub rfl) _ _ ?_
  refine dropAlert_keeps (hg.sub rfl) _ _ ?_
  refine dropAlert_keeps (hg.sub rfl) _ _ ?_
  refine dropAlert_keeps (hg.sub rfl) _ _ ?_
  with_reducible assumption

theorem startBoot_keeps (hg : Free 9 g) : ∀ a0 s, Keeps g s0 s → Keeps g s0 (startBoot a0 s) := by
  intro a0 s h
  unfold startBoot
  extract_lets +onlyGivenNames v1 v2
  clear_value v1
  clear_value v2
  refine keeps_update (s := s) 9 (hg.sub rfl) ?_ (.inl rfl) (.inr rfl) (.inr rfl) (.inl rfl) (.inr rfl) (.inr rfl) (.inr rfl) (.inr rfl) (.inr rfl) (.inr rfl) (.inr rfl) (.inr rfl) (.inr rfl) (.inr rfl) (.inr rfl) (.inr rfl) (.inr rfl) (.inr rfl) (.inr rfl) (.inr rfl) (.inr rfl) (.inr rfl) (.inr rfl) (.inr rfl) (.inr rfl) (.inr rfl) (.inr rfl) (.inr rfl) (.inr rfl) (.inr rfl) (.inr rfl) (.inr rfl) (.inr rfl) (.inr rfl) (fun m => m)
  with_reducible assumption

theorem warmReset_keeps (hg : Free 16238247819 g) : ∀ s, Keeps g s0 s → Keeps g s0 (warmReset s) := by
  intro s h
  unfold warmReset
  refine startBoot_keeps (hg.sub rfl) _ _ ?_
  refine dieReset_keeps (hg.sub rfl) _ ?_
  with_reducible assumption

theorem railsOff_keeps (hg : Free 16238247811 g) : ∀ s, Keeps g s0 s → Keeps g s0 (railsOff s) := by
  intro s h
  unfold railsOff
  extract_lets +onlyGivenNames v1
  refine Keeps.cut (g := g) (s0 := s0) v1 ?_ (fun h2 => ?_)
  ·
    unfold v1
    refine dieReset_keeps (hg.sub rfl) _ ?_
    with_reducible assumption
  clear_value v1
  refine keeps_update (s := v1) 3 (hg.sub rfl) ?_ (.inl rfl) (.inl rfl) (.inr rfl) (.inr rfl) (.inr rfl) (.inr rfl) (.inr rfl) (.inr rfl) (.inr rfl) (.inr rfl) (.inr rfl) (.inr rfl) (.inr rfl) (.inr rfl) (.inr rfl) (.inr rfl) (.inr rfl) (.inr rfl) (.inr rfl) (.inr rfl) (.inr rfl) (.inr rfl) (.inr rfl) (.inr rfl) (.inr rfl) (.inr rfl) (.inr rfl) (.inr rfl) (.inr rfl) (.inr rfl) (.inr rfl) (.inr rfl) (.inr rfl) (.inr rfl) (fun m => m)
  with_reducible assumption

theorem losePower_keeps (hg : Free 32 g) : ∀ s, Keeps g s0 s → Keeps g s0 (losePower s) := by
  intro s h
  unfold losePower
  refine @keeps_ite _ (Keeps g s0) _ _ _ _ ?_ ?_
  ·
    refine keeps_nv (s := s) 32 (hg.sub rfl) ?_ (.inr rfl) (.inr rfl) (.inr rfl) (.inl rfl) (fun m => ⟨m.1, m.2.1, rfl⟩)
    with_reducible assumption
  ·
    with_reducible assumption

theorem allOff_keeps (hg : Free 16240345011 g) : ∀ s, Keeps g s0 s → Keeps g s0 (allOff s) := by
  intro s h
  unfold allOff
  extract_lets +onlyGivenNames v1
  refine Keeps.cut (g := g) (s0 := s0) v1 ?_ (fun h2 => ?_)
  ·
    unfold v1
    refine keeperGone_keeps (hg.sub rfl) _ ?_
    refine dieReset_keeps (hg.sub rfl) _ ?_
    refine losePower_keeps (hg.sub rfl) _ ?_
    with_reducible assumption
  clear_value v1
  refine keeps_update (s := v1) 3080195 (hg.sub rfl) ?_ (.inl rfl) (.inl rfl) (.inr rfl) (.inr rfl) (.inr rfl) (.inr rfl) (.inr rfl) (.inr rfl) (.inr rfl) (.inr rfl) (.inr rfl) (.inr rfl) (.inr rfl) (.inr rfl) (.inr rfl) (.inr rfl) (.inl rfl) (.inl rfl) (.inl rfl) (.inl rfl) (.inr rfl) (.inl rfl) (.inr rfl) (.inr rfl) (.inr rfl) (.inr rfl) (.inr rfl) (.inr rfl) (.inr rfl) (.inr rfl) (.inr rfl) (.inr rfl) (.inr rfl) (.inr rfl) (fun m => m)
  with_reducible assumption

theorem execHotSwapTrip_keeps (hg : Free 16240345011 g) : ∀ s, Keeps g s0 s → KeepsN g s0 (execHotSwapTrip s) := by
  intro s h
  unfold execHotSwapTrip
  refine KeepsN.next ?_
  refine @keeps_ite _ (Keeps g s0) _ _ _ _ ?_ ?_
  ·
    refine allOff_keeps (hg.sub rfl) _ ?_
    with_reducible assumption
  ·
    with_reducible assumption

theorem coldReset_keeps (hg : Free 16238247819 g) : ∀ s, Keeps g s0 s → Keeps g s0 (coldReset s) := by
  intro s h
  unfold coldReset
  extract_lets +onlyGivenNames v1
  refine Keeps.cut (g := g) (s0 := s0) v1 ?_ (fun h2 => ?_)
  ·
    unfold v1
    refine dieReset_keeps (hg.sub rfl) _ ?_
    with_reducible assumption
  clear_value v1
  refine startBoot_keeps (hg.sub rfl) _ _ ?_
  refine keeps_pins (s := v1) (hg.sub rfl) ?_
  with_reducible assumption

theorem execStandbyLost_keeps (hg : Free 16240345011 g) : ∀ s, Keeps g s0 s → KeepsN g s0 (execStandbyLost s) := by
  intro s h
  unfold execStandbyLost
  refine KeepsN.next ?_
  refine @keeps_ite _ (Keeps g s0) _ _ _ _ ?_ ?_
  ·
    refine allOff_keeps (hg.sub rfl) _ ?_
    with_reducible assumption
  ·
    with_reducible assumption

theorem endBrace_keeps (hg : Free 73728 g) : ∀ s, Keeps g s0 s → Keeps g s0 (endBrace s) := by
  intro s h
  unfold endBrace
  refine @keeps_ite _ (Keeps g s0) _ _ _ _ ?_ ?_
  ·
    with_reducible assumption
  ·
    extract_lets +onlyGivenNames v1
    clear_value v1
    refine logEv_keeps (hg.sub rfl) _ _ _ _ _ _ _ ?_
    refine dropAlert_keeps (hg.sub rfl) _ _ ?_
    refine keeps_flush (s := s) (hg.sub rfl) ?_
    with_reducible assumption

theorem execBraceHoldoffEnd_keeps (hg : Free 73728 g) : ∀ s, Keeps g s0 s → KeepsN g s0 (execBraceHoldoffEnd s) := by
  intro s h
  unfold execBraceHoldoffEnd
  refine KeepsN.next ?_
  refine @keeps_ite _ (Keeps g s0) _ _ _ _ ?_ ?_
  ·
    refine endBrace_keeps (hg.sub rfl) _ ?_
    with_reducible assumption
  ·
    with_reducible assumption

theorem serdesOff_keeps (hg : Free 10755252258 g) : ∀ s, Keeps g s0 s → Keeps g s0 (serdesOff s) := by
  intro s h
  unfold serdesOff
  refine @keeps_ite _ (Keeps g s0) _ _ _ _ ?_ ?_
  ·
    with_reducible assumption
  ·
    extract_lets +onlyGivenNames v1 v2
    clear_value v1
    refine Keeps.cut (g := g) (s0 := s0) v2 ?_ (fun h3 => ?_)
    ·
      unfold v2
      refine eddyFlush_keeps (hg.sub rfl) _ _ ?_
      with_reducible assumption
    clear_value v2
    refine keeps_update (s := v2) 2148540450 (hg.sub rfl) ?_ (.inr rfl) (.inl rfl) (.inr rfl) (.inr rfl) (.inr rfl) (.inl rfl) (.inr rfl) (.inr rfl) (.inr rfl) (.inr rfl) (.inr rfl) (.inr rfl) (.inr rfl) (.inl rfl) (.inr rfl) (.inr rfl) (.inr rfl) (.inr rfl) (.inr rfl) (.inr rfl) (.inl rfl) (.inr rfl) (.inr rfl) (.inr rfl) (.inr rfl) (.inr rfl) (.inr rfl) (.inr rfl) (.inr rfl) (.inr rfl) (.inr rfl) (.inl rfl) (.inr rfl) (.inr rfl) (fun m => m)
    with_reducible assumption

theorem execSerdesOff_keeps (hg : Free 10755252258 g) : ∀ s, Keeps g s0 s → KeepsN g s0 (execSerdesOff s) := by
  intro s h
  unfold execSerdesOff
  refine KeepsN.next ?_
  refine serdesOff_keeps (hg.sub rfl) _ ?_
  with_reducible assumption

theorem spatePhase_keeps (hg : Free 2 g) : ∀ s, Keeps g s0 s → Keeps g s0 (spatePhase s) := by
  intro s h
  unfold spatePhase
  refine keeps_pins (s := s) (hg.sub rfl) ?_
  with_reducible assumption

theorem reserveUnit_keeps (hg : Free 32 g) : ∀ a0 a1 s, Keeps g s0 s → Keeps g s0 (reserveUnit a0 a1 s) := by
  intro a0 a1 s h
  unfold reserveUnit
  extract_lets +onlyGivenNames v1 v2
  refine keeps_nv (s := s) 32 (hg.sub rfl) ?_ (.inr rfl) (.inr rfl) (.inr rfl) (.inl rfl) (fun m => ⟨m.1, m.2.1, (Memory.writeN_wf m.2.2 _ _)⟩)
  with_reducible assumption

theorem flushUnitProgrammed_keeps (hg : Free 10274 g) : ∀ a0 s, Keeps g s0 s → Keeps g s0 (flushUnitProgrammed a0 s) := by
  intro a0 s h
  unfold flushUnitProgrammed
  refine @keeps_ite _ (Keeps g s0) _ _ _ _ ?_ ?_
  ·
    with_reducible assumption
  ·
    split
    ·
      rename_i y1
      refine @keeps_ite _ (Keeps g s0) _ _ _ _ ?_ ?_
      ·
        with_reducible assumption
      ·
        extract_lets +onlyGivenNames v2 v3
        extract_lets +onlyGivenNames v4 v5
        refine Keeps.cut (g := g) (s0 := s0) v4 ?_ (fun h6 => ?_)
        ·
          unfold v4
          refine keeps_nv (s := s) 32 (hg.sub rfl) ?_ (.inr rfl) (.inr rfl) (.inr rfl) (.inl rfl) (fun m => m)
          with_reducible assumption
        clear_value v4
        clear_value v5
        extract_lets +onlyGivenNames v7
        refine Keeps.cut (g := g) (s0 := s0) v7 ?_ (fun h8 => ?_)
        ·
          unfold v7
          refine dropFlash_keeps (hg.sub rfl) _ _ ?_
          refine keeps_flush (s := v4) (hg.sub rfl) ?_
          with_reducible assumption
        clear_value v7
        refine @keeps_ite _ (Keeps g s0) _ _ _ _ ?_ ?_
        ·
          refine keeps_pins (s := v7) (hg.sub rfl) ?_
          with_reducible assumption
        ·
          with_reducible assumption
    ·
      rename_i y9 y10
      refine @keeps_ite _ (Keeps g s0) _ _ _ _ ?_ ?_
      ·
        with_reducible assumption
      ·
        extract_lets +onlyGivenNames v11 v12
        refine Keeps.cut (g := g) (s0 := s0) v11 ?_ (fun h13 => ?_)
        ·
          unfold v11
          refine reserveUnit_keeps (hg.sub rfl) _ _ _ ?_
          with_reducible assumption
        clear_value v11
        clear_value v12
        extract_lets +onlyGivenNames v14
        refine Keeps.cut (g := g) (s0 := s0) v14 ?_ (fun h15 => ?_)
        ·
          unfold v14
          refine dropFlash_keeps (hg.sub rfl) _ _ ?_
          refine keeps_flush (s := v11) (hg.sub rfl) ?_
          with_reducible assumption
        clear_value v14
        refine @keeps_ite _ (Keeps g s0) _ _ _ _ ?_ ?_
        ·
          refine keeps_pins (s := v14) (hg.sub rfl) ?_
          with_reducible assumption
        ·
          with_reducible assumption

theorem execFlushUnitProgrammed_keeps (hg : Free 10274 g) : ∀ a0 s, Keeps g s0 s → KeepsN g s0 (execFlushUnitProgrammed a0 s) := by
  intro a0 s h
  unfold execFlushUnitProgrammed
  refine KeepsN.next ?_
  refine flushUnitProgrammed_keeps (hg.sub rfl) _ _ ?_
  with_reducible assumption

theorem inputRecovered_keeps (hg : Free 16238247819 g) : ∀ s, Keeps g s0 s → Keeps g s0 (inputRecovered s) := by
  intro s h
  unfold inputRecovered
  refine @keeps_ite _ (Keeps g s0) _ _ _ _ ?_ ?_
  ·
    with_reducible assumption
  ·
    extract_lets +onlyGivenNames v1
    clear_value v1
    extract_lets +onlyGivenNames v2
    refine Keeps.cut (g := g) (s0 := s0) v2 ?_ (fun h3 => ?_)
    ·
      unfold v2
      refine keeps_pins (s := s) (hg.sub rfl) ?_
      with_reducible assumption
    clear_value v2
    refine @keeps_ite _ (Keeps g s0) _ _ _ _ ?_ ?_
    ·
      refine coldReset_keeps (hg.sub rfl) _ ?_
      with_reducible assumption
    ·
      with_reducible assumption

theorem execInputRecovered_keeps (hg : Free 16238247819 g) : ∀ s, Keeps g s0 s → KeepsN g s0 (execInputRecovered s) := by
  intro s h
  unfold execInputRecovered
  refine KeepsN.next ?_
  refine inputRecovered_keeps (hg.sub rfl) _ ?_
  with_reducible assumption

theorem braceNow_keeps (hg : Free 73728 g) : ∀ a0 s, Keeps g s0 s → Keeps g s0 (braceNow a0 s) := by
  intro a0 s h
  unfold braceNow
  extract_lets +onlyGivenNames v1 v2
  clear_value v1
  clear_value v2
  extract_lets +onlyGivenNames v3
  refine Keeps.cut (g := g) (s0 := s0) v3 ?_ (fun h4 => ?_)
  ·
    unfold v3
    refine setAlert_keeps (hg.sub rfl) _ _ ?_
    refine keeps_flush (s := s) (hg.sub rfl) ?_
    with_reducible assumption
  clear_value v3
  refine @keeps_ite _ (Keeps g s0) _ _ _ _ ?_ ?_
  ·
    with_reducible assumption
  ·
    refine logEv_keeps (hg.sub rfl) _ _ _ _ _ _ _ ?_
    with_reducible assumption

theorem logSelect_keeps (hg : Free 65536 g) : ∀ a0 a1 a2 s, Keeps g s0 s → Keeps g s0 (logSelect a0 a1 a2 s) := by
  intro a0 a1 a2 s h
  unfold logSelect
  refine logEv_keeps (hg.sub rfl) _ _ _ _ _ _ _ ?_
  with_reducible assumption

theorem trigger_keeps (hg : Free 73728 g) : ∀ a0 s, Keeps g s0 s → Keeps g s0 (trigger a0 s) := by
  intro a0 s h
  unfold trigger
  refine @keeps_ite _ (Keeps g s0) _ _ _ _ ?_ ?_
  ·
    refine @keeps_ite _ (Keeps g s0) _ _ _ _ ?_ ?_
    ·
      refine keeps_flush (s := s) (hg.sub rfl) ?_
      with_reducible assumption
    ·
      with_reducible assumption
  ·
    extract_lets +onlyGivenNames v1
    refine Keeps.cut (g := g) (s0 := s0) v1 ?_ (fun h2 => ?_)
    ·
      unfold v1
      refine logSelect_keeps (hg.sub rfl) _ _ _ _ ?_
      with_reducible assumption
    clear_value v1
    refine keeps_flush (s := v1) (hg.sub rfl) ?_
    with_reducible assumption

theorem pfwInService_keeps (hg : Free 204930 g) : ∀ s, Keeps g s0 s → Keeps g s0 (pfwInService s) := by
  intro s h
  unfold pfwInService
  extract_lets +onlyGivenNames v1
  clear_value v1
  extract_lets +onlyGivenNames v2
  clear_value v2
  extract_lets +onlyGivenNames v3
  extract_lets +onlyGivenNames v4
  refine Keeps.cut (g := g) (s0 := s0) v4 ?_ (fun h5 => ?_)
  ·
    unfold v4
    refine keeps_update (s := s) 131202 (hg.sub rfl) ?_ (.inr rfl) (.inl rfl) (.inr rfl) (.inr rfl) (.inr rfl) (.inr rfl) (.inr rfl) (.inl rfl) (.inr rfl) (.inr rfl) (.inr rfl) (.inr rfl) (.inr rfl) (.inr rfl) (.inr rfl) (.inr rfl) (.inr rfl) (.inl rfl) (.inr rfl) (.inr rfl) (.inr rfl) (.inr rfl) (.inr rfl) (.inr rfl) (.inr rfl) (.inr rfl) (.inr rfl) (.inr rfl) (.inr rfl) (.inr rfl) (.inr rfl) (.inr rfl) (.inr rfl) (.inr rfl) (fun m => m)
    with_reducible assumption
  clear_value v4
  refine trigger_keeps (hg.sub rfl) _ _ ?_
  with_reducible assumption

theorem pfwInBoot_keeps (hg : Free 3 g) : ∀ s, Keeps g s0 s → Keeps g s0 (pfwInBoot s) := by
  intro s h
  unfold pfwInBoot
  refine keeps_update (s := s) 3 (hg.sub rfl) ?_ (.inl rfl) (.inl rfl) (.inr rfl) (.inr rfl) (.inr rfl) (.inr rfl) (.inr rfl) (.inr rfl) (.inr rfl) (.inr rfl) (.inr rfl) (.inr rfl) (.inr rfl) (.inr rfl) (.inr rfl) (.inr rfl) (.inr rfl) (.inr rfl) (.inr rfl) (.inr rfl) (.inr rfl) (.inr rfl) (.inr rfl) (.inr rfl) (.inr rfl) (.inr rfl) (.inr rfl) (.inr rfl) (.inr rfl) (.inr rfl) (.inr rfl) (.inr rfl) (.inr rfl) (.inr rfl) (fun m => m)
  with_reducible assumption

theorem recordDone_keeps (hg : Free 65568 g) : ∀ s, Keeps g s0 s → Keeps g s0 (recordDone s) := by
  intro s h
  unfold recordDone
  extract_lets +onlyGivenNames v1
  extract_lets +onlyGivenNames v2
  extract_lets +onlyGivenNames v3
  refine Keeps.cut (g := g) (s0 := s0) v3 ?_ (fun h4 => ?_)
  ·
    unfold v3
    refine keeps_nv (s := s) 32 (hg.sub rfl) ?_ (.inr rfl) (.inr rfl) (.inr rfl) (.inl rfl) (fun m => m)
    with_reducible assumption
  clear_value v3
  refine logEv_keeps (hg.sub rfl) _ _ _ _ _ _ _ ?_
  with_reducible assumption

theorem flushDone_keeps (hg : Free 65571 g) : ∀ s, Keeps g s0 s → Keeps g s0 (flushDone s) := by
  intro s h
  unfold flushDone
  refine @keeps_ite _ (Keeps g s0) _ _ _ _ ?_ ?_
  ·
    with_reducible assumption
  ·
    extract_lets +onlyGivenNames v1
    refine Keeps.cut (g := g) (s0 := s0) v1 ?_ (fun h2 => ?_)
    ·
      unfold v1
      refine recordDone_keeps (hg.sub rfl) _ ?_
      with_reducible assumption
    clear_value v1
    refine keeps_update (s := v1) 3 (hg.sub rfl) ?_ (.inl rfl) (.inl rfl) (.inr rfl) (.inr rfl) (.inr rfl) (.inr rfl) (.inr rfl) (.inr rfl) (.inr rfl) (.inr rfl) (.inr rfl) (.inr rfl) (.inr rfl) (.inr rfl) (.inr rfl) (.inr rfl) (.inr rfl) (.inr rfl) (.inr rfl) (.inr rfl) (.inr rfl) (.inr rfl) (.inr rfl) (.inr rfl) (.inr rfl) (.inr rfl) (.inr rfl) (.inr rfl) (.inr rfl) (.inr rfl) (.inr rfl) (.inr rfl) (.inr rfl) (.inr rfl) (fun m => m)
    with_reducible assumption

theorem pfwInReset_keeps (hg : Free 3 g) : ∀ s, Keeps g s0 s → Keeps g s0 (pfwInReset s) := by
  intro s h
  unfold pfwInReset
  split
  ·
    rename_i y1 y2 y3
    refine keeps_update (s := s) 3 (hg.sub rfl) ?_ (.inl rfl) (.inl rfl) (.inr rfl) (.inr rfl) (.inr rfl) (.inr rfl) (.inr rfl) (.inr rfl) (.inr rfl) (.inr rfl) (.inr rfl) (.inr rfl) (.inr rfl) (.inr rfl) (.inr rfl) (.inr rfl) (.inr rfl) (.inr rfl) (.inr rfl) (.inr rfl) (.inr rfl) (.inr rfl) (.inr rfl) (.inr rfl) (.inr rfl) (.inr rfl) (.inr rfl) (.inr rfl) (.inr rfl) (.inr rfl) (.inr rfl) (.inr rfl) (.inr rfl) (.inr rfl) (fun m => m)
    with_reducible assumption
  ·
    rename_i y4 y5
    refine keeps_update (s := s) 3 (hg.sub rfl) ?_ (.inl rfl) (.inl rfl) (.inr rfl) (.inr rfl) (.inr rfl) (.inr rfl) (.inr rfl) (.inr rfl) (.inr rfl) (.inr rfl) (.inr rfl) (.inr rfl) (.inr rfl) (.inr rfl) (.inr rfl) (.inr rfl) (.inr rfl) (.inr rfl) (.inr rfl) (.inr rfl) (.inr rfl) (.inr rfl) (.inr rfl) (.inr rfl) (.inr rfl) (.inr rfl) (.inr rfl) (.inr rfl) (.inr rfl) (.inr rfl) (.inr rfl) (.inr rfl) (.inr rfl) (.inr rfl) (fun m => m)
    with_reducible assumption
  ·
    rename_i y6 y7 y8
    with_reducible assumption

theorem execFlushDone_keeps (hg : Free 65571 g) : ∀ s, Keeps g s0 s → KeepsN g s0 (execFlushDone s) := by
  intro s h
  unfold execFlushDone
  refine KeepsN.next ?_
  refine flushDone_keeps (hg.sub rfl) _ ?_
  with_reducible assumption

theorem takeBrace_keeps (hg : Free 73728 g) : ∀ a0 s, Keeps g s0 s → Keeps g s0 (takeBrace a0 s) := by
  intro a0 s h
  unfold takeBrace
  refine @keeps_ite _ (Keeps g s0) _ _ _ _ ?_ ?_
  ·
    refine logEv_keeps (hg.sub rfl) _ _ _ _ _ _ _ ?_
    refine keeps_flush (s := s) (hg.sub rfl) ?_
    with_reducible assumption
  ·
    refine @keeps_ite _ (Keeps g s0) _ _ _ _ ?_ ?_
    ·
      with_reducible assumption
    ·
      refine @keeps_ite _ (Keeps g s0) _ _ _ _ ?_ ?_
      ·
        refine @keeps_ite _ (Keeps g s0) _ _ _ _ ?_ ?_
        ·
          refine keeps_flush (s := s) (hg.sub rfl) ?_
          with_reducible assumption
        ·
          refine braceNow_keeps (hg.sub rfl) _ _ ?_
          with_reducible assumption
      ·
        extract_lets +onlyGivenNames v1
        refine Keeps.cut (g := g) (s0 := s0) v1 ?_ (fun h2 => ?_)
        ·
          unfold v1
          refine trigger_keeps (hg.sub rfl) _ _ ?_
          with_reducible assumption
        clear_value v1
        refine keeps_flush (s := v1) (hg.sub rfl) ?_
        with_reducible assumption

theorem flushBegins_keeps (hg : Free 76834 g) : ∀ s, Keeps g s0 s → Keeps g s0 (flushBegins s) := by
  intro s h
  unfold flushBegins
  extract_lets +onlyGivenNames v1 v2 v3 v4 v5 v6 v7
  clear_value v1
  clear_value v2
  clear_value v3
  clear_value v6
  refine Keeps.cut (g := g) (s0 := s0) v7 ?_ (fun h8 => ?_)
  ·
    unfold v7
    refine keeps_update (s := s) 9248 (hg.sub rfl) ?_ (.inr rfl) (.inr rfl) (.inr rfl) (.inr rfl) (.inr rfl) (.inl rfl) (.inr rfl) (.inr rfl) (.inr rfl) (.inr rfl) (.inl rfl) (.inr rfl) (.inr rfl) (.inl rfl) (.inr rfl) (.inr rfl) (.inr rfl) (.inr rfl) (.inr rfl) (.inr rfl) (.inr rfl) (.inr rfl) (.inr rfl) (.inr rfl) (.inr rfl) (.inr rfl) (.inr rfl) (.inr rfl) (.inr rfl) (.inr rfl) (.inr rfl) (.inr rfl) (.inr rfl) (.inr rfl) (fun m => ⟨m.1, m.2.1, rfl⟩)
    with_reducible assumption
  clear_value v7
  extract_lets +onlyGivenNames v9 v10 v11
  refine Keeps.cut (g := g) (s0 := s0) v9 ?_ (fun h12 => ?_)
  ·
    unfold v9
    refine maintain_keeps (hg.sub rfl) _ _ _ ?_
    with_reducible assumption
  clear_value v9
  refine Keeps.cut (g := g) (s0 := s0) v10 ?_ (fun h13 => ?_)
  ·
    unfold v10
    refine keeps_foldl (P := Keeps g s0) (fun b14 x15 h16 => ?_) _ _ ?_
    ·
      refine maintain_keeps (hg.sub rfl) _ _ _ ?_
      with_reducible assumption
    ·
      with_reducible assumption
  clear_value v10
  refine Keeps.cut (g := g) (s0 := s0) v11 ?_ (fun h17 => ?_)
  ·
    unfold v11
    refine logEv_keeps (hg.sub rfl) _ _ _ _ _ _ _ ?_
    with_reducible assumption
  clear_value v11
  refine @keeps_ite _ (Keeps g s0) _ _ _ _ ?_ ?_
  ·
    refine spatePhase_keeps (hg.sub rfl) _ ?_
    with_reducible assumption
  ·
    with_reducible assumption

theorem flushLowInput_keeps (hg : Free 8224 g) : ∀ s, Keeps g s0 s → Keeps g s0 (flushLowInput s) := by
  intro s h
  unfold flushLowInput
  refine @keeps_ite _ (Keeps g s0) _ _ _ _ ?_ ?_
  ·
    with_reducible assumption
  ·
    refine @keeps_ite _ (Keeps g s0) _ _ _ _ ?_ ?_
    ·
      refine keeps_update (s := s) 8224 (hg.sub rfl) ?_ (.inr rfl) (.inr rfl) (.inr rfl) (.inr rfl) (.inr rfl) (.inl rfl) (.inr rfl) (.inr rfl) (.inr rfl) (.inr rfl) (.inr rfl) (.inr rfl) (.inr rfl) (.inl rfl) (.inr rfl) (.inr rfl) (.inr rfl) (.inr rfl) (.inr rfl) (.inr rfl) (.inr rfl) (.inr rfl) (.inr rfl) (.inr rfl) (.inr rfl) (.inr rfl) (.inr rfl) (.inr rfl) (.inr rfl) (.inr rfl) (.inr rfl) (.inr rfl) (.inr rfl) (.inr rfl) (fun m => ⟨m.1, m.2.1, rfl⟩)
      with_reducible assumption
    ·
      refine keeps_flush (s := s) (hg.sub rfl) ?_
      with_reducible assumption

theorem execFlushLowInput_keeps (hg : Free 8226 g) : ∀ s, Keeps g s0 s → KeepsN g s0 (execFlushLowInput s) := by
  intro s h
  unfold execFlushLowInput
  refine KeepsN.next ?_
  extract_lets +onlyGivenNames v1
  refine Keeps.cut (g := g) (s0 := s0) v1 ?_ (fun h2 => ?_)
  ·
    unfold v1
    refine flushLowInput_keeps (hg.sub rfl) _ ?_
    with_reducible assumption
  clear_value v1
  refine keeps_pins (s := v1) (hg.sub rfl) ?_
  with_reducible assumption

theorem earlyFlushComplete_keeps (hg : Free 205856 g) : ∀ s, Keeps g s0 s → Keeps g s0 (earlyFlushComplete s) := by
  intro s h
  unfold earlyFlushComplete
  refine @keeps_ite _ (Keeps g s0) _ _ _ _ ?_ ?_
  ·
    with_reducible assumption
  ·
    extract_lets +onlyGivenNames v1 v2 v3 v4 v5 v6
    refine Keeps.cut (g := g) (s0 := s0) v1 ?_ (fun h7 => ?_)
    ·
      unfold v1
      refine recordDone_keeps (hg.sub rfl) _ ?_
      with_reducible assumption
    clear_value v1
    clear_value v2
    clear_value v3
    clear_value v5
    extract_lets +onlyGivenNames v8 v9 v10
    refine Keeps.cut (g := g) (s0 := s0) v8 ?_ (fun h11 => ?_)
    ·
      unfold v8
      refine keeps_update (s := v1) 140288 (hg.sub rfl) ?_ (.inr rfl) (.inr rfl) (.inr rfl) (.inr rfl) (.inr rfl) (.inr rfl) (.inr rfl) (.inr rfl) (.inr rfl) (.inr rfl) (.inl rfl) (.inr rfl) (.inr rfl) (.inl rfl) (.inr rfl) (.inr rfl) (.inr rfl) (.inl rfl) (.inr rfl) (.inr rfl) (.inr rfl) (.inr rfl) (.inr rfl) (.inr rfl) (.inr rfl) (.inr rfl) (.inr rfl) (.inr rfl) (.inr rfl) (.inr rfl) (.inr rfl) (.inr rfl) (.inr rfl) (.inr rfl) (fun m => m)
      with_reducible assumption
    clear_value v8
    refine Keeps.cut (g := g) (s0 := s0) v9 ?_ (fun h12 => ?_)
    ·
      unfold v9
      refine logSelect_keeps (hg.sub rfl) _ _ _ _ ?_
      with_reducible assumption
    clear_value v9
    refine Keeps.cut (g := g) (s0 := s0) v10 ?_ (fun h13 => ?_)
    ·
      unfold v10
      refine keeps_foldl (P := Keeps g s0) (fun b14 x15 h16 => ?_) _ _ ?_
      ·
        refine braceNow_keeps (hg.sub rfl) _ _ ?_
        with_reducible assumption
      ·
        with_reducible assumption
    clear_value v10
    refine @keeps_ite _ (Keeps g s0) _ _ _ _ ?_ ?_
    ·
      refine trigger_keeps (hg.sub rfl) _ _ ?_
      with_reducible assumption
    ·
      with_reducible assumption

theorem pfwAssert_keeps (hg : Free 204947 g) : ∀ s, Keeps g s0 s → Keeps g s0 (pfwAssert s) := by
  intro s h
  unfold pfwAssert
  refine @keeps_ite _ (Keeps g s0) _ _ _ _ ?_ ?_
  ·
    with_reducible assumption
  ·
    extract_lets +onlyGivenNames v1
    refine Keeps.cut (g := g) (s0 := s0) v1 ?_ (fun h2 => ?_)
    ·
      unfold v1
      refine @keeps_ite _ (Keeps g s0) _ _ _ _ ?_ ?_
      ·
        refine logWrite_keeps (hg.sub rfl) _ ?_
        with_reducible assumption
      ·
        with_reducible assumption
    clear_value v1
    refine @keeps_ite _ (Keeps g s0) _ _ _ _ ?_ ?_
    ·
      refine pfwInReset_keeps (hg.sub rfl) _ ?_
      with_reducible assumption
    ·
      refine @keeps_ite _ (Keeps g s0) _ _ _ _ ?_ ?_
      ·
        refine pfwInService_keeps (hg.sub rfl) _ ?_
        with_reducible assumption
      ·
        split
        ·
          rename_i y3 y4
          refine pfwInBoot_keeps (hg.sub rfl) _ ?_
          with_reducible assumption
        ·
          rename_i y5 y6
          refine pfwInBoot_keeps (hg.sub rfl) _ ?_
          with_reducible assumption
        ·
          rename_i y7 y8 y9
          with_reducible assumption

theorem execPfwAssert_keeps (hg : Free 204947 g) : ∀ s, Keeps g s0 s → KeepsN g s0 (execPfwAssert s) := by
  intro s h
  unfold execPfwAssert
  refine KeepsN.next ?_
  refine pfwAssert_keeps (hg.sub rfl) _ ?_
  with_reducible assumption

theorem braceAtReady_keeps (hg : Free 73728 g) : ∀ s, Keeps g s0 s → Keeps g s0 (braceAtReady s) := by
  intro s h
  unfold braceAtReady
  refine @keeps_ite _ (Keeps g s0) _ _ _ _ ?_ ?_
  ·
    with_reducible assumption
  ·
    refine setAlert_keeps (hg.sub rfl) _ _ ?_
    refine keeps_flush (s := s) (hg.sub rfl) ?_
    with_reducible assumption

theorem execBraceAssert_keeps (hg : Free 73730 g) : ∀ s, Keeps g s0 s → KeepsN g s0 (execBraceAssert s) := by
  intro s h
  unfold execBraceAssert
  refine KeepsN.next ?_
  refine @keeps_ite _ (Keeps g s0) _ _ _ _ ?_ ?_
  ·
    refine takeBrace_keeps (hg.sub rfl) _ _ ?_
    refine keeps_pins (s := s) (hg.sub rfl) ?_
    with_reducible assumption
  ·
    with_reducible assumption

theorem flushToPower_keeps (hg : Free 8194 g) : ∀ s, Keeps g s0 s → Keeps g s0 (flushToPower s) := by
  intro s h
  unfold flushToPower
  refine spatePhase_keeps (hg.sub rfl) _ ?_
  refine keeps_flush (s := s) (hg.sub rfl) ?_
  with_reducible assumption

theorem flushBoundary_keeps (hg : Free 76834 g) : ∀ s, Keeps g s0 s → Keeps g s0 (flushBoundary s) := by
  intro s h
  unfold flushBoundary
  refine @keeps_ite _ (Keeps g s0) _ _ _ _ ?_ ?_
  ·
    refine flushBegins_keeps (hg.sub rfl) _ ?_
    with_reducible assumption
  ·
    refine @keeps_ite _ (Keeps g s0) _ _ _ _ ?_ ?_
    ·
      refine flushToPower_keeps (hg.sub rfl) _ ?_
      with_reducible assumption
    ·
      with_reducible assumption

theorem execBraceDeassert_keeps (hg : Free 2 g) : ∀ s, Keeps g s0 s → KeepsN g s0 (execBraceDeassert s) := by
  intro s h
  unfold execBraceDeassert
  refine KeepsN.next ?_
  refine keeps_pins (s := s) (hg.sub rfl) ?_
  with_reducible assumption

theorem execPostFlushReboot_keeps (hg : Free 16238247819 g) : ∀ s, Keeps g s0 s → KeepsN g s0 (execPostFlushReboot s) := by
  intro s h
  unfold execPostFlushReboot
  refine KeepsN.next ?_
  refine @keeps_ite _ (Keeps g s0) _ _ _ _ ?_ ?_
  ·
    refine coldReset_keeps (hg.sub rfl) _ ?_
    refine keeps_pins (s := s) (hg.sub rfl) ?_
    with_reducible assumption
  ·
    with_reducible assumption

theorem execInputSag_keeps (hg : Free 2 g) : ∀ s, Keeps g s0 s → KeepsN g s0 (execInputSag s) := by
  intro s h
  unfold execInputSag
  refine KeepsN.next ?_
  refine @keeps_ite _ (Keeps g s0) _ _ _ _ ?_ ?_
  ·
    refine keeps_pins (s := s) (hg.sub rfl) ?_
    with_reducible assumption
  ·
    with_reducible assumption

theorem slotBoundaries_keeps (hg : Free 8589934592 g) : ∀ s, Keeps g s0 s → Keeps g s0 (slotBoundaries s) := by
  intro s h
  unfold slotBoundaries
  extract_lets +onlyGivenNames v1
  clear_value v1
  refine keeps_shoal (s := s) 8589934592 (hg.sub rfl) ?_ (.inr rfl) (.inl rfl)
  with_reducible assumption

theorem admitWork_keeps (hg : Free 134220544 g) : ∀ s a1, Keeps g s0 s → Keeps g s0 (admitWork s a1) := by
  intro s a1 h
  unfold admitWork
  extract_lets +onlyGivenNames v1
  extract_lets +onlyGivenNames v2
  refine Keeps.cut (g := g) (s0 := s0) v2 ?_ (fun h3 => ?_)
  ·
    unfold v2
    refine keeps_weir (s := s) 2048 (hg.sub rfl) ?_ (.inr rfl) (.inl rfl)
    with_reducible assumption
  clear_value v2
  refine @keeps_ite _ (Keeps g s0) _ _ _ _ ?_ ?_
  ·
    refine keeps_weir (s := v2) 2048 (hg.sub rfl) ?_ (.inr rfl) (.inl rfl)
    with_reducible assumption
  ·
    split
    ·
      rename_i y4 y5 y6 y7
      refine shipNow_keeps (hg.sub rfl) _ _ _ ?_
      with_reducible assumption
    ·
      rename_i y8 y9
      refine keeps_weir (s := v2) 2048 (hg.sub rfl) ?_ (.inr rfl) (.inl rfl)
      with_reducible assumption

theorem noteDurable_keeps (hg : Free 32 g) : ∀ a0 s, Keeps g s0 s → Keeps g s0 (noteDurable a0 s) := by
  intro a0 s h
  unfold noteDurable
  extract_lets +onlyGivenNames v1
  clear_value v1
  refine @keeps_ite _ (Keeps g s0) _ _ _ _ ?_ ?_
  ·
    refine setDurMap_keeps (hg.sub rfl) _ _ _ ?_
    with_reducible assumption
  ·
    with_reducible assumption

theorem withdrawJob_keeps (hg : Free 8610906112 g) : ∀ a0 a1 s, Keeps g s0 s → Keeps g s0 (withdrawJob a0 a1 s) := by
  intro a0 a1 s h
  unfold withdrawJob
  extract_lets +onlyGivenNames v1
  extract_lets +onlyGivenNames v2
  refine Keeps.cut (g := g) (s0 := s0) v2 ?_ (fun h3 => ?_)
  ·
    unfold v2
    refine keeps_rill (s := s) 4194304 (hg.sub rfl) ?_ (.inl rfl) (.inr rfl)
    with_reducible assumption
  clear_value v2
  refine eddyFlush_keeps (hg.sub rfl) _ _ ?_
  with_reducible assumption

theorem withdraw_keeps (hg : Free 8745126656 g) : ∀ s a1, Keeps g s0 s → Keeps g s0 (withdraw s a1) := by
  intro s a1 h
  unfold withdraw
  extract_lets +onlyGivenNames v1
  refine Keeps.cut (g := g) (s0 := s0) v1 ?_ (fun h2 => ?_)
  ·
    unfold v1
    split
    ·
      rename_i y3 y4 y5 y6 y7
      refine withdrawJob_keeps (hg.sub rfl) _ _ _ ?_
      with_reducible assumption
    ·
      rename_i y8 y9 y10 y11 y12 y13 y14
      refine eddyFlush_keeps (hg.sub rfl) _ _ ?_
      with_reducible assumption
    ·
      rename_i y15 y16 y17 y18
      with_reducible assumption
  clear_value v1
  refine complete_keeps (hg.sub rfl) _ _ _ _ ?_
  with_reducible assumption

theorem admitOne_keeps (hg : Free 8745130784 g) : ∀ s a1, Keeps g s0 s → Keeps g s0 (admitOne s a1) := by
  intro s a1 h
  unfold admitOne
  extract_lets +onlyGivenNames v1 v2 v3
  refine Keeps.cut (g := g) (s0 := s0) v2 ?_ (fun h4 => ?_)
  ·
    unfold v2
    refine keeps_weir (s := s) 2048 (hg.sub rfl) ?_ (.inr rfl) (.inl rfl)
    with_reducible assumption
  clear_value v2
  clear_value v3
  extract_lets +onlyGivenNames v5
  clear_value v5
  refine @keeps_ite _ (Keeps g s0) _ _ _ _ ?_ ?_
  ·
    refine withdraw_keeps (hg.sub rfl) _ _ ?_
    with_reducible assumption
  ·
    refine @keeps_ite _ (Keeps g s0) _ _ _ _ ?_ ?_
    ·
      refine complete_keeps (hg.sub rfl) _ _ _ _ ?_
      with_reducible assumption
    ·
      extract_lets +onlyGivenNames v6 v7
      refine Keeps.cut (g := g) (s0 := s0) v6 ?_ (fun h8 => ?_)
      ·
        unfold v6
        refine @keeps_ite _ (Keeps g s0) _ _ _ _ ?_ ?_
        ·
          refine noteDurable_keeps (hg.sub rfl) _ _ ?_
          refine countAccess_keeps (hg.sub rfl) _ _ _ ?_
          with_reducible assumption
        ·
          with_reducible assumption
      clear_value v6
      refine Keeps.cut (g := g) (s0 := s0) v7 ?_ (fun h9 => ?_)
      ·
        unfold v7
        refine @keeps_ite _ (Keeps g s0) _ _ _ _ ?_ ?_
        ·
          refine touchLines_keeps (hg.sub rfl) _ _ _ ?_
          with_reducible assumption
        ·
          with_reducible assumption
      clear_value v7
      refine keeps_weir (s := v7) 2048 (hg.sub rfl) ?_ (.inr rfl) (.inl rfl)
      with_reducible assumption

theorem admitRace_keeps (hg : Free 8745130784 g) : ∀ a0 a1 s a3, Keeps g s0 s → Keeps g s0 (admitRace a0 a1 s a3) := by
  intro a0 a1 s a3 h
  unfold admitRace
  extract_lets +onlyGivenNames v1 v2
  clear_value v1
  clear_value v2
  refine keeps_foldl (P := Keeps g s0) (fun b3 x4 h5 => ?_) _ _ ?_
  ·
    refine admitWork_keeps (hg.sub rfl) _ _ ?_
    with_reducible assumption
  ·
    refine keeps_foldl (P := Keeps g s0) (fun b6 x7 h8 => ?_) _ _ ?_
    ·
      refine admitOne_keeps (hg.sub rfl) _ _ ?_
      with_reducible assumption
    ·
      with_reducible assumption

theorem grantRace_keeps (hg : Free 2048 g) : ∀ a0 a1 s a3, Keeps g s0 s → Keeps g s0 (grantRace a0 a1 s a3) := by
  intro a0 a1 s a3 h
  unfold grantRace
  extract_lets +onlyGivenNames v1 v2
  clear_value v1
  clear_value v2
  split
  ·
    rename_i y3 y4 y5
    extract_lets +onlyGivenNames v6
    clear_value v6
    refine keeps_weir (s := s) 2048 (hg.sub rfl) ?_ (.inr rfl) (.inl rfl)
    with_reducible assumption
  ·
    rename_i y7 y8
    with_reducible assumption

theorem cleanNow_keeps (hg : Free 135200 g) : ∀ a0 s, Keeps g s0 s → Keeps g s0 (cleanNow a0 s) := by
  intro a0 s h
  unfold cleanNow
  extract_lets +onlyGivenNames v1
  clear_value v1
  refine @keeps_ite _ (Keeps g s0) _ _ _ _ ?_ ?_
  ·
    with_reducible assumption
  ·
    extract_lets +onlyGivenNames v2
    refine Keeps.cut (g := g) (s0 := s0) v2 ?_ (fun h3 => ?_)
    ·
      unfold v2
      refine cleanUnit_keeps (hg.sub rfl) _ _ ?_
      with_reducible assumption
    clear_value v2
    refine keeps_keeper (s := v2) 131072 (hg.sub rfl) ?_ (.inr rfl) (.inl rfl)
    with_reducible assumption

theorem grantWork_keeps (hg : Free 134355744 g) : ∀ a0 s, Keeps g s0 s → Keeps g s0 (grantWork a0 s) := by
  intro a0 s h
  unfold grantWork
  split
  ·
    rename_i y1 y2 y3
    refine cleanNow_keeps (hg.sub rfl) _ _ ?_
    with_reducible assumption
  ·
    rename_i y4 y5 y6 y7
    refine shipNow_keeps (hg.sub rfl) _ _ _ ?_
    with_reducible assumption
  ·
    rename_i y8 y9 y10
    refine keeps_weir (s := s) 2048 (hg.sub rfl) ?_ (.inr rfl) (.inl rfl)
    with_reducible assumption

theorem grantFlash_keeps (hg : Free 134355744 g) : ∀ a0 a1 s, Keeps g s0 s → Keeps g s0 (grantFlash a0 a1 s) := by
  intro a0 a1 s h
  unfold grantFlash
  refine @keeps_ite _ (Keeps g s0) _ _ _ _ ?_ ?_
  ·
    with_reducible assumption
  ·
    extract_lets +onlyGivenNames v1
    clear_value v1
    split
    ·
      rename_i y2 y3 y4
      refine grantWork_keeps (hg.sub rfl) _ _ ?_
      refine keeps_weir (s := s) 2048 (hg.sub rfl) ?_ (.inr rfl) (.inl rfl)
      with_reducible assumption
    ·
      rename_i y5 y6
      with_reducible assumption

theorem weirSlot_keeps (hg : Free 8745262880 g) : ∀ s, Keeps g s0 s → Keeps g s0 (weirSlot s) := by
  intro s h
  unfold weirSlot
  refine @keeps_ite _ (Keeps g s0) _ _ _ _ ?_ ?_
  ·
    with_reducible assumption
  ·
    extract_lets +onlyGivenNames v1 v2
    clear_value v1
    refine Keeps.cut (g := g) (s0 := s0) v2 ?_ (fun h3 => ?_)
    ·
      unfold v2
      split
      ·
        rename_i y4 y5
        with_reducible assumption
      ·
        rename_i y6 y7 y8
        extract_lets +onlyGivenNames v9 v10 v11
        clear_value v9
        refine Keeps.cut (g := g) (s0 := s0) v10 ?_ (fun h12 => ?_)
        ·
          unfold v10
          refine keeps_foldl (P := Keeps g s0) (fun b13 x14 h15 => ?_) _ _ ?_
          ·
            refine admitRace_keeps (hg.sub rfl) _ _ _ _ ?_
            with_reducible assumption
          ·
            with_reducible assumption
        clear_value v10
        refine Keeps.cut (g := g) (s0 := s0) v11 ?_ (fun h16 => ?_)
        ·
          unfold v11
          refine keeps_foldl (P := Keeps g s0) (fun b17 x18 h19 => ?_) _ _ ?_
          ·
            refine grantRace_keeps (hg.sub rfl) _ _ _ _ ?_
            with_reducible assumption
          ·
            with_reducible assumption
        clear_value v11
        refine wakeStalled_keeps (hg.sub rfl) _ ?_
        refine grantFlash_keeps (hg.sub rfl) _ _ _ ?_
        with_reducible assumption
    clear_value v2
    refine keeps_weir (s := v2) 1024 (hg.sub rfl) ?_ (.inl rfl) (.inr rfl)
    with_reducible assumption

theorem execWeirSlot_keeps (hg : Free 8812470056 g) : ∀ s, Keeps g s0 s → KeepsN g s0 (execWeirSlot s) := by
  intro s h
  unfold execWeirSlot
  refine KeepsN.next ?_
  refine pump_keeps (hg.sub rfl) _ ?_
  refine weirSlot_keeps (hg.sub rfl) _ ?_
  with_reducible assumption

theorem switchTable_keeps (hg : Free 1024 g) : ∀ s, Keeps g s0 s → Keeps g s0 (switchTable s) := by
  intro s h
  unfold switchTable
  split
  ·
    rename_i y1 y2
    with_reducible assumption
  ·
    rename_i y3 y4 y5
    extract_lets +onlyGivenNames v6
    extract_lets +onlyGivenNames v7
    refine Keeps.cut (g := g) (s0 := s0) v7 ?_ (fun h8 => ?_)
    ·
      unfold v7
      refine keeps_weir (s := s) 1024 (hg.sub rfl) ?_ (.inl rfl) (.inr rfl)
      with_reducible assumption
    clear_value v7
    refine @keeps_ite _ (Keeps g s0) _ _ _ _ ?_ ?_
    ·
      with_reducible assumption
    ·
      refine keeps_weir (s := v7) 1024 (hg.sub rfl) ?_ (.inl rfl) (.inr rfl)
      with_reducible assumption

theorem mirrorPeriods_keeps (hg : Free 32768 g) : ∀ s, Keeps g s0 s → Keeps g s0 (mirrorPeriods s) := by
  intro s h
  unfold mirrorPeriods
  refine keeps_foldl (P := Keeps g s0) (fun b1 x2 h3 => ?_) _ _ ?_
  ·
    refine updMirror_keeps (hg.sub rfl) _ _ _ ?_
    with_reducible assumption
  ·
    with_reducible assumption

theorem weirPeriodBoundary_keeps (hg : Free 8724262690 g) : ∀ s, Keeps g s0 s → Keeps g s0 (weirPeriodBoundary s) := by
  intro s h
  unfold weirPeriodBoundary
  refine @keeps_ite _ (Keeps g s0) _ _ _ _ ?_ ?_
  ·
    with_reducible assumption
  ·
    extract_lets +onlyGivenNames v1 v2 v3
    refine Keeps.cut (g := g) (s0 := s0) v2 ?_ (fun h4 => ?_)
    ·
      unfold v2
      refine keeps_weir (s := s) 1024 (hg.sub rfl) ?_ (.inl rfl) (.inr rfl)
      with_reducible assumption
    clear_value v2
    refine Keeps.cut (g := g) (s0 := s0) v3 ?_ (fun h5 => ?_)
    ·
      unfold v3
      refine switchTable_keeps (hg.sub rfl) _ ?_
      refine flushBoundary_keeps (hg.sub rfl) _ ?_
      with_reducible assumption
    clear_value v3
    extract_lets +onlyGivenNames v6
    refine Keeps.cut (g := g) (s0 := s0) v6 ?_ (fun h7 => ?_)
    ·
      unfold v6
      refine keeps_foldl (P := Keeps g s0) (fun b8 x9 h10 => ?_) _ _ ?_
      ·
        refine syncInForce_keeps (hg.sub rfl) _ _ ?_
        with_reducible assumption
      ·
        with_reducible assumption
    clear_value v6
    refine mirrorPeriods_keeps (hg.sub rfl) _ ?_
    refine slotBoundaries_keeps (hg.sub rfl) _ ?_
    with_reducible assumption

theorem execWeirPeriodBoundary_keeps (hg : Free 8795565866 g) : ∀ s, Keeps g s0 s → KeepsN g s0 (execWeirPeriodBoundary s) := by
  intro s h
  unfold execWeirPeriodBoundary
  refine KeepsN.next ?_
  refine pump_keeps (hg.sub rfl) _ ?_
  refine weirPeriodBoundary_keeps (hg.sub rfl) _ ?_
  with_reducible assumption

end Sys2Proof.Safety
end

