-- ==== Sys2Proof/Laws/KeepsBoot.lean ====
section
/-!
SUPPORT. Which parts of the state each operation keeps: boot and teardown.
-/
namespace Sys2Proof.Safety

open Sys2Proof Sys2Proof.Machine

set_option Elab.async false

variable {g : Part} {s0 : State}

theorem checkLinksDone_keeps (hg : Free 134283393 g) : ∀ s, Keeps g s0 s → Keeps g s0 (checkLinksDone s) := by
  intro s h
  unfold checkLinksDone
  refine @keeps_ite _ (Keeps g s0) _ _ _ _ ?_ ?_
  ·
    with_reducible assumption
  ·
    refine startAgreement_keeps (hg.sub rfl) _ ?_
    refine bootStep_keeps (hg.sub rfl) _ _ ?_
    refine keeps_boot (s := s) (hg.sub rfl) ?_
    with_reducible assumption

theorem updRec_keeps (hg : Free 8 g) : ∀ a0 a1 s, Keeps g s0 s → Keeps g s0 (updRec a0 a1 s) := by
  intro a0 a1 s h
  unfold updRec
  refine @keeps_ite _ (Keeps g s0) _ _ _ _ ?_ ?_
  ·
    refine keeps_nv (s := s) 8 (hg.sub rfl) ?_ (.inr rfl) (.inl rfl) (.inr rfl) (.inr rfl) (fun m => m)
    with_reducible assumption
  ·
    refine keeps_nv (s := s) 8 (hg.sub rfl) ?_ (.inr rfl) (.inl rfl) (.inr rfl) (.inr rfl) (fun m => m)
    with_reducible assumption

theorem logSlot_keeps (hg : Free 65544 g) : ∀ a0 a1 a2 s, Keeps g s0 s → Keeps g s0 (logSlot a0 a1 a2 s) := by
  intro a0 a1 a2 s h
  unfold logSlot
  refine logEv_keeps (hg.sub rfl) _ _ _ _ _ _ _ ?_
  refine updRec_keeps (hg.sub rfl) _ _ _ ?_
  with_reducible assumption

theorem slotBoots_keeps (hg : Free 65544 g) : ∀ a0 a1 s, Keeps g s0 s → Keeps g s0 (slotBoots a0 a1 s) := by
  intro a0 a1 s h
  unfold slotBoots
  split
  ·
    rename_i y1 y2
    refine updRec_keeps (hg.sub rfl) _ _ _ ?_
    refine logSlot_keeps (hg.sub rfl) _ _ _ _ ?_
    with_reducible assumption
  ·
    rename_i y3 y4
    refine updRec_keeps (hg.sub rfl) _ _ _ ?_
    with_reducible assumption
  ·
    rename_i y5 y6 y7
    with_reducible assumption

theorem await_keeps (hg : Free 1 g) : ∀ a0 s, Keeps g s0 s → Keeps g s0 (await a0 s) := by
  intro a0 s h
  unfold await
  refine keeps_boot (s := s) (hg.sub rfl) ?_
  with_reducible assumption

theorem railsUp_keeps (hg : Free 65539 g) : ∀ s, Keeps g s0 s → Keeps g s0 (railsUp s) := by
  intro s h
  unfold railsUp
  refine await_keeps (hg.sub rfl) _ _ ?_
  refine bootStep_keeps (hg.sub rfl) _ _ ?_
  refine keeps_pins (s := s) (hg.sub rfl) ?_
  with_reducible assumption

theorem execMainRailsUp_keeps (hg : Free 65539 g) : ∀ a0 s, Keeps g s0 s → KeepsN g s0 (execMainRailsUp a0 s) := by
  intro a0 s h
  unfold execMainRailsUp
  refine KeepsN.next ?_
  refine @keeps_ite _ (Keeps g s0) _ _ _ _ ?_ ?_
  ·
    with_reducible assumption
  ·
    refine @keeps_ite _ (Keeps g s0) _ _ _ _ ?_ ?_
    ·
      refine railsUp_keeps (hg.sub rfl) _ ?_
      with_reducible assumption
    ·
      refine keeps_update (s := s) 3 (hg.sub rfl) ?_ (.inl rfl) (.inl rfl) (.inr rfl) (.inr rfl) (.inr rfl) (.inr rfl) (.inr rfl) (.inr rfl) (.inr rfl) (.inr rfl) (.inr rfl) (.inr rfl) (.inr rfl) (.inr rfl) (.inr rfl) (.inr rfl) (.inr rfl) (.inr rfl) (.inr rfl) (.inr rfl) (.inr rfl) (.inr rfl) (.inr rfl) (.inr rfl) (.inr rfl) (.inr rfl) (.inr rfl) (.inr rfl) (.inr rfl) (.inr rfl) (.inr rfl) (.inr rfl) (.inr rfl) (.inr rfl) (fun m => m)
      with_reducible assumption

theorem trySlots_keeps (hg : Free 0 g) : ∀ a0 a1 s, (∀ x0 t, Keeps g s0 t → Keeps2 g s0 (a1 x0 t)) → Keeps g s0 s → Keeps2 g s0 (trySlots a0 a1 s) := by
  intro a0 a1 s hk0 h
  unfold trySlots
  extract_lets +onlyGivenNames v1
  clear_value v1
  split
  ·
    rename_i y2 y3 y4
    refine Keeps.cut (g := g) (s0 := s0) y3 (Keeps2.of_eq ?_ y4) (fun h5 => ?_)
    ·
      refine hk0 _ _ ?_
      with_reducible assumption
    refine Keeps2.mk ?_
    with_reducible assumption
  ·
    rename_i y6 y7 y8
    refine Keeps.cut (g := g) (s0 := s0) y7 (Keeps2.of_eq ?_ y8) (fun h9 => ?_)
    ·
      refine hk0 _ _ ?_
      with_reducible assumption
    refine hk0 _ _ ?_
    with_reducible assumption

theorem badSlot_keeps (hg : Free 65544 g) : ∀ a0 a1 s, Keeps g s0 s → Keeps g s0 (badSlot a0 a1 s) := by
  intro a0 a1 s h
  unfold badSlot
  refine setAlert_keeps (hg.sub rfl) _ _ ?_
  refine logSlot_keeps (hg.sub rfl) _ _ _ _ ?_
  with_reducible assumption

theorem slotFails_keeps (hg : Free 65545 g) : ∀ a0 a1 a2 a3 s, Keeps g s0 s → Keeps g s0 (slotFails a0 a1 a2 a3 s) := by
  intro a0 a1 a2 a3 s h
  unfold slotFails
  extract_lets +onlyGivenNames v1 v2
  clear_value v1
  refine Keeps.cut (g := g) (s0 := s0) v2 ?_ (fun h3 => ?_)
  ·
    unfold v2
    refine bootFail_keeps (hg.sub rfl) _ _ _ ?_
    with_reducible assumption
  clear_value v2
  refine @keeps_ite _ (Keeps g s0) _ _ _ _ ?_ ?_
  ·
    refine badSlot_keeps (hg.sub rfl) _ _ _ ?_
    with_reducible assumption
  ·
    with_reducible assumption

theorem tryFirmware_keeps (hg : Free 65545 g) : ∀ a0 s, Keeps g s0 s → Keeps2 g s0 (tryFirmware a0 s) := by
  intro a0 s h
  unfold tryFirmware
  split
  ·
    rename_i y1 y2
    refine Keeps2.mk ?_
    with_reducible assumption
  ·
    rename_i y3 y4 y5
    refine @keeps_ite _ (Keeps2 g s0) _ _ _ _ ?_ ?_
    ·
      refine Keeps2.mk ?_
      with_reducible assumption
    ·
      refine @keeps_ite _ (Keeps2 g s0) _ _ _ _ ?_ ?_
      ·
        refine Keeps2.mk ?_
        refine badSlot_keeps (hg.sub rfl) _ _ _ ?_
        with_reducible assumption
      ·
        split
        ·
          rename_i y6 y7 y8
          refine Keeps2.mk ?_
          refine slotFails_keeps (hg.sub rfl) _ _ _ _ _ ?_
          with_reducible assumption
        ·
          rename_i y9 y10
          extract_lets +onlyGivenNames v11
          refine Keeps.cut (g := g) (s0 := s0) v11 ?_ (fun h12 => ?_)
          ·
            unfold v11
            refine slotBoots_keeps (hg.sub rfl) _ _ _ ?_
            with_reducible assumption
          clear_value v11
          refine Keeps2.mk ?_
          refine keeps_boot (s := v11) (hg.sub rfl) ?_
          with_reducible assumption

theorem firmwareCheck_keeps (hg : Free 65545 g) : ∀ s, Keeps g s0 s → Keeps g s0 (firmwareCheck s) := by
  intro s h
  unfold firmwareCheck
  refine @keeps_ite _ (Keeps g s0) _ _ _ _ ?_ ?_
  ·
    with_reducible assumption
  ·
    split
    ·
      rename_i y1 y2 y3
      refine Keeps.cut (g := g) (s0 := s0) y2 (Keeps2.of_eq ?_ y3) (fun h4 => ?_)
      ·
        refine trySlots_keeps (hg.sub rfl) _ _ _ (fun x5 x6 h7 => ?_) ?_
        ·
          refine tryFirmware_keeps (hg.sub rfl) _ _ ?_
          with_reducible assumption
        ·
          with_reducible assumption
      refine await_keeps (hg.sub rfl) _ _ ?_
      refine bootStep_keeps (hg.sub rfl) _ _ ?_
      with_reducible assumption
    ·
      rename_i y8 y9 y10
      refine Keeps.cut (g := g) (s0 := s0) y9 (Keeps2.of_eq ?_ y10) (fun h11 => ?_)
      ·
        refine trySlots_keeps (hg.sub rfl) _ _ _ (fun x12 x13 h14 => ?_) ?_
        ·
          refine tryFirmware_keeps (hg.sub rfl) _ _ ?_
          with_reducible assumption
        ·
          with_reducible assumption
      refine keeps_boot (s := y9) (hg.sub rfl) ?_
      with_reducible assumption

theorem execFirmwareCheck_keeps (hg : Free 65545 g) : ∀ s, Keeps g s0 s → KeepsN g s0 (execFirmwareCheck s) := by
  intro s h
  unfold execFirmwareCheck
  refine KeepsN.next ?_
  refine firmwareCheck_keeps (hg.sub rfl) _ ?_
  with_reducible assumption

theorem pruneDurMap_keeps (hg : Free 32 g) : ∀ s, Keeps g s0 s → Keeps g s0 (pruneDurMap s) := by
  intro s h
  unfold pruneDurMap
  extract_lets +onlyGivenNames v1
  clear_value v1
  refine keeps_nv (s := s) 32 (hg.sub rfl) ?_ (.inr rfl) (.inr rfl) (.inr rfl) (.inl rfl) (fun m => m)
  with_reducible assumption

theorem stopInReset_keeps (hg : Free 1 g) : ∀ s, Keeps g s0 s → Keeps g s0 (stopInReset s) := by
  intro s h
  unfold stopInReset
  refine keeps_boot (s := s) (hg.sub rfl) ?_
  with_reducible assumption

theorem execReserveEraseComplete_keeps (hg : Free 33 g) : ∀ s, Keeps g s0 s → KeepsN g s0 (execReserveEraseComplete s) := by
  intro s h
  unfold execReserveEraseComplete
  refine KeepsN.next ?_
  refine @keeps_ite _ (Keeps g s0) _ _ _ _ ?_ ?_
  ·
    refine keeps_update (s := s) 33 (hg.sub rfl) ?_ (.inl rfl) (.inr rfl) (.inr rfl) (.inr rfl) (.inr rfl) (.inl rfl) (.inr rfl) (.inr rfl) (.inr rfl) (.inr rfl) (.inr rfl) (.inr rfl) (.inr rfl) (.inr rfl) (.inr rfl) (.inr rfl) (.inr rfl) (.inr rfl) (.inr rfl) (.inr rfl) (.inr rfl) (.inr rfl) (.inr rfl) (.inr rfl) (.inr rfl) (.inr rfl) (.inr rfl) (.inr rfl) (.inr rfl) (.inr rfl) (.inr rfl) (.inr rfl) (.inr rfl) (.inr rfl) (fun m => ⟨m.1, m.2.1, rfl⟩)
    with_reducible assumption
  ·
    with_reducible assumption

theorem promote_keeps (hg : Free 65544 g) : ∀ a0 s, Keeps g s0 s → Keeps g s0 (promote a0 s) := by
  intro a0 s h
  unfold promote
  split
  ·
    rename_i y1 y2
    with_reducible assumption
  ·
    rename_i y3 y4 y5 y6
    refine logEv_keeps (hg.sub rfl) _ _ _ _ _ _ _ ?_
    refine keeps_nv (s := s) 8 (hg.sub rfl) ?_ (.inr rfl) (.inl rfl) (.inr rfl) (.inr rfl) (fun m => m)
    with_reducible assumption

theorem initMirrors_keeps (hg : Free 98312 g) : ∀ s, Keeps g s0 s → Keeps g s0 (initMirrors s) := by
  intro s h
  unfold initMirrors
  refine keeps_foldl (P := Keeps g s0) (fun b1 x2 h3 => ?_) _ _ ?_
  ·
    extract_lets +onlyGivenNames v4 v5 v6
    clear_value v4
    refine Keeps.cut (g := g) (s0 := s0) v5 ?_ (fun h7 => ?_)
    ·
      unfold v5
      refine @keeps_ite _ (Keeps g s0) _ _ _ _ ?_ ?_
      ·
        refine promote_keeps (hg.sub rfl) _ _ ?_
        with_reducible assumption
      ·
        with_reducible assumption
    clear_value v5
    clear_value v6
    extract_lets +onlyGivenNames v8
    refine Keeps.cut (g := g) (s0 := s0) v8 ?_ (fun h9 => ?_)
    ·
      unfold v8
      refine keeps_sluice (s := v5) (hg.sub rfl) ?_
      with_reducible assumption
    clear_value v8
    refine @keeps_ite _ (Keeps g s0) _ _ _ _ ?_ ?_
    ·
      with_reducible assumption
    ·
      refine keeps_nv (s := v8) 8 (hg.sub rfl) ?_ (.inr rfl) (.inl rfl) (.inr rfl) (.inr rfl) (fun m => m)
      with_reducible assumption
  ·
    with_reducible assumption

theorem writeBlobs_keeps (hg : Free 8 g) : ∀ s, Keeps g s0 s → Keeps g s0 (writeBlobs s) := by
  intro s h
  unfold writeBlobs
  extract_lets +onlyGivenNames v1 v2
  clear_value v1
  clear_value v2
  refine keeps_nv (s := s) 8 (hg.sub rfl) ?_ (.inr rfl) (.inl rfl) (.inr rfl) (.inr rfl) (fun m => m)
  with_reducible assumption

theorem destroyKey_keeps (hg : Free 65545 g) : ∀ s a1, Keeps g s0 s → Keeps g s0 (destroyKey s a1) := by
  intro s a1 h
  unfold destroyKey
  split
  ·
    rename_i y1 y2 y3
    refine logEv_keeps (hg.sub rfl) _ _ _ _ _ _ _ ?_
    refine keeps_update (s := s) 9 (hg.sub rfl) ?_ (.inl rfl) (.inr rfl) (.inr rfl) (.inl rfl) (.inr rfl) (.inr rfl) (.inr rfl) (.inr rfl) (.inr rfl) (.inr rfl) (.inr rfl) (.inr rfl) (.inr rfl) (.inr rfl) (.inr rfl) (.inr rfl) (.inr rfl) (.inr rfl) (.inr rfl) (.inr rfl) (.inr rfl) (.inr rfl) (.inr rfl) (.inr rfl) (.inr rfl) (.inr rfl) (.inr rfl) (.inr rfl) (.inr rfl) (.inr rfl) (.inr rfl) (.inr rfl) (.inr rfl) (.inr rfl) (fun m => m)
    with_reducible assumption
  ·
    rename_i y4 y5
    with_reducible assumption

theorem destroyRemoved_keeps (hg : Free 65545 g) : ∀ s, Keeps g s0 s → Keeps g s0 (destroyRemoved s) := by
  intro s h
  unfold destroyRemoved
  extract_lets +onlyGivenNames v1
  clear_value v1
  refine @keeps_ite _ (Keeps g s0) _ _ _ _ ?_ ?_
  ·
    with_reducible assumption
  ·
    refine writeBlobs_keeps (hg.sub rfl) _ ?_
    refine keeps_foldl (P := Keeps g s0) (fun b2 x3 h4 => ?_) _ _ ?_
    ·
      refine destroyKey_keeps (hg.sub rfl) _ _ ?_
      with_reducible assumption
    ·
      with_reducible assumption

theorem goReady_keeps (hg : Free 1253385 g) : ∀ s, Keeps g s0 s → Keeps g s0 (goReady s) := by
  intro s h
  unfold goReady
  extract_lets +onlyGivenNames v1 v2
  refine Keeps.cut (g := g) (s0 := s0) v1 ?_ (fun h3 => ?_)
  ·
    unfold v1
    refine destroyRemoved_keeps (hg.sub rfl) _ ?_
    with_reducible assumption
  clear_value v1
  clear_value v2
  extract_lets +onlyGivenNames v4
  extract_lets +onlyGivenNames v5
  refine Keeps.cut (g := g) (s0 := s0) v5 ?_ (fun h6 => ?_)
  ·
    unfold v5
    refine keeps_update (s := v1) 1179649 (hg.sub rfl) ?_ (.inl rfl) (.inr rfl) (.inr rfl) (.inr rfl) (.inr rfl) (.inr rfl) (.inr rfl) (.inr rfl) (.inr rfl) (.inr rfl) (.inr rfl) (.inr rfl) (.inr rfl) (.inr rfl) (.inr rfl) (.inr rfl) (.inr rfl) (.inl rfl) (.inr rfl) (.inr rfl) (.inl rfl) (.inr rfl) (.inr rfl) (.inr rfl) (.inr rfl) (.inr rfl) (.inr rfl) (.inr rfl) (.inr rfl) (.inr rfl) (.inr rfl) (.inr rfl) (.inr rfl) (.inr rfl) (fun m => m)
    with_reducible assumption
  clear_value v5
  refine braceAtReady_keeps (hg.sub rfl) _ ?_
  refine bootStep_keeps (hg.sub rfl) _ _ ?_
  with_reducible assumption

theorem poisonUnit_keeps (hg : Free 4128 g) : ∀ s a1, Keeps g s0 s → Keeps g s0 (poisonUnit s a1) := by
  intro s a1 h
  unfold poisonUnit
  refine writeBackUnit_keeps (hg.sub rfl) _ _ ?_
  refine poisonLines_keeps (hg.sub rfl) _ _ ?_
  with_reducible assumption

theorem dropRestores_keeps (hg : Free 2048 g) : ∀ s, Keeps g s0 s → Keeps g s0 (dropRestores s) := by
  intro s h
  unfold dropRestores
  refine keeps_foldl (P := Keeps g s0) (fun b1 x2 h3 => ?_) _ _ ?_
  ·
    refine dropFlash_keeps (hg.sub rfl) _ _ ?_
    with_reducible assumption
  ·
    with_reducible assumption

theorem restoreUnit_keeps (hg : Free 1073745952 g) : ∀ s a1, Keeps g s0 s → Keeps g s0 (restoreUnit s a1) := by
  intro s a1 h
  unfold restoreUnit
  extract_lets +onlyGivenNames v1 v2 v3 v4
  clear_value v2
  clear_value v3
  clear_value v4
  refine writeBackUnit_keeps (hg.sub rfl) _ _ ?_
  refine putUnit_keeps (hg.sub rfl) _ _ _ ?_
  refine keeps_store (s := s) 1073745920 (hg.sub rfl) ?_ (.inl rfl) (.inl rfl) (fun m => ⟨(Memory.without_wf m.1 _ _), m.2.1, m.2.2⟩)
  with_reducible assumption

theorem spateRestore_keeps (hg : Free 1075001513 g) : ∀ a0 a1 s, Keeps g s0 s → Keeps g s0 (spateRestore a0 a1 s) := by
  intro a0 a1 s h
  unfold spateRestore
  refine @keeps_ite _ (Keeps g s0) _ _ _ _ ?_ ?_
  ·
    with_reducible assumption
  ·
    extract_lets +onlyGivenNames v1 v2
    refine Keeps.cut (g := g) (s0 := s0) v2 ?_ (fun h3 => ?_)
    ·
      unfold v2
      refine dropRestores_keeps (hg.sub rfl) _ ?_
      with_reducible assumption
    clear_value v2
    split
    ·
      rename_i y4 y5 y6 y7
      extract_lets +onlyGivenNames v8 v9 v10 v11 v12 v13
      clear_value v8
      refine Keeps.cut (g := g) (s0 := s0) v9 ?_ (fun h14 => ?_)
      ·
        unfold v9
        refine keeps_foldl (P := Keeps g s0) (fun b15 x16 h17 => ?_) _ _ ?_
        ·
          refine poisonUnit_keeps (hg.sub rfl) _ _ ?_
          with_reducible assumption
        ·
          refine keeps_foldl (P := Keeps g s0) (fun b18 x19 h20 => ?_) _ _ ?_
          ·
            refine restoreUnit_keeps (hg.sub rfl) _ _ ?_
            with_reducible assumption
          ·
            with_reducible assumption
      clear_value v9
      refine Keeps.cut (g := g) (s0 := s0) v10 ?_ (fun h21 => ?_)
      ·
        unfold v10
        refine poisonLines_keeps (hg.sub rfl) _ _ ?_
        with_reducible assumption
      clear_value v10
      clear_value v11
      refine Keeps.cut (g := g) (s0 := s0) v13 ?_ (fun h22 => ?_)
      ·
        unfold v13
        refine keeps_update (s := v10) 33 (hg.sub rfl) ?_ (.inl rfl) (.inr rfl) (.inr rfl) (.inr rfl) (.inr rfl) (.inl rfl) (.inr rfl) (.inr rfl) (.inr rfl) (.inr rfl) (.inr rfl) (.inr rfl) (.inr rfl) (.inr rfl) (.inr rfl) (.inr rfl) (.inr rfl) (.inr rfl) (.inr rfl) (.inr rfl) (.inr rfl) (.inr rfl) (.inr rfl) (.inr rfl) (.inr rfl) (.inr rfl) (.inr rfl) (.inr rfl) (.inr rfl) (.inr rfl) (.inr rfl) (.inr rfl) (.inr rfl) (.inr rfl) (fun m => ⟨m.1, m.2.1, rfl⟩)
        with_reducible assumption
      clear_value v13
      extract_lets +onlyGivenNames v23 v24
      refine Keeps.cut (g := g) (s0 := s0) v23 ?_ (fun h25 => ?_)
      ·
        unfold v23
        refine @keeps_ite _ (Keeps g s0) _ _ _ _ ?_ ?_
        ·
          with_reducible assumption
        ·
          refine logEv_keeps (hg.sub rfl) _ _ _ _ _ _ _ ?_
          with_reducible assumption
      clear_value v23
      extract_lets +onlyGivenNames v26
      refine Keeps.cut (g := g) (s0 := s0) v26 ?_ (fun h27 => ?_)
      ·
        unfold v26
        refine @keeps_ite _ (Keeps g s0) _ _ _ _ ?_ ?_
        ·
          refine mapTo_keeps (hg.sub rfl) _ _ ?_
          refine keeps_nv (s := v23) 8 (hg.sub rfl) ?_ (.inr rfl) (.inl rfl) (.inr rfl) (.inr rfl) (fun m => m)
          with_reducible assumption
        ·
          with_reducible assumption
      clear_value v26
      refine goReady_keeps (hg.sub rfl) _ ?_
      refine bootStep_keeps (hg.sub rfl) _ _ ?_
      with_reducible assumption

theorem linkTraining_keeps (hg : Free 2281767041 g) : ∀ a0 a1 a2 a3 s, Keeps g s0 s → Keeps g s0 (linkTraining a0 a1 a2 a3 s) := by
  intro a0 a1 a2 a3 s h
  unfold linkTraining
  refine @keeps_ite _ (Keeps g s0) _ _ _ _ ?_ ?_
  ·
    with_reducible assumption
  ·
    extract_lets +onlyGivenNames v1 v2
    clear_value v1
    refine Keeps.cut (g := g) (s0 := s0) v2 ?_ (fun h3 => ?_)
    ·
      unfold v2
      refine keeps_boot (s := s) (hg.sub rfl) ?_
      with_reducible assumption
    clear_value v2
    extract_lets +onlyGivenNames v4
    refine Keeps.cut (g := g) (s0 := s0) v4 ?_ (fun h5 => ?_)
    ·
      unfold v4
      refine @keeps_ite _ (Keeps g s0) _ _ _ _ ?_ ?_
      ·
        refine linkTrained_keeps (hg.sub rfl) _ _ ?_
        with_reducible assumption
      ·
        refine updLink_keeps (hg.sub rfl) _ _ _ ?_
        with_reducible assumption
    clear_value v4
    refine checkLinksDone_keeps (hg.sub rfl) _ ?_
    with_reducible assumption

theorem execLinkTraining_keeps (hg : Free 2281767041 g) : ∀ a0 a1 a2 a3 s, Keeps g s0 s → KeepsN g s0 (execLinkTraining a0 a1 a2 a3 s) := by
  intro a0 a1 a2 a3 s h
  unfold execLinkTraining
  refine KeepsN.next ?_
  refine linkTraining_keeps (hg.sub rfl) _ _ _ _ _ ?_
  with_reducible assumption

theorem bootFailed_keeps (hg : Free 2148597763 g) : ∀ a0 a1 s, Keeps g s0 s → Keeps g s0 (bootFailed a0 a1 s) := by
  intro a0 a1 s h
  unfold bootFailed
  extract_lets +onlyGivenNames v1
  refine Keeps.cut (g := g) (s0 := s0) v1 ?_ (fun h2 => ?_)
  ·
    unfold v1
    refine setAlert_keeps (hg.sub rfl) _ _ ?_
    refine bootFail_keeps (hg.sub rfl) _ _ _ ?_
    with_reducible assumption
  clear_value v1
  refine keeps_update (s := v1) 2148532227 (hg.sub rfl) ?_ (.inl rfl) (.inl rfl) (.inr rfl) (.inr rfl) (.inr rfl) (.inr rfl) (.inr rfl) (.inr rfl) (.inr rfl) (.inr rfl) (.inr rfl) (.inr rfl) (.inr rfl) (.inr rfl) (.inr rfl) (.inr rfl) (.inr rfl) (.inr rfl) (.inr rfl) (.inr rfl) (.inl rfl) (.inr rfl) (.inr rfl) (.inr rfl) (.inr rfl) (.inr rfl) (.inr rfl) (.inr rfl) (.inr rfl) (.inr rfl) (.inr rfl) (.inl rfl) (.inr rfl) (.inr rfl) (fun m => m)
  with_reducible assumption

theorem reloadMirrors_keeps (hg : Free 32776 g) : ∀ s, Keeps g s0 s → Keeps g s0 (reloadMirrors s) := by
  intro s h
  unfold reloadMirrors
  extract_lets +onlyGivenNames v1 v2
  clear_value v1
  extract_lets +onlyGivenNames v3
  refine Keeps.cut (g := g) (s0 := s0) v3 ?_ (fun h4 => ?_)
  ·
    unfold v3
    refine keeps_nv (s := s) 8 (hg.sub rfl) ?_ (.inr rfl) (.inl rfl) (.inr rfl) (.inr rfl) (fun m => m)
    with_reducible assumption
  clear_value v3
  refine keeps_foldl (P := Keeps g s0) (fun b5 x6 h7 => ?_) _ _ ?_
  ·
    extract_lets +onlyGivenNames v8 v9
    clear_value v8
    clear_value v9
    refine keeps_sluice (s := b5) (hg.sub rfl) ?_
    with_reducible assumption
  ·
    with_reducible assumption

theorem askRestore_keeps (hg : Free 2048 g) : ∀ s, Keeps g s0 s → Keeps g s0 (askRestore s) := by
  intro s h
  unfold askRestore
  refine keeps_foldl (P := Keeps g s0) (fun b1 x2 h3 => ?_) _ _ ?_
  ·
    refine maintain_keeps (hg.sub rfl) _ _ _ ?_
    with_reducible assumption
  ·
    with_reducible assumption

theorem flashView_keeps (hg : Free 1073745920 g) : ∀ s, Keeps g s0 s → Keeps g s0 (flashView s) := by
  intro s h
  unfold flashView
  extract_lets +onlyGivenNames v1
  clear_value v1
  refine keeps_foldl (P := Keeps g s0) (fun b2 x3 h4 => ?_) _ _ ?_
  ·
    refine putUnit_keeps (hg.sub rfl) _ _ _ ?_
    with_reducible assumption
  ·
    refine keeps_store (s := s) 1073745920 (hg.sub rfl) ?_ (.inl rfl) (.inl rfl) (fun m => ⟨rfl, m.2.1, m.2.2⟩)
    with_reducible assumption

theorem flashScan_keeps (hg : Free 3222517803 g) : ∀ a0 a1 s, Keeps g s0 s → Keeps g s0 (flashScan a0 a1 s) := by
  intro a0 a1 s h
  unfold flashScan
  refine @keeps_ite _ (Keeps g s0) _ _ _ _ ?_ ?_
  ·
    with_reducible assumption
  ·
    refine @keeps_ite _ (Keeps g s0) _ _ _ _ ?_ ?_
    ·
      refine bootFailed_keeps (hg.sub rfl) _ _ _ ?_
      with_reducible assumption
    ·
      extract_lets +onlyGivenNames v1 v2 v3
      refine Keeps.cut (g := g) (s0 := s0) v1 ?_ (fun h4 => ?_)
      ·
        unfold v1
        refine keeps_foldl (P := Keeps g s0) (fun b5 x6 h7 => ?_) _ _ ?_
        ·
          refine logEv_keeps (hg.sub rfl) _ _ _ _ _ _ _ ?_
          with_reducible assumption
        ·
          with_reducible assumption
      clear_value v1
      refine Keeps.cut (g := g) (s0 := s0) v2 ?_ (fun h8 => ?_)
      ·
        unfold v2
        refine bootStep_keeps (hg.sub rfl) _ _ ?_
        refine pruneDurMap_keeps (hg.sub rfl) _ ?_
        refine reloadMirrors_keeps (hg.sub rfl) _ ?_
        refine flashView_keeps (hg.sub rfl) _ ?_
        with_reducible assumption
      clear_value v2
      refine @keeps_ite _ (Keeps g s0) _ _ _ _ ?_ ?_
      ·
        refine askRestore_keeps (hg.sub rfl) _ ?_
        refine keeps_boot (s := v2) (hg.sub rfl) ?_
        with_reducible assumption
      ·
        refine goReady_keeps (hg.sub rfl) _ ?_
        refine keeps_boot (s := v2) (hg.sub rfl) ?_
        with_reducible assumption

theorem standbyTried_keeps (hg : Free 196619 g) : ∀ a0 s, Keeps g s0 s → Keeps g s0 (standbyTried a0 s) := by
  intro a0 s h
  unfold standbyTried
  refine @keeps_ite _ (Keeps g s0) _ _ _ _ ?_ ?_
  ·
    refine keeps_boot (s := s) (hg.sub rfl) ?_
    with_reducible assumption
  ·
    extract_lets +onlyGivenNames v1
    clear_value v1
    extract_lets +onlyGivenNames v2
    extract_lets +onlyGivenNames v3
    refine Keeps.cut (g := g) (s0 := s0) v3 ?_ (fun h4 => ?_)
    ·
      unfold v3
      refine keeps_update (s := s) 131074 (hg.sub rfl) ?_ (.inr rfl) (.inl rfl) (.inr rfl) (.inr rfl) (.inr rfl) (.inr rfl) (.inr rfl) (.inr rfl) (.inr rfl) (.inr rfl) (.inr rfl) (.inr rfl) (.inr rfl) (.inr rfl) (.inr rfl) (.inr rfl) (.inr rfl) (.inl rfl) (.inr rfl) (.inr rfl) (.inr rfl) (.inr rfl) (.inr rfl) (.inr rfl) (.inr rfl) (.inr rfl) (.inr rfl) (.inr rfl) (.inr rfl) (.inr rfl) (.inr rfl) (.inr rfl) (.inr rfl) (.inr rfl) (fun m => m)
      with_reducible assumption
    clear_value v3
    refine bootStep_keeps (hg.sub rfl) _ _ ?_
    refine startBoot_keeps (hg.sub rfl) _ _ ?_
    with_reducible assumption

theorem execSpateRestore_keeps (hg : Free 1075001513 g) : ∀ a0 a1 s, Keeps g s0 s → KeepsN g s0 (execSpateRestore a0 a1 s) := by
  intro a0 a1 s h
  unfold execSpateRestore
  refine KeepsN.next ?_
  refine spateRestore_keeps (hg.sub rfl) _ _ _ ?_
  with_reducible assumption

theorem createKey_keeps (hg : Free 268501001 g) : ∀ s a1, Keeps g s0 s → Keeps g s0 (createKey s a1) := by
  intro s a1 h
  unfold createKey
  split
  ·
    rename_i y1 y2 y3
    refine logEv_keeps (hg.sub rfl) _ _ _ _ _ _ _ ?_
    refine keeps_update (s := s) 268435465 (hg.sub rfl) ?_ (.inl rfl) (.inr rfl) (.inr rfl) (.inl rfl) (.inr rfl) (.inr rfl) (.inr rfl) (.inr rfl) (.inr rfl) (.inr rfl) (.inr rfl) (.inr rfl) (.inr rfl) (.inr rfl) (.inr rfl) (.inr rfl) (.inr rfl) (.inr rfl) (.inr rfl) (.inr rfl) (.inr rfl) (.inr rfl) (.inr rfl) (.inr rfl) (.inr rfl) (.inr rfl) (.inr rfl) (.inr rfl) (.inl rfl) (.inr rfl) (.inr rfl) (.inr rfl) (.inr rfl) (.inr rfl) (fun m => m)
    with_reducible assumption
  ·
    rename_i y4 y5
    refine logEv_keeps (hg.sub rfl) _ _ _ _ _ _ _ ?_
    refine keeps_boot (s := s) (hg.sub rfl) ?_
    with_reducible assumption

theorem createMissing_keeps (hg : Free 268501001 g) : ∀ s, Keeps g s0 s → Keeps g s0 (createMissing s) := by
  intro s h
  unfold createMissing
  extract_lets +onlyGivenNames v1
  clear_value v1
  refine @keeps_ite _ (Keeps g s0) _ _ _ _ ?_ ?_
  ·
    with_reducible assumption
  ·
    refine writeBlobs_keeps (hg.sub rfl) _ ?_
    refine keeps_foldl (P := Keeps g s0) (fun b2 x3 h4 => ?_) _ _ ?_
    ·
      refine createKey_keeps (hg.sub rfl) _ _ ?_
      with_reducible assumption
    ·
      with_reducible assumption

theorem sanitizeKeys_keeps (hg : Free 65545 g) : ∀ s, Keeps g s0 s → Keeps g s0 (sanitizeKeys s) := by
  intro s h
  unfold sanitizeKeys
  extract_lets +onlyGivenNames v1 v2
  refine Keeps.cut (g := g) (s0 := s0) v2 ?_ (fun h3 => ?_)
  ·
    unfold v2
    refine keeps_nv (s := s) 8 (hg.sub rfl) ?_ (.inr rfl) (.inl rfl) (.inr rfl) (.inr rfl) (fun m => m)
    with_reducible assumption
  clear_value v2
  extract_lets +onlyGivenNames v4
  clear_value v4
  refine keeps_foldl (P := Keeps g s0) (fun b5 x6 h7 => ?_) _ _ ?_
  ·
    refine destroyKey_keeps (hg.sub rfl) _ _ ?_
    with_reducible assumption
  ·
    refine keeps_boot (s := v2) (hg.sub rfl) ?_
    with_reducible assumption

theorem keyUnwrap_keeps (hg : Free 268501129 g) : ∀ s, Keeps g s0 s → Keeps g s0 (keyUnwrap s) := by
  intro s h
  unfold keyUnwrap
  refine @keeps_ite _ (Keeps g s0) _ _ _ _ ?_ ?_
  ·
    with_reducible assumption
  ·
    extract_lets +onlyGivenNames v1 v2
    clear_value v1
    refine Keeps.cut (g := g) (s0 := s0) v2 ?_ (fun h3 => ?_)
    ·
      unfold v2
      refine keeps_boot (s := s) (hg.sub rfl) ?_
      with_reducible assumption
    clear_value v2
    extract_lets +onlyGivenNames v4
    clear_value v4
    extract_lets +onlyGivenNames v5
    clear_value v5
    extract_lets +onlyGivenNames v6
    clear_value v6
    extract_lets +onlyGivenNames v7
    refine Keeps.cut (g := g) (s0 := s0) v7 ?_ (fun h8 => ?_)
    ·
      unfold v7
      refine @keeps_ite _ (Keeps g s0) _ _ _ _ ?_ ?_
      ·
        refine writeBlobs_keeps (hg.sub rfl) _ ?_
        refine createMissing_keeps (hg.sub rfl) _ ?_
        refine sanitizeKeys_keeps (hg.sub rfl) _ ?_
        with_reducible assumption
      ·
        split
        ·
          rename_i y9 y10 y11
          extract_lets +onlyGivenNames v12
          refine Keeps.cut (g := g) (s0 := s0) v12 ?_ (fun h13 => ?_)
          ·
            unfold v12
            refine createMissing_keeps (hg.sub rfl) _ ?_
            refine keeps_boot (s := v2) (hg.sub rfl) ?_
            with_reducible assumption
          clear_value v12
          refine @keeps_ite _ (Keeps g s0) _ _ _ _ ?_ ?_
          ·
            with_reducible assumption
          ·
            refine destroyRemoved_keeps (hg.sub rfl) _ ?_
            with_reducible assumption
        ·
          rename_i y14 y15
          refine logEv_keeps (hg.sub rfl) _ _ _ _ _ _ _ ?_
          refine keeps_update (s := v2) 129 (hg.sub rfl) ?_ (.inl rfl) (.inr rfl) (.inr rfl) (.inr rfl) (.inr rfl) (.inr rfl) (.inr rfl) (.inl rfl) (.inr rfl) (.inr rfl) (.inr rfl) (.inr rfl) (.inr rfl) (.inr rfl) (.inr rfl) (.inr rfl) (.inr rfl) (.inr rfl) (.inr rfl) (.inr rfl) (.inr rfl) (.inr rfl) (.inr rfl) (.inr rfl) (.inr rfl) (.inr rfl) (.inr rfl) (.inr rfl) (.inr rfl) (.inr rfl) (.inr rfl) (.inr rfl) (.inr rfl) (.inr rfl) (fun m => m)
          with_reducible assumption
    clear_value v7
    refine await_keeps (hg.sub rfl) _ _ ?_
    refine bootStep_keeps (hg.sub rfl) _ _ ?_
    with_reducible assumption

theorem execKeyUnwrap_keeps (hg : Free 268501129 g) : ∀ s, Keeps g s0 s → KeepsN g s0 (execKeyUnwrap s) := by
  intro s h
  unfold execKeyUnwrap
  refine KeepsN.next ?_
  refine keyUnwrap_keeps (hg.sub rfl) _ ?_
  with_reducible assumption

theorem generationCheck_keeps (hg : Free 65665 g) : ∀ s, Keeps g s0 s → Keeps g s0 (generationCheck s) := by
  intro s h
  unfold generationCheck
  split
  ·
    rename_i y1 y2
    refine logEv_keeps (hg.sub rfl) _ _ _ _ _ _ _ ?_
    with_reducible assumption
  ·
    rename_i y3 y4 y5
    split
    ·
      rename_i y6 y7
      with_reducible assumption
    ·
      rename_i y8 y9
      with_reducible assumption
    ·
      rename_i y10 y11
      refine logEv_keeps (hg.sub rfl) _ _ _ _ _ _ _ ?_
      refine keeps_update (s := s) 129 (hg.sub rfl) ?_ (.inl rfl) (.inr rfl) (.inr rfl) (.inr rfl) (.inr rfl) (.inr rfl) (.inr rfl) (.inl rfl) (.inr rfl) (.inr rfl) (.inr rfl) (.inr rfl) (.inr rfl) (.inr rfl) (.inr rfl) (.inr rfl) (.inr rfl) (.inr rfl) (.inr rfl) (.inr rfl) (.inr rfl) (.inr rfl) (.inr rfl) (.inr rfl) (.inr rfl) (.inr rfl) (.inr rfl) (.inr rfl) (.inr rfl) (.inr rfl) (.inr rfl) (.inr rfl) (.inr rfl) (.inr rfl) (fun m => m)
      with_reducible assumption
    ·
      rename_i y12 y13
      refine logEv_keeps (hg.sub rfl) _ _ _ _ _ _ _ ?_
      refine keeps_update (s := s) 129 (hg.sub rfl) ?_ (.inl rfl) (.inr rfl) (.inr rfl) (.inr rfl) (.inr rfl) (.inr rfl) (.inr rfl) (.inl rfl) (.inr rfl) (.inr rfl) (.inr rfl) (.inr rfl) (.inr rfl) (.inr rfl) (.inr rfl) (.inr rfl) (.inr rfl) (.inr rfl) (.inr rfl) (.inr rfl) (.inr rfl) (.inr rfl) (.inr rfl) (.inr rfl) (.inr rfl) (.inr rfl) (.inr rfl) (.inr rfl) (.inr rfl) (.inr rfl) (.inr rfl) (.inr rfl) (.inr rfl) (.inr rfl) (fun m => m)
      with_reducible assumption

theorem execStandbyRetry_keeps (hg : Free 196619 g) : ∀ a0 s, Keeps g s0 s → KeepsN g s0 (execStandbyRetry a0 s) := by
  intro a0 s h
  unfold execStandbyRetry
  refine KeepsN.next ?_
  refine @keeps_ite _ (Keeps g s0) _ _ _ _ ?_ ?_
  ·
    refine standbyTried_keeps (hg.sub rfl) _ _ ?_
    with_reducible assumption
  ·
    with_reducible assumption

theorem tryHeadwater_keeps (hg : Free 196681 g) : ∀ a0 s, Keeps g s0 s → Keeps2 g s0 (tryHeadwater a0 s) := by
  intro a0 s h
  unfold tryHeadwater
  split
  ·
    rename_i y1 y2
    refine Keeps2.mk ?_
    with_reducible assumption
  ·
    rename_i y3 y4 y5
    refine @keeps_ite _ (Keeps2 g s0) _ _ _ _ ?_ ?_
    ·
      refine Keeps2.mk ?_
      with_reducible assumption
    ·
      refine @keeps_ite _ (Keeps2 g s0) _ _ _ _ ?_ ?_
      ·
        refine Keeps2.mk ?_
        refine badSlot_keeps (hg.sub rfl) _ _ _ ?_
        with_reducible assumption
      ·
        split
        ·
          rename_i y6 y7 y8
          extract_lets +onlyGivenNames v9
          clear_value v9
          refine Keeps2.mk ?_
          refine slotFails_keeps (hg.sub rfl) _ _ _ _ _ ?_
          refine keeps_boot (s := s) (hg.sub rfl) ?_
          with_reducible assumption
        ·
          rename_i y10 y11
          extract_lets +onlyGivenNames v12
          refine Keeps.cut (g := g) (s0 := s0) v12 ?_ (fun h13 => ?_)
          ·
            unfold v12
            refine slotBoots_keeps (hg.sub rfl) _ _ _ ?_
            with_reducible assumption
          clear_value v12
          refine Keeps2.mk ?_
          refine keeps_update (s := v12) 131137 (hg.sub rfl) ?_ (.inl rfl) (.inr rfl) (.inr rfl) (.inr rfl) (.inr rfl) (.inr rfl) (.inl rfl) (.inr rfl) (.inr rfl) (.inr rfl) (.inr rfl) (.inr rfl) (.inr rfl) (.inr rfl) (.inr rfl) (.inr rfl) (.inr rfl) (.inl rfl) (.inr rfl) (.inr rfl) (.inr rfl) (.inr rfl) (.inr rfl) (.inr rfl) (.inr rfl) (.inr rfl) (.inr rfl) (.inr rfl) (.inr rfl) (.inr rfl) (.inr rfl) (.inr rfl) (.inr rfl) (.inr rfl) (fun m => m)
          with_reducible assumption

theorem headwaterCheck_keeps (hg : Free 196681 g) : ∀ s, Keeps g s0 s → Keeps g s0 (headwaterCheck s) := by
  intro s h
  unfold headwaterCheck
  refine @keeps_ite _ (Keeps g s0) _ _ _ _ ?_ ?_
  ·
    with_reducible assumption
  ·
    refine @keeps_ite _ (Keeps g s0) _ _ _ _ ?_ ?_
    ·
      refine keeps_boot (s := s) (hg.sub rfl) ?_
      with_reducible assumption
    ·
      split
      ·
        rename_i y1 y2 y3
        refine Keeps.cut (g := g) (s0 := s0) y2 (Keeps2.of_eq ?_ y3) (fun h4 => ?_)
        ·
          refine trySlots_keeps (hg.sub rfl) _ _ _ (fun x5 x6 h7 => ?_) ?_
          ·
            refine tryHeadwater_keeps (hg.sub rfl) _ _ ?_
            with_reducible assumption
          ·
            with_reducible assumption
        refine await_keeps (hg.sub rfl) _ _ ?_
        refine bootStep_keeps (hg.sub rfl) _ _ ?_
        with_reducible assumption
      ·
        rename_i y8 y9 y10
        refine Keeps.cut (g := g) (s0 := s0) y9 (Keeps2.of_eq ?_ y10) (fun h11 => ?_)
        ·
          refine trySlots_keeps (hg.sub rfl) _ _ _ (fun x12 x13 h14 => ?_) ?_
          ·
            refine tryHeadwater_keeps (hg.sub rfl) _ _ ?_
            with_reducible assumption
          ·
            with_reducible assumption
        refine stopInReset_keeps (hg.sub rfl) _ ?_
        with_reducible assumption

theorem enterBoardTest_keeps (hg : Free 65539 g) : ∀ s, Keeps g s0 s → Keeps g s0 (enterBoardTest s) := by
  intro s h
  unfold enterBoardTest
  extract_lets +onlyGivenNames v1
  refine Keeps.cut (g := g) (s0 := s0) v1 ?_ (fun h2 => ?_)
  ·
    unfold v1
    refine logEv_keeps (hg.sub rfl) _ _ _ _ _ _ _ ?_
    with_reducible assumption
  clear_value v1
  refine keeps_update (s := v1) 3 (hg.sub rfl) ?_ (.inl rfl) (.inl rfl) (.inr rfl) (.inr rfl) (.inr rfl) (.inr rfl) (.inr rfl) (.inr rfl) (.inr rfl) (.inr rfl) (.inr rfl) (.inr rfl) (.inr rfl) (.inr rfl) (.inr rfl) (.inr rfl) (.inr rfl) (.inr rfl) (.inr rfl) (.inr rfl) (.inr rfl) (.inr rfl) (.inr rfl) (.inr rfl) (.inr rfl) (.inr rfl) (.inr rfl) (.inr rfl) (.inr rfl) (.inr rfl) (.inr rfl) (.inr rfl) (.inr rfl) (.inr rfl) (fun m => m)
  with_reducible assumption

theorem strapSampling_keeps (hg : Free 65539 g) : ∀ a0 a1 s, Keeps g s0 s → Keeps g s0 (strapSampling a0 a1 s) := by
  intro a0 a1 s h
  unfold strapSampling
  refine @keeps_ite _ (Keeps g s0) _ _ _ _ ?_ ?_
  ·
    with_reducible assumption
  ·
    split
    ·
      rename_i y1 y2
      refine stopInReset_keeps (hg.sub rfl) _ ?_
      refine bootFail_keeps (hg.sub rfl) _ _ _ ?_
      with_reducible assumption
    ·
      rename_i y3 y4 y5
      extract_lets +onlyGivenNames v6 v7
      clear_value v6
      refine Keeps.cut (g := g) (s0 := s0) v7 ?_ (fun h8 => ?_)
      ·
        unfold v7
        refine logEv_keeps (hg.sub rfl) _ _ _ _ _ _ _ ?_
        refine keeps_boot (s := s) (hg.sub rfl) ?_
        with_reducible assumption
      clear_value v7
      extract_lets +onlyGivenNames v9
      refine Keeps.cut (g := g) (s0 := s0) v9 ?_ (fun h10 => ?_)
      ·
        unfold v9
        refine bootStep_keeps (hg.sub rfl) _ _ ?_
        with_reducible assumption
      clear_value v9
      refine @keeps_ite _ (Keeps g s0) _ _ _ _ ?_ ?_
      ·
        refine enterBoardTest_keeps (hg.sub rfl) _ ?_
        with_reducible assumption
      ·
        refine await_keeps (hg.sub rfl) _ _ ?_
        with_reducible assumption

theorem execFlashScan_keeps (hg : Free 3222517803 g) : ∀ a0 a1 s, Keeps g s0 s → KeepsN g s0 (execFlashScan a0 a1 s) := by
  intro a0 a1 s h
  unfold execFlashScan
  refine KeepsN.next ?_
  refine flashScan_keeps (hg.sub rfl) _ _ _ ?_
  with_reducible assumption

theorem dramTraining_keeps (hg : Free 2148601867 g) : ∀ a0 a1 s, Keeps g s0 s → Keeps g s0 (dramTraining a0 a1 s) := by
  intro a0 a1 s h
  unfold dramTraining
  refine @keeps_ite _ (Keeps g s0) _ _ _ _ ?_ ?_
  ·
    with_reducible assumption
  ·
    extract_lets +onlyGivenNames v1
    clear_value v1
    split
    ·
      rename_i y2 y3 y4
      refine bootFailed_keeps (hg.sub rfl) _ _ _ ?_
      refine keeps_boot (s := s) (hg.sub rfl) ?_
      with_reducible assumption
    ·
      rename_i y5 y6
      extract_lets +onlyGivenNames v7
      clear_value v7
      extract_lets +onlyGivenNames v8
      extract_lets +onlyGivenNames v9
      extract_lets +onlyGivenNames v10
      refine Keeps.cut (g := g) (s0 := s0) v10 ?_ (fun h11 => ?_)
      ·
        unfold v10
        refine keeps_update (s := s) 4105 (hg.sub rfl) ?_ (.inl rfl) (.inr rfl) (.inr rfl) (.inl rfl) (.inr rfl) (.inr rfl) (.inr rfl) (.inr rfl) (.inr rfl) (.inr rfl) (.inr rfl) (.inr rfl) (.inl rfl) (.inr rfl) (.inr rfl) (.inr rfl) (.inr rfl) (.inr rfl) (.inr rfl) (.inr rfl) (.inr rfl) (.inr rfl) (.inr rfl) (.inr rfl) (.inr rfl) (.inr rfl) (.inr rfl) (.inr rfl) (.inr rfl) (.inr rfl) (.inr rfl) (.inr rfl) (.inr rfl) (.inr rfl) (fun m => m)
        with_reducible assumption
      clear_value v10
      refine bootStep_keeps (hg.sub rfl) _ _ ?_
      with_reducible assumption

theorem execLinkTrainRetry_keeps (hg : Free 2147483648 g) : ∀ a0 a1 a2 a3 s, Keeps g s0 s → KeepsN g s0 (execLinkTrainRetry a0 a1 a2 a3 s) := by
  intro a0 a1 a2 a3 s h
  unfold execLinkTrainRetry
  refine KeepsN.next ?_
  refine @keeps_ite _ (Keeps g s0) _ _ _ _ ?_ ?_
  ·
    refine linkTrained_keeps (hg.sub rfl) _ _ ?_
    with_reducible assumption
  ·
    with_reducible assumption

theorem execStrapSampling_keeps (hg : Free 65539 g) : ∀ a0 a1 s, Keeps g s0 s → KeepsN g s0 (execStrapSampling a0 a1 s) := by
  intro a0 a1 s h
  unfold execStrapSampling
  refine KeepsN.next ?_
  refine strapSampling_keeps (hg.sub rfl) _ _ _ ?_
  with_reducible assumption

theorem execRailRetry_keeps (hg : Free 65539 g) : ∀ a0 s, Keeps g s0 s → KeepsN g s0 (execRailRetry a0 s) := by
  intro a0 s h
  unfold execRailRetry
  refine KeepsN.next ?_
  refine @keeps_ite _ (Keeps g s0) _ _ _ _ ?_ ?_
  ·
    with_reducible assumption
  ·
    refine @keeps_ite _ (Keeps g s0) _ _ _ _ ?_ ?_
    ·
      refine railsUp_keeps (hg.sub rfl) _ ?_
      with_reducible assumption
    ·
      refine stopInReset_keeps (hg.sub rfl) _ ?_
      refine bootFail_keeps (hg.sub rfl) _ _ _ ?_
      refine keeps_pins (s := s) (hg.sub rfl) ?_
      with_reducible assumption

theorem execHeadwaterCheck_keeps (hg : Free 196681 g) : ∀ s, Keeps g s0 s → KeepsN g s0 (execHeadwaterCheck s) := by
  intro s h
  unfold execHeadwaterCheck
  refine KeepsN.next ?_
  refine headwaterCheck_keeps (hg.sub rfl) _ ?_
  with_reducible assumption

theorem dieRelease_keeps (hg : Free 1163915 g) : ∀ s, Keeps g s0 s → Keeps g s0 (dieRelease s) := by
  intro s h
  unfold dieRelease
  refine @keeps_ite _ (Keeps g s0) _ _ _ _ ?_ ?_
  ·
    with_reducible assumption
  ·
    extract_lets +onlyGivenNames v1 v2 v3
    clear_value v1
    clear_value v2
    clear_value v3
    extract_lets +onlyGivenNames v4 v5 v6
    refine Keeps.cut (g := g) (s0 := s0) v4 ?_ (fun h7 => ?_)
    ·
      unfold v4
      refine keeps_update (s := s) 1048707 (hg.sub rfl) ?_ (.inl rfl) (.inl rfl) (.inr rfl) (.inr rfl) (.inr rfl) (.inr rfl) (.inr rfl) (.inl rfl) (.inr rfl) (.inr rfl) (.inr rfl) (.inr rfl) (.inr rfl) (.inr rfl) (.inr rfl) (.inr rfl) (.inr rfl) (.inr rfl) (.inr rfl) (.inr rfl) (.inl rfl) (.inr rfl) (.inr rfl) (.inr rfl) (.inr rfl) (.inr rfl) (.inr rfl) (.inr rfl) (.inr rfl) (.inr rfl) (.inr rfl) (.inr rfl) (.inr rfl) (.inr rfl) (fun m => m)
      with_reducible assumption
    clear_value v4
    refine Keeps.cut (g := g) (s0 := s0) v5 ?_ (fun h8 => ?_)
    ·
      unfold v5
      refine generationCheck_keeps (hg.sub rfl) _ ?_
      refine initMirrors_keeps (hg.sub rfl) _ ?_
      refine recompute_keeps (hg.sub rfl) _ ?_
      with_reducible assumption
    clear_value v5
    refine Keeps.cut (g := g) (s0 := s0) v6 ?_ (fun h9 => ?_)
    ·
      unfold v6
      refine @keeps_ite _ (Keeps g s0) _ _ _ _ ?_ ?_
      ·
        refine mapTo_keeps (hg.sub rfl) _ _ ?_
        with_reducible assumption
      ·
        with_reducible assumption
    clear_value v6
    refine bootStep_keeps (hg.sub rfl) _ _ ?_
    with_reducible assumption

theorem execDieRelease_keeps (hg : Free 1163915 g) : ∀ s, Keeps g s0 s → KeepsN g s0 (execDieRelease s) := by
  intro s h
  unfold execDieRelease
  refine KeepsN.next ?_
  refine dieRelease_keeps (hg.sub rfl) _ ?_
  with_reducible assumption

theorem execStandbyGood_keeps (hg : Free 196619 g) : ∀ a0 s, Keeps g s0 s → KeepsN g s0 (execStandbyGood a0 s) := by
  intro a0 s h
  unfold execStandbyGood
  refine KeepsN.next ?_
  split
  ·
    rename_i y1 y2
    refine standbyTried_keeps (hg.sub rfl) _ _ ?_
    with_reducible assumption
  ·
    rename_i y3 y4
    refine standbyTried_keeps (hg.sub rfl) _ _ ?_
    with_reducible assumption
  ·
    rename_i y5 y6 y7
    with_reducible assumption

theorem execDramTraining_keeps (hg : Free 2148601867 g) : ∀ a0 a1 s, Keeps g s0 s → KeepsN g s0 (execDramTraining a0 a1 s) := by
  intro a0 a1 s h
  unfold execDramTraining
  refine KeepsN.next ?_
  refine dramTraining_keeps (hg.sub rfl) _ _ _ ?_
  with_reducible assumption

theorem execBraidRunSettle_keeps (hg : Free 2 g) : ∀ s, Keeps g s0 s → KeepsN g s0 (execBraidRunSettle s) := by
  intro s h
  unfold execBraidRunSettle
  refine KeepsN.next ?_
  refine @keeps_ite _ (Keeps g s0) _ _ _ _ ?_ ?_
  ·
    refine keeps_pins (s := s) (hg.sub rfl) ?_
    with_reducible assumption
  ·
    with_reducible assumption

theorem afterShutdown_keeps (hg : Free 16238247819 g) : ∀ a0 s, Keeps g s0 s → Keeps g s0 (afterShutdown a0 s) := by
  intro a0 s h
  unfold afterShutdown
  refine @keeps_ite _ (Keeps g s0) _ _ _ _ ?_ ?_
  ·
    refine warmReset_keeps (hg.sub rfl) _ ?_
    with_reducible assumption
  ·
    refine @keeps_ite _ (Keeps g s0) _ _ _ _ ?_ ?_
    ·
      refine coldReset_keeps (hg.sub rfl) _ ?_
      with_reducible assumption
    ·
      refine railsOff_keeps (hg.sub rfl) _ ?_
      with_reducible assumption

theorem askWriteBack_keeps (hg : Free 2048 g) : ∀ a0 s, Keeps g s0 s → Keeps g s0 (askWriteBack a0 s) := by
  intro a0 s h
  unfold askWriteBack
  refine keeps_foldl (P := Keeps g s0) (fun b1 x2 h3 => ?_) _ _ ?_
  ·
    refine maintain_keeps (hg.sub rfl) _ _ _ ?_
    with_reducible assumption
  ·
    with_reducible assumption

theorem savePoison_keeps (hg : Free 32 g) : ∀ s, Keeps g s0 s → Keeps g s0 (savePoison s) := by
  intro s h
  unfold savePoison
  refine keeps_nv (s := s) 32 (hg.sub rfl) ?_ (.inr rfl) (.inr rfl) (.inr rfl) (.inl rfl) (fun m => m)
  with_reducible assumption

theorem closeLog_keeps (hg : Free 65552 g) : ∀ s, Keeps g s0 s → Keeps g s0 (closeLog s) := by
  intro s h
  unfold closeLog
  refine sealBatch_keeps (hg.sub rfl) _ _ _ _ ?_
  refine logWrite_keeps (hg.sub rfl) _ ?_
  with_reducible assumption

theorem beginReset_keeps (hg : Free 16238247835 g) : ∀ a0 a1 s, Keeps g s0 s → Keeps g s0 (beginReset a0 a1 s) := by
  intro a0 a1 s h
  unfold beginReset
  refine @keeps_ite _ (Keeps g s0) _ _ _ _ ?_ ?_
  ·
    refine keeps_keeper (s := s) 131072 (hg.sub rfl) ?_ (.inr rfl) (.inl rfl)
    with_reducible assumption
  ·
    refine afterShutdown_keeps (hg.sub rfl) _ _ ?_
    refine closeLog_keeps (hg.sub rfl) _ ?_
    refine logEv_keeps (hg.sub rfl) _ _ _ _ _ _ _ ?_
    refine keeps_nv (s := s) 8 (hg.sub rfl) ?_ (.inr rfl) (.inl rfl) (.inr rfl) (.inr rfl) (fun m => m)
    with_reducible assumption

theorem takeDownDomains_keeps (hg : Free 10892696320 g) : ∀ s, Keeps g s0 s → Keeps g s0 (takeDownDomains s) := by
  intro s h
  unfold takeDownDomains
  extract_lets +onlyGivenNames v1
  clear_value v1
  refine keeps_foldl (P := Keeps g s0) (fun b2 x3 h4 => ?_) _ _ ?_
  ·
    refine takedown_keeps (hg.sub rfl) _ _ ?_
    refine @keeps_ite _ (Keeps g s0) _ _ _ _ ?_ ?_
    ·
      refine fallDomain_keeps (hg.sub rfl) _ _ _ ?_
      with_reducible assumption
    ·
      with_reducible assumption
  ·
    with_reducible assumption

theorem execOffInputReturn_keeps (hg : Free 16238247819 g) : ∀ s, Keeps g s0 s → KeepsN g s0 (execOffInputReturn s) := by
  intro s h
  unfold execOffInputReturn
  refine KeepsN.next ?_
  refine @keeps_ite _ (Keeps g s0) _ _ _ _ ?_ ?_
  ·
    refine coldReset_keeps (hg.sub rfl) _ ?_
    refine keeps_pins (s := s) (hg.sub rfl) ?_
    with_reducible assumption
  ·
    with_reducible assumption

theorem withdrawQueued_keeps (hg : Free 8745126656 g) : ∀ s, Keeps g s0 s → Keeps g s0 (withdrawQueued s) := by
  intro s h
  unfold withdrawQueued
  extract_lets +onlyGivenNames v1
  clear_value v1
  refine keeps_foldl (P := Keeps g s0) (fun b2 x3 h4 => ?_) _ _ ?_
  ·
    refine withdraw_keeps (hg.sub rfl) _ _ ?_
    with_reducible assumption
  ·
    refine keeps_weir (s := s) 2048 (hg.sub rfl) ?_ (.inr rfl) (.inl rfl)
    with_reducible assumption

theorem teardown_keeps (hg : Free 8745126784 g) : ∀ s, Keeps g s0 s → Keeps g s0 (teardown s) := by
  intro s h
  unfold teardown
  refine @keeps_ite _ (Keeps g s0) _ _ _ _ ?_ ?_
  ·
    with_reducible assumption
  ·
    extract_lets +onlyGivenNames v1
    clear_value v1
    refine withdrawQueued_keeps (hg.sub rfl) _ ?_
    refine keeps_map (s := s) (hg.sub rfl) ?_
    with_reducible assumption

theorem execTeardown_keeps (hg : Free 8745126784 g) : ∀ s, Keeps g s0 s → KeepsN g s0 (execTeardown s) := by
  intro s h
  unfold execTeardown
  refine KeepsN.next ?_
  refine teardown_keeps (hg.sub rfl) _ ?_
  with_reducible assumption

theorem saveMirrorBits_keeps (hg : Free 8 g) : ∀ s, Keeps g s0 s → Keeps g s0 (saveMirrorBits s) := by
  intro s h
  unfold saveMirrorBits
  extract_lets +onlyGivenNames v1
  clear_value v1
  refine keeps_nv (s := s) 8 (hg.sub rfl) ?_ (.inr rfl) (.inl rfl) (.inr rfl) (.inr rfl) (fun m => m)
  with_reducible assumption

theorem endShutdown_keeps (hg : Free 16238247867 g) : ∀ s, Keeps g s0 s → Keeps g s0 (endShutdown s) := by
  intro s h
  unfold endShutdown
  extract_lets +onlyGivenNames v1 v2 v3 v4
  clear_value v1
  refine Keeps.cut (g := g) (s0 := s0) v2 ?_ (fun h5 => ?_)
  ·
    unfold v2
    refine saveMirrorBits_keeps (hg.sub rfl) _ ?_
    refine savePoison_keeps (hg.sub rfl) _ ?_
    with_reducible assumption
  clear_value v2
  refine Keeps.cut (g := g) (s0 := s0) v3 ?_ (fun h6 => ?_)
  ·
    unfold v3
    refine logEv_keeps (hg.sub rfl) _ _ _ _ _ _ _ ?_
    with_reducible assumption
  clear_value v3
  clear_value v4
  extract_lets +onlyGivenNames v7
  extract_lets +onlyGivenNames v8
  refine Keeps.cut (g := g) (s0 := s0) v8 ?_ (fun h9 => ?_)
  ·
    unfold v8
    refine closeLog_keeps (hg.sub rfl) _ ?_
    refine keeps_update (s := v3) 10 (hg.sub rfl) ?_ (.inr rfl) (.inl rfl) (.inr rfl) (.inl rfl) (.inr rfl) (.inr rfl) (.inr rfl) (.inr rfl) (.inr rfl) (.inr rfl) (.inr rfl) (.inr rfl) (.inr rfl) (.inr rfl) (.inr rfl) (.inr rfl) (.inr rfl) (.inr rfl) (.inr rfl) (.inr rfl) (.inr rfl) (.inr rfl) (.inr rfl) (.inr rfl) (.inr rfl) (.inr rfl) (.inr rfl) (.inr rfl) (.inr rfl) (.inr rfl) (.inr rfl) (.inr rfl) (.inr rfl) (.inr rfl) (fun m => m)
    with_reducible assumption
  clear_value v8
  refine afterShutdown_keeps (hg.sub rfl) _ _ ?_
  with_reducible assumption

theorem finishShutdown_keeps (hg : Free 16372465595 g) : ∀ s, Keeps g s0 s → Keeps g s0 (finishShutdown s) := by
  intro s h
  unfold finishShutdown
  extract_lets +onlyGivenNames v1 v2
  refine Keeps.cut (g := g) (s0 := s0) v2 ?_ (fun h3 => ?_)
  ·
    unfold v2
    refine @keeps_ite _ (Keeps g s0) _ _ _ _ ?_ ?_
    ·
      with_reducible assumption
    ·
      refine takeDownDomains_keeps (hg.sub rfl) _ ?_
      refine keeps_keeper (s := s) 131072 (hg.sub rfl) ?_ (.inr rfl) (.inl rfl)
      with_reducible assumption
  clear_value v2
  extract_lets +onlyGivenNames v4
  clear_value v4
  refine @keeps_ite _ (Keeps g s0) _ _ _ _ ?_ ?_
  ·
    refine endShutdown_keeps (hg.sub rfl) _ ?_
    with_reducible assumption
  ·
    refine askWriteBack_keeps (hg.sub rfl) _ _ ?_
    with_reducible assumption

theorem teardownComplete_keeps (hg : Free 16640901051 g) : ∀ s, Keeps g s0 s → Keeps g s0 (teardownComplete s) := by
  intro s h
  unfold teardownComplete
  refine @keeps_ite _ (Keeps g s0) _ _ _ _ ?_ ?_
  ·
    with_reducible assumption
  ·
    extract_lets +onlyGivenNames v1
    clear_value v1
    refine @keeps_ite _ (Keeps g s0) _ _ _ _ ?_ ?_
    ·
      refine finishShutdown_keeps (hg.sub rfl) _ ?_
      with_reducible assumption
    ·
      refine keeps_foldl (P := Keeps g s0) (fun b2 x3 h4 => ?_) _ _ ?_
      ·
        refine abortRill_keeps (hg.sub rfl) _ _ ?_
        with_reducible assumption
      ·
        with_reducible assumption

theorem execTeardownComplete_keeps (hg : Free 16640901051 g) : ∀ s, Keeps g s0 s → KeepsN g s0 (execTeardownComplete s) := by
  intro s h
  unfold execTeardownComplete
  refine KeepsN.next ?_
  refine teardownComplete_keeps (hg.sub rfl) _ ?_
  with_reducible assumption

theorem alarmShutdown_keeps (hg : Free 16372465587 g) : ∀ s, Keeps g s0 s → Keeps g s0 (alarmShutdown s) := by
  intro s h
  unfold alarmShutdown
  refine @keeps_ite _ (Keeps g s0) _ _ _ _ ?_ ?_
  ·
    with_reducible assumption
  ·
    extract_lets +onlyGivenNames v1 v2 v3 v4 v5
    refine Keeps.cut (g := g) (s0 := s0) v2 ?_ (fun h6 => ?_)
    ·
      unfold v2
      refine @keeps_ite _ (Keeps g s0) _ _ _ _ ?_ ?_
      ·
        refine keeps_nv (s := s) 32 (hg.sub rfl) ?_ (.inr rfl) (.inr rfl) (.inr rfl) (.inl rfl) (fun m => ⟨m.1, m.2.1, rfl⟩)
        with_reducible assumption
      ·
        with_reducible assumption
    clear_value v2
    clear_value v3
    extract_lets +onlyGivenNames v7 v8 v9
    refine Keeps.cut (g := g) (s0 := s0) v7 ?_ (fun h10 => ?_)
    ·
      unfold v7
      refine takeDownDomains_keeps (hg.sub rfl) _ ?_
      refine keeps_nv (s := v2) 32 (hg.sub rfl) ?_ (.inr rfl) (.inr rfl) (.inr rfl) (.inl rfl) (fun m => m)
      with_reducible assumption
    clear_value v7
    refine Keeps.cut (g := g) (s0 := s0) v8 ?_ (fun h11 => ?_)
    ·
      unfold v8
      refine closeLog_keeps (hg.sub rfl) _ ?_
      refine logEv_keeps (hg.sub rfl) _ _ _ _ _ _ _ ?_
      with_reducible assumption
    clear_value v8
    refine Keeps.cut (g := g) (s0 := s0) v9 ?_ (fun h12 => ?_)
    ·
      unfold v9
      refine railsOff_keeps (hg.sub rfl) _ ?_
      with_reducible assumption
    clear_value v9
    refine keeps_boot (s := v9) (hg.sub rfl) ?_
    with_reducible assumption

theorem execAlarmShutdown_keeps (hg : Free 16372465587 g) : ∀ s, Keeps g s0 s → KeepsN g s0 (execAlarmShutdown s) := by
  intro s h
  unfold execAlarmShutdown
  refine KeepsN.next ?_
  refine alarmShutdown_keeps (hg.sub rfl) _ ?_
  with_reducible assumption

end Sys2Proof.Safety
end

