-- ==== Sys2Proof/Laws/KeepsKeeper.lean ====
section
/-!
SUPPORT. Which parts of the state each operation keeps: the keeper, identity, sensors, the test port and every command.
-/
namespace Sys2Proof.Safety

open Sys2Proof Sys2Proof.Machine

set_option Elab.async false

variable {g : Part} {s0 : State}

theorem cmdAnswer_keeps (hg : Free 134283264 g) : ∀ a0 a1 a2 s, Keeps g s0 s → Keeps g s0 (cmdAnswer a0 a1 a2 s) := by
  intro a0 a1 a2 s h
  unfold cmdAnswer
  refine emit_keeps (hg.sub rfl) _ _ ?_
  refine logEv_keeps (hg.sub rfl) _ _ _ _ _ _ _ ?_
  with_reducible assumption

theorem burned_keeps (hg : Free 65536 g) : ∀ a0 a1 s, Keeps g s0 s → Keeps g s0 (burned a0 a1 s) := by
  intro a0 a1 s h
  unfold burned
  refine logEv_keeps (hg.sub rfl) _ _ _ _ _ _ _ ?_
  with_reducible assumption

theorem lockInstall_keeps (hg : Free 65540 g) : ∀ s, Keeps g s0 s → Keeps2 g s0 (lockInstall s) := by
  intro s h
  unfold lockInstall
  refine @keeps_ite _ (Keeps2 g s0) _ _ _ _ ?_ ?_
  ·
    refine Keeps2.mk ?_
    with_reducible assumption
  ·
    refine Keeps2.mk ?_
    refine burned_keeps (hg.sub rfl) _ _ _ ?_
    refine keeps_nv (s := s) 4 (hg.sub rfl) ?_ (.inl rfl) (.inr rfl) (.inr rfl) (.inr rfl) (fun m => m)
    with_reducible assumption

theorem stateCommand_keeps (hg : Free 134283264 g) : ∀ a0 a1 s, (∀ t, Keeps g s0 t → Keeps2 g s0 (a1 t)) → Keeps g s0 s → Keeps g s0 (stateCommand a0 a1 s) := by
  intro a0 a1 s hk0 h
  unfold stateCommand
  refine @keeps_ite _ (Keeps g s0) _ _ _ _ ?_ ?_
  ·
    with_reducible assumption
  ·
    refine @keeps_ite _ (Keeps g s0) _ _ _ _ ?_ ?_
    ·
      refine cmdAnswer_keeps (hg.sub rfl) _ _ _ _ ?_
      with_reducible assumption
    ·
      split
      ·
        rename_i y1 y2 y3 y4
        refine Keeps.cut (g := g) (s0 := s0) y3 (Keeps2.of_eq ?_ y4) (fun h5 => ?_)
        ·
          refine hk0 _ ?_
          with_reducible assumption
        refine cmdAnswer_keeps (hg.sub rfl) _ _ _ _ ?_
        with_reducible assumption

theorem execEndBrace_keeps (hg : Free 134291456 g) : ∀ s, Keeps g s0 s → KeepsN g s0 (execEndBrace s) := by
  intro s h
  unfold execEndBrace
  refine KeepsN.next ?_
  refine stateCommand_keeps (hg.sub rfl) _ _ _ (fun x1 h2 => ?_) ?_
  ·
    refine @keeps_ite _ (Keeps2 g s0) _ _ _ _ ?_ ?_
    ·
      refine Keeps2.mk ?_
      refine endBrace_keeps (hg.sub rfl) _ ?_
      with_reducible assumption
    ·
      refine Keeps2.mk ?_
      with_reducible assumption
  ·
    with_reducible assumption

theorem raiseSvn_keeps (hg : Free 65540 g) : ∀ a0 a1 s, Keeps g s0 s → Keeps g s0 (raiseSvn a0 a1 s) := by
  intro a0 a1 s h
  unfold raiseSvn
  extract_lets +onlyGivenNames v1 v2
  clear_value v1
  clear_value v2
  refine @keeps_ite _ (Keeps g s0) _ _ _ _ ?_ ?_
  ·
    with_reducible assumption
  ·
    extract_lets +onlyGivenNames v3
    clear_value v3
    extract_lets +onlyGivenNames v4
    clear_value v4
    refine logEv_keeps (hg.sub rfl) _ _ _ _ _ _ _ ?_
    refine keeps_nv (s := s) 4 (hg.sub rfl) ?_ (.inl rfl) (.inr rfl) (.inr rfl) (.inr rfl) (fun m => m)
    with_reducible assumption

theorem commitSlot_keeps (hg : Free 65548 g) : ∀ a0 s, Keeps g s0 s → Keeps g s0 (commitSlot a0 s) := by
  intro a0 s h
  unfold commitSlot
  extract_lets +onlyGivenNames v1
  clear_value v1
  refine raiseSvn_keeps (hg.sub rfl) _ _ _ ?_
  refine logSlot_keeps (hg.sub rfl) _ _ _ _ ?_
  refine updRec_keeps (hg.sub rfl) _ _ _ ?_
  with_reducible assumption

theorem execCommitDelayExpiry_keeps (hg : Free 65548 g) : ∀ a0 s, Keeps g s0 s → KeepsN g s0 (execCommitDelayExpiry a0 s) := by
  intro a0 s h
  unfold execCommitDelayExpiry
  refine KeepsN.next ?_
  extract_lets +onlyGivenNames v1
  clear_value v1
  refine @keeps_ite _ (Keeps g s0) _ _ _ _ ?_ ?_
  ·
    refine commitSlot_keeps (hg.sub rfl) _ _ ?_
    with_reducible assumption
  ·
    with_reducible assumption

theorem eddyRead_keeps (hg : Free 16777216 g) : ∀ a0 s, Keeps g s0 s → Keeps2 g s0 (eddyRead a0 s) := by
  intro a0 s h
  unfold eddyRead
  extract_lets +onlyGivenNames v1 v2
  clear_value v1
  clear_value v2
  refine Keeps2.mk ?_
  refine @keeps_ite _ (Keeps g s0) _ _ _ _ ?_ ?_
  ·
    refine updRace_keeps (hg.sub rfl) _ _ _ ?_
    with_reducible assumption
  ·
    with_reducible assumption

theorem resetCommand_keeps (hg : Free 16238247835 g) : ∀ a0 a1 s, Keeps g s0 s → Keeps2 g s0 (resetCommand a0 a1 s) := by
  intro a0 a1 s h
  unfold resetCommand
  refine @keeps_ite _ (Keeps2 g s0) _ _ _ _ ?_ ?_
  ·
    refine Keeps2.mk ?_
    with_reducible assumption
  ·
    refine Keeps2.mk ?_
    refine beginReset_keeps (hg.sub rfl) _ _ _ ?_
    with_reducible assumption

theorem execColdReboot_keeps (hg : Free 16372465563 g) : ∀ s, Keeps g s0 s → KeepsN g s0 (execColdReboot s) := by
  intro s h
  unfold execColdReboot
  refine KeepsN.next ?_
  refine stateCommand_keeps (hg.sub rfl) _ _ _ (fun x1 h2 => ?_) ?_
  ·
    refine resetCommand_keeps (hg.sub rfl) _ _ _ ?_
    with_reducible assumption
  ·
    with_reducible assumption

theorem execShutdown_keeps (hg : Free 16372465563 g) : ∀ s, Keeps g s0 s → KeepsN g s0 (execShutdown s) := by
  intro s h
  unfold execShutdown
  refine KeepsN.next ?_
  refine stateCommand_keeps (hg.sub rfl) _ _ _ (fun x1 h2 => ?_) ?_
  ·
    refine resetCommand_keeps (hg.sub rfl) _ _ _ ?_
    with_reducible assumption
  ·
    with_reducible assumption

theorem revertSlot_keeps (hg : Free 65544 g) : ∀ a0 s, Keeps g s0 s → Keeps g s0 (revertSlot a0 s) := by
  intro a0 s h
  unfold revertSlot
  extract_lets +onlyGivenNames v1
  clear_value v1
  refine updRec_keeps (hg.sub rfl) _ _ _ ?_
  refine badSlot_keeps (hg.sub rfl) _ _ _ ?_
  with_reducible assumption

theorem revert_keeps (hg : Free 16238247835 g) : ∀ s, Keeps g s0 s → Keeps2 g s0 (revert s) := by
  intro s h
  unfold revert
  extract_lets +onlyGivenNames v1
  clear_value v1
  refine @keeps_ite _ (Keeps2 g s0) _ _ _ _ ?_ ?_
  ·
    refine Keeps2.mk ?_
    with_reducible assumption
  ·
    extract_lets +onlyGivenNames v2 v3
    refine Keeps.cut (g := g) (s0 := s0) v2 ?_ (fun h4 => ?_)
    ·
      unfold v2
      refine keeps_foldl (P := Keeps g s0) (fun b5 x6 h7 => ?_) _ _ ?_
      ·
        refine revertSlot_keeps (hg.sub rfl) _ _ ?_
        with_reducible assumption
      ·
        with_reducible assumption
    clear_value v2
    clear_value v3
    refine Keeps2.mk ?_
    refine beginReset_keeps (hg.sub rfl) _ _ _ ?_
    with_reducible assumption

theorem execRevert_keeps (hg : Free 16372465563 g) : ∀ s, Keeps g s0 s → KeepsN g s0 (execRevert s) := by
  intro s h
  unfold execRevert
  refine KeepsN.next ?_
  refine stateCommand_keeps (hg.sub rfl) _ _ _ (fun x1 h2 => ?_) ?_
  ·
    refine revert_keeps (hg.sub rfl) _ ?_
    with_reducible assumption
  ·
    with_reducible assumption

theorem readViews_keeps (hg : Free 268435456 g) : ∀ a0 s, Keeps g s0 s → Keeps2 g s0 (readViews a0 s) := by
  intro a0 s
  induction a0 generalizing s
  ·
    intro h1
    unfold readViews
    refine Keeps2.mk ?_
    with_reducible assumption
  ·
    rename_i y2 y3 y4
    intro h5
    unfold readViews
    split
    ·
      rename_i y6 y7 y8 y9
      refine Keeps.cut (g := g) (s0 := s0) y8 (Keeps2.of_eq ?_ y9) (fun h10 => ?_)
      ·
        refine readView_keeps (hg.sub rfl) _ _ ?_
        with_reducible assumption
      split
      ·
        rename_i y11 y12 y13 y14
        refine Keeps.cut (g := g) (s0 := s0) y13 (Keeps2.of_eq ?_ y14) (fun h15 => ?_)
        ·
          refine y4 _ ?_
          with_reducible assumption
        refine Keeps2.mk ?_
        with_reducible assumption

theorem getInfo_keeps (hg : Free 268435456 g) : ∀ s, Keeps g s0 s → Keeps3 g s0 (getInfo s) := by
  intro s h
  unfold getInfo
  split
  ·
    rename_i y1 y2 y3 y4
    refine Keeps.cut (g := g) (s0 := s0) y3 (Keeps2.of_eq ?_ y4) (fun h5 => ?_)
    ·
      refine readViews_keeps (hg.sub rfl) _ _ ?_
      with_reducible assumption
    refine Keeps3.mk ?_
    with_reducible assumption

theorem readCommand_keeps (hg : Free 134283264 g) : ∀ a0 a1 s, (∀ t, Keeps g s0 t → Keeps3 g s0 (a1 t)) → Keeps g s0 s → Keeps g s0 (readCommand a0 a1 s) := by
  intro a0 a1 s hk0 h
  unfold readCommand
  refine @keeps_ite _ (Keeps g s0) _ _ _ _ ?_ ?_
  ·
    with_reducible assumption
  ·
    split
    ·
      rename_i y1 y2 y3 y4 y5
      refine Keeps.cut (g := g) (s0 := s0) y4 (Keeps3.of_eq ?_ y5) (fun h6 => ?_)
      ·
        refine hk0 _ ?_
        with_reducible assumption
      refine cmdAnswer_keeps (hg.sub rfl) _ _ _ _ ?_
      with_reducible assumption

theorem execGetInfo_keeps (hg : Free 402718720 g) : ∀ s, Keeps g s0 s → KeepsN g s0 (execGetInfo s) := by
  intro s h
  unfold execGetInfo
  refine KeepsN.next ?_
  refine readCommand_keeps (hg.sub rfl) _ _ _ (fun x1 h2 => ?_) ?_
  ·
    refine getInfo_keeps (hg.sub rfl) _ ?_
    with_reducible assumption
  ·
    with_reducible assumption

theorem withSigned_keeps (hg : Free 65544 g) : ∀ a0 a1 a2 a3 s, (∀ t, Keeps g s0 t → Keeps2 g s0 (a3 t)) → Keeps g s0 s → Keeps2 g s0 (withSigned a0 a1 a2 a3 s) := by
  intro a0 a1 a2 a3 s hk0 h
  unfold withSigned
  split
  ·
    rename_i y1 y2 y3
    refine Keeps2.mk ?_
    refine logEv_keeps (hg.sub rfl) _ _ _ _ _ _ _ ?_
    with_reducible assumption
  ·
    rename_i y4 y5
    refine hk0 _ ?_
    refine keeps_nv (s := s) 8 (hg.sub rfl) ?_ (.inr rfl) (.inl rfl) (.inr rfl) (.inr rfl) (fun m => m)
    with_reducible assumption

theorem lockedCommand_keeps (hg : Free 65544 g) : ∀ a0 a1 a2 a3 s, (∀ t, Keeps g s0 t → Keeps2 g s0 (a3 t)) → Keeps g s0 s → Keeps2 g s0 (lockedCommand a0 a1 a2 a3 s) := by
  intro a0 a1 a2 a3 s hk0 h
  unfold lockedCommand
  refine @keeps_ite _ (Keeps2 g s0) _ _ _ _ ?_ ?_
  ·
    refine hk0 _ ?_
    with_reducible assumption
  ·
    split
    ·
      rename_i y1 y2
      refine withSigned_keeps (hg.sub rfl) _ _ _ _ _ (fun x3 h4 => ?_) ?_
      ·
        refine hk0 _ ?_
        with_reducible assumption
      ·
        with_reducible assumption
    ·
      rename_i y5
      refine Keeps2.mk ?_
      refine logEv_keeps (hg.sub rfl) _ _ _ _ _ _ _ ?_
      with_reducible assumption

theorem stageSanitize_keeps (hg : Free 65544 g) : ∀ s, Keeps g s0 s → Keeps2 g s0 (stageSanitize s) := by
  intro s h
  unfold stageSanitize
  refine Keeps2.mk ?_
  refine logEv_keeps (hg.sub rfl) _ _ _ _ _ _ _ ?_
  refine keeps_nv (s := s) 8 (hg.sub rfl) ?_ (.inr rfl) (.inl rfl) (.inr rfl) (.inr rfl) (fun m => m)
  with_reducible assumption

theorem execPowerOn_keeps (hg : Free 16372465547 g) : ∀ s, Keeps g s0 s → KeepsN g s0 (execPowerOn s) := by
  intro s h
  unfold execPowerOn
  refine KeepsN.next ?_
  refine stateCommand_keeps (hg.sub rfl) _ _ _ (fun x1 h2 => ?_) ?_
  ·
    refine @keeps_ite _ (Keeps2 g s0) _ _ _ _ ?_ ?_
    ·
      refine Keeps2.mk ?_
      refine coldReset_keeps (hg.sub rfl) _ ?_
      with_reducible assumption
    ·
      refine Keeps2.mk ?_
      with_reducible assumption
  ·
    with_reducible assumption

theorem provisionKey_keeps (hg : Free 268632068 g) : ∀ a0 a1 a2 s, Keeps g s0 s → Keeps2 g s0 (provisionKey a0 a1 a2 s) := by
  intro a0 a1 a2 s h
  unfold provisionKey
  refine @keeps_ite _ (Keeps2 g s0) _ _ _ _ ?_ ?_
  ·
    refine Keeps2.mk ?_
    refine logEv_keeps (hg.sub rfl) _ _ _ _ _ _ _ ?_
    with_reducible assumption
  ·
    refine @keeps_ite _ (Keeps2 g s0) _ _ _ _ ?_ ?_
    ·
      refine Keeps2.mk ?_
      with_reducible assumption
    ·
      extract_lets +onlyGivenNames v1 v2
      clear_value v1
      clear_value v2
      extract_lets +onlyGivenNames v3
      clear_value v3
      refine Keeps2.mk ?_
      refine burned_keeps (hg.sub rfl) _ _ _ ?_
      refine keeps_update (s := s) 268566532 (hg.sub rfl) ?_ (.inr rfl) (.inr rfl) (.inl rfl) (.inr rfl) (.inr rfl) (.inr rfl) (.inr rfl) (.inr rfl) (.inr rfl) (.inr rfl) (.inr rfl) (.inr rfl) (.inr rfl) (.inr rfl) (.inr rfl) (.inr rfl) (.inr rfl) (.inl rfl) (.inr rfl) (.inr rfl) (.inr rfl) (.inr rfl) (.inr rfl) (.inr rfl) (.inr rfl) (.inr rfl) (.inr rfl) (.inr rfl) (.inl rfl) (.inr rfl) (.inr rfl) (.inr rfl) (.inr rfl) (.inr rfl) (fun m => m)
      with_reducible assumption

theorem execProvisionKey_keeps (hg : Free 402849804 g) : ∀ a0 a1 a2 a3 s, Keeps g s0 s → KeepsN g s0 (execProvisionKey a0 a1 a2 a3 s) := by
  intro a0 a1 a2 a3 s h
  unfold execProvisionKey
  refine KeepsN.next ?_
  refine stateCommand_keeps (hg.sub rfl) _ _ _ (fun x1 h2 => ?_) ?_
  ·
    refine lockedCommand_keeps (hg.sub rfl) _ _ _ _ _ (fun x3 h4 => ?_) ?_
    ·
      refine provisionKey_keeps (hg.sub rfl) _ _ _ _ ?_
      with_reducible assumption
    ·
      with_reducible assumption
  ·
    with_reducible assumption

theorem execSanitize_keeps (hg : Free 134283272 g) : ∀ a0 s, Keeps g s0 s → KeepsN g s0 (execSanitize a0 s) := by
  intro a0 s h
  unfold execSanitize
  refine KeepsN.next ?_
  refine stateCommand_keeps (hg.sub rfl) _ _ _ (fun x1 h2 => ?_) ?_
  ·
    refine withSigned_keeps (hg.sub rfl) _ _ _ _ _ (fun x3 h4 => ?_) ?_
    ·
      refine stageSanitize_keeps (hg.sub rfl) _ ?_
      with_reducible assumption
    ·
      with_reducible assumption
  ·
    with_reducible assumption

theorem commitTrials_keeps (hg : Free 65548 g) : ∀ s, Keeps g s0 s → Keeps2 g s0 (commitTrials s) := by
  intro s h
  unfold commitTrials
  refine @keeps_ite _ (Keeps2 g s0) _ _ _ _ ?_ ?_
  ·
    refine Keeps2.mk ?_
    with_reducible assumption
  ·
    refine Keeps2.mk ?_
    refine keeps_foldl (P := Keeps g s0) (fun b1 x2 h3 => ?_) _ _ ?_
    ·
      refine commitSlot_keeps (hg.sub rfl) _ _ ?_
      with_reducible assumption
    ·
      with_reducible assumption

theorem execCommit_keeps (hg : Free 134283276 g) : ∀ s, Keeps g s0 s → KeepsN g s0 (execCommit s) := by
  intro s h
  unfold execCommit
  refine KeepsN.next ?_
  refine stateCommand_keeps (hg.sub rfl) _ _ _ (fun x1 h2 => ?_) ?_
  ·
    refine commitTrials_keeps (hg.sub rfl) _ ?_
    with_reducible assumption
  ·
    with_reducible assumption

theorem execWarmReboot_keeps (hg : Free 16372465563 g) : ∀ s, Keeps g s0 s → KeepsN g s0 (execWarmReboot s) := by
  intro s h
  unfold execWarmReboot
  refine KeepsN.next ?_
  refine stateCommand_keeps (hg.sub rfl) _ _ _ (fun x1 h2 => ?_) ?_
  ·
    refine resetCommand_keeps (hg.sub rfl) _ _ _ ?_
    with_reducible assumption
  ·
    with_reducible assumption

theorem clearFault_keeps (hg : Free 134283400 g) : ∀ s, Keeps g s0 s → Keeps2 g s0 (clearFault s) := by
  intro s h
  unfold clearFault
  refine @keeps_ite _ (Keeps2 g s0) _ _ _ _ ?_ ?_
  ·
    refine Keeps2.mk ?_
    with_reducible assumption
  ·
    extract_lets +onlyGivenNames v1
    extract_lets +onlyGivenNames v2
    refine Keeps.cut (g := g) (s0 := s0) v2 ?_ (fun h3 => ?_)
    ·
      unfold v2
      refine keeps_nv (s := s) 8 (hg.sub rfl) ?_ (.inr rfl) (.inl rfl) (.inr rfl) (.inr rfl) (fun m => m)
      with_reducible assumption
    clear_value v2
    refine @keeps_ite _ (Keeps2 g s0) _ _ _ _ ?_ ?_
    ·
      refine Keeps2.mk ?_
      with_reducible assumption
    ·
      refine Keeps2.mk ?_
      refine startAgreement_keeps (hg.sub rfl) _ ?_
      refine mapTo_keeps (hg.sub rfl) _ _ ?_
      with_reducible assumption

theorem execClearFault_keeps (hg : Free 134283400 g) : ∀ s, Keeps g s0 s → KeepsN g s0 (execClearFault s) := by
  intro s h
  unfold execClearFault
  refine KeepsN.next ?_
  refine stateCommand_keeps (hg.sub rfl) _ _ _ (fun x1 h2 => ?_) ?_
  ·
    refine clearFault_keeps (hg.sub rfl) _ ?_
    with_reducible assumption
  ·
    with_reducible assumption

theorem diagRead_keeps (hg : Free 285278208 g) : ∀ a0 s, Keeps g s0 s → Keeps3 g s0 (diagRead a0 s) := by
  intro a0 s h
  unfold diagRead
  split
  ·
    rename_i y1 y2
    split
    ·
      rename_i y3 y4 y5 y6
      refine Keeps.cut (g := g) (s0 := s0) y5 (Keeps2.of_eq ?_ y6) (fun h7 => ?_)
      ·
        refine readViews_keeps (hg.sub rfl) _ _ ?_
        with_reducible assumption
      refine Keeps3.mk ?_
      with_reducible assumption
  ·
    rename_i y8 y9
    split
    ·
      rename_i y10 y11 y12 y13
      refine Keeps.cut (g := g) (s0 := s0) y12 (Keeps2.of_eq ?_ y13) (fun h14 => ?_)
      ·
        refine readViews_keeps (hg.sub rfl) _ _ ?_
        with_reducible assumption
      refine Keeps3.mk ?_
      with_reducible assumption
  ·
    rename_i y15 y16 y17
    split
    ·
      rename_i y18 y19 y20 y21
      refine Keeps.cut (g := g) (s0 := s0) y20 (Keeps2.of_eq ?_ y21) (fun h22 => ?_)
      ·
        refine eddyRead_keeps (hg.sub rfl) _ _ ?_
        with_reducible assumption
      refine Keeps3.mk ?_
      with_reducible assumption
  ·
    rename_i y23 y24
    refine Keeps3.mk ?_
    with_reducible assumption
  ·
    rename_i y25 y26
    split
    ·
      rename_i y27 y28 y29 y30
      refine Keeps.cut (g := g) (s0 := s0) y29 (Keeps2.of_eq ?_ y30) (fun h31 => ?_)
      ·
        refine readViews_keeps (hg.sub rfl) _ _ ?_
        with_reducible assumption
      refine Keeps3.mk ?_
      with_reducible assumption
  ·
    rename_i y32 y33
    refine Keeps3.mk ?_
    with_reducible assumption
  ·
    rename_i y34 y35
    refine Keeps3.mk ?_
    with_reducible assumption
  ·
    rename_i y36 y37
    split
    ·
      rename_i y38 y39 y40 y41 y42
      refine Keeps.cut (g := g) (s0 := s0) y41 (Keeps3.of_eq ?_ y42) (fun h43 => ?_)
      ·
        refine readCtl_keeps (hg.sub rfl) _ _ ?_
        with_reducible assumption
      refine Keeps3.mk ?_
      with_reducible assumption
  ·
    rename_i y44 y45
    split
    ·
      rename_i y46 y47 y48 y49
      refine Keeps.cut (g := g) (s0 := s0) y48 (Keeps2.of_eq ?_ y49) (fun h50 => ?_)
      ·
        refine takeWord_keeps (hg.sub rfl) _ ?_
        with_reducible assumption
      refine Keeps3.mk ?_
      with_reducible assumption
  ·
    rename_i y51
    refine Keeps3.mk ?_
    with_reducible assumption
  ·
    rename_i y52 y53
    refine Keeps3.mk ?_
    refine logEv_keeps (hg.sub rfl) _ _ _ _ _ _ _ ?_
    with_reducible assumption

theorem execDiagRead_keeps (hg : Free 419495936 g) : ∀ a0 s, Keeps g s0 s → KeepsN g s0 (execDiagRead a0 s) := by
  intro a0 s h
  unfold execDiagRead
  refine KeepsN.next ?_
  refine readCommand_keeps (hg.sub rfl) _ _ _ (fun x1 h2 => ?_) ?_
  ·
    split
    ·
      rename_i y3 y4 y5 y6 y7
      refine Keeps.cut (g := g) (s0 := s0) y6 (Keeps3.of_eq ?_ y7) (fun h8 => ?_)
      ·
        refine diagRead_keeps (hg.sub rfl) _ _ ?_
        with_reducible assumption
      refine Keeps3.mk ?_
      refine @keeps_ite _ (Keeps g s0) _ _ _ _ ?_ ?_
      ·
        refine emit_keeps (hg.sub rfl) _ _ ?_
        with_reducible assumption
      ·
        with_reducible assumption
  ·
    with_reducible assumption

theorem execGetSeal_keeps (hg : Free 134283264 g) : ∀ a0 s, Keeps g s0 s → KeepsN g s0 (execGetSeal a0 s) := by
  intro a0 s h
  unfold execGetSeal
  refine KeepsN.next ?_
  refine readCommand_keeps (hg.sub rfl) _ _ _ (fun x1 h2 => ?_) ?_
  ·
    split
    ·
      rename_i y3 y4 y5
      refine Keeps3.mk ?_
      refine emit_keeps (hg.sub rfl) _ _ ?_
      with_reducible assumption
    ·
      rename_i y6 y7
      refine Keeps3.mk ?_
      refine emit_keeps (hg.sub rfl) _ _ ?_
      with_reducible assumption
  ·
    with_reducible assumption

theorem revokeKey_keeps (hg : Free 65540 g) : ∀ a0 s, Keeps g s0 s → Keeps2 g s0 (revokeKey a0 s) := by
  intro a0 s h
  unfold revokeKey
  refine @keeps_ite _ (Keeps2 g s0) _ _ _ _ ?_ ?_
  ·
    refine Keeps2.mk ?_
    with_reducible assumption
  ·
    extract_lets +onlyGivenNames v1 v2
    clear_value v1
    clear_value v2
    refine Keeps2.mk ?_
    refine burned_keeps (hg.sub rfl) _ _ _ ?_
    refine keeps_nv (s := s) 4 (hg.sub rfl) ?_ (.inl rfl) (.inr rfl) (.inr rfl) (.inr rfl) (fun m => m)
    with_reducible assumption

theorem execRevokeKey_keeps (hg : Free 134283276 g) : ∀ a0 a1 s, Keeps g s0 s → KeepsN g s0 (execRevokeKey a0 a1 s) := by
  intro a0 a1 s h
  unfold execRevokeKey
  refine KeepsN.next ?_
  refine stateCommand_keeps (hg.sub rfl) _ _ _ (fun x1 h2 => ?_) ?_
  ·
    refine lockedCommand_keeps (hg.sub rfl) _ _ _ _ _ (fun x3 h4 => ?_) ?_
    ·
      refine revokeKey_keeps (hg.sub rfl) _ _ ?_
      with_reducible assumption
    ·
      with_reducible assumption
  ·
    with_reducible assumption

theorem execSetEndpointId_keeps (hg : Free 131072 g) : ∀ a0 s, Keeps g s0 s → KeepsN g s0 (execSetEndpointId a0 s) := by
  intro a0 s h
  unfold execSetEndpointId
  refine KeepsN.next ?_
  refine @keeps_ite _ (Keeps g s0) _ _ _ _ ?_ ?_
  ·
    refine keeps_keeper (s := s) 131072 (hg.sub rfl) ?_ (.inr rfl) (.inl rfl)
    with_reducible assumption
  ·
    with_reducible assumption

theorem execSetLimit_keeps (hg : Free 134414336 g) : ∀ a0 s, Keeps g s0 s → KeepsN g s0 (execSetLimit a0 s) := by
  intro a0 s h
  unfold execSetLimit
  refine KeepsN.next ?_
  refine stateCommand_keeps (hg.sub rfl) _ _ _ (fun x1 h2 => ?_) ?_
  ·
    refine Keeps2.mk ?_
    refine keeps_keeper (s := x1) 131072 (hg.sub rfl) ?_ (.inr rfl) (.inl rfl)
    with_reducible assumption
  ·
    with_reducible assumption

theorem execTideLoad_keeps (hg : Free 136380416 g) : ∀ a0 s, Keeps g s0 s → KeepsN g s0 (execTideLoad a0 s) := by
  intro a0 s h
  unfold execTideLoad
  refine KeepsN.next ?_
  refine stateCommand_keeps (hg.sub rfl) _ _ _ (fun x1 h2 => ?_) ?_
  ·
    refine Keeps2.mk ?_
    refine keeps_tide (s := x1) (hg.sub rfl) ?_
    with_reducible assumption
  ·
    with_reducible assumption

theorem execClearAlert_keeps (hg : Free 134283264 g) : ∀ a0 s, Keeps g s0 s → KeepsN g s0 (execClearAlert a0 s) := by
  intro a0 s h
  unfold execClearAlert
  refine KeepsN.next ?_
  refine stateCommand_keeps (hg.sub rfl) _ _ _ (fun x1 h2 => ?_) ?_
  ·
    refine Keeps2.mk ?_
    refine keeps_foldl (P := Keeps g s0) (fun b3 x4 h5 => ?_) _ _ ?_
    ·
      refine dropAlert_keeps (hg.sub rfl) _ _ ?_
      with_reducible assumption
    ·
      with_reducible assumption
  ·
    with_reducible assumption

theorem execGetLog_keeps (hg : Free 134283264 g) : ∀ a0 s, Keeps g s0 s → KeepsN g s0 (execGetLog a0 s) := by
  intro a0 s h
  unfold execGetLog
  refine KeepsN.next ?_
  refine readCommand_keeps (hg.sub rfl) _ _ _ (fun x1 h2 => ?_) ?_
  ·
    extract_lets +onlyGivenNames v3
    clear_value v3
    refine Keeps3.mk ?_
    refine emit_keeps (hg.sub rfl) _ _ ?_
    with_reducible assumption
  ·
    with_reducible assumption

theorem execEarlyFlush_keeps (hg : Free 134291456 g) : ∀ s, Keeps g s0 s → KeepsN g s0 (execEarlyFlush s) := by
  intro s h
  unfold execEarlyFlush
  refine KeepsN.next ?_
  refine stateCommand_keeps (hg.sub rfl) _ _ _ (fun x1 h2 => ?_) ?_
  ·
    refine @keeps_ite _ (Keeps2 g s0) _ _ _ _ ?_ ?_
    ·
      refine Keeps2.mk ?_
      refine trigger_keeps (hg.sub rfl) _ _ ?_
      with_reducible assumption
    ·
      refine Keeps2.mk ?_
      with_reducible assumption
  ·
    with_reducible assumption

theorem execLockInstall_keeps (hg : Free 134283268 g) : ∀ s, Keeps g s0 s → KeepsN g s0 (execLockInstall s) := by
  intro s h
  unfold execLockInstall
  refine KeepsN.next ?_
  refine stateCommand_keeps (hg.sub rfl) _ _ _ (fun x1 h2 => ?_) ?_
  ·
    refine lockInstall_keeps (hg.sub rfl) _ ?_
    with_reducible assumption
  ·
    with_reducible assumption

theorem emptySlot_keeps (hg : Free 65544 g) : ∀ a0 a1 s, Keeps g s0 s → Keeps g s0 (emptySlot a0 a1 s) := by
  intro a0 a1 s h
  unfold emptySlot
  extract_lets +onlyGivenNames v1
  extract_lets +onlyGivenNames v2
  refine Keeps.cut (g := g) (s0 := s0) v2 ?_ (fun h3 => ?_)
  ·
    unfold v2
    refine @keeps_ite _ (Keeps g s0) _ _ _ _ ?_ ?_
    ·
      refine @keeps_ite _ (Keeps g s0) _ _ _ _ ?_ ?_
      ·
        refine keeps_nv (s := s) 8 (hg.sub rfl) ?_ (.inr rfl) (.inl rfl) (.inr rfl) (.inr rfl) (fun m => m)
        with_reducible assumption
      ·
        refine keeps_nv (s := s) 8 (hg.sub rfl) ?_ (.inr rfl) (.inl rfl) (.inr rfl) (.inr rfl) (fun m => m)
        with_reducible assumption
    ·
      refine @keeps_ite _ (Keeps g s0) _ _ _ _ ?_ ?_
      ·
        refine keeps_nv (s := s) 8 (hg.sub rfl) ?_ (.inr rfl) (.inl rfl) (.inr rfl) (.inr rfl) (fun m => m)
        with_reducible assumption
      ·
        refine keeps_nv (s := s) 8 (hg.sub rfl) ?_ (.inr rfl) (.inl rfl) (.inr rfl) (.inr rfl) (fun m => m)
        with_reducible assumption
  clear_value v2
  refine @keeps_ite _ (Keeps g s0) _ _ _ _ ?_ ?_
  ·
    with_reducible assumption
  ·
    refine logSlot_keeps (hg.sub rfl) _ _ _ _ ?_
    with_reducible assumption

theorem requestUpdate_keeps (hg : Free 134414344 g) : ∀ a0 s, Keeps g s0 s → Keeps g s0 (requestUpdate a0 s) := by
  intro a0 s h
  unfold requestUpdate
  refine @keeps_ite _ (Keeps g s0) _ _ _ _ ?_ ?_
  ·
    with_reducible assumption
  ·
    refine @keeps_ite _ (Keeps g s0) _ _ _ _ ?_ ?_
    ·
      refine emit_keeps (hg.sub rfl) _ _ ?_
      with_reducible assumption
    ·
      refine @keeps_ite _ (Keeps g s0) _ _ _ _ ?_ ?_
      ·
        refine emit_keeps (hg.sub rfl) _ _ ?_
        with_reducible assumption
      ·
        refine emit_keeps (hg.sub rfl) _ _ ?_
        refine emptySlot_keeps (hg.sub rfl) _ _ _ ?_
        refine keeps_keeper (s := s) 131072 (hg.sub rfl) ?_ (.inr rfl) (.inl rfl)
        with_reducible assumption

theorem execRequestUpdate_keeps (hg : Free 134414344 g) : ∀ a0 s, Keeps g s0 s → KeepsN g s0 (execRequestUpdate a0 s) := by
  intro a0 s h
  unfold execRequestUpdate
  refine KeepsN.next ?_
  refine requestUpdate_keeps (hg.sub rfl) _ _ ?_
  with_reducible assumption

theorem spdmFail_keeps (hg : Free 134217728 g) : ∀ a0 a1 s, Keeps g s0 s → Keeps g s0 (spdmFail a0 a1 s) := by
  intro a0 a1 s h
  unfold spdmFail
  refine emit_keeps (hg.sub rfl) _ _ ?_
  with_reducible assumption

theorem updSpdm_keeps (hg : Free 262144 g) : ∀ a0 a1 s, Keeps g s0 s → Keeps g s0 (updSpdm a0 a1 s) := by
  intro a0 a1 s h
  unfold updSpdm
  refine keeps_spdm (s := s) (hg.sub rfl) ?_
  with_reducible assumption

theorem slhSig_keeps (hg : Free 134479872 g) : ∀ a0 a1 s, Keeps g s0 s → Keeps g s0 (slhSig a0 a1 s) := by
  intro a0 a1 s h
  unfold slhSig
  split
  ·
    rename_i y1 y2
    refine spdmFail_keeps (hg.sub rfl) _ _ _ ?_
    with_reducible assumption
  ·
    rename_i y3 y4 y5
    refine emit_keeps (hg.sub rfl) _ _ ?_
    refine updSpdm_keeps (hg.sub rfl) _ _ _ ?_
    with_reducible assumption
  ·
    rename_i y6 y7 y8
    refine spdmFail_keeps (hg.sub rfl) _ _ _ ?_
    refine updSpdm_keeps (hg.sub rfl) _ _ _ ?_
    with_reducible assumption

theorem spdmSay_keeps (hg : Free 134217728 g) : ∀ a0 a1 a2 s, Keeps g s0 s → Keeps g s0 (spdmSay a0 a1 a2 s) := by
  intro a0 a1 a2 s h
  unfold spdmSay
  refine emit_keeps (hg.sub rfl) _ _ ?_
  with_reducible assumption

theorem spdmRequest_keeps (hg : Free 134217728 g) : ∀ a0 a1 a2 s, (∀ t, Keeps g s0 t → Keeps g s0 (a2 t)) → Keeps g s0 s → Keeps g s0 (spdmRequest a0 a1 a2 s) := by
  intro a0 a1 a2 s hk0 h
  unfold spdmRequest
  refine @keeps_ite _ (Keeps g s0) _ _ _ _ ?_ ?_
  ·
    with_reducible assumption
  ·
    refine @keeps_ite _ (Keeps g s0) _ _ _ _ ?_ ?_
    ·
      refine hk0 _ ?_
      with_reducible assumption
    ·
      refine spdmFail_keeps (hg.sub rfl) _ _ _ ?_
      with_reducible assumption

theorem spdmSigned_keeps (hg : Free 402915328 g) : ∀ a0 a1 a2 a3 s, Keeps g s0 s → Keeps g s0 (spdmSigned a0 a1 a2 a3 s) := by
  intro a0 a1 a2 a3 s h
  unfold spdmSigned
  extract_lets +onlyGivenNames v1 v2
  clear_value v1
  refine Keeps.cut (g := g) (s0 := s0) v2 ?_ (fun h3 => ?_)
  ·
    unfold v2
    refine updSpdm_keeps (hg.sub rfl) _ _ _ ?_
    refine keeps_freeCtr (s := s) (hg.sub rfl) ?_
    with_reducible assumption
  clear_value v2
  refine emit_keeps (hg.sub rfl) _ _ ?_
  with_reducible assumption

theorem execGetMeasurements_keeps (hg : Free 402915328 g) : ∀ a0 a1 a2 a3 s, Keeps g s0 s → KeepsN g s0 (execGetMeasurements a0 a1 a2 a3 s) := by
  intro a0 a1 a2 a3 s h
  unfold execGetMeasurements
  refine KeepsN.next ?_
  refine spdmRequest_keeps (hg.sub rfl) _ _ _ _ (fun x1 h2 => ?_) ?_
  ·
    extract_lets +onlyGivenNames v3 v4
    clear_value v3
    clear_value v4
    refine @keeps_ite _ (Keeps g s0) _ _ _ _ ?_ ?_
    ·
      refine spdmFail_keeps (hg.sub rfl) _ _ _ ?_
      with_reducible assumption
    ·
      refine @keeps_ite _ (Keeps g s0) _ _ _ _ ?_ ?_
      ·
        refine spdmSigned_keeps (hg.sub rfl) _ _ _ _ _ ?_
        with_reducible assumption
      ·
        refine spdmSay_keeps (hg.sub rfl) _ _ _ _ ?_
        with_reducible assumption
  ·
    with_reducible assumption

theorem activate'_keeps (hg : Free 16238247835 g) : ∀ s, Keeps g s0 s → Keeps g s0 (activate' s) := by
  intro s h
  unfold activate'
  extract_lets +onlyGivenNames v1
  refine Keeps.cut (g := g) (s0 := s0) v1 ?_ (fun h2 => ?_)
  ·
    unfold v1
    split
    ·
      rename_i y3 y4 y5
      refine updRec_keeps (hg.sub rfl) _ _ _ ?_
      with_reducible assumption
    ·
      rename_i y6 y7
      with_reducible assumption
  clear_value v1
  split
  ·
    rename_i y8 y9 y10
    extract_lets +onlyGivenNames v11
    refine Keeps.cut (g := g) (s0 := s0) v11 ?_ (fun h12 => ?_)
    ·
      unfold v11
      refine updRec_keeps (hg.sub rfl) _ _ _ ?_
      with_reducible assumption
    clear_value v11
    refine @keeps_ite _ (Keeps g s0) _ _ _ _ ?_ ?_
    ·
      refine beginReset_keeps (hg.sub rfl) _ _ _ ?_
      with_reducible assumption
    ·
      with_reducible assumption
  ·
    rename_i y13 y14
    with_reducible assumption

theorem activateFirmware_keeps (hg : Free 16372465563 g) : ∀ s, Keeps g s0 s → Keeps g s0 (activateFirmware s) := by
  intro s h
  unfold activateFirmware
  refine @keeps_ite _ (Keeps g s0) _ _ _ _ ?_ ?_
  ·
    with_reducible assumption
  ·
    refine @keeps_ite _ (Keeps g s0) _ _ _ _ ?_ ?_
    ·
      with_reducible assumption
    ·
      refine @keeps_ite _ (Keeps g s0) _ _ _ _ ?_ ?_
      ·
        refine emit_keeps (hg.sub rfl) _ _ ?_
        refine keeps_keeper (s := s) 131072 (hg.sub rfl) ?_ (.inr rfl) (.inl rfl)
        with_reducible assumption
      ·
        refine activate'_keeps (hg.sub rfl) _ ?_
        refine emit_keeps (hg.sub rfl) _ _ ?_
        with_reducible assumption

theorem execNegotiateAlgorithms_keeps (hg : Free 134479872 g) : ∀ a0 a1 a2 s, Keeps g s0 s → KeepsN g s0 (execNegotiateAlgorithms a0 a1 a2 s) := by
  intro a0 a1 a2 s h
  unfold execNegotiateAlgorithms
  refine KeepsN.next ?_
  refine spdmRequest_keeps (hg.sub rfl) _ _ _ _ (fun x1 h2 => ?_) ?_
  ·
    refine @keeps_ite _ (Keeps g s0) _ _ _ _ ?_ ?_
    ·
      refine spdmSay_keeps (hg.sub rfl) _ _ _ _ ?_
      refine updSpdm_keeps (hg.sub rfl) _ _ _ ?_
      with_reducible assumption
    ·
      refine spdmFail_keeps (hg.sub rfl) _ _ _ ?_
      with_reducible assumption
  ·
    with_reducible assumption

theorem execChallenge_keeps (hg : Free 402915328 g) : ∀ a0 a1 s, Keeps g s0 s → KeepsN g s0 (execChallenge a0 a1 s) := by
  intro a0 a1 s h
  unfold execChallenge
  refine KeepsN.next ?_
  refine spdmRequest_keeps (hg.sub rfl) _ _ _ _ (fun x1 h2 => ?_) ?_
  ·
    refine spdmSigned_keeps (hg.sub rfl) _ _ _ _ _ ?_
    with_reducible assumption
  ·
    with_reducible assumption

theorem execSlhSignComplete_keeps (hg : Free 262144 g) : ∀ a0 a1 s, Keeps g s0 s → KeepsN g s0 (execSlhSignComplete a0 a1 s) := by
  intro a0 a1 s h
  unfold execSlhSignComplete
  refine KeepsN.next ?_
  refine @keeps_ite _ (Keeps g s0) _ _ _ _ ?_ ?_
  ·
    refine updSpdm_keeps (hg.sub rfl) _ _ _ ?_
    with_reducible assumption
  ·
    with_reducible assumption

theorem execSpdmChunk_keeps (hg : Free 134479872 g) : ∀ a0 a1 a2 a3 s, Keeps g s0 s → KeepsN g s0 (execSpdmChunk a0 a1 a2 a3 s) := by
  intro a0 a1 a2 a3 s h
  unfold execSpdmChunk
  refine KeepsN.next ?_
  refine spdmRequest_keeps (hg.sub rfl) _ _ _ _ (fun x1 h2 => ?_) ?_
  ·
    refine @keeps_ite _ (Keeps g s0) _ _ _ _ ?_ ?_
    ·
      refine spdmFail_keeps (hg.sub rfl) _ _ _ ?_
      refine updSpdm_keeps (hg.sub rfl) _ _ _ ?_
      with_reducible assumption
    ·
      refine spdmSay_keeps (hg.sub rfl) _ _ _ _ ?_
      refine updSpdm_keeps (hg.sub rfl) _ _ _ ?_
      with_reducible assumption
  ·
    with_reducible assumption

theorem execRespondIfReady_keeps (hg : Free 134479872 g) : ∀ a0 s, Keeps g s0 s → KeepsN g s0 (execRespondIfReady a0 s) := by
  intro a0 s h
  unfold execRespondIfReady
  refine KeepsN.next ?_
  refine spdmRequest_keeps (hg.sub rfl) _ _ _ _ (fun x1 h2 => ?_) ?_
  ·
    split
    ·
      rename_i y3 y4 y5
      refine slhSig_keeps (hg.sub rfl) _ _ _ ?_
      with_reducible assumption
    ·
      rename_i y6 y7
      with_reducible assumption
  ·
    with_reducible assumption

theorem stageImage_keeps (hg : Free 65544 g) : ∀ a0 a1 a2 s, Keeps g s0 s → Keeps g s0 (stageImage a0 a1 a2 s) := by
  intro a0 a1 a2 s h
  unfold stageImage
  extract_lets +onlyGivenNames v1 v2
  refine Keeps.cut (g := g) (s0 := s0) v2 ?_ (fun h3 => ?_)
  ·
    unfold v2
    split
    ·
      rename_i y4 y5
      refine @keeps_ite _ (Keeps g s0) _ _ _ _ ?_ ?_
      ·
        refine keeps_nv (s := s) 8 (hg.sub rfl) ?_ (.inr rfl) (.inl rfl) (.inr rfl) (.inr rfl) (fun m => m)
        with_reducible assumption
      ·
        refine keeps_nv (s := s) 8 (hg.sub rfl) ?_ (.inr rfl) (.inl rfl) (.inr rfl) (.inr rfl) (fun m => m)
        with_reducible assumption
    ·
      rename_i y6 y7
      refine @keeps_ite _ (Keeps g s0) _ _ _ _ ?_ ?_
      ·
        refine keeps_nv (s := s) 8 (hg.sub rfl) ?_ (.inr rfl) (.inl rfl) (.inr rfl) (.inr rfl) (fun m => m)
        with_reducible assumption
      ·
        refine keeps_nv (s := s) 8 (hg.sub rfl) ?_ (.inr rfl) (.inl rfl) (.inr rfl) (.inr rfl) (fun m => m)
        with_reducible assumption
  clear_value v2
  extract_lets +onlyGivenNames v8
  clear_value v8
  refine logSlot_keeps (hg.sub rfl) _ _ _ _ ?_
  refine updRec_keeps (hg.sub rfl) _ _ _ ?_
  with_reducible assumption

theorem verifyComplete_keeps (hg : Free 134414344 g) : ∀ a0 s, Keeps g s0 s → Keeps g s0 (verifyComplete a0 s) := by
  intro a0 s h
  unfold verifyComplete
  refine @keeps_ite _ (Keeps g s0) _ _ _ _ ?_ ?_
  ·
    with_reducible assumption
  ·
    split
    ·
      rename_i y1 y2
      with_reducible assumption
    ·
      rename_i y3 y4 y5
      extract_lets +onlyGivenNames v6 v7 v8
      clear_value v6
      clear_value v7
      extract_lets +onlyGivenNames v9
      refine Keeps.cut (g := g) (s0 := s0) v9 ?_ (fun h10 => ?_)
      ·
        unfold v9
        refine keeps_keeper (s := s) 131072 (hg.sub rfl) ?_ (.inr rfl) (.inl rfl)
        with_reducible assumption
      clear_value v9
      refine @keeps_ite _ (Keeps g s0) _ _ _ _ ?_ ?_
      ·
        refine emit_keeps (hg.sub rfl) _ _ ?_
        refine stageImage_keeps (hg.sub rfl) _ _ _ _ ?_
        with_reducible assumption
      ·
        extract_lets +onlyGivenNames v11
        refine Keeps.cut (g := g) (s0 := s0) v11 ?_ (fun h12 => ?_)
        ·
          unfold v11
          refine setAlert_keeps (hg.sub rfl) _ _ ?_
          refine logEv_keeps (hg.sub rfl) _ _ _ _ _ _ _ ?_
          refine emptySlot_keeps (hg.sub rfl) _ _ _ ?_
          with_reducible assumption
        clear_value v11
        refine emit_keeps (hg.sub rfl) _ _ ?_
        with_reducible assumption

theorem execVerifyComplete_keeps (hg : Free 134414344 g) : ∀ a0 s, Keeps g s0 s → KeepsN g s0 (execVerifyComplete a0 s) := by
  intro a0 s h
  unfold execVerifyComplete
  refine KeepsN.next ?_
  refine verifyComplete_keeps (hg.sub rfl) _ _ ?_
  with_reducible assumption

theorem execGetCapabilities_keeps (hg : Free 134479872 g) : ∀ a0 s, Keeps g s0 s → KeepsN g s0 (execGetCapabilities a0 s) := by
  intro a0 s h
  unfold execGetCapabilities
  refine KeepsN.next ?_
  refine spdmRequest_keeps (hg.sub rfl) _ _ _ _ (fun x1 h2 => ?_) ?_
  ·
    refine spdmSay_keeps (hg.sub rfl) _ _ _ _ ?_
    refine updSpdm_keeps (hg.sub rfl) _ _ _ ?_
    with_reducible assumption
  ·
    with_reducible assumption

theorem execActivateFirmware_keeps (hg : Free 16372465563 g) : ∀ s, Keeps g s0 s → KeepsN g s0 (execActivateFirmware s) := by
  intro s h
  unfold execActivateFirmware
  refine KeepsN.next ?_
  refine activateFirmware_keeps (hg.sub rfl) _ ?_
  with_reducible assumption

theorem execGetDigests_keeps (hg : Free 134217728 g) : ∀ a0 s, Keeps g s0 s → KeepsN g s0 (execGetDigests a0 s) := by
  intro a0 s h
  unfold execGetDigests
  refine KeepsN.next ?_
  refine spdmRequest_keeps (hg.sub rfl) _ _ _ _ (fun x1 h2 => ?_) ?_
  ·
    refine spdmSay_keeps (hg.sub rfl) _ _ _ _ ?_
    with_reducible assumption
  ·
    with_reducible assumption

theorem execGetSlhSig_keeps (hg : Free 134479872 g) : ∀ a0 a1 s, Keeps g s0 s → KeepsN g s0 (execGetSlhSig a0 a1 s) := by
  intro a0 a1 s h
  unfold execGetSlhSig
  refine KeepsN.next ?_
  refine spdmRequest_keeps (hg.sub rfl) _ _ _ _ (fun x1 h2 => ?_) ?_
  ·
    refine slhSig_keeps (hg.sub rfl) _ _ _ ?_
    with_reducible assumption
  ·
    with_reducible assumption

theorem sweepDone_keeps (hg : Free 40 g) : ∀ a0 s, Keeps g s0 s → Keeps g s0 (sweepDone a0 s) := by
  intro a0 s h
  unfold sweepDone
  refine @keeps_ite _ (Keeps g s0) _ _ _ _ ?_ ?_
  ·
    with_reducible assumption
  ·
    extract_lets +onlyGivenNames v1
    clear_value v1
    refine keeps_nv (s := s) 40 (hg.sub rfl) ?_ (.inr rfl) (.inl rfl) (.inr rfl) (.inl rfl) (fun m => ⟨m.1, (Memory.filter_wf m.2.1 _), m.2.2⟩)
    with_reducible assumption

theorem execEarlyFlushComplete_keeps (hg : Free 16238247867 g) : ∀ s, Keeps g s0 s → KeepsN g s0 (execEarlyFlushComplete s) := by
  intro s h
  unfold execEarlyFlushComplete
  refine KeepsN.next ?_
  extract_lets +onlyGivenNames v1
  refine Keeps.cut (g := g) (s0 := s0) v1 ?_ (fun h2 => ?_)
  ·
    unfold v1
    refine earlyFlushComplete_keeps (hg.sub rfl) _ ?_
    with_reducible assumption
  clear_value v1
  refine @keeps_ite _ (Keeps g s0) _ _ _ _ ?_ ?_
  ·
    refine activate'_keeps (hg.sub rfl) _ ?_
    refine keeps_keeper (s := v1) 131072 (hg.sub rfl) ?_ (.inr rfl) (.inl rfl)
    with_reducible assumption
  ·
    with_reducible assumption

theorem execSpdmUnsupportedRequest_keeps (hg : Free 134217728 g) : ∀ a0 a1 s, Keeps g s0 s → KeepsN g s0 (execSpdmUnsupportedRequest a0 a1 s) := by
  intro a0 a1 s h
  unfold execSpdmUnsupportedRequest
  refine KeepsN.next ?_
  refine @keeps_ite _ (Keeps g s0) _ _ _ _ ?_ ?_
  ·
    refine spdmFail_keeps (hg.sub rfl) _ _ _ ?_
    with_reducible assumption
  ·
    with_reducible assumption

theorem execGetCertificate_keeps (hg : Free 134217728 g) : ∀ a0 a1 a2 a3 s, Keeps g s0 s → KeepsN g s0 (execGetCertificate a0 a1 a2 a3 s) := by
  intro a0 a1 a2 a3 s h
  unfold execGetCertificate
  refine KeepsN.next ?_
  refine spdmRequest_keeps (hg.sub rfl) _ _ _ _ (fun x1 h2 => ?_) ?_
  ·
    refine @keeps_ite _ (Keeps g s0) _ _ _ _ ?_ ?_
    ·
      refine spdmSay_keeps (hg.sub rfl) _ _ _ _ ?_
      with_reducible assumption
    ·
      refine spdmFail_keeps (hg.sub rfl) _ _ _ ?_
      with_reducible assumption
  ·
    with_reducible assumption

theorem execKeySweepComplete_keeps (hg : Free 40 g) : ∀ a0 s, Keeps g s0 s → KeepsN g s0 (execKeySweepComplete a0 s) := by
  intro a0 s h
  unfold execKeySweepComplete
  refine KeepsN.next ?_
  refine sweepDone_keeps (hg.sub rfl) _ _ ?_
  with_reducible assumption

theorem execGetSlhChain_keeps (hg : Free 134217728 g) : ∀ a0 a1 s, Keeps g s0 s → KeepsN g s0 (execGetSlhChain a0 a1 s) := by
  intro a0 a1 s h
  unfold execGetSlhChain
  refine KeepsN.next ?_
  refine spdmRequest_keeps (hg.sub rfl) _ _ _ _ (fun x1 h2 => ?_) ?_
  ·
    extract_lets +onlyGivenNames v3
    clear_value v3
    refine @keeps_ite _ (Keeps g s0) _ _ _ _ ?_ ?_
    ·
      refine spdmSay_keeps (hg.sub rfl) _ _ _ _ ?_
      with_reducible assumption
    ·
      refine spdmSay_keeps (hg.sub rfl) _ _ _ _ ?_
      with_reducible assumption
  ·
    with_reducible assumption

theorem execGetVersion_keeps (hg : Free 134479872 g) : ∀ a0 s, Keeps g s0 s → KeepsN g s0 (execGetVersion a0 s) := by
  intro a0 s h
  unfold execGetVersion
  refine KeepsN.next ?_
  refine spdmRequest_keeps (hg.sub rfl) _ _ _ _ (fun x1 h2 => ?_) ?_
  ·
    refine spdmSay_keeps (hg.sub rfl) _ _ _ _ ?_
    refine updSpdm_keeps (hg.sub rfl) _ _ _ ?_
    with_reducible assumption
  ·
    with_reducible assumption

theorem shockSafe_keeps (hg : Free 196608 g) : ∀ s, Keeps g s0 s → Keeps g s0 (shockSafe s) := by
  intro s h
  unfold shockSafe
  refine @keeps_ite _ (Keeps g s0) _ _ _ _ ?_ ?_
  ·
    with_reducible assumption
  ·
    extract_lets +onlyGivenNames v1
    extract_lets +onlyGivenNames v2
    refine Keeps.cut (g := g) (s0 := s0) v2 ?_ (fun h3 => ?_)
    ·
      unfold v2
      refine keeps_keeper (s := s) 131072 (hg.sub rfl) ?_ (.inr rfl) (.inl rfl)
      with_reducible assumption
    clear_value v2
    refine @keeps_ite _ (Keeps g s0) _ _ _ _ ?_ ?_
    ·
      refine dropAlert_keeps (hg.sub rfl) _ _ ?_
      with_reducible assumption
    ·
      with_reducible assumption

theorem selectTable_keeps (hg : Free 66560 g) : ∀ a0 a1 a2 s, Keeps g s0 s → Keeps g s0 (selectTable a0 a1 a2 s) := by
  intro a0 a1 a2 s h
  unfold selectTable
  refine logSelect_keeps (hg.sub rfl) _ _ _ _ ?_
  refine keeps_weir (s := s) 1024 (hg.sub rfl) ?_ (.inl rfl) (.inr rfl)
  with_reducible assumption

theorem stepUp_keeps (hg : Free 197632 g) : ∀ a0 a1 s, Keeps g s0 s → Keeps g s0 (stepUp a0 a1 s) := by
  intro a0 a1 s h
  unfold stepUp
  extract_lets +onlyGivenNames v1 v2
  clear_value v1
  extract_lets +onlyGivenNames v3
  refine Keeps.cut (g := g) (s0 := s0) v3 ?_ (fun h4 => ?_)
  ·
    unfold v3
    refine dropAlert_keeps (hg.sub rfl) _ _ ?_
    refine keeps_keeper (s := s) 131072 (hg.sub rfl) ?_ (.inr rfl) (.inl rfl)
    with_reducible assumption
  clear_value v3
  split
  ·
    rename_i y5 y6
    refine keeps_keeper (s := v3) 131072 (hg.sub rfl) ?_ (.inr rfl) (.inl rfl)
    with_reducible assumption
  ·
    rename_i y7 y8 y9
    extract_lets +onlyGivenNames v10 v11
    clear_value v10
    clear_value v11
    refine @keeps_ite _ (Keeps g s0) _ _ _ _ ?_ ?_
    ·
      refine selectTable_keeps (hg.sub rfl) _ _ _ _ ?_
      refine keeps_keeper (s := v3) 131072 (hg.sub rfl) ?_ (.inr rfl) (.inl rfl)
      with_reducible assumption
    ·
      refine keeps_keeper (s := v3) 131072 (hg.sub rfl) ?_ (.inr rfl) (.inl rfl)
      with_reducible assumption

theorem alarmFlush_keeps (hg : Free 73728 g) : ∀ a0 s, Keeps g s0 s → Keeps g s0 (alarmFlush a0 s) := by
  intro a0 s h
  unfold alarmFlush
  refine @keeps_ite _ (Keeps g s0) _ _ _ _ ?_ ?_
  ·
    with_reducible assumption
  ·
    extract_lets +onlyGivenNames v1
    refine Keeps.cut (g := g) (s0 := s0) v1 ?_ (fun h2 => ?_)
    ·
      unfold v1
      refine @keeps_ite _ (Keeps g s0) _ _ _ _ ?_ ?_
      ·
        refine trigger_keeps (hg.sub rfl) _ _ ?_
        with_reducible assumption
      ·
        with_reducible assumption
    clear_value v1
    refine keeps_flush (s := v1) (hg.sub rfl) ?_
    with_reducible assumption

theorem keeperReset_keeps (hg : Free 131072 g) : ∀ s, Keeps g s0 s → Keeps g s0 (keeperReset s) := by
  intro s h
  unfold keeperReset
  refine keeps_keeper (s := s) 131072 (hg.sub rfl) ?_ (.inr rfl) (.inl rfl)
  with_reducible assumption

theorem alarmAction_keeps (hg : Free 204800 g) : ∀ a0 s, Keeps g s0 s → Keeps g s0 (alarmAction a0 s) := by
  intro a0 s h
  unfold alarmAction
  split
  ·
    rename_i y1 y2
    refine alarmFlush_keeps (hg.sub rfl) _ _ ?_
    with_reducible assumption
  ·
    rename_i y3 y4
    refine alarmFlush_keeps (hg.sub rfl) _ _ ?_
    with_reducible assumption
  ·
    rename_i y5 y6
    refine alarmFlush_keeps (hg.sub rfl) _ _ ?_
    with_reducible assumption
  ·
    rename_i y7 y8
    refine alarmFlush_keeps (hg.sub rfl) _ _ ?_
    with_reducible assumption
  ·
    rename_i y9
    refine keeperReset_keeps (hg.sub rfl) _ ?_
    with_reducible assumption
  ·
    rename_i y10 y11 y12 y13 y14 y15
    with_reducible assumption

theorem stepDown_keeps (hg : Free 197632 g) : ∀ a0 a1 s, Keeps g s0 s → Keeps g s0 (stepDown a0 a1 s) := by
  intro a0 a1 s h
  unfold stepDown
  extract_lets +onlyGivenNames v1
  extract_lets +onlyGivenNames v2
  refine Keeps.cut (g := g) (s0 := s0) v2 ?_ (fun h3 => ?_)
  ·
    unfold v2
    refine keeps_keeper (s := s) 131072 (hg.sub rfl) ?_ (.inr rfl) (.inl rfl)
    with_reducible assumption
  clear_value v2
  split
  ·
    rename_i y4 y5 y6
    refine selectTable_keeps (hg.sub rfl) _ _ _ _ ?_
    with_reducible assumption
  ·
    rename_i y7 y8
    refine @keeps_ite _ (Keeps g s0) _ _ _ _ ?_ ?_
    ·
      refine logEv_keeps (hg.sub rfl) _ _ _ _ _ _ _ ?_
      refine setAlert_keeps (hg.sub rfl) _ _ ?_
      refine keeps_keeper (s := v2) 131072 (hg.sub rfl) ?_ (.inr rfl) (.inl rfl)
      with_reducible assumption
    ·
      with_reducible assumption

theorem capWindow_keeps (hg : Free 197632 g) : ∀ a0 a1 a2 s, Keeps g s0 s → Keeps g s0 (capWindow a0 a1 a2 s) := by
  intro a0 a1 a2 s h
  unfold capWindow
  refine @keeps_ite _ (Keeps g s0) _ _ _ _ ?_ ?_
  ·
    with_reducible assumption
  ·
    extract_lets +onlyGivenNames v1 v2
    clear_value v1
    extract_lets +onlyGivenNames v3
    refine Keeps.cut (g := g) (s0 := s0) v3 ?_ (fun h4 => ?_)
    ·
      unfold v3
      refine keeps_keeper (s := s) 131072 (hg.sub rfl) ?_ (.inr rfl) (.inl rfl)
      with_reducible assumption
    clear_value v3
    refine @keeps_ite _ (Keeps g s0) _ _ _ _ ?_ ?_
    ·
      with_reducible assumption
    ·
      extract_lets +onlyGivenNames v5 v6 v7
      clear_value v5
      clear_value v6
      clear_value v7
      refine @keeps_ite _ (Keeps g s0) _ _ _ _ ?_ ?_
      ·
        refine stepDown_keeps (hg.sub rfl) _ _ _ ?_
        with_reducible assumption
      ·
        refine stepUp_keeps (hg.sub rfl) _ _ _ ?_
        with_reducible assumption

theorem execCapWindow_keeps (hg : Free 197632 g) : ∀ a0 a1 a2 s, Keeps g s0 s → KeepsN g s0 (execCapWindow a0 a1 a2 s) := by
  intro a0 a1 a2 s h
  unfold execCapWindow
  refine KeepsN.next ?_
  refine capWindow_keeps (hg.sub rfl) _ _ _ _ ?_
  with_reducible assumption

theorem keeperRestart_keeps (hg : Free 196608 g) : ∀ s, Keeps g s0 s → Keeps g s0 (keeperRestart s) := by
  intro s h
  unfold keeperRestart
  refine @keeps_ite _ (Keeps g s0) _ _ _ _ ?_ ?_
  ·
    with_reducible assumption
  ·
    extract_lets +onlyGivenNames v1 v2 v3
    clear_value v1
    clear_value v2
    extract_lets +onlyGivenNames v4
    refine Keeps.cut (g := g) (s0 := s0) v4 ?_ (fun h5 => ?_)
    ·
      unfold v4
      refine keeps_keeper (s := s) 196608 (hg.sub rfl) ?_ (.inl rfl) (.inl rfl)
      with_reducible assumption
    clear_value v4
    refine keeps_foldl (P := Keeps g s0) (fun b6 x7 h8 => ?_) _ _ ?_
    ·
      refine logEv_keeps (hg.sub rfl) _ _ _ _ _ _ _ ?_
      with_reducible assumption
    ·
      refine logEv_keeps (hg.sub rfl) _ _ _ _ _ _ _ ?_
      with_reducible assumption

theorem noteFilm_keeps (hg : Free 131072 g) : ∀ a0 a1 s, Keeps g s0 s → Keeps g s0 (noteFilm a0 a1 s) := by
  intro a0 a1 s h
  unfold noteFilm
  refine @keeps_ite _ (Keeps g s0) _ _ _ _ ?_ ?_
  ·
    refine keeps_keeper (s := s) 131072 (hg.sub rfl) ?_ (.inr rfl) (.inl rfl)
    with_reducible assumption
  ·
    with_reducible assumption

theorem sensorSample_keeps (hg : Free 204800 g) : ∀ a0 a1 a2 s, Keeps g s0 s → Keeps g s0 (sensorSample a0 a1 a2 s) := by
  intro a0 a1 a2 s h
  unfold sensorSample
  refine @keeps_ite _ (Keeps g s0) _ _ _ _ ?_ ?_
  ·
    with_reducible assumption
  ·
    extract_lets +onlyGivenNames v1 v2
    clear_value v1
    refine Keeps.cut (g := g) (s0 := s0) v2 ?_ (fun h3 => ?_)
    ·
      unfold v2
      refine noteFilm_keeps (hg.sub rfl) _ _ _ ?_
      refine noteLevel_keeps (hg.sub rfl) _ _ _ _ ?_
      with_reducible assumption
    clear_value v2
    refine @keeps_ite _ (Keeps g s0) _ _ _ _ ?_ ?_
    ·
      refine alarmAction_keeps (hg.sub rfl) _ _ ?_
      with_reducible assumption
    ·
      with_reducible assumption

theorem execSensorSample_keeps (hg : Free 204800 g) : ∀ a0 a1 a2 s, Keeps g s0 s → KeepsN g s0 (execSensorSample a0 a1 a2 s) := by
  intro a0 a1 a2 s h
  unfold execSensorSample
  refine KeepsN.next ?_
  refine sensorSample_keeps (hg.sub rfl) _ _ _ _ ?_
  with_reducible assumption

theorem mailboxCommand_keeps (hg : Free 135266304 g) : ∀ a0 a1 s, Keeps g s0 s → Keeps g s0 (mailboxCommand a0 a1 s) := by
  intro a0 a1 s h
  unfold mailboxCommand
  refine @keeps_ite _ (Keeps g s0) _ _ _ _ ?_ ?_
  ·
    with_reducible assumption
  ·
    split
    ·
      rename_i y1
      refine emit_keeps (hg.sub rfl) _ _ ?_
      with_reducible assumption
    ·
      rename_i y2
      refine emit_keeps (hg.sub rfl) _ _ ?_
      with_reducible assumption
    ·
      rename_i y3
      refine emit_keeps (hg.sub rfl) _ _ ?_
      with_reducible assumption
    ·
      rename_i y4
      refine emit_keeps (hg.sub rfl) _ _ ?_
      with_reducible assumption
    ·
      rename_i y5
      refine emit_keeps (hg.sub rfl) _ _ ?_
      refine updHost_keeps (hg.sub rfl) _ _ _ ?_
      with_reducible assumption

theorem execMailboxCommand_keeps (hg : Free 135266304 g) : ∀ a0 a1 s, Keeps g s0 s → KeepsN g s0 (execMailboxCommand a0 a1 s) := by
  intro a0 a1 s h
  unfold execMailboxCommand
  refine KeepsN.next ?_
  refine mailboxCommand_keeps (hg.sub rfl) _ _ _ ?_
  with_reducible assumption

theorem execKeeperRestart_keeps (hg : Free 196608 g) : ∀ s, Keeps g s0 s → KeepsN g s0 (execKeeperRestart s) := by
  intro s h
  unfold execKeeperRestart
  refine KeepsN.next ?_
  refine keeperRestart_keeps (hg.sub rfl) _ ?_
  with_reducible assumption

theorem shockOn_keeps (hg : Free 204800 g) : ∀ a0 a1 s, Keeps g s0 s → Keeps g s0 (shockOn a0 a1 s) := by
  intro a0 a1 s h
  unfold shockOn
  extract_lets +onlyGivenNames v1 v2
  refine Keeps.cut (g := g) (s0 := s0) v2 ?_ (fun h3 => ?_)
  ·
    unfold v2
    refine keeps_keeper (s := s) 131072 (hg.sub rfl) ?_ (.inr rfl) (.inl rfl)
    with_reducible assumption
  clear_value v2
  refine @keeps_ite _ (Keeps g s0) _ _ _ _ ?_ ?_
  ·
    refine takeBrace_keeps (hg.sub rfl) _ _ ?_
    refine setAlert_keeps (hg.sub rfl) _ _ ?_
    refine keeps_keeper (s := v2) 131072 (hg.sub rfl) ?_ (.inr rfl) (.inl rfl)
    with_reducible assumption
  ·
    refine @keeps_ite _ (Keeps g s0) _ _ _ _ ?_ ?_
    ·
      refine keeps_keeper (s := v2) 131072 (hg.sub rfl) ?_ (.inr rfl) (.inl rfl)
      with_reducible assumption
    ·
      with_reducible assumption

theorem ratingCheck_keeps (hg : Free 196608 g) : ∀ a0 s, Keeps g s0 s → Keeps g s0 (ratingCheck a0 s) := by
  intro a0 s h
  unfold ratingCheck
  extract_lets +onlyGivenNames v1 v2
  clear_value v1
  refine Keeps.cut (g := g) (s0 := s0) v2 ?_ (fun h3 => ?_)
  ·
    unfold v2
    refine @keeps_ite _ (Keeps g s0) _ _ _ _ ?_ ?_
    ·
      refine serviceAlarm_keeps (hg.sub rfl) _ _ _ ?_
      with_reducible assumption
    ·
      with_reducible assumption
  clear_value v2
  refine keeps_keeper (s := v2) 131072 (hg.sub rfl) ?_ (.inr rfl) (.inl rfl)
  with_reducible assumption

theorem endShock_keeps (hg : Free 196608 g) : ∀ s, Keeps g s0 s → Keeps g s0 (endShock s) := by
  intro s h
  unfold endShock
  extract_lets +onlyGivenNames v1 v2
  refine Keeps.cut (g := g) (s0 := s0) v2 ?_ (fun h3 => ?_)
  ·
    unfold v2
    refine @keeps_ite _ (Keeps g s0) _ _ _ _ ?_ ?_
    ·
      refine logEv_keeps (hg.sub rfl) _ _ _ _ _ _ _ ?_
      with_reducible assumption
    ·
      with_reducible assumption
  clear_value v2
  refine keeps_keeper (s := v2) 131072 (hg.sub rfl) ?_ (.inr rfl) (.inl rfl)
  with_reducible assumption

theorem takeGravity_keeps (hg : Free 131072 g) : ∀ a0 s, Keeps g s0 s → Keeps g s0 (takeGravity a0 s) := by
  intro a0 s h
  unfold takeGravity
  extract_lets +onlyGivenNames v1
  clear_value v1
  refine @keeps_ite _ (Keeps g s0) _ _ _ _ ?_ ?_
  ·
    with_reducible assumption
  ·
    extract_lets +onlyGivenNames v2
    clear_value v2
    refine @keeps_ite _ (Keeps g s0) _ _ _ _ ?_ ?_
    ·
      refine keeps_keeper (s := s) 131072 (hg.sub rfl) ?_ (.inr rfl) (.inl rfl)
      with_reducible assumption
    ·
      refine keeps_keeper (s := s) 131072 (hg.sub rfl) ?_ (.inr rfl) (.inl rfl)
      with_reducible assumption

theorem shockSample_keeps (hg : Free 204800 g) : ∀ a0 s, Keeps g s0 s → Keeps g s0 (shockSample a0 s) := by
  intro a0 s h
  unfold shockSample
  refine @keeps_ite _ (Keeps g s0) _ _ _ _ ?_ ?_
  ·
    with_reducible assumption
  ·
    refine @keeps_ite _ (Keeps g s0) _ _ _ _ ?_ ?_
    ·
      refine takeGravity_keeps (hg.sub rfl) _ _ ?_
      with_reducible assumption
    ·
      extract_lets +onlyGivenNames v1 v2
      clear_value v1
      refine Keeps.cut (g := g) (s0 := s0) v2 ?_ (fun h3 => ?_)
      ·
        unfold v2
        refine ratingCheck_keeps (hg.sub rfl) _ _ ?_
        with_reducible assumption
      clear_value v2
      refine takeGravity_keeps (hg.sub rfl) _ _ ?_
      refine @keeps_ite _ (Keeps g s0) _ _ _ _ ?_ ?_
      ·
        refine shockOn_keeps (hg.sub rfl) _ _ _ ?_
        with_reducible assumption
      ·
        refine shockSafe_keeps (hg.sub rfl) _ ?_
        refine endShock_keeps (hg.sub rfl) _ ?_
        with_reducible assumption

theorem execCondensationAlarm_keeps (hg : Free 204800 g) : ∀ s, Keeps g s0 s → KeepsN g s0 (execCondensationAlarm s) := by
  intro s h
  unfold execCondensationAlarm
  refine KeepsN.next ?_
  refine @keeps_ite _ (Keeps g s0) _ _ _ _ ?_ ?_
  ·
    refine takeBrace_keeps (hg.sub rfl) _ _ ?_
    refine noteFilm_keeps (hg.sub rfl) _ _ _ ?_
    refine noteLevel_keeps (hg.sub rfl) _ _ _ _ ?_
    with_reducible assumption
  ·
    with_reducible assumption

theorem execKeeperWatchdog_keeps (hg : Free 131072 g) : ∀ s, Keeps g s0 s → KeepsN g s0 (execKeeperWatchdog s) := by
  intro s h
  unfold execKeeperWatchdog
  refine KeepsN.next ?_
  refine @keeps_ite _ (Keeps g s0) _ _ _ _ ?_ ?_
  ·
    refine keeperReset_keeps (hg.sub rfl) _ ?_
    with_reducible assumption
  ·
    with_reducible assumption

theorem execShockSample_keeps (hg : Free 204800 g) : ∀ a0 a1 a2 s, Keeps g s0 s → KeepsN g s0 (execShockSample a0 a1 a2 s) := by
  intro a0 a1 a2 s h
  unfold execShockSample
  refine KeepsN.next ?_
  refine shockSample_keeps (hg.sub rfl) _ _ ?_
  with_reducible assumption

theorem clearLink_keeps (hg : Free 2148007936 g) : ∀ a0 s, Keeps g s0 s → Keeps g s0 (clearLink a0 s) := by
  intro a0 s h
  unfold clearLink
  extract_lets +onlyGivenNames v1 v2
  clear_value v1
  refine Keeps.cut (g := g) (s0 := s0) v2 ?_ (fun h3 => ?_)
  ·
    unfold v2
    refine updLink_keeps (hg.sub rfl) _ _ _ ?_
    with_reducible assumption
  clear_value v2
  refine keeps_test (s := v2) (hg.sub rfl) ?_
  with_reducible assumption

theorem writeLinkCtl_keeps (hg : Free 2148007936 g) : ∀ a0 a1 s, Keeps g s0 s → Keeps g s0 (writeLinkCtl a0 a1 s) := by
  intro a0 a1 s h
  unfold writeLinkCtl
  extract_lets +onlyGivenNames v1
  refine Keeps.cut (g := g) (s0 := s0) v1 ?_ (fun h2 => ?_)
  ·
    unfold v1
    refine updLink_keeps (hg.sub rfl) _ _ _ ?_
    with_reducible assumption
  clear_value v1
  refine @keeps_ite _ (Keeps g s0) _ _ _ _ ?_ ?_
  ·
    refine clearLink_keeps (hg.sub rfl) _ _ ?_
    with_reducible assumption
  ·
    with_reducible assumption

theorem injectError_keeps (hg : Free 524288 g) : ∀ a0 s, Keeps g s0 s → Keeps g s0 (injectError a0 s) := by
  intro a0 s h
  unfold injectError
  extract_lets +onlyGivenNames v1 v2 v3
  clear_value v1
  clear_value v2
  clear_value v3
  extract_lets +onlyGivenNames v4
  clear_value v4
  refine keeps_test (s := s) (hg.sub rfl) ?_
  with_reducible assumption

theorem execInject_keeps (hg : Free 524288 g) : ∀ a0 s, Keeps g s0 s → KeepsN g s0 (execInject a0 s) := by
  intro a0 s h
  unfold execInject
  refine KeepsN.next ?_
  refine @keeps_ite _ (Keeps g s0) _ _ _ _ ?_ ?_
  ·
    refine injectError_keeps (hg.sub rfl) _ _ ?_
    with_reducible assumption
  ·
    with_reducible assumption

theorem execCheckerLock_keeps (hg : Free 524288 g) : ∀ a0 s, Keeps g s0 s → KeepsN g s0 (execCheckerLock a0 s) := by
  intro a0 s h
  unfold execCheckerLock
  refine KeepsN.next ?_
  refine @keeps_ite _ (Keeps g s0) _ _ _ _ ?_ ?_
  ·
    refine keeps_test (s := s) (hg.sub rfl) ?_
    with_reducible assumption
  ·
    with_reducible assumption

theorem loadIr_keeps (hg : Free 524288 g) : ∀ a0 a1 a2 a3 s, Keeps g s0 s → Keeps g s0 (loadIr a0 a1 a2 a3 s) := by
  intro a0 a1 a2 a3 s h
  unfold loadIr
  refine keeps_test (s := s) (hg.sub rfl) ?_
  with_reducible assumption

theorem bypass_keeps (hg : Free 524288 g) : ∀ s, Keeps g s0 s → Keeps g s0 (bypass s) := by
  intro s h
  unfold bypass
  refine loadIr_keeps (hg.sub rfl) _ _ _ _ _ ?_
  with_reducible assumption

theorem execBypass_keeps (hg : Free 524288 g) : ∀ a0 s, Keeps g s0 s → KeepsN g s0 (execBypass a0 s) := by
  intro a0 s h
  unfold execBypass
  refine KeepsN.next ?_
  refine @keeps_ite _ (Keeps g s0) _ _ _ _ ?_ ?_
  ·
    refine bypass_keeps (hg.sub rfl) _ ?_
    with_reducible assumption
  ·
    with_reducible assumption

theorem execSamplePreload_keeps (hg : Free 134742016 g) : ∀ a0 a1 s, Keeps g s0 s → KeepsN g s0 (execSamplePreload a0 a1 s) := by
  intro a0 a1 s h
  unfold execSamplePreload
  refine KeepsN.next ?_
  refine @keeps_ite _ (Keeps g s0) _ _ _ _ ?_ ?_
  ·
    refine emit_keeps (hg.sub rfl) _ _ ?_
    refine loadIr_keeps (hg.sub rfl) _ _ _ _ _ ?_
    refine keeps_test (s := s) (hg.sub rfl) ?_
    with_reducible assumption
  ·
    with_reducible assumption

theorem writeLane_keeps (hg : Free 524288 g) : ∀ a0 a1 s, Keeps g s0 s → Keeps g s0 (writeLane a0 a1 s) := by
  intro a0 a1 s h
  unfold writeLane
  extract_lets +onlyGivenNames v1 v2
  clear_value v1
  clear_value v2
  refine @keeps_ite _ (Keeps g s0) _ _ _ _ ?_ ?_
  ·
    with_reducible assumption
  ·
    extract_lets +onlyGivenNames v3 v4 v5
    clear_value v3
    clear_value v4
    refine Keeps.cut (g := g) (s0 := s0) v5 ?_ (fun h6 => ?_)
    ·
      unfold v5
      refine keeps_test (s := s) (hg.sub rfl) ?_
      with_reducible assumption
    clear_value v5
    refine @keeps_ite _ (Keeps g s0) _ _ _ _ ?_ ?_
    ·
      refine injectError_keeps (hg.sub rfl) _ _ ?_
      with_reducible assumption
    ·
      with_reducible assumption

theorem boardOnly_keeps (hg : Free 524288 g) : ∀ a0 s, (∀ t, Keeps g s0 t → Keeps g s0 (a0 t)) → Keeps g s0 s → Keeps g s0 (boardOnly a0 s) := by
  intro a0 s hk0 h
  unfold boardOnly
  refine @keeps_ite _ (Keeps g s0) _ _ _ _ ?_ ?_
  ·
    with_reducible assumption
  ·
    refine @keeps_ite _ (Keeps g s0) _ _ _ _ ?_ ?_
    ·
      refine hk0 _ ?_
      with_reducible assumption
    ·
      refine bypass_keeps (hg.sub rfl) _ ?_
      with_reducible assumption

theorem execClamp_keeps (hg : Free 524288 g) : ∀ s, Keeps g s0 s → KeepsN g s0 (execClamp s) := by
  intro s h
  unfold execClamp
  refine KeepsN.next ?_
  refine boardOnly_keeps (hg.sub rfl) _ _ (fun x1 h2 => ?_) ?_
  ·
    refine loadIr_keeps (hg.sub rfl) _ _ _ _ _ ?_
    with_reducible assumption
  ·
    with_reducible assumption

theorem execLinkClear_keeps (hg : Free 2148007936 g) : ∀ a0 s, Keeps g s0 s → KeepsN g s0 (execLinkClear a0 s) := by
  intro a0 s h
  unfold execLinkClear
  refine KeepsN.next ?_
  refine @keeps_ite _ (Keeps g s0) _ _ _ _ ?_ ?_
  ·
    refine clearLink_keeps (hg.sub rfl) _ _ ?_
    with_reducible assumption
  ·
    with_reducible assumption

theorem execExtestPulse_keeps (hg : Free 524288 g) : ∀ s, Keeps g s0 s → KeepsN g s0 (execExtestPulse s) := by
  intro s h
  unfold execExtestPulse
  refine KeepsN.next ?_
  refine boardOnly_keeps (hg.sub rfl) _ _ (fun x1 h2 => ?_) ?_
  ·
    refine loadIr_keeps (hg.sub rfl) _ _ _ _ _ ?_
    with_reducible assumption
  ·
    with_reducible assumption

theorem execHighz_keeps (hg : Free 524288 g) : ∀ s, Keeps g s0 s → KeepsN g s0 (execHighz s) := by
  intro s h
  unfold execHighz
  refine KeepsN.next ?_
  refine boardOnly_keeps (hg.sub rfl) _ _ (fun x1 h2 => ?_) ?_
  ·
    refine loadIr_keeps (hg.sub rfl) _ _ _ _ _ ?_
    with_reducible assumption
  ·
    with_reducible assumption

theorem execIdcode_keeps (hg : Free 134742016 g) : ∀ s, Keeps g s0 s → KeepsN g s0 (execIdcode s) := by
  intro s h
  unfold execIdcode
  refine KeepsN.next ?_
  refine @keeps_ite _ (Keeps g s0) _ _ _ _ ?_ ?_
  ·
    refine emit_keeps (hg.sub rfl) _ _ ?_
    refine loadIr_keeps (hg.sub rfl) _ _ _ _ _ ?_
    with_reducible assumption
  ·
    with_reducible assumption

theorem execLinkTest_keeps (hg : Free 2148007936 g) : ∀ a0 s, Keeps g s0 s → KeepsN g s0 (execLinkTest a0 s) := by
  intro a0 s h
  unfold execLinkTest
  refine KeepsN.next ?_
  refine boardOnly_keeps (hg.sub rfl) _ _ (fun x1 h2 => ?_) ?_
  ·
    extract_lets +onlyGivenNames v3
    refine Keeps.cut (g := g) (s0 := s0) v3 ?_ (fun h4 => ?_)
    ·
      unfold v3
      refine loadIr_keeps (hg.sub rfl) _ _ _ _ _ ?_
      with_reducible assumption
    clear_value v3
    split
    ·
      rename_i y5
      with_reducible assumption
    ·
      rename_i y6 y7 y8
      refine writeLane_keeps (hg.sub rfl) _ _ _ ?_
      with_reducible assumption
    ·
      rename_i y9 y10 y11
      refine writeLinkCtl_keeps (hg.sub rfl) _ _ _ ?_
      with_reducible assumption
  ·
    with_reducible assumption

theorem execExtest_keeps (hg : Free 524288 g) : ∀ a0 s, Keeps g s0 s → KeepsN g s0 (execExtest a0 s) := by
  intro a0 s h
  unfold execExtest
  refine KeepsN.next ?_
  refine boardOnly_keeps (hg.sub rfl) _ _ (fun x1 h2 => ?_) ?_
  ·
    refine loadIr_keeps (hg.sub rfl) _ _ _ _ _ ?_
    refine keeps_test (s := x1) (hg.sub rfl) ?_
    with_reducible assumption
  ·
    with_reducible assumption

theorem execExtestTrain_keeps (hg : Free 524288 g) : ∀ s, Keeps g s0 s → KeepsN g s0 (execExtestTrain s) := by
  intro s h
  unfold execExtestTrain
  refine KeepsN.next ?_
  refine boardOnly_keeps (hg.sub rfl) _ _ (fun x1 h2 => ?_) ?_
  ·
    refine loadIr_keeps (hg.sub rfl) _ _ _ _ _ ?_
    with_reducible assumption
  ·
    with_reducible assumption

theorem exec_keeps (hg : Free 16642998271 g) : ∀ a0 s, Keeps g s0 s → KeepsN g s0 (exec a0 s) := by
  intro a0 s h
  unfold exec
  split
  ·
    rename_i y1 y2
    refine execStandbyGood_keeps (hg.sub rfl) _ _ ?_
    with_reducible assumption
  ·
    rename_i y3 y4
    refine execStandbyRetry_keeps (hg.sub rfl) _ _ ?_
    with_reducible assumption
  ·
    rename_i y5
    refine execFirmwareCheck_keeps (hg.sub rfl) _ ?_
    with_reducible assumption
  ·
    rename_i y6 y7 y8
    refine execStrapSampling_keeps (hg.sub rfl) _ _ _ ?_
    with_reducible assumption
  ·
    rename_i y9
    refine execHeadwaterCheck_keeps (hg.sub rfl) _ ?_
    with_reducible assumption
  ·
    rename_i y10 y11
    refine execMainRailsUp_keeps (hg.sub rfl) _ _ ?_
    with_reducible assumption
  ·
    rename_i y12 y13
    refine execRailRetry_keeps (hg.sub rfl) _ _ ?_
    with_reducible assumption
  ·
    rename_i y14
    refine execKeyUnwrap_keeps (hg.sub rfl) _ ?_
    with_reducible assumption
  ·
    rename_i y15
    refine execDieRelease_keeps (hg.sub rfl) _ ?_
    with_reducible assumption
  ·
    rename_i y16
    refine execBraidRunSettle_keeps (hg.sub rfl) _ ?_
    with_reducible assumption
  ·
    rename_i y17 y18 y19
    refine execDramTraining_keeps (hg.sub rfl) _ _ _ ?_
    with_reducible assumption
  ·
    rename_i y20 y21 y22
    refine execFlashScan_keeps (hg.sub rfl) _ _ _ ?_
    with_reducible assumption
  ·
    rename_i y23 y24 y25
    refine execSpateRestore_keeps (hg.sub rfl) _ _ _ ?_
    with_reducible assumption
  ·
    rename_i y26
    refine execReserveEraseComplete_keeps (hg.sub rfl) _ ?_
    with_reducible assumption
  ·
    rename_i y27 y28 y29 y30 y31
    refine execLinkTraining_keeps (hg.sub rfl) _ _ _ _ _ ?_
    with_reducible assumption
  ·
    rename_i y32 y33 y34 y35 y36
    refine execLinkTrainRetry_keeps (hg.sub rfl) _ _ _ _ _ ?_
    with_reducible assumption
  ·
    rename_i y37 y38 y39 y40
    refine execHelloFlit_keeps (hg.sub rfl) _ _ _ _ ?_
    with_reducible assumption
  ·
    rename_i y41
    refine execAgreementStartTimeout_keeps (hg.sub rfl) _ ?_
    with_reducible assumption
  ·
    rename_i y42 y43 y44 y45
    refine execHostLinkTrained_keeps (hg.sub rfl) _ _ _ _ ?_
    with_reducible assumption
  ·
    rename_i y46 y47
    refine execPerstDeassert_keeps (hg.sub rfl) _ _ ?_
    with_reducible assumption
  ·
    rename_i y48 y49
    refine execAnnounce_keeps (hg.sub rfl) _ _ ?_
    with_reducible assumption
  ·
    rename_i y50 y51 y52
    refine execSliceReadComplete_keeps (hg.sub rfl) _ _ _ ?_
    with_reducible assumption
  ·
    rename_i y53
    refine execAnnounceResend_keeps (hg.sub rfl) _ ?_
    with_reducible assumption
  ·
    rename_i y54 y55
    refine execSliceRedeliver_keeps (hg.sub rfl) _ _ ?_
    with_reducible assumption
  ·
    rename_i y56
    refine execAgreementWindowEnd_keeps (hg.sub rfl) _ ?_
    with_reducible assumption
  ·
    rename_i y57 y58
    refine execFlitSlot_keeps (hg.sub rfl) _ _ ?_
    with_reducible assumption
  ·
    rename_i y59 y60 y61
    refine execFlitReceived_keeps (hg.sub rfl) _ _ _ ?_
    with_reducible assumption
  ·
    rename_i y62 y63
    refine execNakTimeout_keeps (hg.sub rfl) _ _ ?_
    with_reducible assumption
  ·
    rename_i y64 y65
    refine execAckTimeout_keeps (hg.sub rfl) _ _ ?_
    with_reducible assumption
  ·
    rename_i y66 y67
    refine execRetrainComplete_keeps (hg.sub rfl) _ _ ?_
    with_reducible assumption
  ·
    rename_i y68 y69
    refine execRetrainFailed_keeps (hg.sub rfl) _ _ ?_
    with_reducible assumption
  ·
    rename_i y70 y71 y72 y73
    refine execLinkRejoinRetry_keeps (hg.sub rfl) _ _ _ _ ?_
    with_reducible assumption
  ·
    rename_i y74 y75 y76
    refine execLaneFailure_keeps (hg.sub rfl) _ _ _ ?_
    with_reducible assumption
  ·
    rename_i y77 y78
    refine execEmptyFlitDue_keeps (hg.sub rfl) _ _ ?_
    with_reducible assumption
  ·
    rename_i y79 y80
    refine execTagHoldoverExpiry_keeps (hg.sub rfl) _ _ ?_
    with_reducible assumption
  ·
    rename_i y81 y82 y83
    refine execHeldPageExpiry_keeps (hg.sub rfl) _ _ _ ?_
    with_reducible assumption
  ·
    rename_i y84 y85 y86
    refine execHoldRetry_keeps (hg.sub rfl) _ _ _ ?_
    with_reducible assumption
  ·
    rename_i y87 y88 y89 y90 y91
    refine execRangeCacheFill_keeps (hg.sub rfl) _ _ _ _ _ ?_
    with_reducible assumption
  ·
    rename_i y92 y93 y94
    refine execExtentCacheFill_keeps (hg.sub rfl) _ _ _ ?_
    with_reducible assumption
  ·
    rename_i y95
    refine execWeirSlot_keeps (hg.sub rfl) _ ?_
    with_reducible assumption
  ·
    rename_i y96
    refine execWeirPeriodBoundary_keeps (hg.sub rfl) _ ?_
    with_reducible assumption
  ·
    rename_i y97 y98
    refine execCombinationClose_keeps (hg.sub rfl) _ _ ?_
    with_reducible assumption
  ·
    rename_i y99 y100 y101
    refine execLoad_keeps (hg.sub rfl) _ _ _ ?_
    with_reducible assumption
  ·
    rename_i y102 y103
    refine execStore_keeps (hg.sub rfl) _ _ ?_
    with_reducible assumption
  ·
    rename_i y104 y105 y106
    refine execAtomic_keeps (hg.sub rfl) _ _ _ ?_
    with_reducible assumption
  ·
    rename_i y107 y108 y109
    refine execReduce_keeps (hg.sub rfl) _ _ _ ?_
    with_reducible assumption
  ·
    rename_i y110 y111
    refine execMcastStore_keeps (hg.sub rfl) _ _ ?_
    with_reducible assumption
  ·
    rename_i y112 y113 y114
    refine execConfRead_keeps (hg.sub rfl) _ _ _ ?_
    with_reducible assumption
  ·
    rename_i y115 y116 y117
    refine execConfAtomic_keeps (hg.sub rfl) _ _ _ ?_
    with_reducible assumption
  ·
    rename_i y118 y119
    refine execSluicePut_keeps (hg.sub rfl) _ _ ?_
    with_reducible assumption
  ·
    rename_i y120 y121 y122
    refine execSluiceGet_keeps (hg.sub rfl) _ _ _ ?_
    with_reducible assumption
  ·
    rename_i y123 y124 y125
    refine execSluiceFlushAge_keeps (hg.sub rfl) _ _ _ ?_
    with_reducible assumption
  ·
    rename_i y126 y127
    refine execPinMsg_keeps (hg.sub rfl) _ _ ?_
    with_reducible assumption
  ·
    rename_i y128 y129 y130
    refine execRdShared_keeps (hg.sub rfl) _ _ _ ?_
    with_reducible assumption
  ·
    rename_i y131 y132 y133
    refine execRdOwn_keeps (hg.sub rfl) _ _ _ ?_
    with_reducible assumption
  ·
    rename_i y134 y135 y136
    refine execUpgrade_keeps (hg.sub rfl) _ _ _ ?_
    with_reducible assumption
  ·
    rename_i y137 y138
    refine execMarkDirty_keeps (hg.sub rfl) _ _ ?_
    with_reducible assumption
  ·
    rename_i y139 y140
    refine execWbDirty_keeps (hg.sub rfl) _ _ ?_
    with_reducible assumption
  ·
    rename_i y141 y142
    refine execEvict_keeps (hg.sub rfl) _ _ ?_
    with_reducible assumption
  ·
    rename_i y143 y144
    refine execSnpInv_keeps (hg.sub rfl) _ _ ?_
    with_reducible assumption
  ·
    rename_i y145 y146
    refine execSnpData_keeps (hg.sub rfl) _ _ ?_
    with_reducible assumption
  ·
    rename_i y147 y148
    refine execSnpCur_keeps (hg.sub rfl) _ _ ?_
    with_reducible assumption
  ·
    rename_i y149 y150
    refine execSnpRsp_keeps (hg.sub rfl) _ _ ?_
    with_reducible assumption
  ·
    rename_i y151 y152
    refine execDomainNotice_keeps (hg.sub rfl) _ _ ?_
    with_reducible assumption
  ·
    rename_i y153 y154 y155 y156 y157
    refine execCxlMemRd_keeps (hg.sub rfl) _ _ _ _ _ ?_
    with_reducible assumption
  ·
    rename_i y158 y159 y160 y161 y162 y163
    refine execCxlMemWr_keeps (hg.sub rfl) _ _ _ _ _ _ ?_
    with_reducible assumption
  ·
    rename_i y164 y165 y166 y167
    refine execCxlMemClnEvct_keeps (hg.sub rfl) _ _ _ _ ?_
    with_reducible assumption
  ·
    rename_i y168 y169 y170 y171
    refine execCxlBiRsp_keeps (hg.sub rfl) _ _ _ _ ?_
    with_reducible assumption
  ·
    rename_i y172 y173 y174
    refine execProvisionalResolve_keeps (hg.sub rfl) _ _ _ ?_
    with_reducible assumption
  ·
    rename_i y175 y176
    refine execEvictionComplete_keeps (hg.sub rfl) _ _ ?_
    with_reducible assumption
  ·
    rename_i y177 y178
    refine execSnoopTimeout_keeps (hg.sub rfl) _ _ ?_
    with_reducible assumption
  ·
    rename_i y179 y180
    refine execPortDownTimeout_keeps (hg.sub rfl) _ _ ?_
    with_reducible assumption
  ·
    rename_i y181 y182
    refine execHostL0Timeout_keeps (hg.sub rfl) _ _ ?_
    with_reducible assumption
  ·
    rename_i y183 y184
    refine execCxlViral_keeps (hg.sub rfl) _ _ ?_
    with_reducible assumption
  ·
    rename_i y185 y186
    refine execTakedownComplete_keeps (hg.sub rfl) _ _ ?_
    with_reducible assumption
  ·
    rename_i y187
    refine execNoticeResend_keeps (hg.sub rfl) _ ?_
    with_reducible assumption
  ·
    rename_i y188 y189 y190
    refine execDomainRejoin_keeps (hg.sub rfl) _ _ _ ?_
    with_reducible assumption
  ·
    rename_i y191 y192 y193
    refine execMirrorSync_keeps (hg.sub rfl) _ _ _ ?_
    with_reducible assumption
  ·
    rename_i y194 y195
    refine execSyncCheckComplete_keeps (hg.sub rfl) _ _ ?_
    with_reducible assumption
  ·
    rename_i y196 y197
    refine execSyncDrained_keeps (hg.sub rfl) _ _ ?_
    with_reducible assumption
  ·
    rename_i y198
    refine execTeardown_keeps (hg.sub rfl) _ ?_
    with_reducible assumption
  ·
    rename_i y199
    refine execTeardownComplete_keeps (hg.sub rfl) _ ?_
    with_reducible assumption
  ·
    rename_i y200 y201 y202 y203
    refine execDemandFillComplete_keeps (hg.sub rfl) _ _ _ _ ?_
    with_reducible assumption
  ·
    rename_i y204 y205 y206
    refine execTierMoveComplete_keeps (hg.sub rfl) _ _ _ ?_
    with_reducible assumption
  ·
    rename_i y207 y208
    refine execSteer_keeps (hg.sub rfl) _ _ ?_
    with_reducible assumption
  ·
    rename_i y209
    refine execCounterEpoch_keeps (hg.sub rfl) _ ?_
    with_reducible assumption
  ·
    rename_i y210 y211
    refine execScrub_keeps (hg.sub rfl) _ _ ?_
    with_reducible assumption
  ·
    rename_i y212 y213
    refine execCleanWater_keeps (hg.sub rfl) _ _ ?_
    with_reducible assumption
  ·
    rename_i y214 y215
    refine execParkedWriteRelease_keeps (hg.sub rfl) _ _ ?_
    with_reducible assumption
  ·
    rename_i y216 y217
    refine execWriteThroughProgrammed_keeps (hg.sub rfl) _ _ ?_
    with_reducible assumption
  ·
    rename_i y218
    refine execPfwAssert_keeps (hg.sub rfl) _ ?_
    with_reducible assumption
  ·
    rename_i y219
    refine execInputSag_keeps (hg.sub rfl) _ ?_
    with_reducible assumption
  ·
    rename_i y220
    refine execInputRecovered_keeps (hg.sub rfl) _ ?_
    with_reducible assumption
  ·
    rename_i y221
    refine execBraceAssert_keeps (hg.sub rfl) _ ?_
    with_reducible assumption
  ·
    rename_i y222 y223 y224 y225
    refine execShockSample_keeps (hg.sub rfl) _ _ _ _ ?_
    with_reducible assumption
  ·
    rename_i y226
    refine execSerdesOff_keeps (hg.sub rfl) _ ?_
    with_reducible assumption
  ·
    rename_i y227
    refine execFlushDone_keeps (hg.sub rfl) _ ?_
    with_reducible assumption
  ·
    rename_i y228
    refine execEarlyFlushComplete_keeps (hg.sub rfl) _ ?_
    with_reducible assumption
  ·
    rename_i y229
    refine execFlushLowInput_keeps (hg.sub rfl) _ ?_
    with_reducible assumption
  ·
    rename_i y230
    refine execPostFlushReboot_keeps (hg.sub rfl) _ ?_
    with_reducible assumption
  ·
    rename_i y231
    refine execBraceHoldoffEnd_keeps (hg.sub rfl) _ ?_
    with_reducible assumption
  ·
    rename_i y232
    refine execHotSwapTrip_keeps (hg.sub rfl) _ ?_
    with_reducible assumption
  ·
    rename_i y233 y234 y235
    refine execConfigure_keeps (hg.sub rfl) _ _ _ ?_
    with_reducible assumption
  ·
    rename_i y236 y237 y238
    refine execEnable_keeps (hg.sub rfl) _ _ _ ?_
    with_reducible assumption
  ·
    rename_i y239 y240 y241
    refine execDisable_keeps (hg.sub rfl) _ _ _ ?_
    with_reducible assumption
  ·
    rename_i y242 y243 y244
    refine execAbort_keeps (hg.sub rfl) _ _ _ ?_
    with_reducible assumption
  ·
    rename_i y245 y246 y247
    refine execRillQuery_keeps (hg.sub rfl) _ _ _ ?_
    with_reducible assumption
  ·
    rename_i y248 y249 y250
    refine execDoorbell_keeps (hg.sub rfl) _ _ _ ?_
    with_reducible assumption
  ·
    rename_i y251 y252
    refine execRillCacheFill_keeps (hg.sub rfl) _ _ ?_
    with_reducible assumption
  ·
    rename_i y253 y254
    refine execDescriptorStart_keeps (hg.sub rfl) _ _ ?_
    with_reducible assumption
  ·
    rename_i y255 y256 y257
    refine execCompletionRecord_keeps (hg.sub rfl) _ _ _ ?_
    with_reducible assumption
  ·
    rename_i y258 y259
    refine execDrainComplete_keeps (hg.sub rfl) _ _ ?_
    with_reducible assumption
  ·
    rename_i y260 y261 y262
    refine execCopy_keeps (hg.sub rfl) _ _ _ ?_
    with_reducible assumption
  ·
    rename_i y263 y264 y265 y266 y267
    refine execChunkLanded_keeps (hg.sub rfl) _ _ _ _ _ ?_
    with_reducible assumption
  ·
    rename_i y268 y269 y270
    refine execAdvance_keeps (hg.sub rfl) _ _ _ ?_
    with_reducible assumption
  ·
    rename_i y271 y272 y273
    refine execReachSet_keeps (hg.sub rfl) _ _ _ ?_
    with_reducible assumption
  ·
    rename_i y274 y275 y276
    refine execReachFrame_keeps (hg.sub rfl) _ _ _ ?_
    with_reducible assumption
  ·
    rename_i y277
    refine execTideMarker_keeps (hg.sub rfl) _ ?_
    with_reducible assumption
  ·
    rename_i y278
    refine execTideLoss_keeps (hg.sub rfl) _ ?_
    with_reducible assumption
  ·
    rename_i y279 y280 y281
    refine execRunTable_keeps (hg.sub rfl) _ _ _ ?_
    with_reducible assumption
  ·
    rename_i y282 y283 y284
    refine execConvert_keeps (hg.sub rfl) _ _ _ ?_
    with_reducible assumption
  ·
    rename_i y285 y286 y287
    refine execMillReduce_keeps (hg.sub rfl) _ _ _ ?_
    with_reducible assumption
  ·
    rename_i y288 y289 y290
    refine execShoalEncode_keeps (hg.sub rfl) _ _ _ ?_
    with_reducible assumption
  ·
    rename_i y291 y292 y293
    refine execCodebookBuild_keeps (hg.sub rfl) _ _ _ ?_
    with_reducible assumption
  ·
    rename_i y294 y295 y296 y297
    refine execPieceComplete_keeps (hg.sub rfl) _ _ _ _ ?_
    with_reducible assumption
  ·
    rename_i y298 y299
    refine execNop_keeps (hg.sub rfl) _ _ ?_
    with_reducible assumption
  ·
    rename_i y300 y301
    refine execStepEnd_keeps (hg.sub rfl) _ _ ?_
    with_reducible assumption
  ·
    rename_i y302 y303
    refine execSetlc_keeps (hg.sub rfl) _ _ ?_
    with_reducible assumption
  ·
    rename_i y304 y305
    refine execLoopStep_keeps (hg.sub rfl) _ _ ?_
    with_reducible assumption
  ·
    rename_i y306 y307
    refine execSetf_keeps (hg.sub rfl) _ _ ?_
    with_reducible assumption
  ·
    rename_i y308 y309
    refine execWaitStep_keeps (hg.sub rfl) _ _ ?_
    with_reducible assumption
  ·
    rename_i y310 y311 y312
    refine execWaitPoll_keeps (hg.sub rfl) _ _ _ ?_
    with_reducible assumption
  ·
    rename_i y313 y314
    refine execFence_keeps (hg.sub rfl) _ _ ?_
    with_reducible assumption
  ·
    rename_i y315 y316
    refine execSalu_keeps (hg.sub rfl) _ _ ?_
    with_reducible assumption
  ·
    rename_i y317 y318
    refine execSld_keeps (hg.sub rfl) _ _ ?_
    with_reducible assumption
  ·
    rename_i y319 y320
    refine execLd_keeps (hg.sub rfl) _ _ ?_
    with_reducible assumption
  ·
    rename_i y321 y322
    refine execSt_keeps (hg.sub rfl) _ _ ?_
    with_reducible assumption
  ·
    rename_i y323 y324
    refine execAtom_keeps (hg.sub rfl) _ _ ?_
    with_reducible assumption
  ·
    rename_i y325 y326
    refine execRed_keeps (hg.sub rfl) _ _ ?_
    with_reducible assumption
  ·
    rename_i y327 y328
    refine execMcast_keeps (hg.sub rfl) _ _ ?_
    with_reducible assumption
  ·
    rename_i y329 y330
    refine execGather_keeps (hg.sub rfl) _ _ ?_
    with_reducible assumption
  ·
    rename_i y331 y332
    refine execMemoryStepLanded_keeps (hg.sub rfl) _ _ ?_
    with_reducible assumption
  ·
    rename_i y333 y334
    refine execMillProvisionalResolve_keeps (hg.sub rfl) _ _ ?_
    with_reducible assumption
  ·
    rename_i y335 y336
    refine execVmov_keeps (hg.sub rfl) _ _ ?_
    with_reducible assumption
  ·
    rename_i y337 y338
    refine execVcvt_keeps (hg.sub rfl) _ _ ?_
    with_reducible assumption
  ·
    rename_i y339 y340
    refine execValu_keeps (hg.sub rfl) _ _ ?_
    with_reducible assumption
  ·
    rename_i y341 y342
    refine execVdot_keeps (hg.sub rfl) _ _ ?_
    with_reducible assumption
  ·
    rename_i y343 y344
    refine execVred_keeps (hg.sub rfl) _ _ ?_
    with_reducible assumption
  ·
    rename_i y345 y346
    refine execVfn_keeps (hg.sub rfl) _ _ ?_
    with_reducible assumption
  ·
    rename_i y347 y348
    refine execLubuild_keeps (hg.sub rfl) _ _ ?_
    with_reducible assumption
  ·
    rename_i y349 y350
    refine execLuscore_keeps (hg.sub rfl) _ _ ?_
    with_reducible assumption
  ·
    rename_i y351 y352
    refine execLubin_keeps (hg.sub rfl) _ _ ?_
    with_reducible assumption
  ·
    rename_i y353 y354
    refine execCqins_keeps (hg.sub rfl) _ _ ?_
    with_reducible assumption
  ·
    rename_i y355 y356
    refine execCqpop_keeps (hg.sub rfl) _ _ ?_
    with_reducible assumption
  ·
    rename_i y357 y358
    refine execCqout_keeps (hg.sub rfl) _ _ ?_
    with_reducible assumption
  ·
    rename_i y359 y360
    refine execCqclr_keeps (hg.sub rfl) _ _ ?_
    with_reducible assumption
  ·
    rename_i y361 y362 y363
    refine execInstall_keeps (hg.sub rfl) _ _ _ ?_
    with_reducible assumption
  ·
    rename_i y364 y365 y366
    refine execRelease_keeps (hg.sub rfl) _ _ _ ?_
    with_reducible assumption
  ·
    rename_i y367 y368 y369
    refine execCbQuery_keeps (hg.sub rfl) _ _ _ ?_
    with_reducible assumption
  ·
    rename_i y370 y371 y372
    refine execCodebookBaseWrite_keeps (hg.sub rfl) _ _ _ ?_
    with_reducible assumption
  ·
    rename_i y373 y374
    refine execSlotFreed_keeps (hg.sub rfl) _ _ ?_
    with_reducible assumption
  ·
    rename_i y375 y376
    refine execExpandBlock_keeps (hg.sub rfl) _ _ ?_
    with_reducible assumption
  ·
    rename_i y377 y378 y379
    refine execCodebookMissFill_keeps (hg.sub rfl) _ _ _ ?_
    with_reducible assumption
  ·
    rename_i y380 y381 y382 y383
    refine execEddyReadLine_keeps (hg.sub rfl) _ _ _ _ ?_
    with_reducible assumption
  ·
    rename_i y384 y385 y386
    refine execAttend_keeps (hg.sub rfl) _ _ _ ?_
    with_reducible assumption
  ·
    rename_i y387 y388 y389 y390 y391 y392
    refine execUnitSpanComplete_keeps (hg.sub rfl) _ _ _ _ _ _ ?_
    with_reducible assumption
  ·
    rename_i y393 y394 y395
    refine execAttnAdmit_keeps (hg.sub rfl) _ _ _ ?_
    with_reducible assumption
  ·
    rename_i y396 y397 y398
    refine execAppend_keeps (hg.sub rfl) _ _ _ ?_
    with_reducible assumption
  ·
    rename_i y399 y400 y401
    refine execRetire_keeps (hg.sub rfl) _ _ _ ?_
    with_reducible assumption
  ·
    rename_i y402 y403 y404
    refine execBuildBooks_keeps (hg.sub rfl) _ _ _ ?_
    with_reducible assumption
  ·
    rename_i y405 y406 y407
    refine execLookup_keeps (hg.sub rfl) _ _ _ ?_
    with_reducible assumption
  ·
    rename_i y408 y409 y410
    refine execUpdate_keeps (hg.sub rfl) _ _ _ ?_
    with_reducible assumption
  ·
    rename_i y411 y412 y413
    refine execEmbedCommit_keeps (hg.sub rfl) _ _ _ ?_
    with_reducible assumption
  ·
    rename_i y414 y415 y416
    refine execPiecePosted_keeps (hg.sub rfl) _ _ _ ?_
    with_reducible assumption
  ·
    rename_i y417 y418 y419
    refine execOwnerCommit_keeps (hg.sub rfl) _ _ _ ?_
    with_reducible assumption
  ·
    rename_i y420 y421 y422
    refine execProgressBeat_keeps (hg.sub rfl) _ _ _ ?_
    with_reducible assumption
  ·
    rename_i y423 y424 y425
    refine execReply_keeps (hg.sub rfl) _ _ _ ?_
    with_reducible assumption
  ·
    rename_i y426 y427 y428
    refine execSearchQuery_keeps (hg.sub rfl) _ _ _ ?_
    with_reducible assumption
  ·
    rename_i y429 y430 y431
    refine execInsert_keeps (hg.sub rfl) _ _ _ ?_
    with_reducible assumption
  ·
    rename_i y432 y433 y434
    refine execDelete_keeps (hg.sub rfl) _ _ _ ?_
    with_reducible assumption
  ·
    rename_i y435 y436 y437
    refine execIndexAdvance_keeps (hg.sub rfl) _ _ _ ?_
    with_reducible assumption
  ·
    rename_i y438 y439 y440
    refine execCheck_keeps (hg.sub rfl) _ _ _ ?_
    with_reducible assumption
  ·
    rename_i y441 y442
    refine execMirrorBatchClose_keeps (hg.sub rfl) _ _ ?_
    with_reducible assumption
  ·
    rename_i y443 y444
    refine execMirrorBatchAcked_keeps (hg.sub rfl) _ _ ?_
    with_reducible assumption
  ·
    rename_i y445 y446
    refine execMirrorLinkDown_keeps (hg.sub rfl) _ _ ?_
    with_reducible assumption
  ·
    rename_i y447 y448
    refine execMirrorLinkReturn_keeps (hg.sub rfl) _ _ ?_
    with_reducible assumption
  ·
    rename_i y449 y450 y451
    refine execLagExceeded_keeps (hg.sub rfl) _ _ _ ?_
    with_reducible assumption
  ·
    rename_i y452 y453
    refine execOwnerLost_keeps (hg.sub rfl) _ _ ?_
    with_reducible assumption
  ·
    rename_i y454 y455
    refine execFlr_keeps (hg.sub rfl) _ _ ?_
    with_reducible assumption
  ·
    rename_i y456 y457
    refine execPartyReset_keeps (hg.sub rfl) _ _ ?_
    with_reducible assumption
  ·
    rename_i y458 y459
    refine execCxlReset_keeps (hg.sub rfl) _ _ ?_
    with_reducible assumption
  ·
    rename_i y460 y461
    refine execHotReset_keeps (hg.sub rfl) _ _ ?_
    with_reducible assumption
  ·
    rename_i y462 y463 y464 y465
    refine execRegisterWrite_keeps (hg.sub rfl) _ _ _ _ ?_
    with_reducible assumption
  ·
    rename_i y466
    refine execGetInfo_keeps (hg.sub rfl) _ ?_
    with_reducible assumption
  ·
    rename_i y467 y468
    refine execGetLog_keeps (hg.sub rfl) _ _ ?_
    with_reducible assumption
  ·
    rename_i y469 y470
    refine execGetSeal_keeps (hg.sub rfl) _ _ ?_
    with_reducible assumption
  ·
    rename_i y471 y472
    refine execDiagRead_keeps (hg.sub rfl) _ _ ?_
    with_reducible assumption
  ·
    rename_i y473 y474
    refine execClearAlert_keeps (hg.sub rfl) _ _ ?_
    with_reducible assumption
  ·
    rename_i y475 y476
    refine execSetLimit_keeps (hg.sub rfl) _ _ ?_
    with_reducible assumption
  ·
    rename_i y477
    refine execEarlyFlush_keeps (hg.sub rfl) _ ?_
    with_reducible assumption
  ·
    rename_i y478
    refine execEndBrace_keeps (hg.sub rfl) _ ?_
    with_reducible assumption
  ·
    rename_i y479 y480
    refine execTideLoad_keeps (hg.sub rfl) _ _ ?_
    with_reducible assumption
  ·
    rename_i y481
    refine execClearFault_keeps (hg.sub rfl) _ ?_
    with_reducible assumption
  ·
    rename_i y482
    refine execShutdown_keeps (hg.sub rfl) _ ?_
    with_reducible assumption
  ·
    rename_i y483
    refine execWarmReboot_keeps (hg.sub rfl) _ ?_
    with_reducible assumption
  ·
    rename_i y484
    refine execColdReboot_keeps (hg.sub rfl) _ ?_
    with_reducible assumption
  ·
    rename_i y485
    refine execPowerOn_keeps (hg.sub rfl) _ ?_
    with_reducible assumption
  ·
    rename_i y486
    refine execCommit_keeps (hg.sub rfl) _ ?_
    with_reducible assumption
  ·
    rename_i y487
    refine execRevert_keeps (hg.sub rfl) _ ?_
    with_reducible assumption
  ·
    rename_i y488 y489
    refine execCommitDelayExpiry_keeps (hg.sub rfl) _ _ ?_
    with_reducible assumption
  ·
    rename_i y490 y491 y492 y493 y494
    refine execProvisionKey_keeps (hg.sub rfl) _ _ _ _ _ ?_
    with_reducible assumption
  ·
    rename_i y495
    refine execLockInstall_keeps (hg.sub rfl) _ ?_
    with_reducible assumption
  ·
    rename_i y496 y497 y498
    refine execRevokeKey_keeps (hg.sub rfl) _ _ _ ?_
    with_reducible assumption
  ·
    rename_i y499 y500
    refine execSanitize_keeps (hg.sub rfl) _ _ ?_
    with_reducible assumption
  ·
    rename_i y501 y502
    refine execSetEndpointId_keeps (hg.sub rfl) _ _ ?_
    with_reducible assumption
  ·
    rename_i y503 y504
    refine execRequestUpdate_keeps (hg.sub rfl) _ _ ?_
    with_reducible assumption
  ·
    rename_i y505 y506
    refine execVerifyComplete_keeps (hg.sub rfl) _ _ ?_
    with_reducible assumption
  ·
    rename_i y507
    refine execActivateFirmware_keeps (hg.sub rfl) _ ?_
    with_reducible assumption
  ·
    rename_i y508 y509
    refine execKeySweepComplete_keeps (hg.sub rfl) _ _ ?_
    with_reducible assumption
  ·
    rename_i y510 y511
    refine execGetVersion_keeps (hg.sub rfl) _ _ ?_
    with_reducible assumption
  ·
    rename_i y512 y513
    refine execGetCapabilities_keeps (hg.sub rfl) _ _ ?_
    with_reducible assumption
  ·
    rename_i y514 y515 y516 y517
    refine execNegotiateAlgorithms_keeps (hg.sub rfl) _ _ _ _ ?_
    with_reducible assumption
  ·
    rename_i y518 y519
    refine execGetDigests_keeps (hg.sub rfl) _ _ ?_
    with_reducible assumption
  ·
    rename_i y520 y521 y522 y523 y524
    refine execGetCertificate_keeps (hg.sub rfl) _ _ _ _ _ ?_
    with_reducible assumption
  ·
    rename_i y525 y526 y527
    refine execChallenge_keeps (hg.sub rfl) _ _ _ ?_
    with_reducible assumption
  ·
    rename_i y528 y529 y530 y531 y532
    refine execGetMeasurements_keeps (hg.sub rfl) _ _ _ _ _ ?_
    with_reducible assumption
  ·
    rename_i y533 y534 y535
    refine execGetSlhChain_keeps (hg.sub rfl) _ _ _ ?_
    with_reducible assumption
  ·
    rename_i y536 y537 y538
    refine execGetSlhSig_keeps (hg.sub rfl) _ _ _ ?_
    with_reducible assumption
  ·
    rename_i y539 y540 y541
    refine execSlhSignComplete_keeps (hg.sub rfl) _ _ _ ?_
    with_reducible assumption
  ·
    rename_i y542
    refine execKeeperWatchdog_keeps (hg.sub rfl) _ ?_
    with_reducible assumption
  ·
    rename_i y543 y544 y545 y546
    refine execSensorSample_keeps (hg.sub rfl) _ _ _ _ ?_
    with_reducible assumption
  ·
    rename_i y547
    refine execAlarmShutdown_keeps (hg.sub rfl) _ ?_
    with_reducible assumption
  ·
    rename_i y548
    refine execCondensationAlarm_keeps (hg.sub rfl) _ ?_
    with_reducible assumption
  ·
    rename_i y549 y550 y551 y552
    refine execCapWindow_keeps (hg.sub rfl) _ _ _ _ ?_
    with_reducible assumption
  ·
    rename_i y553
    refine execLogWrite_keeps (hg.sub rfl) _ ?_
    with_reducible assumption
  ·
    rename_i y554 y555
    refine execLogSeal_keeps (hg.sub rfl) _ _ ?_
    with_reducible assumption
  ·
    rename_i y556 y557
    refine execExtest_keeps (hg.sub rfl) _ _ ?_
    with_reducible assumption
  ·
    rename_i y558
    refine execIdcode_keeps (hg.sub rfl) _ ?_
    with_reducible assumption
  ·
    rename_i y559 y560 y561
    refine execSamplePreload_keeps (hg.sub rfl) _ _ _ ?_
    with_reducible assumption
  ·
    rename_i y562
    refine execClamp_keeps (hg.sub rfl) _ ?_
    with_reducible assumption
  ·
    rename_i y563
    refine execHighz_keeps (hg.sub rfl) _ ?_
    with_reducible assumption
  ·
    rename_i y564
    refine execExtestPulse_keeps (hg.sub rfl) _ ?_
    with_reducible assumption
  ·
    rename_i y565
    refine execExtestTrain_keeps (hg.sub rfl) _ ?_
    with_reducible assumption
  ·
    rename_i y566 y567
    refine execLinkTest_keeps (hg.sub rfl) _ _ ?_
    with_reducible assumption
  ·
    rename_i y568 y569
    refine execBypass_keeps (hg.sub rfl) _ _ ?_
    with_reducible assumption
  ·
    rename_i y570 y571
    refine execInject_keeps (hg.sub rfl) _ _ ?_
    with_reducible assumption
  ·
    rename_i y572 y573
    refine execLinkClear_keeps (hg.sub rfl) _ _ ?_
    with_reducible assumption
  ·
    rename_i y574
    refine execKeeperRestart_keeps (hg.sub rfl) _ ?_
    with_reducible assumption
  ·
    rename_i y575
    refine execStandbyLost_keeps (hg.sub rfl) _ ?_
    with_reducible assumption
  ·
    rename_i y576
    refine execOffInputReturn_keeps (hg.sub rfl) _ ?_
    with_reducible assumption
  ·
    rename_i y577
    refine execBraceDeassert_keeps (hg.sub rfl) _ ?_
    with_reducible assumption
  ·
    rename_i y578 y579
    refine execFlushUnitProgrammed_keeps (hg.sub rfl) _ _ ?_
    with_reducible assumption
  ·
    rename_i y580 y581 y582 y583
    refine execCxlBiConflict_keeps (hg.sub rfl) _ _ _ _ ?_
    with_reducible assumption
  ·
    rename_i y584 y585 y586
    refine execHostPortLeavesL0_keeps (hg.sub rfl) _ _ _ ?_
    with_reducible assumption
  ·
    rename_i y587
    refine execTideTick_keeps (hg.sub rfl) _ ?_
    with_reducible assumption
  ·
    rename_i y588 y589
    refine execCheckerLock_keeps (hg.sub rfl) _ _ ?_
    with_reducible assumption
  ·
    rename_i y590 y591
    refine execRespondIfReady_keeps (hg.sub rfl) _ _ ?_
    with_reducible assumption
  ·
    rename_i y592 y593 y594 y595 y596
    refine execSpdmChunk_keeps (hg.sub rfl) _ _ _ _ _ ?_
    with_reducible assumption
  ·
    rename_i y597 y598 y599
    refine execSpdmUnsupportedRequest_keeps (hg.sub rfl) _ _ _ ?_
    with_reducible assumption
  ·
    rename_i y600 y601 y602
    refine execMailboxCommand_keeps (hg.sub rfl) _ _ _ ?_
    with_reducible assumption
  ·
    rename_i y603 y604 y605 y606
    refine execPcieDmaCompletion_keeps (hg.sub rfl) _ _ _ _ ?_
    with_reducible assumption

theorem step_keeps (hg : Free 17179869183 g) : ∀ s, Keeps g s0 s → KeepsN g s0 (step s) := by
  intro s h
  unfold step
  split
  ·
    rename_i y1 y2
    refine KeepsN.next ?_
    with_reducible assumption
  ·
    rename_i y3 y4 y5 y6
    refine exec_keeps (hg.sub rfl) _ _ ?_
    refine keeps_pending (s := s) (hg.sub rfl) ?_
    with_reducible assumption

theorem State.withFetchWord_keeps (hg : Free 536870912 g) : ∀ s a1 a2, Keeps g s0 s → Keeps g s0 (State.withFetchWord s a1 a2) := by
  intro s a1 a2 h
  unfold State.withFetchWord
  split
  ·
    rename_i y1 y2 y3
    refine keeps_pending (s := s) (hg.sub rfl) ?_
    with_reducible assumption
  ·
    rename_i y4 y5
    with_reducible assumption

end Sys2Proof.Safety
end

