-- ==== Sys2Proof/Laws/PerInstr.lean ====
section
/-!
SUPPORT. Statements about every command as syntax, one lemma per command: the rill a well-formed command names is a rill of the table.
-/
namespace Sys2Proof.Laws.Operands

open Sys2Proof

set_option Elab.async false

/-- The rill that a well-formed command names is one of the 65,536 rills of the table (R206). -/
def Statement (i : Instr) : Prop := wellFormed i = true → ∀ r, rillOf i = some r → r < 65536

theorem standbyGood (good : Bool) : Statement (.standbyGood good) := fun _ _ e => nomatch e

theorem standbyRetry (good : Bool) : Statement (.standbyRetry good) := fun _ _ e => nomatch e

theorem firmwareCheck : Statement (.firmwareCheck) := fun _ _ e => nomatch e

theorem strapSampling (rounds : List (List (BitVec 8))) (testModeLow : Bool) : Statement (.strapSampling rounds testModeLow) := fun _ _ e => nomatch e

theorem headwaterCheck : Statement (.headwaterCheck) := fun _ _ e => nomatch e

theorem mainRailsUp (good : Bool) : Statement (.mainRailsUp good) := fun _ _ e => nomatch e

theorem railRetry (good : Bool) : Statement (.railRetry good) := fun _ _ e => nomatch e

theorem keyUnwrap : Statement (.keyUnwrap) := fun _ _ e => nomatch e

theorem dieRelease : Statement (.dieRelease) := fun _ _ e => nomatch e

theorem braidRunSettle : Statement (.braidRunSettle) := fun _ _ e => nomatch e

theorem dramTraining (failed : Option (Fin 8 × Fin 64)) (savedGood : Bool) : Statement (.dramTraining failed savedGood) := fun _ _ e => nomatch e

theorem flashScan (mapGood : Bool) (rebuilt : List (Fin 32 × Nat × Nat)) : Statement (.flashScan mapGood rebuilt) := fun _ _ e => nomatch e

theorem spateRestore (badUnits : List Nat) (mapReadable : Bool) : Statement (.spateRestore badUnits mapReadable) := fun _ _ e => nomatch e

theorem reserveEraseComplete : Statement (.reserveEraseComplete) := fun _ _ e => nomatch e

theorem linkTraining (link : Fin 32) (mated : Bool) (prbsGood : Bool) (flitGood : Bool) : Statement (.linkTraining link mated prbsGood flitGood) := fun _ _ e => nomatch e

theorem linkTrainRetry (link : Fin 32) (mated : Bool) (prbsGood : Bool) (flitGood : Bool) : Statement (.linkTrainRetry link mated prbsGood flitGood) := fun _ _ e => nomatch e

theorem helloFlit (link : Fin 32) (word0 : W64) (credits : W64) : Statement (.helloFlit link word0 credits) := fun _ _ e => nomatch e

theorem agreementStartTimeout : Statement (.agreementStartTimeout) := fun _ _ e => nomatch e

theorem hostLinkTrained (port : Fin 2) (rateX2 : Nat) (width : Nat) : Statement (.hostLinkTrained port rateX2 width) := fun _ _ e => nomatch e

theorem perstDeassert (port : Fin 2) : Statement (.perstDeassert port) := fun _ _ e => nomatch e

theorem announce (a : Announcement) : Statement (.announce a) := fun _ _ e => nomatch e

theorem sliceReadComplete (node : Fin 1024) (got : Option Slice) : Statement (.sliceReadComplete node got) := fun _ _ e => nomatch e

theorem announceResend : Statement (.announceResend) := fun _ _ e => nomatch e

theorem sliceRedeliver (node : Fin 1024) : Statement (.sliceRedeliver node) := fun _ _ e => nomatch e

theorem agreementWindowEnd : Statement (.agreementWindowEnd) := fun _ _ e => nomatch e

theorem flitSlot (link : Fin 32) : Statement (.flitSlot link) := fun _ _ e => nomatch e

theorem flitReceived (link : Fin 32) (flit : Flit) : Statement (.flitReceived link flit) := fun _ _ e => nomatch e

theorem nakTimeout (link : Fin 32) : Statement (.nakTimeout link) := fun _ _ e => nomatch e

theorem ackTimeout (link : Fin 32) : Statement (.ackTimeout link) := fun _ _ e => nomatch e

theorem retrainComplete (link : Fin 32) : Statement (.retrainComplete link) := fun _ _ e => nomatch e

theorem retrainFailed (link : Fin 32) : Statement (.retrainFailed link) := fun _ _ e => nomatch e

theorem linkRejoinRetry (link : Fin 32) (prbsGood : Bool) (flitGood : Bool) : Statement (.linkRejoinRetry link prbsGood flitGood) := fun _ _ e => nomatch e

theorem laneFailure (link : Fin 32) (lane : Fin 4) : Statement (.laneFailure link lane) := fun _ _ e => nomatch e

theorem emptyFlitDue (link : Fin 32) : Statement (.emptyFlitDue link) := fun _ _ e => nomatch e

theorem tagHoldoverExpiry (link : Fin 32) : Statement (.tagHoldoverExpiry link) := fun _ _ e => nomatch e

theorem heldPageExpiry (link : Fin 32) (page : Nat) : Statement (.heldPageExpiry link page) := fun _ _ e => nomatch e

theorem holdRetry (port : Fin 10) (tag : BitVec 16) : Statement (.holdRetry port tag) := fun _ _ e => nomatch e

theorem rangeCacheFill (race : Fin 8) (party : Fin 8) (asid : Fin 4096) (va : BitVec 57) : Statement (.rangeCacheFill race party asid va) := fun _ _ e => nomatch e

theorem extentCacheFill (race : Fin 8) (offset : BitVec 52) : Statement (.extentCacheFill race offset) := fun _ _ e => nomatch e

theorem weirSlot : Statement (.weirSlot) := fun _ _ e => nomatch e

theorem weirPeriodBoundary : Statement (.weirPeriodBoundary) := fun _ _ e => nomatch e

theorem combinationClose (index : Nat) : Statement (.combinationClose index) := fun _ _ e => nomatch e

theorem load (r : Req) (ecc : Ecc) : Statement (.load r ecc) := fun _ _ e => nomatch e

theorem store (r : Req) : Statement (.store r) := fun _ _ e => nomatch e

theorem atomic (r : Req) (ecc : Ecc) : Statement (.atomic r ecc) := fun _ _ e => nomatch e

theorem reduce (r : Req) (ecc : Ecc) : Statement (.reduce r ecc) := fun _ _ e => nomatch e

theorem mcastStore (r : Req) : Statement (.mcastStore r) := fun _ _ e => nomatch e

theorem confRead (r : Req) (ecc : Ecc) : Statement (.confRead r ecc) := fun _ _ e => nomatch e

theorem confAtomic (r : Req) (ecc : Ecc) : Statement (.confAtomic r ecc) := fun _ _ e => nomatch e

theorem sluicePut (r : Req) : Statement (.sluicePut r) := fun _ _ e => nomatch e

theorem sluiceGet (r : Req) (ecc : Ecc) : Statement (.sluiceGet r ecc) := fun _ _ e => nomatch e

theorem sluiceFlushAge (window : Fin 64) (block : Nat) : Statement (.sluiceFlushAge window block) := fun _ _ e => nomatch e

theorem pinMsg (r : Req) : Statement (.pinMsg r) := fun _ _ e => nomatch e

theorem rdShared (r : Req) (ecc : Ecc) : Statement (.rdShared r ecc) := fun _ _ e => nomatch e

theorem rdOwn (r : Req) (ecc : Ecc) : Statement (.rdOwn r ecc) := fun _ _ e => nomatch e

theorem upgrade (r : Req) (ecc : Ecc) : Statement (.upgrade r ecc) := fun _ _ e => nomatch e

theorem markDirty (r : Req) : Statement (.markDirty r) := fun _ _ e => nomatch e

theorem wbDirty (r : Req) : Statement (.wbDirty r) := fun _ _ e => nomatch e

theorem evict (r : Req) : Statement (.evict r) := fun _ _ e => nomatch e

theorem snpInv (r : Req) : Statement (.snpInv r) := fun _ _ e => nomatch e

theorem snpData (r : Req) : Statement (.snpData r) := fun _ _ e => nomatch e

theorem snpCur (r : Req) : Statement (.snpCur r) := fun _ _ e => nomatch e

theorem snpRsp (r : Req) : Statement (.snpRsp r) := fun _ _ e => nomatch e

theorem domainNotice (r : Req) : Statement (.domainNotice r) := fun _ _ e => nomatch e

theorem cxlMemRd (port : Fin 2) (tag : Nat) (dpa : Nat) (mv : MetaValue) : Statement (.cxlMemRd port tag dpa mv) := fun _ _ e => nomatch e

theorem cxlMemWr (port : Fin 2) (tag : Nat) (dpa : Nat) (mv : MetaValue) (data : Bytes) : Statement (.cxlMemWr port tag dpa mv data) := fun _ _ e => nomatch e

theorem cxlMemClnEvct (port : Fin 2) (tag : Nat) (dpa : Nat) : Statement (.cxlMemClnEvct port tag dpa) := fun _ _ e => nomatch e

theorem cxlBiRsp (port : Fin 2) (id : Nat) (rsp : BiRsp) : Statement (.cxlBiRsp port id rsp) := fun _ _ e => nomatch e

theorem provisionalResolve (port : Fin 10) (ptag : BitVec 16) : Statement (.provisionalResolve port ptag) := fun _ _ e => nomatch e

theorem evictionComplete (line : Nat) : Statement (.evictionComplete line) := fun _ _ e => nomatch e

theorem snoopTimeout (id : BitVec 16) : Statement (.snoopTimeout id) := fun _ _ e => nomatch e

theorem portDownTimeout (port : Fin 10) : Statement (.portDownTimeout port) := fun _ _ e => nomatch e

theorem hostL0Timeout (port : Fin 2) : Statement (.hostL0Timeout port) := fun _ _ e => nomatch e

theorem cxlViral (port : Fin 2) : Statement (.cxlViral port) := fun _ _ e => nomatch e

theorem takedownComplete (domain : BitVec 14) : Statement (.takedownComplete domain) := fun _ _ e => nomatch e

theorem noticeResend : Statement (.noticeResend) := fun _ _ e => nomatch e

theorem domainRejoin (party : Fin 8) (value : W64) : Statement (.domainRejoin party value) := fun _ _ e => nomatch e

theorem mirrorSync (party : Fin 8) (value : W64) : Statement (.mirrorSync party value) := fun _ _ e => nomatch e

theorem syncCheckComplete (party : Fin 8) : Statement (.syncCheckComplete party) := fun _ _ e => nomatch e

theorem syncDrained (party : Fin 8) : Statement (.syncDrained party) := fun _ _ e => nomatch e

theorem teardown : Statement (.teardown) := fun _ _ e => nomatch e

theorem teardownComplete : Statement (.teardownComplete) := fun _ _ e => nomatch e

theorem demandFillComplete (page : Nat) (lostUnits : List Nat) (recovered : List Nat) : Statement (.demandFillComplete page lostUnits recovered) := fun _ _ e => nomatch e

theorem tierMoveComplete (page : Nat) (granules : Nat) : Statement (.tierMoveComplete page granules) := fun _ _ e => nomatch e

theorem steer (pool : Fin 1024) : Statement (.steer pool) := fun _ _ e => nomatch e

theorem counterEpoch : Statement (.counterEpoch) := fun _ _ e => nomatch e

theorem scrub (row : ScrubRow) : Statement (.scrub row) := fun _ _ e => nomatch e

theorem cleanWater (party : Fin 8) : Statement (.cleanWater party) := fun _ _ e => nomatch e

theorem parkedWriteRelease (party : Fin 8) : Statement (.parkedWriteRelease party) := fun _ _ e => nomatch e

theorem writeThroughProgrammed (unit : Nat) : Statement (.writeThroughProgrammed unit) := fun _ _ e => nomatch e

theorem pfwAssert : Statement (.pfwAssert) := fun _ _ e => nomatch e

theorem inputSag : Statement (.inputSag) := fun _ _ e => nomatch e

theorem inputRecovered : Statement (.inputRecovered) := fun _ _ e => nomatch e

theorem braceAssert : Statement (.braceAssert) := fun _ _ e => nomatch e

theorem shockSample (x : Int) (y : Int) (z : Int) : Statement (.shockSample x y z) := fun _ _ e => nomatch e

theorem serdesOff : Statement (.serdesOff) := fun _ _ e => nomatch e

theorem flushDone : Statement (.flushDone) := fun _ _ e => nomatch e

theorem earlyFlushComplete : Statement (.earlyFlushComplete) := fun _ _ e => nomatch e

theorem flushLowInput : Statement (.flushLowInput) := fun _ _ e => nomatch e

theorem postFlushReboot : Statement (.postFlushReboot) := fun _ _ e => nomatch e

theorem braceHoldoffEnd : Statement (.braceHoldoffEnd) := fun _ _ e => nomatch e

theorem hotSwapTrip : Statement (.hotSwapTrip) := fun _ _ e => nomatch e

theorem configure (party : Fin 8) (rill : Nat) : Statement (.configure party rill) := by
  intro h r e
  cases e
  simp only [wellFormed, rillOk, Bool.and_eq_true, decide_eq_true_eq] at h
  omega

theorem enable (party : Fin 8) (rill : Nat) : Statement (.enable party rill) := by
  intro h r e
  cases e
  simp only [wellFormed, rillOk, Bool.and_eq_true, decide_eq_true_eq] at h
  omega

theorem disable (party : Fin 8) (rill : Nat) : Statement (.disable party rill) := by
  intro h r e
  cases e
  simp only [wellFormed, rillOk, Bool.and_eq_true, decide_eq_true_eq] at h
  omega

theorem abort (party : Fin 8) (rill : Nat) : Statement (.abort party rill) := by
  intro h r e
  cases e
  simp only [wellFormed, rillOk, Bool.and_eq_true, decide_eq_true_eq] at h
  omega

theorem rillQuery (party : Fin 8) (rill : Nat) : Statement (.rillQuery party rill) := by
  intro h r e
  cases e
  simp only [wellFormed, rillOk, Bool.and_eq_true, decide_eq_true_eq] at h
  omega

theorem doorbell (party : Fin 8) (value : W64) : Statement (.doorbell party value) := fun _ _ e => nomatch e

theorem rillCacheFill (rill : Nat) : Statement (.rillCacheFill rill) := by
  intro h r e
  cases e
  simp only [wellFormed, rillOk, Bool.and_eq_true, decide_eq_true_eq] at h
  omega

theorem descriptorStart (rill : Nat) : Statement (.descriptorStart rill) := by
  intro h r e
  cases e
  simp only [wellFormed, rillOk, Bool.and_eq_true, decide_eq_true_eq] at h
  omega

theorem completionRecord (rill : Nat) (index : Nat) : Statement (.completionRecord rill index) := by
  intro h r e
  cases e
  simp only [wellFormed, rillOk, Bool.and_eq_true, decide_eq_true_eq] at h
  omega

theorem drainComplete (rill : Nat) : Statement (.drainComplete rill) := by
  intro h r e
  cases e
  simp only [wellFormed, rillOk, Bool.and_eq_true, decide_eq_true_eq] at h
  omega

theorem copy (rill : Nat) (index : Nat) : Statement (.copy rill index) := by
  intro h r e
  cases e
  simp only [wellFormed, rillOk, Bool.and_eq_true, decide_eq_true_eq] at h
  omega

theorem chunkLanded (course : Bool) (rill : Nat) (index : Nat) (chunk : Nat) : Statement (.chunkLanded course rill index chunk) := by
  intro h r e
  cases e
  simp only [wellFormed, rillOk, Bool.and_eq_true, decide_eq_true_eq] at h
  omega

theorem advance (party : Fin 8) (value : W64) : Statement (.advance party value) := fun _ _ e => nomatch e

theorem reachSet (party : Fin 8) (value : W64) : Statement (.reachSet party value) := fun _ _ e => nomatch e

theorem reachFrame (edges : Nat) (frame : W64) : Statement (.reachFrame edges frame) := fun _ _ e => nomatch e

theorem tideMarker : Statement (.tideMarker) := fun _ _ e => nomatch e

theorem tideLoss : Statement (.tideLoss) := fun _ _ e => nomatch e

theorem runTable (rill : Nat) (index : Nat) : Statement (.runTable rill index) := by
  intro h r e
  cases e
  simp only [wellFormed, rillOk, Bool.and_eq_true, decide_eq_true_eq] at h
  omega

theorem convert (rill : Nat) (index : Nat) : Statement (.convert rill index) := by
  intro h r e
  cases e
  simp only [wellFormed, rillOk, Bool.and_eq_true, decide_eq_true_eq] at h
  omega

theorem millReduce (rill : Nat) (index : Nat) : Statement (.millReduce rill index) := by
  intro h r e
  cases e
  simp only [wellFormed, rillOk, Bool.and_eq_true, decide_eq_true_eq] at h
  omega

theorem shoalEncode (rill : Nat) (index : Nat) : Statement (.shoalEncode rill index) := by
  intro h r e
  cases e
  simp only [wellFormed, rillOk, Bool.and_eq_true, decide_eq_true_eq] at h
  omega

theorem codebookBuild (rill : Nat) (index : Nat) : Statement (.codebookBuild rill index) := by
  intro h r e
  cases e
  simp only [wellFormed, rillOk, Bool.and_eq_true, decide_eq_true_eq] at h
  omega

theorem pieceComplete (rill : Nat) (index : Nat) (piece : Nat) : Statement (.pieceComplete rill index piece) := by
  intro h r e
  cases e
  simp only [wellFormed, rillOk, Bool.and_eq_true, decide_eq_true_eq] at h
  omega

theorem nop (mill : Fin 800) : Statement (.nop mill) := fun _ _ e => nomatch e

theorem stepEnd (mill : Fin 800) : Statement (.stepEnd mill) := fun _ _ e => nomatch e

theorem setlc (mill : Fin 800) : Statement (.setlc mill) := fun _ _ e => nomatch e

theorem loopStep (mill : Fin 800) : Statement (.loopStep mill) := fun _ _ e => nomatch e

theorem setf (mill : Fin 800) : Statement (.setf mill) := fun _ _ e => nomatch e

theorem waitStep (mill : Fin 800) : Statement (.waitStep mill) := fun _ _ e => nomatch e

theorem waitPoll (mill : Fin 800) (timeout : Bool) : Statement (.waitPoll mill timeout) := fun _ _ e => nomatch e

theorem fence (mill : Fin 800) : Statement (.fence mill) := fun _ _ e => nomatch e

theorem salu (mill : Fin 800) : Statement (.salu mill) := fun _ _ e => nomatch e

theorem sld (mill : Fin 800) : Statement (.sld mill) := fun _ _ e => nomatch e

theorem ld (mill : Fin 800) : Statement (.ld mill) := fun _ _ e => nomatch e

theorem st (mill : Fin 800) : Statement (.st mill) := fun _ _ e => nomatch e

theorem atom (mill : Fin 800) : Statement (.atom mill) := fun _ _ e => nomatch e

theorem red (mill : Fin 800) : Statement (.red mill) := fun _ _ e => nomatch e

theorem mcast (mill : Fin 800) : Statement (.mcast mill) := fun _ _ e => nomatch e

theorem gather (mill : Fin 800) : Statement (.gather mill) := fun _ _ e => nomatch e

theorem memoryStepLanded (mill : Fin 800) : Statement (.memoryStepLanded mill) := fun _ _ e => nomatch e

theorem millProvisionalResolve (mill : Fin 800) : Statement (.millProvisionalResolve mill) := fun _ _ e => nomatch e

theorem vmov (mill : Fin 800) : Statement (.vmov mill) := fun _ _ e => nomatch e

theorem vcvt (mill : Fin 800) : Statement (.vcvt mill) := fun _ _ e => nomatch e

theorem valu (mill : Fin 800) : Statement (.valu mill) := fun _ _ e => nomatch e

theorem vdot (mill : Fin 800) : Statement (.vdot mill) := fun _ _ e => nomatch e

theorem vred (mill : Fin 800) : Statement (.vred mill) := fun _ _ e => nomatch e

theorem vfn (mill : Fin 800) : Statement (.vfn mill) := fun _ _ e => nomatch e

theorem lubuild (mill : Fin 800) : Statement (.lubuild mill) := fun _ _ e => nomatch e

theorem luscore (mill : Fin 800) : Statement (.luscore mill) := fun _ _ e => nomatch e

theorem lubin (mill : Fin 800) : Statement (.lubin mill) := fun _ _ e => nomatch e

theorem cqins (mill : Fin 800) : Statement (.cqins mill) := fun _ _ e => nomatch e

theorem cqpop (mill : Fin 800) : Statement (.cqpop mill) := fun _ _ e => nomatch e

theorem cqout (mill : Fin 800) : Statement (.cqout mill) := fun _ _ e => nomatch e

theorem cqclr (mill : Fin 800) : Statement (.cqclr mill) := fun _ _ e => nomatch e

theorem install (party : Fin 8) (value : W64) : Statement (.install party value) := fun _ _ e => nomatch e

theorem release (party : Fin 8) (value : W64) : Statement (.release party value) := fun _ _ e => nomatch e

theorem cbQuery (party : Fin 8) (value : W64) : Statement (.cbQuery party value) := fun _ _ e => nomatch e

theorem codebookBaseWrite (party : Fin 8) (value : W64) : Statement (.codebookBaseWrite party value) := fun _ _ e => nomatch e

theorem slotFreed (slot : Nat) : Statement (.slotFreed slot) := fun _ _ e => nomatch e

theorem expandBlock (race : Fin 8) : Statement (.expandBlock race) := fun _ _ e => nomatch e

theorem codebookMissFill (race : Fin 8) (slot : Nat) : Statement (.codebookMissFill race slot) := fun _ _ e => nomatch e

theorem eddyReadLine (race : Fin 8) (single : List Nat) (double : List Nat) : Statement (.eddyReadLine race single double) := fun _ _ e => nomatch e

theorem attend (rill : Nat) (index : Nat) : Statement (.attend rill index) := by
  intro h r e
  cases e
  simp only [wellFormed, rillOk, Bool.and_eq_true, decide_eq_true_eq] at h
  omega

theorem unitSpanComplete (rill : Nat) (index : Nat) (seq : Nat) (head : Nat) (span : Nat) : Statement (.unitSpanComplete rill index seq head span) := by
  intro h r e
  cases e
  simp only [wellFormed, rillOk, Bool.and_eq_true, decide_eq_true_eq] at h
  omega

theorem attnAdmit (rill : Nat) (index : Nat) : Statement (.attnAdmit rill index) := by
  intro h r e
  cases e
  simp only [wellFormed, rillOk, Bool.and_eq_true, decide_eq_true_eq] at h
  omega

theorem append (rill : Nat) (index : Nat) : Statement (.append rill index) := by
  intro h r e
  cases e
  simp only [wellFormed, rillOk, Bool.and_eq_true, decide_eq_true_eq] at h
  omega

theorem retire (rill : Nat) (index : Nat) : Statement (.retire rill index) := by
  intro h r e
  cases e
  simp only [wellFormed, rillOk, Bool.and_eq_true, decide_eq_true_eq] at h
  omega

theorem buildBooks (rill : Nat) (index : Nat) : Statement (.buildBooks rill index) := by
  intro h r e
  cases e
  simp only [wellFormed, rillOk, Bool.and_eq_true, decide_eq_true_eq] at h
  omega

theorem lookup (rill : Nat) (index : Nat) : Statement (.lookup rill index) := by
  intro h r e
  cases e
  simp only [wellFormed, rillOk, Bool.and_eq_true, decide_eq_true_eq] at h
  omega

theorem update (rill : Nat) (index : Nat) : Statement (.update rill index) := by
  intro h r e
  cases e
  simp only [wellFormed, rillOk, Bool.and_eq_true, decide_eq_true_eq] at h
  omega

theorem embedCommit (rill : Nat) (index : Nat) : Statement (.embedCommit rill index) := by
  intro h r e
  cases e
  simp only [wellFormed, rillOk, Bool.and_eq_true, decide_eq_true_eq] at h
  omega

theorem piecePosted (group : Fin 16) (node : Fin 1024) : Statement (.piecePosted group node) := fun _ _ e => nomatch e

theorem ownerCommit (group : Fin 16) (node : Fin 1024) : Statement (.ownerCommit group node) := fun _ _ e => nomatch e

theorem progressBeat (group : Fin 16) (node : Fin 1024) : Statement (.progressBeat group node) := fun _ _ e => nomatch e

theorem reply (group : Fin 16) (node : Fin 1024) : Statement (.reply group node) := fun _ _ e => nomatch e

theorem searchQuery (rill : Nat) (index : Nat) : Statement (.searchQuery rill index) := by
  intro h r e
  cases e
  simp only [wellFormed, rillOk, Bool.and_eq_true, decide_eq_true_eq] at h
  omega

theorem insert (rill : Nat) (index : Nat) : Statement (.insert rill index) := by
  intro h r e
  cases e
  simp only [wellFormed, rillOk, Bool.and_eq_true, decide_eq_true_eq] at h
  omega

theorem delete (rill : Nat) (index : Nat) : Statement (.delete rill index) := by
  intro h r e
  cases e
  simp only [wellFormed, rillOk, Bool.and_eq_true, decide_eq_true_eq] at h
  omega

theorem indexAdvance (rill : Nat) (index : Nat) : Statement (.indexAdvance rill index) := by
  intro h r e
  cases e
  simp only [wellFormed, rillOk, Bool.and_eq_true, decide_eq_true_eq] at h
  omega

theorem check (rill : Nat) (index : Nat) : Statement (.check rill index) := by
  intro h r e
  cases e
  simp only [wellFormed, rillOk, Bool.and_eq_true, decide_eq_true_eq] at h
  omega

theorem mirrorBatchClose (setting : Fin 16) : Statement (.mirrorBatchClose setting) := fun _ _ e => nomatch e

theorem mirrorBatchAcked (setting : Fin 16) : Statement (.mirrorBatchAcked setting) := fun _ _ e => nomatch e

theorem mirrorLinkDown (setting : Fin 16) : Statement (.mirrorLinkDown setting) := fun _ _ e => nomatch e

theorem mirrorLinkReturn (setting : Fin 16) : Statement (.mirrorLinkReturn setting) := fun _ _ e => nomatch e

theorem lagExceeded (setting : Fin 16) (lagMs : Nat) : Statement (.lagExceeded setting lagMs) := fun _ _ e => nomatch e

theorem ownerLost (owner : LostOwner) : Statement (.ownerLost owner) := fun _ _ e => nomatch e

theorem flr (port : Fin 2) : Statement (.flr port) := fun _ _ e => nomatch e

theorem partyReset (party : Fin 8) : Statement (.partyReset party) := fun _ _ e => nomatch e

theorem cxlReset (port : Fin 2) : Statement (.cxlReset port) := fun _ _ e => nomatch e

theorem hotReset (port : Fin 2) : Statement (.hotReset port) := fun _ _ e => nomatch e

theorem registerWrite (writer : Fin 8) (offset : BitVec 52) (value : W64) : Statement (.registerWrite writer offset value) := fun _ _ e => nomatch e

theorem getInfo : Statement (.getInfo) := fun _ _ e => nomatch e

theorem getLog (seq : BitVec 32) : Statement (.getLog seq) := fun _ _ e => nomatch e

theorem getSeal (index : Nat) : Statement (.getSeal index) := fun _ _ e => nomatch e

theorem diagRead (t : DiagTarget) : Statement (.diagRead t) := fun _ _ e => nomatch e

theorem clearAlert (bits : W64) : Statement (.clearAlert bits) := fun _ _ e => nomatch e

theorem setLimit (watts : Nat) : Statement (.setLimit watts) := fun _ _ e => nomatch e

theorem earlyFlush : Statement (.earlyFlush) := fun _ _ e => nomatch e

theorem endBrace : Statement (.endBrace) := fun _ _ e => nomatch e

theorem tideLoad (seconds : Nat) : Statement (.tideLoad seconds) := fun _ _ e => nomatch e

theorem clearFault : Statement (.clearFault) := fun _ _ e => nomatch e

theorem shutdown : Statement (.shutdown) := fun _ _ e => nomatch e

theorem warmReboot : Statement (.warmReboot) := fun _ _ e => nomatch e

theorem coldReboot : Statement (.coldReboot) := fun _ _ e => nomatch e

theorem powerOn : Statement (.powerOn) := fun _ _ e => nomatch e

theorem commit : Statement (.commit) := fun _ _ e => nomatch e

theorem revert : Statement (.revert) := fun _ _ e => nomatch e

theorem commitDelayExpiry (component : Bool) : Statement (.commitDelayExpiry component) := fun _ _ e => nomatch e

theorem provisionKey (slot : Fin 4) (key : KeyPair) (challengeGood : Bool) (auth : Option Signed) : Statement (.provisionKey slot key challengeGood auth) := fun _ _ e => nomatch e

theorem lockInstall : Statement (.lockInstall) := fun _ _ e => nomatch e

theorem revokeKey (slot : Fin 4) (auth : Option Signed) : Statement (.revokeKey slot auth) := fun _ _ e => nomatch e

theorem sanitize (auth : Signed) : Statement (.sanitize auth) := fun _ _ e => nomatch e

theorem setEndpointId (eid : BitVec 8) : Statement (.setEndpointId eid) := fun _ _ e => nomatch e

theorem requestUpdate (component : Nat) : Statement (.requestUpdate component) := fun _ _ e => nomatch e

theorem verifyComplete (image : Image) : Statement (.verifyComplete image) := fun _ _ e => nomatch e

theorem activateFirmware : Statement (.activateFirmware) := fun _ _ e => nomatch e

theorem keySweepComplete (serial : BitVec 16) : Statement (.keySweepComplete serial) := fun _ _ e => nomatch e

theorem getVersion (t : Transport) : Statement (.getVersion t) := fun _ _ e => nomatch e

theorem getCapabilities (t : Transport) : Statement (.getCapabilities t) := fun _ _ e => nomatch e

theorem negotiateAlgorithms (t : Transport) (offersRsa3072 : Bool) (offersSha384 : Bool) : Statement (.negotiateAlgorithms t offersRsa3072 offersSha384) := fun _ _ e => nomatch e

theorem getDigests (t : Transport) : Statement (.getDigests t) := fun _ _ e => nomatch e

theorem getCertificate (t : Transport) (slot : Nat) (offset : BitVec 16) (length : BitVec 16) : Statement (.getCertificate t slot offset length) := fun _ _ e => nomatch e

theorem challenge (t : Transport) (nonce : Nat) : Statement (.challenge t nonce) := fun _ _ e => nomatch e

theorem getMeasurements (t : Transport) (index : BitVec 8) (signature : Bool) (nonce : Nat) : Statement (.getMeasurements t index signature nonce) := fun _ _ e => nomatch e

theorem getSlhChain (t : Transport) (offset : BitVec 32) : Statement (.getSlhChain t offset) := fun _ _ e => nomatch e

theorem getSlhSig (t : Transport) (hash : Nat) : Statement (.getSlhSig t hash) := fun _ _ e => nomatch e

theorem slhSignComplete (t : Transport) (hash : Nat) : Statement (.slhSignComplete t hash) := fun _ _ e => nomatch e

theorem keeperWatchdog : Statement (.keeperWatchdog) := fun _ _ e => nomatch e

theorem sensorSample (sensor : Sensor) (reading : Int) (level : Level) : Statement (.sensorSample sensor reading level) := fun _ _ e => nomatch e

theorem alarmShutdown : Statement (.alarmShutdown) := fun _ _ e => nomatch e

theorem condensationAlarm : Statement (.condensationAlarm) := fun _ _ e => nomatch e

theorem capWindow (meanW : Nat) (dies : List Int) (stackTemps : List Int) : Statement (.capWindow meanW dies stackTemps) := fun _ _ e => nomatch e

theorem logWrite : Statement (.logWrite) := fun _ _ e => nomatch e

theorem logSeal (signed : Bool) : Statement (.logSeal signed) := fun _ _ e => nomatch e

theorem extest (drive : List Bool) : Statement (.extest drive) := fun _ _ e => nomatch e

theorem idcode : Statement (.idcode) := fun _ _ e => nomatch e

theorem samplePreload (pins : List Bool) (preload : List Bool) : Statement (.samplePreload pins preload) := fun _ _ e => nomatch e

theorem clamp : Statement (.clamp) := fun _ _ e => nomatch e

theorem highz : Statement (.highz) := fun _ _ e => nomatch e

theorem extestPulse : Statement (.extestPulse) := fun _ _ e => nomatch e

theorem extestTrain : Statement (.extestTrain) := fun _ _ e => nomatch e

theorem linkTest (w : TestWrite) : Statement (.linkTest w) := fun _ _ e => nomatch e

theorem bypass (code : BitVec 8) : Statement (.bypass code) := fun _ _ e => nomatch e

theorem inject (lane : Fin 160) : Statement (.inject lane) := fun _ _ e => nomatch e

theorem linkClear (link : Fin 32) : Statement (.linkClear link) := fun _ _ e => nomatch e

theorem keeperRestart : Statement (.keeperRestart) := fun _ _ e => nomatch e

theorem standbyLost : Statement (.standbyLost) := fun _ _ e => nomatch e

theorem offInputReturn : Statement (.offInputReturn) := fun _ _ e => nomatch e

theorem braceDeassert : Statement (.braceDeassert) := fun _ _ e => nomatch e

theorem flushUnitProgrammed (unit : Option Nat) : Statement (.flushUnitProgrammed unit) := fun _ _ e => nomatch e

theorem cxlBiConflict (port : Fin 2) (tag : Nat) (id : Nat) : Statement (.cxlBiConflict port tag id) := fun _ _ e => nomatch e

theorem hostPortLeavesL0 (port : Fin 2) (recovery : Bool) : Statement (.hostPortLeavesL0 port recovery) := fun _ _ e => nomatch e

theorem tideTick : Statement (.tideTick) := fun _ _ e => nomatch e

theorem checkerLock (lane : Fin 160) : Statement (.checkerLock lane) := fun _ _ e => nomatch e

theorem respondIfReady (t : Transport) : Statement (.respondIfReady t) := fun _ _ e => nomatch e

theorem spdmChunk (t : Transport) (send : Bool) (chunk : BitVec 16) (last : Bool) : Statement (.spdmChunk t send chunk last) := fun _ _ e => nomatch e

theorem spdmUnsupportedRequest (t : Transport) (code : BitVec 8) : Statement (.spdmUnsupportedRequest t code) := fun _ _ e => nomatch e

theorem mailboxCommand (port : Fin 2) (cmd : MailboxCmd) : Statement (.mailboxCommand port cmd) := fun _ _ e => nomatch e

theorem pcieDmaCompletion (port : Fin 2) (tag : Nat) (data : Option Bytes) : Statement (.pcieDmaCompletion port tag data) := fun _ _ e => nomatch e

end Sys2Proof.Laws.Operands
end

