-- ==== Sys2Proof/Laws/State.lean ====
section
/-!
SUPPORT. What each shared operation leaves as it is, field by field, for simp: a proof about one field never unfolds an operation
that does not write it.
-/
namespace Sys2Proof.Safety

open Sys2Proof Sys2Proof.Machine

theorem nv_eq {x y : NvSt} (a : y.fuses = x.fuses) (b : identPart y = identPart x) (c : logPart y = logPart x) (d : storePart y = storePart x) : y = x := by
  cases x; cases y
  simp only [identPart, logPart, storePart, NvSt.mk.injEq] at *
  simp_all

theorem net_eq {x y : NetSt} (a : netPart y = netPart x) (b : linksPart y = linksPart x) : y = x := by
  cases x; cases y
  simp only [netPart, linksPart, NetSt.mk.injEq] at *
  simp_all

theorem weir_eq {x y : WeirSt} (a : weirCtlPart y = weirCtlPart x) (b : weirQPart y = weirQPart x) : y = x := by
  cases x; cases y
  simp only [weirCtlPart, weirQPart, WeirSt.mk.injEq] at *
  simp_all

theorem store_eq {x y : StoreSt} (a : tierPart y = tierPart x) (b : y.mem = x.mem) : y = x := by
  cases x; cases y
  simp only [tierPart, StoreSt.mk.injEq] at *
  simp_all

theorem keeper_eq {x y : KeeperSt} (a : keepLogPart y = keepLogPart x) (b : keeperPart y = keeperPart x) : y = x := by
  cases x; cases y
  simp only [keepLogPart, keeperPart, KeeperSt.mk.injEq] at *
  simp_all

theorem rill_eq {x y : RillGroup} (a : rillPart y = rillPart x) (b : y.table = x.table) : y = x := by
  cases x; cases y
  simp only [rillPart, RillGroup.mk.injEq] at *
  simp_all

theorem shoal_eq {x y : ShoalSt} (a : shoalPart y = shoalPart x) (b : slotsPart y = slotsPart x) : y = x := by
  cases x; cases y
  simp only [shoalPart, slotsPart, ShoalSt.mk.injEq] at *
  simp_all

theorem keep_nv_genRecord {s t : State} (h : Keeps .ident s t) : t.nv.genRecord = s.nv.genRecord := (congrArg (fun x : NvSt => x.genRecord) (show identPart t.nv = identPart s.nv from h) :)
theorem keep_nv_bootNumber {s t : State} (h : Keeps .ident s t) : t.nv.bootNumber = s.nv.bootNumber := (congrArg (fun x : NvSt => x.bootNumber) (show identPart t.nv = identPart s.nv from h) :)
theorem keep_nv_signedCounter {s t : State} (h : Keeps .ident s t) : t.nv.signedCounter = s.nv.signedCounter := (congrArg (fun x : NvSt => x.signedCounter) (show identPart t.nv = identPart s.nv from h) :)
theorem keep_nv_retiredRows {s t : State} (h : Keeps .nvStore s t) : t.nv.retiredRows = s.nv.retiredRows := (congrArg (fun x : NvSt => x.retiredRows) (show storePart t.nv = storePart s.nv from h) :)
theorem keep_nv_nextSerial {s t : State} (h : Keeps .ident s t) : t.nv.nextSerial = s.nv.nextSerial := (congrArg (fun x : NvSt => x.nextSerial) (show identPart t.nv = identPart s.nv from h) :)
theorem keep_nv_sweeping {s t : State} (h : Keeps .ident s t) : t.nv.sweeping = s.nv.sweeping := (congrArg (fun x : NvSt => x.sweeping) (show identPart t.nv = identPart s.nv from h) :)
theorem keep_nv_sanitize {s t : State} (h : Keeps .ident s t) : t.nv.sanitize = s.nv.sanitize := (congrArg (fun x : NvSt => x.sanitize) (show identPart t.nv = identPart s.nv from h) :)
theorem keep_nv_deviceDigest {s t : State} (h : Keeps .ident s t) : t.nv.deviceDigest = s.nv.deviceDigest := (congrArg (fun x : NvSt => x.deviceDigest) (show identPart t.nv = identPart s.nv from h) :)
theorem keep_nv_manifestLost {s t : State} (h : Keeps .ident s t) : t.nv.manifestLost = s.nv.manifestLost := (congrArg (fun x : NvSt => x.manifestLost) (show identPart t.nv = identPart s.nv from h) :)
theorem keep_nv_lossOpen {s t : State} (h : Keeps .nvLog s t) : t.nv.lossOpen = s.nv.lossOpen := (congrArg (fun x : NvSt => x.lossOpen) (show logPart t.nv = logPart s.nv from h) :)
theorem keep_nv_dirtyShutdowns {s t : State} (h : Keeps .ident s t) : t.nv.dirtyShutdowns = s.nv.dirtyShutdowns := (congrArg (fun x : NvSt => x.dirtyShutdowns) (show identPart t.nv = identPart s.nv from h) :)
theorem keep_nv_orderly {s t : State} (h : Keeps .ident s t) : t.nv.orderly = s.nv.orderly := (congrArg (fun x : NvSt => x.orderly) (show identPart t.nv = identPart s.nv from h) :)
theorem keep_nv_trained {s t : State} (h : Keeps .ident s t) : t.nv.trained = s.nv.trained := (congrArg (fun x : NvSt => x.trained) (show identPart t.nv = identPart s.nv from h) :)
theorem keep_nv_mirrorBits {s t : State} (h : Keeps .ident s t) : t.nv.mirrorBits = s.nv.mirrorBits := (congrArg (fun x : NvSt => x.mirrorBits) (show identPart t.nv = identPart s.nv from h) :)
theorem keep_nv_mirrorSeen {s t : State} (h : Keeps .ident s t) : t.nv.mirrorSeen = s.nv.mirrorSeen := (congrArg (fun x : NvSt => x.mirrorSeen) (show identPart t.nv = identPart s.nv from h) :)
theorem keep_nv_flashSerial {s t : State} (h : Keeps .nvStore s t) : t.nv.flashSerial = s.nv.flashSerial := (congrArg (fun x : NvSt => x.flashSerial) (show storePart t.nv = storePart s.nv from h) :)
theorem keep_nv_flashPoison {s t : State} (h : Keeps .nvStore s t) : t.nv.flashPoison = s.nv.flashPoison := (congrArg (fun x : NvSt => x.flashPoison) (show storePart t.nv = storePart s.nv from h) :)
theorem keep_nv_reserve {s t : State} (h : Keeps .nvStore s t) : t.nv.reserve = s.nv.reserve := (congrArg (fun x : NvSt => x.reserve) (show storePart t.nv = storePart s.nv from h) :)
theorem keep_nv_batchPrev {s t : State} (h : Keeps .nvLog s t) : t.nv.batchPrev = s.nv.batchPrev := (congrArg (fun x : NvSt => x.batchPrev) (show logPart t.nv = logPart s.nv from h) :)
theorem keep_nv_nextSeq {s t : State} (h : Keeps .nvLog s t) : t.nv.nextSeq = s.nv.nextSeq := (congrArg (fun x : NvSt => x.nextSeq) (show logPart t.nv = logPart s.nv from h) :)
theorem keep_net_capWord {s t : State} (h : Keeps .links s t) : t.net.capWord = s.net.capWord := (congrArg (fun x : NetSt => x.capWord) (show linksPart t.net = linksPart s.net from h) :)
theorem keep_net_portDown {s t : State} (h : Keeps .links s t) : t.net.portDown = s.net.portDown := (congrArg (fun x : NetSt => x.portDown) (show linksPart t.net = linksPart s.net from h) :)
theorem keep_net_portDead {s t : State} (h : Keeps .links s t) : t.net.portDead = s.net.portDead := (congrArg (fun x : NetSt => x.portDead) (show linksPart t.net = linksPart s.net from h) :)
theorem keep_net_combosOut {s t : State} (h : Keeps .net s t) : t.net.combosOut = s.net.combosOut := (congrArg (fun x : NetSt => x.combosOut) (show netPart t.net = netPart s.net from h) :)
theorem keep_net_nextTag {s t : State} (h : Keeps .net s t) : t.net.nextTag = s.net.nextTag := (congrArg (fun x : NetSt => x.nextTag) (show netPart t.net = netPart s.net from h) :)
theorem keep_net_nextSnp {s t : State} (h : Keeps .net s t) : t.net.nextSnp = s.net.nextSnp := (congrArg (fun x : NetSt => x.nextSnp) (show netPart t.net = netPart s.net from h) :)
theorem keep_weir_selected {s t : State} (h : Keeps .weirCtl s t) : t.weir.selected = s.weir.selected := (congrArg (fun x : WeirSt => x.selected) (show weirCtlPart t.weir = weirCtlPart s.weir from h) :)
theorem keep_weir_waitMove {s t : State} (h : Keeps .weirQ s t) : t.weir.waitMove = s.weir.waitMove := (congrArg (fun x : WeirSt => x.waitMove) (show weirQPart t.weir = weirQPart s.weir from h) :)
theorem keep_store_charged {s t : State} (h : Keeps .store s t) : t.store.charged = s.store.charged := (congrArg (fun x : StoreSt => x.charged) (show tierPart t.store = tierPart s.store from h) :)
theorem keep_store_parkedW {s t : State} (h : Keeps .store s t) : t.store.parkedW = s.store.parkedW := (congrArg (fun x : StoreSt => x.parkedW) (show tierPart t.store = tierPart s.store from h) :)
theorem keep_store_rowPasses {s t : State} (h : Keeps .store s t) : t.store.rowPasses = s.store.rowPasses := (congrArg (fun x : StoreSt => x.rowPasses) (show tierPart t.store = tierPart s.store from h) :)
theorem keep_store_retired {s t : State} (h : Keeps .store s t) : t.store.retired = s.store.retired := (congrArg (fun x : StoreSt => x.retired) (show tierPart t.store = tierPart s.store from h) :)
theorem keep_store_badFrames {s t : State} (h : Keeps .store s t) : t.store.badFrames = s.store.badFrames := (congrArg (fun x : StoreSt => x.badFrames) (show tierPart t.store = tierPart s.store from h) :)
theorem keep_store_damaged {s t : State} (h : Keeps .store s t) : t.store.damaged = s.store.damaged := (congrArg (fun x : StoreSt => x.damaged) (show tierPart t.store = tierPart s.store from h) :)
theorem keep_store_correctedErr {s t : State} (h : Keeps .store s t) : t.store.correctedErr = s.store.correctedErr := (congrArg (fun x : StoreSt => x.correctedErr) (show tierPart t.store = tierPart s.store from h) :)
theorem keep_store_flashRecovered {s t : State} (h : Keeps .store s t) : t.store.flashRecovered = s.store.flashRecovered := (congrArg (fun x : StoreSt => x.flashRecovered) (show tierPart t.store = tierPart s.store from h) :)
theorem keep_store_pinPages {s t : State} (h : Keeps .store s t) : t.store.pinPages = s.store.pinPages := (congrArg (fun x : StoreSt => x.pinPages) (show tierPart t.store = tierPart s.store from h) :)
theorem keep_keeper_doubleRefresh {s t : State} (h : Keeps .keepLog s t) : t.keeper.doubleRefresh = s.keeper.doubleRefresh := (congrArg (fun x : KeeperSt => x.doubleRefresh) (show keepLogPart t.keeper = keepLogPart s.keeper from h) :)
theorem keep_keeper_gravSamples {s t : State} (h : Keeps .keeper s t) : t.keeper.gravSamples = s.keeper.gravSamples := (congrArg (fun x : KeeperSt => x.gravSamples) (show keeperPart t.keeper = keeperPart s.keeper from h) :)
theorem keep_keeper_shockRun {s t : State} (h : Keeps .keeper s t) : t.keeper.shockRun = s.keeper.shockRun := (congrArg (fun x : KeeperSt => x.shockRun) (show keeperPart t.keeper = keeperPart s.keeper from h) :)
theorem keep_keeper_shockPeak {s t : State} (h : Keeps .keeper s t) : t.keeper.shockPeak = s.keeper.shockPeak := (congrArg (fun x : KeeperSt => x.shockPeak) (show keeperPart t.keeper = keeperPart s.keeper from h) :)
theorem keep_keeper_shockAxes {s t : State} (h : Keeps .keeper s t) : t.keeper.shockAxes = s.keeper.shockAxes := (congrArg (fun x : KeeperSt => x.shockAxes) (show keeperPart t.keeper = keeperPart s.keeper from h) :)
theorem keep_keeper_shockOver {s t : State} (h : Keeps .keeper s t) : t.keeper.shockOver = s.keeper.shockOver := (congrArg (fun x : KeeperSt => x.shockOver) (show keeperPart t.keeper = keeperPart s.keeper from h) :)
theorem keep_keeper_shockHold {s t : State} (h : Keeps .keeper s t) : t.keeper.shockHold = s.keeper.shockHold := (congrArg (fun x : KeeperSt => x.shockHold) (show keeperPart t.keeper = keeperPart s.keeper from h) :)
theorem keep_keeper_transfer {s t : State} (h : Keeps .keeper s t) : t.keeper.transfer = s.keeper.transfer := (congrArg (fun x : KeeperSt => x.transfer) (show keeperPart t.keeper = keeperPart s.keeper from h) :)
theorem keep_keeper_deferred {s t : State} (h : Keeps .keeper s t) : t.keeper.deferred = s.keeper.deferred := (congrArg (fun x : KeeperSt => x.deferred) (show keeperPart t.keeper = keeperPart s.keeper from h) :)
theorem keep_keeper_rebootCause {s t : State} (h : Keeps .keeper s t) : t.keeper.rebootCause = s.keeper.rebootCause := (congrArg (fun x : KeeperSt => x.rebootCause) (show keeperPart t.keeper = keeperPart s.keeper from h) :)
theorem keep_keeper_reachDrops {s t : State} (h : Keeps .keeper s t) : t.keeper.reachDrops = s.keeper.reachDrops := (congrArg (fun x : KeeperSt => x.reachDrops) (show keeperPart t.keeper = keeperPart s.keeper from h) :)
theorem keep_rill_pending {s t : State} (h : Keeps .rill s t) : t.rill.pending = s.rill.pending := (congrArg (fun x : RillGroup => x.pending) (show rillPart t.rill = rillPart s.rill from h) :)
theorem keep_rill_firings {s t : State} (h : Keeps .rill s t) : t.rill.firings = s.rill.firings := (congrArg (fun x : RillGroup => x.firings) (show rillPart t.rill = rillPart s.rill from h) :)
theorem keep_rill_nextFiring {s t : State} (h : Keeps .rill s t) : t.rill.nextFiring = s.rill.nextFiring := (congrArg (fun x : RillGroup => x.nextFiring) (show rillPart t.rill = rillPart s.rill from h) :)
theorem keep_rill_nextDma {s t : State} (h : Keeps .rill s t) : t.rill.nextDma = s.rill.nextDma := (congrArg (fun x : RillGroup => x.nextDma) (show rillPart t.rill = rillPart s.rill from h) :)
theorem keep_rill_lastRace {s t : State} (h : Keeps .rill s t) : t.rill.lastRace = s.rill.lastRace := (congrArg (fun x : RillGroup => x.lastRace) (show rillPart t.rill = rillPart s.rill from h) :)
theorem keep_shoal_outcomes {s t : State} (h : Keeps .shoal s t) : t.shoal.outcomes = s.shoal.outcomes := (congrArg (fun x : ShoalSt => x.outcomes) (show shoalPart t.shoal = shoalPart s.shoal from h) :)
theorem keep_shoal_expOff {s t : State} (h : Keeps .shoal s t) : t.shoal.expOff = s.shoal.expOff := (congrArg (fun x : ShoalSt => x.expOff) (show shoalPart t.shoal = shoalPart s.shoal from h) :)

/-! `land` -/

@[simp] theorem land_boot (a0 a1 a2 s) : (land a0 a1 a2 s).boot = s.boot := land_keeps (g := .boot) rfl a0 a1 a2 s (.refl _ s)
@[simp] theorem land_pins (a0 a1 a2 s) : (land a0 a1 a2 s).pins = s.pins := land_keeps (g := .pins) rfl a0 a1 a2 s (.refl _ s)
@[simp] theorem land_nv (a0 a1 a2 s) : (land a0 a1 a2 s).nv = s.nv := nv_eq (land_keeps (g := .fuses) rfl a0 a1 a2 s (.refl _ s)) (land_keeps (g := .ident) rfl a0 a1 a2 s (.refl _ s)) (land_keeps (g := .nvLog) rfl a0 a1 a2 s (.refl _ s)) (land_keeps (g := .nvStore) rfl a0 a1 a2 s (.refl _ s))
@[simp] theorem land_hw (a0 a1 a2 s) : (land a0 a1 a2 s).hw = s.hw := land_keeps (g := .hw) rfl a0 a1 a2 s (.refl _ s)
@[simp] theorem land_map (a0 a1 a2 s) : (land a0 a1 a2 s).map = s.map := land_keeps (g := .map) rfl a0 a1 a2 s (.refl _ s)
@[simp] theorem land_party (a0 a1 a2 s) : (land a0 a1 a2 s).party = s.party := land_keeps (g := .party) rfl a0 a1 a2 s (.refl _ s)
@[simp] theorem land_net (a0 a1 a2 s) : (land a0 a1 a2 s).net = s.net := net_eq (land_keeps (g := .net) rfl a0 a1 a2 s (.refl _ s)) (land_keeps (g := .links) rfl a0 a1 a2 s (.refl _ s))
@[simp] theorem land_weir_selected (a0 a1 a2 s) : (land a0 a1 a2 s).weir.selected = s.weir.selected := keep_weir_selected (land_keeps (g := .weirCtl) rfl a0 a1 a2 s (.refl _ s))
@[simp] theorem land_store (a0 a1 a2 s) : (land a0 a1 a2 s).store = s.store := store_eq (land_keeps (g := .store) rfl a0 a1 a2 s (.refl _ s)) (land_keeps (g := .bytes) rfl a0 a1 a2 s (.refl _ s))
@[simp] theorem land_flush (a0 a1 a2 s) : (land a0 a1 a2 s).flush = s.flush := land_keeps (g := .flush) rfl a0 a1 a2 s (.refl _ s)
@[simp] theorem land_coh (a0 a1 a2 s) : (land a0 a1 a2 s).coh = s.coh := land_keeps (g := .coh) rfl a0 a1 a2 s (.refl _ s)
@[simp] theorem land_sluice (a0 a1 a2 s) : (land a0 a1 a2 s).sluice = s.sluice := land_keeps (g := .sluice) rfl a0 a1 a2 s (.refl _ s)
@[simp] theorem land_keeper (a0 a1 a2 s) : (land a0 a1 a2 s).keeper = s.keeper := keeper_eq (land_keeps (g := .keepLog) rfl a0 a1 a2 s (.refl _ s)) (land_keeps (g := .keeper) rfl a0 a1 a2 s (.refl _ s))
@[simp] theorem land_spdm (a0 a1 a2 s) : (land a0 a1 a2 s).spdm = s.spdm := land_keeps (g := .spdm) rfl a0 a1 a2 s (.refl _ s)
@[simp] theorem land_test (a0 a1 a2 s) : (land a0 a1 a2 s).test = s.test := land_keeps (g := .test) rfl a0 a1 a2 s (.refl _ s)
@[simp] theorem land_hosts (a0 a1 a2 s) : (land a0 a1 a2 s).hosts = s.hosts := land_keeps (g := .hosts) rfl a0 a1 a2 s (.refl _ s)
@[simp] theorem land_tide (a0 a1 a2 s) : (land a0 a1 a2 s).tide = s.tide := land_keeps (g := .tide) rfl a0 a1 a2 s (.refl _ s)
@[simp] theorem land_rill (a0 a1 a2 s) : (land a0 a1 a2 s).rill = s.rill := rill_eq (land_keeps (g := .rill) rfl a0 a1 a2 s (.refl _ s)) (land_keeps (g := .rillTable) rfl a0 a1 a2 s (.refl _ s))
@[simp] theorem land_mills (a0 a1 a2 s) : (land a0 a1 a2 s).mills = s.mills := land_keeps (g := .mills) rfl a0 a1 a2 s (.refl _ s)
@[simp] theorem land_shoal (a0 a1 a2 s) : (land a0 a1 a2 s).shoal = s.shoal := shoal_eq (land_keeps (g := .shoal) rfl a0 a1 a2 s (.refl _ s)) (land_keeps (g := .slots) rfl a0 a1 a2 s (.refl _ s))
@[simp] theorem land_attn (a0 a1 a2 s) : (land a0 a1 a2 s).attn = s.attn := land_keeps (g := .attn) rfl a0 a1 a2 s (.refl _ s)
@[simp] theorem land_exch (a0 a1 a2 s) : (land a0 a1 a2 s).exch = s.exch := land_keeps (g := .exch) rfl a0 a1 a2 s (.refl _ s)
@[simp] theorem land_out (a0 a1 a2 s) : (land a0 a1 a2 s).out = s.out := land_keeps (g := .out) rfl a0 a1 a2 s (.refl _ s)
@[simp] theorem land_freeCtr (a0 a1 a2 s) : (land a0 a1 a2 s).freeCtr = s.freeCtr := land_keeps (g := .freeCtr) rfl a0 a1 a2 s (.refl _ s)
@[simp] theorem land_pending (a0 a1 a2 s) : (land a0 a1 a2 s).pending = s.pending := land_keeps (g := .pending) rfl a0 a1 a2 s (.refl _ s)

/-! `updPty` -/

@[simp] theorem updPty_boot (a0 a1 s) : (updPty a0 a1 s).boot = s.boot := updPty_keeps (g := .boot) rfl a0 a1 s (.refl _ s)
@[simp] theorem updPty_pins (a0 a1 s) : (updPty a0 a1 s).pins = s.pins := updPty_keeps (g := .pins) rfl a0 a1 s (.refl _ s)
@[simp] theorem updPty_nv (a0 a1 s) : (updPty a0 a1 s).nv = s.nv := nv_eq (updPty_keeps (g := .fuses) rfl a0 a1 s (.refl _ s)) (updPty_keeps (g := .ident) rfl a0 a1 s (.refl _ s)) (updPty_keeps (g := .nvLog) rfl a0 a1 s (.refl _ s)) (updPty_keeps (g := .nvStore) rfl a0 a1 s (.refl _ s))
@[simp] theorem updPty_hw (a0 a1 s) : (updPty a0 a1 s).hw = s.hw := updPty_keeps (g := .hw) rfl a0 a1 s (.refl _ s)
@[simp] theorem updPty_map (a0 a1 s) : (updPty a0 a1 s).map = s.map := updPty_keeps (g := .map) rfl a0 a1 s (.refl _ s)
@[simp] theorem updPty_net (a0 a1 s) : (updPty a0 a1 s).net = s.net := net_eq (updPty_keeps (g := .net) rfl a0 a1 s (.refl _ s)) (updPty_keeps (g := .links) rfl a0 a1 s (.refl _ s))
@[simp] theorem updPty_weir (a0 a1 s) : (updPty a0 a1 s).weir = s.weir := weir_eq (updPty_keeps (g := .weirCtl) rfl a0 a1 s (.refl _ s)) (updPty_keeps (g := .weirQ) rfl a0 a1 s (.refl _ s))
@[simp] theorem updPty_store (a0 a1 s) : (updPty a0 a1 s).store = s.store := store_eq (updPty_keeps (g := .store) rfl a0 a1 s (.refl _ s)) (updPty_keeps (g := .bytes) rfl a0 a1 s (.refl _ s))
@[simp] theorem updPty_flush (a0 a1 s) : (updPty a0 a1 s).flush = s.flush := updPty_keeps (g := .flush) rfl a0 a1 s (.refl _ s)
@[simp] theorem updPty_coh (a0 a1 s) : (updPty a0 a1 s).coh = s.coh := updPty_keeps (g := .coh) rfl a0 a1 s (.refl _ s)
@[simp] theorem updPty_sluice (a0 a1 s) : (updPty a0 a1 s).sluice = s.sluice := updPty_keeps (g := .sluice) rfl a0 a1 s (.refl _ s)
@[simp] theorem updPty_keeper (a0 a1 s) : (updPty a0 a1 s).keeper = s.keeper := keeper_eq (updPty_keeps (g := .keepLog) rfl a0 a1 s (.refl _ s)) (updPty_keeps (g := .keeper) rfl a0 a1 s (.refl _ s))
@[simp] theorem updPty_spdm (a0 a1 s) : (updPty a0 a1 s).spdm = s.spdm := updPty_keeps (g := .spdm) rfl a0 a1 s (.refl _ s)
@[simp] theorem updPty_test (a0 a1 s) : (updPty a0 a1 s).test = s.test := updPty_keeps (g := .test) rfl a0 a1 s (.refl _ s)
@[simp] theorem updPty_hosts (a0 a1 s) : (updPty a0 a1 s).hosts = s.hosts := updPty_keeps (g := .hosts) rfl a0 a1 s (.refl _ s)
@[simp] theorem updPty_tide (a0 a1 s) : (updPty a0 a1 s).tide = s.tide := updPty_keeps (g := .tide) rfl a0 a1 s (.refl _ s)
@[simp] theorem updPty_rill (a0 a1 s) : (updPty a0 a1 s).rill = s.rill := rill_eq (updPty_keeps (g := .rill) rfl a0 a1 s (.refl _ s)) (updPty_keeps (g := .rillTable) rfl a0 a1 s (.refl _ s))
@[simp] theorem updPty_mills (a0 a1 s) : (updPty a0 a1 s).mills = s.mills := updPty_keeps (g := .mills) rfl a0 a1 s (.refl _ s)
@[simp] theorem updPty_shoal (a0 a1 s) : (updPty a0 a1 s).shoal = s.shoal := shoal_eq (updPty_keeps (g := .shoal) rfl a0 a1 s (.refl _ s)) (updPty_keeps (g := .slots) rfl a0 a1 s (.refl _ s))
@[simp] theorem updPty_attn (a0 a1 s) : (updPty a0 a1 s).attn = s.attn := updPty_keeps (g := .attn) rfl a0 a1 s (.refl _ s)
@[simp] theorem updPty_exch (a0 a1 s) : (updPty a0 a1 s).exch = s.exch := updPty_keeps (g := .exch) rfl a0 a1 s (.refl _ s)
@[simp] theorem updPty_out (a0 a1 s) : (updPty a0 a1 s).out = s.out := updPty_keeps (g := .out) rfl a0 a1 s (.refl _ s)
@[simp] theorem updPty_freeCtr (a0 a1 s) : (updPty a0 a1 s).freeCtr = s.freeCtr := updPty_keeps (g := .freeCtr) rfl a0 a1 s (.refl _ s)
@[simp] theorem updPty_pending (a0 a1 s) : (updPty a0 a1 s).pending = s.pending := updPty_keeps (g := .pending) rfl a0 a1 s (.refl _ s)

/-! `emit` -/

@[simp] theorem emit_boot (a0 s) : (emit a0 s).boot = s.boot := emit_keeps (g := .boot) rfl a0 s (.refl _ s)
@[simp] theorem emit_pins (a0 s) : (emit a0 s).pins = s.pins := emit_keeps (g := .pins) rfl a0 s (.refl _ s)
@[simp] theorem emit_nv (a0 s) : (emit a0 s).nv = s.nv := nv_eq (emit_keeps (g := .fuses) rfl a0 s (.refl _ s)) (emit_keeps (g := .ident) rfl a0 s (.refl _ s)) (emit_keeps (g := .nvLog) rfl a0 s (.refl _ s)) (emit_keeps (g := .nvStore) rfl a0 s (.refl _ s))
@[simp] theorem emit_hw (a0 s) : (emit a0 s).hw = s.hw := emit_keeps (g := .hw) rfl a0 s (.refl _ s)
@[simp] theorem emit_map (a0 s) : (emit a0 s).map = s.map := emit_keeps (g := .map) rfl a0 s (.refl _ s)
@[simp] theorem emit_party (a0 s) : (emit a0 s).party = s.party := emit_keeps (g := .party) rfl a0 s (.refl _ s)
@[simp] theorem emit_net (a0 s) : (emit a0 s).net = s.net := net_eq (emit_keeps (g := .net) rfl a0 s (.refl _ s)) (emit_keeps (g := .links) rfl a0 s (.refl _ s))
@[simp] theorem emit_weir (a0 s) : (emit a0 s).weir = s.weir := weir_eq (emit_keeps (g := .weirCtl) rfl a0 s (.refl _ s)) (emit_keeps (g := .weirQ) rfl a0 s (.refl _ s))
@[simp] theorem emit_store (a0 s) : (emit a0 s).store = s.store := store_eq (emit_keeps (g := .store) rfl a0 s (.refl _ s)) (emit_keeps (g := .bytes) rfl a0 s (.refl _ s))
@[simp] theorem emit_flush (a0 s) : (emit a0 s).flush = s.flush := emit_keeps (g := .flush) rfl a0 s (.refl _ s)
@[simp] theorem emit_coh (a0 s) : (emit a0 s).coh = s.coh := emit_keeps (g := .coh) rfl a0 s (.refl _ s)
@[simp] theorem emit_sluice (a0 s) : (emit a0 s).sluice = s.sluice := emit_keeps (g := .sluice) rfl a0 s (.refl _ s)
@[simp] theorem emit_keeper (a0 s) : (emit a0 s).keeper = s.keeper := keeper_eq (emit_keeps (g := .keepLog) rfl a0 s (.refl _ s)) (emit_keeps (g := .keeper) rfl a0 s (.refl _ s))
@[simp] theorem emit_spdm (a0 s) : (emit a0 s).spdm = s.spdm := emit_keeps (g := .spdm) rfl a0 s (.refl _ s)
@[simp] theorem emit_test (a0 s) : (emit a0 s).test = s.test := emit_keeps (g := .test) rfl a0 s (.refl _ s)
@[simp] theorem emit_hosts (a0 s) : (emit a0 s).hosts = s.hosts := emit_keeps (g := .hosts) rfl a0 s (.refl _ s)
@[simp] theorem emit_tide (a0 s) : (emit a0 s).tide = s.tide := emit_keeps (g := .tide) rfl a0 s (.refl _ s)
@[simp] theorem emit_rill (a0 s) : (emit a0 s).rill = s.rill := rill_eq (emit_keeps (g := .rill) rfl a0 s (.refl _ s)) (emit_keeps (g := .rillTable) rfl a0 s (.refl _ s))
@[simp] theorem emit_mills (a0 s) : (emit a0 s).mills = s.mills := emit_keeps (g := .mills) rfl a0 s (.refl _ s)
@[simp] theorem emit_shoal (a0 s) : (emit a0 s).shoal = s.shoal := shoal_eq (emit_keeps (g := .shoal) rfl a0 s (.refl _ s)) (emit_keeps (g := .slots) rfl a0 s (.refl _ s))
@[simp] theorem emit_attn (a0 s) : (emit a0 s).attn = s.attn := emit_keeps (g := .attn) rfl a0 s (.refl _ s)
@[simp] theorem emit_exch (a0 s) : (emit a0 s).exch = s.exch := emit_keeps (g := .exch) rfl a0 s (.refl _ s)
@[simp] theorem emit_freeCtr (a0 s) : (emit a0 s).freeCtr = s.freeCtr := emit_keeps (g := .freeCtr) rfl a0 s (.refl _ s)
@[simp] theorem emit_pending (a0 s) : (emit a0 s).pending = s.pending := emit_keeps (g := .pending) rfl a0 s (.refl _ s)

/-! `errorEntry` -/

@[simp] theorem errorEntry_boot (a0 a1 a2 a3 a4 s) : (errorEntry a0 a1 a2 a3 a4 s).boot = s.boot := errorEntry_keeps (g := .boot) rfl a0 a1 a2 a3 a4 s (.refl _ s)
@[simp] theorem errorEntry_pins (a0 a1 a2 a3 a4 s) : (errorEntry a0 a1 a2 a3 a4 s).pins = s.pins := errorEntry_keeps (g := .pins) rfl a0 a1 a2 a3 a4 s (.refl _ s)
@[simp] theorem errorEntry_nv (a0 a1 a2 a3 a4 s) : (errorEntry a0 a1 a2 a3 a4 s).nv = s.nv := nv_eq (errorEntry_keeps (g := .fuses) rfl a0 a1 a2 a3 a4 s (.refl _ s)) (errorEntry_keeps (g := .ident) rfl a0 a1 a2 a3 a4 s (.refl _ s)) (errorEntry_keeps (g := .nvLog) rfl a0 a1 a2 a3 a4 s (.refl _ s)) (errorEntry_keeps (g := .nvStore) rfl a0 a1 a2 a3 a4 s (.refl _ s))
@[simp] theorem errorEntry_hw (a0 a1 a2 a3 a4 s) : (errorEntry a0 a1 a2 a3 a4 s).hw = s.hw := errorEntry_keeps (g := .hw) rfl a0 a1 a2 a3 a4 s (.refl _ s)
@[simp] theorem errorEntry_map (a0 a1 a2 a3 a4 s) : (errorEntry a0 a1 a2 a3 a4 s).map = s.map := errorEntry_keeps (g := .map) rfl a0 a1 a2 a3 a4 s (.refl _ s)
@[simp] theorem errorEntry_net (a0 a1 a2 a3 a4 s) : (errorEntry a0 a1 a2 a3 a4 s).net = s.net := net_eq (errorEntry_keeps (g := .net) rfl a0 a1 a2 a3 a4 s (.refl _ s)) (errorEntry_keeps (g := .links) rfl a0 a1 a2 a3 a4 s (.refl _ s))
@[simp] theorem errorEntry_weir (a0 a1 a2 a3 a4 s) : (errorEntry a0 a1 a2 a3 a4 s).weir = s.weir := weir_eq (errorEntry_keeps (g := .weirCtl) rfl a0 a1 a2 a3 a4 s (.refl _ s)) (errorEntry_keeps (g := .weirQ) rfl a0 a1 a2 a3 a4 s (.refl _ s))
@[simp] theorem errorEntry_store (a0 a1 a2 a3 a4 s) : (errorEntry a0 a1 a2 a3 a4 s).store = s.store := store_eq (errorEntry_keeps (g := .store) rfl a0 a1 a2 a3 a4 s (.refl _ s)) (errorEntry_keeps (g := .bytes) rfl a0 a1 a2 a3 a4 s (.refl _ s))
@[simp] theorem errorEntry_flush (a0 a1 a2 a3 a4 s) : (errorEntry a0 a1 a2 a3 a4 s).flush = s.flush := errorEntry_keeps (g := .flush) rfl a0 a1 a2 a3 a4 s (.refl _ s)
@[simp] theorem errorEntry_coh (a0 a1 a2 a3 a4 s) : (errorEntry a0 a1 a2 a3 a4 s).coh = s.coh := errorEntry_keeps (g := .coh) rfl a0 a1 a2 a3 a4 s (.refl _ s)
@[simp] theorem errorEntry_sluice (a0 a1 a2 a3 a4 s) : (errorEntry a0 a1 a2 a3 a4 s).sluice = s.sluice := errorEntry_keeps (g := .sluice) rfl a0 a1 a2 a3 a4 s (.refl _ s)
@[simp] theorem errorEntry_keeper (a0 a1 a2 a3 a4 s) : (errorEntry a0 a1 a2 a3 a4 s).keeper = s.keeper := keeper_eq (errorEntry_keeps (g := .keepLog) rfl a0 a1 a2 a3 a4 s (.refl _ s)) (errorEntry_keeps (g := .keeper) rfl a0 a1 a2 a3 a4 s (.refl _ s))
@[simp] theorem errorEntry_spdm (a0 a1 a2 a3 a4 s) : (errorEntry a0 a1 a2 a3 a4 s).spdm = s.spdm := errorEntry_keeps (g := .spdm) rfl a0 a1 a2 a3 a4 s (.refl _ s)
@[simp] theorem errorEntry_test (a0 a1 a2 a3 a4 s) : (errorEntry a0 a1 a2 a3 a4 s).test = s.test := errorEntry_keeps (g := .test) rfl a0 a1 a2 a3 a4 s (.refl _ s)
@[simp] theorem errorEntry_hosts (a0 a1 a2 a3 a4 s) : (errorEntry a0 a1 a2 a3 a4 s).hosts = s.hosts := errorEntry_keeps (g := .hosts) rfl a0 a1 a2 a3 a4 s (.refl _ s)
@[simp] theorem errorEntry_tide (a0 a1 a2 a3 a4 s) : (errorEntry a0 a1 a2 a3 a4 s).tide = s.tide := errorEntry_keeps (g := .tide) rfl a0 a1 a2 a3 a4 s (.refl _ s)
@[simp] theorem errorEntry_rill (a0 a1 a2 a3 a4 s) : (errorEntry a0 a1 a2 a3 a4 s).rill = s.rill := rill_eq (errorEntry_keeps (g := .rill) rfl a0 a1 a2 a3 a4 s (.refl _ s)) (errorEntry_keeps (g := .rillTable) rfl a0 a1 a2 a3 a4 s (.refl _ s))
@[simp] theorem errorEntry_mills (a0 a1 a2 a3 a4 s) : (errorEntry a0 a1 a2 a3 a4 s).mills = s.mills := errorEntry_keeps (g := .mills) rfl a0 a1 a2 a3 a4 s (.refl _ s)
@[simp] theorem errorEntry_shoal (a0 a1 a2 a3 a4 s) : (errorEntry a0 a1 a2 a3 a4 s).shoal = s.shoal := shoal_eq (errorEntry_keeps (g := .shoal) rfl a0 a1 a2 a3 a4 s (.refl _ s)) (errorEntry_keeps (g := .slots) rfl a0 a1 a2 a3 a4 s (.refl _ s))
@[simp] theorem errorEntry_attn (a0 a1 a2 a3 a4 s) : (errorEntry a0 a1 a2 a3 a4 s).attn = s.attn := errorEntry_keeps (g := .attn) rfl a0 a1 a2 a3 a4 s (.refl _ s)
@[simp] theorem errorEntry_exch (a0 a1 a2 a3 a4 s) : (errorEntry a0 a1 a2 a3 a4 s).exch = s.exch := errorEntry_keeps (g := .exch) rfl a0 a1 a2 a3 a4 s (.refl _ s)
@[simp] theorem errorEntry_freeCtr (a0 a1 a2 a3 a4 s) : (errorEntry a0 a1 a2 a3 a4 s).freeCtr = s.freeCtr := errorEntry_keeps (g := .freeCtr) rfl a0 a1 a2 a3 a4 s (.refl _ s)
@[simp] theorem errorEntry_pending (a0 a1 a2 a3 a4 s) : (errorEntry a0 a1 a2 a3 a4 s).pending = s.pending := errorEntry_keeps (g := .pending) rfl a0 a1 a2 a3 a4 s (.refl _ s)

/-! `respondOn` -/

@[simp] theorem respondOn_boot (a0 a1 a2 a3 a4 a5 s) : (respondOn a0 a1 a2 a3 a4 a5 s).boot = s.boot := respondOn_keeps (g := .boot) rfl a0 a1 a2 a3 a4 a5 s (.refl _ s)
@[simp] theorem respondOn_pins (a0 a1 a2 a3 a4 a5 s) : (respondOn a0 a1 a2 a3 a4 a5 s).pins = s.pins := respondOn_keeps (g := .pins) rfl a0 a1 a2 a3 a4 a5 s (.refl _ s)
@[simp] theorem respondOn_nv (a0 a1 a2 a3 a4 a5 s) : (respondOn a0 a1 a2 a3 a4 a5 s).nv = s.nv := nv_eq (respondOn_keeps (g := .fuses) rfl a0 a1 a2 a3 a4 a5 s (.refl _ s)) (respondOn_keeps (g := .ident) rfl a0 a1 a2 a3 a4 a5 s (.refl _ s)) (respondOn_keeps (g := .nvLog) rfl a0 a1 a2 a3 a4 a5 s (.refl _ s)) (respondOn_keeps (g := .nvStore) rfl a0 a1 a2 a3 a4 a5 s (.refl _ s))
@[simp] theorem respondOn_hw (a0 a1 a2 a3 a4 a5 s) : (respondOn a0 a1 a2 a3 a4 a5 s).hw = s.hw := respondOn_keeps (g := .hw) rfl a0 a1 a2 a3 a4 a5 s (.refl _ s)
@[simp] theorem respondOn_map (a0 a1 a2 a3 a4 a5 s) : (respondOn a0 a1 a2 a3 a4 a5 s).map = s.map := respondOn_keeps (g := .map) rfl a0 a1 a2 a3 a4 a5 s (.refl _ s)
@[simp] theorem respondOn_party (a0 a1 a2 a3 a4 a5 s) : (respondOn a0 a1 a2 a3 a4 a5 s).party = s.party := respondOn_keeps (g := .party) rfl a0 a1 a2 a3 a4 a5 s (.refl _ s)
@[simp] theorem respondOn_net_capWord (a0 a1 a2 a3 a4 a5 s) : (respondOn a0 a1 a2 a3 a4 a5 s).net.capWord = s.net.capWord := keep_net_capWord (respondOn_keeps (g := .links) rfl a0 a1 a2 a3 a4 a5 s (.refl _ s))
@[simp] theorem respondOn_net_portDown (a0 a1 a2 a3 a4 a5 s) : (respondOn a0 a1 a2 a3 a4 a5 s).net.portDown = s.net.portDown := keep_net_portDown (respondOn_keeps (g := .links) rfl a0 a1 a2 a3 a4 a5 s (.refl _ s))
@[simp] theorem respondOn_net_portDead (a0 a1 a2 a3 a4 a5 s) : (respondOn a0 a1 a2 a3 a4 a5 s).net.portDead = s.net.portDead := keep_net_portDead (respondOn_keeps (g := .links) rfl a0 a1 a2 a3 a4 a5 s (.refl _ s))
@[simp] theorem respondOn_weir (a0 a1 a2 a3 a4 a5 s) : (respondOn a0 a1 a2 a3 a4 a5 s).weir = s.weir := weir_eq (respondOn_keeps (g := .weirCtl) rfl a0 a1 a2 a3 a4 a5 s (.refl _ s)) (respondOn_keeps (g := .weirQ) rfl a0 a1 a2 a3 a4 a5 s (.refl _ s))
@[simp] theorem respondOn_store (a0 a1 a2 a3 a4 a5 s) : (respondOn a0 a1 a2 a3 a4 a5 s).store = s.store := store_eq (respondOn_keeps (g := .store) rfl a0 a1 a2 a3 a4 a5 s (.refl _ s)) (respondOn_keeps (g := .bytes) rfl a0 a1 a2 a3 a4 a5 s (.refl _ s))
@[simp] theorem respondOn_flush (a0 a1 a2 a3 a4 a5 s) : (respondOn a0 a1 a2 a3 a4 a5 s).flush = s.flush := respondOn_keeps (g := .flush) rfl a0 a1 a2 a3 a4 a5 s (.refl _ s)
@[simp] theorem respondOn_coh (a0 a1 a2 a3 a4 a5 s) : (respondOn a0 a1 a2 a3 a4 a5 s).coh = s.coh := respondOn_keeps (g := .coh) rfl a0 a1 a2 a3 a4 a5 s (.refl _ s)
@[simp] theorem respondOn_sluice (a0 a1 a2 a3 a4 a5 s) : (respondOn a0 a1 a2 a3 a4 a5 s).sluice = s.sluice := respondOn_keeps (g := .sluice) rfl a0 a1 a2 a3 a4 a5 s (.refl _ s)
@[simp] theorem respondOn_keeper (a0 a1 a2 a3 a4 a5 s) : (respondOn a0 a1 a2 a3 a4 a5 s).keeper = s.keeper := keeper_eq (respondOn_keeps (g := .keepLog) rfl a0 a1 a2 a3 a4 a5 s (.refl _ s)) (respondOn_keeps (g := .keeper) rfl a0 a1 a2 a3 a4 a5 s (.refl _ s))
@[simp] theorem respondOn_spdm (a0 a1 a2 a3 a4 a5 s) : (respondOn a0 a1 a2 a3 a4 a5 s).spdm = s.spdm := respondOn_keeps (g := .spdm) rfl a0 a1 a2 a3 a4 a5 s (.refl _ s)
@[simp] theorem respondOn_test (a0 a1 a2 a3 a4 a5 s) : (respondOn a0 a1 a2 a3 a4 a5 s).test = s.test := respondOn_keeps (g := .test) rfl a0 a1 a2 a3 a4 a5 s (.refl _ s)
@[simp] theorem respondOn_hosts (a0 a1 a2 a3 a4 a5 s) : (respondOn a0 a1 a2 a3 a4 a5 s).hosts = s.hosts := respondOn_keeps (g := .hosts) rfl a0 a1 a2 a3 a4 a5 s (.refl _ s)
@[simp] theorem respondOn_tide (a0 a1 a2 a3 a4 a5 s) : (respondOn a0 a1 a2 a3 a4 a5 s).tide = s.tide := respondOn_keeps (g := .tide) rfl a0 a1 a2 a3 a4 a5 s (.refl _ s)
@[simp] theorem respondOn_rill (a0 a1 a2 a3 a4 a5 s) : (respondOn a0 a1 a2 a3 a4 a5 s).rill = s.rill := rill_eq (respondOn_keeps (g := .rill) rfl a0 a1 a2 a3 a4 a5 s (.refl _ s)) (respondOn_keeps (g := .rillTable) rfl a0 a1 a2 a3 a4 a5 s (.refl _ s))
@[simp] theorem respondOn_mills (a0 a1 a2 a3 a4 a5 s) : (respondOn a0 a1 a2 a3 a4 a5 s).mills = s.mills := respondOn_keeps (g := .mills) rfl a0 a1 a2 a3 a4 a5 s (.refl _ s)
@[simp] theorem respondOn_shoal (a0 a1 a2 a3 a4 a5 s) : (respondOn a0 a1 a2 a3 a4 a5 s).shoal = s.shoal := shoal_eq (respondOn_keeps (g := .shoal) rfl a0 a1 a2 a3 a4 a5 s (.refl _ s)) (respondOn_keeps (g := .slots) rfl a0 a1 a2 a3 a4 a5 s (.refl _ s))
@[simp] theorem respondOn_attn (a0 a1 a2 a3 a4 a5 s) : (respondOn a0 a1 a2 a3 a4 a5 s).attn = s.attn := respondOn_keeps (g := .attn) rfl a0 a1 a2 a3 a4 a5 s (.refl _ s)
@[simp] theorem respondOn_exch (a0 a1 a2 a3 a4 a5 s) : (respondOn a0 a1 a2 a3 a4 a5 s).exch = s.exch := respondOn_keeps (g := .exch) rfl a0 a1 a2 a3 a4 a5 s (.refl _ s)
@[simp] theorem respondOn_out (a0 a1 a2 a3 a4 a5 s) : (respondOn a0 a1 a2 a3 a4 a5 s).out = s.out := respondOn_keeps (g := .out) rfl a0 a1 a2 a3 a4 a5 s (.refl _ s)
@[simp] theorem respondOn_freeCtr (a0 a1 a2 a3 a4 a5 s) : (respondOn a0 a1 a2 a3 a4 a5 s).freeCtr = s.freeCtr := respondOn_keeps (g := .freeCtr) rfl a0 a1 a2 a3 a4 a5 s (.refl _ s)
@[simp] theorem respondOn_pending (a0 a1 a2 a3 a4 a5 s) : (respondOn a0 a1 a2 a3 a4 a5 s).pending = s.pending := respondOn_keeps (g := .pending) rfl a0 a1 a2 a3 a4 a5 s (.refl _ s)

/-! `enqueue` -/

@[simp] theorem enqueue_boot (a0 s) : (enqueue a0 s).boot = s.boot := enqueue_keeps (g := .boot) rfl a0 s (.refl _ s)
@[simp] theorem enqueue_pins (a0 s) : (enqueue a0 s).pins = s.pins := enqueue_keeps (g := .pins) rfl a0 s (.refl _ s)
@[simp] theorem enqueue_nv (a0 s) : (enqueue a0 s).nv = s.nv := nv_eq (enqueue_keeps (g := .fuses) rfl a0 s (.refl _ s)) (enqueue_keeps (g := .ident) rfl a0 s (.refl _ s)) (enqueue_keeps (g := .nvLog) rfl a0 s (.refl _ s)) (enqueue_keeps (g := .nvStore) rfl a0 s (.refl _ s))
@[simp] theorem enqueue_hw (a0 s) : (enqueue a0 s).hw = s.hw := enqueue_keeps (g := .hw) rfl a0 s (.refl _ s)
@[simp] theorem enqueue_map (a0 s) : (enqueue a0 s).map = s.map := enqueue_keeps (g := .map) rfl a0 s (.refl _ s)
@[simp] theorem enqueue_party (a0 s) : (enqueue a0 s).party = s.party := enqueue_keeps (g := .party) rfl a0 s (.refl _ s)
@[simp] theorem enqueue_net (a0 s) : (enqueue a0 s).net = s.net := net_eq (enqueue_keeps (g := .net) rfl a0 s (.refl _ s)) (enqueue_keeps (g := .links) rfl a0 s (.refl _ s))
@[simp] theorem enqueue_weir_selected (a0 s) : (enqueue a0 s).weir.selected = s.weir.selected := keep_weir_selected (enqueue_keeps (g := .weirCtl) rfl a0 s (.refl _ s))
@[simp] theorem enqueue_store (a0 s) : (enqueue a0 s).store = s.store := store_eq (enqueue_keeps (g := .store) rfl a0 s (.refl _ s)) (enqueue_keeps (g := .bytes) rfl a0 s (.refl _ s))
@[simp] theorem enqueue_flush (a0 s) : (enqueue a0 s).flush = s.flush := enqueue_keeps (g := .flush) rfl a0 s (.refl _ s)
@[simp] theorem enqueue_coh (a0 s) : (enqueue a0 s).coh = s.coh := enqueue_keeps (g := .coh) rfl a0 s (.refl _ s)
@[simp] theorem enqueue_sluice (a0 s) : (enqueue a0 s).sluice = s.sluice := enqueue_keeps (g := .sluice) rfl a0 s (.refl _ s)
@[simp] theorem enqueue_keeper (a0 s) : (enqueue a0 s).keeper = s.keeper := keeper_eq (enqueue_keeps (g := .keepLog) rfl a0 s (.refl _ s)) (enqueue_keeps (g := .keeper) rfl a0 s (.refl _ s))
@[simp] theorem enqueue_spdm (a0 s) : (enqueue a0 s).spdm = s.spdm := enqueue_keeps (g := .spdm) rfl a0 s (.refl _ s)
@[simp] theorem enqueue_test (a0 s) : (enqueue a0 s).test = s.test := enqueue_keeps (g := .test) rfl a0 s (.refl _ s)
@[simp] theorem enqueue_hosts (a0 s) : (enqueue a0 s).hosts = s.hosts := enqueue_keeps (g := .hosts) rfl a0 s (.refl _ s)
@[simp] theorem enqueue_tide (a0 s) : (enqueue a0 s).tide = s.tide := enqueue_keeps (g := .tide) rfl a0 s (.refl _ s)
@[simp] theorem enqueue_rill (a0 s) : (enqueue a0 s).rill = s.rill := rill_eq (enqueue_keeps (g := .rill) rfl a0 s (.refl _ s)) (enqueue_keeps (g := .rillTable) rfl a0 s (.refl _ s))
@[simp] theorem enqueue_mills (a0 s) : (enqueue a0 s).mills = s.mills := enqueue_keeps (g := .mills) rfl a0 s (.refl _ s)
@[simp] theorem enqueue_shoal (a0 s) : (enqueue a0 s).shoal = s.shoal := shoal_eq (enqueue_keeps (g := .shoal) rfl a0 s (.refl _ s)) (enqueue_keeps (g := .slots) rfl a0 s (.refl _ s))
@[simp] theorem enqueue_attn (a0 s) : (enqueue a0 s).attn = s.attn := enqueue_keeps (g := .attn) rfl a0 s (.refl _ s)
@[simp] theorem enqueue_exch (a0 s) : (enqueue a0 s).exch = s.exch := enqueue_keeps (g := .exch) rfl a0 s (.refl _ s)
@[simp] theorem enqueue_out (a0 s) : (enqueue a0 s).out = s.out := enqueue_keeps (g := .out) rfl a0 s (.refl _ s)
@[simp] theorem enqueue_freeCtr (a0 s) : (enqueue a0 s).freeCtr = s.freeCtr := enqueue_keeps (g := .freeCtr) rfl a0 s (.refl _ s)
@[simp] theorem enqueue_pending (a0 s) : (enqueue a0 s).pending = s.pending := enqueue_keeps (g := .pending) rfl a0 s (.refl _ s)

/-! `logEv` -/

@[simp] theorem logEv_boot (a0 a1 a2 a3 a4 a5 s) : (logEv a0 a1 a2 a3 a4 a5 s).boot = s.boot := logEv_keeps (g := .boot) rfl a0 a1 a2 a3 a4 a5 s (.refl _ s)
@[simp] theorem logEv_pins (a0 a1 a2 a3 a4 a5 s) : (logEv a0 a1 a2 a3 a4 a5 s).pins = s.pins := logEv_keeps (g := .pins) rfl a0 a1 a2 a3 a4 a5 s (.refl _ s)
@[simp] theorem logEv_nv (a0 a1 a2 a3 a4 a5 s) : (logEv a0 a1 a2 a3 a4 a5 s).nv = s.nv := nv_eq (logEv_keeps (g := .fuses) rfl a0 a1 a2 a3 a4 a5 s (.refl _ s)) (logEv_keeps (g := .ident) rfl a0 a1 a2 a3 a4 a5 s (.refl _ s)) (logEv_keeps (g := .nvLog) rfl a0 a1 a2 a3 a4 a5 s (.refl _ s)) (logEv_keeps (g := .nvStore) rfl a0 a1 a2 a3 a4 a5 s (.refl _ s))
@[simp] theorem logEv_hw (a0 a1 a2 a3 a4 a5 s) : (logEv a0 a1 a2 a3 a4 a5 s).hw = s.hw := logEv_keeps (g := .hw) rfl a0 a1 a2 a3 a4 a5 s (.refl _ s)
@[simp] theorem logEv_map (a0 a1 a2 a3 a4 a5 s) : (logEv a0 a1 a2 a3 a4 a5 s).map = s.map := logEv_keeps (g := .map) rfl a0 a1 a2 a3 a4 a5 s (.refl _ s)
@[simp] theorem logEv_party (a0 a1 a2 a3 a4 a5 s) : (logEv a0 a1 a2 a3 a4 a5 s).party = s.party := logEv_keeps (g := .party) rfl a0 a1 a2 a3 a4 a5 s (.refl _ s)
@[simp] theorem logEv_net (a0 a1 a2 a3 a4 a5 s) : (logEv a0 a1 a2 a3 a4 a5 s).net = s.net := net_eq (logEv_keeps (g := .net) rfl a0 a1 a2 a3 a4 a5 s (.refl _ s)) (logEv_keeps (g := .links) rfl a0 a1 a2 a3 a4 a5 s (.refl _ s))
@[simp] theorem logEv_weir (a0 a1 a2 a3 a4 a5 s) : (logEv a0 a1 a2 a3 a4 a5 s).weir = s.weir := weir_eq (logEv_keeps (g := .weirCtl) rfl a0 a1 a2 a3 a4 a5 s (.refl _ s)) (logEv_keeps (g := .weirQ) rfl a0 a1 a2 a3 a4 a5 s (.refl _ s))
@[simp] theorem logEv_store (a0 a1 a2 a3 a4 a5 s) : (logEv a0 a1 a2 a3 a4 a5 s).store = s.store := store_eq (logEv_keeps (g := .store) rfl a0 a1 a2 a3 a4 a5 s (.refl _ s)) (logEv_keeps (g := .bytes) rfl a0 a1 a2 a3 a4 a5 s (.refl _ s))
@[simp] theorem logEv_flush (a0 a1 a2 a3 a4 a5 s) : (logEv a0 a1 a2 a3 a4 a5 s).flush = s.flush := logEv_keeps (g := .flush) rfl a0 a1 a2 a3 a4 a5 s (.refl _ s)
@[simp] theorem logEv_coh (a0 a1 a2 a3 a4 a5 s) : (logEv a0 a1 a2 a3 a4 a5 s).coh = s.coh := logEv_keeps (g := .coh) rfl a0 a1 a2 a3 a4 a5 s (.refl _ s)
@[simp] theorem logEv_sluice (a0 a1 a2 a3 a4 a5 s) : (logEv a0 a1 a2 a3 a4 a5 s).sluice = s.sluice := logEv_keeps (g := .sluice) rfl a0 a1 a2 a3 a4 a5 s (.refl _ s)
@[simp] theorem logEv_keeper_gravSamples (a0 a1 a2 a3 a4 a5 s) : (logEv a0 a1 a2 a3 a4 a5 s).keeper.gravSamples = s.keeper.gravSamples := keep_keeper_gravSamples (logEv_keeps (g := .keeper) rfl a0 a1 a2 a3 a4 a5 s (.refl _ s))
@[simp] theorem logEv_keeper_shockRun (a0 a1 a2 a3 a4 a5 s) : (logEv a0 a1 a2 a3 a4 a5 s).keeper.shockRun = s.keeper.shockRun := keep_keeper_shockRun (logEv_keeps (g := .keeper) rfl a0 a1 a2 a3 a4 a5 s (.refl _ s))
@[simp] theorem logEv_keeper_shockPeak (a0 a1 a2 a3 a4 a5 s) : (logEv a0 a1 a2 a3 a4 a5 s).keeper.shockPeak = s.keeper.shockPeak := keep_keeper_shockPeak (logEv_keeps (g := .keeper) rfl a0 a1 a2 a3 a4 a5 s (.refl _ s))
@[simp] theorem logEv_keeper_shockAxes (a0 a1 a2 a3 a4 a5 s) : (logEv a0 a1 a2 a3 a4 a5 s).keeper.shockAxes = s.keeper.shockAxes := keep_keeper_shockAxes (logEv_keeps (g := .keeper) rfl a0 a1 a2 a3 a4 a5 s (.refl _ s))
@[simp] theorem logEv_keeper_shockOver (a0 a1 a2 a3 a4 a5 s) : (logEv a0 a1 a2 a3 a4 a5 s).keeper.shockOver = s.keeper.shockOver := keep_keeper_shockOver (logEv_keeps (g := .keeper) rfl a0 a1 a2 a3 a4 a5 s (.refl _ s))
@[simp] theorem logEv_keeper_shockHold (a0 a1 a2 a3 a4 a5 s) : (logEv a0 a1 a2 a3 a4 a5 s).keeper.shockHold = s.keeper.shockHold := keep_keeper_shockHold (logEv_keeps (g := .keeper) rfl a0 a1 a2 a3 a4 a5 s (.refl _ s))
@[simp] theorem logEv_keeper_transfer (a0 a1 a2 a3 a4 a5 s) : (logEv a0 a1 a2 a3 a4 a5 s).keeper.transfer = s.keeper.transfer := keep_keeper_transfer (logEv_keeps (g := .keeper) rfl a0 a1 a2 a3 a4 a5 s (.refl _ s))
@[simp] theorem logEv_keeper_deferred (a0 a1 a2 a3 a4 a5 s) : (logEv a0 a1 a2 a3 a4 a5 s).keeper.deferred = s.keeper.deferred := keep_keeper_deferred (logEv_keeps (g := .keeper) rfl a0 a1 a2 a3 a4 a5 s (.refl _ s))
@[simp] theorem logEv_keeper_rebootCause (a0 a1 a2 a3 a4 a5 s) : (logEv a0 a1 a2 a3 a4 a5 s).keeper.rebootCause = s.keeper.rebootCause := keep_keeper_rebootCause (logEv_keeps (g := .keeper) rfl a0 a1 a2 a3 a4 a5 s (.refl _ s))
@[simp] theorem logEv_keeper_reachDrops (a0 a1 a2 a3 a4 a5 s) : (logEv a0 a1 a2 a3 a4 a5 s).keeper.reachDrops = s.keeper.reachDrops := keep_keeper_reachDrops (logEv_keeps (g := .keeper) rfl a0 a1 a2 a3 a4 a5 s (.refl _ s))
@[simp] theorem logEv_spdm (a0 a1 a2 a3 a4 a5 s) : (logEv a0 a1 a2 a3 a4 a5 s).spdm = s.spdm := logEv_keeps (g := .spdm) rfl a0 a1 a2 a3 a4 a5 s (.refl _ s)
@[simp] theorem logEv_test (a0 a1 a2 a3 a4 a5 s) : (logEv a0 a1 a2 a3 a4 a5 s).test = s.test := logEv_keeps (g := .test) rfl a0 a1 a2 a3 a4 a5 s (.refl _ s)
@[simp] theorem logEv_hosts (a0 a1 a2 a3 a4 a5 s) : (logEv a0 a1 a2 a3 a4 a5 s).hosts = s.hosts := logEv_keeps (g := .hosts) rfl a0 a1 a2 a3 a4 a5 s (.refl _ s)
@[simp] theorem logEv_tide (a0 a1 a2 a3 a4 a5 s) : (logEv a0 a1 a2 a3 a4 a5 s).tide = s.tide := logEv_keeps (g := .tide) rfl a0 a1 a2 a3 a4 a5 s (.refl _ s)
@[simp] theorem logEv_rill (a0 a1 a2 a3 a4 a5 s) : (logEv a0 a1 a2 a3 a4 a5 s).rill = s.rill := rill_eq (logEv_keeps (g := .rill) rfl a0 a1 a2 a3 a4 a5 s (.refl _ s)) (logEv_keeps (g := .rillTable) rfl a0 a1 a2 a3 a4 a5 s (.refl _ s))
@[simp] theorem logEv_mills (a0 a1 a2 a3 a4 a5 s) : (logEv a0 a1 a2 a3 a4 a5 s).mills = s.mills := logEv_keeps (g := .mills) rfl a0 a1 a2 a3 a4 a5 s (.refl _ s)
@[simp] theorem logEv_shoal (a0 a1 a2 a3 a4 a5 s) : (logEv a0 a1 a2 a3 a4 a5 s).shoal = s.shoal := shoal_eq (logEv_keeps (g := .shoal) rfl a0 a1 a2 a3 a4 a5 s (.refl _ s)) (logEv_keeps (g := .slots) rfl a0 a1 a2 a3 a4 a5 s (.refl _ s))
@[simp] theorem logEv_attn (a0 a1 a2 a3 a4 a5 s) : (logEv a0 a1 a2 a3 a4 a5 s).attn = s.attn := logEv_keeps (g := .attn) rfl a0 a1 a2 a3 a4 a5 s (.refl _ s)
@[simp] theorem logEv_exch (a0 a1 a2 a3 a4 a5 s) : (logEv a0 a1 a2 a3 a4 a5 s).exch = s.exch := logEv_keeps (g := .exch) rfl a0 a1 a2 a3 a4 a5 s (.refl _ s)
@[simp] theorem logEv_out (a0 a1 a2 a3 a4 a5 s) : (logEv a0 a1 a2 a3 a4 a5 s).out = s.out := logEv_keeps (g := .out) rfl a0 a1 a2 a3 a4 a5 s (.refl _ s)
@[simp] theorem logEv_freeCtr (a0 a1 a2 a3 a4 a5 s) : (logEv a0 a1 a2 a3 a4 a5 s).freeCtr = s.freeCtr := logEv_keeps (g := .freeCtr) rfl a0 a1 a2 a3 a4 a5 s (.refl _ s)
@[simp] theorem logEv_pending (a0 a1 a2 a3 a4 a5 s) : (logEv a0 a1 a2 a3 a4 a5 s).pending = s.pending := logEv_keeps (g := .pending) rfl a0 a1 a2 a3 a4 a5 s (.refl _ s)

/-! `updRill` -/

@[simp] theorem updRill_boot (a0 a1 s) : (updRill a0 a1 s).boot = s.boot := updRill_keeps (g := .boot) rfl a0 a1 s (.refl _ s)
@[simp] theorem updRill_pins (a0 a1 s) : (updRill a0 a1 s).pins = s.pins := updRill_keeps (g := .pins) rfl a0 a1 s (.refl _ s)
@[simp] theorem updRill_nv (a0 a1 s) : (updRill a0 a1 s).nv = s.nv := nv_eq (updRill_keeps (g := .fuses) rfl a0 a1 s (.refl _ s)) (updRill_keeps (g := .ident) rfl a0 a1 s (.refl _ s)) (updRill_keeps (g := .nvLog) rfl a0 a1 s (.refl _ s)) (updRill_keeps (g := .nvStore) rfl a0 a1 s (.refl _ s))
@[simp] theorem updRill_hw (a0 a1 s) : (updRill a0 a1 s).hw = s.hw := updRill_keeps (g := .hw) rfl a0 a1 s (.refl _ s)
@[simp] theorem updRill_map (a0 a1 s) : (updRill a0 a1 s).map = s.map := updRill_keeps (g := .map) rfl a0 a1 s (.refl _ s)
@[simp] theorem updRill_party (a0 a1 s) : (updRill a0 a1 s).party = s.party := updRill_keeps (g := .party) rfl a0 a1 s (.refl _ s)
@[simp] theorem updRill_net (a0 a1 s) : (updRill a0 a1 s).net = s.net := net_eq (updRill_keeps (g := .net) rfl a0 a1 s (.refl _ s)) (updRill_keeps (g := .links) rfl a0 a1 s (.refl _ s))
@[simp] theorem updRill_weir (a0 a1 s) : (updRill a0 a1 s).weir = s.weir := weir_eq (updRill_keeps (g := .weirCtl) rfl a0 a1 s (.refl _ s)) (updRill_keeps (g := .weirQ) rfl a0 a1 s (.refl _ s))
@[simp] theorem updRill_store (a0 a1 s) : (updRill a0 a1 s).store = s.store := store_eq (updRill_keeps (g := .store) rfl a0 a1 s (.refl _ s)) (updRill_keeps (g := .bytes) rfl a0 a1 s (.refl _ s))
@[simp] theorem updRill_flush (a0 a1 s) : (updRill a0 a1 s).flush = s.flush := updRill_keeps (g := .flush) rfl a0 a1 s (.refl _ s)
@[simp] theorem updRill_coh (a0 a1 s) : (updRill a0 a1 s).coh = s.coh := updRill_keeps (g := .coh) rfl a0 a1 s (.refl _ s)
@[simp] theorem updRill_sluice (a0 a1 s) : (updRill a0 a1 s).sluice = s.sluice := updRill_keeps (g := .sluice) rfl a0 a1 s (.refl _ s)
@[simp] theorem updRill_keeper (a0 a1 s) : (updRill a0 a1 s).keeper = s.keeper := keeper_eq (updRill_keeps (g := .keepLog) rfl a0 a1 s (.refl _ s)) (updRill_keeps (g := .keeper) rfl a0 a1 s (.refl _ s))
@[simp] theorem updRill_spdm (a0 a1 s) : (updRill a0 a1 s).spdm = s.spdm := updRill_keeps (g := .spdm) rfl a0 a1 s (.refl _ s)
@[simp] theorem updRill_test (a0 a1 s) : (updRill a0 a1 s).test = s.test := updRill_keeps (g := .test) rfl a0 a1 s (.refl _ s)
@[simp] theorem updRill_hosts (a0 a1 s) : (updRill a0 a1 s).hosts = s.hosts := updRill_keeps (g := .hosts) rfl a0 a1 s (.refl _ s)
@[simp] theorem updRill_tide (a0 a1 s) : (updRill a0 a1 s).tide = s.tide := updRill_keeps (g := .tide) rfl a0 a1 s (.refl _ s)
@[simp] theorem updRill_rill_pending (a0 a1 s) : (updRill a0 a1 s).rill.pending = s.rill.pending := keep_rill_pending (updRill_keeps (g := .rill) rfl a0 a1 s (.refl _ s))
@[simp] theorem updRill_rill_firings (a0 a1 s) : (updRill a0 a1 s).rill.firings = s.rill.firings := keep_rill_firings (updRill_keeps (g := .rill) rfl a0 a1 s (.refl _ s))
@[simp] theorem updRill_rill_nextFiring (a0 a1 s) : (updRill a0 a1 s).rill.nextFiring = s.rill.nextFiring := keep_rill_nextFiring (updRill_keeps (g := .rill) rfl a0 a1 s (.refl _ s))
@[simp] theorem updRill_rill_nextDma (a0 a1 s) : (updRill a0 a1 s).rill.nextDma = s.rill.nextDma := keep_rill_nextDma (updRill_keeps (g := .rill) rfl a0 a1 s (.refl _ s))
@[simp] theorem updRill_rill_lastRace (a0 a1 s) : (updRill a0 a1 s).rill.lastRace = s.rill.lastRace := keep_rill_lastRace (updRill_keeps (g := .rill) rfl a0 a1 s (.refl _ s))
@[simp] theorem updRill_mills (a0 a1 s) : (updRill a0 a1 s).mills = s.mills := updRill_keeps (g := .mills) rfl a0 a1 s (.refl _ s)
@[simp] theorem updRill_shoal (a0 a1 s) : (updRill a0 a1 s).shoal = s.shoal := shoal_eq (updRill_keeps (g := .shoal) rfl a0 a1 s (.refl _ s)) (updRill_keeps (g := .slots) rfl a0 a1 s (.refl _ s))
@[simp] theorem updRill_attn (a0 a1 s) : (updRill a0 a1 s).attn = s.attn := updRill_keeps (g := .attn) rfl a0 a1 s (.refl _ s)
@[simp] theorem updRill_exch (a0 a1 s) : (updRill a0 a1 s).exch = s.exch := updRill_keeps (g := .exch) rfl a0 a1 s (.refl _ s)
@[simp] theorem updRill_out (a0 a1 s) : (updRill a0 a1 s).out = s.out := updRill_keeps (g := .out) rfl a0 a1 s (.refl _ s)
@[simp] theorem updRill_freeCtr (a0 a1 s) : (updRill a0 a1 s).freeCtr = s.freeCtr := updRill_keeps (g := .freeCtr) rfl a0 a1 s (.refl _ s)
@[simp] theorem updRill_pending (a0 a1 s) : (updRill a0 a1 s).pending = s.pending := updRill_keeps (g := .pending) rfl a0 a1 s (.refl _ s)

/-! `updFiring` -/

@[simp] theorem updFiring_boot (a0 a1 s) : (updFiring a0 a1 s).boot = s.boot := updFiring_keeps (g := .boot) rfl a0 a1 s (.refl _ s)
@[simp] theorem updFiring_pins (a0 a1 s) : (updFiring a0 a1 s).pins = s.pins := updFiring_keeps (g := .pins) rfl a0 a1 s (.refl _ s)
@[simp] theorem updFiring_nv (a0 a1 s) : (updFiring a0 a1 s).nv = s.nv := nv_eq (updFiring_keeps (g := .fuses) rfl a0 a1 s (.refl _ s)) (updFiring_keeps (g := .ident) rfl a0 a1 s (.refl _ s)) (updFiring_keeps (g := .nvLog) rfl a0 a1 s (.refl _ s)) (updFiring_keeps (g := .nvStore) rfl a0 a1 s (.refl _ s))
@[simp] theorem updFiring_hw (a0 a1 s) : (updFiring a0 a1 s).hw = s.hw := updFiring_keeps (g := .hw) rfl a0 a1 s (.refl _ s)
@[simp] theorem updFiring_map (a0 a1 s) : (updFiring a0 a1 s).map = s.map := updFiring_keeps (g := .map) rfl a0 a1 s (.refl _ s)
@[simp] theorem updFiring_party (a0 a1 s) : (updFiring a0 a1 s).party = s.party := updFiring_keeps (g := .party) rfl a0 a1 s (.refl _ s)
@[simp] theorem updFiring_net (a0 a1 s) : (updFiring a0 a1 s).net = s.net := net_eq (updFiring_keeps (g := .net) rfl a0 a1 s (.refl _ s)) (updFiring_keeps (g := .links) rfl a0 a1 s (.refl _ s))
@[simp] theorem updFiring_weir (a0 a1 s) : (updFiring a0 a1 s).weir = s.weir := weir_eq (updFiring_keeps (g := .weirCtl) rfl a0 a1 s (.refl _ s)) (updFiring_keeps (g := .weirQ) rfl a0 a1 s (.refl _ s))
@[simp] theorem updFiring_store (a0 a1 s) : (updFiring a0 a1 s).store = s.store := store_eq (updFiring_keeps (g := .store) rfl a0 a1 s (.refl _ s)) (updFiring_keeps (g := .bytes) rfl a0 a1 s (.refl _ s))
@[simp] theorem updFiring_flush (a0 a1 s) : (updFiring a0 a1 s).flush = s.flush := updFiring_keeps (g := .flush) rfl a0 a1 s (.refl _ s)
@[simp] theorem updFiring_coh (a0 a1 s) : (updFiring a0 a1 s).coh = s.coh := updFiring_keeps (g := .coh) rfl a0 a1 s (.refl _ s)
@[simp] theorem updFiring_sluice (a0 a1 s) : (updFiring a0 a1 s).sluice = s.sluice := updFiring_keeps (g := .sluice) rfl a0 a1 s (.refl _ s)
@[simp] theorem updFiring_keeper (a0 a1 s) : (updFiring a0 a1 s).keeper = s.keeper := keeper_eq (updFiring_keeps (g := .keepLog) rfl a0 a1 s (.refl _ s)) (updFiring_keeps (g := .keeper) rfl a0 a1 s (.refl _ s))
@[simp] theorem updFiring_spdm (a0 a1 s) : (updFiring a0 a1 s).spdm = s.spdm := updFiring_keeps (g := .spdm) rfl a0 a1 s (.refl _ s)
@[simp] theorem updFiring_test (a0 a1 s) : (updFiring a0 a1 s).test = s.test := updFiring_keeps (g := .test) rfl a0 a1 s (.refl _ s)
@[simp] theorem updFiring_hosts (a0 a1 s) : (updFiring a0 a1 s).hosts = s.hosts := updFiring_keeps (g := .hosts) rfl a0 a1 s (.refl _ s)
@[simp] theorem updFiring_tide (a0 a1 s) : (updFiring a0 a1 s).tide = s.tide := updFiring_keeps (g := .tide) rfl a0 a1 s (.refl _ s)
@[simp] theorem updFiring_mills (a0 a1 s) : (updFiring a0 a1 s).mills = s.mills := updFiring_keeps (g := .mills) rfl a0 a1 s (.refl _ s)
@[simp] theorem updFiring_shoal (a0 a1 s) : (updFiring a0 a1 s).shoal = s.shoal := shoal_eq (updFiring_keeps (g := .shoal) rfl a0 a1 s (.refl _ s)) (updFiring_keeps (g := .slots) rfl a0 a1 s (.refl _ s))
@[simp] theorem updFiring_attn (a0 a1 s) : (updFiring a0 a1 s).attn = s.attn := updFiring_keeps (g := .attn) rfl a0 a1 s (.refl _ s)
@[simp] theorem updFiring_exch (a0 a1 s) : (updFiring a0 a1 s).exch = s.exch := updFiring_keeps (g := .exch) rfl a0 a1 s (.refl _ s)
@[simp] theorem updFiring_out (a0 a1 s) : (updFiring a0 a1 s).out = s.out := updFiring_keeps (g := .out) rfl a0 a1 s (.refl _ s)
@[simp] theorem updFiring_freeCtr (a0 a1 s) : (updFiring a0 a1 s).freeCtr = s.freeCtr := updFiring_keeps (g := .freeCtr) rfl a0 a1 s (.refl _ s)
@[simp] theorem updFiring_pending (a0 a1 s) : (updFiring a0 a1 s).pending = s.pending := updFiring_keeps (g := .pending) rfl a0 a1 s (.refl _ s)

/-! `updTier` -/

@[simp] theorem updTier_boot (a0 a1 s) : (updTier a0 a1 s).boot = s.boot := updTier_keeps (g := .boot) rfl a0 a1 s (.refl _ s)
@[simp] theorem updTier_pins (a0 a1 s) : (updTier a0 a1 s).pins = s.pins := updTier_keeps (g := .pins) rfl a0 a1 s (.refl _ s)
@[simp] theorem updTier_nv (a0 a1 s) : (updTier a0 a1 s).nv = s.nv := nv_eq (updTier_keeps (g := .fuses) rfl a0 a1 s (.refl _ s)) (updTier_keeps (g := .ident) rfl a0 a1 s (.refl _ s)) (updTier_keeps (g := .nvLog) rfl a0 a1 s (.refl _ s)) (updTier_keeps (g := .nvStore) rfl a0 a1 s (.refl _ s))
@[simp] theorem updTier_hw (a0 a1 s) : (updTier a0 a1 s).hw = s.hw := updTier_keeps (g := .hw) rfl a0 a1 s (.refl _ s)
@[simp] theorem updTier_map (a0 a1 s) : (updTier a0 a1 s).map = s.map := updTier_keeps (g := .map) rfl a0 a1 s (.refl _ s)
@[simp] theorem updTier_party (a0 a1 s) : (updTier a0 a1 s).party = s.party := updTier_keeps (g := .party) rfl a0 a1 s (.refl _ s)
@[simp] theorem updTier_net (a0 a1 s) : (updTier a0 a1 s).net = s.net := net_eq (updTier_keeps (g := .net) rfl a0 a1 s (.refl _ s)) (updTier_keeps (g := .links) rfl a0 a1 s (.refl _ s))
@[simp] theorem updTier_weir (a0 a1 s) : (updTier a0 a1 s).weir = s.weir := weir_eq (updTier_keeps (g := .weirCtl) rfl a0 a1 s (.refl _ s)) (updTier_keeps (g := .weirQ) rfl a0 a1 s (.refl _ s))
@[simp] theorem updTier_flush (a0 a1 s) : (updTier a0 a1 s).flush = s.flush := updTier_keeps (g := .flush) rfl a0 a1 s (.refl _ s)
@[simp] theorem updTier_coh (a0 a1 s) : (updTier a0 a1 s).coh = s.coh := updTier_keeps (g := .coh) rfl a0 a1 s (.refl _ s)
@[simp] theorem updTier_sluice (a0 a1 s) : (updTier a0 a1 s).sluice = s.sluice := updTier_keeps (g := .sluice) rfl a0 a1 s (.refl _ s)
@[simp] theorem updTier_keeper (a0 a1 s) : (updTier a0 a1 s).keeper = s.keeper := keeper_eq (updTier_keeps (g := .keepLog) rfl a0 a1 s (.refl _ s)) (updTier_keeps (g := .keeper) rfl a0 a1 s (.refl _ s))
@[simp] theorem updTier_spdm (a0 a1 s) : (updTier a0 a1 s).spdm = s.spdm := updTier_keeps (g := .spdm) rfl a0 a1 s (.refl _ s)
@[simp] theorem updTier_test (a0 a1 s) : (updTier a0 a1 s).test = s.test := updTier_keeps (g := .test) rfl a0 a1 s (.refl _ s)
@[simp] theorem updTier_hosts (a0 a1 s) : (updTier a0 a1 s).hosts = s.hosts := updTier_keeps (g := .hosts) rfl a0 a1 s (.refl _ s)
@[simp] theorem updTier_tide (a0 a1 s) : (updTier a0 a1 s).tide = s.tide := updTier_keeps (g := .tide) rfl a0 a1 s (.refl _ s)
@[simp] theorem updTier_rill (a0 a1 s) : (updTier a0 a1 s).rill = s.rill := rill_eq (updTier_keeps (g := .rill) rfl a0 a1 s (.refl _ s)) (updTier_keeps (g := .rillTable) rfl a0 a1 s (.refl _ s))
@[simp] theorem updTier_mills (a0 a1 s) : (updTier a0 a1 s).mills = s.mills := updTier_keeps (g := .mills) rfl a0 a1 s (.refl _ s)
@[simp] theorem updTier_shoal (a0 a1 s) : (updTier a0 a1 s).shoal = s.shoal := shoal_eq (updTier_keeps (g := .shoal) rfl a0 a1 s (.refl _ s)) (updTier_keeps (g := .slots) rfl a0 a1 s (.refl _ s))
@[simp] theorem updTier_attn (a0 a1 s) : (updTier a0 a1 s).attn = s.attn := updTier_keeps (g := .attn) rfl a0 a1 s (.refl _ s)
@[simp] theorem updTier_exch (a0 a1 s) : (updTier a0 a1 s).exch = s.exch := updTier_keeps (g := .exch) rfl a0 a1 s (.refl _ s)
@[simp] theorem updTier_out (a0 a1 s) : (updTier a0 a1 s).out = s.out := updTier_keeps (g := .out) rfl a0 a1 s (.refl _ s)
@[simp] theorem updTier_freeCtr (a0 a1 s) : (updTier a0 a1 s).freeCtr = s.freeCtr := updTier_keeps (g := .freeCtr) rfl a0 a1 s (.refl _ s)
@[simp] theorem updTier_pending (a0 a1 s) : (updTier a0 a1 s).pending = s.pending := updTier_keeps (g := .pending) rfl a0 a1 s (.refl _ s)

/-! `updSlot` -/

@[simp] theorem updSlot_boot (a0 a1 s) : (updSlot a0 a1 s).boot = s.boot := updSlot_keeps (g := .boot) rfl a0 a1 s (.refl _ s)
@[simp] theorem updSlot_pins (a0 a1 s) : (updSlot a0 a1 s).pins = s.pins := updSlot_keeps (g := .pins) rfl a0 a1 s (.refl _ s)
@[simp] theorem updSlot_nv (a0 a1 s) : (updSlot a0 a1 s).nv = s.nv := nv_eq (updSlot_keeps (g := .fuses) rfl a0 a1 s (.refl _ s)) (updSlot_keeps (g := .ident) rfl a0 a1 s (.refl _ s)) (updSlot_keeps (g := .nvLog) rfl a0 a1 s (.refl _ s)) (updSlot_keeps (g := .nvStore) rfl a0 a1 s (.refl _ s))
@[simp] theorem updSlot_hw (a0 a1 s) : (updSlot a0 a1 s).hw = s.hw := updSlot_keeps (g := .hw) rfl a0 a1 s (.refl _ s)
@[simp] theorem updSlot_map (a0 a1 s) : (updSlot a0 a1 s).map = s.map := updSlot_keeps (g := .map) rfl a0 a1 s (.refl _ s)
@[simp] theorem updSlot_party (a0 a1 s) : (updSlot a0 a1 s).party = s.party := updSlot_keeps (g := .party) rfl a0 a1 s (.refl _ s)
@[simp] theorem updSlot_net (a0 a1 s) : (updSlot a0 a1 s).net = s.net := net_eq (updSlot_keeps (g := .net) rfl a0 a1 s (.refl _ s)) (updSlot_keeps (g := .links) rfl a0 a1 s (.refl _ s))
@[simp] theorem updSlot_weir (a0 a1 s) : (updSlot a0 a1 s).weir = s.weir := weir_eq (updSlot_keeps (g := .weirCtl) rfl a0 a1 s (.refl _ s)) (updSlot_keeps (g := .weirQ) rfl a0 a1 s (.refl _ s))
@[simp] theorem updSlot_store (a0 a1 s) : (updSlot a0 a1 s).store = s.store := store_eq (updSlot_keeps (g := .store) rfl a0 a1 s (.refl _ s)) (updSlot_keeps (g := .bytes) rfl a0 a1 s (.refl _ s))
@[simp] theorem updSlot_flush (a0 a1 s) : (updSlot a0 a1 s).flush = s.flush := updSlot_keeps (g := .flush) rfl a0 a1 s (.refl _ s)
@[simp] theorem updSlot_coh (a0 a1 s) : (updSlot a0 a1 s).coh = s.coh := updSlot_keeps (g := .coh) rfl a0 a1 s (.refl _ s)
@[simp] theorem updSlot_sluice (a0 a1 s) : (updSlot a0 a1 s).sluice = s.sluice := updSlot_keeps (g := .sluice) rfl a0 a1 s (.refl _ s)
@[simp] theorem updSlot_keeper (a0 a1 s) : (updSlot a0 a1 s).keeper = s.keeper := keeper_eq (updSlot_keeps (g := .keepLog) rfl a0 a1 s (.refl _ s)) (updSlot_keeps (g := .keeper) rfl a0 a1 s (.refl _ s))
@[simp] theorem updSlot_spdm (a0 a1 s) : (updSlot a0 a1 s).spdm = s.spdm := updSlot_keeps (g := .spdm) rfl a0 a1 s (.refl _ s)
@[simp] theorem updSlot_test (a0 a1 s) : (updSlot a0 a1 s).test = s.test := updSlot_keeps (g := .test) rfl a0 a1 s (.refl _ s)
@[simp] theorem updSlot_hosts (a0 a1 s) : (updSlot a0 a1 s).hosts = s.hosts := updSlot_keeps (g := .hosts) rfl a0 a1 s (.refl _ s)
@[simp] theorem updSlot_tide (a0 a1 s) : (updSlot a0 a1 s).tide = s.tide := updSlot_keeps (g := .tide) rfl a0 a1 s (.refl _ s)
@[simp] theorem updSlot_rill (a0 a1 s) : (updSlot a0 a1 s).rill = s.rill := rill_eq (updSlot_keeps (g := .rill) rfl a0 a1 s (.refl _ s)) (updSlot_keeps (g := .rillTable) rfl a0 a1 s (.refl _ s))
@[simp] theorem updSlot_mills (a0 a1 s) : (updSlot a0 a1 s).mills = s.mills := updSlot_keeps (g := .mills) rfl a0 a1 s (.refl _ s)
@[simp] theorem updSlot_shoal_outcomes (a0 a1 s) : (updSlot a0 a1 s).shoal.outcomes = s.shoal.outcomes := keep_shoal_outcomes (updSlot_keeps (g := .shoal) rfl a0 a1 s (.refl _ s))
@[simp] theorem updSlot_shoal_expOff (a0 a1 s) : (updSlot a0 a1 s).shoal.expOff = s.shoal.expOff := keep_shoal_expOff (updSlot_keeps (g := .shoal) rfl a0 a1 s (.refl _ s))
@[simp] theorem updSlot_attn (a0 a1 s) : (updSlot a0 a1 s).attn = s.attn := updSlot_keeps (g := .attn) rfl a0 a1 s (.refl _ s)
@[simp] theorem updSlot_exch (a0 a1 s) : (updSlot a0 a1 s).exch = s.exch := updSlot_keeps (g := .exch) rfl a0 a1 s (.refl _ s)
@[simp] theorem updSlot_out (a0 a1 s) : (updSlot a0 a1 s).out = s.out := updSlot_keeps (g := .out) rfl a0 a1 s (.refl _ s)
@[simp] theorem updSlot_freeCtr (a0 a1 s) : (updSlot a0 a1 s).freeCtr = s.freeCtr := updSlot_keeps (g := .freeCtr) rfl a0 a1 s (.refl _ s)
@[simp] theorem updSlot_pending (a0 a1 s) : (updSlot a0 a1 s).pending = s.pending := updSlot_keeps (g := .pending) rfl a0 a1 s (.refl _ s)

/-! `updRace` -/

@[simp] theorem updRace_boot (a0 a1 s) : (updRace a0 a1 s).boot = s.boot := updRace_keeps (g := .boot) rfl a0 a1 s (.refl _ s)
@[simp] theorem updRace_pins (a0 a1 s) : (updRace a0 a1 s).pins = s.pins := updRace_keeps (g := .pins) rfl a0 a1 s (.refl _ s)
@[simp] theorem updRace_nv (a0 a1 s) : (updRace a0 a1 s).nv = s.nv := nv_eq (updRace_keeps (g := .fuses) rfl a0 a1 s (.refl _ s)) (updRace_keeps (g := .ident) rfl a0 a1 s (.refl _ s)) (updRace_keeps (g := .nvLog) rfl a0 a1 s (.refl _ s)) (updRace_keeps (g := .nvStore) rfl a0 a1 s (.refl _ s))
@[simp] theorem updRace_hw (a0 a1 s) : (updRace a0 a1 s).hw = s.hw := updRace_keeps (g := .hw) rfl a0 a1 s (.refl _ s)
@[simp] theorem updRace_map (a0 a1 s) : (updRace a0 a1 s).map = s.map := updRace_keeps (g := .map) rfl a0 a1 s (.refl _ s)
@[simp] theorem updRace_party (a0 a1 s) : (updRace a0 a1 s).party = s.party := updRace_keeps (g := .party) rfl a0 a1 s (.refl _ s)
@[simp] theorem updRace_net (a0 a1 s) : (updRace a0 a1 s).net = s.net := net_eq (updRace_keeps (g := .net) rfl a0 a1 s (.refl _ s)) (updRace_keeps (g := .links) rfl a0 a1 s (.refl _ s))
@[simp] theorem updRace_weir (a0 a1 s) : (updRace a0 a1 s).weir = s.weir := weir_eq (updRace_keeps (g := .weirCtl) rfl a0 a1 s (.refl _ s)) (updRace_keeps (g := .weirQ) rfl a0 a1 s (.refl _ s))
@[simp] theorem updRace_store (a0 a1 s) : (updRace a0 a1 s).store = s.store := store_eq (updRace_keeps (g := .store) rfl a0 a1 s (.refl _ s)) (updRace_keeps (g := .bytes) rfl a0 a1 s (.refl _ s))
@[simp] theorem updRace_flush (a0 a1 s) : (updRace a0 a1 s).flush = s.flush := updRace_keeps (g := .flush) rfl a0 a1 s (.refl _ s)
@[simp] theorem updRace_coh (a0 a1 s) : (updRace a0 a1 s).coh = s.coh := updRace_keeps (g := .coh) rfl a0 a1 s (.refl _ s)
@[simp] theorem updRace_sluice (a0 a1 s) : (updRace a0 a1 s).sluice = s.sluice := updRace_keeps (g := .sluice) rfl a0 a1 s (.refl _ s)
@[simp] theorem updRace_keeper (a0 a1 s) : (updRace a0 a1 s).keeper = s.keeper := keeper_eq (updRace_keeps (g := .keepLog) rfl a0 a1 s (.refl _ s)) (updRace_keeps (g := .keeper) rfl a0 a1 s (.refl _ s))
@[simp] theorem updRace_spdm (a0 a1 s) : (updRace a0 a1 s).spdm = s.spdm := updRace_keeps (g := .spdm) rfl a0 a1 s (.refl _ s)
@[simp] theorem updRace_test (a0 a1 s) : (updRace a0 a1 s).test = s.test := updRace_keeps (g := .test) rfl a0 a1 s (.refl _ s)
@[simp] theorem updRace_hosts (a0 a1 s) : (updRace a0 a1 s).hosts = s.hosts := updRace_keeps (g := .hosts) rfl a0 a1 s (.refl _ s)
@[simp] theorem updRace_tide (a0 a1 s) : (updRace a0 a1 s).tide = s.tide := updRace_keeps (g := .tide) rfl a0 a1 s (.refl _ s)
@[simp] theorem updRace_rill (a0 a1 s) : (updRace a0 a1 s).rill = s.rill := rill_eq (updRace_keeps (g := .rill) rfl a0 a1 s (.refl _ s)) (updRace_keeps (g := .rillTable) rfl a0 a1 s (.refl _ s))
@[simp] theorem updRace_mills (a0 a1 s) : (updRace a0 a1 s).mills = s.mills := updRace_keeps (g := .mills) rfl a0 a1 s (.refl _ s)
@[simp] theorem updRace_attn (a0 a1 s) : (updRace a0 a1 s).attn = s.attn := updRace_keeps (g := .attn) rfl a0 a1 s (.refl _ s)
@[simp] theorem updRace_exch (a0 a1 s) : (updRace a0 a1 s).exch = s.exch := updRace_keeps (g := .exch) rfl a0 a1 s (.refl _ s)
@[simp] theorem updRace_out (a0 a1 s) : (updRace a0 a1 s).out = s.out := updRace_keeps (g := .out) rfl a0 a1 s (.refl _ s)
@[simp] theorem updRace_freeCtr (a0 a1 s) : (updRace a0 a1 s).freeCtr = s.freeCtr := updRace_keeps (g := .freeCtr) rfl a0 a1 s (.refl _ s)
@[simp] theorem updRace_pending (a0 a1 s) : (updRace a0 a1 s).pending = s.pending := updRace_keeps (g := .pending) rfl a0 a1 s (.refl _ s)

/-! `updJob` -/

@[simp] theorem updJob_boot (a0 a1 a2 s) : (updJob a0 a1 a2 s).boot = s.boot := updJob_keeps (g := .boot) rfl a0 a1 a2 s (.refl _ s)
@[simp] theorem updJob_pins (a0 a1 a2 s) : (updJob a0 a1 a2 s).pins = s.pins := updJob_keeps (g := .pins) rfl a0 a1 a2 s (.refl _ s)
@[simp] theorem updJob_nv (a0 a1 a2 s) : (updJob a0 a1 a2 s).nv = s.nv := nv_eq (updJob_keeps (g := .fuses) rfl a0 a1 a2 s (.refl _ s)) (updJob_keeps (g := .ident) rfl a0 a1 a2 s (.refl _ s)) (updJob_keeps (g := .nvLog) rfl a0 a1 a2 s (.refl _ s)) (updJob_keeps (g := .nvStore) rfl a0 a1 a2 s (.refl _ s))
@[simp] theorem updJob_hw (a0 a1 a2 s) : (updJob a0 a1 a2 s).hw = s.hw := updJob_keeps (g := .hw) rfl a0 a1 a2 s (.refl _ s)
@[simp] theorem updJob_map (a0 a1 a2 s) : (updJob a0 a1 a2 s).map = s.map := updJob_keeps (g := .map) rfl a0 a1 a2 s (.refl _ s)
@[simp] theorem updJob_party (a0 a1 a2 s) : (updJob a0 a1 a2 s).party = s.party := updJob_keeps (g := .party) rfl a0 a1 a2 s (.refl _ s)
@[simp] theorem updJob_net (a0 a1 a2 s) : (updJob a0 a1 a2 s).net = s.net := net_eq (updJob_keeps (g := .net) rfl a0 a1 a2 s (.refl _ s)) (updJob_keeps (g := .links) rfl a0 a1 a2 s (.refl _ s))
@[simp] theorem updJob_weir (a0 a1 a2 s) : (updJob a0 a1 a2 s).weir = s.weir := weir_eq (updJob_keeps (g := .weirCtl) rfl a0 a1 a2 s (.refl _ s)) (updJob_keeps (g := .weirQ) rfl a0 a1 a2 s (.refl _ s))
@[simp] theorem updJob_store (a0 a1 a2 s) : (updJob a0 a1 a2 s).store = s.store := store_eq (updJob_keeps (g := .store) rfl a0 a1 a2 s (.refl _ s)) (updJob_keeps (g := .bytes) rfl a0 a1 a2 s (.refl _ s))
@[simp] theorem updJob_flush (a0 a1 a2 s) : (updJob a0 a1 a2 s).flush = s.flush := updJob_keeps (g := .flush) rfl a0 a1 a2 s (.refl _ s)
@[simp] theorem updJob_coh (a0 a1 a2 s) : (updJob a0 a1 a2 s).coh = s.coh := updJob_keeps (g := .coh) rfl a0 a1 a2 s (.refl _ s)
@[simp] theorem updJob_sluice (a0 a1 a2 s) : (updJob a0 a1 a2 s).sluice = s.sluice := updJob_keeps (g := .sluice) rfl a0 a1 a2 s (.refl _ s)
@[simp] theorem updJob_keeper (a0 a1 a2 s) : (updJob a0 a1 a2 s).keeper = s.keeper := keeper_eq (updJob_keeps (g := .keepLog) rfl a0 a1 a2 s (.refl _ s)) (updJob_keeps (g := .keeper) rfl a0 a1 a2 s (.refl _ s))
@[simp] theorem updJob_spdm (a0 a1 a2 s) : (updJob a0 a1 a2 s).spdm = s.spdm := updJob_keeps (g := .spdm) rfl a0 a1 a2 s (.refl _ s)
@[simp] theorem updJob_test (a0 a1 a2 s) : (updJob a0 a1 a2 s).test = s.test := updJob_keeps (g := .test) rfl a0 a1 a2 s (.refl _ s)
@[simp] theorem updJob_hosts (a0 a1 a2 s) : (updJob a0 a1 a2 s).hosts = s.hosts := updJob_keeps (g := .hosts) rfl a0 a1 a2 s (.refl _ s)
@[simp] theorem updJob_tide (a0 a1 a2 s) : (updJob a0 a1 a2 s).tide = s.tide := updJob_keeps (g := .tide) rfl a0 a1 a2 s (.refl _ s)
@[simp] theorem updJob_mills (a0 a1 a2 s) : (updJob a0 a1 a2 s).mills = s.mills := updJob_keeps (g := .mills) rfl a0 a1 a2 s (.refl _ s)
@[simp] theorem updJob_shoal (a0 a1 a2 s) : (updJob a0 a1 a2 s).shoal = s.shoal := shoal_eq (updJob_keeps (g := .shoal) rfl a0 a1 a2 s (.refl _ s)) (updJob_keeps (g := .slots) rfl a0 a1 a2 s (.refl _ s))
@[simp] theorem updJob_attn (a0 a1 a2 s) : (updJob a0 a1 a2 s).attn = s.attn := updJob_keeps (g := .attn) rfl a0 a1 a2 s (.refl _ s)
@[simp] theorem updJob_exch (a0 a1 a2 s) : (updJob a0 a1 a2 s).exch = s.exch := updJob_keeps (g := .exch) rfl a0 a1 a2 s (.refl _ s)
@[simp] theorem updJob_out (a0 a1 a2 s) : (updJob a0 a1 a2 s).out = s.out := updJob_keeps (g := .out) rfl a0 a1 a2 s (.refl _ s)
@[simp] theorem updJob_freeCtr (a0 a1 a2 s) : (updJob a0 a1 a2 s).freeCtr = s.freeCtr := updJob_keeps (g := .freeCtr) rfl a0 a1 a2 s (.refl _ s)
@[simp] theorem updJob_pending (a0 a1 a2 s) : (updJob a0 a1 a2 s).pending = s.pending := updJob_keeps (g := .pending) rfl a0 a1 a2 s (.refl _ s)

/-! `updRec` -/

@[simp] theorem updRec_boot (a0 a1 s) : (updRec a0 a1 s).boot = s.boot := updRec_keeps (g := .boot) rfl a0 a1 s (.refl _ s)
@[simp] theorem updRec_pins (a0 a1 s) : (updRec a0 a1 s).pins = s.pins := updRec_keeps (g := .pins) rfl a0 a1 s (.refl _ s)
@[simp] theorem updRec_nv_lossOpen (a0 a1 s) : (updRec a0 a1 s).nv.lossOpen = s.nv.lossOpen := keep_nv_lossOpen (updRec_keeps (g := .nvLog) rfl a0 a1 s (.refl _ s))
@[simp] theorem updRec_nv_batchPrev (a0 a1 s) : (updRec a0 a1 s).nv.batchPrev = s.nv.batchPrev := keep_nv_batchPrev (updRec_keeps (g := .nvLog) rfl a0 a1 s (.refl _ s))
@[simp] theorem updRec_nv_nextSeq (a0 a1 s) : (updRec a0 a1 s).nv.nextSeq = s.nv.nextSeq := keep_nv_nextSeq (updRec_keeps (g := .nvLog) rfl a0 a1 s (.refl _ s))
@[simp] theorem updRec_nv_retiredRows (a0 a1 s) : (updRec a0 a1 s).nv.retiredRows = s.nv.retiredRows := keep_nv_retiredRows (updRec_keeps (g := .nvStore) rfl a0 a1 s (.refl _ s))
@[simp] theorem updRec_nv_flashSerial (a0 a1 s) : (updRec a0 a1 s).nv.flashSerial = s.nv.flashSerial := keep_nv_flashSerial (updRec_keeps (g := .nvStore) rfl a0 a1 s (.refl _ s))
@[simp] theorem updRec_nv_flashPoison (a0 a1 s) : (updRec a0 a1 s).nv.flashPoison = s.nv.flashPoison := keep_nv_flashPoison (updRec_keeps (g := .nvStore) rfl a0 a1 s (.refl _ s))
@[simp] theorem updRec_nv_reserve (a0 a1 s) : (updRec a0 a1 s).nv.reserve = s.nv.reserve := keep_nv_reserve (updRec_keeps (g := .nvStore) rfl a0 a1 s (.refl _ s))
@[simp] theorem updRec_hw (a0 a1 s) : (updRec a0 a1 s).hw = s.hw := updRec_keeps (g := .hw) rfl a0 a1 s (.refl _ s)
@[simp] theorem updRec_map (a0 a1 s) : (updRec a0 a1 s).map = s.map := updRec_keeps (g := .map) rfl a0 a1 s (.refl _ s)
@[simp] theorem updRec_party (a0 a1 s) : (updRec a0 a1 s).party = s.party := updRec_keeps (g := .party) rfl a0 a1 s (.refl _ s)
@[simp] theorem updRec_net (a0 a1 s) : (updRec a0 a1 s).net = s.net := net_eq (updRec_keeps (g := .net) rfl a0 a1 s (.refl _ s)) (updRec_keeps (g := .links) rfl a0 a1 s (.refl _ s))
@[simp] theorem updRec_weir (a0 a1 s) : (updRec a0 a1 s).weir = s.weir := weir_eq (updRec_keeps (g := .weirCtl) rfl a0 a1 s (.refl _ s)) (updRec_keeps (g := .weirQ) rfl a0 a1 s (.refl _ s))
@[simp] theorem updRec_store (a0 a1 s) : (updRec a0 a1 s).store = s.store := store_eq (updRec_keeps (g := .store) rfl a0 a1 s (.refl _ s)) (updRec_keeps (g := .bytes) rfl a0 a1 s (.refl _ s))
@[simp] theorem updRec_flush (a0 a1 s) : (updRec a0 a1 s).flush = s.flush := updRec_keeps (g := .flush) rfl a0 a1 s (.refl _ s)
@[simp] theorem updRec_coh (a0 a1 s) : (updRec a0 a1 s).coh = s.coh := updRec_keeps (g := .coh) rfl a0 a1 s (.refl _ s)
@[simp] theorem updRec_sluice (a0 a1 s) : (updRec a0 a1 s).sluice = s.sluice := updRec_keeps (g := .sluice) rfl a0 a1 s (.refl _ s)
@[simp] theorem updRec_keeper (a0 a1 s) : (updRec a0 a1 s).keeper = s.keeper := keeper_eq (updRec_keeps (g := .keepLog) rfl a0 a1 s (.refl _ s)) (updRec_keeps (g := .keeper) rfl a0 a1 s (.refl _ s))
@[simp] theorem updRec_spdm (a0 a1 s) : (updRec a0 a1 s).spdm = s.spdm := updRec_keeps (g := .spdm) rfl a0 a1 s (.refl _ s)
@[simp] theorem updRec_test (a0 a1 s) : (updRec a0 a1 s).test = s.test := updRec_keeps (g := .test) rfl a0 a1 s (.refl _ s)
@[simp] theorem updRec_hosts (a0 a1 s) : (updRec a0 a1 s).hosts = s.hosts := updRec_keeps (g := .hosts) rfl a0 a1 s (.refl _ s)
@[simp] theorem updRec_tide (a0 a1 s) : (updRec a0 a1 s).tide = s.tide := updRec_keeps (g := .tide) rfl a0 a1 s (.refl _ s)
@[simp] theorem updRec_rill (a0 a1 s) : (updRec a0 a1 s).rill = s.rill := rill_eq (updRec_keeps (g := .rill) rfl a0 a1 s (.refl _ s)) (updRec_keeps (g := .rillTable) rfl a0 a1 s (.refl _ s))
@[simp] theorem updRec_mills (a0 a1 s) : (updRec a0 a1 s).mills = s.mills := updRec_keeps (g := .mills) rfl a0 a1 s (.refl _ s)
@[simp] theorem updRec_shoal (a0 a1 s) : (updRec a0 a1 s).shoal = s.shoal := shoal_eq (updRec_keeps (g := .shoal) rfl a0 a1 s (.refl _ s)) (updRec_keeps (g := .slots) rfl a0 a1 s (.refl _ s))
@[simp] theorem updRec_attn (a0 a1 s) : (updRec a0 a1 s).attn = s.attn := updRec_keeps (g := .attn) rfl a0 a1 s (.refl _ s)
@[simp] theorem updRec_exch (a0 a1 s) : (updRec a0 a1 s).exch = s.exch := updRec_keeps (g := .exch) rfl a0 a1 s (.refl _ s)
@[simp] theorem updRec_out (a0 a1 s) : (updRec a0 a1 s).out = s.out := updRec_keeps (g := .out) rfl a0 a1 s (.refl _ s)
@[simp] theorem updRec_freeCtr (a0 a1 s) : (updRec a0 a1 s).freeCtr = s.freeCtr := updRec_keeps (g := .freeCtr) rfl a0 a1 s (.refl _ s)
@[simp] theorem updRec_pending (a0 a1 s) : (updRec a0 a1 s).pending = s.pending := updRec_keeps (g := .pending) rfl a0 a1 s (.refl _ s)

/-! `dropAlert` -/

@[simp] theorem dropAlert_boot (a0 s) : (dropAlert a0 s).boot = s.boot := dropAlert_keeps (g := .boot) rfl a0 s (.refl _ s)
@[simp] theorem dropAlert_pins (a0 s) : (dropAlert a0 s).pins = s.pins := dropAlert_keeps (g := .pins) rfl a0 s (.refl _ s)
@[simp] theorem dropAlert_nv (a0 s) : (dropAlert a0 s).nv = s.nv := nv_eq (dropAlert_keeps (g := .fuses) rfl a0 s (.refl _ s)) (dropAlert_keeps (g := .ident) rfl a0 s (.refl _ s)) (dropAlert_keeps (g := .nvLog) rfl a0 s (.refl _ s)) (dropAlert_keeps (g := .nvStore) rfl a0 s (.refl _ s))
@[simp] theorem dropAlert_hw (a0 s) : (dropAlert a0 s).hw = s.hw := dropAlert_keeps (g := .hw) rfl a0 s (.refl _ s)
@[simp] theorem dropAlert_map (a0 s) : (dropAlert a0 s).map = s.map := dropAlert_keeps (g := .map) rfl a0 s (.refl _ s)
@[simp] theorem dropAlert_party (a0 s) : (dropAlert a0 s).party = s.party := dropAlert_keeps (g := .party) rfl a0 s (.refl _ s)
@[simp] theorem dropAlert_net (a0 s) : (dropAlert a0 s).net = s.net := net_eq (dropAlert_keeps (g := .net) rfl a0 s (.refl _ s)) (dropAlert_keeps (g := .links) rfl a0 s (.refl _ s))
@[simp] theorem dropAlert_weir (a0 s) : (dropAlert a0 s).weir = s.weir := weir_eq (dropAlert_keeps (g := .weirCtl) rfl a0 s (.refl _ s)) (dropAlert_keeps (g := .weirQ) rfl a0 s (.refl _ s))
@[simp] theorem dropAlert_store (a0 s) : (dropAlert a0 s).store = s.store := store_eq (dropAlert_keeps (g := .store) rfl a0 s (.refl _ s)) (dropAlert_keeps (g := .bytes) rfl a0 s (.refl _ s))
@[simp] theorem dropAlert_flush (a0 s) : (dropAlert a0 s).flush = s.flush := dropAlert_keeps (g := .flush) rfl a0 s (.refl _ s)
@[simp] theorem dropAlert_coh (a0 s) : (dropAlert a0 s).coh = s.coh := dropAlert_keeps (g := .coh) rfl a0 s (.refl _ s)
@[simp] theorem dropAlert_sluice (a0 s) : (dropAlert a0 s).sluice = s.sluice := dropAlert_keeps (g := .sluice) rfl a0 s (.refl _ s)
@[simp] theorem dropAlert_keeper_gravSamples (a0 s) : (dropAlert a0 s).keeper.gravSamples = s.keeper.gravSamples := keep_keeper_gravSamples (dropAlert_keeps (g := .keeper) rfl a0 s (.refl _ s))
@[simp] theorem dropAlert_keeper_shockRun (a0 s) : (dropAlert a0 s).keeper.shockRun = s.keeper.shockRun := keep_keeper_shockRun (dropAlert_keeps (g := .keeper) rfl a0 s (.refl _ s))
@[simp] theorem dropAlert_keeper_shockPeak (a0 s) : (dropAlert a0 s).keeper.shockPeak = s.keeper.shockPeak := keep_keeper_shockPeak (dropAlert_keeps (g := .keeper) rfl a0 s (.refl _ s))
@[simp] theorem dropAlert_keeper_shockAxes (a0 s) : (dropAlert a0 s).keeper.shockAxes = s.keeper.shockAxes := keep_keeper_shockAxes (dropAlert_keeps (g := .keeper) rfl a0 s (.refl _ s))
@[simp] theorem dropAlert_keeper_shockOver (a0 s) : (dropAlert a0 s).keeper.shockOver = s.keeper.shockOver := keep_keeper_shockOver (dropAlert_keeps (g := .keeper) rfl a0 s (.refl _ s))
@[simp] theorem dropAlert_keeper_shockHold (a0 s) : (dropAlert a0 s).keeper.shockHold = s.keeper.shockHold := keep_keeper_shockHold (dropAlert_keeps (g := .keeper) rfl a0 s (.refl _ s))
@[simp] theorem dropAlert_keeper_transfer (a0 s) : (dropAlert a0 s).keeper.transfer = s.keeper.transfer := keep_keeper_transfer (dropAlert_keeps (g := .keeper) rfl a0 s (.refl _ s))
@[simp] theorem dropAlert_keeper_deferred (a0 s) : (dropAlert a0 s).keeper.deferred = s.keeper.deferred := keep_keeper_deferred (dropAlert_keeps (g := .keeper) rfl a0 s (.refl _ s))
@[simp] theorem dropAlert_keeper_rebootCause (a0 s) : (dropAlert a0 s).keeper.rebootCause = s.keeper.rebootCause := keep_keeper_rebootCause (dropAlert_keeps (g := .keeper) rfl a0 s (.refl _ s))
@[simp] theorem dropAlert_keeper_reachDrops (a0 s) : (dropAlert a0 s).keeper.reachDrops = s.keeper.reachDrops := keep_keeper_reachDrops (dropAlert_keeps (g := .keeper) rfl a0 s (.refl _ s))
@[simp] theorem dropAlert_spdm (a0 s) : (dropAlert a0 s).spdm = s.spdm := dropAlert_keeps (g := .spdm) rfl a0 s (.refl _ s)
@[simp] theorem dropAlert_test (a0 s) : (dropAlert a0 s).test = s.test := dropAlert_keeps (g := .test) rfl a0 s (.refl _ s)
@[simp] theorem dropAlert_hosts (a0 s) : (dropAlert a0 s).hosts = s.hosts := dropAlert_keeps (g := .hosts) rfl a0 s (.refl _ s)
@[simp] theorem dropAlert_tide (a0 s) : (dropAlert a0 s).tide = s.tide := dropAlert_keeps (g := .tide) rfl a0 s (.refl _ s)
@[simp] theorem dropAlert_rill (a0 s) : (dropAlert a0 s).rill = s.rill := rill_eq (dropAlert_keeps (g := .rill) rfl a0 s (.refl _ s)) (dropAlert_keeps (g := .rillTable) rfl a0 s (.refl _ s))
@[simp] theorem dropAlert_mills (a0 s) : (dropAlert a0 s).mills = s.mills := dropAlert_keeps (g := .mills) rfl a0 s (.refl _ s)
@[simp] theorem dropAlert_shoal (a0 s) : (dropAlert a0 s).shoal = s.shoal := shoal_eq (dropAlert_keeps (g := .shoal) rfl a0 s (.refl _ s)) (dropAlert_keeps (g := .slots) rfl a0 s (.refl _ s))
@[simp] theorem dropAlert_attn (a0 s) : (dropAlert a0 s).attn = s.attn := dropAlert_keeps (g := .attn) rfl a0 s (.refl _ s)
@[simp] theorem dropAlert_exch (a0 s) : (dropAlert a0 s).exch = s.exch := dropAlert_keeps (g := .exch) rfl a0 s (.refl _ s)
@[simp] theorem dropAlert_out (a0 s) : (dropAlert a0 s).out = s.out := dropAlert_keeps (g := .out) rfl a0 s (.refl _ s)
@[simp] theorem dropAlert_freeCtr (a0 s) : (dropAlert a0 s).freeCtr = s.freeCtr := dropAlert_keeps (g := .freeCtr) rfl a0 s (.refl _ s)
@[simp] theorem dropAlert_pending (a0 s) : (dropAlert a0 s).pending = s.pending := dropAlert_keeps (g := .pending) rfl a0 s (.refl _ s)

/-! `setAlert` -/

@[simp] theorem setAlert_boot (a0 s) : (setAlert a0 s).boot = s.boot := setAlert_keeps (g := .boot) rfl a0 s (.refl _ s)
@[simp] theorem setAlert_pins (a0 s) : (setAlert a0 s).pins = s.pins := setAlert_keeps (g := .pins) rfl a0 s (.refl _ s)
@[simp] theorem setAlert_nv (a0 s) : (setAlert a0 s).nv = s.nv := nv_eq (setAlert_keeps (g := .fuses) rfl a0 s (.refl _ s)) (setAlert_keeps (g := .ident) rfl a0 s (.refl _ s)) (setAlert_keeps (g := .nvLog) rfl a0 s (.refl _ s)) (setAlert_keeps (g := .nvStore) rfl a0 s (.refl _ s))
@[simp] theorem setAlert_hw (a0 s) : (setAlert a0 s).hw = s.hw := setAlert_keeps (g := .hw) rfl a0 s (.refl _ s)
@[simp] theorem setAlert_map (a0 s) : (setAlert a0 s).map = s.map := setAlert_keeps (g := .map) rfl a0 s (.refl _ s)
@[simp] theorem setAlert_party (a0 s) : (setAlert a0 s).party = s.party := setAlert_keeps (g := .party) rfl a0 s (.refl _ s)
@[simp] theorem setAlert_net (a0 s) : (setAlert a0 s).net = s.net := net_eq (setAlert_keeps (g := .net) rfl a0 s (.refl _ s)) (setAlert_keeps (g := .links) rfl a0 s (.refl _ s))
@[simp] theorem setAlert_weir (a0 s) : (setAlert a0 s).weir = s.weir := weir_eq (setAlert_keeps (g := .weirCtl) rfl a0 s (.refl _ s)) (setAlert_keeps (g := .weirQ) rfl a0 s (.refl _ s))
@[simp] theorem setAlert_store (a0 s) : (setAlert a0 s).store = s.store := store_eq (setAlert_keeps (g := .store) rfl a0 s (.refl _ s)) (setAlert_keeps (g := .bytes) rfl a0 s (.refl _ s))
@[simp] theorem setAlert_flush (a0 s) : (setAlert a0 s).flush = s.flush := setAlert_keeps (g := .flush) rfl a0 s (.refl _ s)
@[simp] theorem setAlert_coh (a0 s) : (setAlert a0 s).coh = s.coh := setAlert_keeps (g := .coh) rfl a0 s (.refl _ s)
@[simp] theorem setAlert_sluice (a0 s) : (setAlert a0 s).sluice = s.sluice := setAlert_keeps (g := .sluice) rfl a0 s (.refl _ s)
@[simp] theorem setAlert_keeper_gravSamples (a0 s) : (setAlert a0 s).keeper.gravSamples = s.keeper.gravSamples := keep_keeper_gravSamples (setAlert_keeps (g := .keeper) rfl a0 s (.refl _ s))
@[simp] theorem setAlert_keeper_shockRun (a0 s) : (setAlert a0 s).keeper.shockRun = s.keeper.shockRun := keep_keeper_shockRun (setAlert_keeps (g := .keeper) rfl a0 s (.refl _ s))
@[simp] theorem setAlert_keeper_shockPeak (a0 s) : (setAlert a0 s).keeper.shockPeak = s.keeper.shockPeak := keep_keeper_shockPeak (setAlert_keeps (g := .keeper) rfl a0 s (.refl _ s))
@[simp] theorem setAlert_keeper_shockAxes (a0 s) : (setAlert a0 s).keeper.shockAxes = s.keeper.shockAxes := keep_keeper_shockAxes (setAlert_keeps (g := .keeper) rfl a0 s (.refl _ s))
@[simp] theorem setAlert_keeper_shockOver (a0 s) : (setAlert a0 s).keeper.shockOver = s.keeper.shockOver := keep_keeper_shockOver (setAlert_keeps (g := .keeper) rfl a0 s (.refl _ s))
@[simp] theorem setAlert_keeper_shockHold (a0 s) : (setAlert a0 s).keeper.shockHold = s.keeper.shockHold := keep_keeper_shockHold (setAlert_keeps (g := .keeper) rfl a0 s (.refl _ s))
@[simp] theorem setAlert_keeper_transfer (a0 s) : (setAlert a0 s).keeper.transfer = s.keeper.transfer := keep_keeper_transfer (setAlert_keeps (g := .keeper) rfl a0 s (.refl _ s))
@[simp] theorem setAlert_keeper_deferred (a0 s) : (setAlert a0 s).keeper.deferred = s.keeper.deferred := keep_keeper_deferred (setAlert_keeps (g := .keeper) rfl a0 s (.refl _ s))
@[simp] theorem setAlert_keeper_rebootCause (a0 s) : (setAlert a0 s).keeper.rebootCause = s.keeper.rebootCause := keep_keeper_rebootCause (setAlert_keeps (g := .keeper) rfl a0 s (.refl _ s))
@[simp] theorem setAlert_keeper_reachDrops (a0 s) : (setAlert a0 s).keeper.reachDrops = s.keeper.reachDrops := keep_keeper_reachDrops (setAlert_keeps (g := .keeper) rfl a0 s (.refl _ s))
@[simp] theorem setAlert_spdm (a0 s) : (setAlert a0 s).spdm = s.spdm := setAlert_keeps (g := .spdm) rfl a0 s (.refl _ s)
@[simp] theorem setAlert_test (a0 s) : (setAlert a0 s).test = s.test := setAlert_keeps (g := .test) rfl a0 s (.refl _ s)
@[simp] theorem setAlert_hosts (a0 s) : (setAlert a0 s).hosts = s.hosts := setAlert_keeps (g := .hosts) rfl a0 s (.refl _ s)
@[simp] theorem setAlert_tide (a0 s) : (setAlert a0 s).tide = s.tide := setAlert_keeps (g := .tide) rfl a0 s (.refl _ s)
@[simp] theorem setAlert_rill (a0 s) : (setAlert a0 s).rill = s.rill := rill_eq (setAlert_keeps (g := .rill) rfl a0 s (.refl _ s)) (setAlert_keeps (g := .rillTable) rfl a0 s (.refl _ s))
@[simp] theorem setAlert_mills (a0 s) : (setAlert a0 s).mills = s.mills := setAlert_keeps (g := .mills) rfl a0 s (.refl _ s)
@[simp] theorem setAlert_shoal (a0 s) : (setAlert a0 s).shoal = s.shoal := shoal_eq (setAlert_keeps (g := .shoal) rfl a0 s (.refl _ s)) (setAlert_keeps (g := .slots) rfl a0 s (.refl _ s))
@[simp] theorem setAlert_attn (a0 s) : (setAlert a0 s).attn = s.attn := setAlert_keeps (g := .attn) rfl a0 s (.refl _ s)
@[simp] theorem setAlert_exch (a0 s) : (setAlert a0 s).exch = s.exch := setAlert_keeps (g := .exch) rfl a0 s (.refl _ s)
@[simp] theorem setAlert_out (a0 s) : (setAlert a0 s).out = s.out := setAlert_keeps (g := .out) rfl a0 s (.refl _ s)
@[simp] theorem setAlert_freeCtr (a0 s) : (setAlert a0 s).freeCtr = s.freeCtr := setAlert_keeps (g := .freeCtr) rfl a0 s (.refl _ s)
@[simp] theorem setAlert_pending (a0 s) : (setAlert a0 s).pending = s.pending := setAlert_keeps (g := .pending) rfl a0 s (.refl _ s)

/-! `updDomain` -/

@[simp] theorem updDomain_boot (a0 a1 s) : (updDomain a0 a1 s).boot = s.boot := updDomain_keeps (g := .boot) rfl a0 a1 s (.refl _ s)
@[simp] theorem updDomain_pins (a0 a1 s) : (updDomain a0 a1 s).pins = s.pins := updDomain_keeps (g := .pins) rfl a0 a1 s (.refl _ s)
@[simp] theorem updDomain_nv (a0 a1 s) : (updDomain a0 a1 s).nv = s.nv := nv_eq (updDomain_keeps (g := .fuses) rfl a0 a1 s (.refl _ s)) (updDomain_keeps (g := .ident) rfl a0 a1 s (.refl _ s)) (updDomain_keeps (g := .nvLog) rfl a0 a1 s (.refl _ s)) (updDomain_keeps (g := .nvStore) rfl a0 a1 s (.refl _ s))
@[simp] theorem updDomain_hw (a0 a1 s) : (updDomain a0 a1 s).hw = s.hw := updDomain_keeps (g := .hw) rfl a0 a1 s (.refl _ s)
@[simp] theorem updDomain_map (a0 a1 s) : (updDomain a0 a1 s).map = s.map := updDomain_keeps (g := .map) rfl a0 a1 s (.refl _ s)
@[simp] theorem updDomain_party (a0 a1 s) : (updDomain a0 a1 s).party = s.party := updDomain_keeps (g := .party) rfl a0 a1 s (.refl _ s)
@[simp] theorem updDomain_net (a0 a1 s) : (updDomain a0 a1 s).net = s.net := net_eq (updDomain_keeps (g := .net) rfl a0 a1 s (.refl _ s)) (updDomain_keeps (g := .links) rfl a0 a1 s (.refl _ s))
@[simp] theorem updDomain_weir (a0 a1 s) : (updDomain a0 a1 s).weir = s.weir := weir_eq (updDomain_keeps (g := .weirCtl) rfl a0 a1 s (.refl _ s)) (updDomain_keeps (g := .weirQ) rfl a0 a1 s (.refl _ s))
@[simp] theorem updDomain_store (a0 a1 s) : (updDomain a0 a1 s).store = s.store := store_eq (updDomain_keeps (g := .store) rfl a0 a1 s (.refl _ s)) (updDomain_keeps (g := .bytes) rfl a0 a1 s (.refl _ s))
@[simp] theorem updDomain_flush (a0 a1 s) : (updDomain a0 a1 s).flush = s.flush := updDomain_keeps (g := .flush) rfl a0 a1 s (.refl _ s)
@[simp] theorem updDomain_sluice (a0 a1 s) : (updDomain a0 a1 s).sluice = s.sluice := updDomain_keeps (g := .sluice) rfl a0 a1 s (.refl _ s)
@[simp] theorem updDomain_keeper (a0 a1 s) : (updDomain a0 a1 s).keeper = s.keeper := keeper_eq (updDomain_keeps (g := .keepLog) rfl a0 a1 s (.refl _ s)) (updDomain_keeps (g := .keeper) rfl a0 a1 s (.refl _ s))
@[simp] theorem updDomain_spdm (a0 a1 s) : (updDomain a0 a1 s).spdm = s.spdm := updDomain_keeps (g := .spdm) rfl a0 a1 s (.refl _ s)
@[simp] theorem updDomain_test (a0 a1 s) : (updDomain a0 a1 s).test = s.test := updDomain_keeps (g := .test) rfl a0 a1 s (.refl _ s)
@[simp] theorem updDomain_hosts (a0 a1 s) : (updDomain a0 a1 s).hosts = s.hosts := updDomain_keeps (g := .hosts) rfl a0 a1 s (.refl _ s)
@[simp] theorem updDomain_tide (a0 a1 s) : (updDomain a0 a1 s).tide = s.tide := updDomain_keeps (g := .tide) rfl a0 a1 s (.refl _ s)
@[simp] theorem updDomain_rill (a0 a1 s) : (updDomain a0 a1 s).rill = s.rill := rill_eq (updDomain_keeps (g := .rill) rfl a0 a1 s (.refl _ s)) (updDomain_keeps (g := .rillTable) rfl a0 a1 s (.refl _ s))
@[simp] theorem updDomain_mills (a0 a1 s) : (updDomain a0 a1 s).mills = s.mills := updDomain_keeps (g := .mills) rfl a0 a1 s (.refl _ s)
@[simp] theorem updDomain_shoal (a0 a1 s) : (updDomain a0 a1 s).shoal = s.shoal := shoal_eq (updDomain_keeps (g := .shoal) rfl a0 a1 s (.refl _ s)) (updDomain_keeps (g := .slots) rfl a0 a1 s (.refl _ s))
@[simp] theorem updDomain_attn (a0 a1 s) : (updDomain a0 a1 s).attn = s.attn := updDomain_keeps (g := .attn) rfl a0 a1 s (.refl _ s)
@[simp] theorem updDomain_exch (a0 a1 s) : (updDomain a0 a1 s).exch = s.exch := updDomain_keeps (g := .exch) rfl a0 a1 s (.refl _ s)
@[simp] theorem updDomain_out (a0 a1 s) : (updDomain a0 a1 s).out = s.out := updDomain_keeps (g := .out) rfl a0 a1 s (.refl _ s)
@[simp] theorem updDomain_freeCtr (a0 a1 s) : (updDomain a0 a1 s).freeCtr = s.freeCtr := updDomain_keeps (g := .freeCtr) rfl a0 a1 s (.refl _ s)
@[simp] theorem updDomain_pending (a0 a1 s) : (updDomain a0 a1 s).pending = s.pending := updDomain_keeps (g := .pending) rfl a0 a1 s (.refl _ s)

/-! `updMill` -/

@[simp] theorem updMill_boot (a0 a1 s) : (updMill a0 a1 s).boot = s.boot := updMill_keeps (g := .boot) rfl a0 a1 s (.refl _ s)
@[simp] theorem updMill_pins (a0 a1 s) : (updMill a0 a1 s).pins = s.pins := updMill_keeps (g := .pins) rfl a0 a1 s (.refl _ s)
@[simp] theorem updMill_nv (a0 a1 s) : (updMill a0 a1 s).nv = s.nv := nv_eq (updMill_keeps (g := .fuses) rfl a0 a1 s (.refl _ s)) (updMill_keeps (g := .ident) rfl a0 a1 s (.refl _ s)) (updMill_keeps (g := .nvLog) rfl a0 a1 s (.refl _ s)) (updMill_keeps (g := .nvStore) rfl a0 a1 s (.refl _ s))
@[simp] theorem updMill_hw (a0 a1 s) : (updMill a0 a1 s).hw = s.hw := updMill_keeps (g := .hw) rfl a0 a1 s (.refl _ s)
@[simp] theorem updMill_map (a0 a1 s) : (updMill a0 a1 s).map = s.map := updMill_keeps (g := .map) rfl a0 a1 s (.refl _ s)
@[simp] theorem updMill_party (a0 a1 s) : (updMill a0 a1 s).party = s.party := updMill_keeps (g := .party) rfl a0 a1 s (.refl _ s)
@[simp] theorem updMill_net (a0 a1 s) : (updMill a0 a1 s).net = s.net := net_eq (updMill_keeps (g := .net) rfl a0 a1 s (.refl _ s)) (updMill_keeps (g := .links) rfl a0 a1 s (.refl _ s))
@[simp] theorem updMill_weir (a0 a1 s) : (updMill a0 a1 s).weir = s.weir := weir_eq (updMill_keeps (g := .weirCtl) rfl a0 a1 s (.refl _ s)) (updMill_keeps (g := .weirQ) rfl a0 a1 s (.refl _ s))
@[simp] theorem updMill_store (a0 a1 s) : (updMill a0 a1 s).store = s.store := store_eq (updMill_keeps (g := .store) rfl a0 a1 s (.refl _ s)) (updMill_keeps (g := .bytes) rfl a0 a1 s (.refl _ s))
@[simp] theorem updMill_flush (a0 a1 s) : (updMill a0 a1 s).flush = s.flush := updMill_keeps (g := .flush) rfl a0 a1 s (.refl _ s)
@[simp] theorem updMill_coh (a0 a1 s) : (updMill a0 a1 s).coh = s.coh := updMill_keeps (g := .coh) rfl a0 a1 s (.refl _ s)
@[simp] theorem updMill_sluice (a0 a1 s) : (updMill a0 a1 s).sluice = s.sluice := updMill_keeps (g := .sluice) rfl a0 a1 s (.refl _ s)
@[simp] theorem updMill_keeper (a0 a1 s) : (updMill a0 a1 s).keeper = s.keeper := keeper_eq (updMill_keeps (g := .keepLog) rfl a0 a1 s (.refl _ s)) (updMill_keeps (g := .keeper) rfl a0 a1 s (.refl _ s))
@[simp] theorem updMill_spdm (a0 a1 s) : (updMill a0 a1 s).spdm = s.spdm := updMill_keeps (g := .spdm) rfl a0 a1 s (.refl _ s)
@[simp] theorem updMill_test (a0 a1 s) : (updMill a0 a1 s).test = s.test := updMill_keeps (g := .test) rfl a0 a1 s (.refl _ s)
@[simp] theorem updMill_hosts (a0 a1 s) : (updMill a0 a1 s).hosts = s.hosts := updMill_keeps (g := .hosts) rfl a0 a1 s (.refl _ s)
@[simp] theorem updMill_tide (a0 a1 s) : (updMill a0 a1 s).tide = s.tide := updMill_keeps (g := .tide) rfl a0 a1 s (.refl _ s)
@[simp] theorem updMill_rill (a0 a1 s) : (updMill a0 a1 s).rill = s.rill := rill_eq (updMill_keeps (g := .rill) rfl a0 a1 s (.refl _ s)) (updMill_keeps (g := .rillTable) rfl a0 a1 s (.refl _ s))
@[simp] theorem updMill_shoal (a0 a1 s) : (updMill a0 a1 s).shoal = s.shoal := shoal_eq (updMill_keeps (g := .shoal) rfl a0 a1 s (.refl _ s)) (updMill_keeps (g := .slots) rfl a0 a1 s (.refl _ s))
@[simp] theorem updMill_attn (a0 a1 s) : (updMill a0 a1 s).attn = s.attn := updMill_keeps (g := .attn) rfl a0 a1 s (.refl _ s)
@[simp] theorem updMill_exch (a0 a1 s) : (updMill a0 a1 s).exch = s.exch := updMill_keeps (g := .exch) rfl a0 a1 s (.refl _ s)
@[simp] theorem updMill_out (a0 a1 s) : (updMill a0 a1 s).out = s.out := updMill_keeps (g := .out) rfl a0 a1 s (.refl _ s)
@[simp] theorem updMill_freeCtr (a0 a1 s) : (updMill a0 a1 s).freeCtr = s.freeCtr := updMill_keeps (g := .freeCtr) rfl a0 a1 s (.refl _ s)
@[simp] theorem updMill_pending (a0 a1 s) : (updMill a0 a1 s).pending = s.pending := updMill_keeps (g := .pending) rfl a0 a1 s (.refl _ s)

/-! `updDir` -/

@[simp] theorem updDir_boot (a0 a1 s) : (updDir a0 a1 s).boot = s.boot := updDir_keeps (g := .boot) rfl a0 a1 s (.refl _ s)
@[simp] theorem updDir_pins (a0 a1 s) : (updDir a0 a1 s).pins = s.pins := updDir_keeps (g := .pins) rfl a0 a1 s (.refl _ s)
@[simp] theorem updDir_nv (a0 a1 s) : (updDir a0 a1 s).nv = s.nv := nv_eq (updDir_keeps (g := .fuses) rfl a0 a1 s (.refl _ s)) (updDir_keeps (g := .ident) rfl a0 a1 s (.refl _ s)) (updDir_keeps (g := .nvLog) rfl a0 a1 s (.refl _ s)) (updDir_keeps (g := .nvStore) rfl a0 a1 s (.refl _ s))
@[simp] theorem updDir_hw (a0 a1 s) : (updDir a0 a1 s).hw = s.hw := updDir_keeps (g := .hw) rfl a0 a1 s (.refl _ s)
@[simp] theorem updDir_map (a0 a1 s) : (updDir a0 a1 s).map = s.map := updDir_keeps (g := .map) rfl a0 a1 s (.refl _ s)
@[simp] theorem updDir_party (a0 a1 s) : (updDir a0 a1 s).party = s.party := updDir_keeps (g := .party) rfl a0 a1 s (.refl _ s)
@[simp] theorem updDir_net (a0 a1 s) : (updDir a0 a1 s).net = s.net := net_eq (updDir_keeps (g := .net) rfl a0 a1 s (.refl _ s)) (updDir_keeps (g := .links) rfl a0 a1 s (.refl _ s))
@[simp] theorem updDir_weir (a0 a1 s) : (updDir a0 a1 s).weir = s.weir := weir_eq (updDir_keeps (g := .weirCtl) rfl a0 a1 s (.refl _ s)) (updDir_keeps (g := .weirQ) rfl a0 a1 s (.refl _ s))
@[simp] theorem updDir_store (a0 a1 s) : (updDir a0 a1 s).store = s.store := store_eq (updDir_keeps (g := .store) rfl a0 a1 s (.refl _ s)) (updDir_keeps (g := .bytes) rfl a0 a1 s (.refl _ s))
@[simp] theorem updDir_flush (a0 a1 s) : (updDir a0 a1 s).flush = s.flush := updDir_keeps (g := .flush) rfl a0 a1 s (.refl _ s)
@[simp] theorem updDir_sluice (a0 a1 s) : (updDir a0 a1 s).sluice = s.sluice := updDir_keeps (g := .sluice) rfl a0 a1 s (.refl _ s)
@[simp] theorem updDir_keeper (a0 a1 s) : (updDir a0 a1 s).keeper = s.keeper := keeper_eq (updDir_keeps (g := .keepLog) rfl a0 a1 s (.refl _ s)) (updDir_keeps (g := .keeper) rfl a0 a1 s (.refl _ s))
@[simp] theorem updDir_spdm (a0 a1 s) : (updDir a0 a1 s).spdm = s.spdm := updDir_keeps (g := .spdm) rfl a0 a1 s (.refl _ s)
@[simp] theorem updDir_test (a0 a1 s) : (updDir a0 a1 s).test = s.test := updDir_keeps (g := .test) rfl a0 a1 s (.refl _ s)
@[simp] theorem updDir_hosts (a0 a1 s) : (updDir a0 a1 s).hosts = s.hosts := updDir_keeps (g := .hosts) rfl a0 a1 s (.refl _ s)
@[simp] theorem updDir_tide (a0 a1 s) : (updDir a0 a1 s).tide = s.tide := updDir_keeps (g := .tide) rfl a0 a1 s (.refl _ s)
@[simp] theorem updDir_rill (a0 a1 s) : (updDir a0 a1 s).rill = s.rill := rill_eq (updDir_keeps (g := .rill) rfl a0 a1 s (.refl _ s)) (updDir_keeps (g := .rillTable) rfl a0 a1 s (.refl _ s))
@[simp] theorem updDir_mills (a0 a1 s) : (updDir a0 a1 s).mills = s.mills := updDir_keeps (g := .mills) rfl a0 a1 s (.refl _ s)
@[simp] theorem updDir_shoal (a0 a1 s) : (updDir a0 a1 s).shoal = s.shoal := shoal_eq (updDir_keeps (g := .shoal) rfl a0 a1 s (.refl _ s)) (updDir_keeps (g := .slots) rfl a0 a1 s (.refl _ s))
@[simp] theorem updDir_attn (a0 a1 s) : (updDir a0 a1 s).attn = s.attn := updDir_keeps (g := .attn) rfl a0 a1 s (.refl _ s)
@[simp] theorem updDir_exch (a0 a1 s) : (updDir a0 a1 s).exch = s.exch := updDir_keeps (g := .exch) rfl a0 a1 s (.refl _ s)
@[simp] theorem updDir_out (a0 a1 s) : (updDir a0 a1 s).out = s.out := updDir_keeps (g := .out) rfl a0 a1 s (.refl _ s)
@[simp] theorem updDir_freeCtr (a0 a1 s) : (updDir a0 a1 s).freeCtr = s.freeCtr := updDir_keeps (g := .freeCtr) rfl a0 a1 s (.refl _ s)
@[simp] theorem updDir_pending (a0 a1 s) : (updDir a0 a1 s).pending = s.pending := updDir_keeps (g := .pending) rfl a0 a1 s (.refl _ s)

/-! `updHost` -/

@[simp] theorem updHost_boot (a0 a1 s) : (updHost a0 a1 s).boot = s.boot := updHost_keeps (g := .boot) rfl a0 a1 s (.refl _ s)
@[simp] theorem updHost_pins (a0 a1 s) : (updHost a0 a1 s).pins = s.pins := updHost_keeps (g := .pins) rfl a0 a1 s (.refl _ s)
@[simp] theorem updHost_nv (a0 a1 s) : (updHost a0 a1 s).nv = s.nv := nv_eq (updHost_keeps (g := .fuses) rfl a0 a1 s (.refl _ s)) (updHost_keeps (g := .ident) rfl a0 a1 s (.refl _ s)) (updHost_keeps (g := .nvLog) rfl a0 a1 s (.refl _ s)) (updHost_keeps (g := .nvStore) rfl a0 a1 s (.refl _ s))
@[simp] theorem updHost_hw (a0 a1 s) : (updHost a0 a1 s).hw = s.hw := updHost_keeps (g := .hw) rfl a0 a1 s (.refl _ s)
@[simp] theorem updHost_map (a0 a1 s) : (updHost a0 a1 s).map = s.map := updHost_keeps (g := .map) rfl a0 a1 s (.refl _ s)
@[simp] theorem updHost_party (a0 a1 s) : (updHost a0 a1 s).party = s.party := updHost_keeps (g := .party) rfl a0 a1 s (.refl _ s)
@[simp] theorem updHost_net (a0 a1 s) : (updHost a0 a1 s).net = s.net := net_eq (updHost_keeps (g := .net) rfl a0 a1 s (.refl _ s)) (updHost_keeps (g := .links) rfl a0 a1 s (.refl _ s))
@[simp] theorem updHost_weir (a0 a1 s) : (updHost a0 a1 s).weir = s.weir := weir_eq (updHost_keeps (g := .weirCtl) rfl a0 a1 s (.refl _ s)) (updHost_keeps (g := .weirQ) rfl a0 a1 s (.refl _ s))
@[simp] theorem updHost_store (a0 a1 s) : (updHost a0 a1 s).store = s.store := store_eq (updHost_keeps (g := .store) rfl a0 a1 s (.refl _ s)) (updHost_keeps (g := .bytes) rfl a0 a1 s (.refl _ s))
@[simp] theorem updHost_flush (a0 a1 s) : (updHost a0 a1 s).flush = s.flush := updHost_keeps (g := .flush) rfl a0 a1 s (.refl _ s)
@[simp] theorem updHost_coh (a0 a1 s) : (updHost a0 a1 s).coh = s.coh := updHost_keeps (g := .coh) rfl a0 a1 s (.refl _ s)
@[simp] theorem updHost_sluice (a0 a1 s) : (updHost a0 a1 s).sluice = s.sluice := updHost_keeps (g := .sluice) rfl a0 a1 s (.refl _ s)
@[simp] theorem updHost_keeper (a0 a1 s) : (updHost a0 a1 s).keeper = s.keeper := keeper_eq (updHost_keeps (g := .keepLog) rfl a0 a1 s (.refl _ s)) (updHost_keeps (g := .keeper) rfl a0 a1 s (.refl _ s))
@[simp] theorem updHost_spdm (a0 a1 s) : (updHost a0 a1 s).spdm = s.spdm := updHost_keeps (g := .spdm) rfl a0 a1 s (.refl _ s)
@[simp] theorem updHost_test (a0 a1 s) : (updHost a0 a1 s).test = s.test := updHost_keeps (g := .test) rfl a0 a1 s (.refl _ s)
@[simp] theorem updHost_tide (a0 a1 s) : (updHost a0 a1 s).tide = s.tide := updHost_keeps (g := .tide) rfl a0 a1 s (.refl _ s)
@[simp] theorem updHost_rill (a0 a1 s) : (updHost a0 a1 s).rill = s.rill := rill_eq (updHost_keeps (g := .rill) rfl a0 a1 s (.refl _ s)) (updHost_keeps (g := .rillTable) rfl a0 a1 s (.refl _ s))
@[simp] theorem updHost_mills (a0 a1 s) : (updHost a0 a1 s).mills = s.mills := updHost_keeps (g := .mills) rfl a0 a1 s (.refl _ s)
@[simp] theorem updHost_shoal (a0 a1 s) : (updHost a0 a1 s).shoal = s.shoal := shoal_eq (updHost_keeps (g := .shoal) rfl a0 a1 s (.refl _ s)) (updHost_keeps (g := .slots) rfl a0 a1 s (.refl _ s))
@[simp] theorem updHost_attn (a0 a1 s) : (updHost a0 a1 s).attn = s.attn := updHost_keeps (g := .attn) rfl a0 a1 s (.refl _ s)
@[simp] theorem updHost_exch (a0 a1 s) : (updHost a0 a1 s).exch = s.exch := updHost_keeps (g := .exch) rfl a0 a1 s (.refl _ s)
@[simp] theorem updHost_out (a0 a1 s) : (updHost a0 a1 s).out = s.out := updHost_keeps (g := .out) rfl a0 a1 s (.refl _ s)
@[simp] theorem updHost_freeCtr (a0 a1 s) : (updHost a0 a1 s).freeCtr = s.freeCtr := updHost_keeps (g := .freeCtr) rfl a0 a1 s (.refl _ s)
@[simp] theorem updHost_pending (a0 a1 s) : (updHost a0 a1 s).pending = s.pending := updHost_keeps (g := .pending) rfl a0 a1 s (.refl _ s)

/-! `updLink` -/

@[simp] theorem updLink_boot (a0 a1 s) : (updLink a0 a1 s).boot = s.boot := updLink_keeps (g := .boot) rfl a0 a1 s (.refl _ s)
@[simp] theorem updLink_pins (a0 a1 s) : (updLink a0 a1 s).pins = s.pins := updLink_keeps (g := .pins) rfl a0 a1 s (.refl _ s)
@[simp] theorem updLink_nv (a0 a1 s) : (updLink a0 a1 s).nv = s.nv := nv_eq (updLink_keeps (g := .fuses) rfl a0 a1 s (.refl _ s)) (updLink_keeps (g := .ident) rfl a0 a1 s (.refl _ s)) (updLink_keeps (g := .nvLog) rfl a0 a1 s (.refl _ s)) (updLink_keeps (g := .nvStore) rfl a0 a1 s (.refl _ s))
@[simp] theorem updLink_hw (a0 a1 s) : (updLink a0 a1 s).hw = s.hw := updLink_keeps (g := .hw) rfl a0 a1 s (.refl _ s)
@[simp] theorem updLink_map (a0 a1 s) : (updLink a0 a1 s).map = s.map := updLink_keeps (g := .map) rfl a0 a1 s (.refl _ s)
@[simp] theorem updLink_party (a0 a1 s) : (updLink a0 a1 s).party = s.party := updLink_keeps (g := .party) rfl a0 a1 s (.refl _ s)
@[simp] theorem updLink_net_combosOut (a0 a1 s) : (updLink a0 a1 s).net.combosOut = s.net.combosOut := keep_net_combosOut (updLink_keeps (g := .net) rfl a0 a1 s (.refl _ s))
@[simp] theorem updLink_net_nextTag (a0 a1 s) : (updLink a0 a1 s).net.nextTag = s.net.nextTag := keep_net_nextTag (updLink_keeps (g := .net) rfl a0 a1 s (.refl _ s))
@[simp] theorem updLink_net_nextSnp (a0 a1 s) : (updLink a0 a1 s).net.nextSnp = s.net.nextSnp := keep_net_nextSnp (updLink_keeps (g := .net) rfl a0 a1 s (.refl _ s))
@[simp] theorem updLink_weir (a0 a1 s) : (updLink a0 a1 s).weir = s.weir := weir_eq (updLink_keeps (g := .weirCtl) rfl a0 a1 s (.refl _ s)) (updLink_keeps (g := .weirQ) rfl a0 a1 s (.refl _ s))
@[simp] theorem updLink_store (a0 a1 s) : (updLink a0 a1 s).store = s.store := store_eq (updLink_keeps (g := .store) rfl a0 a1 s (.refl _ s)) (updLink_keeps (g := .bytes) rfl a0 a1 s (.refl _ s))
@[simp] theorem updLink_flush (a0 a1 s) : (updLink a0 a1 s).flush = s.flush := updLink_keeps (g := .flush) rfl a0 a1 s (.refl _ s)
@[simp] theorem updLink_coh (a0 a1 s) : (updLink a0 a1 s).coh = s.coh := updLink_keeps (g := .coh) rfl a0 a1 s (.refl _ s)
@[simp] theorem updLink_sluice (a0 a1 s) : (updLink a0 a1 s).sluice = s.sluice := updLink_keeps (g := .sluice) rfl a0 a1 s (.refl _ s)
@[simp] theorem updLink_keeper (a0 a1 s) : (updLink a0 a1 s).keeper = s.keeper := keeper_eq (updLink_keeps (g := .keepLog) rfl a0 a1 s (.refl _ s)) (updLink_keeps (g := .keeper) rfl a0 a1 s (.refl _ s))
@[simp] theorem updLink_spdm (a0 a1 s) : (updLink a0 a1 s).spdm = s.spdm := updLink_keeps (g := .spdm) rfl a0 a1 s (.refl _ s)
@[simp] theorem updLink_test (a0 a1 s) : (updLink a0 a1 s).test = s.test := updLink_keeps (g := .test) rfl a0 a1 s (.refl _ s)
@[simp] theorem updLink_hosts (a0 a1 s) : (updLink a0 a1 s).hosts = s.hosts := updLink_keeps (g := .hosts) rfl a0 a1 s (.refl _ s)
@[simp] theorem updLink_tide (a0 a1 s) : (updLink a0 a1 s).tide = s.tide := updLink_keeps (g := .tide) rfl a0 a1 s (.refl _ s)
@[simp] theorem updLink_rill (a0 a1 s) : (updLink a0 a1 s).rill = s.rill := rill_eq (updLink_keeps (g := .rill) rfl a0 a1 s (.refl _ s)) (updLink_keeps (g := .rillTable) rfl a0 a1 s (.refl _ s))
@[simp] theorem updLink_mills (a0 a1 s) : (updLink a0 a1 s).mills = s.mills := updLink_keeps (g := .mills) rfl a0 a1 s (.refl _ s)
@[simp] theorem updLink_shoal (a0 a1 s) : (updLink a0 a1 s).shoal = s.shoal := shoal_eq (updLink_keeps (g := .shoal) rfl a0 a1 s (.refl _ s)) (updLink_keeps (g := .slots) rfl a0 a1 s (.refl _ s))
@[simp] theorem updLink_attn (a0 a1 s) : (updLink a0 a1 s).attn = s.attn := updLink_keeps (g := .attn) rfl a0 a1 s (.refl _ s)
@[simp] theorem updLink_exch (a0 a1 s) : (updLink a0 a1 s).exch = s.exch := updLink_keeps (g := .exch) rfl a0 a1 s (.refl _ s)
@[simp] theorem updLink_out (a0 a1 s) : (updLink a0 a1 s).out = s.out := updLink_keeps (g := .out) rfl a0 a1 s (.refl _ s)
@[simp] theorem updLink_freeCtr (a0 a1 s) : (updLink a0 a1 s).freeCtr = s.freeCtr := updLink_keeps (g := .freeCtr) rfl a0 a1 s (.refl _ s)
@[simp] theorem updLink_pending (a0 a1 s) : (updLink a0 a1 s).pending = s.pending := updLink_keeps (g := .pending) rfl a0 a1 s (.refl _ s)

/-! `bootStep` -/

@[simp] theorem bootStep_pins (a0 s) : (bootStep a0 s).pins = s.pins := bootStep_keeps (g := .pins) rfl a0 s (.refl _ s)
@[simp] theorem bootStep_nv (a0 s) : (bootStep a0 s).nv = s.nv := nv_eq (bootStep_keeps (g := .fuses) rfl a0 s (.refl _ s)) (bootStep_keeps (g := .ident) rfl a0 s (.refl _ s)) (bootStep_keeps (g := .nvLog) rfl a0 s (.refl _ s)) (bootStep_keeps (g := .nvStore) rfl a0 s (.refl _ s))
@[simp] theorem bootStep_hw (a0 s) : (bootStep a0 s).hw = s.hw := bootStep_keeps (g := .hw) rfl a0 s (.refl _ s)
@[simp] theorem bootStep_map (a0 s) : (bootStep a0 s).map = s.map := bootStep_keeps (g := .map) rfl a0 s (.refl _ s)
@[simp] theorem bootStep_party (a0 s) : (bootStep a0 s).party = s.party := bootStep_keeps (g := .party) rfl a0 s (.refl _ s)
@[simp] theorem bootStep_net (a0 s) : (bootStep a0 s).net = s.net := net_eq (bootStep_keeps (g := .net) rfl a0 s (.refl _ s)) (bootStep_keeps (g := .links) rfl a0 s (.refl _ s))
@[simp] theorem bootStep_weir (a0 s) : (bootStep a0 s).weir = s.weir := weir_eq (bootStep_keeps (g := .weirCtl) rfl a0 s (.refl _ s)) (bootStep_keeps (g := .weirQ) rfl a0 s (.refl _ s))
@[simp] theorem bootStep_store (a0 s) : (bootStep a0 s).store = s.store := store_eq (bootStep_keeps (g := .store) rfl a0 s (.refl _ s)) (bootStep_keeps (g := .bytes) rfl a0 s (.refl _ s))
@[simp] theorem bootStep_flush (a0 s) : (bootStep a0 s).flush = s.flush := bootStep_keeps (g := .flush) rfl a0 s (.refl _ s)
@[simp] theorem bootStep_coh (a0 s) : (bootStep a0 s).coh = s.coh := bootStep_keeps (g := .coh) rfl a0 s (.refl _ s)
@[simp] theorem bootStep_sluice (a0 s) : (bootStep a0 s).sluice = s.sluice := bootStep_keeps (g := .sluice) rfl a0 s (.refl _ s)
@[simp] theorem bootStep_keeper_gravSamples (a0 s) : (bootStep a0 s).keeper.gravSamples = s.keeper.gravSamples := keep_keeper_gravSamples (bootStep_keeps (g := .keeper) rfl a0 s (.refl _ s))
@[simp] theorem bootStep_keeper_shockRun (a0 s) : (bootStep a0 s).keeper.shockRun = s.keeper.shockRun := keep_keeper_shockRun (bootStep_keeps (g := .keeper) rfl a0 s (.refl _ s))
@[simp] theorem bootStep_keeper_shockPeak (a0 s) : (bootStep a0 s).keeper.shockPeak = s.keeper.shockPeak := keep_keeper_shockPeak (bootStep_keeps (g := .keeper) rfl a0 s (.refl _ s))
@[simp] theorem bootStep_keeper_shockAxes (a0 s) : (bootStep a0 s).keeper.shockAxes = s.keeper.shockAxes := keep_keeper_shockAxes (bootStep_keeps (g := .keeper) rfl a0 s (.refl _ s))
@[simp] theorem bootStep_keeper_shockOver (a0 s) : (bootStep a0 s).keeper.shockOver = s.keeper.shockOver := keep_keeper_shockOver (bootStep_keeps (g := .keeper) rfl a0 s (.refl _ s))
@[simp] theorem bootStep_keeper_shockHold (a0 s) : (bootStep a0 s).keeper.shockHold = s.keeper.shockHold := keep_keeper_shockHold (bootStep_keeps (g := .keeper) rfl a0 s (.refl _ s))
@[simp] theorem bootStep_keeper_transfer (a0 s) : (bootStep a0 s).keeper.transfer = s.keeper.transfer := keep_keeper_transfer (bootStep_keeps (g := .keeper) rfl a0 s (.refl _ s))
@[simp] theorem bootStep_keeper_deferred (a0 s) : (bootStep a0 s).keeper.deferred = s.keeper.deferred := keep_keeper_deferred (bootStep_keeps (g := .keeper) rfl a0 s (.refl _ s))
@[simp] theorem bootStep_keeper_rebootCause (a0 s) : (bootStep a0 s).keeper.rebootCause = s.keeper.rebootCause := keep_keeper_rebootCause (bootStep_keeps (g := .keeper) rfl a0 s (.refl _ s))
@[simp] theorem bootStep_keeper_reachDrops (a0 s) : (bootStep a0 s).keeper.reachDrops = s.keeper.reachDrops := keep_keeper_reachDrops (bootStep_keeps (g := .keeper) rfl a0 s (.refl _ s))
@[simp] theorem bootStep_spdm (a0 s) : (bootStep a0 s).spdm = s.spdm := bootStep_keeps (g := .spdm) rfl a0 s (.refl _ s)
@[simp] theorem bootStep_test (a0 s) : (bootStep a0 s).test = s.test := bootStep_keeps (g := .test) rfl a0 s (.refl _ s)
@[simp] theorem bootStep_hosts (a0 s) : (bootStep a0 s).hosts = s.hosts := bootStep_keeps (g := .hosts) rfl a0 s (.refl _ s)
@[simp] theorem bootStep_tide (a0 s) : (bootStep a0 s).tide = s.tide := bootStep_keeps (g := .tide) rfl a0 s (.refl _ s)
@[simp] theorem bootStep_rill (a0 s) : (bootStep a0 s).rill = s.rill := rill_eq (bootStep_keeps (g := .rill) rfl a0 s (.refl _ s)) (bootStep_keeps (g := .rillTable) rfl a0 s (.refl _ s))
@[simp] theorem bootStep_mills (a0 s) : (bootStep a0 s).mills = s.mills := bootStep_keeps (g := .mills) rfl a0 s (.refl _ s)
@[simp] theorem bootStep_shoal (a0 s) : (bootStep a0 s).shoal = s.shoal := shoal_eq (bootStep_keeps (g := .shoal) rfl a0 s (.refl _ s)) (bootStep_keeps (g := .slots) rfl a0 s (.refl _ s))
@[simp] theorem bootStep_attn (a0 s) : (bootStep a0 s).attn = s.attn := bootStep_keeps (g := .attn) rfl a0 s (.refl _ s)
@[simp] theorem bootStep_exch (a0 s) : (bootStep a0 s).exch = s.exch := bootStep_keeps (g := .exch) rfl a0 s (.refl _ s)
@[simp] theorem bootStep_out (a0 s) : (bootStep a0 s).out = s.out := bootStep_keeps (g := .out) rfl a0 s (.refl _ s)
@[simp] theorem bootStep_freeCtr (a0 s) : (bootStep a0 s).freeCtr = s.freeCtr := bootStep_keeps (g := .freeCtr) rfl a0 s (.refl _ s)
@[simp] theorem bootStep_pending (a0 s) : (bootStep a0 s).pending = s.pending := bootStep_keeps (g := .pending) rfl a0 s (.refl _ s)

/-! `logSelect` -/

@[simp] theorem logSelect_boot (a0 a1 a2 s) : (logSelect a0 a1 a2 s).boot = s.boot := logSelect_keeps (g := .boot) rfl a0 a1 a2 s (.refl _ s)
@[simp] theorem logSelect_pins (a0 a1 a2 s) : (logSelect a0 a1 a2 s).pins = s.pins := logSelect_keeps (g := .pins) rfl a0 a1 a2 s (.refl _ s)
@[simp] theorem logSelect_nv (a0 a1 a2 s) : (logSelect a0 a1 a2 s).nv = s.nv := nv_eq (logSelect_keeps (g := .fuses) rfl a0 a1 a2 s (.refl _ s)) (logSelect_keeps (g := .ident) rfl a0 a1 a2 s (.refl _ s)) (logSelect_keeps (g := .nvLog) rfl a0 a1 a2 s (.refl _ s)) (logSelect_keeps (g := .nvStore) rfl a0 a1 a2 s (.refl _ s))
@[simp] theorem logSelect_hw (a0 a1 a2 s) : (logSelect a0 a1 a2 s).hw = s.hw := logSelect_keeps (g := .hw) rfl a0 a1 a2 s (.refl _ s)
@[simp] theorem logSelect_map (a0 a1 a2 s) : (logSelect a0 a1 a2 s).map = s.map := logSelect_keeps (g := .map) rfl a0 a1 a2 s (.refl _ s)
@[simp] theorem logSelect_party (a0 a1 a2 s) : (logSelect a0 a1 a2 s).party = s.party := logSelect_keeps (g := .party) rfl a0 a1 a2 s (.refl _ s)
@[simp] theorem logSelect_net (a0 a1 a2 s) : (logSelect a0 a1 a2 s).net = s.net := net_eq (logSelect_keeps (g := .net) rfl a0 a1 a2 s (.refl _ s)) (logSelect_keeps (g := .links) rfl a0 a1 a2 s (.refl _ s))
@[simp] theorem logSelect_weir (a0 a1 a2 s) : (logSelect a0 a1 a2 s).weir = s.weir := weir_eq (logSelect_keeps (g := .weirCtl) rfl a0 a1 a2 s (.refl _ s)) (logSelect_keeps (g := .weirQ) rfl a0 a1 a2 s (.refl _ s))
@[simp] theorem logSelect_store (a0 a1 a2 s) : (logSelect a0 a1 a2 s).store = s.store := store_eq (logSelect_keeps (g := .store) rfl a0 a1 a2 s (.refl _ s)) (logSelect_keeps (g := .bytes) rfl a0 a1 a2 s (.refl _ s))
@[simp] theorem logSelect_flush (a0 a1 a2 s) : (logSelect a0 a1 a2 s).flush = s.flush := logSelect_keeps (g := .flush) rfl a0 a1 a2 s (.refl _ s)
@[simp] theorem logSelect_coh (a0 a1 a2 s) : (logSelect a0 a1 a2 s).coh = s.coh := logSelect_keeps (g := .coh) rfl a0 a1 a2 s (.refl _ s)
@[simp] theorem logSelect_sluice (a0 a1 a2 s) : (logSelect a0 a1 a2 s).sluice = s.sluice := logSelect_keeps (g := .sluice) rfl a0 a1 a2 s (.refl _ s)
@[simp] theorem logSelect_keeper_gravSamples (a0 a1 a2 s) : (logSelect a0 a1 a2 s).keeper.gravSamples = s.keeper.gravSamples := keep_keeper_gravSamples (logSelect_keeps (g := .keeper) rfl a0 a1 a2 s (.refl _ s))
@[simp] theorem logSelect_keeper_shockRun (a0 a1 a2 s) : (logSelect a0 a1 a2 s).keeper.shockRun = s.keeper.shockRun := keep_keeper_shockRun (logSelect_keeps (g := .keeper) rfl a0 a1 a2 s (.refl _ s))
@[simp] theorem logSelect_keeper_shockPeak (a0 a1 a2 s) : (logSelect a0 a1 a2 s).keeper.shockPeak = s.keeper.shockPeak := keep_keeper_shockPeak (logSelect_keeps (g := .keeper) rfl a0 a1 a2 s (.refl _ s))
@[simp] theorem logSelect_keeper_shockAxes (a0 a1 a2 s) : (logSelect a0 a1 a2 s).keeper.shockAxes = s.keeper.shockAxes := keep_keeper_shockAxes (logSelect_keeps (g := .keeper) rfl a0 a1 a2 s (.refl _ s))
@[simp] theorem logSelect_keeper_shockOver (a0 a1 a2 s) : (logSelect a0 a1 a2 s).keeper.shockOver = s.keeper.shockOver := keep_keeper_shockOver (logSelect_keeps (g := .keeper) rfl a0 a1 a2 s (.refl _ s))
@[simp] theorem logSelect_keeper_shockHold (a0 a1 a2 s) : (logSelect a0 a1 a2 s).keeper.shockHold = s.keeper.shockHold := keep_keeper_shockHold (logSelect_keeps (g := .keeper) rfl a0 a1 a2 s (.refl _ s))
@[simp] theorem logSelect_keeper_transfer (a0 a1 a2 s) : (logSelect a0 a1 a2 s).keeper.transfer = s.keeper.transfer := keep_keeper_transfer (logSelect_keeps (g := .keeper) rfl a0 a1 a2 s (.refl _ s))
@[simp] theorem logSelect_keeper_deferred (a0 a1 a2 s) : (logSelect a0 a1 a2 s).keeper.deferred = s.keeper.deferred := keep_keeper_deferred (logSelect_keeps (g := .keeper) rfl a0 a1 a2 s (.refl _ s))
@[simp] theorem logSelect_keeper_rebootCause (a0 a1 a2 s) : (logSelect a0 a1 a2 s).keeper.rebootCause = s.keeper.rebootCause := keep_keeper_rebootCause (logSelect_keeps (g := .keeper) rfl a0 a1 a2 s (.refl _ s))
@[simp] theorem logSelect_keeper_reachDrops (a0 a1 a2 s) : (logSelect a0 a1 a2 s).keeper.reachDrops = s.keeper.reachDrops := keep_keeper_reachDrops (logSelect_keeps (g := .keeper) rfl a0 a1 a2 s (.refl _ s))
@[simp] theorem logSelect_spdm (a0 a1 a2 s) : (logSelect a0 a1 a2 s).spdm = s.spdm := logSelect_keeps (g := .spdm) rfl a0 a1 a2 s (.refl _ s)
@[simp] theorem logSelect_test (a0 a1 a2 s) : (logSelect a0 a1 a2 s).test = s.test := logSelect_keeps (g := .test) rfl a0 a1 a2 s (.refl _ s)
@[simp] theorem logSelect_hosts (a0 a1 a2 s) : (logSelect a0 a1 a2 s).hosts = s.hosts := logSelect_keeps (g := .hosts) rfl a0 a1 a2 s (.refl _ s)
@[simp] theorem logSelect_tide (a0 a1 a2 s) : (logSelect a0 a1 a2 s).tide = s.tide := logSelect_keeps (g := .tide) rfl a0 a1 a2 s (.refl _ s)
@[simp] theorem logSelect_rill (a0 a1 a2 s) : (logSelect a0 a1 a2 s).rill = s.rill := rill_eq (logSelect_keeps (g := .rill) rfl a0 a1 a2 s (.refl _ s)) (logSelect_keeps (g := .rillTable) rfl a0 a1 a2 s (.refl _ s))
@[simp] theorem logSelect_mills (a0 a1 a2 s) : (logSelect a0 a1 a2 s).mills = s.mills := logSelect_keeps (g := .mills) rfl a0 a1 a2 s (.refl _ s)
@[simp] theorem logSelect_shoal (a0 a1 a2 s) : (logSelect a0 a1 a2 s).shoal = s.shoal := shoal_eq (logSelect_keeps (g := .shoal) rfl a0 a1 a2 s (.refl _ s)) (logSelect_keeps (g := .slots) rfl a0 a1 a2 s (.refl _ s))
@[simp] theorem logSelect_attn (a0 a1 a2 s) : (logSelect a0 a1 a2 s).attn = s.attn := logSelect_keeps (g := .attn) rfl a0 a1 a2 s (.refl _ s)
@[simp] theorem logSelect_exch (a0 a1 a2 s) : (logSelect a0 a1 a2 s).exch = s.exch := logSelect_keeps (g := .exch) rfl a0 a1 a2 s (.refl _ s)
@[simp] theorem logSelect_out (a0 a1 a2 s) : (logSelect a0 a1 a2 s).out = s.out := logSelect_keeps (g := .out) rfl a0 a1 a2 s (.refl _ s)
@[simp] theorem logSelect_freeCtr (a0 a1 a2 s) : (logSelect a0 a1 a2 s).freeCtr = s.freeCtr := logSelect_keeps (g := .freeCtr) rfl a0 a1 a2 s (.refl _ s)
@[simp] theorem logSelect_pending (a0 a1 a2 s) : (logSelect a0 a1 a2 s).pending = s.pending := logSelect_keeps (g := .pending) rfl a0 a1 a2 s (.refl _ s)

/-! `updAttn` -/

@[simp] theorem updAttn_boot (a0 a1 a2 s) : (updAttn a0 a1 a2 s).boot = s.boot := updAttn_keeps (g := .boot) rfl a0 a1 a2 s (.refl _ s)
@[simp] theorem updAttn_pins (a0 a1 a2 s) : (updAttn a0 a1 a2 s).pins = s.pins := updAttn_keeps (g := .pins) rfl a0 a1 a2 s (.refl _ s)
@[simp] theorem updAttn_nv (a0 a1 a2 s) : (updAttn a0 a1 a2 s).nv = s.nv := nv_eq (updAttn_keeps (g := .fuses) rfl a0 a1 a2 s (.refl _ s)) (updAttn_keeps (g := .ident) rfl a0 a1 a2 s (.refl _ s)) (updAttn_keeps (g := .nvLog) rfl a0 a1 a2 s (.refl _ s)) (updAttn_keeps (g := .nvStore) rfl a0 a1 a2 s (.refl _ s))
@[simp] theorem updAttn_hw (a0 a1 a2 s) : (updAttn a0 a1 a2 s).hw = s.hw := updAttn_keeps (g := .hw) rfl a0 a1 a2 s (.refl _ s)
@[simp] theorem updAttn_map (a0 a1 a2 s) : (updAttn a0 a1 a2 s).map = s.map := updAttn_keeps (g := .map) rfl a0 a1 a2 s (.refl _ s)
@[simp] theorem updAttn_party (a0 a1 a2 s) : (updAttn a0 a1 a2 s).party = s.party := updAttn_keeps (g := .party) rfl a0 a1 a2 s (.refl _ s)
@[simp] theorem updAttn_net (a0 a1 a2 s) : (updAttn a0 a1 a2 s).net = s.net := net_eq (updAttn_keeps (g := .net) rfl a0 a1 a2 s (.refl _ s)) (updAttn_keeps (g := .links) rfl a0 a1 a2 s (.refl _ s))
@[simp] theorem updAttn_weir (a0 a1 a2 s) : (updAttn a0 a1 a2 s).weir = s.weir := weir_eq (updAttn_keeps (g := .weirCtl) rfl a0 a1 a2 s (.refl _ s)) (updAttn_keeps (g := .weirQ) rfl a0 a1 a2 s (.refl _ s))
@[simp] theorem updAttn_store (a0 a1 a2 s) : (updAttn a0 a1 a2 s).store = s.store := store_eq (updAttn_keeps (g := .store) rfl a0 a1 a2 s (.refl _ s)) (updAttn_keeps (g := .bytes) rfl a0 a1 a2 s (.refl _ s))
@[simp] theorem updAttn_flush (a0 a1 a2 s) : (updAttn a0 a1 a2 s).flush = s.flush := updAttn_keeps (g := .flush) rfl a0 a1 a2 s (.refl _ s)
@[simp] theorem updAttn_coh (a0 a1 a2 s) : (updAttn a0 a1 a2 s).coh = s.coh := updAttn_keeps (g := .coh) rfl a0 a1 a2 s (.refl _ s)
@[simp] theorem updAttn_sluice (a0 a1 a2 s) : (updAttn a0 a1 a2 s).sluice = s.sluice := updAttn_keeps (g := .sluice) rfl a0 a1 a2 s (.refl _ s)
@[simp] theorem updAttn_keeper (a0 a1 a2 s) : (updAttn a0 a1 a2 s).keeper = s.keeper := keeper_eq (updAttn_keeps (g := .keepLog) rfl a0 a1 a2 s (.refl _ s)) (updAttn_keeps (g := .keeper) rfl a0 a1 a2 s (.refl _ s))
@[simp] theorem updAttn_spdm (a0 a1 a2 s) : (updAttn a0 a1 a2 s).spdm = s.spdm := updAttn_keeps (g := .spdm) rfl a0 a1 a2 s (.refl _ s)
@[simp] theorem updAttn_test (a0 a1 a2 s) : (updAttn a0 a1 a2 s).test = s.test := updAttn_keeps (g := .test) rfl a0 a1 a2 s (.refl _ s)
@[simp] theorem updAttn_hosts (a0 a1 a2 s) : (updAttn a0 a1 a2 s).hosts = s.hosts := updAttn_keeps (g := .hosts) rfl a0 a1 a2 s (.refl _ s)
@[simp] theorem updAttn_tide (a0 a1 a2 s) : (updAttn a0 a1 a2 s).tide = s.tide := updAttn_keeps (g := .tide) rfl a0 a1 a2 s (.refl _ s)
@[simp] theorem updAttn_rill (a0 a1 a2 s) : (updAttn a0 a1 a2 s).rill = s.rill := rill_eq (updAttn_keeps (g := .rill) rfl a0 a1 a2 s (.refl _ s)) (updAttn_keeps (g := .rillTable) rfl a0 a1 a2 s (.refl _ s))
@[simp] theorem updAttn_mills (a0 a1 a2 s) : (updAttn a0 a1 a2 s).mills = s.mills := updAttn_keeps (g := .mills) rfl a0 a1 a2 s (.refl _ s)
@[simp] theorem updAttn_shoal (a0 a1 a2 s) : (updAttn a0 a1 a2 s).shoal = s.shoal := shoal_eq (updAttn_keeps (g := .shoal) rfl a0 a1 a2 s (.refl _ s)) (updAttn_keeps (g := .slots) rfl a0 a1 a2 s (.refl _ s))
@[simp] theorem updAttn_exch (a0 a1 a2 s) : (updAttn a0 a1 a2 s).exch = s.exch := updAttn_keeps (g := .exch) rfl a0 a1 a2 s (.refl _ s)
@[simp] theorem updAttn_out (a0 a1 a2 s) : (updAttn a0 a1 a2 s).out = s.out := updAttn_keeps (g := .out) rfl a0 a1 a2 s (.refl _ s)
@[simp] theorem updAttn_freeCtr (a0 a1 a2 s) : (updAttn a0 a1 a2 s).freeCtr = s.freeCtr := updAttn_keeps (g := .freeCtr) rfl a0 a1 a2 s (.refl _ s)
@[simp] theorem updAttn_pending (a0 a1 a2 s) : (updAttn a0 a1 a2 s).pending = s.pending := updAttn_keeps (g := .pending) rfl a0 a1 a2 s (.refl _ s)

/-! `updAttSeq` -/

@[simp] theorem updAttSeq_boot (a0 a1 a2 a3 s) : (updAttSeq a0 a1 a2 a3 s).boot = s.boot := updAttSeq_keeps (g := .boot) rfl a0 a1 a2 a3 s (.refl _ s)
@[simp] theorem updAttSeq_pins (a0 a1 a2 a3 s) : (updAttSeq a0 a1 a2 a3 s).pins = s.pins := updAttSeq_keeps (g := .pins) rfl a0 a1 a2 a3 s (.refl _ s)
@[simp] theorem updAttSeq_nv (a0 a1 a2 a3 s) : (updAttSeq a0 a1 a2 a3 s).nv = s.nv := nv_eq (updAttSeq_keeps (g := .fuses) rfl a0 a1 a2 a3 s (.refl _ s)) (updAttSeq_keeps (g := .ident) rfl a0 a1 a2 a3 s (.refl _ s)) (updAttSeq_keeps (g := .nvLog) rfl a0 a1 a2 a3 s (.refl _ s)) (updAttSeq_keeps (g := .nvStore) rfl a0 a1 a2 a3 s (.refl _ s))
@[simp] theorem updAttSeq_hw (a0 a1 a2 a3 s) : (updAttSeq a0 a1 a2 a3 s).hw = s.hw := updAttSeq_keeps (g := .hw) rfl a0 a1 a2 a3 s (.refl _ s)
@[simp] theorem updAttSeq_map (a0 a1 a2 a3 s) : (updAttSeq a0 a1 a2 a3 s).map = s.map := updAttSeq_keeps (g := .map) rfl a0 a1 a2 a3 s (.refl _ s)
@[simp] theorem updAttSeq_party (a0 a1 a2 a3 s) : (updAttSeq a0 a1 a2 a3 s).party = s.party := updAttSeq_keeps (g := .party) rfl a0 a1 a2 a3 s (.refl _ s)
@[simp] theorem updAttSeq_net (a0 a1 a2 a3 s) : (updAttSeq a0 a1 a2 a3 s).net = s.net := net_eq (updAttSeq_keeps (g := .net) rfl a0 a1 a2 a3 s (.refl _ s)) (updAttSeq_keeps (g := .links) rfl a0 a1 a2 a3 s (.refl _ s))
@[simp] theorem updAttSeq_weir (a0 a1 a2 a3 s) : (updAttSeq a0 a1 a2 a3 s).weir = s.weir := weir_eq (updAttSeq_keeps (g := .weirCtl) rfl a0 a1 a2 a3 s (.refl _ s)) (updAttSeq_keeps (g := .weirQ) rfl a0 a1 a2 a3 s (.refl _ s))
@[simp] theorem updAttSeq_store (a0 a1 a2 a3 s) : (updAttSeq a0 a1 a2 a3 s).store = s.store := store_eq (updAttSeq_keeps (g := .store) rfl a0 a1 a2 a3 s (.refl _ s)) (updAttSeq_keeps (g := .bytes) rfl a0 a1 a2 a3 s (.refl _ s))
@[simp] theorem updAttSeq_flush (a0 a1 a2 a3 s) : (updAttSeq a0 a1 a2 a3 s).flush = s.flush := updAttSeq_keeps (g := .flush) rfl a0 a1 a2 a3 s (.refl _ s)
@[simp] theorem updAttSeq_coh (a0 a1 a2 a3 s) : (updAttSeq a0 a1 a2 a3 s).coh = s.coh := updAttSeq_keeps (g := .coh) rfl a0 a1 a2 a3 s (.refl _ s)
@[simp] theorem updAttSeq_sluice (a0 a1 a2 a3 s) : (updAttSeq a0 a1 a2 a3 s).sluice = s.sluice := updAttSeq_keeps (g := .sluice) rfl a0 a1 a2 a3 s (.refl _ s)
@[simp] theorem updAttSeq_keeper (a0 a1 a2 a3 s) : (updAttSeq a0 a1 a2 a3 s).keeper = s.keeper := keeper_eq (updAttSeq_keeps (g := .keepLog) rfl a0 a1 a2 a3 s (.refl _ s)) (updAttSeq_keeps (g := .keeper) rfl a0 a1 a2 a3 s (.refl _ s))
@[simp] theorem updAttSeq_spdm (a0 a1 a2 a3 s) : (updAttSeq a0 a1 a2 a3 s).spdm = s.spdm := updAttSeq_keeps (g := .spdm) rfl a0 a1 a2 a3 s (.refl _ s)
@[simp] theorem updAttSeq_test (a0 a1 a2 a3 s) : (updAttSeq a0 a1 a2 a3 s).test = s.test := updAttSeq_keeps (g := .test) rfl a0 a1 a2 a3 s (.refl _ s)
@[simp] theorem updAttSeq_hosts (a0 a1 a2 a3 s) : (updAttSeq a0 a1 a2 a3 s).hosts = s.hosts := updAttSeq_keeps (g := .hosts) rfl a0 a1 a2 a3 s (.refl _ s)
@[simp] theorem updAttSeq_tide (a0 a1 a2 a3 s) : (updAttSeq a0 a1 a2 a3 s).tide = s.tide := updAttSeq_keeps (g := .tide) rfl a0 a1 a2 a3 s (.refl _ s)
@[simp] theorem updAttSeq_rill (a0 a1 a2 a3 s) : (updAttSeq a0 a1 a2 a3 s).rill = s.rill := rill_eq (updAttSeq_keeps (g := .rill) rfl a0 a1 a2 a3 s (.refl _ s)) (updAttSeq_keeps (g := .rillTable) rfl a0 a1 a2 a3 s (.refl _ s))
@[simp] theorem updAttSeq_mills (a0 a1 a2 a3 s) : (updAttSeq a0 a1 a2 a3 s).mills = s.mills := updAttSeq_keeps (g := .mills) rfl a0 a1 a2 a3 s (.refl _ s)
@[simp] theorem updAttSeq_shoal (a0 a1 a2 a3 s) : (updAttSeq a0 a1 a2 a3 s).shoal = s.shoal := shoal_eq (updAttSeq_keeps (g := .shoal) rfl a0 a1 a2 a3 s (.refl _ s)) (updAttSeq_keeps (g := .slots) rfl a0 a1 a2 a3 s (.refl _ s))
@[simp] theorem updAttSeq_exch (a0 a1 a2 a3 s) : (updAttSeq a0 a1 a2 a3 s).exch = s.exch := updAttSeq_keeps (g := .exch) rfl a0 a1 a2 a3 s (.refl _ s)
@[simp] theorem updAttSeq_out (a0 a1 a2 a3 s) : (updAttSeq a0 a1 a2 a3 s).out = s.out := updAttSeq_keeps (g := .out) rfl a0 a1 a2 a3 s (.refl _ s)
@[simp] theorem updAttSeq_freeCtr (a0 a1 a2 a3 s) : (updAttSeq a0 a1 a2 a3 s).freeCtr = s.freeCtr := updAttSeq_keeps (g := .freeCtr) rfl a0 a1 a2 a3 s (.refl _ s)
@[simp] theorem updAttSeq_pending (a0 a1 a2 a3 s) : (updAttSeq a0 a1 a2 a3 s).pending = s.pending := updAttSeq_keeps (g := .pending) rfl a0 a1 a2 a3 s (.refl _ s)

/-! `await` -/

@[simp] theorem await_pins (a0 s) : (await a0 s).pins = s.pins := await_keeps (g := .pins) rfl a0 s (.refl _ s)
@[simp] theorem await_nv (a0 s) : (await a0 s).nv = s.nv := nv_eq (await_keeps (g := .fuses) rfl a0 s (.refl _ s)) (await_keeps (g := .ident) rfl a0 s (.refl _ s)) (await_keeps (g := .nvLog) rfl a0 s (.refl _ s)) (await_keeps (g := .nvStore) rfl a0 s (.refl _ s))
@[simp] theorem await_hw (a0 s) : (await a0 s).hw = s.hw := await_keeps (g := .hw) rfl a0 s (.refl _ s)
@[simp] theorem await_map (a0 s) : (await a0 s).map = s.map := await_keeps (g := .map) rfl a0 s (.refl _ s)
@[simp] theorem await_party (a0 s) : (await a0 s).party = s.party := await_keeps (g := .party) rfl a0 s (.refl _ s)
@[simp] theorem await_net (a0 s) : (await a0 s).net = s.net := net_eq (await_keeps (g := .net) rfl a0 s (.refl _ s)) (await_keeps (g := .links) rfl a0 s (.refl _ s))
@[simp] theorem await_weir (a0 s) : (await a0 s).weir = s.weir := weir_eq (await_keeps (g := .weirCtl) rfl a0 s (.refl _ s)) (await_keeps (g := .weirQ) rfl a0 s (.refl _ s))
@[simp] theorem await_store (a0 s) : (await a0 s).store = s.store := store_eq (await_keeps (g := .store) rfl a0 s (.refl _ s)) (await_keeps (g := .bytes) rfl a0 s (.refl _ s))
@[simp] theorem await_flush (a0 s) : (await a0 s).flush = s.flush := await_keeps (g := .flush) rfl a0 s (.refl _ s)
@[simp] theorem await_coh (a0 s) : (await a0 s).coh = s.coh := await_keeps (g := .coh) rfl a0 s (.refl _ s)
@[simp] theorem await_sluice (a0 s) : (await a0 s).sluice = s.sluice := await_keeps (g := .sluice) rfl a0 s (.refl _ s)
@[simp] theorem await_keeper (a0 s) : (await a0 s).keeper = s.keeper := keeper_eq (await_keeps (g := .keepLog) rfl a0 s (.refl _ s)) (await_keeps (g := .keeper) rfl a0 s (.refl _ s))
@[simp] theorem await_spdm (a0 s) : (await a0 s).spdm = s.spdm := await_keeps (g := .spdm) rfl a0 s (.refl _ s)
@[simp] theorem await_test (a0 s) : (await a0 s).test = s.test := await_keeps (g := .test) rfl a0 s (.refl _ s)
@[simp] theorem await_hosts (a0 s) : (await a0 s).hosts = s.hosts := await_keeps (g := .hosts) rfl a0 s (.refl _ s)
@[simp] theorem await_tide (a0 s) : (await a0 s).tide = s.tide := await_keeps (g := .tide) rfl a0 s (.refl _ s)
@[simp] theorem await_rill (a0 s) : (await a0 s).rill = s.rill := rill_eq (await_keeps (g := .rill) rfl a0 s (.refl _ s)) (await_keeps (g := .rillTable) rfl a0 s (.refl _ s))
@[simp] theorem await_mills (a0 s) : (await a0 s).mills = s.mills := await_keeps (g := .mills) rfl a0 s (.refl _ s)
@[simp] theorem await_shoal (a0 s) : (await a0 s).shoal = s.shoal := shoal_eq (await_keeps (g := .shoal) rfl a0 s (.refl _ s)) (await_keeps (g := .slots) rfl a0 s (.refl _ s))
@[simp] theorem await_attn (a0 s) : (await a0 s).attn = s.attn := await_keeps (g := .attn) rfl a0 s (.refl _ s)
@[simp] theorem await_exch (a0 s) : (await a0 s).exch = s.exch := await_keeps (g := .exch) rfl a0 s (.refl _ s)
@[simp] theorem await_out (a0 s) : (await a0 s).out = s.out := await_keeps (g := .out) rfl a0 s (.refl _ s)
@[simp] theorem await_freeCtr (a0 s) : (await a0 s).freeCtr = s.freeCtr := await_keeps (g := .freeCtr) rfl a0 s (.refl _ s)
@[simp] theorem await_pending (a0 s) : (await a0 s).pending = s.pending := await_keeps (g := .pending) rfl a0 s (.refl _ s)

/-! `logSlot` -/

@[simp] theorem logSlot_boot (a0 a1 a2 s) : (logSlot a0 a1 a2 s).boot = s.boot := logSlot_keeps (g := .boot) rfl a0 a1 a2 s (.refl _ s)
@[simp] theorem logSlot_pins (a0 a1 a2 s) : (logSlot a0 a1 a2 s).pins = s.pins := logSlot_keeps (g := .pins) rfl a0 a1 a2 s (.refl _ s)
@[simp] theorem logSlot_nv_lossOpen (a0 a1 a2 s) : (logSlot a0 a1 a2 s).nv.lossOpen = s.nv.lossOpen := keep_nv_lossOpen (logSlot_keeps (g := .nvLog) rfl a0 a1 a2 s (.refl _ s))
@[simp] theorem logSlot_nv_batchPrev (a0 a1 a2 s) : (logSlot a0 a1 a2 s).nv.batchPrev = s.nv.batchPrev := keep_nv_batchPrev (logSlot_keeps (g := .nvLog) rfl a0 a1 a2 s (.refl _ s))
@[simp] theorem logSlot_nv_nextSeq (a0 a1 a2 s) : (logSlot a0 a1 a2 s).nv.nextSeq = s.nv.nextSeq := keep_nv_nextSeq (logSlot_keeps (g := .nvLog) rfl a0 a1 a2 s (.refl _ s))
@[simp] theorem logSlot_nv_retiredRows (a0 a1 a2 s) : (logSlot a0 a1 a2 s).nv.retiredRows = s.nv.retiredRows := keep_nv_retiredRows (logSlot_keeps (g := .nvStore) rfl a0 a1 a2 s (.refl _ s))
@[simp] theorem logSlot_nv_flashSerial (a0 a1 a2 s) : (logSlot a0 a1 a2 s).nv.flashSerial = s.nv.flashSerial := keep_nv_flashSerial (logSlot_keeps (g := .nvStore) rfl a0 a1 a2 s (.refl _ s))
@[simp] theorem logSlot_nv_flashPoison (a0 a1 a2 s) : (logSlot a0 a1 a2 s).nv.flashPoison = s.nv.flashPoison := keep_nv_flashPoison (logSlot_keeps (g := .nvStore) rfl a0 a1 a2 s (.refl _ s))
@[simp] theorem logSlot_nv_reserve (a0 a1 a2 s) : (logSlot a0 a1 a2 s).nv.reserve = s.nv.reserve := keep_nv_reserve (logSlot_keeps (g := .nvStore) rfl a0 a1 a2 s (.refl _ s))
@[simp] theorem logSlot_hw (a0 a1 a2 s) : (logSlot a0 a1 a2 s).hw = s.hw := logSlot_keeps (g := .hw) rfl a0 a1 a2 s (.refl _ s)
@[simp] theorem logSlot_map (a0 a1 a2 s) : (logSlot a0 a1 a2 s).map = s.map := logSlot_keeps (g := .map) rfl a0 a1 a2 s (.refl _ s)
@[simp] theorem logSlot_party (a0 a1 a2 s) : (logSlot a0 a1 a2 s).party = s.party := logSlot_keeps (g := .party) rfl a0 a1 a2 s (.refl _ s)
@[simp] theorem logSlot_net (a0 a1 a2 s) : (logSlot a0 a1 a2 s).net = s.net := net_eq (logSlot_keeps (g := .net) rfl a0 a1 a2 s (.refl _ s)) (logSlot_keeps (g := .links) rfl a0 a1 a2 s (.refl _ s))
@[simp] theorem logSlot_weir (a0 a1 a2 s) : (logSlot a0 a1 a2 s).weir = s.weir := weir_eq (logSlot_keeps (g := .weirCtl) rfl a0 a1 a2 s (.refl _ s)) (logSlot_keeps (g := .weirQ) rfl a0 a1 a2 s (.refl _ s))
@[simp] theorem logSlot_store (a0 a1 a2 s) : (logSlot a0 a1 a2 s).store = s.store := store_eq (logSlot_keeps (g := .store) rfl a0 a1 a2 s (.refl _ s)) (logSlot_keeps (g := .bytes) rfl a0 a1 a2 s (.refl _ s))
@[simp] theorem logSlot_flush (a0 a1 a2 s) : (logSlot a0 a1 a2 s).flush = s.flush := logSlot_keeps (g := .flush) rfl a0 a1 a2 s (.refl _ s)
@[simp] theorem logSlot_coh (a0 a1 a2 s) : (logSlot a0 a1 a2 s).coh = s.coh := logSlot_keeps (g := .coh) rfl a0 a1 a2 s (.refl _ s)
@[simp] theorem logSlot_sluice (a0 a1 a2 s) : (logSlot a0 a1 a2 s).sluice = s.sluice := logSlot_keeps (g := .sluice) rfl a0 a1 a2 s (.refl _ s)
@[simp] theorem logSlot_keeper_gravSamples (a0 a1 a2 s) : (logSlot a0 a1 a2 s).keeper.gravSamples = s.keeper.gravSamples := keep_keeper_gravSamples (logSlot_keeps (g := .keeper) rfl a0 a1 a2 s (.refl _ s))
@[simp] theorem logSlot_keeper_shockRun (a0 a1 a2 s) : (logSlot a0 a1 a2 s).keeper.shockRun = s.keeper.shockRun := keep_keeper_shockRun (logSlot_keeps (g := .keeper) rfl a0 a1 a2 s (.refl _ s))
@[simp] theorem logSlot_keeper_shockPeak (a0 a1 a2 s) : (logSlot a0 a1 a2 s).keeper.shockPeak = s.keeper.shockPeak := keep_keeper_shockPeak (logSlot_keeps (g := .keeper) rfl a0 a1 a2 s (.refl _ s))
@[simp] theorem logSlot_keeper_shockAxes (a0 a1 a2 s) : (logSlot a0 a1 a2 s).keeper.shockAxes = s.keeper.shockAxes := keep_keeper_shockAxes (logSlot_keeps (g := .keeper) rfl a0 a1 a2 s (.refl _ s))
@[simp] theorem logSlot_keeper_shockOver (a0 a1 a2 s) : (logSlot a0 a1 a2 s).keeper.shockOver = s.keeper.shockOver := keep_keeper_shockOver (logSlot_keeps (g := .keeper) rfl a0 a1 a2 s (.refl _ s))
@[simp] theorem logSlot_keeper_shockHold (a0 a1 a2 s) : (logSlot a0 a1 a2 s).keeper.shockHold = s.keeper.shockHold := keep_keeper_shockHold (logSlot_keeps (g := .keeper) rfl a0 a1 a2 s (.refl _ s))
@[simp] theorem logSlot_keeper_transfer (a0 a1 a2 s) : (logSlot a0 a1 a2 s).keeper.transfer = s.keeper.transfer := keep_keeper_transfer (logSlot_keeps (g := .keeper) rfl a0 a1 a2 s (.refl _ s))
@[simp] theorem logSlot_keeper_deferred (a0 a1 a2 s) : (logSlot a0 a1 a2 s).keeper.deferred = s.keeper.deferred := keep_keeper_deferred (logSlot_keeps (g := .keeper) rfl a0 a1 a2 s (.refl _ s))
@[simp] theorem logSlot_keeper_rebootCause (a0 a1 a2 s) : (logSlot a0 a1 a2 s).keeper.rebootCause = s.keeper.rebootCause := keep_keeper_rebootCause (logSlot_keeps (g := .keeper) rfl a0 a1 a2 s (.refl _ s))
@[simp] theorem logSlot_keeper_reachDrops (a0 a1 a2 s) : (logSlot a0 a1 a2 s).keeper.reachDrops = s.keeper.reachDrops := keep_keeper_reachDrops (logSlot_keeps (g := .keeper) rfl a0 a1 a2 s (.refl _ s))
@[simp] theorem logSlot_spdm (a0 a1 a2 s) : (logSlot a0 a1 a2 s).spdm = s.spdm := logSlot_keeps (g := .spdm) rfl a0 a1 a2 s (.refl _ s)
@[simp] theorem logSlot_test (a0 a1 a2 s) : (logSlot a0 a1 a2 s).test = s.test := logSlot_keeps (g := .test) rfl a0 a1 a2 s (.refl _ s)
@[simp] theorem logSlot_hosts (a0 a1 a2 s) : (logSlot a0 a1 a2 s).hosts = s.hosts := logSlot_keeps (g := .hosts) rfl a0 a1 a2 s (.refl _ s)
@[simp] theorem logSlot_tide (a0 a1 a2 s) : (logSlot a0 a1 a2 s).tide = s.tide := logSlot_keeps (g := .tide) rfl a0 a1 a2 s (.refl _ s)
@[simp] theorem logSlot_rill (a0 a1 a2 s) : (logSlot a0 a1 a2 s).rill = s.rill := rill_eq (logSlot_keeps (g := .rill) rfl a0 a1 a2 s (.refl _ s)) (logSlot_keeps (g := .rillTable) rfl a0 a1 a2 s (.refl _ s))
@[simp] theorem logSlot_mills (a0 a1 a2 s) : (logSlot a0 a1 a2 s).mills = s.mills := logSlot_keeps (g := .mills) rfl a0 a1 a2 s (.refl _ s)
@[simp] theorem logSlot_shoal (a0 a1 a2 s) : (logSlot a0 a1 a2 s).shoal = s.shoal := shoal_eq (logSlot_keeps (g := .shoal) rfl a0 a1 a2 s (.refl _ s)) (logSlot_keeps (g := .slots) rfl a0 a1 a2 s (.refl _ s))
@[simp] theorem logSlot_attn (a0 a1 a2 s) : (logSlot a0 a1 a2 s).attn = s.attn := logSlot_keeps (g := .attn) rfl a0 a1 a2 s (.refl _ s)
@[simp] theorem logSlot_exch (a0 a1 a2 s) : (logSlot a0 a1 a2 s).exch = s.exch := logSlot_keeps (g := .exch) rfl a0 a1 a2 s (.refl _ s)
@[simp] theorem logSlot_out (a0 a1 a2 s) : (logSlot a0 a1 a2 s).out = s.out := logSlot_keeps (g := .out) rfl a0 a1 a2 s (.refl _ s)
@[simp] theorem logSlot_freeCtr (a0 a1 a2 s) : (logSlot a0 a1 a2 s).freeCtr = s.freeCtr := logSlot_keeps (g := .freeCtr) rfl a0 a1 a2 s (.refl _ s)
@[simp] theorem logSlot_pending (a0 a1 a2 s) : (logSlot a0 a1 a2 s).pending = s.pending := logSlot_keeps (g := .pending) rfl a0 a1 a2 s (.refl _ s)

/-! `badSlot` -/

@[simp] theorem badSlot_boot (a0 a1 s) : (badSlot a0 a1 s).boot = s.boot := badSlot_keeps (g := .boot) rfl a0 a1 s (.refl _ s)
@[simp] theorem badSlot_pins (a0 a1 s) : (badSlot a0 a1 s).pins = s.pins := badSlot_keeps (g := .pins) rfl a0 a1 s (.refl _ s)
@[simp] theorem badSlot_nv_lossOpen (a0 a1 s) : (badSlot a0 a1 s).nv.lossOpen = s.nv.lossOpen := keep_nv_lossOpen (badSlot_keeps (g := .nvLog) rfl a0 a1 s (.refl _ s))
@[simp] theorem badSlot_nv_batchPrev (a0 a1 s) : (badSlot a0 a1 s).nv.batchPrev = s.nv.batchPrev := keep_nv_batchPrev (badSlot_keeps (g := .nvLog) rfl a0 a1 s (.refl _ s))
@[simp] theorem badSlot_nv_nextSeq (a0 a1 s) : (badSlot a0 a1 s).nv.nextSeq = s.nv.nextSeq := keep_nv_nextSeq (badSlot_keeps (g := .nvLog) rfl a0 a1 s (.refl _ s))
@[simp] theorem badSlot_nv_retiredRows (a0 a1 s) : (badSlot a0 a1 s).nv.retiredRows = s.nv.retiredRows := keep_nv_retiredRows (badSlot_keeps (g := .nvStore) rfl a0 a1 s (.refl _ s))
@[simp] theorem badSlot_nv_flashSerial (a0 a1 s) : (badSlot a0 a1 s).nv.flashSerial = s.nv.flashSerial := keep_nv_flashSerial (badSlot_keeps (g := .nvStore) rfl a0 a1 s (.refl _ s))
@[simp] theorem badSlot_nv_flashPoison (a0 a1 s) : (badSlot a0 a1 s).nv.flashPoison = s.nv.flashPoison := keep_nv_flashPoison (badSlot_keeps (g := .nvStore) rfl a0 a1 s (.refl _ s))
@[simp] theorem badSlot_nv_reserve (a0 a1 s) : (badSlot a0 a1 s).nv.reserve = s.nv.reserve := keep_nv_reserve (badSlot_keeps (g := .nvStore) rfl a0 a1 s (.refl _ s))
@[simp] theorem badSlot_hw (a0 a1 s) : (badSlot a0 a1 s).hw = s.hw := badSlot_keeps (g := .hw) rfl a0 a1 s (.refl _ s)
@[simp] theorem badSlot_map (a0 a1 s) : (badSlot a0 a1 s).map = s.map := badSlot_keeps (g := .map) rfl a0 a1 s (.refl _ s)
@[simp] theorem badSlot_party (a0 a1 s) : (badSlot a0 a1 s).party = s.party := badSlot_keeps (g := .party) rfl a0 a1 s (.refl _ s)
@[simp] theorem badSlot_net (a0 a1 s) : (badSlot a0 a1 s).net = s.net := net_eq (badSlot_keeps (g := .net) rfl a0 a1 s (.refl _ s)) (badSlot_keeps (g := .links) rfl a0 a1 s (.refl _ s))
@[simp] theorem badSlot_weir (a0 a1 s) : (badSlot a0 a1 s).weir = s.weir := weir_eq (badSlot_keeps (g := .weirCtl) rfl a0 a1 s (.refl _ s)) (badSlot_keeps (g := .weirQ) rfl a0 a1 s (.refl _ s))
@[simp] theorem badSlot_store (a0 a1 s) : (badSlot a0 a1 s).store = s.store := store_eq (badSlot_keeps (g := .store) rfl a0 a1 s (.refl _ s)) (badSlot_keeps (g := .bytes) rfl a0 a1 s (.refl _ s))
@[simp] theorem badSlot_flush (a0 a1 s) : (badSlot a0 a1 s).flush = s.flush := badSlot_keeps (g := .flush) rfl a0 a1 s (.refl _ s)
@[simp] theorem badSlot_coh (a0 a1 s) : (badSlot a0 a1 s).coh = s.coh := badSlot_keeps (g := .coh) rfl a0 a1 s (.refl _ s)
@[simp] theorem badSlot_sluice (a0 a1 s) : (badSlot a0 a1 s).sluice = s.sluice := badSlot_keeps (g := .sluice) rfl a0 a1 s (.refl _ s)
@[simp] theorem badSlot_keeper_gravSamples (a0 a1 s) : (badSlot a0 a1 s).keeper.gravSamples = s.keeper.gravSamples := keep_keeper_gravSamples (badSlot_keeps (g := .keeper) rfl a0 a1 s (.refl _ s))
@[simp] theorem badSlot_keeper_shockRun (a0 a1 s) : (badSlot a0 a1 s).keeper.shockRun = s.keeper.shockRun := keep_keeper_shockRun (badSlot_keeps (g := .keeper) rfl a0 a1 s (.refl _ s))
@[simp] theorem badSlot_keeper_shockPeak (a0 a1 s) : (badSlot a0 a1 s).keeper.shockPeak = s.keeper.shockPeak := keep_keeper_shockPeak (badSlot_keeps (g := .keeper) rfl a0 a1 s (.refl _ s))
@[simp] theorem badSlot_keeper_shockAxes (a0 a1 s) : (badSlot a0 a1 s).keeper.shockAxes = s.keeper.shockAxes := keep_keeper_shockAxes (badSlot_keeps (g := .keeper) rfl a0 a1 s (.refl _ s))
@[simp] theorem badSlot_keeper_shockOver (a0 a1 s) : (badSlot a0 a1 s).keeper.shockOver = s.keeper.shockOver := keep_keeper_shockOver (badSlot_keeps (g := .keeper) rfl a0 a1 s (.refl _ s))
@[simp] theorem badSlot_keeper_shockHold (a0 a1 s) : (badSlot a0 a1 s).keeper.shockHold = s.keeper.shockHold := keep_keeper_shockHold (badSlot_keeps (g := .keeper) rfl a0 a1 s (.refl _ s))
@[simp] theorem badSlot_keeper_transfer (a0 a1 s) : (badSlot a0 a1 s).keeper.transfer = s.keeper.transfer := keep_keeper_transfer (badSlot_keeps (g := .keeper) rfl a0 a1 s (.refl _ s))
@[simp] theorem badSlot_keeper_deferred (a0 a1 s) : (badSlot a0 a1 s).keeper.deferred = s.keeper.deferred := keep_keeper_deferred (badSlot_keeps (g := .keeper) rfl a0 a1 s (.refl _ s))
@[simp] theorem badSlot_keeper_rebootCause (a0 a1 s) : (badSlot a0 a1 s).keeper.rebootCause = s.keeper.rebootCause := keep_keeper_rebootCause (badSlot_keeps (g := .keeper) rfl a0 a1 s (.refl _ s))
@[simp] theorem badSlot_keeper_reachDrops (a0 a1 s) : (badSlot a0 a1 s).keeper.reachDrops = s.keeper.reachDrops := keep_keeper_reachDrops (badSlot_keeps (g := .keeper) rfl a0 a1 s (.refl _ s))
@[simp] theorem badSlot_spdm (a0 a1 s) : (badSlot a0 a1 s).spdm = s.spdm := badSlot_keeps (g := .spdm) rfl a0 a1 s (.refl _ s)
@[simp] theorem badSlot_test (a0 a1 s) : (badSlot a0 a1 s).test = s.test := badSlot_keeps (g := .test) rfl a0 a1 s (.refl _ s)
@[simp] theorem badSlot_hosts (a0 a1 s) : (badSlot a0 a1 s).hosts = s.hosts := badSlot_keeps (g := .hosts) rfl a0 a1 s (.refl _ s)
@[simp] theorem badSlot_tide (a0 a1 s) : (badSlot a0 a1 s).tide = s.tide := badSlot_keeps (g := .tide) rfl a0 a1 s (.refl _ s)
@[simp] theorem badSlot_rill (a0 a1 s) : (badSlot a0 a1 s).rill = s.rill := rill_eq (badSlot_keeps (g := .rill) rfl a0 a1 s (.refl _ s)) (badSlot_keeps (g := .rillTable) rfl a0 a1 s (.refl _ s))
@[simp] theorem badSlot_mills (a0 a1 s) : (badSlot a0 a1 s).mills = s.mills := badSlot_keeps (g := .mills) rfl a0 a1 s (.refl _ s)
@[simp] theorem badSlot_shoal (a0 a1 s) : (badSlot a0 a1 s).shoal = s.shoal := shoal_eq (badSlot_keeps (g := .shoal) rfl a0 a1 s (.refl _ s)) (badSlot_keeps (g := .slots) rfl a0 a1 s (.refl _ s))
@[simp] theorem badSlot_attn (a0 a1 s) : (badSlot a0 a1 s).attn = s.attn := badSlot_keeps (g := .attn) rfl a0 a1 s (.refl _ s)
@[simp] theorem badSlot_exch (a0 a1 s) : (badSlot a0 a1 s).exch = s.exch := badSlot_keeps (g := .exch) rfl a0 a1 s (.refl _ s)
@[simp] theorem badSlot_out (a0 a1 s) : (badSlot a0 a1 s).out = s.out := badSlot_keeps (g := .out) rfl a0 a1 s (.refl _ s)
@[simp] theorem badSlot_freeCtr (a0 a1 s) : (badSlot a0 a1 s).freeCtr = s.freeCtr := badSlot_keeps (g := .freeCtr) rfl a0 a1 s (.refl _ s)
@[simp] theorem badSlot_pending (a0 a1 s) : (badSlot a0 a1 s).pending = s.pending := badSlot_keeps (g := .pending) rfl a0 a1 s (.refl _ s)

/-! `updMirror` -/

@[simp] theorem updMirror_boot (a0 a1 s) : (updMirror a0 a1 s).boot = s.boot := updMirror_keeps (g := .boot) rfl a0 a1 s (.refl _ s)
@[simp] theorem updMirror_pins (a0 a1 s) : (updMirror a0 a1 s).pins = s.pins := updMirror_keeps (g := .pins) rfl a0 a1 s (.refl _ s)
@[simp] theorem updMirror_nv (a0 a1 s) : (updMirror a0 a1 s).nv = s.nv := nv_eq (updMirror_keeps (g := .fuses) rfl a0 a1 s (.refl _ s)) (updMirror_keeps (g := .ident) rfl a0 a1 s (.refl _ s)) (updMirror_keeps (g := .nvLog) rfl a0 a1 s (.refl _ s)) (updMirror_keeps (g := .nvStore) rfl a0 a1 s (.refl _ s))
@[simp] theorem updMirror_hw (a0 a1 s) : (updMirror a0 a1 s).hw = s.hw := updMirror_keeps (g := .hw) rfl a0 a1 s (.refl _ s)
@[simp] theorem updMirror_map (a0 a1 s) : (updMirror a0 a1 s).map = s.map := updMirror_keeps (g := .map) rfl a0 a1 s (.refl _ s)
@[simp] theorem updMirror_party (a0 a1 s) : (updMirror a0 a1 s).party = s.party := updMirror_keeps (g := .party) rfl a0 a1 s (.refl _ s)
@[simp] theorem updMirror_net (a0 a1 s) : (updMirror a0 a1 s).net = s.net := net_eq (updMirror_keeps (g := .net) rfl a0 a1 s (.refl _ s)) (updMirror_keeps (g := .links) rfl a0 a1 s (.refl _ s))
@[simp] theorem updMirror_weir (a0 a1 s) : (updMirror a0 a1 s).weir = s.weir := weir_eq (updMirror_keeps (g := .weirCtl) rfl a0 a1 s (.refl _ s)) (updMirror_keeps (g := .weirQ) rfl a0 a1 s (.refl _ s))
@[simp] theorem updMirror_store (a0 a1 s) : (updMirror a0 a1 s).store = s.store := store_eq (updMirror_keeps (g := .store) rfl a0 a1 s (.refl _ s)) (updMirror_keeps (g := .bytes) rfl a0 a1 s (.refl _ s))
@[simp] theorem updMirror_flush (a0 a1 s) : (updMirror a0 a1 s).flush = s.flush := updMirror_keeps (g := .flush) rfl a0 a1 s (.refl _ s)
@[simp] theorem updMirror_coh (a0 a1 s) : (updMirror a0 a1 s).coh = s.coh := updMirror_keeps (g := .coh) rfl a0 a1 s (.refl _ s)
@[simp] theorem updMirror_keeper (a0 a1 s) : (updMirror a0 a1 s).keeper = s.keeper := keeper_eq (updMirror_keeps (g := .keepLog) rfl a0 a1 s (.refl _ s)) (updMirror_keeps (g := .keeper) rfl a0 a1 s (.refl _ s))
@[simp] theorem updMirror_spdm (a0 a1 s) : (updMirror a0 a1 s).spdm = s.spdm := updMirror_keeps (g := .spdm) rfl a0 a1 s (.refl _ s)
@[simp] theorem updMirror_test (a0 a1 s) : (updMirror a0 a1 s).test = s.test := updMirror_keeps (g := .test) rfl a0 a1 s (.refl _ s)
@[simp] theorem updMirror_hosts (a0 a1 s) : (updMirror a0 a1 s).hosts = s.hosts := updMirror_keeps (g := .hosts) rfl a0 a1 s (.refl _ s)
@[simp] theorem updMirror_tide (a0 a1 s) : (updMirror a0 a1 s).tide = s.tide := updMirror_keeps (g := .tide) rfl a0 a1 s (.refl _ s)
@[simp] theorem updMirror_rill (a0 a1 s) : (updMirror a0 a1 s).rill = s.rill := rill_eq (updMirror_keeps (g := .rill) rfl a0 a1 s (.refl _ s)) (updMirror_keeps (g := .rillTable) rfl a0 a1 s (.refl _ s))
@[simp] theorem updMirror_mills (a0 a1 s) : (updMirror a0 a1 s).mills = s.mills := updMirror_keeps (g := .mills) rfl a0 a1 s (.refl _ s)
@[simp] theorem updMirror_shoal (a0 a1 s) : (updMirror a0 a1 s).shoal = s.shoal := shoal_eq (updMirror_keeps (g := .shoal) rfl a0 a1 s (.refl _ s)) (updMirror_keeps (g := .slots) rfl a0 a1 s (.refl _ s))
@[simp] theorem updMirror_attn (a0 a1 s) : (updMirror a0 a1 s).attn = s.attn := updMirror_keeps (g := .attn) rfl a0 a1 s (.refl _ s)
@[simp] theorem updMirror_exch (a0 a1 s) : (updMirror a0 a1 s).exch = s.exch := updMirror_keeps (g := .exch) rfl a0 a1 s (.refl _ s)
@[simp] theorem updMirror_out (a0 a1 s) : (updMirror a0 a1 s).out = s.out := updMirror_keeps (g := .out) rfl a0 a1 s (.refl _ s)
@[simp] theorem updMirror_freeCtr (a0 a1 s) : (updMirror a0 a1 s).freeCtr = s.freeCtr := updMirror_keeps (g := .freeCtr) rfl a0 a1 s (.refl _ s)
@[simp] theorem updMirror_pending (a0 a1 s) : (updMirror a0 a1 s).pending = s.pending := updMirror_keeps (g := .pending) rfl a0 a1 s (.refl _ s)

/-! `updFar` -/

@[simp] theorem updFar_boot (a0 a1 s) : (updFar a0 a1 s).boot = s.boot := updFar_keeps (g := .boot) rfl a0 a1 s (.refl _ s)
@[simp] theorem updFar_pins (a0 a1 s) : (updFar a0 a1 s).pins = s.pins := updFar_keeps (g := .pins) rfl a0 a1 s (.refl _ s)
@[simp] theorem updFar_nv (a0 a1 s) : (updFar a0 a1 s).nv = s.nv := nv_eq (updFar_keeps (g := .fuses) rfl a0 a1 s (.refl _ s)) (updFar_keeps (g := .ident) rfl a0 a1 s (.refl _ s)) (updFar_keeps (g := .nvLog) rfl a0 a1 s (.refl _ s)) (updFar_keeps (g := .nvStore) rfl a0 a1 s (.refl _ s))
@[simp] theorem updFar_hw (a0 a1 s) : (updFar a0 a1 s).hw = s.hw := updFar_keeps (g := .hw) rfl a0 a1 s (.refl _ s)
@[simp] theorem updFar_map (a0 a1 s) : (updFar a0 a1 s).map = s.map := updFar_keeps (g := .map) rfl a0 a1 s (.refl _ s)
@[simp] theorem updFar_party (a0 a1 s) : (updFar a0 a1 s).party = s.party := updFar_keeps (g := .party) rfl a0 a1 s (.refl _ s)
@[simp] theorem updFar_net (a0 a1 s) : (updFar a0 a1 s).net = s.net := net_eq (updFar_keeps (g := .net) rfl a0 a1 s (.refl _ s)) (updFar_keeps (g := .links) rfl a0 a1 s (.refl _ s))
@[simp] theorem updFar_weir (a0 a1 s) : (updFar a0 a1 s).weir = s.weir := weir_eq (updFar_keeps (g := .weirCtl) rfl a0 a1 s (.refl _ s)) (updFar_keeps (g := .weirQ) rfl a0 a1 s (.refl _ s))
@[simp] theorem updFar_store (a0 a1 s) : (updFar a0 a1 s).store = s.store := store_eq (updFar_keeps (g := .store) rfl a0 a1 s (.refl _ s)) (updFar_keeps (g := .bytes) rfl a0 a1 s (.refl _ s))
@[simp] theorem updFar_flush (a0 a1 s) : (updFar a0 a1 s).flush = s.flush := updFar_keeps (g := .flush) rfl a0 a1 s (.refl _ s)
@[simp] theorem updFar_coh (a0 a1 s) : (updFar a0 a1 s).coh = s.coh := updFar_keeps (g := .coh) rfl a0 a1 s (.refl _ s)
@[simp] theorem updFar_keeper (a0 a1 s) : (updFar a0 a1 s).keeper = s.keeper := keeper_eq (updFar_keeps (g := .keepLog) rfl a0 a1 s (.refl _ s)) (updFar_keeps (g := .keeper) rfl a0 a1 s (.refl _ s))
@[simp] theorem updFar_spdm (a0 a1 s) : (updFar a0 a1 s).spdm = s.spdm := updFar_keeps (g := .spdm) rfl a0 a1 s (.refl _ s)
@[simp] theorem updFar_test (a0 a1 s) : (updFar a0 a1 s).test = s.test := updFar_keeps (g := .test) rfl a0 a1 s (.refl _ s)
@[simp] theorem updFar_hosts (a0 a1 s) : (updFar a0 a1 s).hosts = s.hosts := updFar_keeps (g := .hosts) rfl a0 a1 s (.refl _ s)
@[simp] theorem updFar_tide (a0 a1 s) : (updFar a0 a1 s).tide = s.tide := updFar_keeps (g := .tide) rfl a0 a1 s (.refl _ s)
@[simp] theorem updFar_rill (a0 a1 s) : (updFar a0 a1 s).rill = s.rill := rill_eq (updFar_keeps (g := .rill) rfl a0 a1 s (.refl _ s)) (updFar_keeps (g := .rillTable) rfl a0 a1 s (.refl _ s))
@[simp] theorem updFar_mills (a0 a1 s) : (updFar a0 a1 s).mills = s.mills := updFar_keeps (g := .mills) rfl a0 a1 s (.refl _ s)
@[simp] theorem updFar_shoal (a0 a1 s) : (updFar a0 a1 s).shoal = s.shoal := shoal_eq (updFar_keeps (g := .shoal) rfl a0 a1 s (.refl _ s)) (updFar_keeps (g := .slots) rfl a0 a1 s (.refl _ s))
@[simp] theorem updFar_attn (a0 a1 s) : (updFar a0 a1 s).attn = s.attn := updFar_keeps (g := .attn) rfl a0 a1 s (.refl _ s)
@[simp] theorem updFar_exch (a0 a1 s) : (updFar a0 a1 s).exch = s.exch := updFar_keeps (g := .exch) rfl a0 a1 s (.refl _ s)
@[simp] theorem updFar_out (a0 a1 s) : (updFar a0 a1 s).out = s.out := updFar_keeps (g := .out) rfl a0 a1 s (.refl _ s)
@[simp] theorem updFar_freeCtr (a0 a1 s) : (updFar a0 a1 s).freeCtr = s.freeCtr := updFar_keeps (g := .freeCtr) rfl a0 a1 s (.refl _ s)
@[simp] theorem updFar_pending (a0 a1 s) : (updFar a0 a1 s).pending = s.pending := updFar_keeps (g := .pending) rfl a0 a1 s (.refl _ s)

/-! `bootFail` -/

@[simp] theorem bootFail_pins (a0 a1 s) : (bootFail a0 a1 s).pins = s.pins := bootFail_keeps (g := .pins) rfl a0 a1 s (.refl _ s)
@[simp] theorem bootFail_nv (a0 a1 s) : (bootFail a0 a1 s).nv = s.nv := nv_eq (bootFail_keeps (g := .fuses) rfl a0 a1 s (.refl _ s)) (bootFail_keeps (g := .ident) rfl a0 a1 s (.refl _ s)) (bootFail_keeps (g := .nvLog) rfl a0 a1 s (.refl _ s)) (bootFail_keeps (g := .nvStore) rfl a0 a1 s (.refl _ s))
@[simp] theorem bootFail_hw (a0 a1 s) : (bootFail a0 a1 s).hw = s.hw := bootFail_keeps (g := .hw) rfl a0 a1 s (.refl _ s)
@[simp] theorem bootFail_map (a0 a1 s) : (bootFail a0 a1 s).map = s.map := bootFail_keeps (g := .map) rfl a0 a1 s (.refl _ s)
@[simp] theorem bootFail_party (a0 a1 s) : (bootFail a0 a1 s).party = s.party := bootFail_keeps (g := .party) rfl a0 a1 s (.refl _ s)
@[simp] theorem bootFail_net (a0 a1 s) : (bootFail a0 a1 s).net = s.net := net_eq (bootFail_keeps (g := .net) rfl a0 a1 s (.refl _ s)) (bootFail_keeps (g := .links) rfl a0 a1 s (.refl _ s))
@[simp] theorem bootFail_weir (a0 a1 s) : (bootFail a0 a1 s).weir = s.weir := weir_eq (bootFail_keeps (g := .weirCtl) rfl a0 a1 s (.refl _ s)) (bootFail_keeps (g := .weirQ) rfl a0 a1 s (.refl _ s))
@[simp] theorem bootFail_store (a0 a1 s) : (bootFail a0 a1 s).store = s.store := store_eq (bootFail_keeps (g := .store) rfl a0 a1 s (.refl _ s)) (bootFail_keeps (g := .bytes) rfl a0 a1 s (.refl _ s))
@[simp] theorem bootFail_flush (a0 a1 s) : (bootFail a0 a1 s).flush = s.flush := bootFail_keeps (g := .flush) rfl a0 a1 s (.refl _ s)
@[simp] theorem bootFail_coh (a0 a1 s) : (bootFail a0 a1 s).coh = s.coh := bootFail_keeps (g := .coh) rfl a0 a1 s (.refl _ s)
@[simp] theorem bootFail_sluice (a0 a1 s) : (bootFail a0 a1 s).sluice = s.sluice := bootFail_keeps (g := .sluice) rfl a0 a1 s (.refl _ s)
@[simp] theorem bootFail_keeper_gravSamples (a0 a1 s) : (bootFail a0 a1 s).keeper.gravSamples = s.keeper.gravSamples := keep_keeper_gravSamples (bootFail_keeps (g := .keeper) rfl a0 a1 s (.refl _ s))
@[simp] theorem bootFail_keeper_shockRun (a0 a1 s) : (bootFail a0 a1 s).keeper.shockRun = s.keeper.shockRun := keep_keeper_shockRun (bootFail_keeps (g := .keeper) rfl a0 a1 s (.refl _ s))
@[simp] theorem bootFail_keeper_shockPeak (a0 a1 s) : (bootFail a0 a1 s).keeper.shockPeak = s.keeper.shockPeak := keep_keeper_shockPeak (bootFail_keeps (g := .keeper) rfl a0 a1 s (.refl _ s))
@[simp] theorem bootFail_keeper_shockAxes (a0 a1 s) : (bootFail a0 a1 s).keeper.shockAxes = s.keeper.shockAxes := keep_keeper_shockAxes (bootFail_keeps (g := .keeper) rfl a0 a1 s (.refl _ s))
@[simp] theorem bootFail_keeper_shockOver (a0 a1 s) : (bootFail a0 a1 s).keeper.shockOver = s.keeper.shockOver := keep_keeper_shockOver (bootFail_keeps (g := .keeper) rfl a0 a1 s (.refl _ s))
@[simp] theorem bootFail_keeper_shockHold (a0 a1 s) : (bootFail a0 a1 s).keeper.shockHold = s.keeper.shockHold := keep_keeper_shockHold (bootFail_keeps (g := .keeper) rfl a0 a1 s (.refl _ s))
@[simp] theorem bootFail_keeper_transfer (a0 a1 s) : (bootFail a0 a1 s).keeper.transfer = s.keeper.transfer := keep_keeper_transfer (bootFail_keeps (g := .keeper) rfl a0 a1 s (.refl _ s))
@[simp] theorem bootFail_keeper_deferred (a0 a1 s) : (bootFail a0 a1 s).keeper.deferred = s.keeper.deferred := keep_keeper_deferred (bootFail_keeps (g := .keeper) rfl a0 a1 s (.refl _ s))
@[simp] theorem bootFail_keeper_rebootCause (a0 a1 s) : (bootFail a0 a1 s).keeper.rebootCause = s.keeper.rebootCause := keep_keeper_rebootCause (bootFail_keeps (g := .keeper) rfl a0 a1 s (.refl _ s))
@[simp] theorem bootFail_keeper_reachDrops (a0 a1 s) : (bootFail a0 a1 s).keeper.reachDrops = s.keeper.reachDrops := keep_keeper_reachDrops (bootFail_keeps (g := .keeper) rfl a0 a1 s (.refl _ s))
@[simp] theorem bootFail_spdm (a0 a1 s) : (bootFail a0 a1 s).spdm = s.spdm := bootFail_keeps (g := .spdm) rfl a0 a1 s (.refl _ s)
@[simp] theorem bootFail_test (a0 a1 s) : (bootFail a0 a1 s).test = s.test := bootFail_keeps (g := .test) rfl a0 a1 s (.refl _ s)
@[simp] theorem bootFail_hosts (a0 a1 s) : (bootFail a0 a1 s).hosts = s.hosts := bootFail_keeps (g := .hosts) rfl a0 a1 s (.refl _ s)
@[simp] theorem bootFail_tide (a0 a1 s) : (bootFail a0 a1 s).tide = s.tide := bootFail_keeps (g := .tide) rfl a0 a1 s (.refl _ s)
@[simp] theorem bootFail_rill (a0 a1 s) : (bootFail a0 a1 s).rill = s.rill := rill_eq (bootFail_keeps (g := .rill) rfl a0 a1 s (.refl _ s)) (bootFail_keeps (g := .rillTable) rfl a0 a1 s (.refl _ s))
@[simp] theorem bootFail_mills (a0 a1 s) : (bootFail a0 a1 s).mills = s.mills := bootFail_keeps (g := .mills) rfl a0 a1 s (.refl _ s)
@[simp] theorem bootFail_shoal (a0 a1 s) : (bootFail a0 a1 s).shoal = s.shoal := shoal_eq (bootFail_keeps (g := .shoal) rfl a0 a1 s (.refl _ s)) (bootFail_keeps (g := .slots) rfl a0 a1 s (.refl _ s))
@[simp] theorem bootFail_attn (a0 a1 s) : (bootFail a0 a1 s).attn = s.attn := bootFail_keeps (g := .attn) rfl a0 a1 s (.refl _ s)
@[simp] theorem bootFail_exch (a0 a1 s) : (bootFail a0 a1 s).exch = s.exch := bootFail_keeps (g := .exch) rfl a0 a1 s (.refl _ s)
@[simp] theorem bootFail_out (a0 a1 s) : (bootFail a0 a1 s).out = s.out := bootFail_keeps (g := .out) rfl a0 a1 s (.refl _ s)
@[simp] theorem bootFail_freeCtr (a0 a1 s) : (bootFail a0 a1 s).freeCtr = s.freeCtr := bootFail_keeps (g := .freeCtr) rfl a0 a1 s (.refl _ s)
@[simp] theorem bootFail_pending (a0 a1 s) : (bootFail a0 a1 s).pending = s.pending := bootFail_keeps (g := .pending) rfl a0 a1 s (.refl _ s)

/-! `updCb` -/

@[simp] theorem updCb_boot (a0 a1 s) : (updCb a0 a1 s).boot = s.boot := updCb_keeps (g := .boot) rfl a0 a1 s (.refl _ s)
@[simp] theorem updCb_pins (a0 a1 s) : (updCb a0 a1 s).pins = s.pins := updCb_keeps (g := .pins) rfl a0 a1 s (.refl _ s)
@[simp] theorem updCb_nv (a0 a1 s) : (updCb a0 a1 s).nv = s.nv := nv_eq (updCb_keeps (g := .fuses) rfl a0 a1 s (.refl _ s)) (updCb_keeps (g := .ident) rfl a0 a1 s (.refl _ s)) (updCb_keeps (g := .nvLog) rfl a0 a1 s (.refl _ s)) (updCb_keeps (g := .nvStore) rfl a0 a1 s (.refl _ s))
@[simp] theorem updCb_hw (a0 a1 s) : (updCb a0 a1 s).hw = s.hw := updCb_keeps (g := .hw) rfl a0 a1 s (.refl _ s)
@[simp] theorem updCb_map (a0 a1 s) : (updCb a0 a1 s).map = s.map := updCb_keeps (g := .map) rfl a0 a1 s (.refl _ s)
@[simp] theorem updCb_party (a0 a1 s) : (updCb a0 a1 s).party = s.party := updCb_keeps (g := .party) rfl a0 a1 s (.refl _ s)
@[simp] theorem updCb_net (a0 a1 s) : (updCb a0 a1 s).net = s.net := net_eq (updCb_keeps (g := .net) rfl a0 a1 s (.refl _ s)) (updCb_keeps (g := .links) rfl a0 a1 s (.refl _ s))
@[simp] theorem updCb_weir (a0 a1 s) : (updCb a0 a1 s).weir = s.weir := weir_eq (updCb_keeps (g := .weirCtl) rfl a0 a1 s (.refl _ s)) (updCb_keeps (g := .weirQ) rfl a0 a1 s (.refl _ s))
@[simp] theorem updCb_store (a0 a1 s) : (updCb a0 a1 s).store = s.store := store_eq (updCb_keeps (g := .store) rfl a0 a1 s (.refl _ s)) (updCb_keeps (g := .bytes) rfl a0 a1 s (.refl _ s))
@[simp] theorem updCb_flush (a0 a1 s) : (updCb a0 a1 s).flush = s.flush := updCb_keeps (g := .flush) rfl a0 a1 s (.refl _ s)
@[simp] theorem updCb_coh (a0 a1 s) : (updCb a0 a1 s).coh = s.coh := updCb_keeps (g := .coh) rfl a0 a1 s (.refl _ s)
@[simp] theorem updCb_sluice (a0 a1 s) : (updCb a0 a1 s).sluice = s.sluice := updCb_keeps (g := .sluice) rfl a0 a1 s (.refl _ s)
@[simp] theorem updCb_keeper (a0 a1 s) : (updCb a0 a1 s).keeper = s.keeper := keeper_eq (updCb_keeps (g := .keepLog) rfl a0 a1 s (.refl _ s)) (updCb_keeps (g := .keeper) rfl a0 a1 s (.refl _ s))
@[simp] theorem updCb_spdm (a0 a1 s) : (updCb a0 a1 s).spdm = s.spdm := updCb_keeps (g := .spdm) rfl a0 a1 s (.refl _ s)
@[simp] theorem updCb_test (a0 a1 s) : (updCb a0 a1 s).test = s.test := updCb_keeps (g := .test) rfl a0 a1 s (.refl _ s)
@[simp] theorem updCb_hosts (a0 a1 s) : (updCb a0 a1 s).hosts = s.hosts := updCb_keeps (g := .hosts) rfl a0 a1 s (.refl _ s)
@[simp] theorem updCb_tide (a0 a1 s) : (updCb a0 a1 s).tide = s.tide := updCb_keeps (g := .tide) rfl a0 a1 s (.refl _ s)
@[simp] theorem updCb_rill (a0 a1 s) : (updCb a0 a1 s).rill = s.rill := rill_eq (updCb_keeps (g := .rill) rfl a0 a1 s (.refl _ s)) (updCb_keeps (g := .rillTable) rfl a0 a1 s (.refl _ s))
@[simp] theorem updCb_mills (a0 a1 s) : (updCb a0 a1 s).mills = s.mills := updCb_keeps (g := .mills) rfl a0 a1 s (.refl _ s)
@[simp] theorem updCb_shoal_outcomes (a0 a1 s) : (updCb a0 a1 s).shoal.outcomes = s.shoal.outcomes := keep_shoal_outcomes (updCb_keeps (g := .shoal) rfl a0 a1 s (.refl _ s))
@[simp] theorem updCb_shoal_expOff (a0 a1 s) : (updCb a0 a1 s).shoal.expOff = s.shoal.expOff := keep_shoal_expOff (updCb_keeps (g := .shoal) rfl a0 a1 s (.refl _ s))
@[simp] theorem updCb_attn (a0 a1 s) : (updCb a0 a1 s).attn = s.attn := updCb_keeps (g := .attn) rfl a0 a1 s (.refl _ s)
@[simp] theorem updCb_exch (a0 a1 s) : (updCb a0 a1 s).exch = s.exch := updCb_keeps (g := .exch) rfl a0 a1 s (.refl _ s)
@[simp] theorem updCb_out (a0 a1 s) : (updCb a0 a1 s).out = s.out := updCb_keeps (g := .out) rfl a0 a1 s (.refl _ s)
@[simp] theorem updCb_freeCtr (a0 a1 s) : (updCb a0 a1 s).freeCtr = s.freeCtr := updCb_keeps (g := .freeCtr) rfl a0 a1 s (.refl _ s)
@[simp] theorem updCb_pending (a0 a1 s) : (updCb a0 a1 s).pending = s.pending := updCb_keeps (g := .pending) rfl a0 a1 s (.refl _ s)

/-! `logIgnored` -/

@[simp] theorem logIgnored_boot (a0 a1 a2 s) : (logIgnored a0 a1 a2 s).boot = s.boot := logIgnored_keeps (g := .boot) rfl a0 a1 a2 s (.refl _ s)
@[simp] theorem logIgnored_pins (a0 a1 a2 s) : (logIgnored a0 a1 a2 s).pins = s.pins := logIgnored_keeps (g := .pins) rfl a0 a1 a2 s (.refl _ s)
@[simp] theorem logIgnored_nv (a0 a1 a2 s) : (logIgnored a0 a1 a2 s).nv = s.nv := nv_eq (logIgnored_keeps (g := .fuses) rfl a0 a1 a2 s (.refl _ s)) (logIgnored_keeps (g := .ident) rfl a0 a1 a2 s (.refl _ s)) (logIgnored_keeps (g := .nvLog) rfl a0 a1 a2 s (.refl _ s)) (logIgnored_keeps (g := .nvStore) rfl a0 a1 a2 s (.refl _ s))
@[simp] theorem logIgnored_hw (a0 a1 a2 s) : (logIgnored a0 a1 a2 s).hw = s.hw := logIgnored_keeps (g := .hw) rfl a0 a1 a2 s (.refl _ s)
@[simp] theorem logIgnored_map (a0 a1 a2 s) : (logIgnored a0 a1 a2 s).map = s.map := logIgnored_keeps (g := .map) rfl a0 a1 a2 s (.refl _ s)
@[simp] theorem logIgnored_party (a0 a1 a2 s) : (logIgnored a0 a1 a2 s).party = s.party := logIgnored_keeps (g := .party) rfl a0 a1 a2 s (.refl _ s)
@[simp] theorem logIgnored_net (a0 a1 a2 s) : (logIgnored a0 a1 a2 s).net = s.net := net_eq (logIgnored_keeps (g := .net) rfl a0 a1 a2 s (.refl _ s)) (logIgnored_keeps (g := .links) rfl a0 a1 a2 s (.refl _ s))
@[simp] theorem logIgnored_weir (a0 a1 a2 s) : (logIgnored a0 a1 a2 s).weir = s.weir := weir_eq (logIgnored_keeps (g := .weirCtl) rfl a0 a1 a2 s (.refl _ s)) (logIgnored_keeps (g := .weirQ) rfl a0 a1 a2 s (.refl _ s))
@[simp] theorem logIgnored_store (a0 a1 a2 s) : (logIgnored a0 a1 a2 s).store = s.store := store_eq (logIgnored_keeps (g := .store) rfl a0 a1 a2 s (.refl _ s)) (logIgnored_keeps (g := .bytes) rfl a0 a1 a2 s (.refl _ s))
@[simp] theorem logIgnored_flush (a0 a1 a2 s) : (logIgnored a0 a1 a2 s).flush = s.flush := logIgnored_keeps (g := .flush) rfl a0 a1 a2 s (.refl _ s)
@[simp] theorem logIgnored_coh (a0 a1 a2 s) : (logIgnored a0 a1 a2 s).coh = s.coh := logIgnored_keeps (g := .coh) rfl a0 a1 a2 s (.refl _ s)
@[simp] theorem logIgnored_sluice (a0 a1 a2 s) : (logIgnored a0 a1 a2 s).sluice = s.sluice := logIgnored_keeps (g := .sluice) rfl a0 a1 a2 s (.refl _ s)
@[simp] theorem logIgnored_keeper_gravSamples (a0 a1 a2 s) : (logIgnored a0 a1 a2 s).keeper.gravSamples = s.keeper.gravSamples := keep_keeper_gravSamples (logIgnored_keeps (g := .keeper) rfl a0 a1 a2 s (.refl _ s))
@[simp] theorem logIgnored_keeper_shockRun (a0 a1 a2 s) : (logIgnored a0 a1 a2 s).keeper.shockRun = s.keeper.shockRun := keep_keeper_shockRun (logIgnored_keeps (g := .keeper) rfl a0 a1 a2 s (.refl _ s))
@[simp] theorem logIgnored_keeper_shockPeak (a0 a1 a2 s) : (logIgnored a0 a1 a2 s).keeper.shockPeak = s.keeper.shockPeak := keep_keeper_shockPeak (logIgnored_keeps (g := .keeper) rfl a0 a1 a2 s (.refl _ s))
@[simp] theorem logIgnored_keeper_shockAxes (a0 a1 a2 s) : (logIgnored a0 a1 a2 s).keeper.shockAxes = s.keeper.shockAxes := keep_keeper_shockAxes (logIgnored_keeps (g := .keeper) rfl a0 a1 a2 s (.refl _ s))
@[simp] theorem logIgnored_keeper_shockOver (a0 a1 a2 s) : (logIgnored a0 a1 a2 s).keeper.shockOver = s.keeper.shockOver := keep_keeper_shockOver (logIgnored_keeps (g := .keeper) rfl a0 a1 a2 s (.refl _ s))
@[simp] theorem logIgnored_keeper_shockHold (a0 a1 a2 s) : (logIgnored a0 a1 a2 s).keeper.shockHold = s.keeper.shockHold := keep_keeper_shockHold (logIgnored_keeps (g := .keeper) rfl a0 a1 a2 s (.refl _ s))
@[simp] theorem logIgnored_keeper_transfer (a0 a1 a2 s) : (logIgnored a0 a1 a2 s).keeper.transfer = s.keeper.transfer := keep_keeper_transfer (logIgnored_keeps (g := .keeper) rfl a0 a1 a2 s (.refl _ s))
@[simp] theorem logIgnored_keeper_deferred (a0 a1 a2 s) : (logIgnored a0 a1 a2 s).keeper.deferred = s.keeper.deferred := keep_keeper_deferred (logIgnored_keeps (g := .keeper) rfl a0 a1 a2 s (.refl _ s))
@[simp] theorem logIgnored_keeper_rebootCause (a0 a1 a2 s) : (logIgnored a0 a1 a2 s).keeper.rebootCause = s.keeper.rebootCause := keep_keeper_rebootCause (logIgnored_keeps (g := .keeper) rfl a0 a1 a2 s (.refl _ s))
@[simp] theorem logIgnored_keeper_reachDrops (a0 a1 a2 s) : (logIgnored a0 a1 a2 s).keeper.reachDrops = s.keeper.reachDrops := keep_keeper_reachDrops (logIgnored_keeps (g := .keeper) rfl a0 a1 a2 s (.refl _ s))
@[simp] theorem logIgnored_spdm (a0 a1 a2 s) : (logIgnored a0 a1 a2 s).spdm = s.spdm := logIgnored_keeps (g := .spdm) rfl a0 a1 a2 s (.refl _ s)
@[simp] theorem logIgnored_test (a0 a1 a2 s) : (logIgnored a0 a1 a2 s).test = s.test := logIgnored_keeps (g := .test) rfl a0 a1 a2 s (.refl _ s)
@[simp] theorem logIgnored_hosts (a0 a1 a2 s) : (logIgnored a0 a1 a2 s).hosts = s.hosts := logIgnored_keeps (g := .hosts) rfl a0 a1 a2 s (.refl _ s)
@[simp] theorem logIgnored_tide (a0 a1 a2 s) : (logIgnored a0 a1 a2 s).tide = s.tide := logIgnored_keeps (g := .tide) rfl a0 a1 a2 s (.refl _ s)
@[simp] theorem logIgnored_rill (a0 a1 a2 s) : (logIgnored a0 a1 a2 s).rill = s.rill := rill_eq (logIgnored_keeps (g := .rill) rfl a0 a1 a2 s (.refl _ s)) (logIgnored_keeps (g := .rillTable) rfl a0 a1 a2 s (.refl _ s))
@[simp] theorem logIgnored_mills (a0 a1 a2 s) : (logIgnored a0 a1 a2 s).mills = s.mills := logIgnored_keeps (g := .mills) rfl a0 a1 a2 s (.refl _ s)
@[simp] theorem logIgnored_shoal (a0 a1 a2 s) : (logIgnored a0 a1 a2 s).shoal = s.shoal := shoal_eq (logIgnored_keeps (g := .shoal) rfl a0 a1 a2 s (.refl _ s)) (logIgnored_keeps (g := .slots) rfl a0 a1 a2 s (.refl _ s))
@[simp] theorem logIgnored_attn (a0 a1 a2 s) : (logIgnored a0 a1 a2 s).attn = s.attn := logIgnored_keeps (g := .attn) rfl a0 a1 a2 s (.refl _ s)
@[simp] theorem logIgnored_exch (a0 a1 a2 s) : (logIgnored a0 a1 a2 s).exch = s.exch := logIgnored_keeps (g := .exch) rfl a0 a1 a2 s (.refl _ s)
@[simp] theorem logIgnored_out (a0 a1 a2 s) : (logIgnored a0 a1 a2 s).out = s.out := logIgnored_keeps (g := .out) rfl a0 a1 a2 s (.refl _ s)
@[simp] theorem logIgnored_freeCtr (a0 a1 a2 s) : (logIgnored a0 a1 a2 s).freeCtr = s.freeCtr := logIgnored_keeps (g := .freeCtr) rfl a0 a1 a2 s (.refl _ s)
@[simp] theorem logIgnored_pending (a0 a1 a2 s) : (logIgnored a0 a1 a2 s).pending = s.pending := logIgnored_keeps (g := .pending) rfl a0 a1 a2 s (.refl _ s)

/-! `cmdAnswer` -/

@[simp] theorem cmdAnswer_boot (a0 a1 a2 s) : (cmdAnswer a0 a1 a2 s).boot = s.boot := cmdAnswer_keeps (g := .boot) rfl a0 a1 a2 s (.refl _ s)
@[simp] theorem cmdAnswer_pins (a0 a1 a2 s) : (cmdAnswer a0 a1 a2 s).pins = s.pins := cmdAnswer_keeps (g := .pins) rfl a0 a1 a2 s (.refl _ s)
@[simp] theorem cmdAnswer_nv (a0 a1 a2 s) : (cmdAnswer a0 a1 a2 s).nv = s.nv := nv_eq (cmdAnswer_keeps (g := .fuses) rfl a0 a1 a2 s (.refl _ s)) (cmdAnswer_keeps (g := .ident) rfl a0 a1 a2 s (.refl _ s)) (cmdAnswer_keeps (g := .nvLog) rfl a0 a1 a2 s (.refl _ s)) (cmdAnswer_keeps (g := .nvStore) rfl a0 a1 a2 s (.refl _ s))
@[simp] theorem cmdAnswer_hw (a0 a1 a2 s) : (cmdAnswer a0 a1 a2 s).hw = s.hw := cmdAnswer_keeps (g := .hw) rfl a0 a1 a2 s (.refl _ s)
@[simp] theorem cmdAnswer_map (a0 a1 a2 s) : (cmdAnswer a0 a1 a2 s).map = s.map := cmdAnswer_keeps (g := .map) rfl a0 a1 a2 s (.refl _ s)
@[simp] theorem cmdAnswer_party (a0 a1 a2 s) : (cmdAnswer a0 a1 a2 s).party = s.party := cmdAnswer_keeps (g := .party) rfl a0 a1 a2 s (.refl _ s)
@[simp] theorem cmdAnswer_net (a0 a1 a2 s) : (cmdAnswer a0 a1 a2 s).net = s.net := net_eq (cmdAnswer_keeps (g := .net) rfl a0 a1 a2 s (.refl _ s)) (cmdAnswer_keeps (g := .links) rfl a0 a1 a2 s (.refl _ s))
@[simp] theorem cmdAnswer_weir (a0 a1 a2 s) : (cmdAnswer a0 a1 a2 s).weir = s.weir := weir_eq (cmdAnswer_keeps (g := .weirCtl) rfl a0 a1 a2 s (.refl _ s)) (cmdAnswer_keeps (g := .weirQ) rfl a0 a1 a2 s (.refl _ s))
@[simp] theorem cmdAnswer_store (a0 a1 a2 s) : (cmdAnswer a0 a1 a2 s).store = s.store := store_eq (cmdAnswer_keeps (g := .store) rfl a0 a1 a2 s (.refl _ s)) (cmdAnswer_keeps (g := .bytes) rfl a0 a1 a2 s (.refl _ s))
@[simp] theorem cmdAnswer_flush (a0 a1 a2 s) : (cmdAnswer a0 a1 a2 s).flush = s.flush := cmdAnswer_keeps (g := .flush) rfl a0 a1 a2 s (.refl _ s)
@[simp] theorem cmdAnswer_coh (a0 a1 a2 s) : (cmdAnswer a0 a1 a2 s).coh = s.coh := cmdAnswer_keeps (g := .coh) rfl a0 a1 a2 s (.refl _ s)
@[simp] theorem cmdAnswer_sluice (a0 a1 a2 s) : (cmdAnswer a0 a1 a2 s).sluice = s.sluice := cmdAnswer_keeps (g := .sluice) rfl a0 a1 a2 s (.refl _ s)
@[simp] theorem cmdAnswer_keeper_gravSamples (a0 a1 a2 s) : (cmdAnswer a0 a1 a2 s).keeper.gravSamples = s.keeper.gravSamples := keep_keeper_gravSamples (cmdAnswer_keeps (g := .keeper) rfl a0 a1 a2 s (.refl _ s))
@[simp] theorem cmdAnswer_keeper_shockRun (a0 a1 a2 s) : (cmdAnswer a0 a1 a2 s).keeper.shockRun = s.keeper.shockRun := keep_keeper_shockRun (cmdAnswer_keeps (g := .keeper) rfl a0 a1 a2 s (.refl _ s))
@[simp] theorem cmdAnswer_keeper_shockPeak (a0 a1 a2 s) : (cmdAnswer a0 a1 a2 s).keeper.shockPeak = s.keeper.shockPeak := keep_keeper_shockPeak (cmdAnswer_keeps (g := .keeper) rfl a0 a1 a2 s (.refl _ s))
@[simp] theorem cmdAnswer_keeper_shockAxes (a0 a1 a2 s) : (cmdAnswer a0 a1 a2 s).keeper.shockAxes = s.keeper.shockAxes := keep_keeper_shockAxes (cmdAnswer_keeps (g := .keeper) rfl a0 a1 a2 s (.refl _ s))
@[simp] theorem cmdAnswer_keeper_shockOver (a0 a1 a2 s) : (cmdAnswer a0 a1 a2 s).keeper.shockOver = s.keeper.shockOver := keep_keeper_shockOver (cmdAnswer_keeps (g := .keeper) rfl a0 a1 a2 s (.refl _ s))
@[simp] theorem cmdAnswer_keeper_shockHold (a0 a1 a2 s) : (cmdAnswer a0 a1 a2 s).keeper.shockHold = s.keeper.shockHold := keep_keeper_shockHold (cmdAnswer_keeps (g := .keeper) rfl a0 a1 a2 s (.refl _ s))
@[simp] theorem cmdAnswer_keeper_transfer (a0 a1 a2 s) : (cmdAnswer a0 a1 a2 s).keeper.transfer = s.keeper.transfer := keep_keeper_transfer (cmdAnswer_keeps (g := .keeper) rfl a0 a1 a2 s (.refl _ s))
@[simp] theorem cmdAnswer_keeper_deferred (a0 a1 a2 s) : (cmdAnswer a0 a1 a2 s).keeper.deferred = s.keeper.deferred := keep_keeper_deferred (cmdAnswer_keeps (g := .keeper) rfl a0 a1 a2 s (.refl _ s))
@[simp] theorem cmdAnswer_keeper_rebootCause (a0 a1 a2 s) : (cmdAnswer a0 a1 a2 s).keeper.rebootCause = s.keeper.rebootCause := keep_keeper_rebootCause (cmdAnswer_keeps (g := .keeper) rfl a0 a1 a2 s (.refl _ s))
@[simp] theorem cmdAnswer_keeper_reachDrops (a0 a1 a2 s) : (cmdAnswer a0 a1 a2 s).keeper.reachDrops = s.keeper.reachDrops := keep_keeper_reachDrops (cmdAnswer_keeps (g := .keeper) rfl a0 a1 a2 s (.refl _ s))
@[simp] theorem cmdAnswer_spdm (a0 a1 a2 s) : (cmdAnswer a0 a1 a2 s).spdm = s.spdm := cmdAnswer_keeps (g := .spdm) rfl a0 a1 a2 s (.refl _ s)
@[simp] theorem cmdAnswer_test (a0 a1 a2 s) : (cmdAnswer a0 a1 a2 s).test = s.test := cmdAnswer_keeps (g := .test) rfl a0 a1 a2 s (.refl _ s)
@[simp] theorem cmdAnswer_hosts (a0 a1 a2 s) : (cmdAnswer a0 a1 a2 s).hosts = s.hosts := cmdAnswer_keeps (g := .hosts) rfl a0 a1 a2 s (.refl _ s)
@[simp] theorem cmdAnswer_tide (a0 a1 a2 s) : (cmdAnswer a0 a1 a2 s).tide = s.tide := cmdAnswer_keeps (g := .tide) rfl a0 a1 a2 s (.refl _ s)
@[simp] theorem cmdAnswer_rill (a0 a1 a2 s) : (cmdAnswer a0 a1 a2 s).rill = s.rill := rill_eq (cmdAnswer_keeps (g := .rill) rfl a0 a1 a2 s (.refl _ s)) (cmdAnswer_keeps (g := .rillTable) rfl a0 a1 a2 s (.refl _ s))
@[simp] theorem cmdAnswer_mills (a0 a1 a2 s) : (cmdAnswer a0 a1 a2 s).mills = s.mills := cmdAnswer_keeps (g := .mills) rfl a0 a1 a2 s (.refl _ s)
@[simp] theorem cmdAnswer_shoal (a0 a1 a2 s) : (cmdAnswer a0 a1 a2 s).shoal = s.shoal := shoal_eq (cmdAnswer_keeps (g := .shoal) rfl a0 a1 a2 s (.refl _ s)) (cmdAnswer_keeps (g := .slots) rfl a0 a1 a2 s (.refl _ s))
@[simp] theorem cmdAnswer_attn (a0 a1 a2 s) : (cmdAnswer a0 a1 a2 s).attn = s.attn := cmdAnswer_keeps (g := .attn) rfl a0 a1 a2 s (.refl _ s)
@[simp] theorem cmdAnswer_exch (a0 a1 a2 s) : (cmdAnswer a0 a1 a2 s).exch = s.exch := cmdAnswer_keeps (g := .exch) rfl a0 a1 a2 s (.refl _ s)
@[simp] theorem cmdAnswer_freeCtr (a0 a1 a2 s) : (cmdAnswer a0 a1 a2 s).freeCtr = s.freeCtr := cmdAnswer_keeps (g := .freeCtr) rfl a0 a1 a2 s (.refl _ s)
@[simp] theorem cmdAnswer_pending (a0 a1 a2 s) : (cmdAnswer a0 a1 a2 s).pending = s.pending := cmdAnswer_keeps (g := .pending) rfl a0 a1 a2 s (.refl _ s)

/-! `updCtl` -/

@[simp] theorem updCtl_boot (a0 a1 s) : (updCtl a0 a1 s).boot = s.boot := updCtl_keeps (g := .boot) rfl a0 a1 s (.refl _ s)
@[simp] theorem updCtl_pins (a0 a1 s) : (updCtl a0 a1 s).pins = s.pins := updCtl_keeps (g := .pins) rfl a0 a1 s (.refl _ s)
@[simp] theorem updCtl_nv (a0 a1 s) : (updCtl a0 a1 s).nv = s.nv := nv_eq (updCtl_keeps (g := .fuses) rfl a0 a1 s (.refl _ s)) (updCtl_keeps (g := .ident) rfl a0 a1 s (.refl _ s)) (updCtl_keeps (g := .nvLog) rfl a0 a1 s (.refl _ s)) (updCtl_keeps (g := .nvStore) rfl a0 a1 s (.refl _ s))
@[simp] theorem updCtl_hw (a0 a1 s) : (updCtl a0 a1 s).hw = s.hw := updCtl_keeps (g := .hw) rfl a0 a1 s (.refl _ s)
@[simp] theorem updCtl_map (a0 a1 s) : (updCtl a0 a1 s).map = s.map := updCtl_keeps (g := .map) rfl a0 a1 s (.refl _ s)
@[simp] theorem updCtl_party (a0 a1 s) : (updCtl a0 a1 s).party = s.party := updCtl_keeps (g := .party) rfl a0 a1 s (.refl _ s)
@[simp] theorem updCtl_net (a0 a1 s) : (updCtl a0 a1 s).net = s.net := net_eq (updCtl_keeps (g := .net) rfl a0 a1 s (.refl _ s)) (updCtl_keeps (g := .links) rfl a0 a1 s (.refl _ s))
@[simp] theorem updCtl_weir (a0 a1 s) : (updCtl a0 a1 s).weir = s.weir := weir_eq (updCtl_keeps (g := .weirCtl) rfl a0 a1 s (.refl _ s)) (updCtl_keeps (g := .weirQ) rfl a0 a1 s (.refl _ s))
@[simp] theorem updCtl_store (a0 a1 s) : (updCtl a0 a1 s).store = s.store := store_eq (updCtl_keeps (g := .store) rfl a0 a1 s (.refl _ s)) (updCtl_keeps (g := .bytes) rfl a0 a1 s (.refl _ s))
@[simp] theorem updCtl_flush (a0 a1 s) : (updCtl a0 a1 s).flush = s.flush := updCtl_keeps (g := .flush) rfl a0 a1 s (.refl _ s)
@[simp] theorem updCtl_coh (a0 a1 s) : (updCtl a0 a1 s).coh = s.coh := updCtl_keeps (g := .coh) rfl a0 a1 s (.refl _ s)
@[simp] theorem updCtl_sluice (a0 a1 s) : (updCtl a0 a1 s).sluice = s.sluice := updCtl_keeps (g := .sluice) rfl a0 a1 s (.refl _ s)
@[simp] theorem updCtl_keeper (a0 a1 s) : (updCtl a0 a1 s).keeper = s.keeper := keeper_eq (updCtl_keeps (g := .keepLog) rfl a0 a1 s (.refl _ s)) (updCtl_keeps (g := .keeper) rfl a0 a1 s (.refl _ s))
@[simp] theorem updCtl_spdm (a0 a1 s) : (updCtl a0 a1 s).spdm = s.spdm := updCtl_keeps (g := .spdm) rfl a0 a1 s (.refl _ s)
@[simp] theorem updCtl_test (a0 a1 s) : (updCtl a0 a1 s).test = s.test := updCtl_keeps (g := .test) rfl a0 a1 s (.refl _ s)
@[simp] theorem updCtl_hosts (a0 a1 s) : (updCtl a0 a1 s).hosts = s.hosts := updCtl_keeps (g := .hosts) rfl a0 a1 s (.refl _ s)
@[simp] theorem updCtl_tide (a0 a1 s) : (updCtl a0 a1 s).tide = s.tide := updCtl_keeps (g := .tide) rfl a0 a1 s (.refl _ s)
@[simp] theorem updCtl_mills (a0 a1 s) : (updCtl a0 a1 s).mills = s.mills := updCtl_keeps (g := .mills) rfl a0 a1 s (.refl _ s)
@[simp] theorem updCtl_shoal (a0 a1 s) : (updCtl a0 a1 s).shoal = s.shoal := shoal_eq (updCtl_keeps (g := .shoal) rfl a0 a1 s (.refl _ s)) (updCtl_keeps (g := .slots) rfl a0 a1 s (.refl _ s))
@[simp] theorem updCtl_attn (a0 a1 s) : (updCtl a0 a1 s).attn = s.attn := updCtl_keeps (g := .attn) rfl a0 a1 s (.refl _ s)
@[simp] theorem updCtl_exch (a0 a1 s) : (updCtl a0 a1 s).exch = s.exch := updCtl_keeps (g := .exch) rfl a0 a1 s (.refl _ s)
@[simp] theorem updCtl_out (a0 a1 s) : (updCtl a0 a1 s).out = s.out := updCtl_keeps (g := .out) rfl a0 a1 s (.refl _ s)
@[simp] theorem updCtl_freeCtr (a0 a1 s) : (updCtl a0 a1 s).freeCtr = s.freeCtr := updCtl_keeps (g := .freeCtr) rfl a0 a1 s (.refl _ s)
@[simp] theorem updCtl_pending (a0 a1 s) : (updCtl a0 a1 s).pending = s.pending := updCtl_keeps (g := .pending) rfl a0 a1 s (.refl _ s)

/-! `toPipe` -/

@[simp] theorem toPipe_boot (a0 s) : (toPipe a0 s).boot = s.boot := toPipe_keeps (g := .boot) rfl a0 s (.refl _ s)
@[simp] theorem toPipe_pins (a0 s) : (toPipe a0 s).pins = s.pins := toPipe_keeps (g := .pins) rfl a0 s (.refl _ s)
@[simp] theorem toPipe_nv (a0 s) : (toPipe a0 s).nv = s.nv := nv_eq (toPipe_keeps (g := .fuses) rfl a0 s (.refl _ s)) (toPipe_keeps (g := .ident) rfl a0 s (.refl _ s)) (toPipe_keeps (g := .nvLog) rfl a0 s (.refl _ s)) (toPipe_keeps (g := .nvStore) rfl a0 s (.refl _ s))
@[simp] theorem toPipe_hw (a0 s) : (toPipe a0 s).hw = s.hw := toPipe_keeps (g := .hw) rfl a0 s (.refl _ s)
@[simp] theorem toPipe_map (a0 s) : (toPipe a0 s).map = s.map := toPipe_keeps (g := .map) rfl a0 s (.refl _ s)
@[simp] theorem toPipe_party (a0 s) : (toPipe a0 s).party = s.party := toPipe_keeps (g := .party) rfl a0 s (.refl _ s)
@[simp] theorem toPipe_net (a0 s) : (toPipe a0 s).net = s.net := net_eq (toPipe_keeps (g := .net) rfl a0 s (.refl _ s)) (toPipe_keeps (g := .links) rfl a0 s (.refl _ s))
@[simp] theorem toPipe_weir_selected (a0 s) : (toPipe a0 s).weir.selected = s.weir.selected := keep_weir_selected (toPipe_keeps (g := .weirCtl) rfl a0 s (.refl _ s))
@[simp] theorem toPipe_store (a0 s) : (toPipe a0 s).store = s.store := store_eq (toPipe_keeps (g := .store) rfl a0 s (.refl _ s)) (toPipe_keeps (g := .bytes) rfl a0 s (.refl _ s))
@[simp] theorem toPipe_flush (a0 s) : (toPipe a0 s).flush = s.flush := toPipe_keeps (g := .flush) rfl a0 s (.refl _ s)
@[simp] theorem toPipe_coh (a0 s) : (toPipe a0 s).coh = s.coh := toPipe_keeps (g := .coh) rfl a0 s (.refl _ s)
@[simp] theorem toPipe_sluice (a0 s) : (toPipe a0 s).sluice = s.sluice := toPipe_keeps (g := .sluice) rfl a0 s (.refl _ s)
@[simp] theorem toPipe_keeper (a0 s) : (toPipe a0 s).keeper = s.keeper := keeper_eq (toPipe_keeps (g := .keepLog) rfl a0 s (.refl _ s)) (toPipe_keeps (g := .keeper) rfl a0 s (.refl _ s))
@[simp] theorem toPipe_spdm (a0 s) : (toPipe a0 s).spdm = s.spdm := toPipe_keeps (g := .spdm) rfl a0 s (.refl _ s)
@[simp] theorem toPipe_test (a0 s) : (toPipe a0 s).test = s.test := toPipe_keeps (g := .test) rfl a0 s (.refl _ s)
@[simp] theorem toPipe_hosts (a0 s) : (toPipe a0 s).hosts = s.hosts := toPipe_keeps (g := .hosts) rfl a0 s (.refl _ s)
@[simp] theorem toPipe_tide (a0 s) : (toPipe a0 s).tide = s.tide := toPipe_keeps (g := .tide) rfl a0 s (.refl _ s)
@[simp] theorem toPipe_rill (a0 s) : (toPipe a0 s).rill = s.rill := rill_eq (toPipe_keeps (g := .rill) rfl a0 s (.refl _ s)) (toPipe_keeps (g := .rillTable) rfl a0 s (.refl _ s))
@[simp] theorem toPipe_mills (a0 s) : (toPipe a0 s).mills = s.mills := toPipe_keeps (g := .mills) rfl a0 s (.refl _ s)
@[simp] theorem toPipe_shoal (a0 s) : (toPipe a0 s).shoal = s.shoal := shoal_eq (toPipe_keeps (g := .shoal) rfl a0 s (.refl _ s)) (toPipe_keeps (g := .slots) rfl a0 s (.refl _ s))
@[simp] theorem toPipe_attn (a0 s) : (toPipe a0 s).attn = s.attn := toPipe_keeps (g := .attn) rfl a0 s (.refl _ s)
@[simp] theorem toPipe_exch (a0 s) : (toPipe a0 s).exch = s.exch := toPipe_keeps (g := .exch) rfl a0 s (.refl _ s)
@[simp] theorem toPipe_out (a0 s) : (toPipe a0 s).out = s.out := toPipe_keeps (g := .out) rfl a0 s (.refl _ s)
@[simp] theorem toPipe_freeCtr (a0 s) : (toPipe a0 s).freeCtr = s.freeCtr := toPipe_keeps (g := .freeCtr) rfl a0 s (.refl _ s)
@[simp] theorem toPipe_pending (a0 s) : (toPipe a0 s).pending = s.pending := toPipe_keeps (g := .pending) rfl a0 s (.refl _ s)

/-! `updRun` -/

@[simp] theorem updRun_boot (a0 a1 a2 s) : (updRun a0 a1 a2 s).boot = s.boot := updRun_keeps (g := .boot) rfl a0 a1 a2 s (.refl _ s)
@[simp] theorem updRun_pins (a0 a1 a2 s) : (updRun a0 a1 a2 s).pins = s.pins := updRun_keeps (g := .pins) rfl a0 a1 a2 s (.refl _ s)
@[simp] theorem updRun_nv (a0 a1 a2 s) : (updRun a0 a1 a2 s).nv = s.nv := nv_eq (updRun_keeps (g := .fuses) rfl a0 a1 a2 s (.refl _ s)) (updRun_keeps (g := .ident) rfl a0 a1 a2 s (.refl _ s)) (updRun_keeps (g := .nvLog) rfl a0 a1 a2 s (.refl _ s)) (updRun_keeps (g := .nvStore) rfl a0 a1 a2 s (.refl _ s))
@[simp] theorem updRun_hw (a0 a1 a2 s) : (updRun a0 a1 a2 s).hw = s.hw := updRun_keeps (g := .hw) rfl a0 a1 a2 s (.refl _ s)
@[simp] theorem updRun_map (a0 a1 a2 s) : (updRun a0 a1 a2 s).map = s.map := updRun_keeps (g := .map) rfl a0 a1 a2 s (.refl _ s)
@[simp] theorem updRun_party (a0 a1 a2 s) : (updRun a0 a1 a2 s).party = s.party := updRun_keeps (g := .party) rfl a0 a1 a2 s (.refl _ s)
@[simp] theorem updRun_net (a0 a1 a2 s) : (updRun a0 a1 a2 s).net = s.net := net_eq (updRun_keeps (g := .net) rfl a0 a1 a2 s (.refl _ s)) (updRun_keeps (g := .links) rfl a0 a1 a2 s (.refl _ s))
@[simp] theorem updRun_weir (a0 a1 a2 s) : (updRun a0 a1 a2 s).weir = s.weir := weir_eq (updRun_keeps (g := .weirCtl) rfl a0 a1 a2 s (.refl _ s)) (updRun_keeps (g := .weirQ) rfl a0 a1 a2 s (.refl _ s))
@[simp] theorem updRun_store (a0 a1 a2 s) : (updRun a0 a1 a2 s).store = s.store := store_eq (updRun_keeps (g := .store) rfl a0 a1 a2 s (.refl _ s)) (updRun_keeps (g := .bytes) rfl a0 a1 a2 s (.refl _ s))
@[simp] theorem updRun_flush (a0 a1 a2 s) : (updRun a0 a1 a2 s).flush = s.flush := updRun_keeps (g := .flush) rfl a0 a1 a2 s (.refl _ s)
@[simp] theorem updRun_coh (a0 a1 a2 s) : (updRun a0 a1 a2 s).coh = s.coh := updRun_keeps (g := .coh) rfl a0 a1 a2 s (.refl _ s)
@[simp] theorem updRun_sluice (a0 a1 a2 s) : (updRun a0 a1 a2 s).sluice = s.sluice := updRun_keeps (g := .sluice) rfl a0 a1 a2 s (.refl _ s)
@[simp] theorem updRun_keeper (a0 a1 a2 s) : (updRun a0 a1 a2 s).keeper = s.keeper := keeper_eq (updRun_keeps (g := .keepLog) rfl a0 a1 a2 s (.refl _ s)) (updRun_keeps (g := .keeper) rfl a0 a1 a2 s (.refl _ s))
@[simp] theorem updRun_spdm (a0 a1 a2 s) : (updRun a0 a1 a2 s).spdm = s.spdm := updRun_keeps (g := .spdm) rfl a0 a1 a2 s (.refl _ s)
@[simp] theorem updRun_test (a0 a1 a2 s) : (updRun a0 a1 a2 s).test = s.test := updRun_keeps (g := .test) rfl a0 a1 a2 s (.refl _ s)
@[simp] theorem updRun_hosts (a0 a1 a2 s) : (updRun a0 a1 a2 s).hosts = s.hosts := updRun_keeps (g := .hosts) rfl a0 a1 a2 s (.refl _ s)
@[simp] theorem updRun_tide (a0 a1 a2 s) : (updRun a0 a1 a2 s).tide = s.tide := updRun_keeps (g := .tide) rfl a0 a1 a2 s (.refl _ s)
@[simp] theorem updRun_rill (a0 a1 a2 s) : (updRun a0 a1 a2 s).rill = s.rill := rill_eq (updRun_keeps (g := .rill) rfl a0 a1 a2 s (.refl _ s)) (updRun_keeps (g := .rillTable) rfl a0 a1 a2 s (.refl _ s))
@[simp] theorem updRun_mills (a0 a1 a2 s) : (updRun a0 a1 a2 s).mills = s.mills := updRun_keeps (g := .mills) rfl a0 a1 a2 s (.refl _ s)
@[simp] theorem updRun_shoal (a0 a1 a2 s) : (updRun a0 a1 a2 s).shoal = s.shoal := shoal_eq (updRun_keeps (g := .shoal) rfl a0 a1 a2 s (.refl _ s)) (updRun_keeps (g := .slots) rfl a0 a1 a2 s (.refl _ s))
@[simp] theorem updRun_attn (a0 a1 a2 s) : (updRun a0 a1 a2 s).attn = s.attn := updRun_keeps (g := .attn) rfl a0 a1 a2 s (.refl _ s)
@[simp] theorem updRun_out (a0 a1 a2 s) : (updRun a0 a1 a2 s).out = s.out := updRun_keeps (g := .out) rfl a0 a1 a2 s (.refl _ s)
@[simp] theorem updRun_freeCtr (a0 a1 a2 s) : (updRun a0 a1 a2 s).freeCtr = s.freeCtr := updRun_keeps (g := .freeCtr) rfl a0 a1 a2 s (.refl _ s)
@[simp] theorem updRun_pending (a0 a1 a2 s) : (updRun a0 a1 a2 s).pending = s.pending := updRun_keeps (g := .pending) rfl a0 a1 a2 s (.refl _ s)

/-! `updPiece` -/

@[simp] theorem updPiece_boot (a0 a1 a2 a3 s) : (updPiece a0 a1 a2 a3 s).boot = s.boot := updPiece_keeps (g := .boot) rfl a0 a1 a2 a3 s (.refl _ s)
@[simp] theorem updPiece_pins (a0 a1 a2 a3 s) : (updPiece a0 a1 a2 a3 s).pins = s.pins := updPiece_keeps (g := .pins) rfl a0 a1 a2 a3 s (.refl _ s)
@[simp] theorem updPiece_nv (a0 a1 a2 a3 s) : (updPiece a0 a1 a2 a3 s).nv = s.nv := nv_eq (updPiece_keeps (g := .fuses) rfl a0 a1 a2 a3 s (.refl _ s)) (updPiece_keeps (g := .ident) rfl a0 a1 a2 a3 s (.refl _ s)) (updPiece_keeps (g := .nvLog) rfl a0 a1 a2 a3 s (.refl _ s)) (updPiece_keeps (g := .nvStore) rfl a0 a1 a2 a3 s (.refl _ s))
@[simp] theorem updPiece_hw (a0 a1 a2 a3 s) : (updPiece a0 a1 a2 a3 s).hw = s.hw := updPiece_keeps (g := .hw) rfl a0 a1 a2 a3 s (.refl _ s)
@[simp] theorem updPiece_map (a0 a1 a2 a3 s) : (updPiece a0 a1 a2 a3 s).map = s.map := updPiece_keeps (g := .map) rfl a0 a1 a2 a3 s (.refl _ s)
@[simp] theorem updPiece_party (a0 a1 a2 a3 s) : (updPiece a0 a1 a2 a3 s).party = s.party := updPiece_keeps (g := .party) rfl a0 a1 a2 a3 s (.refl _ s)
@[simp] theorem updPiece_net (a0 a1 a2 a3 s) : (updPiece a0 a1 a2 a3 s).net = s.net := net_eq (updPiece_keeps (g := .net) rfl a0 a1 a2 a3 s (.refl _ s)) (updPiece_keeps (g := .links) rfl a0 a1 a2 a3 s (.refl _ s))
@[simp] theorem updPiece_weir (a0 a1 a2 a3 s) : (updPiece a0 a1 a2 a3 s).weir = s.weir := weir_eq (updPiece_keeps (g := .weirCtl) rfl a0 a1 a2 a3 s (.refl _ s)) (updPiece_keeps (g := .weirQ) rfl a0 a1 a2 a3 s (.refl _ s))
@[simp] theorem updPiece_store (a0 a1 a2 a3 s) : (updPiece a0 a1 a2 a3 s).store = s.store := store_eq (updPiece_keeps (g := .store) rfl a0 a1 a2 a3 s (.refl _ s)) (updPiece_keeps (g := .bytes) rfl a0 a1 a2 a3 s (.refl _ s))
@[simp] theorem updPiece_flush (a0 a1 a2 a3 s) : (updPiece a0 a1 a2 a3 s).flush = s.flush := updPiece_keeps (g := .flush) rfl a0 a1 a2 a3 s (.refl _ s)
@[simp] theorem updPiece_coh (a0 a1 a2 a3 s) : (updPiece a0 a1 a2 a3 s).coh = s.coh := updPiece_keeps (g := .coh) rfl a0 a1 a2 a3 s (.refl _ s)
@[simp] theorem updPiece_sluice (a0 a1 a2 a3 s) : (updPiece a0 a1 a2 a3 s).sluice = s.sluice := updPiece_keeps (g := .sluice) rfl a0 a1 a2 a3 s (.refl _ s)
@[simp] theorem updPiece_keeper (a0 a1 a2 a3 s) : (updPiece a0 a1 a2 a3 s).keeper = s.keeper := keeper_eq (updPiece_keeps (g := .keepLog) rfl a0 a1 a2 a3 s (.refl _ s)) (updPiece_keeps (g := .keeper) rfl a0 a1 a2 a3 s (.refl _ s))
@[simp] theorem updPiece_spdm (a0 a1 a2 a3 s) : (updPiece a0 a1 a2 a3 s).spdm = s.spdm := updPiece_keeps (g := .spdm) rfl a0 a1 a2 a3 s (.refl _ s)
@[simp] theorem updPiece_test (a0 a1 a2 a3 s) : (updPiece a0 a1 a2 a3 s).test = s.test := updPiece_keeps (g := .test) rfl a0 a1 a2 a3 s (.refl _ s)
@[simp] theorem updPiece_hosts (a0 a1 a2 a3 s) : (updPiece a0 a1 a2 a3 s).hosts = s.hosts := updPiece_keeps (g := .hosts) rfl a0 a1 a2 a3 s (.refl _ s)
@[simp] theorem updPiece_tide (a0 a1 a2 a3 s) : (updPiece a0 a1 a2 a3 s).tide = s.tide := updPiece_keeps (g := .tide) rfl a0 a1 a2 a3 s (.refl _ s)
@[simp] theorem updPiece_rill (a0 a1 a2 a3 s) : (updPiece a0 a1 a2 a3 s).rill = s.rill := rill_eq (updPiece_keeps (g := .rill) rfl a0 a1 a2 a3 s (.refl _ s)) (updPiece_keeps (g := .rillTable) rfl a0 a1 a2 a3 s (.refl _ s))
@[simp] theorem updPiece_mills (a0 a1 a2 a3 s) : (updPiece a0 a1 a2 a3 s).mills = s.mills := updPiece_keeps (g := .mills) rfl a0 a1 a2 a3 s (.refl _ s)
@[simp] theorem updPiece_shoal (a0 a1 a2 a3 s) : (updPiece a0 a1 a2 a3 s).shoal = s.shoal := shoal_eq (updPiece_keeps (g := .shoal) rfl a0 a1 a2 a3 s (.refl _ s)) (updPiece_keeps (g := .slots) rfl a0 a1 a2 a3 s (.refl _ s))
@[simp] theorem updPiece_attn (a0 a1 a2 a3 s) : (updPiece a0 a1 a2 a3 s).attn = s.attn := updPiece_keeps (g := .attn) rfl a0 a1 a2 a3 s (.refl _ s)
@[simp] theorem updPiece_out (a0 a1 a2 a3 s) : (updPiece a0 a1 a2 a3 s).out = s.out := updPiece_keeps (g := .out) rfl a0 a1 a2 a3 s (.refl _ s)
@[simp] theorem updPiece_freeCtr (a0 a1 a2 a3 s) : (updPiece a0 a1 a2 a3 s).freeCtr = s.freeCtr := updPiece_keeps (g := .freeCtr) rfl a0 a1 a2 a3 s (.refl _ s)
@[simp] theorem updPiece_pending (a0 a1 a2 a3 s) : (updPiece a0 a1 a2 a3 s).pending = s.pending := updPiece_keeps (g := .pending) rfl a0 a1 a2 a3 s (.refl _ s)

/-! `updPosted` -/

@[simp] theorem updPosted_boot (a0 a1 s) : (updPosted a0 a1 s).boot = s.boot := updPosted_keeps (g := .boot) rfl a0 a1 s (.refl _ s)
@[simp] theorem updPosted_pins (a0 a1 s) : (updPosted a0 a1 s).pins = s.pins := updPosted_keeps (g := .pins) rfl a0 a1 s (.refl _ s)
@[simp] theorem updPosted_nv (a0 a1 s) : (updPosted a0 a1 s).nv = s.nv := nv_eq (updPosted_keeps (g := .fuses) rfl a0 a1 s (.refl _ s)) (updPosted_keeps (g := .ident) rfl a0 a1 s (.refl _ s)) (updPosted_keeps (g := .nvLog) rfl a0 a1 s (.refl _ s)) (updPosted_keeps (g := .nvStore) rfl a0 a1 s (.refl _ s))
@[simp] theorem updPosted_hw (a0 a1 s) : (updPosted a0 a1 s).hw = s.hw := updPosted_keeps (g := .hw) rfl a0 a1 s (.refl _ s)
@[simp] theorem updPosted_map (a0 a1 s) : (updPosted a0 a1 s).map = s.map := updPosted_keeps (g := .map) rfl a0 a1 s (.refl _ s)
@[simp] theorem updPosted_party (a0 a1 s) : (updPosted a0 a1 s).party = s.party := updPosted_keeps (g := .party) rfl a0 a1 s (.refl _ s)
@[simp] theorem updPosted_net (a0 a1 s) : (updPosted a0 a1 s).net = s.net := net_eq (updPosted_keeps (g := .net) rfl a0 a1 s (.refl _ s)) (updPosted_keeps (g := .links) rfl a0 a1 s (.refl _ s))
@[simp] theorem updPosted_weir (a0 a1 s) : (updPosted a0 a1 s).weir = s.weir := weir_eq (updPosted_keeps (g := .weirCtl) rfl a0 a1 s (.refl _ s)) (updPosted_keeps (g := .weirQ) rfl a0 a1 s (.refl _ s))
@[simp] theorem updPosted_store (a0 a1 s) : (updPosted a0 a1 s).store = s.store := store_eq (updPosted_keeps (g := .store) rfl a0 a1 s (.refl _ s)) (updPosted_keeps (g := .bytes) rfl a0 a1 s (.refl _ s))
@[simp] theorem updPosted_flush (a0 a1 s) : (updPosted a0 a1 s).flush = s.flush := updPosted_keeps (g := .flush) rfl a0 a1 s (.refl _ s)
@[simp] theorem updPosted_coh (a0 a1 s) : (updPosted a0 a1 s).coh = s.coh := updPosted_keeps (g := .coh) rfl a0 a1 s (.refl _ s)
@[simp] theorem updPosted_sluice (a0 a1 s) : (updPosted a0 a1 s).sluice = s.sluice := updPosted_keeps (g := .sluice) rfl a0 a1 s (.refl _ s)
@[simp] theorem updPosted_keeper (a0 a1 s) : (updPosted a0 a1 s).keeper = s.keeper := keeper_eq (updPosted_keeps (g := .keepLog) rfl a0 a1 s (.refl _ s)) (updPosted_keeps (g := .keeper) rfl a0 a1 s (.refl _ s))
@[simp] theorem updPosted_spdm (a0 a1 s) : (updPosted a0 a1 s).spdm = s.spdm := updPosted_keeps (g := .spdm) rfl a0 a1 s (.refl _ s)
@[simp] theorem updPosted_test (a0 a1 s) : (updPosted a0 a1 s).test = s.test := updPosted_keeps (g := .test) rfl a0 a1 s (.refl _ s)
@[simp] theorem updPosted_hosts (a0 a1 s) : (updPosted a0 a1 s).hosts = s.hosts := updPosted_keeps (g := .hosts) rfl a0 a1 s (.refl _ s)
@[simp] theorem updPosted_tide (a0 a1 s) : (updPosted a0 a1 s).tide = s.tide := updPosted_keeps (g := .tide) rfl a0 a1 s (.refl _ s)
@[simp] theorem updPosted_rill (a0 a1 s) : (updPosted a0 a1 s).rill = s.rill := rill_eq (updPosted_keeps (g := .rill) rfl a0 a1 s (.refl _ s)) (updPosted_keeps (g := .rillTable) rfl a0 a1 s (.refl _ s))
@[simp] theorem updPosted_mills (a0 a1 s) : (updPosted a0 a1 s).mills = s.mills := updPosted_keeps (g := .mills) rfl a0 a1 s (.refl _ s)
@[simp] theorem updPosted_shoal (a0 a1 s) : (updPosted a0 a1 s).shoal = s.shoal := shoal_eq (updPosted_keeps (g := .shoal) rfl a0 a1 s (.refl _ s)) (updPosted_keeps (g := .slots) rfl a0 a1 s (.refl _ s))
@[simp] theorem updPosted_attn (a0 a1 s) : (updPosted a0 a1 s).attn = s.attn := updPosted_keeps (g := .attn) rfl a0 a1 s (.refl _ s)
@[simp] theorem updPosted_out (a0 a1 s) : (updPosted a0 a1 s).out = s.out := updPosted_keeps (g := .out) rfl a0 a1 s (.refl _ s)
@[simp] theorem updPosted_freeCtr (a0 a1 s) : (updPosted a0 a1 s).freeCtr = s.freeCtr := updPosted_keeps (g := .freeCtr) rfl a0 a1 s (.refl _ s)
@[simp] theorem updPosted_pending (a0 a1 s) : (updPosted a0 a1 s).pending = s.pending := updPosted_keeps (g := .pending) rfl a0 a1 s (.refl _ s)

/-! `logMirror` -/

@[simp] theorem logMirror_boot (a0 a1 a2 a3 s) : (logMirror a0 a1 a2 a3 s).boot = s.boot := logMirror_keeps (g := .boot) rfl a0 a1 a2 a3 s (.refl _ s)
@[simp] theorem logMirror_pins (a0 a1 a2 a3 s) : (logMirror a0 a1 a2 a3 s).pins = s.pins := logMirror_keeps (g := .pins) rfl a0 a1 a2 a3 s (.refl _ s)
@[simp] theorem logMirror_nv (a0 a1 a2 a3 s) : (logMirror a0 a1 a2 a3 s).nv = s.nv := nv_eq (logMirror_keeps (g := .fuses) rfl a0 a1 a2 a3 s (.refl _ s)) (logMirror_keeps (g := .ident) rfl a0 a1 a2 a3 s (.refl _ s)) (logMirror_keeps (g := .nvLog) rfl a0 a1 a2 a3 s (.refl _ s)) (logMirror_keeps (g := .nvStore) rfl a0 a1 a2 a3 s (.refl _ s))
@[simp] theorem logMirror_hw (a0 a1 a2 a3 s) : (logMirror a0 a1 a2 a3 s).hw = s.hw := logMirror_keeps (g := .hw) rfl a0 a1 a2 a3 s (.refl _ s)
@[simp] theorem logMirror_map (a0 a1 a2 a3 s) : (logMirror a0 a1 a2 a3 s).map = s.map := logMirror_keeps (g := .map) rfl a0 a1 a2 a3 s (.refl _ s)
@[simp] theorem logMirror_party (a0 a1 a2 a3 s) : (logMirror a0 a1 a2 a3 s).party = s.party := logMirror_keeps (g := .party) rfl a0 a1 a2 a3 s (.refl _ s)
@[simp] theorem logMirror_net (a0 a1 a2 a3 s) : (logMirror a0 a1 a2 a3 s).net = s.net := net_eq (logMirror_keeps (g := .net) rfl a0 a1 a2 a3 s (.refl _ s)) (logMirror_keeps (g := .links) rfl a0 a1 a2 a3 s (.refl _ s))
@[simp] theorem logMirror_weir (a0 a1 a2 a3 s) : (logMirror a0 a1 a2 a3 s).weir = s.weir := weir_eq (logMirror_keeps (g := .weirCtl) rfl a0 a1 a2 a3 s (.refl _ s)) (logMirror_keeps (g := .weirQ) rfl a0 a1 a2 a3 s (.refl _ s))
@[simp] theorem logMirror_store (a0 a1 a2 a3 s) : (logMirror a0 a1 a2 a3 s).store = s.store := store_eq (logMirror_keeps (g := .store) rfl a0 a1 a2 a3 s (.refl _ s)) (logMirror_keeps (g := .bytes) rfl a0 a1 a2 a3 s (.refl _ s))
@[simp] theorem logMirror_flush (a0 a1 a2 a3 s) : (logMirror a0 a1 a2 a3 s).flush = s.flush := logMirror_keeps (g := .flush) rfl a0 a1 a2 a3 s (.refl _ s)
@[simp] theorem logMirror_coh (a0 a1 a2 a3 s) : (logMirror a0 a1 a2 a3 s).coh = s.coh := logMirror_keeps (g := .coh) rfl a0 a1 a2 a3 s (.refl _ s)
@[simp] theorem logMirror_sluice (a0 a1 a2 a3 s) : (logMirror a0 a1 a2 a3 s).sluice = s.sluice := logMirror_keeps (g := .sluice) rfl a0 a1 a2 a3 s (.refl _ s)
@[simp] theorem logMirror_keeper_gravSamples (a0 a1 a2 a3 s) : (logMirror a0 a1 a2 a3 s).keeper.gravSamples = s.keeper.gravSamples := keep_keeper_gravSamples (logMirror_keeps (g := .keeper) rfl a0 a1 a2 a3 s (.refl _ s))
@[simp] theorem logMirror_keeper_shockRun (a0 a1 a2 a3 s) : (logMirror a0 a1 a2 a3 s).keeper.shockRun = s.keeper.shockRun := keep_keeper_shockRun (logMirror_keeps (g := .keeper) rfl a0 a1 a2 a3 s (.refl _ s))
@[simp] theorem logMirror_keeper_shockPeak (a0 a1 a2 a3 s) : (logMirror a0 a1 a2 a3 s).keeper.shockPeak = s.keeper.shockPeak := keep_keeper_shockPeak (logMirror_keeps (g := .keeper) rfl a0 a1 a2 a3 s (.refl _ s))
@[simp] theorem logMirror_keeper_shockAxes (a0 a1 a2 a3 s) : (logMirror a0 a1 a2 a3 s).keeper.shockAxes = s.keeper.shockAxes := keep_keeper_shockAxes (logMirror_keeps (g := .keeper) rfl a0 a1 a2 a3 s (.refl _ s))
@[simp] theorem logMirror_keeper_shockOver (a0 a1 a2 a3 s) : (logMirror a0 a1 a2 a3 s).keeper.shockOver = s.keeper.shockOver := keep_keeper_shockOver (logMirror_keeps (g := .keeper) rfl a0 a1 a2 a3 s (.refl _ s))
@[simp] theorem logMirror_keeper_shockHold (a0 a1 a2 a3 s) : (logMirror a0 a1 a2 a3 s).keeper.shockHold = s.keeper.shockHold := keep_keeper_shockHold (logMirror_keeps (g := .keeper) rfl a0 a1 a2 a3 s (.refl _ s))
@[simp] theorem logMirror_keeper_transfer (a0 a1 a2 a3 s) : (logMirror a0 a1 a2 a3 s).keeper.transfer = s.keeper.transfer := keep_keeper_transfer (logMirror_keeps (g := .keeper) rfl a0 a1 a2 a3 s (.refl _ s))
@[simp] theorem logMirror_keeper_deferred (a0 a1 a2 a3 s) : (logMirror a0 a1 a2 a3 s).keeper.deferred = s.keeper.deferred := keep_keeper_deferred (logMirror_keeps (g := .keeper) rfl a0 a1 a2 a3 s (.refl _ s))
@[simp] theorem logMirror_keeper_rebootCause (a0 a1 a2 a3 s) : (logMirror a0 a1 a2 a3 s).keeper.rebootCause = s.keeper.rebootCause := keep_keeper_rebootCause (logMirror_keeps (g := .keeper) rfl a0 a1 a2 a3 s (.refl _ s))
@[simp] theorem logMirror_keeper_reachDrops (a0 a1 a2 a3 s) : (logMirror a0 a1 a2 a3 s).keeper.reachDrops = s.keeper.reachDrops := keep_keeper_reachDrops (logMirror_keeps (g := .keeper) rfl a0 a1 a2 a3 s (.refl _ s))
@[simp] theorem logMirror_spdm (a0 a1 a2 a3 s) : (logMirror a0 a1 a2 a3 s).spdm = s.spdm := logMirror_keeps (g := .spdm) rfl a0 a1 a2 a3 s (.refl _ s)
@[simp] theorem logMirror_test (a0 a1 a2 a3 s) : (logMirror a0 a1 a2 a3 s).test = s.test := logMirror_keeps (g := .test) rfl a0 a1 a2 a3 s (.refl _ s)
@[simp] theorem logMirror_hosts (a0 a1 a2 a3 s) : (logMirror a0 a1 a2 a3 s).hosts = s.hosts := logMirror_keeps (g := .hosts) rfl a0 a1 a2 a3 s (.refl _ s)
@[simp] theorem logMirror_tide (a0 a1 a2 a3 s) : (logMirror a0 a1 a2 a3 s).tide = s.tide := logMirror_keeps (g := .tide) rfl a0 a1 a2 a3 s (.refl _ s)
@[simp] theorem logMirror_rill (a0 a1 a2 a3 s) : (logMirror a0 a1 a2 a3 s).rill = s.rill := rill_eq (logMirror_keeps (g := .rill) rfl a0 a1 a2 a3 s (.refl _ s)) (logMirror_keeps (g := .rillTable) rfl a0 a1 a2 a3 s (.refl _ s))
@[simp] theorem logMirror_mills (a0 a1 a2 a3 s) : (logMirror a0 a1 a2 a3 s).mills = s.mills := logMirror_keeps (g := .mills) rfl a0 a1 a2 a3 s (.refl _ s)
@[simp] theorem logMirror_shoal (a0 a1 a2 a3 s) : (logMirror a0 a1 a2 a3 s).shoal = s.shoal := shoal_eq (logMirror_keeps (g := .shoal) rfl a0 a1 a2 a3 s (.refl _ s)) (logMirror_keeps (g := .slots) rfl a0 a1 a2 a3 s (.refl _ s))
@[simp] theorem logMirror_attn (a0 a1 a2 a3 s) : (logMirror a0 a1 a2 a3 s).attn = s.attn := logMirror_keeps (g := .attn) rfl a0 a1 a2 a3 s (.refl _ s)
@[simp] theorem logMirror_exch (a0 a1 a2 a3 s) : (logMirror a0 a1 a2 a3 s).exch = s.exch := logMirror_keeps (g := .exch) rfl a0 a1 a2 a3 s (.refl _ s)
@[simp] theorem logMirror_out (a0 a1 a2 a3 s) : (logMirror a0 a1 a2 a3 s).out = s.out := logMirror_keeps (g := .out) rfl a0 a1 a2 a3 s (.refl _ s)
@[simp] theorem logMirror_freeCtr (a0 a1 a2 a3 s) : (logMirror a0 a1 a2 a3 s).freeCtr = s.freeCtr := logMirror_keeps (g := .freeCtr) rfl a0 a1 a2 a3 s (.refl _ s)
@[simp] theorem logMirror_pending (a0 a1 a2 a3 s) : (logMirror a0 a1 a2 a3 s).pending = s.pending := logMirror_keeps (g := .pending) rfl a0 a1 a2 a3 s (.refl _ s)

/-! `logLost` -/

@[simp] theorem logLost_boot (a0 a1 a2 s) : (logLost a0 a1 a2 s).boot = s.boot := logLost_keeps (g := .boot) rfl a0 a1 a2 s (.refl _ s)
@[simp] theorem logLost_pins (a0 a1 a2 s) : (logLost a0 a1 a2 s).pins = s.pins := logLost_keeps (g := .pins) rfl a0 a1 a2 s (.refl _ s)
@[simp] theorem logLost_nv (a0 a1 a2 s) : (logLost a0 a1 a2 s).nv = s.nv := nv_eq (logLost_keeps (g := .fuses) rfl a0 a1 a2 s (.refl _ s)) (logLost_keeps (g := .ident) rfl a0 a1 a2 s (.refl _ s)) (logLost_keeps (g := .nvLog) rfl a0 a1 a2 s (.refl _ s)) (logLost_keeps (g := .nvStore) rfl a0 a1 a2 s (.refl _ s))
@[simp] theorem logLost_hw (a0 a1 a2 s) : (logLost a0 a1 a2 s).hw = s.hw := logLost_keeps (g := .hw) rfl a0 a1 a2 s (.refl _ s)
@[simp] theorem logLost_map (a0 a1 a2 s) : (logLost a0 a1 a2 s).map = s.map := logLost_keeps (g := .map) rfl a0 a1 a2 s (.refl _ s)
@[simp] theorem logLost_party (a0 a1 a2 s) : (logLost a0 a1 a2 s).party = s.party := logLost_keeps (g := .party) rfl a0 a1 a2 s (.refl _ s)
@[simp] theorem logLost_net (a0 a1 a2 s) : (logLost a0 a1 a2 s).net = s.net := net_eq (logLost_keeps (g := .net) rfl a0 a1 a2 s (.refl _ s)) (logLost_keeps (g := .links) rfl a0 a1 a2 s (.refl _ s))
@[simp] theorem logLost_weir (a0 a1 a2 s) : (logLost a0 a1 a2 s).weir = s.weir := weir_eq (logLost_keeps (g := .weirCtl) rfl a0 a1 a2 s (.refl _ s)) (logLost_keeps (g := .weirQ) rfl a0 a1 a2 s (.refl _ s))
@[simp] theorem logLost_store (a0 a1 a2 s) : (logLost a0 a1 a2 s).store = s.store := store_eq (logLost_keeps (g := .store) rfl a0 a1 a2 s (.refl _ s)) (logLost_keeps (g := .bytes) rfl a0 a1 a2 s (.refl _ s))
@[simp] theorem logLost_flush (a0 a1 a2 s) : (logLost a0 a1 a2 s).flush = s.flush := logLost_keeps (g := .flush) rfl a0 a1 a2 s (.refl _ s)
@[simp] theorem logLost_coh (a0 a1 a2 s) : (logLost a0 a1 a2 s).coh = s.coh := logLost_keeps (g := .coh) rfl a0 a1 a2 s (.refl _ s)
@[simp] theorem logLost_sluice (a0 a1 a2 s) : (logLost a0 a1 a2 s).sluice = s.sluice := logLost_keeps (g := .sluice) rfl a0 a1 a2 s (.refl _ s)
@[simp] theorem logLost_keeper_gravSamples (a0 a1 a2 s) : (logLost a0 a1 a2 s).keeper.gravSamples = s.keeper.gravSamples := keep_keeper_gravSamples (logLost_keeps (g := .keeper) rfl a0 a1 a2 s (.refl _ s))
@[simp] theorem logLost_keeper_shockRun (a0 a1 a2 s) : (logLost a0 a1 a2 s).keeper.shockRun = s.keeper.shockRun := keep_keeper_shockRun (logLost_keeps (g := .keeper) rfl a0 a1 a2 s (.refl _ s))
@[simp] theorem logLost_keeper_shockPeak (a0 a1 a2 s) : (logLost a0 a1 a2 s).keeper.shockPeak = s.keeper.shockPeak := keep_keeper_shockPeak (logLost_keeps (g := .keeper) rfl a0 a1 a2 s (.refl _ s))
@[simp] theorem logLost_keeper_shockAxes (a0 a1 a2 s) : (logLost a0 a1 a2 s).keeper.shockAxes = s.keeper.shockAxes := keep_keeper_shockAxes (logLost_keeps (g := .keeper) rfl a0 a1 a2 s (.refl _ s))
@[simp] theorem logLost_keeper_shockOver (a0 a1 a2 s) : (logLost a0 a1 a2 s).keeper.shockOver = s.keeper.shockOver := keep_keeper_shockOver (logLost_keeps (g := .keeper) rfl a0 a1 a2 s (.refl _ s))
@[simp] theorem logLost_keeper_shockHold (a0 a1 a2 s) : (logLost a0 a1 a2 s).keeper.shockHold = s.keeper.shockHold := keep_keeper_shockHold (logLost_keeps (g := .keeper) rfl a0 a1 a2 s (.refl _ s))
@[simp] theorem logLost_keeper_transfer (a0 a1 a2 s) : (logLost a0 a1 a2 s).keeper.transfer = s.keeper.transfer := keep_keeper_transfer (logLost_keeps (g := .keeper) rfl a0 a1 a2 s (.refl _ s))
@[simp] theorem logLost_keeper_deferred (a0 a1 a2 s) : (logLost a0 a1 a2 s).keeper.deferred = s.keeper.deferred := keep_keeper_deferred (logLost_keeps (g := .keeper) rfl a0 a1 a2 s (.refl _ s))
@[simp] theorem logLost_keeper_rebootCause (a0 a1 a2 s) : (logLost a0 a1 a2 s).keeper.rebootCause = s.keeper.rebootCause := keep_keeper_rebootCause (logLost_keeps (g := .keeper) rfl a0 a1 a2 s (.refl _ s))
@[simp] theorem logLost_keeper_reachDrops (a0 a1 a2 s) : (logLost a0 a1 a2 s).keeper.reachDrops = s.keeper.reachDrops := keep_keeper_reachDrops (logLost_keeps (g := .keeper) rfl a0 a1 a2 s (.refl _ s))
@[simp] theorem logLost_spdm (a0 a1 a2 s) : (logLost a0 a1 a2 s).spdm = s.spdm := logLost_keeps (g := .spdm) rfl a0 a1 a2 s (.refl _ s)
@[simp] theorem logLost_test (a0 a1 a2 s) : (logLost a0 a1 a2 s).test = s.test := logLost_keeps (g := .test) rfl a0 a1 a2 s (.refl _ s)
@[simp] theorem logLost_hosts (a0 a1 a2 s) : (logLost a0 a1 a2 s).hosts = s.hosts := logLost_keeps (g := .hosts) rfl a0 a1 a2 s (.refl _ s)
@[simp] theorem logLost_tide (a0 a1 a2 s) : (logLost a0 a1 a2 s).tide = s.tide := logLost_keeps (g := .tide) rfl a0 a1 a2 s (.refl _ s)
@[simp] theorem logLost_rill (a0 a1 a2 s) : (logLost a0 a1 a2 s).rill = s.rill := rill_eq (logLost_keeps (g := .rill) rfl a0 a1 a2 s (.refl _ s)) (logLost_keeps (g := .rillTable) rfl a0 a1 a2 s (.refl _ s))
@[simp] theorem logLost_mills (a0 a1 a2 s) : (logLost a0 a1 a2 s).mills = s.mills := logLost_keeps (g := .mills) rfl a0 a1 a2 s (.refl _ s)
@[simp] theorem logLost_shoal (a0 a1 a2 s) : (logLost a0 a1 a2 s).shoal = s.shoal := shoal_eq (logLost_keeps (g := .shoal) rfl a0 a1 a2 s (.refl _ s)) (logLost_keeps (g := .slots) rfl a0 a1 a2 s (.refl _ s))
@[simp] theorem logLost_attn (a0 a1 a2 s) : (logLost a0 a1 a2 s).attn = s.attn := logLost_keeps (g := .attn) rfl a0 a1 a2 s (.refl _ s)
@[simp] theorem logLost_exch (a0 a1 a2 s) : (logLost a0 a1 a2 s).exch = s.exch := logLost_keeps (g := .exch) rfl a0 a1 a2 s (.refl _ s)
@[simp] theorem logLost_out (a0 a1 a2 s) : (logLost a0 a1 a2 s).out = s.out := logLost_keeps (g := .out) rfl a0 a1 a2 s (.refl _ s)
@[simp] theorem logLost_freeCtr (a0 a1 a2 s) : (logLost a0 a1 a2 s).freeCtr = s.freeCtr := logLost_keeps (g := .freeCtr) rfl a0 a1 a2 s (.refl _ s)
@[simp] theorem logLost_pending (a0 a1 a2 s) : (logLost a0 a1 a2 s).pending = s.pending := logLost_keeps (g := .pending) rfl a0 a1 a2 s (.refl _ s)

/-! `unpipe` -/

@[simp] theorem unpipe_boot (a0 s) : (unpipe a0 s).boot = s.boot := unpipe_keeps (g := .boot) rfl a0 s (.refl _ s)
@[simp] theorem unpipe_pins (a0 s) : (unpipe a0 s).pins = s.pins := unpipe_keeps (g := .pins) rfl a0 s (.refl _ s)
@[simp] theorem unpipe_nv (a0 s) : (unpipe a0 s).nv = s.nv := nv_eq (unpipe_keeps (g := .fuses) rfl a0 s (.refl _ s)) (unpipe_keeps (g := .ident) rfl a0 s (.refl _ s)) (unpipe_keeps (g := .nvLog) rfl a0 s (.refl _ s)) (unpipe_keeps (g := .nvStore) rfl a0 s (.refl _ s))
@[simp] theorem unpipe_hw (a0 s) : (unpipe a0 s).hw = s.hw := unpipe_keeps (g := .hw) rfl a0 s (.refl _ s)
@[simp] theorem unpipe_map (a0 s) : (unpipe a0 s).map = s.map := unpipe_keeps (g := .map) rfl a0 s (.refl _ s)
@[simp] theorem unpipe_party (a0 s) : (unpipe a0 s).party = s.party := unpipe_keeps (g := .party) rfl a0 s (.refl _ s)
@[simp] theorem unpipe_net (a0 s) : (unpipe a0 s).net = s.net := net_eq (unpipe_keeps (g := .net) rfl a0 s (.refl _ s)) (unpipe_keeps (g := .links) rfl a0 s (.refl _ s))
@[simp] theorem unpipe_weir_selected (a0 s) : (unpipe a0 s).weir.selected = s.weir.selected := keep_weir_selected (unpipe_keeps (g := .weirCtl) rfl a0 s (.refl _ s))
@[simp] theorem unpipe_store (a0 s) : (unpipe a0 s).store = s.store := store_eq (unpipe_keeps (g := .store) rfl a0 s (.refl _ s)) (unpipe_keeps (g := .bytes) rfl a0 s (.refl _ s))
@[simp] theorem unpipe_flush (a0 s) : (unpipe a0 s).flush = s.flush := unpipe_keeps (g := .flush) rfl a0 s (.refl _ s)
@[simp] theorem unpipe_coh (a0 s) : (unpipe a0 s).coh = s.coh := unpipe_keeps (g := .coh) rfl a0 s (.refl _ s)
@[simp] theorem unpipe_sluice (a0 s) : (unpipe a0 s).sluice = s.sluice := unpipe_keeps (g := .sluice) rfl a0 s (.refl _ s)
@[simp] theorem unpipe_keeper (a0 s) : (unpipe a0 s).keeper = s.keeper := keeper_eq (unpipe_keeps (g := .keepLog) rfl a0 s (.refl _ s)) (unpipe_keeps (g := .keeper) rfl a0 s (.refl _ s))
@[simp] theorem unpipe_spdm (a0 s) : (unpipe a0 s).spdm = s.spdm := unpipe_keeps (g := .spdm) rfl a0 s (.refl _ s)
@[simp] theorem unpipe_test (a0 s) : (unpipe a0 s).test = s.test := unpipe_keeps (g := .test) rfl a0 s (.refl _ s)
@[simp] theorem unpipe_hosts (a0 s) : (unpipe a0 s).hosts = s.hosts := unpipe_keeps (g := .hosts) rfl a0 s (.refl _ s)
@[simp] theorem unpipe_tide (a0 s) : (unpipe a0 s).tide = s.tide := unpipe_keeps (g := .tide) rfl a0 s (.refl _ s)
@[simp] theorem unpipe_rill (a0 s) : (unpipe a0 s).rill = s.rill := rill_eq (unpipe_keeps (g := .rill) rfl a0 s (.refl _ s)) (unpipe_keeps (g := .rillTable) rfl a0 s (.refl _ s))
@[simp] theorem unpipe_mills (a0 s) : (unpipe a0 s).mills = s.mills := unpipe_keeps (g := .mills) rfl a0 s (.refl _ s)
@[simp] theorem unpipe_shoal (a0 s) : (unpipe a0 s).shoal = s.shoal := shoal_eq (unpipe_keeps (g := .shoal) rfl a0 s (.refl _ s)) (unpipe_keeps (g := .slots) rfl a0 s (.refl _ s))
@[simp] theorem unpipe_attn (a0 s) : (unpipe a0 s).attn = s.attn := unpipe_keeps (g := .attn) rfl a0 s (.refl _ s)
@[simp] theorem unpipe_exch (a0 s) : (unpipe a0 s).exch = s.exch := unpipe_keeps (g := .exch) rfl a0 s (.refl _ s)
@[simp] theorem unpipe_out (a0 s) : (unpipe a0 s).out = s.out := unpipe_keeps (g := .out) rfl a0 s (.refl _ s)
@[simp] theorem unpipe_freeCtr (a0 s) : (unpipe a0 s).freeCtr = s.freeCtr := unpipe_keeps (g := .freeCtr) rfl a0 s (.refl _ s)
@[simp] theorem unpipe_pending (a0 s) : (unpipe a0 s).pending = s.pending := unpipe_keeps (g := .pending) rfl a0 s (.refl _ s)

/-! `updSpdm` -/

@[simp] theorem updSpdm_boot (a0 a1 s) : (updSpdm a0 a1 s).boot = s.boot := updSpdm_keeps (g := .boot) rfl a0 a1 s (.refl _ s)
@[simp] theorem updSpdm_pins (a0 a1 s) : (updSpdm a0 a1 s).pins = s.pins := updSpdm_keeps (g := .pins) rfl a0 a1 s (.refl _ s)
@[simp] theorem updSpdm_nv (a0 a1 s) : (updSpdm a0 a1 s).nv = s.nv := nv_eq (updSpdm_keeps (g := .fuses) rfl a0 a1 s (.refl _ s)) (updSpdm_keeps (g := .ident) rfl a0 a1 s (.refl _ s)) (updSpdm_keeps (g := .nvLog) rfl a0 a1 s (.refl _ s)) (updSpdm_keeps (g := .nvStore) rfl a0 a1 s (.refl _ s))
@[simp] theorem updSpdm_hw (a0 a1 s) : (updSpdm a0 a1 s).hw = s.hw := updSpdm_keeps (g := .hw) rfl a0 a1 s (.refl _ s)
@[simp] theorem updSpdm_map (a0 a1 s) : (updSpdm a0 a1 s).map = s.map := updSpdm_keeps (g := .map) rfl a0 a1 s (.refl _ s)
@[simp] theorem updSpdm_party (a0 a1 s) : (updSpdm a0 a1 s).party = s.party := updSpdm_keeps (g := .party) rfl a0 a1 s (.refl _ s)
@[simp] theorem updSpdm_net (a0 a1 s) : (updSpdm a0 a1 s).net = s.net := net_eq (updSpdm_keeps (g := .net) rfl a0 a1 s (.refl _ s)) (updSpdm_keeps (g := .links) rfl a0 a1 s (.refl _ s))
@[simp] theorem updSpdm_weir (a0 a1 s) : (updSpdm a0 a1 s).weir = s.weir := weir_eq (updSpdm_keeps (g := .weirCtl) rfl a0 a1 s (.refl _ s)) (updSpdm_keeps (g := .weirQ) rfl a0 a1 s (.refl _ s))
@[simp] theorem updSpdm_store (a0 a1 s) : (updSpdm a0 a1 s).store = s.store := store_eq (updSpdm_keeps (g := .store) rfl a0 a1 s (.refl _ s)) (updSpdm_keeps (g := .bytes) rfl a0 a1 s (.refl _ s))
@[simp] theorem updSpdm_flush (a0 a1 s) : (updSpdm a0 a1 s).flush = s.flush := updSpdm_keeps (g := .flush) rfl a0 a1 s (.refl _ s)
@[simp] theorem updSpdm_coh (a0 a1 s) : (updSpdm a0 a1 s).coh = s.coh := updSpdm_keeps (g := .coh) rfl a0 a1 s (.refl _ s)
@[simp] theorem updSpdm_sluice (a0 a1 s) : (updSpdm a0 a1 s).sluice = s.sluice := updSpdm_keeps (g := .sluice) rfl a0 a1 s (.refl _ s)
@[simp] theorem updSpdm_keeper (a0 a1 s) : (updSpdm a0 a1 s).keeper = s.keeper := keeper_eq (updSpdm_keeps (g := .keepLog) rfl a0 a1 s (.refl _ s)) (updSpdm_keeps (g := .keeper) rfl a0 a1 s (.refl _ s))
@[simp] theorem updSpdm_test (a0 a1 s) : (updSpdm a0 a1 s).test = s.test := updSpdm_keeps (g := .test) rfl a0 a1 s (.refl _ s)
@[simp] theorem updSpdm_hosts (a0 a1 s) : (updSpdm a0 a1 s).hosts = s.hosts := updSpdm_keeps (g := .hosts) rfl a0 a1 s (.refl _ s)
@[simp] theorem updSpdm_tide (a0 a1 s) : (updSpdm a0 a1 s).tide = s.tide := updSpdm_keeps (g := .tide) rfl a0 a1 s (.refl _ s)
@[simp] theorem updSpdm_rill (a0 a1 s) : (updSpdm a0 a1 s).rill = s.rill := rill_eq (updSpdm_keeps (g := .rill) rfl a0 a1 s (.refl _ s)) (updSpdm_keeps (g := .rillTable) rfl a0 a1 s (.refl _ s))
@[simp] theorem updSpdm_mills (a0 a1 s) : (updSpdm a0 a1 s).mills = s.mills := updSpdm_keeps (g := .mills) rfl a0 a1 s (.refl _ s)
@[simp] theorem updSpdm_shoal (a0 a1 s) : (updSpdm a0 a1 s).shoal = s.shoal := shoal_eq (updSpdm_keeps (g := .shoal) rfl a0 a1 s (.refl _ s)) (updSpdm_keeps (g := .slots) rfl a0 a1 s (.refl _ s))
@[simp] theorem updSpdm_attn (a0 a1 s) : (updSpdm a0 a1 s).attn = s.attn := updSpdm_keeps (g := .attn) rfl a0 a1 s (.refl _ s)
@[simp] theorem updSpdm_exch (a0 a1 s) : (updSpdm a0 a1 s).exch = s.exch := updSpdm_keeps (g := .exch) rfl a0 a1 s (.refl _ s)
@[simp] theorem updSpdm_out (a0 a1 s) : (updSpdm a0 a1 s).out = s.out := updSpdm_keeps (g := .out) rfl a0 a1 s (.refl _ s)
@[simp] theorem updSpdm_freeCtr (a0 a1 s) : (updSpdm a0 a1 s).freeCtr = s.freeCtr := updSpdm_keeps (g := .freeCtr) rfl a0 a1 s (.refl _ s)
@[simp] theorem updSpdm_pending (a0 a1 s) : (updSpdm a0 a1 s).pending = s.pending := updSpdm_keeps (g := .pending) rfl a0 a1 s (.refl _ s)

/-! `spdmSay` -/

@[simp] theorem spdmSay_boot (a0 a1 a2 s) : (spdmSay a0 a1 a2 s).boot = s.boot := spdmSay_keeps (g := .boot) rfl a0 a1 a2 s (.refl _ s)
@[simp] theorem spdmSay_pins (a0 a1 a2 s) : (spdmSay a0 a1 a2 s).pins = s.pins := spdmSay_keeps (g := .pins) rfl a0 a1 a2 s (.refl _ s)
@[simp] theorem spdmSay_nv (a0 a1 a2 s) : (spdmSay a0 a1 a2 s).nv = s.nv := nv_eq (spdmSay_keeps (g := .fuses) rfl a0 a1 a2 s (.refl _ s)) (spdmSay_keeps (g := .ident) rfl a0 a1 a2 s (.refl _ s)) (spdmSay_keeps (g := .nvLog) rfl a0 a1 a2 s (.refl _ s)) (spdmSay_keeps (g := .nvStore) rfl a0 a1 a2 s (.refl _ s))
@[simp] theorem spdmSay_hw (a0 a1 a2 s) : (spdmSay a0 a1 a2 s).hw = s.hw := spdmSay_keeps (g := .hw) rfl a0 a1 a2 s (.refl _ s)
@[simp] theorem spdmSay_map (a0 a1 a2 s) : (spdmSay a0 a1 a2 s).map = s.map := spdmSay_keeps (g := .map) rfl a0 a1 a2 s (.refl _ s)
@[simp] theorem spdmSay_party (a0 a1 a2 s) : (spdmSay a0 a1 a2 s).party = s.party := spdmSay_keeps (g := .party) rfl a0 a1 a2 s (.refl _ s)
@[simp] theorem spdmSay_net (a0 a1 a2 s) : (spdmSay a0 a1 a2 s).net = s.net := net_eq (spdmSay_keeps (g := .net) rfl a0 a1 a2 s (.refl _ s)) (spdmSay_keeps (g := .links) rfl a0 a1 a2 s (.refl _ s))
@[simp] theorem spdmSay_weir (a0 a1 a2 s) : (spdmSay a0 a1 a2 s).weir = s.weir := weir_eq (spdmSay_keeps (g := .weirCtl) rfl a0 a1 a2 s (.refl _ s)) (spdmSay_keeps (g := .weirQ) rfl a0 a1 a2 s (.refl _ s))
@[simp] theorem spdmSay_store (a0 a1 a2 s) : (spdmSay a0 a1 a2 s).store = s.store := store_eq (spdmSay_keeps (g := .store) rfl a0 a1 a2 s (.refl _ s)) (spdmSay_keeps (g := .bytes) rfl a0 a1 a2 s (.refl _ s))
@[simp] theorem spdmSay_flush (a0 a1 a2 s) : (spdmSay a0 a1 a2 s).flush = s.flush := spdmSay_keeps (g := .flush) rfl a0 a1 a2 s (.refl _ s)
@[simp] theorem spdmSay_coh (a0 a1 a2 s) : (spdmSay a0 a1 a2 s).coh = s.coh := spdmSay_keeps (g := .coh) rfl a0 a1 a2 s (.refl _ s)
@[simp] theorem spdmSay_sluice (a0 a1 a2 s) : (spdmSay a0 a1 a2 s).sluice = s.sluice := spdmSay_keeps (g := .sluice) rfl a0 a1 a2 s (.refl _ s)
@[simp] theorem spdmSay_keeper (a0 a1 a2 s) : (spdmSay a0 a1 a2 s).keeper = s.keeper := keeper_eq (spdmSay_keeps (g := .keepLog) rfl a0 a1 a2 s (.refl _ s)) (spdmSay_keeps (g := .keeper) rfl a0 a1 a2 s (.refl _ s))
@[simp] theorem spdmSay_spdm (a0 a1 a2 s) : (spdmSay a0 a1 a2 s).spdm = s.spdm := spdmSay_keeps (g := .spdm) rfl a0 a1 a2 s (.refl _ s)
@[simp] theorem spdmSay_test (a0 a1 a2 s) : (spdmSay a0 a1 a2 s).test = s.test := spdmSay_keeps (g := .test) rfl a0 a1 a2 s (.refl _ s)
@[simp] theorem spdmSay_hosts (a0 a1 a2 s) : (spdmSay a0 a1 a2 s).hosts = s.hosts := spdmSay_keeps (g := .hosts) rfl a0 a1 a2 s (.refl _ s)
@[simp] theorem spdmSay_tide (a0 a1 a2 s) : (spdmSay a0 a1 a2 s).tide = s.tide := spdmSay_keeps (g := .tide) rfl a0 a1 a2 s (.refl _ s)
@[simp] theorem spdmSay_rill (a0 a1 a2 s) : (spdmSay a0 a1 a2 s).rill = s.rill := rill_eq (spdmSay_keeps (g := .rill) rfl a0 a1 a2 s (.refl _ s)) (spdmSay_keeps (g := .rillTable) rfl a0 a1 a2 s (.refl _ s))
@[simp] theorem spdmSay_mills (a0 a1 a2 s) : (spdmSay a0 a1 a2 s).mills = s.mills := spdmSay_keeps (g := .mills) rfl a0 a1 a2 s (.refl _ s)
@[simp] theorem spdmSay_shoal (a0 a1 a2 s) : (spdmSay a0 a1 a2 s).shoal = s.shoal := shoal_eq (spdmSay_keeps (g := .shoal) rfl a0 a1 a2 s (.refl _ s)) (spdmSay_keeps (g := .slots) rfl a0 a1 a2 s (.refl _ s))
@[simp] theorem spdmSay_attn (a0 a1 a2 s) : (spdmSay a0 a1 a2 s).attn = s.attn := spdmSay_keeps (g := .attn) rfl a0 a1 a2 s (.refl _ s)
@[simp] theorem spdmSay_exch (a0 a1 a2 s) : (spdmSay a0 a1 a2 s).exch = s.exch := spdmSay_keeps (g := .exch) rfl a0 a1 a2 s (.refl _ s)
@[simp] theorem spdmSay_freeCtr (a0 a1 a2 s) : (spdmSay a0 a1 a2 s).freeCtr = s.freeCtr := spdmSay_keeps (g := .freeCtr) rfl a0 a1 a2 s (.refl _ s)
@[simp] theorem spdmSay_pending (a0 a1 a2 s) : (spdmSay a0 a1 a2 s).pending = s.pending := spdmSay_keeps (g := .pending) rfl a0 a1 a2 s (.refl _ s)

/-! `stopInReset` -/

@[simp] theorem stopInReset_pins (s) : (stopInReset s).pins = s.pins := stopInReset_keeps (g := .pins) rfl s (.refl _ s)
@[simp] theorem stopInReset_nv (s) : (stopInReset s).nv = s.nv := nv_eq (stopInReset_keeps (g := .fuses) rfl s (.refl _ s)) (stopInReset_keeps (g := .ident) rfl s (.refl _ s)) (stopInReset_keeps (g := .nvLog) rfl s (.refl _ s)) (stopInReset_keeps (g := .nvStore) rfl s (.refl _ s))
@[simp] theorem stopInReset_hw (s) : (stopInReset s).hw = s.hw := stopInReset_keeps (g := .hw) rfl s (.refl _ s)
@[simp] theorem stopInReset_map (s) : (stopInReset s).map = s.map := stopInReset_keeps (g := .map) rfl s (.refl _ s)
@[simp] theorem stopInReset_party (s) : (stopInReset s).party = s.party := stopInReset_keeps (g := .party) rfl s (.refl _ s)
@[simp] theorem stopInReset_net (s) : (stopInReset s).net = s.net := net_eq (stopInReset_keeps (g := .net) rfl s (.refl _ s)) (stopInReset_keeps (g := .links) rfl s (.refl _ s))
@[simp] theorem stopInReset_weir (s) : (stopInReset s).weir = s.weir := weir_eq (stopInReset_keeps (g := .weirCtl) rfl s (.refl _ s)) (stopInReset_keeps (g := .weirQ) rfl s (.refl _ s))
@[simp] theorem stopInReset_store (s) : (stopInReset s).store = s.store := store_eq (stopInReset_keeps (g := .store) rfl s (.refl _ s)) (stopInReset_keeps (g := .bytes) rfl s (.refl _ s))
@[simp] theorem stopInReset_flush (s) : (stopInReset s).flush = s.flush := stopInReset_keeps (g := .flush) rfl s (.refl _ s)
@[simp] theorem stopInReset_coh (s) : (stopInReset s).coh = s.coh := stopInReset_keeps (g := .coh) rfl s (.refl _ s)
@[simp] theorem stopInReset_sluice (s) : (stopInReset s).sluice = s.sluice := stopInReset_keeps (g := .sluice) rfl s (.refl _ s)
@[simp] theorem stopInReset_keeper (s) : (stopInReset s).keeper = s.keeper := keeper_eq (stopInReset_keeps (g := .keepLog) rfl s (.refl _ s)) (stopInReset_keeps (g := .keeper) rfl s (.refl _ s))
@[simp] theorem stopInReset_spdm (s) : (stopInReset s).spdm = s.spdm := stopInReset_keeps (g := .spdm) rfl s (.refl _ s)
@[simp] theorem stopInReset_test (s) : (stopInReset s).test = s.test := stopInReset_keeps (g := .test) rfl s (.refl _ s)
@[simp] theorem stopInReset_hosts (s) : (stopInReset s).hosts = s.hosts := stopInReset_keeps (g := .hosts) rfl s (.refl _ s)
@[simp] theorem stopInReset_tide (s) : (stopInReset s).tide = s.tide := stopInReset_keeps (g := .tide) rfl s (.refl _ s)
@[simp] theorem stopInReset_rill (s) : (stopInReset s).rill = s.rill := rill_eq (stopInReset_keeps (g := .rill) rfl s (.refl _ s)) (stopInReset_keeps (g := .rillTable) rfl s (.refl _ s))
@[simp] theorem stopInReset_mills (s) : (stopInReset s).mills = s.mills := stopInReset_keeps (g := .mills) rfl s (.refl _ s)
@[simp] theorem stopInReset_shoal (s) : (stopInReset s).shoal = s.shoal := shoal_eq (stopInReset_keeps (g := .shoal) rfl s (.refl _ s)) (stopInReset_keeps (g := .slots) rfl s (.refl _ s))
@[simp] theorem stopInReset_attn (s) : (stopInReset s).attn = s.attn := stopInReset_keeps (g := .attn) rfl s (.refl _ s)
@[simp] theorem stopInReset_exch (s) : (stopInReset s).exch = s.exch := stopInReset_keeps (g := .exch) rfl s (.refl _ s)
@[simp] theorem stopInReset_out (s) : (stopInReset s).out = s.out := stopInReset_keeps (g := .out) rfl s (.refl _ s)
@[simp] theorem stopInReset_freeCtr (s) : (stopInReset s).freeCtr = s.freeCtr := stopInReset_keeps (g := .freeCtr) rfl s (.refl _ s)
@[simp] theorem stopInReset_pending (s) : (stopInReset s).pending = s.pending := stopInReset_keeps (g := .pending) rfl s (.refl _ s)

end Sys2Proof.Safety
end

