-- ==== Sys2Proof/Laws/Tables.lean ====
section
/-!
SUPPORT. What the sparse tables, the rising lists of numbers and the filters of byte memory answer: an entry reads as it was last written,
and a memory made from parts of others reads as the part that holds the address.
-/
namespace Sys2Proof.Machine

open Sys2Proof

theorem Tbl.get_put {α : Type} (d : α) (k : Nat) (x : α) (i : Nat) :
    ∀ t : Tbl α, Tbl.get d (Tbl.put t k x) i = if i = k then x else Tbl.get d t i
  | [] => by
    by_cases h : i = k
    · simp [Tbl.put, Tbl.get, h]
    · simp [Tbl.put, Tbl.get, h, Ne.symm h]
  | (j, y) :: t => by
    have ih := Tbl.get_put d k x i t
    unfold Tbl.put
    split
    · by_cases h : i = k
      · simp [Tbl.get, h]
      · simp [Tbl.get, h, Ne.symm h]
    · split
      · rename_i h; subst h
        by_cases h : i = k
        · simp [Tbl.get, h]
        · simp [Tbl.get, h, Ne.symm h]
      · rename_i h
        simp only [Tbl.get, ih]
        by_cases hj : j = i
        · subst hj; rw [if_pos rfl, if_neg (Ne.symm h), if_pos rfl]
        · simp [hj]

theorem Tbl.find_put {α : Type} (k : Nat) (x : α) (i : Nat) :
    ∀ t : Tbl α, Tbl.find (Tbl.put t k x) i = if i = k then some x else Tbl.find t i
  | [] => by
    by_cases h : i = k
    · simp [Tbl.put, Tbl.find, h]
    · simp [Tbl.put, Tbl.find, h, Ne.symm h]
  | (j, y) :: t => by
    have ih := Tbl.find_put k x i t
    unfold Tbl.put
    split
    · by_cases h : i = k
      · simp [Tbl.find, h]
      · simp [Tbl.find, h, Ne.symm h]
    · split
      · rename_i h; subst h
        by_cases h : i = k
        · simp [Tbl.find, h]
        · simp [Tbl.find, h, Ne.symm h]
      · rename_i h
        simp only [Tbl.find, ih]
        by_cases hj : j = i
        · subst hj; rw [if_pos rfl, if_neg (Ne.symm h), if_pos rfl]
        · simp [hj]

@[simp] theorem Tbl.get_put_same {α : Type} (d : α) (t : Tbl α) (k : Nat) (x : α) : Tbl.get d (Tbl.put t k x) k = x := by
  rw [Tbl.get_put, if_pos rfl]

@[simp] theorem Tbl.get_upd_same {α : Type} (d : α) (t : Tbl α) (k : Nat) (f : α → α) :
    Tbl.get d (Tbl.upd d t k f) k = f (Tbl.get d t k) := Tbl.get_put_same d t k _

theorem Tbl.get_upd {α : Type} (d : α) (t : Tbl α) (k : Nat) (f : α → α) (i : Nat) :
    Tbl.get d (Tbl.upd d t k f) i = if i = k then f (Tbl.get d t k) else Tbl.get d t i := Tbl.get_put d k _ i t

theorem Tbl.get_upd_other {α : Type} (d : α) (t : Tbl α) (k : Nat) (f : α → α) (i : Nat) (h : i ≠ k) :
    Tbl.get d (Tbl.upd d t k f) i = Tbl.get d t i := by
  rw [Tbl.get_upd, if_neg h]

theorem Tbl.get_del {α : Type} (d : α) (k i : Nat) : ∀ t : Tbl α, Tbl.get d (Tbl.del t k) i = if i = k then d else Tbl.get d t i
  | [] => by simp [Tbl.del, Tbl.get]
  | (j, y) :: t => by
    have ih := Tbl.get_del d k i t
    unfold Tbl.del at *
    by_cases hj : j = k
    · subst hj
      rw [List.filter_cons_of_neg (by simp), ih]
      by_cases h : i = j
      · simp [h]
      · simp [Tbl.get, h, Ne.symm h]
    · rw [List.filter_cons_of_pos (by simpa using hj)]
      simp only [Tbl.get, ih]
      by_cases h : j = i
      · subst h; simp [hj]
      · simp [h]

theorem Tbl.get_mapVal {α : Type} (d : α) (f : α → α) (i : Nat) :
    ∀ t : Tbl α, Tbl.get d (Tbl.mapVal f t) i = match Tbl.find t i with
      | some x => f x
      | none => d
  | [] => rfl
  | (j, y) :: t => by
    have ih := Tbl.get_mapVal d f i t
    unfold Tbl.mapVal at *
    simp only [List.map_cons, Tbl.get, Tbl.find, ih]
    by_cases h : j = i <;> simp [h]

@[simp] theorem mem_insertNat (x y : Nat) : ∀ l : List Nat, y ∈ insertNat x l ↔ y = x ∨ y ∈ l
  | [] => by simp [insertNat]
  | z :: t => by
    have ih := mem_insertNat x y t
    unfold insertNat
    split
    · simp
    · split
      · rename_i h; subst h; simp
      · simp only [List.mem_cons, ih]; tauto

@[simp] theorem mem_insertAll (xs : List Nat) (y : Nat) : ∀ l : List Nat, y ∈ insertAll xs l ↔ y ∈ xs ∨ y ∈ l := by
  unfold insertAll
  induction xs with
  | nil => simp
  | cons x t ih =>
    intro l
    simp only [List.foldl_cons, ih, mem_insertNat, List.mem_cons]; tauto

@[simp] theorem mem_removeNat (x y : Nat) (l : List Nat) : y ∈ removeNat x l ↔ y ∈ l ∧ y ≠ x := by simp [removeNat]

@[simp] theorem mem_removeAll (xs l : List Nat) (y : Nat) : y ∈ removeAll xs l ↔ y ∈ l ∧ y ∉ xs := by simp [removeAll]

theorem nth_setNth {α : Type} (d : α) (l : List α) (i j : Nat) (x : α) :
    nth d (setNth l i x) j = if i = j ∧ i < l.length then x else nth d l j := by
  unfold nth setNth
  rw [List.getElem?_set]
  by_cases h : i = j
  · subst h
    by_cases h2 : i < l.length <;> simp [h2]
  · simp [h]

theorem Memory.read_filter (p : Nat → Bool) (a : Nat) :
    ∀ m : Memory, Memory.read (m.filter (fun c => p c.1)) a = if p a then m.read a else 0#8
  | [] => by simp [Memory.read]
  | (j, b) :: t => by
    have ih := Memory.read_filter p a t
    by_cases hj : p j = true
    · rw [List.filter_cons_of_pos (by simpa using hj)]
      simp only [Memory.read, ih]
      by_cases h : j = a
      · subst h; simp [hj]
      · simp [h]
    · rw [List.filter_cons_of_neg (by simpa using hj), ih]
      by_cases h : j = a
      · subst h; simp [hj]
      · simp [Memory.read, h]

theorem Memory.read_append (a : Nat) : ∀ m n : Memory,
    Memory.read (m ++ n) a = if a ∈ m.map (·.1) then m.read a else Memory.read n a
  | [], n => by simp
  | (j, b) :: t, n => by
    have ih := Memory.read_append a t n
    by_cases h : j = a
    · subst h; simp [Memory.read]
    · rw [List.cons_append]
      simp only [Memory.read, h, if_false, ih, List.map_cons, List.mem_cons, Ne.symm h, false_or]

theorem Memory.read_none (a : Nat) : ∀ m : Memory, a ∉ m.map (·.1) → m.read a = 0#8
  | [], _ => rfl
  | (j, b) :: t, h => by
    simp only [List.map_cons, List.mem_cons, not_or] at h
    simp only [Memory.read, Ne.symm h.1, if_false]
    exact Memory.read_none a t h.2

theorem Memory.keys_filter (p : Nat → Bool) (a : Nat) (m : Memory) :
    a ∈ (m.filter (fun c => p c.1)).map (·.1) ↔ p a = true ∧ a ∈ m.map (·.1) := by
  simp only [List.mem_map, List.mem_filter]
  constructor
  · rintro ⟨c, ⟨h, hp⟩, rfl⟩; exact ⟨hp, c, h, rfl⟩
  · rintro ⟨hp, c, h, rfl⟩; exact ⟨c, ⟨h, hp⟩, rfl⟩

theorem Memory.read_span (m : Memory) (lo hi a : Nat) : (m.span lo hi).read a = if lo ≤ a ∧ a < hi then m.read a else 0#8 := by
  unfold Memory.span
  rw [Memory.read_filter (fun x => decide (lo ≤ x) && decide (x < hi))]
  simp

theorem Memory.read_without (m : Memory) (lo hi a : Nat) : (m.without lo hi).read a = if lo ≤ a ∧ a < hi then 0#8 else m.read a := by
  unfold Memory.without
  rw [Memory.read_filter (fun x => decide (x < lo) || decide (hi ≤ x))]
  by_cases h1 : lo ≤ a <;> by_cases h2 : a < hi
  · simp [h1, h2, Nat.not_lt.2 h1, Nat.not_le.2 h2]
  · simp [h1, h2, Nat.le_of_not_lt h2]
  · simp [h1, Nat.lt_of_not_le h1]
  · simp [h1, Nat.lt_of_not_le h1]

theorem Memory.read_copySpan (m src : Memory) (lo hi a : Nat) :
    (m.copySpan src lo hi).read a = if lo ≤ a ∧ a < hi then src.read a else m.read a := by
  unfold Memory.copySpan
  rw [Memory.read_append, Memory.read_append]
  rw [Memory.read_filter (fun x => decide (x < lo)), Memory.read_filter (fun x => decide (max lo hi ≤ x)), Memory.read_span]
  simp only [List.map_append, List.mem_append, Memory.keys_filter (fun x => decide (x < lo)), Memory.span,
    Memory.keys_filter (fun x => decide (lo ≤ x) && decide (x < hi)), decide_eq_true_eq, Bool.and_eq_true]
  by_cases h1 : a < lo
  · have h2 : ¬ (lo ≤ a ∧ a < hi) := by omega
    have h3 : ¬ (max lo hi ≤ a) := by omega
    simp only [h1, h2, h3, true_and, false_and, or_false, if_true, if_false]
    by_cases h : a ∈ m.map (·.1)
    · simp [h]
    · simp [h, Memory.read_none a m h]
  · by_cases h2 : lo ≤ a ∧ a < hi
    · have h3 : ¬ (max lo hi ≤ a) := by omega
      simp only [h1, h2, h3, false_and, true_and, if_true, if_false, false_or, and_self]
      by_cases h : a ∈ src.map (·.1)
      · simp [h]
      · simp [h, Memory.read_none a src h]
    · have h3 : max lo hi ≤ a := by omega
      simp [h1, h2, h3]

end Sys2Proof.Machine
end

