-- ==== Sys2Proof/Tests/Slice0.lean ====
section
/-!
SUPPORT. Tests: decoded words do not exist for a block, so these are small steps on small states, the checks of WellFormed with an
ill-formed command each, and one state that meets the hypotheses of each statement.
-/
namespace Sys2Proof.Tests

open Sys2Proof Sys2Proof.Machine Sys2Proof.Safety

/-- The state after a command. -/
def after (c : Instr) (s : State) : State :=
  match exec c s with
  | .next t => t
  | _ => s

/-- One ill-formed command for each check of WellFormed, which refuses it. -/
theorem test_wellFormed_refuses : ∀ c ∈ [Instr.configure 0 65536, .completionRecord 0 65536, .tierMoveComplete (2 ^ 30) 0, .writeThroughProgrammed (2 ^ 34), .evictionComplete (2 ^ 40),
    .slotFreed 4096, .flitReceived 0 { cells := [] }, .hostLinkTrained 0 11 16, .hostLinkTrained 0 64 3, .tierMoveComplete 0 129, .reachFrame 65536 0#64, .strapSampling [[]] false,
    .cxlBiConflict 0 65536 0, .tideLoad (2 ^ 32), .setLimit 65536, .scrub { race := 0, channel := 0, row := 0, uncorrectable := [2 ^ 40] }, .getCertificate .mctp 8 0 0], wellFormed c = false := by decide

/-- The command in front of the queue is taken, and the rest stays. -/
theorem test_step_first_in_first_out : (match step { State.reset with pending := [.tideTick, .idcode] } with
    | .next t => t.pending
    | _ => []) = [.idcode] := rfl

/-- A table of 2 shards of 5 rows: rows 0, 2, 4 are the first shard's (R296). -/
theorem test_shard_rows : let t : TableRec := { (default : TableRec) with mode := 2, rows := 5, shards := 2 }; t.localRows 0 = 3 ∧ t.localRows 1 = 2 ∧ t.localRow 4 = 2 := by decide

/-- The boot's first command after reset brings the standby rail up and the keeper with it (Table 15-1). -/
theorem test_standby_brings_the_keeper_up : (after (.standbyGood true) State.reset).keeper.up = true ∧ (after (.standbyGood true) State.reset).pins.standby = true := by decide

/-- The machine in a phase of its boot, with the keeper up. -/
def inPhase (p : BootPhase) : State :=
  { State.reset with boot := { State.reset.boot with phase := p }, keeper := { State.reset.keeper with up := true } }

/-- A slot in which (15, maintenance) is named for every race, and race n has the flash gate. -/
def quietSlot (n : Nat) : WeirSlot := { word := BitVec.ofNat 64 (2 ^ 51 + n * 2 ^ 48 + (2 ^ 48 - 1)) }

/-- A weir table in which party 15 has every slot and each race has the flash gate in 1,024 of them. -/
def quietTable (k : WeirKind) : WeirTable :=
  { kind := k, slots := (List.range 8).flatMap (fun n => List.replicate 1024 (quietSlot n)) }

/-- An image of a node alone, without a party, signed under key 7: its slice has one extent of the device. -/
def goodImage : Headwater := {
  rsaKeys := [7], slhKeys := [7], parties := List.replicate 8 {}, ports := List.replicate 10 {}, weir := [quietTable .full, quietTable .spate]
  slice := { roster := [0], rsaKeys := [7], slhKeys := [7], extents := [{ start := 0, units := 1, owner := .single ⟨0, 15⟩, cls := .priv }] } }

/-- The machine before stage 2, with that image staged in slot A and its key burned. -/
def imaged : State :=
  { inPhase (.awaiting 4) with nv := { State.reset.nv with fuses := { State.reset.nv.fuses with opKeys := [7, 0, 0, 0] }, hwA := some goodImage
                                                           hwRec := { stateA := .staged } } }

theorem quiet_all (k : WeirKind) (p : WeirSlot → Bool)
    (h : ∀ n < 8, p (quietSlot n) = true) :
    (quietTable k).slots.all p = true := by
  simp only [quietTable, List.all_eq_true, List.mem_flatMap, List.mem_range, List.mem_replicate]
  rintro _ ⟨n, hn, -, rfl⟩
  exact h n hn

theorem quiet_length (k : WeirKind) : (quietTable k).slots.length = 8192 := by
  simp [quietTable, -List.reduceReplicate]

theorem quiet_named (k : WeirKind) (n : Nat) (h : n < 8) : 128 ≤ (slotsNaming (quietTable k) n 15 .maintenance).length := by
  have : slotsNaming (quietTable k) n 15 .maintenance = (quietTable k).slots := by
    unfold slotsNaming
    rw [List.filter_eq_self]
    intro a ha
    simp only [quietTable, List.mem_flatMap, List.mem_replicate] at ha
    obtain ⟨m, hm, -, rfl⟩ := ha
    rw [List.mem_range] at hm
    interval_cases m <;> interval_cases n <;> decide
  rw [this, quiet_length]; decide

theorem quiet_flash (k : WeirKind) (n : Nat) (h : n < 8) : (quietTable k).slots.any (fun x => x.flashEn && x.flashRace == n) = true := by
  rw [List.any_eq_true]
  refine ⟨_, List.mem_flatMap.2 ⟨n, by simp [h], List.mem_replicate.2 ⟨by decide, rfl⟩⟩, ?_⟩
  interval_cases n <;> decide

theorem good_table (k : WeirKind) (hk : k = .full ∨ k = .spate) : tableOk { imaged with hw := goodImage } (quietTable k) = true := by
  unfold tableOk
  simp only [Bool.and_eq_true]
  refine ⟨⟨⟨⟨⟨⟨?_, rfl⟩, ?_⟩, ?_⟩, rfl⟩, ?_⟩, rfl⟩
  · apply quiet_all; intro n hn; interval_cases n <;> decide
  · simp only [List.all_eq_true, List.mem_range, decide_eq_true_eq]; exact fun n => quiet_named k n
  · simp only [List.all_eq_true, List.mem_range]; exact fun n => quiet_flash k n
  · rcases hk with rfl | rfl <;> decide

/-- That image passes every check of stage 2. -/
theorem goodImage_passes : headwaterCause imaged goodImage = none := by
  have h : contentRule imaged goodImage = none := by
    unfold contentRule
    simp only [Option.map_eq_none_iff, List.find?_eq_none]
    intro x hx
    simp only [contentChecks, List.mem_cons, List.not_mem_nil, or_false] at hx
    have hd : demandServed { imaged with hw := goodImage } = true := rfl
    repeat' obtain rfl | hx := hx
    iterate 7 exact by decide
    · have : contentWeir { imaged with hw := goodImage } = true := by
        unfold contentWeir
        rw [hd]
        show (([quietTable .full, quietTable .spate].all _ && _) && _) = true
        rw [List.all_cons, List.all_cons, good_table .full (.inl rfl), good_table .spate (.inr rfl)]
        decide
      simp only [this]; decide
    iterate 8 exact by decide
    · have : contentLayout { imaged with hw := goodImage } = true := by
        unfold contentLayout
        show (((((_ && [quietTable .full, quietTable .spate].all _) && _) && _) && _ && _) && _ && _) = true
        rw [List.all_cons, List.all_cons, quiet_length, quiet_length]
        decide
      simp only [this]; decide
    iterate 4 exact by decide
  unfold headwaterCause
  rw [h]
  rfl

/-- The machine whose boot awaits step n of the memory chain, with a spate reserve. -/
def memPhase (n : Nat) (r : Reserve) : State :=
  { inPhase .released with boot := { State.reset.boot with phase := .released, memAwait := n }, nv := { State.reset.nv with reserve := r } }

/-- A released node whose port 0 holds link 0 alone, with that link as given; a partner port has heard capability word 5. -/
def onPort (k : PortKind) (l : Link) : State :=
  { inPhase .released with
    pins := { State.reset.pins with serdes := true }
    hw := { State.reset.hw with ports := [{ valid := true, kind := k, party := 2 }] }
    net := { State.reset.net with links := [(0, { l with inPort := true })], capWord := [(0, 5#64)] } }
theorem witness_StepRunsTheFrontCommand : ∃ (s : State) (c : Instr) (rest : List Instr), s.pending = c :: rest :=
  ⟨{ State.reset with pending := [.idcode] }, .idcode, [], rfl⟩

theorem witness_CommandsWriteOnlyTheirParts : ∃ (c : Instr) (s t : State) (g : Part), exec c s = .next t ∧ g ∉ writes c ∧ t.test.ir ≠ s.test.ir :=
  ⟨.bypass 0xFF, { State.reset with pins := { State.reset.pins with standby := true } }, _, .fuses, rfl, by decide, by decide⟩

theorem witness_EveryStepKeepsMemoriesCanonical : ∃ s t : State, memoriesWf s ∧ step s = .next t ∧ s.pending ≠ [] :=
  ⟨{ State.reset with pending := [.tideTick] }, _, ⟨rfl, rfl, rfl⟩, rfl, by decide⟩

theorem witness_EveryStepKeepsBurnedFuses : ∃ s t : State, step s = .next t ∧ s.pending ≠ [] :=
  ⟨{ State.reset with pending := [.lockInstall] }, _, rfl, by decide⟩

theorem witness_OnlyHeadwaterCheckChangesTheImage : ∃ s t : State, step s = .next t ∧ s.pending = [.headwaterCheck] ∧ s.boot.phase ≠ .awaiting 4 :=
  ⟨{ State.reset with pending := [.headwaterCheck] }, _, rfl, rfl, by decide⟩

theorem witness_RailsUpStartTheBoot :
    (∃ s : State, s.boot.phase = .waitStandby) ∧ (∃ s : State, s.boot.phase = .standbyRetry)
    ∧ (∃ s : State, s.boot.phase = .awaiting 5 ∧ s.keeper.up = true) ∧ ∃ s : State, s.boot.phase = .railRetry ∧ s.keeper.up = true :=
  ⟨⟨State.reset, rfl⟩, ⟨inPhase .standbyRetry, rfl⟩, ⟨inPhase (.awaiting 5), rfl, rfl⟩, ⟨inPhase .railRetry, rfl, rfl⟩⟩

theorem witness_StrapsAndImagesBoot :
    (∃ (s : State) (f : Firmware), s.boot.phase = .awaiting 2 ∧ s.keeper.up = true ∧ fwImage s s.nv.fwRec.next = some f
      ∧ slotTriable s compFirmware s.nv.fwRec.next = true ∧ thirdBoot s compFirmware s.nv.fwRec.next = false
      ∧ (1, false) ∈ s.nv.fuses.vendorKeys.zip s.nv.fuses.vendorRevoke ∧ 1 ∈ f.rsaKeys ∧ 1 ∈ f.slhKeys
      ∧ s.nv.fuses.fwSvn ≤ f.svn ∧ f.svn ≤ 64)
    ∧ (∃ s : State, s.boot.phase = .awaiting 2 ∧ s.nv.fwA = none ∧ s.nv.fwB = none)
    ∧ (∃ (s : State) (early : List (List (BitVec 8))), s.boot.phase = .awaiting 3 ∧ early.length < 4
      ∧ ∀ r ∈ early, ∀ x, r ≠ List.replicate 8 x)
    ∧ (∃ (s : State) (rounds : List (List (BitVec 8))), s.boot.phase = .awaiting 3 ∧ ∀ r ∈ rounds.take 4, ∀ x, r ≠ List.replicate 8 x)
    ∧ (∃ s : State, s.boot.phase = .awaiting 4 ∧ ∀ k ∈ s.nv.fuses.opKeys, k = 0)
    ∧ ∃ (s : State) (h : Headwater), s.boot.phase = .awaiting 4 ∧ 7 ∈ s.nv.fuses.opKeys ∧ hwImage s s.nv.hwRec.next = some h
      ∧ slotTriable s compHeadwater s.nv.hwRec.next = true ∧ thirdBoot s compHeadwater s.nv.hwRec.next = false
      ∧ headwaterCause s h = none := by
  refine ⟨⟨inPhase (.awaiting 2), { rsaKeys := [1], slhKeys := [1], digest := 1 }, rfl, rfl, rfl, rfl, rfl, by decide, by decide, by decide,
    by decide, by decide⟩, ⟨{ inPhase (.awaiting 2) with nv := { fwA := none } }, rfl, rfl, rfl⟩,
    ⟨inPhase (.awaiting 3), [], rfl, by decide, fun _ h => nomatch h⟩, ⟨inPhase (.awaiting 3), [], rfl, fun _ h => nomatch h⟩,
    ⟨inPhase (.awaiting 4), rfl, by decide⟩, ⟨imaged, goodImage, rfl, by decide, rfl, rfl, rfl, goodImage_passes⟩⟩

theorem witness_KeysAndDieRelease :
    (∃ (s : State) (b : Blob), s.boot.phase = .awaiting 6 ∧ s.nv.sanitize = false ∧ goodBlob s = some b ∧ s.keeper.up = true ∧ s.nv.reserve.present = false
      ∧ (∀ p ∈ partitions s, ∃ k, Tbl.find b.keys p = some k) ∧ ∀ k ∈ b.keys, k.1 ∈ partitions s)
    ∧ (∃ s : State, s.boot.phase = .awaiting 6 ∧ s.keeper.up = true ∧ s.nv.sanitize = false ∧ goodBlob s = none)
    ∧ (∃ s : State, s.boot.phase = .awaiting 6 ∧ s.nv.sanitize = true ∧ Tbl.find ((goodBlob s).getD s.nv.blobA).keys 0 = some 1)
    ∧ (∃ s : State, s.boot.phase = .awaiting 7 ∧ s.nv.genRecord = none ∧ forcedIsland s = false)
    ∧ (∃ (s : State) (g : Nat), s.boot.phase = .awaiting 7 ∧ forcedIsland s = true ∧ s.nv.genRecord = some g ∧ serCmp 16 s.hw.compGen g = .older)
    ∧ (∃ s : State, s.pins.braidRun = true) ∧ (∃ s : State, s.pins.braidRun = false)
    ∧ ∃ s : State, s.boot.phase ≠ .awaiting 6 ∧ s.boot.phase ≠ .awaiting 7 := by
  refine ⟨⟨{ inPhase (.awaiting 6) with nv := { blobA := { writeCount := 1, keys := [(0, 1)] } } }, { writeCount := 1, keys := [(0, 1)] }, rfl, rfl,
      rfl, rfl, rfl, ?_, by decide⟩,
    ⟨{ inPhase (.awaiting 6) with nv := { blobA := { good := false }, blobB := { good := false } } }, rfl, rfl, rfl, rfl⟩,
    ⟨{ inPhase (.awaiting 6) with nv := { blobA := { writeCount := 1, keys := [(0, 1)] }, sanitize := true } }, rfl, rfl, rfl⟩,
    ⟨inPhase (.awaiting 7), rfl, rfl, rfl⟩,
    ⟨{ inPhase (.awaiting 7) with map := { lostKeys := true }, nv := { genRecord := some 1 } }, 1, rfl, rfl, rfl, by decide⟩,
    ⟨{ State.reset with pins := { braidRun := true } }, rfl⟩, ⟨State.reset, rfl⟩, ⟨inPhase .released, by decide, by decide⟩⟩
  intro p hp
  have : p = 0 := by simpa [partitions, insertAll, insertNat, inPhase, State.reset] using hp
  exact ⟨1, by rw [this]; rfl⟩

theorem witness_MemoryAfterABoot :
    (∃ s : State, s.boot.phase = .released ∧ s.boot.memAwait = 8 ∧ s.keeper.up = true ∧ s.boot.warm = false)
    ∧ (∃ s : State, s.boot.phase = .released ∧ s.boot.memAwait = 9 ∧ s.nv.reserve.present = true ∧ s.nv.reserve.committed = false)
    ∧ (∃ s : State, s.boot.phase = .released ∧ s.boot.memAwait = 10 ∧ s.nv.reserve.complete = true ∧ s.nv.reserve.manifest.Nodup
      ∧ (∀ u ∈ s.nv.reserve.manifest, u ∈ s.nv.reserve.units ∧ isOn s (.restore u) = true) ∧ s.store.mem.wf = true ∧ s.nv.reserve.data.wf = true
      ∧ s.nv.reserve.manifest ≠ [])
    ∧ ∃ s : State, s.boot.erasing = true :=
  ⟨⟨memPhase 8 {}, rfl, rfl, rfl, rfl⟩, ⟨memPhase 9 { present := true }, rfl, rfl, rfl, rfl⟩,
    ⟨{ memPhase 10 { present := true, complete := true, manifest := [3], units := [3] } with weir := { flashOn := [(0, .restore 3)] } }, rfl, rfl, rfl, by decide, by decide, rfl, rfl, by decide⟩,
    ⟨{ State.reset with boot := { erasing := true } }, rfl⟩⟩

theorem witness_LinksTrainAndJoin :
    (portOf (onPort .partner {}) (0 : Fin 32) = some 0 ∧ (onPort .partner {}).boot.phase = .released ∧ (onPort .partner {}).pins.serdes = true
      ∧ 0 ∉ (onPort .partner {}).boot.linksTried ∧ ∀ m ∈ portedLinks (onPort .partner {}), m = 0 ∨ m ∈ (onPort .partner {}).boot.linksTried)
    ∧ ((onPort .partner { retryDue := true }).link 0).retryDue = true
    ∧ (((onPort .partner { mode := .helloWait }).link 0).mode = .helloWait ∧ Tbl.find (onPort .partner {}).net.capWord 0 = some 5#64) := by decide

theorem witness_LinksRetrainAndLeave :
    (((onPort .switch { mode := .up, nakTimer := true, discarding := true }).link 0).nakTimer = true
      ∧ ((onPort .switch { mode := .up, nakTimer := true, discarding := true, nakCount := 7 }).link 0).discarding = true)
    ∧ (((onPort .switch { mode := .up, kept := [{ seq := 3, cells := [], map := 0 }] }).link 0).mode = .up
      ∧ ((onPort .switch { mode := .up, kept := [{ seq := 3, cells := [], map := 0 }] }).link 0).kept ≠ [])
    ∧ (((onPort .switch { mode := .retraining, retrainFails := 2 }).link 0).mode = .retraining
      ∧ portOf (onPort .switch { mode := .retraining, retrainFails := 2 }) 0 = some 0) := by decide

theorem witness_FlitsGoOutAndComeIn :
    (onPort .switch { mode := .up }).pins.serdes = true
    ∧ (((onPort .switch { mode := .up, helloSent := true, replayAt := some 3, kept := [{ seq := 3, cells := [], map := 0 }] }).link 0).kept.find?
        (fun y => y.seq == 3) = some { seq := 3, cells := [], map := 0 })
    ∧ ((onPort .switch { mode := .up }).link 0).nakCount < 7
    ∧ flag (nth {} ({ cells := [{ w1 := 1#64 }] } : Flit).cells 0).w0 38 = false ∧ ((onPort .switch { mode := .up }).link 0).peerNaks = 0 := by decide

theorem witness_ExpiriesAndCacheFills :
    ((onPort .switch { held := [{ page := 4, tag := 9, slots := 0 }] }).link 0).held.find? (fun x => x.page == 4) = some { page := 4, tag := 9, slots := 0 }
    ∧ (({ State.reset with net := { sent := [{ port := 1, link := 0, tag := 9, req := {}, phase := 1 }] } } : State).net.sent.find?
        (fun x => x.port == 1 && x.tag == 9 && x.phase == 1)).isSome
    ∧ (0, 0, 0, 0) ∈ ({ State.reset with net := { rmiss := [(0, 0, 0, 0)] } } : State).net.rmiss
    ∧ (0, 0) ∈ ({ State.reset with net := { emiss := [(0, 0)] } } : State).net.emiss
    ∧ (({ State.reset with net := { combos := [{ id := 1, head := {}, entries := [{}, {}] }, { id := 2, head := {}, entries := [{}] }] } } : State).net.combos[0]?
        = some { id := 1, head := {}, entries := [{}, {}] } ∧ addrNode ({} : Req).addr = State.reset.node) := by decide

theorem witness_MapAgreement :
    (∃ (s : State) (a : Announcement), s.map.started = true ∧ a.node ∈ s.hw.slice.roster ∧ a.node ≠ s.node ∧ a.node ∉ s.map.pool
      ∧ a.compGen = s.hw.compGen ∧ a.poolDigest = s.hw.slice.poolDigest ∧ s.map.redeliver = [a] ∧ a.reply = true ∧ a.node = (5 : Fin 1024).val)
    ∧ (∃ (s : State) (a : Announcement) (sl : Slice), s.map.reading.find? (fun x => x.node == (5 : Fin 1024).val) = some a
      ∧ Tbl.find s.hw.digests 5 = some sl.digest ∧ operatorSigned s sl.rsaKeys sl.slhKeys = true ∧ sliceFieldsOk sl = true)
    ∧ (∃ s : State, s.boot.phase = .released ∧ (∀ p ∈ portsOfKind s .switch, upLinks s p = []) ∧ s.map.started = false ∧ forcedIsland s = false)
    ∧ ∃ s : State, s.map.window = true ∧ s.map.state = .forming ∧ s.keeper.up = true ∧ s.map.pool = [s.node] ∧ s.map.disagrees ≠ [] := by
  refine ⟨⟨{ State.reset with map := { started := true, redeliver := [⟨5, 0, 0, 0, 0, true⟩] }, hw := { slice := { roster := [5] } } },
      ⟨5, 0, 0, 0, 0, true⟩, by decide, by decide, by decide, by decide, rfl, rfl, rfl, rfl, rfl⟩,
    ⟨{ imaged with map := { reading := [⟨5, 0, 0, 0, 0, true⟩] }, hw := { digests := [(5, 0)] } }, ⟨5, 0, 0, 0, 0, true⟩, goodImage.slice, rfl, rfl,
      by decide, by decide⟩, ⟨inPhase .released, rfl, by decide, rfl, rfl⟩,
    ⟨{ inPhase .released with map := { window := true, pool := [0], disagrees := [5] } }, rfl, rfl, rfl, rfl, by decide⟩⟩

theorem witness_HostPortsComeAndGo :
    (({ State.reset with hosts := [(0, { perst := true })] } : State).hostSt 0).perst = true
    ∧ (∃ s : State, (s.hostSt 0).perst = false ∧ s.pins.dieReset = false ∧ s.pins.serdes = true ∧ s.keeper.up = true ∧ (s.hostSt 0).trained = false)
    ∧ ∃ s : State, Quiet s ∧ domainOfAgent s ⟨s.node, 0⟩ = none ∧ s.keeper.up = true ∧ (s.hostSt 0).l0Count = true ∧ (s.hostSt 0).l0 = false
        ∧ (s.hostSt 0).cxl = true ∧ (s.hostSt 0).dead = false :=
  ⟨by decide,
    ⟨{ inPhase .released with hosts := [(0, { perst := false })], pins := { dieReset := false, serdes := true } }, by decide⟩,
    ⟨{ inPhase .released with hosts := [(0, { l0Count := true, cxl := true })] }, ⟨rfl, fun _ h => absurd h (by simp [inPhase, State.reset])⟩, by decide⟩⟩

/-- A sealed table whose first slot names the demand pair of a party for race 0. -/
def pairTable (party : Nat) : WeirTable := { kind := .full, isOpen := false, slots := [{ word := BitVec.ofNat 64 (4 * party) }] }
/-- One request of party 2 waits for race 0. -/
def oneWaits (w : WeirTable) : State :=
  { inPhase .released with pins := { dieReset := false }, hw := { weir := [w] }
                           weir := { queue := [{ race := 0, party := 2, tclass := .demand, station := 0, crossing := false, req := { addr := 2 ^ 53 } }] } }
theorem oneWaits_runs (n : Nat) : WeirRuns (oneWaits (pairTable n)) (pairTable n) := by
  refine ⟨rfl, rfl, ⟨rfl, fun _ h => absurd h (by simp [oneWaits])⟩, ?_, rfl, rfl, fun _ h => absurd h (by simp [oneWaits])⟩
  intro q hq; simp only [oneWaits, List.mem_singleton] at hq; subst hq; intro _ h; exact absurd h (by decide)

theorem witness_WeirSlotsAndPeriods :
    (∃ (s : State) (w : WeirTable) (q : QEntry), WeirRuns s w
      ∧ s.weir.queue = [q] ∧ q.crossing = false ∧ q.race < 8 ∧ cycleOrder q.req < 14 ∧ admits s q = true
      ∧ (slotNow w s).race q.race = { party := q.party, tclass := q.tclass })
    ∧ (∃ (s : State) (w : WeirTable), WeirRuns s w ∧ w.isOpen = false
      ∧ ∃ q ∈ s.weir.queue, q.crossing = false ∧ ({ party := q.party, tclass := q.tclass } : PairSlot) ≠ (slotNow w s).race q.race)
    ∧ ∃ (s : State) (x : Slot), s.pins.dieReset = false ∧ s.flush.kind = .none ∧ s.flush.pending = false ∧ s.weir.selected = some .spate
        ∧ (weirTable s .spate).isSome = true ∧ Tbl.find s.shoal.slots 0 = some x ∧ x.state = .retiring := by
  refine ⟨⟨oneWaits (pairTable 2), pairTable 2, _, oneWaits_runs _, rfl, rfl, by decide, by decide, by decide, by decide⟩,
    ⟨oneWaits (pairTable 3), pairTable 3, oneWaits_runs _, rfl, _, List.mem_singleton.2 rfl, rfl, by decide⟩,
    ⟨{ inPhase .released with pins := { dieReset := false }, hw := { weir := [{ kind := .spate }] }, weir := { selected := some .spate },
                              shoal := { slots := [(0, { state := .retiring })] } }, { state := .retiring }, rfl, rfl, rfl, rfl, rfl, rfl, rfl⟩⟩

/-- A released node of a party-2 extent of one PLAIN page of 65,536 bytes, class PRIVATE, with one request in its pipeline. -/
def serving (r : Req) : State :=
  { inPhase .released with
    hw := { slice := { extents := [{ start := 0, units := 16, owner := .single ⟨0, 2⟩, cls := .priv, permRead := true, permWrite := true, permAtomic := true }] }
            deltas := [{ group := 0, member := true }] }
    store := { tier := [(0, { state := .plain })] }
    weir := { pipe := [r] } }

def reqOf (op : Op) (opf : W64) (len : Nat) : Req :=
  { op, addr := 64, len, party := 2, origin := ⟨0, 2⟩, cls := .priv, src := .mill 0, data := List.replicate len 1#8, opf }

theorem witness_RequestsReadAndWrite :
    (∀ x ∈ [reqOf .load 0 64, reqOf .confRead 0 64, reqOf .store 0 64, reqOf .mcastStore 0 64, reqOf .atomic 0 4, reqOf .reduce 0 64,
        reqOf .confAtomic 0 4], Served (serving x) x {} ∧ memoriesWf (serving x))
    ∧ areaSlot (serving (reqOf .store 0 64)) 64 = none := by
  refine ⟨?_, by decide⟩
  intro x hx
  simp only [List.mem_cons, List.not_mem_nil, or_false] at hx
  repeat' obtain rfl | hx := hx
  all_goals
    refine ⟨?_, rfl, rfl, rfl⟩
    constructor <;> first | decide | exact fun _ h => absurd h (by simp [serving]) | exact ⟨rfl, fun _ h => absurd h (by simp [serving])⟩

/-- A released node whose page 0 is COHERENT between its party 2 and party 2 of node 1, with directory entries and one request. -/
def sharing (dir : List DirEntry) (r : Req) : State :=
  { inPhase .released with
    hw := { slice := { sets := [{ setId := 1, cls := .coherent, members := [⟨0, 2⟩, ⟨1, 2⟩, ⟨0, 0⟩] }]
                       extents := [{ start := 0, units := 16, owner := .set 1, cls := .coherent, permRead := true, permWrite := true, permAtomic := true }] } }
    store := { tier := [(0, { state := .plain })] }
    coh := { dir }
    weir := { pipe := [r] } }

def cacheReq (op : Op) (p : Nat) (data : Bytes) : Req :=
  { op, addr := 64, len := 64, party := p, origin := ⟨0, p⟩, cls := .coherent, src := .mill 0, data }

def lineEntry (st : DirState) (owner : Nat) (sharers : List Nat) : DirEntry :=
  { line := 1, slice := 0, way := 0, state := st, owner, sharers, setId := 1 }

theorem share_check (dir : List DirEntry) (op : Op) (data : Bytes) (h : isCachingOp op = true) :
    memCheck (sharing dir (cacheReq op 2 data)) (cacheReq op 2 data) = none := by
  have : memCheck (sharing dir (cacheReq op 2 data)) (cacheReq op 2 data) = memCheck (sharing [] (cacheReq op 2 [])) (cacheReq op 2 []) := by
    unfold memCheck spaceCheck areaCheck homeCheck; rfl
  rw [this]; revert h; cases op <;> decide

theorem share_first (dir : List DirEntry) (op : Op) (data : Bytes) : mayPerform (sharing dir (cacheReq op 2 data)) (cacheReq op 2 data) = true := by
  have h : opSeal (0#64) = false := by decide
  simp [mayPerform, sharing, cacheReq, inPhase, State.reset, h]

theorem sharing_ok (dir : List DirEntry) (op : Op) (data : Bytes) (h : isCachingOp op = true) :
    CachingReq (sharing dir (cacheReq op 2 data)) (cacheReq op 2 data) 1 0 :=
  ⟨by simp [sharing], rfl, ⟨rfl, rfl⟩, by show addrSpace 64 = 0; decide, ⟨by show addrOffset 64 = 64; decide, rfl⟩, share_check dir op data h, rfl, rfl, rfl, ⟨rfl, rfl⟩, share_first dir op data,
    ⟨rfl, fun _ h => absurd h (by simp [sharing, inPhase, State.reset])⟩, fun _ h => absurd h (by simp [sharing, inPhase, State.reset])⟩

theorem witness_CachingRequestsAtTheDirectory :
    (∀ op, isCachingOp op = true → ∀ dir data, CachingReq (sharing dir (cacheReq op 2 data)) (cacheReq op 2 data) 1 0)
    ∧ (∀ op, ∃ w, dirFind (sharing [] (cacheReq op 2 [])) 1 = none ∧ dirPlace (sharing [] (cacheReq op 2 [])) 1 = .free w)
    ∧ (CachingReq (sharing [] (cacheReq .rdShared 0 [])) (cacheReq .rdShared 0 []) 1 2 ∧ isHostAgent (cacheReq .rdShared 0 []).origin = true)
    ∧ (∀ op, dirFind (sharing [lineEntry .em 1 []] (cacheReq op 2 [])) 1 = some (lineEntry .em 1 []) ∧ (lineEntry .em 1 []).owner ≠ 0
        ∧ (nth ⟨0, 0⟩ (lineMembers (sharing [lineEntry .em 1 []] (cacheReq op 2 [])) 1) 1).node ≠ (sharing [lineEntry .em 1 []] (cacheReq op 2 [])).node)
    ∧ (∀ op, dirFind (sharing [lineEntry .s 0 [0]] (cacheReq op 2 [])) 1 = some (lineEntry .s 0 [0]) ∧ removeNat 0 (lineEntry .s 0 [0]).sharers = []
        ∧ (lineEntry .s 0 [0]).busy = false ∧ (lineEntry .s 0 [0]).coarse = false)
    ∧ (∀ op, dirFind (sharing [lineEntry .s 0 [0, 1]] (cacheReq op 2 [])) 1 = some (lineEntry .s 0 [0, 1]) ∧ removeNat 0 (lineEntry .s 0 [0, 1]).sharers ≠ [])
    ∧ (∀ op, dirFind (sharing [lineEntry .em 0 []] (cacheReq op 2 [])) 1 = some (lineEntry .em 0 []) ∧ (lineEntry .em 0 []).owner = 0
        ∧ (lineEntry .em 0 []).modified = false ∧ (lineEntry .em 0 []).busy = false)
    ∧ (cacheReq .wbDirty 2 (List.replicate 64 0#8)).data.length = 64 :=
  ⟨fun op h dir data => sharing_ok dir op data h, fun op => ⟨0, rfl, by cases op <;> decide⟩,
    ⟨⟨by simp [sharing], rfl, ⟨rfl, rfl⟩, by show addrSpace 64 = 0; decide, ⟨by show addrOffset 64 = 64; decide, rfl⟩, by decide, rfl, rfl, rfl, ⟨rfl, rfl⟩, rfl, ⟨rfl, fun _ h => absurd h (by simp [sharing, inPhase, State.reset])⟩,
      fun _ h => absurd h (by simp [sharing, inPhase, State.reset])⟩, rfl⟩,
    fun op => ⟨rfl, by decide, by cases op <;> decide⟩, fun op => ⟨rfl, rfl, rfl, rfl⟩, fun op => ⟨rfl, by decide⟩, fun op => ⟨rfl, rfl, rfl, rfl⟩,
    by simp [cacheReq]⟩

/-- A released node 0 whose pool map holds node 1, reached through switch port 1, with the given slice of node 1. -/
def pooled (sl : Slice) (r : Req) : State :=
  { inPhase .released with
    hw := { slice := { node := 0 }, ports := [{}, { valid := true, kind := .switch, firstLink := 0 }] }
    map := { pool := [0, 1], slices := [(1, sl)], state := .agreed }
    net := { links := [(0, { mode := .up, inPort := true })] }
    party := [(0, { reverse := [{ asid := 0, vstart := 4096, pbase := 2 ^ 54, len := 4096 }] })]
    weir := { pipe := [r] } }

def snoopReq (op : Op) : Req := { op, addr := 2 ^ 54 + 64, len := 64, origin := ⟨1, 15⟩, src := .port 1 0, opf := snpFields 5 0 }

def homing (r : Req) (snoops : List Snoop) (tx : Txn) : State :=
  { sharing [{ lineEntry .em 1 [] with busy := true, pending := snoops.length }] r with
    hw := { (sharing [] r).hw with ports := [{}, { valid := true, kind := .switch }] }
    coh := { dir := [{ lineEntry .em 1 [] with busy := true, pending := snoops.length }], snoops, txns := [tx] } }

theorem homing_quiet (r : Req) (snoops : List Snoop) (tx : Txn) : Quiet (homing r snoops tx) :=
  ⟨rfl, fun _ h => absurd h (by simp [homing, sharing, inPhase, State.reset])⟩
theorem homing_placed (r : Req) (snoops : List Snoop) (tx : Txn) : DirPlaced (homing r snoops tx) := by
  intro e he
  simp only [homing, List.mem_singleton] at he
  subst he
  show 0 = homeRace (homing r snoops tx) (1 * 64)
  have : homeRace (homing r snoops tx) (1 * 64) = homeRace (sharing [] {}) (1 * 64) := rfl
  rw [this]; decide

def provReq : Req := { op := .load, addr := 64, len := 8, origin := ⟨0, 2⟩, src := .port 1 0 }
def provUse (d : Bool) : PTagUse := { port := 1, ptag := 3, link := 0, line := 1, req := some provReq, answered := true, dirtied := d }
def providing (d : Bool) : State := { State.reset with net := { ptags := [provUse d] } }

theorem witness_SnoopsAndTheirResults :
    (∀ op, let s := pooled { node := 2 } (snoopReq op); (poolSlices s).find? (fun sl => sl.node == 1) = none ∧ (1 : Nat) ≠ s.node
      ∧ addrNode (poolAddr 1 0 (addrOffset (2 ^ 54 + 64))) = 1 ∧ 1 ∈ s.map.pool ∧ s.map.state ≠ .forming ∧ routePort s 15 (poolAddr 1 0 (addrOffset (2 ^ 54 + 64))) = some 1)
    ∧ (∀ op, let sl : Slice := { node := 1, sets := [{ setId := 1, cls := .coherent, members := [⟨0, 0⟩] }], extents := [{ start := 0, units := 16, owner := .set 1, cls := .coherent }] }
        let s := pooled sl (snoopReq op); (poolSlices s).find? (fun sl => sl.node == 1) = some sl
      ∧ (∃ e, findExtent sl (addrOffset (2 ^ 54 + 64)) 64 = some e ∧ e.cls = .coherent ∧ (extentMembers sl e).filter (fun p => p.node == s.node) = [⟨s.node, 0⟩])
      ∧ reverseOf s 0 (2 ^ 54 + 64) = [(0, 4096 + 64)])
    ∧ (let r : Req := { op := .snpRsp, src := .port 1 0, opf := snpFields 7 4, data := List.replicate 64 1#8 }
       let x : Snoop := { id := 7, line := 1, member := 1, agent := ⟨1, 2⟩ }
       let tx : Txn := { line := 1, req := some (cacheReq .rdOwn 2 []) }
       (∃ s, s = homing r [x, { x with id := 8 }] tx ∧ fromNode s r ∧ s.coh.snoops.find? (fun y => y.id == snpId r.opf) = some x ∧ snpResult r.opf ≠ 1
        ∧ ∃ y ∈ s.coh.snoops, y.line = x.line ∧ y.id ≠ x.id)
       ∧ ∃ s, s = homing r [x] tx ∧ DirPlaced s ∧ Quiet s ∧ fromNode s r ∧ s.coh.snoops.find? (fun y => y.id == snpId r.opf) = some x ∧ snpResult r.opf = 4
        ∧ (dirFind s 1).isSome = true ∧ memberIndex (lineMembers s 1) (cacheReq .rdOwn 2 []).origin = some 0 ∧ readStatus s 64 64 {} = .ok)
    ∧ (let r : Req := { cacheReq .rdOwn 2 [] with addr := 128 }
       let s := homing {} [] { line := 1, req := none, evictFor := some r }
       (∃ tx, s.coh.txns.find? (fun t => t.line == 1 && t.req.isNone) = some tx ∧ tx.evictFor = some r) ∧ DirPlaced s ∧ Quiet s
        ∧ memberIndex (lineMembers (evicted 1 none s) 2) r.origin = some 0 ∧ dirFind (evicted 1 none s) 2 = none ∧ dirPlace (evicted 1 none s) 2 = .free 0
        ∧ readStatus (evicted 1 none s) (64 * 2) 64 {} = .ok ∧ addrOffset r.addr = 64 * 2)
    ∧ (Quiet (providing false) ∧ (providing false).net.ptags.find? (fun p => p.port == 1 && p.ptag == 3 && p.answered && !p.resolved) = some (provUse false)
        ∧ confirms (providing false) provReq.origin (provUse false) = true)
    ∧ Quiet (providing true) ∧ (providing true).net.ptags.find? (fun p => p.port == 1 && p.ptag == 3 && p.answered && !p.resolved) = some (provUse true)
        ∧ confirms (providing true) provReq.origin (provUse true) = false ∧ dirFind (providing true) 1 = none
        ∧ readStatus (providing true) 64 8 {} = .ok := by
  refine ⟨fun op => by cases op <;> decide, fun op => by cases op <;> refine ⟨rfl, ⟨_, rfl, ?_, ?_⟩, ?_⟩ <;> decide, ⟨⟨_, rfl, ?_, ?_, ?_, ?_⟩, ⟨_, rfl, ?_, ?_, ?_, ?_, ?_, ?_, ?_, ?_⟩⟩, ⟨?_, ?_, ?_, ?_, ?_, ?_, ?_, ?_⟩,
    ⟨⟨rfl, fun _ h => absurd h (by simp [providing, State.reset])⟩, ?_, ?_⟩, ⟨rfl, fun _ h => absurd h (by simp [providing, State.reset])⟩, ?_, ?_, ?_, ?_⟩
  all_goals first | decide | (show (portEntry _ 1).kind ≠ .partner; decide) | exact homing_quiet _ _ _ | exact homing_placed _ _ _

/-- A released node 0, whose partner port 1 holds link 0 for party 2, with one coherent domain of its own host and the partner. -/
def coherentNode (st : DomState) : State :=
  { inPhase .released with
    hw := { slice := { node := 0, sets := [{ setId := 1, cls := .coherent, members := [⟨0, 0⟩, ⟨0, 2⟩, ⟨1, 2⟩] }]
                       extents := [{ start := 0, units := 16, owner := .set 1, cls := .coherent }] }
            ports := [{ valid := true, kind := .switch, firstLink := 1 }, { valid := true, kind := .partner, party := 2, firstLink := 0 }] }
    net := { links := [(0, { inPort := true }), (1, { mode := .up, inPort := true })], portDown := [1] }
    coh := { domains := [{ num := 0, agents := [⟨0, 0⟩, ⟨0, 2⟩, ⟨1, 2⟩], state := st }], snoops := [{ id := 7, line := 1, member := 2, agent := ⟨1, 2⟩ }]
             joined := [⟨0, 0⟩], notices := [{ dest := 1, domain := 0, agent := ⟨0, 0⟩, join := true }]
             dir := [lineEntry .o 1 []] }
    weir := { pipe := [{ op := .domainNotice, opf := 0 }, { op := .domainNotice, opf := BitVec.ofNat 64 (at' 2 28 + at' 1 27) }] } }

theorem coherentNode_still (st : DomState) : Still (coherentNode st) := ⟨rfl, rfl, rfl, ⟨rfl, rfl⟩, ⟨rfl, rfl⟩, ⟨rfl, rfl⟩, rfl, rfl, fun _ h => absurd h (by simp [coherentNode, inPhase, State.reset])⟩

theorem witness_DomainsFallAndRise :
    (∀ st, Still (coherentNode st)) ∧ (∃ d, findDomain (coherentNode .up) (field (0 : W64) 42 14) = some d ∧ d.state = .up ∧ flag (0 : W64) 27 = false)
    ∧ (let w := BitVec.ofNat 64 (at' 2 28 + at' 1 27); flag w 27 = true
        ∧ ∃ d, domainOfAgent (coherentNode .joining) (agentOf (field w 28 14)) = some d ∧ findDomain (coherentNode .joining) d.num = some d ∧ d.state = .joining)
    ∧ (∃ x d, (coherentNode .up).coh.snoops.find? (fun y => y.id == (7#16).toNat) = some x ∧ x.agent.node ≠ (coherentNode .up).node
        ∧ domainOfAgent (coherentNode .up) x.agent = some d ∧ findDomain (coherentNode .up) d.num = some d ∧ d.state = .up)
    ∧ (let s := coherentNode .up; 1 ∈ s.net.portDown ∧ (portEntry s 1).valid = true ∧ (portEntry s 1).kind = .partner ∧ 1 ∉ s.net.portDead
        ∧ 2 ≤ (portEntry s 1).party ∧ partnerPort s (portEntry s 1).party = some 1 ∧ (∃ l ∈ portLinks (portEntry s 1), (s.link l).inPort = true))
    ∧ (let s := coherentNode .falling; ∃ d, findDomain s 0 = some d ∧ d.state = .falling
        ∧ ∃ e ∈ s.coh.dir, inDomain s d (e.line * 64) = true ∧ e.state = .o)
    ∧ (let s := coherentNode .up; ∃ n, s.coh.notices = [n] ∧ n.accepted = false ∧ n.join = true ∧ n.agent ∈ s.coh.joined
        ∧ routePort s 15 (poolAddr n.dest 0 0) = some 0)
    ∧ (let s := coherentNode .up; ∃ d, findDomain s (field (0 : W64) 50 14) = some d ∧ ⟨s.node, (0 : Fin 8)⟩ ∈ d.agents) :=
  ⟨coherentNode_still, ⟨_, rfl, rfl, by decide⟩, ⟨by decide, _, rfl, rfl, rfl⟩, ⟨_, _, rfl, by decide, rfl, rfl, rfl⟩, by decide,
    ⟨_, rfl, rfl, _, List.mem_singleton.2 rfl, by decide, rfl⟩, ⟨_, rfl, rfl, rfl, by decide, by decide⟩, _, rfl, by decide⟩

/-- A READY node whose host port 0 maps page 0 of its addresses to its own page at 16,384, PRIVATE. -/
def hosting : State :=
  { inPhase .released with
    boot := { phase := .released, ready := true }
    hosts := [(0, { cxl := true, l0 := true, snoops := [(7, 1, .snpInv)] })]
    party := [(0, { inForce := [(0, { base := 8192, count := 1, gen := 0 })] })]
    store := { mem := [(8192, 0xE0#8), (8193, 0x08#8), (8209, 0x40#8)] }
    hw := { ports := [{ valid := true, kind := .switch, firstLink := 1 }] }
    net := { links := [(1, { mode := .up, inPort := true })] }
    map := { pool := [0, 1] }
    coh := { relays := [{ home := 1, snpId := 7, kind := .snpInv, agent := ⟨0, 0⟩, addr := 2 ^ 54 + 64, waits := 1 }] } }

theorem hosting_open (op : Op) (h : op = .load ∨ op = .store ∨ op = .evict) :
    HostOpen hosting 0 64 op { addr := 16448, va := 64, len := 64, cls := .priv, coding := .plain, durable := false } := by
  rcases h with rfl | rfl | rfl <;>
  refine ⟨by decide, by decide, ⟨_, [], rfl, by decide⟩, by decide, by decide, fun _ h => absurd h (by simp [hosting, inPhase, State.reset]), by decide, ?_⟩ <;>
  · rintro op (rfl | ⟨h, rfl | rfl⟩ | ⟨h, rfl⟩) st o e
    all_goals revert e
    all_goals first | exact absurd h (by decide) | (intro e; cases e)

theorem witness_HostRequestsAreQueued :
    (∀ op : Op, op = .load ∨ op = .store ∨ op = .evict → ∃ q, HostOpen hosting (0 : Fin 2) 64 op q)
    ∧ (∃ x y, Quiet hosting ∧ (hosting.hostSt 0).snoops.find? (fun x => x.1 == 7) = some x ∧ hosting.coh.relays = [y] ∧ y.snpId = 7
        ∧ y.agent = ⟨hosting.node, 0⟩ ∧ y.waits = 1 ∧ y.best = 0 ∧ y.home ≠ hosting.node ∧ addrNode (poolAddr y.home 0 (addrOffset y.addr)) = y.home
        ∧ y.home ∈ hosting.map.pool ∧ routePort hosting 15 (poolAddr y.home 0 (addrOffset y.addr)) = some 0)
    ∧ ∃ x ∈ (hosting.hostSt 0).snoops, x.1 = 7 :=
  ⟨fun op h => ⟨_, hosting_open op h⟩, ⟨_, _, ⟨rfl, fun _ h => absurd h (by simp [hosting, inPhase, State.reset])⟩, rfl, rfl, rfl, rfl, rfl, rfl, by decide, by decide, by decide, by decide⟩,
    _, List.mem_singleton.2 rfl, rfl⟩

def inWindow : SluiceWindow := { window := 3, len := 2 ^ 20, localBase := 2 ^ 16, localParty := 5, farNode := 9, farWindow := 2 }
def pieceReq (op : Op) (data : Bytes) : Req := { op, addr := poolAddr 0 1 (3 * 2 ^ 46 + 8192), data, src := .port 0 0, origin := ⟨9, 15⟩ }
def gateway (w : SluiceWindow) (r : Req) : State := { serving r with hw := { (serving r).hw with windows := [w] } }
def stagedAt : Stage := { window := 3, block := 1, granules := [(64, List.replicate 64 1#8)] }
theorem witness_SluicePiecesAndPins :
    (Inbound (gateway inWindow (pieceReq .sluicePut (toBytes 1 8 ++ List.replicate 64 1#8))) (pieceReq .sluicePut (toBytes 1 8 ++ List.replicate 64 1#8)) inWindow
      ∧ ∀ g ∈ marked (pieceReq .sluicePut (toBytes 1 8 ++ List.replicate 64 1#8)), addrNode (inWindow.localBase + 8192 + 64 * g.1) = 0)
    ∧ Inbound (gateway inWindow (pieceReq .sluiceGet [])) (pieceReq .sluiceGet []) inWindow
    ∧ routePort (onPort .switch { mode := .up }) 15 (poolAddr 9 1 (2 * 2 ^ 46 + 8192)) = some 0
    ∧ (let s := serving { reqOf .pinMsg 0 64 with origin := ⟨0, 2⟩ }; spaceCheck s ⟨0, 2⟩ .pinMsg .priv 64 64 = none ∧ (tierOf s 0).state = .plain) := by
  refine ⟨⟨⟨by decide, by decide, by decide, by decide, by decide, rfl, ⟨rfl, rfl⟩, rfl, by decide, ⟨rfl, by intro x hx; cases hx⟩⟩, by decide⟩,
    ⟨by decide, by decide, by decide, by decide, by decide, rfl, ⟨rfl, rfl⟩, rfl, by decide, ⟨rfl, by intro x hx; cases hx⟩⟩, by decide, by decide⟩

def syncing (x : PartySt) : State := { inPhase .released with boot := { State.reset.boot with phase := .released, ready := true }, party := [(3, x)] }
def wordsAt (start : Nat) : Nat × Nat × Nat × Nat := (4096 * start + 2048, 0, 0, 0)
theorem witness_MirrorSyncsAreChecked :
    (syncing {}).boot.ready = true
    ∧ (let x := ((syncing { syncState := .checking, syncEntries := [wordsAt 5, wordsAt 4] }).pty 3); x.syncState = .checking ∧ x.syncPass = false ∧ x.syncBad = none
      ∧ goodEntry x.syncEntries 0 ∧ ¬ goodEntry x.syncEntries 1)
    ∧ (let x := ((syncing { syncState := .checking, syncEntries := [wordsAt 4, wordsAt 5] }).pty 3); (∀ j < 2, goodEntry x.syncEntries j) ∧ (coherentEntries x.syncEntries).length ≤ 4096)
    ∧ (let s := syncing { syncState := .inForce, inForce := [(0, ⟨0, 0, 1⟩)] }; olderTransfer s 3 0 1 = false) := by
  refine ⟨rfl, ⟨rfl, rfl, rfl, ⟨_, rfl, by decide, .inl rfl⟩, ?_⟩, ⟨?_, by decide⟩, by decide⟩
  · rintro ⟨w, hw, h1, h | ⟨v, hv, h⟩⟩
    · cases h
    · cases hw; cases hv; revert h; decide
  · intro j hj
    interval_cases j
    · exact ⟨_, rfl, by decide, .inl rfl⟩
    · exact ⟨_, rfl, by decide, .inr ⟨_, rfl, by decide⟩⟩

def inService : State := { inPhase .released with boot := { State.reset.boot with phase := .released, ready := true }, pins := { State.reset.pins with mainRails := true } }
theorem witness_TeardownShutdownAndPowerOn :
    (KeeperServes inService ∧ inService.boot.ready = true ∧ inService.pins.mainRails = true)
    ∧ (acceptedLeft { inService with map := { teardown := true } } = false ∧ rillsOn { inService with map := { teardown := true } } = [])
    ∧ (∀ u ∈ [[], [2]], let s := { inService with map := { teardown := true }, keeper := { inService.keeper with written := some 0 }, store := { tier := [(3, { state := .plain, dirty := u })] } }
      acceptedLeft s = false ∧ rillsOn s = [] ∧ s.keeper.written.isSome = true ∧ (dirtyAll s = [] ↔ u = []))
    ∧ targetKept { inService with map := { teardown := true }, hw := { slice := { extents := [{ start := 0, units := 16, owner := .single ⟨0, 2⟩, cls := .priv }] } } }
        { op := .load, addr := 64, len := 64 } = false
    ∧ (let s := inPhase .down; s.boot.phase = .down ∧ s.keeper.up = true ∧ s.keeper.busy = false ∧ s.boot.byAlarm = false) := by
  refine ⟨⟨⟨by decide, by decide, by decide⟩, by decide, by decide⟩, by decide, by decide, by decide, by decide⟩

def tiered (e : TierEntry) (ms : List Move) : State :=
  { inPhase .released with hw := { slice := { extents := [{ start := 0, units := 16, owner := .single ⟨0, 15⟩, cls := .priv }] }
                                   settings := { State.reset.hw.settings with lowWater := 100, highWater := 100, flashBelow := 4 } }
                           store := { tier := [(0, e)], moves := ms } }
theorem witness_TierPagesMove :
    (findMove (tiered { state := .moving } [{ page := 0, src := .flash, dest := .plain, frame := 3, race := 0 }]) 0).isSome = true
    ∧ (∀ (r : Bool), findMove (tiered { state := .moving } [{ page := 0, src := .plain, dest := if r then .riffle else .flash, frame := 3, race := 0 }]) 0
        = some { page := 0, src := .plain, dest := if r then .riffle else .flash, frame := 3, race := 0 })
    ∧ (let s := tiered { state := .plain } []; sweepList s 0 = [(0, { state := .plain })] ∧ tierOf s 0 = { state := .plain } ∧ isDamaged s 0 = false ∧ freeCount s 0 < waterMark s 0 100 ∧ steerFree s 0 < waterMark s 0 100)
    ∧ (let x : ScrubRow := { race := 0, channel := 0, row := 5, frames := [2], corrected := 16 }; ∀ e ∈ (tiered { state := .plain } []).store.tier, e.2.state = .plain → e.2.frame ∉ x.frames) := by
  refine ⟨by decide, by decide, by decide, by decide⟩

def durReq : Req := { reqOf .store 0 64 with durable := true }
def withShare (gib : Nat) : State := { serving durReq with hw := { (serving durReq).hw with parties := List.replicate 8 { shareGib := gib } } }
theorem witness_DurableWritesReachFlash :
    (∀ n ∈ [0, 1], DurableStore (withShare n) durReq ∧ durReq ∈ (withShare n).weir.pipe)
    ∧ durFate (withShare 1) 2 (unitsOf 64 64) = .now ∧ durFate (withShare 0) 2 (unitsOf 64 64) = .through
    ∧ (let s := { withShare 1 with store := { (withShare 1).store with parkedW := [durReq] } }
      s.store.parkedW.find? (fun r => r.party == 2 && durFate s 2 (unitsOf (addrOffset r.addr) r.len) != .parkShare) = some durReq)
    ∧ writeThrough (withShare 0) 2 = true ∧ 2 * dirtyUnits (withShare 1) 2 < shareUnits (withShare 1) 2 ∧ shareUnits (withShare 0) 2 ≤ 2 * dirtyUnits (withShare 0) 2 := by
  refine ⟨?_, by decide, by decide, by decide, by decide, by decide, by decide⟩
  intro n hn
  simp only [List.mem_cons, List.not_mem_nil, or_false] at hn
  rcases hn with rfl | rfl <;>
  · refine ⟨⟨by decide, rfl, ⟨rfl, rfl⟩, by decide, by decide, by decide, ?_, by decide, by decide, by decide, ⟨rfl, fun x hx => by cases hx⟩, fun x hx => by cases hx⟩, List.mem_singleton.2 rfl⟩
    intro l _; rfl

def runInService : State := { inService with pins := { inService.pins with standby := true, dieReset := false, inputsOn := true } }
def shaken : State := { runInService with keeper := { runInService.keeper with gravSamples := List.replicate 256 (0, 0, 128), gravSum := (0, 0, 32768) } }
theorem witness_FlushesAreTriggeredAndProgrammed :
    (Unflushed runInService ∧ runInService.pins.pfwTaken = false ∧ runInService.pins.brace = false)
    ∧ (let s : State := { inPhase (.awaiting 4) with pins := { State.reset.pins with standby := true, dieReset := true } }; s.pins.pfwTaken = false ∧ s.boot.phase = .awaiting 4)
    ∧ (let s : State := { inPhase .released with pins := { State.reset.pins with standby := true, dieReset := false } }; s.pins.pfwTaken = false ∧ s.boot.ready = false)
    ∧ atLevel shaken (0, 0, 0) 900 = true ∧ atLevel shaken (0, 0, 128) 900 = false ∧ 256 ≤ shaken.keeper.gravSamples.length
    ∧ (let s : State := { runInService with flush := { kind := .power, set := [3], left := [3], manifestDone := true } }; s.flush.kind ≠ .none ∧ 3 ∈ s.flush.left) := by
  refine ⟨⟨⟨by decide, by decide, by decide⟩, by decide, by decide⟩, by decide, by decide, ?_, ?_, ?_, by decide⟩
  all_goals simp only [atLevel, offGravity, shaken, List.length_replicate]
  all_goals decide

theorem witness_FlushesEndAndPowerGoes :
    (let s : State := { runInService with flush := { kind := .power, manifestDone := true, serdesOff := true } }; flushReady s = true ∧ s.boot.phase ≠ .flushed)
    ∧ (let s : State := { runInService with flush := { kind := .early, manifestDone := true, toPower := true, braceNext := [1] } }; flushReady s = true ∧ s.flush.pending = false)
    ∧ flushActive { runInService with flush := { pending := true } } = true
    ∧ braceQuiet { runInService with flush := { braced := true, causes := [1] } } = true
    ∧ runInService.pins.standby = true ∧ runInService.weir.pipe = [] := by
  refine ⟨by decide, by decide, by decide, by decide, by decide, by decide⟩

def onRill (e : RillEnt) : State :=
  { inService with hw := { parties := (List.replicate 8 {}).set 2 { rillFirst := 4, rillCount := 2 } }
                   rill := { table := [(4, e)], cache := [4] } }
theorem witness_RillCommandsChangeRills :
    (∀ e : RillEnt, RillServed (onRill e) 2 4) ∧ (Machine.rillOf (onRill {}) 4).state = .off ∧ inPrivate (onRill {}) 2 (imageAddr (onRill {}) 2 4) 128 = false
    ∧ readParams (onRill { kind := 1 }) 2 4 = some [] ∧ paramsOk (onRill { kind := 1 }) 2 4 [] = true
    ∧ (Machine.rillOf (onRill { state := .active, descTail := 3 }) 4).fault ≠ faultCompWrite
    ∧ (∀ j ∈ (onRill { state := .active }).rill.jobs, j.rill = 4 → j.outstanding ≠ 0)
    ∧ imageOk (words64 16 (toBytes (2 ^ 64 * 4 + 2 ^ 128 * 4) 128)) = true ∧ ownsRill (onRill {}) 1 4 = false := by
  refine ⟨fun e => ⟨by show ownsRill (onRill {}) 2 4 = true; decide, rfl, by show (0 : Nat) ≠ 1; decide, by show 4 ∈ [4]; simp⟩, by decide, by decide, rfl, by decide, by decide, ?_, by decide, by decide⟩
  intro j hj; cases hj

def copyReady (op : Nat) : State :=
  { inService with
    hw := { parties := (List.replicate 8 {}).set 2 { rillFirst := 4, rillCount := 2 }
            slice := { extents := [{ start := 0, units := 16, owner := .single ⟨0, 2⟩, cls := .priv, permRead := true, permWrite := true }] } }
    store := { mem := [(7, BitVec.ofNat 8 op)], tier := [(0, { state := .plain })] }
    rill := { table := [(4, { state := .active, descTail := 1 })], cache := [4] } }
def recordReady : State :=
  { inService with rill := { table := [(4, { state := .active, running := 1 })], cache := [4], due := [{ rill := 4, index := 0, status := .ok }] } }
theorem witness_DescriptorsStartAndComplete :
    MayStart (copyReady 1) 4 ∧ MayStart (copyReady 2) 4
    ∧ (readDesc (copyReady 1) 4 0).map (fun ws => (bits (nth 0 ws 0) 56 8, bit (nth 0 ws 0) 55)) = some (1, false)
    ∧ (readDesc (copyReady 2) 4 0).map (fun ws => bits (nth 0 ws 0) 56 8) = some 2 ∧ readDesc (onRill { state := .active, descTail := 1 }) 4 0 = none
    ∧ recordsOpen { Machine.rillOf (onRill { state := .active }) 4 with descTail := 3 } ≤ 16
    ∧ NoLandings recordReady ∧ recordReady.rill.due.find? (fun d => d.rill == 4 && d.index == 0) = some { rill := 4, index := 0, status := .ok }
    ∧ recordsOpen (Machine.rillOf recordReady 4) < 16 := by
  refine ⟨⟨(fun x hx => by cases hx), by decide, by decide, by decide, by decide, by decide, by decide⟩, ⟨(fun x hx => by cases hx), by decide, by decide, by decide, by decide, by decide, by decide⟩,
    by decide, by decide, by decide, by decide, (fun x hx => by cases hx), by decide, by decide⟩

/-- The bytes of one range entry that maps the first 64 KiB to themselves, and its context. -/
def identityMem : List (Nat × Byte) := [(0, 0xE0#8), (1, 0x08#8), (8, 15#8)]
def identityCtx : Option Ctx := some { base := 0, count := 1, gen := 0 }
def copyJob (w2 : Nat) : Job := { rill := 4, index := 0, party := 0, kind := 0, op := 1, words := [8192, 4096, w2, 0, 0, 0], ctx := identityCtx }
def running (j : Job) (l : List Landed) (dma : List DmaOp) : State :=
  { inService with rill := { jobs := [j], dma }, weir := { landed := l }, store := { mem := identityMem } }
def fetchJob (c : Chunk) : Job := { copyJob (256 + 2 ^ 48) with begun := true, counterOk := true, next := 1, chunks := [c] }
theorem witness_CopiesReadWriteAndEnd :
    (copyOps (copyJob 0)).len = 0 ∧ (copyOps (copyJob (256 + 13 * 2 ^ 44))).chunkLog2 = 13 ∧ findJob (running (copyJob 0) [] []) 4 0 = some (copyJob 0)
    ∧ NoLandings (running (copyJob 0) [] []) ∧ Uncut (running (copyJob 0) [] []) 4
    ∧ HostFetch (copyJob (256 + 2 ^ 48)) ∧ HostFetch (fetchJob { num := 0, reads := 1 }) ∧ rillOutstanding (running (copyJob 0) [] []) 4 < 4096
    ∧ (vpiece (running (copyJob 0) [] []) identityCtx 4096).map (·.coding) = some .plain
    ∧ (running (fetchJob { num := 0, reads := 1 }) [] [{ tag := 9, rill := 4, index := 0, num := 0 }]).rill.dma.find? (fun d => d.tag == 9) = some { tag := 9, rill := 4, index := 0, num := 0 }
    ∧ translateIn (running (fetchJob { num := 0, reads := 1 }) [] []) identityCtx 4096 256 .store
        = .pieces [{ addr := 4096, va := 4096, len := 256, cls := .priv, coding := .plain, durable := false }]
    ∧ (let x : Landed := { req := { reqOf .store 0 256 with src := .rill 4 0 0 }, status := .ok }
       let s := running (fetchJob { num := 0, reads := 1, readsDone := 1, issued := 1 }) [x] []
       s.weir.landed = [x] ∧ Uncut s 4 ∧ HostFetch (fetchJob { num := 0, reads := 1, readsDone := 1, issued := 1 })) := by
  have u : ∀ j l d, j.cut = false → j.withdrawn = false → Uncut (running j l d) 4 := fun j l d h1 h2 x hx _ => by
    have : x = j := by simpa [running] using hx
    rw [this]; exact ⟨h1, h2⟩
  exact ⟨by decide, by decide, by decide, (fun x hx => by cases hx), u _ _ _ rfl rfl,
    by constructor <;> decide, by constructor <;> decide, by decide, by decide, by decide, by decide,
    rfl, u _ _ _ rfl rfl, by constructor <;> decide⟩

/-- A rill at position 10 of a course of two entries: the first fires there for position 14, the second at position 20. -/
def onCourse (reach : Nat) (action : Nat) : State :=
  { copyReady 1 with
    hw := { parties := (List.replicate 8 {}).set 2 { rillFirst := 4, rillCount := 2 }
            slice := { extents := [{ start := 0, units := 16, owner := .single ⟨0, 2⟩, cls := .priv, permRead := true, permWrite := true }] } }
    store := { mem := identityMem ++ [(4099, BitVec.ofNat 8 (16 * action)), (4100, 4#8), (4102, 14#8), (4105, 128#8), (4131, 32#8), (4134, 20#8)], tier := [(0, { state := .plain })] }
    party := [(2, { inForce := [(0, { base := 0, count := 1, gen := 0 })] })]
    rill := { table := [(4, { state := .active, armed := true, courseBase := 4096, courseCount := 2, lapLenM1 := 31, reach })], cache := [4] } }
def reachWord (rill v : Nat) : W64 := BitVec.ofNat 64 (rill + v * 2 ^ 32)
def reachFrameWord : W64 := 0x1000040000000A6A#64
def tilePiece : Piece := { addr := 32768, va := 32768, len := 4096, cls := .priv, coding := .plain, durable := false }
theorem witness_TideCountsAndReachFires :
    (let s := onCourse 3 2; (∀ v ∈ [5, 10, 15], Advances s 2 4 v) ∧ OnCourse s 2 4
      ∧ (readCourse s 4 0).1 = .ok ∧ (readCourse s 4 1).1 = .ok ∧ layerOk (Machine.rillOf s 4) (readCourse s 4 0).2 = true ∧ layerOk (Machine.rillOf s 4) (readCourse s 4 1).2 = true
      ∧ firePoint (Machine.rillOf s 4) (readCourse s 4 0).2 = 10 ∧ firePoint (Machine.rillOf s 4) (readCourse s 4 1).2 = 20
      ∧ serCmp 32 5 10 = .older ∧ serCmp 32 10 10 ≠ .older ∧ serCmp 32 15 10 ≠ .older ∧ serCmp 32 10 20 = .older ∧ serCmp 32 15 20 = .older ∧ serCmp 32 14 10 = .newer ∧ serCmp 32 14 15 ≠ .newer
      ∧ (let c := (readCourse s 4 0).2; let ctx := ctxOf s 2 0; rillParty s 4 = 2 ∧ entryOk s 2 ctx c = true ∧ c.action = 2 ∧ c.len = 4096 ∧ translateIn s ctx c.src 4096 .load = .pieces [tilePiece])
      ∧ rillOutstanding s 4 < 4096)
    ∧ field (reachWord 4 10) 0 16 = 4 ∧ field (reachWord 4 10) 32 32 = 10
    ∧ (crc8 [16, 0, 4, 0, 0, 0, 10] = 106 ∧ (List.range 7).map (fun i => field reachFrameWord (56 - 8 * i) 8) = [16, 0, 4, 0, 0, 0, 10] ∧ field reachFrameWord 0 8 = 106
      ∧ field reachFrameWord 40 16 = 4 ∧ field reachFrameWord 60 4 = 1 ∧ field reachFrameWord 8 32 = 10) := by
  refine ⟨⟨?_, by constructor <;> decide, by constructorm* _ ∧ _ <;> decide⟩, by decide, by decide, ?_⟩
  swap
  · exact ⟨by simp [crc8, crc8Step, List.range, List.range.loop, bit], by decide, by decide, by decide, by decide, by decide⟩
  intro v hv
  simp only [List.mem_cons, List.not_mem_nil, or_false] at hv
  rcases hv with rfl | rfl | rfl <;> exact ⟨⟨by decide, by decide, by decide⟩, by decide, by decide, by decide⟩

def millJobOf (op w3 w4 : Nat) : Job := { rill := 4, index := 0, party := 2, kind := 1, op, words := [0, w3, w4, 0, 0, 0], ctx := identityCtx }
def pieceJob (op w4 : Nat) (c : Chunk) (builds : List Nat) : Job := { millJobOf op 0 w4 with begun := true, counterOk := true, next := 1, chunks := [c], builds }
def millState (j : Job) : State :=
  { inService with
    hw := { parties := (List.replicate 8 {}).set 2 { rillFirst := 4, rillCount := 2, cbFirst := 7, cbCount := 2 }
            slice := { extents := [{ start := 0, units := 16, owner := .single ⟨0, 2⟩, cls := .priv, permRead := true, permWrite := true }] } }
    store := { mem := identityMem, tier := [(0, { state := .plain })] }
    rill := { table := [(4, { state := .active, running := 1, kind := 1 })], cache := [4], jobs := [j] }
    shoal := { slots := [(7, { state := .building })], base := [(2, 0)] }
    mills := [(3, { job := some (4, 0) })] }
theorem millState_job {j : Job} (h1 : j.rill = 4) (h2 : j.index = 0) (h3 : j.kind = 1) (h4 : j.err = none) (h5 : j.word 5 = 0) (h6 : j.cut = false) (h7 : j.withdrawn = false) : MillJob (millState j) 4 0 j :=
  ⟨(fun x hx => by cases hx), (fun x hx _ => by
    have : x = j := by simpa [millState] using hx
    rw [this]; exact ⟨h6, h7⟩), by unfold findJob millState; simp [h1, h2], h3, h4, h5⟩
/-- A ready node whose party 2 has codebook slots 7 and 8 with their array at 0, slot 7 as given. -/
def books (x : Slot) : State :=
  let s := millState (millJobOf 1 0 0)
  { s with shoal := { s.shoal with slots := [(7, x)] } }
def readPiece (d : Bytes) : Chunk := { num := 0, reads := 1, readsDone := 1, got := [(0, d)] }
/-- A sample of two sub-vectors builds a book. -/
theorem witness_BuiltInOperationsRun :
    (∀ op ∈ [2, 3, 4, 5], MillJob (millState (millJobOf op 0 0)) 4 0 (millJobOf op 0 0) ∧ (∀ y ∈ (millState (millJobOf op 0 0)).rill.jobs, wantsPiece (millState (millJobOf op 0 0)) y = false)
      ∧ freeMills (millState (millJobOf op 0 0)) 0 2 ≠ [] ∧ rillOutstanding (millState (millJobOf op 0 0)) 4 < 4096)
    ∧ (makeResident 0 7 2 (books { state := .live })).isSome = true
    ∧ (millCount (millJobOf 2 0 (2 ^ 56 + 32)) = 32 ∧ builtinBad (millJobOf 2 0 (2 ^ 56 + 32)) (millState (millJobOf 2 0 (2 ^ 56 + 32))) = none ∧ isMx (millFmtIn (millJobOf 2 0 (2 ^ 56 + 32))) = false
      ∧ millCount (millJobOf 2 0 (2 ^ 56 + 32)) * elemBits (millFmtIn (millJobOf 2 0 (2 ^ 56 + 32))) / 8 = 128)
    ∧ millFmtIn (millJobOf 2 0 (13 * 2 ^ 60 + 1)) = 13 ∧ bits ((millJobOf 3 0 (3 * 2 ^ 62 + 1)).word 4) 62 2 = 3 ∧ (millJobOf 4 64 1).word 3 % 4096 ≠ 0 ∧ millCount (millJobOf 5 0 3) % dOf (encDCode (millJobOf 5 0 3)) ≠ 0
    ∧ translateIn (millState (millJobOf 2 0 0)) identityCtx 0 128 .load = .pieces [{ addr := 0, va := 0, len := 128, cls := .priv, coding := .plain, durable := false }]
    ∧ (∀ op ∈ [2, 3], MillJob (millState (pieceJob op 4 (readPiece (List.replicate 16 1#8)) [])) 4 0 (pieceJob op 4 (readPiece (List.replicate 16 1#8)) []) ∧ millCount (pieceJob op 4 (readPiece []) []) = 4)
    ∧ (slotOf (millState (pieceJob 5 (7 * 2 ^ 48 + 4) (readPiece []) [7])) 7).state = .building ∧ encSlot (pieceJob 5 (7 * 2 ^ 48 + 4) (readPiece []) [7]) = 7
    ∧ (let s := millState (pieceJob 5 (7 * 2 ^ 48 + 4) (readPiece []) [7]); spanBad s 2 .load .any (slotEntry s 2 7) 32768 = none ∧ entryPlaced s 2 7 = true)
    ∧ (millOfJob (millState (millJobOf 1 0 0)) 4 0 = some 3 ∧ (vpiece (millState (millJobOf 1 0 0)) identityCtx 0).map (·.cls) = some .priv ∧ vpiece (millState (millJobOf 1 0 0)) none 0 = none
      ∧ badStep (tableOf 1 (List.replicate 16 0#8)) ≠ none ∧ badStep [(BitVec.ofNat 64 (2 ^ 58 + 2 ^ 53), 0#64)] = none) := by
  refine ⟨?_, by decide, by decide, by decide, by decide, by decide, by decide, by decide, ?_, by decide, by decide, by decide, by decide⟩
  · intro op h
    refine ⟨millState_job rfl rfl rfl rfl rfl rfl rfl, fun y hy => ?_, ?_⟩
    · cases List.mem_singleton.1 (show y ∈ [millJobOf op 0 0] from hy)
      simp [wantsPiece, millJobOf]
    · revert op; decide
  · intro op _; exact ⟨millState_job rfl rfl rfl rfl rfl rfl rfl, show bits 4 0 40 = 4 by decide⟩

/-- A mill that runs a descriptor of party 2 and stands at the step of a word. -/
def atWord (w0 w1 : W64) : State := { millState (millJobOf 1 0 0) with mills := [(3, { job := some (4, 0), table := [(w0, w1), (w0, w1)], regs := List.replicate 16 2048#64, lc := List.replicate 4 (2, 7) })] }
/-- Word 0 of a step of a kind that never branches. -/
def plainStep (kind : Nat) : W64 := BitVec.ofNat 64 (kind * 2 ^ 58 + 2 ^ 53)
theorem atWord_step {w0 w1 : W64} {kind : Nat} (h : (mstep (w0, w1)).kind = kind) : AtStep (atWord w0 w1) 3 kind (mstep (w0, w1)) (4, 0) (millJobOf 1 0 0) :=
  ⟨rfl, rfl, ⟨rfl, rfl⟩, (fun h => nomatch h), rfl, h, ⟨rfl, rfl, rfl⟩, ⟨rfl, rfl⟩⟩
theorem witness_MillsControlTheirSteps :
    (∀ kind ∈ [kNop, kSetlc, kLoop, kSetf, kFence, kWait, kEnd], AtStep (atWord (plainStep kind) 3#64) 3 kind (mstep (plainStep kind, 3#64)) (4, 0) (millJobOf 1 0 0)
      ∧ (kind = kLoop ∨ (mstep (plainStep kind, 3#64)).neverBranches = true))
    ∧ ((mstep (0#64, 0#64)).neverBranches = false ∧ (mstep (0#64, 0#64)).cond = 0 ∧ (mstep (BitVec.ofNat 64 (2 ^ 54), 0#64)).neverBranches = false ∧ (mstep (BitVec.ofNat 64 (2 ^ 54), 0#64)).cond = 1)
    ∧ nth (0, 0) (Machine.millOf (atWord 0#64 0#64) 3).lc 0 = (2, 7)
    ∧ OneLocal (atWord (plainStep kWait) 0#64) 3 (millJobOf 1 0 0) (stepVa (Machine.millOf (atWord (plainStep kWait) 0#64) 3) (mstep (plainStep kWait, 0#64))) 8 .load 0#64
        { addr := 2048, va := 2048, len := 8, cls := .priv, coding := .plain, durable := false } := by
  refine ⟨?_, by decide, by decide, by decide, by decide, by decide, ⟨by decide, fun _ h => (by cases h)⟩, by decide⟩
  intro kind hk
  refine ⟨atWord_step ?_, ?_⟩
  all_goals
    simp only [List.mem_cons, List.not_mem_nil, or_false] at hk
    repeat' obtain rfl | hk := hk
    all_goals decide

/-- Word 0 of a step that never branches, with FUNC, FA and FD. -/
def kindWord (kind func fa fd : Nat) : W64 := BitVec.ofNat 64 (kind * 2 ^ 58 + 2 ^ 53 + func * 2 ^ 26 + fa * 2 ^ 22 + fd * 2 ^ 18)
/-- Word 1 of a step of N or LEN n. -/
def lenWord (n : Nat) : W64 := BitVec.ofNat 64 ((n - 1) * 2 ^ 52)
def plain2048 (len : Nat) : Piece := { addr := 2048, va := 2048, len, cls := .priv, coding := .plain, durable := false }
/-- A mill's next step there, and one access of it. -/
def StepsTo (kind func fa : Nat) (len : Nat) (op : Op) (opf : W64) : Prop :=
  let w0 := kindWord kind func fa 0; let t := mstep (w0, lenWord len)
  AtStep (atWord w0 (lenWord len)) 3 kind t (4, 0) (millJobOf 1 0 0) ∧ t.neverBranches = true ∧ stepVa (Machine.millOf (atWord w0 (lenWord len)) 3) t = 2048
  ∧ stepLocal (Machine.millOf (atWord w0 (lenWord len)) 3) t + t.len ≤ 0x30000 ∧ t.len = len
  ∧ OneLocal (atWord w0 (lenWord len)) 3 (millJobOf 1 0 0) 2048 len op opf (plain2048 len)
/-- The same state with a switch port that goes to delta group 0, to which party 2 may send. -/
def grouped (w0 w1 : W64) : State :=
  { atWord w0 w1 with hw := { (atWord w0 w1).hw with ports := [{ valid := true, kind := .switch, firstLink := 0 }], deltas := [{ group := 0, member := true, senders := 4 }] }
                      net := { links := [(0, { mode := .up, inPort := true })] } }
def landedStep : MemStep := { id := 5, step := 0, addr := 2048, lo := 2048, len := 8, isRead := true }
def landedAt (st : Status) : Landed := { req := { op := .load, len := 8, src := .mill 3, tag := 5 }, status := st, data := [1#8] }
/-- A mill with one LD outstanding that has landed. -/
def landing (st : Status) : State :=
  { atWord 0#64 0#64 with mills := [(3, { job := some (4, 0), table := [(0#64, 0#64)], steps := [landedStep] })], weir := { landed := [landedAt st] } }
def provCkpt : Checkpoint := { regs := [], lc := [], flags := [], soft := .ok, pc := 0, load := landedStep }
def provMill (resolved : Bool) : State :=
  { atWord 0#64 0#64 with mills := [(3, { job := some (4, 0), ckpt := some provCkpt, steps := [landedStep] })]
                          net := { ptags := [{ port := millPort 3, ptag := 1, link := 0, line := 1, req := some provReq, answered := true, resolved }] } }
theorem witness_MillsComputeAndAccessMemory :
    (∀ f ∈ [0, 6, 10, 11, 12, 13], AtStep (atWord (kindWord kSalu f 0 0) 0#64) 3 kSalu (mstep (kindWord kSalu f 0 0, 0#64)) (4, 0) (millJobOf 1 0 0)
      ∧ (mstep (kindWord kSalu f 0 0, 0#64)).func = f ∧ (mstep (kindWord kSalu f 0 0, 0#64)).neverBranches = true)
    ∧ (∀ f ∈ [0, 1], ∀ w ∈ [0#64, 4#64], AtStep (atWord (kindWord kSld f 0 0) w) 3 kSld (mstep (kindWord kSld f 0 0, w)) (4, 0) (millJobOf 1 0 0)
      ∧ (mstep (kindWord kSld f 0 0, w)).func = f ∧ bits (mstep (kindWord kSld f 0 0, w)).w1 0 18 % 8 = w.toNat
      ∧ ((Machine.millOf (atWord (kindWord kSld f 0 0) w) 3).reg 0 + 8) ≤ 0x30000)
    ∧ StepsTo kLd 0 0 64 .load 0#64 ∧ StepsTo kSt 0 0 64 .store 0#64
    ∧ StepsTo kRed 1 0 64 .reduce (stepOpf (mstep (kindWord kRed 1 0 0, lenWord 64)) (2 ^ 54))
    ∧ (atomType 11 = some 0 ∧ StepsTo kAtom 0 11 (atypeSize 0) .atomic (stepOpf (mstep (kindWord kAtom 0 11 0, lenWord (atypeSize 0))) 0))
    ∧ (∀ g ∈ [BitVec.ofNat 64 (2 ^ 44 + 63 * 2 ^ 52)], let t := mstep (kindWord kGather 0 0 0, g); let s := atWord (kindWord kGather 0 0 0) g
      AtStep s 3 kGather t (4, 0) (millJobOf 1 0 0) ∧ t.rows = 2 ∧ t.rowLen = 64 ∧ (Machine.millOf s 3).vaddr t.d t.idxOff = some 2048 ∧ (Machine.millOf s 3).vaddr t.b t.dstOff = some 2048
      ∧ words32 2 ((Machine.millOf s 3).getMem 2048 8) = [0, 0] ∧ OneLocal s 3 (millJobOf 1 0 0) 2048 64 .load 0#64 (plain2048 64) ∧ ctxOf s 2 0 ≠ (millJobOf 1 0 0).ctx)
    ∧ (StepsTo kMcast 0 0 64 .mcastStore 0#64
      ∧ Uncovered (atWord (kindWord kMcast 0 0 0) (lenWord 64)) (addrOffset (plain2048 64).addr) 64 ∧ mayMulticast (atWord (kindWord kMcast 0 0 0) (lenWord 64)) (2048 % 256) 2 = false
      ∧ let s := grouped (kindWord kMcast 0 0 0) (lenWord 64); AtStep s 3 kMcast (mstep (kindWord kMcast 0 0 0, lenWord 64)) (4, 0) (millJobOf 1 0 0)
        ∧ OneLocal s 3 (millJobOf 1 0 0) 2048 64 .mcastStore 0#64 (plain2048 64) ∧ mayMulticast s (2048 % 256) 2 = true ∧ routePort s 2 (2048 % 256 * 2 ^ 54) = some 0)
    ∧ (∀ st ∈ [Status.ok, .short, .faultUnmapped], StepLands (landing st) 3 (4, 0) (millJobOf 1 0 0) landedStep (landedAt st))
    ∧ (∀ b, (∃ p, (provMill b).net.ptags.find? (fun p => p.port == millPort 3 && p.answered) = some p ∧ p.req = some provReq ∧ p.resolved = b
        ∧ (b = false → confirms (provMill b) provReq.origin p = true)) ∧ (Machine.millOf (provMill b) 3).ckpt = some provCkpt ∧ (Machine.millOf (provMill b) 3).ended = none
        ∧ (Machine.millOf (provMill b) 3).steps ≠ []) := by
  refine ⟨?_, ?_, ?_, ?_, ?_, ⟨by decide, ?_⟩, ?_, ⟨?_, fun _ h => (by cases h), by decide, ?_, ?_, by decide, by decide⟩, ?_, ?_⟩
  · intro f hf
    simp only [List.mem_cons, List.not_mem_nil, or_false] at hf
    repeat' obtain rfl | hf := hf
    all_goals exact ⟨atWord_step (by decide), by decide, by decide⟩
  · intro f hf w hw
    simp only [List.mem_cons, List.not_mem_nil, or_false] at hf hw
    rcases hf with rfl | rfl <;> rcases hw with rfl | rfl <;> exact ⟨atWord_step (by decide), by decide, by decide, by decide⟩
  iterate 4 exact ⟨atWord_step (by decide), by decide, by decide, by decide, by decide, ⟨by decide, by decide, by decide, ⟨by decide, fun _ h => by cases h⟩, by decide⟩⟩
  · intro g hg
    simp only [List.mem_cons, List.not_mem_nil, or_false] at hg
    subst hg
    exact ⟨atWord_step (by decide), by decide, by decide, by decide, by decide, by decide, ⟨by decide, by decide, by decide, ⟨by decide, fun _ h => by cases h⟩, by decide⟩, by decide⟩
  · exact ⟨atWord_step (by decide), by decide, by decide, by decide, by decide, ⟨by decide, by decide, by decide, ⟨by decide, fun _ h => by cases h⟩, by decide⟩⟩
  · exact ⟨rfl, rfl, ⟨rfl, rfl⟩, (fun h => nomatch h), rfl, by decide, ⟨rfl, rfl, rfl⟩, ⟨rfl, rfl⟩⟩
  · exact ⟨by decide, by decide, by decide, ⟨by decide, fun _ h => by cases h⟩, by decide⟩
  · intro st hst
    simp only [List.mem_cons, List.not_mem_nil, or_false] at hst
    rcases hst with rfl | rfl | rfl <;> exact ⟨rfl, rfl, ⟨rfl, rfl⟩, ⟨rfl, rfl, rfl, rfl⟩, by decide, rfl, rfl, ⟨rfl, rfl, rfl, rfl, by decide⟩⟩
  · intro b; cases b <;> exact ⟨⟨_, rfl, rfl, rfl, by decide⟩, rfl, rfl, by decide⟩

/-- Operands of N values of 4 bytes lie at 2,048. -/
theorem witness_VectorStepsWriteTheirResults :
    ∀ kind ∈ [kVmov, kVcvt, kValu, kVdot, kVred, kVfn], ∀ f ∈ [0, 3, 8], let w0 := kindWord kind f 0 0; let w1 := lenWord 8; let t := mstep (w0, w1); let x := Machine.millOf (atWord w0 w1) 3
      AtStep (atWord w0 w1) 3 kind t (4, 0) (millJobOf 1 0 0) ∧ t.neverBranches = true ∧ t.func = f ∧ mxOk t.fa t.n = true ∧ mxOk t.fd t.n = true
      ∧ InSram x t.a t.aoff (runBytes t.fa t.n) 2048 ∧ InSram x t.b t.boff (runBytes t.fa t.n) 2048 ∧ InSram x t.d t.doff (runBytes t.fd t.n) 2048
      ∧ InSram x t.a t.aoff (32 * t.n) 2048 ∧ InSram x t.d t.doff (32 * t.n) 2048 ∧ InSram x t.a t.aoff (runBytes t.fa ((t.imm + 1) * t.n)) 2048 ∧ InSram x t.d t.doff (4 * t.n) 2048 := by
  intro kind hk f hf
  refine ⟨atWord_step ?_, ?_, ?_, ?_, ?_, ⟨?_, ?_⟩, ⟨?_, ?_⟩, ⟨?_, ?_⟩, ⟨?_, ?_⟩, ⟨?_, ?_⟩, ⟨?_, ?_⟩, ⟨?_, ?_⟩⟩
  all_goals revert kind f; decide

/-- The same with a candidate queue. -/
def queued (kind : Nat) (cq : List (Nat × Nat)) : State :=
  let w0 := kindWord kind 0 0 0
  { atWord w0 (lenWord 8) with mills := [(3, { (Machine.millOf (atWord w0 (lenWord 8)) 3) with cq, cqLimit := 4 })] }
theorem queued_step (kind : Nat) (cq : List (Nat × Nat)) (h : (mstep (kindWord kind 0 0 0, lenWord 8)).kind = kind) :
    AtStep (queued kind cq) 3 kind (mstep (kindWord kind 0 0 0, lenWord 8)) (4, 0) (millJobOf 1 0 0) :=
  ⟨rfl, rfl, ⟨rfl, rfl⟩, (fun h => nomatch h), rfl, h, ⟨rfl, rfl, rfl⟩, ⟨rfl, rfl⟩⟩
theorem witness_LookUpAndQueueStepsWriteTheirResults :
    (∀ kind ∈ [kLubuild, kLuscore, kLubin], let w0 := kindWord kind 0 0 0; let w1 : W64 := BitVec.ofNat 64 (960 * 2 ^ 39 + 448 * 2 ^ 13); let t := mstep (w0, w1); let x := Machine.millOf (atWord w0 w1) 3
      AtStep (atWord w0 w1) 3 kind t (4, 0) (millJobOf 1 0 0) ∧ t.neverBranches = true ∧ InSram x t.a t.aoff (t.n * codeRow t) 2048 ∧ InSram x t.a t.aoff (runBytes t.fa t.n) 2048
      ∧ InSram x t.b t.boff (runBytes t.fa (256 * codeRow t)) 16384 ∧ InSram x t.b t.boff (2 * (256 * t.dSub * t.subspaces)) 16384 ∧ InSram x t.b t.boff (4 * t.n) 16384 ∧ 16384 % 16384 = 0
      ∧ InSram x t.d t.doff (4 * (256 * codeRow t)) 32768 ∧ InSram x t.d t.doff (4 * t.n) 32768 ∧ InSram x t.d t.doff (runBytes t.fd (256 * t.subspaces)) 32768)
    ∧ (∀ kind ∈ [kCqins, kCqpop, kCqout, kCqclr], ∀ cq, AtStep (queued kind cq) 3 kind (mstep (kindWord kind 0 0 0, lenWord 8)) (4, 0) (millJobOf 1 0 0))
    ∧ (let t := mstep (kindWord kCqins 0 0 0, lenWord 8); let x := Machine.millOf (queued kCqins [(1, 7)]) 3
      t.neverBranches = true ∧ InSram x t.a t.aoff (4 * t.n) 2048 ∧ InSram x t.b t.boff (4 * t.n) 2048 ∧ InSram x t.d t.doff (8 * (x.cq.take t.n).length) 2048 ∧ x.cq = [(1, 7)] ∧ x.cq.length ≤ x.cqLimit) := by
  refine ⟨?_, ?_, by decide, ⟨by decide, by decide⟩, ⟨by decide, by decide⟩, ⟨by decide, by decide⟩, rfl, by decide⟩
  · intro kind hk
    refine ⟨atWord_step ?_, ?_, ⟨?_, ?_⟩, ⟨?_, ?_⟩, ⟨?_, ?_⟩, ⟨?_, ?_⟩, ⟨?_, ?_⟩, ?_, ⟨?_, ?_⟩, ⟨?_, ?_⟩, ⟨?_, ?_⟩⟩
    all_goals revert kind; decide
  · intro kind hk cq
    refine queued_step _ _ ?_
    revert kind; decide

def bookWord (k : Nat) : W64 := BitVec.ofNat 64 k
theorem witness_CodebookSlotsChangeState :
    (∀ st, CbServed (books { state := st }) 2 ∧ ownsSlot (books { state := st }) 2 7 = true ∧ ownsSlot (books { state := st }) 2 3 = false)
    ∧ field (bookWord 7) 0 12 = 7 ∧ flag (bookWord 7) 40 = false ∧ flag (bookWord 7) 41 = false ∧ (slotOf (books { state := .live }) 7).state = .live
    ∧ (∀ st, ArrayPlaced (books { state := st }) 2 7)
    ∧ ((slotOf (books { state := .free }) 7).state = .free ∧ (slotOf (books { state := .free }) 7).book = []
      ∧ (shufelRead (books { state := .free }) 2 (slotEntry (books { state := .free }) 2 7 + 0x1000) (2 * (256 * dOf (field (bookWord 7) 42 2)))).1 = .ok)
    ∧ (Tbl.get {} ({ books {} with shoal := { (books {}).shoal with ctl := [(2, { result := 1 })] } } : State).shoal.ctl 2).result = 1
    ∧ (slotsInUse (books { state := .free }) 2 = false ∧ slotsInUse (books { state := .live }) 2 = true ∧ (books { state := .live }).keeper.up = true)
    ∧ (let x := slotOf (books { state := .retiring, boundary := true }) 7; x.state = .retiring ∧ x.refs = 0 ∧ x.boundary = true
      ∧ ∀ p < 8, (Tbl.get {} (books { state := .retiring, boundary := true }).shoal.ctl p).waiting = none) := by
  refine ⟨?_, by decide, by decide, by decide, rfl, ?_, ⟨rfl, rfl, by decide⟩, rfl, by decide, rfl, rfl, rfl, by decide⟩
  · intro st; exact ⟨⟨rfl, by cases st <;> decide⟩, by cases st <;> decide, by cases st <;> decide⟩
  · intro st; exact ⟨by cases st <;> decide, by cases st <;> decide, by cases st <;> decide, by cases st <;> decide⟩

def blockXfer : XferId := { course := false, rill := 4, index := 0 }
/-- A page of descriptor 0 of rill 4 in the input buffer of race 0, its data as given. -/
def codedPage (data : Bytes) (ref : Option Nat) : ExpPage := { xfer := blockXfer, party := 2, off := 0, ref, data, dest := .memory 2048 }
def eddyWord (dest : XDest) : EddyWord := { data := 5#64, valid := 0, xfer := blockXfer, off := 0, last := true, slot := 7, dest, party := 2 }
def expanding (pg : ExpPage) (x : RaceExp) : State :=
  let s := books { state := .live, dCode := 0, book := List.replicate 512 0 }
  { s with shoal := { s.shoal with races := [(0, { x with input := [pg] })], expOff := [(blockXfer, 0)] } }
/-- A block of one code of slot 7. -/
def oneBlock : Bytes := [0x60#8, 0, 0, 0, 0, 0, 7, 0x10, 0, 0, 0, 0, 0, 0, 0, 0x5A] ++ List.replicate 16 0#8
theorem witness_CodedPagesExpand :
    (∀ d ∈ [[], 0x20#8 :: List.replicate 15 0#8, oneBlock], let pg := codedPage d none; let s := expanding pg { store := [(7, 2)] }
      (raceExp s 0).input.find? (fun p => (expOff0 s p.xfer).isSome && expServes s 0 p.party) = some pg ∧ expOff0 s pg.xfer = some 0 ∧ pg.ref = none ∧ pg.pos + 16 ≤ 4096)
    ∧ ofBytes ([] : Bytes) = 0 ∧ (ofBytes (0x20#8 :: List.replicate 15 0#8) ≠ 0 ∧ (blockHdr (0x20#8 :: List.replicate 15 0#8)).format ≠ 1)
    ∧ (let h := blockHdr (oneBlock.take 16); let s := expanding (codedPage oneBlock none) { store := [(7, 2)] }
      ofBytes (oneBlock.take 16) ≠ 0 ∧ h.format = 1 ∧ h.rsvd = false ∧ h.hchkOk = true ∧ codedLen h.count h.two ≤ 4096 ∧ h.slot = 7 ∧ slotUsable s 2 7 = true ∧ slotMatches s 7 h.gen 0 = true
      ∧ (slotOf s 7).dCode = h.dCode ∧ (slotOf s 7).two = h.two ∧ 0 ≤ h.expOff ∧ (∃ c ∈ (raceExp s 0).store, c.1 = 7) ∧ isSealed s = false ∧ h.expLen = 4 ∧ eddyWords s 2 = 8192)
    ∧ (let s := expanding (codedPage oneBlock (some 7)) { miss := some 7 }
      (raceExp s 0).miss = some 7 ∧ (raceExp s 0).input.find? (fun p => p.ref == some 7) = some (codedPage oneBlock (some 7)) ∧ (raceExp s 0).store = [] ∧ copyBytes (slotOf s 7) ≤ cbStoreBytes s 2)
    ∧ (∀ dest, let s := expanding (codedPage [] none) { queue := [eddyWord dest] }
      (lineWords 64 (raceExp s 0).queue).head? = some (eddyWord dest) ∧ (∀ y ∈ (raceExp s 0).queue, y.discard = false) ∧ ((lineWords 64 (raceExp s 0).queue).flatMap wordBytes).length = 8)
    ∧ (let s := expanding (codedPage [] none) { queue := [eddyWord (.memory 2048)] }
      GoesHome s 0 (xferParty s blockXfer).1 (xferAsid s blockXfer) (xferParty s blockXfer).2 2048 8 .store 0#64 (plain2048 8)) := by
  refine ⟨?_, by decide, by decide, ?_, ?_, ?_, ⟨by decide, by decide, by decide, ⟨by decide, fun _ h => by cases h⟩, by decide⟩⟩
  · intro d hd
    simp only [List.mem_cons, List.not_mem_nil, or_false] at hd
    rcases hd with rfl | rfl | rfl <;> exact ⟨rfl, rfl, rfl, by decide⟩
  · exact ⟨by decide, by decide, by decide, by simp [oneBlock, blockHdr, crc8, crc8Step, List.range, List.range.loop, bit, ofBytes, bits], by decide, by decide, by decide, by decide, by decide, by decide, by decide, ⟨_, List.mem_singleton.2 rfl, rfl⟩, by decide, by decide, by decide⟩
  · exact ⟨rfl, rfl, rfl, by decide⟩
  · intro dest; exact ⟨rfl, fun y hy => by cases List.mem_singleton.1 (show y ∈ [eddyWord dest] from hy); rfl, rfl⟩

/-- A descriptor of rill 4, of party 2. -/
def jobOf (kind op : Nat) (words : List Nat) : Job := { rill := 4, index := 0, party := 2, kind, op, words, ctx := identityCtx }
/-- A ready node that runs that descriptor: the first 64 KiB are mapped to themselves, with bytes as given, and the rill's parameters. -/
def runsJob (j : Job) (mem : List (Nat × Byte)) (params : List Nat) (slots : Tbl Slot) : State :=
  { millState j with store := { mem := identityMem ++ mem, tier := [(0, { state := .plain })] }
                     rill := { table := [(4, { state := .active, running := 1, kind := j.kind, params })], cache := [4], jobs := [j] }
                     shoal := { slots, base := [(2, 0)] } }
theorem runsJob_runs (kind op : Nat) (words : List Nat) (mem : List (Nat × Byte)) (params : List Nat) (slots : Tbl Slot) :
    RunsOp (runsJob (jobOf kind op words) mem params slots) 4 0 kind op (jobOf kind op words) :=
  ⟨(fun _ h => by cases h), (fun x hx _ => by cases List.mem_singleton.1 (show x ∈ [jobOf kind op words] from hx); exact ⟨rfl, rfl⟩), rfl, ⟨rfl, rfl⟩, ⟨rfl, rfl⟩⟩

/-- Parameters of one layer, one KV head and one query head of 64 elements, with sequence records at 8,192 and one book set at 12,288. -/
def attnParams : List Nat := [0x3F800000, 8192, 12288, 0, 0, 0, 0, 0]
/-- The record of sequence 0 at 8,192, with a page list at 16,384 (the page at 0), and the books of slot 7. -/
def attnMem (active : Bool) (pages : Nat) : List (Nat × Byte) :=
  (if pages = 0 then [] else [(8192, BitVec.ofNat 8 pages)]) ++ (if active then [(8199, 0x40#8)] else []) ++ [(8201, 0x40#8), (12288, 7#8), (12292, 7#8)]
def attnBooks : Tbl Slot := [(7, { state := .live, dCode := 1 })]
def attnOn (op : Nat) (words : List Nat) (active : Bool) (pages : Nat) : State := runsJob (jobOf 2 op words) (attnMem active pages) attnParams attnBooks
def attendWords : List Nat := [20480, 24576, 28672, 0, 0, 0]
def codeWords (op : Nat) : List Nat := [0, if op = 2 then 256 else if op = 5 then 1 else 0, 16384, 0, 0, 0]
def spanRun (pages : List Nat) : AttRun := { rill := 4, index := 0, layer := 0, seqs := [{ seq := 0, pages, keyBook := [7], valBook := [7], status := .poison }] }
def spanJob : Job := { jobOf 2 1 attendWords with begun := true, counterOk := true }
def spanning (pages : List Nat) : State := { runsJob spanJob (attnMem true 1) attnParams attnBooks with attn := [spanRun pages] }
theorem worse_poison (b : Status) : worseData .poison b = .poison := by cases b <;> rfl
theorem spanParts_length (j : Job) (a : AttRun) (i h span : Nat) (q : AttSeq) (s : State) : (spanParts j a i h span q s).2.length = (paramOf s j.rill).group := by
  simp [spanParts]
theorem outBytes_bad (parts : List SpanPart) (b : Status) (pages : List Nat) :
    (outBytes (attnParam attnParams) (attendOps spanJob) { seq := 0, pages, keyBook := [7], valBook := [7], parts, status := worseData .poison b }).length = 128 := by
  rw [worse_poison]; rfl
theorem witness_AttentionDescriptorsRun :
    (let s := attnOn 1 attendWords true 1; let j := jobOf 2 1 attendWords; let p := paramOf s 4; let o := attendOps j
      RunsOp s 4 0 2 1 j ∧ Fresh s j (attendReads s j) ∧ o.layer < p.layers ∧ o.n ≤ p.seqs ∧ o.partner = false
      ∧ vcheckHere s j.party j.ctx o.query (o.n * p.query) .load = none ∧ vread s j.party j.ctx o.list (2 * o.n) = .ok [0#8, 0#8]
      ∧ attendSeqs s j p o (words16 o.n [0#8, 0#8]) = .ok [{ seq := 0, pages := [0], keyBook := [7], valBook := [7] }]
      ∧ outBad s j p o = none ∧ o.note = 0 ∧ findAttn s 4 0 = none)
    ∧ (∀ pages ∈ [[0], List.replicate 65 0], let s := spanning pages; let p := paramOf s 4; let q : AttSeq := { seq := 0, pages, keyBook := [7], valBook := [7], status := .poison }
      NoLandings s ∧ Uncut s 4 ∧ findJob s 4 0 = some spanJob ∧ findAttn s 4 0 = some (spanRun pages) ∧ 0 < p.kv ∧ 0 < spanCount q ∧ rillOutstanding s 4 < 2048
      ∧ (residentAll 0 2 [7, 7] s).isSome = true ∧ max 1 (p.group / 2) ≤ (freeMills s 0 2).length ∧ pageRace s spanJob (pages.headD 0 + 0 * p.slice + 0 * p.segment) = 0
      ∧ AtRest s false spanJob.ctx ((spanPages q 0).map (fun g => (g + (spanRun pages).layer * p.slice + 0 * p.segment, p.segment)))
      ∧ (let got := spanParts spanJob (spanRun pages) 0 0 0 q s
        (pages.length = 65 → (q.parts ++ got.2).length < p.heads * spanCount q)
        ∧ (pages = [0] → p.heads * spanCount q ≤ (q.parts ++ got.2).length
          ∧ (outBytes p (attendOps spanJob) { q with parts := q.parts ++ got.2, status := worseData q.status got.1 }).length = 128
          ∧ GoesHome s 0 2 0 identityCtx 28672 128 .store 0#64 { addr := 28672, va := 28672, len := 128, cls := .priv, coding := .plain, durable := false })))
    ∧ (let s := attnOn 2 (codeWords 2) false 0; let j := jobOf 2 2 (codeWords 2); let p := paramOf s 4
      RunsOp s 4 0 2 2 j ∧ Fresh s j (codeReads s j [(j.word 4, 8 * codePages j)] (admitSet j)) ∧ admitSeq j < p.seqs ∧ 256 ≤ admitTokens j ∧ codePages j ≤ admitCap j ∧ quotaOk s 2 1 = true
      ∧ (∃ r, readSeq s j p 0 = .ok r ∧ r.state = 0) ∧ vread s 2 identityCtx 16384 (8 * codePages j) = .ok (List.replicate 8 0#8)
      ∧ nth 0 p.sets (admitSet j) ≠ 0 ∧ booksAt s j (nth 0 p.sets (admitSet j)) (setEntries p) [] = .ok [7, 7]
      ∧ (∀ g ∈ words64 (codePages j) (List.replicate 8 0#8), kvPageBad s 2 identityCtx g 0 (p.layers * p.slice) = none)
      ∧ vcheckHere s 2 identityCtx (j.word 2) (p.layers * codeTokens j * p.row) .load = none ∧ findAttn s 4 0 = none)
    ∧ (let s := attnOn 3 (codeWords 3) true 0; let j := jobOf 2 3 (codeWords 3); let p := paramOf s 4
      RunsOp s 4 0 2 3 j
      ∧ (∃ r, readSeq s j p 0 = .ok r ∧ Fresh s j (codeReads s j [(r.list + 8 * r.pages, 8)] r.set) ∧ r.active = true ∧ r.pages < r.cap ∧ vread s 2 identityCtx (r.list + 8 * r.pages) 8 = .ok (List.replicate 8 0#8)
        ∧ nth 0 p.sets r.set = 12288 ∧ booksAt s j 12288 (setEntries p) [] = .ok [7, 7]))
    ∧ (let s := attnOn 4 (codeWords 4) true 1; let j := jobOf 2 4 (codeWords 4); let p := paramOf s 4
      RunsOp s 4 0 2 4 j ∧ Fresh s j [(p.seqBase + 64 * admitSeq j, 64)] ∧ (vpiece s j.ctx (p.seqBase + 64 * admitSeq j)).all (fun q => addrNode q.addr == s.node) = true ∧ admitSeq j < p.seqs ∧ AtRest s true j.ctx [(p.seqBase + 64 * admitSeq j, 8)]
      ∧ ∃ d, vread s 2 identityCtx (p.seqBase + 64 * admitSeq j) 8 = .ok d ∧ bits (ofBytes d) 62 2 = 1
        ∧ (vwrite 2 identityCtx (p.seqBase + 64 * admitSeq j) (toBytes (ofBytes d - 2 ^ 62) 8) s).1 = none)
    ∧ (let s := runsJob (jobOf 2 5 (codeWords 5)) (attnMem false 0) attnParams []; let j := jobOf 2 5 (codeWords 5); let p := paramOf s 4; let len := p.layers * admitTokens j * p.row
      RunsOp s 4 0 2 5 j ∧ Fresh s j [(j.word 2, len), (p.seqBase, 64 * p.seqs), (nth 0 p.sets (admitSet j), 4 * booksNeeded p)] ∧ nth 0 p.sets (admitSet j) ≠ 0 ∧ admitTokens j = 1 ∧ setInUse s j p = false
      ∧ vcheckHere s 2 identityCtx (j.word 2) len .load = none ∧ vcheckHere s 2 identityCtx (nth 0 p.sets (admitSet j)) (4 * booksNeeded p) .store = none
      ∧ booksNeeded p ≤ (freeSlots s 2).length) := by
  refine ⟨?_, ?_, ?_, ?_, ?_, ?_⟩
  · exact ⟨runsJob_runs _ _ _ _ _ _, ⟨⟨rfl, rfl, rfl, rfl, rfl, rfl, rfl⟩, by decide, by decide⟩, by decide, by decide, by decide, by decide, by decide, rfl, by decide, rfl, rfl⟩
  · intro pages hp
    have hk : ∀ pg : List Nat, (∀ g ∈ pg, g = 0) → AtRest (spanning pages) false spanJob.ctx (pg.map (fun g => (g + 0 * (attnParam attnParams).slice + 0 * (attnParam attnParams).segment, (attnParam attnParams).segment))) := by
      intro pg h0 r hr ps hps q hq
      simp only [List.mem_map] at hr
      obtain ⟨g, hg, rfl⟩ := hr
      rw [h0 g hg] at hps
      have ht : translateIn (spanning pages) spanJob.ctx 0 8192 .load = .pieces [{ addr := 0, va := 0, len := 8192, cls := .priv, coding := .plain, durable := false }] := by
        rcases List.mem_cons.1 hp with rfl | hp
        · decide
        · rw [List.mem_singleton.1 hp]; decide
      have := ht.symm.trans hps
      cases this
      rw [List.mem_singleton.1 hq]
      rcases List.mem_cons.1 hp with rfl | hp
      · decide
      · rw [List.mem_singleton.1 hp]; decide
    simp only [List.mem_cons, List.not_mem_nil, or_false] at hp
    rcases hp with rfl | rfl
    · refine ⟨(fun _ h => by cases h), (fun x hx _ => by cases List.mem_singleton.1 (show x ∈ [spanJob] from hx); exact ⟨rfl, rfl⟩), rfl, rfl, by decide, by decide, by decide, by decide, by decide, by decide,
        hk [0] (by decide), fun h => absurd h (by decide), fun _ => ⟨?_, outBytes_bad _ _ _, by decide, by decide, by decide, ⟨by decide, fun _ h => by cases h⟩, by decide⟩⟩
      rw [List.length_append, spanParts_length]; decide
    · refine ⟨(fun _ h => by cases h), (fun x hx _ => by cases List.mem_singleton.1 (show x ∈ [spanJob] from hx); exact ⟨rfl, rfl⟩), rfl, rfl, by decide, by decide, by decide, by decide, by decide, by decide,
        hk _ (by decide), fun _ => ?_, fun h => absurd h (by decide)⟩
      rw [List.length_append, spanParts_length]; decide
  · exact ⟨runsJob_runs _ _ _ _ _ _, ⟨⟨rfl, rfl, rfl, rfl, rfl, rfl, rfl⟩, by decide, by decide⟩, by decide, by decide, by decide, by decide, ⟨_, rfl, by decide⟩, by decide, by decide, rfl, by decide, by decide, rfl⟩
  · exact ⟨runsJob_runs _ _ _ _ _ _, ⟨_, rfl, ⟨⟨rfl, rfl, rfl, rfl, rfl, rfl, rfl⟩, by decide, by decide⟩, by decide, by decide, by decide, by decide, rfl⟩⟩
  · refine ⟨runsJob_runs _ _ _ _ _ _, ⟨⟨rfl, rfl, rfl, rfl, rfl, rfl, rfl⟩, by decide, by decide⟩, by decide, by decide, ?_, _, rfl, by decide, by decide⟩
    intro r hr ps hps q hq
    rw [List.mem_singleton.1 hr] at hps
    have ht : translateIn (attnOn 4 (codeWords 4) true 1) identityCtx 8192 8 .load = .pieces [{ addr := 8192, va := 8192, len := 8, cls := .priv, coding := .plain, durable := false }] := by decide
    cases ht.symm.trans hps
    rw [List.mem_singleton.1 hq]; decide
  · exact ⟨runsJob_runs _ _ _ _ _ _, ⟨⟨rfl, rfl, rfl, rfl, rfl, rfl, rfl⟩, by decide, by decide⟩, by decide, by decide, by decide, by decide, by decide, by decide⟩

/-- A rill's node with exchange group 0 of node 0 alone. -/
def inGroup (kind op : Nat) (words : List Nat) (mem : List (Nat × Byte)) (params : List Nat) : State :=
  let s := runsJob (jobOf kind op words) mem params []
  { s with hw := { s.hw with groups := [{ group := 0, party := 2, serveRill := 4, areaOff := 2 ^ 40, roster := [0] }] } }
theorem inGroup_runs (kind op : Nat) (words : List Nat) (mem : List (Nat × Byte)) (params : List Nat) :
    RunsOp (inGroup kind op words mem params) 4 0 kind op (jobOf kind op words) :=
  ⟨(fun _ h => by cases h), (fun x hx _ => by cases List.mem_singleton.1 (show x ∈ [jobOf kind op words] from hx); exact ⟨rfl, rfl⟩), rfl, ⟨rfl, rfl⟩, ⟨rfl, rfl⟩⟩
/-- Table 0 at 8,192: one row of one FP32 element, owned by this node. -/
def tableMem (mutable_ : Bool) : List (Nat × Byte) := [(8197, 6#8), (8199, if mutable_ then 0x30#8 else 0x20#8), (8204, 1#8)]
def lookupWords : List Nat := [16384, 20480, 0, 28672, 2 ^ 36, 0]
/-- A LOOKUP of one bag, of the reserved POOL 3 where said. -/
def lookupAt (pool3 : Bool) : State := inGroup 3 1 lookupWords (tableMem true ++ [(16388, 1#8)] ++ (if pool3 then [(16390, 0x0C#8)] else [])) [0, 8192]
def oneBag (b : Bag) (r : Except (Status × Nat) (List (Nat × BagPart))) : Prop :=
  r = .ok [(0, { bag := 0, entry := b, ids := [0], weights := [0x3F800000], dim := 1 })]
theorem witness_EmbedDescriptorsExchange :
    (∀ bad, let s := lookupAt bad; let j := jobOf 3 1 lookupWords; let p := embedParam (Machine.rillOf s 4).params; let o := lookupOps j
      RunsOp s 4 0 3 1 j ∧ Fresh s j (embedReads s j [(o.bags, 8 * o.n)] (lookupTables s j) (lookupRanges s j)) ∧ groupOf s p.group = some { group := 0, party := 2, serveRill := 4, areaOff := 2 ^ 40, roster := [0] } ∧ findRun s 4 0 = none
      ∧ jread s j o.bags (8 * o.n) = .ok ([0#8, 0, 0, 0, 1, 0, if bad then 0x0C else 0, 0]) ∧ (bad = true → ∃ b ∈ readBags s j o, bagOk s j p o b = false)
      ∧ (bad = false → (∀ b ∈ readBags s j o, bagOk s j p o b = true) ∧ oneBag (bagOf (2 ^ 32)) (lookupParts s j p o (readBags s j o).zipIdx []) ∧ ((readBags s j o).map (fun b => b.count)).sum ≤ 65536))
    ∧ (let s := inGroup 3 2 [16384, 20480, 0, 0, 0, 0] (tableMem true) [0, 8192]; let j := jobOf 3 2 [16384, 20480, 0, 0, 0, 0]; let p := embedParam (Machine.rillOf s 4).params
      RunsOp s 4 0 3 2 j ∧ Fresh s j (embedReads s j [(j.word 2, 16 * updCount j)] (updateTables s j) (updateRanges s j)) ∧ jread s j (j.word 2) (16 * updCount j) = .ok (List.replicate 16 0#8)
      ∧ ∃ x, updateParts s j p [0] (readUpdates s j).zipIdx [] = .ok [(0, x)] ∧ 64 + updPartBytes x ≤ 65536)
    ∧ (∀ m, let s := inGroup 3 3 [0, 0, 0, 0, 0, 0] (tableMem m) [0, 8192]; let j := jobOf 3 3 [0, 0, 0, 0, 0, 0]; let p := embedParam (Machine.rillOf s 4).params
      RunsOp s 4 0 3 3 j ∧ Fresh s j (embedReads s j [] [bits (j.word 2) 0 12] []) ∧ ∃ x, readTable (jread s j) p 0 = .ok x ∧ shardsOf (jread s j) x = .ok [] ∧ x.ok 2 = true ∧ x.mutable_ = m ∧ x.mode = 0 ∧ x.owner = 0) := by
  refine ⟨?_, ?_, ?_⟩
  · intro bad
    cases bad
    · exact ⟨inGroup_runs _ _ _ _ _, ⟨⟨rfl, rfl, rfl, rfl, rfl, rfl, rfl⟩, by decide, by decide⟩, rfl, rfl, rfl, (fun h => nomatch h), fun _ => ⟨by decide, rfl, by decide⟩⟩
    · exact ⟨inGroup_runs _ _ _ _ _, ⟨⟨rfl, rfl, rfl, rfl, rfl, rfl, rfl⟩, by decide, by decide⟩, rfl, rfl, rfl, fun _ => by decide, (fun h => nomatch h)⟩
  · exact ⟨inGroup_runs _ _ _ _ _, ⟨⟨rfl, rfl, rfl, rfl, rfl, rfl, rfl⟩, by decide, by decide⟩, rfl, _, rfl, by decide⟩
  · intro m
    cases m <;> exact ⟨inGroup_runs _ _ _ _ _, ⟨⟨rfl, rfl, rfl, rfl, rfl, rfl, rfl⟩, by decide, by decide⟩, _, rfl, rfl, by decide, by decide, by decide, by decide⟩

/-- Index 0 at 8,192: vectors of one FP32 element, one shard whose node the list at 12,288 gives. -/
def indexMem : List (Nat × Byte) := [(8327, 0x20#8), (8377, 0x30#8)]
def searchAt (op : Nat) (words : List Nat) : State := inGroup 4 op words indexMem [0, 8192]
def searchWords : List Nat := [16384, 0, 0, 2 ^ 16, 0, 0]
def insertWords (shard : Nat) : List Nat := [16384, 20480, 0, shard * 2 ^ 42, 0, 0]
def oneShard : IndexRec := indexRec (List.replicate 16 0 ++ [2 ^ 61, 0, 0, 0, 0, 0, 0, 12288])
theorem witness_SearchDescriptorsExchange :
    (oneShard.shards = 1 ∧ oneShard.full = 64 ∧ (∀ q ∈ [(1, searchWords), (2, insertWords 0), (2, insertWords 1), (3, insertWords 0), (4, searchWords), (5, searchWords)], let s := searchAt q.1 q.2; let j := jobOf 4 q.1 q.2
      RunsOp s 4 0 4 q.1 j ∧ jobIndex s j = .ok oneShard ∧ groupOf s (searchOf s 4).group = some { group := 0, party := 2, serveRill := 4, areaOff := 2 ^ 40, roster := [0] } ∧ findRun s 4 0 = none
      ∧ shardNodes s j oneShard = .ok [0] ∧ Fresh s j (indexRange s j ++ shardRange s j) ∧ Fresh s j (indexRange s j) ∧ j.next = 0 ∧ (List.range oneShard.graphItems).findSome? (badNeighbour s j oneShard) = none ∧ oneShard.graphItems ≤ oneShard.items ∧ (setGraphOk 2 identityCtx (searchOf s 4) 0 true s).1 = none))
    ∧ (let s := searchAt 1 searchWords; let j := jobOf 4 1 searchWords; let o := queryOps j; let q := queryShape (j.word 5)
      Fresh s j (indexRange s j ++ shardRange s j ++ queryRanges s j) ∧ q.k ≤ q.ef ∧ q.hops ≠ 0 ∧ jread s j (j.word 2) (o.n * 64) = .ok (List.replicate 64 0#8)
      ∧ jread s j (j.word 3) (if j.word 3 = 0 then 0 else 8 * o.n) = .ok [] ∧ (∀ f ∈ batchFilters s j o.n, ((filterOf f).mode = 0 ↔ (filterOf f).mask = 0)) ∧ (2 ^ 16 - 64) / (8 + 64) ≠ 0)
    ∧ (∀ shard ∈ [0, 1], let s := searchAt 2 (insertWords shard); let j := jobOf 4 2 (insertWords shard); let o := insertOps j
      Fresh s j (indexRange s j ++ shardRange s j ++ insertRanges s j) ∧ o.shard = shard ∧ jread s j (j.word 2) (o.n * 64) = .ok (List.replicate 64 0#8) ∧ jread s j (j.word 3) (8 * o.n) = .ok (List.replicate 8 0#8)
      ∧ jread s j (j.word 4) (if j.word 4 = 0 then 0 else 4 * o.n) = .ok [] ∧ (2 ^ 16 - 64) / (64 + 12) ≠ 0)
    ∧ (let s := searchAt 3 (insertWords 0); let j := jobOf 4 3 (insertWords 0)
      Fresh s j (indexRange s j ++ shardRange s j ++ [(j.word 2, 8 * (insertOps j).n)]) ∧ jread s j (j.word 2) (8 * (insertOps j).n) = .ok (List.replicate 8 0#8) ∧ bits (ofBytes (List.replicate 8 0#8)) 32 10 ∈ [0]) := by
  refine ⟨⟨by decide, by decide, ?_⟩, ?_, ?_, ?_⟩
  · intro q hq
    simp only [List.mem_cons, List.not_mem_nil, or_false] at hq
    rcases hq with rfl | rfl | rfl | rfl | rfl | rfl <;>
      exact ⟨inGroup_runs _ _ _ _ _, rfl, rfl, rfl, rfl, ⟨⟨rfl, rfl, rfl, rfl, rfl, rfl, rfl⟩, by decide, by decide⟩, ⟨⟨rfl, rfl, rfl, rfl, rfl, rfl, rfl⟩, by decide, by decide⟩, rfl, by decide, by decide, by decide⟩
  · exact ⟨⟨⟨rfl, rfl, rfl, rfl, rfl, rfl, rfl⟩, by decide, by decide⟩, by decide, by decide, rfl, rfl, by decide, by decide⟩
  · intro shard hs
    simp only [List.mem_cons, List.not_mem_nil, or_false] at hs
    rcases hs with rfl | rfl <;> exact ⟨⟨⟨rfl, rfl, rfl, rfl, rfl, rfl, rfl⟩, by decide, by decide⟩, by decide, rfl, rfl, rfl, by decide⟩
  · exact ⟨⟨⟨rfl, rfl, rfl, rfl, rfl, rfl, rfl⟩, by decide, by decide⟩, rfl, by decide⟩

/-- Node 0, where party 3 owns rill 4 in a state, its reset begun at the counter's 0. -/
def resetting (st : RillState) : State :=
  { inPhase .released with hw := { (inPhase .released).hw with parties := (List.replicate 8 {}).set 3 { rillFirst := 4, rillCount := 1 } }
                           rill := { table := [(4, { state := st })] }, party := [(3, { resetAt := some 0 })] }
theorem witness_PartiesAndHostsReset :
    (resetBusy (resetting .off) (3 : Fin 8) = false ∧ RillsIdle (resetting .off) 3 ∧ resetBusy (resetting .draining) (3 : Fin 8) = true)
    ∧ (inPhase .released).coh.domains.filter (fun d => d.agents.contains ⟨(inPhase .released).node, (0 : Fin 2)⟩) = []
    ∧ (let s := coherentNode .up; RillsIdle s (0 : Fin 2) ∧ Still s
      ∧ ∃ d, s.coh.domains.filter (fun d => d.agents.contains ⟨s.node, (0 : Fin 2)⟩) = [d] ∧ findDomain s d.num = some d
        ∧ ∃ e ∈ s.coh.dir, inDomain s d (e.line * 64) = true ∧ e.state = .o) := by
  refine ⟨⟨by decide, ?_, by decide⟩, by decide, ?_, coherentNode_still .up, _, rfl, rfl, _, List.mem_singleton.2 rfl, by decide, rfl⟩
  · intro r h
    have : r = 4 := by
      simp only [ownsRill, Bool.and_eq_true, decide_eq_true_eq] at h
      have h1 : 4 ≤ r := h.1
      have h2 : r < 5 := h.2
      omega
    subst this; exact .inl rfl
  · intro r _; exact .inl rfl

theorem witness_RegisterWritesChangeRegisters :
    (let s := resetting .off; let v := BitVec.ofNat 64 (2 ^ 60); field v 60 4 = 1 ∧ resetBusy s (3 : Fin 8) = false ∧ resetBusy (resetting .draining) (3 : Fin 8) = true)
    ∧ (let s : State := { inPhase .released with hw := { slice := { sets := [{ setId := 5, cls := .mirror, members := [⟨0, 3⟩] }] }, mirrors := [{ index := 2, setId := 5, gateway := 0, window := 0 }] }
                                                 boot := { State.reset.boot with ready := true } }
      mirrorReader s (2 : Fin 16) (3 : Fin 8) = true)
    ∧ (3 % 8 ≠ 0 ∧ (0x10000 ≤ (0x10008#52).toNat ∧ (0x10008#52).toNat < 0x20000) ∧ ((0x21000#52).toNat - 0x20000) / 0x1000 ≠ (3 : Fin 8).val) := by
  refine ⟨by decide, by decide, by decide⟩

theorem witness_KeeperReadsAnswer :
    mctpUp inService = true
    ∧ (∃ s : State, mctpUp s = true ∧ s.nv.seals[0]? = some ⟨false, false, 1, 0, 7, 0, 0, 0, 9, 1⟩ ∧ s.nv.seals.length ≤ 1)
    ∧ (let x := raceExp inService (0 : Fin 8); x.queue = [] ∧ x.input = [] ∧ x.flushing = false)
    ∧ (let x := raceExp (expanding (codedPage [] none) {}) (0 : Fin 8); x.queue = [] ∧ x.input ≠ [])
    ∧ ∃ s : State, mctpUp s = true ∧ (raceExp s (0 : Fin 8)).queue ≠ [] :=
  ⟨by decide, ⟨{ inService with nv := { seals := [⟨false, false, 1, 0, 7, 0, 0, 0, 9, 1⟩] } }, by decide, rfl, by decide⟩, by decide, by decide,
    { inService with shoal := { races := [(0, { queue := [{ data := 1, valid := 8, xfer := ⟨false, 4, 0, 0⟩, off := 0, last := true, slot := 7, dest := .memory 0 }] })] } }, by decide, by decide⟩

theorem witness_KeeperCommandsAct :
    (let s := inService; mctpUp s = true ∧ s.keeper.busy = false ∧ s.boot.ready = true ∧ canChange s = true ∧ flushActive s = false ∧ s.flush.braced = false)
    ∧ (let s := { inService with flush := { kind := .early, braced := true } }; mctpUp s = true ∧ canChange s = true ∧ flushActive s = true ∧ s.flush.braced = true)
    ∧ (mctpUp (inPhase .released) = true ∧ (inPhase .released).boot.ready = false)
    ∧ (let s := { inService with nv := { State.reset.nv with manifestLost := true } }; mctpUp s = true ∧ s.map.lostKeys = false ∧ s.map.genFault = false ∧ s.boot.ready = true ∧ s.map.started = false)
    ∧ (let s := { inService with keeper := { inService.keeper with busy := true } }; mctpUp s = true ∧ s.keeper.busy = true)
    ∧ State.reset.keeper.up = false := by decide

/-- A READY node that booted slot A of both components, in the states given. -/
def trialNode (fw hw : SlotState) : State :=
  { inService with nv := { State.reset.nv with fwRec := { stateA := fw }, hwRec := { stateA := hw } } }
theorem witness_TrialsAreCommittedOrReverted :
    (let s := trialNode .trial .committed; mctpUp s = true ∧ s.keeper.busy = false ∧ OnTrial s compFirmware ∧ booting s = false ∧ canChange s = true ∧ s.boot.ready = true)
    ∧ OnTrial (trialNode .committed .trial) compHeadwater
    ∧ (isTrial (trialNode .committed .bad) compFirmware = false ∧ isTrial (trialNode .committed .bad) compHeadwater = false)
    ∧ (let s := { trialNode .committed .trial with map := { state := .agreed } }; s.keeper.up = true ∧ s.boot.ready = true ∧ isTrial s compHeadwater = true ∧ s.map.state = .agreed)
    ∧ (trialNode .committed .trial).map.state ≠ .agreed := by
  refine ⟨⟨by decide, by decide, ⟨.inl rfl, by decide⟩, by decide, by decide, by decide⟩, ⟨.inr rfl, by decide⟩, by decide, by decide, by decide⟩

/-- A READY node with operator digest 7 in slot 0, and perhaps 8 in slot 1. -/
def keyed (lock : Bool) (second : Nat) : State :=
  { inService with nv := { State.reset.nv with fuses := { State.reset.nv.fuses with opKeys := [7, second, 0, 0], installLock := lock } } }
def signedAs (slot key cmd : Nat) : Signed := { signer := slot, cmd, rsaKeys := [key], slhKeys := [key], device := 1, counter := 5 }
theorem witness_OperatorKeysAreKept :
    (mctpUp (keyed false 0) = true ∧ (keyed false 0).keeper.busy = false ∧ (keyed false 0).nv.fuses.installLock = false
      ∧ nth 0 (keyed false 0).nv.fuses.opKeys (2 : Fin 4) = 0 ∧ nth false (keyed false 0).nv.fuses.opRevoke (2 : Fin 4) = false ∧ nth 0 (keyed false 0).nv.fuses.opKeys (0 : Fin 4) ≠ 0)
    ∧ ((keyed true 0).nv.fuses.installLock = true ∧ signedFault (keyed true 0) 0x40 (some (2 : Fin 4).val) (signedAs 0 7 0x40) = none)
    ∧ ((∃ i < 4, i ≠ (1 : Fin 4).val ∧ opUsable (keyed false 8) i = true) ∧ signedFault (keyed true 8) 0x42 (some (1 : Fin 4).val) (signedAs 0 7 0x42) = none)
    ∧ (∀ i < 4, i ≠ (0 : Fin 4).val → opUsable (keyed false 0) i = false)
    ∧ signedFault (keyed true 0) 0x43 none (signedAs 0 7 0x43) = none ∧ 0 ≤ (keyed true 0).nv.signedCounter := by
  refine ⟨by decide, by decide, ⟨⟨0, by decide, by decide, by decide⟩, by decide⟩, by decide, by decide, by decide⟩

/-- A headwater image that stands in the slot not booted, as a transfer gave it. -/
def updating (c : Option Nat) : State := { inService with keeper := { inService.keeper with transfer := c } }
theorem witness_UpdatesAreStagedAndSwept :
    (pldmUp (updating none) = true ∧ isTrial (updating none) compFirmware = false ∧ powerFlush (updating none) = false ∧ (updating none).keeper.transfer = none
      ∧ isTrial (trialNode .trial .committed) compFirmware = true)
    ∧ ((updating (some compFirmware)).keeper.transfer = some compFirmware
      ∧ imageGood (updating (some compFirmware)) compFirmware (.firmware { rsaKeys := [1], slhKeys := [1], digest := 1 }) = true
      ∧ imageGood (updating (some compFirmware)) compFirmware (.firmware {}) = false)
    ∧ (let s := { inService with nv := { State.reset.nv with fwRec := { stateA := .committed, stateB := .staged } } }
      s.keeper.reboot = 0 ∧ s.flush.kind ≠ .early ∧ s.flush.pending = false ∧ stagedSlot s compFirmware = some 1 ∧ stagedSlot s compHeadwater = none)
    ∧ (let s := { inService with nv := { State.reset.nv with hwRec := { stateA := .committed, stateB := .staged } } }
      stagedSlot s compHeadwater = some 1 ∧ canChange s = true ∧ s.boot.phase ≠ .boardTest ∧ s.pins.mainRails = true ∧ s.boot.ready = true)
    ∧ (let s := { inService with flush := { kind := .early } }; s.keeper.reboot = 0 ∧ s.flush.kind = .early)
    ∧ (let s := { inService with nv := { State.reset.nv with sweeping := [3], flashSerial := [(0, 3), (1, 4)], flash := [(0, 1)] } }
      s.boot.ready = true ∧ (3#16).toNat ∈ s.nv.sweeping ∧ (5#16).toNat ∉ s.nv.sweeping ∧ ∃ e ∈ s.nv.flashSerial, e.2 = (3#16).toNat) := by
  refine ⟨by decide, by decide, by decide, by decide, by decide, by decide⟩

/-- SPDM on MCTP as it stands on a READY node. -/
def talking (x : Spdm) : State := { inService with spdm := [(0, x)] }
theorem witness_SpdmAnswersInOrder :
    (∀ x, spdmUp (talking x) .mctp = true ∧ spdmOf (talking x) .mctp = x)
    ∧ spdmUp { inService with hosts := [(0, { trained := true })], pins := { inService.pins with dieReset := false } } (.doe 0) = true
    ∧ (let x : Spdm := { versioned := true, capable := true, algorithms := true, chunk := 2, inputs := [(5, false), (6, true)], asked := some 6 }
      x.versioned = true ∧ x.capable = true ∧ x.algorithms = true ∧ (2#16).toNat = x.chunk ∧ (3#16).toNat ≠ x.chunk
      ∧ x.inputs.find? (fun y => y.1 == 4) = none ∧ x.inputs.find? (fun y => y.1 == 5) = some (5, false) ∧ x.inputs.find? (fun y => y.1 == 6) = some (6, true) ∧ x.asked = some 6)
    ∧ (({} : Spdm).versioned = false ∧ ({} : Spdm).algorithms = false)
    ∧ (7 < (8#8).toNat ∧ (8#8).toNat ≠ 0xFF ∧ (7#8).toNat ≤ 7 ∧ (0xFF#8).toNat = 0xFF) :=
  ⟨fun _ => ⟨rfl, rfl⟩, by decide, by decide, by decide, by decide⟩

/-- A READY node with two cap tables present, windows running, and one table in force. -/
def capped (k : WeirKind) : State :=
  { inService with hw := { weir := [{ kind := .full, modelW := 900 }, { kind := .cap1, modelW := 700 }, { kind := .spate }] }
                   weir := { kind := k }, keeper := { inService.keeper with windows := true, calm := 900 } }
theorem witness_KeeperWatchesAndSeals :
    (inPhase .released).keeper.up = true
    ∧ (let s := { State.reset with pins := { standby := true }, keeper := { fifo := [(0x0401, 2, 15, 0, 1, 2)], lost := 3 } }; s.keeper.up = false ∧ s.pins.standby = true)
    ∧ (entersAlarm runInService (.die 0) .alarm = true ∧ runInService.boot.ready = true ∧ runInService.pins.dieReset = false ∧ runInService.flush.alarmOff = false ∧ flushActive runInService = false)
    ∧ (clipLevel (.die 0) .warning = .warning ∧ levelOf runInService (.die 0) = .normal ∧ clipLevel (.die 0) .alarm = .alarm ∧ runInService.boot.phase ≠ .flushed)
    ∧ (let s := capped .full; s.keeper.up = true ∧ s.keeper.windows = true ∧ s.weir.kind ≠ .spate ∧ levelLimit s s.weir.kind < 951 ∧ lowerTable s s.weir.kind = some .cap1)
    ∧ (let s := capped .cap1; levelLimit s s.weir.kind < 801 ∧ lowerTable s s.weir.kind = none ∧ s.keeper.capMet = true ∧ 500 ≤ levelLimit s s.weir.kind ∧ higherTable s.weir.kind = some .full
      ∧ 0 < s.hw.settings.hystC ∧ 500 * modelOf s .full + s.hw.settings.hystW * modelOf s s.weir.kind ≤ levelLimit s .full * modelOf s s.weir.kind
      ∧ s.hw.settings.releaseMs ≤ s.keeper.calm + s.hw.settings.windowMs
      ∧ (∀ d ∈ [(380 : Int)], d ≤ 4 * ((s.hw.settings.dieThrottleC : Int) - s.hw.settings.hystC)) ∧ ∀ d ∈ [(340 : Int)], d ≤ 4 * ((s.hw.settings.stackThrottleC : Int) - s.hw.settings.hystC))
    ∧ (let e : LogEntry := ⟨4, 0x0101, 0, 15, 0, 0, 0, 1, false, 0, 0, 9⟩; let s := { inService with nv := { batch := [e] } }; s.keeper.up = true ∧ s.nv.batch.head? = some e ∧ s.nv.batch.getLast? = some e)
    ∧ inService.nv.batch = [] := by decide

/-- The board-test node with LINK_TEST in force, lane 0 tested with its checker locked, in a loopback mode of its link. -/
def laneTest (mode : Nat) : State :=
  { inPhase .boardTest with pins := { State.reset.pins with standby := true }, test := { ir := 0x10, laneMode := [(0, 1)], lock := [0] }
                            net := { links := [(0, { ltMode := mode })] } }
theorem witness_TestAccessAndMailboxAnswer :
    ((laneTest 0).pins.standby = true ∧ (laneTest 0).boot.phase = .boardTest ∧ inService.boot.phase ≠ .boardTest
      ∧ (let v := BitVec.ofNat 64 (2 ^ 62 + 2 ^ 60); field v 62 2 ≠ 3 ∧ field v 60 2 ≠ 3 ∧ flag v 59 = false ∧ flag v 61 = false))
    ∧ (linkTestOpen (laneTest 2) = true ∧ laneTesting (laneTest 2) (0 : Fin 160) = true ∧ ((0 : Fin 160).val < 128 ∧ ((laneTest 2).link ((0 : Fin 160).val / 4)).ltMode = 2 ∧ (0 : Fin 160).val ∈ (laneTest 2).test.lock)
      ∧ ((laneTest 0).link ((0 : Fin 160).val / 4)).ltMode ≠ 2 ∧ laneTesting (laneTest 0) (5 : Fin 160) = false ∧ linkTestOpen inService = false)
    ∧ (({ inService with hosts := [(0, { trained := true })] } : State).hostSt (0 : Fin 2)).trained = true ∧ (inService.hostSt (0 : Fin 2)).trained = false := by decide

/-- An exchange of one LOOKUP piece for node 1, sent with its header; the reply that has landed is its, or of another SEQ. -/
def replying (seq : Nat) (runs : List ExchRun) : State :=
  { inGroup 3 1 lookupWords [] [] with
    rill := { (inGroup 3 1 lookupWords [] []).rill with jobs := [{ jobOf 3 1 lookupWords with begun := true, counterOk := true }] }
    exch := { runs, landed := [{ group := 0, node := 1, words := mkReply .ok seq 0 1 0 0, body := [] }] } }
def sentPiece (owner seq : Nat) : ExPiece := { owner, words := mkHeader 1 0 false false 0 1 0 0, sent := true, headed := true, seq, off := 56 }
theorem witness_RepliesReachTheirPieces :
    (∀ runs, let s := replying 7 runs; NoLandings s ∧ (s.exch.landed.find? (fun x => x.group == (0 : Fin 16).val && x.node == (1 : Fin 1024).val)).isSome = true ∧ s.exch.runs = runs)
    ∧ (let r : ExchRun := { rill := 4, index := 0, group := 0, pieces := [sentPiece 1 7, sentPiece 2 8] }; let s := replying 7 [r]
      r.group = (0 : Fin 16).val ∧ (∃ j, findJob s r.rill r.index = some j ∧ j.begun = true ∧ j.counterOk = true ∧ j.cut = false ∧ j.withdrawn = false ∧ j.err = none)
      ∧ (∀ p ∈ r.pieces, p.sent = true ∧ p.headed = true ∧ (messageRest p.words p.body).length ≤ p.off) ∧ ∃ p ∈ r.pieces, p.owner ≠ 1 ∧ p.reply = none) := by
  refine ⟨fun runs => ⟨(fun x hx => by cases hx), rfl, rfl⟩, rfl, ⟨_, rfl, by decide, by decide, by decide, by decide, by decide⟩, by decide, by decide⟩

/-- Node 0 as primary of mirror set 2, whose gateway is node 9 over port 0. -/
def mirroring (x : MirrorSt) : State :=
  { inPhase .released with
    pins := { State.reset.pins with serdes := true }
    hw := { ports := [{ valid := true, kind := .switch, party := 2 }], mirrors := [{ index := 2, setId := 5, gateway := 9, window := 3 }] }
    net := { links := [(0, { mode := .up, inPort := true })] }
    map := { pool := [0, 9], state := .agreed }
    keeper := { (inPhase .released).keeper with mono := 2000000 }
    sluice := { mirrors := [(2, x)] } }
theorem witness_MirrorsShipBatches :
    (∀ x, mirrorSetting (mirroring x) (2 : Fin 16) = some { index := 2, setId := 5, gateway := 9, window := 3 } ∧ (mirroring x).keeper.up = true ∧ mirrorOf (mirroring x) 2 = x)
    ∧ (∀ full, let x : MirrorSt := { primary := true, due := true, state := mirrorIdle, bits := [4], full }; x.due = true ∧ x.state = mirrorIdle ∧ x.state ≠ mirrorLinkDown')
    ∧ (let x : MirrorSt := { primary := true, state := mirrorLinkDown', bits := [4] }; x.state = mirrorLinkDown' ∧ x.state ≠ mirrorIdle)
    ∧ (let s := mirroring { primary := true, state := mirrorShipping, batch := 1, closedAt := some 0 }; let a := poolAddr 9 1 (3 * 2 ^ 46)
      batchOpen (mirrorOf s 2) = true ∧ (mirrorOf s 2).marking = false ∧ s.node ≠ 9 ∧ addrNode a = 9 ∧ s.map.state ≠ .forming ∧ 9 ∈ s.map.pool ∧ routePort s 15 a = some 0 ∧ Uncovered s a 4096
      ∧ 1000 < 2000 ∧ 2000 ≤ lagMs s (2 : Fin 16) ∧ (mirrorOf s 2).lagExceeded = false)
    ∧ ({} : MirrorSt).primary = false := by
  refine ⟨fun _ => ⟨rfl, rfl, rfl⟩, by decide, by decide, ⟨by decide, by decide, by decide, by decide, by decide, by decide, by decide, fun _ h => (by cases h), by decide, by decide, by decide⟩, rfl⟩

/-- The exchange's job with so much outstanding and one piece for node 1 that has no reply. -/
def awaiting1 (out : Nat) (kind op : Nat) : State :=
  let j := jobOf kind op lookupWords
  { inGroup kind op lookupWords [] [] with
    rill := { (inGroup kind op lookupWords [] []).rill with jobs := [{ j with begun := true, chunks := if out = 0 then [] else [{ num := 0, reads := out }] }] }
    exch := { runs := [{ rill := 4, index := 0, group := 0, pieces := [sentPiece 1 7] }] } }
/-- A reduction of that job on its way to node 1. -/
def reducing : State :=
  let r : Req := { op := .reduce, addr := 2 ^ 54 + 64, len := 64, src := .rill 4 0 0 }
  { awaiting1 1 2 1 with mills := [], net := { sent := [{ port := 0, link := 0, tag := 9, req := r, phase := 1 }] } }
theorem witness_LostOwnersEndWhatTheyHeld :
    (∀ c ∈ [(0, 3, 2), (1, 3, 2), (0, 4, 1)], let s := awaiting1 c.1 c.2.1 c.2.2; s.keeper.up = true
      ∧ (∃ j, findJob s 4 0 = some j ∧ j.cut = false ∧ j.withdrawn = false ∧ j.slots = [] ∧ j.builds = [] ∧ j.outstanding = c.1) ∧ (findRun s 4 0).isSome = true ∧ piecesOf s 1 4 0 = true)
    ∧ ((findJob reducing 4 0).isSome = true ∧ reductionsTo reducing 1 4 0 ≠ [] ∧ ∀ m ∈ reducing.mills, m.2.job ≠ some (4, 0))
    ∧ (findWindow (gateway inWindow (pieceReq .sluiceGet [])) (3 : Fin 64)).isSome = true
    ∧ (let s := mirroring { primary := true, state := mirrorShipping, batch := 1, unacked := [64] }; (mirrorSetting s (2 : Fin 16)).isSome = true ∧ (mirrorOf s 2).primary = true ∧ batchOpen (mirrorOf s 2) = true)
    ∧ (∃ a : Announcement, ({ inPhase .released with map := { reading := [⟨5, 0, 0, 0, 0, true⟩] } } : State).map.reading.find? (fun a => a.node == (5 : Fin 1024).val) = some a) := by
  refine ⟨?_, by decide, by decide, by decide, _, rfl⟩
  intro c hc
  simp only [List.mem_cons, List.not_mem_nil, or_false] at hc
  rcases hc with rfl | rfl | rfl <;> exact ⟨rfl, ⟨_, rfl, rfl, rfl, rfl, rfl, rfl⟩, rfl, rfl⟩

/-- An owner whose rill 4 serves exchange group 0 under an identity context, with one piece posted by node n. -/
def owning (st : RillState) (mutable_ : Bool) (mills : Tbl Mill) (p : Posted) : State :=
  let s := inGroup 3 1 [] (tableMem mutable_) [0, 8192]
  { s with party := [(2, { inForce := [(0, { base := 0, count := 1, gen := 0 })] })]
           rill := { table := [(4, { state := st, kind := 3, params := [0, 8192] })], cache := [4] }
           mills, exch := { posted := [p] }
           map := { pool := [0, 9], state := .agreed }
           pins := { s.pins with serdes := true }
           net := { links := [(0, { mode := .up, inPort := true })] }
           hw := { s.hw with ports := [{ valid := true, kind := .switch, party := 2 }] } }
def lookupPiece (n : Nat) : Posted :=
  { group := 0, node := n, words := mkHeader 1 0 false false 0 1 12 0, body := [0, 0, 0, 0, 1, 0, 0, 0, 0, 0, 0, 0] }
def commitPiece : Posted := { group := 0, node := 0, words := mkHeader 3 0 false false 0 0 0 0, body := [] }
theorem owning_rests (st : RillState) (m : Bool) (ms : Tbl Mill) (p : Posted) : ExchangeRests (owning st m ms p) :=
  ⟨(fun _ h => by cases h), (fun _ h => by cases h), rfl, rfl⟩
theorem atRest_of {s : State} {w : Bool} {ctx : Option Ctx} {l : List (Nat × Nat)}
    (h : (l.all (fun r => match translateIn s ctx r.1 r.2 .load with | .pieces ps => ps.all (fun q => restless s w q.addr q.len == []) | _ => true)) = true) :
    AtRest s w ctx l := by
  intro r hr ps hps q hq
  have := List.all_eq_true.1 h r hr
  rw [hps] at this
  exact beq_iff_eq.1 (List.all_eq_true.1 this q hq)
/-- That owner under a sealed image that gives party 2 so many mills of each race, the first of them busy. -/
def sealedOwner (n : Nat) : State :=
  let s := owning .active false ((List.range 8).map (fun r => (100 * r, { job := some (5, 0) }))) (lookupPiece 9)
  { s with hw := { s.hw with weir := [pairTable 2], parties := (List.replicate 8 { mills := 0 }).set 2 { mills := n } } }
theorem witness_OwnersServePieces :
    (∀ st m ms p, ExchangeRests (owning st m ms p)) ∧ groupOf (owning .active false [] (lookupPiece 9)) (0 : Fin 16) = some { group := 0, party := 2, serveRill := 4, areaOff := 2 ^ 40, roster := [0] }
    ∧ servingOk (owning .off false [] (lookupPiece 9)) { group := 0, party := 2, serveRill := 4, areaOff := 2 ^ 40, roster := [0] } = false
    ∧ (let s := owning .active false [] (lookupPiece 9); let g : ExchangeGroup := { group := 0, party := 2, serveRill := 4, areaOff := 2 ^ 40, roster := [0] }; let p := lookupPiece 9
      servingOk s g = true ∧ pieceReady s g p = true ∧ noMills s g.party = false ∧ serveMill s g.party = some 0 ∧ (Machine.rillOf s 4).kind = 3 ∧ hdrKind p.words = 1 ∧ hdrVpin p.words = false ∧ p.slots = []
      ∧ InDram s (serveCtx s g) (lookupReads s g p) ∧ ∃ b x v, pieceBags p = [b] ∧ ownTable s g b.1.table = .ok x ∧ x.ok 2 = true ∧ x.tailHost = false ∧ serveBag s 2 (serveCtx s g) x none p.host b.1 b.2.1 b.2.2 = .ok v)
    ∧ (ExchangeRests (sealedOwner 1) ∧ noMills (sealedOwner 1) 2 = false ∧ serveMill (sealedOwner 1) 2 = none) ∧ (ExchangeRests (sealedOwner 0) ∧ noMills (sealedOwner 0) 2 = true)
    ∧ (∀ m, let s := owning .active m [] commitPiece; hdrKind commitPiece.words = 3 ∧ commitPiece.asked = [] ∧ ∃ x, ownTable s { group := 0, party := 2, serveRill := 4, areaOff := 2 ^ 40, roster := [0] } (hdrTable commitPiece.words) = .ok x
      ∧ x.mutable_ = m ∧ s.exch.staged = [] ∧ (let g : ExchangeGroup := { group := 0, party := 2, serveRill := 4, areaOff := 2 ^ 40, roster := [0] }
        InDram s (serveCtx s g) (ownRanges s g (hdrTable commitPiece.words)) ∧ AtRest s true (serveCtx s g) (commitWrites s g (hdrTable commitPiece.words) x (x.localRows (shardPos s g.party (serveCtx s g) x)) [])))
    ∧ (let s := owning .active false [] { lookupPiece 9 with working := true }; let a := poolAddr 9 0 (returnOff { group := 0, party := 2, serveRill := 4, areaOff := 2 ^ 40, roster := [0] } s.node + 16)
      9 ≠ s.node ∧ mayCall s engineKey = true ∧ addrNode a = 9 ∧ 9 ∈ s.map.pool ∧ s.map.state ≠ .forming ∧ routePort s 2 a = some 0 ∧ Uncovered s a 8) := by
  refine ⟨owning_rests, rfl, rfl, ⟨rfl, rfl, rfl, by decide, rfl, rfl, rfl, rfl, by unfold InDram; decide, _, _, _, rfl, rfl, rfl, rfl, rfl⟩, ⟨⟨(fun _ h => by cases h), (fun _ h => by cases h), rfl, rfl⟩, by decide, by decide⟩,
    ⟨⟨(fun _ h => by cases h), (fun _ h => by cases h), rfl, rfl⟩, by decide⟩, ?_, ?_⟩
  · intro m; cases m <;> exact ⟨rfl, rfl, _, rfl, rfl, rfl, by unfold InDram; decide, atRest_of (by decide)⟩
  · exact ⟨by decide, by decide, by decide, by decide, by decide, by decide, fun _ h => (by cases h)⟩

/-- An EMPTY flit, sealed; and one with a number in the place of its CRC, which is wrong for one number or the other. -/
def blanks : List Cell := List.replicate 15 {}
theorem witness_FlitsAreGoodOrBad :
    flitGood { cells := sealFlit (blanks ++ [{}]) } = true ∧ ∃ v ∈ [0#64, 0x100000000#64], flitGood { cells := blanks ++ [{ w3 := v }] } = false := by
  refine ⟨sealFlit_good rfl, ?_⟩
  by_cases h : flitGood { cells := blanks ++ [{ w3 := 0#64 }] } = true
  · refine ⟨_, List.mem_cons_of_mem _ (List.mem_singleton.2 rfl), ?_⟩
    have hu := flitCrc_upper (front := blanks) rfl { w3 := 0#64 } 0x100000000#64 (by decide)
    have hn : ∀ v, nth {} (blanks ++ [{ w3 := v }]) 15 = ({ w3 := v } : Cell) := fun _ => rfl
    simp only [flitGood, hn] at h ⊢
    rw [hu, ← beq_iff_eq.1 h]; decide
  · exact ⟨_, List.mem_cons_self, by simpa using h⟩

theorem witness_HeldRequestsAndCombinations :
    (let x : Sent := { port := 1, link := 0, tag := 9, req := {}, phase := 1, readyAt := 0 }; let s : State := { State.reset with net := { sent := [x] } }
      nextHeld s (1 : Fin 10) = some x ∧ x.tag = (9#16).toNat ∧ x.readyAt ≤ (s.link x.link).slot)
    ∧ (let s : State := { State.reset with net := { emiss := [(3, 64, 2)] } }; s.net.emiss.find? (fun x => x.1 == (3 : Fin 8).val && x.2.1 == (64#52).toNat) = some (3, 64, 2))
    ∧ (let c : Combo := { id := 1, head := { op := .load }, entries := [{}, {}] }; c.behind = [] ∧ c.head.op = .load ∧ 1 < c.entries.length)
    ∧ (let s : State := { State.reset with net := { tags := [{ port := 1, link := 0, tag := 3, disp := .accept, holdover := some 0 }] } }; ∃ y ∈ s.net.tags, y.holdover = some (0 : Fin 32).val) := by
  refine ⟨by decide, by decide, by decide, _, List.mem_singleton.2 rfl, rfl⟩

/-- A gateway of window 3 whose far side, node 9, is over port 0, with one block staged. -/
def shipping : State :=
  { onPort .switch { mode := .up } with hw := { (onPort .switch { mode := .up }).hw with windows := [inWindow] }, sluice := { stages := [stagedAt] }, map := { pool := [0, 9], state := .agreed } }
theorem witness_StagedBlocksLeave :
    Quiet shipping ∧ shipping.sluice.stages.find? (fun x => x.window == (3 : Fin 64).val && x.block == 1) = some stagedAt ∧ findWindow shipping (3 : Fin 64) = some inWindow
    ∧ stagedAt.marks = [] ∧ stagedAt.granules ≠ [] ∧ (∀ g ∈ stagedAt.granules, g.1 / 64 = 1) ∧ inWindow.site = false ∧ inWindow.farNode ∈ shipping.map.pool ∧ shipping.map.state ≠ .forming
    ∧ (let a := poolAddr inWindow.farNode 1 (inWindow.farWindow * 2 ^ 46 + (1 * blockBytes' inWindow + 4096 * 1)); routePort shipping 15 a = some 0 ∧ Uncovered shipping a 4096) :=
  ⟨⟨rfl, fun _ h => (by cases h)⟩, by decide, by decide, by decide, by decide, by decide, by decide, by decide, by decide, by decide, fun _ h => (by cases h)⟩

/-- A page whose fill, or whose move, has the flash gate. -/
def granted (w : FlashWork) (m : Move) (e : TierEntry) : State :=
  { tiered e [m] with weir := { flashOn := [(0, w)] } }
theorem witness_GrantedMovesComplete :
    (let m : Move := { page := 0, src := .flash, dest := .plain, frame := 3, race := 0 }; let s := granted (.fill 0) m { state := .moving }
      Quiet s ∧ s.rill.firings = [] ∧ m.race = preferredRace s 0 ∧ findMove s 0 = some m ∧ isOn s (.fill 0) = true ∧ (∀ x ∈ s.store.moves, x.page ≠ 0 → x.src = .plain → (tierOf s x.page).frame ≠ m.frame) ∧ Settled s ∧ m.frame ∉ s.store.retired)
    ∧ (∀ dest ∈ [TierState.riffle, .flash], let m : Move := { page := 0, src := .plain, dest, frame := 3, race := 0 }; let s := granted (.move 0) m { state := .moving }
      Quiet s ∧ findMove s 0 = some m ∧ m.src ≠ .flash ∧ m.dest ≠ .plain ∧ isPinned (tierOf s 0) = false ∧ isOn s (.move 0) = true ∧ Settled s ∧ inTransaction s 0 = false ∧ (tierOf s 0).frame ∉ s.store.retired ∧ isDamaged s 0 = false
      ∧ ∀ e ∈ s.store.tier, e.2.away = false)
    ∧ (let x : ScrubRow := { race := 0, channel := 0, row := 5, corrected := 1 }; let s := { tiered { state := .flash } [] with keeper := (inPhase .released).keeper, weir := { flashOn := [(0, FlashWork.scrub)] } }
      (x.race.val, FlashWork.scrub) ∈ s.weir.flashOn ∧ (tiered { state := .flash } []).weir.flashOn = [] ∧ (rowLines s x = [] ∧ x.corrected < 16 ∧ Tbl.get 0 s.store.rowPasses (rowNumber x) < 2 ∧ s.keeper.up = true) ∧ ∀ e ∈ s.store.tier, e.2.state = .plain → e.2.frame ∉ rowFrames s x) := by
  refine ⟨⟨⟨rfl, fun _ h => by cases h⟩, rfl, rfl, rfl, rfl, by decide, ⟨rfl, by decide, rfl⟩, by decide⟩, ?_, by decide⟩
  intro d hd
  simp only [List.mem_cons, List.not_mem_nil, or_false] at hd
  rcases hd with rfl | rfl <;> exact ⟨⟨rfl, fun _ h => by cases h⟩, rfl, by decide, by decide, by decide, by decide, ⟨rfl, by decide, rfl⟩, by decide, by decide, by decide, by decide⟩

theorem durable_through : DurableStore (withShare 0) durReq := by
  refine ⟨by decide, rfl, ⟨rfl, rfl⟩, by decide, by decide, by decide, ?_, by decide, by decide, by decide, ⟨rfl, fun x hx => by cases hx⟩, fun x hx => by cases hx⟩
  intro l _; rfl
/-- The write-through write of that request, its programming granted. -/
def throughGranted : State :=
  { withShare 0 with store := { (withShare 0).store with wt := [{ req := durReq, unit := 0 }] }, weir := { pipe := [], flashOn := [(0, .program 0)] } }
def cleanTable : WeirTable := { kind := .full, slots := [{ word := BitVec.ofNat 64 (2 ^ 51) }] }
/-- A slot in which race 0 has the flash gate and one clean write-back is in front of it. -/
def cleaning : State :=
  { withShare 1 with hw := { (withShare 1).hw with weir := [cleanTable] }
                     pins := { (withShare 1).pins with dieReset := false }, store := { (withShare 1).store with charged := [(0, 2)] }, weir := { flashQ := [(0, .clean 0)] } }
theorem witness_FlashTakesDurableData :
    (let s := throughGranted; DurableStore s durReq ∧ s.store.wt.find? (fun w => w.unit == 0) = some { req := durReq, unit := 0 } ∧ writeThrough s durReq.party = true
      ∧ isOn s (.program 0) = true ∧ memoriesWf s ∧ ∀ u ∈ unitsOf (addrOffset durReq.addr) durReq.len, isDamaged s (u / 16) = false)
    ∧ (let s := cleaning; let w : WeirTable := cleanTable
      WeirRuns s w ∧ s.weir.queue = [] ∧ s.weir.maint = [] ∧ memoriesWf s ∧ (slotNow w s).flashEn = true ∧ (slotNow w s).flashRace = 0 ∧ w.isOpen = true
      ∧ (Tbl.find s.store.charged 0).isSome = true ∧ isDamaged s (0 / 16) = false) := by
  refine ⟨⟨?_, rfl, by decide, by decide, ⟨rfl, rfl, rfl⟩, by decide⟩, ⟨rfl, rfl, ⟨rfl, fun _ h => by cases h⟩, (fun _ h => by cases h), rfl, rfl, (fun x hx hs => by cases List.mem_singleton.1 hx; obtain ⟨_, _, h⟩ := hs; cases h)⟩, rfl, rfl, ⟨rfl, rfl, rfl⟩, by decide, by decide, rfl, by decide, by decide⟩
  refine ⟨by decide, rfl, ⟨rfl, rfl⟩, by decide, by decide, by decide, ?_, by decide, by decide, by decide, ⟨rfl, fun x hx => by cases hx⟩, fun x hx => by cases hx⟩
  intro l _; rfl

theorem witness_FlushUnitsHaveTheGate :
    (let s : State := { runInService with flush := { kind := .power, set := [3], left := [3] }, weir := { flashOn := [(0, FlashWork.manifest)] } }; s.flush.kind ≠ .none ∧ s.flush.cut = false ∧ memoriesWf s ∧ s.flush.manifestDone = false ∧ isOn s FlashWork.manifest = true)
    ∧ (let s : State := { runInService with flush := { kind := .power, set := [3], left := [3], manifestDone := true }, weir := { flashOn := [(0, FlashWork.spate 3)] } }; memoriesWf s ∧ s.flush.left.head? = some 3 ∧ isOn s (.spate 3) = true)
    ∧ (let s : State := { runInService with flush := { kind := .power } }; s.flush.serdesOff = false ∧ admittedOpen s = false) := by
  refine ⟨⟨by decide, by decide, ⟨rfl, rfl, rfl⟩, by decide, by decide⟩, ⟨⟨rfl, rfl, rfl⟩, by decide, by decide⟩, by decide⟩

/-- A node whose party 2 owns rill 4 and has its private extent of one PLAIN page, the rill's image there. -/
def imageHere : State := { copyReady 1 with rill := { table := [(4, {})], cache := [4] }, store := { mem := [(8, 1#8)], tier := [(0, { state := .plain })] } }
theorem witness_ImagesAreRead :
    RillServed imageHere 2 4 ∧ inPrivate imageHere 2 (imageAddr imageHere 2 4) 128 = true
    ∧ ∃ d, shufelRead imageHere 2 (imageAddr imageHere 2 4) 128 = (.ok, d) ∧ d.length = 128 := by
  refine ⟨⟨by decide, rfl, by decide, by decide⟩, by decide, _, rfl, rfl⟩

def recordHere : State := { recordReady with store := { tier := [(0, { state := .plain })] } }
theorem witness_DoorbellsAndRecords :
    (let s := onRill { state := .active }; let v := BitVec.ofNat 64 (4 + 3 * 2 ^ 48); field v 0 16 = 4 ∧ ownsRill s (2 : Fin 8) 4 = true ∧ s.boot.ready = true ∧ 4 ∈ s.rill.cache ∧ (Machine.rillOf s 4).kind ≠ 5
      ∧ (field v 48 16 + 65536 - (Machine.rillOf s 4).descHead) % 65536 ≤ 2 ^ (Machine.rillOf s 4).descLog2)
    ∧ (let s := { onRill { state := .active } with rill := { (onRill { state := .active }).rill with cache := [], bells := [(4, 3, 0)] } }
      Tbl.find s.rill.bells 4 = some (3, 0) ∧ 4 ∉ s.rill.cache ∧ (∀ c ∈ s.rill.ctl, c.2.waiting = none)
      ∧ (s.rill.cache.filter (fun r => !isSealed s || rillParty s r == rillParty s 4)).length < cacheShare s (rillParty s 4))
    ∧ (let e := Machine.rillOf recordHere 4; mayCall recordHere engineKey = true ∧ restless recordHere true (e.compBase + 32 * (e.compTail % 2 ^ e.compLog2)) 32 = []
      ∧ ∀ j ∈ recordHere.rill.jobs, j.rill = 4 → j.cut = false ∧ j.withdrawn = false)
    ∧ (let s := onRill { state := .rearm, kind := 1 }; (Machine.rillOf s 4).running = 0 ∧ readParams s (rillParty s 4) 4 = some [] ∧ paramsOk s (rillParty s 4) 4 [] = true) := by
  refine ⟨by decide, by decide, by decide, by decide⟩

theorem witness_RequestsGoHome :
    GoesHome (running (fetchJob { num := 0, reads := 1 }) [] []) 0 0 0 identityCtx 4096 256 .store 0#64 { addr := 4096, va := 4096, len := 256, cls := .priv, coding := .plain, durable := false }
    ∧ GoesHome (onCourse 3 2) 0 2 0 (ctxOf (onCourse 3 2) 2 0) 32768 4096 .load 0#64 tilePiece
    ∧ (let c := (readCourse (onCourse 3 2) 4 0).2; c.src = 32768 ∧ entryInOrder (onCourse 3 2) 4 0 c = true ∧ entryInOrder (onCourse 3 2) 4 1 (readCourse (onCourse 3 2) 4 1).2 = true)
    ∧ (let j := millJobOf 2 0 (2 ^ 56 + 32); let s := millState j
      GoesHome s 0 2 0 identityCtx 0 128 .load 0#64 { addr := 0, va := 0, len := 128, cls := .priv, coding := .plain, durable := false } ∧ j.chunks = [] ∧ rillOutstanding s 4 < 4096)
    ∧ (let s := millState (pieceJob 2 4 (readPiece (List.replicate 16 1#8)) [])
      GoesHome s 0 2 0 identityCtx 0 16 .store 0#64 { addr := 0, va := 0, len := 16, cls := .priv, coding := .plain, durable := false }
      ∧ GoesHome s 0 2 0 identityCtx 0 16 .reduce 0#64 { addr := 0, va := 0, len := 16, cls := .priv, coding := .plain, durable := false }) := by
  refine ⟨?_, ?_, by decide, ⟨?_, rfl, by decide⟩, ?_, ?_⟩
  all_goals exact ⟨by decide, by decide, by decide, ⟨by decide, fun _ h => by cases h⟩, by decide⟩

theorem witness_PiecesFindMills :
    (let j := millJobOf 2 0 (2 ^ 56 + 32); let s := { millState j with mills := [], rill := { (millState j).rill with jobs := [{ j with begun := false }] } }
      (∀ y ∈ s.rill.jobs, wantsPiece s y = false) ∧ pickMill s 0 2 = some 0 ∧ (∀ race party, isSealed s = false → freeMills s race party = (rangeFrom (race * 100) 100).filter (fun m => (Machine.millOf s m).job.isNone)))
    ∧ (let s := millState (millJobOf 1 0 0); atHand s identityCtx 0 16 = true ∧ (∃ d, vread s 2 identityCtx 0 16 = .ok d) ∧ addrNode 0 = s.node)
    ∧ (let x := { Machine.millOf (atWord (plainStep kWait) 0#64) 3 with wait := some { va := 2048, target := 0 } }; let s := { atWord (plainStep kWait) 0#64 with mills := [(3, x)] }
      x.job = some (4, 0) ∧ findJob s 4 0 = some (millJobOf 1 0 0) ∧ readsOut x < 256
      ∧ OneLocal s 3 (millJobOf 1 0 0) 2048 8 .load 0#64 { addr := 2048, va := 2048, len := 8, cls := .priv, coding := .plain, durable := false } ∧ x.current.neverBranches = true) := by
  refine ⟨⟨by decide, by decide, ?_⟩, ⟨by decide, ⟨_, rfl⟩, by decide⟩, by decide, by decide, by decide, ?_, by decide⟩
  · intro race party h; simp only [freeMills, millsOf, h]; rfl
  · exact ⟨by decide, by decide, by decide, ⟨by decide, fun _ h => (by cases h)⟩, by decide⟩

theorem witness_LogChainRunsOn : ∃ s : State, s.keeper.up = true ∧ s.keeper.buf.length = 2 :=
  ⟨{ State.reset with keeper := { up := true, buf := [mkEntry 1 0 15 0 0 0 State.reset, mkEntry 2 0 15 0 0 0 State.reset] } }, rfl, rfl⟩

end Sys2Proof.Tests
end

section
/-!
The weir (R20, R21, R114 to R117). Each stage of a slot is said once, by what it does to the weir's queues: the requests and the device
work that a race admits, what crosses the fabric core, and the grant of the flash gate. A slot is the composition of the stages over the
races, and a period boundary is a chain of steps of which only one writes each part that the statement names.
-/
namespace Sys2Proof.WeirSlots

open Sys2Proof Sys2Proof.Machine Sys2Proof.Safety

/-! ## What admission reads of the state outside the weir -/

/-- t decides as s does what is fenced, withdrawn or held by a flush, and what touches flash. -/
structure SameGround (s t : State) : Prop where
  hw : t.hw = s.hw
  coh : t.coh = s.coh
  map : t.map = s.map
  flush : t.flush = s.flush
  gate : usesFlash t = usesFlash s

theorem SameGround.refl (s : State) : SameGround s s := ⟨rfl, rfl, rfl, rfl, rfl⟩

theorem SameGround.trans {s t u : State} (h : SameGround s t) (k : SameGround t u) : SameGround s u :=
  ⟨k.hw.trans h.hw, k.coh.trans h.coh, k.map.trans h.map, k.flush.trans h.flush, k.gate.trans h.gate⟩

/-- The weir's own state is no part of it. -/
theorem SameGround.of_weir (s : State) (v : WeirSt) : SameGround s { s with weir := v } := ⟨rfl, rfl, rfl, rfl, rfl⟩

theorem SameGround.isHome {s t : State} (h : SameGround s t) (r : Req) : isHome t r = isHome s r := by
  simp only [Machine.isHome, portEntry, State.node, h.hw]

theorem SameGround.fencedAt {s t : State} (h : SameGround s t) (off : Nat) : fencedAt t off = fencedAt s off := by
  have hd : domainOfAgent t = domainOfAgent s := by funext p; simp only [domainOfAgent, h.coh]
  simp only [Machine.fencedAt, fenced, extentDomain, hd, h.hw]

theorem SameGround.admits {s t : State} (h : SameGround s t) (q : QEntry) : admits t q = admits s q := by
  simp only [Machine.admits, h.flush]

/-- An update of the tier map that leaves DIRTY and the state of the page changes nothing of what touches flash. -/
theorem usesFlash_updTier (p : Nat) (f : TierEntry → TierEntry) (s : State) (hd : ∀ e, (f e).dirty = e.dirty)
    (hs : ∀ e, (f e).state = e.state) : usesFlash (updTier p f s) = usesFlash s := by
  have tier : ∀ n, (tierOf (updTier p f s) n).dirty = (tierOf s n).dirty ∧ (tierOf (updTier p f s) n).state = (tierOf s n).state := by
    intro n
    simp only [tierOf, updTier, Tbl.get_upd]
    split
    · next e => subst e; exact ⟨hd _, hs _⟩
    · exact ⟨rfl, rfl⟩
  funext x
  cases x <;> simp only [usesFlash, (tier _).1, (tier _).2]
  rfl

theorem countAccess_ground (page party : Nat) (s : State) : SameGround s (countAccess page party s) := by
  unfold countAccess
  split
  · exact .refl s
  · exact ⟨updTier_hw .., updTier_coh .., updTier_map .., updTier_flush .., usesFlash_updTier _ _ _ (fun _ => rfl) (fun _ => rfl)⟩

theorem noteDurable_ground (r : Req) (s : State) : SameGround s (noteDurable r s) := by
  have hd : SameGround s (setDurMap (addrOffset r.addr) r.len s) := ⟨rfl, rfl, rfl, rfl, rfl⟩
  simp only [noteDurable]
  split
  · exact hd
  · exact .refl s

theorem touchLines_ground (off len : Nat) (s : State) : SameGround s (touchLines off len s) := ⟨rfl, rfl, rfl, rfl, rfl⟩

theorem countAccess_weir (page party : Nat) (s : State) : (countAccess page party s).weir = s.weir :=
  weir_eq (countAccess_keeps (g := .weirCtl) rfl page party s (.refl _ s)) (countAccess_keeps (g := .weirQ) rfl page party s (.refl _ s))

theorem noteDurable_weir (r : Req) (s : State) : (noteDurable r s).weir = s.weir :=
  weir_eq (noteDurable_keeps (g := .weirCtl) rfl r s (.refl _ s)) (noteDurable_keeps (g := .weirQ) rfl r s (.refl _ s))

/-! ## Requests admitted -/

/-- No fence keeps a request from its extent (R141). -/
def Unfenced (s : State) (q : QEntry) : Prop :=
  isHome s q.req = true → addrSpace q.req.addr = 0 → fencedAt s (addrOffset q.req.addr) = false

theorem Unfenced.mono {s t : State} {q : QEntry} (h : Unfenced s q) (k : SameGround s t) : Unfenced t q := by
  unfold Unfenced
  rw [k.isHome, k.fencedAt]
  exact h

/-- A request out of its queue. -/
def unqueue (q : QEntry) (s : State) : State := { s with weir := { s.weir with queue := s.weir.queue.erase q } }

/-- A request for memory of this home noted: counted for its page, in the durable page map, and as a write over provisional reads (R68,
R79, R136). -/
def noted (r : Req) (s : State) : State :=
  let mem := isHome s r && addrSpace r.addr == 0
  let t := if mem then noteDurable r (countAccess (tierPage (addrOffset r.addr)) r.party s) else s
  if mem && isWriteOp r.op then touchLines (addrOffset r.addr) r.len t else t

/-- A request at the end of the pipeline. -/
def piped (r : Req) (s : State) : State := { s with weir := { s.weir with pipe := s.weir.pipe ++ [r] } }

theorem noted_weir (r : Req) (s : State) : (noted r s).weir = s.weir := by
  have hc := (noteDurable_weir r (countAccess (tierPage (addrOffset r.addr)) r.party s)).trans (countAccess_weir ..)
  have ht : ∀ t, (touchLines (addrOffset r.addr) r.len t).weir = t.weir := fun _ => rfl
  simp only [noted]
  split <;> split <;> simp only [ht, hc]

theorem noted_ground (r : Req) (s : State) : SameGround s (noted r s) := by
  have hc := (countAccess_ground (tierPage (addrOffset r.addr)) r.party s).trans (noteDurable_ground r _)
  have ht : ∀ t, SameGround t (touchLines (addrOffset r.addr) r.len t) := touchLines_ground _ _
  simp only [noted]
  split <;> split
  · exact hc.trans (ht _)
  · exact ht _
  · exact hc
  · exact .refl _

/-- A request that comes to its admission is withdrawn, refused at a fence, or noted and piped (R49, R114, R141). -/
theorem admitOne_eq (s : State) (q : QEntry) : admitOne s q =
    if s.map.teardown && !targetKept (unqueue q s) q.req then withdraw (unqueue q s) q.req
    else if isHome s q.req && addrSpace q.req.addr == 0 && fencedAt s (addrOffset q.req.addr) && hasResponse q.req.op then
      complete q.req .domainDown [] (unqueue q s)
    else piped q.req (noted q.req (unqueue q s)) := rfl

theorem admitOne_admits {s : State} {q : QEntry} (hk : s.map.teardown = false) (hf : Unfenced s q) :
    admitOne s q = piped q.req (noted q.req (unqueue q s)) := by
  rw [admitOne_eq, if_neg (by simp [hk]), if_neg]
  simp only [Bool.and_eq_true, beq_iff_eq]
  rintro ⟨⟨⟨hh, ha⟩, hd⟩, -⟩
  simp [hf hh ha] at hd

/-- An admitted request leaves its queue for the end of the pipeline. -/
theorem admitOne_weir {s : State} {q : QEntry} (hk : s.map.teardown = false) (hf : Unfenced s q) :
    (admitOne s q).weir = { s.weir with queue := s.weir.queue.erase q, pipe := s.weir.pipe ++ [q.req] } := by
  rw [admitOne_admits hk hf]
  simp only [piped, noted_weir]
  rfl

theorem admitOne_ground {s : State} {q : QEntry} (hk : s.map.teardown = false) (hf : Unfenced s q) : SameGround s (admitOne s q) := by
  rw [admitOne_admits hk hf]
  have hu : SameGround s (unqueue q s) := .of_weir s _
  exact (hu.trans (noted_ground q.req _)).trans (.of_weir _ _)

/-- Requests admitted one after the other leave their queues for the end of the pipeline, in that order. -/
theorem admitOnes_weir (qs : List QEntry) (s : State) (hk : s.map.teardown = false) (hf : ∀ q ∈ qs, Unfenced s q) :
    (qs.foldl admitOne s).weir = { s.weir with queue := s.weir.queue.diff qs, pipe := s.weir.pipe ++ qs.map (·.req) }
      ∧ SameGround s (qs.foldl admitOne s) := by
  induction qs generalizing s with
  | nil => exact ⟨by simp, .refl s⟩
  | cons q qs ih =>
    have hq := hf q List.mem_cons_self
    have hw := admitOne_weir hk hq
    have hg := admitOne_ground hk hq
    obtain ⟨iw, ig⟩ := ih (admitOne s q) (hg.map ▸ hk) (fun x hx => (hf x (List.mem_cons_of_mem q hx)).mono hg)
    exact ⟨by simp [iw, hw], hg.trans ig⟩

/-! ## Device work admitted -/

/-- Device work other than a shipment leaves the maintenance queue for the flash gate where it touches flash, and else is under way. -/
theorem admitWork_eq {s : State} {x : Nat × FlashWork} (hx : ¬ Shipping x) : admitWork s x =
    { s with weir := { s.weir with
        maint := s.weir.maint.erase x
        flashQ := s.weir.flashQ ++ (if usesFlash s x.2 then [x] else [])
        flashOn := s.weir.flashOn ++ (if usesFlash s x.2 then [] else [x]) } } := by
  obtain ⟨race, k⟩ := x
  have hu : usesFlash { s with weir := { s.weir with maint := s.weir.maint.erase (race, k) } } k = usesFlash s k :=
    congrFun (SameGround.of_weir s _).gate k
  unfold admitWork
  simp only [hu]
  split
  · simp
  · cases k with
    | ship i p => exact absurd ⟨i, p, rfl⟩ hx
    | _ => simp

/-- Device work admitted one piece after the other. -/
theorem admitWorks_eq (ws : List (Nat × FlashWork)) (s : State) (hx : ∀ x ∈ ws, ¬ Shipping x) : ws.foldl admitWork s =
    { s with weir := { s.weir with
        maint := s.weir.maint.diff ws
        flashQ := s.weir.flashQ ++ ws.filter (fun x => usesFlash s x.2)
        flashOn := s.weir.flashOn ++ ws.filter (fun x => !usesFlash s x.2) } } := by
  induction ws generalizing s with
  | nil => simp
  | cons x ws ih =>
    rw [List.foldl_cons, ih _ (fun y hy => hx y (List.mem_cons_of_mem x hy)), admitWork_eq (hx x List.mem_cons_self)]
    have hu : ∀ v, usesFlash { s with weir := v } = usesFlash s := fun v => (SameGround.of_weir s v).gate
    simp only [hu]
    cases h : usesFlash s x.2 <;> simp [h]

/-! ## The admission of one race -/

/-- A slot of this state admits requests and device work, and withdraws, refuses or ships nothing. -/
structure Admissible (s : State) : Prop where
  kept : s.map.teardown = false
  fences : NoneFenced s
  ships : ∀ x ∈ s.weir.maint, ¬ Shipping x

/-- The requests that a race admits, in the order of R34. -/
def requestsOf (w : WeirTable) (slot : WeirSlot) (s : State) (race : Nat) : List QEntry := inCycleOrder (served s w slot race)

/-- The device work that a race admits for what is left of the eight. -/
def workOf (w : WeirTable) (slot : WeirSlot) (s : State) (race : Nat) : List (Nat × FlashWork) :=
  (deviceWork s race (servedPair s w slot race)).take (8 - (served s w slot race).length)

theorem admitRace_eq (w : WeirTable) (slot : WeirSlot) (s : State) (race : Nat) :
    admitRace w slot s race = (workOf w slot s race).foldl admitWork ((requestsOf w slot s race).foldl admitOne s) := rfl

/-- A request that a race admits has crossed the fabric core and waits there for the pair that the race serves. -/
theorem mem_requestsOf {w : WeirTable} {slot : WeirSlot} {s : State} {race : Nat} {q : QEntry} (h : q ∈ requestsOf w slot s race) :
    q ∈ s.weir.queue ∧ q.crossing = false ∧ q.race = race
      ∧ ({ party := q.party, tclass := q.tclass } : PairSlot) = servedPair s w slot race := by
  simp only [requestsOf, inCycleOrder, List.mem_flatMap, List.mem_filter] at h
  obtain ⟨_, -, hq, -⟩ := h
  have hq := List.mem_of_mem_take hq
  simp only [queueOf, List.mem_filter, Bool.and_eq_true, beq_iff_eq, Bool.not_eq_true'] at hq
  obtain ⟨hq, ⟨⟨⟨hr, hp⟩, hc⟩, hx⟩, -⟩ := hq
  exact ⟨hq, hx, hr, by rw [hp, hc]⟩

/-- Device work that a race admits waits for a maintenance slot, or is the patrol read. -/
theorem mem_workOf {w : WeirTable} {slot : WeirSlot} {s : State} {race : Nat} {x : Nat × FlashWork} (h : x ∈ workOf w slot s race) :
    x ∈ s.weir.maint ∨ x.2 = .scrub := by
  have h := List.mem_of_mem_take h
  unfold deviceWork at h
  split at h
  · cases h
  · rcases List.mem_append.1 h with h | h
    · exact .inl (List.mem_filter.1 h).1
    · split at h
      · exact .inr (by rw [List.mem_singleton.1 h])
      · cases h

theorem workOf_not_shipping {w : WeirTable} {slot : WeirSlot} {s : State} {race : Nat} (h : Admissible s) :
    ∀ x ∈ workOf w slot s race, ¬ Shipping x := by
  intro x hx
  rcases mem_workOf hx with hm | he
  · exact h.ships x hm
  · rintro ⟨i, p, e⟩; simp [he] at e

/-- In a sealed table a race serves the pair that the slot names and no other (R116). -/
theorem servedPair_sealed {w : WeirTable} (hw : w.isOpen = false) (slot : WeirSlot) (s : State) (race : Nat) :
    servedPair s w slot race = slot.race race := by
  simp [servedPair, hw]

/-- The queues after the admission of a race. -/
theorem admitRace_weir (w : WeirTable) (slot : WeirSlot) {s : State} (race : Nat) (h : Admissible s) :
    (admitRace w slot s race).weir = { s.weir with
        queue := s.weir.queue.diff (requestsOf w slot s race)
        pipe := s.weir.pipe ++ (requestsOf w slot s race).map (·.req)
        maint := s.weir.maint.diff (workOf w slot s race)
        flashQ := s.weir.flashQ ++ (workOf w slot s race).filter (fun x => usesFlash s x.2)
        flashOn := s.weir.flashOn ++ (workOf w slot s race).filter (fun x => !usesFlash s x.2) }
      ∧ SameGround s (admitRace w slot s race) := by
  obtain ⟨hw, hg⟩ := admitOnes_weir (requestsOf w slot s race) s h.kept (fun q hq => h.fences q (mem_requestsOf hq).1)
  rw [admitRace_eq, admitWorks_eq _ _ (workOf_not_shipping h), hg.gate, hw]
  exact ⟨rfl, hg.trans (.of_weir _ _)⟩

/-! ## The admission of all races -/

/-- What a slot has done to the queues of s when t stands after the admission of some races. -/
structure Admitted (w : WeirTable) (slot : WeirSlot) (s t : State) : Prop where
  ground : SameGround s t
  /-- Nothing else of the weir has changed. -/
  rest : t.weir = { s.weir with queue := t.weir.queue, pipe := t.weir.pipe, maint := t.weir.maint, flashQ := t.weir.flashQ
                                flashOn := t.weir.flashOn }
  queue : t.weir.queue ⊆ s.weir.queue
  pipe : ∃ l, t.weir.pipe = s.weir.pipe ++ l ∧ ∀ r ∈ l, ∃ q ∈ s.weir.queue, q.req = r ∧ q.crossing = false
  maint : t.weir.maint ⊆ s.weir.maint
  flashQ : ∀ x ∈ t.weir.flashQ, x ∈ s.weir.flashQ ∨ x ∈ s.weir.maint
  flashOn : ∃ l, t.weir.flashOn = s.weir.flashOn ++ l ∧ ∀ x ∈ l, (x ∈ s.weir.maint ∨ x.2 = .scrub) ∧ usesFlash s x.2 = false
  named : w.isOpen = false → ∀ q ∈ s.weir.queue, ({ party := q.party, tclass := q.tclass } : PairSlot) ≠ slot.race q.race →
    q ∈ t.weir.queue

theorem Admitted.refl (w : WeirTable) (slot : WeirSlot) (s : State) : Admitted w slot s s where
  ground := .refl s
  rest := rfl
  queue := List.Subset.refl _
  pipe := ⟨[], by simp⟩
  maint := List.Subset.refl _
  flashQ := fun _ h => .inl h
  flashOn := ⟨[], by simp⟩
  named := fun _ _ h _ => h

theorem Admitted.trans {w : WeirTable} {slot : WeirSlot} {s t u : State} (h : Admitted w slot s t) (k : Admitted w slot t u) :
    Admitted w slot s u where
  ground := h.ground.trans k.ground
  rest := by rw [k.rest, h.rest]
  queue := fun _ hx => h.queue (k.queue hx)
  pipe := by
    obtain ⟨l, el, hl⟩ := h.pipe
    obtain ⟨m, em, hm⟩ := k.pipe
    refine ⟨l ++ m, by rw [em, el, List.append_assoc], fun r hr => ?_⟩
    rcases List.mem_append.1 hr with hr | hr
    · exact hl r hr
    · obtain ⟨q, hq, e⟩ := hm r hr
      exact ⟨q, h.queue hq, e⟩
  maint := fun _ hx => h.maint (k.maint hx)
  flashQ := fun x hx => (k.flashQ x hx).elim (h.flashQ x) (fun hm => .inr (h.maint hm))
  flashOn := by
    obtain ⟨l, el, hl⟩ := h.flashOn
    obtain ⟨m, em, hm⟩ := k.flashOn
    refine ⟨l ++ m, by rw [em, el, List.append_assoc], fun x hx => ?_⟩
    rcases List.mem_append.1 hx with hx | hx
    · exact hl x hx
    · obtain ⟨ha, hb⟩ := hm x hx
      exact ⟨ha.imp_left (fun hi => h.maint hi), h.ground.gate ▸ hb⟩
  named := fun ho q hq hn => k.named ho q (h.named ho q hq hn) hn

theorem Admitted.admissible {w : WeirTable} {slot : WeirSlot} {s t : State} (k : Admitted w slot s t) (h : Admissible s) : Admissible t where
  kept := k.ground.map ▸ h.kept
  fences := fun q hq => Unfenced.mono (h.fences q (k.queue hq)) k.ground
  ships := fun x hx => h.ships x (k.maint hx)

/-- The admission of one race. -/
theorem admitRace_admitted (w : WeirTable) (slot : WeirSlot) {s : State} (race : Nat) (h : Admissible s) :
    Admitted w slot s (admitRace w slot s race) := by
  obtain ⟨hw, hg⟩ := admitRace_weir w slot race h
  constructor
  case ground => exact hg
  case rest => rw [hw]
  case queue => rw [hw]; exact (List.diff_sublist _ _).subset
  case pipe =>
    rw [hw]
    refine ⟨_, rfl, fun r hr => ?_⟩
    obtain ⟨q, hq, rfl⟩ := List.mem_map.1 hr
    obtain ⟨hq, hx, -, -⟩ := mem_requestsOf hq
    exact ⟨q, hq, rfl, hx⟩
  case maint => rw [hw]; exact (List.diff_sublist _ _).subset
  case flashQ =>
    rw [hw]
    intro x hx
    refine (List.mem_append.1 hx).imp_right (fun hx => ?_)
    obtain ⟨hx, hu⟩ := List.mem_filter.1 hx
    refine (mem_workOf hx).resolve_right (fun e => ?_)
    simp [e, usesFlash] at hu
  case flashOn =>
    rw [hw]
    refine ⟨_, rfl, fun x hx => ?_⟩
    obtain ⟨hx, hu⟩ := List.mem_filter.1 hx
    exact ⟨mem_workOf hx, by simpa using hu⟩
  case named =>
    rw [hw]
    intro ho q hq hn
    refine List.mem_diff_of_mem hq (fun hm => hn ?_)
    obtain ⟨-, -, rfl, e⟩ := mem_requestsOf hm
    rw [e, servedPair_sealed ho]

theorem admitRaces_admitted (w : WeirTable) (slot : WeirSlot) (races : List Nat) (s : State) (h : Admissible s) :
    Admitted w slot s (races.foldl (admitRace w slot) s) := by
  induction races generalizing s with
  | nil => exact .refl w slot s
  | cons race races ih =>
    have h1 := admitRace_admitted w slot race h
    exact h1.trans (ih _ (h1.admissible h))

/-! ## An entry alone in its queue -/

/-- A race with no entry in its queues admits none. -/
theorem requestsOf_none {w : WeirTable} {slot : WeirSlot} {s : State} {race : Nat} (h : ∀ q ∈ s.weir.queue, q.race ≠ race) :
    requestsOf w slot s race = [] :=
  List.eq_nil_iff_forall_not_mem.2 (fun q hq => by
    obtain ⟨hq, -, hr, -⟩ := mem_requestsOf hq
    exact h q hq hr)

theorem inCycleOrder_singleton {q : QEntry} (h : cycleOrder q.req < 14) : inCycleOrder [q] = [q] := by
  simp only [inCycleOrder, List.filter_singleton]
  generalize cycleOrder q.req = n at h
  interval_cases n <;> rfl

/-- The only entry of the queues, of the pair that the slot names for its race, is what the race admits. -/
theorem requestsOf_alone {w : WeirTable} {slot : WeirSlot} {s : State} {q : QEntry} (hq : s.weir.queue = [q]) (hx : q.crossing = false)
    (ho : cycleOrder q.req < 14) (ha : admits s q = true) (hn : slot.race q.race = { party := q.party, tclass := q.tclass }) :
    requestsOf w slot s q.race = [q] := by
  have hs : queueOf s q.race (slot.race q.race) = [q] := by simp [queueOf, hq, hx, ha, hn]
  have hp : servedPair s w slot q.race = slot.race q.race := by simp [servedPair, hs]
  simp only [requestsOf, served, hp, hs, List.take_succ_cons, List.take_nil, inCycleOrder_singleton ho]

/-- It stands in the pipeline after the admission of its race, and no other race admits anything. -/
theorem admitRaces_alone {w : WeirTable} {slot : WeirSlot} {q : QEntry} (hx : q.crossing = false) (ho : cycleOrder q.req < 14)
    (hn : slot.race q.race = { party := q.party, tclass := q.tclass }) (races : List Nat) (hm : q.race ∈ races) (s : State)
    (h : Admissible s) (hq : s.weir.queue = [q]) (ha : admits s q = true) :
    (races.foldl (admitRace w slot) s).weir.queue = [] ∧ (races.foldl (admitRace w slot) s).weir.pipe = s.weir.pipe ++ [q.req] := by
  induction races generalizing s with
  | nil => cases hm
  | cons race races ih =>
    obtain ⟨hw, hg⟩ := admitRace_weir w slot race h
    have h1 := (admitRace_admitted w slot race h).admissible h
    by_cases e : q.race = race
    · subst e
      rw [requestsOf_alone hq hx ho ha hn, hq] at hw
      have h2 := admitRaces_admitted w slot races _ h1
      have hempty : (admitRace w slot s q.race).weir.queue = [] := by rw [hw]; simp
      obtain ⟨l, hl, hin⟩ := h2.pipe
      have hnil : l = [] := List.eq_nil_iff_forall_not_mem.2 (fun r hr => by
        obtain ⟨_, hr, -⟩ := hin r hr
        simp [hempty] at hr)
      exact ⟨List.subset_nil.1 (hempty ▸ h2.queue), by rw [List.foldl_cons, hl, hnil, hw]; simp⟩
    · rw [requestsOf_none (by simpa [hq] using e), hq] at hw
      obtain ⟨iq, ip⟩ := ih ((List.mem_cons.1 hm).resolve_left e) _ h1 (by rw [hw]; simp) (hg.admits q ▸ ha)
      exact ⟨iq, by rw [List.foldl_cons, ip, hw]; simp⟩

/-! ## The fabric core -/

/-- The weir of t is that of s after some requests have crossed: only the queues have changed, and what had crossed before still waits
there. -/
structure Crossed (s t : State) : Prop where
  rest : t.weir = { s.weir with queue := t.weir.queue }
  stays : ∀ q ∈ s.weir.queue, q.crossing = false → q ∈ t.weir.queue
  empty : s.weir.queue = [] → t.weir.queue = []

theorem Crossed.refl (s : State) : Crossed s s := ⟨rfl, fun _ h _ => h, id⟩

theorem Crossed.trans {s t u : State} (h : Crossed s t) (k : Crossed t u) : Crossed s u :=
  ⟨by rw [k.rest, h.rest], fun q hq hx => k.stays q (h.stays q hq hx) hx, fun he => k.empty (h.empty he)⟩

/-- An entry enters a queue, and none leaves it. -/
theorem subset_queueWith (q : QEntry) (more l : List QEntry) : l ⊆ queueWith q more l := by
  unfold queueWith
  extract_lets after
  intro x hx
  rw [← List.takeWhile_append_dropWhile (p := fun y => !after y) (l := l), List.mem_append] at hx
  simp only [List.mem_append, List.mem_cons]
  exact hx.imp_left (fun h => .inl h)

theorem grantRace_crossed (w : WeirTable) (slot : WeirSlot) (s : State) (race : Nat) : Crossed s (grantRace w slot s race) := by
  unfold grantRace
  extract_lets row asks
  split
  · next q hq =>
    obtain ⟨st, -, hq⟩ := List.exists_of_findSome?_eq_some hq
    obtain ⟨hm, hasks⟩ := List.mem_filter.1 (List.mem_of_find?_eq_some hq)
    simp only [Bool.and_eq_true] at hasks
    obtain ⟨⟨hcross, -⟩, -⟩ := hasks
    refine ⟨rfl, fun x hx hc => subset_queueWith _ _ _ ?_, fun he => absurd hm (by simp [he])⟩
    exact (List.mem_erase_of_ne (fun e => by simp [e, hcross] at hc)).2 hx
  · exact .refl s

theorem grantRaces_crossed (w : WeirTable) (slot : WeirSlot) (races : List Nat) (s : State) :
    Crossed s (races.foldl (grantRace w slot) s) :=
  keeps_foldl (P := Crossed s) (fun t race h => h.trans (grantRace_crossed w slot t race)) races s (.refl s)

/-! ## The flash gate -/

theorem cleanNow_weir (u : Nat) (s : State) : (cleanNow u s).weir = s.weir :=
  weir_eq (cleanNow_keeps (g := .weirCtl) rfl u s (.refl _ s)) (cleanNow_keeps (g := .weirQ) rfl u s (.refl _ s))

/-- Work granted is under way, or done with its grant where it is a write-back. -/
theorem grantWork_weir {x : Nat × FlashWork} (hx : ¬ Shipping x) (s : State) :
    ∃ g, (grantWork x s).weir = { s.weir with flashOn := s.weir.flashOn ++ g } ∧ g.Sublist [x] := by
  obtain ⟨race, k⟩ := x
  cases k with
  | ship i p => exact absurd ⟨i, p, rfl⟩ hx
  | clean u => exact ⟨[], by simp [grantWork, cleanNow_weir], List.nil_sublist _⟩
  | _ => exact ⟨_, rfl, List.Sublist.refl _⟩

/-- The flash gate grants at most one piece of work, of FLASH_RACE, and nothing with FLASH_EN clear. -/
theorem grantFlash_weir (w : WeirTable) (slot : WeirSlot) (s : State) (hs : ∀ x ∈ s.weir.flashQ, ¬ Shipping x) :
    ∃ fq g, (grantFlash w slot s).weir = { s.weir with flashQ := fq, flashOn := s.weir.flashOn ++ g }
      ∧ g.length ≤ 1 ∧ ∀ x ∈ g, x ∈ s.weir.flashQ ∧ slot.flashEn = true ∧ x.1 = slot.flashRace := by
  have hnone : ∃ fq g, s.weir = { s.weir with flashQ := fq, flashOn := s.weir.flashOn ++ g }
      ∧ g.length ≤ 1 ∧ ∀ x ∈ g, x ∈ s.weir.flashQ ∧ slot.flashEn = true ∧ x.1 = slot.flashRace := ⟨s.weir.flashQ, [], by simp⟩
  unfold grantFlash
  split
  · exact hnone
  · next he =>
    extract_lets named
    split
    · next x hx =>
      have hm := List.mem_of_find?_eq_some hx
      have hr := List.find?_some hx
      obtain ⟨g, hg, hl⟩ := grantWork_weir (hs x hm) { s with weir := { s.weir with flashQ := s.weir.flashQ.erase x } }
      refine ⟨_, g, hg, hl.length_le, fun y hy => ?_⟩
      obtain rfl := List.mem_singleton.1 (hl.subset hy)
      simp only [Bool.and_eq_true, beq_iff_eq] at hr
      exact ⟨hm, by simpa using he, hr.1⟩
    · exact hnone

/-! ## The slot -/

/-- With nothing stalled at its source nothing is offered again. -/
theorem wakeStalled_none {s : State} (h : s.weir.stalled = []) : wakeStalled s = s := by
  have e : { s with weir := { s.weir with stalled := [] } } = s := by rw [← h]
  unfold wakeStalled
  rw [h, e]
  rfl

/-- With no completion of the node's own work to take, nothing follows a command. -/
theorem pump_quiet {s : State} (h : ∀ x ∈ s.weir.landed, selfWork x = false) : pump s = s := by
  have hn : s.weir.landed.find? selfWork = none := List.find?_eq_none.2 (fun x hx => by simp [h x hx])
  have hall : ∀ n, pumpAll n s = s := fun n => by cases n <;> simp [pumpAll, hn]
  exact hall _

/-- Admission over the races. -/
def admitStage (w : WeirTable) (slot : WeirSlot) (s : State) : State := (List.range 8).foldl (admitRace w slot) s

/-- The fabric core over the races. -/
def crossStage (w : WeirTable) (slot : WeirSlot) (s : State) : State := (List.range 8).foldl (grantRace w slot) s

theorem weirSlot_eq {s : State} {w : WeirTable} (hr : s.pins.dieReset = false) (hw : weirTable s s.weir.kind = some w) :
    let t := wakeStalled (grantFlash w (slotNow w s) (crossStage w (slotNow w s) (admitStage w (slotNow w s) s)))
    weirSlot s = { t with weir := { t.weir with cycle := t.weir.cycle + 1 } } := by
  simp only [weirSlot, hr, hw]
  rfl

theorem admissible_of_runs {s : State} {w : WeirTable} (h : WeirRuns s w) : Admissible s :=
  ⟨h.kept, h.fences, fun x hx => h.ships x (List.mem_append_left _ hx)⟩

/-- The weir after a slot: what admission left, the queues as the fabric core fills them, a grant of the flash gate, and the next cycle. -/
theorem weirSlot_weir {s : State} {w : WeirTable} (h : WeirRuns s w) :
    ∃ a c fq g, a = admitStage w (slotNow w s) s ∧ Admitted w (slotNow w s) s a ∧ Crossed a c
      ∧ (weirSlot s).weir = { a.weir with queue := c.weir.queue, flashQ := fq, flashOn := a.weir.flashOn ++ g, cycle := s.weir.cycle + 1 }
      ∧ g.length ≤ 1
      ∧ ∀ x ∈ g, (x ∈ s.weir.flashQ ∨ x ∈ s.weir.maint) ∧ (slotNow w s).flashEn = true ∧ x.1 = (slotNow w s).flashRace := by
  obtain ⟨a, ea⟩ : ∃ a, a = admitStage w (slotNow w s) s := ⟨_, rfl⟩
  obtain ⟨c, ec⟩ : ∃ c, c = crossStage w (slotNow w s) a := ⟨_, rfl⟩
  have ha : Admitted w (slotNow w s) s a := ea ▸ admitRaces_admitted w _ _ s (admissible_of_runs h)
  have hc : Crossed a c := ec ▸ grantRaces_crossed w _ _ a
  have he := weirSlot_eq h.released h.table
  rw [← ea, ← ec] at he
  have hq : ∀ x ∈ c.weir.flashQ, x ∈ s.weir.flashQ ∨ x ∈ s.weir.maint := by rw [hc.rest]; exact ha.flashQ
  obtain ⟨fq, g, hw, hl, hg⟩ := grantFlash_weir w (slotNow w s) c (fun x hx => h.ships x (List.mem_append.2 (hq x hx).symm))
  have hs : (grantFlash w (slotNow w s) c).weir.stalled = [] := by rw [hw, hc.rest, ha.rest]; exact h.credit
  refine ⟨a, c, fq, g, ea, ha, hc, ?_, hl, fun x hx => ⟨hq x (hg x hx).1, (hg x hx).2⟩⟩
  simp only [he, wakeStalled_none hs, hw]
  rw [hc.rest, ha.rest]

/-- The only entry of the queues, of the pair that the slot names for its race, is admitted. -/
theorem weirSlot_alone {s : State} {w : WeirTable} (h : WeirRuns s w) {q : QEntry} (hq : s.weir.queue = [q]) (hx : q.crossing = false)
    (hr : q.race < 8) (ho : cycleOrder q.req < 14) (ha : admits s q = true)
    (hn : (slotNow w s).race q.race = { party := q.party, tclass := q.tclass }) :
    (weirSlot s).weir.pipe = s.weir.pipe ++ [q.req] ∧ (weirSlot s).weir.queue = [] := by
  obtain ⟨a, c, fq, g, ea, -, hc, hw, -, -⟩ := weirSlot_weir h
  have hl := admitRaces_alone (w := w) hx ho hn (List.range 8) (List.mem_range.2 hr) s (admissible_of_runs h) hq ha
  rw [← admitStage, ← ea] at hl
  rw [hw]
  exact ⟨hl.2, hc.empty hl.1⟩

/-! ## The period boundary -/

/-- The next slot 0 is at hand or less than a period away. -/
theorem nextPeriod_spec (c : Nat) : nextPeriod c % 8192 = 0 ∧ c ≤ nextPeriod c ∧ nextPeriod c < c + 8192 := by
  unfold nextPeriod
  omega

/-- A request of the migrator that fails at once leaves no completion. -/
theorem complete_migrator {r : Req} (hs : r.src = .migrator) (hj : r.join = none) (st : Status) (data : Bytes) (s : State) :
    complete r st data s = s := by
  simp [complete, finish, hs, hj]

theorem fresh_landed (r : Req) (s : State) : (fresh r s).2.weir.landed = s.weir.landed := rfl

theorem numbered_landed (r : Req) (s : State) : (numbered r s).2.weir.landed = s.weir.landed := by
  unfold numbered
  split
  · split
    · exact fresh_landed r s
    · rfl
  · exact fresh_landed r s

theorem enqueue_landed (r : Req) (s : State) : (enqueue r s).weir.landed = s.weir.landed := numbered_landed _ s

theorem place_landed (port : Option Nat) (r : Req) (s : State) : (place port r s).weir.landed = s.weir.landed := by
  unfold place
  split
  · rfl
  · split
    · rfl
    · exact enqueue_landed r s

theorem offer_landed (port : Option Nat) (r : Req) (s : State) : (offer port r s).weir.landed = s.weir.landed := by
  unfold offer
  split
  · exact place_landed port r s
  · rfl

theorem issue_landed {r : Req} (hs : r.src = .migrator) (hj : r.join = none) (s : State) :
    (issue r s).weir.landed = s.weir.landed := by
  unfold issue
  split
  · exact offer_landed _ _ s
  · rw [complete_migrator hs hj]

theorem sendPin_landed (party : Nat) (remove : Bool) (r : Nat × Nat) (s : State) :
    (sendPin party remove r s).weir.landed = s.weir.landed := by
  simp only [sendPin]
  split
  · rfl
  · exact issue_landed rfl rfl s

theorem sendPins_landed (party : Nat) (remove : Bool) (rs : List (Nat × Nat)) (s : State) :
    (rs.foldl (fun s r => sendPin party remove r s) s).weir.landed = s.weir.landed :=
  keeps_foldl (P := fun t => t.weir.landed = s.weir.landed) (fun t r h => (sendPin_landed party remove r t).trans h) rs s rfl

/-- A bank that comes into force sends pins and takes no completion (R58, R72). -/
theorem syncInForce_landed (party : Nat) (s : State) : (syncInForce party s).weir.landed = s.weir.landed := by
  simp only [syncInForce]
  split
  · rfl
  · simp only [sendPins_landed, updPty_weir]

/-- The banks of all parties brought into force. -/
def banksInForce (s : State) : State := (List.range 8).foldl (fun s p => syncInForce p s) s

theorem banksInForce_landed (s : State) : (banksInForce s).weir.landed = s.weir.landed :=
  keeps_foldl (P := fun t => t.weir.landed = s.weir.landed) (fun t p h => (syncInForce_landed p t).trans h) _ s rfl

theorem weirCtlPart_of_keeps {s t : State} (h : Keeps .weirCtl s t) : weirCtlPart t.weir = weirCtlPart s.weir := h

theorem slots_of_keeps {s t : State} (h : Keeps .slots s t) : t.shoal.slots = s.shoal.slots :=
  (congrArg (fun x : ShoalSt => x.slots) (show slotsPart t.shoal = slotsPart s.shoal from h) :)

theorem banksInForce_keeps {g : Part} (hg : Free 134220544 g) (s : State) : Keeps g s (banksInForce s) :=
  keeps_foldl (P := Keeps g s) (fun t p h => syncInForce_keeps hg p t h) _ s (.refl g s)

/-- t counts the cycles and holds the completions that s does. -/
def SameRun (s t : State) : Prop := t.weir.landed = s.weir.landed ∧ t.weir.cycle = s.weir.cycle

theorem SameRun.maintain {s t : State} (h : SameRun s t) (race : Nat) (x : FlashWork) : SameRun s (maintain race x t) := h

/-- A flush that begins gives device work to the weir, whose count of cycles runs on. -/
theorem flushBegins_sameRun (s : State) : SameRun s (flushBegins s) := by
  unfold flushBegins
  extract_lets +onlyGivenNames set power before nv weir flush s1
  extract_lets +onlyGivenNames s2 s3 s4
  have h2 : SameRun s s2 := ⟨rfl, rfl⟩
  have h3 : SameRun s s3 := keeps_foldl (P := SameRun s) (fun _ _ h => h.maintain _ _) set s2 h2
  have h4 : SameRun s s4 := by
    unfold SameRun s4
    rw [logEv_weir]
    exact h3
  split
  · exact h4
  · exact h4

theorem flushBoundary_sameRun (s : State) : SameRun s (flushBoundary s) := by
  unfold flushBoundary
  split
  · exact flushBegins_sameRun s
  · split <;> exact ⟨rfl, rfl⟩

theorem flushBoundary_none {s : State} (hk : s.flush.kind = .none) (hp : s.flush.pending = false) : flushBoundary s = s := by
  simp [flushBoundary, hk, hp]

theorem switchTable_sameRun (s : State) : SameRun s (switchTable s) := by
  simp only [switchTable]
  split
  · exact ⟨rfl, rfl⟩
  · split <;> exact ⟨rfl, rfl⟩

/-- With no flush a selected table of the image comes into force, and the selection is used up (R117). -/
theorem switchTable_selected {s : State} {k : WeirKind} (hf : s.flush.kind = .none) (hk : s.weir.selected = some k)
    (ht : (weirTable s k).isSome = true) : switchTable s = { s with weir := { s.weir with selected := none, kind := k } } := by
  have ht' : (weirTable { s with weir := { s.weir with selected := none } } k).isNone = false := by
    simpa [weirTable] using ht
  simp [switchTable, hk, hf, ht']

theorem find_mapVal {α : Type} (f : α → α) (i : Nat) : ∀ t : Tbl α, Tbl.find (Tbl.mapVal f t) i = (Tbl.find t i).map f
  | [] => rfl
  | (j, y) :: t => by
    have ih := find_mapVal f i t
    unfold Tbl.mapVal at *
    simp only [List.map_cons, Tbl.find, ih]
    split <;> rfl

/-- A RETIRING slot has seen the boundary (R261). -/
theorem slotBoundaries_retiring {s : State} {n : Nat} {x : Slot} (h : Tbl.find s.shoal.slots n = some x) (hr : x.state = .retiring) :
    Tbl.find (slotBoundaries s).shoal.slots n = some { x with boundary := true } := by
  simp [slotBoundaries, find_mapVal, h, hr]

/-- The count of cycles at the next slot 0. -/
def atPeriod (s : State) : State := { s with weir := { s.weir with cycle := nextPeriod s.weir.cycle } }

/-- What the boundary makes of the weir's table: the one of a flush that begins, or the one selected (R84, R117). -/
def periodBegins (s : State) : State := switchTable (flushBoundary (atPeriod s))

theorem weirPeriodBoundary_eq {s : State} (h : s.pins.dieReset = false) :
    weirPeriodBoundary s = mirrorPeriods (slotBoundaries (banksInForce (periodBegins s))) := by
  rw [weirPeriodBoundary, if_neg (by simp [h])]
  rfl

theorem slotBoundaries_weir (s : State) : (slotBoundaries s).weir = s.weir := rfl

theorem mirrorPeriods_weir (s : State) : (mirrorPeriods s).weir = s.weir :=
  weir_eq (mirrorPeriods_keeps (g := .weirCtl) rfl s (.refl _ s)) (mirrorPeriods_keeps (g := .weirQ) rfl s (.refl _ s))

theorem mirrorPeriods_shoal (s : State) : (mirrorPeriods s).shoal = s.shoal :=
  shoal_eq (mirrorPeriods_keeps (g := .shoal) rfl s (.refl _ s)) (mirrorPeriods_keeps (g := .slots) rfl s (.refl _ s))

/-- After the weir's own steps the boundary changes neither its tables and cycle nor its completions. -/
theorem weirPeriodBoundary_weir {s : State} (h : s.pins.dieReset = false) :
    weirCtlPart (weirPeriodBoundary s).weir = weirCtlPart (periodBegins s).weir
      ∧ (weirPeriodBoundary s).weir.landed = s.weir.landed := by
  rw [weirPeriodBoundary_eq h, mirrorPeriods_weir, slotBoundaries_weir]
  refine ⟨weirCtlPart_of_keeps (banksInForce_keeps (g := .weirCtl) rfl (periodBegins s)), (banksInForce_landed _).trans ?_⟩
  exact (switchTable_sameRun _).1.trans (flushBoundary_sameRun (atPeriod s)).1

theorem periodBegins_cycle (s : State) : (periodBegins s).weir.cycle = nextPeriod s.weir.cycle :=
  (switchTable_sameRun _).2.trans (flushBoundary_sameRun (atPeriod s)).2

theorem periodBegins_selected {s : State} {k : WeirKind} (hf : s.flush.kind = .none) (hp : s.flush.pending = false)
    (hk : s.weir.selected = some k) (ht : (weirTable s k).isSome = true) :
    (periodBegins s).weir.kind = k ∧ (periodBegins s).weir.selected = none := by
  have hb : flushBoundary (atPeriod s) = atPeriod s := flushBoundary_none hf hp
  have hs : switchTable (atPeriod s) = _ := switchTable_selected hf hk ht
  rw [periodBegins, hb, hs]
  exact ⟨rfl, rfl⟩

/-- RETIRING slots have seen the boundary: none of the steps before that one touches the codebook slots. -/
theorem weirPeriodBoundary_retiring {s : State} {n : Nat} {x : Slot} (h : s.pins.dieReset = false)
    (hx : Tbl.find s.shoal.slots n = some x) (hr : x.state = .retiring) :
    Tbl.find (weirPeriodBoundary s).shoal.slots n = some { x with boundary := true } := by
  have h1 : Keeps .slots s (flushBoundary (atPeriod s)) := flushBoundary_keeps (g := .slots) rfl (atPeriod s) (.refl .slots s)
  have h2 : Keeps .slots s (periodBegins s) := by
    unfold periodBegins
    exact switchTable_keeps (g := .slots) rfl _ h1
  have hs := slots_of_keeps (h2.trans (banksInForce_keeps (g := .slots) rfl (periodBegins s)))
  rw [weirPeriodBoundary_eq h, mirrorPeriods_shoal]
  refine slotBoundaries_retiring ?_ hr
  rw [hs]
  exact hx

/-! ## The statement -/

/-- Settles O18. A slot is admission over the races, the fabric core, and the flash gate, each of which only moves entries between the
queues that it names; of the steps of a boundary, each writes a part of its own. -/
theorem weirSlotsAndPeriods : Obligations.WeirSlotsAndPeriods := by
  unfold Obligations.WeirSlotsAndPeriods
  constructor
  · intro s w h
    obtain ⟨a, c, fq, g, -, ha, hc, hw, hl, hg⟩ := weirSlot_weir h
    obtain ⟨l, el, hin⟩ := ha.flashOn
    have hp : pump (weirSlot s) = weirSlot s := pump_quiet (by rw [hw, ha.rest]; exact h.quiet.2)
    refine ⟨weirSlot s, congrArg Host.Outcome.next hp, ?_, ?_, ?_, ?_, ?_⟩
    · rw [hw]
    · rw [hw]; exact ha.pipe
    · exact ⟨l, g, by rw [hw, el], hin, hl, hg⟩
    · intro ho q hq hx hn
      rw [hw]
      exact hc.stays q (ha.named ho q hq hn) hx
    · exact fun q hq hx hr ho had hn => weirSlot_alone h hq hx hr ho had hn
  · intro s hr hq
    obtain ⟨hctl, hland⟩ := weirPeriodBoundary_weir hr
    have hp : pump (weirPeriodBoundary s) = weirPeriodBoundary s := pump_quiet (by rw [hland]; exact hq.2)
    have hcycle : (weirPeriodBoundary s).weir.cycle = nextPeriod s.weir.cycle :=
      (congrArg WeirSt.cycle hctl).trans (periodBegins_cycle s)
    obtain ⟨hmod, hge, hlt⟩ := nextPeriod_spec s.weir.cycle
    refine ⟨weirPeriodBoundary s, congrArg Host.Outcome.next hp, ?_, ?_, ?_, ?_, ?_⟩
    · rw [hcycle]; exact hmod
    · rw [hcycle]; exact hge
    · rw [hcycle]; exact hlt
    · intro k hf hpend hk ht
      obtain ⟨hkind, hsel⟩ := periodBegins_selected hf hpend hk ht
      exact ⟨(congrArg WeirSt.kind hctl).trans hkind, (congrArg WeirSt.selected hctl).trans hsel⟩
    · exact fun n x hx hret => weirPeriodBoundary_retiring hr hx hret

end Sys2Proof.WeirSlots
end

section
/-!
Mirror syncs (R57 to R59): MIRROR_SYNC writes the page of its party alone, the check finds the first entry that breaks a rule, and an
outcome is one update of that page.
-/
namespace Sys2Proof.MirrorSyncs

open Sys2Proof Sys2Proof.Machine Sys2Proof.Safety

/-! ## The pages of the parties -/

theorem pty_updPty_same (p : Nat) (f : PartySt → PartySt) (s : State) : (updPty p f s).pty p = f (s.pty p) :=
  Tbl.get_upd_same _ _ _ _

theorem pty_updPty_other {p q : Nat} (h : q ≠ p) (f : PartySt → PartySt) (s : State) : (updPty p f s).pty q = s.pty q :=
  Tbl.get_upd_other _ _ _ _ _ h

theorem countRange_party (party off len : Nat) (s : State) : (countRange party off len s).party = s.party :=
  countRange_keeps (g := .party) rfl party off len s (.refl _ s)

theorem countRange_pty (party off len : Nat) (s : State) (p : Nat) : (countRange party off len s).pty p = s.pty p := by
  unfold State.pty
  rw [countRange_party]

/-! ## MIRROR_SYNC (R58) -/

/-- A sync of this party under way or in force drops the write. -/
theorem mirrorSync_busy {s : State} {p : Nat} {v : W64} (hr : s.boot.ready = true)
    (h : (s.pty p).syncState = .checking ∨ (s.pty p).syncState = .inForce) :
    mirrorSync p v s = updPty p (fun x => { x with busyDrop := true }) s := by
  have h : ((s.pty p).syncState == .checking || (s.pty p).syncState == .inForce) = true := by simpa using h
  simp only [mirrorSync, hr, h, Bool.not_true, Bool.false_eq_true, if_false, if_true]

/-- The page of a party whose sync is being checked: what the write names, and what reading the bank found. -/
def checkingPage (v : W64) (new : Ctx) (entries : List (Nat × Nat × Nat × Nat)) (bad : Option (Nat × Nat)) (x : PartySt) : PartySt :=
  { x with syncState := .checking, syncAsid := field v 0 12, syncBank := field v 16 1, syncTabGen := field v 32 32, syncPass := false
           syncNew := new, syncEntries := entries, syncBad := bad }

/-- Any other write starts the check of the bank that it names. -/
theorem mirrorSync_starts {s : State} {p : Nat} {v : W64} (hr : s.boot.ready = true)
    (h : ¬ ((s.pty p).syncState = .checking ∨ (s.pty p).syncState = .inForce)) :
    ∃ t new entries bad, (∀ q, t.pty q = s.pty q) ∧ mirrorSync p v s = updPty p (checkingPage v new entries bad) t := by
  have h : ((s.pty p).syncState == .checking || (s.pty p).syncState == .inForce) = false := by simpa using h
  unfold mirrorSync
  simp only [hr, h, Bool.not_true, Bool.false_eq_true, if_false]
  exact ⟨_, _, _, _, fun q => by rw [countRange_pty, countRange_pty], rfl⟩

/-! ## The check of a bank (R58) -/

/-- An entry starts at or after the end of the one before it. -/
def sortedAfter (prev : Option RangeRaw) (e : RangeRaw) : Prop := ∀ q, prev = some q → q.vstart + q.len ≤ e.vstart

theorem badEntry_cons (i : Nat) (prev : Option RangeRaw) (w : Nat × Nat × Nat × Nat) (t : List (Nat × Nat × Nat × Nat)) :
    (rangeEntryOk w = false → badEntry i prev (w :: t) = some (syncBadField, i))
    ∧ (rangeEntryOk w = true → ¬ sortedAfter prev (rawOf w) → badEntry i prev (w :: t) = some (syncNotSorted, i))
    ∧ (rangeEntryOk w = true → sortedAfter prev (rawOf w) → badEntry i prev (w :: t) = badEntry (i + 1) (some (rawOf w)) t) := by
  refine ⟨fun h => by simp [badEntry, h], fun h hs => ?_, fun h hs => ?_⟩ <;>
  cases prev <;> simp_all [badEntry, sortedAfter]

/-- The entry before entry j of a bank. -/
def entryBefore (es : List (Nat × Nat × Nat × Nat)) : Nat → Option RangeRaw
  | 0 => none
  | j + 1 => es[j]?.map rawOf

theorem goodEntry_iff {es : List (Nat × Nat × Nat × Nat)} {j : Nat} {w : Nat × Nat × Nat × Nat} (hw : es[j]? = some w) :
    goodEntry es j ↔ rangeEntryOk w = true ∧ sortedAfter (entryBefore es j) (rawOf w) := by
  cases j with
  | zero => simp [goodEntry, hw, sortedAfter, entryBefore]
  | succ j =>
    have hj : j < es.length := by have := (List.getElem?_eq_some_iff.1 hw).1; omega
    simp [goodEntry, hw, sortedAfter, entryBefore, List.getElem?_eq_getElem hj]

/-- Past good entries the check goes on with the next one. -/
theorem badEntry_skips {es : List (Nat × Nat × Nat × Nat)} (i : Nat) (hi : i ≤ es.length) (hg : ∀ j < i, goodEntry es j) :
    badEntry 0 none es = badEntry i (entryBefore es i) (es.drop i) := by
  induction i with
  | zero => rfl
  | succ i ih =>
    have hl : i < es.length := hi
    have hw : es[i]? = some es[i] := List.getElem?_eq_getElem hl
    obtain ⟨ho, hs⟩ := (goodEntry_iff hw).1 (hg i (Nat.lt_succ_self i))
    rw [ih (by omega) (fun j hj => hg j (by omega)), List.drop_eq_getElem_cons hl, (badEntry_cons _ _ _ _).2.2 ho hs]
    simp [entryBefore, hw]

/-- The check finds the first entry that is not good, with the rule that it breaks. -/
theorem badEntry_first {es : List (Nat × Nat × Nat × Nat)} {i : Nat} {w : Nat × Nat × Nat × Nat} (hw : es[i]? = some w)
    (hg : ∀ j < i, goodEntry es j) (hb : ¬ goodEntry es i) :
    badEntry 0 none es = some (if rangeEntryOk w then syncNotSorted else syncBadField, i) := by
  obtain ⟨hl, rfl⟩ := List.getElem?_eq_some_iff.1 hw
  obtain ⟨hfield, hsort, -⟩ := badEntry_cons i (entryBefore es i) es[i] (es.drop (i + 1))
  rw [goodEntry_iff hw, not_and] at hb
  rw [badEntry_skips i hl.le hg, List.drop_eq_getElem_cons hl]
  cases ho : rangeEntryOk es[i] with
  | false => rw [hfield ho]; rfl
  | true => rw [hsort ho (hb ho)]; rfl

theorem badEntry_none {es : List (Nat × Nat × Nat × Nat)} (hg : ∀ j < es.length, goodEntry es j) : badEntry 0 none es = none := by
  rw [badEntry_skips es.length le_rfl hg, List.drop_length]
  rfl

/-- Within the limit of 4,096 no COHERENT entry is beyond it (R130). -/
theorem beyondLimit_none {s : State} {p asid : Nat} {es : List (Nat × Nat × Nat × Nat)}
    (h : (coherentEntries es).length + ((s.pty p).reverse.filter (fun e => e.asid != asid)).length ≤ 4096) :
    beyondLimit s p asid es = none := by
  simp only [beyondLimit, Option.map_eq_none_iff, List.getElem?_eq_none_iff]
  omega

/-! ## The outcome of the check -/

/-- The page of a party whose sync is rejected (R58). -/
def rejectedPage (r i : Nat) (x : PartySt) : PartySt :=
  { x with syncState := .rejected, syncReason := r, syncEntry := i % 65536, syncEntries := [], syncBad := none }

/-- The page of a party whose bank has passed. -/
def passedPage (x : PartySt) : PartySt := { x with syncPass := true, syncGen := x.syncTabGen, syncReason := 0, syncEntry := 0 }

/-- What the check of a bank has found: a reason from reading it, an entry that breaks a rule, or one beyond the limit. -/
def checkFinds (s : State) (p : Nat) : Option (Nat × Nat) :=
  ((s.pty p).syncBad.or (badEntry 0 none (s.pty p).syncEntries)).or (beyondLimit s p (s.pty p).syncAsid (s.pty p).syncEntries)

theorem syncCheckComplete_eq {s : State} {p : Nat} (hc : (s.pty p).syncState = .checking) (hp : (s.pty p).syncPass = false) :
    syncCheckComplete p s = match checkFinds s p with
      | some (r, i) => updPty p (rejectedPage r i) s
      | none => updPty p passedPage s := by
  have h : ((s.pty p).syncState != .checking || (s.pty p).syncPass) = false := by simp [hc, hp]
  simp only [syncCheckComplete, h, Bool.false_eq_true, if_false, checkFinds]
  cases (s.pty p).syncBad <;> cases badEntry 0 none (s.pty p).syncEntries <;> rfl

theorem syncCheckComplete_rejects {s : State} {p r i : Nat} (hc : (s.pty p).syncState = .checking) (hp : (s.pty p).syncPass = false)
    (h : checkFinds s p = some (r, i)) : syncCheckComplete p s = updPty p (rejectedPage r i) s := by
  rw [syncCheckComplete_eq hc hp, h]

theorem syncCheckComplete_passes {s : State} {p : Nat} (hc : (s.pty p).syncState = .checking) (hp : (s.pty p).syncPass = false)
    (h : checkFinds s p = none) : syncCheckComplete p s = updPty p passedPage s := by
  rw [syncCheckComplete_eq hc hp, h]

theorem checkFinds_reading {s : State} {p : Nat} {b : Nat × Nat} (h : (s.pty p).syncBad = some b) : checkFinds s p = some b := by
  simp [checkFinds, h]

theorem checkFinds_entry {s : State} {p : Nat} {b : Nat × Nat} (hb : (s.pty p).syncBad = none)
    (h : badEntry 0 none (s.pty p).syncEntries = some b) : checkFinds s p = some b := by
  simp [checkFinds, hb, h]

theorem checkFinds_nothing {s : State} {p : Nat} (hb : (s.pty p).syncBad = none) (he : badEntry 0 none (s.pty p).syncEntries = none)
    (hl : beyondLimit s p (s.pty p).syncAsid (s.pty p).syncEntries = none) : checkFinds s p = none := by
  simp [checkFinds, hb, he, hl]

theorem rejectedPage_eq {r i : Nat} (hi : i < 65536) (x : PartySt) : rejectedPage r i x =
    { x with syncState := .rejected, syncReason := r, syncEntry := i, syncEntries := [], syncBad := none } := by
  rw [rejectedPage, Nat.mod_eq_of_lt hi]

/-! ## SYNC_DRAINED (R59) -/

theorem syncDrained_drains {s : State} {p : Nat} {c : Ctx} (hs : (s.pty p).syncState = .inForce)
    (hf : Tbl.find (s.pty p).inForce (s.pty p).syncAsid = some c) (ho : olderTransfer s p (s.pty p).syncAsid c.gen = false) :
    syncDrained p s = updPty p (fun x => { x with syncState := .drained }) s := by
  simp [syncDrained, hs, hf, ho]

/-! ## The statement -/

/-- A command that updates the page of one party leaves it so updated, and the others as they were. -/
theorem completes_updPty {c : Instr} {s t : State} {p : Nat} {f : PartySt → PartySt} {y : PartySt} (he : exec c s = .next (updPty p f t))
    (ht : ∀ q, t.pty q = s.pty q) (hy : f (s.pty p) = y) : Completes c s (fun t => t.pty p = y ∧ ∀ q, q ≠ p → t.pty q = s.pty q) :=
  ⟨_, he, by rw [pty_updPty_same, ht, hy], fun q hq => by rw [pty_updPty_other hq, ht]⟩

/-- Settles O25: every case is one update of the party's page, the case being decided by what the check of the bank finds first. An entry
with VALID 0 counts with its length in the order of the entries, which is entry 68 of the assumption log. -/
theorem mirrorSyncsAreChecked : Obligations.MirrorSyncsAreChecked := by
  unfold Obligations.MirrorSyncsAreChecked
  intro s p x
  refine ⟨fun v hr => ?_, fun hc hp => ⟨fun r i hb hi => ?_, fun hb i w hw hi hg hn => ?_, fun hb hg hl => ?_⟩, fun c hs hf ho => ?_⟩
  · by_cases h : x.syncState = .checking ∨ x.syncState = .inForce
    · refine ⟨_, congrArg Host.Outcome.next (mirrorSync_busy hr h), fun q hq => pty_updPty_other hq _ s, ?_⟩
      rw [if_pos h]
      exact pty_updPty_same _ _ s
    · obtain ⟨t, new, entries, bad, ht, he⟩ := mirrorSync_starts (v := v) hr h
      refine ⟨_, congrArg Host.Outcome.next he, fun q hq => (pty_updPty_other hq _ t).trans (ht q), ?_⟩
      rw [if_neg h, pty_updPty_same, ht]
      exact ⟨rfl, rfl, rfl, rfl, rfl, rfl, rfl⟩
  · have he := syncCheckComplete_rejects hc hp (checkFinds_reading hb)
    exact completes_updPty (congrArg Host.Outcome.next he) (fun _ => rfl) (rejectedPage_eq hi x)
  · have he := syncCheckComplete_rejects hc hp (checkFinds_entry hb (badEntry_first hw hg hn))
    exact completes_updPty (congrArg Host.Outcome.next he) (fun _ => rfl) (rejectedPage_eq hi x)
  · have he := syncCheckComplete_passes hc hp (checkFinds_nothing hb (badEntry_none hg) (beyondLimit_none hl))
    exact completes_updPty (congrArg Host.Outcome.next he) (fun _ => rfl) rfl
  · exact completes_updPty (congrArg Host.Outcome.next (syncDrained_drains hs hf ho)) (fun _ => rfl) rfl

end Sys2Proof.MirrorSyncs
end

section
/-!
Map agreement (R43 to R47, R368): what a move of MAP_STATE writes, announcements sent and taken, slice reads, and the ends of the window.
-/
namespace Sys2Proof.MapAgreements

open Sys2Proof Sys2Proof.Machine Sys2Proof.Safety

/-! ## MAP_STATE (R45, R47) -/

theorem mapTo_same {new : MapState} {s : State} (h : s.map.state = new) : mapTo new s = s := by simp [mapTo, h]

@[simp] theorem mapTo_map (new : MapState) (s : State) : (mapTo new s).map = { s.map with state := new } := by
  by_cases h : s.map.state = new
  · rw [mapTo_same h, ← h]
  · cases new <;> simp [mapTo, h]

@[simp] theorem mapTo_boot (new : MapState) (s : State) : (mapTo new s).boot = s.boot := mapTo_keeps (g := .boot) rfl new s (.refl _ s)

@[simp] theorem mapTo_pins (new : MapState) (s : State) : (mapTo new s).pins = s.pins := mapTo_keeps (g := .pins) rfl new s (.refl _ s)

theorem mapTo_island_alert {s : State} (h : s.map.state ≠ .island) : alertIsland ∈ (mapTo .island s).keeper.alert := by
  simp [mapTo, h, setAlert]

theorem mapTo_agreed_genRecord {s : State} (h : s.map.state ≠ .agreed) : (mapTo .agreed s).nv.genRecord = some s.hw.compGen := by
  simp [mapTo, h]

/-! ## Announcements sent (R44) -/

theorem emit_out (o : Output) (s : State) : (emit o s).out = s.out ++ [o] := rfl

theorem sendAnnounces_eq (ns : List Nat) (s : State) : ns.foldl (fun s n => sendAnnounce n false s) s
    = { s with out := s.out ++ ns.map (fun n => .announce n (myAnnouncement s false)) } := by
  induction ns generalizing s with
  | nil => simp
  | cons n ns ih =>
    rw [List.foldl_cons, ih]
    simp [sendAnnounce, emit, myAnnouncement, State.node]

/-- The ROSTER nodes that are not yet in the pool map. -/
def notAgreed (s : State) : List Nat := s.hw.slice.roster.filter (fun n => n != s.node && !s.map.pool.contains n)

theorem mem_notAgreed {s : State} {n : Nat} : n ∈ notAgreed s ↔ n ∈ s.hw.slice.roster ∧ n ≠ s.node ∧ n ∉ s.map.pool := by
  simp [notAgreed]

theorem announceAll_eq (s : State) :
    announceAll s = { s with out := s.out ++ (notAgreed s).map (fun n => .announce n (myAnnouncement s false)) } :=
  sendAnnounces_eq (notAgreed s) s

/-! ## Announcements taken (R44) -/

/-- The sender of an announcement is a ROSTER node that agreement, which has started, has not brought into the pool map. -/
structure NewPeer (s : State) (n : Nat) : Prop where
  started : s.map.started = true
  roster : n ∈ s.hw.slice.roster
  other : n ≠ s.node
  absent : n ∉ s.map.pool

/-- The sender has the same composition. -/
def SameComposition (s : State) (a : Announcement) : Prop := a.compGen = s.hw.compGen ∧ a.poolDigest = s.hw.slice.poolDigest

/-- An announcement answered, unless it is itself an answer. -/
def answer (a : Announcement) (s : State) : State := if a.reply then s else sendAnnounce a.node true s

/-- The read of the sender's slice begun, in place of one under way. -/
def startRead (a : Announcement) (s : State) : State :=
  emit (.sliceRead a.node a.sliceLength)
    { s with map := { s.map with reading := s.map.reading.filter (fun x => x.node != a.node) ++ [a] } }

theorem answer_reply {a : Announcement} (h : a.reply = true) (s : State) : answer a s = s := by simp [answer, h]

theorem answer_map (a : Announcement) (s : State) : (answer a s).map = s.map := by
  unfold answer
  split <;> rfl

theorem answer_hw (a : Announcement) (s : State) : (answer a s).hw = s.hw := by
  unfold answer
  split <;> rfl

theorem answer_out {a : Announcement} (h : a.reply = false) (s : State) :
    Output.announce a.node (myAnnouncement s true) ∈ (answer a s).out := by
  simp [answer, h, sendAnnounce, emit_out]

theorem startRead_pool (a : Announcement) (s : State) : (startRead a s).map.pool = s.map.pool := rfl

theorem markDisagrees_pool (n : Nat) (s : State) : (markDisagrees n s).map.pool = s.map.pool := rfl

theorem markDisagrees_reading (n : Nat) (s : State) : (markDisagrees n s).map.reading = s.map.reading := rfl

theorem mem_startRead (a : Announcement) (s : State) :
    a ∈ (startRead a s).map.reading ∧ Output.sliceRead a.node a.sliceLength ∈ (startRead a s).out :=
  ⟨List.mem_append_right _ List.mem_cons_self, List.mem_append_right _ List.mem_cons_self⟩

/-- What an announcement does once it is answered: the sender's reset noted, and its slice read or the sender marked. -/
def takeAnnounce (a : Announcement) (s : State) : State :=
  let known := s.map.pool.contains a.node
  if known && Tbl.find s.map.bootOf a.node == some a.boot then s
  else
    let s := if known then peerReset a.node s else s
    if a.compGen != s.hw.compGen || a.poolDigest != s.hw.slice.poolDigest then markDisagrees a.node s else startRead a s

theorem handleAnnounce_eq (a : Announcement) (s : State) : handleAnnounce a s =
    if !s.map.started || !s.hw.slice.roster.contains a.node || a.node == s.node then s else takeAnnounce a (answer a s) := rfl

theorem takeAnnounce_absent {a : Announcement} {s : State} (h : a.node ∉ s.map.pool) :
    (SameComposition s a → takeAnnounce a s = startRead a s) ∧ (¬ SameComposition s a → takeAnnounce a s = markDisagrees a.node s) := by
  have hk : s.map.pool.contains a.node = false := by simpa using h
  have hc : (a.compGen != s.hw.compGen || a.poolDigest != s.hw.slice.poolDigest) = true ↔ ¬ SameComposition s a := by
    rw [SameComposition, not_and_or]
    simp
  have he : takeAnnounce a s = if a.compGen != s.hw.compGen || a.poolDigest != s.hw.slice.poolDigest then markDisagrees a.node s
      else startRead a s := by
    simp only [takeAnnounce, hk]
    rfl
  rw [he]
  exact ⟨fun h => if_neg (fun hn => hc.1 hn h), fun h => if_pos (hc.2 h)⟩

/-- A new peer of the same composition has its slice read; another one is marked. -/
theorem handleAnnounce_new {a : Announcement} {s : State} (h : NewPeer s a.node) :
    (SameComposition s a → handleAnnounce a s = startRead a (answer a s))
      ∧ (¬ SameComposition s a → handleAnnounce a s = markDisagrees a.node (answer a s)) := by
  have hg : (!s.map.started || !s.hw.slice.roster.contains a.node || a.node == s.node) = false := by
    simpa using ⟨⟨h.started, h.roster⟩, h.other⟩
  have hs : SameComposition s a ↔ SameComposition (answer a s) a := by rw [SameComposition, SameComposition, answer_hw]
  rw [handleAnnounce_eq, hg, hs]
  exact takeAnnounce_absent (by rw [answer_map]; exact h.absent)

/-! ## Slice reads (R40, R44) -/

/-- A slice read that is over. -/
def endRead (n : Nat) (s : State) : State := { s with map := { s.map with reading := s.map.reading.filter (fun a => a.node != n) } }

section
variable {s : State} {n : Nat} {a : Announcement} (h : s.map.reading.find? (fun x => x.node == n) = some a)
include h

/-- Where a read fails its announcement is delivered again as an answer. -/
theorem sliceReadComplete_fails : sliceReadComplete n none s =
    { endRead n s with map := { (endRead n s).map with redeliver := s.map.redeliver ++ [{ a with reply := true }] } } := by
  simp only [sliceReadComplete, h]
  rfl

theorem sliceReadComplete_differs {sl : Slice} (hd : Tbl.find s.hw.digests n ≠ some sl.digest) :
    sliceReadComplete n (some sl) s = markDisagrees n (endRead n s) := by
  simp only [sliceReadComplete, h, bne_iff_ne, ne_eq, hd, not_false_eq_true, if_true]
  rfl

theorem sliceReadComplete_agrees {sl : Slice} (hd : Tbl.find s.hw.digests n = some sl.digest)
    (ho : operatorSigned s sl.rsaKeys sl.slhKeys = true) (hf : sliceFieldsOk sl = true) :
    sliceReadComplete n (some sl) s = addPeer a sl (endRead n s) := by
  have ho' : operatorSigned (endRead n s) sl.rsaKeys sl.slhKeys = true := ho
  unfold endRead at ho' ⊢
  simp only [sliceReadComplete, h, hd, ho', hf, bne_self_eq_false, Bool.and_self, Bool.not_true, Bool.false_eq_true, if_false]

end

/-- The pool map with a peer whose slice agrees. -/
def withPeer (a : Announcement) (sl : Slice) (m : MapSt) : MapSt :=
  { m with pool := insertNat a.node m.pool, bootOf := Tbl.put m.bootOf a.node a.boot, disagrees := removeNat a.node m.disagrees
           slices := Tbl.put m.slices a.node sl }

/-- The domains that come with a peer leave the pool map; a node in ISLAND has agreed. -/
theorem addPeer_map (a : Announcement) (sl : Slice) (s : State) : (addPeer a sl s).map =
    { withPeer a sl s.map with state := if s.map.state = .island then .agreed else s.map.state } := by
  obtain ⟨t, ht⟩ : ∃ t, t = joinsFor a.node (settleDomains (recompute { s with map := withPeer a sl s.map })) := ⟨_, rfl⟩
  have hm : t.map = withPeer a sl s.map := by
    rw [ht]
    exact joinsFor_keeps (g := .map) rfl _ _ (settleDomains_keeps (g := .map) rfl _ (recompute_keeps (g := .map) rfl _ (.refl .map _)))
  have he : addPeer a sl s = if t.map.state == .island then mapTo .agreed t else t := by rw [ht]; rfl
  have hs : t.map.state = s.map.state := by rw [hm]; rfl
  rw [he, hs]
  by_cases h : s.map.state = .island
  · simp [h, hm]
  · simp only [beq_iff_eq, h, if_false, hm]
    rfl

theorem addPeer_agrees (a : Announcement) (sl : Slice) (s : State) :
    a.node ∈ (addPeer a sl s).map.pool ∧ Tbl.get 0 (addPeer a sl s).map.bootOf a.node = a.boot
      ∧ (s.map.state = .island → (addPeer a sl s).map.state = .agreed) := by
  rw [addPeer_map]
  exact ⟨(mem_insertNat _ _ _).2 (.inl rfl), Tbl.get_put_same _ _ _ _, fun h => if_pos h⟩

/-! ## The start and the end of agreement (R44, R47, R368) -/

/-- Agreement started with this node alone in the pool map. -/
def started (s : State) : State := { s with map := { s.map with started := true, window := true, pool := [s.node] } }

theorem startAgreement_eq {s : State} (hs : s.map.started = false) (hf : forcedIsland s = false) :
    startAgreement s = announceAll (started s) := by
  simp only [startAgreement, hs, hf, Bool.or_self, Bool.false_eq_true, if_false]
  rfl

theorem announceAll_map (s : State) : (announceAll s).map = s.map := by rw [announceAll_eq]

/-- The window closed, and step 13 logged. -/
def windowEnds (s : State) : State := bootStep 13 { s with map := { s.map with window := false } }

/-- Where no other node agrees and one disagrees the end of the window leaves ISLAND, else AGREED. -/
theorem agreementWindowEnd_eq {s : State} (hw : s.map.window = true) (hf : s.map.state = .forming) : agreementWindowEnd s =
    mapTo (if s.map.pool = [s.node] ∧ s.map.disagrees ≠ [] then .island else .agreed) (windowEnds s) := by
  have hc : (s.map.pool == [s.node] && !s.map.disagrees.isEmpty) = true ↔ s.map.pool = [s.node] ∧ s.map.disagrees ≠ [] := by simp
  have hf : (s.map.state != .forming) = false := by simp [hf]
  have he : agreementWindowEnd s = if s.map.pool == [s.node] && !s.map.disagrees.isEmpty then mapTo .island (windowEnds s)
      else mapTo .agreed (windowEnds s) := by
    simp only [agreementWindowEnd, hw, hf, Bool.not_true, Bool.false_eq_true, if_false]
    rfl
  rw [he]
  simp only [hc]
  split <;> rfl

theorem windowEnds_state {s : State} (hf : s.map.state = .forming) : (windowEnds s).map.state = .forming := by
  simp [windowEnds, hf]

theorem windowEnds_step (s : State) : (windowEnds s).boot.step = 13 := by
  simp [windowEnds, bootStep]

/-! ## The statement -/

/-- Settles O16: each command is one of the operations above, whose effect on the pool map and the outputs is known. -/
theorem mapAgreement : Obligations.MapAgreement := by
  unfold Obligations.MapAgreement
  refine ⟨fun s a hs hr hn hp => ?_, fun s n a ha => ⟨?_, fun sl hd => ?_, fun sl hd ho hf => ?_⟩, fun s hw => ?_,
    fun s n a hl hn ha hs hr hne hp hc hd => ?_, fun s hb hu hs hf => ?_, fun s hw hf hk => ?_⟩
  · obtain ⟨hsame, hdiff⟩ := handleAnnounce_new ⟨hs, hr, hn, hp⟩
    by_cases h : SameComposition s a
    · refine ⟨_, congrArg Host.Outcome.next (hsame h), fun hrep => List.mem_append_left _ (answer_out hrep s),
        fun _ _ => mem_startRead a _, fun hd => absurd h (by rw [SameComposition]; tauto), ?_⟩
      rw [startRead_pool, answer_map]
    · refine ⟨_, congrArg Host.Outcome.next (hdiff h), fun hrep => answer_out hrep s, fun hc hd => absurd ⟨hc, hd⟩ h,
        fun _ => ⟨(mem_insertNat _ _ _).2 (.inl rfl), ?_⟩, ?_⟩
      · rw [markDisagrees_reading, answer_map]
      · rw [markDisagrees_pool, answer_map]
  · exact ⟨_, congrArg Host.Outcome.next (sliceReadComplete_fails ha), List.mem_append_right _ List.mem_cons_self, rfl⟩
  · exact ⟨_, congrArg Host.Outcome.next (sliceReadComplete_differs ha hd), (mem_insertNat _ _ _).2 (.inl rfl), rfl⟩
  · have hn : a.node = n.val := by simpa using List.find?_some ha
    have hp := addPeer_agrees a sl (endRead n s)
    rw [hn] at hp
    exact ⟨_, congrArg Host.Outcome.next (sliceReadComplete_agrees ha hd ho hf), hp⟩
  · refine ⟨announceAll s, by simp [exec, execAnnounceResend, hw], fun n hr hn hp => ?_⟩
    rw [announceAll_eq]
    exact List.mem_append_right _ (List.mem_map_of_mem (mem_notAgreed.2 ⟨hr, hn, hp⟩))
  · obtain ⟨hsame, -⟩ := handleAnnounce_new (a := a) (s := { s with map := { s.map with redeliver := [] } }) ⟨hs, hr, hne, hp⟩
    have he : exec (.sliceRedeliver n) s = .next (startRead a { s with map := { s.map with redeliver := [] } }) := by
      rw [← answer_reply ha { s with map := { s.map with redeliver := [] } }, ← hsame ⟨hc, hd⟩]
      simp [exec, execSliceRedeliver, hl, hn]
    exact ⟨_, he, rfl, (mem_startRead a _).1, rfl⟩
  · have hup : (portsOfKind s .switch).any (fun p => !(upLinks s p).isEmpty) = false := by
      simpa using hu
    refine ⟨announceAll (started s), ?_, ?_⟩
    · rw [← startAgreement_eq hs hf]
      simp [exec, execAgreementStartTimeout, hb, hup]
    · simp only [announceAll_map]
      exact ⟨rfl, rfl, rfl⟩
  · have he := agreementWindowEnd_eq hw hf
    refine ⟨_, congrArg Host.Outcome.next he, by simp [windowEnds], by rw [mapTo_boot, windowEnds_step], fun hp hd => ?_, fun h => ?_⟩
    · rw [if_pos ⟨hp, hd⟩]
      exact ⟨by simp, mapTo_island_alert (by simp [windowEnds_state hf])⟩
    · rw [if_neg (by tauto)]
      exact ⟨by simp, (mapTo_agreed_genRecord (by simp [windowEnds_state hf])).trans (by simp [windowEnds])⟩

end Sys2Proof.MapAgreements
end

section
/-!
Partition keys and the release of the die (R47, R335 to R341, R356, R403). What creating and destroying keys does to the key slots is said
once, as a relation that chains of such steps have too; step 7 is said by one equation of what it leaves.
-/
namespace Sys2Proof.KeysAndRelease

open Sys2Proof Sys2Proof.Machine Sys2Proof.Safety Sys2Proof.MapAgreements

/-! ## Tables of keys -/

theorem find_del {α : Type} (k i : Nat) (t : Tbl α) : Tbl.find (Tbl.del t k) i = if i = k then none else Tbl.find t i := by
  induction t with
  | nil => simp [Tbl.del, Tbl.find]
  | cons e t ih =>
    obtain ⟨j, y⟩ := e
    unfold Tbl.del at *
    by_cases hj : j = k
    · subst hj
      rw [List.filter_cons_of_neg (by simp), ih]
      by_cases h : i = j
      · simp [h]
      · simp [Tbl.find, h, Ne.symm h]
    · rw [List.filter_cons_of_pos (by simpa using hj)]
      simp only [Tbl.find, ih]
      by_cases h : j = i
      · subst h; simp [hj]
      · simp [h]

theorem mem_del {α : Type} {k : Nat} {t : Tbl α} {x : Nat × α} : x ∈ Tbl.del t k ↔ x ∈ t ∧ x.1 ≠ k := by simp [Tbl.del]

theorem mem_put {α : Type} {k : Nat} {v : α} {x : Nat × α} {t : Tbl α} (h : x ∈ Tbl.put t k v) : x = (k, v) ∨ x ∈ t := by
  induction t with
  | nil => exact .inl (List.mem_singleton.1 h)
  | cons e t ih =>
    obtain ⟨j, y⟩ := e
    unfold Tbl.put at h
    split at h
    · simpa using h
    · split at h
      · rcases List.mem_cons.1 h with h | h
        · exact .inl h
        · exact .inr (List.mem_cons_of_mem _ h)
      · rcases List.mem_cons.1 h with h | h
        · exact .inr (List.mem_cons.2 (.inl h))
        · exact (ih h).imp_right (List.mem_cons_of_mem _)

theorem find_isSome_of_mem {α : Type} {p : Nat} {v : α} {t : Tbl α} (h : (p, v) ∈ t) : ∃ w, Tbl.find t p = some w := by
  induction t with
  | nil => cases h
  | cons e t ih =>
    obtain ⟨j, y⟩ := e
    by_cases hj : j = p
    · exact ⟨y, by simp [Tbl.find, hj]⟩
    · obtain ⟨w, hw⟩ := ih ((List.mem_cons.1 h).resolve_left (fun e => hj (congrArg Prod.fst e).symm))
      exact ⟨w, by simp [Tbl.find, hj, hw]⟩

theorem mem_of_find {α : Type} {p : Nat} {v : α} {t : Tbl α} (h : Tbl.find t p = some v) : (p, v) ∈ t := by
  induction t with
  | nil => cases h
  | cons e t ih =>
    obtain ⟨j, y⟩ := e
    by_cases hj : j = p
    · obtain rfl : y = v := by simpa [Tbl.find, hj] using h
      exact List.mem_cons.2 (.inl (by rw [hj]))
    · exact List.mem_cons_of_mem _ (ih (by simpa [Tbl.find, hj] using h))

/-! ## What key work leaves alone -/

/-- t has the composition, the boot's cause, the reserve and a staged sanitize as s has them. -/
structure KeyWork (s t : State) : Prop where
  map : t.map = s.map
  hw : t.hw = s.hw
  cause : t.boot.cause = s.boot.cause
  reserve : t.nv.reserve = s.nv.reserve
  sanitize : t.nv.sanitize = s.nv.sanitize

theorem KeyWork.refl (s : State) : KeyWork s s := ⟨rfl, rfl, rfl, rfl, rfl⟩

theorem KeyWork.trans {s t u : State} (h : KeyWork s t) (k : KeyWork t u) : KeyWork s u :=
  ⟨k.map.trans h.map, k.hw.trans h.hw, k.cause.trans h.cause, k.reserve.trans h.reserve, k.sanitize.trans h.sanitize⟩

theorem KeyWork.partitions {s t : State} (h : KeyWork s t) : partitions t = partitions s := by
  have hp : extentPool t = extentPool s := by
    funext e
    unfold extentPool localParty partyRec State.node
    rw [h.hw]
  simp only [Machine.partitions, hp, h.hw]

theorem createKey_keyWork (s : State) (p : Nat) : KeyWork s (createKey s p) := by
  unfold createKey
  split <;> exact ⟨by simp, by simp, by simp, by simp, by simp⟩

theorem destroyKey_keyWork (s : State) (p : Nat) : KeyWork s (destroyKey s p) := by
  unfold destroyKey
  split
  · exact ⟨by simp, by simp, by simp, by simp, by simp⟩
  · exact .refl s

theorem writeBlobs_keyWork (s : State) : KeyWork s (writeBlobs s) := ⟨rfl, rfl, rfl, rfl, rfl⟩

theorem createKeys_keyWork (ps : List Nat) (s : State) : KeyWork s (ps.foldl createKey s) :=
  keeps_foldl (P := KeyWork s) (fun t p h => h.trans (createKey_keyWork t p)) ps s (.refl s)

theorem destroyKeys_keyWork (ps : List Nat) (s : State) : KeyWork s (ps.foldl destroyKey s) :=
  keeps_foldl (P := KeyWork s) (fun t p h => h.trans (destroyKey_keyWork t p)) ps s (.refl s)

theorem createMissing_keyWork (s : State) : KeyWork s (createMissing s) := by
  simp only [createMissing]
  split
  · exact .refl s
  · exact (createKeys_keyWork _ s).trans (writeBlobs_keyWork _)

theorem destroyRemoved_keyWork (s : State) : KeyWork s (destroyRemoved s) := by
  simp only [destroyRemoved]
  split
  · exact .refl s
  · exact (destroyKeys_keyWork _ s).trans (writeBlobs_keyWork _)

/-! ## Keys created (R335, R340) -/

theorem freeSerialFrom_free {taken : List Nat} {n k x : Nat} (h : freeSerialFrom taken k n = some x) : x ∉ taken := by
  induction n generalizing k with
  | zero => cases h
  | succ n ih =>
    unfold freeSerialFrom at h
    extract_lets j at h
    split at h
    · exact ih h
    · next hc =>
      obtain rfl := Option.some.inj h
      simpa using hc

theorem freeSerial_notSweeping {s : State} {k : Nat} (h : freeSerial s = some k) : k ∉ s.nv.sweeping :=
  fun hk => freeSerialFrom_free h (List.mem_append_right _ hk)

/-- The partition has a key, or was left uncreated for want of a serial. -/
def Keyed (s : State) (p : Nat) : Prop := (∃ k, Tbl.find s.boot.keys p = some k) ∨ p ∈ s.boot.uncreated

/-- What creating keys for some partitions has done to the key slots of s. -/
structure Created (ps : List Nat) (s t : State) : Prop where
  others : ∀ p, p ∉ ps → Tbl.find t.boot.keys p = Tbl.find s.boot.keys p
  stays : ∀ p, Keyed s p → Keyed t p
  made : ∀ p ∈ ps, Keyed t p
  sweeping : t.nv.sweeping = s.nv.sweeping
  fresh : ∀ x ∈ t.boot.keys, x ∈ s.boot.keys ∨ x.2 ∉ s.nv.sweeping

theorem Created.refl (s : State) : Created [] s s :=
  ⟨fun _ _ => rfl, fun _ h => h, fun _ h => (nomatch h), rfl, fun _ h => .inl h⟩

theorem Created.trans {ps qs : List Nat} {s t u : State} (h : Created ps s t) (k : Created qs t u) : Created (ps ++ qs) s u where
  others p hp := by
    rw [List.mem_append, not_or] at hp
    exact (k.others p hp.2).trans (h.others p hp.1)
  stays p hp := k.stays p (h.stays p hp)
  made p hp := (List.mem_append.1 hp).elim (fun hp => k.stays p (h.made p hp)) (k.made p)
  sweeping := k.sweeping.trans h.sweeping
  fresh x hx := (k.fresh x hx).elim (h.fresh x) (fun hx => .inr (h.sweeping ▸ hx))

theorem createKey_created (s : State) (p : Nat) : Created [p] s (createKey s p) := by
  unfold createKey
  split
  · next k hk =>
    have hfind : ∀ q, Tbl.find (Tbl.put s.boot.keys p k) q = if q = p then some k else Tbl.find s.boot.keys q :=
      fun q => Tbl.find_put p k q _
    constructor
    case others => intro q hq; simp [hfind, List.mem_singleton.not.1 hq]
    case stays =>
      intro q hq
      by_cases e : q = p
      · exact .inl ⟨k, by simp [hfind, e]⟩
      · simpa [Keyed, hfind, e] using hq
    case made => intro q hq; exact .inl ⟨k, by simp [hfind, List.mem_singleton.1 hq]⟩
    case sweeping => simp
    case fresh =>
      intro x hx
      rw [logEv_boot] at hx
      refine (mem_put hx).symm.imp_right (fun e => ?_)
      rw [e]
      exact freeSerial_notSweeping hk
  · constructor
    case others => simp
    case stays => intro q hq; simp only [Keyed, logEv_boot, mem_insertNat]; exact hq.imp_right .inr
    case made => intro q hq; exact .inr (by simp [List.mem_singleton.1 hq])
    case sweeping => simp
    case fresh => intro x hx; exact .inl (by simpa using hx)

/-- The blob's copies are not the key slots. -/
theorem Created.writeBlobs {ps : List Nat} {s t : State} (h : Created ps s t) : Created ps s (writeBlobs t) :=
  ⟨h.others, h.stays, h.made, h.sweeping, h.fresh⟩

theorem createKeys_created (ps : List Nat) (s : State) : Created ps s (ps.foldl createKey s) := by
  induction ps generalizing s with
  | nil => exact .refl s
  | cons p ps ih => exact (createKey_created s p).trans (ih _)

/-- The partitions of the composition that have no key. -/
def missing (s : State) : List Nat := (partitions s).filter (fun p => (Tbl.find s.boot.keys p).isNone)

theorem createMissing_created (s : State) : Created (missing s) s (createMissing s) := by
  have he : createMissing s = if (missing s).isEmpty then s else writeBlobs ((missing s).foldl createKey s) := rfl
  rw [he]
  split
  · next h => rw [List.isEmpty_iff.1 h]; exact .refl s
  · exact (createKeys_created _ s).writeBlobs

theorem createMissing_none {s : State} (h : ∀ p ∈ partitions s, ∃ k, Tbl.find s.boot.keys p = some k) : createMissing s = s := by
  have hn : missing s = [] := List.filter_eq_nil_iff.2 (fun p hp => by obtain ⟨k, hk⟩ := h p hp; simp [hk])
  exact if_pos (by rw [← missing, hn]; rfl)

theorem createMissing_keyed (s : State) : ∀ p ∈ partitions s, Keyed (createMissing s) p := by
  intro p hp
  cases h : Tbl.find s.boot.keys p with
  | none => exact (createMissing_created s).made p (List.mem_filter.2 ⟨hp, by simp [h]⟩)
  | some k => exact (createMissing_created s).stays p (.inl ⟨k, h⟩)

theorem createMissing_find {s : State} {p k : Nat} (h : Tbl.find s.boot.keys p = some k) :
    Tbl.find (createMissing s).boot.keys p = some k := by
  rw [(createMissing_created s).others p (by simp [missing, h]), h]

/-! ## Keys destroyed (R340) -/

/-- What destroying the keys of some partitions has done to the key slots of s. -/
structure Destroyed (ps : List Nat) (s t : State) : Prop where
  others : ∀ p, p ∉ ps → Tbl.find t.boot.keys p = Tbl.find s.boot.keys p
  rest : ∀ x ∈ t.boot.keys, x ∈ s.boot.keys ∧ x.1 ∉ ps
  uncreated : t.boot.uncreated = s.boot.uncreated
  sweeping : s.nv.sweeping ⊆ t.nv.sweeping
  swept : ∀ p ∈ ps, ∀ k, Tbl.find s.boot.keys p = some k → k ∈ t.nv.sweeping

theorem Destroyed.refl (s : State) : Destroyed [] s s :=
  ⟨fun _ _ => rfl, fun _ h => ⟨h, List.not_mem_nil⟩, rfl, List.Subset.refl _, fun _ h => (nomatch h)⟩

theorem Destroyed.trans {ps qs : List Nat} {s t u : State} (h : Destroyed ps s t) (k : Destroyed qs t u) : Destroyed (ps ++ qs) s u where
  others p hp := by
    rw [List.mem_append, not_or] at hp
    exact (k.others p hp.2).trans (h.others p hp.1)
  rest x hx := by
    obtain ⟨ht, hq⟩ := k.rest x hx
    obtain ⟨hs, hp⟩ := h.rest x ht
    exact ⟨hs, by simp [hp, hq]⟩
  uncreated := k.uncreated.trans h.uncreated
  sweeping := List.Subset.trans h.sweeping k.sweeping
  swept p hp n hn := by
    by_cases hps : p ∈ ps
    · exact k.sweeping (h.swept p hps n hn)
    · exact k.swept p ((List.mem_append.1 hp).resolve_left hps) n ((h.others p hps).trans hn)

theorem destroyKey_destroyed (s : State) (p : Nat) : Destroyed [p] s (destroyKey s p) := by
  unfold destroyKey
  split
  · next k hk =>
    constructor
    case others => intro q hq; simp [find_del, List.mem_singleton.not.1 hq]
    case rest => intro x hx; simpa [mem_del] using hx
    case uncreated => simp
    case sweeping => simp
    case swept =>
      intro q hq n hn
      obtain rfl := List.mem_singleton.1 hq
      simp [Option.some.inj (hk.symm.trans hn)]
  · next hk =>
    constructor
    case others => exact fun _ _ => rfl
    case rest =>
      intro x hx
      refine ⟨hx, fun hq => ?_⟩
      obtain ⟨w, hw⟩ := find_isSome_of_mem (v := x.2) (t := s.boot.keys) (p := x.1) hx
      simp [List.mem_singleton.1 hq, hk] at hw
    case uncreated => rfl
    case sweeping => exact List.Subset.refl _
    case swept =>
      intro q hq n hn
      simp [List.mem_singleton.1 hq, hk] at hn

theorem Destroyed.writeBlobs {ps : List Nat} {s t : State} (h : Destroyed ps s t) : Destroyed ps s (writeBlobs t) :=
  ⟨h.others, h.rest, h.uncreated, h.sweeping, h.swept⟩

theorem destroyKeys_destroyed (ps : List Nat) (s : State) : Destroyed ps s (ps.foldl destroyKey s) := by
  induction ps generalizing s with
  | nil => exact .refl s
  | cons p ps ih => exact (destroyKey_destroyed s p).trans (ih _)

/-- The partitions that have a key and that the composition does not name. -/
def removed (s : State) : List Nat := (s.boot.keys.map (·.1)).filter (fun p => !(partitions s).contains p)

theorem mem_removed {s : State} {p : Nat} : p ∈ removed s ↔ (∃ k, (p, k) ∈ s.boot.keys) ∧ p ∉ partitions s := by
  simp [removed]

theorem destroyRemoved_destroyed (s : State) : Destroyed (removed s) s (destroyRemoved s) := by
  have he : destroyRemoved s = if (removed s).isEmpty then s else writeBlobs ((removed s).foldl destroyKey s) := rfl
  rw [he]
  split
  · next h => rw [List.isEmpty_iff.1 h]; exact .refl s
  · exact (destroyKeys_destroyed _ s).writeBlobs

theorem destroyRemoved_none {s : State} (h : ∀ k ∈ s.boot.keys, k.1 ∈ partitions s) : destroyRemoved s = s := by
  have hn : removed s = [] := List.eq_nil_iff_forall_not_mem.2 (fun p hp => by
    obtain ⟨⟨k, hk⟩, hp⟩ := mem_removed.1 hp
    exact hp (h _ hk))
  exact if_pos (by rw [← removed, hn]; rfl)

theorem destroyRemoved_named (s : State) : ∀ k ∈ (destroyRemoved s).boot.keys, k.1 ∈ partitions s := by
  intro k hk
  obtain ⟨hs, hn⟩ := (destroyRemoved_destroyed s).rest k hk
  by_contra hp
  exact hn (mem_removed.2 ⟨⟨k.2, hs⟩, hp⟩)

theorem destroyRemoved_find {s : State} {p : Nat} (h : p ∈ partitions s) :
    Tbl.find (destroyRemoved s).boot.keys p = Tbl.find s.boot.keys p :=
  (destroyRemoved_destroyed s).others p (fun hp => (mem_removed.1 hp).2 h)

/-! ## KEY_UNWRAP (R341, R355) -/

/-- The key slots emptied. -/
def cleared (s : State) : State := { s with boot := { s.boot with keys := [], keyBits := [], uncreated := [] } }

/-- The keys of a blob in the key slots. -/
def slotted (b : Blob) (s : State) : State := { s with boot := { s.boot with keys := b.keys, keyBits := b.bits } }

/-- The composition's keys from a good blob: keys of partitions that it does not name stay until a reserve is restored. -/
def unwrapped (b : Blob) (s : State) : State :=
  let t := createMissing (slotted b s)
  if t.nv.reserve.present && !t.nv.reserve.committed then t else destroyRemoved t

/-- With neither copy good the device's key alone is left, and the loss is logged. -/
def keysLost (s : State) : State :=
  logEv 0x0704 sevFault 15 0 0 0 { s with
    boot := { s.boot with keys := s.nv.blobA.keys.filter (fun k => k.1 == 0), keyBits := s.nv.blobA.bits.filter (fun k => k.1 == 0), cause := 6 }
    map := { s.map with lostKeys := true } }

/-- Step 6 done, and step 7 awaited. -/
def stepSixDone (s : State) : State := await 7 (bootStep 6 s)

theorem stepSixDone_boot (s : State) : (stepSixDone s).boot = { s.boot with step := 6, phase := .awaiting 7 } := by
  simp [stepSixDone, await, bootStep]

theorem stepSixDone_map (s : State) : (stepSixDone s).map = s.map := by simp [stepSixDone]

theorem stepSixDone_nv (s : State) : (stepSixDone s).nv = s.nv := by simp [stepSixDone]

/-- The log entry of a boot step that has ended. -/
theorem bootStep_buf {s : State} (h : s.keeper.up = true) (n : Nat) :
    (bootStep n s).keeper.buf = s.keeper.buf ++ [mkEntry 0x0101 sevInfo 15 0 n s.keeper.mono s] := by
  simp only [bootStep, logEv, h, if_true]
  rfl

theorem stepSixDone_stepDone {s t : State} (h : t.keeper = s.keeper) (hup : s.keeper.up = true) : StepDone 6 s (stepSixDone t) := by
  refine ⟨by rw [stepSixDone_boot], mkEntry 0x0101 sevInfo 15 0 6 s.keeper.mono t, ?_, rfl, rfl, rfl⟩
  rw [stepSixDone, await_keeper, bootStep_buf (by rw [h, hup]), h]

section
variable {s : State} (h : s.boot.phase = .awaiting 6)
include h

theorem keyUnwrap_eq : keyUnwrap s = stepSixDone (
    if s.nv.sanitize then writeBlobs (createMissing (sanitizeKeys (cleared s)))
    else match goodBlob s with
      | some b => unwrapped b (cleared s)
      | none => keysLost (cleared s)) := by
  have hp : (s.boot.phase != .awaiting 6) = false := by simp [h]
  simp only [keyUnwrap, hp, Bool.false_eq_true, if_false]
  rfl

theorem keyUnwrap_good {b : Blob} (hs : s.nv.sanitize = false) (hb : goodBlob s = some b) :
    keyUnwrap s = stepSixDone (unwrapped b (cleared s)) := by
  rw [keyUnwrap_eq h, hs, hb]
  rfl

theorem keyUnwrap_lost (hs : s.nv.sanitize = false) (hb : goodBlob s = none) : keyUnwrap s = stepSixDone (keysLost (cleared s)) := by
  rw [keyUnwrap_eq h, hs, hb]
  rfl

theorem keyUnwrap_sanitizes (hs : s.nv.sanitize = true) :
    keyUnwrap s = stepSixDone (writeBlobs (createMissing (sanitizeKeys (cleared s)))) := by
  rw [keyUnwrap_eq h, hs]
  rfl

theorem keyUnwrap_ends : (keyUnwrap s).boot.phase = .awaiting 7 ∧ (keyUnwrap s).boot.step = 6 := by
  rw [keyUnwrap_eq h, stepSixDone_boot]
  exact ⟨rfl, rfl⟩

end

theorem slotted_keyWork (b : Blob) (s : State) : KeyWork s (slotted b (cleared s)) := ⟨rfl, rfl, rfl, rfl, rfl⟩

/-- A good blob's keys of named partitions stay, and each named partition is keyed; no other is unless a reserve waits. -/
theorem unwrapped_spec (b : Blob) (s : State) : let t := unwrapped b (cleared s)
    KeyWork s t ∧ (∀ p ∈ partitions s, Keyed t p)
      ∧ (∀ p ∈ partitions s, ∀ k, Tbl.find b.keys p = some k → Tbl.find t.boot.keys p = some k)
      ∧ (s.nv.reserve.present = false ∨ s.nv.reserve.committed = true → ∀ k ∈ t.boot.keys, k.1 ∈ partitions s) := by
  obtain ⟨u, hu⟩ : ∃ u, u = createMissing (slotted b (cleared s)) := ⟨_, rfl⟩
  have hw : KeyWork s u := hu ▸ (slotted_keyWork b s).trans (createMissing_keyWork _)
  have hkeyed : ∀ p ∈ partitions s, Keyed u p := fun p hp => hu ▸ createMissing_keyed _ p (by rwa [(slotted_keyWork b s).partitions])
  have hfind : ∀ p k, Tbl.find b.keys p = some k → Tbl.find u.boot.keys p = some k := fun p k hk => hu ▸ createMissing_find hk
  have he : unwrapped b (cleared s) = if s.nv.reserve.present && !s.nv.reserve.committed then u else destroyRemoved u := by
    rw [← hw.reserve, hu]
    rfl
  simp only [he]
  split
  · next hr =>
    refine ⟨hw, hkeyed, fun p _ => hfind p, fun h => ?_⟩
    simp only [Bool.and_eq_true, Bool.not_eq_true'] at hr
    simp [hr] at h
  · refine ⟨hw.trans (destroyRemoved_keyWork u), fun p hp => ?_, fun p hp k hk => ?_, fun _ k hk => ?_⟩
    · rw [Keyed, destroyRemoved_find (hw.partitions ▸ hp), (destroyRemoved_destroyed u).uncreated]
      exact hkeyed p hp
    · rw [destroyRemoved_find (hw.partitions ▸ hp)]
      exact hfind p k hk
    · exact hw.partitions ▸ destroyRemoved_named u k hk

/-- A blob of exactly the partitions named comes into the slots as it is. -/
theorem unwrapped_exact {b : Blob} {s : State} (hall : ∀ p ∈ partitions s, ∃ k, Tbl.find b.keys p = some k)
    (honly : ∀ k ∈ b.keys, k.1 ∈ partitions s) : unwrapped b (cleared s) = slotted b (cleared s) := by
  have hp := (slotted_keyWork b s).partitions
  have hc : createMissing (slotted b (cleared s)) = slotted b (cleared s) := createMissing_none (by rw [hp]; exact hall)
  simp only [unwrapped, hc]
  split
  · rfl
  · exact destroyRemoved_none (by rw [hp]; exact honly)

/-- The blob whose keys a sanitize destroys. -/
def oldBlob (s : State) : Blob := (goodBlob s).getD s.nv.blobA

/-- A sanitize leaves no key of the old blob, and every serial of it in the sweep. -/
theorem sanitizeKeys_spec (s : State) : let t := sanitizeKeys s
    t.map = s.map ∧ t.nv.sanitize = false ∧ t.boot.keys = [] ∧ ∀ p k, Tbl.find (oldBlob s).keys p = some k → k ∈ t.nv.sweeping := by
  obtain ⟨u, hu⟩ : ∃ u, u = slotted (oldBlob s) { s with nv := { s.nv with sanitize := false } } := ⟨_, rfl⟩
  obtain ⟨ps, hps⟩ : ∃ ps, ps = (oldBlob s).keys.map (·.1) := ⟨_, rfl⟩
  have he : sanitizeKeys s = ps.foldl destroyKey u := by rw [hu, hps]; rfl
  have hk : u.boot.keys = (oldBlob s).keys := by rw [hu]; rfl
  have hd := destroyKeys_destroyed ps u
  have hw := destroyKeys_keyWork ps u
  simp only [he]
  refine ⟨by rw [hw.map, hu]; rfl, by rw [hw.sanitize, hu]; rfl, List.eq_nil_iff_forall_not_mem.2 (fun x hx => ?_), fun p k hf => ?_⟩
  · obtain ⟨hx, hn⟩ := hd.rest x hx
    exact hn (hps ▸ List.mem_map_of_mem (hk ▸ hx))
  · exact hd.swept p (hps ▸ List.mem_map_of_mem (mem_of_find hf)) k (by rw [hk, hf])

/-- The keys made after a sanitize have serials that no sweep runs for (R340). -/
theorem sanitized_spec (s : State) : let t := writeBlobs (createMissing (sanitizeKeys (cleared s)))
    t.map = s.map ∧ t.nv.sanitize = false ∧ (∀ p k, Tbl.find (oldBlob s).keys p = some k → k ∈ t.nv.sweeping)
      ∧ ∀ x ∈ t.boot.keys, x.2 ∉ t.nv.sweeping := by
  obtain ⟨hmap, hoff, hnone, hswept⟩ := sanitizeKeys_spec (cleared s)
  have hw := (createMissing_keyWork (sanitizeKeys (cleared s))).trans (writeBlobs_keyWork _)
  have hc := (createMissing_created (sanitizeKeys (cleared s))).writeBlobs
  refine ⟨hw.map.trans hmap, hw.sanitize.trans hoff, fun p k hk => ?_, fun x hx => ?_⟩
  · rw [hc.sweeping]
    exact hswept p k hk
  · rw [hc.sweeping]
    exact (hc.fresh x hx).resolve_left (by simp [hnone])

/-- A lost blob leaves two entries in the log: the loss and the step. -/
theorem stepSixDone_keysLost_buf {s : State} (hup : s.keeper.up = true) : ∃ e f, (stepSixDone (keysLost (cleared s))).keeper.buf =
    s.keeper.buf ++ [e, f] ∧ e.code = 0x0704 ∧ f.code = 0x0101 ∧ f.arg0 = 6 := by
  have hu : (keysLost (cleared s)).keeper.up = true := by simp [keysLost, cleared, logEv, hup]
  obtain ⟨e, he, hcode⟩ : ∃ e, (keysLost (cleared s)).keeper.buf = s.keeper.buf ++ [e] ∧ e.code = 0x0704 := by
    simp [keysLost, cleared, logEv, hup, mkEntry]
  refine ⟨e, mkEntry 0x0101 sevInfo 15 0 6 (keysLost (cleared s)).keeper.mono (keysLost (cleared s)), ?_, hcode, rfl, rfl⟩
  rw [stepSixDone, await_keeper, bootStep_buf hu, he, List.append_assoc]
  rfl

/-! ## DIE_RELEASE (R47, R356) -/

/-- The image is older than the generation of the last AGREED composition, or far from it (R47). -/
def genBad (s : State) : Bool :=
  match s.nv.genRecord with
  | none => false
  | some g => serCmp 16 s.hw.compGen g == .older || serCmp 16 s.hw.compGen g == .far

theorem genBad_false {s : State} (h : ∀ g, s.nv.genRecord = some g → serCmp 16 s.hw.compGen g ≠ .older ∧ serCmp 16 s.hw.compGen g ≠ .far) :
    genBad s = false := by
  unfold genBad
  split
  · rfl
  · next g hg => simpa using h g hg

theorem genBad_true {s : State} {g : Nat} (hg : s.nv.genRecord = some g)
    (h : serCmp 16 s.hw.compGen g = .older ∨ serCmp 16 s.hw.compGen g = .far) : genBad s = true := by
  simpa [genBad, hg] using h

/-- Such an image sets CAUSE 5 and forces ISLAND; nothing else follows from the generation. -/
theorem generationCheck_spec (s : State) :
    (generationCheck s).boot = { s.boot with cause := if genBad s then 5 else s.boot.cause }
      ∧ (generationCheck s).map = { s.map with genFault := s.map.genFault || genBad s } ∧ (generationCheck s).nv = s.nv := by
  cases hg : s.nv.genRecord with
  | none => simp [generationCheck, hg, genBad_false (s := s) (by simp [hg])]
  | some g =>
    cases hc : serCmp 16 s.hw.compGen g with
    | same => simp [generationCheck, hg, hc, genBad_false (s := s) (by simp [hg, hc])]
    | newer => simp [generationCheck, hg, hc, genBad_false (s := s) (by simp [hg, hc])]
    | older => simp [generationCheck, hg, hc, genBad_true hg (.inl hc)]
    | far => simp [generationCheck, hg, hc, genBad_true hg (.inr hc)]

/-- Of what survives a reset t has all as s has it but the marks of mirrors. -/
def MarksOnly (s t : State) : Prop := { t.nv with mirrorSeen := [] } = { s.nv with mirrorSeen := [] }

theorem MarksOnly.record {s t : State} (h : MarksOnly s t) :
    t.nv.genRecord = s.nv.genRecord ∧ t.nv.manifestLost = s.nv.manifestLost := by
  unfold MarksOnly at h
  exact ⟨(congrArg (fun x : NvSt => x.genRecord) h :), (congrArg (fun x : NvSt => x.manifestLost) h :)⟩

theorem promote_marksOnly (m : MirrorSetting) (s : State) : MarksOnly s (promote m s) := by
  unfold MarksOnly promote
  split
  · rfl
  · rw [logEv_nv]

/-- A mirror setting of the image taken up. -/
def initMirror (s : State) (m : MirrorSetting) : State :=
  let primary := match findSet s.hw.slice m.setId with
    | some x => x.primary
    | none => false
  let s := if primary then promote m s else s
  let s := { s with sluice := { s.sluice with mirrors := Tbl.put s.sluice.mirrors m.index { primary } } }
  if primary || (Tbl.find s.nv.mirrorSeen m.setId).isSome then s
  else { s with nv := { s.nv with mirrorSeen := Tbl.put s.nv.mirrorSeen m.setId (0, false) } }

theorem initMirrors_eq (s : State) : initMirrors s = s.hw.mirrors.foldl initMirror s := rfl

theorem initMirror_marksOnly (s : State) (m : MirrorSetting) : MarksOnly s (initMirror s m) := by
  unfold initMirror
  extract_lets +onlyGivenNames primary promoted
  have hp : MarksOnly s promoted := by
    unfold promoted
    split
    · exact promote_marksOnly m s
    · rfl
  extract_lets u
  split
  · exact hp
  · exact hp

theorem initMirrors_marksOnly (s : State) : MarksOnly s (initMirrors s) := by
  rw [initMirrors_eq]
  exact keeps_foldl (P := MarksOnly s) (fun t m h => (initMirror_marksOnly t m).trans h) _ s rfl

/-- The die out of reset, with this node alone in the pool map. -/
def dieOut (s : State) : State :=
  { s with
    boot := { s.boot with phase := .released, memAwait := 8 }
    pins := { s.pins with dieReset := false, braidRun := true, serdes := true }
    map := { s.map with pool := [s.node] }
    hosts := Tbl.mapVal (fun (h : HostSt) => { h with training := !h.perst, infoValid := true }) s.hosts }

/-- The domains and mirrors of the image set up. -/
def domainsUp (s : State) : State := initMirrors (recompute s)

theorem domainsUp_keeps {g : Part} (hg : Free 115208 g) (s : State) : Keeps g s (domainsUp s) :=
  initMirrors_keeps (hg.sub rfl) _ (recompute_keeps (hg.sub rfl) s (.refl g s))

theorem domainsUp_nv (s : State) : (domainsUp s).nv.genRecord = s.nv.genRecord ∧ (domainsUp s).nv.manifestLost = s.nv.manifestLost :=
  (initMirrors_marksOnly (recompute s)).record

/-- A node booted into ISLAND. -/
def islanded (s : State) : State := if forcedIsland s then mapTo .island s else s

theorem islanded_map (s : State) : (islanded s).map = { s.map with state := if forcedIsland s then .island else s.map.state } := by
  unfold islanded
  split <;> simp

theorem islanded_boot (s : State) : (islanded s).boot = s.boot := by
  unfold islanded
  split <;> simp

theorem islanded_pins (s : State) : (islanded s).pins = s.pins := by
  unfold islanded
  split <;> simp

theorem dieRelease_eq {s : State} (h : s.boot.phase = .awaiting 7) :
    dieRelease s = bootStep 7 (islanded (generationCheck (domainsUp (dieOut s)))) := by
  have hp : (s.boot.phase != .awaiting 7) = false := by simp [h]
  simp only [dieRelease, hp, Bool.false_eq_true, if_false]
  rfl

/-- What step 7 leaves of the boot state, the pins and the pool map. -/
theorem dieRelease_spec {s : State} (h : s.boot.phase = .awaiting 7) :
    (dieRelease s).boot = { s.boot with phase := .released, memAwait := 8, step := 7, cause := if genBad s then 5 else s.boot.cause }
      ∧ (dieRelease s).pins = { s.pins with dieReset := false, braidRun := true, serdes := true }
      ∧ (dieRelease s).map = { s.map with
          pool := [s.node], genFault := s.map.genFault || genBad s
          state := if forcedIsland s || genBad s then .island else s.map.state } := by
  obtain ⟨u, hu⟩ : ∃ u, u = domainsUp (dieOut s) := ⟨_, rfl⟩
  have hboot : u.boot = (dieOut s).boot := hu ▸ domainsUp_keeps (g := .boot) rfl _
  have hpins : u.pins = (dieOut s).pins := hu ▸ domainsUp_keeps (g := .pins) rfl _
  have hmap : u.map = (dieOut s).map := hu ▸ domainsUp_keeps (g := .map) rfl _
  have hhw : u.hw = s.hw := hu ▸ domainsUp_keeps (g := .hw) rfl (dieOut s)
  obtain ⟨hrec, hlost⟩ : u.nv.genRecord = s.nv.genRecord ∧ u.nv.manifestLost = s.nv.manifestLost := hu ▸ domainsUp_nv (dieOut s)
  have hgen : genBad u = genBad s := by rw [genBad, genBad, hrec, hhw]
  obtain ⟨gboot, gmap, gnv⟩ := generationCheck_spec u
  have gpins : (generationCheck u).pins = u.pins := generationCheck_keeps (g := .pins) rfl u (.refl _ u)
  have hforced : forcedIsland (generationCheck u) = (forcedIsland s || genBad s) := by
    simp only [forcedIsland, gmap, gnv, hmap, hlost, hgen, dieOut]
    cases s.map.genFault <;> cases genBad s <;> simp
  rw [dieRelease_eq h, ← hu]
  refine ⟨?_, ?_, ?_⟩
  · simp only [bootStep, logEv_boot, islanded_boot, gboot, hboot, hgen]
    rfl
  · rw [bootStep_pins, islanded_pins, gpins, hpins]
    rfl
  · rw [bootStep_map, islanded_map, hforced, gmap, hmap, hgen]
    rfl

/-! ## The statement -/

theorem completes_keyUnwrap {s t : State} {p : State → Prop} (he : keyUnwrap s = t) (ht : p t) : Completes .keyUnwrap s p :=
  ⟨t, congrArg Host.Outcome.next he, ht⟩

/-- Settles O10: step 6 by what it does with the key slots in each of its cases, step 7 by the equation of what it leaves. That the device's
key is kept where no copy unwraps is entry 45 of the assumption log, that the commands change nothing when not awaited entry 4. -/
theorem keysAndDieRelease : Obligations.KeysAndDieRelease := by
  unfold Obligations.KeysAndDieRelease
  refine ⟨fun s h => ?_, fun s b h hs hb => ?_, fun s h hs hb => ?_, fun s h hs => ?_, fun s h => ?_, fun s => ⟨fun hr => ?_, fun hr => ?_⟩,
    fun s => ⟨fun h => ?_, fun h => ?_⟩⟩
  · obtain ⟨hphase, hstep⟩ := keyUnwrap_ends h
    exact completes_keyUnwrap rfl ⟨hphase, hstep, keyUnwrap_keeps (g := .pins) rfl s (.refl _ s)⟩
  · obtain ⟨hw, hkeyed, hfind, honly⟩ := unwrapped_spec b s
    refine completes_keyUnwrap (keyUnwrap_good h hs hb) ?_
    simp only [stepSixDone_boot, stepSixDone_map]
    refine ⟨hw.map, hw.cause, hkeyed, hfind, honly, fun hup hall hnamed => ?_⟩
    rw [unwrapped_exact hall hnamed]
    exact ⟨rfl, rfl, stepSixDone_nv _, stepSixDone_stepDone rfl hup⟩
  · refine completes_keyUnwrap (keyUnwrap_lost h hs hb) ?_
    simp only [stepSixDone_boot, stepSixDone_map, stepSixDone_nv]
    refine ⟨fun k => ?_, ?_, ?_, ?_, stepSixDone_keysLost_buf⟩ <;> simp [keysLost, cleared]
  · refine completes_keyUnwrap (keyUnwrap_sanitizes h hs) ?_
    simp only [stepSixDone_boot, stepSixDone_map, stepSixDone_nv]
    obtain ⟨hmap, hoff, hswept, hfresh⟩ := sanitized_spec s
    exact ⟨hoff, hmap, hswept, hfresh⟩
  · obtain ⟨hboot, hpins, hmap⟩ := dieRelease_spec h
    refine ⟨dieRelease s, rfl, hpins, by rw [hmap], by rw [hboot], by rw [hboot], by rw [hboot], by rw [hboot], fun hg => ?_, fun hf => ?_,
      fun g hg hc => ?_⟩
    · rw [hboot, hmap, genBad_false hg]
      exact ⟨rfl, fun hf => by simp [hf]⟩
    · rw [hmap, hf]
      rfl
    · rw [hboot, hmap, genBad_true hg hc]
      simp
  · exact ⟨_, congrArg Host.Outcome.next (if_pos hr), rfl⟩
  · exact ⟨_, congrArg Host.Outcome.next (if_neg (by simp [hr])), rfl⟩
  · exact completes_keyUnwrap (if_pos (by simpa using h)) rfl
  · exact ⟨_, congrArg Host.Outcome.next (if_pos (by simpa using h)), rfl⟩

end Sys2Proof.KeysAndRelease
end

section
/-!
Commanded resets (R49, R357, R378, R379, R383): the answer of the command, the withdrawal of what is queued, the write-back of dirty units,
and the reset that ends the shutdown.
-/
namespace Sys2Proof.Teardowns

open Sys2Proof Sys2Proof.Machine Sys2Proof.Safety

/-! ## Keeper commands (R382) -/

theorem stateCommand_serves {s : State} (hu : mctpUp s = true) (hb : s.keeper.busy = false) (code : Nat) (f : State → Nat × State) :
    stateCommand code f s = cmdAnswer code (f s).1 [] (f s).2 := by
  simp only [stateCommand, hu, hb, Bool.not_true, Bool.false_eq_true, if_false]

theorem cmdAnswer_out (code result : Nat) (words : List Nat) (s : State) :
    (cmdAnswer code result words s).out = s.out ++ [.keeper code result words] := by
  simp [cmdAnswer, emit]

/-- An answer is logged and touches nothing else of the keeper. -/
theorem cmdAnswer_keeper (code result : Nat) (words : List Nat) (s : State) :
    keeperPart (cmdAnswer code result words s).keeper = keeperPart s.keeper :=
  cmdAnswer_keeps (g := .keeper) rfl code result words s (.refl _ s)

/-- A commanded reset waits in a keeper that is busy with it. -/
def resetWaits (kind cause : Nat) (s : State) : State :=
  { s with keeper := { s.keeper with reboot := kind, rebootCause := cause, busy := true, written := none } }

theorem resetCommand_waits {s : State} {kind : Nat} (hc : canChange s = true) (hr : s.boot.ready = true)
    (hw : kind = rebootWarm → s.boot.phase ≠ .boardTest ∧ s.pins.mainRails = true) (cause : Nat) :
    resetCommand kind cause s = (resOk, resetWaits kind cause s) := by
  have hb : beginReset kind cause s = resetWaits kind cause s := if_pos hr
  have hg : (!canChange s || (kind == rebootWarm && (s.boot.phase == .boardTest || !s.pins.mainRails))) = false := by
    by_cases hk : kind = rebootWarm
    · obtain ⟨hp, hm⟩ := hw hk
      simp [hc, hp, hm]
    · simp [hc, hk]
  rw [resetCommand, hg, hb]
  rfl

/-- The keeper takes a commanded reset on a node in service: OK, and the reset waits. -/
theorem reset_commanded {s : State} {code kind cause : Nat} (h : KeeperServes s) (hr : s.boot.ready = true)
    (hw : kind = rebootWarm → s.boot.phase ≠ .boardTest ∧ s.pins.mainRails = true) :
    let t := stateCommand code (resetCommand kind cause) s
    t.keeper.reboot = kind ∧ t.keeper.rebootCause = cause ∧ t.keeper.busy = true ∧ t.boot = s.boot ∧ t.out = s.out ++ [.keeper code 0 []] := by
  have hk := cmdAnswer_keeper code resOk [] (resetWaits kind cause s)
  simp only [stateCommand_serves h.up h.idle, resetCommand_waits h.service hr hw]
  exact ⟨(congrArg (fun x : KeeperSt => x.reboot) hk :), (congrArg (fun x : KeeperSt => x.rebootCause) hk :),
    (congrArg (fun x : KeeperSt => x.busy) hk :), cmdAnswer_boot _ _ _ _, cmdAnswer_out _ _ _ _⟩

/-! ## Completions beside the queues -/

/-- t stands after completions from s: the queues and the pipeline are as they were, and no header that waited to be sent is lost. -/
structure Completed (s t : State) : Prop where
  hw : t.hw = s.hw
  map : t.map = s.map
  queue : t.weir.queue = s.weir.queue
  pipe : t.weir.pipe = s.weir.pipe
  txq : s.net.txq ⊆ t.net.txq

theorem Completed.refl (s : State) : Completed s s := ⟨rfl, rfl, rfl, rfl, List.Subset.refl _⟩

theorem Completed.trans {s t u : State} (h : Completed s t) (k : Completed t u) : Completed s u :=
  ⟨k.hw.trans h.hw, k.map.trans h.map, k.queue.trans h.queue, k.pipe.trans h.pipe, List.Subset.trans h.txq k.txq⟩

/-- What leaves the weir, the ports, the composition and the pool map alone completes nothing. -/
theorem Completed.of_eq {s t : State} (hhw : t.hw = s.hw) (hmap : t.map = s.map) (hweir : t.weir = s.weir) (hnet : t.net = s.net) :
    Completed s t :=
  ⟨hhw, hmap, by rw [hweir], by rw [hweir], by rw [hnet]; exact List.Subset.refl _⟩

theorem Completed.targetKept {s t : State} (h : Completed s t) (r : Req) : targetKept t r = targetKept s r := by
  unfold Machine.targetKept State.node
  rw [h.hw, h.map]

theorem respondOn_completed (port link tag : Nat) (st : Status) (data : Bytes) (ptag : Option Nat) (s : State) :
    Completed s (respondOn port link tag st data ptag s) :=
  ⟨rfl, rfl, rfl, rfl, List.subset_append_left _ _⟩

theorem errorEntry_completed (p status source address detail : Nat) (s : State) :
    Completed s (errorEntry p status source address detail s) :=
  .of_eq (by simp) (by simp) (by simp) (by simp)

theorem hostOutcome_completed (p : Nat) (r : Req) (st : Status) (data : Bytes) (detail : Nat) (s : State) :
    Completed s (hostOutcome p r st data detail s) := by
  unfold hostOutcome
  extract_lets +onlyGivenNames t
  have ht : Completed s t := by
    unfold t
    split
    · exact .refl s
    · exact errorEntry_completed ..
  have he : ∀ o, Completed s (emit o t) := fun o => ht.trans (.of_eq rfl rfl rfl rfl)
  split
  · exact he _
  · split
    · exact ht
    · split
      · exact he _
      · split
        · exact he _
        · exact he _

theorem finish_completed (r : Req) (st : Status) (data : Bytes) (s : State) : Completed s (finish r st data s) := by
  have hl : ∀ d, Completed s (land r st d s) := fun d => ⟨rfl, rfl, rfl, rfl, List.Subset.refl _⟩
  unfold finish
  extract_lets d
  cases r.src with
  | port p l =>
    dsimp only
    split
    · exact respondOn_completed ..
    · exact .refl s
  | host p => exact hostOutcome_completed ..
  | mailbox _ => exact .refl s
  | migrator => exact .refl s
  | engine => exact .refl s
  | _ => exact hl d

theorem complete_completed (r : Req) (st : Status) (data : Bytes) (s : State) : Completed s (complete r st data s) := by
  have hj : ∀ js, Completed s { s with net := { s.net with joins := js } } := fun js => ⟨rfl, rfl, rfl, rfl, List.Subset.refl _⟩
  unfold complete
  split
  · exact finish_completed ..
  · split
    · exact finish_completed ..
    · extract_lets +onlyGivenNames d y
      split
      · exact hj _
      · extract_lets parts
        split
        · exact (hj _).trans ⟨rfl, rfl, rfl, rfl, List.Subset.refl _⟩
        · exact (hj _).trans (finish_completed ..)

/-! ## Requests withdrawn (R49) -/

/-- The transfer of a withdrawn request cut, and its blocks flushed (R272). -/
def cutTransfer (s : State) (r : Req) : State :=
  match jobOfReq s r, r.src with
  | some (k, i), _ => withdrawJob k i s
  | none, .course _ id _ => eddyFlush (fun x _ => x.course && x.index == id) s
  | none, _ => s

theorem withdraw_eq (s : State) (r : Req) : withdraw s r = complete r .withdrawn [] (cutTransfer s r) := rfl

theorem cutTransfer_keeps {g : Part} (hg : Free 8610906112 g) (s : State) (r : Req) : Keeps g s (cutTransfer s r) := by
  unfold cutTransfer
  split
  · exact withdrawJob_keeps hg _ _ s (.refl g s)
  · exact eddyFlush_keeps (hg.sub rfl) _ s (.refl g s)
  · exact .refl g s

theorem cutTransfer_completed (s : State) (r : Req) : Completed s (cutTransfer s r) :=
  .of_eq (cutTransfer_keeps (g := .hw) rfl s r) (cutTransfer_keeps (g := .map) rfl s r)
    (weir_eq (cutTransfer_keeps (g := .weirCtl) rfl s r) (cutTransfer_keeps (g := .weirQ) rfl s r))
    (net_eq (cutTransfer_keeps (g := .net) rfl s r) (cutTransfer_keeps (g := .links) rfl s r))

theorem withdraw_completed (s : State) (r : Req) : Completed s (withdraw s r) :=
  withdraw_eq s r ▸ (cutTransfer_completed s r).trans (complete_completed ..)

/-- A response WITHDRAWN to a request waits to be sent on the port that the request came over. -/
def AnsweredWithdrawn (t : State) (r : Req) : Prop :=
  ∀ p l, r.src = .port p l → r.join = none → hasResponse r.op = true →
    ∃ i ∈ t.net.txq, i.port = p ∧ i.isReq = false ∧ i.hdr = rspCell { tag := r.tag, status := .withdrawn, data := 0, prov := false, ptag := 0 }

theorem AnsweredWithdrawn.stays {s t : State} {r : Req} (h : AnsweredWithdrawn s r) (k : Completed s t) : AnsweredWithdrawn t r := by
  intro p l hs hj ho
  obtain ⟨i, hi, h⟩ := h p l hs hj ho
  exact ⟨i, k.txq hi, h⟩

theorem withdraw_answers (s : State) (r : Req) : AnsweredWithdrawn (withdraw s r) r := by
  intro p l hs hj ho
  have he : withdraw s r = respondOn p l r.tag .withdrawn [] none (cutTransfer s r) := by
    simp [withdraw_eq, complete, hj, finish, hs, ho]
  rw [he]
  exact ⟨_, List.mem_append_right _ List.mem_cons_self, rfl, rfl, rfl⟩

theorem withdraws_completed (qs : List QEntry) (s : State) : Completed s (qs.foldl (fun s q => withdraw s q.req) s) :=
  keeps_foldl (P := Completed s) (fun t q h => h.trans (withdraw_completed t q.req)) qs s (.refl s)

theorem withdraws_answer (qs : List QEntry) (s : State) : ∀ q ∈ qs, AnsweredWithdrawn (qs.foldl (fun s q => withdraw s q.req) s) q.req := by
  induction qs generalizing s with
  | nil => exact fun _ h => nomatch h
  | cons q qs ih =>
    intro x hx
    rcases List.mem_cons.1 hx with rfl | hx
    · exact (withdraw_answers s x.req).stays (withdraws_completed qs _)
    · exact ih _ x hx

/-- The requests whose targets are kept alone are left in the queues, and the others are answered. -/
theorem withdrawQueued_spec (s : State) : let t := withdrawQueued s
    t.map = s.map ∧ t.weir.pipe = s.weir.pipe ∧ (∀ r, targetKept t r = targetKept s r)
      ∧ t.weir.queue = s.weir.queue.filter (fun q => targetKept s q.req)
      ∧ ∀ q ∈ s.weir.queue, targetKept s q.req = false → AnsweredWithdrawn t q.req := by
  obtain ⟨u, hu⟩ : ∃ u, u = { s with weir := { s.weir with queue := s.weir.queue.filter (fun q => targetKept s q.req) } } := ⟨_, rfl⟩
  have hk : ∀ r, targetKept u r = targetKept s r := fun r => by rw [hu]; rfl
  have he : withdrawQueued s = (s.weir.queue.filter (fun q => !targetKept s q.req)).foldl (fun s q => withdraw s q.req) u := by
    rw [hu]
    rfl
  have hc := withdraws_completed (s.weir.queue.filter (fun q => !targetKept s q.req)) u
  simp only [he]
  refine ⟨by rw [hc.map, hu], by rw [hc.pipe, hu], fun r => by rw [hc.targetKept, hk], by rw [hc.queue, hu], fun q hq hn => ?_⟩
  exact withdraws_answer _ u q (List.mem_filter.2 ⟨hq, by simp [hn]⟩)

/-- The node in teardown, against the slice that the next boot brings. -/
def torn (s : State) : State :=
  { s with map := { s.map with teardown := true, staged := if s.map.teardown then s.map.staged else stagedSlice s } }

theorem teardown_eq {s : State} (hk : s.keeper.reboot ≠ 0) (hr : s.boot.ready = true) : teardown s = withdrawQueued (torn s) := by
  have hg : (s.keeper.reboot == 0 || !s.boot.ready) = false := by simp [hk, hr]
  simp only [teardown, hg, Bool.false_eq_true, if_false]
  rfl

/-! ## Dirty units written back (R379) -/

/-- Device work waits for a maintenance slot or the flash gate. -/
def Asked (s : State) (w : FlashWork) : Prop := ∃ x ∈ s.weir.maint ++ s.weir.flashQ, x.2 = w

theorem maintain_asked (race : Nat) (w : FlashWork) (s : State) : Asked (maintain race w s) w :=
  ⟨(race, w), List.mem_append_left _ (List.mem_append_right _ List.mem_cons_self), rfl⟩

theorem Asked.maintain {s : State} {v : FlashWork} (h : Asked s v) (race : Nat) (w : FlashWork) : Asked (maintain race w s) v := by
  by_cases e : v = w
  · exact e ▸ maintain_asked race v s
  · obtain ⟨x, hx, hv⟩ := h
    refine ⟨x, ?_, hv⟩
    simp only [Machine.maintain, List.mem_append, List.mem_filter] at hx ⊢
    exact hx.imp_left (fun hm => .inl ⟨hm, by simpa [hv] using e⟩)

/-- A unit's cleaning asked for in its home race. -/
def askClean (s : State) (u : Nat) : State := maintain (homeRace s (u * 4096)) (.clean u) s

theorem askCleans_asked (us : List Nat) (s : State) :
    (∀ w, Asked s w → Asked (us.foldl askClean s) w) ∧ ∀ u ∈ us, Asked (us.foldl askClean s) (.clean u) := by
  induction us generalizing s with
  | nil => exact ⟨fun _ h => h, fun _ h => nomatch h⟩
  | cons u us ih =>
    obtain ⟨hstays, hasked⟩ := ih (askClean s u)
    refine ⟨fun w hw => hstays w (hw.maintain _ _), fun v hv => ?_⟩
    rcases List.mem_cons.1 hv with rfl | hv
    · exact hstays _ (maintain_asked _ _ s)
    · exact hasked v hv

theorem askWriteBack_asked (us : List Nat) (s : State) : ∀ u ∈ us, Asked (askWriteBack us s) (.clean u) := by
  intro u hu
  obtain ⟨new, hnew⟩ : ∃ l, l = us.filter (fun u => !(s.weir.maint ++ s.weir.flashQ).any (fun w => w.2 == .clean u)) := ⟨_, rfl⟩
  have he : askWriteBack us s = new.foldl askClean s := by rw [hnew]; rfl
  obtain ⟨hstays, hasked⟩ := askCleans_asked new s
  rw [he]
  by_cases hn : u ∈ new
  · exact hasked u hn
  · refine hstays _ ?_
    have ha : (s.weir.maint ++ s.weir.flashQ).any (fun w => w.2 == .clean u) = true := by
      by_contra ha
      exact hn (hnew ▸ List.mem_filter.2 ⟨hu, by simpa only [Bool.not_eq_true', Bool.not_eq_true] using ha⟩)
    obtain ⟨x, hx, hc⟩ := List.any_eq_true.1 ha
    exact ⟨x, hx, by simpa using hc⟩

/-! ## The log closed (R383, R395) -/

/-- A batch that is sealed is empty. -/
theorem sealBatch_batch (after before : Bool) (s : State) : (sealBatch true after before s).nv.batch = [] := by
  cases hb : s.nv.batch with
  | nil => simp [sealBatch, hb]
  | cons e l => simp [sealBatch, hb, List.getLast?_cons]

theorem closeLog_batch (s : State) : (closeLog s).nv.batch = [] := sealBatch_batch _ _ _

theorem closeLog_ident (s : State) : Keeps .ident s (closeLog s) := closeLog_keeps (g := .ident) rfl s (.refl _ s)

/-! ## What follows a shutdown (R357, R378, R383) -/

theorem dieReset_boot (s : State) : (dieReset s).boot = { s.boot with
    ready := false, memAwait := 0, linksDone := false, linksTried := [], erasing := false, keys := [], keyBits := [], uncreated := [] } := by
  simp [dieReset]

theorem dieReset_keeper (s : State) : (dieReset s).keeper.busy = false ∧ (dieReset s).keeper.reboot = 0 := ⟨rfl, rfl⟩

theorem dieReset_nv (s : State) : (dieReset s).nv = s.nv := by simp [dieReset]

/-- A boot that is counted, and a reset that was not orderly with it (Table 16-11). -/
def BootCounted (n m : NvSt) : Prop :=
  m.bootNumber = (n.bootNumber + 1) % 2 ^ 32 ∧ m.dirtyShutdowns = n.dirtyShutdowns + if n.orderly then 0 else 1

theorem startBoot_counted (warm : Bool) (s : State) : BootCounted s.nv (startBoot warm s).nv := by
  refine ⟨rfl, ?_⟩
  simp only [startBoot]
  split <;> rfl

theorem coldReset_spec (s : State) : (coldReset s).boot.phase = .awaiting 2 ∧ (coldReset s).pins.mainRails = false
    ∧ BootCounted s.nv (coldReset s).nv :=
  ⟨rfl, rfl, dieReset_nv s ▸ startBoot_counted false _⟩

theorem warmReset_spec (s : State) : (warmReset s).boot.phase = .awaiting 4 ∧ BootCounted s.nv (warmReset s).nv :=
  ⟨rfl, dieReset_nv s ▸ startBoot_counted true _⟩

theorem railsOff_spec (s : State) : (railsOff s).boot.phase = .down ∧ (railsOff s).pins.mainRails = false ∧ (railsOff s).nv = s.nv :=
  ⟨rfl, rfl, dieReset_nv s⟩

/-- Whatever the reset, the die is in reset, the keeper is free, and the log's batch is as it was. -/
theorem afterShutdown_spec (kind : Nat) (s : State) : let t := afterShutdown kind s
    t.nv.batch = s.nv.batch ∧ t.boot.ready = false ∧ t.keeper.busy = false ∧ t.keeper.reboot = 0 := by
  simp only [afterShutdown]
  split
  · exact ⟨rfl, rfl, rfl, rfl⟩
  · split <;> exact ⟨rfl, rfl, rfl, rfl⟩

/-! ## The end of the shutdown (R379) -/

/-- What is kept over the reset saved, the shutdown logged as orderly, the SerDes off. -/
def saved (s : State) : State :=
  let s := saveMirrorBits (savePoison s)
  let s := logEv 0x0105 sevNotice 15 0 s.keeper.rebootCause (s.keeper.written.getD 0) s
  { s with nv := { s.nv with orderly := true }, pins := { s.pins with serdes := false } }

theorem endShutdown_eq (s : State) : endShutdown s = afterShutdown s.keeper.reboot (closeLog (saved s)) := rfl

theorem saved_nv (s : State) : (saved s).nv.orderly = true ∧ (saved s).nv.bootNumber = s.nv.bootNumber
    ∧ (saved s).nv.dirtyShutdowns = s.nv.dirtyShutdowns := by
  simp [saved, saveMirrorBits, savePoison]

/-- The state in which the reset of an orderly shutdown takes place. -/
theorem closed_nv (s : State) : (closeLog (saved s)).nv.orderly = true ∧ (closeLog (saved s)).nv.bootNumber = s.nv.bootNumber
    ∧ (closeLog (saved s)).nv.dirtyShutdowns = s.nv.dirtyShutdowns := by
  have hi := closeLog_ident (saved s)
  rw [keep_nv_orderly hi, keep_nv_bootNumber hi, keep_nv_dirtyShutdowns hi]
  exact saved_nv s

theorem takeDownDomains_none {s : State} (h : s.coh.domains = []) : takeDownDomains s = s := by
  simp [takeDownDomains, h]

/-- With the domains taken down, or none there, the shutdown writes back what is dirty, or ends. -/
theorem finishShutdown_eq {s : State} (h : s.keeper.written.isSome = true ∨ s.coh.domains = []) :
    ∃ w, finishShutdown s = (let u := { s with keeper := { s.keeper with written := w } }
      if (dirtyAll s).isEmpty then endShutdown u else askWriteBack (dirtyAll s) u) := by
  by_cases hs : s.keeper.written.isSome = true
  · exact ⟨s.keeper.written, by simp only [finishShutdown, hs, if_true]⟩
  · have hd : s.coh.domains = [] := h.resolve_left hs
    refine ⟨some 0, ?_⟩
    simp only [finishShutdown, hs, Bool.false_eq_true, if_false]
    rw [takeDownDomains_none (by exact hd)]
    rfl

/-- TEARDOWN_COMPLETE with no accepted request left and every rill OFF. -/
theorem teardownComplete_eq {s : State} (ht : s.map.teardown = true) (ha : acceptedLeft s = false) (hr : rillsOn s = []) :
    teardownComplete s = finishShutdown s := by
  simp [teardownComplete, ht, ha, hr]

/-- The shutdown's end: the log closed, and the reset that was commanded. -/
theorem endShutdown_spec (s : State) : let t := endShutdown s
    t.nv.batch = [] ∧ t.boot.ready = false ∧ t.keeper.busy = false ∧ t.keeper.reboot = 0
      ∧ (s.keeper.reboot = 1 → t.boot.phase = .down ∧ t.pins.mainRails = false ∧ t.nv.orderly = true ∧ t.nv.bootNumber = s.nv.bootNumber)
      ∧ (s.keeper.reboot = 2 → t.boot.phase = .awaiting 4 ∧ t.nv.bootNumber = (s.nv.bootNumber + 1) % 2 ^ 32
          ∧ t.nv.dirtyShutdowns = s.nv.dirtyShutdowns)
      ∧ (s.keeper.reboot = 3 → t.boot.phase = .awaiting 2 ∧ t.pins.mainRails = false ∧ t.nv.bootNumber = (s.nv.bootNumber + 1) % 2 ^ 32
          ∧ t.nv.dirtyShutdowns = s.nv.dirtyShutdowns) := by
  obtain ⟨horderly, hnumber, hdirty⟩ := closed_nv s
  obtain ⟨hbatch, hready, hbusy, hreboot⟩ := afterShutdown_spec s.keeper.reboot (closeLog (saved s))
  rw [closeLog_batch] at hbatch
  simp only [endShutdown_eq]
  refine ⟨hbatch, hready, hbusy, hreboot, fun hk => ?_, fun hk => ?_, fun hk => ?_⟩
  · obtain ⟨hp, hm, hn⟩ := railsOff_spec (closeLog (saved s))
    have he : afterShutdown s.keeper.reboot (closeLog (saved s)) = railsOff (closeLog (saved s)) := by rw [hk]; rfl
    rw [he, hn]
    exact ⟨hp, hm, horderly, hnumber⟩
  · obtain ⟨hp, hb, hd⟩ := warmReset_spec (closeLog (saved s))
    have he : afterShutdown s.keeper.reboot (closeLog (saved s)) = warmReset (closeLog (saved s)) := by rw [hk]; rfl
    rw [he]
    exact ⟨hp, by rw [hb, hnumber], by rw [hd, horderly, hdirty]; rfl⟩
  · obtain ⟨hp, hm, hb, hd⟩ := coldReset_spec (closeLog (saved s))
    have he : afterShutdown s.keeper.reboot (closeLog (saved s)) = coldReset (closeLog (saved s)) := by rw [hk]; rfl
    rw [he]
    exact ⟨hp, hm, by rw [hb, hnumber], by rw [hd, horderly, hdirty]; rfl⟩

/-! ## The statement -/

theorem coldReset_out (s : State) : (coldReset s).out = s.out := coldReset_keeps (g := .out) rfl s (.refl _ s)

theorem powerOn_boots {s : State} (hd : s.boot.phase = .down) (hu : s.keeper.up = true) (hb : s.keeper.busy = false) :
    exec .powerOn s = .next (cmdAnswer 0x23 resOk [] (coldReset s)) := by
  have hm : mctpUp s = true := by simp [mctpUp, hd, hu]
  have he := stateCommand_serves hm hb 0x23 (fun s => if s.boot.phase == .down then (resOk, coldReset s) else (resRefused, s))
  simp only [hd, BEq.rfl, if_true] at he
  exact congrArg Host.Outcome.next he

/-- Settles O26: a commanded reset waits in the keeper, teardown withdraws by the staged slice, and the shutdown ends in one of three
resets, each of a die in reset with its log sealed. That this seal always succeeds and the command marks the keeper busy is entry 46 of the
assumption log. -/
theorem teardownShutdownAndPowerOn : Obligations.TeardownShutdownAndPowerOn := by
  unfold Obligations.TeardownShutdownAndPowerOn
  refine ⟨fun s h hr => ⟨?_, ?_, fun hp hm => ?_⟩, fun s hk hr => ?_, fun s ht ha hr hw hd => ?_, fun s ht ha hr hw hd => ?_,
    fun s hd => ⟨fun hu hb => ?_, fun ho => ?_⟩⟩
  · exact ⟨_, rfl, reset_commanded h hr (fun e => absurd e (by decide))⟩
  · exact ⟨_, rfl, reset_commanded h hr (fun e => absurd e (by decide))⟩
  · exact ⟨_, rfl, reset_commanded h hr (fun _ => ⟨hp, hm⟩)⟩
  · obtain ⟨hmap, hpipe, hkept, hqueue, hanswer⟩ := withdrawQueued_spec (torn s)
    refine ⟨withdrawQueued (torn s), congrArg Host.Outcome.next (teardown_eq hk hr), by rw [hmap]; rfl, by rw [hmap]; rfl, ?_, hpipe,
      fun q hq hn => hanswer q hq (hkept q.req ▸ hn)⟩
    simp only [hkept]
    exact hqueue
  · obtain ⟨w, he⟩ := finishShutdown_eq (.inl hw)
    rw [if_neg (by simpa using hd), ← teardownComplete_eq ht ha hr] at he
    refine ⟨_, congrArg Host.Outcome.next he, ?_, ?_, fun u hu => askWriteBack_asked (dirtyAll s) _ u hu⟩
    · exact (congrArg MapSt.teardown (askWriteBack_keeps (g := .map) rfl _ _ (.refl .map _))).trans ht
    · exact askWriteBack_keeps (g := .boot) rfl _ _ (.refl .boot _)
  · obtain ⟨w, he⟩ := finishShutdown_eq hw
    rw [if_pos (by simp [hd]), ← teardownComplete_eq ht ha hr] at he
    exact ⟨_, congrArg Host.Outcome.next he, endShutdown_spec _⟩
  · obtain ⟨hp, hm, hb', hd'⟩ := coldReset_spec s
    refine ⟨_, powerOn_boots hd hu hb, ⟨?_, ?_, ?_, ?_⟩, ?_⟩
    · rw [cmdAnswer_boot, hp]
    · rw [cmdAnswer_pins, hm]
    · rw [cmdAnswer_nv, hb']
    · rw [cmdAnswer_nv, hd']
    · rw [cmdAnswer_out, coldReset_out]
      rfl
  · obtain ⟨hp, hm, hb, hd'⟩ := coldReset_spec { s with pins := { s.pins with inputGood := true } }
    exact ⟨_, congrArg Host.Outcome.next (if_pos (by simp [hd, ho])), hp, hm, hb, hd'⟩

end Sys2Proof.Teardowns
end

section
/-!
Keeper commands (R382, R389, R390): what a command answers is said once for every state-changing command, and each command by what it does to
the one part that it changes.
-/
namespace Sys2Proof.KeeperCommands

open Sys2Proof Sys2Proof.Machine Sys2Proof.Safety Sys2Proof.Teardowns Sys2Proof.MapAgreements

/-! ## The keeper's log while it runs (R381, R393) -/

/-- While the keeper runs, an event enters its buffer and nothing else changes. -/
theorem logEv_up {s : State} (h : s.keeper.up = true) (code severity party status arg0 arg1 : Nat) :
    logEv code severity party status arg0 arg1 s =
      { s with keeper := { s.keeper with buf := s.keeper.buf ++ [mkEntry code severity party status arg0 arg1 s] } } := if_pos h

/-- An event leaves the keeper's parts other than its log and alerts. -/
theorem logEv_keeperPart (code severity party status arg0 arg1 : Nat) (s : State) :
    keeperPart (logEv code severity party status arg0 arg1 s).keeper = keeperPart s.keeper :=
  logEv_keeps (g := .keeper) rfl code severity party status arg0 arg1 s (.refl _ s)

theorem logEv_mono (code severity party status arg0 arg1 : Nat) (s : State) :
    (logEv code severity party status arg0 arg1 s).keeper.mono = s.keeper.mono :=
  (congrArg (fun x : KeeperSt => x.mono) (logEv_keeperPart code severity party status arg0 arg1 s) :)

/-! ## The answer of a command (R382) -/

theorem up_of_mctpUp {s : State} (h : mctpUp s = true) : s.keeper.up = true := by
  unfold mctpUp at h
  exact (Bool.and_eq_true _ _ ▸ h).1

/-- t differs from s in nothing that an answer speaks of: what was sent, and the keeper's log buffer. -/
structure SameVoice (s t : State) : Prop where
  up : t.keeper.up = s.keeper.up
  buf : t.keeper.buf = s.keeper.buf
  out : t.out = s.out

theorem cmdAnswer_buf {s : State} (h : s.keeper.up = true) (code result : Nat) (words : List Nat) :
    (cmdAnswer code result words s).keeper.buf = s.keeper.buf ++ [mkEntry 0x0901 sevInfo 15 0 code result s] := by
  simp [cmdAnswer, emit, logEv, h]

theorem cmdAnswer_logged {s t : State} (hu : s.keeper.up = true) (h : SameVoice s t) (code result : Nat) :
    Logged s (cmdAnswer code result [] t) 0x0901 code result :=
  ⟨_, by rw [cmdAnswer_buf (h.up.trans hu), h.buf], rfl, rfl, rfl⟩

theorem cmdAnswer_answers {s t : State} (hu : s.keeper.up = true) (h : SameVoice s t) (code result : Nat) :
    Answers s (cmdAnswer code result [] t) code result [] :=
  ⟨by rw [cmdAnswer_out, h.out, List.append_nil], cmdAnswer_logged hu h code result⟩

@[simp] theorem cmdAnswer_alert {s : State} (h : s.keeper.up = true) (code result : Nat) (words : List Nat) :
    (cmdAnswer code result words s).keeper.alert = s.keeper.alert := by
  simp [cmdAnswer, emit, logEv, h]

@[simp] theorem cmdAnswer_limitW (code result : Nat) (words : List Nat) (s : State) :
    (cmdAnswer code result words s).keeper.limitW = s.keeper.limitW :=
  (congrArg (fun x : KeeperSt => x.limitW) (cmdAnswer_keeper code result words s) :)

theorem stateCommand_busy {s : State} (hu : mctpUp s = true) (hb : s.keeper.busy = true) (code : Nat) (f : State → Nat × State) :
    stateCommand code f s = cmdAnswer code resBusy [] s := by
  simp only [stateCommand, hu, hb, Bool.not_true, Bool.false_eq_true, if_false, if_true]

/-- A state-changing command completes in its answer after what it did. -/
theorem completes_stateCommand {c : Instr} {s t : State} {code r : Nat} {f : State → Nat × State} {p : State → Prop}
    (hc : exec c s = .next (stateCommand code f s)) (hu : mctpUp s = true) (hb : s.keeper.busy = false) (hf : f s = (r, t))
    (hp : p (cmdAnswer code r [] t)) : Completes c s p :=
  ⟨_, by rw [hc, stateCommand_serves hu hb, hf], hp⟩

/-- With a command in progress, every other is answered BUSY and changes nothing. -/
theorem completes_busy {c : Instr} {s : State} {code : Nat} {f : State → Nat × State} (hc : exec c s = .next (stateCommand code f s))
    (hu : mctpUp s = true) (hb : s.keeper.busy = true) :
    Completes c s (fun t => Answers s t code 1 [] ∧ t.nv = s.nv ∧ t.flush = s.flush ∧ t.map = s.map ∧ t.keeper.limitW = s.keeper.limitW) :=
  ⟨_, hc.trans (congrArg Host.Outcome.next (stateCommand_busy hu hb code f)), cmdAnswer_answers (up_of_mctpUp hu) ⟨rfl, rfl, rfl⟩ code 1,
  cmdAnswer_nv _ _ _ _,
    cmdAnswer_flush _ _ _ _, cmdAnswer_map _ _ _ _, cmdAnswer_limitW _ _ _ _⟩

/-! ## CLEAR_ALERT (R389) -/

/-- Dropping some bits of ALERT_CAUSE changes nothing else. -/
theorem dropAlerts_eq (bs : List Nat) (s : State) :
    ∃ a, bs.foldl (fun s b => dropAlert b s) s = { s with keeper := { s.keeper with alert := a } }
      ∧ ∀ b, b ∈ a ↔ b ∈ s.keeper.alert ∧ b ∉ bs := by
  induction bs generalizing s with
  | nil => exact ⟨s.keeper.alert, rfl, by simp⟩
  | cons x bs ih =>
    obtain ⟨a, he, ha⟩ := ih (dropAlert x s)
    refine ⟨a, he, fun b => ?_⟩
    rw [ha, dropAlert, mem_removeNat, List.mem_cons, not_or, and_assoc]

/-! ## CLEAR_FAULT (R88) -/

/-- The manifest given up, so that the node is an ISLAND for it no longer. -/
def manifestGivenUp (s : State) : State := { s with nv := { s.nv with manifestLost := false } }

theorem clearFault_refuses {s : State} (h : s.nv.manifestLost = false ∨ s.map.lostKeys = true) : clearFault s = (resRefused, s) :=
  if_pos (by simpa using h)

theorem clearFault_starts {s : State} (hl : s.nv.manifestLost = true) (hk : s.map.lostKeys = false) (hg : s.map.genFault = false)
    (hr : s.boot.ready = true) : clearFault s = (resOk, startAgreement (mapTo .forming (manifestGivenUp s))) := by
  have hf : forcedIsland (manifestGivenUp s) = false := by simp [forcedIsland, manifestGivenUp, hg, hk]
  have hb : (!(manifestGivenUp s).boot.ready) = false := by simp [manifestGivenUp, hr]
  rw [clearFault, if_neg (by simp [hl, hk])]
  change (if forcedIsland (manifestGivenUp s) || !(manifestGivenUp s).boot.ready then _ else _) = _
  rw [hf, hb]
  rfl

/-- The move to FORMING writes no generation record, and says nothing but that it is made. -/
theorem mapTo_forming_nv (s : State) : (mapTo .forming s).nv = s.nv := by
  unfold mapTo
  split
  · rfl
  · simp

/-- Agreement starts with this node alone in the pool, announced to its roster. -/
theorem agreementStarts {s : State} (hs : s.map.started = false) (hl : s.map.lostKeys = false) (hg : s.map.genFault = false) :
    let t := startAgreement (mapTo .forming (manifestGivenUp s))
    t.nv = { s.nv with manifestLost := false } ∧ t.map.started = true ∧ t.map.state = .forming ∧ t.map.pool = [s.node]
      ∧ ∀ n ∈ s.hw.slice.roster, n ≠ s.node → Output.announce n (myAnnouncement s false) ∈ t.out := by
  obtain ⟨u, hu⟩ : ∃ u, u = mapTo .forming (manifestGivenUp s) := ⟨_, rfl⟩
  have hnv : u.nv = { s.nv with manifestLost := false } := hu ▸ mapTo_forming_nv _
  have hmap : u.map = { s.map with state := .forming } := hu ▸ mapTo_map .forming _
  have hhw : u.hw = s.hw := hu ▸ mapTo_keeps (g := .hw) rfl .forming _ (.refl .hw _)
  have hforced : forcedIsland u = false := by simp [forcedIsland, hnv, hmap, hl, hg]
  have he : startAgreement u = announceAll (started u) := startAgreement_eq (by simp [hmap, hs]) hforced
  simp only [← hu, he]
  refine ⟨by rw [announceAll_eq]; exact hnv, by rw [announceAll_map]; rfl, ?_, ?_, fun n hn hne => ?_⟩
  · rw [announceAll_map, started, hmap]
  · rw [announceAll_map, started, State.node, hhw, State.node]
  · have hnode : (started u).node = s.node := congrArg Headwater.node hhw
    have hsame : myAnnouncement (started u) false = myAnnouncement s false := by
      simp [myAnnouncement, State.node, started, hhw, hnv]
    have hmem : n ∈ notAgreed (started u) := mem_notAgreed.2 ⟨by rw [started, hhw]; exact hn, by rw [hnode]; exact hne, by
      simpa [started, State.node, hhw] using hne⟩
    rw [announceAll_eq]
    exact List.mem_append_right _ (List.mem_map.2 ⟨n, hmem, by rw [hsame]⟩)

/-! ## EARLY_FLUSH and END_BRACE (R83, R87) -/

/-- With no flush active, a trigger makes one pending; the trigger is logged. -/
theorem trigger_pends {s : State} (h : flushActive s = false) (cause : Nat) : trigger cause s =
    { logSelect .spate 2 s.keeper.powerW s with
      flush := { s.flush with pending := true, toPower := cause == trigPfw, trigger := cause, startMono := s.keeper.mono } } := by
  simp only [trigger, h, Bool.false_eq_true, if_false, logSelect, logEv_flush, logEv_mono]

theorem trigger_command_active {s : State} (h : flushActive s = true) : trigger trigCommand s = s := by
  simp only [trigger, h, if_true]
  rfl

/-- The end of the braced state, before it is logged. -/
def unbraced (s : State) : State := dropAlert alertBraced { s with flush := { s.flush with braced := false, causes := [] } }

theorem endBrace_braced {s : State} (h : s.flush.braced = true) :
    endBrace s = logEv 0x0305 sevNotice 15 0 0 (s.flush.causes.headD 0) (unbraced s) := by
  simp only [endBrace, h, Bool.not_true, Bool.false_eq_true, if_false, unbraced]

theorem endBrace_unbraced {s : State} (h : s.flush.braced = false) : endBrace s = s := by
  simp [endBrace, h]

/-! ## The statement -/

/-- Settles O54: each command by its one effect, before the answer that all share. That EARLY_FLUSH and END_BRACE are refused before READY is
entry 9 of the assumption log. -/
theorem keeperCommandsAct : Obligations.KeeperCommandsAct := by
  unfold Obligations.KeeperCommandsAct
  refine ⟨fun s hu hb => ?_, fun s hu hb c hc => ?_, fun s e => ⟨fun hu => ?_, fun hu => ?_⟩⟩
  · have hup := up_of_mctpUp hu
    refine ⟨fun v => ?_, fun w => ?_, fun hr hc => ⟨fun hf => ?_, fun hf => ?_, fun hbr => ?_, fun hbr => ?_⟩, fun hr => ⟨?_, ?_⟩,
      fun hl hk hg hr hs => ?_, fun h => ?_⟩
    · obtain ⟨a, he, ha⟩ := dropAlerts_eq ([alertUpdateFail, alertLog, alertService, alertSwitch, alertLag].filter (flag v)) s
      have hv : SameVoice s { s with keeper := { s.keeper with alert := a } } := ⟨rfl, rfl, rfl⟩
      refine completes_stateCommand rfl hu hb (congrArg (Prod.mk resOk) he) ⟨by rw [cmdAnswer_out]; rfl, cmdAnswer_logged hup hv _ _, fun b => ?_⟩
      rw [cmdAnswer_alert (by exact hup), ← List.mem_filter]
      exact ha b
    · refine completes_stateCommand rfl hu hb rfl ⟨cmdAnswer_answers hup (by exact ⟨rfl, rfl, rfl⟩) _ _, by rw [cmdAnswer_limitW], ?_⟩
      rw [cmdAnswer_alert (by exact hup)]
    · refine completes_stateCommand rfl hu hb (if_pos (by simp [hr, hc])) ?_
      rw [trigger_pends hf, cmdAnswer_out, cmdAnswer_flush]
      exact ⟨congrArg (· ++ [Output.keeper 0x11 0 []]) (logSelect_out .spate 2 s.keeper.powerW s), rfl⟩
    · refine completes_stateCommand rfl hu hb (if_pos (by simp [hr, hc])) ?_
      rw [trigger_command_active hf]
      exact ⟨cmdAnswer_answers hup ⟨rfl, rfl, rfl⟩ _ _, cmdAnswer_flush _ _ _ _⟩
    · refine completes_stateCommand rfl hu hb (if_pos (by simp [hr, hc])) ?_
      rw [endBrace_braced hbr, logEv_up (by exact hup), cmdAnswer_out, cmdAnswer_flush, cmdAnswer_alert (by exact hup)]
      exact ⟨rfl, rfl, rfl⟩
    · refine completes_stateCommand rfl hu hb (if_pos (by simp [hr, hc])) ?_
      rw [endBrace_unbraced hbr]
      exact ⟨cmdAnswer_answers hup ⟨rfl, rfl, rfl⟩ _ _, cmdAnswer_flush _ _ _ _⟩
    · exact completes_stateCommand rfl hu hb (if_neg (by simp [hr])) ⟨cmdAnswer_answers hup ⟨rfl, rfl, rfl⟩ _ _, cmdAnswer_flush _ _ _ _⟩
    · exact completes_stateCommand rfl hu hb (if_neg (by simp [hr])) ⟨cmdAnswer_answers hup ⟨rfl, rfl, rfl⟩ _ _, cmdAnswer_flush _ _ _ _⟩
    · obtain ⟨hnv, hstart, hform, hpool, hout⟩ := agreementStarts hs hk hg
      refine completes_stateCommand rfl hu hb (clearFault_starts hl hk hg hr) ?_
      rw [cmdAnswer_nv, cmdAnswer_map, cmdAnswer_out, hnv]
      exact ⟨rfl, hstart, hform, hpool, fun n hn hne => List.mem_append_left _ (hout n hn hne)⟩
    · exact completes_stateCommand rfl hu hb (clearFault_refuses h)
        ⟨cmdAnswer_answers hup ⟨rfl, rfl, rfl⟩ _ _, cmdAnswer_nv _ _ _ _, cmdAnswer_map _ _ _ _⟩
  · simp only [List.mem_cons, List.not_mem_nil, or_false] at hc
    rcases hc with rfl | rfl | rfl | rfl | rfl | rfl | rfl | rfl <;> exact completes_busy rfl hu hb
  · exact ⟨_, congrArg Host.Outcome.next (if_pos (by simp [hu])), rfl⟩
  · exact ⟨_, congrArg Host.Outcome.next (if_neg (by simp [mctpUp, hu])), rfl⟩

end Sys2Proof.KeeperCommands
end

section
/-!
The end of an early flush (R86, R398): what it leaves where an activation that waited for it resets the node.
-/
namespace Sys2Proof.FlushEnds

open Sys2Proof Sys2Proof.Machine Sys2Proof.Safety

/-- A node after BOOT_FAILED, main rails on, whose early flush has everything but the record programmed, with an activation that waits for the end
of the flush and a headwater image staged for it. -/
def activationWaits : State := { State.reset with
  boot := { phase := .failedReleased }
  pins := { mainRails := true }
  nv := { hwRec := { stateA := .staged } }
  flush := { kind := .early, manifestDone := true }
  keeper := { up := true, deferred := true } }

theorem activationWaits_flushReady : flushReady activationWaits = true := rfl

/-- The end of the flush selects the table in force before it. -/
theorem activationWaits_selects : (earlyFlushComplete activationWaits).weir.selected = some activationWaits.weir.before := rfl

/-- The activation follows at once with a warm reset, there being nothing to shut down on a node that is not READY, and the reset clears the weir. -/
theorem activationWaits_resets : ∃ t, exec .earlyFlushComplete activationWaits = .next t ∧ t.boot.phase = .awaiting 4 ∧ t.weir.selected = none :=
  ⟨_, rfl, rfl, rfl⟩

/-- Refutes O30: EARLY_FLUSH_COMPLETE need not leave the table in force before the flush selected. The statement asks for it of every state with an
early flush ready to end; where an activation was deferred to that end (R398) and the node is not READY, the warm reset that follows within the
command clears the selection. -/
theorem not_flushesEndAndPowerGoes : ¬ Obligations.FlushesEndAndPowerGoes := by
  unfold Obligations.FlushesEndAndPowerGoes
  rintro ⟨-, hends, -⟩
  obtain ⟨-, hearly⟩ := hends activationWaits activationWaits_flushReady
  obtain ⟨t, ht, -, -, hselected, -⟩ := hearly rfl
  obtain ⟨u, hu, -, hnone⟩ := activationWaits_resets
  have hsame : u = t := Host.Outcome.next.inj (hu.symm.trans ht)
  rw [← hsame, hnone] at hselected
  exact absurd hselected (by simp)

end Sys2Proof.FlushEnds
end

section
/-!
Units of 4 KiB (R71, R84, R336, R338): how long their two forms are, what they depend on, and what a memory reads after one of them is written.
-/
namespace Sys2Proof.FlashUnits

open Sys2Proof Sys2Proof.Machine Sys2Proof.Safety

/-! ## The bytes of a unit -/

theorem padTo_length (n : Nat) (bs : Bytes) : (padTo n bs).length = n := by
  simp only [padTo, List.length_take, List.length_append, List.length_replicate]
  omega

theorem plainUnit_length (s : State) (m : Memory) (u : Nat) : (plainUnit s m u).length = 4096 := padTo_length _ _

theorem cipherUnit_length (s : State) (m : Memory) (u : Nat) : (cipherUnit s m u).length = 4096 := padTo_length _ _

theorem readN_congr {m k : Memory} {a n : Nat} (h : ∀ x, a ≤ x → x < a + n → m.read x = k.read x) : m.readN a n = k.readN a n := by
  induction n generalizing a with
  | zero => rfl
  | succ n ih =>
    rw [Memory.readN, Memory.readN, h a le_rfl (by omega), ih (fun x hl hr => h x (by omega) (by omega))]

/-- A memory whose bytes outside a unit are those of another reads any other unit as that does. -/
theorem readN_unit_congr {m k : Memory} {u v : Nat} (hv : v ≠ u) (h : ∀ x, x / 4096 ≠ u → m.read x = k.read x) :
    m.readN (v * 4096) 4096 = k.readN (v * 4096) 4096 :=
  readN_congr (fun x hl hr => h x (by omega))

/-! ## What enciphers a unit (R336) -/

/-- t has the keys and the composition of s. -/
structure SameKeys (s t : State) : Prop where
  hw : t.hw = s.hw
  boot : t.boot = s.boot

theorem SameKeys.refl (s : State) : SameKeys s s := ⟨rfl, rfl⟩

theorem SameKeys.trans {s t u : State} (h : SameKeys s t) (k : SameKeys t u) : SameKeys s u := ⟨k.hw.trans h.hw, k.boot.trans h.boot⟩

theorem SameKeys.poolOf {s t : State} (h : SameKeys s t) (off : Nat) : poolOf t off = poolOf s off := by
  unfold Machine.poolOf extentPool localParty partyRec State.node
  rw [h.hw]

theorem SameKeys.keyAt {s t : State} (h : SameKeys s t) (off : Nat) : keyAt t off = keyAt s off := by
  simp only [Machine.keyAt, h.poolOf, h.boot]

theorem SameKeys.cipherUnit {s t : State} (h : SameKeys s t) (m : Memory) (u : Nat) : cipherUnit t m u = cipherUnit s m u := by
  simp only [Machine.cipherUnit, h.keyAt]

/-- A unit deciphers to what its own bytes in flash or the reserve say. -/
theorem SameKeys.plainUnit {s t : State} (h : SameKeys s t) {m k : Memory} {u : Nat} (hm : k.readN (u * 4096) 4096 = m.readN (u * 4096) 4096) :
    plainUnit t k u = plainUnit s m u := by
  simp only [Machine.plainUnit, h.keyAt, hm]

/-- A unit enciphers to what its own bytes say. -/
theorem cipherUnit_congr (s : State) {m k : Memory} {u : Nat} (hm : k.readN (u * 4096) 4096 = m.readN (u * 4096) 4096) :
    cipherUnit s k u = cipherUnit s m u := by
  simp only [Machine.cipherUnit, hm]

/-! ## A unit written -/

/-- A whole unit written is read back, and nothing else changes. -/
theorem read_writeN_unit {m : Memory} (h : m.wf = true) {bs : Bytes} (hl : bs.length = 4096) (u a : Nat) :
    (m.writeN (u * 4096) bs).read a = if a / 4096 = u then nth 0#8 bs (a % 4096) else m.read a := by
  rw [Memory.read_writeN h, hl]
  by_cases ha : a / 4096 = u
  · rw [if_pos ha, if_pos (by omega), show a - u * 4096 = a % 4096 by omega]
  · rw [if_neg ha, if_neg (by omega)]

theorem read_zero_unit (m : Memory) (u a : Nat) :
    (m.zero (u * 4096) (u * 4096 + 4096)).read a = if a / 4096 = u then 0#8 else m.read a := by
  rw [Memory.zero, Memory.read_without]
  by_cases ha : a / 4096 = u
  · rw [if_pos ha, if_pos (by omega)]
  · rw [if_neg ha, if_neg (by omega)]

theorem putUnit_nv (u : Nat) (bs : Bytes) (s : State) : (putUnit u bs s).nv = s.nv := rfl

theorem putUnit_mem (u : Nat) (bs : Bytes) (s : State) : (putUnit u bs s).store.mem = s.store.mem.writeN (u * 4096) bs := rfl

theorem putUnit_sameKeys (u : Nat) (bs : Bytes) (s : State) : SameKeys s (putUnit u bs s) := ⟨rfl, rfl⟩

theorem writeBackUnit_sameKeys (u : Nat) (s : State) : SameKeys s (writeBackUnit u s) :=
  ⟨writeBackUnit_keeps (g := .hw) rfl u s (.refl _ s), writeBackUnit_keeps (g := .boot) rfl u s (.refl _ s)⟩

end Sys2Proof.FlashUnits
end

section
/-!
What backed space holds after a boot (R90, R338, R365, R366): the fold of the flash scan over the units of flash, and that of the restore over the
units of the manifest, each said byte by byte.
-/
namespace Sys2Proof.BootMemory

open Sys2Proof Sys2Proof.Machine Sys2Proof.Safety Sys2Proof.KeysAndRelease Sys2Proof.FlashUnits Sys2Proof.KeeperCommands

/-! ## DRAM_TRAINING (R365) -/

/-- The channels trained, before step 8 is logged. -/
def trained (s : State) : State :=
  { s with boot := { s.boot with memAwait := 9 }
           nv := { s.nv with trained := s.nv.trained || !s.boot.warm }
           store := { s.store with retired := insertAll (s.nv.retiredRows.flatMap (·.2)) s.store.retired } }

theorem memStep_of {s : State} {n : Nat} (hp : s.boot.phase = .released) (hm : s.boot.memAwait = n) : memStep s n = true := by
  simp [memStep, hp, hm]

theorem dramTraining_trains {s : State} (h : memStep s 8 = true) (good : Bool) : dramTraining none good s = bootStep 8 (trained s) := by
  simp only [dramTraining, h, ite_self, Bool.not_true, Bool.false_eq_true, if_false]
  rfl

theorem dramTraining_fails {s : State} (h : memStep s 8 = true) (hw : s.boot.warm = false) (r : Fin 8) (c : Fin 64) (good : Bool) :
    dramTraining (some (r, c)) good s = bootFailed 8 3 { s with boot := { s.boot with badChannel := some (r.val, c.val) } } := by
  simp only [dramTraining, h, hw, Bool.false_and, Bool.not_true, Bool.false_eq_true, if_false]

theorem bootStep_boot (n : Nat) (s : State) : (bootStep n s).boot = { s.boot with step := n } := by simp [bootStep]

theorem bootStep_stepDone {s t : State} (hup : s.keeper.up = true) (h : t.keeper = s.keeper) (n : Nat) : StepDone n s (bootStep n t) :=
  ⟨by rw [bootStep_boot], _, by rw [bootStep_buf (by rw [h]; exact hup), h], rfl, rfl, rfl⟩

/-- A boot that fails after die release (R370). -/
theorem bootFailed_spec (n cause : Nat) (s : State) : let t := bootFailed n cause s
    t.boot = { s.boot with phase := .failedReleased, memAwait := 0, cause := cause } ∧ t.pins.serdes = false ∧ t.store = s.store
      ∧ alertBootFailed ∈ t.keeper.alert := by
  refine ⟨?_, rfl, ?_, ?_⟩
  · simp [bootFailed, bootFail]
  · exact store_eq (bootFailed_keeps (g := .store) rfl n cause s (.refl _ s)) (bootFailed_keeps (g := .bytes) rfl n cause s (.refl _ s))
  · exact (mem_insertNat _ _ _).2 (.inl rfl)

/-! ## FLASH_SCAN (R338, R366) -/

/-- The units of flash that are put into backed space. -/
def currentUnits (s : State) : List Nat := (s.nv.flashSerial.map (·.1)).filter (unitCurrent s)

theorem mem_currentUnits {s : State} {u : Nat} : u ∈ currentUnits s ↔ unitCurrent s u = true := by
  refine ⟨fun h => (List.mem_filter.1 h).2, fun h => List.mem_filter.2 ⟨?_, h⟩⟩
  cases hf : Tbl.find s.nv.flashSerial u with
  | none => simp [unitCurrent, hf] at h
  | some k => exact List.mem_map_of_mem (mem_of_find hf)

/-- A unit of flash put into backed space, deciphered. -/
def putFlashUnit (s : State) (u : Nat) : State := putUnit u (plainUnit s s.nv.flash u) s

theorem putFlashUnit_mem (s : State) (u : Nat) :
    (putFlashUnit s u).store.mem = s.store.mem.writeN (u * 4096) (plainUnit s s.nv.flash u) := putUnit_mem u _ s

theorem putFlashUnit_nv (s : State) (u : Nat) : (putFlashUnit s u).nv = s.nv := putUnit_nv u (plainUnit s s.nv.flash u) s

/-- The units put in one after the other read as flash has them, and every other byte as before. -/
theorem putFlashUnits_read (us : List Nat) (s : State) (h : s.store.mem.wf = true) (a : Nat) :
    (us.foldl putFlashUnit s).store.mem.read a =
      if a / 4096 ∈ us then nth 0#8 (plainUnit s s.nv.flash (a / 4096)) (a % 4096) else s.store.mem.read a := by
  induction us generalizing s with
  | nil => simp
  | cons u us ih =>
    have hsame : ∀ v, plainUnit (putFlashUnit s u) (putFlashUnit s u).nv.flash v = plainUnit s s.nv.flash v :=
      fun v => (putUnit_sameKeys u _ s).plainUnit (by rw [putFlashUnit_nv])
    have hwf : (putFlashUnit s u).store.mem.wf = true := by
      rw [putFlashUnit_mem]
      exact Memory.writeN_wf h _ _
    rw [List.foldl_cons, ih _ hwf, hsame, putFlashUnit_mem, read_writeN_unit h (plainUnit_length ..)]
    by_cases hu : a / 4096 = u
    · simp [hu]
    · simp [hu]

theorem flashView_read (s : State) (a : Nat) : (flashView s).store.mem.read a =
    if unitCurrent s (a / 4096) then nth 0#8 (plainUnit s s.nv.flash (a / 4096)) (a % 4096) else 0#8 := by
  obtain ⟨u, hu⟩ : ∃ u, u = { s with store := { s.store with
      mem := [], poison := s.nv.flashPoison.filter (fun l => unitCurrent s (l / 64)), tier := [] } } := ⟨_, rfl⟩
  have he : flashView s = (currentUnits s).foldl putFlashUnit u := by rw [hu]; rfl
  have hk : SameKeys s u := hu ▸ ⟨rfl, rfl⟩
  have hm : u.store.mem = [] := by rw [hu]
  have hf : u.nv.flash = s.nv.flash := by rw [hu]
  rw [he, putFlashUnits_read _ _ (by rw [hm]; rfl), hm, hk.plainUnit (by rw [hf])]
  simp only [mem_currentUnits]
  rfl

/-- The dies rebuilt, logged (R366). -/
def rebuildsLogged (rebuilt : List (Fin 32 × Nat × Nat)) (s : State) : State :=
  rebuilt.foldl (fun s r => logEv 0x0505 sevWarning 15 0 (r.1.val + at' r.2.1 8) r.2.2 s) s

theorem rebuildsLogged_keeps {g : Part} (hg : Free 65536 g) (rebuilt : List (Fin 32 × Nat × Nat)) (s : State) :
    Keeps g s (rebuildsLogged rebuilt s) :=
  keeps_foldl (P := Keeps g s) (fun t _ h => logEv_keeps hg _ _ _ _ _ _ t h) rebuilt s (.refl g s)

/-- The scan up to the log entry of its step. -/
def scanned (rebuilt : List (Fin 32 × Nat × Nat)) (s : State) : State :=
  bootStep 9 (pruneDurMap (reloadMirrors (flashView (rebuildsLogged rebuilt s))))

theorem flashScan_good {s : State} (h : memStep s 9 = true) (rebuilt : List (Fin 32 × Nat × Nat)) : flashScan true rebuilt s =
    let t := scanned rebuilt s
    if t.nv.reserve.present && !t.nv.reserve.committed then askRestore { t with boot := { t.boot with memAwait := 10 } }
    else goReady { t with boot := { t.boot with erasing := t.nv.reserve.present } } := by
  simp only [flashScan, h, Bool.not_true, Bool.false_eq_true, if_false]
  rfl

theorem flashScan_bad {s : State} (h : memStep s 9 = true) (rebuilt : List (Fin 32 × Nat × Nat)) :
    flashScan false rebuilt s = bootFailed 9 4 s := by
  simp only [flashScan, h, Bool.not_true, Bool.not_false, Bool.false_eq_true, if_false, if_true]

theorem unitCurrent_congr {s t : State} (h : SameKeys s t) (hf : t.nv.flashSerial = s.nv.flashSerial) (u : Nat) :
    unitCurrent t u = unitCurrent s u := by
  unfold unitCurrent
  rw [h.poolOf, h.boot, hf]

theorem scanned_read (rebuilt : List (Fin 32 × Nat × Nat)) (s : State) (a : Nat) : (scanned rebuilt s).store.mem.read a =
    if unitCurrent s (a / 4096) then nth 0#8 (plainUnit s s.nv.flash (a / 4096)) (a % 4096) else 0#8 := by
  obtain ⟨u, hu⟩ : ∃ u, u = rebuildsLogged rebuilt s := ⟨_, rfl⟩
  have hk : SameKeys s u := hu ▸ ⟨rebuildsLogged_keeps (g := .hw) rfl rebuilt s, rebuildsLogged_keeps (g := .boot) rfl rebuilt s⟩
  have hn : Keeps .nvStore s u := hu ▸ rebuildsLogged_keeps (g := .nvStore) rfl rebuilt s
  have hflash : u.nv.flash = s.nv.flash := (congrArg NvSt.flash (show storePart u.nv = storePart s.nv from hn) :)
  have hmem : (scanned rebuilt s).store.mem = (flashView u).store.mem := by
    rw [scanned, bootStep_store, ← hu]
    exact pruneDurMap_keeps (g := .bytes) rfl _ (reloadMirrors_keeps (g := .bytes) rfl _ (.refl .bytes _))
  rw [hmem, flashView_read, unitCurrent_congr hk (keep_nv_flashSerial hn), hk.plainUnit (by rw [hflash])]

theorem scanned_reserve (rebuilt : List (Fin 32 × Nat × Nat)) (s : State) : (scanned rebuilt s).nv.reserve = s.nv.reserve := by
  have hp : ∀ t : State, (pruneDurMap t).nv.reserve = t.nv.reserve := fun _ => rfl
  rw [scanned, bootStep_nv, hp]
  exact keep_nv_reserve (reloadMirrors_keeps (g := .nvStore) rfl _ (flashView_keeps (g := .nvStore) rfl _
    (rebuildsLogged_keeps (g := .nvStore) rfl rebuilt s)))

theorem scanned_boot (rebuilt : List (Fin 32 × Nat × Nat)) (s : State) : (scanned rebuilt s).boot = { s.boot with step := 9 } := by
  have hb : (pruneDurMap (reloadMirrors (flashView (rebuildsLogged rebuilt s)))).boot = s.boot :=
    pruneDurMap_keeps (g := .boot) rfl _ (reloadMirrors_keeps (g := .boot) rfl _ (flashView_keeps (g := .boot) rfl _
      (rebuildsLogged_keeps (g := .boot) rfl rebuilt s)))
  rw [scanned, bootStep_boot, hb]

/-! ## READY (R368) -/

/-- Keys destroyed change nothing of the boot state but the key slots. -/
theorem destroyRemoved_boot (s : State) : ∃ keys bits, (destroyRemoved s).boot = { s.boot with keys := keys, keyBits := bits } := by
  have hone : ∀ (t : State) (p : Nat), (∃ keys bits, t.boot = { s.boot with keys := keys, keyBits := bits }) →
      ∃ keys bits, (destroyKey t p).boot = { s.boot with keys := keys, keyBits := bits } := by
    rintro t p ⟨keys, bits, h⟩
    unfold destroyKey
    split
    · exact ⟨_, _, by rw [logEv_boot, h]⟩
    · exact ⟨keys, bits, h⟩
  simp only [destroyRemoved]
  split
  · exact ⟨_, _, rfl⟩
  · exact keeps_foldl (P := fun t : State => ∃ keys bits, t.boot = { s.boot with keys := keys, keyBits := bits }) hone _ s ⟨_, _, rfl⟩

/-- The node READY, before step 12 is logged. -/
def readied (s : State) : State :=
  { s with boot := { s.boot with ready := true, memAwait := 0 }, keeper := { s.keeper with windows := true, calm := 0 }
           hosts := Tbl.mapVal (fun (h : HostSt) => { h with memActive := h.trained && h.cxl }) s.hosts }

theorem goReady_eq (s : State) : goReady s = braceAtReady (bootStep 12 (readied (destroyRemoved s))) := rfl

theorem goReady_boot (s : State) : (goReady s).boot.ready = true ∧ (goReady s).boot.erasing = s.boot.erasing
    ∧ (goReady s).boot.restored = s.boot.restored := by
  obtain ⟨keys, bits, h⟩ := destroyRemoved_boot s
  have hb : (goReady s).boot = { s.boot with keys := keys, keyBits := bits, ready := true, memAwait := 0, step := 12 } := by
    have hbrace : ∀ t, (braceAtReady t).boot = t.boot := fun t => braceAtReady_keeps (g := .boot) rfl t (.refl .boot t)
    rw [goReady_eq, hbrace, bootStep_boot, readied, h]
  rw [hb]
  exact ⟨rfl, rfl, rfl⟩

theorem goReady_mem (s : State) : (goReady s).store.mem = s.store.mem := goReady_keeps (g := .bytes) rfl s (.refl .bytes s)

theorem goReady_reserve (s : State) : (goReady s).nv.reserve = s.nv.reserve := keep_nv_reserve (goReady_keeps (g := .nvStore) rfl s (.refl _ s))

/-! ## SPATE_RESTORE (R88, R90) -/

/-- What a unit of the reserve restores: deciphered where it was flushed under the partition's present key, else zeros. -/
def restoredUnit (s : State) (u : Nat) : Bytes :=
  if Tbl.find s.nv.reserve.serials u == Tbl.find s.boot.keys (poolOf s (u * 4096)) then plainUnit s s.nv.reserve.data u else []

/-- A unit's bytes and poison as they are before its bytes are put in. -/
def unitCleared (s : State) (u : Nat) : State :=
  { s with store := { s.store with
      mem := s.store.mem.zero (u * 4096) (u * 4096 + 4096)
      poison := insertAll (s.nv.reserve.dataPoison.filter (fun l => l / 64 == u)) (s.store.poison.filter (fun l => l / 64 != u)) } }

theorem restoreUnit_eq (s : State) (u : Nat) :
    restoreUnit s u = writeBackUnit u (putUnit u (restoredUnit s u) (unitCleared s u)) := by
  unfold restoreUnit restoredUnit unitCleared
  rfl

/-- A unit programmed leaves backed space as it is, and the reserve without the unit. -/
theorem writeBackUnit_spec (u : Nat) (s : State) : (writeBackUnit u s).store = s.store
    ∧ (writeBackUnit u s).nv.reserve.data = s.nv.reserve.data.without (u * 4096) (u * 4096 + 4096)
    ∧ (writeBackUnit u s).nv.reserve.serials = Tbl.del s.nv.reserve.serials u := by
  obtain ⟨bs, hbs⟩ : ∃ bs, bs = cipherUnit s s.store.mem u := ⟨_, rfl⟩
  rw [writeBackUnit, ← hbs]
  exact ⟨rfl, rfl, rfl⟩

theorem restoreUnit_sameKeys (s : State) (u : Nat) : SameKeys s (restoreUnit s u) :=
  ⟨restoreUnit_keeps (g := .hw) rfl s u (.refl _ s), restoreUnit_keeps (g := .boot) rfl s u (.refl _ s)⟩

theorem restoreUnit_mem (s : State) (u : Nat) :
    (restoreUnit s u).store.mem = (s.store.mem.zero (u * 4096) (u * 4096 + 4096)).writeN (u * 4096) (restoredUnit s u) := by
  rw [restoreUnit_eq, (writeBackUnit_spec _ _).1, putUnit_mem, unitCleared]

theorem restoreUnit_wf {s : State} (h : s.store.mem.wf = true) (u : Nat) : (restoreUnit s u).store.mem.wf = true := by
  rw [restoreUnit_mem]
  exact Memory.writeN_wf (Memory.without_wf h _ _) _ _

/-- A restored unit reads as the reserve has it, zero where that restores nothing, and every other byte as before. -/
theorem restoreUnit_read {s : State} (h : s.store.mem.wf = true) (u a : Nat) :
    (restoreUnit s u).store.mem.read a = if a / 4096 = u then nth 0#8 (restoredUnit s u) (a % 4096) else s.store.mem.read a := by
  have hz : ((s.store.mem.zero (u * 4096) (u * 4096 + 4096)).wf) = true := Memory.without_wf h _ _
  rw [restoreUnit_mem]
  by_cases hs : Tbl.find s.nv.reserve.serials u == Tbl.find s.boot.keys (poolOf s (u * 4096))
  · rw [restoredUnit, if_pos hs, read_writeN_unit hz (plainUnit_length ..), read_zero_unit]
    split <;> rfl
  · rw [restoredUnit, if_neg hs, Memory.writeN, read_zero_unit]
    simp [nth]

/-- What other units restore is as it was. -/
theorem restoredUnit_restoreUnit (s : State) {u v : Nat} (hv : v ≠ u) : restoredUnit (restoreUnit s u) v = restoredUnit s v := by
  have hk := restoreUnit_sameKeys s u
  obtain ⟨-, hdata, hserials⟩ := writeBackUnit_spec u (putUnit u (restoredUnit s u) (unitCleared s u))
  have hr : (putUnit u (restoredUnit s u) (unitCleared s u)).nv.reserve = s.nv.reserve := by rw [putUnit_nv, unitCleared]
  rw [← restoreUnit_eq, hr] at hdata hserials
  have hread : (restoreUnit s u).nv.reserve.data.readN (v * 4096) 4096 = s.nv.reserve.data.readN (v * 4096) 4096 := by
    rw [hdata]
    exact readN_unit_congr hv (fun x hx => by rw [Memory.read_without, if_neg (by omega)])
  unfold restoredUnit
  rw [hserials, find_del, if_neg hv, hk.boot, hk.poolOf, hk.plainUnit hread]

/-- The units of a manifest that lists each once, restored one after the other. -/
theorem restoreUnits_read {us : List Nat} (hn : us.Nodup) {s : State} (h : s.store.mem.wf = true) (a : Nat) :
    (us.foldl restoreUnit s).store.mem.read a =
      if a / 4096 ∈ us then nth 0#8 (restoredUnit s (a / 4096)) (a % 4096) else s.store.mem.read a := by
  induction us generalizing s with
  | nil => simp
  | cons u us ih =>
    obtain ⟨hu, hn⟩ := List.nodup_cons.1 hn
    rw [List.foldl_cons, ih hn (restoreUnit_wf h u), restoreUnit_read h]
    by_cases hm : a / 4096 ∈ us
    · rw [if_pos hm, if_pos (List.mem_cons_of_mem u hm), restoredUnit_restoreUnit s (by rintro rfl; exact hu hm)]
    · by_cases he : a / 4096 = u
      · rw [if_neg hm, if_pos he, if_pos (by simp [he]), he]
      · rw [if_neg hm, if_neg he, if_neg (by simp [hm, he])]

/-- The manifest's units restored, its poison list applied, and the erase begun. -/
def restoreCommitted (s : State) : State :=
  let r := s.nv.reserve
  let s := poisonLines r.poisonList (r.manifest.foldl restoreUnit (dropRestores s))
  { s with nv := { s.nv with reserve := { present := true, committed := true }, flashPoison := insertAll r.poisonList s.nv.flashPoison }
           boot := { s.boot with restored := true, erasing := true, restorePoison := 0 } }

/-- A complete manifest of which every unit was programmed and none is bad: nothing is lost. -/
theorem spateRestore_whole {s : State} (h : memStep s 10 = true) (hc : s.nv.reserve.complete = true)
    (hall : ∀ u ∈ s.nv.reserve.manifest, u ∈ s.nv.reserve.units ∧ isOn s (.restore u) = true) :
    spateRestore [] true s = goReady (bootStep 10 (restoreCommitted s)) := by
  have hheld : heldUnits s.nv.reserve = s.nv.reserve.manifest := by
    rw [heldUnits, if_pos hc]
    exact List.filter_eq_self.2 (fun u hu => by simpa using (hall u hu).1)
  have hlost : lostUnits s.nv.reserve [] true (dropRestores s) = ([], 0) := by
    have hnone : s.nv.reserve.manifest.filter (fun u => !s.nv.reserve.units.contains u || ([] : List Nat).contains u) = [] :=
      List.filter_eq_nil_iff.2 (fun u hu => by simpa using (hall u hu).1)
    rw [lostUnits, if_pos hc, hnone]
  have hon : (heldUnits s.nv.reserve).all (fun u => isOn s (.restore u)) = true := by
    rw [hheld]
    exact List.all_eq_true.2 (fun u hu => (hall u hu).2)
  have hgood : (heldUnits s.nv.reserve).filter (fun u => !([] : List Nat).contains u) = s.nv.reserve.manifest := by simp [hheld]
  have hg : (!memStep s 10 || !(heldUnits s.nv.reserve).all (fun u => isOn s (.restore u))) = false := by rw [h, hon]; rfl
  simp only [spateRestore, hg, hlost, hgood, Bool.false_eq_true, if_false, List.foldl_nil, List.isEmpty_nil, List.length_nil, beq_self_eq_true,
    Bool.and_self, if_true, show ¬ (1 ≤ 0) from Nat.not_succ_le_zero 0, restoreCommitted]

theorem dropRestores_mem (s : State) : (dropRestores s).store = s.store :=
  store_eq (dropRestores_keeps (g := .store) rfl s (.refl _ s)) (dropRestores_keeps (g := .bytes) rfl s (.refl _ s))

theorem restoredUnit_dropRestores (s : State) (u : Nat) : restoredUnit (dropRestores s) u = restoredUnit s u := by
  have hk : SameKeys s (dropRestores s) :=
    ⟨dropRestores_keeps (g := .hw) rfl s (.refl _ s), dropRestores_keeps (g := .boot) rfl s (.refl _ s)⟩
  have hr : (dropRestores s).nv.reserve = s.nv.reserve := keep_nv_reserve (dropRestores_keeps (g := .nvStore) rfl s (.refl _ s))
  unfold restoredUnit
  rw [hr, hk.boot, hk.poolOf, hk.plainUnit rfl]

theorem restoreCommitted_read {s : State} (hn : s.nv.reserve.manifest.Nodup) (h : s.store.mem.wf = true) (a : Nat) :
    (restoreCommitted s).store.mem.read a = if a / 4096 ∈ s.nv.reserve.manifest then nth 0#8 (restoredUnit s (a / 4096)) (a % 4096)
      else s.store.mem.read a := by
  have hmem : (restoreCommitted s).store.mem = (s.nv.reserve.manifest.foldl restoreUnit (dropRestores s)).store.mem :=
    poisonLines_keeps (g := .bytes) rfl _ _ (.refl .bytes _)
  rw [hmem, restoreUnits_read hn (by rw [dropRestores_mem]; exact h), restoredUnit_dropRestores, dropRestores_mem]

/-! ## The statement -/

/-- Settles O11: each step of the memory chain by the fold over units that it makes, READY and the reserve by what the steps after that fold
leave alone. -/
theorem memoryAfterABoot : Obligations.MemoryAfterABoot := by
  unfold Obligations.MemoryAfterABoot
  refine ⟨fun s good hp hm hup => ⟨?_, fun r c hw => ?_⟩, fun s rebuilt hp hm => ⟨?_, ?_⟩, fun s hp hm hc hn hall hw _ => ?_, fun s he => ?_⟩
  · refine ⟨_, congrArg Host.Outcome.next (dramTraining_trains (memStep_of hp hm) good), ?_, bootStep_stepDone (t := trained s) hup rfl 8, ?_⟩
    · rw [bootStep_boot]; rfl
    · rw [bootStep_pins]; rfl
  · obtain ⟨hboot, hserdes, -, halert⟩ := bootFailed_spec 8 3 { s with boot := { s.boot with badChannel := some (r.val, c.val) } }
    refine ⟨_, congrArg Host.Outcome.next (dramTraining_fails (memStep_of hp hm) hw r c good), ?_, ?_, ?_, hserdes, halert⟩ <;> rw [hboot]
  · obtain ⟨hboot, -, hstore, -⟩ := bootFailed_spec 9 4 s
    refine ⟨_, congrArg Host.Outcome.next (flashScan_bad (memStep_of hp hm) rebuilt), ?_, ?_, hstore⟩ <;> rw [hboot]
  · refine ⟨_, congrArg Host.Outcome.next (flashScan_good (memStep_of hp hm) rebuilt), fun a => ?_, fun hr => ?_, fun hr hcom => ?_⟩
    · rw [← scanned_read rebuilt s a]
      simp only
      split
      · rw [show (askRestore _).store.mem = _ from askRestore_keeps (g := .bytes) rfl _ (.refl .bytes _)]
      · rw [goReady_mem]
    · simp only [scanned_reserve, hr, Bool.false_and, Bool.false_eq_true, if_false]
      obtain ⟨hready, herasing, -⟩ := goReady_boot { scanned rebuilt s with boot := { (scanned rebuilt s).boot with erasing := false } }
      exact ⟨hready, herasing⟩
    · simp only [scanned_reserve, hr, hcom, Bool.not_false, Bool.and_true, if_true]
      rw [show (askRestore _).boot = _ from askRestore_keeps (g := .boot) rfl _ (.refl .boot _), scanned_boot]
      exact ⟨rfl, rfl⟩
  · obtain ⟨hready, herasing, hrestored⟩ := goReady_boot (bootStep 10 (restoreCommitted s))
    rw [bootStep_boot] at herasing hrestored
    refine ⟨_, congrArg Host.Outcome.next (spateRestore_whole (memStep_of hp hm) hc hall), fun a => ?_, ?_, hready, herasing, hrestored⟩
    · rw [goReady_mem, bootStep_store, restoreCommitted_read hn hw]
      simp only [restoredUnit, beq_iff_eq]
      split
      · split
        · rfl
        · simp [nth]
      · rfl
    · rw [goReady_reserve, bootStep_nv]; rfl
  · exact ⟨_, congrArg Host.Outcome.next (if_pos he), rfl, rfl, rfl⟩

end Sys2Proof.BootMemory
end

section
/-!
Requests that a home performs at once: the command of a request in the pipeline, and the answer to a request that a port, host, mill, rill or
sequencer sent whole (R112, R156, R374).
-/
namespace Sys2Proof.PipeSteps

open Sys2Proof Sys2Proof.Machine Sys2Proof.Safety Sys2Proof.WeirSlots

/-- A request that waits in the pipeline and may be performed is performed, and what landed for the node's own work is taken. -/
theorem performCmd_performs {s : State} {r : Req} {ops : List Op} (hin : r ∈ s.weir.pipe) (hop : ops.contains r.op = true)
    (hmay : mayPerform s r = true) (ecc : Ecc) : performCmd ops r ecc s = pump (perform r ecc (unpipe r s)) := by
  have hc : s.weir.pipe.contains r = true := List.contains_iff_mem.2 hin
  rw [performCmd, hc, hop, hmay]
  rfl

/-- A whole request completed OK is answered at its source. -/
theorem complete_answers {r : Req} (hsrc : fromAgent r.src = true) (hjoin : r.join = none) (hresp : hasResponse r.op = true) (data : Bytes)
    (s : State) : AnsweredOk r data (complete r .ok data s) := by
  have he : complete r .ok data s = finish r .ok data s := by simp only [complete, hjoin]
  rw [he]
  have hnot : ¬ (r.op = .evict ∨ r.op = .markDirty) := by rintro (h | h) <;> rw [h] at hresp <;> cases hresp
  cases hr : r.src with
  | port p l =>
    simp only [AnsweredOk, finish, hr, hresp]
    exact ⟨_, List.mem_append_right _ (List.mem_singleton_self _), rfl, rfl, rfl, rfl, rfl⟩
  | host p =>
    simp only [AnsweredOk, finish, hr, hostOutcome]
    by_cases hw : r.op = .store ∨ r.op = .wbDirty
    · simp only [hw, if_true, beq_self_eq_true, Bool.or_eq_true, beq_iff_eq]
      exact List.mem_append_right _ (List.mem_singleton_self _)
    · simp only [hw, hnot, if_false, if_true, beq_self_eq_true, Bool.or_eq_true, beq_iff_eq]
      exact List.mem_append_right _ (List.mem_singleton_self _)
  | mill m => 
    simp only [AnsweredOk, finish, hr]
    exact ⟨r.ecc, List.mem_append_right _ (List.mem_singleton.2 (by rw [← hr]; rfl))⟩
  | rill a b c =>
    simp only [AnsweredOk, finish, hr]
    exact ⟨r.ecc, List.mem_append_right _ (List.mem_singleton.2 (by rw [← hr]; rfl))⟩
  | course a b c =>
    simp only [AnsweredOk, finish, hr]
    exact ⟨r.ecc, List.mem_append_right _ (List.mem_singleton.2 (by rw [← hr]; rfl))⟩
  | _ => rw [hr] at hsrc; cases hsrc

/-- An answer at a port or a host takes no completion. -/
theorem hostOutcome_weir (p : Nat) (r : Req) (st : Status) (data : Bytes) (d : Nat) (s : State) : (hostOutcome p r st data d s).weir = s.weir :=
  weir_eq (hostOutcome_keeps (g := .weirCtl) rfl p r st data d s (.refl _ s)) (hostOutcome_keeps (g := .weirQ) rfl p r st data d s (.refl _ s))

/-- Work of a mill, a rill or a sequencer that lands is none that the node takes by itself. -/
theorem land_quiet {r : Req} (hself : ∀ (st : Status) (d : Bytes), selfWork { req := r, status := st, data := d } = false) (st : Status) (d : Bytes)
    {s : State} (hq : ∀ x ∈ s.weir.landed, selfWork x = false) : ∀ x ∈ (land r st d s).weir.landed, selfWork x = false :=
  fun x hx => (List.mem_append.1 hx).elim (hq x) (fun h => List.mem_singleton.1 h ▸ hself st d)

/-- The completion of a request of an agent is none that the node's own work takes. -/
theorem complete_quiet {r : Req} (hsrc : fromAgent r.src = true) (hjoin : r.join = none) (st : Status) (data : Bytes) {s : State}
    (hq : ∀ x ∈ s.weir.landed, selfWork x = false) : ∀ x ∈ (complete r st data s).weir.landed, selfWork x = false := by
  have he : complete r st data s = finish r st data s := by simp only [complete, hjoin]
  rw [he]
  cases hr : r.src with
  | port p l =>
    simp only [finish, hr]
    split
    · rwa [respondOn_weir]
    · exact hq
  | host p => simpa only [finish, hr, hostOutcome_weir] using hq
  | mill m =>
    simp only [finish, hr]
    exact land_quiet (fun _ _ => by simp only [selfWork, hr]) _ _ hq
  | rill a b c =>
    simp only [finish, hr]
    exact land_quiet (fun _ _ => by simp only [selfWork, hr]) _ _ hq
  | course a b c =>
    simp only [finish, hr]
    exact land_quiet (fun _ _ => by simp only [selfWork, hr]) _ _ hq
  | _ => rw [hr] at hsrc; cases hsrc

/-- The ECC result kept with a request is no part of its answer. -/
theorem AnsweredOk.of_ecc {r : Req} {ecc : Ecc} {data : Bytes} {t : State} (h : AnsweredOk { r with ecc } data t) : AnsweredOk r data t := by
  cases hr : r.src <;> simp only [AnsweredOk, hr] at h ⊢ <;> exact h

end Sys2Proof.PipeSteps
end

section
/-!
Pin messages and the pieces of Sluice windows (R72, R194 to R196): the requests that an inbound piece issues, and a staged block on its way.
-/
namespace Sys2Proof.SluicePieces

open Sys2Proof Sys2Proof.Machine Sys2Proof.Safety Sys2Proof.WeirSlots Sys2Proof.PipeSteps

/-! ## PIN_MSG (R72, R73) -/

/-- A pin reference below saturation counts one more on its page. -/
theorem addPin_below {s : State} {page : Nat} (h : (tierOf s page).pins < 254) (origin : Pair) (party : Nat) : addPin origin party page s =
    updTier page (fun e => { e with pins := e.pins + 1 })
      { s with store := { s.store with pinPages := s.store.pinPages ++ [(origin, page, 1)] } } := by
  have hn : ¬ 255 ≤ (tierOf s page).pins + 1 := by omega
  simp only [addPin, hn, if_false]

theorem tierOf_updTier_same (page : Nat) (f : TierEntry → TierEntry) (s : State) : tierOf (updTier page f s) page = f (tierOf s page) := by
  simp only [tierOf, updTier, Tbl.get_upd, if_true]

/-- A page that is PLAIN is brought nowhere. -/
theorem bringPlain_plain {s : State} {page : Nat} (h : (tierOf s page).state = .plain) : bringPlain page s = s := by
  simp only [bringPlain, bring, h, ite_self]

/-- One PLAIN page within its quota takes one reference more. -/
theorem pinPages_one {s : State} {page : Nat} (hplain : (tierOf s page).state = .plain) (hpins : (tierOf s page).pins < 254)
    (hquota : overQuota s page = false) (origin : Pair) (party : Nat) : let t := pinPages origin party page 1 false s
    tierOf t page = { tierOf s page with pins := (tierOf s page).pins + 1 } ∧ t.weir = s.weir := by
  have hadd := addPin_below hpins origin party
  have hsame : tierOf (addPin origin party page s) page = { tierOf s page with pins := (tierOf s page).pins + 1 } := by
    rw [hadd, tierOf_updTier_same]
    rfl
  have he : pinPages origin party page 1 false s = addPin origin party page s := by
    simp only [pinPages, rangeFrom, List.range_one, List.map_cons, List.map_nil, Nat.add_zero, addPins, hquota, Bool.false_eq_true, if_false]
    exact bringPlain_plain (by rw [hsame]; exact hplain)
  exact ⟨by rw [he, hsame], by rw [he, hadd]; rfl⟩

theorem perform_pinMsg {s : State} {r : Req} (hop : r.op = .pinMsg) (ecc : Ecc)
    (hcheck : spaceCheck s r.origin .pinMsg r.cls (addrOffset r.addr) r.len = none) : perform r ecc s = complete r .ok []
      (pinPages r.origin r.party (tierPage (addrOffset r.addr)) (field r.opf 0 40 + 1) (flag r.opf 55) s) := by
  simp only [perform, performPin, hop, beq_self_eq_true, if_true, hcheck]

/-! ## Requests of an inbound piece, issued at home (R27, R195) -/

/-- A request is another one but for its identity and its place. -/
def SameWork (r x : Req) : Prop := x.op = r.op ∧ x.addr = r.addr ∧ x.len = r.len ∧ x.data = r.data ∧ x.origin = r.origin

/-- One request more waits, in its home queue or at its source, and nothing else has changed that the next one's place depends on. -/
structure Issued (s t : State) (ok : Req → Prop) : Prop where
  placed : Placed s t ok
  hw : t.hw = s.hw
  combos : t.net.combos = s.net.combos
  landed : t.weir.landed = s.weir.landed
  sluice : t.sluice = s.sluice

theorem queueWith_split (q : QEntry) (l : List QEntry) : ∃ pre post, l = pre ++ post ∧ queueWith q [] l = pre ++ q :: post := by
  unfold queueWith
  extract_lets after
  exact ⟨_, _, (List.takeWhile_append_dropWhile (p := fun y => !after y) (l := l)).symm, by simp⟩

theorem numbered_same (r : Req) (s : State) : SameWork r (numbered r s).1 ∧ (numbered r s).2.weir.queue = s.weir.queue
    ∧ (numbered r s).2.weir.stalled = s.weir.stalled ∧ (numbered r s).2.hw = s.hw ∧ (numbered r s).2.net = s.net
    ∧ (numbered r s).2.sluice = s.sluice := by
  unfold numbered
  split
  · split <;> exact ⟨⟨rfl, rfl, rfl, rfl, rfl⟩, rfl, rfl, rfl, rfl, rfl⟩
  · exact ⟨⟨rfl, rfl, rfl, rfl, rfl⟩, rfl, rfl, rfl, rfl, rfl⟩

theorem enqueue_issued (r : Req) (s : State) : Issued s (enqueue r s) (SameWork r) := by
  obtain ⟨hsame, hqueue, hstalled, hhw, hnet, hsl⟩ := numbered_same { r with queueRace := some (raceFor s r) } s
  have hin : ∀ (q : QEntry) (l : List QEntry), l = s.weir.queue → SameWork r q.req → ∃ pre q' post, s.weir.queue = pre ++ post
      ∧ queueWith q [] l = pre ++ q' :: post ∧ SameWork r q'.req := fun q l hl hq =>
    let ⟨pre, post, hs, hw⟩ := queueWith_split q l
    ⟨pre, q, post, hl ▸ hs, hw, hq⟩
  exact ⟨.inl ⟨hstalled, hin _ _ hqueue hsame⟩, hhw, congrArg NetSt.combos hnet, enqueue_landed r s, hsl⟩

/-- With no combination open a request of this home finds its credit or waits for it. -/
theorem issue_home_issued {s : State} {r : Req} (hhome : isHome s r = true) (hc : s.net.combos = []) : Issued s (issue r s) (SameWork r) := by
  have hout : outbound s r = { r with gen := s.hw.compGen, queueRace := none } := if_pos hhome
  have he : issue r s = offer none { r with gen := s.hw.compGen, queueRace := none } s := by
    simp only [issue, target, hhome, if_true, hout]
  rw [he, offer]
  split
  · have hp : place none { r with gen := s.hw.compGen, queueRace := none } s = enqueue { r with gen := s.hw.compGen, queueRace := none } s := by
      simp only [place, hc, List.find?_nil]
    rw [hp]
    exact enqueue_issued _ s
  · exact ⟨.inr ⟨rfl, _, rfl, ⟨rfl, rfl, rfl, rfl, rfl⟩⟩, rfl, rfl, rfl, rfl⟩

/-- The requests of a list issued at home one after the other: each waits in its home queue or at its source, and what waited does. -/
structure AllIssued (s t : State) (oks : List (Req → Prop)) : Prop where
  each : ∀ ok ∈ oks, (∃ q ∈ t.weir.queue, ok q.req) ∨ ∃ x ∈ t.weir.stalled, x.1 = none ∧ ok x.2
  queue : ∀ q ∈ s.weir.queue, q ∈ t.weir.queue
  stalled : ∀ x ∈ s.weir.stalled, x ∈ t.weir.stalled
  count : t.weir.queue.length + t.weir.stalled.length = s.weir.queue.length + s.weir.stalled.length + oks.length
  landed : t.weir.landed = s.weir.landed
  sluice : t.sluice = s.sluice

theorem AllIssued.refl (s : State) : AllIssued s s [] := ⟨by simp, fun _ h => h, fun _ h => h, rfl, rfl, rfl⟩

/-- What one request issued leaves. -/
theorem Issued.all {s t : State} {ok : Req → Prop} (h : Issued s t ok) : AllIssued s t [ok] := by
  rcases h.placed with ⟨hst, pre, q, post, hs, ht, hq⟩ | ⟨hq, r, hst, hr⟩
  · refine ⟨?_, fun x hx => ?_, fun x hx => hst ▸ hx, ?_, h.landed, h.sluice⟩
    · exact fun ok hok => .inl ⟨q, by simp [ht], List.mem_singleton.1 hok ▸ hq⟩
    · rw [hs] at hx
      rw [ht]
      simp only [List.mem_append, List.mem_cons] at hx ⊢
      exact hx.imp_right .inr
    · simp only [hs, ht, hst, List.length_append, List.length_cons, List.length_nil]
      omega
  · refine ⟨?_, fun x hx => hq ▸ hx, fun x hx => by rw [hst]; exact List.mem_append_left _ hx, ?_, h.landed, h.sluice⟩
    · exact fun ok hok => .inr ⟨(none, r), by simp [hst], rfl, List.mem_singleton.1 hok ▸ hr⟩
    · simp only [hq, hst, List.length_append, List.length_cons, List.length_nil]
      omega

theorem AllIssued.trans {s t u : State} {oks oks' : List (Req → Prop)} (h : AllIssued s t oks) (k : AllIssued t u oks') :
    AllIssued s u (oks ++ oks') where
  each := fun ok hok => (List.mem_append.1 hok).elim
    (fun ho => (h.each ok ho).imp (fun ⟨q, hq, hr⟩ => ⟨q, k.queue q hq, hr⟩) (fun ⟨x, hx, hr⟩ => ⟨x, k.stalled x hx, hr⟩)) (k.each ok)
  queue := fun q hq => k.queue q (h.queue q hq)
  stalled := fun x hx => k.stalled x (h.stalled x hx)
  count := by rw [k.count, h.count, List.length_append]; omega
  landed := k.landed.trans h.landed
  sluice := k.sluice.trans h.sluice

/-- Requests of this home issued one after the other, with no combination open. -/
theorem issueAll_home {α : Type} (req : α → Req) (l : List α) (s : State) (hhome : ∀ g ∈ l, isHome s (req g) = true) (hc : s.net.combos = []) :
    AllIssued s (l.foldl (fun s g => issue (req g) s) s) (l.map (fun g => SameWork (req g))) := by
  induction l generalizing s with
  | nil => exact .refl s
  | cons g l ih =>
    have hg := issue_home_issued (hhome g List.mem_cons_self) hc
    have hsame : ∀ r, isHome (issue (req g) s) r = isHome s r := fun r => by simp only [isHome, portEntry, State.node, hg.hw]
    exact hg.all.trans (ih (issue (req g) s) (fun x hx => by rw [hsame]; exact hhome x (List.mem_cons_of_mem g hx)) (hg.combos.trans hc))

/-! ## An inbound piece (R195, R196) -/

/-- The piece of a request, at hand at its gateway. -/
def pieceOf (s : State) (r : Req) (w : SluiceWindow) : FarPiece :=
  { id := s.sluice.nextFar, window := w.window, seq := field r.opf 22 32, req := r }

/-- A piece begun, with requests of its own under way; it is the only one at hand. -/
def beganWith (s : State) (r : Req) (w : SluiceWindow) (left : Nat) : State :=
  { s with sluice := { s.sluice with far := [{ pieceOf s r w with begun := true, left }], nextFar := s.sluice.nextFar + 1 } }

/-- What the requests of a piece have in common. -/
def farBase (s : State) (w : SluiceWindow) : Req :=
  { party := w.localParty, origin := ⟨s.node, w.localParty⟩, src := .far w.window s.sluice.nextFar, cls := .any
    tclass := if w.localParty == 15 then .maintenance else .bulk }

/-- A piece that has begun begins nothing more. -/
theorem farPump_begun {s : State} (h : ∀ x ∈ s.sluice.far, x.begun = true) (n : Nat) : farPump n s = s := by
  have hn : s.sluice.far.find? (farReady s) = none := List.find?_eq_none.2 (fun x hx => by simp [farReady, h x hx])
  cases n <;> simp only [farPump, hn]

theorem serCmp_self (n a : Nat) : serCmp n a a = .same := by
  have hd : (a + 2 ^ n - a % 2 ^ n) % 2 ^ n = 0 := by
    have h := Nat.div_add_mod a (2 ^ n)
    have e : a + 2 ^ n - a % 2 ^ n = 2 ^ n * (a / 2 ^ n + 1) := by rw [Nat.mul_add]; omega
    rw [e, Nat.mul_mod_right]
  simp only [serCmp, hd, if_true]

/-- The STORE of one granule of an inbound piece (R195). -/
def farStore (s : State) (r : Req) (w : SluiceWindow) (g : Nat × Bytes) : Req :=
  let a := w.localBase + winOff (addrOffset r.addr) + 64 * g.1
  { farBase s w with op := .store, addr := a, va := a, len := 64, data := g.2 }

/-- The LOAD of an inbound piece (R196). -/
def farLoad (s : State) (r : Req) (w : SluiceWindow) : Req :=
  let a := w.localBase + winOff (addrOffset r.addr)
  { farBase s w with op := .load, addr := a, va := a, len := 4096 }

/-- The only piece at hand begins at once. -/
theorem takePiece_begins {s : State} {r : Req} {w : SluiceWindow} (hwin : findWindow s (winNum (addrOffset r.addr)) = some w)
    (hname : findWindow s w.window = some w) (hroom : winOff (addrOffset r.addr) + 4096 ≤ w.len) (hin : w.mirror = false)
    (hfar : s.sluice.far = []) : takePiece r s = farPump 1 (beginFar w (pieceOf s r w)
      { s with sluice := { s.sluice with far := [pieceOf s r w], nextFar := s.sluice.nextFar + 1 } }) := by
  have hready : ∀ t : State, t.sluice.far = [pieceOf s r w] → farReady t (pieceOf s r w) = true := by
    intro t ht
    simp [farReady, ht, pieceOf, serCmp_self]
  have hwin' : ∀ t : State, t.hw = s.hw → findWindow t w.window = some w := fun t ht => by rw [← hname]; simp only [findWindow, ht]
  have hp : ∀ t : State, t.hw = s.hw → t.sluice.far = [pieceOf s r w] → farPump 2 t = farPump 1 (beginFar w (pieceOf s r w) t) := by
    intro t ht hf
    rw [farPump, hf, List.find?_cons_of_pos (hready t hf)]
    simp only [hwin' t ht, show (pieceOf s r w).window = w.window from rfl]
  have hlen : ¬ w.len < winOff (addrOffset r.addr) + 4096 := by omega
  simp only [takePiece, hwin, hlen, hin, hfar, Bool.false_and, Bool.false_eq_true, if_false, List.nil_append, List.length_singleton]
  exact hp _ rfl rfl

theorem beginFar_get {s : State} {r : Req} {w : SluiceWindow} (hop : r.op = .sluiceGet) :
    beginFar w (pieceOf s r w) { s with sluice := { s.sluice with far := [pieceOf s r w], nextFar := s.sluice.nextFar + 1 } }
      = issue (farLoad s r w) (beganWith s r w 1) := by
  simp only [beginFar, pieceOf, hop, beq_self_eq_true, if_true, updFar, List.map_cons, List.map_nil]
  rfl

theorem beginFar_put {s : State} {r : Req} {w : SluiceWindow} (hop : r.op = .sluicePut) (hmark : flag r.opf 55 = false) (hin : w.mirror = false)
    (hg : marked r ≠ []) :
    beginFar w (pieceOf s r w) { s with sluice := { s.sluice with far := [pieceOf s r w], nextFar := s.sluice.nextFar + 1 } }
      = (marked r).foldl (fun t g => issue (farStore s r w g) t) (beganWith s r w (marked r).length) := by
  have hresync : ∀ t, (if flag r.opf 54 = true then noteResync w t else t) = t := fun t => by
    simp only [noteResync, windowSetting, hin, Bool.false_eq_true, if_false, ite_self]
  have hne : (marked r).isEmpty = false := by simpa [List.isEmpty_iff] using hg
  have hop' : (Op.sluicePut == Op.sluiceGet) = false := rfl
  unfold marked at hne ⊢
  unfold pieceOf
  simp only [beginFar, hop, hop', hmark, hresync, hne, Bool.false_eq_true, if_false, updFar, List.map_cons, List.map_nil,
    beq_self_eq_true, if_true]
  rfl

/-- Once its requests are issued, nothing else begins. -/
theorem farPump_issued {s t : State} {r : Req} {w : SluiceWindow} {n : Nat} {oks : List (Req → Prop)} (h : AllIssued (beganWith s r w n) t oks)
    (k : Nat) : farPump k t = t :=
  farPump_begun (fun x hx => by rw [h.sluice] at hx; rw [List.mem_singleton.1 hx]) k

theorem perform_piece {s : State} {r : Req} (hop : r.op = .sluicePut ∨ r.op = .sluiceGet) (hs : addrSpace r.addr = 1) (ecc : Ecc) :
    perform r ecc s = takePiece r s := by
  have hpin : (r.op == Op.pinMsg) = false := by rcases hop with h | h <;> rw [h] <;> rfl
  have hw : (r.op == Op.sluicePut || r.op == Op.sluiceGet) = true := by rcases hop with h | h <;> rw [h] <;> rfl
  simp only [perform, hpin, hs, performWindow, hw, Bool.false_eq_true, if_false, if_true]

theorem isHome_of_node {s : State} {r : Req} (hop : r.op ≠ .mcastStore) (hn : addrNode r.addr = s.node) : isHome s r = true := by
  simp [isHome, hop, hn]

/-! ## A staged block on its way (R194, R195) -/

/-- A request offered to a port, no open combination in its way, is sent or waits for the port's credit. -/
theorem offer_leaves {s : State} {r : Req} {ok : Req → Prop} (hu : Uncovered s r.addr r.len) (hok : ok r) (port : Nat) :
    Leaves s (offer (some port) r s) port ok := by
  have hn : s.net.combos.find? (comboCovers r) = none := List.find?_eq_none.2 (fun c hc => by
    have h : comboCovers r c = false := hu c hc
    simp [h])
  unfold offer
  split
  · simp only [place, hn]
    exact .inl ⟨_, _, rfl, rfl, hok, rfl, rfl, rfl⟩
  · exact .inr ⟨rfl, r, rfl, hok⟩

/-- The pieces of granules that all lie in one. -/
theorem pieces_single {p : Nat} (l : List Nat) (hne : l ≠ []) (h : ∀ x ∈ l, x = p) : l.foldl (fun l p => insertNat p l) [] = [p] := by
  have hrest : ∀ l : List Nat, (∀ x ∈ l, x = p) → l.foldl (fun l p => insertNat p l) [p] = [p] := by
    intro l h
    induction l with
    | nil => rfl
    | cons x l ih =>
      have hx : insertNat x [p] = [p] := by rw [h x List.mem_cons_self]; simp [insertNat]
      rw [List.foldl_cons, hx]
      exact ih (fun y hy => h y (List.mem_cons_of_mem x hy))
  cases l with
  | nil => exact absurd rfl hne
  | cons x l =>
    rw [List.foldl_cons, h x List.mem_cons_self]
    exact hrest l (fun y hy => h y (List.mem_cons_of_mem x hy))

/-- A staged block shipped under the next SEQ of its window. -/
def shippedNow (x : Stage) (p : Nat) (s : State) : State :=
  let seq := Tbl.get 0 s.sluice.seq x.window
  let sh : Shipped := { window := x.window, seq, block := x.block, pieces := [p], granules := x.granules, marks := x.marks, stores := x.stores }
  { s with sluice := { s.sluice with
    stages := s.sluice.stages.filter (fun y => !(y.window == x.window && y.block == x.block)), shipped := s.sluice.shipped ++ [sh]
    seq := Tbl.put s.sluice.seq x.window ((seq + 1) % 2 ^ 32) } }

/-- The only piece of a staged block, as its gateway sends it. -/
def stagePiece (w : SluiceWindow) (x : Stage) (p : Nat) (s : State) : Req :=
  { op := .sluicePut, addr := x.block * blockBytes' w + 4096 * p, data := putData (x.granules.map (fun g => (g.1 % 64, g.2))), tclass := .bulk
    src := .sluice x.window x.block, opf := putFields false false (Tbl.get 0 s.sluice.seq x.window) }

theorem sendStage_single {w : SluiceWindow} {x : Stage} {p : Nat} (hne : x.granules ≠ []) (hp : ∀ g ∈ x.granules, g.1 / 64 = p) (s : State) :
    sendStage w x s = sendPiece' w (stagePiece w x p s) (shippedNow x p s) := by
  have hpieces : (x.granules.map (fun g => g.1 / 64)).foldl (fun l p => insertNat p l) [] = [p] :=
    pieces_single _ (by simpa using hne) (fun y hy => by
      obtain ⟨g, hg, rfl⟩ := List.mem_map.1 hy
      exact hp g hg)
  have hall : x.granules.filter (fun g => g.1 / 64 == p) = x.granules := List.filter_eq_self.2 (fun g hg => by simpa using hp g hg)
  simp only [sendStage, hpieces, List.foldl_cons, List.foldl_nil, hall]
  rfl

/-- A piece as it goes to the far gateway of a window of the pool map. -/
def farPut (w : SluiceWindow) (r : Req) (s : State) : Req :=
  { r with addr := poolAddr w.farNode 1 (w.farWindow * 2 ^ 46 + r.addr), len := 4096, origin := ⟨s.node, 15⟩, party := 15
           cls := .any, tclass := portClass r.tclass, gen := s.hw.compGen }

theorem sendPiece_routed {w : SluiceWindow} {s : State} {r : Req} {port : Nat} (hsite : w.site = false) (hpool : w.farNode ∈ s.map.pool)
    (hmap : s.map.state ≠ .forming) (hroute : routePort s 15 (poolAddr w.farNode 1 (w.farWindow * 2 ^ 46 + r.addr)) = some port) :
    sendPiece' w r s = offer (some port) (farPut w r s) s := by
  have hf : (s.map.state == MapState.forming || !s.map.pool.contains w.farNode) = false := by simp [hmap, hpool]
  simp only [sendPiece', hsite, hf, hroute, Bool.and_false, Bool.false_eq_true, if_false]
  rfl

theorem offer_sluice (port : Option Nat) (r : Req) (s : State) : (offer port r s).sluice = s.sluice :=
  offer_keeps (g := .sluice) rfl port r s (.refl _ s)

theorem placed_of_imp {s t : State} {ok ok' : Req → Prop} (h : Placed s t ok) (hi : ∀ x, ok x → ok' x) : Placed s t ok' :=
  Or.imp (fun ⟨hs, pre, q, post, hq, ht, ho⟩ => ⟨hs, pre, q, post, hq, ht, hi _ ho⟩) (fun ⟨hq, r, hs, ho⟩ => ⟨hq, r, hs, hi _ ho⟩) h

/-- A staged block that is found carries the numbers it is sought by. -/
theorem stage_named {l : List Stage} {n block : Nat} {x : Stage} (h : l.find? (fun x => x.window == n && x.block == block) = some x) :
    x.window = n ∧ x.block = block := by
  simpa using List.find?_some h

/-- A block whose granules are whole and lie in one piece is shipped, and that piece leaves for the far gateway. -/
theorem sluiceFlushAge_ships {s : State} {n block p port : Nat} {x : Stage} {w : SluiceWindow}
    (hx : s.sluice.stages.find? (fun x => x.window == n && x.block == block) = some x) (hw : findWindow s n = some w) (hm : x.marks = [])
    (hne : x.granules ≠ []) (hp : ∀ g ∈ x.granules, g.1 / 64 = p) (hsite : w.site = false) (hpool : w.farNode ∈ s.map.pool)
    (hmap : s.map.state ≠ .forming)
    (hroute : routePort s 15 (poolAddr w.farNode 1 (w.farWindow * 2 ^ 46 + (block * blockBytes' w + 4096 * p))) = some port)
    (hu : Uncovered s (poolAddr w.farNode 1 (w.farWindow * 2 ^ 46 + (block * blockBytes' w + 4096 * p))) 4096) :
    sluiceFlushAge n block s = offer (some port) (farPut w (stagePiece w x p s) (shippedNow x p s)) (shippedNow x p s)
      ∧ Leaves s (sluiceFlushAge n block s) port (fun z => z.op = .sluicePut ∧ z.opf = putFields false false (Tbl.get 0 s.sluice.seq n)
        ∧ z.addr = poolAddr w.farNode 1 (w.farWindow * 2 ^ 46 + (block * blockBytes' w + 4096 * p))
        ∧ z.data = putData (x.granules.map (fun g => (g.1 % 64, g.2)))) := by
  obtain ⟨rfl, rfl⟩ := stage_named hx
  have hsend : sluiceFlushAge x.window x.block s = sendPiece' w (stagePiece w x p s) (shippedNow x p s) := by
    rw [← sendStage_single hne hp]
    simp only [sluiceFlushAge, hx, shipStage, hw, hm, List.isEmpty_nil, if_true]
  obtain ⟨a, ha⟩ : ∃ a, a = poolAddr w.farNode 1 (w.farWindow * 2 ^ 46 + (x.block * blockBytes' w + 4096 * p)) := ⟨_, rfl⟩
  have haddr : poolAddr w.farNode 1 (w.farWindow * 2 ^ 46 + (stagePiece w x p s).addr) = a := by rw [ha, stagePiece]
  rw [← ha] at hroute hu ⊢
  have he : sluiceFlushAge x.window x.block s = offer (some port) (farPut w (stagePiece w x p s) (shippedNow x p s)) (shippedNow x p s) := by
    rw [hsend, sendPiece_routed (s := shippedNow x p s) (port := port) hsite hpool hmap (by rw [haddr]; exact hroute)]
  have hfar : (farPut w (stagePiece w x p s) (shippedNow x p s)).addr = a := by rw [farPut, haddr]
  have hu' : Uncovered s (farPut w (stagePiece w x p s) (shippedNow x p s)).addr 4096 := by rw [hfar]; exact hu
  have hleaves : Leaves (shippedNow x p s) (offer (some port) (farPut w (stagePiece w x p s) (shippedNow x p s)) (shippedNow x p s)) port
      (fun z => z.op = .sluicePut ∧ z.opf = putFields false false (Tbl.get 0 s.sluice.seq x.window) ∧ z.addr = a
        ∧ z.data = putData (x.granules.map (fun g => (g.1 % 64, g.2)))) :=
    offer_leaves (s := shippedNow x p s) hu' ⟨rfl, rfl, hfar, rfl⟩ port
  exact ⟨he, by rw [he]; exact hleaves⟩

/-! ## The statement -/

/-- Settles O24: an inbound piece by the one step of the far pump that begins it, a staged block by the one piece it sends, a pin message by the
one page it counts. -/
theorem sluicePiecesAndPins : Obligations.SluicePiecesAndPins := by
  unfold Obligations.SluicePiecesAndPins
  refine ⟨fun s r w h => ⟨fun hop hmark hne hnode => ?_, fun hop hnode => ?_⟩,
      fun s n block p port x w hq hx hw hm hne hp hsite hpool hmap hroute hu => ?_,
    fun s r hin hq hsrc hjoin hop hcheck hpages hrem hmay hplain hpins hquota => ?_⟩
  · have hperf := performCmd_performs h.inPipe (ops := [.sluicePut]) (by simp [hop]) h.first.2 {}
    rw [perform_piece (.inl hop) h.space, takePiece_begins (s := unpipe r s) h.window h.name h.room h.inbound h.first.1,
      beginFar_put hop hmark h.inbound hne] at hperf
    have hall := issueAll_home (farStore (unpipe r s) r w) (marked r) (beganWith (unpipe r s) r w (marked r).length)
      (fun g hg => isHome_of_node (by simp [farStore]) (hnode g hg)) h.clear
    rw [farPump_issued hall, pump_quiet (by rw [hall.landed]; exact h.quiet.2)] at hperf
    refine ⟨_, congrArg Host.Outcome.next hperf, fun g hg => ?_, hall.queue, hall.stalled, ?_⟩
    · exact hall.each _ (List.mem_map_of_mem hg)
    · rw [hall.count, List.length_map]
      rfl
  · have hperf := performCmd_performs h.inPipe (ops := [.sluiceGet]) (by simp [hop]) h.first.2 {}
    rw [perform_piece (.inr hop) h.space, takePiece_begins (s := unpipe r s) h.window h.name h.room h.inbound h.first.1, beginFar_get hop] at hperf
    have hone := issue_home_issued (s := beganWith (unpipe r s) r w 1) (r := farLoad (unpipe r s) r w)
      (isHome_of_node (by simp [farLoad]) hnode) h.clear
    rw [farPump_issued hone.all, pump_quiet (by rw [hone.landed]; exact h.quiet.2)] at hperf
    exact ⟨_, congrArg Host.Outcome.next hperf, placed_of_imp hone.placed fun _ ⟨hop, haddr, hlen, _, horigin⟩ => ⟨hop, haddr, hlen, horigin⟩⟩
  · obtain ⟨hship, hleaves⟩ := sluiceFlushAge_ships (block := block) hx hw hm hne hp hsite hpool hmap hroute hu
    have hland : (sluiceFlushAge n block s).weir.landed = s.weir.landed := by rw [hship, offer_landed]; rfl
    have hpump : pump (sluiceFlushAge n block s) = sluiceFlushAge n block s := pump_quiet (by rw [hland]; exact hq.2)
    obtain ⟨hwin, hblock⟩ := stage_named hx
    refine ⟨_, congrArg Host.Outcome.next hpump, fun y hy => ?_, ?_, ?_, hleaves⟩ <;> rw [hship, offer_sluice] at *
    · have hy := (List.mem_filter.1 hy).2
      simp only [hwin, hblock, Bool.not_eq_true', Bool.and_eq_false_iff, beq_eq_false_iff_ne] at hy
      exact fun ⟨h, k⟩ => hy.elim (· h) (· k)
    · simp only [shippedNow, hwin, Tbl.get_put, if_true]
    · simp only [shippedNow, hwin, hblock, hm]
  · have hperf := performCmd_performs hin (ops := [.pinMsg]) (by simp [hop]) hmay {}
    rw [perform_pinMsg (s := unpipe r s) hop _ hcheck, hpages, hrem] at hperf
    obtain ⟨htier, hweir⟩ := pinPages_one (s := unpipe r s) hplain hpins hquota r.origin r.party
    rw [pump_quiet (complete_quiet hsrc hjoin _ _ (by rw [hweir]; exact hq.2))] at hperf
    have hkeep : ∀ t, tierOf (complete r .ok [] t) (tierPage (addrOffset r.addr)) = tierOf t (tierPage (addrOffset r.addr)) := fun t => by
      rw [tierOf, tierOf, store_eq (complete_keeps (g := .store) rfl r .ok [] t (.refl _ t))
          (complete_keeps (g := .bytes) rfl r .ok [] t (.refl _ t))]
    refine ⟨_, congrArg Host.Outcome.next hperf, ?_, ?_, complete_answers hsrc hjoin (by rw [hop]; rfl) [] _⟩
    · rw [hkeep, htier]; rfl
    · rw [hkeep, htier]; exact hplain

end Sys2Proof.SluicePieces
end

section
/-!
A DURABLE store of an agent to a PLAIN page, lines sound and uncached (R78 to R80): what its bytes, its units and the rest of the state become.
-/
namespace Sys2Proof.DurableWrites

open Sys2Proof Sys2Proof.Machine Sys2Proof.Safety Sys2Proof.WeirSlots Sys2Proof.FlashUnits Sys2Proof.PipeSteps Sys2Proof.KeysAndRelease

/-! ## Units of a range -/

theorem mem_rangeFrom {lo n x : Nat} : x ∈ rangeFrom lo n ↔ lo ≤ x ∧ x < lo + n := by
  simp only [rangeFrom, List.mem_map, List.mem_range]
  exact ⟨fun ⟨k, hk, e⟩ => by omega, fun ⟨h, k⟩ => ⟨x - lo, by omega, by omega⟩⟩

/-- Every unit of a range is that of one of its lines. -/
theorem unit_of_lines {off len u : Nat} (h : u ∈ unitsOf off len) : u ∈ ((linesOf off len).map (· / 64)).eraseDups := by
  rw [List.mem_eraseDups, List.mem_map]
  unfold unitsOf at h
  split at h
  · cases h
  · next hl =>
    rw [mem_rangeFrom] at h
    refine ⟨max (off / 64) (u * 64), ?_, by omega⟩
    rw [linesOf, if_neg hl, mem_rangeFrom]
    omega

/-! ## What a write of bytes leaves of the store -/

/-- The store without what a write of bytes changes: its contents, the tier map, poison and charges. -/
def restOf (s : State) : StoreSt := { s.store with mem := [], tier := [], poison := [], charged := [] }

theorem restOf_updTier (p : Nat) (f : TierEntry → TierEntry) (s : State) : restOf (updTier p f s) = restOf s := rfl

theorem restOf_refreshAll (ps : List Nat) (s : State) : restOf (ps.foldl (fun s p => refreshPoisoned p s) s) = restOf s :=
  keeps_foldl (P := fun t => restOf t = restOf s) (k := fun s p => refreshPoisoned p s) (fun _ _ h => h) ps s rfl

theorem restOf_poisonLines (ls : List Nat) (s : State) : restOf (poisonLines ls s) = restOf s := restOf_refreshAll _ _

theorem restOf_clearPoison (ls : List Nat) (s : State) : restOf (clearPoison ls s) = restOf s := restOf_refreshAll _ _

theorem restOf_writeMem (off : Nat) (data : Bytes) (s : State) : restOf (writeMem off data s) = restOf s := by
  have hbits : ∀ t, restOf (setMirrorBits off data.length t) = restOf t := fun t => by
    simp only [restOf, store_eq (setMirrorBits_keeps (g := .store) rfl off data.length t (.refl _ t))
      (setMirrorBits_keeps (g := .bytes) rfl off data.length t (.refl _ t))]
  have hdirty : ∀ t : State, restOf (markDirtyUnits (unitsOf off data.length) t) = restOf t := fun t =>
    keeps_foldl (P := fun x => restOf x = restOf t) (k := fun s u => updTier (u / 16) (fun e => { e with dirty := insertNat (u % 16) e.dirty }) s)
      (fun _ _ h => h) _ t rfl
  rw [writeMem, hbits, hdirty]
  rfl

/-! ## Units cleaned (R71, R80) -/

theorem programUnit_spec (u : Nat) (bs : Bytes) (s : State) : (programUnit u bs s).store = s.store
    ∧ (programUnit u bs s).nv.flash = s.nv.flash.writeN (u * 4096) bs ∧ SameKeys s (programUnit u bs s) := ⟨rfl, rfl, rfl, rfl⟩

/-- A unit without a DAMAGED sub-block cleaned: charged to nobody, its contents in flash; backed space and what else the store holds stay. -/
theorem cleanUnit_spec (u : Nat) (s : State) (hd : s.store.damaged.contains (u / 16, u % 16) = false) :
    (cleanUnit u s).store.charged = Tbl.del s.store.charged u
      ∧ (cleanUnit u s).nv.flash = s.nv.flash.writeN (u * 4096) (cipherUnit s s.store.mem u) := by
  simp only [cleanUnit, hd, Bool.false_eq_true, if_false, writeBackUnit]
  obtain ⟨t, ht⟩ : ∃ t, t = updTier (u / 16) (fun e => { e with dirty := removeNat (u % 16) e.dirty, durable := removeNat (u % 16) e.durable })
      { s with store := { s.store with charged := Tbl.del s.store.charged u } } := ⟨_, rfl⟩
  have hk : SameKeys s t := ht ▸ ⟨rfl, rfl⟩
  have hm : t.store.mem = s.store.mem := by rw [ht]; rfl
  rw [← ht]
  obtain ⟨hs, hf, -⟩ := programUnit_spec u (cipherUnit t t.store.mem u) t
  rw [hs, hf, hk.cipherUnit, hm, ht]
  exact ⟨rfl, rfl⟩

theorem restOf_cleanUnit (u : Nat) (s : State) : restOf (cleanUnit u s) = restOf s := by
  unfold cleanUnit
  split
  · rfl
  · simp only [restOf, writeBackUnit, (programUnit_spec _ _ _).1]
    rfl

theorem cleanUnit_sameKeys (u : Nat) (s : State) : SameKeys s (cleanUnit u s) :=
  ⟨cleanUnit_keeps (g := .hw) rfl u s (.refl _ s), cleanUnit_keeps (g := .boot) rfl u s (.refl _ s)⟩

theorem cleanUnit_mem (u : Nat) (s : State) : (cleanUnit u s).store.mem = s.store.mem := cleanUnit_keeps (g := .bytes) rfl u s (.refl .bytes s)

theorem cleanUnit_damaged (u : Nat) (s : State) : (cleanUnit u s).store.damaged = s.store.damaged :=
  (congrArg StoreSt.damaged (restOf_cleanUnit u s) :)

theorem cleanUnit_flash_wf {s : State} (h : s.nv.flash.wf = true) (u : Nat) : (cleanUnit u s).nv.flash.wf = true := by
  cases hd : s.store.damaged.contains (u / 16, u % 16) with
  | true => simp only [cleanUnit, hd, if_true, h]
  | false =>
    rw [(cleanUnit_spec u s hd).2]
    exact Memory.writeN_wf h _ _

/-- A unit just cleaned. -/
theorem cleanUnit_clean {s : State} {u : Nat} (hd : s.store.damaged.contains (u / 16, u % 16) = false) (hf : s.nv.flash.wf = true) :
    CleanUnit (cleanUnit u s) u := by
  obtain ⟨hcharged, hflash⟩ := cleanUnit_spec u s hd
  refine ⟨by rw [hcharged, find_del, if_pos rfl], ?_⟩
  have hr := Memory.readN_writeN hf (u * 4096) (cipherUnit s s.store.mem u)
  rw [cipherUnit_length] at hr
  rw [hflash, hr, cleanUnit_mem, (cleanUnit_sameKeys u s).cipherUnit]

/-- A clean unit stays so while another is cleaned. -/
theorem cleanUnit_stays {s : State} {u : Nat} (h : CleanUnit s u) (hf : s.nv.flash.wf = true) {v : Nat} (hv : u ≠ v) :
    CleanUnit (cleanUnit v s) u := by
  cases hd : s.store.damaged.contains (v / 16, v % 16) with
  | true => simpa only [Machine.cleanUnit, hd, if_true] using h
  | false =>
    obtain ⟨hnone, hread⟩ := h
    obtain ⟨hcharged, hflash⟩ := cleanUnit_spec v s hd
    refine ⟨by rw [hcharged, find_del, if_neg hv, hnone], ?_⟩
    rw [cleanUnit_mem, (cleanUnit_sameKeys v s).cipherUnit, hflash, ← hread]
    exact readN_unit_congr hv (fun x hx => by rw [read_writeN_unit hf (cipherUnit_length ..), if_neg hx])

/-- Units cleaned one after the other are clean, but for those with a DAMAGED sub-block. -/
theorem cleanUnits_clean (us : List Nat) (s : State) (hf : s.nv.flash.wf = true) {u : Nat} (hu : u ∈ us ∨ CleanUnit s u)
    (hd : s.store.damaged.contains (u / 16, u % 16) = false) : CleanUnit (us.foldl (fun s u => cleanUnit u s) s) u := by
  induction us generalizing s with
  | nil => exact hu.resolve_left (by simp)
  | cons v us ih =>
    refine ih (Machine.cleanUnit v s) (cleanUnit_flash_wf hf v) ?_ (by rw [cleanUnit_damaged]; exact hd)
    by_cases hv : u = v
    · subst hv
      exact .inr (cleanUnit_clean hd hf)
    · exact hu.imp (fun h => (List.mem_cons.1 h).resolve_left hv) (fun h => cleanUnit_stays h hf hv)

/-! ## Units charged (R79) -/

/-- A unit durable-dirty and charged. -/
def ChargedUnit (t : State) (u : Nat) : Prop := u % 16 ∈ (tierOf t (u / 16)).durable ∧ (Tbl.find t.store.charged u).isSome = true

/-- One unit marked durable-dirty, and charged where it was not. -/
def chargeUnit (party : Nat) (s : State) (u : Nat) : State :=
  let s := updTier (u / 16) (fun e => { e with durable := insertNat (u % 16) e.durable }) s
  if (Tbl.find s.store.charged u).isSome then s
  else { s with store := { s.store with charged := Tbl.put s.store.charged u party } }

theorem markDurable_eq (party : Nat) (us : List Nat) (s : State) : markDurable party us s = us.foldl (chargeUnit party) s := rfl

theorem chargeUnit_tier (party : Nat) (s : State) (u : Nat) : (chargeUnit party s u).store.tier =
    Tbl.upd {} s.store.tier (u / 16) (fun e => { e with durable := insertNat (u % 16) e.durable }) := by
  simp only [chargeUnit]
  split <;> rfl

theorem chargeUnit_charged (party : Nat) (s : State) (u v : Nat) :
    (Tbl.find (chargeUnit party s u).store.charged v).isSome = true ↔ v = u ∨ (Tbl.find s.store.charged v).isSome = true := by
  have hc : (updTier (u / 16) (fun e => { e with durable := insertNat (u % 16) e.durable }) s).store.charged = s.store.charged := rfl
  simp only [chargeUnit, hc]
  split
  · next h => exact ⟨.inr, fun hv => hv.elim (fun e => e ▸ h) id⟩
  · simp only [Tbl.find_put]
    by_cases hv : v = u <;> simp [hv]

theorem restOf_chargeUnit (party : Nat) (s : State) (u : Nat) : restOf (chargeUnit party s u) = restOf s := by
  simp only [chargeUnit]
  split <;> rfl

theorem restOf_markDurable (party : Nat) (us : List Nat) (s : State) : restOf (markDurable party us s) = restOf s :=
  keeps_foldl (P := fun t => restOf t = restOf s) (fun t u h => (restOf_chargeUnit party t u).trans h) us s rfl

theorem chargeUnit_chargedUnit (party : Nat) (s : State) {u v : Nat} (h : v = u ∨ ChargedUnit s v) : ChargedUnit (chargeUnit party s u) v := by
  refine ⟨?_, (chargeUnit_charged party s u v).2 (h.imp_right And.right)⟩
  simp only [tierOf, chargeUnit_tier, Tbl.get_upd]
  split
  · rw [mem_insertNat]
    rcases h with rfl | ⟨hd, -⟩
    · exact .inl rfl
    · next e => exact .inr (e ▸ hd)
  · next e => exact (h.resolve_left (fun hv => e (by rw [hv]))).1

/-- Units marked one after the other are all durable-dirty and charged. -/
theorem markDurable_charges (party : Nat) (us : List Nat) (s : State) {u : Nat} (hu : u ∈ us ∨ ChargedUnit s u) :
    ChargedUnit (markDurable party us s) u := by
  rw [markDurable_eq]
  induction us generalizing s with
  | nil => exact hu.resolve_left (by simp)
  | cons v us ih =>
    refine ih (chargeUnit party s v) ?_
    rcases hu with hu | hu
    · exact (List.mem_cons.1 hu).symm.imp_right (fun e => chargeUnit_chargedUnit party s (.inl e))
    · exact .inr (chargeUnit_chargedUnit party s (.inr hu))

/-! ## The bytes of a sound store -/

/-- Reads of lines are sound where none is poisoned and the keys are not lost. -/
theorem sound_iff {s : State} {off len : Nat} : readStatus s off len {} = .ok ↔
    (∀ l ∈ linesOf off len, l ∉ s.store.poison) ∧ (s.map.lostKeys && poolOf s off != 0) = false := by
  simp [readStatus]

theorem storedLines_sound {s : State} {off len : Nat} (h : readStatus s off len {} = .ok) : storedLines s off len = linesOf off len := by
  obtain ⟨hp, hk⟩ := sound_iff.1 h
  rw [storedLines, hk]
  exact List.filter_eq_self.2 (fun l hl => by simp [hp l hl])

/-- Bytes written over sound lines are all stored. -/
theorem writeLines_sound {s : State} {off : Nat} {data : Bytes} (h : readStatus s off data.length {} = .ok) : writeLines off data s =
    (.ok, writeMem off data (clearPoison ((linesOf off data.length).filter (coversLine off data.length)) s)) := by
  obtain ⟨hp, hk⟩ := sound_iff.1 h
  have hbad : (linesOf off data.length).filter (fun l => s.store.poison.contains l && !coversLine off data.length l) = [] :=
    List.filter_eq_nil_iff.2 (fun l hl => by simp [hp l hl])
  simp only [writeLines, hk, hbad, Bool.false_eq_true, if_false, List.isEmpty_nil, if_true]

/-- A write's bytes laid down over sound lines, its bad granules poisoned and its pages in the durable page map; its units are not marked yet. -/
def laid (r : Req) (off : Nat) (s : State) : State :=
  let len := r.data.length
  let t := writeMem off r.data (clearPoison ((linesOf off len).filter (coversLine off len)) (touchLines off len s))
  setDurMap off len (if r.bad.isEmpty then t
    else poisonLines ((r.bad.filter (fun g => g / 4096 == r.va / 4096)).map (fun g => lineOf (off / 4096 * 4096 + g % 4096))) t)

theorem laid_keeps {g : Part} (hg : Free 1073779232 g) (r : Req) (off : Nat) (s : State) : Keeps g s (laid r off s) := by
  have ht := writeMem_keeps (hg.sub rfl) off r.data _ (clearPoison_keeps (hg.sub rfl)
      ((linesOf off r.data.length).filter (coversLine off r.data.length)) _
    (touchLines_keeps (hg.sub rfl) off r.data.length s (.refl g s)))
  refine setDurMap_keeps (hg.sub rfl) off r.data.length _ ?_
  split
  · exact ht
  · exact poisonLines_keeps (hg.sub rfl) _ _ ht

theorem writeMem_mem (off : Nat) (data : Bytes) (s : State) : (writeMem off data s).store.mem = s.store.mem.writeN off data := by
  have hd : ∀ t : State, (markDirtyUnits (unitsOf off data.length) t).store.mem = t.store.mem :=
    fun t => markDirtyUnits_keeps (g := .bytes) rfl _ t (.refl .bytes t)
  have hb : ∀ t : State, (setMirrorBits off data.length t).store.mem = t.store.mem :=
    fun t => setMirrorBits_keeps (g := .bytes) rfl _ _ t (.refl .bytes t)
  rw [writeMem, hb, hd]

theorem laid_store (r : Req) (off : Nat) (s : State) : (laid r off s).store.mem = s.store.mem.writeN off r.data ∧ restOf (laid r off s) = restOf s
    ∧ (laid r off s).nv.flash = s.nv.flash := by
  have hc : ∀ (ls : List Nat) (t : State), (clearPoison ls t).store.mem = t.store.mem :=
    fun ls t => clearPoison_keeps (g := .bytes) rfl ls t (.refl .bytes t)
  have hp : ∀ (ls : List Nat) (t : State), (poisonLines ls t).store.mem = t.store.mem :=
    fun ls t => poisonLines_keeps (g := .bytes) rfl ls t (.refl .bytes t)
  have ht : ∀ t : State, (touchLines off r.data.length t).store = t.store := fun _ => rfl
  have hs : ∀ t : State, (setDurMap off r.data.length t).store = t.store ∧ (setDurMap off r.data.length t).nv.flash = t.nv.flash :=
    fun _ => ⟨rfl, rfl⟩
  have hr : ∀ t : State, restOf (setDurMap off r.data.length t) = restOf t := fun _ => rfl
  have hr' : ∀ t : State, restOf (touchLines off r.data.length t) = restOf t := fun _ => rfl
  have hflash : ∀ t : State, Keeps .nvStore s t → t.nv.flash = s.nv.flash :=
    fun t h => (congrArg NvSt.flash (show storePart t.nv = storePart s.nv from h) :)
  have hw := writeMem_keeps (g := .nvStore) rfl off r.data _ (clearPoison_keeps (g := .nvStore) rfl
    ((linesOf off r.data.length).filter (coversLine off r.data.length)) _ (touchLines_keeps (g := .nvStore) rfl off r.data.length s (.refl _ s)))
  unfold laid
  extract_lets len t
  refine ⟨?_, ?_, ?_⟩
  · rw [(hs _).1]
    split <;> simp only [hp, t, writeMem_mem, hc, len, ht]
  · rw [hr]
    split <;> simp only [restOf_poisonLines, t, restOf_writeMem, restOf_clearPoison, len, hr']
  · rw [(hs _).2]
    split
    · exact hflash _ hw
    · exact hflash _ (poisonLines_keeps (g := .nvStore) rfl _ _ hw)

theorem writeThrough_congr {s t : State} (hw : t.hw = s.hw) (hf : t.flush = s.flush) (hb : t.boot = s.boot) (p : Nat) :
    writeThrough t p = writeThrough s p := by
  simp only [writeThrough, partyRec, hw, hf, hb]

/-- The units of a write over sound lines. -/
def writtenUnits (r : Req) (off : Nat) : List Nat := ((linesOf off r.data.length).map (· / 64)).eraseDups

/-- A DURABLE write over sound lines (R79, R80). -/
def durably (r : Req) (off : Nat) (s : State) : State :=
  if writeThrough s r.party then (writtenUnits r off).foldl (fun s u => cleanUnit u s) (laid r off s)
  else markDurable r.party (writtenUnits r off) (laid r off s)

theorem storeBytes_durable {s : State} {r : Req} {off : Nat} (hd : r.durable = true) (h : readStatus s off r.data.length {} = .ok) :
    storeBytes r off r.data s = (.ok, durably r off s) := by
  have ht : readStatus (touchLines off r.data.length s) off r.data.length {} = .ok := h
  have hw : ∀ p, writeThrough (laid r off s) p = writeThrough s p := writeThrough_congr (laid_keeps (g := .hw) rfl r off s)
    (laid_keeps (g := .flush) rfl r off s) (laid_keeps (g := .boot) rfl r off s)
  have he : ∀ st : Status, (st, if writeThrough s r.party then (writtenUnits r off).foldl (fun s u => cleanUnit u s) (laid r off s)
      else markDurable r.party (writtenUnits r off) (laid r off s)) = (st, durably r off s) := fun _ => rfl
  rw [← he, ← hw r.party]
  simp only [storeBytes, writeLines_sound ht, storedLines_sound h, hd, if_true]
  rfl

/-! ## The store performed (R78, R133) -/

/-- The page of a request is PLAIN, its lines have no directory entry and are sound, and it lies in no message area. -/
structure Direct (s : State) (r : Req) : Prop where
  plain : (tierOf s (tierPage (addrOffset r.addr))).state = .plain
  lines : ∀ l ∈ linesOf (addrOffset r.addr) r.len, dirFind s l = none
  sound : readStatus s (addrOffset r.addr) r.len {} = .ok
  noArea : areaSlot s (addrOffset r.addr) = none

/-- t holds pages, poison and directory as s does. -/
structure SamePages (s t : State) : Prop where
  hw : t.hw = s.hw
  map : t.map = s.map
  coh : t.coh = s.coh
  tier : t.store.tier = s.store.tier
  poison : t.store.poison = s.store.poison

theorem SamePages.direct {s t : State} (h : SamePages s t) {r : Req} (hd : Direct s r) : Direct t r where
  plain := by rw [tierOf, h.tier]; exact hd.plain
  lines := fun l hl => by rw [dirFind, h.coh]; exact hd.lines l hl
  sound := by
    obtain ⟨hp, hk⟩ := sound_iff.1 hd.sound
    have hpool : poolOf t (addrOffset r.addr) = poolOf s (addrOffset r.addr) := by
      unfold poolOf extentPool localParty partyRec State.node
      rw [h.hw]
    exact sound_iff.2 ⟨by rw [h.poison]; exact hp, by rw [h.map, hpool]; exact hk⟩
  noArea := by rw [areaSlot, h.hw]; exact hd.noArea

theorem direct_of_durableStore {s : State} {r : Req} (h : DurableStore s r) : Direct s r := ⟨h.plain, h.direct, h.sound, h.noArea⟩

/-- With no directory entry on its lines, a store acts on backed space at once. -/
theorem cohPerform_direct {s : State} {r : Req} (hop : r.op = .store) (hprov : r.provOk = false) (hd : Direct s r) (ecc : Ecc) (waited : Bool) :
    cohPerform r ecc waited s = doComplete { r with ecc } ecc s := by
  have hnone : (linesOf (addrOffset r.addr) r.len).find? (fun l => (dirFind s l).isSome && !(r.seen.any (fun x => x.1 == l))) = none :=
    List.find?_eq_none.2 (fun l hl => by simp [hd.lines l hl])
  have hplain : (tierOf s (tierPage (addrOffset ({ r with ecc } : Req).addr))).state = .plain := hd.plain
  rw [cohPerform, cohAccess]
  simp only [hnone, hop, isCachingOp, Bool.false_eq_true, if_false, doShared, onPage, hplain, hprov, Bool.and_false, Bool.false_and]

theorem doComplete_durable {s : State} {r : Req} (hop : r.op = .store) (hdur : r.durable = true) (hlen : r.data.length = r.len) (hd : Direct s r)
    (ecc : Ecc) : doComplete r ecc s = complete r .ok [] (acquired r (durably r (addrOffset r.addr) s)) := by
  have hs := storeBytes_durable (s := s) hdur (off := addrOffset r.addr) (by rw [hlen]; exact hd.sound)
  have hl : (Op.store == Op.load) = false := rfl
  have hc : (Op.store == Op.confRead) = false := rfl
  simp only [doComplete, doOp, hop, hs, hl, hc, Bool.false_eq_true, if_false]

/-- A DURABLE store performed: its bytes and units are stored, and it is completed. -/
theorem performOp_durable {s : State} {r : Req} (hop : r.op = .store) (hdur : r.durable = true) (hprov : r.provOk = false)
    (hlen : r.data.length = r.len) (hd : Direct s r) (ecc : Ecc) : performOp r ecc s =
      complete { r with ecc } .ok [] (acquired { r with ecc } (durably r (addrOffset r.addr) s)) := by
  have hmay : mayProvide s r = false := by simp [mayProvide, hop]
  have hfill : ∀ t, fillHot r t = t := fun t => by simp [fillHot, hop]
  have hpost : ∀ t : State, t.hw = s.hw → postStored r t = t := fun t ht => by
    have ha : areaSlot t (addrOffset r.addr) = none := by rw [areaSlot, ht]; exact hd.noArea
    simp [postStored, hop, ha]
  have hdone := doComplete_durable (s := s) (r := { r with ecc }) hop hdur hlen ⟨hd.plain, hd.lines, hd.sound, hd.noArea⟩ ecc
  have hcoh := (cohPerform_direct hop hprov hd ecc false).trans hdone
  simp only [performOp, hmay, Bool.false_eq_true, if_false, hfill]
  rw [hpost _ (cohPerform_keeps (g := .hw) rfl r ecc false s (.refl _ s)), hcoh]
  rfl

theorem cleanUnits_keeps {g : Part} (hg : Free 4128 g) (us : List Nat) (s : State) : Keeps g s (us.foldl (fun s u => cleanUnit u s) s) :=
  keeps_foldl (P := Keeps g s) (k := fun s u => cleanUnit u s) (fun t u h => cleanUnit_keeps hg u t h) us s (.refl g s)

theorem durably_keeps {g : Part} (hg : Free 1073779232 g) (r : Req) (off : Nat) (s : State) : Keeps g s (durably r off s) := by
  unfold durably
  split
  · exact keeps_foldl (P := Keeps g s) (k := fun s u => cleanUnit u s) (fun t u h => cleanUnit_keeps (hg.sub rfl) u t h) _ _ (laid_keeps hg r off s)
  · exact markDurable_keeps (hg.sub rfl) _ _ _ (laid_keeps hg r off s)

theorem durably_store (r : Req) (off : Nat) (s : State) :
    (durably r off s).store.mem = s.store.mem.writeN off r.data ∧ restOf (durably r off s) = restOf s := by
  obtain ⟨hmem, hrest, -⟩ := laid_store r off s
  unfold durably
  split
  · refine ⟨?_, ?_⟩
    · rw [show ((writtenUnits r off).foldl (fun s u => cleanUnit u s) (laid r off s)).store.mem = _ from cleanUnits_keeps (g := .bytes) rfl _ _, hmem]
    · exact keeps_foldl (P := fun t => restOf t = restOf s) (k := fun s u => cleanUnit u s) (fun t u h => (restOf_cleanUnit u t).trans h) _ _ hrest
  · refine ⟨?_, (restOf_markDurable _ _ _).trans hrest⟩
    rw [show (markDurable r.party (writtenUnits r off) (laid r off s)).store.mem = _
        from markDurable_keeps (g := .bytes) rfl _ _ _ (.refl .bytes _), hmem]

/-- Outside write-through every unit of the write is charged. -/
theorem durably_charges {s : State} {r : Req} {off : Nat} (hw : writeThrough s r.party = false) {u : Nat} (hu : u ∈ unitsOf off r.data.length) :
    ChargedUnit (durably r off s) u := by
  rw [durably, hw]
  exact markDurable_charges _ _ _ (.inl (unit_of_lines hu))

/-- In write-through every unit of the write is clean. -/
theorem durably_cleans {s : State} {r : Req} {off : Nat} (hw : writeThrough s r.party = true) (hf : s.nv.flash.wf = true) {u : Nat}
    (hu : u ∈ unitsOf off r.data.length) (hd : isDamaged s (u / 16) = false) : CleanUnit (durably r off s) u := by
  obtain ⟨-, hrest, hflash⟩ := laid_store r off s
  rw [durably, if_pos hw]
  refine cleanUnits_clean _ _ (by rw [hflash]; exact hf) (.inl (unit_of_lines hu)) ?_
  rw [show (laid r off s).store.damaged = s.store.damaged from (congrArg StoreSt.damaged hrest :)]
  simp only [isDamaged, List.any_eq_false, beq_iff_eq] at hd
  rw [Bool.eq_false_iff, ne_eq, List.contains_iff_mem]
  exact fun hm => hd _ hm rfl

/-- A DURABLE store performed and answered. -/
def storedOk (r : Req) (ecc : Ecc) (s : State) : State := complete { r with ecc } .ok [] (acquired { r with ecc } (durably r (addrOffset r.addr) s))

/-- Its completion changes neither the store nor the flash, the directory nor the keys. -/
theorem storedOk_keeps {g : Part} (hg : Free 134253312 g) (r : Req) (ecc : Ecc) (s : State) :
    Keeps g (durably r (addrOffset r.addr) s) (storedOk r ecc s) :=
  complete_keeps (hg.sub rfl) _ _ _ _ (acquired_keeps (hg.sub rfl) _ _ (.refl g _))

theorem storedOk_store (r : Req) (ecc : Ecc) (s : State) : (storedOk r ecc s).store = (durably r (addrOffset r.addr) s).store :=
  store_eq (storedOk_keeps (g := .store) rfl r ecc s) (storedOk_keeps (g := .bytes) rfl r ecc s)

/-- Memory holds the bytes, and the answer is at the source. -/
theorem storedOk_written {s t : State} {r : Req} (h : DurableStore s r) (hm : t.store.mem = s.store.mem) (ecc : Ecc) :
    Written s (storedOk r ecc t) r := by
  have hresp : hasResponse r.op = true := by rw [h.op.1]; rfl
  refine ⟨?_, AnsweredOk.of_ecc (ecc := ecc) (complete_answers (r := { r with ecc }) h.source h.whole.1 hresp [] _)⟩
  rw [storedOk_store, (durably_store r _ t).1, hm]

theorem storedOk_charged {s t : State} {r : Req} (h : DurableStore s r) (hw : writeThrough t r.party = false) (ecc : Ecc) :
    Charged (storedOk r ecc t) r := by
  intro u hu
  rw [tierOf, storedOk_store]
  exact durably_charges hw (by rw [h.data]; exact hu)

theorem storedOk_clean {s t : State} {r : Req} (h : DurableStore s r) (hw : writeThrough t r.party = true) (hf : t.nv.flash.wf = true)
    (hd : ∀ u ∈ unitsOf (addrOffset r.addr) r.len, isDamaged t (u / 16) = false) (ecc : Ecc) :
    ∀ u ∈ unitsOf (addrOffset r.addr) r.len, CleanUnit (storedOk r ecc t) u := by
  intro u hu
  obtain ⟨hnone, hread⟩ := durably_cleans hw hf (off := addrOffset r.addr) (by rw [h.data]; exact hu) (hd u hu)
  have hk : SameKeys (durably r (addrOffset r.addr) t) (storedOk r ecc t) :=
    ⟨storedOk_keeps (g := .hw) rfl r ecc t, storedOk_keeps (g := .boot) rfl r ecc t⟩
  have hflash : (storedOk r ecc t).nv.flash = (durably r (addrOffset r.addr) t).nv.flash :=
    (congrArg NvSt.flash (show storePart (storedOk r ecc t).nv = _ from storedOk_keeps (g := .nvStore) rfl r ecc t) :)
  refine ⟨by rw [storedOk_store, hnone], ?_⟩
  rw [hflash, hk.cipherUnit, storedOk_store, hread]

/-- The node has nothing more to do after it. -/
theorem storedOk_settles {s t : State} {r : Req} (h : DurableStore s r) (hl : t.weir.landed = s.weir.landed) (ecc : Ecc) :
    pump (storedOk r ecc t) = storedOk r ecc t := by
  refine pump_quiet (complete_quiet (r := { r with ecc }) h.source h.whole.1 _ _ ?_)
  have hw : (acquired { r with ecc } (durably r (addrOffset r.addr) t)).weir = t.weir :=
    weir_eq (acquired_keeps (g := .weirCtl) rfl _ _ (durably_keeps (g := .weirCtl) rfl r _ t))
    (acquired_keeps (g := .weirQ) rfl _ _ (durably_keeps (g := .weirQ) rfl r _ t))
  rw [hw, hl]
  exact h.quiet.2

/-- No snoop of it waits for the write-back that it would be. -/
theorem storedOk_wbArrived {s t : State} {r : Req} (h : DurableStore s r) (hc : t.coh = s.coh) (ecc : Ecc) :
    wbArrived (storedOk r ecc t) = storedOk r ecc t := by
  have hcoh : (storedOk r ecc t).coh = s.coh :=
    ((show (storedOk r ecc t).coh = _ from storedOk_keeps (g := .coh) rfl r ecc t).trans (durably_keeps (g := .coh) rfl r _ t)).trans hc
  have hnone : (storedOk r ecc t).coh.snoops.filter (fun x => x.wb && x.wbGot) = [] := by
    rw [hcoh]
    exact List.filter_eq_nil_iff.2 (fun x hx => by simp [h.counted x hx])
  rw [wbArrived, hnone]
  rfl

/-! ## Where a DURABLE store goes (R80) -/

theorem durFate_through {s : State} {party : Nat} {us : List Nat} : durFate s party us = .through ↔ writeThrough s party = true := by
  unfold durFate
  cases writeThrough s party
  · simp only [Bool.false_eq_true, if_false, iff_false]
    split <;> simp
  · simp

theorem notThrough_of_now {s : State} {party : Nat} {us : List Nat} (h : durFate s party us = .now) : writeThrough s party = false :=
  Bool.eq_false_iff.2 (fun hw => by rw [durFate_through.2 hw] at h; cases h)

/-- A DURABLE store past its checks goes by what its party's share says. -/
theorem performMem_durable {s t : State} {r : Req} (h : DurableStore s r) (hp : SamePages s t) (hc : memCheck t r = none) (ecc : Ecc) :
    performMem r ecc t = placeDurable { r with ecc } (performOp r ecc) t := by
  simp only [performMem, hc, h.checks.2, Bool.not_true, Bool.false_eq_true, if_false, (hp.direct (direct_of_durableStore h)).plain]

theorem isDurableWrite {s : State} {r : Req} (h : DurableStore s r) : (r.durable && isWriteOp r.op) = true := by
  rw [h.op.1, h.op.2.1]
  rfl

theorem performOp_of_durableStore {s t : State} {r : Req} (h : DurableStore s r) (hp : SamePages s t) (ecc : Ecc) :
    performOp r ecc t = storedOk r ecc t :=
  performOp_durable h.op.1 h.op.2.1 h.op.2.2 h.data (hp.direct (direct_of_durableStore h)) ecc

theorem placeDurable_now {s t : State} {r : Req} (h : DurableStore s r) (hp : SamePages s t) (ecc : Ecc)
    (hf : durFate t r.party (unitsOf (addrOffset r.addr) r.len) = .now) :
    placeDurable { r with ecc } (performOp r ecc) t = storedOk r ecc t := by
  simp only [placeDurable, isDurableWrite h, hf, Bool.not_true, Bool.false_eq_true, if_false, performOp_of_durableStore h hp]

theorem placeDurable_parks {s t : State} {r : Req} (h : DurableStore s r) (ecc : Ecc)
    (hf : durFate t r.party (unitsOf (addrOffset r.addr) r.len) = .parkShare) : placeDurable { r with ecc } (performOp r ecc) t =
      { t with store := { t.store with parkedW := t.store.parkedW ++ [{ r with ecc }] } } := by
  simp only [placeDurable, isDurableWrite h, hf, Bool.not_true, Bool.false_eq_true, if_false]

theorem placeDurable_through {s t : State} {r : Req} (h : DurableStore s r) (ecc : Ecc)
    (hf : durFate t r.party (unitsOf (addrOffset r.addr) r.len) = .through) : placeDurable { r with ecc } (performOp r ecc) t =
      maintain (homeRace t (addrOffset r.addr)) (.program (unitOf (addrOffset r.addr)))
        { t with store := { t.store with wt := t.store.wt ++ [{ req := { r with ecc }, unit := unitOf (addrOffset r.addr) }] } } := by
  simp only [placeDurable, isDurableWrite h, hf, Bool.not_true, Bool.false_eq_true, if_false]

theorem perform_store {s : State} {r : Req} (hop : r.op = .store) (hs : addrSpace r.addr = 0) (ecc : Ecc) : perform r ecc s = performMem r ecc s := by
  simp only [perform, hop, hs]
  rfl

/-- Work asked for waits for a maintenance slot, and what was asked for before it does unless it is the same. -/
theorem mem_maintain {race : Nat} {w : FlashWork} {s : State} {x : Nat × FlashWork} :
    x ∈ (maintain race w s).weir.maint ↔ (x ∈ s.weir.maint ∧ x.2 ≠ w) ∨ x = (race, w) := by
  simp [maintain]

/-! ## Clean water, and the flash gate (R80, R21) -/

/-- Each unit of a list waits for a maintenance slot to be cleaned once all of them are asked for. -/
theorem cleanAll_asked (race : State → Nat → Nat) (us : List Nat) (s : State) {u : Nat} (hu : u ∈ us ∨ ∃ r, (r, .clean u) ∈ s.weir.maint) :
    ∃ r, (r, .clean u) ∈ (us.foldl (fun s u => maintain (race s u) (.clean u) s) s).weir.maint := by
  induction us generalizing s with
  | nil => exact hu.resolve_left (by simp)
  | cons v us ih =>
    refine ih _ ?_
    by_cases hv : u = v
    · exact .inr ⟨_, mem_maintain.2 (.inr (by rw [hv]))⟩
    · exact hu.imp (fun h => (List.mem_cons.1 h).resolve_left hv)
        (fun ⟨r, hr⟩ => ⟨r, mem_maintain.2 (.inl ⟨hr, fun e => hv (FlashWork.clean.inj e)⟩)⟩)

/-- Only the patrol read is admitted where nothing waits. -/
theorem admitRace_idle (w : WeirTable) (slot : WeirSlot) {s : State} (hq : s.weir.queue = []) (hm : s.weir.maint = []) (race : Nat) :
    ∃ on, admitRace w slot s race = { s with weir := { s.weir with flashOn := on } } := by
  have hserved : served s w slot race = [] := by simp [served, queueOf, hq]
  have hreq : requestsOf w slot s race = [] := by rw [requestsOf, hserved]; rfl
  have hwork : ∀ x ∈ workOf w slot s race, x.2 = .scrub := fun x hx => (mem_workOf hx).resolve_left (by rw [hm]; simp)
  have hship : ∀ x ∈ workOf w slot s race, ¬ Shipping x := fun x hx ⟨i, p, e⟩ => by rw [hwork x hx] at e; cases e
  have hflash : (workOf w slot s race).filter (fun x => usesFlash s x.2) = [] :=
    List.filter_eq_nil_iff.2 (fun x hx => by rw [hwork x hx]; simp [usesFlash])
  rw [admitRace_eq, hreq, List.foldl_nil, admitWorks_eq _ _ hship, hflash, hm, List.append_nil, List.nil_diff]
  exact ⟨_, by rw [← hm]⟩

theorem admitStage_idle (w : WeirTable) (slot : WeirSlot) {s : State} (hq : s.weir.queue = []) (hm : s.weir.maint = []) :
    ∃ on, admitStage w slot s = { s with weir := { s.weir with flashOn := on } } := by
  refine keeps_foldl (P := fun t => ∃ on, t = { s with weir := { s.weir with flashOn := on } }) ?_ _ s ⟨_, rfl⟩
  rintro _ race ⟨on, rfl⟩
  obtain ⟨on', h⟩ := admitRace_idle w slot (s := { s with weir := { s.weir with flashOn := on } }) hq hm race
  exact ⟨on', h⟩

theorem crossStage_idle (w : WeirTable) (slot : WeirSlot) {s : State} (hq : s.weir.queue = []) : crossStage w slot s = s := by
  have hone : ∀ (t : State) (race : Nat), t = s → grantRace w slot t race = s := by
    rintro _ race rfl
    have hnone : ∀ l : List Nat, l.findSome? (fun _ => (none : Option QEntry)) = none := fun l => List.findSome?_eq_none_iff.2 (fun _ _ => rfl)
    simp [grantRace, hq, hnone]
  exact keeps_foldl (P := fun t => t = s) hone _ s rfl

/-- The gate grants the write-back of a charged unit that stands first for it, and it is cleaned. -/
theorem grantFlash_clean {w : WeirTable} {slot : WeirSlot} {s : State} {race u : Nat} {rest : List (Nat × FlashWork)} (hen : slot.flashEn = true)
    (hrace : slot.flashRace = race) (hq : s.weir.flashQ = (race, .clean u) :: rest)
    (hparty : (w.isOpen || workParty s (.clean u) == (slot.race race).party) = true) (hc : (Tbl.find s.store.charged u).isSome = true) :
    ∃ n, grantFlash w slot s = (fun t => { t with keeper := { t.keeper with written := n } })
      (cleanUnit u { s with weir := { s.weir with flashQ := rest } }) := by
  have hf : s.weir.flashQ.find? (fun x => x.1 == slot.flashRace && (w.isOpen || workParty s x.2 == (slot.race slot.flashRace).party))
      = some (race, .clean u) := by
    rw [hq, hrace, List.find?_cons_of_pos]
    simp only [hparty, beq_self_eq_true, Bool.and_self]
  have he : s.weir.flashQ.erase (race, FlashWork.clean u) = rest := by rw [hq, List.erase_cons_head]
  simp only [grantFlash, hen, Bool.not_true, Bool.false_eq_true, if_false, hf, grantWork, cleanNow, he, hc, Bool.false_and]
  exact ⟨_, rfl⟩

/-- WEIR_SLOT with only a write-back to grant (R21, R80). -/
theorem weirSlot_cleans {s : State} {w : WeirTable} {race u : Nat} {rest : List (Nat × FlashWork)} (h : WeirRuns s w) (hq : s.weir.queue = [])
    (hm : s.weir.maint = []) (hf : s.nv.flash.wf = true) (hen : (slotNow w s).flashEn = true) (hrace : (slotNow w s).flashRace = race)
    (hfq : s.weir.flashQ = (race, .clean u) :: rest)
    (hparty : (w.isOpen || workParty s (.clean u) == ((slotNow w s).race race).party) = true) (hc : (Tbl.find s.store.charged u).isSome = true)
    (hd : isDamaged s (u / 16) = false) : let t := weirSlot s
    CleanUnit t u ∧ t.store.mem = s.store.mem ∧ t.weir.flashQ = rest ∧ t.weir.landed = s.weir.landed := by
  obtain ⟨on, ha⟩ := admitStage_idle w (slotNow w s) hq hm
  have hx := crossStage_idle w (slotNow w s) (s := { s with weir := { s.weir with flashOn := on } }) hq
  obtain ⟨n, hg⟩ := grantFlash_clean (w := w) (s := { s with weir := { s.weir with flashOn := on } }) hen hrace hfq hparty hc
  have he := weirSlot_eq h.released h.table
  rw [ha, hx, hg] at he
  obtain ⟨b, hb⟩ : ∃ b : State, b = { s with weir := { s.weir with flashOn := on, flashQ := rest } } := ⟨_, rfl⟩
  have hbs : b.store = s.store := by rw [hb]
  have hdam : b.store.damaged.contains (u / 16, u % 16) = false := by
    simp only [isDamaged, List.any_eq_false, beq_iff_eq] at hd
    rw [hbs, Bool.eq_false_iff, ne_eq, List.contains_iff_mem]
    exact fun hin => hd _ hin rfl
  have hclean := cleanUnit_clean hdam (by rw [hb]; exact hf)
  have hmem := cleanUnit_mem u b
  have hweir : (cleanUnit u b).weir = b.weir :=
    weir_eq (cleanUnit_keeps (g := .weirCtl) rfl u b (.refl _ b)) (cleanUnit_keeps (g := .weirQ) rfl u b (.refl _ b))
  simp only [← hb] at he
  generalize cleanUnit u b = c at he hclean hmem hweir
  have hst : c.weir.stalled = [] := by rw [hweir, hb]; exact h.credit
  rw [wakeStalled_none (s := { c with keeper := { c.keeper with written := n } }) hst] at he
  obtain ⟨hnone, hread⟩ := hclean
  simp only [he, hweir]
  exact ⟨⟨hnone, hread⟩, by rw [hmem, hbs], by rw [hb], by rw [hb]⟩

/-- The oldest write of a unit, once it has its program: its page is looked at again, and nothing but the weir's work and the list of such writes
has changed. -/
theorem writeThroughProgrammed_eq {s : State} {unit : Nat} {w : WtWrite} (hw : s.store.wt.find? (fun w => w.unit == unit) = some w)
    (hon : isOn s (.program unit) = true) : ∃ v : WeirSt, v.landed = s.weir.landed ∧ writeThroughProgrammed unit s =
      onPage w.req (performOp w.req w.req.ecc) { s with store := { s.store with wt := s.store.wt.erase w }, weir := v } := by
  obtain ⟨a, ha⟩ : ∃ a, a = dropFlash (.program unit) { s with store := { s.store with wt := s.store.wt.erase w } } := ⟨_, rfl⟩
  have hs : ∃ v : WeirSt, v.landed = s.weir.landed
      ∧ (if a.store.wt.any (fun w => w.unit == unit) then maintain (homeRace a (unit * 4096)) (.program unit) a else a)
        = { s with store := { s.store with wt := s.store.wt.erase w }, weir := v } := by
    split
    · exact ⟨(maintain (homeRace a (unit * 4096)) (.program unit) a).weir, by rw [ha]; rfl, by rw [ha]; rfl⟩
    · exact ⟨a.weir, by rw [ha]; rfl, by rw [ha]; rfl⟩
  obtain ⟨v, hv, he⟩ := hs
  refine ⟨v, hv, ?_⟩
  simp only [writeThroughProgrammed, hw, hon, Bool.not_true, Bool.false_eq_true, if_false, ← ha, he]

/-- A parked write leaves the park. -/
def unparked (r : Req) (s : State) : State := { s with store := { s.store with parkedW := s.store.parkedW.erase r } }

/-- The party's first parked write below its share is performed (R80). -/
theorem parkedWriteRelease_stores {s : State} {p : Nat} {r : Req} (h : DurableStore s r) (hp : r.party = p)
    (hf : durFate s p (unitsOf (addrOffset r.addr) r.len) = .now)
    (hfind : s.store.parkedW.find? (fun r => r.party == p && durFate s p (unitsOf (addrOffset r.addr) r.len) != .parkShare) = some r) :
    pump (wbArrived (parkedWriteRelease p s)) = storedOk r r.ecc (unparked r s) := by
  have ht : SamePages s (unparked r s) := ⟨rfl, rfl, rfl, rfl, rfl⟩
  have hrel : parkedWriteRelease p s = performMem r r.ecc (unparked r s) := by simp only [parkedWriteRelease, hfind, unparked]
  have hnow : performMem r r.ecc (unparked r s) = storedOk r r.ecc (unparked r s) :=
    (performMem_durable h ht h.checks.1 r.ecc).trans (placeDurable_now h ht r.ecc (by rw [hp]; exact hf))
  rw [hrel, hnow, storedOk_wbArrived (t := unparked r s) h rfl, storedOk_settles (t := unparked r s) h rfl]

/-! ## The statement -/

/-- Settles O28: what a DURABLE store does once it is performed, said once, and the four ways in which it comes to that. That the grant of the
flash gate itself cleans the unit is the choice of log entry 63, and which waiting write ends with a program that of log entry 26. -/
theorem durableWritesReachFlash : Obligations.DurableWritesReachFlash := by
  unfold Obligations.DurableWritesReachFlash
  refine ⟨fun s r h hin hmay => ?_, fun s p r h hp hfate hfind => ?_, fun s unit w h hfind hthrough hon hwf hd => ?_,
      fun s p => ⟨fun hle => ?_, fun hlt => ?_⟩,
    fun s w race u rest h hq hm hwf hen hrace hfq hparty hc hd => ?_⟩
  · have hp : SamePages s (unpipe r s) := ⟨rfl, rfl, rfl, rfl, rfl⟩
    have hperf := performCmd_performs hin (ops := [.store]) (by simp [h.op.1]) hmay {}
    rw [perform_store h.op.1 h.space, performMem_durable h hp h.checks.1] at hperf
    refine ⟨fun hf => ?_, fun hf => ?_, fun hf => ?_⟩
    · rw [placeDurable_now h hp {} hf, storedOk_settles (t := unpipe r s) h rfl] at hperf
      exact ⟨_, congrArg Host.Outcome.next hperf, storedOk_written (t := unpipe r s) h rfl {},
        storedOk_charged (t := unpipe r s) h (notThrough_of_now hf) {}⟩
    · rw [placeDurable_parks (t := unpipe r s) h {} hf] at hperf
      exact ⟨_, congrArg Host.Outcome.next (hperf.trans (pump_quiet h.quiet.2)), rfl, rfl⟩
    · rw [placeDurable_through (t := unpipe r s) h {} hf] at hperf
      exact ⟨_, congrArg Host.Outcome.next (hperf.trans (pump_quiet h.quiet.2)), rfl, rfl, _, mem_maintain.2 (.inr rfl)⟩
  · refine ⟨_, congrArg Host.Outcome.next (parkedWriteRelease_stores h hp hfate hfind), storedOk_written (t := unparked r s) h rfl r.ecc,
      storedOk_charged (t := unparked r s) h (hp ▸ notThrough_of_now hfate) r.ecc, ?_⟩
    rw [storedOk_store]
    exact (congrArg StoreSt.parkedW (durably_store r _ (unparked r s)).2 :)
  · obtain ⟨v, hv, he⟩ := writeThroughProgrammed_eq hfind hon
    obtain ⟨t, ht⟩ : ∃ t : State, t = { s with store := { s.store with wt := s.store.wt.erase w }, weir := v } := ⟨_, rfl⟩
    have hp : SamePages s t := ht ▸ ⟨rfl, rfl, rfl, rfl, rfl⟩
    have hdone : writeThroughProgrammed unit s = storedOk w.req w.req.ecc t := by
      rw [he, ← ht]
      simp only [onPage, (hp.direct (direct_of_durableStore h)).plain, performOp_of_durableStore h hp]
    have hnext : pump (wbArrived (writeThroughProgrammed unit s)) = storedOk w.req w.req.ecc t := by
      rw [hdone, storedOk_wbArrived h hp.coh, storedOk_settles h (by rw [ht, hv])]
    refine ⟨_, congrArg Host.Outcome.next hnext, storedOk_written h (by rw [ht]) _, ?_, ?_⟩
    · rw [storedOk_store, show (durably w.req _ t).store.wt = _ from (congrArg StoreSt.wt (durably_store w.req _ t).2 :), ht]
      rfl
    · exact storedOk_clean h (by rw [ht]; exact hthrough) (by rw [ht]; exact hwf.2.1) (fun u hu => by rw [ht]; exact hd u hu) _
  · have he : cleanWater p s = ((s.store.charged.filter (fun c => c.2 == p.val)).map (·.1)).foldl
        (fun s u => maintain (homeRace s (u * 4096)) (.clean u) s) s := if_pos hle
    refine ⟨cleanWater p s, rfl, ?_, ?_, fun c hc hpc => ?_⟩
    · exact store_eq (cleanWater_keeps (g := .store) rfl p s (.refl _ s)) (cleanWater_keeps (g := .bytes) rfl p s (.refl _ s))
    · exact nv_eq (cleanWater_keeps (g := .fuses) rfl p s (.refl _ s)) (cleanWater_keeps (g := .ident) rfl p s (.refl _ s))
        (cleanWater_keeps (g := .nvLog) rfl p s (.refl _ s)) (cleanWater_keeps (g := .nvStore) rfl p s (.refl _ s))
    · rw [he]
      exact cleanAll_asked (fun s u => homeRace s (u * 4096)) _ s
        (.inl (List.mem_map_of_mem (List.mem_filter.2 ⟨hc, by simpa using hpc⟩)))
  · exact ⟨s, congrArg Host.Outcome.next (if_neg (by omega)), rfl⟩
  · obtain ⟨hclean, hmem, hflash, hland⟩ := weirSlot_cleans h hq hm hwf.2.1 hen hrace hfq hparty hc hd
    exact ⟨weirSlot s, congrArg Host.Outcome.next (pump_quiet (by rw [hland]; exact h.quiet.2)), hclean, hmem, hflash⟩

end Sys2Proof.DurableWrites
end

section
/-!
A fill or a move that ends (R63 to R67): its page's entry, the requests that were held for it, and what goes on where nothing else waits.
-/
namespace Sys2Proof.TierMoves

open Sys2Proof Sys2Proof.Machine Sys2Proof.Safety Sys2Proof.WeirSlots Sys2Proof.SluicePieces Sys2Proof.DurableWrites

/-! ## The tier map -/

theorem tierOf_updTier (page q : Nat) (f : TierEntry → TierEntry) (s : State) :
    tierOf (updTier page f s) q = if q = page then f (tierOf s page) else tierOf s q := by
  simp only [tierOf, updTier, Tbl.get_upd]

theorem tierOf_updTier_other {page q : Nat} (h : q ≠ page) (f : TierEntry → TierEntry) (s : State) : tierOf (updTier page f s) q = tierOf s q := by
  rw [tierOf_updTier, if_neg h]

theorem mem_put {α : Type} {t : Tbl α} {k : Nat} {x : α} {e : Nat × α} (h : e ∈ Tbl.put t k x) : e ∈ t ∨ e = (k, x) := by
  induction t with
  | nil => exact .inr (List.mem_singleton.1 h)
  | cons y t ih =>
    obtain ⟨j, y⟩ := y
    unfold Tbl.put at h
    split at h
    · exact (List.mem_cons.1 h).symm
    · split at h
      · exact (List.mem_cons.1 h).symm.imp_left (List.mem_cons_of_mem _)
      · rcases List.mem_cons.1 h with h | h
        · exact .inl (h ▸ List.mem_cons_self)
        · exact (ih h).imp_left (List.mem_cons_of_mem _)

theorem get_mem {α : Type} (d : α) (t : Tbl α) (k : Nat) : Tbl.get d t k = d ∨ (k, Tbl.get d t k) ∈ t := by
  induction t with
  | nil => exact .inl rfl
  | cons y t ih =>
    obtain ⟨j, y⟩ := y
    unfold Tbl.get
    split
    · next h => exact .inr (h ▸ List.mem_cons_self)
    · exact ih.imp_right (List.mem_cons_of_mem _)

/-! ## Nothing else waits (R63, R70, R76) -/

/-- An entry that no retry and no return takes up: no PLAIN page of a retired frame, none away from its race. -/
def Still (s : State) (e : TierEntry) : Prop := (e.state = .plain → e.frame ∉ s.store.retired) ∧ e.away = false

/-- No page waits for a frame, and no entry is taken up. -/
structure Calm (s : State) : Prop where
  wanted : s.store.wanted = []
  still : ∀ e ∈ s.store.tier, Still s e.2

theorem calm_of_settled {s : State} (h : Settled s) : Calm s := ⟨h.1, fun e he => ⟨fun _ => (h.2.1 e he).1, (h.2.1 e he).2⟩⟩

theorem Calm.page {s : State} (h : Calm s) (page : Nat) : Still s (tierOf s page) := by
  rcases get_mem ({} : TierEntry) s.store.tier page with hd | hm
  · rw [tierOf, hd]
    exact ⟨fun e => (by cases e), rfl⟩
  · exact h.still _ hm

theorem Calm.updTier {s : State} (h : Calm s) {page : Nat} {f : TierEntry → TierEntry} (hf : Still s (f (tierOf s page))) :
    Calm (updTier page f s) where
  wanted := h.wanted
  still := fun _ he => (mem_put he).elim (h.still _) (fun e => e ▸ hf)

/-- What waits goes on as it is. -/
theorem Calm.of_same {s t : State} (h : Calm s) (ht : t.store.tier = s.store.tier) (hw : t.store.wanted = s.store.wanted)
    (hr : t.store.retired = s.store.retired) : Calm t where
  wanted := hw.trans h.wanted
  still := fun e he => by
    have := h.still e (ht ▸ he)
    rwa [Still, hr]

theorem retryWork_calm {s : State} (h : Calm s) : retryWork s = s := by
  have hs : { s with store := { s.store with wanted := [] } } = s := by rw [← h.wanted]
  have hleft : s.store.tier.filter (fun e => e.2.state == .plain && !isPinned e.2 && s.store.retired.contains e.2.frame) = [] :=
    List.filter_eq_nil_iff.2 (fun e he => by
      have hin := (h.still e he).1
      cases hp : (e.2.state == TierState.plain)
      · simp
      · simp [hin (eq_of_beq hp)])
  simp only [retryWork, h.wanted, List.foldl_nil, hs, hleft]

theorem returnAway_calm {s : State} (h : Calm s) : returnAway s = s := by
  have hnone : s.store.tier.filter (fun e => e.2.away && e.2.state == .plain && !(isPinned e.2 && s.store.badFrames.contains e.2.frame)) = [] :=
    List.filter_eq_nil_iff.2 (fun e he => by simp [(h.still e he).2])
  rw [returnAway, hnone]
  rfl

theorem goOn_calm {s : State} (h : Calm s) : goOn s = s := by rw [goOn, retryWork_calm h, returnAway_calm h]

theorem firingPlain_none {s : State} (h : s.rill.firings = []) (page : Nat) : firingPlain page s = s := by
  have hs : { s with rill := { s.rill with firings := [] } } = s := by rw [← h]
  simp only [firingPlain, h, List.filter_nil, List.map_nil, List.foldl_nil, hs]

/-- After a move of an unpinned page for which no FILL waits, nothing follows. -/
theorem afterMove_calm {s : State} {page : Nat} (h : Calm s) (hf : s.rill.firings = []) (hp : isPinned (tierOf s page) = false) :
    afterMove page s = s := by
  have hb : bringPlain page s = s := by rw [bringPlain, hp]; rfl
  have hr : refill page s = s := by rw [refill, hf]; rfl
  rw [afterMove, hb, hr, goOn_calm h]

/-! ## A move over, and the requests held for its page -/

/-- The state after a move's end, but for the directory: its entry in the list of moves is gone, and so is its work. -/
theorem endMove_spec (page : Nat) (s : State) : let t := endMove page s
    t.store = { s.store with moves := s.store.moves.filter (fun m => m.page != page) }
      ∧ t.weir.parked = s.weir.parked ∧ t.weir.waitMove = s.weir.waitMove ∧ t.weir.pipe = s.weir.pipe ∧ t.weir.landed = s.weir.landed
      ∧ t.rill = s.rill ∧ t.hw = s.hw := by
  have hstore : ∀ t, (relocate t).store = t.store := fun t =>
    store_eq (relocate_keeps (g := .store) rfl t (.refl _ t)) (relocate_keeps (g := .bytes) rfl t (.refl _ t))
  have hweir : ∀ t, (relocate t).weir = t.weir := fun t =>
    weir_eq (relocate_keeps (g := .weirCtl) rfl t (.refl _ t)) (relocate_keeps (g := .weirQ) rfl t (.refl _ t))
  have hrill : ∀ t, (relocate t).rill = t.rill := fun t =>
    rill_eq (relocate_keeps (g := .rill) rfl t (.refl _ t)) (relocate_keeps (g := .rillTable) rfl t (.refl _ t))
  have hhw : ∀ t : State, (relocate t).hw = t.hw := fun t => relocate_keeps (g := .hw) rfl t (.refl .hw t)
  simp only [endMove, hstore, hweir, hrill, hhw]
  exact ⟨rfl, rfl, rfl, rfl, rfl, rfl, rfl⟩

/-- What a page's release changes: the requests held for it. -/
theorem releasePage_spec (page : Nat) (s : State) : let t := releasePage page s
    GoOn s t page ∧ t.store = s.store ∧ t.rill = s.rill ∧ t.hw = s.hw ∧ t.weir.landed = s.weir.landed := by
  refine ⟨⟨?_, rfl⟩, rfl, rfl, rfl, rfl⟩
  have hp : (s.weir.parked.filter (fun q => q.1 != page)).filter (fun q => q.1 == page) = [] :=
    List.filter_eq_nil_iff.2 (fun q hq => by simpa using (List.mem_filter.1 hq).2)
  have hw : (s.weir.waitMove.filter (fun r => tierPage (addrOffset r.addr) != page)).filter (fun r => tierPage (addrOffset r.addr) == page) = [] :=
    List.filter_eq_nil_iff.2 (fun q hq => by simpa using (List.mem_filter.1 hq).2)
  show (List.map _ (List.filter _ _)) ++ _ = []
  rw [show (releasePage page s).weir.parked = s.weir.parked.filter (fun q => q.1 != page) from rfl,
    show (releasePage page s).weir.waitMove = s.weir.waitMove.filter (fun r => tierPage (addrOffset r.addr) != page) from rfl, hp, hw]
  rfl

/-- The held requests are those of a state whose queues are the same. -/
theorem goOn_of_same {s u t : State} {page : Nat} (h : GoOn u t page) (hp : u.weir.parked = s.weir.parked) (hw : u.weir.waitMove = s.weir.waitMove)
    (hq : u.weir.pipe = s.weir.pipe) : GoOn s t page := by
  obtain ⟨hnone, hpipe⟩ := h
  refine ⟨hnone, ?_⟩
  rw [hpipe, heldFor, heldFor, hp, hw, hq]

theorem findMove_ended {s : State} {page : Nat} {l : List Move} (h : s.store.moves = l.filter (fun m => m.page != page)) :
    findMove s page = none := by
  rw [findMove, h]
  exact List.find?_eq_none.2 (fun m hm => by simpa using (List.mem_filter.1 hm).2)

/-- What a move's end depends on beside the tier map: the requests held, what waits for frames, firings, and completions. -/
structure SameHeld (s t : State) : Prop where
  parked : t.weir.parked = s.weir.parked
  waitMove : t.weir.waitMove = s.weir.waitMove
  pipe : t.weir.pipe = s.weir.pipe
  landed : t.weir.landed = s.weir.landed
  wanted : t.store.wanted = s.store.wanted
  retired : t.store.retired = s.store.retired
  firings : t.rill.firings = s.rill.firings

theorem SameHeld.trans {s t u : State} (h : SameHeld s t) (k : SameHeld t u) : SameHeld s u :=
  ⟨k.parked.trans h.parked, k.waitMove.trans h.waitMove, k.pipe.trans h.pipe, k.landed.trans h.landed, k.wanted.trans h.wanted,
    k.retired.trans h.retired, k.firings.trans h.firings⟩

theorem SameHeld.updTier (page : Nat) (f : TierEntry → TierEntry) (s : State) : SameHeld s (updTier page f s) := ⟨rfl, rfl, rfl, rfl, rfl, rfl, rfl⟩

/-- A step that keeps the weir and the rills, and of the store what is not its contents, tier map, poison and charges. -/
theorem SameHeld.of_restOf {s t : State} (hw : t.weir = s.weir) (hr : t.rill = s.rill) (hs : restOf t = restOf s) : SameHeld s t :=
  ⟨by rw [hw], by rw [hw], by rw [hw], by rw [hw], (congrArg StoreSt.wanted hs :), (congrArg StoreSt.retired hs :), by rw [hr]⟩

/-- t is s with the move of a page over: the requests held for it go on, and what else waits does so still. -/
structure MoveOver (s t : State) (page : Nat) : Prop where
  gone : findMove t page = none
  goOn : GoOn s t page
  landed : t.weir.landed = s.weir.landed
  wanted : t.store.wanted = s.store.wanted
  retired : t.store.retired = s.store.retired
  firings : t.rill.firings = s.rill.firings

theorem released_store (page : Nat) (s : State) :
    (releasePage page (endMove page s)).store = { s.store with moves := s.store.moves.filter (fun m => m.page != page) } :=
  (releasePage_spec page (endMove page s)).2.1.trans (endMove_spec page s).1

theorem released_over (page : Nat) (s : State) : MoveOver s (releasePage page (endMove page s)) page := by
  obtain ⟨hgo, hstore, hrill, -, hland⟩ := releasePage_spec page (endMove page s)
  obtain ⟨estore, eparked, ewait, epipe, eland, erill, -⟩ := endMove_spec page s
  refine ⟨findMove_ended (l := s.store.moves) ?_, goOn_of_same hgo eparked ewait epipe, hland.trans eland, ?_, ?_, ?_⟩
  · rw [hstore, estore]
  · rw [hstore, estore]
  · rw [hstore, estore]
  · rw [hrill, erill]

/-- The same where the page's entry is changed after the move's end. -/
theorem releasedAfter_over (page : Nat) (f : TierEntry → TierEntry) (s : State) :
    MoveOver s (releasePage page (updTier page f (endMove page s))) page := by
  obtain ⟨hgo, hstore, hrill, -, hland⟩ := releasePage_spec page (updTier page f (endMove page s))
  obtain ⟨estore, eparked, ewait, epipe, eland, erill, -⟩ := endMove_spec page s
  have hm : (updTier page f (endMove page s)).store.moves = s.store.moves.filter (fun m => m.page != page) := by
    rw [show (updTier page f (endMove page s)).store.moves = (endMove page s).store.moves from rfl, estore]
  have hw : (updTier page f (endMove page s)).store.wanted = s.store.wanted := by
    rw [show (updTier page f (endMove page s)).store.wanted = (endMove page s).store.wanted from rfl, estore]
  have hr : (updTier page f (endMove page s)).store.retired = s.store.retired := by
    rw [show (updTier page f (endMove page s)).store.retired = (endMove page s).store.retired from rfl, estore]
  exact ⟨findMove_ended (by rw [hstore, hm]), goOn_of_same hgo eparked ewait epipe, hland.trans eland, by rw [hstore, hw], by rw [hstore, hr],
    by rw [hrill]; exact congrArg RillGroup.firings erill⟩

theorem MoveOver.before {s v t : State} {page : Nat} (h : MoveOver v t page) (k : SameHeld s v) : MoveOver s t page :=
  ⟨h.gone, goOn_of_same h.goOn k.parked k.waitMove k.pipe, h.landed.trans k.landed, h.wanted.trans k.wanted, h.retired.trans k.retired,
    h.firings.trans k.firings⟩

/-! ## TIER_MOVE_COMPLETE (R64, R67) -/

theorem granuleWords_same (page : Nat) (is : List Nat) (left : Nat) (s : State) :
    ∃ n, (granuleWords page is left s).2 = { s with freeCtr := n } := by
  induction is generalizing left s with
  | nil => exact ⟨_, rfl⟩
  | cons i is ih =>
    unfold granuleWords
    extract_lets zero
    split
    · exact ih left s
    · obtain ⟨n, hn⟩ := ih _ (takeWord s).2
      exact ⟨n, hn⟩

/-- A page that becomes RIFFLE keeps COUNT, its references and its bits. -/
theorem toGranules_eq (page granules : Nat) (s : State) : ∃ n frame words, toGranules page granules s =
    updTier page (fun e => { e with state := .riffle, granules, frame, subBlocks := words }) { s with freeCtr := n } := by
  obtain ⟨n, hn⟩ := granuleWords_same page (List.range 16) granules (takeWord s).2
  exact ⟨n, _, _, by simp only [toGranules, hn]; rfl⟩

/-- A unit cleaned leaves every page's entry as it is, but for that unit's bits. -/
theorem tierOf_cleanUnit (u q : Nat) (s : State) : tierOf (cleanUnit u s) q = tierOf s q ∨ (q = u / 16 ∧ tierOf (cleanUnit u s) q =
    { tierOf s q with dirty := removeNat (u % 16) (tierOf s q).dirty, durable := removeNat (u % 16) (tierOf s q).durable }) := by
  unfold cleanUnit
  split
  · exact .inl rfl
  · have hs : ∀ t : State, tierOf (writeBackUnit u t) q = tierOf t q := fun t => by rw [tierOf, writeBackUnit, (programUnit_spec _ _ _).1]; rfl
    rw [hs, tierOf_updTier]
    split
    · next h => exact .inr ⟨h, by rw [h]; rfl⟩
    · exact .inl rfl

/-- A unit without a DAMAGED sub-block is not DIRTY once it is cleaned. -/
theorem cleanUnit_notDirty {u : Nat} {s : State} (hd : s.store.damaged.contains (u / 16, u % 16) = false) :
    u % 16 ∉ (tierOf (cleanUnit u s) (u / 16)).dirty := by
  have hs : ∀ t : State, tierOf (writeBackUnit u t) (u / 16) = tierOf t (u / 16) := fun t => by
    rw [tierOf, writeBackUnit, (programUnit_spec _ _ _).1]; rfl
  simp only [cleanUnit, hd, Bool.false_eq_true, if_false, hs, tierOf_updTier_same, removeNat]
  simp

/-- t is s after some write-backs: no entry has changed but in DIRTY and DURABLE_DIRTY bits that are gone. -/
structure WrittenBack (s t : State) : Prop where
  held : SameHeld s t
  damaged : t.store.damaged = s.store.damaged
  page : ∀ q, ∃ d d' : List Nat, (∀ i ∈ d, i ∈ (tierOf s q).dirty) ∧ tierOf t q = { tierOf s q with dirty := d, durable := d' }
  calm : Calm s → Calm t

theorem WrittenBack.refl (s : State) : WrittenBack s s := ⟨⟨rfl, rfl, rfl, rfl, rfl, rfl, rfl⟩, rfl, fun _ => ⟨_, _, fun _ h => h, rfl⟩, id⟩

theorem WrittenBack.trans {s t u : State} (h : WrittenBack s t) (k : WrittenBack t u) : WrittenBack s u where
  held := h.held.trans k.held
  damaged := k.damaged.trans h.damaged
  page := fun q => by
    obtain ⟨d, d', hd, ht⟩ := h.page q
    obtain ⟨e, e', he, hu⟩ := k.page q
    exact ⟨e, e', fun i hi => hd i (by have := he i hi; rwa [ht] at this), by rw [hu, ht]⟩
  calm := fun hc => k.calm (h.calm hc)

theorem cleanUnit_writtenBack (u : Nat) (s : State) : WrittenBack s (cleanUnit u s) where
  held := .of_restOf (weir_eq (cleanUnit_keeps (g := .weirCtl) rfl u s (.refl _ s)) (cleanUnit_keeps (g := .weirQ) rfl u s (.refl _ s)))
    (rill_eq (cleanUnit_keeps (g := .rill) rfl u s (.refl _ s)) (cleanUnit_keeps (g := .rillTable) rfl u s (.refl _ s))) (restOf_cleanUnit u s)
  damaged := cleanUnit_damaged u s
  page := fun q => by
    rcases tierOf_cleanUnit u q s with h | ⟨-, h⟩
    · exact ⟨_, _, fun _ hi => hi, h⟩
    · exact ⟨_, _, fun i hi => (List.mem_filter.1 hi).1, h⟩
  calm := fun hc => by
    unfold cleanUnit
    split
    · exact hc
    · have hx : Calm { s with store := { s.store with charged := Tbl.del s.store.charged u } } := hc.of_same rfl rfl rfl
      exact (hx.updTier (page := u / 16) (f := fun e => { e with dirty := removeNat (u % 16) e.dirty, durable := removeNat (u % 16) e.durable })
        (hx.page (u / 16))).of_same (by rw [writeBackUnit, (programUnit_spec _ _ _).1]) (by rw [writeBackUnit, (programUnit_spec _ _ _).1])
          (by rw [writeBackUnit, (programUnit_spec _ _ _).1])

/-- The units of a page cleaned one after the other. -/
theorem cleanUnits_writtenBack (page : Nat) (is : List Nat) (s : State) (hd : isDamaged s page = false) :
    let t := (is.map (fun i => page * 16 + i)).foldl (fun s u => cleanUnit u s) s
    WrittenBack s t ∧ ∀ i < 16, i ∈ is → i ∉ (tierOf t page).dirty := by
  induction is generalizing s with
  | nil => exact ⟨.refl s, fun _ _ h => nomatch h⟩
  | cons i is ih =>
    have hone := cleanUnit_writtenBack (page * 16 + i) s
    have hdam : isDamaged (cleanUnit (page * 16 + i) s) page = false := by rw [isDamaged, hone.damaged]; exact hd
    obtain ⟨hall, hgone⟩ := ih (cleanUnit (page * 16 + i) s) hdam
    refine ⟨hone.trans hall, fun j hj hin => ?_⟩
    rcases List.mem_cons.1 hin with rfl | hin
    · obtain ⟨d, d', hsub, ht⟩ := hall.page page
      have hnot := cleanUnit_notDirty (u := page * 16 + j) (s := s) (by
        simp only [isDamaged, List.any_eq_false, beq_iff_eq] at hd
        rw [Bool.eq_false_iff, ne_eq, List.contains_iff_mem]
        exact fun hm => hd _ hm (by omega))
      rw [show (page * 16 + j) / 16 = page by omega, show (page * 16 + j) % 16 = j by omega] at hnot
      rw [List.map_cons, List.foldl_cons, ht]
      exact fun hm => hnot (hsub j hm)
    · exact hgone j hj hin

/-- A page's dirty units written back. -/
theorem writeBackPage_spec (page : Nat) (s : State) (hd : isDamaged s page = false) :
    WrittenBack s (writeBackPage page s) ∧ ∀ i < 16, i ∉ (tierOf (writeBackPage page s) page).dirty := by
  obtain ⟨hback, hgone⟩ := cleanUnits_writtenBack page (tierOf s page).dirty s hd
  have hback' : WrittenBack s (writeBackPage page s) :=
    ⟨hback.held.trans ⟨rfl, rfl, rfl, rfl, rfl, rfl, rfl⟩, hback.damaged, hback.page, fun hc => (hback.calm hc).of_same rfl rfl rfl⟩
  refine ⟨hback', fun i hi hm => ?_⟩
  obtain ⟨d, d', hsub, ht⟩ := hback'.page page
  exact hgone i hi (hsub i (by rwa [ht] at hm)) hm

/-- A move that may end: under way, out of PLAIN or RIFFLE, of a page that nothing pins and no transaction holds. -/
structure Ending (s : State) (page : Nat) (m : Move) : Prop where
  move : findMove s page = some m
  src : m.src ≠ .flash
  unpinned : isPinned (tierOf s page) = false
  on : isOn s (.move page) = true
  settled : Settled s
  free : inTransaction s page = false

theorem Ending.proceeds {s : State} {page : Nat} {m : Move} (h : Ending s page m) :
    (m.src == TierState.flash || !isOn s (.move page) || inTransaction s page) = false := by
  simp [h.src, h.on, h.free]

theorem Ending.complete_riffle {s : State} {page : Nat} {m : Move} (h : Ending s page m) (hd : m.dest = .riffle) (granules : Nat) :
    tierMoveComplete page granules s =
      if 96 < granules then afterMove page (firingPlain page (releasePage page (stayPlain page (endMove page s))))
      else afterMove page (releasePage page (endMove page (toGranules page granules s))) := by
  simp only [tierMoveComplete, h.move, h.proceeds, hd, Bool.false_eq_true, if_false]

/-- The entry of a page that has gone to flash. -/
def gone (e : TierEntry) : TierEntry := { e with state := .flash, frame := 0, away := false, granules := 0, subBlocks := [] }

theorem Ending.complete_flash {s : State} {page : Nat} {m : Move} (h : Ending s page m) (hp : m.dest ≠ .plain) (hd : m.dest ≠ .riffle)
    (granules : Nat) : tierMoveComplete page granules s =
      afterMove page (releasePage page (endMove page (updTier page gone (writeBackPage page s)))) := by
  simp only [tierMoveComplete, h.move, h.proceeds, Bool.false_eq_true, if_false]
  rfl

/-- Where a move is over and the page is as it is to be, nothing follows. -/
theorem afterMove_over {s t : State} {page : Nat} (h : MoveOver s t page) (hs : Settled s) (hstill : ∀ e ∈ t.store.tier, Still t e.2)
    (hp : isPinned (tierOf t page) = false) : afterMove page t = t :=
  afterMove_calm ⟨h.wanted.trans hs.1, hstill⟩ (h.firings.trans hs.2.2) hp

/-- A compression that saved too little leaves the page PLAIN, marked RIFFLE_NO (R67). -/
theorem tierMoveComplete_stays {s : State} {page granules : Nat} {m : Move} (h : Ending s page m) (hd : m.dest = .riffle) (hg : 96 < granules)
    (hr : (tierOf s page).frame ∉ s.store.retired) : let t := tierMoveComplete page granules s
    MoveOver s t page ∧ tierOf t page = { tierOf s page with state := .plain, riffleNo := true } := by
  obtain ⟨t, ht⟩ : ∃ t, t = releasePage page (stayPlain page (endMove page s)) := ⟨_, rfl⟩
  have hover : MoveOver s t page := ht ▸ releasedAfter_over page _ s
  have hcalm := calm_of_settled h.settled
  have htier : t.store.tier = (updTier page (fun e => { e with state := .plain, riffleNo := true }) s).store.tier := by
    rw [ht, (releasePage_spec _ _).2.1]
    simp only [stayPlain, updTier, (endMove_spec page s).1]
  have hentry : tierOf t page = { tierOf s page with state := .plain, riffleNo := true } := by
    rw [tierOf, htier]
    exact tierOf_updTier_same page _ s
  have hstill := (hcalm.updTier (page := page) (f := fun e => { e with state := .plain, riffleNo := true }) ⟨fun _ => hr, (hcalm.page page).2⟩).still
  rw [← htier] at hstill
  have hdone := afterMove_over hover h.settled (fun e he => by rw [Still, hover.retired]; exact hstill e he) (by rw [hentry]; exact h.unpinned)
  have he : tierMoveComplete page granules s = t := by
    rw [h.complete_riffle hd]
    simp only [hg, if_true, ← ht]
    rw [firingPlain_none (hover.firings.trans h.settled.2.2), hdone]
  rw [he]
  exact ⟨hover, hentry⟩

/-- A move of a page that is at its place when its entry is written: the entry of its new place before the move's end. -/
theorem released_done {s v : State} {page : Nat} {m : Move} (h : Ending s page m) (hv : SameHeld s v) (hcalm : Calm v)
    (hp : isPinned (tierOf v page) = false) : let t := afterMove page (releasePage page (endMove page v))
    MoveOver s t page ∧ t.store.tier = v.store.tier := by
  have hover : MoveOver s (releasePage page (endMove page v)) page := (released_over page v).before hv
  have htier : (releasePage page (endMove page v)).store.tier = v.store.tier := by rw [released_store]
  have hdone := afterMove_over hover h.settled (fun e he => by
    rw [htier] at he
    rw [Still, hover.retired, ← hv.retired]
    exact hcalm.still e he) (by rw [tierOf, htier]; exact hp)
  rw [hdone]
  exact ⟨hover, htier⟩

/-- A compression that saves enough leaves the page RIFFLE (R67). -/
theorem tierMoveComplete_riffle {s : State} {page granules : Nat} {m : Move} (h : Ending s page m) (hd : m.dest = .riffle) (hg : granules ≤ 96) :
    let t := tierMoveComplete page granules s
    MoveOver s t page ∧ (tierOf t page).state = .riffle ∧ (tierOf t page).granules = granules := by
  obtain ⟨n, frame, words, hto⟩ := toGranules_eq page granules s
  obtain ⟨v, hv⟩ : ∃ v, v = toGranules page granules s := ⟨_, rfl⟩
  have hentry : tierOf v page = { tierOf s page with state := .riffle, granules, frame, subBlocks := words } := by
    rw [hv, hto]
    exact tierOf_updTier_same page _ { s with freeCtr := n }
  have hcalm : Calm v := by
    have hs : Calm { s with freeCtr := n } := (calm_of_settled h.settled).of_same rfl rfl rfl
    rw [hv, hto]
    exact hs.updTier ⟨fun e => (by cases e), (hs.page page).2⟩
  have hsame : SameHeld s v := by rw [hv, hto]; exact ⟨rfl, rfl, rfl, rfl, rfl, rfl, rfl⟩
  obtain ⟨hover, htier⟩ := released_done h hsame hcalm (by rw [hentry]; exact h.unpinned)
  have he : tierMoveComplete page granules s = afterMove page (releasePage page (endMove page v)) := by
    rw [h.complete_riffle hd, hv]
    simp only [show ¬ 96 < granules by omega, if_false]
  have hpage : tierOf (afterMove page (releasePage page (endMove page v))) page = tierOf v page := by rw [tierOf, tierOf, htier]
  rw [he]
  refine ⟨hover, ?_, ?_⟩ <;> rw [hpage, hentry]

/-- A move to flash leaves the page there with no unit DIRTY (R71). -/
theorem tierMoveComplete_flash {s : State} {page granules : Nat} {m : Move} (h : Ending s page m) (hp : m.dest ≠ .plain) (hd : m.dest ≠ .riffle)
    (hdam : isDamaged s page = false) : let t := tierMoveComplete page granules s
    MoveOver s t page ∧ (tierOf t page).state = .flash ∧ ∀ i < 16, i ∉ (tierOf t page).dirty := by
  obtain ⟨hback, hclean⟩ := writeBackPage_spec page s hdam
  obtain ⟨d, d', -, hpage⟩ := hback.page page
  obtain ⟨b, hb⟩ : ∃ b, b = writeBackPage page s := ⟨_, rfl⟩
  rw [← hb] at hback hclean hpage
  obtain ⟨v, hv⟩ : ∃ v, v = updTier page gone b := ⟨_, rfl⟩
  have hentry : tierOf v page = gone (tierOf b page) := by
    rw [hv]
    exact tierOf_updTier_same page _ b
  have hcalm : Calm v := by
    rw [hv]
    exact (hback.calm (calm_of_settled h.settled)).updTier ⟨fun e => (by cases e), rfl⟩
  obtain ⟨hover, htier⟩ := released_done h (hv ▸ hback.held.trans (.updTier page _ b)) hcalm (by rw [hentry, hpage]; exact h.unpinned)
  have he : tierMoveComplete page granules s = afterMove page (releasePage page (endMove page v)) := by
    rw [h.complete_flash hp hd, hv, hb]
  have hlast : tierOf (afterMove page (releasePage page (endMove page v))) page = tierOf v page := by rw [tierOf, tierOf, htier]
  rw [he]
  refine ⟨hover, ?_⟩
  rw [hlast, hentry]
  exact ⟨rfl, hclean⟩

/-- A move out of PLAIN or RIFFLE ends as its destination says. -/
theorem tierMoveComplete_ends {s : State} {page : Nat} (granules : Nat) {m : Move} (h : Ending s page m) (hp : m.dest ≠ .plain)
    (hr : (tierOf s page).frame ∉ s.store.retired) (hdam : isDamaged s page = false) : let t := tierMoveComplete page granules s
    MoveOver s t page ∧ (m.dest = .riffle → 96 < granules → tierOf t page = { tierOf s page with state := .plain, riffleNo := true })
      ∧ (m.dest = .riffle → granules ≤ 96 → (tierOf t page).state = .riffle ∧ (tierOf t page).granules = granules)
      ∧ (m.dest ≠ .riffle → (tierOf t page).state = .flash ∧ ∀ i < 16, i ∉ (tierOf t page).dirty) := by
  by_cases hd : m.dest = .riffle
  · by_cases hg : 96 < granules
    · obtain ⟨hover, hentry⟩ := tierMoveComplete_stays h hd hg hr
      exact ⟨hover, fun _ _ => hentry, fun _ hle => absurd hg (by omega), fun hn => absurd hd hn⟩
    · obtain ⟨hover, hentry⟩ := tierMoveComplete_riffle h hd (by omega : granules ≤ 96)
      exact ⟨hover, fun _ hlt => absurd hlt hg, fun _ _ => hentry, fun hn => absurd hd hn⟩
  · obtain ⟨hover, hentry⟩ := tierMoveComplete_flash (granules := granules) h hp hd hdam
    exact ⟨hover, fun he => absurd he hd, fun he => absurd he hd, fun _ => hentry⟩

/-! ## DEMAND_FILL_COMPLETE (R65, R77) -/

/-- t is s after some lines were poisoned: entries have changed in POISONED alone, those of other pages not at all. -/
structure Poisoned (pages : List Nat) (s t : State) : Prop where
  held : SameHeld s t
  hw : t.hw = s.hw
  entry : ∀ q, ∃ b, tierOf t q = { tierOf s q with poisoned := b }
  other : ∀ q, q ∉ pages → tierOf t q = tierOf s q
  each : ∀ e ∈ t.store.tier, ∃ e₀ b, (e₀ = {} ∨ ∃ q, (q, e₀) ∈ s.store.tier) ∧ e.2 = { e₀ with poisoned := b }

theorem refreshPoisoned_poisoned (page : Nat) (s : State) : Poisoned [page] s (refreshPoisoned page s) where
  held := .updTier page _ s
  hw := rfl
  entry := fun q => by
    rw [refreshPoisoned, tierOf_updTier]
    split
    · next h => exact ⟨_, by rw [h]⟩
    · exact ⟨_, rfl⟩
  other := fun q hq => tierOf_updTier_other (by simpa using hq) _ s
  each := fun e he => by
    rcases mem_put he with hm | rfl
    · exact ⟨e.2, e.2.poisoned, .inr ⟨e.1, hm⟩, rfl⟩
    · exact ⟨tierOf s page, _, (get_mem ({} : TierEntry) s.store.tier page).imp_right (fun hm => ⟨page, hm⟩), rfl⟩

theorem Poisoned.trans {ps qs : List Nat} {s t u : State} (h : Poisoned ps s t) (k : Poisoned qs t u) : Poisoned (ps ++ qs) s u where
  held := h.held.trans k.held
  hw := k.hw.trans h.hw
  entry := fun q => by
    obtain ⟨b, hb⟩ := h.entry q
    obtain ⟨c, hc⟩ := k.entry q
    exact ⟨c, by rw [hc, hb]⟩
  other := fun q hq => by
    rw [List.mem_append, not_or] at hq
    rw [k.other q hq.2, h.other q hq.1]
  each := fun e he => by
    obtain ⟨e₁, b, h₁ | ⟨q, hm⟩, hb⟩ := k.each e he
    · exact ⟨e₁, b, .inl h₁, hb⟩
    · obtain ⟨e₀, c, h₀, hc⟩ := h.each _ hm
      exact ⟨e₀, b, h₀, by rw [hb, show e₁ = _ from hc]⟩

theorem refreshAll_poisoned (ps : List Nat) (s : State) : Poisoned ps s (ps.foldl (fun s p => refreshPoisoned p s) s) := by
  induction ps generalizing s with
  | nil => exact ⟨⟨rfl, rfl, rfl, rfl, rfl, rfl, rfl⟩, rfl, fun _ => ⟨_, rfl⟩, fun _ _ => rfl, fun e he => ⟨e.2, e.2.poisoned, .inr ⟨e.1, he⟩, rfl⟩⟩
  | cons p ps ih => exact (refreshPoisoned_poisoned p s).trans (ih (refreshPoisoned p s))

theorem Poisoned.calm {ps : List Nat} {s t : State} (h : Poisoned ps s t) (hc : Calm s) : Calm t where
  wanted := h.held.wanted.trans hc.wanted
  still := fun e he => by
    obtain ⟨e₀, b, h₀, hb⟩ := h.each e he
    rw [hb, Still, h.held.retired]
    rcases h₀ with rfl | ⟨q, hm⟩
    · exact ⟨fun e => (by cases e), rfl⟩
    · exact hc.still _ hm

theorem poisonLines_poisoned (ls : List Nat) (s : State) : Poisoned ((ls.map (· / 1024)).eraseDups) s (poisonLines ls s) := by
  have hlines : Poisoned [] s { s with store := { s.store with poison := insertAll ls s.store.poison } } :=
    ⟨⟨rfl, rfl, rfl, rfl, rfl, rfl, rfl⟩, rfl, fun _ => ⟨_, rfl⟩, fun _ _ => rfl, fun e he => ⟨e.2, e.2.poisoned, .inr ⟨e.1, he⟩, rfl⟩⟩
  exact hlines.trans (refreshAll_poisoned (ls.map (· / 1024)).eraseDups _)

theorem poisonLines_poison (ls : List Nat) (s : State) : (poisonLines ls s).store.poison = insertAll ls s.store.poison :=
  keeps_foldl (P := fun t : State => t.store.poison = insertAll ls s.store.poison) (k := fun s p => refreshPoisoned p s) (fun _ _ h => h) _ _ rfl

/-- The lines of some units. -/
def linesOfUnits (us : List Nat) : List Nat := us.flatMap (fun u => rangeFrom (u * 64) 64)

theorem mem_linesOfUnits {us : List Nat} {l : Nat} : l ∈ linesOfUnits us ↔ l / 64 ∈ us := by
  simp only [linesOfUnits, List.mem_flatMap, mem_rangeFrom]
  exact ⟨fun ⟨u, hu, h⟩ => by rwa [show l / 64 = u by omega], fun h => ⟨_, h, by omega, by omega⟩⟩

/-- Where no request is held on lost units, losing them poisons their lines. -/
theorem loseUnits_poisons {page : Nat} {units : List Nat} {s : State}
    (hfree : ∀ q ∈ s.weir.parked, q.1 = page → ∀ u ∈ unitsOf (addrOffset q.2.req.addr) q.2.req.len, u ∉ units) :
    loseUnits page units s = poisonLines (linesOfUnits units) s := by
  have hmiss : ∀ q ∈ s.weir.parked,
      (q.1 == page && (unitsOf (addrOffset q.2.req.addr) q.2.req.len).any (fun u => units.contains u)) = false := fun q hq => by
    by_cases hp : q.1 = page
    · simpa [hp] using hfree q hq hp
    · simp [hp]
  have hkeep : s.weir.parked.filter (fun q =>
      !(q.1 == page && (unitsOf (addrOffset q.2.req.addr) q.2.req.len).any (fun u => units.contains u))) = s.weir.parked :=
    List.filter_eq_self.2 (fun q hq => by rw [hmiss q hq]; rfl)
  have hnone : s.weir.parked.filter (fun q => q.1 == page && (unitsOf (addrOffset q.2.req.addr) q.2.req.len).any (fun u => units.contains u)) = [] :=
    List.filter_eq_nil_iff.2 (fun q hq => by rw [hmiss q hq]; simp)
  cases units with
  | nil => rfl
  | cons u us => simp only [loseUnits, List.isEmpty_cons, Bool.false_eq_true, if_false, hkeep, hnone, List.foldl_nil, linesOfUnits]

theorem preferredRace_congr {s t : State} (h : t.hw = s.hw) (page : Nat) : preferredRace t page = preferredRace s page := by
  unfold preferredRace poolRaces pagePool extentPool localParty partyRec State.node
  rw [h]

/-- A page that comes to its preferred race, into a frame that is not retired, is PLAIN there, and what was held for it goes on. -/
theorem nowPlain_spec {s : State} {m : Move} (hc : Calm s) (hf : s.rill.firings = []) (hrace : m.race = preferredRace s m.page)
    (hframe : m.frame ∉ s.store.retired) : let t := goOn (nowPlain m s)
    MoveOver s t m.page
      ∧ tierOf t m.page = { tierOf s m.page with state := .plain, frame := m.frame, race := m.race, away := false, granules := 0, subBlocks := [] }
      ∧ (∀ q, q ≠ m.page → tierOf t q = tierOf s q) ∧ t.store.poison = s.store.poison := by
  have haway : (m.race != preferredRace s m.page) = false := by simp [hrace]
  obtain ⟨f, hfdef⟩ : ∃ f : TierEntry → TierEntry,
      f = fun e => { e with state := .plain, frame := m.frame, race := m.race, away := false, granules := 0, subBlocks := [] } := ⟨_, rfl⟩
  obtain ⟨v, hv⟩ : ∃ v : State, v = { updTier m.page f s with store := { (updTier m.page f s).store with
      damaged := (updTier m.page f s).store.damaged.filter (fun d => d.1 != m.page) } } := ⟨_, rfl⟩
  obtain ⟨t, ht⟩ : ∃ t, t = releasePage m.page (endMove m.page v) := ⟨_, rfl⟩
  have hheld : SameHeld s v := hv ▸ ⟨rfl, rfl, rfl, rfl, rfl, rfl, rfl⟩
  have htiers : ∀ q, tierOf v q = if q = m.page then f (tierOf s m.page) else tierOf s q := fun q => by
    rw [hv]
    exact tierOf_updTier m.page q f s
  have hcalm : Calm v := by
    rw [hv]
    exact (hc.updTier (page := m.page) (f := f) (hfdef ▸ ⟨fun _ => hframe, rfl⟩)).of_same rfl rfl rfl
  have hover : MoveOver s t m.page := ht ▸ (released_over m.page v).before hheld
  have htier : t.store.tier = v.store.tier := by rw [ht, released_store]
  have hpoison : t.store.poison = s.store.poison := by rw [ht, released_store, hv]; rfl
  have he : nowPlain m s = t := by
    simp only [nowPlain, haway, ← hfdef, ← hv, ← ht]
    exact firingPlain_none (hover.firings.trans hf) _
  have hgo : goOn t = t := goOn_calm (hcalm.of_same htier (hover.wanted.trans hheld.wanted.symm) (hover.retired.trans hheld.retired.symm))
  have hpage : ∀ q, tierOf t q = tierOf v q := fun q => by rw [tierOf, tierOf, htier]
  rw [he, hgo]
  refine ⟨hover, ?_, fun q hq => ?_, hpoison⟩
  · rw [hpage, htiers, if_pos rfl, hfdef]
  · rw [hpage, htiers, if_neg hq]

/-- A granted fill that nothing leaves a frame for: its units are lost or not, and its page is PLAIN. -/
theorem demandFillComplete_eq {s : State} {page : Nat} {m : Move} (lost recovered : List Nat) (hm : findMove s page = some m) (hsrc : m.src = .flash)
    (hdest : m.dest = .plain) (hon : isOn s (.fill page) = true)
    (hleave : ∀ x ∈ s.store.moves, x.page ≠ page → x.src = .plain → (tierOf s x.page).frame ≠ m.frame) :
    ∃ b : State, SameHeld s b ∧ b.hw = s.hw ∧ b.store.tier = s.store.tier ∧ b.store.poison = s.store.poison
      ∧ demandFillComplete page lost recovered s = goOn (nowPlain m (loseUnits page (lost.filter (fun u => u / 16 == page)) b)) := by
  have hnone : s.store.moves.any (fun x => x.page != page && x.src == .plain && (tierOf s x.page).frame == m.frame) = false := by
    rw [List.any_eq_false]
    intro x hx hl
    simp only [Bool.and_eq_true, bne_iff_ne, beq_iff_eq] at hl
    exact hleave x hx hl.1.1 hl.1.2 hl.2
  have hg : (m.src != TierState.flash || m.dest != TierState.plain || !isOn s (.fill page)
      || s.store.moves.any (fun x => x.page != page && x.src == .plain && (tierOf s x.page).frame == m.frame)) = false := by
    simp only [hsrc, hdest, hon, hnone, bne_self_eq_false, Bool.not_true, Bool.or_self]
  refine ⟨dropFlash (.fill page) { s with store := { s.store with
      flashRecovered := Tbl.upd 0 s.store.flashRecovered (pagePool s page) (· + (recovered.filter (fun u => u / 16 == page)).length) } },
    ⟨rfl, rfl, rfl, rfl, rfl, rfl, rfl⟩, rfl, rfl, rfl, ?_⟩
  simp only [demandFillComplete, hm, hg, Bool.false_eq_true, if_false]

theorem findMove_page {s : State} {page : Nat} {m : Move} (h : findMove s page = some m) : m.page = page := by
  simpa using List.find?_some h

/-- A fill that ends leaves its page PLAIN in its frame, its lost units poisoned, and every other page's entry as it was. -/
theorem demandFillComplete_plain {s : State} {page : Nat} {lost : List Nat} (recovered : List Nat) {m : Move} (hm : findMove s page = some m)
    (hsrc : m.src = .flash) (hdest : m.dest = .plain) (hon : isOn s (.fill page) = true)
    (hleave : ∀ x ∈ s.store.moves, x.page ≠ page → x.src = .plain → (tierOf s x.page).frame ≠ m.frame) (hrace : m.race = preferredRace s page)
    (hs : Settled s) (hframe : m.frame ∉ s.store.retired)
    (hfree : ∀ q ∈ s.weir.parked, q.1 = page → ∀ u ∈ unitsOf (addrOffset q.2.req.addr) q.2.req.len, u ∈ lost → u / 16 ≠ page) :
    let t := demandFillComplete page lost recovered s
    MoveOver s t page ∧ ((tierOf t page).state = .plain ∧ (tierOf t page).frame = m.frame ∧ (tierOf t page).race = m.race)
      ∧ (∀ u ∈ lost, u / 16 = page → ∀ l, l / 64 = u → l ∈ t.store.poison) ∧ ∀ q, q ≠ page → tierOf t q = tierOf s q := by
  obtain ⟨b, hheld, hhw, htier, -, he⟩ := demandFillComplete_eq lost recovered hm hsrc hdest hon hleave
  obtain rfl := findMove_page hm
  have hlose : loseUnits m.page (lost.filter (fun u => u / 16 == m.page)) b =
      poisonLines (linesOfUnits (lost.filter (fun u => u / 16 == m.page))) b :=
    loseUnits_poisons (fun q hq hp u hu hl => by
      obtain ⟨hl, hpage⟩ := List.mem_filter.1 hl
      rw [hheld.parked] at hq
      exact hfree q hq hp u hu hl (eq_of_beq hpage))
  have hpois := poisonLines_poisoned (linesOfUnits (lost.filter (fun u => u / 16 == m.page))) b
  have hlines := poisonLines_poison (linesOfUnits (lost.filter (fun u => u / 16 == m.page))) b
  rw [hlose] at he
  generalize poisonLines (linesOfUnits (lost.filter (fun u => u / 16 == m.page))) b = c at he hpois hlines
  have hc := hheld.trans hpois.held
  have hcalm : Calm c := hpois.calm ((calm_of_settled hs).of_same htier hheld.wanted hheld.retired)
  obtain ⟨hover, hentry, hother, hpoison⟩ := nowPlain_spec hcalm (hc.firings.trans hs.2.2)
    (by rw [preferredRace_congr (hpois.hw.trans hhw), hrace]) (by rw [hc.retired]; exact hframe)
  have hfar : ∀ q, q ≠ m.page → q ∉ ((linesOfUnits (lost.filter (fun u => u / 16 == m.page))).map (· / 1024)).eraseDups := by
    intro q hq hin
    rw [List.mem_eraseDups, List.mem_map] at hin
    obtain ⟨l, hl, rfl⟩ := hin
    have hp := (List.mem_filter.1 (mem_linesOfUnits.1 hl)).2
    exact hq (by rw [← eq_of_beq hp]; omega)
  rw [he]
  refine ⟨hover.before hc, ?_, fun u hu hp l hl => ?_, fun q hq => ?_⟩
  · rw [hentry]
    exact ⟨rfl, rfl, rfl⟩
  · rw [hpoison, hlines, mem_insertAll]
    exact .inl (mem_linesOfUnits.2 (List.mem_filter.2 ⟨hl ▸ hu, by simp [hl, hp]⟩))
  · rw [hother q hq, hpois.other q (hfar q hq), tierOf, tierOf, htier]

end Sys2Proof.TierMoves
end

section
/-!
Steering (R69), counter epochs (R68) and the patrol scrub (R76): which pages a sweep takes, and what a failing row leaves.
-/
namespace Sys2Proof.SteerScrub

open Sys2Proof Sys2Proof.Machine Sys2Proof.Safety Sys2Proof.WeirSlots Sys2Proof.SluicePieces Sys2Proof.DurableWrites Sys2Proof.TierMoves

/-! ## Tables whose keys rise -/

/-- Keys in rising order. -/
def Rising (t : Tbl TierEntry) : Prop := t.Pairwise (fun a b => a.1 < b.1)

theorem rising_put {t : Tbl TierEntry} (h : Rising t) (k : Nat) (x : TierEntry) : Rising (Tbl.put t k x) := by
  induction t with
  | nil => exact List.pairwise_singleton _ _
  | cons y t ih =>
    obtain ⟨j, y⟩ := y
    obtain ⟨hfirst, hrest⟩ := List.pairwise_cons.1 h
    unfold Tbl.put
    split
    · next hk =>
      refine List.pairwise_cons.2 ⟨fun e he => ?_, h⟩
      rcases List.mem_cons.1 he with rfl | he
      · exact hk
      · exact Nat.lt_trans hk (hfirst e he)
    · split
      · next hk => exact List.pairwise_cons.2 ⟨fun e he => hk ▸ hfirst e he, hrest⟩
      · next hk hne =>
        refine List.pairwise_cons.2 ⟨fun e he => ?_, ih hrest⟩
        rcases mem_put he with he | rfl
        · exact hfirst e he
        · show j < k
          omega

/-- In such a table an entry is what its key reads. -/
theorem rising_get {t : Tbl TierEntry} (h : Rising t) {e : Nat × TierEntry} (he : e ∈ t) : Tbl.get {} t e.1 = e.2 := by
  induction t with
  | nil => cases he
  | cons y t ih =>
    obtain ⟨j, y⟩ := y
    obtain ⟨hfirst, hrest⟩ := List.pairwise_cons.1 h
    unfold Tbl.get
    rcases List.mem_cons.1 he with rfl | he
    · exact if_pos rfl
    · rw [if_neg (Nat.ne_of_lt (hfirst e he)), ih hrest he]

/-! ## Moves begun (R64) -/

theorem startMove_store (demand : Bool) (page : Nat) (dest : TierState) (frame race : Nat) (s : State) :
    (startMove demand page dest frame race s).store =
    { s.store with
      moves := s.store.moves ++ [{ page, src := (tierOf s page).state, dest, frame, race, left := (tierOf s page).race }]
      tier := Tbl.upd {} s.store.tier page (fun e => { e with state := .moving, race }) } := by
  simp only [startMove]
  split
  · rfl
  · split <;> rfl

/-- t is s after moves of some pages have begun: the moves under way are still so, and no other page's entry has changed. -/
structure Steered (pages : List Nat) (s t : State) : Prop where
  moves : s.store.moves ⊆ t.store.moves
  rising : Rising s.store.tier → Rising t.store.tier
  entry : ∀ q, q ∉ pages → tierOf t q = tierOf s q

theorem Steered.refl (pages : List Nat) (s : State) : Steered pages s s := ⟨List.Subset.refl _, id, fun _ _ => rfl⟩

theorem Steered.trans {ps qs rs : List Nat} {s t u : State} (h : Steered ps s t) (k : Steered qs t u) (hp : ps ⊆ rs) (hq : qs ⊆ rs) :
    Steered rs s u where
  moves := fun _ hm => k.moves (h.moves hm)
  rising := fun hr => k.rising (h.rising hr)
  entry := fun q hn => (k.entry q (fun hm => hn (hq hm))).trans (h.entry q (fun hm => hn (hp hm)))

theorem beginMove_steered (page : Nat) (dest : TierState) (frame race : Nat) (s : State) : Steered [page] s (beginMove page dest frame race s) := by
  have hstore := startMove_store false page dest frame race s
  refine ⟨?_, fun hr => ?_, fun q hq => ?_⟩
  · rw [beginMove, hstore]
    exact List.subset_append_left _ _
  · rw [beginMove, hstore]
    exact rising_put hr _ _
  · rw [tierOf, tierOf, beginMove, hstore]
    exact Tbl.get_upd_other {} s.store.tier page (fun e => { e with state := .moving, race }) q (by simpa using hq)

theorem expandPage_steered (page : Nat) (s : State) : Steered [page] s (expandPage page s) := by
  simp only [expandPage]
  split
  · split
    · exact beginMove_steered ..
    · exact .refl _ s
  · exact .refl _ s

theorem demotePage_steered (page : Nat) (s : State) : Steered [page] s (demotePage page s) := by
  unfold demotePage
  split
  · exact expandPage_steered page s
  · exact beginMove_steered ..

/-- A page that is not damaged and PLAIN starts a move to flash. -/
theorem demotePage_begins {s : State} {page : Nat} (hd : isDamaged s page = false) (hp : (tierOf s page).state = .plain) :
    ∃ m ∈ (demotePage page s).store.moves, m.page = page ∧ m.src = .plain ∧ m.dest = .flash := by
  rw [demotePage, hd, beginMove]
  simp only [Bool.false_eq_true, if_false, startMove_store]
  exact ⟨_, List.mem_append_right _ (List.mem_singleton_self _), rfl, hp, rfl⟩

/-! ## A sweep (R69) -/

theorem sweep_steered (high pool : Nat) (l : List (Nat × TierEntry)) (hand : Nat) (did : Bool) (s : State) :
    Steered (l.map (·.1)) s (sweep high pool l hand did s).2.2 := by
  induction l generalizing hand did s with
  | nil => exact .refl _ s
  | cons x l ih =>
    obtain ⟨page, e⟩ := x
    have hrest : l.map (·.1) ⊆ ((page, e) :: l).map (·.1) := List.subset_cons_self _ _
    have hthis : [page] ⊆ ((page, e) :: l).map (·.1) := by simp
    unfold sweep
    split
    · exact .refl _ s
    · split
      · exact (demotePage_steered page s).trans (ih _ _ _) hthis hrest
      · split
        · exact (beginMove_steered page .riffle 0 (tierOf s page).race s).trans (ih _ _ _) hthis hrest
        · exact (Steered.refl [] s).trans (ih _ _ _) (List.nil_subset _) hrest

/-- A sweep takes pages that are not pinned. -/
theorem mem_sweepList {s : State} {pool : Nat} {x : Nat × TierEntry} (h : x ∈ sweepList s pool) : x ∈ s.store.tier ∧ isPinned x.2 = false := by
  simp only [sweepList, fromHand, List.mem_append, List.mem_filter, resident] at h
  rcases h with ⟨⟨⟨hm, -⟩, hp⟩, -⟩ | ⟨⟨⟨hm, -⟩, hp⟩, -⟩ <;> exact ⟨hm, by simpa using hp⟩

theorem pinned_notSwept {s : State} {pool q : Nat} (hr : Rising s.store.tier) (hp : isPinned (tierOf s q) = true) :
    q ∉ (sweepList s pool).map (·.1) := by
  intro hq
  obtain ⟨x, hx, rfl⟩ := List.mem_map.1 hq
  obtain ⟨hm, hn⟩ := mem_sweepList hx
  rw [tierOf, rising_get hr hm, hn] at hp
  cases hp

theorem lowestCount_mem {l : List (Nat × TierEntry)} {x : Nat × TierEntry} (h : lowestCount l = some x) : x ∈ l := by
  induction l generalizing x with
  | nil => cases h
  | cons e l ih =>
    unfold lowestCount at h
    split at h
    · exact Option.some.inj h ▸ List.mem_cons_self
    · next f hf =>
      split at h
      · exact Option.some.inj h ▸ List.mem_cons_self
      · exact Option.some.inj h ▸ List.mem_cons_of_mem e (ih hf)

/-- What a sweep leaves: its state with the hand past the page last inspected. -/
def swept (pool : Nat) (r : Nat × Bool × State) : State := { r.2.2 with store := { r.2.2.store with hands := Tbl.put r.2.2.store.hands pool r.1 } }

/-- The lowest count of a sweep's pages demoted. -/
def demoteLowest (l : List (Nat × TierEntry)) (s : State) : State :=
  match lowestCount l with
  | some (page, _) => demotePage page s
  | none => s

/-- One round of the lower half: a sweep from the hand, and the lowest count where it did nothing. -/
def sweepRound (high pool : Nat) (s : State) : State :=
  let r := sweep high pool (sweepList s pool) (Tbl.get 0 s.store.hands pool) false s
  if r.2.1 then swept pool r else demoteLowest (sweepList s pool) (swept pool r)

theorem steerDown_succ (high pool n : Nat) (s : State) : steerDown high pool (n + 1) s =
    if high ≤ steerFree s pool || (sweepList s pool).isEmpty then s else steerDown high pool n (sweepRound high pool s) := rfl

theorem demoteLowest_steered (l : List (Nat × TierEntry)) (s : State) : Steered (l.map (·.1)) s (demoteLowest l s) := by
  unfold demoteLowest
  split
  · next page e hl =>
    refine (Steered.refl [] s).trans (demotePage_steered page s) (List.nil_subset _) ?_
    rintro _ hp
    rw [List.mem_singleton.1 hp]
    exact List.mem_map_of_mem (lowestCount_mem hl)
  · exact .refl _ s

/-- A round starts moves of pages of its sweep alone. -/
theorem sweepRound_steered (high pool : Nat) (s : State) : Steered ((sweepList s pool).map (·.1)) s (sweepRound high pool s) := by
  have hsweep := sweep_steered high pool (sweepList s pool) (Tbl.get 0 s.store.hands pool) false s
  unfold sweepRound
  generalize sweep high pool (sweepList s pool) (Tbl.get 0 s.store.hands pool) false s = r at hsweep
  have hswept : Steered ((sweepList s pool).map (·.1)) s (swept pool r) := ⟨hsweep.moves, hsweep.rising, hsweep.entry⟩
  simp only
  split
  · exact hswept
  · exact hswept.trans (demoteLowest_steered _ _) (List.Subset.refl _) (List.Subset.refl _)

/-- The lower half: moves under way stay so, and pinned pages keep their entries. -/
theorem steerDown_steered (high pool n : Nat) (s : State) : let t := steerDown high pool n s
    s.store.moves ⊆ t.store.moves ∧ ∀ q, isPinned (tierOf s q) = true → Rising s.store.tier → tierOf t q = tierOf s q := by
  induction n generalizing s with
  | zero => exact ⟨List.Subset.refl _, fun _ _ _ => rfl⟩
  | succ n ih =>
    rw [steerDown_succ]
    split
    · exact ⟨List.Subset.refl _, fun _ _ _ => rfl⟩
    · have hround := sweepRound_steered high pool s
      obtain ⟨hmoves, hpinned⟩ := ih (sweepRound high pool s)
      refine ⟨fun _ hm => hmoves (hround.moves hm), fun q hp hr => ?_⟩
      have hsame := hround.entry q (pinned_notSwept hr hp)
      exact (hpinned q (by rw [hsame]; exact hp) (hround.rising hr)).trans hsame

/-- The first page of a sweep below the high mark, counted below FLASH_BELOW, is demoted in its first round. -/
theorem sweepRound_first {high pool page : Nat} {e : TierEntry} {rest : List (Nat × TierEntry)} {s : State}
    (hl : sweepList s pool = (page, e) :: rest) (hf : steerFree s pool < high) (hc : e.count < s.hw.settings.flashBelow) :
    Steered (rest.map (·.1)) (demotePage page s) (sweepRound high pool s) := by
  have hrest := sweep_steered high pool rest (page + 1) true (demotePage page s)
  have hs : ∀ hand, sweep high pool ((page, e) :: rest) hand false s = sweep high pool rest (page + 1) true (demotePage page s) := fun hand => by
    rw [sweep, if_neg (by omega), if_pos hc]
  have hdid : ∀ (l : List (Nat × TierEntry)) (hand : Nat) (t : State), (sweep high pool l hand true t).2.1 = true := by
    intro l
    induction l with
    | nil => exact fun _ _ => rfl
    | cons x l ih =>
      intro hand t
      unfold sweep
      split
      · rfl
      · split
        · exact ih _ _
        · split <;> exact ih _ _
  have hsweep : sweepRound high pool s = swept pool (sweep high pool rest (page + 1) true (demotePage page s)) := by
    simp only [sweepRound, hl, hs, hdid, if_true]
  rw [hsweep]
  exact ⟨hrest.moves, hrest.rising, hrest.entry⟩

/-! ## COUNTER_EPOCH (R68) -/

/-- Where the default is a fixed point, every entry is changed, those that are not held among them. -/
theorem get_mapVal_fixed {α : Type} {d : α} {f : α → α} (hd : f d = d) (t : Tbl α) (k : Nat) : Tbl.get d (Tbl.mapVal f t) k = f (Tbl.get d t k) := by
  induction t with
  | nil => exact hd.symm
  | cons y t ih =>
    obtain ⟨j, y⟩ := y
    simp only [Tbl.mapVal, List.map_cons, Tbl.get]
    split
    · rfl
    · exact ih

theorem tierOf_counterEpoch (s : State) (page : Nat) :
    tierOf (counterEpoch s) page = { tierOf s page with count := (tierOf s page).count / 2, riffleNo := false } :=
  get_mapVal_fixed (f := fun e : TierEntry => { e with count := e.count / 2, riffleNo := false }) rfl s.store.tier page

/-! ## Rows that fail (R76) -/

/-- t is s after frames were retired: pages, moves and the failing rows are as they were, and what is retired or logged stays so. -/
structure FramesRetired (s t : State) : Prop where
  tier : t.store.tier = s.store.tier
  moves : t.store.moves = s.store.moves
  poison : t.store.poison = s.store.poison
  nv : t.nv = s.nv
  retired : s.store.retired ⊆ t.store.retired
  logged : s.keeper.buf ⊆ t.keeper.buf

theorem FramesRetired.trans {s t u : State} (h : FramesRetired s t) (k : FramesRetired t u) : FramesRetired s u where
  tier := k.tier.trans h.tier
  moves := k.moves.trans h.moves
  poison := k.poison.trans h.poison
  nv := k.nv.trans h.nv
  retired := fun _ hf => k.retired (h.retired hf)
  logged := fun _ he => k.logged (h.logged he)

theorem logEv_buf_subset (code sev party st a b : Nat) (s : State) : s.keeper.buf ⊆ (logEv code sev party st a b s).keeper.buf := by
  unfold logEv
  split
  · exact List.subset_append_left _ _
  · split <;> exact List.Subset.refl _

/-- A level noted drops nothing of the log. -/
theorem noteLevel_buf_subset (x : Sensor) (reading : Int) (l : Level) (s : State) : s.keeper.buf ⊆ (noteLevel x reading l s).keeper.buf := by
  have hlog : ∀ (t : State) (code sev party st a b : Nat), s.keeper.buf ⊆ t.keeper.buf → s.keeper.buf ⊆ (logEv code sev party st a b t).keeper.buf :=
    fun t code sev party st a b h => List.Subset.trans h (logEv_buf_subset code sev party st a b t)
  unfold noteLevel
  extract_lets old l' rest levels dbl src s1 s2
  have h2 : s.keeper.buf ⊆ s2.keeper.buf := by
    unfold s2
    split <;> exact List.Subset.refl _
  split
  split
  · split
    · exact hlog _ _ _ _ _ _ _ (hlog _ _ _ _ _ _ _ h2)
    · exact hlog _ _ _ _ _ _ _ h2
  · split
    · exact hlog _ _ _ _ _ _ _ h2
    · exact h2

theorem retire_spec (pool frame : Nat) (s : State) : FramesRetired s (retire pool frame s) ∧ frame ∈ (retire pool frame s).store.retired := by
  obtain ⟨u, hu⟩ : ∃ u : State, u = { s with store := { s.store with
      badFrames := removeNat frame s.store.badFrames, retired := insertNat frame s.store.retired } } := ⟨_, rfl⟩
  have hstore : (retire pool frame s).store = u.store := by
    rw [hu]
    exact store_eq (retirementAlarm_keeps (g := .store) rfl pool _ (.refl _ _)) (retirementAlarm_keeps (g := .bytes) rfl pool _ (.refl _ _))
  have hnv : (retire pool frame s).nv = u.nv := by
    rw [hu]
    exact nv_eq (retirementAlarm_keeps (g := .fuses) rfl pool _ (.refl _ _)) (retirementAlarm_keeps (g := .ident) rfl pool _ (.refl _ _))
      (retirementAlarm_keeps (g := .nvLog) rfl pool _ (.refl _ _)) (retirementAlarm_keeps (g := .nvStore) rfl pool _ (.refl _ _))
  have hbuf : u.keeper.buf ⊆ (retire pool frame s).keeper.buf := by
    rw [hu]
    exact noteLevel_buf_subset _ _ _ _
  refine ⟨⟨?_, ?_, ?_, ?_, fun f hf => ?_, ?_⟩, ?_⟩
  · rw [hstore, hu]
  · rw [hstore, hu]
  · rw [hstore, hu]
  · rw [hnv, hu]
  · rw [hstore, hu]
    exact (mem_insertNat _ _ _).2 (.inr hf)
  · rw [hu] at hbuf
    exact hbuf
  · rw [hstore, hu]
    exact (mem_insertNat _ _ _).2 (.inl rfl)

/-- No page lies in any of these frames, nor is on its way into one. -/
def Vacant (s : State) (frames : List Nat) : Prop :=
  (∀ e ∈ s.store.tier, e.2.state = .plain → e.2.frame ∉ frames) ∧ ∀ m ∈ s.store.moves, m.dest = .plain → m.frame ∉ frames

theorem retireFrame_vacant {s : State} {frame : Nat} {frames : List Nat} (h : Vacant s frames) (hf : frame ∈ frames) (pool : Nat) :
    retireFrame pool frame s = retire pool frame s := by
  have htier : s.store.tier.find? (fun e => e.2.state == .plain && e.2.frame == frame) = none :=
    List.find?_eq_none.2 (fun e he hp => by
      simp only [Bool.and_eq_true, beq_iff_eq] at hp
      exact h.1 e he hp.1 (hp.2 ▸ hf))
  have hmove : s.store.moves.find? (fun m => m.dest == .plain && m.frame == frame) = none :=
    List.find?_eq_none.2 (fun m hm hp => by
      simp only [Bool.and_eq_true, beq_iff_eq] at hp
      exact h.2 m hm hp.1 (hp.2 ▸ hf))
  simp only [retireFrame, pageIn, htier, hmove, Option.map_none]

/-- Vacant frames retired one after the other. -/
theorem retireFrames_spec (pool : Nat) (frames all : List Nat) (hsub : frames ⊆ all) (s : State) (h : Vacant s all) :
    let t := frames.foldl (fun s f => retireFrame pool f s) s
    FramesRetired s t ∧ ∀ f ∈ frames, f ∈ t.store.retired := by
  induction frames generalizing s with
  | nil => exact ⟨⟨rfl, rfl, rfl, rfl, List.Subset.refl _, List.Subset.refl _⟩, fun _ hf => nomatch hf⟩
  | cons f fs ih =>
    obtain ⟨hone, hin⟩ := retire_spec pool f s
    have hv : Vacant (retire pool f s) all := by rw [Vacant, hone.tier, hone.moves]; exact h
    obtain ⟨hrest, hall⟩ := ih (fun x hx => hsub (List.mem_cons_of_mem f hx)) (retire pool f s) hv
    rw [List.foldl_cons, retireFrame_vacant h (hsub List.mem_cons_self)]
    refine ⟨hone.trans hrest, fun x hx => ?_⟩
    rcases List.mem_cons.1 hx with rfl | hx
    · exact hrest.retired hin
    · exact hall x hx

/-- A failing row: logged, entered in the list of such rows, and its vacant frames retired. -/
theorem failRowAt_spec {s : State} {n pool : Nat} {frames : List Nat} (hup : s.keeper.up = true) (hlen : s.nv.retiredRows.length < 4096)
    (hv : Vacant s frames) : let t := failRowAt n pool frames s
    (∀ f ∈ frames, f ∈ t.store.retired) ∧ t.store.poison = s.store.poison ∧ t.nv.retiredRows = s.nv.retiredRows ++ [(n, frames)]
      ∧ ∃ e ∈ t.keeper.buf, e.code = 0x0501 ∧ e.arg0 = n := by
  obtain ⟨u, hu⟩ : ∃ u, u = logEv 0x0501 sevWarning (poolParty s pool) 0 n (poolParty s pool) s := ⟨_, rfl⟩
  have hstore : u.store = s.store := by rw [hu, logEv_store]
  have hnv : u.nv = s.nv := by rw [hu, logEv_nv]
  have hbuf : ∃ e ∈ u.keeper.buf, e.code = 0x0501 ∧ e.arg0 = n := by
    rw [hu, logEv, if_pos hup]
    exact ⟨_, List.mem_append_right _ (List.mem_singleton_self _), rfl, rfl⟩
  have hl : u.nv.retiredRows.length < 4096 := by rw [hnv]; exact hlen
  have he : failRowAt n pool frames s = frames.foldl (fun s f => retireFrame pool f s)
      { u with nv := { u.nv with retiredRows := u.nv.retiredRows ++ [(n, frames)] } } := by
    simp only [failRowAt, ← hu, hl, if_true]
  obtain ⟨hret, hall⟩ := retireFrames_spec pool frames frames (List.Subset.refl _)
    { u with nv := { u.nv with retiredRows := u.nv.retiredRows ++ [(n, frames)] } } (by rw [Vacant, hstore]; exact hv)
  rw [he]
  refine ⟨hall, ?_, ?_, ?_⟩
  · rw [hret.poison, hstore]
  · rw [hret.nv, hnv]
  · obtain ⟨e, hin, hcode⟩ := hbuf
    exact ⟨e, hret.logged hin, hcode⟩

/-! ## SCRUB (R76) -/

/-- Passes in which a row had corrections, this one among them. -/
def passesOf (x : ScrubRow) (s : State) : Nat := Tbl.get 0 s.store.rowPasses (rowNumber x) + (if x.corrected == 0 then 0 else 1)

/-- A row's corrections counted. -/
def scrubCounted (x : ScrubRow) (s : State) : State :=
  { s with store := { s.store with
    correctedErr := Tbl.upd 0 s.store.correctedErr (rowPool s x) (· + x.corrected)
    rowPasses := if x.corrected == 0 then s.store.rowPasses else Tbl.put s.store.rowPasses (rowNumber x) (passesOf x s) } }

theorem scrub_eq (x : ScrubRow) (s : State) : scrub x s =
    if 3 ≤ passesOf x s || 16 ≤ x.corrected || !(rowLines s x).isEmpty then failRow x (poisonLines (rowLines s x) (scrubCounted x s))
    else poisonLines (rowLines s x) (scrubCounted x s) := rfl

theorem scrubCounted_counts (x : ScrubRow) (s : State) : let t := scrubCounted x s
    Tbl.get 0 t.store.correctedErr (rowPool s x) = Tbl.get 0 s.store.correctedErr (rowPool s x) + x.corrected
      ∧ Tbl.get 0 t.store.rowPasses (rowNumber x) = Tbl.get 0 s.store.rowPasses (rowNumber x) + (if x.corrected = 0 then 0 else 1) := by
  refine ⟨Tbl.get_upd_same 0 s.store.correctedErr (rowPool s x) (· + x.corrected), ?_⟩
  by_cases hc : x.corrected = 0
  · simp [scrubCounted, hc]
  · simp [scrubCounted, hc, passesOf]

/-- The patrol read of a race is over. -/
def patrolled (x : ScrubRow) (s : State) : State := { s with weir := { s.weir with flashOn := s.weir.flashOn.erase (x.race.val, .scrub) } }

theorem execScrub_admitted {x : ScrubRow} {s : State} (h : (x.race.val, FlashWork.scrub) ∈ s.weir.flashOn) :
    execScrub x s = .next (scrub x (patrolled x s)) :=
  congrArg Host.Outcome.next (if_pos (List.contains_iff_mem.2 h))

theorem execScrub_idle {x : ScrubRow} {s : State} (h : (x.race.val, FlashWork.scrub) ∉ s.weir.flashOn) : execScrub x s = .next s :=
  congrArg Host.Outcome.next (if_neg (fun hc => h (List.contains_iff_mem.1 hc)))

/-- A row with nothing the matter is counted alone. -/
theorem scrub_good {x : ScrubRow} {s : State} (hl : rowLines s x = []) (hc : x.corrected < 16) (hp : Tbl.get 0 s.store.rowPasses (rowNumber x) < 2) :
    scrub x s = scrubCounted x s := by
  have hpass : passesOf x s < 3 := by unfold passesOf; split <;> omega
  have hn : (decide (3 ≤ passesOf x s) || decide (16 ≤ x.corrected) || !([] : List Nat).isEmpty) = false := by
    simp only [List.isEmpty_nil, Bool.not_true, Bool.or_false, Bool.or_eq_false_iff, decide_eq_false_iff_not]
    omega
  rw [scrub_eq, hl, hn]
  rfl

/-- A failing row that is not in the list yet: its lines are poisoned, and it is logged, entered and its vacant frames retired. -/
theorem scrub_fails {x : ScrubRow} {s : State}
    (hbad : rowLines s x ≠ [] ∨ 16 ≤ x.corrected ∨ (2 ≤ Tbl.get 0 s.store.rowPasses (rowNumber x) ∧ x.corrected ≠ 0))
    (hnew : ∀ r ∈ s.nv.retiredRows, r.1 ≠ rowNumber x) (hlen : s.nv.retiredRows.length < 4096) (hup : s.keeper.up = true)
    (hv : Vacant s (rowFrames s x)) : let t := scrub x s
    (∀ l ∈ rowLines s x, l ∈ t.store.poison) ∧ (∀ f ∈ rowFrames s x, f ∈ t.store.retired)
      ∧ t.nv.retiredRows = s.nv.retiredRows ++ [(rowNumber x, rowFrames s x)] ∧ ∃ e ∈ t.keeper.buf, e.code = 0x0501 ∧ e.arg0 = rowNumber x := by
  have hfail : (decide (3 ≤ passesOf x s) || decide (16 ≤ x.corrected) || !(rowLines s x).isEmpty) = true := by
    simp only [Bool.or_eq_true, decide_eq_true_eq, Bool.not_eq_true', List.isEmpty_eq_false_iff]
    rcases hbad with h | h | ⟨h, hc⟩
    · exact .inr h
    · exact .inl (.inr h)
    · exact .inl (.inl (by simp only [passesOf, beq_iff_eq, hc, if_false]; omega))
  obtain ⟨u, hu⟩ : ∃ u, u = poisonLines (rowLines s x) (scrubCounted x s) := ⟨_, rfl⟩
  have hpois := poisonLines_poisoned (rowLines s x) (scrubCounted x s)
  have hlines := poisonLines_poison (rowLines s x) (scrubCounted x s)
  rw [← hu] at hpois hlines
  have hnv : u.nv = s.nv := by
    rw [hu]
    exact nv_eq (poisonLines_keeps (g := .fuses) rfl _ (scrubCounted x s) (.refl .fuses s))
      (poisonLines_keeps (g := .ident) rfl _ (scrubCounted x s) (.refl .ident s))
      (poisonLines_keeps (g := .nvLog) rfl _ (scrubCounted x s) (.refl .nvLog s))
      (poisonLines_keeps (g := .nvStore) rfl _ (scrubCounted x s) (.refl .nvStore s))
  have hkeeper : u.keeper = s.keeper := by
    rw [hu]
    exact keeper_eq (poisonLines_keeps (g := .keepLog) rfl _ (scrubCounted x s) (.refl .keepLog s))
      (poisonLines_keeps (g := .keeper) rfl _ (scrubCounted x s) (.refl .keeper s))
  have hframes : rowFrames u x = rowFrames s x := by simp only [rowFrames, setOfFrame, hpois.hw, scrubCounted]
  have hmoves : u.store.moves = s.store.moves := by
    rw [hu]
    exact (congrArg StoreSt.moves (restOf_poisonLines (rowLines s x) (scrubCounted x s)) :)
  have hvu : Vacant u (rowFrames s x) := by
    refine ⟨fun e he hp => ?_, by rw [hmoves]; exact hv.2⟩
    obtain ⟨e₀, b, h₀, hb⟩ := hpois.each e he
    rw [hb] at hp ⊢
    rcases h₀ with rfl | ⟨q, hm⟩
    · cases hp
    · exact hv.1 _ hm hp
  have hnot : u.nv.retiredRows.any (fun r => r.1 == rowNumber x) = false := by
    rw [hnv, List.any_eq_false]
    exact fun r hr h => hnew r hr (eq_of_beq h)
  have he : scrub x s = failRowAt (rowNumber x) (rowPool u x) (rowFrames s x) u := by
    rw [scrub_eq, hfail, if_pos rfl, ← hu, failRow]
    simp only [hnot, Bool.false_eq_true, if_false, hframes]
  obtain ⟨hall, hp, hrows, hlog⟩ := failRowAt_spec (n := rowNumber x) (pool := rowPool u x) (by rw [hkeeper]; exact hup) (by rw [hnv]; exact hlen) hvu
  rw [he]
  refine ⟨fun l hl => ?_, hall, by rw [hrows, hnv], hlog⟩
  rw [hp, hlines, mem_insertAll]
  exact .inl hl

/-! ## The statement -/

/-- Between the marks steering does nothing (R69). -/
theorem steer_between {s : State} {pool : Nat} (hl : waterMark s pool s.hw.settings.lowWater ≤ freeCount s pool)
    (hh : freeCount s pool ≤ waterMark s pool s.hw.settings.highWater) : steer pool s = s := by
  simp only [steer, hl, if_true]
  cases resident s pool with
  | nil => rfl
  | cons x l => exact if_pos hh

theorem steer_below {s : State} {pool : Nat} (hl : freeCount s pool < waterMark s pool s.hw.settings.lowWater) :
    steer pool s = steerDown (waterMark s pool s.hw.settings.highWater) pool ((resident s pool).length + 1) s :=
  if_neg (by omega)

/-- The first page from the hand starts its move to flash. -/
theorem steer_demotes {s : State} {pool page : Nat} {e : TierEntry} {rest : List (Nat × TierEntry)}
    (hl : freeCount s pool < waterMark s pool s.hw.settings.lowWater) (hf : steerFree s pool < waterMark s pool s.hw.settings.highWater)
    (hsweep : sweepList s pool = (page, e) :: rest) (hp : e.state = .plain) (he : tierOf s page = e) (hc : e.count < s.hw.settings.flashBelow)
    (hd : isDamaged s page = false) : ∃ m ∈ (steer pool s).store.moves, m.page = page ∧ m.src = .plain ∧ m.dest = .flash := by
  obtain ⟨m, hm, hmove⟩ := demotePage_begins hd (he ▸ hp)
  have hgo : (decide (waterMark s pool s.hw.settings.highWater ≤ steerFree s pool) || (sweepList s pool).isEmpty) = false := by
    rw [hsweep, List.isEmpty_cons, Bool.or_false, decide_eq_false_iff_not]
    omega
  have hround := sweepRound_first hsweep hf hc
  obtain ⟨hmoves, -⟩ := steerDown_steered (waterMark s pool s.hw.settings.highWater) pool (resident s pool).length
    (sweepRound (waterMark s pool s.hw.settings.highWater) pool s)
  refine ⟨m, ?_, hmove⟩
  rw [steer_below hl, steerDown_succ, hgo]
  exact hmoves (hround.moves hm)

/-- Settles O27: a fill and a move by what the end of a move leaves, steering by the moves that a sweep begins, the scrub by the frames it
retires. That a SCRUB not admitted changes nothing is log entry 4, and that the held requests go on in front of those admitted later, those
of the fill list first, log entry 25. -/
theorem tierPagesMove : Obligations.TierPagesMove := by
  unfold Obligations.TierPagesMove
  refine ⟨fun s page lost recovered m hq hrace hm hsrc hdest hon hleave hs hframe hfree => ?_,
    fun s page granules m hq hm hsrc hdest hpin hon hs htxn hframe hdam => ?_,
    fun s pool => ⟨fun hl hh => ?_, fun page e rest hl hf hw hp he hc hd _ => ?_, ?_⟩,
    fun s => ⟨_, rfl, tierOf_counterEpoch s⟩, fun s x => ⟨fun h => ⟨s, execScrub_idle h, rfl⟩, fun h hl hc hp => ?_,
    fun h hbad hnew hlen hup htier hmoves => ?_⟩⟩
  · obtain ⟨hover, ⟨hstate, hfr, hrc⟩, hpoison, hother⟩ := demandFillComplete_plain recovered hm hsrc hdest hon hleave hrace hs hframe hfree
    have hpump := pump_quiet (s := demandFillComplete page lost recovered s) (by rw [hover.landed]; exact hq.2)
    exact ⟨_, congrArg Host.Outcome.next hpump, hstate, hfr, hrc, hover.gone, hover.goOn, hpoison, hother⟩
  · obtain ⟨hover, hends⟩ := tierMoveComplete_ends granules ⟨hm, hsrc, hpin, hon, hs, htxn⟩ hdest hframe hdam
    have hpump := pump_quiet (s := tierMoveComplete page granules s) (by rw [hover.landed]; exact hq.2)
    exact ⟨_, congrArg Host.Outcome.next hpump, hover.gone, hover.goOn, hends⟩
  · exact ⟨s, congrArg Host.Outcome.next (steer_between hl hh), rfl⟩
  · exact ⟨_, rfl, steer_demotes hl hf hw hp he hc hd⟩
  · refine ⟨_, rfl, fun hl q hp hr => ?_⟩
    rw [steer_below hl]
    exact (steerDown_steered _ _ _ s).2 q hp hr
  · obtain ⟨herr, hpass⟩ := scrubCounted_counts x s
    refine ⟨_, (execScrub_admitted h).trans (congrArg Host.Outcome.next (scrub_good (s := patrolled x s) hl hc hp)),
      herr, hpass, rfl, rfl, rfl, rfl, rfl⟩
  · exact ⟨_, execScrub_admitted h, scrub_fails (s := patrolled x s) hbad hnew hlen hup ⟨htier, hmoves⟩⟩

end Sys2Proof.SteerScrub
end

section
/-!
The Ezlet links as the state holds them (R93 to R106): an update of one link leaves every other, an operation that names no link leaves all
of them, and the operations that place CONF entries change nothing else of a link.
-/
namespace Sys2Proof.LinkStates

open Sys2Proof Sys2Proof.Machine Sys2Proof.Safety

/-! ## A link read after an update -/

@[simp] theorem link_updLink_same (l : Nat) (f : Link → Link) (s : State) : (updLink l f s).link l = f (s.link l) :=
  Tbl.get_upd_same _ _ _ _

theorem link_updLink_other {l m : Nat} (h : m ≠ l) (f : Link → Link) (s : State) : (updLink l f s).link m = s.link m :=
  Tbl.get_upd_other _ _ _ _ _ h

theorem link_of_links {s t : State} (h : t.net.links = s.net.links) (m : Nat) : t.link m = s.link m := by
  unfold State.link
  rw [h]

theorem link_of_keeps {s t : State} (h : Keeps .links s t) (m : Nat) : t.link m = s.link m :=
  link_of_links (congrArg (fun n : NetSt => n.links) (show linksPart t.net = linksPart s.net from h) :) m

@[simp] theorem link_refreshPorts (s : State) (m : Nat) : (refreshPorts s).link m = s.link m := rfl

@[simp] theorem link_remap (p : Nat) (s : State) (m : Nat) : (remap p s).link m = s.link m := rfl

@[simp] theorem link_rereadCancelled (l : Nat) (s : State) (m : Nat) : (rereadCancelled l s).link m = s.link m :=
  link_of_keeps (rereadCancelled_keeps (g := .links) rfl l s (.refl _ s)) m

@[simp] theorem link_logEv (code sev party st a b : Nat) (s : State) (m : Nat) : (logEv code sev party st a b s).link m = s.link m :=
  link_of_links (by rw [logEv_net]) m

/-! ## CONF entries placed on links (R137) -/

theorem updLink_confs_link (l : Nat) (c : Link → List (Nat × Nat)) (s : State) (m : Nat) :
    ∃ d, (updLink l (fun k => { k with confs := c k }) s).link m = { s.link m with confs := d } := by
  by_cases h : m = l
  · subst h
    exact ⟨_, link_updLink_same _ _ _⟩
  · exact ⟨(s.link m).confs, link_updLink_other h _ _⟩

theorem confEntry_link (p : PTagUse) (action : Nat) (s : State) (m : Nat) :
    ∃ d, (confEntry p action s).link m = { s.link m with confs := d } := updLink_confs_link _ _ s m

theorem confEntries_link (ps : List PTagUse) (action : Nat) (s : State) (m : Nat) :
    ∃ d, (ps.foldl (fun s p => confEntry p action s) s).link m = { s.link m with confs := d } := by
  induction ps generalizing s with
  | nil => exact ⟨(s.link m).confs, rfl⟩
  | cons p ps ih =>
    obtain ⟨d, hd⟩ := ih (confEntry p action s)
    obtain ⟨c, hc⟩ := confEntry_link p action s m
    exact ⟨d, hd.trans (by rw [hc])⟩

/-! ## Retraining and leaving (R101, R413) -/

/-- A link that has begun to retrain. -/
def retrainBegun (k : Link) : Link :=
  { k with mode := .retraining, discarding := false, nakTimer := false, peerNaks := 0, nakCount := 0
           counters := { k.counters with retrains := min 0xFFFF (k.counters.retrains + 1) } }

theorem retrainLink_link (l : Nat) (s : State) : ∃ d, (retrainLink l s).link l = { retrainBegun (s.link l) with confs := d } := by
  have hu : (updLink l retrainBegun s).link l = retrainBegun (s.link l) := link_updLink_same _ _ _
  obtain ⟨d, hd⟩ := confEntries_link ((updLink l retrainBegun s).net.ptags.filter (fun p => p.link == l && p.answered && !p.resolved)) 2
    (updLink l retrainBegun s) l
  exact ⟨d, hd.trans (by rw [hu])⟩

theorem retrains (l : Fin 32) (s : State) : Retrains l s (refreshPorts (retrainLink l s)) := by
  obtain ⟨d, hd⟩ := retrainLink_link l s
  unfold Retrains
  rw [link_refreshPorts, hd]
  exact ⟨rfl, rfl, rfl, rfl, rfl⟩

/-- A link that has left its port. -/
def departed (k : Link) : Link :=
  { k with inPort := false, mode := .down, kept := [], tx := [], confs := [], answers := [], ansTags := []
           retryDue := true, replayAt := none, discarding := false, retrainFails := 0 }

/-- What leaving does to the links: the link departs and retrains without being up, and its CONF entries go to another one. -/
theorem leavePort_eq {l p : Nat} {s : State} (h : portOf s l = some p) (reason : Nat) :
    ∃ other t, leavePort l reason s = refreshPorts (logEv 0x0602 sevWarning 15 0 l reason
        (updLink other (fun m => { m with confs := m.confs ++ (s.link l).confs ++ (s.link l).kept.flatMap (·.confs) })
          (updLink l (fun k => { k with mode := .down }) (rereadCancelled l (retrainLink l t)))))
      ∧ t.net.links = (updLink l departed s).net.links := by
  unfold leavePort
  rw [h]
  exact ⟨_, _, rfl, rfl⟩

theorem leavePort_link {l p : Nat} {s : State} (h : portOf s l = some p) (reason : Nat) :
    ∃ d, (leavePort l reason s).link l = { retrainBegun (departed (s.link l)) with mode := .down, confs := d } := by
  obtain ⟨other, t, he, ht⟩ := leavePort_eq h reason
  obtain ⟨c, hc⟩ := retrainLink_link l t
  obtain ⟨d, hd⟩ := updLink_confs_link other (fun m => m.confs ++ (s.link l).confs ++ (s.link l).kept.flatMap (·.confs))
    (updLink l (fun k => { k with mode := .down }) (rereadCancelled l (retrainLink l t))) l
  have hdep : t.link l = departed (s.link l) := (link_of_links ht l).trans (link_updLink_same _ _ _)
  exact ⟨d, by rw [he, link_refreshPorts, link_logEv, hd, link_updLink_same, link_rereadCancelled, hc, hdep]⟩

/-! ## NAKs (R99, R101) -/

/-- A link whose receiver has set NAK. -/
def nakSet (k : Link) : Link :=
  { k with sendNak := true, discarding := true, replaySeen := none, nakCount := k.nakCount + 1
           counters := { k.counters with naks := min 0xFFFFFFFF (k.counters.naks + 1) } }

theorem nakLink_below {l : Nat} {s : State} (h : (s.link l).nakCount < 7) : nakLink l s = updLink l nakSet s := by
  have hn : ¬ 8 ≤ ((updLink l nakSet s).link l).nakCount := by
    rw [link_updLink_same]
    simp only [nakSet]
    omega
  exact if_neg hn

theorem nakLink_eighth {l : Nat} {s : State} (h : 7 ≤ (s.link l).nakCount) : nakLink l s = refreshPorts (retrainLink l (updLink l nakSet s)) := by
  have hn : 8 ≤ ((updLink l nakSet s).link l).nakCount := by
    rw [link_updLink_same]
    simp only [nakSet]
    omega
  exact if_pos hn

end Sys2Proof.LinkStates
end

section
/-!
Links that retrain and leave their ports (R99, R101, R413): each command by what it does to its link.
-/
namespace Sys2Proof.LinkRetrains

open Sys2Proof Sys2Proof.Machine Sys2Proof.Safety Sys2Proof.LinkStates

theorem exec_nakTimeout {s : State} {l : Fin 32} (ht : (s.link l).nakTimer = true) (hd : (s.link l).discarding = true) :
    exec (.nakTimeout l) s = .next (nakLink l s) := congrArg Host.Outcome.next (if_pos (by simp [ht, hd]))

theorem exec_retrains {c : Instr} {s : State} {l : Fin 32} (h : exec c s = .next (refreshPorts (retrainLink l s))) : Completes c s (Retrains l s) :=
  ⟨_, h, retrains l s⟩

/-- A link that has been retrained: it replays from its oldest flit, whose CONF entries and those behind it wait again. -/
def retrained (k : Link) : Link :=
  { k with mode := if k.helloGot then .up else .helloWait, replayAt := k.kept.head?.map (·.seq), retrainFails := 0
           confs := k.kept.flatMap (·.confs) ++ k.confs, kept := k.kept.map (fun x => { x with confs := [] }) }

theorem exec_retrainComplete {s : State} {l : Fin 32} (h : (s.link l).mode = .retraining) : ∃ t, exec (.retrainComplete l) s = .next t
    ∧ t.link l = retrained (s.link l) ∧ ∀ m : Nat, m ≠ l → t.link m = s.link m := by
  have he : exec (.retrainComplete l) s = execRetrainComplete l s := rfl
  have hm : ((s.link l).mode != .retraining) = false := by rw [h]; rfl
  refine ⟨_, he.trans (congrArg Host.Outcome.next (if_neg (by simp [hm]))), ?_, fun m hne => ?_⟩
  · rw [link_rereadCancelled, link_refreshPorts, link_remap, link_updLink_same]
    rfl
  · rw [link_rereadCancelled, link_refreshPorts, link_remap, link_updLink_other hne]

theorem exec_retrainFailed {s : State} {l : Fin 32} (h : (s.link l).mode = .retraining) : exec (.retrainFailed l) s = .next
    (if 3 ≤ (s.link l).retrainFails + 1 then leavePort l 1 s
      else refreshPorts (updLink l (fun k => { k with retrainFails := (s.link l).retrainFails + 1, mode := .retraining }) s)) := by
  have he : exec (.retrainFailed l) s = execRetrainFailed l s := rfl
  exact he.trans (congrArg Host.Outcome.next (if_neg (by simp [h])))

/-- Settles O13: NAKs below and at the eighth, then each way into and out of a retrain, by the link that it leaves. -/
theorem linksRetrainAndLeave : Obligations.LinksRetrainAndLeave := by
  unfold Obligations.LinksRetrainAndLeave
  refine ⟨fun s l ht hd => ?_, fun s l hm hk => exec_retrains (congrArg Host.Outcome.next (if_neg ?_)),
    fun s l n hm => exec_retrains (congrArg Host.Outcome.next (if_neg ?_)), fun s l hm => ?_, fun s l hm => ⟨fun hn => ?_, fun p hn hp => ?_⟩⟩
  · refine ⟨_, exec_nakTimeout ht hd, ?_⟩
    beta_reduce
    by_cases hn : (s.link l).nakCount < 7
    · rw [nakLink_below hn, link_updLink_same]
      exact ⟨rfl, rfl, fun _ => ⟨rfl, rfl, rfl⟩, fun h => absurd hn (Nat.not_lt.2 h)⟩
    · obtain ⟨d, hl⟩ := retrainLink_link l (updLink l nakSet s)
      rw [nakLink_eighth (Nat.not_lt.1 hn), link_refreshPorts, hl, link_updLink_same]
      exact ⟨rfl, rfl, fun h => absurd h hn, fun _ => rfl⟩
  · simp [isTrained, hm, hk]
  · simp [isTrained, hm]
  · obtain ⟨t, he, hl, ho⟩ := exec_retrainComplete hm
    refine ⟨t, he, ?_⟩
    beta_reduce
    rw [hl]
    exact ⟨rfl, rfl, rfl, rfl, rfl, ho⟩
  · refine ⟨_, (exec_retrainFailed hm).trans (congrArg Host.Outcome.next (if_neg (by omega))), ?_⟩
    beta_reduce
    rw [link_refreshPorts, link_updLink_same]
    exact ⟨rfl, rfl⟩
  · obtain ⟨d, hl⟩ := leavePort_link hp 1
    refine ⟨_, (exec_retrainFailed hm).trans (congrArg Host.Outcome.next (if_pos (by omega))), ?_⟩
    beta_reduce
    rw [hl]
    exact ⟨rfl, rfl, rfl, rfl⟩

end Sys2Proof.LinkRetrains
end

section
/-!
Flits sent (R93, R94, R98 to R100, R422). Each kind of flit, the hello flit, a replay, an empty one and a sequenced one, is said to take its slot: one
flit of sixteen cells goes out, the NAK with it, and nothing waits or is woken at the weir.
-/
namespace Sys2Proof.FlitsSent

open Sys2Proof Sys2Proof.Machine Sys2Proof.Safety Sys2Proof.WeirSlots Sys2Proof.LinkStates

/-! ## The cells of a flit -/

theorem layCells_length (reqs rsps data : List Cell) : (layCells reqs rsps data).length = 14 := by
  simp [layCells, rangeFrom]

theorem sealFlit_head (c0 : Cell) (cells : List Cell) (ans : Cell) :
    nth {} (sealFlit ([c0] ++ cells ++ [ans])) 0 = c0 := by
  simp [sealFlit, nth]

/-- Cell 0 of a flit says whether it is sequenced (Table 04-2). -/
theorem cell0_unsequenced (k : Link) (seq : Nat) : flag (cell0 k seq false false 0).w0 38 = false := by
  simp only [flag, bit, cell0, at', b2n, BitVec.toNat_ofNat, Bool.false_eq_true, if_false, beq_eq_false_iff_ne]
  omega

/-- One flit with these cells between cell 0 and the answer cell goes out on the link. -/
def CellsOut (l : Nat) (cells : List Cell) (s t : State) : Prop :=
  ∃ c0 ans, t.out = s.out ++ [.flit l { cells := sealFlit ([c0] ++ cells ++ [ans]) }]

theorem flitGood_sealed (c0 : Cell) {cells : List Cell} (h : cells.length = 14) (ans : Cell) :
    flitGood { cells := sealFlit ([c0] ++ cells ++ [ans]) } = true := sealFlit_good (by simp [h])

/-! ## The kinds of flits -/

/-- A flit of these cells takes the slot of the link. -/
structure TakesSlot (l : Nat) (cells : List Cell) (s t : State) : Prop where
  out : CellsOut l cells s t
  weir : t.weir = s.weir
  slot : (t.link l).slot = (s.link l).slot
  sendNak : (t.link l).sendNak = false
  rxSeq : (t.link l).rxSeq = (s.link l).rxSeq

@[simp] theorem link_sendFlit (l : Nat) (c0 : Cell) (cells : List Cell) (ans : Cell) (s : State) (m : Nat) :
    (sendFlit l c0 cells ans s).link m = s.link m := rfl

theorem sendHello_link (l : Nat) (s : State) : (sendHello l s).link l = { slotOver (s.link l) with
    creditsOut := (s.link l).creditsOut, helloSent := true, txSeq := 0
    kept := (s.link l).kept ++ [{ seq := 0, cells := List.replicate 14 {}, map := 0, hello := true }] } := link_updLink_same _ _ _

theorem sendHello_takesSlot (l : Nat) (s : State) : TakesSlot l (List.replicate 14 {}) s (sendHello l s) where
  out := ⟨_, _, rfl⟩
  weir := rfl
  slot := by rw [sendHello_link]; rfl
  sendNak := by rw [sendHello_link]; rfl
  rxSeq := by rw [sendHello_link]; rfl

theorem sendEmpty_link (l : Nat) (s : State) : (sendEmpty l s).link l =
    { cell0Sent (s.link l) with lastEmpty := (s.link l).slot, lastNoReq := (s.link l).slot, emptyDue := false } := link_updLink_same _ _ _

/-- An empty flit is good and unsequenced, and carries nothing from the queue. -/
theorem sendEmpty_out (l : Nat) (s : State) : (∃ f, (sendEmpty l s).out = s.out ++ [.flit l f] ∧ flag (nth {} f.cells 0).w0 38 = false
    ∧ flitGood f = true) ∧ (sendEmpty l s).net.txq = s.net.txq :=
  ⟨⟨_, rfl, by rw [sealFlit_head]; exact cell0_unsequenced _ _, flitGood_sealed _ List.length_replicate _⟩, rfl⟩

theorem sendEmpty_takesSlot (l : Nat) (s : State) : TakesSlot l (List.replicate 14 {}) s (sendEmpty l s) where
  out := ⟨_, _, rfl⟩
  weir := rfl
  slot := by rw [sendEmpty_link]; rfl
  sendNak := by rw [sendEmpty_link]; rfl
  rxSeq := by rw [sendEmpty_link]; rfl

@[simp] theorem link_noteAnswered (l seq : Nat) (tags : List Nat) (s : State) (m : Nat) : (noteAnswered l seq tags s).link m = s.link m := rfl

/-- A link of which a flit is replayed: its SEQ state stays, and so do the kept flits but for the CONF entries that the replay carries. -/
structure Replays (j k : Link) : Prop where
  slot : k.slot = j.slot
  sendNak : k.sendNak = false
  rxSeq : k.rxSeq = j.rxSeq
  txSeq : k.txSeq = j.txSeq
  kept : k.kept.map (fun y => { y with confs := [] }) = j.kept.map (fun y => { y with confs := [] })

theorem map_confs_cleared (seq : Nat) (c : List (Nat × Nat)) (l : List Kept) :
    (l.map (fun y => if y.seq == seq then { y with confs := c } else y)).map (fun y => { y with confs := [] })
      = l.map (fun y => { y with confs := [] }) := by
  rw [List.map_map]
  refine List.map_congr_left fun y _ => ?_
  simp only [Function.comp_apply]
  split <;> rfl

theorem sendReplay_replays (l : Nat) (x : Kept) (s : State) : Replays (s.link l) ((sendReplay l x s).link l) := by
  unfold sendReplay
  split
  · rw [link_sendFlit, link_updLink_same]
    exact ⟨rfl, rfl, rfl, rfl, rfl⟩
  · rw [link_sendFlit, link_updLink_same, link_noteAnswered]
    exact ⟨rfl, rfl, rfl, rfl, map_confs_cleared _ _ _⟩

theorem sendReplay_out (l : Nat) (x : Kept) (s : State) : CellsOut l x.cells s (sendReplay l x s) ∧ (sendReplay l x s).weir = s.weir := by
  unfold sendReplay
  split <;> exact ⟨⟨_, _, rfl⟩, rfl⟩

theorem sendReplay_takesSlot (l : Nat) (x : Kept) (s : State) : TakesSlot l x.cells s (sendReplay l x s) :=
  have hk := sendReplay_replays l x s
  have ho := sendReplay_out l x s
  ⟨ho.1, ho.2, hk.slot, hk.sendNak, hk.rxSeq⟩

/-- What a new flit changes of its link. -/
theorem sendSequenced_link (l : Nat) (s : State) : ∃ txSeq kept credits tx noReq empty due, (sendSequenced l s).link l =
    { usedUp (s.link l) with
      txSeq := txSeq, kept := kept, credits := credits, tx := tx, lastNoReq := noReq, lastEmpty := empty, emptyDue := due } := by
  unfold sendSequenced
  extract_lets
  split
  rw [link_sendFlit, link_updLink_same, link_noteAnswered]
  exact ⟨_, _, _, _, _, _, _, rfl⟩

theorem sendSequenced_takesSlot (l : Nat) (s : State) : ∃ cells, cells.length = 14 ∧ TakesSlot l cells s (sendSequenced l s) := by
  obtain ⟨_, _, _, _, _, _, _, hk⟩ := sendSequenced_link l s
  have ho : ∃ cells, cells.length = 14 ∧ CellsOut l cells s (sendSequenced l s) ∧ (sendSequenced l s).weir = s.weir := by
    unfold sendSequenced
    extract_lets
    split
    exact ⟨_, by rw [List.length_map, layCells_length], ⟨_, _, rfl⟩, rfl⟩
  obtain ⟨cells, hc, hout, hweir⟩ := ho
  exact ⟨cells, hc, hout, hweir, by rw [hk]; rfl, by rw [hk]; rfl, by rw [hk]; rfl⟩

theorem sendFresh_takesSlot (l : Nat) (s : State) : ∃ cells, cells.length = 14 ∧ TakesSlot l cells s (sendFresh l s) := by
  unfold sendFresh
  extract_lets k
  split
  · exact ⟨_, List.length_replicate, sendEmpty_takesSlot l s⟩
  · exact sendSequenced_takesSlot l s

theorem sendFresh_empty {l : Nat} {s : State} (hd : (s.link l).emptyDue = true) (ha : (s.link l).answers = []) :
    sendFresh l s = sendEmpty l s := by
  simp [sendFresh, hd, ha]

/-! ## The slot of a link -/

/-- The state with the link's slots counted on. -/
def slotBegun (l : Nat) (s : State) : State := updLink l (fun k => { k with slot := k.slot + 1 }) s

theorem slotBegun_link (l : Nat) (s : State) : (slotBegun l s).link l = { s.link l with slot := (s.link l).slot + 1 } := link_updLink_same _ _ _

/-- A link that may send. -/
structure Sends (l : Nat) (s : State) : Prop where
  serdes : s.pins.serdes = true
  up : (s.link l).mode = .up

theorem slotFlit_hello {l : Nat} {s : State} (h : Sends l s) (hh : (s.link l).helloSent = false) : slotFlit l s = sendHello l (slotBegun l s) := by
  simp [slotFlit, slotBegun, h.serdes, h.up, hh]

theorem slotFlit_replay {l : Nat} {s : State} {x : Kept} {q : Nat} (h : Sends l s) (hh : (s.link l).helloSent = true)
    (hr : (s.link l).replayAt = some q) (hx : (s.link l).kept.find? (fun y => y.seq == q) = some x) :
    slotFlit l s = sendReplay l x (slotBegun l s) := by
  simp [slotFlit, slotBegun, h.serdes, h.up, hh, hr, hx]

theorem slotFlit_fresh {l : Nat} {s : State} (h : Sends l s) (hh : (s.link l).helloSent = true)
    (hr : ∀ q, (s.link l).replayAt = some q → (s.link l).kept.find? (fun x => x.seq == q) = none) :
    slotFlit l s = sendFresh l (slotBegun l s) := by
  cases hq : (s.link l).replayAt with
  | none => simp [slotFlit, slotBegun, h.serdes, h.up, hh, hq]
  | some q => simp [slotFlit, slotBegun, h.serdes, h.up, hh, hq, hr q hq]

/-- Every flit slot takes one flit, of sixteen cells where it is no replay; a replay has those of the flit that it repeats. -/
theorem slotFlit_takesSlot {l : Nat} {s : State} (h : Sends l s) : ∃ cells, TakesSlot l cells (slotBegun l s) (slotFlit l s)
    ∧ ((s.link l).replayAt = none → cells.length = 14) := by
  cases hh : (s.link l).helloSent with
  | false =>
    rw [slotFlit_hello h hh]
    exact ⟨_, sendHello_takesSlot l _, fun _ => List.length_replicate⟩
  | true =>
    by_cases hr : ∀ q, (s.link l).replayAt = some q → (s.link l).kept.find? (fun x => x.seq == q) = none
    · obtain ⟨cells, hc, ht⟩ := sendFresh_takesSlot l (slotBegun l s)
      rw [slotFlit_fresh h hh hr]
      exact ⟨cells, ht, fun _ => hc⟩
    · push Not at hr
      obtain ⟨q, hq, hf⟩ := hr
      obtain ⟨x, hx⟩ := Option.ne_none_iff_exists'.1 hf
      rw [slotFlit_replay h hh hq hx]
      exact ⟨_, sendReplay_takesSlot l x _, fun hn => by rw [hn] at hq; cases hq⟩

/-- Where nothing else is due in the slot, an empty flit that is due goes out. -/
theorem slotFlit_empty {l : Nat} {s : State} (h : Sends l s) (hh : (s.link l).helloSent = true) (hr : (s.link l).replayAt = none)
    (ha : (s.link l).answers = []) (hd : (s.link l).emptyDue = true) : slotFlit l s = sendEmpty l (slotBegun l s) := by
  rw [slotFlit_fresh h hh (fun q hq => by rw [hr] at hq; cases hq), sendFresh_empty]
  · rw [slotBegun_link]; exact hd
  · rw [slotBegun_link]; exact ha

/-! ## The commands FLIT_SLOT and EMPTY_FLIT_DUE (R93, R412) -/

theorem exec_flitSlot {s : State} {l : Fin 32} (h : Sends l s) (hw : s.weir.stalled = []) : exec (.flitSlot l) s = .next (slotFlit l s) := by
  obtain ⟨cells, ht, -⟩ := slotFlit_takesSlot h
  exact congrArg Host.Outcome.next (wakeStalled_none (by rw [ht.weir]; exact hw))

/-- An empty flit owed. -/
def emptyOwed (l : Nat) (s : State) : State := updLink l (fun k => { k with emptyDue := true }) s

theorem emptyOwed_link (l : Nat) (s : State) : (emptyOwed l s).link l = { s.link l with emptyDue := true } := link_updLink_same _ _ _

theorem emptyOwed_sends {l : Nat} {s : State} (h : Sends l s) : Sends l (emptyOwed l s) := ⟨h.serdes, by rw [emptyOwed_link]; exact h.up⟩

theorem exec_emptyFlitDue {s : State} {l : Fin 32} (h : Sends l s) : exec (.emptyFlitDue l) s = .next (slotFlit l (emptyOwed l s)) :=
  congrArg Host.Outcome.next (if_neg (by simp [h.serdes, h.up]))

end Sys2Proof.FlitsSent
end

section
/-!
Flits received (R97, R99, R103, R412). What the parts of a flit do to the link is said part by part; where no header of this node waits for
an answer on the link, none is settled.
-/
namespace Sys2Proof.FlitsReceived

open Sys2Proof Sys2Proof.Machine Sys2Proof.Safety Sys2Proof.WeirSlots Sys2Proof.LinkStates

/-! ## What follows a flit -/

theorem losses_none {s : State} (h : s.net.gone = []) : losses s = s := by
  have e : { s with net := { s.net with gone := [] } } = s := by rw [← h]
  unfold losses
  rw [h, e]
  rfl

/-- A flit that loses nothing and completes nothing of the node's own work is all that FLIT_RECEIVED does. -/
theorem exec_flitReceived_quiet {l : Fin 32} {f : Flit} {s : State} (hq : Quiet s) (hgone : (receiveFlit l f s).net.gone = s.net.gone)
    (hweir : (receiveFlit l f s).weir = s.weir) : exec (.flitReceived l f) s = .next (receiveFlit l f s) := by
  obtain ⟨hnone, hlanded⟩ := hq
  have hl : losses (receiveFlit l f s) = receiveFlit l f s := losses_none (hgone.trans hnone)
  have hp : pump (receiveFlit l f s) = receiveFlit l f s := pump_quiet (by rw [hweir]; exact hlanded)
  exact congrArg Host.Outcome.next ((congrArg pump hl).trans hp)

/-- A link that is up and under no link test. -/
structure Listens (l : Nat) (s : State) : Prop where
  up : (s.link l).mode = .up
  untested : (s.link l).ltMode = 0

theorem countFlit_link (l : Nat) (f : Flit) (s : State) : ∃ c, (countFlit l f s).link l = { s.link l with counters := c }
    ∧ c.crcFail = min 0xFFFFFFFF ((s.link l).counters.crcFail + b2n (!flitGood f)) ∧ c.naks = (s.link l).counters.naks :=
  ⟨_, link_updLink_same _ _ _, rfl, rfl⟩

theorem receiveFlit_eq {l : Nat} {s : State} (h : Listens l s) (f : Flit) :
    receiveFlit l f s = if flitGood f then goodFlit l f (countFlit l f s) else badFlit l f (countFlit l f s) := by
  obtain ⟨c, hc, -, -⟩ := countFlit_link l f s
  simp [receiveFlit, hc, h.up, h.untested]

/-! ## A flit with a bad CRC (R99, R106) -/

theorem badFlit_first {l : Nat} {s : State} (h : (s.link l).discarding = false) (f : Flit) : badFlit l f s = nakLink l (doubtAnswers l s) := by
  have hd : (doubtAnswers l s).link l = s.link l := rfl
  simp [badFlit, hd, h]

/-! ## A good flit (R97, R99) -/

theorem noteNoReq_link (l : Nat) (c0 : Cell) (s : State) : ∃ d, (noteNoReq l c0 s).link l = { s.link l with emptyDue := d } := by
  unfold noteNoReq
  split
  · exact ⟨(s.link l).emptyDue, rfl⟩
  · exact ⟨_, link_updLink_same _ _ _⟩

/-- t has at the weir, as sent and as lost what s has. -/
structure SameSent (s t : State) : Prop where
  weir : t.weir = s.weir
  sent : t.net.sent = s.net.sent
  gone : t.net.gone = s.net.gone

theorem noteNoReq_sameSent (l : Nat) (c0 : Cell) (s : State) : SameSent s (noteNoReq l c0 s) := by
  unfold noteNoReq
  split <;> exact ⟨rfl, rfl, rfl⟩

/-- An answer cell without a DISP entry answers no header (R98). -/
theorem takeAnswers_none {c : Cell} (h : c.w0 = 0#64) (l : Nat) (s : State) : takeAnswers l c s = s := by
  have hb : nth 0#8 (cellBytes c) 0 = 0#8 := by simp [cellBytes, h, toBytes, nth]
  have h7 : bit (0#8).toNat 7 = false := rfl
  have hn : bits (0#8).toNat 4 3 = 0 := rfl
  unfold takeAnswers
  simp only [hb, h7, hn, Bool.false_eq_true, if_false, beq_self_eq_true, Bool.true_or, if_true]
  split <;> rfl

/-- A link that has taken cell 0 of a flit without NAK: an acknowledgement and credits. -/
def acknowledged (c : Cell) (k : Link) : Link :=
  { k with
    peerAck := field c.w0 40 12, peerNaks := 0
    credits := [nth 0 k.credits 0 + field c.w1 48 16, nth 0 k.credits 1 + field c.w1 32 16, nth 0 k.credits 2 + field c.w1 16 16]
    kept := k.kept.filter (fun x => !seqAcked (field c.w0 40 12) x.seq) }

theorem takeCell0_ack {l : Nat} {c : Cell} {s : State} (hnak : flag c.w0 39 = false) (hp : (s.link l).peerNaks = 0) :
    (takeCell0 l c s).link l = acknowledged c (s.link l) ∧ SameSent s (takeCell0 l c s) := by
  have h8 : ¬ 8 ≤ 0 := by decide
  simp only [takeCell0, hnak, hp, h8, Bool.false_eq_true, if_false, Bool.false_and, ite_self, List.map_id']
  refine ⟨?_, rfl, rfl, rfl⟩
  simp only [State.link, updLink, Tbl.get_upd_same]
  rfl

/-- Where no header of this node waits for its answer on the link, nothing is settled. -/
theorem settleAnswers_none {l : Nat} {s : State}
    (h : ∀ x ∈ s.net.sent, x.link = l → x.phase = 0 → x.flitSeq = none) : settleAnswers l s = s := by
  have hnone : ∀ (port ack : Nat), s.net.sent.filter (fun x => x.port == port && x.link == l && x.phase == 0
      && (x.flitSeq.map (seqAcked ack)) == some true) = [] := fun port ack => List.filter_eq_nil_iff.2 fun x hx hq => by
    simp only [Bool.and_eq_true, beq_iff_eq] at hq
    obtain ⟨⟨⟨-, hl⟩, hp⟩, hs⟩ := hq
    rw [h x hx hl hp] at hs
    cases hs
  simp only [settleAnswers, hnone]
  rfl

/-- A flit that takes no SEQ, has no NAK and answers nothing, on a link of which no header of this node waits for its answer. -/
structure AcksOnly (l : Nat) (f : Flit) (s : State) : Prop where
  unsequenced : flag (nth {} f.cells 0).w0 38 = false
  noNak : flag (nth {} f.cells 0).w0 39 = false
  noAnswer : (nth {} f.cells 15).w0 = 0#64
  noNaks : (s.link l).peerNaks = 0
  noneWaits : ∀ x ∈ s.net.sent, x.link = l → x.phase = 0 → x.flitSeq = none

theorem goodFlit_acksOnly {l : Nat} {f : Flit} {s : State} (h : AcksOnly l f s) :
    (∃ d, (goodFlit l f s).link l = acknowledged (nth {} f.cells 0) { s.link l with emptyDue := d }) ∧ SameSent s (goodFlit l f s) := by
  obtain ⟨d, hd⟩ := noteNoReq_link l (nth {} f.cells 0) s
  have hn := noteNoReq_sameSent l (nth {} f.cells 0) s
  obtain ⟨hk, ht⟩ := takeCell0_ack (l := l) (s := noteNoReq l (nth {} f.cells 0) s) h.noNak (by rw [hd]; exact h.noNaks)
  have he : goodFlit l f s = takeCell0 l (nth {} f.cells 0) (noteNoReq l (nth {} f.cells 0) s) := by
    simp only [goodFlit, h.unsequenced, takeAnswers_none h.noAnswer, Bool.false_eq_true, if_false]
    exact settleAnswers_none (by rw [ht.sent, hn.sent]; exact h.noneWaits)
  rw [he, hk, hd]
  exact ⟨⟨d, rfl⟩, ht.weir.trans hn.weir, ht.sent.trans hn.sent, ht.gone.trans hn.gone⟩

end Sys2Proof.FlitsReceived
end

section
/-!
O14: one flit in every slot of a link, and what a flit that comes in leaves of it.
-/
namespace Sys2Proof.FlitsOutAndIn

open Sys2Proof Sys2Proof.Machine Sys2Proof.Safety Sys2Proof.LinkStates Sys2Proof.FlitsSent Sys2Proof.FlitsReceived

/-- FLIT_RECEIVED of a bad flit, the link not discarding (R99). -/
theorem receiveFlit_bad {l : Nat} {f : Flit} {s : State} (h : Listens l s) (hf : flitGood f = false) (hd : (s.link l).discarding = false)
    (hn : (s.link l).nakCount < 7) : ∃ c, c.crcFail = min 0xFFFFFFFF ((s.link l).counters.crcFail + 1) ∧ c.naks = (s.link l).counters.naks
      ∧ (receiveFlit l f s).link l = nakSet { s.link l with counters := c }
      ∧ (receiveFlit l f s).net.gone = s.net.gone ∧ (receiveFlit l f s).weir = s.weir := by
  obtain ⟨c, hc, hcrc, hnaks⟩ := countFlit_link l f s
  have hl : (doubtAnswers l (countFlit l f s)).link l = { s.link l with counters := c } := hc
  have he : receiveFlit l f s = updLink l nakSet (doubtAnswers l (countFlit l f s)) := by
    rw [receiveFlit_eq h, hf, if_neg Bool.false_ne_true, badFlit_first (by rw [hc]; exact hd), nakLink_below (by rw [hl]; exact hn)]
  rw [hf] at hcrc
  refine ⟨c, hcrc, hnaks, ?_, ?_, ?_⟩
  · rw [he, link_updLink_same, hl]
  · rw [he]; rfl
  · rw [he]; rfl

/-- FLIT_RECEIVED of a good unsequenced flit without NAK and without answers. -/
theorem receiveFlit_acksOnly {l : Nat} {f : Flit} {s : State} (h : Listens l s) (hf : flitGood f = true) (ha : AcksOnly l f s) :
    (∃ c d, (receiveFlit l f s).link l = acknowledged (nth {} f.cells 0) { s.link l with counters := c, emptyDue := d })
      ∧ SameSent s (receiveFlit l f s) := by
  obtain ⟨c, hc, -, -⟩ := countFlit_link l f s
  obtain ⟨⟨d, hd⟩, ho⟩ := goodFlit_acksOnly (l := l) (s := countFlit l f s)
    { ha with noNaks := by rw [hc]; exact ha.noNaks, noneWaits := ha.noneWaits }
  have he : receiveFlit l f s = goodFlit l f (countFlit l f s) := by rw [receiveFlit_eq h, hf, if_pos rfl]
  rw [he, hd, hc]
  exact ⟨⟨c, d, rfl⟩, ho.weir, ho.sent, ho.gone⟩

/-- Settles O14: each slot by the flit that takes it, a received flit by what its parts do to the link. -/
theorem flitsGoOutAndComeIn : Obligations.FlitsGoOutAndComeIn := by
  unfold Obligations.FlitsGoOutAndComeIn
  refine ⟨fun s l hs hm hw => ?_, fun s l hs hm => ?_, fun s l f hq hm ht hf hd hn => ?_, fun s l f hq hm ht hf hseq hnak hans hp hsent => ?_⟩
  · have h : Sends l s := ⟨hs, hm⟩
    obtain ⟨cells, ht, hc⟩ := slotFlit_takesSlot h
    have hb := slotBegun_link l s
    refine ⟨_, exec_flitSlot h hw, ?_, by rw [ht.slot, hb], ht.sendNak, by rw [ht.rxSeq, hb], fun hh => ?_, fun x hh hr hx => ?_⟩
    · obtain ⟨c0, ans, ho⟩ := ht.out
      exact ⟨_, ho, fun hr => flitGood_sealed c0 (hc hr) ans⟩
    · rw [slotFlit_hello h hh, sendHello_link]
      exact ⟨rfl, rfl⟩
    · rw [slotFlit_replay h hh hr hx]
      have hk := sendReplay_replays l x (slotBegun l s)
      rw [hb] at hk
      exact ⟨hk.txSeq, hk.kept, (sendReplay_out l x (slotBegun l s)).1⟩
  · have h : Sends l s := ⟨hs, hm⟩
    obtain ⟨cells, ht, -⟩ := slotFlit_takesSlot (emptyOwed_sends h)
    obtain ⟨c0, ans, ho⟩ := ht.out
    have hb : (slotBegun l (emptyOwed l s)).link l = { s.link l with emptyDue := true, slot := (s.link l).slot + 1 } := by
      rw [slotBegun_link, emptyOwed_link]
    refine ⟨_, exec_emptyFlitDue h, ⟨_, ho⟩, by rw [ht.slot, hb], fun hh hr ha => ?_⟩
    have ho := emptyOwed_link l s
    rw [slotFlit_empty (emptyOwed_sends h) (by rw [ho]; exact hh) (by rw [ho]; exact hr) (by rw [ho]; exact ha) (by rw [ho]), sendEmpty_link, hb]
    obtain ⟨hout, htxq⟩ := sendEmpty_out l (slotBegun l (emptyOwed l s))
    exact ⟨hout, rfl, rfl, rfl, rfl, htxq⟩
  · obtain ⟨c, hcrc, hnaks, hl, hgone, hweir⟩ := receiveFlit_bad ⟨hm, ht⟩ hf hd hn
    refine ⟨_, exec_flitReceived_quiet hq hgone hweir, ?_⟩
    beta_reduce
    rw [hl]
    exact ⟨rfl, rfl, rfl, hcrc, by rw [← hnaks]; rfl, rfl⟩
  · obtain ⟨⟨c, d, hl⟩, ho⟩ := receiveFlit_acksOnly ⟨hm, ht⟩ hf ⟨hseq, hnak, hans, hp, hsent⟩
    refine ⟨_, exec_flitReceived_quiet hq ho.gone ho.weir, ?_⟩
    beta_reduce
    rw [hl]
    exact ⟨rfl, rfl, rfl, rfl⟩

end Sys2Proof.FlitsOutAndIn
end

section
/-!
Expiries of the ports, fills of the range and extent caches, and the close of a combination (R55, R56, R106 to R112, R186).
-/
namespace Sys2Proof.PortExpiries

open Sys2Proof Sys2Proof.Machine Sys2Proof.Safety Sys2Proof.WeirSlots Sys2Proof.MirrorSyncs Sys2Proof.LinkStates Sys2Proof.SluicePieces
  Sys2Proof.KeeperCommands

/-! ## TAGs held over (R106) -/

/-- The TAGs of requests whose data never came over a link that has left its port. -/
def lostTags (s : State) (l : Nat) : List Nat :=
  if (s.link l).inPort then [] else ((s.link l).rx.filter (·.isReq)).map (fun x => (reqHdr x.hdr).tag)

theorem mem_lostTags {s : State} {l tag : Nat} :
    tag ∈ lostTags s l ↔ (s.link l).inPort = false ∧ ∃ x ∈ (s.link l).rx, x.isReq = true ∧ (reqHdr x.hdr).tag = tag := by
  unfold lostTags
  split
  · next h => simp [h]
  · next h => simp [h, and_assoc]

/-- Whether the end of a link's hold-over frees a TAG. -/
def isFreed (s : State) (l : Nat) (y : TagOut) : Bool := y.holdover == some l && (y.ackd || (y.link == l && (lostTags s l).contains y.tag))

theorem isFreed_iff {s : State} {l : Nat} {y : TagOut} : isFreed s l y = true ↔ Freed s l y := by
  simp only [isFreed, Freed, Bool.and_eq_true, Bool.or_eq_true, beq_iff_eq, List.contains_iff_mem, mem_lostTags]
  tauto

/-- A TAG that is held over for the link no longer. -/
def unheld (l : Nat) (y : TagOut) : TagOut := if y.holdover = some l then { y with holdover := none } else y

theorem mem_unheld_kept {s : State} {l : Nat} {x : TagOut} : x ∈ (s.net.tags.filter (fun y => !isFreed s l y)).map (unheld l)
    ↔ ∃ y ∈ s.net.tags, ¬ Freed s l y ∧ x = unheld l y := by
  simp only [List.mem_map, List.mem_filter, Bool.not_eq_eq_eq_not, Bool.not_true, ← Bool.not_eq_true, isFreed_iff, and_assoc, eq_comm (a := x)]

theorem exec_tagHoldoverExpiry (s : State) (l : Fin 32) : ∃ t, exec (.tagHoldoverExpiry l) s = .next t
    ∧ t.net.tags = (s.net.tags.filter (fun y => !isFreed s l y)).map (unheld l) ∧ t.net.sent = s.net.sent ∧ t.net.txq = s.net.txq := by
  refine ⟨_, rfl, ?_⟩
  cases hp : (s.link l).inPort <;> simp [hp, isFreed, lostTags, unheld, updLink]

/-! ## Held pages and held requests (R108, R110) -/

theorem exec_heldPageExpiry {s : State} {l : Fin 32} {page : Nat} {h : HeldPage} (hf : (s.link l).held.find? (fun x => x.page == page) = some h) :
    exec (.heldPageExpiry l page) s = .next (logEv 0x0603 sevWarning 15 0 l h.tag (updLink l (fun k => { k with held := k.held.erase h }) s)) := by
  have he : exec (.heldPageExpiry l page) s = execHeldPageExpiry l page s := rfl
  rw [he, execHeldPageExpiry, hf]

theorem logEv_logged {s : State} (h : s.keeper.up = true) (code severity party status arg0 arg1 : Nat) :
    Logged s (logEv code severity party status arg0 arg1 s) code arg0 arg1 :=
  ⟨_, by rw [logEv_up h], rfl, rfl, rfl⟩

theorem nextHeld_port {s : State} {p : Nat} {x : Sent} (h : nextHeld s p = some x) : x.port = p := by
  have := List.find?_some h
  simp only [Bool.and_eq_true, beq_iff_eq] at this
  exact this.1

/-- A held request that is sent again waits for a new disposition. -/
def resentHeld (x y : Sent) : Sent :=
  if y.port == x.port && y.tag == x.tag then { y with phase := 0, flitSeq := none, disp := none, doubt := false } else y

theorem exec_holdRetry {s : State} {p : Fin 10} {tag : BitVec 16} {x : Sent} (h : nextHeld s p = some x) (ht : x.tag = tag.toNat)
    (hr : x.readyAt ≤ (s.link x.link).slot) : exec (.holdRetry p tag) s = .next
      { s with net := { s.net with txq := s.net.txq ++ [txItem s x false], sent := s.net.sent.map (resentHeld x) } } := by
  have he : exec (.holdRetry p tag) s = execHoldRetry p tag s := rfl
  have hn : (x.tag != tag.toNat || decide ((s.link x.link).slot < x.readyAt)) = false := by simp [ht, hr]
  simp only [he, execHoldRetry, h, hn, Bool.false_eq_true, if_false]
  rfl

theorem resentHeld_phase {x y : Sent} (hp : (resentHeld x y).port = x.port) (ht : (resentHeld x y).tag = x.tag) : (resentHeld x y).phase = 0 := by
  unfold resentHeld at *
  split at hp
  · next h => rw [if_pos h]
  · next h =>
    rw [if_neg h] at ht
    exact absurd (by simp [hp, ht]) h

/-! ## Cache fills (R55, R56, R107) -/

theorem countRange_mem (party off len : Nat) (s : State) : (countRange party off len s).store.mem = s.store.mem :=
  countRange_keeps (g := .bytes) rfl party off len s (.refl _ s)

theorem countRange_net (party off len : Nat) (s : State) : (countRange party off len s).net = s.net :=
  net_eq (countRange_keeps (g := .net) rfl party off len s (.refl _ s)) (countRange_keeps (g := .links) rfl party off len s (.refl _ s))

theorem ctxOf_congr {s t : State} (hp : t.party = s.party) (party asid : Nat) : ctxOf t party asid = ctxOf s party asid := by
  simp only [ctxOf, State.pty, hp]

theorem rangeTable_congr {s t : State} (hm : t.store.mem = s.store.mem) : rangeTable t = rangeTable s := by
  have h : rangeAt t = rangeAt s := by
    funext base i
    simp only [rangeAt, hm]
  funext c
  simp only [rangeTable, h]

/-- A search reads the context's table, and so the parties' pages and backed space. -/
theorem fillEntry_congr {s t : State} (hp : t.party = s.party) (hm : t.store.mem = s.store.mem) (race party asid va : Nat) :
    fillEntry t race party asid va = fillEntry s race party asid va := by
  simp only [fillEntry, ctxOf_congr hp, rangeTable_congr hm]

theorem rcInsert_net (e : RangeEntry) (s : State) :
    (rcInsert e s).net.rmiss = s.net.rmiss ∧ (rcInsert e s).net.rcache.head? = some e := ⟨rfl, rfl⟩

theorem ecInsert_net (e : ExtentEntry) (s : State) :
    (ecInsert e s).net.emiss = s.net.emiss ∧ (ecInsert e s).net.ecache.head? = some e := ⟨rfl, rfl⟩

theorem rangeFill_net (race party asid va : Nat) (s : State) : (rangeFill race party asid va s).net.rmiss = s.net.rmiss
    ∧ (rangeFill race party asid va s).net.rcache.head? = some (fillEntry s race party asid va) := by
  unfold rangeFill
  split
  · next c hc =>
    obtain ⟨t, ht⟩ : ∃ t, t = countRange party (addrOffset c.base) 32 s := ⟨_, rfl⟩
    have hp : t.party = s.party := by rw [ht]; exact countRange_party _ _ _ s
    have hm : t.store.mem = s.store.mem := by rw [ht]; exact countRange_mem _ _ _ s
    have hn : t.net = s.net := by rw [ht]; exact countRange_net _ _ _ s
    rw [← ht, ← fillEntry_congr hp hm, ← hn]
    exact rcInsert_net _ t
  · exact rcInsert_net _ s

/-- The state once a search of a range runs no longer. -/
def rangeSearched (key : Nat × Nat × Nat × Nat) (s : State) : State :=
  { s with net := { s.net with rmiss := s.net.rmiss.filter (· != key) } }

/-- A running search of a range ends with the entry that it finds first in the cache. -/
theorem exec_rangeCacheFill {s : State} {r q : Fin 8} {a : Fin 4096} {va : BitVec 57} (h : (r.val, q.val, a.val, va.toNat) ∈ s.net.rmiss) :
    ∃ t, exec (.rangeCacheFill r q a va) s = .next t ∧ t.net.rmiss = s.net.rmiss.filter (· != (r.val, q.val, a.val, va.toNat))
      ∧ t.net.rcache.head? = some (fillEntry s r q a va.toNat) := by
  have hc : s.net.rmiss.contains (r.val, q.val, a.val, va.toNat) = true := by simpa using h
  obtain ⟨hmiss, hhead⟩ := rangeFill_net r q a va.toNat (rangeSearched (r.val, q.val, a.val, va.toNat) s)
  exact ⟨_, congrArg Host.Outcome.next (if_pos hc), hmiss, hhead⟩

/-- A running search of an extent ends with the entry that it finds first in the cache, in the ways of its party. -/
theorem exec_extentCacheFill {s : State} {r : Fin 8} {o : BitVec 52} {key : Nat × Nat × Nat}
    (h : s.net.emiss.find? (fun x => x.1 == r.val && x.2.1 == o.toNat) = some key) : ∃ t, exec (.extentCacheFill r o) s = .next t
      ∧ t.net.emiss = s.net.emiss.filter (· != key) ∧ t.net.ecache.head? = some { fillExtent s r o.toNat with party := key.2.2 } := by
  have he : exec (.extentCacheFill r o) s = execExtentCacheFill r o s := rfl
  obtain ⟨hmiss, hhead⟩ := ecInsert_net { fillExtent s r o.toNat with party := key.2.2 }
    { s with net := { s.net with emiss := s.net.emiss.filter (· != key) } }
  refine ⟨_, ?_, hmiss, hhead⟩
  rw [he, execExtentCacheFill, h]

/-! ## Combinations (R186, R187) -/

theorem numbered_id (r : Req) (s : State) : ∃ n, (numbered r s).1 = { r with id := n } := by
  unfold numbered
  split
  · split
    · exact ⟨s.weir.nextId, rfl⟩
    · exact ⟨r.id, rfl⟩
  · exact ⟨s.weir.nextId, rfl⟩

/-- One entry more stands in the admission queues, and it is as said. -/
def Queued (s t : State) (ok : QEntry → Prop) : Prop := ∃ pre q post, s.weir.queue = pre ++ post ∧ t.weir.queue = pre ++ q :: post ∧ ok q

theorem Queued.imp {s t : State} {ok ok' : QEntry → Prop} (h : Queued s t ok) (hi : ∀ q, ok q → ok' q) : Queued s t ok' :=
  let ⟨pre, q, post, hs, ht, hq⟩ := h
  ⟨pre, q, post, hs, ht, hi q hq⟩

theorem queued_of_queueWith {s t : State} {q : QEntry} {ok : QEntry → Prop} (ht : t.weir.queue = queueWith q [] s.weir.queue) (hq : ok q) :
    Queued s t ok :=
  let ⟨pre, post, hs, hw⟩ := queueWith_split q s.weir.queue
  ⟨pre, q, post, hs, ht.trans hw, hq⟩

/-- A request enters its home queue as it is, but for its identity and the race that is now fixed. -/
theorem enqueue_queued (r : Req) (s : State) : Queued s (enqueue r s) (fun q => ∃ race n, q.req = { r with queueRace := race, id := n }) := by
  obtain ⟨n, hn⟩ := numbered_id { r with queueRace := some (raceFor s r) } s
  obtain ⟨-, hqueue, -⟩ := numbered_same { r with queueRace := some (raceFor s r) } s
  exact queued_of_queueWith (congrArg (queueWith _ []) hqueue) ⟨_, n, hn⟩

theorem forward_home {s : State} {r : Req} (h : isHome s r = true) : forward r s = enqueue r s := by
  simp only [forward, target, h, if_true]

theorem isHome_of_node {s : State} {r : Req} (hop : r.op ≠ .mcastStore) (h : addrNode r.addr = s.node) : isHome s r = true := by
  simp [isHome, hop, h]

/-- The state once a combination is no longer open. -/
def closing (c : Combo) (s : State) : State := { s with net := { s.net with combos := s.net.combos.filter (fun x => x.id != c.id) } }

/-- The state once the combined request of a combination is awaited. -/
def awaiting (c : Combo) (s : State) : State := { s with net := { s.net with combosOut := s.net.combosOut ++ [c] } }

theorem closing_closed (c : Combo) (s : State) : ∀ x ∈ (closing c s).net.combos, x.id ≠ c.id := by
  simp [closing]

theorem closeCombo_single {s : State} {c : Combo} (hb : c.behind = []) (hn : c.entries.length ≤ 1) :
    closeCombo c s = forward c.head (closing c s) := by
  simp [closeCombo, hb, hn, followCombo, closing]

theorem closeCombo_combined {s : State} {c : Combo} (hb : c.behind = []) (hn : 1 < c.entries.length) :
    closeCombo c s = forward (combinedReq c) (awaiting c (closing c s)) := by
  have hn : ¬ c.entries.length ≤ 1 := by omega
  simp [closeCombo, hb, hn, followCombo, closing, awaiting]

theorem combinedReq_op (c : Combo) : (combinedReq c).op = if c.head.op = .load then .confRead else .confAtomic := by
  simp [combinedReq]

theorem exec_combinationClose {s : State} {i : Nat} {c : Combo} (h : s.net.combos[i]? = some c) :
    exec (.combinationClose i) s = .next (closeCombo c s) := by
  have he : exec (.combinationClose i) s = execCombinationClose i s := rfl
  rw [he, execCombinationClose, h]

/-- Settles O15: each command by its step; a fill finds what a search of the state before it finds, since the search's reads count in the
tier map alone, and a combination that closes enters the home queue as one request. Which TAGs are free is log entry 61. -/
theorem expiriesAndCacheFills : Obligations.ExpiriesAndCacheFills := by
  unfold Obligations.ExpiriesAndCacheFills
  refine ⟨fun s l => ?_, fun s l page h hup hf => ?_, fun s p tag x hx ht hr => ?_, fun s r q a va hm => ?_, fun s r o key hk => ?_,
    fun s i c hc hb hnode hop => ⟨fun hn => ?_, fun hn => ?_⟩⟩
  · obtain ⟨t, he, htags, hsent, htxq⟩ := exec_tagHoldoverExpiry s l
    refine ⟨t, he, fun x => ?_, hsent, htxq⟩
    rw [htags, mem_unheld_kept]
    rfl
  · refine ⟨_, exec_heldPageExpiry hf, ?_, logEv_logged (s := updLink l (fun k => { k with held := k.held.erase h }) s) hup _ _ _ _ _ _⟩
    rw [link_logEv, link_updLink_same]
  · refine ⟨_, exec_holdRetry hx ht hr, txItem s x false, rfl, rfl, nextHeld_port hx, rfl, ?_, rfl, fun y hy hp htag => ?_⟩
    · rw [← nextHeld_port hx]; rfl
    · obtain ⟨z, -, rfl⟩ := List.mem_map.1 hy
      exact resentHeld_phase (hp.trans (nextHeld_port hx).symm) htag
  · obtain ⟨t, he, hmiss, hhead⟩ := exec_rangeCacheFill hm
    exact ⟨t, he, by simp [hmiss], hhead⟩
  · obtain ⟨t, he, hmiss, hhead⟩ := exec_extentCacheFill hk
    exact ⟨t, he, by simp [hmiss], hhead⟩
  · have hhome : isHome (closing c s) c.head = true := isHome_of_node (by rintro h; simp [h] at hop) hnode
    have he := (exec_combinationClose hc).trans (by rw [closeCombo_single hb hn, forward_home hhome])
    refine ⟨_, he, ?_, by rw [enqueue_net]; rfl, (enqueue_queued c.head (closing c s)).imp ?_⟩
    · rw [enqueue_net]
      exact closing_closed c s
    · rintro q ⟨race, n, hq⟩
      rw [hq]
      exact ⟨rfl, rfl, rfl, rfl⟩
  · have hhome : isHome (awaiting c (closing c s)) (combinedReq c) = true :=
      isHome_of_node (by rw [combinedReq_op]; split <;> decide) hnode
    have he := (exec_combinationClose hc).trans (by rw [closeCombo_combined hb hn, forward_home hhome])
    refine ⟨_, he, ?_, by rw [enqueue_net]; rfl, (enqueue_queued (combinedReq c) (awaiting c (closing c s))).imp ?_⟩
    · rw [enqueue_net]
      exact closing_closed c s
    · rintro q ⟨race, n, hq⟩
      rw [hq]
      exact ⟨combinedReq_op c, rfl, rfl⟩

end Sys2Proof.PortExpiries
end

section
/-!
REFUSE causes (R104, Table 04-7).
-/
namespace Sys2Proof.RefuseCauses

open Sys2Proof Sys2Proof.Machine Sys2Proof.Safety

/-- A cause is two octal digits: bits [6:4] and bits [2:0] of the status code. -/
theorem refuseCause_bits (st : Status) : bits (refuseCause st) 3 3 = bits (statusCode st) 4 3 ∧ bits (refuseCause st) 0 3 = bits (statusCode st) 0 3
    ∧ refuseCause st < 64 := by
  have hhi : bits (statusCode st) 4 3 < 8 := Nat.mod_lt _ (by decide)
  have hlo : bits (statusCode st) 0 3 < 8 := Nat.mod_lt _ (by decide)
  have hc : refuseCause st = bits (statusCode st) 4 3 * 8 + bits (statusCode st) 0 3 := rfl
  generalize bits (statusCode st) 4 3 = hi at *
  generalize bits (statusCode st) 0 3 = lo at *
  rw [hc]
  unfold bits
  omega

/-- Settles O38: every cause by its two digits, and Table 04-7 row by row. -/
theorem refuseCausesComeFromStatuses : Obligations.RefuseCausesComeFromStatuses :=
  ⟨refuseCause_bits, by decide, by decide, by decide⟩

end Sys2Proof.RefuseCauses
end

section
/-!
Requests of a mill, a rill or a course that go to one piece on this node (R27, R54, R55, R178). The translation is said once, by what it
reads and what it leaves of the state; then a request waits in its home queue or at its source, whatever source has it.
-/
namespace Sys2Proof.IssuedRequests

open Sys2Proof Sys2Proof.Machine Sys2Proof.Safety Sys2Proof.WeirSlots Sys2Proof.MirrorSyncs Sys2Proof.PortExpiries

/-! ## Translation through the range cache (R54, R55) -/

/-- t translates as s does. -/
structure SameSearch (s t : State) : Prop where
  hw : t.hw = s.hw
  party : t.party = s.party
  mem : t.store.mem = s.store.mem
  rcache : t.net.rcache = s.net.rcache

theorem SameSearch.symm {s t : State} (h : SameSearch s t) : SameSearch t s := ⟨h.hw.symm, h.party.symm, h.mem.symm, h.rcache.symm⟩

theorem SameSearch.trans {s t u : State} (h : SameSearch s t) (k : SameSearch t u) : SameSearch s u :=
  ⟨k.hw.trans h.hw, k.party.trans h.party, k.mem.trans h.mem, k.rcache.trans h.rcache⟩

/-- Accesses counted change nothing that a translation reads. -/
theorem countRange_search (party off len : Nat) (s : State) : SameSearch s (countRange party off len s) where
  hw := countRange_keeps (g := .hw) rfl party off len s (.refl _ s)
  party := countRange_party party off len s
  mem := countRange_mem party off len s
  rcache := congrArg NetSt.rcache (countRange_net party off len s)

section
variable {s t : State} (h : SameSearch s t)
include h

theorem SameSearch.cacheLook : cacheLook t = cacheLook s := by
  funext race party asid va
  simp only [Machine.cacheLook, h.rcache]

theorem SameSearch.searchLook : searchLook t = searchLook s := by
  funext c a
  simp only [Machine.searchLook, rangeTable_congr h.mem]

theorem SameSearch.translateIn (ctx : Option Ctx) (va len : Nat) (op : Op) : translateIn t ctx va len op = translateIn s ctx va len op := by
  simp only [Machine.translateIn, h.searchLook]

theorem SameSearch.translate (party asid va len : Nat) (op : Op) : translate t party asid va len op = translate s party asid va len op := by
  simp only [Machine.translate, ctxOf_congr h.party, h.searchLook]

theorem SameSearch.rcInsert (e : RangeEntry) : SameSearch (rcInsert e s) (rcInsert e t) := by
  have hs : isSealed t = isSealed s := by simp only [isSealed, h.hw]
  have hw : cacheWaysOf t = cacheWaysOf s := by
    funext party
    simp only [cacheWaysOf, hs, partyRec, h.hw]
  exact ⟨h.hw, h.party, h.mem, by simp only [Machine.rcInsert, hs, hw, h.rcache]⟩

theorem SameSearch.fill (race party asid va : Nat) :
    SameSearch (Machine.rcInsert (fillEntry s race party asid va) s) (Machine.rcInsert (fillEntry t race party asid va) t) := by
  rw [fillEntry_congr h.party h.mem]
  exact h.rcInsert _

theorem SameSearch.rangeFill (race party asid va : Nat) : SameSearch (rangeFill race party asid va s) (rangeFill race party asid va t) := by
  simp only [Machine.rangeFill, ctxOf_congr h.party]
  split
  · exact ((countRange_search _ _ _ s).symm.trans (h.trans (countRange_search _ _ _ t))).fill race party asid va
  · exact h.fill race party asid va

end

theorem SameSearch.cachedLoop {s t : State} (h : SameSearch s t) (race party asid va len : Nat) (op : Op) (n : Nat) :
    (cachedLoop race party asid va len op n t).1 = (cachedLoop race party asid va len op n s).1 := by
  induction n generalizing s t with
  | zero => exact h.translate party asid va len op
  | succ n ih =>
    simp only [Machine.cachedLoop, h.cacheLook, ctxOf_congr h.party]
    split
    · exact ih (h.rangeFill race party asid _)
    · rfl

theorem SameSearch.translateCached {s t : State} (h : SameSearch s t) (race party asid va len : Nat) (op : Op) :
    (translateCached race party asid va len op t).1 = (translateCached race party asid va len op s).1 :=
  h.cachedLoop race party asid va len op (len / 4096 + 3)

theorem rcInsert_recached (e : RangeEntry) (s : State) : ∃ l, (rcInsert e s).net = { s.net with rcache := l } := ⟨_, rfl⟩

/-- A range cache filled leaves the rest of the ports as it was. -/
theorem rangeFill_recached (race party asid va : Nat) (s : State) : ∃ l, (rangeFill race party asid va s).net = { s.net with rcache := l } := by
  unfold rangeFill
  split
  · next c _ =>
    obtain ⟨l, hl⟩ := rcInsert_recached (fillEntry (countRange party (addrOffset c.base) 32 s) race party asid va)
      (countRange party (addrOffset c.base) 32 s)
    exact ⟨l, hl.trans (by rw [countRange_net])⟩
  · exact rcInsert_recached _ s

theorem cachedLoop_recached (race party asid va len : Nat) (op : Op) (n : Nat) (s : State) :
    ∃ l, (cachedLoop race party asid va len op n s).2.net = { s.net with rcache := l } := by
  induction n generalizing s with
  | zero => exact ⟨s.net.rcache, rfl⟩
  | succ n ih =>
    unfold cachedLoop
    split
    · next a _ =>
      obtain ⟨l, hl⟩ := ih (rangeFill race party asid a s)
      obtain ⟨l', hl'⟩ := rangeFill_recached race party asid a s
      exact ⟨l, by rw [hl, hl']⟩
    · exact ⟨s.net.rcache, rfl⟩

theorem translateCached_recached (race party asid va len : Nat) (op : Op) (s : State) :
    ∃ l, (translateCached race party asid va len op s).2.net = { s.net with rcache := l } := by
  obtain ⟨l, hl⟩ := cachedLoop_recached race party asid va len op (len / 4096 + 3) s
  refine ⟨(translateCached race party asid va len op s).2.net.rcache, ?_⟩
  simp only [translateCached, hl]

/-! ## Where a request goes -/

/-- t sends a request where s does, and the same ones wait in it. -/
structure SamePlace (s t : State) : Prop where
  hw : t.hw = s.hw
  map : t.map = s.map
  coh : t.coh = s.coh
  combos : t.net.combos = s.net.combos
  weir : t.weir = s.weir

theorem SamePlace.trans {s t u : State} (h : SamePlace s t) (k : SamePlace t u) : SamePlace s u :=
  ⟨k.hw.trans h.hw, k.map.trans h.map, k.coh.trans h.coh, k.combos.trans h.combos, k.weir.trans h.weir⟩

theorem SamePlace.fencedPool {s t : State} (h : SamePlace s t) (addr : Nat) : fencedPool t addr = fencedPool s addr := by
  have hd : domainOfAgent t = domainOfAgent s := by funext p; simp only [domainOfAgent, h.coh]
  simp only [Machine.fencedPool, poolSlices, fenced, extentDomain, hd, h.hw, h.map]

theorem SamePlace.uncovered {s t : State} (h : SamePlace s t) {addr len : Nat} (hu : Uncovered s addr len) : Uncovered t addr len :=
  fun c hc => hu c (h.combos ▸ hc)

theorem SamePlace.placed {s t u : State} {ok : Req → Prop} (h : SamePlace s t) (hp : Placed t u ok) : Placed s u ok := by
  unfold Placed at hp ⊢
  rwa [h.weir] at hp

/-- A translation places nothing. -/
theorem translateCached_place (race party asid va len : Nat) (op : Op) (s : State) :
    SamePlace s (translateCached race party asid va len op s).2 where
  hw := translateCached_keeps (g := .hw) rfl race party asid va len op s (.refl _ s)
  map := translateCached_keeps (g := .map) rfl race party asid va len op s (.refl _ s)
  coh := translateCached_keeps (g := .coh) rfl race party asid va len op s (.refl _ s)
  combos := by
    obtain ⟨l, hl⟩ := translateCached_recached race party asid va len op s
    rw [hl]
  weir := weir_eq (translateCached_keeps (g := .weirCtl) rfl race party asid va len op s (.refl _ s))
    (translateCached_keeps (g := .weirQ) rfl race party asid va len op s (.refl _ s))

/-! ## A request issued to one piece of this node -/

/-- A request as it is issued for a piece: what it asks, for whom, at the piece's address. -/
def SentTo (r : Req) (p : Piece) (q : Req) : Prop :=
  q.op = r.op ∧ q.addr = p.addr ∧ q.len = r.len ∧ q.data = r.data ∧ q.opf = r.opf ∧ q.origin = r.origin
  ∧ q.src = r.src ∧ q.tclass = r.tclass

/-- With no open combination in its way a request of this home is queued there or waits for a credit of it. -/
theorem offer_placed {s : State} {r : Req} (hu : Uncovered s r.addr r.len) :
    Placed s (offer none r s) (fun q => ∃ race n, q = { r with queueRace := race, id := n }) := by
  have hn : s.net.combos.find? (comboCovers r) = none := List.find?_eq_none.2 (fun c hc => by
    have h : comboCovers r c = false := hu c hc
    simp [h])
  unfold offer
  split
  · simp only [place, hn]
    obtain ⟨-, -, hstalled, -⟩ := SluicePieces.numbered_same { r with queueRace := some (raceFor s r) } s
    exact .inl ⟨hstalled, enqueue_queued r s⟩
  · exact .inr ⟨rfl, r, rfl, r.queueRace, r.id, rfl⟩

theorem issue_placed {s : State} {r : Req} (hhome : isHome s r = true) (hu : Uncovered s r.addr r.len) :
    Placed s (issue r s) (fun q => ∃ gen race n, q = { r with gen := gen, queueRace := race, id := n }) := by
  have he : issue r s = offer none { r with gen := s.hw.compGen, queueRace := none } s := by
    simp only [issue, target, outbound, hhome, if_true]
  rw [he]
  exact SluicePieces.placed_of_imp (offer_placed hu) (fun q ⟨race, n, hq⟩ => ⟨_, race, n, hq⟩)

/-- A piece that lies in one 4 KiB block is one request. -/
theorem cutPieces_one {p : Piece} (h : p.addr % 4096 + p.len ≤ 4096) : cutPieces [p] = [p] := by
  have hn : p.len ≤ 4096 - p.addr % 4096 := by omega
  simp only [cutPieces, List.flatMap_cons, List.flatMap_nil, cutPiece, hn, if_true, List.append_nil]

/-- The request of the only piece of another. -/
def pieceReq (r : Req) (p : Piece) : Req :=
  { r with addr := p.addr, va := p.va, len := p.len, cls := p.cls, coding := p.coding, durable := p.durable, part := 0 }

theorem pieceReqs_one {r : Req} {p : Piece} (h : p.len = r.len) : pieceReqs r [p] = [pieceReq r p] := by
  simp only [pieceReqs, List.zipIdx_cons, List.zipIdx_nil, List.map_cons, List.map_nil, h, beq_self_eq_true, if_true, pieceReq]

theorem issueTrans_one {s : State} {r : Req} {p : Piece} (hlen : p.len = r.len) (hcut : p.addr % 4096 + p.len ≤ 4096)
    (hf : fencedPool s p.addr = false) (hok : targetOk { r with addr := r.va, cls := p.cls, coding := p.coding } = true) :
    issueTrans (.pieces [p]) r s = issue (pieceReq r p) s := by
  have hw : wholeOk r [pieceReq r p] = true := by
    simp only [wholeOk, List.all_cons, List.all_nil, Bool.and_true]
    exact hok
  have hp : fencedPool s (pieceReq r p).addr = false := hf
  simp only [issueTrans, cutPieces_one hcut, pieceReqs_one hlen, List.any_cons, List.any_nil, hp, hw, joinPieces, List.length_singleton,
    le_refl, if_true, List.foldl_cons, List.foldl_nil, Bool.or_self, Bool.not_true, Bool.false_eq_true, if_false]

/-- A request translated to one piece of this node waits there, where nothing has changed its way since. -/
theorem issueTrans_placed {s t : State} {r : Req} {race party asid : Nat} {ctx : Option Ctx} {p : Piece}
    (h : GoesHome s race party asid ctx r.va r.len r.op r.opf p) (hm : r.op ≠ .mcastStore) (hs : SamePlace s t) :
    Placed s (issueTrans (.pieces [p]) r t) (SentTo r p) := by
  obtain ⟨hlen, hcut⟩ := h.whole
  obtain ⟨hfenced, hcovered⟩ := h.open_
  have hhome : isHome t (pieceReq r p) = true := isHome_of_node hm (h.home.trans (by rw [State.node, State.node, hs.hw]))
  have hu : Uncovered t (pieceReq r p).addr (pieceReq r p).len := by
    rw [show (pieceReq r p).len = r.len from hlen]
    exact hs.uncovered hcovered
  rw [issueTrans_one hlen (by omega) ((hs.fencedPool _).trans hfenced) h.fit]
  refine hs.placed (SluicePieces.placed_of_imp (issue_placed hhome hu) ?_)
  rintro q ⟨gen, race, n, rfl⟩
  exact ⟨rfl, rfl, hlen, rfl, rfl, rfl, rfl, rfl⟩

/-- A source's step entered in its epoch changes neither a translation nor a place. -/
theorem inEpoch_same (r : Req) (s : State) : SameSearch s (inEpoch r s).2 ∧ SamePlace s (inEpoch r s).2
    ∧ ∃ e, (inEpoch r s).1 = { r with epoch := e } := by
  unfold inEpoch
  split
  · exact ⟨⟨rfl, rfl, rfl, rfl⟩, ⟨rfl, rfl, rfl, rfl, rfl⟩, r.epoch, rfl⟩
  · exact ⟨⟨rfl, rfl, rfl, rfl⟩, ⟨rfl, rfl, rfl, rfl, rfl⟩, _, rfl⟩

/-- A source's request that goes to one piece on this node waits in its home queue or at its source. -/
theorem issueIn_placed {s t : State} {r : Req} {asid : Nat} {ctx : Option Ctx} {p : Piece}
    (h : GoesHome s (cacheRace r.src) r.party asid ctx r.va r.len r.op r.opf p) (hm : r.op ≠ .mcastStore) (hs : SameSearch s t)
    (hp : SamePlace s t) : Placed s (issueIn asid ctx r t) (SentTo r p) := by
  obtain ⟨hs', hp', e, he⟩ := inEpoch_same { r with asid := some asid, tgen := (ctx.map (·.gen)).getD 0 } t
  have hsearch := hs.trans hs'
  have hplace := hp.trans hp'
  have htrans := h.translated
  simp only [issueIn, he, beq_iff_eq, ctxOf_congr hsearch.party]
  split
  · next hc =>
    rw [if_pos hc] at htrans
    rw [hsearch.translateCached, htrans]
    exact issueTrans_placed h hm (hplace.trans (translateCached_place ..))
  · next hc =>
    rw [if_neg hc] at htrans
    rw [hsearch.translateIn, htrans]
    exact issueTrans_placed h hm hplace

end Sys2Proof.IssuedRequests
end

section
/-!
The control steps of a mill (R164, R234, R235, R238, R239). What a step does once it may start is said once, by what its body answers; the
choice of the next step by three equations, the end of a descriptor by one, and a poll by the LOAD that it issues.
-/
namespace Sys2Proof.MillControl

open Sys2Proof Sys2Proof.Machine Sys2Proof.Safety Sys2Proof.IssuedRequests

/-! ## One mill changed -/

@[simp] theorem millOf_updMill_same (m : Nat) (f : Mill → Mill) (s : State) : millOf (updMill m f s) m = f (millOf s m) :=
  Tbl.get_upd_same ({} : Mill) s.mills m f

theorem millOf_updMill_other {m k : Nat} (h : k ≠ m) (f : Mill → Mill) (s : State) : millOf (updMill m f s) k = millOf s k :=
  Tbl.get_upd_other ({} : Mill) s.mills m f k h

/-- Only what becomes of the mill as it is counts. -/
theorem updMill_congr {m : Nat} {f g : Mill → Mill} {s : State} (h : f (millOf s m) = g (millOf s m)) : updMill m f s = updMill m g s :=
  congrArg (fun x => { s with mills := Tbl.put s.mills m x }) h

theorem updMill_search (m : Nat) (f : Mill → Mill) (s : State) : SameSearch s (updMill m f s) := ⟨rfl, rfl, rfl, rfl⟩

theorem updMill_place (m : Nat) (f : Mill → Mill) (s : State) : SamePlace s (updMill m f s) := ⟨rfl, rfl, rfl, rfl, rfl⟩

theorem millBecomes_self (s : State) (m : Nat) : MillBecomes s m (millOf s m) s := ⟨rfl, fun _ _ => rfl, rfl⟩

theorem millBecomes_updMill {s u : State} {m : Nat} {x : Mill} (h : MillBecomes s m x u) (f : Mill → Mill) :
    MillBecomes s m (f x) (updMill m f u) := by
  obtain ⟨hm, ho, hs⟩ := h
  refine ⟨by rw [millOf_updMill_same, hm], fun k hk => by rw [millOf_updMill_other hk, ho k hk], ?_⟩
  rw [hs]
  rfl

/-! ## Flags (Table 09-8) -/

/-- A flag that is not live reads as it was last set. -/
theorem hasFlag_setFlag {c : Nat} (h0 : c ≠ 0) (he : c ≠ fCqEmpty) (hf : c ≠ fCqFull) (x : Mill) (c' : Nat) (b : Bool) :
    (x.setFlag c b).hasFlag c' = if c' = c then b else x.hasFlag c' := by
  unfold Mill.hasFlag Mill.setFlag
  by_cases h : c' = c
  · subst h
    cases b <;> simp [h0, he, hf]
  · cases b <;> simp [h]

/-- A user flag as SETF leaves it. -/
def userFlag (set clr : Nat) (w : W64) (x : Mill) (i : Nat) : Mill :=
  if bit set i && bit clr i then x.setFlag (12 + i) (flag w i)
  else if bit set i then x.setFlag (12 + i) true
  else if bit clr i then x.setFlag (12 + i) false else x

/-- What that flag reads. -/
def userValue (set clr : Nat) (w : W64) (i : Nat) (old : Bool) : Bool :=
  if bit set i && bit clr i then flag w i else if bit set i then true else if bit clr i then false else old

theorem hasFlag_userFlag (set clr : Nat) (w : W64) (x : Mill) (i c : Nat) :
    (userFlag set clr w x i).hasFlag c = if c = 12 + i then userValue set clr w i (x.hasFlag c) else x.hasFlag c := by
  have hset := fun b => hasFlag_setFlag (c := 12 + i) (by omega) (by unfold fCqEmpty; omega) (by unfold fCqFull; omega) x c b
  unfold userFlag userValue
  split
  · exact hset _
  · split
    · exact hset _
    · split
      · exact hset _
      · simp

/-- The first user flags as SETF leaves them; every other flag is as it was. -/
theorem hasFlag_userFlags (set clr : Nat) (w : W64) (x : Mill) (c n : Nat) : ((List.range n).foldl (userFlag set clr w) x).hasFlag c =
    if 12 ≤ c ∧ c < 12 + n then userValue set clr w (c - 12) (x.hasFlag c) else x.hasFlag c := by
  induction n with
  | zero => rw [if_neg (by omega)]; rfl
  | succ n ih =>
    rw [List.range_succ, List.foldl_append, List.foldl_cons, List.foldl_nil, hasFlag_userFlag, ih]
    by_cases h : c = 12 + n
    · rw [if_pos h, if_neg (by omega), if_pos (by omega), h, Nat.add_sub_cancel_left]
    · rw [if_neg h]
      exact if_congr (by omega) rfl rfl

/-- The mill as SETF leaves it, with the word that an open value is taken from. -/
def setfMill (t : MStep) (w : W64) (x : Mill) : Mill :=
  let x := (List.range 4).foldl (userFlag (bits t.w1 0 4) (bits t.w1 4 4) w) x
  let x := if bit t.w1 8 then x.setFlag fErr false else x
  if bit t.w1 9 then x.setFlag fPoison false else x

theorem setfMill_hasFlag (t : MStep) (w : W64) (x : Mill) (c : Nat) : (setfMill t w x).hasFlag c =
    if c = fPoison then x.hasFlag c && !bit t.w1 9 else if c = fErr then x.hasFlag c && !bit t.w1 8
    else if 12 ≤ c ∧ c < 16 then userValue (bits t.w1 0 4) (bits t.w1 4 4) w (c - 12) (x.hasFlag c) else x.hasFlag c := by
  have herr := hasFlag_setFlag (c := fErr) (by decide) (by decide) (by decide)
  have hpoison := hasFlag_setFlag (c := fPoison) (by decide) (by decide) (by decide)
  have huser := hasFlag_userFlags (bits t.w1 0 4) (bits t.w1 4 4) w x c 4
  unfold setfMill
  extract_lets y z
  have hz : z.hasFlag c = if c = fErr then y.hasFlag c && !bit t.w1 8 else y.hasFlag c := by
    unfold z
    cases bit t.w1 8 <;> simp [herr]
  have hp : (if bit t.w1 9 = true then z.setFlag fPoison false else z).hasFlag c =
      if c = fPoison then z.hasFlag c && !bit t.w1 9 else z.hasFlag c := by
    cases bit t.w1 9 <;> simp [hpoison]
  rw [hp, hz, huser]
  by_cases h7 : c = fPoison
  · subst h7; rfl
  · by_cases h6 : c = fErr
    · subst h6; rfl
    · rw [if_neg h7, if_neg h6, if_neg h7, if_neg h6]

/-- y is x but for its flags. -/
def Flagged (x y : Mill) : Prop := ∃ l, y = { x with flags := l }

theorem Flagged.setFlag {x y : Mill} (h : Flagged x y) (c : Nat) (b : Bool) : Flagged x (y.setFlag c b) := by
  obtain ⟨l, rfl⟩ := h
  exact ⟨_, rfl⟩

theorem setfMill_flagged (t : MStep) (w : W64) (x : Mill) : Flagged x (setfMill t w x) := by
  have huser : Flagged x ((List.range 4).foldl (userFlag (bits t.w1 0 4) (bits t.w1 4 4) w) x) :=
    keeps_foldl (P := Flagged x) (fun y i h => keeps_ite (h.setFlag _ _) (keeps_ite (h.setFlag _ _) (keeps_ite (h.setFlag _ _) h))) _ _
      ⟨x.flags, rfl⟩
  have herr := keeps_ite (P := Flagged x) (c := bit t.w1 8 = true) (huser.setFlag fErr false) huser
  exact keeps_ite (herr.setFlag _ _) herr

/-! ## A step that may start (R234, R235) -/

/-- What the answer of a step's body comes to. -/
def afterStep (m : Nat) (t : MStep) (pc : Nat) (s : State) : StepRes → State
  | .stall => s
  | .fault => endMill m .faultPermission (stepDetail pc 0) s
  | .done u => advance m t u
  | .goto pc u => updMill m (fun x => { x with pc }) u
  | .stay u => u

section
variable {s u : State} {m kind : Nat} {t : MStep} {k : Nat × Nat} {j : Job}

/-- With nothing outstanding a step of the kind starts. -/
theorem runStep_atStep (h : AtStep s m kind t k j) (body : MStep → Mill → Job → State → StepRes) :
    runStep m kind body s = afterStep m t (millOf s m).pc s (body t (millOf s m) j s) := by
  obtain ⟨hcut, hwithdrawn⟩ := h.uncut
  obtain ⟨hended, hwait, hbranch⟩ := h.open_
  obtain ⟨hsteps, hckpt⟩ := h.quiet
  have htable : (millOf s m).table.isEmpty = false := by simpa [List.isEmpty_iff] using h.table
  simp only [runStep, h.job, h.found, h.current, h.kind, htable, hended, hwait, hbranch, hcut, hwithdrawn, hsteps, hckpt, List.any_nil,
    Option.isSome_none, bne_self_eq_false, Bool.or_self, Bool.false_and, Bool.false_eq_true, if_false]
  cases body t (millOf s m) j s <;> rfl

theorem runStep_done {body : MStep → Mill → Job → State → StepRes} (h : AtStep s m kind t k j) (hb : body t (millOf s m) j s = .done u) :
    runStep m kind body s = advance m t u := by
  rw [runStep_atStep h, hb]
  rfl

theorem runStep_goto {body : MStep → Mill → Job → State → StepRes} {pc : Nat} (h : AtStep s m kind t k j)
    (hb : body t (millOf s m) j s = .goto pc u) : runStep m kind body s = updMill m (fun x => { x with pc }) u := by
  rw [runStep_atStep h, hb]
  rfl

theorem runStep_stay {body : MStep → Mill → Job → State → StepRes} (h : AtStep s m kind t k j) (hb : body t (millOf s m) j s = .stay u) :
    runStep m kind body s = u := by
  rw [runStep_atStep h, hb]
  rfl

/-! ## The choice of the next step (R234) -/

theorem advance_next (h : t.neverBranches = true) : advance m t s = updMill m (fun x => { x with pc := x.pc + 1 }) s := if_pos h

theorem advance_always (h : t.neverBranches = false) (hc : t.cond = 0) : advance m t s = updMill m (fun x => { x with pc := t.branch }) s := by
  simp only [advance, h, hc, beq_self_eq_true, Bool.false_eq_true, if_false, if_true]

/-- The step after one that branches on a flag. -/
def flagPc (t : MStep) (x : Mill) : Nat := if x.hasFlag t.cond ≠ t.cneg then t.branch else x.pc + 1

/-- A branch that nothing outstanding holds up is decided. -/
theorem tryBranch_decides {pc : Nat} (hb : (millOf s m).branch = some pc) (hsteps : (millOf s m).steps = []) (hckpt : (millOf s m).ckpt = none) :
    tryBranch m s = updMill m (fun x => { x with branch := none, pc := flagPc (millOf s m).current x }) s := by
  simp only [tryBranch, hb, hsteps, hckpt, List.isEmpty_nil, List.any_nil, Bool.not_true, Bool.and_false, ite_self, Option.isSome_none,
    Bool.or_self, Bool.false_eq_true, if_false, bne_iff_ne, flagPc]

theorem advance_flag (h : AtStep s m kind t k j) (hn : t.neverBranches = false) (hc : t.cond ≠ 0) :
    MillBecomes s m { millOf s m with pc := flagPc t (millOf s m) } (advance m t s) := by
  obtain ⟨-, -, hbranch⟩ := h.open_
  obtain ⟨hsteps, hckpt⟩ := h.quiet
  obtain ⟨u, hu⟩ : ∃ u, u = updMill m (fun x => { x with branch := some x.pc }) s := ⟨_, rfl⟩
  have hm : millOf u m = { millOf s m with branch := some (millOf s m).pc } := by rw [hu, millOf_updMill_same]
  have hcur : (millOf u m).current = t := by rw [hm]; exact h.current
  have he : advance m t s = updMill m (fun x => { x with branch := none, pc := flagPc t x }) u := by
    rw [← hcur, ← tryBranch_decides (pc := (millOf s m).pc) (by rw [hm]) (by rw [hm]; exact hsteps) (by rw [hm]; exact hckpt), hcur, hu]
    simp only [advance, hn, hc, beq_iff_eq, Bool.false_eq_true, if_false]
  have hself : ({ millOf s m with branch := none, pc := flagPc t (millOf s m) } : Mill) = { millOf s m with pc := flagPc t (millOf s m) } :=
    congrArg (fun b => ({ millOf s m with branch := b, pc := flagPc t (millOf s m) } : Mill)) hbranch.symm
  rw [he, hu, ← hself]
  exact millBecomes_updMill (millBecomes_updMill (millBecomes_self s m) _) _

/-! ## FENCE (R164, R165) -/

/-- With nothing outstanding no epoch is open, and the next one may be opened. -/
theorem fence_opens {x : Mill} (h : x.steps = []) (epoch : Nat) : mayOpen x.openEpochs epoch = true := by
  have he : x.openEpochs = [] := by simp [Mill.openEpochs, h]
  rw [he]
  rfl

/-! ## END (R239) -/

/-- A descriptor that holds no codebook slot has ended. -/
theorem finishJob_ended {j : Job} (hs : j.slots = []) (hb : j.builds = []) (st : Status) (detail : Nat) (indet : Bool) (s : State) :
    Ended j st s (finishJob j st detail indet s) := by
  simp only [finishJob, hs, hb, List.foldl_nil]
  refine ⟨List.find?_eq_none.2 (fun x hx => ?_), _, rfl, rfl, rfl, rfl, rfl⟩
  have hne := (List.mem_filter.1 hx).2
  simp only [Bool.not_eq_true'] at hne
  rw [hne]
  exact Bool.false_ne_true

/-- A mill without the descriptor that it ran. -/
def freed (k : Nat × Nat) (x : Mill) : Mill := if x.job == some k then { x with job := none, piece := none } else x

theorem finishJob_frees {j : Job} (hs : j.slots = []) (hb : j.builds = []) {m : Nat} {s : State}
    (hj : (millOf s m).job = some (j.rill, j.index)) (st : Status) (detail : Nat) (indet : Bool) :
    (millOf (finishJob j st detail indet s) m).job = none := by
  have hm : (finishJob j st detail indet s).mills = Tbl.mapVal (freed (j.rill, j.index)) s.mills := by
    simp only [finishJob, hs, hb, List.foldl_nil, addDue, Tbl.mapVal]
    refine List.map_congr_left (fun x _ => ?_)
    unfold freed
    split <;> rfl
  have hget : millOf (finishJob j st detail indet s) m = freed (j.rill, j.index) (millOf s m) := by
    rw [millOf, hm]
    exact SteerScrub.get_mapVal_fixed rfl s.mills m
  rw [hget, freed, if_pos (by rw [hj, beq_self_eq_true])]

/-- With nothing outstanding the descriptor ends at once. -/
theorem endMill_finishes (h : AtStep s m kind t k j) (st : Status) (detail : Nat) : endMill m st detail s =
    finishJob j st detail false (updMill m (fun x => { x with ended := some (st, detail, false) }) s) := by
  obtain ⟨hcut, hwithdrawn⟩ := h.uncut
  obtain ⟨hended, -, -⟩ := h.open_
  obtain ⟨hsteps, hckpt⟩ := h.quiet
  have hu : updMill m (fun x => if x.ended.isSome then x else { x with ended := some (st, detail, false) }) s
      = updMill m (fun x => { x with ended := some (st, detail, false) }) s :=
    updMill_congr (by simp only [hended, Option.isSome_none, Bool.false_eq_true, if_false])
  have hfound : findJob (updMill m (fun x => { x with ended := some (st, detail, false) }) s) k.1 k.2 = some j := h.found
  simp only [endMill, hu, tryFinish, millOf_updMill_same, h.job, hfound, hsteps, hckpt, hcut, hwithdrawn, List.isEmpty_nil, Bool.not_true,
    Option.isSome_none, Bool.or_self, Bool.false_eq_true, if_false]

end

/-! ## WAIT (R234) -/

theorem current_scope (x : Mill) : x.current.scope < 8 := by
  unfold Mill.current
  split <;> exact Nat.mod_lt _ (by decide)

/-- OP_FIELDS of a poll carry ACQUIRE. -/
theorem stepOpf_acquire {t : MStep} (ha : t.acquire = true) (hs : t.sealW = false) (hscope : t.scope < 8) : opAcquire (stepOpf t 0) = true := by
  have hp : b2n t.persist < 2 := by cases t.persist <;> decide
  have hc : b2n t.confluent < 2 := by cases t.confluent <;> decide
  have hv : stepOpf t 0 = BitVec.ofNat 64 (2 ^ 62 + b2n t.persist * 2 ^ 61 + b2n t.confluent * 2 ^ 60 + t.scope * 2 ^ 57) := by
    simp [stepOpf, ha, hs, b2n, at']
  rw [hv]
  simp only [opAcquire, flag, bit, BitVec.toNat_ofNat, beq_iff_eq]
  omega

/-- A mill's request that goes to one piece on this node waits in its home queue or at its source. -/
theorem memIssue_placed {s u : State} {m : Nat} {j : Job} {t : MStep} {op : Op} {va len own : Nat} {p : Piece}
    (h : OneLocal s m j va len op (stepOpf t own) p) (hm : op ≠ .mcastStore) (hs : SameSearch s u) (hp : SamePlace s u) (data : Bytes)
    (prov : Bool) (w : MemStep) : Placed s (memIssue m j t op va len data own prov w u) (fun q => q.op = op ∧ q.addr = p.addr ∧ q.len = len
      ∧ q.data = data ∧ q.opf = stepOpf t own ∧ q.origin = ⟨s.node, j.party⟩ ∧ q.src = .mill m ∧ q.tclass = .mill) := by
  have hnode : u.node = s.node := by rw [State.node, State.node, hs.hw]
  rw [← hnode]
  exact issueIn_placed h hm (hs.trans (updMill_search ..)) (hp.trans (updMill_place ..))

theorem millOf_memIssue (m : Nat) (j : Job) (t : MStep) (op : Op) (va len : Nat) (data : Bytes) (own : Nat) (prov : Bool) (w : MemStep)
    (s : State) : ∃ n e l c, millOf (memIssue m j t op va len data own prov w s) m =
      { millOf s m with nextStep := n, epoch := e, steps := l, ckpt := c } := by
  have hissue : ∀ r u, millOf (issueIn j.asid j.ctx r u) m = millOf u m := fun r u =>
    congrArg (fun l => Tbl.get ({} : Mill) l m) (issueIn_keeps (g := .mills) rfl _ _ r u (.refl _ u))
  exact ⟨_, _, _, _, (hissue _ _).trans (millOf_updMill_same ..)⟩

/-- A LOAD fits every target. -/
theorem oneLocal_load {s : State} {m : Nat} {j : Job} {va len : Nat} {opf : W64} {p : Piece} (h : OneLocal s m j va len .load opf p)
    (opf' : W64) : OneLocal s m j va len .load opf' p := ⟨h.translated, h.whole, h.home, h.open_, rfl⟩

/-- The step of a poll: it acquires, and seals nothing. -/
def pollStep (t : MStep) : MStep := { t with acquire := true, sealW := false }

/-- A mill with its poll on the way. -/
def polling (x : Mill) : Mill := { x with wait := x.wait.map (fun w => { w with polling := true }) }

theorem poll_eq (m : Nat) (j : Job) (t : MStep) (va : Nat) (s : State) : poll m j t va s =
    updMill m polling (memIssue m j (pollStep t) .load va 8 [] 0 false { id := 0, step := 0, addr := va, isRead := true } s) := rfl

theorem poll_polls {s u : State} {m : Nat} {j : Job} {t : MStep} {va : Nat} {p : Piece} (h : OneLocal s m j va 8 .load 0#64 p)
    (hscope : t.scope < 8) (hs : SameSearch s u) (hp : SamePlace s u) : Polls s m j p (poll m j t va u) := by
  have hplaced : Polls s m j p (memIssue m j (pollStep t) .load va 8 [] 0 false { id := 0, step := 0, addr := va, isRead := true } u) := by
    refine SluicePieces.placed_of_imp (memIssue_placed (oneLocal_load h _) (by decide) hs hp _ _ _) ?_
    rintro q ⟨hop, haddr, hlen, -, hopf, horigin, hsrc, -⟩
    exact ⟨hop, haddr, hlen, by rw [hopf]; exact stepOpf_acquire rfl rfl hscope, horigin, hsrc⟩
  rw [poll_eq]
  exact hplaced

theorem millOf_poll (m : Nat) (j : Job) (t : MStep) (va : Nat) (s : State) : ∃ n e l c, millOf (poll m j t va s) m =
    polling { millOf s m with nextStep := n, epoch := e, steps := l, ckpt := c } := by
  obtain ⟨n, e, l, c, hm⟩ := millOf_memIssue m j (pollStep t) .load va 8 [] 0 false { id := 0, step := 0, addr := va, isRead := true } s
  exact ⟨n, e, l, c, by rw [poll_eq, millOf_updMill_same, hm]⟩

/-- The mill as a WAIT begins: TIMEOUT is cleared, and the counter's address and target are held (R234). -/
def waiting (va target : Nat) (x : Mill) : Mill := { (x.setFlag fTimeout false) with wait := some { va, target } }

theorem timeout_set (x : Mill) (b : Bool) : (x.setFlag fTimeout b).hasFlag fTimeout = b := by
  rw [hasFlag_setFlag (by decide) (by decide) (by decide), if_pos rfl]

/-! ## The commands -/

section
variable {s : State} {m : Fin 800} {t : MStep} {k : Nat × Nat} {j : Job}

theorem exec_nop (h : AtStep s m kNop t k j) : exec (.nop m) s = .next (advance m t s) :=
  congrArg Host.Outcome.next (runStep_done h rfl)

/-- What SETLC loads: S[A] plus IMM, in 16 bits (Table 09-7). -/
def loopValue (t : MStep) (x : Mill) : Nat := unsigned 16 (Int.ofNat (x.reg t.a) + signed 16 (bits t.w1 0 16))

theorem exec_setlc (h : AtStep s m kSetlc t k j) : let v := loopValue t (millOf s m)
    exec (.setlc m) s = .next (advance m t (updMill m (fun x => { x with lc := setNth x.lc (t.d % 4) (v, v) }) s)) :=
  congrArg Host.Outcome.next (runStep_done h rfl)

/-- LOOP with its counter and reload value (R234). -/
theorem exec_loopStep (h : AtStep s m kLoop t k j) {count reload : Nat} (hl : nth (0, 0) (millOf s m).lc (t.d % 4) = (count, reload)) :
    exec (.loopStep m) s = .next (
      if count = 0 then
        updMill m (fun x => { x with pc := (millOf s m).pc + 1 }) (updMill m (fun x => { x with lc := setNth x.lc (t.d % 4) (reload, reload) }) s)
      else
        updMill m (fun x => { x with pc := t.branch }) (updMill m (fun x => { x with lc := setNth x.lc (t.d % 4) (count - 1, reload) }) s)) := by
  split <;> next hc => exact congrArg Host.Outcome.next (runStep_goto h (by simp [hl, hc]))

/-- SETF changes the mill alone, but for the free word that an open value takes. -/
theorem exec_setf (h : AtStep s m kSetf t k j) :
    ∃ w u, u.mills = s.mills ∧ exec (.setf m) s = .next (advance m t (updMill m (setfMill t w) u)) := by
  by_cases hb : (List.range 4).any (fun i => bit (bits t.w1 0 4) i && bit (bits t.w1 4 4) i) = true
  · exact ⟨(takeWord s).1, (takeWord s).2, rfl, congrArg Host.Outcome.next (runStep_done h (by simp only [hb, if_true]; rfl))⟩
  · exact ⟨0#64, s, rfl, congrArg Host.Outcome.next (runStep_done h (by simp only [hb]; rfl))⟩

theorem millOf_setf {u : State} (hn : t.neverBranches = true) (hu : u.mills = s.mills) (w : W64) :
    millOf (advance m t (updMill m (setfMill t w) u)) m = { setfMill t w (millOf s m) with pc := (millOf s m).pc + 1 } := by
  obtain ⟨l, hl⟩ := setfMill_flagged t w (millOf s m)
  have hm : millOf u m = millOf s m := congrArg (fun x => Tbl.get ({} : Mill) x m.val) hu
  rw [advance_next hn, millOf_updMill_same, millOf_updMill_same, hm, hl]

theorem exec_fence (h : AtStep s m kFence t k j) :
    exec (.fence m) s = .next (advance m t (updMill m (fun x => { x with epoch := (x.epoch + 1) % 256 }) s)) := by
  obtain ⟨hsteps, -⟩ := h.quiet
  exact congrArg Host.Outcome.next (runStep_done h (by simp [hsteps, fence_opens hsteps]))

theorem exec_waitStep (h : AtStep s m kWait t k j) : exec (.waitStep m) s =
    .next (poll m j t (stepVa (millOf s m) t) (updMill m (waiting (stepVa (millOf s m) t) ((millOf s m).reg t.b)) s)) := by
  obtain ⟨hsteps, -⟩ := h.quiet
  have hr : readsOut (millOf s m) = 0 := by simp [readsOut, hsteps]
  exact congrArg Host.Outcome.next (runStep_stay h (by simp only [hr]; rfl))

theorem exec_stepEnd (h : AtStep s m kEnd t k j) : ∃ detail, exec (.stepEnd m) s =
    .next (finishJob j (millOf s m).soft detail false (updMill m (fun x => { x with ended := some ((millOf s m).soft, detail, false) }) s)) := by
  obtain ⟨hsteps, -⟩ := h.quiet
  refine ⟨if bit t.func 0 then (millOf s m).reg t.a else 0, congrArg Host.Outcome.next ?_⟩
  rw [← endMill_finishes h]
  exact runStep_stay h (by simp [hsteps])

section
variable {w : WaitSt} (hjob : (millOf s m).job = some k) (hfound : findJob s k.1 k.2 = some j) (hcut : j.cut = false)
  (hwithdrawn : j.withdrawn = false) (hwait : (millOf s m).wait = some w)
include hjob hfound hcut hwithdrawn hwait

theorem exec_waitPoll_again (hp : w.polling = false) (hr : readsOut (millOf s m) < 256) :
    exec (.waitPoll m false) s = .next (poll m j (millOf s m).current w.va s) := by
  have hr : ¬ 256 ≤ readsOut (millOf s m) := by omega
  have he : exec (.waitPoll m false) s = execWaitPoll m false s := rfl
  simp only [he, execWaitPoll, hjob, hfound, hcut, hwithdrawn, hwait, hp, hr, decide_false, Bool.or_self, Bool.false_eq_true, if_false]

theorem exec_waitPoll_timeout : exec (.waitPoll m true) s = .next (endWait m true s) := by
  have he : exec (.waitPoll m true) s = execWaitPoll m true s := rfl
  simp only [he, execWaitPoll, hjob, hfound, hcut, hwithdrawn, hwait, Bool.or_self, Bool.false_eq_true, if_false, if_true]

end
end

/-! ## The statement -/

/-- Settles O36: each command by its equation, the next step by the choice that its step makes. What SETF gives a flag named both to set and to
clear is open (log entry 30). -/
theorem millsControlTheirSteps : Obligations.MillsControlTheirSteps := by
  unfold Obligations.MillsControlTheirSteps
  intro s m t k j x
  refine ⟨fun h => ⟨fun hn => ?_, fun hn hc => ?_, fun hn hc => ?_⟩, fun h hn => ?_, fun count reload h hl => ⟨fun hc => ?_, fun hc => ?_⟩,
    fun h hn => ?_, fun h hn => ?_, fun p h hp => ?_, fun w p hj hf hcut hwd hw hpoll hr hp => ?_, fun w hj hf hcut hwd hw hn => ?_,
    fun h hrill hindex hslots hbuilds => ?_⟩
  · refine ⟨_, exec_nop h, ?_⟩
    rw [advance_next hn]
    exact millBecomes_updMill (millBecomes_self s m) _
  · refine ⟨_, exec_nop h, ?_⟩
    rw [advance_always hn hc]
    exact millBecomes_updMill (millBecomes_self s m) _
  · exact ⟨_, exec_nop h, advance_flag h hn hc⟩
  · refine ⟨_, exec_setlc h, ?_⟩
    rw [advance_next hn]
    exact millBecomes_updMill (millBecomes_updMill (millBecomes_self s m) _) _
  · refine ⟨_, exec_loopStep h hl, ?_⟩
    rw [if_neg hc]
    exact millBecomes_updMill (millBecomes_updMill (millBecomes_self s m) _) _
  · refine ⟨_, exec_loopStep h hl, ?_⟩
    rw [if_pos hc]
    exact millBecomes_updMill (millBecomes_updMill (millBecomes_self s m) _) _
  · obtain ⟨w, u, hu, he⟩ := exec_setf h
    obtain ⟨l, hl⟩ := setfMill_flagged t w x
    have hflag : ∀ c, ({ setfMill t w x with pc := x.pc + 1 } : Mill).hasFlag c = (setfMill t w x).hasFlag c := fun _ => rfl
    refine ⟨_, he, ?_⟩
    beta_reduce
    rw [millOf_setf hn hu w]
    refine ⟨fun i hi hboth => ?_, ?_, ?_, rfl, by rw [hl]⟩
    · rw [hflag, setfMill_hasFlag, if_neg (by unfold fPoison; omega), if_neg (by unfold fErr; omega), if_pos (by omega),
        Nat.add_sub_cancel_left, userValue, if_neg (by simpa using hboth)]
    · rw [hflag, setfMill_hasFlag, if_neg (by decide), if_pos rfl]
    · rw [hflag, setfMill_hasFlag, if_pos rfl]
  · refine ⟨_, exec_fence h, ?_⟩
    rw [advance_next hn]
    exact millBecomes_updMill (millBecomes_updMill (millBecomes_self s m) _) _
  · refine ⟨_, exec_waitStep h, poll_polls hp (h.current ▸ current_scope _) (updMill_search ..) (updMill_place ..), ?_⟩
    obtain ⟨n, e, l, c, hm⟩ := millOf_poll m j t (stepVa x t) (updMill m (waiting (stepVa x t) (x.reg t.b)) s)
    rw [hm, millOf_updMill_same]
    exact ⟨rfl, timeout_set x false, rfl⟩
  · refine ⟨_, exec_waitPoll_again hj hf hcut hwd hw hpoll hr,
      poll_polls hp (current_scope _) ⟨rfl, rfl, rfl, rfl⟩ ⟨rfl, rfl, rfl, rfl, rfl⟩, ?_⟩
    obtain ⟨n, e, l, c, hm⟩ := millOf_poll m j x.current w.va s
    rw [hm]
    exact congrArg (Option.map _) hw
  · refine ⟨_, exec_waitPoll_timeout hj hf hcut hwd hw, ?_⟩
    have he : endWait m true s = updMill m (fun x => { x with pc := x.pc + 1 })
        (updMill m (fun x => { (x.setFlag fTimeout true) with wait := none }) s) := advance_next hn
    beta_reduce
    rw [he, millOf_updMill_same, millOf_updMill_same]
    exact ⟨rfl, timeout_set x true, rfl⟩
  · obtain ⟨detail, he⟩ := exec_stepEnd h
    refine ⟨_, he, finishJob_ended hslots hbuilds _ _ _ _, finishJob_frees hslots hbuilds ?_ _ _ _⟩
    rw [millOf_updMill_same, hrill, hindex]
    exact h.job

end Sys2Proof.MillControl
end

section
/-!
The batches of a mirror set (R199, R201, R202): what closing one leaves, the mark that ends one, and the entry of LINK_DOWN.
-/
namespace Sys2Proof.MirrorBatches

open Sys2Proof Sys2Proof.Machine Sys2Proof.Safety Sys2Proof.KeeperCommands

@[simp] theorem mirrorOf_updMirror (i : Nat) (f : MirrorSt → MirrorSt) (s : State) : mirrorOf (updMirror i f s) i = f (mirrorOf s i) :=
  Tbl.get_upd_same ({} : MirrorSt) s.sluice.mirrors i f

theorem mirrorOf_congr {s t : State} (h : t.sluice = s.sluice) (i : Nat) : mirrorOf t i = mirrorOf s i := by rw [mirrorOf, mirrorOf, h]

theorem mirrorSetting_index {s : State} {i : Nat} {m : MirrorSetting} (h : mirrorSetting s i = some m) : m.index = i := by
  simpa using List.find?_some h

/-! ## Closing a batch (R199) -/

/-- A page of a set that waits for its maintenance slot to be shipped. -/
def ShipWaits (s : State) (i p : Nat) : Prop := ∃ w ∈ s.weir.maint, w.2 = .ship i p

theorem shipWaits_maintain {s : State} {i p q : Nat} (race : Nat) (h : p = q ∨ ShipWaits s i p) : ShipWaits (maintain race (.ship i q) s) i p := by
  by_cases hpq : p = q
  · exact ⟨(race, .ship i p), List.mem_append_right _ (List.mem_singleton.2 (by rw [hpq])), rfl⟩
  · obtain ⟨w, hw, hship⟩ := h.resolve_left hpq
    exact ⟨w, List.mem_append_left _ (List.mem_filter.2 ⟨hw, by simpa [hship] using hpq⟩), hship⟩

/-- Pages that ask for their shipment, one after another, each wait for it; nothing else changes. -/
theorem maintainShips_spec (i : Nat) (ps : List Nat) (s : State) :
    let t := ps.foldl (fun s p => maintain (homeRace s (p * 65536)) (.ship i p) s) s
    t.sluice = s.sluice ∧ t.store = s.store ∧ ∀ p, p ∈ ps ∨ ShipWaits s i p → ShipWaits t i p := by
  induction ps generalizing s with
  | nil => exact ⟨rfl, rfl, fun p h => h.resolve_left (List.not_mem_nil)⟩
  | cons q ps ih =>
    obtain ⟨hsluice, hstore, hwaits⟩ := ih (maintain (homeRace s (q * 65536)) (.ship i q) s)
    refine ⟨hsluice, hstore, fun p h => hwaits p ?_⟩
    rw [List.mem_cons] at h
    rcases h with (h | h) | h
    · exact .inr (shipWaits_maintain _ (.inl h))
    · exact .inl h
    · exact .inr (shipWaits_maintain _ (.inr h))

theorem closeBatch_closes {s : State} {i : Nat} {m : MirrorSetting} (h : mirrorSetting s i = some m) (resync : Bool) :
    let r := resync || (mirrorOf s i).full
    BatchClosed s (closeBatch m resync s) i (if r then mirrorResync else mirrorShipping) r := by
  obtain rfl := mirrorSetting_index h
  unfold closeBatch
  extract_lets r x r' n units u
  obtain ⟨hsluice, hstore, hwaits⟩ := maintainShips_spec m.index x.bits u
  refine ⟨?_, fun p hp => hwaits p (.inl hp), hstore⟩
  rw [mirrorOf_congr hsluice]
  exact mirrorOf_updMirror _ _ _

/-! ## The mark (R199) -/

/-- A set whose batch has its mark on the way. -/
def marked (x : MirrorSt) : MirrorSt := { x with marking := true }

/-- The mark of the batch under way as it is issued to a gateway on another node. -/
def markReq (s : State) (m : MirrorSetting) (x : MirrorSt) : Req :=
  { op := .sluicePut, addr := poolAddr m.gateway 1 (m.window * 2 ^ 46), len := 4096, data := toBytes 0 8, tclass := .maintenance, party := 15
    origin := ⟨s.node, 15⟩, cls := .any, src := .mirror m.index, opf := putFields true x.resync x.batch }

/-- The mark as it leaves on a port. -/
def markSent (s : State) (m : MirrorSetting) (x : MirrorSt) : Req := { markReq s m x with gen := s.hw.compGen, tclass := portClass .maintenance }

/-- A request for another node of the pool is offered to the port that its page leaves by. -/
theorem issue_routed {s : State} {r : Req} {port : Nat} (hhome : addrNode r.addr ≠ s.node) (hop : r.op ≠ .mcastStore)
    (hmap : s.map.state ≠ .forming) (hpool : addrNode r.addr ∈ s.map.pool) (hroute : routePort s r.party r.addr = some port) :
    issue r s = offer (some port) { r with gen := s.hw.compGen, tclass := portClass r.tclass } s := by
  have hh : isHome s r = false := by simp [isHome, hop, hhome]
  have ht : target s r = .ok (some port) := by simp [target, hh, hop, hmap, hpool, destOf, hroute]
  simp [issue, ht, outbound, hh, hop]

theorem sendMark_routed {s : State} {m : MirrorSetting} {x : MirrorSt} {port i : Nat} {f : MirrorSt → MirrorSt} (hgate : m.gateway ≠ s.node)
    (hnode : addrNode (poolAddr m.gateway 1 (m.window * 2 ^ 46)) = m.gateway) (hmap : s.map.state ≠ .forming) (hpool : m.gateway ∈ s.map.pool)
    (hroute : routePort s 15 (poolAddr m.gateway 1 (m.window * 2 ^ 46)) = some port) :
    sendMirror m 0 (toBytes 0 8) (putFields true x.resync x.batch) (updMirror i f s) = offer (some port) (markSent s m x) (updMirror i f s) := by
  have hg : (m.gateway == (updMirror i f s).node) = false := beq_eq_false_iff_ne.2 hgate
  have hi := issue_routed (s := updMirror i f s) (r := markReq s m x) (port := port) (fun h => hgate (hnode.symm.trans h)) nofun hmap
    (hnode.symm ▸ hpool) hroute
  unfold sendMirror
  rw [hg, if_neg Bool.false_ne_true, Nat.add_zero]
  exact hi

/-! ## LINK_DOWN (R201) -/

/-- A set as LINK_DOWN leaves it: what was not acknowledged has its bits again. -/
def downed (x : MirrorSt) : MirrorSt :=
  { x with state := mirrorLinkDown', bits := insertAll (pagesUnacked x) x.bits, ship := [], unacked := [], marking := false, resync := false }

theorem logMirror_logged {s : State} (hup : s.keeper.up = true) {i : Nat} {m : MirrorSetting} (h : mirrorSetting s i = some m)
    (sev lag incomplete : Nat) : Logged s (logMirror i sev lag incomplete s) 0x0207 m.setId
      ((mirrorOf s i).state + at' lag 4 + at' incomplete 5 + at' (mirrorOf s i).lastBatch 32) := by
  simp only [logMirror, h]
  exact PortExpiries.logEv_logged hup ..

theorem logMirror_alert {s : State} (hup : s.keeper.up = true) (i sev lag incomplete : Nat) :
    (logMirror i sev lag incomplete s).keeper.alert = s.keeper.alert := by
  unfold logMirror
  split
  · rfl
  · dsimp only
    rw [logEv_up hup]

/-- A set that has let its bound pass. -/
def lagging (x : MirrorSt) : MirrorSt := { x with lagExceeded := true }

/-- A primary set's link goes down. -/
theorem enterLinkDown_spec {s : State} (hup : s.keeper.up = true) {i : Nat} {m : MirrorSetting} (h : mirrorSetting s i = some m)
    (hp : (mirrorOf s i).primary = true) (hs : (mirrorOf s i).state ≠ mirrorLinkDown') :
    mirrorOf (enterLinkDown i s) i = downed (mirrorOf s i)
    ∧ (∀ w ∈ (enterLinkDown i s).weir.maint ++ (enterLinkDown i s).weir.flashQ, ∀ p, w.2 ≠ .ship i p)
    ∧ Logged s (enterLinkDown i s) 0x0207 m.setId (2 + (mirrorOf s i).lastBatch * 2 ^ 32) := by
  have he : enterLinkDown i s = logMirror i sevNotice 0 0 (dropShips i (updMirror i downed s)) := by
    simp only [enterLinkDown, hp, hs, beq_iff_eq, Bool.not_true, Bool.false_or, if_false]
    rfl
  have hm : mirrorOf (dropShips i (updMirror i downed s)) i = downed (mirrorOf s i) := mirrorOf_updMirror i downed s
  have hlog : Logged s _ 0x0207 m.setId _ := logMirror_logged (s := dropShips i (updMirror i downed s)) hup h sevNotice 0 0
  rw [hm] at hlog
  rw [he]
  refine ⟨(mirrorOf_congr (logMirror_sluice ..) i).trans hm, fun w hw p hship => ?_, ?_⟩
  · rw [logMirror_weir, dropShips, List.mem_append, List.mem_filter, List.mem_filter] at hw
    simp [hship] at hw
  · simpa [downed, at', mirrorLinkDown'] using hlog

/-- Settles O49: a batch by what closing one leaves, LINK_DOWN by its one entry, the mark and the lag by their equations. That nothing happens
when nothing is due is log entry 4, and how the lag runs log entry 69. -/
theorem mirrorsShipBatches : Obligations.MirrorsShipBatches := by
  unfold Obligations.MirrorsShipBatches
  intro s i m hm hup
  refine ⟨fun hp => ⟨fun hdue hs => ?_, fun hno => ?_, fun hs => ?_, fun port hopen hacked hmark hgate hnode hmap hpool hroute hu => ?_,
    fun hs => ⟨_, rfl, enterLinkDown_spec hup hm hp hs⟩, fun lag hbound hlag hx => ?_⟩, fun hp lag c hc => ?_⟩
  · refine ⟨_, rfl, ?_⟩
    simp only [hm, hp, hdue, hs, beq_self_eq_true, Bool.and_self, if_true]
    exact closeBatch_closes hm false
  · refine ⟨_, rfl, ?_⟩
    have hn : ((mirrorOf s i).primary && (mirrorOf s i).due && (mirrorOf s i).state == mirrorIdle) = false := by
      rcases hno with h | h <;> simp [h]
    simp only [hm, hn, Bool.false_eq_true, if_false]
  · refine ⟨_, rfl, ?_⟩
    simp only [hm, hp, hs, beq_self_eq_true, Bool.and_self, if_true]
    exact closeBatch_closes hm true
  · have he : exec (.mirrorBatchAcked i) s = .next (offer (some port) (markSent s m (mirrorOf s i)) (updMirror i marked s)) := by
      refine congrArg Host.Outcome.next ?_
      simp only [hm, hp, hopen, hacked, hmark, List.isEmpty_nil, Bool.not_false, Bool.and_self, if_true]
      exact sendMark_routed hgate hnode hmap hpool hroute
    refine ⟨_, he, ?_, ?_⟩
    · exact (mirrorOf_congr (SluicePieces.offer_sluice ..) i).trans (mirrorOf_updMirror i marked s)
    · have hsent : Leaves (updMirror i marked s) (offer (some port) (markSent s m (mirrorOf s i)) (updMirror i marked s)) port
          (fun r => r.op = .sluicePut ∧ r.addr = poolAddr m.gateway 1 (m.window * 2 ^ 46)
            ∧ r.opf = putFields true (mirrorOf s i).resync (mirrorOf s i).batch ∧ r.data = toBytes 0 8) :=
        SluicePieces.offer_leaves (s := updMirror i marked s) (r := markSent s m (mirrorOf s i)) hu ⟨rfl, rfl, rfl, rfl⟩ port
      exact hsent
  · have hn : (!(mirrorOf s i).primary || decide (lag ≤ m.lagBoundMs) || decide (lagMs s i < lag) || (mirrorOf s i).lagExceeded) = false := by
      simp [hp, hx, hbound, hlag]
    have he : exec (.lagExceeded i lag) s = .next (logMirror i sevAlarm 1 0 (setAlert alertLag (updMirror i lagging s))) := by
      refine congrArg Host.Outcome.next ?_
      simp only [hm, hn, Bool.false_eq_true, if_false]
      rfl
    have hlog : Logged s _ 0x0207 m.setId _ := logMirror_logged (s := setAlert alertLag (updMirror i lagging s)) hup hm sevAlarm 1 0
    have hx : mirrorOf (setAlert alertLag (updMirror i lagging s)) i = lagging (mirrorOf s i) := mirrorOf_updMirror i lagging s
    refine ⟨_, he, (mirrorOf_congr (logMirror_sluice ..) i).trans hx, ?_, ?_⟩
    · rw [logMirror_alert (s := setAlert alertLag (updMirror i lagging s)) hup]
      rfl
    · rw [hx] at hlog
      simpa [lagging, at'] using hlog
  · simp only [List.mem_cons, List.not_mem_nil, or_false] at hc
    rcases hc with rfl | rfl | rfl | rfl | rfl
    all_goals refine ⟨_, rfl, ?_⟩
    all_goals simp [hm, hp, enterLinkDown]

end Sys2Proof.MirrorBatches
end

section
/-!
The loss of an owner (R204, Table 07-12): each kind by what the loss does to the state before the requests that it ends, and those by what a
completion leaves as it is.
-/
namespace Sys2Proof.LostOwners

open Sys2Proof Sys2Proof.Machine Sys2Proof.Safety Sys2Proof.MillControl Sys2Proof.PortExpiries Sys2Proof.MirrorBatches

/-! ## What a completion leaves (R112, R156) -/

/-- t stands after completions from s: no other request has been sent or forgotten, and nothing that landed is lost. -/
structure Landing (s t : State) : Prop where
  sent : t.net.sent = s.net.sent
  landed : s.weir.landed ⊆ t.weir.landed

theorem Landing.refl (s : State) : Landing s s := ⟨rfl, List.Subset.refl _⟩

theorem Landing.trans {s t u : State} (h : Landing s t) (k : Landing t u) : Landing s u :=
  ⟨k.sent.trans h.sent, List.Subset.trans h.landed k.landed⟩

theorem land_landing (r : Req) (st : Status) (data : Bytes) (s : State) : Landing s (land r st data s) := ⟨rfl, List.subset_append_left _ _⟩

theorem finish_landing (r : Req) (st : Status) (data : Bytes) (s : State) : Landing s (finish r st data s) := by
  unfold finish
  extract_lets d
  cases r.src with
  | port p l =>
    dsimp only
    split
    · exact ⟨rfl, List.Subset.refl _⟩
    · exact .refl s
  | host p =>
    dsimp only
    refine ⟨?_, by rw [PipeSteps.hostOutcome_weir]; exact List.Subset.refl _⟩
    rw [net_eq (hostOutcome_keeps (g := .net) rfl p r st d 0 s (.refl _ s)) (hostOutcome_keeps (g := .links) rfl p r st d 0 s (.refl _ s))]
  | mailbox _ => exact .refl s
  | migrator => exact .refl s
  | engine => exact .refl s
  | _ => exact land_landing r st d s

theorem complete_landing (r : Req) (st : Status) (data : Bytes) (s : State) : Landing s (complete r st data s) := by
  have hj : ∀ js, Landing s { s with net := { s.net with joins := js } } := fun _ => ⟨rfl, List.Subset.refl _⟩
  unfold complete
  split
  · exact finish_landing ..
  · split
    · exact finish_landing ..
    · extract_lets +onlyGivenNames d y
      split
      · exact hj _
      · extract_lets parts
        split
        · exact (hj _).trans (land_landing ..)
        · exact (hj _).trans (finish_landing ..)

/-- Requests that all complete with one status. -/
def completeAll (st : Status) (rs : List Req) (s : State) : State := rs.foldl (fun s r => complete r st [] s) s

theorem completeAll_landing (st : Status) (rs : List Req) (s : State) : Landing s (completeAll st rs s) :=
  keeps_foldl (P := Landing s) (fun _ _ h => h.trans (complete_landing ..)) rs s (.refl s)

theorem completeAll_keeps {g : Part} (hg : Free 134220544 g) (st : Status) (rs : List Req) (s : State) : Keeps g s (completeAll st rs s) :=
  keeps_foldl (P := Keeps g s) (fun _ _ h => complete_keeps hg _ _ _ _ h) rs s (.refl g s)

/-- A whole request of a descriptor that is among those completed has landed. -/
theorem completeAll_lands {st : Status} {r : Req} (hj : r.join = none) (hsrc : ∃ a b c, r.src = .rill a b c) {rs : List Req} (hr : r ∈ rs)
    (s : State) : ∃ l ∈ (completeAll st rs s).weir.landed, l.req = r ∧ l.status = st := by
  induction rs generalizing s with
  | nil => cases hr
  | cons x rs ih =>
    rcases List.mem_cons.1 hr with rfl | hr
    · obtain ⟨a, b, c, hsrc⟩ := hsrc
      have hl : (complete r st [] s).weir.landed = s.weir.landed ++ [{ req := r, status := st, data := [] }] := by
        simp [complete, hj, finish, hsrc, land]
      exact ⟨_, (completeAll_landing st rs _).landed (hl ▸ List.mem_append_right _ (List.mem_singleton_self _)), rfl, rfl⟩
    · exact ih hr _

/-! ## The parts that a loss speaks of -/

/-- t has the descriptors, their runs and the keeper's log as s has them. -/
structure SameRuns (s t : State) : Prop where
  rill : t.rill = s.rill
  exch : t.exch = s.exch
  mills : t.mills = s.mills
  buf : t.keeper.buf = s.keeper.buf

theorem buf_of_keeps {s t : State} (h : Keeps .keepLog s t) : t.keeper.buf = s.keeper.buf :=
  (congrArg KeeperSt.buf (show keepLogPart t.keeper = keepLogPart s.keeper from h) :)

theorem up_of_keeps {s t : State} (h : Keeps .keeper s t) : t.keeper.up = s.keeper.up :=
  (congrArg KeeperSt.up (show keeperPart t.keeper = keeperPart s.keeper from h) :)

theorem SameRuns.of_keeps {s t : State} (h : ∀ g : Part, Free 134220544 g → Keeps g s t) : SameRuns s t where
  rill := rill_eq (h .rill rfl) (h .rillTable rfl)
  exch := h .exch rfl
  mills := h .mills rfl
  buf := buf_of_keeps (h .keepLog rfl)

theorem loseRequests_same (hit : Req → Bool) (s : State) : SameRuns s (loseRequests hit s) :=
  .of_keeps (fun g hg => loseRequests_keeps (g := g) hg hit s (.refl g s))

/-- What is lost has not been sent any more. -/
theorem loseRequests_sent (hit : Req → Bool) (s : State) : (loseRequests hit s).net.sent = s.net.sent.filter (fun x => !hit x.req) := by
  have h : ∀ (l : List Sent) (t : State), (l.foldl (fun t x => complete x.req .ownerLost [] t) t).net.sent = t.net.sent :=
    fun l t => (keeps_foldl (P := Landing t) (fun _ x h => h.trans (complete_landing x.req .ownerLost [] _)) l t (.refl t)).sent
  exact h _ _

theorem logLost_logged {s : State} (hup : s.keeper.up = true) (party node what : Nat) :
    Logged s (logLost party node what s) 0x0605 node what := logEv_logged hup ..

/-! ## Descriptors and runs that are found (R206, R304) -/

/-- What is found still is, as f leaves it, once f has been put to all that fit the search. -/
theorem find_mapWhere {α : Type} {p : α → Bool} {f : α → α} (hf : ∀ x, p x = true → p (f x) = true) {l : List α} {x : α}
    (h : l.find? p = some x) : (l.map (fun y => if p y then f y else y)).find? p = some (f x) := by
  have hp : (p ∘ fun y => if p y then f y else y) = p := by
    funext y
    simp only [Function.comp_apply]
    split
    · next hy => rw [hf y hy, hy]
    · rfl
  rw [List.find?_map, hp, h, Option.map_some, if_pos (List.find?_some h)]

theorem findJob_updJob {s : State} {rill index : Nat} {j : Job} (h : findJob s rill index = some j) {f : Job → Job}
    (hf : ∀ x, (f x).rill = x.rill ∧ (f x).index = x.index) : findJob (updJob rill index f s) rill index = some (f j) :=
  find_mapWhere (p := fun (j : Job) => j.rill == rill && j.index == index) (fun x hx => by rw [(hf x).1, (hf x).2]; exact hx) h

theorem findRun_updRun {s : State} {rill index : Nat} {r : ExchRun} (h : findRun s rill index = some r) {f : ExchRun → ExchRun}
    (hf : ∀ x, (f x).rill = x.rill ∧ (f x).index = x.index) : findRun (updRun rill index f s) rill index = some (f r) :=
  find_mapWhere (p := fun (r : ExchRun) => r.rill == rill && r.index == index) (fun x hx => by rw [(hf x).1, (hf x).2]; exact hx) h

theorem findJob_named {s : State} {rill index : Nat} {j : Job} (h : findJob s rill index = some j) : j.rill = rill ∧ j.index = index := by
  simpa using List.find?_some h

theorem findJob_congr {s t : State} (h : t.rill.jobs = s.rill.jobs) (rill index : Nat) : findJob t rill index = findJob s rill index := by
  rw [findJob, findJob, h]

/-! ## The end of a descriptor (R217) -/

/-- The record that becomes due when a descriptor ends. -/
def endRecord (j : Job) (st : Status) (detail : Nat) (indet : Bool) : RecDue :=
  { rill := j.rill, index := j.index, status := st, indet, gen := j.gen, userTag := j.userTag, detail, notify := j.notify, op := j.op, names := j.names }

/-- A descriptor that builds no slot has ended, whatever slots it referred to: it is gone and its record is due. -/
theorem finishJob_rill {j : Job} (hb : j.builds = []) (st : Status) (detail : Nat) (indet : Bool) (s : State) :
    (finishJob j st detail indet s).rill = { s.rill with
      jobs := s.rill.jobs.filter (fun x => !(x.rill == j.rill && x.index == j.index))
      due := s.rill.due ++ [endRecord j st detail indet] } := by
  have hk : ∀ (k : Nat) (t : State), (dropRef k t).rill = t.rill := fun k t =>
    rill_eq (dropRef_keeps (g := .rill) rfl k t (.refl _ t)) (dropRef_keeps (g := .rillTable) rfl k t (.refl _ t))
  have hd : ∀ (l : List Nat) (t : State), (l.foldl (fun s k => dropRef k s) t).rill = t.rill :=
    fun l t => keeps_foldl (P := fun u => u.rill = t.rill) (fun u k h => (hk k u).trans h) l t rfl
  simp only [finishJob, hb, List.foldl_nil, addDue, hd]
  rfl

/-- With its record due and nothing else, it has ended. -/
theorem finishJob_ends {j : Job} (hb : j.builds = []) (st : Status) (detail : Nat) (indet : Bool) {s t : State} (h : t.rill.due = s.rill.due) :
    Ended j st s (finishJob j st detail indet t) := by
  have hr := finishJob_rill hb st detail indet t
  refine ⟨List.find?_eq_none.2 (fun x hx => ?_), endRecord j st detail indet, by rw [hr, h], rfl, rfl, rfl, rfl⟩
  rw [hr] at hx
  have hne := (List.mem_filter.1 hx).2
  simp only [Bool.not_eq_true'] at hne
  rw [hne]
  exact Bool.false_ne_true

/-! ## Exchanges (R304) -/

/-- Whether a descriptor of an exchange may have changed the state of an owner that is lost. -/
def changesOwner (j : Job) : Bool := (j.kind == 3 && (j.op == 2 || j.op == 3)) || (j.kind == 4 && (j.op == 2 || j.op == 3 || j.op == 4))

/-- The run of an exchange whose owner is lost: it keeps only its result. -/
def lostRun (indet : Bool) (r : ExchRun) : ExchRun := { r with pieces := [], outs := [], advance := 0, result := some (.ownerLost, 0, indet) }

/-- The state in which an exchange with a lost owner goes on to its end. -/
def exchangeLost (node rill index : Nat) (j : Job) (r : ExchRun) (s : State) : State :=
  loseRequests (ofJobTo node rill index) (logLost j.party node 0 (updRun rill index (lostRun (changesOwner j))
    { s with exch := { s.exch with waiting := s.exch.waiting.filter (fun w => !(w.1 == r.group && w.2.1 == node)) } }))

section
variable {s : State} {node rill index : Nat} {j : Job} {r : ExchRun}

theorem lostExchange_eq (hj : findJob s rill index = some j) (hr : findRun s rill index = some r) (hp : piecesOf s node rill index = true) :
    lostExchange node rill index s = exchEnd rill index (exchangeLost node rill index j r s) := by
  simp only [lostExchange, hj, hr, hp, Bool.not_true, Bool.false_eq_true, if_false]
  rfl

theorem exchangeLost_rill : (exchangeLost node rill index j r s).rill = s.rill := by
  rw [exchangeLost, (loseRequests_same _ _).rill]
  exact logEv_rill ..

theorem exchangeLost_run (hr : findRun s rill index = some r) :
    findRun (exchangeLost node rill index j r s) rill index = some (lostRun (changesOwner j) r) := by
  have he : (exchangeLost node rill index j r s).exch = (updRun rill index (lostRun (changesOwner j))
      { s with exch := { s.exch with waiting := s.exch.waiting.filter (fun w => !(w.1 == r.group && w.2.1 == node)) } }).exch := by
    rw [exchangeLost, (loseRequests_same _ _).exch]
    exact logEv_exch ..
  rw [findRun, he]
  exact findRun_updRun (s := { s with exch := { s.exch with waiting := _ } }) hr (fun _ => ⟨rfl, rfl⟩)

theorem exchangeLost_logged (hup : s.keeper.up = true) : Logged s (exchangeLost node rill index j r s) 0x0605 node 0 := by
  have h := logLost_logged (s := updRun rill index (lostRun (changesOwner j))
    { s with exch := { s.exch with waiting := s.exch.waiting.filter (fun w => !(w.1 == r.group && w.2.1 == node)) } }) hup j.party node 0
  rw [exchangeLost, Logged, (loseRequests_same _ _).buf]
  exact h

/-- With nothing outstanding the descriptor ends; else its run waits for what is. -/
theorem lostExchange_goes (hj : findJob s rill index = some j) (hr : findRun s rill index = some r) (hp : piecesOf s node rill index = true)
    (hcut : j.cut = false) (hwith : j.withdrawn = false) : lostExchange node rill index s =
      if j.outstanding = 0 then finishJob j .ownerLost 0 (changesOwner j) (exchangeLost node rill index j r s) else exchangeLost node rill index j r s := by
  have hj' : findJob (exchangeLost node rill index j r s) rill index = some j := (findJob_congr (congrArg _ exchangeLost_rill) ..).trans hj
  rw [lostExchange_eq hj hr hp, exchEnd, hj', exchangeLost_run hr]
  by_cases ho : j.outstanding = 0 <;> simp [lostRun, ho, hcut, hwith]

end

/-! ## Reductions (R206, R373) -/

/-- A descriptor one of whose reductions is lost: it has failed, and what it did is not known. -/
def reductionFailed (j : Job) : Job := { j with indet := true, err := some (0, .ownerLost, 0) }

/-- The state in which what was sent of a lost reduction completes: its ranges are in the party's error window and the loss is logged. -/
def reductionLost (node rill index : Nat) (j : Job) (s : State) : State :=
  logLost j.party node 1 ((reductionsTo s node rill index).foldl (fun s r => errorEntry j.party (statusCode .ownerLost) 3 r.addr r.len s) s)

section
variable {s : State} {node rill index : Nat} {j : Job}

theorem reductionLost_keeps {g : Part} (he : Free 134217984 g) (hl : Free 65536 g) : Keeps g s (reductionLost node rill index j s) :=
  logEv_keeps hl _ _ _ _ _ _ _ (keeps_foldl (P := Keeps g s) (fun _ _ h => errorEntry_keeps he _ _ _ _ _ _ h) _ s (.refl g s))

theorem reductionLost_rill : (reductionLost node rill index j s).rill = s.rill :=
  rill_eq (reductionLost_keeps (g := .rill) rfl rfl) (reductionLost_keeps (g := .rillTable) rfl rfl)

theorem reductionLost_mills : (reductionLost node rill index j s).mills = s.mills := reductionLost_keeps (g := .mills) rfl rfl

theorem reductionLost_logged (hup : s.keeper.up = true) : Logged s (reductionLost node rill index j s) 0x0605 node 1 := by
  have hk : ∀ {g : Part}, Free 134217984 g → Keeps g s
      ((reductionsTo s node rill index).foldl (fun s r => errorEntry j.party (statusCode .ownerLost) 3 r.addr r.len s) s) :=
    fun he => keeps_foldl (P := Keeps _ s) (fun _ _ h => errorEntry_keeps he _ _ _ _ _ _ h) _ s (.refl _ s)
  have h := logLost_logged ((up_of_keeps (hk (g := .keeper) rfl)).trans hup) j.party node 1
  rw [Logged, buf_of_keeps (hk (g := .keepLog) rfl)] at h
  exact h

/-- No mill runs the descriptor, so its requests complete and it waits. -/
theorem lostReduction_eq (hj : findJob s rill index = some j) (hne : reductionsTo s node rill index ≠ [])
    (hm : ∀ m ∈ s.mills, m.2.job ≠ some (rill, index)) : lostReduction node rill index s =
      loseRequests (fun r => (reductionsTo s node rill index).contains r) (updJob rill index reductionFailed (reductionLost node rill index j s)) := by
  have hempty : (reductionsTo s node rill index).isEmpty = false := by simpa using hne
  have hmine : (updJob rill index reductionFailed (reductionLost node rill index j s)).mills.filter (fun m => m.2.job == some (rill, index)) = [] := by
    rw [show (updJob rill index reductionFailed (reductionLost node rill index j s)).mills = s.mills from reductionLost_mills]
    exact List.filter_eq_nil_iff.2 (fun m h => by simpa using hm m h)
  simp only [lostReduction, hj, hempty, Bool.false_eq_true, if_false]
  unfold reductionFailed reductionLost at hmine ⊢
  rw [hmine]
  rfl

end

/-! ## Windows (R175) -/

/-- What a window's loss ends: its stores, its loads and the stores that wait for staging. -/
def windowLosses (window : Nat) (s : State) : List Req :=
  (s.sluice.stages.filter (fun x => x.window == window)).flatMap (·.stores)
    ++ (s.sluice.shipped.filter (fun x => x.window == window)).flatMap (·.stores)
    ++ (s.sluice.fetches.filter (fun x => x.window == window)).flatMap (fun f => f.loads ++ f.later)
    ++ s.sluice.waitStage.filter (fun r => winNum (addrOffset r.addr) == window)

/-- The state without what a window held. -/
def windowCleared (window : Nat) (s : State) : State :=
  { s with sluice := { s.sluice with
    stages := s.sluice.stages.filter (fun x => !(x.window == window)), shipped := s.sluice.shipped.filter (fun x => !(x.window == window))
    fetches := s.sluice.fetches.filter (fun x => !(x.window == window)), bufs := s.sluice.bufs.filter (fun x => !(x.window == window))
    waitStage := s.sluice.waitStage.filter (fun r => !(s.sluice.waitStage.filter (fun r => winNum (addrOffset r.addr) == window)).contains r) } }

section
variable {s : State} {window : Nat} {w : SluiceWindow}

theorem lostWindow_eq (hw : findWindow s window = some w) :
    lostWindow window s = logLost 15 w.farNode 2 (completeAll .ownerLost (windowLosses window s) (windowCleared window s)) := by
  simp only [lostWindow, hw]
  rfl

theorem lostWindow_sluice (hw : findWindow s window = some w) : (lostWindow window s).sluice = (windowCleared window s).sluice := by
  rw [lostWindow_eq hw, logLost, logEv_sluice]
  exact completeAll_keeps (g := .sluice) rfl _ _ _

theorem lostWindow_logged (hup : s.keeper.up = true) (hw : findWindow s window = some w) : Logged s (lostWindow window s) 0x0605 w.farNode 2 := by
  have hk : ∀ {g : Part}, Free 134220544 g → Keeps g (windowCleared window s) _ :=
    fun hg => completeAll_keeps hg .ownerLost (windowLosses window s) (windowCleared window s)
  have h := logLost_logged ((up_of_keeps (hk (g := .keeper) rfl)).trans hup) 15 w.farNode 2
  rw [Logged, buf_of_keeps (hk (g := .keepLog) rfl)] at h
  rw [lostWindow_eq hw]
  exact h

theorem lostWindow_lands (hw : findWindow s window = some w) {x : Stage} (hx : x ∈ s.sluice.stages) (hmine : x.window = window) {r : Req}
    (hr : r ∈ x.stores) (hjoin : r.join = none) (hsrc : ∃ a b c, r.src = .rill a b c) :
    ∃ l ∈ (lostWindow window s).weir.landed, l.req = r ∧ l.status = .ownerLost := by
  have hmem : r ∈ windowLosses window s := by
    simp only [windowLosses, List.mem_append, List.mem_flatMap, List.mem_filter]
    exact .inl (.inl (.inl ⟨x, ⟨hx, beq_iff_eq.2 hmine⟩, hr⟩))
  rw [lostWindow_eq hw, logLost, logEv_weir]
  exact completeAll_lands hjoin hsrc hmem _

end

/-! ## Mirror batches (R201) -/

theorem batchOpen_notDown {x : MirrorSt} (h : batchOpen x = true) : x.state ≠ mirrorLinkDown' := by
  intro hs
  simp [batchOpen, hs, mirrorLinkDown', mirrorShipping, mirrorResync] at h

theorem enterLinkDown_up {s : State} (hup : s.keeper.up = true) (i : Nat) : (enterLinkDown i s).keeper.up = true :=
  (up_of_keeps (enterLinkDown_keeps (g := .keeper) rfl i s (.refl _ s))).trans hup

/-! ## The statement -/

/-- Settles O50: each kind by the state in which its requests complete. The far gateway of a mirror set is log entry 72. -/
theorem lostOwnersEndWhatTheyHeld : Obligations.LostOwnersEndWhatTheyHeld := by
  unfold Obligations.LostOwnersEndWhatTheyHeld
  intro s hup
  refine ⟨fun node rill index j r hj hr hp hcut hwith hslots hbuilds => ⟨fun hout => ?_, fun hout => ?_⟩, fun node rill index j hj hne hm => ?_,
    fun window w hw => ?_, fun i m hm hp hopen => ?_, fun node a ha => ?_⟩
  · have he := (lostExchange_goes hj hr hp hcut hwith).trans (if_pos hout)
    obtain ⟨hrill, hindex⟩ := findJob_named hj
    have hkeeper : (finishJob j .ownerLost 0 (changesOwner j) (exchangeLost node rill index j r s)).keeper =
        (exchangeLost node rill index j r s).keeper := by
      simp only [finishJob, hslots, hbuilds, List.foldl_nil, addDue]
    refine ⟨_, congrArg Host.Outcome.next he, ?_, finishJob_ends hbuilds _ _ _ (by rw [exchangeLost_rill]), endRecord j .ownerLost 0 (changesOwner j),
      ?_, hrill, hindex, rfl, rfl⟩
    · show Logged ..
      rw [Logged, hkeeper]
      exact exchangeLost_logged hup
    · rw [finishJob_rill hbuilds]
      exact List.mem_append_right _ (List.mem_singleton_self _)
  · have he := (lostExchange_goes hj hr hp hcut hwith).trans (if_neg hout)
    exact ⟨_, congrArg Host.Outcome.next he, exchangeLost_logged hup, exchangeLost_run hr⟩
  · refine ⟨_, congrArg Host.Outcome.next (lostReduction_eq hj hne hm), ?_, ?_, fun x hx hlost => ?_⟩
    · show Logged ..
      rw [Logged, (loseRequests_same _ _).buf]
      exact reductionLost_logged hup
    · rw [findJob_congr (congrArg _ (loseRequests_same _ _).rill)]
      exact findJob_updJob ((findJob_congr (congrArg _ reductionLost_rill) ..).trans hj) (fun _ => ⟨rfl, rfl⟩)
    · rw [loseRequests_sent] at hx
      simp [hlost] at hx
  · exact ⟨_, rfl, lostWindow_logged hup hw, congrArg (·.stages) (lostWindow_sluice hw), congrArg (·.shipped) (lostWindow_sluice hw),
      congrArg (·.fetches) (lostWindow_sluice hw), congrArg (·.bufs) (lostWindow_sluice hw),
      fun x hx hmine r hr hjoin hsrc => lostWindow_lands hw hx hmine hr hjoin hsrc⟩
  · have he : lostMirror i s = logLost 15 (mirrorFar s m) 3 (enterLinkDown i s) := by simp only [lostMirror, hm, hopen, if_true]
    obtain ⟨hdown, -, -⟩ := enterLinkDown_spec hup hm hp (batchOpen_notDown hopen)
    have hx : mirrorOf (logLost 15 (mirrorFar s m) 3 (enterLinkDown i s)) i = downed (mirrorOf s i) :=
      (mirrorOf_congr (logEv_sluice ..) i).trans hdown
    obtain ⟨e, hbuf, hcode, harg0, harg1⟩ := logLost_logged (enterLinkDown_up hup i) 15 (mirrorFar s m) 3
    refine ⟨_, congrArg Host.Outcome.next he, ?_⟩
    beta_reduce
    rw [hx]
    exact ⟨rfl, rfl, fun p hp => (mem_insertAll _ _ _).2 (.inl hp), e, by rw [hbuf]; exact List.mem_append_right _ (List.mem_singleton_self _),
      hcode, harg0, harg1⟩
  · have he : lostAgreement node s = logLost 15 node 4 { s with map := { s.map with
        reading := s.map.reading.filter (fun a => a.node != node.val), redeliver := s.map.redeliver ++ [{ a with reply := true }] } } := by
      simp only [lostAgreement, ha]
    refine ⟨_, congrArg Host.Outcome.next he, ?_, ?_, ?_⟩
    · exact logLost_logged (s := { s with map := { s.map with
        reading := s.map.reading.filter (fun a => a.node != node.val), redeliver := s.map.redeliver ++ [{ a with reply := true }] } }) hup 15 node 4
    · exact congrArg MapSt.reading (logEv_map ..)
    · exact congrArg MapSt.redeliver (logEv_map ..)

end Sys2Proof.LostOwners
end

section
/-!
Requests that their home serves at once (R156, R179 to R188): what the access leaves of backed space, and its answer.
-/
namespace Sys2Proof.HomeRequests

open Sys2Proof Sys2Proof.Machine Sys2Proof.Safety Sys2Proof.WeirSlots Sys2Proof.PipeSteps Sys2Proof.DurableWrites

/-! ## What ECC found (R74, R76) -/

/-- t has what is poisoned, and what has landed, as s has it. -/
def SameLines (s t : State) : Prop := t.store.poison = s.store.poison ∧ t.weir.landed = s.weir.landed

theorem SameLines.trans {s t u : State} (h : SameLines s t) (k : SameLines t u) : SameLines s u := ⟨k.1.trans h.1, k.2.trans h.2⟩

/-- What keeps the store and the queues has the lines as they were. -/
theorem SameLines.of_keeps {s t : State} (hs : Keeps .store s t) (hw : Keeps .weirQ s t) : SameLines s t :=
  ⟨(congrArg StoreSt.poison (show tierPart t.store = tierPart s.store from hs) :),
    (congrArg WeirSt.landed (show weirQPart t.weir = weirQPart s.weir from hw) :)⟩

theorem startMove_sameLines (demand : Bool) (page : Nat) (dest : TierState) (frame race : Nat) (s : State) :
    SameLines s (startMove demand page dest frame race s) := by
  unfold startMove
  extract_lets +onlyGivenNames e hold
  split
  · exact ⟨rfl, rfl⟩
  · split <;> exact ⟨rfl, rfl⟩

theorem vacate_sameLines (page : Nat) (s : State) : SameLines s (vacate page s) := by
  unfold vacate
  extract_lets pool e
  split
  · exact ⟨rfl, rfl⟩
  · split
    · split
      · exact startMove_sameLines ..
      · exact ⟨rfl, rfl⟩
    · exact startMove_sameLines ..

theorem retire_sameLines (pool frame : Nat) (s : State) : SameLines s (retire pool frame s) :=
  SameLines.trans (t := { s with store := { s.store with badFrames := removeNat frame s.store.badFrames, retired := insertNat frame s.store.retired } })
    ⟨rfl, rfl⟩ (.of_keeps (retirementAlarm_keeps (g := .store) rfl _ _ (.refl _ _)) (retirementAlarm_keeps (g := .weirQ) rfl _ _ (.refl _ _)))

theorem failingPinned_sameLines (pool frame page : Nat) (s : State) : SameLines s (failingPinned pool frame page s) := by
  have herr : ∀ p st detail t, SameLines t (errorEntry p st 1 (poolAddr s.node 0 (page * 65536)) detail t) := fun p st detail t =>
    .of_keeps (errorEntry_keeps (g := .store) rfl _ _ _ _ _ t (.refl _ t)) (errorEntry_keeps (g := .weirQ) rfl _ _ _ _ _ t (.refl _ t))
  unfold failingPinned
  dsimp only
  split
  · exact ⟨rfl, rfl⟩
  · exact SameLines.trans ⟨rfl, rfl⟩ (herr ..)

theorem retireFrame_sameLines (pool frame : Nat) (s : State) : SameLines s (retireFrame pool frame s) := by
  unfold retireFrame
  split
  · split
    · exact failingPinned_sameLines ..
    · exact (retire_sameLines ..).trans (vacate_sameLines ..)
  · exact retire_sameLines ..

theorem failRowAt_sameLines (n pool : Nat) (frames : List Nat) (s : State) : SameLines s (failRowAt n pool frames s) := by
  have hlog : ∀ p, SameLines s (logEv 0x0501 sevWarning p 0 n p s) := fun p =>
    .of_keeps (logEv_keeps (g := .store) rfl _ _ _ _ _ _ s (.refl _ s)) (logEv_keeps (g := .weirQ) rfl _ _ _ _ _ _ s (.refl _ s))
  unfold failRowAt
  refine keeps_foldl (P := SameLines s) (fun _ _ h => h.trans (retireFrame_sameLines ..)) frames _ ?_
  dsimp only
  split
  · exact (hlog _).trans ⟨rfl, rfl⟩
  · exact hlog _

theorem failLine_sameLines (line : Nat) (s : State) : SameLines s (failLine line s) := by
  unfold failLine
  extract_lets e
  split
  · split
    · exact ⟨rfl, rfl⟩
    · exact SameLines.trans (t := (takeWord s).2) ⟨rfl, rfl⟩ (failRowAt_sameLines ..)
  · exact ⟨rfl, rfl⟩

/-- What ECC found leaves what has landed, and poisons nothing but the uncorrectable lines. -/
theorem applyEcc_lines (off : Nat) (ecc : Ecc) (s : State) : (applyEcc off ecc s).store.poison = insertAll ecc.uncorrectable s.store.poison
    ∧ (applyEcc off ecc s).weir.landed = s.weir.landed := by
  have hp : ∀ t : State, (poisonLines ecc.uncorrectable t).store.poison = insertAll ecc.uncorrectable t.store.poison
      ∧ (poisonLines ecc.uncorrectable t).weir = t.weir := fun t =>
    keeps_foldl (P := fun u : State => u.store.poison = insertAll ecc.uncorrectable t.store.poison ∧ u.weir = t.weir)
      (k := fun u p => refreshPoisoned p u) (fun _ _ h => h) _ { t with store := { t.store with poison := insertAll _ t.store.poison } } ⟨rfl, rfl⟩
  have hf : ∀ t : State, SameLines t (ecc.uncorrectable.foldl (fun t l => failLine l t) t) := fun t =>
    keeps_foldl (P := SameLines t) (fun _ _ h => h.trans (failLine_sameLines ..)) _ t ⟨rfl, rfl⟩
  unfold applyEcc
  dsimp only
  rw [(hf _).1, (hf _).2, (hp _).1, (hp _).2]
  exact ⟨rfl, rfl⟩

theorem applyEcc_mem (off : Nat) (ecc : Ecc) (s : State) : (applyEcc off ecc s).store.mem = s.store.mem :=
  applyEcc_keeps (g := .bytes) rfl off ecc s (.refl .bytes s)

theorem applyEcc_hw (off : Nat) (ecc : Ecc) (s : State) : (applyEcc off ecc s).hw = s.hw := applyEcc_keeps (g := .hw) rfl off ecc s (.refl .hw s)

theorem poolOf_congr {s t : State} (h : t.hw = s.hw) (off : Nat) : poolOf t off = poolOf s off := by
  unfold poolOf extentPool localParty partyRec State.node
  rw [h]

/-- A range reads without an error where none of its lines is poisoned or found uncorrectable and the keys are not lost. -/
theorem readStatus_ok {s : State} {off len : Nat} {ecc : Ecc} : readStatus s off len ecc = .ok ↔
    (∀ l ∈ linesOf off len, l ∉ s.store.poison) ∧ (∀ l ∈ linesOf off len, l ∉ ecc.uncorrectable)
      ∧ (s.map.lostKeys && poolOf s off != 0) = false := by
  unfold readStatus
  split
  · next h =>
    refine iff_of_false nofun (fun ⟨hp, _, hk⟩ => ?_)
    simp only [hk, Bool.or_false, List.any_eq_true, List.contains_iff_mem] at h
    exact h.elim (fun l hl => hp l hl.1 hl.2)
  · next h =>
    simp only [Bool.or_eq_true, not_or, List.any_eq_true, List.contains_iff_mem, not_exists, not_and, Bool.not_eq_true] at h
    split
    · next hu =>
      simp only [List.any_eq_true, List.contains_iff_mem] at hu
      exact iff_of_false nofun (fun hn => hu.elim (fun l hl => hn.2.1 l hl.1 hl.2))
    · next hu =>
      simp only [List.any_eq_true, List.contains_iff_mem, not_exists, not_and] at hu
      exact iff_of_true rfl ⟨h.1, hu, h.2⟩

/-- A range read without an error is sound, and stays so with what ECC found elsewhere. -/
theorem applyEcc_sound {s : State} {off len : Nat} {ecc : Ecc} (h : readStatus s off len ecc = .ok) (at_ : Nat) :
    readStatus (applyEcc at_ ecc s) off len {} = .ok := by
  obtain ⟨hp, hu, hk⟩ := readStatus_ok.1 h
  have hmap : (applyEcc at_ ecc s).map = s.map := applyEcc_keeps (g := .map) rfl at_ ecc s (.refl .map s)
  refine readStatus_ok.2 ⟨fun l hl => ?_, by simp, by rw [hmap, poolOf_congr (applyEcc_hw ..)]; exact hk⟩
  rw [(applyEcc_lines ..).1, mem_insertAll]
  exact fun hm => hm.elim (hu l hl) (hp l hl)

theorem sound_of_ecc {s : State} {off len : Nat} {ecc : Ecc} (h : readStatus s off len ecc = .ok) : readStatus s off len {} = .ok := by
  obtain ⟨hp, -, hk⟩ := readStatus_ok.1 h
  exact sound_iff.2 ⟨hp, hk⟩

/-! ## Bytes written over sound lines (R181) -/

/-- A write's bytes laid down over sound lines, its bad granules poisoned. -/
def written (r : Req) (off : Nat) (data : Bytes) (s : State) : State :=
  let t := writeMem off data (clearPoison ((linesOf off data.length).filter (coversLine off data.length)) (touchLines off data.length s))
  if r.bad.isEmpty then t
  else poisonLines ((r.bad.filter (fun g => g / 4096 == r.va / 4096)).map (fun g => lineOf (off / 4096 * 4096 + g % 4096))) t

theorem storeBytes_sound {s : State} {r : Req} {off : Nat} {data : Bytes} (hd : r.durable = false) (h : readStatus s off data.length {} = .ok) :
    storeBytes r off data s = (.ok, written r off data s) := by
  have ht : readStatus (touchLines off data.length s) off data.length {} = .ok := h
  simp only [storeBytes, writeLines_sound ht, hd, Bool.false_eq_true, if_false]
  rfl

theorem written_keeps {g : Part} (hg : Free 1073779232 g) (r : Req) (off : Nat) (data : Bytes) (s : State) : Keeps g s (written r off data s) := by
  have ht := writeMem_keeps (hg.sub rfl) off data _ (clearPoison_keeps (hg.sub rfl) ((linesOf off data.length).filter (coversLine off data.length)) _
    (touchLines_keeps (hg.sub rfl) off data.length s (.refl g s)))
  unfold written
  extract_lets t
  split
  · exact ht
  · exact poisonLines_keeps (hg.sub rfl) _ _ ht

theorem written_mem (r : Req) (off : Nat) (data : Bytes) (s : State) : (written r off data s).store.mem = s.store.mem.writeN off data := by
  have hc : ∀ (ls : List Nat) (t : State), (clearPoison ls t).store.mem = t.store.mem :=
    fun ls t => clearPoison_keeps (g := .bytes) rfl ls t (.refl .bytes t)
  have hp : ∀ (ls : List Nat) (t : State), (poisonLines ls t).store.mem = t.store.mem :=
    fun ls t => poisonLines_keeps (g := .bytes) rfl ls t (.refl .bytes t)
  have ht : (touchLines off data.length s).store.mem = s.store.mem := rfl
  unfold written
  extract_lets t
  split <;> simp only [hp, t, writeMem_mem, hc, ht]

theorem written_landed (r : Req) (off : Nat) (data : Bytes) (s : State) : (written r off data s).weir.landed = s.weir.landed :=
  (congrArg WeirSt.landed (show weirQPart (written r off data s).weir = weirQPart s.weir from written_keeps (g := .weirQ) rfl r off data s) :)

/-! ## The access performed and answered (R112, R156) -/

/-- A request for bytes, which its home answers: none that a cache makes, and no pin message. -/
def forBytes (op : Op) : Bool := !isCachingOp op && op != .pinMsg && hasResponse op

theorem forBytes_iff {op : Op} : forBytes op = true ↔ isCachingOp op = false ∧ op ≠ .pinMsg ∧ hasResponse op = true := by
  simp [forBytes, and_assoc]

/-- With no directory entry on its lines, a request for bytes acts on backed space at once. -/
theorem cohPerform_uncached {s : State} {r : Req} (hop : isCachingOp r.op = false) (hprov : r.provOk = false)
    (hplain : (tierOf s (tierPage (addrOffset r.addr))).state = .plain)
    (hlines : ∀ l ∈ linesOf (addrOffset r.addr) r.len, dirFind s l = none) (ecc : Ecc) (waited : Bool) :
    cohPerform r ecc waited s = doComplete { r with ecc } ecc s := by
  have hnone : (linesOf (addrOffset r.addr) r.len).find? (fun l => (dirFind s l).isSome && !(r.seen.any (fun x => x.1 == l))) = none :=
    List.find?_eq_none.2 (fun l hl => by simp [hlines l hl])
  have hplain' : (tierOf s (tierPage (addrOffset ({ r with ecc } : Req).addr))).state = .plain := hplain
  rw [cohPerform, cohAccess]
  simp only [hnone, hop, Bool.false_eq_true, if_false, doShared, onPage, hplain', hprov, Bool.and_false, Bool.false_and]

section
variable {s : State} {r : Req} {ecc : Ecc}

/-- A request that its home serves at once goes to backed space, whatever ECC result its command brings. -/
theorem perform_served (h : Served s r ecc) (hop : forBytes r.op = true) (e : Ecc) :
    perform r e (unpipe r s) = postStored r (fillHot r (doComplete { r with ecc := e } e (unpipe r s))) := by
  obtain ⟨hcaching, hpin, -⟩ := forBytes_iff.1 hop
  have hcheck : memCheck (unpipe r s) r = none := h.checks.1
  have hplain : (tierOf (unpipe r s) (tierPage (addrOffset r.addr))).state = .plain := h.plain
  have hmay : mayProvide (unpipe r s) r = false := by simp [mayProvide, h.simple.2]
  have hplace : ∀ now, placeDurable { r with ecc := e } now (unpipe r s) = now (unpipe r s) := fun now => by
    simp only [placeDurable, h.simple.1, Bool.false_and, Bool.not_false, if_true]
  simp only [perform, beq_iff_eq, hpin, if_false, h.space, performMem, hcheck, h.checks.2, Bool.not_true, Bool.false_eq_true, hplain, hplace,
    performOp, hmay]
  rw [cohPerform_uncached hcaching h.simple.2 hplain h.direct]

/-- What an access gives is answered as it is where no snoop brought bytes of its lines. -/
theorem doComplete_answer {d : Bytes} {t u : State} (hseen : r.seen = []) (hdo : doOp r ecc t = (.ok, d, u)) :
    doComplete r ecc t = complete r .ok d (acquired r u) := by
  simp only [doComplete, hdo, hseen, overlay, List.take_append_drop, ite_self]

theorem fillHot_weir (r : Req) (s : State) : (fillHot r s).weir = s.weir :=
  weir_eq (fillHot_keeps (g := .weirCtl) rfl r s (.refl _ s)) (fillHot_keeps (g := .weirQ) rfl r s (.refl _ s))

theorem answeredOk_fillHot {d : Bytes} {t : State} (h : AnsweredOk r d t) (x : Req) : AnsweredOk r d (fillHot x t) := by
  have hnet : (fillHot x t).net = t.net :=
    net_eq (fillHot_keeps (g := .net) rfl x t (.refl _ t)) (fillHot_keeps (g := .links) rfl x t (.refl _ t))
  have hout : (fillHot x t).out = t.out := fillHot_keeps (g := .out) rfl x t (.refl _ t)
  unfold AnsweredOk at h ⊢
  rw [hnet, hout, fillHot_weir]
  exact h

/-- A store into no exchange area, and any other request, rings no slot. -/
theorem postStored_other {t : State} (h : r.op = .store → areaSlot t (addrOffset r.addr) = none) : postStored r t = t := by
  unfold postStored
  split
  · rfl
  · next hop => rw [h (by simpa using hop)]

/-- A request served at once: what the access leaves of backed space, and its answer at the source. -/
theorem performCmd_served (h : Served s r ecc) (hop : forBytes r.op = true) {e : Ecc}
    {d : Bytes} {u : State} (hdo : doOp { r with ecc := e } e (unpipe r s) = (.ok, d, u)) (hl : u.weir.landed = s.weir.landed)
    (ha : r.op = .store → areaSlot u (addrOffset r.addr) = none) : AnsweredOk r d (performCmd [r.op] r e s)
      ∧ (performCmd [r.op] r e s).store.mem = u.store.mem := by
  obtain ⟨-, -, hresp⟩ := forBytes_iff.1 hop
  have hacq : (acquired { r with ecc := e } u).weir = u.weir :=
    weir_eq (acquired_keeps (g := .weirCtl) rfl _ u (.refl _ u)) (acquired_keeps (g := .weirQ) rfl _ u (.refl _ u))
  have hhw : (fillHot r (complete { r with ecc := e } .ok d (acquired { r with ecc := e } u))).hw = u.hw :=
    fillHot_keeps (g := .hw) rfl _ _ (complete_keeps (g := .hw) rfl _ _ _ _ (acquired_keeps (g := .hw) rfl _ u (.refl .hw u)))
  have hpost : postStored r (fillHot r (complete { r with ecc := e } .ok d (acquired { r with ecc := e } u))) =
      fillHot r (complete { r with ecc := e } .ok d (acquired { r with ecc := e } u)) :=
    postStored_other (fun hst => by rw [areaSlot, hhw]; exact ha hst)
  have hperf : performCmd [r.op] r e s = fillHot r (complete { r with ecc := e } .ok d (acquired { r with ecc := e } u)) := by
    rw [performCmd_performs h.inPipe (by simp) h.first, perform_served h hop, doComplete_answer (r := { r with ecc := e }) h.whole.2 hdo, hpost]
    refine pump_quiet ?_
    rw [fillHot_weir]
    exact complete_quiet (r := { r with ecc := e }) h.source h.whole.1 _ _ (by rw [hacq, hl]; exact h.quiet.2)
  have hmem : (fillHot r (complete { r with ecc := e } .ok d (acquired { r with ecc := e } u))).store.mem = u.store.mem :=
    fillHot_keeps (g := .bytes) rfl _ _ (complete_keeps (g := .bytes) rfl _ _ _ _ (acquired_keeps (g := .bytes) rfl _ u (.refl .bytes u)))
  rw [hperf]
  exact ⟨answeredOk_fillHot (AnsweredOk.of_ecc (ecc := e) (complete_answers (r := { r with ecc := e }) h.source h.whole.1 hresp d _)) r, hmem⟩

end

/-! ## Lengths and the checks of a combined request (R112, R188) -/

theorem readN_length (m : Memory) (n : Nat) : ∀ a, (m.readN a n).length = n := by
  induction n with
  | zero => exact fun _ => rfl
  | succ n ih => exact fun a => congrArg (· + 1) (ih (a + 1))

theorem toBytes_length (n : Nat) : ∀ x, (toBytes x n).length = n := by
  induction n with
  | zero => exact fun _ => rfl
  | succ n ih => exact fun x => congrArg (· + 1) (ih (x / 256))

theorem reduceBytes_length {old : Bytes} (h : old.length % 4 = 0) (opf : W64) (data : Bytes) : (reduceBytes opf old data).length = old.length := by
  simp only [reduceBytes, List.length_flatMap, toBytes_length, List.map_const', List.length_range, List.sum_replicate, smul_eq_mul]
  omega

/-- The checks of an entry look at the image and at the pools that boot created. -/
theorem confCheck_congr {s t : State} (hw : t.hw = s.hw) (hb : t.boot = s.boot) (r : Req) (o : Pair) : confCheck t r o = confCheck s r o := by
  cases s
  cases t
  obtain rfl : _ = _ := hw
  obtain rfl : _ = _ := hb
  rfl

theorem confEntries_congr {s t : State} (hw : t.hw = s.hw) (hb : t.boot = s.boot) (r : Req) (bs : List Bytes) :
    ∀ old, confEntries t r bs old = confEntries s r bs old := by
  induction bs with
  | nil => exact fun _ => rfl
  | cons b bs ih => exact fun old => by simp only [confEntries, confCheck_congr hw hb, ih]

theorem confEntries_ecc (s : State) (r : Req) (ecc : Ecc) (bs : List Bytes) : ∀ old, confEntries s { r with ecc } bs old = confEntries s r bs old := by
  induction bs with
  | nil => exact fun _ => rfl
  | cons b bs ih => exact fun old => by simp only [confEntries, ih]; rfl

theorem doOp_confRead {r : Req} (hop : r.op = .confRead) {ecc : Ecc} {s : State} (hok : readStatus s (addrOffset r.addr) r.len ecc = .ok) :
    doOp r ecc s = let t := applyEcc (addrOffset r.addr) ecc s
      (.ok, padTo 64 ((chop 8 (field r.opf 51 5 + 1) r.data).map (fun b => BitVec.ofNat 8 (statusCode (confCheck t r (confOrigin b)))))
        ++ readMem t (addrOffset r.addr) r.len, t) := by
  simp only [doOp, hop, hok]

theorem doOp_confAtomic {r : Req} (hop : r.op = .confAtomic) {ecc : Ecc} {s : State} (hok : readStatus s (addrOffset r.addr) r.len ecc = .ok) :
    doOp r ecc s =
      let t := applyEcc (addrOffset r.addr) ecc s
      let new := confEntries t r (chop 32 (field r.opf 44 5 + 1) r.data) (ofBytes (readMem t (addrOffset r.addr) r.len))
      let x := storeBytes r (addrOffset r.addr) (toBytes new.2 r.len) t
      (x.1, new.1, x.2) := by
  simp only [doOp, hop, hok, bne_self_eq_false, Bool.false_eq_true, if_false]

/-! ## Reads (R179) and writes (R180 to R188) -/

section
variable {s : State} {r : Req} {ecc : Ecc}

/-- A read answers what its access gives, and changes no byte. -/
theorem read_served (h : Served s r ecc) (hop : forBytes r.op = true) (hst : r.op ≠ .store) {d : Bytes}
    (hdo : doOp { r with ecc } ecc (unpipe r s) = (.ok, d, applyEcc (addrOffset r.addr) ecc (unpipe r s))) :
    AnsweredOk r d (performCmd [r.op] r ecc s) ∧ (performCmd [r.op] r ecc s).store.mem = s.store.mem := by
  obtain ⟨hans, hmem⟩ := performCmd_served h hop hdo (applyEcc_lines ..).2 (fun he => absurd he hst)
  exact ⟨hans, hmem.trans (applyEcc_mem ..)⟩

/-- A write leaves its bytes where its range starts, and every other byte as it was. -/
theorem write_served (h : Served s r ecc) (hop : forBytes r.op = true)
    (hwf : memoriesWf s) {e : Ecc} {d data : Bytes} {u : State} (hmem : u.store.mem = s.store.mem) (hl : u.weir.landed = s.weir.landed)
    (hhw : u.hw = s.hw) (ha : r.op = .store → areaSlot s (addrOffset r.addr) = none) (hlen : data.length = r.len)
    (hdo : doOp { r with ecc := e } e (unpipe r s) = (.ok, d, written { r with ecc := e } (addrOffset r.addr) data u)) :
    let t := performCmd [r.op] r e s; let off := addrOffset r.addr
    AnsweredOk r d t ∧ t.store.mem = s.store.mem.writeN off data ∧ readMem t off r.len = data
      ∧ ∀ a, a < off ∨ off + r.len ≤ a → t.store.mem.read a = s.store.mem.read a := by
  have hhw' : (written { r with ecc := e } (addrOffset r.addr) data u).hw = s.hw := (show _ = u.hw from written_keeps (g := .hw) rfl _ _ _ u).trans hhw
  obtain ⟨hans, hm⟩ := performCmd_served h hop hdo ((written_landed ..).trans hl) (fun he => by rw [areaSlot, hhw']; exact ha he)
  have hm' : (performCmd [r.op] r e s).store.mem = s.store.mem.writeN (addrOffset r.addr) data := by rw [hm, written_mem, hmem]
  refine ⟨hans, hm', ?_, fun a hout => ?_⟩
  · rw [readMem, hm', ← hlen]
    exact Memory.readN_writeN hwf.1 _ _
  · rw [hm', Memory.read_writeN hwf.1, if_neg (by omega)]

/-- A write over sound lines, with nothing to be read first. -/
theorem store_served (h : Served s r ecc) (hop : forBytes r.op = true)
    (hwf : memoriesWf s) (ha : r.op = .store → areaSlot s (addrOffset r.addr) = none) (hlen : r.data.length = r.len)
    (hdo : doOp { r with ecc := {} } {} (unpipe r s) = let x := storeBytes { r with ecc := {} } (addrOffset r.addr) r.data (unpipe r s); (x.1, [], x.2)) :
    let t := performCmd [r.op] r {} s; let off := addrOffset r.addr
    AnsweredOk r [] t ∧ t.store.mem = s.store.mem.writeN off r.data ∧ readMem t off r.len = r.data
      ∧ ∀ a, a < off ∨ off + r.len ≤ a → t.store.mem.read a = s.store.mem.read a := by
  have hst := storeBytes_sound (s := unpipe r s) (r := { r with ecc := {} }) (off := addrOffset r.addr) (data := r.data) h.simple.1
    (by rw [hlen]; exact sound_of_ecc (s := unpipe r s) h.sound)
  exact write_served h hop hwf (u := unpipe r s) rfl rfl rfl ha hlen (by rw [hdo, hst])

/-- A write of what was computed from the bytes read, the lines sound. -/
theorem modify_served (h : Served s r ecc) (hop : forBytes r.op = true)
    (hwf : memoriesWf s) (ha : r.op ≠ .store) {d data : Bytes} (hlen : data.length = r.len)
    (hdo : readStatus (unpipe r s) (addrOffset r.addr) r.len ecc = .ok → doOp { r with ecc } ecc (unpipe r s) =
      let x := storeBytes { r with ecc } (addrOffset r.addr) data (applyEcc (addrOffset r.addr) ecc (unpipe r s)); (x.1, d, x.2)) :
    let t := performCmd [r.op] r ecc s; let off := addrOffset r.addr
    t.store.mem = s.store.mem.writeN off data ∧ AnsweredOk r d t
      ∧ ∀ a, a < off ∨ off + r.len ≤ a → t.store.mem.read a = s.store.mem.read a := by
  have hsound : readStatus (unpipe r s) (addrOffset r.addr) r.len ecc = .ok := h.sound
  have hst := storeBytes_sound (s := applyEcc (addrOffset r.addr) ecc (unpipe r s)) (r := { r with ecc }) (off := addrOffset r.addr) (data := data)
    h.simple.1 (by rw [hlen]; exact applyEcc_sound hsound _)
  obtain ⟨hans, hmem, -, hout⟩ := write_served h hop hwf (applyEcc_mem (addrOffset r.addr) ecc (unpipe r s)) (applyEcc_lines ..).2
    (applyEcc_hw ..) (fun he => absurd he ha) hlen (by rw [hdo hsound, hst])
  exact ⟨hmem, hans, hout⟩

/-- What is read after ECC acted is what was there before. -/
theorem readMem_applyEcc (off : Nat) (r : Req) (len : Nat) : readMem (applyEcc off ecc (unpipe r s)) off len = readMem s off len := by
  rw [readMem, applyEcc_mem]
  rfl

end

/-! ## The statement -/

/-- Settles O19: each operation by what its access to sound lines of backed space gives. -/
theorem requestsReadAndWrite : Obligations.RequestsReadAndWrite := by
  unfold Obligations.RequestsReadAndWrite
  intro s r ecc h hwf
  have hsound : readStatus (unpipe r s) (addrOffset r.addr) r.len ecc = .ok := h.sound
  have hboot : (applyEcc (addrOffset r.addr) ecc (unpipe r s)).boot = s.boot := applyEcc_keeps (g := .boot) rfl _ _ _ (.refl .boot _)
  have hhw : (applyEcc (addrOffset r.addr) ecc (unpipe r s)).hw = s.hw := applyEcc_hw ..
  have hold : (readMem s (addrOffset r.addr) r.len).length = r.len := readN_length ..
  refine ⟨fun hop => ?_, fun hop => ?_, fun hop ha hd => ?_, fun hop hd => ?_, fun hop hpos => ?_, fun hop hdiv => ?_, fun hop => ?_⟩
  · refine ⟨_, congrArg (fun o => Host.Outcome.next (performCmd [o] r ecc s)) hop.symm, ?_⟩
    exact read_served h (by rw [hop]; rfl) (by rw [hop]; decide)
      (by simp only [doOp, hop, hsound, readMem_applyEcc])
  · refine ⟨_, congrArg (fun o => Host.Outcome.next (performCmd [o] r ecc s)) hop.symm, And.symm ?_⟩
    exact read_served h (by rw [hop]; rfl) (by rw [hop]; decide)
      ((doOp_confRead (r := { r with ecc }) hop hsound).trans (by simp only [readMem_applyEcc, confCheck_congr hhw hboot]; rfl))
  · refine ⟨_, congrArg (fun o => Host.Outcome.next (performCmd [o] r {} s)) hop.symm, ?_⟩
    exact store_served h (by rw [hop]; rfl) hwf (fun _ => ha) hd (by simp only [doOp, hop])
  · refine ⟨_, congrArg (fun o => Host.Outcome.next (performCmd [o] r {} s)) hop.symm, ?_⟩
    exact store_served h (by rw [hop]; rfl) hwf (fun he => by simp [hop] at he) hd (by simp only [doOp, hop])
  · refine ⟨_, congrArg (fun o => Host.Outcome.next (performCmd [o] r ecc s)) hop.symm, ?_⟩
    exact modify_served h (by rw [hop]; rfl) hwf (by rw [hop]; decide) (toBytes_length ..)
      (fun hok => by simp [doOp, hop, hok, readMem_applyEcc])
  · refine ⟨_, congrArg (fun o => Host.Outcome.next (performCmd [o] r ecc s)) hop.symm, ?_⟩
    exact modify_served h (by rw [hop]; rfl) hwf (by rw [hop]; decide)
      ((reduceBytes_length (by rw [hold]; exact hdiv) ..).trans hold) (fun hok => by simp [doOp, hop, hok, readMem_applyEcc])
  · refine ⟨_, congrArg (fun o => Host.Outcome.next (performCmd [o] r ecc s)) hop.symm, ?_⟩
    exact modify_served h (by rw [hop]; rfl) hwf (by rw [hop]; decide) (toBytes_length ..)
      (fun hok => (doOp_confAtomic (r := { r with ecc }) hop hok).trans (by simp only [readMem_applyEcc, confEntries_congr hhw hboot, confEntries_ecc]))

end Sys2Proof.HomeRequests
end

section
/-!
What the steps of descriptors share (R149, R192, R206): landed requests counted, withdrawn descriptors settled, requests issued.
-/
namespace Sys2Proof.RillSteps

open Sys2Proof Sys2Proof.Machine Sys2Proof.Safety Sys2Proof.LostOwners

/-! ## Nothing to be counted or settled -/

/-- Whether a landed request is a descriptor's or a firing's. -/
def countable (x : Landed) : Bool :=
  match x.req.src with
  | .rill .. | .course .. => true
  | _ => false

/-- One landed request counted. -/
def countLanded (s : State) (x : Landed) : State :=
  match x.req.src with
  | .rill rill index n => if index == probeIndex then landProbe x n s else updJob rill index (fun j => landJob x j n s) s
  | .course _ id _ => updFiring id (landFiring x) s
  | _ => s

theorem absorb_eq (s : State) : absorb s =
    (s.weir.landed.filter countable).foldl countLanded
      { s with weir := { s.weir with landed := s.weir.landed.filter (fun x => !(s.weir.landed.filter countable).contains x) } } := rfl

theorem absorb_quiet {s : State} (h : NoLandings s) : absorb s = s := by
  have hmine : s.weir.landed.filter countable = [] := by
    refine List.filter_eq_nil_iff.2 (fun x hx => ?_)
    have hx := h x hx
    unfold countable
    revert hx
    cases x.req.src <;> simp
  rw [absorb_eq, hmine]
  simp only [List.contains_nil, Bool.not_false, List.filter_true, List.foldl_nil]

/-- Where one request of a descriptor has landed, and nothing else, it is counted. -/
theorem absorb_one {s : State} {x : Landed} (h : s.weir.landed = [x]) {rill index n : Nat} (hsrc : x.req.src = .rill rill index n)
    (hi : index ≠ probeIndex) : absorb s = updJob rill index (fun j => landJob x j n { s with weir := { s.weir with landed := [] } })
      { s with weir := { s.weir with landed := [] } } := by
  have hmine : s.weir.landed.filter countable = [x] := by simp [h, countable, hsrc]
  rw [absorb_eq, hmine, h]
  simp [countLanded, hsrc, hi]

theorem settle_uncut {s : State} {rill : Nat} (h : Uncut s rill) : settle rill s = s := by
  have hnone : s.rill.jobs.filter (fun j => j.rill == rill && (j.cut || j.withdrawn) && j.outstanding == 0 && !millBusy s j.rill j.index
      && !expanding s j) = [] := List.filter_eq_nil_iff.2 (fun j hj => by
    by_cases hr : j.rill = rill
    · obtain ⟨hc, hw⟩ := h j hj hr
      simp [hc, hw]
    · simp [hr])
  rw [settle, hnone, List.foldl_nil]

/-- f leaves a descriptor's name, and whether it is cut or withdrawn. -/
structure Steady (f : Job → Job) : Prop where
  rill : ∀ x, (f x).rill = x.rill
  index : ∀ x, (f x).index = x.index
  cut : ∀ x, (f x).cut = x.cut
  withdrawn : ∀ x, (f x).withdrawn = x.withdrawn

theorem updChunk_steady (n : Nat) (f : Chunk → Chunk) : Steady (fun j => j.updChunk n f) := by
  refine ⟨fun x => ?_, fun x => ?_, fun x => ?_, fun x => ?_⟩ <;> unfold Job.updChunk <;> split <;> rfl

theorem findJob_steady {s : State} {rill index : Nat} {j : Job} (h : findJob s rill index = some j) {f : Job → Job} (hf : Steady f) :
    findJob (updJob rill index f s) rill index = some (f j) := findJob_updJob h (fun x => ⟨hf.rill x, hf.index x⟩)

theorem uncut_updJob {s : State} {rill : Nat} (h : Uncut s rill) {f : Job → Job} (hf : Steady f) (r index : Nat) :
    Uncut (updJob r index f s) rill := by
  intro x hx hr
  obtain ⟨y, hy, hxy⟩ := List.mem_map.1 hx
  split at hxy
  · subst hxy
    exact hf.cut y ▸ hf.withdrawn y ▸ h y hy ((hf.rill y).symm.trans hr)
  · exact hxy ▸ h y hy (hxy ▸ hr)

theorem uncut_congr {s t : State} (h : t.rill.jobs = s.rill.jobs) {rill : Nat} (hu : Uncut s rill) : Uncut t rill := by
  rw [Uncut, h]
  exact hu

theorem uncut_found {s : State} {rill index : Nat} {j : Job} (hu : Uncut s rill) (h : findJob s rill index = some j) :
    j.cut = false ∧ j.withdrawn = false := hu j (List.mem_of_find?_eq_some h) (findJob_named h).1

/-! ## Requests of a rill that have not landed (R192) -/

theorem rillOutstanding_updJob_le {s : State} {rill index : Nat} {f : Job → Job} (hf : ∀ x, (f x).rill = x.rill ∧ (f x).outstanding ≤ x.outstanding)
    (r : Nat) : rillOutstanding (updJob rill index f s) r ≤ rillOutstanding s r := by
  have hsum : ∀ l : List Job, (((l.map (fun j => if j.rill == rill && j.index == index then f j else j)).filter (fun j => j.rill == r)).map
      Job.outstanding).sum ≤ ((l.filter (fun j => j.rill == r)).map Job.outstanding).sum := by
    intro l
    induction l with
    | nil => exact Nat.le_refl _
    | cons x l ih =>
      have hx : ∀ y : Job, y.rill = x.rill → y.outstanding ≤ x.outstanding →
          (((y :: l.map (fun j => if j.rill == rill && j.index == index then f j else j)).filter (fun j => j.rill == r)).map Job.outstanding).sum
            ≤ (((x :: l).filter (fun j => j.rill == r)).map Job.outstanding).sum := fun y hy ho => by
        by_cases hr : x.rill = r
        · simp only [List.filter_cons, hy, hr, beq_self_eq_true, if_true, List.map_cons, List.sum_cons]
          omega
        · simp only [List.filter_cons, hy, beq_iff_eq, hr, if_false]
          exact ih
      rw [List.map_cons]
      split
      · exact hx _ (hf x).1 (hf x).2
      · exact hx _ rfl (Nat.le_refl _)
  exact Nat.add_le_add_right (hsum s.rill.jobs) _

/-! ## Requests issued (R149) -/

theorem inEpoch_rill (r : Req) (s : State) : ∃ es, (inEpoch r s).2.rill = { s.rill with epochs := es } := by
  unfold inEpoch
  split
  · exact ⟨s.rill.epochs, rfl⟩
  · exact ⟨_, rfl⟩

/-- A request issued changes of the rills' state only the epochs of its source. -/
theorem issueIn_rill (asid : Nat) (ctx : Option Ctx) (r : Req) (s : State) :
    ∃ es, (issueIn asid ctx r s).rill = { s.rill with epochs := es } := by
  obtain ⟨es, he⟩ := inEpoch_rill { r with asid := some asid, tgen := (ctx.map (·.gen)).getD 0 } s
  refine ⟨es, he ▸ ?_⟩
  have hi : ∀ t q u, (issueTrans t q u).rill = u.rill := fun t q u =>
    rill_eq (issueTrans_keeps (g := .rill) rfl t q u (.refl _ u)) (issueTrans_keeps (g := .rillTable) rfl t q u (.refl _ u))
  simp only [issueIn]
  split
  · rw [hi]
    exact rill_eq (translateCached_keeps (g := .rill) rfl _ _ _ _ _ _ _ (.refl _ _)) (translateCached_keeps (g := .rillTable) rfl _ _ _ _ _ _ _ (.refl _ _))
  · exact hi ..

end Sys2Proof.RillSteps
end

section
/-!
Copies (R190, R191, R216, R217): where each of a copy's loops rests, and what a copy of one request does at its start, its read and its end.
-/
namespace Sys2Proof.Copies

open Sys2Proof Sys2Proof.Machine Sys2Proof.Safety Sys2Proof.IssuedRequests Sys2Proof.LostOwners Sys2Proof.RillSteps

/-! ## Where the loops rest -/

section
variable {s : State} {rill index : Nat} {j : Job}

theorem copyWrite_gone (h : findJob s rill index = none) (n : Nat) : copyWrite rill index n s = s := by
  cases n <;> simp only [copyWrite, h]

/-- With no read bytes at hand nothing is written on. -/
theorem copyWrite_rests (h : findJob s rill index = some j) (hg : ∀ c ∈ j.chunks, c.got = []) (n : Nat) : copyWrite rill index n s = s := by
  cases n with
  | zero => rfl
  | succ n =>
    have hnone : j.chunks.findSome? (fun c => if c.num == counterChunk then none else c.got.head?.map (fun p => (c.num, p))) = none :=
      List.findSome?_eq_none_iff.2 (fun c hc => by simp [hg c hc])
    simp only [copyWrite, h, hnone, ite_self]

theorem copyPump_gone (h : findJob s rill index = none) (n : Nat) : copyPump rill index n s = s := by
  cases n <;> simp only [copyPump, h]

/-- A copy whose requests are all issued issues no more. -/
theorem copyPump_rests (h : findJob s rill index = some j) (hn : requestCount (copyOps j) ≤ j.next) (n : Nat) : copyPump rill index n s = s := by
  cases n with
  | zero => rfl
  | succ n => simp [copyPump, h, hn]

theorem copyEnd_gone (h : findJob s rill index = none) : copyEnd rill index s = s := by simp only [copyEnd, h]

/-- A copy with a request outstanding goes on. -/
theorem copyEnd_waits (h : findJob s rill index = some j) (he : j.err = none) (ho : j.outstanding ≠ 0) : copyEnd rill index s = s := by
  simp [copyEnd, h, he, ho]

theorem endPage_outcomes (race : Nat) (pg : ExpPage) (s : State) : (endPage race pg s).shoal.outcomes = s.shoal.outcomes := by
  unfold endPage dropPageRef
  split <;> rfl

/-- Pages dropped change no descriptor, nothing in the queues, and no outcome. -/
theorem dropPages_same (x : XferId) (s : State) : (dropPages x s).rill = s.rill ∧ (dropPages x s).weir = s.weir
    ∧ (dropPages x s).shoal.outcomes = s.shoal.outcomes := by
  refine ⟨rill_eq (dropPages_keeps (g := .rill) rfl x s (.refl _ s)) (dropPages_keeps (g := .rillTable) rfl x s (.refl _ s)),
    weir_eq (dropPages_keeps (g := .weirCtl) rfl x s (.refl _ s)) (dropPages_keeps (g := .weirQ) rfl x s (.refl _ s)), ?_⟩
  unfold dropPages
  refine keeps_foldl (P := fun t : State => t.shoal.outcomes = s.shoal.outcomes) (fun t race h => ?_) _ s rfl
  exact keeps_foldl (P := fun u : State => u.shoal.outcomes = s.shoal.outcomes) (fun u pg hu => (endPage_outcomes race pg u).trans hu) _ t h

theorem dropOutcomes_rill (x : XferId) (s : State) : (dropOutcomes x s).rill = s.rill := rfl

theorem dropOutcomes_weir (x : XferId) (s : State) : (dropOutcomes x s).weir = s.weir := rfl

theorem sortedOutcomes_none {x : XferId} (h : ∀ o ∈ s.shoal.outcomes, o.xfer ≠ x.whole) : sortedOutcomes s x = [] := by
  have hf : s.shoal.outcomes.find? (fun o => o.xfer == x.whole) = none := List.find?_eq_none.2 (fun o ho => by simpa using h o ho)
  simp only [sortedOutcomes, hf, Option.map_none, Option.getD_none, List.foldl_nil]

theorem xferFirst_none {x : XferId} (h : sortedOutcomes s x = []) : xferFirst s x = none := by simp only [xferFirst, h, List.find?_nil, Option.map_none]

theorem xferStatus_ok {x : XferId} (h : sortedOutcomes s x = []) : xferStatus s x = (.ok, 0) := by simp only [xferStatus, h, List.find?_nil]

/-- A copy that expands nothing, with everything landed and counted or failed, ends. -/
theorem copyEnd_ends (h : findJob s rill index = some j) (hb : j.begun = true) (ho : j.outstanding = 0) (ht : j.target = 0)
    (hrest : ∀ t, j.chunks.any (fun c => !c.got.isEmpty || chunkComplete t j c.num) = false)
    (hend : (j.err.isSome || (requestCount (copyOps j) ≤ j.next && j.chunks.all (fun c => c.num == counterChunk || c.counted || c.failed))) = true)
    (hno : ∀ o ∈ s.shoal.outcomes, o.xfer ≠ { course := false, rill, index }) :
    ∃ t, t.rill = s.rill ∧ t.weir = s.weir ∧ copyEnd rill index s = endJob j t := by
  have hexp : ∀ t, expanding t j = false := fun t => by simp [expanding, ht]
  have hquiet : sortedOutcomes s { course := false, rill, index } = [] := sortedOutcomes_none hno
  obtain ⟨hrill, hweir, hout⟩ := dropPages_same { course := false, rill, index } s
  have hdrop : sortedOutcomes (dropPages { course := false, rill, index } s) { course := false, rill, index } = [] :=
    sortedOutcomes_none (by rw [hout]; exact hno)
  cases hd : (j.err.isSome && 0 == 0 && (expOff0 s { course := false, rill, index }).isNone) with
  | false =>
    refine ⟨dropOutcomes { course := false, rill, index } s, rfl, rfl, ?_⟩
    simp only [copyEnd, h, hd, hb, ho, hexp, hrest, hend, xferFirst_none hquiet, xferStatus_ok hquiet, Bool.false_eq_true, if_false, if_true,
      Bool.not_true, bne_self_eq_false, Bool.or_self, Bool.and_false]
  | true =>
    refine ⟨dropOutcomes { course := false, rill, index } (dropPages { course := false, rill, index } s),
      (dropOutcomes_rill ..).trans hrill, (dropOutcomes_weir ..).trans hweir, ?_⟩
    simp only [copyEnd, h, hd, hb, ho, hexp, hrest, hend, xferFirst_none hdrop, xferStatus_ok hdrop, Bool.false_eq_true, if_false, if_true,
      Bool.not_true, bne_self_eq_false, Bool.or_self, Bool.and_false]

end

/-! ## COPY begins (R191, R216) -/

section
variable {s : State} {rill index : Nat} {j : Job}

theorem copy_steps (hl : NoLandings s) (hu : Uncut s rill) (hj : findJob s rill index = some j) (hk : j.kind = 0) :
    exec (.copy rill index) s =
      .next (copyEnd rill index (copyPump rill index 4096 (copyWrite rill index 4096 (if j.begun then s else copyStart j s)))) := by
  show execCopy rill index s = _
  simp only [execCopy, absorb_quiet hl, settle_uncut hu, hj, hk, bne_self_eq_false, Bool.false_eq_true, if_false]

/-- A copy that ends at its first step. -/
theorem copy_endsAtStart (hl : NoLandings s) (hu : Uncut s rill) (hj : findJob s rill index = some j) (hk : j.kind = 0) (hb : j.begun = false)
    (hslots : j.slots = []) (hbuilds : j.builds = []) {st : Status} {detail : Nat} (hstart : copyStart j s = finishJob j st detail false s) :
    Completes (.copy rill index) s (Ended j st s) := by
  have hended := MillControl.finishJob_ended hslots hbuilds st detail false s
  obtain ⟨hr, hi⟩ := findJob_named hj
  have hgone : findJob (finishJob j st detail false s) rill index = none := by rw [← hr, ← hi]; exact hended.1
  refine ⟨_, (copy_steps hl hu hj hk).trans ?_, hended⟩
  simp only [hb, hstart, Bool.false_eq_true, if_false, copyWrite_gone hgone, copyPump_gone hgone, copyEnd_gone hgone]

theorem copyStart_empty (h : (copyOps j).len = 0) : copyStart j s = finishJob j .ok 0 false s := by
  simp only [copyStart, h, beq_self_eq_true, if_true]

theorem copyStart_refuses (h0 : (copyOps j).len ≠ 0)
    (h : 12 < (copyOps j).chunkLog2 ∨ ((copyOps j).srcHost = true ∧ (copyOps j).dstHost = true) ∨
      (((copyOps j).srcHost = true ∨ (copyOps j).dstHost = true) ∧ 1 < j.party)) :
    ∃ detail, copyStart j s = finishJob j .faultPermission detail false s := by
  by_cases hc : 12 < (copyOps j).chunkLog2
  · refine ⟨operandDetail 0 0, ?_⟩
    simp only [copyStart, beq_iff_eq, h0, hc, if_true, if_false]
  · have hend : (((copyOps j).srcHost || (copyOps j).dstHost) && (decide (1 < j.party) || ((copyOps j).srcHost && (copyOps j).dstHost))) = true := by
      rcases h.resolve_left hc with ⟨ha, hb⟩ | ⟨ha | ha, hp⟩
      · simp [ha, hb]
      · simp [ha, hp]
      · simp [ha, hp]
    refine ⟨operandDetail (if (copyOps j).srcHost then 0 else 1) 0, ?_⟩
    simp only [copyStart, beq_iff_eq, h0, hc, hend, if_true, if_false]

/-- A copy of one request has begun. -/
def begun (j : Job) : Job := { j with begun := true, counterOk := true, target := 0 }

theorem begun_steady : Steady begun := ⟨fun _ => rfl, fun _ => rfl, fun _ => rfl, fun _ => rfl⟩

theorem copyStart_begins (h : HostFetch j) : copyStart j s = updJob j.rill j.index begun s := by
  have h0 : (copyOps j).len ≠ 0 := by have := h.long; omega
  have hu : ¬ 12 < (copyOps j).chunkLog2 := by have := h.unit; omega
  have hp : ¬ 1 < j.party := by have := h.party; omega
  simp only [copyStart, beq_iff_eq, h0, hu, hp, h.source, h.dest, h.counter, if_true, if_false, meet, List.flatMap_nil, List.min?_nil, Option.isSome_none,
    decide_false, Bool.or_false, Bool.and_false, Bool.false_and, Bool.false_eq_true, bne_self_eq_false, b2n]
  rfl

theorem requestCount_one (h : HostFetch j) : requestCount (copyOps j) = 1 := by
  have hl := h.long
  have hs := h.short
  unfold requestCount
  omega

/-! ## The one read of a copy issued (R216) -/

/-- A copy whose first request has been issued. -/
def reading (j : Job) : Job := { (j.updChunk 0 (fun c => { c with reads := c.reads + 1 })) with next := 1 }

theorem updChunk_empty (hc : j.chunks = []) (n : Nat) (f : Chunk → Chunk) : j.updChunk n f = { j with chunks := [f { num := n }] } := by
  simp [Job.updChunk, Job.chunk, hc]

theorem updChunk_only {c : Chunk} (hc : j.chunks = [c]) (f : Chunk → Chunk) : j.updChunk c.num f = { j with chunks := [f c] } := by
  simp [Job.updChunk, Job.chunk, hc]

/-- The state with the first request of a copy from a host bus on its way. -/
def fetching (j : Job) (s : State) : State :=
  let t := updJob j.rill j.index reading s
  emit (.pcieRead j.party s.rill.nextDma (copyOps j).src (copyOps j).len)
    { t with rill := { t.rill with
      nextDma := s.rill.nextDma + 1
      dma := s.rill.dma ++ [{ tag := s.rill.nextDma, rill := j.rill, index := j.index, num := 0 }] } }

theorem copyIssue_fetches (hs : (copyOps j).srcHost = true) (hl : (copyOps j).len ≤ 4096) : copyIssue j (copyOps j) 0 s = fetching j s := by
  have hn : chunkOf (copyOps j) 0 = 0 := Nat.zero_div _
  have hlen : reqLen (copyOps j) 0 = (copyOps j).len := by unfold reqLen; omega
  simp only [copyIssue, hs, if_true, hn, hlen]
  rfl

/-- A copy of one request that has begun fetches it, and then waits. -/
theorem copyPump_fetches (h : HostFetch j) (hj : findJob s rill index = some j) (hcut : j.cut = false ∧ j.withdrawn = false)
    (hok : j.counterOk = true) (hn : j.next = 0) (hc : j.chunks = []) (hout : rillOutstanding s rill < 4096) (n : Nat) :
    copyPump rill index (n + 1) s = fetching j s ∧ findJob (fetching j s) rill index = some { j with next := 1, chunks := [{ num := 0, reads := 1 }] } := by
  obtain ⟨hr, hi⟩ := findJob_named hj
  have hreading : reading j = { j with next := 1, chunks := [{ num := 0, reads := 1 }] } := by
    rw [reading, updChunk_empty hc]
  have hfound : findJob (fetching j s) rill index = some { j with next := 1, chunks := [{ num := 0, reads := 1 }] } := by
    have hf := findJob_updJob hj (f := reading) (fun x => ⟨(updChunk_steady 0 _).rill x, (updChunk_steady 0 _).index x⟩)
    rw [hreading] at hf
    rw [← hr, ← hi] at hf ⊢
    exact hf
  have hcap : ¬ 4096 ≤ rillOutstanding s rill := by omega
  have hexp : ∀ va, copyExpands s j va = false := fun va => by simp [copyExpands, h.clear.1]
  have hone : copyPump rill index (n + 1) s = copyPump rill index n (fetching j s) := by
    rw [← copyIssue_fetches h.source h.short]
    have hmore : ¬ 1 ≤ 0 := by omega
    simp only [copyPump, hj, hcut.1, hcut.2, h.clear.2.1, hok, hn, requestCount_one h, hcap, hexp, hmore, Option.isSome_none, Bool.not_true,
      Bool.not_false, Bool.or_self, Bool.true_or, Bool.false_eq_true, if_false, decide_false]
  refine ⟨hone.trans (copyPump_rests hfound ?_ n), hfound⟩
  exact (requestCount_one h).le

/-- COPY of one request from a host bus: it begins and the read is on its way. -/
theorem copy_fetches (hl : NoLandings s) (hu : Uncut s rill) (hj : findJob s rill index = some j) (h : HostFetch j) (hb : j.begun = false)
    (hn : j.next = 0) (hc : j.chunks = []) (hout : rillOutstanding s rill < 4096) :
    exec (.copy rill index) s = .next (fetching (begun j) (updJob rill index begun s))
      ∧ findJob (fetching (begun j) (updJob rill index begun s)) rill index =
        some { j with begun := true, counterOk := true, next := 1, chunks := [{ num := 0, reads := 1 }] } := by
  obtain ⟨hr, hi⟩ := findJob_named hj
  have hj' : findJob (updJob rill index begun s) rill index = some (begun j) := findJob_steady hj begun_steady
  have hcap : rillOutstanding (updJob rill index begun s) rill < 4096 :=
    lt_of_le_of_lt (rillOutstanding_updJob_le (f := begun) (fun _ => ⟨rfl, Nat.le_refl _⟩) rill) hout
  have hfetch : HostFetch (begun j) := ⟨h.kind, h.long, h.short, h.unit, h.source, h.dest, h.counter, h.party, rfl, h.clear.2⟩
  have hcut : j.cut = false ∧ j.withdrawn = false := uncut_found hu hj
  obtain ⟨hpump, hfound⟩ := copyPump_fetches hfetch hj' hcut rfl hn hc hcap 4095
  have ht : ({ j with target := 0 } : Job) = j := by rw [← h.clear.1]
  have hst : (if j.begun then s else copyStart j s) = updJob rill index begun s := by
    rw [copyStart_begins h, hb, hr, hi]
    rfl
  refine ⟨?_, ?_⟩
  · rw [copy_steps hl hu hj h.kind, hst, copyWrite_rests hj' (by simp [begun, hc])]
    rw [show copyPump rill index 4096 (updJob rill index begun s) = _ from hpump]
    exact congrArg Host.Outcome.next (copyEnd_waits hfound h.clear.2.1 (by simp [Job.outstanding]))
  · rw [hfound]
    exact congrArg (fun x : Job => some { x with begun := true, counterOk := true, next := 1, chunks := [{ num := 0, reads := 1 }] }) ht

/-! ## The read landed (R190, R216) -/

/-- A chunk whose read has landed, with its bytes or without. -/
def readChunk (data : Option Bytes) (c : Chunk) : Chunk :=
  { c with
    readsDone := c.readsDone + 1
    got := match data with
      | some bs => c.got ++ [(0, bs)]
      | none => c.got
    failed := c.failed || data.isNone }

/-- A copy whose host read has landed. -/
def landedRead (data : Option Bytes) (j : Job) : Job :=
  let j := j.updChunk 0 (readChunk data)
  if data.isNone then { j with err := firstErr j.err 0 .uncorrectable 0 } else { j with bytes := j.bytes + 0 }

theorem landedRead_steady (data : Option Bytes) : Steady (landedRead data) := by
  have h := updChunk_steady 0 (readChunk data)
  refine ⟨fun x => ?_, fun x => ?_, fun x => ?_, fun x => ?_⟩ <;> unfold landedRead <;> dsimp only <;> split
  exacts [h.rill x, h.rill x, h.index x, h.index x, h.cut x, h.cut x, h.withdrawn x, h.withdrawn x]

/-- What of a chunk has not landed. -/
def afloat (c : Chunk) : Nat := (c.issued - c.landed) + (c.reads - c.readsDone)

/-- A chunk with no more afloat leaves no more outstanding. -/
theorem outstanding_updChunk_le {f : Chunk → Chunk} (hf : ∀ c, afloat (f c) ≤ afloat c) (n : Nat) (j : Job) :
    (j.updChunk n f).outstanding ≤ j.outstanding := by
  unfold Job.updChunk Job.outstanding
  split
  · rw [List.map_map]
    refine List.sum_le_sum (fun c _ => ?_)
    dsimp only [Function.comp_apply]
    split
    · exact hf c
    · exact Nat.le_refl _
  · have h0 : afloat (f { num := n }) ≤ 0 := hf { num := n }
    simp only [List.map_append, List.map_cons, List.map_nil, List.sum_append, List.sum_cons, List.sum_nil]
    unfold afloat at h0
    omega

theorem landedRead_outstanding (data : Option Bytes) (j : Job) : (landedRead data j).outstanding ≤ j.outstanding := by
  have h := outstanding_updChunk_le (f := readChunk data) (fun c => by simp only [afloat, readChunk]; omega) 0 j
  unfold landedRead
  dsimp only
  split <;> exact h

/-- The state with a copy's host read counted. -/
def readLanded (tag rill index : Nat) (data : Option Bytes) (s : State) : State :=
  updJob rill index (landedRead data) { s with rill := { s.rill with dma := s.rill.dma.erase { tag, rill, index, num := 0 } } }

theorem dmaCompletion_counts {tag : Nat} (hl : NoLandings s) (hu : Uncut s rill) (hj : findJob s rill index = some j) (h : HostFetch j)
    (hd : s.rill.dma.find? (fun d => d.tag == tag) = some { tag, rill, index, num := 0 }) (data : Option Bytes) :
    dmaCompletion tag data s = copyChunk rill index 0 (readLanded tag rill index data s) := by
  have hj' : findJob { s with rill := { s.rill with dma := s.rill.dma.erase { tag, rill, index, num := 0 } } } rill index = some j := hj
  have hn : chunkOf (copyOps j) 0 = 0 := Nat.zero_div _
  have hset : settle rill (readLanded tag rill index data s) = readLanded tag rill index data s :=
    settle_uncut (uncut_updJob (s := { s with rill := { s.rill with dma := s.rill.dma.erase { tag, rill, index, num := 0 } } }) hu
      (landedRead_steady data) rill index)
  have habs : absorb { s with rill := { s.rill with dma := s.rill.dma.erase { tag, rill, index, num := 0 } } } =
      { s with rill := { s.rill with dma := s.rill.dma.erase { tag, rill, index, num := 0 } } } := absorb_quiet hl
  rw [← hset]
  simp only [dmaCompletion, hd, Bool.false_eq_true, if_false, dmaCompletion.hostLanded, habs, hj', h.source, if_true, hn]
  rfl

/-! ## The bytes written on (R216) -/

/-- A chunk whose bytes at hand are taken, and one with one write more on its way. -/
def unread (c : Chunk) : Chunk := { c with got := c.got.drop 1 }

def written (c : Chunk) : Chunk := { c with issued := c.issued + 1 }

/-- A request issued changes no descriptor. -/
theorem findJob_issueIn (asid : Nat) (ctx : Option Ctx) (r : Req) (s : State) (rill index : Nat) :
    findJob (issueIn asid ctx r s) rill index = findJob s rill index := by
  obtain ⟨es, hes⟩ := issueIn_rill asid ctx r s
  rw [findJob, hes]
  rfl

/-- The write of a copy's bytes into memory. -/
def copyStore (s : State) (j : Job) (d : Bytes) : Req :=
  { op := .store, va := (copyOps j).dst, len := d.length, data := d, party := j.party, origin := selfPair s j.party, src := .rill j.rill j.index 0
    tclass := .bulk }

/-- The state with the one read of a copy written on. -/
def storing (j : Job) (d : Bytes) (s : State) : State :=
  let t := updJob j.rill j.index (fun j => j.updChunk 0 unread) s
  issueIn j.asid j.ctx (copyStore t j d) (updJob j.rill j.index (fun j => j.updChunk 0 written) t)

/-- A copy with its read at hand. -/
def arrived (j : Job) (d : Bytes) : Job := { j with chunks := [{ num := 0, reads := 1, readsDone := 1, got := [(0, d)] }] }

/-- A copy with its only write on its way. -/
def away (j : Job) : Job := { j with chunks := [{ num := 0, reads := 1, readsDone := 1, issued := 1 }] }

theorem landedRead_some {d : Bytes} (hc : j.chunks = [{ num := 0, reads := 1 }]) : landedRead (some d) j = arrived j d := by
  simp only [landedRead, updChunk_only (c := { num := 0, reads := 1 }) hc, Option.isNone_some, Bool.false_eq_true, if_false]
  rfl

theorem findJob_storing {d : Bytes} (hj : findJob s rill index = some (arrived j d)) : findJob (storing (arrived j d) d s) rill index = some (away j) := by
  obtain ⟨hr, hi⟩ := findJob_named hj
  have h1 := findJob_steady hj (updChunk_steady 0 unread)
  have h2 := findJob_steady h1 (updChunk_steady 0 written)
  rw [storing, findJob_issueIn, hr, hi]
  exact h2

theorem copyWrite_stores {d : Bytes} (h : HostFetch j) (hj : findJob s rill index = some (arrived j d)) (hcut : j.cut = false ∧ j.withdrawn = false)
    (hout : rillOutstanding s rill < 4096) (n : Nat) : copyWrite rill index (n + 1) s = storing (arrived j d) d s := by
  obtain ⟨hr, hi⟩ := findJob_named hj
  have hcap : ¬ 4096 ≤ rillOutstanding s rill := by omega
  have hexp : ∀ t va, copyExpands t (arrived j d) va = false := fun t va => by simp [copyExpands, arrived, h.clear.1]
  have hdst : (copyOps (arrived j d)).dstHost = false := h.dest
  have hfirst : (arrived j d).chunks.findSome? (fun c => if c.num == counterChunk then none else c.got.head?.map (fun p => (c.num, p))) =
      some (0, 0, d) := rfl
  have hone : copyWrite rill index (n + 1) s = copyWrite rill index n (storing (arrived j d) d s) := by
    have hc : (arrived j d).cut = false := hcut.1
    have hw : (arrived j d).withdrawn = false := hcut.2
    simp only [copyWrite, hj, hc, hw, hcap, hfirst, copyOn, hexp, hdst, Bool.false_eq_true, if_false, decide_false, Bool.or_self]
    rw [storing, copyStore, hr, hi]
    rfl
  exact hone.trans (copyWrite_rests (findJob_storing hj) (by simp [away]) n)

/-- A copy with its only write on its way waits for it. -/
theorem copyChunk_waits {d : Bytes} (h : HostFetch j) (hj : findJob s rill index = some (arrived j d)) (hcut : j.cut = false ∧ j.withdrawn = false)
    (hb : j.begun = true) (hn : j.next = 1) (hout : rillOutstanding s rill < 4096) :
    copyChunk rill index 0 s = storing (arrived j d) d s := by
  have hw : copyWrite rill index 4096 s = storing (arrived j d) d s := copyWrite_stores h hj hcut hout 4095
  have hfound := findJob_storing hj
  have hp := copyPump_rests hfound (show requestCount (copyOps j) ≤ j.next by rw [hn]; exact (requestCount_one h).le) 4096
  have hk : ((arrived j d).kind != 0 || !(arrived j d).begun) = false := by simp [arrived, h.kind, hb]
  have hc : chunkComplete (storing (arrived j d) d s) (away j) 0 = false := by simp [chunkComplete, Job.chunk, away]
  simp only [copyChunk, hj, hk, hw, hp, hfound, hc, Bool.false_and, Bool.false_eq_true, if_false]
  exact copyEnd_waits hfound h.clear.2.1 (by simp [Job.outstanding, away])

/-- The write of a copy's bytes goes to its home. -/
theorem storing_placed {d : Bytes} {p : Piece} {u : State} (hp : GoesHome s 0 j.party j.asid j.ctx (copyOps j).dst d.length .store 0#64 p)
    (hs : SameSearch s u) (hq : SamePlace s u) : Placed s (storing j d u) (SentTo (copyStore s j d) p) := by
  have hsame : copyStore (updJob j.rill j.index (fun j => j.updChunk 0 unread) u) j d = copyStore s j d :=
    congrArg (fun n => { copyStore s j d with origin := ⟨n, j.party⟩ }) (show u.node = s.node by rw [State.node, State.node, hs.hw])
  rw [storing, hsame]
  exact issueIn_placed (r := copyStore s j d) hp (by simp [copyStore]) (hs.trans ⟨rfl, rfl, rfl, rfl⟩) (hq.trans ⟨rfl, rfl, rfl, rfl, rfl⟩)

/-! ## The end of a copy (R217) -/

/-- A descriptor with an error ends with it. -/
theorem endJob_failed (hcut : j.cut = false ∧ j.withdrawn = false) {off detail : Nat} {st : Status} (he : j.err = some (off, st, detail)) (s : State) :
    endJob j s = finishJob j st detail j.indet s := by
  simp only [endJob, hcut.1, hcut.2, he, Bool.false_eq_true, if_false]

/-- One without an error ends OK. -/
theorem endJob_ok (hcut : j.cut = false ∧ j.withdrawn = false) (he : j.err = none) (s : State) : endJob j s = finishJob j .ok j.detail false s := by
  simp only [endJob, hcut.1, hcut.2, he, Bool.false_eq_true, if_false]

theorem finishJob_weir (hs : j.slots = []) (hb : j.builds = []) (st : Status) (detail : Nat) (indet : Bool) (s : State) :
    (finishJob j st detail indet s).weir = s.weir := by
  simp only [finishJob, hs, hb, List.foldl_nil, addDue]

/-- A copy whose only read failed. -/
def unreadable (j : Job) : Job :=
  { j with chunks := [{ num := 0, reads := 1, readsDone := 1, failed := true }], err := some (0, .uncorrectable, 0) }

theorem landedRead_none (hc : j.chunks = [{ num := 0, reads := 1 }]) (he : j.err = none) : landedRead none j = unreadable j := by
  simp only [landedRead, updChunk_only (c := { num := 0, reads := 1 }) hc, Option.isNone_none, if_true, he, firstErr]
  rfl

/-- A copy whose only read failed ends. -/
theorem copyChunk_fails (h : HostFetch j) (hj : findJob s rill index = some (unreadable j)) (hcut : j.cut = false ∧ j.withdrawn = false)
    (hb : j.begun = true) (hn : j.next = 1) (hno : ∀ o ∈ s.shoal.outcomes, o.xfer ≠ { course := false, rill, index }) :
    ∃ t, t.rill = s.rill ∧ t.weir = s.weir ∧ copyChunk rill index 0 s = finishJob (unreadable j) .uncorrectable 0 j.indet t := by
  have hw := copyWrite_rests hj (by simp [unreadable]) 4096
  have hp := copyPump_rests hj (show requestCount (copyOps j) ≤ j.next by rw [hn]; exact (requestCount_one h).le) 4096
  have hk : ((unreadable j).kind != 0 || !(unreadable j).begun) = false := by simp [unreadable, h.kind, hb]
  have hc : ∀ t, chunkComplete t (unreadable j) 0 = false := fun t => by simp [chunkComplete, Job.chunk, unreadable]
  have hrest : ∀ t, (unreadable j).chunks.any (fun c => !c.got.isEmpty || chunkComplete t (unreadable j) c.num) = false := fun t => by
    show ((!([] : List (Nat × Bytes)).isEmpty || chunkComplete t (unreadable j) 0) || false) = false
    rw [hc t]
    rfl
  obtain ⟨t, hr, hwr, he⟩ := copyEnd_ends hj hb rfl h.clear.1 hrest rfl hno
  refine ⟨t, hr, hwr, ?_⟩
  have hf : endJob (unreadable j) t = finishJob (unreadable j) .uncorrectable 0 j.indet t :=
    endJob_failed (j := unreadable j) hcut rfl t
  simp only [copyChunk, hj, hk, hw, hp, hc, Bool.false_and, Bool.false_eq_true, if_false]
  exact he.trans hf

/-! ## The write landed (R190, R217) -/

/-- A copy whose only write has landed. -/
def stored (len : Nat) (j : Job) : Job :=
  { j with bytes := j.bytes + len, chunks := [{ num := 0, reads := 1, readsDone := 1, issued := 1, landed := 1 }] }

/-- A chunk counted. -/
def countChunk (j : Job) : Job := { (j.updChunk 0 (fun c => { c with counted := true })) with done := j.done + 1 }

theorem countChunk_steady : Steady countChunk := by
  have h := updChunk_steady 0 (fun c => { c with counted := true })
  exact ⟨h.rill, h.index, h.cut, h.withdrawn⟩

/-- A copy whose only chunk is counted. -/
def done (len : Nat) (j : Job) : Job :=
  { stored len j with done := j.done + 1, chunks := [{ num := 0, reads := 1, readsDone := 1, issued := 1, landed := 1, counted := true }] }

theorem countChunk_stored (len : Nat) (j : Job) : countChunk (stored len j) = done len j := by
  rw [countChunk, updChunk_only (j := stored len j) (c := { num := 0, reads := 1, readsDone := 1, issued := 1, landed := 1 }) rfl]
  rfl

/-- A landed request leaves a descriptor's name and whether it goes on. -/
theorem landJob_steady (x : Landed) (n : Nat) (s : State) : Steady (fun j => landJob x j n s) := by
  have h : ∀ j, (landJob x j n s).rill = j.rill ∧ (landJob x j n s).index = j.index ∧ (landJob x j n s).cut = j.cut
      ∧ (landJob x j n s).withdrawn = j.withdrawn := fun j => by
    unfold landJob
    extract_lets y isRead isCtr staged base off ok j' j''
    have hj' : j'.rill = j.rill ∧ j'.index = j.index ∧ j'.cut = j.cut ∧ j'.withdrawn = j.withdrawn := by
      simp only [j']
      split <;> exact ⟨rfl, rfl, rfl, rfl⟩
    have hj'' : j''.rill = j.rill ∧ j''.index = j.index ∧ j''.cut = j.cut ∧ j''.withdrawn = j.withdrawn :=
      let ⟨hr, hi, hc, hw⟩ := hj'
      ⟨((updChunk_steady n _).rill j').trans hr, ((updChunk_steady n _).index j').trans hi, ((updChunk_steady n _).cut j').trans hc,
        ((updChunk_steady n _).withdrawn j').trans hw⟩
    split
    · split <;> exact hj''
    · split <;> exact hj''
  exact ⟨fun j => (h j).1, fun j => (h j).2.1, fun j => (h j).2.2.1, fun j => (h j).2.2.2⟩

theorem landJob_store {x : Landed} (hop : x.req.op = .store) (hst : x.status = .ok)
    (hc : j.chunks = [{ num := 0, reads := 1, readsDone := 1, issued := 1 }]) (s : State) : landJob x j 0 s = stored x.req.len j := by
  have hname : namedStatus j.kind x = .ok := by simp [namedStatus, hst]
  have hctr : (0 == counterChunk) = false := by decide
  have hload : (Op.store == Op.load) = false := by decide
  have hu : ∀ f, Job.updChunk { j with bytes := j.bytes + x.req.len } 0 f = { j with
      bytes := j.bytes + x.req.len, chunks := [f { num := 0, reads := 1, readsDone := 1, issued := 1 }] } :=
    updChunk_only (j := { j with bytes := j.bytes + x.req.len }) (c := { num := 0, reads := 1, readsDone := 1, issued := 1 }) hc
  simp only [landJob, hname, hop, hctr, hload, beq_self_eq_true, Bool.not_false, Bool.and_true, if_true, Bool.false_eq_true, if_false, hu]
  rfl

/-- A copy whose only write has landed ends. -/
theorem copyChunk_ends {len : Nat} (h : HostFetch j) (hj : findJob s rill index = some (stored len j)) (hcut : j.cut = false ∧ j.withdrawn = false)
    (hb : j.begun = true) (hn : j.next = 1) (hno : ∀ o ∈ s.shoal.outcomes, o.xfer ≠ { course := false, rill, index }) :
    ∃ t, t.rill.due = s.rill.due ∧ copyChunk rill index 0 s = finishJob (done len j) .ok j.detail false t := by
  have hw := copyWrite_rests hj (by simp [stored]) 4096
  have hp := copyPump_rests hj (show requestCount (copyOps j) ≤ j.next by rw [hn]; exact (requestCount_one h).le) 4096
  have hk : ((stored len j).kind != 0 || !(stored len j).begun) = false := by simp [stored, h.kind, hb]
  have hnext : requestCount (copyOps j) ≤ j.next := by rw [hn]; exact (requestCount_one h).le
  have hcc : chunkComplete s (stored len j) 0 = true := by
    have hle : min (requestCount (copyOps (stored len j))) ((0 + 1) * 2 ^ (copyOps (stored len j)).chunkLog2) ≤ (stored len j).next :=
      (Nat.min_le_left _ _).trans hnext
    have hch : (stored len j).chunk 0 = some { num := 0, reads := 1, readsDone := 1, issued := 1, landed := 1 } := rfl
    have hcut' : (stored len j).cut = false ∧ (stored len j).withdrawn = false ∧ ((stored len j).target == 1) = false :=
      ⟨hcut.1, hcut.2, beq_eq_false_iff_ne.2 (by show j.target ≠ 1; rw [h.clear.1]; decide)⟩
    simp only [chunkComplete, hch, hle, hcut', decide_true, beq_self_eq_true, List.isEmpty_nil, Bool.not_false, Bool.and_self, Bool.false_and]
  have hj' : findJob (updJob rill index countChunk s) rill index = some (done len j) := by
    rw [← countChunk_stored]
    exact findJob_steady hj countChunk_steady
  have hc : ∀ t, chunkComplete t (done len j) 0 = false := fun t => by simp [chunkComplete, Job.chunk, done]
  have hrest : ∀ t, (done len j).chunks.any (fun c => !c.got.isEmpty || chunkComplete t (done len j) c.num) = false := fun t => by
    show ((!([] : List (Nat × Bytes)).isEmpty || chunkComplete t (done len j) 0) || false) = false
    rw [hc t]
    rfl
  have hall : ((done len j).err.isSome || (decide (requestCount (copyOps (done len j)) ≤ (done len j).next)
      && (done len j).chunks.all (fun c => c.num == counterChunk || c.counted || c.failed))) = true := by
    have hle : requestCount (copyOps (done len j)) ≤ (done len j).next := hnext
    rw [decide_eq_true hle]
    exact Bool.or_true _
  obtain ⟨t, hr, -, he⟩ := copyEnd_ends hj' hb rfl h.clear.1 hrest hall hno
  have hf : endJob (done len j) t = finishJob (done len j) .ok j.detail false t := endJob_ok (j := done len j) hcut h.clear.2.1 t
  refine ⟨t, by rw [hr]; rfl, ?_⟩
  have hz : (copyOps (stored len j)).counter = 0 := h.counter
  simp only [copyChunk, hj, hk, hw, hp, hcc, hz, beq_self_eq_true, Bool.true_or, Bool.and_self, if_true, Bool.false_eq_true, if_false]
  exact he.trans hf

/-! ## The three later steps of a copy of one request -/

/-- The host read landed with its bytes: they are on their way to DST. -/
theorem dmaCompletion_stores {tag : Nat} {d : Bytes} {p : Piece} (hl : NoLandings s) (hu : Uncut s rill) (hj : findJob s rill index = some j)
    (h : HostFetch j) (hb : j.begun = true) (hn : j.next = 1) (hc : j.chunks = [{ num := 0, reads := 1 }]) (hout : rillOutstanding s rill < 4096)
    (hd : s.rill.dma.find? (fun d => d.tag == tag) = some { tag, rill, index, num := 0 })
    (hp : GoesHome s 0 j.party j.asid j.ctx (copyOps j).dst d.length .store 0#64 p) :
    Placed s (dmaCompletion tag (some d) s) (SentTo (copyStore s j d) p) := by
  have hj' : findJob (readLanded tag rill index (some d) s) rill index = some (arrived j d) := by
    rw [← landedRead_some hc]
    exact findJob_steady (s := { s with rill := { s.rill with dma := _ } }) hj (landedRead_steady _)
  have hcap : rillOutstanding (readLanded tag rill index (some d) s) rill < 4096 :=
    lt_of_le_of_lt (rillOutstanding_updJob_le (fun x => ⟨(landedRead_steady _).rill x, landedRead_outstanding _ x⟩) rill) hout
  rw [dmaCompletion_counts hl hu hj h hd, copyChunk_waits h hj' (uncut_found hu hj) hb hn hcap]
  exact storing_placed (s := s) (j := arrived j d) hp ⟨rfl, rfl, rfl, rfl⟩ ⟨rfl, rfl, rfl, rfl, rfl⟩

/-- The host read failed: the copy has ended. -/
theorem dmaCompletion_fails {tag : Nat} (hl : NoLandings s) (hu : Uncut s rill) (hj : findJob s rill index = some j) (h : HostFetch j)
    (hb : j.begun = true) (hn : j.next = 1) (hc : j.chunks = [{ num := 0, reads := 1 }])
    (hd : s.rill.dma.find? (fun d => d.tag == tag) = some { tag, rill, index, num := 0 })
    (hno : ∀ o ∈ s.shoal.outcomes, o.xfer ≠ { course := false, rill, index }) :
    Ended j .uncorrectable s (dmaCompletion tag none s) ∧ (dmaCompletion tag none s).weir = s.weir := by
  obtain ⟨-, herr, hslots, hbuilds⟩ := h.clear
  have hj' : findJob (readLanded tag rill index none s) rill index = some (unreadable j) := by
    rw [← landedRead_none hc herr]
    exact findJob_steady (s := { s with rill := { s.rill with dma := _ } }) hj (landedRead_steady _)
  obtain ⟨t, hr, hw, he⟩ := copyChunk_fails h hj' (uncut_found hu hj) hb hn hno
  rw [dmaCompletion_counts hl hu hj h hd, he]
  refine ⟨finishJob_ends (j := unreadable j) hbuilds _ _ _ (by rw [hr]; rfl), ?_⟩
  rw [finishJob_weir (j := unreadable j) hslots hbuilds, hw]
  rfl

/-- The write landed: the copy has ended. -/
theorem chunkLanded_ends {x : Landed} (hx : s.weir.landed = [x]) (hi : index ≠ probeIndex) (hsrc : x.req.src = .rill rill index 0)
    (hop : x.req.op = .store) (hst : x.status = .ok) (hu : Uncut s rill) (hj : findJob s rill index = some j) (h : HostFetch j) (hb : j.begun = true)
    (hn : j.next = 1) (hc : j.chunks = [{ num := 0, reads := 1, readsDone := 1, issued := 1 }])
    (hno : ∀ o ∈ s.shoal.outcomes, o.xfer ≠ { course := false, rill, index }) :
    Completes (.chunkLanded false rill index 0) s (Ended j .ok s) := by
  have hland : absorb s = updJob rill index (fun j => landJob x j 0 { s with weir := { s.weir with landed := [] } })
      { s with weir := { s.weir with landed := [] } } := absorb_one hx hsrc hi
  have hj' : findJob (absorb s) rill index = some (stored x.req.len j) := by
    rw [hland, ← landJob_store hop hst hc]
    exact findJob_steady (s := { s with weir := _ }) hj (landJob_steady ..)
  have hset : settle rill (absorb s) = absorb s := by
    rw [hland]
    exact settle_uncut (uncut_updJob (s := { s with weir := { s.weir with landed := [] } }) hu (landJob_steady ..) rill index)
  have hsame : (absorb s).rill.due = s.rill.due ∧ (absorb s).shoal = s.shoal := by rw [hland]; exact ⟨rfl, rfl⟩
  obtain ⟨t, hdue, he⟩ := copyChunk_ends h hj' (uncut_found hu hj) hb hn (by rw [hsame.2]; exact hno)
  obtain ⟨-, -, -, hbuilds⟩ := h.clear
  have hended : Ended j .ok s (finishJob (done x.req.len j) .ok j.detail false t) :=
    finishJob_ends (j := done x.req.len j) hbuilds .ok j.detail false (hdue.trans hsame.1)
  obtain ⟨hr, hindex⟩ := findJob_named hj
  have hgone : findJob (finishJob (done x.req.len j) .ok j.detail false t) rill index = none := by rw [← hr, ← hindex]; exact hended.1
  refine ⟨_, ?_, hended⟩
  show Host.Outcome.next (jobProgress rill index (copyChunk rill index 0 (settle rill (absorb s)))) = _
  rw [hset, he, jobProgress, hgone]

end

/-! ## The statement -/

/-- Settles O33: each step of a copy of one request by where its loops rest after it. -/
theorem copiesReadWriteAndEnd : Obligations.CopiesReadWriteAndEnd := by
  unfold Obligations.CopiesReadWriteAndEnd
  refine ⟨fun s rill index j hl hu hj hk hb hslots hbuilds => ⟨fun h0 => ?_, fun h0 h => ?_⟩, fun s rill index j hl hu hj h hb hn hc hout => ?_,
    fun s port tag rill index j hl hu hj h hb hok hn hc hout hd hno => ⟨fun d p hlen hp => ?_, ?_⟩,
    fun s rill index j x hx hi hsrc hop hst hu hj h hb hok hn hc hno => chunkLanded_ends hx hi hsrc hop hst hu hj h hb hn hc hno⟩
  · exact copy_endsAtStart hl hu hj hk hb hslots hbuilds (copyStart_empty h0)
  · obtain ⟨detail, he⟩ := copyStart_refuses h0 h
    exact copy_endsAtStart hl hu hj hk hb hslots hbuilds he
  · obtain ⟨he, hf⟩ := copy_fetches hl hu hj h hb hn hc hout
    obtain ⟨hr, hi⟩ := findJob_named hj
    refine ⟨_, he, rfl, ?_, rfl, hf⟩
    rw [← hr, ← hi]
    rfl
  · obtain ⟨hr, hi⟩ := findJob_named hj
    refine ⟨_, rfl, SluicePieces.placed_of_imp (dmaCompletion_stores hl hu hj h hb hn hc hout hd hp) ?_⟩
    rintro q ⟨hqop, hqaddr, hqlen, hqdata, -, hqorigin, hqsrc, hqcls⟩
    refine ⟨hqop, hqaddr, hqlen, hqdata, hqorigin, ?_, hqcls⟩
    rw [hqsrc, ← hr, ← hi]
    rfl
  · obtain ⟨hended, hweir⟩ := dmaCompletion_fails hl hu hj h hb hn hc hd hno
    exact ⟨_, rfl, hended, congrArg WeirSt.queue hweir⟩

end Sys2Proof.Copies
end

section
/-!
The built-in operations of a MILL rill (R233, R248, R263, R264): the first step with its checks, a piece read, written and counted, the end of a
codebook build, and the table of RUN_TABLE.
-/
namespace Sys2Proof.BuiltIns

open Sys2Proof Sys2Proof.Machine Sys2Proof.Safety Sys2Proof.IssuedRequests Sys2Proof.LostOwners Sys2Proof.RillSteps Sys2Proof.Copies

/-! ## Where the loops rest -/

section
variable {s : State} {rill index : Nat} {j : Job}

theorem builtinPump_gone (h : findJob s rill index = none) (n : Nat) : builtinPump rill index n s = s := by
  cases n <;> simp only [builtinPump, h]

/-- An operation whose pieces are all under way reads no more. -/
theorem builtinPump_rests (h : findJob s rill index = some j) (hn : pieceTotal j ≤ j.next) (n : Nat) : builtinPump rill index n s = s := by
  cases n with
  | zero => rfl
  | succ n => simp [builtinPump, h, hn]

theorem builtinEnd_gone (h : findJob s rill index = none) : builtinEnd rill index s = s := by simp only [builtinEnd, h]

/-- An operation with a request outstanding goes on. -/
theorem builtinEnd_waits (h : findJob s rill index = some j) (ho : j.outstanding ≠ 0) : builtinEnd rill index s = s := by
  simp [builtinEnd, h, ho]

theorem pieceTotal_one (h0 : 0 < millCount j) (h1 : millCount j ≤ pieceElems) : pieceTotal j = 1 := by
  unfold pieceTotal
  unfold pieceElems at h1 ⊢
  omega

theorem pieceLen_first (h1 : millCount j ≤ pieceElems) : pieceLen j 0 = millCount j := by
  simp only [pieceLen, Nat.mul_zero, Nat.sub_zero, Nat.min_eq_right h1]

/-- The only range of a run of one piece in a format that is not MX. -/
theorem formatRanges_first {code : Nat} (h : isMx code = false) (count n : Nat) : formatRanges code count 0 n = [(0, n * elemBits code / 8)] := by
  simp [formatRanges, h]

theorem cut4k_short {n : Nat} (h0 : 0 < n) (h1 : n ≤ 4096) : cut4k (0, n) = [(0, n)] := by
  have hc : (n + 4095) / 4096 = 1 := by omega
  simp [cut4k, hc, Nat.min_eq_right h1]

/-! ## The first step (R191, R248) -/

/-- The code of an operation and its command. -/
theorem builtIn_exec (h2 : 2 ≤ j.op) (h5 : j.op ≤ 5) : exec (builtInCommand j.op rill index) s = .next (builtinStep j.op rill index s) := by
  obtain h | h | h | h : j.op = 2 ∨ j.op = 3 ∨ j.op = 4 ∨ j.op = 5 := by omega
  all_goals rw [h]; rfl

theorem builtinStep_eq (h : MillJob s rill index j) :
    builtinStep j.op rill index s = builtinEnd rill index (builtinPump rill index 4096 (if j.begun then s else builtinStart j s)) := by
  simp only [builtinStep, absorb_quiet h.landed, settle_uncut h.uncut, h.found, h.kind, bne_self_eq_false, Bool.or_self, Bool.false_eq_true, if_false]

/-- An operation that ends at its first step. -/
theorem builtIn_endsAtStart (h : MillJob s rill index j) (hb : j.begun = false) (hbuilds : j.builds = []) (h2 : 2 ≤ j.op) (h5 : j.op ≤ 5)
    {st : Status} {detail : Nat} (hstart : builtinStart j s = finishJob j st detail false s) :
    Completes (builtInCommand j.op rill index) s (Ended j st s) := by
  have hended : Ended j st s (finishJob j st detail false s) := finishJob_ends hbuilds st detail false rfl
  obtain ⟨hr, hi⟩ := findJob_named h.found
  have hgone : findJob (finishJob j st detail false s) rill index = none := by rw [← hr, ← hi]; exact hended.1
  refine ⟨_, builtIn_exec h2 h5, ?_⟩
  rw [builtinStep_eq h, hb, if_neg Bool.false_ne_true, hstart, builtinPump_gone hgone, builtinEnd_gone hgone]
  exact hended

theorem builtinStart_empty (h0 : millCount j = 0) (h5 : j.op ≠ 5) : builtinStart j s = finishJob j .ok 0 false s := by
  simp [builtinStart, h0, opBuild, h5]

theorem builtinStart_refused (h0 : millCount j ≠ 0) {k : Nat} (h : builtinBad j s = some k) :
    builtinStart j s = finishJob j .faultPermission (operandDetail k 0) false s := by
  simp [builtinStart, h0, h]

/-- The operands that a check refuses (R248, R263, R264). -/
theorem builtinBad_some
    (h : (j.op = 2 ∧ (12 < millFmtIn j ∨ 12 < millFmtOut j ∨ ((isMx (millFmtIn j) = true ∨ isMx (millFmtOut j) = true) ∧ millCount j % 32 ≠ 0)))
      ∨ (j.op = 3 ∧ bits (j.word 4) 62 2 = 3) ∨ (j.op = 4 ∧ j.word 3 % 4096 ≠ 0) ∨ (j.op = 5 ∧ millCount j % dOf (encDCode j) ≠ 0)) :
    ∃ k, builtinBad j s = some k := by
  rcases h with ⟨hop, hf⟩ | ⟨hop, hr⟩ | ⟨hop, ha⟩ | ⟨hop, hd⟩
  · have hc : (decide (12 < millFmtIn j) || decide (12 < millFmtOut j)
        || ((isMx (millFmtIn j) || isMx (millFmtOut j)) && millCount j % 32 != 0)) = true := by
      simpa [or_assoc] using hf
    exact ⟨2, by simp only [builtinBad, hop, opConvert, beq_self_eq_true, if_true, hc]⟩
  · exact ⟨2, by simp [builtinBad, hop, opConvert, opMillReduce, hr]⟩
  · simp only [builtinBad, hop, opConvert, opMillReduce, opEncode, Nat.reduceBEq, Bool.false_eq_true, if_false, beq_self_eq_true, if_true, bne_iff_ne,
      ne_eq, ha, not_false_eq_true, Bool.or_eq_true, or_true]
    split
    · exact ⟨0, rfl⟩
    · exact ⟨1, rfl⟩
  · simp only [builtinBad, hop, opConvert, opMillReduce, opEncode, Nat.reduceBEq, Bool.false_eq_true, if_false, bne_iff_ne, ne_eq, hd,
      not_false_eq_true, if_true]
    split
    · exact ⟨0, rfl⟩
    · exact ⟨2, rfl⟩

/-! ## An operation begins (R191, R273) -/

/-- t differs from s in the expanders and in nothing that a request's way, a descriptor or a mill depends on. -/
structure SameWork (s t : State) : Prop where
  search : SameSearch s t
  place : SamePlace s t
  rill : t.rill = s.rill
  mills : t.mills = s.mills

theorem SameWork.refl (s : State) : SameWork s s := ⟨⟨rfl, rfl, rfl, rfl⟩, ⟨rfl, rfl, rfl, rfl, rfl⟩, rfl, rfl⟩

theorem makeResident_sameWork {race slot party : Nat} {u : State} (h : makeResident race slot party s = some u) : SameWork s u := by
  unfold makeResident at h
  extract_lets st limit need mine used drop kept at h
  split at h
  · obtain rfl := Option.some.inj h
    exact ⟨⟨rfl, rfl, rfl, rfl⟩, ⟨rfl, rfl, rfl, rfl, rfl⟩, rfl, rfl⟩
  · split at h
    · obtain rfl := Option.some.inj h
      exact ⟨⟨rfl, rfl, rfl, rfl⟩, ⟨rfl, rfl, rfl, rfl, rfl⟩, rfl, rfl⟩
    · cases h

/-- The books that an operation needs, made resident. -/
theorem residentAll_sameWork (hop : j.op = 4 → (makeResident j.race (encSlot j) j.party s).isSome = true) :
    ∃ u, residentAll j.race j.party (if j.op == opEncode then [encSlot j] else []) s = some u ∧ SameWork s u := by
  by_cases h : j.op = 4
  · obtain ⟨u, hu⟩ := Option.isSome_iff_exists.1 (hop h)
    exact ⟨u, by simp [opEncode, h, residentAll, hu], makeResident_sameWork hu⟩
  · exact ⟨s, by simp [opEncode, h, residentAll], .refl s⟩

/-- An operation has begun. -/
def started (j : Job) : Job := { j with begun := true, counterOk := true }

theorem started_steady : Steady started := ⟨fun _ => rfl, fun _ => rfl, fun _ => rfl, fun _ => rfl⟩

theorem builtinStart_begins (hbad : builtinBad j s = none) (h0 : 0 < millCount j) (hc : j.word 5 = 0)
    (hop : j.op = 4 → (makeResident j.race (encSlot j) j.party s).isSome = true) :
    ∃ u, SameWork s u ∧ builtinStart j s = updJob j.rill j.index started u := by
  obtain ⟨u, hu, hsame⟩ := residentAll_sameWork hop
  have hn : (millCount j == 0) = false := by simp; omega
  refine ⟨u, hsame, ?_⟩
  simp only [builtinStart, hn, hbad, hc, hu, Bool.false_and, Bool.false_eq_true, if_false, bne_self_eq_false, beq_self_eq_true, if_true]
  rfl

/-! ## The mill of a piece (R28) -/

theorem rillOutstanding_updJob_same {f : Job → Job} (hf : ∀ x, (f x).rill = x.rill ∧ (f x).outstanding = x.outstanding) (r : Nat) :
    rillOutstanding (updJob rill index f s) r = rillOutstanding s r := by
  have h1 : ((fun j : Job => j.rill == r) ∘ fun j => if j.rill == rill && j.index == index then f j else j) = fun j => j.rill == r := by
    funext x
    simp only [Function.comp_apply]
    split
    · rw [(hf x).1]
    · rfl
  have h2 : (Job.outstanding ∘ fun j => if j.rill == rill && j.index == index then f j else j) = Job.outstanding := by
    funext x
    simp only [Function.comp_apply]
    split
    · exact (hf x).2
    · rfl
  have hsum : ((s.rill.jobs.map (fun j => if j.rill == rill && j.index == index then f j else j)).filter (fun j => j.rill == r)).map Job.outstanding =
      (s.rill.jobs.filter (fun j => j.rill == r)).map Job.outstanding := by
    rw [List.filter_map, List.map_map, h1, h2]
  exact congrArg (fun l : List Nat => l.sum + _) hsum

theorem wantsPiece_congr {t : State} (h : ∀ r, rillOutstanding t r = rillOutstanding s r) (x : Job) : wantsPiece t x = wantsPiece s x := by
  simp only [wantsPiece, h]

theorem freeMills_congr {t : State} (hw : t.hw = s.hw) (hm : t.mills = s.mills) (race party : Nat) : freeMills t race party = freeMills s race party := by
  have h1 : ∀ m, millOf t m = millOf s m := fun m => by rw [millOf, hm]; rfl
  have h2 : isSealed t = isSealed s := by simp only [isSealed, hw]
  simp only [freeMills, millsOf, h1, h2, partyRec, hw]

theorem pickMill_free {race party : Nat} (h : freeMills s race party ≠ []) : ∃ m ∈ freeMills s race party, pickMill s race party = some m := by
  unfold pickMill
  extract_lets free
  split
  · next m hm => exact ⟨m, List.mem_of_find?_eq_some hm, rfl⟩
  · exact ⟨_, List.head_mem h, List.head?_eq_some_head h⟩

theorem rotation_single (last r : Nat) : (rotation last [r]).head? = some r := by
  by_cases h : last < r
  · simp [Machine.rotation, h]
  · simp [Machine.rotation, h, Nat.le_of_not_lt h]

/-- The rill of the only descriptor that waits for a mill is the only one that does. -/
theorem pieceRills_only {race : Nat} {mine : Nat → Bool} (hj : findJob s rill index = some j) (hwant : wantsPiece s j = true) (hrace : j.race = race)
    (hmine : mine j.party = true) (hothers : ∀ y ∈ s.rill.jobs, wantsPiece s y = true → y.rill = rill) : pieceRills s race mine = [rill] := by
  have hmem : j ∈ s.rill.jobs.filter (fun y => wantsPiece s y && y.race == race && mine y.party) :=
    List.mem_filter.2 ⟨List.mem_of_find?_eq_some hj, by simp [hwant, hrace, hmine]⟩
  have hfold : pieceRills s race mine =
      ((s.rill.jobs.filter (fun y => wantsPiece s y && y.race == race && mine y.party)).map (·.rill)).foldl (fun l p => insertNat p l) [] := by
    rw [pieceRills, List.foldl_map]
  rw [hfold]
  refine SluicePieces.pieces_single _ (List.ne_nil_of_mem (List.mem_map_of_mem hmem)) (fun r hr => ?_)
  obtain ⟨y, hy, rfl⟩ := List.mem_map.1 hr
  obtain ⟨hin, hp⟩ := List.mem_filter.1 hy
  simp only [Bool.and_eq_true] at hp
  exact hothers y hin hp.1.1

/-- A descriptor with nobody else waiting is served a free mill. -/
theorem pieceMill_takes (hj : findJob s rill index = some j) (hop : j.op ≠ 5) (hwant : wantsPiece s j = true)
    (hothers : ∀ y ∈ s.rill.jobs, wantsPiece s y = true → y.rill = rill) (hfree : freeMills s j.race j.party ≠ []) :
    ∃ m ∈ freeMills s j.race j.party, pieceMill s j = some (some m) := by
  obtain ⟨m, hm, hpick⟩ := pickMill_free hfree
  have hrills : pieceRills s j.race (fun p => !isSealed s || p == j.party) = [rill] := pieceRills_only hj hwant rfl (by simp) hothers
  have hne : (freeMills s j.race j.party).isEmpty = false := by simpa using hfree
  have hturn : inTurn s j.race j.party [rill] j.rill = true := by
    simp [inTurn, hne, rotation_single, (findJob_named hj).1]
  refine ⟨m, hm, ?_⟩
  simp only [pieceMill, opBuild, beq_iff_eq, hop, if_false, hrills, hturn, if_true, hpick, Option.map_some]

/-! ## The first LOAD (R192, R248) -/

/-- The first read of an operation. -/
def firstLoad (s : State) (rill index : Nat) (j : Job) (n : Nat) : Req :=
  { op := .load, va := j.word 2, len := n, party := j.party, origin := selfPair s j.party, src := .rill rill index 0, tclass := .mill }

/-- An operation whose first piece is being read. -/
def readFirst (j : Job) : Job := { (j.updChunk 0 (fun c => { c with reads := 1 })) with next := 1 }

/-- The state with the first piece's read issued. -/
def loading (rill index : Nat) (j : Job) (n : Nat) (s : State) : State :=
  issueIn j.asid j.ctx (firstLoad s rill index j n) (updJob rill index readFirst s)

/-- The state with a mill taken for the first piece. -/
def onMill (rill index m : Nat) (j : Job) (s : State) : State :=
  servedRill j.race rill (updMill m (fun x => { x with piece := some 0 }) (takeMill m j.party rill index j.words s))

/-- The state in which the first piece is read: on a mill, or, for a build, without one. -/
def served (rill index : Nat) (j : Job) (s : State) : Option Nat → State
  | some m => onMill rill index m j s
  | none => s

theorem millOf_onMill (rill index m : Nat) (j : Job) (s : State) :
    (millOf (onMill rill index m j s) m).job = some (rill, index) ∧ (millOf (onMill rill index m j s) m).piece = some 0 := by
  have h : ∀ (f : Mill → Mill) (t : State), millOf (servedRill j.race rill (updMill m f t)) m = f (millOf t m) :=
    fun f t => MillControl.millOf_updMill_same m f t
  rw [onMill, h, takeMill, MillControl.millOf_updMill_same]
  exact ⟨rfl, rfl⟩

theorem served_same (mill : Option Nat) : SameSearch s (served rill index j s mill) ∧ SamePlace s (served rill index j s mill)
    ∧ (served rill index j s mill).rill.jobs = s.rill.jobs ∧ (served rill index j s mill).rill.due = s.rill.due := by
  cases mill <;> exact ⟨⟨rfl, rfl, rfl, rfl⟩, ⟨rfl, rfl, rfl, rfl, rfl⟩, rfl, rfl⟩

theorem loading_found {n : Nat} (hj : findJob s rill index = some j) (hc : j.chunks = []) :
    findJob (loading rill index j n s) rill index = some { j with next := 1, chunks := [{ num := 0, reads := 1 }] } := by
  have h := findJob_updJob hj (f := readFirst) (fun x => ⟨(updChunk_steady 0 _).rill x, (updChunk_steady 0 _).index x⟩)
  rw [readFirst, updChunk_empty hc] at h
  rw [loading, findJob_issueIn]
  exact h

theorem loading_due (n : Nat) : (loading rill index j n s).rill.due = s.rill.due := by
  obtain ⟨es, he⟩ := issueIn_rill j.asid j.ctx (firstLoad s rill index j n) (updJob rill index readFirst s)
  rw [loading, he]
  rfl

theorem loading_mills (n : Nat) : (loading rill index j n s).mills = s.mills :=
  issueIn_keeps (g := .mills) rfl _ _ _ _ (.refl .mills s)

/-- The only piece of an operation that has read nothing yet is one request of n bytes. -/
structure OneRead (j : Job) (n : Nat) : Prop where
  few : 0 < millCount j
  one : millCount j ≤ pieceElems
  plain : isMx (millFmtIn j) = false
  len : n = millCount j * elemBits (millFmtIn j) / 8
  pos : 0 < n
  short : n ≤ 4096
  next : j.next = 0
  chunks : j.chunks = []

theorem OneRead.total {n : Nat} (h : OneRead j n) : pieceTotal j = 1 := pieceTotal_one h.few h.one

theorem OneRead.reads {n : Nat} (h : OneRead j n) : pieceReads j = [(0, n)] := by
  rw [pieceReads, h.next, pieceLen_first h.one, formatRanges_first h.plain, ← h.len, List.flatMap_cons, List.flatMap_nil,
    cut4k_short h.pos h.short]
  rfl

theorem OneRead.started {n : Nat} (h : OneRead j n) : OneRead (started j) n :=
  ⟨h.few, h.one, h.plain, h.len, h.pos, h.short, h.next, h.chunks⟩

/-- An operation that has begun reads its first piece, and then waits. -/
theorem builtinPump_loads {n : Nat} {mill : Option Nat} (hj : findJob s rill index = some j) (hcut : j.cut = false ∧ j.withdrawn = false)
    (herr : j.err = none) (hok : j.counterOk = true) (h : OneRead j n) (hout : rillOutstanding s rill < 4096) (hmill : pieceMill s j = some mill)
    (k : Nat) : builtinPump rill index (k + 1) s = loading rill index j n (served rill index j s mill) := by
  have hcap : ¬ 4096 < rillOutstanding s rill + 1 := by omega
  have hmore : ¬ 1 ≤ 0 := by omega
  obtain ⟨-, -, hjobs, -⟩ := served_same (s := s) (rill := rill) (index := index) (j := j) mill
  have hfound := loading_found (n := n) ((findJob_congr hjobs rill index).trans hj) h.chunks
  have hrest := builtinPump_rests hfound (show pieceTotal { j with next := 1, chunks := _ } ≤ 1 from h.total.le) k
  have hone : builtinPump rill index (k + 1) s = builtinPump rill index k (loading rill index j n (served rill index j s mill)) := by
    simp only [builtinPump, hj, hcut.1, hcut.2, herr, hok, h.next, h.total, h.reads, hmill, hcap, hmore, List.length_singleton,
      Option.isSome_none, Bool.not_true, Bool.or_self, Bool.false_eq_true, if_false, decide_false, List.foldl_cons, List.foldl_nil]
    cases mill <;> rfl
  exact hone.trans hrest

/-- A request of the first piece goes to its home. -/
theorem loading_placed {n : Nat} {p : Piece} {u : State} (hp : GoesHome s 0 j.party j.asid j.ctx (j.word 2) n .load 0#64 p) (hs : SameSearch s u)
    (hq : SamePlace s u) : Placed s (loading rill index j n u) (SentTo (firstLoad s rill index j n) p) := by
  have hsame : firstLoad u rill index j n = firstLoad s rill index j n :=
    congrArg (fun k => { firstLoad s rill index j n with origin := ⟨k, j.party⟩ }) (show u.node = s.node by rw [State.node, State.node, hs.hw])
  rw [loading, hsame]
  exact issueIn_placed (r := firstLoad s rill index j n) hp (by simp [firstLoad]) (hs.trans ⟨rfl, rfl, rfl, rfl⟩) (hq.trans ⟨rfl, rfl, rfl, rfl, rfl⟩)

/-! ## Past the checks (R28, R248) -/

section
variable {u : State} {n : Nat}

theorem started_found (h : MillJob s rill index j) (hu : SameWork s u) : findJob (updJob rill index started u) rill index = some (started j) :=
  findJob_steady ((findJob_congr (congrArg _ hu.rill) rill index).trans h.found) started_steady

theorem started_outstanding (hu : SameWork s u) (r : Nat) : rillOutstanding (updJob rill index started u) r = rillOutstanding s r := by
  have he : rillOutstanding u r = rillOutstanding s r := by rw [rillOutstanding, hu.rill]; rfl
  exact (rillOutstanding_updJob_same (f := started) (fun _ => ⟨rfl, rfl⟩) r).trans he

/-- An operation that has begun waits for a mill. -/
theorem started_wants {t : State} (h : MillJob s rill index j) (h2 : 2 ≤ j.op) (h4 : j.op ≤ 4) (hr : OneRead j n)
    (hout : rillOutstanding t rill < 4096) : wantsPiece t (started j) = true := by
  obtain ⟨hcut, hwith⟩ := uncut_found h.uncut h.found
  have hcap : rillOutstanding t j.rill + 1 ≤ 4096 := by rw [(findJob_named h.found).1]; omega
  simp only [wantsPiece, hr.started.total, hr.started.reads]
  simp [started, h.kind, h2, h4, opConvert, opEncode, hcut, hwith, h.clear, hr.next, hcap]

/-- Where no other descriptor waits for a mill, only its rill does. -/
theorem started_alone (hu : SameWork s u) (hothers : ∀ y ∈ s.rill.jobs, wantsPiece s y = false) :
    ∀ y ∈ (updJob rill index started u).rill.jobs, wantsPiece (updJob rill index started u) y = true → y.rill = rill := by
  intro y hy hw
  obtain ⟨x, hx, hxy⟩ := List.mem_map.1 hy
  rw [hu.rill] at hx
  split at hxy
  · next hname =>
    simp only [Bool.and_eq_true, beq_iff_eq] at hname
    exact hxy ▸ hname.1
  · rw [← hxy, wantsPiece_congr (started_outstanding hu), hothers x hx] at hw
    cases hw

/-- The mill of the first piece: a free one, or none for a build. -/
theorem started_mill (h : MillJob s rill index j) (hu : SameWork s u) (h2 : 2 ≤ j.op) (h5 : j.op ≤ 5) (hr : OneRead j n)
    (hout : rillOutstanding s rill < 4096) (hothers : ∀ y ∈ s.rill.jobs, wantsPiece s y = false)
    (hfree : j.op ≠ 5 → freeMills s j.race j.party ≠ []) : ∃ mill, pieceMill (updJob rill index started u) (started j) = some mill
      ∧ (j.op ≠ 5 → ∃ m ∈ freeMills s j.race j.party, mill = some m) := by
  by_cases hop : j.op = 5
  · exact ⟨none, by simp [pieceMill, started, opBuild, hop], fun hne => absurd hop hne⟩
  · have hsame : freeMills (updJob rill index started u) j.race j.party = freeMills s j.race j.party := freeMills_congr hu.place.hw hu.mills ..
    have hwant : wantsPiece (updJob rill index started u) (started j) = true :=
      started_wants h h2 (by omega) hr (by rw [started_outstanding hu]; exact hout)
    have hsome : freeMills (updJob rill index started u) (started j).race (started j).party ≠ [] := hsame.symm ▸ hfree hop
    obtain ⟨m, hm, hpm⟩ := pieceMill_takes (started_found h hu) hop hwant (started_alone hu hothers) hsome
    exact ⟨some m, hpm, fun _ => ⟨m, hsame ▸ hm, rfl⟩⟩

/-- What the first step of an operation past its checks leaves. -/
theorem builtIn_begins {p : Piece} (h : MillJob s rill index j) (hb : j.begun = false) (h2 : 2 ≤ j.op) (h5 : j.op ≤ 5)
    (hbad : builtinBad j s = none) (hr : OneRead j n) (hout : rillOutstanding s rill < 4096) (hothers : ∀ y ∈ s.rill.jobs, wantsPiece s y = false)
    (hres : j.op = 4 → (makeResident j.race (encSlot j) j.party s).isSome = true) (hfree : j.op ≠ 5 → freeMills s j.race j.party ≠ [])
    (hp : GoesHome s 0 j.party j.asid j.ctx (j.word 2) n .load 0#64 p) :
    Completes (builtInCommand j.op rill index) s (fun t => Placed s t (SentTo (firstLoad s rill index j n) p)
      ∧ (j.op ≠ 5 → ∃ m ∈ freeMills s j.race j.party, (millOf t m).job = some (rill, index) ∧ (millOf t m).piece = some 0)
      ∧ (findJob t rill index).map (·.begun) = some true ∧ t.rill.due = s.rill.due) := by
  obtain ⟨u, hu, hstart⟩ := builtinStart_begins hbad hr.few h.counter hres
  rw [(findJob_named h.found).1, (findJob_named h.found).2] at hstart
  have hj := started_found h hu
  obtain ⟨mill, hmill, hmem⟩ := started_mill h hu h2 h5 hr hout hothers hfree
  have hcut : j.cut = false ∧ j.withdrawn = false := uncut_found h.uncut h.found
  have hpump : builtinPump rill index 4096 (updJob rill index started u) = _ :=
    builtinPump_loads hj hcut h.clear rfl hr.started (by rw [started_outstanding hu]; exact hout) hmill 4095
  obtain ⟨hsearch, hplace, hjobs, hdue⟩ := served_same (s := updJob rill index started u) (rill := rill) (index := index) (j := started j) mill
  have hfound := loading_found (n := n) ((findJob_congr hjobs rill index).trans hj) hr.started.chunks
  refine ⟨_, builtIn_exec h2 h5, ?_⟩
  rw [builtinStep_eq h, hb, if_neg Bool.false_ne_true, hstart, hpump, builtinEnd_waits hfound (by simp [Job.outstanding])]
  refine ⟨?_, fun hop => ?_, by rw [hfound]; rfl, ?_⟩
  · have hs : SameSearch s (updJob rill index started u) := hu.search.trans ⟨rfl, rfl, rfl, rfl⟩
    have hq : SamePlace s (updJob rill index started u) := hu.place.trans ⟨rfl, rfl, rfl, rfl, rfl⟩
    exact loading_placed (j := started j) hp (hs.trans hsearch) (hq.trans hplace)
  · obtain ⟨m, hm, rfl⟩ := hmem hop
    refine ⟨m, hm, ?_⟩
    rw [millOf, loading_mills]
    exact millOf_onMill rill index m (started j) _
  · rw [loading_due, hdue]
    show u.rill.due = s.rill.due
    rw [hu.rill]

end

/-! ## A piece written (R248) -/

theorem gathered_one (c : Chunk) {off : Nat} {d : Bytes} (h : c.got = [(off, d)]) : gathered c = d := by simp [gathered, h]

/-- The operation code and fields of a piece's write, as bytes of DST. -/
def writeOp (j : Job) : Op := if j.op == opMillReduce then .reduce else .store

def writeFields (j : Job) : W64 := if j.op == opMillReduce then BitVec.ofNat 64 (at' (bits (j.word 4) 62 2) 54) else 0#64

/-- The one write of an operation's first piece. -/
def firstWrite (s : State) (j : Job) (w : Bytes) : Req :=
  { op := writeOp j, va := j.word 3, len := w.length, data := w, party := j.party, origin := selfPair s j.party, src := .rill j.rill j.index 0
    tclass := .mill, opf := writeFields j }

/-- A chunk whose one write has been issued. -/
def writing (c : Chunk) : Chunk := { c with issued := 1, got := [] }

/-- The state with the one write of the first piece issued. -/
def writingFirst (j : Job) (w : Bytes) (s : State) : State :=
  issueIn j.asid j.ctx (firstWrite s j w) (updJob j.rill j.index (fun x => x.updChunk 0 writing) s)

theorem issueWrites_one {w : Bytes} (hhalf : (j.op == opMillReduce && millFmtIn j == 1) = false) (h0 : 0 < w.length) (h1 : w.length ≤ 4096)
    (hout : rillOutstanding s j.rill < 4096) : issueWrites j 0 [(0, w)] s = writingFirst j w s := by
  have hn : (w.length + 4096 - 1) / 4096 = 1 := by omega
  have hcap : ¬ 4096 < rillOutstanding s j.rill + 1 := by omega
  have hw : w.take 4096 = w := List.take_of_length_le h1
  simp only [issueWrites, hhalf, Bool.false_eq_true, if_false, List.flatMap_cons, List.flatMap_nil, List.append_nil, hn, List.range_one,
    List.map_cons, List.map_nil, Nat.mul_zero, Nat.add_zero, List.drop_zero, hw, List.length_singleton, hcap, List.foldl_cons, List.foldl_nil,
    b2n, at', Nat.zero_mul]
  rfl

/-- The bytes of a piece that an operation writes. -/
theorem pieceWrites_convert {d : Bytes} (hop : j.op = 2) (hmx : isMx (millFmtOut j) = false) (h1 : millCount j ≤ pieceElems) :
    pieceWrites j 0 d s = [(0, (writeRun (millFmtOut j) (bit (j.word 4) 55) (readRun (millFmtIn j) (millCount j) d)).1)] := by
  simp only [pieceWrites, hop, opConvert, beq_self_eq_true, if_true, pieceLen_first h1, formatRanges_first hmx]

theorem pieceWrites_reduce {d : Bytes} (hop : j.op = 3) : pieceWrites j 0 d s = [(0, d)] := by
  simp [pieceWrites, hop, opConvert, opMillReduce]

/-- An operation whose first piece's write is on its way. -/
def awaiting (j : Job) (c : Chunk) : Job := { j with chunks := [writing c] }

theorem writingFirst_found {c : Chunk} {w : Bytes} (hj : findJob s rill index = some j) (hc : j.chunks = [c]) (hnum : c.num = 0) :
    findJob (writingFirst j w s) rill index = some (awaiting j c) := by
  obtain ⟨hr, hi⟩ := findJob_named hj
  have h := findJob_steady hj (updChunk_steady 0 writing)
  rw [← hnum, updChunk_only hc] at h
  rw [writingFirst, findJob_issueIn, hr, hi, ← hnum]
  exact h

theorem writingFirst_placed {w : Bytes} {p : Piece} (hp : GoesHome s 0 j.party j.asid j.ctx (j.word 3) w.length (writeOp j) (writeFields j) p) :
    Placed s (writingFirst j w s) (SentTo (firstWrite s j w) p) := by
  refine issueIn_placed (r := firstWrite s j w) hp ?_ ⟨rfl, rfl, rfl, rfl⟩ ⟨rfl, rfl, rfl, rfl, rfl⟩
  show writeOp j ≠ .mcastStore
  unfold writeOp
  split <;> decide

/-- What a piece's write asks, and where it goes. -/
theorem firstWrite_placed {w : Bytes} {p : Piece} (h : MillJob s rill index j)
    (hp : GoesHome s 0 j.party j.asid j.ctx (j.word 3) w.length (writeOp j) (writeFields j) p) :
    Placed s (writingFirst j w s) (fun q => q.op = writeOp j ∧ q.addr = p.addr ∧ q.data = w ∧ q.opf = writeFields j ∧ q.tclass = .mill
      ∧ q.src = .rill rill index 0) := by
  obtain ⟨hr, hi⟩ := findJob_named h.found
  refine SluicePieces.placed_of_imp (writingFirst_placed hp) ?_
  rintro q ⟨hop, haddr, -, hdata, hopf, -, hsrc, hcls⟩
  refine ⟨hop, haddr, hdata, hopf, hcls, ?_⟩
  rw [hsrc, ← hr, ← hi]
  rfl

theorem pieceComplete_eq (h : MillJob s rill index j) (hb : j.begun = true) (h2 : 2 ≤ j.op) (h5 : j.op ≤ 5) (piece : Nat) :
    exec (.pieceComplete rill index piece) s =
      .next (builtinEnd rill index (builtinPump rill index 4096 (pieceWrite rill index piece (pieceCount rill index piece s)))) := by
  show execPieceComplete rill index piece s = _
  have hlow : ¬ j.op < opConvert := by unfold opConvert; omega
  have hhigh : ¬ opBuild < j.op := by unfold opBuild; omega
  simp only [execPieceComplete, absorb_quiet h.landed, settle_uncut h.uncut, h.found, h.kind, builtinPiece, hb, hlow, hhigh, bne_self_eq_false,
    Bool.not_true, Bool.or_self, decide_false, Bool.false_eq_true, if_false]

/-- A read piece is written. -/
theorem pieceComplete_writes {d w : Bytes} (h : OnePiece s rill index j { num := 0, reads := 1, readsDone := 1, got := [(0, d)] }) (h2 : 2 ≤ j.op)
    (h4 : j.op ≤ 4) (hout : rillOutstanding s rill < 4096) (hhalf : (j.op == opMillReduce && millFmtIn j == 1) = false)
    (hw : pieceWrites j 0 d s = [(0, w)]) (h0 : 0 < w.length) (h1 : w.length ≤ 4096) :
    exec (.pieceComplete rill index 0) s = .next (writingFirst j w s) := by
  obtain ⟨hcut, hwith⟩ := uncut_found h.uncut h.found
  have hchunk : j.chunk 0 = some { num := 0, reads := 1, readsDone := 1, got := [(0, d)] } := by simp [Job.chunk, h.chunks]
  have hcount : pieceCount rill index 0 s = s := by simp [pieceCount, h.found, hchunk]
  have hbuild : (j.op == opBuild) = false := by unfold opBuild; simp; omega
  have hnext : ¬ j.next ≤ 0 := by rw [h.next]; omega
  have hcap : rillOutstanding s j.rill < 4096 := by rw [(findJob_named h.found).1]; exact hout
  have hwrite : pieceWrite rill index 0 s = writingFirst j w s := by
    simp only [pieceWrite, h.found, hchunk, hbuild, hcut, hwith, hnext, bne_self_eq_false, decide_false, Bool.or_self, Bool.false_eq_true, if_false]
    rw [gathered_one _ rfl, hw, issueWrites_one hhalf h0 h1 hcap]
  have hfound := writingFirst_found (w := w) h.found h.chunks rfl
  have htotal : pieceTotal (awaiting j { num := 0, reads := 1, readsDone := 1, got := [(0, d)] }) = 1 := pieceTotal_one (j := j) h.few h.one
  have hrest := builtinPump_rests hfound (htotal.le.trans h.next.ge) 4096
  rw [pieceComplete_eq h.toMillJob h.begun h2 (by omega), hcount, hwrite, hrest, builtinEnd_waits hfound (by simp [Job.outstanding, awaiting, writing])]

/-! ## A piece counted (R190, R248) -/

/-- A chunk counted. -/
def counting (c : Chunk) : Chunk := { c with counted := true }

/-- An operation whose only piece is counted. -/
def counted (j : Job) (c : Chunk) : Job := { j with chunks := [counting c], done := j.done + 1 }

/-- The state with the only piece counted and its mill free. -/
def countedFirst (rill index : Nat) (s : State) : State :=
  updJob rill index (fun j => { (j.updChunk 0 counting) with done := j.done + 1 }) (freePiece rill index 0 s)

theorem countedFirst_found {c : Chunk} (hj : findJob s rill index = some j) (hc : j.chunks = [c]) (hnum : c.num = 0) :
    findJob (countedFirst rill index s) rill index = some (counted j c) := by
  have hu := updChunk_steady 0 counting
  have h := findJob_updJob (s := freePiece rill index 0 s) hj (f := fun j => { (j.updChunk 0 counting) with done := j.done + 1 })
    (fun x => ⟨hu.rill x, hu.index x⟩)
  rw [← hnum, updChunk_only hc] at h
  rw [countedFirst, ← hnum]
  exact h

/-- An operation with all its pieces counted ends. -/
theorem builtinEnd_ends (hj : findJob s rill index = some j) (hb : j.begun = true) (ho : j.outstanding = 0) (hcut : j.cut = false ∧ j.withdrawn = false)
    (he : j.err = none) (hop : j.op ≠ 5) (hn : pieceTotal j ≤ j.next)
    (hdone : j.chunks.all (fun c => c.num == counterChunk || c.counted || c.failed) = true) :
    builtinEnd rill index s = finishJob j .ok j.detail false s := by
  have hbuild : (j.op == opBuild) = false := by simpa [opBuild] using hop
  rw [← endJob_ok hcut he]
  simp only [builtinEnd, hj, hb, ho, hcut.1, hcut.2, he, hbuild, hn, hdone, Option.isSome_none, Bool.not_true, bne_self_eq_false, Bool.or_self,
    Bool.false_eq_true, if_false, decide_true, Bool.and_self, if_true]

/-- A written piece ends its operation. -/
theorem pieceComplete_ends (h : OnePiece s rill index j { num := 0, reads := 1, readsDone := 1, issued := 1, landed := 1 }) (h2 : 2 ≤ j.op)
    (h4 : j.op ≤ 4) (hbuilds : j.builds = []) : Completes (.pieceComplete rill index 0) s (Ended j .ok s) := by
  obtain ⟨hcut, hwith⟩ := uncut_found h.uncut h.found
  have hchunk : j.chunk 0 = some { num := 0, reads := 1, readsDone := 1, issued := 1, landed := 1 } := by simp [Job.chunk, h.chunks]
  have hctr : (0 == counterChunk) = false := by decide
  have hcount : pieceCount rill index 0 s = countedFirst rill index s := by
    simp only [pieceCount, h.found, hchunk, hctr, hcut, hwith, h.counter, bne_self_eq_false, Bool.or_self, Nat.reduceBEq, Bool.false_and,
      Bool.false_eq_true, if_false, beq_self_eq_true, if_true]
    rfl
  have hfound := countedFirst_found h.found h.chunks rfl
  have hwrite : pieceWrite rill index 0 (countedFirst rill index s) = countedFirst rill index s := by
    simp [pieceWrite, hfound, Job.chunk, counted, counting]
  have htotal : pieceTotal (counted j { num := 0, reads := 1, readsDone := 1, issued := 1, landed := 1 }) ≤ j.next :=
    (pieceTotal_one (j := j) h.few h.one).le.trans h.next.ge
  have hrest := builtinPump_rests hfound htotal 4096
  have hend := builtinEnd_ends hfound h.begun rfl ⟨hcut, hwith⟩ h.clear (show j.op ≠ 5 by omega) htotal rfl
  have he : exec (.pieceComplete rill index 0) s = .next (builtinEnd rill index (countedFirst rill index s)) := by
    rw [pieceComplete_eq h.toMillJob h.begun h2 (by omega) 0, hcount, hwrite, hrest]
  refine ⟨_, he, ?_⟩
  rw [hend]
  exact finishJob_ends (j := counted j _) hbuilds .ok _ false rfl

/-! ## A codebook build ends (R258, R263) -/

/-- Of the rills' state, t differs from s in the epochs of the sources alone. -/
def SameJobs (s t : State) : Prop := ∃ es, t.rill = { s.rill with epochs := es }

theorem SameJobs.of_eq {t : State} (h : t.rill = s.rill) : SameJobs s t := ⟨s.rill.epochs, h⟩

theorem SameJobs.trans {t u : State} (h : SameJobs s t) (k : SameJobs t u) : SameJobs s u := by
  obtain ⟨es, he⟩ := h
  obtain ⟨fs, hf⟩ := k
  exact ⟨fs, by rw [hf, he]⟩

theorem engineWrite_sameJobs (party addr : Nat) (durable : Bool) (d : Bytes) (s : State) : SameJobs s (engineWrite party addr durable d s).2 := by
  have hcount : ∀ (off len : Nat) (t : State), (countRange party off len t).rill = t.rill := fun off len t =>
    rill_eq (countRange_keeps (g := .rill) rfl _ _ _ t (.refl _ t)) (countRange_keeps (g := .rillTable) rfl _ _ _ t (.refl _ t))
  have hstore : ∀ (r : Req) (off : Nat) (t : State), (storeBytes r off d t).2.rill = t.rill := fun r off t =>
    rill_eq (storeBytes_keeps (g := .rill) rfl _ _ _ t (.refl _ t)) (storeBytes_keeps (g := .rillTable) rfl _ _ _ t (.refl _ t))
  have hengine : ∀ (r : Req) (t : State), (engineStore r t).rill = t.rill := fun r t =>
    rill_eq (engineStore_keeps (g := .rill) rfl _ t (.refl _ t)) (engineStore_keeps (g := .rillTable) rfl _ t (.refl _ t))
  have hdur : ∀ (off : Nat) (t : State), (if durable then setDurMap off d.length t else t).rill = t.rill := fun off t => by split <;> rfl
  simp only [engineWrite]
  generalize ht : (if durable then setDurMap (addrOffset addr) d.length (countRange party (addrOffset addr) d.length s)
    else countRange party (addrOffset addr) d.length s) = t
  have hr : t.rill = s.rill := by rw [← ht, hdur, hcount]
  split
  · exact .of_eq (by rw [hstore, hr])
  · obtain ⟨es, he⟩ := inEpoch_rill
      { op := .store, addr, va := addr, len := d.length, data := d, party, origin := selfPair s party, durable, src := .engine } t
    exact ⟨es, by rw [hengine, he, hr]⟩

theorem writeArray_sameJobs (party k off : Nat) (d : Bytes) (s : State) : SameJobs s (writeArray party k off d s) := by
  unfold writeArray
  split
  · exact engineWrite_sameJobs ..
  · exact .of_eq rfl

theorem setSlot_sameJobs (k : Nat) (f : Slot → Slot) (s : State) : SameJobs s (setSlot k f s) := by
  unfold setSlot
  extract_lets t
  split
  · exact .of_eq rfl
  · exact (SameJobs.of_eq (t := t) rfl).trans (writeArray_sameJobs ..)

theorem goLive_sameJobs (party k dCode : Nat) (two : Bool) (b r : List Nat) (s : State) : SameJobs s (goLive party k dCode two b r s) := by
  unfold goLive
  dsimp only
  split
  · exact ((writeArray_sameJobs ..).trans (writeArray_sameJobs ..)).trans (setSlot_sameJobs ..)
  · exact (writeArray_sameJobs ..).trans (setSlot_sameJobs ..)

theorem slotOf_congr {t : State} (h : slotsPart t.shoal = slotsPart s.shoal) (k : Nat) : slotOf t k = slotOf s k := by
  have hs : t.shoal.slots = s.shoal.slots := (congrArg ShoalSt.slots h :)
  rw [slotOf, hs]
  rfl

theorem slotOf_writeArray (party n off : Nat) (d : Bytes) (s : State) (k : Nat) : slotOf (writeArray party n off d s) k = slotOf s k :=
  slotOf_congr (writeArray_keeps (g := .slots) rfl _ _ _ _ _ (.refl .slots s)) k

theorem slotOf_setSlot (k : Nat) (f : Slot → Slot) (s : State) : slotOf (setSlot k f s) k = f (slotOf s k) := by
  have h : slotOf (updSlot k f s) k = f (slotOf s k) := Tbl.get_upd_same ({} : Slot) s.shoal.slots k f
  unfold setSlot
  extract_lets t
  split
  · exact h
  · rw [slotOf_writeArray]
    exact h

/-- A slot as a build leaves it. -/
def builtSlot (dCode : Nat) (two : Bool) (b r : List Nat) (x : Slot) : Slot :=
  { x with state := .live, gen := (x.gen + 1) % 65536, dCode, two, book := b, resid := r }

theorem slotOf_goLive (party k dCode : Nat) (two : Bool) (b r : List Nat) (s : State) :
    slotOf (goLive party k dCode two b r s) k = builtSlot dCode two b r (slotOf s k) := by
  unfold goLive
  dsimp only
  rw [slotOf_setSlot]
  split
  · rw [slotOf_writeArray, slotOf_writeArray]
    rfl
  · rw [slotOf_writeArray]
    rfl

/-- References dropped leave of a slot all but their number. -/
theorem slotOf_dropRefs (l : List Nat) (s : State) (k : Nat) : ∃ n, slotOf (l.foldl (fun s k => dropRef k s) s) k = { slotOf s k with refs := n } := by
  refine keeps_foldl (P := fun t : State => ∃ n, slotOf t k = { slotOf s k with refs := n }) (k := fun s k => dropRef k s) (fun t x ⟨n, h⟩ => ?_) l s
    ⟨_, rfl⟩
  have hd : slotOf (dropRef x t) k = if k = x then { slotOf t x with refs := (slotOf t x).refs - 1 } else slotOf t k := by
    simp only [slotOf, dropRef, Tbl.get_upd]
  rw [hd]
  split
  · next he => exact ⟨_, by rw [← he, h]⟩
  · exact ⟨n, h⟩

/-- The state without a descriptor, nothing given back yet. -/
def ended (j : Job) (s : State) : State :=
  { s with
    rill := { s.rill with jobs := s.rill.jobs.filter (fun x => !(x.rill == j.rill && x.index == j.index)) }
    mills := s.mills.map (fun m => if m.2.job == some (j.rill, j.index) then (m.1, { m.2 with job := none, piece := none }) else m)
    attn := s.attn.filter (fun a => !(a.rill == j.rill && a.index == j.index))
    exch := { s.exch with runs := s.exch.runs.filter (fun a => !(a.rill == j.rill && a.index == j.index)) } }

/-- A build whose slot is LIVE ends: its slot stays so, but for the references it gives back. -/
theorem finishJob_build {k : Nat} (hb : j.builds = [k]) {t : State} (hlive : (slotOf t k).state = .live) (st : Status) (detail : Nat) :
    (finishJob j st detail false t).rill = { t.rill with
        jobs := t.rill.jobs.filter (fun x => !(x.rill == j.rill && x.index == j.index)), due := t.rill.due ++ [endRecord j st detail false] }
      ∧ ∃ n, slotOf (finishJob j st detail false t) k = { slotOf t k with refs := n } := by
  have hkeep : finishJob j st detail false t = finishJob { j with builds := [] } st detail false t := by
    simp only [finishJob, hb, List.foldl_cons, List.foldl_nil]
    obtain ⟨n, hn⟩ := slotOf_dropRefs j.slots (ended j t) k
    have hs : (slotOf (j.slots.foldl (fun s k => dropRef k s) (ended j t)) k).state = .live := by rw [hn]; exact hlive
    have hnot : ((slotOf (j.slots.foldl (fun s k => dropRef k s) (ended j t)) k).state == .building) = false := by rw [hs]; rfl
    exact congrArg (addDue _) (if_neg (ne_true_of_eq_false hnot))
  rw [hkeep]
  refine ⟨finishJob_rill (j := { j with builds := [] }) rfl st detail false t, ?_⟩
  exact slotOf_dropRefs j.slots (ended j t) k

/-- The state with a build's books in its slot, and its party's command answered. -/
def built (j : Job) (k : Nat) (b r : List Nat) (s : State) : State :=
  let t := goLive j.party k (encDCode j) (encTwo j) b r s
  if (Tbl.get {} t.shoal.ctl j.party).result == 1 then t else cbAnswer j.party k 0 0 t

theorem built_slot (k : Nat) (b r : List Nat) (s : State) : slotOf (built j k b r s) k = builtSlot (encDCode j) (encTwo j) b r (slotOf s k) := by
  have h := slotOf_goLive j.party k (encDCode j) (encTwo j) b r s
  unfold built
  extract_lets t
  split
  · exact h
  · exact h

theorem built_sameJobs (k : Nat) (b r : List Nat) (s : State) : SameJobs s (built j k b r s) := by
  have h := goLive_sameJobs j.party k (encDCode j) (encTwo j) b r s
  unfold built
  extract_lets t
  split
  · exact h
  · exact h

/-- A build with its whole sample read ends in its slot. -/
theorem buildFinish_built {k : Nat} {d : Bytes} {b r : List Nat} (hb : j.builds = [k]) (hk : encSlot j = k) (htotal : pieceTotal j = 1) {c : Chunk}
    (hc : j.chunk 0 = some c) (hd : gathered c = d) (hbooks : buildBooksOf (encDCode j) (encTwo j) (words16 (millCount j) d) = some (b, r))
    (hspan : spanBad s j.party .load .any (slotEntry s j.party k) 32768 = none) (hplaced : entryPlaced s j.party k = true) :
    ∃ detail, buildFinish j s = finishJob j .ok detail false (built j k b r s) := by
  have hsame : (encSlot j != k && (slotOf (goLive j.party k (encDCode j) (encTwo j) b r s) (encSlot j)).state == .live) = false := by simp [hk]
  refine ⟨at' k 32 + (slotOf (built j k b r s) k).gen, ?_⟩
  simp only [buildFinish, htotal, List.range_one, List.flatMap_cons, List.flatMap_nil, List.append_nil, hc, hd, hb, hbooks, endBuildSlot, hspan, hplaced,
    if_true, hsame, Bool.false_eq_true, if_false]
  rfl

/-- CODEBOOK_BUILD with its whole sample read. -/
theorem codebookBuild_ends {k : Nat} {d : Bytes} {b r : List Nat} (h : OnePiece s rill index j { num := 0, reads := 1, readsDone := 1, got := [(0, d)] })
    (hop : j.op = 5) (hb : j.builds = [k]) (hk : encSlot j = k)
    (hbooks : buildBooksOf (encDCode j) (encTwo j) (words16 (millCount j) d) = some (b, r))
    (hspan : spanBad s j.party .load .any (slotEntry s j.party k) 32768 = none) (hplaced : entryPlaced s j.party k = true) :
    ∃ detail, exec (.codebookBuild rill index) s = .next (finishJob j .ok detail false (built j k b r s)) := by
  obtain ⟨hcut, hwith⟩ := uncut_found h.uncut h.found
  have htotal : pieceTotal j = 1 := pieceTotal_one h.few h.one
  have hchunk : j.chunk 0 = some { num := 0, reads := 1, readsDone := 1, got := [(0, d)] } := by simp [Job.chunk, h.chunks]
  have hn : pieceTotal j ≤ j.next := htotal.le.trans h.next.ge
  have hzero : j.outstanding = 0 := by simp [Job.outstanding, h.chunks]
  obtain ⟨detail, hfinish⟩ := buildFinish_built hb hk htotal hchunk (gathered_one _ rfl) hbooks hspan hplaced
  have hend : builtinEnd rill index s = finishJob j .ok detail false (built j k b r s) := by
    rw [← hfinish]
    simp only [builtinEnd, h.found, h.begun, hzero, hcut, hwith, h.clear, hop, opBuild, h.counted, hn, Option.isSome_none, Bool.not_true,
      bne_self_eq_false, Bool.or_self, Bool.false_eq_true, if_false, beq_self_eq_true, decide_true, Bool.and_self, if_true]
  refine ⟨detail, ?_⟩
  show Host.Outcome.next (builtinStep opBuild rill index s) = _
  rw [show opBuild = j.op from hop.symm, builtinStep_eq h.toMillJob, h.begun, if_pos rfl, builtinPump_rests h.found hn, hend]

/-! ## RUN_TABLE (R233) -/

/-- Bytes of a descriptor's table. -/
def tableBytes (j : Job) : Nat := 16 * (bits (j.word 3) 0 8 + 1)

/-- A descriptor of RUN_TABLE that has taken no step runs on a mill, and nothing of its rill waits to be counted. -/
structure TableJob (s : State) (rill index m : Nat) (j : Job) : Prop where
  landed : NoLandings s
  uncut : Uncut s rill
  found : findJob s rill index = some j
  kind : j.kind = 1
  op : j.op = 1
  fresh : j.begun = false ∧ j.counterOk = false
  mill : millOfJob s rill index = some m

theorem runTable_unmapped {m : Nat} (h : TableJob s rill index m j) (hp : vpiece s j.ctx (j.word 2) = none) :
    runTable rill index s = finishJob j .faultUnmapped (operandDetail 0 0) false s := by
  obtain ⟨hcut, hwith⟩ := uncut_found h.uncut h.found
  obtain ⟨hb, hok⟩ := h.fresh
  simp only [runTable, absorb_quiet h.landed, settle_uncut h.uncut, h.found, h.mill, h.kind, h.op, opRunTable, hb, hok, hcut, hwith, hp,
    bne_self_eq_false, Bool.or_self, Bool.false_eq_true, if_false]

/-- The state with a table read and its pages counted. -/
def tableRead (rill index : Nat) (j : Job) (s : State) : State :=
  updJob rill index (fun j => { j with begun := true }) (countVirtual j.party j.ctx (j.word 2) (tableBytes j) s)

theorem runTable_begins {m : Nat} {p : Piece} {d : Bytes} (h : TableJob s rill index m j) (hp : vpiece s j.ctx (j.word 2) = some p)
    (ha : j.word 2 % 4096 = 0) (hcls : p.cls = .priv ∨ p.cls = .sharedRo) (hat : atHand s j.ctx (j.word 2) (tableBytes j) = true)
    (hread : vread s j.party j.ctx (j.word 2) (tableBytes j) = .ok d) : runTable rill index s = beginTable j m d (tableRead rill index j s) := by
  obtain ⟨hcut, hwith⟩ := uncut_found h.uncut h.found
  obtain ⟨hb, hok⟩ := h.fresh
  have hc : (p.cls == .priv || p.cls == .sharedRo) = true := by simpa using hcls
  unfold tableBytes at hat hread
  simp only [runTable, absorb_quiet h.landed, settle_uncut h.uncut, h.found, h.mill, h.kind, h.op, opRunTable, hb, hok, hcut, hwith, hp, ha, hc, hat,
    hread, bne_self_eq_false, Bool.not_true, Bool.or_self, Bool.false_eq_true, if_false, if_true]
  rfl

theorem tableRead_due : (tableRead rill index j s).rill.due = s.rill.due := by
  have h : (countVirtual j.party j.ctx (j.word 2) (tableBytes j) s).rill = s.rill :=
    rill_eq (countVirtual_keeps (g := .rill) rfl _ _ _ _ s (.refl _ s)) (countVirtual_keeps (g := .rillTable) rfl _ _ _ _ s (.refl _ s))
  show (countVirtual j.party j.ctx (j.word 2) (tableBytes j) s).rill.due = _
  rw [h]

theorem tableRead_mills : (tableRead rill index j s).mills = s.mills := countVirtual_keeps (g := .mills) rfl _ _ _ _ s (.refl .mills s)

theorem beginTable_bad {m : Nat} {d : Bytes} {t : State} (h : badStep (tableOf (bits (j.word 3) 0 8 + 1) d) ≠ none) :
    ∃ detail, beginTable j m d t = finishJob j .faultPermission detail false t := by
  obtain ⟨i, hi⟩ := Option.ne_none_iff_exists'.1 h
  exact ⟨stepDetail i 0, by simp only [beginTable, hi]⟩

theorem beginTable_good {m : Nat} {d : Bytes} {t : State} (h : badStep (tableOf (bits (j.word 3) 0 8 + 1) d) = none) :
    millOf (beginTable j m d t) m = { millOf t m with table := tableOf (bits (j.word 3) 0 8 + 1) d, pc := 0 }
      ∧ (beginTable j m d t).rill.due = t.rill.due := by
  simp only [beginTable, h]
  exact ⟨MillControl.millOf_updMill_same .., rfl⟩

end

/-! ## The statement -/

/-- Settles O35: each operation by where its loops rest after its step. -/
theorem builtInOperationsRun : Obligations.BuiltInOperationsRun := by
  unfold Obligations.BuiltInOperationsRun
  refine ⟨fun s rill index j h hb hbuilds h2 h5 => ⟨fun h0 hop => ?_, fun h0 hbad => ?_,
      fun p hbad h0 h1 hmx hpos hshort hn hc hout hothers hres hfree hp => ?_⟩,
    fun s rill index j c h h2 h4 hout => ⟨fun d w p hc h0 h1 => ⟨fun hop hmx hw hp => ?_, fun hop hf hw hp => ?_⟩, fun hc hbuilds => ?_⟩,
    fun s rill index k j d b r h hop hbuilds hk _ hbooks hspan hplaced => ?_,
    fun s rill index m j hl hu hj hk hop hb hok hbuilds hm => ⟨fun hp => ?_, fun p d hp ha hcls hnode hat hread => ⟨fun hgood => ?_, fun hbad => ?_⟩⟩⟩
  · exact builtIn_endsAtStart h hb hbuilds h2 h5 (builtinStart_empty h0 hop)
  · obtain ⟨k, hk⟩ := builtinBad_some (s := s) hbad
    exact builtIn_endsAtStart h hb hbuilds h2 h5 (builtinStart_refused h0 hk)
  · obtain ⟨t, he, hplaced, hrest⟩ := builtIn_begins h hb h2 h5 hbad ⟨h0, h1, hmx, rfl, hpos, hshort, hn, hc⟩ hout hothers hres hfree hp
    refine ⟨t, he, SluicePieces.placed_of_imp hplaced ?_, hrest⟩
    rintro q ⟨hqop, hqaddr, hqlen, -, -, hqorigin, hqsrc, hqcls⟩
    exact ⟨hqop, hqaddr, hqlen, hqorigin, hqcls, hqsrc⟩
  · subst hc
    have hop' : writeOp j = .store := by simp [writeOp, hop, opMillReduce]
    have hopf : writeFields j = 0#64 := by simp [writeFields, hop, opMillReduce]
    have hw' : pieceWrites j 0 d s = [(0, w)] := by rw [pieceWrites_convert hop hmx h.one, ← hw]
    refine ⟨_, pieceComplete_writes h h2 h4 hout (by simp [hop, opMillReduce]) hw' h0 h1,
      SluicePieces.placed_of_imp (firstWrite_placed h.toMillJob (by rw [hop', hopf]; exact hp)) ?_⟩
    rintro q ⟨hqop, hqaddr, hqdata, -, hqcls, hqsrc⟩
    exact ⟨hqop.trans hop', hqaddr, hqdata, hqcls, hqsrc⟩
  · subst hc hw
    have hop' : writeOp j = .reduce := by simp [writeOp, hop, opMillReduce]
    have hopf : writeFields j = BitVec.ofNat 64 (at' (bits (j.word 4) 62 2) 54) := by simp [writeFields, hop, opMillReduce]
    refine ⟨_, pieceComplete_writes h h2 h4 hout (by simp [hf]) (pieceWrites_reduce hop) h0 h1,
      SluicePieces.placed_of_imp (firstWrite_placed h.toMillJob (by rw [hop', hopf]; exact hp)) ?_⟩
    rintro q ⟨hqop, hqaddr, hqdata, hqopf, hqcls, hqsrc⟩
    exact ⟨hqop.trans hop', hqaddr, hqdata, hqopf.trans hopf, hqcls, hqsrc⟩
  · subst hc
    exact pieceComplete_ends h h2 h4 hbuilds
  · obtain ⟨detail, he⟩ := codebookBuild_ends h hop hbuilds hk hbooks hspan hplaced
    obtain ⟨hrill, n, hn⟩ := finishJob_build hbuilds (t := built j k b r s) (by rw [built_slot]; rfl) .ok detail
    obtain ⟨es, hes⟩ := built_sameJobs (j := j) (s := s) k b r
    obtain ⟨hr, hi⟩ := findJob_named h.found
    refine ⟨_, he, ?_, ⟨endRecord j .ok detail false, ?_, hr, hi, rfl, rfl⟩, ?_⟩
    · refine List.find?_eq_none.2 (fun x hx => ?_)
      rw [hrill, hr, hi] at hx
      have hne := (List.mem_filter.1 hx).2
      simp only [Bool.not_eq_true'] at hne
      rw [hne]
      exact Bool.false_ne_true
    · rw [hrill, hes]
    · rw [hn, built_slot]
      rfl
  · exact ⟨_, congrArg Host.Outcome.next (runTable_unmapped ⟨hl, hu, hj, hk, hop, ⟨hb, hok⟩, hm⟩ hp), finishJob_ends hbuilds _ _ _ rfl⟩
  · obtain ⟨hmill, hdue⟩ := beginTable_good (j := j) (m := m) (t := tableRead rill index j s) hgood
    refine ⟨_, congrArg Host.Outcome.next (runTable_begins ⟨hl, hu, hj, hk, hop, ⟨hb, hok⟩, hm⟩ hp ha hcls hat hread), ?_, hdue.trans tableRead_due⟩
    rw [hmill, millOf, tableRead_mills]
    rfl
  · obtain ⟨detail, he⟩ := beginTable_bad (j := j) (m := m) (t := tableRead rill index j s) hbad
    exact ⟨_, congrArg Host.Outcome.next ((runTable_begins ⟨hl, hu, hj, hk, hop, ⟨hb, hok⟩, hm⟩ hp ha hcls hat hread).trans he),
      finishJob_ends hbuilds _ _ _ tableRead_due⟩

end Sys2Proof.BuiltIns
end

section
/-!
The rill table, and what a rill's own reads depend on (R206, R207, R210, R219).
-/
namespace Sys2Proof.RillEntries

open Sys2Proof Sys2Proof.Machine Sys2Proof.Safety

/-! ## The table -/

@[simp] theorem rillOf_updRill (rill : Nat) (f : RillEnt → RillEnt) (s : State) : Machine.rillOf (updRill rill f s) rill = f (Machine.rillOf s rill) :=
  Tbl.get_upd_same ..

theorem rillOf_congr {s t : State} (h : t.rill.table = s.rill.table) (r : Nat) : Machine.rillOf t r = Machine.rillOf s r := by
  rw [Machine.rillOf, h, Machine.rillOf]

/-- An entry changed in another field than its kind leaves every rill its kind. -/
theorem kind_updRill (rill : Nat) {f : RillEnt → RillEnt} (hf : ∀ e, (f e).kind = e.kind) (s : State) (r : Nat) :
    (Machine.rillOf (updRill rill f s) r).kind = (Machine.rillOf s r).kind := by
  by_cases h : r = rill
  · rw [h, rillOf_updRill, hf]
  · rw [Machine.rillOf, updRill, Tbl.get_upd_other _ _ _ _ _ h, Machine.rillOf]

theorem put_put {α : Type} (k : Nat) (x : α) : ∀ t : Tbl α, Tbl.put (Tbl.put t k x) k x = Tbl.put t k x
  | [] => by simp [Tbl.put]
  | (j, y) :: t => by
    have ih := put_put k x t
    by_cases h1 : k < j
    · simp [Tbl.put, h1]
    · by_cases h2 : k = j
      · simp [Tbl.put, h2]
      · simp [Tbl.put, h1, h2, ih]

/-! ## What a rill's reads and commands leave beside -/

/-- t is s but for accesses counted, and for which rills are on chip and which tables are read. -/
def Aside (s t : State) : Prop :=
  ∃ l c ps, t = { s with store := { s.store with tier := l }, rill := { s.rill with cache := c, probes := ps } }

theorem Aside.refl (s : State) : Aside s s := ⟨_, _, _, rfl⟩

theorem Aside.trans {s t u : State} (h : Aside s t) (k : Aside t u) : Aside s u := by
  obtain ⟨_, _, _, rfl⟩ := h
  obtain ⟨l, c, ps, rfl⟩ := k
  exact ⟨l, c, ps, rfl⟩

theorem countRange_aside (party off len : Nat) (s : State) : Aside s (countRange party off len s) := by
  refine keeps_foldl (P := Aside s) (fun t page h => h.trans ?_) _ s (.refl s)
  unfold countAccess
  split
  · exact .refl t
  · exact ⟨_, _, _, rfl⟩

theorem countIf_aside (c : Prop) [Decidable c] (party off len : Nat) (s : State) : Aside s (if c then countRange party off len s else s) := by
  split
  · exact countRange_aside ..
  · exact .refl s

theorem touchEntry_aside (rill : Nat) (s : State) : Aside s (touchEntry rill s) := by
  unfold touchEntry
  split
  · exact ⟨_, _, _, rfl⟩
  · exact .refl s

theorem dropProbe_aside (rill : Nat) (s : State) : Aside s (dropProbe rill s) := ⟨_, _, _, rfl⟩

section
variable {s t : State} (h : Aside s t)
include h

theorem Aside.table : t.rill.table = s.rill.table := by obtain ⟨_, _, _, rfl⟩ := h; rfl
theorem Aside.jobs : t.rill.jobs = s.rill.jobs := by obtain ⟨_, _, _, rfl⟩ := h; rfl
theorem Aside.due : t.rill.due = s.rill.due := by obtain ⟨_, _, _, rfl⟩ := h; rfl
theorem Aside.firings : t.rill.firings = s.rill.firings := by obtain ⟨_, _, _, rfl⟩ := h; rfl
theorem Aside.rillOf : Machine.rillOf t = Machine.rillOf s := by obtain ⟨_, _, _, rfl⟩ := h; rfl
theorem Aside.inPrivate : inPrivate t = inPrivate s := by obtain ⟨_, _, _, rfl⟩ := h; rfl
theorem Aside.imageAddr : imageAddr t = imageAddr s := by obtain ⟨_, _, _, rfl⟩ := h; rfl
theorem Aside.imagePlaced : imagePlaced t = imagePlaced s := by obtain ⟨_, _, _, rfl⟩ := h; rfl
theorem Aside.shufelRead : shufelRead t = shufelRead s := by obtain ⟨_, _, _, rfl⟩ := h; rfl
theorem Aside.readParams : readParams t = readParams s := by obtain ⟨_, _, _, rfl⟩ := h; rfl
theorem Aside.paramsOk : paramsOk t = paramsOk s := by obtain ⟨_, _, _, rfl⟩ := h; rfl
theorem Aside.courseOk : courseOk t = courseOk s := by obtain ⟨_, _, _, rfl⟩ := h; rfl
theorem Aside.sequencersBound : sequencersBound t = sequencersBound s := by obtain ⟨_, _, _, rfl⟩ := h; rfl

end

/-! ## The parameter block (R210, R277) -/

/-- Whether a block is good depends on the kinds of the rills, and not on what is kept of a block. -/
theorem paramsOk_keep (party rill : Nat) (ws kept : List Nat) (s : State) :
    paramsOk (updRill rill (fun e => { e with params := kept, seqs := 0 }) s) party rill ws = paramsOk s party rill ws := by
  have hk := kind_updRill rill (f := fun e => { e with params := kept, seqs := 0 }) (fun _ => rfl) s
  simp only [paramsOk, groupParamOk, hk]
  rfl

/-- A good block that brings neither sequences nor a serving rill's graphs is kept, and nothing else changes but accesses counted. -/
theorem takeParams_good {s : State} {party rill : Nat} {ws : List Nat} (hread : readParams s party rill = some ws)
    (hok : paramsOk s party rill ws = true) (hk : (Machine.rillOf s rill).kind ≠ 2)
    (hserve : (Machine.rillOf s rill).kind = 4 → (searchParam ws).serving = false) :
    ∃ u, Aside s u ∧ takeParams party rill s = (some true, updRill rill (fun e => { e with params := ws, seqs := 0 }) u) := by
  have hu := countIf_aside (hasParams (Machine.rillOf s rill).kind = true) party (addrOffset (Machine.rillOf s rill).paramBase) 64 s
  refine ⟨_, hu, ?_⟩
  have hnot : ((Machine.rillOf s rill).kind == 4 && (searchParam ws).serving) = false := by
    by_cases h4 : (Machine.rillOf s rill).kind = 4 <;> simp [h4, hserve]
  simp only [takeParams, hu.readParams, hread, paramsOk_keep, hu.paramsOk, hok, beq_iff_eq, hk, hnot, Bool.not_true, Bool.false_eq_true, if_false]

/-- Only an ATTENTION rill's commands wait for a sequence table. -/
theorem withTable_other {s : State} {rill : Nat} (hk : (Machine.rillOf s rill).kind ≠ 2) (wait k : State → State) : withTable rill wait k s = k s := by
  unfold withTable
  dsimp only
  split
  · next h _ => exact absurd h hk
  · rfl

end Sys2Proof.RillEntries
end

section
/-!
The commands of a party to its rills (R208 to R211, R219). A command that is served runs on a state that differs from the one given only in
accesses counted and in the rills on chip; each command is said once by what it makes of the entry.
-/
namespace Sys2Proof.RillCommands

open Sys2Proof Sys2Proof.Machine Sys2Proof.Safety Sys2Proof.RillEntries

/-! ## Served, dropped or waiting (R206, R208, R219, R368) -/

section
variable {s : State} {p rill : Nat} (cmd : Nat)

theorem rillCommand_served (h : RillServed s p rill) : ∃ u, Aside s u ∧ rillCommand p cmd rill s = rillRun p cmd rill u := by
  refine ⟨touchEntry rill (dropProbe rill s), (dropProbe_aside rill s).trans (touchEntry_aside ..), ?_⟩
  simp [rillCommand, h.own, h.ready, h.idle, h.onChip]

theorem rillCommand_refused (h : ownsRill s p rill = false ∨ s.boot.ready = false) : (rillCommand p cmd rill s).rill = s.rill := by
  have hr : (!ownsRill s p rill || !s.boot.ready) = true := by simpa using h
  simp only [rillCommand, hr, if_true, logIgnored_rill]

theorem rillCommand_busy (ho : ownsRill s p rill = true) (hr : s.boot.ready = true) (hb : (Tbl.get {} s.rill.ctl p).result = 1) :
    rillCommand p cmd rill s = updCtl p (fun c => { c with cmdDrop := true }) s := by
  simp [rillCommand, ho, hr, hb]

theorem rillCommand_waits (ho : ownsRill s p rill = true) (hr : s.boot.ready = true) (hb : (Tbl.get {} s.rill.ctl p).result ≠ 1)
    (hc : rill ∉ s.rill.cache) :
    rillCommand p cmd rill s = updCtl p (fun c => { c with rill, result := 1, reason := 0, waiting := some (cmd, rill) }) s := by
  simp [rillCommand, ho, hr, hb, hc]

end

/-- A command of a party that is served has what its run has. -/
theorem completes_served {s : State} {p rill : Nat} (h : RillServed s p rill) {c : Instr} {cmd : Nat} (hc : exec c s = .next (rillCommand p cmd rill s))
    {P : State → Prop} (hP : ∀ u, Aside s u → P (rillRun p cmd rill u)) : Completes c s P := by
  obtain ⟨u, hu, hrun⟩ := rillCommand_served cmd h
  exact ⟨_, hc, hrun ▸ hP u hu⟩

theorem exec_rillCommand {s : State} {p : Fin 8} {rill : Nat} {c : Instr}
    (hc : c ∈ [Instr.configure p rill, .enable p rill, .disable p rill, .abort p rill, .rillQuery p rill]) :
    ∃ cmd, exec c s = .next (rillCommand p cmd rill s) := by
  simp only [List.mem_cons, List.not_mem_nil, or_false] at hc
  rcases hc with rfl | rfl | rfl | rfl | rfl
  exacts [⟨1, rfl⟩, ⟨2, rfl⟩, ⟨3, rfl⟩, ⟨4, rfl⟩, ⟨5, rfl⟩]

/-! ## RILL_STATUS (Table 08-4) -/

theorem rillAnswer_told (p rill result reason : Nat) (s : State) : Told (rillAnswer p rill result reason s) p rill result reason := by
  simp [Told, rillAnswer, updCtl, Machine.rillOf]

theorem rillOf_rillAnswer (p rill result reason : Nat) (s : State) (r : Nat) :
    Machine.rillOf (rillAnswer p rill result reason s) r = Machine.rillOf s r := rfl

theorem rillAnswer_jobs (p rill result reason : Nat) (s : State) : (rillAnswer p rill result reason s).rill.jobs = s.rill.jobs := rfl

theorem answered {s : State} {rill : Nat} {e : RillEnt} (h : Machine.rillOf s rill = e) (p result reason : Nat) :
    Machine.rillOf (rillAnswer p rill result reason s) rill = e ∧ Told (rillAnswer p rill result reason s) p rill result reason :=
  ⟨h, rillAnswer_told ..⟩

/-! ## CONFIGURE (R209) -/

section
variable {s : State} {p rill : Nat}

theorem configureNow_on (h : (Machine.rillOf s rill).state ≠ .off) : configureNow p rill s = rillAnswer p rill 2 1 s := by
  simp [configureNow, h, rillReject, rillReasonState]

theorem configureNow_misplaced (h : (Machine.rillOf s rill).state = .off) (hin : inPrivate s p (imageAddr s p rill) 128 = false) :
    configureNow p rill s = rillAnswer p rill 2 3 s := by
  rw [imageAddr] at hin
  simp [configureNow, h, hin, rillReject, rillReasonLocation]

/-- An image that can be read is judged by its fields, and then by what it points to. -/
theorem configureNow_read {d : Bytes} (h : (Machine.rillOf s rill).state = .off) (hin : inPrivate s p (imageAddr s p rill) 128 = true)
    (hread : shufelRead s p (imageAddr s p rill) 128 = (.ok, d)) : ∃ u, Aside s u ∧ configureNow p rill s =
      if !imageOk (words64 16 d) then rillAnswer p rill 2 2 u
      else if !imagePlaced s p (configured (Machine.rillOf s rill) (words64 16 d)) then rillAnswer p rill 2 3 u
      else rillAnswer p rill 0 0 (updRill rill (fun e => configured e (words64 16 d)) u) := by
  have hu := countRange_aside p (addrOffset (imageAddr s p rill)) 128 s
  refine ⟨_, hu, ?_⟩
  rw [← hu.imagePlaced]
  rw [imageAddr] at hin hread ⊢
  simp only [configureNow, h, hin, hread, bne_self_eq_false, Bool.not_true, Bool.false_eq_true, if_false]
  rfl

end

/-! ## ENABLE (R210) -/

/-- A rill of good parameters, with its course good and a sequencer left for it, becomes ACTIVE under the next generation. -/
theorem enableNow_starts {s : State} {p rill : Nat} {ws : List Nat} (hread : readParams s p rill = some ws) (hok : paramsOk s p rill ws = true)
    (hcourse : (Machine.rillOf s rill).courseCount = 0 ∨ sequencersBound s < 256 ∧ courseOk s rill = true) (hk : (Machine.rillOf s rill).kind ≠ 2)
    (hserve : (Machine.rillOf s rill).kind = 4 → (searchParam ws).serving = false) : let e := Machine.rillOf s rill
    let t := enableNow p rill s
    Machine.rillOf t rill = { e with params := ws, sequencer := decide (0 < e.courseCount), seqs := 0, state := .active, gen := (e.gen + 1) % 256, descHead := e.descTail, armed := false }
      ∧ Told t p rill 0 0 := by
  have hu := countIf_aside (0 < (Machine.rillOf s rill).courseCount) p (addrOffset (Machine.rillOf s rill).courseBase) (32 * (Machine.rillOf s rill).courseCount) s
  obtain ⟨v, hv, htake⟩ := takeParams_good (by rw [hu.readParams]; exact hread) (by rw [hu.paramsOk]; exact hok) (by rw [hu.rillOf]; exact hk)
    (by rw [hu.rillOf]; exact hserve)
  have hfree : (decide (0 < (Machine.rillOf s rill).courseCount) && decide (256 ≤ sequencersBound s)) = false := by
    rcases hcourse with h | h
    · simp [h]
    · simp [Nat.not_le.2 h.1]
  have hgood : (decide (0 < (Machine.rillOf s rill).courseCount) && !courseOk s rill) = false := by
    rcases hcourse with h | h
    · simp [h]
    · simp [h.2]
  have he : enableNow p rill s = rillAnswer p rill 0 0 (activate rill (updRill rill (fun e => { e with sequencer := 0 < e.courseCount })
      (updRill rill (fun e => { e with params := ws, seqs := 0 }) v))) := by
    simp only [enableNow, withTable_other hk, enableHere, hu.sequencersBound, hu.courseOk, hfree, hgood, htake, Bool.false_eq_true, if_false, if_true]
    rfl
  intro e t
  have hent : Machine.rillOf v rill = e := by rw [hv.rillOf, hu.rillOf]
  rw [show t = _ from he]
  exact answered (by rw [activate, rillOf_updRill, rillOf_updRill, rillOf_updRill, hent]) ..

/-! ## What ENABLE, DISABLE and ABORT do by the rill's state (R210, R211) -/

section
variable {s : State} {rill : Nat} (p : Nat)

theorem enable_off (h : (Machine.rillOf s rill).state = .off) : rillRun p 2 rill s = enableNow p rill s := by simp only [rillRun, h]

theorem enable_draining (h : (Machine.rillOf s rill).state = .draining) :
    rillRun p 2 rill s = rillAnswer p rill 0 0 (updRill rill (fun e => { e with state := .rearm }) s) := by simp only [rillRun, h, rillDone]

theorem enable_faulted (h : (Machine.rillOf s rill).state = .faulted) : rillRun p 2 rill s = rillAnswer p rill 2 1 s := by
  simp only [rillRun, h, rillReject, rillReasonState]

theorem enable_enabled (h : (Machine.rillOf s rill).state = .active ∨ (Machine.rillOf s rill).state = .rearm) :
    rillRun p 2 rill s = rillAnswer p rill 0 0 s := by
  rcases h with h | h <;> simp only [rillRun, h, rillDone]

theorem disable_on (h : (Machine.rillOf s rill).state = .active ∨ (Machine.rillOf s rill).state = .faulted) :
    rillRun p 3 rill s = rillAnswer p rill 0 0 (drainRill rill s) := by
  rcases h with h | h <;> simp only [rillRun, disableRill, h, rillDone]

theorem disable_rearm (h : (Machine.rillOf s rill).state = .rearm) :
    rillRun p 3 rill s = rillAnswer p rill 0 0 (updRill rill (fun e => { e with state := .draining }) s) := by
  simp only [rillRun, disableRill, h, rillDone]

theorem abort_active (h : (Machine.rillOf s rill).state = .active) :
    rillRun p 4 rill s = rillAnswer p rill 0 0 (cutRunning rill (drainRill rill s)) := by
  simp only [rillRun, abortRill, disableRill, h, rillDone]

end

/-! ## A rill that drains (R211) -/

/-- The record of a descriptor of a generation that is cancelled before it starts. -/
def cancelRecord (rill gen : Nat) (st : Status) (s : State) (i : Nat) : RecDue :=
  let ws := (readDesc s rill i).getD []
  { rill, index := i, status := st, gen, userTag := ws.getD 1 0, notify := bit (ws.getD 0 0) 54, started := false }

/-- The records of every descriptor of a rill that has not started. -/
def cancelRecords (rill : Nat) (st : Status) (s : State) : List RecDue :=
  (indicesTo (Machine.rillOf s rill).descHead (Machine.rillOf s rill).descTail).map (cancelRecord rill (Machine.rillOf s rill).gen st s)

/-- Every descriptor not started has its record due, and the ring is empty. -/
theorem cancelUnstarted_eq (rill : Nat) (st : Status) (s : State) : cancelUnstarted rill st s =
    updRill rill (fun e => { e with descHead := e.descTail }) { s with rill := { s.rill with due := s.rill.due ++ cancelRecords rill st s } } := by
  have hfold : ∀ (gen : Nat) (is : List Nat) (due : List RecDue),
      is.foldl (fun t i => addDue (cancelRecord rill gen st t i) t) { s with rill := { s.rill with due } }
        = { s with rill := { s.rill with due := due ++ is.map (cancelRecord rill gen st s) } } := by
    intro gen is
    induction is with
    | nil => intro due; simp only [List.foldl_nil, List.map_nil, List.append_nil]
    | cons i is ih =>
      intro due
      rw [List.foldl_cons, List.map_cons, List.append_cons]
      exact ih (due ++ [cancelRecord rill gen st s i])
  exact congrArg (updRill rill _) (hfold (Machine.rillOf s rill).gen _ s.rill.due)

theorem drainRill_usable {s : State} {rill : Nat} (h : (Machine.rillOf s rill).fault ≠ faultCompWrite) :
    Machine.rillOf (drainRill rill s) rill = { Machine.rillOf s rill with descHead := (Machine.rillOf s rill).descTail, state := .draining, fault := 0 }
    ∧ (drainRill rill s).rill.due = s.rill.due ++ cancelRecords rill .cancelled s := by
  have hu : ((Machine.rillOf s rill).fault != faultCompWrite) = true := by simpa using h
  simp only [drainRill, hu, if_true, cancelUnstarted_eq, rillOf_updRill]
  exact ⟨rfl, rfl⟩

/-- A rill that leaves ACTIVE or FAULTED is DRAINING, and keeps what runs of it. -/
theorem drainRill_keeps (rill : Nat) (s : State) : (Machine.rillOf (drainRill rill s) rill).state = .draining
    ∧ (drainRill rill s).rill.jobs = s.rill.jobs ∧ (drainRill rill s).rill.firings = s.rill.firings := by
  refine ⟨by rw [drainRill, rillOf_updRill], ?_⟩
  unfold drainRill
  dsimp only
  split
  · rw [cancelUnstarted_eq]
    exact ⟨rfl, rfl⟩
  · exact ⟨rfl, rfl⟩

theorem drainRill_cancels {s : State} {rill : Nat} (h : (Machine.rillOf s rill).fault ≠ faultCompWrite) :
    ∃ ds, (drainRill rill s).rill.due = s.rill.due ++ ds ∧ ds.map (·.index) = indicesTo (Machine.rillOf s rill).descHead (Machine.rillOf s rill).descTail
      ∧ ∀ d ∈ ds, d.rill = rill ∧ d.status = .cancelled ∧ d.started = false := by
  refine ⟨_, (drainRill_usable h).2, ?_, fun d hd => ?_⟩
  · rw [cancelRecords, List.map_map]
    exact List.map_id _
  · obtain ⟨i, -, rfl⟩ := List.mem_map.1 hd
    exact ⟨rfl, rfl, rfl⟩

theorem eddyFlush_rill (hit : XferId → Nat → Bool) (s : State) : (eddyFlush hit s).rill = s.rill :=
  rill_eq (eddyFlush_keeps (g := .rill) rfl hit s (.refl _ s)) (eddyFlush_keeps (g := .rillTable) rfl hit s (.refl _ s))

/-- With no firing on the node there is none to cut. -/
theorem cutFirings_none {s : State} (h : s.rill.firings = []) (hit : Firing → Bool) (st : Status) : (cutFirings hit st s).rill = s.rill := by
  simp only [cutFirings, h, List.filter_nil, List.map_nil, List.foldl_nil]
  rw [← h]

/-- A descriptor cut, where it is of a rill. -/
def cutOf (rill : Nat) (j : Job) : Job := if j.rill == rill then { j with cut := true } else j

/-- The running descriptors of a rill cut. -/
def cutJobs (rill : Nat) (s : State) : State := { s with rill := { s.rill with jobs := s.rill.jobs.map (cutOf rill) } }

theorem cutRunning_eq (rill : Nat) (s : State) : cutRunning rill s =
    settle rill (cutFirings (fun f => f.rill == rill && firingExpands (cutJobs rill s) f) .cancelled (eddyFlush (fun x _ => x.rill == rill) (cutJobs rill s))) := rfl

/-- No descriptor of a rill ends while each of them has requests outstanding. -/
theorem settle_outstanding {s : State} {rill : Nat} (h : ∀ j ∈ s.rill.jobs, j.rill = rill → j.outstanding ≠ 0) : settle rill s = s := by
  have hnone : s.rill.jobs.filter (fun j => j.rill == rill && (j.cut || j.withdrawn) && j.outstanding == 0 && !millBusy s j.rill j.index
      && !expanding s j) = [] := List.filter_eq_nil_iff.2 (fun j hj => by
    by_cases hr : j.rill = rill
    · simp [h j hj hr]
    · simp [hr])
  rw [settle, hnone, List.foldl_nil]

theorem cutJobs_outstanding {s : State} {rill : Nat} (h : ∀ j ∈ s.rill.jobs, j.rill = rill → j.outstanding ≠ 0) :
    ∀ j ∈ (cutJobs rill s).rill.jobs, j.rill = rill → j.outstanding ≠ 0 := by
  intro j hj hr
  obtain ⟨x, hx, rfl⟩ := List.mem_map.1 hj
  unfold cutOf at hr ⊢
  split at hr
  · next hc =>
    rw [if_pos hc]
    exact h x hx (by simpa using hc)
  · next hc => exact absurd hr (by simpa using hc)

/-- Running descriptors that have requests outstanding are cut and run on. -/
theorem cutRunning_running {s : State} {rill : Nat} (h : ∀ j ∈ s.rill.jobs, j.rill = rill → j.outstanding ≠ 0) (hf : s.rill.firings = []) :
    (cutRunning rill s).rill = (cutJobs rill s).rill := by
  have hcut : ∀ hit flush, (cutFirings hit .cancelled (eddyFlush flush (cutJobs rill s))).rill = (cutJobs rill s).rill := fun hit flush =>
    (cutFirings_none (by rw [eddyFlush_rill]; exact hf) ..).trans (eddyFlush_rill ..)
  rw [cutRunning_eq, settle_outstanding (by rw [hcut]; exact cutJobs_outstanding h), hcut]

/-! ## The statement -/

/-- Settles O31: a command that is served by what its run makes of the entry, and the others by what the command registers take. -/
theorem rillCommandsChangeRills : Obligations.RillCommandsChangeRills := by
  unfold Obligations.RillCommandsChangeRills
  intro s p rill
  dsimp only
  refine ⟨fun h => ⟨fun hon => ?_, fun hoff hin => ?_, fun hoff hin d hread => ⟨fun hbad => ?_, fun hgood hplaced => ?_⟩,
    fun hoff ws hread hok hcourse hk hserve => ?_, fun hdrain => ?_, fun hfault => ?_, fun hrun => ?_, fun hrun hcomp => ?_, fun hrearm => ?_,
    fun hact hout hfire => ?_, ?_⟩, fun c hc => ?_⟩
  · refine completes_served h rfl (fun u hu => ?_)
    rw [rillRun, configureNow_on (hu.rillOf ▸ hon)]
    exact answered (congrFun hu.rillOf rill) ..
  · refine completes_served h rfl (fun u hu => ?_)
    rw [rillRun, configureNow_misplaced (hu.rillOf ▸ hoff) (hu.imageAddr ▸ hu.inPrivate ▸ hin)]
    exact answered (congrFun hu.rillOf rill) ..
  · refine completes_served h rfl (fun u hu => ?_)
    obtain ⟨v, hv, hrun⟩ := configureNow_read (hu.rillOf ▸ hoff) (hu.imageAddr ▸ hu.inPrivate ▸ hin) (hu.imageAddr ▸ hu.shufelRead ▸ hread)
    simp only [hbad, Bool.not_false, if_true] at hrun
    rw [rillRun, hrun]
    exact answered (congrFun (hu.trans hv).rillOf rill) ..
  · refine completes_served h rfl (fun u hu => ?_)
    obtain ⟨v, hv, hrun⟩ := configureNow_read (hu.rillOf ▸ hoff) (hu.imageAddr ▸ hu.inPrivate ▸ hin) (hu.imageAddr ▸ hu.shufelRead ▸ hread)
    simp only [hgood, hu.imagePlaced, hu.rillOf, hplaced, Bool.not_true, Bool.false_eq_true, if_false] at hrun
    rw [rillRun, hrun]
    exact answered (by rw [rillOf_updRill, (hu.trans hv).rillOf]) ..
  · refine completes_served h rfl (fun u hu => ?_)
    have hen := enableNow_starts (s := u) (p := p) (rill := rill) (ws := ws) (hu.readParams ▸ hread) (hu.paramsOk ▸ hok)
      (hu.rillOf ▸ hu.sequencersBound ▸ hu.courseOk ▸ hcourse) (hu.rillOf ▸ hk) (hu.rillOf ▸ hserve)
    rw [hu.rillOf] at hen
    rw [enable_off _ (hu.rillOf ▸ hoff)]
    exact hen.symm
  · refine completes_served h rfl (fun u hu => ?_)
    rw [enable_draining _ (hu.rillOf ▸ hdrain)]
    exact answered (by rw [rillOf_updRill, hu.rillOf]) ..
  · refine completes_served h rfl (fun u hu => ?_)
    rw [enable_faulted _ (hu.rillOf ▸ hfault)]
    exact answered (congrFun hu.rillOf rill) ..
  · refine completes_served h rfl (fun u hu => ?_)
    rw [enable_enabled _ (hu.rillOf ▸ hrun)]
    exact answered (congrFun hu.rillOf rill) ..
  · refine completes_served h rfl (fun u hu => ?_)
    obtain ⟨hent, -⟩ := drainRill_usable (s := u) (hu.rillOf ▸ hcomp)
    obtain ⟨ds, hdue, hidx, hall⟩ := drainRill_cancels (s := u) (hu.rillOf ▸ hcomp)
    rw [hu.rillOf] at hent hidx
    rw [hu.due] at hdue
    rw [disable_on _ (hu.rillOf ▸ hrun)]
    exact ⟨rillAnswer_told .., hent, ds, hdue, hidx, hall⟩
  · refine completes_served h rfl (fun u hu => ?_)
    rw [disable_rearm _ (hu.rillOf ▸ hrearm)]
    exact answered (by rw [rillOf_updRill, hu.rillOf]) ..
  · refine completes_served h rfl (fun u hu => ?_)
    obtain ⟨hstate, hjobs, hfirings⟩ := drainRill_keeps rill u
    have hcut := cutRunning_running (s := drainRill rill u) (rill := rill) (by rw [hjobs, hu.jobs]; exact hout) (by rw [hfirings, hu.firings]; exact hfire)
    rw [abort_active _ (hu.rillOf ▸ hact)]
    refine ⟨rillAnswer_told .., ?_, ?_⟩
    · rw [rillOf_rillAnswer, rillOf_congr (by rw [hcut]; rfl : _ = (drainRill rill u).rill.table), hstate]
    · rw [rillAnswer_jobs, hcut, cutJobs, hjobs, hu.jobs]
      exact List.map_congr_left (fun j _ => by simp only [cutOf, beq_iff_eq])
  · refine completes_served h (cmd := 5) rfl (fun u hu => ?_)
    exact ⟨rillAnswer_told .., hu.table, hu.jobs⟩
  · obtain ⟨cmd, he⟩ := exec_rillCommand hc
    refine ⟨fun hno => ⟨_, he, rillCommand_refused cmd hno⟩, fun ho hr hb => ⟨_, he, ?_⟩, fun ho hr hb hoff => ⟨_, he, ?_⟩⟩
    · rw [rillCommand_busy cmd ho hr hb]
      exact ⟨rfl, by simp [updCtl]⟩
    · rw [rillCommand_waits cmd ho hr hb hoff]
      exact ⟨rfl, by simp [updCtl], cmd, by simp [updCtl]⟩

end Sys2Proof.RillCommands
end

section
/-!
The life of a descriptor apart from its work (R214 to R219): the doorbell that posts it, its start, its completion record, and the drain of
its rill.
-/
namespace Sys2Proof.DescriptorRuns

open Sys2Proof Sys2Proof.Machine Sys2Proof.Safety Sys2Proof.RillEntries Sys2Proof.LostOwners Sys2Proof.RillSteps Sys2Proof.KeysAndRelease

/-! ## Faults (R212) -/

theorem faultRill_active {s : State} {rill : Nat} (h : (Machine.rillOf s rill).state = .active) (cause : Nat) :
    Machine.rillOf (faultRill rill cause s) rill = { Machine.rillOf s rill with state := .faulted, fault := cause } := by
  simp only [faultRill, h, beq_self_eq_true, if_true]
  rw [rillOf_congr (congrArg RillGroup.table (logEv_rill ..)), rillOf_updRill]

/-- A fault of a rill writes nothing, and leaves the records due and the sources' epochs. -/
theorem faultRill_keepsRecords (rill cause : Nat) (s : State) : (faultRill rill cause s).store = s.store
    ∧ (faultRill rill cause s).rill.due = s.rill.due ∧ (faultRill rill cause s).rill.epochs = s.rill.epochs := by
  unfold faultRill
  split
  · rw [logEv_store, logEv_rill]
    exact ⟨rfl, rfl, rfl⟩
  · exact ⟨rfl, rfl, rfl⟩

/-! ## Doorbells (R214, R215, R219) -/

/-- An entry with the fields of a doorbell. -/
def rung (e : RillEnt) (tail head : Nat) : RillEnt := { e with descTail := tail, compHead := head }

/-- A doorbell that an ACTIVE rill's rings have room for. -/
structure Posts (e : RillEnt) (tail head : Nat) : Prop where
  active : e.state = .active
  kind : e.kind ≠ 5
  descs : (tail + 65536 - e.descHead) % 65536 ≤ 2 ^ e.descLog2
  records : recordsOpen (rung e tail head) ≤ 2 ^ e.compLog2

theorem ringBell_posts {s : State} {rill tail head : Nat} (h : Posts (Machine.rillOf s rill) tail head) : ringBell rill tail head s =
    updRill rill (fun e => rung e tail head) { s with rill := { s.rill with pending := insertNat rill s.rill.pending } } := by
  have hrec := h.records
  simp only [rung, recordsOpen] at hrec
  simp only [ringBell, h.active, rillOf_updRill, recordsOpen, Bool.or_eq_true, decide_eq_true_eq, Nat.not_lt.2 h.descs, Nat.not_lt.2 hrec, or_self,
    bne_self_eq_false, beq_iff_eq, h.kind, Bool.false_eq_true, if_false]
  rfl

section
variable {s : State} {p : Nat} {v : W64}

theorem doorbell_refused (h : ownsRill s p (field v 0 16) = false ∨ s.boot.ready = false) : (doorbell p v s).2.rill = s.rill := by
  unfold doorbell
  by_cases ho : ownsRill s p (field v 0 16) = true
  · have hr : s.boot.ready = false := h.resolve_left (by simp [ho])
    simp [ho, hr]
  · simp [ho]

theorem doorbell_rings (ho : ownsRill s p (field v 0 16) = true) (hr : s.boot.ready = true) (hc : field v 0 16 ∈ s.rill.cache) :
    (doorbell p v s).2 = ringBell (field v 0 16) (field v 48 16) (field v 32 16) (touchEntry (field v 0 16) s) := by
  simp [doorbell, ho, hr, hc]

theorem doorbell_waits (ho : ownsRill s p (field v 0 16) = true) (hr : s.boot.ready = true) (hc : field v 0 16 ∉ s.rill.cache) :
    (doorbell p v s).2 = { s with rill := { s.rill with bells := Tbl.put s.rill.bells (field v 0 16) (field v 48 16, field v 32 16)
                                                        pending := insertNat (field v 0 16) s.rill.pending } } := by
  simp [doorbell, ho, hr, hc]

end

/-- Landed requests counted change descriptors, firings and the reads of sequence tables. -/
theorem absorb_counts (s : State) : ∃ l js fs ps,
    absorb s = { s with weir := { s.weir with landed := l }, rill := { s.rill with jobs := js, firings := fs, probes := ps } } := by
  rw [absorb_eq]
  refine keeps_foldl (P := fun t => ∃ l js fs ps,
    t = { s with weir := { s.weir with landed := l }, rill := { s.rill with jobs := js, firings := fs, probes := ps } }) ?_ _ _ ?_
  · rintro _ x ⟨l, js, fs, ps, rfl⟩
    unfold RillSteps.countLanded
    split
    · split
      · exact ⟨_, _, _, _, rfl⟩
      · exact ⟨_, _, _, _, rfl⟩
    · exact ⟨_, _, _, _, rfl⟩
    · exact ⟨_, _, _, _, rfl⟩
  · exact ⟨_, _, _, _, rfl⟩

/-- The entry of a rill brought on chip, its doorbell taken up. -/
def broughtIn (rill : Nat) (s : State) : State :=
  { s with rill := { s.rill with cache := rill :: s.rill.cache, bells := Tbl.del s.rill.bells rill, pending := removeNat rill s.rill.pending } }

/-- A rill whose share of the cache has room comes on chip. -/
theorem fetchEntry_room {s : State} {rill : Nat} (hc : rill ∉ s.rill.cache)
    (hroom : (s.rill.cache.filter (fun r => !isSealed s || rillParty s r == rillParty s rill)).length < cacheShare s (rillParty s rill)) :
    fetchEntry rill s = some { s with rill := { s.rill with cache := rill :: s.rill.cache } } := by
  have hno : s.rill.cache.contains rill = false := by simpa using hc
  simp only [fetchEntry, hno, Bool.false_eq_true, if_false, hroom, if_true]

/-- A rill that a doorbell waits for, with room left in its share, comes on chip, and the doorbell is taken. -/
theorem rillCacheFill_rings {s : State} {rill tail head : Nat} (hbell : Tbl.find s.rill.bells rill = some (tail, head)) (hc : rill ∉ s.rill.cache)
    (hw : ∀ c ∈ s.rill.ctl, c.2.waiting = none)
    (hroom : (s.rill.cache.filter (fun r => !isSealed s || rillParty s r == rillParty s rill)).length < cacheShare s (rillParty s rill)) :
    ∃ u, u.rill.table = s.rill.table ∧ u.rill.cache = rill :: s.rill.cache ∧ u.rill.bells = Tbl.del s.rill.bells rill
      ∧ rillCacheFill rill s = ringBell rill tail head u := by
  obtain ⟨l, js, fs, ps, habs⟩ := absorb_counts s
  have hfetch : fetchEntry rill (absorb s) = some { absorb s with rill := { (absorb s).rill with cache := rill :: (absorb s).rill.cache } } :=
    fetchEntry_room (by rw [habs]; exact hc) (by rw [habs]; exact hroom)
  have hcmds : (absorb s).rill.ctl.filterMap (fun c => c.2.waiting.bind (fun w => if w.2 == rill then some (c.1, w.1) else none)) = [] :=
    List.filterMap_eq_nil_iff.2 (fun c hc => by
      rw [habs] at hc
      rw [hw c hc, Option.bind_none])
  have hfind : Tbl.find (absorb s).rill.bells rill = some (tail, head) := by rw [habs]; exact hbell
  refine ⟨broughtIn rill (absorb s), by rw [habs]; rfl, by rw [habs]; rfl, by rw [habs]; rfl, ?_⟩
  simp only [rillCacheFill, hcmds, hfind, hfetch, Option.isNone_some, Bool.false_and, Bool.false_eq_true, if_false, List.foldl_nil]
  rfl

/-! ## Starts (R212, R215) -/

section
variable {s : State} {rill : Nat} (h : MayStart s rill)
include h

/-- With its slot at hand the next descriptor starts at once. -/
theorem startNext_may : startNext rill s = descriptorStart rill s := by
  simp only [startNext, atRest, onceHere, h.here, List.isEmpty_nil, if_true]

/-- Nothing of its ring keeps the next descriptor from starting. -/
theorem mayStart_due : ((Machine.rillOf s rill).state != .active || !s.rill.cache.contains rill
    || (Machine.rillOf s rill).descHead == (Machine.rillOf s rill).descTail || (Machine.rillOf s rill).kind == 5
    || decide (2 ^ (Machine.rillOf s rill).compLog2 ≤ recordsOpen (Machine.rillOf s rill) + slotsHeld s rill)) = false := by
  simp [h.active, h.onChip, h.posted, h.kind, Nat.not_le.2 h.room]

theorem startPlan_unread (hread : readDesc s rill (Machine.rillOf s rill).descHead = none) : startPlan s rill = .fault := by
  simp only [startPlan, mayStart_due h, hread, Bool.false_eq_true, if_false]

/-- A COPY rill's next descriptor names no sequences, and waits only for its fence and for the limit of running copies. -/
theorem startPlan_may {ws : List Nat} (hread : readDesc s rill (Machine.rillOf s rill).descHead = some ws)
    (hfence : bit (nth 0 ws 0) 55 = true → (Machine.rillOf s rill).running = 0 ∧ ∀ d ∈ s.rill.due, d.rill ≠ rill) : startPlan s rill =
      if !opDefined 0 (bits (nth 0 ws 0) 56 8) then .bad (nextJob s rill ws) .faultPermission 0
      else if 64 ≤ s.rill.jobs.countP (fun x => x.kind == 0) then .nothing else .ready (nextJob s rill ws) 0 := by
  have hwait : (bit (nth 0 ws 0) 55 && ((Machine.rillOf s rill).running != 0 || s.rill.due.any (fun d => d.rill == rill && !d.course))) = false := by
    by_cases hb : bit (nth 0 ws 0) 55 = true
    · obtain ⟨hrun, hdue⟩ := hfence hb
      have hany : s.rill.due.any (fun d => d.rill == rill && !d.course) = false :=
        List.any_eq_false.2 (fun d hd => by simp [hdue d hd])
      simp [hrun, hany]
    · simp [hb]
  have hnames : namedSeqs s (nextJob s rill ws) = [] := by
    have hk : (nextJob s rill ws).kind = 0 := h.kind
    simp only [namedSeqs, hk]
  simp only [startPlan, mayStart_due h, hread, hnames, hwait, Bool.false_eq_true, if_false]
  simp only [h.kind, beq_self_eq_true, if_true]
  rfl

end

/-- The descriptor taken: its ring goes on, and what runs and what is due stay. -/
theorem takeDesc_taken (rill : Nat) (s : State) : Machine.rillOf (takeDesc rill s) rill = taken (Machine.rillOf s rill)
    ∧ (takeDesc rill s).rill.jobs = s.rill.jobs ∧ (takeDesc rill s).rill.due = s.rill.due := by
  have hent : Machine.rillOf (updRill rill (fun e => { e with descHead := (e.descHead + 1) % 65536, running := e.running + 1 }) (touchEntry rill s)) rill
      = taken (Machine.rillOf s rill) := by
    rw [rillOf_updRill, (touchEntry_aside rill s).rillOf]
    rfl
  have hjobs := (touchEntry_aside rill s).jobs
  have hdue := (touchEntry_aside rill s).due
  unfold takeDesc
  dsimp only
  split
  · exact ⟨hent, hjobs, hdue⟩
  · exact ⟨hent, hjobs, hdue⟩

/-- A descriptor that names no slot begins with its job alone. -/
theorem beginDesc_plain {j : Job} (hk : j.kind ≠ 1) (rill : Nat) (s : State) : beginDesc rill j 0 s = putJob j (takeDesc rill s) := by
  simp only [beginDesc, takeMills, holdNamed, beq_eq_false_iff_ne.2 hk, Bool.false_and, beq_self_eq_true, Bool.false_eq_true, if_false, if_true]

/-- The read of a rill's next descriptor counted. -/
def descRead (rill : Nat) (s : State) : State :=
  let e := Machine.rillOf s rill
  countRange (rillParty s rill) (addrOffset (e.descBase + 64 * (e.descHead % 2 ^ e.descLog2))) 64 s

section
variable {s : State} {rill : Nat} (hl : NoLandings s)
include hl

theorem descriptorStart_ready {j : Job} (hp : startPlan s rill = .ready j 0) :
    descriptorStart rill s = beginDesc rill j 0 (descRead rill s) := by
  simp only [descriptorStart, absorb_quiet hl, hp, beq_self_eq_true, Bool.true_or, if_true]
  rfl

theorem descriptorStart_bad {j : Job} {st : Status} {detail : Nat} (hp : startPlan s rill = .bad j st detail) :
    descriptorStart rill s = finishJob j st detail false (takeDesc rill (descRead rill s)) := by
  simp only [descriptorStart, absorb_quiet hl, hp]
  rfl

theorem descriptorStart_fault (hp : startPlan s rill = .fault) : descriptorStart rill s = faultRill rill faultDescRead s := by
  simp only [descriptorStart, absorb_quiet hl, hp]

end

theorem putJob_rill (j : Job) (s : State) : (putJob j s).rill = { s.rill with jobs := s.rill.jobs ++ [j] } := rfl

section
variable {s : State} {rill : Nat} (h : MayStart s rill) {ws : List Nat} (hread : readDesc s rill (Machine.rillOf s rill).descHead = some ws)
  (hfence : bit (nth 0 ws 0) 55 = true → (Machine.rillOf s rill).running = 0 ∧ ∀ d ∈ s.rill.due, d.rill ≠ rill)
include h hread hfence

/-- A COPY descriptor's job runs. -/
theorem descriptorStart_copy (hop : bits (nth 0 ws 0) 56 8 = 1) (hfew : s.rill.jobs.countP (fun x => x.kind == 0) < 64) :
    Machine.rillOf (descriptorStart rill s) rill = taken (Machine.rillOf s rill)
    ∧ (descriptorStart rill s).rill.jobs = s.rill.jobs ++ [nextJob s rill ws] := by
  have hplan := startPlan_may h hread hfence
  rw [hop, if_neg (by decide), if_neg (by omega)] at hplan
  have hu : Aside s (descRead rill s) := countRange_aside ..
  obtain ⟨hent, hjobs, -⟩ := takeDesc_taken rill (descRead rill s)
  have hk : (nextJob s rill ws).kind ≠ 1 := by simp [show (nextJob s rill ws).kind = 0 from h.kind]
  rw [descriptorStart_ready h.landed hplan, beginDesc_plain hk, putJob_rill]
  refine ⟨?_, by rw [hjobs, hu.jobs]⟩
  rw [rillOf_congr (s := takeDesc rill (descRead rill s)) (by rw [putJob_rill]), hent, hu.rillOf]

/-- An undefined operation is taken and ends at once. -/
theorem descriptorStart_undefined (hop : bits (nth 0 ws 0) 56 8 ≠ 1) :
    Machine.rillOf (descriptorStart rill s) rill = taken (Machine.rillOf s rill)
    ∧ (∀ j ∈ (descriptorStart rill s).rill.jobs, j ∈ s.rill.jobs)
    ∧ (descriptorStart rill s).rill.due = s.rill.due ++ [endRecord (nextJob s rill ws) .faultPermission 0 false] := by
  have hplan := startPlan_may h hread hfence
  rw [if_pos (by simp [opDefined, hop])] at hplan
  have hu : Aside s (descRead rill s) := countRange_aside ..
  obtain ⟨hent, hjobs, hdue⟩ := takeDesc_taken rill (descRead rill s)
  have hfin := finishJob_rill (j := nextJob s rill ws) rfl .faultPermission 0 false (takeDesc rill (descRead rill s))
  rw [descriptorStart_bad h.landed hplan]
  refine ⟨?_, fun j hj => ?_, ?_⟩
  · rw [rillOf_congr (s := takeDesc rill (descRead rill s)) (by rw [hfin]), hent, hu.rillOf]
  · rw [hfin] at hj
    rw [← hu.jobs, ← hjobs]
    exact (List.mem_filter.1 hj).1
  · rw [hfin, hdue, hu.due]

end

/-! ## Records (R174, R217) -/

/-- A write of the engine changes nothing of the rills but that the engine's epoch is entered. -/
theorem shufelWrite_rill (party addr : Nat) (data : Bytes) (s : State) :
    (shufelWrite party addr false data s).2.rill = s.rill
    ∨ (shufelWrite party addr false data s).2.rill = { s.rill with epochs := Tbl.put s.rill.epochs engineKey (Tbl.get 0 s.rill.epochs engineKey) } := by
  have hcount : ∀ (off len : Nat) (t : State), (countRange party off len t).rill = t.rill := fun off len t =>
    rill_eq (countRange_keeps (g := .rill) rfl party off len t (.refl _ t)) (countRange_keeps (g := .rillTable) rfl party off len t (.refl _ t))
  have hstore : ∀ r off d t, (storeBytes r off d t).2.rill = t.rill := fun r off d t =>
    rill_eq (storeBytes_keeps (g := .rill) rfl r off d t (.refl _ t)) (storeBytes_keeps (g := .rillTable) rfl r off d t (.refl _ t))
  have hwait : ∀ r t, (engineStore r t).rill = t.rill := fun r t =>
    rill_eq (engineStore_keeps (g := .rill) rfl r t (.refl _ t)) (engineStore_keeps (g := .rillTable) rfl r t (.refl _ t))
  unfold shufelWrite shufelWrite.writeAs
  split
  · exact .inl rfl
  · unfold engineWrite
    simp only [Bool.false_eq_true, if_false]
    split
    · exact .inl (by rw [hstore, hcount])
    · refine .inr ?_
      rw [hwait]
      simp only [inEpoch, epochKey, hcount]
      rfl

/-- A due record of a rill whose engine may write goes out at once. -/
theorem completionRecord_writes {s : State} {rill index : Nat} {d : RecDue} (hl : NoLandings s) (hu : Uncut s rill)
    (hd : s.rill.due.find? (fun d => d.rill == rill && d.index == index) = some d)
    (hroom : recordsOpen (Machine.rillOf s rill) < 2 ^ (Machine.rillOf s rill).compLog2) (hcall : mayCall s engineKey = true)
    (hfree : engineBusy s (rillParty s rill) = false)
    (hrest : restless s true ((Machine.rillOf s rill).compBase + 32 * ((Machine.rillOf s rill).compTail % 2 ^ (Machine.rillOf s rill).compLog2)) 32 = []) :
    execCompletionRecord rill index s = .next (writeRecord d s) := by
  simp only [execCompletionRecord, absorb_quiet hl, settle_uncut hu, hd, hroom, hcall, hfree, decide_true, Bool.not_false, Bool.and_true,
    if_true, atRest, onceHere, hrest, List.isEmpty_nil]

/-- The state in which a due record is written: it is due no longer, and the engine's next epoch is open. -/
def recordTaken (d : RecDue) (s : State) : State :=
  { s with rill := { s.rill with due := s.rill.due.erase d
                                 epochs := Tbl.put s.rill.epochs engineKey ((Tbl.get 0 s.rill.epochs engineKey + 1) % 256) } }

/-- The entry of a rill one of whose records is written: its descriptor runs no longer. -/
def endedOne (d : RecDue) (e : RillEnt) : RillEnt := { e with running := if d.started then e.running - 1 else e.running }

/-- Where the record of a rill goes. -/
def recordAddr (e : RillEnt) : Nat := e.compBase + 32 * (e.compTail % 2 ^ e.compLog2)

section
variable {s z : State} {d : RecDue} {st : Status}

/-- A write of the engine leaves the rills as the record taken left them. -/
theorem recordTaken_write {party addr : Nat} {data : Bytes} (hw : shufelWrite party addr false data (recordTaken d s) = (st, z)) :
    z.rill = (recordTaken d s).rill := by
  have h := shufelWrite_rill party addr data (recordTaken d s)
  rw [hw] at h
  refine h.elim id (fun h => h.trans ?_)
  simp only [recordTaken, Tbl.get_put_same, put_put]

theorem writeRecord_eq (hw : shufelWrite (rillParty s d.rill) (recordAddr (Machine.rillOf s d.rill)) false
      (bytes64 (recordWords s (Machine.rillOf s d.rill) d)) (recordTaken d s) = (st, z)) : writeRecord d s =
    if st ≠ .ok then faultRill d.rill faultCompWrite (updRill d.rill (endedOne d) z)
    else
      let v := updRill d.rill (fun e => { e with compTail := (e.compTail + 1) % 65536 }) (updRill d.rill (endedOne d) z)
      if (Machine.rillOf s d.rill).notifyEn && d.notify && decide (rillParty s d.rill < 2) then
        emit (.msix (rillParty s d.rill) (Machine.rillOf s d.rill).msixVec) v
      else v := by
  have hw' : shufelWrite (rillParty s d.rill) (recordAddr (Machine.rillOf s d.rill)) false
      (bytes64 (recordWords (recordTaken d s) (Machine.rillOf s d.rill) d)) (recordTaken d s) = (st, z) := hw
  rw [recordTaken, recordAddr] at hw'
  simp only [writeRecord, hw', bne_iff_ne]
  rfl

/-- A record written: the ring goes on, and a host's rill that is to notify does. -/
theorem writeRecord_ok (hw : shufelWrite (rillParty s d.rill) (recordAddr (Machine.rillOf s d.rill)) false
      (bytes64 (recordWords s (Machine.rillOf s d.rill) d)) (recordTaken d s) = (.ok, z)) : let e := Machine.rillOf s d.rill; let t := writeRecord d s
    t.store = z.store ∧ t.rill.due = s.rill.due.erase d ∧ t.rill.epochs = (recordTaken d s).rill.epochs
    ∧ Machine.rillOf t d.rill = { endedOne d e with compTail := (e.compTail + 1) % 65536 }
    ∧ (e.notifyEn = true → d.notify = true → rillParty s d.rill < 2 → t.out = z.out ++ [.msix (rillParty s d.rill) e.msixVec]) := by
  have hz := recordTaken_write hw
  have hent : Machine.rillOf z d.rill = Machine.rillOf s d.rill := rillOf_congr (congrArg RillGroup.table hz) _
  have hdue : z.rill.due = s.rill.due.erase d := congrArg RillGroup.due hz
  have hepochs : z.rill.epochs = (recordTaken d s).rill.epochs := congrArg RillGroup.epochs hz
  intro e t
  have hv : Machine.rillOf (updRill d.rill (fun e => { e with compTail := (e.compTail + 1) % 65536 }) (updRill d.rill (endedOne d) z)) d.rill =
      { endedOne d e with compTail := (e.compTail + 1) % 65536 } := by
    rw [rillOf_updRill, rillOf_updRill, hent]
    rfl
  rw [show t = _ from writeRecord_eq hw, if_neg (by simp)]
  dsimp only
  split
  · exact ⟨rfl, hdue, hepochs, hv, fun _ _ _ => rfl⟩
  · next hno => exact ⟨rfl, hdue, hepochs, hv, fun hn hd hp => absurd (by simp [hd, hp, show (Machine.rillOf s d.rill).notifyEn = true from hn]) hno⟩

/-- A record that cannot be written faults an ACTIVE rill. -/
theorem writeRecord_failed (hw : shufelWrite (rillParty s d.rill) (recordAddr (Machine.rillOf s d.rill)) false
      (bytes64 (recordWords s (Machine.rillOf s d.rill) d)) (recordTaken d s) = (st, z)) (hst : st ≠ .ok) : let e := Machine.rillOf s d.rill
    let t := writeRecord d s
    t.store = z.store ∧ t.rill.due = s.rill.due.erase d ∧ t.rill.epochs = (recordTaken d s).rill.epochs
    ∧ (e.state = .active → Machine.rillOf t d.rill = { endedOne d e with state := .faulted, fault := 2 }) := by
  have hz := recordTaken_write hw
  have hent : Machine.rillOf (updRill d.rill (endedOne d) z) d.rill = endedOne d (Machine.rillOf s d.rill) := by
    rw [rillOf_updRill, rillOf_congr (congrArg RillGroup.table hz)]
    rfl
  obtain ⟨hstore, hdue, hepochs⟩ := faultRill_keepsRecords d.rill faultCompWrite (updRill d.rill (endedOne d) z)
  intro e t
  rw [show t = _ from writeRecord_eq hw, if_pos hst]
  refine ⟨hstore, hdue.trans (congrArg RillGroup.due hz), hepochs.trans (show z.rill.epochs = _ by rw [hz]), fun hact => ?_⟩
  rw [faultRill_active (by rw [hent]; exact hact), hent]
  rfl

end

/-! ## Drains (R211, R277) -/

/-- A rill of which nothing is left to be counted, ended or written. -/
structure Drained (s : State) (rill : Nat) : Prop where
  landed : NoLandings s
  jobs : ∀ j ∈ s.rill.jobs, j.rill ≠ rill
  due : ∀ d ∈ s.rill.due, d.rill ≠ rill
  firings : ∀ f ∈ s.rill.firings, f.rill ≠ rill
  running : (Machine.rillOf s rill).running = 0

/-- With nothing left of it, a DRAINING rill goes OFF, and a rearmed one starts anew. -/
theorem drainComplete_done {s : State} {rill : Nat} (h : Drained s rill) :
    ((Machine.rillOf s rill).state = .draining → drainComplete rill s =
      updRill rill (fun e => { e with state := .off, sequencer := false, seqs := 0 }) s)
    ∧ ((Machine.rillOf s rill).state = .rearm → drainComplete rill s = rearmNow rill s) := by
  have hj : s.rill.jobs.any (fun j => j.rill == rill) = false := List.any_eq_false.2 (fun j hj => by simp [h.jobs j hj])
  have hd : s.rill.due.any (fun d => d.rill == rill) = false := List.any_eq_false.2 (fun d hd => by simp [h.due d hd])
  have hf : s.rill.firings.any (fun f => f.rill == rill) = false := List.any_eq_false.2 (fun f hf => by simp [h.firings f hf])
  constructor <;> intro hstate <;>
    simp only [drainComplete, absorb_quiet h.landed, settle_uncut (fun j hj hr => absurd hr (h.jobs j hj)), h.running, hj, hd, hf, hstate,
      bne_self_eq_false, Bool.or_false, Bool.false_eq_true, if_false]

/-- A rill with a good block is ACTIVE again under the next generation. -/
theorem rearmNow_starts {s : State} {rill : Nat} {ws : List Nat} (hread : readParams s (rillParty s rill) rill = some ws)
    (hok : paramsOk s (rillParty s rill) rill ws = true) (hk : (Machine.rillOf s rill).kind ≠ 2)
    (hserve : (Machine.rillOf s rill).kind = 4 → (searchParam ws).serving = false) : let e := Machine.rillOf s rill
    Machine.rillOf (rearmNow rill s) rill =
      { e with params := ws, seqs := 0, state := .active, gen := (e.gen + 1) % 256, descHead := e.descTail, armed := false } := by
  obtain ⟨u, hu, htake⟩ := takeParams_good hread hok hk hserve
  simp only [rearmNow, withTable_other hk, htake, activate, rillOf_updRill, hu.rillOf]

/-! ## The statement -/

/-- Settles O32: doorbells by the entry with their fields, a start by its plan, a record by its write, and a drain by what is left of the rill. -/
theorem descriptorsStartAndComplete : Obligations.DescriptorsStartAndComplete := by
  unfold Obligations.DescriptorsStartAndComplete
  refine ⟨fun s p v => ?_, fun s rill tail head => ?_, fun s rill h => ?_, fun s rill index d => ?_, fun s rill => ?_⟩
  all_goals dsimp only
  · refine ⟨fun hno => ⟨_, rfl, doorbell_refused hno⟩, fun ho hr hc hact hk hd hrec => ⟨_, rfl, ?_⟩, fun ho hr hc => ⟨_, rfl, ?_⟩⟩
    · have hu := touchEntry_aside (field v 0 16) s
      have hposts : Posts (Machine.rillOf (touchEntry (field v 0 16) s) (field v 0 16)) (field v 48 16) (field v 32 16) := by
        rw [hu.rillOf]
        exact ⟨hact, hk, hd, hrec⟩
      rw [doorbell_rings ho hr hc, ringBell_posts hposts]
      refine ⟨?_, by simp, hu.jobs⟩
      rw [rillOf_updRill]
      exact congrArg (rung · _ _) (congrFun hu.rillOf _)
    · rw [doorbell_waits ho hr hc]
      exact ⟨by simp [Tbl.find_put], by simp, rfl⟩
  · intro hbell hc hw hroom hact hk hd hrec
    obtain ⟨u, htable, hcache, hbells, hfill⟩ := rillCacheFill_rings hbell hc hw hroom
    have hent : Machine.rillOf u rill = Machine.rillOf s rill := rillOf_congr htable rill
    have hposts : Posts (Machine.rillOf u rill) tail head := by
      rw [hent]
      exact ⟨hact, hk, hd, hrec⟩
    refine ⟨_, rfl, ?_⟩
    rw [hfill, ringBell_posts hposts]
    refine ⟨hcache, ?_, ?_, by simp⟩
    · refine (congrArg (Tbl.find · rill) hbells).trans ?_
      rw [find_del, if_pos rfl]
    · rw [rillOf_updRill]
      exact congrArg (rung · _ _) hent
  · have he : exec (.descriptorStart rill) s = .next (descriptorStart rill s) := congrArg Host.Outcome.next (startNext_may h)
    refine ⟨fun ws hread hfence => ⟨fun hop hfew => ⟨_, he, ?_⟩, fun hop => ⟨_, he, ?_⟩⟩, fun hread => ⟨_, he, ?_⟩⟩
    · obtain ⟨hent, hjobs⟩ := descriptorStart_copy h hread hfence hop hfew
      exact ⟨hent, nextJob s rill ws, hjobs, rfl, rfl, h.kind, rfl, rfl, rfl, rfl⟩
    · obtain ⟨hent, hjobs, hdue⟩ := descriptorStart_undefined h hread hfence hop
      exact ⟨hent, hjobs, endRecord (nextJob s rill ws) .faultPermission 0 false, hdue, rfl, rfl, rfl, rfl⟩
    · rw [descriptorStart_fault h.landed (startPlan_unread h hread)]
      exact faultRill_active h.active _
  · intro hl hu hd hroom hcall hfree hrest st z hw
    obtain ⟨hrill, -⟩ : d.rill = rill ∧ d.index = index := by simpa using List.find?_some hd
    have he := completionRecord_writes hl hu hd hroom hcall hfree hrest
    subst hrill
    refine ⟨_, he, ?_⟩
    by_cases hst : st = .ok
    · subst hst
      obtain ⟨hstore, hdue, hepochs, hent, hout⟩ := writeRecord_ok hw
      exact ⟨hstore, hdue, hepochs, fun _ => ⟨hent, hout⟩, fun hno => absurd rfl hno⟩
    · obtain ⟨hstore, hdue, hepochs, hent⟩ := writeRecord_failed hw hst
      exact ⟨hstore, hdue, hepochs, fun hok => absurd hok hst, fun _ => hent⟩
  · intro hl hj hdue hf hrun
    obtain ⟨hoff, hrearm⟩ := drainComplete_done ⟨hl, hj, hdue, hf, hrun⟩
    refine ⟨fun hstate => ⟨_, congrArg Host.Outcome.next (hoff hstate), rillOf_updRill ..⟩,
      fun hstate ws hread hok hk hserve => ⟨_, congrArg Host.Outcome.next (hrearm hstate), rearmNow_starts hread hok hk hserve⟩⟩

end Sys2Proof.DescriptorRuns
end

section
/-!
Reach updates of a rill whose firing shares its identity with a firing of another rill (R221). A firing's requests are issued under its
identity, so an ADVANCE then issues requests of the other rill's firing too, and both firings count them.
-/
namespace Sys2Proof.ReachTwins

open Sys2Proof Sys2Proof.Machine Sys2Proof.Safety

/-! ## The state -/

/-- A firing of party 2 with identity 0 that moves one tile, none of its requests issued. -/
def twin (rill : Nat) (err : Option (Nat × Status)) : Firing :=
  { id := 0, rill, entry := 0, target := 0, party := 2, action := 2, format := 0, src := 0, dst := 0, len := 4096, err }

/-- An armed rill at position 3 of a course of two entries in laps of 32. -/
def courseRill : RillEnt := { state := .active, armed := true, courseBase := 4096, courseCount := 2, lapLenM1 := 31, reach := 3 }

/-- Backed space with a range entry that maps the first 64 KiB to themselves, and with the course of the rill: its first entry moves the
tile at 32768 from position 10 on, for position 14, and its second entry is due at position 20. -/
def courseBytes : Memory :=
  [(0, 0xE0#8), (1, 0x08#8), (8, 15#8), (4099, 32#8), (4100, 4#8), (4102, 14#8), (4105, 128#8), (4131, 32#8), (4134, 20#8)]

/-- Rill 4 of party 2 on its course, its earlier firing failed, and a firing of rill 5 under the same identity still to be issued. -/
def twins : State :=
  { State.reset with
    hw := { parties := (List.replicate 8 {}).set 2 { rillFirst := 4, rillCount := 2 }
            slice := { extents := [{ start := 0, units := 16, owner := .single ⟨0, 2⟩, cls := .priv, permRead := true, permWrite := true }] } }
    store := { mem := courseBytes, tier := [(0, { state := .plain })] }
    party := [(2, { inForce := [(0, { base := 0, count := 1, gen := 0 })] })]
    rill := { table := [(4, courseRill)], cache := [4], nextFiring := 1, firings := [twin 5 none, twin 4 (some (0, .cancelled))] } }

/-- ADVANCE of rill 4 to position 10. -/
def toTen : W64 := BitVec.ofNat 64 (4 + 10 * 2 ^ 32)

/-- The tile's only piece. -/
def tile : Piece := { addr := 32768, va := 32768, len := 4096, cls := .priv, coding := .plain, durable := false }

/-! ## It meets what the statement asks -/

theorem twins_advances : Advances twins 2 4 10 := ⟨⟨by decide, by decide, by decide⟩, by decide, by decide, by decide⟩

theorem twins_earlier : ∀ f ∈ twins.rill.firings, f.id < twins.rill.nextFiring
    ∧ (f.rill = 4 → f.action = 3 ∨ f.err.isSome = true ∨ f.len / 4096 ≤ f.next) := by decide

theorem twins_tile : GoesHome twins 0 (rillParty twins 4) (Machine.rillOf twins 4).asid (ctxOf twins (rillParty twins 4) (Machine.rillOf twins 4).asid)
    (readCourse twins 4 0).2.src 4096 .load 0#64 tile :=
  ⟨by decide, by decide, by decide, ⟨by decide, fun _ hc => nomatch hc⟩, by decide⟩

/-! ## What ADVANCE makes of it -/

/-- Both firings of the identity have counted the request of rill 5's, as the new one has its own. -/
theorem twins_fire : ∃ t, exec (.advance 2 toTen) twins = .next t ∧ t.rill.firings.map (·.next) = [1, 1, 1] := ⟨_, rfl, by decide⟩

/-! ## The statement -/

/-- Refutes O34: the clause on a due entry leaves earlier firings as they were, but it lets a firing of another rill have the identity of an
earlier firing of this rill. ADVANCE issues requests of the rill's firings by their identities, and so the other rill's firing is issued:
in `twins` the firings before the new one have issued nothing, and after the ADVANCE each of them counts a request. -/
theorem not_tideCountsAndReachFires : ¬ Obligations.TideCountsAndReachFires := by
  unfold Obligations.TideCountsAndReachFires
  rintro ⟨-, -, -, hreach, -⟩
  obtain ⟨-, -, -, -, hdue⟩ := hreach twins 2 toTen
  have hfires := (hdue twins_advances (readCourse twins 4 0).2 (readCourse twins 4 1).2 (by decide) (by decide) (by decide) (by decide) (by decide)
    (by decide) (by decide)).2 (by decide) (by decide) (by decide) (by decide) (.inl (by decide)) (by decide) twins_earlier
    (fun _ ho => nomatch ho) tile twins_tile
  obtain ⟨t, ht, -, -, ⟨f, hf, -⟩, -⟩ := hfires
  obtain ⟨u, hu, hnext⟩ := twins_fire
  obtain rfl : t = u := by
    rw [ht] at hu
    exact Host.Outcome.next.inj hu
  rw [hf] at hnext
  simp [twins, twin] at hnext

end Sys2Proof.ReachTwins
end
